-- ==== Sys2Proof/Word.lean ====
section
/-! DEFINITION. Word sizes, and the sparse table the state is built of: a list of (key, value) pairs with rising keys. -/
namespace Sys2Proof

/-- One byte of the Square, of a lane's scratch, or of a host buffer. -/
abbrev Byte := BitVec 8
/-- A set-up register word (R487). -/
abbrev W32 := BitVec 32
/-- A word register of a stream (R58, Table 3-1). -/
abbrev W64 := BitVec 64

/-- A sparse table: pairs in rising order of key, each key at most once. -/
abbrev Tab (α : Type) := List (Nat × α)

/-- A sparse map from Square addresses to bytes, as a cycle's stores hold it. -/
abbrev Ovl := Tab Byte

end Sys2Proof
end

