-- ==== Sys2Proof/Syntax.lean ====
section
/-! DEFINITION. The commands of one CFM-9600 as data: one constructor per row of the opcode table, with their operands. -/
namespace Sys2Proof

/-- A task number (R6: 256 tasks). -/
abbrev TaskNo := Fin 256
/-- A lane number (R8: 96 lanes). -/
abbrev LaneNo := Fin 96
/-- A quarter (R8). -/
abbrev Quarter := Fin 6
/-- A stream of a task (R29: at most 14). -/
abbrev StreamNo := Fin 14
/-- A remote station (R6). -/
abbrev StationNo := Fin 4096
/-- A tag ID with its top byte clear (R67). -/
abbrev Tag24 := BitVec 24

/-- An access path to the set-up window (R484): a management-port connection, or queue pair 0 of a host session. -/
inductive Path where
  | mgmt (c : Fin 8)
  | queue (sess : Fin 8193)
deriving DecidableEq, Repr

/-- The number a path has in KRB_IGNPATH (Table 19-7). -/
def Path.code : Path → Nat
  | .mgmt c => c.val
  | .queue n => 0x8000 + n.val

/-- Which execution of a task a stream belongs to: the real cycle, a speculative run (R121), or the Follower's audit (R203). -/
inductive Ctx where
  | real | spec | audit
deriving DecidableEq, Repr

/-- The key of an execution in the table of runs. -/
def Ctx.key (c : Ctx) (t : Nat) : Nat :=
  match c with
  | .real => t
  | .spec => 256 + t
  | .audit => 512 + t

/-- One stream of one execution of one task. -/
structure Strm where
  task : TaskNo
  stream : StreamNo
  ctx : Ctx
deriving DecidableEq, Repr

/-- What has befallen the DRAM and the page-map banks since the last base tick: symbols in error of a 64-byte unit, as the page stood at a CSN (R165; 32
data and 4 check symbols); the numbers of bits in error of a page's entry in the two banks of the page map (R170); or a 64-byte unit of a record that
waits in the Arcade's staging area, struck beyond correction (Table 7-2). -/
inductive HwErr where
  | cell (unit : BitVec 34) (csn : Nat) (symbols : List (Fin 36))
  | map (page : BitVec 28) (bank0 bank1 : Fin 4)
  | staged (event : Bool) (seq unit : Nat)
deriving DecidableEq, Repr

/-- What a device answers to one of the reads of a live read (R146 to R148): its register's value, a value it has moved to, or nothing
within 4,000 lane clocks. -/
inductive LiveAns where
  | same | changed (v : W64) | silent
deriving DecidableEq, Repr

/-- What the hardware and the plant contribute to one FLX instruction: the item of Table 6-2 in
which its two copies mismatch, whether a pending ACU change already governs its accesses (R187 leaves that open before the barrier), whether
a live read was in flight when its stream was told to stop (R96), and the answers of the shadow read and of the replay's two reads of a live read. -/
structure Env where
  item : Option (Fin 16)
  newRules : Bool
  inFlight : Bool
  prim : LiveAns
  shad : LiveAns
  prim2 : LiveAns
  shad2 : LiveAns
deriving DecidableEq, Repr

/-- Nothing unusual happens. -/
def Env.quiet : Env := ⟨none, false, false, .same, .same, .same, .same⟩

/-! ## The configuration package, as the data the loader reads (R239; the manual gives no byte layout of a package) -/

/-- What activates an event task beside SETEV and commands (R42): an edge on a universal channel of a seat, a frame of a CAN mapping, an
event of a station, or an edge on a timing input. -/
inductive Trigger where
  | edge (seat : Bool) (ch : Fin 32)
  | can (seat : Bool) (port : Fin 8) (map : Nat)
  | station (sta : StationNo) (pos : Nat)
  | tio (seat : Bool) (n : Nat)
deriving DecidableEq, Repr

/-- One task of a program: Tables 2-9 and 2-10, its streams' first instructions, its images (R175), the ranges of its audit supplement
(R202), and the tags of the objects it reads (R315). -/
structure TaskDef where
  no : TaskNo
  kind : BitVec 2
  period : Nat
  prio : BitVec 4
  phase : Nat
  lanes : Nat
  quarter : Nat
  safety : Bool
  spec : Bool
  outmode : Bool
  policy : Bool
  entries : List Nat
  scratch : List Nat
  hasLive : Bool
  modesets : List (BitVec 4)
  inputs : List Nat
  outputs : List Nat
  plainReadFirst : Bool
  inBase : Nat
  inStat : Nat
  outBase : Nat
  outStat : Nat
  specLead : BitVec 16
  minHit : Nat
  confMode : Bool
  backoff : BitVec 4
  dataSets : List Nat
  suppl : List (Nat × Nat)
  triggers : List Trigger
  reads : List Tag24
deriving DecidableEq, Repr

/-- One variable: its tag, its place, and its class (Tables 2-5 and 7-3). -/
structure VarDef where
  tag : Tag24
  ty : BitVec 4
  addr : Nat
  size : Nat
  cls : BitVec 2
  safe : Bool
  writers : List TaskNo
deriving DecidableEq, Repr

/-- One historised tag (R423): where its value and status stand, its deadband at its type, its intervals in ns, and for a signal the one
task at whose commits it is sampled. -/
structure HistDef where
  tag : Tag24
  ty : BitVec 4
  addr : Nat
  stat : Option Nat
  signal : Option Nat
  task : TaskNo
  db : Nat
  minInt : Nat
  maxInt : Nat
deriving DecidableEq, Repr

/-- A seat: false A, true B (R191). -/
abbrev Seat := Bool

/-- Where a process signal stands outside the Square (R31, Table 2-2): a channel of a seat's field I/O block, a safety function, a CAN
mapping, or a position of a station's, a connection's or a peer's data set. -/
inductive SigSrc where
  | dio (seat : Seat) (ch : Fin 32)
  | count (seat : Seat) (ch : Fin 32)
  | fn (f : Fin 4096)
  | ai (seat : Seat) (ch : Fin 16)
  | ao (seat : Seat) (ch : Fin 8)
  | aoStatus (seat : Seat) (ch : Fin 8)
  | hart (seat : Seat) (dev : Nat) (var : Nat)
  | can (seat : Seat) (port : Fin 8) (map : Nat)
  | station (sta : StationNo) (pos : Nat)
  | fsl (conn : Fin 4096) (pos : Nat)
  | peer (set : Nat) (pos : Nat)
deriving DecidableEq, Repr

/-- One process signal (R31 to R36, R119, R317): its number, its direction, type and place, its substitute (or fail-safe) value, its safe
value, its capture deadband, whether it is a safety signal, and FRESH (R373). -/
structure SigDef where
  no : Nat
  tag : Tag24
  out : Bool
  ty : BitVec 4
  src : SigSrc
  sub : Nat
  safeVal : Nat
  db : Nat
  safe : Bool
  fresh : Bool
deriving DecidableEq, Repr

/-- The system variables of the state space that the module itself reads or writes: the rings and their tails (R310), the transmit queues
(R385), the exception records and XCPPEND (R501), the report variables, and the plant tables of chapters 10 and 11. -/
inductive SysKind where
  | dioEdge | dioTail | timCap | timTail | canRx | canRxTail | canTx | xcp | xcpPend | errSubj | station | cut | near
deriving DecidableEq, Repr

/-- One of them: its seat, its number within its kind, and its Square address. -/
structure SysVar where
  kind : SysKind
  seat : Seat
  ix : Nat
  addr : Nat
deriving DecidableEq, Repr

/-- One word of set-up that a package carries for a block's registers: the seat it is for, or both, the register's offset, its instance and
the word. -/
structure SetWord where
  seat : Option Bool
  off : Nat
  ix : Nat
  val : W32
deriving DecidableEq, Repr

/-- The characteristic of an analogue input (R364) and its HART devices' rate: LO, HI and CUT as F32, and the table's pairs. -/
structure AiDef where
  ch : Fin 16
  lo : Nat
  hi : Nat
  cut : Nat
  table : List (Nat × Nat)
  sub : Nat
deriving DecidableEq, Repr

/-- The scaling of an analogue output (R368): LO and HI as F32, and its safe value in 0.1 µA. -/
structure AoDef where
  ch : Fin 8
  lo : Nat
  hi : Nat
  safeCur : Nat
deriving DecidableEq, Repr

/-- One HART device (R366): its input, its polling address, and whether it supports command 9; `writes`: the configuration places a write
command on it (R367). -/
structure HartDef where
  dev : Nat
  ch : Fin 16
  addr : Nat
  cmd9 : Bool
  writes : Bool
deriving DecidableEq, Repr

/-- The far side of an FSL connection (R319). -/
inductive FslFar where
  | station (sta : StationNo)
  | peer (set : Nat)
  | seat
deriving DecidableEq, Repr

/-- One FSL connection (R319): identity, owner task, FWDT in units of 10 µs, the two sides' PDU intervals in ns, AUTOREINT, the data sets
in order, and where REINTREQ of its record stands. -/
structure ConnDef where
  no : Fin 4096
  id : W32
  owner : TaskNo
  fwdt : Nat
  ivlOwn : Nat
  ivlFar : Nat
  autoReint : Bool
  far : FslFar
  ins : List Nat
  outs : List Nat
  reintAddr : Nat
deriving DecidableEq, Repr

/-- One safety function record (R328, R336): its kind (0 two-channel input, 1 two-channel output, 2 1oo2 analogue input, 3 redundant
connection), its two channels or connections, its parameters, its owner, and where DISCACK and FNACK of its record stand. -/
structure FnDef where
  no : Fin 4096
  kind : BitVec 2
  seat : Seat
  antiv : Bool
  dt : Nat
  degmax : Nat
  a : Nat
  b : Nat
  owner : TaskNo
  outs : List Nat
  ins : List Nat
  discAddr : Nat
  fnAddr : Nat
deriving DecidableEq, Repr

/-- One field of a CAN mapping (R382): the signal, byte and bit offset, length in bits, and big-endian byte order. -/
structure CanField where
  sig : Nat
  byte : Nat
  bit : Nat
  len : Nat
  ty : BitVec 4
  big : Bool
deriving DecidableEq, Repr

/-- A receive mapping (R382). -/
structure CanRxMap where
  seat : Seat
  port : Fin 8
  no : Nat
  id : Nat
  mask : Nat
  ide : Bool
  fdf : Bool
  rxtmo : Nat
  fields : List CanField
deriving DecidableEq, Repr

/-- A transmit mapping (R383): every K-th commit of its writer, or on change (rate 0). -/
structure CanTxMap where
  seat : Seat
  port : Fin 8
  no : Nat
  writer : TaskNo
  id : Nat
  ide : Bool
  fdf : Bool
  brs : Bool
  rate : Nat
  len : Nat
  fields : List CanField
deriving DecidableEq, Repr

/-- A port's configured rates in bit/s, and its ring filter (R381, R387). -/
structure CanPortDef where
  seat : Seat
  port : Fin 8
  nominal : Nat
  data : Nat
  fid : Nat
  fmask : Nat
  unsupported : Bool
deriving DecidableEq, Repr

/-- One station (R293 to R297): whether it is a witness, its watchdogs in base ticks, its sample interval and SAMPLEOFF in ns, the digest of
its configuration record, the record, its worst-case round trip from seat A and from seat B (R209) and the sum of the per-hop bounds of its path
(R234) in ns, and the link of its path. -/
structure StationDef where
  no : StationNo
  witness : Bool
  swdt : Nat
  iwdt : Nat
  sampleIvl : Nat
  sampleOff : Nat
  digest : Nat
  record : List Byte
  roundTrip : Nat × Nat
  hops : Nat
  link : Fin 104
deriving DecidableEq, Repr

/-- One consumed peer data set (R298): the producer, its watchdog in ns, the publishing period in ns, and, of a producer that is a witness, its worst-case
round trip from seat A and from seat B in ns (R209) and the link of its path. -/
structure PeerDef where
  set : Nat
  producer : Nat
  watchdog : Nat
  period : Nat
  witness : Option ((Nat × Nat) × Fin 104)
deriving DecidableEq, Repr

/-- One published data set (R298): its number, the own producer number, the publishing task and its bytes in the state space. -/
structure PubDef where
  set : Nat
  producer : Nat
  task : TaskNo
  addr : Nat
  len : Nat
deriving DecidableEq, Repr

/-- A lock group (R245): the variables it covers. -/
structure GroupDef where
  no : Fin 4096
  vars : List Tag24
deriving DecidableEq, Repr

/-- A configured participant set of cuts (R272): the stations and the signals. -/
structure CutSetDef where
  no : Fin 4096
  stations : List StationNo
  sigs : List Nat
deriving DecidableEq, Repr

/-- An entry of the host access list (R255): host link, IP prefix as a number with its length out of 128, rights (bit 0 READ, 1 WRITE, 2
FORCE, 3 SETUP), and the highest CLASS. -/
structure AccessDef where
  link : Fin 12
  prefix_ : Nat
  len : Nat
  rights : BitVec 4
  maxCls : BitVec 2
deriving DecidableEq, Repr

/-- The gate control list of a plant link (R288): its cycle and its intervals, in ns. -/
structure GateDef where
  link : Fin 104
  cycle : Nat
  ivls : List Nat
deriving DecidableEq, Repr

/-- One equipment object (R394, R396): the address of its record, its tag, its owner task, and the tasks whose code calls it. -/
structure ObjDef where
  addr : Nat
  tag : Tag24
  owner : TaskNo
  callers : List TaskNo
deriving DecidableEq, Repr

/-- A configuration package (R239): the parsed content of one program. `objEntry` gives the TYPE and the entry address of each routine of the
equipment object library (R395). Beside its content it has its generation CFGGEN, the digests of the configuration and of the program store, INSTID
(R445), its format (R451), whether its signature is valid, whether it is built for the OLM-4200 (R3), whether it uses a feature not listed
as supported (R288), the qualified set as digests of Kerb and module firmware (R443), the safety signature (R345), the ports whose MACsec
keys it carries (R283), the safety interface (R315), the client certificates of the management ports as digests with the SETUP right (R485), and the migration map's renamings, old to new (R240). -/
structure Pkg where
  tasks : List TaskDef
  vars : List VarDef
  codeLen : Nat
  store : Tab Byte
  init : Tab Byte
  pages : List Nat
  acu : List (Nat × Nat × Nat × Nat)
  hist : List HistDef
  sigs : List SigDef
  sys : List SysVar
  setup : List SetWord
  ais : List AiDef
  aos : List AoDef
  harts : List HartDef
  conns : List ConnDef
  fns : List FnDef
  canRx : List CanRxMap
  canTx : List CanTxMap
  canPorts : List CanPortDef
  stations : List StationDef
  peers : List PeerDef
  pubs : List PubDef
  groups : List GroupDef
  cutSets : List CutSetDef
  access : List AccessDef
  gates : List GateDef
  objs : List ObjDef
  objEntry : List (Nat × Nat)
  gen : Nat
  digest : Nat
  storeDigest : Nat
  instId : Nat
  fmt : Nat
  sigOk : Bool
  old42 : Bool
  unsupported : Bool
  qualified : List (Nat × Nat)
  safetySig : Nat
  keys : List Nat
  iface : List Tag24
  certs : List (Nat × Bool)
  renames : List (Tag24 × Tag24)
deriving DecidableEq, Repr

/-- What one universal channel presents at a sample tick (R353 to R360): the comparator's level, the input current in µA (mode 011), the
1 µs detector sample at which the raw level last entered its present level, the output readback in mV, the load current in µA, and whether
the output's junction stands at 150 °C or above. -/
structure DioSamp where
  level : Bool
  cur : Nat
  entered : Nat
  volt : Nat
  load : Nat
  hot : Bool
deriving DecidableEq, Repr

/-- What one analogue output presents at a readback (R369, R370): its current in 0.1 µA, whether the driver is at its compliance limit, and
whether its voltage is within 0.5 V of that limit. -/
structure AoSamp where
  cur : Nat
  limit : Bool
  near : Bool
deriving DecidableEq, Repr

/-- A HART device's answer (R366): its device status byte and its variables as F32 with their bad marks; the malfunction bit of the status
byte is "device malfunction". -/
structure HartAns where
  status : Byte
  malfunction : Bool
  vars : List (Nat × Bool)
deriving DecidableEq, Repr

/-- A CAN frame (R380): identifier, format bits, data, and the stamps of its start and end of frame, in ns. -/
structure CanFrame where
  id : Nat
  ide : Bool
  fdf : Bool
  brs : Bool
  esi : Bool
  rtr : Bool
  data : List Byte
  sof : Nat
  eof : Nat
deriving DecidableEq, Repr

/-- What a CAN port meets (R390): an error with its code 1 to 6, or an arbitration loss at a bit position. -/
inductive CanErr where
  | err (code : Fin 7)
  | arb (bit : BitVec 8)
deriving DecidableEq, Repr

/-- What a HELLO carries (R195), and with it what the decisions of R3, R157, R191, R204, R218, R219, R222, R444, R445, R452 and R473 need of the sender
(log entry 17): a lane shortage, capped, INSTID, the first 16 bytes of its DeviceID digest, its range of pair-protocol versions, the CSN and a
digest of its retained area, whether it is an OLM-4200; of a Lead, the cause for which it refuses the join, whether it begins a join, and whether
it has refused a SWITCH of this module; of a Follower, a SWITCH written there, the units it
wants again (Table 8-4), and the tasks it resynchronises; of a Lead, the tasks it wants resynchronised. -/
structure Hello where
  seat : Seat
  epoch : Nat
  cfgGen : Nat
  digest : Nat
  state : Nat
  maxCsn : Nat
  lead : Bool
  roleEpoch : Nat
  running : Bool
  laneShort : Bool
  capped : Bool
  instId : Nat
  devId : Nat
  protoLo : Nat
  protoHi : Nat
  retCsn : Nat
  retDigest : Nat
  refuse : Fin 8
  old42 : Bool
  join : Bool
  swRefused : Bool
  switchReq : Bool
  fetch : List Nat
  resync : List Nat
  resyncAll : Bool
deriving DecidableEq, Repr

/-- A set-up item carried in a packet's SETUP section (Table 8-2): a register field's instance as its key with the value and the instant it
takes effect, a disposition, a tag edit, an invalidation, a barrier, a force, a mode, the switch tick, activations pending, the active PTP
domain, a ring's tail, the start of a function's DEGRADED state (R339), and the announced activation tick (R241; `load`: without
migration), a step of an on-line change (R237, R238), a task started or stopped (R498), and a pending cut
and its end, which a new Lead needs to close it (R251). -/
inductive SetupItem where
  | regTick (key val : Nat)
  | regStart (task key val : Nat)
  | regRelease (task key val : Nat)
  | regBarrier (key val : Nat)
  | disp (task xseq : Nat) (resume : Bool)
  | tag (addr : Nat) (bytes : List Byte)
  | ttc (first last : Nat) (all : Bool)
  | barrier
  | force (sig : Nat) (val : Option W64)
  | mode (tick m : Nat)
  | switchTick (tick : Nat)
  | acts (task n : Nat)
  | domain (tick d : Nat)
  | tail (addr val : Nat)
  | degraded (fn start : Nat)
  | activation (tick : Nat) (load : Bool)
  | olc (step : Nat)
  | taskState (task st : Nat)
  | cut (op at_ set : Nat)
  | cutEnd (op : Nat)
deriving DecidableEq, Repr

/-- An Arcade record as a packet's RECORD section or a back-fill carries it (Table 16-5); `intact`: its CRC is right. -/
structure RecData where
  kind : Nat
  flags : Nat
  seat : Nat
  seq : Nat
  csn : Nat
  time : Nat
  task : Nat
  epoch : Nat
  payload : List Byte
  intact : Bool
deriving DecidableEq, Repr

/-- A cycle packet (Tables 8-2 and 8-3): flags AUDIT, XCP and SAFE, the header's numbers, and its sections. INPUT entries are (signal,
status, value), CARRY and SUPPL are (address, bytes), HOSTW (client, request, write address and bytes), SETUP (effect tick, item), SEATOUT (signal,
value), RECORD the commit's record and `more` its COMMITX records; `activation`: the commit is an activation commit (R241). -/
structure CyclePkt where
  audit : Bool
  xcp : Bool
  safe : Bool
  seat : Seat
  task : TaskNo
  epoch : Nat
  csn : Nat
  baseCsn : Nat
  tick : Nat
  pktSeq : Nat
  ohash : Nat
  chash : Nat
  fullImage : Bool
  input : List (Nat × Nat × Nat)
  carry : List (Nat × List Byte)
  hostw : List (Nat × Nat × List (Nat × List Byte))
  setup : List (Nat × SetupItem)
  suppl : List (Nat × List Byte)
  seatout : List (Nat × Nat)
  poison : List Nat
  record : RecData
  more : List RecData
  activation : Bool
deriving DecidableEq, Repr

/-- A session number (R254: 1 to 8,192; 0 names none). -/
abbrev SessNo := Fin 8193
/-- A queue-pair number (R258). -/
abbrev QpNo := Fin 4096

/-- A descriptor as fetched (Table 10-3): its 64 bytes, the LEN1 bytes of request data read at ADDR1, and whether each host buffer can be
reached (R262). -/
structure HostDesc where
  bytes : List Byte
  data : List Byte
  ok1 : Bool
  ok2 : Bool
deriving DecidableEq, Repr

/-- What the module's supply and temperature sensors show: the words of PWR_MAINSA, PWR_MAINSB, PWR_BUS, PWR_TEMP, PWR_TEMP2, PWR_FLOW and
PWR_POWER (Table 18-12). -/
structure PwrMeas where
  mainsA : W32
  mainsB : W32
  bus : W32
  temp : W32
  temp2 : W32
  flow : W32
  power : W32
deriving DecidableEq, Repr

/-- A firmware bundle (R440, R447, R451, R452): its version, the SVN of its Kerb and module firmware, its configuration format, its range of
pair-protocol versions, the digests of the two, and whether its signature is valid under the root-key digest. -/
structure Bundle where
  version : Nat
  kerbSvn : Nat
  modSvn : Nat
  fmt : Nat
  protoLo : Nat
  protoHi : Nat
  kerbDigest : Nat
  modDigest : Nat
  sigOk : Bool
deriving DecidableEq, Repr

/-- What a restart finds (R434 to R438, R474, R476, R335, R158, R446, R458): the marginal fuse bits as (word, bit, value at the low reference),
the seat code (bit 0 SEATCODE0, bit 1 SEATCODE1), whether a Square stack is below −10 °C, the outputs whose safe-state driver fails, the
lanes whose self-test fails, whether the sealed keys unseal, the copies of the pair epoch in MRAM whose CRC fails (R193), the
source of the time (0 the active PTP domain, 1 the partner's clock, 2 the Kerb's timekeeping) with the time in ns, and the digests of the
configuration and the program store. -/
structure BootEnv where
  marg : List (Fin 512 × Fin 32 × Bool)
  seatcode : BitVec 2
  cold : Bool
  drivers : List (Fin 40)
  lanes : List LaneNo
  keysOk : Bool
  src : Fin 3
  time : Nat
  cfgDigest : Nat
  storeDigest : Nat
  epochBad : List (Fin 2)
deriving DecidableEq, Repr


/-- What one BULK packet carries of a join, a resynchronisation or a store's transfer (R204, R220, R237, R431): a checked package for a store
(`active`: the one in force), bytes of pages as they stood, held values (signal, status, value), forces, the retained area with its CSN and
CFGGEN, settings as register instances, the mode, void CSN ranges, the progress in percent, and the end, with the join base. -/
inductive BulkItem where
  | package (store : Bool) (p : Pkg) (active : Bool)
  | pages (runs : List (Nat × List Byte))
  | held (l : List (Nat × Nat × Nat))
  | forces (l : List (Nat × W64))
  | retained (csn gen : Nat) (bytes : List (Nat × List Byte))
  | settings (l : List (Nat × Nat))
  | mode (m : Fin 3)
  | voids (l : List (Nat × Nat))
  | percent (n : Fin 101)
  | last (csn : Nat)
deriving DecidableEq, Repr

/-- What the evidence of a joiner shows (R443): the chain and the signature are right, the nonce matches, IDMARG, the digests of its Kerb and
module firmware, its range of pair-protocol versions, its DeviceID, and whether it is an OLM-4200 (R3). -/
structure JoinEvid where
  chainOk : Bool
  nonceOk : Bool
  idMarg : Bool
  kerbDigest : Nat
  modDigest : Nat
  protoLo : Nat
  protoHi : Nat
  devId : Nat
  old42 : Bool
deriving DecidableEq, Repr

/-- What a register write needs beside its word: the content of the configuration package that CLOSE of SCH_CFGCMD closes, that of the
firmware bundle that CLOSE of BOT_UPDCTL closes, and what a restart that the write starts finds. -/
structure WriteEnv where
  pkg : Option Pkg
  bundle : Option Bundle
  boot : BootEnv
deriving DecidableEq, Repr

/-- What a base tick finds: the module's clock less its partner's, in ns, as the Boulevard shows it (R304), and what has befallen the DRAM since the
last one. -/
structure TickSeen where
  pairDiff : Int
  hw : List HwErr
deriving DecidableEq, Repr

/-- What stands beside a commit: the tasks that reach commit in the same fabric clock (R12), and the CAN slots in transmission (R383). -/
structure CommitSeen where
  same : List TaskNo
  arb : List (Fin 8 × Nat)
deriving DecidableEq, Repr

/-- A scheduled change that a station has missed (R244): its number, whether it is a reset, and its instant. -/
structure ModeMiss where
  no : Nat
  isReset : Bool
  at_ : Nat
deriving DecidableEq, Repr

/-- A completion to be written: the queue pair, and whether the RDMA write of its data succeeds (R262). -/
structure ComplSeen where
  qp : QpNo
  ok : Bool
deriving DecidableEq, Repr

/-- The commands: one constructor per row of the opcode table. -/
inductive Instr where
  /-- BASE_TICK (R24). A base tick of 62.5 µs begins on the local clock; the scheduler evaluates the commands, activations and mode requests taken in the previous tick. -/
  | baseTick (seen : TickSeen)
  /-- HEARTBEAT (R17). A quarter scheduler, the Square controller or the plant network engine sends its per-tick heartbeat to the Kerb. -/
  | heartbeat (src : Fin 8)
  /-- WEDGE_DECISION (R17). A watched source has sent no heartbeat for TIMEOUT base ticks, so the Kerb declares the module wedged. -/
  | wedgeDecision (src : Fin 8) (ticks : Nat)
  /-- LAST_WORDS_COMMIT (R22). After the readback completes, the Kerb commits the 256-byte last-words record to its MRAM ring. -/
  | lastWordsCommit (fail : BitVec 40)
  /-- MAINS_LOSS_DECISION (R19). Both mains inputs have been absent for 12 ms, and the Kerb performs the Kerb set. -/
  | mainsLossDecision (m : PwrMeas)
  /-- TEMPERATURE_CRITICAL (R19). A die or cold-plate temperature passes its critical limit, and the Kerb performs the Kerb set. -/
  | temperatureCritical (m : PwrMeas)
  /-- KERBSTOP (R483). PWR_CMD KERBSTOP, written through a management port, requests the Kerb set. -/
  | kerbstop (path : Path)
  /-- CYCLIC_RELEASE (R25). At a grid tick, a cyclic task is released and the host write batches due for it are applied. -/
  | cyclicRelease (task : TaskNo)
  /-- TASK_DISPATCH (R30). A ready task starts, or resumes, on L lanes of its quarter once lanes are idle or can be freed by pre-emption. -/
  | taskDispatch (q : Quarter)
  /-- COMMIT (R172). After the task's last stream ends, dirty lines are written back and the page map flips, advancing the CSN. -/
  | commit (task : TaskNo) (seen : CommitSeen)
  /-- CYCLE_LATE (R37). A cycle is still running at its next grid tick, so it becomes late and that release is deferred. -/
  | cycleLate (task : TaskNo)
  /-- DEFERRED_RELEASE (R38). A deferred or catch-up release takes place at its computed base tick. -/
  | deferredRelease (task : TaskNo)
  /-- FURTHER_GRID_TICK_OVERRUN (R39). A further grid tick passes during a late cycle, and the deferred release is skipped or the task is stopped by watchdog. -/
  | furtherGridTickOverrun (task : TaskNo)
  /-- EVENT_ACTIVATION (R42). An activation from an edge, CAN frame, station event, SETEV or host reaches the scheduler. -/
  | eventActivation (task : TaskNo) (stamp : Nat)
  /-- EVENT_RELEASE (R41). An event task or the error task is released for its pending activations once MINSEP allows. -/
  | eventRelease (task : TaskNo)
  /-- START (R498). SCH_TASKCTL START, judged when the scheduler evaluates it, starts a stopped task or one in WDSTOP. -/
  | taskStart (path : Path) (task : TaskNo)
  /-- STOP (R498). SCH_TASKCTL STOP stops a task after any running cycle commits, and removes its pending activations. -/
  | taskStop (path : Path) (task : TaskNo)
  /-- ACTIVATE (R498). SCH_TASKCTL ACTIVATE gives an activation to an event task. -/
  | taskActivate (path : Path) (task : TaskNo)
  /-- CANCEL (R498). SCH_TASKCTL CANCEL cancels the pending activations of an event task. -/
  | taskCancel (path : Path) (task : TaskNo)
  /-- MODE_REQUEST_RUN (R500). A write of SCH_MODE.REQ = RUN is taken into the tick and judged at its end. -/
  | modeRequestRun (path : Path)
  /-- MODE_REQUEST_HOLD (R500). A write of SCH_MODE.REQ = HOLD is taken into the tick and judged at its end. -/
  | modeRequestHold (path : Path)
  /-- MODE_REQUEST_STOP (R500). A write of SCH_MODE.REQ = STOP is taken into the tick and judged at its end. -/
  | modeRequestStop (path : Path)
  /-- MODE_CHANGE (R46). An accepted mode change takes effect at a base tick in both modules, with warm or cold start, init tasks and activation handling. -/
  | modeChange
  /-- INIT_TASK_TIMEOUT (R47). An init task has not committed within 10 s, so it is stopped by watchdog and the module returns to STOP. -/
  | initTaskTimeout (task : TaskNo)
  /-- SCH_TASK_REGISTER_WRITE (R57). A write to an SCH per-task register on the Lead travels to the Follower and takes effect at the next START or release. -/
  | schTaskRegisterWrite (path : Path) (off : BitVec 24) (v : W32)
  /-- LOG_LD (R72). LOG LD loads LA from the BOOL operand, optionally negated. -/
  | logLd (k : Strm) (e : Env)
  /-- LOG_AND (R72). LOG AND combines LA with the operand by AND. -/
  | logAnd (k : Strm) (e : Env)
  /-- LOG_OR (R72). LOG OR combines LA with the operand by OR. -/
  | logOr (k : Strm) (e : Env)
  /-- LOG_XOR (R72). LOG XOR combines LA with the operand by XOR. -/
  | logXor (k : Strm) (e : Env)
  /-- LOG_ST (R72). LOG ST stores LA, or its negation, to the BOOL operand. -/
  | logSt (k : Strm) (e : Env)
  /-- LOG_S (R72). LOG S sets the operand to 1 if LA = 1. -/
  | logS (k : Strm) (e : Env)
  /-- LOG_R (R72). LOG R resets the operand to 0 if LA = 1. -/
  | logR (k : Strm) (e : Env)
  /-- LOGP_AND (R72). LOGP AND pushes LA with the AND operation onto NS and loads the operand. -/
  | logpAnd (k : Strm) (e : Env)
  /-- LOGP_OR (R72). LOGP OR pushes LA with the OR operation onto NS and loads the operand. -/
  | logpOr (k : Strm) (e : Env)
  /-- LOGP_XOR (R72). LOGP XOR pushes LA with the XOR operation onto NS and loads the operand. -/
  | logpXor (k : Strm) (e : Env)
  /-- LDW (R64). Loads WA from the operand, extended by type. -/
  | ldw (k : Strm) (e : Env)
  /-- STW (R64). Stores WA to the operand. -/
  | stw (k : Strm) (e : Env)
  /-- LDWB (R64). Loads WB from the operand. -/
  | ldwb (k : Strm) (e : Env)
  /-- STWB (R64). Stores WB to the operand. -/
  | stwb (k : Strm) (e : Env)
  /-- LEA (R70). Loads WA with the Square address of the operand without accessing it. -/
  | lea (k : Strm) (e : Env)
  /-- ADD (R64). Adds the operand to WA, setting flags and trapping under TRAPV. -/
  | addw (k : Strm) (e : Env)
  /-- SUB (R64). Subtracts the operand from WA. -/
  | subw (k : Strm) (e : Env)
  /-- MUL (R64). Multiplies WA by the operand, with the high product in WB for integers. -/
  | mulw (k : Strm) (e : Env)
  /-- DIV (R64). Divides WA by the operand, with the remainder in WB and the handling of division by zero. -/
  | divw (k : Strm) (e : Env)
  /-- ANDW (R70). Bitwise AND of WA with the operand. -/
  | andw (k : Strm) (e : Env)
  /-- ORW (R70). Bitwise OR of WA with the operand. -/
  | orw (k : Strm) (e : Env)
  /-- XORW (R70). Bitwise XOR of WA with the operand. -/
  | xorw (k : Strm) (e : Env)
  /-- MIN (R75). WA takes the smaller of WA and the operand. -/
  | minw (k : Strm) (e : Env)
  /-- MAX (R75). WA takes the larger of WA and the operand. -/
  | maxw (k : Strm) (e : Env)
  /-- LIMIT (R75). WA is limited between WB and the operand. -/
  | limit (k : Strm) (e : Env)
  /-- SHL (R70). Shifts WA left by the operand. -/
  | shl (k : Strm) (e : Env)
  /-- SHR (R70). Shifts WA right, arithmetically or logically by type. -/
  | shr (k : Strm) (e : Env)
  /-- ROL (R70). Rotates WA left modulo the width. -/
  | rol (k : Strm) (e : Env)
  /-- ROR (R70). Rotates WA right modulo the width. -/
  | ror (k : Strm) (e : Env)
  /-- CEQ (R75). LA is set to whether WA equals the operand. -/
  | ceq (k : Strm) (e : Env)
  /-- CNE (R75). LA is set to whether WA differs from the operand. -/
  | cne (k : Strm) (e : Env)
  /-- CGT (R75). LA is set to whether WA is greater than the operand. -/
  | cgt (k : Strm) (e : Env)
  /-- CGE (R75). LA is set to whether WA is greater than or equal to the operand. -/
  | cge (k : Strm) (e : Env)
  /-- CLT (R75). LA is set to whether WA is less than the operand. -/
  | clt (k : Strm) (e : Env)
  /-- CLE (R75). LA is set to whether WA is less than or equal to the operand. -/
  | cle (k : Strm) (e : Env)
  /-- SEL (R497). WA takes the operand if LA = 1; the operand is always read and checked. -/
  | selw (k : Strm) (e : Env)
  /-- LSTAT (R81). WA takes the status code of the named signal. -/
  | lstat (k : Strm) (e : Env)
  /-- TBL (R76). Table lookup indexed by WA, with clamping. -/
  | tbl (k : Strm) (e : Env)
  /-- LIN (R76). Linear interpolation of WA over a table of pairs. -/
  | lin (k : Strm) (e : Env)
  /-- MOVB (R76). Block move of WB bytes from the operand to the Square address in WA. -/
  | movb (k : Strm) (e : Env)
  /-- TON (R78). On-delay timer on its instance record. -/
  | ton (k : Strm) (e : Env)
  /-- TOF (R78). Off-delay timer on its instance record. -/
  | tof (k : Strm) (e : Env)
  /-- TP (R78). Pulse timer on its instance record. -/
  | tp (k : Strm) (e : Env)
  /-- CTU (R79). Up-counter on a rising CU. -/
  | ctu (k : Strm) (e : Env)
  /-- CTD (R79). Down-counter on a rising CD. -/
  | ctd (k : Strm) (e : Env)
  /-- CTUD (R79). Up-down counter. -/
  | ctud (k : Strm) (e : Env)
  /-- CRST (R79). Counter reset from LA. -/
  | crst (k : Strm) (e : Env)
  /-- CLOAD (R79). Counter load from WA when LA = 1. -/
  | cload (k : Strm) (e : Env)
  /-- EDGP (R80). Rising-edge detection against the edge memory M. -/
  | edgp (k : Strm) (e : Env)
  /-- EDGN (R80). Falling-edge detection against the edge memory M. -/
  | edgn (k : Strm) (e : Env)
  /-- LDLIVE (R82). Live device read, taking the low side on divergence. -/
  | ldlive (k : Strm) (e : Env)
  /-- LDLIVEH (R82). Live device read, taking the high side on divergence. -/
  | ldliveh (k : Strm) (e : Env)
  /-- JMP (R86). Delayed conditional jump after its delay slot, closing loop levels as needed. -/
  | jmp (k : Strm) (e : Env)
  /-- CALL (R89). Delayed call that writes W15 and increments the call depth. -/
  | call (k : Strm) (e : Env)
  /-- LOOP (R90). Opens a hardware loop level with an immediate count. -/
  | loop (k : Strm) (e : Env)
  /-- LOOPW (R90). Opens a hardware loop level with its count taken from a register. -/
  | loopw (k : Strm) (e : Env)
  /-- NOP (R71). No operation. -/
  | nop (k : Strm) (e : Env)
  /-- END (R73). Ends the stream for this cycle, closing all loop levels. -/
  | endS (k : Strm) (e : Env)
  /-- POPL (R72). Closes a bracket by combining the top NS entry with LA. -/
  | popl (k : Strm) (e : Env)
  /-- NOTL (R71). Inverts LA. -/
  | notl (k : Strm) (e : Env)
  /-- SETL (R71). Sets LA to 1. -/
  | setl (k : Strm) (e : Env)
  /-- CLRL (R71). Clears LA to 0. -/
  | clrl (k : Strm) (e : Env)
  /-- LDBIT (R71). LA takes bit k of WA. -/
  | ldbit (k : Strm) (e : Env)
  /-- STBIT (R71). Bit k of WA takes LA. -/
  | stbit (k : Strm) (e : Env)
  /-- XAB (R71). Exchanges WA and WB. -/
  | xab (k : Strm) (e : Env)
  /-- MOVAB (R71). Copies WA to WB. -/
  | movab (k : Strm) (e : Env)
  /-- MOVBA (R71). Copies WB to WA. -/
  | movba (k : Strm) (e : Env)
  /-- NOT (R71). Bitwise NOT of WA at the type width. -/
  | notw (k : Strm) (e : Env)
  /-- NEG (R71). Negates WA. -/
  | negw (k : Strm) (e : Env)
  /-- ABS (R71). Absolute value of WA. -/
  | absw (k : Strm) (e : Env)
  /-- CVT (R74). Converts WA between types. -/
  | cvt (k : Strm) (e : Env)
  /-- LDFL (R71). Loads FL into WA. -/
  | ldfl (k : Strm) (e : Env)
  /-- CLRF (R71). Clears the sticky flags. -/
  | clrf (k : Strm) (e : Env)
  /-- TIME (R77). WA takes the release time of the cycle. -/
  | timew (k : Strm) (e : Env)
  /-- MODESET (R94). Writes MODE, effective after its two-instruction shadow. -/
  | modeset (k : Strm) (e : Env)
  /-- SETEV (R83). Gives an activation to a task at the commit of the cycle. -/
  | setev (k : Strm) (e : Env)
  /-- DIAG (R83). Gives a diagnostic event record at the commit of the cycle. -/
  | diag (k : Strm) (e : Env)
  /-- SYNC (R84). A stream arrives at the barrier among the streams of its task. -/
  | sync (k : Strm) (e : Env)
  /-- SYNC_RELEASE (R84). Once the last stream has reached the SYNC, all waiting streams are released. -/
  | syncRelease (ctx : Ctx) (task : TaskNo)
  /-- RET (R93). Delayed return to W15, closing loop levels and decrementing the call depth. -/
  | ret (k : Strm) (e : Env)
  /-- TRAP (R101). Raises the program trap with its code. -/
  | trap (k : Strm) (e : Env)
  /-- SQRT (R65). Square root of WA. -/
  | sqrt (k : Strm) (e : Env)
  /-- ERROR_TASK_DELIVERY (R106). The error task is released at the first base tick after an exception record has been written, subject to MINSEP. -/
  | errorTaskDelivery
  /-- XCP_DISP_RESUME (R115). A write of SCH_TASKXCP.DISP = RESUME answers the pending record. -/
  | xcpDispResume (path : Path)
  /-- XCP_DISP_ABORT (R115). A write of SCH_TASKXCP.DISP = ABORT answers the pending record. -/
  | xcpDispAbort (path : Path)
  /-- DISPOSITION_DEADLINE (R110). No disposition has taken effect by the late or skip tick, so the module applies ABORT. -/
  | dispositionDeadline (task : TaskNo)
  /-- SPEC_RUN_START (R121). A speculative run is set up and started at its start instant. -/
  | specRunStart (task : TaskNo)
  /-- SPEC_UNDONE (R131). A run is not complete at its release tick, so it is stopped and discarded. -/
  | specUndone (task : TaskNo)
  /-- SPEC_DECISION (R128). Comparison of the read set ends, and the run is confirmed and flipped in, or discarded and a real run dispatched. -/
  | specDecision (task : TaskNo) (arb : List (Fin 8 × Nat))
  /-- SPEC_SUSPEND_END (R139). The back-off of a suspended task elapses, and its window restarts empty. -/
  | specSuspendEnd (task : TaskNo)
  /-- LANE_SELF_TEST_COMPLETE (R153). The full self-test of a quarantined or tested lane ends, returning the lane to service or retiring it. -/
  | laneSelfTestComplete (lane : LaneNo) (pass : Bool)
  /-- SELF_TEST_STEP (R158). A 20 µs step of the rotating self-test ends, and any pending reserve change takes effect. -/
  | selfTestStep (ended : Option LaneNo) (pass : Bool) (next swap : Option LaneNo)
  /-- MISMATCH_INJECTION (R159). Every INJIVL on each lane, the Crossing injects a mismatch that must be detected. -/
  | mismatchInjection (lane : LaneNo) (detected : Bool)
  /-- TEST (R162). XNG_CMD TEST runs the full self-test on a lane. -/
  | xngTest (path : Path) (lane : BitVec 7)
  /-- RETIRE (R154). XNG_CMD RETIRE retires a lane permanently. -/
  | xngRetire (path : Path) (lane : BitVec 7)
  /-- PATROL_SCRUB (R168). Patrol scrub reads and corrects a physical unit. -/
  | patrolScrub (unit : BitVec 34) (hw : List HwErr) (page : Option (List Byte))
  /-- ROW_SPARING_COMPLETE (R169). The copy of a failing row to a reserve row completes, and the row map is switched. -/
  | rowSparingComplete (stack : Fin 4) (left : Fin 101)
  /-- TAG_WALK (R176). A tag walk completes its directory and tag-entry reads, giving an address or a walk fault. -/
  | tagWalk (lane : Option LaneNo) (task : TaskNo) (tag : W32)
  /-- WRITE (R179). SQR_TAGEDCMD.WRITE writes a tag or directory entry, with optional invalidation. -/
  | tagWrite (path : Path) (inv dir : Bool)
  /-- GO (R181). SQR_TTCINV.GO starts an invalidation of translation caches over a range or all entries. -/
  | ttcGo (path : Path) (all : Bool)
  /-- TTC_INVALIDATION_DONE (R181). An invalidation completes, DONE is set and the tag-table generation advances. -/
  | ttcInvalidationDone
  /-- BARRIER (R187). ACU_CTL.BARRIER requests an ACU barrier. -/
  | acuBarrier (path : Path)
  /-- ACU_BARRIER_DONE (R187). Every ACU has taken the pending changes, DONE is set and the ACU generation advances. -/
  | acuBarrierDone
  /-- ACU_RATTR_WRITE (R186). A write of ACU_RATTR sets a region's attributes, and an enable is checked and possibly refused. -/
  | acuRattrWrite (path : Path) (v : W32)
  /-- HELLO_SEND (R195). In START, the module sends HELLO on both Boulevard links every 1 ms. -/
  | helloSend
  /-- HELLO_RECEIVE (R195). A HELLO from the partner starts a join, a pair start decision or a seat clash. -/
  | helloReceive (h : Hello)
  /-- PAIR_START_TIMEOUT (R195). No partner in LEAD, SOLO or START has been heard within 10 s, so the module seeks witness grants to enter SOLO. -/
  | pairStartTimeout
  /-- CYCLE_PACKET_APPLY (R199). The Follower applies a received cycle packet as a commit under the Lead's CSN and sends an ACK. -/
  | cyclePacketApply (p : CyclePkt)
  /-- TICK (R198). No cycle packet has left by G + P_f, so the Lead sends a TICK packet for grid tick G. -/
  | tickSend (g : Nat)
  /-- TICK_PACKET_RECEIVE (R198). The Follower receives a TICK packet and applies its SETUP section. -/
  | tickPacketReceive (g epoch : Nat) (setup : List (Nat × SetupItem))
  /-- ACK (R199). An ACK reaches the Lead, advancing ACKCSN and releasing durable completions. -/
  | ack (csn : Nat)
  /-- SEATSAMPLE_SEND (R201). Every base tick, the module sends a SEATSAMPLE packet with its seat's signals. -/
  | seatsampleSend
  /-- SEATSAMPLE_RECEIVE (R201). A SEATSAMPLE packet from the partner is received and its ring entries and results are taken. -/
  | seatsampleReceive (vals : List (Nat × Nat × Nat)) (rings : List (Nat × List Byte)) (pdus : List (Fin 4096 × List Byte))
  /-- SEAT_OUTPUT_TIMEOUT (R201). A tracking or following module applies no packet for 4 × P_f, and its seat outputs take safe values. -/
  | seatOutputTimeout
  /-- AUDIT_COMPLETE (R203). The Follower's audit of a marked cycle ends, and its hashes are compared with the outcomes of Table 8-4. -/
  | auditComplete (task : TaskNo)
  /-- AUDIT_TIMEOUT (R203). An audit has not finished within 16 periods, and it is abandoned. -/
  | auditTimeout (task : TaskNo)
  /-- RESYNC (R204). PAR_CMD RESYNC resynchronises every task through BULK pages. -/
  | parResync (path : Path)
  /-- RESYNC_COMPLETE (R204). The Follower has applied the resync pages and all packets, and it returns to FOLLOW. -/
  | resyncComplete
  /-- PACKET_MISSING (R205). No packet for grid tick G has arrived by G + P_f + 20 µs, so the Follower enters SUSPECT and requests grants. -/
  | packetMissing (g : Nat)
  /-- LEAD_LOST_DECLARED (R205). A second packet is missing, so the Follower declares the Lead lost and enters ISOLATED if it holds no grants. -/
  | leadLostDeclared
  /-- ACK_MISSING (R206). The Lead misses ACKs by their deadline, declares the Follower lost and enters SOLO or steps down. -/
  | ackMissing (g : Nat)
  /-- FENCE_RECOGNISED (R207). Steady assertion on the incoming FENCE line for 20 µs is recognised, leading to takeover or SOLO. -/
  | fenceRecognised
  /-- FENCE_LINE_FAULT (R207). A line fault on the incoming FENCE is recognised and FENCEFLT is set. -/
  | fenceLineFault
  /-- SEATSENSE_RISE (R207). SEATSENSE from the partner rises, starting a join when AUTOJOIN = 1. -/
  | seatsenseRise
  /-- BEACON (R297). At a grid tick of the fastest task, the Lead sends a BEACON to each witness that gets no OUTPUT frame. -/
  | beacon (g : Nat)
  /-- WREQ (R211). In SUSPECT, the Follower sends witness requests every 25 µs. -/
  | wreq
  /-- WGRANT (R212). A WGRANT frame is received and counted toward a majority for the requested epoch. -/
  | wgrant (link : Fin 104) (frame : List Byte)
  /-- WREFUSE (R212). A WREFUSE frame from a witness is received and counted. -/
  | wrefuse (link : Fin 104) (frame : List Byte)
  /-- SWITCH (R218). PAR_CMD SWITCH requests an orderly switch-over, and the Lead chooses and announces switch tick S. -/
  | parSwitch (path : Option Path)
  /-- SWITCH_TICK (R218). At switch tick S, the old Lead aborts its running cycles, sends HANDOVER and enters TRACK. -/
  | switchTick
  /-- HANDOVER (R218). The Follower applies HANDOVER and takes the Lead at S, once every packet up to c_h is applied. -/
  | handover (csn epoch : Nat)
  /-- RELEASE (R223). PAR_CMD RELEASE takes the module out of the pair into FENCED. -/
  | parRelease (path : Path)
  /-- JOIN (R219). PAR_CMD JOIN on the Lead starts a join of the partner. -/
  | parJoin (path : Path)
  /-- CLEARCFG (R225). PAR_CMD CLEARCFG erases the configuration and the key area. -/
  | parClearcfg (path : Path)
  /-- JOIN_CLOCK_TIMEOUT (R219). The clocks have not agreed within 60 s, and the join is refused with cause 7. -/
  | joinClockTimeout
  /-- BULK (R220). A BULK packet of a join, resync or transfer is received and applied. -/
  | bulk (b : BulkItem)
  /-- TRACK_CAUGHT_UP (R219). The tracking module has applied all queued packets and enters FOLLOW, and the Lead enters LEAD. -/
  | trackCaughtUp
  /-- BACKFILL_RECORD (R221). A back-filled Arcade record from the Lead is received, checked and stored. -/
  | backfillRecord (event : Bool) (r : RecData)
  /-- BATCH_COMMIT_ALONE (R230). A host batch whose cycle did not commit, or whose task was not released, is committed alone. -/
  | batchCommitAlone
  /-- CUT_INSTANT (R233). At t_c, on-module and CAN contributions to a cut are taken. -/
  | cutInstant (op : Nat)
  /-- CUTDATA (R233). A CUTDATA frame from a station is entered into the cut record. -/
  | cutdata (link : Fin 104) (frame : List Byte)
  /-- CUT_CLOSE (R235). A cut closes when complete or at CUTWAIT, with missing entries marked MISSED. -/
  | cutClose (op : Nat)
  /-- STATION_MODE_MISSED (R244). A station has not reported its new mode in time, so it is handled as missed and a report is raised. -/
  | stationModeMissed (sta : StationNo) (mode : Byte) (miss : ModeMiss)
  /-- MODE_CHANGE_RESEND (R244). Every 10 ms, the mode-change command is resent to a missed station with a fresh instant. -/
  | modeChangeResend (sta : StationNo)
  /-- MODEWAIT_EXPIRY (R244). A missed station has not reported after MODEWAIT, so its inputs become BAD and resends slow down. -/
  | modewaitExpiry (sta : StationNo)
  /-- ARM (R238). SCH_OLCCTL ARM starts the transfer of a checked package for an on-line change. -/
  | olcArm (path : Path)
  /-- ABANDON (R238). SCH_OLCCTL ABANDON ends an on-line change in ABANDONED. -/
  | olcAbandon (path : Path)
  /-- OLC_TRANSFER_COMPLETE (R237). Both modules hold the checked store, and MIGRATE begins. -/
  | olcTransferComplete
  /-- MIGRATION_PASS_COMPLETE (R241). The migration pass is confirmed by a pair barrier, and the Lead chooses and announces A. -/
  | migrationPassComplete
  /-- ACTIVATION_COMMIT (R241). At tick A, each module flips to the new program, flushes the caches, aborts pending records and breaks locks. -/
  | activationCommit
  /-- OPEN (R239). SCH_CFGCMD OPEN erases the inactive store and begins PREPARE. -/
  | cfgOpen (path : Path)
  /-- CHUNK (R239). SCH_CFGCMD CHUNK writes a CRC-checked 32 KiB chunk of the package. -/
  | cfgChunk (path : Path)
  /-- CLOSE (R239). SCH_CFGCMD CLOSE runs the PREPARE check over the package. -/
  | cfgClose (path : Path) (p : Pkg)
  /-- LOAD (R239). SCH_CFGCMD LOAD activates a checked package as a configuration load in STOP. -/
  | cfgLoad (path : Path)
  /-- LEASE_EXPIRY (R247). A lock lease runs out at a base tick, the lock breaks and its staged writes are discarded. -/
  | leaseExpiry
  /-- LOCK_GRANT (R245). A waited-for lock group becomes free and is granted to the next request. -/
  | lockGrant
  /-- COALESCING_WINDOW_CLOSE (R249). A 1 s window of a report subject closes, and a summary is written. -/
  | coalescingWindowClose (kind obj : Nat)
  /-- CONNECTION_REQUEST (R254). An RC connection request opens a session, or is refused by REJ. -/
  | connectionRequest (link : Fin 12) (src : BitVec 128) (req : List Byte)
  /-- SESSION_END (R257). A session ends on connection loss or SESSIDLE, dropping descriptors and breaking locks. -/
  | sessionEnd (sess : SessNo) (idle : Bool)
  /-- DOORBELL (R259). An RDMA write to a doorbell updates SQTAIL and CQHEAD, or is discarded. -/
  | doorbell (sess : SessNo) (write : Bool) (off len : Nat) (word : W64)
  /-- DESCRIPTOR_FETCH (R260). Descriptors are fetched from a submission ring and started. -/
  | descriptorFetch (sess : SessNo) (qp : QpNo) (ds : List HostDesc)
  /-- COMPLETION_WRITE (R261). A completion entry is written once the completion ring has room. -/
  | completionWrite (sess : SessNo) (seen : ComplSeen)
  /-- HOST_NOP (R264). The NOP opcode completes OK and renews leases. -/
  | hostNop (sess : SessNo) (qp : QpNo)
  /-- READ_AT (R265). Reads listed tags at one CSN. -/
  | readAt (sess : SessNo) (qp : QpNo)
  /-- READ_AT_RAW (R265). READ_AT with OPT[0] = 1 reads raw bytes of one object at one CSN. -/
  | readAtRaw (sess : SessNo) (qp : QpNo)
  /-- DESCRIPTOR_WAIT_TIMEOUT (R265). A waiting read or LOCK reaches its WAIT limit and completes with TIMEOUT. -/
  | descriptorWaitTimeout (sess : SessNo) (qp : QpNo) (reqid : W32)
  /-- WRITE_NEXT (R267). Admits a host write batch for the next cycle of a task. -/
  | writeNext (sess : SessNo) (qp : QpNo)
  /-- SUBSCRIBE (R270). Creates a subscription to the commits of a task. -/
  | hostSubscribe (sess : SessNo) (qp : QpNo)
  /-- HOST_CANCEL (R275). The CANCEL opcode ends a waiting descriptor. -/
  | hostCancel (sess : SessNo) (qp : QpNo)
  /-- HISTORY_READ (R271). Returns Arcade cycle records by sequence number. -/
  | historyRead (sess : SessNo) (qp : QpNo)
  /-- HISTORY_READ_DELTA (R422). HISTORY_READ with OPT[0] = 1 returns near-history delta blocks. -/
  | historyReadDelta (sess : SessNo) (qp : QpNo)
  /-- EVENT_READ (R271). Returns Arcade event records by sequence number. -/
  | eventRead (sess : SessNo) (qp : QpNo)
  /-- CUT (R272). Schedules a plant-wide cut and returns it when it closes. -/
  | hostCut (sess : SessNo) (qp : QpNo)
  /-- LOCK (R273). Requests lock groups in ascending order. -/
  | hostLock (sess : SessNo) (qp : QpNo)
  /-- UNLOCK_COMMIT (R273). UNLOCK with OPT[8] = 1 applies the staged writes of the named groups as one batch. -/
  | unlockCommit (sess : SessNo) (qp : QpNo)
  /-- UNLOCK_DISCARD (R273). UNLOCK with OPT[8] = 0 releases groups and discards their staged writes. -/
  | unlockDiscard (sess : SessNo) (qp : QpNo)
  /-- FORCE (R274). Sets or removes forces by a commit of their own. -/
  | hostForce (sess : SessNo) (qp : QpNo)
  /-- HOST_TIME (R276). The TIME opcode writes a time report. -/
  | hostTime (sess : SessNo) (qp : QpNo)
  /-- ATTEST (R442). The ATTEST opcode writes signed attestation evidence for a nonce. -/
  | attest (sess : SessNo) (qp : QpNo)
  /-- QP_CREATE (R276). Creates a queue pair. -/
  | qpCreate (sess : SessNo) (qp : QpNo)
  /-- QP_DESTROY (R276). Destroys a queue pair. -/
  | qpDestroy (sess : SessNo) (qp : QpNo)
  /-- SESSION_CLOSE (R276). SESSION CLOSE ends the session after its own completion. -/
  | sessionClose (sess : SessNo) (qp : QpNo)
  /-- LATENCY (R276). Declares the session's wake-latency tolerance. -/
  | hostLatency (sess : SessNo) (qp : QpNo)
  /-- SETUP_READ (R276). Reads set-up registers through the management queue. -/
  | setupRead (sess : SessNo) (qp : QpNo)
  /-- SETUP_WRITE (R276). Writes set-up registers through the management queue. -/
  | setupWrite (sess : SessNo) (qp : QpNo) (env : WriteEnv)
  /-- TRANSPORT_RETRY_EXHAUSTED (R253). A RoCE connection exhausts its retries and is closed. -/
  | transportRetryExhausted (sess : SessNo)
  /-- SAK_CHANGE (R282). The key server distributes a new SAK on SAKLIFE, a PN threshold or a change of live peers. -/
  | sakChange (port : Fin 118) (keyServer : Bool) (peers : Byte)
  /-- SEC_PORTCFG_WRITE (R285). A write of SEC_PORTCFG under UPDATE-ENABLE applies from the port's next SAK. -/
  | secPortcfgWrite (path : Path) (v : W32)
  /-- PNE_PORTCFG_WRITE (R286). A write of PNE_PORTCFG sets the cage rate, redundancy or PTP of a plant link. -/
  | pnePortcfgWrite (path : Path) (v : W32)
  /-- INPUT (R294). An FSP INPUT frame from a station is received, checked and stored, updating the station state and epoch checks. -/
  | stationInput (link : Fin 104) (frame : List Byte)
  /-- EVENT (R289). An FSP EVENT frame is received, and its edges give activations. -/
  | stationEvent (link : Fin 104) (frame : List Byte)
  /-- CONFACK (R294). A CONFACK from a configuring station is received. -/
  | confack (link : Fin 104) (frame : List Byte)
  /-- CONFIG_RETRY (R294). A station configuration is resent after 100 ms, up to 3 attempts. -/
  | configRetry (sta : StationNo)
  /-- IWDT_EXPIRY (R294). The input watchdog of a station expires, and the station enters DROPPED with a report. -/
  | iwdtExpiry (sta : StationNo)
  /-- PEER (R298). A PEER frame from a producer controller is received and accepted or discarded by epoch. -/
  | peerFrame (link : Fin 104) (frame : List Byte)
  /-- PEER_WATCHDOG_EXPIRY (R298). A peer data set is not received within its watchdog, so it is captured as SUBSTITUTE. -/
  | peerWatchdogExpiry (set : Nat)
  /-- HOLD_OUTPUT_REPEAT (R296). In HOLD, the last OUTPUT frame of a held task is repeated at its grid tick. -/
  | holdOutputRepeat
  /-- PTP_SYNC (R302). A PTP Sync message is received and processed by the domain servo. -/
  | ptpSync (dom : Bool) (offset : Int)
  /-- PTP_DOMAIN_LOST (R302). A domain's announce receipt times out or its Sync is missing, and the clock may switch domain. -/
  | ptpDomainLost (dom : Bool)
  /-- DOMAIN_SWITCH_BACK (R303). After 60 s of lock on DOMPREF, the clock switches back. -/
  | domainSwitchBack
  /-- DOMAIN_SPLIT (R303). Both domains are held but apart by more than DOMDIFF for 1 s, so DOMSPLIT is set. -/
  | domainSplit (split : Bool)
  /-- TIM_SWITCH (R303). TIM_CTL.SWITCH switches the active PTP domain if the other is held. -/
  | timSwitch (path : Path)
  /-- PULSE_ARM (R306). TIM_POCTL.ARM arms a pulse train. -/
  | pulseArm (path : Path)
  /-- PULSE_STOP (R306). TIM_POCTL.STOP ends a pulse train after the current pulse. -/
  | pulseStop (path : Path)
  /-- TIO_CAPTURE_EDGE (R307). An edge on TIO2 or TIO3 is stamped, numbered, written to TIMCAP and may close a measurement or activate a task. -/
  | tioCaptureEdge (inp : Bool) (falling : Bool) (t : Nat)
  /-- DIO_EDGETAIL_WRITE (R310). A write of DIO_EDGETAIL on the Lead is committed as a tail update at the next base tick. -/
  | dioEdgetailWrite (path : Path) (v : BitVec 16)
  /-- TIM_CAPCFG_TAIL_WRITE (R310). A write of TIM_CAPCFG.TAIL on the Lead is committed as a tail update. -/
  | timCapcfgTailWrite (path : Path) (v : BitVec 16)
  /-- CAN_RXTAIL_WRITE (R310). A write of CAN_RXTAIL on the Lead is committed as a tail update. -/
  | canRxtailWrite (path : Path) (v : BitVec 16)
  /-- FSL_PDU_RECEIVE (R322). An FSL PDU is checked and accepted or discarded, with reintegration handling. -/
  | fslPduReceive (conn : Fin 4096) (pdu : List Byte)
  /-- FSL_WATCHDOG_EXPIRY (R323). No PDU has been accepted within FWDT, so the connection is passivated. -/
  | fslWatchdogExpiry (conn : Fin 4096)
  /-- SAMPLE_TICK (R353). At each 31.25 µs sample tick, inputs are filtered, two-channel pairs and readbacks are evaluated and edges are accepted. -/
  | sampleTick (half : Bool) (smp : List DioSamp) (vslim : BitVec 4)
  /-- OFF_PULSE_START (R332). After TESTIVL, a safety output is switched off for an off-pulse test. -/
  | offPulseStart (ch : Fin 32)
  /-- OFF_PULSE_END (R332). An off-pulse ends, the test is judged and the output resumes. -/
  | offPulseEnd (ch : Fin 32)
  /-- DEGMAX_EXPIRY (R337). A function stays DEGRADED for DEGMAX and trips. -/
  | degmaxExpiry (f : Fin 4096)
  /-- DEGRADED_RECOVERY (R338). The unhealthy channel has been healthy for 10 s, so the function returns to normal. -/
  | degradedRecovery (f : Fin 4096)
  /-- KEY_SWITCH_SAMPLE (R343). Every 1 ms, the Kerb reads the SAFETY-EDIT and UPDATE-ENABLE contacts and settles their positions. -/
  | keySwitchSample (safe upd : BitVec 2)
  /-- SFY_VALACK_WRITE (R346). A write of SFY_VALACK with the signature clears UNVAL. -/
  | sfyValackWrite (path : Path) (v : W32)
  /-- FIELD_SUPPLY_CHANGE (R351). Field supply A or B becomes absent or present. -/
  | fieldSupplyChange (b : Bool) (present : Bool)
  /-- INPUT_TEST (R356). Every 10 s, a universal input runs its test against the internal source. -/
  | inputTest (ch : Fin 32) (passed : Bool)
  /-- OUTPUT_OVERLOAD (R359). An output in current limit for 10 ms, or at thermal shutdown, is switched off and latched. -/
  | outputOverload (ch : Fin 32) (therm : Bool)
  /-- ADC_ENTRY_COMPLETE (R371). A sequence entry of the main converter completes its sample, feeding the filter and loop supply. -/
  | adcEntryComplete (code : BitVec 18) (urg : List (BitVec 18)) (t : Nat)
  /-- URGENT_REQUEST (R373). At URGLEAD before a release, an urgent sample of a fresh input is requested and served. -/
  | urgentRequest (ch : Fin 16) (codes : List (BitVec 18)) (t : Nat)
  /-- ADC_URGENT_GO (R373). ADC_URGENT.GO makes a set-up urgent request. -/
  | adcUrgentGo (path : Path) (src : BitVec 6) (ovs : BitVec 3)
  /-- ADC_SELF_TEST_STEP (R375). A 24 µs main-converter self-test step runs at an entry boundary. -/
  | adcSelfTestStep (refOk : Bool) (linOk : Bool)
  /-- LOOP_SUPPLY_OFF (R362). A loop supply in current limit for 500 ms switches off. -/
  | loopSupplyOff (ch : Fin 16)
  /-- LOOP_SUPPLY_RETRY (R362). Every 10 s, a switched-off loop supply retries for 100 ms. -/
  | loopSupplyRetry (ch : Fin 16) (ok : Bool)
  /-- ANALOGUE_THERMAL_LIMIT (R363). The analogue block reaches 120 °C or falls to 110 °C, applying or releasing the thermal limit. -/
  | analogueThermalLimit (temp : BitVec 8)
  /-- HART_POLL (R366). At HARTIVL, a HART device is polled. -/
  | hartPoll (dev : Nat)
  /-- HART_RESPONSE (R366). A HART transaction ends with an answer or as unanswered, setting the variable status. -/
  | hartResponse (dev : Nat) (ans : Option HartAns)
  /-- READBACK_SAMPLE (R369). Every 62.5 µs, each analogue output is read back and readback faults are judged. -/
  | readbackSample (smp : List AoSamp)
  /-- RBFAIL_CLEAR (R369). A W1C write of AIO_AOSTAT.RBFAIL clears the readback fault and releases a safe output. -/
  | rbfailClear (path : Path)
  /-- CAN_FRAME_RECEIVE (R387). A CAN frame completes reception, feeds its mapping and is written to CANRX. -/
  | canFrameReceive (port : Fin 8) (f : CanFrame)
  /-- CAN_FRAME_TRANSMITTED (R385). A transmitted CAN frame is acknowledged, and its entry's RESULT is written. -/
  | canFrameTransmitted (port : Fin 8) (t : Nat)
  /-- CAN_ERROR (R390). A CAN error or arbitration loss updates the counters and the error state. -/
  | canError (port : Fin 8) (err : CanErr) (own : Bool) (tec : Nat) (rec_ : Nat)
  /-- CAN_BUS_OFF_RECOVERED (R391). After BOFFDLY and 128 × 11 recessive bits, the port returns to error-active. -/
  | canBusOffRecovered (port : Fin 8)
  /-- CAN_RXTMO_EXPIRY (R382). No matching frame within RXTMO, so the mapped signals become SUBSTITUTE. -/
  | canRxtmoExpiry (port : Fin 8) (map : Nat)
  /-- RECOVER (R391). CAN_CMD RECOVER starts bus-off recovery. -/
  | canRecover (path : Path)
  /-- FLUSH (R385). CAN_CMD FLUSH drops the pending queue entries with RESULT 3. -/
  | canFlush (path : Path)
  /-- IMV_START (R416). IMV_CHCTL.START starts a set-up channel descriptor. -/
  | imvStart (path : Path) (v : W32)
  /-- HALT (R414). IMV_CHCTL.HALT requests a boundary stop of a channel. -/
  | imvHalt (path : Path)
  /-- IMV_RUN_COMPLETE (R415). An image mover run ends with its result and CRC. -/
  | imvRunComplete (ch : Fin 4) (bad : Option Nat) (preempts : Nat)
  /-- ARCADE_RECORD_PROGRAM (R424). A staged Arcade record is programmed to flash. -/
  | arcadeRecordProgram (event : Bool)
  /-- WEAR_GOVERNOR_STEP (R425). Hourly, the wear governor adjusts the history stretch k from the write credit. -/
  | wearGovernorStep (used : BitVec 14)
  /-- ARC_CURSOR_WRITE (R429). A write of ARC_CURHI starts copying a record into ARC_WIN. -/
  | arcCursorWrite (path : Path) (v : W32)
  /-- ARC_CURSOR_READY (R429). The cursor copy is complete in ARC_WIN and READY is set. -/
  | arcCursorReady (path : Path)
  /-- NEXT (R429). ARC_CURSTAT.NEXT moves the cursor to FOUND + 1. -/
  | arcNext (path : Path)
  /-- CLREVT (R430). ARC_CLRCMD CLREVT clears event records up to s. -/
  | arcClrevt (path : Path) (safe : Bool)
  /-- CLRCYC (R430). ARC_CLRCMD CLRCYC clears cycle records up to s. -/
  | arcClrcyc (path : Path)
  /-- ERASE (R430). ARC_CLRCMD ERASE destroys the flash key and empties the Arcade. -/
  | arcErase (path : Path)
  /-- POWER_ON (R434). Power reaches the Kerb domain, and the restart sequence begins. -/
  | powerOn (env : BootEnv)
  /-- RESTART_STEP_FAILED (R434). A restart step fails or exceeds its time, so the module writes last words and enters K. -/
  | restartStepFailed
  /-- FUSE_REREAD (R437). Every 24 h, the Kerb re-reads the fuses at both margins. -/
  | fuseReread (marg : List (Fin 512 × Fin 32))
  /-- UPD_OPEN (R448). BOT_UPDCTL OPEN erases the inactive firmware slot. -/
  | updOpen (path : Path)
  /-- UPD_CHUNK (R448). BOT_UPDCTL CHUNK programs a CRC-checked chunk of the bundle. -/
  | updChunk (path : Path)
  /-- UPD_CLOSE (R448). BOT_UPDCTL CLOSE takes the slot to WRITTEN. -/
  | updClose (path : Path) (b : Bundle)
  /-- UPD_ARM (R448). BOT_UPDCTL ARM takes a WRITTEN slot to ARMED. -/
  | updArm (path : Path)
  /-- DISARM (R448). BOT_UPDCTL DISARM takes an ARMED slot back to WRITTEN. -/
  | updDisarm (path : Path)
  /-- BOT_RESTART (R454). BOT_CMD RESTART restarts the module in an allowed state. -/
  | botRestart (path : Path) (env : BootEnv)
  /-- CONFIRM (R449). BOT_CMD CONFIRM confirms a slot on probation when its conditions hold. -/
  | botConfirm (path : Path)
  /-- REJECT (R450). BOT_CMD REJECT gives up a slot on probation. -/
  | botReject (path : Path) (env : BootEnv)
  /-- BOT_ATTEST (R442). BOT_CMD ATTEST returns evidence for the nonce in BOT_UPWIN. -/
  | botAttest (path : Path)
  /-- PROBATION_CONFIRMATION (R449). The conditions of probation hold, so the slot is confirmed and the SVN thermometers are blown. -/
  | probationConfirmation
  /-- HEALTHWIN_EXPIRY (R450). The probation window expires without confirmation, and the slot is rejected. -/
  | healthwinExpiry (env : BootEnv)
  /-- AUTO_RESTART (R455). After a Kerb set, the module restarts by itself once the AUTORST condition for its cause has been met. -/
  | autoRestart (env : BootEnv)
  /-- MAINS_INPUT_CHANGE (R462). A mains input becomes absent or present again. -/
  | mainsInputChange (b present : Bool) (at_ : Nat) (m : PwrMeas)
  /-- BUS_UNDERVOLTAGE (R463). The internal bus falls below 36 V, so the Kerb decides the Kerb set. -/
  | busUndervoltage (m : PwrMeas)
  /-- SAG_STEP_DOWN (R466). V_B falls below a sag threshold, and the lane clock steps down. -/
  | sagStepDown (m : PwrMeas)
  /-- SAG_STEP_UP (R466). V_B has stayed 1 V above a threshold for 50 ms, and the lane clock steps up. -/
  | sagStepUp (m : PwrMeas)
  /-- THERMAL_STEP_DOWN (R468). Each second with a sensor at its cap threshold, the thermal step falls. -/
  | thermalStepDown (m : PwrMeas)
  /-- THERMAL_STEP_UP (R468). After 10 s with every sensor 5 K below its cap, the thermal step rises. -/
  | thermalStepUp (m : PwrMeas)
  /-- STORE_FAULT (R464). The peak store capacity falls below 50 %, so STOREFLT is set and the clock is capped. -/
  | storeFault (m : PwrMeas)
  /-- PARKED_QUARTER_TEST (R471). A quarter parked for 8 h unparks, tests its lanes and parks again. -/
  | parkedQuarterTest (q : Quarter) (bad : List LaneNo)
  /-- COOLANT_LOSS (R473). Flow has been below 1 L/min for 5 s, so the module enters the capped state. -/
  | coolantLoss (m : PwrMeas)
  /-- COOLANT_RESTORED (R473). Flow has stayed at 2 L/min for 30 s, ending the capped state. -/
  | coolantRestored (m : PwrMeas)
  /-- MGMT_CONNECT (R485). A TLS connection to a management port is accepted or refused. -/
  | mgmtConnect (c : Fin 8) (cert : Nat)
  /-- MGMT_READ (R486). A management-port read request returns register words. -/
  | mgmtRead (c : Fin 8) (tag off count : Nat)
  /-- MGMT_WRITE (R486). A management-port write request writes register words. -/
  | mgmtWrite (c : Fin 8) (tag off : Nat) (data : List W32) (env : WriteEnv)
  /-- MGMT_ATTEST (R486). A management-port attest request returns evidence for a nonce. -/
  | mgmtAttest (c : Fin 8) (tag : Nat) (nonce : List Byte)
  /-- REGISTER_WRITE (R489). A write to a register with no row of its own takes effect by its rules, or is ignored and counted under R493. -/
  | registerWrite (path : Path) (off : BitVec 24) (v : W32) (env : WriteEnv)
  /-- TEMPERATURE_WARNING (R468). A temperature sensor reaches its warning threshold, setting PWR_STAT.TWARN and writing a warning event record. -/
  | temperatureWarning (m : PwrMeas)
  /-- BOULEVARD_LINK_CHANGE (R224). One Boulevard link goes down or comes up, changing PAR_STAT.LINKUP and writing a warning event record. -/
  | boulevardLinkChange (link : Fin 2) (up : Bool)
  /-- PLANT_LINK_UP_DOWN (R286). A plant link goes down or comes up, including the return after a cage rate change, updating PNE_PORTSTAT.UP and RATE. -/
  | plantLinkUpDown (link : Fin 104) (up : Bool) (rate : BitVec 2)
  /-- FENCE_RELEASED (R207). The incoming FENCE returns to the released 100 kHz reading, clearing FENCEIN and FENCEFLT. -/
  | fenceReleased
  /-- SEATSENSE_FALL (R207). The partner's SEATSENSE falls, clearing PAR_STAT.PSEAT. -/
  | seatsenseFall
  /-- WITNESS_ASSENT_LOST (R216). A Lead that has declared its Follower lost has not heard its own epoch from a majority of witnesses within P_f + 50 µs, so it steps down. -/
  | witnessAssentLost
  /-- PTP_ANNOUNCE (R302). A PTP Announce message is received, restarting the announce receipt timeout and feeding the BMCA of its domain. -/
  | ptpAnnounce (dom : Bool) (master : Nat)
  /-- PULSE_TRAIN_END (R306). A pulse output ends its train after COUNT pulses, or after the current pulse following STOP, and RUNNING clears. -/
  | pulseTrainEnd (out : Fin 2)
  /-- READBACK_CONVERTER_SELF_TEST (R375). Every 1 s, the readback converter cross-converts the main reference for 12 µs; a failure makes every analogue output unhealthy. -/
  | readbackConverterSelfTest (ok : Bool)
  /-- HART_MODEM_LOOPBACK (R375). Hourly, an idle HART modem runs an 8 ms loopback of a test frame, and HART transactions wait for it. -/
  | hartModemLoopback (m : Fin 5) (ok : Bool)
  /-- HART_BURST_FRAME (R365). An unsolicited burst-mode HART frame is received on input 0 to 3 and updates the device variables. -/
  | hartBurstFrame (ch : Fin 4) (ans : HartAns)
  /-- KERB_WATCHDOG (R453). The Kerb processor stops, so its watchdog restarts the Kerb with reset cause 0x02 while the safe-state drivers hold the outputs safe. -/
  | kerbWatchdog (env : BootEnv)
  /-- MGMT_CONNECTION_CLOSE (R484). A management-port TLS connection closes, and the per-path registers of its access path are discarded. -/
  | mgmtConnectionClose (c : Fin 8)
  /-- LANE_TEST_LATE (R158). A lane has gone 24 h without a complete self-test, so XNG_STAT.TESTLATE is set and a warning event record is written. -/
  | laneTestLate (lane : LaneNo)
  /-- FLASH_TEMPERATURE_HOT (R426). The flash temperature rises above or falls below 85 °C, setting or clearing ARC_STAT.HOT and halving or restoring the back-fill rate. -/
  | flashTemperatureHot (hot : Bool)
  /-- JOIN_ATTESTATION (R443). The joiner's attestation evidence reaches the Lead, which verifies it and passes or refuses the attest phase of a join. -/
  | joinAttestation (e : JoinEvid)
  /-- POWER_STATE_WAKE_END (R470). A wake to a shallower power state completes, so unparked quarters become available and any LATENCY declaration waiting for the wake completes. -/
  | powerStateWakeEnd
deriving DecidableEq, Repr

end Sys2Proof
end

