-- ==== Sys2Proof/Config.lean ====
section
/-! DEFINITION. What the manual leaves open: constants with no body, so that no proof can rest on a value of them. -/
namespace Sys2Proof

/-- A value the manual states no value for (each use names its rule; log entry 2). The argument is `State.fresh`, which the step
reads and advances. -/
opaque Config.freeValue : Nat → Nat
/-- The content of a byte of a plain variable after a takeover, before its first write (R54; log entry 2). -/
opaque Config.freeByte : Nat → Nat → BitVec 8
/-- One step of the analogue input filter y ← y + (x − y) × (1 − exp(−Δt / TAU)) for TAU > 0, in 0.1 µA: arguments y, x, Δt in ns and
TAU in ns (R361 gives the real formula and no arithmetic to carry it out in; log entry 2). -/
opaque Config.filterStep : Nat → Nat → Nat → Nat → Nat
/-- The direction in which a characteristic's exact value is rounded to F32 (R364 and R366 give formulas and no rounding; log entry 2). -/
opaque Config.fieldRounding : Fin 4
/-- The ECDSA signature, certificate chain and derived keys over given bytes (R439, R442): the manual gives the algorithms, not the keys. -/
opaque Config.evidenceTail : List (BitVec 8) → List (BitVec 8)
/-- Whether the host translation cache still holds the old entry of a tag edited without invalidation (R180), by tag and use. -/
opaque Config.hostCacheKeeps : Nat → Nat → Bool
/-- The frame that holds a version of a page, by the page and the CSN of the version: the module allocates frames as it likes (R164; log entry 2). -/
opaque Config.frameOf : Nat → Nat → Nat
/-- The DRAM row of a stack that holds a physical address (R169 gives rows no size; log entry 2). -/
opaque Config.rowOf : Nat → Nat

end Sys2Proof
end

