-- ==== Sys2Proof/Machine/Fields.lean ====
section
/-! DEFINITION. Every field of every set-up register of the spec's field tables, as one named constant (offset, bits, access code, reset
value, selector): the machine reads and writes registers through these names only. -/
namespace Sys2Proof.Machine

/-- The access codes of Table 19-5. -/
inductive Acc where
  | rw | ro | wo | w1c | w1s | rc
deriving DecidableEq, Repr

/-- What selects the instance of a register: nothing, the access path itself (a register held per access path, R484), or the selector
register of the path. -/
inductive Sel where
  | one | path | task | lane | acu | link | station | conn | fn | dio | aio | adc | can | imv | sec | log | pulse
deriving DecidableEq, Repr

/-- One field of a register: the register's offset in the set-up window, the low bit, the width, the access code, the value after a
restart, and the selector. -/
structure Fld where
  off : Nat
  lo : Nat
  w : Nat
  acc : Acc
  reset : Nat
  sel : Sel
deriving DecidableEq, Repr

/-- The key of an instance of a field in the register file. -/
def Fld.key (f : Fld) (ix : Nat) : Nat := (f.off * 32 + f.lo) * 65536 + ix

/-- KRB_SERLO.SER, 17 R460; no reset value given: 0, DESIGN CHOICE, log entry 1. -/
def KRB_SERLO_SER : Fld := ⟨0x0, 0, 32, .ro, 0, .one⟩
/-- KRB_SERHI.SER, 17 R460; no reset value given: 0, DESIGN CHOICE, log entry 1. -/
def KRB_SERHI_SER : Fld := ⟨0x4, 0, 32, .ro, 0, .one⟩
/-- KRB_ORDER.X, 17 R460; reset 77: DESIGN CHOICE (the example CFM-9600-M2S of the manual), log entry 1. -/
def KRB_ORDER_X : Fld := ⟨0x8, 0, 8, .ro, 77, .one⟩
/-- KRB_ORDER.Y, 17 R460; reset 50: DESIGN CHOICE (the example CFM-9600-M2S of the manual), log entry 1. -/
def KRB_ORDER_Y : Fld := ⟨0x8, 8, 8, .ro, 50, .one⟩
/-- KRB_ORDER.Z, 17 R460; reset 83: DESIGN CHOICE (the example CFM-9600-M2S of the manual), log entry 1. -/
def KRB_ORDER_Z : Fld := ⟨0x8, 16, 8, .ro, 83, .one⟩
/-- KRB_DEVID0.DIGEST, 17 R460; no reset value given: 0, DESIGN CHOICE, log entry 1. -/
def KRB_DEVID0_DIGEST : Fld := ⟨0x10, 0, 32, .ro, 0, .one⟩
/-- KRB_DEVID1.DIGEST, 17 R460; no reset value given: 0, DESIGN CHOICE, log entry 1. -/
def KRB_DEVID1_DIGEST : Fld := ⟨0x14, 0, 32, .ro, 0, .one⟩
/-- KRB_DEVID2.DIGEST, 17 R460; no reset value given: 0, DESIGN CHOICE, log entry 1. -/
def KRB_DEVID2_DIGEST : Fld := ⟨0x18, 0, 32, .ro, 0, .one⟩
/-- KRB_DEVID3.DIGEST, 17 R460; no reset value given: 0, DESIGN CHOICE, log entry 1. -/
def KRB_DEVID3_DIGEST : Fld := ⟨0x1C, 0, 32, .ro, 0, .one⟩
/-- KRB_STAT.PARTNERNEW, 17 R460; reset 0. -/
def KRB_STAT_PARTNERNEW : Fld := ⟨0x20, 0, 1, .w1c, 0, .one⟩
/-- KRB_STAT.MOVED, 17 R460; reset 0. -/
def KRB_STAT_MOVED : Fld := ⟨0x20, 1, 1, .w1c, 0, .one⟩
/-- KRB_IGNSTAT.IGNCNT, 19 R493; reset 0. -/
def KRB_IGNSTAT_IGNCNT : Fld := ⟨0x40, 0, 16, .rc, 0, .one⟩
/-- KRB_IGNSTAT.CAUSE, 19 R493; reset 0. -/
def KRB_IGNSTAT_CAUSE : Fld := ⟨0x40, 16, 4, .ro, 0, .one⟩
/-- KRB_IGNADDR.OFFSET, 19 R493; reset 0. -/
def KRB_IGNADDR_OFFSET : Fld := ⟨0x44, 0, 24, .ro, 0, .one⟩
/-- KRB_IGNPATH.PATH, 19 R493; reset 0. -/
def KRB_IGNPATH_PATH : Fld := ⟨0x48, 0, 16, .ro, 0, .one⟩
/-- KRB_SWSTAT.SAFEEDIT, 19 R493; reset 0. -/
def KRB_SWSTAT_SAFEEDIT : Fld := ⟨0x4C, 0, 1, .ro, 0, .one⟩
/-- KRB_SWSTAT.UPDEN, 19 R493; reset 0. -/
def KRB_SWSTAT_UPDEN : Fld := ⟨0x4C, 1, 1, .ro, 0, .one⟩
/-- KRB_SWSTAT.SAFEFLT, 19 R493; reset 0. -/
def KRB_SWSTAT_SAFEFLT : Fld := ⟨0x4C, 2, 1, .ro, 0, .one⟩
/-- KRB_SWSTAT.UPDFLT, 19 R493; reset 0. -/
def KRB_SWSTAT_UPDFLT : Fld := ⟨0x4C, 3, 1, .ro, 0, .one⟩
/-- KRB_SWSTAT.CHGCNT, 19 R493; reset 0. -/
def KRB_SWSTAT_CHGCNT : Fld := ⟨0x4C, 8, 8, .rc, 0, .one⟩
/-- KRB_HBCFG.HBSEEN, 01 R18; reset 0. -/
def KRB_HBCFG_HBSEEN : Fld := ⟨0x100, 0, 8, .ro, 0, .one⟩
/-- KRB_HBCFG.TIMEOUT, 01 R18; reset 8. -/
def KRB_HBCFG_TIMEOUT : Fld := ⟨0x100, 8, 5, .rw, 8, .one⟩
/-- KRB_HBCFG.WATCHED, 01 R18; reset 255. -/
def KRB_HBCFG_WATCHED : Fld := ⟨0x100, 16, 8, .ro, 255, .one⟩
/-- KRB_HBCFG.TRIPPED, 01 R18; reset 0. -/
def KRB_HBCFG_TRIPPED : Fld := ⟨0x100, 31, 1, .ro, 0, .one⟩
/-- KRB_BLKID.BLOCK, 19 R488; reset 0. -/
def KRB_BLKID_BLOCK : Fld := ⟨0x7FF0, 0, 8, .ro, 0, .one⟩
/-- KRB_BLKID.VER, 19 R488; no reset value given: 0, DESIGN CHOICE, log entry 1. -/
def KRB_BLKID_VER : Fld := ⟨0x7FF0, 16, 16, .ro, 0, .one⟩
/-- KRB_BLKSTATLO.READY, 19 R488; reset 0. -/
def KRB_BLKSTATLO_READY : Fld := ⟨0x7FF8, 0, 1, .ro, 0, .one⟩
/-- KRB_BLKSTATLO.FAULT, 19 R488; reset 0. -/
def KRB_BLKSTATLO_FAULT : Fld := ⟨0x7FF8, 1, 1, .ro, 0, .one⟩
/-- KRB_BLKSTATLO.WARN, 19 R488; reset 0. -/
def KRB_BLKSTATLO_WARN : Fld := ⟨0x7FF8, 2, 1, .ro, 0, .one⟩
/-- KRB_BLKSTATLO.IGNCNT, 19 R488; reset 0. -/
def KRB_BLKSTATLO_IGNCNT : Fld := ⟨0x7FF8, 8, 8, .rc, 0, .one⟩
/-- KRB_BLKSTATLO.LASTWR, 19 R488; reset 0. -/
def KRB_BLKSTATLO_LASTWR : Fld := ⟨0x7FF8, 16, 14, .ro, 0, .one⟩
/-- KRB_BLKSTATHI.WRCNT, 19 R488; reset 0. -/
def KRB_BLKSTATHI_WRCNT : Fld := ⟨0x7FFC, 0, 32, .ro, 0, .one⟩
/-- PWR_STAT.PSTATE, 18 R483; reset 0. -/
def PWR_STAT_PSTATE : Fld := ⟨0x10000, 0, 3, .ro, 0, .one⟩
/-- PWR_STAT.LANECLK, 18 R483; reset 0. -/
def PWR_STAT_LANECLK : Fld := ⟨0x10000, 3, 3, .ro, 0, .one⟩
/-- PWR_STAT.SAG, 18 R483; reset 0. -/
def PWR_STAT_SAG : Fld := ⟨0x10000, 6, 1, .ro, 0, .one⟩
/-- PWR_STAT.THERM, 18 R483; reset 0. -/
def PWR_STAT_THERM : Fld := ⟨0x10000, 7, 1, .ro, 0, .one⟩
/-- PWR_STAT.CAPPED, 18 R483; reset 0. -/
def PWR_STAT_CAPPED : Fld := ⟨0x10000, 8, 1, .ro, 0, .one⟩
/-- PWR_STAT.STOREFLT, 18 R483; reset 0. -/
def PWR_STAT_STOREFLT : Fld := ⟨0x10000, 9, 1, .ro, 0, .one⟩
/-- PWR_STAT.MAINSA, 18 R483; reset 0. -/
def PWR_STAT_MAINSA : Fld := ⟨0x10000, 10, 1, .ro, 0, .one⟩
/-- PWR_STAT.MAINSB, 18 R483; reset 0. -/
def PWR_STAT_MAINSB : Fld := ⟨0x10000, 11, 1, .ro, 0, .one⟩
/-- PWR_STAT.COOLOK, 18 R483; reset 0. -/
def PWR_STAT_COOLOK : Fld := ⟨0x10000, 12, 1, .ro, 0, .one⟩
/-- PWR_STAT.PREHEAT, 18 R483; reset 0. -/
def PWR_STAT_PREHEAT : Fld := ⟨0x10000, 13, 1, .ro, 0, .one⟩
/-- PWR_STAT.TWARN, 18 R483; reset 0. -/
def PWR_STAT_TWARN : Fld := ⟨0x10000, 14, 1, .ro, 0, .one⟩
/-- PWR_STAT.SAGCNT, 18 R483; reset 0. -/
def PWR_STAT_SAGCNT : Fld := ⟨0x10000, 16, 8, .rc, 0, .one⟩
/-- PWR_STAT.THCNT, 18 R483; reset 0. -/
def PWR_STAT_THCNT : Fld := ⟨0x10000, 24, 8, .rc, 0, .one⟩
/-- PWR_CTL.MAXSTATE, 18 R483; reset 3. -/
def PWR_CTL_MAXSTATE : Fld := ⟨0x10004, 0, 2, .rw, 3, .one⟩
/-- PWR_CTL.MAINSCFG, 18 R483; reset 0. -/
def PWR_CTL_MAINSCFG : Fld := ⟨0x10004, 2, 2, .rw, 0, .one⟩
/-- PWR_MAINSA.V, 18 R483; no reset value given: 0, DESIGN CHOICE, log entry 1. -/
def PWR_MAINSA_V : Fld := ⟨0x10008, 0, 16, .ro, 0, .one⟩
/-- PWR_MAINSA.I, 18 R483; no reset value given: 0, DESIGN CHOICE, log entry 1. -/
def PWR_MAINSA_I : Fld := ⟨0x10008, 16, 16, .ro, 0, .one⟩
/-- PWR_MAINSB.V, 18 R483; no reset value given: 0, DESIGN CHOICE, log entry 1. -/
def PWR_MAINSB_V : Fld := ⟨0x1000C, 0, 16, .ro, 0, .one⟩
/-- PWR_MAINSB.I, 18 R483; no reset value given: 0, DESIGN CHOICE, log entry 1. -/
def PWR_MAINSB_I : Fld := ⟨0x1000C, 16, 16, .ro, 0, .one⟩
/-- PWR_BUS.V, 18 R483; no reset value given: 0, DESIGN CHOICE, log entry 1. -/
def PWR_BUS_V : Fld := ⟨0x10010, 0, 16, .ro, 0, .one⟩
/-- PWR_BUS.CHARGE, 18 R483; no reset value given: 0, DESIGN CHOICE, log entry 1. -/
def PWR_BUS_CHARGE : Fld := ⟨0x10010, 16, 8, .ro, 0, .one⟩
/-- PWR_TEMP.INLET, 18 R483; no reset value given: 0, DESIGN CHOICE, log entry 1. -/
def PWR_TEMP_INLET : Fld := ⟨0x10014, 0, 16, .ro, 0, .one⟩
/-- PWR_TEMP.DIE, 18 R483; no reset value given: 0, DESIGN CHOICE, log entry 1. -/
def PWR_TEMP_DIE : Fld := ⟨0x10014, 16, 16, .ro, 0, .one⟩
/-- PWR_TEMP2.COLD, 18 R483; no reset value given: 0, DESIGN CHOICE, log entry 1. -/
def PWR_TEMP2_COLD : Fld := ⟨0x10018, 0, 16, .ro, 0, .one⟩
/-- PWR_TEMP2.STACK, 18 R483; no reset value given: 0, DESIGN CHOICE, log entry 1. -/
def PWR_TEMP2_STACK : Fld := ⟨0x10018, 16, 16, .ro, 0, .one⟩
/-- PWR_FLOW.FLOW, 18 R483; no reset value given: 0, DESIGN CHOICE, log entry 1. -/
def PWR_FLOW_FLOW : Fld := ⟨0x1001C, 0, 16, .ro, 0, .one⟩
/-- PWR_FLOW.OUTLET, 18 R483; no reset value given: 0, DESIGN CHOICE, log entry 1. -/
def PWR_FLOW_OUTLET : Fld := ⟨0x1001C, 16, 16, .ro, 0, .one⟩
/-- PWR_TOL.TOL, 18 R483; reset 0xFFFF_FFFF: DEDUCED (no declaration), log entry 1. -/
def PWR_TOL_TOL : Fld := ⟨0x10020, 0, 32, .ro, 4294967295, .one⟩
/-- PWR_POWER.DRAW, 18 R483; no reset value given: 0, DESIGN CHOICE, log entry 1. -/
def PWR_POWER_DRAW : Fld := ⟨0x10024, 0, 16, .ro, 0, .one⟩
/-- PWR_POWER.PEAK, 18 R483; no reset value given: 0, DESIGN CHOICE, log entry 1. -/
def PWR_POWER_PEAK : Fld := ⟨0x10024, 16, 16, .ro, 0, .one⟩
/-- PWR_CMD.CMD, 18 R483; no reset value given: 0, DESIGN CHOICE, log entry 1. -/
def PWR_CMD_CMD : Fld := ⟨0x10030, 0, 2, .wo, 0, .one⟩
/-- PWR_BLKID.BLOCK, 19 R488; reset 1. -/
def PWR_BLKID_BLOCK : Fld := ⟨0x17FF0, 0, 8, .ro, 1, .one⟩
/-- PWR_BLKID.VER, 19 R488; no reset value given: 0, DESIGN CHOICE, log entry 1. -/
def PWR_BLKID_VER : Fld := ⟨0x17FF0, 16, 16, .ro, 0, .one⟩
/-- PWR_BLKSTATLO.READY, 19 R488; reset 0. -/
def PWR_BLKSTATLO_READY : Fld := ⟨0x17FF8, 0, 1, .ro, 0, .one⟩
/-- PWR_BLKSTATLO.FAULT, 19 R488; reset 0. -/
def PWR_BLKSTATLO_FAULT : Fld := ⟨0x17FF8, 1, 1, .ro, 0, .one⟩
/-- PWR_BLKSTATLO.WARN, 19 R488; reset 0. -/
def PWR_BLKSTATLO_WARN : Fld := ⟨0x17FF8, 2, 1, .ro, 0, .one⟩
/-- PWR_BLKSTATLO.IGNCNT, 19 R488; reset 0. -/
def PWR_BLKSTATLO_IGNCNT : Fld := ⟨0x17FF8, 8, 8, .rc, 0, .one⟩
/-- PWR_BLKSTATLO.LASTWR, 19 R488; reset 0. -/
def PWR_BLKSTATLO_LASTWR : Fld := ⟨0x17FF8, 16, 14, .ro, 0, .one⟩
/-- PWR_BLKSTATHI.WRCNT, 19 R488; reset 0. -/
def PWR_BLKSTATHI_WRCNT : Fld := ⟨0x17FFC, 0, 32, .ro, 0, .one⟩
/-- TIM_CTL.DOMPREF, 11 R312; reset 0. -/
def TIM_CTL_DOMPREF : Fld := ⟨0x20000, 0, 1, .rw, 0, .one⟩
/-- TIM_CTL.AUTOSWITCH, 11 R312; reset 1. -/
def TIM_CTL_AUTOSWITCH : Fld := ⟨0x20000, 1, 1, .rw, 1, .one⟩
/-- TIM_CTL.SWITCH, 11 R312; reset 0. -/
def TIM_CTL_SWITCH : Fld := ⟨0x20000, 2, 1, .w1s, 0, .one⟩
/-- TIM_CTL.GMCAP, 11 R312; reset 0. -/
def TIM_CTL_GMCAP : Fld := ⟨0x20000, 3, 1, .rw, 0, .one⟩
/-- TIM_CTL.DOMDIFF, 11 R312; reset 20. -/
def TIM_CTL_DOMDIFF : Fld := ⟨0x20000, 4, 8, .rw, 20, .one⟩
/-- TIM_STAT.ACTIVE, 11 R312; reset 0. -/
def TIM_STAT_ACTIVE : Fld := ⟨0x20004, 0, 1, .ro, 0, .one⟩
/-- TIM_STAT.D0LOCK, 11 R312; reset 0. -/
def TIM_STAT_D0LOCK : Fld := ⟨0x20004, 1, 1, .ro, 0, .one⟩
/-- TIM_STAT.D1LOCK, 11 R312; reset 0. -/
def TIM_STAT_D1LOCK : Fld := ⟨0x20004, 2, 1, .ro, 0, .one⟩
/-- TIM_STAT.HOLDOVER, 11 R312; reset 0. -/
def TIM_STAT_HOLDOVER : Fld := ⟨0x20004, 3, 1, .ro, 0, .one⟩
/-- TIM_STAT.DOMSPLIT, 11 R312; reset 0. -/
def TIM_STAT_DOMSPLIT : Fld := ⟨0x20004, 4, 1, .ro, 0, .one⟩
/-- TIM_STAT.PAIRSYNC, 11 R312; reset 0. -/
def TIM_STAT_PAIRSYNC : Fld := ⟨0x20004, 5, 1, .ro, 0, .one⟩
/-- TIM_STAT.SWCNT, 11 R312; reset 0. -/
def TIM_STAT_SWCNT : Fld := ⟨0x20004, 8, 8, .rc, 0, .one⟩
/-- TIM_STAT.OFFSET, 11 R312; reset 0. -/
def TIM_STAT_OFFSET : Fld := ⟨0x20004, 16, 16, .ro, 0, .one⟩
/-- TIM_NS.NS, 11 R312; no reset value given: 0, DESIGN CHOICE, log entry 1. -/
def TIM_NS_NS : Fld := ⟨0x20008, 0, 30, .ro, 0, .one⟩
/-- TIM_SECLO.SEC, 11 R312; no reset value given: 0, DESIGN CHOICE, log entry 1. -/
def TIM_SECLO_SEC : Fld := ⟨0x2000C, 0, 32, .ro, 0, .one⟩
/-- TIM_SECHI.SEC, 11 R312; no reset value given: 0, DESIGN CHOICE, log entry 1. -/
def TIM_SECHI_SEC : Fld := ⟨0x20010, 0, 16, .ro, 0, .one⟩
/-- TIM_POSEL.OUT, 11 R312; no reset value given: 0, DESIGN CHOICE, log entry 1. -/
def TIM_POSEL_OUT : Fld := ⟨0x20020, 0, 1, .rw, 0, .path⟩
/-- TIM_POSTART.SEC, 11 R312; no reset value given: 0, DESIGN CHOICE, log entry 1. -/
def TIM_POSTART_SEC : Fld := ⟨0x20024, 0, 32, .rw, 0, .pulse⟩
/-- TIM_POSTARTNS.NS, 11 R312; no reset value given: 0, DESIGN CHOICE, log entry 1. -/
def TIM_POSTARTNS_NS : Fld := ⟨0x20028, 0, 30, .rw, 0, .pulse⟩
/-- TIM_POPERIOD.NS, 11 R312; no reset value given: 0, DESIGN CHOICE, log entry 1. -/
def TIM_POPERIOD_NS : Fld := ⟨0x2002C, 0, 32, .rw, 0, .pulse⟩
/-- TIM_POWIDTH.NS, 11 R312; no reset value given: 0, DESIGN CHOICE, log entry 1. -/
def TIM_POWIDTH_NS : Fld := ⟨0x20030, 0, 32, .rw, 0, .pulse⟩
/-- TIM_POCTL.ARM, 11 R312; reset 0. -/
def TIM_POCTL_ARM : Fld := ⟨0x20034, 0, 1, .w1s, 0, .pulse⟩
/-- TIM_POCTL.STOP, 11 R312; reset 0. -/
def TIM_POCTL_STOP : Fld := ⟨0x20034, 1, 1, .w1s, 0, .pulse⟩
/-- TIM_POCTL.RUNNING, 11 R312; reset 0. -/
def TIM_POCTL_RUNNING : Fld := ⟨0x20034, 2, 1, .ro, 0, .pulse⟩
/-- TIM_POCTL.LATE, 11 R312; reset 0. -/
def TIM_POCTL_LATE : Fld := ⟨0x20034, 3, 1, .ro, 0, .pulse⟩
/-- TIM_POCTL.POL, 11 R312; reset 0. -/
def TIM_POCTL_POL : Fld := ⟨0x20034, 4, 1, .rw, 0, .pulse⟩
/-- TIM_POCTL.COUNT, 11 R312; reset 0. -/
def TIM_POCTL_COUNT : Fld := ⟨0x20034, 16, 16, .rw, 0, .pulse⟩
/-- TIM_CAPCFG.EDGE2, 11 R312; reset 0. -/
def TIM_CAPCFG_EDGE2 : Fld := ⟨0x20040, 0, 2, .rw, 0, .one⟩
/-- TIM_CAPCFG.EDGE3, 11 R312; reset 0. -/
def TIM_CAPCFG_EDGE3 : Fld := ⟨0x20040, 2, 2, .rw, 0, .one⟩
/-- TIM_CAPCFG.MEASEN, 11 R312; reset 0. -/
def TIM_CAPCFG_MEASEN : Fld := ⟨0x20040, 4, 1, .rw, 0, .one⟩
/-- TIM_CAPCFG.STARTIN, 11 R312; reset 0. -/
def TIM_CAPCFG_STARTIN : Fld := ⟨0x20040, 5, 1, .rw, 0, .one⟩
/-- TIM_CAPCFG.STARTEDGE, 11 R312; reset 0. -/
def TIM_CAPCFG_STARTEDGE : Fld := ⟨0x20040, 6, 1, .rw, 0, .one⟩
/-- TIM_CAPCFG.STOPEDGE, 11 R312; reset 0. -/
def TIM_CAPCFG_STOPEDGE : Fld := ⟨0x20040, 7, 1, .rw, 0, .one⟩
/-- TIM_CAPCFG.GLITCH, 11 R312; reset 0. -/
def TIM_CAPCFG_GLITCH : Fld := ⟨0x20040, 8, 8, .rw, 0, .one⟩
/-- TIM_CAPCFG.TAIL, 11 R312; reset 0. -/
def TIM_CAPCFG_TAIL : Fld := ⟨0x20040, 16, 16, .rw, 0, .one⟩
/-- TIM_CAPSTAT.HEAD, 11 R312; reset 0. -/
def TIM_CAPSTAT_HEAD : Fld := ⟨0x20044, 0, 16, .ro, 0, .one⟩
/-- TIM_CAPSTAT.LOST, 11 R312; reset 0. -/
def TIM_CAPSTAT_LOST : Fld := ⟨0x20044, 16, 8, .rc, 0, .one⟩
/-- TIM_CAPSTAT.ORDERCNT, 11 R312; reset 0. -/
def TIM_CAPSTAT_ORDERCNT : Fld := ⟨0x20044, 24, 8, .rc, 0, .one⟩
/-- TIM_BLKID.BLOCK, 19 R488; reset 2. -/
def TIM_BLKID_BLOCK : Fld := ⟨0x27FF0, 0, 8, .ro, 2, .one⟩
/-- TIM_BLKID.VER, 19 R488; no reset value given: 0, DESIGN CHOICE, log entry 1. -/
def TIM_BLKID_VER : Fld := ⟨0x27FF0, 16, 16, .ro, 0, .one⟩
/-- TIM_BLKSTATLO.READY, 19 R488; reset 0. -/
def TIM_BLKSTATLO_READY : Fld := ⟨0x27FF8, 0, 1, .ro, 0, .one⟩
/-- TIM_BLKSTATLO.FAULT, 19 R488; reset 0. -/
def TIM_BLKSTATLO_FAULT : Fld := ⟨0x27FF8, 1, 1, .ro, 0, .one⟩
/-- TIM_BLKSTATLO.WARN, 19 R488; reset 0. -/
def TIM_BLKSTATLO_WARN : Fld := ⟨0x27FF8, 2, 1, .ro, 0, .one⟩
/-- TIM_BLKSTATLO.IGNCNT, 19 R488; reset 0. -/
def TIM_BLKSTATLO_IGNCNT : Fld := ⟨0x27FF8, 8, 8, .rc, 0, .one⟩
/-- TIM_BLKSTATLO.LASTWR, 19 R488; reset 0. -/
def TIM_BLKSTATLO_LASTWR : Fld := ⟨0x27FF8, 16, 14, .ro, 0, .one⟩
/-- TIM_BLKSTATHI.WRCNT, 19 R488; reset 0. -/
def TIM_BLKSTATHI_WRCNT : Fld := ⟨0x27FFC, 0, 32, .ro, 0, .one⟩
/-- SCH_MODE.MODE, 02 R498; reset 0. -/
def SCH_MODE_MODE : Fld := ⟨0x30000, 0, 2, .ro, 0, .one⟩
/-- SCH_MODE.REQ, 02 R498; reset 0. -/
def SCH_MODE_REQ : Fld := ⟨0x30000, 2, 2, .wo, 0, .one⟩
/-- SCH_MODE.START, 02 R498; reset 0. -/
def SCH_MODE_START : Fld := ⟨0x30000, 4, 2, .rw, 0, .one⟩
/-- SCH_MODE.LASTSTART, 02 R498; reset 3. -/
def SCH_MODE_LASTSTART : Fld := ⟨0x30000, 6, 2, .ro, 3, .one⟩
/-- SCH_MODE.FORCED, 02 R498; reset 0. -/
def SCH_MODE_FORCED : Fld := ⟨0x30000, 8, 1, .ro, 0, .one⟩
/-- SCH_MODE.PROFILE, 02 R498; reset 0. -/
def SCH_MODE_PROFILE : Fld := ⟨0x30000, 9, 1, .ro, 0, .one⟩
/-- SCH_MODE.FORCECNT, 02 R498; reset 0. -/
def SCH_MODE_FORCECNT : Fld := ⟨0x30000, 16, 13, .ro, 0, .one⟩
/-- SCH_TASKCTL.TASK, 02 R498; reset 0. -/
def SCH_TASKCTL_TASK : Fld := ⟨0x30004, 0, 8, .wo, 0, .one⟩
/-- SCH_TASKCTL.CMD, 02 R498; reset 0. -/
def SCH_TASKCTL_CMD : Fld := ⟨0x30004, 8, 3, .wo, 0, .one⟩
/-- SCH_TICK.N, 02 R56; no reset value given: 0, DESIGN CHOICE, log entry 1. -/
def SCH_TICK_N : Fld := ⟨0x30008, 0, 32, .ro, 0, .one⟩
/-- SCH_TASKSEL.TASK, 02 R56; no reset value given: 0, DESIGN CHOICE, log entry 1. -/
def SCH_TASKSEL_TASK : Fld := ⟨0x30010, 0, 8, .rw, 0, .path⟩
/-- SCH_TASKCFG.PERIOD, 02 R498; reset 0. -/
def SCH_TASKCFG_PERIOD : Fld := ⟨0x30020, 0, 18, .rw, 0, .task⟩
/-- SCH_TASKCFG.PRIO, 02 R498; reset 15. -/
def SCH_TASKCFG_PRIO : Fld := ⟨0x30020, 18, 4, .rw, 15, .task⟩
/-- SCH_TASKCFG.KIND, 02 R498; reset 0. -/
def SCH_TASKCFG_KIND : Fld := ⟨0x30020, 22, 2, .rw, 0, .task⟩
/-- SCH_TASKCFG.SAFETY, 02 R498; reset 0. -/
def SCH_TASKCFG_SAFETY : Fld := ⟨0x30020, 24, 1, .ro, 0, .task⟩
/-- SCH_TASKCFG.SPEC, 02 R498; reset 0. -/
def SCH_TASKCFG_SPEC : Fld := ⟨0x30020, 25, 1, .rw, 0, .task⟩
/-- SCH_TASKCFG.OUTMODE, 02 R498; reset 0. -/
def SCH_TASKCFG_OUTMODE : Fld := ⟨0x30020, 26, 1, .rw, 0, .task⟩
/-- SCH_TASKPHASE.PHASE, 02 R498; reset 0. -/
def SCH_TASKPHASE_PHASE : Fld := ⟨0x30024, 0, 18, .rw, 0, .task⟩
/-- SCH_TASKPHASE.LANES, 02 R498; reset 1. -/
def SCH_TASKPHASE_LANES : Fld := ⟨0x30024, 18, 5, .rw, 1, .task⟩
/-- SCH_TASKPHASE.QUARTER, 02 R498; reset 0. -/
def SCH_TASKPHASE_QUARTER : Fld := ⟨0x30024, 23, 3, .rw, 0, .task⟩
/-- SCH_TASKSTAT.STATE, 02 R498; reset 0. -/
def SCH_TASKSTAT_STATE : Fld := ⟨0x30028, 0, 2, .ro, 0, .task⟩
/-- SCH_TASKSTAT.LATE, 02 R498; reset 0. -/
def SCH_TASKSTAT_LATE : Fld := ⟨0x30028, 2, 1, .ro, 0, .task⟩
/-- SCH_TASKSTAT.CATCHUP, 02 R498; reset 0. -/
def SCH_TASKSTAT_CATCHUP : Fld := ⟨0x30028, 3, 1, .ro, 0, .task⟩
/-- SCH_TASKSTAT.PENDING, 02 R498; reset 0. -/
def SCH_TASKSTAT_PENDING : Fld := ⟨0x30028, 4, 1, .ro, 0, .task⟩
/-- SCH_TASKSTAT.WDOG, 02 R498; reset 0. -/
def SCH_TASKSTAT_WDOG : Fld := ⟨0x30028, 5, 1, .w1c, 0, .task⟩
/-- SCH_TASKSTAT.LAGTICKS, 02 R498; reset 0. -/
def SCH_TASKSTAT_LAGTICKS : Fld := ⟨0x30028, 16, 16, .ro, 0, .task⟩
/-- SCH_TASKCNT.LATECNT, 02 R498; reset 0. -/
def SCH_TASKCNT_LATECNT : Fld := ⟨0x3002C, 0, 16, .rc, 0, .task⟩
/-- SCH_TASKCNT.SKIPCNT, 02 R498; reset 0. -/
def SCH_TASKCNT_SKIPCNT : Fld := ⟨0x3002C, 16, 16, .rc, 0, .task⟩
/-- SCH_TASKEVT.CANCNT, 02 R498; reset 0. -/
def SCH_TASKEVT_CANCNT : Fld := ⟨0x30030, 0, 16, .rc, 0, .task⟩
/-- SCH_TASKEVT.ACTCNT, 02 R498; reset 0. -/
def SCH_TASKEVT_ACTCNT : Fld := ⟨0x30030, 16, 16, .ro, 0, .task⟩
/-- SCH_TASKXCP.CODE, 04 R115; reset 0. -/
def SCH_TASKXCP_CODE : Fld := ⟨0x30034, 0, 8, .ro, 0, .task⟩
/-- SCH_TASKXCP.STREAM, 04 R115; reset 0. -/
def SCH_TASKXCP_STREAM : Fld := ⟨0x30034, 8, 4, .ro, 0, .task⟩
/-- SCH_TASKXCP.PEND, 04 R115; reset 0. -/
def SCH_TASKXCP_PEND : Fld := ⟨0x30034, 12, 1, .ro, 0, .task⟩
/-- SCH_TASKXCP.POLICY, 04 R115; reset 0. -/
def SCH_TASKXCP_POLICY : Fld := ⟨0x30034, 13, 1, .rw, 0, .task⟩
/-- SCH_TASKXCP.DISP, 04 R115; reset 0. -/
def SCH_TASKXCP_DISP : Fld := ⟨0x30034, 14, 2, .wo, 0, .task⟩
/-- SCH_TASKXCP.XCPCNT, 04 R115; reset 0. -/
def SCH_TASKXCP_XCPCNT : Fld := ⟨0x30034, 16, 8, .rc, 0, .task⟩
/-- SCH_TASKXCP.ABTCNT, 04 R115; reset 0. -/
def SCH_TASKXCP_ABTCNT : Fld := ⟨0x30034, 24, 8, .rc, 0, .task⟩
/-- SCH_XCPCNT.DISPREF, 04 R115; reset 0. -/
def SCH_XCPCNT_DISPREF : Fld := ⟨0x30038, 0, 8, .rc, 0, .task⟩
/-- SCH_OLCCTL.CMD, 09 R252; reset 0. -/
def SCH_OLCCTL_CMD : Fld := ⟨0x30040, 0, 2, .wo, 0, .one⟩
/-- SCH_OLCCTL.MINLEAD, 09 R252; reset 10. -/
def SCH_OLCCTL_MINLEAD : Fld := ⟨0x30040, 8, 8, .rw, 10, .one⟩
/-- SCH_OLCSTAT.STEP, 09 R252; reset 0. -/
def SCH_OLCSTAT_STEP : Fld := ⟨0x30044, 0, 3, .ro, 0, .one⟩
/-- SCH_OLCSTAT.ACTSTORE, 09 R252; reset 0. -/
def SCH_OLCSTAT_ACTSTORE : Fld := ⟨0x30044, 3, 1, .ro, 0, .one⟩
/-- SCH_OLCSTAT.FALLBACK, 09 R252; reset 0. -/
def SCH_OLCSTAT_FALLBACK : Fld := ⟨0x30044, 4, 1, .ro, 0, .one⟩
/-- SCH_OLCSTAT.ABNCNT, 09 R252; reset 0. -/
def SCH_OLCSTAT_ABNCNT : Fld := ⟨0x30044, 8, 8, .rc, 0, .one⟩
/-- SCH_OLCSTAT.MIGCNT, 09 R252; reset 0. -/
def SCH_OLCSTAT_MIGCNT : Fld := ⟨0x30044, 16, 16, .rc, 0, .one⟩
/-- SCH_OLCCSNLO.CSN, 09 R252; no reset value given: 0, DESIGN CHOICE, log entry 1. -/
def SCH_OLCCSNLO_CSN : Fld := ⟨0x30048, 0, 32, .ro, 0, .one⟩
/-- SCH_OLCCSNHI.CSN, 09 R252; no reset value given: 0, DESIGN CHOICE, log entry 1. -/
def SCH_OLCCSNHI_CSN : Fld := ⟨0x3004C, 0, 32, .ro, 0, .one⟩
/-- SCH_COALSTAT.OPEN, 09 R252; reset 0. -/
def SCH_COALSTAT_OPEN : Fld := ⟨0x30050, 0, 9, .ro, 0, .one⟩
/-- SCH_COALSTAT.OVFCNT, 09 R252; reset 0. -/
def SCH_COALSTAT_OVFCNT : Fld := ⟨0x30050, 16, 8, .rc, 0, .one⟩
/-- SCH_CFGCMD.CMD, 09 R252; reset 0. -/
def SCH_CFGCMD_CMD : Fld := ⟨0x30060, 0, 3, .wo, 0, .one⟩
/-- SCH_CFGOFF.OFF, 09 R252; no reset value given: 0, DESIGN CHOICE, log entry 1. -/
def SCH_CFGOFF_OFF : Fld := ⟨0x30064, 15, 15, .rw, 0, .one⟩
/-- SCH_CFGCRC.CRC, 09 R252; no reset value given: 0, DESIGN CHOICE, log entry 1. -/
def SCH_CFGCRC_CRC : Fld := ⟨0x30068, 0, 32, .rw, 0, .one⟩
/-- SCH_CFGLEN.LEN, 09 R252; no reset value given: 0, DESIGN CHOICE, log entry 1. -/
def SCH_CFGLEN_LEN : Fld := ⟨0x3006C, 0, 30, .rw, 0, .one⟩
/-- SCH_CFGSTAT.RESULT, 09 R252; reset 0. -/
def SCH_CFGSTAT_RESULT : Fld := ⟨0x30070, 0, 2, .ro, 0, .one⟩
/-- SCH_CFGSTAT.OPEN, 09 R252; reset 0. -/
def SCH_CFGSTAT_OPEN : Fld := ⟨0x30070, 2, 1, .ro, 0, .one⟩
/-- SCH_CFGSTAT.CHECKED, 09 R252; reset 0. -/
def SCH_CFGSTAT_CHECKED : Fld := ⟨0x30070, 3, 1, .ro, 0, .one⟩
/-- SCH_CFGSTAT.REFUSE, 09 R252; reset 0. -/
def SCH_CFGSTAT_REFUSE : Fld := ⟨0x30070, 4, 4, .ro, 0, .one⟩
/-- SCH_CFGSTAT.CHUNKS, 09 R252; reset 0. -/
def SCH_CFGSTAT_CHUNKS : Fld := ⟨0x30070, 16, 16, .ro, 0, .one⟩
/-- SCH_BLKID.BLOCK, 19 R488; reset 3. -/
def SCH_BLKID_BLOCK : Fld := ⟨0x37FF0, 0, 8, .ro, 3, .one⟩
/-- SCH_BLKID.VER, 19 R488; no reset value given: 0, DESIGN CHOICE, log entry 1. -/
def SCH_BLKID_VER : Fld := ⟨0x37FF0, 16, 16, .ro, 0, .one⟩
/-- SCH_BLKSTATLO.READY, 19 R488; reset 0. -/
def SCH_BLKSTATLO_READY : Fld := ⟨0x37FF8, 0, 1, .ro, 0, .one⟩
/-- SCH_BLKSTATLO.FAULT, 19 R488; reset 0. -/
def SCH_BLKSTATLO_FAULT : Fld := ⟨0x37FF8, 1, 1, .ro, 0, .one⟩
/-- SCH_BLKSTATLO.WARN, 19 R488; reset 0. -/
def SCH_BLKSTATLO_WARN : Fld := ⟨0x37FF8, 2, 1, .ro, 0, .one⟩
/-- SCH_BLKSTATLO.IGNCNT, 19 R488; reset 0. -/
def SCH_BLKSTATLO_IGNCNT : Fld := ⟨0x37FF8, 8, 8, .rc, 0, .one⟩
/-- SCH_BLKSTATLO.LASTWR, 19 R488; reset 0. -/
def SCH_BLKSTATLO_LASTWR : Fld := ⟨0x37FF8, 16, 14, .ro, 0, .one⟩
/-- SCH_BLKSTATHI.WRCNT, 19 R488; reset 0. -/
def SCH_BLKSTATHI_WRCNT : Fld := ⟨0x37FFC, 0, 32, .ro, 0, .one⟩
/-- XNG_CTL.INJEN, 06 R162; reset 1. -/
def XNG_CTL_INJEN : Fld := ⟨0x40000, 0, 1, .rw, 1, .one⟩
/-- XNG_CTL.INJIVL, 06 R162; reset 100. -/
def XNG_CTL_INJIVL : Fld := ⟨0x40000, 1, 10, .rw, 100, .one⟩
/-- XNG_CTL.RETN, 06 R162; reset 2. -/
def XNG_CTL_RETN : Fld := ⟨0x40000, 11, 3, .rw, 2, .one⟩
/-- XNG_CTL.DIVEVT, 06 R162; reset 1. -/
def XNG_CTL_DIVEVT : Fld := ⟨0x40000, 14, 1, .rw, 1, .one⟩
/-- XNG_STAT.RETIRED, 06 R162; reset 0. -/
def XNG_STAT_RETIRED : Fld := ⟨0x40004, 0, 7, .ro, 0, .one⟩
/-- XNG_STAT.ASSIGN, 06 R162; reset 88. -/
def XNG_STAT_ASSIGN : Fld := ⟨0x40004, 7, 7, .ro, 88, .one⟩
/-- XNG_STAT.RESERVE, 06 R162; reset 8. -/
def XNG_STAT_RESERVE : Fld := ⟨0x40004, 14, 4, .ro, 8, .one⟩
/-- XNG_STAT.LANESHORT, 06 R162; reset 0. -/
def XNG_STAT_LANESHORT : Fld := ⟨0x40004, 18, 1, .ro, 0, .one⟩
/-- XNG_STAT.QPARKED, 06 R162; reset 0. -/
def XNG_STAT_QPARKED : Fld := ⟨0x40004, 19, 6, .ro, 0, .one⟩
/-- XNG_STAT.TESTLATE, 06 R162; reset 0. -/
def XNG_STAT_TESTLATE : Fld := ⟨0x40004, 25, 1, .ro, 0, .one⟩
/-- XNG_DIVCNT.DIVCNT, 06 R162; reset 0. -/
def XNG_DIVCNT_DIVCNT : Fld := ⟨0x40008, 0, 16, .rc, 0, .one⟩
/-- XNG_DIVCNT.SAFECNT, 06 R162; reset 0. -/
def XNG_DIVCNT_SAFECNT : Fld := ⟨0x40008, 16, 16, .rc, 0, .one⟩
/-- XNG_FLTCNT.LFCNT, 06 R162; reset 0. -/
def XNG_FLTCNT_LFCNT : Fld := ⟨0x4000C, 0, 16, .rc, 0, .one⟩
/-- XNG_FLTCNT.RERUNFAIL, 06 R162; reset 0. -/
def XNG_FLTCNT_RERUNFAIL : Fld := ⟨0x4000C, 16, 8, .rc, 0, .one⟩
/-- XNG_FLTCNT.INJFAIL, 06 R162; reset 0. -/
def XNG_FLTCNT_INJFAIL : Fld := ⟨0x4000C, 24, 8, .rc, 0, .one⟩
/-- XNG_LANESEL.LANE, 06 R162; no reset value given: 0, DESIGN CHOICE, log entry 1. -/
def XNG_LANESEL_LANE : Fld := ⟨0x40010, 0, 7, .rw, 0, .path⟩
/-- XNG_LANESTAT.ROLE, 06 R162; no reset value given: 0, DESIGN CHOICE, log entry 1. -/
def XNG_LANESTAT_ROLE : Fld := ⟨0x40014, 0, 2, .ro, 0, .lane⟩
/-- XNG_LANESTAT.QUARTER, 06 R162; no reset value given: 0, DESIGN CHOICE, log entry 1. -/
def XNG_LANESTAT_QUARTER : Fld := ⟨0x40014, 2, 3, .ro, 0, .lane⟩
/-- XNG_LANESTAT.TRANS, 06 R162; reset 0. -/
def XNG_LANESTAT_TRANS : Fld := ⟨0x40014, 5, 3, .ro, 0, .lane⟩
/-- XNG_LANESTAT.INTEST, 06 R162; reset 0. -/
def XNG_LANESTAT_INTEST : Fld := ⟨0x40014, 8, 1, .ro, 0, .lane⟩
/-- XNG_LANESTAT.TESTAGE, 06 R162; reset 0. -/
def XNG_LANESTAT_TESTAGE : Fld := ⟨0x40014, 16, 16, .ro, 0, .lane⟩
/-- XNG_LASTFLT.LANE, 06 R162; reset 0. -/
def XNG_LASTFLT_LANE : Fld := ⟨0x40018, 0, 7, .ro, 0, .one⟩
/-- XNG_LASTFLT.ITEM, 06 R162; reset 0. -/
def XNG_LASTFLT_ITEM : Fld := ⟨0x40018, 8, 4, .ro, 0, .one⟩
/-- XNG_LASTFLT.TASK, 06 R162; reset 0. -/
def XNG_LASTFLT_TASK : Fld := ⟨0x40018, 12, 8, .ro, 0, .one⟩
/-- XNG_LASTFLT.STREAM, 06 R162; reset 0. -/
def XNG_LASTFLT_STREAM : Fld := ⟨0x40018, 20, 4, .ro, 0, .one⟩
/-- XNG_LASTFLT.SPEC, 06 R162; reset 0. -/
def XNG_LASTFLT_SPEC : Fld := ⟨0x40018, 24, 1, .ro, 0, .one⟩
/-- XNG_LASTFLT.AUDIT, 06 R162; reset 0. -/
def XNG_LASTFLT_AUDIT : Fld := ⟨0x40018, 25, 1, .ro, 0, .one⟩
/-- XNG_LASTFLT.INJ, 06 R162; reset 0. -/
def XNG_LASTFLT_INJ : Fld := ⟨0x40018, 26, 1, .ro, 0, .one⟩
/-- XNG_LASTFLT.VALID, 06 R162; reset 0. -/
def XNG_LASTFLT_VALID : Fld := ⟨0x40018, 31, 1, .w1c, 0, .one⟩
/-- XNG_LASTPC.PC, 06 R162; no reset value given: 0, DESIGN CHOICE, log entry 1. -/
def XNG_LASTPC_PC : Fld := ⟨0x4001C, 0, 32, .ro, 0, .one⟩
/-- XNG_RETMAP0.MAP, 06 R162; no reset value given: 0, DESIGN CHOICE, log entry 1. -/
def XNG_RETMAP0_MAP : Fld := ⟨0x40020, 0, 32, .ro, 0, .one⟩
/-- XNG_RETMAP1.MAP, 06 R162; no reset value given: 0, DESIGN CHOICE, log entry 1. -/
def XNG_RETMAP1_MAP : Fld := ⟨0x40024, 0, 32, .ro, 0, .one⟩
/-- XNG_RETMAP2.MAP, 06 R162; no reset value given: 0, DESIGN CHOICE, log entry 1. -/
def XNG_RETMAP2_MAP : Fld := ⟨0x40028, 0, 32, .ro, 0, .one⟩
/-- XNG_CMD.LANE, 06 R162; reset 0. -/
def XNG_CMD_LANE : Fld := ⟨0x40030, 0, 7, .wo, 0, .one⟩
/-- XNG_CMD.CMD, 06 R162; reset 0. -/
def XNG_CMD_CMD : Fld := ⟨0x40030, 7, 3, .wo, 0, .one⟩
/-- XNG_BLKID.BLOCK, 19 R488; reset 4. -/
def XNG_BLKID_BLOCK : Fld := ⟨0x47FF0, 0, 8, .ro, 4, .one⟩
/-- XNG_BLKID.VER, 19 R488; no reset value given: 0, DESIGN CHOICE, log entry 1. -/
def XNG_BLKID_VER : Fld := ⟨0x47FF0, 16, 16, .ro, 0, .one⟩
/-- XNG_BLKSTATLO.READY, 19 R488; reset 0. -/
def XNG_BLKSTATLO_READY : Fld := ⟨0x47FF8, 0, 1, .ro, 0, .one⟩
/-- XNG_BLKSTATLO.FAULT, 19 R488; reset 0. -/
def XNG_BLKSTATLO_FAULT : Fld := ⟨0x47FF8, 1, 1, .ro, 0, .one⟩
/-- XNG_BLKSTATLO.WARN, 19 R488; reset 0. -/
def XNG_BLKSTATLO_WARN : Fld := ⟨0x47FF8, 2, 1, .ro, 0, .one⟩
/-- XNG_BLKSTATLO.IGNCNT, 19 R488; reset 0. -/
def XNG_BLKSTATLO_IGNCNT : Fld := ⟨0x47FF8, 8, 8, .rc, 0, .one⟩
/-- XNG_BLKSTATLO.LASTWR, 19 R488; reset 0. -/
def XNG_BLKSTATLO_LASTWR : Fld := ⟨0x47FF8, 16, 14, .ro, 0, .one⟩
/-- XNG_BLKSTATHI.WRCNT, 19 R488; reset 0. -/
def XNG_BLKSTATHI_WRCNT : Fld := ⟨0x47FFC, 0, 32, .ro, 0, .one⟩
/-- SPC_CTL.ENABLE, 05 R140; reset 0. -/
def SPC_CTL_ENABLE : Fld := ⟨0x50000, 0, 1, .rw, 0, .one⟩
/-- SPC_CTL.SAGMIN, 05 R140; reset 1. -/
def SPC_CTL_SAGMIN : Fld := ⟨0x50000, 1, 3, .rw, 1, .one⟩
/-- SPC_CTL.ACTIVE, 05 R140; reset 0. -/
def SPC_CTL_ACTIVE : Fld := ⟨0x50000, 4, 1, .ro, 0, .one⟩
/-- SPC_CTL.POOLGIB, 05 R140; reset 8. -/
def SPC_CTL_POOLGIB : Fld := ⟨0x50000, 8, 6, .rw, 8, .one⟩
/-- SPC_CTL.INFLIGHT, 05 R140; reset 0. -/
def SPC_CTL_INFLIGHT : Fld := ⟨0x50000, 16, 9, .ro, 0, .one⟩
/-- SPC_POOLUSE.PAGES, 05 R140; reset 0. -/
def SPC_POOLUSE_PAGES : Fld := ⟨0x50004, 0, 24, .ro, 0, .one⟩
/-- SPC_POOLUSE.POOLFULL, 05 R140; reset 0. -/
def SPC_POOLUSE_POOLFULL : Fld := ⟨0x50004, 24, 8, .rc, 0, .one⟩
/-- SPC_TASKCFG.SPECLEAD, 05 R140; reset 0. -/
def SPC_TASKCFG_SPECLEAD : Fld := ⟨0x50020, 0, 16, .rw, 0, .task⟩
/-- SPC_TASKCFG.MINHIT, 05 R140; reset 0. -/
def SPC_TASKCFG_MINHIT : Fld := ⟨0x50020, 16, 7, .rw, 0, .task⟩
/-- SPC_TASKCFG.CONFMODE, 05 R140; reset 1. -/
def SPC_TASKCFG_CONFMODE : Fld := ⟨0x50020, 23, 1, .rw, 1, .task⟩
/-- SPC_TASKCFG.BACKOFF, 05 R140; reset 4. -/
def SPC_TASKCFG_BACKOFF : Fld := ⟨0x50020, 24, 4, .rw, 4, .task⟩
/-- SPC_TASKSTAT.SSTATE, 05 R140; reset 0. -/
def SPC_TASKSTAT_SSTATE : Fld := ⟨0x50024, 0, 3, .ro, 0, .task⟩
/-- SPC_TASKSTAT.HITS, 05 R140; reset 0. -/
def SPC_TASKSTAT_HITS : Fld := ⟨0x50024, 4, 7, .ro, 0, .task⟩
/-- SPC_TASKSTAT.WINDOW, 05 R140; reset 0. -/
def SPC_TASKSTAT_WINDOW : Fld := ⟨0x50024, 11, 7, .ro, 0, .task⟩
/-- SPC_TASKSTAT.SUSPLEFT, 05 R140; reset 0. -/
def SPC_TASKSTAT_SUSPLEFT : Fld := ⟨0x50024, 18, 14, .ro, 0, .task⟩
/-- SPC_TASKCNT.CONFCNT, 05 R140; reset 0. -/
def SPC_TASKCNT_CONFCNT : Fld := ⟨0x50028, 0, 16, .rc, 0, .task⟩
/-- SPC_TASKCNT.DISCCNT, 05 R140; reset 0. -/
def SPC_TASKCNT_DISCCNT : Fld := ⟨0x50028, 16, 16, .rc, 0, .task⟩
/-- SPC_TASKWHY.INVCNT, 05 R140; reset 0. -/
def SPC_TASKWHY_INVCNT : Fld := ⟨0x5002C, 0, 8, .rc, 0, .task⟩
/-- SPC_TASKWHY.ABNCNT, 05 R140; reset 0. -/
def SPC_TASKWHY_ABNCNT : Fld := ⟨0x5002C, 8, 8, .rc, 0, .task⟩
/-- SPC_TASKWHY.UNDCNT, 05 R140; reset 0. -/
def SPC_TASKWHY_UNDCNT : Fld := ⟨0x5002C, 16, 8, .rc, 0, .task⟩
/-- SPC_TASKWHY.MISCNT, 05 R140; reset 0. -/
def SPC_TASKWHY_MISCNT : Fld := ⟨0x5002C, 24, 8, .rc, 0, .task⟩
/-- SPC_MISSLO.ADDRLO, 05 R140; reset 0. -/
def SPC_MISSLO_ADDRLO : Fld := ⟨0x50030, 0, 32, .ro, 0, .one⟩
/-- SPC_MISSHI.ADDRHI, 05 R140; reset 0. -/
def SPC_MISSHI_ADDRHI : Fld := ⟨0x50034, 0, 8, .ro, 0, .one⟩
/-- SPC_MISSHI.DIFF, 05 R140; reset 0. -/
def SPC_MISSHI_DIFF : Fld := ⟨0x50034, 8, 8, .ro, 0, .one⟩
/-- SPC_MISSHI.SRC, 05 R140; reset 0. -/
def SPC_MISSHI_SRC : Fld := ⟨0x50034, 16, 1, .ro, 0, .one⟩
/-- SPC_MISSHI.VALID, 05 R140; reset 0. -/
def SPC_MISSHI_VALID : Fld := ⟨0x50034, 31, 1, .w1c, 0, .one⟩
/-- SPC_BLKID.BLOCK, 19 R488; reset 5. -/
def SPC_BLKID_BLOCK : Fld := ⟨0x57FF0, 0, 8, .ro, 5, .one⟩
/-- SPC_BLKID.VER, 19 R488; no reset value given: 0, DESIGN CHOICE, log entry 1. -/
def SPC_BLKID_VER : Fld := ⟨0x57FF0, 16, 16, .ro, 0, .one⟩
/-- SPC_BLKSTATLO.READY, 19 R488; reset 0. -/
def SPC_BLKSTATLO_READY : Fld := ⟨0x57FF8, 0, 1, .ro, 0, .one⟩
/-- SPC_BLKSTATLO.FAULT, 19 R488; reset 0. -/
def SPC_BLKSTATLO_FAULT : Fld := ⟨0x57FF8, 1, 1, .ro, 0, .one⟩
/-- SPC_BLKSTATLO.WARN, 19 R488; reset 0. -/
def SPC_BLKSTATLO_WARN : Fld := ⟨0x57FF8, 2, 1, .ro, 0, .one⟩
/-- SPC_BLKSTATLO.IGNCNT, 19 R488; reset 0. -/
def SPC_BLKSTATLO_IGNCNT : Fld := ⟨0x57FF8, 8, 8, .rc, 0, .one⟩
/-- SPC_BLKSTATLO.LASTWR, 19 R488; reset 0. -/
def SPC_BLKSTATLO_LASTWR : Fld := ⟨0x57FF8, 16, 14, .ro, 0, .one⟩
/-- SPC_BLKSTATHI.WRCNT, 19 R488; reset 0. -/
def SPC_BLKSTATHI_WRCNT : Fld := ⟨0x57FFC, 0, 32, .ro, 0, .one⟩
/-- SQR_ECCSTAT.CECNT, 07 R190; reset 0. -/
def SQR_ECCSTAT_CECNT : Fld := ⟨0x60000, 0, 16, .rc, 0, .one⟩
/-- SQR_ECCSTAT.UECNT, 07 R190; reset 0. -/
def SQR_ECCSTAT_UECNT : Fld := ⟨0x60000, 16, 8, .rc, 0, .one⟩
/-- SQR_ECCSTAT.STACK, 07 R190; reset 0. -/
def SQR_ECCSTAT_STACK : Fld := ⟨0x60000, 24, 4, .ro, 0, .one⟩
/-- SQR_ECCSTAT.PASSLATE, 07 R190; reset 0. -/
def SQR_ECCSTAT_PASSLATE : Fld := ⟨0x60000, 28, 1, .ro, 0, .one⟩
/-- SQR_ECCSTAT.SPAREOUT, 07 R190; reset 0. -/
def SQR_ECCSTAT_SPAREOUT : Fld := ⟨0x60000, 29, 1, .ro, 0, .one⟩
/-- SQR_ECCSTAT.PMAPERR, 07 R190; reset 0. -/
def SQR_ECCSTAT_PMAPERR : Fld := ⟨0x60000, 30, 1, .ro, 0, .one⟩
/-- SQR_ECCADDRLO.ADDR, 07 R190; no reset value given: 0, DESIGN CHOICE, log entry 1. -/
def SQR_ECCADDRLO_ADDR : Fld := ⟨0x60004, 0, 32, .ro, 0, .one⟩
/-- SQR_ECCADDRHI.ADDR, 07 R190; no reset value given: 0, DESIGN CHOICE, log entry 1. -/
def SQR_ECCADDRHI_ADDR : Fld := ⟨0x60008, 0, 8, .ro, 0, .one⟩
/-- SQR_SPARE.S0, 07 R190; reset 100 %: DESIGN CHOICE, log entry 1. -/
def SQR_SPARE_S0 : Fld := ⟨0x6000C, 0, 8, .ro, 100, .one⟩
/-- SQR_SPARE.S1, 07 R190; reset 100 %: DESIGN CHOICE, log entry 1. -/
def SQR_SPARE_S1 : Fld := ⟨0x6000C, 8, 8, .ro, 100, .one⟩
/-- SQR_SPARE.S2, 07 R190; reset 100 %: DESIGN CHOICE, log entry 1. -/
def SQR_SPARE_S2 : Fld := ⟨0x6000C, 16, 8, .ro, 100, .one⟩
/-- SQR_SPARE.S3, 07 R190; reset 100 %: DESIGN CHOICE, log entry 1. -/
def SQR_SPARE_S3 : Fld := ⟨0x6000C, 24, 8, .ro, 100, .one⟩
/-- SQR_RINGCFG.GIB, 07 R190; reset 1: DESIGN CHOICE, log entry 1. -/
def SQR_RINGCFG_GIB : Fld := ⟨0x60010, 0, 8, .rw, 1, .one⟩
/-- SQR_RINGSTAT.SPAN, 07 R190; no reset value given: 0, DESIGN CHOICE, log entry 1. -/
def SQR_RINGSTAT_SPAN : Fld := ⟨0x60014, 0, 16, .ro, 0, .one⟩
/-- SQR_WALKERR.REASON, 07 R190; no reset value given: 0, DESIGN CHOICE, log entry 1. -/
def SQR_WALKERR_REASON : Fld := ⟨0x60020, 0, 4, .ro, 0, .one⟩
/-- SQR_WALKERR.VALID, 07 R190; no reset value given: 0, DESIGN CHOICE, log entry 1. -/
def SQR_WALKERR_VALID : Fld := ⟨0x60020, 31, 1, .w1c, 0, .one⟩
/-- SQR_WALKTAG.TAG, 07 R190; no reset value given: 0, DESIGN CHOICE, log entry 1. -/
def SQR_WALKTAG_TAG : Fld := ⟨0x60024, 0, 32, .ro, 0, .one⟩
/-- SQR_TTCFIRST.TAG, 07 R190; no reset value given: 0, DESIGN CHOICE, log entry 1. -/
def SQR_TTCFIRST_TAG : Fld := ⟨0x60030, 0, 24, .rw, 0, .one⟩
/-- SQR_TTCLAST.TAG, 07 R190; no reset value given: 0, DESIGN CHOICE, log entry 1. -/
def SQR_TTCLAST_TAG : Fld := ⟨0x60034, 0, 24, .rw, 0, .one⟩
/-- SQR_TTCINV.GO, 07 R190; reset 0. -/
def SQR_TTCINV_GO : Fld := ⟨0x60038, 0, 1, .w1s, 0, .one⟩
/-- SQR_TTCINV.ALL, 07 R190; reset 0. -/
def SQR_TTCINV_ALL : Fld := ⟨0x60038, 1, 1, .rw, 0, .one⟩
/-- SQR_TTCINV.DONE, 07 R190; reset 1. -/
def SQR_TTCINV_DONE : Fld := ⟨0x60038, 2, 1, .ro, 1, .one⟩
/-- SQR_TAGEDID.ID, 07 R190; no reset value given: 0, DESIGN CHOICE, log entry 1. -/
def SQR_TAGEDID_ID : Fld := ⟨0x60040, 0, 24, .rw, 0, .one⟩
/-- SQR_TAGEDW0.DATA, 07 R190; no reset value given: 0, DESIGN CHOICE, log entry 1. -/
def SQR_TAGEDW0_DATA : Fld := ⟨0x60044, 0, 32, .rw, 0, .one⟩
/-- SQR_TAGEDW1.DATA, 07 R190; no reset value given: 0, DESIGN CHOICE, log entry 1. -/
def SQR_TAGEDW1_DATA : Fld := ⟨0x60048, 0, 32, .rw, 0, .one⟩
/-- SQR_TAGEDW2.DATA, 07 R190; no reset value given: 0, DESIGN CHOICE, log entry 1. -/
def SQR_TAGEDW2_DATA : Fld := ⟨0x6004C, 0, 32, .rw, 0, .one⟩
/-- SQR_TAGEDW3.DATA, 07 R190; no reset value given: 0, DESIGN CHOICE, log entry 1. -/
def SQR_TAGEDW3_DATA : Fld := ⟨0x60050, 0, 32, .rw, 0, .one⟩
/-- SQR_TAGEDCMD.WRITE, 07 R190; reset 0. -/
def SQR_TAGEDCMD_WRITE : Fld := ⟨0x60054, 0, 1, .w1s, 0, .one⟩
/-- SQR_TAGEDCMD.INV, 07 R190; reset 1. -/
def SQR_TAGEDCMD_INV : Fld := ⟨0x60054, 1, 1, .rw, 1, .one⟩
/-- SQR_TAGEDCMD.DIR, 07 R190; reset 0. -/
def SQR_TAGEDCMD_DIR : Fld := ⟨0x60054, 2, 1, .rw, 0, .one⟩
/-- SQR_TAGEDCMD.REFUSED, 07 R190; reset 0. -/
def SQR_TAGEDCMD_REFUSED : Fld := ⟨0x60054, 3, 1, .ro, 0, .one⟩
/-- SQR_BLKID.BLOCK, 19 R488; reset 6. -/
def SQR_BLKID_BLOCK : Fld := ⟨0x67FF0, 0, 8, .ro, 6, .one⟩
/-- SQR_BLKID.VER, 19 R488; no reset value given: 0, DESIGN CHOICE, log entry 1. -/
def SQR_BLKID_VER : Fld := ⟨0x67FF0, 16, 16, .ro, 0, .one⟩
/-- SQR_BLKSTATLO.READY, 19 R488; reset 0. -/
def SQR_BLKSTATLO_READY : Fld := ⟨0x67FF8, 0, 1, .ro, 0, .one⟩
/-- SQR_BLKSTATLO.FAULT, 19 R488; reset 0. -/
def SQR_BLKSTATLO_FAULT : Fld := ⟨0x67FF8, 1, 1, .ro, 0, .one⟩
/-- SQR_BLKSTATLO.WARN, 19 R488; reset 0. -/
def SQR_BLKSTATLO_WARN : Fld := ⟨0x67FF8, 2, 1, .ro, 0, .one⟩
/-- SQR_BLKSTATLO.IGNCNT, 19 R488; reset 0. -/
def SQR_BLKSTATLO_IGNCNT : Fld := ⟨0x67FF8, 8, 8, .rc, 0, .one⟩
/-- SQR_BLKSTATLO.LASTWR, 19 R488; reset 0. -/
def SQR_BLKSTATLO_LASTWR : Fld := ⟨0x67FF8, 16, 14, .ro, 0, .one⟩
/-- SQR_BLKSTATHI.WRCNT, 19 R488; reset 0. -/
def SQR_BLKSTATHI_WRCNT : Fld := ⟨0x67FFC, 0, 32, .ro, 0, .one⟩
/-- ACU_CTL.BARRIER, 07 R190; reset 0. -/
def ACU_CTL_BARRIER : Fld := ⟨0x70000, 0, 1, .w1s, 0, .one⟩
/-- ACU_CTL.DONE, 07 R190; reset 1. -/
def ACU_CTL_DONE : Fld := ⟨0x70000, 1, 1, .ro, 1, .one⟩
/-- ACU_STAT.GEN, 07 R190; reset 0. -/
def ACU_STAT_GEN : Fld := ⟨0x70004, 0, 16, .ro, 0, .one⟩
/-- ACU_STAT.REFCNT, 07 R190; reset 0. -/
def ACU_STAT_REFCNT : Fld := ⟨0x70004, 16, 8, .rc, 0, .one⟩
/-- ACU_STAT.REASON, 07 R190; reset 0. -/
def ACU_STAT_REASON : Fld := ⟨0x70004, 24, 3, .ro, 0, .one⟩
/-- ACU_MSEL.SEL, 07 R190; no reset value given: 0, DESIGN CHOICE, log entry 1. -/
def ACU_MSEL_SEL : Fld := ⟨0x70010, 0, 10, .rw, 0, .path⟩
/-- ACU_RSEL.SLOT, 07 R190; no reset value given: 0, DESIGN CHOICE, log entry 1. -/
def ACU_RSEL_SLOT : Fld := ⟨0x70014, 0, 5, .rw, 0, .path⟩
/-- ACU_RBASELO.BASE, 07 R190; no reset value given: 0, DESIGN CHOICE, log entry 1. -/
def ACU_RBASELO_BASE : Fld := ⟨0x70018, 12, 20, .rw, 0, .acu⟩
/-- ACU_RBASEHI.BASE, 07 R190; no reset value given: 0, DESIGN CHOICE, log entry 1. -/
def ACU_RBASEHI_BASE : Fld := ⟨0x7001C, 0, 8, .rw, 0, .acu⟩
/-- ACU_RLIMLO.LIMIT, 07 R190; no reset value given: 0, DESIGN CHOICE, log entry 1. -/
def ACU_RLIMLO_LIMIT : Fld := ⟨0x70020, 12, 20, .rw, 0, .acu⟩
/-- ACU_RLIMHI.LIMIT, 07 R190; no reset value given: 0, DESIGN CHOICE, log entry 1. -/
def ACU_RLIMHI_LIMIT : Fld := ⟨0x70024, 0, 8, .rw, 0, .acu⟩
/-- ACU_RATTR.EN, 07 R190; reset 0. -/
def ACU_RATTR_EN : Fld := ⟨0x70028, 0, 1, .rw, 0, .acu⟩
/-- ACU_RATTR.RD, 07 R190; reset 0. -/
def ACU_RATTR_RD : Fld := ⟨0x70028, 1, 1, .rw, 0, .acu⟩
/-- ACU_RATTR.WR, 07 R190; reset 0. -/
def ACU_RATTR_WR : Fld := ⟨0x70028, 2, 1, .rw, 0, .acu⟩
/-- ACU_RATTR.EXEC, 07 R190; reset 0. -/
def ACU_RATTR_EXEC : Fld := ⟨0x70028, 3, 1, .rw, 0, .acu⟩
/-- ACU_RATTR.DEV, 07 R190; reset 0. -/
def ACU_RATTR_DEV : Fld := ⟨0x70028, 4, 1, .rw, 0, .acu⟩
/-- ACU_FLTLO.ADDR, 07 R190; no reset value given: 0, DESIGN CHOICE, log entry 1. -/
def ACU_FLTLO_ADDR : Fld := ⟨0x70030, 0, 32, .ro, 0, .one⟩
/-- ACU_FLTHI.ADDR, 07 R190; no reset value given: 0, DESIGN CHOICE, log entry 1. -/
def ACU_FLTHI_ADDR : Fld := ⟨0x70034, 0, 8, .ro, 0, .one⟩
/-- ACU_FLTHI.MASTER, 07 R190; no reset value given: 0, DESIGN CHOICE, log entry 1. -/
def ACU_FLTHI_MASTER : Fld := ⟨0x70034, 8, 10, .ro, 0, .one⟩
/-- ACU_FLTHI.WRITE, 07 R190; no reset value given: 0, DESIGN CHOICE, log entry 1. -/
def ACU_FLTHI_WRITE : Fld := ⟨0x70034, 18, 1, .ro, 0, .one⟩
/-- ACU_FLTHI.VALID, 07 R190; no reset value given: 0, DESIGN CHOICE, log entry 1. -/
def ACU_FLTHI_VALID : Fld := ⟨0x70034, 31, 1, .w1c, 0, .one⟩
/-- ACU_BLKID.BLOCK, 19 R488; reset 7. -/
def ACU_BLKID_BLOCK : Fld := ⟨0x77FF0, 0, 8, .ro, 7, .one⟩
/-- ACU_BLKID.VER, 19 R488; no reset value given: 0, DESIGN CHOICE, log entry 1. -/
def ACU_BLKID_VER : Fld := ⟨0x77FF0, 16, 16, .ro, 0, .one⟩
/-- ACU_BLKSTATLO.READY, 19 R488; reset 0. -/
def ACU_BLKSTATLO_READY : Fld := ⟨0x77FF8, 0, 1, .ro, 0, .one⟩
/-- ACU_BLKSTATLO.FAULT, 19 R488; reset 0. -/
def ACU_BLKSTATLO_FAULT : Fld := ⟨0x77FF8, 1, 1, .ro, 0, .one⟩
/-- ACU_BLKSTATLO.WARN, 19 R488; reset 0. -/
def ACU_BLKSTATLO_WARN : Fld := ⟨0x77FF8, 2, 1, .ro, 0, .one⟩
/-- ACU_BLKSTATLO.IGNCNT, 19 R488; reset 0. -/
def ACU_BLKSTATLO_IGNCNT : Fld := ⟨0x77FF8, 8, 8, .rc, 0, .one⟩
/-- ACU_BLKSTATLO.LASTWR, 19 R488; reset 0. -/
def ACU_BLKSTATLO_LASTWR : Fld := ⟨0x77FF8, 16, 14, .ro, 0, .one⟩
/-- ACU_BLKSTATHI.WRCNT, 19 R488; reset 0. -/
def ACU_BLKSTATHI_WRCNT : Fld := ⟨0x77FFC, 0, 32, .ro, 0, .one⟩
/-- IMV_BUSY0.MAP, 16 R417; no reset value given: 0, DESIGN CHOICE, log entry 1. -/
def IMV_BUSY0_MAP : Fld := ⟨0x80000, 0, 32, .ro, 0, .one⟩
/-- IMV_BUSY1.MAP, 16 R417; no reset value given: 0, DESIGN CHOICE, log entry 1. -/
def IMV_BUSY1_MAP : Fld := ⟨0x80004, 0, 32, .ro, 0, .one⟩
/-- IMV_CNT.PREEMPT, 16 R417; reset 0. -/
def IMV_CNT_PREEMPT : Fld := ⟨0x80008, 0, 16, .rc, 0, .one⟩
/-- IMV_CNT.ABANDON, 16 R417; reset 0. -/
def IMV_CNT_ABANDON : Fld := ⟨0x80008, 16, 8, .rc, 0, .one⟩
/-- IMV_CNT.IGNCNT, 16 R417; reset 0. -/
def IMV_CNT_IGNCNT : Fld := ⟨0x80008, 24, 8, .rc, 0, .one⟩
/-- IMV_CHSEL.CH, 16 R417; no reset value given: 0, DESIGN CHOICE, log entry 1. -/
def IMV_CHSEL_CH : Fld := ⟨0x80010, 0, 6, .rw, 0, .path⟩
/-- IMV_CHSRCLO.ADDR, 16 R417; no reset value given: 0, DESIGN CHOICE, log entry 1. -/
def IMV_CHSRCLO_ADDR : Fld := ⟨0x80014, 0, 32, .rw, 0, .imv⟩
/-- IMV_CHSRCHI.ADDR, 16 R417; no reset value given: 0, DESIGN CHOICE, log entry 1. -/
def IMV_CHSRCHI_ADDR : Fld := ⟨0x80018, 0, 8, .rw, 0, .imv⟩
/-- IMV_CHDSTLO.ADDR, 16 R417; no reset value given: 0, DESIGN CHOICE, log entry 1. -/
def IMV_CHDSTLO_ADDR : Fld := ⟨0x8001C, 0, 32, .rw, 0, .imv⟩
/-- IMV_CHDSTHI.ADDR, 16 R417; no reset value given: 0, DESIGN CHOICE, log entry 1. -/
def IMV_CHDSTHI_ADDR : Fld := ⟨0x80020, 0, 8, .rw, 0, .imv⟩
/-- IMV_CHLEN.LEN, 16 R417; no reset value given: 0, DESIGN CHOICE, log entry 1. -/
def IMV_CHLEN_LEN : Fld := ⟨0x80024, 0, 25, .rw, 0, .imv⟩
/-- IMV_CHCTL.START, 16 R417; reset 0. -/
def IMV_CHCTL_START : Fld := ⟨0x80028, 0, 1, .w1s, 0, .imv⟩
/-- IMV_CHCTL.HALT, 16 R417; reset 0. -/
def IMV_CHCTL_HALT : Fld := ⟨0x80028, 1, 1, .w1s, 0, .imv⟩
/-- IMV_CHCTL.SRCFIX, 16 R417; reset 0. -/
def IMV_CHCTL_SRCFIX : Fld := ⟨0x80028, 2, 1, .rw, 0, .imv⟩
/-- IMV_CHCTL.DSTFIX, 16 R417; reset 0. -/
def IMV_CHCTL_DSTFIX : Fld := ⟨0x80028, 3, 1, .rw, 0, .imv⟩
/-- IMV_CHCTL.WIDTH, 16 R417; reset 3. -/
def IMV_CHCTL_WIDTH : Fld := ⟨0x80028, 4, 2, .rw, 3, .imv⟩
/-- IMV_CHCTL.DSTNONE, 16 R417; reset 0. -/
def IMV_CHCTL_DSTNONE : Fld := ⟨0x80028, 6, 1, .rw, 0, .imv⟩
/-- IMV_CHCTL.CRCMODE, 16 R417; reset 0. -/
def IMV_CHCTL_CRCMODE : Fld := ⟨0x80028, 7, 2, .rw, 0, .imv⟩
/-- IMV_CHCTL.REPEAT, 16 R417; reset 0. -/
def IMV_CHCTL_REPEAT : Fld := ⟨0x80028, 9, 16, .rw, 0, .imv⟩
/-- IMV_CHSTAT.BUSY, 16 R417; reset 0. -/
def IMV_CHSTAT_BUSY : Fld := ⟨0x8002C, 0, 1, .ro, 0, .imv⟩
/-- IMV_CHSTAT.DONE, 16 R417; reset 0. -/
def IMV_CHSTAT_DONE : Fld := ⟨0x8002C, 1, 1, .w1c, 0, .imv⟩
/-- IMV_CHSTAT.ERR, 16 R417; reset 0. -/
def IMV_CHSTAT_ERR : Fld := ⟨0x8002C, 2, 3, .ro, 0, .imv⟩
/-- IMV_CHSTAT.PRIO, 16 R417; no reset value given: 0, DESIGN CHOICE, log entry 1. -/
def IMV_CHSTAT_PRIO : Fld := ⟨0x8002C, 5, 3, .ro, 0, .imv⟩
/-- IMV_CHSTAT.KEPT, 16 R417; reset 0. -/
def IMV_CHSTAT_KEPT : Fld := ⟨0x8002C, 8, 1, .ro, 0, .imv⟩
/-- IMV_CHSTAT.RUNSLEFT, 16 R417; reset 0. -/
def IMV_CHSTAT_RUNSLEFT : Fld := ⟨0x8002C, 16, 16, .ro, 0, .imv⟩
/-- IMV_CHCRC.CRC, 16 R417; no reset value given: 0, DESIGN CHOICE, log entry 1. -/
def IMV_CHCRC_CRC : Fld := ⟨0x80030, 0, 32, .ro, 0, .imv⟩
/-- IMV_CHPOS.POS, 16 R417; no reset value given: 0, DESIGN CHOICE, log entry 1. -/
def IMV_CHPOS_POS : Fld := ⟨0x80034, 0, 25, .ro, 0, .imv⟩
/-- IMV_BLKID.BLOCK, 19 R488; reset 8. -/
def IMV_BLKID_BLOCK : Fld := ⟨0x87FF0, 0, 8, .ro, 8, .one⟩
/-- IMV_BLKID.VER, 19 R488; no reset value given: 0, DESIGN CHOICE, log entry 1. -/
def IMV_BLKID_VER : Fld := ⟨0x87FF0, 16, 16, .ro, 0, .one⟩
/-- IMV_BLKSTATLO.READY, 19 R488; reset 0. -/
def IMV_BLKSTATLO_READY : Fld := ⟨0x87FF8, 0, 1, .ro, 0, .one⟩
/-- IMV_BLKSTATLO.FAULT, 19 R488; reset 0. -/
def IMV_BLKSTATLO_FAULT : Fld := ⟨0x87FF8, 1, 1, .ro, 0, .one⟩
/-- IMV_BLKSTATLO.WARN, 19 R488; reset 0. -/
def IMV_BLKSTATLO_WARN : Fld := ⟨0x87FF8, 2, 1, .ro, 0, .one⟩
/-- IMV_BLKSTATLO.IGNCNT, 19 R488; reset 0. -/
def IMV_BLKSTATLO_IGNCNT : Fld := ⟨0x87FF8, 8, 8, .rc, 0, .one⟩
/-- IMV_BLKSTATLO.LASTWR, 19 R488; reset 0. -/
def IMV_BLKSTATLO_LASTWR : Fld := ⟨0x87FF8, 16, 14, .ro, 0, .one⟩
/-- IMV_BLKSTATHI.WRCNT, 19 R488; reset 0. -/
def IMV_BLKSTATHI_WRCNT : Fld := ⟨0x87FFC, 0, 32, .ro, 0, .one⟩
/-- PAR_STAT.STATE, 08 R225; reset 0. -/
def PAR_STAT_STATE : Fld := ⟨0x90000, 0, 4, .ro, 0, .one⟩
/-- PAR_STAT.ROLE, 08 R225; reset 0. -/
def PAR_STAT_ROLE : Fld := ⟨0x90000, 4, 2, .ro, 0, .one⟩
/-- PAR_STAT.SEAT, 08 R225; no reset value given: 0, DESIGN CHOICE, log entry 1. -/
def PAR_STAT_SEAT : Fld := ⟨0x90000, 6, 1, .ro, 0, .one⟩
/-- PAR_STAT.ELIGIBLE, 08 R225; reset 0. -/
def PAR_STAT_ELIGIBLE : Fld := ⟨0x90000, 7, 1, .ro, 0, .one⟩
/-- PAR_STAT.LINKUP, 08 R225; reset 0. -/
def PAR_STAT_LINKUP : Fld := ⟨0x90000, 8, 2, .ro, 0, .one⟩
/-- PAR_STAT.FENCEIN, 08 R225; reset 0. -/
def PAR_STAT_FENCEIN : Fld := ⟨0x90000, 10, 1, .ro, 0, .one⟩
/-- PAR_STAT.FENCEOUT, 08 R225; reset 0. -/
def PAR_STAT_FENCEOUT : Fld := ⟨0x90000, 11, 1, .ro, 0, .one⟩
/-- PAR_STAT.FENCEFLT, 08 R225; reset 0. -/
def PAR_STAT_FENCEFLT : Fld := ⟨0x90000, 12, 1, .ro, 0, .one⟩
/-- PAR_STAT.PSEAT, 08 R225; reset 0. -/
def PAR_STAT_PSEAT : Fld := ⟨0x90000, 13, 1, .ro, 0, .one⟩
/-- PAR_STAT.CFGSPLIT, 08 R225; reset 0. -/
def PAR_STAT_CFGSPLIT : Fld := ⟨0x90000, 14, 1, .ro, 0, .one⟩
/-- PAR_STAT.SEATCLASH, 08 R225; reset 0. -/
def PAR_STAT_SEATCLASH : Fld := ⟨0x90000, 15, 1, .ro, 0, .one⟩
/-- PAR_STAT.RETSPLIT, 08 R225; reset 0. -/
def PAR_STAT_RETSPLIT : Fld := ⟨0x90000, 16, 1, .ro, 0, .one⟩
/-- PAR_STAT.SWPEND, 08 R225; reset 0. -/
def PAR_STAT_SWPEND : Fld := ⟨0x90000, 17, 1, .ro, 0, .one⟩
/-- PAR_EPOCH.EPOCH, 08 R225; no reset value given: 0, DESIGN CHOICE, log entry 1. -/
def PAR_EPOCH_EPOCH : Fld := ⟨0x90004, 0, 32, .ro, 0, .one⟩
/-- PAR_ACKCSNLO.ACKCSN, 08 R225; no reset value given: 0, DESIGN CHOICE, log entry 1. -/
def PAR_ACKCSNLO_ACKCSN : Fld := ⟨0x90008, 0, 32, .ro, 0, .one⟩
/-- PAR_ACKCSNHI.ACKCSN, 08 R225; no reset value given: 0, DESIGN CHOICE, log entry 1. -/
def PAR_ACKCSNHI_ACKCSN : Fld := ⟨0x9000C, 0, 32, .ro, 0, .one⟩
/-- PAR_CTL.AUTOJOIN, 08 R225; reset 1. -/
def PAR_CTL_AUTOJOIN : Fld := ⟨0x90010, 0, 1, .rw, 1, .one⟩
/-- PAR_CTL.JOINRATE, 08 R225; reset 60. -/
def PAR_CTL_JOINRATE : Fld := ⟨0x90010, 1, 7, .rw, 60, .one⟩
/-- PAR_CTL.BFRATE, 08 R225; reset 1000. -/
def PAR_CTL_BFRATE : Fld := ⟨0x90010, 8, 12, .rw, 1000, .one⟩
/-- PAR_CMD.CMD, 08 R225; reset 0. -/
def PAR_CMD_CMD : Fld := ⟨0x90014, 0, 3, .wo, 0, .one⟩
/-- PAR_AUDCNT.AUDOK, 08 R225; reset 0. -/
def PAR_AUDCNT_AUDOK : Fld := ⟨0x90018, 0, 16, .rc, 0, .one⟩
/-- PAR_AUDCNT.AUDMISS, 08 R225; reset 0. -/
def PAR_AUDCNT_AUDMISS : Fld := ⟨0x90018, 16, 8, .rc, 0, .one⟩
/-- PAR_AUDCNT.AUDSKIP, 08 R225; reset 0. -/
def PAR_AUDCNT_AUDSKIP : Fld := ⟨0x90018, 24, 8, .rc, 0, .one⟩
/-- PAR_LOSSCNT.MISSCNT, 08 R225; reset 0. -/
def PAR_LOSSCNT_MISSCNT : Fld := ⟨0x9001C, 0, 16, .rc, 0, .one⟩
/-- PAR_LOSSCNT.TAKECNT, 08 R225; reset 0. -/
def PAR_LOSSCNT_TAKECNT : Fld := ⟨0x9001C, 16, 8, .rc, 0, .one⟩
/-- PAR_LOSSCNT.STEPCNT, 08 R225; reset 0. -/
def PAR_LOSSCNT_STEPCNT : Fld := ⟨0x9001C, 24, 8, .rc, 0, .one⟩
/-- PAR_WITSTAT.WCFG, 08 R225; reset 0. -/
def PAR_WITSTAT_WCFG : Fld := ⟨0x90020, 0, 5, .ro, 0, .one⟩
/-- PAR_WITSTAT.GRANTS, 08 R225; reset 0. -/
def PAR_WITSTAT_GRANTS : Fld := ⟨0x90020, 5, 5, .ro, 0, .one⟩
/-- PAR_WITSTAT.ASSENT, 08 R225; reset 0. -/
def PAR_WITSTAT_ASSENT : Fld := ⟨0x90020, 10, 5, .ro, 0, .one⟩
/-- PAR_WITSTAT.REFUSED, 08 R225; reset 0. -/
def PAR_WITSTAT_REFUSED : Fld := ⟨0x90020, 16, 8, .rc, 0, .one⟩
/-- PAR_WITSTAT.SWREF, 08 R225; reset 0. -/
def PAR_WITSTAT_SWREF : Fld := ⟨0x90020, 24, 8, .rc, 0, .one⟩
/-- PAR_JOINSTAT.PHASE, 08 R225; reset 0. -/
def PAR_JOINSTAT_PHASE : Fld := ⟨0x90024, 0, 3, .ro, 0, .one⟩
/-- PAR_JOINSTAT.BULKPCT, 08 R225; reset 0. -/
def PAR_JOINSTAT_BULKPCT : Fld := ⟨0x90024, 3, 7, .ro, 0, .one⟩
/-- PAR_JOINSTAT.BFPCT, 08 R225; reset 0. -/
def PAR_JOINSTAT_BFPCT : Fld := ⟨0x90024, 10, 7, .ro, 0, .one⟩
/-- PAR_JOINSTAT.BFGAP, 08 R225; reset 0. -/
def PAR_JOINSTAT_BFGAP : Fld := ⟨0x90024, 17, 1, .ro, 0, .one⟩
/-- PAR_JOINSTAT.REFUSE, 08 R225; reset 0. -/
def PAR_JOINSTAT_REFUSE : Fld := ⟨0x90024, 18, 3, .ro, 0, .one⟩
/-- PAR_CFGGENLO.CFGGEN, 08 R225; no reset value given: 0, DESIGN CHOICE, log entry 1. -/
def PAR_CFGGENLO_CFGGEN : Fld := ⟨0x90028, 0, 32, .ro, 0, .one⟩
/-- PAR_CFGGENHI.CFGGEN, 08 R225; no reset value given: 0, DESIGN CHOICE, log entry 1. -/
def PAR_CFGGENHI_CFGGEN : Fld := ⟨0x9002C, 0, 32, .ro, 0, .one⟩
/-- PAR_BLKID.BLOCK, 19 R488; reset 9. -/
def PAR_BLKID_BLOCK : Fld := ⟨0x97FF0, 0, 8, .ro, 9, .one⟩
/-- PAR_BLKID.VER, 19 R488; no reset value given: 0, DESIGN CHOICE, log entry 1. -/
def PAR_BLKID_VER : Fld := ⟨0x97FF0, 16, 16, .ro, 0, .one⟩
/-- PAR_BLKSTATLO.READY, 19 R488; reset 0. -/
def PAR_BLKSTATLO_READY : Fld := ⟨0x97FF8, 0, 1, .ro, 0, .one⟩
/-- PAR_BLKSTATLO.FAULT, 19 R488; reset 0. -/
def PAR_BLKSTATLO_FAULT : Fld := ⟨0x97FF8, 1, 1, .ro, 0, .one⟩
/-- PAR_BLKSTATLO.WARN, 19 R488; reset 0. -/
def PAR_BLKSTATLO_WARN : Fld := ⟨0x97FF8, 2, 1, .ro, 0, .one⟩
/-- PAR_BLKSTATLO.IGNCNT, 19 R488; reset 0. -/
def PAR_BLKSTATLO_IGNCNT : Fld := ⟨0x97FF8, 8, 8, .rc, 0, .one⟩
/-- PAR_BLKSTATLO.LASTWR, 19 R488; reset 0. -/
def PAR_BLKSTATLO_LASTWR : Fld := ⟨0x97FF8, 16, 14, .ro, 0, .one⟩
/-- PAR_BLKSTATHI.WRCNT, 19 R488; reset 0. -/
def PAR_BLKSTATHI_WRCNT : Fld := ⟨0x97FFC, 0, 32, .ro, 0, .one⟩
/-- HQE_CTL.ENABLE, 10 R285; reset 0. -/
def HQE_CTL_ENABLE : Fld := ⟨0xA0000, 0, 1, .rw, 0, .one⟩
/-- HQE_CTL.FOLLOWREAD, 10 R285; reset 1. -/
def HQE_CTL_FOLLOWREAD : Fld := ⟨0xA0000, 1, 1, .rw, 1, .one⟩
/-- HQE_CTL.SESSIDLE, 10 R285; reset 30. -/
def HQE_CTL_SESSIDLE : Fld := ⟨0xA0000, 8, 8, .rw, 30, .one⟩
/-- HQE_CTL.MAXSESS, 10 R285; reset 8192. -/
def HQE_CTL_MAXSESS : Fld := ⟨0xA0000, 16, 14, .rw, 8192, .one⟩
/-- HQE_STAT.SESSIONS, 10 R285; reset 0. -/
def HQE_STAT_SESSIONS : Fld := ⟨0xA0004, 0, 14, .ro, 0, .one⟩
/-- HQE_STAT.QPS, 10 R285; reset 0. -/
def HQE_STAT_QPS : Fld := ⟨0xA0004, 16, 16, .ro, 0, .one⟩
/-- HQE_ADMCFG.CREDIT, 10 R285; reset 1024. -/
def HQE_ADMCFG_CREDIT : Fld := ⟨0xA0008, 0, 13, .rw, 1024, .one⟩
/-- HQE_ADMCFG.BATCH, 10 R285; reset 32. -/
def HQE_ADMCFG_BATCH : Fld := ⟨0xA0008, 16, 6, .rw, 32, .one⟩
/-- HQE_ERRCNT.REFSESS, 10 R285; reset 0. -/
def HQE_ERRCNT_REFSESS : Fld := ⟨0xA000C, 0, 16, .rc, 0, .one⟩
/-- HQE_ERRCNT.BADDB, 10 R285; reset 0. -/
def HQE_ERRCNT_BADDB : Fld := ⟨0xA000C, 16, 8, .rc, 0, .one⟩
/-- HQE_ERRCNT.NAKCNT, 10 R285; reset 0. -/
def HQE_ERRCNT_NAKCNT : Fld := ⟨0xA000C, 24, 8, .rc, 0, .one⟩
/-- HQE_LOCKCFG.LEASE, 09 R252; reset 1000. -/
def HQE_LOCKCFG_LEASE : Fld := ⟨0xA0800, 0, 16, .rw, 1000, .one⟩
/-- HQE_LOCKCFG.MAXLOCKS, 09 R252; reset 64. -/
def HQE_LOCKCFG_MAXLOCKS : Fld := ⟨0xA0800, 16, 8, .rw, 64, .one⟩
/-- HQE_LOCKSTAT.HELD, 09 R252; reset 0. -/
def HQE_LOCKSTAT_HELD : Fld := ⟨0xA0804, 0, 13, .ro, 0, .one⟩
/-- HQE_LOCKSTAT.BROKENCNT, 09 R252; reset 0. -/
def HQE_LOCKSTAT_BROKENCNT : Fld := ⟨0xA0804, 16, 8, .rc, 0, .one⟩
/-- HQE_LOCKSTAT.ORDERREF, 09 R252; reset 0. -/
def HQE_LOCKSTAT_ORDERREF : Fld := ⟨0xA0804, 24, 8, .rc, 0, .one⟩
/-- HQE_BLKID.BLOCK, 19 R488; reset 10. -/
def HQE_BLKID_BLOCK : Fld := ⟨0xA7FF0, 0, 8, .ro, 10, .one⟩
/-- HQE_BLKID.VER, 19 R488; no reset value given: 0, DESIGN CHOICE, log entry 1. -/
def HQE_BLKID_VER : Fld := ⟨0xA7FF0, 16, 16, .ro, 0, .one⟩
/-- HQE_BLKSTATLO.READY, 19 R488; reset 0. -/
def HQE_BLKSTATLO_READY : Fld := ⟨0xA7FF8, 0, 1, .ro, 0, .one⟩
/-- HQE_BLKSTATLO.FAULT, 19 R488; reset 0. -/
def HQE_BLKSTATLO_FAULT : Fld := ⟨0xA7FF8, 1, 1, .ro, 0, .one⟩
/-- HQE_BLKSTATLO.WARN, 19 R488; reset 0. -/
def HQE_BLKSTATLO_WARN : Fld := ⟨0xA7FF8, 2, 1, .ro, 0, .one⟩
/-- HQE_BLKSTATLO.IGNCNT, 19 R488; reset 0. -/
def HQE_BLKSTATLO_IGNCNT : Fld := ⟨0xA7FF8, 8, 8, .rc, 0, .one⟩
/-- HQE_BLKSTATLO.LASTWR, 19 R488; reset 0. -/
def HQE_BLKSTATLO_LASTWR : Fld := ⟨0xA7FF8, 16, 14, .ro, 0, .one⟩
/-- HQE_BLKSTATHI.WRCNT, 19 R488; reset 0. -/
def HQE_BLKSTATHI_WRCNT : Fld := ⟨0xA7FFC, 0, 32, .ro, 0, .one⟩
/-- PNE_CTL.ENABLE, 11 R312; no reset value given: 0, DESIGN CHOICE, log entry 1. -/
def PNE_CTL_ENABLE : Fld := ⟨0xB0000, 0, 1, .rw, 0, .one⟩
/-- PNE_CTL.KERBSTOP, 11 R312; no reset value given: 0, DESIGN CHOICE, log entry 1. -/
def PNE_CTL_KERBSTOP : Fld := ⟨0xB0000, 1, 1, .ro, 0, .one⟩
/-- PNE_PORTSEL.LINK, 11 R312; no reset value given: 0, DESIGN CHOICE, log entry 1. -/
def PNE_PORTSEL_LINK : Fld := ⟨0xB0010, 0, 7, .rw, 0, .path⟩
/-- PNE_PORTCFG.SPEED, 11 R312; reset 0. -/
def PNE_PORTCFG_SPEED : Fld := ⟨0xB0014, 0, 2, .rw, 0, .link⟩
/-- PNE_PORTCFG.REDUN, 11 R312; reset 0. -/
def PNE_PORTCFG_REDUN : Fld := ⟨0xB0014, 2, 2, .rw, 0, .link⟩
/-- PNE_PORTCFG.PARTNER, 11 R312; reset 0. -/
def PNE_PORTCFG_PARTNER : Fld := ⟨0xB0014, 4, 7, .rw, 0, .link⟩
/-- PNE_PORTCFG.PTPEN, 11 R312; reset 1. -/
def PNE_PORTCFG_PTPEN : Fld := ⟨0xB0014, 11, 1, .rw, 1, .link⟩
/-- PNE_PORTSTAT.UP, 11 R312; reset 0. -/
def PNE_PORTSTAT_UP : Fld := ⟨0xB0018, 0, 1, .ro, 0, .link⟩
/-- PNE_PORTSTAT.RATE, 11 R312; reset 0. -/
def PNE_PORTSTAT_RATE : Fld := ⟨0xB0018, 1, 2, .ro, 0, .link⟩
/-- PNE_PORTSTAT.GCLERR, 11 R312; reset 0. -/
def PNE_PORTSTAT_GCLERR : Fld := ⟨0xB0018, 3, 1, .ro, 0, .link⟩
/-- PNE_PORTSTAT.DISCCNT, 11 R312; reset 0. -/
def PNE_PORTSTAT_DISCCNT : Fld := ⟨0xB0018, 8, 8, .rc, 0, .link⟩
/-- PNE_PORTSTAT.ELIMCNT, 11 R312; reset 0. -/
def PNE_PORTSTAT_ELIMCNT : Fld := ⟨0xB0018, 16, 8, .rc, 0, .link⟩
/-- PNE_PORTSTAT.GAPCNT, 11 R312; reset 0. -/
def PNE_PORTSTAT_GAPCNT : Fld := ⟨0xB0018, 24, 8, .rc, 0, .link⟩
/-- PNE_STASEL.STA, 11 R312; no reset value given: 0, DESIGN CHOICE, log entry 1. -/
def PNE_STASEL_STA : Fld := ⟨0xB0020, 0, 12, .rw, 0, .path⟩
/-- PNE_STASTAT.STATE, 11 R312; reset 0. -/
def PNE_STASTAT_STATE : Fld := ⟨0xB0024, 0, 3, .ro, 0, .station⟩
/-- PNE_STASTAT.NOTSYNC, 11 R312; reset 0. -/
def PNE_STASTAT_NOTSYNC : Fld := ⟨0xB0024, 3, 1, .ro, 0, .station⟩
/-- PNE_STASTAT.WITNESS, 11 R312; reset 0. -/
def PNE_STASTAT_WITNESS : Fld := ⟨0xB0024, 4, 1, .ro, 0, .station⟩
/-- PNE_STASTAT.MODE, 11 R312; reset 0. -/
def PNE_STASTAT_MODE : Fld := ⟨0xB0024, 8, 8, .ro, 0, .station⟩
/-- PNE_STASTAT.DROPCNT, 11 R312; reset 0. -/
def PNE_STASTAT_DROPCNT : Fld := ⟨0xB0024, 16, 16, .rc, 0, .station⟩
/-- PNE_STAWDT.SWDT, 11 R312; no reset value given: 0, DESIGN CHOICE, log entry 1. -/
def PNE_STAWDT_SWDT : Fld := ⟨0xB0028, 0, 16, .ro, 0, .station⟩
/-- PNE_STAWDT.IWDT, 11 R312; no reset value given: 0, DESIGN CHOICE, log entry 1. -/
def PNE_STAWDT_IWDT : Fld := ⟨0xB0028, 16, 16, .ro, 0, .station⟩
/-- PNE_CUTCFG.CUTWAIT, 09 R252; reset 10. -/
def PNE_CUTCFG_CUTWAIT : Fld := ⟨0xB0800, 0, 10, .rw, 10, .one⟩
/-- PNE_CUTCFG.MODEWAIT, 09 R252; reset 60. -/
def PNE_CUTCFG_MODEWAIT : Fld := ⟨0xB0800, 16, 8, .rw, 60, .one⟩
/-- PNE_BLKID.BLOCK, 19 R488; reset 11. -/
def PNE_BLKID_BLOCK : Fld := ⟨0xB7FF0, 0, 8, .ro, 11, .one⟩
/-- PNE_BLKID.VER, 19 R488; no reset value given: 0, DESIGN CHOICE, log entry 1. -/
def PNE_BLKID_VER : Fld := ⟨0xB7FF0, 16, 16, .ro, 0, .one⟩
/-- PNE_BLKSTATLO.READY, 19 R488; reset 0. -/
def PNE_BLKSTATLO_READY : Fld := ⟨0xB7FF8, 0, 1, .ro, 0, .one⟩
/-- PNE_BLKSTATLO.FAULT, 19 R488; reset 0. -/
def PNE_BLKSTATLO_FAULT : Fld := ⟨0xB7FF8, 1, 1, .ro, 0, .one⟩
/-- PNE_BLKSTATLO.WARN, 19 R488; reset 0. -/
def PNE_BLKSTATLO_WARN : Fld := ⟨0xB7FF8, 2, 1, .ro, 0, .one⟩
/-- PNE_BLKSTATLO.IGNCNT, 19 R488; reset 0. -/
def PNE_BLKSTATLO_IGNCNT : Fld := ⟨0xB7FF8, 8, 8, .rc, 0, .one⟩
/-- PNE_BLKSTATLO.LASTWR, 19 R488; reset 0. -/
def PNE_BLKSTATLO_LASTWR : Fld := ⟨0xB7FF8, 16, 14, .ro, 0, .one⟩
/-- PNE_BLKSTATHI.WRCNT, 19 R488; reset 0. -/
def PNE_BLKSTATHI_WRCNT : Fld := ⟨0xB7FFC, 0, 32, .ro, 0, .one⟩
/-- SFY_STAT.SWEDIT, 12 R349; reset 0. -/
def SFY_STAT_SWEDIT : Fld := ⟨0xC0000, 0, 1, .ro, 0, .one⟩
/-- SFY_STAT.SWFLT, 12 R349; reset 0. -/
def SFY_STAT_SWFLT : Fld := ⟨0xC0000, 1, 1, .ro, 0, .one⟩
/-- SFY_STAT.UNVAL, 12 R349; reset 0. -/
def SFY_STAT_UNVAL : Fld := ⟨0xC0000, 2, 1, .ro, 0, .one⟩
/-- SFY_STAT.DEGR, 12 R349; reset 0. -/
def SFY_STAT_DEGR : Fld := ⟨0xC0000, 3, 1, .ro, 0, .one⟩
/-- SFY_STAT.TRIP, 12 R349; reset 0. -/
def SFY_STAT_TRIP : Fld := ⟨0xC0000, 4, 1, .ro, 0, .one⟩
/-- SFY_STAT.SIGCHG, 12 R349; reset 0. -/
def SFY_STAT_SIGCHG : Fld := ⟨0xC0000, 16, 8, .rc, 0, .one⟩
/-- SFY_STAT.ACKREF, 12 R349; reset 0. -/
def SFY_STAT_ACKREF : Fld := ⟨0xC0000, 24, 8, .rc, 0, .one⟩
/-- SFY_SIG0.SIG, 12 R349; no reset value given: 0, DESIGN CHOICE, log entry 1. -/
def SFY_SIG0_SIG : Fld := ⟨0xC0004, 0, 32, .ro, 0, .one⟩
/-- SFY_SIG1.SIG, 12 R349; no reset value given: 0, DESIGN CHOICE, log entry 1. -/
def SFY_SIG1_SIG : Fld := ⟨0xC0008, 0, 32, .ro, 0, .one⟩
/-- SFY_VALACK.ACK, 12 R349; no reset value given: 0, DESIGN CHOICE, log entry 1. -/
def SFY_VALACK_ACK : Fld := ⟨0xC000C, 0, 32, .wo, 0, .one⟩
/-- SFY_CONNSEL.CONN, 12 R349; no reset value given: 0, DESIGN CHOICE, log entry 1. -/
def SFY_CONNSEL_CONN : Fld := ⟨0xC0010, 0, 12, .rw, 0, .path⟩
/-- SFY_CONNCFG.FWDT, 12 R349; reset 0. -/
def SFY_CONNCFG_FWDT : Fld := ⟨0xC0014, 0, 17, .ro, 0, .conn⟩
/-- SFY_CONNCFG.WIN, 12 R349; reset 0. -/
def SFY_CONNCFG_WIN : Fld := ⟨0xC0014, 17, 8, .ro, 0, .conn⟩
/-- SFY_CONNCFG.AUTOREINT, 12 R349; reset 0. -/
def SFY_CONNCFG_AUTOREINT : Fld := ⟨0xC0014, 25, 1, .ro, 0, .conn⟩
/-- SFY_CONNCFG.RIDE, 12 R349; reset 0. -/
def SFY_CONNCFG_RIDE : Fld := ⟨0xC0014, 26, 1, .ro, 0, .conn⟩
/-- SFY_CONNSTAT.STATE, 12 R349; reset 1. -/
def SFY_CONNSTAT_STATE : Fld := ⟨0xC0018, 0, 2, .ro, 1, .conn⟩
/-- SFY_CONNSTAT.FARPASS, 12 R349; reset 0. -/
def SFY_CONNSTAT_FARPASS : Fld := ⟨0xC0018, 2, 1, .ro, 0, .conn⟩
/-- SFY_CONNSTAT.CRCERR, 12 R349; reset 0. -/
def SFY_CONNSTAT_CRCERR : Fld := ⟨0xC0018, 8, 8, .rc, 0, .conn⟩
/-- SFY_CONNSTAT.SEQERR, 12 R349; reset 0. -/
def SFY_CONNSTAT_SEQERR : Fld := ⟨0xC0018, 16, 8, .rc, 0, .conn⟩
/-- SFY_CONNSTAT.LOSTCNT, 12 R349; reset 0. -/
def SFY_CONNSTAT_LOSTCNT : Fld := ⟨0xC0018, 24, 8, .rc, 0, .conn⟩
/-- SFY_CONNCNT.WDEXP, 12 R349; reset 0. -/
def SFY_CONNCNT_WDEXP : Fld := ⟨0xC001C, 0, 16, .rc, 0, .conn⟩
/-- SFY_CONNCNT.ECHOLATE, 12 R349; reset 0. -/
def SFY_CONNCNT_ECHOLATE : Fld := ⟨0xC001C, 16, 16, .rc, 0, .conn⟩
/-- SFY_FNSEL.FN, 12 R349; no reset value given: 0, DESIGN CHOICE, log entry 1. -/
def SFY_FNSEL_FN : Fld := ⟨0xC0020, 0, 12, .rw, 0, .path⟩
/-- SFY_FNCFG.KIND, 12 R349; reset 0. -/
def SFY_FNCFG_KIND : Fld := ⟨0xC0024, 0, 2, .ro, 0, .fn⟩
/-- SFY_FNCFG.ANTIV, 12 R349; reset 0. -/
def SFY_FNCFG_ANTIV : Fld := ⟨0xC0024, 2, 1, .ro, 0, .fn⟩
/-- SFY_FNCFG.DT, 12 R349; reset 0. -/
def SFY_FNCFG_DT : Fld := ⟨0xC0024, 3, 16, .ro, 0, .fn⟩
/-- SFY_FNCFG.DEGMAX, 12 R349; reset 4320. -/
def SFY_FNCFG_DEGMAX : Fld := ⟨0xC0024, 19, 13, .ro, 4320, .fn⟩
/-- SFY_FNSTAT.STATE, 12 R349; reset 0. -/
def SFY_FNSTAT_STATE : Fld := ⟨0xC0028, 0, 2, .ro, 0, .fn⟩
/-- SFY_FNSTAT.DISC, 12 R349; reset 0. -/
def SFY_FNSTAT_DISC : Fld := ⟨0xC0028, 2, 1, .ro, 0, .fn⟩
/-- SFY_FNSTAT.CHBAD, 12 R349; reset 0. -/
def SFY_FNSTAT_CHBAD : Fld := ⟨0xC0028, 3, 1, .ro, 0, .fn⟩
/-- SFY_FNSTAT.DEGLEFT, 12 R349; reset 0. -/
def SFY_FNSTAT_DEGLEFT : Fld := ⟨0xC0028, 16, 16, .ro, 0, .fn⟩
/-- SFY_TESTCFG.WIDTH, 12 R349; reset 40. -/
def SFY_TESTCFG_WIDTH : Fld := ⟨0xC0030, 0, 7, .rw, 40, .one⟩
/-- SFY_TESTCFG.TESTIVL, 12 R349; reset 60. -/
def SFY_TESTCFG_TESTIVL : Fld := ⟨0xC0030, 7, 12, .rw, 60, .one⟩
/-- SFY_TESTSTAT.PULSEFAIL, 12 R349; reset 0. -/
def SFY_TESTSTAT_PULSEFAIL : Fld := ⟨0xC0034, 0, 8, .rc, 0, .one⟩
/-- SFY_TESTSTAT.READFAIL, 12 R349; reset 0. -/
def SFY_TESTSTAT_READFAIL : Fld := ⟨0xC0034, 8, 8, .rc, 0, .one⟩
/-- SFY_TESTSTAT.LASTCH, 12 R349; reset 0. -/
def SFY_TESTSTAT_LASTCH : Fld := ⟨0xC0034, 16, 5, .ro, 0, .one⟩
/-- SFY_BLKID.BLOCK, 19 R488; reset 12. -/
def SFY_BLKID_BLOCK : Fld := ⟨0xC7FF0, 0, 8, .ro, 12, .one⟩
/-- SFY_BLKID.VER, 19 R488; no reset value given: 0, DESIGN CHOICE, log entry 1. -/
def SFY_BLKID_VER : Fld := ⟨0xC7FF0, 16, 16, .ro, 0, .one⟩
/-- SFY_BLKSTATLO.READY, 19 R488; reset 0. -/
def SFY_BLKSTATLO_READY : Fld := ⟨0xC7FF8, 0, 1, .ro, 0, .one⟩
/-- SFY_BLKSTATLO.FAULT, 19 R488; reset 0. -/
def SFY_BLKSTATLO_FAULT : Fld := ⟨0xC7FF8, 1, 1, .ro, 0, .one⟩
/-- SFY_BLKSTATLO.WARN, 19 R488; reset 0. -/
def SFY_BLKSTATLO_WARN : Fld := ⟨0xC7FF8, 2, 1, .ro, 0, .one⟩
/-- SFY_BLKSTATLO.IGNCNT, 19 R488; reset 0. -/
def SFY_BLKSTATLO_IGNCNT : Fld := ⟨0xC7FF8, 8, 8, .rc, 0, .one⟩
/-- SFY_BLKSTATLO.LASTWR, 19 R488; reset 0. -/
def SFY_BLKSTATLO_LASTWR : Fld := ⟨0xC7FF8, 16, 14, .ro, 0, .one⟩
/-- SFY_BLKSTATHI.WRCNT, 19 R488; reset 0. -/
def SFY_BLKSTATHI_WRCNT : Fld := ⟨0xC7FFC, 0, 32, .ro, 0, .one⟩
/-- DIO_STAT.VSLIM, 13 R379; reset 0. -/
def DIO_STAT_VSLIM : Fld := ⟨0xD0000, 0, 4, .ro, 0, .one⟩
/-- DIO_STAT.FSA, 13 R379; reset 0. -/
def DIO_STAT_FSA : Fld := ⟨0xD0000, 4, 1, .ro, 0, .one⟩
/-- DIO_STAT.FSB, 13 R379; reset 0. -/
def DIO_STAT_FSB : Fld := ⟨0xD0000, 5, 1, .ro, 0, .one⟩
/-- DIO_STAT.OVLCNT, 13 R379; reset 0. -/
def DIO_STAT_OVLCNT : Fld := ⟨0xD0000, 16, 8, .rc, 0, .one⟩
/-- DIO_CHSEL.CH, 13 R379; no reset value given: 0, DESIGN CHOICE, log entry 1. -/
def DIO_CHSEL_CH : Fld := ⟨0xD0010, 0, 5, .rw, 0, .path⟩
/-- DIO_CHCFG.MODE, 13 R379; reset 0. -/
def DIO_CHCFG_MODE : Fld := ⟨0xD0014, 0, 3, .rw, 0, .dio⟩
/-- DIO_CHCFG.FILT, 13 R379; reset 1. -/
def DIO_CHCFG_FILT : Fld := ⟨0xD0014, 3, 11, .rw, 1, .dio⟩
/-- DIO_CHCFG.EDGE, 13 R379; reset 0. -/
def DIO_CHCFG_EDGE : Fld := ⟨0xD0014, 14, 2, .rw, 0, .dio⟩
/-- DIO_CHCFG.COUNT, 13 R379; reset 0. -/
def DIO_CHCFG_COUNT : Fld := ⟨0xD0014, 16, 1, .rw, 0, .dio⟩
/-- DIO_CHCFG.OPENEN, 13 R379; reset 0. -/
def DIO_CHCFG_OPENEN : Fld := ⟨0xD0014, 17, 1, .rw, 0, .dio⟩
/-- DIO_CHSTAT.VALUE, 13 R379; reset 0. -/
def DIO_CHSTAT_VALUE : Fld := ⟨0xD0018, 0, 1, .ro, 0, .dio⟩
/-- DIO_CHSTAT.WIREBRK, 13 R379; reset 0. -/
def DIO_CHSTAT_WIREBRK : Fld := ⟨0xD0018, 1, 1, .ro, 0, .dio⟩
/-- DIO_CHSTAT.OVL, 13 R379; reset 0. -/
def DIO_CHSTAT_OVL : Fld := ⟨0xD0018, 2, 1, .ro, 0, .dio⟩
/-- DIO_CHSTAT.THERM, 13 R379; reset 0. -/
def DIO_CHSTAT_THERM : Fld := ⟨0xD0018, 3, 1, .ro, 0, .dio⟩
/-- DIO_CHSTAT.OPENLD, 13 R379; reset 0. -/
def DIO_CHSTAT_OPENLD : Fld := ⟨0xD0018, 4, 1, .ro, 0, .dio⟩
/-- DIO_CHSTAT.EXTFEED, 13 R379; reset 0. -/
def DIO_CHSTAT_EXTFEED : Fld := ⟨0xD0018, 5, 1, .ro, 0, .dio⟩
/-- DIO_CHSTAT.TESTFAIL, 13 R379; reset 0. -/
def DIO_CHSTAT_TESTFAIL : Fld := ⟨0xD0018, 6, 1, .ro, 0, .dio⟩
/-- DIO_CHSTAT.UNHEALTHY, 13 R379; reset 0. -/
def DIO_CHSTAT_UNHEALTHY : Fld := ⟨0xD0018, 7, 1, .ro, 0, .dio⟩
/-- DIO_CHSTAT.CURRENT, 13 R379; reset 0. -/
def DIO_CHSTAT_CURRENT : Fld := ⟨0xD0018, 16, 16, .ro, 0, .dio⟩
/-- DIO_EDGEHEAD.HEAD, 13 R379; reset 0. -/
def DIO_EDGEHEAD_HEAD : Fld := ⟨0xD0020, 0, 16, .ro, 0, .one⟩
/-- DIO_EDGEHEAD.LOST, 13 R379; reset 0. -/
def DIO_EDGEHEAD_LOST : Fld := ⟨0xD0020, 16, 8, .rc, 0, .one⟩
/-- DIO_EDGETAIL.TAIL, 13 R379; no reset value given: 0, DESIGN CHOICE, log entry 1. -/
def DIO_EDGETAIL_TAIL : Fld := ⟨0xD0024, 0, 16, .rw, 0, .one⟩
/-- DIO_BLKID.BLOCK, 19 R488; reset 13. -/
def DIO_BLKID_BLOCK : Fld := ⟨0xD7FF0, 0, 8, .ro, 13, .one⟩
/-- DIO_BLKID.VER, 19 R488; no reset value given: 0, DESIGN CHOICE, log entry 1. -/
def DIO_BLKID_VER : Fld := ⟨0xD7FF0, 16, 16, .ro, 0, .one⟩
/-- DIO_BLKSTATLO.READY, 19 R488; reset 0. -/
def DIO_BLKSTATLO_READY : Fld := ⟨0xD7FF8, 0, 1, .ro, 0, .one⟩
/-- DIO_BLKSTATLO.FAULT, 19 R488; reset 0. -/
def DIO_BLKSTATLO_FAULT : Fld := ⟨0xD7FF8, 1, 1, .ro, 0, .one⟩
/-- DIO_BLKSTATLO.WARN, 19 R488; reset 0. -/
def DIO_BLKSTATLO_WARN : Fld := ⟨0xD7FF8, 2, 1, .ro, 0, .one⟩
/-- DIO_BLKSTATLO.IGNCNT, 19 R488; reset 0. -/
def DIO_BLKSTATLO_IGNCNT : Fld := ⟨0xD7FF8, 8, 8, .rc, 0, .one⟩
/-- DIO_BLKSTATLO.LASTWR, 19 R488; reset 0. -/
def DIO_BLKSTATLO_LASTWR : Fld := ⟨0xD7FF8, 16, 14, .ro, 0, .one⟩
/-- DIO_BLKSTATHI.WRCNT, 19 R488; reset 0. -/
def DIO_BLKSTATHI_WRCNT : Fld := ⟨0xD7FFC, 0, 32, .ro, 0, .one⟩
/-- AIO_STAT.THERMLIM, 13 R379; reset 0. -/
def AIO_STAT_THERMLIM : Fld := ⟨0xE0000, 0, 1, .ro, 0, .one⟩
/-- AIO_STAT.TEMP, 13 R379; reset 0. -/
def AIO_STAT_TEMP : Fld := ⟨0xE0000, 8, 8, .ro, 0, .one⟩
/-- AIO_CHSEL.CH, 13 R379; no reset value given: 0, DESIGN CHOICE, log entry 1. -/
def AIO_CHSEL_CH : Fld := ⟨0xE0010, 0, 5, .rw, 0, .path⟩
/-- AIO_AICFG.RANGE, 13 R379; reset 0. -/
def AIO_AICFG_RANGE : Fld := ⟨0xE0014, 0, 1, .rw, 0, .aio⟩
/-- AIO_AICFG.LSON, 13 R379; reset 0. -/
def AIO_AICFG_LSON : Fld := ⟨0xE0014, 1, 1, .rw, 0, .aio⟩
/-- AIO_AICFG.CHAR, 13 R379; reset 0. -/
def AIO_AICFG_CHAR : Fld := ⟨0xE0014, 2, 2, .rw, 0, .aio⟩
/-- AIO_AICFG.HART, 13 R379; reset 0. -/
def AIO_AICFG_HART : Fld := ⟨0xE0014, 4, 1, .rw, 0, .aio⟩
/-- AIO_AICFG.MULTIDROP, 13 R379; reset 0. -/
def AIO_AICFG_MULTIDROP : Fld := ⟨0xE0014, 5, 1, .rw, 0, .aio⟩
/-- AIO_AICFG.VMIN, 13 R379; reset 24. -/
def AIO_AICFG_VMIN : Fld := ⟨0xE0014, 6, 6, .rw, 24, .aio⟩
/-- AIO_AICFG.RLOOP, 13 R379; reset 250. -/
def AIO_AICFG_RLOOP : Fld := ⟨0xE0014, 12, 10, .rw, 250, .aio⟩
/-- AIO_AICFG.TAU, 13 R379; reset 0. -/
def AIO_AICFG_TAU : Fld := ⟨0xE0014, 22, 10, .rw, 0, .aio⟩
/-- AIO_AISTAT.LIMIT, 13 R379; reset 0. -/
def AIO_AISTAT_LIMIT : Fld := ⟨0xE0018, 0, 1, .ro, 0, .aio⟩
/-- AIO_AISTAT.BAD, 13 R379; reset 0. -/
def AIO_AISTAT_BAD : Fld := ⟨0xE0018, 1, 1, .ro, 0, .aio⟩
/-- AIO_AISTAT.LSLIM, 13 R379; reset 0. -/
def AIO_AISTAT_LSLIM : Fld := ⟨0xE0018, 2, 1, .ro, 0, .aio⟩
/-- AIO_AISTAT.LSOFF, 13 R379; reset 0. -/
def AIO_AISTAT_LSOFF : Fld := ⟨0xE0018, 3, 1, .ro, 0, .aio⟩
/-- AIO_AISTAT.LSV, 13 R379; reset 0. -/
def AIO_AISTAT_LSV : Fld := ⟨0xE0018, 8, 8, .ro, 0, .aio⟩
/-- AIO_AISTAT.CUR, 13 R379; reset 0. -/
def AIO_AISTAT_CUR : Fld := ⟨0xE0018, 16, 16, .ro, 0, .aio⟩
/-- AIO_AOCFG.RANGE, 13 R379; reset 0. -/
def AIO_AOCFG_RANGE : Fld := ⟨0xE001C, 0, 1, .rw, 0, .aio⟩
/-- AIO_AOCFG.RBSAFE, 13 R379; reset 0. -/
def AIO_AOCFG_RBSAFE : Fld := ⟨0xE001C, 1, 1, .rw, 0, .aio⟩
/-- AIO_AOSTAT.RBFAIL, 13 R379; reset 0. -/
def AIO_AOSTAT_RBFAIL : Fld := ⟨0xE0020, 0, 1, .w1c, 0, .aio⟩
/-- AIO_AOSTAT.OPENLP, 13 R379; reset 0. -/
def AIO_AOSTAT_OPENLP : Fld := ⟨0xE0020, 1, 1, .ro, 0, .aio⟩
/-- AIO_AOSTAT.COMPL, 13 R379; reset 0. -/
def AIO_AOSTAT_COMPL : Fld := ⟨0xE0020, 2, 1, .ro, 0, .aio⟩
/-- AIO_AOSTAT.RBCUR, 13 R379; reset 0. -/
def AIO_AOSTAT_RBCUR : Fld := ⟨0xE0020, 16, 16, .ro, 0, .aio⟩
/-- AIO_HARTSTAT.DEVSTAT, 13 R379; reset 0. -/
def AIO_HARTSTAT_DEVSTAT : Fld := ⟨0xE0030, 0, 8, .ro, 0, .aio⟩
/-- AIO_HARTSTAT.DEVICES, 13 R379; reset 0. -/
def AIO_HARTSTAT_DEVICES : Fld := ⟨0xE0030, 8, 3, .ro, 0, .aio⟩
/-- AIO_HARTSTAT.NOANS, 13 R379; reset 0. -/
def AIO_HARTSTAT_NOANS : Fld := ⟨0xE0030, 16, 8, .rc, 0, .aio⟩
/-- AIO_BLKID.BLOCK, 19 R488; reset 14. -/
def AIO_BLKID_BLOCK : Fld := ⟨0xE7FF0, 0, 8, .ro, 14, .one⟩
/-- AIO_BLKID.VER, 19 R488; no reset value given: 0, DESIGN CHOICE, log entry 1. -/
def AIO_BLKID_VER : Fld := ⟨0xE7FF0, 16, 16, .ro, 0, .one⟩
/-- AIO_BLKSTATLO.READY, 19 R488; reset 0. -/
def AIO_BLKSTATLO_READY : Fld := ⟨0xE7FF8, 0, 1, .ro, 0, .one⟩
/-- AIO_BLKSTATLO.FAULT, 19 R488; reset 0. -/
def AIO_BLKSTATLO_FAULT : Fld := ⟨0xE7FF8, 1, 1, .ro, 0, .one⟩
/-- AIO_BLKSTATLO.WARN, 19 R488; reset 0. -/
def AIO_BLKSTATLO_WARN : Fld := ⟨0xE7FF8, 2, 1, .ro, 0, .one⟩
/-- AIO_BLKSTATLO.IGNCNT, 19 R488; reset 0. -/
def AIO_BLKSTATLO_IGNCNT : Fld := ⟨0xE7FF8, 8, 8, .rc, 0, .one⟩
/-- AIO_BLKSTATLO.LASTWR, 19 R488; reset 0. -/
def AIO_BLKSTATLO_LASTWR : Fld := ⟨0xE7FF8, 16, 14, .ro, 0, .one⟩
/-- AIO_BLKSTATHI.WRCNT, 19 R488; reset 0. -/
def AIO_BLKSTATHI_WRCNT : Fld := ⟨0xE7FFC, 0, 32, .ro, 0, .one⟩
/-- ADC_CTL.SEQLEN, 13 R379; reset 1. -/
def ADC_CTL_SEQLEN : Fld := ⟨0xF0000, 0, 7, .rw, 1, .one⟩
/-- ADC_CTL.URGLEAD, 13 R379; reset 60. -/
def ADC_CTL_URGLEAD : Fld := ⟨0xF0000, 8, 9, .rw, 60, .one⟩
/-- ADC_CTL.TESTIVL, 13 R379; reset 10. -/
def ADC_CTL_TESTIVL : Fld := ⟨0xF0000, 17, 8, .rw, 10, .one⟩
/-- ADC_STAT.ROUND, 13 R379; reset 0. -/
def ADC_STAT_ROUND : Fld := ⟨0xF0004, 0, 16, .ro, 0, .one⟩
/-- ADC_STAT.TESTRUN, 13 R379; reset 0. -/
def ADC_STAT_TESTRUN : Fld := ⟨0xF0004, 16, 1, .ro, 0, .one⟩
/-- ADC_STAT.URGPEND, 13 R379; reset 0. -/
def ADC_STAT_URGPEND : Fld := ⟨0xF0004, 17, 1, .ro, 0, .one⟩
/-- ADC_STAT.ENTRY, 13 R379; reset 0. -/
def ADC_STAT_ENTRY : Fld := ⟨0xF0004, 18, 6, .ro, 0, .one⟩
/-- ADC_STAT.TESTFAIL, 13 R379; reset 0. -/
def ADC_STAT_TESTFAIL : Fld := ⟨0xF0004, 24, 8, .rc, 0, .one⟩
/-- ADC_SEQSEL.ENT, 13 R379; no reset value given: 0, DESIGN CHOICE, log entry 1. -/
def ADC_SEQSEL_ENT : Fld := ⟨0xF0010, 0, 6, .rw, 0, .path⟩
/-- ADC_SEQENT.SRC, 13 R379; reset 0. -/
def ADC_SEQENT_SRC : Fld := ⟨0xF0014, 0, 6, .rw, 0, .adc⟩
/-- ADC_SEQENT.OVS, 13 R379; reset 0. -/
def ADC_SEQENT_OVS : Fld := ⟨0xF0014, 6, 3, .rw, 0, .adc⟩
/-- ADC_SEQENT.SETTLE, 13 R379; reset 0. -/
def ADC_SEQENT_SETTLE : Fld := ⟨0xF0014, 9, 4, .rw, 0, .adc⟩
/-- ADC_URGENT.SRC, 13 R379; reset 0. -/
def ADC_URGENT_SRC : Fld := ⟨0xF0018, 0, 6, .rw, 0, .one⟩
/-- ADC_URGENT.OVS, 13 R379; reset 0. -/
def ADC_URGENT_OVS : Fld := ⟨0xF0018, 6, 3, .rw, 0, .one⟩
/-- ADC_URGENT.GO, 13 R379; reset 0. -/
def ADC_URGENT_GO : Fld := ⟨0xF0018, 9, 1, .w1s, 0, .one⟩
/-- ADC_URGENT.DONE, 13 R379; reset 1. -/
def ADC_URGENT_DONE : Fld := ⟨0xF0018, 10, 1, .ro, 1, .one⟩
/-- ADC_URGRES.CODE, 13 R379; no reset value given: 0, DESIGN CHOICE, log entry 1. -/
def ADC_URGRES_CODE : Fld := ⟨0xF001C, 0, 18, .ro, 0, .one⟩
/-- ADC_BLKID.BLOCK, 19 R488; reset 15. -/
def ADC_BLKID_BLOCK : Fld := ⟨0xF7FF0, 0, 8, .ro, 15, .one⟩
/-- ADC_BLKID.VER, 19 R488; no reset value given: 0, DESIGN CHOICE, log entry 1. -/
def ADC_BLKID_VER : Fld := ⟨0xF7FF0, 16, 16, .ro, 0, .one⟩
/-- ADC_BLKSTATLO.READY, 19 R488; reset 0. -/
def ADC_BLKSTATLO_READY : Fld := ⟨0xF7FF8, 0, 1, .ro, 0, .one⟩
/-- ADC_BLKSTATLO.FAULT, 19 R488; reset 0. -/
def ADC_BLKSTATLO_FAULT : Fld := ⟨0xF7FF8, 1, 1, .ro, 0, .one⟩
/-- ADC_BLKSTATLO.WARN, 19 R488; reset 0. -/
def ADC_BLKSTATLO_WARN : Fld := ⟨0xF7FF8, 2, 1, .ro, 0, .one⟩
/-- ADC_BLKSTATLO.IGNCNT, 19 R488; reset 0. -/
def ADC_BLKSTATLO_IGNCNT : Fld := ⟨0xF7FF8, 8, 8, .rc, 0, .one⟩
/-- ADC_BLKSTATLO.LASTWR, 19 R488; reset 0. -/
def ADC_BLKSTATLO_LASTWR : Fld := ⟨0xF7FF8, 16, 14, .ro, 0, .one⟩
/-- ADC_BLKSTATHI.WRCNT, 19 R488; reset 0. -/
def ADC_BLKSTATHI_WRCNT : Fld := ⟨0xF7FFC, 0, 32, .ro, 0, .one⟩
/-- CAN_PORTSEL.PORT, 14 R393; no reset value given: 0, DESIGN CHOICE, log entry 1. -/
def CAN_PORTSEL_PORT : Fld := ⟨0x100000, 0, 3, .rw, 0, .path⟩
/-- CAN_PORTCFG.MODE, 14 R393; reset 0. -/
def CAN_PORTCFG_MODE : Fld := ⟨0x100004, 0, 2, .rw, 0, .can⟩
/-- CAN_PORTCFG.ONESHOT, 14 R393; reset 0. -/
def CAN_PORTCFG_ONESHOT : Fld := ⟨0x100004, 2, 1, .rw, 0, .can⟩
/-- CAN_PORTCFG.FDEN, 14 R393; reset 0. -/
def CAN_PORTCFG_FDEN : Fld := ⟨0x100004, 3, 1, .rw, 0, .can⟩
/-- CAN_PORTCFG.BOFFREC, 14 R393; reset 1. -/
def CAN_PORTCFG_BOFFREC : Fld := ⟨0x100004, 4, 1, .rw, 1, .can⟩
/-- CAN_PORTCFG.BOFFDLY, 14 R393; reset 100. -/
def CAN_PORTCFG_BOFFDLY : Fld := ⟨0x100004, 5, 10, .rw, 100, .can⟩
/-- CAN_NBT.BRP, 14 R393; reset 0. -/
def CAN_NBT_BRP : Fld := ⟨0x100008, 0, 5, .rw, 0, .can⟩
/-- CAN_NBT.TSEG1, 14 R393; reset 0. -/
def CAN_NBT_TSEG1 : Fld := ⟨0x100008, 5, 8, .rw, 0, .can⟩
/-- CAN_NBT.TSEG2, 14 R393; reset 0. -/
def CAN_NBT_TSEG2 : Fld := ⟨0x100008, 13, 7, .rw, 0, .can⟩
/-- CAN_NBT.SJW, 14 R393; reset 0. -/
def CAN_NBT_SJW : Fld := ⟨0x100008, 20, 7, .rw, 0, .can⟩
/-- CAN_DBT.BRP, 14 R393; reset 0. -/
def CAN_DBT_BRP : Fld := ⟨0x10000C, 0, 5, .rw, 0, .can⟩
/-- CAN_DBT.TSEG1, 14 R393; reset 0. -/
def CAN_DBT_TSEG1 : Fld := ⟨0x10000C, 5, 5, .rw, 0, .can⟩
/-- CAN_DBT.TSEG2, 14 R393; reset 0. -/
def CAN_DBT_TSEG2 : Fld := ⟨0x10000C, 10, 4, .rw, 0, .can⟩
/-- CAN_DBT.SJW, 14 R393; reset 0. -/
def CAN_DBT_SJW : Fld := ⟨0x10000C, 14, 4, .rw, 0, .can⟩
/-- CAN_DBT.TDC, 14 R393; reset 0. -/
def CAN_DBT_TDC : Fld := ⟨0x10000C, 18, 1, .rw, 0, .can⟩
/-- CAN_DBT.TDCO, 14 R393; reset 0. -/
def CAN_DBT_TDCO : Fld := ⟨0x10000C, 19, 7, .rw, 0, .can⟩
/-- CAN_ERRSTAT.STATE, 14 R393; reset 0. -/
def CAN_ERRSTAT_STATE : Fld := ⟨0x100010, 0, 2, .ro, 0, .can⟩
/-- CAN_ERRSTAT.LEC, 14 R393; reset 0. -/
def CAN_ERRSTAT_LEC : Fld := ⟨0x100010, 2, 3, .ro, 0, .can⟩
/-- CAN_ERRSTAT.ALBIT, 14 R393; reset 0. -/
def CAN_ERRSTAT_ALBIT : Fld := ⟨0x100010, 5, 8, .ro, 0, .can⟩
/-- CAN_ERRSTAT.TEC, 14 R393; reset 0. -/
def CAN_ERRSTAT_TEC : Fld := ⟨0x100010, 16, 8, .ro, 0, .can⟩
/-- CAN_ERRSTAT.REC, 14 R393; reset 0. -/
def CAN_ERRSTAT_REC : Fld := ⟨0x100010, 24, 8, .ro, 0, .can⟩
/-- CAN_CNT.RXLOST, 14 R393; reset 0. -/
def CAN_CNT_RXLOST : Fld := ⟨0x100014, 0, 8, .rc, 0, .can⟩
/-- CAN_CNT.REPLCNT, 14 R393; reset 0. -/
def CAN_CNT_REPLCNT : Fld := ⟨0x100014, 8, 8, .rc, 0, .can⟩
/-- CAN_CNT.ONESHOTFAIL, 14 R393; reset 0. -/
def CAN_CNT_ONESHOTFAIL : Fld := ⟨0x100014, 16, 8, .rc, 0, .can⟩
/-- CAN_CNT.OWNCNT, 14 R393; reset 0. -/
def CAN_CNT_OWNCNT : Fld := ⟨0x100014, 24, 8, .rc, 0, .can⟩
/-- CAN_RXTAIL.TAIL, 14 R393; no reset value given: 0, DESIGN CHOICE, log entry 1. -/
def CAN_RXTAIL_TAIL : Fld := ⟨0x100018, 0, 16, .rw, 0, .can⟩
/-- CAN_CMD.CMD, 14 R393; reset 0. -/
def CAN_CMD_CMD : Fld := ⟨0x10001C, 0, 2, .wo, 0, .can⟩
/-- CAN_BLKID.BLOCK, 19 R488; reset 16. -/
def CAN_BLKID_BLOCK : Fld := ⟨0x107FF0, 0, 8, .ro, 16, .one⟩
/-- CAN_BLKID.VER, 19 R488; no reset value given: 0, DESIGN CHOICE, log entry 1. -/
def CAN_BLKID_VER : Fld := ⟨0x107FF0, 16, 16, .ro, 0, .one⟩
/-- CAN_BLKSTATLO.READY, 19 R488; reset 0. -/
def CAN_BLKSTATLO_READY : Fld := ⟨0x107FF8, 0, 1, .ro, 0, .one⟩
/-- CAN_BLKSTATLO.FAULT, 19 R488; reset 0. -/
def CAN_BLKSTATLO_FAULT : Fld := ⟨0x107FF8, 1, 1, .ro, 0, .one⟩
/-- CAN_BLKSTATLO.WARN, 19 R488; reset 0. -/
def CAN_BLKSTATLO_WARN : Fld := ⟨0x107FF8, 2, 1, .ro, 0, .one⟩
/-- CAN_BLKSTATLO.IGNCNT, 19 R488; reset 0. -/
def CAN_BLKSTATLO_IGNCNT : Fld := ⟨0x107FF8, 8, 8, .rc, 0, .one⟩
/-- CAN_BLKSTATLO.LASTWR, 19 R488; reset 0. -/
def CAN_BLKSTATLO_LASTWR : Fld := ⟨0x107FF8, 16, 14, .ro, 0, .one⟩
/-- CAN_BLKSTATHI.WRCNT, 19 R488; reset 0. -/
def CAN_BLKSTATHI_WRCNT : Fld := ⟨0x107FFC, 0, 32, .ro, 0, .one⟩
/-- ARC_STAT.READY, 16 R433; reset 0. -/
def ARC_STAT_READY : Fld := ⟨0x110000, 0, 1, .ro, 0, .one⟩
/-- ARC_STAT.OVERBUDGET, 16 R433; reset 0. -/
def ARC_STAT_OVERBUDGET : Fld := ⟨0x110000, 1, 1, .ro, 0, .one⟩
/-- ARC_STAT.STRETCH, 16 R433; reset 0. -/
def ARC_STAT_STRETCH : Fld := ⟨0x110000, 2, 3, .ro, 0, .one⟩
/-- ARC_STAT.HOT, 16 R433; reset 0. -/
def ARC_STAT_HOT : Fld := ⟨0x110000, 5, 1, .ro, 0, .one⟩
/-- ARC_STAT.CREDIT, 16 R433; reset 100. -/
def ARC_STAT_CREDIT : Fld := ⟨0x110000, 6, 7, .ro, 100, .one⟩
/-- ARC_STAT.ALLOW, 16 R433; reset 64. -/
def ARC_STAT_ALLOW : Fld := ⟨0x110000, 13, 7, .ro, 64, .one⟩
/-- ARC_WEAR.USED, 16 R417; no reset value given: 0, DESIGN CHOICE, log entry 1. -/
def ARC_WEAR_USED : Fld := ⟨0x110004, 0, 14, .ro, 0, .one⟩
/-- ARC_NEARCFG.GIB, 16 R417; reset 1: DESIGN CHOICE, log entry 1. -/
def ARC_NEARCFG_GIB : Fld := ⟨0x110008, 0, 8, .rw, 1, .one⟩
/-- ARC_NEARSTAT.SPAN, 16 R417; no reset value given: 0, DESIGN CHOICE, log entry 1. -/
def ARC_NEARSTAT_SPAN : Fld := ⟨0x11000C, 0, 16, .ro, 0, .one⟩
/-- ARC_LOGSEL.LOG, 16 R417; no reset value given: 0, DESIGN CHOICE, log entry 1. -/
def ARC_LOGSEL_LOG : Fld := ⟨0x110010, 0, 1, .rw, 0, .path⟩
/-- ARC_HEADLO.SEQ, 16 R417; no reset value given: 0, DESIGN CHOICE, log entry 1. -/
def ARC_HEADLO_SEQ : Fld := ⟨0x110014, 0, 32, .ro, 0, .log⟩
/-- ARC_HEADHI.SEQ, 16 R417; no reset value given: 0, DESIGN CHOICE, log entry 1. -/
def ARC_HEADHI_SEQ : Fld := ⟨0x110018, 0, 32, .ro, 0, .log⟩
/-- ARC_TAILLO.SEQ, 16 R417; no reset value given: 0, DESIGN CHOICE, log entry 1. -/
def ARC_TAILLO_SEQ : Fld := ⟨0x11001C, 0, 32, .ro, 0, .log⟩
/-- ARC_TAILHI.SEQ, 16 R417; no reset value given: 0, DESIGN CHOICE, log entry 1. -/
def ARC_TAILHI_SEQ : Fld := ⟨0x110020, 0, 32, .ro, 0, .log⟩
/-- ARC_CURLO.S, 16 R417; no reset value given: 0, DESIGN CHOICE, log entry 1. -/
def ARC_CURLO_S : Fld := ⟨0x110030, 0, 32, .rw, 0, .path⟩
/-- ARC_CURHI.S, 16 R417; no reset value given: 0, DESIGN CHOICE, log entry 1. -/
def ARC_CURHI_S : Fld := ⟨0x110034, 0, 32, .rw, 0, .path⟩
/-- ARC_CURSTAT.READY, 16 R433; reset 0. -/
def ARC_CURSTAT_READY : Fld := ⟨0x110038, 0, 1, .ro, 0, .path⟩
/-- ARC_CURSTAT.GAP, 16 R433; reset 0. -/
def ARC_CURSTAT_GAP : Fld := ⟨0x110038, 1, 1, .ro, 0, .path⟩
/-- ARC_CURSTAT.NONE, 16 R433; reset 0. -/
def ARC_CURSTAT_NONE : Fld := ⟨0x110038, 2, 1, .ro, 0, .path⟩
/-- ARC_CURSTAT.NEXT, 16 R433; reset 0. -/
def ARC_CURSTAT_NEXT : Fld := ⟨0x110038, 3, 1, .w1s, 0, .path⟩
/-- ARC_FOUNDLO.S, 16 R417; no reset value given: 0, DESIGN CHOICE, log entry 1. -/
def ARC_FOUNDLO_S : Fld := ⟨0x11003C, 0, 32, .ro, 0, .path⟩
/-- ARC_FOUNDHI.S, 16 R417; no reset value given: 0, DESIGN CHOICE, log entry 1. -/
def ARC_FOUNDHI_S : Fld := ⟨0x110040, 0, 32, .ro, 0, .path⟩
/-- ARC_CLRLO.S, 16 R417; no reset value given: 0, DESIGN CHOICE, log entry 1. -/
def ARC_CLRLO_S : Fld := ⟨0x110048, 0, 32, .rw, 0, .one⟩
/-- ARC_CLRHI.S, 16 R417; no reset value given: 0, DESIGN CHOICE, log entry 1. -/
def ARC_CLRHI_S : Fld := ⟨0x11004C, 0, 32, .rw, 0, .one⟩
/-- ARC_CLRCMD.CMD, 16 R433; reset 0. -/
def ARC_CLRCMD_CMD : Fld := ⟨0x110050, 0, 2, .wo, 0, .one⟩
/-- ARC_CLRCMD.SAFE, 16 R433; reset 0. -/
def ARC_CLRCMD_SAFE : Fld := ⟨0x110050, 2, 1, .wo, 0, .one⟩
/-- ARC_BLKID.BLOCK, 19 R488; reset 17. -/
def ARC_BLKID_BLOCK : Fld := ⟨0x117FF0, 0, 8, .ro, 17, .one⟩
/-- ARC_BLKID.VER, 19 R488; no reset value given: 0, DESIGN CHOICE, log entry 1. -/
def ARC_BLKID_VER : Fld := ⟨0x117FF0, 16, 16, .ro, 0, .one⟩
/-- ARC_BLKSTATLO.READY, 19 R488; reset 0. -/
def ARC_BLKSTATLO_READY : Fld := ⟨0x117FF8, 0, 1, .ro, 0, .one⟩
/-- ARC_BLKSTATLO.FAULT, 19 R488; reset 0. -/
def ARC_BLKSTATLO_FAULT : Fld := ⟨0x117FF8, 1, 1, .ro, 0, .one⟩
/-- ARC_BLKSTATLO.WARN, 19 R488; reset 0. -/
def ARC_BLKSTATLO_WARN : Fld := ⟨0x117FF8, 2, 1, .ro, 0, .one⟩
/-- ARC_BLKSTATLO.IGNCNT, 19 R488; reset 0. -/
def ARC_BLKSTATLO_IGNCNT : Fld := ⟨0x117FF8, 8, 8, .rc, 0, .one⟩
/-- ARC_BLKSTATLO.LASTWR, 19 R488; reset 0. -/
def ARC_BLKSTATLO_LASTWR : Fld := ⟨0x117FF8, 16, 14, .ro, 0, .one⟩
/-- ARC_BLKSTATHI.WRCNT, 19 R488; reset 0. -/
def ARC_BLKSTATHI_WRCNT : Fld := ⟨0x117FFC, 0, 32, .ro, 0, .one⟩
/-- BOT_STAT.STEP, 17 R460; reset 0. -/
def BOT_STAT_STEP : Fld := ⟨0x120000, 0, 4, .ro, 0, .one⟩
/-- BOT_STAT.ACTSLOT, 17 R460; no reset value given: 0, DESIGN CHOICE, log entry 1. -/
def BOT_STAT_ACTSLOT : Fld := ⟨0x120000, 4, 1, .ro, 0, .one⟩
/-- BOT_STAT.PROBATION, 17 R460; reset 0. -/
def BOT_STAT_PROBATION : Fld := ⟨0x120000, 5, 1, .ro, 0, .one⟩
/-- BOT_STAT.FALLBACK, 17 R460; reset 0. -/
def BOT_STAT_FALLBACK : Fld := ⟨0x120000, 6, 1, .ro, 0, .one⟩
/-- BOT_STAT.WARMOK, 17 R460; reset 0. -/
def BOT_STAT_WARMOK : Fld := ⟨0x120000, 7, 1, .ro, 0, .one⟩
/-- BOT_STAT.WINLEFT, 17 R460; reset 0. -/
def BOT_STAT_WINLEFT : Fld := ⟨0x120000, 16, 13, .ro, 0, .one⟩
/-- BOT_RSTCAUSE.CAUSE, 17 R460; no reset value given: 0, DESIGN CHOICE, log entry 1. -/
def BOT_RSTCAUSE_CAUSE : Fld := ⟨0x120004, 0, 8, .ro, 0, .one⟩
/-- BOT_RSTCAUSE.LWCAUSE, 17 R460; reset 0. -/
def BOT_RSTCAUSE_LWCAUSE : Fld := ⟨0x120004, 8, 8, .ro, 0, .one⟩
/-- BOT_RSTCAUSE.RSTCNT, 17 R460; no reset value given: 0, DESIGN CHOICE, log entry 1. -/
def BOT_RSTCAUSE_RSTCNT : Fld := ⟨0x120004, 16, 16, .ro, 0, .one⟩
/-- BOT_CFG.STARTMODE, 17 R460; reset 1. -/
def BOT_CFG_STARTMODE : Fld := ⟨0x120008, 0, 2, .rw, 1, .one⟩
/-- BOT_CFG.AUTOCONF, 17 R460; reset 1. -/
def BOT_CFG_AUTOCONF : Fld := ⟨0x120008, 2, 1, .rw, 1, .one⟩
/-- BOT_CFG.CONFMIN, 17 R460; reset 30. -/
def BOT_CFG_CONFMIN : Fld := ⟨0x120008, 3, 7, .rw, 30, .one⟩
/-- BOT_CFG.HEALTHWIN, 17 R460; reset 4. -/
def BOT_CFG_HEALTHWIN : Fld := ⟨0x120008, 10, 7, .rw, 4, .one⟩
/-- BOT_CFG.AUTORST, 17 R460; reset 5. -/
def BOT_CFG_AUTORST : Fld := ⟨0x120008, 17, 3, .rw, 5, .one⟩
/-- BOT_CFG.TIMEWAIT, 17 R460; reset 30. -/
def BOT_CFG_TIMEWAIT : Fld := ⟨0x120008, 20, 6, .rw, 30, .one⟩
/-- BOT_CMD.CMD, 17 R460; reset 0. -/
def BOT_CMD_CMD : Fld := ⟨0x12000C, 0, 3, .wo, 0, .one⟩
/-- BOT_SLOTSTAT.STATEA, 17 R460; no reset value given: 0, DESIGN CHOICE, log entry 1. -/
def BOT_SLOTSTAT_STATEA : Fld := ⟨0x120010, 0, 3, .ro, 0, .one⟩
/-- BOT_SLOTSTAT.STATEB, 17 R460; no reset value given: 0, DESIGN CHOICE, log entry 1. -/
def BOT_SLOTSTAT_STATEB : Fld := ⟨0x120010, 3, 3, .ro, 0, .one⟩
/-- BOT_SLOTSTAT.CFGFMT, 17 R460; no reset value given: 0, DESIGN CHOICE, log entry 1. -/
def BOT_SLOTSTAT_CFGFMT : Fld := ⟨0x120010, 8, 8, .ro, 0, .one⟩
/-- BOT_SLOTSTAT.FMTPAIR, 17 R460; reset 0. -/
def BOT_SLOTSTAT_FMTPAIR : Fld := ⟨0x120010, 16, 1, .ro, 0, .one⟩
/-- BOT_FUSESTAT.IDMARG, 17 R460; reset 0. -/
def BOT_FUSESTAT_IDMARG : Fld := ⟨0x120014, 0, 1, .ro, 0, .one⟩
/-- BOT_FUSESTAT.CFGMARG, 17 R460; reset 0. -/
def BOT_FUSESTAT_CFGMARG : Fld := ⟨0x120014, 1, 1, .ro, 0, .one⟩
/-- BOT_FUSESTAT.NEWMARG, 17 R460; reset 0. -/
def BOT_FUSESTAT_NEWMARG : Fld := ⟨0x120014, 2, 1, .ro, 0, .one⟩
/-- BOT_FUSESTAT.MARGCNT, 17 R460; reset 0. -/
def BOT_FUSESTAT_MARGCNT : Fld := ⟨0x120014, 8, 8, .ro, 0, .one⟩
/-- BOT_SVN.KERBSVN, 17 R460; no reset value given: 0, DESIGN CHOICE, log entry 1. -/
def BOT_SVN_KERBSVN : Fld := ⟨0x120018, 0, 8, .ro, 0, .one⟩
/-- BOT_SVN.MODSVN, 17 R460; no reset value given: 0, DESIGN CHOICE, log entry 1. -/
def BOT_SVN_MODSVN : Fld := ⟨0x120018, 8, 8, .ro, 0, .one⟩
/-- BOT_SVN.SLOTSVN, 17 R460; no reset value given: 0, DESIGN CHOICE, log entry 1. -/
def BOT_SVN_SLOTSVN : Fld := ⟨0x120018, 16, 8, .ro, 0, .one⟩
/-- BOT_UPDCTL.CMD, 17 R460; no reset value given: 0, DESIGN CHOICE, log entry 1. -/
def BOT_UPDCTL_CMD : Fld := ⟨0x120020, 0, 3, .wo, 0, .one⟩
/-- BOT_UPOFF.OFF, 17 R460; no reset value given: 0, DESIGN CHOICE, log entry 1. -/
def BOT_UPOFF_OFF : Fld := ⟨0x120024, 15, 14, .rw, 0, .one⟩
/-- BOT_UPCRC.CRC, 17 R460; no reset value given: 0, DESIGN CHOICE, log entry 1. -/
def BOT_UPCRC_CRC : Fld := ⟨0x120028, 0, 32, .rw, 0, .one⟩
/-- BOT_UPLEN.LEN, 17 R460; no reset value given: 0, DESIGN CHOICE, log entry 1. -/
def BOT_UPLEN_LEN : Fld := ⟨0x12002C, 0, 30, .rw, 0, .one⟩
/-- BOT_UPDSTAT.RESULT, 17 R460; reset 0. -/
def BOT_UPDSTAT_RESULT : Fld := ⟨0x120030, 0, 2, .ro, 0, .one⟩
/-- BOT_UPDSTAT.OPEN, 17 R460; reset 0. -/
def BOT_UPDSTAT_OPEN : Fld := ⟨0x120030, 2, 1, .ro, 0, .one⟩
/-- BOT_UPDSTAT.CHUNKS, 17 R460; reset 0. -/
def BOT_UPDSTAT_CHUNKS : Fld := ⟨0x120030, 16, 16, .ro, 0, .one⟩
/-- BOT_BLKID.BLOCK, 19 R488; reset 18. -/
def BOT_BLKID_BLOCK : Fld := ⟨0x127FF0, 0, 8, .ro, 18, .one⟩
/-- BOT_BLKID.VER, 19 R488; no reset value given: 0, DESIGN CHOICE, log entry 1. -/
def BOT_BLKID_VER : Fld := ⟨0x127FF0, 16, 16, .ro, 0, .one⟩
/-- BOT_BLKSTATLO.READY, 19 R488; reset 0. -/
def BOT_BLKSTATLO_READY : Fld := ⟨0x127FF8, 0, 1, .ro, 0, .one⟩
/-- BOT_BLKSTATLO.FAULT, 19 R488; reset 0. -/
def BOT_BLKSTATLO_FAULT : Fld := ⟨0x127FF8, 1, 1, .ro, 0, .one⟩
/-- BOT_BLKSTATLO.WARN, 19 R488; reset 0. -/
def BOT_BLKSTATLO_WARN : Fld := ⟨0x127FF8, 2, 1, .ro, 0, .one⟩
/-- BOT_BLKSTATLO.IGNCNT, 19 R488; reset 0. -/
def BOT_BLKSTATLO_IGNCNT : Fld := ⟨0x127FF8, 8, 8, .rc, 0, .one⟩
/-- BOT_BLKSTATLO.LASTWR, 19 R488; reset 0. -/
def BOT_BLKSTATLO_LASTWR : Fld := ⟨0x127FF8, 16, 14, .ro, 0, .one⟩
/-- BOT_BLKSTATHI.WRCNT, 19 R488; reset 0. -/
def BOT_BLKSTATHI_WRCNT : Fld := ⟨0x127FFC, 0, 32, .ro, 0, .one⟩
/-- SEC_PORTSEL.PORT, 10 R285; no reset value given: 0, DESIGN CHOICE, log entry 1. -/
def SEC_PORTSEL_PORT : Fld := ⟨0x130000, 0, 7, .rw, 0, .path⟩
/-- SEC_PORTCFG.REPLAYWIN, 10 R285; reset 0. -/
def SEC_PORTCFG_REPLAYWIN : Fld := ⟨0x130004, 0, 8, .rw, 0, .sec⟩
/-- SEC_PORTCFG.SAKLIFE, 10 R285; reset 24. -/
def SEC_PORTCFG_SAKLIFE : Fld := ⟨0x130004, 8, 8, .rw, 24, .sec⟩
/-- SEC_PORTSTAT.SECURED, 10 R285; reset 0. -/
def SEC_PORTSTAT_SECURED : Fld := ⟨0x130008, 0, 1, .ro, 0, .sec⟩
/-- SEC_PORTSTAT.REKEYING, 10 R285; reset 0. -/
def SEC_PORTSTAT_REKEYING : Fld := ⟨0x130008, 1, 1, .ro, 0, .sec⟩
/-- SEC_PORTSTAT.EXHAUST, 10 R285; reset 0. -/
def SEC_PORTSTAT_EXHAUST : Fld := ⟨0x130008, 2, 1, .ro, 0, .sec⟩
/-- SEC_PORTSTAT.KEYSERVER, 10 R285; reset 0. -/
def SEC_PORTSTAT_KEYSERVER : Fld := ⟨0x130008, 3, 1, .ro, 0, .sec⟩
/-- SEC_PORTSTAT.REKEYCNT, 10 R285; reset 0. -/
def SEC_PORTSTAT_REKEYCNT : Fld := ⟨0x130008, 8, 8, .rc, 0, .sec⟩
/-- SEC_PORTSTAT.PEERS, 10 R285; reset 0. -/
def SEC_PORTSTAT_PEERS : Fld := ⟨0x130008, 16, 8, .ro, 0, .sec⟩
/-- SEC_TXPNLO.PN, 10 R285; no reset value given: 0, DESIGN CHOICE, log entry 1. -/
def SEC_TXPNLO_PN : Fld := ⟨0x13000C, 0, 32, .ro, 0, .sec⟩
/-- SEC_TXPNHI.PN, 10 R285; no reset value given: 0, DESIGN CHOICE, log entry 1. -/
def SEC_TXPNHI_PN : Fld := ⟨0x130010, 0, 32, .ro, 0, .sec⟩
/-- SEC_BLKID.BLOCK, 19 R488; reset 19. -/
def SEC_BLKID_BLOCK : Fld := ⟨0x137FF0, 0, 8, .ro, 19, .one⟩
/-- SEC_BLKID.VER, 19 R488; no reset value given: 0, DESIGN CHOICE, log entry 1. -/
def SEC_BLKID_VER : Fld := ⟨0x137FF0, 16, 16, .ro, 0, .one⟩
/-- SEC_BLKSTATLO.READY, 19 R488; reset 0. -/
def SEC_BLKSTATLO_READY : Fld := ⟨0x137FF8, 0, 1, .ro, 0, .one⟩
/-- SEC_BLKSTATLO.FAULT, 19 R488; reset 0. -/
def SEC_BLKSTATLO_FAULT : Fld := ⟨0x137FF8, 1, 1, .ro, 0, .one⟩
/-- SEC_BLKSTATLO.WARN, 19 R488; reset 0. -/
def SEC_BLKSTATLO_WARN : Fld := ⟨0x137FF8, 2, 1, .ro, 0, .one⟩
/-- SEC_BLKSTATLO.IGNCNT, 19 R488; reset 0. -/
def SEC_BLKSTATLO_IGNCNT : Fld := ⟨0x137FF8, 8, 8, .rc, 0, .one⟩
/-- SEC_BLKSTATLO.LASTWR, 19 R488; reset 0. -/
def SEC_BLKSTATLO_LASTWR : Fld := ⟨0x137FF8, 16, 14, .ro, 0, .one⟩
/-- SEC_BLKSTATHI.WRCNT, 19 R488; reset 0. -/
def SEC_BLKSTATHI_WRCNT : Fld := ⟨0x137FFC, 0, 32, .ro, 0, .one⟩
/-- The fields of the KRB block. -/
def fieldsKrb : List Fld :=
  [KRB_SERLO_SER, KRB_SERHI_SER, KRB_ORDER_X, KRB_ORDER_Y,
   KRB_ORDER_Z, KRB_DEVID0_DIGEST, KRB_DEVID1_DIGEST, KRB_DEVID2_DIGEST,
   KRB_DEVID3_DIGEST, KRB_STAT_PARTNERNEW, KRB_STAT_MOVED, KRB_IGNSTAT_IGNCNT,
   KRB_IGNSTAT_CAUSE, KRB_IGNADDR_OFFSET, KRB_IGNPATH_PATH, KRB_SWSTAT_SAFEEDIT,
   KRB_SWSTAT_UPDEN, KRB_SWSTAT_SAFEFLT, KRB_SWSTAT_UPDFLT, KRB_SWSTAT_CHGCNT,
   KRB_HBCFG_HBSEEN, KRB_HBCFG_TIMEOUT, KRB_HBCFG_WATCHED, KRB_HBCFG_TRIPPED,
   KRB_BLKID_BLOCK, KRB_BLKID_VER, KRB_BLKSTATLO_READY, KRB_BLKSTATLO_FAULT,
   KRB_BLKSTATLO_WARN, KRB_BLKSTATLO_IGNCNT, KRB_BLKSTATLO_LASTWR, KRB_BLKSTATHI_WRCNT]
/-- The fields of the PWR block. -/
def fieldsPwr : List Fld :=
  [PWR_STAT_PSTATE, PWR_STAT_LANECLK, PWR_STAT_SAG, PWR_STAT_THERM,
   PWR_STAT_CAPPED, PWR_STAT_STOREFLT, PWR_STAT_MAINSA, PWR_STAT_MAINSB,
   PWR_STAT_COOLOK, PWR_STAT_PREHEAT, PWR_STAT_TWARN, PWR_STAT_SAGCNT,
   PWR_STAT_THCNT, PWR_CTL_MAXSTATE, PWR_CTL_MAINSCFG, PWR_MAINSA_V,
   PWR_MAINSA_I, PWR_MAINSB_V, PWR_MAINSB_I, PWR_BUS_V,
   PWR_BUS_CHARGE, PWR_TEMP_INLET, PWR_TEMP_DIE, PWR_TEMP2_COLD,
   PWR_TEMP2_STACK, PWR_FLOW_FLOW, PWR_FLOW_OUTLET, PWR_TOL_TOL,
   PWR_POWER_DRAW, PWR_POWER_PEAK, PWR_CMD_CMD, PWR_BLKID_BLOCK,
   PWR_BLKID_VER, PWR_BLKSTATLO_READY, PWR_BLKSTATLO_FAULT, PWR_BLKSTATLO_WARN,
   PWR_BLKSTATLO_IGNCNT, PWR_BLKSTATLO_LASTWR, PWR_BLKSTATHI_WRCNT]
/-- The fields of the TIM block. -/
def fieldsTim : List Fld :=
  [TIM_CTL_DOMPREF, TIM_CTL_AUTOSWITCH, TIM_CTL_SWITCH, TIM_CTL_GMCAP,
   TIM_CTL_DOMDIFF, TIM_STAT_ACTIVE, TIM_STAT_D0LOCK, TIM_STAT_D1LOCK,
   TIM_STAT_HOLDOVER, TIM_STAT_DOMSPLIT, TIM_STAT_PAIRSYNC, TIM_STAT_SWCNT,
   TIM_STAT_OFFSET, TIM_NS_NS, TIM_SECLO_SEC, TIM_SECHI_SEC,
   TIM_POSEL_OUT, TIM_POSTART_SEC, TIM_POSTARTNS_NS, TIM_POPERIOD_NS,
   TIM_POWIDTH_NS, TIM_POCTL_ARM, TIM_POCTL_STOP, TIM_POCTL_RUNNING,
   TIM_POCTL_LATE, TIM_POCTL_POL, TIM_POCTL_COUNT, TIM_CAPCFG_EDGE2,
   TIM_CAPCFG_EDGE3, TIM_CAPCFG_MEASEN, TIM_CAPCFG_STARTIN, TIM_CAPCFG_STARTEDGE,
   TIM_CAPCFG_STOPEDGE, TIM_CAPCFG_GLITCH, TIM_CAPCFG_TAIL, TIM_CAPSTAT_HEAD,
   TIM_CAPSTAT_LOST, TIM_CAPSTAT_ORDERCNT, TIM_BLKID_BLOCK, TIM_BLKID_VER,
   TIM_BLKSTATLO_READY, TIM_BLKSTATLO_FAULT, TIM_BLKSTATLO_WARN, TIM_BLKSTATLO_IGNCNT,
   TIM_BLKSTATLO_LASTWR, TIM_BLKSTATHI_WRCNT]
/-- The fields of the SCH block. -/
def fieldsSch : List Fld :=
  [SCH_MODE_MODE, SCH_MODE_REQ, SCH_MODE_START, SCH_MODE_LASTSTART,
   SCH_MODE_FORCED, SCH_MODE_PROFILE, SCH_MODE_FORCECNT, SCH_TASKCTL_TASK,
   SCH_TASKCTL_CMD, SCH_TICK_N, SCH_TASKSEL_TASK, SCH_TASKCFG_PERIOD,
   SCH_TASKCFG_PRIO, SCH_TASKCFG_KIND, SCH_TASKCFG_SAFETY, SCH_TASKCFG_SPEC,
   SCH_TASKCFG_OUTMODE, SCH_TASKPHASE_PHASE, SCH_TASKPHASE_LANES, SCH_TASKPHASE_QUARTER,
   SCH_TASKSTAT_STATE, SCH_TASKSTAT_LATE, SCH_TASKSTAT_CATCHUP, SCH_TASKSTAT_PENDING,
   SCH_TASKSTAT_WDOG, SCH_TASKSTAT_LAGTICKS, SCH_TASKCNT_LATECNT, SCH_TASKCNT_SKIPCNT,
   SCH_TASKEVT_CANCNT, SCH_TASKEVT_ACTCNT, SCH_TASKXCP_CODE, SCH_TASKXCP_STREAM,
   SCH_TASKXCP_PEND, SCH_TASKXCP_POLICY, SCH_TASKXCP_DISP, SCH_TASKXCP_XCPCNT,
   SCH_TASKXCP_ABTCNT, SCH_XCPCNT_DISPREF, SCH_OLCCTL_CMD, SCH_OLCCTL_MINLEAD,
   SCH_OLCSTAT_STEP, SCH_OLCSTAT_ACTSTORE, SCH_OLCSTAT_FALLBACK, SCH_OLCSTAT_ABNCNT,
   SCH_OLCSTAT_MIGCNT, SCH_OLCCSNLO_CSN, SCH_OLCCSNHI_CSN, SCH_COALSTAT_OPEN,
   SCH_COALSTAT_OVFCNT, SCH_CFGCMD_CMD, SCH_CFGOFF_OFF, SCH_CFGCRC_CRC,
   SCH_CFGLEN_LEN, SCH_CFGSTAT_RESULT, SCH_CFGSTAT_OPEN, SCH_CFGSTAT_CHECKED,
   SCH_CFGSTAT_REFUSE, SCH_CFGSTAT_CHUNKS, SCH_BLKID_BLOCK, SCH_BLKID_VER,
   SCH_BLKSTATLO_READY, SCH_BLKSTATLO_FAULT, SCH_BLKSTATLO_WARN, SCH_BLKSTATLO_IGNCNT,
   SCH_BLKSTATLO_LASTWR, SCH_BLKSTATHI_WRCNT]
/-- The fields of the XNG block. -/
def fieldsXng : List Fld :=
  [XNG_CTL_INJEN, XNG_CTL_INJIVL, XNG_CTL_RETN, XNG_CTL_DIVEVT,
   XNG_STAT_RETIRED, XNG_STAT_ASSIGN, XNG_STAT_RESERVE, XNG_STAT_LANESHORT,
   XNG_STAT_QPARKED, XNG_STAT_TESTLATE, XNG_DIVCNT_DIVCNT, XNG_DIVCNT_SAFECNT,
   XNG_FLTCNT_LFCNT, XNG_FLTCNT_RERUNFAIL, XNG_FLTCNT_INJFAIL, XNG_LANESEL_LANE,
   XNG_LANESTAT_ROLE, XNG_LANESTAT_QUARTER, XNG_LANESTAT_TRANS, XNG_LANESTAT_INTEST,
   XNG_LANESTAT_TESTAGE, XNG_LASTFLT_LANE, XNG_LASTFLT_ITEM, XNG_LASTFLT_TASK,
   XNG_LASTFLT_STREAM, XNG_LASTFLT_SPEC, XNG_LASTFLT_AUDIT, XNG_LASTFLT_INJ,
   XNG_LASTFLT_VALID, XNG_LASTPC_PC, XNG_RETMAP0_MAP, XNG_RETMAP1_MAP,
   XNG_RETMAP2_MAP, XNG_CMD_LANE, XNG_CMD_CMD, XNG_BLKID_BLOCK,
   XNG_BLKID_VER, XNG_BLKSTATLO_READY, XNG_BLKSTATLO_FAULT, XNG_BLKSTATLO_WARN,
   XNG_BLKSTATLO_IGNCNT, XNG_BLKSTATLO_LASTWR, XNG_BLKSTATHI_WRCNT]
/-- The fields of the SPC block. -/
def fieldsSpc : List Fld :=
  [SPC_CTL_ENABLE, SPC_CTL_SAGMIN, SPC_CTL_ACTIVE, SPC_CTL_POOLGIB,
   SPC_CTL_INFLIGHT, SPC_POOLUSE_PAGES, SPC_POOLUSE_POOLFULL, SPC_TASKCFG_SPECLEAD,
   SPC_TASKCFG_MINHIT, SPC_TASKCFG_CONFMODE, SPC_TASKCFG_BACKOFF, SPC_TASKSTAT_SSTATE,
   SPC_TASKSTAT_HITS, SPC_TASKSTAT_WINDOW, SPC_TASKSTAT_SUSPLEFT, SPC_TASKCNT_CONFCNT,
   SPC_TASKCNT_DISCCNT, SPC_TASKWHY_INVCNT, SPC_TASKWHY_ABNCNT, SPC_TASKWHY_UNDCNT,
   SPC_TASKWHY_MISCNT, SPC_MISSLO_ADDRLO, SPC_MISSHI_ADDRHI, SPC_MISSHI_DIFF,
   SPC_MISSHI_SRC, SPC_MISSHI_VALID, SPC_BLKID_BLOCK, SPC_BLKID_VER,
   SPC_BLKSTATLO_READY, SPC_BLKSTATLO_FAULT, SPC_BLKSTATLO_WARN, SPC_BLKSTATLO_IGNCNT,
   SPC_BLKSTATLO_LASTWR, SPC_BLKSTATHI_WRCNT]
/-- The fields of the SQR block. -/
def fieldsSqr : List Fld :=
  [SQR_ECCSTAT_CECNT, SQR_ECCSTAT_UECNT, SQR_ECCSTAT_STACK, SQR_ECCSTAT_PASSLATE,
   SQR_ECCSTAT_SPAREOUT, SQR_ECCSTAT_PMAPERR, SQR_ECCADDRLO_ADDR, SQR_ECCADDRHI_ADDR,
   SQR_SPARE_S0, SQR_SPARE_S1, SQR_SPARE_S2, SQR_SPARE_S3,
   SQR_RINGCFG_GIB, SQR_RINGSTAT_SPAN, SQR_WALKERR_REASON, SQR_WALKERR_VALID,
   SQR_WALKTAG_TAG, SQR_TTCFIRST_TAG, SQR_TTCLAST_TAG, SQR_TTCINV_GO,
   SQR_TTCINV_ALL, SQR_TTCINV_DONE, SQR_TAGEDID_ID, SQR_TAGEDW0_DATA,
   SQR_TAGEDW1_DATA, SQR_TAGEDW2_DATA, SQR_TAGEDW3_DATA, SQR_TAGEDCMD_WRITE,
   SQR_TAGEDCMD_INV, SQR_TAGEDCMD_DIR, SQR_TAGEDCMD_REFUSED, SQR_BLKID_BLOCK,
   SQR_BLKID_VER, SQR_BLKSTATLO_READY, SQR_BLKSTATLO_FAULT, SQR_BLKSTATLO_WARN,
   SQR_BLKSTATLO_IGNCNT, SQR_BLKSTATLO_LASTWR, SQR_BLKSTATHI_WRCNT]
/-- The fields of the ACU block. -/
def fieldsAcu : List Fld :=
  [ACU_CTL_BARRIER, ACU_CTL_DONE, ACU_STAT_GEN, ACU_STAT_REFCNT,
   ACU_STAT_REASON, ACU_MSEL_SEL, ACU_RSEL_SLOT, ACU_RBASELO_BASE,
   ACU_RBASEHI_BASE, ACU_RLIMLO_LIMIT, ACU_RLIMHI_LIMIT, ACU_RATTR_EN,
   ACU_RATTR_RD, ACU_RATTR_WR, ACU_RATTR_EXEC, ACU_RATTR_DEV,
   ACU_FLTLO_ADDR, ACU_FLTHI_ADDR, ACU_FLTHI_MASTER, ACU_FLTHI_WRITE,
   ACU_FLTHI_VALID, ACU_BLKID_BLOCK, ACU_BLKID_VER, ACU_BLKSTATLO_READY,
   ACU_BLKSTATLO_FAULT, ACU_BLKSTATLO_WARN, ACU_BLKSTATLO_IGNCNT, ACU_BLKSTATLO_LASTWR,
   ACU_BLKSTATHI_WRCNT]
/-- The fields of the IMV block. -/
def fieldsImv : List Fld :=
  [IMV_BUSY0_MAP, IMV_BUSY1_MAP, IMV_CNT_PREEMPT, IMV_CNT_ABANDON,
   IMV_CNT_IGNCNT, IMV_CHSEL_CH, IMV_CHSRCLO_ADDR, IMV_CHSRCHI_ADDR,
   IMV_CHDSTLO_ADDR, IMV_CHDSTHI_ADDR, IMV_CHLEN_LEN, IMV_CHCTL_START,
   IMV_CHCTL_HALT, IMV_CHCTL_SRCFIX, IMV_CHCTL_DSTFIX, IMV_CHCTL_WIDTH,
   IMV_CHCTL_DSTNONE, IMV_CHCTL_CRCMODE, IMV_CHCTL_REPEAT, IMV_CHSTAT_BUSY,
   IMV_CHSTAT_DONE, IMV_CHSTAT_ERR, IMV_CHSTAT_PRIO, IMV_CHSTAT_KEPT,
   IMV_CHSTAT_RUNSLEFT, IMV_CHCRC_CRC, IMV_CHPOS_POS, IMV_BLKID_BLOCK,
   IMV_BLKID_VER, IMV_BLKSTATLO_READY, IMV_BLKSTATLO_FAULT, IMV_BLKSTATLO_WARN,
   IMV_BLKSTATLO_IGNCNT, IMV_BLKSTATLO_LASTWR, IMV_BLKSTATHI_WRCNT]
/-- The fields of the PAR block. -/
def fieldsPar : List Fld :=
  [PAR_STAT_STATE, PAR_STAT_ROLE, PAR_STAT_SEAT, PAR_STAT_ELIGIBLE,
   PAR_STAT_LINKUP, PAR_STAT_FENCEIN, PAR_STAT_FENCEOUT, PAR_STAT_FENCEFLT,
   PAR_STAT_PSEAT, PAR_STAT_CFGSPLIT, PAR_STAT_SEATCLASH, PAR_STAT_RETSPLIT,
   PAR_STAT_SWPEND, PAR_EPOCH_EPOCH, PAR_ACKCSNLO_ACKCSN, PAR_ACKCSNHI_ACKCSN,
   PAR_CTL_AUTOJOIN, PAR_CTL_JOINRATE, PAR_CTL_BFRATE, PAR_CMD_CMD,
   PAR_AUDCNT_AUDOK, PAR_AUDCNT_AUDMISS, PAR_AUDCNT_AUDSKIP, PAR_LOSSCNT_MISSCNT,
   PAR_LOSSCNT_TAKECNT, PAR_LOSSCNT_STEPCNT, PAR_WITSTAT_WCFG, PAR_WITSTAT_GRANTS,
   PAR_WITSTAT_ASSENT, PAR_WITSTAT_REFUSED, PAR_WITSTAT_SWREF, PAR_JOINSTAT_PHASE,
   PAR_JOINSTAT_BULKPCT, PAR_JOINSTAT_BFPCT, PAR_JOINSTAT_BFGAP, PAR_JOINSTAT_REFUSE,
   PAR_CFGGENLO_CFGGEN, PAR_CFGGENHI_CFGGEN, PAR_BLKID_BLOCK, PAR_BLKID_VER,
   PAR_BLKSTATLO_READY, PAR_BLKSTATLO_FAULT, PAR_BLKSTATLO_WARN, PAR_BLKSTATLO_IGNCNT,
   PAR_BLKSTATLO_LASTWR, PAR_BLKSTATHI_WRCNT]
/-- The fields of the HQE block. -/
def fieldsHqe : List Fld :=
  [HQE_CTL_ENABLE, HQE_CTL_FOLLOWREAD, HQE_CTL_SESSIDLE, HQE_CTL_MAXSESS,
   HQE_STAT_SESSIONS, HQE_STAT_QPS, HQE_ADMCFG_CREDIT, HQE_ADMCFG_BATCH,
   HQE_ERRCNT_REFSESS, HQE_ERRCNT_BADDB, HQE_ERRCNT_NAKCNT, HQE_LOCKCFG_LEASE,
   HQE_LOCKCFG_MAXLOCKS, HQE_LOCKSTAT_HELD, HQE_LOCKSTAT_BROKENCNT, HQE_LOCKSTAT_ORDERREF,
   HQE_BLKID_BLOCK, HQE_BLKID_VER, HQE_BLKSTATLO_READY, HQE_BLKSTATLO_FAULT,
   HQE_BLKSTATLO_WARN, HQE_BLKSTATLO_IGNCNT, HQE_BLKSTATLO_LASTWR, HQE_BLKSTATHI_WRCNT]
/-- The fields of the PNE block. -/
def fieldsPne : List Fld :=
  [PNE_CTL_ENABLE, PNE_CTL_KERBSTOP, PNE_PORTSEL_LINK, PNE_PORTCFG_SPEED,
   PNE_PORTCFG_REDUN, PNE_PORTCFG_PARTNER, PNE_PORTCFG_PTPEN, PNE_PORTSTAT_UP,
   PNE_PORTSTAT_RATE, PNE_PORTSTAT_GCLERR, PNE_PORTSTAT_DISCCNT, PNE_PORTSTAT_ELIMCNT,
   PNE_PORTSTAT_GAPCNT, PNE_STASEL_STA, PNE_STASTAT_STATE, PNE_STASTAT_NOTSYNC,
   PNE_STASTAT_WITNESS, PNE_STASTAT_MODE, PNE_STASTAT_DROPCNT, PNE_STAWDT_SWDT,
   PNE_STAWDT_IWDT, PNE_CUTCFG_CUTWAIT, PNE_CUTCFG_MODEWAIT, PNE_BLKID_BLOCK,
   PNE_BLKID_VER, PNE_BLKSTATLO_READY, PNE_BLKSTATLO_FAULT, PNE_BLKSTATLO_WARN,
   PNE_BLKSTATLO_IGNCNT, PNE_BLKSTATLO_LASTWR, PNE_BLKSTATHI_WRCNT]
/-- The fields of the SFY block. -/
def fieldsSfy : List Fld :=
  [SFY_STAT_SWEDIT, SFY_STAT_SWFLT, SFY_STAT_UNVAL, SFY_STAT_DEGR,
   SFY_STAT_TRIP, SFY_STAT_SIGCHG, SFY_STAT_ACKREF, SFY_SIG0_SIG,
   SFY_SIG1_SIG, SFY_VALACK_ACK, SFY_CONNSEL_CONN, SFY_CONNCFG_FWDT,
   SFY_CONNCFG_WIN, SFY_CONNCFG_AUTOREINT, SFY_CONNCFG_RIDE, SFY_CONNSTAT_STATE,
   SFY_CONNSTAT_FARPASS, SFY_CONNSTAT_CRCERR, SFY_CONNSTAT_SEQERR, SFY_CONNSTAT_LOSTCNT,
   SFY_CONNCNT_WDEXP, SFY_CONNCNT_ECHOLATE, SFY_FNSEL_FN, SFY_FNCFG_KIND,
   SFY_FNCFG_ANTIV, SFY_FNCFG_DT, SFY_FNCFG_DEGMAX, SFY_FNSTAT_STATE,
   SFY_FNSTAT_DISC, SFY_FNSTAT_CHBAD, SFY_FNSTAT_DEGLEFT, SFY_TESTCFG_WIDTH,
   SFY_TESTCFG_TESTIVL, SFY_TESTSTAT_PULSEFAIL, SFY_TESTSTAT_READFAIL, SFY_TESTSTAT_LASTCH,
   SFY_BLKID_BLOCK, SFY_BLKID_VER, SFY_BLKSTATLO_READY, SFY_BLKSTATLO_FAULT,
   SFY_BLKSTATLO_WARN, SFY_BLKSTATLO_IGNCNT, SFY_BLKSTATLO_LASTWR, SFY_BLKSTATHI_WRCNT]
/-- The fields of the DIO block. -/
def fieldsDio : List Fld :=
  [DIO_STAT_VSLIM, DIO_STAT_FSA, DIO_STAT_FSB, DIO_STAT_OVLCNT,
   DIO_CHSEL_CH, DIO_CHCFG_MODE, DIO_CHCFG_FILT, DIO_CHCFG_EDGE,
   DIO_CHCFG_COUNT, DIO_CHCFG_OPENEN, DIO_CHSTAT_VALUE, DIO_CHSTAT_WIREBRK,
   DIO_CHSTAT_OVL, DIO_CHSTAT_THERM, DIO_CHSTAT_OPENLD, DIO_CHSTAT_EXTFEED,
   DIO_CHSTAT_TESTFAIL, DIO_CHSTAT_UNHEALTHY, DIO_CHSTAT_CURRENT, DIO_EDGEHEAD_HEAD,
   DIO_EDGEHEAD_LOST, DIO_EDGETAIL_TAIL, DIO_BLKID_BLOCK, DIO_BLKID_VER,
   DIO_BLKSTATLO_READY, DIO_BLKSTATLO_FAULT, DIO_BLKSTATLO_WARN, DIO_BLKSTATLO_IGNCNT,
   DIO_BLKSTATLO_LASTWR, DIO_BLKSTATHI_WRCNT]
/-- The fields of the AIO block. -/
def fieldsAio : List Fld :=
  [AIO_STAT_THERMLIM, AIO_STAT_TEMP, AIO_CHSEL_CH, AIO_AICFG_RANGE,
   AIO_AICFG_LSON, AIO_AICFG_CHAR, AIO_AICFG_HART, AIO_AICFG_MULTIDROP,
   AIO_AICFG_VMIN, AIO_AICFG_RLOOP, AIO_AICFG_TAU, AIO_AISTAT_LIMIT,
   AIO_AISTAT_BAD, AIO_AISTAT_LSLIM, AIO_AISTAT_LSOFF, AIO_AISTAT_LSV,
   AIO_AISTAT_CUR, AIO_AOCFG_RANGE, AIO_AOCFG_RBSAFE, AIO_AOSTAT_RBFAIL,
   AIO_AOSTAT_OPENLP, AIO_AOSTAT_COMPL, AIO_AOSTAT_RBCUR, AIO_HARTSTAT_DEVSTAT,
   AIO_HARTSTAT_DEVICES, AIO_HARTSTAT_NOANS, AIO_BLKID_BLOCK, AIO_BLKID_VER,
   AIO_BLKSTATLO_READY, AIO_BLKSTATLO_FAULT, AIO_BLKSTATLO_WARN, AIO_BLKSTATLO_IGNCNT,
   AIO_BLKSTATLO_LASTWR, AIO_BLKSTATHI_WRCNT]
/-- The fields of the ADC block. -/
def fieldsAdc : List Fld :=
  [ADC_CTL_SEQLEN, ADC_CTL_URGLEAD, ADC_CTL_TESTIVL, ADC_STAT_ROUND,
   ADC_STAT_TESTRUN, ADC_STAT_URGPEND, ADC_STAT_ENTRY, ADC_STAT_TESTFAIL,
   ADC_SEQSEL_ENT, ADC_SEQENT_SRC, ADC_SEQENT_OVS, ADC_SEQENT_SETTLE,
   ADC_URGENT_SRC, ADC_URGENT_OVS, ADC_URGENT_GO, ADC_URGENT_DONE,
   ADC_URGRES_CODE, ADC_BLKID_BLOCK, ADC_BLKID_VER, ADC_BLKSTATLO_READY,
   ADC_BLKSTATLO_FAULT, ADC_BLKSTATLO_WARN, ADC_BLKSTATLO_IGNCNT, ADC_BLKSTATLO_LASTWR,
   ADC_BLKSTATHI_WRCNT]
/-- The fields of the CAN block. -/
def fieldsCan : List Fld :=
  [CAN_PORTSEL_PORT, CAN_PORTCFG_MODE, CAN_PORTCFG_ONESHOT, CAN_PORTCFG_FDEN,
   CAN_PORTCFG_BOFFREC, CAN_PORTCFG_BOFFDLY, CAN_NBT_BRP, CAN_NBT_TSEG1,
   CAN_NBT_TSEG2, CAN_NBT_SJW, CAN_DBT_BRP, CAN_DBT_TSEG1,
   CAN_DBT_TSEG2, CAN_DBT_SJW, CAN_DBT_TDC, CAN_DBT_TDCO,
   CAN_ERRSTAT_STATE, CAN_ERRSTAT_LEC, CAN_ERRSTAT_ALBIT, CAN_ERRSTAT_TEC,
   CAN_ERRSTAT_REC, CAN_CNT_RXLOST, CAN_CNT_REPLCNT, CAN_CNT_ONESHOTFAIL,
   CAN_CNT_OWNCNT, CAN_RXTAIL_TAIL, CAN_CMD_CMD, CAN_BLKID_BLOCK,
   CAN_BLKID_VER, CAN_BLKSTATLO_READY, CAN_BLKSTATLO_FAULT, CAN_BLKSTATLO_WARN,
   CAN_BLKSTATLO_IGNCNT, CAN_BLKSTATLO_LASTWR, CAN_BLKSTATHI_WRCNT]
/-- The fields of the ARC block. -/
def fieldsArc : List Fld :=
  [ARC_STAT_READY, ARC_STAT_OVERBUDGET, ARC_STAT_STRETCH, ARC_STAT_HOT,
   ARC_STAT_CREDIT, ARC_STAT_ALLOW, ARC_WEAR_USED, ARC_NEARCFG_GIB,
   ARC_NEARSTAT_SPAN, ARC_LOGSEL_LOG, ARC_HEADLO_SEQ, ARC_HEADHI_SEQ,
   ARC_TAILLO_SEQ, ARC_TAILHI_SEQ, ARC_CURLO_S, ARC_CURHI_S,
   ARC_CURSTAT_READY, ARC_CURSTAT_GAP, ARC_CURSTAT_NONE, ARC_CURSTAT_NEXT,
   ARC_FOUNDLO_S, ARC_FOUNDHI_S, ARC_CLRLO_S, ARC_CLRHI_S,
   ARC_CLRCMD_CMD, ARC_CLRCMD_SAFE, ARC_BLKID_BLOCK, ARC_BLKID_VER,
   ARC_BLKSTATLO_READY, ARC_BLKSTATLO_FAULT, ARC_BLKSTATLO_WARN, ARC_BLKSTATLO_IGNCNT,
   ARC_BLKSTATLO_LASTWR, ARC_BLKSTATHI_WRCNT]
/-- The fields of the BOT block. -/
def fieldsBot : List Fld :=
  [BOT_STAT_STEP, BOT_STAT_ACTSLOT, BOT_STAT_PROBATION, BOT_STAT_FALLBACK,
   BOT_STAT_WARMOK, BOT_STAT_WINLEFT, BOT_RSTCAUSE_CAUSE, BOT_RSTCAUSE_LWCAUSE,
   BOT_RSTCAUSE_RSTCNT, BOT_CFG_STARTMODE, BOT_CFG_AUTOCONF, BOT_CFG_CONFMIN,
   BOT_CFG_HEALTHWIN, BOT_CFG_AUTORST, BOT_CFG_TIMEWAIT, BOT_CMD_CMD,
   BOT_SLOTSTAT_STATEA, BOT_SLOTSTAT_STATEB, BOT_SLOTSTAT_CFGFMT, BOT_SLOTSTAT_FMTPAIR,
   BOT_FUSESTAT_IDMARG, BOT_FUSESTAT_CFGMARG, BOT_FUSESTAT_NEWMARG, BOT_FUSESTAT_MARGCNT,
   BOT_SVN_KERBSVN, BOT_SVN_MODSVN, BOT_SVN_SLOTSVN, BOT_UPDCTL_CMD,
   BOT_UPOFF_OFF, BOT_UPCRC_CRC, BOT_UPLEN_LEN, BOT_UPDSTAT_RESULT,
   BOT_UPDSTAT_OPEN, BOT_UPDSTAT_CHUNKS, BOT_BLKID_BLOCK, BOT_BLKID_VER,
   BOT_BLKSTATLO_READY, BOT_BLKSTATLO_FAULT, BOT_BLKSTATLO_WARN, BOT_BLKSTATLO_IGNCNT,
   BOT_BLKSTATLO_LASTWR, BOT_BLKSTATHI_WRCNT]
/-- The fields of the SEC block. -/
def fieldsSec : List Fld :=
  [SEC_PORTSEL_PORT, SEC_PORTCFG_REPLAYWIN, SEC_PORTCFG_SAKLIFE, SEC_PORTSTAT_SECURED,
   SEC_PORTSTAT_REKEYING, SEC_PORTSTAT_EXHAUST, SEC_PORTSTAT_KEYSERVER, SEC_PORTSTAT_REKEYCNT,
   SEC_PORTSTAT_PEERS, SEC_TXPNLO_PN, SEC_TXPNHI_PN, SEC_BLKID_BLOCK,
   SEC_BLKID_VER, SEC_BLKSTATLO_READY, SEC_BLKSTATLO_FAULT, SEC_BLKSTATLO_WARN,
   SEC_BLKSTATLO_IGNCNT, SEC_BLKSTATLO_LASTWR, SEC_BLKSTATHI_WRCNT]
/-- Every field of a block (R487), by block number. -/
def fieldsOf (b : Nat) : List Fld :=
  match b with
  | 0 => fieldsKrb
  | 1 => fieldsPwr
  | 2 => fieldsTim
  | 3 => fieldsSch
  | 4 => fieldsXng
  | 5 => fieldsSpc
  | 6 => fieldsSqr
  | 7 => fieldsAcu
  | 8 => fieldsImv
  | 9 => fieldsPar
  | 10 => fieldsHqe
  | 11 => fieldsPne
  | 12 => fieldsSfy
  | 13 => fieldsDio
  | 14 => fieldsAio
  | 15 => fieldsAdc
  | 16 => fieldsCan
  | 17 => fieldsArc
  | 18 => fieldsBot
  | 19 => fieldsSec
  | _ => []
/-- The fields of the register at an offset. -/
def fieldsAt (off : Nat) : List Fld := (fieldsOf (off / 0x10000)).filter (fun f => f.off = off)

end Sys2Proof.Machine
end

