-- ==== Sys2Proof/Machine/State.lean ====
section
/-! DEFINITION. The state of one CFM-9600 as plain data, and the state right after reset. Each structure names the chapter and rules of
spec/ that give the machine its fields; INVENTORY.md lists every one with its reset value. -/
namespace Sys2Proof.Machine

/-- Why the machine stops. No command of this model stops the machine: an FLX exception, a lane fault, a Kerb decision and a refused
command are all next states by the spec. The one name below is raised by no meaning. -/
inductive Fault where
  /-- Raised by no meaning; it stands for a device the spec does not describe. Safe: it allows nothing. -/
  | unknownDevice
deriving DecidableEq, Repr

/-- Why a command has no meaning. -/
inductive Refusal where
  /-- The command of this mnemonic has no meaning yet: raised by its arm in Dispatch.lean. Safe: nothing is claimed of it. -/
  | notModelled (mnemonic : String)
deriving DecidableEq, Repr

/-! ### What leaves the module, and writes that wait -/

/-- Where something goes that the module emits. -/
inductive OutCh where
  | station | witness | peer | boulevard | host | mgmt | canBus | lines | outputs | display | fsl | ptp
deriving DecidableEq, Repr

/-- One thing the module has emitted: the channel, what it is (numbered by the spec's own table where it has one), its numbers and its
bytes. The list of them is the model's own record of what an observer outside sees; no rule reads it. -/
structure Out where
  ch : OutCh
  what : Nat
  args : List Nat
  data : List Byte
deriving DecidableEq, Repr

/-- When a written value takes effect (R57, R115, R140, R190, R379, …): at a base tick, at the task's next START or release, at the
next sample tick or scan of the analogue block, at an ACU barrier, at a port's next SAK, or at a restart. -/
inductive When where
  | baseTick | taskStart (t : Nat) | taskRelease (t : Nat) | sample | adcRound | barrier | nextSak (p : Nat) | restart
deriving DecidableEq, Repr

/-- A value written and not yet in force: a read returns it (R57, R489). `frm` is the base tick from which it may take effect; none: not before the
packet that carries it to the Follower has left (R57). -/
structure Due where
  wh : When
  key : Nat
  val : Nat
  frm : Option Nat
deriving DecidableEq, Repr

/-! ### Streams and cycles (02, 03, 04, 05, 06) -/

/-- One entry of the nesting stack (Table 3-1, R72): the saved LA, the operation (1 AND, 2 OR, 3 XOR) and the negate bit. -/
structure NsEnt where
  la : Bool
  op : Nat
  neg : Bool
deriving DecidableEq, Repr

/-- One active hardware loop level (R90). -/
structure LoopLv where
  first : Nat
  last : Nat
  cnt : Nat
  cd : Nat
deriving DecidableEq, Repr

/-- The kind of a delayed branch. -/
inductive BrKind where
  | jmp | call | ret
deriving DecidableEq, Repr

/-- A branch whose delay slot is next (R86, R102): the address of its first word, whether it is taken, its target and its kind. -/
structure Branch where
  addr : Nat
  taken : Bool
  target : Nat
  kind : BrKind
deriving DecidableEq, Repr

/-- A MODESET shadow in progress (R94): the new MODE, and how many shadow positions are still to execute (2 or 1). -/
structure Shadow where
  pend : BitVec 4
  left : Nat
deriving DecidableEq, Repr

/-- The form in which the shadow copy holds a value (R143): the complement of integers, BOOL, TIME and addresses; an F32 value with bit 31
inverted and bits [63:32] complemented; an F64 value negated. -/
inductive Dom where
  | compl | f32 | f64
deriving DecidableEq, Repr

/-- The shadow copy of a stream's registers in transformed form, each word register with the domain tag that names its form (R143). -/
structure Shad where
  la : Bool
  wa : W64
  wb : W64
  w : List W64
  ns : List NsEnt
  fl : BitVec 8
  da : Dom
  db : Dom
  dw : List Dom
deriving DecidableEq, Repr

/-- Where a stream stands in its cycle: executing, waiting at a SYNC (R84), or past END. -/
inductive StSt where
  | go | sync | ended
deriving DecidableEq, Repr

/-- One stream: the registers of Table 3-1, the loop levels and call depth of chapter 04, the scratch window (R60), the stores it has
made since the last SYNC (R84), the lane it holds, the shadow copy of its registers (R143), and whether a stop has been demanded since its
latest retirement, so that a live read may be in flight (R96). Every register starts a cycle at the value of Table 3-1. -/
structure StreamRt where
  la : Bool
  wa : W64
  wb : W64
  w : List W64
  ns : List NsEnt
  fl : BitVec 8
  mode : BitVec 4
  pc : Nat
  lvs : List LoopLv
  depth : Nat
  br : Option Branch
  sh : Option Shadow
  scr : Tab Byte
  own : Ovl
  lane : Option Nat
  st : StSt
  shad : Shad
  flying : Bool
deriving DecidableEq, Repr

/-- What an exception hands over (R97 to R105): its code, DETAIL, ADDR and TRAPCODE. -/
structure Xcp where
  code : Nat
  detail : Nat
  addr : Nat
  trap : Nat
deriving DecidableEq, Repr

/-- An exception that is held (R130, R134): the exception, its stream, the bytes of its instruction, and the address of a TRAP that has
retired. -/
structure HeldX where
  x : Xcp
  k : Nat
  size : Nat
  trap : Option Nat
deriving DecidableEq, Repr

/-- What a refused access or a walk fault of a speculative run will latch if the run is confirmed (R133, R134). -/
inductive Latch where
  | refusal (a master : Nat) (write : Bool)
  | walk (reason tag : Nat)
deriving DecidableEq, Repr

/-- One effect a cycle has at its commit (R83). -/
inductive CommitFx where
  | setev (t : Nat)
  | diag (code pc : Nat)
  | object (kind obj : Nat) (data : List Byte)
deriving DecidableEq, Repr

/-- Where a cycle stands: waiting for its streams' lanes, on lanes, stopped by an exception (R100), or with every stream at END. -/
inductive RunSt where
  | ready | on | xcp | ended
deriving DecidableEq, Repr

/-- One execution of a task (R29, R30, R33, R121): the grid tick it stands for, its release tick, its base CSN and the state space as
that CSN left it, its captured image with the host batches applied, the stores seen by all its streams, its streams and the effects
it has at commit. In a speculative run `reads` is the read set (R124), `words` its entries,
the latest first (R125), `gens` the generation set (R127) and `latch` what its held exception latches (R133). `store` is the program store it
runs (R242). `abandoned`: a speculative run or an audit is abandoned; in a real run that waits for a decision, a second lane fault has ended it
(R135, R152). -/
structure Run where
  task : Nat
  store : Nat
  ctx : Ctx
  st : RunSt
  grid : Nat
  rel : Nat
  dfr : Bool
  started : Bool
  baseCsn : Nat
  base : Tab Byte
  basePoison : List Nat
  img : Ovl
  batches : List Nat
  shared : Ovl
  streams : List StreamRt
  fx : List CommitFx
  late : Bool
  deliv : Nat
  rerun : Bool
  acts : Nat
  xcp : Option (Xcp × Nat)
  reads : Tab (Byte × Bool)
  words : List Nat
  gens : List Nat
  abandoned : Bool
  invalid : Bool
  held : Option HeldX
  pages : List Nat
  latch : Option Latch
deriving DecidableEq, Repr

/-- An activation, cancellation, START or STOP taken into a base tick, or a call of the error task by a report (R41, R42): its stamp, the scheduler's sequence number, what it asks,
the path it came by if it came by one, and the event source otherwise. -/
inductive TickAsk where
  | activate | cancel | start | stop | call
deriving DecidableEq, Repr

/-- One entry of the tick's batch (R42). -/
structure TickCmd where
  task : Nat
  stamp : Nat
  seq : Nat
  ask : TickAsk
  path : Option Path
deriving DecidableEq, Repr

/-- What one task keeps between its cycles. -/
structure TaskRt where
  /-- The release still owed: the grid tick it stands for and the first base tick at which it may take place (R37, R38). -/
  owed : Option (Nat × Nat)
  /-- The grid tick and the release tick of the latest release. -/
  lastG : Nat
  lastR : Nat
  released : Bool
  /-- Activations pending (R44). -/
  acts : Nat
  /-- The activation count, started STOP, and the sequence number of its latest exception record (XSEQ). -/
  stopping : Bool
  xseq : Nat
  /-- The cycle has committed since the latest release (R117), and how many commits must follow before the task may speculate again: two after a
  switch-over (R135). -/
  lastOk : Bool
  specBar : Nat
  /-- The base tick in which the latest cycle ended: the next release is at a later one (R37, R41). -/
  endTick : Option Nat
  /-- The held task's run resumes on its grid (R47): no release before this tick counts as skipped. -/
  heldOver : Bool
  /-- Outcomes of the last runs that count for R139 (true: confirmed), latest first, and releases left in suspension. -/
  window : List Bool
  susp : Nat
  /-- The input image of the last committed cycle (R118), as an overlay. -/
  lastImg : Ovl
  /-- OUTMODE 1: an output image committed and not yet driven (R36). -/
  outDue : Bool
  /-- Releases so far: every 16th of an event task is audited (R202). -/
  rels : Nat
deriving DecidableEq, Repr

/-- A cached tag entry of a translation cache (R178): the tag and its 16 bytes as two words. -/
structure TtcEnt where
  tag : Nat
  w0 : Nat
  w1 : Nat
deriving DecidableEq, Repr

/-- One lane (R8, R153 to R159): self-test and quarantine state beside its registers. `faults` are the times, in ns, of its transient faults;
`testAt` is the time of its last complete self-test; `testing`: the full self-test of its quarantine runs; `cmdTest`: a TEST command waits or runs, and
`full`: its full self-test runs (R162); `subst`: a reserve lane dispatched for a quarantined one; `lastFault`: the time of its latest lane fault; `promote`:
a reserve lane that becomes assignable at the next base tick outside a step; `reserve`: a quarantined lane that came from the reserve and returns to
it (R156); `injItem`, `injBit` and `injAt`: the item and the bit position of the next injection, and the time of the latest one (R159); `step`: steps of
the rotating self-test done. -/
structure LaneRt where
  ttc : Tab (List TtcEnt)
  faults : List Nat
  testAt : Nat
  testing : Bool
  cmdTest : Bool
  subst : Bool
  injItem : Nat
  comparator : Bool
  lastFault : Option Nat
  promote : Bool
  reserve : Bool
  step : Nat
  full : Bool
  injBit : Nat
  injAt : Nat
deriving DecidableEq, Repr

/-- The scheduler (02): the task table, the executions by `Ctx.key`, the batch of the running base tick, the mode requests of the tick
as (mode, locked by SAFETY-EDIT when written, path), the accepted ones as (mode, effect tick), the progress of the init tasks (R47), the held values of
signals with a deadband and what has been captured at the present tick, as value and status per signal (R119, R31), and the ring
tails written by set-up and due at the next base tick as (address, value) (R310), and the dispositions written by set-up that wait as (task,
XSEQ, RESUME) with the base tick from which they take effect, none before the packet that carries them has left (R115). -/
structure Sched where
  tasks : Tab TaskRt
  runs : Tab Run
  batch : List TickCmd
  seq : Nat
  modeReqs : List (Nat × Bool × Option Path)
  accepted : List (Nat × Nat)
  inits : List Nat
  initDone : Bool
  forces : Tab (W64 × Nat)
  held : Tab (Nat × Nat)
  caps : Tab (Nat × Nat)
  tails : List (Nat × Nat)
  disps : List ((Nat × Nat × Bool) × Option Nat)
deriving DecidableEq, Repr

/-! ### The Square (07) -/

/-- One snapshot (R173): the versions current just after the flip of its CSN, the time of the flip, the units poisoned in it, the forces then
set (R50), how many page versions the flip superseded, and the pages it gave a new version. -/
structure Snap where
  csn : Nat
  time : Nat
  mem : Tab Byte
  poison : List Nat
  forces : Tab (W64 × Nat)
  frames : Nat
  pages : List Nat
deriving DecidableEq, Repr

/-- A translation-cache invalidation in progress (R181): the range, or every tag. -/
structure Inval where
  first : Nat
  last : Nat
  all : Bool
deriving DecidableEq, Repr

/-- The Square: state space and program stores by Square address, the CSN, the snapshot ring with the newest snapshot first, poisoned
units, the host translation cache, the edits, invalidations and barriers that wait for a base tick, each with that tick once the packet that
carries it has left (R182, R188), generations (R127), errors of units and of page-map entries that no read has met yet (R165, R170), rows with
correctable errors, rows being spared, the row map and the last scrub; and the state space, its CSN and its poisoned units as the present
base tick found them, which is what a cycle released in it reads (R33). -/
structure Square where
  mem : Tab Byte
  code : Tab Byte
  csn : Nat
  snaps : List Snap
  poison : List Nat
  host : Tab TtcEnt
  inval : List Inval
  edits : List (SetupItem × Option Nat)
  tagGen : Nat
  acuGen : Nat
  actCount : Nat
  acuBusy : Bool
  cells : List (Nat × Nat × List (Fin 36))
  mapErrs : List (Nat × Nat × Nat)
  ceRows : List (Nat × Nat × Nat)
  sparing : List (Nat × Nat)
  rowMap : Tab Nat
  scrubbed : Nat
  scrubStart : Nat
  tickMem : Tab Byte
  tickCsn : Nat
  tickPoison : List Nat
deriving DecidableEq, Repr

/-- A set-up channel's descriptor in progress (R411, R414, R416): the state space and the poisoned units as the run in progress reads them, their
CSN, and whether a boundary stop is demanded. -/
structure MovRt where
  csn : Nat
  mem : Tab Byte
  poison : List Nat
  halt : Bool
deriving DecidableEq, Repr


/-! ### The Arcade's records and the report windows (16, 09) -/

/-- One record of Table 16-5, its fields apart; its bytes are formed when it is read. `prog`: it is programmed to flash (R424). -/
structure ArcRec where
  kind : Nat
  flags : Nat
  seat : Nat
  seq : Nat
  csn : Nat
  time : Nat
  task : Nat
  epoch : Nat
  payload : List Byte
  prog : Bool
deriving DecidableEq, Repr

/-- One window of the report coalescing (R249, Table 9-10), open or closed. `recDue`: its opening record is written at the end of the
base tick in which it opened. `slot`: its entry of ERRSUBJ (R250). -/
structure Win where
  kind : Nat
  obj : Nat
  isOpen : Bool
  summary : Bool
  count : Nat
  first : Nat
  last : Nat
  recSeq : Nat
  reps : List (Nat × Nat × Nat)
  recDue : Bool
  slot : Nat
deriving DecidableEq, Repr

/-- One sample as HISTSAMPLES and a delta block hold it (Table 16-6, R421). -/
structure Samp where
  tag : Nat
  status : Nat
  ty : Nat
  value : Nat
deriving DecidableEq, Repr

/-- One delta block of the near history (R421). -/
structure NearBlk where
  csn : Nat
  time : Nat
  entries : List Samp
deriving DecidableEq, Repr

/-- The Arcade (R418, R421, R425): the cycle log and the event log, oldest first, and their next sequence numbers; the retained area,
staged per commit and as programmed; the near history; the last recorded sample of each tag with its time; the write credit in bytes and
the time it was last reckoned; the copy each access path's cursor shows, and the log a copy in progress is of; and the bytes drawn from the join allowance (R426). -/
structure Arcade where
  cyc : List ArcRec
  evs : List ArcRec
  cycSeq : Nat
  evSeq : Nat
  retStaged : List (Nat × Ovl)
  ret : Ovl
  retCsn : Nat
  retGen : Option Nat
  near : List NearBlk
  lastSamp : Tab (Samp × Nat)
  credit : Int
  creditAt : Nat
  wins : Tab (List Byte)
  curAsk : Tab Nat
  joinUsed : Nat
deriving DecidableEq, Repr

/-! ### Field I/O and safety functions (12, 13) -/

/-- An off-pulse in progress (R332): its start and end, the consecutive low readbacks, and whether two in a row have been seen. -/
structure OffPulse where
  start : Nat
  stop : Nat
  low : Nat
  passed : Bool
deriving DecidableEq, Repr

/-- One universal channel beside its registers (R353 to R360, R332 to R334): the integrator, the raw level, consecutive wire-break
readings, the edge counter, consecutive high readbacks and low-load ticks, the off-pulse, the end of the last one, a failed off-pulse
test, a stuck readback, and the junction's temperature class. -/
structure DioCh where
  c : Nat
  raw : Bool
  wb : Nat
  count : Nat
  ext : Nat
  light : Nat
  pulse : Option OffPulse
  pulseEnd : Nat
  failed : Bool
  stuck : Bool
  hot : Bool
deriving DecidableEq, Repr

/-- One analogue input (R361, R362): the latest sample, the filtered current, both in 0.1 µA, the time of the latest sample, and the loop
supply voltage in 0.1 µV. -/
structure AiCh where
  x : Nat
  y : Nat
  time : Nat
  have_ : Bool
  vls : Nat
deriving DecidableEq, Repr

/-- One analogue output (R368 to R370): the committed F32 value, the commanded current in 0.1 µA as a fraction, the time of its last
change, the latest readback, and the runs of readbacks with and without each condition. -/
structure AoCh where
  val : Nat
  num : Int
  den : Nat
  changed : Nat
  rb : Nat
  overload : Nat
  opn : Nat
  opnOff : Nat
  com : Nat
  comOff : Nat
deriving DecidableEq, Repr

/-- One HART device (R366): unanswered attempts in a row, a malfunction shown, its variables with their bad marks, and a transaction in
progress. -/
structure HartDev where
  miss : Nat
  malf : Bool
  vars : List (Nat × Bool)
  busy : Bool
  ever : Bool
deriving DecidableEq, Repr

/-- One safety function (R329, R336 to R339): the discrepancy counter, RES, whether the owner has captured RES since it fell, when the
function became DEGRADED, since when the bad channel is healthy, and whether it has passed an off-pulse test since. -/
structure FnRt where
  d : Nat
  res : Bool
  seen : Bool
  since : Option Nat
  healthy : Option Nat
  passed : Bool
deriving DecidableEq, Repr

/-- The receiving side of an FSL connection (R322 to R325): the last CN, the time of the last watchdog restart, consecutive full
acceptances while PASSIVE, REINT being sent, and the data taken. -/
structure ConnRt where
  last : Nat
  restart : Nat
  run : Nat
  reint : Bool
  data : List Byte
deriving DecidableEq, Repr

/-- One key switch as the Kerb reads it (R343, R494): consecutive samples in which its contacts agree on the edit or enable position, and
consecutive samples in which they disagree. -/
structure KeySw where
  run : Nat
  dis : Nat
deriving DecidableEq, Repr

/-- The field I/O block and the safety functions: channels, the sequencer (latest code per entry and per source, the round's start, urgent
requests as (source, OVS, by set-up), failed self-tests in a row), the readback converter, HART, functions and connections, what stations,
peers, CAN frames and the partner seat delivered per signal, the arrival of the latest SEATSAMPLE, the Kerb's safe-state drivers (R20),
whether the outputs are held at their safe values by the module's state
(R201), the two key switches, and the time until which the display shows the safety signature (R345). -/
structure FieldIo where
  dio : Tab DioCh
  edgeSeq : Nat
  ai : Tab AiCh
  ao : Tab AoCh
  codes : Tab Nat
  srcs : Tab Nat
  roundAt : Nat
  urgent : List (Nat × Nat × Bool)
  adcFails : Nat
  rbFails : Nat
  hart : Tab HartDev
  looped : Tab Nat
  fns : Tab FnRt
  conns : Tab ConnRt
  inbox : Tab (Nat × Nat)
  seatAt : Nat
  safe : Bool
  hold : Bool
  badDrivers : List Nat
  keyS : KeySw
  keyU : KeySw
  sigUntil : Nat
deriving DecidableEq, Repr

/-! ### CAN FD ports (14) -/

/-- A mapped transmit slot (R383): its content (identifier, flags, data), whether it is being transmitted, the content that waits, and the
data of the latest commit. -/
structure CanSlot where
  content : Option (Nat × Nat × List Byte)
  busy : Bool
  next : Option (Nat × Nat × List Byte)
  latest : List Byte
  commits : Nat
deriving DecidableEq, Repr

/-- One owned entry of CANTX (R385, R386): the entry, the CSN of its hand-over, its identifier, flags and data. -/
structure CanQEnt where
  entry : Nat
  csn : Nat
  id : Nat
  flags : Nat
  data : List Byte
deriving DecidableEq, Repr

/-- One port (R380 to R391): slots by mapping number, the queue, the receive ring's head and sequence number, the live counters, the time
of each receive mapping's latest frame, TEC and REC in full, and a bus-off recovery that waits for its recessive bits. -/
structure CanPort where
  slots : Tab CanSlot
  queue : List CanQEnt
  head : Nat
  seq : Nat
  rxN : Nat
  txN : Nat
  rx : Tab Nat
  tec : Nat
  rec_ : Nat
  waiting : Bool
deriving DecidableEq, Repr

/-! ### The pair (08) -/

/-- One packet a Lead has sent and whose ACK it waits for, or has (R199): its CSN, 0 of a TICK packet; the grid tick it stands for; whether that is
one of the fastest task (R198, R206); and whether the ACK has come. -/
structure SentPkt where
  csn : Nat
  tick : Nat
  std : Bool
  acked : Bool
deriving DecidableEq, Repr

/-- An audit to run or running on the Follower (R203): the packet's hashes and the release tick it belongs to. -/
structure AuditRt where
  task : Nat
  csn : Nat
  baseCsn : Nat
  rel : Nat
  grid : Nat
  ohash : Nat
  chash : Nat
  img : Ovl
  suppl : Ovl
deriving DecidableEq, Repr

/-- Pair operation (R191 to R224): the highest epoch stations reported, the latest HELLO with its time, the epoch asked of the witnesses with
the grants and refusals, who reported the own epoch when, the number of the next commit where a rule sets it, the announced switch tick, the
applied HANDOVER, consecutive missing packets, the grid tick of the latest packet, the last applied CSN, packets sent and not yet
acknowledged, set-up items to carry, packets queued behind a bulk transfer, the join base, the tasks being resynchronised, audits, times of
AUDMISS, void CSN ranges, packet and image counts, the epochs and PKTSEQ of packets taken of late (R196), the last-role record, when the module took the Lead, when the last packet was applied, and
whether a partner declared lost did so without FENCE; commands that wait for the base tick; the greatest SEQ up to which back-fill is missing; what
the module wrote into the rings of its seat since its latest SEATSAMPLE; the latest grid tick whose packet is missing; whether it is the old Lead
of a switch-over; bytes of a bulk transfer left and in all; the carried bytes applied since a resynchronisation began; the greatest grid tick of the
fastest task for which a packet has left (R198); the arrival of the latest packet, or on the Lead of the latest ACK of a packet for such a grid tick
(R205, R206); BULK payloads that wait to be sent (R204, R220); the SEQ below which records of the cycle log and of the event log are still to be
copied by the back-fill, and the bytes it may send (R221); the path of a SWITCH written on this Follower that the Lead has not answered, and that one is to
be told (R218); set-up items of TICK packets taken in JOIN; the end of a resynchronisation's transfer taken; and poisoned units that
an audit met, to be fetched again (Table 8-4). -/
structure PairRt where
  heMax : Nat
  partner : Option Hello
  helloAt : Nat
  startAt : Nat
  grantFor : Nat
  grants : List Nat
  assent : Tab Nat
  nextCsn : Option Nat
  switchAt : Option Nat
  handed : Option Nat
  missRun : Nat
  lastTick : Nat
  applied : Nat
  appliedAt : Nat
  sent : List SentPkt
  setup : List SetupItem
  queued : List CyclePkt
  joinBase : Option Nat
  bulkDone : Bool
  resync : List Nat
  resyncAll : Bool
  audits : List AuditRt
  missAt : List Nat
  voids : List (Nat × Nat)
  pktSeq : Nat
  imgSent : Tab Nat
  lastLead : Bool
  lastEpoch : Nat
  tookAt : Nat
  lostUnfenced : Bool
  cmds : List (Nat × Path)
  pktSeen : List (Nat × Nat)
  backfillLow : Nat
  firstCommit : Bool
  marked : Tab Nat
  seatRing : List (Nat × List Byte)
  missing : Nat
  oldLead : Bool
  bulkLeft : Nat
  bulkAll : Nat
  since : Ovl
  gSent : Nat
  heardAt : Nat
  bulkOut : List (List Byte)
  bfCyc : Nat
  bfEv : Nat
  bfDebt : Nat
  heldSetup : List (Nat × SetupItem)
  swPath : Option Path
  swRefused : Bool
  resyncEnd : Bool
  fetch : List Nat
deriving DecidableEq, Repr

/-! ### Plant links, stations and time (11) -/

/-- One station as the module keeps it (R294, R295, R244): frames in a row on time while DROPPED, CONFIG attempts, the DROPPED flag of its
latest frame and when that was counted, the mode it must report, the change's number, whether MODEWAIT has run out, the arrival and the sample
instant of its latest frame, whether the missed change was a reset, when it was missed and when its command was sent last. -/
structure StaRt where
  onTime : Nat
  tries : Nat
  flagDropped : Bool
  flagAt : Option Nat
  expect : Nat
  change : Nat
  badMode : Bool
  arrived : Nat
  instant : Nat
  isReset : Bool
  missedAt : Nat
  sentAt : Option Nat
deriving DecidableEq, Repr

/-- One PTP domain's servo (R302): consecutive good Sync intervals, the offset in ns, and the time of the lock. -/
structure DomRt where
  good : Nat
  offset : Int
  lockedAt : Nat
  announced : Nat
  master : Nat
deriving DecidableEq, Repr

/-- A pulse output's train (R306): its settings as armed and pulses left to send; `stopping`: after the pulse in progress. -/
structure PulseRt where
  start : Nat
  period : Nat
  width : Nat
  pol : Bool
  count : Nat
  stopping : Bool
deriving DecidableEq, Repr

/-- An open measurement (R308): start stamp and sequence number, and whether it replaced an earlier one. -/
structure MeasRt where
  stamp : Nat
  seq : Nat
  replaced : Bool
deriving DecidableEq, Repr

/-- A cut in progress (R233 to R235, R272): its operation number, which is the cut ID, its instant, the descriptor that asked for it, its
participant set, its signals, the time by which it closes, the values and statuses entered so far, whether its instant has passed, and whether it is
the partner's, held so that it can be closed after a takeover (R251). -/
structure CutRt where
  op : Nat
  at_ : Nat
  sess : Nat
  qp : Nat
  d : HostDesc
  set : Nat
  sigs : List Nat
  deadline : Nat
  got : Tab (Nat × Nat)
  taken : Bool
  mirrored : Bool
deriving DecidableEq, Repr

/-- A scheduled station mode change, or a reset of all stations (R234, R244): its operation number, whether it is a reset, the new mode and its
instant. -/
structure ChangeRt where
  op : Nat
  reset : Bool
  mode : Nat
  at_ : Nat
deriving DecidableEq, Repr

/-- The plant side: stations, producers' HE and the time of each consumed data set, FSP sequence numbers per type, the sequence numbers
received of late by sender and type (R288), PTP domains, a change of domain announced for a tick (R304), whether the clock has been stepped
(R300), pulse trains, the capture inputs, cuts, station mode changes and the next number of either, the last OUTPUT frames per task (station, CYCLE, payload), and the
grid tick of the latest OUTPUT frame per station (R297). -/
structure Plant where
  stas : Tab StaRt
  prodHe : Tab Nat
  peerAt : Tab Nat
  fspSeq : Tab Nat
  seen : Tab (List Nat)
  doms : Tab DomRt
  domAt : Option (Nat × Nat)
  stepped : Bool
  pulses : Tab PulseRt
  capSeq : Nat
  meas : Option MeasRt
  cuts : List CutRt
  changes : List ChangeRt
  opSeq : Nat
  lastOut : Tab (List (Nat × Nat × List Byte))
  outAt : Tab Nat
deriving DecidableEq, Repr


/-! ### The host interface (10, 09) -/

/-- A descriptor that waits (R265, R273, R275): a read for a CSN or for durability, or a LOCK for its next group; the order of the request, the
groups left, those already granted to it, and whether one was broken. -/
inductive WaitFor where
  | read (n : Nat) (raw durable : Bool)
  | lock (ord : Nat) (left granted : List Nat) (broken : Bool)
deriving DecidableEq, Repr

/-- A fetched descriptor that has started and not completed, and when it started to wait. -/
structure WaitDesc where
  d : HostDesc
  w : WaitFor
  since : Nat
deriving DecidableEq, Repr

/-- A completion that waits for room in its ring, with the result data written before it (R261), the host address it goes to and its remote key. -/
structure Compl where
  status : Nat
  flags : Nat
  opcode : Nat
  reqid : Nat
  csn : Nat
  len : Nat
  detail : Nat
  data : List Byte
  sub : Option (Nat × Nat)
  addr : Nat := 0
  key : Nat := 0
deriving DecidableEq, Repr

/-- A queue pair (R258 to R261): ring sizes, SQTAIL, descriptors fetched, CQHEAD, completions written, fetched descriptors that have not
started, descriptors that wait, completions to write, descriptors started and not completed, and the host addresses of its two rings with the remote
key that covers them. -/
structure Qp where
  sqSize : Nat
  cqSize : Nat
  tail : Nat
  fetched : Nat
  head : Nat
  written : Nat
  ready : List HostDesc
  waits : List WaitDesc
  comps : List Compl
  open_ : Nat
  sqBase : Nat
  cqBase : Nat
  rkey : Nat
deriving DecidableEq, Repr

/-- An active subscription (R270), its ring of slots at a host address under a remote key. -/
structure Sub where
  qp : Nat
  reqid : Nat
  task : Nat
  tags : List Nat
  k : Nat
  onChange : Bool
  durable : Bool
  slots : Nat
  count : Nat
  last : List Byte
  next : Nat
  skipped : Nat
  slotComp : Tab Nat
  pend : List (Nat × Nat × List Byte)
  addr : Nat
  key : Nat
deriving DecidableEq, Repr

/-- A session (R254 to R257, R276): its client, link, rights, class, its queue pairs and subscriptions, its declared wake latency, the
time of its last doorbell or descriptor, and, once CLOSE has been given, the count of its queue pair 0's completions up to that of CLOSE. -/
structure Sess where
  cid : Nat
  link : Nat
  rights : Nat
  cls : Nat
  qps : Tab Qp
  subs : List Sub
  latency : Option Nat
  latWait : List (Nat × Nat)
  active : Nat
  closing : Option Nat
deriving DecidableEq, Repr

/-- What a batch's completion is written for: WRITE_NEXT, UNLOCK with commit, FORCE. -/
structure Batch where
  id : Nat
  sess : Nat
  cid : Nat
  qp : Nat
  reqid : Nat
  opcode : Nat
  task : Nat
  gen : Nat
  at_ : Nat
  writes : List (Nat × List Byte)
  forces : List (Nat × Option (Nat × Nat))
  csn : Option Nat
  stamp : Nat
  alone : Bool
deriving DecidableEq, Repr

/-- A lock group (R245 to R247): its holder, the end of its lease, the broken mark, and the writes staged under it with their task. -/
structure LockRt where
  holder : Option Nat
  lease : Nat
  broken : Bool
  staged : List (Nat × List Byte)
deriving DecidableEq, Repr

/-- An identity held for 120 s (R269). -/
structure Ident where
  cid : Nat
  reqid : Nat
  csn : Nat
  at_ : Nat
deriving DecidableEq, Repr

/-- A resubmission that waits for its original (R269, R284): its session, queue pair, client, and descriptor. -/
structure Dup where
  sess : Nat
  qp : Nat
  cid : Nat
  d : HostDesc
deriving DecidableEq, Repr

/-- The Roundabout: sessions by number, batches admitted and not complete in order of admission, lock groups, identities, resubmissions that
wait for their original, and secured ports' keys (R282). -/
structure HostSt where
  sess : Tab Sess
  batches : List Batch
  nextBatch : Nat
  locks : Tab LockRt
  idents : List Ident
  dups : List Dup
  dbKey : Nat
  sakAt : Tab Nat
deriving DecidableEq, Repr

/-! ### The Kerb, power, start and update (01, 17, 18) -/

/-- What the module does as a whole: it passes through a restart's steps (R434), runs, stopped at step 0 with marginal fuses (R438), waits in
RECOVERY (R448), or is in state K (R21). -/
inductive Phase where
  | boot | run | stuck | recovery | off
deriving DecidableEq, Repr

/-- A Kerb set in progress (R20, R22): its cause, and what its last-words record will hold. -/
structure KSet where
  cause : Nat
  time : Nat
  csn : Nat
  epoch : Nat
  role : Nat
  seat : Nat
  hb : Nat
  pstate : Nat
  mains : Nat
  temps : Nat
  clk : Nat
  blocks : List Nat
deriving DecidableEq, Repr

/-- A measurement log entry (Table 17-5). -/
structure Meas where
  layer : Nat
  kind : Nat
  svn : Nat
  version : Nat
  digest : Nat
deriving DecidableEq, Repr

/-- A firmware slot (R447, R448): its state, the bundle, and the chunks programmed by offset. -/
structure Slot where
  st : Nat
  bundle : Option Bundle
  chunks : Tab (List Byte)
deriving DecidableEq, Repr

/-- The activation record in Kerb MRAM (R241, R243): the store, the configuration's generation and the CSN of the commit. -/
structure ActRec where
  store : Nat
  gen : Nat
  csn : Nat
deriving DecidableEq, Repr

/-- The Kerb: the phase and, during a restart, what its steps find; the heartbeats of the running base tick and the base ticks that each
source has missed (R17); when each mains input became absent (R462); the sag and thermal steps (R466, R468), quarters parked in P2 with the time
(R469, R471), a wake in progress and a deeper state that follows at the next base tick (R470), coolant lost (R473); the Kerb set
whose last words are not yet committed, the ring of last-words records, newest last, their number and the newest one's CAUSE (R22, R453); the
two copies of the pair epoch, each with its CRC-32C (R193), the retired-lane map, the seat of the last-role record, PARTNERID, the activation record and the DEGRADED start times in MRAM (R154, R339, R444), the
key area (R446); the fuses that are blown, the marginal ones found at the latest boot and those a later re-read found, the latched words (R435 to R438); the measurement log
and the certificate chain (R439, R441); the slots, the data written to BOT_UPWIN (R448); since when the module has held its
role on probation, the end of the window (R449, R450), a restart that is due with its cause, the configuration kept in the old format
(R451), whether a
rejected slot waits for an orderly switch-over, whether CONFIRM has been given, and the evidence last returned. -/
structure KerbRt where
  phase : Phase
  env : BootEnv
  hb : Nat
  miss : Tab Nat
  mainsOut : Tab Nat
  sag : Nat
  therm : Nat
  p2 : List (Nat × Nat)
  wake : Option Nat
  deeper : Option Nat
  coolGone : Bool
  kset : Option KSet
  lastWords : List (List Byte)
  lwSeq : Nat
  lwCause : Nat
  roleSeat : Option Nat
  epochs : (Nat × Nat) × (Nat × Nat)
  partnerId : Nat
  act : Option ActRec
  degMram : Tab Nat
  keys : List Nat
  fuses : Tab Nat
  marg : List (Nat × Nat)
  margNew : List (Nat × Nat)
  latched : Tab Nat
  meas : List Meas
  chain : List Byte
  slots : Tab Slot
  upWin : Tab Byte
  okSince : Option Nat
  winEnd : Nat
  toRestart : Option Nat
  rejecting : Bool
  confGiven : Bool
  evidence : List Byte
deriving DecidableEq, Repr


/-! ### On-line change and loading (09, R237 to R243) -/

/-- A preparation or change in progress: the chunks written by offset, the chunk window, the checked package, whether it is activated by LOAD, the
announced activation tick, and whether the Follower has checked its copy of the store; the access regions of the old program, under which
cycles released before an activation run on (R242), and, while one instruction of such a cycle runs, the store and the regions to return to; and the period and phase of every task before the activation. -/
structure OlcRt where
  chunks : Tab (List Byte)
  win : Tab Byte
  cand : Option Pkg
  load : Bool
  actAt : Option Nat
  farReady : Bool
  oldAcu : Tab Nat
  back : Option (Nat × Tab Nat)
  oldGrid : Tab (Nat × Nat)
deriving DecidableEq, Repr



/-! ### Access to the set-up window (19) -/

/-- What access paths hold beside their registers: HI partners latched by reads of LO registers (R490), by path × 2²⁴ + offset, and the open
management-port connections with their right, 0 READ and 1 SETUP (R485). -/
structure SetupRt where
  latch : Tab Nat
  conns : Tab Nat
deriving DecidableEq, Repr


/-! ### The machine -/

/-- The state of one CFM-9600. -/
structure State where
  pending : List Instr
  regs : Tab Nat
  due : List Due
  out : List Out
  fresh : Nat
  now : Nat
  tick : Nat
  sq : Square
  sched : Sched
  lanes : Tab LaneRt
  pkgs : Tab Pkg
  arc : Arcade
  wins : List Win
  io : FieldIo
  can : Tab CanPort
  pair : PairRt
  plant : Plant
  host : HostSt
  kerb : KerbRt
  imv : Tab MovRt
  olc : OlcRt
  setup : SetupRt
deriving DecidableEq, Repr

/-- A lane right after reset: caches empty, no fault counted, never tested. -/
def LaneRt.reset : LaneRt := ⟨[], [], 0, false, false, false, 1, false, none, false, false, 0, false, 0, 0⟩

/-- A task that has never run. -/
def TaskRt.reset : TaskRt :=
  { owed := none, lastG := 0, lastR := 0, released := false, acts := 0, stopping := false, xseq := 0, lastOk := false, specBar := 0, endTick := none,
    heldOver := false, window := [], susp := 0, lastImg := [], outDue := false, rels := 0 }

/-- The Square right after reset. -/
def Square.reset : Square :=
  { mem := [], code := [], csn := 0, snaps := [], poison := [], host := [], inval := [], edits := [], tagGen := 0, acuGen := 0, actCount := 0,
    acuBusy := false, cells := [], mapErrs := [], ceRows := [], sparing := [], rowMap := [], scrubbed := 0, scrubStart := 0, tickMem := [], tickCsn := 0, tickPoison := [] }

/-- The scheduler right after reset. -/
def Sched.reset : Sched :=
  { tasks := [], runs := [], batch := [], seq := 0, modeReqs := [], accepted := [], inits := [], initDone := false,
    forces := [], held := [], caps := [], tails := [], disps := [] }

/-- The Arcade right after reset: both logs empty, the credit full (R425: full at first power-on). -/
def Arcade.reset : Arcade :=
  { cyc := [], evs := [], cycSeq := 0, evSeq := 0, retStaged := [], ret := [], retCsn := 0, retGen := none, near := [], lastSamp := [],
    credit := 8640000000000, creditAt := 0, wins := [], curAsk := [], joinUsed := 0 }

/-- The field I/O block right after reset: no supply has been judged, filters empty, no device answered. -/
def FieldIo.reset : FieldIo :=
  { dio := [], edgeSeq := 0, ai := [], ao := [], codes := [], srcs := [], roundAt := 0, urgent := [], adcFails := 0, rbFails := 0,
    hart := [], looped := [], fns := [], conns := [], inbox := [], seatAt := 0, safe := true, hold := true, badDrivers := [], keyS := ⟨0, 0⟩, keyU := ⟨0, 0⟩, sigUntil := 0 }

/-- Pair operation right after reset. -/
def PairRt.reset : PairRt :=
  { heMax := 0, partner := none, helloAt := 0, startAt := 0, grantFor := 0, grants := [], assent := [], nextCsn := none, switchAt := none,
    handed := none, missRun := 0, lastTick := 0, applied := 0, appliedAt := 0, sent := [], setup := [], queued := [], joinBase := none,
    bulkDone := false, resync := [], resyncAll := false, audits := [], missAt := [], voids := [], pktSeq := 0, imgSent := [],
    lastLead := false, lastEpoch := 0, tookAt := 0, lostUnfenced := false, cmds := [], pktSeen := [], backfillLow := 0, firstCommit := false, marked := [],
    seatRing := [], missing := 0, oldLead := false, bulkLeft := 0, bulkAll := 0, since := [], gSent := 0, heardAt := 0, bulkOut := [], bfCyc := 0, bfEv := 0,
    bfDebt := 0, swPath := none, swRefused := false, heldSetup := [], resyncEnd := false, fetch := [] }

/-- The plant side right after reset: every station is ABSENT. -/
def Plant.reset : Plant :=
  { stas := [], prodHe := [], peerAt := [], fspSeq := [], seen := [], doms := [], domAt := none, stepped := false, pulses := [], capSeq := 0,
    meas := none, cuts := [], changes := [], opSeq := 0, lastOut := [], outAt := [] }

/-- The Roundabout right after reset: no session. -/
def HostSt.reset : HostSt :=
  { sess := [], batches := [], nextBatch := 0, locks := [], idents := [], dups := [], dbKey := 0, sakAt := [] }

/-- A restart that finds nothing out of order, in seat A. -/
def bootPlain : BootEnv := ⟨[], 1, false, [], [], true, 2, 0, 0, 0, []⟩

/-- The Kerb right after reset: no fuse blown, slot A CONFIRMED (R447: one slot is; log entry 21), no record in MRAM and both copies of the epoch 0 with their CRC-32C; the
restart stands at step 0 (R434; log entry 5). -/
def KerbRt.reset : KerbRt :=
  { phase := .boot, env := bootPlain, hb := 0, miss := [], mainsOut := [], sag := 0, therm := 0, p2 := [], wake := none, deeper := none,
    coolGone := false, kset := none, lastWords := [], lwSeq := 0, lwCause := 0, roleSeat := none, epochs := ((0, 0x48674BC7), (0, 0x48674BC7)), partnerId := 0, act := none, degMram := [],
    keys := [], fuses := [(2, 0x53324D)], marg := [], margNew := [], latched := [(2, 0x53324D)], meas := [], chain := [], slots := [(0, ⟨4, some ⟨0, 0, 0, 0, 0, 0, 0, 0, true⟩, []⟩)], upWin := [],
    okSince := none, winEnd := 0, toRestart := none, rejecting := false, confGiven := false, evidence := [] }

/-- The machine right after reset: every register at the value of its field table's Reset column (a register file reads so where it lists
nothing; it lists ROLE of the eight reserve lanes, whose placement the module chooses, R156, and the running slot, log entry 21), no command waiting, memory with nothing listed. -/
def State.reset : State :=
  { pending := [], regs := [15, 31, 47, 63, 78, 79, 94, 95].map (fun n => (XNG_LANESTAT_ROLE.key n, 1)) ++ [(BOT_SLOTSTAT_STATEA.key 0, 4)], due := [], out := [], fresh := 0, now := 0, tick := 0, sq := .reset, sched := .reset, lanes := [],
    pkgs := [], arc := .reset, wins := [], io := .reset, can := [], pair := .reset, plant := .reset,
    host := .reset, kerb := .reset, imv := [],
    olc := ⟨[], [], none, false, none, false, [], none, []⟩, setup := ⟨[], []⟩ }

end Sys2Proof.Machine
end

