-- ==== Sys2Proof/Machine/Tab.lean ====
section
/-! DEFINITION. The operations of the sparse tables and of byte memories: look up, insert in order, remove; little-endian fields. -/
namespace Sys2Proof.Machine

/-- The value under a key. -/
def tabGet? {α : Type} : Tab α → Nat → Option α
  | [], _ => none
  | (k, v) :: t, a => if k = a then some v else if a < k then none else tabGet? t a

/-- The value under a key, or a default. -/
def tabGet {α : Type} (d : α) (t : Tab α) (a : Nat) : α := (tabGet? t a).getD d

/-- Put a value under a key, keeping the keys rising. -/
def tabSet {α : Type} : Tab α → Nat → α → Tab α
  | [], a, v => [(a, v)]
  | (k, w) :: t, a, v => if a < k then (a, v) :: (k, w) :: t else if k = a then (a, v) :: t else (k, w) :: tabSet t a v

/-- Remove a key. -/
def tabDel {α : Type} : Tab α → Nat → Tab α
  | [], _ => []
  | (k, w) :: t, a => if k = a then t else if a < k then (k, w) :: t else (k, w) :: tabDel t a

/-- Change the value under a key, starting from a default. -/
def tabMod {α : Type} (d : α) (t : Tab α) (a : Nat) (f : α → α) : Tab α := tabSet t a (f (tabGet d t a))

/-- Does a key stand in the table? -/
def tabHas {α : Type} (t : Tab α) (a : Nat) : Bool := (tabGet? t a).isSome

/-- The keys. -/
def tabKeys {α : Type} (t : Tab α) : List Nat := t.map Prod.fst

/-- The byte a memory holds; an unlisted byte reads 0 (log entry 6). -/
def memRd (m : Tab Byte) (a : Nat) : Byte := tabGet 0 m a

/-- Write a byte, keeping the canonical form: rising addresses, and no entry that holds 0. -/
def memWr (m : Tab Byte) (a : Nat) (b : Byte) : Tab Byte := if b = 0 then tabDel m a else tabSet m a b

/-- Write bytes at rising addresses. -/
def memWrL (m : Tab Byte) (a : Nat) : List Byte → Tab Byte
  | [] => m
  | b :: bs => memWrL (memWr m a b) (a + 1) bs

/-- Lay the entries of one byte map over a memory. -/
def memLay (m : Tab Byte) (o : Ovl) : Tab Byte := o.foldl (fun m p => memWr m p.1 p.2) m

/-- Lay the entries of one overlay over another; the second one wins. -/
def ovlLay (o p : Ovl) : Ovl := p.foldl (fun o q => tabSet o q.1 q.2) o

/-- Write bytes into an overlay. -/
def ovlWrL (o : Ovl) (a : Nat) : List Byte → Ovl
  | [] => o
  | b :: bs => ovlWrL (tabSet o a b) (a + 1) bs

/-- The number that little-endian bytes spell. -/
def leNat : List Byte → Nat
  | [] => 0
  | b :: bs => b.toNat + 256 * leNat bs

/-- The low n bytes of a number, little-endian. -/
def natLe : Nat → Nat → List Byte
  | 0, _ => []
  | n + 1, v => BitVec.ofNat 8 v :: natLe n (v / 256)

/-- n bytes from a memory. -/
def memRdL (m : Tab Byte) (a : Nat) : Nat → List Byte
  | 0 => []
  | n + 1 => memRd m a :: memRdL m (a + 1) n

/-- Bits [lo + w − 1 : lo] of a number. -/
def bits (v lo w : Nat) : Nat := v / 2 ^ lo % 2 ^ w

/-- Bit k of a number. -/
def bitOf (v k : Nat) : Bool := v / 2 ^ k % 2 = 1

/-- A Bool as a number. -/
def b2n (b : Bool) : Nat := if b then 1 else 0

/-- Saturate at a width. -/
def sat (w v : Nat) : Nat := min v (2 ^ w - 1)

/-- The signed reading of w bits. -/
def sgn (w v : Nat) : Int := if bitOf v (w - 1) then (v % 2 ^ w : Nat) - (2 ^ w : Nat) else ((v % 2 ^ w : Nat) : Int)

/-- The w bits of an integer. -/
def unsgn (w : Nat) (i : Int) : Nat := (i % (2 ^ w : Nat)).toNat

/-- Insert into a list that is sorted by a strict order, after its equals. -/
def insSort {α : Type} (lt : α → α → Bool) (x : α) : List α → List α
  | [] => [x]
  | y :: ys => if lt x y then x :: y :: ys else y :: insSort lt x ys

/-- Stable insertion sort. -/
def isort {α : Type} (lt : α → α → Bool) (l : List α) : List α := l.foldl (fun acc x => insSort lt x acc) []

/-- Replace the first n entries' worth: keep at most the last n. -/
def lastN {α : Type} (n : Nat) (l : List α) : List α := l.drop (l.length - n)

/-- The table has strictly rising keys. -/
def tabRising {α : Type} : Tab α → Bool
  | [] => true
  | (k, _) :: t => (match t with | [] => true | (k', _) :: _ => decide (k < k')) && tabRising t

/-- The canonical form of a byte memory: rising addresses, and no entry equal to what an unlisted address reads as. -/
def Memory.wf (m : Tab Byte) : Bool := tabRising m && m.all (fun p => p.2 ≠ 0)

end Sys2Proof.Machine
end

