-- ==== Sys2Proof/Machine/Ops.lean ====
section
/-! DEFINITION. The named operations every meaning is built of: the register file, values that wait, event records and reports, refused
writes, the program in force, and the roles and modes. -/
namespace Sys2Proof.Machine

/-- The outcome of a command that runs: every meaning of this model ends in it. -/
abbrev done (s : State) : Host.Outcome State Fault Refusal := .next s

/-! ### The register file -/

/-- The value in force of a field's instance. -/
def State.getF (s : State) (f : Fld) (ix : Nat := 0) : Nat := tabGet f.reset s.regs (f.key ix)

/-- A one-bit field as a Bool. -/
def State.flag (s : State) (f : Fld) (ix : Nat := 0) : Bool := s.getF f ix ≠ 0

/-- Set the value in force: the instance is listed, or, at its reset value, no longer listed. -/
def State.setF (s : State) (f : Fld) (v : Nat) (ix : Nat := 0) : State :=
  { s with regs := if v % 2 ^ f.w = f.reset then tabDel s.regs (f.key ix) else tabSet s.regs (f.key ix) (v % 2 ^ f.w) }

/-- Set a one-bit field. -/
def State.setB (s : State) (f : Fld) (b : Bool) (ix : Nat := 0) : State := s.setF f (b2n b) ix

/-- Advance a saturating counter by n. -/
def State.bump (s : State) (f : Fld) (ix : Nat := 0) (n : Nat := 1) : State := s.setF f (sat f.w (s.getF f ix + n)) ix

/-- Advance a counter that wraps at its width. -/
def State.wrapUp (s : State) (f : Fld) (ix : Nat := 0) : State := s.setF f (s.getF f ix + 1) ix

/-- The latest value written to a key and not yet in force. -/
def dueVal (l : List Due) (key : Nat) : Option Nat :=
  (l.filter (fun d => d.key = key)).getLast?.map Due.val

/-- What a read of an RW field returns: the value last written, whether or not it is in force (R57, R489). -/
def State.asWritten (s : State) (f : Fld) (ix : Nat := 0) : Nat := (dueVal s.due (f.key ix)).getD (s.getF f ix)

/-- Write a value that takes effect later. -/
def State.setLater (s : State) (w : When) (f : Fld) (v : Nat) (ix : Nat := 0) : State :=
  { s with due := s.due.filter (fun (d : Due) => d.key ≠ f.key ix) ++ [⟨w, f.key ix, v % 2 ^ f.w, some 0⟩] }

/-- Does a waiting value take effect at an instant that comes in base tick n? -/
def Due.ripe (d : Due) (w : When) (n : Nat) : Bool := d.wh = w && d.frm.any (fun e => decide (e ≤ n))

/-- Let the values that wait for an instant that stands for base tick n take effect. -/
def State.applyDueAt (s : State) (w : When) (n : Nat) : State :=
  { s with regs := (s.due.filter (fun d => d.ripe w n)).foldl (fun r d => tabSet r d.key d.val) s.regs,
           due := s.due.filter (fun d => !d.ripe w n) }

/-- Let the values that wait for an instant take effect. -/
def State.applyDue (s : State) (w : When) : State := s.applyDueAt w s.tick

/-- A 64-bit value held as a LO and HI pair. -/
def State.get64 (s : State) (lo hi : Fld) (ix : Nat := 0) : Nat := s.getF lo ix + 2 ^ 32 * s.getF hi ix
/-- Set such a pair. -/
def State.set64 (s : State) (lo hi : Fld) (v : Nat) (ix : Nat := 0) : State := (s.setF lo v ix).setF hi (v / 2 ^ 32) ix

/-- The instance a field has for an access path: the path's selector registers choose it (R56, R484). -/
def State.selIx (s : State) (p : Path) : Sel → Nat
  | .one => 0
  | .path => p.code
  | .task => s.getF SCH_TASKSEL_TASK p.code
  | .lane => s.getF XNG_LANESEL_LANE p.code
  | .acu => s.getF ACU_MSEL_SEL p.code * 32 + s.getF ACU_RSEL_SLOT p.code
  | .link => s.getF PNE_PORTSEL_LINK p.code
  | .station => s.getF PNE_STASEL_STA p.code
  | .conn => s.getF SFY_CONNSEL_CONN p.code
  | .fn => s.getF SFY_FNSEL_FN p.code
  | .dio => s.getF DIO_CHSEL_CH p.code
  | .aio => s.getF AIO_CHSEL_CH p.code
  | .adc => s.getF ADC_SEQSEL_ENT p.code
  | .can => s.getF CAN_PORTSEL_PORT p.code
  | .imv => s.getF IMV_CHSEL_CH p.code
  | .sec => s.getF SEC_PORTSEL_PORT p.code
  | .log => s.getF ARC_LOGSEL_LOG p.code
  | .pulse => s.getF TIM_POSEL_OUT p.code

/-! ### What the module emits, free values, records and reports -/

/-- Emit something. -/
def State.emit (s : State) (ch : OutCh) (what : Nat) (args : List Nat) (data : List Byte := []) : State :=
  { s with out := s.out ++ [⟨ch, what, args, data⟩] }

/-- A value the spec leaves open: the free value of the step's counter, and the counter advanced (log entry 2). -/
def State.free (s : State) : Nat × State := (Config.freeValue s.fresh, { s with fresh := s.fresh + 1 })

/-- What needs a main domain does not happen in state K, where they are off (R16, Table 1-4). -/
def State.powered (s : State) (f : State → State) : State := if s.kerb.phase = .off then s else f s

/-- The seat, 0 A and 1 B. -/
def State.seat (s : State) : Nat := s.getF PAR_STAT_SEAT
/-- The pair epoch. -/
def State.epoch (s : State) : Nat := s.getF PAR_EPOCH_EPOCH

/-- Write an event record to the Arcade's event log (R418, R419): staged, with the module's own next sequence number. In state K the Arcade is
off (R20). -/
def State.event (s : State) (kind task : Nat) (payload : List Byte) : State :=
  if s.kerb.phase = .off then s
  else
    let r : ArcRec :=
      { kind := kind, flags := 0, seat := s.seat, seq := s.arc.evSeq, csn := s.sq.csn, time := s.now,
        task := task, epoch := s.epoch, payload := payload, prog := false }
    { s with arc := { s.arc with evs := s.arc.evs ++ [r], evSeq := s.arc.evSeq + 1 } }

/-- Numbers as 8-byte little-endian words: the data of an event record for which the spec names the content and not its layout (log entry
8). -/
def words (l : List Nat) : List Byte := l.flatMap (natLe 8)

/-- A HARDWARE record of Table 16-7: a number for what is recorded, and its data. -/
def State.evHw (s : State) (what : Nat) (l : List Nat) : State := s.event 0x0107 0xFFFF (words (what :: l))
/-- A CONFIG record. -/
def State.evCfg (s : State) (what : Nat) (l : List Nat) : State := s.event 0x0105 0xFFFF (words (what :: l))
/-- A SAFETY record. -/
def State.evSafe (s : State) (what : Nat) (l : List Nat) : State := s.event 0x0106 0xFFFF (words (what :: l))
/-- A SECURITY record. -/
def State.evSec (s : State) (what : Nat) (l : List Nat) : State := s.event 0x0108 0xFFFF (words (what :: l))

/-! ### Access refused (R493) -/

/-- A field of a common register of block b. -/
def common (b lo w off : Nat) (acc : Acc) : Fld := ⟨b * 0x10000 + off, lo, w, acc, 0, .one⟩
/-- BLKSTATLO.LASTWR of a block. -/
def lastWr (b : Nat) : Fld := common b 16 14 0x7FF8 .ro
/-- BLKSTATHI.WRCNT of a block. -/
def wrCnt (b : Nat) : Fld := common b 0 32 0x7FFC .ro
/-- BLKSTATLO.IGNCNT of a block. -/
def ignCnt (b : Nat) : Fld := common b 8 8 0x7FF8 .rc

/-- Does a block answer (Table 19-9)? In a restart, KRB, PWR and BOT from the end of step 2; in K these three; in RECOVERY BOT only. -/
def State.blkReady (s : State) (b : Nat) : Bool :=
  match s.kerb.phase with
  | .run => true
  | .boot => decide (s.getF BOT_STAT_STEP ≥ 3) && (b = 0 || b = 1 || b = 0x12)
  | .off => b = 0 || b = 1 || b = 0x12
  | .recovery => b = 0x12
  | .stuck => false

/-- A write ignored and counted (R493): the causes are those of Table 19-7. -/
def State.ignored (s : State) (p : Path) (off cause : Nat) : State :=
  let s := s.bump KRB_IGNSTAT_IGNCNT
  let s := if off < 0x140000 then s.bump (ignCnt (off / 0x10000)) else s
  let s := s.setF KRB_IGNSTAT_CAUSE cause
  let s := s.setF KRB_IGNADDR_OFFSET off
  s.setF KRB_IGNPATH_PATH p.code

/-- A command without an access path that is ignored and counted, its path read as 0. -/
def State.ignoredBy (s : State) (p : Option Path) (off cause : Nat) : State := s.ignored (p.getD (.mgmt 0)) off cause

/-- A write that reaches its block, as attempts on its fields: each takes effect or is ignored by itself. What is refused is counted once (R492),
and the write counts as accepted where something of it was taken (R488). A restart leaves nothing to count. -/
def State.attempts (s : State) (p : Path) (off : Nat) (l : List (State → State)) : State :=
  let b := off / 0x10000
  if !s.blkReady b then s.ignored p off 4
  else
    let n := s.getF KRB_IGNSTAT_IGNCNT
    let m := s.getF (ignCnt b)
    let r := l.foldl (fun (a : State × Bool × Bool) f =>
      let t := f (a.1.setF KRB_IGNSTAT_IGNCNT 0)
      if t.flag KRB_IGNSTAT_IGNCNT then (t, a.2.1, true) else (t, true, a.2.2)) (s, l.isEmpty, false)
    let t := r.1
    if t.kerb.phase = .boot && s.kerb.phase ≠ .boot then t
    else
      let t := (t.setF KRB_IGNSTAT_IGNCNT (sat 16 (n + b2n r.2.2))).setF (ignCnt b) (sat 8 (m + b2n r.2.2))
      if r.2.1 then (t.setF (lastWr b) (off % 0x10000 / 4)).wrapUp (wrCnt b) else t

/-- A write that is taken or ignored as a whole. -/
def State.written (s : State) (p : Path) (off : Nat) (f : State → State) : State := s.attempts p off [f]

/-! ### The program in force -/

/-- No program: what is in force before a configuration is loaded. -/
def Pkg.empty : Pkg := { tasks := [], vars := [], codeLen := 0, store := [], init := [], pages := [], acu := [], hist := [],
                          sigs := [], sys := [], setup := [], ais := [], aos := [], harts := [], conns := [], fns := [], canRx := [], canTx := [], canPorts := [],
                          stations := [], peers := [], pubs := [], groups := [], cutSets := [], access := [],
                          gates := [], objs := [], objEntry := [], gen := 0, digest := 0, storeDigest := 0, instId := 0, fmt := 0, sigOk := false,
                          old42 := false, unsupported := false, qualified := [], safetySig := 0, keys := [], iface := [], certs := [], renames := [] }

/-- The witnesses of a package (R209): of each its identity here, the station number, or 0x1000 and the producer number of a peer controller; its link; and
its worst-case round trips. -/
def witnessList (p : Pkg) : List (Nat × Nat × (Nat × Nat)) :=
  (p.stations.filter StationDef.witness).map (fun d => (d.no.val, d.link.val, d.roundTrip)) ++
  ((p.peers.filterMap (fun d => d.witness.map (fun w => (0x1000 + d.producer, w.2.val, w.1)))).foldl
    (fun (l : List (Nat × Nat × (Nat × Nat))) x => if l.any (fun y => y.1 = x.1) then l else l ++ [x]) [])

/-- The active program store: 0 A, 1 B. -/
def State.actStore (s : State) : Nat := s.getF SCH_OLCSTAT_ACTSTORE
/-- Base of a program store (Table 7-1). -/
def storeBase (n : Nat) : Nat := if n = 0 then 0x8000000000 else 0x8040000000
/-- The configuration in force. -/
def State.cfg (s : State) : Pkg := tabGet Pkg.empty s.pkgs s.actStore
/-- Its witnesses. -/
def State.witnesses (s : State) : List (Nat × Nat × (Nat × Nat)) := witnessList s.cfg
/-- A task of the configuration in force. -/
def State.taskDef? (s : State) (t : Nat) : Option TaskDef := s.cfg.tasks.find? (fun d => d.no.val = t)
/-- Is any safety task configured? -/
def State.anySafety (s : State) : Bool := s.cfg.tasks.any TaskDef.safety
/-- Is the task a safety task? -/
def State.isSafety (s : State) (t : Nat) : Bool := s.flag SCH_TASKCFG_SAFETY t

/-- SCH_TASKCFG.KIND. -/
def State.kind (s : State) (t : Nat) : Nat := s.getF SCH_TASKCFG_KIND t
/-- The number of the error task, if one is configured (R27: at most one). -/
def State.errorTask (s : State) : Option Nat :=
  (s.cfg.tasks.find? (fun d => s.kind d.no.val = 2)).map (fun d => d.no.val)

/-- Is the SAFETY-EDIT switch in its edit position (R343)? -/
def State.safetyEdit (s : State) : Bool := s.flag KRB_SWSTAT_SAFEEDIT
/-- Is UPDATE-ENABLE in its enable position (R494)? -/
def State.updateEnable (s : State) : Bool := s.flag KRB_SWSTAT_UPDEN

/-- PAR_STAT.ROLE is Lead. -/
def State.isLead (s : State) : Bool := s.getF PAR_STAT_ROLE = 2
/-- Does the module send cycle packets: a Lead whose partner follows or is being joined? -/
def State.hasFollower (s : State) : Bool := s.isLead && (s.getF PAR_STAT_STATE = 6 || s.pair.joinBase.isSome)
/-- Does the module follow (R493: a write made on the Follower)? -/
def State.following (s : State) : Bool :=
  let st := s.getF PAR_STAT_STATE
  st = 2 || st = 3 || st = 4
/-- Add a set-up item to those the next packet carries, if the module sends packets. -/
def State.share (s : State) (i : SetupItem) : State :=
  if s.hasFollower then { s with pair := { s.pair with setup := s.pair.setup ++ [i] } } else s
/-- Write a value that takes effect later and travels as an item: where a packet is to carry it, not before that packet has left (R57). -/
def State.setShared (s : State) (w : When) (i : SetupItem) (f : Fld) (v : Nat) (ix : Nat := 0) : State :=
  let t := s.setLater w f v ix
  if s.hasFollower then State.share { t with due := t.due.map (fun d => if d.key = f.key ix then { d with frm := none } else d) } i else t
/-! ### The steps of an on-line change (R237) -/

/-- SCH_OLCSTAT.STEP. -/
def State.step_ (s : State) : Nat := s.getF SCH_OLCSTAT_STEP
/-- Enter a step, with a CONFIG record (Table 16-7); a Follower is told of it. -/
def State.olcStep (s : State) (n : Nat) : State := ((s.setF SCH_OLCSTAT_STEP n).evCfg 2 [n]).share (.olc n)
/-- The change ends without activation; `again`: the checked package can be armed again (Table 9-7). -/
def State.olcEnd (s : State) (again : Bool) : State :=
  let s := if again then s else s.setF SCH_CFGSTAT_CHECKED 0
  let s : State := { s with olc := { s.olc with actAt := none, load := false, cand := if again then s.olc.cand else none },
                            pair := { s.pair with setup := s.pair.setup.filter (fun i => match i with | .activation _ _ => false | _ => true) } }
  (s.bump SCH_OLCSTAT_ABNCNT).olcStep 7
/-- A change in progress ends where a module has taken the Lead, which does not activate at an announced A, or has lost its role (Table 9-7). -/
def State.olcTakeover (s : State) : State := if 1 ≤ s.step_ && s.step_ ≤ 4 then s.olcEnd (s.olc.cand.isSome && s.flag SCH_CFGSTAT_CHECKED) else s

/-- Carry out a set-up item of the Square: the same in both modules of a pair (R182, R188). -/
def State.squareItem (s : State) (i : SetupItem) : State :=
  match i with
  | .tag a bs => { s with sq := { s.sq with code := memWrL s.sq.code a bs } }
  | .ttc f l all =>
    State.setF { s with sq := { s.sq with inval := s.sq.inval ++ [⟨f, l, all⟩] } } SQR_TTCINV_DONE 0
  | .barrier => State.setF { s with sq := { s.sq with acuBusy := true } } ACU_CTL_DONE 0
  | _ => s
/-- What waits for a packet to carry it is carried, or needs none any more: it takes effect from the next base tick on (R57, R115, R182, R188). -/
def State.carriedOut (s : State) : State :=
  let e := some (s.tick + 1)
  { s with due := s.due.map (fun d => { d with frm := d.frm.orElse (fun _ => e) }),
           sq := { s.sq with edits := s.sq.edits.map (fun x => (x.1, x.2.orElse (fun _ => e))) },
           sched := { s.sched with disps := s.sched.disps.map (fun x => (x.1, x.2.orElse (fun _ => e))) } }

/-- SCH_MODE.MODE: 0 STOP, 1 RUN, 2 HOLD. -/
def State.mode (s : State) : Nat := s.getF SCH_MODE_MODE

/-- From here on, cycles released in the present base tick read the state as it stands: at its start (R33), and after a start or an activation at it. -/
def State.baseNow (s : State) : State :=
  { s with sq := { s.sq with tickMem := s.sq.mem, tickCsn := s.sq.csn, tickPoison := s.sq.poison } }

/-- What a task keeps between cycles. -/
def State.taskRt (s : State) (t : Nat) : TaskRt := tabGet TaskRt.reset s.sched.tasks t
/-- Change it. -/
def State.modTask (s : State) (t : Nat) (f : TaskRt → TaskRt) : State :=
  { s with sched := { s.sched with tasks := tabMod TaskRt.reset s.sched.tasks t f } }
/-- An execution of a task. -/
def State.run? (s : State) (c : Ctx) (t : Nat) : Option Run := tabGet? s.sched.runs (c.key t)
/-- Put an execution. -/
def State.putRun (s : State) (r : Run) : State :=
  { s with sched := { s.sched with runs := tabSet s.sched.runs (r.ctx.key r.task) r } }
/-- End an execution: it is no more. -/
def State.delRun (s : State) (c : Ctx) (t : Nat) : State :=
  { s with sched := { s.sched with runs := tabDel s.sched.runs (c.key t) } }
/-- A lane. -/
def State.laneRt (s : State) (n : Nat) : LaneRt := tabGet LaneRt.reset s.lanes n
/-- Change a lane. -/
def State.modLane (s : State) (n : Nat) (f : LaneRt → LaneRt) : State := { s with lanes := tabMod LaneRt.reset s.lanes n f }

/-! ### Cycles of the old program (R242) -/

/-- Does a key belong to the access regions' registers? -/
def acuKey (k : Nat) : Bool := 0x70018 ≤ k / 2 ^ 21 && k / 2 ^ 21 < 0x7002C
/-- The access regions in force. -/
def State.acuRegs (s : State) : Tab Nat := s.regs.filter (fun p => acuKey p.1)
/-- Other access regions in force. -/
def State.withAcu (s : State) (l : Tab Nat) : State :=
  { s with regs := l.foldl (fun r p => tabSet r p.1 p.2) (s.regs.filter (fun p => !acuKey p.1)) }

/-- The machine as a cycle of a program store sees it: that store active, and, if it is the old one, under the old regions. -/
def State.enterOld (s : State) (store : Nat) : State :=
  if s.actStore = store then s
  else
    let b := (s.actStore, s.acuRegs)
    let s := s.withAcu s.olc.oldAcu
    State.setF { s with olc := { s.olc with back := some b } } SCH_OLCSTAT_ACTSTORE store
/-- Back to the program in force. -/
def State.leaveOld (s : State) : State :=
  match s.olc.back with
  | none => s
  | some b => State.setF (State.withAcu { s with olc := { s.olc with back := none } } b.2) SCH_OLCSTAT_ACTSTORE b.1

/-! ### Activations and reports (R42, R249) -/

/-- Take an activation, cancellation, START or STOP into the running base tick (R42). -/
def State.ask (s : State) (t stamp : Nat) (a : TickAsk) (p : Option Path) : State :=
  { s with sched := { s.sched with batch := s.sched.batch ++ [⟨t, stamp, s.sched.seq, a, p⟩], seq := s.sched.seq + 1 } }

/-- Release the error task for a report of the given stamp (R41, R106, R249), where one is configured. -/
def State.callErrorTask (s : State) (stamp : Nat) : State :=
  match s.errorTask with
  | some t => s.ask t stamp .call none
  | none => s

/-! ### System variables -/

/-- The address of a system variable of the configuration in force, if it has one. -/
def State.sysAddr (s : State) (k : SysKind) (seat : Bool) (ix : Nat) : Option Nat :=
  (s.cfg.sys.find? (fun v => v.kind = k && v.seat = seat && v.ix = ix)).map SysVar.addr

/-- The module's own seat as a Bool. -/
def State.seatB (s : State) : Bool := s.seat = 1

/-- A write that covers whole units clears their poison (R167). -/
def clearPoison (poison : List Nat) (a n : Nat) : List Nat :=
  poison.filter (fun u => !(decide (a ≤ u) && decide (u + 64 ≤ a + n)))

/-- Write bytes of a system table or variable in the state space. -/
def State.sysWrite (s : State) (a : Nat) (bs : List Byte) : State :=
  { s with sq := { s.sq with mem := memWrL s.sq.mem a bs, poison := clearPoison s.sq.poison a bs.length } }

/-- The same for a ring or an entry of the module's own seat: a module that does not lead carries it to its partner in its next SEATSAMPLE (R310,
R385). -/
def State.seatWrite (s : State) (a : Nat) (bs : List Byte) : State :=
  let s := s.sysWrite a bs
  if s.isLead then s else { s with pair := { s.pair with seatRing := s.pair.seatRing ++ [(a, bs)] } }

/-- Is the window the one of a subject? -/
def Win.isOf (w : Win) (kind obj : Nat) : Bool := w.kind = kind && w.obj = obj

/-- Add a report to a window: its count, its last stamp and its reporter, with equal stamps in order of arrival. -/
def Win.add (w : Win) (stamp rk rn : Nat) : Win :=
  { w with count := sat 32 (w.count + 1), first := min w.first stamp, last := max w.last stamp,
           reps := insSort (fun a b => decide (a.1 < b.1)) (stamp, rk, rn) w.reps }

/-- An entry of ERRSUBJ (Table 9-10). -/
def Win.bytes (w : Win) : List Byte :=
  let reps := w.reps.take 16
  natLe 2 w.kind ++ natLe 2 (b2n w.isOpen + 2 * b2n w.summary) ++ natLe 4 w.obj ++ natLe 4 w.count ++ natLe 4 reps.length ++
  natLe 8 w.first ++ natLe 8 w.last ++ natLe 8 w.recSeq ++ natLe 8 0 ++
  reps.flatMap (fun r => natLe 4 (r.2.1 * 2 ^ 28 + r.2.2 % 2 ^ 28)) ++ List.replicate (64 - 4 * reps.length) 0 ++ List.replicate 16 0

/-- Show a window in ERRSUBJ, and the count of open windows (R250). -/
def State.showWin (s : State) (w : Win) : State :=
  let s := s.setF SCH_COALSTAT_OPEN (s.wins.filter Win.isOpen).length
  match s.sysAddr .errSubj false 0 with
  | some a => s.sysWrite (a + w.slot * 128) w.bytes
  | none => s

/-- Change a window and show it. -/
def State.putWin (s : State) (w : Win) : State :=
  State.showWin { s with wins := s.wins.map (fun (x : Win) => if x.isOf w.kind w.obj then w else x) } w

/-- The entry of ERRSUBJ for a new window: 256 for KIND 0x00FF, else one that no window holds, else that of the first closed one. -/
def State.winSlot (s : State) (kind : Nat) : Nat :=
  if kind = 0x00FF then 256
  else match (List.range 256).find? (fun i => !s.wins.any (fun (w : Win) => w.slot = i)) with
    | some i => i
    | none => ((s.wins.find? (fun (w : Win) => !w.isOpen && w.slot ≠ 256)).map Win.slot).getD 0

/-- Open a window or advance its count (R249). -/
def State.reportIn (s : State) (kind obj stamp rk rn : Nat) : State :=
  match s.wins.find? (fun (w : Win) => w.isOf kind obj && w.isOpen) with
  | some w => s.putWin (w.add stamp rk rn)
  | none =>
    let s := { s with wins := s.wins.filter (fun (w : Win) => !w.isOf kind obj) }
    let w : Win :=
      { kind := kind, obj := obj, isOpen := true, summary := false, count := 1, first := stamp, last := stamp, recSeq := 0,
        reps := [(stamp, rk, rn)], recDue := true, slot := s.winSlot kind }
    let s := { s with wins := s.wins.filter (fun (x : Win) => x.slot ≠ w.slot) ++ [w] }
    (s.showWin w).callErrorTask stamp

/-- A fault or warning report of a subject (R249, R250): a 257th open subject is counted under KIND 0x00FF. -/
def State.report (s : State) (kind obj stamp rk rn : Nat) : State :=
  let openOther := (s.wins.filter (fun (w : Win) => w.isOpen && w.kind ≠ 0x00FF)).length
  if kind ≠ 0x00FF && openOther ≥ 256 && !s.wins.any (fun (w : Win) => w.isOf kind obj && w.isOpen) then
    (s.bump SCH_COALSTAT_OVFCNT).reportIn 0x00FF 0 stamp rk rn
  else s.reportIn kind obj stamp rk rn

end Sys2Proof.Machine
end

