-- ==== Sys2Proof/Machine/Access.lean ====
section
/-! DEFINITION. The path to the Square (07): the address space, ECC outcomes, the access control units, the tag walker and the translation
caches. -/
namespace Sys2Proof.Machine

/-! ### Address space (Table 7-1) -/

/-- The state space: versioned by the page map. -/
def inState (a : Nat) : Bool := a < 0x8000000000
/-- The program stores: written in place. -/
def inStore (a : Nat) : Bool := 0x8000000000 ≤ a && a < 0x8080000000
/-- The device space. -/
def inDevice (a : Nat) : Bool := 0xF000000000 ≤ a && a < 0x10000000000
/-- No backing. -/
def unmapped (a : Nat) : Bool := !inState a && !inStore a && !inDevice a

/-- The 64-byte unit that holds a byte (R165). -/
def unitOf (a : Nat) : Nat := a / 64 * 64
/-- The 4 KiB page that holds a byte. -/
def pageOf (a : Nat) : Nat := a / 4096 * 4096

/-- A byte as committed: state space or program store. -/
def Square.byte (q : Square) (a : Nat) : Byte := if inState a then memRd q.mem a else memRd q.code a
/-- Bytes as committed. -/
def Square.bytes (q : Square) (a : Nat) : Nat → List Byte
  | 0 => []
  | n + 1 => q.byte a :: q.bytes (a + 1) n
/-- The units that n bytes at an address touch. -/
def unitsOf (a n : Nat) : List Nat := if n = 0 then [] else (List.range ((a + n - 1) / 64 - a / 64 + 1)).map (fun i => (a / 64 + i) * 64)
/-- Does a read of n bytes meet a poisoned unit? -/
def Square.bad (q : Square) (a n : Nat) : Bool := (unitsOf a n).any (fun u => q.poison.contains u)

/-! ### Frames, errors and poison (R164 to R171) -/

/-- Do two CSNs show one frame of a page: no commit between them has given it a new version? The program stores have no versions. -/
def State.sameFrame (s : State) (a n m : Nat) : Bool :=
  !inState a || !s.sq.snaps.any (fun x => decide (min n m < x.csn) && decide (x.csn ≤ max n m) && x.pages.contains (pageOf a))

/-- The version of a byte's page at a CSN: the CSN of the commit that made it, 0 for one older than the ring. -/
def State.verAt (s : State) (a n : Nat) : Nat :=
  ((s.sq.snaps.filter (fun x => decide (x.csn ≤ n) && x.pages.contains (pageOf a))).head?.map Snap.csn).getD 0

/-- The physical address of a byte at a CSN (R164): its frame among the 35,156,250 of 4 KiB, and its place in the page. -/
def State.physAddr (s : State) (a n : Nat) : Nat := Config.frameOf (a / 4096) (s.verAt a n) % 35156250 * 4096 + a % 4096

/-- The stack of a physical address: consecutive 256-byte blocks lie on stacks 0 to 3 in turn (R164). -/
def stackOf (p : Nat) : Nat := bits p 8 2

/-- The row that serves a physical address: its own, or the reserve row it has been spared to (R169). -/
def State.rowAt (s : State) (p : Nat) : Nat := let r := Config.rowOf p; tabGet r s.sq.rowMap r

/-- Latch the physical address of an error and its stack (R164, R166). -/
def State.latchEcc (s : State) (p : Nat) : State :=
  ((s.setF SQR_ECCSTAT_STACK (stackOf p)).setF SQR_ECCADDRLO_ADDR p).setF SQR_ECCADDRHI_ADDR (bits p 32 8)

/-- SQR_SPARE of a stack. -/
def spareFld (stack : Nat) : Fld :=
  match stack with
  | 0 => SQR_SPARE_S0
  | 1 => SQR_SPARE_S1
  | 2 => SQR_SPARE_S2
  | _ => SQR_SPARE_S3

/-- A row fails (R169): its copy to a reserve row of the stack starts; without a reserve it stays in service and SPAREOUT is set. -/
def State.spareRow (s : State) (p : Nat) : State :=
  let row := s.rowAt p
  let stack := stackOf p
  if s.sq.sparing.any (fun p => p.1 = row) then s
  else if s.getF (spareFld stack) = 0 then
    if s.flag SQR_ECCSTAT_SPAREOUT then s else (s.setF SQR_ECCSTAT_SPAREOUT 1).evHw 12 [row, stack, 0]
  else { s with sq := { s.sq with sparing := s.sq.sparing ++ [(row, stack)] } }

/-- Has a row shown correctable errors in two or more distinct units within 24 h (R169)? -/
def State.rowFails (s : State) (row : Nat) : Bool :=
  let us := (s.sq.ceRows.filter (fun p => p.1 = row && decide (s.now ≤ p.2.2 + 86400000000000))).map (fun p => p.2.1)
  us.any (fun u => us.any (fun v => v ≠ u))

/-- A read at a physical address finds a correctable error: the data is corrected, the count advances, the address is latched (R166). -/
def State.eccCorrected (s : State) (p : Nat) : State :=
  let s := (s.bump SQR_ECCSTAT_CECNT).latchEcc p
  let s := { s with sq := { s.sq with ceRows := s.sq.ceRows ++ [(s.rowAt p, unitOf p, s.now)] } }
  if s.rowFails (s.rowAt p) then s.spareRow p else s

/-- Add a unit to a list of poisoned ones. -/
def addUnit (u : Nat) (l : List Nat) : List Nat := if l.contains u then l else l ++ [u]

/-- Poison a unit in the frame that a CSN shows: whoever reads that frame meets the poison, and nobody else (R167, R189). -/
def State.poisonUnit (s : State) (u n : Nat) : State :=
  let on (m : Nat) (l : List Nat) : List Nat := if s.sameFrame u n m then addUnit u l else l
  { s with
    sq := { s.sq with poison := on s.sq.csn s.sq.poison, tickPoison := on s.sq.tickCsn s.sq.tickPoison,
                      snaps := s.sq.snaps.map (fun x => { x with poison := on x.csn x.poison }) },
    sched := { s.sched with runs := s.sched.runs.map (fun r => (r.1, { r.2 with basePoison := on r.2.baseCsn r.2.basePoison })) },
    imv := s.imv.map (fun m => (m.1, { m.2 with poison := on m.2.csn m.2.poison })) }

/-- A read at a CSN finds an uncorrectable error: the unit is poisoned, the count advances and an event record is written (R167). -/
def State.eccUncorrectable (s : State) (a n : Nat) : State :=
  let p := s.physAddr a n
  let s := ((s.bump SQR_ECCSTAT_UECNT).latchEcc p).poisonUnit (unitOf a) n
  (s.evHw 1 [p, pageOf a, stackOf p]).spareRow p

/-! What a read finds. The code over 16-bit symbols, 32 of data and 4 of check, each on its own pin group, corrects one symbol and detects up to three
(R165); the page map's entry is looked up in both banks, each with SECDED (R170). -/

/-- The symbols of a unit that are in error in the frame a CSN shows, and that no read has met. -/
def State.cellsAt (s : State) (u n : Nat) : List (Fin 36) :=
  ((s.sq.cells.filter (fun c => c.1 = u && s.sameFrame u c.2.1 n)).flatMap (fun c => c.2.2)).eraseDups

/-- A read of a unit: an error is met, and corrected or poisoned; either way the unit holds it no more. -/
def State.meetUnit (s : State) (n u : Nat) : State :=
  let l := s.cellsAt u n
  if l.isEmpty then s
  else
    let p := s.physAddr u n
    let t : State := { s with sq := { s.sq with cells := s.sq.cells.filter (fun c => !(c.1 = u && s.sameFrame u c.2.1 n)) } }
    if l.length ≤ 1 then t.eccCorrected p else t.eccUncorrectable u n

/-- A lookup of a page's entry in the page map (R170): with each bank at most one bit in error, or only one beyond correction and known to be, the right
entry is told and both are made good; otherwise the copies differ and neither is known right: the Square controller stops its heartbeat. -/
def State.lookMap (s : State) (page : Nat) : State :=
  match s.sq.mapErrs.find? (fun e => e.1 = page) with
  | none => s
  | some (_, a, b) =>
    if (a ≤ 1 && b ≤ 2) || (a ≤ 2 && b ≤ 1) then { s with sq := { s.sq with mapErrs := s.sq.mapErrs.filter (fun e => e.1 ≠ page) } }
    else s.setF SQR_ECCSTAT_PMAPERR 1

/-- The pages of the state space that n bytes at an address touch. -/
def pagesAt (a n : Nat) : List Nat := if n = 0 || !inState a then [] else (List.range ((a + n - 1) / 4096 - a / 4096 + 1)).map (fun i => (a / 4096 + i) * 4096)

/-- A read of n bytes at an address as the state space stands at a CSN: its page-map lookups, and what ECC finds in its units. -/
def State.meet (s : State) (a n csn : Nat) : State :=
  if s.sq.cells.isEmpty && s.sq.mapErrs.isEmpty then s
  else (unitsOf a n).foldl (fun s u => s.meetUnit csn u) ((pagesAt a n).foldl State.lookMap s)

/-- Does such a read find an error it cannot correct, beside the poison already marked? -/
def State.strikes (s : State) (a n csn : Nat) : List Nat := (unitsOf a n).filter (fun u => decide (2 ≤ (s.cellsAt u csn).length))

/-! ### Access control units (R183 to R187) -/

/-- The kind of an access. -/
inductive AccKind where
  | rd | wr | ex | live
deriving DecidableEq, Repr

/-- One enabled region. -/
structure Region where
  base : Nat
  stop : Nat
  rd : Bool
  wr : Bool
  ex : Bool
  dev : Bool
deriving DecidableEq, Repr

/-- A register field of a region, as in force or, where the environment chooses so before the barrier, as pending (R187, log entry 9). -/
def State.acuF (s : State) (nr : Bool) (f : Fld) (ix : Nat) : Nat := if nr then s.asWritten f ix else s.getF f ix

/-- BASE of a slot. -/
def State.acuBase (s : State) (nr : Bool) (ix : Nat) : Nat :=
  s.acuF nr ACU_RBASELO_BASE ix * 4096 + s.acuF nr ACU_RBASEHI_BASE ix * 2 ^ 32
/-- LIMIT of a slot: the address of its last page. -/
def State.acuLimit (s : State) (nr : Bool) (ix : Nat) : Nat :=
  s.acuF nr ACU_RLIMLO_LIMIT ix * 4096 + s.acuF nr ACU_RLIMHI_LIMIT ix * 2 ^ 32

/-- The region in a slot, if it is enabled. -/
def State.region? (s : State) (nr : Bool) (ix : Nat) : Option Region :=
  if s.acuF nr ACU_RATTR_EN ix = 0 then none
  else some { base := s.acuBase nr ix, stop := s.acuLimit nr ix + 4096, rd := s.acuF nr ACU_RATTR_RD ix ≠ 0,
              wr := s.acuF nr ACU_RATTR_WR ix ≠ 0, ex := s.acuF nr ACU_RATTR_EXEC ix ≠ 0, dev := s.acuF nr ACU_RATTR_DEV ix ≠ 0 }

/-- The slot indices of a lane that runs a task: the module slots 0 to 7 and the task's slots 8 to 31 (R183). -/
def laneSlots (t : Nat) : List Nat := (List.range 8) ++ (List.range 24).map (fun i => (0x100 + t) * 32 + 8 + i)
/-- The 32 slots of an engine's ACU, by its ACU_MSEL number. -/
def engineSlots (m : Nat) : List Nat := (List.range 32).map (fun i => m * 32 + i)
/-- The enabled regions of some slots. -/
def State.regionsOf (s : State) (nr : Bool) (l : List Nat) : List Region := l.filterMap (fun i => s.region? nr i)

/-- Does a region permit an access of a kind (R184)? A lane's access other than a live read is refused in a DEV region. -/
def Region.permits (r : Region) (k : AccKind) : Bool :=
  match k with
  | .rd => r.rd && !r.dev
  | .wr => r.wr && !r.dev
  | .ex => r.ex && !r.dev
  | .live => r.rd && r.dev

/-- The first byte of an access that no enabled region permits, part by part (R185). -/
def refusedAt (rs : List Region) (k : AccKind) : Nat → Nat → Nat → Option Nat
  | 0, a, n => if n = 0 then none else some a
  | fuel + 1, a, n =>
    if n = 0 then none
    else match rs.find? (fun r => r.base ≤ a && decide (a < r.stop) && r.permits k) with
      | none => some a
      | some r => refusedAt rs k fuel (a + min n (r.stop - a)) (n - min n (r.stop - a))

/-- The first refused byte of an access through the ACU of a lane that runs a task. -/
def State.laneRefuses (s : State) (nr : Bool) (t : Nat) (k : AccKind) (a n : Nat) : Option Nat :=
  refusedAt (s.regionsOf nr (laneSlots t)) k 33 a n

/-- The first refused byte of an access by an engine. -/
def State.engineRefuses (s : State) (nr : Bool) (m : Nat) (k : AccKind) (a n : Nat) : Option Nat :=
  refusedAt (s.regionsOf nr (engineSlots m)) k 33 a n

/-- The first byte that one of some engines' ACUs refuses of an access in several parts, and that engine: the parts are one access, performed whole or not
at all (R185). -/
def State.enginesRefuse (s : State) (ms : List Nat) (k : AccKind) (parts : List (Nat × Nat)) : Option (Nat × Nat) :=
  ((ms.flatMap (fun m => parts.map (fun p => (m, p)))).find? (fun x => (s.engineRefuses false x.1 k x.2.1 x.2.2).isSome)).bind
    (fun x => (s.engineRefuses false x.1 k x.2.1 x.2.2).map (fun a => (a, x.1)))

/-- Latch a refusal (ACU_FLTLO, ACU_FLTHI): its address, the master as in ACU_MSEL, and whether it was a write. -/
def State.latchRefusal (s : State) (a master : Nat) (write : Bool) : State :=
  let s := (s.setF ACU_FLTLO_ADDR a).setF ACU_FLTHI_ADDR (a / 2 ^ 32)
  ((s.setF ACU_FLTHI_MASTER master).setB ACU_FLTHI_WRITE write).setF ACU_FLTHI_VALID 1

/-- The master that builds, sends and applies the packets of the pair: the image mover moves their content (Table 16-1), and the Boulevard engine the frame
(R185, log entry 96). -/
def pairMasters : List Nat := [0x202, 0x200]

/-- An access by engines goes on, or is refused and latched, with none of it performed (R185). -/
def State.byEngines (s : State) (ms : List Nat) (k : AccKind) (parts : List (Nat × Nat)) (go : State → State) : State :=
  match s.enginesRefuse ms k parts with
  | some r => s.latchRefusal r.1 r.2 (k = .wr)
  | none => go s

/-! ### Tag entries and the walker (R174 to R178) -/

/-- The fields of a tag entry (Table 7-3), of its two words. -/
def teKind (w0 : Nat) : Nat := bits w0 1 3
/-- TY. -/
def teTy (w0 : Nat) : Nat := bits w0 4 4
/-- SAFE. -/
def teSafe (w0 : Nat) : Bool := bitOf w0 10
/-- WTASK. -/
def teWtask (w0 : Nat) : Nat := bits w0 12 8
/-- SIZE. -/
def teSize (w0 : Nat) : Nat := bits w0 32 32
/-- ADDR, or the signal number. -/
def teAddr (w1 : Nat) : Nat := bits w1 0 40
/-- Does the entry name a signal? -/
def teSignal (w0 : Nat) : Bool := teKind w0 = 1 || teKind w0 = 2

/-- The address of a tag's directory entry in the active program store. -/
def State.dirAddr (s : State) (tag : Nat) : Nat := storeBase s.actStore + 0x20000000 + bits tag 12 12 * 8

/-- Is a reserved bit of a tag entry not zero (Table 7-3)? CLASS = 11, and WTASK ≠ 0 on an entry that is no output signal, count as such (DESIGN CHOICE, log
entry 72). -/
def teReserved (w0 w1 : Nat) : Bool :=
  bits w0 8 2 = 3 || bitOf w0 11 || bits w0 20 12 ≠ 0 || bits w1 40 24 ≠ 0 ||
  (teKind w0 ≠ 2 && teWtask w0 ≠ 0) || (teSignal w0 && bits w1 19 21 ≠ 0)

/-- Is an input signal mapped for a task? Without a task, for some task (R266). -/
def State.inMapped (s : State) (t : Option Nat) (sig : Nat) : Bool :=
  match t with
  | some t => (s.taskDef? t).any (fun d => d.inputs.contains sig)
  | none => s.cfg.tasks.any (fun d => d.inputs.contains sig)

/-- A use of an entry by a task: reason 7 if it names an input signal that the task does not map, or an output signal that its writer does not (R177,
R175). -/
def State.useReason (s : State) (t : Option Nat) (w0 w1 : Nat) : Option Nat :=
  if teKind w0 = 1 && !s.inMapped t (bits w1 0 19) then some 7
  else if teKind w0 = 2 && !(s.taskDef? (teWtask w0)).any (fun d => d.outputs.contains (bits w1 0 19)) then some 7
  else none

/-- What the two reads of a walk find in the Square (R176, R177). -/
def State.walkMeet (s : State) (tag : Nat) : State :=
  let da := s.dirAddr tag
  let s := s.meet da 8 s.sq.csn
  let page := bits (leNat (s.sq.bytes da 8)) 12 28 * 4096
  if inDevice page || unmapped page then s else s.meet (page + bits tag 0 12 * 16) 16 s.sq.csn

/-- A walk (R176, R177): the entry's two words, or the first reason met in walk order. -/
def State.walk (s : State) (t : Option Nat) (tag : Nat) : Except Nat (Nat × Nat) :=
  let da := s.dirAddr tag
  let d := leNat (s.sq.bytes da 8)
  let page := bits d 12 28 * 4096
  let ea := page + bits tag 0 12 * 16
  let w0 := leNat (s.sq.bytes ea 8)
  let w1 := leNat (s.sq.bytes (ea + 8) 8)
  if s.sq.bad da 8 then .error 8
  else if !bitOf d 0 then .error 1
  else if bits d 1 11 ≠ 0 || bits d 40 24 ≠ 0 then .error 3
  else if inDevice page then .error 5
  else if unmapped page || page % 65536 ≠ 0 then .error 4
  else if s.sq.bad ea 16 then .error 8
  else if !bitOf w0 0 then .error 2
  else if teReserved w0 w1 then .error 3
  else if teKind w0 > 4 then .error 9
  else if inDevice (teAddr w1) then .error 6
  else match s.useReason t w0 w1 with
    | some r => .error r
    | none => .ok (w0, w1)

/-- Latch a walk fault (SQR_WALKERR, SQR_WALKTAG). -/
def State.latchWalk (s : State) (reason tag : Nat) : State :=
  ((s.setF SQR_WALKERR_REASON reason).setF SQR_WALKERR_VALID 1).setF SQR_WALKTAG_TAG tag

/-- Look up a lane's TTC: 4 ways of the set of tag bits [7:0], the most recently used first (R178). -/
def LaneRt.lookup (l : LaneRt) (tag : Nat) : Option TtcEnt := (tabGet [] l.ttc (tag % 256)).find? (fun e => e.tag = tag)
/-- Fill or touch an entry: it becomes the most recently used of its set, and a fifth one is evicted. -/
def LaneRt.fill (l : LaneRt) (e : TtcEnt) : LaneRt :=
  { l with ttc := tabMod [] l.ttc (e.tag % 256) (fun es => (e :: es.filter (fun x => x.tag ≠ e.tag)).take 4) }

/-- A lane translates a tag for the task it runs: by its TTC, or by a walk that fills it; a fault is latched by the execution (R133). -/
def State.translate (s : State) (lane t tag : Nat) : Except Nat (Nat × Nat) × State :=
  match (s.laneRt lane).lookup tag with
  | some e =>
    (match s.useReason (some t) e.w0 e.w1 with
     | some r => (.error r, s)
     | none => (.ok (e.w0, e.w1), s.modLane lane (fun l => l.fill e)))
  | none =>
    let s := s.walkMeet tag
    (match s.walk (some t) tag with
     | .error r => (.error r, s)
     | .ok (w0, w1) => (.ok (w0, w1), s.modLane lane (fun l => l.fill ⟨tag, w0, w1⟩)))

/-- The place of a tag's entry in the host translation cache: an entry of one program store is none of the other's (R227). -/
def State.hostKey (s : State) (tag : Nat) : Nat := tag + 2 ^ 24 * s.actStore

/-- An entry enters the host translation cache of 16,384 entries (R178); which one a full cache gives up is open. -/
def State.hostFill (s : State) (tag w0 w1 : Nat) : State :=
  let t := tabDel s.sq.host (s.hostKey tag)
  if t.length < 16384 then { s with sq := { s.sq with host := tabSet t (s.hostKey tag) ⟨tag, w0, w1⟩ } }
  else
    let k := s.free
    { k.2 with sq := { k.2.sq with host := tabSet (t.eraseIdx (k.1 % 16384)) (s.hostKey tag) ⟨tag, w0, w1⟩ } }

/-- The host translation cache takes in what a walk answers; a walk fault leaves no entry of the tag in it (R180). -/
def State.hostTook (s : State) (tag : Nat) (walked : Except Nat (Nat × Nat)) : Except Nat (Nat × Nat) × State :=
  match walked with
  | .error r => (.error r, State.latchWalk { s with sq := { s.sq with host := tabDel s.sq.host (s.hostKey tag) } } r tag)
  | .ok (w0, w1) => (.ok (w0, w1), s.hostFill tag w0 w1)

/-- A walk for the host translation cache. -/
def State.hostWalk (s : State) (tag : Nat) : Except Nat (Nat × Nat) × State := let s := s.walkMeet tag; s.hostTook tag (s.walk none tag)

/-- The Roundabout and the image mover translate a tag through the host translation cache; whether an old entry is still in it is open
(R180, log entry 2). What depends on the tasks is judged at each use (R178). -/
def State.hostTranslate (s : State) (tag : Nat) : Except Nat (Nat × Nat) × State :=
  match tabGet? s.sq.host (s.hostKey tag) with
  | some e =>
    let k := Config.hostCacheKeeps tag s.fresh
    let s := { s with fresh := s.fresh + 1 }
    if !k then s.hostWalk tag
    else match s.useReason none e.w0 e.w1 with
      | some r => (.error r, s.latchWalk r tag)
      | none => (.ok (e.w0, e.w1), s)
  | none => s.hostWalk tag

/-- The images of a task (R175). -/
def State.inSlot (s : State) (t sig : Nat) : Nat := ((s.taskDef? t).map TaskDef.inBase).getD 0 + 8 * sig
/-- Status byte of an input signal. -/
def State.inStat (s : State) (t sig : Nat) : Nat := ((s.taskDef? t).map TaskDef.inStat).getD 0 + sig
/-- Value slot of an output signal in its writer's output image. -/
def State.outSlot (s : State) (t sig : Nat) : Nat := ((s.taskDef? t).map TaskDef.outBase).getD 0 + 8 * sig
/-- Status byte of an output signal. -/
def State.outStat (s : State) (t sig : Nat) : Nat := ((s.taskDef? t).map TaskDef.outStat).getD 0 + sig

/-- The operand address an entry gives for a task (R175). -/
def State.opAddr (s : State) (t w0 w1 : Nat) : Nat :=
  match teKind w0 with
  | 1 => s.inSlot t (bits w1 0 19)
  | 2 => s.outSlot (teWtask w0) (bits w1 0 19)
  | _ => teAddr w1

/-- The status byte LSTAT reads (R175, R81). -/
def State.statAddr (s : State) (t w0 w1 : Nat) : Nat :=
  if teKind w0 = 1 then s.inStat t (bits w1 0 19) else s.outStat (teWtask w0) (bits w1 0 19)

end Sys2Proof.Machine
end

