-- ==== Sys2Proof/Machine/Float.lean ====
section
/-! DEFINITION. IEEE 754-2019 binary32 and binary64 arithmetic as R65 asks of it: exact rationals, rounded once by MODE.RND. -/
namespace Sys2Proof.Machine

/-- A binary format: width, precision, least exponent of a unit in the last place, greatest one. -/
structure FpFmt where
  width : Nat
  prec : Nat
  eMin : Int
  eMax : Int
deriving DecidableEq, Repr

/-- binary32. -/
def f32 : FpFmt := ⟨32, 24, -149, 104⟩
/-- binary64. -/
def f64 : FpFmt := ⟨64, 53, -1074, 971⟩

/-- A floating-point datum; a finite one is ± m × 2^e. -/
inductive Fp where
  | nan (signaling : Bool)
  | inf (neg : Bool)
  | fin (neg : Bool) (m : Nat) (e : Int)
deriving DecidableEq, Repr

/-- A result: its bits, overflow (V) and invalid operation (SI). -/
structure FpRes where
  bits : Nat
  v : Bool
  si : Bool
deriving DecidableEq, Repr

/-- The bits of the exponent field all ones, no fraction. -/
def FpFmt.infBits (f : FpFmt) : Nat := (2 ^ (f.width - f.prec) - 1) * 2 ^ (f.prec - 1)
/-- The sign bit. -/
def FpFmt.signBit (f : FpFmt) (neg : Bool) : Nat := if neg then 2 ^ (f.width - 1) else 0
/-- The default quiet NaN of R65. -/
def FpFmt.defNan (f : FpFmt) : Nat := f.infBits + 2 ^ (f.prec - 2)
/-- The largest finite magnitude. -/
def FpFmt.maxBits (f : FpFmt) : Nat := f.infBits - 1

/-- Read the bits of a datum. -/
def FpFmt.decode (f : FpFmt) (v : Nat) : Fp :=
  let neg := bitOf v (f.width - 1)
  let ex := bits v (f.prec - 1) (f.width - f.prec)
  let fr := v % 2 ^ (f.prec - 1)
  if ex = 2 ^ (f.width - f.prec) - 1 then
    if fr = 0 then .inf neg else .nan (!bitOf fr (f.prec - 2))
  else if ex = 0 then .fin neg fr f.eMin
  else .fin neg (2 ^ (f.prec - 1) + fr) (f.eMin + (ex : Int) - 1)

/-- Bits of a finite magnitude q × 2^e with q < 2^prec, and q ≥ 2^(prec − 1) unless e is the least exponent. -/
def FpFmt.pack (f : FpFmt) (neg : Bool) (q : Nat) (e : Int) : Nat :=
  f.signBit neg + (if q < 2 ^ (f.prec - 1) then q else (e - f.eMin + 1).toNat * 2 ^ (f.prec - 1) + (q - 2 ^ (f.prec - 1)))

/-- What an overflow delivers in each rounding mode (R65). -/
def FpFmt.overflowBits (f : FpFmt) (rnd : Nat) (neg : Bool) : Nat :=
  let toInf := match rnd with | 0 => true | 1 => false | 2 => !neg | _ => neg
  f.signBit neg + (if toInf then f.infBits else f.maxBits)

/-- Does the magnitude round away from zero, given the last kept bit and the remainder r of a division by d? -/
def roundUp (rnd : Nat) (neg odd : Bool) (r d : Nat) : Bool :=
  match rnd with
  | 0 => decide (2 * r > d) || (decide (2 * r = d) && odd)
  | 1 => false
  | 2 => !neg && decide (r ≠ 0)
  | _ => neg && decide (r ≠ 0)

/-- Round the positive rational n / d × 2^k. -/
def FpFmt.round (f : FpFmt) (rnd : Nat) (neg : Bool) (n d : Nat) (k : Int) : FpRes :=
  if n = 0 then ⟨f.signBit neg, false, false⟩ else
  let e0 : Int := (n.log2 : Int) - d.log2 - f.prec
  let scale (e : Int) : Nat × Nat := if e ≥ 0 then (n, d * 2 ^ e.toNat) else (n * 2 ^ (-e).toNat, d)
  let s0 := scale e0
  let e1 := if s0.1 ≥ s0.2 * 2 ^ f.prec then e0 + 1 else e0
  let e2 := if e1 + k < f.eMin then f.eMin - k else e1
  let s := scale e2
  let q := s.1 / s.2
  let q1 := if roundUp rnd neg (q % 2 = 1) (s.1 % s.2) s.2 then q + 1 else q
  let q2 := if q1 = 2 ^ f.prec then 2 ^ (f.prec - 1) else q1
  let e3 := (if q1 = 2 ^ f.prec then e2 + 1 else e2) + k
  if e3 > f.eMax then ⟨f.overflowBits rnd neg, true, false⟩ else ⟨f.pack neg q2 e3, false, false⟩

/-- An invalid operation: the default NaN, with SI. -/
def FpFmt.invalid (f : FpFmt) : FpRes := ⟨f.defNan, false, true⟩
/-- A quiet NaN operand: the default NaN, without SI. -/
def FpFmt.quiet (f : FpFmt) : FpRes := ⟨f.defNan, false, false⟩
/-- The result for operands of which at least one is a NaN. -/
def FpFmt.nanRes (f : FpFmt) (sig : Bool) : FpRes := if sig then f.invalid else f.quiet

/-- Is the datum a signaling NaN? -/
def Fp.sig : Fp → Bool
  | .nan s => s
  | _ => false
/-- Is the datum a NaN? -/
def Fp.isNan : Fp → Bool
  | .nan _ => true
  | _ => false

/-- The exact sum of two finite data as a signed integer times 2^(the lesser exponent). -/
def finSum (n1 : Bool) (m1 : Nat) (e1 : Int) (n2 : Bool) (m2 : Nat) (e2 : Int) : Int × Int :=
  let e := min e1 e2
  let a : Int := ((m1 * 2 ^ (e1 - e).toNat : Nat) : Int)
  let b : Int := ((m2 * 2 ^ (e2 - e).toNat : Nat) : Int)
  ((if n1 then -a else a) + (if n2 then -b else b), e)

/-- Addition. -/
def FpFmt.add (f : FpFmt) (rnd x y : Nat) : FpRes :=
  match f.decode x, f.decode y with
  | .nan s, b => f.nanRes (s || b.sig)
  | a, .nan s => f.nanRes (s || a.sig)
  | .inf a, .inf b => if a = b then ⟨f.signBit a + f.infBits, false, false⟩ else f.invalid
  | .inf a, .fin _ _ _ => ⟨f.signBit a + f.infBits, false, false⟩
  | .fin _ _ _, .inf b => ⟨f.signBit b + f.infBits, false, false⟩
  | .fin n1 m1 e1, .fin n2 m2 e2 =>
    let r := finSum n1 m1 e1 n2 m2 e2
    if r.1 = 0 then
      let neg := if m1 = 0 && m2 = 0 && n1 = n2 then n1 else decide (rnd = 3)
      ⟨f.signBit neg, false, false⟩
    else f.round rnd (decide (r.1 < 0)) r.1.natAbs 1 r.2

/-- Flip the sign of the bits. -/
def FpFmt.flip (f : FpFmt) (x : Nat) : Nat := if bitOf x (f.width - 1) then x - 2 ^ (f.width - 1) else x + 2 ^ (f.width - 1)

/-- Subtraction. -/
def FpFmt.sub (f : FpFmt) (rnd x y : Nat) : FpRes := f.add rnd x (f.flip (y % 2 ^ f.width))

/-- Multiplication. -/
def FpFmt.mul (f : FpFmt) (rnd x y : Nat) : FpRes :=
  match f.decode x, f.decode y with
  | .nan s, b => f.nanRes (s || b.sig)
  | a, .nan s => f.nanRes (s || a.sig)
  | .inf a, .inf b => ⟨f.signBit (a != b) + f.infBits, false, false⟩
  | .inf a, .fin b m _ => if m = 0 then f.invalid else ⟨f.signBit (a != b) + f.infBits, false, false⟩
  | .fin a m _, .inf b => if m = 0 then f.invalid else ⟨f.signBit (a != b) + f.infBits, false, false⟩
  | .fin n1 m1 e1, .fin n2 m2 e2 => f.round rnd (n1 != n2) (m1 * m2) 1 (e1 + e2)

/-- Division. -/
def FpFmt.div (f : FpFmt) (rnd x y : Nat) : FpRes :=
  match f.decode x, f.decode y with
  | .nan s, b => f.nanRes (s || b.sig)
  | a, .nan s => f.nanRes (s || a.sig)
  | .inf _, .inf _ => f.invalid
  | .inf a, .fin b _ _ => ⟨f.signBit (a != b) + f.infBits, false, false⟩
  | .fin a _ _, .inf b => ⟨f.signBit (a != b), false, false⟩
  | .fin n1 m1 e1, .fin n2 m2 e2 =>
    if m2 = 0 then (if m1 = 0 then f.invalid else ⟨f.signBit (n1 != n2) + f.infBits, false, false⟩)
    else f.round rnd (n1 != n2) m1 m2 (e1 - e2)

/-- The integer square root, bit by bit from bit `k − 1` down. -/
def isqrtFrom (n : Nat) : Nat → Nat → Nat
  | 0, r => r
  | k + 1, r =>
    let t := r + 2 ^ k
    isqrtFrom n k (if t * t ≤ n then t else r)

/-- Square root. -/
def FpFmt.sqrt (f : FpFmt) (rnd x : Nat) : FpRes :=
  match f.decode x with
  | .nan s => f.nanRes s
  | .inf true => f.invalid
  | .inf false => ⟨f.infBits, false, false⟩
  | .fin neg m e =>
    if m = 0 then ⟨f.signBit neg, false, false⟩
    else if neg then f.invalid
    else
      -- m × 2^e with an even exponent, scaled so that the root keeps at least prec + 2 bits
      let odd := decide (e % 2 ≠ 0)
      let n := (if odd then 2 * m else m) * 2 ^ (2 * (f.prec + 2))
      let h : Int := ((if odd then e - 1 else e) - 2 * (f.prec + 2)) / 2
      let r := isqrtFrom n (2 * f.prec + 4) 0
      -- one more bit below the root says whether the root is exact
      f.round rnd false (2 * r + (if r * r = n then 0 else 1)) 1 (h - 1)

/-- The order of two data that are not NaN: less, equal or greater (−0 equals +0). -/
def fpOrd : Fp → Fp → Ordering
  | .inf a, .inf b => if a = b then .eq else if a then .lt else .gt
  | .inf a, _ => if a then .lt else .gt
  | _, .inf b => if b then .gt else .lt
  | .fin n1 m1 e1, .fin n2 m2 e2 =>
    let r := (finSum n1 m1 e1 (!n2) m2 e2).1
    if r < 0 then .lt else if r = 0 then .eq else .gt
  | _, _ => .eq

/-- Is the first datum below the second when −0 counts as below +0 (R75)? Neither is a NaN. -/
def FpFmt.below (f : FpFmt) (x y : Nat) : Bool :=
  match fpOrd (f.decode x) (f.decode y) with
  | .lt => true
  | .gt => false
  | .eq => bitOf x (f.width - 1) && !bitOf y (f.width - 1)

/-- Round a finite magnitude m × 2^e to an integer. -/
def roundInt (rnd : Nat) (neg : Bool) (m : Nat) (e : Int) : Int :=
  let q : Nat :=
    if e ≥ 0 then m * 2 ^ e.toNat
    else
      let d := 2 ^ (-e).toNat
      let q := m / d
      if roundUp rnd neg (q % 2 = 1) (m % d) d then q + 1 else q
  if neg then -(q : Int) else q

/-- An integer as a datum, rounded. -/
def FpFmt.ofInt (f : FpFmt) (rnd : Nat) (i : Int) : FpRes := f.round rnd (decide (i < 0)) i.natAbs 1 0

/-- A datum of one format in another (R74). -/
def FpFmt.cvt (f g : FpFmt) (rnd x : Nat) : FpRes :=
  match f.decode x with
  | .nan _ => ⟨g.defNan, false, true⟩
  | .inf a => ⟨g.signBit a + g.infBits, false, false⟩
  | .fin n m e => g.round rnd n m 1 e

end Sys2Proof.Machine
end

