-- ==== Sys2Proof/Machine/FlxWord.lean ====
section
/-! DEFINITION. FLX instruction words: the fields of Table 3-6, the row of the opcode table a word spells (Tables 3-7 to 3-9), and the
encodings that raise the illegal-instruction exception with their DETAIL (Table 4-3). -/
namespace Sys2Proof.Machine

/-- The instructions of FLX, one per row of Tables 3-7 to 3-9. -/
inductive FlxRow where
  | logLd | logAnd | logOr | logXor | logSt | logS | logR | logpAnd | logpOr | logpXor
  | ldw | stw | ldwb | stwb | lea | addw | subw | mulw | divw | andw | orw | xorw | minw | maxw | limit
  | shl | shr | rol | ror | ceq | cne | cgt | cge | clt | cle | selw | lstat | tbl | lin | movb
  | ton | tof | tp | ctu | ctd | ctud | crst | cload | edgp | edgn | ldlive | ldliveh
  | jmp | call | loop | loopw
  | nop | endS | popl | notl | setl | clrl | ldbit | stbit | xab | movab | movba | notw | negw | absw | cvt | ldfl | clrf | timew
  | modeset | setev | diag | sync | ret | trap | sqrt
deriving DecidableEq, Repr

/-- An instruction: its word, and the payload of its prefix if it has one (R69). -/
structure FlxW where
  pfx : Option Nat
  w : Nat
deriving DecidableEq, Repr

namespace FlxW

/-- [31:26]. -/
def op (i : FlxW) : Nat := bits i.w 26 6
/-- [25:23]. -/
def am (i : FlxW) : Nat := bits i.w 23 3
/-- [22:19]. -/
def ty (i : FlxW) : Nat := bits i.w 19 4
/-- [18:15]. -/
def n (i : FlxW) : Nat := bits i.w 15 4
/-- [14:0]. -/
def d15 (i : FlxW) : Nat := bits i.w 0 15
/-- [22] of format LG. -/
def neg (i : FlxW) : Bool := bitOf i.w 22
/-- [21:19] of format LG. -/
def lop (i : FlxW) : Nat := bits i.w 19 3
/-- [25:20] of format S. -/
def fn (i : FlxW) : Nat := bits i.w 20 6
/-- [19:0] of format S. -/
def arg (i : FlxW) : Nat := bits i.w 0 20
/-- [25:24] of format B. -/
def cond (i : FlxW) : Nat := bits i.w 24 2
/-- [23:12] of LOOP. -/
def cnt (i : FlxW) : Nat := bits i.w 12 12
/-- [23:20] of LOOPW. -/
def lpn (i : FlxW) : Nat := bits i.w 20 4
/-- [11:0] of format LP. -/
def len (i : FlxW) : Nat := bits i.w 0 12
/-- V of the long form (R69). -/
def v (i : FlxW) : Nat := i.pfx.getD 0 * 2 ^ 15 + i.d15
/-- The signed branch offset in instructions (R69). -/
def off (i : FlxW) : Int :=
  match i.pfx with
  | none => sgn 24 (bits i.w 0 24)
  | some x => sgn 50 (x * 2 ^ 24 + bits i.w 0 24)
/-- The bytes of the instruction, its prefix included. -/
def size (i : FlxW) : Nat := if i.pfx.isSome then 8 else 4

end FlxW

/-- The bytes of a type (Table 3-4). -/
def tySize (ty : Nat) : Nat :=
  match ty with
  | 0 | 1 | 5 => 1
  | 2 | 6 => 2
  | 3 | 7 | 9 => 4
  | _ => 8
/-- The width of a type in bits. -/
def tyWidth (ty : Nat) : Nat := 8 * tySize ty
/-- S types and TIME. -/
def tySigned (ty : Nat) : Bool := (1 ≤ ty && ty ≤ 4) || ty == 11
/-- F32 and F64. -/
def tyFloat (ty : Nat) : Bool := ty == 9 || ty == 10
/-- S and U types. -/
def tySU (ty : Nat) : Bool := 1 ≤ ty && ty ≤ 8

/-- The row of format M that a major opcode names (Table 3-7). -/
def rowM (op : Nat) : Option FlxRow :=
  match op with
  | 0x03 => some .ldw | 0x04 => some .stw | 0x05 => some .ldwb | 0x06 => some .stwb | 0x07 => some .lea
  | 0x08 => some .addw | 0x09 => some .subw | 0x0A => some .mulw | 0x0B => some .divw
  | 0x0D => some .andw | 0x0E => some .orw | 0x0F => some .xorw
  | 0x10 => some .minw | 0x11 => some .maxw | 0x12 => some .limit
  | 0x13 => some .shl | 0x14 => some .shr | 0x15 => some .rol | 0x16 => some .ror
  | 0x18 => some .ceq | 0x19 => some .cne | 0x1A => some .cgt | 0x1B => some .cge | 0x1C => some .clt | 0x1D => some .cle
  | 0x1E => some .selw | 0x1F => some .lstat | 0x20 => some .tbl | 0x21 => some .lin | 0x22 => some .movb
  | 0x24 => some .ton | 0x25 => some .tof | 0x26 => some .tp | 0x27 => some .ctu | 0x28 => some .ctd | 0x29 => some .ctud
  | 0x2A => some .crst | 0x2B => some .cload | 0x2C => some .edgp | 0x2D => some .edgn
  | 0x2E => some .ldlive | 0x2F => some .ldliveh
  | _ => none

/-- The row a SYS function names (Table 3-8). -/
def rowSys (fn : Nat) : Option FlxRow :=
  match fn with
  | 0x00 => some .nop | 0x01 => some .endS | 0x02 => some .popl | 0x03 => some .notl | 0x04 => some .setl | 0x05 => some .clrl
  | 0x06 => some .ldbit | 0x07 => some .stbit | 0x08 => some .xab | 0x09 => some .movab | 0x0A => some .movba
  | 0x0B => some .notw | 0x0C => some .negw | 0x0D => some .absw | 0x0E => some .cvt | 0x0F => some .ldfl | 0x10 => some .clrf
  | 0x11 => some .timew | 0x12 => some .modeset | 0x13 => some .setev | 0x14 => some .diag | 0x15 => some .sync | 0x16 => some .ret
  | 0x17 => some .trap | 0x18 => some .sqrt
  | _ => none

/-- The row a word spells, where OP, FN and LOP name one. -/
def FlxW.row (i : FlxW) : Option FlxRow :=
  match i.op with
  | 0x00 => rowSys i.fn
  | 0x01 => (match i.lop with
    | 0 => some .logLd | 1 => some .logAnd | 2 => some .logOr | 3 => some .logXor | 4 => some .logSt | 5 => some .logS
    | 6 => some .logR | _ => none)
  | 0x02 => (match i.lop with | 1 => some .logpAnd | 2 => some .logpOr | 3 => some .logpXor | _ => none)
  | 0x30 => some .jmp
  | 0x31 => some .call
  | 0x32 => some .loop
  | 0x33 => some .loopw
  | o => rowM o

/-- The instructions that must not stand in a delay slot or in a MODESET shadow (R87, R95). -/
def FlxRow.control : FlxRow → Bool
  | .jmp | .call | .ret | .loop | .loopw | .endS | .sync | .modeset => true
  | _ => false

/-- AM permitted by Table 3-7: TAGI, TAGL, SQI, SQL or SCR ("Mem"). -/
def amMem (am : Nat) : Bool := am ≤ 3 || am == 6

/-- The addressing modes a row permits (Table 3-7). -/
def FlxRow.amOk (r : FlxRow) (am : Nat) : Bool :=
  match r with
  | .stw | .stwb => amMem am || am == 4
  | .lea => am ≤ 3
  | .lstat => am ≤ 1
  | .ldlive | .ldliveh => am == 2 || am == 3
  | .ldw | .ldwb | .addw | .subw | .mulw | .divw | .andw | .orw | .xorw | .minw | .maxw | .limit | .shl | .shr | .rol | .ror
  | .ceq | .cne | .cgt | .cge | .clt | .cle | .selw => am ≤ 6
  | _ => amMem am

/-- The types a row permits (Tables 3-7 and 3-8). -/
def FlxRow.tyOk (r : FlxRow) (ty : Nat) : Bool :=
  match r with
  | .ldw | .stw | .ldwb | .stwb | .lea | .selw => ty ≤ 11
  | .addw | .subw | .mulw | .divw | .minw | .maxw | .limit | .ceq | .cne | .cgt | .cge | .clt | .cle | .tbl => 1 ≤ ty && ty ≤ 11
  | .andw | .orw | .xorw | .shl | .shr | .rol | .ror | .ldlive | .ldliveh | .notw => tySU ty
  | .lstat | .movb => ty == 5
  | .lin | .sqrt => tyFloat ty
  | .negw | .absw => 1 ≤ ty && ty ≤ 11
  | _ => ty == 0

/-- The ARG bits a SYS function uses (Table 3-8). -/
def FlxRow.argMask : FlxRow → Nat
  | .ldbit | .stbit => 6
  | .notw | .negw | .absw | .sqrt | .modeset => 4
  | .cvt => 9
  | .setev | .trap => 8
  | .diag => 16
  | _ => 0

/-- The DETAIL of the illegal-instruction exception a format S word raises, if any (R71). -/
def FlxW.illegalSys (i : FlxW) : Option Nat :=
  match rowSys i.fn with
  | none => some 0x01
  | some r =>
    if i.arg / 2 ^ r.argMask ≠ 0 then some 0x01
    else match r with
      | .notw | .negw | .absw | .sqrt => if r.tyOk (bits i.arg 0 4) then none else some 0x02
      | .cvt => if bits i.arg 0 4 ≤ 11 && bits i.arg 4 4 ≤ 11 then none else some 0x01
      | _ => none

/-- The same for the operand of formats M and LG (R66, R69, R70): `ty` is 0 for format LG, whose type is implied. -/
def FlxW.illegalOpnd (i : FlxW) (r : FlxRow) (ty : Nat) : Option Nat :=
  if i.am = 7 || ty ≥ 12 then some 0x01
  else if (i.am = 1 || i.am = 3) && i.pfx.isNone then some 0x03
  else if !r.amOk i.am || !r.tyOk ty then some 0x02
  else if i.am = 5 && ty = 10 then some 0x02
  else if i.pfx.isSome && (i.am = 1 || (i.am = 5 && ty = 9)) && i.v / 2 ^ 32 ≠ 0 then some 0x03
  else if i.pfx.isSome && i.am = 3 && i.v / 2 ^ 40 ≠ 0 then some 0x03
  else none

/-- Bit-logic combinations R72 forbids: the row is absent, or S or R with NEG = 1. The operand fields are judged first. -/
def FlxW.illegalLg (i : FlxW) : Option Nat :=
  match i.illegalOpnd .logLd 0 with
  | some d => some d
  | none => if i.row.isNone || (i.op = 1 && i.neg && (i.lop = 5 || i.lop = 6)) then some 0x08 else none

/-- May a prefix stand before the word (R69)? -/
def FlxW.pfxOk (i : FlxW) : Bool :=
  i.op == 0x30 || i.op == 0x31 ||
  ((i.op == 1 || i.op == 2 || (rowM i.op).isSome) && (i.am == 1 || i.am == 3 || i.am == 5))

/-- The DETAIL with which the word itself raises the illegal-instruction exception, wherever it stands (Table 4-3). A bit that Table 3-6 fixes at 0 in LOOP or
LOOPW and that is not 0 counts as a reserved encoding (DESIGN CHOICE, log entry 71). -/
def FlxW.illegal (i : FlxW) : Option Nat :=
  let fmtKnown := i.op = 0 || i.op = 1 || i.op = 2 || (rowM i.op).isSome || (0x30 ≤ i.op && i.op ≤ 0x33)
  if i.op = 0x3F then some 0x03
  else if !fmtKnown then some 0x01
  else if i.pfx.isSome && !i.pfxOk then some 0x03
  else match i.op with
    | 0x00 => i.illegalSys
    | 0x01 | 0x02 => i.illegalLg
    | 0x30 | 0x31 => if i.cond = 3 then some 0x07 else none
    | 0x32 => if bits i.w 24 2 ≠ 0 then some 0x01 else if i.len = 0 then some 0x07 else none
    | 0x33 => if bits i.w 24 2 ≠ 0 || bits i.w 12 8 ≠ 0 then some 0x01 else if i.len = 0 then some 0x07 else none
    | _ => (match i.row with | some r => i.illegalOpnd r i.ty | none => some 0x01)

end Sys2Proof.Machine
end

