-- ==== Sys2Proof/Machine/Arcade.lean ====
section
/-! DEFINITION. The Arcade (16, R418 to R433): records and their bytes, samples, the near history, the write credit, the read window and
clearing. -/
namespace Sys2Proof.Machine

/-! ### CRCs (R412, R197) -/

/-- Eight steps of a reflected CRC. -/
def crcBits (poly : Nat) : Nat → Nat → Nat
  | 0, c => c
  | n + 1, c => crcBits poly n (if c % 2 = 1 then c / 2 ^^^ poly else c / 2)

/-- A reflected CRC of w bits with all-ones initial value and final XOR. -/
def crc (w poly : Nat) (bs : List Byte) : Nat :=
  bs.foldl (fun c b => crcBits poly 8 (c ^^^ b.toNat)) (2 ^ w - 1) ^^^ (2 ^ w - 1)

/-- CRC-32C (R412): polynomial 0x1EDC_6F41, reflected. -/
def crc32c (bs : List Byte) : Nat := crc 32 0x82F63B78 bs
/-- The CRC-64 of R197: polynomial 0x42F0_E1EB_A9EA_3693, reflected. -/
def crc64 (bs : List Byte) : Nat := crc 64 0xC96C5795D7870F42 bs

/-! ### Records (Tables 16-5 and 16-6) -/

/-- The length of a record with a payload of n bytes: a multiple of 16. -/
def recLen (n : Nat) : Nat := (0x30 + n + 4 + 15) / 16 * 16

/-- A record's length in bytes. -/
def ArcRec.length (r : ArcRec) : Nat := recLen r.payload.length

/-- A record's bytes up to its CRC. -/
def ArcRec.body (r : ArcRec) : List Byte :=
  natLe 2 r.kind ++ natLe 1 r.flags ++ natLe 1 r.seat ++ natLe 4 r.length ++ natLe 8 r.seq ++ natLe 8 r.csn ++
  natLe 6 (r.time / 1000000000) ++ natLe 2 r.task ++ natLe 4 (r.time % 1000000000) ++ natLe 4 r.epoch ++
  natLe 4 r.payload.length ++ natLe 4 0 ++ r.payload ++ List.replicate (r.length - 4 - 0x30 - r.payload.length) 0

/-- A record's bytes. -/
def ArcRec.bytes (r : ArcRec) : List Byte := r.body ++ natLe 4 (crc32c r.body)

/-- An entry of a COMMIT payload: its head and its content. -/
def entry (type : Nat) (content : List Byte) : List Byte := natLe 4 (type + 256 * (4 + content.length)) ++ content

/-- A sample's 16 bytes. -/
def Samp.bytes (p : Samp) : List Byte := natLe 4 p.tag ++ natLe 1 p.status ++ natLe 1 p.ty ++ natLe 2 0 ++ natLe 8 p.value

/-- A HISTSAMPLES entry. -/
def sampEntry (l : List Samp) : List Byte := entry 0x04 (natLe 4 l.length ++ l.flatMap Samp.bytes)

/-- What a COMMIT record holds beside its header. -/
structure CommitBody where
  flags : Nat
  baseCsn : Nat
  tick : Nat
  ohash : Nat
  chash : Nat
  hostw : List (Nat × Nat × Nat)
  events : List (Nat × Nat × Nat × List Byte)
  samples : List Samp
deriving DecidableEq, Repr

/-- The payload of a COMMIT record up to its samples. -/
def CommitBody.head (b : CommitBody) : List Byte :=
  entry 0x01 (natLe 4 b.flags ++ natLe 8 b.baseCsn ++ natLe 8 b.tick ++ natLe 8 b.ohash ++ natLe 8 b.chash) ++
  (if b.hostw.isEmpty then []
   else entry 0x02 (b.hostw.flatMap fun h => natLe 8 h.1 ++ natLe 4 h.2.1 ++ natLe 2 h.2.2 ++ natLe 2 0)) ++
  b.events.flatMap fun e => entry 0x03 (natLe 2 e.1 ++ natLe 2 e.2.1 ++ natLe 4 e.2.2.1 ++ natLe 4 e.2.2.2.length ++ e.2.2.2)

/-- How many samples fit beside a payload of n bytes in 32,768 bytes. -/
def sampRoom (n : Nat) : Nat := (32768 - 0x30 - 4 - n - 8) / 16

/-- The rest of the samples in COMMITX records of at most 2,043 samples. -/
def commitx (mk : Nat → List Byte → ArcRec) : Nat → Nat → List Samp → List ArcRec
  | 0, _, _ => []
  | fuel + 1, seq, l =>
    if l.isEmpty then [] else mk seq (sampEntry (l.take (sampRoom 0))) :: commitx mk fuel (seq + 1) (l.drop (sampRoom 0))

/-- Append a commit's record, and COMMITX records for samples that do not fit (R420): staged, not yet programmed. -/
def State.arcCommit (s : State) (csn time task : Nat) (b : CommitBody) : State :=
  let mk (kind seq : Nat) (p : List Byte) : ArcRec :=
    { kind := kind, flags := 0, seat := s.seat, seq := seq, csn := csn, time := time, task := task, epoch := s.epoch, payload := p,
      prog := false }
  let n := sampRoom b.head.length
  let first := mk 1 s.arc.cycSeq (b.head ++ (if b.samples.isEmpty then [] else sampEntry (b.samples.take n)))
  let more := commitx (mk 2) b.samples.length (s.arc.cycSeq + 1) (b.samples.drop n)
  { s with arc := { s.arc with cyc := s.arc.cyc ++ first :: more, cycSeq := s.arc.cycSeq + 1 + more.length } }

/-! ### The write credit (R425) and the ring of the two logs (R418) -/

/-- The cap of the write credit: 8.64 TB. -/
def creditCap : Int := 8640000000000

/-- The credit at the present time: it grows at 100 MB/s, one byte in 10 ns. -/
def State.creditNow (s : State) : Int := min creditCap (s.arc.credit + ((s.now - s.arc.creditAt) / 10 : Nat))

/-- Draw bytes from the credit, down to −864 GB, and show it in ARC_STAT. -/
def State.setCredit (s : State) (c : Int) : State :=
  let c := max c (-864000000000)
  let s := { s with arc := { s.arc with credit := c, creditAt := s.now } }
  (s.setB ARC_STAT_OVERBUDGET (decide (c < 0))).setF ARC_STAT_CREDIT (if c < 0 then 0 else (c * 100 / creditCap).toNat)

/-- The bytes of a log. -/
def logBytes (l : List ArcRec) : Nat := (l.map ArcRec.length).foldl (· + ·) 0

/-- The capacity the two logs share: 32 TB less the 64 GiB of the retained area. -/
def arcCapacity : Nat := 32000000000000 - 64 * 2 ^ 30

/-- Release the oldest records of either log until at most `room` bytes are held, in extents of 1 GiB (R418). -/
def State.arcRelease (s : State) : Nat → State
  | 0 => s
  | fuel + 1 =>
    if logBytes s.arc.cyc + logBytes s.arc.evs ≤ arcCapacity then s
    else match s.arc.cyc, s.arc.evs with
      | c :: cs, e :: es =>
        if c.time ≤ e.time then State.arcRelease { s with arc := { s.arc with cyc := cs } } fuel
        else State.arcRelease { s with arc := { s.arc with evs := es } } fuel
      | _ :: cs, [] => State.arcRelease { s with arc := { s.arc with cyc := cs } } fuel
      | [], _ :: es => State.arcRelease { s with arc := { s.arc with evs := es } } fuel
      | [], [] => s

/-- Mark the first record of a log that is not yet programmed. -/
def programFirst : List ArcRec → List ArcRec × Option ArcRec
  | [] => ([], none)
  | r :: rs => if r.prog then (r :: (programFirst rs).1, (programFirst rs).2) else ({ r with prog := true } :: rs, some r)

/-- The join allowance: 64 full fills of the user capacity (R426). -/
def joinAllowance : Nat := 64 * arcCapacity

/-- ARCADE_RECORD_PROGRAM (R424): the oldest staged record of a log is programmed to flash; it draws from the credit, or, back-filled, from the
join allowance while that lasts (R426), and the retained values of its commit are complete (R55). -/
def execArcadeRecordProgram (event : Bool) (s : State) : Host.Outcome State Fault Refusal :=
  done (
    let p := programFirst (if event then s.arc.evs else s.arc.cyc)
    match p.2 with
    | none => s
    | some r =>
      let s := if event then { s with arc := { s.arc with evs := p.1 } } else { s with arc := { s.arc with cyc := p.1 } }
      let ready := if event then [] else s.arc.retStaged.filter (fun q => decide (q.1 ≤ r.csn))
      let ret := ready.foldl (fun o q => ovlLay o q.2) s.arc.ret
      let drawn := r.length + ((ready.map (fun q => q.2.length)).foldl (· + ·) 0)
      let s := { s with arc := { s.arc with ret := ret, retCsn := if event then s.arc.retCsn else max s.arc.retCsn r.csn,
                                            retGen := if ready.isEmpty || r.csn < s.get64 SCH_OLCCSNLO_CSN SCH_OLCCSNHI_CSN then s.arc.retGen
                                              else some (s.get64 PAR_CFGGENLO_CFGGEN PAR_CFGGENHI_CFGGEN),
                                            retStaged := if event then s.arc.retStaged
                                              else s.arc.retStaged.filter (fun q => decide (q.1 > r.csn)) } }
      let s : State :=
        if bitOf r.flags 2 && s.arc.joinUsed < joinAllowance then { s with arc := { s.arc with joinUsed := s.arc.joinUsed + drawn } }
        else s.setCredit (s.creditNow - (drawn : Nat))
      s.arcRelease (s.arc.cyc.length + s.arc.evs.length))

/-- WEAR_GOVERNOR_STEP (R425, R432): hourly, below 25 % of the cap k rises to at most 6, at or above 50 % it falls to at least 0. The life
used is what the flash reports. -/
def execWearGovernorStep (used : BitVec 14) (s : State) : Host.Outcome State Fault Refusal :=
  done (
    let c := s.creditNow
    let k := s.getF ARC_STAT_STRETCH
    let k := if c * 4 < creditCap then min 6 (k + 1) else if c * 2 ≥ creditCap then k - 1 else k
    ((s.setCredit c).setF ARC_STAT_STRETCH k).setF ARC_WEAR_USED used.toNat)

/-- FLASH_TEMPERATURE_HOT (R426): the flash temperature crosses 85 °C; HOT halves the back-fill rate while it is set. -/
def execFlashTemperatureHot (hot : Bool) (s : State) : Host.Outcome State Fault Refusal := done (s.setB ARC_STAT_HOT hot)

/-! ### Samples and the near history (R421, R423) -/

/-- |x − y| > DB for two finite data, exactly. -/
def fpBeyond (db x y : Fp) : Bool :=
  match x, y, db with
  | .fin n1 m1 e1, .fin n2 m2 e2, .fin _ m3 e3 =>
    let d := finSum n1 m1 e1 (!n2) m2 e2
    let r := finSum false d.1.natAbs d.2 true m3 e3
    decide (r.1 > 0)
  | .inf a, .inf b, _ => a != b
  | .inf _, .fin _ _ _, _ => true
  | .fin _ _ _, .inf _, _ => true
  | _, _, _ => false

/-- Do two values of a type differ by more than a deadband of that type, or is one a NaN with other bits (R119, R423)? -/
def beyond (ty db a b : Nat) : Bool :=
  if tyFloat ty then
    let f := if ty = 9 then f32 else f64
    let x := f.decode (a % 2 ^ f.width)
    let y := f.decode (b % 2 ^ f.width)
    if x.isNan || y.isNan then decide (a % 2 ^ f.width ≠ b % 2 ^ f.width) else fpBeyond (f.decode (db % 2 ^ f.width)) x y
  else
    let v (n : Nat) : Int := if tySigned ty then sgn (tyWidth ty) n else ((n % 2 ^ tyWidth ty : Nat) : Int)
    decide ((v a - v b).natAbs > db)

/-- HEAD of a log: the highest visible SEQ; TAIL: the lowest it holds (R427). Both are 0 while it holds nothing. -/
def logHead (l : List ArcRec) : Nat := (l.getLast?.map ArcRec.seq).getD 0
/-- TAIL. -/
def logTail (l : List ArcRec) : Nat := (l.head?.map ArcRec.seq).getD 0

/-- A log by ARC_LOGSEL. -/
def Arcade.log (a : Arcade) (ev : Nat) : List ArcRec := if ev = 0 then a.cyc else a.evs

/-! ### The read window (R429) -/

/-- Writing ARC_CURHI starts the copy: READY falls until it is complete. -/
def State.cursorStart (s : State) (path : Path) (hi : Nat) : State :=
  let p := path.code
  let s := (s.setF ARC_CURHI_S hi p).setF ARC_CURSTAT_READY 0 p
  let s := (s.setF ARC_CURSTAT_GAP 0 p).setF ARC_CURSTAT_NONE 0 p
  { s with arc := { s.arc with curAsk := tabSet s.arc.curAsk p (s.getF ARC_LOGSEL_LOG p) } }

/-- ARC_CURSOR_WRITE. -/
def execArcCursorWrite (path : Path) (v : W32) (s : State) : Host.Outcome State Fault Refusal := done (s.written path 0x110034 (fun s => s.cursorStart path v.toNat))

/-- ARC_CURSOR_READY: the window shows a copy of the record of the lowest SEQ at or above the cursor, and FOUND, GAP and NONE tell what was
found. Nothing happens without a copy in progress. -/
def execArcCursorReady (path : Path) (s : State) : Host.Outcome State Fault Refusal :=
  done (
    let p := path.code
    match tabGet? s.arc.curAsk p with
    | none => s
    | some lg =>
      let c := s.get64 ARC_CURLO_S ARC_CURHI_S p
      let s := { s with arc := { s.arc with curAsk := tabDel s.arc.curAsk p } }
      match (s.arc.log lg).find? (fun r => decide (r.seq ≥ c)) with
      | none =>
        let s := { s with arc := { s.arc with wins := tabDel s.arc.wins p } }
        (s.setF ARC_CURSTAT_READY 1 p).setF ARC_CURSTAT_NONE 1 p
      | some r =>
        let s := { s with arc := { s.arc with wins := tabSet s.arc.wins p r.bytes } }
        let s := s.set64 ARC_FOUNDLO_S ARC_FOUNDHI_S r.seq p
        (s.setF ARC_CURSTAT_READY 1 p).setB ARC_CURSTAT_GAP (decide (r.seq > c)) p)

/-- NEXT: the cursor moves to FOUND + 1, which is writing it, so a copy of the next record starts. -/
def State.cmdArcNext (s : State) (path : Path) : State :=
  let f := s.get64 ARC_FOUNDLO_S ARC_FOUNDHI_S path.code + 1
  (s.setF ARC_CURLO_S f path.code).cursorStart path (f / 2 ^ 32)
/-- NEXT: the write reaches its block, which takes it as `State.cmdArcNext` says. -/
def execArcNext (path : Path) (s : State) : Host.Outcome State Fault Refusal := done (s.written path 0x110038 (fun s => s.cmdArcNext path))

/-! ### Clearing (R430) -/

/-- The offset of ARC_CLRCMD. -/
def clrOff : Nat := 0x110050

/-- The CLEAR record: the command, the range's end, the access path and the session. -/
def State.clearRecord (s : State) (path : Path) (cmd upTo : Nat) : State :=
  s.event 0x010A 0xFFFF (words [cmd, upTo, path.code, match path with | .mgmt _ => 0xFFFF | .queue n => n.val])

/-- CLREVT: event records up to s go, except SAFETY records unless SAFE = 1, and except CLEAR records. -/
def State.cmdArcClrevt (s : State) (path : Path) (safe : Bool) : State :=
  if safe && !s.safetyEdit then s.ignored path clrOff 1
  else if !s.updateEnable then s.ignored path clrOff 2
  else
    let n := s.get64 ARC_CLRLO_S ARC_CLRHI_S
    let keep (r : ArcRec) : Bool := decide (r.seq > n) || r.kind = 0x010A || (r.kind = 0x0106 && !safe)
    State.clearRecord { s with arc := { s.arc with evs := s.arc.evs.filter keep } } path 1 n
/-- CLREVT: the write reaches its block, which takes it as `State.cmdArcClrevt` says. -/
def execArcClrevt (path : Path) (safe : Bool) (s : State) : Host.Outcome State Fault Refusal := done (s.written path clrOff (fun s => s.cmdArcClrevt path safe))

/-- CLRCYC: cycle records up to s go; the record at HEAD is never cleared. -/
def State.cmdArcClrcyc (s : State) (path : Path) : State :=
  if !s.updateEnable then s.ignored path clrOff 2
  else
    let n := s.get64 ARC_CLRLO_S ARC_CLRHI_S
    let h := logHead s.arc.cyc
    State.clearRecord { s with arc := { s.arc with cyc := s.arc.cyc.filter (fun r => decide (r.seq > n) || r.seq = h) } } path 2 n
/-- CLRCYC: the write reaches its block, which takes it as `State.cmdArcClrcyc` says. -/
def execArcClrcyc (path : Path) (s : State) : Host.Outcome State Fault Refusal := done (s.written path clrOff (fun s => s.cmdArcClrcyc path))

/-- ERASE: with both switches, in START or FENCED; both logs and the retained area are empty, and a CLEAR record is the first event. -/
def State.cmdArcErase (s : State) (path : Path) : State :=
  if !s.safetyEdit then s.ignored path clrOff 1
  else if !s.updateEnable then s.ignored path clrOff 2
  else if s.getF PAR_STAT_STATE ≠ 0 && s.getF PAR_STAT_STATE ≠ 8 then s.ignored path clrOff 4
  else
    State.clearRecord { s with arc := { s.arc with cyc := [], evs := [], retStaged := [], ret := [], retCsn := 0, retGen := none } } path 3 0
/-- ERASE: the write reaches its block, which takes it as `State.cmdArcErase` says. -/
def execArcErase (path : Path) (s : State) : Host.Outcome State Fault Refusal := done (s.written path clrOff (fun s => s.cmdArcErase path))

end Sys2Proof.Machine
end

