-- ==== Sys2Proof/Machine/Operands.lean ====
section
/-! DEFINITION. The operands of an FLX instruction (R63 to R68): resolving, aligning and checking them, what a stream reads and where its
stores go, with every exception in the order of Table 4-2. -/
namespace Sys2Proof.Machine

/-- What an instruction works on: the machine, the execution it belongs to, and its stream. -/
structure Mx where
  s : State
  r : Run
  st : StreamRt

/-- What is fixed while one instruction executes. -/
structure Cx where
  t : Nat
  d : TaskDef
  k : Nat
  ctx : Ctx
  lane : Nat
  e : Env
  i : FlxW

/-- The outcome of a part of an instruction: it goes on, or it raises an exception having changed nothing but latches (R97). -/
inductive XR (α : Type) where
  | ok (a : α) (m : Mx)
  | xcp (x : Xcp) (m : Mx)

/-- Go on with the next part. -/
def XR.bind {α β : Type} (x : XR α) (f : α → Mx → XR β) : XR β :=
  match x with
  | .ok a m => f a m
  | .xcp x m => .xcp x m

/-- Raise an exception. -/
def raise {α : Type} (m : Mx) (code detail addr : Nat) : XR α := .xcp ⟨code, detail, addr, 0⟩ m

/-- Extend the low bits of a value by its type, as a load does (R64). -/
def ext (ty v : Nat) : Nat := if tySigned ty then unsgn 64 (sgn (tyWidth ty) v) else v % 2 ^ tyWidth ty

/-- Register W[n]. -/
def StreamRt.reg (st : StreamRt) (n : Nat) : Nat := (st.w.getD n 0).toNat
/-- Set W[n]. -/
def StreamRt.setReg (st : StreamRt) (n v : Nat) : StreamRt := { st with w := st.w.set n (BitVec.ofNat 64 v) }

/-- Change the stream. -/
def Mx.setSt (m : Mx) (f : StreamRt → StreamRt) : Mx := { m with st := f m.st }
/-- Set WA. -/
def Mx.setWa (m : Mx) (v : Nat) : Mx := m.setSt fun st => { st with wa := BitVec.ofNat 64 v }
/-- Set WB. -/
def Mx.setWb (m : Mx) (v : Nat) : Mx := m.setSt fun st => { st with wb := BitVec.ofNat 64 v }
/-- Set LA. -/
def Mx.setLa (m : Mx) (b : Bool) : Mx := m.setSt fun st => { st with la := b }

/-! ### What a stream reads, and its stores (R33, R84, R123, R171) -/

/-- A byte as a stream sees it: its own stores first, then those shared at SYNC, then the captured image with the host batches, then the
state at the base CSN; the program store as it is. -/
def Mx.byte (m : Mx) (a : Nat) : Byte :=
  match tabGet? m.st.own a with
  | some b => b
  | none => match tabGet? m.r.shared a with
    | some b => b
    | none => match tabGet? m.r.img a with
      | some b => b
      | none => if inState a then memRd m.r.base a else memRd m.s.sq.code a

/-- n bytes. -/
def Mx.bytes (m : Mx) (a : Nat) : Nat → List Byte
  | 0 => []
  | n + 1 => m.byte a :: m.bytes (a + 1) n

/-- Has the execution itself written the byte (R124)? -/
def Mx.wrote (m : Mx) (a : Nat) : Bool := tabHas m.st.own a || tabHas m.r.shared a

/-- Is the byte in the task's input image (SRC of Table 5-1)? -/
def inImage (d : TaskDef) (a : Nat) : Bool :=
  (d.inBase ≤ a && decide (a < d.inBase + 0x400000)) || (d.inStat ≤ a && decide (a < d.inStat + 0x80000))

/-- Record a read in the read set (R124): the value at the byte's first read. -/
def Mx.record (c : Cx) (m : Mx) (a : Nat) : Nat → Mx
  | 0 => m
  | n + 1 =>
    let m' := if m.wrote a || tabHas m.r.reads a then m
      else { m with r := { m.r with reads := tabSet m.r.reads a (m.byte a, inImage c.d a),
                                    words := if m.r.words.contains (a / 8) then m.r.words else a / 8 :: m.r.words } }
    m'.record c (a + 1) n

/-- Note the reads of a speculative run in the state space (program stores are not recorded, R124); the 65,537th entry abandons it (R126). -/
def Mx.note (c : Cx) (m : Mx) (a n : Nat) : Mx :=
  if c.ctx = .spec && inState a then
    let m := m.record c a n
    if m.r.words.length > 65536 then { m with r := { m.r with abandoned := true } } else m
  else m

/-- The ADDR that names the operand in an exception record: its tag or sum for a tag operand, its Square address otherwise. -/
def Cx.named (c : Cx) (m : Mx) (a : Nat) : Nat :=
  match c.i.am with
  | 0 => m.st.reg c.i.n % 2 ^ 32 + c.i.d15
  | 1 => c.i.v % 2 ^ 32
  | 6 => 0
  | _ => a

/-- Latch what an exception latches. -/
def State.latch (s : State) (l : Latch) : State :=
  match l with
  | .refusal a master write => s.latchRefusal a master write
  | .walk reason tag => s.latchWalk reason tag

/-- The same in an execution: of a speculative run, nothing is seen until it is confirmed (R133). -/
def Mx.latch (c : Cx) (m : Mx) (l : Latch) : Mx :=
  if c.ctx = .spec then { m with r := { m.r with latch := some l } } else { m with s := m.s.latch l }

/-- An access that the lane's ACU refuses: ADDR names it, and the refusal is latched. -/
def Mx.refuse (c : Cx) (m : Mx) (k : AccKind) (b addr : Nat) : XR Unit :=
  .xcp ⟨0x06, 0x01, addr, 0⟩ (m.latch c (.refusal b (0x100 + c.t) (k = .wr)))

/-- Check an access through the lane's ACU (R184, R185). -/
def Mx.check (c : Cx) (m : Mx) (k : AccKind) (a n : Nat) : XR Unit :=
  match m.s.laneRefuses c.e.newRules c.t k a n with
  | some b => m.refuse c k b (c.named m a)
  | none => .ok () m

/-- What a read of the Square finds on its way to a stream; what it poisons, the run reads as poisoned too. -/
def Mx.meet (m : Mx) (a n : Nat) : Mx :=
  { m with r := { m.r with basePoison := m.r.basePoison ++ m.s.strikes a n m.r.baseCsn }, s := m.s.meet a n m.r.baseCsn }

/-- Does a read meet a poisoned unit? -/
def Mx.poisoned (m : Mx) (a n : Nat) : Bool := (unitsOf a n).any (fun u => m.r.basePoison.contains u || m.s.sq.poison.contains u && !inState u)

/-- A Square read of n bytes that has passed its checks: what ECC finds, unless the run has written every byte itself; the read set, the bytes. A unit
already poisoned is reported anew (R167). -/
def Mx.load (c : Cx) (m : Mx) (a n : Nat) : XR (List Byte) :=
  let old := m.poisoned a n
  let m := if (List.range n).all (fun j => m.wrote (a + j)) then m else m.meet a n
  if m.poisoned a n && !(List.range n).all (fun j => m.wrote (a + j)) then
    .xcp ⟨0x07, 0, a, 0⟩ (if old then { m with s := (m.s.bump SQR_ECCSTAT_UECNT).latchEcc (m.s.physAddr a m.r.baseCsn) } else m)
  else
    let m := m.note c a n
    .ok (m.bytes a n) m

/-- The pages a store needs in the overlay pool (R123). -/
def newPages (have_ : List Nat) (a n : Nat) : List Nat :=
  if n = 0 then have_
  else (List.range ((a + n - 1) / 4096 - a / 4096 + 1)).foldl
    (fun l j => if l.contains (a / 4096 + j) then l else (a / 4096 + j) :: l) have_

/-- A store that has passed its checks: it stands among the stream's own stores until the next SYNC (R84); in a speculative run it takes
pages of the overlay pool, and an empty pool abandons the run, which is counted once (R123, R126, R140). -/
def Mx.store (c : Cx) (m : Mx) (a : Nat) (bs : List Byte) : Mx :=
  let m := m.setSt fun st => { st with own := ovlWrL st.own a bs }
  if c.ctx = .spec then
    let ps := newPages m.r.pages a bs.length
    let more := ps.length - m.r.pages.length
    if m.s.getF SPC_POOLUSE_PAGES + more > m.s.getF SPC_CTL_POOLGIB * 2 ^ 18 then
      { m with r := { m.r with abandoned := true }, s := if m.r.abandoned then m.s else m.s.bump SPC_POOLUSE_POOLFULL }
    else { m with r := { m.r with pages := ps }, s := m.s.setF SPC_POOLUSE_PAGES (m.s.getF SPC_POOLUSE_PAGES + more) }
  else m

/-! ### Operands -/

/-- A resolved operand. -/
inductive Opnd where
  | sq (a : Nat)
  | reg (n : Nat)
  | imm (v : Nat)
  | scr (o : Nat)
deriving DecidableEq, Repr

/-- The immediate value (R66), to be taken at the type. -/
def FlxW.immVal (i : FlxW) : Nat :=
  match i.pfx with
  | none => if i.ty = 9 then i.d15 * 2 ^ 17 else if tySigned i.ty then unsgn 64 (sgn 15 i.d15) else i.d15
  | some _ => if tySigned i.ty then unsgn 64 (sgn 41 i.v) else i.v

/-- Translate the tag of a TAGI or TAGL operand: bits above 23 (R67), then the walk (R177). -/
def Mx.tagEntry (c : Cx) (m : Mx) (tag : Nat) : XR (Nat × Nat) :=
  if tag / 2 ^ 24 ≠ 0 then raise m 0x04 0x01 tag
  else match m.s.translate c.lane c.t tag with
    | (.error r, s) => raise (Mx.latch c { m with s := s } (.walk r tag)) 0x04 0x03 tag
    | (.ok e, s) => .ok e { m with s := s }

/-- The Square address of a tag or Square operand and whether R67 refuses a store to it; alignment is judged before access (Table 4-2),
and the index register's high bits raise the access fault (R68). `ty` is the type to hold against the tag entry. -/
def Mx.address (c : Cx) (m : Mx) (ty align : Nat) : XR (Nat × Bool) :=
  match c.i.am with
  | 0 | 1 =>
    let tag := c.named m 0
    (m.tagEntry c tag).bind fun e m =>
      if teTy e.1 ≠ ty then raise m 0x04 0x02 tag
      else
        let a := m.s.opAddr c.t e.1 e.2
        if a % align ≠ 0 then raise m 0x05 0 tag
        else .ok (a, teKind e.1 = 1 || (teKind e.1 = 2 && teWtask e.1 ≠ c.t)) m
  | 2 =>
    let a := unsgn 40 ((m.st.reg c.i.n % 2 ^ 40 : Nat) + sgn 15 c.i.d15)
    if a % align ≠ 0 then raise m 0x05 0 a
    else if m.st.reg c.i.n / 2 ^ 40 ≠ 0 then raise m 0x06 0x03 a
    else .ok (a, false) m
  | _ => if c.i.v % 2 ^ 40 % align ≠ 0 then raise m 0x05 0 (c.i.v % 2 ^ 40) else .ok (c.i.v % 2 ^ 40, false) m

/-- Resolve, align and check an operand of `size` bytes (R66 to R68, R497): `rd` and `wr` say which accesses it is for. -/
def Mx.operand (c : Cx) (m : Mx) (size align : Nat) (rd wr : Bool) : XR Opnd :=
  match c.i.am with
  | 4 => .ok (.reg c.i.n) m
  | 5 => .ok (.imm c.i.immVal) m
  | 6 =>
    let o := m.st.reg c.i.n % 2 ^ 17 + c.i.d15
    if o % align ≠ 0 then raise m 0x05 0 0
    else if o + size > 131072 then raise m 0x06 0x03 0
    else .ok (.scr o) m
  | _ =>
    (m.address c (if c.i.op = 1 || c.i.op = 2 then 0 else c.i.ty) align).bind fun p m =>
      if wr && p.2 then raise m 0x06 0x02 (c.named m p.1)
      else
        (if wr then m.check c .wr p.1 size else .ok () m).bind fun _ m =>
        (if rd then m.check c .rd p.1 size else .ok () m).bind fun _ m =>
        .ok (.sq p.1) m

/-- Bytes of the scratch window (R60). -/
def scrBytes (t : Tab Byte) (o n : Nat) : List Byte := memRdL t o n

/-- Read n bytes at an offset of a memory operand that has been checked. -/
def Mx.fetch (c : Cx) (m : Mx) (o : Opnd) (off n : Nat) : XR (List Byte) :=
  match o with
  | .sq a => m.load c (a + off) n
  | .scr p => .ok (scrBytes m.st.scr (p + off) n) m
  | .reg r => .ok (natLe n (m.st.reg r)) m
  | .imm v => .ok (natLe n v) m

/-- Write bytes at an offset of a memory operand that has been checked. -/
def Mx.put (c : Cx) (m : Mx) (o : Opnd) (off : Nat) (bs : List Byte) : Mx :=
  match o with
  | .sq a => m.store c (a + off) bs
  | .scr p => m.setSt fun st => { st with scr := memWrL st.scr (p + off) bs }
  | _ => m

/-- The source operand's value, extended by its type (R64). -/
def Mx.source (c : Cx) (m : Mx) : XR Nat :=
  let n := tySize c.i.ty
  (m.operand c n n true false).bind fun o m =>
  (m.fetch c o 0 n).bind fun bs m => .ok (ext c.i.ty (leNat bs)) m

/-- Store a value: the low bytes of its type to memory or scratch, the whole extended value to W[n] (R64). -/
def Mx.storeVal (c : Cx) (m : Mx) (v : Nat) : XR Unit :=
  let n := tySize c.i.ty
  (m.operand c n n false true).bind fun o m =>
  match o with
  | .reg r => .ok () (m.setSt fun st => st.setReg r (ext c.i.ty v))
  | o => .ok () (m.put c o 0 (natLe n v))

end Sys2Proof.Machine
end

