-- ==== Sys2Proof/Machine/Flags.lean ====
section
/-! DEFINITION. The results and flags of the word instructions (R61, R64, R65, R70, R71, R74, R75). -/
namespace Sys2Proof.Machine

/-- What an operation hands back: new WA, WB and LA where it writes them, the flags Z, N, C, V and U it writes, the sticky flags it sets,
and whether it raises the arithmetic trap instead (R64). -/
structure WordRes where
  wa : Option Nat := none
  wb : Option Nat := none
  la : Option Bool := none
  z : Option Bool := none
  n : Option Bool := none
  c : Option Bool := none
  v : Option Bool := none
  u : Option Bool := none
  si : Bool := false
  sd : Bool := false
  trap : Bool := false

/-- MODE.RND. -/
def modeRnd (m : BitVec 4) : Nat := m.toNat % 4
/-- MODE.SAT. -/
def modeSat (m : BitVec 4) : Bool := bitOf m.toNat 2
/-- MODE.TRAPV. -/
def modeTrapv (m : BitVec 4) : Bool := bitOf m.toNat 3

/-- Write a flag bit. -/
def putBit (fl : BitVec 8) (k : Nat) (b : Bool) : BitVec 8 :=
  BitVec.ofNat 8 (if bitOf fl.toNat k then (if b then fl.toNat else fl.toNat - 2 ^ k) else (if b then fl.toNat + 2 ^ k else fl.toNat))
/-- Write a flag bit if the operation writes it. -/
def putBit? (fl : BitVec 8) (k : Nat) : Option Bool → BitVec 8
  | none => fl
  | some b => putBit fl k b

/-- FL after an operation (Table 3-2): SV follows V, and the sticky flags only gather. -/
def WordRes.flags (w : WordRes) (fl : BitVec 8) : BitVec 8 :=
  let fl := putBit? (putBit? (putBit? (putBit? (putBit? fl 0 w.z) 1 w.n) 2 w.c) 3 w.v) 4 w.u
  let fl := if w.v = some true then putBit fl 5 true else fl
  let fl := if w.si then putBit fl 6 true else fl
  if w.sd then putBit fl 7 true else fl

/-- Apply a result to the stream, or raise the arithmetic trap, which writes nothing (R64, R97). -/
def WordRes.apply (w : WordRes) (m : Mx) : XR Unit :=
  if w.trap then raise m 0x09 0 0
  else
    .ok () (m.setSt fun st =>
      { st with wa := (w.wa.map (BitVec.ofNat 64)).getD st.wa, wb := (w.wb.map (BitVec.ofNat 64)).getD st.wb,
                la := w.la.getD st.la, fl := w.flags st.fl })

/-- The value a type gives its low bits. -/
def tyVal (ty v : Nat) : Int := if tySigned ty then sgn (tyWidth ty) v else ((v % 2 ^ tyWidth ty : Nat) : Int)
/-- The least value of an integer type. -/
def tyMin (ty : Nat) : Int := if tySigned ty then -(2 ^ (tyWidth ty - 1) : Nat) else 0
/-- The greatest value of an integer type. -/
def tyMax (ty : Nat) : Int := if tySigned ty then (2 ^ (tyWidth ty - 1) : Nat) - 1 else (2 ^ tyWidth ty : Nat) - 1
/-- An integer wrapped to a type and extended to 64 bits. -/
def tyWrap (ty : Nat) (i : Int) : Nat := ext ty (unsgn (tyWidth ty) i)

/-- Z and N of a result at the type's width (Table 3-2). -/
def WordRes.zn (w : WordRes) (ty v : Nat) : WordRes :=
  let zero := v % 2 ^ tyWidth ty = 0 || (tyFloat ty && v % 2 ^ (tyWidth ty - 1) = 0)
  { w with wa := some (ext ty v), z := some zero, n := some (bitOf v (tyWidth ty - 1)) }

/-- An exact integer result narrowed to its type: it wraps or, with SAT where `mayse` says SAT acts, saturates; V and the trap (R62, R64). -/
def intRes (ty : Nat) (mode : BitVec 4) (maySat : Bool) (i : Int) (wb : Option Nat) (c : Option Bool) : WordRes :=
  let outside := decide (i < tyMin ty) || decide (i > tyMax ty)
  let r := if outside && maySat && modeSat mode then (if i < tyMin ty then tyMin ty else tyMax ty) else i
  { (({} : WordRes).zn ty (unsgn (tyWidth ty) r)) with
    wb := wb, c := c, v := some outside, trap := outside && modeTrapv mode }

/-- The format of a floating-point type. -/
def fmtOf (ty : Nat) : FpFmt := if ty = 9 then f32 else f64

/-- A floating-point result with V as R65 states. -/
def fpRes (ty : Nat) (r : FpRes) (c : Option Bool) : WordRes :=
  { (({} : WordRes).zn ty r.bits) with c := c, v := some r.v, si := r.si }

/-- The low bits of WA or of a source at a type. -/
def low (ty v : Nat) : Nat := v % 2 ^ tyWidth ty

/-- ADD (Table 3-7). -/
def resAdd (ty : Nat) (mode : BitVec 4) (a b : Nat) : WordRes :=
  if tyFloat ty then fpRes ty ((fmtOf ty).add (modeRnd mode) (low ty a) (low ty b)) (some false)
  else intRes ty mode true (tyVal ty a + tyVal ty b) none (some (decide (low ty a + low ty b ≥ 2 ^ tyWidth ty)))

/-- SUB. -/
def resSub (ty : Nat) (mode : BitVec 4) (a b : Nat) : WordRes :=
  if tyFloat ty then fpRes ty ((fmtOf ty).sub (modeRnd mode) (low ty a) (low ty b)) (some false)
  else intRes ty mode true (tyVal ty a - tyVal ty b) none (some (decide (low ty a < low ty b)))

/-- MUL: for an integer type WB takes the high half of the true product, whatever SAT does to WA. -/
def resMul (ty : Nat) (mode : BitVec 4) (a b : Nat) : WordRes :=
  if tyFloat ty then fpRes ty ((fmtOf ty).mul (modeRnd mode) (low ty a) (low ty b)) none
  else
    let p := tyVal ty a * tyVal ty b
    intRes ty mode true p (some (tyWrap ty (p / (2 ^ tyWidth ty : Nat)))) none

/-- DIV: truncation toward zero, the remainder with the sign of the dividend in WB; division by zero under R64. -/
def resDiv (ty : Nat) (mode : BitVec 4) (a b : Nat) : WordRes :=
  if tyFloat ty then fpRes ty ((fmtOf ty).div (modeRnd mode) (low ty a) (low ty b)) none
  else
    let x := tyVal ty a
    let y := tyVal ty b
    if y = 0 then
      if modeTrapv mode then { trap := true }
      else { wa := some 0, wb := some (tyWrap ty x), z := some true, n := some false, v := some false, sd := true }
    else intRes ty mode false (Int.tdiv x y) (some (tyWrap ty (Int.tmod x y))) none

/-- ANDW, ORW, XORW, SHL, SHR, ROL, ROR: a result at the type's width, with Z and N. -/
def resBits (ty v : Nat) : WordRes := ({} : WordRes).zn ty (low ty v)

/-- SHL by src[6:0]. -/
def resShl (ty a b : Nat) : WordRes := resBits ty (low ty a * 2 ^ (b % 128))
/-- SHR by src[6:0]: arithmetic for S types, logical for U types. -/
def resShr (ty a b : Nat) : WordRes := resBits ty (unsgn (tyWidth ty) (tyVal ty a / (2 ^ (b % 128) : Nat)))
/-- ROL by src[6:0] modulo the width. -/
def resRol (ty a b : Nat) : WordRes :=
  let k := b % 128 % tyWidth ty
  resBits ty (low ty a * 2 ^ k + low ty a / 2 ^ (tyWidth ty - k))
/-- ROR by src[6:0] modulo the width. -/
def resRor (ty a b : Nat) : WordRes :=
  let k := b % 128 % tyWidth ty
  resBits ty (low ty a / 2 ^ k + low ty a * 2 ^ (tyWidth ty - k))

/-- Is the value a NaN of a floating-point type? -/
def tyNan (ty v : Nat) : Bool := tyFloat ty && ((fmtOf ty).decode (low ty v)).isNan

/-- The order of two values of a type, neither a NaN (R75). -/
def tyOrd (ty a b : Nat) : Ordering :=
  if tyFloat ty then fpOrd ((fmtOf ty).decode (low ty a)) ((fmtOf ty).decode (low ty b))
  else if tyVal ty a < tyVal ty b then .lt else if tyVal ty a = tyVal ty b then .eq else .gt

/-- Is a below b, with −0 below +0 (R75)? -/
def tyBelow (ty a b : Nat) : Bool :=
  if tyFloat ty then (fmtOf ty).below (low ty a) (low ty b) else decide (tyVal ty a < tyVal ty b)

/-- A compare: U, and LA ← the relation; a NaN operand gives `onNan` (R75). -/
def resCmp (ty : Nat) (rel : Ordering → Bool) (onNan : Bool) (a b : Nat) : WordRes :=
  if tyNan ty a || tyNan ty b then { la := some onNan, u := some true }
  else { la := some (rel (tyOrd ty a b)), u := some false }

/-- The smaller of two values. -/
def tyLesser (ty a b : Nat) : Nat := if tyBelow ty b a then b else a
/-- The larger of two values. -/
def tyGreater (ty a b : Nat) : Nat := if tyBelow ty a b then b else a

/-- MIN, MAX and LIMIT: a NaN among the operands gives the default NaN and sets U (R75). -/
def resPick (ty : Nat) (ops : List Nat) (r : Nat) : WordRes :=
  if ops.any (tyNan ty) then { (({} : WordRes).zn ty (fmtOf ty).defNan) with u := some true }
  else { (({} : WordRes).zn ty (low ty r)) with u := some false }

/-- NOT (Table 3-8). -/
def resNot (ty a : Nat) : WordRes := resBits ty (2 ^ tyWidth ty - 1 - low ty a)

/-- NEG (R71). -/
def resNeg (ty : Nat) (mode : BitVec 4) (a : Nat) : WordRes :=
  if tyFloat ty then
    ({} : WordRes).zn ty (if tyNan ty a then (fmtOf ty).defNan else (fmtOf ty).flip (low ty a))
  else intRes ty mode false (-tyVal ty a) none none

/-- ABS (R71). -/
def resAbs (ty : Nat) (mode : BitVec 4) (a : Nat) : WordRes :=
  if tyFloat ty then
    ({} : WordRes).zn ty (if tyNan ty a then (fmtOf ty).defNan else low ty a % 2 ^ (tyWidth ty - 1))
  else intRes ty mode false (tyVal ty a).natAbs none none

/-- SQRT: Z, N and SI (Table 3-8). -/
def resSqrt (ty : Nat) (mode : BitVec 4) (a : Nat) : WordRes :=
  { fpRes ty ((fmtOf ty).sqrt (modeRnd mode) (low ty a)) none with v := none }

/-- An integer, TIME or BOOL target of CVT: it saturates and sets V (R74). -/
def cvtInt (ty : Nat) (i : Int) : WordRes :=
  let outside := decide (i < tyMin ty) || decide (i > tyMax ty)
  let r := if i < tyMin ty then tyMin ty else if i > tyMax ty then tyMax ty else i
  { (({} : WordRes).zn ty (unsgn (tyWidth ty) r)) with v := some outside }

/-- CVT (R74). -/
def resCvt (frm dst : Nat) (trunc : Bool) (mode : BitVec 4) (a : Nat) : WordRes :=
  let rnd := modeRnd mode
  if tyFloat frm then
    let f := fmtOf frm
    if tyFloat dst then fpRes dst (f.cvt (fmtOf dst) rnd (low frm a)) none
    else match f.decode (low frm a) with
      | .nan _ => { (({} : WordRes).zn dst 0) with v := some true, si := true }
      | .inf neg =>
        if dst = 0 then cvtInt 0 1
        else { (({} : WordRes).zn dst (unsgn (tyWidth dst) (if neg then tyMin dst else tyMax dst))) with v := some true }
      | .fin neg mg e => if dst = 0 then cvtInt 0 (if mg = 0 then 0 else 1) else cvtInt dst (roundInt (if trunc then 1 else rnd) neg mg e)
  else
    let i : Int := if frm = 0 then (if low 0 a = 0 then 0 else 1) else tyVal frm a
    if tyFloat dst then fpRes dst ((fmtOf dst).ofInt rnd i) none
    else if dst = 0 then cvtInt 0 (if i = 0 then 0 else 1)
    else cvtInt dst i

end Sys2Proof.Machine
end

