-- ==== Sys2Proof/Machine/Logic.lean ====
section
/-! DEFINITION. What the bit-logic, load, store and word instructions do (R64, R70 to R72, R75, R81, R497). -/
namespace Sys2Proof.Machine

/-- What follows an instruction that has taken effect: the next one, another address, a branch whose slot is next, a program trap, the
stream's end, a SYNC, or a new MODE after its shadow. -/
inductive After where
  | next | goto (a : Nat) | branch (b : Branch) | trap (code : Nat) | fin | sync | mode (v : BitVec 4)

/-- An instruction's effect on its stream. -/
abbrev Sem := Cx → Mx → XR After

/-- Finish. -/
def XR.fin {α : Type} (x : XR α) : XR After := x.bind fun _ m => .ok .next m

/-! ### Bit logic (Table 3-9) -/

/-- The BOOL operand, read: any byte but 0x00 reads as 1 (R72). -/
def Mx.bool (c : Cx) (m : Mx) : XR Bool :=
  (m.operand c 1 1 true false).bind fun o m => (m.fetch c o 0 1).bind fun bs m => .ok (leNat bs ≠ 0) m

/-- A LOG that combines LA with b', the operand negated if NEG = 1. -/
def semLog (f : Bool → Bool → Bool) : Sem := fun c m =>
  (m.bool c).bind fun b m => .ok .next (m.setLa (f m.st.la (b != c.i.neg)))

/-- LOG ST, S and R: the store happens where `wr` says so; the operand is checked as a store whatever LA holds (R497). -/
def semLogStore (wr : Bool → Bool) (val : Bool → Bool → Bool) : Sem := fun c m =>
  (m.operand c 1 1 false true).bind fun o m =>
    .ok .next (if wr m.st.la then m.put c o 0 [if val m.st.la c.i.neg then 1 else 0] else m)

/-- A LOGP: push LA with the operation and NEG, and load the operand as it is; a 17th entry overflows NS (R73). -/
def semLogp (op : Nat) : Sem := fun c m =>
  (m.bool c).bind fun b m =>
    if m.st.ns.length ≥ 16 then raise m 0x0A 0 0
    else .ok .next (m.setSt fun st => { st with ns := ⟨st.la, op, c.i.neg⟩ :: st.ns, la := b })

/-- The operation an NS entry names. -/
def nsOp (op : Nat) (a b : Bool) : Bool :=
  match op with
  | 1 => a && b
  | 2 => a || b
  | _ => a != b

/-- POPL (R72): an empty NS underflows (R73). -/
def semPopl : Sem := fun _ m =>
  match m.st.ns with
  | [] => raise m 0x0B 0 0
  | e :: ns => .ok .next (m.setSt fun st => { st with ns := ns, la := nsOp e.op e.la (st.la != e.neg) })

/-! ### Loads, stores and LEA -/

/-- LDW. -/
def semLdw : Sem := fun c m => (m.source c).bind fun v m => .ok .next (m.setWa v)
/-- LDWB. -/
def semLdwb : Sem := fun c m => (m.source c).bind fun v m => .ok .next (m.setWb v)
/-- STW. -/
def semStw : Sem := fun c m => (m.storeVal c m.st.wa.toNat).fin
/-- STWB. -/
def semStwb : Sem := fun c m => (m.storeVal c m.st.wb.toNat).fin
/-- LEA: the operand's Square address, resolved and aligned, without access. -/
def semLea : Sem := fun c m => (m.address c c.i.ty (tySize c.i.ty)).bind fun p m => .ok .next (m.setWa p.1)

/-! ### Arithmetic, logic, shifts and compares -/

/-- A word instruction on WA and its source operand. -/
def semWord (f : Cx → Mx → Nat → WordRes) : Sem := fun c m => (m.source c).bind fun v m => ((f c m v).apply m).fin

/-- ADD. -/
def semAdd : Sem := semWord fun c m v => resAdd c.i.ty m.st.mode m.st.wa.toNat v
/-- SUB. -/
def semSub : Sem := semWord fun c m v => resSub c.i.ty m.st.mode m.st.wa.toNat v
/-- MUL. -/
def semMul : Sem := semWord fun c m v => resMul c.i.ty m.st.mode m.st.wa.toNat v
/-- DIV. -/
def semDiv : Sem := semWord fun c m v => resDiv c.i.ty m.st.mode m.st.wa.toNat v
/-- ANDW. -/
def semAnd : Sem := semWord fun c m v => resBits c.i.ty (low c.i.ty m.st.wa.toNat &&& low c.i.ty v)
/-- ORW. -/
def semOr : Sem := semWord fun c m v => resBits c.i.ty (low c.i.ty m.st.wa.toNat ||| low c.i.ty v)
/-- XORW. -/
def semXor : Sem := semWord fun c m v => resBits c.i.ty (low c.i.ty m.st.wa.toNat ^^^ low c.i.ty v)
/-- MIN. -/
def semMin : Sem := semWord fun c m v => resPick c.i.ty [m.st.wa.toNat, v] (tyLesser c.i.ty m.st.wa.toNat v)
/-- MAX. -/
def semMax : Sem := semWord fun c m v => resPick c.i.ty [m.st.wa.toNat, v] (tyGreater c.i.ty m.st.wa.toNat v)
/-- LIMIT: MIN(MAX(WA, WB), src). -/
def semLimit : Sem := semWord fun c m v =>
  resPick c.i.ty [m.st.wa.toNat, m.st.wb.toNat, v] (tyLesser c.i.ty (tyGreater c.i.ty m.st.wa.toNat m.st.wb.toNat) v)
/-- SHL. -/
def semShl : Sem := semWord fun c m v => resShl c.i.ty m.st.wa.toNat v
/-- SHR. -/
def semShr : Sem := semWord fun c m v => resShr c.i.ty m.st.wa.toNat v
/-- ROL. -/
def semRol : Sem := semWord fun c m v => resRol c.i.ty m.st.wa.toNat v
/-- ROR. -/
def semRor : Sem := semWord fun c m v => resRor c.i.ty m.st.wa.toNat v
/-- A compare. -/
def semCmp (rel : Ordering → Bool) (onNan : Bool) : Sem := semWord fun c m v => resCmp c.i.ty rel onNan m.st.wa.toNat v

/-- SEL: the operand is read whatever LA holds (R497). -/
def semSel : Sem := fun c m => (m.source c).bind fun v m => .ok .next (if m.st.la then m.setWa v else m)

/-- LSTAT (R81): the status byte of the named signal; a variable's tag raises the tag fault with DETAIL 0x04. -/
def semLstat : Sem := fun c m =>
  let tag := c.named m 0
  (m.tagEntry c tag).bind fun e m =>
    if !teSignal e.1 then raise m 0x04 0x04 tag
    else
      let a := m.s.statAddr c.t e.1 e.2
      (m.check c .rd a 1).bind fun _ m => (m.load c a 1).bind fun bs m => .ok .next (m.setWa (leNat bs))

/-! ### Register moves and unary operations (Table 3-8) -/

/-- NOTL. -/
def semNotl : Sem := fun _ m => .ok .next (m.setLa (!m.st.la))
/-- SETL. -/
def semSetl : Sem := fun _ m => .ok .next (m.setLa true)
/-- CLRL. -/
def semClrl : Sem := fun _ m => .ok .next (m.setLa false)
/-- LDBIT k. -/
def semLdbit : Sem := fun c m => .ok .next (m.setLa (m.st.wa.getLsbD (bits c.i.arg 0 6)))
/-- STBIT k. -/
def semStbit : Sem := fun c m =>
  let k := bits c.i.arg 0 6
  let b : W64 := BitVec.ofNat 64 (2 ^ k)
  .ok .next (m.setSt fun st => { st with wa := if st.la then st.wa ||| b else st.wa &&& ~~~b })
/-- XAB. -/
def semXab : Sem := fun _ m => .ok .next (m.setSt fun st => { st with wa := st.wb, wb := st.wa })
/-- MOVAB. -/
def semMovab : Sem := fun _ m => .ok .next (m.setSt fun st => { st with wb := st.wa })
/-- MOVBA. -/
def semMovba : Sem := fun _ m => .ok .next (m.setSt fun st => { st with wa := st.wb })
/-- NOT. -/
def semNot : Sem := fun c m => ((resNot (bits c.i.arg 0 4) m.st.wa.toNat).apply m).fin
/-- NEG. -/
def semNeg : Sem := fun c m => ((resNeg (bits c.i.arg 0 4) m.st.mode m.st.wa.toNat).apply m).fin
/-- ABS. -/
def semAbs : Sem := fun c m => ((resAbs (bits c.i.arg 0 4) m.st.mode m.st.wa.toNat).apply m).fin
/-- SQRT. -/
def semSqrt : Sem := fun c m => ((resSqrt (bits c.i.arg 0 4) m.st.mode m.st.wa.toNat).apply m).fin
/-- CVT. -/
def semCvt : Sem := fun c m =>
  ((resCvt (bits c.i.arg 0 4) (bits c.i.arg 4 4) (bitOf c.i.arg 8) m.st.mode m.st.wa.toNat).apply m).fin
/-- LDFL. -/
def semLdfl : Sem := fun _ m => .ok .next (m.setWa m.st.fl.toNat)
/-- CLRF. -/
def semClrf : Sem := fun _ m => .ok .next (m.setSt fun st => { st with fl := st.fl &&& 0x1F })
/-- NOP. -/
def semNop : Sem := fun _ m => .ok .next m

end Sys2Proof.Machine
end

