-- ==== Sys2Proof/Machine/Tables.lean ====
section
/-! DEFINITION. What the table, block-move, timer, counter and edge instructions do (R76 to R80). -/
namespace Sys2Proof.Machine

/-- The release time of a cycle in ns, modulo 2⁶⁴ (R77): tick × 62,500. -/
def relTime (rel : Nat) : Nat := rel * 62500 % 2 ^ 64

/-- The instance fault (R76, R78). -/
def Cx.instFault {α : Type} (c : Cx) (m : Mx) (o : Opnd) : XR α :=
  raise m 0x08 0 (c.named m (match o with | .sq a => a | _ => 0))

/-- Check and read n more bytes of a table beyond its header (R185). -/
def Mx.more (c : Cx) (m : Mx) (o : Opnd) (off n : Nat) : XR (List Byte) :=
  match o with
  | .sq a => (m.check c .rd (a + off) n).bind fun _ m => m.load c (a + off) n
  | .scr p => if p + off + n > 131072 then raise m 0x06 0x03 0 else m.fetch c o off n
  | o => m.fetch c o off n

/-- The table operand with its entry count, which must lie in a range (R76). -/
def Mx.table (c : Cx) (m : Mx) (lo hi : Nat) : XR (Opnd × Nat) :=
  (m.operand c 8 8 true false).bind fun o m => (m.fetch c o 0 8).bind fun bs m =>
    let n := leNat bs % 2 ^ 32
    if n < lo || n > hi then c.instFault m o else .ok (o, n) m

/-- TBL. -/
def semTbl : Sem := fun c m =>
  (m.table c 1 65536).bind fun p m =>
    let ix := sgn 64 m.st.wa.toNat
    let i := if ix < 0 then 0 else min ix.toNat (p.2 - 1)
    let sz := tySize c.i.ty
    (m.more c p.1 (8 + i * sz) sz).bind fun bs m =>
      .ok .next ((m.setWa (ext c.i.ty (leNat bs))).setSt fun st =>
        { st with fl := ({ v := some (decide (ix ≠ (i : Int))) } : WordRes).flags st.fl })

/-- The pairs (x, y) of a LIN table. -/
def linPairs (sz : Nat) : Nat → List Byte → List (Nat × Nat)
  | 0, _ => []
  | n + 1, bs => (leNat (bs.take sz), leNat ((bs.drop sz).take sz)) :: linPairs sz n (bs.drop (2 * sz))

/-- Do the x values increase strictly, none of them a NaN? -/
def linOrdered (ty : Nat) : List (Nat × Nat) → Bool
  | [] => true
  | [p] => !tyNan ty p.1
  | p :: q :: l => !tyNan ty p.1 && tyOrd ty p.1 q.1 = .lt && linOrdered ty (q :: l)

/-- The arithmetic of LIN between two neighbouring points: ((w − x₀) × (y₁ − y₀)) ÷ (x₁ − x₀) added to y₀, each operation rounded. -/
def linBetween (f : FpFmt) (rnd w : Nat) (p q : Nat × Nat) : FpRes :=
  let a := f.sub rnd w p.1
  let b := f.sub rnd q.2 p.2
  let ab := f.mul rnd a.bits b.bits
  let d := f.sub rnd q.1 p.1
  let r := f.div rnd ab.bits d.bits
  let y := f.add rnd p.2 r.bits
  ⟨y.bits, a.v || b.v || ab.v || d.v || r.v || y.v, a.si || b.si || ab.si || d.si || r.si || y.si⟩

/-- LIN over ordered pairs (R76): the value, V and SI. -/
def linEval (ty rnd w : Nat) : List (Nat × Nat) → FpRes
  | [] => ⟨0, false, false⟩
  | [p] => ⟨p.2, tyOrd ty w p.1 ≠ .eq, false⟩
  | p :: q :: l =>
    match tyOrd ty w p.1 with
    | .lt => ⟨p.2, true, false⟩
    | .eq => ⟨p.2, false, false⟩
    | .gt => if tyOrd ty w q.1 = .lt then linBetween (fmtOf ty) rnd w p q else linEval ty rnd w (q :: l)

/-- LIN. -/
def semLin : Sem := fun c m =>
  (m.table c 2 32).bind fun p m =>
    let sz := tySize c.i.ty
    (m.more c p.1 8 (2 * p.2 * sz)).bind fun bs m =>
      let ps := linPairs sz p.2 bs
      if !linOrdered c.i.ty ps then c.instFault m p.1
      else
        let w := low c.i.ty m.st.wa.toNat
        let r : FpRes := if tyNan c.i.ty w then ⟨(fmtOf c.i.ty).defNan, false, true⟩ else linEval c.i.ty (modeRnd m.st.mode) w ps
        .ok .next ((m.setWa r.bits).setSt fun st => { st with fl := ({ v := some r.v, si := r.si } : WordRes).flags st.fl })

/-- MOVB (R76): every source byte is read before any is written; a refused part moves nothing; a length of 0 touches nothing. -/
def semMovb : Sem := fun c m =>
  let n := m.st.wb.toNat % 2 ^ 20
  let dst := m.st.wa.toNat % 2 ^ 40
  if n = 0 then .ok .next m
  else
    (m.operand c n 1 true false).bind fun o m =>
    (match m.s.laneRefuses c.e.newRules c.t .wr dst n with
      | some b => m.refuse c .wr b dst
      | none => .ok () m).bind fun _ m =>
    (m.fetch c o 0 n).bind fun bs m => .ok .next (m.store c dst bs)

/-! ### Instance records (Table 3-10a) -/

/-- A record operand of n bytes, checked for reading and writing, and its bytes. -/
def Mx.recordOp (c : Cx) (m : Mx) (n align : Nat) : XR (Opnd × List Byte) :=
  (m.operand c n align true true).bind fun o m => (m.fetch c o 0 n).bind fun bs m => .ok (o, bs) m

/-- Bytes [i, i + n) as a number. -/
def recNum (bs : List Byte) (i n : Nat) : Nat := leNat ((bs.drop i).take n)

/-- The state of a timer: INPREV, Q, RUN, START and ET. -/
structure Timer where
  prev : Bool
  q : Bool
  run : Bool
  start : Nat
  et : Nat

/-- Elapsed time, modulo 2⁶⁴ (R77). -/
def elapsed (now start : Nat) : Nat := (now + 2 ^ 64 - start % 2 ^ 64) % 2 ^ 64

/-- TON (R78). -/
def tonStep (now pt : Nat) (inp : Bool) (t : Timer) : Timer :=
  let start := if inp && !t.prev then now else t.start
  let e := elapsed now start
  if inp then { t with start := start, et := min e pt, q := decide (e ≥ pt) } else { t with start := start, et := 0, q := false }

/-- TOF (R78). -/
def tofStep (now pt : Nat) (inp : Bool) (t : Timer) : Timer :=
  if inp then { t with q := true, et := 0 }
  else if t.prev then { t with start := now, et := 0, q := decide (pt > 0) }
  else if t.q then
    let e := elapsed now t.start
    { t with et := min e pt, q := decide (e < pt) }
  else { t with et := 0 }

/-- TP (R78). -/
def tpStep (now pt : Nat) (inp : Bool) (t : Timer) : Timer :=
  let t := if !t.run && inp && !t.prev then { t with start := now, run := true } else t
  let e := elapsed now t.start
  let t := if t.run then (if e ≥ pt then { t with run := false, et := pt } else { t with et := e })
    else if !inp then { t with et := 0 } else t
  { t with q := t.run }

/-- A timer instruction: IN from LA, PT from WA as TIME; LA ← Q, WA ← ET. A record whose TYPE or reserved bits are wrong raises the
instance fault and stays as it is. -/
def semTimer (type : Nat) (step : Nat → Nat → Bool → Timer → Timer) : Sem := fun c m =>
  (m.recordOp c 32 8).bind fun p m =>
    let st := recNum p.2 1 1
    if recNum p.2 0 1 ≠ type || st / 8 ≠ 0 || recNum p.2 2 6 ≠ 0 || recNum p.2 24 8 ≠ 0 then c.instFault m p.1
    else
      let pt := (sgn 64 m.st.wa.toNat).toNat
      let inp := m.st.la
      let t := step (relTime m.r.rel) pt inp ⟨bitOf st 0, bitOf st 1, bitOf st 2, recNum p.2 8 8, recNum p.2 16 8⟩
      let st' := b2n inp + 2 * b2n t.q + 4 * b2n t.run
      let m := m.put c p.1 1 [BitVec.ofNat 8 st']
      let m := m.put c p.1 8 (natLe 8 t.start ++ natLe 8 t.et)
      .ok .next ((m.setLa t.q).setWa t.et)

/-- TON. -/
def semTon : Sem := semTimer 0x01 tonStep
/-- TOF. -/
def semTof : Sem := semTimer 0x02 tofStep
/-- TP. -/
def semTp : Sem := semTimer 0x03 tpStep

/-- The state of a counter: CUPREV, CDPREV, RST, LDR and CV. -/
structure Counter where
  cu : Bool
  cd : Bool
  rst : Bool
  ldr : Bool
  cv : Int

/-- A counter instruction on a record of a permitted TYPE; `f` gives the record, LA, WA and WB after it. -/
def semCounter (types : List Nat) (f : StreamRt → Counter → Counter × StreamRt) : Sem := fun c m =>
  (m.recordOp c 16 8).bind fun p m =>
    let st := recNum p.2 1 1
    if !types.contains (recNum p.2 0 1) || st / 16 ≠ 0 || recNum p.2 2 6 ≠ 0 then c.instFault m p.1
    else
      let r := f m.st ⟨bitOf st 0, bitOf st 1, bitOf st 2, bitOf st 3, sgn 64 (recNum p.2 8 8)⟩
      let k := r.1
      let m := m.put c p.1 1 [BitVec.ofNat 8 (b2n k.cu + 2 * b2n k.cd + 4 * b2n k.rst + 8 * b2n k.ldr)]
      let m := m.put c p.1 8 (natLe 8 (unsgn 64 k.cv))
      .ok .next (m.setSt fun st => { st with la := r.2.la, wa := r.2.wa, wb := r.2.wb })

/-- CV after the rising inputs of one execution (R79): a reset or load suppresses them, both at once cancel, and CV stops at the limits. -/
def countStep (k : Counter) (up dn : Bool) : Int :=
  if k.rst || k.ldr || (up && dn) then k.cv
  else if up && k.cv < 2 ^ 63 - 1 then k.cv + 1
  else if dn && k.cv > -2 ^ 63 then k.cv - 1
  else k.cv

/-- CRST. -/
def semCrst : Sem := semCounter [0x11, 0x12, 0x13] fun st k => ({ k with rst := st.la, cv := if st.la then 0 else k.cv }, st)
/-- CLOAD. -/
def semCload : Sem := semCounter [0x11, 0x12, 0x13] fun st k =>
  ({ k with ldr := st.la, cv := if st.la && !k.rst then sgn 64 st.wa.toNat else k.cv }, st)
/-- CTU. -/
def semCtu : Sem := semCounter [0x11] fun st k =>
  let cv := countStep k (st.la && !k.cu) false
  (⟨st.la, k.cd, false, false, cv⟩, { st with la := decide (cv ≥ sgn 64 st.wa.toNat), wa := BitVec.ofNat 64 (unsgn 64 cv) })
/-- CTD. -/
def semCtd : Sem := semCounter [0x12] fun st k =>
  let cv := countStep k false (st.la && !k.cd)
  (⟨k.cu, st.la, false, false, cv⟩, { st with la := decide (cv ≤ 0), wa := BitVec.ofNat 64 (unsgn 64 cv) })
/-- CTUD. -/
def semCtud : Sem := semCounter [0x13] fun st k =>
  let cd := st.wb.getLsbD 0
  let cv := countStep k (st.la && !k.cu) (cd && !k.cd)
  (⟨st.la, cd, false, false, cv⟩,
   { st with la := decide (cv ≥ sgn 64 st.wa.toNat), wb := if cv ≤ 0 then 1 else 0, wa := BitVec.ofNat 64 (unsgn 64 cv) })

/-- An edge detector on a one-byte record: M takes the incoming LA (R80). -/
def semEdge (f : Bool → Bool → Bool) : Sem := fun c m =>
  (m.recordOp c 1 1).bind fun p m =>
    let b := leNat p.2
    if b / 2 ≠ 0 then c.instFault m p.1
    else
      let la := m.st.la
      .ok .next ((m.put c p.1 0 [if la then 1 else 0]).setLa (f la (b = 1)))

end Sys2Proof.Machine
end

