-- ==== Sys2Proof/Machine/Branches.lean ====
section
/-! DEFINITION. Delayed branches, hardware loops and the instructions that end, trap or synchronise a stream (R73, R84, R86 to R95, R101). -/
namespace Sys2Proof.Machine

/-- The word at an address of the active program store. -/
def State.codeWord (s : State) (pc : Nat) : Nat := leNat (memRdL s.sq.code (storeBase s.actStore + pc) 4)

/-- Does a word lie in the executable area of the active program store (R88)? -/
def State.inCode (s : State) (pc : Nat) : Bool := pc % 4 = 0 && pc + 4 ≤ s.cfg.codeLen

/-- Is an address LAST of an active level? -/
def atLast (st : StreamRt) (a : Nat) : Bool := st.lvs.any (fun l => l.last = a)

/-- The instruction in a delay slot at an address, where it can be read: its decoded form and the address of its last word. -/
def State.slotAt (s : State) (pc : Nat) : Option (FlxW × Nat) :=
  if !s.inCode pc then none
  else
    let w := s.codeWord pc
    if bits w 26 6 = 0x3F then
      if s.inCode (pc + 4) then some (⟨some (bits w 0 26), s.codeWord (pc + 4)⟩, pc + 4) else none
    else some (⟨none, w⟩, pc)

/-- The DETAIL with which a branch raises the illegal-instruction exception for its place or its slot (R87, R92). -/
def branchBad (c : Cx) (m : Mx) : Option Nat :=
  let pc := m.st.pc
  if atLast m.st (pc + c.i.size - 4) then some 0x06
  else match m.s.slotAt (pc + c.i.size) with
    | none => none
    | some (i, last) =>
      if (match i.row with | some r => r.control | none => false) then some 0x04
      else if atLast m.st last then some 0x06
      else none

/-- The address of the instruction after the delay slot. -/
def afterSlot (c : Cx) (m : Mx) : Nat :=
  let a := m.st.pc + c.i.size
  match m.s.slotAt a with
  | some (i, _) => a + i.size
  | none => a + 4

/-- COND of JMP and CALL, from LA before the slot executes (R86). -/
def condHolds (cond : Nat) (la : Bool) : Bool :=
  match cond with
  | 0 => true
  | 1 => la
  | _ => !la

/-- The target of JMP and CALL: the branch's first word + 4 × offset. A target below 0 is given as one no program store holds. -/
def brTarget (c : Cx) (m : Mx) : Nat :=
  let t : Int := m.st.pc + 4 * c.i.off
  if t < 0 then unsgn 64 t else t.toNat

/-- JMP. -/
def semJmp : Sem := fun c m =>
  match branchBad c m with
  | some d => raise m 0x03 d 0
  | none => .ok (.branch ⟨m.st.pc, condHolds c.i.cond m.st.la, brTarget c m, .jmp⟩) m

/-- CALL: taken, it writes W15; at depth 255 it raises the call-depth fault instead (R89). -/
def semCall : Sem := fun c m =>
  match branchBad c m with
  | some d => raise m 0x03 d 0
  | none =>
    let taken := condHolds c.i.cond m.st.la
    if taken && m.st.depth ≥ 255 then raise m 0x0E 0 0
    else
      let tgt := brTarget c m
      let ret := afterSlot c m
      .ok (.branch ⟨m.st.pc, taken, tgt, .call⟩) (if taken then m.setSt (fun st => st.setReg 15 ret) else m)

/-- RET: to W15[31:0]; at depth 0 it raises the call-depth fault. -/
def semRet : Sem := fun c m =>
  match branchBad c m with
  | some d => raise m 0x03 d 0
  | none =>
    if m.st.depth = 0 then raise m 0x0E 0 0
    else .ok (.branch ⟨m.st.pc, true, m.st.reg 15 % 2 ^ 32, .ret⟩) m

/-- LOOP and LOOPW with a given count (R90, R92). -/
def semLoop (count : Cx → Mx → Nat) : Sem := fun c m =>
  let pc := m.st.pc
  let last := pc + 4 * c.i.len
  let beyond := match m.st.lvs with | l :: _ => decide (last > l.last) | [] => false
  if beyond then raise m 0x03 0x06 0
  else if m.st.lvs.length ≥ 4 then raise m 0x0D 0 0
  else if count c m = 0 then .ok (.goto (pc + 4 + 4 * c.i.len)) m
  else .ok (.goto (pc + 4)) (m.setSt fun st => { st with lvs := ⟨pc + 4, last, count c m, st.depth⟩ :: st.lvs })

/-- END: with a non-empty NS the stream does not end (R73). -/
def semEnd : Sem := fun _ m => if m.st.ns.isEmpty then .ok .fin m else raise m 0x0C 0 0
/-- SYNC. -/
def semSync : Sem := fun _ m => .ok .sync m
/-- MODESET. -/
def semModeset : Sem := fun c m => .ok (.mode (BitVec.ofNat 4 c.i.arg)) m
/-- TRAP. -/
def semTrap : Sem := fun c m => .ok (.trap (bits c.i.arg 0 8)) m
/-- TIME (R26, R77). -/
def semTime : Sem := fun _ m => .ok .next (m.setWa (relTime m.r.rel))
/-- SETEV (R83): an activation at the cycle's commit. -/
def semSetev : Sem := fun c m => .ok .next { m with r := { m.r with fx := m.r.fx ++ [.setev (bits c.i.arg 0 8)] } }
/-- DIAG (R83): a record at the cycle's commit. -/
def semDiag : Sem := fun c m => .ok .next { m with r := { m.r with fx := m.r.fx ++ [.diag (bits c.i.arg 0 16) m.st.pc] } }

/-- The levels a taken branch closes (R93). -/
def closeLevels (b : Branch) (st : StreamRt) : List LoopLv :=
  match b.kind with
  | .jmp => st.lvs.filter (fun l => l.cd ≠ st.depth || (decide (l.first ≤ b.target) && decide (b.target ≤ l.last)))
  | .ret => st.lvs.filter (fun l => l.cd ≠ st.depth)
  | .call => st.lvs

/-- A branch takes effect once its slot has retired (R86, R89, R93). -/
def StreamRt.land (st : StreamRt) (b : Branch) (next : Nat) : StreamRt :=
  if b.taken then
    { st with br := none, lvs := closeLevels b st, pc := b.target,
              depth := match b.kind with | .jmp => st.depth | .call => st.depth + 1 | .ret => st.depth - 1 }
  else { st with br := none, pc := next }

/-- The loop-end rule of R91 at the retirement of an instruction whose last word is at `a`: innermost level first. -/
def loopEnd (a next : Nat) : List LoopLv → List LoopLv × Nat
  | [] => ([], next)
  | l :: ls =>
    if l.last = a then (if l.cnt - 1 = 0 then loopEnd a next ls else ({ l with cnt := l.cnt - 1 } :: ls, l.first))
    else (l :: ls, next)

/-- One shadow position has executed (R94). -/
def StreamRt.shade (st : StreamRt) : StreamRt :=
  match st.sh with
  | none => st
  | some h => if h.left ≤ 1 then { st with sh := none, mode := h.pend } else { st with sh := some { h with left := h.left - 1 } }

/-- Retirement of an instruction of `size` bytes. -/
def StreamRt.retire (st : StreamRt) (size : Nat) (a : After) (lanes : Nat) : StreamRt :=
  let next := st.pc + size
  let st' := st.shade
  match a with
  | .branch b => { st' with br := some b, pc := next }
  | .goto p => { st' with pc := p }
  | .fin => { st' with st := .ended, lvs := [], pc := next }
  | a =>
    let st1 := match st.br with
      | some b => st'.land b next
      | none => let e := loopEnd (next - 4) next st'.lvs; { st' with lvs := e.1, pc := e.2 }
    match a with
    | .mode v => { st1 with sh := some ⟨v, 2⟩ }
    | .sync => if lanes > 1 then { st1 with st := .sync } else st1
    | _ => st1

end Sys2Proof.Machine
end

