-- ==== Sys2Proof/Machine/Objects.lean ====
section
/-! DEFINITION. Equipment objects (15, R394 to R408): the record, its links, and the routines of MOTOR, PUMP and VALVE as one evaluation. The
library's own code is not given by the manual, so a stream that stands at an object's entry evaluates the object in one step (log entry 18). -/
namespace Sys2Proof.Machine

/-! ### Records and links (R394, R395, R398) -/

/-- A record as read: its 192 bytes. -/
abbrev ObjRec := List Byte

/-- n bytes at an offset of a record. -/
def oNum (r : ObjRec) (o n : Nat) : Nat := recNum r o n
/-- Bit k of the byte at an offset. -/
def oBit (r : ObjRec) (o k : Nat) : Bool := bitOf (oNum r o 1) k
/-- A duration parameter in ms, in ns. -/
def oMs (r : ObjRec) (o : Nat) : Nat := oNum r o 4 * 1000000
/-- The tag of a link, by its number in Table 15-2; 0 is not connected. -/
def oLink (r : ObjRec) (i : Nat) : Nat := oNum r (0x80 + 4 * i) 4

/-- Is a reserved bit or byte of a record set (Table 15-1, Table 15-4)? -/
def oReserved (type : Nat) (r : ObjRec) : Bool :=
  decide (oNum r 3 1 ≥ 4) || oNum r 0x1E 2 ≠ 0 || oNum r 0x3E 2 ≠ 0 || decide (oNum r 0x66 1 ≥ 2) || oNum r 0x67 25 ≠ 0 ||
  oNum r 0xBC 4 ≠ 0 ||
  (if type = 0x23 then oNum r 6 2 &&& 0xFE60 ≠ 0 || oNum r 0xB0 12 ≠ 0 else decide (oNum r 6 2 ≥ 2 ^ 12))

/-- What a routine reads through its links: the BOOL value of each, whether its status is GOOD, STALE or FORCED, and SPDFB as F32. -/
structure ObjIn where
  b : List Bool
  ok : List Bool
  spd : Nat
deriving DecidableEq, Repr

/-- A link's BOOL value. -/
def ObjIn.on (x : ObjIn) (i : Nat) : Bool := x.b.getD i false
/-- A feedback link's validity (R398). -/
def ObjIn.valid (x : ObjIn) (i : Nat) : Bool := x.ok.getD i true

/-- Read one link through its tag: the value at its type, and for a signal its status byte. -/
def Mx.linkRead (c : Cx) (m : Mx) (ty tag : Nat) : XR (Nat × Bool) :=
  (m.tagEntry c tag).bind fun e m =>
    if teTy e.1 ≠ ty then raise m 0x04 0x02 tag
    else
      let a := m.s.opAddr c.t e.1 e.2
      (m.check c .rd a (tySize ty)).bind fun _ m => (m.load c a (tySize ty)).bind fun bs m =>
        if !teSignal e.1 then .ok (leNat bs, true) m
        else
          let st := m.s.statAddr c.t e.1 e.2
          (m.check c .rd st 1).bind fun _ m => (m.load c st 1).bind fun sb m =>
            .ok (leNat bs, leNat sb = 0 || leNat sb = 2 || leNat sb = 4) m

/-- Where an output link is stored, with the refusals of R67 and of the ACU. -/
def Mx.linkWrite (c : Cx) (m : Mx) (tag : Nat) : XR Nat :=
  (m.tagEntry c tag).bind fun e m =>
    if teTy e.1 ≠ 0 then raise m 0x04 0x02 tag
    else
      let a := m.s.opAddr c.t e.1 e.2
      if teKind e.1 = 1 || (teKind e.1 = 2 && teWtask e.1 ≠ c.t) then raise m 0x06 0x02 tag
      else (m.check c .wr a 1).bind fun _ m => .ok a m

/-- The permissions ILKSTART, ILKRUN, ILKOPEN and ILKCLOSE hold where their links are not connected; every other link reads 0 then (log entry
19). -/
def linkDefault (i : Nat) : Bool := i = 5 || i = 6

/-- Read the links of an object in the order of Table 15-2. -/
def Mx.linksIn (c : Cx) (m : Mx) (r : ObjRec) (f32At : Option Nat) (skip : List Nat) : XR ObjIn :=
  (List.range 15).foldl (fun x i => x.bind fun o m =>
    if oLink r i = 0 || skip.contains i then .ok { o with b := o.b ++ [linkDefault i && decide (oLink r i = 0)], ok := o.ok ++ [true] } m
    else if f32At = some i then (m.linkRead c 9 (oLink r i)).bind fun v m => .ok { o with b := o.b ++ [false], ok := o.ok ++ [v.2], spd := v.1 } m
    else (m.linkRead c 0 (oLink r i)).bind fun v m => .ok { o with b := o.b ++ [decide (v.1 ≠ 0)], ok := o.ok ++ [v.2] } m)
  (.ok ⟨[], [], 0⟩ m)

/-- The addresses of connected output links. -/
def Mx.linksOut (c : Cx) (m : Mx) (r : ObjRec) (l : List Nat) : XR (List (Nat × Nat)) :=
  l.foldl (fun x i => x.bind fun o m =>
    if oLink r i = 0 then .ok o m else (m.linkWrite c (oLink r i)).bind fun a m => .ok (o ++ [(i, a)]) m) (.ok [] m)

/-! ### The evaluation's working state -/

/-- The fields a routine changes, and what it drives: outputs by link number, none for one that stays as it is. -/
structure Obj where
  mode : Nat
  flags : Nat
  state : Nat
  dir : Nat
  latched : Nat
  now : Nat
  tenter : Nat
  ops : Nat
  wincnt : Nat
  winstart : Nat
  runtime : Nat
  taux : Nat
  fly : Option Bool
deriving DecidableEq, Repr

/-- The record's fields. -/
def Obj.of (r : ObjRec) (latchMask : Nat) : Obj :=
  { mode := oNum r 2 1, flags := oNum r 3 1, state := oNum r 4 1, dir := oNum r 5 1, latched := oNum r 6 2 &&& latchMask, now := 0,
    tenter := oNum r 8 8, ops := oNum r 0x18 4, wincnt := oNum r 0x1C 2, winstart := oNum r 0x20 8, runtime := oNum r 0x28 8,
    taux := oNum r 0x30 8, fly := some false }

/-- Latch an alarm. -/
def Obj.latch (o : Obj) (k : Nat) : Obj := { o with latched := o.latched ||| 2 ^ k }
/-- Show an alarm that is recomputed at each evaluation. -/
def Obj.show_ (o : Obj) (k : Nat) : Obj := { o with now := o.now ||| 2 ^ k }
/-- Enter a state. -/
def Obj.enter (o : Obj) (t st : Nat) : Obj := { o with state := st, tenter := t }

/-- MODE (R399): LOCAL while LR = 1; MANUAL when it falls; CMDAUTO and CMDMAN otherwise, unless both are 1. -/
def objMode (r : ObjRec) (lr : Bool) : Nat :=
  let m := if oNum r 2 1 = 2 then 1 else oNum r 2 1
  let auto := oNum r 0x3C 1 ≠ 0
  let man := oNum r 0x3D 1 ≠ 0
  if lr then 2 else if auto && !man then 0 else if man && !auto then 1 else m

/-! ### MOTOR and PUMP (R400 to R405) -/

/-- Leave RUNNING: TAUX, and the flow flags (R405, Table 15-1). -/
def Obj.leaveRun (o : Obj) (t : Nat) : Obj := if o.state = 2 then { o with taux := t, flags := 0 } else o

/-- FAULT with an alarm latched. -/
def Obj.fail (o : Obj) (t k : Nat) : Obj := ({ ((o.leaveRun t).latch k) with dir := 0 }).enter t 6

/-- A stop: STARTING and RUNNING go to STOPPING, WAITING and BRAKING straight to STOPPED (R402, R403). -/
def Obj.stop (o : Obj) (t : Nat) : Obj :=
  let o := { (o.leaveRun t) with dir := 0, state := o.state }
  if o.state = 1 || o.state = 2 then o.enter t 3 else if o.state = 4 || o.state = 5 then o.enter t 0 else o

/-- Enter STARTING: OPS, and the window of starts (R401, R402). -/
def Obj.start (o : Obj) (t : Nat) (fly : Bool) : Obj :=
  let o := if o.wincnt = 0 || elapsed t o.winstart ≥ 3600000000000 then { o with winstart := t, wincnt := 1 } else { o with wincnt := o.wincnt + 1 }
  { (o.enter t 1) with ops := (o.ops + 1) % 2 ^ 32, fly := some fly }

/-- The order of two F32 values, neither a NaN. -/
def f32Ord (a b : Nat) : Ordering := fpOrd (f32.decode a) (f32.decode b)

/-- SPDFB in the commanded direction, where it is connected, valid and a number. -/
def objSpeed (r : ObjRec) (x : ObjIn) (dir : Nat) : Option Nat :=
  if oLink r 1 = 0 || !x.valid 1 || (f32.decode x.spd).isNan then none else some (if dir = 2 then f32.flip x.spd else x.spd)

/-- A start that has been accepted (Table 15-3b). -/
def Obj.accept (o : Obj) (r : ObjRec) (x : ObjIn) (t dir : Nat) : Obj :=
  let o := { o with dir := dir }
  let drive := decide (oNum r 1 1 ≥ 2)
  match objSpeed r x dir with
  | none => if drive then o.start t true else if elapsed t o.taux ≥ oMs r 0x4C then o.start t false else o.enter t 4
  | some s =>
    let thr := if drive then oNum r 0x58 4 else oNum r 0x5C 4
    if f32Ord s thr = .gt then (if drive then o.start t true else o.enter t 4)
    else if f32Ord s (f32.flip (oNum r 0x60 4)) = .lt then o.enter t (if drive then 5 else 4)
    else o.start t false

/-- A start request for a direction (R401). -/
def Obj.runReq (o : Obj) (r : ObjRec) (x : ObjIn) (t dir : Nat) : Obj :=
  match o.state with
  | 0 =>
    let blk := !x.on 5
    let lim := oNum r 0x64 1 > 0 && elapsed t o.winstart < 3600000000000 && o.wincnt = oNum r 0x64 1
    let o := if blk then o.show_ 9 else o
    let o := if lim then o.show_ 10 else o
    if blk || lim then { o with dir := 0 } else o.accept r x t dir
  | 3 => { o with dir := dir }
  | 6 => o
  | _ => if o.dir = dir then o else { (o.stop t) with dir := dir }

/-- Table 15-3a for MOTOR and PUMP. While TRIPPED is latched a run request is discarded (log entry 19). -/
def Obj.motorReq (o : Obj) (r : ObjRec) (x : ObjIn) (t : Nat) : Obj :=
  let cmd (k : Nat) : Bool := oNum r (0x38 + k) 1 ≠ 0
  let trip (o : Obj) : Obj := if x.on 7 then (o.stop t).latch 0 else o
  let fwd := match o.mode with | 0 => x.on 8 | 1 => cmd 0 | _ => x.on 3
  let rev := (match o.mode with | 0 => x.on 9 | 1 => cmd 2 | _ => false)
  if cmd 3 then
    let runs := x.valid 0 && x.on 0
    let keep := (if x.on 7 then o.latched &&& 1 else 0) ||| (if runs then o.latched &&& 0x14 else 0)
    let o := { o with latched := keep }
    trip (if keep = 0 && o.state = 6 then o.enter t 0 else o)
  else if x.on 7 then trip o
  else if o.state = 6 then o
  else if !x.on 6 && (o.state = 1 || o.state = 2 || o.state = 4 || o.state = 5) then (o.stop t).show_ 8
  else if x.on 4 || (o.mode ≠ 2 && cmd 1) || (o.mode = 0 && !fwd && !rev) || (fwd && rev) ||
      (oBit r 0x66 0 && !x.valid 0 && (o.state = 1 || o.state = 2)) then o.stop t
  else
    let dir := if fwd then 1 else if rev && oLink r 11 ≠ 0 then 2 else if o.state = 0 then o.dir else 0
    if dir = 0 || bitOf o.latched 0 then o else o.runReq r x t dir

/-- Flow supervision of a PUMP in RUNNING (R405). -/
def Obj.flow (o : Obj) (r : ObjRec) (x : ObjIn) (t : Nat) : Obj :=
  if oNum r 0 1 ≠ 0x22 || oLink r 14 = 0 || !x.valid 14 || o.state ≠ 2 then o
  else if !bitOf o.flags 0 then
    if x.on 14 then { o with flags := 1, taux := t } else if elapsed t o.tenter ≥ oMs r 0x50 then o.fail t 5 else o
  else if x.on 14 then (if bitOf o.flags 1 then { o with flags := 1, taux := t } else o)
  else
    let o := if bitOf o.flags 1 then o else { o with flags := 3, taux := t }
    if elapsed t o.taux ≥ oMs r 0x54 then o.fail t 6 else o

/-- The supervision of MOTOR and PUMP (R402 to R404): nothing is decided from a link that is not valid. -/
def Obj.motorWatch (o : Obj) (r : ObjRec) (x : ObjIn) (t : Nat) : Obj :=
  let fb := x.valid 0
  let run := x.on 0
  let since := elapsed t o.tenter
  match o.state with
  | 0 => if fb && run && since ≥ oMs r 0x44 then o.latch 4 else o
  | 1 =>
    if !fb then { o with fly := none }
    else if run then { (o.enter t 2) with flags := 0 }
    else if since ≥ oMs r 0x40 then o.fail t 1
    else { o with fly := none }
  | 2 => if fb && !run then o.fail t 3 else o.flow r x t
  | 3 => if !fb then o else if !run then { (o.enter t 0) with taux := t } else if since ≥ oMs r 0x44 then o.fail t 2 else o
  | 4 =>
    let go : Bool := match objSpeed r x o.dir with
      | none => decide (elapsed t o.taux ≥ oMs r 0x4C)
      | some s => f32Ord s (oNum r 0x5C 4) ≠ .gt && f32Ord s (f32.flip (oNum r 0x60 4)) ≠ .lt
    if go then o.start t false else if since ≥ oMs r 0x48 then o.fail t 1 else o
  | 5 =>
    let go : Bool := match objSpeed r x o.dir with | none => false | some s => f32Ord s (f32.flip (oNum r 0x60 4)) ≠ .lt
    if go then o.start t false else if since ≥ oMs r 0x48 then o.fail t 1 else o
  | _ => o

/-- One evaluation of a MOTOR or PUMP: RUNTIME, the requests, and, where they change no state, the supervision (log entry 19). -/
def motorEval (r : ObjRec) (x : ObjIn) (t : Nat) : Obj :=
  let o := Obj.of r 0x7F
  let o := if o.state = 2 then { o with runtime := (o.runtime + elapsed t (oNum r 0x10 8)) % 2 ^ 64 } else o
  let o := { o with mode := objMode r (x.on 2) }
  let o1 := o.motorReq r x t
  let o2 := if o1.state = o.state && o1.tenter = o.tenter then o1.motorWatch r x t else o1
  let bad := !x.valid 0 || !x.valid 1 || (oNum r 0 1 = 0x22 && !x.valid 14)
  let o2 := if bad then o2.show_ 7 else o2
  if o2.state = 4 || o2.state = 5 then o2.show_ 11 else o2

/-- What a MOTOR or PUMP drives, by link number: OUTFWD, OUTREV, OUTFLY, OUTBRAKE. -/
def motorOuts (o : Obj) : List (Nat × Option Bool) :=
  let on := o.state = 1 || o.state = 2
  [(10, some (on && o.dir = 1)), (11, some (on && o.dir = 2)), (12, if o.state = 1 then o.fly else some false), (13, some (decide (o.state = 5)))]

/-! ### VALVE (R406) -/

/-- The state that the end switches show. -/
def endState (x : ObjIn) : Nat := if x.on 0 then 2 else if x.on 1 then 0 else 4

/-- A travel that has been accepted or that a trip demands. -/
def Obj.travel (o : Obj) (t dir : Nat) : Obj := { (o.enter t (if dir = 1 then 1 else 3)) with dir := dir, ops := (o.ops + 1) % 2 ^ 32 }

/-- Is a valve already at, or on its way to, a position? -/
def Obj.bound (o : Obj) (dir : Nat) : Bool := if dir = 1 then o.state = 1 || o.state = 2 else o.state = 3 || o.state = 0

/-- A motorised valve halts. -/
def Obj.halt (o : Obj) (x : ObjIn) (t : Nat) : Obj :=
  if o.state = 1 || o.state = 3 then { (o.enter t (endState x)) with dir := 0 } else { o with dir := 0 }

/-- Table 15-3a for a VALVE. A latched TRIPPED keeps travel requests out; it does not by itself put the valve in FAULT, so that SAFEPOS can be
reached (log entry 19). -/
def Obj.valveReq (o : Obj) (r : ObjRec) (x : ObjIn) (t : Nat) : Obj :=
  let sol := oNum r 1 1 ≥ 1
  let cmd (k : Nat) : Bool := oNum r (0x38 + k) 1 ≠ 0
  let safe := oNum r 0x65 1
  let trip (o : Obj) : Obj :=
    let o := o.latch 0
    if o.state = 5 then { o with dir := if safe = 1 then 1 else if safe = 2 then 2 else o.dir }
    else if safe = 1 || safe = 2 then (if o.bound safe then o else o.travel t safe)
    else if sol then o else o.halt x t
  let opn := match o.mode with | 0 => x.on 8 | 1 => cmd 0 | _ => x.on 3
  let cls := match o.mode with | 0 => !x.on 8 | 1 => cmd 2 | _ => x.on 9
  let dir := if opn then 1 else if cls then 2 else 0
  if cmd 3 then
    let keep := (if x.on 7 then o.latched &&& 1 else 0) ||| (if x.on 0 && x.on 1 then o.latched &&& 8 else 0)
    let o := { o with latched := keep }
    let o := if keep &&& 0xE = 0 && o.state = 5 then { (o.enter t (endState x)) with dir := 0 } else o
    if x.on 7 then trip o else o
  else if x.on 7 then trip o
  else if o.state = 5 then o
  else if opn && cls then (if sol then o else o.halt x t)
  else if (x.on 4 || (o.mode ≠ 2 && cmd 1)) && !sol then o.halt x t
  else if dir = 0 || o.bound dir || bitOf o.latched 0 || (o.mode = 0 && o.dir = dir) then o
  else if !x.on (if dir = 1 then 5 else 6) then o.show_ 8
  else o.travel t dir

/-- The supervision of a VALVE. -/
def Obj.valveWatch (o : Obj) (r : ObjRec) (x : ObjIn) (t : Nat) : Obj :=
  let since := elapsed t o.tenter
  let bad (o : Obj) (k : Nat) : Obj := (o.latch k).enter t 5
  if x.valid 0 && x.valid 1 && x.on 0 && x.on 1 && o.state ≠ 5 then bad o 3
  else
    let move (tgt from_ : Nat) (done : Nat) : Obj :=
      if x.valid tgt && x.on tgt then o.enter t done
      else if x.valid from_ && x.on from_ && since ≥ oMs r 0x44 then bad o 2
      else if x.valid tgt && since ≥ oMs r 0x40 then bad o 1
      else o
    match o.state with
    | 1 => move 0 1 2
    | 3 => move 1 0 0
    | 2 => if x.valid 0 && !x.on 0 then { (o.enter t 4) with taux := t } else o
    | 0 => if x.valid 1 && !x.on 1 then { (o.enter t 4) with taux := t } else o
    | 4 => if x.valid 0 && x.on 0 then o.enter t 2 else if x.valid 1 && x.on 1 then o.enter t 0 else o
    | _ => o

/-- One evaluation of a VALVE. POSLOST shows an INTERMEDIATE position that no halt and no reset left. -/
def valveEval (r : ObjRec) (x : ObjIn) (t : Nat) : Obj :=
  let o := { Obj.of r 0x0F with mode := objMode r (x.on 2) }
  let o1 := o.valveReq r x t
  let o2 := if o1.state = o.state && o1.tenter = o.tenter then o1.valveWatch r x t else o1
  let o2 := if o2.state = 4 && o2.dir ≠ 0 then o2.show_ 4 else o2
  if !x.valid 0 || !x.valid 1 then o2.show_ 7 else o2

/-- What a VALVE drives: OUTOPEN, or the solenoid, and OUTCLOSE. -/
def valveOuts (r : ObjRec) (o : Obj) : List (Nat × Option Bool) :=
  if oNum r 1 1 ≥ 1 then [(10, some (decide (o.dir = 1))), (11, some false)]
  else [(10, some (decide (o.state = 1))), (11, some (decide (o.state = 3)))]

/-! ### The routine (R395, R399, R407) -/

/-- The bytes 0x02 to 0x3F of the record after an evaluation: its fields, TLAST, and the operator commands cleared. -/
def Obj.bytes (o : Obj) (t : Nat) : List Byte :=
  natLe 1 o.mode ++ natLe 1 o.flags ++ natLe 1 o.state ++ natLe 1 o.dir ++ natLe 2 (o.latched ||| o.now) ++ natLe 8 o.tenter ++ natLe 8 t ++
  natLe 4 o.ops ++ natLe 2 o.wincnt ++ natLe 2 0 ++ natLe 8 o.winstart ++ natLe 8 o.runtime ++ natLe 8 o.taux ++ List.replicate 8 0

/-- The records of a mode change, of each alarm newly latched, and of FAULT entered or left. -/
def objFx (tag : Nat) (r : ObjRec) (o : Obj) (t fault : Nat) : List CommitFx :=
  let old := oNum r 6 2
  let rec_ := words [2, tag, o.state, o.latched ||| o.now, o.ops, t]
  let mode := if o.mode = oNum r 2 1 then [] else [CommitFx.object 0 0 (words [1, tag, oNum r 2 1, o.mode, t])]
  let fresh := (List.range 7).filter (fun k => bitOf o.latched k && !bitOf old k)
  let turn := decide (o.state = fault) != decide (oNum r 4 1 = fault)
  mode ++ fresh.map (fun _ => .object 0 0 rec_) ++ (if turn then [.object 0 0 rec_] else [])

/-- Values a routine leaves in the registers it does not preserve: W0 to W7, WB and FL are free (log entries 2 and 18). -/
def Mx.clobber (m : Mx) : Mx :=
  (List.range 10).foldl (fun m i =>
    let v := m.s.free
    let m := { m with s := v.2 }
    m.setSt fun st => if i < 8 then st.setReg i v.1 else if i = 8 then { st with wb := BitVec.ofNat 64 v.1 } else { st with fl := BitVec.ofNat 8 v.1 }) m

/-- Evaluate the object whose record W0 addresses, by the routine of a TYPE, and return. -/
def semObject (type : Nat) : Sem := fun c m =>
  let a := m.st.reg 0 % 2 ^ 40
  let t := relTime m.r.rel
  if a % 8 ≠ 0 then raise m 0x05 0 a
  else if m.st.reg 0 / 2 ^ 40 ≠ 0 then raise m 0x06 0x03 a
  else if m.st.depth = 0 then raise m 0x0E 0 0
  else
    let chk (k : AccKind) (m : Mx) : XR Unit :=
      match m.s.laneRefuses c.e.newRules c.t k a 192 with
      | some b => m.refuse c k b a
      | none => .ok () m
    (chk .wr m).bind fun _ m => (chk .rd m).bind fun _ m => (m.load c a 192).bind fun r m =>
      if oNum r 0 1 ≠ type || oReserved type r || oNum r 0x10 8 = t then raise m 0x08 0 a
      else
        let valve := type = 0x23
        let skip := if type = 0x22 then [10, 11, 12, 13] else [10, 11, 12, 13, 14]
        (m.linksIn c r (if valve then none else some 1) skip).bind fun x m =>
        (m.linksOut c r (if valve then [10, 11] else [10, 11, 12, 13])).bind fun outs m =>
          let o := if valve then valveEval r x t else motorEval r x t
          let drive := if valve then valveOuts r o else motorOuts o
          let m := drive.foldl (fun m d =>
            match d.2, outs.find? (fun y => y.1 = d.1) with
            | some b, some y => m.store c y.2 [if b then 1 else 0]
            | _, _ => m) m
          let m := m.store c (a + 2) (o.bytes t)
          let tag := ((m.s.cfg.objs.find? (fun d => d.addr = a)).map (fun d => d.tag.toNat)).getD 0
          let m := { m with r := { m.r with fx := m.r.fx ++ objFx tag r o t (if valve then 5 else 6) } }
          let m := m.clobber
          let b : Branch := { addr := m.st.pc, taken := true, target := m.st.reg 15 % 2 ^ 32, kind := .ret }
          .ok (.goto b.target) (m.setSt fun st =>
            StreamRt.land { st with wa := BitVec.ofNat 64 o.state, la := decide (o.state = 2) } b 0)

end Sys2Proof.Machine
end

