-- ==== Sys2Proof/Machine/FieldIo.lean ====
section
/-! DEFINITION. The field I/O block (13, R350 to R379): universal channels, rings, analogue inputs and outputs, the ADC sequencer, HART, and
the block's device space. -/
namespace Sys2Proof.Machine

/-! ### Rings (R310) -/

/-- The tail of a ring by the latest commit (R310): its system variable, or the register while the configuration gives it no address. -/
def State.ringTail (s : State) (k : SysKind) (seat : Bool) (ix : Nat) (f : Fld) : Nat :=
  match s.sysAddr k seat ix with
  | some a => leNat (memRdL s.sq.mem a 2)
  | none => s.getF f ix

/-- Is a ring of n entries full: n entries not yet consumed? -/
def ringFull (n head tail : Nat) : Bool := decide ((head + 65536 - tail) % 65536 ≥ n)

/-- The image mover writes field data of the own seat into the Square (Table 16-1, channels 24 to 31), checked by its ACU (R185), and then what follows
a write that was performed. -/
def State.ingest (s : State) (a : Nat) (bs : List Byte) (then_ : State → State) : State :=
  s.byEngines [0x200] .wr [(a, bs.length)] (fun s => then_ (s.seatWrite a bs))

/-- Put an entry of `size` bytes into a ring of n entries in the Square at position `head`; then its head moves on. -/
def State.ringPut (s : State) (k : SysKind) (seat : Bool) (ix n size head : Nat) (bs : List Byte) (then_ : State → State) : State :=
  match s.sysAddr k seat ix with
  | some a => s.ingest (a + head % n * size) bs then_
  | none => then_ s

/-! ### Universal channels (R352 to R360) -/

/-- A universal channel that has never been sampled. -/
def DioCh.reset : DioCh :=
  { c := 0, raw := false, wb := 0, count := 0, ext := 0, light := 0, pulse := none, pulseEnd := 0, failed := false, stuck := false,
    hot := false }

/-- A channel of the module's own seat. -/
def State.dioCh (s : State) (n : Nat) : DioCh := tabGet DioCh.reset s.io.dio n
/-- Change it. -/
def State.modDio (s : State) (n : Nat) (f : DioCh → DioCh) : State := { s with io := { s.io with dio := tabMod DioCh.reset s.io.dio n f } }

/-- Does the channel's MODE make it an input (001 to 011)? -/
def isIn (mode : Nat) : Bool := mode = 1 || mode = 2 || mode = 3
/-- Does it make it an output (100, 101)? -/
def isOutM (mode : Nat) : Bool := mode = 4 || mode = 5
/-- Is a field supply present (R351)? -/
def State.fieldPower (s : State) : Bool := s.flag DIO_STAT_FSA || s.flag DIO_STAT_FSB
/-- Is an overload or a thermal shutdown latched? -/
def State.latched (s : State) (n : Nat) : Bool := s.flag DIO_CHSTAT_OVL n || s.flag DIO_CHSTAT_THERM n

/-- Is an output signal at a place under a tripped function, whose outputs take their safe values (R337)? -/
def State.trippedAt (s : State) (src : SigSrc) : Bool :=
  s.cfg.fns.any (fun f => s.getF SFY_FNSTAT_STATE f.no.val = 2 &&
    s.cfg.sigs.any (fun g => g.out && g.src = src && f.outs.contains g.no))

/-- The configured safe value of the output signal at a place. -/
def State.safeAt (s : State) (src : SigSrc) : Nat := ((s.cfg.sigs.find? (fun g => g.out && g.src = src)).map SigDef.safeVal).getD 0

/-- The value commanded of a channel: the committed one, or its safe value while the module's state or a trip holds it there. -/
def State.commanded (s : State) (n : Nat) : Bool :=
  let src : SigSrc := .dio s.seatB (Fin.ofNat 32 n)
  if s.io.hold || s.trippedAt src then decide (s.safeAt src % 2 = 1) else s.flag DIO_CHSTAT_VALUE n

/-- Is the output driven on: commanded on, no latch, no failed test, no off-pulse, a supply present, the safe-state drivers released and
working (R20, R332 to R335, R351, R359)? -/
def State.driven (s : State) (n : Nat) : Bool :=
  let c := s.dioCh n
  isOutM (s.getF DIO_CHCFG_MODE n) && s.commanded n && !s.latched n && !c.failed && c.pulse.isNone && s.fieldPower &&
  !s.io.safe && !s.io.badDrivers.contains n

/-- Is the channel unhealthy (R351, R355, R359, R332, R334, R335)? -/
def State.dioSick (s : State) (n : Nat) : Bool :=
  let c := s.dioCh n
  let m := s.getF DIO_CHCFG_MODE n
  !s.fieldPower ||
  (isIn m && ((m = 3 && decide (c.wb ≥ 4)) || bitOf (s.getF DIO_STAT_VSLIM) (n / 8) || s.flag DIO_CHSTAT_TESTFAIL n)) ||
  (isOutM m && (s.latched n || (m = 5 && (c.failed || c.stuck || s.io.badDrivers.contains n))))

/-- A condition that makes the channel unhealthy shows at once. -/
def State.showSick (s : State) (n : Nat) : State := if s.dioSick n then s.setF DIO_CHSTAT_UNHEALTHY 1 n else s

/-- The event tasks that a trigger activates get an activation with a stamp (R42). -/
def State.trigger (s : State) (t : Trigger) (stamp : Nat) : State :=
  s.cfg.tasks.foldl (fun s d => if d.triggers.contains t && s.kind d.no.val = 1 then s.ask d.no.val stamp .activate none else s) s

/-- An edge entry of Table 13-4. -/
def edgeEntry (stamp ch : Nat) (falling : Bool) (seq : Nat) : List Byte :=
  natLe 6 (stamp / 1000000000) ++ natLe 2 (ch + 32 * b2n falling) ++ natLe 4 (stamp % 1000000000) ++ natLe 4 seq

/-- An edge of a seat is written to that seat's ring, or dropped if it is full (R357, R310). The head of the own seat's ring is
DIO_EDGEHEAD.HEAD; LOST counts on this module's ring of its own seat. -/
def State.edgePut (s : State) (ch : Nat) (falling : Bool) (stamp : Nat) : State :=
  let seq := s.io.edgeSeq
  let s := { s with io := { s.io with edgeSeq := (seq + 1) % 2 ^ 32 } }
  let head := s.getF DIO_EDGEHEAD_HEAD
  if ringFull 4096 head (s.ringTail .dioTail s.seatB 0 DIO_EDGETAIL_TAIL) then s.bump DIO_EDGEHEAD_LOST
  else (s.ringPut .dioEdge s.seatB 0 4096 16 head (edgeEntry stamp ch falling seq) (fun s => s.wrapUp DIO_EDGEHEAD_HEAD))

/-- The raw level that a sample shows (Tables 13-2 and 13-3); a wire break reads as an open contact, and between 3.5 and 4.5 mA the level
keeps (log entry 10). -/
def rawOf (mode : Nat) (old : Bool) (x : DioSamp) : Bool :=
  if mode = 3 then (if x.cur < 3500 then false else if x.cur ≥ 4500 then true else old) else x.level

/-- One sample tick of an input channel (R353 to R358). -/
def State.sampleIn (s : State) (n mode : Nat) (x : DioSamp) : State :=
  let c := s.dioCh n
  let raw := rawOf mode c.raw x
  let filt := s.getF DIO_CHCFG_FILT n
  let k := if raw then min (c.c + 1) filt else c.c - 1
  let wb := if mode = 3 && x.cur < 500 then min (c.wb + 1) 4 else 0
  let old := s.flag DIO_CHSTAT_VALUE n
  let val := if k = filt then true else if k = 0 then false else old
  let rise := val && !old
  let cnt := if rise && s.flag DIO_CHCFG_COUNT n then (c.count + 1) % 2 ^ 32 else c.count
  let s := s.modDio n (fun c => { c with c := k, raw := raw, wb := wb, count := cnt })
  let s := (s.setB DIO_CHSTAT_VALUE val n).setB DIO_CHSTAT_WIREBRK (decide (wb ≥ 4)) n
  let s := s.setB DIO_CHSTAT_UNHEALTHY (s.dioSick n) n
  if val != old && bitOf (s.getF DIO_CHCFG_EDGE n) (if val then 0 else 1) && !decide (wb ≥ 4) then
    (s.edgePut n (!val) x.entered).trigger (.edge s.seatB (Fin.ofNat 32 n)) x.entered
  else s

/-- One sample tick of an output channel (R332, R334, R359, R360). -/
def State.sampleOut (s : State) (n mode : Nat) (x : DioSamp) : State :=
  let on := s.driven n
  let c := s.dioCh n
  let commanded := s.commanded n
  let s := s.setF DIO_CHSTAT_CURRENT (sat 16 (x.load / 1000)) n
  let ext := if !on && x.volt > 12000 then min (c.ext + 1) 2 else 0
  let light := if on && s.flag DIO_CHCFG_OPENEN n && x.load < 5000 then min (c.light + 1) 3200 else 0
  let s := if light ≥ 3200 then s.setF DIO_CHSTAT_OPENLD 1 n else if x.load ≥ 5000 then s.setF DIO_CHSTAT_OPENLD 0 n else s
  let s := if ext ≥ 2 then s.setF DIO_CHSTAT_EXTFEED 1 n else if x.volt < 5000 then s.setF DIO_CHSTAT_EXTFEED 0 n else s
  let newStuck := mode = 5 && !commanded && decide (ext ≥ 2)
  let s := if newStuck && !c.stuck then (s.bump SFY_TESTSTAT_READFAIL).setF SFY_TESTSTAT_LASTCH n else s
  let stuck := if newStuck then true else if x.volt < 5000 then false else c.stuck
  let p := c.pulse.map fun p =>
    let low := if x.volt < 5000 then p.low + 1 else 0
    { p with low := low, passed := p.passed || decide (low ≥ 2) }
  let s := s.modDio n (fun c => { c with ext := ext, light := light, stuck := stuck, pulse := p, hot := x.hot })
  let s := if s.latched n && !s.flag DIO_CHSTAT_VALUE n && !x.hot then (s.setF DIO_CHSTAT_OVL 0 n).setF DIO_CHSTAT_THERM 0 n else s
  s.setB DIO_CHSTAT_UNHEALTHY (s.dioSick n) n

/-- One sample tick of a channel. -/
def State.sampleCh (s : State) (n : Nat) (x : DioSamp) : State :=
  let mode := s.getF DIO_CHCFG_MODE n
  if isIn mode then s.sampleIn n mode x
  else if isOutM mode then s.sampleOut n mode x
  else s.setB DIO_CHSTAT_UNHEALTHY (s.dioSick n) n

/-- A commit of an output value to a channel (R359): a committed 0 releases a latch once the junction is below 150 °C. -/
def State.dioCommit (s : State) (n : Nat) (v : Bool) : State :=
  let s := s.setB DIO_CHSTAT_VALUE v n
  if !v && s.latched n && !(s.dioCh n).hot then (s.setF DIO_CHSTAT_OVL 0 n).setF DIO_CHSTAT_THERM 0 n else s

/-! ### Analogue inputs (R361 to R364) -/

/-- An analogue input that has no sample yet. -/
def AiCh.reset : AiCh := ⟨0, 0, 0, false, 0⟩
/-- An analogue input. -/
def State.aiCh (s : State) (n : Nat) : AiCh := tabGet AiCh.reset s.io.ai n

/-- The loop supply voltage in 0.1 µV for a current in 0.1 µA (R362, R363). -/
def loopVolt (therm : Bool) (vmin rloop i : Nat) : Nat :=
  min 280000000 (max 120000000 (vmin * 5000000 + i * (100 + (if therm then 0 else rloop)) + 10000000))

/-- Does an input read BAD for its current (Table 13-6)? -/
def State.aiRange (s : State) (n : Nat) : Bool :=
  let i := (s.aiCh n).y
  if s.flag AIO_AICFG_RANGE n then decide (i > 210000) else decide (i < 36000) || decide (i > 210000)

/-- Is an input captured with status BAD (R351, R364, R375)? -/
def State.aiBad (s : State) (n : Nat) : Bool := s.aiRange n || decide (s.io.adcFails ≥ 3) || !s.fieldPower

/-- Show an input's state (Table 13-15); coarser units are truncated (log entry 11). -/
def State.showAi (s : State) (n : Nat) : State :=
  let i := (s.aiCh n).y
  let near := !s.flag AIO_AICFG_RANGE n && ((36000 ≤ i && decide (i < 38000)) || (decide (i > 205000) && i ≤ 210000))
  ((s.setB AIO_AISTAT_LIMIT near n).setB AIO_AISTAT_BAD (s.aiBad n) n).setF AIO_AISTAT_CUR (sat 16 (i / 5)) n

/-- A new sample of an input, in 0.1 µA (R361): the filter takes it with the time since the previous one. -/
def State.aiSample (s : State) (n x t : Nat) : State :=
  let c := s.aiCh n
  let tau := s.getF AIO_AICFG_TAU n * 10000000
  let y := if tau = 0 || !c.have_ then x else Config.filterStep c.y x (t - c.time) tau
  let s := { s with io := { s.io with ai := tabSet s.io.ai n { c with x := x, y := y, time := t, have_ := true } } }
  let lim := s.flag AIO_AICFG_LSON n && decide (x ≥ 250000) && !s.flag AIO_AISTAT_LSOFF n
  let s := s.setB AIO_AISTAT_LSLIM lim n
  let s := if lim && s.flag AIO_STAT_THERMLIM then s.setF AIO_AISTAT_LSOFF 1 n else s
  s.showAi n

/-- Set the loop supply of an input for the round's filtered current. -/
def State.loopSet (s : State) (n : Nat) : State :=
  if s.flag AIO_AICFG_LSON n && !s.flag AIO_AISTAT_LSOFF n then
    let v := loopVolt (s.flag AIO_STAT_THERMLIM) (s.getF AIO_AICFG_VMIN n) (s.getF AIO_AICFG_RLOOP n) (s.aiCh n).y
    let s := { s with io := { s.io with ai := tabMod AiCh.reset s.io.ai n (fun c => { c with vls := v }) } }
    s.setF AIO_AISTAT_LSV (sat 8 (v / 1250000)) n
  else
    let s := { s with io := { s.io with ai := tabMod AiCh.reset s.io.ai n (fun c => { c with vls := 0 }) } }
    s.setF AIO_AISTAT_LSV 0 n

/-- The F32 bits of a rational n / d, rounded in the direction left open. -/
def fieldF32 (neg : Bool) (n d : Nat) : Nat := (f32.round Config.fieldRounding.val neg n d 0).bits

/-- A finite F32 as an integer of units 2^−149, which every finite F32 is a multiple of; none for an infinity or a NaN. -/
def f32Units (v : Nat) : Option Int :=
  match f32.decode (v % 2 ^ 32) with
  | .fin neg m e => some (if neg then -((m * 2 ^ (e + 149).toNat : Nat) : Int) else ((m * 2 ^ (e + 149).toNat : Nat) : Int))
  | _ => none

/-- An integer numerator and a denominator of units 2^−149 as F32. -/
def unitsF32 (n : Int) (d : Nat) : Nat := fieldF32 (decide (n < 0)) n.natAbs (d * 2 ^ 149)

/-- The integer square root by Newton's method from above, with fuel. -/
def isqrtN : Nat → Nat → Nat → Nat
  | 0, _, x => x
  | f + 1, n, x => let y := (x + n / x) / 2; if y ≥ x then x else isqrtN f n y

/-- √(n / d) as a fraction of 2^60, rounded down. -/
def sqrtFrac (n d : Nat) : Nat := let v := n * 2 ^ 120 / d; isqrtN 200 v (2 ^ (v.log2 / 2 + 1))

/-- Interpolation in the characteristic's table of rising x, clamped at its ends: x and the result in units of 2^−149, the result over a
denominator. -/
def tableUnits (x : Int) : List (Int × Int) → Int × Nat
  | [] => (0, 1)
  | [p] => (p.2, 1)
  | p :: q :: l =>
    if x ≤ p.1 then (p.2, 1)
    else if x < q.1 then (p.2 * (q.1 - p.1) + (x - p.1) * (q.2 - p.2), (q.1 - p.1).toNat)
    else tableUnits x (q :: l)

/-- The characteristic of an input at a current in 0.1 µA (R364): linear, square root with its cut-off, or table. -/
def aiChar (d : AiDef) (char i : Nat) : Nat :=
  match f32Units d.lo, f32Units d.hi with
  | some lo, some hi =>
    if char = 2 then
      let ps := d.table.filterMap (fun p => match f32Units p.1, f32Units p.2 with | some a, some b => some (a, b) | _, _ => none)
      let r := tableUnits ((i * 2 ^ 149 / 10000 : Nat) : Int) ps
      unitsF32 r.1 r.2
    else
      let num : Int := (i : Int) - 40000
      if char = 1 then
        let cut := (f32Units d.cut).getD 0
        if num * 2 ^ 149 < cut * 160000 || num < 0 then d.lo
        else unitsF32 (lo * 2 ^ 60 + (hi - lo) * (sqrtFrac num.natAbs 160000 : Nat)) (2 ^ 60)
      else unitsF32 (lo * 160000 + num * (hi - lo)) 160000
  | _, _ => d.lo

/-- The characteristic of RANGE = 1: from 0 to 20 mA. -/
def aiChar20 (d : AiDef) (char i : Nat) : Nat := aiChar d char (if char = 2 then i else 40000 + i * 4 / 5)

/-- The value and status of an analogue input signal (Table 13-6): status 0 GOOD, 3 BAD. -/
def State.aiSignal (s : State) (n : Nat) : Nat × Nat :=
  match s.cfg.ais.find? (fun d => d.ch.val = n) with
  | none => (0, 3)
  | some d =>
    let i := (s.aiCh n).y
    if s.aiBad n then (d.sub, 3)
    else if s.flag AIO_AICFG_RANGE n then (aiChar20 d (s.getF AIO_AICFG_CHAR n) i, 0)
    else (aiChar d (s.getF AIO_AICFG_CHAR n) (max 38000 (min 205000 i)), 0)

/-! ### Analogue outputs (R368 to R370) -/

/-- An analogue output that has never been committed. -/
def AoCh.reset : AoCh := ⟨0, 0, 1, 0, 0, 0, 0, 0, 0, 0⟩
/-- An analogue output. -/
def State.aoCh (s : State) (n : Nat) : AoCh := tabGet AoCh.reset s.io.ao n
/-- Change it. -/
def State.modAo (s : State) (n : Nat) (f : AoCh → AoCh) : State := { s with io := { s.io with ao := tabMod AoCh.reset s.io.ao n f } }
/-- The safe value of an output, in 0.1 µA. -/
def State.aoSafe (s : State) (n : Nat) : Nat := ((s.cfg.aos.find? (fun d => d.ch.val = n)).map AoDef.safeCur).getD 0

/-- Clamp a fraction between two bounds. -/
def clampFrac (lo hi : Nat) (num : Int) (den : Nat) : Int × Nat :=
  if num < (lo * den : Nat) then ((lo : Int), 1) else if num > (hi * den : Nat) then ((hi : Int), 1) else (num, den)

/-- The commanded current in 0.1 µA of an F32 engineering value (R368); none where the manual gives none (a NaN, a span of zero). -/
def aoCurrent (d : AoDef) (range20 : Bool) (v : Nat) : Option (Int × Nat) :=
  match f32Units v, f32Units d.lo, f32Units d.hi with
  | some v, some lo, some hi =>
    if hi = lo then none
    else
      let sg : Int := if hi < lo then -1 else 1
      let span := (hi - lo).natAbs
      let num := sg * (v - lo)
      some (if range20 then clampFrac 0 240000 (num * 200000) span
            else clampFrac 38000 205000 (40000 * (span : Int) + num * 160000) span)
  | none, some _, some _ =>
    (match f32.decode (v % 2 ^ 32) with
     | .inf neg => some (if range20 then (if neg then 0 else 240000, 1) else (if neg then 38000 else 205000, 1))
     | _ => none)
  | _, _, _ => none

/-- Command a current: the converter is written when it changes. -/
def State.aoDrive (s : State) (n : Nat) (c : Int × Nat) : State :=
  let o := s.aoCh n
  if o.num * c.2 = c.1 * o.den then s else s.modAo n (fun o => { o with num := c.1, den := c.2, changed := s.now, overload := 0 })

/-- The current an output should carry now: its safe value while the safe-state drivers hold it or a readback fault with RBSAFE stands, its
committed value otherwise. -/
def State.aoTarget (s : State) (n : Nat) : State :=
  if s.io.safe || s.io.hold || s.trippedAt (.ao s.seatB (Fin.ofNat 8 n)) || (s.flag AIO_AOSTAT_RBFAIL (n + 16) && s.flag AIO_AOCFG_RBSAFE (n + 16)) then s.aoDrive n ((s.aoSafe n : Nat), 1)
  else match s.cfg.aos.find? (fun d => d.ch.val = n) with
    | none => s
    | some d =>
      match aoCurrent d (s.flag AIO_AOCFG_RANGE (n + 16)) (s.aoCh n).val with
      | some c => s.aoDrive n c
      | none => let f := s.free; f.2.aoDrive n ((f.1 % 262144 : Nat), 1)

/-- A commit of an F32 value to an output. -/
def State.aoCommit (s : State) (n v : Nat) : State :=
  if (s.aoCh n).val = v then s.aoTarget n else (s.modAo n (fun o => { o with val := v })).aoTarget n

/-- Is the output unhealthy (R351, R369, R375)? -/
def State.aoSick (s : State) (n : Nat) : Bool := s.flag AIO_AOSTAT_RBFAIL (n + 16) || decide (s.io.rbFails ≥ 3) || !s.fieldPower

/-- What a readback shows of an output that then stands as `o` (Table 13-18): its current, the open loop and the compliance limit after 16
readbacks with or without them, and an overload of 16, which is a readback fault. -/
def State.readbackShow (s : State) (n : Nat) (o : AoCh) : State :=
  let s := s.modAo n (fun _ => o)
  let s := s.setF AIO_AOSTAT_RBCUR (sat 16 (o.rb / 5)) (n + 16)
  let s := if o.opn ≥ 16 then s.setF AIO_AOSTAT_OPENLP 1 (n + 16) else if o.opnOff ≥ 16 then s.setF AIO_AOSTAT_OPENLP 0 (n + 16) else s
  let s := if o.com ≥ 16 then s.setF AIO_AOSTAT_COMPL 1 (n + 16) else if o.comOff ≥ 16 then s.setF AIO_AOSTAT_COMPL 0 (n + 16) else s
  if o.overload ≥ 16 && !s.flag AIO_AOSTAT_RBFAIL (n + 16) then ((s.setF AIO_AOSTAT_RBFAIL 1 (n + 16)).evHw 3 [n, o.rb]).aoTarget n else s

/-- One readback of an output. -/
def State.readback (s : State) (n : Nat) (x : AoSamp) : State :=
  let o := s.aoCh n
  let diff : Nat := ((x.cur * o.den : Nat) - o.num : Int).natAbs
  let bad := decide (diff > 2000 * o.den) && decide (diff * 100 > o.num.natAbs)
  let overload := if decide (s.now < o.changed + 1000000) || !bad then 0 else min (o.overload + 1) 16
  let opn := x.limit && decide (x.cur < 5000) && decide (o.num ≥ (10000 * o.den : Nat))
  let up (b : Bool) (k : Nat) : Nat := if b then min (k + 1) 16 else 0
  s.readbackShow n { o with rb := x.cur, overload := overload, opn := up opn o.opn, opnOff := up (!opn) o.opnOff,
                            com := up x.near o.com, comOff := up (!x.near) o.comOff }

/-- All analogue outputs, one after the other. -/
def State.readbackAll (s : State) : Nat → List AoSamp → State
  | _, [] => s
  | n, x :: l => if n < 8 then (s.readback n x).readbackAll (n + 1) l else s

/-- Command every analogue output anew. -/
def State.aoAll (s : State) : State := (List.range 8).foldl (fun s n => s.aoTarget n) s

/-- The Kerb's safe-state drivers take every on-module output (R20): universal outputs off, analogue outputs at their safe value; or they let
go after a restart. -/
def State.kerbDrive (s : State) (b : Bool) : State := State.aoAll { s with io := { s.io with safe := b } }

/-- The module's state holds the outputs at their safe values, or lets them follow commits (R201). -/
def State.outputsHold (s : State) (b : Bool) : State := State.aoAll { s with io := { s.io with hold := b } }

/-! ### The ADC sequencer (R371 to R375) -/

/-- A sample of a source is complete: its latest code, and for an analogue input its filter. -/
def State.adcTake (s : State) (src code t : Nat) : State :=
  let code := if src ≥ 0x25 then 0 else code
  let s := { s with io := { s.io with srcs := tabSet s.io.srcs src code } }
  if src < 16 then s.aiSample src code t else s

/-- Serve urgent requests in ascending source number, with the codes the converter gives them in that order (R374). -/
def State.serveUrgent (s : State) (t : Nat) : List (Nat × Nat × Bool) → List (BitVec 18) → State
  | q :: qs, c :: cs =>
    let s := s.adcTake q.1 c.toNat t
    let s := if q.2.2 then (s.setF ADC_URGRES_CODE (if q.1 ≥ 0x25 then 0 else c.toNat)).setF ADC_URGENT_DONE 1 else s
    s.serveUrgent t qs cs
  | qs, _ => ({ s with io := { s.io with urgent := qs } }).setB ADC_STAT_URGPEND (!qs.isEmpty)

/-- Serve what waits. -/
def State.serveAll (s : State) (t : Nat) (codes : List (BitVec 18)) : State := s.serveUrgent t s.io.urgent codes

/-- Ask for an urgent sample: one request per source and origin, in order of source. -/
def State.askUrgent (s : State) (src ovs : Nat) (setup : Bool) : State :=
  if s.io.urgent.any (fun q => q.1 = src && q.2.2 = setup) then s
  else ({ s with io := { s.io with urgent := insSort (fun a b => decide (a.1 < b.1)) (src, ovs, setup) s.io.urgent } }).setF
    ADC_STAT_URGPEND 1

/-- The end of a round: its duration, the loop supplies, and the sequence that set-up wrote (R362, R371). -/
def State.roundEnd (s : State) (t : Nat) : State :=
  let s := s.setF ADC_STAT_ROUND (sat 16 ((t - s.io.roundAt) / 1000))
  let s := { s with io := { s.io with roundAt := t } }
  ((List.range 16).foldl (fun s n => s.loopSet n) s).applyDue .adcRound

/-- An entry of the sequence completes. -/
def State.entryDone (s : State) (code t : Nat) : State :=
  let e := s.getF ADC_STAT_ENTRY
  let src := s.getF ADC_SEQENT_SRC e
  let s := { s with io := { s.io with codes := tabSet s.io.codes e (if src ≥ 0x25 then 0 else code) } }
  let s := if src ≥ 0x25 then s else s.adcTake src code t
  if e + 1 ≥ s.getF ADC_CTL_SEQLEN then (s.setF ADC_STAT_ENTRY 0).roundEnd t else s.setF ADC_STAT_ENTRY (e + 1)

/-! ### HART (R365 to R367) -/

/-- A HART device that has never answered. -/
def HartDev.reset : HartDev := ⟨0, false, [], false, false⟩
/-- A device. -/
def State.hartDev (s : State) (n : Nat) : HartDev := tabGet HartDev.reset s.io.hart n
/-- Change it. -/
def State.modHart (s : State) (n : Nat) (f : HartDev → HartDev) : State := { s with io := { s.io with hart := tabMod HartDev.reset s.io.hart n f } }
/-- The modem that serves an input: its own for 0 to 3, the shared one otherwise. -/
def modemOf (ch : Nat) : Nat := if ch < 4 then ch else 4
/-- Is a modem in a transaction? -/
def State.modemBusy (s : State) (m : Nat) : Bool := s.cfg.harts.any (fun d => modemOf d.ch.val = m && (s.hartDev d.dev).busy)

/-- How many devices answer on an input. -/
def State.hartCount (s : State) (ch : Nat) : Nat :=
  (s.cfg.harts.filter (fun d => d.ch.val = ch && (s.hartDev d.dev).ever && decide ((s.hartDev d.dev).miss < 3))).length

/-- A transaction ends unanswered. -/
def State.hartMiss (s : State) (d : HartDef) : State :=
  let s := s.modHart d.dev (fun h => { h with miss := min (h.miss + 1) 3, busy := false })
  (s.bump AIO_HARTSTAT_NOANS d.ch.val).setF AIO_HARTSTAT_DEVICES (s.hartCount d.ch.val) d.ch.val

/-- A device's answer is taken. -/
def State.hartTake (s : State) (d : HartDef) (a : HartAns) : State :=
  let s := s.modHart d.dev (fun h => { h with miss := 0, malf := a.malfunction, vars := a.vars, busy := false, ever := true })
  (s.setF AIO_HARTSTAT_DEVSTAT a.status.toNat d.ch.val).setF AIO_HARTSTAT_DEVICES (s.hartCount d.ch.val) d.ch.val

/-- The value and status of a HART variable (R366). -/
def State.hartSignal (s : State) (dev var sub : Nat) : Nat × Nat :=
  let h := s.hartDev dev
  match h.vars[var]? with
  | none => (sub, 3)
  | some (v, bad) => if h.miss ≥ 3 || h.malf || bad then (sub, 3) else (v, 0)

/-! ### Device space of the block (R376) -/

/-- The registers of Table 13-10; every other offset of the three blocks reads 0. -/
def State.ioDevice (s : State) (o : Nat) : Nat :=
  let word (f : Nat → Bool) : Nat := ((List.range 32).map (fun n => b2n (f n) * 2 ^ n)).foldl (· + ·) 0
  if o = 0 then word (fun n => (s.dioCh n).raw)
  else if o = 8 then word (fun n => s.flag DIO_CHSTAT_VALUE n)
  else if 0x100 ≤ o && o < 0x200 && o % 8 = 0 then (s.dioCh ((o - 0x100) / 8)).count
  else if 0x200 ≤ o && o < 0x300 && o % 8 = 0 then s.getF DIO_CHSTAT_CURRENT ((o - 0x200) / 8)
  else if 0x10000 ≤ o && o < 0x10080 && o % 8 = 0 then (s.aiCh ((o - 0x10000) / 8)).x
  else if 0x10100 ≤ o && o < 0x10140 && o % 8 = 0 then (s.aoCh ((o - 0x10100) / 8)).rb
  else if 0x20000 ≤ o && o < 0x20200 && o % 8 = 0 then tabGet 0 s.io.codes ((o - 0x20000) / 8)
  else 0

end Sys2Proof.Machine
end

