-- ==== Sys2Proof/Machine/Can.lean ====
section
/-! DEFINITION. The CAN FD ports (14, R380 to R393): mappings, the transmit queue and the receive ring, errors and bus-off. -/
namespace Sys2Proof.Machine

/-- A port that has never sent or received. -/
def CanPort.reset : CanPort := ⟨[], [], 0, 0, 0, 0, [], 0, 0, false⟩
/-- A slot that has never been filled. -/
def CanSlot.reset : CanSlot := ⟨none, false, none, [], 0⟩
/-- A port of the own seat. -/
def State.canPort (s : State) (p : Nat) : CanPort := tabGet CanPort.reset s.can p
/-- Change it. -/
def State.modCan (s : State) (p : Nat) (f : CanPort → CanPort) : State := { s with can := tabMod CanPort.reset s.can p f }

/-- Is the port on the bus: a mode other than off, and not bus-off? -/
def State.canOn (s : State) (p : Nat) : Bool := s.getF CAN_PORTCFG_MODE p ≠ 0 && s.getF CAN_ERRSTAT_STATE p ≠ 2
/-- Does it transmit: normal or loopback (R388)? -/
def State.canSends (s : State) (p : Nat) : Bool := s.canOn p && s.getF CAN_PORTCFG_MODE p ≠ 2

/-! ### Fields of a frame (R382) -/

/-- A field's raw bits: the bytes it touches, in its byte order, shifted by its bit offset (log entry 12). -/
def canGet (f : CanField) (d : List Byte) : Nat :=
  let n := (f.bit + f.len + 7) / 8
  let bs := (d.drop f.byte).take n
  let v := bits (leNat (if f.big then bs.reverse else bs)) f.bit f.len
  if tySigned f.ty.toNat then unsgn (tyWidth f.ty.toNat) (sgn f.len v) else v % 2 ^ tyWidth f.ty.toNat

/-- Put a value into a field's bits. -/
def canPut (f : CanField) (d : List Byte) (v : Nat) : List Byte :=
  let n := (f.bit + f.len + 7) / 8
  let bs := (d.drop f.byte).take n
  let old := leNat (if f.big then bs.reverse else bs)
  let new := old - bits old f.bit f.len * 2 ^ f.bit + v % 2 ^ f.len * 2 ^ f.bit
  let out := natLe bs.length new
  d.take f.byte ++ (if f.big then out.reverse else out) ++ d.drop (f.byte + n)

/-- The value and status of a CAN signal at capture (R382): BAD while the port is off, bus-off or in an unsupported field, SUBSTITUTE while
no matching frame counts, else the latest value. -/
def State.canSignal (s : State) (p map sig sub : Nat) : Nat × Nat :=
  let un := s.cfg.canPorts.any (fun d => d.port.val = p && d.seat = s.seatB && d.unsupported)
  if !s.canOn p || un then (sub, 3)
  else if tabHas (s.canPort p).rx map then ((tabGet (sub, 0) s.io.inbox sig).1, 0)
  else (sub, 1)

/-! ### Transmission (R383, R385, R386, R389) -/

/-- FLAGS of Table 14-2. -/
def canFlags (ide fdf brs esi rtr : Bool) : Nat := b2n ide + 2 * b2n fdf + 4 * b2n brs + 8 * b2n esi + 16 * b2n rtr

/-- The address of an entry of a port's CANTX. -/
def State.txAddr (s : State) (seat : Bool) (p e : Nat) : Option Nat := (s.sysAddr .canTx seat p).map (· + e * 96)

/-- Write RESULT, with the stamp of an acknowledgement, into an entry (R385). -/
def State.txResult (s : State) (seat : Bool) (p e r : Nat) (t : Option Nat) : State :=
  match s.txAddr seat p e with
  | none => s
  | some a =>
    let s := s.ingest (a + 0x10) [BitVec.ofNat 8 r] id
    match t with
    | some t => (s.ingest a (natLe 6 (t / 1000000000)) id).ingest (a + 8) (natLe 4 (t % 1000000000)) id
    | none => s

/-- End all pending queue entries with a RESULT. -/
def State.txDrop (s : State) (p r : Nat) : State :=
  let s := (s.canPort p).queue.foldl (fun s q => s.txResult s.seatB p q.entry r none) s
  s.modCan p (fun c => { c with queue := [] })

/-- What is offered next: the slot in transmission; otherwise the lowest identifier among slots and queue, a slot before a queue entry,
queue entries by CSN and entry number (R386). -/
inductive TxRef where
  | slot (n : Nat)
  | queue (q : CanQEnt)
deriving DecidableEq, Repr

/-- The best filled slot. -/
def bestSlot (l : Tab CanSlot) : Option (Nat × Nat) :=
  (isort (fun a b => decide (a.1 < b.1)) (l.filterMap (fun e => e.2.content.map (fun c => (c.1, e.1))))).head?
/-- The best queue entry. -/
def bestQ (l : List CanQEnt) : Option CanQEnt :=
  (isort (fun (a b : CanQEnt) => decide (a.id < b.id) || (a.id = b.id && (decide (a.csn < b.csn) ||
    (a.csn = b.csn && decide (a.entry < b.entry))))) l).head?

/-- The frame the controller offers. -/
def CanPort.offered (c : CanPort) : Option TxRef :=
  match c.slots.find? (fun e => e.2.busy && e.2.content.isSome) with
  | some e => some (.slot e.1)
  | none => match bestSlot c.slots, bestQ c.queue with
    | some (i, n), some q => if q.id < i then some (.queue q) else some (.slot n)
    | some (_, n), none => some (.slot n)
    | none, some q => some (.queue q)
    | none, none => none

/-- A slot's content has ended: the waiting content follows, or it is empty. -/
def CanPort.slotEnd (c : CanPort) (n : Nat) : CanPort :=
  { c with slots := tabMod CanSlot.reset c.slots n (fun e => { e with content := e.next, next := none, busy := false }) }

/-- New content for a slot (R383). -/
def State.slotFill (s : State) (p n : Nat) (busy : Bool) (x : Nat × Nat × List Byte) : State :=
  let e := tabGet CanSlot.reset (s.canPort p).slots n
  let put (e : CanSlot) (s : State) : State := s.modCan p (fun c => { c with slots := tabSet c.slots n e })
  if busy && e.content.isSome then put { e with busy := true, next := some x, latest := x.2.2 } s
  else
    let s := if e.content.isSome then s.bump CAN_CNT_REPLCNT p else s
    put { e with content := some x, latest := x.2.2 } s

/-- A commit of a task hands its values to the transmit mappings of the own seat (R383): `val` gives the driven value of a signal, `arb` the
slots whose frame is being transmitted now. -/
def State.canCommit (s : State) (task : Nat) (val : Nat → Nat) (arb : List (Fin 8 × Nat)) : State :=
  s.cfg.canTx.foldl (fun s m =>
    if m.writer.val = task && m.seat = s.seatB then
      let p := m.port.val
      let e := tabGet CanSlot.reset (s.canPort p).slots m.no
      let n := e.commits + 1
      let d := m.fields.foldl (fun d f => canPut f d (val f.sig)) (List.replicate m.len 0)
      let s := s.modCan p (fun c => { c with slots := tabSet c.slots m.no { e with commits := n } })
      if (if m.rate = 0 then decide (d ≠ e.latest) || e.commits = 0 else n % m.rate = 0) then
        s.slotFill p m.no (arb.contains (m.port, m.no)) (m.id, canFlags m.ide m.fdf m.brs false false, d)
      else s
    else s) s

/-- The entries of CANTX of a port that a commit's writes touch, with whether RESULT is among the bytes written. -/
def touched (base : Nat) (w : Ovl) : List (Nat × Bool) :=
  (List.range 64).filterMap (fun e =>
    let a := base + e * 96
    if w.any (fun b => a ≤ b.1 && decide (b.1 < a + 96)) then some (e, tabHas w (a + 0x10)) else none)

/-- Hand-over of CANTX entries at a commit (R385), for the ports of the own seat: a store of RESULT = 0xFF to an entry that software owns
hands it over; a store to an owned entry only counts. -/
def State.canHandOver (s : State) (csn : Nat) (w : Ovl) : State :=
  (List.range 8).foldl (fun s p =>
    match s.sysAddr .canTx s.seatB p with
    | none => s
    | some base =>
      (touched base w).foldl (fun s e =>
        let a := base + e.1 * 96
        if (s.canPort p).queue.any (fun q => q.entry = e.1) then s.bump CAN_CNT_OWNCNT p
        else if e.2 && memRd s.sq.mem (a + 0x10) = 0xFF then
          let q : CanQEnt :=
            { entry := e.1, csn := csn, id := leNat (memRdL s.sq.mem (a + 0x0C) 4) % 2 ^ 29,
              flags := leNat (memRdL s.sq.mem (a + 6) 2), data := memRdL s.sq.mem (a + 0x18) (memRd s.sq.mem (a + 0x11)).toNat }
          s.modCan p (fun c => { c with queue := c.queue ++ [q] })
        else s) s) s

/-- A module whose outputs take safe values clears its slots and queue entries and sends nothing (R383, R392). -/
def State.canClear (s : State) : State :=
  (List.range 8).foldl (fun s p => s.modCan p (fun c => { c with slots := [], queue := [] })) s

/-! ### Errors (R390, R391) -/

/-- Show TEC and REC. -/
def State.canCounts (s : State) (p : Nat) : State :=
  (s.setF CAN_ERRSTAT_TEC (min 255 (s.canPort p).tec) p).setF CAN_ERRSTAT_REC (min 255 (s.canPort p).rec_) p

/-- The error state that the counters give. -/
def State.canState (s : State) (p : Nat) : State :=
  let c := s.canPort p
  let old := s.getF CAN_ERRSTAT_STATE p
  let s := s.canCounts p
  if c.tec > 255 then
    if old = 2 then s
    else
      let s := (s.setF CAN_ERRSTAT_STATE 2 p).txDrop p 2
      let s := s.modCan p (fun c => { c with waiting := s.flag CAN_PORTCFG_BOFFREC p })
      s.report 0x000B (s.seat * 8 + p) s.now 8 (s.seat * 8 + p)
  else if c.tec > 127 || c.rec_ > 127 then
    if old = 1 then s else (s.setF CAN_ERRSTAT_STATE 1 p).evHw 5 [p]
  else s.setF CAN_ERRSTAT_STATE 0 p

/-- In one-shot mode a failed attempt ends the frame (R389). -/
def State.oneShotFail (s : State) (p : Nat) : State :=
  match (s.canPort p).offered with
  | some (.slot n) => (s.modCan p (fun c => c.slotEnd n)).bump CAN_CNT_ONESHOTFAIL p
  | some (.queue q) => (s.modCan p (fun c => { c with queue := c.queue.filter (fun x => x.entry ≠ q.entry) })).txResult s.seatB p q.entry 1 none
  | none => s

/-! ### The commands -/

/-- A CANRX entry. -/
def rxEntry (f : CanFrame) (seq : Nat) : List Byte :=
  natLe 6 (f.sof / 1000000000) ++ natLe 2 (canFlags f.ide f.fdf f.brs f.esi f.rtr) ++ natLe 4 (f.sof % 1000000000) ++
  natLe 4 (f.id % 2 ^ 29) ++ [0] ++ natLe 1 f.data.length ++ natLe 2 0 ++ natLe 4 seq ++ (f.data ++ List.replicate (64 - f.data.length) 0) ++
  natLe 8 0

/-- A received frame goes into the ring, or is dropped if the ring is full (R387). -/
def State.canRing (s : State) (p : Nat) (f : CanFrame) : State :=
  match s.cfg.canPorts.find? (fun d => d.port.val = p && d.seat = s.seatB) with
  | none => s
  | some d =>
    if f.id &&& d.fmask ≠ d.fid &&& d.fmask then s
    else
      let c := s.canPort p
      if ringFull 512 c.head (s.ringTail .canRxTail s.seatB p CAN_RXTAIL_TAIL) then s.bump CAN_CNT_RXLOST p
      else
        s.ringPut .canRx s.seatB p 512 96 c.head (rxEntry f c.seq) (fun s => s.modCan p
          (fun c => { c with head := (c.head + 1) % 65536, seq := (c.seq + 1) % 2 ^ 32 }))

/-- Does a mapping take a frame? -/
def canTakes (m : CanRxMap) (f : CanFrame) : Bool :=
  f.id &&& m.mask = m.id &&& m.mask && f.ide = m.ide && f.fdf = m.fdf && !f.rtr

/-- CAN_FRAME_RECEIVE (R382, R387, R388): counted, its mapping of lowest number fed, an event task activated, and the ring filled. A port that
is off or bus-off receives nothing, and an FD frame needs FDEN. REC falls with a good reception except in listen-only mode. -/
def execCanFrameReceive (port : Fin 8) (f : CanFrame) (s : State) : Host.Outcome State Fault Refusal :=
  done (
    let p := port.val
    if !s.canOn p || (f.fdf && !s.flag CAN_PORTCFG_FDEN p) then s
    else
      let s := s.modCan p (fun c =>
        { c with rxN := (c.rxN + 1) % 2 ^ 32, rec_ := if s.getF CAN_PORTCFG_MODE p = 2 then c.rec_ else min (c.rec_ - 1) 127 })
      let s := s.canState p
      let ms := isort (fun (a b : CanRxMap) => decide (a.no < b.no)) (s.cfg.canRx.filter (fun m => m.port = port && m.seat = s.seatB && canTakes m f))
      let s := match ms with
        | [] => s
        | m :: _ =>
          let box := m.fields.foldl (fun t (x : CanField) => tabSet t x.sig (canGet x f.data, 0)) s.io.inbox
          let s := { s with io := { s.io with inbox := box } }
          (s.modCan p (fun c => { c with rx := tabSet c.rx m.no f.eof })).trigger (.can s.seatB port m.no) f.eof
      s.canRing p f)

/-- CAN_FRAME_TRANSMITTED (R385): the offered frame has been acknowledged. -/
def execCanFrameTransmitted (port : Fin 8) (t : Nat) (s : State) : Host.Outcome State Fault Refusal :=
  done (
    let p := port.val
    if !s.canSends p then s
    else match (s.canPort p).offered with
      | none => s
      | some r =>
        let s := s.modCan p (fun c => { c with txN := (c.txN + 1) % 2 ^ 32, tec := c.tec - 1 })
        let s := s.canState p
        match r with
        | .slot n =>
          let x := ((tabGet CanSlot.reset (s.canPort p).slots n).content).getD (0, 0, [])
          (s.modCan p (fun c => c.slotEnd n)).emit .canBus p [x.1, x.2.1] x.2.2
        | .queue q =>
          let s := s.modCan p (fun c => { c with queue := c.queue.filter (fun y => y.entry ≠ q.entry) })
          (s.txResult s.seatB p q.entry 0 (some t)).emit .canBus p [q.id, q.flags] q.data)

/-- CAN_ERROR (R389 to R391): TEC and REC after the event are those of ISO 11898-1, which the bus side gives; in listen-only mode they do
not change. -/
def execCanError (port : Fin 8) (err : CanErr) (own : Bool) (tec rec_ : Nat) (s : State) : Host.Outcome State Fault Refusal :=
  done (
    let p := port.val
    if !s.canOn p then s
    else
      let listen := s.getF CAN_PORTCFG_MODE p = 2
      let s := match err with
        | .err code =>
          let s := s.setF CAN_ERRSTAT_LEC code.val p
          if listen then s else (s.modCan p (fun c => { c with tec := tec, rec_ := rec_ })).canState p
        | .arb bit => s.setF CAN_ERRSTAT_ALBIT bit.toNat p
      if own && s.flag CAN_PORTCFG_ONESHOT p && s.canSends p then s.oneShotFail p else s)

/-- CAN_BUS_OFF_RECOVERED (R391): after the wait, the port is error-active with TEC = REC = 0. -/
def execCanBusOffRecovered (port : Fin 8) (s : State) : Host.Outcome State Fault Refusal :=
  done (
    let p := port.val
    if s.getF CAN_ERRSTAT_STATE p = 2 && (s.canPort p).waiting then
      ((s.modCan p (fun c => { c with tec := 0, rec_ := 0, waiting := false })).setF CAN_ERRSTAT_STATE 0 p).canCounts p
    else s)

/-- CAN_RXTMO_EXPIRY (R382): no frame counts for the mapping any more. -/
def execCanRxtmoExpiry (port : Fin 8) (map : Nat) (s : State) : Host.Outcome State Fault Refusal :=
  done (s.modCan port.val (fun c => { c with rx := tabDel c.rx map }))

/-- RECOVER (R391): with BOFFREC = 0, the wait of a bus-off port starts. -/
def State.cmdCanRecover (s : State) (path : Path) : State :=
  let p := s.selIx path .can
  if s.getF CAN_ERRSTAT_STATE p = 2 then s.modCan p (fun c => { c with waiting := true }) else s
/-- RECOVER (R391): the write reaches its block, which takes it as `State.cmdCanRecover` says. -/
def execCanRecover (path : Path) (s : State) : Host.Outcome State Fault Refusal := done (s.written path 0x10001C (fun s => s.cmdCanRecover path))

/-- FLUSH (R385): the pending queue entries are dropped with RESULT 3. -/
def State.cmdCanFlush (s : State) (path : Path) : State :=
  s.txDrop (s.selIx path .can) 3
/-- FLUSH (R385): the write reaches its block, which takes it as `State.cmdCanFlush` says. -/
def execCanFlush (path : Path) (s : State) : Host.Outcome State Fault Refusal := done (s.written path 0x10001C (fun s => s.cmdCanFlush path))

/-- The ports' live registers in device space, from offset 0x3_0000. -/
def State.canDevice (s : State) (o : Nat) : Nat :=
  let p := s.canPort (o / 0x100 % 8)
  if o ≥ 0x800 then 0
  else match o % 0x100 with
    | 0 => p.rxN
    | 8 => p.txN
    | 0x10 => min 65535 p.tec
    | 0x18 => min 65535 p.rec_
    | _ => 0

/-- Device space at a Square address (R376): the registers above, everything else 0. -/
def State.deviceRead (s : State) (a : Nat) : Nat :=
  let o := a - 0xF000000000
  if o < 0x30000 then s.ioDevice o else if o < 0x40000 then s.canDevice (o - 0x30000) else 0

end Sys2Proof.Machine
end

