-- ==== Sys2Proof/Machine/Fsp.lean ====
section
/-! DEFINITION. The Fynas Station Protocol (11, R288 to R290, R305): the header, the frames the module sends, and the checks of a frame it
receives. -/
namespace Sys2Proof.Machine

/-- A received FSP frame: the fields of Table 11-2 and its payload. -/
structure Fsp where
  typ : Nat
  flags : Nat
  sta : Nat
  seq : Nat
  epoch : Nat
  stamp : Nat
  cycle : Nat
  data : List Byte
deriving DecidableEq, Repr

/-- Is a TYPE listed in Table 11-3? -/
def fspListed (t : Nat) : Bool := (1 ≤ t && t ≤ 0x0C) || t = 0x10

/-- Is the payload's form the one of its TYPE, with its reserved fields zero (Table 11-3)? -/
def fspPayload (t : Nat) (d : List Byte) : Bool :=
  match t with
  | 0x03 => d.length % 8 = 0 && decide (d.length ≤ 512) &&
      (List.range (d.length / 8)).all (fun i => bits (leNat ((d.drop (8 * i)).take 4)) 17 15 = 0)
  | 0x04 => d.isEmpty
  | 0x05 => d.isEmpty
  | 0x06 => d.length = 4
  | 0x07 => d.length = 8
  | 0x08 => d.length = 8
  | 0x09 => d.length = 20 && d.getD 7 0 = 0
  | 0x0A => decide (d.length ≥ 4)
  | 0x0C => d.length = 33
  | 0x10 => decide (d.length ≥ 4) && leNat ((d.drop 2).take 2) = 0
  | _ => true

/-- CYCLE of a TYPE that does not use it is 0. -/
def fspCycleOk (t c : Nat) : Bool := t = 1 || t = 0x10 || (t = 2 && decide (c < 256)) || c = 0

/-- The checks of R289: none for a frame that a receiver discards and counts. -/
def fspParse (f : List Byte) : Option Fsp :=
  let n (o k : Nat) : Nat := leNat ((f.drop o).take k)
  let r : Fsp :=
    { typ := n 2 1, flags := n 3 1, sta := n 4 2, seq := n 6 2, epoch := n 8 4, stamp := n 12 4, cycle := n 16 4, data := f.drop 24 }
  if n 0 1 = 0x46 && n 1 1 = 1 && fspListed r.typ && decide (r.flags < 32) && decide (r.sta < 4096) && n 22 2 = 0 &&
     n 20 2 = r.data.length && decide (r.data.length ≤ 8960) && decide (f.length ≥ 24) && fspPayload r.typ r.data &&
     fspCycleOk r.typ r.cycle then some r
  else none

/-- A 32-bit stamp of the local clock. -/
def State.stamp32 (s : State) : Nat := s.now % 2 ^ 32

/-- The extended time of a stamp against a reference time (R305). -/
def extendStamp (s tr : Nat) : Nat :=
  let d := (s + 2 ^ 32 - tr % 2 ^ 32) % 2 ^ 32
  if d ≥ 2 ^ 31 then tr + d - 2 ^ 32 else tr + d

/-- Is a domain held (TIM_STAT)? -/
def State.domHeld (s : State) (d : Nat) : Bool := if d = 0 then s.flag TIM_STAT_D0LOCK else s.flag TIM_STAT_D1LOCK

/-- Header and payload of a frame the module sends (Table 11-2). -/
def State.fspFrame (s : State) (typ sta stamp cycle : Nat) (safe : Bool) (data : List Byte) : List Byte :=
  let d := s.getF TIM_STAT_ACTIVE
  let flags := b2n safe + 2 * b2n (!s.domHeld d) + 4 * d + 16 * s.seat
  [0x46, 0x01] ++ natLe 1 typ ++ natLe 1 flags ++ natLe 2 sta ++ natLe 2 (tabGet 0 s.plant.fspSeq typ) ++ natLe 4 s.epoch ++
  natLe 4 stamp ++ natLe 4 cycle ++ natLe 2 data.length ++ natLe 2 0 ++ data

/-- Send a frame (R289): SEQ counts per TYPE. In state K the links are off (R16). The Kerb's stop holds OUTPUT, PEER and BEACON back (R296), and a link whose gate list is refused
sends no frame (R288). -/
def State.fspSend (s : State) (ch : OutCh) (typ link sta stamp cycle : Nat) (safe : Bool) (data : List Byte) : State :=
  if s.kerb.phase = .off || (s.flag PNE_CTL_KERBSTOP && (typ = 1 || typ = 5 || typ = 0x10)) || s.flag PNE_PORTSTAT_GCLERR link then s
  else
    let f := s.fspFrame typ sta stamp cycle safe data
    let q := tabSet s.plant.fspSeq typ ((tabGet 0 s.plant.fspSeq typ + 1) % 65536)
    State.emit { s with plant := { s.plant with fspSeq := q } } ch typ [link, sta] f

/-- ANNOUNCE on every plant link (R213, R297); link 104 stands for all of them. -/
def State.announce (s : State) : State := s.fspSend .station 0x04 104 0 s.stamp32 0 false []

/-- The frames of one sender and TYPE seen of late: a frame on a redundant link that is a duplicate of one of them is eliminated, and a gap
after recovery is counted (R288). -/
def State.dedupe (s : State) (link : Nat) (f : Fsp) : Bool × State :=
  if s.getF PNE_PORTCFG_REDUN link = 0 then (false, s)
  else
    let k := f.typ * 4096 + f.sta
    let l := tabGet [] s.plant.seen k
    if l.contains f.seq then (true, s.bump PNE_PORTSTAT_ELIMCNT link)
    else
      let gap := match l.head? with | some q => decide ((f.seq + 65536 - q) % 65536 ≠ 1) | none => false
      let s := { s with plant := { s.plant with seen := tabSet s.plant.seen k ((f.seq :: l).take 32) } }
      (false, if gap then s.bump PNE_PORTSTAT_GAPCNT link else s)

/-- A station of the configuration. -/
def State.station? (s : State) (n : Nat) : Option StationDef := s.cfg.stations.find? (fun d => d.no.val = n)

/-- The link to which the engine bridges a frame (R287): that of the station it is for, and 104, every link but the one it came on, where it is for all
stations or for the modules (DESIGN CHOICE, log entry 84). -/
def State.bridgeLink (s : State) (f : Fsp) : Nat :=
  if f.typ = 1 || f.typ = 5 || f.typ = 6 || f.typ = 9 || f.typ = 0x0B then ((s.station? f.sta).map (fun d => d.link.val)).getD 104 else 104
/-- Bridge a frame from the link it came on (R287), as it is. -/
def State.bridge (s : State) (link : Nat) (f : Fsp) (frame : List Byte) : State :=
  if s.bridgeLink f = link then s else s.emit .station (0x100 + f.typ) [s.bridgeLink f, f.sta, link] frame

/-- Take a frame of a TYPE from a link (R289): a malformed one is discarded and counted, a duplicate is eliminated, and a frame of another TYPE
is not this one. A frame that is taken is bridged first (R287). The module notes the highest HE that stations report (R193). While the module is not
running its links are off (R16). -/
def State.fspTake (s : State) (link : Fin 104) (typ : Nat) (frame : List Byte) : Option Fsp × State :=
  if s.kerb.phase ≠ .run then (none, s)
  else match fspParse frame with
    | none => (none, s.bump PNE_PORTSTAT_DISCCNT link.val)
    | some f => match s.dedupe link.val f with
      | (true, s) => (none, s)
      | (false, s) =>
        let s := s.bridge link.val f frame
        if f.typ ≠ typ then (none, s)
        else (some f, if typ = 0x10 then s else { s with pair := { s.pair with heMax := max s.pair.heMax f.epoch } })
/-- The witness that a frame's STATION field names: the station of that number if it is one, else the peer controller of that producer number (DESIGN
CHOICE, log entry 83). -/
def State.witnessId (s : State) (sta : Nat) : Option Nat :=
  if s.witnesses.any (fun w => w.1 = sta) then some sta
  else if s.witnesses.any (fun w => w.1 = 0x1000 + sta) then some (0x1000 + sta)
  else none
/-- A signal of the configuration. -/
def State.sig? (s : State) (n : Nat) : Option SigDef := s.cfg.sigs.find? (fun g => g.no = n)
/-- The position of a signal in its data set. -/
def sigPos (g : SigDef) : Nat := match g.src with | .station _ p => p | .fsl _ p => p | .peer _ p => p | _ => 0
/-- The signals of a station in configured order. -/
def State.stationSigs (s : State) (sta : Nat) (out : Bool) : List SigDef :=
  isort (fun a b => decide (sigPos a < sigPos b))
    (s.cfg.sigs.filter (fun g => g.out = out && (match g.src with | .station n _ => n.val = sta | _ => false)))
/-- The signals of a peer's data set in order. -/
def State.peerSigs (s : State) (set : Nat) : List SigDef :=
  isort (fun a b => decide (sigPos a < sigPos b)) (s.cfg.sigs.filter (fun g => match g.src with | .peer n _ => n = set | _ => false))

/-- Bytes that a list of signals takes. -/
def sigBytes (l : List SigDef) : Nat := (l.map (fun g => tySize g.ty.toNat)).foldl (· + ·) 0

/-- Take values of signals, one after another, with their status bytes, into a table. -/
def takeVals : List SigDef → List Byte → List Byte → Tab (Nat × Nat) → Tab (Nat × Nat)
  | [], _, _, t => t
  | g :: gs, d, st, t =>
    let n := tySize g.ty.toNat
    takeVals gs (d.drop n) (st.drop 1) (tabSet t g.no (leNat (d.take n), (st.headD 0).toNat))

/-- The bytes of values of signals. -/
def putVals (val : SigDef → Nat) (l : List SigDef) : List Byte := l.flatMap (fun g => natLe (tySize g.ty.toNat) (val g))

end Sys2Proof.Machine
end

