-- ==== Sys2Proof/Machine/HostOps.lean ====
section
/-! DEFINITION. What the Roundabout does under every opcode (10, R254 to R280; 09, R226 to R232, R245 to R247): descriptors, completions, reads
at a CSN, batches, locks, subscriptions and the end of a session. -/
namespace Sys2Proof.Machine

/-! ### Sessions and queue pairs -/

/-- A session without queue pairs. -/
def Sess.empty : Sess := ⟨0, 0, 0, 0, [], [], none, [], 0, none⟩
/-- A queue pair of given ring sizes. -/
def Qp.new (sq cq sqBase cqBase rkey : Nat) : Qp := ⟨sq, cq, 0, 0, 0, 0, [], [], [], 0, sqBase, cqBase, rkey⟩
/-- A session by number. -/
def State.sess? (s : State) (n : Nat) : Option Sess := tabGet? s.host.sess n
/-- A queue pair of a session. -/
def State.qp? (s : State) (n q : Nat) : Option Qp := (s.sess? n).bind (fun x => tabGet? x.qps q)

/-- Change a session that exists. -/
def State.modSess (s : State) (n : Nat) (f : Sess → Sess) : State :=
  match s.sess? n with
  | some x => { s with host := { s.host with sess := tabSet s.host.sess n (f x) } }
  | none => s
/-- Change a queue pair that exists. -/
def State.modQp (s : State) (n q : Nat) (f : Qp → Qp) : State :=
  s.modSess n (fun x => match tabGet? x.qps q with | some y => { x with qps := tabSet x.qps q (f y) } | none => x)

/-- HQE_STAT: open sessions and queue pairs in use. -/
def State.hqeStat (s : State) : State :=
  (s.setF HQE_STAT_SESSIONS s.host.sess.length).setF HQE_STAT_QPS ((s.host.sess.map (fun x => x.2.qps.length)).foldl (· + ·) 0)

/-! ### The fields of a descriptor (Table 10-3) -/

/-- n bytes at an offset of a descriptor, as a number. -/
def dNum (d : HostDesc) (o n : Nat) : Nat := recNumOf d.bytes o n
where
  /-- Bytes [o, o + n). -/
  recNumOf (bs : List Byte) (o n : Nat) : Nat := leNat ((bs.drop o).take n)
/-- OPCODE. -/
def dOp (d : HostDesc) : Nat := dNum d 0 1
/-- FLAGS[0]: FENCE. -/
def dFence (d : HostDesc) : Bool := bitOf (dNum d 1 1) 0
/-- FLAGS[1]: DURABLE. -/
def dDurable (d : HostDesc) : Bool := bitOf (dNum d 1 1) 1
/-- OPT. -/
def dOpt (d : HostDesc) : Nat := dNum d 2 2
/-- REQID. -/
def dReqid (d : HostDesc) : Nat := dNum d 4 4
/-- CSN. -/
def dCsn (d : HostDesc) : Nat := dNum d 8 8
/-- ADDR1. -/
def dAddr1 (d : HostDesc) : Nat := dNum d 0x10 8
/-- LEN1. -/
def dLen1 (d : HostDesc) : Nat := dNum d 0x18 4
/-- ADDR2. -/
def dAddr2 (d : HostDesc) : Nat := dNum d 0x20 8
/-- LEN2. -/
def dLen2 (d : HostDesc) : Nat := dNum d 0x28 4
/-- ARG. -/
def dArg (d : HostDesc) : Nat := dNum d 0x30 8
/-- RKEY1. -/
def dKey1 (d : HostDesc) : Nat := dNum d 0x1C 4
/-- RKEY2. -/
def dKey2 (d : HostDesc) : Nat := dNum d 0x2C 4
/-- STAMP. -/
def dStamp (d : HostDesc) : Nat := dNum d 0x3C 4

/-! ### Completions (R261) -/

/-- ACKCSN. -/
def State.ackCsn (s : State) : Nat := s.get64 PAR_ACKCSNLO_ACKCSN PAR_ACKCSNHI_ACKCSN
/-- Set ACKCSN. -/
def State.setAck (s : State) (n : Nat) : State := s.set64 PAR_ACKCSNLO_ACKCSN PAR_ACKCSNHI_ACKCSN n

/-- Is a result at a CSN volatile: above ACKCSN on a Lead (Table 10-4)? -/
def State.volatile (s : State) (n : Nat) : Bool := s.isLead && decide (n > s.ackCsn)

/-- Put a completion behind those of its queue pair; a queue pair that is gone drops it. -/
def State.putCompl (s : State) (n q : Nat) (c : Compl) : State := s.modQp n q (fun x => { x with comps := x.comps ++ [c] })

/-- A descriptor completes: its credit returns. A result buffer that cannot be written gives HOSTACCESS (R262). -/
def State.complete (s : State) (n q : Nat) (d : HostDesc) (status : Nat) (csn detail flags : Nat := 0) (data : List Byte := []) : State :=
  let bad := !data.isEmpty && !d.ok2
  let data := if bad then [] else data
  let c : Compl :=
    { status := if bad then 0x0103 else status, flags := flags, opcode := dOp d, reqid := dReqid d, csn := csn, len := data.length,
      detail := if bad then 0 else detail, data := data, sub := none, addr := dAddr2 d, key := dKey2 d }
  (s.putCompl n q c).modQp n q (fun x => { x with open_ := x.open_ - 1 })

/-- Resubmissions of a request complete with it: DUPLICATE if it was applied, else as it did (R269, R284). -/
def State.completeDups (s : State) (cid reqid status csn detail : Nat) : State :=
  let mine (x : Dup) : Bool := x.cid = cid && dReqid x.d = reqid
  let ds := s.host.dups.filter mine
  let s : State := { s with host := { s.host with dups := s.host.dups.filter (fun x => !mine x) } }
  ds.foldl (fun s x => s.complete x.sess x.qp x.d (if status = 0 then 1 else status) csn detail) s

/-- A request that was not a descriptor at hand completes: an admitted batch. NOTLEAD names the partner's seat (Table 10-5). -/
def State.completeB (s : State) (b : Batch) (status csn : Nat) : State :=
  let detail := if status = 0x0300 then 1 - s.seat else 0
  let s := s.completeDups b.cid b.reqid status csn detail
  let c : Compl :=
    { status := status, flags := 0, opcode := b.opcode, reqid := b.reqid, csn := csn, len := 0, detail := detail, data := [], sub := none }
  (s.putCompl b.sess b.qp c).modQp b.sess b.qp (fun x => { x with open_ := x.open_ - 1 })

/-! ### Locks (R245 to R247) -/

/-- A group that nobody holds. -/
def LockRt.reset : LockRt := ⟨none, 0, false, []⟩
/-- A group. -/
def State.lock (s : State) (g : Nat) : LockRt := tabGet LockRt.reset s.host.locks g
/-- Change a group, and count the groups held. -/
def State.modLock (s : State) (g : Nat) (f : LockRt → LockRt) : State :=
  let s := { s with host := { s.host with locks := tabMod LockRt.reset s.host.locks g f } }
  s.setF HQE_LOCKSTAT_HELD (s.host.locks.filter (fun l => l.2.holder.isSome)).length

/-- A lock breaks: its staged writes are discarded, the group is marked broken, BROKENCNT advances and a report is raised. -/
def State.breakLock (s : State) (g : Nat) : State :=
  match (s.lock g).holder with
  | none => s
  | some h =>
    let s := s.modLock g (fun l => { l with holder := none, broken := true, staged := [] })
    (s.bump HQE_LOCKSTAT_BROKENCNT).report 0x0009 g s.now 4 h

/-- The groups a session holds, rising. -/
def State.heldBy (s : State) (n : Nat) : List Nat := s.host.locks.filterMap (fun l => if l.2.holder = some n then some l.1 else none)

/-- A held group is given up in the ordinary way. -/
def State.freeLock (s : State) (g : Nat) : State := s.modLock g (fun l => { l with holder := none, staged := [] })

/-- Every lock breaks (a switch-over, an activation commit). -/
def State.breakAll (s : State) : State := (tabKeys s.host.locks).foldl (fun s g => s.breakLock g) s

/-- Every descriptor a session posts renews its leases. -/
def State.renew (s : State) (n : Nat) : State :=
  (s.heldBy n).foldl (fun s g => s.modLock g (fun l => { l with lease := s.now + s.getF HQE_LOCKCFG_LEASE * 1000000 })) s

/-- The registers held per access path, without their instance. -/
def pathKeys : List Nat := (((List.range 20).flatMap fieldsOf).filter (fun f => f.sel = .path)).map (fun f => f.off * 32 + f.lo)

/-- An access path closes, or opens anew (R484): its registers, latches, cursor and window are discarded. -/
def State.closePath (s : State) (p : Path) : State :=
  { s with regs := s.regs.filter (fun e => !(e.1 % 65536 = p.code && pathKeys.contains (e.1 / 65536))),
           arc := { s.arc with wins := tabDel s.arc.wins p.code, curAsk := tabDel s.arc.curAsk p.code },
           setup := { s.setup with latch := s.setup.latch.filter (fun e => e.1 / 2 ^ 24 ≠ p.code) } }

/-- What was asked for by a queue pair that is no more completes nowhere: batches keep their session for the record, cuts none. -/
def State.forgetQp (s : State) (gone : Nat → Nat → Bool) : State :=
  { s with host := { s.host with batches := s.host.batches.map (fun (b : Batch) => if gone b.sess b.qp then { b with qp := 4096 } else b),
                                 dups := s.host.dups.filter (fun x => !gone x.sess x.qp) },
           plant := { s.plant with cuts := s.plant.cuts.map (fun (c : CutRt) => if gone c.sess c.qp then { c with sess := 0 } else c) } }

/-- A session ends (R257): its descriptors are dropped without completion, its subscriptions end, its locks break, its access path closes;
admitted batches stay. -/
def State.endSession (s : State) (n : Nat) : State :=
  match s.sess? n with
  | none => s
  | some _ =>
    let s := (s.heldBy n).foldl (fun s g => s.breakLock g) s
    let s := State.forgetQp { s with host := { s.host with sess := tabDel s.host.sess n } } (fun a _ => a = n)
    (s.closePath (.queue (Fin.ofNat 8193 n))).hqeStat

/-! ### Values at a CSN (R227, R265, R266) -/

/-- The program store active at CSN n, or none if that program is gone (Table 9-1). -/
def State.storeAt (s : State) (n : Nat) : Option Nat :=
  if n ≥ s.get64 SCH_OLCCSNLO_CSN SCH_OLCCSNHI_CSN then some s.actStore
  else if s.flag SCH_OLCSTAT_FALLBACK then some (1 - s.actStore)
  else none

/-- The machine seen with another store active: for translation only. -/
def State.under (s : State) (store : Nat) : State := s.setF SCH_OLCSTAT_ACTSTORE store

/-- The task whose input image shows an input signal to a host: the lowest-numbered one that maps it (log entry 13). -/
def State.imageTask (s : State) (sig : Nat) : Nat := ((s.cfg.tasks.find? (fun d => d.inputs.contains sig)).map (fun d => d.no.val)).getD 0

/-- A tag's entry as the Roundabout resolves it: reason or words. -/
def State.hostEntry (s : State) (tag : Nat) : Except Nat (Nat × Nat) × State := s.hostTranslate tag

/-- A read of n bytes at a snapshot: what ECC finds, and whether a unit of it is poisoned in the snapshot's frames. -/
def State.snapMeets (s : State) (snap : Snap) (a n : Nat) : Bool × State :=
  let l := s.strikes a n snap.csn ++ snap.poison ++ (if inState a then [] else s.sq.poison)
  ((unitsOf a n).any (fun u => l.contains u), s.meet a n snap.csn)

/-- One result entry (R266): 16 bytes and the status class at fault (0 none, else the completion status). -/
def State.readTag (s : State) (snap : Snap) (tag : Nat) : (List Byte × Nat) × State :=
  let bad (c : Nat) : List Byte := natLe 8 0 ++ [BitVec.ofNat 8 c] ++ List.replicate 7 0
  match (if tag / 2 ^ 24 ≠ 0 then (.error 1, s) else s.hostEntry tag : Except Nat (Nat × Nat) × State) with
  | (.error _, s) => ((bad 0x80, 0x0104), s)
  | (.ok (w0, w1), s) =>
    let ty := teTy w0
    let sig := bits w1 0 19
    let a := s.opAddr (s.imageTask sig) w0 w1
    let n := tySize ty
    match s.engineRefuses false 0x201 .rd a n with
    | some b => ((bad 0x81, 0x0105), s.latchRefusal b 0x201 false)
    | none =>
      let r := s.snapMeets snap a n
      let s := r.2
      if r.1 then ((bad 0x82, 0x0106), s)
      else
        let v := ext ty (leNat (memRdL snap.mem a n))
        let forced := if teKind w0 = 2 then tabGet? snap.forces sig else none
        let val := match forced with | some f => ext ty f.1.toNat | none => v
        let st := match forced with
          | some _ => 4
          | none => if teSignal w0 then (memRd snap.mem (s.statAddr (s.imageTask sig) w0 w1)).toNat else 0
        ((natLe 8 val ++ natLe 1 st ++ natLe 1 ty ++ List.replicate 6 0, 0), s)

/-- The entries of a list of tags in order, and the status and index of the first at fault. -/
def State.readTags (s : State) (snap : Snap) : Nat → List Nat → (List Byte × Nat × Nat) × State
  | _, [] => (([], 0, 0), s)
  | i, t :: ts =>
    match s.readTag snap t with
    | ((bs, e), s) => match s.readTags snap (i + 1) ts with
      | ((rest, e', i'), s) => ((bs ++ rest, if e ≠ 0 then e else e', if e ≠ 0 then i else i'), s)

/-- Numbers of n bytes each. -/
def chop (n : Nat) : Nat → List Byte → List Nat
  | 0, _ => []
  | k + 1, bs => leNat (bs.take n) :: chop n k (bs.drop n)

/-- The snapshot of a CSN. -/
def State.snapAt? (s : State) (n : Nat) : Option Snap := s.sq.snaps.find? (fun p => p.csn = n)

/-- Is a CSN void under R213? -/
def State.isVoid (s : State) (n : Nat) : Bool := s.pair.voids.any (fun v => v.1 ≤ n && n ≤ v.2)

/-- Serve a READ_AT at CSN n (Table 9-1): it completes. -/
def State.serveRead (s : State) (sn q : Nat) (d : HostDesc) (n : Nat) (raw : Bool) : State :=
  if s.isVoid n then s.complete sn q d 0x0202 n
  else match s.storeAt n with
    | none => s.complete sn q d 0x0203 n
    | some st =>
      match s.snapAt? n with
      | none => s.complete sn q d 0x0201 n
      | some snap =>
        let fl := if s.volatile n then 2 else 0
        let act := s.actStore
        if raw then
          let tag := leNat (d.data.take 4)
          let off := leNat ((d.data.drop 4).take 4)
          let len := leNat ((d.data.drop 8).take 4)
          match (if tag / 2 ^ 24 ≠ 0 then (.error 1, s.under st) else (s.under st).hostEntry tag : Except Nat (Nat × Nat) × State) with
          | (.error _, s) => (s.under act).complete sn q d 0x0104 n
          | (.ok (w0, w1), s) =>
            let a := s.opAddr (s.imageTask (bits w1 0 19)) w0 w1 + off
            let r := s.engineRefuses false 0x201 .rd a len
            let s := s.under act
            if off + len > max (teSize w0) (if teSignal w0 then 8 else 0) then s.complete sn q d 0x0100 n 0x10
            else match r with
              | some b => (s.latchRefusal b 0x201 false).complete sn q d 0x0105 n
              | none =>
                let r := s.snapMeets snap a len
                let s := r.2
                if r.1 then s.complete sn q d 0x0106 n
                else s.complete sn q d 0 n 0 fl (memRdL snap.mem a len)
        else
          match (s.under st).readTags snap 0 (chop 4 (d.data.length / 4) d.data) with
          | ((bs, e, i), s) => (s.under act).complete sn q d e n i fl bs

/-! ### Waiting descriptors, write completions and subscriptions (R265, R267, R269, R270, R279) -/

/-- May a read of CSN n be served now? -/
def State.readReady (s : State) (n : Nat) (durable : Bool) : Bool :=
  decide (n ≤ s.sq.csn) && (!durable || !s.isLead || decide (n ≤ s.ackCsn))

/-- Release the waiting reads of one queue pair that may be served. -/
def State.releaseQp (s : State) (sn q : Nat) (l : List WaitDesc) : State :=
  l.foldl (fun s w =>
    match w.w with
    | .read n raw dur =>
      if s.readReady n dur || s.isVoid n then
        (s.modQp sn q (fun x => { x with waits := x.waits.filter (fun y => y ≠ w) })).serveRead sn q w.d n raw
      else s
    | .lock _ _ _ _ => s) s

/-- Release every waiting read that may be served. -/
def State.releaseReads (s : State) : State :=
  s.host.sess.foldl (fun s x => x.2.qps.foldl (fun s y => s.releaseQp x.1 y.1 y.2.waits) s) s

/-- Batches whose commit is at or below ACKCSN complete, and resubmissions that waited for them complete DUPLICATE (R267, R269, R284). -/
def State.completeBatches (s : State) : State :=
  let fin (b : Batch) : Bool := match b.csn with | some c => decide (c ≤ s.ackCsn) | none => false
  let donel := s.host.batches.filter fin
  let s := { s with host := { s.host with batches := s.host.batches.filter (fun b => !fin b) } }
  let s := donel.foldl (fun s b => s.completeB b 0 (b.csn.getD 0)) s
  (s.host.idents.filter (fun i => i.csn ≤ s.ackCsn && !s.host.batches.any (fun b => b.cid = i.cid && b.reqid = i.reqid))).foldl
    (fun s i => s.completeDups i.cid i.reqid 0 i.csn 0) s

/-- Record the identities of a commit's write-class requests, and forget those older than 120 s (R269). -/
def State.identify (s : State) (l : List (Nat × Nat)) (csn : Nat) : State :=
  let old := s.host.idents.filter (fun i => decide (s.now ≤ i.at_ + 120000000000))
  { s with host := { s.host with idents := old ++ l.map (fun x => ⟨x.1, x.2, csn, s.now⟩) } }

/-- Bytes of a slot: the header and one entry per tag, rounded up to a multiple of 64. -/
def slotBytes (n : Nat) : Nat := (32 + 16 * n + 63) / 64 * 64

/-- A delivery's completion with MORE, behind the others of its queue pair (R270, R261). -/
def State.deliver (s : State) (sn : Nat) (u : Sub) (csn : Nat) (bs : List Byte) : State :=
  let fl := 4 + (if u.skipped > 0 then 16 else 0) + (if s.volatile csn then 2 else 0)
  let c : Compl :=
    { status := 0, flags := fl, opcode := 3, reqid := u.reqid, csn := csn, len := bs.length, detail := u.next, data := bs,
      sub := some (u.qp, u.reqid), addr := u.addr + u.next * slotBytes u.tags.length, key := u.key }
  s.putCompl sn u.qp c

/-- One subscription meets a commit of its task: the K-th ones are served from the commit's snapshot. -/
def State.subCommit (s : State) (sn : Nat) (u : Sub) (snap : Snap) (relTick : Nat) : State :=
  let n := u.count + 1
  let put (s : State) (f : Sub → Sub) : State :=
    s.modSess sn (fun x => { x with subs := x.subs.map (fun v => if v.qp = u.qp && v.reqid = u.reqid then f v else v) })
  if n % u.k ≠ 0 then put s (fun v => { v with count := n })
  else
    match s.readTags snap 0 u.tags with
    | ((bs, _, _), s) =>
      if u.onChange && u.last = bs then put s (fun v => { v with count := n })
      else put s (fun v => { v with count := n, last := bs, pend := v.pend ++ [(snap.csn, relTick, bs)] })

/-- Has the host consumed the completion that last used a slot? -/
def Sub.slotFree (u : Sub) (head : Nat) : Bool :=
  match tabGet? u.slotComp u.next with
  | none => true
  | some k => decide (k < head)

/-- Deliveries that are due: at once, or with DURABLE once ACKCSN has reached them. A slot whose previous completion the host has not
consumed is not written: the delivery is skipped. -/
def State.pushSub (s : State) (sn : Nat) (u : Sub) : State :=
  u.pend.foldl (fun s p =>
    match (s.sess? sn).bind (fun x => x.subs.find? (fun v => v.qp = u.qp && v.reqid = u.reqid)) with
    | none => s
    | some u =>
      if u.durable && s.isLead && decide (p.1 > s.ackCsn) then s
      else
        let put (s : State) (f : Sub → Sub) : State :=
          s.modSess sn (fun x => { x with subs := x.subs.map (fun v => if v.qp = u.qp && v.reqid = u.reqid then f v else v) })
        let s := put s (fun v => { v with pend := v.pend.filter (fun y => y ≠ p) })
        let q := (s.qp? sn u.qp).getD (Qp.new 0 0 0 0 0)
        if u.slotFree q.head then
          let hdr := natLe 8 p.1 ++ natLe 8 p.2.1 ++ natLe 4 u.skipped ++ List.replicate 12 0
          put (s.deliver sn u p.1 (hdr ++ p.2.2))
            (fun v => { v with next := (u.next + 1) % (max 1 u.slots), skipped := 0,
                               slotComp := tabSet v.slotComp u.next (q.written + q.comps.length) })
        else put s (fun v => { v with skipped := v.skipped + 1 })) s

/-- Every delivery that is due. -/
def State.pushSubs (s : State) : State := s.host.sess.foldl (fun s x => x.2.subs.foldl (fun s u => s.pushSub x.1 u) s) s

/-- A commit whose packet names a task reaches the subscriptions to it. -/
def State.subsCommit (s : State) (task relTick : Nat) (snap : Snap) : State :=
  s.host.sess.foldl (fun s x => x.2.subs.foldl (fun s u => if u.task = task then s.subCommit x.1 u snap relTick else s) s) s

/-- What the Roundabout does whenever the CSN or ACKCSN has moved. -/
def State.hostAdvance (s : State) : State := s.releaseReads.completeBatches.pushSubs

/-! ### The end of a cut (R233, R235, R251, R272) -/

/-- A result entry (R266). -/
def resEntry (v st ty : Nat) : List Byte := natLe 8 v ++ natLe 1 st ++ natLe 1 ty ++ List.replicate 6 0

/-- The entry of one signal in a cut record: MISSED where nothing has arrived. -/
def State.cutEntry (s : State) (c : CutRt) (n : Nat) : Nat × Nat × Nat :=
  let ty := ((s.cfg.sigs.find? (fun g => g.no = n)).map (fun g => g.ty.toNat)).getD 0
  match tabGet? c.got n with
  | some v => (ext ty v.1, v.2, ty)
  | none => (0, 0x83, ty)

/-- A cut record: a header of 32 bytes and one entry per signal. -/
def State.cutRecord (s : State) (c : CutRt) : List Byte :=
  let es := c.sigs.map (s.cutEntry c)
  natLe 4 c.op ++ natLe 4 (es.filter (fun e => e.2.1 = 0x83)).length ++ natLe 8 c.at_ ++ List.replicate 16 0 ++
  es.flatMap (fun e => resEntry e.1 e.2.1 e.2.2)

/-- A cut closes: its record stands in the Square, where the configuration gives it a place, and is returned; the session of a cut that was the
partner's stands there. -/
def State.finishCut (s : State) (c : CutRt) (broken : Bool) : State :=
  let bs := s.cutRecord c
  let s : State := { s with plant := { s.plant with cuts := s.plant.cuts.filter (fun (x : CutRt) => x.op ≠ c.op) } }
  let s := match s.sysAddr .cut false 0 with | some a => s.sysWrite a bs | none => s
  let s := s.share (.cutEnd c.op)
  if c.mirrored then s
  else if c.d.ok2 then s.complete c.sess c.qp c.d 0 0 c.op (if broken then 8 else 0) bs else s.complete c.sess c.qp c.d 0x0103

/-- A module that takes the Lead after a failure closes every pending cut with every entry MISSED and a status of broken (R251). -/
def State.breakCuts (s : State) : State := s.plant.cuts.foldl (fun s c => s.finishCut { c with got := [] } true) s

/-! ### Changes of role (R280) -/

/-- A Lead stops leading in an orderly way: batches admitted and not committed complete NOTLEAD. -/
def State.hostNotLead (s : State) : State :=
  let gone := s.host.batches.filter (fun b => b.csn.isNone)
  let s := { s with host := { s.host with batches := s.host.batches.filter (fun b => b.csn.isSome) } }
  (gone.foldl (fun s b => s.completeB b 0x0300 0) s).breakAll

/-- The module enters FENCED, ISOLATED or K: waiting descriptors and subscriptions end with ABORTED, committed requests above ACKCSN are in
doubt, other batches complete NOTLEAD, and every lock is broken (R247). -/
def State.hostAbort (s : State) : State :=
  let s := s.host.sess.foldl (fun s x =>
    let s := x.2.qps.foldl (fun s y =>
      let s := y.2.waits.foldl (fun s w => s.complete x.1 y.1 w.d 0x0309) s
      s.modQp x.1 y.1 (fun z => { z with waits := [] })) s
    let s := x.2.subs.foldl (fun s u =>
      let c : Compl :=
        { status := 0x0309, flags := 0, opcode := 3, reqid := u.reqid, csn := 0, len := 0, detail := 0, data := [], sub := none }
      (s.putCompl x.1 u.qp c).modQp x.1 u.qp (fun z => { z with open_ := z.open_ - 1 })) s
    s.modSess x.1 (fun z => { z with subs := [] })) s
  let cuts := s.plant.cuts.filter (fun c => !c.mirrored)
  let s : State := { s with plant := { s.plant with cuts := [] } }
  let s := cuts.foldl (fun s c => s.complete c.sess c.qp c.d 0x0309) s
  let bs := s.host.batches
  let s := { s with host := { s.host with batches := [] } }
  let s := bs.foldl (fun s b => s.completeB b (if b.csn.isSome then 0x0308 else 0x0300) (b.csn.getD 0)) s
  let ds := s.host.dups
  let s : State := { s with host := { s.host with dups := [] } }
  (ds.foldl (fun s x => s.complete x.sess x.qp x.d 0x0308) s).breakAll

end Sys2Proof.Machine
end

