-- ==== Sys2Proof/Machine/SafetyFn.lean ====
section
/-! DEFINITION. Safety functions (12, R328 to R339): two-channel inputs, off-pulse tests, degraded mode; and the key switches and the
validation acknowledgement (R343 to R346). -/
namespace Sys2Proof.Machine

/-- A function that has never been evaluated: RES is 0 until both channels are healthy and out of demand. -/
def FnRt.reset : FnRt := ⟨0, false, true, none, none, false⟩
/-- A function. -/
def State.fnRt (s : State) (n : Nat) : FnRt := tabGet FnRt.reset s.io.fns n
/-- Change it. -/
def State.modFn (s : State) (n : Nat) (f : FnRt → FnRt) : State := { s with io := { s.io with fns := tabMod FnRt.reset s.io.fns n f } }
/-- The definition of a function. -/
def State.fnDef? (s : State) (n : Nat) : Option FnDef := s.cfg.fns.find? (fun d => d.no.val = n)

/-- SFY_STAT.DEGR and TRIP: at least one function is DEGRADED, or tripped. -/
def State.fnSummary (s : State) : State :=
  (s.setB SFY_STAT_DEGR (s.cfg.fns.any (fun f => s.getF SFY_FNSTAT_STATE f.no.val = 1))).setB SFY_STAT_TRIP
    (s.cfg.fns.any (fun f => s.getF SFY_FNSTAT_STATE f.no.val = 2))

/-- Write the byte of a function or connection record. -/
def State.recByte (s : State) (a : Nat) : Nat := (memRd s.sq.mem a).toNat

/-! ### Two-channel inputs (R328 to R330) -/

/-- Is a channel of a pair in demand: unhealthy, or at the level that demands (R328)? -/
def State.inDemand (s : State) (f : FnDef) (second : Bool) : Bool :=
  let n := if second then f.b else f.a
  let v := s.flag DIO_CHSTAT_VALUE n
  s.flag DIO_CHSTAT_UNHEALTHY n || (if second && f.antiv then v else !v)

/-- One sample tick of a pair: DISCACK is read and cleared, then R329 applies. -/
def State.pairTick (s : State) (f : FnDef) : State :=
  let n := f.no.val
  let da := s.inDemand f false
  let db := s.inDemand f true
  let ok := !s.flag DIO_CHSTAT_UNHEALTHY f.a && !s.flag DIO_CHSTAT_UNHEALTHY f.b
  let s := if s.recByte f.discAddr = 1 then
      let s := s.sysWrite f.discAddr [0]
      if ok && !da && !db then s.setF SFY_FNSTAT_DISC 0 n else s.bump SFY_STAT_ACKREF
    else s
  let r := s.fnRt n
  let d := if da != db then r.d + 1 else 0
  let s := if d ≥ f.dt then s.setF SFY_FNSTAT_DISC 1 n else s
  let fault := s.flag SFY_FNSTAT_DISC n
  let res := if da || db || fault then false else r.res || (ok && r.seen)
  s.modFn n (fun r => { r with d := sat 32 d, res := res, seen := if r.res && !res then false else r.seen })

/-- The owner task captures RES (R329). -/
def State.fnCaptured (s : State) (n : Nat) : State := s.modFn n (fun r => { r with seen := true })

/-! ### Degraded mode (R336 to R339) -/

/-- Is a channel of a dual path unhealthy? For a redundant connection, a connection that is not ACTIVE. -/
def State.pathSick (s : State) (f : FnDef) (second : Bool) : Bool :=
  let n := if second then f.b else f.a
  match f.kind.toNat with
  | 1 => s.flag DIO_CHSTAT_UNHEALTHY n
  | 2 => let i := (s.aiCh n).y; decide (i < 36000) || decide (i > 210000) || decide (s.io.adcFails ≥ 3) || !s.fieldPower
  | 3 => decide (s.getF SFY_CONNSTAT_STATE n ≠ 0)
  | _ => false

/-- The function trips (R337): its outputs take their safe values and its inputs their fail-safe values until FNACK. -/
def State.fnTrip (s : State) (n : Nat) : State :=
  let s := (s.setF SFY_FNSTAT_STATE 2 n).setF SFY_FNSTAT_DEGLEFT 0 n
  (s.evSafe 1 [n]).fnSummary.aoAll

/-- The function becomes DEGRADED, at the earlier of now and a carried start time (R337, R339). -/
def State.fnDegrade (s : State) (f : FnDef) (second : Bool) : State :=
  let n := f.no.val
  let start := match (s.fnRt n).since with | some t => min t s.now | none => s.now
  let s := s.modFn n (fun r => { r with since := some start, healthy := none, passed := false })
  let s : State := { s with kerb := { s.kerb with degMram := tabSet s.kerb.degMram n start } }
  let s := ((s.setF SFY_FNSTAT_STATE 1 n).setB SFY_FNSTAT_CHBAD second n).setF SFY_FNSTAT_DEGLEFT (min f.degmax 65535) n
  ((s.evSafe 2 [n, b2n second, start]).report 0x000A n s.now 9 n).fnSummary

/-- A function returns to normal: its carried time ends. -/
def State.fnNormal (s : State) (n : Nat) : State :=
  let s := s.modFn n (fun r => { r with since := none, healthy := none, passed := false })
  let s : State := { s with kerb := { s.kerb with degMram := tabDel s.kerb.degMram n } }
  ((s.setF SFY_FNSTAT_STATE 0 n).setF SFY_FNSTAT_DEGLEFT 0 n).fnSummary

/-- Judge one dual path after anything that may change the health of its channels. -/
def State.fnJudge (s : State) (f : FnDef) : State :=
  if f.kind = 0 then s
  else
    let n := f.no.val
    let a := s.pathSick f false
    let b := s.pathSick f true
    match s.getF SFY_FNSTAT_STATE n with
    | 0 => if a && b then (s.fnDegrade f false).fnTrip n else if a then s.fnDegrade f false else if b then s.fnDegrade f true else s
    | 1 =>
      if a && b then s.fnTrip n
      else if a || b then s.modFn n (fun r => { r with healthy := none, passed := false })
      else s.modFn n (fun r => { r with healthy := some (r.healthy.getD s.now) })
    | _ => s

/-- Judge every dual path. -/
def State.fnJudgeAll (s : State) : State := s.cfg.fns.foldl (fun s f => s.fnJudge f) s

/-- A commit of the owner task: FNACK of its tripped functions is taken, and cleared by the module. -/
def State.fnCommit (s : State) (task : Nat) : State :=
  s.cfg.fns.foldl (fun s f =>
    if f.owner.val = task && s.recByte f.fnAddr = 1 then
      let s := s.sysWrite f.fnAddr [0]
      if s.getF SFY_FNSTAT_STATE f.no.val = 2 && !s.pathSick f false && !s.pathSick f true then (s.fnNormal f.no.val).aoAll else s
    else s) s

/-- Minutes left in DEGRADED, a started minute counting (log entry 11). -/
def State.degLeft (s : State) : State :=
  s.cfg.fns.foldl (fun s f =>
    match s.getF SFY_FNSTAT_STATE f.no.val, (s.fnRt f.no.val).since with
    | 1, some t => s.setF SFY_FNSTAT_DEGLEFT ((t + f.degmax * 60000000000 - s.now + 59999999999) / 60000000000) f.no.val
    | _, _ => s) s

/-! ### The commands of the field I/O block and of safety functions -/

/-- SAMPLE_TICK: values written for the block take effect, every channel takes its sample in ascending order, the two-channel inputs of the
own seat are evaluated, and dual paths are judged. A pending test or pulse changes nothing of this. -/
def State.sampleAll (s : State) : Nat → List DioSamp → State
  | _, [] => s
  | n, x :: l => if n < 32 then (s.sampleCh n x).sampleAll (n + 1) l else s

/-- SAMPLE_TICK (R353). -/
def execSampleTick (half : Bool) (smp : List DioSamp) (vslim : BitVec 4) (s : State) : Host.Outcome State Fault Refusal :=
  done (
    let s := s.applyDue .sample
    let s := { s with now := max s.now (s.tick * 62500 + (if half then 31250 else 0)) }
    let s := s.setF DIO_STAT_VSLIM vslim.toNat
    let s := s.sampleAll 0 smp
    let s := s.cfg.fns.foldl (fun s f => if f.kind = 0 && f.seat = s.seatB then s.pairTick f else s) s
    s.fnJudgeAll)

/-- The other output of a two-channel output that holds a channel. -/
def State.partnerOf (s : State) (n : Nat) : Option Nat :=
  s.cfg.fns.findSome? (fun f =>
    if f.kind = 1 && f.seat = s.seatB then (if f.a = n then some f.b else if f.b = n then some f.a else none) else none)

/-- Does an off-pulse have to wait: the other output of the pair is pulsed, or was within 1 ms (R333)? -/
def State.pulseWaits (s : State) (n : Nat) : Bool :=
  match s.partnerOf n with
  | none => false
  | some m => (s.dioCh m).pulse.isSome || (decide ((s.dioCh m).pulseEnd > 0) && decide (s.now < (s.dioCh m).pulseEnd + 1000000))

/-- OFF_PULSE_START (R332): at a sample tick a safety output that is commanded on goes off for the width W. -/
def execOffPulseStart (ch : Fin 32) (s : State) : Host.Outcome State Fault Refusal :=
  done (
    let n := ch.val
    if s.getF DIO_CHCFG_MODE n ≠ 5 || !s.commanded n || s.latched n || (s.dioCh n).pulse.isSome || s.pulseWaits n then s
    else s.modDio n (fun c => { c with pulse := some ⟨s.now, s.now + s.getF SFY_TESTCFG_WIDTH * 10000, 0, false⟩ }))

/-- OFF_PULSE_END (R332): a test passes if two consecutive readbacks were low; a failed one switches the channel off. -/
def execOffPulseEnd (ch : Fin 32) (s : State) : Host.Outcome State Fault Refusal :=
  done (
    let n := ch.val
    match (s.dioCh n).pulse with
    | none => s
    | some p =>
      let s := s.modDio n (fun c => { c with pulse := none, pulseEnd := max s.now p.stop, failed := !p.passed })
      let s := if p.passed then
          s.cfg.fns.foldl (fun s f => if f.kind = 1 && (f.a = n || f.b = n) then s.modFn f.no.val (fun r => { r with passed := true }) else s) s
        else (((s.bump SFY_TESTSTAT_PULSEFAIL).setF SFY_TESTSTAT_LASTCH n).setF DIO_CHSTAT_UNHEALTHY 1 n).evSafe 3 [n]
      s.fnJudgeAll)

/-- DEGMAX_EXPIRY (R337): a function still DEGRADED trips. -/
def execDegmaxExpiry (f : Fin 4096) (s : State) : Host.Outcome State Fault Refusal :=
  done (if s.getF SFY_FNSTAT_STATE f.val = 1 then s.fnTrip f.val else s)

/-- DEGRADED_RECOVERY (R338): the bad channel has been healthy for 10 s, for an output with a passed test in them. -/
def execDegradedRecovery (f : Fin 4096) (s : State) : Host.Outcome State Fault Refusal :=
  done (
    match s.fnDef? f.val with
    | none => s
    | some d =>
      let r := s.fnRt f.val
      if s.getF SFY_FNSTAT_STATE f.val = 1 && r.healthy.isSome && (d.kind ≠ 1 || r.passed) then (s.fnNormal f.val).evSafe 4 [f.val] else s)

/-- FIELD_SUPPLY_CHANGE (R351). -/
def execFieldSupplyChange (b present : Bool) (s : State) : Host.Outcome State Fault Refusal :=
  done (
    let s := s.setB (if b then DIO_STAT_FSB else DIO_STAT_FSA) present
    let s := s.evHw 2 [b2n b, b2n present]
    let s := (List.range 32).foldl (fun s n => s.showSick n) s
    ((List.range 16).foldl (fun s n => s.showAi n) s).fnJudgeAll)

/-- INPUT_TEST (R356). -/
def execInputTest (ch : Fin 32) (passed : Bool) (s : State) : Host.Outcome State Fault Refusal :=
  done (
    if isIn (s.getF DIO_CHCFG_MODE ch.val) then ((s.setB DIO_CHSTAT_TESTFAIL (!passed) ch.val).showSick ch.val).fnJudgeAll else s)

/-- OUTPUT_OVERLOAD (R359): an output that is driven on is switched off and latched. -/
def execOutputOverload (ch : Fin 32) (therm : Bool) (s : State) : Host.Outcome State Fault Refusal :=
  done (
    if s.driven ch.val then
      let s := (s.bump DIO_STAT_OVLCNT).setF (if therm then DIO_CHSTAT_THERM else DIO_CHSTAT_OVL) 1 ch.val
      (s.showSick ch.val).fnJudgeAll
    else s)

/-- ADC_ENTRY_COMPLETE (R371, R374): what waits as urgent is served first, in ascending source, and the entry then completes. -/
def execAdcEntryComplete (code : BitVec 18) (urg : List (BitVec 18)) (t : Nat) (s : State) : Host.Outcome State Fault Refusal :=
  done (((s.serveAll t urg).entryDone code.toNat t).fnJudgeAll)

/-- URGENT_REQUEST (R373): an urgent sample of a fresh input, served with what else waits, in ascending source. -/
def execUrgentRequest (ch : Fin 16) (codes : List (BitVec 18)) (t : Nat) (s : State) : Host.Outcome State Fault Refusal :=
  done (((s.askUrgent ch.val 0 false).serveAll t codes).fnJudgeAll)

/-- ADC_URGENT_GO (R373): DONE falls until ADC_URGRES holds the sample. -/
def State.cmdAdcUrgentGo (s : State) (path : Path) (src : BitVec 6) (ovs : BitVec 3) : State :=
  let _ := path
  let s := (s.setF ADC_URGENT_SRC src.toNat).setF ADC_URGENT_OVS (min ovs.toNat 6)
  (s.setF ADC_URGENT_DONE 0).askUrgent src.toNat (min ovs.toNat 6) true
/-- ADC_URGENT_GO (R373): the write reaches its block, which takes it as `State.cmdAdcUrgentGo` says. -/
def execAdcUrgentGo (path : Path) (src : BitVec 6) (ovs : BitVec 3) (s : State) : Host.Outcome State Fault Refusal := done (s.written path 0xF0018 (fun s => s.cmdAdcUrgentGo path src ovs))

/-- ADC_SELF_TEST_STEP (R375): a step starts only at an entry boundary with no urgent request waiting; a failed one counts, and after three
in a row every analogue input is BAD until one passes. -/
def execAdcSelfTestStep (refOk linOk : Bool) (s : State) : Host.Outcome State Fault Refusal :=
  done (
    if !s.io.urgent.isEmpty then s
    else
      let s := if refOk && linOk then { s with io := { s.io with adcFails := 0 } }
        else (State.bump { s with io := { s.io with adcFails := min (s.io.adcFails + 1) 3 } } ADC_STAT_TESTFAIL).evHw 4 [b2n refOk, b2n linOk]
      ((List.range 16).foldl (fun s n => s.showAi n) s).fnJudgeAll)

/-- LOOP_SUPPLY_OFF (R362): a supply in current limit for 500 ms switches off; a HART transaction on it is abandoned (R378). -/
def execLoopSupplyOff (ch : Fin 16) (s : State) : Host.Outcome State Fault Refusal :=
  done (
    if s.flag AIO_AISTAT_LSLIM ch.val && !s.flag AIO_AISTAT_LSOFF ch.val then
      let s := ((s.setF AIO_AISTAT_LSOFF 1 ch.val).setF AIO_AISTAT_LSLIM 0 ch.val).loopSet ch.val
      s.cfg.harts.foldl (fun s d => if d.ch = ch && (s.hartDev d.dev).busy then s.hartMiss d else s) s
    else s)

/-- LOOP_SUPPLY_RETRY (R362): a switched-off supply switches on for 100 ms, and stays on if it is no longer in current limit. -/
def execLoopSupplyRetry (ch : Fin 16) (ok : Bool) (s : State) : Host.Outcome State Fault Refusal :=
  done (
    if s.flag AIO_AISTAT_LSOFF ch.val && ok then (s.setF AIO_AISTAT_LSOFF 0 ch.val).loopSet ch.val else s)

/-- ANALOGUE_THERMAL_LIMIT (R363): the block's temperature; at 120 °C supplies in current limit go off and the others are set without RLOOP,
at 110 °C the limit is released. -/
def execAnalogueThermalLimit (temp : BitVec 8) (s : State) : Host.Outcome State Fault Refusal :=
  done (
    let s := s.setF AIO_STAT_TEMP temp.toNat
    let s := if temp.toInt ≥ 120 then s.setF AIO_STAT_THERMLIM 1 else if temp.toInt ≤ 110 then s.setF AIO_STAT_THERMLIM 0 else s
    (List.range 16).foldl (fun s n =>
      (if s.flag AIO_STAT_THERMLIM && s.flag AIO_AISTAT_LSLIM n then s.setF AIO_AISTAT_LSOFF 1 n else s).loopSet n) s)

/-- The definition of a HART device. -/
def State.hartDef? (s : State) (dev : Nat) : Option HartDef := s.cfg.harts.find? (fun d => d.dev = dev)

/-- HART_POLL (R366): a device is polled if HART is enabled on its input and its modem is idle. -/
def execHartPoll (dev : Nat) (s : State) : Host.Outcome State Fault Refusal :=
  done (
    match s.hartDef? dev with
    | none => s
    | some d =>
      if s.flag AIO_AICFG_HART d.ch.val && !s.modemBusy (modemOf d.ch.val) then
        (s.modHart dev (fun h => { h with busy := true })).emit .lines 1 [d.ch.val, d.addr, if d.cmd9 then 9 else 3]
      else s)

/-- HART_RESPONSE (R366): the transaction ends with an answer or unanswered; one on a loop supply in current limit is abandoned (R378). -/
def execHartResponse (dev : Nat) (ans : Option HartAns) (s : State) : Host.Outcome State Fault Refusal :=
  done (
    match s.hartDef? dev with
    | none => s
    | some d =>
      if !(s.hartDev dev).busy then s
      else match ans with
        | none => s.hartMiss d
        | some a => if s.flag AIO_AISTAT_LSLIM d.ch.val then s.hartMiss d else s.hartTake d a)

/-- HART_BURST_FRAME (R365): an unsolicited frame on input 0 to 3 updates the device variables. -/
def execHartBurstFrame (ch : Fin 4) (ans : HartAns) (s : State) : Host.Outcome State Fault Refusal :=
  done (
    match s.cfg.harts.find? (fun d => d.ch.val = ch.val) with
    | none => s
    | some d => if s.flag AIO_AICFG_HART ch.val then s.hartTake d ans else s)

/-- HART_MODEM_LOOPBACK (R375): an idle modem tests itself; the manual gives a failure no effect on the machine. -/
def execHartModemLoopback (m : Fin 5) (ok : Bool) (s : State) : Host.Outcome State Fault Refusal :=
  done (
    if s.modemBusy m.val then s
    else { s with io := { s.io with looped := tabSet s.io.looped m.val (2 * s.now + b2n ok) } })

/-- READBACK_SAMPLE (R369). -/
def execReadbackSample (smp : List AoSamp) (s : State) : Host.Outcome State Fault Refusal := done (s.readbackAll 0 smp)

/-- RBFAIL_CLEAR (R369): a W1C write of AIO_AOSTAT.RBFAIL on the selected output. -/
def State.cmdRbfailClear (s : State) (path : Path) : State :=
  let n := s.selIx path .aio
  if 16 ≤ n && n < 24 then (s.setF AIO_AOSTAT_RBFAIL 0 n).aoTarget (n - 16) else s
/-- RBFAIL_CLEAR (R369): the write reaches its block, which takes it as `State.cmdRbfailClear` says. -/
def execRbfailClear (path : Path) (s : State) : Host.Outcome State Fault Refusal := done (s.written path 0xE0020 (fun s => s.cmdRbfailClear path))

/-- READBACK_CONVERTER_SELF_TEST (R375). -/
def execReadbackConverterSelfTest (ok : Bool) (s : State) : Host.Outcome State Fault Refusal :=
  done ({ s with io := { s.io with rbFails := if ok then 0 else min (s.io.rbFails + 1) 3 } })

/-! ### The safety signature and the key switches (R343 to R346, R494) -/

/-- SFY_VALACK_WRITE (R346). -/
def State.cmdSfyValackWrite (s : State) (path : Path) (v : W32) : State :=
  if !s.safetyEdit then s.ignored path 0xC000C 1
  else if v.toNat = s.getF SFY_SIG0_SIG then s.setF SFY_STAT_UNVAL 0
  else (s.ignored path 0xC000C 5).bump SFY_STAT_ACKREF
/-- SFY_VALACK_WRITE (R346): the write reaches its block, which takes it as `State.cmdSfyValackWrite` says. -/
def execSfyValackWrite (path : Path) (v : W32) (s : State) : Host.Outcome State Fault Refusal := done (s.written path 0xC000C (fun s => s.cmdSfyValackWrite path v))

end Sys2Proof.Machine
end

