-- ==== Sys2Proof/Machine/SpecOps.lean ====
section
/-! DEFINITION. How a speculative run ends (05, R126, R127, R131, R132, R139), shared by everything that ends one. -/
namespace Sys2Proof.Machine

/-- SPC_CTL.ACTIVE (Table 5-8): enabled, Lead, in RUN, not capped, and the lane clock at or above SAGMIN. -/
def State.specActive (s : State) : Bool :=
  s.flag SPC_CTL_ENABLE && s.isLead && s.mode = 1 && !s.flag PWR_STAT_CAPPED && s.getF PWR_STAT_LANECLK ≤ s.getF SPC_CTL_SAGMIN

/-- Set SSTATE, and count the tasks in RUNNING, READY, HELDX or CONFIRMING. -/
def State.specState (s : State) (t st : Nat) : State :=
  let s := s.setF SPC_TASKSTAT_SSTATE st t
  s.setF SPC_CTL_INFLIGHT ((List.range 256).filter (fun k => 2 ≤ s.getF SPC_TASKSTAT_SSTATE k && s.getF SPC_TASKSTAT_SSTATE k ≤ 5)).length

/-- The confirmation window (R139): the outcome of a run enters it; once full it is tested, and the task may be suspended. -/
def State.specWindow (s : State) (t : Nat) (ok : Bool) : State :=
  let w := (ok :: (s.taskRt t).window).take 64
  let hits := (w.filter id).length
  let s := s.modTask t (fun x => { x with window := w })
  let s := (s.setF SPC_TASKSTAT_HITS hits t).setF SPC_TASKSTAT_WINDOW w.length t
  if w.length = 64 && hits < s.getF SPC_TASKCFG_MINHIT t * 64 / 100 then
    let n := 16 * 2 ^ s.getF SPC_TASKCFG_BACKOFF t
    ((s.modTask t (fun x => { x with susp := n })).setF SPC_TASKSTAT_SUSPLEFT (sat 14 n) t).specState t 6
  else s

/-- Empty the window, at the end of a suspension and when SPEC, MINHIT or BACKOFF changes. -/
def State.specFresh (s : State) (t : Nat) : State :=
  ((s.modTask t (fun x => { x with window := [] })).setF SPC_TASKSTAT_HITS 0 t).setF SPC_TASKSTAT_WINDOW 0 t

/-- Drop a run with its overlay: no byte, effect or exception of it is seen (R130). -/
def State.specDrop (s : State) (t : Nat) : State :=
  match s.run? .spec t with
  | none => s
  | some r => (s.setF SPC_POOLUSE_PAGES (s.getF SPC_POOLUSE_PAGES - r.pages.length)).delRun .spec t

/-- The counter of a discard reason (Table 5-2): 1 invalidated, 2 abandoned, 3 undone, 4 mismatch. -/
def specWhy (n : Nat) : Fld :=
  match n with
  | 1 => SPC_TASKWHY_INVCNT
  | 2 => SPC_TASKWHY_ABNCNT
  | 3 => SPC_TASKWHY_UNDCNT
  | _ => SPC_TASKWHY_MISCNT

/-- A run is discarded for a reason; what the real run raised meanwhile is raised by the caller (`raiseHeld`, R130). -/
def State.specEnd (s : State) (t why : Nat) : State :=
  if (s.run? .spec t).isNone then s
  else ((((s.specDrop t).bump (specWhy why) t).bump SPC_TASKCNT_DISCCNT t).specState t 0).specWindow t false

/-- Is there a run of a task that its released cycle has to wait for (R130): from the release to the decision? -/
def State.undecided (s : State) (t : Nat) : Bool := (s.run? .spec t).isSome

/-- The generation set (R127). -/
def State.specGens (s : State) : List Nat := [s.sq.actCount, s.sq.tagGen, s.sq.acuGen, s.epoch, s.mode]

/-- Invalidate the run of one task. -/
def State.specInval (s : State) (t : Nat) : State := s.specEnd t 1
/-- Invalidate every run whose generation set has changed. -/
def State.specGenCheck (s : State) : State :=
  s.sched.runs.foldl (fun s p => if p.2.ctx = .spec && p.2.gens ≠ s.specGens then s.specInval p.2.task else s) s
/-- Invalidate every run. -/
def State.specInvalAll (s : State) : State := s.sched.runs.foldl (fun s p => if p.2.ctx = .spec then s.specInval p.2.task else s) s

/-- The settings of a task that wait for its release take effect at one in base tick n. A change of SPEC, MINHIT or BACKOFF empties the window (R139), and a task that
is no more speculable loses its run. -/
def State.applyReleaseAt (s : State) (t n : Nat) : State :=
  let u := s.applyDueAt (.taskRelease t) n
  if [SCH_TASKCFG_SPEC, SPC_TASKCFG_MINHIT, SPC_TASKCFG_BACKOFF].all (fun f => s.getF f t = u.getF f t) then u
  else (if u.flag SCH_TASKCFG_SPEC t then u else u.specInval t).specFresh t
/-- At a release now. -/
def State.applyRelease (s : State) (t : Nat) : State := s.applyReleaseAt t s.tick

end Sys2Proof.Machine
end

