-- ==== Sys2Proof/Machine/PairOps.lean ====
section
/-! DEFINITION. Roles and pair states (08, R191 to R194, R201, R206, R213, R216, R280): entering a state, taking the Lead, stepping down. -/
namespace Sys2Proof.Machine

/-! ### The fastest task (R198, R209) -/

/-- The configured cyclic task of the shortest period, of equals the one of the lowest number. -/
def State.fastest (s : State) : Option Nat :=
  let ts := (s.cfg.tasks.map (fun d => d.no.val)).filter (fun t => s.kind t = 0 && decide (s.getF SCH_TASKCFG_PERIOD t > 0))
  (isort (fun a b => decide (s.getF SCH_TASKCFG_PERIOD a < s.getF SCH_TASKCFG_PERIOD b) ||
    (s.getF SCH_TASKCFG_PERIOD a = s.getF SCH_TASKCFG_PERIOD b && decide (a < b))) ts).head?

/-- P_f in base ticks; 160,000 while no cyclic task is configured. -/
def State.pf (s : State) : Nat := match s.fastest with | some t => s.getF SCH_TASKCFG_PERIOD t | none => 160000

/-- The first grid tick of a task at or after a base tick. -/
def State.gridFrom (s : State) (t n : Nat) : Nat :=
  let p := max 1 (s.getF SCH_TASKCFG_PERIOD t)
  let ph := s.getF SCH_TASKPHASE_PHASE t
  n + (ph + p - n % p) % p

/-- The first grid tick of the fastest task at or after a base tick; without a cyclic task, the first multiple of P_f (DESIGN CHOICE, log entry 80). -/
def State.fastGrid (s : State) (n : Nat) : Nat :=
  match s.fastest with | some t => s.gridFrom t n | none => n + (160000 - n % 160000) % 160000
/-- Is a base tick a grid tick of the fastest task? -/
def State.isFastGrid (s : State) (n : Nat) : Bool := s.fastGrid n = n
/-- The latest grid tick of the fastest task at or before a base tick. -/
def State.fastFloor (s : State) (n : Nat) : Nat := let g := s.fastGrid n; if g = n then n else g - s.pf

/-! ### The pair epoch in MRAM (R193, R222) -/

/-- A copy of the pair epoch with its CRC-32C. -/
def epochCopy (e : Nat) : Nat × Nat := (e, crc32c (natLe 4 e))
/-- Is a copy intact? -/
def epochIntact (c : Nat × Nat) : Bool := c.2 = crc32c (natLe 4 c.1)
/-- Set the pair epoch: both copies are written. -/
def State.setEpoch (s : State) (e : Nat) : State :=
  State.setF { s with kerb := { s.kerb with epochs := (epochCopy (e % 2 ^ 32), epochCopy (e % 2 ^ 32)) } } PAR_EPOCH_EPOCH e

/-! ### Entering a state (R192, R201, R207) -/

/-- Do the outputs take their safe values in a pair state: any but TRACK, FOLLOW, SUSPECT, LEAD and SOLO (R201)? -/
def heldState (st : Nat) : Bool := st = 0 || st = 1 || st = 5 || st = 8
/-- ROLE of a pair state (Table 8-1). -/
def roleOf (st : Nat) : Nat := if st = 6 || st = 7 then 2 else if st = 3 || st = 4 then 1 else 0

/-- The Kerb's part: SUSPECT wakes the module to P0 at once (R470), and the time since which LEAD, SOLO or FOLLOW is held without a break
(R449). -/
def State.kerbPair (s : State) (st : Nat) : State :=
  let k := s.kerb
  let s := if st = 4 && s.getF PWR_STAT_PSTATE ≤ 3 then
      State.setF { s with kerb := { k with p2 := [], wake := none, deeper := none } } PWR_STAT_PSTATE 0
    else s
  { s with kerb := { s.kerb with okSince := if st = 3 || st = 6 || st = 7 then some (k.okSince.getD s.now) else none } }

/-- Enter a pair state: ROLE, ELIGIBLE and FENCE follow it, and the outputs; the last-role record is kept (R195). -/
def State.enterPair (s : State) (st : Nat) : State :=
  let old := s.getF PAR_STAT_ROLE
  let was := s.getF PAR_STAT_STATE
  let s := ((s.setF PAR_STAT_STATE st).setF PAR_STAT_ROLE (roleOf st)).setB PAR_STAT_ELIGIBLE (st = 3 || st = 4)
  let s := if st = 8 || st = 5 then s.setF PAR_STAT_FENCEOUT 1 else if st = 1 then s.setF PAR_STAT_FENCEOUT 0 else s
  let s := if old ≠ roleOf st then
      { s with pair := { s.pair with lastLead := decide (roleOf st = 2), lastEpoch := s.epoch },
               kerb := { s.kerb with roleSeat := some s.seat } }
    else s
  let s := (s.kerbPair st).outputsHold (heldState st)
  let s := if was = st then s else s.evCfg 4 [was, st]
  if heldState st then s.canClear else s

/-- Abort every running cycle without commit and end every run (R216, R218): tasks that ran wait for their next release, and a speculative run ends as
invalidated (R131, R135). -/
def State.abortRuns (s : State) : State :=
  let s := s.sched.runs.foldl (fun s r =>
    if r.2.ctx = .real then
      let t := r.2.task
      let s := if s.getF SCH_TASKSTAT_STATE t = 2 then s.setF SCH_TASKSTAT_STATE 1 t else s
      ((s.setF SCH_TASKSTAT_LATE 0 t).setF SCH_TASKXCP_PEND 0 t).modTask t (fun x => { x with lastOk := false })
    else if r.2.ctx = .spec then s.specEnd r.2.task 1
    else s) s
  { s with sched := { s.sched with runs := [] } }

/-- The module has no role any more: it enters FENCED or ISOLATED, releases nothing, and its sessions meet Table 10-8. -/
def State.loseRole (s : State) (st : Nat) : State :=
  (s.abortRuns.carriedOut.enterPair st).olcTakeover.hostAbort.setF PAR_STAT_SWPEND 0

/-- A Lead steps down (R216). -/
def State.stepDown (s : State) : State :=
  if s.isLead then ((s.loseRole 8).bump PAR_LOSSCNT_STEPCNT).evHw 10 [s.epoch] else s

/-- The witnesses that reported the own epoch within the last P_f + 50 µs (R216). -/
def State.assents (s : State) : Nat := (s.pair.assent.filter (fun e => decide (s.now ≤ e.2 + s.pf * 62500 + 50000))).length

/-! ### Taking the Lead (R193, R213, R214) -/

/-- How the Lead is taken. -/
inductive TakeHow where
  | orderly | failure | pairStart
deriving DecidableEq, Repr

/-- The epoch a module would set (R193). -/
def State.nextEpoch (s : State) : Nat :=
  max (max s.epoch s.pair.heMax) (match s.pair.partner with | some h => h.epoch | none => 0) + 1

/-- Started tasks wait for their first grid tick from now on; what was owed counts neither as late nor as skipped (R213). -/
def State.freshGrid (s : State) : State :=
  s.cfg.tasks.foldl (fun s d =>
    let t := d.no.val
    ((s.setF SCH_TASKSTAT_CATCHUP 0 t).setF SCH_TASKSTAT_LAGTICKS 0 t).modTask t
      (fun x => { x with owed := none, released := false })) s

/-- What a new Lead takes from the mirrored state for each task: XSEQ of its exception record (Table 4-4), and no speculation before the second commit
(R135). -/
def State.takeTasks (s : State) : State :=
  s.cfg.tasks.foldl (fun s d =>
    let t := d.no.val
    let xs := match s.sysAddr .xcp false t with | some a => leNat (memRdL s.sq.mem (a + 0x14) 4) | none => 0
    s.modTask t (fun x => { x with specBar := 2, xseq := xs })) s

/-- In SOLO, ACKCSN follows the CSN (R199). -/
def State.soloAck (s : State) : State :=
  (({ s with pair := { s.pair with sent := [] } }).setAck s.sq.csn).hostAdvance

/-- The bytes of the plain variables of a program. -/
def plainBytes (p : Pkg) : List Nat :=
  (p.vars.filter (fun v => v.cls = 0)).flatMap (fun v => (List.range v.size).map (fun i => v.addr + i))

/-- Bytes that hold an unspecified value from now on, until they are written. -/
def loosen (n : Nat) (l : List Nat) (m : Tab Byte) : Tab Byte := l.foldl (fun m a => memWr m a (Config.freeByte n a)) m

/-- After a takeover a plain variable holds an unspecified value until its first write (R54, Table 2-5; log entry 2). -/
def State.loosePlain (s : State) : State :=
  let l := plainBytes s.cfg
  { s with fresh := s.fresh + 1,
           sq := { s.sq with mem := loosen s.fresh l s.sq.mem,
                             snaps := match s.sq.snaps with | x :: xs => { x with mem := loosen s.fresh l x.mem } :: xs | [] => [] } }

/-- Take the Lead: a new epoch, announced on every plant link; the state; the number of the first commit. A module whose epoch would exceed
32 bits does not take it. -/
def State.takeLead (s : State) (st : Nat) (how : TakeHow) : State :=
  let e := s.nextEpoch
  if e ≥ 2 ^ 32 then s
  else
    let s := s.setEpoch e
    let s := s.announce
    let cl := s.sq.csn
    let s := { s with pair := { s.pair with grants := [], missRun := 0, switchAt := none, handed := none, tookAt := s.now, firstCommit := true, lostUnfenced := false, assent := [],
                                            audits := [], resync := [], resyncAll := false } }
    let s := match how with
      | .orderly => s.setF SCH_MODE_LASTSTART 2
      | .failure =>
        State.setF { s with pair := { s.pair with nextCsn := some (cl + 2 ^ 20), voids := s.pair.voids ++ [(cl + 1, cl + 2 ^ 20 - 1)] } }
          SCH_MODE_LASTSTART 2
      | .pairStart =>
        let own := (s.arc.cyc.map ArcRec.csn).foldl max cl
        { s with pair := { s.pair with nextCsn := some (max own (match s.pair.partner with | some h => h.maxCsn | none => 0) + 1) } }
    let s := (s.bump PAR_LOSSCNT_TAKECNT).setF PAR_STAT_SWPEND 0
    let s := (s.setF PAR_WITSTAT_GRANTS 0).enterPair st
    let s := { s with pair := { s.pair with lastLead := true, lastEpoch := e } }
    let s := s.freshGrid
    let s := if how = .failure then s.breakCuts
      else { s with plant := { s.plant with cuts := s.plant.cuts.filter (fun c => !c.mirrored) } }
    let s := if how = .pairStart then s else s.takeTasks.loosePlain
    let s := s.evHw 11 [st, e]
    if st = 7 then s.soloAck else s.hostAdvance

/-- The Lead goes on without its partner (R206): SOLO. A switch-over that was scheduled does not take place, and what waited for a packet waits for
none. -/
def State.goSolo (s : State) : State :=
  if s.getF PAR_STAT_STATE = 6 then
    let s : State := { s with pair := { s.pair with switchAt := none, handed := none } }
    (((s.setF PAR_STAT_SWPEND 0).carriedOut).enterPair 7).soloAck
  else s

/-! ### Orderly switch-over (R218) -/

/-- May the Lead grant a switch-over: its partner is eligible, and no on-line change activation, join or resynchronisation is in progress? A second request
while one is scheduled is refused (DESIGN CHOICE, log entry 78). -/
def State.switchOk (s : State) : Bool :=
  s.getF PAR_STAT_STATE = 6 && s.pair.partner.any (fun h => h.state = 3 || h.state = 4) && !(2 ≤ s.getF SCH_OLCSTAT_STEP && s.getF SCH_OLCSTAT_STEP ≤ 5) &&
  (s.getF PAR_JOINSTAT_PHASE = 0 || s.getF PAR_JOINSTAT_PHASE = 5) && s.pair.resync.isEmpty && !s.pair.resyncAll && s.pair.switchAt.isNone

/-- The Lead chooses the switch tick, the first grid tick of the fastest task at least 1 ms from now, and announces it. -/
def State.scheduleSwitch (s : State) : State :=
  let k := s.fastGrid (s.tick + 16)
  State.setF (State.share { s with pair := { s.pair with switchAt := some k } } (.switchTick k)) PAR_STAT_SWPEND 1

/-- A request that reaches the Lead: granted, or refused and counted in SWREF. -/
def State.switchRequest (s : State) : Bool × State :=
  if s.switchOk then (true, s.scheduleSwitch) else (false, s.bump PAR_WITSTAT_SWREF)

end Sys2Proof.Machine
end

