-- ==== Sys2Proof/Machine/Plant.lean ====
section
/-! DEFINITION. Plant links, remote stations, peers, PTP and the time pins (11, R286 to R312), and station mode changes (R244). -/
namespace Sys2Proof.Machine

/-! ### Stations in the module (R294, R295) -/

/-- A station that has not been heard. -/
def StaRt.reset : StaRt := ⟨0, 0, false, none, 0, 0, false, 0, 0, false, 0, none⟩
/-- A station. -/
def State.staRt (s : State) (n : Nat) : StaRt := tabGet StaRt.reset s.plant.stas n
/-- Change it. -/
def State.modSta (s : State) (n : Nat) (f : StaRt → StaRt) : State :=
  { s with plant := { s.plant with stas := tabMod StaRt.reset s.plant.stas n f } }

/-- Send the CONFIG frame, and count the attempt. -/
def State.sendConfig (s : State) (d : StationDef) : State :=
  (s.modSta d.no.val (fun x => { x with tries := x.tries + 1 })).fspSend .station 0x0B d.link.val d.no.val s.stamp32 0 false
    (d.record ++ natLe 4 (crc32c d.record))

/-- The state a station moves to on an INPUT frame (Table 11-4). -/
def State.staInput (s : State) (d : StationDef) (mode : Nat) (dropped : Bool) : State :=
  let n := d.no.val
  let x := s.staRt n
  match s.getF PNE_STASTAT_STATE n with
  | 0 => ((s.setF PNE_STASTAT_STATE 1 n).modSta n (fun x => { x with tries := 0 })).sendConfig d
  | 2 =>
    if dropped && !x.flagDropped then (s.bump PNE_STASTAT_DROPCNT n).modSta n (fun x => { x with flagAt := some s.now }) else s
  | 3 =>
    let k := if s.now ≤ x.arrived + s.getF PNE_STAWDT_IWDT n * 62500 then x.onTime + 1 else 1
    if k ≥ 3 then ((s.setF PNE_STASTAT_STATE 2 n).modSta n (fun x => { x with onTime := 0 })).evHw 20 [n]
    else s.modSta n (fun x => { x with onTime := k })
  | 4 =>
    if mode = x.expect then ((s.setF PNE_STASTAT_STATE 2 n).modSta n (fun x => { x with badMode := false })).evHw 21 [n, mode] else s
  | _ => s

/-- The values of an INPUT frame: written through the engine's ACU as one access (R185), then captured from (R31). -/
def State.staValues (s : State) (n : Nat) (data : List Byte) : State :=
  let l := s.stationSigs n false
  let k := sigBytes l
  let put (s : State) : State := { s with io := { s.io with inbox := takeVals l data (data.drop k) s.io.inbox } }
  match s.sysAddr .station s.seatB n with
  | none => put s
  | some a =>
    match s.engineRefuses false 0x203 .wr a data.length with
    | some b => s.latchRefusal b 0x203 true
    | none => put (s.sysWrite a data)

/-- The value and status a station's signal is captured with, for a release that stands for grid tick g (R31, R32, R294); while the station is
missed or refused and reads BAD, the value is the latest one delivered (log entry 14). -/
def State.staSignal (s : State) (n g : Nat) (sig : SigDef) : Nat × Nat :=
  let x := s.staRt n
  let v := tabGet (sig.sub, 0) s.io.inbox sig.no
  let off := ((s.station? n).map StationDef.sampleOff).getD 0
  match s.getF PNE_STASTAT_STATE n with
  | 2 =>
    if v.2 = 3 then (v.1, 3)
    else if (x.instant + off + 31250) / 62500 < g then (v.1, 2)
    else (v.1, 0)
  | 4 => if x.badMode then (v.1, 3) else (sig.sub, 1)
  | 5 => (v.1, 3)
  | _ => (sig.sub, 1)

/-- The HE that an INPUT frame reports (R216): a witness that reports the own epoch assents to it, and a higher one makes a Lead step down, whichever
station reports it. -/
def State.heReport (s : State) (f : Fsp) : State :=
  let s := match s.witnessId f.sta with
    | some w => if f.epoch = s.epoch then { s with pair := { s.pair with assent := tabSet s.pair.assent w s.now } } else s
    | none => s
  if f.epoch > s.epoch then s.stepDown else s

/-- INPUT (R216, R289, R291, R294, R295, R305): HE is judged first; a frame of a station that is not configured changes nothing more. -/
def execStationInput (link : Fin 104) (frame : List Byte) (s : State) : Host.Outcome State Fault Refusal :=
  done (
    match s.fspTake link 0x02 frame with
    | (none, s) => s
    | (some f, s) =>
      let s := s.heReport f
      match s.station? f.sta with
      | none => s
      | some d =>
        let n := d.no.val
        let l := s.stationSigs n false
        let safe := bitOf f.flags 0
        if !safe && f.data.length ≠ sigBytes l + l.length then s.bump PNE_PORTSTAT_DISCCNT link.val
        else
          let dropped := bitOf f.flags 3
          let notsync := bitOf f.flags 1
          let s := if notsync && !s.flag PNE_STASTAT_NOTSYNC n then s.report 0x0005 (b2n (bitOf f.flags 2)) s.now 1 n else s
          let s := (s.setB PNE_STASTAT_NOTSYNC notsync n).setF PNE_STASTAT_MODE (f.cycle % 256) n
          let s := s.staInput d (f.cycle % 256) dropped
          let s := s.modSta n (fun x => { x with flagDropped := dropped, arrived := s.now, instant := extendStamp f.stamp s.now })
          if safe then s else s.staValues n f.data)

/-- EVENT (R289, R305, R42): each entry is an edge of a channel; it activates its event task with its extended stamp. -/
def execStationEvent (link : Fin 104) (frame : List Byte) (s : State) : Host.Outcome State Fault Refusal :=
  done (
    match s.fspTake link 0x03 frame with
    | (none, s) => s
    | (some f, s) =>
      (List.range (f.data.length / 8)).foldl (fun s i =>
        let e := leNat ((f.data.drop (8 * i)).take 8)
        s.trigger (.station (Fin.ofNat 4096 f.sta) (bits e 0 17)) (extendStamp (bits e 32 32) s.now)) s)

/-- CONFACK (R294). -/
def execConfack (link : Fin 104) (frame : List Byte) (s : State) : Host.Outcome State Fault Refusal :=
  done (
    match s.fspTake link 0x0C frame with
    | (none, s) => s
    | (some f, s) =>
      match s.station? f.sta with
      | none => s
      | some d =>
        let n := d.no.val
        if s.getF PNE_STASTAT_STATE n ≠ 1 then s
        else if (f.data.getD 32 0).toNat ≠ 0 then s.setF PNE_STASTAT_STATE 5 n
        else if leNat (f.data.take 32) = d.digest then s.setF PNE_STASTAT_STATE 2 n
        else if (s.staRt n).tries ≥ 3 then s.setF PNE_STASTAT_STATE 5 n
        else s)

/-- CONFIG_RETRY (R294): 100 ms after an attempt, at most 3 in all. -/
def execConfigRetry (sta : StationNo) (s : State) : Host.Outcome State Fault Refusal :=
  done (s.powered fun s =>
    match s.station? sta.val with
    | none => s
    | some d => if s.getF PNE_STASTAT_STATE sta.val = 1 && (s.staRt sta.val).tries < 3 then s.sendConfig d else s)

/-- IWDT_EXPIRY (R293 to R295, R311): from OPERATE to DROPPED, with one drop-out and one report; a DROPPED flag counted in the same base tick is
the same drop-out. -/
def execIwdtExpiry (sta : StationNo) (s : State) : Host.Outcome State Fault Refusal :=
  done (s.powered fun s =>
    let n := sta.val
    if s.getF PNE_STASTAT_STATE n ≠ 2 then s
    else
      let s := if (s.staRt n).flagAt = some s.now then s else s.bump PNE_STASTAT_DROPCNT n
      let s := (s.setF PNE_STASTAT_STATE 3 n).modSta n (fun x => { x with onTime := 0 })
      s.report 0x0004 n s.now 1 n)

/-! ### Station mode changes (R244) -/

/-- The payload of a SCHED frame. -/
def schedData (op kind mode dom at_ : Nat) : List Byte :=
  natLe 4 op ++ natLe 1 kind ++ natLe 1 mode ++ natLe 1 dom ++ [0] ++ natLe 8 (at_ / 1000000000) ++ natLe 4 (at_ % 1000000000)

/-- H over a list of stations (R234): the largest sum of per-hop bounds to any of them, in ns. -/
def hopsMax (l : List StationDef) : Nat := (l.map StationDef.hops).foldl max 0

/-- May an operation be scheduled for an instant: at most 16 are pending, and their instants lie at least 62.5 µs apart (R234)? -/
def State.schedFree (s : State) (at_ : Nat) : Bool :=
  let l := s.plant.cuts.map CutRt.at_ ++ (s.plant.changes.filter (fun c => decide (c.at_ > s.now))).map ChangeRt.at_
  decide (l.length < 16) && l.all (fun x => decide (at_ ≥ x + 62500) || decide (x ≥ at_ + 62500))

/-- Schedule a station mode change, or a reset of all stations, for an instant, and send its command to every station; none if R234 refuses it. No row of
the opcode table requests one (log entry 86). -/
def State.schedChange (s : State) (reset : Bool) (mode at_ : Nat) : Option State :=
  if at_ < s.now + 250000 + hopsMax s.cfg.stations || !s.schedFree at_ then none
  else
    let op := s.plant.opSeq % 2 ^ 32
    let s : State := { s with plant := { s.plant with changes := s.plant.changes.filter (fun c => decide (c.at_ > s.now)) ++ [⟨op, reset, mode, at_⟩],
                                                      opSeq := s.plant.opSeq + 1 } }
    some (s.cfg.stations.foldl (fun s d =>
      s.fspSend .station 0x09 d.link.val d.no.val s.stamp32 0 false (schedData op (if reset then 3 else 2) mode (s.getF TIM_STAT_ACTIVE) at_)) s)

/-- The period of the fastest task that writes a station, in ns; 0 where none does. -/
def State.writerPeriod (s : State) (n : Nat) : Nat :=
  let out := (s.stationSigs n true).map SigDef.no
  let l := (s.cfg.tasks.filter (fun d => d.outputs.any (fun o => out.contains o))).map (fun d => s.getF SCH_TASKCFG_PERIOD d.no.val)
  62500 * (match l with | [] => 0 | x :: xs => xs.foldl min x)

/-- STATION_MODE_MISSED: a change to a mode, or a reset, scheduled for an instant, which the station has not reported by the end of H and one period of
its fastest writer task: it stays in its old mode and is handled as missed, with one coalesced report of that change. -/
def execStationModeMissed (sta : StationNo) (mode : Byte) (miss : ModeMiss) (s : State) : Host.Outcome State Fault Refusal :=
  done (
    let n := sta.val
    if s.getF PNE_STASTAT_STATE n = 2 && s.getF PNE_STASTAT_MODE n ≠ mode.toNat && decide (s.now ≥ miss.at_ + hopsMax s.cfg.stations + s.writerPeriod n) then
      ((s.setF PNE_STASTAT_STATE 4 n).modSta n (fun x => { x with expect := mode.toNat, change := miss.no, badMode := false, isReset := miss.isReset, missedAt := s.now,
                                                                  sentAt := none })).report
        0x0006 miss.no s.now 1 n
    else s)

/-- MODE_CHANGE_RESEND: the command again every 10 ms, after MODEWAIT every second, with a fresh instant, the earliest that R234 allows. -/
def execModeChangeResend (sta : StationNo) (s : State) : Host.Outcome State Fault Refusal :=
  done (
    match s.station? sta.val with
    | none => s
    | some d =>
      let x := s.staRt sta.val
      let due := match x.sentAt with | some t => decide (s.now ≥ t + (if x.badMode then 1000000000 else 10000000)) | none => true
      if s.isLead && s.getF PNE_STASTAT_STATE sta.val = 4 && due then
        (s.modSta sta.val (fun x => { x with sentAt := some s.now })).fspSend .station 0x09 d.link.val d.no.val s.stamp32 0 false
          (schedData x.change (if x.isReset then 3 else 2) x.expect (s.getF TIM_STAT_ACTIVE) (s.now + 250000 + d.hops))
      else s)

/-- MODEWAIT_EXPIRY: MODEWAIT seconds after the change was missed, the inputs take status BAD. -/
def execModewaitExpiry (sta : StationNo) (s : State) : Host.Outcome State Fault Refusal :=
  done (
    if s.getF PNE_STASTAT_STATE sta.val = 4 && decide (s.now ≥ (s.staRt sta.val).missedAt + s.getF PNE_CUTCFG_MODEWAIT * 1000000000) then s.modSta sta.val (fun x => { x with badMode := true }) else s)

/-! ### Output frames, HOLD and beacons (R290, R296, R297) -/

/-- One OUTPUT frame per station that a task writes, for a commit (R290): `val` gives the driven values; a missed station gets its substitute
values (R244). The frames are kept for HOLD. -/
def State.outputFrames (s : State) (task csn stamp : Nat) (val : Nat → Nat) : State :=
  let outs := ((s.taskDef? task).map TaskDef.outputs).getD []
  s.cfg.stations.foldl (fun s d =>
    let n := d.no.val
    let l := (s.stationSigs n true).filter (fun g => outs.contains g.no)
    if l.isEmpty then s
    else
      s.byEngines [0x203] .rd (l.map (fun g => (s.outSlot task g.no, 8))) (fun s =>
      let data := putVals (fun g => if s.getF PNE_STASTAT_STATE n = 4 then g.sub else val g.no) l
      let keep := (tabGet [] s.plant.lastOut task).filter (fun x => x.1 ≠ n) ++ [(n, csn % 2 ^ 32, data)]
      let s := { s with plant := { s.plant with lastOut := tabSet s.plant.lastOut task keep, outAt := tabSet s.plant.outAt n s.tick } }
      s.fspSend .station 0x01 d.link.val n (stamp % 2 ^ 32) (csn % 2 ^ 32) false data)) s

/-- One PEER frame per data set that a task publishes, for a commit (R298). -/
def State.peerFrames (s : State) (task csn : Nat) : State :=
  s.cfg.pubs.foldl (fun s p =>
    if p.task.val = task then
      s.byEngines [0x203] .rd [(p.addr, p.len)] (fun s =>
        s.fspSend .peer 0x10 104 p.producer s.stamp32 (csn % 2 ^ 32) false (natLe 2 p.set ++ [0, 0] ++ memRdL s.sq.mem p.addr p.len))
    else s) s

/-- HOLD_OUTPUT_REPEAT (R46, R296): at a grid tick of a held task its last OUTPUT frames again, with unchanged values and CYCLE. -/
def execHoldOutputRepeat (s : State) : Host.Outcome State Fault Refusal :=
  done (
    if s.isLead && s.mode = 2 then
      s.cfg.tasks.foldl (fun s t =>
        let k := t.no.val
        if s.kind k = 0 && !s.isSafety k && s.gridFrom k s.tick = s.tick then
          (tabGet [] s.plant.lastOut k).foldl (fun s x =>
            match s.station? x.1 with
            | none => s
            | some d =>
              State.fspSend { s with plant := { s.plant with outAt := tabSet s.plant.outAt x.1 s.tick } }
                .station 0x01 d.link.val x.1 s.stamp32 x.2.1 false x.2.2) s
        else s) s
    else s)

/-- BEACON (R210, R297): at grid tick g of the fastest task, to every witness that gets no OUTPUT frame at it; a peer controller gets none. -/
def execBeacon (g : Nat) (s : State) : Host.Outcome State Fault Refusal :=
  done (
    if s.isLead && s.fastGrid g = g then
      s.witnesses.foldl (fun s d =>
        if d.1 ≥ 0x1000 || decide (tabGet 0 s.plant.outAt d.1 < g) then s.fspSend .witness 0x05 d.2.1 (d.1 % 0x1000) s.stamp32 0 false [] else s) s
    else s)

/-! ### Peer controllers (R298) -/

/-- PEER: one HE per producer; the data set is captured from. -/
def execPeerFrame (link : Fin 104) (frame : List Byte) (s : State) : Host.Outcome State Fault Refusal :=
  done (
    match s.fspTake link 0x10 frame with
    | (none, s) => s
    | (some f, s) =>
      if f.epoch < tabGet 0 s.plant.prodHe f.sta then s
      else
        let s := { s with plant := { s.plant with prodHe := tabSet s.plant.prodHe f.sta f.epoch } }
        let set := leNat (f.data.take 2)
        match s.cfg.peers.find? (fun p => p.producer = f.sta && p.set = set) with
        | none => s
        | some p =>
          let l := s.peerSigs p.set
          if bitOf f.flags 0 then s
          else if f.data.length ≠ 4 + sigBytes l then s.bump PNE_PORTSTAT_DISCCNT link.val
          else
            match (s.sysAddr .station s.seatB (0x1000 + p.set)).bind (fun a => s.engineRefuses false 0x203 .wr a (f.data.length - 4)) with
            | some b => s.latchRefusal b 0x203 true
            | none =>
              { s with io := { s.io with inbox := takeVals l (f.data.drop 4) [] s.io.inbox },
                       plant := { s.plant with peerAt := tabSet s.plant.peerAt p.set s.now } })

/-- The value and status of a peer's signal at capture. -/
def State.peerSignal (s : State) (set : Nat) (sig : SigDef) : Nat × Nat :=
  if tabHas s.plant.peerAt set then ((tabGet (sig.sub, 0) s.io.inbox sig.no).1, 0) else (sig.sub, 1)

/-- PEER_WATCHDOG_EXPIRY: the data set is captured with its substitute values, and the producer is reported. -/
def execPeerWatchdogExpiry (set : Nat) (s : State) : Host.Outcome State Fault Refusal :=
  done (s.powered fun s =>
    match s.cfg.peers.find? (fun p => p.set = set) with
    | none => s
    | some p =>
      State.report { s with plant := { s.plant with peerAt := tabDel s.plant.peerAt set } }
        0x0004 (0x1000 + p.producer) s.now 10 p.producer)

/-! ### PTP (R299 to R304) -/

/-- A domain that has not been heard. -/
def DomRt.reset : DomRt := ⟨0, 0, 0, 0, 0⟩
/-- A domain's servo. -/
def State.dom (s : State) (d : Nat) : DomRt := tabGet DomRt.reset s.plant.doms d
/-- Change it. -/
def State.modDom (s : State) (d : Nat) (f : DomRt → DomRt) : State :=
  { s with plant := { s.plant with doms := tabMod DomRt.reset s.plant.doms d f } }
/-- The lock bit of a domain. -/
def domLock (d : Nat) : Fld := if d = 0 then TIM_STAT_D0LOCK else TIM_STAT_D1LOCK

/-- Domain 1 minus domain 0, in ns. -/
def State.domOffset (s : State) : Int := (s.dom 1).offset - (s.dom 0).offset

/-- Are both domains held and more than DOMDIFF apart? -/
def State.domApart (s : State) : Bool :=
  s.domHeld 0 && s.domHeld 1 && decide (s.domOffset.natAbs > s.getF TIM_CTL_DOMDIFF * 100)

/-- The clock follows another domain from now on. -/
def State.domSwitch (s : State) (d : Nat) : State :=
  if s.getF TIM_STAT_ACTIVE = d then s else (s.setF TIM_STAT_ACTIVE d).bump TIM_STAT_SWCNT

/-- The active domain changes (R303, R304): in a pair, the Lead announces the change for a tick, 2 × P_f ahead, and carries it; a module that
follows leaves it to the Lead; any other module changes at once (log entry 15). -/
def State.domChoose (s : State) (d : Nat) : State :=
  match s.getF PAR_STAT_STATE with
  | 6 =>
    let t := s.tick + 2 * s.pf
    State.share { s with plant := { s.plant with domAt := some (t, d) } } (.domain t d)
  | 2 => s
  | 3 => s
  | 4 => s
  | _ => s.domSwitch d

/-- After a domain is lost or regained: DOMSPLIT and HOLDOVER show what holds, and a lost active domain is replaced by one that is held. -/
def State.domCheck (s : State) : State :=
  let s := if s.domApart then s else s.setF TIM_STAT_DOMSPLIT 0
  let a := s.getF TIM_STAT_ACTIVE
  if s.domHeld a then s.setF TIM_STAT_HOLDOVER 0
  else if s.domHeld (1 - a) then (s.setF TIM_STAT_HOLDOVER 0).domChoose (1 - a)
  else s

/-- The engine acts as a boundary clock on every plant link that has PTPEN = 1 (R287): it passes a domain's time, or its best master, on to those links in messages
of its own. When it sends them is a DESIGN CHOICE (log entry 100): when the domain's servo has taken a message. -/
def State.boundary (s : State) (msg d master : Nat) : State :=
  let l := (List.range 104).filter (fun k => s.flag PNE_PORTCFG_PTPEN k)
  if l.isEmpty then s else s.emit .ptp msg (d :: master :: l)

/-- PTP_SYNC (R300, R302): the servo takes the domain's offset against the local clock; 16 good intervals below 100 ns regain the domain. In
START, before any release, the clock is stepped to the active domain once; later corrections are slewed, which the model does not follow. -/
def execPtpSync (dom : Bool) (offset : Int) (s : State) : Host.Outcome State Fault Refusal :=
  done (s.powered fun s =>
    let d := b2n dom
    let step := s.getF PAR_STAT_STATE = 0 && !s.plant.stepped && s.getF TIM_STAT_ACTIVE = d
    let s := if step then
        let t := ((s.now : Int) + offset).toNat
        { s with now := t, tick := t / 62500, plant := { s.plant with stepped := true } }
      else s
    let off := if step then 0 else offset
    let g := if off.natAbs < 100 then sat 32 ((s.dom d).good + 1) else 0
    let s := s.modDom d (fun x => { x with good := g, offset := off })
    let s := s.boundary 0 d (s.dom d).master
    let o := s.domOffset
    let s := s.setF TIM_STAT_OFFSET (unsgn 16 (max (-32768) (min 32767 o)))
    if !s.domHeld d && decide (g ≥ 16) then
      ((s.setF (domLock d) 1).modDom d (fun x => { x with lockedAt := s.now })).domCheck
    else if s.domApart then s else s.setF TIM_STAT_DOMSPLIT 0)

/-- PTP_DOMAIN_LOST (R302, R303): a report, and the clock switches or enters holdover. -/
def execPtpDomainLost (dom : Bool) (s : State) : Host.Outcome State Fault Refusal :=
  done (s.powered fun s =>
    let d := b2n dom
    if !s.domHeld d then s.modDom d (fun x => { x with good := 0 })
    else
      let s := (s.setF (domLock d) 0).modDom d (fun x => { x with good := 0 })
      let s := s.report 0x0005 d s.now 0 0
      let s := if !s.domHeld 0 && !s.domHeld 1 then s.setF TIM_STAT_HOLDOVER 1 else s
      s.domCheck)

/-- PTP_ANNOUNCE (R301, R302): the announce receipt starts anew, and the best master of the domain is the one the message names. -/
def execPtpAnnounce (dom : Bool) (master : Nat) (s : State) : Host.Outcome State Fault Refusal :=
  done (s.powered fun s => (s.modDom (b2n dom) (fun x => { x with announced := s.now, master := master })).boundary 0x0B (b2n dom) master)

/-- DOMAIN_SWITCH_BACK (R303): after 60 s of lock of DOMPREF with AUTOSWITCH = 1, while the domains are not split. -/
def execDomainSwitchBack (s : State) : Host.Outcome State Fault Refusal :=
  done (s.powered fun s =>
    let p := s.getF TIM_CTL_DOMPREF
    if s.flag TIM_CTL_AUTOSWITCH && s.getF TIM_STAT_ACTIVE ≠ p && s.domHeld p && !s.flag TIM_STAT_DOMSPLIT &&
       decide (s.now ≥ (s.dom p).lockedAt + 60000000000) then s.domChoose p
    else s)

/-- DOMAIN_SPLIT (R303): the domains have been apart for 1 s, or no longer are. -/
def execDomainSplit (split : Bool) (s : State) : Host.Outcome State Fault Refusal :=
  done (s.powered fun s =>
    if split then
      if s.domApart && !s.flag TIM_STAT_DOMSPLIT then (s.setF TIM_STAT_DOMSPLIT 1).evHw 22 [unsgn 64 s.domOffset] else s
    else if s.domApart then s else s.setF TIM_STAT_DOMSPLIT 0)

/-- TIM_SWITCH (R303, R304): ignored and counted where the other domain is not held, and on a module that leaves the choice to its Lead. -/
def State.cmdTimSwitch (s : State) (path : Path) : State :=
  let d := 1 - s.getF TIM_STAT_ACTIVE
  let st := s.getF PAR_STAT_STATE
  if st = 2 || st = 3 || st = 4 then s.ignored path 0x20000 3
  else if !s.domHeld d then s.ignored path 0x20000 4
  else s.domChoose d
/-- TIM_SWITCH (R303, R304): the write reaches its block, which takes it as `State.cmdTimSwitch` says. -/
def execTimSwitch (path : Path) (s : State) : Host.Outcome State Fault Refusal := done (s.written path 0x20000 (fun s => s.cmdTimSwitch path))

/-! ### Plant links (R286, R288) -/

/-- PNE_PORTCFG_WRITE (R286, R312): SPEED is that of the whole cage, and a change of rate drops its links; a redundant partner in the same cage
refuses the write. -/
def State.cmdPnePortcfgWrite (s : State) (path : Path) (v : W32) : State :=
  let l := s.selIx path .link
  let speed := bits v.toNat 0 2
  let redun := bits v.toNat 2 2
  let partner := bits v.toNat 4 7
  if l ≥ 104 then s.ignored path 0xB0014 6
  else if redun ≠ 0 && (partner / 4 = l / 4 || partner ≥ 104) then s.ignored path 0xB0014 5
  else
    let s := s.setLater .baseTick PNE_PORTCFG_REDUN redun l
    let s := s.setLater .baseTick PNE_PORTCFG_PARTNER partner l
    let s := s.setLater .baseTick PNE_PORTCFG_PTPEN (bits v.toNat 11 1) l
    let drop := decide (s.asWritten PNE_PORTCFG_SPEED l ≠ speed)
    (List.range 4).foldl (fun s i =>
      let k := l / 4 * 4 + i
      let s := s.setLater .baseTick PNE_PORTCFG_SPEED speed k
      if drop then s.setLater .baseTick PNE_PORTSTAT_UP 0 k else s) s
/-- PNE_PORTCFG_WRITE (R286, R312): the write reaches its block, which takes it as `State.cmdPnePortcfgWrite` says. -/
def execPnePortcfgWrite (path : Path) (v : W32) (s : State) : Host.Outcome State Fault Refusal := done (s.written path 0xB0014 (fun s => s.cmdPnePortcfgWrite path v))

/-- PLANT_LINK_UP_DOWN (R286). -/
def execPlantLinkUpDown (link : Fin 104) (up : Bool) (rate : BitVec 2) (s : State) : Host.Outcome State Fault Refusal :=
  done (s.powered fun s => (s.setB PNE_PORTSTAT_UP up link.val).setF PNE_PORTSTAT_RATE (if up then rate.toNat else 0) link.val)

/-! ### Time pins (R306 to R310) -/

/-- PULSE_ARM (R306): a start less than 10 µs ahead is ignored and counted, and LATE is set; settings outside the limits of R306 are ignored
and counted. -/
def State.cmdPulseArm (s : State) (path : Path) : State :=
  let o := s.selIx path .pulse
  let sec := s.now / 1000000000 / 2 ^ 32 * 2 ^ 32 + s.asWritten TIM_POSTART_SEC o
  let start := sec * 1000000000 + s.asWritten TIM_POSTARTNS_NS o
  let p := s.asWritten TIM_POPERIOD_NS o
  let w := s.asWritten TIM_POWIDTH_NS o
  if start < s.now + 10000 then (s.ignored path 0x20034 4).setF TIM_POCTL_LATE 1 o
  else if p < 1000 || p > 4000000000 || w < 8 || w + 8 > p then s.ignored path 0x20034 5
  else
    let c := s.asWritten TIM_POCTL_COUNT o
    let pol := decide (s.asWritten TIM_POCTL_POL o ≠ 0)
    let r : PulseRt := { start := start, period := p, width := w, pol := pol, count := c, stopping := false }
    let s := { s with plant := { s.plant with pulses := tabSet s.plant.pulses o r } }
    ((s.setF TIM_POCTL_RUNNING 1 o).setF TIM_POCTL_LATE 0 o).emit .lines 0x300 [o, start, p, w, b2n pol, c]
/-- PULSE_ARM (R306): the write reaches its block, which takes it as `State.cmdPulseArm` says. -/
def execPulseArm (path : Path) (s : State) : Host.Outcome State Fault Refusal := done (s.written path 0x20034 (fun s => s.cmdPulseArm path))

/-- PULSE_STOP (R306): the train ends after the pulse in progress. -/
def State.cmdPulseStop (s : State) (path : Path) : State :=
  let o := s.selIx path .pulse
  match tabGet? s.plant.pulses o with
  | none => s
  | some r => State.emit { s with plant := { s.plant with pulses := tabSet s.plant.pulses o { r with stopping := true } } } .lines 0x301 [o]
/-- PULSE_STOP (R306): the write reaches its block, which takes it as `State.cmdPulseStop` says. -/
def execPulseStop (path : Path) (s : State) : Host.Outcome State Fault Refusal := done (s.written path 0x20034 (fun s => s.cmdPulseStop path))

/-- PULSE_TRAIN_END (R306): after COUNT pulses of a counted train, or after the current pulse following STOP. -/
def execPulseTrainEnd (out : Fin 2) (s : State) : Host.Outcome State Fault Refusal :=
  done (
    match tabGet? s.plant.pulses out.val with
    | none => s
    | some r =>
      if r.count ≠ 0 || r.stopping then
        State.setF { s with plant := { s.plant with pulses := tabDel s.plant.pulses out.val } } TIM_POCTL_RUNNING 0 out.val
      else s)

/-- An entry of Table 11-6. -/
def capEntry (t flags seq dur stopSeq : Nat) : List Byte :=
  natLe 6 (t / 1000000000) ++ natLe 2 flags ++ natLe 4 (t % 1000000000) ++ natLe 4 seq ++ natLe 8 dur ++ natLe 4 stopSeq ++ natLe 4 0

/-- Put an entry into TIMCAP, or drop it if the ring is full (R309). -/
def State.capPut (s : State) (bs : List Byte) : State :=
  let head := s.getF TIM_CAPSTAT_HEAD
  if ringFull 1024 head (s.ringTail .timTail s.seatB 0 TIM_CAPCFG_TAIL) then s.bump TIM_CAPSTAT_LOST
  else s.ringPut .timCap s.seatB 0 1024 32 head bs (fun s => s.wrapUp TIM_CAPSTAT_HEAD)

/-- The close of a measurement by a stop edge (R308); the input and edge bits of its entry are those of the edge whose time it gives, and the
SEQ of a stop with no start is left open. -/
def State.measStop (s : State) (inp falling : Bool) (t seq : Nat) : State :=
  match s.plant.meas with
  | none =>
    match s.free with
    | (q, s) => s.capPut (capEntry t (b2n inp + 2 * b2n falling + 4 + 32) (q % 2 ^ 32) 0 seq)
  | some m =>
    let s := { s with plant := { s.plant with meas := none } }
    let err := decide (t < m.stamp)
    let below := decide (t = m.stamp)
    let fl := b2n (s.flag TIM_CAPCFG_STARTIN) + 2 * s.getF TIM_CAPCFG_STARTEDGE + 4 + 8 * b2n err + 16 * b2n below + 64 * b2n m.replaced
    let s := if err then s.bump TIM_CAPSTAT_ORDERCNT else s
    s.capPut (capEntry m.stamp fl m.seq (t - m.stamp) seq)

/-- TIO_CAPTURE_EDGE (R307, R308, R42): a selected edge is stamped to 4 ns, numbered, entered, may open or close a measurement, and activates its
event task. -/
def execTioCaptureEdge (inp falling : Bool) (t : Nat) (s : State) : Host.Outcome State Fault Refusal :=
  done (
    let sel := s.getF (if inp then TIM_CAPCFG_EDGE3 else TIM_CAPCFG_EDGE2)
    if !bitOf sel (b2n falling) then s
    else
      let t := t / 4 * 4
      let seq := s.plant.capSeq
      let s := { s with plant := { s.plant with capSeq := (seq + 1) % 2 ^ 32 } }
      let s := s.capPut (capEntry t (b2n inp + 2 * b2n falling) seq 0 0)
      let s := s.trigger (.tio s.seatB (b2n inp)) t
      if !s.flag TIM_CAPCFG_MEASEN then s
      else
        let start := s.flag TIM_CAPCFG_STARTIN = inp && s.flag TIM_CAPCFG_STARTEDGE = falling
        let stop := s.flag TIM_CAPCFG_STARTIN ≠ inp && s.flag TIM_CAPCFG_STOPEDGE = falling
        if start then { s with plant := { s.plant with meas := some ⟨t, seq, s.plant.meas.isSome⟩ } }
        else if stop then s.measStop inp falling t seq
        else s)

/-- A write of a ring's tail by set-up (R310): on the Lead a commit of its own at the next base tick, on the Follower ignored and counted. -/
def State.tailWrite (s : State) (path : Path) (off : Nat) (k : SysKind) (ix : Nat) (f : Fld) (v : Nat) : State :=
  if !s.isLead then s.ignored path off 3
  else match s.sysAddr k s.seatB ix with
    | some a => { s with sched := { s.sched with tails := s.sched.tails ++ [(a, v)] } }
    | none => s.setLater .baseTick f v ix

/-- DIO_EDGETAIL_WRITE (R310, R379). -/
def execDioEdgetailWrite (path : Path) (v : BitVec 16) (s : State) : Host.Outcome State Fault Refusal :=
  done (s.written path 0xD0024 (fun s => s.tailWrite path 0xD0024 .dioTail 0 DIO_EDGETAIL_TAIL v.toNat))
/-- TIM_CAPCFG_TAIL_WRITE (R310). -/
def execTimCapcfgTailWrite (path : Path) (v : BitVec 16) (s : State) : Host.Outcome State Fault Refusal :=
  done (s.written path 0x20040 (fun s => s.tailWrite path 0x20040 .timTail 0 TIM_CAPCFG_TAIL v.toNat))
/-- CAN_RXTAIL_WRITE (R310, R393). -/
def execCanRxtailWrite (path : Path) (v : BitVec 16) (s : State) : Host.Outcome State Fault Refusal :=
  done (s.written path 0x100018 (fun s => s.tailWrite path 0x100018 .canRxTail (s.selIx path .can) CAN_RXTAIL_TAIL v.toNat))

end Sys2Proof.Machine
end

