-- ==== Sys2Proof/Machine/Fsl.lean ====
section
/-! DEFINITION. The Fynas Safety Layer (12, R318 to R326): PDUs, acceptance, passivation and reintegration. -/
namespace Sys2Proof.Machine

/-- A connection that has accepted nothing. -/
def ConnRt.reset : ConnRt := ⟨0, 0, 0, false, []⟩
/-- A connection's receiving side. -/
def State.connRt (s : State) (n : Nat) : ConnRt := tabGet ConnRt.reset s.io.conns n
/-- Change it. -/
def State.modConn (s : State) (n : Nat) (f : ConnRt → ConnRt) : State :=
  { s with io := { s.io with conns := tabMod ConnRt.reset s.io.conns n f } }
/-- A connection of the configuration. -/
def State.conn? (s : State) (n : Nat) : Option ConnDef := s.cfg.conns.find? (fun d => d.no.val = n)

/-- SCRC (R320): CRC-32/AUTOSAR over CONNID and the PDU up to the end of its data. -/
def scrc (id : Nat) (body : List Byte) : Nat := crc 32 0xC8DF352F (natLe 4 id ++ body)

/-- WIN for a sender's interval (R319). -/
def fslWin (fwdt ivl : Nat) : Nat := (fwdt * 10000 + ivl - 1) / ivl + 1

/-- The signals of a direction, in order. -/
def State.connSigs (s : State) (l : List Nat) : List SigDef := l.filterMap (fun n => s.sig? n)

/-- The CN of a module's PDU for the grid tick of its owner (R321). -/
def State.moduleCn (s : State) (owner g : Nat) : Nat :=
  ((g - s.getF SCH_TASKPHASE_PHASE owner) / max 1 (s.getF SCH_TASKCFG_PERIOD owner)) % 65536

/-- Is an ECHO fresh at a module (R322)? -/
def State.echoFresh (s : State) (d : ConnDef) (echo : Nat) : Bool :=
  let p := max 1 (s.getF SCH_TASKCFG_PERIOD d.owner.val)
  let ph := s.getF SCH_TASKPHASE_PHASE d.owner.val
  let k := (s.tick - ph) / p
  let back := (k % 65536 + 65536 - echo) % 65536
  decide (back ≤ k) && decide (s.tick ≥ ph) && decide (s.now ≤ (ph + (k - back) * p) * 62500 + d.fwdt * 10000)

/-- The value and status of a connection's signal at capture (R323, R324). -/
def State.connSignal (s : State) (n : Nat) (sig : SigDef) : Nat × Nat :=
  if s.getF SFY_CONNSTAT_STATE n = 0 then ((tabGet (sig.sub, 0) s.io.inbox sig.no).1, 0) else (sig.sub, 1)

/-- The acknowledgement of reintegration (R324): the module sends REINT = 1 and PASSIVE = 0. -/
def State.connAck (s : State) (n : Nat) : State :=
  if s.getF SFY_CONNSTAT_STATE n = 2 then s.modConn n (fun c => { c with reint := true }) else s

/-- A PDU that is discarded: counted, and the run of acceptances ends. -/
def State.pduDrop (s : State) (n : Nat) (f : Option Fld) : State :=
  let s := s.modConn n (fun c => { c with run := 0 })
  match f with | some f => s.bump f n | none => s

/-- A PDU accepted under the full rule, or in PASSIVE under conditions 1, 2 and 4 (`full` = false). -/
def State.pduAccept (s : State) (d : ConnDef) (full : Bool) (cn ctrl : Nat) (data : List Byte) : State :=
  let n := d.no.val
  let far := bitOf ctrl 0
  let c := s.connRt n
  let lost := if full then (cn + 65536 - c.last) % 65536 - 1 else 0
  let s := (s.bump SFY_CONNSTAT_LOSTCNT n lost).setB SFY_CONNSTAT_FARPASS far n
  let take (s : State) : State :=
    { s with io := { s.io with inbox := takeVals (s.connSigs d.ins) data [] s.io.inbox } }
  match s.getF SFY_CONNSTAT_STATE n with
  | 0 => take (s.modConn n (fun c => { c with last := cn, restart := s.now, data := data }))
  | 2 =>
    let s := s.modConn n (fun c => { c with last := cn, restart := s.now })
    if c.reint && !far then
      take ((s.setF SFY_CONNSTAT_STATE 0 n).modConn n (fun c => { c with reint := false, data := data }))
    else s
  | _ =>
    let run := if full then c.run + 1 else 0
    let s := s.modConn n (fun c => { c with last := cn, restart := s.now, run := run })
    if run ≥ 3 then
      let s := s.setF SFY_CONNSTAT_STATE 2 n
      if d.autoReint then s.connAck n else s
    else s

/-- FSL_PDU_RECEIVE (R322, R324): the four conditions in order. -/
def State.pduTake (s : State) (d : ConnDef) (pdu : List Byte) : State :=
  let n := d.no.val
  let c := s.connRt n
  let f (o k : Nat) : Nat := leNat ((pdu.drop o).take k)
  let dlen := f 0x0A 2
  let cn := f 4 2
  let passive := decide (s.getF SFY_CONNSTAT_STATE n = 1)
  let dist := (cn + 65536 - c.last) % 65536
  let inWin := decide (1 ≤ dist) && decide (dist ≤ fslWin d.fwdt d.ivlFar)
  if dlen ≠ sigBytes (s.connSigs d.ins) || pdu.length ≠ 0x10 + dlen || f (0x0C + dlen) 4 ≠ scrc d.id.toNat (pdu.take (0x0C + dlen)) then
    s.pduDrop n (some SFY_CONNSTAT_CRCERR)
  else if f 0 4 ≠ s.epoch then s.pduDrop n none
  else if !passive && !inWin then s.pduDrop n (some SFY_CONNSTAT_SEQERR)
  else if !s.echoFresh d (f 6 2) then s.pduDrop n (some SFY_CONNCNT_ECHOLATE)
  else (s.pduAccept d inWin cn (f 8 1) ((pdu.drop 0x0C).take dlen)).fnJudgeAll

/-- FSL_PDU_RECEIVE: each module runs the receiving side on the frames it receives (R325). -/
def execFslPduReceive (conn : Fin 4096) (pdu : List Byte) (s : State) : Host.Outcome State Fault Refusal :=
  done (s.powered fun s => match s.conn? conn.val with | none => s | some d => s.pduTake d pdu)

/-- FSL_WATCHDOG_EXPIRY (R323): passivation, with a report; a dual path of the connection is judged. -/
def execFslWatchdogExpiry (conn : Fin 4096) (s : State) : Host.Outcome State Fault Refusal :=
  done (s.powered fun s =>
    let n := conn.val
    match s.conn? n with
    | none => s
    | some _ =>
      if s.getF SFY_CONNSTAT_STATE n = 1 then s
      else
        let s := (s.setF SFY_CONNSTAT_STATE 1 n).modConn n (fun c => { c with run := 0, reint := false })
        ((s.bump SFY_CONNCNT_WDEXP n).report 0x0004 (0x2000 + n) s.now 7 n).fnJudgeAll)

/-- The PDU of a commit of the owner task for grid tick g (R320, R321, R323, R324): PASSIVE, REINT and DEGR, the driven values, or the safe
values while it passivates. -/
def State.modulePdu (s : State) (d : ConnDef) (g : Nat) (val : Nat → Nat) : List Byte :=
  let n := d.no.val
  let c := s.connRt n
  let passive := s.getF SFY_CONNSTAT_STATE n ≠ 0 && !c.reint
  let degr := s.cfg.fns.any (fun f => f.kind = 3 && (f.a = n || f.b = n) && s.getF SFY_FNSTAT_STATE f.no.val = 1)
  let l := s.connSigs d.outs
  let data := putVals (fun x => if passive then x.safeVal else val x.no) l
  let body := natLe 4 s.epoch ++ natLe 2 (s.moduleCn d.owner.val g) ++ natLe 2 c.last ++
    natLe 1 (b2n passive + 2 * b2n c.reint + 4 * b2n degr) ++ [0] ++ natLe 2 data.length ++ data
  body ++ natLe 4 (scrc d.id.toNat body)

/-- The PDUs of a commit of a task (R321, R325): each travels as the whole payload of a frame with SAFE = 1; a seat connection's rides in the
Boulevard's packets. A write of 1 to REINTREQ of a connection record
among the commit's writes acknowledges. -/
def State.fslCommit (s : State) (task g csn : Nat) (w : Ovl) (val : Nat → Nat) : State :=
  s.cfg.conns.foldl (fun s d =>
    if d.owner.val ≠ task then s
    else
      let s := if tabGet? w d.reintAddr = some 1 then s.connAck d.no.val else s
      let pdu := s.modulePdu d g val
      match d.far with
      | .station n =>
        let link := ((s.station? n.val).map (fun x => x.link.val)).getD 0
        s.fspSend .station 0x01 link n.val s.stamp32 (csn % 2 ^ 32) true pdu
      | .peer set => s.fspSend .peer 0x10 104 set s.stamp32 (csn % 2 ^ 32) true pdu
      | .seat => s.emit .fsl d.no.val [] pdu) s

end Sys2Proof.Machine
end

