-- ==== Sys2Proof/Machine/Migrate.lean ====
section
/-! DEFINITION. The migration map of an on-line change (09, R240 to R242): what the new program's state space holds, and what a cycle of the
old program contributes to it. -/
namespace Sys2Proof.Machine

/-- Bytes of the system variables that are carried: a ring's tail, the exception records, XCPPEND, the CANTX queues. -/
def sysCarried (k : SysKind) : Nat :=
  match k with
  | .dioTail => 2
  | .timTail => 2
  | .canRxTail => 2
  | .xcp => 64
  | .xcpPend => 32
  | .canTx => 6144
  | _ => 0

/-- The tag a variable of a new program had in the old one: renamed by a map entry, or the same. -/
def oldTag (p : Pkg) (t : Tag24) : Tag24 := match p.renames.find? (fun r => r.2 = t) with | some r => r.1 | none => t

/-- KIND of a tag's entry in a program store (Table 7-3). -/
def State.tagKind (s : State) (store : Nat) (tag : Tag24) : Nat :=
  let t := tag.toNat
  let dir := leNat (memRdL s.sq.code (storeBase store + 0x20000000 + bits t 12 12 * 8) 8)
  teKind (leNat (memRdL s.sq.code (bits dir 12 28 * 4096 + bits t 0 12 * 16) 8))

/-- One piece of carried state: where it stands in the old layout and in the new one, and its two types; of equal types it is one byte. -/
structure MigEl where
  src : Nat
  dst : Nat
  frm : Nat
  toTy : Nat

/-- Bytes a piece takes in the old layout. -/
def MigEl.len (e : MigEl) : Nat := if e.frm = e.toTy then 1 else tySize e.frm

/-- The bytes of a piece in the new layout, and whether its value saturated (Table 9-5: CVT with RND = 00 and TRUNC = 0). -/
def MigEl.val (e : MigEl) (mem : Tab Byte) : List Byte × Nat :=
  let bs := memRdL mem e.src e.len
  if e.frm = e.toTy then (bs, 0)
  else
    let r := resCvt e.frm e.toTy false 0 (ext e.frm (leNat bs))
    (natLe (tySize e.toTy) (low e.toTy (r.wa.getD 0)), b2n (r.v = some true))

/-- n bytes from one place to another. -/
def migBytes (src dst n : Nat) : List MigEl := (List.range n).map (fun i => ⟨src + i, dst + i, 0, 0⟩)

/-- What a variable of the new program takes over: an instance record of the same TYPE byte whole; equal types up to the shorter length;
different types element by element. `store` holds the new program. -/
def State.migVar (s : State) (store : Nat) (old new : Pkg) (v : VarDef) : List MigEl :=
  if v.cls = 0 then []
  else match old.vars.find? (fun o => o.tag = oldTag new v.tag && o.cls ≠ 0) with
    | none => []
    | some o =>
      let inst := s.tagKind store v.tag = 3 || new.objs.any (fun x => x.addr = v.addr)
      if inst then (if memRd s.sq.mem o.addr = memRd new.init v.addr then migBytes o.addr v.addr (min o.size v.size) else [])
      else if o.ty = v.ty then migBytes o.addr v.addr (min o.size v.size)
      else
        let a := tySize o.ty.toNat
        let b := tySize v.ty.toNat
        (List.range (min (o.size / a) (v.size / b))).map (fun i => ⟨o.addr + a * i, v.addr + b * i, o.ty.toNat, v.ty.toNat⟩)

/-- Bytes of a system variable or ring that the module keeps across a change. -/
def sysSpan (s : State) (v : SysVar) : Nat :=
  match v.kind with
  | .dioEdge => 65536
  | .timCap => 32768
  | .canRx => 49152
  | .errSubj => 32896
  | .station => if v.ix < 0x1000 then sigBytes (s.stationSigs v.ix false) + (s.stationSigs v.ix false).length else sigBytes (s.peerSigs (v.ix - 0x1000))
  | k => sysCarried k

/-- A signal's number in another program: the signal of the same tag. -/
def sigByTag (p : Pkg) (t : Tag24) : Option SigDef := p.sigs.find? (fun g => g.tag = t)

/-- The slot of an output signal in a program: value and status address, and its writer. -/
def outPlace (p : Pkg) (n : Nat) : Option (Nat × Nat × Nat) :=
  (p.tasks.find? (fun d => d.outputs.contains n)).map (fun d => (d.outBase + 8 * n, d.outStat + n, d.no.val))

/-- What the outputs of the new program take over: the last committed value and status of the signal of the same tag; `only`: only of signals
that the given task writes in both programs. -/
def migOuts (old new : Pkg) (only : Option Nat) : List MigEl :=
  new.sigs.flatMap (fun g =>
    if !g.out then []
    else match (sigByTag old (oldTag new g.tag)).bind (fun o => outPlace old o.no), outPlace new g.no with
      | some a, some b =>
        if only.any (fun t => a.2.2 ≠ t || b.2.2 ≠ t) then [] else migBytes a.1 b.1 8 ++ migBytes a.2.1 b.2.1 1
      | _, _ => [])

/-- All pieces of the map from the program in force to the one in the inactive store. -/
def State.migAll (s : State) (new : Pkg) : List MigEl :=
  let old := s.cfg
  old.sys.flatMap (fun v => match new.sys.find? (fun w => w.kind = v.kind && w.seat = v.seat && w.ix = v.ix) with
    | some w => migBytes v.addr w.addr (sysSpan s v)
    | none => []) ++
  new.vars.flatMap (s.migVar (1 - s.actStore) old new) ++ migOuts old new none

/-- The initial contents a program gives the state space, zeros standing for what its TYPE bytes leave of a changed instance record. -/
def State.migInit (s : State) (new : Pkg) : Tab Byte :=
  new.vars.foldl (fun m v =>
    match s.cfg.vars.find? (fun o => o.tag = oldTag new v.tag && o.cls ≠ 0) with
    | some o =>
      if s.tagKind (1 - s.actStore) v.tag = 3 && memRd s.sq.mem o.addr ≠ memRd new.init v.addr then
        memWrL m (v.addr + 1) (List.replicate (v.size - 1) 0)
      else m
    | none => m) (memLay [] new.init)

/-- The new layout: initial values, and the carried state through the map; and how many values saturated. -/
def State.migrate (s : State) (new : Pkg) : Tab Byte × Nat :=
  (s.migAll new).foldl (fun a e => let v := e.val s.sq.mem; (memWrL a.1 e.dst v.1, a.2 + v.2)) (s.migInit new, 0)

/-! The initial pass and the commits from its CSN on pass the carried state into the new layout (R240). No observer sees that layout before the activation
commit, and each piece of it depends on the present value of its source alone: the layout is computed where it comes into force, and the values that
saturate are counted where they pass (DEDUCED, log entry 85). -/

/-- The units of the new layout that take a value from a poisoned unit of the old one: they are poisoned too (DEDUCED, log entry 90). -/
def State.migPoison (s : State) (new : Pkg) : List Nat :=
  ((s.migAll new).filter (fun e => s.sq.bad e.src e.len)).foldl (fun l e => addUnit (unitOf e.dst) l) []

/-- The initial pass of a change: its out-of-range values count in MIGCNT. -/
def State.migPass (s : State) : State :=
  match s.olc.cand with
  | some p => s.bump SCH_OLCSTAT_MIGCNT 0 (s.migrate p).2
  | none => s

/-- From the pass to the activation, the carried writes of a commit pass through the map; a configuration load has none (R239). -/
def State.dualWrite (s : State) (w : Ovl) : State :=
  match s.olc.cand with
  | some p =>
    if !s.olc.load && (s.getF SCH_OLCSTAT_STEP = 3 || s.getF SCH_OLCSTAT_STEP = 4) then
      let l := (s.migAll p).filter (fun e => (List.range e.len).any (fun i => tabHas w (e.src + i)))
      s.bump SCH_OLCSTAT_MIGCNT 0 ((l.map (fun e => (e.val s.sq.mem).2)).foldl (· + ·) 0)
    else s
  | none => s

/-- What a cycle of the old program stores, through the map (R242): the carried variables and the outputs it has touched; writes to removed
objects are dropped. `old` is the old program, `mem` what the cycle saw with its own stores. -/
def State.migStores (s : State) (old new : Pkg) (task : Nat) (mem : Tab Byte) (w : Ovl) : Ovl × Nat :=
  let els := (new.vars.flatMap (fun v => State.migVar { s with sq := { s.sq with mem := mem } } s.actStore old new v)) ++ migOuts old new (some task)
  (els.filter (fun e => (List.range e.len).any (fun i => tabHas w (e.src + i)))).foldl
    (fun a e => let v := e.val mem; (ovlWrL a.1 e.dst v.1, a.2 + v.2)) ([], 0)

/-- Values kept per signal number in the old program, under the numbers of the new one. -/
def migSigs {α : Type} (old new : Pkg) (t : Tab α) : Tab α :=
  new.sigs.foldl (fun a g =>
    match (sigByTag old (oldTag new g.tag)).bind (fun o => tabGet? t o.no) with
    | some x => tabSet a g.no x
    | none => a) []

end Sys2Proof.Machine
end

