-- ==== Sys2Proof/Machine/Commit.lean ====
section
/-! DEFINITION. A commit (01 R11 to R13; 07 R172, R173; 08 R196 to R202; 16 R420 to R423): the flip, the record, the cycle packet, what is driven
and what the commit sets off. -/
namespace Sys2Proof.Machine

/-- What a commit holds: the packet's task, the task the record names, the packet FLAGS of Table 8-3, the grid tick and the release tick it
stands for, the base CSN, the bytes it writes, the output signals the task wrote, its captured input signals, the host batches it applies, the
effects of its cycle, further records, whether it is a cycle's (or its safe image's) rather than a commit alone, and the pages that a cycle
wrote itself with the state space and the poisoned units at its base CSN, of which its private frames are copies (R171). -/
structure CommitInfo where
  task : Nat
  recTask : Nat
  flags : Nat
  grid : Nat
  rel : Nat
  baseCsn : Nat
  writes : Ovl
  wrote : List Nat
  input : List Nat
  batches : List Batch
  fx : List CommitFx
  events : List (Nat × Nat × Nat × List Byte)
  cycle : Bool
  from_ : Option (List Nat × Tab Byte × List Nat)
deriving DecidableEq, Repr

/-- A commit that is no cycle's. -/
def CommitInfo.alone (s : State) (task : Nat) (w : Ovl) : CommitInfo :=
  { task := task, recTask := task, flags := 0, grid := s.tick, rel := s.tick, baseCsn := s.sq.csn, writes := w, wrote := [], input := [],
    batches := [], fx := [], events := [], cycle := false, from_ := none }

/-! ### What is carried (R53, R197) -/

/-- Is a byte carried: in a CARRY or RETAIN variable or an instance record (all of class CARRY), or in such a system variable? -/
def State.carried (s : State) (a : Nat) : Bool :=
  s.cfg.vars.any (fun v => v.cls ≠ 0 && v.addr ≤ a && decide (a < v.addr + v.size)) ||
  s.cfg.sys.any (fun v => v.addr ≤ a && decide (a < v.addr + sysCarried v.kind))
/-- Is a byte in a RETAIN variable? -/
def State.retained (s : State) (a : Nat) : Bool :=
  s.cfg.vars.any (fun v => v.cls = 2 && v.addr ≤ a && decide (a < v.addr + v.size))

/-- Bytes at rising addresses as runs. -/
def runsOf (o : Ovl) : List (Nat × List Byte) :=
  (o.foldl (fun (acc : List (Nat × List Byte)) p =>
    match acc with
    | (a, bs) :: l => if a + bs.length = p.1 then (a, bs ++ [p.2]) :: l else (p.1, [p.2]) :: acc
    | [] => [(p.1, [p.2])]) []).reverse

/-- A run of a CARRY section: its header, its bytes, padded to 8. -/
def runBytes (r : Nat × List Byte) : List Byte :=
  natLe 8 (r.1 % 2 ^ 40 + r.2.length * 2 ^ 40) ++ r.2 ++ List.replicate ((8 - r.2.length % 8) % 8) 0

/-- The body of a CARRY section. -/
def carryBody (o : Ovl) : List Byte := (runsOf o).flatMap runBytes

/-! ### The flip and the snapshot ring (R172, R173) -/

/-- The distinct pages of a commit's writes. -/
def pagesOf (o : Ovl) : List Nat :=
  o.foldl (fun acc p => if acc.head? = some (pageOf p.1) then acc else pageOf p.1 :: acc) []

/-- Units that a commit writes in full lose their poison (R167). -/
def unpoison (poison : List Nat) (o : Ovl) : List Nat :=
  poison.filter (fun u => !(List.range 64).all (fun i => tabHas o (u + i)))

/-- The frames that a ring holds beside the current versions. -/
def ringFrames (l : List Snap) : Nat := (l.dropLast.map Snap.frames).foldl (· + ·) 0

/-- Release the oldest snapshots until the ring fits its frames; the newest stays. -/
def ringFit (cap : Nat) : Nat → List Snap → List Snap
  | 0, l => l
  | f + 1, l => if l.length ≤ 1 || ringFrames l ≤ cap then l else ringFit cap f l.dropLast

/-- Pages of the state space as they stood at a base: the private frames a cycle's first write to each is made in (R171). -/
def framesFrom (ps : List Nat) (base mem : Tab Byte) : Tab Byte :=
  memLay (mem.filter (fun b => !ps.contains (pageOf b.1))) (base.filter (fun b => ps.contains (pageOf b.1)))

/-- The flip: every written page switches to its new frame, the CSN is set, and the snapshot stands first in the ring. `from_`: the pages whose
new frames are copies of a base, and that base; any other is a copy of the state as it stands. -/
def State.flip (s : State) (csn : Nat) (w : Ovl) (from_ : Option (List Nat × Tab Byte × List Nat) := none) : State :=
  let ps := (pagesOf w).eraseDups
  let old := match from_ with | some f => framesFrom f.1 f.2.1 s.sq.mem | none => s.sq.mem
  let bad := match from_ with
    | some f => s.sq.poison.filter (fun u => !f.1.contains (pageOf u)) ++ f.2.2.filter (fun u => f.1.contains (pageOf u))
    | none => s.sq.poison
  let mem := memLay old w
  let poison := unpoison bad w
  let snap : Snap :=
    { csn := csn, time := s.now, mem := mem, poison := poison, forces := s.sched.forces, frames := (pagesOf w).length, pages := ps }
  let l := snap :: s.sq.snaps
  { s with sq := { s.sq with mem := mem, poison := poison, csn := csn,
                             snaps := ringFit (s.getF SQR_RINGCFG_GIB * 2 ^ 18) l.length l } }

/-! ### Samples and the near history (R421, R423) -/

/-- The value a historised tag has now. -/
def State.histVal (s : State) (h : HistDef) : Samp :=
  { tag := h.tag.toNat, status := match h.stat with | some a => (memRd s.sq.mem a).toNat | none => 0, ty := h.ty.toNat,
    value := ext h.ty.toNat (leNat (memRdL s.sq.mem h.addr (tySize h.ty.toNat))) }

/-- Does a sample enter HISTSAMPLES at a commit with release time t? -/
def State.histDue (s : State) (h : HistDef) (x : Samp) (t : Nat) : Bool :=
  match tabGet? s.arc.lastSamp x.tag with
  | none => true
  | some (y, tr) =>
    x.status ≠ y.status || decide (t - tr ≥ h.maxInt) ||
    (decide (s.creditNow > 0) && beyond x.ty h.db x.value y.value && decide (t - tr ≥ h.minInt * 2 ^ s.getF ARC_STAT_STRETCH))

/-- Is a tag sampled at this commit: a signal at its history task's, a variable where the commit writes it? -/
def histAt (h : HistDef) (task : Nat) (cycle : Bool) (w : Ovl) : Bool :=
  match h.signal with
  | some _ => cycle && h.task.val = task
  | none => w.any (fun p => h.addr ≤ p.1 && decide (p.1 < h.addr + tySize h.ty.toNat))

/-- The samples of a commit, and the last ones kept. -/
def State.histTake (s : State) (task : Nat) (cycle : Bool) (w : Ovl) (t : Nat) : List Samp × State :=
  let l := (s.cfg.hist.filter (fun h => histAt h task cycle w)).filterMap (fun h =>
    let x := s.histVal h
    if s.histDue h x t then some x else none)
  (l, { s with arc := { s.arc with lastSamp := l.foldl (fun m x => tabSet m x.tag (x, t)) s.arc.lastSamp } })

/-- The delta block of a commit: the variables it wrote, and the input signals that differ from the task's previous capture. -/
def State.nearBlock (s : State) (i : CommitInfo) (csn : Nat) (old : Ovl) : NearBlk :=
  let vars := (s.cfg.vars.filter (fun v => i.writes.any (fun p => v.addr ≤ p.1 && decide (p.1 < v.addr + v.size)))).map (fun v =>
    let n := tySize v.ty.toNat
    { tag := v.tag.toNat, status := 0, ty := v.ty.toNat, value := ext v.ty.toNat (leNat (memRdL s.sq.mem v.addr n)) : Samp })
  let sigs := (i.input.filterMap (fun n => s.sig? n)).filterMap (fun g =>
    let a := s.inSlot i.task g.no
    let st := s.inStat i.task g.no
    if (List.range 8).all (fun k => tabGet? old (a + k) = some (memRd s.sq.mem (a + k))) && tabGet? old st = some (memRd s.sq.mem st) then none
    else some { tag := g.tag.toNat, status := (memRd s.sq.mem st).toNat, ty := g.ty.toNat,
                value := ext g.ty.toNat (leNat (memRdL s.sq.mem a (tySize g.ty.toNat))) : Samp })
  { csn := csn, time := s.now, entries := vars ++ sigs }

/-- Append a delta block, and release the oldest beyond NEARGIB. -/
def nearFit (cap : Nat) : Nat → List NearBlk → List NearBlk
  | 0, l => l
  | f + 1, l => if (l.map (fun b => 16 + 16 * b.entries.length)).foldl (· + ·) 0 ≤ cap then l else nearFit cap f (l.drop 1)

/-! ### Cycle packets (R196 to R198) -/

/-- A section with its header; the length counts the header (log entry 16). -/
def pktSection (kind : Nat) (body : List Byte) : List Byte := natLe 4 kind ++ natLe 4 (8 + body.length) ++ body

/-- The numbers of a set-up item; the manual gives them no layout (log entry 8). -/
def setupWords : SetupItem → List Nat
  | .regTick k v => [0, k, v]
  | .regStart t k v => [1, t, k, v]
  | .regRelease t k v => [2, t, k, v]
  | .regBarrier k v => [3, k, v]
  | .disp t x r => [4, t, x, b2n r]
  | .tag a bs => [5, a, leNat bs, bs.length]
  | .ttc f l a => [6, f, l, b2n a]
  | .barrier => [7]
  | .force n v => [8, n, b2n v.isSome, (v.map BitVec.toNat).getD 0]
  | .mode t m => [9, t, m]
  | .switchTick t => [10, t]
  | .acts t n => [11, t, n]
  | .domain t d => [12, t, d]
  | .tail a v => [13, a, v]
  | .degraded f t => [14, f, t]
  | .activation t l => [15, t, b2n l]
  | .olc n => [16, n]
  | .taskState t n => [17, t, n]
  | .cut n t x => [18, n, t, x]
  | .cutEnd n => [19, n]

/-- The base tick that an item names itself. -/
def ownTick : SetupItem → Option Nat
  | .mode t _ => some t
  | .switchTick t => some t
  | .domain t _ => some t
  | .activation t _ => some t
  | _ => none

/-- Does an item take effect with the packet itself: a force and a ring's tail with the commit it carries, what stands after that commit, a
step of a change, and a task started or stopped? -/
def withPacket : SetupItem → Bool
  | .force _ _ => true
  | .tail _ _ => true
  | .acts _ _ => true
  | .degraded _ _ => true
  | .regStart _ _ _ => true
  | .olc _ => true
  | .taskState _ _ => true
  | .cut _ _ _ => true
  | .cutEnd _ => true
  | _ => false

/-- The effect tick of an item in a packet that leaves now (Table 8-2): the one it names, the present one, or the next base tick. -/
def State.effectTick (s : State) (i : SetupItem) : Nat := (ownTick i).getD (if withPacket i then s.tick else s.tick + 1)

/-- The header of Table 8-3 with its CRC. -/
def State.pktHeader (s : State) (type flags task csn base tick len nsect ohash chash : Nat) : List Byte :=
  let h := natLe 1 type ++ natLe 1 flags ++ natLe 1 task ++ natLe 1 s.seat ++ natLe 4 s.epoch ++ natLe 8 csn ++ natLe 8 base ++ natLe 8 tick ++
    natLe 4 len ++ natLe 2 nsect ++ natLe 2 0 ++ natLe 8 ohash ++ natLe 8 chash ++ natLe 4 s.pair.pktSeq
  h ++ natLe 4 (crc32c h)

/-- Send a packet on both Boulevard links (R196): header, sections, and the CRC over the whole. -/
def State.sendPacket (s : State) (type flags task csn base tick ohash chash : Nat) (sects : List (List Byte)) : State :=
  let body := sects.flatten
  let len := 64 + body.length + 4
  let p := s.pktHeader type flags task csn base tick len sects.length ohash chash ++ body
  State.emit { s with pair := { s.pair with pktSeq := (s.pair.pktSeq + 1) % 2 ^ 32 } } .boulevard type [task, csn, tick] (p ++ natLe 4 (crc32c p))

/-- Activations pending of the event tasks, for a SETUP section. -/
def State.actItems (s : State) : List SetupItem :=
  s.cfg.tasks.filterMap (fun d =>
    if s.kind d.no.val = 1 && ((s.taskRt d.no.val).acts > 0 || (s.taskRt d.no.val).released) then some (.acts d.no.val (s.taskRt d.no.val).acts)
    else none)
/-- Start times of DEGRADED functions (R339). -/
def State.degItems (s : State) : List SetupItem :=
  s.cfg.fns.filterMap (fun f => if s.getF SFY_FNSTAT_STATE f.no.val = 1 then (s.fnRt f.no.val).since.map (fun t => .degraded f.no.val t) else none)

/-- The SETUP section of the next packet, if changes are pending, each item after its effect tick; the list is empty then, and what waited for the
packet waits for its tick. -/
def State.takeSetup (s : State) : List (List Byte) × State :=
  let l := s.pair.setup ++ s.actItems ++ s.degItems
  (if l.isEmpty then [] else [pktSection 0x04 (l.flatMap (fun i => words (s.effectTick i :: setupWords i)))],
   State.carriedOut { s with pair := { s.pair with setup := [] } })

/-- Is a cycle marked for audit (R202)? -/
def State.audited (s : State) (i : CommitInfo) : Bool :=
  let t := i.task
  i.cycle && i.flags &&& 6 = 0 && s.hasFollower &&
  (if s.kind t = 0 then
     ((i.grid - s.getF SCH_TASKPHASE_PHASE t) / max 1 (s.getF SCH_TASKCFG_PERIOD t)) % 16 = t % 16
   else s.kind t = 1 && (s.taskRt t).rels % 16 = 0)

/-- The entry of an input signal in a packet. -/
def State.inEntry (s : State) (t n : Nat) : List Byte :=
  natLe 4 (n % 2 ^ 19 + (memRd s.sq.mem (s.inStat t n)).toNat * 2 ^ 24) ++ natLe 4 0 ++ memRdL s.sq.mem (s.inSlot t n) 8

/-- Did an input signal's value or status change against an earlier image? -/
def State.inChanged (s : State) (t : Nat) (old : Ovl) (n : Nat) : Bool :=
  !((List.range 8).all (fun k => tabGet? old (s.inSlot t n + k) = some (memRd s.sq.mem (s.inSlot t n + k))) &&
    tabGet? old (s.inStat t n) = some (memRd s.sq.mem (s.inStat t n)))

/-! ### Driven values (R50, R201) -/

/-- The task that writes an output signal. -/
def State.writerOf (s : State) (n : Nat) : Nat := ((s.cfg.tasks.find? (fun d => d.outputs.contains n)).map (fun d => d.no.val)).getD 0
/-- The value of an output signal that reaches the plant: the force, or the committed value. -/
def State.driveVal (s : State) (n : Nat) : Nat :=
  match tabGet? s.sched.forces n with
  | some v => v.1.toNat
  | none => leNat (memRdL s.sq.mem (s.outSlot (s.writerOf n) n) 8)

/-- The output signals of a task. -/
def State.outSigs (s : State) (t : Nat) : List SigDef := (((s.taskDef? t).map TaskDef.outputs).getD []).filterMap (fun n => s.sig? n)

/-- Drive one on-module output of the own seat. -/
def State.driveOne (s : State) (g : SigDef) (v : Nat) : State :=
  match g.src with
  | .dio seat ch => if seat = s.seatB then s.dioCommit ch.val (decide (v % 2 = 1)) else s
  | .ao seat ch => if seat = s.seatB then s.aoCommit ch.val (v % 2 ^ 32) else s
  | _ => s

/-- Drive a task's on-module outputs of the own seat. -/
def State.driveOwn (s : State) (t : Nat) : State := (s.outSigs t).foldl (fun s g => s.driveOne g (s.driveVal g.no)) s

/-- Is a signal driven by the partner's seat? -/
def atSeat (g : SigDef) (b : Bool) : Bool :=
  match g.src with
  | .dio seat _ => seat = b
  | .ao seat _ => seat = b
  | .can seat _ _ => seat = b
  | _ => false

/-- May a task's outputs reach the plant now: the module leads, and in HOLD the task is a safety task (Table 2-4)? -/
def State.mayDrive (s : State) (t : Nat) : Bool := s.isLead && (s.mode ≠ 2 || s.isSafety t)

/-- The plant side of a commit (R36, R290, R298, R321, R383): frames at once, stamped with the commit time, or with OUTMODE = 1 with the next
release tick, at which the on-module outputs follow. The next release of a task in catch-up is the one owed (R38); a task without a grid knows no next
release, and its outputs go at once (DESIGN CHOICE, log entry 68). -/
def State.driveCommit (s : State) (i : CommitInfo) (csn : Nat) (arb : List (Fin 8 × Nat)) : State :=
  let t := i.task
  if !s.mayDrive t then s
  else
    let next := ((s.taskRt t).owed.map Prod.snd).getD (i.grid + s.getF SCH_TASKCFG_PERIOD t)
    let later := s.flag SCH_TASKCFG_OUTMODE t && i.flags &&& 4 = 0 && s.kind t = 0 && decide (next > s.tick)
    let s := if later then s.modTask t (fun x => { x with outDue := true }) else (s.driveOwn t).modTask t (fun x => { x with outDue := false })
    let s := s.outputFrames t csn (if later then next * 62500 else s.now) s.driveVal
    let s := s.peerFrames t csn
    let s := if s.mode = 0 && i.flags &&& 4 = 0 then s else s.fslCommit t i.grid csn i.writes s.driveVal
    s.canCommit t s.driveVal arb

/-! ### The commit -/

/-- The records a cycle's effects give (R83, R407): kind, subject, object, data. -/
def fxEvents (task : Nat) (fx : List CommitFx) : List (Nat × Nat × Nat × List Byte) :=
  fx.filterMap (fun f =>
    match f with
    | .diag c pc => some (0x0104, 0, 0, words [0, c, task, pc])
    | .object k o d => some (0x0104, k, o, d)
    | .setev _ => none)

/-- The cycle packet of a commit, if the engines that build and send it may read what it carries; RECORD holds its record and, after it, its COMMITX records. -/
def State.cyclePacket (s : State) (i : CommitInfo) (csn ohash chash : Nat) (carry old : Ovl) (rcds : List ArcRec) (audit : Bool) : State :=
  if !s.hasFollower then s
  else s.byEngines pairMasters .rd (i.input.map (fun n => (s.inSlot i.task n, 8)) ++ (runsOf carry).map (fun r => (r.1, r.2.length))) (fun s =>
    let t := i.task
    let k := tabGet 0 s.pair.imgSent t
    let full := k % 16 = 0
    let ins := if full then i.input else i.input.filter (fun n => s.inChanged t old n)
    let setup := s.takeSetup.1
    let s := s.takeSetup.2
    let hostw := i.batches.flatMap (fun b => words ([b.sess, b.cid, b.reqid, b.writes.length] ++ b.writes.flatMap (fun w => [w.1, w.2.length, leNat w.2])))
    let suppl := if audit then
        (((s.taskDef? t).map TaskDef.suppl).getD []).flatMap (fun r =>
          runBytes (r.1, memRdL ((s.snapAt? i.baseCsn).map Snap.mem |>.getD s.sq.mem) r.1 r.2))
      else []
    let seat := (s.outSigs t).filter (fun g => atSeat g (!s.seatB) && i.wrote.contains g.no)
    let units := s.sq.poison.filter (fun u => carry.any (fun p => unitOf p.1 = u))
    let sects := [pktSection 0x01 (ins.flatMap (fun n => s.inEntry t n))] ++
      (if carry.isEmpty then [] else [pktSection 0x02 (carryBody carry)]) ++
      (if i.batches.isEmpty then [] else [pktSection 0x03 hostw]) ++ setup ++
      (if audit then [pktSection 0x05 suppl] else []) ++
      (if seat.isEmpty then [] else [pktSection 0x06 (seat.flatMap (fun g => words [g.no, s.driveVal g.no]))]) ++
      [pktSection 0x07 (rcds.flatMap ArcRec.bytes)] ++ (if units.isEmpty then [] else [pktSection 0x08 (words units)])
    let flags := i.flags + b2n audit + 8 * b2n (!units.isEmpty)
    let s : State := { s with pair := { s.pair with imgSent := tabSet s.pair.imgSent t (k + 1) } }
    let s : State := s.sendPacket 0x01 flags t csn i.baseCsn i.rel ohash chash sects
    let std := i.cycle && s.fastest = some t
    let s : State := if std then { s with pair := { s.pair with gSent := max s.pair.gSent i.grid } } else s
    if s.getF PAR_STAT_STATE = 6 then
      { s with pair := { s.pair with sent := s.pair.sent ++ [⟨csn, if std then i.grid else i.rel, std, false⟩] } }
    else s)

/-- The CSN of the next commit: the one after the newest, or the one a takeover fixed (R213). -/
def State.commitCsn (s : State) : Nat := s.pair.nextCsn.getD (s.sq.csn + 1)

/-- XCPPEND cleared in a new Lead's first commit (R501), under the bits that the commit itself sets. -/
def State.pendClear (s : State) (w : Ovl) : Ovl :=
  if s.pair.firstCommit then match s.sysAddr .xcpPend false 0 with
    | some a => ovlLay (ovlWrL [] a (List.replicate 32 0)) w
    | none => w
  else w

/-- What a commit does once its pages have flipped: the history, the Arcade record (with the host's STAMP of each applied request, log entry 88) and the
delta block; the cycle packet; the plant; activations and records of the cycle; the retained values; the hand-over to CAN queues and safety functions; and
the Roundabout. `old` is the task's image as its last commit left it. -/
def State.commitTail (s : State) (i : CommitInfo) (csn : Nat) (old : Ovl) (arb : List (Fin 8 × Nat)) : State :=
  let carry := i.writes.filter (fun p => s.carried p.1)
  let chash := crc64 (carryBody carry)
  let ohash := crc64 ((isort (fun a b => decide (a < b)) i.wrote).flatMap (fun n =>
    memRdL s.sq.mem (s.outSlot i.task n) 8 ++ [memRd s.sq.mem (s.outStat i.task n)]))
  let audit := s.audited i
  let samples := (s.histTake i.task i.cycle i.writes (i.rel * 62500)).1
  let s : State := (s.histTake i.task i.cycle i.writes (i.rel * 62500)).2
  let stamps := i.batches.map (fun b => (0x0104, 0, 0, words [4, b.sess, b.reqid, b.stamp]))
  let events := fxEvents i.task i.fx ++ i.events ++ stamps
  let body : CommitBody :=
    { flags := i.flags + b2n audit, baseCsn := i.baseCsn, tick := i.rel, ohash := ohash, chash := chash,
      hostw := i.batches.map (fun b => (b.cid, b.reqid, b.sess)), events := events, samples := samples }
  let seq0 := s.arc.cyc.length
  let s : State := s.arcCommit csn (i.rel * 62500) i.recTask body
  let s : State := events.foldl (fun s e => s.event e.1 i.recTask e.2.2.2) s
  let s : State := if s.isLead then
      let l := s.arc.near ++ [s.nearBlock i csn old]
      { s with arc := { s.arc with near := nearFit (s.getF ARC_NEARCFG_GIB * 2 ^ 30) l.length l } }
    else s
  let ret := i.writes.filter (fun p => s.retained p.1)
  let s : State := if ret.isEmpty then s else { s with arc := { s.arc with retStaged := s.arc.retStaged ++ [(csn, ret)] } }
  let s : State := s.cyclePacket i csn ohash chash carry old (s.arc.cyc.drop seq0) audit
  let s : State := if i.cycle then s.driveCommit i csn arb else s
  let s : State := i.fx.foldl (fun s f => match f with | .setev t => s.ask t s.now .activate none | _ => s) s
  let s : State := s.canHandOver csn i.writes
  let s : State := if i.cycle then s.fnCommit i.task else s
  let ids := i.batches.map (fun b => (b.cid, b.reqid))
  let s : State := { s with host := { s.host with batches := s.host.batches.map (fun (b : Batch) => if i.batches.any (fun x => x.id = b.id) then { b with csn := some csn } else b) } }
  let s : State := s.identify ids csn
  let s : State := match s.sq.snaps.head? with | some p => s.subsCommit i.task i.rel p | none => s
  let s : State := if s.getF PAR_STAT_STATE = 7 then s.setAck csn else s
  s.hostAdvance

/-- A commit (R172, R173): its pages flip under its number, and what follows from it is done. -/
def State.commitCore (s : State) (i : CommitInfo) (arb : List (Fin 8 × Nat)) : State :=
  let csn := s.commitCsn
  let i := { i with writes := s.pendClear i.writes }
  let old := (s.taskRt i.task).lastImg
  let s : State := { s with pair := { s.pair with nextCsn := none, firstCommit := false } }
  ((s.flip csn i.writes i.from_).dualWrite i.writes).commitTail i csn old arb

end Sys2Proof.Machine
end

