-- ==== Sys2Proof/Machine/Lanes.lean ====
section
/-! DEFINITION. Lanes (R8, R150 to R162): roles, quarantine, retirement, reserve lanes, parked quarters and lane shortage. -/
namespace Sys2Proof.Machine

/-- The quarter of a lane (R8). -/
def laneQuarter (n : Nat) : Nat := n / 16
/-- XNG_LANESTAT.ROLE: 0 assignable, 1 reserve, 2 quarantined, 3 retired. -/
def State.laneRole (s : State) (n : Nat) : Nat := s.getF XNG_LANESTAT_ROLE n
/-- The lanes of a quarter. -/
def quarterLanes (q : Nat) : List Nat := (List.range 16).map (fun i => q * 16 + i)
/-- Is a quarter parked (R155)? -/
def State.qParked (s : State) (q : Nat) : Bool := bitOf (s.getF XNG_STAT_QPARKED) q
/-- Lanes of given numbers in a role. -/
def State.inRole (s : State) (l : List Nat) (role : Nat) : List Nat := l.filter (fun n => s.laneRole n = role)

/-- Does a lane count as assignable: in that role, quarantined out of it (R153), or about to take it (R156)? -/
def State.counted (s : State) (n : Nat) : Bool := s.laneRole n = 0 || (s.laneRole n = 2 && !(s.laneRt n).reserve) || (s.laneRt n).promote

/-- Assignable lanes of a quarter, quarantined ones among them (R153); none of a parked quarter (R157). -/
def State.assignable (s : State) (q : Nat) : Nat := if s.qParked q then 0 else ((quarterLanes q).filter s.counted).length

/-- XNG_STAT's counts: a quarantined lane counts in the role it came from. -/
def State.laneCounts (s : State) : State :=
  let all := List.range 96
  let held (b : Bool) : Nat := ((s.inRole all 2).filter (fun n => (s.laneRt n).reserve == b)).length
  ((s.setF XNG_STAT_RETIRED (s.inRole all 3).length).setF XNG_STAT_ASSIGN ((s.inRole all 0).length + held false)).setF
    XNG_STAT_RESERVE ((s.inRole all 1).length + held true)

/-- Does a task have fewer assignable lanes in its quarter than it needs? -/
def State.taskShort (s : State) (t : Nat) : Bool :=
  decide (s.assignable (s.getF SCH_TASKPHASE_QUARTER t) < s.getF SCH_TASKPHASE_LANES t)

/-- R157: LANESHORT follows the condition; while it holds on a Lead whose partner is a Follower without a shortage, the module requests an orderly
switch-over, unless one is scheduled. -/
def State.laneShortage (s : State) : State :=
  let s := s.laneCounts
  let short := s.cfg.tasks.any (fun d => s.taskShort d.no.val)
  let s := s.setB XNG_STAT_LANESHORT short
  if short && s.pair.switchAt.isNone && s.isLead && s.pair.partner.any (fun h => (h.state = 3 || h.state = 4) && !h.laneShort) then s.switchRequest.2 else s

/-- The stream as it restarts (R96, R101 to R104): from its branch where it stands in a slot. -/
def StreamRt.restart (st : StreamRt) : StreamRt :=
  match st.br with
  | some b => { st with pc := b.addr, br := none, flying := false }
  | none => { st with flying := false }

/-- Is a stream between a branch and its slot, or inside a MODESET shadow? -/
def StreamRt.inside (st : StreamRt) : Bool := st.br.isSome || st.sh.isSome

/-- All streams stop together (R30, R100): one inside a slot or a shadow keeps its lane until it has left it, and its next instruction may be a live
read in flight (R96). -/
def stopStreams (l : List StreamRt) : List StreamRt :=
  l.map (fun y => if y.inside && y.st = .go then { y with flying := true } else { y with lane := none })

/-- Take a lane away from every stream that holds it: the streams of that execution stop together, as at a pre-emption, and wait for lanes (R30, R96,
R162). -/
def State.freeLane (s : State) (n : Nat) : State :=
  { s with sched := { s.sched with runs := s.sched.runs.map (fun p =>
      if p.2.streams.any (fun x => x.lane = some n) then
        (p.1, { p.2 with st := if p.2.st = .on then .ready else p.2.st, streams := stopStreams p.2.streams })
      else p) } }

/-- The reserve lane that becomes assignable for a lane retired in a quarter: one of the same quarter, else of the quarter with most reserve
lanes, the lowest-numbered at a tie (R156). Of two
reserve lanes of a quarter it is the lowest-numbered one (DESIGN CHOICE, log entry 73). -/
def State.reserveFor (s : State) (q : Nat) : Option Nat :=
  let free (q : Nat) : List Nat := (quarterLanes q).filter (fun n => s.laneRole n = 1 && !(s.laneRt n).promote)
  match (free q).head? with
  | some n => some n
  | none =>
    let best := (List.range 6).foldl (fun b k => if (free k).length > (free b).length then k else b) 0
    (free best).head?

/-- Retire a lane (R154): for good, with its bit in the retired-lane map; a reserve lane follows it where min(88, healthy lanes) needs one. -/
def State.retireLane (s : State) (n : Nat) : State :=
  if s.laneRole n = 3 then s
  else
    let s := ((s.freeLane n).setF XNG_LANESTAT_ROLE 3 n).setF XNG_LANESTAT_INTEST 0 n
    let s := s.modLane n (fun l => { l with testing := false, cmdTest := false, full := false, subst := false, comparator := false, promote := false })
    let f := if n < 32 then XNG_RETMAP0_MAP else if n < 64 then XNG_RETMAP1_MAP else XNG_RETMAP2_MAP
    let v := s.getF f
    let s := s.setF f (if bitOf v (n % 32) then v else v + 2 ^ (n % 32))
    let s := s.evHw 8 [n]
    let healthy := 96 - (s.inRole (List.range 96) 3).length
    let have_ := ((List.range 96).filter s.counted).length
    let s := if have_ < min 88 healthy then
        match s.reserveFor (laneQuarter n) with
        | some k => s.modLane k (fun l => { l with promote := true })
        | none => s
      else s
    s.laneShortage

/-- Transient faults of a lane within the last 720 h (R153). -/
def State.transients (s : State) (n : Nat) : List Nat := (s.laneRt n).faults.filter (fun t => decide (s.now < t + 2592000000000000))

/-- A lane enters quarantine: it leaves dispatch, and keeps in mind whether it returns to the reserve (R153, R156). -/
def State.quarantine (s : State) (n : Nat) : State :=
  let back := s.laneRole n = 1 && !(s.laneRt n).promote || s.laneRole n = 2 && (s.laneRt n).reserve
  ((s.freeLane n).setF XNG_LANESTAT_ROLE 2 n).modLane n (fun l =>
    { l with testing := false, cmdTest := false, full := false, subst := false, reserve := back, promote := false })

/-- Withdraw a lane after a fault: quarantine with the full self-test, or retirement at once at the RETN-th fault (R153). -/
def State.withdraw (s : State) (n : Nat) (comparator : Bool) : State :=
  if s.laneRole n = 3 then s
  else if (s.transients n).length + 1 ≥ s.getF XNG_CTL_RETN then s.retireLane n
  else
    let s := (s.quarantine n).setF XNG_LANESTAT_INTEST 1 n
    (s.modLane n (fun l => { l with testing := true, comparator := comparator })).laneCounts

/-- Park a quarter once three of its lanes have faulted within 1 s (R155): its lanes are quarantined, not retired, and lost to its tasks, and
the Kerb no longer watches it. -/
def State.parkQuarter (s : State) (q : Nat) : State :=
  let l := (quarterLanes q).filter (fun n => match (s.laneRt n).lastFault with | some t => decide (s.now ≤ t + 1000000000) | none => false)
  if l.length < 3 || s.qParked q then s
  else
    let s := s.setF XNG_STAT_QPARKED (s.getF XNG_STAT_QPARKED + 2 ^ q)
    let s := (quarterLanes q).foldl (fun s n =>
      if s.laneRole n = 3 then s
      else (s.quarantine n).setF XNG_LANESTAT_INTEST 0 n) s
    let s := s.setF KRB_HBCFG_WATCHED (s.getF KRB_HBCFG_WATCHED &&& (255 - 2 ^ q))
    (s.evHw 8 [0x100 + q]).laneShortage

/-- A lane fault (R150, R153, R155, R159): latched, recorded and reported, and the lane withdrawn. -/
def State.laneFault (s : State) (n item task stream pc : Nat) (spec audit inj : Bool) : State :=
  let s := s.bump XNG_FLTCNT_LFCNT
  let s := (((s.setF XNG_LASTFLT_LANE n).setF XNG_LASTFLT_ITEM item).setF XNG_LASTFLT_TASK task).setF XNG_LASTFLT_STREAM stream
  let s := (((s.setB XNG_LASTFLT_SPEC spec).setB XNG_LASTFLT_AUDIT audit).setB XNG_LASTFLT_INJ inj).setF XNG_LASTFLT_VALID 1
  let s := s.setF XNG_LASTPC_PC pc
  let s := (s.evHw 6 [n, task, stream, pc, item]).report 0x0002 n s.now 3 n
  let s := s.modLane n (fun l => { l with lastFault := some s.now })
  (s.withdraw n inj).parkQuarter (laneQuarter n)

/-- Is a quarter parked in P2, or not yet awake (R469, R470)? -/
def State.qAsleep (s : State) (q : Nat) : Bool := s.kerb.p2.any (fun p => p.1 = q)

/-- May a stream be dispatched on a lane: assignable, or a reserve lane in the place of a quarantined one, in no test, awake and idle (R29,
R153)? -/
def State.laneFree (s : State) (n : Nat) : Bool :=
  (s.laneRole n = 0 || (s.laneRole n = 1 && (s.laneRt n).subst)) && !s.flag XNG_LANESTAT_INTEST n && !(s.laneRt n).testing &&
  !(s.laneRt n).cmdTest && !s.qParked (laneQuarter n) && !s.qAsleep (laneQuarter n) &&
  !s.sched.runs.any (fun p => p.2.streams.any (fun x => x.lane = some n))

/-- Does a stream stand on a lane? -/
def State.laneHeld (s : State) (n : Nat) : Bool := s.sched.runs.any (fun p => p.2.streams.any (fun x => x.lane = some n))

/-- The full self-test that a TEST command has asked for starts once no stream and no self-test step holds the lane (R162). -/
def State.fullStart (s : State) (n : Nat) : State :=
  if (s.laneRt n).cmdTest && !(s.laneRt n).full && !s.laneHeld n && !s.flag XNG_LANESTAT_INTEST n then
    (s.setF XNG_LANESTAT_INTEST 1 n).modLane n (fun l => { l with full := true })
  else s

/-- At a base tick: reserve lanes follow retired lanes, and stand in for quarantined ones of their quarter (R153, R156); tests by command start
on lanes that have come free (R162). -/
def State.lanesTick (s : State) : State :=
  let s := (List.range 96).foldl (fun s n =>
    if (s.laneRt n).promote && !s.flag XNG_LANESTAT_INTEST n then
      (s.setF XNG_LANESTAT_ROLE 0 n).modLane n (fun l => { l with promote := false, subst := false })
    else s) s
  let s := (List.range 6).foldl (fun s q =>
    if s.qParked q then s
    else
      let k := ((s.inRole (quarterLanes q) 2).filter (fun n => !(s.laneRt n).reserve)).length
      let r := s.inRole (quarterLanes q) 1
      let on := (r.filter (fun n => (s.laneRt n).subst || !s.flag XNG_LANESTAT_INTEST n)).take k
      r.foldl (fun s n => s.modLane n (fun l => { l with subst := on.contains n })) s) s
  let s := (List.range 96).foldl State.fullStart s
  s.laneCounts

end Sys2Proof.Machine
end

