-- ==== Sys2Proof/Machine/Shadow.lean ====
section
/-! DEFINITION. The shadow copy of a stream (06, R141 to R145): the transformed forms and their domain tags, the operations of Table 6-1, and the items
of Table 6-2 that an instruction produces. -/
namespace Sys2Proof.Machine

/-! ### Transformed forms (R143) -/

/-- A value in transformed form; the same operation decodes it. -/
def Dom.enc (d : Dom) (x : W64) : W64 :=
  match d with
  | .compl => ~~~x
  | .f32 => x ^^^ 0xFFFFFFFF80000000
  | .f64 => x ^^^ 0x8000000000000000

/-- The domain of a type. -/
def domOf (ty : Nat) : Dom := if ty = 9 then .f32 else if ty = 10 then .f64 else .compl

/-- The shadow of a stream's registers under given domain tags. By R144 it is the transform of the primary's registers, exactly. -/
def StreamRt.shadowOf (st : StreamRt) (da db : Dom) (dw : List Dom) : Shad :=
  { la := !st.la, wa := da.enc st.wa, wb := db.enc st.wb, w := List.zipWith Dom.enc dw st.w,
    ns := st.ns.map (fun e => { e with la := !e.la }), fl := ~~~st.fl, da := da, db := db, dw := dw }

/-- The shadow of a stream at the start of a cycle, every register in the domain of integers (log entry 67). -/
def StreamRt.shadowed (st : StreamRt) : StreamRt := { st with shad := st.shadowOf .compl .compl (List.replicate 16 .compl) }

/-- A shadow of nothing, for a stream that is being built. -/
def Shad.none : Shad := ⟨true, 0, 0, [], [], 0, .compl, .compl, []⟩

/-- The tags of WA, WB and W0 to W15 after an instruction: the domain of the type of the instruction that wrote each register. -/
def FlxW.tags (i : FlxW) (st : StreamRt) : Dom × Dom × List Dom :=
  let a := st.shad.da
  let b := st.shad.db
  let w := st.shad.dw
  let d := domOf i.ty
  match i.row with
  | none => (a, b, w)
  | some r =>
    match r with
    | .ldw | .addw | .subw | .andw | .orw | .xorw | .minw | .maxw | .limit | .shl | .shr | .rol | .ror | .tbl | .lin | .ldlive | .ldliveh => (d, b, w)
    | .mulw | .divw => (d, if tyFloat i.ty then b else .compl, w)
    | .selw => (if st.la then d else a, b, w)
    | .ldwb => (a, d, w)
    | .stw | .stwb => (a, b, if i.am = 4 then w.set i.n d else w)
    | .lea | .lstat | .ldfl | .timew | .stbit | .ton | .tof | .tp | .ctu | .ctd => (.compl, b, w)
    | .ctud => (.compl, .compl, w)
    | .notw | .negw | .absw | .sqrt => (domOf (bits i.arg 0 4), b, w)
    | .cvt => (domOf (bits i.arg 4 4), b, w)
    | .xab => (b, a, w)
    | .movab => (a, a, w)
    | .movba => (b, b, w)
    | .call => (a, b, w.set 15 .compl)
    | _ => (a, b, w)

/-! ### What the shadow computes (Table 6-1) -/

/-- ADD: ~a + ~b + 1. -/
def shadowAdd (a b : W64) : W64 := a + b + 1
/-- SUB: ~a − ~b − 1. -/
def shadowSub (a b : W64) : W64 := a - b - 1
/-- ANDW: ~a OR ~b. -/
def shadowAnd (a b : W64) : W64 := a ||| b
/-- ORW: ~a AND ~b. -/
def shadowOr (a b : W64) : W64 := a &&& b
/-- XORW: ~a XNOR ~b. -/
def shadowXor (a b : W64) : W64 := ~~~(a ^^^ b)
/-- NOT: ~a itself, taken as the true result, which stands transformed. -/
def shadowNot (a : W64) : W64 := ~~~a
/-- NEG: −~a − 2. -/
def shadowNeg (a : W64) : W64 := -a - 2
/-- SHL by k: ones are shifted in. -/
def shadowShl (a : W64) (k : Nat) : W64 := ~~~(~~~a <<< k)
/-- Logical SHR by k: ones are shifted in. -/
def shadowShr (a : W64) (k : Nat) : W64 := ~~~(~~~a >>> k)
/-- Arithmetic SHR by k: the shadow sign bit is replicated. -/
def shadowSar (a : W64) (k : Nat) : W64 := a.sshiftRight k
/-- ROL. -/
def shadowRol (a : W64) (k : Nat) : W64 := a.rotateLeft k
/-- Unsigned compares: the relation reversed. -/
def shadowUlt (a b : W64) : Bool := BitVec.ult b a
/-- Signed compares: the relation reversed. -/
def shadowSlt (a b : W64) : Bool := BitVec.slt b a
/-- MUL: NOT((~a + 1) × (~b + 1)). -/
def shadowMul (a b : W64) : W64 := ~~~((a + 1) * (b + 1))
/-- Unsigned MIN: the greater of the transformed values. -/
def shadowMin (a b : W64) : W64 := if BitVec.ult a b then b else a
/-- The rounding mode of the shadow's floating-point units: toward +∞ and toward −∞ are exchanged (R144). -/
def shadowRnd (rnd : Nat) : Nat := if rnd = 2 then 3 else if rnd = 3 then 2 else rnd

/-- Floating ADD on −a and −b, rounded the mirrored way; an exact zero of operands that cancel takes the sign that the primary's mode gives,
inverted (R144). -/
def shadowFadd (f : FpFmt) (rnd a b : Nat) : Nat :=
  let r := (f.add (shadowRnd rnd) a b).bits
  if r % 2 ^ (f.width - 1) = 0 && bitOf a (f.width - 1) != bitOf b (f.width - 1) then f.signBit (rnd ≠ 3)
  else if r = f.defNan then f.flip r else r
/-- Floating SUB. -/
def shadowFsub (f : FpFmt) (rnd a b : Nat) : Nat := shadowFadd f rnd a (f.flip b)
/-- Floating MUL: the product of −a and −b with the sign of the result inverted. -/
def shadowFmul (f : FpFmt) (rnd a b : Nat) : Nat := f.flip (f.mul rnd a b).bits
/-- Floating DIV. -/
def shadowFdiv (f : FpFmt) (rnd a b : Nat) : Nat := f.flip (f.div rnd a b).bits

/-! ### Items (R145, Table 6-2) -/

/-- The items an instruction produces that the Crossing compares, but for the value of a live read: the exception, or none, always; at LAST of a level, in
a shadow and in a slot the loop levels, MODE and the call depth too. -/
def FlxW.items (i : FlxW) (st : StreamRt) : List Nat :=
  let ctl := if st.br.isSome || st.sh.isSome || st.lvs.any (fun l => l.last = st.pc + i.size - 4) then [5] else []
  [9] ++ ctl ++ match i.row with
    | none => []
    | some r =>
      match r with
      | .ldw | .ldwb | .lea | .selw | .lstat | .stbit | .xab | .movab | .movba | .ldfl | .timew => [1]
      | .addw | .subw | .mulw | .divw | .andw | .orw | .xorw | .minw | .maxw | .limit | .shl | .shr | .rol | .ror | .tbl | .lin
      | .notw | .negw | .absw | .cvt | .sqrt => [1, 4]
      | .ceq | .cne | .cgt | .cge | .clt | .cle => [2, 4]
      | .stw | .stwb => if i.am = 4 then [1] else [6, 7]
      | .logLd | .logAnd | .logOr | .logXor | .notl | .setl | .clrl | .ldbit => [2]
      | .logSt | .logS | .logR | .movb | .crst | .cload => [6, 7]
      | .logpAnd | .logpOr | .logpXor | .popl => [2, 3]
      | .ton | .tof | .tp | .ctu | .ctd | .ctud => [1, 2, 6, 7]
      | .edgp | .edgn => [2, 6, 7]
      | .ldlive | .ldliveh => [1, 6]
      | .clrf => [4]
      | .modeset | .loop | .loopw | .endS => [5]
      | .jmp => [5, 8]
      | .call => [1, 5, 8]
      | .ret => [5, 8]
      | .nop | .setev | .diag | .sync | .trap => []

/-- Do the two copies of an instruction disagree over an item that it produces (R145, R146)? The environment names the item a fault touches; a fault in what
the instruction does not produce is met by no comparison of it. -/
def mismatch (item : Option (Fin 16)) (produced : List Nat) : Option Nat :=
  match item with
  | some n => if produced.contains n.val then some n.val else none
  | none => none

end Sys2Proof.Machine
end

