-- ==== Sys2Proof/Machine/Cycle.lean ====
section
/-! DEFINITION. Capture, release and the end of a cycle (02, R25 to R41, R47, R48, R50; 09 R228 to R230). -/
namespace Sys2Proof.Machine

/-! ### Capture (R31, R32, R50) -/

/-- A universal channel's signal (Table 13-1, R355): 0 and BAD while off, the substitute and BAD while unhealthy. -/
def State.dioSignal (s : State) (n v : Nat) (sub : Nat) : Nat × Nat :=
  if s.getF DIO_CHCFG_MODE n = 0 then (0, 3) else if s.flag DIO_CHSTAT_UNHEALTHY n then (sub, 3) else (v, 0)

/-- What a function supplies (R328, R329, R336, R337): RES of a pair; the value of the path that carries a dual path. -/
def State.fnPath (s : State) (f : FnDef) : Nat := if s.getF SFY_FNSTAT_STATE f.no.val = 1 && !s.flag SFY_FNSTAT_CHBAD f.no.val then f.b else f.a

/-- Signals of the partner's seat: from the latest SEATSAMPLE, or SUBSTITUTE once none has come for 4 base ticks (R201); a safety signal
inside its seat connection (R318). -/
def State.seatSignal (s : State) (g : SigDef) : Nat × Nat :=
  match s.cfg.conns.find? (fun c => c.far = .seat && c.ins.contains g.no) with
  | some c => s.connSignal c.no.val g
  | none => if s.tick ≥ s.io.seatAt + 4 then (g.sub, 1) else tabGet (g.sub, 1) s.io.inbox g.no

/-- A signal's source at its own seat. -/
def State.ownSignal (s : State) (src : SigSrc) (g : SigDef) (grid : Nat) : Nat × Nat :=
  match src with
  | .dio _ ch => s.dioSignal ch.val (s.getF DIO_CHSTAT_VALUE ch.val) g.sub
  | .count _ ch => s.dioSignal ch.val (s.dioCh ch.val).count g.sub
  | .ai _ ch => s.aiSignal ch.val
  | .ao _ ch => ((s.aoCh ch.val).val, if s.aoSick ch.val then 3 else 0)
  | .aoStatus _ ch => (s.getF AIO_AOSTAT_OPENLP (ch.val + 16) + 2 * s.getF AIO_AOSTAT_COMPL (ch.val + 16), if s.aoSick ch.val then 3 else 0)
  | .hart _ dev var => s.hartSignal dev var g.sub
  | .can _ p m => s.canSignal p.val m g.no g.sub
  | .station sta _ => s.staSignal sta.val grid g
  | .fsl c _ => s.connSignal c.val g
  | .peer set _ => s.peerSignal set g
  | .fn _ => (g.sub, 3)

/-- The seat of a source, if it stands at a seat. -/
def srcSeat : SigSrc → Option Bool
  | .dio b _ => some b
  | .count b _ => some b
  | .ai b _ => some b
  | .ao b _ => some b
  | .aoStatus b _ => some b
  | .hart b _ _ => some b
  | .can b _ _ => some b
  | _ => none

/-- The value and status of a signal before forces. -/
def State.sigNow (s : State) (g : SigDef) (grid : Nat) : Nat × Nat :=
  if s.cfg.fns.any (fun f => s.getF SFY_FNSTAT_STATE f.no.val = 2 && f.ins.contains g.no) then (g.sub, 1)
  else match g.src with
    | .fn n =>
      (match s.fnDef? n.val with
       | none => (g.sub, 3)
       | some f =>
         if f.seat ≠ s.seatB && f.kind ≠ 3 then s.seatSignal g
         else match f.kind.toNat with
           | 0 => (b2n (s.fnRt n.val).res, if s.flag SFY_FNSTAT_DISC n.val then 3 else 0)
           | 2 => s.aiSignal (s.fnPath f)
           | 3 => s.connSignal (s.fnPath f) g
           | _ => (g.sub, 3))
    | src => if (srcSeat src).any (fun b => b != s.seatB) then s.seatSignal g else s.ownSignal src g grid

/-- The raw value of a signal at a boundary: a poisoned source unit gives BAD with the value of the last capture (R167). -/
def State.rawSig (s : State) (t : Nat) (g : SigDef) (grid : Nat) : Nat × Nat :=
  let poisoned := match g.src with
    | .station sta _ => (s.sysAddr .station s.seatB sta.val).any (fun a => s.sq.bad a (sigBytes (s.stationSigs sta.val false)))
    | _ => false
  if poisoned then (leNat ((List.range 8).map (fun k => tabGet 0 (s.taskRt t).lastImg (s.inSlot t g.no + k))), 3) else s.sigNow g grid

/-- The held value of a signal after a boundary with a raw value (R119). -/
def heldVal (g : SigDef) (old : Option (Nat × Nat)) (raw : Nat × Nat) : Nat × Nat :=
  match old with
  | none => raw
  | some h => if g.db = 0 || raw.2 ≠ h.2 || beyond g.ty.toNat g.db raw.1 h.1 then raw else h

/-- A signal captured at the present tick, once for all tasks released at it (R31): the held value, or the force that replaces it (R50). -/
def State.capture1 (s : State) (t : Nat) (g : SigDef) (grid : Nat) : (Nat × Nat) × State :=
  match tabGet? s.sched.caps g.no with
  | some v => (v, s)
  | none =>
    let h := heldVal g (tabGet? s.sched.held g.no) (s.rawSig t g grid)
    let v := match tabGet? s.sched.forces g.no with | some f => (f.1.toNat, 4) | none => h
    (v, { s with sched := { s.sched with held := if g.db = 0 then s.sched.held else tabSet s.sched.held g.no h,
                                         caps := tabSet s.sched.caps g.no v } })

/-- What the image mover's read of a signal's source in the Square finds: a station's receive area (R166, R167). -/
def State.captureMeet (s : State) (t : Nat) (g : SigDef) : State :=
  match g.src with
  | .station sta _ =>
    (match s.sysAddr .station s.seatB sta.val with
     | some a => s.meet a (sigBytes (s.stationSigs sta.val false)) s.sq.csn
     | none => s)
  | _ => s

/-- The parts of a capture's descriptor (R31, R185): the slots and statuses it writes, and the receive areas it reads. -/
def State.captureRefused (s : State) (t : Nat) : Option (Nat × Bool) :=
  let l := (((s.taskDef? t).map TaskDef.inputs).getD []).filterMap (fun n => s.sig? n)
  let src := l.filterMap (fun g => match g.src with
    | .station sta _ => (s.sysAddr .station s.seatB sta.val).map (fun a => (a, sigBytes (s.stationSigs sta.val false)))
    | _ => none)
  match s.enginesRefuse [0x200] .rd src with
  | some r => some (r.1, false)
  | none => (s.enginesRefuse [0x200] .wr (l.flatMap (fun g => [(s.inSlot t g.no, 8), (s.inStat t g.no, 1)]))).map (fun r => (r.1, true))

/-- The input image of a task for a release that stands for a grid tick; a capture that the image mover's ACU refuses moves nothing. -/
def State.captureAll (s : State) (t grid : Nat) : Ovl × State :=
  match s.captureRefused t with
  | some r => ([], s.latchRefusal r.1 0x200 r.2)
  | none =>
  (((s.taskDef? t).map TaskDef.inputs).getD []).foldl (fun a n =>
    match a.2.sig? n with
    | none => a
    | some g =>
      let c := (a.2.captureMeet t g).capture1 t g grid
      (tabSet (ovlWrL a.1 (s.inSlot t n) (natLe 8 c.1.1)) (s.inStat t n) (BitVec.ofNat 8 c.1.2), c.2)) ([], s)

/-! ### Release (R25, R27, R33, R34, R228) -/

/-- A stream at the start of a cycle (Table 3-1), with its shadow. -/
def StreamRt.start (d : TaskDef) (k : Nat) : StreamRt :=
  StreamRt.shadowed
  { la := false, wa := 0, wb := 0, w := (List.replicate 16 0).set 14 (BitVec.ofNat 64 k), ns := [], fl := 0, mode := if d.safety then 8 else 0,
    pc := d.entries.getD k 0, lvs := [], depth := 0, br := none, sh := none, scr := [], own := [], lane := none, st := .go, shad := .none,
    flying := false }

/-- The batches a cycle carries: admitted for its task at least 2 µs before its release tick, in order of admission. -/
def State.batchesFor (s : State) (t : Nat) : List Batch :=
  s.host.batches.filter (fun b => b.task = t && b.csn.isNone && !b.alone && b.forces.isEmpty && decide (b.at_ + 2000 ≤ s.tick * 62500))

/-- The writes of batches, a later one winning (R229). -/
def batchWrites (l : List Batch) : Ovl := l.foldl (fun o b => b.writes.foldl (fun o w => ovlWrL o w.1 w.2) o) []

/-- A fresh execution of a task, against the state as it stands. -/
def State.newRun (s : State) (d : TaskDef) (ctx : Ctx) (grid rel : Nat) (img : Ovl) (bs : List Nat) : Run :=
  { task := d.no.val, ctx := ctx, st := .ready, grid := grid, rel := rel, dfr := decide (grid ≠ rel), started := false, baseCsn := s.sq.csn,
    base := s.sq.mem, basePoison := s.sq.poison, store := s.actStore, img := img, batches := bs, shared := [],
    streams := (List.range (s.getF SCH_TASKPHASE_LANES d.no.val)).map (fun k => StreamRt.start d k), fx := [], late := false, deliv := 0, rerun := false,
    acts := 0, xcp := none, reads := [], words := [], gens := [], abandoned := false, invalid := false, held := none, pages := [], latch := none }

/-- What a cycle released in the present base tick reads: the state as the tick found it (R33). -/
def State.atTick (s : State) (r : Run) : Run := { r with baseCsn := s.sq.tickCsn, base := s.sq.tickMem, basePoison := s.sq.tickPoison }

/-- At a release (R128, R132, R139): a complete run is compared, and a suspension counts down. -/
def State.specRelease (s : State) (t : Nat) : State :=
  let st := s.getF SPC_TASKSTAT_SSTATE t
  if st = 3 || st = 4 then s.specState t 5
  else if (s.taskRt t).susp > 0 then
    let n := (s.taskRt t).susp - 1
    (s.modTask t (fun x => { x with susp := n })).setF SPC_TASKSTAT_SUSPLEFT (sat 14 n) t
  else s

/-- A task is released at the present tick for a grid tick: due values take effect, outputs held for this tick are driven (R36), the image
is captured, and the cycle runs from now on. -/
def State.release (s : State) (t grid : Nat) (acts : Nat) : State :=
  match s.taskDef? t with
  | none => s
  | some d =>
    let s := s.applyRelease t
    let s := if (s.taskRt t).outDue && s.mayDrive t then (s.driveOwn t).modTask t (fun x => { x with outDue := false }) else s
    let c := s.captureAll t grid
    let img := c.1
    let s := c.2
    let s := s.cfg.fns.foldl (fun s f =>
      if f.owner.val = t && d.inputs.any (fun n => (s.sig? n).any (fun g => g.src = .fn f.no)) then s.fnCaptured f.no.val else s) s
    let bs := s.batchesFor t
    let r := { s.atTick (s.newRun d .real grid s.tick (ovlLay img (batchWrites bs)) (bs.map Batch.id)) with acts := acts }
    let s := s.modTask t (fun x => { x with lastG := grid, lastR := s.tick, released := true, lastOk := false, rels := x.rels + 1 })
    let s := ((s.putRun r).setF SCH_TASKSTAT_STATE 2 t).setF SCH_TASKSTAT_LATE 0 t
    s.specRelease t

/-- Has the latest cycle of a task ended before the present base tick (R37, R41)? -/
def State.endedBefore (s : State) (t : Nat) : Bool := (s.taskRt t).endTick ≠ some s.tick

/-- May tasks be released at all: the module leads, its Kerb set has not been made, no switch-over is due, and the mode releases the task
(Table 2-4, R47, R218)? A cyclic task waits for a tick at or after the takeover + 40 µs (R213). -/
def State.releases (s : State) (t : Nat) : Bool :=
  s.isLead && !s.flag PNE_CTL_KERBSTOP && (match s.pair.switchAt with | some k => decide (s.tick < k) | none => true) &&
  (s.kind t ≠ 0 || s.pair.tookAt = 0 || decide (s.tick * 62500 ≥ s.pair.tookAt + 40000)) &&
  (match s.mode with
   | 1 => s.sched.initDone || s.kind t = 3
   | 2 => s.isSafety t
   | _ => false)

/-! ### The end of a cycle (R37, R40, R109, R230) -/

/-- Batches that a cycle carried and did not commit are to be committed alone (R230). -/
def State.orphanBatches (s : State) (ids : List Nat) : State :=
  { s with host := { s.host with batches := s.host.batches.map (fun (b : Batch) =>
      if ids.contains b.id && b.csn.isNone then { b with alone := true } else b) } }

/-- Give the lanes of a cycle back. -/
def Run.freeLanes (r : Run) : Run := { r with streams := r.streams.map (fun x => { x with lane := none }) }

/-- The period a running cycle is judged by: the task's, or, of a cycle released before an activation, the one it had then (R242). -/
def State.periodOf (s : State) (r : Run) : Nat :=
  let p := s.getF SCH_TASKCFG_PERIOD r.task
  if r.store = s.actStore then p else (tabGet (p, 0) s.olc.oldGrid r.task).1

/-- At the end of a cycle that was released before an activation: a task whose grid has changed waits for its new grid, without catch-up, and a
task that the new program does not have is released no more (Table 9-6). -/
def State.endOld (s : State) (t : Nat) : State :=
  match s.run? .real t with
  | none => s
  | some r =>
    if r.store = s.actStore then s
    else
      let g := (s.getF SCH_TASKCFG_PERIOD t, s.getF SCH_TASKPHASE_PHASE t)
      let s := if tabGet g s.olc.oldGrid t = g then s else s.modTask t (fun x => { x with owed := none })
      if (s.taskDef? t).isSome then s else (s.modTask t (fun x => { x with stopping := true })).setF SCH_TASKCFG_SAFETY 0 t

/-- A cycle ends: the task waits for its next release, or is stopped if STOP came meanwhile (R45). After HOLD its next release is on its grid
(R47). -/
def State.endCycle (s : State) (t : Nat) (ok : Bool) : State :=
  let s := s.endOld t
  let x := s.taskRt t
  let s := s.delRun .real t
  let s := (s.setF SCH_TASKSTAT_LATE 0 t).setF SCH_TASKXCP_PEND 0 t
  let s := s.setF SCH_TASKSTAT_STATE (if x.stopping then 0 else 1) t
  s.modTask t (fun x => { x with stopping := false, lastOk := ok, owed := if x.stopping || x.heldOver then none else x.owed, heldOver := false,
                                 specBar := if ok then x.specBar - 1 else x.specBar, endTick := some s.tick })

/-- Cycle ends without commit (R109, R152): none of its writes become visible, and no CSN is used. -/
def State.abortCycle (s : State) (t : Nat) : State :=
  let s := s.leaveOld
  match s.run? .real t with
  | none => s
  | some r => (s.endCycle t false).orphanBatches r.batches

/-- The safe output image of a task as bytes: safe values of on-module and connection outputs, substitute values of station and peer outputs. -/
def State.safeImage (s : State) (t : Nat) : Ovl :=
  (s.outSigs t).foldl (fun o g =>
    let v := match g.src with | .station _ _ => g.sub | .peer _ _ => g.sub | _ => g.safeVal
    ovlWrL o (s.outSlot t g.no) (natLe 8 v)) []

/-- Commit a task's safe output image (R40), standing for the grid tick of the cycle it replaces. -/
def State.safeCommit (s : State) (t grid rel base : Nat) : State :=
  let i : CommitInfo :=
    { task := t, recTask := t, flags := 4, grid := grid, rel := rel, baseCsn := base, writes := s.safeImage t,
      wrote := (s.outSigs t).map SigDef.no, input := [], batches := [], fx := [], events := [], cycle := true, from_ := none }
  s.commitCore i []

/-- Removed or discarded activations count as skipped (R499). -/
def State.dropActs (s : State) (t : Nat) : State :=
  let n := (s.taskRt t).acts
  ((s.modTask t (fun x => { x with acts := 0 })).bump SCH_TASKCNT_SKIPCNT t n).setF SCH_TASKSTAT_PENDING 0 t

/-- The real cycle a task is in ends, and its host batches are orphaned. -/
def State.endReal (s : State) (t : Nat) : State :=
  match s.run? .real t with
  | some r => (s.endCycle t false).orphanBatches r.batches
  | none => s

/-- Watchdog stop (R40, R499): the cycle is aborted, the safe output image is committed, the task enters WDSTOP, and the error task is
released; the stop of the error task itself calls for no release of it (DESIGN CHOICE, log entry 70). -/
def State.wdStop (s : State) (t : Nat) : State :=
  let s := s.leaveOld
  let r := s.run? .real t
  let s := s.endReal t
  let g := match r with | some r => r.grid | none => s.tick
  let rel := match r with | some r => r.rel | none => s.tick
  let base := match r with | some r => r.baseCsn | none => s.sq.csn
  let s := s.safeCommit t g rel base
  let s := ((s.setF SCH_TASKSTAT_STATE 3 t).setF SCH_TASKSTAT_WDOG 1 t).setF SCH_TASKSTAT_CATCHUP 0 t
  let s := (s.setF SCH_TASKSTAT_LAGTICKS 0 t).modTask t (fun x => { x with owed := none, stopping := false })
  let s := if s.kind t = 1 || s.kind t = 2 then s.dropActs t else s
  if s.errorTask = some t then s else s.callErrorTask s.now

/-! ### Releases as they fall (R25, R38, R41, R44, R48, R157) -/

/-- A release, or the watchdog stop of a task whose quarter has too few lanes and for which no switch-over is due (R157). -/
def State.releaseOrStop (s : State) (t grid acts : Nat) : State :=
  if s.taskShort t && s.pair.switchAt.isNone then s.wdStop t else s.release t grid acts

/-- CYCLIC_RELEASE (R25): at a grid tick, a waiting cyclic task with no release owed. -/
def execCyclicRelease (task : TaskNo) (s : State) : Host.Outcome State Fault Refusal :=
  done (
    let t := task.val
    let x := s.taskRt t
    if s.releases t && s.kind t = 0 && s.getF SCH_TASKSTAT_STATE t = 1 && x.owed.isNone && s.gridFrom t s.tick = s.tick &&
       !(x.released && x.lastR = s.tick) && s.endedBefore t then
      ((s.releaseOrStop t s.tick 0).setF SCH_TASKSTAT_CATCHUP 0 t).setF SCH_TASKSTAT_LAGTICKS 0 t
    else s)

/-- ⌈3P/4⌉. -/
def threeQuarters (p : Nat) : Nat := (3 * p + 3) / 4

/-- DEFERRED_RELEASE (R38): the owed release takes place; the following one is owed in turn until a release falls on its own grid tick. -/
def execDeferredRelease (task : TaskNo) (s : State) : Host.Outcome State Fault Refusal :=
  done (
    let t := task.val
    let x := s.taskRt t
    match x.owed with
    | none => s
    | some (g, r) =>
      if s.releases t && s.kind t = 0 && s.getF SCH_TASKSTAT_STATE t = 1 && decide (s.tick ≥ r) && decide (s.tick ≥ g) &&
         !(x.released && x.lastR = s.tick) && s.endedBefore t then
        let p := s.getF SCH_TASKCFG_PERIOD t
        let lag := s.tick - g
        let s := s.releaseOrStop t g 0
        let s := s.modTask t (fun x => { x with owed := if lag = 0 then none else some (g + p, max (g + p) (s.tick + threeQuarters p)) })
        (s.setB SCH_TASKSTAT_CATCHUP (lag ≠ 0) t).setF SCH_TASKSTAT_LAGTICKS (sat 16 lag) t
      else s)

/-- A release of an event task or the error task with a pending activation, once MINSEP allows. -/
def State.eventRelease (s : State) (t : Nat) : State :=
  let x := s.taskRt t
  if s.releases t && (s.kind t = 1 || s.kind t = 2) && s.getF SCH_TASKSTAT_STATE t = 1 && decide (x.acts > 0) && s.endedBefore t &&
     (!x.released || decide (s.tick ≥ x.lastR + s.getF SCH_TASKCFG_PERIOD t)) then
    let n := x.acts
    let s := s.modTask t (fun x => { x with acts := 0 })
    ((s.releaseOrStop t s.tick n).setF SCH_TASKSTAT_PENDING 0 t).setF SCH_TASKEVT_ACTCNT (sat 16 n) t
  else s

/-- EVENT_RELEASE (R41, R44, R48). -/
def execEventRelease (task : TaskNo) (s : State) : Host.Outcome State Fault Refusal := done (s.eventRelease task.val)

/-! ### Late cycles (R37 to R39, R41) -/

/-- Do R37 to R39 apply to a task's running cycle: not to a non-safety cycle while HOLD lasts, nor to one that HOLD caught, which stays exempt
after the change to RUN until it ends (R47; DEDUCED, log entry 69)? -/
def State.watched (s : State) (t : Nat) : Bool :=
  s.isLead && (s.mode = 1 || (s.mode = 2 && s.isSafety t)) && !(s.taskRt t).heldOver

/-- The next grid tick after the one a cycle stands for; for an event task or the error task, its release tick plus MINSEP (R41). -/
def State.lateTick (s : State) (r : Run) : Nat := (if s.kind r.task = 0 then r.grid else r.rel) + s.periodOf r

/-- CYCLE_LATE (R37, R38). -/
def execCycleLate (task : TaskNo) (s : State) : Host.Outcome State Fault Refusal :=
  done (
    let t := task.val
    match s.run? .real t with
    | none => s
    | some r =>
      if s.watched t && !r.late && r.st ≠ .xcp && s.kind t ≠ 3 && decide (s.tick ≥ s.lateTick r) then
        let p := s.periodOf r
        let s := ((s.putRun { r with late := true }).setF SCH_TASKSTAT_LATE 1 t).bump SCH_TASKCNT_LATECNT t
        if s.kind t = 0 then s.modTask t (fun x => { x with owed := some (r.grid + p, if r.dfr then r.rel + threeQuarters p else r.grid + p) })
        else s
      else s)

/-- FURTHER_GRID_TICK_OVERRUN (R39, R41): skip or watchdog stop, by Table 2-3. -/
def execFurtherGridTickOverrun (task : TaskNo) (s : State) : Host.Outcome State Fault Refusal :=
  done (
    let t := task.val
    match s.run? .real t with
    | none => s
    | some r =>
      let p := s.periodOf r
      if !(s.watched t && r.late && r.st ≠ .xcp) then s
      else
        let stop := s.isSafety t || !s.flag SCH_MODE_PROFILE
        if s.kind t = 0 then
          match (s.taskRt t).owed with
          | none => s
          | some (g, q) =>
            if s.tick < g + p then s
            else if stop then s.wdStop t
            else
              let s := (s.modTask t (fun x => { x with owed := some (g + p, max q (g + p)) })).bump SCH_TASKCNT_SKIPCNT t
              s.report 0x0007 t s.now 2 t
        else if s.tick < r.rel + 2 * p then s
        else if stop then s.wdStop t
        else if (s.taskRt t).acts > 0 then (s.dropActs t).report 0x0007 t s.now 2 t
        else s)

/-! ### SCH_TASKCTL (R42, R498) and activations -/

/-- A command of SCH_TASKCTL is taken into the base tick; the scheduler judges it at the next one. On a module that follows it is ignored and
counted, and one that concerns a safety task needs SAFETY-EDIT (R57). -/
def State.taskCmd (s : State) (path : Path) (t : Nat) (a : TickAsk) : State :=
  let st := s.getF PAR_STAT_STATE
  if s.isSafety t && !s.safetyEdit then s.ignored path 0x30004 1
  else if st = 2 || st = 3 || st = 4 then s.ignored path 0x30004 3
  else s.ask t s.now a (some path)

/-- START (R498). -/
def execTaskStart (path : Path) (task : TaskNo) (s : State) : Host.Outcome State Fault Refusal := done (s.written path 0x30004 (fun s => s.taskCmd path task.val .start))
/-- STOP (R498). -/
def execTaskStop (path : Path) (task : TaskNo) (s : State) : Host.Outcome State Fault Refusal := done (s.written path 0x30004 (fun s => s.taskCmd path task.val .stop))
/-- ACTIVATE (R498). -/
def execTaskActivate (path : Path) (task : TaskNo) (s : State) : Host.Outcome State Fault Refusal := done (s.written path 0x30004 (fun s => s.taskCmd path task.val .activate))
/-- CANCEL (R498). -/
def execTaskCancel (path : Path) (task : TaskNo) (s : State) : Host.Outcome State Fault Refusal := done (s.written path 0x30004 (fun s => s.taskCmd path task.val .cancel))

/-- EVENT_ACTIVATION (R42): an activation with its stamp reaches the scheduler. -/
def execEventActivation (task : TaskNo) (stamp : Nat) (s : State) : Host.Outcome State Fault Refusal :=
  done (s.ask task.val stamp .activate none)

end Sys2Proof.Machine
end

