-- ==== Sys2Proof/Machine/Xcp.lean ====
section
/-! DEFINITION. Exceptions (04, R97 to R115, R501): the record, delivery, disposition; and the commit of a cycle. -/
namespace Sys2Proof.Machine

/-! ### The exception record (R101 to R105) -/

/-- Is the word at an address of a program store a prefix? -/
def State.isPrefixIn (s : State) (store pc : Nat) : Bool := bits (leNat (memRdL s.sq.code (storeBase store + pc) 4)) 26 6 = 0x3F
/-- The same of the active store. -/
def State.isPrefix (s : State) (pc : Nat) : Bool := s.isPrefixIn s.actStore pc

/-- The record of Table 4-4 for an exception of stream k, `size` the instruction's bytes; `trap`: the address of a TRAP that has retired. -/
def State.xcpRecord (s : State) (r : Run) (k : Nat) (st : StreamRt) (x : Xcp) (size : Nat) (trap : Option Nat) (spec : Bool) (xseq : Nat) :
    List Byte :=
  let ds := trap.isNone && st.br.isSome
  let restart := if ds then (st.br.map Branch.addr).getD st.pc else st.pc
  let le := trap.isNone && atLast st (st.pc + size - 4)
  let pos := match st.sh with | some h => decide (h.left = 1) | none => false
  let pend := match st.sh with | some h => h.pend | none => st.mode
  let flags := b2n ds + 2 * b2n st.sh.isSome + 4 * b2n pos + 8 * b2n le + 16 * b2n spec + 32 * b2n (s.isPrefixIn r.store restart)
  let cnts := st.lvs.reverse.map LoopLv.cnt
  natLe 1 x.code ++ natLe 1 x.detail ++ natLe 1 flags ++ natLe 1 k ++ natLe 1 r.task ++ natLe 1 st.lvs.length ++ natLe 1 st.depth ++
  natLe 1 st.ns.length ++ natLe 4 restart ++ natLe 4 (trap.getD st.pc) ++ natLe 1 st.mode.toNat ++ natLe 1 pend.toNat ++
  natLe 1 st.fl.toNat ++ natLe 1 x.trap ++ natLe 4 xseq ++ natLe 8 x.addr ++ (List.range 4).flatMap (fun j => natLe 4 (cnts.getD j 0)) ++
  natLe 8 r.baseCsn ++ List.replicate 8 0

/-! ### XCPPEND (R501) -/

/-- The write that sets or clears the bit of a task in XCPPEND; in a new Lead's first commit every other bit of its byte is clear. -/
def State.pendBit (s : State) (w : Ovl) (t : Nat) (on : Bool) : Ovl :=
  match s.sysAddr .xcpPend false 0 with
  | none => w
  | some a =>
    let b := a + t / 8
    let old := (match tabGet? w b with | some x => x | none => if s.pair.firstCommit then 0 else memRd s.sq.mem b).toNat
    let bit := 2 ^ (t % 8)
    let clear := old - old / bit % 2 * bit
    tabSet w b (BitVec.ofNat 8 (if on then clear + bit else clear))

/-- Clear a task's bit by a commit of its own, if it is set. -/
def State.clearPend (s : State) (t : Nat) : State :=
  match s.sysAddr .xcpPend false 0 with
  | none => s
  | some a =>
    if bitOf (memRd s.sq.mem (a + t / 8)).toNat (t % 8) then s.commitCore (.alone s t (s.pendBit [] t false)) [] else s

/-- An init task has failed: the module returns to STOP at the next base tick (R47, R112). -/
def State.initFailed (s : State) : State :=
  State.share { s with sched := { s.sched with accepted := [(0, s.tick + 1)], inits := [] } } (.mode (s.tick + 1) 0)

/-! ### Raising (R100, R105, R106, R111, R112) -/

/-- Does an exception of a task's run await a disposition? -/
def State.delivers (s : State) (r : Run) : Bool :=
  !s.isSafety r.task && s.kind r.task ≠ 3 && s.kind r.task ≠ 2 && !s.flag SCH_TASKXCP_POLICY r.task && s.errorTask.isSome &&
  decide (r.deliv < 4)

/-- An exception whose record is written: its record and, if it awaits a disposition, its bit by a commit of its own; the event record and the
report; then delivery, or the end of the cycle. -/
def State.raiseXcp (s : State) (r : Run) (k : Nat) (st : StreamRt) (x : Xcp) (size : Nat) (trap : Option Nat) (spec : Bool) : State :=
  let t := r.task
  let xs := ((s.taskRt t).xseq + 1) % 2 ^ 32
  let deliver := s.delivers r
  let rec_ := s.xcpRecord r k st x size trap spec xs
  let streams := stopStreams (r.streams.set k { st.restart with lane := none })
  let s := s.leaveOld
  let s := s.modTask t (fun y => { y with xseq := xs })
  let s := ((s.setF SCH_TASKXCP_CODE x.code t).setF SCH_TASKXCP_STREAM k t).bump SCH_TASKXCP_XCPCNT t
  let s := s.putRun { r with streams := streams, st := .xcp, xcp := some (x, k), deliv := if deliver then r.deliv + 1 else r.deliv }
  let w := match s.sysAddr .xcp false t with | some a => ovlWrL [] a rec_ | none => []
  let s := s.commitCore (.alone s t (if deliver then s.pendBit w t true else w)) []
  let s := (s.event 0x0103 t (rec_.take 0x38)).report 0x0001 t s.now 2 t
  if deliver then (s.setF SCH_TASKXCP_PEND 1 t).callErrorTask s.now
  else if s.isSafety t then s.wdStop t
  else
    let s := (s.bump SCH_TASKXCP_ABTCNT t).abortCycle t
    if s.kind t = 3 then s.initFailed else s

/-- A second lane fault in a cycle (R152): a safety task is stopped by watchdog; any other cycle ends by ABORT, and an init task's failure returns the
module to STOP. -/
def State.rerunFail (s : State) (r : Run) : State :=
  let s := s.putRun r
  let s := s.bump XNG_FLTCNT_RERUNFAIL
  if s.isSafety r.task then s.wdStop r.task
  else
    let s := (s.bump SCH_TASKXCP_ABTCNT r.task).abortCycle r.task
    if s.kind r.task = 3 then s.initFailed else s

/-- Any stream: a held exception names one that exists. -/
def Run.anyStream (q : Run) : StreamRt := q.streams.headD
  { la := false, wa := 0, wb := 0, w := [], ns := [], fl := 0, mode := 0, pc := 0, lvs := [], depth := 0, br := none, sh := none, scr := [],
    own := [], lane := none, st := .ended, shad := .none, flying := false }

/-! ### Disposition (R107 to R110, R115) -/

/-- RESUME (R108), or ABORT for an exception that is not resumable (R98). -/
def State.dispose (s : State) (t : Nat) (resume : Bool) : State :=
  match s.run? .real t with
  | none => s
  | some r =>
    match r.xcp with
    | none => s
    | some (x, _) =>
      let s := s.setF SCH_TASKXCP_PEND 0 t
      if resume && decide (x.code > 3) then s.putRun { r with st := .ready, xcp := none }
      else (s.bump SCH_TASKXCP_ABTCNT t).abortCycle t

/-- ABORT that the module applies by itself, with the bit cleared by a commit of its own. -/
def State.abortXcp (s : State) (t : Nat) : State :=
  if s.flag SCH_TASKXCP_PEND t then (s.clearPend t).dispose t false else s

/-- After a discard, what the real run raised meanwhile is raised; one that a second lane fault had ended is aborted (R130, R135, R152). -/
def State.raiseHeld (s : State) (t : Nat) : State :=
  match s.run? .real t with
  | none => s
  | some q =>
    match q.held with
    | none => if q.abandoned then s.rerunFail { q with abandoned := false } else s
    | some h => s.raiseXcp { q with held := none } h.k (q.streams.getD h.k q.anyStream) h.x h.size h.trap false

/-- Raise what a real run holds, once no stream of it stands on a lane (R96, R100) and no decision is due (R130). -/
def State.settle (s : State) (t : Nat) : State :=
  match s.run? .real t with
  | none => s
  | some q =>
    if q.st = .xcp && (q.held.isSome || q.abandoned) && q.streams.all (fun x => x.lane.isNone) && !s.undecided t then s.raiseHeld t else s

/-- The same for every task. -/
def State.settleAll (s : State) : State := (s.sched.runs.map (fun p => p.2.task)).foldl State.settle s

/-- Discard the run of one task as invalidated (R131), and raise what its real run holds. -/
def State.invalTask (s : State) (t : Nat) : State := (s.specInval t).settle t
/-- Discard every run whose generation set has changed (R127). -/
def State.genCheck (s : State) : State := s.specGenCheck.settleAll
/-- Discard every run. -/
def State.invalAll (s : State) : State := s.specInvalAll.settleAll

/-- The dispositions that a commit of the error task gives (R107): for each record whose DISP byte it stores, judged as DISP and DSEQ then
stand. Accepted ones as (task, RESUME); the others advance DISPREF. -/
def State.judge (s : State) (w : Ovl) : List (Nat × Bool) × State :=
  s.cfg.sys.foldl (fun (acc : List (Nat × Bool) × State) v =>
    if v.kind = .xcp && tabHas w (v.addr + 0x38) then
      let byte (a : Nat) : Byte := match tabGet? w a with | some b => b | none => memRd s.sq.mem a
      let disp := (byte (v.addr + 0x38)).toNat
      let dseq := leNat ((List.range 4).map (fun j => byte (v.addr + 0x3C + j)))
      if s.flag SCH_TASKXCP_PEND v.ix && dseq = (s.taskRt v.ix).xseq && (disp = 1 || disp = 2) then (acc.1 ++ [(v.ix, decide (disp = 1))], acc.2)
      else (acc.1, acc.2.bump SCH_XCPCNT_DISPREF v.ix)
    else acc) ([], s)

/-- A write of SCH_TASKXCP.DISP (R115): it answers the record that is pending when it is written, and travels to the Follower; a Lead in LEAD waits for the
base tick after the packet that carries it. -/
def State.dispWrite (s : State) (path : Path) (resume : Bool) : State :=
  let t := s.selIx path .task
  let st := s.getF PAR_STAT_STATE
  if st = 2 || st = 3 || st = 4 then s.ignored path 0x30034 3
  else if !s.flag SCH_TASKXCP_PEND t then (s.ignored path 0x30034 4).bump SCH_XCPCNT_DISPREF t
  else
    let xs := (s.taskRt t).xseq
    let e := if st = 6 then none else some 0
    State.share { s with sched := { s.sched with disps := s.sched.disps ++ [((t, xs, resume), e)] } } (.disp t xs resume)

/-- XCP_DISP_RESUME (R115). -/
def execXcpDispResume (path : Path) (s : State) : Host.Outcome State Fault Refusal := done (s.written path 0x30034 (fun s => s.dispWrite path true))
/-- XCP_DISP_ABORT (R115). -/
def execXcpDispAbort (path : Path) (s : State) : Host.Outcome State Fault Refusal := done (s.written path 0x30034 (fun s => s.dispWrite path false))

/-- Has the tick come by which a pending record's disposition had to take effect: the one at which R37 would make its cycle late or, of a late cycle, R39
would act (R110); where those rules do not apply, none has (R47)? -/
def State.dispLate (s : State) (t : Nat) : Bool :=
  match s.run? .real t with
  | none => false
  | some r =>
    let p := s.periodOf r
    let limit := if !r.late then s.lateTick r
      else if s.kind t = 0 then (match (s.taskRt t).owed with | some (g, _) => g + p | none => s.lateTick r) else r.rel + 2 * p
    s.watched t && r.st = .xcp && s.flag SCH_TASKXCP_PEND t && decide (s.tick ≥ limit)

/-- At a base tick, the written dispositions whose tick has come take effect, on a Follower as far as the record pends there; one whose record is no longer
pending, or has been replaced, or at whose deadline they come (R110), is dropped and counted (R115). -/
def State.applyDisps (s : State) : State :=
  let ripe (x : (Nat × Nat × Bool) × Option Nat) : Bool := x.2.any (fun e => decide (e ≤ s.tick))
  let go := (s.sched.disps.filter ripe).map Prod.fst
  let s := { s with sched := { s.sched with disps := s.sched.disps.filter (fun x => !ripe x) } }
  go.foldl (fun s d =>
    if s.flag SCH_TASKXCP_PEND d.1 && (s.taskRt d.1).xseq = d.2.1 && !s.dispLate d.1 then
      (if s.following then s.setF SCH_TASKXCP_PEND 0 d.1 else (s.clearPend d.1).dispose d.1 d.2.2)
    else s.bump SCH_XCPCNT_DISPREF d.1) s

/-- DISPOSITION_DEADLINE (R110): no disposition has taken effect by the tick at which R37 would make the cycle late, or R39 would act. -/
def execDispositionDeadline (task : TaskNo) (s : State) : Host.Outcome State Fault Refusal :=
  done (if s.dispLate task.val then s.abortXcp task.val else s)

/-- ERROR_TASK_DELIVERY (R106): the error task is released for the records that await it, as R41 and R44 release it. -/
def execErrorTaskDelivery (s : State) : Host.Outcome State Fault Refusal :=
  done (match s.errorTask with | some t => s.eventRelease t | none => s)

/-! ### The commit of a cycle (R83, R84, R172, R117) -/

/-- What a cycle has stored: the stores shared at SYNC, and then each stream's own, ascending (R84). -/
def Run.stores (r : Run) : Ovl := r.streams.foldl (fun o x => ovlLay o x.own) r.shared

/-- The output signals of a task that stores touch. -/
def State.wroteOuts (s : State) (t : Nat) (w : Ovl) : List Nat :=
  (((s.taskDef? t).map TaskDef.outputs).getD []).filter (fun n =>
    tabHas w (s.outStat t n) || (List.range 8).any (fun k => tabHas w (s.outSlot t n + k)))

/-- Is a byte in the image of a task's inputs? -/
def State.inImg (s : State) (t a : Nat) : Bool := match s.taskDef? t with | some d => inImage d a | none => false

/-- Do the conditions of R117 hold for a run that stands for the next grid tick? -/
def State.specReady (s : State) (t : Nat) : Bool :=
  let x := s.taskRt t
  s.specActive && s.kind t = 0 && !s.isSafety t && !((s.taskDef? t).map TaskDef.hasLive).getD true && s.flag SCH_TASKCFG_SPEC t &&
  s.getF SCH_TASKSTAT_STATE t = 1 && x.lastOk && x.lastG = x.lastR && !s.flag SCH_TASKSTAT_LATE t && !s.flag SCH_TASKSTAT_CATCHUP t &&
  !s.flag SCH_TASKXCP_PEND t && x.susp = 0 && x.specBar = 0

/-- SSTATE after a cycle: ARMED or OFF, unless the task is suspended (Table 5-3). -/
def State.specArm (s : State) (t : Nat) : State :=
  if (s.taskRt t).susp > 0 then s else s.specState t (if s.specReady t then 1 else 0)

/-- SSTATE of every task without a run: ARMED where the conditions of R117 hold, OFF where they do not (R132). -/
def State.specFollow (s : State) : State :=
  s.cfg.tasks.foldl (fun s d =>
    let t := d.no.val
    let st := s.getF SPC_TASKSTAT_SSTATE t
    if st ≤ 1 && st ≠ b2n (s.specReady t) then s.specArm t else s) s

/-- The cycle of a task commits: its image, its batches and its stores; dispositions given by the error task take effect at it. -/
def State.commitCycle (s : State) (r : Run) (arb : List (Fin 8 × Nat)) : State :=
  let t := r.task
  let st := r.stores
  let w := ovlLay r.img st
  let j := if s.errorTask = some t then s.judge w else ([], s)
  let s := j.2
  let own := (pagesOf w).eraseDups
  let w := j.1.foldl (fun w d => s.pendBit w d.1 false) w
  let i : CommitInfo :=
    { task := t, recTask := t, flags := if r.deliv > 0 then 2 else 0, grid := r.grid, rel := r.rel, baseCsn := r.baseCsn, writes := w,
      wrote := s.wroteOuts t st, input := ((s.taskDef? t).map TaskDef.inputs).getD [],
      batches := s.host.batches.filter (fun b => r.batches.contains b.id && b.csn.isNone), fx := r.fx, events := [], cycle := true,
      from_ := some (own, r.base, r.basePoison) }
  let s := s.commitCore i arb
  let s := s.modTask t (fun x => { x with lastImg := r.img.filter (fun p => s.inImg t p.1) })
  let s := (s.endCycle t true).specArm t
  let s := j.1.foldl (fun s d => s.dispose d.1 d.2) s
  { s with sched := { s.sched with inits := s.sched.inits.filter (fun n => n ≠ t) } }

/-- The commit, after an activation, of a cycle released before it (R242): what it stored passes through the map; its image is of the old layout and
is not carried. Dispositions that an old cycle of the error task gives take effect at it (R107). -/
def State.commitOld (s : State) (r : Run) (arb : List (Fin 8 × Nat)) : State :=
  let t := r.task
  let w := ovlLay r.img r.stores
  let m := s.migStores (tabGet Pkg.empty s.pkgs r.store) s.cfg t (memLay r.base w) w
  let s := s.bump SCH_OLCSTAT_MIGCNT 0 m.2
  let i : CommitInfo :=
    { task := t, recTask := t, flags := if r.deliv > 0 then 2 else 0, grid := r.grid, rel := r.rel, baseCsn := r.baseCsn, writes := m.1,
      wrote := s.wroteOuts t m.1, input := [],
      batches := s.host.batches.filter (fun b => r.batches.contains b.id && b.csn.isNone), fx := r.fx, events := [], cycle := true, from_ := none }
  let j := if s.errorTask = some t then s.judge m.1 else ([], s)
  let s := j.2
  let i := { i with writes := j.1.foldl (fun w d => s.pendBit w d.1 false) m.1 }
  let s := (s.commitCore i arb).modTask t (fun x => { x with lastImg := [] })
  let s := ((s.endCycle t true).modTask t (fun x => { x with specBar := max 1 x.specBar })).specArm t
  j.1.foldl (fun s d => s.dispose d.1 d.2) s

/-- The commit of one task's cycle, once every stream of it has ended. A module that no longer leads commits nothing, and a parallel real run waits for
the decision on its speculative run (R130). -/
def State.commitTask (s : State) (t : Nat) (arb : List (Fin 8 × Nat)) : State :=
  match s.run? .real t with
  | none => s
  | some r =>
    if r.st = .ended && s.isLead && !s.undecided t then (if r.store = s.actStore then s.commitCycle r arb else s.commitOld r arb)
    else s

/-- The order in which tasks that reach commit in one fabric clock commit (R12): by priority, then by task number. -/
def State.commitOrder (s : State) (l : List Nat) : List Nat :=
  isort (fun a b => decide (s.getF SCH_TASKCFG_PRIO a < s.getF SCH_TASKCFG_PRIO b) ||
    (s.getF SCH_TASKCFG_PRIO a = s.getF SCH_TASKCFG_PRIO b && decide (a < b))) l.eraseDups

/-- COMMIT (R172): a cycle commits, and in the order of R12 the other tasks of `seen` that reach commit in the same fabric clock. -/
def execCommit (task : TaskNo) (seen : CommitSeen) (s : State) : Host.Outcome State Fault Refusal :=
  done ((s.commitOrder (task.val :: seen.same.map Fin.val)).foldl (fun s t => s.commitTask t seen.arb) s)

end Sys2Proof.Machine
end

