-- ==== Sys2Proof/Machine/Flx.lean ====
section
/-! DEFINITION. One step of one FLX stream: fetch, the Crossing, the instruction, retirement, and what an exception or a lane fault does in a
real cycle, a speculative run and an audit (03, 04, 05, 06). -/
namespace Sys2Proof.Machine

/-! ### Fetch (R88, R92, R184) -/

/-- What comes of a fetch: an instruction, or the exception that the fetch raises, with the bytes it covers and what a refusal latches. -/
inductive Fetched where
  | got (i : FlxW)
  | bad (x : Xcp) (size : Nat) (l : Option Latch)

/-- Why the fetch of a word is refused, if it is: the end of the executable area, or the lane's ACU, which latches the refusal. -/
def State.fetchRefused (s : State) (nr : Bool) (t pc : Nat) : Option (Option Latch) :=
  if !s.inCode pc then some none
  else (s.laneRefuses nr t .ex (storeBase s.actStore + pc) 4).map (fun b => some (.refusal b (0x100 + t) false))

/-- What the reads of a fetch find in the program store. -/
def State.fetchMeet (s : State) (nr : Bool) (t : Nat) (st : StreamRt) : State :=
  let a := storeBase s.actStore + st.pc
  if (s.fetchRefused nr t st.pc).isSome then s
  else
    let s := s.meet a 4 s.sq.csn
    if s.sq.bad a 4 || !s.isPrefix st.pc || (s.fetchRefused nr t (st.pc + 4)).isSome || atLast st st.pc then s else s.meet (a + 4) 4 s.sq.csn

/-- Fetch the instruction at a stream's PC: a prefix and its instruction are one (R69). -/
def State.fetchAt (s : State) (nr : Bool) (t : Nat) (st : StreamRt) : Fetched :=
  let pc := st.pc
  match s.fetchRefused nr t pc with
  | some l => .bad ⟨0x02, 0, 0, 0⟩ 4 l
  | none =>
    let a := storeBase s.actStore + pc
    if s.sq.bad a 4 then .bad ⟨0x07, 0, a, 0⟩ 4 none
    else if s.isPrefix pc then
      match s.fetchRefused nr t (pc + 4) with
      | some l => .bad ⟨0x02, 0, 0, 0⟩ 8 l
      | none =>
        if atLast st pc then .bad ⟨0x03, 0x06, 0, 0⟩ 8 none
        else if s.sq.bad (a + 4) 4 then .bad ⟨0x07, 0, a + 4, 0⟩ 8 none
        else .got ⟨some (bits (s.codeWord pc) 0 26), s.codeWord (pc + 4)⟩
    else .got ⟨none, s.codeWord pc⟩

/-! ### Streams in a run -/

/-- Put a stream back; when the last one ends, the run has ended and frees its lanes (R29). -/
def Run.withStream (r : Run) (k : Nat) (st : StreamRt) : Run :=
  let l := r.streams.set k st
  if l.all (fun x => x.st = .ended) then { r with st := .ended, streams := l.map (fun x => { x with lane := none }) }
  else { r with streams := l }

/-- A speculative run is abandoned (R126). -/
def State.specAbandon (s : State) (r : Run) : State := (s.putRun r).specEnd r.task 2

/-- A run starts again from its beginning with the same image, base and release (R151). -/
def Run.again (r : Run) (d : TaskDef) : Run :=
  { r with st := .ready, shared := [], streams := (List.range r.streams.length).map (fun k => StreamRt.start d k), fx := [], rerun := true, xcp := none,
           held := none }

/-- An execution that a lane fault ends: no lane is held. -/
def Run.ended (r : Run) : Run := { r with st := .xcp, abandoned := true, held := none, streams := r.streams.map (fun x => { x with lane := none }) }

/-- The rest of a lane fault: what becomes of the run (R150 to R152, R126, R161). Before a decision, a second one in the real run waits for it (R135). -/
def State.runFault (s : State) (r : Run) (d : TaskDef) : State :=
  match r.ctx with
  | .spec => s.specAbandon r
  | .audit => if !r.rerun then s.putRun (r.again d) else (s.bump XNG_FLTCNT_RERUNFAIL).putRun r.ended
  | .real =>
    if !r.rerun then s.putRun (r.again d)
    else if s.undecided r.task then s.putRun r.ended
    else s.rerunFail r

/-- An exception of stream k, whose state is `st`, first or beside another: held, in a speculative run or an audit as long as the run lasts, and in a real run
until `settle` raises it: once every other stream has left its slot or shadow (R96, R100), and not before the decision on a speculative run (R130, R134). A
memory error abandons a speculative run (R126). -/
def State.flxXcp (s : State) (r : Run) (k : Nat) (st : StreamRt) (x : Xcp) (size : Nat) (trap : Option Nat) : State :=
  let hold (r : Run) : Run :=
    { r with st := .xcp, streams := stopStreams (r.streams.set k { st with lane := none }), held := some ⟨x, k, size, trap⟩ }
  match r.ctx with
  | .spec =>
    if x.code = 7 || r.abandoned then s.specAbandon (r.withStream k st) else (s.putRun (hold r)).specState r.task 4
  | .audit => s.putRun { hold r with abandoned := r.abandoned || decide (x.code = 7) }
  | .real => s.putRun (hold r)

/-- After an instruction has retired: a stream of a stopped run that has left its slot or shadow gives its lane back; a speculative run whose
streams have all ended is READY. -/
def State.flxPut (s : State) (r : Run) (k : Nat) (st : StreamRt) : State :=
  let st := if r.st ≠ .on && !st.inside then { st with lane := none } else st
  let r := r.withStream k st
  let s := s.putRun r
  if r.ctx = .spec && r.st = .ended then s.specState r.task 3 else s

/-- May stream k of a run execute: it holds a lane and is executing, and its run is on lanes or the stream must first leave a slot or a shadow? A
speculative run executes until its release. -/
def State.mayStep (s : State) (r : Run) (st : StreamRt) : Bool :=
  st.st = .go && st.lane.isSome && (r.st = .on || ((r.st = .xcp || r.st = .ready) && st.inside)) &&
  !(r.ctx = .spec && (s.run? .real r.task).isSome)

/-- The effect of one instruction of stream n on its run: its exception, its retirement with its shadow, and what a TRAP raises once it has retired. -/
def State.flxRun (s : State) (r : Run) (st : StreamRt) (n lanes size : Nat) (tags : Dom × Dom × List Dom) (fail : State → Run → Xcp → Nat → State)
    (o : XR After) : State :=
  match o with
  | .xcp x m => fail m.s m.r x size
  | .ok a m =>
    let st1 := m.st.retire size a lanes
    let st' := { st1 with shad := st1.shadowOf tags.1 tags.2.1 tags.2.2, flying := false }
    if m.r.abandoned && r.ctx = .spec then m.s.specAbandon (m.r.withStream n st')
    else match a with
      | .trap code =>
        if r.st = .xcp then s.putRun (r.withStream n { st.restart with lane := none })
        else m.s.flxXcp m.r n st' ⟨0x0F, 0, 0, code⟩ size (some st.pc)
      | _ => m.s.flxPut m.r n st'

/-- The TYPE of the equipment object whose routine a stream is about to enter (R395). -/
def State.objectAt (s : State) (st : StreamRt) : Option Nat :=
  if st.br.isSome then none else (s.cfg.objEntry.find? (fun p => p.2 = st.pc)).map Prod.fst

/-- A lane fault of stream n of an execution, over an item (R150). -/
def State.streamFault (s : State) (r : Run) (st : StreamRt) (n it : Nat) (d : TaskDef) : State :=
  (s.laneFault (st.lane.getD 0) it r.task n st.pc (decide (r.ctx = .spec)) (decide (r.ctx = .audit)) false).runFault r d

/-- The items that a stream's evaluation of an equipment object's routine produces: a routine is many instructions, which hold no live read. -/
def routineItems : List Nat := [1, 2, 3, 4, 5, 6, 7, 8, 9]

/-- One instruction of stream k of an execution: the command names its row, and happens only where the stream stands at an instruction of that
row; a word that spells no row raises its exception, and a stream at the entry of an equipment object's
routine evaluates the object, under whichever command (log entries 4 and 18). A lane fault comes before every other exception (R98, R161). -/
def State.flxIn (s : State) (k : Strm) (e : Env) (row : FlxRow) (sem : Sem) : State :=
  match s.run? k.ctx k.task.val, s.taskDef? k.task.val with
  | some r, some d =>
    (match r.streams[k.stream.val]? with
     | none => s
     | some st =>
       if !s.mayStep r st then s
       else
         let n := k.stream.val
         -- what an exception does here: while another one is live it is discarded, and the instruction is as if not begun
         let fail (s : State) (r : Run) (x : Xcp) (size : Nat) : State :=
           if r.st = .xcp then s.putRun (r.withStream n { st.restart with lane := none }) else s.flxXcp r n st x size none
         let c (i : FlxW) : Cx := { t := r.task, d := d, k := n, ctx := r.ctx, lane := st.lane.getD 0, e := e, i := i }
         match s.objectAt st with
         | some type =>
           (match mismatch e.item routineItems with
            | some it => s.streamFault r st n it d
            | none =>
              s.flxRun r st n r.streams.length 4 (.compl, .compl, List.replicate 8 .compl ++ st.shad.dw.drop 8) fail
                (semObject type (c ⟨none, 0x01000000⟩) ⟨s, r, st⟩))
         | none =>
           let s := s.fetchMeet e.newRules r.task st
           match s.fetchAt e.newRules r.task st with
           | .bad x size l =>
             (match mismatch e.item [9] with
              | some it => s.streamFault r st n it d
              | none =>
                let m := match l with | some y => Mx.latch (c ⟨none, 0⟩) ⟨s, r, st⟩ y | none => ⟨s, r, st⟩
                fail m.s m.r x size)
           | .got i =>
             if i.row.isSome && i.row ≠ some row then s
             else
               match mismatch e.item (i.items st) with
               | some it => s.streamFault r st n it d
               | none =>
                 match i.illegal with
                 | some det => fail s r ⟨0x03, det, 0, 0⟩ i.size
                 | none =>
                   if st.sh.isSome && row.control then fail s r ⟨0x03, 0x05, 0, 0⟩ i.size
                   else if st.flying && e.inFlight && (row = .ldlive || row = .ldliveh) then
                     s.putRun (r.withStream n { st.restart with lane := none })
                   else s.flxRun r st n r.streams.length i.size (i.tags st) fail (sem (c i) ⟨s, r, st⟩))
  | _, _ => s

/-- The same, after which an exception that has come due is raised, and under the store the cycle runs: one released before an activation runs on under the old program, and nothing it translates enters its
lane's cache (R242, R189). -/
def State.flx (s : State) (k : Strm) (e : Env) (row : FlxRow) (sem : Sem) : State :=
  match s.run? k.ctx k.task.val with
  | none => s
  | some r =>
    if r.store = s.actStore then (s.flxIn k e row sem).settle r.task
    else
      let n := ((r.streams[k.stream.val]?).bind StreamRt.lane).getD 0
      let old := (s.laneRt n).ttc
      ((((s.modLane n (fun l => { l with ttc := [] })).enterOld r.store).flxIn k e row sem).leaveOld.modLane n (fun l => { l with ttc := old })).settle r.task

/-! ### SYNC (R84) -/

/-- All streams of a run wait at a SYNC or have ended: what each has stored since the last one is shared, the higher stream number last, and
the waiting streams go on. -/
def State.syncShare (s : State) (c : Ctx) (t : Nat) : State :=
  match s.run? c t with
  | none => s
  | some r =>
    if r.streams.all (fun x => x.st ≠ .go) && r.streams.any (fun x => x.st = .sync) then
      s.putRun { r with shared := r.stores,
                        streams := r.streams.map (fun x => { x with own := [], st := if x.st = .sync then .go else x.st }) }
    else s

/-! ### Live reads (R82, R146 to R149) -/

/-- The value a copy of a live read takes, truncated to the type: the register's, the one it has moved to, or all ones where the device is
silent. -/
def liveVal (ty now : Nat) : LiveAns → Nat
  | .same => low ty now
  | .changed v => low ty v.toNat
  | .silent => low ty (2 ^ 64 - 1)

/-- The safe side of values in the order of the type. -/
def liveSafe (ty : Nat) (high : Bool) (v : Nat) (l : List Nat) : Nat :=
  l.foldl (fun a b => if high then tyGreater ty a b else tyLesser ty a b) v

/-- The record of a divergence: the task, the stream, the PC, the device address and the four values. -/
def divRecord (s : State) (c : Cx) (pc a : Nat) (l : List Nat) : State := s.evHw 7 ([c.t, c.k, pc, a] ++ l)

/-- LDLIVE and LDLIVEH. -/
def semLive (high : Bool) : Sem := fun c m =>
  let ty := c.i.ty
  let n := tySize ty
  (m.address c ty n).bind fun p m =>
  let a := p.1
  (m.check c .live a n).bind fun _ m =>
    let now := m.s.deviceRead a
    let e := c.e
    let v1 := liveVal ty now e.prim
    let v2 := liveVal ty now e.shad
    if v1 = v2 then .ok .next (m.setWa (ext ty v1))
    else
      let v3 := liveVal ty now e.prim2
      let v4 := liveVal ty now e.shad2
      if v3 = v4 then
        let s := m.s.bump XNG_DIVCNT_DIVCNT
        let s := if s.flag XNG_CTL_DIVEVT then divRecord s c m.st.pc a [v1, v2, v3, v4] else s
        .ok .next ({ m with s := s }.setWa (ext ty v3))
      else
        let s := divRecord (m.s.bump XNG_DIVCNT_SAFECNT) c m.st.pc a [v1, v2, v3, v4]
        let s := s.report 0x0003 (bits a 4 32) s.now 2 c.t
        .ok .next ({ m with s := s }.setWa (ext ty (liveSafe ty high v1 [v2, v3, v4])))

end Sys2Proof.Machine
end

