-- ==== Sys2Proof/Machine/Spec.lean ====
section
/-! DEFINITION. Speculative cycles (05): the start of a run, the decision, and the end of a suspension. -/
namespace Sys2Proof.Machine

/-- Has the start instant of a run for grid tick g come by the end of the present base tick (R121): SPECLEAD µs before its release tick, or, with SPECLEAD = 0,
the commit before it? -/
def State.specLead (s : State) (t g : Nat) : Bool :=
  let lead := s.getF SPC_TASKCFG_SPECLEAD t
  lead = 0 || decide (g * 62500 < s.now + 62500 + lead * 1000)

/-- SPEC_RUN_START (R117, R121, R123, R127): a run for the next grid tick, against the input image of the last committed cycle. -/
def execSpecRunStart (task : TaskNo) (s : State) : Host.Outcome State Fault Refusal :=
  done (
    let t := task.val
    match s.taskDef? t with
    | none => s
    | some d =>
      let g := (s.taskRt t).lastG + s.getF SCH_TASKCFG_PERIOD t
      if s.specReady t && (s.run? .spec t).isNone && (s.run? .real t).isNone && decide (s.tick < g) && s.specLead t g then
        (s.putRun { s.newRun d .spec g g (s.taskRt t).lastImg [] with gens := s.specGens }).specState t 2
      else s)

/-- SPEC_UNDONE (R131): a run that is not complete at its release tick. -/
def execSpecUndone (task : TaskNo) (s : State) : Host.Outcome State Fault Refusal :=
  done (
    let t := task.val
    match s.run? .spec t, s.run? .real t with
    | some r, some q =>
      if r.st = .ended || r.held.isSome then s
      else (s.specEnd t (if r.gens ≠ s.specGens || q.rel ≠ r.rel then 1 else 3)).settle t
    | _, _ => s)

/-- The byte that the real cycle reads at its start (R128): its input image and host batches over the state at its base CSN. -/
def Run.startByte (r : Run) (a : Nat) : Byte := match tabGet? r.img a with | some b => b | none => memRd r.base a

/-- The first entry of a read set, in entry order, with a byte that differs from the real cycle's: its word, the bytes and SRC. -/
def firstMiss (r q : Run) : Option (Nat × Nat × Bool) :=
  (r.words.reverse.map (fun w =>
    let at_ (j : Nat) : Bool := match tabGet? r.reads (w * 8 + j) with | some b => b.1 ≠ q.startByte (w * 8 + j) | none => false
    let diff := ((List.range 8).map (fun j => if at_ j then 2 ^ j else 0)).foldl (· + ·) 0
    (w, diff, (List.range 8).any (fun j => match tabGet? r.reads (w * 8 + j) with | some b => b.2 | none => false)))).find? (fun x => x.2.1 ≠ 0)

/-- Latch a mismatch (Table 5-13). -/
def State.latchMiss (s : State) (m : Nat × Nat × Bool) : State :=
  let a := m.1 * 8
  ((((s.setF SPC_MISSLO_ADDRLO a).setF SPC_MISSHI_ADDRHI (a / 2 ^ 32)).setF SPC_MISSHI_DIFF m.2.1).setB SPC_MISSHI_SRC m.2.2).setF SPC_MISSHI_VALID 1

/-- A confirmed run takes the place of the real one (R129, R134): its stores over the real image, with the real release and base. -/
def Run.confirm (r q : Run) : Run :=
  { r with ctx := .real, grid := q.grid, rel := q.rel, dfr := q.dfr, baseCsn := q.baseCsn, base := q.base, basePoison := q.basePoison, img := q.img,
           batches := q.batches, acts := q.acts, late := q.late, deliv := q.deliv, held := none, reads := [], words := [], gens := [], pages := [], latch := none }

/-- SPEC_DECISION (R128 to R131, R134): confirmed, the run commits or delivers its exception; discarded, the real run goes on. -/
def execSpecDecision (task : TaskNo) (arb : List (Fin 8 × Nat)) (s : State) : Host.Outcome State Fault Refusal :=
  done (
    let t := task.val
    match s.run? .spec t, s.run? .real t with
    | some r, some q =>
      if !(r.st = .ended || r.held.isSome) || r.abandoned then s
      else if r.gens ≠ s.specGens || q.rel ≠ r.rel then (s.specEnd t 1).settle t
      else
        match firstMiss r q with
        | some m => ((s.latchMiss m).specEnd t 4).settle t
        | none =>
          let s := ((s.specDrop t).bump SPC_TASKCNT_CONFCNT t).specState t 0
          let s := s.specWindow t true
          let r' := r.confirm q
          match r.held with
          | none => (s.putRun r').commitCycle r' arb
          | some h =>
            let s := match r.latch with | some l => s.latch l | none => s
            s.raiseXcp r' h.k (r.streams.getD h.k r.anyStream) h.x h.size h.trap true
    | _, _ => s)

/-- SPEC_SUSPEND_END (R139): the back-off has elapsed; the window restarts empty. -/
def execSpecSuspendEnd (task : TaskNo) (s : State) : Host.Outcome State Fault Refusal :=
  done (
    let t := task.val
    if s.getF SPC_TASKSTAT_SSTATE t = 6 && (s.taskRt t).susp = 0 then ((s.specFresh t).specState t 0).specArm t else s)

end Sys2Proof.Machine
end

