-- ==== Sys2Proof/Machine/Sched.lean ====
section
/-! DEFINITION. The scheduler's order (02, R28 to R30, R122, R130, R151): dispatch and pre-emption of cycles, speculative runs and audits. -/
namespace Sys2Proof.Machine

/-- PRIO of a task. -/
def State.prio (s : State) (t : Nat) : Nat := s.getF SCH_TASKCFG_PRIO t
/-- The quarter of a task. -/
def State.quarterOf (s : State) (t : Nat) : Nat := s.getF SCH_TASKPHASE_QUARTER t

/-- The order of R28. -/
def State.runBefore (s : State) (a b : Run) : Bool :=
  let p := s.prio a.task
  let q := s.prio b.task
  p < q || (p = q && (a.rel < b.rel || (a.rel = b.rel && a.task < b.task)))

/-- The executions of a quarter that meet a condition, in the order of R28. -/
def State.runsIn (s : State) (q : Nat) (f : Run → Bool) : List Run :=
  isort s.runBefore ((s.sched.runs.map Prod.snd).filter (fun r => s.quarterOf r.task = q && f r))

/-- The idle lanes of a quarter on which a stream may be dispatched. -/
def State.idle (s : State) (q : Nat) : List Nat := (quarterLanes q).filter s.laneFree

/-- How many lanes an execution holds. -/
def Run.lanesHeld (r : Run) : Nat := (r.streams.filter (fun x => x.lane.isSome)).length
/-- How many more lanes it needs to run. -/
def Run.lanesNeeded (r : Run) : Nat := (r.streams.filter (fun x => x.lane.isNone)).length

/-- Lanes that stopped executions of a quarter still hold, until they have left their slots and shadows (R96). -/
def State.leaving (s : State) (q : Nat) : Nat := ((s.runsIn q (fun r => r.st ≠ .on)).map Run.lanesHeld).foldl (· + ·) 0

/-- Give lanes to the streams that have none. -/
def giveLanes : List Nat → List StreamRt → List StreamRt
  | _, [] => []
  | ls, x :: xs =>
    if x.lane.isSome then x :: giveLanes ls xs
    else match ls with
      | [] => x :: giveLanes [] xs
      | l :: ls => { x with lane := some l } :: giveLanes ls xs

/-- Start or resume an execution if enough lanes are idle. -/
def State.start (s : State) (r : Run) : State :=
  let ls := s.idle (s.quarterOf r.task)
  if r.lanesNeeded ≤ ls.length then s.putRun { r with st := .on, started := true, streams := giveLanes ls r.streams } else s

/-- Pre-empt an execution: its streams stop together at their next boundary. -/
def State.preempt (s : State) (r : Run) : State := s.putRun { r with st := .ready, streams := stopStreams r.streams }

/-- Pre-empt victims, one after another, until enough lanes are idle or on their way. -/
def State.preemptFor (s : State) (q need : Nat) : List Run → State
  | [] => s
  | v :: vs => if need ≤ (s.idle q).length + s.leaving q then s else (s.preempt v).preemptFor q need vs

/-- Dispatch one ready cycle of a real task: on idle lanes, then on lanes of speculative runs, then by pre-emption of tasks of lower priority, if
together they free enough (R30, R122). -/
def State.dispatchReal (s : State) (r : Run) : State :=
  let q := s.quarterOf r.task
  let need := r.lanesNeeded
  let have_ := (s.idle q).length + s.leaving q
  let specs := (s.runsIn q (fun v => v.ctx = .spec && v.st = .on)).reverse
  let lower := (s.runsIn q (fun v => v.ctx ≠ .spec && v.st = .on && decide (s.prio r.task < s.prio v.task))).reverse
  let could := have_ + ((specs ++ lower).map Run.lanesHeld).foldl (· + ·) 0
  if need ≤ could then (s.preemptFor q need (specs ++ lower)).start r else s

/-- May a cycle be dispatched now: ready, and in serial mode not before the decision on its run (R130)? -/
def State.dispatchable (s : State) (r : Run) : Bool :=
  r.st = .ready && !(r.ctx = .real && s.undecided r.task && !s.flag SPC_TASKCFG_CONFMODE r.task)

/-- TASK_DISPATCH (R28 to R30, R122): every ready execution of a quarter in the order of R28, speculative runs on lanes that no real task needs. -/
def execTaskDispatch (q : Quarter) (s : State) : Host.Outcome State Fault Refusal :=
  done (
    let s := (s.runsIn q.val (fun r => r.ctx ≠ .spec && s.dispatchable r)).foldl (fun s r => s.dispatchReal r) s
    if (s.runsIn q.val (fun r => r.ctx ≠ .spec && s.dispatchable r)).isEmpty then
      (s.runsIn q.val (fun r => r.ctx = .spec && s.dispatchable r && (s.run? .real r.task).isNone)).foldl (fun s r => s.start r) s
    else s)

end Sys2Proof.Machine
end

