-- ==== Sys2Proof/Machine/Modes.lean ====
section
/-! DEFINITION. Module modes and starts (02, R46 to R49, R51, R53, R55, R500; 17, R456). -/
namespace Sys2Proof.Machine

/-- CFGGEN. -/
def State.cfgGen (s : State) : Nat := s.get64 PAR_CFGGENLO_CFGGEN PAR_CFGGENHI_CFGGEN

/-- Is a warm start offered (R456)? -/
def State.warmOk (s : State) : Bool := s.arc.retGen = some s.cfgGen && !s.flag PAR_STAT_RETSPLIT

/-! ### Requests (R49, R492, R500) -/

/-- A write of SCH_MODE.REQ is taken into the base tick, with the position that SAFETY-EDIT has when it arrives. -/
def State.modeRequest (s : State) (path : Path) (m : Nat) : State :=
  let st := s.getF PAR_STAT_STATE
  if st = 2 || st = 3 || st = 4 then s.ignored path 0x30000 3
  else { s with sched := { s.sched with modeReqs := s.sched.modeReqs ++ [(m, s.anySafety && !s.safetyEdit, some path)] } }

/-- MODE_REQUEST_RUN. -/
def execModeRequestRun (path : Path) (s : State) : Host.Outcome State Fault Refusal := done (s.written path 0x30000 (fun s => s.modeRequest path 1))
/-- MODE_REQUEST_HOLD. -/
def execModeRequestHold (path : Path) (s : State) : Host.Outcome State Fault Refusal := done (s.written path 0x30000 (fun s => s.modeRequest path 2))
/-- MODE_REQUEST_STOP. -/
def execModeRequestStop (path : Path) (s : State) : Host.Outcome State Fault Refusal := done (s.written path 0x30000 (fun s => s.modeRequest path 0))

/-- The mode once every accepted request has taken effect. -/
def State.modeAhead (s : State) : Nat := ((s.sched.accepted.getLast?).map Prod.fst).getD s.mode

/-- An accepted request takes effect at the next base tick (R500), the tick that the Follower is told of (R46). -/
def State.acceptMode (s : State) (m : Nat) : State :=
  let k := s.tick + 1
  State.share { s with sched := { s.sched with accepted := s.sched.accepted ++ [(m, k)] } } (.mode k m)

/-- Judge one request against the mode ahead (R500). -/
def State.judgeMode (s : State) (r : Nat × Bool × Option Path) : State :=
  let m := s.modeAhead
  let refuse (c : Nat) : State := s.ignoredBy r.2.2 0x30000 c
  if r.1 = m then s
  else if r.2.1 && r.1 ≠ 1 then refuse 1
  else if r.1 = 2 && !(m = 1 && s.sched.initDone) then refuse 4
  else if r.1 = 1 && m = 0 && s.getF SCH_MODE_START = 0 && !s.warmOk then refuse 4
  else s.acceptMode r.1

/-- Judge the requests of the base tick that ends. -/
def State.judgeModes (s : State) : State :=
  let l := s.sched.modeReqs
  l.foldl State.judgeMode { s with sched := { s.sched with modeReqs := [] } }

/-! ### Starts (R51, R53, R55) -/

/-- SCH_MODE.FORCED and FORCECNT, and the amber FORCE LED, which is lit while any force is active (R52). -/
def State.showForces (s : State) : State :=
  let lit := !s.sched.forces.isEmpty
  let s := if s.flag SCH_MODE_FORCED = lit then s else s.emit .display 2 [b2n lit]
  (s.setB SCH_MODE_FORCED lit).setF SCH_MODE_FORCECNT s.sched.forces.length

/-- The record of a force that the module itself removes: no value is set and no session made it (log entry 97). -/
def forceGone (n : Nat) : Nat × Nat × Nat × List Byte := (0x0104, 0, 0, words [3, n, 0, 0, 0xFFFF])

/-- Initial values of every variable; a warm start gives RETAIN variables their last retained value (Table 2-5). -/
def State.startImage (s : State) (warm : Bool) : Ovl :=
  let init := s.cfg.vars.foldl (fun o v => ovlWrL o v.addr (memRdL s.cfg.init v.addr v.size)) []
  if warm then ovlLay init (s.arc.ret.filter (fun p => s.retained p.1)) else init

/-- A start as a commit of the module (log entry 20): the variables, and, on a cold start, every force removed. -/
def State.startCommit (s : State) (warm : Bool) : State :=
  let s := s.setF SCH_MODE_LASTSTART (if warm then 0 else 1)
  let s := if warm then s else s.setF PAR_STAT_RETSPLIT 0
  let gone := if warm then [] else tabKeys s.sched.forces
  let s := if warm then s else State.showForces { s with sched := { s.sched with forces := [] } }
  let evs := gone.map forceGone
  if s.isLead then s.commitCore { CommitInfo.alone s 0xFF (s.startImage warm) with events := evs } []
  else { s with sq := { s.sq with mem := memLay s.sq.mem (s.startImage warm) } }

/-! ### The change (R46 to R48, R113, R127) -/

/-- Tasks of the configuration. -/
def State.taskNos (s : State) : List Nat := s.cfg.tasks.map (fun d => d.no.val)

/-- ABORT for every pending record that `f` selects (R113). -/
def State.abortPending (s : State) (f : Nat → Bool) : State :=
  s.taskNos.foldl (fun s t => if f t && s.flag SCH_TASKXCP_PEND t then s.abortXcp t else s) s

/-- To STOP: running cycles are aborted, and every task's safe output image is committed as in R40, without release of the error task. -/
def State.toStop (s : State) : State :=
  let s := s.abortPending (fun _ => true)
  let s := s.taskNos.foldl (fun s t => s.abortCycle t) s
  let s := s.setF SCH_MODE_MODE 0
  let s := { s with sched := { s.sched with inits := [], initDone := false } }
  let s := s.taskNos.foldl (fun s t => if s.kind t = 1 || s.kind t = 2 then s.dropActs t else s) s
  if s.isLead then s.taskNos.foldl (fun s t => if (s.outSigs t).isEmpty then s else s.safeCommit t s.tick s.tick s.sq.csn) s else s

/-- To HOLD: the cycles of non-safety tasks that run now are HOLD's own. -/
def State.toHold (s : State) : State :=
  let s := s.abortPending (fun t => !s.isSafety t)
  let s := s.setF SCH_MODE_MODE 2
  s.taskNos.foldl (fun s t => if !s.isSafety t && (s.run? .real t).isSome then s.modTask t (fun x => { x with heldOver := true }) else s) s

/-- From HOLD to RUN: held tasks resume at their next grid tick, with no catch-up and no skip. -/
def State.resumeRun (s : State) : State :=
  let s := s.setF SCH_MODE_MODE 1
  s.taskNos.foldl (fun s t =>
    if s.isSafety t then s
    else ((s.modTask t (fun x => { x with owed := none })).setF SCH_TASKSTAT_CATCHUP 0 t).setF SCH_TASKSTAT_LAGTICKS 0 t) s

/-- From STOP to RUN: the start, the init tasks in ascending number, and then the cyclic tasks on their grid. A cold start sets XSEQ to 0 (Table 4-4). -/
def State.startRun (s : State) (warm : Bool) : State :=
  let s := s.startCommit warm
  let s := s.setF SCH_MODE_MODE 1
  let inits := (s.taskNos.filter (fun t => s.kind t = 3 && decide (s.getF SCH_TASKCFG_PERIOD t > 0)))
  let inits := isort (fun a b => decide (a < b)) inits
  let s := { s with sched := { s.sched with inits := inits, initDone := inits.isEmpty } }
  let s := s.taskNos.foldl (fun s t =>
    ((s.modTask t (fun x => { x with owed := none, released := false, lastOk := false, xseq := if warm then x.xseq else 0 })).setF
      SCH_TASKSTAT_CATCHUP 0 t).setF SCH_TASKSTAT_LAGTICKS 0 t) s
  s.baseNow

/-- A mode takes effect; every speculative run is invalidated at the tick of the change, before the module leaves RUN (R113, R127), and a CONFIG record is
written. -/
def State.changeMode (s : State) (m : Nat) : State :=
  let old := s.mode
  if old = m then s
  else
    let s := if old = 1 then s.invalAll else s
    let s := match m with
      | 0 => s.toStop
      | 2 => s.toHold
      | _ => if old = 2 then s.resumeRun else s.startRun (s.getF SCH_MODE_START = 0)
    (s.genCheck.specFollow).evCfg 1 [old, m]

/-- The accepted changes whose tick has come. -/
def State.changeModes (s : State) : State :=
  let due := s.sched.accepted.filter (fun a => decide (a.2 ≤ s.tick))
  let s := { s with sched := { s.sched with accepted := s.sched.accepted.filter (fun a => decide (a.2 > s.tick)) } }
  due.foldl (fun s a => s.changeMode a.1) s

/-- The start of a module that has taken the Lead at pair start (R457): STARTMODE 0 stays in STOP, 1 starts warm if a warm start is offered, 2 warm or
else cold. -/
def State.firstStart (s : State) : State :=
  let m := s.getF BOT_CFG_STARTMODE
  if s.mode ≠ 0 || s.cfg.tasks.isEmpty || m = 0 || (m = 1 && !s.warmOk) then s
  else (s.startRun s.warmOk).genCheck.evCfg 1 [0, 1]

/-- MODE_CHANGE (R46 to R48). -/
def execModeChange (s : State) : Host.Outcome State Fault Refusal := done s.changeModes

/-- INIT_TASK_TIMEOUT (R47): an init task that has not committed within 10 s is stopped by watchdog, and the module returns to STOP. -/
def execInitTaskTimeout (task : TaskNo) (s : State) : Host.Outcome State Fault Refusal :=
  done (
    let t := task.val
    match s.run? .real t with
    | some r => if s.kind t = 3 && decide (s.tick * 62500 ≥ r.rel * 62500 + 10000000000) then (s.wdStop t).initFailed else s
    | none => s)

/-! ### Init tasks and the batch of a base tick (R42 to R45, R47, R316, R498, R499) -/

/-- The next init task is released once the one before it has committed; after the last, cyclic and event tasks follow (R47, R48). One whose quarter has too
few lanes is stopped by watchdog (R157), and has failed. -/
def State.initStep (s : State) : State :=
  if s.mode ≠ 1 || s.sched.initDone then s
  else
    match s.sched.inits with
    | [] => { s with sched := { s.sched with initDone := true } }
    | t :: _ =>
      if (s.run? .real t).isSome || !s.releases t then s
      else if s.taskShort t && s.pair.switchAt.isNone then (s.wdStop t).initFailed
      else s.release t s.tick 0

/-- Would a safety task stand at or below a non-safety task of its quarter (R316)? PRIO and QUARTER are taken as written. -/
def State.safetyOrderBad (s : State) : Bool :=
  let used := (s.cfg.tasks.map (fun d => d.no.val)).filter (fun t => s.asWritten SCH_TASKCFG_PERIOD t > 0)
  used.any (fun a => s.isSafety a && used.any (fun b => !s.isSafety b &&
    s.asWritten SCH_TASKPHASE_QUARTER a = s.asWritten SCH_TASKPHASE_QUARTER b && s.asWritten SCH_TASKCFG_PRIO a ≥ s.asWritten SCH_TASKCFG_PRIO b))

/-- Is START refused with cause 5 (R498)? -/
def State.startBad (s : State) (t : Nat) : Bool :=
  let p := s.asWritten SCH_TASKCFG_PERIOD t
  let k := s.asWritten SCH_TASKCFG_KIND t
  let l := s.asWritten SCH_TASKPHASE_LANES t
  p = 0 || decide (p > 160000) || (k = 0 && (decide (p < 4) || decide (s.asWritten SCH_TASKPHASE_PHASE t ≥ p))) || l = 0 || decide (l > 14) ||
  decide (s.asWritten SCH_TASKPHASE_QUARTER t ≥ 6) || s.safetyOrderBad

/-- A change of a task's state that the Follower has to hold too. -/
def State.shareTask (s : State) (t : Nat) : State :=
  s.share (.taskState t (s.getF SCH_TASKSTAT_STATE t))

/-- What one command of the batch does; only a report or a record's delivery activates the error task (R41); `n` counts the activations of the tick that are kept, `stopped` a STOP of this tick. -/
def State.batchCmd (a : State × Nat × Bool) (c : TickCmd) : State × Nat × Bool :=
  let s := a.1
  let n := a.2.1
  let t := c.task
  let st := s.getF SCH_TASKSTAT_STATE t
  let k := s.kind t
  let refuse (x : Nat) : State × Nat × Bool := (s.ignoredBy c.path 0x30004 x, n, a.2.2)
  match c.ask with
  | .start =>
    if a.2.2 && st = 2 then (s.modTask t (fun x => { x with stopping := false }), n, false)
    else if k = 3 || st = 1 || st = 2 then refuse 4
    else if s.startBad t then refuse 5
    else
      let s := s.applyDue (.taskStart t)
      let s := (s.setF SCH_TASKSTAT_STATE 1 t).modTask t (fun x => { x with owed := none, released := false, lastOk := false, stopping := false })
      ((s.laneShortage).shareTask t, n, false)
  | .stop =>
    if k = 3 || st = 0 then refuse 4
    else
      let s := s.invalTask t
      let st := s.getF SCH_TASKSTAT_STATE t
      let s := if k = 1 || k = 2 then (s.dropActs t).bump SCH_TASKCNT_SKIPCNT t n else s
      let s := if st = 2 then s.modTask t (fun x => { x with stopping := true })
        else (s.setF SCH_TASKSTAT_STATE 0 t).modTask t (fun x => { x with owed := none })
      (s.shareTask t, 0, true)
  | .activate =>
    if k ≠ 1 then (if c.path.isSome then refuse 4 else a)
    else if st = 0 || st = 3 || (s.taskRt t).stopping || !(s.mode = 2 || (s.mode = 1 && s.sched.initDone)) then
      (s.bump SCH_TASKCNT_SKIPCNT t, n, a.2.2)
    else (s, n + 1, a.2.2)
  | .call =>
    if k ≠ 2 then a
    else if st = 0 || st = 3 || (s.taskRt t).stopping || !(s.mode = 2 || (s.mode = 1 && s.sched.initDone)) then
      (s.bump SCH_TASKCNT_SKIPCNT t, n, a.2.2)
    else (s, n + 1, a.2.2)
  | .cancel => if k = 1 then a else refuse 4

/-- The commands of one task in the order of R42. -/
def cmdBefore (a b : TickCmd) : Bool :=
  let late (c : TickCmd) : Bool := c.ask = .cancel || c.ask = .stop
  a.stamp < b.stamp || (a.stamp = b.stamp && ((!late a && late b) || (late a = late b && decide (a.seq < b.seq))))

/-- Evaluate the batch of the base tick that has ended, for one task (R42 to R45, R498, R499). -/
def State.evalTask (s : State) (t : Nat) (l : List TickCmd) : State :=
  let r := (isort cmdBefore l).foldl State.batchCmd (s, 0, false)
  let s := r.1
  let n := r.2.1
  let old := (s.taskRt t).acts
  if s.kind t = 1 && l.any (fun c => c.ask = .cancel) then
    ((s.modTask t (fun x => { x with acts := 0 })).bump SCH_TASKEVT_CANCNT t (old + n)).setF SCH_TASKSTAT_PENDING 0 t
  else if n = 0 then s
  else (s.modTask t (fun x => { x with acts := old + n })).setF SCH_TASKSTAT_PENDING 1 t

/-- Evaluate the whole batch. -/
def State.evalBatch (s : State) : State :=
  let b := s.sched.batch
  let s := { s with sched := { s.sched with batch := [] } }
  (List.range 256).foldl (fun s t =>
    let l := b.filter (fun c => c.task = t)
    if l.isEmpty then s else s.evalTask t l) s

end Sys2Proof.Machine
end

