-- ==== Sys2Proof/Machine/Crossing.lean ====
section
/-! DEFINITION. Checked execution beside the instructions (06, R153 to R162): self-tests, injected mismatches, TEST and RETIRE. -/
namespace Sys2Proof.Machine

/-- 24 h in ns. -/
def dayNs : Nat := 86400000000000

/-- Has a lane gone 24 h without a complete self-test (R158)? -/
def State.testLate (s : State) (n : Nat) : Bool := s.laneRole n ≠ 3 && decide (s.now ≥ (s.laneRt n).testAt + dayNs)

/-- A lane has completed the self-test: its age counts from now, and TESTLATE falls once no lane is late. -/
def State.laneTested (s : State) (n : Nat) : State :=
  let s := s.modLane n (fun l => { l with testAt := s.now, step := 0 })
  if s.flag XNG_STAT_TESTLATE && !(List.range 96).any s.testLate then s.setF XNG_STAT_TESTLATE 0 else s

/-- The full self-test of a lane ends: of a quarantined lane (R153) or of one tested by command (R162). A failed test retires the lane. -/
def State.fullTestEnd (s : State) (n : Nat) (pass : Bool) : State :=
  let l := s.laneRt n
  let s := (s.laneTested n).setF XNG_LANESTAT_INTEST 0 n
  if !pass then s.retireLane n
  else if l.testing then
    let t := l.lastFault.getD s.now
    let s := s.modLane n (fun x => { x with testing := false, comparator := false, faults := t :: s.transients n })
    (s.setF XNG_LANESTAT_ROLE (b2n l.reserve) n).laneCounts
  else s.modLane n (fun x => { x with cmdTest := false, full := false })

/-- LANE_SELF_TEST_COMPLETE (R153, R162): of a quarantined lane, or of one whose test by command runs. -/
def execLaneSelfTestComplete (lane : LaneNo) (pass : Bool) (s : State) : Host.Outcome State Fault Refusal :=
  done (
    let n := lane.val
    let l := s.laneRt n
    if (l.testing && s.laneRole n = 2) || l.full then s.fullTestEnd n pass else s)

/-- Is a cyclic task that waits released at the next base tick: one owed, or its grid (R25, R37, R38)? -/
def State.dueNext (s : State) (t : Nat) : Bool :=
  s.kind t = 0 && s.getF SCH_TASKSTAT_STATE t = 1 &&
  (match (s.taskRt t).owed with
   | some (g, r) => decide (s.tick + 1 ≥ r) && decide (s.tick + 1 ≥ g)
   | none => s.gridFrom t (s.tick + 1) = s.tick + 1)

/-- Does the release schedule of a quarter leave a lane idle for a whole step: no cycle waits for lanes, and the tasks released at the next base tick find
enough idle ones without it (R158; a step may run on into the next base tick, log entry 75)? -/
def State.leavesIdle (s : State) (n : Nat) : Bool :=
  let q := laneQuarter n
  let due := (s.taskNos.filter (fun t => s.quarterOf t = q && s.dueNext t)).map (fun t => s.getF SCH_TASKPHASE_LANES t)
  (s.runsIn q (fun r => r.ctx ≠ .spec && s.dispatchable r)).isEmpty && s.laneFree n &&
  decide (due.foldl (· + ·) 0 + 1 ≤ (s.idle q).length)

/-- May a step of the rotating self-test begin on a lane (R158): a reserve lane that replaces none, or, in a quarter without a reserve lane, an assignable
lane that the release schedule leaves idle? -/
def State.stepOk (s : State) (n : Nat) : Bool :=
  let l := s.laneRt n
  !l.cmdTest && !l.testing && !l.promote && !l.subst && !s.laneHeld n && !s.flag XNG_LANESTAT_INTEST n &&
  (s.laneRole n = 1 || (s.laneRole n = 0 && (s.inRole (quarterLanes (laneQuarter n)) 1).isEmpty && s.leavesIdle n))

/-- A reserve lane whose test is complete leaves the reserve role to an idle assignable lane of its quarter, so that every lane of the quarter
comes to be tested (R158). -/
def State.rotate (s : State) (n m : Nat) : State :=
  if s.laneRole n = 1 && !(s.laneRt n).subst && !(s.laneRt n).promote && s.laneRole m = 0 && laneQuarter m = laneQuarter n && s.laneFree m then
    (s.setF XNG_LANESTAT_ROLE 0 n).setF XNG_LANESTAT_ROLE 1 m
  else s

/-- SELF_TEST_STEP (R158): a step of 20 µs ends on one lane, the 2,000th completing its test, and a step begins on another. A failed step
retires the lane (log entry 22). -/
def execSelfTestStep (ended : Option LaneNo) (pass : Bool) (next swap : Option LaneNo) (s : State) : Host.Outcome State Fault Refusal :=
  done (
    let s := match ended with
      | none => s
      | some l =>
        let n := l.val
        if !s.flag XNG_LANESTAT_INTEST n || (s.laneRt n).testing || (s.laneRt n).full then s
        else
          let s := (s.setF XNG_LANESTAT_INTEST 0 n).fullStart n
          if !pass then s.retireLane n
          else
            let k := (s.laneRt n).step + 1
            if k < 2000 then s.modLane n (fun x => { x with step := k })
            else
              let s := s.laneTested n
              match swap with
              | some m => s.rotate n m.val
              | none => s
    match next with
    | some l => if s.stepOk l.val then s.setF XNG_LANESTAT_INTEST 1 l.val else s
    | none => s)

/-- The item after another in the rotation of Table 6-2. -/
def nextItem (i : Nat) : Nat := if i ≥ 10 then 1 else i + 1

/-- Is an injection due on a lane by the end of the present base tick: INJIVL ms after the latest one (R159)? -/
def State.injDue (s : State) (n : Nat) : Bool := decide ((s.laneRt n).injAt + s.getF XNG_CTL_INJIVL * 1000000 < s.now + 62500)

/-- MISMATCH_INJECTION (R159): one bit of one shadow item is inverted, items and bit positions in rotation. A detected injection is discarded; one that is
not detected is a comparator fault, a lane fault with INJ = 1. On a lane that holds no stream, task, stream and PC are latched and recorded as 0 (DESIGN
CHOICE, log entry 76). -/
def execMismatchInjection (lane : LaneNo) (detected : Bool) (s : State) : Host.Outcome State Fault Refusal :=
  done (
    let n := lane.val
    let l := s.laneRt n
    if !s.flag XNG_CTL_INJEN || s.laneRole n = 3 || l.testing || l.full || s.flag XNG_LANESTAT_INTEST n || !s.injDue n then s
    else
      let s := s.modLane n (fun x => { x with injItem := nextItem x.injItem, injBit := if x.injItem ≥ 10 then (x.injBit + 1) % 64 else x.injBit,
                                              injAt := s.now })
      if detected then s
      else
        let s := s.bump XNG_FLTCNT_INJFAIL
        match s.sched.runs.find? (fun p => p.2.streams.any (fun x => x.lane = some n)) with
        | none => s.laneFault n l.injItem 0 0 0 false false true
        | some p =>
          let r := p.2
          let k := (r.streams.findIdx? (fun x => x.lane = some n)).getD 0
          let pc := ((r.streams[k]?).map StreamRt.pc).getD 0
          let s := s.laneFault n l.injItem r.task k pc (decide (r.ctx = .spec)) (decide (r.ctx = .audit)) true
          match s.taskDef? r.task with
          | some d => (s.runFault r d).settle r.task
          | none => s)

/-- Offset of XNG_CMD. -/
def xngCmdOff : Nat := 0x40030

/-- Would every task of a lane's quarter keep enough assignable lanes without it and without the others that a TEST holds (R162)? -/
def State.quarterKeeps (s : State) (n : Nat) : Bool :=
  let q := laneQuarter n
  let held := ((quarterLanes q).filter (fun m => m ≠ n && s.laneRole m = 0 && (s.laneRt m).cmdTest)).length
  s.cfg.tasks.all (fun d => s.getF SCH_TASKPHASE_QUARTER d.no.val ≠ q || decide (s.getF SCH_TASKPHASE_LANES d.no.val + held + 1 ≤ s.assignable q))

/-- TEST (R162): accepted for a reserve lane, and for an assignable lane whose quarter keeps enough lanes; the lane is not dispatched until the full
self-test has ended. -/
def State.cmdXngTest (s : State) (path : Path) (lane : BitVec 7) : State :=
  let n := lane.toNat
  if n ≥ 96 then s.ignored path xngCmdOff 5
  else if s.laneRole n ≥ 2 || (s.laneRole n = 0 && !s.quarterKeeps n) then s.ignored path xngCmdOff 4
  else (s.modLane n (fun l => { l with cmdTest := true })).fullStart n
/-- TEST (R162): the write reaches its block, which takes it as `State.cmdXngTest` says. -/
def execXngTest (path : Path) (lane : BitVec 7) (s : State) : Host.Outcome State Fault Refusal := done (s.written path xngCmdOff (fun s => s.cmdXngTest path lane))

/-- RETIRE (R154, R162): with SAFETY-EDIT in its edit position; the lane leaves dispatch at once. -/
def State.cmdXngRetire (s : State) (path : Path) (lane : BitVec 7) : State :=
  let n := lane.toNat
  if !s.safetyEdit then s.ignored path xngCmdOff 1
  else if n ≥ 96 then s.ignored path xngCmdOff 5
  else if s.laneRole n = 3 then s.ignored path xngCmdOff 4
  else s.retireLane n
/-- RETIRE (R154, R162): the write reaches its block, which takes it as `State.cmdXngRetire` says. -/
def execXngRetire (path : Path) (lane : BitVec 7) (s : State) : Host.Outcome State Fault Refusal := done (s.written path xngCmdOff (fun s => s.cmdXngRetire path lane))

/-- LANE_TEST_LATE (R158): a lane has gone 24 h without a complete self-test. -/
def execLaneTestLate (lane : LaneNo) (s : State) : Host.Outcome State Fault Refusal :=
  done (if s.testLate lane.val && !s.flag XNG_STAT_TESTLATE then (s.setF XNG_STAT_TESTLATE 1).evHw 9 [lane.val] else s)

/-- PARKED_QUARTER_TEST (R471): a quarter parked in P2 for 8 h tests all its lanes and parks again. -/
def execParkedQuarterTest (q : Quarter) (bad : List LaneNo) (s : State) : Host.Outcome State Fault Refusal :=
  done (
    match s.kerb.p2.find? (fun p => p.1 = q.val) with
    | none => s
    | some p =>
      if s.now < p.2 + 28800000000000 then s
      else
        let s := { s with kerb := { s.kerb with p2 := s.kerb.p2.map (fun x => if x.1 = q.val then (x.1, s.now) else x) } }
        (quarterLanes q.val).foldl (fun s n =>
          if s.laneRole n = 3 then s
          else if bad.any (fun b => b.val = n) then (s.laneTested n).retireLane n
          else s.laneTested n) s)

end Sys2Proof.Machine
end

