-- ==== Sys2Proof/Machine/Kerb.lean ====
section
/-! DEFINITION. The Kerb and the supplies (01, R16 to R23; 18, R461 to R473, R483): heartbeats, the Kerb set, last words, the lane clock, the
capped state and the power states. -/
namespace Sys2Proof.Machine

/-- Change the Kerb. -/
def State.modKerb (s : State) (f : KerbRt → KerbRt) : State := { s with kerb := f s.kerb }

/-! ### Block status (R488, R496) -/

/-- BLKSTATLO.FAULT: the fault conditions of the block's chapter that its registers show (log entry 23). -/
def State.blkFault (s : State) (b : Nat) : Bool :=
  match b with
  | 0x00 => s.flag KRB_HBCFG_TRIPPED || s.flag KRB_SWSTAT_SAFEFLT || s.flag KRB_SWSTAT_UPDFLT
  | 0x01 => s.flag PWR_STAT_STOREFLT
  | 0x04 => s.flag XNG_LASTFLT_VALID
  | 0x06 => s.flag SQR_ECCSTAT_PMAPERR
  | 0x07 => s.flag ACU_FLTHI_VALID
  | 0x09 => s.flag PAR_STAT_FENCEFLT || s.flag PAR_STAT_CFGSPLIT || s.flag PAR_STAT_SEATCLASH
  | 0x0C => s.flag SFY_STAT_TRIP || s.flag SFY_STAT_SWFLT
  | 0x12 => s.flag BOT_FUSESTAT_IDMARG
  | _ => false

/-- BLKSTATLO.WARN: the warning conditions of the block's chapter that its registers show (log entry 23). -/
def State.blkWarn (s : State) (b : Nat) : Bool :=
  match b with
  | 0x00 => s.flag KRB_STAT_PARTNERNEW || s.flag KRB_STAT_MOVED
  | 0x01 => s.flag PWR_STAT_TWARN || s.flag PWR_STAT_CAPPED
  | 0x02 => s.flag TIM_STAT_HOLDOVER || s.flag TIM_STAT_DOMSPLIT
  | 0x04 => s.flag XNG_STAT_LANESHORT || s.flag XNG_STAT_TESTLATE || decide (s.getF XNG_STAT_QPARKED ≠ 0)
  | 0x06 => s.flag SQR_ECCSTAT_PASSLATE || s.flag SQR_ECCSTAT_SPAREOUT
  | 0x09 => s.flag PAR_STAT_RETSPLIT
  | 0x0C => s.flag SFY_STAT_DEGR || s.flag SFY_STAT_UNVAL
  | 0x11 => s.flag ARC_STAT_OVERBUDGET || s.flag ARC_STAT_HOT
  | 0x12 => s.flag BOT_FUSESTAT_CFGMARG || s.flag BOT_FUSESTAT_NEWMARG
  | _ => false

/-- The word of BLKSTATLO. -/
def State.blkLo (s : State) (b : Nat) : Nat :=
  b2n (s.blkReady b) + 2 * b2n (s.blkFault b) + 4 * b2n (s.blkWarn b) + 2 ^ 8 * s.getF (ignCnt b) + 2 ^ 16 * s.getF (lastWr b)

/-! ### The Kerb set (R19 to R23) -/

/-- The lane clock in MHz (Table 1-3). -/
def laneMhz (c : Nat) : Nat := 2000 - 400 * min c 4

/-- What the last-words record takes at the decision (Table 1-7). -/
def State.kset (s : State) (cause : Nat) : KSet :=
  { cause := cause, time := s.now, csn := s.sq.csn, epoch := s.epoch,
    role := match s.getF PAR_STAT_ROLE with | 2 => 1 | 1 => 0 | _ => 2,
    seat := s.seat, hb := s.getF KRB_HBCFG_HBSEEN, pstate := s.getF PWR_STAT_PSTATE,
    mains := s.getF PWR_MAINSA_V + 2 ^ 16 * s.getF PWR_MAINSB_V, temps := s.getF PWR_TEMP_INLET + 2 ^ 16 * s.getF PWR_TEMP_DIE,
    clk := laneMhz (s.getF PWR_STAT_LANECLK), blocks := (List.range 19).map (fun b => s.blkLo b + 2 ^ 32 * s.getF (wrCnt b)) }

/-- The bytes of a last-words record. -/
def lastWordsBytes (seq : Nat) (k : KSet) (fail : Nat) : List Byte :=
  let h := natLe 4 0x4C575244 ++ natLe 4 seq ++ natLe 8 (k.time / 1000000000 % 2 ^ 48) ++ natLe 4 (k.time % 1000000000) ++ natLe 4 k.cause ++
    natLe 8 k.csn ++ natLe 4 k.epoch ++ natLe 1 k.role ++ natLe 1 k.seat ++ natLe 1 k.hb ++ natLe 1 k.pstate ++ natLe 4 k.mains ++
    natLe 4 k.temps ++ natLe 2 k.clk ++ natLe 2 0 ++ natLe 8 fail ++ (k.blocks ++ List.replicate (24 - k.blocks.length) 0).flatMap (natLe 8)
  h ++ natLe 4 (crc32c h)

/-- Commit a record to the MRAM ring of 64 slots (R22). -/
def State.putLastWords (s : State) (k : KSet) (fail : Nat) : State :=
  let s := s.modKerb (fun x => { x with lastWords := lastN 64 (x.lastWords ++ [lastWordsBytes x.lwSeq k fail]), lwSeq := (x.lwSeq + 1) % 2 ^ 32,
                                        lwCause := k.cause, kset := none })
  s.setF BOT_RSTCAUSE_LWCAUSE k.cause

/-- The main domains fall and the module is in state K (R16, R20, R21): FENCE asserted, outputs safe, no part in the pair. -/
def State.enterK (s : State) : State :=
  let s := (s.loseRole 8).kerbDrive true
  let s := (s.setF KRB_HBCFG_TRIPPED 1).setF PWR_STAT_PSTATE 4
  s.modKerb (fun x => { x with phase := .off, wake := none, deeper := none, p2 := [], okSince := none })

/-- The plant network engine is asked to stop every OUTPUT, PEER and BEACON frame (R23, R296). One that has missed no heartbeat obeys; whether one that has
does is a free value (log entry 99). -/
def State.askStop (s : State) : State :=
  if tabGet 0 s.kerb.miss 7 = 0 then s.setF PNE_CTL_KERBSTOP 1
  else let r := s.free; r.2.setB PNE_CTL_KERBSTOP (bitOf r.1 0)

/-- The Kerb decides the Kerb set; a decision is not repeated (R21). -/
def State.kerbSet (s : State) (cause : Nat) : State :=
  if s.kerb.phase = .off then s
  else
    let k := s.kset cause
    s.askStop.enterK.modKerb (fun x => { x with kset := some k })

/-- LAST_WORDS_COMMIT (R22): after the readback, which found the outputs of `fail` not safe. -/
def execLastWordsCommit (fail : BitVec 40) (s : State) : Host.Outcome State Fault Refusal :=
  done (match s.kerb.kset with | some k => s.putLastWords k fail.toNat | none => s)

/-! ### Heartbeats (R17) -/

/-- Is a source watched? -/
def State.isWatched (s : State) (n : Nat) : Bool := bitOf (s.getF KRB_HBCFG_WATCHED) n

/-- HEARTBEAT (R17, R21): a Square controller whose page map is in doubt sends none (R170); otherwise the source was heard in this base tick; a quarter that has been unparked is watched again. -/
def execHeartbeat (src : Fin 8) (s : State) : Host.Outcome State Fault Refusal :=
  done (
    let n := src.val
    if n = 6 && s.flag SQR_ECCSTAT_PMAPERR then s
    else
    let s := s.modKerb (fun k => { k with hb := k.hb ||| 2 ^ n, miss := tabDel k.miss n })
    if n < 6 && !s.isWatched n && !s.qParked n && !s.qAsleep n then s.setF KRB_HBCFG_WATCHED (s.getF KRB_HBCFG_WATCHED ||| 2 ^ n) else s)

/-- The watch at a base tick: HBSEEN, and the base ticks that each watched source has missed. -/
def State.hbTick (s : State) : State :=
  let seen := s.kerb.hb
  let s := s.setF KRB_HBCFG_HBSEEN seen
  s.modKerb (fun k => { k with hb := 0, miss := (List.range 8).foldl (fun m n =>
    if bitOf seen n || !s.isWatched n then tabDel m n else tabSet m n (tabGet 0 m n + 1)) k.miss })

/-- WEDGE_DECISION (R17, R19): a watched source has sent no heartbeat for TIMEOUT base ticks. `ticks` are those the Kerb's own clock has counted
since the last base tick of the local clock. -/
def execWedgeDecision (src : Fin 8) (ticks : Nat) (s : State) : Host.Outcome State Fault Refusal :=
  done (
    if s.isWatched src.val && decide (tabGet 0 s.kerb.miss src.val + ticks ≥ s.getF KRB_HBCFG_TIMEOUT) then s.kerbSet 1 else s)

/-! ### Sensors (Table 18-12) -/

/-- The registers take what the sensors show. -/
def State.sense (s : State) (m : PwrMeas) : State :=
  let put (s : State) (lo hi : Fld) (w : W32) : State := (s.setF lo w.toNat).setF hi (bits w.toNat 16 16)
  let s := put s PWR_MAINSA_V PWR_MAINSA_I m.mainsA
  let s := put s PWR_MAINSB_V PWR_MAINSB_I m.mainsB
  let s := put s PWR_BUS_V PWR_BUS_CHARGE m.bus
  let s := put s PWR_TEMP_INLET PWR_TEMP_DIE m.temp
  let s := put s PWR_TEMP2_COLD PWR_TEMP2_STACK m.temp2
  let s := put s PWR_FLOW_FLOW PWR_FLOW_OUTLET m.flow
  put s PWR_POWER_DRAW PWR_POWER_PEAK m.power

/-- Temperatures in 0.1 °C: the hottest die, the hottest Square stack, the cold plate. -/
def State.temps (s : State) : Int × Int × Int :=
  (sgn 16 (s.getF PWR_TEMP_DIE), sgn 16 (s.getF PWR_TEMP2_STACK), sgn 16 (s.getF PWR_TEMP2_COLD))

/-- Is some sensor at or above its threshold of Table 18-3? -/
def State.hotAt (s : State) (die stack plate : Int) : Bool :=
  decide (s.temps.1 ≥ die) || decide (s.temps.2.1 ≥ stack) || decide (s.temps.2.2 ≥ plate)

/-- TWARN follows the sensors; reaching a warning threshold is recorded (R468). -/
def State.warnTemps (s : State) : State :=
  let hot := s.hotAt 1000 900 850
  if hot && !s.flag PWR_STAT_TWARN then (s.setF PWR_STAT_TWARN 1).evHw 35 [s.getF PWR_TEMP_DIE, s.getF PWR_TEMP2_STACK, s.getF PWR_TEMP2_COLD]
  else s.setB PWR_STAT_TWARN hot

/-- A power event brings the sensors' values. -/
def State.measure (s : State) (m : PwrMeas) : State := (s.sense m).warnTemps

/-! ### The lane clock (R465 to R468) -/

/-- The lane clock in force: the lowest of the sag step, the thermal step, the cap and the store's. -/
def State.laneClock (s : State) : State :=
  let c := max (max s.kerb.sag s.kerb.therm) (max (if s.flag PWR_STAT_CAPPED then 3 else 0) (if s.flag PWR_STAT_STOREFLT then 1 else 0))
  ((s.setF PWR_STAT_LANECLK c).setB PWR_STAT_SAG (s.kerb.sag ≠ 0)).setB PWR_STAT_THERM (s.kerb.therm ≠ 0)

/-- The sag step that a bus voltage in 10 mV permits (Table 18-2). -/
def sagOf (v : Nat) : Nat := if v ≥ 4600 then 0 else if v ≥ 4400 then 1 else if v ≥ 4200 then 2 else if v ≥ 4000 then 3 else 4
/-- The threshold of a sag step, in 10 mV. -/
def sagFloor (c : Nat) : Nat := match c with | 0 => 4600 | 1 => 4400 | 2 => 4200 | 3 => 4000 | _ => 3600

/-- A change of the sag step. -/
def State.setSag (s : State) (c : Nat) : State :=
  if c = s.kerb.sag then s
  else ((s.bump PWR_STAT_SAGCNT).evHw 32 [s.kerb.sag, c] |>.modKerb (fun k => { k with sag := c })).laneClock

/-- A change of the thermal step. -/
def State.setTherm (s : State) (c : Nat) : State :=
  if c = s.kerb.therm then s
  else ((s.bump PWR_STAT_THCNT).evHw 33 [s.kerb.therm, c] |>.modKerb (fun k => { k with therm := c })).laneClock

/-- SAG_STEP_DOWN (R466): V_B has fallen below the threshold of the step in force. -/
def execSagStepDown (m : PwrMeas) (s : State) : Host.Outcome State Fault Refusal :=
  done (
    let s := s.measure m
    let c := sagOf (s.getF PWR_BUS_V)
    if c > s.kerb.sag then s.setSag c else s)

/-- SAG_STEP_UP (R466): V_B has stayed at least 1.0 V above the threshold of the next higher step for 50 ms; one step. -/
def execSagStepUp (m : PwrMeas) (s : State) : Host.Outcome State Fault Refusal :=
  done (
    let s := s.measure m
    if s.kerb.sag > 0 && decide (s.getF PWR_BUS_V ≥ sagFloor (s.kerb.sag - 1) + 100) then s.setSag (s.kerb.sag - 1) else s)

/-- THERMAL_STEP_DOWN (R468): some sensor is at or above its cap threshold. -/
def execThermalStepDown (m : PwrMeas) (s : State) : Host.Outcome State Fault Refusal :=
  done (
    let s := s.measure m
    if s.hotAt 1050 950 32768 then s.setTherm (min 4 (s.kerb.therm + 1)) else s)

/-- THERMAL_STEP_UP (R468): every sensor has been at least 5 K below its cap threshold for 10 s. -/
def execThermalStepUp (m : PwrMeas) (s : State) : Host.Outcome State Fault Refusal :=
  done (
    let s := s.measure m
    if !decide (s.temps.1 > 1000) && !decide (s.temps.2.1 > 900) then s.setTherm (s.kerb.therm - 1) else s)

/-- STORE_FAULT (R464): the peak store's capacity is below 50 %. -/
def execStoreFault (m : PwrMeas) (s : State) : Host.Outcome State Fault Refusal :=
  done (
    let s := s.measure m
    if s.flag PWR_STAT_STOREFLT then s else ((s.setF PWR_STAT_STOREFLT 1).evHw 34 [s.getF PWR_BUS_CHARGE]).laneClock)

/-- TEMPERATURE_WARNING (R468). -/
def execTemperatureWarning (m : PwrMeas) (s : State) : Host.Outcome State Fault Refusal := done (s.measure m)

/-- TEMPERATURE_CRITICAL (R19, R468): a critical limit is reached. -/
def execTemperatureCritical (m : PwrMeas) (s : State) : Host.Outcome State Fault Refusal :=
  done (
    let s := s.measure m
    if s.hotAt 1250 1050 950 then s.kerbSet 3 else s)

/-! ### Mains (R462, R463) -/

/-- PWR_STAT.MAINSA or MAINSB. -/
def mainsFld (b : Bool) : Fld := if b then PWR_STAT_MAINSB else PWR_STAT_MAINSA

/-- MAINS_INPUT_CHANGE (R462, R463): input A or B becomes absent, its voltage having left the range at `at_`, or present again. The absence of an
input that MAINSCFG does not name is no warning, so it is not recorded. Where both were absent for less than 12 ms, the duration is recorded. -/
def execMainsInputChange (b present : Bool) (at_ : Nat) (m : PwrMeas) (s : State) : Host.Outcome State Fault Refusal :=
  done (
    let s := s.measure m
    if s.flag (mainsFld b) = present then s
    else
      let cfg := s.getF PWR_CTL_MAINSCFG
      let named : Bool := cfg = 0 || (cfg = 1 && !b) || (cfg = 2 && b)
      let other := s.flag (mainsFld (!b))
      let outs := s.kerb.mainsOut
      let s := s.setB (mainsFld b) present
      let s := if present || named then s.evHw 30 [b2n b, b2n present] else s
      if present then
        let s := match other, tabGet? outs 0, tabGet? outs 1 with
          | false, some x, some y => if at_ < max x y + 12000000 then s.evHw 31 [at_ - max x y] else s
          | _, _, _ => s
        s.modKerb (fun k => { k with mainsOut := tabDel k.mainsOut (b2n b) })
      else s.modKerb (fun k => { k with mainsOut := tabSet k.mainsOut (b2n b) at_ }))

/-- MAINS_LOSS_DECISION (R19): both mains inputs have been absent for 12 ms. -/
def execMainsLossDecision (m : PwrMeas) (s : State) : Host.Outcome State Fault Refusal :=
  done (
    let s := s.measure m
    if !s.flag PWR_STAT_MAINSA && !s.flag PWR_STAT_MAINSB then s.kerbSet 2 else s)

/-- BUS_UNDERVOLTAGE (R463): the internal bus falls below 36 V. -/
def execBusUndervoltage (m : PwrMeas) (s : State) : Host.Outcome State Fault Refusal :=
  done (
    let s := s.measure m
    if s.getF PWR_BUS_V < 3600 then s.kerbSet 2 else s)

/-- Offset of PWR_CMD. -/
def pwrCmdOff : Nat := 0x10030

/-- KERBSTOP (R483): through a management port only. -/
def State.cmdKerbstop (s : State) (path : Path) : State :=
  match path with | .mgmt _ => s.kerbSet 4 | .queue _ => s.ignored path pwrCmdOff 7
/-- KERBSTOP (R483): the write reaches its block, which takes it as `State.cmdKerbstop` says. -/
def execKerbstop (path : Path) (s : State) : Host.Outcome State Fault Refusal := done (s.written path pwrCmdOff (fun s => s.cmdKerbstop path))

/-! ### Cooling (R473) -/

/-- The capped state begins: the clock, the end of speculation (R138), and the request for a switch-over where none is scheduled. -/
def State.enterCapped (s : State) : State :=
  if s.flag PWR_STAT_CAPPED then s
  else
    let s := (s.setF PWR_STAT_CAPPED 1).laneClock
    if s.isLead && s.pair.switchAt.isNone && s.pair.partner.any (fun h => (h.state = 3 || h.state = 4) && !h.capped) then s.switchRequest.2 else s

/-- COOLANT_LOSS (R473, R482): the flow has read below 1.0 L/min for 5 s. Before step 5 of a restart it has no effect yet. -/
def execCoolantLoss (m : PwrMeas) (s : State) : Host.Outcome State Fault Refusal :=
  done (
    let s := s.measure m
    if s.getF PWR_FLOW_FLOW ≥ 100 then s
    else
      let s := (s.setF PWR_STAT_COOLOK 0).modKerb (fun k => { k with coolGone := true })
      let s := s.evHw 36 [0]
      if s.kerb.phase = .boot && s.getF BOT_STAT_STEP < 5 then s else s.enterCapped)

/-- COOLANT_RESTORED (R473): the flow has stayed at 2 L/min or more for 30 s. -/
def execCoolantRestored (m : PwrMeas) (s : State) : Host.Outcome State Fault Refusal :=
  done (
    let s := s.measure m
    if s.getF PWR_FLOW_FLOW < 200 then s
    else
      let s := (s.setF PWR_STAT_COOLOK 1).modKerb (fun k => { k with coolGone := false })
      ((s.setF PWR_STAT_CAPPED 0).laneClock).evHw 36 [1])

/-! ### Power states (R469 to R471) -/

/-- TOL: the lowest LATENCY in µs that an open session has declared. -/
def State.tolerance (s : State) : Option Nat :=
  s.host.sess.foldl (fun t x =>
    match t, x.2.latency with
    | some a, some b => some (min a b)
    | none, b => b
    | a, none => a) none

/-- Wake latency of a power state in µs, rounded up (Table 18-4). -/
def wakeUs (p : Nat) : Nat := match p with | 1 => 1 | 2 => 2000 | 3 => 30 | _ => 0

/-- Does a quarter hold neither a started task nor a speculative run? -/
def State.quarterIdle (s : State) (q : Nat) : Bool :=
  !s.cfg.tasks.any (fun d => s.getF SCH_TASKPHASE_QUARTER d.no.val = q &&
    (s.getF SCH_TASKSTAT_STATE d.no.val = 1 || s.getF SCH_TASKSTAT_STATE d.no.val = 2 || (s.run? .spec d.no.val).isSome))

/-- The quarters that park in P2: the three highest-numbered idle ones, if there are three. -/
def State.parkSet (s : State) : List Nat :=
  let l := ([5, 4, 3, 2, 1, 0].filter s.quarterIdle).take 3
  if l.length = 3 then l else []

/-- The deepest permitted state. -/
def State.deepest (s : State) : Nat :=
  let st := s.getF PAR_STAT_STATE
  let ok (p : Nat) : Bool :=
    decide (p ≤ s.getF PWR_CTL_MAXSTATE) && (match s.tolerance with | none => true | some t => decide (wakeUs p ≤ t)) &&
    (match p with | 3 => st = 2 || st = 3 | 2 => !s.parkSet.isEmpty | _ => true)
  (([3, 2, 1].filter ok).head?).getD 0

/-- Enter P0 to P3: in P2 the quarters of the park set are parked and leave the watched set. -/
def State.enterP (s : State) (p : Nat) : State :=
  let l := if p = 2 then s.parkSet else []
  let s := s.setF PWR_STAT_PSTATE p
  let s := s.setF KRB_HBCFG_WATCHED (l.foldl (fun w q => w &&& (255 - 2 ^ q)) (s.getF KRB_HBCFG_WATCHED))
  s.modKerb (fun k => { k with p2 := l.map (fun q => ((k.p2.find? (fun p => p.1 = q)).getD (q, s.now))), wake := none, deeper := none })

/-- What a base tick does for the power state (R470): TOL, a deeper state chosen at the last tick, a deeper one for the next, or the start of a
wake. -/
def State.powerTick (s : State) : State :=
  let s := s.setF PWR_TOL_TOL (s.tolerance.getD 0xFFFFFFFF)
  let s := match s.kerb.deeper with | some d => if d ≤ s.deepest then s.enterP d else s.modKerb (fun k => { k with deeper := none }) | none => s
  let cur := s.getF PWR_STAT_PSTATE
  let d := s.deepest
  if d > cur then s.modKerb (fun k => { k with deeper := some d })
  else if d < cur || (cur = 2 && s.kerb.p2.any (fun p => !s.parkSet.contains p.1)) then s.modKerb (fun k => { k with wake := some d })
  else s

/-- LATENCY declarations that wait for a wake complete once the state in force meets them (R470). -/
def State.latencyDone (s : State) : State :=
  s.host.sess.foldl (fun s x =>
    let us := wakeUs (s.getF PWR_STAT_PSTATE)
    if x.2.latWait.isEmpty || !(match x.2.latency with | some t => decide (us ≤ t) | none => true) then s
    else
      let s := s.modSess x.1 (fun y => { y with latWait := [] })
      x.2.latWait.foldl (fun s w =>
        let c : Compl :=
          { status := 0, flags := 0, opcode := 0x10, reqid := w.2, csn := 0, len := 0, detail := 0, data := [], sub := none }
        (s.putCompl x.1 w.1 c).modQp x.1 w.1 (fun y => { y with open_ := y.open_ - 1 })) s) s

/-- POWER_STATE_WAKE_END (R470): the wake has ended. -/
def execPowerStateWakeEnd (s : State) : Host.Outcome State Fault Refusal :=
  done (match s.kerb.wake with | some w => (s.enterP w).latencyDone | none => s)

end Sys2Proof.Machine
end

