-- ==== Sys2Proof/Machine/SquareCmds.lean ====
section
/-! DEFINITION. The Square's own commands (07, R165 to R169, R176 to R190): scrub, sparing, walks, tag edits, invalidations, barriers and
regions; and the set-up items that both modules of a pair apply (R182, R188). -/
namespace Sys2Proof.Machine

/-! ### Scrub and sparing -/

/-- The 64-byte units of 144 GB (R168). -/
def scrubUnits : Nat := 2250000000

/-- Rewrite a poisoned page from the Follower's copy (Table 7-2): a mirrored page of a Lead that has a Follower. -/
def State.healPage (s : State) (a : Nat) (page : Option (List Byte)) : State :=
  match page with
  | none => s
  | some bs =>
    let p := pageOf a
    let mirrored := (List.range 4096).any (fun i => s.carried (p + i))
    if s.hasFollower && inState a && mirrored && bs.length = 4096 then
      { s with sq := { s.sq with mem := memWrL s.sq.mem p bs, poison := clearPoison s.sq.poison p 4096 } }
    else s

/-- What has befallen the hardware: errors that no read has met yet; a record struck while it waits in the staging area, whose bytes read 0 from then on and
whose flag says so (Table 7-2, Table 16-5; its header is written when it is programmed, log entry 92). -/
def State.strike (s : State) (h : HwErr) : State :=
  match h with
  | .cell u c l => { s with sq := { s.sq with cells := s.sq.cells ++ [(u.toNat * 64, c, l)] } }
  | .map p a b => { s with sq := { s.sq with mapErrs := s.sq.mapErrs.filter (fun e => e.1 ≠ p.toNat * 4096) ++ [(p.toNat * 4096, a.val, b.val)] } }
  | .staged ev q u =>
    let hit (r : ArcRec) : ArcRec :=
      if r.prog || r.seq ≠ q then r
      else { r with flags := r.flags ||| 1, payload := r.payload.mapIdx (fun i b => if (i + 0x30) / 64 = u then 0 else b) }
    let s := s.bump SQR_ECCSTAT_UECNT
    if ev then { s with arc := { s.arc with evs := s.arc.evs.map hit } } else { s with arc := { s.arc with cyc := s.arc.cyc.map hit } }

/-- The scrub reads a unit: nothing, an error it corrects, or one it cannot: the unit is poisoned, and its page may come from the Follower. -/
def State.scrubUnit (s : State) (a : Nat) (page : Option (List Byte)) : State :=
  let n := s.sq.csn
  let bad := !(s.strikes a 64 n).isEmpty
  let s := s.meet a 64 n
  if bad then s.healPage a page else s

/-- One unit further in the pass; after the last one a pass begins. -/
def State.scrubNext (s : State) : State :=
  if s.sq.scrubbed + 1 ≥ scrubUnits then { s with sq := { s.sq with scrubbed := 0, scrubStart := s.now } }
  else { s with sq := { s.sq with scrubbed := s.sq.scrubbed + 1 } }

/-- PATROL_SCRUB (R168): one unit is read and corrected, in P0 to P3, after what has befallen the DRAM meanwhile (`hw`). A pass that has taken more than 70 min sets PASSLATE. -/
def execPatrolScrub (unit : BitVec 34) (hw : List HwErr) (page : Option (List Byte)) (s : State) : Host.Outcome State Fault Refusal :=
  done (
    if s.kerb.phase ≠ .run then s
    else
    let s := (hw.foldl State.strike s).scrubUnit (unit.toNat * 64) page
    (if s.now > s.sq.scrubStart + 4200000000000 then s.setF SQR_ECCSTAT_PASSLATE 1 else s).scrubNext)

/-- The number the model gives the n-th reserve row that is put into service. -/
def reserveRow (n : Nat) : Nat := 2 ^ 40 + n

/-- ROW_SPARING_COMPLETE (R169): the oldest copy under way in a stack is complete; the row map is switched, and the reserve left falls. -/
def execRowSparingComplete (stack : Fin 4) (left : Fin 101) (s : State) : Host.Outcome State Fault Refusal :=
  done (
    match s.sq.sparing.find? (fun p => p.2 = stack.val) with
    | none => s
    | some p =>
      let s := { s with sq := { s.sq with sparing := s.sq.sparing.erase p, ceRows := s.sq.ceRows.filter (fun x => x.1 ≠ p.1),
                                          rowMap := tabSet s.sq.rowMap p.1 (reserveRow s.sq.rowMap.length) } }
      (s.setF (spareFld stack.val) (min left.val (s.getF (spareFld stack.val)))).evHw 12 [p.1, stack.val, left.val])

/-! ### Walks (R176 to R178) -/

/-- What a walk for a lane answers, taken in by its cache; a walk fault is latched. -/
def State.walkTook (s : State) (lane : LaneNo) (tag : Nat) (walked : Except Nat (Nat × Nat)) : State :=
  match walked with
  | .error r => s.latchWalk r tag
  | .ok (w0, w1) => s.modLane lane.val (fun x => x.fill ⟨tag, w0, w1⟩)

/-- A walk for a lane that runs a task. -/
def State.laneWalk (s : State) (lane : LaneNo) (task : TaskNo) (tag : Nat) : State :=
  let s := s.walkMeet tag; s.walkTook lane tag (s.walk (some task.val) tag)
/-- The state that a walk leaves. -/
def walkLeft (r : Except Nat (Nat × Nat) × State) : State := r.2

/-- A walk for the Roundabout and the image mover. -/
def State.hostWalked (s : State) (tag : Nat) : State := walkLeft (s.hostWalk tag)

/-- TAG_WALK: the walker reads the directory entry and the tag entry for a lane that runs a task, or, without one, for the Roundabout and the
image mover; the entry enters that cache, or a walk fault is latched. -/
def execTagWalk (lane : Option LaneNo) (task : TaskNo) (tag : W32) (s : State) : Host.Outcome State Fault Refusal :=
  done (
    match lane with
    | some l => s.laneWalk l task tag.toNat
    | none => s.hostWalked tag.toNat)

/-! ### Edits, invalidations and barriers (R179 to R182, R187, R188) -/

/-- A change made on the Lead: with a Follower it waits for the base tick at which both modules make it, the one after its packet has left (R182); alone it is
made at once. -/
def State.squareShare (s : State) (i : SetupItem) : State :=
  if s.hasFollower then
    State.share { s with sq := { s.sq with edits := s.sq.edits ++ [(i, none)] } } i
  else s.squareItem i

/-- Has the base tick of a waiting change come? -/
def State.editRipe (s : State) (x : SetupItem × Option Nat) : Bool := x.2.any (fun e => decide (e ≤ s.tick))
/-- The changes whose base tick has come. -/
def State.squareTick (s : State) : State :=
  ((s.sq.edits.filter s.editRipe).map Prod.fst).foldl State.squareItem
    { s with sq := { s.sq with edits := s.sq.edits.filter (fun x => !s.editRipe x) } }
/-- Does a change of a kind still wait? -/
def State.editWaits (s : State) (f : SetupItem → Bool) : Bool := s.sq.edits.any (fun x => f x.1)
/-- An invalidation. -/
def isTtc : SetupItem → Bool
  | .ttc _ _ _ => true
  | _ => false

/-- Offsets of SQR_TAGEDCMD and SQR_TTCINV. -/
def tagedOff : Nat := 0x60054
/-- SQR_TTCINV. -/
def ttcinvOff : Nat := 0x60038

/-- A refused edit. -/
def State.editRefused (s : State) (p : Path) (cause : Nat) : State := (s.ignored p tagedOff cause).setF SQR_TAGEDCMD_REFUSED 1

/-- The edited entry: its address, its bytes and whether it or the entry before it is a safety entry (SAFE = 1, valid or not). -/
def State.editEntry (s : State) (dir : Bool) : Option (Nat × List Byte × Bool) :=
  let id := s.getF SQR_TAGEDID_ID
  let w (f : Fld) : List Byte := natLe 4 (s.getF f)
  if dir then some (storeBase s.actStore + 0x20000000 + bits id 0 12 * 8, w SQR_TAGEDW0_DATA ++ w SQR_TAGEDW1_DATA, false)
  else
    let d := leNat (s.sq.bytes (s.dirAddr id) 8)
    let a := bits d 12 28 * 4096 + bits id 0 12 * 16
    if !bitOf d 0 || !inStore a then none
    else
      let old := leNat (s.sq.bytes a 8)
      some (a, w SQR_TAGEDW0_DATA ++ w SQR_TAGEDW1_DATA ++ w SQR_TAGEDW2_DATA ++ w SQR_TAGEDW3_DATA,
            teSafe old || teSafe (s.getF SQR_TAGEDW0_DATA))

/-- WRITE (R179, R182): the entry, and with INV = 1 the invalidation of the edited tag, or of every tag of an edited directory entry. -/
def State.cmdTagWrite (s : State) (path : Path) (inv dir : Bool) : State :=
  if s.following then s.editRefused path 3
  else match s.editEntry dir with
    | none => s.editRefused path 5
    | some (a, bs, safe) =>
      if safe && !s.safetyEdit then s.editRefused path 1
      else
        let s := (s.setB SQR_TAGEDCMD_INV inv).setB SQR_TAGEDCMD_DIR dir
        let id := s.getF SQR_TAGEDID_ID
        let s := (s.setF SQR_TAGEDCMD_REFUSED 0).squareShare (.tag a bs)
        if !inv then s
        else
          let s := s.squareShare (if dir then .ttc (bits id 0 12 * 4096) (bits id 0 12 * 4096 + 4095) false else .ttc id id false)
          s.setF SQR_TTCINV_DONE 0
/-- WRITE (R179, R182): the write reaches its block, which takes it as `State.cmdTagWrite` says. -/
def execTagWrite (path : Path) (inv dir : Bool) (s : State) : Host.Outcome State Fault Refusal := done (s.written path tagedOff (fun s => s.cmdTagWrite path inv dir))

/-- GO (R181, R182): invalidate the range, or every entry. -/
def State.cmdTtcGo (s : State) (path : Path) (all : Bool) : State :=
  if s.following then s.ignored path ttcinvOff 3
  else ((s.setB SQR_TTCINV_ALL all).squareShare (.ttc (s.getF SQR_TTCFIRST_TAG) (s.getF SQR_TTCLAST_TAG) all)).setF SQR_TTCINV_DONE 0
/-- GO (R181, R182): the write reaches its block, which takes it as `State.cmdTtcGo` says. -/
def execTtcGo (path : Path) (all : Bool) (s : State) : Host.Outcome State Fault Refusal := done (s.written path ttcinvOff (fun s => s.cmdTtcGo path all))

/-- Is a tag covered by an invalidation? -/
def Inval.covers (i : Inval) (tag : Nat) : Bool := i.all || (decide (i.first ≤ tag) && decide (tag ≤ i.last))

/-- Drop every cached entry of the covered tags. -/
def State.ttcDrop (s : State) (f : Nat → Bool) : State :=
  { s with lanes := s.lanes.map (fun p => (p.1, { p.2 with ttc := p.2.ttc.map (fun e => (e.1, e.2.filter (fun x => !f x.tag))) })),
           sq := { s.sq with host := s.sq.host.filter (fun p => !f p.2.tag) } }

/-- TTC_INVALIDATION_DONE (R181, R127): every translation from now on uses the entries as they stand; the tag-table generation advances. DONE is set unless a
later invalidation still waits for its base tick. -/
def execTtcInvalidationDone (s : State) : Host.Outcome State Fault Refusal :=
  done (
    if s.sq.inval.isEmpty then s
    else
      let l := s.sq.inval
      let s := s.ttcDrop (fun t => l.any (fun i => i.covers t))
      State.genCheck (State.setB { s with sq := { s.sq with inval := [], tagGen := s.sq.tagGen + 1 } } SQR_TTCINV_DONE (!s.editWaits isTtc)))

/-- BARRIER (R187, R188). -/
def State.cmdAcuBarrier (s : State) (path : Path) : State :=
  if s.following then s.ignored path 0x70000 3 else (s.squareShare .barrier).setF ACU_CTL_DONE 0
/-- BARRIER (R187, R188): the write reaches its block, which takes it as `State.cmdAcuBarrier` says. -/
def execAcuBarrier (path : Path) (s : State) : Host.Outcome State Fault Refusal := done (s.written path 0x70000 (fun s => s.cmdAcuBarrier path))

/-- A barrier completes: every ACU has taken every pending change, and the ACU generation advances. -/
def State.acuDone (s : State) : State :=
  let s := s.applyDue .barrier
  let g := s.sq.acuGen + 1
  let s := { s with sq := { s.sq with acuBusy := false, acuGen := g } }
  ((s.setF ACU_STAT_GEN g).setB ACU_CTL_DONE (!s.editWaits (fun i => i = .barrier))).genCheck

/-- ACU_BARRIER_DONE (R187). -/
def execAcuBarrierDone (s : State) : Host.Outcome State Fault Refusal := done (if s.sq.acuBusy then s.acuDone else s)

/-! ### Regions (R184, R186, R188) -/

/-- Does SAFETY-EDIT lock the regions of an ACU_MSEL number: module slots, the set of a safety task, an engine's slots (R188)? -/
def State.acuLocked (s : State) (m : Nat) : Bool :=
  !s.safetyEdit && (m = 0 || m ≥ 0x200 || s.isSafety (m - 0x100))

/-- Is a slot of an ACU_MSEL number defined? -/
def acuSlotOk (m slot : Nat) : Bool :=
  if m = 0 then slot < 8 else if 0x100 ≤ m && m < 0x200 then slot ≥ 8 else 0x200 ≤ m && m ≤ 0x203

/-- The indices of the slots that share an ACU with a slot: for a lane, the module slots and every task set. -/
def acuPeers (m : Nat) : List Nat :=
  if m < 0x200 then (List.range 8) ++ (List.range 256).flatMap (fun t => (List.range 24).map (fun i => (0x100 + t) * 32 + 8 + i))
  else engineSlots m

/-- Is every page of a range of the state space populated (R163)? -/
def State.populated (s : State) (base stop : Nat) : Bool :=
  decide (((s.cfg.pages.filter (fun p => decide (base ≤ p) && decide (p < stop))).eraseDups).length = (stop - base) / 4096)

/-- The first cause for which an enable is refused (R186), 0 if none: for an index, its bounds and its attributes. -/
def State.enableCause (s : State) (m ix base last : Nat) (wr ex dev : Bool) : Nat :=
  let stop := last + 4096
  let inRange (f : Nat → Bool) : Bool := f base && f (stop - 1)
  let holes := !inRange (fun a => !unmapped a) || (!inDevice base && inDevice (stop - 1))
  let store := storeBase s.actStore
  if last < base then 1
  else if holes || (inState base && !s.populated base (min stop 0x8000000000)) then 2
  else if (acuPeers m).any (fun j => j ≠ ix && (match s.region? true j with
      | some r => decide (r.base < stop) && decide (base < r.stop)
      | none => false)) then 3
  else if dev != inRange inDevice then 4
  else if ex && (wr || !(decide (store ≤ base) && decide (stop ≤ store + (s.cfg.codeLen + 4095) / 4096 * 4096))) then 5
  else 0

/-- A region field's write: it waits for the barrier, and travels. -/
def State.acuPut (s : State) (f : Fld) (v ix : Nat) : State :=
  (s.setLater .barrier f v ix).share (.regBarrier (f.key ix) v)

/-- ACU_RATTR_WRITE (R184, R186, R188): the attributes of the selected slot, and its enable, checked and possibly refused. EXEC exists in
lane module slots only. -/
def State.cmdAcuRattrWrite (s : State) (path : Path) (v : W32) : State :=
  let m := s.getF ACU_MSEL_SEL path.code
  let slot := s.getF ACU_RSEL_SLOT path.code
  let ix := m * 32 + slot
  let w := v.toNat
  if s.following then s.ignored path 0x70028 3
  else if !acuSlotOk m slot then s.ignored path 0x70028 5
  else if s.acuLocked m then s.ignored path 0x70028 1
  else
    let ex := bitOf w 3 && m = 0
    let c := if bitOf w 0 then s.enableCause m ix (s.acuBase true ix) (s.acuLimit true ix) (bitOf w 2) ex (bitOf w 4) else 0
    let s := if c = 0 then s else (s.bump ACU_STAT_REFCNT).setF ACU_STAT_REASON c
    let s := (s.acuPut ACU_RATTR_RD (bits w 1 1) ix).acuPut ACU_RATTR_WR (bits w 2 1) ix
    let s := (s.acuPut ACU_RATTR_EXEC (b2n ex) ix).acuPut ACU_RATTR_DEV (bits w 4 1) ix
    s.acuPut ACU_RATTR_EN (b2n (bitOf w 0 && decide (c = 0))) ix
/-- ACU_RATTR_WRITE (R184, R186, R188): the write reaches its block, which takes it as `State.cmdAcuRattrWrite` says. -/
def execAcuRattrWrite (path : Path) (v : W32) (s : State) : Host.Outcome State Fault Refusal := done (s.written path 0x70028 (fun s => s.cmdAcuRattrWrite path v))

end Sys2Proof.Machine
end

