-- ==== Sys2Proof/Machine/Mover.lean ====
section
/-! DEFINITION. The image mover's set-up channels (16, R409 to R417): a descriptor, its runs, and a boundary stop. The other channels work inside
the commands they serve. -/
namespace Sys2Proof.Machine

/-- Offset of IMV_CHCTL. -/
def chctlOff : Nat := 0x80028

/-- The priority of a channel (Table 16-1). -/
def imvPrio (c : Nat) : Nat := if c < 32 then 0 else if c < 48 then 1 else if c < 52 then 2 else if c < 60 then 3 else 4

/-- A write that the image mover ignores: it counts in IMV_CNT too. -/
def State.imvIgnored (s : State) (p : Path) (cause : Nat) : State := (s.ignored p chctlOff cause).bump IMV_CNT_IGNCNT

/-- A descriptor as its registers give it. -/
structure MovDesc where
  src : Nat
  dst : Nat
  len : Nat
  srcFix : Bool
  dstFix : Bool
  width : Nat
  none_ : Bool
  crc : Nat
deriving DecidableEq, Repr

/-- The descriptor of a channel. -/
def State.movDesc (s : State) (c : Nat) : MovDesc :=
  { src := s.get64 IMV_CHSRCLO_ADDR IMV_CHSRCHI_ADDR c, dst := s.get64 IMV_CHDSTLO_ADDR IMV_CHDSTHI_ADDR c, len := s.getF IMV_CHLEN_LEN c,
    srcFix := s.flag IMV_CHCTL_SRCFIX c, dstFix := s.flag IMV_CHCTL_DSTFIX c, width := 2 ^ s.getF IMV_CHCTL_WIDTH c,
    none_ := s.flag IMV_CHCTL_DSTNONE c, crc := s.getF IMV_CHCTL_CRCMODE c }

/-- The bytes a descriptor reads: LEN, or one element of a fixed source, and in mode 11 the CRC that follows. -/
def MovDesc.srcLen (d : MovDesc) : Nat := if d.srcFix then d.width else d.len + (if d.crc = 3 then 4 else 0)
/-- The bytes a descriptor writes to. -/
def MovDesc.dstLen (d : MovDesc) : Nat := if d.dstFix then d.width else d.len + (if d.crc = 2 then 4 else 0)

/-- BADDESC (R415): LEN out of range, a fixed side misaligned, or a CRCMODE that does not fit. -/
def MovDesc.bad (d : MovDesc) : Bool :=
  d.len = 0 || d.len > 16777216 || (d.srcFix && (d.src % d.width ≠ 0 || d.len % d.width ≠ 0)) ||
  (!d.none_ && d.dstFix && (d.dst % d.width ≠ 0 || d.len % d.width ≠ 0)) || (d.crc = 2 && (d.dstFix || d.none_)) || (d.crc = 3 && d.srcFix)

/-- The ACU's check of the whole descriptor (R411): the first refused byte, and whether it is a write's. Device space accepts no write. -/
def State.movRefused (s : State) (d : MovDesc) : Option (Nat × Bool) :=
  match s.engineRefuses false 0x200 (if inDevice d.src then .live else .rd) d.src d.srcLen with
  | some a => some (a, false)
  | none =>
    if d.none_ then none
    else if inDevice d.dst then some (d.dst, true)
    else (s.engineRefuses false 0x200 .wr d.dst d.dstLen).map (fun a => (a, true))

/-- Show a channel busy or not. -/
def State.movBusy (s : State) (c : Nat) (b : Bool) : State :=
  let f := if c < 32 then IMV_BUSY0_MAP else IMV_BUSY1_MAP
  let v := s.getF f
  let bit := 2 ^ (c % 32)
  (s.setB IMV_CHSTAT_BUSY b c).setF f (if b then v ||| bit else if bitOf v (c % 32) then v - bit else v)

/-- A descriptor ends with a result. -/
def State.movEnd (s : State) (c err : Nat) : State :=
  let s := ((s.movBusy c false).setF IMV_CHSTAT_DONE 1 c).setF IMV_CHSTAT_ERR err c
  { s with imv := tabDel s.imv c }

/-- A run starts: it reads the state space at the newest CSN. -/
def State.movRun (s : State) (c : Nat) : State :=
  State.setF { s with imv := tabSet s.imv c ⟨s.sq.csn, s.sq.mem, s.sq.poison, false⟩ } IMV_CHPOS_POS 0 c

/-- The settings a word of IMV_CHCTL carries. -/
def State.chctl (s : State) (c w : Nat) : State :=
  let s := (s.setF IMV_CHCTL_SRCFIX (bits w 2 1) c).setF IMV_CHCTL_DSTFIX (bits w 3 1) c
  let s := (s.setF IMV_CHCTL_WIDTH (bits w 4 2) c).setF IMV_CHCTL_DSTNONE (bits w 6 1) c
  (s.setF IMV_CHCTL_CRCMODE (bits w 7 2) c).setF IMV_CHCTL_REPEAT (bits w 9 16) c

/-- IMV_START (R415, R416): a word of IMV_CHCTL with START = 1. A descriptor that writes needs STOP, in START or FENCED. -/
def State.cmdImvStart (s : State) (path : Path) (v : W32) : State :=
  let c := s.getF IMV_CHSEL_CH path.code
  if c < 60 then s.imvIgnored path 6
  else if s.flag IMV_CHSTAT_BUSY c then s.imvIgnored path 4
  else
    let s := (s.chctl c v.toNat).setF IMV_CHSTAT_PRIO (imvPrio c) c
    let d := s.movDesc c
    let st := s.getF PAR_STAT_STATE
    if !d.none_ && !(s.mode = 0 && (st = 0 || st = 8)) then s.movEnd c 5
    else if d.bad then s.movEnd c 4
    else match s.movRefused d with
      | some (a, w) => (s.latchRefusal a 0x200 w).movEnd c 1
      | none =>
        let s := ((s.movBusy c true).setF IMV_CHSTAT_ERR 0 c).setF IMV_CHSTAT_RUNSLEFT (s.getF IMV_CHCTL_REPEAT c) c
        s.movRun c
/-- IMV_START (R415, R416): the write reaches its block, which takes it as `State.cmdImvStart` says. -/
def execImvStart (path : Path) (v : W32) (s : State) : Host.Outcome State Fault Refusal := done (s.written path 0x80028 (fun s => s.cmdImvStart path v))

/-- HALT (R414): no further run of the channel starts. -/
def State.cmdImvHalt (s : State) (path : Path) : State :=
  let c := s.getF IMV_CHSEL_CH path.code
  if c < 60 then s.imvIgnored path 6
  else match tabGet? s.imv c with
    | some m => { s with imv := tabSet s.imv c { m with halt := true } }
    | none => s
/-- HALT (R414): the write reaches its block, which takes it as `State.cmdImvHalt` says. -/
def execImvHalt (path : Path) (s : State) : Host.Outcome State Fault Refusal := done (s.written path 0x80028 (fun s => s.cmdImvHalt path))

/-- A byte as a run reads it: of the state space from its snapshot, of a device the register's own. -/
def State.movByte (s : State) (m : MovRt) (a : Nat) : Byte :=
  if inState a then memRd m.mem a else if inDevice a then BitVec.ofNat 8 (s.deviceRead a) else memRd s.sq.code a

/-- The bytes a run moves, in order. -/
def State.movData (s : State) (m : MovRt) (d : MovDesc) : List Byte :=
  if d.srcFix then
    let e := if inDevice d.src then natLe d.width (s.deviceRead d.src) else (List.range d.width).map (fun i => s.movByte m (d.src + i))
    (List.replicate (d.len / d.width) e).flatten
  else (List.range d.len).map (fun i => s.movByte m (d.src + i))

/-- Write bytes where a descriptor places them: the state space by a commit of its own, a program store in place. -/
def State.movWrite (s : State) (d : MovDesc) (bs : List Byte) : State :=
  let bs := if d.dstFix then lastN d.width bs else bs
  if d.none_ || bs.isEmpty then s
  else if inState d.dst then s.commitCore (CommitInfo.alone s 0xFF (ovlWrL [] d.dst bs)) []
  else { s with sq := { s.sq with code := memWrL s.sq.code d.dst bs, poison := clearPoison s.sq.poison d.dst bs.length } }

/-- The offset of the beat at which a run meets an uncorrectable error: one met now, or a poisoned unit of its source. -/
def State.movErr (s : State) (m : MovRt) (d : MovDesc) (bad : Option Nat) : Option Nat :=
  let poison := if inState d.src then m.poison else s.sq.poison
  let struck := (if d.srcFix then [d.src] else (unitsOf d.src d.len)).filter (fun u => poison.contains (unitOf u))
  let offs := struck.map (fun u => (u - d.src) / 64 * 64) ++ (match bad with | some b => if b < d.len then [b / 64 * 64] else [] | none => [])
  offs.foldl (fun o b => match o with | none => some b | some a => some (min a b)) none

/-- IMV_RUN_COMPLETE (R410 to R416): a run of a set-up channel ends; `bad` is the offset of a byte whose read is uncorrectable, and
`preempts` the pre-emptions of the channel in this run. -/
def execImvRunComplete (ch : Fin 4) (bad : Option Nat) (preempts : Nat) (s : State) : Host.Outcome State Fault Refusal :=
  done (
    let c := 60 + ch.val
    match tabGet? s.imv c with
    | none => s
    | some m =>
      let s := s.bump IMV_CNT_PREEMPT 0 preempts
      let d := s.movDesc c
      let bs := s.movData m d
      let dev := inDevice d.src
      let m := if dev then m else { m with poison := m.poison ++ s.strikes d.src (if d.srcFix then d.width else d.len) m.csn }
      let s := if dev then s else s.meet d.src (if d.srcFix then d.width else d.len) m.csn
      match s.movErr m d bad with
      | some o =>
        let s := match bad with
          | some b => if b / 64 * 64 = o && !inDevice d.src then s.eccUncorrectable (d.src + (if d.srcFix then 0 else b)) m.csn else s
          | none => s
        ((s.movWrite d (bs.take o)).setF IMV_CHPOS_POS o c).movEnd c 2
      | none =>
        let r := crc32c bs
        let s := s.movWrite d (if d.crc = 2 then bs ++ natLe 4 r else bs)
        let s := (if d.crc = 0 then s else s.setF IMV_CHCRC_CRC r c).setF IMV_CHPOS_POS d.len c
        if d.crc = 3 && leNat ((List.range 4).map (fun i => s.movByte m (d.src + d.len + i))) ≠ r then s.movEnd c 3
        else
          let left := s.getF IMV_CHSTAT_RUNSLEFT c
          if left = 0 || m.halt then s.movEnd c 0
          else (s.setF IMV_CHSTAT_RUNSLEFT (left - 1) c).movRun c)

end Sys2Proof.Machine
end

