-- ==== Sys2Proof/Machine/Loader.lean ====
section
/-! DEFINITION. The check of PREPARE (09, R239): capacities (R6), the loader's rules, and what a package writes into the registers when it comes
into force. -/
namespace Sys2Proof.Machine

/-! ### What a package says -/

/-- The value a package gives a register field's instance in a seat: its word of set-up, or the field's reset value. -/
def pkgReg (p : Pkg) (seat : Bool) (f : Fld) (ix : Nat) : Nat :=
  match (p.setup.filter (fun w => w.off = f.off && w.ix = ix && w.seat.all (fun b => b = seat))).getLast? with
  | some w => bits w.val.toNat f.lo f.w
  | none => f.reset

/-- Two lists of lists: no two of them share a member. -/
def noShare (l : List (List Nat)) : Bool :=
  match l with
  | [] => true
  | x :: xs => xs.all (fun y => !x.any (fun n => y.contains n)) && noShare xs

/-- Signals by number in a package. -/
def pkgSig (p : Pkg) (n : Nat) : Option SigDef := p.sigs.find? (fun g => g.no = n)
/-- The tasks that write an output signal. -/
def pkgWriters (p : Pkg) (n : Nat) : List TaskDef := p.tasks.filter (fun d => d.outputs.contains n)
/-- The shortest period of the tasks that write one of some signals. -/
def fastestWriter (p : Pkg) (l : List Nat) : Option Nat :=
  (p.tasks.filter (fun d => d.kind = 0 && d.outputs.any (fun n => l.contains n))).foldl
    (fun a d => some (match a with | none => d.period | some x => min x d.period)) none
/-- P_f of a package, in base ticks; 160,000 without a cyclic task. -/
def pkgPf (p : Pkg) : Nat := (fastestWriter { p with tasks := p.tasks.map (fun d => { d with outputs := [0] }) } [0]).getD 160000
/-- The signals a safety task reads. -/
def safetyReads (p : Pkg) : List Nat := (p.tasks.filter TaskDef.safety).flatMap TaskDef.inputs
/-- The signals a safety task writes. -/
def safetyWrites (p : Pkg) : List Nat := (p.tasks.filter TaskDef.safety).flatMap TaskDef.outputs

/-! ### Capacities (R6) -/

/-- Does a package exceed a capacity of Table 0-2? -/
def overCapacity (p : Pkg) : Bool :=
  decide (p.sigs.length > 524288) || decide (p.vars.length > 16777216) || decide (p.tasks.length > 256) || decide (p.stations.length > 4096) ||
  decide (p.codeLen > 2 ^ 29) || p.tasks.any (fun d => decide (d.period > 160000) || (d.kind = 0 && decide (d.period < 4)))

/-! ### The loader's rules -/

/-- Tasks: kinds and lanes (R27, R29), the writers of outputs and of safety variables (R34, R35), what a safety task may not do (R36, R54, R62,
R82, R120, R315, R316), and scratch windows of at most 128 KiB (R60). That a task holds a MODESET or a live read is taken from the package's task list
(`modesets`, `hasLive`), not from its code words (DESIGN CHOICE, log entry 74). -/
def badTasks (p : Pkg) : Bool :=
  let safe := p.tasks.filter TaskDef.safety
  decide ((p.tasks.filter (fun d => d.kind = 2)).length > 1) || decide ((p.tasks.filter (fun d => d.kind = 3)).length > 16) ||
  !(p.tasks.map (fun d => d.no)).Nodup || p.tasks.any (fun d => d.lanes = 0 || decide (d.lanes > 14) || decide (d.quarter ≥ 6)) ||
  p.tasks.any (fun d => d.period = 0 || (d.kind = 0 && decide (d.phase ≥ d.period))) ||
  p.tasks.any (fun d => d.scratch.any (fun n => decide (n > 131072))) ||
  safe.any (fun d => d.kind ≠ 0 || d.outmode || d.plainReadFirst || d.hasLive ||
    d.modesets.any (fun m => m.toNat % 4 ≠ 0 || !bitOf m.toNat 3)) ||
  !noShare (p.tasks.map TaskDef.outputs) ||
  p.vars.any (fun v => v.safe && v.writers.any (fun t => p.tasks.any (fun d => d.no = t && !d.safety))) ||
  (safetyReads p).any (fun n => (pkgSig p n).any (fun g => g.db ≠ 0 || !g.safe)) ||
  safe.any (fun d => d.reads.any (fun t =>
    p.vars.any (fun v => v.tag = t && !v.safe && !p.iface.contains t) || p.sigs.any (fun g => g.tag = t && !g.safe))) ||
  safe.any (fun a => p.tasks.any (fun b => !b.safety && a.quarter = b.quarter && a.prio.toNat ≥ b.prio.toNat))

/-- The pair and its plant: witnesses (R209), station watchdogs (R215, R293), unsupported features (R288). -/
def badPlant (p : Pkg) : Bool :=
  let w := (witnessList p)
  let far (trip : Nat × Nat → Nat) : Bool := decide (2 * (w.filter (fun d => decide (trip d.2.2 + 50000 > pkgPf p * 62500))).length > w.length)
  decide (w.length < 3) || decide (w.length > 31) || far Prod.fst || far Prod.snd ||
  p.stations.any (fun d =>
    let sigs := (p.sigs.filter (fun g => g.out && (match g.src with | .station n _ => n = d.no | _ => false))).map SigDef.no
    (match fastestWriter p sigs with | some q => decide (d.swdt < 4 * q) | none => false) ||
    decide (d.iwdt * 62500 < 2 * d.sampleIvl + d.sampleOff)) ||
  p.unsupported || p.canPorts.any CanPortDef.unsupported

/-- Functional safety: safety signals' substitutes (R317), connections (R319), locks and CAN over safety objects (R251, R384), and write commands
to a HART device on a safety input (R367). -/
def badSafety (p : Pkg) : Bool :=
  p.sigs.any (fun g => g.safe && g.sub ≠ g.safeVal) ||
  decide (p.conns.length > 4096) || p.conns.any (fun c => c.id = 0) || !(p.conns.map ConnDef.id).Nodup ||
  p.conns.any (fun c => decide (fslWin c.fwdt c.ivlOwn > 255) || decide (fslWin c.fwdt c.ivlFar > 255) || decide (c.fwdt * 10000 < 2 * c.ivlOwn) ||
    decide (c.fwdt * 10000 < 2 * c.ivlFar) || decide (c.fwdt > 100000)) ||
  p.groups.any (fun g => g.vars.any (fun t => p.vars.any (fun v => v.tag = t && v.safe))) ||
  (safetyReads p ++ safetyWrites p).any (fun n => (pkgSig p n).any (fun g => match g.src with | .can _ _ _ => true | _ => false)) ||
  (safetyReads p).any (fun n => (pkgSig p n).any (fun g => match g.src with
    | .ai _ ch => p.harts.any (fun h => h.ch = ch && h.writes)
    | _ => false))

/-- A channel of a seat that a safety task writes is in mode 101, and no other is (R352). -/
def badDio (p : Pkg) (seat : Bool) : Bool :=
  (List.range 32).any (fun ch =>
    let safe := (safetyWrites p).any (fun n => (pkgSig p n).any (fun g => match g.src with | .dio b c => b = seat && c.val = ch | _ => false))
    (pkgReg p seat DIO_CHCFG_MODE ch = 5) != safe)

/-- Sources of the converter's sequence of a seat: those of its first SEQLEN entries. -/
def seqSources (p : Pkg) (seat : Bool) : List Nat := (List.range (pkgReg p seat ADC_CTL_SEQLEN 0)).map (fun e => pkgReg p seat ADC_SEQENT_SRC e)
/-- Does the configuration map an analogue input of a seat? -/
def aiMapped (p : Pkg) (seat : Bool) (ch : Nat) : Bool :=
  p.sigs.any (fun g => match g.src with | .ai b c => b = seat && c.val = ch | _ => false)

/-- The sequence lacks an entry (R372): of a mapped input, of the loop supply of an input with LSON, of 0x20 to 0x22. The converter of a seat
whose sequence is left at reset is not configured. -/
def badSequence (p : Pkg) (seat : Bool) : Bool :=
  let l := seqSources p seat
  let used := p.setup.any (fun w => w.off = ADC_SEQENT_SRC.off && w.seat.all (fun b => b = seat)) || (List.range 16).any (fun c => aiMapped p seat c)
  used && ((List.range 16).any (fun c => (aiMapped p seat c && !l.contains c) || (pkgReg p seat AIO_AICFG_LSON c = 1 && !l.contains (16 + c))) ||
    !([0x20, 0x21, 0x22].all (fun x => l.contains x)))

/-- The time of an urgent sample of a source, in µs (R373). -/
def urgentTime (p : Pkg) (seat : Bool) (ch : Nat) : Nat :=
  match (List.range (pkgReg p seat ADC_CTL_SEQLEN 0)).find? (fun e => pkgReg p seat ADC_SEQENT_SRC e = ch) with
  | some e => pkgReg p seat ADC_SEQENT_SETTLE e + 2 ^ pkgReg p seat ADC_SEQENT_OVS e
  | none => 0

/-- Do two cyclic tasks ever release at one base tick? -/
def meet (a b : TaskDef) : Bool :=
  let g := Nat.gcd a.period b.period
  a.phase % g = b.phase % g

/-- The greatest sum of urgent times due before one base tick, over sets of tasks of which each two meet. -/
def urgentMax (time : Nat → Nat) (fresh : TaskDef → List Nat) : List TaskDef → List TaskDef → Nat
  | [], l => (((l.flatMap fresh).eraseDups).map time).foldl (· + ·) 0
  | d :: ds, l =>
    let skip := urgentMax time fresh ds l
    if l.all (fun x => meet x d) then max skip (urgentMax time fresh ds (d :: l)) else skip

/-- URGLEAD is too short for a base tick (R373). -/
def badUrgent (p : Pkg) (seat : Bool) : Bool :=
  let fresh (d : TaskDef) : List Nat := d.inputs.filterMap (fun n => (pkgSig p n).bind (fun g => match g.src with
    | .ai b c => if b = seat && g.fresh then some c.val else none
    | _ => none))
  let l := p.tasks.filter (fun d => d.kind = 0 && !(fresh d).isEmpty)
  !l.isEmpty && decide (pkgReg p seat ADC_CTL_URGLEAD 0 < 25 + urgentMax (urgentTime p seat) fresh l [])

/-- Does a bit time of q quanta of BRP/80 MHz differ by more than 0.5 % from a rate in bit/s? -/
def rateOff (brp q rate : Nat) : Bool :=
  let r := 80000000 * 1000
  let x := brp * q * rate * 1000
  decide (r * 1000 > x * 1005) || decide (r * 1000 < x * 995)

/-- CAN timing (R381): limits, and the rates configured; each field holds its value less one. -/
def badCan (p : Pkg) (d : CanPortDef) : Bool :=
  let raw (x : Fld) : Nat := pkgReg p d.seat x d.port.val
  let f (x : Fld) : Nat := raw x + 1
  let n1 := f CAN_NBT_TSEG1
  let n2 := f CAN_NBT_TSEG2
  let d1 := f CAN_DBT_TSEG1
  let d2 := f CAN_DBT_TSEG2
  raw CAN_PORTCFG_MODE ≠ 0 &&
  (decide (d.nominal < 125000) || decide (d.nominal > 1000000) || decide (n1 < 2) || decide (n2 < 2) || decide (f CAN_NBT_SJW > n2) ||
   rateOff (f CAN_NBT_BRP) (1 + n1 + n2) d.nominal ||
   (raw CAN_PORTCFG_FDEN = 1 && (decide (d.data > 5000000) || decide (f CAN_DBT_SJW > d2) ||
     (decide (d.data > 1000000) && raw CAN_DBT_TDC = 0) || rateOff (f CAN_DBT_BRP) (1 + d1 + d2) d.data)))

/-- Byte n of an object's record as the package gives it. -/
def objByte (p : Pkg) (o : ObjDef) (n : Nat) : Nat := (memRd p.init (o.addr + n)).toNat
/-- Link i of an object. -/
def objLink (p : Pkg) (o : ObjDef) (i : Nat) : Nat := leNat (memRdL p.init (o.addr + 0x80 + 4 * i) 4)

/-- Objects: callers and output links (R396), and the links and parameters a variant needs (R397). -/
def badObj (p : Pkg) (o : ObjDef) : Bool :=
  let type := objByte p o 0
  let variant := objByte p o 1
  let off (i : Nat) : Bool := objLink p o i = 0
  let outs := if type = 0x23 then [10, 11] else [10, 11, 12, 13]
  o.callers.any (fun t => t ≠ o.owner || p.tasks.any (fun d => d.no = t && d.safety)) ||
  outs.any (fun i => p.sigs.any (fun g => g.tag.toNat = objLink p o i && (pkgWriters p g.no).any (fun d => d.no ≠ o.owner))) ||
  off 7 || off 8 || off 10 ||
  (if type = 0x23 then off 0 || off 1 || (variant = 0 && off 11) || (variant = 1 && objByte p o 0x65 ≠ 2)
   else off 0 || (variant = 1 && (off 11 || (off 1 && decide (leNat (memRdL p.init (o.addr + 0x4C) 4) < 1000)))))

/-- Does a rule of the loader refuse a package? -/
def badRules (p : Pkg) : Bool :=
  badTasks p || badPlant p || badSafety p || [false, true].any (fun b => badDio p b || badSequence p b || badUrgent p b) || p.canPorts.any (badCan p) ||
  p.objs.any (badObj p)

/-- SCH_CFGSTAT.REFUSE for a package: the lowest cause that holds, 0 if the check passes. -/
def State.refuseCause (s : State) (p : Pkg) : Nat :=
  if !p.sigOk then 1
  else if overCapacity p then 2
  else if badRules p then 3
  else if p.gen ≤ s.cfgGen then 4
  else if p.old42 then 5
  else if s.flag BOT_SLOTSTAT_FMTPAIR && p.fmt ≠ s.cfg.fmt then 6
  else 0

/-- Does the safety part of a package differ from the active one (R238)? -/
def State.safetyDiffers (s : State) (p : Pkg) : Bool :=
  let part (q : Pkg) := (q.tasks.filter TaskDef.safety, q.vars.filter VarDef.safe, q.sigs.filter SigDef.safe, q.conns)
  part s.cfg ≠ part p

/-! ### A program comes into force: the registers it writes (R2, R57) -/

/-- Write a field at once, and forget values that wait for it. -/
def State.putNow (s : State) (f : Fld) (v ix : Nat) : State :=
  State.setF { s with due := s.due.filter (fun (d : Due) => d.key ≠ f.key ix) } f v ix

/-- Registers of one task: Tables 2-9 and 5-2. A change of SPEC, MINHIT or BACKOFF empties the window (R139). -/
def State.loadTask (s : State) (d : TaskDef) : State :=
  let t := d.no.val
  let old := s
  let s := ((s.putNow SCH_TASKCFG_PERIOD d.period t).putNow SCH_TASKCFG_PRIO d.prio.toNat t).putNow SCH_TASKCFG_KIND d.kind.toNat t
  let s := ((s.putNow SCH_TASKCFG_SAFETY (b2n d.safety) t).putNow SCH_TASKCFG_SPEC (b2n d.spec) t).putNow SCH_TASKCFG_OUTMODE (b2n d.outmode) t
  let s := ((s.putNow SCH_TASKPHASE_PHASE d.phase t).putNow SCH_TASKPHASE_LANES d.lanes t).putNow SCH_TASKPHASE_QUARTER d.quarter t
  let s := (s.putNow SCH_TASKXCP_POLICY (b2n d.policy) t).putNow SPC_TASKCFG_SPECLEAD d.specLead.toNat t
  let s := ((s.putNow SPC_TASKCFG_MINHIT d.minHit t).putNow SPC_TASKCFG_CONFMODE (b2n d.confMode) t).putNow SPC_TASKCFG_BACKOFF d.backoff.toNat t
  if [SCH_TASKCFG_SPEC, SPC_TASKCFG_MINHIT, SPC_TASKCFG_BACKOFF].all (fun f => old.getF f t = s.getF f t) then s else s.specFresh t

/-- A task number that a configuration does not use; while an old cycle of it runs on, it is judged as the safety task it was (R242). -/
def State.clearTask (s : State) (t : Nat) : State :=
  let s := s.putNow SCH_TASKCFG_PERIOD 0 t
  if s.sched.runs.any (fun r => r.2.ctx = .real && r.2.task = t) then s else s.putNow SCH_TASKCFG_SAFETY 0 t

/-- Registers of stations, connections and safety functions. -/
def State.loadPlant (s : State) (p : Pkg) : State :=
  let s := s.setF PAR_WITSTAT_WCFG (witnessList p).length
  let s := p.stations.foldl (fun s d =>
    ((s.setF PNE_STASTAT_WITNESS (b2n d.witness) d.no.val).setF PNE_STAWDT_SWDT d.swdt d.no.val).setF PNE_STAWDT_IWDT d.iwdt d.no.val) s
  let s := p.conns.foldl (fun s c =>
    let n := c.no.val
    let ps := ((p.tasks.find? (fun d => d.no = c.owner)).map TaskDef.period).getD 0
    let ride := decide (c.fwdt * 10000 ≥ (4 * ps + 2 * pkgPf p) * 62500)
    let s := (s.setF SFY_CONNCFG_FWDT c.fwdt n).setF SFY_CONNCFG_WIN (fslWin c.fwdt c.ivlFar) n
    (s.setB SFY_CONNCFG_AUTOREINT c.autoReint n).setB SFY_CONNCFG_RIDE ride n) s
  p.fns.foldl (fun s f =>
    let n := f.no.val
    ((s.setF SFY_FNCFG_KIND f.kind.toNat n).setB SFY_FNCFG_ANTIV f.antiv n).setF SFY_FNCFG_DT f.dt n |>.setF SFY_FNCFG_DEGMAX f.degmax n) s

/-- The safety signature in force (R345): a change advances SIGCHG and sets UNVAL. -/
def State.loadSignature (s : State) (p : Pkg) : State :=
  let old := s.get64 SFY_SIG0_SIG SFY_SIG1_SIG
  let s := s.set64 SFY_SIG0_SIG SFY_SIG1_SIG p.safetySig
  if old = s.get64 SFY_SIG0_SIG SFY_SIG1_SIG then s
  else ((s.bump SFY_STAT_SIGCHG).setF SFY_STAT_UNVAL 1).evSafe 5 [old, p.safetySig]

/-- The value a writable field stores for a value written to it: the "stored as" rules of the field tables. -/
def storedAs (f : Fld) (v : Nat) : Nat :=
  let v := v % 2 ^ f.w
  if f = KRB_HBCFG_TIMEOUT then max 2 v
  else if f = PWR_CTL_MAINSCFG || f = AIO_AICFG_CHAR then (if v = 3 then 0 else v)
  else if f = SPC_CTL_SAGMIN then (if v > 4 then 0 else v)
  else if f = SPC_CTL_POOLGIB then max 1 (min 32 v)
  else if f = SPC_TASKCFG_MINHIT then min 100 v
  else if f = XNG_CTL_INJIVL then max 1 (min 1000 v)
  else if f = PAR_CTL_JOINRATE then max 1 (min 80 v)
  else if f = PAR_CTL_BFRATE then max 10 (min 2000 v)
  else if f = HQE_CTL_MAXSESS then max 1 (min 8192 v)
  else if f = HQE_ADMCFG_CREDIT then max 16 (min 4096 v)
  else if f = HQE_ADMCFG_BATCH then max 1 (min 32 v)
  else if f = HQE_LOCKCFG_LEASE then max 10 (min 60000 v)
  else if f = SFY_TESTCFG_WIDTH then max 20 (min 80 v)
  else if f = SFY_TESTCFG_TESTIVL then max 1 (min 3600 v)
  else if f = DIO_CHCFG_FILT then max 1 (min 1024 v)
  else if f = AIO_AICFG_VMIN then max 16 v
  else if f = ADC_CTL_SEQLEN then max 1 (min 64 v)
  else if f = ADC_CTL_URGLEAD then max 30 (min 500 v)
  else if f = ADC_SEQENT_OVS || f = ADC_URGENT_OVS then min 6 v
  else if f = CAN_PORTCFG_BOFFDLY then min 1000 v
  else if f = BOT_CFG_STARTMODE then (if v = 3 then 1 else v)
  else if f = BOT_CFG_CONFMIN then max 1 (min 120 v)
  else if f = BOT_CFG_HEALTHWIN then max 1 (min 72 v)
  else if f = BOT_CFG_TIMEWAIT then max 1 (min 60 v)
  else if f = SEC_PORTCFG_SAKLIFE then max 1 (min 168 v)
  else if f = TIM_CTL_DOMDIFF || f = XNG_CTL_RETN || f = SQR_RINGCFG_GIB || f = ARC_NEARCFG_GIB || f = SCH_OLCCTL_MINLEAD || f = HQE_CTL_SESSIDLE ||
      f = HQE_LOCKCFG_MAXLOCKS || f = PNE_CUTCFG_CUTWAIT || f = PNE_CUTCFG_MODEWAIT || f = ADC_CTL_TESTIVL then max 1 v
  else v

/-- The words of set-up of the module's own seat, field by field. -/
def State.loadWords (s : State) (p : Pkg) : State :=
  p.setup.foldl (fun s w =>
    if w.seat.all (fun b => b = s.seatB) then
      ((fieldsAt w.off).filter (fun f => f.acc = .rw)).foldl (fun s f => s.putNow f (storedAs f (bits w.val.toNat f.lo f.w)) w.ix) s
    else s) s

/-- The access regions of a package: (index, base, limit, attributes); what was written to a region and waited for a barrier is gone. -/
def State.loadAcu (s : State) (p : Pkg) : State :=
  let s := s.withAcu []
  let s : State := { s with due := s.due.filter (fun d => !acuKey d.key) }
  p.acu.foldl (fun s r =>
    let s := (s.putNow ACU_RBASELO_BASE (r.2.1 / 4096) r.1).putNow ACU_RBASEHI_BASE (r.2.1 / 2 ^ 32) r.1
    let s := (s.putNow ACU_RLIMLO_LIMIT (r.2.2.1 / 4096) r.1).putNow ACU_RLIMHI_LIMIT (r.2.2.1 / 2 ^ 32) r.1
    let a := r.2.2.2
    let s := ((s.putNow ACU_RATTR_EN (bits a 0 1) r.1).putNow ACU_RATTR_RD (bits a 1 1) r.1).putNow ACU_RATTR_WR (bits a 2 1) r.1
    (s.putNow ACU_RATTR_EXEC (bits a 3 1) r.1).putNow ACU_RATTR_DEV (bits a 4 1) r.1) s

/-- Every register a package writes when it comes into force (R2). Loading writes them on the Lead and on the Follower alike. -/
def State.loadRegs (s : State) (p : Pkg) : State :=
  let s := (List.range 256).foldl (fun s t => match p.tasks.find? (fun d => d.no.val = t) with
    | some d => s.loadTask d
    | none => s.clearTask t) s
  let s := s.setB SCH_MODE_PROFILE (decide (p.sigs.length > 8192) || decide (p.tasks.length > 16))
  ((((s.loadPlant p).loadAcu p).loadWords p).loadSignature p).laneShortage

end Sys2Proof.Machine
end

