-- ==== Sys2Proof/Machine/Olc.lean ====
section
/-! DEFINITION. On-line change and configuration load (09, R237 to R243; R51, R113, R127, R180, R270, R294, R441): the package commands, the
steps of a change, and the activation commit. -/
namespace Sys2Proof.Machine

/-- Offsets of SCH_OLCCTL and SCH_CFGCMD. -/
def olcctlOff : Nat := 0x30040
/-- Offset of SCH_CFGCMD. -/
def cfgcmdOff : Nat := 0x30060


/-- A package command that is ignored (Table 9-15). -/
def State.cfgIgnored (s : State) (p : Path) (cause : Nat) : State := (s.ignored p cfgcmdOff cause).setF SCH_CFGSTAT_RESULT 2

/-! ### The package (R239) -/

/-- May a module take package commands: LEAD, SOLO, START or FENCED? -/
def State.pkgState (s : State) : Bool := s.isLead || s.getF PAR_STAT_STATE = 0 || s.getF PAR_STAT_STATE = 8

/-- The bytes of a program store, erased. -/
def eraseStore (code : Tab Byte) (store : Nat) : Tab Byte :=
  code.filter (fun p => !(decide (storeBase store ≤ p.1) && decide (p.1 < storeBase store + 0x40000000)))

/-- OPEN: the inactive store is erased, and PREPARE begins; reads of the previous program's CSNs fail from now on (R238). -/
def State.cmdCfgOpen (s : State) (path : Path) : State :=
  if !s.pkgState then s.cfgIgnored path 3
  else if !(s.step_ = 0 || s.step_ = 6 || s.step_ = 7) then s.cfgIgnored path 4
  else
    let n := 1 - s.actStore
    let s : State := { s with pkgs := tabDel s.pkgs n, sq := { s.sq with code := eraseStore s.sq.code n, poison := clearPoison s.sq.poison (storeBase n) 0x40000000 },
                              olc := { s.olc with chunks := [], cand := none, actAt := none, load := false, farReady := false } }
    let s := ((s.setF SCH_CFGSTAT_RESULT 0).setF SCH_CFGSTAT_OPEN 1).setF SCH_CFGSTAT_CHECKED 0
    let s := ((s.setF SCH_CFGSTAT_CHUNKS 0).setF SCH_CFGSTAT_REFUSE 0).setF SCH_OLCSTAT_FALLBACK 0
    s.olcStep 1
/-- OPEN (R238): the write reaches its block, which takes it as `State.cmdCfgOpen` says. -/
def execCfgOpen (path : Path) (s : State) : Host.Outcome State Fault Refusal := done (s.written path cfgcmdOff (fun s => s.cmdCfgOpen path))

/-- CHUNK: 32 KiB of the window are written at their offset if their CRC-32C is right. -/
def State.cmdCfgChunk (s : State) (path : Path) : State :=
  if !s.pkgState then s.cfgIgnored path 3
  else if !s.flag SCH_CFGSTAT_OPEN then s.cfgIgnored path 4
  else
    let d := memRdL s.olc.win 0 32768
    if crc32c d ≠ s.getF SCH_CFGCRC_CRC then s.setF SCH_CFGSTAT_RESULT 1
    else
      let s : State := { s with olc := { s.olc with chunks := tabSet s.olc.chunks (s.getF SCH_CFGOFF_OFF) d } }
      (s.setF SCH_CFGSTAT_RESULT 0).bump SCH_CFGSTAT_CHUNKS
/-- CHUNK: the write reaches its block, which takes it as `State.cmdCfgChunk` says. -/
def execCfgChunk (path : Path) (s : State) : Host.Outcome State Fault Refusal := done (s.written path cfgcmdOff (fun s => s.cmdCfgChunk path))

/-- Have all chunks up to a length been written? -/
def chunksUpTo {α : Type} (t : Tab α) (len : Nat) : Bool := (List.range ((len + 32767) / 32768)).all (fun i => tabHas t i)

/-- A checked package stands in a store. -/
def State.placePkg (s : State) (n : Nat) (p : Pkg) : State :=
  { s with pkgs := tabSet s.pkgs n p, sq := { s.sq with poison := clearPoison s.sq.poison (storeBase n) 0x40000000, code := p.store.foldl (fun m b => memWr m (storeBase n + b.1) b.2) (eraseStore s.sq.code n) } }

/-- CLOSE: the check of PREPARE over the package whose content the command names. Keys in it need UPDATE-ENABLE (R283); without it the store stays
open. -/
def State.cmdCfgClose (s : State) (path : Path) (p : Pkg) : State :=
  if !s.pkgState then s.cfgIgnored path 3
  else if !s.flag SCH_CFGSTAT_OPEN || !chunksUpTo s.olc.chunks (s.getF SCH_CFGLEN_LEN) then s.cfgIgnored path 4
  else if !p.keys.isEmpty && !s.updateEnable then s.cfgIgnored path 2
  else
    let c := s.refuseCause p
    let s := ((s.setF SCH_CFGSTAT_RESULT 0).setF SCH_CFGSTAT_OPEN 0).setF SCH_CFGSTAT_REFUSE c
    if c ≠ 0 then s.olcEnd false
    else
      let s := (s.placePkg (1 - s.actStore) p).setF SCH_CFGSTAT_CHECKED 1
      let loose := (p.tasks.filter (fun d => d.plainReadFirst)).map (fun d => d.no.val)
      let s := if loose.isEmpty then s else s.evCfg 9 loose
      { s with olc := { s.olc with cand := some p } }
/-- CLOSE (R283): the write reaches its block, which takes it as `State.cmdCfgClose` says. -/
def execCfgClose (path : Path) (p : Pkg) (s : State) : Host.Outcome State Fault Refusal := done (s.written path cfgcmdOff (fun s => s.cmdCfgClose path p))

/-! ### ARM, LOAD and the steps of a change (R237 to R241) -/

/-- MIGRATE begins with the initial pass. -/
def State.toMigrate (s : State) : State := s.migPass.olcStep 3

/-- What the change waits for next: with a Follower the transfer of the store, sent in BULK packets; alone the next step at once. -/
def State.olcBegin (s : State) (p : Pkg) (load : Bool) : State :=
  let s : State := { s with olc := { s.olc with load := load, cand := some p, actAt := none } }
  let s := s.olcStep 2
  if s.getF PAR_STAT_STATE = 6 then s.sendPacket 0x06 0 0 0 0 0 0 0 [words [1, 1 - s.actStore, p.gen]]
  else if load then State.olcStep { s with olc := { s.olc with actAt := some (s.tick + 1) } } 4
  else s.toMigrate

/-- Why ARM or LOAD of the checked package is ignored: the cause, 0 if it is not. -/
def State.armCause (s : State) : Nat :=
  match s.olc.cand with
  | none => 4
  | some p =>
    if s.flag BOT_SLOTSTAT_FMTPAIR || !(s.step_ = 1 || s.step_ = 7) || !s.flag SCH_CFGSTAT_CHECKED then 4
    else if s.safetyDiffers p && !s.safetyEdit then 1
    else 0

/-- ARM. -/
def State.cmdOlcArm (s : State) (path : Path) : State :=
  if !s.isLead then s.ignored path olcctlOff 3
  else if s.armCause ≠ 0 then s.ignored path olcctlOff s.armCause
  else match s.olc.cand with
    | some p => s.olcBegin p false
    | none => s
/-- ARM: the write reaches its block, which takes it as `State.cmdOlcArm` says. -/
def execOlcArm (path : Path) (s : State) : Host.Outcome State Fault Refusal := done (s.written path olcctlOff (fun s => s.cmdOlcArm path))

/-- ABANDON, in steps 1 to 4 up to the base tick before A. -/
def State.cmdOlcAbandon (s : State) (path : Path) : State :=
  if !s.isLead then s.ignored path olcctlOff 3
  else if 1 ≤ s.step_ && s.step_ ≤ 4 && (match s.olc.actAt with | some a => decide (s.tick < a) | none => true) then
    (s.setF SCH_CFGSTAT_OPEN 0).olcEnd false
  else s.ignored path olcctlOff 4
/-- ABANDON: the write reaches its block, which takes it as `State.cmdOlcAbandon` says. -/
def execOlcAbandon (path : Path) (s : State) : Host.Outcome State Fault Refusal := done (s.written path olcctlOff (fun s => s.cmdOlcAbandon path))

/-- LOAD: only in mode STOP. -/
def State.cmdCfgLoad (s : State) (path : Path) : State :=
  if !s.pkgState then s.cfgIgnored path 3
  else if s.mode ≠ 0 then s.cfgIgnored path 4
  else if s.armCause ≠ 0 then s.cfgIgnored path s.armCause
  else match s.olc.cand with
    | some p => (s.olcBegin p true).setF SCH_CFGSTAT_RESULT 0
    | none => s
/-- LOAD: the write reaches its block, which takes it as `State.cmdCfgLoad` says. -/
def execCfgLoad (path : Path) (s : State) : Host.Outcome State Fault Refusal := done (s.written path cfgcmdOff (fun s => s.cmdCfgLoad path))

/-- The Lead chooses A, the first grid tick of the fastest task at least MINLEAD from now, and announces it. -/
def State.announceA (s : State) : State :=
  let a := s.fastGrid (s.tick + max 1 (s.getF SCH_OLCCTL_MINLEAD) * 16)
  State.olcStep (State.share { s with olc := { s.olc with actAt := some a } } (.activation a s.olc.load)) 4

/-- OLC_TRANSFER_COMPLETE: both modules hold the checked store; a load needs no migration. -/
def execOlcTransferComplete (s : State) : Host.Outcome State Fault Refusal :=
  done (
    if !(s.isLead && s.step_ = 2) then s
    else
      let s : State := { s with olc := { s.olc with farReady := true } }
      if s.olc.load then s.announceA else s.toMigrate)

/-- MIGRATION_PASS_COMPLETE: the pair barrier has confirmed the pass in both modules. -/
def execMigrationPassComplete (s : State) : Host.Outcome State Fault Refusal :=
  done (if s.isLead && s.step_ = 3 then s.announceA else s)

/-! ### The activation commit (R241, R242) -/

/-- A measurement is appended to the log: at most 64 entries, the oldest of layer 3 dropped first (R441). -/
def State.addMeas (s : State) (m : Meas) : State :=
  let l := s.kerb.meas ++ [m]
  let rec drop3 : List Meas → List Meas
    | [] => []
    | x :: xs => if x.layer = 3 then xs else x :: drop3 xs
  s.modKerb (fun k => { k with meas := if l.length > 64 then drop3 l else l })

/-- The L3 measurements of a configuration and its program store. -/
def State.measL3 (s : State) (p : Pkg) : State :=
  ((s.addMeas ⟨3, 3, 0, p.gen, p.digest⟩).addMeas ⟨3, 4, 0, p.gen, p.storeDigest⟩).addMeas ⟨3, 5, 0, p.gen, p.safetySig⟩

/-- What becomes of one task number (Table 9-6): an added or loaded task waits for its first release; a kept one whose grid has changed waits for
its new grid, without catch-up; a removed one is released no more. -/
def State.crossTask (s : State) (old : Pkg) (load : Bool) (t : Nat) : State :=
  let was := old.tasks.any (fun d => d.no.val = t)
  let is := (s.taskDef? t).isSome
  let running := (s.run? .real t).isSome
  let s := s.modTask t (fun x => { x with specBar := max 1 x.specBar, lastImg := [], outDue := x.outDue && !load })
  if !is then (if running then s else (s.setF SCH_TASKSTAT_STATE 0 t).modTask t (fun x => { x with owed := none, acts := 0 }))
  else if load || !was then
    (s.setF SCH_TASKSTAT_STATE (if s.kind t = 3 then 0 else 1) t).modTask t (fun x => { x with owed := none, released := false, lastOk := false, acts := 0, stopping := false })
  else if running || tabGet (0, 0) s.olc.oldGrid t = (s.getF SCH_TASKCFG_PERIOD t, s.getF SCH_TASKPHASE_PHASE t) then s
  else ((s.modTask t (fun x => { x with owed := none })).setF SCH_TASKSTAT_CATCHUP 0 t).setF SCH_TASKSTAT_LAGTICKS 0 t

/-- Subscriptions to a removed task end (R270); batches of the old generation that no cycle has taken complete GENMISMATCH. -/
def State.crossHost (s : State) : State :=
  let s := s.host.sess.foldl (fun s x => x.2.subs.foldl (fun s u =>
    if (s.taskDef? u.task).isSome then s
    else
      let c : Compl :=
        { status := 0x0003, flags := 0, opcode := 3, reqid := u.reqid, csn := 0, len := 0, detail := 0, data := [], sub := none }
      let s := (s.putCompl x.1 u.qp c).modQp x.1 u.qp (fun z => { z with open_ := z.open_ - 1 })
      s.modSess x.1 (fun z => { z with subs := z.subs.filter (fun v => !(v.qp = u.qp && v.reqid = u.reqid)) })) s) s
  let taken := s.sched.runs.flatMap (fun r => r.2.batches)
  let gone (b : Batch) : Bool := b.csn.isNone && b.gen ≠ s.cfgGen && !taken.contains b.id
  let l := s.host.batches.filter gone
  let s : State := { s with host := { s.host with batches := s.host.batches.filter (fun b => !gone b) } }
  l.foldl (fun s b => s.completeB b 0x0302 0) s

/-- Stations across the change (R294): added ones and refused ones are ABSENT. -/
def State.crossStations (s : State) (old : Pkg) : State :=
  s.cfg.stations.foldl (fun s d =>
    if s.getF PNE_STASTAT_STATE d.no.val = 5 || !old.stations.any (fun x => x.no = d.no) then
      (s.setF PNE_STASTAT_STATE 0 d.no.val).modSta d.no.val (fun _ => StaRt.reset)
    else s) s

/-- The program in the inactive store comes into force under a CSN: the new layout, the caches, the registers, the tasks, the hosts and the
activation record. A load starts from initial values and without forces. -/
def State.activate (s : State) (p : Pkg) (load : Bool) (csn : Nat) : State :=
  let old := s.cfg
  let m := if load then (memLay [] p.init, 0) else s.migrate p
  let bad := s.sq.poison.filter (fun u => !inState u) ++ (if load then [] else s.migPoison p)
  let grids := old.tasks.foldl (fun t d => tabSet t d.no.val (s.getF SCH_TASKCFG_PERIOD d.no.val, s.getF SCH_TASKPHASE_PHASE d.no.val)) []
  let s : State := { s with olc := { s.olc with oldAcu := s.acuRegs, oldGrid := grids, cand := none, actAt := none, load := false } }
  let s : State := { s with sq := { s.sq with mem := m.1, poison := bad, actCount := s.sq.actCount + 1 },
                            sched := { s.sched with forces := if load then [] else migSigs old p s.sched.forces,
                                                    held := if load then [] else migSigs old p s.sched.held, caps := [] },
                            io := { s.io with inbox := migSigs old p s.io.inbox },
                            pair := { s.pair with imgSent := [] } }
  let s := s.setF SCH_OLCSTAT_FALLBACK (b2n (tabHas s.pkgs s.actStore))
  let s := (s.setF SCH_OLCSTAT_ACTSTORE (1 - s.actStore)).set64 PAR_CFGGENLO_CFGGEN PAR_CFGGENHI_CFGGEN p.gen
  let s := (s.set64 SCH_OLCCSNLO_CSN SCH_OLCCSNHI_CSN csn).setF SCH_CFGSTAT_CHECKED 0
  let s := (s.ttcDrop (fun _ => true)).loadRegs p
  let s : State := { s with sq := { s.sq with host := [] } }
  let s := (List.range 256).foldl (fun s t => s.crossTask old load t) s
  let s := ((s.crossHost.crossStations old).breakAll).specGenCheck
  let s := s.modKerb (fun k => { k with act := some ⟨s.actStore, p.gen, csn⟩, keys := if p.keys.isEmpty then k.keys else p.keys })
  (s.measL3 p).showForces

/-- The retained values of the new layout are staged with the activation commit. -/
def State.stageRetained (s : State) (csn : Nat) : State :=
  let o := (s.cfg.vars.filter (fun v => v.cls = 2)).foldl (fun o v => ovlWrL o v.addr (memRdL s.sq.mem v.addr v.size)) []
  if o.isEmpty then s else { s with arc := { s.arc with retStaged := s.arc.retStaged ++ [(csn, o)] } }

/-- The activation commit's flip gives every page of the old and the new layout a new version (R241). -/
def State.newLayout (s : State) (old : List Nat) : State :=
  let ps := (old ++ pagesOf s.sq.mem).eraseDups
  { s with sq := { s.sq with snaps := match s.sq.snaps with | x :: xs => { x with frames := (pagesOf s.sq.mem).length, pages := ps } :: xs | [] => [] } }

/-- The activation commit of a module that leads: pending exception records are aborted before the flip, and the commit's record carries the
activation. -/
def State.activationCommit (s : State) (p : Pkg) (load : Bool) : State :=
  let s := s.invalAll.abortPending (fun _ => true)
  let csn := s.commitCsn
  let before_ := pagesOf s.sq.mem
  let before := tabKeys s.sched.forces
  let tags := before.filterMap (fun n => (s.sig? n).map (fun g => (n, g.tag)))
  let s := s.activate p load csn
  let gone := tags.filter (fun x => load || !s.cfg.sigs.any (fun g => oldTag p g.tag = x.2))
  let evs := (0x0105, 0, 0, words [3, p.gen, b2n load]) :: gone.map (fun x => forceGone x.1)
  let s := s.commitCore { CommitInfo.alone s 0xFF [] with events := evs } []
  let s := s.newLayout before_
  if load then s else s.stageRetained csn

/-- ACTIVATION_COMMIT (R241): at tick A, before any capture. A module without a role commits nothing and makes the store active (R239). A Follower, and a
module that joins or tracks, performs it with the packet of c_A, so that it has that CSN, and keeps the old program where the packet never comes (R243). -/
def execActivationCommit (s : State) : Host.Outcome State Fault Refusal :=
  done (
    match s.olc.actAt, s.olc.cand with
    | some a, some p =>
      let st := s.getF PAR_STAT_STATE
      if s.step_ ≠ 4 || decide (s.tick < a) || (1 ≤ st && st ≤ 5) then s
      else
        let load := s.olc.load
        let s := if s.isLead then s.activationCommit p load else s.activate p load s.sq.csn
        (s.olcStep (if load then 6 else 5)).baseNow
    | _, _ => s)

/-- At a base tick: SETTLE ends once no cycle released before A remains (Table 9-4). -/
def State.olcTick (s : State) : State :=
  if s.step_ = 5 && !s.sched.runs.any (fun r => r.2.store ≠ s.actStore) then s.olcStep 6 else s

/-- A Lead that goes on as SOLO does not wait for the transfer any more. -/
def State.olcAlone (s : State) : State :=
  if s.isLead && s.step_ = 2 then
    (if s.olc.load then State.olcStep { s with olc := { s.olc with actAt := some (s.tick + 1) } } 4 else s.toMigrate)
  else s

end Sys2Proof.Machine
end

