-- ==== Sys2Proof/Machine/Pair.lean ====
section
/-! DEFINITION. Pair operation in service (08, R195 to R218): HELLO, cycle packets as the Follower applies them, audits, missing packets,
witnesses, takeover, switch-over and the commands of PAR_CMD. -/
namespace Sys2Proof.Machine

/-! ### What the module says of itself -/

/-- The running slot's bundle. -/
def State.bundle (s : State) : Bundle :=
  ((tabGet? s.kerb.slots (s.getF BOT_STAT_ACTSLOT)).bind Slot.bundle).getD ⟨0, 0, 0, 0, 0, 0, 0, 0, false⟩
/-- Is firmware with these digests qualified here: listed in the configuration, or the module's own (R443)? -/
def State.qualified (s : State) (k m : Nat) : Bool :=
  s.cfg.qualified.contains (k, m) || (k = s.bundle.kerbDigest && m = s.bundle.modDigest)
/-- Does the running bundle stand in the qualified set of the configuration (R452)? -/
def State.selfQualified (s : State) : Bool := s.cfg.qualified.isEmpty || s.cfg.qualified.contains (s.bundle.kerbDigest, s.bundle.modDigest)

/-- The highest CSN of the cycle log. -/
def State.maxCsn (s : State) : Nat := (s.arc.cyc.map ArcRec.csn).foldl max 0
/-- A digest of the retained area. -/
def State.retDigest (s : State) : Nat := crc64 (carryBody s.arc.ret)

/-- The first 16 bytes of the module's DeviceID digest. -/
def State.devId (s : State) : Nat :=
  s.getF KRB_DEVID0_DIGEST + 2 ^ 32 * s.getF KRB_DEVID1_DIGEST + 2 ^ 64 * s.getF KRB_DEVID2_DIGEST + 2 ^ 96 * s.getF KRB_DEVID3_DIGEST

/-- Does a Lead begin a join: it asks for attestation? -/
def State.joining (s : State) : Bool := s.isLead && s.getF PAR_JOINSTAT_PHASE = 1
/-- Send HELLO on both Boulevard links; the manual gives its content and no layout (log entry 8), and what it carries beside that of R195 is the model's
(log entry 17). The product number is that of R3: 0 a CFM-9600. -/
def State.sendHello (s : State) : State :=
  let b := s.bundle
  s.sendPacket 0x07 0 0 0 0 0 0 0
    [words ([s.seat, s.epoch, s.cfgGen, s.cfg.digest, s.getF PAR_STAT_STATE, s.maxCsn, b2n s.pair.lastLead, s.pair.lastEpoch, b2n (s.mode = 1),
             s.getF XNG_STAT_LANESHORT, s.getF PWR_STAT_CAPPED, s.cfg.instId, s.devId, b.protoLo, b.protoHi, s.arc.retCsn, s.retDigest,
             s.getF PAR_JOINSTAT_REFUSE, 0, b2n s.joining, b2n s.pair.swRefused, b2n s.pair.swPath.isSome, b2n s.pair.resyncAll, s.pair.resync.length] ++
            s.pair.resync ++ s.pair.fetch)]

/-- HELLO_SEND (R195): every 1 ms in START. -/
def execHelloSend (s : State) : Host.Outcome State Fault Refusal := done (if s.getF PAR_STAT_STATE = 0 && s.kerb.phase = .run then s.sendHello else s)

/-! ### Takeover with all that follows it -/

/-- A back-fill that has not ended leaves a gap (R221). -/
def State.backfillLost (s : State) : State := if s.pair.backfillLow > 0 then s.setF PAR_JOINSTAT_BFGAP 1 else s

/-- Take the Lead after a failure: SOLO, with a change in progress abandoned and the back-fill ended. -/
def State.takeAfterFailure (s : State) : State :=
  let s := s.takeLead 7 .failure
  if s.isLead then
    let s := s.olcTakeover.backfillLost
    { s with pair := { s.pair with partner := none } }
  else s

/-- Once every packet up to c_h and HANDOVER are applied and S has come, the Follower takes the Lead (R218). -/
def State.tryHandover (s : State) : State :=
  match s.pair.handed, s.pair.switchAt with
  | some c, some k =>
    if s.flag PAR_STAT_ELIGIBLE && decide (s.pair.applied ≥ c) && decide (s.tick ≥ k) then
      let s := s.takeLead 6 .orderly
      { s with pair := { s.pair with partner := s.pair.partner.map (fun h => { h with state := 3, lead := false }) } }
    else s
  | _, _ => s

/-- No join is in progress any more. -/
def State.dropJoin (s : State) : State :=
  let s : State := { s with pair := { s.pair with joinBase := none, bulkLeft := 0, bulkAll := 0, resync := [], resyncAll := false, bulkOut := [],
                                                  bfCyc := 0, bfEv := 0 } }
  if s.getF PAR_JOINSTAT_PHASE = 5 then s else s.setF PAR_JOINSTAT_PHASE 0

/-- A Lead has lost its partner: it goes on as SOLO, and a change by itself (R206, R238). -/
def State.partnerLost (s : State) (fenced : Bool) : State :=
  if s.getF PAR_STAT_STATE = 6 then
    let s := s.goSolo.dropJoin.olcAlone
    { s with pair := { s.pair with partner := none, lostUnfenced := !fenced, missRun := 0, setup := [] } }
  else s

/-- A module that is not eligible has lost its Lead: FENCED (Table 8-1, Table 8-7). -/
def State.leadLostUnfit (s : State) : State := s.backfillLost.loseRole 8

/-! ### Set-up items of a packet (Table 8-2) -/

/-- What waits under a key takes effect now. -/
def State.applyKey (s : State) (key : Nat) : State :=
  { s with regs := (s.due.filter (fun d => d.key = key)).foldl (fun r d => tabSet r d.key d.val) s.regs, due := s.due.filter (fun d => d.key ≠ key) }

/-- Write an instance of a register field by its key when an instant comes, from a base tick on. -/
def State.dueKey (s : State) (w : When) (key val : Nat) (from_ : Nat := 0) : State :=
  { s with due := s.due.filter (fun (d : Due) => d.key ≠ key) ++ [⟨w, key, val, some from_⟩] }

/-- A change of the Square takes effect at its tick, at once if that has passed. -/
def State.squareAt (s : State) (e : Nat) (i : SetupItem) : State :=
  if e ≤ s.tick then s.squareItem i else { s with sq := { s.sq with edits := s.sq.edits ++ [(i, some e)] } }

/-- A register's value takes effect at its tick, at once if that has passed. -/
def State.regAt (s : State) (e k v : Nat) : State :=
  let s := s.dueKey .baseTick k v e
  if e ≤ s.tick then s.applyKey k else s

/-- Apply one item on a module that follows, at its effect tick (Table 8-2). -/
def State.applyItem (s : State) (x : Nat × SetupItem) : State :=
  let e := x.1
  match x.2 with
  | .regTick k v => s.regAt e k v
  | .regStart t k v => s.dueKey (.taskStart t) k v
  | .regRelease t k v => s.dueKey (.taskRelease t) k v e
  | .regBarrier k v => s.dueKey .barrier k v
  | .disp t q r => { s with sched := { s.sched with disps := s.sched.disps ++ [((t, q, r), some e)] } }
  | .tag a bs => s.squareAt e (.tag a bs)
  | .ttc f l a => s.squareAt e (.ttc f l a)
  | .barrier => s.squareAt e .barrier
  | .taskState t n =>
    let s := if n = 1 && s.getF SCH_TASKSTAT_STATE t ≠ 1 then s.applyDue (.taskStart t) else s
    s.setF SCH_TASKSTAT_STATE n t
  | .olc n =>
    if n = 7 then s.olcEnd (s.olc.cand.isSome && s.flag SCH_CFGSTAT_CHECKED)
    else (if n = 3 then s.migPass else s).setF SCH_OLCSTAT_STEP n
  | .force n v =>
    State.showForces { s with sched := { s.sched with forces := match v with
      | some v => tabSet s.sched.forces n (v, s.now)
      | none => tabDel s.sched.forces n } }
  | .mode k m => { s with sched := { s.sched with accepted := s.sched.accepted ++ [(m, k)] } }
  | .switchTick k => State.setF { s with pair := { s.pair with switchAt := some k, swPath := none } } PAR_STAT_SWPEND 1
  | .acts t n => s.modTask t (fun x => { x with acts := n })
  | .domain k d => { s with plant := { s.plant with domAt := some (k, d) } }
  | .tail a v => s.sysWrite a (natLe 2 v)
  | .degraded f t =>
    let t := match (s.fnRt f).since with | some u => min t u | none => t
    State.modKerb { s with io := { s.io with fns := tabSet s.io.fns f { s.fnRt f with since := some t } } } (fun k => { k with degMram := tabSet k.degMram f t })
  | .cut n t x =>
    let c : CutRt :=
      { op := n, at_ := t, sess := 0, qp := 0, d := ⟨[], [], true, true⟩, set := x, deadline := t, got := [], taken := false, mirrored := true,
        sigs := ((s.cfg.cutSets.find? (fun c => c.no.val = x)).map CutSetDef.sigs).getD [] }
    { s with plant := { s.plant with cuts := s.plant.cuts ++ [c], opSeq := max s.plant.opSeq (n + 1) } }
  | .cutEnd n => { s with plant := { s.plant with cuts := s.plant.cuts.filter (fun c => c.op ≠ n) } }
  | .activation k l => State.setF { s with olc := { s.olc with actAt := some k, load := l } } SCH_OLCSTAT_STEP 4

/-! ### A cycle packet applied (R199, R201, R203, R205) -/

/-- The EVENT entries of a COMMIT payload (Table 16-6): kind, subject, object, data. -/
def payloadEvents : Nat → List Byte → List (Nat × Nat × Nat × List Byte)
  | 0, _ => []
  | fuel + 1, bs =>
    let h := leNat (bs.take 4)
    let len := h / 256
    if bs.length < 4 || len < 4 then []
    else
      let c := (bs.take len).drop 4
      let rest := payloadEvents fuel (bs.drop len)
      if h % 256 = 3 then
        (leNat (c.take 2), leNat ((c.drop 2).take 2), leNat ((c.drop 4).take 4), (c.drop 12).take (leNat ((c.drop 8).take 4))) :: rest
      else rest

/-- A carried record as the Arcade holds it. -/
def recOf (r : RecData) : ArcRec :=
  { kind := r.kind, flags := r.flags, seat := r.seat, seq := r.seq, csn := r.csn, time := r.time, task := r.task, epoch := r.epoch, payload := r.payload,
    prog := false }

/-- The bytes a packet writes: input image, carried state, host writes, and the own seat's outputs. -/
def State.pktWrites (s : State) (p : CyclePkt) : Ovl :=
  let t := p.task.val
  let o := p.input.foldl (fun o e => tabSet (ovlWrL o (s.inSlot t e.1) (natLe 8 e.2.2)) (s.inStat t e.1) (BitVec.ofNat 8 e.2.1)) []
  let o := p.carry.foldl (fun o r => ovlWrL o r.1 r.2) o
  let o := p.hostw.foldl (fun o h => h.2.2.foldl (fun o w => ovlWrL o w.1 w.2) o) o
  p.seatout.foldl (fun o e => ovlWrL o (s.outSlot t e.1) (natLe 8 e.2)) o

/-- Start the audit of a marked cycle (R203): from the packet's input image and host writes, the own state at BASECSN, and SUPPL. One whose base is no more
held, and one that a newer audit of the task replaces, is abandoned (DESIGN CHOICE, log entry 79). -/
def State.startAudit (s : State) (p : CyclePkt) : State :=
  let t := p.task.val
  let go (s : State) (d : TaskDef) (base : Snap) : State :=
    let hostw := p.hostw.foldl (fun o h => h.2.2.foldl (fun o w => ovlWrL o w.1 w.2) o) []
    let suppl := p.suppl.foldl (fun o r => ovlWrL o r.1 r.2) []
    let img := ovlLay (s.taskRt t).lastImg hostw
    let a : AuditRt :=
      { task := t, csn := p.csn, baseCsn := p.baseCsn, rel := p.tick, grid := p.tick, ohash := p.ohash, chash := p.chash, img := img, suppl := suppl }
    let r := { s.newRun d .audit p.tick p.tick img [] with
      baseCsn := p.baseCsn, base := memLay base.mem suppl, basePoison := base.poison, store := (s.storeAt p.baseCsn).getD s.actStore }
    let s := if (s.run? .audit t).isSome then s.bump PAR_AUDCNT_AUDSKIP else s
    State.putRun { s with pair := { s.pair with audits := s.pair.audits.filter (fun x => x.task ≠ t) ++ [a] } } r
  match s.taskDef? t, s.snapAt? p.baseCsn with
  | some d, some b => go s d b
  | _, _ => s.bump PAR_AUDCNT_AUDSKIP

/-- The outputs of the own seat from a SEATOUT section. -/
def State.seatOut (s : State) (p : CyclePkt) : State :=
  let s := s.outputsHold false
  let s := (p.seatout.filterMap (fun e => (s.sig? e.1).map (fun g => (g, e.2)))).foldl (fun s e => s.driveOne e.1 e.2) s
  s.canCommit p.task.val s.driveVal []

/-- A packet has arrived. One that stands for grid tick g of the fastest task ends the run of missing packets, and SUSPECT is left once none is
missing (R205). -/
def State.heard (s : State) (g : Option Nat) : State :=
  let s : State := { s with pair := { s.pair with heardAt := s.now } }
  match g with
  | none => s
  | some g =>
    let s : State := { s with pair := { s.pair with lastTick := max s.pair.lastTick g } }
    if g < s.pair.missing then s
    else
      let s : State := { s with pair := { s.pair with missRun := 0, missing := 0 } }
      if s.getF PAR_STAT_STATE = 4 then s.enterPair 3 else s

/-- The grid tick of the fastest task for which a cycle packet stands: that of the cycle's release, for a cycle of that task (R198). -/
def State.pktGrid (s : State) (p : CyclePkt) : Option Nat := if s.fastest = some p.task.val then some (s.fastFloor p.tick) else none

/-- The exception record of a task in an applied packet: PEND follows its XCPPEND bit, and XSEQ the record (R105, R501). -/
def State.mirrorXcp (s : State) (t : Nat) (w : Ovl) : State :=
  match s.sysAddr .xcpPend false 0 with
  | none => s
  | some a =>
    if !(List.range 32).any (fun i => tabHas w (a + i)) then s
    else
      let bit := bitOf (memRd s.sq.mem (a + t / 8)).toNat (t % 8)
      let s := s.setB SCH_TASKXCP_PEND bit t
      match s.sysAddr .xcp false t with
      | some b => if bit then s.modTask t (fun x => { x with xseq := leNat (memRdL s.sq.mem (b + 0x14) 4) }) else s
      | none => s

/-- What a packet does to the Square: its epoch, the settings due at the release and the set-up, the activation it carries, its flip, and the units it says are
poisoned; and the bytes that were written. -/
def State.pktFlip (s : State) (p : CyclePkt) : Ovl × State :=
  let t := p.task.val
  let s := (s.setEpoch p.epoch).applyReleaseAt t p.tick
  let s := p.setup.foldl State.applyItem s
  let before := pagesOf s.sq.mem
  let s := match p.activation, s.olc.cand with
    | true, some k =>
      let load := s.olc.load
      (s.activate k load p.csn).setF SCH_OLCSTAT_STEP (if load then 6 else 5)
    | _, _ => s
  let w := s.pktWrites p
  let s := (s.flip p.csn w).dualWrite w
  let s := if p.activation then s.newLayout before else s
  let bad := (s.sq.poison ++ p.poison).eraseDups
  (w, { s with sq := { s.sq with poison := bad, snaps := match s.sq.snaps with | x :: xs => { x with poison := bad } :: xs | [] => [] } })

/-- What else a packet leaves in the module: the held values and the task's account, its exception record, the Arcade's records, the retained values, the CAN
queues, the host's identities, and how far packets have been applied. -/
def State.pktKeep (s : State) (p : CyclePkt) (w : Ovl) : State :=
  let t := p.task.val
  let s : State := { s with sched := { s.sched with
    held := p.input.foldl (fun h e => if (s.sig? e.1).any (fun g => g.db ≠ 0) then tabSet h e.1 (e.2.2, e.2.1) else h) s.sched.held,
    inits := s.sched.inits.filter (fun n => n ≠ t) } }
  let img := w.filter (fun b => s.inImg t b.1)
  let s := s.modTask t (fun x => { x with lastImg := if p.fullImage then img else ovlLay x.lastImg img, lastR := p.tick, released := true,
                                          specBar := 2 })
  let s := s.mirrorXcp t w
  let r := recOf p.record
  let more := p.more.map recOf
  let s : State := { s with arc := { s.arc with cyc := s.arc.cyc ++ r :: more, cycSeq := r.seq + 1 + more.length } }
  let s := (payloadEvents r.payload.length r.payload).foldl (fun s e => s.event e.1 p.task.val e.2.2.2) s
  let ret := w.filter (fun b => s.retained b.1)
  let s : State := if ret.isEmpty then s else { s with arc := { s.arc with retStaged := s.arc.retStaged ++ [(p.csn, ret)] } }
  let s := if p.activation && s.getF SCH_OLCSTAT_STEP = 5 then s.stageRetained p.csn else s
  let s := s.canHandOver p.csn w
  let s := s.identify (p.hostw.map (fun h => (h.1, h.2.1))) p.csn
  { s with pair := { s.pair with
    applied := p.csn, appliedAt := s.now,
    since := if s.pair.resync.isEmpty && !s.pair.resyncAll then [] else p.carry.foldl (fun o x => ovlWrL o x.1 x.2) s.pair.since } }

/-- What the module then does: the outputs of its seat, subscriptions, the acknowledgement, and the roles. -/
def State.pktReact (s : State) (p : CyclePkt) : State :=
  let s := s.seatOut p
  let s := match s.sq.snaps.head? with | some x => s.subsCommit p.task.val p.tick x | none => s
  let s := (s.setAck p.csn).hostAdvance
  let s := s.sendPacket 0x04 0 0 p.csn 0 0 0 0 []
  let s := s.heard (s.pktGrid p)
  let s := if s.pair.oldLead && s.getF PAR_STAT_STATE = 2 then
      State.enterPair { s with pair := { s.pair with oldLead := false } } 3
    else s
  let s := if p.audit && (s.getF PAR_STAT_STATE = 3 || s.getF PAR_STAT_STATE = 4) then s.startAudit p else s
  s.tryHandover

/-- Apply one cycle packet as a commit under the Lead's CSN, in either order of arrival of its copies, and acknowledge it; what the engines may not write
is not applied (R185). -/
def State.applyPacket (s : State) (p : CyclePkt) : State :=
  s.byEngines pairMasters .wr ((runsOf (s.pktWrites p)).map (fun r => (r.1, r.2.length))) (fun s =>
    let m := s.pktFlip p
    (m.2.pktKeep p m.1).pktReact p)

/-- Has the packet's turn come: it carries the next CSN, or it is the first of a new epoch, whose numbers may begin higher (R199, R213)? -/
def State.pktNext (s : State) (p : CyclePkt) : Bool := p.csn = s.pair.applied + 1 || (p.epoch > s.epoch && p.csn > s.pair.applied)

/-- Apply the queued packets whose turn has come. -/
def State.drainPkts (s : State) : Nat → State
  | 0 => s
  | n + 1 =>
    match s.pair.queued.find? s.pktNext with
    | none => s
    | some p => State.drainPkts (State.applyPacket { s with pair := { s.pair with queued := s.pair.queued.filter (fun x => x.csn > p.csn) } } p) n

/-- CYCLE_PACKET_APPLY (R196, R199): the first intact copy of a packet, of an epoch not below the own, in CSN order: one that is ahead of its turn waits.
A module in JOIN queues it; a Lead that hears a Lead of a higher epoch steps down (R216). -/
def execCyclePacketApply (p : CyclePkt) (s : State) : Host.Outcome State Fault Refusal :=
  done (
    let st := s.getF PAR_STAT_STATE
    if s.isLead then (if p.epoch > s.epoch then s.stepDown else s)
    else if p.epoch < s.epoch || s.pair.pktSeen.contains (p.epoch, p.pktSeq) || !(1 ≤ st && st ≤ 4) then s
    else
      let s : State := { s with pair := { s.pair with pktSeen := ((p.epoch, p.pktSeq) :: s.pair.pktSeen).take 64 } }
      if st = 1 then State.heard { s with pair := { s.pair with queued := s.pair.queued ++ [p] } } (s.pktGrid p)
      else if p.csn ≤ s.pair.applied then s
      else if s.pktNext p then (s.applyPacket p).drainPkts s.pair.queued.length
      else { s with pair := { s.pair with queued := s.pair.queued ++ [p], heardAt := s.now } })

/-! ### TICK packets and acknowledgements (R198, R199, R206) -/

/-- Send a TICK packet that stands for grid tick g, with the set-up items that wait. -/
def State.sendTick (s : State) (g : Nat) : State :=
  let l := s.takeSetup.1
  let s : State := s.takeSetup.2.sendPacket 0x02 0 0 0 0 g 0 0 l
  let s : State := { s with pair := { s.pair with gSent := max s.pair.gSent g } }
  if s.getF PAR_STAT_STATE = 6 then { s with pair := { s.pair with sent := s.pair.sent ++ [⟨0, g, true, false⟩] } } else s

/-- TICK (R198): no packet for grid tick G of the fastest task has left, and the base tick at whose end G + P_f falls has begun; in any mode, also while that
task is stopped or late. -/
def execTickSend (g : Nat) (s : State) : Host.Outcome State Fault Refusal :=
  done (if s.hasFollower && s.isFastGrid g && decide (g > s.pair.gSent) && decide (s.tick + 1 ≥ g + s.pf) then s.sendTick g else s)

/-- TICK_PACKET_RECEIVE (R198): its set-up items are applied as those of a cycle packet, in JOIN once the transfer has ended; it is acknowledged, with CSN 0
(DEDUCED, log entry 81). -/
def execTickPacketReceive (g epoch : Nat) (setup : List (Nat × SetupItem)) (s : State) : Host.Outcome State Fault Refusal :=
  done (
    let st := s.getF PAR_STAT_STATE
    if s.isLead then (if epoch > s.epoch then s.stepDown else s)
    else if epoch < s.epoch then s
    else if st = 1 then State.heard { s with pair := { s.pair with heldSetup := s.pair.heldSetup ++ setup } } (some g)
    else if st = 2 || st = 3 || st = 4 then ((setup.foldl State.applyItem s).sendPacket 0x04 0 0 0 0 0 0 0 []).heard (some g)
    else s)

/-- Drop the acknowledged packets at the head, with the CSN up to which all are acknowledged; a TICK packet has none. -/
def ackPrefix : List SentPkt → Nat → List SentPkt × Nat
  | [], n => ([], n)
  | x :: xs, n => if x.acked then ackPrefix xs (if x.csn = 0 then n else x.csn) else (x :: xs, n)

/-- Mark the packet that an ACK names: that of its CSN, or for 0 the oldest TICK packet without one. -/
def ackMark (csn : Nat) : List SentPkt → List SentPkt
  | [] => []
  | x :: xs => if x.csn = csn && !x.acked then { x with acked := true } :: xs else x :: ackMark csn xs

/-- ACK (R199, R200, R206): that of a packet standing for a grid tick of the fastest task ends the run of missing ACKs. -/
def execAck (csn : Nat) (s : State) : Host.Outcome State Fault Refusal :=
  done (
    if s.getF PAR_STAT_STATE ≠ 6 then s
    else
      let std := ((s.pair.sent.find? (fun x => x.csn = csn && !x.acked)).map SentPkt.std).getD false
      let r := ackPrefix (ackMark csn s.pair.sent) s.ackCsn
      let s : State := { s with pair := { s.pair with sent := r.1, heardAt := s.now, missRun := if std then 0 else s.pair.missRun,
                                                      missing := if std then 0 else s.pair.missing } }
      (s.setAck r.2).hostAdvance)

/-- The Follower is declared lost at the second missing ACK in a row, or 500 µs after the latest ACK, whichever is later (R206). -/
def State.ackLost (s : State) : State :=
  if s.getF PAR_STAT_STATE = 6 && decide (s.pair.missRun ≥ 2) && decide (s.now ≥ s.pair.heardAt + 500000) then s.partnerLost (s.flag PAR_STAT_FENCEIN) else s

/-- ACK_MISSING (R206): the ACK of a packet for grid tick G has not come by G + P_f + 40 µs. -/
def execAckMissing (g : Nat) (s : State) : Host.Outcome State Fault Refusal :=
  done (
    if s.getF PAR_STAT_STATE = 6 && s.pair.partner.any (fun h => h.state = 3 || h.state = 4) && decide (g > s.pair.missing) &&
       decide (s.now ≥ (g + s.pf) * 62500 + 40000) && s.pair.sent.any (fun x => x.std && x.tick = g && !x.acked) then
      (State.bump { s with pair := { s.pair with missRun := s.pair.missRun + 1, missing := g } } PAR_LOSSCNT_MISSCNT).ackLost
    else s)

/-! ### SEATSAMPLE and the seat outputs (R201, R310, R318) -/

/-- SEATSAMPLE_SEND: every base tick, of a module in TRACK, FOLLOW or SUSPECT: the values of its seat's signals, what its rings have taken since, and
its seat connection's PDU stands among the PDUs it sends. -/
def execSeatsampleSend (s : State) : Host.Outcome State Fault Refusal :=
  done (
    let st := s.getF PAR_STAT_STATE
    if st = 2 || st = 3 || st = 4 then
      let sigs := s.cfg.sigs.filter (fun g => !g.out && srcSeat g.src = some s.seatB)
      let vals := sigs.flatMap (fun g => let v := s.ownSignal g.src g s.tick; [g.no, v.2, v.1])
      let rings := s.pair.seatRing.flatMap runBytes
      State.sendPacket { s with pair := { s.pair with seatRing := [] } } 0x03 0 0 0 0 0 0 0 [words vals, rings]
    else s)

/-- SEATSAMPLE_RECEIVE: on the Lead. -/
def execSeatsampleReceive (vals : List (Nat × Nat × Nat)) (rings : List (Nat × List Byte)) (pdus : List (Fin 4096 × List Byte)) (s : State) :
    Host.Outcome State Fault Refusal :=
  done (
    if !s.isLead then s
    else s.byEngines [0x202] .wr (rings.map (fun r => (r.1, r.2.length))) (fun s =>
      let s : State := { s with io := { s.io with seatAt := s.tick, inbox := vals.foldl (fun t v => tabSet t v.1 (v.2.2, v.2.1)) s.io.inbox } }
      let s := rings.foldl (fun s r => s.sysWrite r.1 r.2) s
      pdus.foldl (fun s p => match s.conn? p.1.val with
        | some d => if d.far = .seat then s.pduTake d p.2 else s
        | none => s) s))

/-- SEAT_OUTPUT_TIMEOUT (R201): no cycle packet applied for 4 × P_f. -/
def execSeatOutputTimeout (s : State) : Host.Outcome State Fault Refusal :=
  done (
    let st := s.getF PAR_STAT_STATE
    if (st = 2 || st = 3 || st = 4) && s.now ≥ s.pair.appliedAt + 4 * s.pf * 62500 then s.outputsHold true else s)

/-! ### Audits (R203, R204) -/

/-- An audit ends: its run is no more. -/
def State.auditEnd (s : State) (t : Nat) : State :=
  State.delRun { s with pair := { s.pair with audits := s.pair.audits.filter (fun a => a.task ≠ t) } } .audit t

/-- The Follower resynchronises tasks (R204): it enters TRACK, and the Lead is asked for their pages. -/
def State.startResync (s : State) (l : List Nat) (all : Bool) : State :=
  let s : State := { s with pair := { s.pair with resync := s.pair.resync ++ l.filter (fun t => !s.pair.resync.contains t), resyncAll := s.pair.resyncAll || all } }
  let s : State := { s with pair := { s.pair with resyncEnd := false } }
  (if s.getF PAR_STAT_STATE = 3 || s.getF PAR_STAT_STATE = 4 then s.enterPair 2 else s).sendHello

/-- An audit has missed (Table 8-4): the third within 24 h takes the module out of the pair, and one on probation gives its slot up (Table 17-8). -/
def State.auditMiss (s : State) (a : AuditRt) (oh ch : Nat) : State :=
  let t := a.task
  let s := (s.auditEnd t).bump PAR_AUDCNT_AUDMISS
  let s := s.evHw 23 [t, a.csn, a.ohash, a.chash, oh, ch]
  let l := s.now :: s.pair.missAt.filter (fun x => decide (s.now < x + dayNs))
  let s : State := { s with pair := { s.pair with missAt := l } }
  let s := if s.flag BOT_STAT_PROBATION then s.modKerb (fun k => { k with rejecting := true, okSince := none }) else s
  if l.length ≥ 3 then (s.evHw 24 [t]).loseRole 8
  else s.startResync [t] false

/-- Poisoned units of carried state that an abandoned audit may have met are asked of the Lead again (Table 8-4). -/
def State.fetchBad (s : State) : State :=
  let l := s.sq.poison.filter (fun u => (List.range 64).any (fun i => s.carried (u + i)))
  if l.isEmpty then s else State.sendHello { s with pair := { s.pair with fetch := l } }

/-- AUDIT_COMPLETE (R203): every stream of the audit has ended, or it has raised an exception or failed. -/
def execAuditComplete (task : TaskNo) (s : State) : Host.Outcome State Fault Refusal :=
  done (
    let t := task.val
    match s.run? .audit t, s.pair.audits.find? (fun a => a.task = t) with
    | some r, some a =>
      if r.abandoned then ((s.auditEnd t).bump PAR_AUDCNT_AUDSKIP).fetchBad
      else if r.held.isSome then s.auditMiss a 0 0
      else if r.st ≠ .ended then s
      else
        let st := r.stores
        let w := ovlLay r.img st
        let mem := memLay r.base w
        let u := s.under r.store
        let oh := crc64 ((isort (fun a b => decide (a < b)) (u.wroteOuts t st)).flatMap (fun n =>
          memRdL mem (u.outSlot t n) 8 ++ [memRd mem (u.outStat t n)]))
        let ch := crc64 (carryBody (w.filter (fun p => u.carried p.1)))
        if oh = a.ohash && ch = a.chash then (s.auditEnd t).bump PAR_AUDCNT_AUDOK else s.auditMiss a oh ch
    | _, _ => s)

/-- AUDIT_TIMEOUT (R203): 16 periods of the task have passed. -/
def execAuditTimeout (task : TaskNo) (s : State) : Host.Outcome State Fault Refusal :=
  done (
    let t := task.val
    match s.pair.audits.find? (fun a => a.task = t) with
    | some a => if s.tick ≥ a.rel + 16 * s.getF SCH_TASKCFG_PERIOD t then (s.auditEnd t).bump PAR_AUDCNT_AUDSKIP else s
    | none => s)

/-- RESYNC_COMPLETE (R204): the pages and every packet up to the current CSN are applied. -/
def execResyncComplete (s : State) : Host.Outcome State Fault Refusal :=
  done (
    if (s.pair.resync.isEmpty && !s.pair.resyncAll) || !s.pair.resyncEnd || !s.pair.queued.isEmpty then s
    else
      let s : State := { s with pair := { s.pair with resync := [], resyncAll := false, since := [], resyncEnd := false } }
      if s.getF PAR_STAT_STATE = 2 then s.enterPair 3 else s)

/-! ### Losing the Lead (R205, R207, R208) -/


/-- May the Lead be declared lost: at the deadline of the second missing packet in a row, or 500 µs after the latest packet, whichever is later (R205)? -/
def State.leadLost (s : State) : Bool := decide (s.pair.missRun ≥ 2) && decide (s.now ≥ s.pair.heardAt + 500000)

/-- LEAD_LOST_DECLARED (R205, R208): in SUSPECT without a majority, ISOLATED; in JOIN or TRACK, FENCED (Table 8-7). -/
def execLeadLostDeclared (s : State) : Host.Outcome State Fault Refusal :=
  done (
    if !s.leadLost then s
    else match s.getF PAR_STAT_STATE with
    | 4 =>
      let s := s.backfillLost.loseRole 5
      State.setF { s with pair := { s.pair with grants := [] } } PAR_WITSTAT_GRANTS 0
    | 1 => s.leadLostUnfit
    | 2 => s.leadLostUnfit
    | _ => s)

/-- FENCE_RECOGNISED (R207, R208, R206): the Lead goes on alone, an eligible Follower takes the Lead at once, or at S once HANDOVER is applied. -/
def execFenceRecognised (s : State) : Host.Outcome State Fault Refusal :=
  done (
    let s := (s.setF PAR_STAT_FENCEIN 1).setF PAR_STAT_FENCEFLT 0
    match s.getF PAR_STAT_STATE with
    | 6 => s.partnerLost true
    | 3 => if s.pair.handed.isSome then s else s.takeAfterFailure
    | 4 => if s.pair.handed.isSome then s else s.takeAfterFailure
    | 1 => s.leadLostUnfit
    | 2 => s.leadLostUnfit
    | _ => s)

/-- FENCE_LINE_FAULT (R207): it decides nothing. -/
def execFenceLineFault (s : State) : Host.Outcome State Fault Refusal := done (s.setF PAR_STAT_FENCEFLT 1)
/-- FENCE_RELEASED (R207). -/
def execFenceReleased (s : State) : Host.Outcome State Fault Refusal := done ((s.setF PAR_STAT_FENCEIN 0).setF PAR_STAT_FENCEFLT 0)
/-- SEATSENSE_FALL (R207). -/
def execSeatsenseFall (s : State) : Host.Outcome State Fault Refusal := done (s.setF PAR_STAT_PSEAT 0)
/-- BOULEVARD_LINK_CHANGE (R196, R224). -/
def execBoulevardLinkChange (link : Fin 2) (up : Bool) (s : State) : Host.Outcome State Fault Refusal :=
  done (
    let u := s.getF PAR_STAT_LINKUP
    let b := 2 ^ link.val
    (s.setF PAR_STAT_LINKUP (u - u / b % 2 * b + b2n up * b)).evHw 25 [link.val, b2n up])

/-! ### Witnesses (R195, R211, R212, R216) -/

/-- Send WREQ for the epoch the module would set to every witness; grants of another epoch are worth nothing. -/
def State.askWitnesses (s : State) : State :=
  let e := s.nextEpoch
  let s : State := if s.pair.grantFor = e then s
    else State.setF { s with pair := { s.pair with grantFor := e, grants := [] } } PAR_WITSTAT_GRANTS 0
  s.witnesses.foldl (fun s d => s.fspSend .witness 0x06 d.2.1 (d.1 % 0x1000) s.stamp32 0 false (natLe 4 e)) s

/-- PACKET_MISSING (R205, R211): no packet for grid tick G of the fastest task by G + P_f + 20 µs; at the first the Follower enters SUSPECT and asks the
witnesses. A module in JOIN or TRACK counts it (Table 8-7). -/
def execPacketMissing (g : Nat) (s : State) : Host.Outcome State Fault Refusal :=
  done (
    let st := s.getF PAR_STAT_STATE
    if 1 ≤ st && st ≤ 4 && s.isFastGrid g && g > s.pair.lastTick && g > s.pair.missing && s.pair.handed.isNone &&
       decide (s.now ≥ (g + s.pf) * 62500 + 20000) then
      let s := State.bump { s with pair := { s.pair with missRun := s.pair.missRun + 1, missing := g } } PAR_LOSSCNT_MISSCNT
      if st = 3 then (s.enterPair 4).askWitnesses else s
    else s)

/-- WREQ (R211): in SUSPECT, every 25 µs. -/
def execWreq (s : State) : Host.Outcome State Fault Refusal := done (if s.getF PAR_STAT_STATE = 4 then s.askWitnesses else s)

/-- PAIR_START_TIMEOUT (R195): in START, no partner in LEAD, SOLO or START for 10 s; witnesses are asked every 1 s. -/
def execPairStartTimeout (s : State) : Host.Outcome State Fault Refusal :=
  done (
    let near := s.pair.partner.any (fun h => (h.state = 0 || h.state = 6 || h.state = 7) && decide (s.now < s.pair.helloAt + 10000000000))
    if s.getF PAR_STAT_STATE = 0 && s.kerb.phase = .run && !near && s.now ≥ s.pair.startAt + 10000000000 then s.askWitnesses else s)

/-- WGRANT (R212, R208): a grant of a configured witness for the requested epoch; it counts also once packets have resumed (Table 8-7). -/
def execWgrant (link : Fin 104) (frame : List Byte) (s : State) : Host.Outcome State Fault Refusal :=
  done (
    match s.fspTake link 0x07 frame with
    | (none, s) => s
    | (some f, s) =>
      let st := s.getF PAR_STAT_STATE
      let e := leNat (f.data.take 4)
      let w := s.witnessId f.sta
      if !((st = 3 || st = 4 || st = 0) && e = s.pair.grantFor && w.isSome && !s.pair.grants.contains (w.getD 0)) then s
      else
        let g := w.getD 0 :: s.pair.grants
        let s := State.setF { s with pair := { s.pair with grants := g } } PAR_WITSTAT_GRANTS g.length
        if 2 * g.length ≤ s.witnesses.length then s
        else if st ≠ 0 then s.takeAfterFailure
        else (s.takeLead 7 .pairStart).firstStart)

/-- WREFUSE (R212). -/
def execWrefuse (link : Fin 104) (frame : List Byte) (s : State) : Host.Outcome State Fault Refusal :=
  done (
    match s.fspTake link 0x08 frame with
    | (none, s) => s
    | (some _, s) => s.bump PAR_WITSTAT_REFUSED)

/-- WITNESS_ASSENT_LOST (R216): a Lead that has declared its Follower lost without FENCE, and has not heard its epoch from more than half of the witnesses
within the last P_f + 50 µs. -/
def execWitnessAssentLost (s : State) : Host.Outcome State Fault Refusal :=
  done (if s.isLead && s.pair.lostUnfenced && decide (2 * s.assents ≤ s.witnesses.length) then s.stepDown else s)

/-! ### Switch-over (R218) -/

/-- SWITCH_TICK: at S the old Lead aborts its cycles, sends what set-up no packet has carried (log entry 82), then HANDOVER, and enters TRACK. -/
def execSwitchTick (s : State) : Host.Outcome State Fault Refusal :=
  done (
    match s.pair.switchAt with
    | some k =>
      if s.getF PAR_STAT_STATE = 6 && s.tick ≥ k then
        let c := s.sq.csn
        let s := if s.pair.setup.isEmpty then s else s.sendTick (s.fastFloor (k - 1))
        let s := s.abortRuns.hostNotLead.sendPacket 0x05 0 0 c 0 0 0 0 []
        let s : State := { s with pair := { s.pair with switchAt := none, oldLead := true, applied := c, appliedAt := s.now, lastTick := s.tick, missRun := 0, missing := 0, sent := [] } }
        (s.setF PAR_STAT_SWPEND 0).enterPair 2
      else s
    | none => s)

/-- HANDOVER (R218): it names c_h. -/
def execHandover (csn epoch : Nat) (s : State) : Host.Outcome State Fault Refusal :=
  done (
    if s.flag PAR_STAT_ELIGIBLE && epoch = s.epoch then State.tryHandover { s with pair := { s.pair with handed := some csn } } else s)

/-! ### PAR_CMD (R225): commands take effect at the next base tick -/

/-- Offset of PAR_CMD. -/
def parCmdOff : Nat := 0x90014

/-- A command waits for the base tick; UPDATE-ENABLE is judged for CLEARCFG as the write arrives (R2, R492). -/
def State.parCmd (s : State) (p : Path) (n : Nat) : State :=
  if n = 5 && !s.updateEnable then s.ignored p parCmdOff 2 else { s with pair := { s.pair with cmds := s.pair.cmds ++ [(n, p)] } }

/-- SWITCH (R218); without a path it is the partner's request, which has reached the Lead. -/
def execParSwitch (path : Option Path) (s : State) : Host.Outcome State Fault Refusal :=
  done (match path with | some p => s.written p parCmdOff (fun s => s.parCmd p 1) | none => if s.isLead then s.switchRequest.2 else s)
/-- RELEASE (R223). -/
def execParRelease (path : Path) (s : State) : Host.Outcome State Fault Refusal := done (s.written path parCmdOff (fun s => s.parCmd path 2))
/-- JOIN (R219). -/
def execParJoin (path : Path) (s : State) : Host.Outcome State Fault Refusal := done (s.written path parCmdOff (fun s => s.parCmd path 3))
/-- RESYNC (R204). -/
def execParResync (path : Path) (s : State) : Host.Outcome State Fault Refusal := done (s.written path parCmdOff (fun s => s.parCmd path 4))
/-- CLEARCFG (R225). -/
def execParClearcfg (path : Path) (s : State) : Host.Outcome State Fault Refusal := done (s.written path parCmdOff (fun s => s.parCmd path 5))

end Sys2Proof.Machine
end

