-- ==== Sys2Proof/Machine/Join.lean ====
section
/-! DEFINITION. Pair start, join, resynchronisation and back-fill (08, R191, R195, R204, R219 to R223, R225; 17, R443 to R445, R452). -/
namespace Sys2Proof.Machine

/-! ### The Lead's side of a join (R219, R220) -/

/-- A join begins: the Lead asks for attestation, and its HELLO tells a module without a role to join. -/
def State.beginJoin (s : State) : State :=
  let s := (s.setF PAR_JOINSTAT_PHASE 1).setF PAR_JOINSTAT_REFUSE 0
  ((s.setF PAR_JOINSTAT_BULKPCT 0).evCfg 5 [1]).sendHello

/-- May a join begin: the module leads, no partner is in the pair, and no join is in progress? -/
def State.joinFree (s : State) : Bool :=
  s.isLead && (s.getF PAR_JOINSTAT_PHASE = 0 || s.getF PAR_JOINSTAT_PHASE = 5) &&
  !(s.getF PAR_STAT_STATE = 6 && s.pair.partner.any (fun h => h.state = 2 || h.state = 3 || h.state = 4))

/-- The Lead refuses the join with a cause, and tells the joiner. -/
def State.refuseJoin (s : State) (cause : Nat) : State :=
  let s := (s.setF PAR_JOINSTAT_PHASE 0).setF PAR_JOINSTAT_REFUSE cause
  ({ s with pair := { s.pair with joinBase := none } } : State).sendHello.evSec 1 [cause]

/-- A partner with a DeviceID other than PARTNERID is noticed (R444). -/
def State.partnerSeen (s : State) (dev : Nat) : State :=
  if dev = s.kerb.partnerId then s else (s.evSec 2 [s.kerb.partnerId, dev]).setF KRB_STAT_PARTNERNEW 1
/-- It is kept once both modules are in the pair. -/
def State.partnerKept (s : State) : State :=
  match s.pair.partner with
  | some h => s.modKerb (fun k => { k with partnerId := h.devId })
  | none => s

/-- Phase 2 of a join (R219): the configurations are settled (Table 8-6), a joiner of another installation being overwritten like one of a lower generation
(R445). Without a HELLO of the joiner the phase waits for one. -/
def State.settleCfg (s : State) : State :=
  match s.pair.partner with
  | none => s
  | some h =>
    if h.seat = s.seatB then s.refuseJoin 5
    else if h.instId ≠ s.cfg.instId then s.setF PAR_JOINSTAT_PHASE 6
    else if h.cfgGen = s.cfgGen && h.digest ≠ s.cfg.digest then s.refuseJoin 3
    else if h.cfgGen > s.cfgGen then s.refuseJoin 4
    else s.setF PAR_JOINSTAT_PHASE 6

/-- JOIN_ATTESTATION (R443, R219 phases 1 and 2): the checks in order; then the configurations are settled. An OLM-4200 is refused as firmware that is not
qualified (R3). -/
def execJoinAttestation (e : JoinEvid) (s : State) : Host.Outcome State Fault Refusal :=
  done (
    if !(s.isLead && s.getF PAR_JOINSTAT_PHASE = 1) then s
    else
      let b := s.bundle
      if !e.chainOk || !e.nonceOk then s.refuseJoin 1
      else if e.idMarg then s.refuseJoin 2
      else if e.old42 || !s.qualified e.kerbDigest e.modDigest || e.protoHi < b.protoLo || b.protoHi < e.protoLo then s.refuseJoin 6
      else
        ((s.partnerSeen e.devId).setF PAR_JOINSTAT_PHASE 2).settleCfg)

/-- JOIN_CLOCK_TIMEOUT (R219 phase 3): the Lead refuses; the joiner enters FENCED. -/
def execJoinClockTimeout (s : State) : Host.Outcome State Fault Refusal :=
  done (
    if s.isLead && s.getF PAR_JOINSTAT_PHASE = 6 then s.refuseJoin 7
    else if s.getF PAR_STAT_STATE = 1 && s.getF PAR_JOINSTAT_PHASE ≤ 2 then
      ((s.setF PAR_JOINSTAT_REFUSE 7).setF PAR_JOINSTAT_PHASE 0).loseRole 8
    else s)

/-! The payloads of BULK packets (R204, R220): a kind and the data, at most a page in each; the manual gives them no layout (log entry 8). -/

/-- Bytes at rising addresses as payloads of a kind, a page in each. -/
def bulkRuns (kind : Nat) (o : Ovl) : List (List Byte) :=
  (pagesOf o).eraseDups.map (fun p => words [kind] ++ carryBody (o.filter (fun b => pageOf b.1 = p)))
/-- Pages of the state space as they stand, those that the engines may read (R185). -/
def State.bulkPages (s : State) (l : List Nat) : List (List Byte) :=
  (l.eraseDups.filter (fun p => (s.enginesRefuse pairMasters .rd [(p, 4096)]).isNone)).map (fun p => words [3, p] ++ memRdL s.sq.mem p 4096)
/-- The pages that hold bytes. -/
def State.pagesWith (s : State) (f : Nat → Bool) : List Nat := pagesOf (s.sq.mem.filter (fun p => f p.1))
/-- Is a register instance one whose setting SETUP carries: of the SCH, SPC and ACU blocks (R57, R140, R188)? -/
def carriedKey (k : Nat) : Bool :=
  let off := k / 2 ^ 21
  (0x30020 ≤ off && off < 0x30040) || (0x50000 ≤ off && off < 0x50030) || (0x70018 ≤ off && off < 0x7002C)

/-- A program store with its configuration. -/
def State.bulkStore (s : State) (n : Nat) (p : Pkg) : List (List Byte) :=
  words [2, n, p.gen, p.digest, p.storeDigest] ::
    (bulkRuns 1 (s.sq.code.filter (fun b => decide (storeBase n ≤ b.1) && decide (b.1 < storeBase n + 0x40000000))) ++ bulkRuns 2 p.init)

/-- What a join transfers (R220), as it stands at the join base: program stores, tag tables and the configuration, skipped where the digests agree, the
inactive store too where one stands in it (R238); the pages of carried state; the input images with their held values; the forces; the retained area; the settings carried in SETUP; the mode; the void
CSN ranges; and the end, with the join base. -/
def State.bulkList (s : State) : List (List Byte) :=
  let same := s.pair.partner.any (fun h => h.cfgGen = s.cfgGen && h.digest = s.cfg.digest)
  (if same then [] else s.bulkStore s.actStore s.cfg) ++
  (match tabGet? s.pkgs (1 - s.actStore) with | some p => s.bulkStore (1 - s.actStore) p | none => []) ++
  s.bulkPages (s.pagesWith s.carried) ++
  s.sched.held.map (fun e => words [4, e.1, e.2.2, e.2.1]) ++ s.cfg.tasks.flatMap (fun d => bulkRuns 11 (s.taskRt d.no.val).lastImg) ++
  s.sched.forces.map (fun e => words [5, e.1, e.2.1.toNat]) ++
  words [6, s.arc.retCsn, s.arc.retGen.getD 0] :: bulkRuns 6 s.arc.ret ++
  (s.regs.filter (fun e => carriedKey e.1)).map (fun e => words [7, e.1, e.2]) ++
  [words [8, s.mode], words (9 :: s.pair.voids.flatMap (fun v => [v.1, v.2])), words [0, s.sq.csn]]

/-- Bytes of a list of payloads. -/
def bulkBytes (l : List (List Byte)) : Nat := (l.map List.length).foldl (· + ·) 0

/-- The bulk transfer begins at the join base, and with it the range that the back-fill has to copy; a change in progress (R238) and the
pending cuts (R251) are told to the joiner. -/
def State.beginBulk (s : State) : State :=
  let l := s.bulkList
  let n := bulkBytes l
  let s : State := { s with pair := { s.pair with joinBase := some s.sq.csn, bulkOut := l, bulkLeft := n, bulkAll := n, imgSent := [],
                                                  bfCyc := s.arc.cycSeq, bfEv := s.arc.evSeq, bfDebt := 0 } }
  let s := (s.setF PAR_JOINSTAT_PHASE 3).setF PAR_JOINSTAT_BULKPCT 0
  let s := if 2 ≤ s.step_ && s.step_ ≤ 4 then
      let s := match s.olc.actAt with | some a => s.share (.activation a s.olc.load) | none => s
      s.share (.olc s.step_)
    else s
  let s := s.plant.cuts.foldl (fun s c => s.share (.cut c.op c.at_ c.set)) s
  s.sendPacket 0x06 0 0 0 0 0 0 0 [words [12, s.sq.csn, n]]

/-- Send payloads that wait, as far as a number of bytes allows. -/
def State.bulkSend (s : State) (bytes : Nat) : Nat → State
  | 0 => s
  | n + 1 =>
    match s.pair.bulkOut with
    | [] => s
    | p :: ps =>
      if p.length > bytes then s
      else State.bulkSend (State.sendPacket { s with pair := { s.pair with bulkOut := ps } } 0x06 0 0 0 0 0 0 0 [p]) (bytes - p.length) n

/-- Send payloads at JOINRATE, in GB/s, for a base tick. -/
def State.bulkTick (s : State) : State := s.bulkSend (s.getF PAR_CTL_JOINRATE * 62500) s.pair.bulkOut.length

/-! ### Back-fill as the Lead sends it (R221, R426) -/

/-- The newest record of a log below a SEQ. -/
def newestBelow (l : List ArcRec) (seq : Nat) : Option ArcRec := (l.filter (fun r => decide (r.seq < seq))).getLast?

/-- Copy older records, newest first, the cycle log's and then the event log's, as far as a number of bytes allows. -/
def State.backfillSend (s : State) (bytes : Nat) : Nat → State × Nat
  | 0 => (s, bytes)
  | n + 1 =>
    match newestBelow s.arc.cyc s.pair.bfCyc, newestBelow s.arc.evs s.pair.bfEv with
    | some r, _ =>
      if r.length > bytes then (s, bytes)
      else State.backfillSend (State.sendPacket { s with pair := { s.pair with bfCyc := r.seq } } 0x06 0 0 0 0 0 0 0 [words [10, 0] ++ r.bytes]) (bytes - r.length) n
    | none, some r =>
      if r.length > bytes then (s, bytes)
      else State.backfillSend (State.sendPacket { s with pair := { s.pair with bfEv := r.seq } } 0x06 0 0 0 0 0 0 0 [words [10, 1] ++ r.bytes]) (bytes - r.length) n
    | none, none => (s, 0)

/-- The bytes of back-fill that the governor allows in a base tick (R426): BFRATE, in MB/s, halved while the flash is hot, and with the live records of
the tick at most 2,000 MB/s. -/
def State.backfillRate (s : State) : Nat :=
  let rate := s.getF PAR_CTL_BFRATE * 125 / 2
  let live := logBytes (s.arc.cyc.filter (fun r => decide (r.time + 62500 > s.now)))
  min (if s.flag ARC_STAT_HOT then rate / 2 else rate) (125000 - live)

/-- A base tick of the back-fill, while a partner tracks or follows. -/
def State.backfillTick (s : State) : State :=
  if s.pair.bfCyc = 0 && s.pair.bfEv = 0 then s
  else if !(s.hasFollower && (s.getF PAR_JOINSTAT_PHASE = 4 || s.getF PAR_JOINSTAT_PHASE = 5)) then s
  else
    let r := s.backfillSend (s.pair.bfDebt + s.backfillRate) (s.arc.cyc.length + s.arc.evs.length)
    { r.1 with pair := { r.1.pair with bfDebt := r.2 } }

/-- The pages of the tasks that are to be resynchronised, as they stand at the present CSN, which ends them (R204). -/
def State.resyncList (s : State) : List (List Byte) :=
  let l := s.cfg.vars.filter (fun v => v.cls ≠ 0 && (s.pair.resyncAll || v.writers.any (fun t => s.pair.resync.contains t.val)))
  let pages := l.flatMap (fun v => (List.range ((v.addr % 4096 + v.size + 4095) / 4096)).map (fun i => pageOf v.addr + 4096 * i))
  s.bulkPages pages ++ [words [0, s.sq.csn]]

/-- The Lead begins a resynchronisation of its Follower's tasks. -/
def State.beginResync (s : State) (l : List Nat) (all : Bool) : State :=
  let s : State := { s with pair := { s.pair with resync := l, resyncAll := all } }
  { s with pair := { s.pair with bulkOut := s.pair.bulkOut ++ s.resyncList, partner := s.pair.partner.map (fun h => { h with state := 2 }) } }

/-- The payloads of a resynchronisation, at a base tick: after the last of them the partner follows again. -/
def State.resyncTick (s : State) : State :=
  if !s.isLead || (s.pair.resync.isEmpty && !s.pair.resyncAll) then s
  else
    let s := s.bulkTick
    if s.pair.bulkOut.isEmpty then
      { s with pair := { s.pair with resync := [], resyncAll := false, partner := s.pair.partner.map (fun h => { h with state := 3 }) } }
    else s

/-- A join in progress, at a base tick: the clock phase passes when the clocks agree within 1 µs; the transfer goes on at JOINRATE, in GB/s. -/
def State.joinTick (s : State) (agree : Bool) : State :=
  if !s.isLead then s
  else match s.getF PAR_JOINSTAT_PHASE with
    | 6 => if agree then s.beginBulk else s
    | 3 =>
      let s := s.bulkTick
      let left := bulkBytes s.pair.bulkOut
      let s : State := { s with pair := { s.pair with bulkLeft := left } }
      let pct := if s.pair.bulkAll = 0 then 100 else (s.pair.bulkAll - left) * 100 / s.pair.bulkAll
      let s := s.setF PAR_JOINSTAT_BULKPCT pct
      if left = 0 then s.setF PAR_JOINSTAT_PHASE 4 else s
    | _ => s

/-- TRACK_CAUGHT_UP (R219 phase 6): the joiner enters FOLLOW, and the Lead enters LEAD; PARTNERID is replaced (R444). -/
def execTrackCaughtUp (s : State) : Host.Outcome State Fault Refusal :=
  done (
    if s.isLead && s.getF PAR_JOINSTAT_PHASE = 4 then
      let s : State := { s with pair := { s.pair with joinBase := none, lostUnfenced := false,
                                                      partner := s.pair.partner.map (fun h => { h with state := 3, lead := false }) } }
      let s := s.setF PAR_JOINSTAT_PHASE 5
      (if s.getF PAR_STAT_STATE = 7 then s.enterPair 6 else s).partnerKept
    else if s.getF PAR_STAT_STATE = 2 && s.getF PAR_JOINSTAT_PHASE = 4 && s.pair.bulkDone then
      ((s.setF PAR_JOINSTAT_PHASE 5).enterPair 3).partnerKept
    else s)

/-! ### HELLO (R191, R195, R222) -/

/-- Who takes the Lead at a pair start with equal configurations: the module of the last-role record with the Lead at the higher epoch, else
seat A. -/
def State.winsStart (s : State) (h : Hello) : Bool :=
  let own := s.pair.lastLead
  if own && (!h.lead || s.pair.lastEpoch > h.roleEpoch) then true
  else if h.lead && (!own || h.roleEpoch > s.pair.lastEpoch) then false
  else !s.seatB

/-- A pair start with a partner in START: a clash of seats, a split of configurations or of installations, or a decision who leads. A module whose
bundle is not qualified does not lead (R452). -/
def State.pairStart (s : State) (h : Hello) : State :=
  if h.seat = s.seatB then (s.setF PAR_STAT_SEATCLASH 1).loseRole 8
  else if h.instId ≠ s.cfg.instId || (h.cfgGen = s.cfgGen && h.digest ≠ s.cfg.digest) then (s.setF PAR_STAT_CFGSPLIT 1).loseRole 8
  else
    let wins := if s.cfgGen ≠ h.cfgGen then s.cfgGen > h.cfgGen else s.winsStart h
    if wins && s.selfQualified && (tabHas s.pkgs s.actStore) then
      let s := (s.partnerSeen h.devId).takeLead 6 .pairStart
      if s.isLead then s.beginJoin.firstStart else s
    else s

/-- A module in START joins a Lead it hears; one in FENCED or ISOLATED joins the Lead that begins a join (R219). -/
def State.enterJoin (s : State) (h : Hello) : State :=
  if h.seat = s.seatB then (s.setF PAR_STAT_SEATCLASH 1).loseRole 8
  else
    let s := (s.partnerSeen h.devId).enterPair 1
    let s : State := { s with pair := { s.pair with queued := [], heldSetup := [], bulkDone := false, applied := 0, joinBase := none, missRun := 0, missing := 0,
                                                    heardAt := s.now, lastTick := s.tick } }
    ((s.setF PAR_JOINSTAT_PHASE 1).setF PAR_JOINSTAT_REFUSE 0).sendHello

/-- Retained areas compared before a warm start (Table 8-6): of equal CSN and different content, they are split. -/
def State.retCompare (s : State) (h : Hello) : State :=
  if !h.running && s.mode ≠ 1 && h.retCsn = s.arc.retCsn && h.retDigest ≠ s.retDigest then s.setF PAR_STAT_RETSPLIT 1 else s

/-- What a Follower's HELLO asks of the Lead (log entry 17): a switch-over (R218), pages of a resynchronisation (R204), units that it found poisoned (Table
8-4). -/
def State.followerAsks (s : State) (h : Hello) : State :=
  let s := if h.switchReq then
      let r := s.switchRequest
      if r.1 then r.2
      else
        let s : State := (State.sendHello { r.2 with pair := { r.2.pair with swRefused := true } })
        { s with pair := { s.pair with swRefused := false } }
    else s
  let s := if (!h.resync.isEmpty || h.resyncAll) && s.pair.resync.isEmpty && !s.pair.resyncAll then s.beginResync h.resync h.resyncAll else s
  if h.fetch.isEmpty then s
  else { s with pair := { s.pair with bulkOut := s.pair.bulkOut ++ (h.fetch.map (fun u => words [13, u] ++ memRdL s.sq.mem u 64)) } }

/-- What the Lead's HELLO tells its Follower: that a SWITCH written here is refused, and counted here (R218, R2); or that it is to resynchronise. -/
def State.leadAnswers (s : State) (h : Hello) : State :=
  let s := match h.swRefused, s.pair.swPath with
    | true, some p => State.ignored { s with pair := { s.pair with swPath := none } } p parCmdOff 4
    | _, _ => s
  if !h.resync.isEmpty || h.resyncAll then s.startResync h.resync h.resyncAll else s

/-- HELLO_RECEIVE. No pair is formed with an OLM-4200 (R3). -/
def execHelloReceive (h : Hello) (s : State) : Host.Outcome State Fault Refusal :=
  done (
    let st := s.getF PAR_STAT_STATE
    let b := s.bundle
    if s.kerb.phase ≠ .run || h.old42 || h.protoHi < b.protoLo || b.protoHi < h.protoLo then s
    else
      let s : State := { s with pair := { s.pair with partner := some h, helloAt := s.now } }
      if s.isLead then
        if (h.state = 6 || h.state = 7) && h.epoch > s.epoch then s.stepDown
        else if s.getF PAR_JOINSTAT_PHASE = 2 then s.settleCfg
        else if h.state = 0 then
          let s := (s.retCompare h).sendHello
          if h.seat = s.seatB then s.setF PAR_STAT_SEATCLASH 1
          else if s.flag PAR_CTL_AUTOJOIN && s.joinFree then s.beginJoin
          else s
        else s.followerAsks h
      else if (st = 8 || st = 5) && (h.state = 6 || h.state = 7) && h.join then s.enterJoin h
      else if st = 3 || st = 4 then s.leadAnswers h
      else if st = 0 then
        if h.state = 6 || h.state = 7 then s.enterJoin h
        else if h.state = 0 then (s.retCompare h).pairStart h
        else s
      else if st = 1 && h.refuse ≠ 0 then
        let s := ((s.setF PAR_JOINSTAT_REFUSE h.refuse.val).setF PAR_JOINSTAT_PHASE 0).evSec 1 [h.refuse.val]
        let s := if h.refuse = 3 then s.setF PAR_STAT_CFGSPLIT 1 else s
        s.loseRole 8
      else s)

/-- SEATSENSE_RISE (R207): a join starts if AUTOJOIN = 1. -/
def execSeatsenseRise (s : State) : Host.Outcome State Fault Refusal :=
  done (
    let s := s.setF PAR_STAT_PSEAT 1
    if s.flag PAR_CTL_AUTOJOIN && s.joinFree then s.beginJoin else s)

/-! ### The bulk transfer as the joiner takes it (R204, R220, R431) -/

/-- Cycle records the module holds from void CSNs move into its event log as VOIDCOMMIT, and one record names the range (R431). -/
def State.moveVoid (s : State) (l : List (Nat × Nat)) : State :=
  let isV (r : ArcRec) : Bool := l.any (fun v => v.1 ≤ r.csn && decide (r.csn ≤ v.2))
  let gone := s.arc.cyc.filter isV
  if gone.isEmpty then s
  else
    let s : State := { s with arc := { s.arc with cyc := s.arc.cyc.filter (fun r => !isV r) } }
    let s := gone.foldl (fun s r =>
      let s := s.event 0x0109 0xFFFF r.bytes
      { s with arc := { s.arc with evs := s.arc.evs.dropLast ++ (s.arc.evs.getLast?.map (fun e => { e with flags := 2 })).toList } }) s
    s.evCfg 6 [((gone.map ArcRec.seq).foldl min (gone.headD ⟨0, 0, 0, 0, 0, 0, 0, 0, [], false⟩).seq), (gone.map ArcRec.seq).foldl max 0]

/-- The end of a join's transfer: the state space is that of the join base, and the module applies the queued packets in TRACK. -/
def State.bulkEnd (s : State) (j : Nat) : State :=
  let s := s.flip j []
  let items := s.pair.heldSetup
  let s : State := { s with pair := { s.pair with queued := s.pair.queued.filter (fun p => p.csn > j), heldSetup := [], bulkDone := true, applied := j,
                                                  appliedAt := s.now, backfillLow := s.arc.cycSeq } }
  let s := (s.setF PAR_JOINSTAT_PHASE 4).setF PAR_JOINSTAT_BULKPCT 100
  let s := s.enterPair 2
  let s := items.foldl State.applyItem s
  s.drainPkts s.pair.queued.length

/-- Take one BULK packet in JOIN, or, of a resynchronisation or a store's transfer, in TRACK and FOLLOW. -/
def State.bulkTake (s : State) (b : BulkItem) : State :=
  match b with
  | .package n p active =>
    let n := b2n n
    let s := s.placePkg n p
    if active then
      let s := s.setF SCH_OLCSTAT_ACTSTORE n
      let s := (s.set64 PAR_CFGGENLO_CFGGEN PAR_CFGGENHI_CFGGEN p.gen).loadRegs p
      (List.range 256).foldl (fun s t => s.crossTask Pkg.empty true t) (s.modKerb (fun k => { k with act := some ⟨n, p.gen, s.sq.csn⟩ }))
    else if s.getF PAR_STAT_STATE = 1 && p.gen ≤ s.cfgGen then s.setF SCH_OLCSTAT_FALLBACK 1
    else
      let s : State := { s with olc := { s.olc with cand := some p } }
      (s.setF SCH_CFGSTAT_CHECKED 1).setF SCH_OLCSTAT_FALLBACK 0
  | .pages runs => s.byEngines pairMasters .wr (runs.map (fun r => (r.1, r.2.length))) (fun s =>
    let w := (runs.foldl (fun o r => ovlWrL o r.1 r.2) []).filter (fun x => !tabHas s.pair.since x.1)
    let bad := unpoison s.sq.poison w
    { s with sq := { s.sq with mem := memLay s.sq.mem w, poison := bad }, pair := { s.pair with fetch := s.pair.fetch.filter (fun u => bad.contains u) } })
  | .held l => { s with sched := { s.sched with held := l.foldl (fun t x => tabSet t x.1 (x.2.2, x.2.1)) s.sched.held } }
  | .forces l => State.showForces { s with sched := { s.sched with forces := l.foldl (fun t x => tabSet t x.1 (x.2, s.now)) [] } }
  | .retained c g l => { s with arc := { s.arc with ret := l.foldl (fun o r => ovlWrL o r.1 r.2) [], retCsn := c, retGen := some g } }
  | .settings l => { s with regs := l.foldl (fun t x => tabSet t x.1 x.2) s.regs }
  | .mode m => s.setF SCH_MODE_MODE m.val
  | .voids l => s.moveVoid l
  | .percent n => (s.setF PAR_JOINSTAT_BULKPCT n.val).setF PAR_JOINSTAT_PHASE 3
  | .last j => if s.getF PAR_STAT_STATE = 1 then s.bulkEnd j else { s with pair := { s.pair with resyncEnd := true } }

/-- BULK. On a Lead in STOP, the retained area of a joiner with the higher CSN wins (Table 8-6). -/
def execBulk (b : BulkItem) (s : State) : Host.Outcome State Fault Refusal :=
  done (
    match s.getF PAR_STAT_STATE, b with
    | 1, b => s.bulkTake b
    | 2, .pages r => s.bulkTake (.pages r)
    | 2, .last j => s.bulkTake (.last j)
    | 3, .pages r => s.bulkTake (.pages r)
    | 4, .pages r => s.bulkTake (.pages r)
    | 2, .package n p _ => s.bulkTake (.package n p false)
    | 3, .package n p _ => s.bulkTake (.package n p false)
    | 4, .package n p _ => s.bulkTake (.package n p false)
    | 6, .retained c g l => if s.mode = 0 && c > s.arc.retCsn then s.bulkTake (.retained c g l) else s
    | _, _ => s)

/-- BACKFILL_RECORD (R221, R222): a record whose CRC is right is stored in sequence; of two with one sequence number the Lead's is kept, with an
event record. -/
def execBackfillRecord (event : Bool) (r : RecData) (s : State) : Host.Outcome State Fault Refusal :=
  done (
    let st := s.getF PAR_STAT_STATE
    if !(r.intact && (st = 2 || st = 3 || st = 4)) then s
    else
      let x : ArcRec := { recOf r with flags := r.flags ||| 4 }
      let log := if event then s.arc.evs else s.arc.cyc
      let same (y : ArcRec) : Bool := y.seq = x.seq && (!event || y.seat = x.seat)
      let clash := log.any (fun y => same y && y.payload ≠ x.payload)
      let new := insSort (fun a b => decide (a.seq < b.seq)) x (log.filter (fun y => !same y))
      let s : State := if event then { s with arc := { s.arc with evs := new } } else { s with arc := { s.arc with cyc := new } }
      let s := if clash then s.evCfg 7 [b2n event, x.seq] else s
      if event then s
      else
        let low := min s.pair.backfillLow x.seq
        let all := max 1 s.arc.cycSeq
        State.setF { s with pair := { s.pair with backfillLow := low } } PAR_JOINSTAT_BFPCT (100 - low * 100 / all))

/-! ### Commands at the base tick (R218, R223, R225) -/

/-- The configuration and the key area are erased (R225, R446). -/
def State.clearCfg (s : State) : State :=
  let s : State := { s with pkgs := [], sq := { s.sq with code := [] }, olc := { s.olc with cand := none, chunks := [] } }
  let s := (s.set64 PAR_CFGGENLO_CFGGEN PAR_CFGGENHI_CFGGEN 0).setF SCH_OLCSTAT_FALLBACK 0
  let s := (List.range 118).foldl (fun s p => s.setF SEC_PORTSTAT_SECURED 0 p) s
  let s := s.modKerb (fun k => { k with keys := [], act := none })
  ((s.loadRegs Pkg.empty).evCfg 8 []).evSec 3 []

/-- One command of PAR_CMD. -/
def State.parDo (s : State) (c : Nat × Path) : State :=
  let st := s.getF PAR_STAT_STATE
  let refuse (k : Nat) : State := s.ignored c.2 parCmdOff k
  match c.1 with
  | 1 =>
    if s.isLead then (let r := s.switchRequest; if r.1 then r.2 else r.2.ignored c.2 parCmdOff 4)
    else if st = 3 || st = 4 then State.sendHello { s with pair := { s.pair with swPath := some c.2 } }
    else refuse 4
  | 2 => if 1 ≤ st && st ≤ 4 then s.loseRole 8 else refuse 4
  | 3 => if s.joinFree then s.beginJoin else refuse 4
  | 4 =>
    if st = 3 then s.startResync [] true
    else if st = 6 && s.pair.partner.any (fun h => h.state = 3) then (s.beginResync [] true).sendHello
    else refuse 4
  | _ => if st ≠ 0 && st ≠ 8 then refuse 4 else s.clearCfg

/-- At a base tick: the commands of PAR_CMD in order. -/
def State.parTick (s : State) : State :=
  let l := s.pair.cmds
  l.foldl State.parDo { s with pair := { s.pair with cmds := [] } }

end Sys2Proof.Machine
end

