-- ==== Sys2Proof/Machine/Consistent.lean ====
section
/-! DEFINITION. Consistent state as hosts and the plant see it (09, R228 to R235, R245 to R251; 10 R274): batches and forces committed alone, cuts,
lock leases and grants, and the close of a report window. -/
namespace Sys2Proof.Machine

/-! ### Batches and forces committed alone (R230, R274) -/

/-- Is a write batch due to be committed alone: its cycle ended without commit, or its task is stopped, in WDSTOP, or not released in HOLD or
STOP (R230)? -/
def State.dueAlone (s : State) (b : Batch) : Bool :=
  let st := s.getF SCH_TASKSTAT_STATE b.task
  b.csn.isNone && b.forces.isEmpty && !s.sched.runs.any (fun r => r.2.batches.contains b.id) &&
  (b.alone || ((st = 0 || st = 3 || (s.mode ≠ 1 && !s.releases b.task)) && decide (b.at_ < s.tick * 62500 + 62500)))

/-- Commit a write batch alone; an old generation is refused at the boundary where it would apply (R251). -/
def State.commitBatch (s : State) (b : Batch) : State :=
  if b.gen ≠ s.cfgGen then
    State.completeB { s with host := { s.host with batches := s.host.batches.filter (fun x => x.id ≠ b.id) } } b 0x0302 0
  else s.commitCore { CommitInfo.alone s b.task (batchWrites [b]) with batches := [b] } []

/-- BATCH_COMMIT_ALONE (R230): the batch admitted first among those due. -/
def execBatchCommitAlone (s : State) : Host.Outcome State Fault Refusal :=
  done (if s.isLead then (match s.host.batches.find? s.dueAlone with | some b => s.commitBatch b | none => s) else s)

/-- Drive an on-module output of the own seat anew, where its writer drives. -/
def State.redrive (s : State) (n : Nat) : State :=
  match s.sig? n with
  | some g => if g.out && s.mayDrive (s.writerOf n) then s.driveOne g (s.driveVal n) else s
  | none => s

/-- A FORCE batch commits alone (R51, R52, R274): its forces, a record of each, and the items of the packet. A removal of a force that is not
set changes nothing. -/
def State.commitForces (s : State) (b : Batch) : State :=
  let l := b.forces.filter (fun f => f.2.isSome || tabHas s.sched.forces f.1)
  let tab := l.foldl (fun t f => match f.2 with | some v => tabSet t f.1 (BitVec.ofNat 64 v.1, s.now) | none => tabDel t f.1) s.sched.forces
  let items := l.map (fun f => SetupItem.force f.1 (f.2.map (fun v => BitVec.ofNat 64 v.1)))
  let evs := l.map (fun f => (0x0104, 0, 0, words [3, f.1, b2n f.2.isSome, (f.2.map Prod.fst).getD 0, b.sess]))
  let s : State := { s with sched := { s.sched with forces := tab } }
  let s := items.foldl State.share s
  let s := s.showForces.commitCore { CommitInfo.alone s 0xFF [] with recTask := 0xFFFF, batches := [b], events := evs } []
  l.foldl (fun s f => s.redrive f.1) s

/-- Forces due at a base tick: admitted at least 2 µs before it, in order of admission. -/
def State.forcesDue (s : State) : State :=
  if !s.isLead then s
  else
    (s.host.batches.filter (fun b => b.csn.isNone && !b.forces.isEmpty && decide (b.at_ + 2000 ≤ s.tick * 62500))).foldl
      (fun s b => s.commitForces b) s

/-! ### Cuts (R233 to R235) -/

/-- A participant set. -/
def State.cutSet? (s : State) (n : Nat) : Option CutSetDef := s.cfg.cutSets.find? (fun c => c.no.val = n)
/-- Its stations. -/
def State.cutStations (s : State) (n : Nat) : List StationDef :=
  match s.cutSet? n with | some c => s.cfg.stations.filter (fun d => c.stations.contains d.no) | none => []
/-- H: the largest sum of per-hop bounds to a participant (R234), in ns. -/
def State.cutHops (s : State) (n : Nat) : Nat := hopsMax (s.cutStations n)
/-- A link's running rate in Gbit/s. -/
def rateGb (c : Nat) : Nat := match c with | 1 => 1 | 2 => 10 | 3 => 25 | _ => 0
/-- The bytes of a station's cut frame: header, operation number, values and statuses. -/
def State.cutFrame (s : State) (d : StationDef) : Nat :=
  let l := s.stationSigs d.no.val false
  28 + sigBytes l + l.length

/-- The latest time at which a cut closes (R235). -/
def State.cutDeadline (s : State) (n tc : Nat) : Nat :=
  let l := s.cutStations n
  let v := (l.map s.cutFrame).foldl (· + ·) 0
  let links := (List.range 104).filter (fun k => l.any (fun d => d.link.val = k))
  let b := min 2600 ((links.map (fun k => rateGb (s.getF PNE_PORTSTAT_RATE k))).foldl (· + ·) 0)
  let wait := tc + s.getF PNE_CUTCFG_CUTWAIT * 1000000
  if b = 0 then wait else min wait (tc + s.cutHops n + (v * 8 + b - 1) / b + 20000)

/-- Change a pending cut. -/
def State.modCut (s : State) (op : Nat) (f : CutRt → CutRt) : State :=
  { s with plant := { s.plant with cuts := s.plant.cuts.map (fun (c : CutRt) => if c.op = op then f c else c) } }

/-- Does a signal come from the module itself or a CAN port, so that it contributes at the instant? -/
def cutOwn (g : SigDef) : Bool := match g.src with | .station _ _ => false | .fsl _ _ => false | .peer _ _ => false | _ => true

/-- CUT_INSTANT (R233, R251): the signals are those of the program active at t_c; on-module channels give their latest sample, CAN ports the
latest frame. -/
def execCutInstant (op : Nat) (s : State) : Host.Outcome State Fault Refusal :=
  done (
    match s.plant.cuts.find? (fun c => c.op = op) with
    | none => s
    | some c =>
      if c.taken || c.mirrored || decide (c.at_ > s.now + 62500) then s
      else
        let sigs := match s.cutSet? c.set with | some d => d.sigs | none => c.sigs
        let own := (sigs.filterMap s.sig?).filter cutOwn
        s.modCut op (fun c => { c with sigs := sigs, taken := true, got := own.foldl (fun t g => tabSet t g.no (s.sigNow g s.tick)) c.got }))

/-- CUTDATA (R233, R289, R291): a participant's values and statuses enter the record, with status 0x83 where it was not synchronised. -/
def execCutdata (link : Fin 104) (frame : List Byte) (s : State) : Host.Outcome State Fault Refusal :=
  done (
    match s.fspTake link 0x0A frame with
    | (none, s) => s
    | (some f, s) =>
      let op := leNat (f.data.take 4)
      let data := f.data.drop 4
      let l := s.stationSigs f.sta false
      if data.length ≠ sigBytes l + l.length then s.bump PNE_PORTSTAT_DISCCNT link.val
      else match s.plant.cuts.find? (fun c => c.op = op && !c.mirrored) with
        | none => s
        | some c =>
          if !(s.cutStations c.set).any (fun d => d.no.val = f.sta) then s
          else
            let t := takeVals l data (data.drop (sigBytes l)) []
            let t := if bitOf f.flags 1 then t.map (fun e => (e.1, (e.2.1, 0x83))) else t
            s.modCut op (fun c => { c with got := t.foldl (fun m e => tabSet m e.1 e.2) c.got }))

/-- CUT_CLOSE (R235): a cut whose instant has passed closes, complete, or at the earlier of the two times of R235 with MISSED entries. -/
def execCutClose (op : Nat) (s : State) : Host.Outcome State Fault Refusal :=
  done (
    match s.plant.cuts.find? (fun c => c.op = op) with
    | none => s
    | some c =>
      if c.taken && (c.sigs.all (fun n => tabHas c.got n) || decide (c.deadline ≤ s.now + 62500)) then s.finishCut c false else s)

/-! ### Locks (R245 to R247, R251) -/

/-- LEASE_EXPIRY (R247): every lock whose lease has run out by the present base tick breaks. -/
def execLeaseExpiry (s : State) : Host.Outcome State Fault Refusal :=
  done (s.host.locks.foldl (fun s l => if l.2.holder.isSome && decide (l.2.lease ≤ s.now) then s.breakLock l.1 else s) s)

/-- Every waiting LOCK with its session and queue pair, in order of request. -/
def State.lockWaits (s : State) : List (Nat × Nat × WaitDesc) :=
  let l := s.host.sess.flatMap (fun x => x.2.qps.flatMap (fun y => y.2.waits.map (fun w => (x.1, y.1, w))))
  let ord (w : WaitDesc) : Nat := match w.w with | .lock o _ _ _ => o | _ => 0
  isort (fun a b => decide (ord a.2.2 < ord b.2.2))
    (l.filter (fun e => match e.2.2.w with | .lock _ _ _ _ => true | _ => false))

/-- Does an earlier request than one of that order wait for a group? -/
def State.lockAhead (s : State) (ord g : Nat) : Bool :=
  s.lockWaits.any (fun e => match e.2.2.w with | .lock o l _ _ => decide (o < ord) && l.head? = some g | _ => false)
/-- The groups that a session's waiting requests still ask for: they count towards MAXLOCKS (DESIGN CHOICE, log entry 87). -/
def State.lockAsked (s : State) (n : Nat) : Nat :=
  (((s.lockWaits.filter (fun e => e.1 = n)).map (fun e => match e.2.2.w with | .lock _ l _ _ => l.length | _ => 0))).foldl (· + ·) 0

/-- Grant groups one after another, each in order of request: those left and those granted, whether one was broken; the mark of a granted group is
cleared. -/
def State.grant (s : State) (sn ord : Nat) : List Nat → List Nat → Bool → (List Nat × List Nat × Bool) × State
  | [], done_, b => (([], done_, b), s)
  | g :: gs, done_, b =>
    if (s.lock g).holder.isSome || s.lockAhead ord g then ((g :: gs, done_, b), s)
    else
      let was := (s.lock g).broken
      State.grant (s.modLock g (fun l => { l with holder := some sn, broken := false, staged := [],
                                                  lease := s.now + s.getF HQE_LOCKCFG_LEASE * 1000000 })) sn ord gs (done_ ++ [g]) (b || was)

/-- A waiting LOCK goes on: complete once every group is granted (R273). -/
def State.lockOn (s : State) (sn q : Nat) (w : WaitDesc) : State :=
  match w.w with
  | .lock o l d b =>
    match s.grant sn o l d b with
    | ((l, d, b), s) =>
      if l.isEmpty then
        (s.modQp sn q (fun x => { x with waits := x.waits.filter (fun y => y ≠ w) })).complete sn q w.d 0 0 0 (if b then 8 else 0)
      else s.modQp sn q (fun x => { x with waits := x.waits.map (fun y => if y = w then { w with w := .lock o l d b } else y) })
  | _ => s

/-- LOCK_GRANT (R245, R279): groups that are free are granted, in order of request. -/
def execLockGrant (s : State) : Host.Outcome State Fault Refusal :=
  done (s.lockWaits.foldl (fun s e => s.lockOn e.1 e.2.1 e.2.2) s)

/-! ### The close of a report window (R249, R250) -/

/-- COALESCING_WINDOW_CLOSE (R249): after 1 s the window of a subject closes and its summary, laid out as its ERRSUBJ entry, is written. -/
def execCoalescingWindowClose (kind obj : Nat) (s : State) : Host.Outcome State Fault Refusal :=
  done (
    match s.wins.find? (fun w => w.isOf kind obj && w.isOpen) with
    | none => s
    | some w =>
      if s.now + 62500 < w.first + 1000000000 then s
      else
        let w := { w with isOpen := false, summary := true }
        (s.event 0x0102 0xFFFF w.bytes).putWin w)

/-- The opening records of the windows that opened in a base tick, each with the count of the reports taken in it (R249). -/
def State.openRecords (s : State) : State :=
  (s.wins.filter (fun (w : Win) => w.recDue)).foldl (fun s w =>
    let w := { w with recDue := false, recSeq := s.arc.evSeq }
    (s.event 0x0101 0xFFFF w.bytes).putWin w) s

end Sys2Proof.Machine
end

