-- ==== Sys2Proof/Machine/Host.lean ====
section
/-! DEFINITION. The host interface (10, R253 to R280, R284; 16 R422, R427): connections, doorbells, descriptors and completions, and every opcode
of Table 10-6 but the set-up transfers. -/
namespace Sys2Proof.Machine

/-! ### Evidence (R442, Tables 17-5 and 17-6) -/

/-- A measurement log entry. -/
def Meas.bytes (m : Meas) : List Byte := natLe 1 m.layer ++ natLe 1 m.kind ++ natLe 2 0 ++ natLe 4 m.svn ++ natLe 8 m.version ++ natLe 48 m.digest

/-- Evidence up to SIG for a nonce. -/
def State.evidenceBody (s : State) (nonce : List Byte) : List Byte :=
  let flags := s.getF BOT_FUSESTAT_IDMARG + 2 * s.getF BOT_STAT_PROBATION + 4 * s.getF BOT_STAT_FALLBACK + 8 * s.getF BOT_FUSESTAT_CFGMARG
  natLe 2 1 ++ natLe 2 flags ++ natLe 1 s.seat ++ natLe 1 (s.getF BOT_STAT_ACTSLOT) ++ natLe 2 s.kerb.meas.length ++
  (List.range 32).map (fun i => nonce.getD i 0) ++ natLe 6 (s.now / 1000000000) ++ natLe 2 0 ++ natLe 4 (s.now % 1000000000) ++
  natLe 4 s.epoch ++ natLe 8 s.sq.csn ++ natLe 8 s.cfg.instId ++ natLe 4 s.kerb.chain.length ++ natLe 4 0 ++
  s.kerb.meas.flatMap Meas.bytes ++ s.kerb.chain

/-- Evidence: the body and its signature, whose value the manual's keys fix (log entry 2). -/
def State.evidence (s : State) (nonce : List Byte) : List Byte :=
  let b := s.evidenceBody nonce
  b ++ (List.range 96).map (fun i => (Config.evidenceTail b).getD i 0)

/-! ### Connections (R253 to R257) -/

/-- Do sessions exist at all: not in K, in RECOVERY, or before step 12 (R254, R434)? -/
def State.hostUp (s : State) : Bool := s.kerb.phase = .run

/-- Does an access entry match a connection (R255)? -/
def AccessDef.matches (a : AccessDef) (link : Nat) (src : Nat) : Bool :=
  a.link.val = link && src / 2 ^ (128 - a.len) = a.prefix_ / 2 ^ (128 - a.len)

/-- The matching entry with the longest prefix. -/
def State.accessFor (s : State) (link src : Nat) : Option AccessDef :=
  (s.cfg.access.filter (fun a => Sys2Proof.Machine.AccessDef.matches a link src)).foldl
    (fun b a => match b with | some x => if a.len > x.len then some a else b | none => some a) none

/-- The reason for which a connection request is refused, in the order VERSION, NOTSERVING, NORIGHT, BADRING (log entry 24). -/
def State.refuseReq (s : State) (link src : Nat) (req : List Byte) : Option Nat :=
  let n (o k : Nat) : Nat := leNat ((req.drop o).take k)
  let sz := n 0x1C 1
  if n 0x1E 2 ≠ 1 then some 4
  else if !s.flag HQE_CTL_ENABLE then some 3
  else if (s.accessFor link src).isNone then some 2
  else if n 8 8 % 4096 ≠ 0 || n 0x10 8 % 4096 ≠ 0 || sz % 16 > 12 || sz / 16 > 12 || sz / 16 < sz % 16 then some 5
  else none

/-- Queue pairs in use. -/
def State.qpCount (s : State) : Nat := (s.host.sess.map (fun x => x.2.qps.length)).foldl (· + ·) 0

/-- The REP of an accepted connection (Table 10-2); the window's key and address are the module's own (log entry 2). -/
def State.sendRep (s : State) (n : Nat) : State :=
  let role := s.getF PAR_STAT_ROLE
  let k := s.free
  let a := k.2.free
  a.2.emit .host 0 [n, 1] (natLe 2 n ++ natLe 1 (s.seat + 2 * role) ++ natLe 1 1 ++ natLe 4 k.1 ++ natLe 8 a.1 ++
    natLe 8 s.cfgGen ++ natLe 8 s.sq.csn ++ natLe 8 s.ackCsn)

/-- A REJ with its reason, counted. -/
def State.sendRej (s : State) (reason : Nat) : State := (s.bump HQE_ERRCNT_REFSESS).emit .host 0 [0, 0] (natLe 1 reason)

/-- CONNECTION_REQUEST (R254 to R257): a client that already has a session loses it first. On a link without a SAK the request is dropped
(R253). -/
def execConnectionRequest (link : Fin 12) (src : BitVec 128) (req : List Byte) (s : State) : Host.Outcome State Fault Refusal :=
  done (
    let n (o k : Nat) : Nat := leNat ((req.drop o).take k)
    if !s.hostUp || !s.flag SEC_PORTSTAT_SECURED (106 + link.val) then s
    else match s.refuseReq link.val src.toNat req with
      | some r => s.sendRej r
      | none =>
        let cid := n 0 8
        let s := match s.host.sess.find? (fun x => x.2.cid = cid) with | some x => s.endSession x.1 | none => s
        let a := s.accessFor link.val src.toNat
        let free := (List.range' 1 8192).find? (fun k => (s.sess? k).isNone)
        match free, a with
        | some k, some a =>
          if s.host.sess.length ≥ s.getF HQE_CTL_MAXSESS || s.qpCount ≥ 32768 then s.sendRej 1
          else
            let sz := n 0x1C 1
            let x : Sess :=
              { Sess.empty with cid := cid, link := link.val, rights := a.rights.toNat, cls := min (n 0x1D 1) a.maxCls.toNat,
                                qps := [(0, Qp.new (2 ^ (sz % 16 + 4)) (2 ^ (sz / 16 + 4)) (n 8 8) (n 0x10 8) (n 0x18 4))], active := s.now }
            let s : State := { s with host := { s.host with sess := tabSet s.host.sess k x } }
            ((s.closePath (.queue (Fin.ofNat 8193 k))).hqeStat).sendRep k
        | _, _ => s.sendRej 1)

/-- SESSION_END (R257): the connection has failed or been closed, or nothing has come for SESSIDLE seconds. -/
def execSessionEnd (sess : SessNo) (idle : Bool) (s : State) : Host.Outcome State Fault Refusal :=
  done (
    match s.sess? sess.val with
    | none => s
    | some x => if idle && decide (s.now < x.active + s.getF HQE_CTL_SESSIDLE * 1000000000) then s else s.endSession sess.val)

/-- TRANSPORT_RETRY_EXHAUSTED (R253): the module closes the connection. -/
def execTransportRetryExhausted (sess : SessNo) (s : State) : Host.Outcome State Fault Refusal := done (s.endSession sess.val)

/-! ### Doorbells (R259) -/

/-- The latest value of a free-running count that a doorbell names. -/
def advance32 (old new : Nat) : Nat := old + (new + 2 ^ 32 - old % 2 ^ 32) % 2 ^ 32

/-- Is the link of a session secured by a SAK (R253)? -/
def State.sessSecured (s : State) (x : Sess) : Bool := s.flag SEC_PORTSTAT_SECURED (106 + x.link)

/-- DOORBELL (R253, R259): a frame that arrives unsecured is dropped; a request other than a write into the doorbell window gets a NAK; a write with another form, for no queue pair or
with counts out of range is discarded. -/
def execDoorbell (sess : SessNo) (write : Bool) (off len : Nat) (word : W64) (s : State) : Host.Outcome State Fault Refusal :=
  done (
    match s.sess? sess.val with
    | none => s
    | some x =>
      if !s.sessSecured x then s
      else if !write || off ≥ 32768 then (s.bump HQE_ERRCNT_NAKCNT).emit .host 2 [sess.val]
      else match s.qp? sess.val (off / 8) with
        | none => s.bump HQE_ERRCNT_BADDB
        | some q =>
          let tail := advance32 q.tail (bits word.toNat 0 32)
          let head := advance32 q.head (bits word.toNat 32 32)
          if len ≠ 8 || off % 8 ≠ 0 || tail > q.fetched + q.sqSize || head > q.written then s.bump HQE_ERRCNT_BADDB
          else (s.modQp sess.val (off / 8) (fun x => { x with tail := tail, head := head })).modSess sess.val (fun x => { x with active := s.now }))

/-! ### Starting descriptors (R260, R262, R264, R277) -/

/-- The right an opcode needs, as a bit of the access entry: READ 0, WRITE 1, FORCE 2, SETUP 3. -/
def opRight (o : Nat) : Option Nat :=
  match o with
  | 1 => some 0
  | 3 => some 0
  | 5 => some 0
  | 6 => some 0
  | 7 => some 0
  | 2 => some 1
  | 8 => some 1
  | 9 => some 1
  | 10 => some 2
  | 0x11 => some 3
  | 0x12 => some 3
  | _ => none

/-- Is an opcode one of Table 10-6? -/
def opListed (o : Nat) : Bool := o ≤ 12 || (0x10 ≤ o && o ≤ 0x12)
/-- Does an opcode need the Lead? -/
def opLead (o : Nat) : Bool := o = 2 || (7 ≤ o && o ≤ 10)
/-- Is an opcode offered in START, JOIN, ISOLATED and FENCED? -/
def opAlways (o : Nat) : Bool := o = 0 || (4 ≤ o && o ≤ 6) || o = 11 || o = 12 || 0x10 ≤ o

/-- WAIT in ns. -/
def dWait (d : HostDesc) : Nat := min 10000000 (dNum d 0x38 4) * 1000

/-- Status and DETAIL with which a descriptor completes before its opcode is looked at further, if it does. -/
def State.screen (s : State) (x : Sess) (q : Nat) (d : HostDesc) : Option (Nat × Nat) :=
  let o := dOp d
  let st := s.getF PAR_STAT_STATE
  let follow := st = 2 || st = 3 || st = 4 || (opLead o && o ≠ 7 && o ≠ 8 && s.pair.switchAt.any (fun k => k ≤ s.tick))
  if !opListed o || (o ≥ 0x10 && q ≠ 0) then some (0x0101, 0)
  else if dNum d 1 1 ≥ 4 then some (0x0100, 1)
  else if (st = 0 || st = 1 || st = 5 || st = 8) && !opAlways o then some (0x0301, 0)
  else if follow && (opLead o || ((o = 1 || o = 3) && !s.flag HQE_CTL_FOLLOWREAD)) then some (0x0300, 1 - s.seat)
  else match opRight o with
    | some r => if bitOf x.rights r then (if dLen1 d ≠ 0 && !d.ok1 then some (0x0103, 0) else none) else some (0x0102, 0)
    | none => if dLen1 d ≠ 0 && !d.ok1 then some (0x0103, 0) else none

/-- A descriptor that has no row of its own: a reserved opcode, or a SESSION operation that is not listed. -/
def rowless (d : HostDesc) : Bool := !opListed (dOp d) || (dOp d = 0x10 && !(1 ≤ dOpt d % 16 && dOpt d % 16 ≤ 4))

/-- May the descriptor at the head of a queue pair start: with FENCE, only once every earlier one has completed (R260)? -/
def mayStart (y : Qp) (d : HostDesc) : Bool := !dFence d || decide (y.open_ ≤ y.ready.length)

/-- Descriptors without a row of their own complete as they come to the head. -/
def State.drain (s : State) (n q : Nat) : Nat → State
  | 0 => s
  | fuel + 1 =>
    match s.sess? n, s.qp? n q with
    | some x, some y =>
      (match y.ready with
       | d :: rest =>
         if rowless d && mayStart y d then
           let s := s.modQp n q (fun y => { y with ready := rest })
           let r := (s.screen x q d).getD (0x0100, 2)
           (s.complete n q d r.1 0 r.2).drain n q fuel
         else s
       | [] => s)
    | _, _ => s

/-- Start the descriptor at the head of a queue pair, if it is one of a row's. -/
def State.startDesc (s : State) (sess : SessNo) (qp : QpNo) (mine : HostDesc → Bool) (f : Sess → HostDesc → State → State) : State :=
  let n := sess.val
  let q := qp.val
  match s.sess? n, s.qp? n q with
  | some x, some y =>
    (match y.ready with
     | d :: rest =>
       if s.hostUp && mine d && mayStart y d then
         let s := s.modQp n q (fun y => { y with ready := rest })
         let s := match s.screen x q d with | some r => s.complete n q d r.1 0 r.2 | none => f x d s
         s.drain n q rest.length
       else s
     | [] => s)
  | _, _ => s

/-- Descriptors fetched and not completed, of one session. -/
def Sess.credits (x : Sess) : Nat := (x.qps.map (fun y => y.2.open_)).foldl (· + ·) 0

/-- DESCRIPTOR_FETCH (R260, R277): up to BATCH posted descriptors in ring order, as far as credits reach; each renews the session's leases
(R247). Which queue pair is served next is the one the command names (R278). -/
def execDescriptorFetch (sess : SessNo) (qp : QpNo) (ds : List HostDesc) (s : State) : Host.Outcome State Fault Refusal :=
  done (
    let n := sess.val
    let q := qp.val
    match s.sess? n, s.qp? n q with
    | some x, some y =>
      if !s.hostUp || !s.sessSecured x then s
      else
        let all := (s.host.sess.map (fun e => e.2.credits)).foldl (· + ·) 0
        let k := min (min (s.getF HQE_ADMCFG_BATCH) (y.tail - y.fetched)) (min (s.getF HQE_ADMCFG_CREDIT - x.credits) (262144 - all))
        let l := ds.take k
        if l.isEmpty then s.drain n q y.ready.length
        else
          let s := s.emit .host 5 [n, q, y.sqBase + 64 * (y.fetched % y.sqSize), l.length, y.rkey]
          let s := s.modQp n q (fun y => { y with fetched := y.fetched + l.length, ready := y.ready ++ l, open_ := y.open_ + l.length })
          ((s.modSess n (fun x => { x with active := s.now })).renew n).drain n q (y.ready.length + l.length)
    | _, _ => s)

/-! ### Completions (R261, R263) -/

/-- A completion entry (Table 10-4). -/
def State.complBytes (s : State) (y : Qp) (c : Compl) : List Byte :=
  let phase := if (y.written / y.cqSize) % 2 = 0 then 1 else 0
  natLe 2 c.status ++ natLe 1 (c.flags + phase) ++ natLe 1 c.opcode ++ natLe 4 c.reqid ++ natLe 8 c.csn ++ natLe 4 y.fetched ++
  natLe 4 c.len ++ natLe 4 (s.now % 2 ^ 32) ++ natLe 4 c.detail

/-- A subscription whose delivery cannot be written has completed with HOSTACCESS: it ends, and its credit returns (DEDUCED, log entry 89). -/
def State.subFailed (s : State) (n : Nat) (c : Compl) : State :=
  match c.sub with
  | none => s
  | some k =>
    (s.modSess n (fun x => { x with subs := x.subs.filter (fun u => !(u.qp = k.1 && u.reqid = k.2)) })).modQp n k.1
      (fun y => { y with open_ := y.open_ - 1 })

/-- COMPLETION_WRITE (R261): with room in its ring the oldest completion is written, after its result data; the session ends after the
completion of CLOSE (R276). Where the RDMA write of the data fails it gives HOSTACCESS (R262). -/
def execCompletionWrite (sess : SessNo) (seen : ComplSeen) (s : State) : Host.Outcome State Fault Refusal :=
  done (
    let n := sess.val
    let q := seen.qp.val
    match s.sess? n, s.qp? n q with
    | some x, some y =>
      (match y.comps with
       | c :: rest =>
         if y.written ≥ y.head + y.cqSize || !s.hostUp then s
         else
           let s := if c.data.isEmpty then s else s.emit .host 3 [n, q, c.reqid, c.detail, c.addr, c.key] c.data
           let bad := !seen.ok && !c.data.isEmpty
           let s := if bad then s.subFailed n c else s
           let c := if bad then { c with status := 0x0103, flags := 0, len := 0, detail := 0 } else c
           let s := s.emit .host 4 [n, q, y.cqBase + 32 * (y.written % y.cqSize), y.rkey] (s.complBytes y c)
           let s := s.modQp n q (fun y => { y with written := y.written + 1, comps := rest })
           if q = 0 && x.closing = some (y.written + 1) then s.endSession n else s
       | [] => s)
    | _, _ => s)

/-- HOST_NOP (R264). -/
def execHostNop (sess : SessNo) (qp : QpNo) (s : State) : Host.Outcome State Fault Refusal :=
  done (s.startDesc sess qp (fun d => dOp d = 0) (fun _ d s => s.complete sess.val qp.val d 0))

/-! ### READ_AT (R265) -/

/-- The CSN a read names. -/
def State.readCsn (s : State) (d : HostDesc) : Nat :=
  if dCsn d = 2 ^ 64 - 1 then s.ackCsn else if dCsn d = 2 ^ 64 - 2 then s.sq.csn else dCsn d

/-- A read is served at once, or waits. -/
def State.readStart (s : State) (n q : Nat) (d : HostDesc) (raw : Bool) : State :=
  let c := s.readCsn d
  if s.isVoid c || s.readReady c (dDurable d) then s.serveRead n q d c raw
  else s.modQp n q (fun y => { y with waits := y.waits ++ [⟨d, .read c raw (dDurable d), s.now⟩] })

/-- READ_AT with a list of tags. -/
def execReadAt (sess : SessNo) (qp : QpNo) (s : State) : Host.Outcome State Fault Refusal :=
  done (s.startDesc sess qp (fun d => dOp d = 1 && dOpt d % 2 = 0) (fun _ d s =>
    let n := sess.val
    let q := qp.val
    if dLen1 d % 4 ≠ 0 || dLen1 d = 0 || dLen1 d > 262144 then s.complete n q d 0x0100 0 0x18
    else if dLen2 d < dLen1 d * 4 then s.complete n q d 0x0100 0 0x28
    else s.readStart n q d false))

/-- READ_AT with OPT[0] = 1: raw bytes of one object. -/
def execReadAtRaw (sess : SessNo) (qp : QpNo) (s : State) : Host.Outcome State Fault Refusal :=
  done (s.startDesc sess qp (fun d => dOp d = 1 && dOpt d % 2 = 1) (fun _ d s =>
    let n := sess.val
    let q := qp.val
    let len := leNat ((d.data.drop 8).take 4)
    if dLen1 d ≠ 12 then s.complete n q d 0x0100 0 0x18
    else if len > 2 ^ 20 then s.complete n q d 0x0100 0 0x10
    else if dLen2 d < len then s.complete n q d 0x0100 0 0x28
    else s.readStart n q d true))

/-- What a LOCK that ends without success gives back: the groups already granted to it (R273). -/
def State.ungrant (s : State) (w : WaitDesc) : State :=
  match w.w with | .lock _ _ l _ => l.foldl (fun s g => s.freeLock g) s | _ => s

/-- End a waiting descriptor. -/
def State.endWait (s : State) (n q : Nat) (w : WaitDesc) (status : Nat) : State :=
  ((s.modQp n q (fun y => { y with waits := y.waits.filter (fun v => v ≠ w) })).ungrant w).complete n q w.d status

/-- DESCRIPTOR_WAIT_TIMEOUT (R265, R273). -/
def execDescriptorWaitTimeout (sess : SessNo) (qp : QpNo) (reqid : W32) (s : State) : Host.Outcome State Fault Refusal :=
  done (
    match s.qp? sess.val qp.val with
    | none => s
    | some y =>
      (match y.waits.find? (fun w => dReqid w.d = reqid.toNat && decide (w.since + dWait w.d ≤ s.now + 62500)) with
       | some w => (s.endWait sess.val qp.val w 0x0200).drain sess.val qp.val y.ready.length
       | none => s))

/-! ### Write-class requests (R228, R231, R267 to R269, R274) -/

/-- A request whose identity is held, or whose original is admitted, is not applied again (R269, R284). -/
def State.dedup (s : State) (x : Sess) (n q : Nat) (d : HostDesc) (go : State → State) : State :=
  let mine (i : Ident) : Bool := i.cid = x.cid && i.reqid = dReqid d && decide (s.now ≤ i.at_ + 120000000000)
  let wait : State := { s with host := { s.host with dups := s.host.dups ++ [⟨n, q, x.cid, d⟩] } }
  if s.host.batches.any (fun b => b.cid = x.cid && b.reqid = dReqid d) then wait
  else match s.host.idents.find? mine with
    | some i => if i.csn ≤ s.ackCsn || !s.isLead then s.complete n q d 1 i.csn else wait
    | none => go s

/-- Admit a batch. -/
def State.admitBatch (s : State) (x : Sess) (n q : Nat) (d : HostDesc) (task : Nat) (w : List (Nat × List Byte)) (f : List (Nat × Option (Nat × Nat))) : State :=
  let b : Batch :=
    { id := s.host.nextBatch, sess := n, cid := x.cid, qp := q, reqid := dReqid d, opcode := dOp d, task := task, gen := dArg d,
      at_ := s.now, writes := w, forces := f, csn := none, stamp := dStamp d, alone := false }
  { s with host := { s.host with batches := s.host.batches ++ [b], nextBatch := s.host.nextBatch + 1 } }

/-- The lock groups that cover a variable's tag. -/
def State.groupsOf (s : State) (tag : Nat) : List Nat :=
  s.cfg.groups.filterMap (fun g => if g.vars.any (fun v => v.toNat = tag) then some g.no.val else none)

/-- Check one entry of a write batch: the status, DETAIL of a refusal, and the address and bytes it writes. -/
def State.writeEntry (s : State) (n i : Nat) (e : List Byte) : Except (Nat × Nat) (Nat × List Byte) × State :=
  let tag := leNat (e.take 4)
  let ty := leNat ((e.drop 4).take 1)
  let v := leNat ((e.drop 8).take 8)
  if leNat ((e.drop 5).take 3) ≠ 0 then (.error (0x0100, 0x10), s)
  else match (if tag / 2 ^ 24 ≠ 0 then (.error 1, s) else s.hostEntry tag : Except Nat (Nat × Nat) × State) with
    | (.error _, s) => (.error (0x0104, i), s)
    | (.ok (w0, w1), s) =>
      if teSignal w0 then (.error (0x0303, 1), s)
      else if teTy w0 ≠ ty then (.error (0x0104, i), s)
      else if teSafe w0 then (.error (0x0303, 2), s)
      else if (s.groupsOf tag).any (fun g => (s.lock g).holder.any (fun h => h ≠ n)) then (.error (0x0303, 3), s)
      else
        let a := s.opAddr 0 w0 w1
        match s.engineRefuses false 0x201 .wr a (tySize ty) with
        | some b => (.error (0x0105, i), s.latchRefusal b 0x201 true)
        | none => (.ok (a, natLe (tySize ty) (if ty = 0 then v % 2 else v)), s)

/-- The entries in order: the first fault, or the writes. -/
def State.writeEntries (s : State) (n : Nat) : Nat → List (List Byte) → Except (Nat × Nat) (List (Nat × List Byte)) × State
  | _, [] => (.ok [], s)
  | i, e :: es =>
    match s.writeEntry n i e with
    | (.error x, s) => (.error x, s)
    | (.ok w, s) =>
      match State.writeEntries s n (i + 1) es with
      | (.error x, s) => (.error x, s)
      | (.ok ws, s) => (.ok (w :: ws), s)

/-- Pieces of 16 bytes. -/
def chop16 : Nat → List Byte → List (List Byte)
  | 0, _ => []
  | k + 1, bs => bs.take 16 :: chop16 k (bs.drop 16)

/-- Stage writes under the groups that cover them. -/
def State.stage (s : State) (n : Nat) (l : List (List Byte × (Nat × List Byte))) : State :=
  l.foldl (fun s e =>
    match (s.groupsOf (leNat (e.1.take 4))).find? (fun g => (s.lock g).holder = some n) with
    | some g => s.modLock g (fun k => { k with staged := k.staged ++ [e.2] })
    | none => s) s

/-- WRITE_NEXT (R267, R268): admitted, staged under the session's locks, or refused as a whole. -/
def execWriteNext (sess : SessNo) (qp : QpNo) (s : State) : Host.Outcome State Fault Refusal :=
  done (s.startDesc sess qp (fun d => dOp d = 2) (fun x d s =>
    let n := sess.val
    let q := qp.val
    if dLen1 d % 16 ≠ 0 || dLen1 d = 0 || dLen1 d > 65536 then s.complete n q d 0x0100 0 0x18
    else s.dedup x n q d (fun s =>
      if dArg d ≠ s.cfgGen then s.complete n q d 0x0302
      else
        let es := chop16 (d.data.length / 16) d.data
        match s.writeEntries n 0 es with
        | (.error r, s) => s.complete n q d r.1 0 r.2
        | (.ok ws, s) =>
          let held (e : List Byte) : Bool := (s.groupsOf (leNat (e.take 4))).any (fun g => (s.lock g).holder = some n)
          if es.all held then (s.stage n (es.zip ws)).complete n q d 2
          else if es.any held then s.complete n q d 0x0303 0 4
          else s.admitBatch x n q d (dOpt d % 256) ws [])))

/-- Is a signal read or written by a safety task, or a safety signal (R50)? -/
def State.safetySignal (s : State) (n : Nat) : Bool :=
  (s.sig? n).any (fun g => g.safe) || s.cfg.tasks.any (fun d => d.safety && (d.inputs.contains n || d.outputs.contains n))

/-- Check the entries of a FORCE: the first fault, or the forces. -/
def State.forceEntries (s : State) : Nat → List (List Byte) → Except (Nat × Nat) (List (Nat × Option (Nat × Nat))) × State
  | _, [] => (.ok [], s)
  | i, e :: es =>
    let tag := leNat (e.take 4)
    let op := leNat ((e.drop 4).take 1)
    let ty := leNat ((e.drop 5).take 1)
    let v := leNat ((e.drop 8).take 8)
    if leNat ((e.drop 6).take 2) ≠ 0 || !(op = 1 || op = 2) then (.error (0x0100, 0x10), s)
    else match (if tag / 2 ^ 24 ≠ 0 then (.error 1, s) else s.hostEntry tag : Except Nat (Nat × Nat) × State) with
      | (.error _, s) => (.error (0x0104, i), s)
      | (.ok (w0, w1), s) =>
        let sig := bits w1 0 19
        if !teSignal w0 then (.error (0x0303, 5), s)
        else if teTy w0 ≠ ty then (.error (0x0104, i), s)
        else if teSafe w0 || s.safetySignal sig then (.error (0x0303, 2), s)
        else match State.forceEntries s (i + 1) es with
          | (.error x, s) => (.error x, s)
          | (.ok fs, s) => (.ok ((sig, if op = 1 then some (if ty = 0 then v % 2 else v % 2 ^ (8 * tySize ty), ty) else none) :: fs), s)

/-- Forces active once every admitted batch and one more have been applied. -/
def State.forcesAfter (s : State) (l : List (Nat × Option (Nat × Nat))) : Nat :=
  let all := (s.host.batches.filter (fun b => b.csn.isNone)).flatMap (fun b => b.forces) ++ l
  (all.foldl (fun t f => if f.2.isSome then tabSet t f.1 () else tabDel t f.1) (s.sched.forces.map (fun e => (e.1, ())))).length

/-- HOST_FORCE (R50, R274): admitted for the first base tick at least 2 µs later, or refused as a whole. -/
def execHostForce (sess : SessNo) (qp : QpNo) (s : State) : Host.Outcome State Fault Refusal :=
  done (s.startDesc sess qp (fun d => dOp d = 10) (fun x d s =>
    let n := sess.val
    let q := qp.val
    if dLen1 d % 16 ≠ 0 || dLen1 d = 0 || dLen1 d > 4096 then s.complete n q d 0x0100 0 0x18
    else s.dedup x n q d (fun s =>
      match s.forceEntries 0 (chop16 (d.data.length / 16) d.data) with
      | (.error r, s) => s.complete n q d r.1 0 r.2
      | (.ok fs, s) => if s.forcesAfter fs > 4096 then s.complete n q d 0x0306 0 3 else s.admitBatch x n q d 0 [] fs)))

/-! ### SUBSCRIBE and CANCEL (R270, R275) -/

/-- HOST_SUBSCRIBE (R270, R277). -/
def execHostSubscribe (sess : SessNo) (qp : QpNo) (s : State) : Host.Outcome State Fault Refusal :=
  done (s.startDesc sess qp (fun d => dOp d = 3) (fun _ d s =>
    let n := sess.val
    let q := qp.val
    let k := dLen1 d / 4
    if dLen1 d % 4 ≠ 0 || dLen1 d = 0 || k > 4096 then s.complete n q d 0x0100 0 0x18
    else if dLen2 d < 2 * slotBytes k then s.complete n q d 0x0100 0 0x28
    else if !d.ok2 then s.complete n q d 0x0103
    else if (s.host.sess.map (fun x => x.2.subs.length)).foldl (· + ·) 0 ≥ 65536 then s.complete n q d 0x0400
    else
      let u : Sub :=
        { qp := q, reqid := dReqid d, task := dOpt d % 256, tags := chop 4 k d.data, k := max 1 (dArg d % 65536),
          onChange := bitOf (dArg d) 16, durable := dDurable d, slots := dLen2 d / slotBytes k, count := 0, last := [], next := 0,
          skipped := 0, slotComp := [], pend := [], addr := dAddr2 d, key := dKey2 d }
      s.modSess n (fun x => { x with subs := x.subs ++ [u] })))

/-- HOST_CANCEL (R275): the target completes CANCELLED, and CANCEL completes OK; otherwise NOTFOUND. -/
def execHostCancel (sess : SessNo) (qp : QpNo) (s : State) : Host.Outcome State Fault Refusal :=
  done (s.startDesc sess qp (fun d => dOp d = 4) (fun x d s =>
    let n := sess.val
    let tq := dOpt d % 4096
    let id := dArg d % 2 ^ 32
    match ((tabGet? x.qps tq).map Qp.waits).bind (fun l => l.find? (fun w => dReqid w.d = id)) with
    | some w => (s.endWait n tq w 0x0204).complete n qp.val d 0
    | none =>
      if x.subs.any (fun u => u.qp = tq && u.reqid = id) then
        let c : Compl :=
          { status := 0x0204, flags := 0, opcode := 3, reqid := id, csn := 0, len := 0, detail := 0, data := [], sub := none }
        let s := s.modSess n (fun x => { x with subs := x.subs.filter (fun u => !(u.qp = tq && u.reqid = id)) })
        ((s.putCompl n tq c).modQp n tq (fun y => { y with open_ := y.open_ - 1 })).complete n qp.val d 0
      else s.complete n qp.val d 0x0205))

/-! ### HISTORY_READ and EVENT_READ (R271, R422, R427) -/

/-- The longest prefix whose bytes fit. -/
def fitBytes {α : Type} (size : α → Nat) : Nat → List α → List α
  | _, [] => []
  | room, x :: xs => if size x ≤ room then x :: fitBytes size (room - size x) xs else []

/-- Complete a read of a log: whole records of a range until the buffer is full, GAP where a SEQ of the range below the next one to be
written is missing. -/
def State.logRead (s : State) (n q : Nat) (d : HostDesc) (l : List ArcRec) (next : Nat) (keep : ArcRec → Bool) : State :=
  let all := l.filter (fun r => dCsn d ≤ r.seq && r.seq ≤ dArg d)
  let want := all.filter keep
  let got := fitBytes ArcRec.length (dLen2 d) want
  let last := ((got.getLast?).map ArcRec.seq).getD 0
  let hi := if got.length < want.length then last else min (dArg d) (next - 1)
  let held := (all.filter (fun r => r.seq ≤ hi)).length
  let gap := decide (next > 0) && decide (held < hi + 1 - dCsn d)
  s.complete n q d 0 last got.length (if gap then 16 else 0) (got.flatMap ArcRec.bytes)

/-- HISTORY_READ (R271). -/
def execHistoryRead (sess : SessNo) (qp : QpNo) (s : State) : Host.Outcome State Fault Refusal :=
  done (s.startDesc sess qp (fun d => dOp d = 5 && dOpt d % 2 = 0) (fun _ d s =>
    if dOpt d ≠ 0 then s.complete sess.val qp.val d 0x0100 0 2
    else s.logRead sess.val qp.val d s.arc.cyc s.arc.cycSeq (fun _ => true)))

/-- A delta block's bytes (R421). -/
def NearBlk.bytes (b : NearBlk) : List Byte := natLe 8 b.csn ++ natLe 4 b.entries.length ++ natLe 4 0 ++ b.entries.flatMap Samp.bytes

/-- HISTORY_READ with OPT[0] = 1 (R422): delta blocks by CSN, from the Lead only. -/
def execHistoryReadDelta (sess : SessNo) (qp : QpNo) (s : State) : Host.Outcome State Fault Refusal :=
  done (s.startDesc sess qp (fun d => dOp d = 5 && dOpt d % 2 = 1) (fun _ d s =>
    if dOpt d ≠ 1 then s.complete sess.val qp.val d 0x0100 0 2
    else if !s.isLead then s.complete sess.val qp.val d 0x0300 0 (1 - s.seat)
    else
      let want := s.arc.near.filter (fun b => dCsn d ≤ b.csn && b.csn ≤ dArg d)
      let got := fitBytes (fun b => 16 + 16 * b.entries.length) (dLen2 d) want
      let gap := match s.arc.near.head? with | some b => decide (dCsn d < b.csn) | none => true
      s.complete sess.val qp.val d 0 (((got.getLast?).map NearBlk.csn).getD 0) got.length (if gap then 16 else 0) (got.flatMap NearBlk.bytes)))

/-- EVENT_READ (R271): the mask selects kinds by Table 16-7. -/
def execEventRead (sess : SessNo) (qp : QpNo) (s : State) : Host.Outcome State Fault Refusal :=
  done (s.startDesc sess qp (fun d => dOp d = 6) (fun _ d s =>
    s.logRead sess.val qp.val d s.arc.evs s.arc.evSeq (fun r => dOpt d = 0 || (r.kind ≥ 0x0101 && r.kind ≤ 0x010A && bitOf (dOpt d) (r.kind - 0x0101)))))

/-! ### CUT (R272) -/

/-- HOST_CUT (R233, R234, R272): scheduled, or refused with TOOSOON for its lead and with LIMIT for the count and the spacing of scheduled
operations. -/
def execHostCut (sess : SessNo) (qp : QpNo) (s : State) : Host.Outcome State Fault Refusal :=
  done (s.startDesc sess qp (fun d => dOp d = 7) (fun _ d s =>
    let n := sess.val
    let q := qp.val
    let tc := dArg d
    match s.cutSet? (dOpt d % 4096) with
    | none => s.complete n q d 0x0100 0 2
    | some c =>
      if dLen2 d < 32 + 16 * c.sigs.length then s.complete n q d 0x0100 0 0x28
      else if tc < s.now + 250000 + s.cutHops c.no.val then s.complete n q d 0x0307
      else if !s.schedFree tc then s.complete n q d 0x0306 0 4
      else
        let op := s.plant.opSeq % 2 ^ 32
        let r : CutRt :=
          { op := op, at_ := tc, sess := n, qp := q, d := d, set := c.no.val, sigs := c.sigs, deadline := s.cutDeadline c.no.val tc, got := [],
            taken := false, mirrored := false }
        let s : State := { s with plant := { s.plant with cuts := s.plant.cuts ++ [r], opSeq := s.plant.opSeq + 1 } }
        let s := s.share (.cut op tc c.no.val)
        (s.cutStations c.no.val).foldl (fun s x =>
          s.fspSend .station 0x09 x.link.val x.no.val s.stamp32 0 false (schedData op 1 0 (s.getF TIM_STAT_ACTIVE) tc)) s))

/-! ### LOCK and UNLOCK (R245 to R247, R273) -/

/-- The groups a descriptor names. -/
def dGroups (d : HostDesc) : List Nat := chop 2 (d.data.length / 2) d.data
/-- Is a list of groups acceptable in number and in their IDs? -/
def State.groupsBad (s : State) (d : HostDesc) : Option Nat :=
  if dLen1 d % 2 ≠ 0 || dLen1 d = 0 || dLen1 d > 32 then some 0x18
  else if !(dGroups d).all (fun g => s.cfg.groups.any (fun x => x.no.val = g)) then some 0x10
  else none
/-- Is a list strictly rising? -/
def risingL : List Nat → Bool
  | a :: b :: l => decide (a < b) && risingL (b :: l)
  | _ => true

/-- HOST_LOCK (R245, R246, R273): refused with nothing granted, or granted group by group; the rest is waited for. -/
def execHostLock (sess : SessNo) (qp : QpNo) (s : State) : Host.Outcome State Fault Refusal :=
  done (s.startDesc sess qp (fun d => dOp d = 8) (fun _ d s =>
    let n := sess.val
    let q := qp.val
    let l := dGroups d
    match s.groupsBad d with
    | some o => s.complete n q d 0x0100 0 o
    | none =>
      if !risingL l || (s.heldBy n).any (fun h => l.any (fun g => g ≤ h)) then (s.bump HQE_LOCKSTAT_ORDERREF).complete n q d 0x0304
      else if (s.heldBy n).length + s.lockAsked n + l.length > s.getF HQE_LOCKCFG_MAXLOCKS then s.complete n q d 0x0306 0 1
      else
        let w : WaitDesc := ⟨d, .lock s.host.nextBatch l [] false, s.now⟩
        let s : State := { s with host := { s.host with nextBatch := s.host.nextBatch + 1 } }
        let s := s.modQp n q (fun y => { y with waits := y.waits ++ [w] })
        s.lockOn n q w))

/-- Does a session hold every group of a list, none broken? -/
def State.holdsAll (s : State) (n : Nat) (l : List Nat) : Bool := l.all (fun g => (s.lock g).holder = some n)
/-- Release the groups of a list that a session holds. -/
def State.releaseOf (s : State) (n : Nat) (l : List Nat) : State :=
  l.foldl (fun s g => if (s.lock g).holder = some n then s.freeLock g else s) s

/-- UNLOCK with OPT[8] = 1 (R247, R273). -/
def execUnlockCommit (sess : SessNo) (qp : QpNo) (s : State) : Host.Outcome State Fault Refusal :=
  done (s.startDesc sess qp (fun d => dOp d = 9 && bitOf (dOpt d) 8) (fun x d s =>
    let n := sess.val
    let q := qp.val
    let l := dGroups d
    match s.groupsBad d with
    | some o => s.complete n q d 0x0100 0 o
    | none => s.dedup x n q d (fun s =>
        if !s.holdsAll n l then (s.releaseOf n l).complete n q d 0x0305
        else if dArg d ≠ s.cfgGen then s.complete n q d 0x0302
        else (s.admitBatch x n q d (dOpt d % 256) (l.flatMap (fun g => (s.lock g).staged)) []).releaseOf n l)))

/-- UNLOCK with OPT[8] = 0. -/
def execUnlockDiscard (sess : SessNo) (qp : QpNo) (s : State) : Host.Outcome State Fault Refusal :=
  done (s.startDesc sess qp (fun d => dOp d = 9 && !bitOf (dOpt d) 8) (fun _ d s =>
    let n := sess.val
    let q := qp.val
    let l := dGroups d
    match s.groupsBad d with
    | some o => s.complete n q d 0x0100 0 o
    | none => (s.releaseOf n l).complete n q d (if s.holdsAll n l then 0 else 0x0305)))

/-! ### TIME, ATTEST and SESSION (R276) -/

/-- HOST_TIME. -/
def execHostTime (sess : SessNo) (qp : QpNo) (s : State) : Host.Outcome State Fault Refusal :=
  done (s.startDesc sess qp (fun d => dOp d = 11) (fun _ d s =>
    if dLen2 d < 16 then s.complete sess.val qp.val d 0x0100 0 0x28
    else s.complete sess.val qp.val d 0 0 0 0
      (natLe 6 (s.now / 1000000000) ++ natLe 2 0 ++ natLe 4 (s.now % 1000000000) ++ natLe 1 (s.getF TIM_STAT_ACTIVE) ++ natLe 3 0)))

/-- ATTEST (R442). -/
def execAttest (sess : SessNo) (qp : QpNo) (s : State) : Host.Outcome State Fault Refusal :=
  done (s.startDesc sess qp (fun d => dOp d = 12) (fun _ d s =>
    let e := s.evidence d.data
    if dLen1 d ≠ 32 then s.complete sess.val qp.val d 0x0100 0 0x18
    else if dLen2 d < e.length then s.complete sess.val qp.val d 0x0100 0 0x28
    else s.complete sess.val qp.val d 0 0 0 0 e))

/-- Is a descriptor a SESSION operation? -/
def isSess (k : Nat) (d : HostDesc) : Bool := dOp d = 0x10 && dOpt d % 16 = k

/-- QP_CREATE (R258, R277): the number is the lowest free one (log entry 24). -/
def execQpCreate (sess : SessNo) (qp : QpNo) (s : State) : Host.Outcome State Fault Refusal :=
  done (s.startDesc sess qp (isSess 1) (fun x d s =>
    let n := sess.val
    let sz := dArg d % 256
    if dAddr1 d % 4096 ≠ 0 then s.complete n qp.val d 0x0100 0 0x10
    else if dAddr2 d % 4096 ≠ 0 then s.complete n qp.val d 0x0100 0 0x20
    else if sz % 16 > 12 || sz / 16 > 12 || sz / 16 < sz % 16 then s.complete n qp.val d 0x0100 0 0x30
    else match (List.range' 1 4095).find? (fun k => (tabGet? x.qps k).isNone) with
      | some k =>
        if s.qpCount ≥ 32768 then s.complete n qp.val d 0x0400
        else
          let s := s.modSess n (fun x => { x with qps := tabSet x.qps k (Qp.new (2 ^ (sz % 16 + 4)) (2 ^ (sz / 16 + 4)) (dAddr1 d) (dAddr2 d) (dKey1 d)) })
          s.hqeStat.complete n qp.val d 0 0 k
      | none => s.complete n qp.val d 0x0400))

/-- QP_DESTROY (R276): waiting descriptors end without completion; admitted batches are still applied. -/
def execQpDestroy (sess : SessNo) (qp : QpNo) (s : State) : Host.Outcome State Fault Refusal :=
  done (s.startDesc sess qp (isSess 2) (fun x d s =>
    let n := sess.val
    let k := dArg d % 4096
    match (if k = 0 then none else tabGet? x.qps k) with
    | none => s.complete n qp.val d 0x0100 0 0x30
    | some y =>
      let s := y.waits.foldl (fun s w => s.ungrant w) s
      let s := s.modSess n (fun x => { x with qps := tabDel x.qps k, subs := x.subs.filter (fun u => u.qp ≠ k) })
      ((s.forgetQp (fun a b => a = n && b = k)).hqeStat).complete n qp.val d 0))

/-- SESSION CLOSE (R276): the session ends once its own completion has been written. -/
def execSessionClose (sess : SessNo) (qp : QpNo) (s : State) : Host.Outcome State Fault Refusal :=
  done (s.startDesc sess qp (isSess 3) (fun _ d s =>
    let n := sess.val
    let s := s.complete n 0 d 0
    match s.qp? n 0 with
    | some y => s.modSess n (fun x => { x with closing := some (y.written + y.comps.length) })
    | none => s))

/-- HOST_LATENCY (R276, R470): completes at once where the present power state meets it, else after the wake that it forces. -/
def execHostLatency (sess : SessNo) (qp : QpNo) (s : State) : Host.Outcome State Fault Refusal :=
  done (s.startDesc sess qp (isSess 4) (fun _ d s =>
    let n := sess.val
    let t := dArg d % 2 ^ 32
    let s := s.modSess n (fun x => { x with latency := some t })
    if wakeUs (s.getF PWR_STAT_PSTATE) ≤ t then s.complete n qp.val d 0
    else s.modSess n (fun x => { x with latWait := x.latWait ++ [(qp.val, dReqid d)] })))

end Sys2Proof.Machine
end

