-- ==== Sys2Proof/Machine/Security.lean ====
section
/-! DEFINITION. Port security and the two key switches (10, R281 to R283, R285; 12, R343 to R345; 19, R494). -/
namespace Sys2Proof.Machine

/-! ### MACsec (R282, R283, R285) -/

/-- Can a port agree on keys: its CAK stands in the key area and could be unsealed (R446), and the links are up (R434 step 11, R21)? -/
def State.portKeyed (s : State) (p : Nat) : Bool :=
  s.kerb.keys.contains p && s.kerb.env.keysOk && (s.kerb.phase = .run || (s.kerb.phase = .boot && decide (s.getF BOT_STAT_STEP ≥ 11)))

/-- SAK_CHANGE (R282, R283, R285): the port takes a new SAK, begins at PN 1, and its settings come into force. -/
def execSakChange (port : Fin 118) (keyServer : Bool) (peers : Byte) (s : State) : Host.Outcome State Fault Refusal :=
  done (
    let p := port.val
    if !s.portKeyed p then s
    else
      let s := s.applyDue (.nextSak p)
      let s := if s.flag SEC_PORTSTAT_SECURED p then s.bump SEC_PORTSTAT_REKEYCNT p else s
      let s := (s.setF SEC_PORTSTAT_SECURED 1 p).setB SEC_PORTSTAT_KEYSERVER keyServer p
      let s := ((s.setF SEC_PORTSTAT_PEERS peers.toNat p).setF SEC_PORTSTAT_REKEYING 0 p).setF SEC_PORTSTAT_EXHAUST 0 p
      let s := s.set64 SEC_TXPNLO_PN SEC_TXPNHI_PN 1 p
      { s with host := { s.host with sakAt := tabSet s.host.sakAt p s.now } })

/-- Offset of SEC_PORTCFG. -/
def secCfgOff : Nat := 0x130004

/-- A write of SEC_PORTCFG. -/
def State.cmdSecPortcfg (s : State) (path : Path) (v : W32) : State :=
  let p := s.selIx path .sec
  if !s.updateEnable then s.ignored path secCfgOff 2
  else if p ≥ 118 then s.ignored path secCfgOff 6
  else
    let s := s.setLater (.nextSak p) SEC_PORTCFG_REPLAYWIN (bits v.toNat 0 8) p
    s.setLater (.nextSak p) SEC_PORTCFG_SAKLIFE (max 1 (min 168 (bits v.toNat 8 8))) p

/-- SEC_PORTCFG_WRITE (R285): under UPDATE-ENABLE; it applies from the port's next SAK. -/
def execSecPortcfgWrite (path : Path) (v : W32) (s : State) : Host.Outcome State Fault Refusal := done (s.written path secCfgOff (fun s => s.cmdSecPortcfg path v))

/-! ### The key switches (R343, R494) -/

/-- One sample of a switch's two antivalent contacts: 2 edit or enable, 1 locked, 0 and 3 disagreement. -/
def KeySw.sample (k : KeySw) (c : BitVec 2) : KeySw :=
  ⟨if c = 2 then min (k.run + 1) 11 else 0, if c = 0 || c = 3 then min (k.dis + 1) 102 else 0⟩
/-- The edit or enable position counts once the contacts have shown it for 10 ms: at the eleventh sample in a row. -/
def KeySw.on (k : KeySw) : Bool := decide (k.run ≥ 11)
/-- A disagreement that has lasted more than 100 ms. -/
def KeySw.flt (k : KeySw) : Bool := decide (k.dis ≥ 102)

/-- Show SAFETY-EDIT: in the edit position the SAFETY LED flashes; its fault with an event record; on its return to locked, an event record holding the safety signature, which the display
shows for 10 s (R343, R345). -/
def State.safeSwitch (s : State) (k : KeySw) : State :=
  let was := s.safetyEdit
  let flt := s.flag SFY_STAT_SWFLT
  let s : State := { s with io := { s.io with keyS := k } }
  let s := ((s.setB KRB_SWSTAT_SAFEEDIT k.on).setB KRB_SWSTAT_SAFEFLT k.flt).setB SFY_STAT_SWEDIT k.on
  let s := s.setB SFY_STAT_SWFLT k.flt
  let s := if k.flt && !flt then s.evSafe 6 [0] else s
  if was = k.on then s
  else
    let s := (s.bump KRB_SWSTAT_CHGCNT).emit .display 3 [b2n k.on]
    if k.on then s
    else
      let s := s.evSafe 7 [s.cfg.safetySig]
      let s := s.emit .display 1 [s.cfg.safetySig % 65536]
      { s with io := { s.io with sigUntil := s.now + 10000000000 } }

/-- Show UPDATE-ENABLE. -/
def State.updSwitch (s : State) (k : KeySw) : State :=
  let was := s.updateEnable
  let flt := s.flag KRB_SWSTAT_UPDFLT
  let s : State := { s with io := { s.io with keyU := k } }
  let s := (s.setB KRB_SWSTAT_UPDEN k.on).setB KRB_SWSTAT_UPDFLT k.flt
  let s := if k.flt && !flt then s.evHw 38 [1] else s
  if was = k.on then s else s.bump KRB_SWSTAT_CHGCNT

/-- KEY_SWITCH_SAMPLE (R343, R345, R494): every 1 ms, the contacts of both switches. -/
def execKeySwitchSample (safe upd : BitVec 2) (s : State) : Host.Outcome State Fault Refusal :=
  done (((s.safeSwitch (s.io.keyS.sample safe))).updSwitch (s.io.keyU.sample upd))

end Sys2Proof.Machine
end

