-- ==== Sys2Proof/Machine/Boot.lean ====
section
/-! DEFINITION. Restart, fuses and the steps of Table 17-1 (17, R434 to R439, R446 to R448, R450, R453, R454, R458, R459). -/
namespace Sys2Proof.Machine

/-- Show a text on the status display, by its ASCII codes. -/
def State.display (s : State) (l : List Nat) : State := s.emit .display 0 l
/-- RCVY. -/
def txtRcvy : List Nat := [0x52, 0x43, 0x56, 0x59]
/-- FUSE. -/
def txtFuse : List Nat := [0x46, 0x55, 0x53, 0x45]
/-- SEAT. -/
def txtSeat : List Nat := [0x53, 0x45, 0x41, 0x54]

/-! ### Fuses (R435 to R438) -/

/-- Blown bits of a word. -/
def bitCount (v : Nat) : Nat := ((List.range 32).filter (fun i => bitOf v i)).length
/-- The count of an SVN thermometer in a fuse array: Kerb, words 44 and 45; module, words 46 to 49 (Table 17-2). -/
def thermCount (t : Tab Nat) (mod_ : Bool) : Nat :=
  ((if mod_ then [46, 47, 48, 49] else [44, 45]).map (fun w => bitCount (tabGet 0 t w))).foldl (· + ·) 0
/-- Blow a thermometer up to a count, from its lowest bit on. -/
def blow (t : Tab Nat) (mod_ : Bool) (n : Nat) : Tab Nat :=
  let first := if mod_ then 46 else 44
  (List.range (if mod_ then 128 else 64)).foldl (fun t i =>
    let w := first + i / 32
    let v := tabGet 0 t w
    if thermCount t mod_ ≥ n || bitOf v (i % 32) then t else tabSet t w (v + 2 ^ (i % 32))) t

/-- Change one bit of a word. -/
def fuseBit (v i : Nat) (b : Bool) : Nat := if bitOf v i = b then v else if b then v + 2 ^ i else v - 2 ^ i

/-- The low-reference read of a word: its blown bits, with what marginal bits read at that reference (R436). -/
def lowRead (fuses : Tab Nat) (marg : List (Nat × Nat × Bool)) (w : Nat) : Nat :=
  (marg.filter (fun m => m.1 = w)).foldl (fun v m => fuseBit v m.2.1 m.2.2) (tabGet 0 fuses w)

/-- The latched value of a word of the primary configuration region: its copy's word, or bit by bit, where bits are marginal (R438). -/
def latchCfg (fuses : Tab Nat) (marg : List (Nat × Nat × Bool)) (w : Nat) : Nat :=
  let bad (w : Nat) : List Nat := (marg.filter (fun m => m.1 = w)).map (fun m => m.2.1)
  if (bad w).isEmpty then lowRead fuses marg w
  else if (bad (w + 96)).isEmpty then lowRead fuses marg (w + 96)
  else (bad w).foldl (fun v i => fuseBit v i (bitOf (lowRead fuses marg (w + 96)) i)) (lowRead fuses marg w)

/-- Step 0 (R436 to R438): both reads, the latched words, IDMARG, CFGMARG and the count; a bit that a re-read found marginal is one here. A bit
marginal in both copies stops the restart with FUSE on the display. Which bits of the one ordering-code word hold *x*, *y* and *z* is a DESIGN CHOICE: those of
KRB_ORDER (log entry 77). -/
def State.bootFuses (s : State) : State :=
  let k := s.kerb
  let seen := k.env.marg.map (fun m => (m.1.val, m.2.1.val, m.2.2))
  let more := (k.margNew.filter (fun m => !seen.any (fun x => x.1 = m.1 && x.2.1 = m.2))).map (fun m => (m.1, m.2, bitOf (tabGet 0 k.fuses m.1) m.2))
  let marg := seen ++ more
  let latched := (List.range 512).foldl (fun t w =>
    let v := if 64 ≤ w && w < 160 then latchCfg k.fuses marg w else lowRead k.fuses marg w
    if v = 0 then t else tabSet t w v) []
  let inCfg (m : Nat × Nat × Bool) : Bool := decide (64 ≤ m.1) && decide (m.1 < 160)
  let s := s.modKerb (fun k => { k with latched := latched, marg := marg.map (fun m => (m.1, m.2.1)), margNew := [] })
  let s := (s.setB BOT_FUSESTAT_IDMARG (marg.any (fun m => decide (m.1 < 64)))).setB BOT_FUSESTAT_CFGMARG (marg.any inCfg)
  let s := s.setF BOT_FUSESTAT_MARGCNT (sat 8 marg.length)
  let s := (s.setF KRB_SERLO_SER (tabGet 0 latched 0)).setF KRB_SERHI_SER (tabGet 0 latched 1)
  let o := tabGet 0 latched 2
  let s := ((s.setF KRB_ORDER_X (bits o 0 8)).setF KRB_ORDER_Y (bits o 8 8)).setF KRB_ORDER_Z (bits o 16 8)
  if marg.any (fun m => inCfg m && marg.any (fun n => n.1 = m.1 + 96 && n.2.1 = m.2.1)) then
    (s.modKerb (fun k => { k with phase := .stuck })).display txtFuse
  else s

/-- FUSE_REREAD (R437, R438): what the 24-hourly read finds marginal; it changes no latched value. -/
def execFuseReread (marg : List (Fin 512 × Fin 32)) (s : State) : Host.Outcome State Fault Refusal :=
  done (
    if s.kerb.phase ≠ .run then s
    else
      let l := marg.map (fun m => (m.1.val, m.2.val))
      let new := l.filter (fun m => !s.kerb.marg.contains m && !s.kerb.margNew.contains m)
      let s := s.setF BOT_FUSESTAT_MARGCNT (sat 8 l.length)
      let s := if new.isEmpty then s else s.setF BOT_FUSESTAT_NEWMARG 1
      let s := if new.any (fun m => decide (m.1 < 64)) then s.setF BOT_FUSESTAT_IDMARG 1 else s
      new.foldl (fun s m => s.evHw 37 [m.1, m.2]) (s.modKerb (fun k => { k with margNew := k.margNew ++ new })))

/-! ### Firmware slots (R447, R448) -/

/-- An empty slot. -/
def Slot.empty : Slot := ⟨0, none, []⟩
/-- A slot. -/
def State.slot (s : State) (n : Nat) : Slot := tabGet Slot.empty s.kerb.slots n
/-- BOT_SLOTSTAT and BOT_SVN show the slots, the thermometers and the running bundle. -/
def State.showSlots (s : State) : State :=
  let s := (s.setF BOT_SLOTSTAT_STATEA (s.slot 0).st).setF BOT_SLOTSTAT_STATEB (s.slot 1).st
  let s := (s.setF BOT_SVN_KERBSVN (thermCount s.kerb.fuses false)).setF BOT_SVN_MODSVN (thermCount s.kerb.fuses true)
  s.setF BOT_SVN_SLOTSVN s.bundle.modSvn
/-- Change a slot. -/
def State.modSlot (s : State) (n : Nat) (f : Slot → Slot) : State :=
  (s.modKerb (fun k => { k with slots := tabMod Slot.empty k.slots n f })).showSlots
/-- Put a slot into a state of Table 17-7. -/
def State.slotTo (s : State) (n st : Nat) : State := s.modSlot n (fun x => { x with st := st })
/-- The running slot. -/
def State.runSlot (s : State) : Nat := s.getF BOT_STAT_ACTSLOT

/-- Does a slot verify: signature, and SVNs at or above the latched thermometers? -/
def State.slotVerifies (s : State) (n : Nat) : Bool :=
  match (s.slot n).bundle with
  | some b => b.sigOk && decide (b.kerbSvn ≥ thermCount s.kerb.latched false) && decide (b.modSvn ≥ thermCount s.kerb.latched true)
  | none => false

/-- RECOVERY (R448): no slot verifies. -/
def State.enterRecovery (s : State) : State :=
  ((s.setF BOT_STAT_STEP 0xF).modKerb (fun k => { k with phase := .recovery })).display txtRcvy

/-- Boot the first slot of a list that verifies; one that does not is REJECTED, with a SECURITY event record. -/
def State.bootPick (s : State) : List Nat → Option Nat × State
  | [] => (none, s)
  | n :: ns => if s.slotVerifies n then (some n, s) else State.bootPick ((s.slotTo n 6).evSec 4 [n]) ns

/-- The slots to try after a first one: the other, if it is PREVIOUS or CONFIRMED. -/
def State.bootOrder (s : State) (first : Nat) : List Nat :=
  let other := 1 - first
  if (s.slot other).st = 4 || (s.slot other).st = 5 then [first, other] else [first]

/-- A slot whose confirmation was cut short has its thermometers completed (R459). -/
def State.completeBlow (s : State) : State :=
  match (List.range 2).find? (fun n => (s.slot n).st = 4) with
  | none => s
  | some n => match (s.slot n).bundle with
    | none => s
    | some b =>
      let f (t : Tab Nat) : Tab Nat := blow (blow t false b.kerbSvn) true b.modSvn
      if b.sigOk then s.modKerb (fun k => { k with fuses := f k.fuses, latched := f k.latched }) else s

/-- Step 1 (R448, R450): a slot that was on PROBATION is REJECTED; the ARMED slot, else the CONFIRMED one, is tried first. One taken from ARMED
enters PROBATION. -/
def State.bootSelect (s : State) : State :=
  let prob := (List.range 2).find? (fun n => (s.slot n).st = 3)
  let s := match prob with | some n => s.slotTo n 6 | none => s
  let s := s.completeBlow
  let armed := (List.range 2).find? (fun n => (s.slot n).st = 2)
  match armed.orElse (fun _ => (List.range 2).find? (fun n => (s.slot n).st = 4)) with
  | none => s.enterRecovery
  | some first =>
    match s.bootPick (s.bootOrder first) with
    | (none, s) => s.enterRecovery
    | (some n, s) =>
      let s := (s.setF BOT_STAT_ACTSLOT n).setB BOT_STAT_FALLBACK (n ≠ first || prob.isSome)
      let new := (s.slot n).st = 2
      let s := (s.slotTo n (if new then 3 else 4)).setB BOT_STAT_PROBATION new
      let b := s.bundle
      (s.addMeas ⟨1, 1, b.kerbSvn, b.version, b.kerbDigest⟩).showSlots

/-- Step 6: the Kerb firmware verifies the module firmware by the same steps. -/
def State.bootSecond (s : State) : State :=
  match s.bootPick (s.bootOrder s.runSlot) with
  | (none, s) => s.enterRecovery
  | (some n, s) =>
    let s := if n = s.runSlot then s else ((s.setF BOT_STAT_ACTSLOT n).setF BOT_STAT_FALLBACK 1).setF BOT_STAT_PROBATION 0
    let b := s.bundle
    (s.addMeas ⟨2, 2, b.modSvn, b.version, b.modDigest⟩).showSlots

/-! ### The restart (R453, R454) -/

/-- The registers a restart keeps: those it reads from MRAM (the retired-lane map, RSTCNT), the identity of the module, the versions
of the blocks, the flash's life, the reserve rows left (their rows stay spared; DEDUCED, log entry 93), and BOT_CFG as written (R460). -/
def keptFields : List Fld :=
  [KRB_DEVID0_DIGEST, KRB_DEVID1_DIGEST, KRB_DEVID2_DIGEST, KRB_DEVID3_DIGEST, XNG_RETMAP0_MAP, XNG_RETMAP1_MAP,
   XNG_RETMAP2_MAP, BOT_RSTCAUSE_RSTCNT, ARC_WEAR_USED, SQR_SPARE_S0, SQR_SPARE_S1, SQR_SPARE_S2, SQR_SPARE_S3,
   SQR_ECCSTAT_SPAREOUT, BOT_CFG_STARTMODE, BOT_CFG_AUTOCONF, BOT_CFG_CONFMIN, BOT_CFG_HEALTHWIN,
   BOT_CFG_AUTORST, BOT_CFG_TIMEWAIT] ++ (List.range 20).map (fun b => common b 16 16 0x7FF0 .ro)

/-- The registers right after a restart: reset values but for those. -/
def State.keptRegs (s : State) : Tab Nat := (keptFields.foldl (fun (n : State) f => n.setF f (s.asWritten f)) State.reset).regs

/-- The Arcade right after a restart: each log up to its last programmed record (R424), the retained area and the credit. -/
def State.keptArc (s : State) : Arcade :=
  let cyc := s.arc.cyc.takeWhile ArcRec.prog
  let evs := s.arc.evs.takeWhile ArcRec.prog
  { s.arc with cyc := cyc, evs := evs, cycSeq := if cyc.isEmpty then s.arc.cycSeq else logHead cyc + 1,
               evSeq := if evs.isEmpty then s.arc.evSeq else logHead evs + 1, retStaged := [], near := [], lastSamp := [],
               credit := s.creditNow, creditAt := s.now, wins := [], curAsk := [] }

/-- The Kerb right after a restart: what MRAM, boot flash and the fuse array hold (Table 17-10); a slot write left unfinished is lost. -/
def State.keptKerb (s : State) (env : BootEnv) : KerbRt :=
  let k := s.kerb
  { KerbRt.reset with env := env, lastWords := k.lastWords, lwSeq := k.lwSeq, roleSeat := k.roleSeat, partnerId := k.partnerId, act := k.act,
                      degMram := k.degMram, epochs := k.epochs, keys := k.keys, fuses := k.fuses, margNew := k.margNew, chain := k.chain,
                      slots := k.slots.map (fun p => (p.1, { p.2 with chunks := [] })) }

/-- The configurations that a restart finds in the configuration areas: the inactive store of a module that restarts during a change is empty
(Table 9-7). -/
def State.keptPkgs (s : State) : Tab Pkg :=
  if 1 ≤ s.step_ && s.step_ ≤ 4 then tabDel s.pkgs (1 - s.actStore) else s.pkgs

/-- A Kerb set whose last words are not committed yet is completed first, in any state of the module (R20), unless the Kerb processor itself stopped; what the
readback found is then a free value (DEDUCED, log entry 98). -/
def State.finishSet (s : State) (cause : Nat) : State :=
  match s.kerb.kset with
  | some k => if cause = 2 then s else let r := s.free; r.2.putLastWords k (r.1 % 2 ^ 40)
  | none => s

/-- A restart begins, with its cause (Table 17-9): what Table 17-10 keeps, and everything else as after reset, at step 0. -/
def State.restart (s : State) (cause : Nat) (env : BootEnv) : State :=
  let s := s.finishSet cause
  let n : State :=
    { State.reset with pending := s.pending, regs := s.keptRegs, out := s.out, fresh := s.fresh, now := s.now, tick := s.tick, pkgs := s.keptPkgs,
                       arc := s.keptArc, kerb := s.keptKerb env, sq := { State.reset.sq with rowMap := s.sq.rowMap },
                       pair := { PairRt.reset with lastLead := s.pair.lastLead, lastEpoch := s.pair.lastEpoch } }
  let n := ((n.setF BOT_RSTCAUSE_CAUSE cause).setF BOT_RSTCAUSE_LWCAUSE s.kerb.lwCause).bump BOT_RSTCAUSE_RSTCNT
  let n := n.setF SCH_OLCSTAT_ACTSTORE ((s.kerb.act.map ActRec.store).getD s.actStore)
  (n.setCredit n.creditNow).showSlots

/-- POWER_ON (R434, R453). -/
def execPowerOn (env : BootEnv) (s : State) : Host.Outcome State Fault Refusal := done (s.restart 1 env)
/-- KERB_WATCHDOG (R453): the Kerb processor stopped. -/
def execKerbWatchdog (env : BootEnv) (s : State) : Host.Outcome State Fault Refusal := done (s.restart 2 env)

/-- The failure of a restart step (R434): the last words with CAUSE 5 and the step in BLOCKSTATE word 0, and state K. -/
def State.bootFail (s : State) : State :=
  let k := s.kset 5
  let k := { k with blocks := s.getF BOT_STAT_STEP :: k.blocks.tail }
  (s.putLastWords k 0).enterK

/-- RESTART_STEP_FAILED (R434). -/
def execRestartStepFailed (s : State) : Host.Outcome State Fault Refusal := done (if s.kerb.phase = .boot then s.bootFail else s)

/-! ### The steps (Table 17-1) -/

/-- The reserve lanes of the placement of R29 in this model (log entry 21). -/
def reservePlaces : List Nat := [15, 31, 47, 63, 78, 79, 94, 95]
/-- Is a lane in the retired-lane map? -/
def State.retiredMap (s : State) (n : Nat) : Bool :=
  bitOf (s.getF (if n < 32 then XNG_RETMAP0_MAP else if n < 64 then XNG_RETMAP1_MAP else XNG_RETMAP2_MAP)) (n % 32)

/-- The pair epoch at a restart (R193, R222): the higher of the copies whose CRC is right; both are written anew. Where neither is intact the manual states no
epoch, and it is a free value. -/
def State.bootEpoch (s : State) : State :=
  let ok (i : Fin 2) (c : Nat × Nat) : Bool := epochIntact c && !s.kerb.env.epochBad.contains i
  let a := s.kerb.epochs.1
  let b := s.kerb.epochs.2
  match ok 0 a, ok 1 b with
  | true, true => s.setEpoch (max a.1 b.1)
  | true, false => s.setEpoch a.1
  | false, true => s.setEpoch b.1
  | false, false => let r := s.free; r.2.setEpoch r.1

/-- Step 2: the pair epoch, the seat (R191, R476), MOVED (R444), and the roles of the lanes, rebuilt from the placement lane by lane (R29, R154, R156). -/
def State.bootMram (s : State) : State :=
  if s.kerb.env.seatcode ≠ 1 && s.kerb.env.seatcode ≠ 2 then s.bootFail.display txtSeat
  else
    let seat := if s.kerb.env.seatcode = 1 then 0 else 1
    let s := s.bootEpoch.setF PAR_STAT_SEAT seat
    let s := match s.kerb.roleSeat with
      | some x => if x = seat then s else (s.setF KRB_STAT_MOVED 1).evHw 40 [x, seat]
      | none => s
    let s := reservePlaces.foldl (fun s n => s.setF XNG_LANESTAT_ROLE 1 n) s
    let s := (List.range 96).foldl (fun s n =>
      if s.retiredMap n then
        let s := s.setF XNG_LANESTAT_ROLE 3 n
        let healthy := 96 - (s.inRole (List.range 96) 3).length
        if (s.inRole (List.range 96) 0).length < min 88 healthy then
          (match s.reserveFor (laneQuarter n) with | some k => s.setF XNG_LANESTAT_ROLE 0 k | none => s)
        else s
      else s) s
    s.laneCounts

/-- Step 8: the full self-test of every lane not retired; a lane that fails is retired (R153, R158). -/
def State.bootLanes (s : State) : State :=
  let s := (List.range 96).foldl (fun s n =>
    if s.laneRole n = 3 then s
    else if s.kerb.env.lanes.any (fun l => l.val = n) then s.retireLane n
    else s.modLane n (fun l => { l with testAt := s.now })) s
  s.lanesTick

/-- Step 10: the active configuration and program are loaded and measured (R439, R451); DEGRADED start times stand (R339). -/
def State.bootConfig (s : State) : State :=
  let n := s.actStore
  match tabGet? s.pkgs n with
  | none => s
  | some p =>
    let s := (s.placePkg n p).set64 SFY_SIG0_SIG SFY_SIG1_SIG p.safetySig
    let s := s.loadRegs p
    let s := s.set64 PAR_CFGGENLO_CFGGEN PAR_CFGGENHI_CFGGEN p.gen
    let s := s.set64 SCH_OLCCSNLO_CSN SCH_OLCCSNHI_CSN ((s.kerb.act.map ActRec.csn).getD 0)
    let s := match tabGet? s.pkgs (1 - n) with
      | some q => (s.placePkg (1 - n) q).setF SCH_OLCSTAT_FALLBACK 1
      | none => s
    let s : State := { s with sq := { s.sq with mem := memLay [] p.init }, io := { s.io with fns := s.kerb.degMram.map (fun d => (d.1, { FnRt.reset with since := some d.2 })) } }
    let fmt := s.bundle.fmt
    let s := (s.setF BOT_SLOTSTAT_CFGFMT fmt).setB BOT_SLOTSTAT_FMTPAIR (s.flag BOT_STAT_PROBATION && p.fmt ≠ fmt)
    p.tasks.foldl (fun s d => s.setF SCH_TASKSTAT_STATE (if s.kind d.no.val = 3 then 0 else 1) d.no.val) (s.measL3 p)

/-- The time of the newest last-words record, in ns. -/
def State.lastWordsTime (s : State) : Option Nat :=
  s.kerb.lastWords.getLast?.map (fun r => leNat ((r.drop 8).take 8) * 1000000000 + leNat ((r.drop 16).take 4))

/-- Set the local clock, and what is reckoned from it. -/
def State.setClock (s : State) (t : Nat) : State :=
  let c := s.creditNow
  let s : State := { s with now := t, tick := t / 62500, plant := { s.plant with stepped := true },
                            lanes := s.lanes.map (fun l => (l.1, { l.2 with testAt := t })) }
  { s with arc := { s.arc with credit := c, creditAt := t } }

/-- Step 11: the local clock is stepped once (R458). The Kerb's timekeeping is lost with causes 1 and 2 (Table 17-10): then the time of the newest
last-words record stands for it, and an event record is written; where there is no such record the manual states no time. -/
def State.bootClock (s : State) : State :=
  let e := s.kerb.env
  if e.src ≠ 2 then s.setClock e.time
  else
    let s := s.setF TIM_STAT_HOLDOVER 1
    let c := s.getF BOT_RSTCAUSE_CAUSE
    if c ≠ 1 && c ≠ 2 then s.setClock e.time
    else
      let s := match s.lastWordsTime with
        | some t => s.setClock t
        | none => let r := s.free; r.2.setClock r.1
      s.evHw 39 [s.now]

/-- Step 12: START and STOP, the outputs' safe values from here on by R201, a new scrub pass, and the probation window. -/
def State.bootDone (s : State) : State :=
  let s := s.modKerb (fun k => { k with phase := .run })
  let s := (s.kerbDrive false).enterPair 0
  let s : State := { s with pair := { s.pair with startAt := s.now, helloAt := s.now }, sq := { s.sq with scrubbed := 0, scrubStart := s.now } }
  if s.flag BOT_STAT_PROBATION then
    let h := s.getF BOT_CFG_HEALTHWIN
    (s.setF BOT_STAT_WINLEFT (h * 60)).modKerb (fun k => { k with winEnd := s.now + h * 3600000000000 })
  else s

/-- Carry out one step of Table 17-1. -/
def State.bootDo (s : State) (n : Nat) : State :=
  match n with
  | 0 => s.bootFuses
  | 1 => s.bootSelect
  | 2 => s.bootMram
  | 3 => { s with io := { s.io with badDrivers := s.kerb.env.drivers.map Fin.val } }
  | 4 => s.setF PWR_STAT_PREHEAT 0
  | 5 => if s.kerb.coolGone then s.enterCapped else s
  | 6 => s.bootSecond
  | 8 => s.bootLanes
  | 9 => s.setF ARC_STAT_READY 1
  | 10 => s.bootConfig
  | 11 => s.bootClock
  | _ => s

/-- A step ends, and the next one begins (log entry 25: one base tick per step); the heater runs during step 4 while the Square is cold (R474). -/
def State.bootTick (s : State) : State :=
  let n := s.getF BOT_STAT_STEP
  let s := s.bootDo n
  if s.kerb.phase ≠ .boot then s
  else
    let s := s.setF BOT_STAT_STEP (n + 1)
    let s := if n + 1 = 4 && s.kerb.env.cold then s.setF PWR_STAT_PREHEAT 1 else s
    if n + 1 = 12 then s.bootDone else s

end Sys2Proof.Machine
end

