-- ==== Sys2Proof/Machine/FlxArith.lean ====
section
/-! DEFINITION. The meanings of loads and stores, arithmetic, compares, tables, timers, counters and live reads (Tables 3-7 and 3-8). -/
namespace Sys2Proof.Machine

/-- LDW. -/
def execLdw (k : Strm) (e : Env) (s : State) : Host.Outcome State Fault Refusal :=
  done (s.flx k e .ldw (semLdw))
/-- STW. -/
def execStw (k : Strm) (e : Env) (s : State) : Host.Outcome State Fault Refusal :=
  done (s.flx k e .stw (semStw))
/-- LDWB. -/
def execLdwb (k : Strm) (e : Env) (s : State) : Host.Outcome State Fault Refusal :=
  done (s.flx k e .ldwb (semLdwb))
/-- STWB. -/
def execStwb (k : Strm) (e : Env) (s : State) : Host.Outcome State Fault Refusal :=
  done (s.flx k e .stwb (semStwb))
/-- LEA. -/
def execLea (k : Strm) (e : Env) (s : State) : Host.Outcome State Fault Refusal :=
  done (s.flx k e .lea (semLea))
/-- ADD. -/
def execAddw (k : Strm) (e : Env) (s : State) : Host.Outcome State Fault Refusal :=
  done (s.flx k e .addw (semAdd))
/-- SUB. -/
def execSubw (k : Strm) (e : Env) (s : State) : Host.Outcome State Fault Refusal :=
  done (s.flx k e .subw (semSub))
/-- MUL. -/
def execMulw (k : Strm) (e : Env) (s : State) : Host.Outcome State Fault Refusal :=
  done (s.flx k e .mulw (semMul))
/-- DIV. -/
def execDivw (k : Strm) (e : Env) (s : State) : Host.Outcome State Fault Refusal :=
  done (s.flx k e .divw (semDiv))
/-- ANDW. -/
def execAndw (k : Strm) (e : Env) (s : State) : Host.Outcome State Fault Refusal :=
  done (s.flx k e .andw (semAnd))
/-- ORW. -/
def execOrw (k : Strm) (e : Env) (s : State) : Host.Outcome State Fault Refusal :=
  done (s.flx k e .orw (semOr))
/-- XORW. -/
def execXorw (k : Strm) (e : Env) (s : State) : Host.Outcome State Fault Refusal :=
  done (s.flx k e .xorw (semXor))
/-- MIN. -/
def execMinw (k : Strm) (e : Env) (s : State) : Host.Outcome State Fault Refusal :=
  done (s.flx k e .minw (semMin))
/-- MAX. -/
def execMaxw (k : Strm) (e : Env) (s : State) : Host.Outcome State Fault Refusal :=
  done (s.flx k e .maxw (semMax))
/-- LIMIT. -/
def execLimit (k : Strm) (e : Env) (s : State) : Host.Outcome State Fault Refusal :=
  done (s.flx k e .limit (semLimit))
/-- SHL. -/
def execShl (k : Strm) (e : Env) (s : State) : Host.Outcome State Fault Refusal :=
  done (s.flx k e .shl (semShl))
/-- SHR. -/
def execShr (k : Strm) (e : Env) (s : State) : Host.Outcome State Fault Refusal :=
  done (s.flx k e .shr (semShr))
/-- ROL. -/
def execRol (k : Strm) (e : Env) (s : State) : Host.Outcome State Fault Refusal :=
  done (s.flx k e .rol (semRol))
/-- ROR. -/
def execRor (k : Strm) (e : Env) (s : State) : Host.Outcome State Fault Refusal :=
  done (s.flx k e .ror (semRor))
/-- CEQ. -/
def execCeq (k : Strm) (e : Env) (s : State) : Host.Outcome State Fault Refusal :=
  done (s.flx k e .ceq (semCmp (fun o => o = .eq) false))
/-- CNE: 1 for a NaN operand. -/
def execCne (k : Strm) (e : Env) (s : State) : Host.Outcome State Fault Refusal :=
  done (s.flx k e .cne (semCmp (fun o => o ≠ .eq) true))
/-- CGT. -/
def execCgt (k : Strm) (e : Env) (s : State) : Host.Outcome State Fault Refusal :=
  done (s.flx k e .cgt (semCmp (fun o => o = .gt) false))
/-- CGE. -/
def execCge (k : Strm) (e : Env) (s : State) : Host.Outcome State Fault Refusal :=
  done (s.flx k e .cge (semCmp (fun o => o ≠ .lt) false))
/-- CLT. -/
def execClt (k : Strm) (e : Env) (s : State) : Host.Outcome State Fault Refusal :=
  done (s.flx k e .clt (semCmp (fun o => o = .lt) false))
/-- CLE. -/
def execCle (k : Strm) (e : Env) (s : State) : Host.Outcome State Fault Refusal :=
  done (s.flx k e .cle (semCmp (fun o => o ≠ .gt) false))
/-- SEL. -/
def execSelw (k : Strm) (e : Env) (s : State) : Host.Outcome State Fault Refusal :=
  done (s.flx k e .selw (semSel))
/-- LSTAT. -/
def execLstat (k : Strm) (e : Env) (s : State) : Host.Outcome State Fault Refusal :=
  done (s.flx k e .lstat (semLstat))
/-- TBL. -/
def execTbl (k : Strm) (e : Env) (s : State) : Host.Outcome State Fault Refusal :=
  done (s.flx k e .tbl (semTbl))
/-- LIN. -/
def execLin (k : Strm) (e : Env) (s : State) : Host.Outcome State Fault Refusal :=
  done (s.flx k e .lin (semLin))
/-- MOVB. -/
def execMovb (k : Strm) (e : Env) (s : State) : Host.Outcome State Fault Refusal :=
  done (s.flx k e .movb (semMovb))
/-- TON. -/
def execTon (k : Strm) (e : Env) (s : State) : Host.Outcome State Fault Refusal :=
  done (s.flx k e .ton (semTon))
/-- TOF. -/
def execTof (k : Strm) (e : Env) (s : State) : Host.Outcome State Fault Refusal :=
  done (s.flx k e .tof (semTof))
/-- TP. -/
def execTp (k : Strm) (e : Env) (s : State) : Host.Outcome State Fault Refusal :=
  done (s.flx k e .tp (semTp))
/-- CTU. -/
def execCtu (k : Strm) (e : Env) (s : State) : Host.Outcome State Fault Refusal :=
  done (s.flx k e .ctu (semCtu))
/-- CTD. -/
def execCtd (k : Strm) (e : Env) (s : State) : Host.Outcome State Fault Refusal :=
  done (s.flx k e .ctd (semCtd))
/-- CTUD. -/
def execCtud (k : Strm) (e : Env) (s : State) : Host.Outcome State Fault Refusal :=
  done (s.flx k e .ctud (semCtud))
/-- CRST. -/
def execCrst (k : Strm) (e : Env) (s : State) : Host.Outcome State Fault Refusal :=
  done (s.flx k e .crst (semCrst))
/-- CLOAD. -/
def execCload (k : Strm) (e : Env) (s : State) : Host.Outcome State Fault Refusal :=
  done (s.flx k e .cload (semCload))
/-- EDGP: LA ← LA AND NOT M. -/
def execEdgp (k : Strm) (e : Env) (s : State) : Host.Outcome State Fault Refusal :=
  done (s.flx k e .edgp (semEdge fun la m => la && !m))
/-- EDGN: LA ← NOT LA AND M. -/
def execEdgn (k : Strm) (e : Env) (s : State) : Host.Outcome State Fault Refusal :=
  done (s.flx k e .edgn (semEdge fun la m => !la && m))
/-- LDLIVE. -/
def execLdlive (k : Strm) (e : Env) (s : State) : Host.Outcome State Fault Refusal :=
  done (s.flx k e .ldlive (semLive false))
/-- LDLIVEH. -/
def execLdliveh (k : Strm) (e : Env) (s : State) : Host.Outcome State Fault Refusal :=
  done (s.flx k e .ldliveh (semLive true))
/-- XAB. -/
def execXab (k : Strm) (e : Env) (s : State) : Host.Outcome State Fault Refusal :=
  done (s.flx k e .xab (semXab))
/-- MOVAB. -/
def execMovab (k : Strm) (e : Env) (s : State) : Host.Outcome State Fault Refusal :=
  done (s.flx k e .movab (semMovab))
/-- MOVBA. -/
def execMovba (k : Strm) (e : Env) (s : State) : Host.Outcome State Fault Refusal :=
  done (s.flx k e .movba (semMovba))
/-- NOT. -/
def execNotw (k : Strm) (e : Env) (s : State) : Host.Outcome State Fault Refusal :=
  done (s.flx k e .notw (semNot))
/-- NEG. -/
def execNegw (k : Strm) (e : Env) (s : State) : Host.Outcome State Fault Refusal :=
  done (s.flx k e .negw (semNeg))
/-- ABS. -/
def execAbsw (k : Strm) (e : Env) (s : State) : Host.Outcome State Fault Refusal :=
  done (s.flx k e .absw (semAbs))
/-- CVT. -/
def execCvt (k : Strm) (e : Env) (s : State) : Host.Outcome State Fault Refusal :=
  done (s.flx k e .cvt (semCvt))
/-- SQRT. -/
def execSqrt (k : Strm) (e : Env) (s : State) : Host.Outcome State Fault Refusal :=
  done (s.flx k e .sqrt (semSqrt))
/-- LDFL. -/
def execLdfl (k : Strm) (e : Env) (s : State) : Host.Outcome State Fault Refusal :=
  done (s.flx k e .ldfl (semLdfl))
/-- CLRF. -/
def execClrf (k : Strm) (e : Env) (s : State) : Host.Outcome State Fault Refusal :=
  done (s.flx k e .clrf (semClrf))
/-- TIME. -/
def execTimew (k : Strm) (e : Env) (s : State) : Host.Outcome State Fault Refusal :=
  done (s.flx k e .timew (semTime))

end Sys2Proof.Machine
end

