-- ==== Sys2Proof/Machine/FlxBit.lean ====
section
/-! DEFINITION. The meanings of the bit-logic instructions (Tables 3-8 and 3-9, R70 to R73). -/
namespace Sys2Proof.Machine

/-- LOG LD: LA takes the operand, negated if NEG = 1. -/
def execLogLd (k : Strm) (e : Env) (s : State) : Host.Outcome State Fault Refusal :=
  done (s.flx k e .logLd (semLog fun _ b => b))
/-- LOG AND. -/
def execLogAnd (k : Strm) (e : Env) (s : State) : Host.Outcome State Fault Refusal :=
  done (s.flx k e .logAnd (semLog fun a b => a && b))
/-- LOG OR. -/
def execLogOr (k : Strm) (e : Env) (s : State) : Host.Outcome State Fault Refusal :=
  done (s.flx k e .logOr (semLog fun a b => a || b))
/-- LOG XOR. -/
def execLogXor (k : Strm) (e : Env) (s : State) : Host.Outcome State Fault Refusal :=
  done (s.flx k e .logXor (semLog fun a b => a != b))
/-- LOG ST: LA, negated if NEG = 1, is stored. -/
def execLogSt (k : Strm) (e : Env) (s : State) : Host.Outcome State Fault Refusal :=
  done (s.flx k e .logSt (semLogStore (fun _ => true) fun la n => la != n))
/-- LOG S: 1 is stored if LA = 1. -/
def execLogS (k : Strm) (e : Env) (s : State) : Host.Outcome State Fault Refusal :=
  done (s.flx k e .logS (semLogStore id fun _ _ => true))
/-- LOG R: 0 is stored if LA = 1. -/
def execLogR (k : Strm) (e : Env) (s : State) : Host.Outcome State Fault Refusal :=
  done (s.flx k e .logR (semLogStore id fun _ _ => false))
/-- LOGP AND. -/
def execLogpAnd (k : Strm) (e : Env) (s : State) : Host.Outcome State Fault Refusal :=
  done (s.flx k e .logpAnd (semLogp 1))
/-- LOGP OR. -/
def execLogpOr (k : Strm) (e : Env) (s : State) : Host.Outcome State Fault Refusal :=
  done (s.flx k e .logpOr (semLogp 2))
/-- LOGP XOR. -/
def execLogpXor (k : Strm) (e : Env) (s : State) : Host.Outcome State Fault Refusal :=
  done (s.flx k e .logpXor (semLogp 3))
/-- POPL. -/
def execPopl (k : Strm) (e : Env) (s : State) : Host.Outcome State Fault Refusal :=
  done (s.flx k e .popl (semPopl))
/-- NOTL. -/
def execNotl (k : Strm) (e : Env) (s : State) : Host.Outcome State Fault Refusal :=
  done (s.flx k e .notl (semNotl))
/-- SETL. -/
def execSetl (k : Strm) (e : Env) (s : State) : Host.Outcome State Fault Refusal :=
  done (s.flx k e .setl (semSetl))
/-- CLRL. -/
def execClrl (k : Strm) (e : Env) (s : State) : Host.Outcome State Fault Refusal :=
  done (s.flx k e .clrl (semClrl))
/-- LDBIT. -/
def execLdbit (k : Strm) (e : Env) (s : State) : Host.Outcome State Fault Refusal :=
  done (s.flx k e .ldbit (semLdbit))
/-- STBIT. -/
def execStbit (k : Strm) (e : Env) (s : State) : Host.Outcome State Fault Refusal :=
  done (s.flx k e .stbit (semStbit))

end Sys2Proof.Machine
end

