-- ==== Sys2Proof/Machine/FlxControl.lean ====
section
/-! DEFINITION. The meanings of branches, loops and the instructions of format S that steer a stream (Tables 3-7 and 3-8; 04). -/
namespace Sys2Proof.Machine

/-- JMP. -/
def execJmp (k : Strm) (e : Env) (s : State) : Host.Outcome State Fault Refusal :=
  done (s.flx k e .jmp (semJmp))
/-- CALL. -/
def execCall (k : Strm) (e : Env) (s : State) : Host.Outcome State Fault Refusal :=
  done (s.flx k e .call (semCall))
/-- RET. -/
def execRet (k : Strm) (e : Env) (s : State) : Host.Outcome State Fault Refusal :=
  done (s.flx k e .ret (semRet))
/-- LOOP. -/
def execLoop (k : Strm) (e : Env) (s : State) : Host.Outcome State Fault Refusal :=
  done (s.flx k e .loop (semLoop fun c _ => c.i.cnt))
/-- LOOPW. -/
def execLoopw (k : Strm) (e : Env) (s : State) : Host.Outcome State Fault Refusal :=
  done (s.flx k e .loopw (semLoop fun c m => m.st.reg c.i.lpn % 2 ^ 32))
/-- NOP. -/
def execNop (k : Strm) (e : Env) (s : State) : Host.Outcome State Fault Refusal :=
  done (s.flx k e .nop (semNop))
/-- END. -/
def execEndS (k : Strm) (e : Env) (s : State) : Host.Outcome State Fault Refusal :=
  done (s.flx k e .endS (semEnd))
/-- MODESET. -/
def execModeset (k : Strm) (e : Env) (s : State) : Host.Outcome State Fault Refusal :=
  done (s.flx k e .modeset (semModeset))
/-- SETEV. -/
def execSetev (k : Strm) (e : Env) (s : State) : Host.Outcome State Fault Refusal :=
  done (s.flx k e .setev (semSetev))
/-- DIAG. -/
def execDiag (k : Strm) (e : Env) (s : State) : Host.Outcome State Fault Refusal :=
  done (s.flx k e .diag (semDiag))
/-- SYNC. -/
def execSync (k : Strm) (e : Env) (s : State) : Host.Outcome State Fault Refusal :=
  done (s.flx k e .sync (semSync))
/-- TRAP. -/
def execTrap (k : Strm) (e : Env) (s : State) : Host.Outcome State Fault Refusal :=
  done (s.flx k e .trap (semTrap))
/-- SYNC_RELEASE (R84): every stream of the cycle waits at the SYNC or has ended. -/
def execSyncRelease (ctx : Ctx) (task : TaskNo) (s : State) : Host.Outcome State Fault Refusal := done (s.syncShare ctx task.val)

end Sys2Proof.Machine
end

