-- ==== Sys2Proof/Machine/Update.lean ====
section
/-! DEFINITION. The BOT block's commands (17, R442, R447 to R451, R454, R455, R460): writing a slot, restart, probation and attestation. -/
namespace Sys2Proof.Machine

/-- Offset of BOT_UPDCTL. -/
def updOff : Nat := 0x120020
/-- Offset of BOT_CMD. -/
def botCmdOff : Nat := 0x12000C

/-- A command of BOT_UPDCTL that is ignored: RESULT shows it. -/
def State.updIgnored (s : State) (p : Path) (cause : Nat) : State := (s.ignored p updOff cause).setF BOT_UPDSTAT_RESULT 2

/-- May a slot be written: the running slot is CONFIRMED (R447), or no slot runs (R448, RECOVERY)? -/
def State.mayUpdate (s : State) : Bool := s.kerb.phase = .recovery || (s.slot s.runSlot).st = 4

/-- The slot that is written: the one that does not run. -/
def State.spareSlot (s : State) : Nat := 1 - s.runSlot

/-- OPEN: the inactive slot is erased. -/
def State.cmdUpdOpen (s : State) (path : Path) : State :=
  if !s.blkReady 0x12 then s.updIgnored path 4
  else if !s.updateEnable then s.updIgnored path 2
  else if !s.mayUpdate then s.updIgnored path 4
  else
    let s := s.modSlot s.spareSlot (fun _ => Slot.empty)
    ((s.setF BOT_UPDSTAT_OPEN 1).setF BOT_UPDSTAT_CHUNKS 0).setF BOT_UPDSTAT_RESULT 0
/-- UPD_OPEN (R448). -/
def execUpdOpen (path : Path) (s : State) : Host.Outcome State Fault Refusal := done (s.written path updOff (fun s => s.cmdUpdOpen path))

/-- CHUNK: one chunk of 32 KiB, whose CRC must agree. -/
def State.cmdUpdChunk (s : State) (path : Path) : State :=
  if !s.blkReady 0x12 || !s.flag BOT_UPDSTAT_OPEN then s.updIgnored path 4
  else
    let d := memRdL s.kerb.upWin 0 32768
    if crc32c d ≠ s.getF BOT_UPCRC_CRC then s.setF BOT_UPDSTAT_RESULT 1
    else
      let s := s.modSlot s.spareSlot (fun x => { x with chunks := tabSet x.chunks (s.getF BOT_UPOFF_OFF) d })
      (s.setF BOT_UPDSTAT_RESULT 0).bump BOT_UPDSTAT_CHUNKS
/-- UPD_CHUNK (R448). -/
def execUpdChunk (path : Path) (s : State) : Host.Outcome State Fault Refusal := done (s.written path updOff (fun s => s.cmdUpdChunk path))

/-- CLOSE: the chunks up to BOT_UPLEN spell the bundle `b`. -/
def State.cmdUpdClose (s : State) (path : Path) (b : Bundle) : State :=
  let n := s.getF BOT_UPLEN_LEN
  if !s.blkReady 0x12 || !s.flag BOT_UPDSTAT_OPEN || n = 0 || !chunksUpTo (s.slot s.spareSlot).chunks n then s.updIgnored path 4
  else
    let s := s.modSlot s.spareSlot (fun x => { x with st := 1, bundle := some b })
    (s.setF BOT_UPDSTAT_OPEN 0).setF BOT_UPDSTAT_RESULT 0
/-- UPD_CLOSE (R448). -/
def execUpdClose (path : Path) (b : Bundle) (s : State) : Host.Outcome State Fault Refusal := done (s.written path updOff (fun s => s.cmdUpdClose path b))

/-- ARM: a WRITTEN slot, under the condition of OPEN. -/
def State.cmdUpdArm (s : State) (path : Path) : State :=
  if !s.blkReady 0x12 then s.updIgnored path 4
  else if !s.updateEnable then s.updIgnored path 2
  else if !s.mayUpdate || (s.slot s.spareSlot).st ≠ 1 then s.updIgnored path 4
  else (s.slotTo s.spareSlot 2).setF BOT_UPDSTAT_RESULT 0
/-- UPD_ARM (R448). -/
def execUpdArm (path : Path) (s : State) : Host.Outcome State Fault Refusal := done (s.written path updOff (fun s => s.cmdUpdArm path))

/-- DISARM: back to WRITTEN. -/
def State.cmdUpdDisarm (s : State) (path : Path) : State :=
  if !s.blkReady 0x12 || (s.slot s.spareSlot).st ≠ 2 then s.updIgnored path 4
  else (s.slotTo s.spareSlot 1).setF BOT_UPDSTAT_RESULT 0
/-- DISARM (R448). -/
def execUpdDisarm (path : Path) (s : State) : Host.Outcome State Fault Refusal := done (s.written path updOff (fun s => s.cmdUpdDisarm path))

/-! ### RESTART and attestation (R442, R454) -/

/-- Is RESTART accepted: START, FENCED and ISOLATED, state K, RECOVERY? -/
def State.mayRestart (s : State) : Bool :=
  match s.kerb.phase with
  | .run => let st := s.getF PAR_STAT_STATE; st = 0 || st = 5 || st = 8
  | .off => true
  | .recovery => true
  | _ => false

/-- RESTART. -/
def State.cmdBotRestart (s : State) (path : Path) (env : BootEnv) : State :=
  if s.mayRestart then s.restart (if s.kerb.phase = .recovery then 6 else 3) env else s.ignored path botCmdOff 4
/-- BOT_RESTART (R453, R454). -/
def execBotRestart (path : Path) (env : BootEnv) (s : State) : Host.Outcome State Fault Refusal := done (s.written path botCmdOff (fun s => s.cmdBotRestart path env))

/-- ATTEST: the nonce stands in BOT_UPWIN bytes 0 to 31, and the evidence is read there. -/
def State.cmdBotAttest (s : State) (path : Path) : State :=
  if !s.blkReady 0x12 || s.kerb.phase = .off then s.ignored path botCmdOff 4
  else s.modKerb (fun k => { k with evidence := s.evidence (memRdL k.upWin 0 32) })
/-- BOT_ATTEST (R442, R460). -/
def execBotAttest (path : Path) (s : State) : Host.Outcome State Fault Refusal := done (s.written path botCmdOff (fun s => s.cmdBotAttest path))

/-! ### Probation (R449, R450) -/

/-- The slot on probation is given up. -/
def State.rejectSlot (s : State) : State :=
  let s := (s.slotTo s.runSlot 6).modKerb (fun k => { k with rejecting := false, confGiven := false })
  (s.setF BOT_STAT_PROBATION 0).setF BOT_STAT_WINLEFT 0

/-- The outcome of a rejection (Table 17-8): as Lead in LEAD, a request for a switch-over first; as Lead in SOLO, the module runs on; else RELEASE
and the restart into the CONFIRMED slot. -/
def State.giveUp (s : State) (env : BootEnv) : State :=
  if s.kerb.phase = .run && s.getF PAR_STAT_STATE = 6 then (s.switchRequest.2).modKerb (fun k => { k with rejecting := true })
  else if s.kerb.phase = .run && s.getF PAR_STAT_STATE = 7 then s.rejectSlot
  else
    let st := s.getF PAR_STAT_STATE
    (if 1 ≤ st && st ≤ 4 then s.rejectSlot.loseRole 8 else s.rejectSlot).restart 5 env

/-- At a base tick: a rejection that waits for the role to be handed over, or an AUDMISS on probation, takes its outcome; the restart follows. -/
def State.rejectTick (s : State) : State :=
  let st := s.getF PAR_STAT_STATE
  if !s.kerb.rejecting || st = 6 then s
  else if st = 7 then s.rejectSlot
  else ((if 1 ≤ st && st ≤ 4 then s.rejectSlot.loseRole 8 else s.rejectSlot)).modKerb (fun k => { k with toRestart := some 5 })

/-- CONFIRM. -/
def State.cmdBotConfirm (s : State) (path : Path) : State :=
  if !s.updateEnable then s.ignored path botCmdOff 2
  else if !s.blkReady 0x12 || !s.flag BOT_STAT_PROBATION then s.ignored path botCmdOff 4
  else s.modKerb (fun k => { k with confGiven := true })
/-- CONFIRM (R449, R459, R460). -/
def execBotConfirm (path : Path) (s : State) : Host.Outcome State Fault Refusal := done (s.written path botCmdOff (fun s => s.cmdBotConfirm path))

/-- REJECT. -/
def State.cmdBotReject (s : State) (path : Path) (env : BootEnv) : State :=
  if !s.updateEnable then s.ignored path botCmdOff 2
  else if !s.blkReady 0x12 || !s.flag BOT_STAT_PROBATION then s.ignored path botCmdOff 4
  else s.giveUp env
/-- REJECT (R450, R460). -/
def execBotReject (path : Path) (env : BootEnv) (s : State) : Host.Outcome State Fault Refusal := done (s.written path botCmdOff (fun s => s.cmdBotReject path env))

/-- HEALTHWIN_EXPIRY (R450): as REJECT. -/
def execHealthwinExpiry (env : BootEnv) (s : State) : Host.Outcome State Fault Refusal :=
  done (if s.flag BOT_STAT_PROBATION && decide (s.now + 62500 ≥ s.kerb.winEnd) then s.giveUp env else s)

/-- PROBATION_CONFIRMATION (R449, R451): the role held for CONFMIN minutes, and CONFIRM given or AUTOCONF. The slot becomes CONFIRMED and the last
confirmed one PREVIOUS, the thermometers are blown, and the configuration kept in the old format is erased. -/
def execProbationConfirmation (s : State) : Host.Outcome State Fault Refusal :=
  done (
    let held := match s.kerb.okSince with
      | some t => decide (s.now + 62500 ≥ t + s.getF BOT_CFG_CONFMIN * 60000000000)
      | none => false
    if !(s.flag BOT_STAT_PROBATION && !s.kerb.rejecting && held && (s.kerb.confGiven || s.flag BOT_CFG_AUTOCONF)) then s
    else
      let b := s.bundle
      let s := s.slotTo s.runSlot 4
      let s := if (s.slot s.spareSlot).st = 4 then s.slotTo s.spareSlot 5 else s
      let s := (s.modKerb (fun k => { k with fuses := blow (blow k.fuses false b.kerbSvn) true b.modSvn, confGiven := false })).showSlots
      let s := ((s.setF BOT_STAT_PROBATION 0).setF BOT_STAT_WINLEFT 0).setF BOT_SLOTSTAT_FMTPAIR 0
      { s with pkgs := s.pkgs.map (fun p => (p.1, { p.2 with fmt := b.fmt })) })

/-! ### The automatic restart (R455) -/

/-- Does the condition of the last words' CAUSE hold, and is its AUTORST bit set? -/
def State.autoDue (s : State) : Bool :=
  let a := s.flag PWR_STAT_MAINSA
  let b := s.flag PWR_STAT_MAINSB
  let r := s.getF BOT_CFG_AUTORST
  match s.kerb.lwCause with
  | 1 => bitOf r 1
  | 2 => bitOf r 0 && (match s.getF PWR_CTL_MAINSCFG with | 1 => a | 2 => b | _ => a && b)
  | 3 => bitOf r 2 && !s.hotAt 1250 1050 950
  | _ => false

/-- AUTO_RESTART (R455): after a Kerb set, once the condition for its cause is met; and the restart that follows a rejected slot's RELEASE
(R450). -/
def execAutoRestart (env : BootEnv) (s : State) : Host.Outcome State Fault Refusal :=
  done (
    match s.kerb.toRestart with
    | some c => s.restart c env
    | none => if s.kerb.phase = .off && s.kerb.kset.isNone && s.autoDue then s.restart 4 env else s)

end Sys2Proof.Machine
end

