-- ==== Sys2Proof/Machine/Setup.lean ====
section
/-! DEFINITION. The set-up window as access paths read and write it (19, R484 to R496): the registers' own rules, the management ports and the
management queue. -/
namespace Sys2Proof.Machine

/-! ### Which registers there are -/

/-- Does the instance that an access path selects exist: a lane, a region slot, a plant link, a secured port, an input or output of the analogue
block? The other selectors reach what they name. -/
def State.instOk (s : State) (p : Path) (off : Nat) : Bool :=
  match ((fieldsAt off).head?).map Fld.sel with
  | some .lane => decide (s.selIx p .lane < 96)
  | some .acu => acuSlotOk (s.getF ACU_MSEL_SEL p.code) (s.getF ACU_RSEL_SLOT p.code)
  | some .link => decide (s.selIx p .link < 104)
  | some .sec => decide (s.selIx p .sec < 118)
  | some .aio =>
    let n := s.selIx p .aio
    if 0xE001C ≤ off && off < 0xE0030 then decide (16 ≤ n) && decide (n < 24) else decide (n < 16)
  | _ => true

/-! ### Reads (R489, R490) -/

/-- Fields that the module computes as they are read. -/
def State.liveFields (s : State) (p : Path) : List (Fld × Nat) :=
  let lane := s.selIx p .lane
  let log := s.arc.log (s.getF ARC_LOGSEL_LOG p.code)
  let near := match s.arc.near with | b :: _ => (s.now - b.time) / 10000000 | [] => 0
  let ring := match s.sq.snaps.getLast? with | some n => (s.now - n.time) / 10000000 | none => 0
  [(TIM_NS_NS, s.now % 1000000000), (TIM_SECLO_SEC, s.now / 1000000000), (TIM_SECHI_SEC, s.now / 1000000000 / 2 ^ 32), (SCH_TICK_N, s.tick),
   (XNG_LANESTAT_QUARTER, laneQuarter lane), (XNG_LANESTAT_TRANS, min 7 (s.transients lane).length),
   (XNG_LANESTAT_TESTAGE, sat 16 ((s.now - (s.laneRt lane).testAt) / 3600000000000)), (SPC_CTL_ACTIVE, b2n s.specActive),
   (SQR_RINGSTAT_SPAN, sat 16 ring), (ARC_NEARSTAT_SPAN, sat 16 near),
   (PAR_WITSTAT_ASSENT, s.assents),
   (ARC_STAT_OVERBUDGET, b2n (decide (s.creditNow < 0))), (ARC_STAT_CREDIT, (max 0 s.creditNow * 100 / creditCap).toNat),
   (ARC_STAT_ALLOW, (joinAllowance - s.arc.joinUsed) / arcCapacity), (ARC_HEADLO_SEQ, logHead log), (ARC_HEADHI_SEQ, logHead log / 2 ^ 32),
   (ARC_TAILLO_SEQ, logTail log), (ARC_TAILHI_SEQ, logTail log / 2 ^ 32), (BOT_STAT_WARMOK, b2n s.warmOk)]

/-- The ring tail that a field shows (R310): the value written for the next base tick, else that of the latest commit. -/
def State.tailRead (s : State) (k : SysKind) (ix : Nat) (f : Fld) : Nat :=
  match s.sysAddr k s.seatB ix with
  | some a => (((s.sched.tails.filter (fun e => e.1 = a)).getLast?).map Prod.snd).getD (s.ringTail k s.seatB ix f)
  | none => s.asWritten f ix

/-- What one field reads as: a writable field the value written, a command 0, any other its current value. -/
def State.fieldRead (s : State) (p : Path) (f : Fld) : Nat :=
  let ix := s.selIx p f.sel
  match f.acc with
  | .wo => 0
  | .w1s => 0
  | .rw =>
    if f = DIO_EDGETAIL_TAIL then s.tailRead .dioTail 0 f
    else if f = TIM_CAPCFG_TAIL then s.tailRead .timTail 0 f
    else if f = CAN_RXTAIL_TAIL then s.tailRead .canRxTail ix f
    else s.asWritten f ix
  | _ => match (s.liveFields p).find? (fun e => e.1 = f) with
    | some e => e.2 % 2 ^ f.w
    | none => s.getF f ix

/-- The current word of a register; BLKSTATLO shows the block's state. -/
def State.wordNow (s : State) (p : Path) (off : Nat) : Nat :=
  if off % 0x10000 = 0x7FF8 then s.blkLo (off / 0x10000)
  else if s.instOk p off then (fieldsAt off).foldl (fun a f => a + 2 ^ f.lo * s.fieldRead p f) 0
  else 0

/-- The registers whose read latches others (R490): the offsets that latch, each with what it latches. -/
def latches (off : Nat) : List Nat :=
  if off = KRB_SERLO_SER.off || off = PAR_ACKCSNLO_ACKCSN.off || off = PAR_CFGGENLO_CFGGEN.off || off = SCH_OLCCSNLO_CSN.off || off = SEC_TXPNLO_PN.off ||
    off = ARC_HEADLO_SEQ.off || off = ARC_TAILLO_SEQ.off || off = ARC_FOUNDLO_S.off then [off + 4]
  else if off = TIM_NS_NS.off then [TIM_SECLO_SEC.off, TIM_SECHI_SEC.off]
  else []

/-- Four bytes of a window as a word. -/
def winWord (l : List Byte) (o : Nat) : Nat := leNat ((l.drop o).take 4)

/-- One word read by an access path: windows, latched HI registers, registers; read-to-clear fields clear, and a LO register latches. -/
def State.readWord (s : State) (p : Path) (off : Nat) : Nat × State :=
  if 0x118000 ≤ off && off < 0x120000 then (winWord (tabGet [] s.arc.wins p.code) (off - 0x118000), s)
  else if 0x128000 ≤ off && off < 0x130000 then (winWord s.kerb.evidence (off - 0x128000), s)
  else if off ≥ 0x140000 then (0, s)
  else match tabGet? s.setup.latch (p.code * 2 ^ 24 + off) with
    | some v => (v, s)
    | none =>
      let v := s.wordNow p off
      let s := (latches off).foldl (fun s o =>
        { s with setup := { s.setup with latch := tabSet s.setup.latch (p.code * 2 ^ 24 + o) (s.wordNow p o) } }) s
      let s := if s.instOk p off then
          ((fieldsAt off).filter (fun f => f.acc = .rc)).foldl (fun s f => s.setF f 0 (s.selIx p f.sel)) s
        else s
      (v, s)

/-- Words in ascending offset (R491). -/
def State.readWords (s : State) (p : Path) (off : Nat) : Nat → List Nat × State
  | 0 => ([], s)
  | n + 1 =>
    let r := s.readWord p off
    let t := r.2.readWords p (off + 4) n
    (r.1 :: t.1, t.2)

/-! ### Writes: the fields' own rules -/

/-- A value that travels to the Follower and takes effect in both modules at the base tick after its packet has left; without a Follower, at the
next base tick. -/
def State.putTick (s : State) (f : Fld) (v : Nat) (ix : Nat := 0) : State :=
  s.setShared .baseTick (.regTick (f.key ix) (v % 2 ^ f.w)) f v ix

/-- A task setting: it travels, and waits for the task's next START. -/
def State.putStart (s : State) (f : Fld) (v t : Nat) : State :=
  (s.setLater (.taskStart t) f v t).share (.regStart t (f.key t) (v % 2 ^ f.w))

/-- A task setting: it travels, and waits for the task's next release, with a Follower for one after its packet has left (R57). -/
def State.putRelease (s : State) (f : Fld) (v t : Nat) : State :=
  s.setShared (.taskRelease t) (.regRelease t (f.key t) (v % 2 ^ f.w)) f v t

/-- When the writable fields of a register with no rule of its own take effect: settings at the next base tick (R162, R190, R225, R252, R285, R312,
R393, R433, R483), those of field I/O at the next sample tick and the sequence at its next round (R379, R371), BOT_CFG at the next restart
(R460); selectors, operands of commands and KRB_HBCFG at once. -/
def whenOf (off : Nat) : Option When :=
  if off = 0x100 || (0x20024 ≤ off && off ≤ 0x20034) || off = 0x30000 || (0x30064 ≤ off && off ≤ 0x3006C) || (0x60030 ≤ off && off ≤ 0x60054) ||
    (0x80014 ≤ off && off ≤ 0x80028) || off = 0xF0018 || (0x110030 ≤ off && off ≤ 0x11004C) || (0x120024 ≤ off && off ≤ 0x12002C) then none
  else if off = 0xD0014 || off = 0xE0014 || off = 0xE001C || off = 0xF0000 then some .sample
  else if off = 0xF0014 then some .adcRound
  else if off = 0x120008 then some .restart
  else some .baseTick

/-- Write one field by that rule. -/
def State.putField (s : State) (p : Path) (f : Fld) (v : Nat) : State :=
  let ix := s.selIx p f.sel
  match f.sel, whenOf f.off with
  | .path, _ => s.setF f v ix
  | _, none => s.setF f v ix
  | _, some w => s.setLater w f v ix

/-- Write the writable fields of a register that satisfy `only`, each as it is stored. -/
def State.putFields (s : State) (p : Path) (off v : Nat) (only : Fld → Bool := fun _ => true) : State :=
  ((fieldsAt off).filter (fun f => f.acc = .rw && only f)).foldl (fun s f => s.putField p f (storedAs f (bits v f.lo f.w))) s

/-- Clear the W1C bits of a register that a word names. -/
def State.clearBits (s : State) (p : Path) (off v : Nat) : State :=
  ((fieldsAt off).filter (fun f => f.acc = .w1c && bits v f.lo f.w ≠ 0)).foldl (fun s f => s.setF f 0 (s.selIx p f.sel)) s

/-- Does a safety task read or write a channel of the own seat (R379): kind 0 universal, 1 analogue input, 2 analogue output? -/
def State.chanSafe (s : State) (kind ch : Nat) : Bool :=
  let p := s.cfg
  (safetyReads p ++ safetyWrites p).any (fun n => (pkgSig p n).any (fun g => match g.src with
    | .dio b c => kind = 0 && b = s.seatB && c.val = ch
    | .count b c => kind = 0 && b = s.seatB && c.val = ch
    | .ai b c => kind = 1 && b = s.seatB && c.val = ch
    | .hart b d _ => kind = 1 && b = s.seatB && p.harts.any (fun h => h.dev = d && h.ch.val = ch)
    | .ao b c => kind = 2 && b = s.seatB && c.val = ch
    | .aoStatus b c => kind = 2 && b = s.seatB && c.val = ch
    | _ => false)) ||
  p.fns.any (fun f => f.seat = s.seatB && (f.a = ch || f.b = ch) && (if kind = 0 then f.kind = 0 || f.kind = 1 else kind = 1 && f.kind = 2))

/-- The pages of a task's write set at its largest: its images and the variables it writes (R171). -/
def writeSet (p : Pkg) (d : TaskDef) : List Nat :=
  let span (a n : Nat) : List Nat := (List.range ((a % 4096 + n + 4095) / 4096)).map (fun i => pageOf a + 4096 * i)
  ((p.vars.filter (fun v => v.writers.contains d.no)).flatMap (fun v => span v.addr v.size) ++
   d.outputs.flatMap (fun n => [pageOf (d.outBase + 8 * n), pageOf (d.outStat + n)]) ++
   d.inputs.flatMap (fun n => [pageOf (d.inBase + 8 * n), pageOf (d.inStat + n)])).eraseDups

/-- The frames that the service areas take beside the three of a set size (R164, R171): read sets of 65,536 entries of 16 bytes for the tasks that
speculate (R125), and the largest write set of a task. The manual gives the staging area and the saved ACU sets no size (log entry 95). -/
def State.serviceFrames (s : State) : Nat :=
  256 * (s.cfg.tasks.filter (fun d => s.flag SCH_TASKCFG_SPEC d.no.val)).length + ((s.cfg.tasks.map (fun d => (writeSet s.cfg d).length)).foldl max 0)

/-- Do the overlay pool, the snapshot ring and the near history fit the 35,156,250 frames of the Square beside the populated pages, the two program
stores and the other service areas (R140, R164, R190, R433)? -/
def State.squareFits (s : State) (pool ring near : Nat) : Bool :=
  decide (s.cfg.pages.length + s.serviceFrames + (2 + pool + ring + near) * 2 ^ 18 ≤ 35156250)

/-- Would a task stand in the wrong order with one of its quarter (R316), with the values as written? -/
def State.orderBad (s : State) (t : Nat) : Bool :=
  let used := (s.cfg.tasks.map (fun d => d.no.val)).filter (fun t => s.asWritten SCH_TASKCFG_PERIOD t > 0)
  let q (x : Nat) := s.asWritten SCH_TASKPHASE_QUARTER x
  let r (x : Nat) := s.asWritten SCH_TASKCFG_PRIO x
  used.contains t && used.any (fun x => x ≠ t && q x = q t &&
    ((s.isSafety t && !s.isSafety x && decide (r t ≥ r x)) || (s.isSafety x && !s.isSafety t && decide (r x ≥ r t))))

/-- May SPEC = 1 be written for a task (R116): cyclic, no safety task, no live read? -/
def State.specAllowed (s : State) (t : Nat) : Bool :=
  s.asWritten SCH_TASKCFG_KIND t = 0 && !s.isSafety t && !(match s.taskDef? t with | some d => d.hasLive | none => false)

/-! ### Writes: registers with rules of their own -/

/-- One write of an access path to a register, as attempts on its fields (`State.attempts`). -/
abbrev Attempts := List (State → State)

/-- An attempt that is refused. -/
def refuse (p : Path) (off cause : Nat) : Attempts := [fun s => s.ignored p off cause]

/-- The attempts of a register with rules of its own. -/
def own (l : Attempts) : Option Attempts := some l
/-- Attempts after others. -/
def also (a b : Attempts) : Attempts := a ++ b

/-- SCH task registers and SPC_TASKCFG (R57, R115, R140): locked for a safety task, ignored on the Follower. -/
def State.taskGate (s : State) (p : Path) (off : Nat) (l : Nat → Attempts) : Attempts :=
  let t := s.selIx p .task
  if s.isSafety t && !s.safetyEdit then refuse p off 1 else if s.following then refuse p off 3 else l t

/-- SCH_TASKCFG: PERIOD and KIND for the next START; PRIO, SPEC and OUTMODE for the next release, PRIO and SPEC judged (R116, R316). -/
def attTaskcfg (p : Path) (v t : Nat) : Attempts :=
  let f (x : Fld) := bits v x.lo x.w
  [fun s => ((s.putStart SCH_TASKCFG_PERIOD (f SCH_TASKCFG_PERIOD) t).putStart SCH_TASKCFG_KIND (f SCH_TASKCFG_KIND) t).putRelease SCH_TASKCFG_OUTMODE
      (f SCH_TASKCFG_OUTMODE) t,
   fun s => let u := s.putRelease SCH_TASKCFG_PRIO (f SCH_TASKCFG_PRIO) t
      if u.orderBad t then s.ignored p 0x30020 5 else u,
   fun s => if f SCH_TASKCFG_SPEC = 1 && !s.specAllowed t then s.ignored p 0x30020 5 else s.putRelease SCH_TASKCFG_SPEC (f SCH_TASKCFG_SPEC) t]

/-- SCH_TASKPHASE: for the next START; QUARTER judged by R316. -/
def attTaskphase (p : Path) (v t : Nat) : Attempts :=
  let f (x : Fld) := bits v x.lo x.w
  [fun s => (s.putStart SCH_TASKPHASE_PHASE (f SCH_TASKPHASE_PHASE) t).putStart SCH_TASKPHASE_LANES (f SCH_TASKPHASE_LANES) t,
   fun s => let u := s.putStart SCH_TASKPHASE_QUARTER (f SCH_TASKPHASE_QUARTER) t
      if u.orderBad t then s.ignored p 0x30024 5 else u]

/-- SCH_TASKSTAT: WDOG is cleared, in both modules of a pair at one base tick. -/
def attTaskstat (v t : Nat) : Attempts :=
  if bitOf v 5 then [fun s => if s.hasFollower then s.putTick SCH_TASKSTAT_WDOG 0 t else s.setF SCH_TASKSTAT_WDOG 0 t] else []

/-- A command code written to DISP. -/
def attDisp (p : Path) (t n : Nat) : Attempts :=
  match n with
  | 0 => []
  | 1 => [fun s => s.dispWrite p true]
  | 2 => [fun s => s.dispWrite p false]
  | _ => [fun s => (s.ignored p 0x30034 5).bump SCH_XCPCNT_DISPREF t]

/-- The SCH block. -/
def State.attSch (s : State) (p : Path) (off v : Nat) (pkg : Pkg) : Option Attempts :=
  match off with
  | 0x30000 => own (also
      (if bits v 4 2 ≥ 2 then refuse p off 5 else [fun s => s.setF SCH_MODE_START (bits v 4 2)])
      (match bits v 2 2 with
       | 0 => []
       | 1 => [fun s => s.modeRequest p 1]
       | 2 => [fun s => s.modeRequest p 2]
       | _ => [fun s => s.modeRequest p 0]))
  | 0x30004 => own (
      let t := bits v 0 8
      match bits v 8 3 with
      | 0 => []
      | 1 => [fun s => s.taskCmd p t .start]
      | 2 => [fun s => s.taskCmd p t .stop]
      | 3 => [fun s => s.taskCmd p t .activate]
      | 4 => [fun s => s.taskCmd p t .cancel]
      | _ => refuse p off 5)
  | 0x30020 => own (s.taskGate p off (attTaskcfg p v))
  | 0x30024 => own (s.taskGate p off (attTaskphase p v))
  | 0x30028 => own (s.taskGate p off (attTaskstat v))
  | 0x30034 => own (also
      (s.taskGate p off (fun t => [fun s => s.putRelease SCH_TASKXCP_POLICY (bits v 13 1) t])) (attDisp p (s.selIx p .task) (bits v 14 2)))
  | 0x30040 => own (also
      [fun s => s.putFields p off v]
      (match bits v 0 2 with
       | 0 => []
       | 1 => [fun s => s.cmdOlcArm p]
       | 2 => [fun s => s.cmdOlcAbandon p]
       | _ => refuse p off 5))
  | 0x30060 => own (
      match bits v 0 3 with
      | 0 => []
      | 1 => [fun s => s.cmdCfgOpen p]
      | 2 => [fun s => s.cmdCfgChunk p]
      | 3 => [fun s => s.cmdCfgClose p pkg]
      | 4 => [fun s => s.cmdCfgLoad p]
      | _ => [fun s => s.cfgIgnored p 5])
  | _ => none

/-- The blocks PWR, TIM, XNG, SPC, SQR and ACU. -/
def State.attFabric (s : State) (p : Path) (off v : Nat) : Option Attempts :=
  let w : W32 := BitVec.ofNat 32 v
  match off with
  | 0x100 => own (if s.safetyEdit then [fun s => s.putFields p off v] else refuse p off 1)
  | 0x10030 => own (
      match bits v 0 2 with
      | 0 => []
      | 1 => [fun s => s.cmdKerbstop p]
      | _ => refuse p off 5)
  | 0x20000 => own (also
      [fun s => (s.putFields p off v (fun f => f ≠ TIM_CTL_DOMPREF)).putTick TIM_CTL_DOMPREF (bits v 0 1)]
      (if bitOf v 2 then [fun s => s.cmdTimSwitch p] else []))
  | 0x20034 => own (also
      (also [fun s => s.putFields p off v] (if bitOf v 0 then [fun s => s.cmdPulseArm p] else []))
      (if bitOf v 1 then [fun s => s.cmdPulseStop p] else []))
  | 0x20040 => own (
      [fun s => s.putFields p off v (fun f => f ≠ TIM_CAPCFG_TAIL), fun s => s.tailWrite p off .timTail 0 TIM_CAPCFG_TAIL (bits v 16 16)])
  | 0x40000 => own (
      [fun s => s.putFields p off v (fun f => f ≠ XNG_CTL_INJIVL && f ≠ XNG_CTL_RETN),
       fun s => if s.anySafety && !s.safetyEdit then s.ignored p off 1 else s.putFields p off v (fun f => f = XNG_CTL_INJIVL || f = XNG_CTL_RETN)])
  | 0x40030 => own (
      let n : BitVec 7 := BitVec.ofNat 7 (bits v 0 7)
      match bits v 7 3 with
      | 0 => []
      | 1 => [fun s => s.cmdXngTest p n]
      | 2 => [fun s => s.cmdXngRetire p n]
      | _ => refuse p off 5)
  | 0x50000 => own (
      if s.following then refuse p off 3
      else
        let pool := storedAs SPC_CTL_POOLGIB (bits v 8 6)
        [fun s => (s.putTick SPC_CTL_ENABLE (bits v 0 1)).putTick SPC_CTL_SAGMIN (storedAs SPC_CTL_SAGMIN (bits v 1 3)),
         fun s => if s.squareFits pool (s.asWritten SQR_RINGCFG_GIB) (s.asWritten ARC_NEARCFG_GIB) then s.putTick SPC_CTL_POOLGIB pool
           else s.ignored p off 5])
  | 0x50020 => own (
      s.taskGate p off (fun t => [fun s => [SPC_TASKCFG_SPECLEAD, SPC_TASKCFG_MINHIT, SPC_TASKCFG_CONFMODE, SPC_TASKCFG_BACKOFF].foldl
        (fun s f => s.putRelease f (storedAs f (bits v f.lo f.w)) t) s]))
  | 0x60010 => own (
      [fun s => if s.squareFits (s.asWritten SPC_CTL_POOLGIB) (storedAs SQR_RINGCFG_GIB (bits v 0 8)) (s.asWritten ARC_NEARCFG_GIB) then s.putFields p off v
        else s.ignored p off 5])
  | 0x60038 => own (if s.following then refuse p off 3 else if bitOf v 0 then [fun s => s.cmdTtcGo p (bitOf v 1)] else [fun s => s.putFields p off v])
  | 0x60054 => own (
      if bitOf v 0 then [fun s => s.cmdTagWrite p (bitOf v 1) (bitOf v 2)] else if s.following then refuse p off 3 else [fun s => s.putFields p off v])
  | 0x70000 => own (if bitOf v 0 then [fun s => s.cmdAcuBarrier p] else [])
  | 0x70018 => own (acuBound s p off v)
  | 0x7001C => own (acuBound s p off v)
  | 0x70020 => own (acuBound s p off v)
  | 0x70024 => own (acuBound s p off v)
  | 0x70028 => own [fun s => s.cmdAcuRattrWrite p w]
  | _ => none
where
  /-- A bound of a region: it waits for the barrier, and travels (R187, R188). -/
  acuBound (s : State) (p : Path) (off v : Nat) : Attempts :=
    let m := s.getF ACU_MSEL_SEL p.code
    if s.following then refuse p off 3
    else if s.acuLocked m then refuse p off 1
    else [fun s => ((fieldsAt off).filter (fun f => f.acc = .rw)).foldl (fun s f => s.acuPut f (bits v f.lo f.w) (s.selIx p .acu)) s]

/-- The blocks IMV, PAR, PNE, SFY, DIO, AIO, ADC, CAN, ARC and SEC. -/
def State.attIo (s : State) (p : Path) (off v : Nat) : Option Attempts :=
  let w : W32 := BitVec.ofNat 32 v
  match off with
  | 0x80028 => own (
      if s.selIx p .imv < 60 then [fun s => s.imvIgnored p 6]
      else if bitOf v 0 || bitOf v 1 then
        also (if bitOf v 0 then [fun s => s.cmdImvStart p w] else []) (if bitOf v 1 then [fun s => s.cmdImvHalt p] else [])
      else [fun s => s.putFields p off v])
  | 0x90014 => own (
      match bits v 0 3 with
      | 0 => []
      | n => if n ≤ 5 then [fun s => s.parCmd p n] else refuse p off 5)
  | 0xB0014 => own [fun s => s.cmdPnePortcfgWrite p w]
  | 0xC000C => own [fun s => s.cmdSfyValackWrite p w]
  | 0xC0030 => own (if s.safetyEdit then [fun s => s.putFields p off v] else refuse p off 1)
  | 0xD0014 => own (if s.chanSafe 0 (s.selIx p .dio) && !s.safetyEdit then refuse p off 1 else [fun s => s.putFields p off v])
  | 0xD0024 => own [fun s => s.tailWrite p off .dioTail 0 DIO_EDGETAIL_TAIL (bits v 0 16)]
  | 0xE0014 => own (
      let n := s.selIx p .aio
      let multi := if n < 4 then 0 else if bitOf v 4 then 1 else bits v 5 1
      if s.chanSafe 1 n && !s.safetyEdit then refuse p off 1
      else [fun s => (s.putFields p off v (fun f => f ≠ AIO_AICFG_MULTIDROP)).putField p AIO_AICFG_MULTIDROP multi])
  | 0xE001C => own (if s.chanSafe 2 (s.selIx p .aio - 16) && !s.safetyEdit then refuse p off 1 else [fun s => s.putFields p off v])
  | 0xE0020 => own (if bitOf v 0 then [fun s => s.cmdRbfailClear p] else [])
  | 0xF0018 => own (
      if bitOf v 9 then [fun s => s.cmdAdcUrgentGo p (BitVec.ofNat 6 (bits v 0 6)) (BitVec.ofNat 3 (bits v 6 3))] else [fun s => s.putFields p off v])
  | 0x100018 => own [fun s => s.tailWrite p off .canRxTail (s.selIx p .can) CAN_RXTAIL_TAIL (bits v 0 16)]
  | 0x10001C => own (
      match bits v 0 2 with
      | 0 => []
      | 1 => [fun s => s.cmdCanRecover p]
      | 2 => [fun s => s.cmdCanFlush p]
      | _ => refuse p off 5)
  | 0x110008 => own (
      [fun s => if s.squareFits (s.asWritten SPC_CTL_POOLGIB) (s.asWritten SQR_RINGCFG_GIB) (storedAs ARC_NEARCFG_GIB (bits v 0 8)) then s.putFields p off v
        else s.ignored p off 5])
  | 0x110034 => own [fun s => s.cursorStart p v]
  | 0x110038 => own (if bitOf v 3 then [fun s => s.cmdArcNext p] else [])
  | 0x110050 => own (
      let safe := bitOf v 2
      match bits v 0 2 with
      | 0 => []
      | 1 => [fun s => s.cmdArcClrevt p safe]
      | 2 => if safe && !s.safetyEdit then refuse p off 1 else [fun s => s.cmdArcClrcyc p]
      | _ => [fun s => s.cmdArcErase p])
  | 0x130004 => own [fun s => s.cmdSecPortcfg p w]
  | _ =>
    if 0x80014 ≤ off && off ≤ 0x80024 then own (if s.selIx p .imv < 60 then [fun s => s.imvIgnored p 6] else [fun s => s.putFields p off v])
    else none

/-- A bundle that does not verify: what CLOSE finds where the command names none. -/
def Bundle.none_ : Bundle := ⟨0, 0, 0, 0, 0, 0, 0, 0, false⟩

/-- The BOT block. -/
def attBot (p : Path) (off v : Nat) (env : WriteEnv) : Option Attempts :=
  match off with
  | 0x12000C => own (
      match bits v 0 3 with
      | 0 => []
      | 1 => [fun s => s.cmdBotRestart p env.boot]
      | 2 => [fun s => s.cmdBotConfirm p]
      | 3 => [fun s => s.cmdBotReject p env.boot]
      | 4 => [fun s => s.cmdBotAttest p]
      | _ => refuse p off 5)
  | 0x120020 => own (
      match bits v 0 3 with
      | 0 => []
      | 1 => [fun s => s.cmdUpdOpen p]
      | 2 => [fun s => s.cmdUpdChunk p]
      | 3 => [fun s => s.cmdUpdClose p (env.bundle.getD Bundle.none_)]
      | 4 => [fun s => s.cmdUpdArm p]
      | 5 => [fun s => s.cmdUpdDisarm p]
      | _ => [fun s => s.updIgnored p 5])
  | _ => none

/-- The attempts of a write to a defined register: by its own rules, else its W1C bits and its writable fields. -/
def State.attsOf (s : State) (p : Path) (off v : Nat) (env : WriteEnv) : Attempts :=
  match s.attSch p off v (env.pkg.getD Pkg.empty) with
  | some l => l
  | none => match s.attFabric p off v with
    | some l => l
    | none => match s.attIo p off v with
      | some l => l
      | none => match attBot p off v env with
        | some l => l
        | none => [fun s => (s.putFields p off v).clearBits p off v]

/-! ### Writes of an access path (R487, R489, R491 to R496) -/

/-- Store a word in a window of bytes. -/
def winPut (t : Tab Byte) (o v : Nat) : Tab Byte := memWrL t o (natLe 4 v)

/-- One word written by an access path. Where no register can be written, or the selected instance does not exist, it is ignored; a register of
read-to-clear fields takes a write without effect (R489). -/
def State.writeWord (s : State) (p : Path) (off v : Nat) (env : WriteEnv) : State :=
  let fs := fieldsAt off
  if off ≥ 0x140000 then s.ignored p off 6
  else if 0x38000 ≤ off && off < 0x40000 then s.written p off (fun s => { s with olc := { s.olc with win := winPut s.olc.win (off - 0x38000) v } })
  else if 0x128000 ≤ off && off < 0x130000 then
    s.written p off (fun s => if s.flag BOT_UPDSTAT_OPEN then s.modKerb (fun k => { k with upWin := winPut k.upWin (off - 0x128000) v }) else s.ignored p off 4)
  else if !s.blkReady (off / 0x10000) then s.ignored p off 4
  else if fs.all (fun f => f.acc = .ro) then s.ignored p off 6
  else if fs.all (fun f => f.acc = .ro || f.acc = .rc) then s
  else if !s.instOk p off then s.ignored p off 6
  else s.attempts p off (s.attsOf p off v env)

/-- Words in ascending offset (R491); a restart ends the request. -/
def State.writeWords (s : State) (p : Path) (off : Nat) (env : WriteEnv) : List Nat → State
  | [] => s
  | v :: vs =>
    let t := s.writeWord p off v env
    if t.kerb.phase = .boot && s.kerb.phase ≠ .boot then t else t.writeWords p (off + 4) env vs

/-- REGISTER_WRITE (R489, R493). -/
def execRegisterWrite (path : Path) (off : BitVec 24) (v : W32) (env : WriteEnv) (s : State) : Host.Outcome State Fault Refusal :=
  done (s.writeWord path (off.toNat / 4 * 4) v.toNat env)

/-- The per-task registers of the SCH block (R57). -/
def taskReg (off : Nat) : Bool := 0x30020 ≤ off && off < 0x30040

/-- SCH_TASK_REGISTER_WRITE (R57): the per-task registers of the SCH block only. -/
def execSchTaskRegisterWrite (path : Path) (off : BitVec 24) (v : W32) (s : State) : Host.Outcome State Fault Refusal :=
  done (if taskReg off.toNat then s.writeWord path (off.toNat / 4 * 4) v.toNat ⟨none, none, bootPlain⟩ else s)

/-! ### The management ports (R484 to R486) -/

/-- Does a management port answer: from the end of step 2 of a restart on, in state K and in RECOVERY (R496)? -/
def State.mgmtUp (s : State) : Bool := s.blkReady 0x12

/-- The right that a client certificate has, 0 READ and 1 SETUP, if the port accepts it (R485): while no configuration is loaded, or in RECOVERY, any
certificate gives SETUP under UPDATE-ENABLE. -/
def State.certRight (s : State) (cert : Nat) : Option Nat :=
  if !tabHas s.pkgs s.actStore || s.kerb.phase = .recovery then (if s.updateEnable then some 1 else none)
  else (s.cfg.certs.find? (fun c => c.1 = cert)).map (fun c => b2n c.2)

/-- MGMT_CONNECT (R484, R485): the handshake is accepted and an access path opens, or it is refused. -/
def execMgmtConnect (c : Fin 8) (cert : Nat) (s : State) : Host.Outcome State Fault Refusal :=
  done (
    if !s.mgmtUp || tabHas s.setup.conns c.val then s
    else match s.certRight cert with
      | none => s.emit .mgmt 0 [c.val, 0]
      | some r =>
        let s := s.closePath (.mgmt c)
        State.emit { s with setup := { s.setup with conns := tabSet s.setup.conns c.val r } } .mgmt 0 [c.val, 1])

/-- The reply header of Table 19-2 with the data after it. -/
def State.mgmtReply (s : State) (c : Fin 8) (op count tag off status : Nat) (data : List Byte) : State :=
  s.emit .mgmt op [c.val, status]
    (natLe 1 1 ++ natLe 1 op ++ natLe 2 count ++ natLe 4 tag ++ natLe 4 off ++ natLe 2 status ++ natLe 2 0 ++ data)

/-- BADREQ (R486): a misaligned offset, a count out of range, or a range past the end of the window. -/
def badReq (off count : Nat) : Bool := off % 4 ≠ 0 || count = 0 || decide (count > 256) || decide (off + 4 * count > 0x1000000)

/-- MGMT_READ (R486, R496): NOTREADY if the range touches a block that does not answer. -/
def execMgmtRead (c : Fin 8) (tag off count : Nat) (s : State) : Host.Outcome State Fault Refusal :=
  done (
    if !tabHas s.setup.conns c.val then s
    else if badReq off count then s.mgmtReply c 1 count tag off 3 []
    else if (List.range count).any (fun i => off + 4 * i < 0x140000 && !s.blkReady ((off + 4 * i) / 0x10000)) then s.mgmtReply c 1 count tag off 1 []
    else
      let r := s.readWords (.mgmt c) off count
      r.2.mgmtReply c 1 count tag off 0 (r.1.flatMap (natLe 4)))

/-- MGMT_WRITE (R486): needs the SETUP right; a restart that it starts ends the connection without a reply. -/
def execMgmtWrite (c : Fin 8) (tag off : Nat) (data : List W32) (env : WriteEnv) (s : State) : Host.Outcome State Fault Refusal :=
  done (
    match tabGet? s.setup.conns c.val with
    | none => s
    | some r =>
      if badReq off data.length then s.mgmtReply c 2 data.length tag off 3 []
      else if r = 0 then s.mgmtReply c 2 data.length tag off 2 []
      else
        let t := s.writeWords (.mgmt c) off env (data.map BitVec.toNat)
        if t.kerb.phase = .boot && s.kerb.phase ≠ .boot then t else t.mgmtReply c 2 data.length tag off 0 [])

/-- MGMT_ATTEST (R442, R486): the evidence for a nonce of 32 bytes; none is produced in state K. -/
def execMgmtAttest (c : Fin 8) (tag : Nat) (nonce : List Byte) (s : State) : Host.Outcome State Fault Refusal :=
  done (
    if !tabHas s.setup.conns c.val then s
    else if nonce.length ≠ 32 then s.mgmtReply c 3 0 tag 0 3 []
    else if s.kerb.phase = .off then s.mgmtReply c 3 0 tag 0 1 []
    else s.mgmtReply c 3 0 tag 0 0 (s.evidence nonce))

/-- MGMT_CONNECTION_CLOSE (R484). -/
def execMgmtConnectionClose (c : Fin 8) (s : State) : Host.Outcome State Fault Refusal :=
  done (
    if !tabHas s.setup.conns c.val then s
    else State.closePath { s with setup := { s.setup with conns := tabDel s.setup.conns c.val } } (.mgmt c))

/-! ### The management queue (R276) -/

/-- The words and the offset of a descriptor, or the offset of its first field at fault. -/
def setupForm (d : HostDesc) : Except Nat (Nat × Nat) :=
  let n := dOpt d % 512
  let off := dArg d % 2 ^ 24
  if n = 0 || n > 256 then .error 2
  else if off % 4 ≠ 0 then .error 0x30
  else .ok (n, off)

/-- A word of the queue's range; a range that passes the end of the window wraps nowhere: words past it read 0 (log entry 26). -/
def State.queueRead (s : State) (p : Path) (n off : Nat) : List Nat × State :=
  let k := min n ((0x1000000 - off) / 4)
  let r := s.readWords p off k
  (r.1 ++ List.replicate (n - k) 0, r.2)

/-- SETUP_READ (R276). -/
def execSetupRead (sess : SessNo) (qp : QpNo) (s : State) : Host.Outcome State Fault Refusal :=
  done (s.startDesc sess qp (fun d => dOp d = 0x11) (fun _ d s =>
    match setupForm d with
    | .error f => s.complete sess.val qp.val d 0x0100 0 f
    | .ok (n, off) =>
      if dLen2 d < 4 * n then s.complete sess.val qp.val d 0x0100 0 0x28
      else
        let r := s.queueRead (.queue sess) n off
        r.2.complete sess.val qp.val d 0 0 0 0 (r.1.flatMap (natLe 4))))

/-- SETUP_WRITE (R276): completes OK whether or not a write was ignored and counted. -/
def execSetupWrite (sess : SessNo) (qp : QpNo) (env : WriteEnv) (s : State) : Host.Outcome State Fault Refusal :=
  done (s.startDesc sess qp (fun d => dOp d = 0x12) (fun _ d s =>
    match setupForm d with
    | .error f => s.complete sess.val qp.val d 0x0100 0 f
    | .ok (n, off) =>
      if dLen1 d < 4 * n then s.complete sess.val qp.val d 0x0100 0 0x18
      else
        let l := (List.range n).map (fun i => leNat ((d.data.drop (4 * i)).take 4))
        (s.writeWords (.queue sess) off env l).complete sess.val qp.val d 0))

end Sys2Proof.Machine
end

