-- ==== Sys2Proof/Machine/Tick.lean ====
section
/-! DEFINITION. The base tick (02, R24, R43; 08, R304; 12, R345; 18, R470): what is judged, comes into force and is carried out as one begins. -/
namespace Sys2Proof.Machine

/-- A second of the local clock begins: what the status display shows in it (R52, R345); the signature shows alone for its 10 s. -/
def State.displayTick (s : State) : State :=
  let n := s.now / 1000000000
  if (s.now - 62500) / 1000000000 = n || s.now < s.io.sigUntil then s
  else if n % 4 = 0 && !s.sched.forces.isEmpty then s.display [0x46, 0x52, 0x43, 0x44]
  else if n % 4 = 1 && s.flag SFY_STAT_UNVAL then s.display [0x55, 0x56, 0x41, 0x4C]
  else if n % 4 = 2 && s.safetyEdit then s.display [0x53, 0x45, 0x44, 0x54]
  else s

/-- Register values written for the next base tick take effect; a change of POOLGIB invalidates every run (R140). -/
def State.settingsTick (s : State) : State :=
  let t := s.applyDue .baseTick
  if t.getF SPC_CTL_POOLGIB = s.getF SPC_CTL_POOLGIB then t else t.invalAll

/-- A change of the PTP domain that was announced for this tick (R304). -/
def State.domainTick (s : State) : State :=
  match s.plant.domAt with
  | some (k, d) => if s.tick < k then s else State.domSwitch { s with plant := { s.plant with domAt := none } } d
  | none => s

/-- Ring tails written by set-up: on the Lead, each is a commit of its own, and travels (R310). -/
def State.tailsTick (s : State) : State :=
  let l := s.sched.tails
  let s : State := { s with sched := { s.sched with tails := [] } }
  if !s.isLead then s
  else l.foldl (fun s e =>
    let s := s.share (.tail e.1 e.2)
    s.commitCore (CommitInfo.alone s 0xFF (ovlWrL [] e.1 (natLe 2 e.2))) []) s

/-- PAIR_CLOCK_COMPARE (R304): a Follower more than 1 µs from its Lead disciplines its clock until they agree within 0.5 µs. -/
def State.clockTick (s : State) (diff : Int) : State :=
  if !s.following then s.setF TIM_STAT_PAIRSYNC 0
  else if diff.natAbs > 1000 then s.setF TIM_STAT_PAIRSYNC 1
  else if diff.natAbs ≤ 500 then s.setF TIM_STAT_PAIRSYNC 0
  else s

/-- WINLEFT: minutes of the probation window left. -/
def State.windowTick (s : State) : State :=
  if s.flag BOT_STAT_PROBATION then s.setF BOT_STAT_WINLEFT ((s.kerb.winEnd - s.now + 59999999999) / 60000000000) else s

/-- What a base tick does in a running module: the requests of the last tick are judged against it (R500), and the new tick begins. -/
def State.runTick (s : State) (diff : Int) : State :=
  let s := s.judgeModes.baseNow
  let s : State := { s with tick := s.tick + 1, now := (s.tick + 1) * 62500, sched := { s.sched with caps := [] } }
  let s := s.settingsTick.domainTick.tailsTick
  let s := s.applyDisps.squareTick.evalBatch
  let s := s.initStep.lanesTick.hbTick
  let s := s.powerTick.parTick.tryHandover
  let s := (s.joinTick (decide (diff.natAbs ≤ 1000))).resyncTick.backfillTick.ackLost.olcTick.forcesDue
  let s := (s.clockTick diff).rejectTick.windowTick
  s.settleAll.specFollow.displayTick.openRecords

/-- BASE_TICK (R24): the base tick N + 1 begins on the local clock. `seen`: the clock difference to the partner, and what has befallen the DRAM. A restart passes through one step of Table 17-1 (log entry 25); in state K, in RECOVERY and in a restart that has stopped, only
time passes. -/
def execBaseTick (seen : TickSeen) (s : State) : Host.Outcome State Fault Refusal :=
  done (
    match s.kerb.phase with
    | .run => (seen.hw.foldl State.strike s).runTick seen.pairDiff
    | .boot => State.bootTick { s with tick := s.tick + 1, now := (s.tick + 1) * 62500 }
    | _ => { s with tick := s.tick + 1, now := (s.tick + 1) * 62500 })

end Sys2Proof.Machine
end

