-- ==== Sys2Proof/Machine/Dispatch.lean ====
section
/-! DEFINITION. One arm per command: its meaning, or its rejection by name. -/
namespace Sys2Proof.Machine

/-- The effect of one command on everything but the queue of waiting commands. -/
def exec (i : Instr) (s : State) : Host.Outcome State Fault Refusal :=
  match i with
  | .baseTick seen => Sys2Proof.Machine.execBaseTick seen s
  | .heartbeat src => Sys2Proof.Machine.execHeartbeat src s
  | .wedgeDecision src ticks => Sys2Proof.Machine.execWedgeDecision src ticks s
  | .lastWordsCommit fail => Sys2Proof.Machine.execLastWordsCommit fail s
  | .mainsLossDecision m => Sys2Proof.Machine.execMainsLossDecision m s
  | .temperatureCritical m => Sys2Proof.Machine.execTemperatureCritical m s
  | .kerbstop path => Sys2Proof.Machine.execKerbstop path s
  | .cyclicRelease task => Sys2Proof.Machine.execCyclicRelease task s
  | .taskDispatch q => Sys2Proof.Machine.execTaskDispatch q s
  | .commit task seen => Sys2Proof.Machine.execCommit task seen s
  | .cycleLate task => Sys2Proof.Machine.execCycleLate task s
  | .deferredRelease task => Sys2Proof.Machine.execDeferredRelease task s
  | .furtherGridTickOverrun task => Sys2Proof.Machine.execFurtherGridTickOverrun task s
  | .eventActivation task stamp => Sys2Proof.Machine.execEventActivation task stamp s
  | .eventRelease task => Sys2Proof.Machine.execEventRelease task s
  | .taskStart path task => Sys2Proof.Machine.execTaskStart path task s
  | .taskStop path task => Sys2Proof.Machine.execTaskStop path task s
  | .taskActivate path task => Sys2Proof.Machine.execTaskActivate path task s
  | .taskCancel path task => Sys2Proof.Machine.execTaskCancel path task s
  | .modeRequestRun path => Sys2Proof.Machine.execModeRequestRun path s
  | .modeRequestHold path => Sys2Proof.Machine.execModeRequestHold path s
  | .modeRequestStop path => Sys2Proof.Machine.execModeRequestStop path s
  | .modeChange => Sys2Proof.Machine.execModeChange s
  | .initTaskTimeout task => Sys2Proof.Machine.execInitTaskTimeout task s
  | .schTaskRegisterWrite path off v => Sys2Proof.Machine.execSchTaskRegisterWrite path off v s
  | .logLd k e => Sys2Proof.Machine.execLogLd k e s
  | .logAnd k e => Sys2Proof.Machine.execLogAnd k e s
  | .logOr k e => Sys2Proof.Machine.execLogOr k e s
  | .logXor k e => Sys2Proof.Machine.execLogXor k e s
  | .logSt k e => Sys2Proof.Machine.execLogSt k e s
  | .logS k e => Sys2Proof.Machine.execLogS k e s
  | .logR k e => Sys2Proof.Machine.execLogR k e s
  | .logpAnd k e => Sys2Proof.Machine.execLogpAnd k e s
  | .logpOr k e => Sys2Proof.Machine.execLogpOr k e s
  | .logpXor k e => Sys2Proof.Machine.execLogpXor k e s
  | .ldw k e => Sys2Proof.Machine.execLdw k e s
  | .stw k e => Sys2Proof.Machine.execStw k e s
  | .ldwb k e => Sys2Proof.Machine.execLdwb k e s
  | .stwb k e => Sys2Proof.Machine.execStwb k e s
  | .lea k e => Sys2Proof.Machine.execLea k e s
  | .addw k e => Sys2Proof.Machine.execAddw k e s
  | .subw k e => Sys2Proof.Machine.execSubw k e s
  | .mulw k e => Sys2Proof.Machine.execMulw k e s
  | .divw k e => Sys2Proof.Machine.execDivw k e s
  | .andw k e => Sys2Proof.Machine.execAndw k e s
  | .orw k e => Sys2Proof.Machine.execOrw k e s
  | .xorw k e => Sys2Proof.Machine.execXorw k e s
  | .minw k e => Sys2Proof.Machine.execMinw k e s
  | .maxw k e => Sys2Proof.Machine.execMaxw k e s
  | .limit k e => Sys2Proof.Machine.execLimit k e s
  | .shl k e => Sys2Proof.Machine.execShl k e s
  | .shr k e => Sys2Proof.Machine.execShr k e s
  | .rol k e => Sys2Proof.Machine.execRol k e s
  | .ror k e => Sys2Proof.Machine.execRor k e s
  | .ceq k e => Sys2Proof.Machine.execCeq k e s
  | .cne k e => Sys2Proof.Machine.execCne k e s
  | .cgt k e => Sys2Proof.Machine.execCgt k e s
  | .cge k e => Sys2Proof.Machine.execCge k e s
  | .clt k e => Sys2Proof.Machine.execClt k e s
  | .cle k e => Sys2Proof.Machine.execCle k e s
  | .selw k e => Sys2Proof.Machine.execSelw k e s
  | .lstat k e => Sys2Proof.Machine.execLstat k e s
  | .tbl k e => Sys2Proof.Machine.execTbl k e s
  | .lin k e => Sys2Proof.Machine.execLin k e s
  | .movb k e => Sys2Proof.Machine.execMovb k e s
  | .ton k e => Sys2Proof.Machine.execTon k e s
  | .tof k e => Sys2Proof.Machine.execTof k e s
  | .tp k e => Sys2Proof.Machine.execTp k e s
  | .ctu k e => Sys2Proof.Machine.execCtu k e s
  | .ctd k e => Sys2Proof.Machine.execCtd k e s
  | .ctud k e => Sys2Proof.Machine.execCtud k e s
  | .crst k e => Sys2Proof.Machine.execCrst k e s
  | .cload k e => Sys2Proof.Machine.execCload k e s
  | .edgp k e => Sys2Proof.Machine.execEdgp k e s
  | .edgn k e => Sys2Proof.Machine.execEdgn k e s
  | .ldlive k e => Sys2Proof.Machine.execLdlive k e s
  | .ldliveh k e => Sys2Proof.Machine.execLdliveh k e s
  | .jmp k e => Sys2Proof.Machine.execJmp k e s
  | .call k e => Sys2Proof.Machine.execCall k e s
  | .loop k e => Sys2Proof.Machine.execLoop k e s
  | .loopw k e => Sys2Proof.Machine.execLoopw k e s
  | .nop k e => Sys2Proof.Machine.execNop k e s
  | .endS k e => Sys2Proof.Machine.execEndS k e s
  | .popl k e => Sys2Proof.Machine.execPopl k e s
  | .notl k e => Sys2Proof.Machine.execNotl k e s
  | .setl k e => Sys2Proof.Machine.execSetl k e s
  | .clrl k e => Sys2Proof.Machine.execClrl k e s
  | .ldbit k e => Sys2Proof.Machine.execLdbit k e s
  | .stbit k e => Sys2Proof.Machine.execStbit k e s
  | .xab k e => Sys2Proof.Machine.execXab k e s
  | .movab k e => Sys2Proof.Machine.execMovab k e s
  | .movba k e => Sys2Proof.Machine.execMovba k e s
  | .notw k e => Sys2Proof.Machine.execNotw k e s
  | .negw k e => Sys2Proof.Machine.execNegw k e s
  | .absw k e => Sys2Proof.Machine.execAbsw k e s
  | .cvt k e => Sys2Proof.Machine.execCvt k e s
  | .ldfl k e => Sys2Proof.Machine.execLdfl k e s
  | .clrf k e => Sys2Proof.Machine.execClrf k e s
  | .timew k e => Sys2Proof.Machine.execTimew k e s
  | .modeset k e => Sys2Proof.Machine.execModeset k e s
  | .setev k e => Sys2Proof.Machine.execSetev k e s
  | .diag k e => Sys2Proof.Machine.execDiag k e s
  | .sync k e => Sys2Proof.Machine.execSync k e s
  | .syncRelease ctx task => Sys2Proof.Machine.execSyncRelease ctx task s
  | .ret k e => Sys2Proof.Machine.execRet k e s
  | .trap k e => Sys2Proof.Machine.execTrap k e s
  | .sqrt k e => Sys2Proof.Machine.execSqrt k e s
  | .errorTaskDelivery => Sys2Proof.Machine.execErrorTaskDelivery s
  | .xcpDispResume path => Sys2Proof.Machine.execXcpDispResume path s
  | .xcpDispAbort path => Sys2Proof.Machine.execXcpDispAbort path s
  | .dispositionDeadline task => Sys2Proof.Machine.execDispositionDeadline task s
  | .specRunStart task => Sys2Proof.Machine.execSpecRunStart task s
  | .specUndone task => Sys2Proof.Machine.execSpecUndone task s
  | .specDecision task arb => Sys2Proof.Machine.execSpecDecision task arb s
  | .specSuspendEnd task => Sys2Proof.Machine.execSpecSuspendEnd task s
  | .laneSelfTestComplete lane pass => Sys2Proof.Machine.execLaneSelfTestComplete lane pass s
  | .selfTestStep ended pass next swap => Sys2Proof.Machine.execSelfTestStep ended pass next swap s
  | .mismatchInjection lane detected => Sys2Proof.Machine.execMismatchInjection lane detected s
  | .xngTest path lane => Sys2Proof.Machine.execXngTest path lane s
  | .xngRetire path lane => Sys2Proof.Machine.execXngRetire path lane s
  | .patrolScrub unit hw page => Sys2Proof.Machine.execPatrolScrub unit hw page s
  | .rowSparingComplete stack left => Sys2Proof.Machine.execRowSparingComplete stack left s
  | .tagWalk lane task tag => Sys2Proof.Machine.execTagWalk lane task tag s
  | .tagWrite path inv dir => Sys2Proof.Machine.execTagWrite path inv dir s
  | .ttcGo path all => Sys2Proof.Machine.execTtcGo path all s
  | .ttcInvalidationDone => Sys2Proof.Machine.execTtcInvalidationDone s
  | .acuBarrier path => Sys2Proof.Machine.execAcuBarrier path s
  | .acuBarrierDone => Sys2Proof.Machine.execAcuBarrierDone s
  | .acuRattrWrite path v => Sys2Proof.Machine.execAcuRattrWrite path v s
  | .helloSend => Sys2Proof.Machine.execHelloSend s
  | .helloReceive h => Sys2Proof.Machine.execHelloReceive h s
  | .pairStartTimeout => Sys2Proof.Machine.execPairStartTimeout s
  | .cyclePacketApply p => Sys2Proof.Machine.execCyclePacketApply p s
  | .tickSend g => Sys2Proof.Machine.execTickSend g s
  | .tickPacketReceive g epoch setup => Sys2Proof.Machine.execTickPacketReceive g epoch setup s
  | .ack csn => Sys2Proof.Machine.execAck csn s
  | .seatsampleSend => Sys2Proof.Machine.execSeatsampleSend s
  | .seatsampleReceive vals rings pdus => Sys2Proof.Machine.execSeatsampleReceive vals rings pdus s
  | .seatOutputTimeout => Sys2Proof.Machine.execSeatOutputTimeout s
  | .auditComplete task => Sys2Proof.Machine.execAuditComplete task s
  | .auditTimeout task => Sys2Proof.Machine.execAuditTimeout task s
  | .parResync path => Sys2Proof.Machine.execParResync path s
  | .resyncComplete => Sys2Proof.Machine.execResyncComplete s
  | .packetMissing g => Sys2Proof.Machine.execPacketMissing g s
  | .leadLostDeclared => Sys2Proof.Machine.execLeadLostDeclared s
  | .ackMissing g => Sys2Proof.Machine.execAckMissing g s
  | .fenceRecognised => Sys2Proof.Machine.execFenceRecognised s
  | .fenceLineFault => Sys2Proof.Machine.execFenceLineFault s
  | .seatsenseRise => Sys2Proof.Machine.execSeatsenseRise s
  | .beacon g => Sys2Proof.Machine.execBeacon g s
  | .wreq => Sys2Proof.Machine.execWreq s
  | .wgrant link frame => Sys2Proof.Machine.execWgrant link frame s
  | .wrefuse link frame => Sys2Proof.Machine.execWrefuse link frame s
  | .parSwitch path => Sys2Proof.Machine.execParSwitch path s
  | .switchTick => Sys2Proof.Machine.execSwitchTick s
  | .handover csn epoch => Sys2Proof.Machine.execHandover csn epoch s
  | .parRelease path => Sys2Proof.Machine.execParRelease path s
  | .parJoin path => Sys2Proof.Machine.execParJoin path s
  | .parClearcfg path => Sys2Proof.Machine.execParClearcfg path s
  | .joinClockTimeout => Sys2Proof.Machine.execJoinClockTimeout s
  | .bulk b => Sys2Proof.Machine.execBulk b s
  | .trackCaughtUp => Sys2Proof.Machine.execTrackCaughtUp s
  | .backfillRecord event r => Sys2Proof.Machine.execBackfillRecord event r s
  | .batchCommitAlone => Sys2Proof.Machine.execBatchCommitAlone s
  | .cutInstant op => Sys2Proof.Machine.execCutInstant op s
  | .cutdata link frame => Sys2Proof.Machine.execCutdata link frame s
  | .cutClose op => Sys2Proof.Machine.execCutClose op s
  | .stationModeMissed sta mode miss => Sys2Proof.Machine.execStationModeMissed sta mode miss s
  | .modeChangeResend sta => Sys2Proof.Machine.execModeChangeResend sta s
  | .modewaitExpiry sta => Sys2Proof.Machine.execModewaitExpiry sta s
  | .olcArm path => Sys2Proof.Machine.execOlcArm path s
  | .olcAbandon path => Sys2Proof.Machine.execOlcAbandon path s
  | .olcTransferComplete => Sys2Proof.Machine.execOlcTransferComplete s
  | .migrationPassComplete => Sys2Proof.Machine.execMigrationPassComplete s
  | .activationCommit => Sys2Proof.Machine.execActivationCommit s
  | .cfgOpen path => Sys2Proof.Machine.execCfgOpen path s
  | .cfgChunk path => Sys2Proof.Machine.execCfgChunk path s
  | .cfgClose path p => Sys2Proof.Machine.execCfgClose path p s
  | .cfgLoad path => Sys2Proof.Machine.execCfgLoad path s
  | .leaseExpiry => Sys2Proof.Machine.execLeaseExpiry s
  | .lockGrant => Sys2Proof.Machine.execLockGrant s
  | .coalescingWindowClose kind obj => Sys2Proof.Machine.execCoalescingWindowClose kind obj s
  | .connectionRequest link src req => Sys2Proof.Machine.execConnectionRequest link src req s
  | .sessionEnd sess idle => Sys2Proof.Machine.execSessionEnd sess idle s
  | .doorbell sess write off len word => Sys2Proof.Machine.execDoorbell sess write off len word s
  | .descriptorFetch sess qp ds => Sys2Proof.Machine.execDescriptorFetch sess qp ds s
  | .completionWrite sess seen => Sys2Proof.Machine.execCompletionWrite sess seen s
  | .hostNop sess qp => Sys2Proof.Machine.execHostNop sess qp s
  | .readAt sess qp => Sys2Proof.Machine.execReadAt sess qp s
  | .readAtRaw sess qp => Sys2Proof.Machine.execReadAtRaw sess qp s
  | .descriptorWaitTimeout sess qp reqid => Sys2Proof.Machine.execDescriptorWaitTimeout sess qp reqid s
  | .writeNext sess qp => Sys2Proof.Machine.execWriteNext sess qp s
  | .hostSubscribe sess qp => Sys2Proof.Machine.execHostSubscribe sess qp s
  | .hostCancel sess qp => Sys2Proof.Machine.execHostCancel sess qp s
  | .historyRead sess qp => Sys2Proof.Machine.execHistoryRead sess qp s
  | .historyReadDelta sess qp => Sys2Proof.Machine.execHistoryReadDelta sess qp s
  | .eventRead sess qp => Sys2Proof.Machine.execEventRead sess qp s
  | .hostCut sess qp => Sys2Proof.Machine.execHostCut sess qp s
  | .hostLock sess qp => Sys2Proof.Machine.execHostLock sess qp s
  | .unlockCommit sess qp => Sys2Proof.Machine.execUnlockCommit sess qp s
  | .unlockDiscard sess qp => Sys2Proof.Machine.execUnlockDiscard sess qp s
  | .hostForce sess qp => Sys2Proof.Machine.execHostForce sess qp s
  | .hostTime sess qp => Sys2Proof.Machine.execHostTime sess qp s
  | .attest sess qp => Sys2Proof.Machine.execAttest sess qp s
  | .qpCreate sess qp => Sys2Proof.Machine.execQpCreate sess qp s
  | .qpDestroy sess qp => Sys2Proof.Machine.execQpDestroy sess qp s
  | .sessionClose sess qp => Sys2Proof.Machine.execSessionClose sess qp s
  | .hostLatency sess qp => Sys2Proof.Machine.execHostLatency sess qp s
  | .setupRead sess qp => Sys2Proof.Machine.execSetupRead sess qp s
  | .setupWrite sess qp env => Sys2Proof.Machine.execSetupWrite sess qp env s
  | .transportRetryExhausted sess => Sys2Proof.Machine.execTransportRetryExhausted sess s
  | .sakChange port keyServer peers => Sys2Proof.Machine.execSakChange port keyServer peers s
  | .secPortcfgWrite path v => Sys2Proof.Machine.execSecPortcfgWrite path v s
  | .pnePortcfgWrite path v => Sys2Proof.Machine.execPnePortcfgWrite path v s
  | .stationInput link frame => Sys2Proof.Machine.execStationInput link frame s
  | .stationEvent link frame => Sys2Proof.Machine.execStationEvent link frame s
  | .confack link frame => Sys2Proof.Machine.execConfack link frame s
  | .configRetry sta => Sys2Proof.Machine.execConfigRetry sta s
  | .iwdtExpiry sta => Sys2Proof.Machine.execIwdtExpiry sta s
  | .peerFrame link frame => Sys2Proof.Machine.execPeerFrame link frame s
  | .peerWatchdogExpiry set => Sys2Proof.Machine.execPeerWatchdogExpiry set s
  | .holdOutputRepeat => Sys2Proof.Machine.execHoldOutputRepeat s
  | .ptpSync dom offset => Sys2Proof.Machine.execPtpSync dom offset s
  | .ptpDomainLost dom => Sys2Proof.Machine.execPtpDomainLost dom s
  | .domainSwitchBack => Sys2Proof.Machine.execDomainSwitchBack s
  | .domainSplit split => Sys2Proof.Machine.execDomainSplit split s
  | .timSwitch path => Sys2Proof.Machine.execTimSwitch path s
  | .pulseArm path => Sys2Proof.Machine.execPulseArm path s
  | .pulseStop path => Sys2Proof.Machine.execPulseStop path s
  | .tioCaptureEdge inp falling t => Sys2Proof.Machine.execTioCaptureEdge inp falling t s
  | .dioEdgetailWrite path v => Sys2Proof.Machine.execDioEdgetailWrite path v s
  | .timCapcfgTailWrite path v => Sys2Proof.Machine.execTimCapcfgTailWrite path v s
  | .canRxtailWrite path v => Sys2Proof.Machine.execCanRxtailWrite path v s
  | .fslPduReceive conn pdu => Sys2Proof.Machine.execFslPduReceive conn pdu s
  | .fslWatchdogExpiry conn => Sys2Proof.Machine.execFslWatchdogExpiry conn s
  | .sampleTick half smp vslim => Sys2Proof.Machine.execSampleTick half smp vslim s
  | .offPulseStart ch => Sys2Proof.Machine.execOffPulseStart ch s
  | .offPulseEnd ch => Sys2Proof.Machine.execOffPulseEnd ch s
  | .degmaxExpiry f => Sys2Proof.Machine.execDegmaxExpiry f s
  | .degradedRecovery f => Sys2Proof.Machine.execDegradedRecovery f s
  | .keySwitchSample safe upd => Sys2Proof.Machine.execKeySwitchSample safe upd s
  | .sfyValackWrite path v => Sys2Proof.Machine.execSfyValackWrite path v s
  | .fieldSupplyChange b present => Sys2Proof.Machine.execFieldSupplyChange b present s
  | .inputTest ch passed => Sys2Proof.Machine.execInputTest ch passed s
  | .outputOverload ch therm => Sys2Proof.Machine.execOutputOverload ch therm s
  | .adcEntryComplete code urg t => Sys2Proof.Machine.execAdcEntryComplete code urg t s
  | .urgentRequest ch codes t => Sys2Proof.Machine.execUrgentRequest ch codes t s
  | .adcUrgentGo path src ovs => Sys2Proof.Machine.execAdcUrgentGo path src ovs s
  | .adcSelfTestStep refOk linOk => Sys2Proof.Machine.execAdcSelfTestStep refOk linOk s
  | .loopSupplyOff ch => Sys2Proof.Machine.execLoopSupplyOff ch s
  | .loopSupplyRetry ch ok => Sys2Proof.Machine.execLoopSupplyRetry ch ok s
  | .analogueThermalLimit temp => Sys2Proof.Machine.execAnalogueThermalLimit temp s
  | .hartPoll dev => Sys2Proof.Machine.execHartPoll dev s
  | .hartResponse dev ans => Sys2Proof.Machine.execHartResponse dev ans s
  | .readbackSample smp => Sys2Proof.Machine.execReadbackSample smp s
  | .rbfailClear path => Sys2Proof.Machine.execRbfailClear path s
  | .canFrameReceive port f => Sys2Proof.Machine.execCanFrameReceive port f s
  | .canFrameTransmitted port t => Sys2Proof.Machine.execCanFrameTransmitted port t s
  | .canError port err own tec rec_ => Sys2Proof.Machine.execCanError port err own tec rec_ s
  | .canBusOffRecovered port => Sys2Proof.Machine.execCanBusOffRecovered port s
  | .canRxtmoExpiry port map => Sys2Proof.Machine.execCanRxtmoExpiry port map s
  | .canRecover path => Sys2Proof.Machine.execCanRecover path s
  | .canFlush path => Sys2Proof.Machine.execCanFlush path s
  | .imvStart path v => Sys2Proof.Machine.execImvStart path v s
  | .imvHalt path => Sys2Proof.Machine.execImvHalt path s
  | .imvRunComplete ch bad preempts => Sys2Proof.Machine.execImvRunComplete ch bad preempts s
  | .arcadeRecordProgram event => Sys2Proof.Machine.execArcadeRecordProgram event s
  | .wearGovernorStep used => Sys2Proof.Machine.execWearGovernorStep used s
  | .arcCursorWrite path v => Sys2Proof.Machine.execArcCursorWrite path v s
  | .arcCursorReady path => Sys2Proof.Machine.execArcCursorReady path s
  | .arcNext path => Sys2Proof.Machine.execArcNext path s
  | .arcClrevt path safe => Sys2Proof.Machine.execArcClrevt path safe s
  | .arcClrcyc path => Sys2Proof.Machine.execArcClrcyc path s
  | .arcErase path => Sys2Proof.Machine.execArcErase path s
  | .powerOn env => Sys2Proof.Machine.execPowerOn env s
  | .restartStepFailed => Sys2Proof.Machine.execRestartStepFailed s
  | .fuseReread marg => Sys2Proof.Machine.execFuseReread marg s
  | .updOpen path => Sys2Proof.Machine.execUpdOpen path s
  | .updChunk path => Sys2Proof.Machine.execUpdChunk path s
  | .updClose path b => Sys2Proof.Machine.execUpdClose path b s
  | .updArm path => Sys2Proof.Machine.execUpdArm path s
  | .updDisarm path => Sys2Proof.Machine.execUpdDisarm path s
  | .botRestart path env => Sys2Proof.Machine.execBotRestart path env s
  | .botConfirm path => Sys2Proof.Machine.execBotConfirm path s
  | .botReject path env => Sys2Proof.Machine.execBotReject path env s
  | .botAttest path => Sys2Proof.Machine.execBotAttest path s
  | .probationConfirmation => Sys2Proof.Machine.execProbationConfirmation s
  | .healthwinExpiry env => Sys2Proof.Machine.execHealthwinExpiry env s
  | .autoRestart env => Sys2Proof.Machine.execAutoRestart env s
  | .mainsInputChange b present at_ m => Sys2Proof.Machine.execMainsInputChange b present at_ m s
  | .busUndervoltage m => Sys2Proof.Machine.execBusUndervoltage m s
  | .sagStepDown m => Sys2Proof.Machine.execSagStepDown m s
  | .sagStepUp m => Sys2Proof.Machine.execSagStepUp m s
  | .thermalStepDown m => Sys2Proof.Machine.execThermalStepDown m s
  | .thermalStepUp m => Sys2Proof.Machine.execThermalStepUp m s
  | .storeFault m => Sys2Proof.Machine.execStoreFault m s
  | .parkedQuarterTest q bad => Sys2Proof.Machine.execParkedQuarterTest q bad s
  | .coolantLoss m => Sys2Proof.Machine.execCoolantLoss m s
  | .coolantRestored m => Sys2Proof.Machine.execCoolantRestored m s
  | .mgmtConnect c cert => Sys2Proof.Machine.execMgmtConnect c cert s
  | .mgmtRead c tag off count => Sys2Proof.Machine.execMgmtRead c tag off count s
  | .mgmtWrite c tag off data env => Sys2Proof.Machine.execMgmtWrite c tag off data env s
  | .mgmtAttest c tag nonce => Sys2Proof.Machine.execMgmtAttest c tag nonce s
  | .registerWrite path off v env => Sys2Proof.Machine.execRegisterWrite path off v env s
  | .temperatureWarning m => Sys2Proof.Machine.execTemperatureWarning m s
  | .boulevardLinkChange link up => Sys2Proof.Machine.execBoulevardLinkChange link up s
  | .plantLinkUpDown link up rate => Sys2Proof.Machine.execPlantLinkUpDown link up rate s
  | .fenceReleased => Sys2Proof.Machine.execFenceReleased s
  | .seatsenseFall => Sys2Proof.Machine.execSeatsenseFall s
  | .witnessAssentLost => Sys2Proof.Machine.execWitnessAssentLost s
  | .ptpAnnounce dom master => Sys2Proof.Machine.execPtpAnnounce dom master s
  | .pulseTrainEnd out => Sys2Proof.Machine.execPulseTrainEnd out s
  | .readbackConverterSelfTest ok => Sys2Proof.Machine.execReadbackConverterSelfTest ok s
  | .hartModemLoopback m ok => Sys2Proof.Machine.execHartModemLoopback m ok s
  | .hartBurstFrame ch ans => Sys2Proof.Machine.execHartBurstFrame ch ans s
  | .kerbWatchdog env => Sys2Proof.Machine.execKerbWatchdog env s
  | .mgmtConnectionClose c => Sys2Proof.Machine.execMgmtConnectionClose c s
  | .laneTestLate lane => Sys2Proof.Machine.execLaneTestLate lane s
  | .flashTemperatureHot hot => Sys2Proof.Machine.execFlashTemperatureHot hot s
  | .joinAttestation e => Sys2Proof.Machine.execJoinAttestation e s
  | .powerStateWakeEnd => Sys2Proof.Machine.execPowerStateWakeEnd s

end Sys2Proof.Machine
end

