-- ==== Sys2Proof/WellFormed.lean ====
section
/-! DEFINITION. Which commands are well formed: what no access path, link, sensor or bus could send is refused here, and nowhere else. -/
namespace Sys2Proof

/-- The data lengths of a CAN frame (R380): 0 to 8, and in a CAN FD frame also 12, 16, 20, 24, 32, 48 and 64. -/
def canLen (fdf : Bool) (n : Nat) : Bool := n ≤ 8 || (fdf && [12, 16, 20, 24, 32, 48, 64].contains n)

/-- A CAN frame: an identifier of 11 or 29 bits, a data length its format has, no data in a remote frame, and a start before its end. -/
def CanFrame.wf (f : CanFrame) : Bool :=
  decide (f.id < (if f.ide then 2 ^ 29 else 2 ^ 11)) && canLen f.fdf f.data.length && (!f.rtr || (f.data.isEmpty && !f.fdf)) && decide (f.sof ≤ f.eof)

/-- The fields of a record's header (Table 16-5): kind and task of 16 bits, epoch of 32, sequence number and CSN of 64, and a seat. -/
def RecData.wf (r : RecData) : Bool :=
  decide (r.kind < 2 ^ 16) && decide (r.task < 2 ^ 16) && decide (r.epoch < 2 ^ 32) && decide (r.seq < 2 ^ 64) && decide (r.csn < 2 ^ 64) && decide (r.seat < 2)

/-- The header of a cycle packet (Table 8-2). -/
def CyclePkt.wf (p : CyclePkt) : Bool :=
  decide (p.epoch < 2 ^ 32) && decide (p.csn < 2 ^ 64) && decide (p.baseCsn < 2 ^ 64) && decide (p.ohash < 2 ^ 64) && decide (p.chash < 2 ^ 64) && p.record.wf

/-- A HELLO (R195): the state is one of Table 8-1, the epochs have 32 bits, and the range of protocol versions is one. -/
def Hello.wf (h : Hello) : Bool :=
  decide (h.state ≤ 8) && decide (h.epoch < 2 ^ 32) && decide (h.roleEpoch < 2 ^ 32) && decide (h.maxCsn < 2 ^ 64) && decide (h.protoLo ≤ h.protoHi)

/-- A package's content (R239): its initial image and its program store are given in canonical form, and its generation has 64 bits. -/
def Pkg.wf (p : Pkg) : Bool := Machine.Memory.wf p.init && Machine.Memory.wf p.store && decide (p.gen < 2 ^ 64)

/-- A bundle (R447): SVNs that the two thermometers of 64 and 128 bits can hold (R435), and a range of protocol versions that is one. -/
def Bundle.wf (b : Bundle) : Bool := decide (b.kerbSvn ≤ 64) && decide (b.modSvn ≤ 128) && decide (b.protoLo ≤ b.protoHi)

/-- An error of the DRAM that the code of R165 has an outcome for: in one to three symbols (log entry 91). -/
def HwErr.wf : HwErr → Bool
  | .cell _ _ l => !l.isEmpty && decide (l.eraseDups.length ≤ 3)
  | _ => true

/-- Is a command well formed? -/
def Instr.wf : Instr → Bool
  | .baseTick seen => seen.hw.all HwErr.wf
  | .heartbeat _ | .wedgeDecision _ _ | .lastWordsCommit _ | .mainsLossDecision _ | .temperatureCritical _ | .kerbstop _ | .cyclicRelease _
  | .taskDispatch _ | .commit _ _ | .cycleLate _ | .deferredRelease _ | .furtherGridTickOverrun _ | .eventActivation _ _ | .eventRelease _
  | .taskStart _ _ | .taskStop _ _ | .taskActivate _ _ | .taskCancel _ _ | .modeRequestRun _ | .modeRequestHold _ | .modeRequestStop _
  | .modeChange | .initTaskTimeout _ => true
  | .schTaskRegisterWrite _ off _ => off.toNat % 4 = 0
  | .logLd _ _ | .logAnd _ _ | .logOr _ _ | .logXor _ _ | .logSt _ _ | .logS _ _ | .logR _ _ | .logpAnd _ _ | .logpOr _ _ | .logpXor _ _
  | .ldw _ _ | .stw _ _ | .ldwb _ _ | .stwb _ _ | .lea _ _ | .addw _ _ | .subw _ _ | .mulw _ _ | .divw _ _ | .andw _ _ | .orw _ _ | .xorw _ _
  | .minw _ _ | .maxw _ _ | .limit _ _ | .shl _ _ | .shr _ _ | .rol _ _ | .ror _ _ | .ceq _ _ | .cne _ _ | .cgt _ _ | .cge _ _ | .clt _ _
  | .cle _ _ | .selw _ _ | .lstat _ _ | .tbl _ _ | .lin _ _ | .movb _ _ | .ton _ _ | .tof _ _ | .tp _ _ | .ctu _ _ | .ctd _ _ | .ctud _ _
  | .crst _ _ | .cload _ _ | .edgp _ _ | .edgn _ _ | .ldlive _ _ | .ldliveh _ _ | .jmp _ _ | .call _ _ | .loop _ _ | .loopw _ _ | .nop _ _
  | .endS _ _ | .popl _ _ | .notl _ _ | .setl _ _ | .clrl _ _ | .ldbit _ _ | .stbit _ _ | .xab _ _ | .movab _ _ | .movba _ _ | .notw _ _
  | .negw _ _ | .absw _ _ | .cvt _ _ | .ldfl _ _ | .clrf _ _ | .timew _ _ | .modeset _ _ | .setev _ _ | .diag _ _ | .sync _ _
  | .syncRelease _ _ | .ret _ _ | .trap _ _ | .sqrt _ _ | .errorTaskDelivery | .xcpDispResume _ | .xcpDispAbort _ | .dispositionDeadline _
  | .specRunStart _ | .specUndone _ | .specDecision _ _ | .specSuspendEnd _ | .laneSelfTestComplete _ _ | .selfTestStep _ _ _ _
  | .mismatchInjection _ _ | .xngTest _ _ | .xngRetire _ _ => true
  | .patrolScrub _ hw page => hw.all HwErr.wf && (match page with | some l => decide (l.length = 4096) | none => true)
  | .rowSparingComplete _ _ | .tagWalk _ _ _ | .tagWrite _ _ _ | .ttcGo _ _ | .ttcInvalidationDone | .acuBarrier _ | .acuBarrierDone
  | .acuRattrWrite _ _ | .helloSend => true
  | .helloReceive h => h.wf
  | .pairStartTimeout => true
  | .cyclePacketApply p => p.wf
  | .tickSend _ => true
  | .tickPacketReceive _ epoch _ => epoch < 2 ^ 32
  | .ack csn => csn < 2 ^ 64
  | .seatsampleSend | .seatsampleReceive _ _ _ | .seatOutputTimeout | .auditComplete _ | .auditTimeout _ | .parResync _ | .resyncComplete
  | .packetMissing _ | .leadLostDeclared | .ackMissing _ | .fenceRecognised | .fenceLineFault | .seatsenseRise | .beacon _ | .wreq
  | .wgrant _ _ | .wrefuse _ _ | .parSwitch _ | .switchTick => true
  | .handover csn epoch => decide (csn < 2 ^ 64) && decide (epoch < 2 ^ 32)
  | .parRelease _ | .parJoin _ | .parClearcfg _ | .joinClockTimeout | .bulk _ | .trackCaughtUp => true
  | .backfillRecord _ r => r.wf
  | .batchCommitAlone | .cutInstant _ | .cutdata _ _ | .cutClose _ | .stationModeMissed _ _ _ | .modeChangeResend _ | .modewaitExpiry _
  | .olcArm _ | .olcAbandon _ | .olcTransferComplete | .migrationPassComplete | .activationCommit | .cfgOpen _ | .cfgChunk _ => true
  | .cfgClose _ p => p.wf
  | .cfgLoad _ | .leaseExpiry | .lockGrant => true
  | .coalescingWindowClose kind obj => decide (kind < 2 ^ 16) && decide (obj < 2 ^ 32)
  | .connectionRequest _ _ _ => true
  | .sessionEnd sess _ => decide (sess.val ≠ 0)
  | .doorbell sess _ _ _ _ => decide (sess.val ≠ 0)
  | .descriptorFetch _ _ ds => ds.all (fun d => d.bytes.length = 64)
  | .completionWrite sess _ => decide (sess.val ≠ 0)
  | .hostNop sess _ => decide (sess.val ≠ 0)
  | .readAt sess _ => decide (sess.val ≠ 0)
  | .readAtRaw sess _ => decide (sess.val ≠ 0)
  | .descriptorWaitTimeout sess _ _ => decide (sess.val ≠ 0)
  | .writeNext sess _ => decide (sess.val ≠ 0)
  | .hostSubscribe sess _ => decide (sess.val ≠ 0)
  | .hostCancel sess _ => decide (sess.val ≠ 0)
  | .historyRead sess _ => decide (sess.val ≠ 0)
  | .historyReadDelta sess _ => decide (sess.val ≠ 0)
  | .eventRead sess _ => decide (sess.val ≠ 0)
  | .hostCut sess _ => decide (sess.val ≠ 0)
  | .hostLock sess _ => decide (sess.val ≠ 0)
  | .unlockCommit sess _ => decide (sess.val ≠ 0)
  | .unlockDiscard sess _ => decide (sess.val ≠ 0)
  | .hostForce sess _ => decide (sess.val ≠ 0)
  | .hostTime sess _ => decide (sess.val ≠ 0)
  | .attest sess _ => decide (sess.val ≠ 0)
  | .qpCreate sess _ => decide (sess.val ≠ 0)
  | .qpDestroy sess _ => decide (sess.val ≠ 0)
  | .sessionClose sess _ => decide (sess.val ≠ 0)
  | .hostLatency sess _ => decide (sess.val ≠ 0)
  | .setupRead sess _ => decide (sess.val ≠ 0)
  | .setupWrite sess _ _ => decide (sess.val ≠ 0)
  | .transportRetryExhausted sess => decide (sess.val ≠ 0)
  | .sakChange _ _ _ | .secPortcfgWrite _ _ | .pnePortcfgWrite _ _ | .stationInput _ _ | .stationEvent _ _ | .confack _ _ | .configRetry _
  | .iwdtExpiry _ | .peerFrame _ _ | .peerWatchdogExpiry _ | .holdOutputRepeat | .ptpSync _ _ | .ptpDomainLost _ | .domainSwitchBack
  | .domainSplit _ | .timSwitch _ | .pulseArm _ | .pulseStop _ | .tioCaptureEdge _ _ _ | .dioEdgetailWrite _ _ | .timCapcfgTailWrite _ _
  | .canRxtailWrite _ _ | .fslPduReceive _ _ | .fslWatchdogExpiry _ => true
  | .sampleTick _ smp _ => smp.length = 32
  | .offPulseStart _ | .offPulseEnd _ | .degmaxExpiry _ | .degradedRecovery _ | .keySwitchSample _ _ | .sfyValackWrite _ _
  | .fieldSupplyChange _ _ | .inputTest _ _ | .outputOverload _ _ | .adcEntryComplete _ _ _ | .urgentRequest _ _ _ | .adcUrgentGo _ _ _
  | .adcSelfTestStep _ _ | .loopSupplyOff _ | .loopSupplyRetry _ _ | .analogueThermalLimit _ | .hartPoll _ | .hartResponse _ _ => true
  | .readbackSample smp => smp.length = 8
  | .rbfailClear _ => true
  | .canFrameReceive _ f => f.wf
  | .canFrameTransmitted _ _ | .canError _ _ _ _ _ | .canBusOffRecovered _ | .canRxtmoExpiry _ _ | .canRecover _ | .canFlush _ | .imvStart _ _
  | .imvHalt _ | .imvRunComplete _ _ _ | .arcadeRecordProgram _ | .wearGovernorStep _ | .arcCursorWrite _ _ | .arcCursorReady _ | .arcNext _
  | .arcClrevt _ _ | .arcClrcyc _ | .arcErase _ | .powerOn _ | .restartStepFailed | .fuseReread _ | .updOpen _ | .updChunk _ => true
  | .updClose _ b => b.wf
  | .updArm _ | .updDisarm _ | .botRestart _ _ | .botConfirm _ | .botReject _ _ | .botAttest _ | .probationConfirmation | .healthwinExpiry _
  | .autoRestart _ | .mainsInputChange _ _ _ _ | .busUndervoltage _ | .sagStepDown _ | .sagStepUp _ | .thermalStepDown _ | .thermalStepUp _
  | .storeFault _ | .parkedQuarterTest _ _ | .coolantLoss _ | .coolantRestored _ | .mgmtConnect _ _ => true
  | .mgmtRead _ tag off count => decide (tag < 2 ^ 32) && decide (off < 2 ^ 32) && decide (count < 2 ^ 16)
  | .mgmtWrite _ tag off data _ => decide (tag < 2 ^ 32) && decide (off < 2 ^ 32) && decide (data.length < 2 ^ 16)
  | .mgmtAttest _ tag nonce => decide (tag < 2 ^ 32) && decide (nonce.length = 32)
  | .registerWrite _ off _ _ => off.toNat % 4 = 0
  | .temperatureWarning _ | .boulevardLinkChange _ _ | .plantLinkUpDown _ _ _ | .fenceReleased | .seatsenseFall | .witnessAssentLost
  | .ptpAnnounce _ _ | .pulseTrainEnd _ | .readbackConverterSelfTest _ | .hartModemLoopback _ _ | .hartBurstFrame _ _ | .kerbWatchdog _
  | .mgmtConnectionClose _ | .laneTestLate _ | .flashTemperatureHot _ | .joinAttestation _ | .powerStateWakeEnd => true

end Sys2Proof
end

