-- ==== Sys2Proof/Safety.lean ====
section
/-! DEFINITION. What counts as a sound state and a safe run, and what a claim says of one command: what it gives, and what it leaves alone. -/
namespace Sys2Proof.Machine

/-- The byte memories of the Square keep their canonical form: the state space and the program stores. -/
abbrev State.MemoryWf (s : State) : Prop := Memory.wf s.sq.mem = true ∧ Memory.wf s.sq.code = true

/-- The register file keeps its canonical form: keys strictly rising. -/
abbrev State.RegsOk (s : State) : Prop := tabRising s.regs = true

/-- Every command that waits is well formed. -/
abbrev State.QueueWf (s : State) : Prop := s.pending.all Instr.wf = true

/-- A sound state: memories and register file in canonical form. -/
abbrev State.Sound (s : State) : Prop := s.MemoryWf ∧ s.RegsOk

/-- The module runs: its restart is over, and it is neither in state K nor in RECOVERY. -/
abbrev State.Runs (s : State) : Prop := s.kerb.phase = .run

/-- Safe runs: every step from the state answers a next state, for n steps. -/
def SafeRun : Nat → State → Prop
  | 0, _ => True
  | n + 1, s => ∃ t, step s = .next t ∧ SafeRun n t

/-- A command completes in a state of which `P` holds. -/
def Gives (c : Instr) (s : State) (P : State → Prop) : Prop := ∃ t, exec c s = .next t ∧ P t

/-- Every register field but the listed instances reads as before. -/
def OnlyRegs (s t : State) (l : List (Fld × Nat)) : Prop :=
  ∀ (f : Fld) (ix : Nat), (∀ x ∈ l, f.key ix ≠ x.1.key x.2) → t.getF f ix = s.getF f ix

/-- Every byte of the Square, state space and program stores, reads as before. -/
def SameBytes (s t : State) : Prop := (∀ a, memRd t.sq.mem a = memRd s.sq.mem a) ∧ (∀ a, memRd t.sq.code a = memRd s.sq.code a)

/-- Every register field but the listed instances reads as before, leaving aside the bookkeeping that every write through an access path does:
the write counter and last offset of the block, and the fields that record a refused write. -/
def OnlyRegsW (b : Nat) (s t : State) (l : List (Fld × Nat)) : Prop :=
  OnlyRegs s t ([(wrCnt b, 0), (lastWr b, 0), (ignCnt b, 0), (KRB_IGNSTAT_IGNCNT, 0)] ++ l)

/-- The machine, a run and a stream as the fetch of the stream's instruction leaves them: what ECC finds in its units has been dealt with (R166, R167). -/
def met (s : State) (e : Env) (r : Run) (st : StreamRt) : Mx := ⟨s.fetchMeet e.newRules r.task st, r, st⟩

/-- The stream of a command stands at an instruction `i` of the row, on a lane, in a run that is being executed, and the instruction is a legal
one; the environment reports no disagreement of the two copies in an item that the instruction produces (R145). -/
structure AtWord (s : State) (k : Strm) (e : Env) (row : FlxRow) (r : Run) (d : TaskDef) (st : StreamRt) (i : FlxW) : Prop where
  run : s.run? k.ctx k.task.val = some r
  task : s.taskDef? k.task.val = some d
  store : r.store = s.actStore
  stream : r.streams[k.stream.val]? = some st
  steps : s.mayStep r st = true
  on : r.st = .on
  noObject : s.objectAt st = none
  word : (met s e r st).s.fetchAt e.newRules r.task st = .got i
  isRow : i.row = some row
  agree : mismatch e.item (i.items st) = none
  legal : i.illegal = none

/-- The same, and the instruction may stand there: it is no control instruction in a MODESET shadow, and no live read that a stop interrupted (R96). -/
structure AtInstr (s : State) (k : Strm) (e : Env) (row : FlxRow) (r : Run) (d : TaskDef) (st : StreamRt) (i : FlxW) : Prop
    extends AtWord s k e row r d st i where
  inShadow : (st.sh.isSome && row.control) = false
  calm : (st.flying && e.inFlight && (row = .ldlive || row = .ldliveh)) = false

/-- What is fixed while that instruction executes. -/
def instrCx (k : Strm) (e : Env) (r : Run) (d : TaskDef) (st : StreamRt) (i : FlxW) : Cx :=
  { t := r.task, d := d, k := k.stream.val, ctx := r.ctx, lane := st.lane.getD 0, e := e, i := i }

/-- A run of the context has not been abandoned, or is no speculative one. -/
def kept (c : Ctx) (r : Run) : Prop := (r.abandoned && decide (c = .spec)) = false

/-- A stream that has retired instruction `i`, its meaning having left it as `m` does: it goes on where `a` says, and its shadow is the transform of its
registers under the tags that the instruction gives them (R143, R144). -/
def doneStream (k : Strm) (r : Run) (i : FlxW) (m : Mx) (a : After) : StreamRt :=
  let t := i.tags ((r.streams[k.stream.val]?).getD m.st)
  let st := m.st.retire i.size a r.streams.length
  { st with shad := st.shadowOf t.1 t.2.1 t.2.2, flying := false }

/-- The state after an instruction of run `r` that has left the machine, its run and its stream as `m` has retired: nothing else of the state changes but
the run; an exception of the task's cycle that waits for its other streams may come due (R96, R100). -/
def retired (k : Strm) (r : Run) (i : FlxW) (m : Mx) (a : After) : State :=
  (m.s.flxPut m.r k.stream.val (doneStream k r i m a)).settle r.task

/-- The state after an instruction of run `r` has raised an exception: the stream is handed to it as `st` (R96, R98). -/
def raised (k : Strm) (r : Run) (i : FlxW) (m : Mx) (st : StreamRt) (x : Xcp) (trap : Option Nat) : State :=
  (m.s.flxXcp m.r k.stream.val st x i.size trap).settle r.task

/-- A stream after an operation that hands back `w` without a trap: the registers and flags that `w` names. -/
def WordRes.on (w : WordRes) (st : StreamRt) : StreamRt :=
  { st with wa := (w.wa.map (BitVec.ofNat 64)).getD st.wa, wb := (w.wb.map (BitVec.ofNat 64)).getD st.wb, la := w.la.getD st.la,
            fl := w.flags st.fl }

/-- The scheduler but for the units that its executions know poisoned, which an uncorrectable error met by any read adds to (R167). -/
def Sched.bare (x : Sched) : Sched := { x with runs := x.runs.map (fun p => (p.1, { p.2 with basePoison := [] })) }

/-- From `m` to `m'` an operand has been read: the stream's registers, the Square's bytes, the program stores and, poison aside, the scheduler are as they were,
and of the run only its read set and the units it knows poisoned have grown or, of a speculative one, it has been abandoned. -/
structure Reads (m m' : Mx) : Prop where
  st : m'.st = m.st
  run : ∃ a b c p, m'.r = { m.r with reads := a, words := b, abandoned := c, basePoison := p }
  mem : m'.s.sq.mem = m.s.sq.mem
  code : m'.s.sq.code = m.s.sq.code
  sched : m'.s.sched.bare = m.s.sched.bare

/-- Nothing of the state changes but instances of the listed register fields. -/
def RegsOnly (s t : State) (l : List (Fld × Nat)) : Prop := t = { s with regs := t.regs } ∧ OnlyRegs s t l

/-- The same of a write through an access path to block `b`, its bookkeeping aside. -/
def RegsOnlyW (b : Nat) (s t : State) (l : List (Fld × Nat)) : Prop := t = { s with regs := t.regs } ∧ OnlyRegsW b s t l

/-- What a released task is found in: its execution waits for lanes, for the grid tick and activations given, and STATE shows it running. -/
def Released (t grid acts tick : Nat) (s : State) : Prop :=
  (∃ r, s.run? .real t = some r ∧ r.grid = grid ∧ r.rel = tick ∧ r.acts = acts ∧ r.st = .ready) ∧
  s.getF SCH_TASKSTAT_STATE t = 2 ∧ s.getF SCH_TASKSTAT_LATE t = 0 ∧ s.RegsOk

/-- The registers that show the sensors, with the warning flag that follows them. -/
def sensorFields : List (Fld × Nat) :=
  [(PWR_MAINSA_V, 0), (PWR_MAINSA_I, 0), (PWR_MAINSB_V, 0), (PWR_MAINSB_I, 0), (PWR_BUS_V, 0), (PWR_BUS_CHARGE, 0), (PWR_TEMP_INLET, 0),
   (PWR_TEMP_DIE, 0), (PWR_TEMP2_COLD, 0), (PWR_TEMP2_STACK, 0), (PWR_FLOW_FLOW, 0), (PWR_FLOW_OUTLET, 0), (PWR_POWER_DRAW, 0),
   (PWR_POWER_PEAK, 0), (PWR_STAT_TWARN, 0)]

/-- The lane clock's step for a sag step and a thermal step under the flags CAPPED and STOREFLT (Tables 1-3, 18-2, 18-3). -/
def clkStep (sag therm : Nat) (capped storeFlt : Bool) : Nat :=
  max (max sag therm) (max (if capped then 3 else 0) (if storeFlt then 1 else 0)) % 8

/-- Descriptor `d` of a session `x` stands at the head of its queue pair `y`, `rest` after it, and starts: no earlier one holds it back, and nothing of
Table 10-5 answers it before its opcode is looked at. -/
structure AtHead (s : State) (sess : SessNo) (qp : QpNo) (x : Sess) (y : Qp) (d : HostDesc) (rest : List HostDesc) : Prop where
  session : s.sess? sess.val = some x
  queue : tabGet? x.qps qp.val = some y
  head : y.ready = d :: rest
  start : mayStart y d = true
  runs : s.Runs
  screened : s.screen x qp.val d = none

/-- The state with the descriptor at the head of a queue pair taken. -/
def State.took (s : State) (sess : SessNo) (qp : QpNo) (rest : List HostDesc) : State := s.modQp sess.val qp.val (fun y => { y with ready := rest })

/-- The completion of a descriptor (Table 10-4). -/
def answerOf (d : HostDesc) (status csn detail flags : Nat) (data : List Byte) : Compl :=
  { status := status, flags := flags, opcode := dOp d, reqid := dReqid d, csn := csn, len := data.length, detail := detail, data := data, sub := none,
    addr := dAddr2 d, key := dKey2 d }

/-- A queue pair that had the completions `l` waiting has, next after them, completion `c`. -/
def Answered (t : State) (sess : SessNo) (qp : QpNo) (l : List Compl) (c : Compl) : Prop :=
  ∃ y, t.qp? sess.val qp.val = some y ∧ (l ++ [c]) <+: y.comps

/-- The state a station takes on a frame (Table 11-4). -/
def staNext (s : State) (n mode : Nat) : Nat :=
  match s.getF PNE_STASTAT_STATE n with
  | 0 => 1
  | 3 => if 3 ≤ (if s.now ≤ (s.staRt n).arrived + s.getF PNE_STAWDT_IWDT n * 62500 then (s.staRt n).onTime + 1 else 1) then 2 else 3
  | 4 => if mode = (s.staRt n).expect then 2 else 4
  | k => k

/-- The registers that judging a function can change. -/
def judgeFlds : List Fld :=
  [SFY_FNSTAT_STATE, SFY_FNSTAT_CHBAD, SFY_FNSTAT_DEGLEFT, SFY_STAT_DEGR, SFY_STAT_TRIP, SCH_COALSTAT_OPEN, SCH_COALSTAT_OVFCNT]

/-- What the field I/O shows of a sample tick. -/
def sampleFlds : List Fld :=
  judgeFlds ++ [DIO_CHSTAT_VALUE, DIO_CHSTAT_WIREBRK, DIO_CHSTAT_UNHEALTHY, DIO_CHSTAT_CURRENT, DIO_CHSTAT_OPENLD, DIO_CHSTAT_EXTFEED, DIO_CHSTAT_OVL, DIO_CHSTAT_THERM,
    SFY_TESTSTAT_READFAIL, SFY_TESTSTAT_LASTCH, SFY_FNSTAT_DISC, SFY_STAT_ACKREF, DIO_EDGEHEAD_HEAD, DIO_EDGEHEAD_LOST, ACU_FLTLO_ADDR, ACU_FLTHI_ADDR, ACU_FLTHI_MASTER, ACU_FLTHI_WRITE, ACU_FLTHI_VALID]

/-- What the analogue inputs show of a sample, and of their loop supplies. -/
def adcFlds : List Fld := [AIO_AISTAT_LIMIT, AIO_AISTAT_BAD, AIO_AISTAT_CUR, AIO_AISTAT_LSLIM, AIO_AISTAT_LSOFF, AIO_AISTAT_LSV]

/-- What an urgent sample shows besides. -/
def urgFlds : List Fld := [ADC_URGRES_CODE, ADC_URGENT_DONE, ADC_STAT_URGPEND]

/-- What the analogue outputs show of a readback. -/
def rbFlds : List Fld := [AIO_AOSTAT_RBCUR, AIO_AOSTAT_OPENLP, AIO_AOSTAT_COMPL, AIO_AOSTAT_RBFAIL]

end Sys2Proof.Machine
end

