-- ==== Sys2Proof/Certificates/Slice0/Obligations.lean ====
section
/-! DEFINITION. The statements for the provers. -/
open Sys2Proof Sys2Proof.Machine

/-- With its stream at such an instruction, NOTL, SETL, CLRL, LDBIT, STBIT, XAB, MOVAB, MOVBA, LDFL, CLRF, NOP and TIME complete: the stream takes
exactly the value of Table 3-8 in its one or two destination registers, every other register of the stream is unchanged, and nothing of the
machine changes but the run the stream belongs to. (03_logic_instruction_set R71, 03_logic_instruction_set R72, 03_logic_instruction_set R77.) -/
def Obligations.FlxRegisterMoves : Prop :=
  ∀ (s : State) (k : Strm) (e : Env) (r : Run) (d : TaskDef) (st : StreamRt) (i : FlxW), kept r.ctx r →
    (AtInstr s k e .notl r d st i → exec (.notl k e) s = .next (retired k r i ⟨(met s e r st).s, r, { st with la := !st.la }⟩ .next)) ∧
    (AtInstr s k e .setl r d st i → exec (.setl k e) s = .next (retired k r i ⟨(met s e r st).s, r, { st with la := true }⟩ .next)) ∧
    (AtInstr s k e .clrl r d st i → exec (.clrl k e) s = .next (retired k r i ⟨(met s e r st).s, r, { st with la := false }⟩ .next)) ∧
    (AtInstr s k e .ldbit r d st i → exec (.ldbit k e) s = .next (retired k r i ⟨(met s e r st).s, r, { st with la := st.wa.getLsbD (bits i.arg 0 6) }⟩ .next)) ∧
    (AtInstr s k e .stbit r d st i → exec (.stbit k e) s = .next (retired k r i ⟨(met s e r st).s, r, { st with wa := if st.la then st.wa ||| BitVec.ofNat 64 (2 ^ bits i.arg 0 6) else st.wa &&& ~~~BitVec.ofNat 64 (2 ^ bits i.arg 0 6) }⟩ .next)) ∧
    (AtInstr s k e .xab r d st i → exec (.xab k e) s = .next (retired k r i ⟨(met s e r st).s, r, { st with wa := st.wb, wb := st.wa }⟩ .next)) ∧
    (AtInstr s k e .movab r d st i → exec (.movab k e) s = .next (retired k r i ⟨(met s e r st).s, r, { st with wb := st.wa }⟩ .next)) ∧
    (AtInstr s k e .movba r d st i → exec (.movba k e) s = .next (retired k r i ⟨(met s e r st).s, r, { st with wa := st.wb }⟩ .next)) ∧
    (AtInstr s k e .ldfl r d st i → exec (.ldfl k e) s = .next (retired k r i ⟨(met s e r st).s, r, { st with wa := BitVec.ofNat 64 st.fl.toNat }⟩ .next)) ∧
    (AtInstr s k e .clrf r d st i → exec (.clrf k e) s = .next (retired k r i ⟨(met s e r st).s, r, { st with fl := st.fl &&& 0x1F }⟩ .next)) ∧
    (AtInstr s k e .nop r d st i → exec (.nop k e) s = .next (retired k r i (met s e r st) .next)) ∧
    (AtInstr s k e .timew r d st i → exec (.timew k e) s = .next (retired k r i ⟨(met s e r st).s, r, { st with wa := BitVec.ofNat 64 (r.rel * 62500 % 2 ^ 64) }⟩ .next))

/-- Where the BOOL operand reads as b, LOG LD, AND, OR and XOR combine LA with b, negated if NEG = 1; LOGP AND, OR and XOR push LA, the operation and
NEG onto an NS of fewer than 16 entries and load b; POPL takes the top entry and combines it with LA, negated if the entry says so. Every other
register of the stream is unchanged, and the machine only notes the read. (R72, 03_logic_instruction_set Table 3-9.) -/
def Obligations.FlxBitLogic : Prop :=
  (∀ (s : State) (k : Strm) (e : Env) (r : Run) (d : TaskDef) (st : StreamRt) (i : FlxW) (b : Bool) (m : Mx), ((met s e r st) : Mx).bool (instrCx k e r d st i) = .ok b m → kept r.ctx m.r →
    (AtInstr s k e .logLd r d st i → exec (.logLd k e) s = .next (retired k r i { m with st := { m.st with la := b != i.neg } } .next)) ∧
    (AtInstr s k e .logAnd r d st i → exec (.logAnd k e) s = .next (retired k r i { m with st := { m.st with la := m.st.la && (b != i.neg) } } .next)) ∧
    (AtInstr s k e .logOr r d st i → exec (.logOr k e) s = .next (retired k r i { m with st := { m.st with la := m.st.la || (b != i.neg) } } .next)) ∧
    (AtInstr s k e .logXor r d st i → exec (.logXor k e) s = .next (retired k r i { m with st := { m.st with la := m.st.la != (b != i.neg) } } .next)) ∧
    (m.st.ns.length < 16 → AtInstr s k e .logpAnd r d st i → exec (.logpAnd k e) s = .next (retired k r i { m with st := { m.st with ns := ⟨m.st.la, 1, i.neg⟩ :: m.st.ns, la := b } } .next)) ∧
    (m.st.ns.length < 16 → AtInstr s k e .logpOr r d st i → exec (.logpOr k e) s = .next (retired k r i { m with st := { m.st with ns := ⟨m.st.la, 2, i.neg⟩ :: m.st.ns, la := b } } .next)) ∧
    (m.st.ns.length < 16 → AtInstr s k e .logpXor r d st i → exec (.logpXor k e) s = .next (retired k r i { m with st := { m.st with ns := ⟨m.st.la, 3, i.neg⟩ :: m.st.ns, la := b } } .next))) ∧
  (∀ (s : State) (k : Strm) (e : Env) (r : Run) (d : TaskDef) (st : StreamRt) (i : FlxW) (x : NsEnt) (l : List NsEnt), kept r.ctx r → st.ns = x :: l →
    (AtInstr s k e .popl r d st i → exec (.popl k e) s = .next (retired k r i ⟨(met s e r st).s, r, { st with ns := l, la := if x.op = 1 then x.la && (st.la != x.neg) else if x.op = 2 then x.la || (st.la != x.neg) else x.la != (st.la != x.neg) }⟩ .next)))

/-- Where the BOOL operand resolves and may be stored to, LOG ST stores LA, negated if NEG = 1, as the byte 0x01 or 0x00; LOG S stores 0x01 and LOG R
stores 0x00 if LA = 1, and with LA = 0 neither stores anything. No register of the stream changes. (R72, R497, 03_logic_instruction_set Table
3-9.) -/
def Obligations.FlxBitStores : Prop :=
  ∀ (s : State) (k : Strm) (e : Env) (r : Run) (d : TaskDef) (st : StreamRt) (i : FlxW) (o : Opnd) (m : Mx), ((met s e r st) : Mx).operand (instrCx k e r d st i) 1 1 false true = .ok o m →
    (AtInstr s k e .logSt r d st i → kept r.ctx (m.put (instrCx k e r d st i) o 0 [if m.st.la != i.neg then 1 else 0]).r → exec (.logSt k e) s = .next (retired k r i (m.put (instrCx k e r d st i) o 0 [if m.st.la != i.neg then 1 else 0]) .next)) ∧
    (AtInstr s k e .logS r d st i → m.st.la = true → kept r.ctx (m.put (instrCx k e r d st i) o 0 [1]).r → exec (.logS k e) s = .next (retired k r i (m.put (instrCx k e r d st i) o 0 [1]) .next)) ∧
    (AtInstr s k e .logR r d st i → m.st.la = true → kept r.ctx (m.put (instrCx k e r d st i) o 0 [0]).r → exec (.logR k e) s = .next (retired k r i (m.put (instrCx k e r d st i) o 0 [0]) .next)) ∧
    (AtInstr s k e .logS r d st i → m.st.la = false → kept r.ctx m.r → exec (.logS k e) s = .next (retired k r i m .next)) ∧
    (AtInstr s k e .logR r d st i → m.st.la = false → kept r.ctx m.r → exec (.logR k e) s = .next (retired k r i m .next))

/-- Of a stream at a LOGP whose operand reads, with 16 entries on NS, the instruction raises exception 0x0A (nesting-stack overflow); at POPL with an
empty NS, 0x0B (underflow); at END with a non-empty NS, 0x0C (imbalance), and the stream does not end. In each case the stream is handed to the
exception with every register as it was. (R73.) -/
def Obligations.NestingStackFaults : Prop :=
  (∀ (s : State) (k : Strm) (e : Env) (r : Run) (d : TaskDef) (st : StreamRt) (i : FlxW) (b : Bool) (m : Mx), ((met s e r st) : Mx).bool (instrCx k e r d st i) = .ok b m → st.ns.length = 16 →
    (AtInstr s k e .logpAnd r d st i → exec (.logpAnd k e) s = .next (raised k r i m st ⟨0x0A, 0, 0, 0⟩ none)) ∧
    (AtInstr s k e .logpOr r d st i → exec (.logpOr k e) s = .next (raised k r i m st ⟨0x0A, 0, 0, 0⟩ none)) ∧
    (AtInstr s k e .logpXor r d st i → exec (.logpXor k e) s = .next (raised k r i m st ⟨0x0A, 0, 0, 0⟩ none))) ∧
  (∀ (s : State) (k : Strm) (e : Env) (r : Run) (d : TaskDef) (st : StreamRt) (i : FlxW), st.ns = [] → AtInstr s k e .popl r d st i → exec (.popl k e) s = .next (raised k r i (met s e r st) st ⟨0x0B, 0, 0, 0⟩ none)) ∧
  (∀ (s : State) (k : Strm) (e : Env) (r : Run) (d : TaskDef) (st : StreamRt) (i : FlxW), st.ns ≠ [] → AtInstr s k e .endS r d st i → exec (.endS k e) s = .next (raised k r i (met s e r st) st ⟨0x0C, 0, 0, 0⟩ none))

/-- Where the source operand reads as v (extended by its type), LDW takes v into WA, LDWB into WB, and SEL into WA if LA = 1, leaving WA if LA = 0.
LEA takes the address of its operand into WA without reading it. LSTAT of a signal takes the status byte into WA. No other register of the stream
changes, and the machine is as the read leaves it. (03_logic_instruction_set R64, R81, 03_logic_instruction_set Table 3-7.) -/
def Obligations.FlxLoads : Prop :=
  (∀ (s : State) (k : Strm) (e : Env) (r : Run) (d : TaskDef) (st : StreamRt) (i : FlxW) (v : Nat) (m : Mx), ((met s e r st) : Mx).source (instrCx k e r d st i) = .ok v m → kept r.ctx m.r →
    (AtInstr s k e .ldw r d st i → exec (.ldw k e) s = .next (retired k r i { m with st := { m.st with wa := BitVec.ofNat 64 v } } .next)) ∧
    (AtInstr s k e .ldwb r d st i → exec (.ldwb k e) s = .next (retired k r i { m with st := { m.st with wb := BitVec.ofNat 64 v } } .next)) ∧
    (AtInstr s k e .selw r d st i → exec (.selw k e) s = .next (retired k r i { m with st := { m.st with wa := if m.st.la then BitVec.ofNat 64 v else m.st.wa } } .next))) ∧
  (∀ (s : State) (k : Strm) (e : Env) (r : Run) (d : TaskDef) (st : StreamRt) (i : FlxW) (p : Nat × Bool) (m : Mx), ((met s e r st) : Mx).address (instrCx k e r d st i) i.ty (tySize i.ty) = .ok p m → kept r.ctx m.r →
    (AtInstr s k e .lea r d st i → exec (.lea k e) s = .next (retired k r i { m with st := { m.st with wa := BitVec.ofNat 64 p.1 } } .next))) ∧
  (∀ (s : State) (k : Strm) (e : Env) (r : Run) (d : TaskDef) (st : StreamRt) (i : FlxW) (w : Nat × Nat) (m m' m'' : Mx) (b : Byte), ((met s e r st) : Mx).tagEntry (instrCx k e r d st i) ((instrCx k e r d st i).named (met s e r st) 0) = .ok w m → teSignal w.1 = true →
    m.check (instrCx k e r d st i) .rd (m.s.statAddr r.task w.1 w.2) 1 = .ok () m' → m'.load (instrCx k e r d st i) (m.s.statAddr r.task w.1 w.2) 1 = .ok [b] m'' →
    kept r.ctx m''.r →
    (AtInstr s k e .lstat r d st i → exec (.lstat k e) s = .next (retired k r i { m'' with st := { m''.st with wa := BitVec.ofNat 64 b.toNat } } .next)))

/-- Where the operand resolves and may be stored to, STW stores the low bytes of WA and STWB those of WB, as many as the type has; into W[n] the
whole value, extended by the type. No other register of the stream changes. (R64, 03_logic_instruction_set Table 3-7.) -/
def Obligations.FlxStores : Prop :=
  (∀ (s : State) (k : Strm) (e : Env) (r : Run) (d : TaskDef) (st : StreamRt) (i : FlxW) (n : Nat) (m : Mx), ((met s e r st) : Mx).operand (instrCx k e r d st i) (tySize i.ty) (tySize i.ty) false true = .ok (.reg n) m → kept r.ctx m.r →
    (AtInstr s k e .stw r d st i → exec (.stw k e) s = .next (retired k r i { m with st := m.st.setReg n (ext i.ty m.st.wa.toNat) } .next)) ∧
    (AtInstr s k e .stwb r d st i → exec (.stwb k e) s = .next (retired k r i { m with st := m.st.setReg n (ext i.ty m.st.wb.toNat) } .next))) ∧
  (∀ (s : State) (k : Strm) (e : Env) (r : Run) (d : TaskDef) (st : StreamRt) (i : FlxW) (a : Nat) (m : Mx), ((met s e r st) : Mx).operand (instrCx k e r d st i) (tySize i.ty) (tySize i.ty) false true = .ok (.sq a) m →
    (AtInstr s k e .stw r d st i → kept r.ctx (m.store (instrCx k e r d st i) a (natLe (tySize i.ty) st.wa.toNat)).r → exec (.stw k e) s = .next (retired k r i (m.store (instrCx k e r d st i) a (natLe (tySize i.ty) st.wa.toNat)) .next)) ∧
    (AtInstr s k e .stwb r d st i → kept r.ctx (m.store (instrCx k e r d st i) a (natLe (tySize i.ty) st.wb.toNat)).r → exec (.stwb k e) s = .next (retired k r i (m.store (instrCx k e r d st i) a (natLe (tySize i.ty) st.wb.toNat)) .next))) ∧
  (∀ (s : State) (k : Strm) (e : Env) (r : Run) (d : TaskDef) (st : StreamRt) (i : FlxW) (p : Nat) (m : Mx), ((met s e r st) : Mx).operand (instrCx k e r d st i) (tySize i.ty) (tySize i.ty) false true = .ok (.scr p) m → kept r.ctx m.r →
    (AtInstr s k e .stw r d st i → exec (.stw k e) s = .next (retired k r i { m with st := { m.st with scr := memWrL m.st.scr p (natLe (tySize i.ty) st.wa.toNat) } } .next)) ∧
    (AtInstr s k e .stwb r d st i → exec (.stwb k e) s = .next (retired k r i { m with st := { m.st with scr := memWrL m.st.scr p (natLe (tySize i.ty) st.wb.toNat) } } .next)))

/-- Where the source operand reads as v, ADD, SUB, MUL, DIV, ANDW, ORW, XORW, MIN, MAX, LIMIT, SHL, SHR, ROL, ROR and the six compares hand back
their result of WA and v at the type (WA, WB, LA and flags as that result names them; the four arithmetic ones if no arithmetic trap is due),
every other register of the stream is unchanged, and the machine is as the read leaves it. (R64, R75, 03_logic_instruction_set Table 3-7.) -/
def Obligations.FlxWordOperations : Prop :=
  ∀ (s : State) (k : Strm) (e : Env) (r : Run) (d : TaskDef) (st : StreamRt) (i : FlxW) (v : Nat) (m : Mx), ((met s e r st) : Mx).source (instrCx k e r d st i) = .ok v m → kept r.ctx m.r →
    (AtInstr s k e .addw r d st i → (resAdd i.ty m.st.mode m.st.wa.toNat v).trap = false → exec (.addw k e) s = .next (retired k r i { m with st := (resAdd i.ty m.st.mode m.st.wa.toNat v).on m.st } .next)) ∧
    (AtInstr s k e .subw r d st i → (resSub i.ty m.st.mode m.st.wa.toNat v).trap = false → exec (.subw k e) s = .next (retired k r i { m with st := (resSub i.ty m.st.mode m.st.wa.toNat v).on m.st } .next)) ∧
    (AtInstr s k e .mulw r d st i → (resMul i.ty m.st.mode m.st.wa.toNat v).trap = false → exec (.mulw k e) s = .next (retired k r i { m with st := (resMul i.ty m.st.mode m.st.wa.toNat v).on m.st } .next)) ∧
    (AtInstr s k e .divw r d st i → (resDiv i.ty m.st.mode m.st.wa.toNat v).trap = false → exec (.divw k e) s = .next (retired k r i { m with st := (resDiv i.ty m.st.mode m.st.wa.toNat v).on m.st } .next)) ∧
    (AtInstr s k e .andw r d st i → exec (.andw k e) s = .next (retired k r i { m with st := (resBits i.ty (low i.ty m.st.wa.toNat &&& low i.ty v)).on m.st } .next)) ∧
    (AtInstr s k e .orw r d st i → exec (.orw k e) s = .next (retired k r i { m with st := (resBits i.ty (low i.ty m.st.wa.toNat ||| low i.ty v)).on m.st } .next)) ∧
    (AtInstr s k e .xorw r d st i → exec (.xorw k e) s = .next (retired k r i { m with st := (resBits i.ty (low i.ty m.st.wa.toNat ^^^ low i.ty v)).on m.st } .next)) ∧
    (AtInstr s k e .minw r d st i → exec (.minw k e) s = .next (retired k r i { m with st := (resPick i.ty [m.st.wa.toNat, v] (tyLesser i.ty m.st.wa.toNat v)).on m.st } .next)) ∧
    (AtInstr s k e .maxw r d st i → exec (.maxw k e) s = .next (retired k r i { m with st := (resPick i.ty [m.st.wa.toNat, v] (tyGreater i.ty m.st.wa.toNat v)).on m.st } .next)) ∧
    (AtInstr s k e .limit r d st i → exec (.limit k e) s = .next (retired k r i { m with st := (resPick i.ty [m.st.wa.toNat, m.st.wb.toNat, v] (tyLesser i.ty (tyGreater i.ty m.st.wa.toNat m.st.wb.toNat) v)).on m.st } .next)) ∧
    (AtInstr s k e .shl r d st i → exec (.shl k e) s = .next (retired k r i { m with st := (resShl i.ty m.st.wa.toNat v).on m.st } .next)) ∧
    (AtInstr s k e .shr r d st i → exec (.shr k e) s = .next (retired k r i { m with st := (resShr i.ty m.st.wa.toNat v).on m.st } .next)) ∧
    (AtInstr s k e .rol r d st i → exec (.rol k e) s = .next (retired k r i { m with st := (resRol i.ty m.st.wa.toNat v).on m.st } .next)) ∧
    (AtInstr s k e .ror r d st i → exec (.ror k e) s = .next (retired k r i { m with st := (resRor i.ty m.st.wa.toNat v).on m.st } .next)) ∧
    (AtInstr s k e .ceq r d st i → exec (.ceq k e) s = .next (retired k r i { m with st := (resCmp i.ty (fun o => o = .eq) false m.st.wa.toNat v).on m.st } .next)) ∧
    (AtInstr s k e .cne r d st i → exec (.cne k e) s = .next (retired k r i { m with st := (resCmp i.ty (fun o => o ≠ .eq) true m.st.wa.toNat v).on m.st } .next)) ∧
    (AtInstr s k e .cgt r d st i → exec (.cgt k e) s = .next (retired k r i { m with st := (resCmp i.ty (fun o => o = .gt) false m.st.wa.toNat v).on m.st } .next)) ∧
    (AtInstr s k e .cge r d st i → exec (.cge k e) s = .next (retired k r i { m with st := (resCmp i.ty (fun o => o ≠ .lt) false m.st.wa.toNat v).on m.st } .next)) ∧
    (AtInstr s k e .clt r d st i → exec (.clt k e) s = .next (retired k r i { m with st := (resCmp i.ty (fun o => o = .lt) false m.st.wa.toNat v).on m.st } .next)) ∧
    (AtInstr s k e .cle r d st i → exec (.cle k e) s = .next (retired k r i { m with st := (resCmp i.ty (fun o => o ≠ .gt) false m.st.wa.toNat v).on m.st } .next))

/-- NOT, NEG, ABS, SQRT and CVT hand back their result of WA at the type that ARG names (NEG and ABS if no arithmetic trap is due; CVT never raises
one), every other register of the stream is unchanged, and nothing of the machine changes but the run the stream belongs to. (R71, R74,
03_logic_instruction_set Table 3-8.) -/
def Obligations.FlxUnary : Prop :=
  ∀ (s : State) (k : Strm) (e : Env) (r : Run) (d : TaskDef) (st : StreamRt) (i : FlxW), kept r.ctx r →
    (AtInstr s k e .notw r d st i → exec (.notw k e) s = .next (retired k r i ⟨(met s e r st).s, r, (resNot (bits i.arg 0 4) st.wa.toNat).on st⟩ .next)) ∧
    (AtInstr s k e .negw r d st i → (resNeg (bits i.arg 0 4) st.mode st.wa.toNat).trap = false → exec (.negw k e) s = .next (retired k r i ⟨(met s e r st).s, r, (resNeg (bits i.arg 0 4) st.mode st.wa.toNat).on st⟩ .next)) ∧
    (AtInstr s k e .absw r d st i → (resAbs (bits i.arg 0 4) st.mode st.wa.toNat).trap = false → exec (.absw k e) s = .next (retired k r i ⟨(met s e r st).s, r, (resAbs (bits i.arg 0 4) st.mode st.wa.toNat).on st⟩ .next)) ∧
    (AtInstr s k e .sqrt r d st i → exec (.sqrt k e) s = .next (retired k r i ⟨(met s e r st).s, r, (resSqrt (bits i.arg 0 4) st.mode st.wa.toNat).on st⟩ .next)) ∧
    (AtInstr s k e .cvt r d st i → exec (.cvt k e) s = .next (retired k r i ⟨(met s e r st).s, r, (resCvt (bits i.arg 0 4) (bits i.arg 4 4) (bitOf i.arg 8) st.mode st.wa.toNat).on st⟩ .next))

/-- Where its table has 1 to 65,536 entries (the header and the chosen entry readable), TBL takes the entry of index WA, clamped to the table, into
WA, and V says that it was clamped. Where its table has 2 to 32 points whose x values increase strictly, LIN takes the interpolated value into
WA, with V and SI; a NaN in WA gives the default NaN and SI. MOVB of WB[19:0] bytes, source readable and destination WA[39:0] writable, stores
the source bytes at the destination; of 0 bytes it does nothing. No other register of the stream changes. (R76, 03_logic_instruction_set Table
3-7.) -/
def Obligations.FlxTables : Prop :=
  (∀ (s : State) (k : Strm) (e : Env) (r : Run) (d : TaskDef) (st : StreamRt) (i : FlxW) (o : Opnd) (n j : Nat) (m m' : Mx) (bs : List Byte), ((met s e r st) : Mx).table (instrCx k e r d st i) 1 65536 = .ok (o, n) m →
    j = (if sgn 64 m.st.wa.toNat < 0 then 0 else min (sgn 64 m.st.wa.toNat).toNat (n - 1)) →
    m.more (instrCx k e r d st i) o (8 + j * tySize i.ty) (tySize i.ty) = .ok bs m' → kept r.ctx m'.r →
    (AtInstr s k e .tbl r d st i → exec (.tbl k e) s = .next (retired k r i { m' with st := { m'.st with wa := BitVec.ofNat 64 (ext i.ty (leNat bs)), fl := ({ v := some (decide (sgn 64 m.st.wa.toNat ≠ j)) } : WordRes).flags m'.st.fl } } .next))) ∧
  (∀ (s : State) (k : Strm) (e : Env) (r : Run) (d : TaskDef) (st : StreamRt) (i : FlxW) (o : Opnd) (n : Nat) (m m' : Mx) (bs : List Byte) (f : FpRes), ((met s e r st) : Mx).table (instrCx k e r d st i) 2 32 = .ok (o, n) m →
    m.more (instrCx k e r d st i) o 8 (2 * n * tySize i.ty) = .ok bs m' → linOrdered i.ty (linPairs (tySize i.ty) n bs) = true →
    f = (if tyNan i.ty (low i.ty m'.st.wa.toNat) then ⟨(fmtOf i.ty).defNan, false, true⟩
         else linEval i.ty (modeRnd m'.st.mode) (low i.ty m'.st.wa.toNat) (linPairs (tySize i.ty) n bs)) → kept r.ctx m'.r →
    (AtInstr s k e .lin r d st i → exec (.lin k e) s = .next (retired k r i { m' with st := { m'.st with wa := BitVec.ofNat 64 f.bits, fl := ({ v := some f.v, si := f.si } : WordRes).flags m'.st.fl } } .next))) ∧
  (∀ (s : State) (k : Strm) (e : Env) (r : Run) (d : TaskDef) (st : StreamRt) (i : FlxW), st.wb.toNat % 2 ^ 20 = 0 → kept r.ctx r → (AtInstr s k e .movb r d st i → exec (.movb k e) s = .next (retired k r i (met s e r st) .next))) ∧
  (∀ (s : State) (k : Strm) (e : Env) (r : Run) (d : TaskDef) (st : StreamRt) (i : FlxW) (o : Opnd) (m m' : Mx) (bs : List Byte), st.wb.toNat % 2 ^ 20 ≠ 0 →
    ((met s e r st) : Mx).operand (instrCx k e r d st i) (st.wb.toNat % 2 ^ 20) 1 true false = .ok o m →
    m.s.laneRefuses e.newRules r.task .wr (st.wa.toNat % 2 ^ 40) (st.wb.toNat % 2 ^ 20) = none →
    m.fetch (instrCx k e r d st i) o 0 (st.wb.toNat % 2 ^ 20) = .ok bs m' → kept r.ctx (m'.store (instrCx k e r d st i) (st.wa.toNat % 2 ^ 40) bs).r →
    (AtInstr s k e .movb r d st i → exec (.movb k e) s = .next (retired k r i (m'.store (instrCx k e r d st i) (st.wa.toNat % 2 ^ 40) bs) .next)))

/-- Where its 32-byte record resolves, is readable and writable, has the TYPE of the instruction and zeros in its reserved places, a timer
instruction takes IN from LA and PT from WA (0 where WA is negative), puts the timer’s step at the cycle’s release time into STATE, START and ET
of the record, and leaves Q in LA and ET in WA; no other register of the stream changes. (R77, R78, 03_logic_instruction_set Table 3-10a.) -/
def Obligations.FlxTimers : Prop :=
  ∀ (s : State) (k : Strm) (e : Env) (r : Run) (d : TaskDef) (st : StreamRt) (i : FlxW) (o : Opnd) (bs : List Byte) (m : Mx), ((met s e r st) : Mx).recordOp (instrCx k e r d st i) 32 8 = .ok (o, bs) m → recNum bs 1 1 < 8 → recNum bs 2 6 = 0 → recNum bs 24 8 = 0 →
    (∀ (t : Timer) (m' : Mx), recNum bs 0 1 = 0x01 → t = (tonStep (relTime m.r.rel) (sgn 64 m.st.wa.toNat).toNat m.st.la ⟨bitOf (recNum bs 1 1) 0, bitOf (recNum bs 1 1) 1, bitOf (recNum bs 1 1) 2, recNum bs 8 8, recNum bs 16 8⟩) →
      m' = ((m.put (instrCx k e r d st i) o 1 [BitVec.ofNat 8 (b2n m.st.la + 2 * b2n t.q + 4 * b2n t.run)]).put (instrCx k e r d st i) o 8 (natLe 8 t.start ++ natLe 8 t.et)) → kept r.ctx m'.r →
      AtInstr s k e .ton r d st i → exec (.ton k e) s = .next (retired k r i { m' with st := { m'.st with la := t.q, wa := BitVec.ofNat 64 t.et } } .next)) ∧
    (∀ (t : Timer) (m' : Mx), recNum bs 0 1 = 0x02 → t = (tofStep (relTime m.r.rel) (sgn 64 m.st.wa.toNat).toNat m.st.la ⟨bitOf (recNum bs 1 1) 0, bitOf (recNum bs 1 1) 1, bitOf (recNum bs 1 1) 2, recNum bs 8 8, recNum bs 16 8⟩) →
      m' = ((m.put (instrCx k e r d st i) o 1 [BitVec.ofNat 8 (b2n m.st.la + 2 * b2n t.q + 4 * b2n t.run)]).put (instrCx k e r d st i) o 8 (natLe 8 t.start ++ natLe 8 t.et)) → kept r.ctx m'.r →
      AtInstr s k e .tof r d st i → exec (.tof k e) s = .next (retired k r i { m' with st := { m'.st with la := t.q, wa := BitVec.ofNat 64 t.et } } .next)) ∧
    (∀ (t : Timer) (m' : Mx), recNum bs 0 1 = 0x03 → t = (tpStep (relTime m.r.rel) (sgn 64 m.st.wa.toNat).toNat m.st.la ⟨bitOf (recNum bs 1 1) 0, bitOf (recNum bs 1 1) 1, bitOf (recNum bs 1 1) 2, recNum bs 8 8, recNum bs 16 8⟩) →
      m' = ((m.put (instrCx k e r d st i) o 1 [BitVec.ofNat 8 (b2n m.st.la + 2 * b2n t.q + 4 * b2n t.run)]).put (instrCx k e r d st i) o 8 (natLe 8 t.start ++ natLe 8 t.et)) → kept r.ctx m'.r →
      AtInstr s k e .tp r d st i → exec (.tp k e) s = .next (retired k r i { m' with st := { m'.st with la := t.q, wa := BitVec.ofNat 64 t.et } } .next))

/-- Where its 16-byte record resolves, is readable and writable, has a TYPE the instruction permits and zeros in its reserved places: CRST stores LA
as RST and, if LA = 1, 0 as CV; CLOAD stores LA as LDR and, if LA = 1 and RST = 0, WA as CV; CTU, CTD and CTUD count the rising edges of their
inputs unless RST or LDR is set, store the inputs and the count, clear RST and LDR, and put the count in WA and the limit bits in LA (and, CTUD,
in WB). No other register of the stream changes. (R79, 03_logic_instruction_set Table 3-10a.) -/
def Obligations.FlxCounters : Prop :=
  ∀ (s : State) (k : Strm) (e : Env) (r : Run) (d : TaskDef) (st : StreamRt) (i : FlxW) (o : Opnd) (bs : List Byte) (m : Mx), ((met s e r st) : Mx).recordOp (instrCx k e r d st i) 16 8 = .ok (o, bs) m → recNum bs 1 1 < 16 → recNum bs 2 6 = 0 →
    (∀ (m' : Mx), (recNum bs 0 1 = 0x11 ∨ recNum bs 0 1 = 0x12 ∨ recNum bs 0 1 = 0x13) →
      m' = ((m.put (instrCx k e r d st i) o 1 [BitVec.ofNat 8 (b2n (bitOf (recNum bs 1 1) 0) + 2 * b2n (bitOf (recNum bs 1 1) 1) + 4 * b2n m.st.la + 8 * b2n (bitOf (recNum bs 1 1) 3))]).put (instrCx k e r d st i) o 8 (natLe 8 (unsgn 64 (if m.st.la then 0 else (sgn 64 (recNum bs 8 8)))))) → kept r.ctx m'.r →
      AtInstr s k e .crst r d st i → exec (.crst k e) s = .next (retired k r i { m' with st := { m'.st with la := m.st.la, wa := m.st.wa, wb := m.st.wb } } .next)) ∧
    (∀ (m' : Mx), (recNum bs 0 1 = 0x11 ∨ recNum bs 0 1 = 0x12 ∨ recNum bs 0 1 = 0x13) →
      m' = ((m.put (instrCx k e r d st i) o 1 [BitVec.ofNat 8 (b2n (bitOf (recNum bs 1 1) 0) + 2 * b2n (bitOf (recNum bs 1 1) 1) + 4 * b2n (bitOf (recNum bs 1 1) 2) + 8 * b2n m.st.la)]).put (instrCx k e r d st i) o 8 (natLe 8 (unsgn 64 (if m.st.la && !(bitOf (recNum bs 1 1) 2) then sgn 64 m.st.wa.toNat else (sgn 64 (recNum bs 8 8)))))) → kept r.ctx m'.r →
      AtInstr s k e .cload r d st i → exec (.cload k e) s = .next (retired k r i { m' with st := { m'.st with la := m.st.la, wa := m.st.wa, wb := m.st.wb } } .next)) ∧
    (∀ (cv : Int) (m' : Mx), cv = countStep ⟨(bitOf (recNum bs 1 1) 0), (bitOf (recNum bs 1 1) 1), (bitOf (recNum bs 1 1) 2), (bitOf (recNum bs 1 1) 3), (sgn 64 (recNum bs 8 8))⟩ (m.st.la && !(bitOf (recNum bs 1 1) 0)) false → recNum bs 0 1 = 0x11 →
      m' = ((m.put (instrCx k e r d st i) o 1 [BitVec.ofNat 8 (b2n m.st.la + 2 * b2n (bitOf (recNum bs 1 1) 1) + 4 * b2n false + 8 * b2n false)]).put (instrCx k e r d st i) o 8 (natLe 8 (unsgn 64 cv))) → kept r.ctx m'.r →
      AtInstr s k e .ctu r d st i → exec (.ctu k e) s = .next (retired k r i { m' with st := { m'.st with la := decide (cv ≥ sgn 64 m.st.wa.toNat), wa := BitVec.ofNat 64 (unsgn 64 cv), wb := m.st.wb } } .next)) ∧
    (∀ (cv : Int) (m' : Mx), cv = countStep ⟨(bitOf (recNum bs 1 1) 0), (bitOf (recNum bs 1 1) 1), (bitOf (recNum bs 1 1) 2), (bitOf (recNum bs 1 1) 3), (sgn 64 (recNum bs 8 8))⟩ false (m.st.la && !(bitOf (recNum bs 1 1) 1)) → recNum bs 0 1 = 0x12 →
      m' = ((m.put (instrCx k e r d st i) o 1 [BitVec.ofNat 8 (b2n (bitOf (recNum bs 1 1) 0) + 2 * b2n m.st.la + 4 * b2n false + 8 * b2n false)]).put (instrCx k e r d st i) o 8 (natLe 8 (unsgn 64 cv))) → kept r.ctx m'.r →
      AtInstr s k e .ctd r d st i → exec (.ctd k e) s = .next (retired k r i { m' with st := { m'.st with la := decide (cv ≤ 0), wa := BitVec.ofNat 64 (unsgn 64 cv), wb := m.st.wb } } .next)) ∧
    (∀ (cv : Int) (m' : Mx), cv = countStep ⟨(bitOf (recNum bs 1 1) 0), (bitOf (recNum bs 1 1) 1), (bitOf (recNum bs 1 1) 2), (bitOf (recNum bs 1 1) 3), (sgn 64 (recNum bs 8 8))⟩ (m.st.la && !(bitOf (recNum bs 1 1) 0)) (m.st.wb.getLsbD 0 && !(bitOf (recNum bs 1 1) 1)) → recNum bs 0 1 = 0x13 →
      m' = ((m.put (instrCx k e r d st i) o 1 [BitVec.ofNat 8 (b2n m.st.la + 2 * b2n (m.st.wb.getLsbD 0) + 4 * b2n false + 8 * b2n false)]).put (instrCx k e r d st i) o 8 (natLe 8 (unsgn 64 cv))) → kept r.ctx m'.r →
      AtInstr s k e .ctud r d st i → exec (.ctud k e) s = .next (retired k r i { m' with st := { m'.st with la := decide (cv ≥ sgn 64 m.st.wa.toNat), wa := BitVec.ofNat 64 (unsgn 64 cv), wb := if cv ≤ 0 then 1 else 0 } } .next))

/-- Where its one-byte record resolves, is readable and writable and holds 0 or 1, EDGP sets LA ← LA AND NOT M, EDGN sets LA ← M AND NOT LA, and both
then set M to the incoming LA; no other register of the stream changes. A second detector on the same byte of the state space, by the same
stream, sees the M that the first one wrote. (R80.) -/
def Obligations.FlxEdges : Prop :=
  (∀ (s : State) (k : Strm) (e : Env) (r : Run) (d : TaskDef) (st : StreamRt) (i : FlxW) (o : Opnd) (b : Bool) (m m' : Mx), ((met s e r st) : Mx).recordOp (instrCx k e r d st i) 1 1 = .ok (o, [if b then 1 else 0]) m →
    m' = m.put (instrCx k e r d st i) o 0 [if m.st.la then 1 else 0] → kept r.ctx m'.r →
    (AtInstr s k e .edgp r d st i → exec (.edgp k e) s = .next (retired k r i { m' with st := { m'.st with la := m.st.la && !b } } .next)) ∧
    (AtInstr s k e .edgn r d st i → exec (.edgn k e) s = .next (retired k r i { m' with st := { m'.st with la := b && !m.st.la } } .next))) ∧
  (∀ (c : Cx) (m : Mx) (a : Nat) (b : Bool), (m.put c (.sq a) 0 [if b then 1 else 0]).bytes a 1 = [if b then 1 else 0])

/-- Where neither its place nor its slot forbids it, JMP and CALL retire with a branch to their first word + 4 × offset that is taken as COND of LA
says, and RET, at a depth above 0, with a taken branch to W15[31:0]; a taken CALL below depth 255 puts the address after its slot in W15 and a
CALL not taken leaves W15. LOOP and LOOPW, their last word not beyond that of the innermost level: with count 0 the stream goes on after the
body; with another count and fewer than 4 levels a level is opened and the stream goes on at the body’s first word. Nothing else of the stream
changes. (R86, R89, R90, R92, 04_exceptions_loops_slots Loops.) -/
def Obligations.FlxBranches : Prop :=
  (∀ (s : State) (k : Strm) (e : Env) (r : Run) (d : TaskDef) (st : StreamRt) (i : FlxW), branchBad (instrCx k e r d st i) (met s e r st) = none → kept r.ctx r →
    (AtInstr s k e .jmp r d st i → exec (.jmp k e) s = .next (retired k r i (met s e r st) (.branch ⟨st.pc, condHolds i.cond st.la, brTarget (instrCx k e r d st i) (met s e r st), .jmp⟩))) ∧
    (AtInstr s k e .call r d st i → condHolds i.cond st.la = false → exec (.call k e) s = .next (retired k r i (met s e r st) (.branch ⟨st.pc, false, brTarget (instrCx k e r d st i) (met s e r st), .call⟩))) ∧
    (AtInstr s k e .call r d st i → condHolds i.cond st.la = true → st.depth < 255 → exec (.call k e) s = .next (retired k r i ⟨(met s e r st).s, r, st.setReg 15 (afterSlot (instrCx k e r d st i) (met s e r st))⟩ (.branch ⟨st.pc, true, brTarget (instrCx k e r d st i) (met s e r st), .call⟩))) ∧
    (AtInstr s k e .ret r d st i → 0 < st.depth → exec (.ret k e) s = .next (retired k r i (met s e r st) (.branch ⟨st.pc, true, st.reg 15 % 2 ^ 32, .ret⟩)))) ∧
  (∀ (s : State) (k : Strm) (e : Env) (r : Run) (d : TaskDef) (st : StreamRt) (i : FlxW) (n : Nat), (∀ l ∈ st.lvs.head?, st.pc + 4 * i.len ≤ l.last) → st.lvs.length < 4 → kept r.ctx r →
    (AtInstr s k e .loop r d st i → n = i.cnt → n = 0 → exec (.loop k e) s = .next (retired k r i (met s e r st) (.goto (st.pc + 4 + 4 * i.len)))) ∧
    (AtInstr s k e .loop r d st i → n = i.cnt → n ≠ 0 → exec (.loop k e) s = .next (retired k r i ⟨(met s e r st).s, r, { st with lvs := ⟨st.pc + 4, st.pc + 4 * i.len, n, st.depth⟩ :: st.lvs }⟩ (.goto (st.pc + 4)))) ∧
    (AtInstr s k e .loopw r d st i → n = st.reg i.lpn % 2 ^ 32 → n = 0 → exec (.loopw k e) s = .next (retired k r i (met s e r st) (.goto (st.pc + 4 + 4 * i.len)))) ∧
    (AtInstr s k e .loopw r d st i → n = st.reg i.lpn % 2 ^ 32 → n ≠ 0 → exec (.loopw k e) s = .next (retired k r i ⟨(met s e r st).s, r, { st with lvs := ⟨st.pc + 4, st.pc + 4 * i.len, n, st.depth⟩ :: st.lvs }⟩ (.goto (st.pc + 4)))))

/-- END with an empty NS ends the stream; SYNC makes it wait where its task has more than one stream; MODESET retires with the new MODE in its
shadow; SETEV notes an activation of the event number and DIAG a record of the code and the PC, both for the cycle’s commit; TRAP retires and
raises exception 0x0F with its code. No register of the stream changes. (R83, R84, R94, R101, 03_logic_instruction_set Table 3-8.) -/
def Obligations.FlxSteering : Prop :=
  ∀ (s : State) (k : Strm) (e : Env) (r : Run) (d : TaskDef) (st : StreamRt) (i : FlxW), kept r.ctx r →
    (AtInstr s k e .endS r d st i → st.ns = [] → exec (.endS k e) s = .next (retired k r i (met s e r st) .fin)) ∧
    (AtInstr s k e .sync r d st i → exec (.sync k e) s = .next (retired k r i (met s e r st) .sync)) ∧
    (AtInstr s k e .modeset r d st i → exec (.modeset k e) s = .next (retired k r i (met s e r st) (.mode (BitVec.ofNat 4 i.arg)))) ∧
    (AtInstr s k e .setev r d st i → exec (.setev k e) s = .next (retired k r i ⟨(met s e r st).s, { r with fx := r.fx ++ [.setev (bits i.arg 0 8)] }, st⟩ .next)) ∧
    (AtInstr s k e .diag r d st i → exec (.diag k e) s = .next (retired k r i ⟨(met s e r st).s, { r with fx := r.fx ++ [.diag (bits i.arg 0 16) st.pc] }, st⟩ .next)) ∧
    (AtInstr s k e .trap r d st i → exec (.trap k e) s = .next (raised k r i (met s e r st) (doneStream k r i (met s e r st) (.trap (bits i.arg 0 8))) ⟨0x0F, 0, 0, bits i.arg 0 8⟩ (some st.pc)))

/-- Where the device address resolves and may be read: if both copies of the read take one value, WA takes it, extended; if they differ but the two
copies of a second read agree, WA takes that value and DIVCNT advances. Nothing else of the stream changes, and of the machine, if no divergence
record is asked for, only that count. (R82, R146, R147.) -/
def Obligations.FlxLiveReads : Prop :=
  ∀ (s : State) (k : Strm) (e : Env) (r : Run) (d : TaskDef) (st : StreamRt) (i : FlxW) (p : Nat × Bool) (m m' : Mx), ((met s e r st) : Mx).address (instrCx k e r d st i) i.ty (tySize i.ty) = .ok p m → m.check (instrCx k e r d st i) .live p.1 (tySize i.ty) = .ok () m' → kept r.ctx m'.r →
    (AtInstr s k e .ldlive r d st i → (liveVal i.ty (m'.s.deviceRead p.1) e.prim) = (liveVal i.ty (m'.s.deviceRead p.1) e.shad) → exec (.ldlive k e) s = .next (retired k r i { m' with st := { m'.st with wa := BitVec.ofNat 64 (ext i.ty (liveVal i.ty (m'.s.deviceRead p.1) e.prim)) } } .next)) ∧
    (AtInstr s k e .ldliveh r d st i → (liveVal i.ty (m'.s.deviceRead p.1) e.prim) = (liveVal i.ty (m'.s.deviceRead p.1) e.shad) → exec (.ldliveh k e) s = .next (retired k r i { m' with st := { m'.st with wa := BitVec.ofNat 64 (ext i.ty (liveVal i.ty (m'.s.deviceRead p.1) e.prim)) } } .next)) ∧
    (AtInstr s k e .ldlive r d st i → (liveVal i.ty (m'.s.deviceRead p.1) e.prim) ≠ (liveVal i.ty (m'.s.deviceRead p.1) e.shad) → (liveVal i.ty (m'.s.deviceRead p.1) e.prim2) = (liveVal i.ty (m'.s.deviceRead p.1) e.shad2) → (m'.s.bump XNG_DIVCNT_DIVCNT).flag XNG_CTL_DIVEVT = false → exec (.ldlive k e) s = .next (retired k r i ⟨m'.s.bump XNG_DIVCNT_DIVCNT, m'.r, { m'.st with wa := BitVec.ofNat 64 (ext i.ty (liveVal i.ty (m'.s.deviceRead p.1) e.prim2)) }⟩ .next)) ∧
    (AtInstr s k e .ldliveh r d st i → (liveVal i.ty (m'.s.deviceRead p.1) e.prim) ≠ (liveVal i.ty (m'.s.deviceRead p.1) e.shad) → (liveVal i.ty (m'.s.deviceRead p.1) e.prim2) = (liveVal i.ty (m'.s.deviceRead p.1) e.shad2) → (m'.s.bump XNG_DIVCNT_DIVCNT).flag XNG_CTL_DIVEVT = false → exec (.ldliveh k e) s = .next (retired k r i ⟨m'.s.bump XNG_DIVCNT_DIVCNT, m'.r, { m'.st with wa := BitVec.ofNat 64 (ext i.ty (liveVal i.ty (m'.s.deviceRead p.1) e.prim2)) }⟩ .next))

/-- Where every stream of a cycle waits at a SYNC or has ended and one waits, SYNC_RELEASE lets the waiting ones go on, makes what the streams have
stored since the last SYNC visible to all of them, and changes nothing else; where one still executes, nothing happens. (R84,
03_logic_instruction_set SYNC_RELEASE.) -/
def Obligations.SyncRelease : Prop :=
  (∀ (c : Ctx) (t : TaskNo) (s : State) (r : Run), s.run? c t.val = some r → (∀ x ∈ r.streams, x.st ≠ .go) → (∃ x ∈ r.streams, x.st = .sync) →
    Gives (.syncRelease c t) s fun u => u = { s with sched := u.sched } ∧
      u.run? r.ctx r.task = some { r with shared := r.stores, streams := r.streams.map (fun x => { x with own := [], st := if x.st = .sync then .go else x.st }) }) ∧
  (∀ (c : Ctx) (t : TaskNo) (s : State) (r : Run), s.run? c t.val = some r → (∃ x ∈ r.streams, x.st = .go) → Gives (.syncRelease c t) s fun u => u = s)

/-- A JMP, CALL, RET, LOOP, LOOPW, END, SYNC or MODESET that stands in a MODESET shadow does not execute: it raises exception 0x03 (illegal
instruction) with DETAIL 0x05, its stream handed on as it was. (R95.) -/
def Obligations.ShadowBarsControl : Prop :=
  ∀ (s : State) (k : Strm) (e : Env) (r : Run) (d : TaskDef) (st : StreamRt) (i : FlxW), st.sh.isSome = true →
    (AtWord s k e .jmp r d st i → exec (.jmp k e) s = .next (raised k r i (met s e r st) st ⟨0x03, 0x05, 0, 0⟩ none)) ∧
    (AtWord s k e .call r d st i → exec (.call k e) s = .next (raised k r i (met s e r st) st ⟨0x03, 0x05, 0, 0⟩ none)) ∧
    (AtWord s k e .ret r d st i → exec (.ret k e) s = .next (raised k r i (met s e r st) st ⟨0x03, 0x05, 0, 0⟩ none)) ∧
    (AtWord s k e .loop r d st i → exec (.loop k e) s = .next (raised k r i (met s e r st) st ⟨0x03, 0x05, 0, 0⟩ none)) ∧
    (AtWord s k e .loopw r d st i → exec (.loopw k e) s = .next (raised k r i (met s e r st) st ⟨0x03, 0x05, 0, 0⟩ none)) ∧
    (AtWord s k e .endS r d st i → exec (.endS k e) s = .next (raised k r i (met s e r st) st ⟨0x03, 0x05, 0, 0⟩ none)) ∧
    (AtWord s k e .sync r d st i → exec (.sync k e) s = .next (raised k r i (met s e r st) st ⟨0x03, 0x05, 0, 0⟩ none)) ∧
    (AtWord s k e .modeset r d st i → exec (.modeset k e) s = .next (raised k r i (met s e r st) st ⟨0x03, 0x05, 0, 0⟩ none))

/-- A stream starts a cycle at depth 0. A taken CALL below 255 retires and, its slot instruction retired, the depth is one higher; a RET above 0, one
lower; a CALL not taken and a JMP leave it. A taken CALL at depth 255 and a RET at depth 0 raise exception 0x0E instead, the stream handed on
with every register as it was, W15 included. (R89.) -/
def Obligations.CallDepth : Prop :=
  (∀ (d : TaskDef) (k : Nat), (StreamRt.start d k).depth = 0) ∧
  (∀ (st : StreamRt) (b : Branch) (size size' lanes : Nat), let st' := (st.retire size (.branch b) lanes).retire size' .next lanes
    st'.depth = (if b.taken then (match b.kind with | .call => st.depth + 1 | .ret => st.depth - 1 | .jmp => st.depth) else st.depth)) ∧
  (∀ (s : State) (k : Strm) (e : Env) (r : Run) (d : TaskDef) (st : StreamRt) (i : FlxW), branchBad (instrCx k e r d st i) (met s e r st) = none → condHolds i.cond st.la = true → st.depth ≥ 255 → AtInstr s k e .call r d st i →
    exec (.call k e) s = .next (raised k r i (met s e r st) st ⟨0x0E, 0, 0, 0⟩ none)) ∧
  (∀ (s : State) (k : Strm) (e : Env) (r : Run) (d : TaskDef) (st : StreamRt) (i : FlxW), branchBad (instrCx k e r d st i) (met s e r st) = none → condHolds i.cond st.la = true → st.depth < 255 → kept r.ctx r → AtInstr s k e .call r d st i →
    exec (.call k e) s = .next (retired k r i ⟨(met s e r st).s, r, st.setReg 15 (afterSlot (instrCx k e r d st i) (met s e r st))⟩ (.branch ⟨st.pc, true, brTarget (instrCx k e r d st i) (met s e r st), .call⟩))) ∧
  (∀ (s : State) (k : Strm) (e : Env) (r : Run) (d : TaskDef) (st : StreamRt) (i : FlxW), branchBad (instrCx k e r d st i) (met s e r st) = none → st.depth = 0 → AtInstr s k e .ret r d st i → exec (.ret k e) s = .next (raised k r i (met s e r st) st ⟨0x0E, 0, 0, 0⟩ none)) ∧
  (∀ (s : State) (k : Strm) (e : Env) (r : Run) (d : TaskDef) (st : StreamRt) (i : FlxW), branchBad (instrCx k e r d st i) (met s e r st) = none → 0 < st.depth → kept r.ctx r → AtInstr s k e .ret r d st i → exec (.ret k e) s = .next (retired k r i (met s e r st) (.branch ⟨st.pc, true, st.reg 15 % 2 ^ 32, .ret⟩)))

/-- At every integer type and TIME, with a and b the values of the low bits of WA and of the source: ADD, SUB and MUL give a value of the type that
equals the exact sum, difference or product where that is representable; where it is not, V is set and the result is the exact one modulo 2 to
the width, or, with MODE.SAT, the nearer limit of the type. V is clear where it is representable. C of ADD is the carry out of the width and C of
SUB the borrow. (R64, R62, 03_logic_instruction_set Table 3-2, 03_logic_instruction_set Table 3-7.) -/
def Obligations.IntegerArithmetic : Prop :=
  ∀ (ty : Nat) (mode : BitVec 4) (a b : Nat), (tySU ty = true ∨ ty = 11) →
    (∃ x, (resAdd ty mode a b).wa = some x ∧ (resAdd ty mode a b).v = some (decide ((tyVal ty a + tyVal ty b) < tyMin ty) || decide ((tyVal ty a + tyVal ty b) > tyMax ty)) ∧
      (tyMin ty ≤ (tyVal ty a + tyVal ty b) → (tyVal ty a + tyVal ty b) ≤ tyMax ty → tyVal ty x = (tyVal ty a + tyVal ty b)) ∧
      (modeSat mode = false → (tyVal ty x - (tyVal ty a + tyVal ty b)) % (2 ^ tyWidth ty : Nat) = 0) ∧
      (modeSat mode = true → (tyVal ty a + tyVal ty b) < tyMin ty → tyVal ty x = tyMin ty) ∧ (modeSat mode = true → tyMax ty < (tyVal ty a + tyVal ty b) → tyVal ty x = tyMax ty)) ∧
    (∃ x, (resSub ty mode a b).wa = some x ∧ (resSub ty mode a b).v = some (decide ((tyVal ty a - tyVal ty b) < tyMin ty) || decide ((tyVal ty a - tyVal ty b) > tyMax ty)) ∧
      (tyMin ty ≤ (tyVal ty a - tyVal ty b) → (tyVal ty a - tyVal ty b) ≤ tyMax ty → tyVal ty x = (tyVal ty a - tyVal ty b)) ∧
      (modeSat mode = false → (tyVal ty x - (tyVal ty a - tyVal ty b)) % (2 ^ tyWidth ty : Nat) = 0) ∧
      (modeSat mode = true → (tyVal ty a - tyVal ty b) < tyMin ty → tyVal ty x = tyMin ty) ∧ (modeSat mode = true → tyMax ty < (tyVal ty a - tyVal ty b) → tyVal ty x = tyMax ty)) ∧
    (∃ x, (resMul ty mode a b).wa = some x ∧ (resMul ty mode a b).v = some (decide ((tyVal ty a * tyVal ty b) < tyMin ty) || decide ((tyVal ty a * tyVal ty b) > tyMax ty)) ∧
      (tyMin ty ≤ (tyVal ty a * tyVal ty b) → (tyVal ty a * tyVal ty b) ≤ tyMax ty → tyVal ty x = (tyVal ty a * tyVal ty b)) ∧
      (modeSat mode = false → (tyVal ty x - (tyVal ty a * tyVal ty b)) % (2 ^ tyWidth ty : Nat) = 0) ∧
      (modeSat mode = true → (tyVal ty a * tyVal ty b) < tyMin ty → tyVal ty x = tyMin ty) ∧ (modeSat mode = true → tyMax ty < (tyVal ty a * tyVal ty b) → tyVal ty x = tyMax ty)) ∧
    (resAdd ty mode a b).c = some (decide (a % 2 ^ tyWidth ty + b % 2 ^ tyWidth ty ≥ 2 ^ tyWidth ty)) ∧
    (resSub ty mode a b).c = some (decide (a % 2 ^ tyWidth ty < b % 2 ^ tyWidth ty))

/-- At every integer type and TIME: with a divisor other than 0, DIV leaves in WB a remainder smaller in magnitude than the divisor and with the
dividend’s sign (or 0), and in WA, where the quotient is representable, the quotient for which quotient × divisor + remainder is the dividend; V
says whether it is representable. With divisor 0 and TRAPV = 0, WA takes 0, WB the dividend, and SD is set; with TRAPV = 1 the arithmetic trap is
due. With TRAPV = 1 an unrepresentable result of ADD, SUB, MUL or DIV makes the trap due. (R64, 03_logic_instruction_set Table 3-7.) -/
def Obligations.IntegerDivision : Prop :=
  ∀ (ty : Nat) (mode : BitVec 4) (a b : Nat), (tySU ty = true ∨ ty = 11) →
    (tyVal ty b ≠ 0 → ∃ q m, (resDiv ty mode a b).wa = some q ∧ (resDiv ty mode a b).wb = some m ∧ (tyVal ty m).natAbs < (tyVal ty b).natAbs ∧
      (0 ≤ tyVal ty a → 0 ≤ tyVal ty m) ∧ (tyVal ty a ≤ 0 → tyVal ty m ≤ 0) ∧
      ((resDiv ty mode a b).v = some false → tyVal ty q * tyVal ty b + tyVal ty m = tyVal ty a) ∧
      ((resDiv ty mode a b).trap = true ↔ (resDiv ty mode a b).v = some true ∧ modeTrapv mode = true)) ∧
    (tyVal ty b = 0 → modeTrapv mode = false → (resDiv ty mode a b).wa = some 0 ∧ (∃ m, (resDiv ty mode a b).wb = some m ∧ tyVal ty m = tyVal ty a) ∧ (resDiv ty mode a b).sd = true) ∧
    (tyVal ty b = 0 → modeTrapv mode = true → (resDiv ty mode a b).trap = true) ∧
    (modeTrapv mode = true → (tyVal ty a + tyVal ty b < tyMin ty ∨ tyMax ty < tyVal ty a + tyVal ty b) → (resAdd ty mode a b).trap = true) ∧
    (modeTrapv mode = true → (tyVal ty a - tyVal ty b < tyMin ty ∨ tyMax ty < tyVal ty a - tyVal ty b) → (resSub ty mode a b).trap = true) ∧
    (modeTrapv mode = true → (tyVal ty a * tyVal ty b < tyMin ty ∨ tyMax ty < tyVal ty a * tyVal ty b) → (resMul ty mode a b).trap = true)

/-- Where the source operand of ADD, SUB, MUL or DIV reads as v and the operation makes the arithmetic trap due, and where NEG or ABS does, the
instruction raises exception 0x09, its stream handed on with every register and flag as it was. (R64, R97, 04_exceptions_loops_slots Table 4-2.) -/
def Obligations.ArithmeticTrap : Prop :=
  (∀ (s : State) (k : Strm) (e : Env) (r : Run) (d : TaskDef) (st : StreamRt) (i : FlxW) (v : Nat) (m : Mx), ((met s e r st) : Mx).source (instrCx k e r d st i) = .ok v m →
    ((resAdd i.ty st.mode st.wa.toNat v).trap = true → AtInstr s k e .addw r d st i → exec (.addw k e) s = .next (raised k r i m st ⟨0x09, 0, 0, 0⟩ none)) ∧
    ((resSub i.ty st.mode st.wa.toNat v).trap = true → AtInstr s k e .subw r d st i → exec (.subw k e) s = .next (raised k r i m st ⟨0x09, 0, 0, 0⟩ none)) ∧
    ((resMul i.ty st.mode st.wa.toNat v).trap = true → AtInstr s k e .mulw r d st i → exec (.mulw k e) s = .next (raised k r i m st ⟨0x09, 0, 0, 0⟩ none)) ∧
    ((resDiv i.ty st.mode st.wa.toNat v).trap = true → AtInstr s k e .divw r d st i → exec (.divw k e) s = .next (raised k r i m st ⟨0x09, 0, 0, 0⟩ none))) ∧
  (∀ (s : State) (k : Strm) (e : Env) (r : Run) (d : TaskDef) (st : StreamRt) (i : FlxW), ((resNeg (bits i.arg 0 4) st.mode st.wa.toNat).trap = true → AtInstr s k e .negw r d st i → exec (.negw k e) s = .next (raised k r i (met s e r st) st ⟨0x09, 0, 0, 0⟩ none)) ∧
    ((resAbs (bits i.arg 0 4) st.mode st.wa.toNat).trap = true → AtInstr s k e .absw r d st i → exec (.absw k e) s = .next (raised k r i (met s e r st) st ⟨0x09, 0, 0, 0⟩ none)))

/-- Of FL (Z N C V U SV SI SD, bits 0 to 7), ADD and SUB write at most Z N C V SV SI, MUL Z N V SV SI, DIV Z N V SV SI SD, the logic and shift
operations and NOT Z N, MIN, MAX and LIMIT Z N U, the compares U, NEG and ABS Z N V SV, SQRT Z N SI, CVT Z N V SV SI; every other flag keeps its
value, and a sticky flag that is set stays set. (R61, 03_logic_instruction_set Table 3-2, 03_logic_instruction_set Table 3-7,
03_logic_instruction_set Table 3-8.) -/
def Obligations.FlagFrame : Prop :=
  (∀ (ty a b : Nat) (c : Bool) (mode : BitVec 4) (l : List Nat) (rel : Ordering → Bool) (fl : BitVec 8) (k : Nat),
    (¬(k = 0 ∨ k = 1 ∨ k = 2 ∨ k = 3 ∨ k = 5 ∨ k = 6) → ((resAdd ty mode a b).flags fl).getLsbD k = fl.getLsbD k) ∧
    (¬(k = 0 ∨ k = 1 ∨ k = 2 ∨ k = 3 ∨ k = 5 ∨ k = 6) → ((resSub ty mode a b).flags fl).getLsbD k = fl.getLsbD k) ∧
    (¬(k = 0 ∨ k = 1 ∨ k = 3 ∨ k = 5 ∨ k = 6) → ((resMul ty mode a b).flags fl).getLsbD k = fl.getLsbD k) ∧
    (¬(k = 0 ∨ k = 1 ∨ k = 3 ∨ k = 5 ∨ k = 6 ∨ k = 7) → ((resDiv ty mode a b).flags fl).getLsbD k = fl.getLsbD k) ∧
    (¬(k = 0 ∨ k = 1) → ((resBits ty a).flags fl).getLsbD k = fl.getLsbD k) ∧
    (¬(k = 0 ∨ k = 1) → ((resShl ty a b).flags fl).getLsbD k = fl.getLsbD k) ∧
    (¬(k = 0 ∨ k = 1) → ((resShr ty a b).flags fl).getLsbD k = fl.getLsbD k) ∧
    (¬(k = 0 ∨ k = 1) → ((resRol ty a b).flags fl).getLsbD k = fl.getLsbD k) ∧
    (¬(k = 0 ∨ k = 1) → ((resRor ty a b).flags fl).getLsbD k = fl.getLsbD k) ∧
    (¬(k = 0 ∨ k = 1) → ((resNot ty a).flags fl).getLsbD k = fl.getLsbD k) ∧
    (¬(k = 0 ∨ k = 1 ∨ k = 4) → ((resPick ty l a).flags fl).getLsbD k = fl.getLsbD k) ∧
    (¬(k = 4) → ((resCmp ty rel c a b).flags fl).getLsbD k = fl.getLsbD k) ∧
    (¬(k = 0 ∨ k = 1 ∨ k = 3 ∨ k = 5) → ((resNeg ty mode a).flags fl).getLsbD k = fl.getLsbD k) ∧
    (¬(k = 0 ∨ k = 1 ∨ k = 3 ∨ k = 5) → ((resAbs ty mode a).flags fl).getLsbD k = fl.getLsbD k) ∧
    (¬(k = 0 ∨ k = 1 ∨ k = 6) → ((resSqrt ty mode a).flags fl).getLsbD k = fl.getLsbD k) ∧
    (¬(k = 0 ∨ k = 1 ∨ k = 3 ∨ k = 5 ∨ k = 6) → ((resCvt ty b c mode a).flags fl).getLsbD k = fl.getLsbD k)) ∧
  (∀ (w : WordRes) (fl : BitVec 8) (k : Nat), k = 5 ∨ k = 6 ∨ k = 7 → fl.getLsbD k = true → (w.flags fl).getLsbD k = true)

/-- Reading an operand of an FLX instruction changes no register of its stream, no byte of the Square and nothing of the scheduler; of the run only
its read set, and of a speculative run that it is abandoned. Storing a result changes nothing of the machine but the overlay pool’s two counts of
a speculative run: its bytes stand among the stream’s own stores. Retiring changes nothing of the machine but the run the stream belongs to and,
of a speculative run that ends, SPC_TASKSTAT.SSTATE of its task and the count of runs in flight; unless the task’s real run has left a held
exception, or a count of its read set gone over, for a decision that is over and stands on no lane any more: then that is raised next.
(03_logic_instruction_set R64, R84, R97, R123, R126.) -/
def Obligations.FlxFrame : Prop :=
  (∀ (c : Cx) (m m' : Mx) (v : Nat), m.source c = .ok v m' → Reads m m') ∧ (∀ (c : Cx) (m m' : Mx) (b : Bool), m.bool c = .ok b m' → Reads m m') ∧
  (∀ (c : Cx) (m m' : Mx) (o : Opnd) (n al : Nat) (rd wr : Bool), m.operand c n al rd wr = .ok o m' → Reads m m') ∧
  (∀ (c : Cx) (m m' : Mx) (p : Nat × Bool) (ty al : Nat), m.address c ty al = .ok p m' → Reads m m') ∧
  (∀ (c : Cx) (m m' : Mx) (x : Opnd × List Byte) (n al : Nat), m.recordOp c n al = .ok x m' → Reads m m') ∧
  (∀ (c : Cx) (m : Mx) (o : Opnd) (off : Nat) (bs : List Byte), m.s.RegsOk → RegsOnly m.s (m.put c o off bs).s [(SPC_POOLUSE_PAGES, 0), (SPC_POOLUSE_POOLFULL, 0)]) ∧
  (∀ (k : Strm) (r : Run) (i : FlxW) (m : Mx) (a : After) (t : State), m.s.RegsOk → t = m.s.flxPut m.r k.stream.val (doneStream k r i m a) →
    t = { m.s with regs := t.regs, sched := { m.s.sched with runs := t.sched.runs } } ∧ OnlyRegs m.s t [(SPC_TASKSTAT_SSTATE, m.r.task), (SPC_CTL_INFLIGHT, 0)] ∧
    (∀ (c : Ctx) (n : Nat), c.key n ≠ m.r.ctx.key m.r.task → t.run? c n = m.s.run? c n) ∧
    ((∀ q, t.run? .real r.task = some q → (q.st = .xcp && (q.held.isSome || q.abandoned) && q.streams.all (fun x => x.lane.isNone) && !t.undecided r.task) = false) →
      retired k r i m a = t))

/-- In a module that is not off: a watched source silent for TIMEOUT base ticks (WEDGE_DECISION), mains absent on both inputs (MAINS_LOSS_DECISION),
a bus below 36 V (BUS_UNDERVOLTAGE), a temperature at its critical limit (TEMPERATURE_CRITICAL) and, in a running module, KERBSTOP through a
management port make the Kerb decide the Kerb set with causes 1, 2, 2, 3 and 4: the last-words record is taken, the module is in power state K
(PSTATE = 4) with TRIPPED set, and the safe-state drivers hold the outputs. KERBSTOP through a host queue does not. (R17, R19, R20, R21, R463,
R468, R483.) -/
def Obligations.KerbSetDecisions : Prop :=
  ∀ (s : State), s.RegsOk → s.kerb.phase ≠ .off →
    let K := fun (cause : Nat) (t : State) => t.kerb.phase = .off ∧ (∃ k, t.kerb.kset = some k ∧ k.cause = cause ∧ k.csn = s.sq.csn ∧ k.time = s.now) ∧
      t.getF PWR_STAT_PSTATE = 4 ∧ t.getF KRB_HBCFG_TRIPPED = 1 ∧ t.io.safe = true
    (∀ (src : Fin 8) (ticks : Nat), bitOf (s.getF KRB_HBCFG_WATCHED) src.val = true →
      s.getF KRB_HBCFG_TIMEOUT ≤ tabGet 0 s.kerb.miss src.val + ticks → Gives (.wedgeDecision src ticks) s (K 1)) ∧
    (∀ m, s.getF PWR_STAT_MAINSA = 0 → s.getF PWR_STAT_MAINSB = 0 → Gives (.mainsLossDecision m) s (K 2)) ∧
    (∀ m, m.bus.toNat % 2 ^ 16 < 3600 → Gives (.busUndervoltage m) s (K 2)) ∧
    (∀ m, 1250 ≤ sgn 16 (m.temp.toNat / 2 ^ 16) ∨ 1050 ≤ sgn 16 (m.temp2.toNat / 2 ^ 16) ∨ 950 ≤ sgn 16 (m.temp2.toNat % 2 ^ 16) →
      Gives (.temperatureCritical m) s (K 3)) ∧
    (∀ n, s.Runs → Gives (.kerbstop (.mgmt n)) s fun t => t.kerb.phase = .off ∧ (∃ k, t.kerb.kset = some k ∧ k.cause = 4) ∧ t.getF PWR_STAT_PSTATE = 4 ∧ t.io.safe = true) ∧
    (∀ q, s.Runs → Gives (.kerbstop (.queue q)) s fun t => RegsOnlyW 1 s t [(KRB_IGNSTAT_CAUSE, 0), (KRB_IGNADDR_OFFSET, 0), (KRB_IGNPATH_PATH, 0)] ∧ t.getF KRB_IGNSTAT_CAUSE = 7)

/-- Each event takes the sensors’ values into their registers. SAG_STEP_DOWN puts the sag step that the bus voltage permits, SAG_STEP_UP the next
higher one where the voltage is 1.0 V above its threshold; THERMAL_STEP_DOWN and THERMAL_STEP_UP move the thermal step by one where the
temperatures call for it; the lane clock follows as the lowest step of its causes. STORE_FAULT sets STOREFLT, COOLANT_RESTORED sets COOLOK and
clears CAPPED, COOLANT_LOSS clears COOLOK and TEMPERATURE_WARNING only measures. Beside the listed registers only the event log and the Kerb’s
own step changes. (R464, R465, R466, R468, R473, 18_startup_power_configuration Table 18-2.) -/
def Obligations.SupplyEvents : Prop :=
  ∀ (s : State) (m : PwrMeas), s.RegsOk →
    (s.kerb.sag < sagOf (m.bus.toNat % 2 ^ 16) → Gives (.sagStepDown m) s fun t => t.kerb = { s.kerb with sag := sagOf (m.bus.toNat % 2 ^ 16) } ∧ t.getF PWR_BUS_V = m.bus.toNat % 2 ^ 16 ∧
      t.getF PWR_STAT_LANECLK = clkStep (sagOf (m.bus.toNat % 2 ^ 16)) s.kerb.therm (s.flag PWR_STAT_CAPPED) (s.flag PWR_STAT_STOREFLT) ∧ t = { s with regs := t.regs, arc := t.arc, kerb := t.kerb } ∧ OnlyRegs s t (sensorFields ++ [(PWR_STAT_LANECLK, 0), (PWR_STAT_SAG, 0), (PWR_STAT_THERM, 0), (PWR_STAT_SAGCNT, 0)])) ∧
    (0 < s.kerb.sag → sagFloor (s.kerb.sag - 1) + 100 ≤ m.bus.toNat % 2 ^ 16 → Gives (.sagStepUp m) s fun t => t.kerb = { s.kerb with sag := s.kerb.sag - 1 } ∧
      t.getF PWR_STAT_LANECLK = clkStep (s.kerb.sag - 1) s.kerb.therm (s.flag PWR_STAT_CAPPED) (s.flag PWR_STAT_STOREFLT) ∧ t = { s with regs := t.regs, arc := t.arc, kerb := t.kerb } ∧ OnlyRegs s t (sensorFields ++ [(PWR_STAT_LANECLK, 0), (PWR_STAT_SAG, 0), (PWR_STAT_THERM, 0), (PWR_STAT_SAGCNT, 0)])) ∧
    (s.kerb.therm < 4 → 1050 ≤ sgn 16 (m.temp.toNat / 2 ^ 16) ∨ 950 ≤ sgn 16 (m.temp2.toNat / 2 ^ 16) → Gives (.thermalStepDown m) s fun t =>
      t.kerb = { s.kerb with therm := s.kerb.therm + 1 } ∧ t.getF PWR_STAT_LANECLK = clkStep s.kerb.sag (s.kerb.therm + 1) (s.flag PWR_STAT_CAPPED) (s.flag PWR_STAT_STOREFLT) ∧
      t = { s with regs := t.regs, arc := t.arc, kerb := t.kerb } ∧ OnlyRegs s t (sensorFields ++ [(PWR_STAT_LANECLK, 0), (PWR_STAT_SAG, 0), (PWR_STAT_THERM, 0), (PWR_STAT_THCNT, 0)])) ∧
    (0 < s.kerb.therm → sgn 16 (m.temp.toNat / 2 ^ 16) ≤ 1000 → sgn 16 (m.temp2.toNat / 2 ^ 16) ≤ 900 → Gives (.thermalStepUp m) s fun t =>
      t.kerb = { s.kerb with therm := s.kerb.therm - 1 } ∧ t.getF PWR_STAT_LANECLK = clkStep s.kerb.sag (s.kerb.therm - 1) (s.flag PWR_STAT_CAPPED) (s.flag PWR_STAT_STOREFLT) ∧
      t = { s with regs := t.regs, arc := t.arc, kerb := t.kerb } ∧ OnlyRegs s t (sensorFields ++ [(PWR_STAT_LANECLK, 0), (PWR_STAT_SAG, 0), (PWR_STAT_THERM, 0), (PWR_STAT_THCNT, 0)])) ∧
    (s.getF PWR_STAT_STOREFLT = 0 → Gives (.storeFault m) s fun t => t.getF PWR_STAT_STOREFLT = 1 ∧
      t.getF PWR_STAT_LANECLK = clkStep s.kerb.sag s.kerb.therm (s.flag PWR_STAT_CAPPED) true ∧
      t = { s with regs := t.regs, arc := t.arc } ∧ OnlyRegs s t (sensorFields ++ [(PWR_STAT_STOREFLT, 0), (PWR_STAT_LANECLK, 0), (PWR_STAT_SAG, 0), (PWR_STAT_THERM, 0)])) ∧
    Gives (.temperatureWarning m) s (fun t => t.getF PWR_TEMP_DIE = m.temp.toNat / 2 ^ 16 ∧ t = { s with regs := t.regs, arc := t.arc } ∧ OnlyRegs s t (sensorFields)) ∧
    (m.flow.toNat % 2 ^ 16 < 100 → s.kerb.phase ≠ .boot → s.isLead = false → Gives (.coolantLoss m) s fun t => t.kerb = { s.kerb with coolGone := true } ∧
      t.getF PWR_STAT_COOLOK = 0 ∧ t.getF PWR_STAT_CAPPED ≠ 0 ∧ t = { s with regs := t.regs, arc := t.arc, kerb := t.kerb } ∧ OnlyRegs s t (sensorFields ++ [(PWR_STAT_COOLOK, 0), (PWR_STAT_CAPPED, 0), (PWR_STAT_LANECLK, 0), (PWR_STAT_SAG, 0), (PWR_STAT_THERM, 0)])) ∧
    (200 ≤ m.flow.toNat % 2 ^ 16 → Gives (.coolantRestored m) s fun t => t.kerb = { s.kerb with coolGone := false } ∧ t.getF PWR_STAT_COOLOK = 1 ∧ t.getF PWR_STAT_CAPPED = 0 ∧
      t.getF PWR_STAT_LANECLK = clkStep s.kerb.sag s.kerb.therm false (s.flag PWR_STAT_STOREFLT) ∧
      t = { s with regs := t.regs, arc := t.arc, kerb := t.kerb } ∧ OnlyRegs s t (sensorFields ++ [(PWR_STAT_COOLOK, 0), (PWR_STAT_CAPPED, 0), (PWR_STAT_LANECLK, 0), (PWR_STAT_SAG, 0), (PWR_STAT_THERM, 0)]))

/-- HEARTBEAT counts its source as heard in this base tick, ends the count of its silence, and puts a source 0 to 5 whose quarter is neither parked
nor asleep into the watched set; a Square controller whose page map is in doubt sends none. LAST_WORDS_COMMIT writes the record of the Kerb set
as the youngest of the ring, with the next sequence number. MAINS_INPUT_CHANGE shows the input as present or absent. POWER_STATE_WAKE_END puts
the module in the power state it woke to. Nothing else changes but what each clause names. (R17, R21, R22, R170, R462, R470.) -/
def Obligations.KerbHousekeeping : Prop :=
  ∀ (s : State), s.RegsOk →
    (∀ (src : Fin 8), src.val = 6 → s.flag SQR_ECCSTAT_PMAPERR = true → Gives (.heartbeat src) s fun t => t = s) ∧
    (∀ (src : Fin 8), (src.val ≠ 6 ∨ s.flag SQR_ECCSTAT_PMAPERR = false) → Gives (.heartbeat src) s fun t => t.kerb = { s.kerb with hb := s.kerb.hb ||| 2 ^ src.val, miss := tabDel s.kerb.miss src.val } ∧
      (src.val < 6 → s.qParked src.val = false → s.qAsleep src.val = false → t.isWatched src.val = true) ∧ t = { s with regs := t.regs, kerb := t.kerb } ∧ OnlyRegs s t ([(KRB_HBCFG_WATCHED, 0)])) ∧
    (∀ (fail : BitVec 40) (k : KSet), s.kerb.kset = some k → Gives (.lastWordsCommit fail) s fun t => t.kerb.kset = none ∧ t.kerb.lwSeq = (s.kerb.lwSeq + 1) % 2 ^ 32 ∧
      t.kerb.lastWords.getLast? = some (lastWordsBytes s.kerb.lwSeq k fail.toNat) ∧ t.getF BOT_RSTCAUSE_LWCAUSE = k.cause % 2 ^ 8 ∧ t = { s with regs := t.regs, kerb := t.kerb } ∧ OnlyRegs s t ([(BOT_RSTCAUSE_LWCAUSE, 0)])) ∧
    (∀ (b present : Bool) (at_ : Nat) (m : PwrMeas), Gives (.mainsInputChange b present at_ m) s fun t => t.flag (mainsFld b) = present ∧ t.getF PWR_MAINSA_V = (s.measure m).getF PWR_MAINSA_V ∧
      t = { s with regs := t.regs, arc := t.arc, kerb := t.kerb } ∧ OnlyRegs s t (sensorFields ++ [(mainsFld b, 0)])) ∧
    (∀ (w : Nat), s.kerb.wake = some w → Gives (.powerStateWakeEnd) s fun t => t.getF PWR_STAT_PSTATE = w % 2 ^ 3 ∧ t.kerb.wake = none ∧
      t = { s with regs := t.regs, kerb := t.kerb, host := t.host } ∧ OnlyRegs s t ([(PWR_STAT_PSTATE, 0), (KRB_HBCFG_WATCHED, 0)]))

/-- BASE_TICK begins the next base tick: in a running module the tick’s number is one higher whatever the tick carries out, no record of a coalescing
window remains owed, and the queue, the canonical forms and what has been emitted are kept; in state K, in RECOVERY and in a restart that has
stopped only the time passes, by 62.5 µs. (R24, R249, R20.) -/
def Obligations.BaseTick : Prop :=
  (∀ (w : TickSeen) (s : State), s.Runs → Gives (.baseTick w) s fun t => t.tick = s.tick + 1 ∧ (∀ w ∈ t.wins, w.recDue = false) ∧ t.pending = s.pending ∧ s.out <+: t.out ∧
      (s.RegsOk → t.RegsOk)) ∧
  (∀ (w : TickSeen) (s : State), s.kerb.phase ≠ .run → s.kerb.phase ≠ .boot → Gives (.baseTick w) s fun t => t = { s with tick := s.tick + 1, now := (s.tick + 1) * 62500 })

/-- A write of SCH_MODE.REQ by a running module that is neither TRACK, FOLLOW nor SUSPECT is taken into the base tick with the position of SAFETY-
EDIT (where a safety task is configured) and its path; in these three states it is ignored with cause 3. An init task that has run for 10 s
without a commit is stopped by watchdog (WDSTOP, WDOG set), no other init task waits, and the change to STOP is due at the next base tick. (R40,
R47, R49, R492, R500.) -/
def Obligations.ModeRequests : Prop :=
  (∀ (p : Path) (s : State), s.Runs → s.RegsOk → s.getF PAR_STAT_STATE ≠ 2 → s.getF PAR_STAT_STATE ≠ 3 → s.getF PAR_STAT_STATE ≠ 4 →
    Gives (.modeRequestRun p) s (fun t => t.sched = { s.sched with modeReqs := s.sched.modeReqs ++ [(1, s.anySafety && !s.safetyEdit, some p)] } ∧
          t = { s with regs := t.regs, sched := t.sched } ∧ OnlyRegsW 3 s t []) ∧
    Gives (.modeRequestHold p) s (fun t => t.sched = { s.sched with modeReqs := s.sched.modeReqs ++ [(2, s.anySafety && !s.safetyEdit, some p)] } ∧
          t = { s with regs := t.regs, sched := t.sched } ∧ OnlyRegsW 3 s t []) ∧
    Gives (.modeRequestStop p) s (fun t => t.sched = { s.sched with modeReqs := s.sched.modeReqs ++ [(0, s.anySafety && !s.safetyEdit, some p)] } ∧
          t = { s with regs := t.regs, sched := t.sched } ∧ OnlyRegsW 3 s t [])) ∧
  (∀ (p : Path) (s : State), s.Runs → s.RegsOk → (s.getF PAR_STAT_STATE = 2 ∨ s.getF PAR_STAT_STATE = 3 ∨ s.getF PAR_STAT_STATE = 4) →
    Gives (.modeRequestRun p) s (fun t => RegsOnlyW 3 s t [(KRB_IGNSTAT_CAUSE, 0), (KRB_IGNADDR_OFFSET, 0), (KRB_IGNPATH_PATH, 0)] ∧ t.getF KRB_IGNSTAT_CAUSE = 3) ∧
    Gives (.modeRequestHold p) s (fun t => RegsOnlyW 3 s t [(KRB_IGNSTAT_CAUSE, 0), (KRB_IGNADDR_OFFSET, 0), (KRB_IGNPATH_PATH, 0)] ∧ t.getF KRB_IGNSTAT_CAUSE = 3) ∧
    Gives (.modeRequestStop p) s (fun t => RegsOnlyW 3 s t [(KRB_IGNSTAT_CAUSE, 0), (KRB_IGNADDR_OFFSET, 0), (KRB_IGNPATH_PATH, 0)] ∧ t.getF KRB_IGNSTAT_CAUSE = 3)) ∧
  (∀ (k : TaskNo) (s : State) (r : Run), s.RegsOk → s.run? .real k.val = some r → s.kind k.val = 3 → r.rel * 62500 + 10000000000 ≤ s.tick * 62500 →
    Gives (.initTaskTimeout k) s fun t => t.getF SCH_TASKSTAT_STATE k.val = 3 ∧ t.getF SCH_TASKSTAT_WDOG k.val = 1 ∧ t.sched.accepted = [(0, s.tick + 1)] ∧ t.sched.inits = [])

/-- Where one accepted change is due: to HOLD from RUN, with no exception pending and no speculative run, MODE becomes HOLD, and of the other
register fields only those that show which tasks are armed for speculation can change; back to RUN from HOLD, MODE becomes RUN, and beside them
only the catch-up and lag of the tasks can change; to the mode in force, nothing changes but that it is due no more. (R46, R48, R113, R127,
R132.) -/
def Obligations.ModeChange : Prop :=
  ∀ (s : State) (m k : Nat), s.RegsOk → s.sched.accepted = [(m, k)] → k ≤ s.tick → (∀ p ∈ s.sched.runs, p.2.ctx ≠ .spec ∧ p.2.st ≠ .xcp) → (∀ t < 256, s.getF SCH_TASKXCP_PEND t = 0) →
    (m = 2 → s.mode = 1 → Gives .modeChange s fun t => t.mode = 2 ∧ t.sched.accepted = [] ∧ t = { s with regs := t.regs, sched := t.sched, arc := t.arc } ∧
      ∀ (f : Fld) (ix : Nat), f.key ix ≠ SCH_MODE_MODE.key 0 → (∀ d ∈ s.cfg.tasks, f.key ix ≠ SPC_TASKSTAT_SSTATE.key d.no.val) → f.key ix ≠ SPC_CTL_INFLIGHT.key 0 →
        t.getF f ix = s.getF f ix) ∧
    (m = 1 → s.mode = 2 → Gives .modeChange s fun t => t.mode = 1 ∧ t.sched.accepted = [] ∧ t = { s with regs := t.regs, sched := t.sched, arc := t.arc } ∧
      ∀ (f : Fld) (ix : Nat), f.key ix ≠ SCH_MODE_MODE.key 0 → (∀ d ∈ s.cfg.tasks, f.key ix ≠ SCH_TASKSTAT_CATCHUP.key d.no.val ∧ f.key ix ≠ SCH_TASKSTAT_LAGTICKS.key d.no.val) →
        (∀ d ∈ s.cfg.tasks, f.key ix ≠ SPC_TASKSTAT_SSTATE.key d.no.val) → f.key ix ≠ SPC_CTL_INFLIGHT.key 0 → t.getF f ix = s.getF f ix) ∧
    (m = s.mode → Gives .modeChange s fun t => t = { s with sched := { s.sched with accepted := [] } })

/-- Where one execution that is no speculative run is ready in a quarter and the quarter has enough idle lanes for it, TASK_DISPATCH starts it: it
executes, each of its streams without a lane takes the next idle one, and nothing of the machine but the executions changes. (R28, R29, R30.) -/
def Obligations.TaskDispatch : Prop :=
  ∀ (q : Quarter) (s : State) (r : Run), s.runsIn q.val (fun r => r.ctx ≠ .spec && s.dispatchable r) = [r] → (∀ p ∈ s.sched.runs, p.2.ctx ≠ .spec) →
    r.ctx ≠ .spec → r.lanesNeeded ≤ (s.idle q.val).length → s.quarterOf r.task = q.val →
    Gives (.taskDispatch q) s fun t => t.run? r.ctx r.task = some { r with st := .on, started := true, streams := giveLanes (s.idle q.val) r.streams } ∧
      t = { s with sched := { s.sched with runs := t.sched.runs } }

/-- ARCADE_RECORD_PROGRAM programs the oldest staged record of its log, where the logs fit and no retained values wait: that record counts as
programmed, its length is drawn from the write credit down to −864 GB, and OVERBUDGET tells a credit below 0; with nothing staged it changes
nothing. WEAR_GOVERNOR_STEP raises the stretch by one, at most to 6, below a quarter of the cap and lowers it by one from half of it, and shows
the life used. FLASH_TEMPERATURE_HOT shows HOT. Nothing else changes. (R418, R424, R425, R426.) -/
def Obligations.ArcadeFlash : Prop :=
  ∀ (s : State), s.RegsOk →
    (∀ ev, (∀ r ∈ (if ev then s.arc.evs else s.arc.cyc), r.prog = true) → Gives (.arcadeRecordProgram ev) s fun t => t = s) ∧
    (∀ (ev : Bool) (a b : List ArcRec) (r : ArcRec), (if ev then s.arc.evs else s.arc.cyc) = a ++ r :: b → (∀ x ∈ a, x.prog = true) → r.prog = false →
      bitOf r.flags 2 = false → s.arc.retStaged = [] → logBytes s.arc.cyc + logBytes s.arc.evs ≤ arcCapacity →
      Gives (.arcadeRecordProgram ev) s fun t => (if ev then t.arc.evs else t.arc.cyc) = a ++ { r with prog := true } :: b ∧
        (if ev then t.arc.cyc = s.arc.cyc else t.arc.evs = s.arc.evs) ∧ t.arc.credit = max (s.creditNow - (r.length : Nat)) (-864000000000) ∧
        t.flag ARC_STAT_OVERBUDGET = decide (s.creditNow - (r.length : Nat) < 0) ∧ t = { s with regs := t.regs, arc := t.arc } ∧ OnlyRegs s t [(ARC_STAT_OVERBUDGET, 0), (ARC_STAT_CREDIT, 0)]) ∧
    (∀ used, s.getF ARC_STAT_STRETCH ≤ 6 → Gives (.wearGovernorStep used) s fun t =>
      (s.creditNow * 4 < creditCap → t.getF ARC_STAT_STRETCH = min 6 (s.getF ARC_STAT_STRETCH + 1)) ∧
      (creditCap ≤ s.creditNow * 4 → s.creditNow * 2 < creditCap → t.getF ARC_STAT_STRETCH = s.getF ARC_STAT_STRETCH) ∧
      (creditCap ≤ s.creditNow * 2 → t.getF ARC_STAT_STRETCH = s.getF ARC_STAT_STRETCH - 1) ∧
      t.getF ARC_WEAR_USED = used.toNat ∧
      t = { s with regs := t.regs, arc := t.arc } ∧ OnlyRegs s t [(ARC_STAT_OVERBUDGET, 0), (ARC_STAT_CREDIT, 0), (ARC_STAT_STRETCH, 0), (ARC_WEAR_USED, 0)]) ∧
    (∀ hot, Gives (.flashTemperatureHot hot) s fun t => t.flag ARC_STAT_HOT = hot ∧ t = { s with regs := t.regs } ∧ OnlyRegs s t [(ARC_STAT_HOT, 0)])

/-- Writing ARC_CURHI, or NEXT, starts a copy: READY falls and the log selected is the one copied. ARC_CURSOR_READY ends it: with a record at or
above the cursor, the window holds the bytes of the lowest such, FOUND is its number, READY is set and GAP tells that records are missing before
it; with none, NONE is set. Beside the window’s own registers and the bookkeeping of the write nothing changes. (R429, R427.) -/
def Obligations.ArcadeWindow : Prop :=
  ∀ (s : State) (p : Path), s.RegsOk → s.Runs →
    (∀ v, Gives (.arcCursorWrite p v) s fun t => t.getF ARC_CURHI_S p.code = v.toNat ∧ t.getF ARC_CURSTAT_READY p.code = 0 ∧
      tabGet? t.arc.curAsk p.code = some (s.getF ARC_LOGSEL_LOG p.code) ∧ t = { s with regs := t.regs, arc := t.arc } ∧ OnlyRegsW 17 s t [(ARC_CURLO_S, p.code), (ARC_CURHI_S, p.code), (ARC_CURSTAT_READY, p.code), (ARC_CURSTAT_GAP, p.code), (ARC_CURSTAT_NONE, p.code)]) ∧
    (Gives (.arcNext p) s fun t => t.get64 ARC_CURLO_S ARC_CURHI_S p.code = (s.get64 ARC_FOUNDLO_S ARC_FOUNDHI_S p.code + 1) % 2 ^ 64 ∧
      t.getF ARC_CURSTAT_READY p.code = 0 ∧ tabGet? t.arc.curAsk p.code = some (s.getF ARC_LOGSEL_LOG p.code) ∧
      t = { s with regs := t.regs, arc := t.arc } ∧ OnlyRegsW 17 s t [(ARC_CURLO_S, p.code), (ARC_CURHI_S, p.code), (ARC_CURSTAT_READY, p.code), (ARC_CURSTAT_GAP, p.code), (ARC_CURSTAT_NONE, p.code)]) ∧
    (∀ lg r, tabGet? s.arc.curAsk p.code = some lg → (s.arc.log lg).find? (fun r => decide (s.get64 ARC_CURLO_S ARC_CURHI_S p.code ≤ r.seq)) = some r → r.seq < 2 ^ 64 →
      Gives (.arcCursorReady p) s fun t => tabGet? t.arc.wins p.code = some r.bytes ∧ t.get64 ARC_FOUNDLO_S ARC_FOUNDHI_S p.code = r.seq ∧
        t.getF ARC_CURSTAT_READY p.code = 1 ∧ t.flag ARC_CURSTAT_GAP p.code = decide (s.get64 ARC_CURLO_S ARC_CURHI_S p.code < r.seq) ∧
        t = { s with regs := t.regs, arc := t.arc } ∧ OnlyRegs s t [(ARC_FOUNDLO_S, p.code), (ARC_FOUNDHI_S, p.code), (ARC_CURSTAT_READY, p.code), (ARC_CURSTAT_GAP, p.code)]) ∧
    (∀ lg, tabGet? s.arc.curAsk p.code = some lg → (∀ r ∈ s.arc.log lg, r.seq < s.get64 ARC_CURLO_S ARC_CURHI_S p.code) →
      Gives (.arcCursorReady p) s fun t => t.getF ARC_CURSTAT_READY p.code = 1 ∧ t.getF ARC_CURSTAT_NONE p.code = 1 ∧
        t = { s with regs := t.regs, arc := t.arc } ∧ OnlyRegs s t [(ARC_CURSTAT_READY, p.code), (ARC_CURSTAT_NONE, p.code)])

/-- CLREVT with UPDATE-ENABLE (and, for SAFETY records, SAFETY-EDIT) removes the event records up to the written number but those of kind CLEAR and,
without SAFE, SAFETY; CLRCYC with UPDATE-ENABLE the cycle records up to it, never HEAD; ERASE with both switches in START or FENCED empties both
logs and the retained area. Each writes a CLEAR record with the range, the path and the session. Without its switch a command is ignored and
counted, with cause 1 for SAFETY-EDIT and 2 for UPDATE-ENABLE, and ERASE in another pair state with cause 4. (R430, R2, R418.) -/
def Obligations.ArcadeClearing : Prop :=
  ∀ (s : State) (p : Path), s.RegsOk → s.Runs →
    (∀ safe, s.updateEnable = true → (safe = true → s.safetyEdit = true) → Gives (.arcClrevt p safe) s fun t =>
      (∃ r, r.kind = 0x010A ∧ r.seq = s.arc.evSeq ∧ r.payload = words [1, s.get64 ARC_CLRLO_S ARC_CLRHI_S, p.code, (match p with | .mgmt _ => 0xFFFF | .queue n => n.val)] ∧ t.arc.evs = s.arc.evs.filter (fun r => decide (s.get64 ARC_CLRLO_S ARC_CLRHI_S < r.seq) || decide (r.kind = 0x010A) || (decide (r.kind = 0x0106) && !safe)) ++ [r]) ∧ t.arc.cyc = s.arc.cyc ∧ t = { s with regs := t.regs, arc := t.arc } ∧ OnlyRegsW 17 s t []) ∧
    (s.updateEnable = true → Gives (.arcClrcyc p) s fun t =>
      (∃ r, r.kind = 0x010A ∧ r.seq = s.arc.evSeq ∧ r.payload = words [2, s.get64 ARC_CLRLO_S ARC_CLRHI_S, p.code, (match p with | .mgmt _ => 0xFFFF | .queue n => n.val)] ∧ t.arc.evs = s.arc.evs ++ [r]) ∧
      t.arc.cyc = s.arc.cyc.filter (fun r => decide (s.get64 ARC_CLRLO_S ARC_CLRHI_S < r.seq) || decide (r.seq = logHead s.arc.cyc)) ∧ t = { s with regs := t.regs, arc := t.arc } ∧ OnlyRegsW 17 s t []) ∧
    (s.updateEnable = true → s.safetyEdit = true → s.getF PAR_STAT_STATE = 0 ∨ s.getF PAR_STAT_STATE = 8 → Gives (.arcErase p) s fun t =>
      (∃ r, r.kind = 0x010A ∧ r.seq = s.arc.evSeq ∧ r.payload = words [3, 0, p.code, (match p with | .mgmt _ => 0xFFFF | .queue n => n.val)] ∧ t.arc.evs = [r]) ∧ t.arc.cyc = [] ∧ t.arc.ret = [] ∧ t.arc.retStaged = [] ∧ t = { s with regs := t.regs, arc := t.arc } ∧ OnlyRegsW 17 s t []) ∧
    (s.updateEnable = false → (Gives (.arcClrevt p false) s fun t => RegsOnlyW 17 s t [(KRB_IGNSTAT_CAUSE, 0), (KRB_IGNADDR_OFFSET, 0), (KRB_IGNPATH_PATH, 0)] ∧ t.getF KRB_IGNSTAT_CAUSE = 2) ∧ Gives (.arcClrcyc p) s fun t => RegsOnlyW 17 s t [(KRB_IGNSTAT_CAUSE, 0), (KRB_IGNADDR_OFFSET, 0), (KRB_IGNPATH_PATH, 0)] ∧ t.getF KRB_IGNSTAT_CAUSE = 2) ∧
    (s.safetyEdit = false → (Gives (.arcClrevt p true) s fun t => RegsOnlyW 17 s t [(KRB_IGNSTAT_CAUSE, 0), (KRB_IGNADDR_OFFSET, 0), (KRB_IGNPATH_PATH, 0)] ∧ t.getF KRB_IGNSTAT_CAUSE = 1) ∧ Gives (.arcErase p) s fun t => RegsOnlyW 17 s t [(KRB_IGNSTAT_CAUSE, 0), (KRB_IGNADDR_OFFSET, 0), (KRB_IGNPATH_PATH, 0)] ∧ t.getF KRB_IGNSTAT_CAUSE = 1) ∧
    (s.updateEnable = true → s.safetyEdit = true → s.getF PAR_STAT_STATE ≠ 0 → s.getF PAR_STAT_STATE ≠ 8 → Gives (.arcErase p) s fun t => RegsOnlyW 17 s t [(KRB_IGNSTAT_CAUSE, 0), (KRB_IGNADDR_OFFSET, 0), (KRB_IGNPATH_PATH, 0)] ∧ t.getF KRB_IGNSTAT_CAUSE = 4)

/-- POWER_ON and KERB_WATCHDOG begin a restart at step 0 with causes 1 and 2; a Kerb set whose last words are not committed yet is completed first at
POWER_ON (model’s choice, log entry 98: which outputs the readback then finds not safe is a free value). Last words, keys, activation record,
both epoch copies, fuses, PARTNERID, DEGRADED times, the programmed records of both Arcade logs and the retained area are kept; the Square, its
map of spared rows aside, the executions, sessions, field I/O, lanes and plant state are as after reset, and so is every register field but those
a restart keeps, the restart’s own record, the number of the active store, and what shows the write credit and the firmware slots.
RESTART_STEP_FAILED, of a module with nothing in progress, writes last words with cause 5 and the step and puts the module into state K. (R20,
R434, R453, R454, R424.) -/
def Obligations.RestartBegins : Prop :=
  (∀ (s : State) (env : BootEnv), s.kerb.kset = none → Gives (.powerOn env) s fun t => t.fresh = s.fresh ∧ t.kerb.lastWords = s.kerb.lastWords ∧ t.getF BOT_RSTCAUSE_LWCAUSE = s.kerb.lwCause % 2 ^ 8 ∧ t.kerb.phase = .boot ∧ t.kerb.env = env ∧ t.getF BOT_RSTCAUSE_CAUSE = 1 ∧ t.kerb.keys = s.kerb.keys ∧ t.kerb.act = s.kerb.act ∧ t.kerb.fuses = s.kerb.fuses ∧ t.kerb.partnerId = s.kerb.partnerId ∧ t.kerb.degMram = s.kerb.degMram ∧ t.kerb.epochs = s.kerb.epochs ∧ t.arc.cyc = s.arc.cyc.takeWhile ArcRec.prog ∧ t.arc.evs = s.arc.evs.takeWhile ArcRec.prog ∧ t.arc.ret = s.arc.ret ∧
      t = { State.reset with pending := s.pending, regs := t.regs, out := s.out, fresh := t.fresh, now := s.now, tick := s.tick, pkgs := t.pkgs, arc := t.arc, kerb := t.kerb, sq := { State.reset.sq with rowMap := s.sq.rowMap }, pair := t.pair } ∧
      OnlyRegs State.reset t (keptFields.map (fun f => (f, 0)) ++ [(BOT_RSTCAUSE_CAUSE, 0), (BOT_RSTCAUSE_LWCAUSE, 0), (SCH_OLCSTAT_ACTSTORE, 0), (ARC_STAT_OVERBUDGET, 0), (ARC_STAT_CREDIT, 0), (BOT_SLOTSTAT_STATEA, 0), (BOT_SLOTSTAT_STATEB, 0), (BOT_SVN_KERBSVN, 0), (BOT_SVN_MODSVN, 0), (BOT_SVN_SLOTSVN, 0)])) ∧
    (∀ (s : State) (env : BootEnv) (k : KSet), s.kerb.kset = some k → Gives (.powerOn env) s fun t => t.fresh = s.fresh + 1 ∧
      (∃ fail, t.kerb.lastWords = lastN 64 (s.kerb.lastWords ++ [lastWordsBytes s.kerb.lwSeq k fail])) ∧ t.getF BOT_RSTCAUSE_LWCAUSE = k.cause % 2 ^ 8 ∧ t.kerb.phase = .boot ∧ t.kerb.env = env ∧ t.getF BOT_RSTCAUSE_CAUSE = 1 ∧ t.kerb.keys = s.kerb.keys ∧ t.kerb.act = s.kerb.act ∧ t.kerb.fuses = s.kerb.fuses ∧ t.kerb.partnerId = s.kerb.partnerId ∧ t.kerb.degMram = s.kerb.degMram ∧ t.kerb.epochs = s.kerb.epochs ∧ t.arc.cyc = s.arc.cyc.takeWhile ArcRec.prog ∧ t.arc.evs = s.arc.evs.takeWhile ArcRec.prog ∧ t.arc.ret = s.arc.ret ∧
      t = { State.reset with pending := s.pending, regs := t.regs, out := s.out, fresh := t.fresh, now := s.now, tick := s.tick, pkgs := t.pkgs, arc := t.arc, kerb := t.kerb, sq := { State.reset.sq with rowMap := s.sq.rowMap }, pair := t.pair } ∧
      OnlyRegs State.reset t (keptFields.map (fun f => (f, 0)) ++ [(BOT_RSTCAUSE_CAUSE, 0), (BOT_RSTCAUSE_LWCAUSE, 0), (SCH_OLCSTAT_ACTSTORE, 0), (ARC_STAT_OVERBUDGET, 0), (ARC_STAT_CREDIT, 0), (BOT_SLOTSTAT_STATEA, 0), (BOT_SLOTSTAT_STATEB, 0), (BOT_SVN_KERBSVN, 0), (BOT_SVN_MODSVN, 0), (BOT_SVN_SLOTSVN, 0)])) ∧
    (∀ (s : State) (env : BootEnv), Gives (.kerbWatchdog env) s fun t => t.fresh = s.fresh ∧ t.kerb.lastWords = s.kerb.lastWords ∧ t.getF BOT_RSTCAUSE_LWCAUSE = s.kerb.lwCause % 2 ^ 8 ∧ t.kerb.phase = .boot ∧ t.kerb.env = env ∧ t.getF BOT_RSTCAUSE_CAUSE = 2 ∧ t.kerb.keys = s.kerb.keys ∧ t.kerb.act = s.kerb.act ∧ t.kerb.fuses = s.kerb.fuses ∧ t.kerb.partnerId = s.kerb.partnerId ∧ t.kerb.degMram = s.kerb.degMram ∧ t.kerb.epochs = s.kerb.epochs ∧ t.arc.cyc = s.arc.cyc.takeWhile ArcRec.prog ∧ t.arc.evs = s.arc.evs.takeWhile ArcRec.prog ∧ t.arc.ret = s.arc.ret ∧
      t = { State.reset with pending := s.pending, regs := t.regs, out := s.out, fresh := t.fresh, now := s.now, tick := s.tick, pkgs := t.pkgs, arc := t.arc, kerb := t.kerb, sq := { State.reset.sq with rowMap := s.sq.rowMap }, pair := t.pair } ∧
      OnlyRegs State.reset t (keptFields.map (fun f => (f, 0)) ++ [(BOT_RSTCAUSE_CAUSE, 0), (BOT_RSTCAUSE_LWCAUSE, 0), (SCH_OLCSTAT_ACTSTORE, 0), (ARC_STAT_OVERBUDGET, 0), (ARC_STAT_CREDIT, 0), (BOT_SLOTSTAT_STATEA, 0), (BOT_SLOTSTAT_STATEB, 0), (BOT_SVN_KERBSVN, 0), (BOT_SVN_MODSVN, 0), (BOT_SVN_SLOTSVN, 0)])) ∧
    (∀ s : State, s.RegsOk → s.kerb.phase = .boot → s.sched.runs = [] → s.host.sess = [] → s.host.batches = [] → s.host.dups = [] → s.host.locks = [] → s.plant.cuts = [] → s.step_ = 0 → Gives .restartStepFailed s fun t => t.kerb.phase = .off ∧ t.getF PWR_STAT_PSTATE = 4 ∧ t.getF KRB_HBCFG_TRIPPED = 1 ∧ t.io.safe = true ∧
      t.kerb.lwCause = 5 ∧ ∃ k, k.cause = 5 ∧ k.blocks.head? = some (s.getF BOT_STAT_STEP) ∧ t.kerb.lastWords = lastN 64 (s.kerb.lastWords ++ [lastWordsBytes s.kerb.lwSeq k 0]))

/-- KEY_SWITCH_SAMPLE: a switch counts as in its edit or enable position from the eleventh sample in a row on, and as faulty from the 102nd sample in
disagreement; the switch registers of the Kerb and of the safety block show it. SEC_PORTCFG_WRITE needs UPDATE-ENABLE and a port below 118, and
its settings wait for the port’s next SAK, SAKLIFE within 1 to 168; SAK_CHANGE of a keyed port on which no setting waits shows SECURED, KEYSERVER
and PEERS, and sets the transmit PN to 1, counting a replacement; of a port without keys it changes nothing. FUSE_REREAD in a running module
shows the count of marginal bits, remembers the new ones with NEWMARG, and changes no latched value. (R343, R494, R282, R283, R285, R437, R438.) -/
def Obligations.SwitchesAndKeys : Prop :=
  ∀ (s : State), s.RegsOk →
    (∀ a b, Gives (.keySwitchSample a b) s fun t =>
      let x := s.io.keyS.sample a
      let y := s.io.keyU.sample b
      t.io.keyS = x ∧ t.io.keyU = y ∧ t.safetyEdit = decide (11 ≤ x.run) ∧ t.flag SFY_STAT_SWEDIT = decide (11 ≤ x.run) ∧ t.updateEnable = decide (11 ≤ y.run) ∧
        t.flag KRB_SWSTAT_SAFEFLT = decide (102 ≤ x.dis) ∧ t.flag SFY_STAT_SWFLT = decide (102 ≤ x.dis) ∧ t.flag KRB_SWSTAT_UPDFLT = decide (102 ≤ y.dis) ∧
        t = { s with regs := t.regs, arc := t.arc, io := t.io, out := t.out } ∧ OnlyRegs s t [(KRB_SWSTAT_SAFEEDIT, 0), (KRB_SWSTAT_SAFEFLT, 0), (SFY_STAT_SWEDIT, 0), (SFY_STAT_SWFLT, 0), (KRB_SWSTAT_UPDEN, 0), (KRB_SWSTAT_UPDFLT, 0), (KRB_SWSTAT_CHGCNT, 0)]) ∧
    (∀ p v, s.Runs → s.updateEnable = true → s.selIx p .sec < 118 → Gives (.secPortcfgWrite p v) s fun t =>
      t.asWritten SEC_PORTCFG_REPLAYWIN (s.selIx p .sec) = bits v.toNat 0 8 ∧ t.asWritten SEC_PORTCFG_SAKLIFE (s.selIx p .sec) = max 1 (min 168 (bits v.toNat 8 8)) ∧
        t = { s with regs := t.regs, due := t.due } ∧ OnlyRegsW 19 s t []) ∧
    (∀ p v, s.Runs → s.updateEnable = false → Gives (.secPortcfgWrite p v) s fun t => RegsOnlyW 19 s t [(KRB_IGNSTAT_CAUSE, 0), (KRB_IGNADDR_OFFSET, 0), (KRB_IGNPATH_PATH, 0)] ∧ t.getF KRB_IGNSTAT_CAUSE = 2) ∧
    (∀ p v, s.Runs → s.updateEnable = true → 118 ≤ s.selIx p .sec → Gives (.secPortcfgWrite p v) s fun t => RegsOnlyW 19 s t [(KRB_IGNSTAT_CAUSE, 0), (KRB_IGNADDR_OFFSET, 0), (KRB_IGNPATH_PATH, 0)] ∧ t.getF KRB_IGNSTAT_CAUSE = 6) ∧
    (∀ (p : Fin 118) (ks : Bool) (peers : Byte), s.portKeyed p.val = true → (∀ d ∈ s.due, d.wh ≠ .nextSak p.val) → Gives (.sakChange p ks peers) s fun t =>
      t.flag SEC_PORTSTAT_SECURED p.val = true ∧ t.flag SEC_PORTSTAT_KEYSERVER p.val = ks ∧ t.getF SEC_PORTSTAT_PEERS p.val = peers.toNat ∧
        t.get64 SEC_TXPNLO_PN SEC_TXPNHI_PN p.val = 1 ∧ tabGet? t.host.sakAt p.val = some s.now ∧
        (s.flag SEC_PORTSTAT_SECURED p.val = false → t.getF SEC_PORTSTAT_REKEYCNT p.val = s.getF SEC_PORTSTAT_REKEYCNT p.val) ∧
        t = { s with regs := t.regs, host := t.host } ∧ OnlyRegs s t [(SEC_PORTSTAT_SECURED, p.val), (SEC_PORTSTAT_REKEYCNT, p.val), (SEC_PORTSTAT_KEYSERVER, p.val), (SEC_PORTSTAT_PEERS, p.val), (SEC_PORTSTAT_REKEYING, p.val), (SEC_PORTSTAT_EXHAUST, p.val), (SEC_TXPNLO_PN, p.val), (SEC_TXPNHI_PN, p.val)]) ∧
    (∀ (p : Fin 118) (ks : Bool) (peers : Byte), s.portKeyed p.val = false → Gives (.sakChange p ks peers) s fun t => t = s) ∧
    (∀ marg, s.Runs → Gives (.fuseReread marg) s fun t => t.getF BOT_FUSESTAT_MARGCNT = sat 8 marg.length ∧ t.kerb.latched = s.kerb.latched ∧ t.kerb.fuses = s.kerb.fuses ∧
      t.kerb.margNew = s.kerb.margNew ++ (marg.map (fun m => (m.1.val, m.2.val))).filter (fun m => !s.kerb.marg.contains m && !s.kerb.margNew.contains m) ∧
      (t.kerb.margNew ≠ s.kerb.margNew → t.flag BOT_FUSESTAT_NEWMARG = true) ∧
      t = { s with regs := t.regs, arc := t.arc, kerb := t.kerb } ∧ OnlyRegs s t [(BOT_FUSESTAT_MARGCNT, 0), (BOT_FUSESTAT_NEWMARG, 0), (BOT_FUSESTAT_IDMARG, 0)])

/-- In a running module: UPD_OPEN with UPDATE-ENABLE, where the running slot is CONFIRMED, empties the spare slot and sets OPEN, with CHUNKS and
RESULT 0; UPD_CHUNK while OPEN puts the 32 KiB of the window at BOT_UPOFF where their CRC-32C agrees, and sets RESULT 1 where not; UPD_CLOSE with
every chunk there puts the slot into WRITTEN with its bundle; UPD_ARM takes a WRITTEN slot to ARMED and DISARM an ARMED one back. No other slot
and nothing else changes. OPEN and ARM without UPDATE-ENABLE are ignored with cause 2, CHUNK and CLOSE without OPEN, and DISARM of a slot not
ARMED, with cause 4, and RESULT shows 2. (R448, R447, R460.) -/
def Obligations.FirmwareSlot : Prop :=
  ∀ (s : State) (p : Path), s.RegsOk → s.Runs →
    (s.updateEnable = true → (s.slot s.runSlot).st = 4 → Gives (.updOpen p) s fun t => t.slot s.spareSlot = Slot.empty ∧ t.getF BOT_UPDSTAT_OPEN = 1 ∧ t.getF BOT_UPDSTAT_CHUNKS = 0 ∧
      t.getF BOT_UPDSTAT_RESULT = 0 ∧ (∀ m, m ≠ s.spareSlot → t.slot m = s.slot m) ∧ t = { s with regs := t.regs, kerb := { s.kerb with slots := t.kerb.slots } } ∧ OnlyRegsW 18 s t ([(BOT_UPDSTAT_OPEN, 0), (BOT_UPDSTAT_CHUNKS, 0), (BOT_UPDSTAT_RESULT, 0)] ++ [(BOT_SLOTSTAT_STATEA, 0), (BOT_SLOTSTAT_STATEB, 0), (BOT_SVN_KERBSVN, 0), (BOT_SVN_MODSVN, 0), (BOT_SVN_SLOTSVN, 0)])) ∧
    (s.getF BOT_UPDSTAT_OPEN = 1 → crc32c (memRdL s.kerb.upWin 0 32768) = s.getF BOT_UPCRC_CRC → Gives (.updChunk p) s fun t =>
      t.slot s.spareSlot = { s.slot s.spareSlot with chunks := tabSet (s.slot s.spareSlot).chunks (s.getF BOT_UPOFF_OFF) (memRdL s.kerb.upWin 0 32768) } ∧ t.getF BOT_UPDSTAT_RESULT = 0 ∧
      (∀ m, m ≠ s.spareSlot → t.slot m = s.slot m) ∧ t = { s with regs := t.regs, kerb := { s.kerb with slots := t.kerb.slots } } ∧ OnlyRegsW 18 s t ([(BOT_UPDSTAT_CHUNKS, 0), (BOT_UPDSTAT_RESULT, 0)] ++ [(BOT_SLOTSTAT_STATEA, 0), (BOT_SLOTSTAT_STATEB, 0), (BOT_SVN_KERBSVN, 0), (BOT_SVN_MODSVN, 0), (BOT_SVN_SLOTSVN, 0)])) ∧
    (s.getF BOT_UPDSTAT_OPEN = 1 → crc32c (memRdL s.kerb.upWin 0 32768) ≠ s.getF BOT_UPCRC_CRC → Gives (.updChunk p) s fun t =>
      t.getF BOT_UPDSTAT_RESULT = 1 ∧ t = { s with regs := t.regs } ∧ OnlyRegsW 18 s t [(BOT_UPDSTAT_RESULT, 0)]) ∧
    (∀ b, s.getF BOT_UPDSTAT_OPEN = 1 → s.getF BOT_UPLEN_LEN ≠ 0 → chunksUpTo (s.slot s.spareSlot).chunks (s.getF BOT_UPLEN_LEN) = true → Gives (.updClose p b) s fun t =>
      t.slot s.spareSlot = { s.slot s.spareSlot with st := 1, bundle := some b } ∧ t.getF BOT_UPDSTAT_OPEN = 0 ∧ t.getF BOT_UPDSTAT_RESULT = 0 ∧
      (∀ m, m ≠ s.spareSlot → t.slot m = s.slot m) ∧ t = { s with regs := t.regs, kerb := { s.kerb with slots := t.kerb.slots } } ∧ OnlyRegsW 18 s t ([(BOT_UPDSTAT_OPEN, 0), (BOT_UPDSTAT_RESULT, 0)] ++ [(BOT_SLOTSTAT_STATEA, 0), (BOT_SLOTSTAT_STATEB, 0), (BOT_SVN_KERBSVN, 0), (BOT_SVN_MODSVN, 0), (BOT_SVN_SLOTSVN, 0)])) ∧
    (s.updateEnable = true → (s.slot s.runSlot).st = 4 → (s.slot s.spareSlot).st = 1 → Gives (.updArm p) s fun t =>
      t.slot s.spareSlot = { s.slot s.spareSlot with st := 2 } ∧ t.getF BOT_UPDSTAT_RESULT = 0 ∧ (∀ m, m ≠ s.spareSlot → t.slot m = s.slot m) ∧ t = { s with regs := t.regs, kerb := { s.kerb with slots := t.kerb.slots } } ∧ OnlyRegsW 18 s t ([(BOT_UPDSTAT_RESULT, 0)] ++ [(BOT_SLOTSTAT_STATEA, 0), (BOT_SLOTSTAT_STATEB, 0), (BOT_SVN_KERBSVN, 0), (BOT_SVN_MODSVN, 0), (BOT_SVN_SLOTSVN, 0)])) ∧
    ((s.slot s.spareSlot).st = 2 → Gives (.updDisarm p) s fun t =>
      t.slot s.spareSlot = { s.slot s.spareSlot with st := 1 } ∧ t.getF BOT_UPDSTAT_RESULT = 0 ∧ (∀ m, m ≠ s.spareSlot → t.slot m = s.slot m) ∧ t = { s with regs := t.regs, kerb := { s.kerb with slots := t.kerb.slots } } ∧ OnlyRegsW 18 s t ([(BOT_UPDSTAT_RESULT, 0)] ++ [(BOT_SLOTSTAT_STATEA, 0), (BOT_SLOTSTAT_STATEB, 0), (BOT_SVN_KERBSVN, 0), (BOT_SVN_MODSVN, 0), (BOT_SVN_SLOTSVN, 0)])) ∧
    (s.updateEnable = false → (Gives (.updOpen p) s fun t => t = { s with regs := t.regs } ∧ OnlyRegsW 18 s t [(KRB_IGNSTAT_CAUSE, 0), (KRB_IGNADDR_OFFSET, 0), (KRB_IGNPATH_PATH, 0), (BOT_UPDSTAT_RESULT, 0)] ∧ t.getF BOT_UPDSTAT_RESULT = 2 ∧ t.getF KRB_IGNSTAT_CAUSE = 2) ∧ Gives (.updArm p) s fun t => t = { s with regs := t.regs } ∧ OnlyRegsW 18 s t [(KRB_IGNSTAT_CAUSE, 0), (KRB_IGNADDR_OFFSET, 0), (KRB_IGNPATH_PATH, 0), (BOT_UPDSTAT_RESULT, 0)] ∧ t.getF BOT_UPDSTAT_RESULT = 2 ∧ t.getF KRB_IGNSTAT_CAUSE = 2) ∧
    (∀ b, s.getF BOT_UPDSTAT_OPEN = 0 → (Gives (.updChunk p) s fun t => t = { s with regs := t.regs } ∧ OnlyRegsW 18 s t [(KRB_IGNSTAT_CAUSE, 0), (KRB_IGNADDR_OFFSET, 0), (KRB_IGNPATH_PATH, 0), (BOT_UPDSTAT_RESULT, 0)] ∧ t.getF BOT_UPDSTAT_RESULT = 2 ∧ t.getF KRB_IGNSTAT_CAUSE = 4) ∧ Gives (.updClose p b) s fun t => t = { s with regs := t.regs } ∧ OnlyRegsW 18 s t [(KRB_IGNSTAT_CAUSE, 0), (KRB_IGNADDR_OFFSET, 0), (KRB_IGNPATH_PATH, 0), (BOT_UPDSTAT_RESULT, 0)] ∧ t.getF BOT_UPDSTAT_RESULT = 2 ∧ t.getF KRB_IGNSTAT_CAUSE = 4) ∧
    ((s.slot s.spareSlot).st ≠ 2 → Gives (.updDisarm p) s fun t => t = { s with regs := t.regs } ∧ OnlyRegsW 18 s t [(KRB_IGNSTAT_CAUSE, 0), (KRB_IGNADDR_OFFSET, 0), (KRB_IGNPATH_PATH, 0), (BOT_UPDSTAT_RESULT, 0)] ∧ t.getF BOT_UPDSTAT_RESULT = 2 ∧ t.getF KRB_IGNSTAT_CAUSE = 4)

/-- BOT_RESTART of a running module in START, ISOLATED or FENCED with no Kerb set on hand begins a restart with cause 3, elsewhere it is ignored with
cause 4; AUTO_RESTART of a module in state K whose last words’ condition is met and whose AUTORST bit is set begins one with cause 4, else it
changes nothing. BOT_ATTEST puts the evidence for the nonce of the window there. BOT_CONFIRM with UPDATE-ENABLE on PROBATION notes the
confirmation; PROBATION_CONFIRMATION, once the role has been held for CONFMIN minutes, makes the running slot CONFIRMED and the formerly
CONFIRMED one PREVIOUS. In SOLO, BOT_REJECT with UPDATE-ENABLE and the end of the health window put the slot on probation into REJECTED, and the
module runs on. CONFIRM and REJECT without UPDATE-ENABLE are ignored with cause 2. (R442, R449, R450, R453, R454, R455, R460.) -/
def Obligations.ProbationAndRestart : Prop :=
  ∀ (s : State), s.RegsOk →
    (∀ p env, s.Runs → s.kerb.kset = none → s.getF PAR_STAT_STATE = 0 ∨ s.getF PAR_STAT_STATE = 5 ∨ s.getF PAR_STAT_STATE = 8 → Gives (.botRestart p env) s fun t => t.getF BOT_RSTCAUSE_CAUSE = 3 ∧ t.kerb.phase = .boot ∧ t.kerb.env = env ∧ t.kerb.lastWords = s.kerb.lastWords ∧ t.sched = State.reset.sched ∧ t.sq = { State.reset.sq with rowMap := s.sq.rowMap } ∧ t.host = State.reset.host) ∧
    (∀ p env, s.Runs → s.getF PAR_STAT_STATE ≠ 0 → s.getF PAR_STAT_STATE ≠ 5 → s.getF PAR_STAT_STATE ≠ 8 → Gives (.botRestart p env) s fun t => RegsOnlyW 18 s t [(KRB_IGNSTAT_CAUSE, 0), (KRB_IGNADDR_OFFSET, 0), (KRB_IGNPATH_PATH, 0)] ∧ t.getF KRB_IGNSTAT_CAUSE = 4) ∧
    (∀ env, s.kerb.toRestart = none → s.kerb.phase = .off → s.kerb.kset = none → s.autoDue = true → Gives (.autoRestart env) s fun t => t.getF BOT_RSTCAUSE_CAUSE = 4 ∧ t.kerb.phase = .boot ∧ t.kerb.env = env ∧ t.kerb.lastWords = s.kerb.lastWords ∧ t.sched = State.reset.sched ∧ t.sq = { State.reset.sq with rowMap := s.sq.rowMap } ∧ t.host = State.reset.host) ∧
    (∀ env, s.kerb.toRestart = none → s.kerb.phase ≠ .off ∨ s.autoDue = false → Gives (.autoRestart env) s fun t => t = s) ∧
    (∀ p, s.Runs → Gives (.botAttest p) s fun t => t.kerb.evidence = s.evidence (memRdL s.kerb.upWin 0 32) ∧
      t = { s with regs := t.regs, kerb := { s.kerb with evidence := t.kerb.evidence } } ∧ OnlyRegsW 18 s t []) ∧
    (∀ p, s.Runs → s.updateEnable = true → s.getF BOT_STAT_PROBATION = 1 → Gives (.botConfirm p) s fun t =>
      t = { s with regs := t.regs, kerb := { s.kerb with confGiven := true } } ∧ OnlyRegsW 18 s t []) ∧
    (∀ p env, s.Runs → s.updateEnable = false → (Gives (.botConfirm p) s fun t => RegsOnlyW 18 s t [(KRB_IGNSTAT_CAUSE, 0), (KRB_IGNADDR_OFFSET, 0), (KRB_IGNPATH_PATH, 0)] ∧ t.getF KRB_IGNSTAT_CAUSE = 2) ∧ Gives (.botReject p env) s fun t => RegsOnlyW 18 s t [(KRB_IGNSTAT_CAUSE, 0), (KRB_IGNADDR_OFFSET, 0), (KRB_IGNPATH_PATH, 0)] ∧ t.getF KRB_IGNSTAT_CAUSE = 2) ∧
    (∀ p env, s.Runs → s.updateEnable = true → s.getF BOT_STAT_PROBATION = 1 → s.getF PAR_STAT_STATE = 7 → Gives (.botReject p env) s fun t => (t.slot s.runSlot = { s.slot s.runSlot with st := 6 } ∧ (∀ m, m ≠ s.runSlot → t.slot m = s.slot m) ∧ t.getF BOT_STAT_PROBATION = 0 ∧ t.kerb.phase = .run) ∧ t = { s with regs := t.regs, kerb := { s.kerb with slots := t.kerb.slots, rejecting := false, confGiven := false } } ∧
      OnlyRegsW 18 s t ([(BOT_STAT_PROBATION, 0), (BOT_STAT_WINLEFT, 0)] ++ [(BOT_SLOTSTAT_STATEA, 0), (BOT_SLOTSTAT_STATEB, 0), (BOT_SVN_KERBSVN, 0), (BOT_SVN_MODSVN, 0), (BOT_SVN_SLOTSVN, 0)])) ∧
    (∀ env, s.Runs → s.getF BOT_STAT_PROBATION = 1 → s.kerb.winEnd ≤ s.now → s.getF PAR_STAT_STATE = 7 → Gives (.healthwinExpiry env) s fun t => (t.slot s.runSlot = { s.slot s.runSlot with st := 6 } ∧ (∀ m, m ≠ s.runSlot → t.slot m = s.slot m) ∧ t.getF BOT_STAT_PROBATION = 0 ∧ t.kerb.phase = .run) ∧ t = { s with regs := t.regs, kerb := { s.kerb with slots := t.kerb.slots, rejecting := false, confGiven := false } } ∧
      OnlyRegs s t ([(BOT_STAT_PROBATION, 0), (BOT_STAT_WINLEFT, 0)] ++ [(BOT_SLOTSTAT_STATEA, 0), (BOT_SLOTSTAT_STATEB, 0), (BOT_SVN_KERBSVN, 0), (BOT_SVN_MODSVN, 0), (BOT_SVN_SLOTSVN, 0)])) ∧
    (∀ t0, s.kerb.okSince = some t0 → t0 + s.getF BOT_CFG_CONFMIN * 60000000000 ≤ s.now → s.getF BOT_STAT_PROBATION = 1 → s.kerb.rejecting = false →
      s.kerb.confGiven = true ∨ s.getF BOT_CFG_AUTOCONF = 1 → s.runSlot ≤ 1 → Gives .probationConfirmation s fun t =>
        t.slot s.runSlot = { s.slot s.runSlot with st := 4 } ∧ ((s.slot s.spareSlot).st = 4 → (t.slot s.spareSlot).st = 5) ∧ t.getF BOT_STAT_PROBATION = 0 ∧ t.getF BOT_SLOTSTAT_FMTPAIR = 0 ∧
        t = { s with regs := t.regs, pkgs := t.pkgs, kerb := { s.kerb with slots := t.kerb.slots, fuses := t.kerb.fuses, confGiven := false } } ∧
        OnlyRegs s t ([(BOT_STAT_PROBATION, 0), (BOT_STAT_WINLEFT, 0), (BOT_SLOTSTAT_FMTPAIR, 0)] ++ [(BOT_SLOTSTAT_STATEA, 0), (BOT_SLOTSTAT_STATEB, 0), (BOT_SVN_KERBSVN, 0), (BOT_SVN_MODSVN, 0), (BOT_SVN_SLOTSVN, 0)]))

/-- SPEC_RUN_START for a task that is ready for speculation, with no execution yet, its grid tick to come and SPECLEAD µs or less away by the end of
the present base tick (or SPECLEAD 0), starts a run for the next grid tick, with the generation set of now, and SSTATE shows RUNNING. SPEC_UNDONE
ends a run of the right generations that is not complete at its release, SPEC_DECISION one that is complete and whose generations have changed,
where the real cycle holds no exception: the run is no more, and nothing but the executions, the counters of the task and its window changes.
SPEC_SUSPEND_END of a suspended task whose back-off has elapsed empties its window, and SSTATE shows whether the conditions of a run hold (ARMED
or OFF). (R117, R121, R127, R128, R131, R132, R139.) -/
def Obligations.SpeculativeRuns : Prop :=
  ∀ (s : State) (k : TaskNo), s.RegsOk → tabRising s.sched.runs = true →
    (∀ d, s.taskDef? k.val = some d → d.no.val = k.val → s.specReady k.val = true → s.run? .spec k.val = none → s.run? .real k.val = none →
      s.tick < (s.taskRt k.val).lastG + s.getF SCH_TASKCFG_PERIOD k.val →
      (s.getF SPC_TASKCFG_SPECLEAD k.val = 0 ∨ ((s.taskRt k.val).lastG + s.getF SCH_TASKCFG_PERIOD k.val) * 62500 < s.now + 62500 + s.getF SPC_TASKCFG_SPECLEAD k.val * 1000) →
      Gives (.specRunStart k) s fun t =>
        t.run? .spec k.val = some { s.newRun d .spec ((s.taskRt k.val).lastG + s.getF SCH_TASKCFG_PERIOD k.val) ((s.taskRt k.val).lastG + s.getF SCH_TASKCFG_PERIOD k.val)
          (s.taskRt k.val).lastImg [] with gens := s.specGens } ∧ t.getF SPC_TASKSTAT_SSTATE k.val = 2 ∧
        t = { s with regs := t.regs, sched := { s.sched with runs := t.sched.runs } } ∧ OnlyRegs s t [(SPC_TASKSTAT_SSTATE, k.val), (SPC_CTL_INFLIGHT, 0)]) ∧
    (∀ r q, s.run? .spec k.val = some r → s.run? .real k.val = some q → r.st ≠ .ended → r.held = none → q.st ≠ .xcp → r.gens = s.specGens → q.rel = r.rel →
      Gives (.specUndone k) s fun t => t.run? .spec k.val = none ∧ t = { s with regs := t.regs, sched := t.sched } ∧ OnlyRegs s t [(SPC_POOLUSE_PAGES, 0), (SPC_TASKWHY_UNDCNT, k.val), (SPC_TASKCNT_DISCCNT, k.val), (SPC_TASKSTAT_SSTATE, k.val), (SPC_CTL_INFLIGHT, 0), (SPC_TASKSTAT_HITS, k.val), (SPC_TASKSTAT_WINDOW, k.val), (SPC_TASKSTAT_SUSPLEFT, k.val)] ∧ t.sched.runs = tabDel s.sched.runs (256 + k.val)) ∧
    (∀ r q arb, s.run? .spec k.val = some r → s.run? .real k.val = some q → r.st = .ended → r.abandoned = false → q.st ≠ .xcp → r.gens ≠ s.specGens →
      Gives (.specDecision k arb) s fun t => t.run? .spec k.val = none ∧ t = { s with regs := t.regs, sched := t.sched } ∧ OnlyRegs s t [(SPC_POOLUSE_PAGES, 0), (SPC_TASKWHY_INVCNT, k.val), (SPC_TASKCNT_DISCCNT, k.val), (SPC_TASKSTAT_SSTATE, k.val), (SPC_CTL_INFLIGHT, 0), (SPC_TASKSTAT_HITS, k.val), (SPC_TASKSTAT_WINDOW, k.val), (SPC_TASKSTAT_SUSPLEFT, k.val)] ∧ t.sched.runs = tabDel s.sched.runs (256 + k.val)) ∧
    (s.getF SPC_TASKSTAT_SSTATE k.val = 6 → (s.taskRt k.val).susp = 0 → Gives (.specSuspendEnd k) s fun t =>
      t.getF SPC_TASKSTAT_SSTATE k.val = b2n (s.specReady k.val) ∧ t.getF SPC_TASKSTAT_HITS k.val = 0 ∧ t.getF SPC_TASKSTAT_WINDOW k.val = 0 ∧ (t.taskRt k.val).window = [] ∧
      t = { s with regs := t.regs, sched := t.sched } ∧ OnlyRegs s t [(SPC_TASKSTAT_SSTATE, k.val), (SPC_CTL_INFLIGHT, 0), (SPC_TASKSTAT_HITS, k.val), (SPC_TASKSTAT_WINDOW, k.val)])

/-- A release, the task’s last cycle having ended in an earlier base tick, puts an execution of the task in place that waits for lanes, for the grid
tick and the activations it stands for, with STATE running and LATE clear: CYCLIC_RELEASE of a waiting cyclic task on its grid tick with none
owed, for that tick; DEFERRED_RELEASE of an owed one whose time has come, for the tick owed, CATCHUP telling that it lags; EVENT_RELEASE and
ERROR_TASK_DELIVERY of a waiting event or error task with activations, MINSEP after its last release, for all of them, PENDING cleared and ACTCNT
set. A task whose quarter has too few lanes is stopped by watchdog instead. CYCLE_LATE sets LATE, counts, and makes the next release of a cyclic
task owed. FURTHER_GRID_TICK_OVERRUN stops a safety task, or any under PROFILE 0, by watchdog (WDSTOP, WDOG), and else skips the grid tick owed.
(R25, R37, R38, R39, R40, R41, R44, R106, R157.) -/
def Obligations.TaskReleases : Prop :=
  ∀ (s : State) (k : TaskNo) (d : TaskDef), s.RegsOk → s.taskDef? k.val = some d →
    (s.releases k.val = true → (s.taskRt k.val).endTick ≠ some s.tick → s.getF SCH_TASKSTAT_STATE k.val = 1 → ((s.taskRt k.val).released = true → (s.taskRt k.val).lastR ≠ s.tick) →
      (s.kind k.val = 0 → (s.taskRt k.val).owed = none → s.gridFrom k.val s.tick = s.tick →
        (s.taskShort k.val = false → Gives (.cyclicRelease k) s fun t => Released k.val s.tick 0 s.tick t ∧ t.getF SCH_TASKSTAT_CATCHUP k.val = 0 ∧ t.getF SCH_TASKSTAT_LAGTICKS k.val = 0) ∧
        (s.taskShort k.val = true → s.pair.switchAt = none → Gives (.cyclicRelease k) s fun t => t.getF SCH_TASKSTAT_STATE k.val = 3 ∧ t.getF SCH_TASKSTAT_WDOG k.val = 1)) ∧
      (∀ g r, s.kind k.val = 0 → (s.taskRt k.val).owed = some (g, r) → r ≤ s.tick → g ≤ s.tick → s.taskShort k.val = false → Gives (.deferredRelease k) s fun t =>
        Released k.val g 0 s.tick t ∧ t.flag SCH_TASKSTAT_CATCHUP k.val = decide (s.tick ≠ g) ∧ t.getF SCH_TASKSTAT_LAGTICKS k.val = min 65535 (s.tick - g) ∧
        (t.taskRt k.val).owed = if s.tick = g then none else some (g + s.getF SCH_TASKCFG_PERIOD k.val, max (g + s.getF SCH_TASKCFG_PERIOD k.val) (s.tick + (3 * s.getF SCH_TASKCFG_PERIOD k.val + 3) / 4)))) ∧
    (s.releases k.val = true → (s.taskRt k.val).endTick ≠ some s.tick → s.getF SCH_TASKSTAT_STATE k.val = 1 → 0 < (s.taskRt k.val).acts →
      ((s.taskRt k.val).released = true → (s.taskRt k.val).lastR + s.getF SCH_TASKCFG_PERIOD k.val ≤ s.tick) → s.taskShort k.val = false →
      (s.kind k.val = 1 ∨ s.kind k.val = 2 → Gives (.eventRelease k) s fun t => Released k.val s.tick (s.taskRt k.val).acts s.tick t ∧ t.getF SCH_TASKSTAT_PENDING k.val = 0 ∧
        t.getF SCH_TASKEVT_ACTCNT k.val = min 65535 (s.taskRt k.val).acts) ∧
      (s.kind k.val = 2 → s.errorTask = some k.val → Gives .errorTaskDelivery s fun t => Released k.val s.tick (s.taskRt k.val).acts s.tick t ∧ t.getF SCH_TASKSTAT_PENDING k.val = 0 ∧
        t.getF SCH_TASKEVT_ACTCNT k.val = min 65535 (s.taskRt k.val).acts)) ∧
    (∀ r, s.run? .real k.val = some r → r.ctx = .real → r.task = k.val → s.watched k.val = true → r.st ≠ .xcp →
      (r.late = false → s.kind k.val ≠ 3 → s.lateTick r ≤ s.tick → Gives (.cycleLate k) s fun t => t.run? .real k.val = some { r with late := true } ∧ t.getF SCH_TASKSTAT_LATE k.val = 1 ∧
        (s.kind k.val = 0 → (t.taskRt k.val).owed = some (r.grid + s.periodOf r, if r.dfr then r.rel + (3 * s.periodOf r + 3) / 4 else r.grid + s.periodOf r)) ∧
        t = { s with regs := t.regs, sched := t.sched } ∧ OnlyRegs s t [(SCH_TASKSTAT_LATE, k.val), (SCH_TASKCNT_LATECNT, k.val)]) ∧
      (∀ g q, r.late = true → s.kind k.val = 0 → (s.taskRt k.val).owed = some (g, q) → g + s.periodOf r ≤ s.tick →
        (s.isSafety k.val = true ∨ s.flag SCH_MODE_PROFILE = false → Gives (.furtherGridTickOverrun k) s fun t => t.getF SCH_TASKSTAT_STATE k.val = 3 ∧ t.getF SCH_TASKSTAT_WDOG k.val = 1) ∧
        (s.isSafety k.val = false → s.flag SCH_MODE_PROFILE = true → Gives (.furtherGridTickOverrun k) s fun t => (t.taskRt k.val).owed = some (g + s.periodOf r, max q (g + s.periodOf r)) ∧
          OnlyRegs s t [(SCH_TASKCNT_SKIPCNT, k.val), (SCH_COALSTAT_OPEN, 0), (SCH_COALSTAT_OVFCNT, 0)])))

/-- HOST_NOP, HOST_TIME, ATTEST, HISTORY_READ, HISTORY_READ of delta blocks and EVENT_READ at the head of a queue pair complete OK, as the next
completion of that queue pair, with the result that the rule gives: the time, the evidence for the nonce, whole records of the range (of the
masked kinds) until the buffer is full with their number and the last sequence number, or the delta blocks of the range of CSNs. Nothing but the
sessions changes. READ_AT of tags whose CSN can be served now completes with one entry for each tag as the snapshot of that CSN has it, under the
program active then, and the status of the first entry at fault, and a raw read with the bytes of one object; no byte of the Square changes.
HOST_LATENCY completes at once in a power state whose wake meets it, and SESSION CLOSE completes and marks the session as closing once that
completion is written. (R264, R265, R266, R271, R276, R422, R442, 10_host_queues Table 10-4.) -/
def Obligations.HostReads : Prop :=
  ∀ (s : State) (sess : SessNo) (qp : QpNo) (x : Sess) (y : Qp) (d : HostDesc) (rest : List HostDesc), AtHead s sess qp x y d rest → d.ok2 = true →
    let Reply := fun (status csn detail flags : Nat) (data : List Byte) (t : State) => t = { s with host := { s.host with sess := t.host.sess } } ∧
      Answered t sess qp y.comps (answerOf d status csn detail flags data)
    let inRange := fun (r : ArcRec) => decide (dCsn d ≤ r.seq) && decide (r.seq ≤ dArg d)
    let Records := fun (l : List ArcRec) (t : State) =>
      let got := fitBytes ArcRec.length (dLen2 d) l
      ∃ flags, Reply 0 (((got.getLast?).map ArcRec.seq).getD 0) got.length flags (got.flatMap ArcRec.bytes) t
    (dOp d = 0 → Gives (.hostNop sess qp) s (Reply 0 0 0 0 [])) ∧
    (dOp d = 11 → 16 ≤ dLen2 d → Gives (.hostTime sess qp) s (Reply 0 0 0 0
      (natLe 6 (s.now / 1000000000) ++ natLe 2 0 ++ natLe 4 (s.now % 1000000000) ++ natLe 1 (s.getF TIM_STAT_ACTIVE) ++ natLe 3 0))) ∧
    (dOp d = 12 → dLen1 d = 32 → (s.evidence d.data).length ≤ dLen2 d → Gives (.attest sess qp) s (Reply 0 0 0 0 (s.evidence d.data))) ∧
    (dOp d = 5 → dOpt d = 0 → Gives (.historyRead sess qp) s (Records (s.arc.cyc.filter inRange))) ∧
    (dOp d = 5 → dOpt d = 1 → s.isLead = true → Gives (.historyReadDelta sess qp) s fun t =>
      let got := fitBytes (fun b => 16 + 16 * b.entries.length) (dLen2 d) (s.arc.near.filter (fun b => decide (dCsn d ≤ b.csn) && decide (b.csn ≤ dArg d)))
      ∃ flags, Reply 0 (((got.getLast?).map NearBlk.csn).getD 0) got.length flags (got.flatMap NearBlk.bytes) t) ∧
    (dOp d = 6 → Gives (.eventRead sess qp) s (Records ((s.arc.evs.filter inRange).filter (fun r =>
      decide (dOpt d = 0) || (decide (r.kind ≥ 0x0101) && decide (r.kind ≤ 0x010A) && bitOf (dOpt d) (r.kind - 0x0101)))))) ∧
    (∀ c st snap, dOp d = 1 → dOpt d % 2 = 0 → dLen1 d % 4 = 0 → dLen1 d ≠ 0 → dLen1 d ≤ 262144 → dLen1 d * 4 ≤ dLen2 d → s.readCsn d = c → s.isVoid c = false →
      s.readReady c (dDurable d) = true → s.storeAt c = some st → s.snapAt? c = some snap → Gives (.readAt sess qp) s fun t =>
        ∃ bs e i u, ((s.took sess qp rest).under st).readTags snap 0 (chop 4 (d.data.length / 4) d.data) = ((bs, e, i), u) ∧
          Answered t sess qp y.comps (answerOf d e c i (if s.volatile c then 2 else 0) bs) ∧ SameBytes s t) ∧
    (∀ c st snap w0 w1 u, dOp d = 1 → dOpt d % 2 = 1 → dLen1 d = 12 → s.readCsn d = c → s.isVoid c = false → s.readReady c (dDurable d) = true → s.storeAt c = some st →
      s.snapAt? c = some snap → let len := leNat ((d.data.drop 8).take 4); let off := leNat ((d.data.drop 4).take 4); leNat (d.data.take 4) < 2 ^ 24 → len ≤ 2 ^ 20 → len ≤ dLen2 d →
      ((s.took sess qp rest).under st).hostEntry (leNat (d.data.take 4)) = (.ok (w0, w1), u) → let a := u.opAddr (u.imageTask (bits w1 0 19)) w0 w1 + off
      off + len ≤ max (teSize w0) (if teSignal w0 then 8 else 0) → u.engineRefuses false 0x201 .rd a len = none → (u.snapMeets snap a len).1 = false →
      Gives (.readAtRaw sess qp) s fun t => Answered t sess qp y.comps (answerOf d 0 c 0 (if s.volatile c then 2 else 0) (memRdL snap.mem a len)) ∧ SameBytes s t) ∧
    (dOp d = 0x10 → dOpt d % 16 = 4 → wakeUs (s.getF PWR_STAT_PSTATE) ≤ dArg d % 2 ^ 32 → Gives (.hostLatency sess qp) s fun t => Reply 0 0 0 0 [] t ∧
      (t.sess? sess.val).map Sess.latency = some (some (dArg d % 2 ^ 32))) ∧
    (dOp d = 0x10 → dOpt d % 16 = 3 → Gives (.sessionClose sess qp) s fun t => Reply 0 0 0 0 [] t ∧
      (t.sess? sess.val).map Sess.closing = some (some (y.written + y.comps.length + 1)))

/-- A new WRITE_NEXT whose entries pass is admitted as a batch with its writes, a new HOST_FORCE with its forces, and UNLOCK with COMMIT under held
locks with what was staged under them, each behind the batches admitted before; either UNLOCK frees its groups. HOST_SUBSCRIBE adds the
subscription to its session. HOST_CANCEL of a subscription ends it with CANCELLED on its own queue pair and completes OK. HOST_CUT schedules the
cut at its instant. HOST_LOCK of a free group for which no request waits is granted at once. QP_CREATE makes the lowest free queue pair with its
rings and completes with its number, QP_DESTROY removes one. (R50, R233, R245, R247, R258, R267, R268, R270, R274, R275, R276.) -/
def Obligations.HostWrites : Prop :=
  ∀ (s : State) (sess : SessNo) (qp : QpNo) (x : Sess) (y : Qp) (d : HostDesc) (rest : List HostDesc), AtHead s sess qp x y d rest →
    let n := sess.val
    let s1 := s.took sess qp rest
    let New := (∀ b ∈ s.host.batches, ¬(b.cid = x.cid ∧ b.reqid = dReqid d)) ∧ ∀ i ∈ s.host.idents, ¬(i.cid = x.cid ∧ i.reqid = dReqid d ∧ s.now ≤ i.at_ + 120000000000)
    let Admits := fun (task : Nat) (w : List (Nat × List Byte)) (f : List (Nat × Option (Nat × Nat))) (t : State) => ∃ b, t.host.batches = s.host.batches ++ [b] ∧
      b.sess = n ∧ b.cid = x.cid ∧ b.reqid = dReqid d ∧ b.task = task ∧ b.writes = w ∧ b.forces = f ∧ b.csn = none ∧ b.at_ = s.now
    (∀ ws u, dOp d = 2 → dLen1 d % 16 = 0 → dLen1 d ≠ 0 → dLen1 d ≤ 65536 → d.data.length = dLen1 d → New → dArg d = s.cfgGen →
      s1.writeEntries n 0 (chop16 (d.data.length / 16) d.data) = (.ok ws, u) → (∀ g, (s.lock g).holder ≠ some n) →
      Gives (.writeNext sess qp) s fun t => Admits (dOpt d % 256) ws [] t ∧ SameBytes s t) ∧
    (∀ fs u, dOp d = 10 → dLen1 d % 16 = 0 → dLen1 d ≠ 0 → dLen1 d ≤ 4096 → New → s1.forceEntries 0 (chop16 (d.data.length / 16) d.data) = (.ok fs, u) →
      s.forcesAfter fs ≤ 4096 → Gives (.hostForce sess qp) s fun t => Admits 0 [] fs t ∧ SameBytes s t) ∧
    (dOp d = 9 → bitOf (dOpt d) 8 = true → s.groupsBad d = none → New → s.holdsAll n (dGroups d) = true → dArg d = s.cfgGen → Gives (.unlockCommit sess qp) s fun t =>
      Admits (dOpt d % 256) ((dGroups d).flatMap (fun g => (s.lock g).staged)) [] t ∧ ∀ g ∈ dGroups d, (t.lock g).holder = none) ∧
    (dOp d = 9 → bitOf (dOpt d) 8 = false → s.groupsBad d = none → s.holdsAll n (dGroups d) = true → Gives (.unlockDiscard sess qp) s fun t =>
      Answered t sess qp y.comps (answerOf d 0 0 0 0 []) ∧ t.host.batches = s.host.batches ∧ ∀ g ∈ dGroups d, (t.lock g).holder = none ∧ (t.lock g).staged = []) ∧
    (dOp d = 3 → dLen1 d % 4 = 0 → dLen1 d ≠ 0 → dLen1 d / 4 ≤ 4096 → 2 * slotBytes (dLen1 d / 4) ≤ dLen2 d → d.ok2 = true →
      (s1.host.sess.map (fun x => x.2.subs.length)).foldl (· + ·) 0 < 65536 → Gives (.hostSubscribe sess qp) s fun t => ∃ u p, t.sess? n = some { x with qps := p, subs := x.subs ++ [u] } ∧
        u.qp = qp.val ∧ u.reqid = dReqid d ∧ u.tags = chop 4 (dLen1 d / 4) d.data ∧ u.slots = dLen2 d / slotBytes (dLen1 d / 4) ∧ u.count = 0) ∧
    (∀ z, dOp d = 4 → dOpt d % 4096 ≠ qp.val → tabGet? x.qps (dOpt d % 4096) = some z → (∀ w ∈ z.waits, dReqid w.d ≠ dArg d % 2 ^ 32) →
      (x.subs.any (fun u => u.qp = dOpt d % 4096 && u.reqid = dArg d % 2 ^ 32)) = true → Gives (.hostCancel sess qp) s fun t =>
        Answered t sess qp y.comps (answerOf d 0 0 0 0 []) ∧
        ∃ p z', t.sess? n = some { x with qps := p, subs := x.subs.filter (fun u => !(u.qp = dOpt d % 4096 && u.reqid = dArg d % 2 ^ 32)) } ∧
          tabGet? p (dOpt d % 4096) = some z' ∧ ∃ c, z'.comps = z.comps ++ [c] ∧ c.status = 0x0204 ∧ c.reqid = dArg d % 2 ^ 32) ∧
    (∀ c, dOp d = 7 → s.cutSet? (dOpt d % 4096) = some c → 32 + 16 * c.sigs.length ≤ dLen2 d → s.now + 250000 + s.cutHops c.no.val ≤ dArg d → s.schedFree (dArg d) = true →
      Gives (.hostCut sess qp) s fun t => ∃ r, t.plant.cuts = s.plant.cuts ++ [r] ∧ r.at_ = dArg d ∧ r.sess = n ∧ r.set = c.no.val ∧ r.sigs = c.sigs ∧ r.taken = false) ∧
    (∀ g, dOp d = 8 → dGroups d = [g] → s.groupsBad d = none → (∀ h ∈ s.heldBy n, h < g) → (s.heldBy n).length + s1.lockAsked n + 1 ≤ s.getF HQE_LOCKCFG_MAXLOCKS →
      (s.lock g).holder = none → (∀ e ∈ s.host.sess, ∀ z ∈ e.2.qps, ∀ w ∈ z.2.waits, ∀ o l dn b, w.w = .lock o l dn b → l.head? ≠ some g) →
      Gives (.hostLock sess qp) s fun t => Answered t sess qp y.comps (answerOf d 0 0 0 (if (s.lock g).broken then 8 else 0) []) ∧ (t.lock g).holder = some n ∧
        (t.lock g).broken = false ∧ (t.lock g).lease = s.now + s.getF HQE_LOCKCFG_LEASE * 1000000) ∧
    (∀ k, dOp d = 0x10 → dOpt d % 16 = 1 → dAddr1 d % 4096 = 0 → dAddr2 d % 4096 = 0 → let sz := dArg d % 256
      sz % 16 ≤ sz / 16 → sz / 16 ≤ 12 → (List.range' 1 4095).find? (fun k => (tabGet? x.qps k).isNone) = some k → s1.qpCount < 32768 →
      Gives (.qpCreate sess qp) s fun t => Answered t sess qp y.comps (answerOf d 0 0 k 0 []) ∧
        t.qp? n k = some (Qp.new (2 ^ (sz % 16 + 4)) (2 ^ (sz / 16 + 4)) (dAddr1 d) (dAddr2 d) (dKey1 d))) ∧
    (∀ z, dOp d = 0x10 → dOpt d % 16 = 2 → dArg d % 4096 ≠ 0 → tabGet? x.qps (dArg d % 4096) = some z → tabRising x.qps = true →
      Gives (.qpDestroy sess qp) s fun t => Answered t sess qp y.comps (answerOf d 0 0 0 0 []) ∧ t.qp? n (dArg d % 4096) = none)

/-- A connection request of an admitted client without a session, on a secured link, opens the lowest free session with queue pair 0, and is
answered. Closing the connection, retries exhausted and SESSIDLE seconds without traffic end a session: it is gone, and every lock it held is
broken. A doorbell within range moves the tail and head of its queue pair. A fetch takes as many posted descriptors as credits and BATCH allow
and asks the host for them. A completion with room in its ring is written out, after its data, and the count of completions written advances. A
descriptor whose wait has run out completes TIMEOUT. Every lock whose lease has run out breaks; a waiting LOCK whose group is free and for which
nobody waits before it is granted and completes. (R245, R247, R254, R256, R257, R259, R260, R261, R265, R273.) -/
def Obligations.HostEngine : Prop :=
  ∀ (s : State), s.RegsOk →
    (∀ (link : Fin 12) (src : BitVec 128) (req : List Byte) (k : Nat) (a : AccessDef), s.Runs → s.flag SEC_PORTSTAT_SECURED (106 + link.val) = true →
      s.refuseReq link.val src.toNat req = none → (∀ x ∈ s.host.sess, x.2.cid ≠ leNat (req.take 8)) →
      (List.range' 1 8192).find? (fun k => (s.sess? k).isNone) = some k → s.accessFor link.val src.toNat = some a → s.host.sess.length < s.getF HQE_CTL_MAXSESS →
      s.qpCount < 32768 → Gives (.connectionRequest link src req) s fun t => (∃ x, t.sess? k = some x ∧ x.cid = leNat (req.take 8) ∧ x.link = link.val ∧
        x.rights = a.rights.toNat ∧ (tabGet? x.qps 0).isSome = true) ∧ ∃ l, t.out = s.out ++ [⟨.host, 0, [k, 1], l⟩]) ∧
    (∀ (sess : SessNo) (x : Sess), tabRising s.host.sess = true → tabRising s.host.locks = true → s.sess? sess.val = some x →
      let Ended := fun (t : State) => t.sess? sess.val = none ∧ (∀ g, (s.lock g).holder = some sess.val → (t.lock g).holder = none ∧ (t.lock g).broken = true) ∧
        ∀ g, (s.lock g).holder ≠ some sess.val → t.lock g = s.lock g
      Gives (.transportRetryExhausted sess) s Ended ∧ Gives (.sessionEnd sess false) s Ended ∧
      (x.active + s.getF HQE_CTL_SESSIDLE * 1000000000 ≤ s.now → Gives (.sessionEnd sess true) s Ended)) ∧
    (∀ (sess : SessNo) (x : Sess) (y : Qp) (q : Nat) (word : W64), s.sess? sess.val = some x → tabGet? x.qps q = some y → q < 4096 → s.sessSecured x = true →
      advance32 y.tail (bits word.toNat 0 32) ≤ y.fetched + y.sqSize → advance32 y.head (bits word.toNat 32 32) ≤ y.written →
      Gives (.doorbell sess true (8 * q) 8 word) s fun t => t = { s with host := { s.host with sess := t.host.sess } } ∧
        t.qp? sess.val q = some { y with tail := advance32 y.tail (bits word.toNat 0 32), head := advance32 y.head (bits word.toNat 32 32) } ∧
        (t.sess? sess.val).map Sess.active = some s.now) ∧
    (∀ (sess : SessNo) (qp : QpNo) (x : Sess) (y : Qp) (ds : List HostDesc), s.Runs → s.sess? sess.val = some x → tabGet? x.qps qp.val = some y → s.sessSecured x = true →
      let k := min (min (s.getF HQE_ADMCFG_BATCH) (y.tail - y.fetched)) (min (s.getF HQE_ADMCFG_CREDIT - x.credits)
        (262144 - (s.host.sess.map (fun e => e.2.credits)).foldl (· + ·) 0))
      ds.take k ≠ [] → Gives (.descriptorFetch sess qp ds) s fun t => (∃ z, t.qp? sess.val qp.val = some z ∧ z.fetched = y.fetched + (ds.take k).length) ∧
        t.out = s.out ++ [⟨.host, 5, [sess.val, qp.val, y.sqBase + 64 * (y.fetched % y.sqSize), (ds.take k).length, y.rkey], []⟩]) ∧
    (∀ (sess : SessNo) (qp : QpNo) (x : Sess) (y : Qp) (c : Compl) (rest : List Compl), s.Runs → s.sess? sess.val = some x → tabGet? x.qps qp.val = some y →
      y.comps = c :: rest → y.written < y.head + y.cqSize → (qp.val ≠ 0 ∨ x.closing ≠ some (y.written + 1)) → Gives (.completionWrite sess ⟨qp, true⟩) s fun t =>
        t.qp? sess.val qp.val = some { y with written := y.written + 1, comps := rest } ∧
        t.out = s.out ++ (if c.data.isEmpty then [] else [⟨.host, 3, [sess.val, qp.val, c.reqid, c.detail, c.addr, c.key], c.data⟩]) ++
          [⟨.host, 4, [sess.val, qp.val, y.cqBase + 32 * (y.written % y.cqSize), y.rkey], s.complBytes y c⟩]) ∧
    (∀ (sess : SessNo) (qp : QpNo) (x : Sess) (y : Qp) (reqid : W32) (w : WaitDesc), s.sess? sess.val = some x → tabGet? x.qps qp.val = some y →
      y.waits.find? (fun w => decide (dReqid w.d = reqid.toNat) && decide (w.since + dWait w.d ≤ s.now + 62500)) = some w →
      Gives (.descriptorWaitTimeout sess qp reqid) s fun t => Answered t sess qp y.comps (answerOf w.d 0x0200 0 0 0 [])) ∧
    (Gives .leaseExpiry s fun t => ∀ g, (s.lock g).holder.isSome = true → (s.lock g).lease ≤ s.now → (t.lock g).holder = none ∧ (t.lock g).broken = true ∧ (t.lock g).staged = []) ∧
    (∀ (sess : SessNo) (qp : QpNo) (x : Sess) (y : Qp) (w : WaitDesc) (o g : Nat) (dn : List Nat) (b : Bool), s.sess? sess.val = some x → tabGet? x.qps qp.val = some y →
      s.lockWaits = [(sess.val, qp.val, w)] → w.w = .lock o [g] dn b → (s.lock g).holder = none → Gives .lockGrant s fun t =>
        Answered t sess qp y.comps (answerOf w.d 0 0 0 (if b || (s.lock g).broken then 8 else 0) []) ∧ (t.lock g).holder = some sess.val ∧ (t.lock g).broken = false)

/-- An accepted handshake of a management port opens its connection with the right of the certificate and is answered; a refused one is answered and
opens nothing; closing it discards the connection. A read request returns the words of the registers in ascending offset, and changes nothing but
read-to-clear fields and latches; a write request with the SETUP right writes a word of the on-line change’s window and is answered OK; an
attestation returns the evidence for its nonce. SETUP_READ and SETUP_WRITE do the same through a host queue. REGISTER_WRITE to a plain register
of an access path writes that field, one to a register that nothing can write is ignored and counted with cause 6, and SCH_TASK_REGISTER_WRITE of
POLICY waits for the task’s next release. (R57, R115, R276, R442, R484, R485, R486, R489, R491, R493.) -/
def Obligations.SetupAccess : Prop :=
  ∀ (s : State), s.RegsOk →
    let reply := fun (c : Fin 8) (op count tag off : Nat) (data : List Byte) =>
      (⟨.mgmt, op, [c.val, 0], natLe 1 1 ++ natLe 1 op ++ natLe 2 count ++ natLe 4 tag ++ natLe 4 off ++ natLe 2 0 ++ natLe 2 0 ++ data⟩ : Out)
    (∀ (c : Fin 8) (cert r : Nat), s.mgmtUp = true → tabHas s.setup.conns c.val = false → s.certRight cert = some r → Gives (.mgmtConnect c cert) s fun t =>
      tabGet? t.setup.conns c.val = some r ∧ t.out = s.out ++ [⟨.mgmt, 0, [c.val, 1], []⟩]) ∧
    (∀ (c : Fin 8) (cert : Nat), s.mgmtUp = true → tabHas s.setup.conns c.val = false → s.certRight cert = none → Gives (.mgmtConnect c cert) s fun t =>
      t = { s with out := s.out ++ [⟨.mgmt, 0, [c.val, 0], []⟩] }) ∧
    (∀ (c : Fin 8), tabRising s.setup.conns = true → tabHas s.setup.conns c.val = true → Gives (.mgmtConnectionClose c) s fun t =>
      tabGet? t.setup.conns c.val = none ∧ t = { s with regs := t.regs, arc := t.arc, setup := t.setup }) ∧
    (∀ (c : Fin 8) (tag off count : Nat), tabHas s.setup.conns c.val = true → badReq off count = false → s.Runs → Gives (.mgmtRead c tag off count) s fun t =>
      t = { s with regs := t.regs, setup := t.setup, out := s.out ++ [reply c 1 count tag off ((s.readWords (.mgmt c) off count).1.flatMap (natLe 4))] }) ∧
    (∀ (c : Fin 8) (tag off : Nat) (v : W32) (env : WriteEnv) (r : Nat), tabGet? s.setup.conns c.val = some r → r ≠ 0 → 0x38000 ≤ off → off < 0x40000 → off % 4 = 0 → s.Runs →
      Gives (.mgmtWrite c tag off [v] env) s fun t => t.olc = { s.olc with win := winPut s.olc.win (off - 0x38000) v.toNat } ∧ t.out = s.out ++ [reply c 2 1 tag off []]) ∧
    (∀ (c : Fin 8) (tag : Nat) (nonce : List Byte), tabHas s.setup.conns c.val = true → nonce.length = 32 → s.kerb.phase ≠ .off → Gives (.mgmtAttest c tag nonce) s fun t =>
      t = { s with out := s.out ++ [reply c 3 0 tag 0 (s.evidence nonce)] }) ∧
    (∀ (sess : SessNo) (qp : QpNo) (x : Sess) (y : Qp) (d : HostDesc) (rest : List HostDesc) (n off : Nat), AtHead s sess qp x y d rest → setupForm d = .ok (n, off) →
      (dOp d = 0x11 → 4 * n ≤ dLen2 d → d.ok2 = true → Gives (.setupRead sess qp) s fun t =>
        Answered t sess qp y.comps (answerOf d 0 0 0 0 (((s.took sess qp rest).queueRead (.queue sess) n off).1.flatMap (natLe 4)))) ∧
      (∀ env, dOp d = 0x12 → n = 1 → 4 ≤ dLen1 d → 0x38000 ≤ off → off < 0x40000 → Gives (.setupWrite sess qp env) s fun t =>
        t.olc = { s.olc with win := winPut s.olc.win (off - 0x38000) (leNat (d.data.take 4)) } ∧ Answered t sess qp y.comps (answerOf d 0 0 0 0 []))) ∧
    (∀ (p : Path) (v : W32) (env : WriteEnv), s.Runs → Gives (.registerWrite p 0x110030 v env) s fun t => t.getF ARC_CURLO_S p.code = v.toNat ∧ t = { s with regs := t.regs } ∧ OnlyRegsW 17 s t [(ARC_CURLO_S, p.code)]) ∧
    (∀ (p : Path) (v : W32) (env : WriteEnv), s.Runs → Gives (.registerWrite p 0x120000 v env) s fun t => RegsOnlyW 18 s t [(KRB_IGNSTAT_CAUSE, 0), (KRB_IGNADDR_OFFSET, 0), (KRB_IGNPATH_PATH, 0)] ∧ t.getF KRB_IGNSTAT_CAUSE = 6) ∧
    (∀ (p : Path) (v : W32), s.Runs → s.following = false → s.hasFollower = false → s.isSafety (s.getF SCH_TASKSEL_TASK p.code) = false → bits v.toNat 14 2 = 0 →
      Gives (.schTaskRegisterWrite p 0x30034 v) s fun t => t.asWritten SCH_TASKXCP_POLICY (s.getF SCH_TASKSEL_TASK p.code) = bits v.toNat 13 1 ∧
        t = { s with regs := t.regs, due := t.due } ∧ OnlyRegsW 3 s t [])

/-- START, STOP, ACTIVATE and CANCEL on a module that does not follow are taken into the base tick, with the instant and the path; the lock of a
safety task refuses them with cause 1 and a Follower ignores them with cause 3. An activation that arrives is taken with its stamp.
XCP_DISP_RESUME and XCP_DISP_ABORT answer the pending record of the selected task, at once unless the module leads; with none pending they are
ignored with cause 4, on a Follower with cause 3. At the deadline of a disposition the cycle is aborted, and before it nothing happens. A commit
of an ended cycle, and one of a write batch that is due alone, takes the next CSN. A window whose second is over closes with its summary. A cut
takes its channels at its instant, takes a participant’s values when they come, and closes complete. (R42, R57, R110, R115, R172, R173, R230,
R233, R235, R249, R498.) -/
def Obligations.TaskCommands : Prop :=
  ∀ (s : State), s.RegsOk →
    (∀ (p : Path) (task : TaskNo), s.Runs →
      (s.following = false → (s.isSafety task.val = true → s.safetyEdit = true) →
        let Taken := fun (a : TickAsk) (t : State) => t.sched = { s.sched with batch := s.sched.batch ++ [⟨task.val, s.now, s.sched.seq, a, some p⟩], seq := s.sched.seq + 1 } ∧
          t = { s with regs := t.regs, sched := t.sched } ∧ OnlyRegsW 3 s t []
        Gives (.taskStart p task) s (Taken .start) ∧ Gives (.taskStop p task) s (Taken .stop) ∧ Gives (.taskActivate p task) s (Taken .activate) ∧
        Gives (.taskCancel p task) s (Taken .cancel)) ∧
      (∀ c, (c = 1 ∧ s.isSafety task.val = true ∧ s.safetyEdit = false) ∨ (c = 3 ∧ s.following = true ∧ (s.isSafety task.val = true → s.safetyEdit = true)) →
        let Ign := fun (t : State) => RegsOnlyW 3 s t [(KRB_IGNSTAT_CAUSE, 0), (KRB_IGNADDR_OFFSET, 0), (KRB_IGNPATH_PATH, 0)] ∧ t.getF KRB_IGNSTAT_CAUSE = c
        Gives (.taskStart p task) s Ign ∧ Gives (.taskStop p task) s Ign ∧ Gives (.taskActivate p task) s Ign ∧ Gives (.taskCancel p task) s Ign)) ∧
    (∀ (task : TaskNo) (stamp : Nat), Gives (.eventActivation task stamp) s fun t =>
      t = { s with sched := { s.sched with batch := s.sched.batch ++ [⟨task.val, stamp, s.sched.seq, .activate, none⟩], seq := s.sched.seq + 1 } }) ∧
    (∀ (p : Path) (task : TaskNo), s.Runs → s.following = false → s.getF SCH_TASKSEL_TASK p.code = task.val → s.flag SCH_TASKXCP_PEND task.val = true →
      let Given := fun (r : Bool) (t : State) => t = { s with regs := t.regs, sched := t.sched, pair := t.pair } ∧ OnlyRegsW 3 s t [] ∧ t.sched.disps = s.sched.disps ++ [((task.val, (s.taskRt task.val).xseq, r), if s.getF PAR_STAT_STATE = 6 then none else some 0)]
      Gives (.xcpDispResume p) s (Given true) ∧ Gives (.xcpDispAbort p) s (Given false)) ∧
    (∀ (p : Path), s.Runs → s.following = true →
      Gives (.xcpDispResume p) s (fun t => RegsOnlyW 3 s t [(KRB_IGNSTAT_CAUSE, 0), (KRB_IGNADDR_OFFSET, 0), (KRB_IGNPATH_PATH, 0)] ∧ t.getF KRB_IGNSTAT_CAUSE = 3) ∧ Gives (.xcpDispAbort p) s (fun t => RegsOnlyW 3 s t [(KRB_IGNSTAT_CAUSE, 0), (KRB_IGNADDR_OFFSET, 0), (KRB_IGNPATH_PATH, 0)] ∧ t.getF KRB_IGNSTAT_CAUSE = 3)) ∧
    (∀ (task : TaskNo), (s.dispLate task.val = false → Gives (.dispositionDeadline task) s (fun t => t = s)) ∧
      (∀ r x, s.dispLate task.val = true → s.sysAddr .xcpPend false 0 = none → s.run? .real task.val = some r → r.xcp = some x → tabRising s.sched.runs = true → s.olc.back = none →
        Gives (.dispositionDeadline task) s fun t => t.run? .real task.val = none ∧ t.getF SCH_TASKXCP_PEND task.val = 0 ∧
          t.getF SCH_TASKXCP_ABTCNT task.val = sat 8 (s.getF SCH_TASKXCP_ABTCNT task.val + 1))) ∧
    (∀ (task : TaskNo) (arb : List (Fin 8 × Nat)) (r : Run), s.run? .real task.val = some r → r.task = task.val → r.st = .ended → s.isLead = true → s.undecided task.val = false →
      s.errorTask ≠ some task.val → Gives (.commit task ⟨[], arb⟩) s fun t => t.sq.csn = s.commitCsn) ∧
    (s.isLead = true → (∀ b, s.host.batches.find? s.dueAlone = some b → b.gen = s.cfgGen → Gives .batchCommitAlone s fun t => t.sq.csn = s.commitCsn) ∧
      (s.host.batches.find? s.dueAlone = none → Gives .batchCommitAlone s fun t => t = s)) ∧
    (∀ (kind obj : Nat) (w : Win), s.Runs → s.wins.find? (fun w => w.isOf kind obj && w.isOpen) = some w → w.first + 1000000000 ≤ s.now + 62500 →
      Gives (.coalescingWindowClose kind obj) s fun t => (∃ r, t.arc.evs = s.arc.evs ++ [r] ∧ r.kind = 0x0102 ∧ r.payload = { w with isOpen := false, summary := true }.bytes) ∧
        t.wins = s.wins.map (fun x => if x.isOf w.kind w.obj then { w with isOpen := false, summary := true } else x)) ∧
    (∀ (op : Nat) (c : CutRt) (d : CutSetDef), s.plant.cuts.find? (fun c => c.op = op) = some c → c.taken = false → c.mirrored = false → c.at_ ≤ s.now + 62500 →
      s.cutSet? c.set = some d → Gives (.cutInstant op) s fun t => t = { s with plant := t.plant } ∧ t.plant.cuts = s.plant.cuts.map (fun c' => if c'.op = op then
        { c' with sigs := d.sigs, taken := true, got := ((d.sigs.filterMap s.sig?).filter cutOwn).foldl (fun m g => tabSet m g.no (s.sigNow g s.tick)) c'.got } else c')) ∧
    (∀ (link : Fin 104) (frame : List Byte) (f : Fsp) (u : State) (c : CutRt), s.fspTake link 0x0A frame = (some f, u) → bitOf f.flags 1 = false →
      (f.data.drop 4).length = sigBytes (u.stationSigs f.sta false) + (u.stationSigs f.sta false).length →
      u.plant.cuts.find? (fun c => c.op = leNat (f.data.take 4) && !c.mirrored) = some c → (u.cutStations c.set).any (fun d => d.no.val = f.sta) = true →
      Gives (.cutdata link frame) s fun t => t = { u with plant := t.plant } ∧ t.plant.cuts = u.plant.cuts.map (fun c' => if c'.op = leNat (f.data.take 4) then
        { c' with got := (takeVals (u.stationSigs f.sta false) (f.data.drop 4) ((f.data.drop 4).drop (sigBytes (u.stationSigs f.sta false))) []).foldl (fun m e => tabSet m e.1 e.2) c'.got } else c')) ∧
    (∀ (op : Nat) (c : CutRt) (sess : SessNo) (qp : QpNo) (x : Sess) (y : Qp), s.plant.cuts.find? (fun c => c.op = op) = some c → c.taken = true → c.mirrored = false →
      c.sigs.all (fun n => tabHas c.got n) = true → c.sess = sess.val → c.qp = qp.val → c.d.ok2 = true → s.sess? sess.val = some x → tabGet? x.qps qp.val = some y →
      Gives (.cutClose op) s fun t => Answered t sess qp y.comps (answerOf c.d 0 0 c.op 0 (s.cutRecord c)) ∧ ∀ c' ∈ t.plant.cuts, c'.op ≠ c.op)

/-- A lane that passes its full self-test leaves it: from quarantine it returns to the role it had. A step of the rotating self-test advances the
test of its lane, and the next one shows INTEST. A detected injection is discarded, and rotates the item. TEST of a reserve lane that nothing
holds begins its full self-test; RETIRE with SAFETY-EDIT retires the lane; a number above 95 or a switch in its run position refuses. A lane
without a self-test for 24 h sets TESTLATE. The scrub goes on by one unit. A spared row is switched to the reserve. A walk fills the TTC of its
lane, or the fault is latched. On a module without a Follower WRITE stores the entry, GO invalidates, a finished invalidation advances the tag
generation, BARRIER starts one, a finished barrier advances the ACU generation, and attributes of a region wait for it. (R153, R154, R158, R159,
R162, R168, R169, R178, R179, R181, R186, R187.) -/
def Obligations.LanesAndSquare : Prop :=
  ∀ (s : State), s.RegsOk →
    (∀ (lane : LaneNo), (s.laneRt lane.val).testing = true → s.laneRole lane.val = 2 → Gives (.laneSelfTestComplete lane true) s fun t =>
      t.laneRole lane.val = b2n (s.laneRt lane.val).reserve ∧ t.flag XNG_LANESTAT_INTEST lane.val = false ∧ (t.laneRt lane.val).testing = false) ∧
    (∀ (lane : LaneNo), (s.laneRt lane.val).testing = false → (s.laneRt lane.val).full = true → Gives (.laneSelfTestComplete lane true) s fun t =>
      t.flag XNG_LANESTAT_INTEST lane.val = false ∧ (t.laneRt lane.val).full = false ∧ (t.laneRt lane.val).cmdTest = false) ∧
    (∀ (lane : LaneNo), s.flag XNG_LANESTAT_INTEST lane.val = true → (s.laneRt lane.val).testing = false → (s.laneRt lane.val).full = false → (s.laneRt lane.val).cmdTest = false →
      (s.laneRt lane.val).step + 1 < 2000 → Gives (.selfTestStep (some lane) true none none) s fun t =>
        t.flag XNG_LANESTAT_INTEST lane.val = false ∧ (t.laneRt lane.val).step = (s.laneRt lane.val).step + 1) ∧
    (∀ (lane : LaneNo) (pass : Bool) (swap : Option LaneNo), s.stepOk lane.val = true → Gives (.selfTestStep none pass (some lane) swap) s fun t =>
      t.flag XNG_LANESTAT_INTEST lane.val = true ∧ t = { s with regs := t.regs } ∧ OnlyRegs s t [(XNG_LANESTAT_INTEST, lane.val)]) ∧
    (∀ (lane : LaneNo), s.flag XNG_CTL_INJEN = true → s.laneRole lane.val ≠ 3 → (s.laneRt lane.val).testing = false → (s.laneRt lane.val).full = false →
      s.flag XNG_LANESTAT_INTEST lane.val = false → s.injDue lane.val = true → Gives (.mismatchInjection lane true) s fun t =>
        t = { s with lanes := t.lanes } ∧ (t.laneRt lane.val).injItem = nextItem (s.laneRt lane.val).injItem ∧ (t.laneRt lane.val).injAt = s.now) ∧
    (∀ (p : Path) (lane : BitVec 7), s.Runs →
      (96 ≤ lane.toNat → Gives (.xngTest p lane) s (fun t => RegsOnlyW 4 s t [(KRB_IGNSTAT_CAUSE, 0), (KRB_IGNADDR_OFFSET, 0), (KRB_IGNPATH_PATH, 0)] ∧ t.getF KRB_IGNSTAT_CAUSE = 5) ∧ (s.safetyEdit = true → Gives (.xngRetire p lane) s (fun t => RegsOnlyW 4 s t [(KRB_IGNSTAT_CAUSE, 0), (KRB_IGNADDR_OFFSET, 0), (KRB_IGNPATH_PATH, 0)] ∧ t.getF KRB_IGNSTAT_CAUSE = 5))) ∧
      (lane.toNat < 96 → s.laneRole lane.toNat = 1 → s.laneHeld lane.toNat = false → s.flag XNG_LANESTAT_INTEST lane.toNat = false → (s.laneRt lane.toNat).full = false →
        Gives (.xngTest p lane) s fun t => t.flag XNG_LANESTAT_INTEST lane.toNat = true ∧ (t.laneRt lane.toNat).full = true ∧ t = { s with regs := t.regs, lanes := t.lanes } ∧ OnlyRegsW 4 s t [(XNG_LANESTAT_INTEST, lane.toNat)]) ∧
      (s.safetyEdit = false → Gives (.xngRetire p lane) s (fun t => RegsOnlyW 4 s t [(KRB_IGNSTAT_CAUSE, 0), (KRB_IGNADDR_OFFSET, 0), (KRB_IGNPATH_PATH, 0)] ∧ t.getF KRB_IGNSTAT_CAUSE = 1)) ∧
      (lane.toNat < 96 → s.safetyEdit = true → s.laneRole lane.toNat ≠ 3 → Gives (.xngRetire p lane) s fun t => t.laneRole lane.toNat = 3)) ∧
    (∀ (lane : LaneNo), s.testLate lane.val = true → s.flag XNG_STAT_TESTLATE = false → Gives (.laneTestLate lane) s fun t =>
      t.flag XNG_STAT_TESTLATE = true ∧ t = { s with regs := t.regs, arc := t.arc } ∧ OnlyRegs s t [(XNG_STAT_TESTLATE, 0)]) ∧
    (∀ (unit : BitVec 34), s.Runs → s.sq.cells = [] → s.sq.mapErrs = [] → s.sq.scrubbed + 1 < scrubUnits → Gives (.patrolScrub unit [] none) s fun t =>
      t = { s with regs := t.regs, sq := { s.sq with scrubbed := s.sq.scrubbed + 1 } } ∧ OnlyRegs s t [(SQR_ECCSTAT_PASSLATE, 0)] ∧
      (s.now > s.sq.scrubStart + 4200000000000 → t.flag SQR_ECCSTAT_PASSLATE = true)) ∧
    (∀ (stack : Fin 4) (left : Fin 101) (q : Nat × Nat), s.sq.sparing.find? (fun p => p.2 = stack.val) = some q → Gives (.rowSparingComplete stack left) s fun t =>
      t.sq = { s.sq with sparing := s.sq.sparing.erase q, ceRows := s.sq.ceRows.filter (fun x => x.1 ≠ q.1), rowMap := tabSet s.sq.rowMap q.1 (reserveRow s.sq.rowMap.length) } ∧
      t.getF (spareFld stack.val) = min left.val (s.getF (spareFld stack.val))) ∧
    (∀ (lane : LaneNo) (task : TaskNo) (tag : W32), s.sq.cells = [] → s.sq.mapErrs = [] →
      (∀ w, s.walk (some task.val) tag.toNat = .ok w → Gives (.tagWalk (some lane) task tag) s fun t =>
        t = { s with lanes := t.lanes } ∧ t.laneRt lane.val = (s.laneRt lane.val).fill ⟨tag.toNat, w.1, w.2⟩) ∧
      (∀ r, s.walk (some task.val) tag.toNat = .error r → r < 16 → Gives (.tagWalk (some lane) task tag) s fun t =>
        t.getF SQR_WALKERR_REASON = r ∧ t.flag SQR_WALKERR_VALID = true ∧ t.getF SQR_WALKTAG_TAG = tag.toNat ∧ t = { s with regs := t.regs })) ∧
    (∀ (p : Path), s.Runs → s.following = false → s.hasFollower = false →
      (∀ (dir : Bool) (e : Nat × List Byte × Bool), s.editEntry dir = some e → (e.2.2 = true → s.safetyEdit = true) → Gives (.tagWrite p false dir) s fun t =>
        t.sq = { s.sq with code := memWrL s.sq.code e.1 e.2.1 } ∧ t = { s with regs := t.regs, sq := t.sq } ∧ OnlyRegsW 6 s t [(SQR_TAGEDCMD_INV, 0), (SQR_TAGEDCMD_DIR, 0), (SQR_TAGEDCMD_REFUSED, 0)]) ∧
      (∀ (all : Bool), Gives (.ttcGo p all) s fun t => t.sq = { s.sq with inval := s.sq.inval ++ [⟨s.getF SQR_TTCFIRST_TAG, s.getF SQR_TTCLAST_TAG, all⟩] } ∧
        t.flag SQR_TTCINV_DONE = false ∧ t = { s with regs := t.regs, sq := t.sq } ∧ OnlyRegsW 6 s t [(SQR_TTCINV_ALL, 0), (SQR_TTCINV_DONE, 0)]) ∧
      (Gives (.acuBarrier p) s fun t => t.sq = { s.sq with acuBusy := true } ∧ t.flag ACU_CTL_DONE = false ∧ t = { s with regs := t.regs, sq := t.sq } ∧ OnlyRegsW 7 s t [(ACU_CTL_DONE, 0)]) ∧
      (∀ (v : W32) (m slot : Nat), s.getF ACU_MSEL_SEL p.code = m → s.getF ACU_RSEL_SLOT p.code = slot → acuSlotOk m slot = true → s.acuLocked m = false → m < 1024 → slot < 32 →
        bitOf v.toNat 0 = false → Gives (.acuRattrWrite p v) s fun t => t.asWritten ACU_RATTR_EN (m * 32 + slot) = 0 ∧ t.asWritten ACU_RATTR_RD (m * 32 + slot) = bits v.toNat 1 1 ∧
          t.asWritten ACU_RATTR_WR (m * 32 + slot) = bits v.toNat 2 1 ∧ t = { s with regs := t.regs, due := t.due } ∧ OnlyRegsW 7 s t [])) ∧
    (s.sq.inval ≠ [] → (∀ p ∈ s.sched.runs, p.2.ctx ≠ .spec) → (∀ p ∈ s.sched.runs, p.2.st ≠ .xcp) → Gives .ttcInvalidationDone s fun t =>
      t.sq.inval = [] ∧ t.sq.tagGen = s.sq.tagGen + 1 ∧ t.flag SQR_TTCINV_DONE = !s.editWaits isTtc) ∧
    (s.sq.acuBusy = true → (∀ p ∈ s.sched.runs, p.2.ctx ≠ .spec) → (∀ p ∈ s.sched.runs, p.2.st ≠ .xcp) → Gives .acuBarrierDone s fun t =>
      t.sq.acuBusy = false ∧ t.sq.acuGen = s.sq.acuGen + 1 ∧ t.flag ACU_CTL_DONE = !s.editWaits (fun i => i = .barrier))

/-- In START a module sends HELLO, notes a partner’s, joins a Lead of the other seat and enters FENCED at a clash of seats; without a partner for 10
s it asks each witness. A module in JOIN queues a packet; one in TRACK, FOLLOW or SUSPECT applies the packet whose turn has come, as the commit
of its CSN. A due TICK leaves, and counts for its grid tick; a received one is kept in JOIN and acknowledged later on. An ACK advances ACKCSN
over the packets acknowledged. SEATSAMPLE leaves with what the rings took, and on the Lead enters the seat’s values. Four P_f without a packet
hold the outputs. An audit that agrees counts AUDOK, one that has lasted 16 periods AUDSKIP. RESYNC waits for the base tick, and its completion
leads to FOLLOW. A missing packet counts, and brings a module in FOLLOW to SUSPECT. (R195, R196, R198, R199, R200, R201, R203, R204, R205, R211,
R219.) -/
def Obligations.PairPackets : Prop :=
  ∀ (s : State), s.RegsOk →
    let Sent := fun (t : State) (ty ta cs ti : Nat) => ∃ d, t.out = s.out ++ [⟨.boulevard, ty, [ta, cs, ti], d⟩]
    (s.getF PAR_STAT_STATE = 0 → s.Runs → Gives .helloSend s fun t => Sent t 7 0 0 0 ∧ t = { s with pair := { s.pair with pktSeq := t.pair.pktSeq }, out := t.out }) ∧
    (∀ (h : Hello), s.Runs → h.old42 = false → s.bundle.protoLo ≤ h.protoHi → h.protoLo ≤ s.bundle.protoHi → s.isLead = false → s.getF PAR_STAT_STATE = 0 →
      (h.state ≠ 0 → h.state ≠ 6 → h.state ≠ 7 → Gives (.helloReceive h) s fun t => t = { s with pair := { s.pair with partner := some h, helloAt := s.now } }) ∧
      (h.state = 6 ∨ h.state = 7 → h.seat ≠ s.seatB → Gives (.helloReceive h) s fun t => t.getF PAR_STAT_STATE = 1 ∧ t.getF PAR_STAT_ROLE = 0) ∧
      (h.state = 0 ∨ h.state = 6 ∨ h.state = 7 → h.seat = s.seatB → Gives (.helloReceive h) s fun t => t.getF PAR_STAT_STATE = 8 ∧ t.getF PAR_STAT_ROLE = 0)) ∧
    (s.getF PAR_STAT_STATE = 0 → s.Runs → s.pair.partner = none → s.pair.startAt + 10000000000 ≤ s.now →
      (∀ d ∈ s.witnesses, s.flag PNE_PORTSTAT_GCLERR d.2.1 = false ∧ d.2.1 < 65536) → Gives .pairStartTimeout s fun t => t.pair.grantFor = s.nextEpoch ∧
        ∃ l, t.out = s.out ++ l ∧ l.map (fun o => (o.ch, o.what, o.args)) = s.witnesses.map (fun d => (OutCh.witness, 6, [d.2.1, d.1 % 0x1000]))) ∧
    (∀ (p : CyclePkt), s.isLead = false → s.epoch ≤ p.epoch → s.pair.pktSeen.contains (p.epoch, p.pktSeq) = false →
      (s.getF PAR_STAT_STATE = 1 → Gives (.cyclePacketApply p) s fun t => t.pair.queued = s.pair.queued ++ [p] ∧ t = { s with pair := t.pair }) ∧
      (2 ≤ s.getF PAR_STAT_STATE → s.getF PAR_STAT_STATE ≤ 4 → s.pair.applied < p.csn → s.pktNext p = true → s.pair.queued = [] →
        s.enginesRefuse pairMasters .wr ((runsOf (s.pktWrites p)).map (fun r => (r.1, r.2.length))) = none → Gives (.cyclePacketApply p) s fun t => t.sq.csn = p.csn)) ∧
    (∀ (g : Nat), s.hasFollower = true → s.isFastGrid g = true → s.pair.gSent < g → g + s.pf ≤ s.tick + 1 → Gives (.tickSend g) s fun t =>
      t.pair.gSent = g ∧ Sent t 2 0 0 g) ∧
    (∀ (g epoch : Nat) (setup : List (Nat × SetupItem)), s.isLead = false → s.epoch ≤ epoch →
      (s.getF PAR_STAT_STATE = 1 → Gives (.tickPacketReceive g epoch setup) s fun t => t.pair.heldSetup = s.pair.heldSetup ++ setup ∧ t = { s with pair := t.pair }) ∧
      (2 ≤ s.getF PAR_STAT_STATE → s.getF PAR_STAT_STATE ≤ 4 → Gives (.tickPacketReceive g epoch setup) s fun t => ∃ l d, s.out ++ l ++ [⟨.boulevard, 4, [0, 0, 0], d⟩] <+: t.out)) ∧
    (∀ (csn : Nat), s.getF PAR_STAT_STATE = 6 → Gives (.ack csn) s fun t => let n := (ackPrefix (ackMark csn s.pair.sent) s.ackCsn).2
      t.getF PAR_ACKCSNLO_ACKCSN = n % 2 ^ 32 ∧ t.getF PAR_ACKCSNHI_ACKCSN = n / 2 ^ 32 % 2 ^ 32) ∧
    (2 ≤ s.getF PAR_STAT_STATE → s.getF PAR_STAT_STATE ≤ 4 → Gives .seatsampleSend s fun t => Sent t 3 0 0 0 ∧ t.pair.seatRing = [] ∧ t = { s with pair := t.pair, out := t.out }) ∧
    (∀ (vals : List (Nat × Nat × Nat)) (rings : List (Nat × List Byte)), s.isLead = true → s.enginesRefuse [0x202] .wr (rings.map (fun r => (r.1, r.2.length))) = none →
      Gives (.seatsampleReceive vals rings []) s fun t => t.io = { s.io with seatAt := s.tick, inbox := vals.foldl (fun t v => tabSet t v.1 (v.2.2, v.2.1)) s.io.inbox } ∧
        t.sq.mem = rings.foldl (fun m r => memWrL m r.1 r.2) s.sq.mem) ∧
    (2 ≤ s.getF PAR_STAT_STATE → s.getF PAR_STAT_STATE ≤ 4 → s.pair.appliedAt + 4 * s.pf * 62500 ≤ s.now → Gives .seatOutputTimeout s fun t => t.io.hold = true) ∧
    (∀ (task : TaskNo) (r : Run) (a : AuditRt), s.run? .audit task.val = some r → s.pair.audits.find? (fun a => a.task = task.val) = some a → r.abandoned = false → r.held = none →
      r.st = .ended → crc64 ((isort (fun a b => decide (a < b)) ((s.under r.store).wroteOuts task.val r.stores)).flatMap (fun n =>
        memRdL (memLay r.base (ovlLay r.img r.stores)) ((s.under r.store).outSlot task.val n) 8 ++ [memRd (memLay r.base (ovlLay r.img r.stores)) ((s.under r.store).outStat task.val n)])) = a.ohash →
      crc64 (carryBody ((ovlLay r.img r.stores).filter (fun p => (s.under r.store).carried p.1))) = a.chash → Gives (.auditComplete task) s fun t =>
        t.getF PAR_AUDCNT_AUDOK = sat PAR_AUDCNT_AUDOK.w (s.getF PAR_AUDCNT_AUDOK + 1) ∧ t.pair.audits = s.pair.audits.filter (fun a => a.task ≠ task.val)) ∧
    (∀ (task : TaskNo) (a : AuditRt), s.pair.audits.find? (fun a => a.task = task.val) = some a → a.rel + 16 * s.getF SCH_TASKCFG_PERIOD task.val ≤ s.tick → Gives (.auditTimeout task) s fun t =>
      t.getF PAR_AUDCNT_AUDSKIP = sat PAR_AUDCNT_AUDSKIP.w (s.getF PAR_AUDCNT_AUDSKIP + 1) ∧ t.pair.audits = s.pair.audits.filter (fun a => a.task ≠ task.val)) ∧
    (∀ (p : Path), s.Runs → Gives (.parResync p) s fun t => t.pair = { s.pair with cmds := s.pair.cmds ++ [(4, p)] } ∧ t = { s with regs := t.regs, pair := t.pair } ∧ OnlyRegsW 9 s t []) ∧
    (s.getF PAR_STAT_STATE = 2 → (s.pair.resync ≠ [] ∨ s.pair.resyncAll = true) → s.pair.resyncEnd = true → s.pair.queued = [] → Gives .resyncComplete s fun t =>
      t.getF PAR_STAT_STATE = 3 ∧ t.getF PAR_STAT_ROLE = 1) ∧
    (∀ (g : Nat), 1 ≤ s.getF PAR_STAT_STATE → s.getF PAR_STAT_STATE ≤ 4 → s.isFastGrid g = true → s.pair.lastTick < g → s.pair.missing < g → s.pair.handed = none →
      (g + s.pf) * 62500 + 20000 ≤ s.now → Gives (.packetMissing g) s fun t =>
        (s.getF PAR_STAT_STATE = 3 → t.getF PAR_STAT_STATE = 4) ∧
        (s.getF PAR_STAT_STATE ≠ 3 → t = { s with regs := t.regs, pair := { s.pair with missRun := s.pair.missRun + 1, missing := g } } ∧
          t.getF PAR_LOSSCNT_MISSCNT = sat 16 (s.getF PAR_LOSSCNT_MISSCNT + 1)))

/-- A module in SUSPECT that declares the Lead lost is ISOLATED without grants, one in JOIN or TRACK FENCED. A missing ACK counts, and the second in
a row makes the Lead go on in SOLO. FENCE of the partner leaves a Lead in SOLO, gives an eligible Follower the Lead with a new epoch, and FENCES
one that is not fit; elsewhere it only shows, as its release and a fault of the line do. SEATSENSE shows the partner’s seat, and its rise begins
a join under AUTOJOIN. At a grid tick the Lead sends a BEACON to each witness that gets no OUTPUT frame; in SUSPECT a WREQ goes to each. A grant
counts, and a majority of them gives a Follower the Lead; a refusal counts. A Lead without its witnesses’ assent after an unfenced loss steps
down. At the switch tick the old Lead enters TRACK; HANDOVER waits for it, or gives the Lead. (R205, R206, R207, R208, R210, R211, R212, R213,
R216, R218, R219.) -/
def Obligations.PairRoles : Prop :=
  ∀ (s : State), s.RegsOk →
    let Is := fun (t : State) (st : Nat) => t.getF PAR_STAT_STATE = st
    (s.leadLost = true → (s.getF PAR_STAT_STATE = 4 → Gives .leadLostDeclared s fun t => Is t 5 ∧ t.pair.grants = [] ∧ t.getF PAR_WITSTAT_GRANTS = 0) ∧
      (s.getF PAR_STAT_STATE = 1 ∨ s.getF PAR_STAT_STATE = 2 → Gives .leadLostDeclared s fun t => Is t 8)) ∧
    (∀ (g : Nat), s.getF PAR_STAT_STATE = 6 → s.pair.partner.any (fun h => h.state = 3 || h.state = 4) = true → s.pair.missing < g → (g + s.pf) * 62500 + 40000 ≤ s.now →
      s.pair.sent.any (fun x => x.std && x.tick = g && !x.acked) = true →
      (s.pair.missRun = 0 → Gives (.ackMissing g) s fun t => t = { s with regs := t.regs, pair := { s.pair with missRun := s.pair.missRun + 1, missing := g } } ∧
        t.getF PAR_LOSSCNT_MISSCNT = sat 16 (s.getF PAR_LOSSCNT_MISSCNT + 1)) ∧
      (1 ≤ s.pair.missRun → s.pair.heardAt + 500000 ≤ s.now → Gives (.ackMissing g) s fun t => Is t 7 ∧ t.pair.partner = none)) ∧
    (s.getF PAR_STAT_STATE = 6 → Gives .fenceRecognised s fun t => Is t 7 ∧ t.pair.partner = none ∧ t.pair.lostUnfenced = false) ∧
    (s.getF PAR_STAT_STATE = 3 ∨ s.getF PAR_STAT_STATE = 4 → s.pair.handed = none → s.nextEpoch < 2 ^ 32 → Gives .fenceRecognised s fun t => Is t 7 ∧ t.epoch = s.nextEpoch) ∧
    (s.getF PAR_STAT_STATE = 1 ∨ s.getF PAR_STAT_STATE = 2 → Gives .fenceRecognised s fun t => Is t 8) ∧
    (s.getF PAR_STAT_STATE = 0 ∨ s.getF PAR_STAT_STATE = 5 ∨ s.getF PAR_STAT_STATE = 7 ∨ s.getF PAR_STAT_STATE = 8 → Gives .fenceRecognised s fun t =>
      t.flag PAR_STAT_FENCEIN = true ∧ t.flag PAR_STAT_FENCEFLT = false ∧ t = { s with regs := t.regs } ∧ OnlyRegs s t [(PAR_STAT_FENCEIN, 0), (PAR_STAT_FENCEFLT, 0)]) ∧
    (Gives .fenceReleased s fun t => t.flag PAR_STAT_FENCEIN = false ∧ t.flag PAR_STAT_FENCEFLT = false ∧ t = { s with regs := t.regs } ∧ OnlyRegs s t [(PAR_STAT_FENCEIN, 0), (PAR_STAT_FENCEFLT, 0)]) ∧
    (Gives .fenceLineFault s fun t => t.flag PAR_STAT_FENCEFLT = true ∧ t = { s with regs := t.regs } ∧ OnlyRegs s t [(PAR_STAT_FENCEFLT, 0)]) ∧
    ((s.flag PAR_CTL_AUTOJOIN && s.joinFree) = false → Gives .seatsenseRise s fun t => t.flag PAR_STAT_PSEAT = true ∧ t = { s with regs := t.regs } ∧ OnlyRegs s t [(PAR_STAT_PSEAT, 0)]) ∧
    ((s.flag PAR_CTL_AUTOJOIN && s.joinFree) = true → Gives .seatsenseRise s fun t => t.flag PAR_STAT_PSEAT = true ∧ t.getF PAR_JOINSTAT_PHASE = 1 ∧ t.getF PAR_JOINSTAT_REFUSE = 0) ∧
    (Gives .seatsenseFall s fun t => t.flag PAR_STAT_PSEAT = false ∧ t = { s with regs := t.regs } ∧ OnlyRegs s t [(PAR_STAT_PSEAT, 0)]) ∧
    (∀ (g : Nat), s.isLead = true → s.fastGrid g = g → s.kerb.phase ≠ .off → s.flag PNE_CTL_KERBSTOP = false →
      (∀ d ∈ s.witnesses, (0x1000 ≤ d.1 ∨ tabGet 0 s.plant.outAt d.1 < g) ∧ s.flag PNE_PORTSTAT_GCLERR d.2.1 = false) → Gives (.beacon g) s fun t =>
        ∃ l, t.out = s.out ++ l ∧ l.map (fun o => (o.ch, o.what, o.args)) = s.witnesses.map (fun d => (OutCh.witness, 5, [d.2.1, d.1 % 0x1000]))) ∧
    (s.getF PAR_STAT_STATE = 4 → s.kerb.phase ≠ .off → (∀ d ∈ s.witnesses, s.flag PNE_PORTSTAT_GCLERR d.2.1 = false ∧ d.2.1 < 65536) → Gives .wreq s fun t =>
      t.pair.grantFor = s.nextEpoch ∧ ∃ l, t.out = s.out ++ l ∧ l.map (fun o => (o.ch, o.what, o.args)) = s.witnesses.map (fun d => (OutCh.witness, 6, [d.2.1, d.1 % 0x1000]))) ∧
    (∀ (link : Fin 104) (frame : List Byte) (f : Fsp) (u : State) (w : Nat), s.fspTake link 0x07 frame = (some f, u) → u.RegsOk → u.witnessId f.sta = some w →
      u.pair.grants.contains w = false → leNat (f.data.take 4) = u.pair.grantFor →
      (u.getF PAR_STAT_STATE = 0 ∨ u.getF PAR_STAT_STATE = 3 ∨ u.getF PAR_STAT_STATE = 4 → 2 * (u.pair.grants.length + 1) ≤ u.witnesses.length → Gives (.wgrant link frame) s fun t =>
        t.pair.grants = w :: u.pair.grants ∧ t.getF PAR_WITSTAT_GRANTS = (u.pair.grants.length + 1) % 32) ∧
      (u.getF PAR_STAT_STATE = 3 ∨ u.getF PAR_STAT_STATE = 4 → u.witnesses.length < 2 * (u.pair.grants.length + 1) → u.nextEpoch < 2 ^ 32 → Gives (.wgrant link frame) s fun t =>
        Is t 7 ∧ t.epoch = u.nextEpoch)) ∧
    (∀ (link : Fin 104) (frame : List Byte) (f : Fsp) (u : State), s.fspTake link 0x08 frame = (some f, u) → u.RegsOk → Gives (.wrefuse link frame) s fun t =>
      t.getF PAR_WITSTAT_REFUSED = sat PAR_WITSTAT_REFUSED.w (u.getF PAR_WITSTAT_REFUSED + 1)) ∧
    (s.isLead = true → s.pair.lostUnfenced = true → 2 * s.assents ≤ s.witnesses.length → Gives .witnessAssentLost s fun t => Is t 8 ∧ t.getF PAR_STAT_ROLE = 0) ∧
    (∀ (k : Nat), s.pair.switchAt = some k → s.getF PAR_STAT_STATE = 6 → k ≤ s.tick → Gives .switchTick s fun t => Is t 2 ∧ t.getF PAR_STAT_ROLE = 0) ∧
    (∀ (csn : Nat), s.flag PAR_STAT_ELIGIBLE = true →
      (s.pair.switchAt = none → Gives (.handover csn s.epoch) s fun t => t = { s with pair := { s.pair with handed := some csn } }) ∧
      (∀ k, s.pair.switchAt = some k → csn ≤ s.pair.applied → k ≤ s.tick → s.nextEpoch < 2 ^ 32 → Gives (.handover csn s.epoch) s fun t => Is t 6 ∧ t.epoch = s.nextEpoch))

/-- SWITCH, RELEASE and JOIN wait for the base tick; so does CLEARCFG under UPDATE-ENABLE, and without it is ignored with cause 2. A partner’s SWITCH
that reaches the Lead is scheduled or counted in SWREF. In phase 6 the Lead that waits too long refuses with cause 7; a joiner that waits enters
FENCED. An attestation fails with cause 1, 2 or 6, or leads to the configurations, which fit in phase 6. A joiner takes over the mode, held
values, retained values and progress of a transfer; its end in TRACK is noted. Once caught up, Lead and Follower are in LEAD and FOLLOW, phase 5.
An intact record of the back-fill enters its log in order, and BFPCT tells the progress. (R204, R218, R219, R220, R221, R223, R225, R443.) -/
def Obligations.PairJoin : Prop :=
  ∀ (s : State), s.RegsOk →
    (∀ (p : Path), s.Runs →
      let Waits := fun (n : Nat) (t : State) => t.pair = { s.pair with cmds := s.pair.cmds ++ [(n, p)] } ∧ t = { s with regs := t.regs, pair := t.pair } ∧ OnlyRegsW 9 s t []
      Gives (.parSwitch (some p)) s (Waits 1) ∧ Gives (.parRelease p) s (Waits 2) ∧ Gives (.parJoin p) s (Waits 3) ∧
      (s.updateEnable = true → Gives (.parClearcfg p) s (Waits 5)) ∧ (s.updateEnable = false → Gives (.parClearcfg p) s fun t => RegsOnlyW 9 s t [(KRB_IGNSTAT_CAUSE, 0), (KRB_IGNADDR_OFFSET, 0), (KRB_IGNPATH_PATH, 0)] ∧ t.getF KRB_IGNSTAT_CAUSE = 2)) ∧
    (s.isLead = true → (s.switchOk = true → Gives (.parSwitch none) s fun t => t.pair.switchAt = some (s.fastGrid (s.tick + 16)) ∧ t.flag PAR_STAT_SWPEND = true) ∧
      (s.switchOk = false → Gives (.parSwitch none) s fun t => t.getF PAR_WITSTAT_SWREF = sat PAR_WITSTAT_SWREF.w (s.getF PAR_WITSTAT_SWREF + 1) ∧ t = { s with regs := t.regs } ∧ OnlyRegs s t [(PAR_WITSTAT_SWREF, 0)])) ∧
    (s.isLead = true → s.getF PAR_JOINSTAT_PHASE = 6 → Gives .joinClockTimeout s fun t => t.getF PAR_JOINSTAT_REFUSE = 7 ∧ t.getF PAR_JOINSTAT_PHASE = 0) ∧
    (s.isLead = false → s.getF PAR_STAT_STATE = 1 → s.getF PAR_JOINSTAT_PHASE ≤ 2 → Gives .joinClockTimeout s fun t => t.getF PAR_STAT_STATE = 8 ∧ t.getF PAR_STAT_ROLE = 0) ∧
    (∀ (e : JoinEvid), s.isLead = true → s.getF PAR_JOINSTAT_PHASE = 1 →
      let Refused := fun (c : Nat) (t : State) => t.getF PAR_JOINSTAT_REFUSE = c ∧ t.getF PAR_JOINSTAT_PHASE = 0
      let fit := !e.old42 && s.qualified e.kerbDigest e.modDigest && decide (s.bundle.protoLo ≤ e.protoHi) && decide (e.protoLo ≤ s.bundle.protoHi)
      ((e.chainOk && e.nonceOk) = false → Gives (.joinAttestation e) s (Refused 1)) ∧
      ((e.chainOk && e.nonceOk) = true → e.idMarg = true → Gives (.joinAttestation e) s (Refused 2)) ∧
      ((e.chainOk && e.nonceOk) = true → e.idMarg = false → fit = false → Gives (.joinAttestation e) s (Refused 6)) ∧
      (∀ h : Hello, (e.chainOk && e.nonceOk) = true → e.idMarg = false → fit = true → s.pair.partner = some h → h.seat ≠ s.seatB → h.instId ≠ s.cfg.instId →
        Gives (.joinAttestation e) s fun t => t.getF PAR_JOINSTAT_PHASE = 6)) ∧
    (s.getF PAR_STAT_STATE = 1 →
      (∀ m, Gives (.bulk (.mode m)) s fun t => t.getF SCH_MODE_MODE = m.val % 2 ^ SCH_MODE_MODE.w ∧ t = { s with regs := t.regs } ∧ OnlyRegs s t [(SCH_MODE_MODE, 0)]) ∧
      (∀ n, Gives (.bulk (.percent n)) s fun t => t.getF PAR_JOINSTAT_BULKPCT = n.val % 128 ∧ t.getF PAR_JOINSTAT_PHASE = 3 ∧ t = { s with regs := t.regs } ∧ OnlyRegs s t [(PAR_JOINSTAT_BULKPCT, 0), (PAR_JOINSTAT_PHASE, 0)]) ∧
      (∀ l, Gives (.bulk (.held l)) s fun t => t = { s with sched := { s.sched with held := l.foldl (fun t x => tabSet t x.1 (x.2.2, x.2.1)) s.sched.held } }) ∧
      (∀ c g l, Gives (.bulk (.retained c g l)) s fun t => t = { s with arc := { s.arc with ret := l.foldl (fun o r => ovlWrL o r.1 r.2) [], retCsn := c, retGen := some g } })) ∧
    (s.getF PAR_STAT_STATE = 2 → ∀ j, Gives (.bulk (.last j)) s fun t => t = { s with pair := { s.pair with resyncEnd := true } }) ∧
    (s.isLead = true → s.getF PAR_JOINSTAT_PHASE = 4 → Gives .trackCaughtUp s fun t => t.getF PAR_JOINSTAT_PHASE = 5 ∧ (s.getF PAR_STAT_STATE = 7 → t.getF PAR_STAT_STATE = 6)) ∧
    (s.isLead = false → s.getF PAR_STAT_STATE = 2 → s.getF PAR_JOINSTAT_PHASE = 4 → s.pair.bulkDone = true → Gives .trackCaughtUp s fun t =>
      t.getF PAR_JOINSTAT_PHASE = 5 ∧ t.getF PAR_STAT_STATE = 3) ∧
    (∀ (r : RecData), r.intact = true → 2 ≤ s.getF PAR_STAT_STATE → s.getF PAR_STAT_STATE ≤ 4 → let x : ArcRec := { recOf r with flags := r.flags ||| 4 }
      (s.arc.cyc.any (fun y => y.seq = x.seq && y.payload ≠ x.payload) = false → Gives (.backfillRecord false r) s fun t =>
        t.arc.cyc = insSort (fun a b => decide (a.seq < b.seq)) x (s.arc.cyc.filter (fun y => !decide (y.seq = x.seq))) ∧
        t.pair.backfillLow = min s.pair.backfillLow x.seq ∧ t = { s with regs := t.regs, arc := t.arc, pair := t.pair } ∧ OnlyRegs s t [(PAR_JOINSTAT_BFPCT, 0)]) ∧
      (s.arc.evs.any (fun y => y.seq = x.seq && y.seat = x.seat && y.payload ≠ x.payload) = false → Gives (.backfillRecord true r) s fun t =>
        t = { s with arc := { s.arc with evs := insSort (fun a b => decide (a.seq < b.seq)) x (s.arc.evs.filter (fun y => !(decide (y.seq = x.seq) && decide (y.seat = x.seat)))) } }))

/-- An INPUT frame that is taken, and as long as its signals need, shows MODE and NOTSYNC, moves the station as Table 11-4 says and notes the frame’s
arrival and instant; one of another length counts, and one of a station not configured changes nothing of the kind. An EVENT asks for the tasks
of its channels. A CONFACK with the right digest leads to OPERATE, one with an error to REFUSED; an attempt not confirmed is repeated, at most 3
in all. A watchdog that expires drops a station from OPERATE and counts it. A PEER frame of a data set enters its values, and the expiry of its
watchdog takes the arrival away. In HOLD each held task’s last OUTPUT frames leave again at its grid tick. A station that has not reported its
mode in time is MISSED, the command leaves again when due, and after MODEWAIT its inputs are BAD. PNE_PORTCFG changes its link and the rate of
its cage; a link’s change shows. (R286, R289, R291, R294, R295, R196, R244, R296, R42, R311, R312.) -/
def Obligations.PlantStations : Prop :=
  ∀ (s : State), s.RegsOk →
    (∀ (link : Fin 104) (frame : List Byte) (f : Fsp) (u : State), s.fspTake link 0x02 frame = (some f, u) → u.RegsOk → f.epoch ≤ u.epoch →
      (u.station? f.sta = none → Gives (.stationInput link frame) s fun t => t = { u with pair := t.pair }) ∧
      (∀ d : StationDef, u.station? f.sta = some d → let n := d.no.val; let l := u.stationSigs n false; let fits := f.data.length = sigBytes l + l.length
        (bitOf f.flags 0 = false → ¬ fits → Gives (.stationInput link frame) s fun t =>
          t.getF PNE_PORTSTAT_DISCCNT link.val = sat PNE_PORTSTAT_DISCCNT.w (u.getF PNE_PORTSTAT_DISCCNT link.val + 1) ∧ t = { u with pair := t.pair, regs := t.regs }) ∧
        (bitOf f.flags 0 = true ∨ fits → Gives (.stationInput link frame) s fun t =>
          t.getF PNE_STASTAT_STATE n = staNext u n (f.cycle % 256) ∧ t.getF PNE_STASTAT_MODE n = f.cycle % 256 ∧ t.flag PNE_STASTAT_NOTSYNC n = bitOf f.flags 1 ∧
          (t.staRt n).flagDropped = bitOf f.flags 3 ∧ (t.staRt n).arrived = u.now ∧ (t.staRt n).instant = extendStamp f.stamp u.now))) ∧
    (∀ (link : Fin 104) (frame : List Byte) (f : Fsp) (u : State), s.fspTake link 0x03 frame = (some f, u) → Gives (.stationEvent link frame) s fun t =>
      t = { u with sched := { u.sched with batch := t.sched.batch, seq := t.sched.seq } } ∧
      ∀ i, i < f.data.length / 8 → let e := leNat ((f.data.drop (8 * i)).take 8)
        ∀ d ∈ u.cfg.tasks, d.triggers.contains (.station (Fin.ofNat 4096 f.sta) (bits e 0 17)) = true → u.kind d.no.val = 1 →
          ∃ q, ⟨d.no.val, extendStamp (bits e 32 32) u.now, q, .activate, none⟩ ∈ t.sched.batch) ∧
    (∀ (link : Fin 104) (frame : List Byte) (f : Fsp) (u : State) (d : StationDef), s.fspTake link 0x0C frame = (some f, u) → u.RegsOk → u.station? f.sta = some d →
      (u.getF PNE_STASTAT_STATE d.no.val ≠ 1 → Gives (.confack link frame) s fun t => t = u) ∧
      (u.getF PNE_STASTAT_STATE d.no.val = 1 → Gives (.confack link frame) s fun t =>
        ((f.data.getD 32 0).toNat ≠ 0 → t.getF PNE_STASTAT_STATE d.no.val = 5) ∧
        ((f.data.getD 32 0).toNat = 0 → leNat (f.data.take 32) = d.digest → t.getF PNE_STASTAT_STATE d.no.val = 2) ∧
        ((f.data.getD 32 0).toNat = 0 → leNat (f.data.take 32) ≠ d.digest → t.getF PNE_STASTAT_STATE d.no.val = if 3 ≤ (u.staRt d.no.val).tries then 5 else 1) ∧
        t = { u with regs := t.regs } ∧ OnlyRegs u t [(PNE_STASTAT_STATE, d.no.val)])) ∧
    (∀ (sta : StationNo) (d : StationDef), s.kerb.phase ≠ .off → s.station? sta.val = some d → s.getF PNE_STASTAT_STATE sta.val = 1 →
      (3 ≤ (s.staRt sta.val).tries → Gives (.configRetry sta) s fun t => t = s) ∧
      ((s.staRt sta.val).tries < 3 → s.flag PNE_PORTSTAT_GCLERR d.link.val = false → Gives (.configRetry sta) s fun t =>
        (t.staRt d.no.val).tries = (s.staRt d.no.val).tries + 1 ∧ ∃ o, t.out = s.out ++ [⟨.station, 0x0B, [d.link.val, d.no.val], o⟩])) ∧
    (∀ (sta : StationNo), s.kerb.phase ≠ .off →
      (s.getF PNE_STASTAT_STATE sta.val ≠ 2 → Gives (.iwdtExpiry sta) s fun t => t = s) ∧
      (s.getF PNE_STASTAT_STATE sta.val = 2 → Gives (.iwdtExpiry sta) s fun t => t.getF PNE_STASTAT_STATE sta.val = 3 ∧ (t.staRt sta.val).onTime = 0 ∧
        t.getF PNE_STASTAT_DROPCNT sta.val = (if (s.staRt sta.val).flagAt = some s.now then s.getF PNE_STASTAT_DROPCNT sta.val
          else sat PNE_STASTAT_DROPCNT.w (s.getF PNE_STASTAT_DROPCNT sta.val + 1)))) ∧
    (∀ (link : Fin 104) (frame : List Byte) (f : Fsp) (u : State), s.fspTake link 0x10 frame = (some f, u) →
      (f.epoch < tabGet 0 u.plant.prodHe f.sta → Gives (.peerFrame link frame) s fun t => t = u) ∧
      (tabGet 0 u.plant.prodHe f.sta ≤ f.epoch → let set := leNat (f.data.take 2); let a := u.cfg.peers.find? (fun p => p.producer = f.sta && p.set = set)
        (a = none ∨ bitOf f.flags 0 = true → Gives (.peerFrame link frame) s fun t => t = { u with plant := { u.plant with prodHe := tabSet u.plant.prodHe f.sta f.epoch } }) ∧
        (∀ p, a = some p → bitOf f.flags 0 = false → f.data.length = 4 + sigBytes (u.peerSigs p.set) →
          (u.sysAddr .station u.seatB (0x1000 + p.set)).bind (fun a => u.engineRefuses false 0x203 .wr a (f.data.length - 4)) = none → Gives (.peerFrame link frame) s fun t =>
          t.io = { u.io with inbox := takeVals (u.peerSigs p.set) (f.data.drop 4) [] u.io.inbox } ∧ tabGet? t.plant.peerAt p.set = some u.now))) ∧
    (∀ (set : Nat), s.kerb.phase ≠ .off →
      (s.cfg.peers.find? (fun p => p.set = set) = none → Gives (.peerWatchdogExpiry set) s fun t => t = s) ∧
      (∀ p, s.cfg.peers.find? (fun p => p.set = set) = some p → Gives (.peerWatchdogExpiry set) s fun t => t.plant = { s.plant with peerAt := tabDel s.plant.peerAt set })) ∧
    ((s.isLead && s.mode = 2) = false → Gives .holdOutputRepeat s fun t => t = s) ∧
    (s.isLead = true → s.mode = 2 → s.kerb.phase ≠ .off → s.flag PNE_CTL_KERBSTOP = false → (∀ d ∈ s.cfg.stations, s.flag PNE_PORTSTAT_GCLERR d.link.val = false) →
      Gives .holdOutputRepeat s fun t => t = { s with plant := { s.plant with outAt := t.plant.outAt, fspSeq := t.plant.fspSeq }, out := t.out } ∧
        ∃ l, t.out = s.out ++ l ∧ l.map (fun o => (o.ch, o.what, o.args)) =
          (s.cfg.tasks.filter (fun d => decide (s.kind d.no.val = 0) && !s.isSafety d.no.val && decide (s.gridFrom d.no.val s.tick = s.tick))).flatMap (fun d =>
            (tabGet [] s.plant.lastOut d.no.val).filterMap (fun x => (s.station? x.1).map (fun d => (OutCh.station, 1, [d.link.val, x.1]))))) ∧
    (∀ (p : Path) (v : W32), s.Runs → let l := s.getF PNE_PORTSEL_LINK p.code; let bad := bits v.toNat 2 2 ≠ 0 ∧ (bits v.toNat 4 7 / 4 = l / 4 ∨ 104 ≤ bits v.toNat 4 7)
      (104 ≤ l → Gives (.pnePortcfgWrite p v) s fun t => RegsOnlyW 11 s t [(KRB_IGNSTAT_CAUSE, 0), (KRB_IGNADDR_OFFSET, 0), (KRB_IGNPATH_PATH, 0)] ∧ t.getF KRB_IGNSTAT_CAUSE = 6) ∧
      (l < 104 → bad → Gives (.pnePortcfgWrite p v) s fun t => RegsOnlyW 11 s t [(KRB_IGNSTAT_CAUSE, 0), (KRB_IGNADDR_OFFSET, 0), (KRB_IGNPATH_PATH, 0)] ∧ t.getF KRB_IGNSTAT_CAUSE = 5) ∧
      (l < 104 → ¬ bad → Gives (.pnePortcfgWrite p v) s fun t => t.asWritten PNE_PORTCFG_REDUN l = bits v.toNat 2 2 ∧ t.asWritten PNE_PORTCFG_PARTNER l = bits v.toNat 4 7 ∧
        t.asWritten PNE_PORTCFG_PTPEN l = bits v.toNat 11 1 ∧ (∀ i, i < 4 → t.asWritten PNE_PORTCFG_SPEED (l / 4 * 4 + i) = bits v.toNat 0 2) ∧ t = { s with regs := t.regs, due := t.due } ∧ OnlyRegsW 11 s t [])) ∧
    (∀ (link : Fin 2) (up : Bool), Gives (.boulevardLinkChange link up) s fun t => t.getF PAR_STAT_LINKUP / 2 ^ link.val % 2 = b2n up ∧
      t.getF PAR_STAT_LINKUP / 2 ^ (1 - link.val) % 2 = s.getF PAR_STAT_LINKUP / 2 ^ (1 - link.val) % 2 ∧ t = { s with regs := t.regs, arc := t.arc } ∧ OnlyRegs s t [(PAR_STAT_LINKUP, 0)]) ∧
    (∀ (link : Fin 104) (up : Bool) (rate : BitVec 2), s.kerb.phase ≠ .off → Gives (.plantLinkUpDown link up rate) s fun t => t.flag PNE_PORTSTAT_UP link.val = up ∧
      t.getF PNE_PORTSTAT_RATE link.val = (if up then rate.toNat else 0) ∧ t = { s with regs := t.regs } ∧ OnlyRegs s t [(PNE_PORTSTAT_UP, link.val), (PNE_PORTSTAT_RATE, link.val)]) ∧
    (∀ (sta : StationNo) (mode : Byte) (k : Nat) (rs : Bool) (at_ : Nat), 
      let late := (s.getF PNE_STASTAT_STATE sta.val = 2 ∧ s.getF PNE_STASTAT_MODE sta.val ≠ mode.toNat ∧ at_ + hopsMax s.cfg.stations + s.writerPeriod sta.val ≤ s.now)
      (¬ late → Gives (.stationModeMissed sta mode ⟨k, rs, at_⟩) s fun t => t = s) ∧
      (late → Gives (.stationModeMissed sta mode ⟨k, rs, at_⟩) s fun t => t.getF PNE_STASTAT_STATE sta.val = 4 ∧
        t.staRt sta.val = { s.staRt sta.val with expect := mode.toNat, change := k, badMode := false, isReset := rs, missedAt := s.now, sentAt := none })) ∧
    (∀ (sta : StationNo) (d : StationDef), s.station? sta.val = some d → s.isLead = true → s.getF PNE_STASTAT_STATE sta.val = 4 → s.kerb.phase ≠ .off →
      s.flag PNE_PORTSTAT_GCLERR d.link.val = false → (∀ x, (s.staRt sta.val).sentAt = some x → x + (if (s.staRt sta.val).badMode then 1000000000 else 10000000) ≤ s.now) →
      Gives (.modeChangeResend sta) s fun t => (t.staRt sta.val).sentAt = some s.now ∧ ∃ o, t.out = s.out ++ [⟨.station, 9, [d.link.val, d.no.val], o⟩]) ∧
    (∀ (sta : StationNo), let past := s.getF PNE_STASTAT_STATE sta.val = 4 ∧ (s.staRt sta.val).missedAt + s.getF PNE_CUTCFG_MODEWAIT * 1000000000 ≤ s.now
      (¬ past → Gives (.modewaitExpiry sta) s fun t => t = s) ∧
      (past → Gives (.modewaitExpiry sta) s fun t => t.staRt sta.val = { s.staRt sta.val with badMode := true } ∧ t = { s with plant := t.plant }))

/-- An interval of Sync shows the domain’s offset and the offset between the domains, and counts as good below 100 ns; the 16th in a row regains the
domain; in START the first of the active domain steps the clock. An announce message names the master. A domain that is lost shows it: another
that holds and is active goes on, and with none the clock is in holdover. The change to the other domain, by SWITCH or back to DOMPREF, is
announced by a Lead and made at once by a module that neither leads nor follows; SWITCH is else ignored with cause 3 or 4. A split of the domains
shows. A pulse train is armed, stopped and ended as R306 says, with causes 4 and 5. An edge that is selected is numbered, and opens or closes a
measurement. The tails of rings are written by the Lead alone. (R300, R301, R302, R303, R304, R306, R307, R308, R310, R379, R393.) -/
def Obligations.PlantTime : Prop :=
  ∀ (s : State), s.RegsOk →
    let Chosen := fun (d : Nat) (t : State) => (s.getF PAR_STAT_STATE = 6 → t.plant.domAt = some (s.tick + 2 * s.pf, d)) ∧
      (s.getF PAR_STAT_STATE ∉ [2, 3, 4, 6] → t.getF TIM_STAT_ACTIVE = d % 2)
    (∀ (dom : Bool) (m : Nat), s.kerb.phase ≠ .off → Gives (.ptpAnnounce dom m) s fun t =>
      t.dom (b2n dom) = { s.dom (b2n dom) with announced := s.now, master := m } ∧ t = { s with plant := t.plant, out := t.out }) ∧
    (∀ (dom : Bool) (off : Int), s.kerb.phase ≠ .off → let d := b2n dom
      let steps := (s.getF PAR_STAT_STATE = 0 ∧ s.plant.stepped = false ∧ s.getF TIM_STAT_ACTIVE = d)
      let g := if off.natAbs < 100 then sat 32 ((s.dom d).good + 1) else 0
      (¬ steps → s.domHeld d = true ∨ g < 16 → Gives (.ptpSync dom off) s fun t =>
        t.dom d = { s.dom d with good := g, offset := off } ∧ t.now = s.now ∧ t.getF TIM_STAT_OFFSET = unsgn 16 (max (-32768) (min 32767 t.domOffset))) ∧
      (steps → s.domHeld d = true ∨ (s.dom d).good < 15 → Gives (.ptpSync dom off) s fun t =>
        t.now = ((s.now : Int) + off).toNat ∧ t.tick = ((s.now : Int) + off).toNat / 62500 ∧ t.plant.stepped = true ∧ t.dom d = { s.dom d with good := sat 32 ((s.dom d).good + 1), offset := 0 }) ∧
      (¬ steps → s.domHeld d = false → 16 ≤ g → s.getF TIM_STAT_ACTIVE = d ∨ s.domHeld (s.getF TIM_STAT_ACTIVE) = true → Gives (.ptpSync dom off) s fun t =>
        t.domHeld d = true ∧ (t.dom d).lockedAt = s.now ∧ t.flag TIM_STAT_HOLDOVER = false)) ∧
    (∀ (dom : Bool), s.kerb.phase ≠ .off → let d := b2n dom
      (s.domHeld d = false → Gives (.ptpDomainLost dom) s fun t => t.dom d = { s.dom d with good := 0 } ∧ t = { s with plant := t.plant }) ∧
      (s.domHeld d = true → s.domHeld (1 - d) = false → Gives (.ptpDomainLost dom) s fun t => t.domHeld d = false ∧ t.flag TIM_STAT_HOLDOVER = true) ∧
      (s.domHeld d = true → s.domHeld (1 - d) = true → s.getF TIM_STAT_ACTIVE = 1 - d → Gives (.ptpDomainLost dom) s fun t =>
        t.domHeld d = false ∧ t.flag TIM_STAT_HOLDOVER = false ∧ t.getF TIM_STAT_ACTIVE = 1 - d)) ∧
    (s.kerb.phase ≠ .off → let p := s.getF TIM_CTL_DOMPREF
      let back := (s.flag TIM_CTL_AUTOSWITCH = true ∧ s.getF TIM_STAT_ACTIVE ≠ p ∧ s.domHeld p = true ∧ s.flag TIM_STAT_DOMSPLIT = false ∧ (s.dom p).lockedAt + 60000000000 ≤ s.now)
      (back → Gives .domainSwitchBack s (Chosen p)) ∧ (¬ back → Gives .domainSwitchBack s fun t => t = s)) ∧
    (s.kerb.phase ≠ .off → (s.domApart = true → s.flag TIM_STAT_DOMSPLIT = false → Gives (.domainSplit true) s fun t => t.flag TIM_STAT_DOMSPLIT = true ∧ t = { s with regs := t.regs, arc := t.arc } ∧ OnlyRegs s t [(TIM_STAT_DOMSPLIT, 0)]) ∧
      (s.domApart = false ∨ s.flag TIM_STAT_DOMSPLIT = true → Gives (.domainSplit true) s fun t => t = s) ∧
      (s.domApart = true → Gives (.domainSplit false) s fun t => t = s) ∧
      (s.domApart = false → Gives (.domainSplit false) s fun t => t.flag TIM_STAT_DOMSPLIT = false ∧ t = { s with regs := t.regs } ∧ OnlyRegs s t [(TIM_STAT_DOMSPLIT, 0)])) ∧
    (∀ (p : Path), s.Runs → let d := 1 - s.getF TIM_STAT_ACTIVE
      (s.getF PAR_STAT_STATE = 2 ∨ s.getF PAR_STAT_STATE = 3 ∨ s.getF PAR_STAT_STATE = 4 → Gives (.timSwitch p) s fun t => RegsOnlyW 2 s t [(KRB_IGNSTAT_CAUSE, 0), (KRB_IGNADDR_OFFSET, 0), (KRB_IGNPATH_PATH, 0)] ∧ t.getF KRB_IGNSTAT_CAUSE = 3) ∧
      (s.getF PAR_STAT_STATE ∉ [2, 3, 4] → s.domHeld d = false → Gives (.timSwitch p) s fun t => RegsOnlyW 2 s t [(KRB_IGNSTAT_CAUSE, 0), (KRB_IGNADDR_OFFSET, 0), (KRB_IGNPATH_PATH, 0)] ∧ t.getF KRB_IGNSTAT_CAUSE = 4) ∧
      (s.getF PAR_STAT_STATE ∉ [2, 3, 4] → s.domHeld d = true → Gives (.timSwitch p) s (Chosen d))) ∧
    (∀ (p : Path), s.Runs → s.getF TIM_POSEL_OUT p.code < 2 → let o := s.getF TIM_POSEL_OUT p.code
      let start := (s.now / 1000000000 / 2 ^ 32 * 2 ^ 32 + s.asWritten TIM_POSTART_SEC o) * 1000000000 + s.asWritten TIM_POSTARTNS_NS o
      let per := s.asWritten TIM_POPERIOD_NS o; let w := s.asWritten TIM_POWIDTH_NS o
      let bad := (per < 1000 ∨ 4000000000 < per ∨ w < 8 ∨ per < w + 8)
      (start < s.now + 10000 → Gives (.pulseArm p) s fun t => t.getF KRB_IGNSTAT_CAUSE = 4 ∧ t.flag TIM_POCTL_LATE o = true ∧ t.plant = s.plant) ∧
      (s.now + 10000 ≤ start → bad → Gives (.pulseArm p) s fun t => RegsOnlyW 2 s t [(KRB_IGNSTAT_CAUSE, 0), (KRB_IGNADDR_OFFSET, 0), (KRB_IGNPATH_PATH, 0)] ∧ t.getF KRB_IGNSTAT_CAUSE = 5) ∧
      (s.now + 10000 ≤ start → ¬ bad → Gives (.pulseArm p) s fun t =>
        t.plant = { s.plant with pulses := tabSet s.plant.pulses o ⟨start, per, w, decide (s.asWritten TIM_POCTL_POL o ≠ 0), s.asWritten TIM_POCTL_COUNT o, false⟩ } ∧
        t.flag TIM_POCTL_RUNNING o = true ∧ t.flag TIM_POCTL_LATE o = false ∧ t = { s with regs := t.regs, plant := t.plant, out := t.out } ∧ OnlyRegsW 2 s t [(TIM_POCTL_RUNNING, o), (TIM_POCTL_LATE, o)]) ∧
      (tabGet? s.plant.pulses o = none → Gives (.pulseStop p) s fun t => t = { s with regs := t.regs } ∧ OnlyRegsW 2 s t []) ∧
      (∀ r, tabGet? s.plant.pulses o = some r → Gives (.pulseStop p) s fun t => tabGet? t.plant.pulses o = some { r with stopping := true } ∧
        t.out = s.out ++ [⟨.lines, 0x301, [o], []⟩] ∧ t = { s with regs := t.regs, plant := t.plant, out := t.out } ∧ OnlyRegsW 2 s t [])) ∧
    (∀ (out : Fin 2), (tabGet? s.plant.pulses out.val = none → Gives (.pulseTrainEnd out) s fun t => t = s) ∧
      (∀ r, tabGet? s.plant.pulses out.val = some r → tabRising s.plant.pulses = true →
        (r.count = 0 → r.stopping = false → Gives (.pulseTrainEnd out) s fun t => t = s) ∧
        (r.count ≠ 0 ∨ r.stopping = true → Gives (.pulseTrainEnd out) s fun t => tabGet? t.plant.pulses out.val = none ∧ t.flag TIM_POCTL_RUNNING out.val = false ∧
          t = { s with regs := t.regs, plant := t.plant } ∧ OnlyRegs s t [(TIM_POCTL_RUNNING, out.val)]))) ∧
    (∀ (inp falling : Bool) (x : Nat), let sel := bitOf (s.getF (if inp then TIM_CAPCFG_EDGE3 else TIM_CAPCFG_EDGE2)) (b2n falling)
      (sel = false → Gives (.tioCaptureEdge inp falling x) s fun t => t = s) ∧
      (sel = true → Gives (.tioCaptureEdge inp falling x) s fun t => t.plant.capSeq = (s.plant.capSeq + 1) % 2 ^ 32 ∧
        (s.flag TIM_CAPCFG_MEASEN = true → s.flag TIM_CAPCFG_STARTIN = inp → s.flag TIM_CAPCFG_STARTEDGE = falling →
          t.plant.meas = some ⟨x / 4 * 4, s.plant.capSeq, s.plant.meas.isSome⟩) ∧
        (s.flag TIM_CAPCFG_MEASEN = true → s.flag TIM_CAPCFG_STARTIN = !inp → s.flag TIM_CAPCFG_STOPEDGE = falling → t.plant.meas = none))) ∧
    (∀ (p : Path) (v : BitVec 16), s.Runs →
      (s.isLead = false → Gives (.dioEdgetailWrite p v) s fun t => RegsOnlyW 13 s t [(KRB_IGNSTAT_CAUSE, 0), (KRB_IGNADDR_OFFSET, 0), (KRB_IGNPATH_PATH, 0)] ∧ t.getF KRB_IGNSTAT_CAUSE = 3) ∧
      (∀ a, s.isLead = true → s.sysAddr .dioTail s.seatB 0 = some a → Gives (.dioEdgetailWrite p v) s fun t => t.sched = { s.sched with tails := s.sched.tails ++ [(a, v.toNat)] } ∧ t = { s with regs := t.regs, sched := t.sched } ∧ OnlyRegsW 13 s t []) ∧
      (s.isLead = true → s.sysAddr .dioTail s.seatB 0 = none → Gives (.dioEdgetailWrite p v) s fun t => t.asWritten DIO_EDGETAIL_TAIL 0 = v.toNat ∧ t = { s with regs := t.regs, due := t.due } ∧ OnlyRegsW 13 s t []) ∧
      (s.isLead = false → Gives (.timCapcfgTailWrite p v) s fun t => RegsOnlyW 2 s t [(KRB_IGNSTAT_CAUSE, 0), (KRB_IGNADDR_OFFSET, 0), (KRB_IGNPATH_PATH, 0)] ∧ t.getF KRB_IGNSTAT_CAUSE = 3) ∧
      (∀ a, s.isLead = true → s.sysAddr .timTail s.seatB 0 = some a → Gives (.timCapcfgTailWrite p v) s fun t => t.sched = { s.sched with tails := s.sched.tails ++ [(a, v.toNat)] } ∧ t = { s with regs := t.regs, sched := t.sched } ∧ OnlyRegsW 2 s t []) ∧
      (s.isLead = true → s.sysAddr .timTail s.seatB 0 = none → Gives (.timCapcfgTailWrite p v) s fun t => t.asWritten TIM_CAPCFG_TAIL 0 = v.toNat ∧ t = { s with regs := t.regs, due := t.due } ∧ OnlyRegsW 2 s t []) ∧
      (s.isLead = false → Gives (.canRxtailWrite p v) s fun t => RegsOnlyW 16 s t [(KRB_IGNSTAT_CAUSE, 0), (KRB_IGNADDR_OFFSET, 0), (KRB_IGNPATH_PATH, 0)] ∧ t.getF KRB_IGNSTAT_CAUSE = 3) ∧
      (∀ a, s.isLead = true → s.sysAddr .canRxTail s.seatB (s.getF CAN_PORTSEL_PORT p.code) = some a → Gives (.canRxtailWrite p v) s fun t => t.sched = { s.sched with tails := s.sched.tails ++ [(a, v.toNat)] } ∧ t = { s with regs := t.regs, sched := t.sched } ∧ OnlyRegsW 16 s t []) ∧
      (s.isLead = true → s.sysAddr .canRxTail s.seatB (s.getF CAN_PORTSEL_PORT p.code) = none → Gives (.canRxtailWrite p v) s fun t => t.asWritten CAN_RXTAIL_TAIL (s.getF CAN_PORTSEL_PORT p.code) = v.toNat ∧ t = { s with regs := t.regs, due := t.due } ∧ OnlyRegsW 16 s t []))

/-- A package command elsewhere than on a Lead, in START or in FENCED is refused with cause 3, one in the wrong step with cause 4, and RESULT shows
2. OPEN begins PREPARE with an empty inactive store; CHUNK keeps a piece whose CRC is right and shows RESULT 1 of another; CLOSE refuses a
package by its cause and ends the change, or has it checked in the inactive store; keys in it need UPDATE-ENABLE. ARM and LOAD of a checked
package wait for the transfer with a Follower, else go on; what bars them is their cause. ABANDON ends a change up to the tick before A. The
transfer complete, a change goes on to MIGRATE and a load to its announcement, the pass complete to the announcement of A. At A a Lead, or a
module without a role, has the store in force, its record in MRAM and STEP 5 or 6; before A, or while following, the command changes nothing.
(R237, R238, R239, R240, R241, R243, R246, R283.) -/
def Obligations.OnlineChange : Prop :=
  ∀ (s : State), s.RegsOk →
    let Refused := fun (c : Nat) (t : State) => t.getF KRB_IGNSTAT_CAUSE = c ∧ t.getF SCH_CFGSTAT_RESULT = 2 ∧
      RegsOnlyW 3 s t [(KRB_IGNSTAT_CAUSE, 0), (KRB_IGNADDR_OFFSET, 0), (KRB_IGNPATH_PATH, 0), (SCH_CFGSTAT_RESULT, 0)]
    (∀ (p : Path), s.Runs →
      (s.isLead = false → Gives (.olcArm p) s fun t => RegsOnlyW 3 s t [(KRB_IGNSTAT_CAUSE, 0), (KRB_IGNADDR_OFFSET, 0), (KRB_IGNPATH_PATH, 0)] ∧ t.getF KRB_IGNSTAT_CAUSE = 3) ∧
      (s.isLead = true → s.armCause ≠ 0 → Gives (.olcArm p) s fun t => RegsOnlyW 3 s t [(KRB_IGNSTAT_CAUSE, 0), (KRB_IGNADDR_OFFSET, 0), (KRB_IGNPATH_PATH, 0)] ∧ t.getF KRB_IGNSTAT_CAUSE = s.armCause) ∧
      (∀ k, s.isLead = true → s.armCause = 0 → s.olc.cand = some k → Gives (.olcArm p) s fun t => t.step_ = (if s.getF PAR_STAT_STATE = 6 then 2 else 3) ∧
        t.olc = { s.olc with load := false, cand := some k, actAt := none }) ∧
      (let open_ := (1 ≤ s.step_ ∧ s.step_ ≤ 4 ∧ ∀ a, s.olc.actAt = some a → s.tick < a);
        (s.isLead = false → Gives (.olcAbandon p) s fun t => RegsOnlyW 3 s t [(KRB_IGNSTAT_CAUSE, 0), (KRB_IGNADDR_OFFSET, 0), (KRB_IGNPATH_PATH, 0)] ∧ t.getF KRB_IGNSTAT_CAUSE = 3) ∧
        (s.isLead = true → ¬ open_ → Gives (.olcAbandon p) s fun t => RegsOnlyW 3 s t [(KRB_IGNSTAT_CAUSE, 0), (KRB_IGNADDR_OFFSET, 0), (KRB_IGNPATH_PATH, 0)] ∧ t.getF KRB_IGNSTAT_CAUSE = 4) ∧
        (s.isLead = true → open_ → Gives (.olcAbandon p) s fun t => t.step_ = 7 ∧ t.flag SCH_CFGSTAT_OPEN = false ∧ t.flag SCH_CFGSTAT_CHECKED = false ∧
          t.getF SCH_OLCSTAT_ABNCNT = sat SCH_OLCSTAT_ABNCNT.w (s.getF SCH_OLCSTAT_ABNCNT + 1) ∧ t.olc = { s.olc with actAt := none, load := false, cand := none })) ∧
      (s.pkgState = false → Gives (.cfgOpen p) s (Refused 3) ∧ Gives (.cfgChunk p) s (Refused 3) ∧ (∀ k, Gives (.cfgClose p k) s (Refused 3)) ∧ Gives (.cfgLoad p) s (Refused 3)) ∧
      (s.pkgState = true → s.step_ ∉ [0, 6, 7] → Gives (.cfgOpen p) s (Refused 4)) ∧
      (s.pkgState = true → s.step_ ∈ [0, 6, 7] → Gives (.cfgOpen p) s fun t => t.step_ = 1 ∧ t.flag SCH_CFGSTAT_OPEN = true ∧ t.flag SCH_CFGSTAT_CHECKED = false ∧
        t.pkgs = tabDel s.pkgs (1 - s.actStore) ∧ t.olc = { s.olc with chunks := [], cand := none, actAt := none, load := false, farReady := false }) ∧
      (s.pkgState = true → s.flag SCH_CFGSTAT_OPEN = false → Gives (.cfgChunk p) s (Refused 4)) ∧
      (s.pkgState = true → s.flag SCH_CFGSTAT_OPEN = true → let d := memRdL s.olc.win 0 32768
        (crc32c d ≠ s.getF SCH_CFGCRC_CRC → Gives (.cfgChunk p) s fun t => t.getF SCH_CFGSTAT_RESULT = 1 ∧ t = { s with regs := t.regs } ∧ OnlyRegsW 3 s t [(SCH_CFGSTAT_RESULT, 0)]) ∧
        (crc32c d = s.getF SCH_CFGCRC_CRC → Gives (.cfgChunk p) s fun t => t.getF SCH_CFGSTAT_RESULT = 0 ∧
          t.getF SCH_CFGSTAT_CHUNKS = sat SCH_CFGSTAT_CHUNKS.w (s.getF SCH_CFGSTAT_CHUNKS + 1) ∧
          t.olc = { s.olc with chunks := tabSet s.olc.chunks (s.getF SCH_CFGOFF_OFF) d } ∧ t = { s with regs := t.regs, olc := t.olc } ∧ OnlyRegsW 3 s t [(SCH_CFGSTAT_RESULT, 0), (SCH_CFGSTAT_CHUNKS, 0)])) ∧
      (∀ (k : Pkg), s.pkgState = true → let whole := (s.flag SCH_CFGSTAT_OPEN && chunksUpTo s.olc.chunks (s.getF SCH_CFGLEN_LEN))
        let keys := (k.keys.isEmpty || s.updateEnable)
        (whole = false → Gives (.cfgClose p k) s (Refused 4)) ∧
        (whole = true → keys = false → Gives (.cfgClose p k) s (Refused 2)) ∧
        (whole = true → keys = true → s.refuseCause k ≠ 0 → Gives (.cfgClose p k) s fun t => t.getF SCH_CFGSTAT_REFUSE = s.refuseCause k ∧ t.flag SCH_CFGSTAT_OPEN = false ∧ t.step_ = 7 ∧
          t.olc = { s.olc with actAt := none, load := false, cand := none }) ∧
        (whole = true → keys = true → s.refuseCause k = 0 → Gives (.cfgClose p k) s fun t => t.getF SCH_CFGSTAT_REFUSE = 0 ∧ t.flag SCH_CFGSTAT_OPEN = false ∧ t.flag SCH_CFGSTAT_CHECKED = true ∧
          t.olc = { s.olc with cand := some k } ∧ tabGet? t.pkgs (1 - s.actStore) = some k)) ∧
      (s.pkgState = true → s.mode ≠ 0 → Gives (.cfgLoad p) s (Refused 4)) ∧
      (s.pkgState = true → s.mode = 0 → s.armCause ≠ 0 → Gives (.cfgLoad p) s (Refused s.armCause)) ∧
      (∀ k, s.pkgState = true → s.mode = 0 → s.armCause = 0 → s.olc.cand = some k → Gives (.cfgLoad p) s fun t => t.getF SCH_CFGSTAT_RESULT = 0 ∧
        t.step_ = (if s.getF PAR_STAT_STATE = 6 then 2 else 4) ∧
        t.olc = { s.olc with load := true, cand := some k, actAt := if s.getF PAR_STAT_STATE = 6 then none else some (s.tick + 1) })) ∧
    (let Announced := fun (u t : State) => t.step_ = 4 ∧ t.olc = { u.olc with actAt := some (s.fastGrid (s.tick + max 1 (s.getF SCH_OLCCTL_MINLEAD) * 16)) };
      (s.isLead = true → s.step_ = 2 → s.olc.load = true → Gives .olcTransferComplete s (Announced { s with olc := { s.olc with farReady := true } })) ∧
      (s.isLead = true → s.step_ = 2 → s.olc.load = false → Gives .olcTransferComplete s fun t => t.step_ = 3 ∧ t.olc = { s.olc with farReady := true }) ∧
      ((s.isLead && s.step_ = 2) = false → Gives .olcTransferComplete s fun t => t = s) ∧
      (s.isLead = true → s.step_ = 3 → Gives .migrationPassComplete s (Announced s)) ∧
      ((s.isLead && s.step_ = 3) = false → Gives .migrationPassComplete s fun t => t = s)) ∧
    (∀ a k, s.olc.actAt = some a → s.olc.cand = some k → let there := (s.step_ = 4 ∧ a ≤ s.tick ∧ (s.getF PAR_STAT_STATE = 0 ∨ 6 ≤ s.getF PAR_STAT_STATE))
      (¬ there → Gives .activationCommit s fun t => t = s) ∧
      (there → Gives .activationCommit s fun t => t.step_ = (if s.olc.load then 6 else 5) ∧ t.sq.tickMem = t.sq.mem ∧ t.sq.tickCsn = t.sq.csn ∧
        (s.isLead = false → ∃ n, t.kerb.act = some ⟨n, k.gen, s.sq.csn⟩))) ∧
    (s.olc.actAt = none ∨ s.olc.cand = none → Gives .activationCommit s fun t => t = s)

/-- A PDU of a connection is judged by its form and CRC, its epoch, its window and its echo, in that order: a bad one counts and ends the run; a good
one is taken while ACTIVE, and while PASSIVE the third in a row leads to reintegration, which ends with REINT sent. The watchdog of a connection
passivates it. A sample tick moves the clock to its instant and shows VSLIM; what waited for it is in force. An off-pulse begins where it may and
ends with its result: a failed one counts, with LASTCH and UNHEALTHY. A function still DEGRADED after DEGMAX trips; one that has recovered is
normal. VALACK of the right signature validates. The field supplies, an input’s test and an overload show. (R322, R323, R324, R325, R332, R337,
R338, R346, R351, R353, R356, R359.) -/
def Obligations.SafetyFunctions : Prop :=
  ∀ (s : State), s.RegsOk →
    (∀ (conn : Fin 4096) (pdu : List Byte), s.kerb.phase ≠ .off →
      (s.conn? conn.val = none → Gives (.fslPduReceive conn pdu) s fun t => t = s) ∧
      (∀ d : ConnDef, s.conn? conn.val = some d → let n := d.no.val; let c := s.connRt n; let g := fun (o k : Nat) => leNat ((pdu.drop o).take k)
        let dist := (g 4 2 + 65536 - c.last) % 65536; let inWin := (1 ≤ dist ∧ dist ≤ fslWin d.fwdt d.ivlFar); let passive := s.getF SFY_CONNSTAT_STATE n = 1
        let form := (g 0x0A 2 = sigBytes (s.connSigs d.ins) ∧ pdu.length = 0x10 + g 0x0A 2 ∧ g (0x0C + g 0x0A 2) 4 = scrc d.id.toNat (pdu.take (0x0C + g 0x0A 2)))
        let data := (pdu.drop 0x0C).take (g 0x0A 2); let run := if inWin then c.run + 1 else 0
        let Dropped := fun (f : Fld) (t : State) => t.getF f n = sat f.w (s.getF f n + 1) ∧ t.connRt n = { c with run := 0 } ∧ t = { s with regs := t.regs, io := t.io } ∧ OnlyRegs s t [(f, n)]
        let good := (form ∧ g 0 4 = s.epoch ∧ (passive ∨ inWin) ∧ s.echoFresh d (g 6 2) = true)
        (¬ form → Gives (.fslPduReceive conn pdu) s (Dropped SFY_CONNSTAT_CRCERR)) ∧
        (form → g 0 4 ≠ s.epoch → Gives (.fslPduReceive conn pdu) s fun t => t.connRt n = { c with run := 0 } ∧ t = { s with io := t.io }) ∧
        (form → g 0 4 = s.epoch → ¬ passive → ¬ inWin → Gives (.fslPduReceive conn pdu) s (Dropped SFY_CONNSTAT_SEQERR)) ∧
        (form → g 0 4 = s.epoch → (passive ∨ inWin) → s.echoFresh d (g 6 2) = false → Gives (.fslPduReceive conn pdu) s (Dropped SFY_CONNCNT_ECHOLATE)) ∧
        (good → s.getF SFY_CONNSTAT_STATE n = 0 → Gives (.fslPduReceive conn pdu) s fun t => t.connRt n = { c with last := g 4 2, restart := s.now, data := data } ∧
          t.io.inbox = takeVals (s.connSigs d.ins) data [] s.io.inbox ∧ t.getF SFY_CONNSTAT_STATE n = 0 ∧ t.flag SFY_CONNSTAT_FARPASS n = bitOf (g 8 1) 0 ∧
          t.getF SFY_CONNSTAT_LOSTCNT n = sat SFY_CONNSTAT_LOSTCNT.w (s.getF SFY_CONNSTAT_LOSTCNT n + (dist - 1))) ∧
        (good → s.getF SFY_CONNSTAT_STATE n = 1 → run < 3 → Gives (.fslPduReceive conn pdu) s fun t => t.connRt n = { c with last := g 4 2, restart := s.now, run := run } ∧ t.getF SFY_CONNSTAT_STATE n = 1) ∧
        (good → s.getF SFY_CONNSTAT_STATE n = 1 → 3 ≤ run → Gives (.fslPduReceive conn pdu) s fun t => t.getF SFY_CONNSTAT_STATE n = 2 ∧ (t.connRt n).reint = (c.reint || d.autoReint)) ∧
        (good → s.getF SFY_CONNSTAT_STATE n = 2 → Gives (.fslPduReceive conn pdu) s fun t => t.getF SFY_CONNSTAT_STATE n = (if c.reint && !bitOf (g 8 1) 0 then 0 else 2) ∧
          (c.reint = true → bitOf (g 8 1) 0 = false → t.io.inbox = takeVals (s.connSigs d.ins) data [] s.io.inbox)))) ∧
    (∀ (conn : Fin 4096), s.kerb.phase ≠ .off →
      (s.conn? conn.val = none ∨ s.getF SFY_CONNSTAT_STATE conn.val = 1 → Gives (.fslWatchdogExpiry conn) s fun t => t = s) ∧
      (s.conn? conn.val ≠ none → s.getF SFY_CONNSTAT_STATE conn.val ≠ 1 → Gives (.fslWatchdogExpiry conn) s fun t => t.getF SFY_CONNSTAT_STATE conn.val = 1 ∧
        t.getF SFY_CONNCNT_WDEXP conn.val = sat SFY_CONNCNT_WDEXP.w (s.getF SFY_CONNCNT_WDEXP conn.val + 1) ∧ t.connRt conn.val = { s.connRt conn.val with run := 0, reint := false })) ∧
    (∀ (half : Bool) (smp : List DioSamp) (v : BitVec 4), Gives (.sampleTick half smp v) s fun t => t.now = max s.now (s.tick * 62500 + (if half then 31250 else 0)) ∧ t.tick = s.tick ∧
      t.getF DIO_STAT_VSLIM = v.toNat ∧ t.due = s.due.filter (fun d => !d.ripe .sample s.tick) ∧
      ∀ (f : Fld) (ix : Nat), ix < 65536 → (∀ g ∈ DIO_STAT_VSLIM :: sampleFlds, f.off * 32 + f.lo ≠ g.off * 32 + g.lo) → t.getF f ix = (s.applyDue .sample).getF f ix) ∧
    (∀ (ch : Fin 32), let may := (s.getF DIO_CHCFG_MODE ch.val = 5 && s.commanded ch.val && !s.latched ch.val && (s.dioCh ch.val).pulse.isNone && !s.pulseWaits ch.val)
      (may = false → Gives (.offPulseStart ch) s fun t => t = s) ∧
      (may = true → Gives (.offPulseStart ch) s fun t => t.dioCh ch.val = { s.dioCh ch.val with pulse := some ⟨s.now, s.now + s.getF SFY_TESTCFG_WIDTH * 10000, 0, false⟩ } ∧ t = { s with io := t.io })) ∧
    (∀ (ch : Fin 32), ((s.dioCh ch.val).pulse = none → Gives (.offPulseEnd ch) s fun t => t = s) ∧
      (∀ p, (s.dioCh ch.val).pulse = some p → Gives (.offPulseEnd ch) s fun t =>
        t.dioCh ch.val = { s.dioCh ch.val with pulse := none, pulseEnd := max s.now p.stop, failed := !p.passed } ∧
        (p.passed = false → t.getF SFY_TESTSTAT_PULSEFAIL = sat SFY_TESTSTAT_PULSEFAIL.w (s.getF SFY_TESTSTAT_PULSEFAIL + 1) ∧ t.getF SFY_TESTSTAT_LASTCH = ch.val ∧ t.flag DIO_CHSTAT_UNHEALTHY ch.val = true))) ∧
    (∀ (f : Fin 4096), (s.getF SFY_FNSTAT_STATE f.val ≠ 1 → Gives (.degmaxExpiry f) s fun t => t = s) ∧
      (s.getF SFY_FNSTAT_STATE f.val = 1 → Gives (.degmaxExpiry f) s fun t => t.getF SFY_FNSTAT_STATE f.val = 2 ∧ t.getF SFY_FNSTAT_DEGLEFT f.val = 0) ∧
      (let well := s.getF SFY_FNSTAT_STATE f.val = 1 ∧ (s.fnRt f.val).healthy.isSome = true ∧ ∃ d, s.fnDef? f.val = some d ∧ (d.kind = 1 → (s.fnRt f.val).passed = true);
        (¬ well → Gives (.degradedRecovery f) s fun t => t = s) ∧
        (well → Gives (.degradedRecovery f) s fun t => t.getF SFY_FNSTAT_STATE f.val = 0 ∧ t.getF SFY_FNSTAT_DEGLEFT f.val = 0 ∧ (t.fnRt f.val).since = none))) ∧
    (∀ (p : Path) (v : W32), s.Runs →
      (s.safetyEdit = false → Gives (.sfyValackWrite p v) s fun t => RegsOnlyW 12 s t [(KRB_IGNSTAT_CAUSE, 0), (KRB_IGNADDR_OFFSET, 0), (KRB_IGNPATH_PATH, 0)] ∧ t.getF KRB_IGNSTAT_CAUSE = 1) ∧
      (s.safetyEdit = true → v.toNat = s.getF SFY_SIG0_SIG → Gives (.sfyValackWrite p v) s fun t => t.flag SFY_STAT_UNVAL = false ∧ t = { s with regs := t.regs } ∧ OnlyRegsW 12 s t [(SFY_STAT_UNVAL, 0)]) ∧
      (s.safetyEdit = true → v.toNat ≠ s.getF SFY_SIG0_SIG → Gives (.sfyValackWrite p v) s fun t => t.getF KRB_IGNSTAT_CAUSE = 5 ∧
        t.getF SFY_STAT_ACKREF = sat SFY_STAT_ACKREF.w (s.getF SFY_STAT_ACKREF + 1) ∧ t = { s with regs := t.regs })) ∧
    (∀ (b present : Bool), Gives (.fieldSupplyChange b present) s fun t => t.flag (if b then DIO_STAT_FSB else DIO_STAT_FSA) = present ∧
      t.flag (if b then DIO_STAT_FSA else DIO_STAT_FSB) = s.flag (if b then DIO_STAT_FSA else DIO_STAT_FSB) ∧ t.now = s.now) ∧
    (∀ (ch : Fin 32) (passed : Bool), (isIn (s.getF DIO_CHCFG_MODE ch.val) = false → Gives (.inputTest ch passed) s fun t => t = s) ∧
      (isIn (s.getF DIO_CHCFG_MODE ch.val) = true → Gives (.inputTest ch passed) s fun t => t.flag DIO_CHSTAT_TESTFAIL ch.val = !passed)) ∧
    (∀ (ch : Fin 32) (therm : Bool), (s.driven ch.val = false → Gives (.outputOverload ch therm) s fun t => t = s) ∧
      (s.driven ch.val = true → Gives (.outputOverload ch therm) s fun t => t.flag (if therm then DIO_CHSTAT_THERM else DIO_CHSTAT_OVL) ch.val = true ∧
        t.getF DIO_STAT_OVLCNT = sat DIO_STAT_OVLCNT.w (s.getF DIO_STAT_OVLCNT + 1)))

/-- What waits as urgent is served, in ascending source, before an entry of the sequence completes; the entry keeps its code and the next one
follows, or the round ends: its loop supplies are set, its end is noted and what waits for it takes effect. An urgent request joins the list once
per source and origin, in order of source, and as many are served as the converter gives codes for. A converter self-test runs only with no
urgent request waiting, and counts its failures in a row to three. A loop supply in current limit switches off, and on again when its retry finds
it well; the thermal limit follows the temperature between 110 and 120 °C. A HART device is polled while its modem is idle; an unanswered poll
counts to three, and an answer shows its status. A readback shows each output its current, and RBFAIL is cleared by the write. (R362, R363, R365,
R366, R369, R371, R373, R374, R375, R378.) -/
def Obligations.AnalogueChannels : Prop :=
  ∀ (s : State), s.RegsOk →
    (∀ (code : BitVec 18) (urg : List (BitVec 18)) (tm : Nat), let e := s.getF ADC_STAT_ENTRY; let src := (s.serveAll tm urg).getF ADC_SEQENT_SRC e; let q := s.io.urgent.drop urg.length
      (e + 1 < s.getF ADC_CTL_SEQLEN → Gives (.adcEntryComplete code urg tm) s fun t => t.getF ADC_STAT_ENTRY = (e + 1) % 2 ^ ADC_STAT_ENTRY.w ∧ t.io.urgent = q ∧
        t.flag ADC_STAT_URGPEND = !q.isEmpty ∧ tabGet? t.io.codes e = some (if 0x25 ≤ src then 0 else code.toNat) ∧ t.now = s.now ∧ t.due = s.due ∧
        ∀ (f : Fld) (ix : Nat), ix < 65536 → (∀ g ∈ ADC_STAT_ENTRY :: adcFlds ++ urgFlds ++ judgeFlds, f.off * 32 + f.lo ≠ g.off * 32 + g.lo) → t.getF f ix = s.getF f ix) ∧
      (s.getF ADC_CTL_SEQLEN ≤ e + 1 → Gives (.adcEntryComplete code urg tm) s fun t => t.io.urgent = q ∧ t.io.roundAt = tm ∧
        tabGet? t.io.codes e = some (if 0x25 ≤ src then 0 else code.toNat) ∧ t.now = s.now ∧ t.due = s.due.filter (fun d => !d.ripe .adcRound s.tick))) ∧
    (∀ (ch : Fin 16) (codes : List (BitVec 18)) (tm : Nat),
      let l := if s.io.urgent.any (fun q => q.1 = ch.val && q.2.2 = false) then s.io.urgent else insSort (fun a b => decide (a.1 < b.1)) (ch.val, 0, false) s.io.urgent
      Gives (.urgentRequest ch codes tm) s fun t => t.io.urgent = l.drop codes.length ∧ t.flag ADC_STAT_URGPEND = !(l.drop codes.length).isEmpty ∧ t.now = s.now ∧
        ∀ (f : Fld) (ix : Nat), ix < 65536 → (∀ g ∈ adcFlds ++ urgFlds ++ judgeFlds, f.off * 32 + f.lo ≠ g.off * 32 + g.lo) → t.getF f ix = s.getF f ix) ∧
    (∀ (p : Path) (src : BitVec 6) (ovs : BitVec 3), s.Runs → let w := s.io.urgent.any (fun q => q.1 = src.toNat && q.2.2 = true)
      Gives (.adcUrgentGo p src ovs) s fun t => t.getF ADC_URGENT_SRC = src.toNat ∧ t.getF ADC_URGENT_OVS = min ovs.toNat 6 ∧ t.flag ADC_URGENT_DONE = false ∧
        t.io.urgent = (if w then s.io.urgent else insSort (fun a b => decide (a.1 < b.1)) (src.toNat, min ovs.toNat 6, true) s.io.urgent) ∧
        (w = false → t.flag ADC_STAT_URGPEND = true) ∧ t = { s with regs := t.regs, io := t.io } ∧ OnlyRegsW 15 s t [(ADC_URGENT_SRC, 0), (ADC_URGENT_OVS, 0), (ADC_URGENT_DONE, 0), (ADC_STAT_URGPEND, 0)]) ∧
    (∀ (a b : Bool), (s.io.urgent ≠ [] → Gives (.adcSelfTestStep a b) s fun t => t = s) ∧
      (s.io.urgent = [] → Gives (.adcSelfTestStep a b) s fun t => t.io.adcFails = (if a && b then 0 else min (s.io.adcFails + 1) 3) ∧
        t.getF ADC_STAT_TESTFAIL = (if a && b then s.getF ADC_STAT_TESTFAIL else sat ADC_STAT_TESTFAIL.w (s.getF ADC_STAT_TESTFAIL + 1)) ∧ t.io.urgent = [] ∧
        ∀ (f : Fld) (ix : Nat), ix < 65536 → (∀ g ∈ ADC_STAT_TESTFAIL :: adcFlds ++ judgeFlds, f.off * 32 + f.lo ≠ g.off * 32 + g.lo) → t.getF f ix = s.getF f ix)) ∧
    (∀ (ch : Fin 16), let lim := s.flag AIO_AISTAT_LSLIM ch.val && !s.flag AIO_AISTAT_LSOFF ch.val
      (lim = false → Gives (.loopSupplyOff ch) s fun t => t = s) ∧
      (lim = true → Gives (.loopSupplyOff ch) s fun t => t.flag AIO_AISTAT_LSOFF ch.val = true ∧ t.flag AIO_AISTAT_LSLIM ch.val = false ∧ t.getF AIO_AISTAT_LSV ch.val = 0 ∧
        (t.aiCh ch.val).vls = 0)) ∧
    (∀ (ch : Fin 16) (ok : Bool), let back := s.flag AIO_AISTAT_LSOFF ch.val && ok
      (back = false → Gives (.loopSupplyRetry ch ok) s fun t => t = s) ∧
      (back = true → Gives (.loopSupplyRetry ch ok) s fun t => t.flag AIO_AISTAT_LSOFF ch.val = false ∧
        (t.aiCh ch.val).vls = (if s.flag AIO_AICFG_LSON ch.val then loopVolt (s.flag AIO_STAT_THERMLIM) (s.getF AIO_AICFG_VMIN ch.val) (s.getF AIO_AICFG_RLOOP ch.val) (s.aiCh ch.val).y else 0) ∧
        t = { s with regs := t.regs, io := t.io } ∧ OnlyRegs s t [(AIO_AISTAT_LSOFF, ch.val), (AIO_AISTAT_LSV, ch.val)])) ∧
    (∀ (temp : BitVec 8), Gives (.analogueThermalLimit temp) s fun t => t.getF AIO_STAT_TEMP = temp.toNat ∧
      t.flag AIO_STAT_THERMLIM = (if 120 ≤ temp.toInt then true else if temp.toInt ≤ 110 then false else s.flag AIO_STAT_THERMLIM) ∧ t.now = s.now ∧
      ∀ (f : Fld) (ix : Nat), ix < 65536 → (∀ g ∈ [AIO_STAT_TEMP, AIO_STAT_THERMLIM, AIO_AISTAT_LSOFF, AIO_AISTAT_LSV], f.off * 32 + f.lo ≠ g.off * 32 + g.lo) → t.getF f ix = s.getF f ix) ∧
    (∀ (dev : Nat), (s.hartDef? dev = none → Gives (.hartPoll dev) s fun t => t = s) ∧
      (∀ d, s.hartDef? dev = some d → let may := s.flag AIO_AICFG_HART d.ch.val && !s.modemBusy (modemOf d.ch.val)
        (may = false → Gives (.hartPoll dev) s fun t => t = s) ∧
        (may = true → Gives (.hartPoll dev) s fun t => t.hartDev dev = { s.hartDev dev with busy := true } ∧
          t.out = s.out ++ [⟨.lines, 1, [d.ch.val, d.addr, if d.cmd9 then 9 else 3], []⟩] ∧ t = { s with io := { s.io with hart := t.io.hart }, out := t.out }))) ∧
    (∀ (dev : Nat) (ans : Option HartAns), (s.hartDef? dev = none → Gives (.hartResponse dev ans) s fun t => t = s) ∧
      (∀ d, s.hartDef? dev = some d → (s.hartDev dev).busy = false → Gives (.hartResponse dev ans) s fun t => t = s) ∧
      (∀ d, s.hartDef? dev = some d → (s.hartDev dev).busy = true → (ans = none ∨ s.flag AIO_AISTAT_LSLIM d.ch.val = true) → Gives (.hartResponse dev ans) s fun t =>
        t.hartDev d.dev = { s.hartDev d.dev with miss := min ((s.hartDev d.dev).miss + 1) 3, busy := false } ∧
        t.getF AIO_HARTSTAT_NOANS d.ch.val = sat AIO_HARTSTAT_NOANS.w (s.getF AIO_HARTSTAT_NOANS d.ch.val + 1) ∧
        t = { s with regs := t.regs, io := t.io } ∧ OnlyRegs s t [(AIO_HARTSTAT_NOANS, d.ch.val), (AIO_HARTSTAT_DEVICES, d.ch.val)]) ∧
      (∀ d a, s.hartDef? dev = some d → (s.hartDev dev).busy = true → ans = some a → s.flag AIO_AISTAT_LSLIM d.ch.val = false → Gives (.hartResponse dev ans) s fun t =>
        t.hartDev d.dev = ⟨0, a.malfunction, a.vars, false, true⟩ ∧ t.getF AIO_HARTSTAT_DEVSTAT d.ch.val = a.status.toNat ∧
        t = { s with regs := t.regs, io := t.io } ∧ OnlyRegs s t [(AIO_HARTSTAT_DEVSTAT, d.ch.val), (AIO_HARTSTAT_DEVICES, d.ch.val)])) ∧
    (∀ (smp : List AoSamp), Gives (.readbackSample smp) s fun t => t.now = s.now ∧
      (∀ (n : Nat) (x : AoSamp), n < 8 → smp[n]? = some x → t.getF AIO_AOSTAT_RBCUR (n + 16) = sat 16 (x.cur / 5)) ∧
      ∀ (f : Fld) (ix : Nat), ix < 65536 → (∀ g ∈ rbFlds, f.off * 32 + f.lo ≠ g.off * 32 + g.lo) → t.getF f ix = s.getF f ix) ∧
    (∀ (p : Path), s.Runs → let n := s.getF AIO_CHSEL_CH p.code
      (16 ≤ n → n < 24 → Gives (.rbfailClear p) s fun t => t.flag AIO_AOSTAT_RBFAIL n = false ∧ OnlyRegsW 14 s t [(AIO_AOSTAT_RBFAIL, n)] ∧ t.now = s.now) ∧
      (¬ (16 ≤ n ∧ n < 24) → Gives (.rbfailClear p) s fun t => t = { s with regs := t.regs } ∧ OnlyRegsW 14 s t [])) ∧
    (∀ (ok : Bool), Gives (.readbackConverterSelfTest ok) s fun t => t = { s with io := { s.io with rbFails := if ok then 0 else min (s.io.rbFails + 1) 3 } }) ∧
    (∀ (m : Fin 5) (ok : Bool), (s.modemBusy m.val = true → Gives (.hartModemLoopback m ok) s fun t => t = s) ∧
      (s.modemBusy m.val = false → Gives (.hartModemLoopback m ok) s fun t => t = { s with io := { s.io with looped := tabSet s.io.looped m.val (2 * s.now + b2n ok) } })) ∧
    (∀ (ch : Fin 4) (a : HartAns), let dv := s.cfg.harts.find? (fun d => d.ch.val = ch.val)
      (dv = none ∨ s.flag AIO_AICFG_HART ch.val = false → Gives (.hartBurstFrame ch a) s fun t => t = s) ∧
      (∀ d, dv = some d → s.flag AIO_AICFG_HART ch.val = true → Gives (.hartBurstFrame ch a) s fun t => t.hartDev d.dev = ⟨0, a.malfunction, a.vars, false, true⟩ ∧
        t.getF AIO_HARTSTAT_DEVSTAT d.ch.val = a.status.toNat ∧ t = { s with regs := t.regs, io := t.io } ∧ OnlyRegs s t [(AIO_HARTSTAT_DEVSTAT, d.ch.val), (AIO_HARTSTAT_DEVICES, d.ch.val)]))

/-- A port that is on the bus counts a frame it receives, feeds the mapping of lowest number that takes it, and shows its error state; a frame
acknowledged ends its slot or its queue entry and lowers TEC; an error sets LEC and the counters the bus gives, and above 255 the port is bus-off
with its queue dropped; an arbitration loss sets ALBIT and, in one-shot mode, ends the frame; a recovered port is error-active with both counters
0; RECOVER starts the wait of a bus-off port, and FLUSH empties the queue. START on a set-up channel is ignored on a hardware channel or a busy
one, ends the descriptor with its error where the module may not write, where it is bad or where the ACU refuses it, and otherwise starts its
first run; HALT marks the descriptor; a run that met an error ends it with ERR 2 at the position of the error, a run without one ends it, or
starts the next. A quarter parked for 8 hours has every lane that is not retired tested, and those that fail retired. (R382, R385, R387, R389,
R390, R391, R411, R414, R415, R416, R471.) -/
def Obligations.CanAndMover : Prop :=
  ∀ (s : State), s.RegsOk →
    (∀ (port : Fin 8) (f : CanFrame), let p := port.val; let c := s.canPort p; let on := s.canOn p && !(f.fdf && !s.flag CAN_PORTCFG_FDEN p)
      let rc := (if s.getF CAN_PORTCFG_MODE p = 2 then c.rec_ else min (c.rec_ - 1) 127)
      let m := (isort (fun (a b : CanRxMap) => decide (a.no < b.no)) (s.cfg.canRx.filter (fun m => m.port = port && m.seat = s.seatB && canTakes m f))).head?
      (on = false → Gives (.canFrameReceive port f) s fun t => t = s) ∧
      (on = true → c.tec ≤ 255 → Gives (.canFrameReceive port f) s fun t =>
        (∃ hd sq, t.canPort p = { c with rxN := (c.rxN + 1) % 2 ^ 32, rec_ := rc, rx := m.elim c.rx (fun m => tabSet c.rx m.no f.eof), head := hd, seq := sq }) ∧
        t.io = m.elim s.io (fun m => { s.io with inbox := m.fields.foldl (fun t (x : CanField) => tabSet t x.sig (canGet x f.data, 0)) s.io.inbox }) ∧
        t.getF CAN_ERRSTAT_STATE p = (if 127 < c.tec ∨ 127 < rc then 1 else 0) ∧ t.now = s.now ∧ t.out = s.out)) ∧
    (∀ (port : Fin 8) (tm : Nat), let p := port.val; let c := s.canPort p
      (s.canSends p = false ∨ c.offered = none → Gives (.canFrameTransmitted port tm) s fun t => t = s) ∧
      (∀ n, s.canSends p = true → c.offered = some (.slot n) → c.tec ≤ 255 → let x := ((tabGet CanSlot.reset c.slots n).content).getD (0, 0, [])
        Gives (.canFrameTransmitted port tm) s fun t => t.canPort p = CanPort.slotEnd { c with txN := (c.txN + 1) % 2 ^ 32, tec := c.tec - 1 } n ∧
          t.out = s.out ++ [⟨.canBus, p, [x.1, x.2.1], x.2.2⟩] ∧ t.now = s.now) ∧
      (∀ q, s.canSends p = true → c.offered = some (.queue q) → c.tec ≤ 255 →
        Gives (.canFrameTransmitted port tm) s fun t => t.canPort p = { c with txN := (c.txN + 1) % 2 ^ 32, tec := c.tec - 1, queue := c.queue.filter (fun y => y.entry ≠ q.entry) } ∧
          t.out = s.out ++ [⟨.canBus, p, [q.id, q.flags], q.data⟩] ∧ t.now = s.now)) ∧
    (∀ (port : Fin 8) (err : CanErr) (own : Bool) (te re : Nat), let p := port.val; let c := s.canPort p; let ends := own && s.flag CAN_PORTCFG_ONESHOT p && s.canSends p
      (s.canOn p = false → Gives (.canError port err own te re) s fun t => t = s) ∧
      (∀ code, s.canOn p = true → err = .err code → s.getF CAN_PORTCFG_MODE p = 2 → Gives (.canError port err own te re) s fun t => t.getF CAN_ERRSTAT_LEC p = code.val ∧ t = { s with regs := t.regs } ∧ OnlyRegs s t [(CAN_ERRSTAT_LEC, p)]) ∧
      (∀ code, s.canOn p = true → err = .err code → s.getF CAN_PORTCFG_MODE p ≠ 2 → (own && s.flag CAN_PORTCFG_ONESHOT p) = false → Gives (.canError port err own te re) s fun t => t.getF CAN_ERRSTAT_LEC p = code.val ∧
        (t.canPort p).tec = te ∧ (t.canPort p).rec_ = re ∧ t.getF CAN_ERRSTAT_STATE p = (if 255 < te then 2 else if 127 < te ∨ 127 < re then 1 else 0) ∧
        (255 < te → (t.canPort p).queue = [] ∧ (t.canPort p).waiting = s.flag CAN_PORTCFG_BOFFREC p)) ∧
      (∀ bit, s.canOn p = true → err = .arb bit → ends = false → Gives (.canError port err own te re) s fun t => t.getF CAN_ERRSTAT_ALBIT p = bit.toNat ∧ t = { s with regs := t.regs } ∧ OnlyRegs s t [(CAN_ERRSTAT_ALBIT, p)]) ∧
      (∀ bit, s.canOn p = true → err = .arb bit → ends = true → Gives (.canError port err own te re) s fun t => t.getF CAN_ERRSTAT_ALBIT p = bit.toNat ∧
        t.canPort p = (match c.offered with | some (.slot n) => c.slotEnd n | some (.queue q) => { c with queue := c.queue.filter (fun x => x.entry ≠ q.entry) } | none => c))) ∧
    (∀ (port : Fin 8), let p := port.val; let back := decide (s.getF CAN_ERRSTAT_STATE p = 2) && (s.canPort p).waiting
      (back = false → Gives (.canBusOffRecovered port) s fun t => t = s) ∧
      (back = true → Gives (.canBusOffRecovered port) s fun t => t.canPort p = { s.canPort p with tec := 0, rec_ := 0, waiting := false } ∧ t.getF CAN_ERRSTAT_STATE p = 0 ∧
        t.getF CAN_ERRSTAT_TEC p = 0 ∧ t.getF CAN_ERRSTAT_REC p = 0 ∧ t = { s with regs := t.regs, can := t.can } ∧ OnlyRegs s t [(CAN_ERRSTAT_STATE, p), (CAN_ERRSTAT_TEC, p), (CAN_ERRSTAT_REC, p)])) ∧
    (∀ (port : Fin 8) (map : Nat), Gives (.canRxtmoExpiry port map) s fun t => t.canPort port.val = { s.canPort port.val with rx := tabDel (s.canPort port.val).rx map } ∧ t = { s with can := t.can }) ∧
    (∀ (pa : Path), s.Runs → let n := s.getF CAN_PORTSEL_PORT pa.code
      (s.getF CAN_ERRSTAT_STATE n = 2 → Gives (.canRecover pa) s fun t => t.canPort n = { s.canPort n with waiting := true } ∧ t = { s with regs := t.regs, can := t.can } ∧ OnlyRegsW 16 s t []) ∧
      (s.getF CAN_ERRSTAT_STATE n ≠ 2 → Gives (.canRecover pa) s fun t => t = { s with regs := t.regs } ∧ OnlyRegsW 16 s t []) ∧
      Gives (.canFlush pa) s fun t => t.canPort n = { s.canPort n with queue := [] } ∧ t = { s with regs := t.regs, sq := t.sq, pair := t.pair, can := t.can }) ∧
    (∀ (pa : Path), s.Runs → let c := s.getF IMV_CHSEL_CH pa.code; let no := [(KRB_IGNSTAT_CAUSE, 0), (KRB_IGNADDR_OFFSET, 0), (KRB_IGNPATH_PATH, 0), (IMV_CNT_IGNCNT, 0)]
      (∀ v, c < 60 → Gives (.imvStart pa v) s fun t => t.getF KRB_IGNSTAT_CAUSE = 6 ∧ t = { s with regs := t.regs } ∧ OnlyRegsW 8 s t no) ∧
      (∀ v, 60 ≤ c → c < 64 → s.flag IMV_CHSTAT_BUSY c = true → Gives (.imvStart pa v) s fun t => t.getF KRB_IGNSTAT_CAUSE = 4 ∧ t = { s with regs := t.regs } ∧ OnlyRegsW 8 s t no) ∧
      (∀ v, 60 ≤ c → c < 64 → s.flag IMV_CHSTAT_BUSY c = false → let u := (State.chctl (s.setF KRB_IGNSTAT_IGNCNT 0) c v.toNat).setF IMV_CHSTAT_PRIO (imvPrio c) c; let d := u.movDesc c
        let may := d.none_ = true ∨ s.mode = 0 ∧ (s.getF PAR_STAT_STATE = 0 ∨ s.getF PAR_STAT_STATE = 8)
        let Ends := fun (e : Nat) (t : State) => t.flag IMV_CHSTAT_BUSY c = false ∧ t.flag IMV_CHSTAT_DONE c = true ∧ t.getF IMV_CHSTAT_ERR c = e ∧ t = { s with regs := t.regs, imv := tabDel s.imv c }
        (¬ may → Gives (.imvStart pa v) s (Ends 5)) ∧
        (may → d.bad = true → Gives (.imvStart pa v) s (Ends 4)) ∧
        (may → d.bad = false → u.movRefused d ≠ none → Gives (.imvStart pa v) s (Ends 1)) ∧
        (may → d.bad = false → u.movRefused d = none → Gives (.imvStart pa v) s fun t => t.flag IMV_CHSTAT_BUSY c = true ∧ t.getF IMV_CHSTAT_ERR c = 0 ∧ t.getF IMV_CHPOS_POS c = 0 ∧
          t.imv = tabSet s.imv c ⟨s.sq.csn, s.sq.mem, s.sq.poison, false⟩ ∧ t = { s with regs := t.regs, imv := t.imv })) ∧
      (c < 60 → Gives (.imvHalt pa) s fun t => t.getF KRB_IGNSTAT_CAUSE = 6 ∧ t = { s with regs := t.regs } ∧ OnlyRegsW 8 s t no) ∧
      (60 ≤ c → tabGet? s.imv c = none → Gives (.imvHalt pa) s fun t => t = { s with regs := t.regs } ∧ OnlyRegsW 8 s t []) ∧
      (∀ m, 60 ≤ c → tabGet? s.imv c = some m → Gives (.imvHalt pa) s fun t => t.imv = tabSet s.imv c { m with halt := true } ∧ t = { s with regs := t.regs, imv := t.imv } ∧ OnlyRegsW 8 s t [])) ∧
    (∀ (ch : Fin 4) (bad : Option Nat) (pre : Nat), let c := 60 + ch.val; let u := s.bump IMV_CNT_PREEMPT 0 pre; let d := u.movDesc c
      (tabGet? s.imv c = none → Gives (.imvRunComplete ch bad pre) s fun t => t = s) ∧
      (∀ m, tabGet? s.imv c = some m → s.sq.cells = [] → s.sq.mapErrs = [] → let bs := u.movData m d
        (∀ o, u.movErr m d bad = some o → Gives (.imvRunComplete ch bad pre) s fun t => t.flag IMV_CHSTAT_BUSY c = false ∧ t.flag IMV_CHSTAT_DONE c = true ∧ t.getF IMV_CHSTAT_ERR c = 2 ∧
          t.getF IMV_CHPOS_POS c = o % 2 ^ IMV_CHPOS_POS.w) ∧
        (u.movErr m d bad = none → d.crc ≠ 3 → m.halt = true → Gives (.imvRunComplete ch bad pre) s fun t => t.flag IMV_CHSTAT_BUSY c = false ∧ t.flag IMV_CHSTAT_DONE c = true ∧ t.getF IMV_CHSTAT_ERR c = 0 ∧
          t.getF IMV_CHPOS_POS c = d.len % 2 ^ IMV_CHPOS_POS.w ∧ (d.crc ≠ 0 → t.getF IMV_CHCRC_CRC c = crc32c bs % 2 ^ 32)) ∧
        (u.movErr m d bad = none → d.crc ≠ 3 → d.none_ = true → m.halt = false → let left := s.getF IMV_CHSTAT_RUNSLEFT c
          (left = 0 → Gives (.imvRunComplete ch bad pre) s fun t => t.flag IMV_CHSTAT_BUSY c = false ∧ t.flag IMV_CHSTAT_DONE c = true ∧ t.getF IMV_CHSTAT_ERR c = 0 ∧
            t = { s with regs := t.regs, imv := tabDel s.imv c }) ∧
          (left ≠ 0 → Gives (.imvRunComplete ch bad pre) s fun t => t.getF IMV_CHSTAT_RUNSLEFT c = (left - 1) % 2 ^ 16 ∧ t.getF IMV_CHPOS_POS c = 0 ∧
            t = { s with regs := t.regs, imv := tabSet s.imv c ⟨s.sq.csn, s.sq.mem, s.sq.poison, false⟩ })))) ∧
    (∀ (q : Quarter) (bad : List LaneNo), (s.kerb.p2.find? (fun p => p.1 = q.val) = none → Gives (.parkedQuarterTest q bad) s fun t => t = s) ∧
      (∀ p, s.kerb.p2.find? (fun p => p.1 = q.val) = some p →
        (s.now < p.2 + 28800000000000 → Gives (.parkedQuarterTest q bad) s fun t => t = s) ∧
        (p.2 + 28800000000000 ≤ s.now → Gives (.parkedQuarterTest q bad) s fun t =>
          t.kerb = { s.kerb with p2 := s.kerb.p2.map (fun x => if x.1 = q.val then (x.1, s.now) else x) } ∧
          (∀ b ∈ bad, b.val ∈ quarterLanes q.val → t.laneRole b.val = 3) ∧
          (bad = [] → t.now = s.now ∧ ∀ n ∈ quarterLanes q.val, s.laneRole n ≠ 3 → t.laneRt n = { s.laneRt n with testAt := s.now, step := 0 }))))

/-- With command c at the front of the queue and the rest behind it, a step is exec of c on the state that holds the rest.
(95_what_each_step_holds.md, 00_scope.md.) -/
def Obligations.StepRunsFront : Prop :=
  ∀ (c : Instr) (rest : List Instr) (s : State), step { s with pending := c :: rest } = exec c { s with pending := rest }

/-- Model’s choice (log entry 3): a step on an empty queue answers the state as it is; the manual gives a step per command and says nothing of none.
(95_what_each_step_holds.md, 00_scope.md.) -/
def Obligations.StepIdles : Prop :=
  ∀ (s : State), s.pending = [] → step s = .next s

/-- In every state every command answers a next state: none ends in a fault or a refusal, and a run of any number of steps is safe.
(95_what_each_step_holds.md.) -/
def Obligations.EveryCommandRuns : Prop :=
  (∀ (c : Instr) (s : State), ∃ t, exec c s = .next t) ∧ ∀ (n : Nat) (s : State), SafeRun n s

/-- From every sound state, whatever command is at the front: the memories and the register file keep their canonical forms, the queue loses exactly
its front, what the block has emitted only grows, and no free value is used twice. (07_square_tags_access.md, 95_what_each_step_holds.md.) -/
def Obligations.StepKeepsSound : Prop :=
  ∀ (s t : State), s.Sound → step s = .next t → t.Sound ∧ t.pending = s.pending.tail ∧ s.out <+: t.out ∧ s.fresh ≤ t.fresh

/-- The state after reset is sound, its queue is empty, the restart stands at its first step, the module is in no role and in STOP, and no byte of
the Square is listed. (R434, R46, R191.) -/
def Obligations.ResetSound : Prop :=
  State.reset.Sound ∧ State.reset.pending = [] ∧ State.reset.kerb.phase = .boot ∧ State.reset.getF BOT_STAT_STEP = 0 ∧ State.reset.mode = 0 ∧
    State.reset.getF PAR_STAT_ROLE = 0 ∧ State.reset.getF PAR_STAT_STATE = 0 ∧ State.reset.sq.mem = [] ∧ State.reset.sq.code = []

/-- The number of the base tick changes by BASE_TICK and, at the one step of the clock, by PTP_SYNC; no other command changes it. (R24, R300.) -/
def Obligations.TickMovers : Prop :=
  ∀ (c : Instr) (s t : State), (∀ w, c ≠ .baseTick w) → (∀ a b, c ≠ .ptpSync a b) → exec c s = .next t → t.tick = s.tick
end

