-- ==== Sys2Proof/Laws/Tab.lean ====
section
/-! SUPPORT. Laws of the sparse tables and byte memories: a look-up after an insertion or a removal, and the canonical form, which every operation keeps. -/
namespace Sys2Proof.Machine

/-! ### Look-up after insertion and removal -/

/-- What is found is an entry of the table. -/
theorem mem_of_tabGet? {α : Type} {t : Tab α} {a : Nat} {v : α} (h : tabGet? t a = some v) : (a, v) ∈ t := by
  induction t with
  | nil => cases h
  | cons p l ih =>
    unfold tabGet? at h
    split at h
    · rename_i e; cases h; rw [← e]; simp
    · split at h
      · cases h
      · exact List.mem_cons_of_mem _ (ih h)

/-- A look-up of the key just put gives the value put. -/
@[simp] theorem tabGet?_tabSet_self {α : Type} (t : Tab α) (a : Nat) (v : α) : tabGet? (tabSet t a v) a = some v := by
  induction t with
  | nil => simp [tabSet, tabGet?]
  | cons p t ih =>
    obtain ⟨k, w⟩ := p
    unfold tabSet
    by_cases h : a < k
    · simp [h, tabGet?]
    · by_cases e : k = a
      · simp [e, tabGet?]
      · simp [h, e, tabGet?, ih]

/-- A look-up of another key is as before the insertion. -/
theorem tabGet?_tabSet_ne {α : Type} (t : Tab α) {a b : Nat} (v : α) (hb : b ≠ a) : tabGet? (tabSet t a v) b = tabGet? t b := by
  induction t with
  | nil => simp only [tabSet, tabGet?]; split <;> simp_all
  | cons p t ih =>
    obtain ⟨k, w⟩ := p
    unfold tabSet
    by_cases h : a < k
    · simp only [h, if_true, tabGet?]
      by_cases hk : k = b
      · simp [hk, Ne.symm hb]; omega
      · by_cases hlt : b < a
        · simp [hk, hlt, Ne.symm hb]; omega
        · simp [hk, hlt, Ne.symm hb]
    · by_cases e : k = a
      · subst e
        simp [tabGet?, Ne.symm hb]
      · simp only [h, e, if_false, tabGet?, ih]

/-- The default look-up of the key just put. -/
@[simp] theorem tabGet_tabSet_self {α : Type} (d : α) (t : Tab α) (a : Nat) (v : α) : tabGet d (tabSet t a v) a = v := by
  simp [tabGet]

/-- The default look-up of another key. -/
theorem tabGet_tabSet_ne {α : Type} (d : α) (t : Tab α) {a b : Nat} (v : α) (hb : b ≠ a) : tabGet d (tabSet t a v) b = tabGet d t b := by
  simp [tabGet, tabGet?_tabSet_ne t v hb]

/-- A look-up of another key is as before the removal. -/
theorem tabGet?_tabDel_ne {α : Type} (t : Tab α) {a b : Nat} (hr : tabRising t = true) (hb : b ≠ a) : tabGet? (tabDel t a) b = tabGet? t b := by
  induction t with
  | nil => rfl
  | cons p t ih =>
    obtain ⟨k, w⟩ := p
    have hr' : tabRising t = true := by simp [tabRising] at hr; exact hr.2
    unfold tabDel
    by_cases e : k = a
    · subst e
      simp only [if_true, tabGet?, Ne.symm hb, if_false]
      split
      · cases t with
        | nil => rfl
        | cons q t =>
          obtain ⟨k', w'⟩ := q
          simp [tabRising] at hr
          have h1 := hr.1
          simp only [tabGet?]
          rw [if_neg (by omega), if_pos (by omega)]
      · rfl
    · by_cases h : a < k
      · simp [e, h]
      · simp only [e, h, if_false, tabGet?, ih hr']

/-- A removed key is not found. -/
theorem tabGet?_tabDel_self {α : Type} (t : Tab α) (a : Nat) (hr : tabRising t = true) : tabGet? (tabDel t a) a = none := by
  induction t with
  | nil => rfl
  | cons p t ih =>
    obtain ⟨k, w⟩ := p
    have hr' : tabRising t = true := by simp [tabRising] at hr; exact hr.2
    unfold tabDel
    by_cases e : k = a
    · subst e
      simp only [if_true]
      cases t with
      | nil => rfl
      | cons q t =>
        obtain ⟨k', w'⟩ := q
        simp [tabRising] at hr
        have h1 := hr.1
        simp only [tabGet?]
        rw [if_neg (by omega), if_pos (by omega)]
    · by_cases h : a < k
      · simp [e, h, tabGet?]
      · simp [e, h, tabGet?, ih hr']

/-! ### Rising keys -/

/-- Rising keys, as a relation of every entry to the later ones. -/
theorem tabRising_iff {α : Type} (t : Tab α) : tabRising t = true ↔ List.Pairwise (fun p q : Nat × α => p.1 < q.1) t := by
  induction t with
  | nil => simp [tabRising]
  | cons p t ih =>
    obtain ⟨k, w⟩ := p
    unfold tabRising
    rw [Bool.and_eq_true, ih, List.pairwise_cons]
    constructor
    · rintro ⟨h1, h2⟩
      refine ⟨?_, h2⟩
      intro q hq
      cases t with
      | nil => simp at hq
      | cons r t =>
        obtain ⟨k', w'⟩ := r
        simp at h1
        rcases List.mem_cons.1 hq with e | e
        · subst e; exact h1
        · exact Nat.lt_trans h1 (List.rel_of_pairwise_cons h2 e)
    · rintro ⟨h1, h2⟩
      refine ⟨?_, h2⟩
      cases t with
      | nil => rfl
      | cons r t => simpa using h1 r (by simp)

/-- The entries after an insertion are the one put and entries that stood before. -/
theorem mem_tabSet {α : Type} {t : Tab α} {a : Nat} {v : α} {p : Nat × α} (h : p ∈ tabSet t a v) : p = (a, v) ∨ p ∈ t := by
  induction t with
  | nil => simp [tabSet] at h; exact .inl h
  | cons q t ih =>
    obtain ⟨k, w⟩ := q
    unfold tabSet at h
    split at h
    · rcases List.mem_cons.1 h with e | e
      · exact .inl e
      · exact .inr e
    · split at h
      · rcases List.mem_cons.1 h with e | e
        · exact .inl e
        · exact .inr (List.mem_cons_of_mem _ e)
      · rcases List.mem_cons.1 h with e | e
        · exact .inr (by simp [e])
        · rcases ih e with e | e
          · exact .inl e
          · exact .inr (List.mem_cons_of_mem _ e)

/-- An insertion keeps the keys rising. -/
theorem tabRising_tabSet {α : Type} (t : Tab α) (a : Nat) (v : α) (h : tabRising t = true) : tabRising (tabSet t a v) = true := by
  rw [tabRising_iff] at h ⊢
  induction t with
  | nil => simp [tabSet]
  | cons q t ih =>
    obtain ⟨k, w⟩ := q
    have h2 := List.pairwise_cons.1 h
    unfold tabSet
    split
    · rename_i hlt
      refine List.pairwise_cons.2 ⟨?_, h⟩
      intro q hq
      rcases List.mem_cons.1 hq with e | e
      · subst e; exact hlt
      · exact Nat.lt_trans hlt (h2.1 q e)
    · split
      · rename_i e
        subst e
        exact List.pairwise_cons.2 ⟨fun q hq => h2.1 q hq, h2.2⟩
      · rename_i h3 h4
        refine List.pairwise_cons.2 ⟨?_, ih h2.2⟩
        intro q hq
        rcases mem_tabSet hq with e | e
        · subst e; simp; omega
        · exact h2.1 q e

/-- A removal leaves a part of the table. -/
theorem tabDel_sublist {α : Type} (t : Tab α) (a : Nat) : (tabDel t a).Sublist t := by
  induction t with
  | nil => exact .slnil
  | cons q t ih =>
    obtain ⟨k, w⟩ := q
    unfold tabDel
    split
    · exact List.sublist_cons_self _ _
    · split
      · exact List.Sublist.refl _
      · exact ih.cons_cons _

/-- A part of a table with rising keys has rising keys. -/
theorem tabRising_sublist {α : Type} {t u : Tab α} (hs : t.Sublist u) (h : tabRising u = true) : tabRising t = true := by
  rw [tabRising_iff] at h ⊢
  exact h.sublist hs

/-- A removal keeps the keys rising. -/
theorem tabRising_tabDel {α : Type} (t : Tab α) (a : Nat) (h : tabRising t = true) : tabRising (tabDel t a) = true :=
  tabRising_sublist (tabDel_sublist t a) h

/-- Insertions one after another keep the keys rising. -/
theorem tabRising_foldl {α β : Type} (k : β → Nat) (f : β → α) (l : List β) (t : Tab α) (h : tabRising t = true) :
    tabRising (l.foldl (fun r d => tabSet r (k d) (f d)) t) = true := by
  induction l generalizing t with
  | nil => exact h
  | cons d l ih => exact ih _ (tabRising_tabSet t _ _ h)

/-! ### The canonical form of a byte memory -/

/-- The empty memory is canonical. -/
@[simp] theorem Memory.wf_nil : Memory.wf [] = true := rfl

/-- Writing a byte keeps the canonical form. -/
theorem Memory.wf_memWr (m : Tab Byte) (a : Nat) (b : Byte) (h : Memory.wf m = true) : Memory.wf (memWr m a b) = true := by
  unfold Memory.wf at h ⊢
  rw [Bool.and_eq_true, List.all_eq_true] at h ⊢
  unfold memWr
  split
  · exact ⟨tabRising_tabDel m a h.1, fun p hp => h.2 p ((tabDel_sublist m a).subset hp)⟩
  · refine ⟨tabRising_tabSet m a b h.1, fun p hp => ?_⟩
    rcases mem_tabSet hp with e | e
    · subst e; simpa
    · exact h.2 p e

/-- Writing bytes keeps it. -/
theorem Memory.wf_memWrL (m : Tab Byte) (a : Nat) (l : List Byte) (h : Memory.wf m = true) : Memory.wf (memWrL m a l) = true := by
  induction l generalizing m a with
  | nil => exact h
  | cons b l ih => exact ih _ _ (Memory.wf_memWr m a b h)

/-- Byte writes one after another keep it. -/
theorem Memory.wf_foldl {β : Type} (k : β → Nat) (f : β → Byte) (l : List β) (m : Tab Byte) (h : Memory.wf m = true) :
    Memory.wf (l.foldl (fun r d => memWr r (k d) (f d)) m) = true := by
  induction l generalizing m with
  | nil => exact h
  | cons d l ih => exact ih _ (Memory.wf_memWr m _ _ h)

/-- Laying an overlay over a memory keeps it. -/
theorem Memory.wf_memLay (m : Tab Byte) (o : Ovl) (h : Memory.wf m = true) : Memory.wf (memLay m o) = true :=
  Memory.wf_foldl _ _ o m h

/-- Leaving out entries keeps it. -/
theorem Memory.wf_filter (m : Tab Byte) (f : Nat × Byte → Bool) (h : Memory.wf m = true) : Memory.wf (m.filter f) = true := by
  unfold Memory.wf at h ⊢
  rw [Bool.and_eq_true, List.all_eq_true] at h ⊢
  exact ⟨tabRising_sublist (List.filter_sublist) h.1, fun p hp => h.2 p ((List.mem_filter.1 hp).1)⟩

/-- A byte reads as it was written. -/
theorem memRd_memWr_self (m : Tab Byte) (a : Nat) (b : Byte) (h : Memory.wf m = true) : memRd (memWr m a b) a = b := by
  unfold Memory.wf at h
  rw [Bool.and_eq_true] at h
  unfold memRd memWr
  split
  · rename_i e; subst e; simp [tabGet, tabGet?_tabDel_self m a h.1]
  · simp

/-- Every other byte reads as before. -/
theorem memRd_memWr_ne (m : Tab Byte) {a c : Nat} (b : Byte) (h : Memory.wf m = true) (hc : c ≠ a) : memRd (memWr m a b) c = memRd m c := by
  unfold Memory.wf at h
  rw [Bool.and_eq_true] at h
  unfold memRd memWr
  split
  · simp [tabGet, tabGet?_tabDel_ne m h.1 hc]
  · exact tabGet_tabSet_ne _ _ _ hc

/-- A write of bytes leaves every byte outside them. -/
theorem memRd_memWrL_out (m : Tab Byte) (a : Nat) (l : List Byte) {c : Nat} (h : Memory.wf m = true) (hc : c < a ∨ a + l.length ≤ c) :
    memRd (memWrL m a l) c = memRd m c := by
  induction l generalizing m a with
  | nil => rfl
  | cons b l ih =>
    simp only [List.length_cons] at hc
    unfold memWrL
    rw [ih _ _ (Memory.wf_memWr m a b h) (by omega), memRd_memWr_ne m b h (by omega)]

/-- Each byte of a write of bytes reads as it was written. -/
theorem memRd_memWrL_in (m : Tab Byte) (a : Nat) (l : List Byte) (i : Nat) (h : Memory.wf m = true) (hi : i < l.length) :
    memRd (memWrL m a l) (a + i) = l[i] := by
  induction l generalizing m a i with
  | nil => simp at hi
  | cons b l ih =>
    unfold memWrL
    cases i with
    | zero =>
      rw [memRd_memWrL_out _ _ _ (Memory.wf_memWr m a b h) (by omega)]
      simp [memRd_memWr_self m a b h]
    | succ i =>
      have := ih (memWr m a b) (a + 1) i (Memory.wf_memWr m a b h) (by simpa using hi)
      simp only [List.getElem_cons_succ]
      rw [← this]
      congr 1
      omega

end Sys2Proof.Machine
end

