-- ==== Sys2Proof/Laws/Keeps.lean ====
section
/-! SUPPORT. What every operation of the machine keeps, as one relation between the state before and after: the queue of waiting commands as
it is; the register file's and the Square's canonical forms; what has been emitted, to which it may only add; the free values used; and the number of the base tick. -/
namespace Sys2Proof.Machine

/-- `b` follows `a` by operations that leave the queue alone, keep the canonical forms, add to what has been emitted and use no free value
twice. -/
structure Keeps (a b : State) : Prop where
  pending : b.pending = a.pending
  regs : tabRising a.regs = true → tabRising b.regs = true
  mem : Memory.wf a.sq.mem = true → Memory.wf b.sq.mem = true
  code : Memory.wf a.sq.code = true → Memory.wf b.sq.code = true
  out : a.out <+: b.out
  fresh : a.fresh ≤ b.fresh
  tick : b.tick = a.tick

/-- The same but for the number of the base tick, which is another one. -/
def KeepsB (a b : State) : Prop := ∃ n, Keeps { a with tick := n } b

/-- What keeps all keeps all but the tick. -/
theorem KeepsB.of {a b : State} (h : Keeps a b) : KeepsB a b := ⟨a.tick, h⟩

/-- An operation that keeps all, after one that keeps all but the tick. -/
theorem KeepsB.step {a b c : State} (h : KeepsB a b) (k : ∀ x, Keeps x b → Keeps x c) : KeepsB a c := by
  obtain ⟨n, e⟩ := h
  exact ⟨n, k _ e⟩

/-- A new number of the base tick. -/
theorem Keeps.setTick {a b : State} (h : Keeps a b) (n : Nat) : Keeps { a with tick := n } { b with tick := n } :=
  ⟨h.pending, h.regs, h.mem, h.code, h.out, h.fresh, rfl⟩

/-- Nothing done. -/
theorem Keeps.refl (a : State) : Keeps a a := ⟨rfl, id, id, id, List.prefix_refl _, Nat.le_refl _, rfl⟩

/-- One after another. -/
theorem Keeps.trans {a b c : State} (h : Keeps a b) (k : Keeps b c) : Keeps a c :=
  ⟨k.pending.trans h.pending, k.regs ∘ h.regs, k.mem ∘ h.mem, k.code ∘ h.code, h.out.trans k.out, Nat.le_trans h.fresh k.fresh, k.tick.trans h.tick⟩

/-- A change of other fields only. -/
theorem Keeps.upd {a b : State} {pe re du ou fr no ti sq sc la pk ar wi io ca pa pl ho ke im ol se} (h : Keeps a b)
    (h1 : pe = b.pending) (h2 : re = b.regs) (h3 : ou = b.out) (h4 : fr = b.fresh) (h5 : Square.mem sq = b.sq.mem) (h6 : Square.code sq = b.sq.code)
    (h7 : ti = b.tick := by rfl) :
    Keeps a (State.mk pe re du ou fr no ti sq sc la pk ar wi io ca pa pl ho ke im ol se) := by
  subst h1 h2 h3 h4 h7
  exact ⟨h.pending, h.regs, fun e => (congrArg Memory.wf h5).trans (h.mem e), fun e => (congrArg Memory.wf h6).trans (h.code e), h.out, h.fresh, h.tick⟩

/-- A change of other fields, and registers put. -/
theorem Keeps.updRegs {a b : State} {pe re du ou fr no ti sq sc la pk ar wi io ca pa pl ho ke im ol se} (h : Keeps a b)
    (h1 : pe = b.pending) (h2 : tabRising b.regs = true → tabRising re = true) (h3 : ou = b.out) (h4 : fr = b.fresh)
    (h5 : Square.mem sq = b.sq.mem) (h6 : Square.code sq = b.sq.code)
    (h7 : ti = b.tick := by rfl) :
    Keeps a (State.mk pe re du ou fr no ti sq sc la pk ar wi io ca pa pl ho ke im ol se) := by
  subst h1 h3 h4 h7
  exact ⟨h.pending, h2 ∘ h.regs, fun e => (congrArg Memory.wf h5).trans (h.mem e), fun e => (congrArg Memory.wf h6).trans (h.code e), h.out, h.fresh, h.tick⟩

/-- A change of other fields, and of the state space. -/
theorem Keeps.updMem {a b : State} {pe re du ou fr no ti sq sc la pk ar wi io ca pa pl ho ke im ol se} (h : Keeps a b)
    (h1 : pe = b.pending) (h2 : re = b.regs) (h3 : ou = b.out) (h4 : b.fresh ≤ fr)
    (h5 : Memory.wf b.sq.mem = true → Memory.wf (Square.mem sq) = true) (h6 : Square.code sq = b.sq.code)
    (h7 : ti = b.tick := by rfl) :
    Keeps a (State.mk pe re du ou fr no ti sq sc la pk ar wi io ca pa pl ho ke im ol se) := by
  subst h1 h2 h3 h7
  exact ⟨h.pending, h.regs, h5 ∘ h.mem, fun e => (congrArg Memory.wf h6).trans (h.code e), h.out, Nat.le_trans h.fresh h4, h.tick⟩

/-- A change of other fields, and of the program stores. -/
theorem Keeps.updCode {a b : State} {pe re du ou fr no ti sq sc la pk ar wi io ca pa pl ho ke im ol se} (h : Keeps a b)
    (h1 : pe = b.pending) (h2 : re = b.regs) (h3 : ou = b.out) (h4 : fr = b.fresh)
    (h5 : Square.mem sq = b.sq.mem) (h6 : Memory.wf b.sq.code = true → Memory.wf (Square.code sq) = true)
    (h7 : ti = b.tick := by rfl) :
    Keeps a (State.mk pe re du ou fr no ti sq sc la pk ar wi io ca pa pl ho ke im ol se) := by
  subst h1 h2 h3 h4 h7
  exact ⟨h.pending, h.regs, fun e => (congrArg Memory.wf h5).trans (h.mem e), h6 ∘ h.code, h.out, h.fresh, h.tick⟩

/-- Either branch. -/
theorem Keeps.ite {a x y : State} {c : Prop} [Decidable c] (hx : Keeps a x) (hy : Keeps a y) : Keeps a (if c then x else y) := by
  split <;> assumption

/-- The second part of a pair keeps it all. -/
def Keeps2 {β : Type} (a : State) (p : β × State) : Prop := Keeps a p.2

/-- The first part of a pair keeps it all. -/
def Keeps1 {β : Type} (a : State) (p : State × β) : Prop := Keeps a p.1

/-- A pair with a state that keeps it all. -/
theorem Keeps2.mk {a s : State} {β : Type} {x : β} (h : Keeps a s) : Keeps2 a (x, s) := h
/-- The same with the state in front. -/
theorem Keeps1.mk {a s : State} {β : Type} {x : β} (h : Keeps a s) : Keeps1 a (s, x) := h
/-- The state of such a pair. -/
theorem Keeps2.out {a : State} {β : Type} {p : β × State} (h : Keeps2 a p) : Keeps a p.2 := h
/-- The same with the state in front. -/
theorem Keeps1.out {a : State} {β : Type} {p : State × β} (h : Keeps1 a p) : Keeps a p.1 := h

/-- Either branch of a pair whose second part is the state. -/
theorem Keeps2.ite {a : State} {β : Type} {x y : β × State} {c : Prop} [Decidable c] (hx : Keeps2 a x) (hy : Keeps2 a y) :
    Keeps2 a (if c then x else y) := by
  split <;> assumption

/-- The same of the first part. -/
theorem Keeps1.ite {a : State} {β : Type} {x y : State × β} {c : Prop} [Decidable c] (hx : Keeps1 a x) (hy : Keeps1 a y) :
    Keeps1 a (if c then x else y) := by
  split <;> assumption

/-- An operation repeated over a list. -/
theorem Keeps.foldl {a s : State} {β : Type} {f : State → β → State} {l : List β} (h : Keeps a s) (hf : ∀ s x, Keeps a s → Keeps a (f s x)) :
    Keeps a (l.foldl f s) := by
  induction l generalizing s with
  | nil => exact h
  | cons x l ih => exact ih (hf s x h)

/-- The same where the list's items are gathered beside the state. -/
theorem Keeps2.foldl {a : State} {β γ : Type} {f : γ × State → β → γ × State} {l : List β} {p : γ × State} (h : Keeps2 a p)
    (hf : ∀ p x, Keeps2 a p → Keeps2 a (f p x)) : Keeps2 a (l.foldl f p) := by
  induction l generalizing p with
  | nil => exact h
  | cons x l ih => exact ih (hf p x h)

/-- The same with the state in front. -/
theorem Keeps1.foldl {a : State} {β γ : Type} {f : State × γ → β → State × γ} {l : List β} {p : State × γ} (h : Keeps1 a p)
    (hf : ∀ p x, Keeps1 a p → Keeps1 a (f p x)) : Keeps1 a (l.foldl f p) := by
  induction l generalizing p with
  | nil => exact h
  | cons x l ih => exact ih (hf p x h)

/-- The state of a pair that has been taken apart. -/
theorem Keeps.of2 {a s : State} {β : Type} {p : β × State} {x : β} (e : p = (x, s)) (h : Keeps2 a p) : Keeps a s := by subst e; exact h

/-- The same with the state in front. -/
theorem Keeps.of1 {a s : State} {β : Type} {p : State × β} {x : β} (e : p = (s, x)) (h : Keeps1 a p) : Keeps a s := by subst e; exact h

end Sys2Proof.Machine
end

