-- ==== Sys2Proof/Laws/KeepsBase.lean ====
section
/-! SUPPORT. The operations below the commands (registers, the Square, field I/O, the plant links, the commit) keep the queue, the canonical forms, what has been emitted and the free values used. -/
namespace Sys2Proof.Machine
set_option Elab.async false

/-! ### Machine/Ops.lean -/

/-- State.setF keeps what every operation keeps. -/
theorem State.setF_keeps {a s : State} {x1 x2 x3} (h : Keeps a s) : Keeps a (State.setF s x1 x2 x3) := by
  unfold State.setF
  refine Keeps.updRegs h rfl (fun e => ?_) rfl rfl rfl rfl
  split
  · exact tabRising_tabDel _ _ e
  · exact tabRising_tabSet _ _ _ e

/-- State.setB keeps what every operation keeps. -/
theorem State.setB_keeps {a s : State} {x1 x2 x3} (h : Keeps a s) : Keeps a (State.setB s x1 x2 x3) := by
  unfold State.setB
  repeat' first
    | with_reducible assumption
    | dsimp -zeta only
    | with_reducible apply State.setF_keeps

/-- State.bump keeps what every operation keeps. -/
theorem State.bump_keeps {a s : State} {x1 x2 x3} (h : Keeps a s) : Keeps a (State.bump s x1 x2 x3) := by
  unfold State.bump
  repeat' first
    | with_reducible assumption
    | dsimp -zeta only
    | with_reducible apply State.setF_keeps

/-- State.wrapUp keeps what every operation keeps. -/
theorem State.wrapUp_keeps {a s : State} {x1 x2} (h : Keeps a s) : Keeps a (State.wrapUp s x1 x2) := by
  unfold State.wrapUp
  repeat' first
    | with_reducible assumption
    | dsimp -zeta only
    | with_reducible apply State.setF_keeps

/-- State.setLater keeps what every operation keeps. -/
theorem State.setLater_keeps {a s : State} {x1 x2 x3 x4} (h : Keeps a s) : Keeps a (State.setLater s x1 x2 x3 x4) := by
  unfold State.setLater
  repeat' first
    | with_reducible assumption
    | ((fail_if_no_progress extract_lets +onlyGivenNames t); refine (?_ : Keeps a t → _) ?_; (on_goal 2 => unfold t); (on_goal 1 => (clear_value t; intro _)))
    | ((fail_if_no_progress extract_lets +onlyGivenNames t); subst t)
    | dsimp -zeta only
    | fail_if_no_progress (with_reducible refine Keeps.upd ?_ rfl rfl rfl rfl rfl rfl)

/-- State.applyDueAt keeps what every operation keeps. -/
theorem State.applyDueAt_keeps {a s : State} {x1 x2} (h : Keeps a s) : Keeps a (State.applyDueAt s x1 x2) :=
  Keeps.updRegs h rfl (tabRising_foldl _ _ _ _) rfl rfl rfl rfl

/-- State.applyDue keeps what every operation keeps. -/
theorem State.applyDue_keeps {a s : State} {x1} (h : Keeps a s) : Keeps a (State.applyDue s x1) := by
  unfold State.applyDue
  repeat' first
    | with_reducible assumption
    | dsimp -zeta only
    | with_reducible apply State.applyDueAt_keeps

/-- State.set64 keeps what every operation keeps. -/
theorem State.set64_keeps {a s : State} {x1 x2 x3 x4} (h : Keeps a s) : Keeps a (State.set64 s x1 x2 x3 x4) := by
  unfold State.set64
  repeat' first
    | with_reducible assumption
    | dsimp -zeta only
    | with_reducible apply State.setF_keeps

/-- State.emit adds to what has been emitted. -/
theorem State.emit_keeps {a s : State} {x1 x2 x3 x4} (h : Keeps a s) : Keeps a (State.emit s x1 x2 x3 x4) :=
  ⟨h.pending, h.regs, h.mem, h.code, h.out.trans (List.prefix_append _ _), h.fresh, h.tick⟩

/-- State.free uses up a free value. -/
theorem State.free_keeps {a s : State} (h : Keeps a s) : Keeps2 a (State.free s) :=
  ⟨h.pending, h.regs, h.mem, h.code, h.out, Nat.le_succ_of_le h.fresh, h.tick⟩

/-- What needs a main domain keeps what its effect keeps. -/
theorem State.powered_keeps {a s : State} {f : State → State} (h : Keeps a s) (hf : ∀ s, Keeps a s → Keeps a (f s)) :
    Keeps a (State.powered s f) := Keeps.ite h (hf _ h)

/-- State.event keeps what every operation keeps. -/
theorem State.event_keeps {a s : State} {x1 x2 x3} (h : Keeps a s) : Keeps a (State.event s x1 x2 x3) := by
  unfold State.event
  repeat' first
    | with_reducible assumption
    | ((fail_if_no_progress extract_lets +onlyGivenNames t); refine (?_ : Keeps a t → _) ?_; (on_goal 2 => unfold t); (on_goal 1 => (clear_value t; intro _)))
    | ((fail_if_no_progress extract_lets +onlyGivenNames t); subst t)
    | dsimp -zeta only
    | with_reducible apply Keeps.ite
    | split
    | fail_if_no_progress (with_reducible refine Keeps.upd ?_ rfl rfl rfl rfl rfl rfl)

/-- State.evHw keeps what every operation keeps. -/
theorem State.evHw_keeps {a s : State} {x1 x2} (h : Keeps a s) : Keeps a (State.evHw s x1 x2) := by
  unfold State.evHw
  repeat' first
    | with_reducible assumption
    | dsimp -zeta only
    | with_reducible apply State.event_keeps

/-- State.evCfg keeps what every operation keeps. -/
theorem State.evCfg_keeps {a s : State} {x1 x2} (h : Keeps a s) : Keeps a (State.evCfg s x1 x2) := by
  unfold State.evCfg
  repeat' first
    | with_reducible assumption
    | dsimp -zeta only
    | with_reducible apply State.event_keeps

/-- State.evSafe keeps what every operation keeps. -/
theorem State.evSafe_keeps {a s : State} {x1 x2} (h : Keeps a s) : Keeps a (State.evSafe s x1 x2) := by
  unfold State.evSafe
  repeat' first
    | with_reducible assumption
    | dsimp -zeta only
    | with_reducible apply State.event_keeps

/-- State.evSec keeps what every operation keeps. -/
theorem State.evSec_keeps {a s : State} {x1 x2} (h : Keeps a s) : Keeps a (State.evSec s x1 x2) := by
  unfold State.evSec
  repeat' first
    | with_reducible assumption
    | dsimp -zeta only
    | with_reducible apply State.event_keeps

/-- State.ignored keeps what every operation keeps. -/
theorem State.ignored_keeps {a s : State} {x1 x2 x3} (h : Keeps a s) : Keeps a (State.ignored s x1 x2 x3) := by
  unfold State.ignored
  repeat' first
    | with_reducible assumption
    | ((fail_if_no_progress extract_lets +onlyGivenNames t); refine (?_ : Keeps a t → _) ?_; (on_goal 2 => unfold t); (on_goal 1 => (clear_value t; intro _)))
    | ((fail_if_no_progress extract_lets +onlyGivenNames t); subst t)
    | dsimp -zeta only
    | with_reducible apply Keeps.ite
    | with_reducible apply State.bump_keeps
    | with_reducible apply State.setF_keeps
    | split

/-- State.ignoredBy keeps what every operation keeps. -/
theorem State.ignoredBy_keeps {a s : State} {x1 x2 x3} (h : Keeps a s) : Keeps a (State.ignoredBy s x1 x2 x3) := by
  unfold State.ignoredBy
  repeat' first
    | with_reducible assumption
    | dsimp -zeta only
    | with_reducible apply State.ignored_keeps

/-- State.attempts keeps what every operation keeps, if every attempt does. -/
theorem State.attempts_keeps {a s : State} {x1 x2} {l : List (State → State)} (hl : ∀ f ∈ l, ∀ s, Keeps a s → Keeps a (f s))
    (h : Keeps a s) : Keeps a (State.attempts s x1 x2 l) := by
  unfold State.attempts
  have hf : ∀ (l : List (State → State)) (p : State × Bool × Bool), (∀ f ∈ l, ∀ s, Keeps a s → Keeps a (f s)) → Keeps a p.1 →
      Keeps a (l.foldl (fun (a : State × Bool × Bool) f =>
        let t := f (a.1.setF KRB_IGNSTAT_IGNCNT 0)
        if t.flag KRB_IGNSTAT_IGNCNT then (t, a.2.1, true) else (t, true, a.2.2)) p).1 := by
    intro l
    induction l with
    | nil => exact fun p _ hp => hp
    | cons f l ih =>
      intro p hl hp
      refine ih _ (fun g hg => hl g (List.mem_cons_of_mem _ hg)) ?_
      have := hl f (by simp) _ (State.setF_keeps (x1 := KRB_IGNSTAT_IGNCNT) (x2 := 0) (x3 := 0) hp)
      dsimp only
      split <;> exact this
  have hr := hf l (s, l.isEmpty, false) hl h
  dsimp only
  split
  · exact State.ignored_keeps h
  · split
    · exact hr
    · split
      · exact State.wrapUp_keeps (State.setF_keeps (State.setF_keeps (State.setF_keeps hr)))
      · exact State.setF_keeps (State.setF_keeps hr)

/-- State.written keeps what every operation keeps, if the write does. -/
theorem State.written_keeps {a s : State} {x1 x2} {f : State → State} (hf : ∀ s, Keeps a s → Keeps a (f s)) (h : Keeps a s) :
    Keeps a (State.written s x1 x2 f) :=
  State.attempts_keeps (fun g hg s hs => by simp at hg; subst hg; exact hf s hs) h

/-- State.share keeps what every operation keeps. -/
theorem State.share_keeps {a s : State} {x1} (h : Keeps a s) : Keeps a (State.share s x1) := by
  unfold State.share
  repeat' first
    | with_reducible assumption
    | ((fail_if_no_progress extract_lets +onlyGivenNames t); refine (?_ : Keeps a t → _) ?_; (on_goal 2 => unfold t); (on_goal 1 => (clear_value t; intro _)))
    | ((fail_if_no_progress extract_lets +onlyGivenNames t); subst t)
    | dsimp -zeta only
    | with_reducible apply Keeps.ite
    | split
    | fail_if_no_progress (with_reducible refine Keeps.upd ?_ rfl rfl rfl rfl rfl rfl)

/-- State.setShared keeps what every operation keeps. -/
theorem State.setShared_keeps {a s : State} {x1 x2 x3 x4 x5} (h : Keeps a s) : Keeps a (State.setShared s x1 x2 x3 x4 x5) := by
  unfold State.setShared
  repeat' first
    | with_reducible assumption
    | ((fail_if_no_progress extract_lets +onlyGivenNames t); refine (?_ : Keeps a t → _) ?_; (on_goal 2 => unfold t); (on_goal 1 => (clear_value t; intro _)))
    | ((fail_if_no_progress extract_lets +onlyGivenNames t); subst t)
    | dsimp -zeta only
    | with_reducible apply Keeps.ite
    | with_reducible apply State.setLater_keeps
    | with_reducible apply State.share_keeps
    | split
    | fail_if_no_progress (with_reducible refine Keeps.upd ?_ rfl rfl rfl rfl rfl rfl)

/-- State.olcStep keeps what every operation keeps. -/
theorem State.olcStep_keeps {a s : State} {x1} (h : Keeps a s) : Keeps a (State.olcStep s x1) := by
  unfold State.olcStep
  repeat' first
    | with_reducible assumption
    | dsimp -zeta only
    | with_reducible apply State.share_keeps
    | with_reducible apply State.evCfg_keeps
    | with_reducible apply State.setF_keeps

/-- State.olcEnd keeps what every operation keeps. -/
theorem State.olcEnd_keeps {a s : State} {x1} (h : Keeps a s) : Keeps a (State.olcEnd s x1) := by
  unfold State.olcEnd
  repeat' first
    | with_reducible assumption
    | ((fail_if_no_progress extract_lets +onlyGivenNames t); refine (?_ : Keeps a t → _) ?_; (on_goal 2 => unfold t); (on_goal 1 => (clear_value t; intro _)))
    | ((fail_if_no_progress extract_lets +onlyGivenNames t); subst t)
    | dsimp -zeta only
    | with_reducible apply Keeps.ite
    | with_reducible apply State.setF_keeps
    | with_reducible apply State.olcStep_keeps
    | with_reducible apply State.bump_keeps
    | split
    | fail_if_no_progress (with_reducible refine Keeps.upd ?_ rfl rfl rfl rfl rfl rfl)

/-- State.olcTakeover keeps what every operation keeps. -/
theorem State.olcTakeover_keeps {a s : State} (h : Keeps a s) : Keeps a (State.olcTakeover s) := by
  unfold State.olcTakeover
  repeat' first
    | with_reducible assumption
    | dsimp -zeta only
    | with_reducible apply Keeps.ite
    | with_reducible apply State.olcEnd_keeps
    | split

/-- State.squareItem keeps what every operation keeps. -/
theorem State.squareItem_keeps {a s : State} {x1} (h : Keeps a s) : Keeps a (State.squareItem s x1) := by
  unfold State.squareItem
  split
  · exact Keeps.updCode h rfl rfl rfl rfl rfl (Memory.wf_memWrL _ _ _)
  · exact State.setF_keeps (Keeps.upd h rfl rfl rfl rfl rfl rfl)
  · exact State.setF_keeps (Keeps.upd h rfl rfl rfl rfl rfl rfl)
  · exact h

/-- State.carriedOut keeps what every operation keeps. -/
theorem State.carriedOut_keeps {a s : State} (h : Keeps a s) : Keeps a (State.carriedOut s) := by
  unfold State.carriedOut
  repeat' first
    | with_reducible assumption
    | ((fail_if_no_progress extract_lets +onlyGivenNames t); refine (?_ : Keeps a t → _) ?_; (on_goal 2 => unfold t); (on_goal 1 => (clear_value t; intro _)))
    | ((fail_if_no_progress extract_lets +onlyGivenNames t); subst t)
    | dsimp -zeta only
    | fail_if_no_progress (with_reducible refine Keeps.upd ?_ rfl rfl rfl rfl rfl rfl)

/-- State.baseNow keeps what every operation keeps. -/
theorem State.baseNow_keeps {a s : State} (h : Keeps a s) : Keeps a (State.baseNow s) := by
  unfold State.baseNow
  repeat' first
    | with_reducible assumption
    | ((fail_if_no_progress extract_lets +onlyGivenNames t); refine (?_ : Keeps a t → _) ?_; (on_goal 2 => unfold t); (on_goal 1 => (clear_value t; intro _)))
    | ((fail_if_no_progress extract_lets +onlyGivenNames t); subst t)
    | dsimp -zeta only
    | fail_if_no_progress (with_reducible refine Keeps.upd ?_ rfl rfl rfl rfl rfl rfl)

/-- State.modTask keeps what every operation keeps. -/
theorem State.modTask_keeps {a s : State} {x1 x2} (h : Keeps a s) : Keeps a (State.modTask s x1 x2) := by
  unfold State.modTask
  repeat' first
    | with_reducible assumption
    | ((fail_if_no_progress extract_lets +onlyGivenNames t); refine (?_ : Keeps a t → _) ?_; (on_goal 2 => unfold t); (on_goal 1 => (clear_value t; intro _)))
    | ((fail_if_no_progress extract_lets +onlyGivenNames t); subst t)
    | dsimp -zeta only
    | fail_if_no_progress (with_reducible refine Keeps.upd ?_ rfl rfl rfl rfl rfl rfl)

/-- State.putRun keeps what every operation keeps. -/
theorem State.putRun_keeps {a s : State} {x1} (h : Keeps a s) : Keeps a (State.putRun s x1) := by
  unfold State.putRun
  repeat' first
    | with_reducible assumption
    | ((fail_if_no_progress extract_lets +onlyGivenNames t); refine (?_ : Keeps a t → _) ?_; (on_goal 2 => unfold t); (on_goal 1 => (clear_value t; intro _)))
    | ((fail_if_no_progress extract_lets +onlyGivenNames t); subst t)
    | dsimp -zeta only
    | fail_if_no_progress (with_reducible refine Keeps.upd ?_ rfl rfl rfl rfl rfl rfl)

/-- State.delRun keeps what every operation keeps. -/
theorem State.delRun_keeps {a s : State} {x1 x2} (h : Keeps a s) : Keeps a (State.delRun s x1 x2) := by
  unfold State.delRun
  repeat' first
    | with_reducible assumption
    | ((fail_if_no_progress extract_lets +onlyGivenNames t); refine (?_ : Keeps a t → _) ?_; (on_goal 2 => unfold t); (on_goal 1 => (clear_value t; intro _)))
    | ((fail_if_no_progress extract_lets +onlyGivenNames t); subst t)
    | dsimp -zeta only
    | fail_if_no_progress (with_reducible refine Keeps.upd ?_ rfl rfl rfl rfl rfl rfl)

/-- State.modLane keeps what every operation keeps. -/
theorem State.modLane_keeps {a s : State} {x1 x2} (h : Keeps a s) : Keeps a (State.modLane s x1 x2) := by
  unfold State.modLane
  repeat' first
    | with_reducible assumption
    | ((fail_if_no_progress extract_lets +onlyGivenNames t); refine (?_ : Keeps a t → _) ?_; (on_goal 2 => unfold t); (on_goal 1 => (clear_value t; intro _)))
    | ((fail_if_no_progress extract_lets +onlyGivenNames t); subst t)
    | dsimp -zeta only
    | fail_if_no_progress (with_reducible refine Keeps.upd ?_ rfl rfl rfl rfl rfl rfl)

/-- State.withAcu keeps what every operation keeps. -/
theorem State.withAcu_keeps {a s : State} {x1} (h : Keeps a s) : Keeps a (State.withAcu s x1) :=
  Keeps.updRegs h rfl (fun e => tabRising_foldl _ _ _ _ (tabRising_sublist List.filter_sublist e)) rfl rfl rfl rfl

/-- State.enterOld keeps what every operation keeps. -/
theorem State.enterOld_keeps {a s : State} {x1} (h : Keeps a s) : Keeps a (State.enterOld s x1) := by
  unfold State.enterOld
  repeat' first
    | with_reducible assumption
    | ((fail_if_no_progress extract_lets +onlyGivenNames t); refine (?_ : Keeps a t → _) ?_; (on_goal 2 => unfold t); (on_goal 1 => (clear_value t; intro _)))
    | ((fail_if_no_progress extract_lets +onlyGivenNames t); subst t)
    | dsimp -zeta only
    | with_reducible apply Keeps.ite
    | with_reducible apply State.withAcu_keeps
    | with_reducible apply State.setF_keeps
    | split
    | fail_if_no_progress (with_reducible refine Keeps.upd ?_ rfl rfl rfl rfl rfl rfl)

/-- State.leaveOld keeps what every operation keeps. -/
theorem State.leaveOld_keeps {a s : State} (h : Keeps a s) : Keeps a (State.leaveOld s) := by
  unfold State.leaveOld
  repeat' first
    | with_reducible assumption
    | ((fail_if_no_progress extract_lets +onlyGivenNames t); refine (?_ : Keeps a t → _) ?_; (on_goal 2 => unfold t); (on_goal 1 => (clear_value t; intro _)))
    | ((fail_if_no_progress extract_lets +onlyGivenNames t); subst t)
    | dsimp -zeta only
    | with_reducible apply State.setF_keeps
    | with_reducible apply State.withAcu_keeps
    | split
    | fail_if_no_progress (with_reducible refine Keeps.upd ?_ rfl rfl rfl rfl rfl rfl)

/-- State.ask keeps what every operation keeps. -/
theorem State.ask_keeps {a s : State} {x1 x2 x3 x4} (h : Keeps a s) : Keeps a (State.ask s x1 x2 x3 x4) := by
  unfold State.ask
  repeat' first
    | with_reducible assumption
    | ((fail_if_no_progress extract_lets +onlyGivenNames t); refine (?_ : Keeps a t → _) ?_; (on_goal 2 => unfold t); (on_goal 1 => (clear_value t; intro _)))
    | ((fail_if_no_progress extract_lets +onlyGivenNames t); subst t)
    | dsimp -zeta only
    | fail_if_no_progress (with_reducible refine Keeps.upd ?_ rfl rfl rfl rfl rfl rfl)

/-- State.callErrorTask keeps what every operation keeps. -/
theorem State.callErrorTask_keeps {a s : State} {x1} (h : Keeps a s) : Keeps a (State.callErrorTask s x1) := by
  unfold State.callErrorTask
  repeat' first
    | with_reducible assumption
    | dsimp -zeta only
    | with_reducible apply State.ask_keeps
    | split

/-- State.sysWrite keeps what every operation keeps. -/
theorem State.sysWrite_keeps {a s : State} {x1 x2} (h : Keeps a s) : Keeps a (State.sysWrite s x1 x2) :=
  Keeps.updMem h rfl rfl rfl (Nat.le_refl _) (Memory.wf_memWrL _ _ _) rfl

/-- State.seatWrite keeps what every operation keeps. -/
theorem State.seatWrite_keeps {a s : State} {x1 x2} (h : Keeps a s) : Keeps a (State.seatWrite s x1 x2) := by
  unfold State.seatWrite
  repeat' first
    | with_reducible assumption
    | ((fail_if_no_progress extract_lets +onlyGivenNames t); refine (?_ : Keeps a t → _) ?_; (on_goal 2 => unfold t); (on_goal 1 => (clear_value t; intro _)))
    | ((fail_if_no_progress extract_lets +onlyGivenNames t); subst t)
    | dsimp -zeta only
    | with_reducible apply Keeps.ite
    | with_reducible apply State.sysWrite_keeps
    | split
    | fail_if_no_progress (with_reducible refine Keeps.upd ?_ rfl rfl rfl rfl rfl rfl)

/-- State.showWin keeps what every operation keeps. -/
theorem State.showWin_keeps {a s : State} {x1} (h : Keeps a s) : Keeps a (State.showWin s x1) := by
  unfold State.showWin
  repeat' first
    | with_reducible assumption
    | ((fail_if_no_progress extract_lets +onlyGivenNames t); refine (?_ : Keeps a t → _) ?_; (on_goal 2 => unfold t); (on_goal 1 => (clear_value t; intro _)))
    | ((fail_if_no_progress extract_lets +onlyGivenNames t); subst t)
    | dsimp -zeta only
    | with_reducible apply State.setF_keeps
    | with_reducible apply State.sysWrite_keeps
    | split

/-- State.putWin keeps what every operation keeps. -/
theorem State.putWin_keeps {a s : State} {x1} (h : Keeps a s) : Keeps a (State.putWin s x1) := by
  unfold State.putWin
  repeat' first
    | with_reducible assumption
    | ((fail_if_no_progress extract_lets +onlyGivenNames t); refine (?_ : Keeps a t → _) ?_; (on_goal 2 => unfold t); (on_goal 1 => (clear_value t; intro _)))
    | ((fail_if_no_progress extract_lets +onlyGivenNames t); subst t)
    | dsimp -zeta only
    | with_reducible apply Keeps.ite
    | with_reducible apply State.showWin_keeps
    | split
    | fail_if_no_progress (with_reducible refine Keeps.upd ?_ rfl rfl rfl rfl rfl rfl)

/-- State.reportIn keeps what every operation keeps. -/
theorem State.reportIn_keeps {a s : State} {x1 x2 x3 x4 x5} (h : Keeps a s) : Keeps a (State.reportIn s x1 x2 x3 x4 x5) := by
  unfold State.reportIn
  repeat' first
    | with_reducible assumption
    | ((fail_if_no_progress extract_lets +onlyGivenNames t); refine (?_ : Keeps a t → _) ?_; (on_goal 2 => unfold t); (on_goal 1 => (clear_value t; intro _)))
    | ((fail_if_no_progress extract_lets +onlyGivenNames t); subst t)
    | dsimp -zeta only
    | with_reducible apply State.putWin_keeps
    | with_reducible apply State.callErrorTask_keeps
    | with_reducible apply State.showWin_keeps
    | split
    | fail_if_no_progress (with_reducible refine Keeps.upd ?_ rfl rfl rfl rfl rfl rfl)

/-- State.report keeps what every operation keeps. -/
theorem State.report_keeps {a s : State} {x1 x2 x3 x4 x5} (h : Keeps a s) : Keeps a (State.report s x1 x2 x3 x4 x5) := by
  unfold State.report
  repeat' first
    | with_reducible assumption
    | ((fail_if_no_progress extract_lets +onlyGivenNames t); refine (?_ : Keeps a t → _) ?_; (on_goal 2 => unfold t); (on_goal 1 => (clear_value t; intro _)))
    | ((fail_if_no_progress extract_lets +onlyGivenNames t); subst t)
    | dsimp -zeta only
    | with_reducible apply Keeps.ite
    | with_reducible apply State.reportIn_keeps
    | with_reducible apply State.bump_keeps
    | split

/-! ### Machine/Access.lean -/

/-- State.latchEcc keeps what every operation keeps. -/
theorem State.latchEcc_keeps {a s : State} {x1} (h : Keeps a s) : Keeps a (State.latchEcc s x1) := by
  unfold State.latchEcc
  repeat' first
    | with_reducible assumption
    | dsimp -zeta only
    | with_reducible apply State.setF_keeps

/-- State.spareRow keeps what every operation keeps. -/
theorem State.spareRow_keeps {a s : State} {x1} (h : Keeps a s) : Keeps a (State.spareRow s x1) := by
  unfold State.spareRow
  repeat' first
    | with_reducible assumption
    | ((fail_if_no_progress extract_lets +onlyGivenNames t); refine (?_ : Keeps a t → _) ?_; (on_goal 2 => unfold t); (on_goal 1 => (clear_value t; intro _)))
    | ((fail_if_no_progress extract_lets +onlyGivenNames t); subst t)
    | dsimp -zeta only
    | with_reducible apply Keeps.ite
    | with_reducible apply State.evHw_keeps
    | with_reducible apply State.setF_keeps
    | split
    | fail_if_no_progress (with_reducible refine Keeps.upd ?_ rfl rfl rfl rfl rfl rfl)

/-- State.eccCorrected keeps what every operation keeps. -/
theorem State.eccCorrected_keeps {a s : State} {x1} (h : Keeps a s) : Keeps a (State.eccCorrected s x1) := by
  unfold State.eccCorrected
  repeat' first
    | with_reducible assumption
    | ((fail_if_no_progress extract_lets +onlyGivenNames t); refine (?_ : Keeps a t → _) ?_; (on_goal 2 => unfold t); (on_goal 1 => (clear_value t; intro _)))
    | ((fail_if_no_progress extract_lets +onlyGivenNames t); subst t)
    | dsimp -zeta only
    | with_reducible apply Keeps.ite
    | with_reducible apply State.latchEcc_keeps
    | with_reducible apply State.bump_keeps
    | with_reducible apply State.spareRow_keeps
    | split
    | fail_if_no_progress (with_reducible refine Keeps.upd ?_ rfl rfl rfl rfl rfl rfl)

/-- State.poisonUnit keeps what every operation keeps. -/
theorem State.poisonUnit_keeps {a s : State} {x1 x2} (h : Keeps a s) : Keeps a (State.poisonUnit s x1 x2) := by
  unfold State.poisonUnit
  repeat' first
    | with_reducible assumption
    | ((fail_if_no_progress extract_lets +onlyGivenNames t); refine (?_ : Keeps a t → _) ?_; (on_goal 2 => unfold t); (on_goal 1 => (clear_value t; intro _)))
    | ((fail_if_no_progress extract_lets +onlyGivenNames t); subst t)
    | dsimp -zeta only
    | with_reducible apply Keeps.ite
    | split
    | fail_if_no_progress (with_reducible refine Keeps.upd ?_ rfl rfl rfl rfl rfl rfl)

/-- State.eccUncorrectable keeps what every operation keeps. -/
theorem State.eccUncorrectable_keeps {a s : State} {x1 x2} (h : Keeps a s) : Keeps a (State.eccUncorrectable s x1 x2) := by
  unfold State.eccUncorrectable
  repeat' first
    | with_reducible assumption
    | ((fail_if_no_progress extract_lets +onlyGivenNames t); refine (?_ : Keeps a t → _) ?_; (on_goal 2 => unfold t); (on_goal 1 => (clear_value t; intro _)))
    | ((fail_if_no_progress extract_lets +onlyGivenNames t); subst t)
    | dsimp -zeta only
    | with_reducible apply State.poisonUnit_keeps
    | with_reducible apply State.latchEcc_keeps
    | with_reducible apply State.bump_keeps
    | with_reducible apply State.spareRow_keeps
    | with_reducible apply State.evHw_keeps

/-- State.meetUnit keeps what every operation keeps. -/
theorem State.meetUnit_keeps {a s : State} {x1 x2} (h : Keeps a s) : Keeps a (State.meetUnit s x1 x2) := by
  unfold State.meetUnit
  repeat' first
    | with_reducible assumption
    | ((fail_if_no_progress extract_lets +onlyGivenNames t); refine (?_ : Keeps a t → _) ?_; (on_goal 2 => unfold t); (on_goal 1 => (clear_value t; intro _)))
    | ((fail_if_no_progress extract_lets +onlyGivenNames t); subst t)
    | dsimp -zeta only
    | with_reducible apply Keeps.ite
    | with_reducible apply State.eccCorrected_keeps
    | with_reducible apply State.eccUncorrectable_keeps
    | split
    | fail_if_no_progress (with_reducible refine Keeps.upd ?_ rfl rfl rfl rfl rfl rfl)

/-- State.lookMap keeps what every operation keeps. -/
theorem State.lookMap_keeps {a s : State} {x1} (h : Keeps a s) : Keeps a (State.lookMap s x1) := by
  unfold State.lookMap
  repeat' first
    | with_reducible assumption
    | ((fail_if_no_progress extract_lets +onlyGivenNames t); refine (?_ : Keeps a t → _) ?_; (on_goal 2 => unfold t); (on_goal 1 => (clear_value t; intro _)))
    | ((fail_if_no_progress extract_lets +onlyGivenNames t); subst t)
    | dsimp -zeta only
    | with_reducible apply Keeps.ite
    | with_reducible apply State.setF_keeps
    | split
    | fail_if_no_progress (with_reducible refine Keeps.upd ?_ rfl rfl rfl rfl rfl rfl)

/-- State.meet keeps what every operation keeps. -/
theorem State.meet_keeps {a s : State} {x1 x2 x3} (h : Keeps a s) : Keeps a (State.meet s x1 x2 x3) := by
  unfold State.meet
  repeat' first
    | with_reducible assumption
    | dsimp -zeta only
    | with_reducible apply Keeps.ite
    | with_reducible apply State.meetUnit_keeps
    | with_reducible apply State.lookMap_keeps
    | with_reducible exact Keeps1.out ‹_›
    | with_reducible apply Keeps1.mk
    | with_reducible apply Keeps1.ite
    | with_reducible refine Keeps1.foldl ?_ (fun _ _ _ => ?_)
    | with_reducible refine Keeps1.out ?_
    | with_reducible exact Keeps2.out ‹_›
    | with_reducible apply Keeps2.mk
    | with_reducible apply Keeps2.ite
    | with_reducible refine Keeps2.foldl ?_ (fun _ _ _ => ?_)
    | with_reducible refine Keeps2.out ?_
    | with_reducible refine Keeps.foldl ?_ (fun _ _ _ => ?_)
    | split

/-- State.latchRefusal keeps what every operation keeps. -/
theorem State.latchRefusal_keeps {a s : State} {x1 x2 x3} (h : Keeps a s) : Keeps a (State.latchRefusal s x1 x2 x3) := by
  unfold State.latchRefusal
  repeat' first
    | with_reducible assumption
    | ((fail_if_no_progress extract_lets +onlyGivenNames t); refine (?_ : Keeps a t → _) ?_; (on_goal 2 => unfold t); (on_goal 1 => (clear_value t; intro _)))
    | ((fail_if_no_progress extract_lets +onlyGivenNames t); subst t)
    | dsimp -zeta only
    | with_reducible apply State.setF_keeps
    | with_reducible apply State.setB_keeps

/-- An access by engines keeps what its effect keeps. -/
theorem State.byEngines_keeps {a s : State} {x1 x2 x3} {f : State → State} (h : Keeps a s) (hf : ∀ s, Keeps a s → Keeps a (f s)) :
    Keeps a (State.byEngines s x1 x2 x3 f) := by
  unfold State.byEngines
  split
  · exact State.latchRefusal_keeps h
  · exact hf _ h

/-- State.walkMeet keeps what every operation keeps. -/
theorem State.walkMeet_keeps {a s : State} {x1} (h : Keeps a s) : Keeps a (State.walkMeet s x1) := by
  unfold State.walkMeet
  repeat' first
    | with_reducible assumption
    | ((fail_if_no_progress extract_lets +onlyGivenNames t); refine (?_ : Keeps a t → _) ?_; (on_goal 2 => unfold t); (on_goal 1 => (clear_value t; intro _)))
    | ((fail_if_no_progress extract_lets +onlyGivenNames t); subst t)
    | dsimp -zeta only
    | with_reducible apply Keeps.ite
    | with_reducible apply State.meet_keeps
    | split

/-- State.latchWalk keeps what every operation keeps. -/
theorem State.latchWalk_keeps {a s : State} {x1 x2} (h : Keeps a s) : Keeps a (State.latchWalk s x1 x2) := by
  unfold State.latchWalk
  repeat' first
    | with_reducible assumption
    | dsimp -zeta only
    | with_reducible apply State.setF_keeps

/-- State.translate keeps what every operation keeps. -/
theorem State.translate_keeps {a s : State} {x1 x2 x3} (h : Keeps a s) : Keeps2 a (State.translate s x1 x2 x3) := by
  unfold State.translate
  dsimp only
  have hw : Keeps a (s.walkMeet x3) := State.walkMeet_keeps h
  generalize s.walkMeet x3 = u at hw
  generalize (s.laneRt x1).lookup x3 = o
  generalize u.walk (some x2) x3 = w
  rcases o with _ | e
  · rcases w with r | ⟨w0, w1⟩
    · exact Keeps2.mk hw
    · exact Keeps2.mk (State.modLane_keeps hw)
  · dsimp only
    generalize s.useReason (some x2) e.w0 e.w1 = y
    rcases y with _ | r
    · exact Keeps2.mk (State.modLane_keeps h)
    · exact Keeps2.mk h

/-- State.hostFill keeps what every operation keeps. -/
theorem State.hostFill_keeps {a s : State} {x1 x2 x3} (h : Keeps a s) : Keeps a (State.hostFill s x1 x2 x3) := by
  unfold State.hostFill
  dsimp only
  split
  · exact Keeps.upd h rfl rfl rfl rfl rfl rfl
  · exact Keeps.updMem h rfl rfl rfl (Nat.le_succ _) id rfl

/-- State.hostTook keeps what every operation keeps. -/
theorem State.hostTook_keeps {a s : State} {x1 x2} (h : Keeps a s) : Keeps2 a (State.hostTook s x1 x2) := by
  unfold State.hostTook
  repeat' first
    | with_reducible assumption
    | ((fail_if_no_progress extract_lets +onlyGivenNames t); refine (?_ : Keeps a t → _) ?_; (on_goal 2 => unfold t); (on_goal 1 => (clear_value t; intro _)))
    | ((fail_if_no_progress extract_lets +onlyGivenNames t); subst t)
    | dsimp -zeta only
    | with_reducible apply State.latchWalk_keeps
    | with_reducible apply State.hostFill_keeps
    | with_reducible exact Keeps2.out ‹_›
    | with_reducible apply Keeps2.mk
    | split
    | with_reducible refine Keeps.of2 ‹_› ?_
    | fail_if_no_progress (with_reducible refine Keeps.upd ?_ rfl rfl rfl rfl rfl rfl)

/-- State.hostWalk keeps what every operation keeps. -/
theorem State.hostWalk_keeps {a s : State} {x1} (h : Keeps a s) : Keeps2 a (State.hostWalk s x1) := by
  unfold State.hostWalk
  repeat' first
    | with_reducible assumption
    | ((fail_if_no_progress extract_lets +onlyGivenNames t); refine (?_ : Keeps a t → _) ?_; (on_goal 2 => unfold t); (on_goal 1 => (clear_value t; intro _)))
    | ((fail_if_no_progress extract_lets +onlyGivenNames t); refine (?_ : Keeps2 a t → _) ?_; (on_goal 2 => unfold t); (on_goal 1 => (clear_value t; intro _)))
    | ((fail_if_no_progress extract_lets +onlyGivenNames t); subst t)
    | dsimp -zeta only
    | with_reducible apply State.walkMeet_keeps
    | with_reducible apply State.hostTook_keeps
    | with_reducible refine Keeps2.out (State.hostTook_keeps ?_)
    | with_reducible exact Keeps2.out ‹_›
    | with_reducible apply Keeps2.mk

/-- State.hostTranslate keeps what every operation keeps. -/
theorem State.hostTranslate_keeps {a s : State} {x1} (h : Keeps a s) : Keeps2 a (State.hostTranslate s x1) := by
  unfold State.hostTranslate
  split
  · rename_i e _
    have k : Keeps a { s with fresh := s.fresh + 1 } := Keeps.updMem h rfl rfl rfl (Nat.le_succ _) id rfl
    dsimp only
    generalize ({ s with fresh := s.fresh + 1 } : State) = u at *
    refine Keeps2.ite (State.hostWalk_keeps k) ?_
    generalize u.useReason none e.w0 e.w1 = o
    cases o with
    | none => exact Keeps2.mk k
    | some r => exact Keeps2.mk (State.latchWalk_keeps k)
  · exact State.hostWalk_keeps h

/-! ### Machine/Arcade.lean -/

/-- State.arcCommit keeps what every operation keeps. -/
theorem State.arcCommit_keeps {a s : State} {x1 x2 x3 x4} (h : Keeps a s) : Keeps a (State.arcCommit s x1 x2 x3 x4) := by
  unfold State.arcCommit
  repeat' first
    | with_reducible assumption
    | ((fail_if_no_progress extract_lets +onlyGivenNames t); refine (?_ : Keeps a t → _) ?_; (on_goal 2 => unfold t); (on_goal 1 => (clear_value t; intro _)))
    | ((fail_if_no_progress extract_lets +onlyGivenNames t); subst t)
    | dsimp -zeta only
    | with_reducible apply Keeps.ite
    | split
    | fail_if_no_progress (with_reducible refine Keeps.upd ?_ rfl rfl rfl rfl rfl rfl)

/-- State.setCredit keeps what every operation keeps. -/
theorem State.setCredit_keeps {a s : State} {x1} (h : Keeps a s) : Keeps a (State.setCredit s x1) := by
  unfold State.setCredit
  repeat' first
    | with_reducible assumption
    | ((fail_if_no_progress extract_lets +onlyGivenNames t); refine (?_ : Keeps a t → _) ?_; (on_goal 2 => unfold t); (on_goal 1 => (clear_value t; intro _)))
    | ((fail_if_no_progress extract_lets +onlyGivenNames t); subst t)
    | dsimp -zeta only
    | with_reducible apply Keeps.ite
    | with_reducible apply State.setF_keeps
    | with_reducible apply State.setB_keeps
    | split
    | fail_if_no_progress (with_reducible refine Keeps.upd ?_ rfl rfl rfl rfl rfl rfl)

/-- State.arcRelease keeps what every operation keeps. -/
theorem State.arcRelease_keeps {a s : State} {x1} (h : Keeps a s) : Keeps a (State.arcRelease s x1) := by
  induction x1 generalizing s with
  | zero => exact h
  | succ n ih =>
    unfold State.arcRelease
    repeat' split
    all_goals first | exact h | exact ih (Keeps.upd h rfl rfl rfl rfl rfl rfl)

/-- State.cursorStart keeps what every operation keeps. -/
theorem State.cursorStart_keeps {a s : State} {x1 x2} (h : Keeps a s) : Keeps a (State.cursorStart s x1 x2) := by
  unfold State.cursorStart
  repeat' first
    | with_reducible assumption
    | ((fail_if_no_progress extract_lets +onlyGivenNames t); refine (?_ : Keeps a t → _) ?_; (on_goal 2 => unfold t); (on_goal 1 => (clear_value t; intro _)))
    | ((fail_if_no_progress extract_lets +onlyGivenNames t); subst t)
    | dsimp -zeta only
    | with_reducible apply State.setF_keeps
    | fail_if_no_progress (with_reducible refine Keeps.upd ?_ rfl rfl rfl rfl rfl rfl)

/-- State.cmdArcNext keeps what every operation keeps. -/
theorem State.cmdArcNext_keeps {a s : State} {x1} (h : Keeps a s) : Keeps a (State.cmdArcNext s x1) := by
  unfold State.cmdArcNext
  repeat' first
    | with_reducible assumption
    | ((fail_if_no_progress extract_lets +onlyGivenNames t); refine (?_ : Keeps a t → _) ?_; (on_goal 2 => unfold t); (on_goal 1 => (clear_value t; intro _)))
    | ((fail_if_no_progress extract_lets +onlyGivenNames t); subst t)
    | dsimp -zeta only
    | with_reducible apply State.cursorStart_keeps
    | with_reducible apply State.setF_keeps

/-- State.clearRecord keeps what every operation keeps. -/
theorem State.clearRecord_keeps {a s : State} {x1 x2 x3} (h : Keeps a s) : Keeps a (State.clearRecord s x1 x2 x3) := by
  unfold State.clearRecord
  repeat' first
    | with_reducible assumption
    | dsimp -zeta only
    | with_reducible apply State.event_keeps
    | split

/-- State.cmdArcClrevt keeps what every operation keeps. -/
theorem State.cmdArcClrevt_keeps {a s : State} {x1 x2} (h : Keeps a s) : Keeps a (State.cmdArcClrevt s x1 x2) := by
  unfold State.cmdArcClrevt
  repeat' first
    | with_reducible assumption
    | ((fail_if_no_progress extract_lets +onlyGivenNames t); refine (?_ : Keeps a t → _) ?_; (on_goal 2 => unfold t); (on_goal 1 => (clear_value t; intro _)))
    | ((fail_if_no_progress extract_lets +onlyGivenNames t); subst t)
    | dsimp -zeta only
    | with_reducible apply Keeps.ite
    | with_reducible apply State.ignored_keeps
    | with_reducible apply State.clearRecord_keeps
    | split
    | fail_if_no_progress (with_reducible refine Keeps.upd ?_ rfl rfl rfl rfl rfl rfl)

/-- State.cmdArcClrcyc keeps what every operation keeps. -/
theorem State.cmdArcClrcyc_keeps {a s : State} {x1} (h : Keeps a s) : Keeps a (State.cmdArcClrcyc s x1) := by
  unfold State.cmdArcClrcyc
  repeat' first
    | with_reducible assumption
    | ((fail_if_no_progress extract_lets +onlyGivenNames t); refine (?_ : Keeps a t → _) ?_; (on_goal 2 => unfold t); (on_goal 1 => (clear_value t; intro _)))
    | ((fail_if_no_progress extract_lets +onlyGivenNames t); subst t)
    | dsimp -zeta only
    | with_reducible apply Keeps.ite
    | with_reducible apply State.ignored_keeps
    | with_reducible apply State.clearRecord_keeps
    | split
    | fail_if_no_progress (with_reducible refine Keeps.upd ?_ rfl rfl rfl rfl rfl rfl)

/-- State.cmdArcErase keeps what every operation keeps. -/
theorem State.cmdArcErase_keeps {a s : State} {x1} (h : Keeps a s) : Keeps a (State.cmdArcErase s x1) := by
  unfold State.cmdArcErase
  repeat' first
    | with_reducible assumption
    | ((fail_if_no_progress extract_lets +onlyGivenNames t); refine (?_ : Keeps a t → _) ?_; (on_goal 2 => unfold t); (on_goal 1 => (clear_value t; intro _)))
    | ((fail_if_no_progress extract_lets +onlyGivenNames t); subst t)
    | dsimp -zeta only
    | with_reducible apply Keeps.ite
    | with_reducible apply State.ignored_keeps
    | with_reducible apply State.clearRecord_keeps
    | split
    | fail_if_no_progress (with_reducible refine Keeps.upd ?_ rfl rfl rfl rfl rfl rfl)

/-! ### Machine/FieldIo.lean -/

/-- A write of field data keeps what the rest keeps. -/
theorem State.ingest_keeps {a s : State} {x1 x2} {f : State → State} (h : Keeps a s) (hf : ∀ s, Keeps a s → Keeps a (f s)) :
    Keeps a (State.ingest s x1 x2 f) := State.byEngines_keeps h (fun _ h => hf _ (State.seatWrite_keeps h))

/-- An entry put into a ring keeps what the rest keeps. -/
theorem State.ringPut_keeps {a s : State} {x1 x2 x3 x4 x5 x6 x7} {f : State → State} (h : Keeps a s) (hf : ∀ s, Keeps a s → Keeps a (f s)) :
    Keeps a (State.ringPut s x1 x2 x3 x4 x5 x6 x7 f) := by
  unfold State.ringPut
  split
  · exact State.ingest_keeps h hf
  · exact hf _ h

/-- State.modDio keeps what every operation keeps. -/
theorem State.modDio_keeps {a s : State} {x1 x2} (h : Keeps a s) : Keeps a (State.modDio s x1 x2) := by
  unfold State.modDio
  repeat' first
    | with_reducible assumption
    | ((fail_if_no_progress extract_lets +onlyGivenNames t); refine (?_ : Keeps a t → _) ?_; (on_goal 2 => unfold t); (on_goal 1 => (clear_value t; intro _)))
    | ((fail_if_no_progress extract_lets +onlyGivenNames t); subst t)
    | dsimp -zeta only
    | fail_if_no_progress (with_reducible refine Keeps.upd ?_ rfl rfl rfl rfl rfl rfl)

/-- State.showSick keeps what every operation keeps. -/
theorem State.showSick_keeps {a s : State} {x1} (h : Keeps a s) : Keeps a (State.showSick s x1) := by
  unfold State.showSick
  repeat' first
    | with_reducible assumption
    | dsimp -zeta only
    | with_reducible apply Keeps.ite
    | with_reducible apply State.setF_keeps
    | split

/-- State.trigger keeps what every operation keeps. -/
theorem State.trigger_keeps {a s : State} {x1 x2} (h : Keeps a s) : Keeps a (State.trigger s x1 x2) := by
  unfold State.trigger
  repeat' first
    | with_reducible assumption
    | dsimp -zeta only
    | with_reducible apply Keeps.ite
    | with_reducible apply State.ask_keeps
    | with_reducible exact Keeps1.out ‹_›
    | with_reducible apply Keeps1.mk
    | with_reducible apply Keeps1.ite
    | with_reducible refine Keeps1.foldl ?_ (fun _ _ _ => ?_)
    | with_reducible refine Keeps1.out ?_
    | with_reducible exact Keeps2.out ‹_›
    | with_reducible apply Keeps2.mk
    | with_reducible apply Keeps2.ite
    | with_reducible refine Keeps2.foldl ?_ (fun _ _ _ => ?_)
    | with_reducible refine Keeps2.out ?_
    | with_reducible refine Keeps.foldl ?_ (fun _ _ _ => ?_)
    | split

/-- State.edgePut keeps what every operation keeps. -/
theorem State.edgePut_keeps {a s : State} {x1 x2 x3} (h : Keeps a s) : Keeps a (State.edgePut s x1 x2 x3) := by
  unfold State.edgePut
  repeat' first
    | with_reducible assumption
    | ((fail_if_no_progress extract_lets +onlyGivenNames t); refine (?_ : Keeps a t → _) ?_; (on_goal 2 => unfold t); (on_goal 1 => (clear_value t; intro _)))
    | ((fail_if_no_progress extract_lets +onlyGivenNames t); subst t)
    | dsimp -zeta only
    | with_reducible apply Keeps.ite
    | with_reducible apply State.bump_keeps
    | with_reducible refine State.ringPut_keeps ?_ (fun _ _ => ?_)
    | with_reducible apply State.wrapUp_keeps
    | split
    | fail_if_no_progress (with_reducible refine Keeps.upd ?_ rfl rfl rfl rfl rfl rfl)

/-- State.sampleIn keeps what every operation keeps. -/
theorem State.sampleIn_keeps {a s : State} {x1 x2 x3} (h : Keeps a s) : Keeps a (State.sampleIn s x1 x2 x3) := by
  unfold State.sampleIn
  repeat' first
    | with_reducible assumption
    | ((fail_if_no_progress extract_lets +onlyGivenNames t); refine (?_ : Keeps a t → _) ?_; (on_goal 2 => unfold t); (on_goal 1 => (clear_value t; intro _)))
    | ((fail_if_no_progress extract_lets +onlyGivenNames t); subst t)
    | dsimp -zeta only
    | with_reducible apply Keeps.ite
    | with_reducible apply State.modDio_keeps
    | with_reducible apply State.setB_keeps
    | with_reducible apply State.trigger_keeps
    | with_reducible apply State.edgePut_keeps
    | split

/-- State.sampleOut keeps what every operation keeps. -/
theorem State.sampleOut_keeps {a s : State} {x1 x2 x3} (h : Keeps a s) : Keeps a (State.sampleOut s x1 x2 x3) := by
  unfold State.sampleOut
  repeat' first
    | with_reducible assumption
    | ((fail_if_no_progress extract_lets +onlyGivenNames t); refine (?_ : Keeps a t → _) ?_; (on_goal 2 => unfold t); (on_goal 1 => (clear_value t; intro _)))
    | ((fail_if_no_progress extract_lets +onlyGivenNames t); subst t)
    | dsimp -zeta only
    | with_reducible apply Keeps.ite
    | with_reducible apply State.setF_keeps
    | with_reducible apply State.bump_keeps
    | with_reducible apply State.modDio_keeps
    | with_reducible apply State.setB_keeps
    | split

/-- State.sampleCh keeps what every operation keeps. -/
theorem State.sampleCh_keeps {a s : State} {x1 x2} (h : Keeps a s) : Keeps a (State.sampleCh s x1 x2) := by
  unfold State.sampleCh
  repeat' first
    | with_reducible assumption
    | ((fail_if_no_progress extract_lets +onlyGivenNames t); refine (?_ : Keeps a t → _) ?_; (on_goal 2 => unfold t); (on_goal 1 => (clear_value t; intro _)))
    | ((fail_if_no_progress extract_lets +onlyGivenNames t); subst t)
    | dsimp -zeta only
    | with_reducible apply Keeps.ite
    | with_reducible apply State.sampleIn_keeps
    | with_reducible apply State.sampleOut_keeps
    | with_reducible apply State.setB_keeps
    | split

/-- State.dioCommit keeps what every operation keeps. -/
theorem State.dioCommit_keeps {a s : State} {x1 x2} (h : Keeps a s) : Keeps a (State.dioCommit s x1 x2) := by
  unfold State.dioCommit
  repeat' first
    | with_reducible assumption
    | ((fail_if_no_progress extract_lets +onlyGivenNames t); refine (?_ : Keeps a t → _) ?_; (on_goal 2 => unfold t); (on_goal 1 => (clear_value t; intro _)))
    | ((fail_if_no_progress extract_lets +onlyGivenNames t); subst t)
    | dsimp -zeta only
    | with_reducible apply Keeps.ite
    | with_reducible apply State.setB_keeps
    | with_reducible apply State.setF_keeps
    | split

/-- State.showAi keeps what every operation keeps. -/
theorem State.showAi_keeps {a s : State} {x1} (h : Keeps a s) : Keeps a (State.showAi s x1) := by
  unfold State.showAi
  repeat' first
    | with_reducible assumption
    | ((fail_if_no_progress extract_lets +onlyGivenNames t); refine (?_ : Keeps a t → _) ?_; (on_goal 2 => unfold t); (on_goal 1 => (clear_value t; intro _)))
    | ((fail_if_no_progress extract_lets +onlyGivenNames t); subst t)
    | dsimp -zeta only
    | with_reducible apply State.setF_keeps
    | with_reducible apply State.setB_keeps

/-- State.aiSample keeps what every operation keeps. -/
theorem State.aiSample_keeps {a s : State} {x1 x2 x3} (h : Keeps a s) : Keeps a (State.aiSample s x1 x2 x3) := by
  unfold State.aiSample
  repeat' first
    | with_reducible assumption
    | ((fail_if_no_progress extract_lets +onlyGivenNames t); refine (?_ : Keeps a t → _) ?_; (on_goal 2 => unfold t); (on_goal 1 => (clear_value t; intro _)))
    | ((fail_if_no_progress extract_lets +onlyGivenNames t); subst t)
    | dsimp -zeta only
    | with_reducible apply Keeps.ite
    | with_reducible apply State.setB_keeps
    | with_reducible apply State.setF_keeps
    | with_reducible apply State.showAi_keeps
    | split
    | fail_if_no_progress (with_reducible refine Keeps.upd ?_ rfl rfl rfl rfl rfl rfl)

/-- State.loopSet keeps what every operation keeps. -/
theorem State.loopSet_keeps {a s : State} {x1} (h : Keeps a s) : Keeps a (State.loopSet s x1) := by
  unfold State.loopSet
  repeat' first
    | with_reducible assumption
    | ((fail_if_no_progress extract_lets +onlyGivenNames t); refine (?_ : Keeps a t → _) ?_; (on_goal 2 => unfold t); (on_goal 1 => (clear_value t; intro _)))
    | ((fail_if_no_progress extract_lets +onlyGivenNames t); subst t)
    | dsimp -zeta only
    | with_reducible apply Keeps.ite
    | with_reducible apply State.setF_keeps
    | split
    | fail_if_no_progress (with_reducible refine Keeps.upd ?_ rfl rfl rfl rfl rfl rfl)

/-- State.modAo keeps what every operation keeps. -/
theorem State.modAo_keeps {a s : State} {x1 x2} (h : Keeps a s) : Keeps a (State.modAo s x1 x2) := by
  unfold State.modAo
  repeat' first
    | with_reducible assumption
    | ((fail_if_no_progress extract_lets +onlyGivenNames t); refine (?_ : Keeps a t → _) ?_; (on_goal 2 => unfold t); (on_goal 1 => (clear_value t; intro _)))
    | ((fail_if_no_progress extract_lets +onlyGivenNames t); subst t)
    | dsimp -zeta only
    | fail_if_no_progress (with_reducible refine Keeps.upd ?_ rfl rfl rfl rfl rfl rfl)

/-- State.aoDrive keeps what every operation keeps. -/
theorem State.aoDrive_keeps {a s : State} {x1 x2} (h : Keeps a s) : Keeps a (State.aoDrive s x1 x2) := by
  unfold State.aoDrive
  repeat' first
    | with_reducible assumption
    | ((fail_if_no_progress extract_lets +onlyGivenNames t); refine (?_ : Keeps a t → _) ?_; (on_goal 2 => unfold t); (on_goal 1 => (clear_value t; intro _)))
    | ((fail_if_no_progress extract_lets +onlyGivenNames t); subst t)
    | dsimp -zeta only
    | with_reducible apply Keeps.ite
    | with_reducible apply State.modAo_keeps
    | split

/-- State.aoTarget keeps what every operation keeps. -/
theorem State.aoTarget_keeps {a s : State} {x1} (h : Keeps a s) : Keeps a (State.aoTarget s x1) := by
  unfold State.aoTarget
  repeat' first
    | with_reducible assumption
    | ((fail_if_no_progress extract_lets +onlyGivenNames t); refine (?_ : Keeps a t → _) ?_; (on_goal 2 => unfold t); (on_goal 1 => (clear_value t; intro _)))
    | ((fail_if_no_progress extract_lets +onlyGivenNames t); refine (?_ : Keeps2 a t → _) ?_; (on_goal 2 => unfold t); (on_goal 1 => (clear_value t; intro _)))
    | ((fail_if_no_progress extract_lets +onlyGivenNames t); subst t)
    | dsimp -zeta only
    | with_reducible apply Keeps.ite
    | with_reducible apply State.aoDrive_keeps
    | with_reducible apply State.free_keeps
    | with_reducible refine Keeps2.out (State.free_keeps ?_)
    | with_reducible exact Keeps2.out ‹_›
    | with_reducible apply Keeps2.mk
    | with_reducible apply Keeps2.ite
    | split
    | with_reducible refine Keeps.of2 ‹_› ?_

/-- State.aoCommit keeps what every operation keeps. -/
theorem State.aoCommit_keeps {a s : State} {x1 x2} (h : Keeps a s) : Keeps a (State.aoCommit s x1 x2) := by
  unfold State.aoCommit
  repeat' first
    | with_reducible assumption
    | ((fail_if_no_progress extract_lets +onlyGivenNames t); refine (?_ : Keeps a t → _) ?_; (on_goal 2 => unfold t); (on_goal 1 => (clear_value t; intro _)))
    | ((fail_if_no_progress extract_lets +onlyGivenNames t); subst t)
    | dsimp -zeta only
    | with_reducible apply Keeps.ite
    | with_reducible apply State.aoTarget_keeps
    | with_reducible apply State.modAo_keeps
    | split

/-- State.readbackShow keeps what every operation keeps. -/
theorem State.readbackShow_keeps {a s : State} {x1 x2} (h : Keeps a s) : Keeps a (State.readbackShow s x1 x2) := by
  unfold State.readbackShow
  repeat' first
    | with_reducible assumption
    | ((fail_if_no_progress extract_lets +onlyGivenNames t); refine (?_ : Keeps a t → _) ?_; (on_goal 2 => unfold t); (on_goal 1 => (clear_value t; intro _)))
    | ((fail_if_no_progress extract_lets +onlyGivenNames t); subst t)
    | dsimp -zeta only
    | with_reducible apply Keeps.ite
    | with_reducible apply State.modAo_keeps
    | with_reducible apply State.setF_keeps
    | with_reducible apply State.aoTarget_keeps
    | with_reducible apply State.evHw_keeps
    | split

/-- State.readback keeps what every operation keeps. -/
theorem State.readback_keeps {a s : State} {x1 x2} (h : Keeps a s) : Keeps a (State.readback s x1 x2) := State.readbackShow_keeps h

/-- State.readbackAll keeps what every operation keeps. -/
theorem State.readbackAll_keeps {a s : State} {x1 x2} (h : Keeps a s) : Keeps a (State.readbackAll s x1 x2) := by
  induction x2 generalizing s x1 with
  | nil => unfold State.readbackAll; exact h
  | cons x l ih =>
    unfold State.readbackAll
    exact Keeps.ite (ih (State.readback_keeps h)) h

/-- State.aoAll keeps what every operation keeps. -/
theorem State.aoAll_keeps {a s : State} (h : Keeps a s) : Keeps a (State.aoAll s) := by
  unfold State.aoAll
  repeat' first
    | with_reducible assumption
    | dsimp -zeta only
    | with_reducible apply State.aoTarget_keeps
    | with_reducible exact Keeps1.out ‹_›
    | with_reducible apply Keeps1.mk
    | with_reducible refine Keeps1.foldl ?_ (fun _ _ _ => ?_)
    | with_reducible refine Keeps1.out ?_
    | with_reducible exact Keeps2.out ‹_›
    | with_reducible apply Keeps2.mk
    | with_reducible refine Keeps2.foldl ?_ (fun _ _ _ => ?_)
    | with_reducible refine Keeps2.out ?_
    | with_reducible refine Keeps.foldl ?_ (fun _ _ _ => ?_)

/-- State.kerbDrive keeps what every operation keeps. -/
theorem State.kerbDrive_keeps {a s : State} {x1} (h : Keeps a s) : Keeps a (State.kerbDrive s x1) := by
  unfold State.kerbDrive
  repeat' first
    | with_reducible assumption
    | ((fail_if_no_progress extract_lets +onlyGivenNames t); refine (?_ : Keeps a t → _) ?_; (on_goal 2 => unfold t); (on_goal 1 => (clear_value t; intro _)))
    | ((fail_if_no_progress extract_lets +onlyGivenNames t); subst t)
    | dsimp -zeta only
    | with_reducible apply State.aoAll_keeps
    | fail_if_no_progress (with_reducible refine Keeps.upd ?_ rfl rfl rfl rfl rfl rfl)

/-- State.outputsHold keeps what every operation keeps. -/
theorem State.outputsHold_keeps {a s : State} {x1} (h : Keeps a s) : Keeps a (State.outputsHold s x1) := by
  unfold State.outputsHold
  repeat' first
    | with_reducible assumption
    | ((fail_if_no_progress extract_lets +onlyGivenNames t); refine (?_ : Keeps a t → _) ?_; (on_goal 2 => unfold t); (on_goal 1 => (clear_value t; intro _)))
    | ((fail_if_no_progress extract_lets +onlyGivenNames t); subst t)
    | dsimp -zeta only
    | with_reducible apply State.aoAll_keeps
    | fail_if_no_progress (with_reducible refine Keeps.upd ?_ rfl rfl rfl rfl rfl rfl)

/-- State.adcTake keeps what every operation keeps. -/
theorem State.adcTake_keeps {a s : State} {x1 x2 x3} (h : Keeps a s) : Keeps a (State.adcTake s x1 x2 x3) := by
  unfold State.adcTake
  repeat' first
    | with_reducible assumption
    | ((fail_if_no_progress extract_lets +onlyGivenNames t); refine (?_ : Keeps a t → _) ?_; (on_goal 2 => unfold t); (on_goal 1 => (clear_value t; intro _)))
    | ((fail_if_no_progress extract_lets +onlyGivenNames t); subst t)
    | dsimp -zeta only
    | with_reducible apply Keeps.ite
    | with_reducible apply State.aiSample_keeps
    | split
    | fail_if_no_progress (with_reducible refine Keeps.upd ?_ rfl rfl rfl rfl rfl rfl)

/-- State.serveUrgent keeps what every operation keeps. -/
theorem State.serveUrgent_keeps {a s : State} {x1 x2 x3} (h : Keeps a s) : Keeps a (State.serveUrgent s x1 x2 x3) := by
  have stop : ∀ {s : State} (qs : List (Nat × Nat × Bool)), Keeps a s →
      Keeps a (({ s with io := { s.io with urgent := qs } } : State).setB ADC_STAT_URGPEND (!qs.isEmpty)) :=
    fun qs h => State.setB_keeps (Keeps.upd h rfl rfl rfl rfl rfl rfl)
  induction x2 generalizing s x3 with
  | nil => unfold State.serveUrgent; exact stop _ h
  | cons q qs ih =>
    cases x3 with
    | nil => unfold State.serveUrgent; exact stop _ h
    | cons c cs =>
      unfold State.serveUrgent
      have h1 := State.adcTake_keeps (x1 := q.1) (x2 := c.toNat) (x3 := x1) h
      refine ih ?_
      exact Keeps.ite (State.setF_keeps (State.setF_keeps h1)) h1

/-- State.serveAll keeps what every operation keeps. -/
theorem State.serveAll_keeps {a s : State} {x1 x2} (h : Keeps a s) : Keeps a (State.serveAll s x1 x2) := by
  unfold State.serveAll
  repeat' first
    | with_reducible assumption
    | dsimp -zeta only
    | with_reducible apply State.serveUrgent_keeps

/-- State.askUrgent keeps what every operation keeps. -/
theorem State.askUrgent_keeps {a s : State} {x1 x2 x3} (h : Keeps a s) : Keeps a (State.askUrgent s x1 x2 x3) := by
  unfold State.askUrgent
  repeat' first
    | with_reducible assumption
    | ((fail_if_no_progress extract_lets +onlyGivenNames t); refine (?_ : Keeps a t → _) ?_; (on_goal 2 => unfold t); (on_goal 1 => (clear_value t; intro _)))
    | ((fail_if_no_progress extract_lets +onlyGivenNames t); subst t)
    | dsimp -zeta only
    | with_reducible apply Keeps.ite
    | with_reducible apply State.setF_keeps
    | split
    | fail_if_no_progress (with_reducible refine Keeps.upd ?_ rfl rfl rfl rfl rfl rfl)

/-- State.roundEnd keeps what every operation keeps. -/
theorem State.roundEnd_keeps {a s : State} {x1} (h : Keeps a s) : Keeps a (State.roundEnd s x1) := by
  unfold State.roundEnd
  repeat' first
    | with_reducible assumption
    | ((fail_if_no_progress extract_lets +onlyGivenNames t); refine (?_ : Keeps a t → _) ?_; (on_goal 2 => unfold t); (on_goal 1 => (clear_value t; intro _)))
    | ((fail_if_no_progress extract_lets +onlyGivenNames t); refine (?_ : Keeps2 a t → _) ?_; (on_goal 2 => unfold t); (on_goal 1 => (clear_value t; intro _)))
    | ((fail_if_no_progress extract_lets +onlyGivenNames t); refine (?_ : Keeps1 a t → _) ?_; (on_goal 2 => unfold t); (on_goal 1 => (clear_value t; intro _)))
    | ((fail_if_no_progress extract_lets +onlyGivenNames t); subst t)
    | dsimp -zeta only
    | with_reducible apply State.setF_keeps
    | with_reducible apply State.applyDue_keeps
    | with_reducible apply State.loopSet_keeps
    | with_reducible exact Keeps1.out ‹_›
    | with_reducible apply Keeps1.mk
    | with_reducible refine Keeps1.foldl ?_ (fun _ _ _ => ?_)
    | with_reducible refine Keeps1.out ?_
    | with_reducible exact Keeps2.out ‹_›
    | with_reducible apply Keeps2.mk
    | with_reducible refine Keeps2.foldl ?_ (fun _ _ _ => ?_)
    | with_reducible refine Keeps2.out ?_
    | with_reducible refine Keeps.foldl ?_ (fun _ _ _ => ?_)
    | fail_if_no_progress (with_reducible refine Keeps.upd ?_ rfl rfl rfl rfl rfl rfl)

/-- State.entryDone keeps what every operation keeps. -/
theorem State.entryDone_keeps {a s : State} {x1 x2} (h : Keeps a s) : Keeps a (State.entryDone s x1 x2) := by
  unfold State.entryDone
  repeat' first
    | with_reducible assumption
    | ((fail_if_no_progress extract_lets +onlyGivenNames t); refine (?_ : Keeps a t → _) ?_; (on_goal 2 => unfold t); (on_goal 1 => (clear_value t; intro _)))
    | ((fail_if_no_progress extract_lets +onlyGivenNames t); subst t)
    | dsimp -zeta only
    | with_reducible apply Keeps.ite
    | with_reducible apply State.adcTake_keeps
    | with_reducible apply State.roundEnd_keeps
    | with_reducible apply State.setF_keeps
    | split
    | fail_if_no_progress (with_reducible refine Keeps.upd ?_ rfl rfl rfl rfl rfl rfl)

/-- State.modHart keeps what every operation keeps. -/
theorem State.modHart_keeps {a s : State} {x1 x2} (h : Keeps a s) : Keeps a (State.modHart s x1 x2) := by
  unfold State.modHart
  repeat' first
    | with_reducible assumption
    | ((fail_if_no_progress extract_lets +onlyGivenNames t); refine (?_ : Keeps a t → _) ?_; (on_goal 2 => unfold t); (on_goal 1 => (clear_value t; intro _)))
    | ((fail_if_no_progress extract_lets +onlyGivenNames t); subst t)
    | dsimp -zeta only
    | fail_if_no_progress (with_reducible refine Keeps.upd ?_ rfl rfl rfl rfl rfl rfl)

/-- State.hartMiss keeps what every operation keeps. -/
theorem State.hartMiss_keeps {a s : State} {x1} (h : Keeps a s) : Keeps a (State.hartMiss s x1) := by
  unfold State.hartMiss
  repeat' first
    | with_reducible assumption
    | ((fail_if_no_progress extract_lets +onlyGivenNames t); refine (?_ : Keeps a t → _) ?_; (on_goal 2 => unfold t); (on_goal 1 => (clear_value t; intro _)))
    | ((fail_if_no_progress extract_lets +onlyGivenNames t); subst t)
    | dsimp -zeta only
    | with_reducible apply State.modHart_keeps
    | with_reducible apply State.setF_keeps
    | with_reducible apply State.bump_keeps

/-- State.hartTake keeps what every operation keeps. -/
theorem State.hartTake_keeps {a s : State} {x1 x2} (h : Keeps a s) : Keeps a (State.hartTake s x1 x2) := by
  unfold State.hartTake
  repeat' first
    | with_reducible assumption
    | ((fail_if_no_progress extract_lets +onlyGivenNames t); refine (?_ : Keeps a t → _) ?_; (on_goal 2 => unfold t); (on_goal 1 => (clear_value t; intro _)))
    | ((fail_if_no_progress extract_lets +onlyGivenNames t); subst t)
    | dsimp -zeta only
    | with_reducible apply State.modHart_keeps
    | with_reducible apply State.setF_keeps

/-! ### Machine/Operands.lean -/

/-- Where a part of an instruction leaves the machine. -/
def XR.at {α : Type} : XR α → State
  | .ok _ m => m.s
  | .xcp _ m => m.s

/-- What a part of an instruction keeps, whether it ends or raises an exception. -/
def XKeeps {α : Type} (a : State) (x : XR α) : Prop := Keeps a x.at

/-- What an instruction keeps wherever it begins. -/
def SKeeps (a : State) (sem : Cx → Mx → XR After) : Prop := ∀ c m, Keeps a m.s → XKeeps a (sem c m)

/-- A part that ends. -/
theorem XKeeps.ok {α : Type} {a : State} {x : α} {m : Mx} (h : Keeps a m.s) : XKeeps a (.ok x m) := h
/-- A part that raises an exception. -/
theorem XKeeps.xcp {α : Type} {a : State} {x : Xcp} {m : Mx} (h : Keeps a m.s) : XKeeps a (.xcp x m : XR α) := h
/-- One part after another. -/
theorem XKeeps.bind {α β : Type} {a : State} {x : XR α} {f : α → Mx → XR β} (h : XKeeps a x)
    (k : ∀ v m, Keeps a m.s → XKeeps a (f v m)) : XKeeps a (x.bind f) := by
  cases x with
  | ok v m => exact k v m h
  | xcp e m => exact h
/-- Raising an exception. -/
theorem raise_keeps {α : Type} {a : State} {m : Mx} {x1 x2 x3} (h : Keeps a m.s) : XKeeps a (raise m x1 x2 x3 : XR α) := h
/-- An instruction, run. -/
theorem SKeeps.run {a : State} {sem : Cx → Mx → XR After} {c : Cx} {m : Mx} (hs : SKeeps a sem) (h : Keeps a m.s) : XKeeps a (sem c m) := hs c m h
/-- Either branch. -/
theorem XKeeps.ite {α : Type} {a : State} {x y : XR α} {c : Prop} [Decidable c] (hx : XKeeps a x) (hy : XKeeps a y) :
    XKeeps a (if c then x else y) := by
  split <;> assumption

/-- Mx.setSt keeps what every operation keeps. -/
theorem Mx.setSt_keeps {a : State} {m : Mx} {x1} (h : Keeps a m.s) : Keeps a (Mx.setSt m x1).s := by
  unfold Mx.setSt
  repeat' first
    | with_reducible assumption
    | ((fail_if_no_progress extract_lets +onlyGivenNames t); refine (?_ : Keeps a t → _) ?_; (on_goal 2 => unfold t); (on_goal 1 => (clear_value t; intro _)))
    | ((fail_if_no_progress extract_lets +onlyGivenNames t); subst t)
    | dsimp -zeta only

/-- Mx.setWa keeps what every operation keeps. -/
theorem Mx.setWa_keeps {a : State} {m : Mx} {x1} (h : Keeps a m.s) : Keeps a (Mx.setWa m x1).s := by
  unfold Mx.setWa
  repeat' first
    | with_reducible assumption
    | ((fail_if_no_progress extract_lets +onlyGivenNames t); refine (?_ : Keeps a t → _) ?_; (on_goal 2 => unfold t); (on_goal 1 => (clear_value t; intro _)))
    | ((fail_if_no_progress extract_lets +onlyGivenNames t); subst t)
    | dsimp -zeta only
    | with_reducible apply Mx.setSt_keeps

/-- Mx.setWb keeps what every operation keeps. -/
theorem Mx.setWb_keeps {a : State} {m : Mx} {x1} (h : Keeps a m.s) : Keeps a (Mx.setWb m x1).s := by
  unfold Mx.setWb
  repeat' first
    | with_reducible assumption
    | ((fail_if_no_progress extract_lets +onlyGivenNames t); refine (?_ : Keeps a t → _) ?_; (on_goal 2 => unfold t); (on_goal 1 => (clear_value t; intro _)))
    | ((fail_if_no_progress extract_lets +onlyGivenNames t); subst t)
    | dsimp -zeta only
    | with_reducible apply Mx.setSt_keeps

/-- Mx.setLa keeps what every operation keeps. -/
theorem Mx.setLa_keeps {a : State} {m : Mx} {x1} (h : Keeps a m.s) : Keeps a (Mx.setLa m x1).s := by
  unfold Mx.setLa
  repeat' first
    | with_reducible assumption
    | ((fail_if_no_progress extract_lets +onlyGivenNames t); refine (?_ : Keeps a t → _) ?_; (on_goal 2 => unfold t); (on_goal 1 => (clear_value t; intro _)))
    | ((fail_if_no_progress extract_lets +onlyGivenNames t); subst t)
    | dsimp -zeta only
    | with_reducible apply Mx.setSt_keeps

/-- The read set is kept in the run. -/
theorem Mx.record_s (c : Cx) (m : Mx) (p n : Nat) : (m.record c p n).s = m.s := by
  induction n generalizing m p with
  | zero => rfl
  | succ n ih => unfold Mx.record; rw [ih]; split <;> rfl

/-- Mx.record keeps what every operation keeps. -/
theorem Mx.record_keeps {a : State} {m : Mx} {x0 x2 x3} (h : Keeps a m.s) : Keeps a (Mx.record x0 m x2 x3).s := by
  rw [Mx.record_s]; exact h

/-- Mx.note keeps what every operation keeps. -/
theorem Mx.note_keeps {a : State} {m : Mx} {x0 x2 x3} (h : Keeps a m.s) : Keeps a (Mx.note x0 m x2 x3).s := by
  unfold Mx.note
  dsimp only
  split
  · split <;> exact Mx.record_keeps h
  · exact h

/-- State.latch keeps what every operation keeps. -/
theorem State.latch_keeps {a s : State} {x1} (h : Keeps a s) : Keeps a (State.latch s x1) := by
  unfold State.latch
  repeat' first
    | with_reducible assumption
    | dsimp -zeta only
    | with_reducible apply State.latchRefusal_keeps
    | with_reducible apply State.latchWalk_keeps
    | split

/-- Mx.latch keeps what every operation keeps. -/
theorem Mx.latch_keeps {a : State} {m : Mx} {x0 x2} (h : Keeps a m.s) : Keeps a (Mx.latch x0 m x2).s := by
  unfold Mx.latch
  repeat' first
    | with_reducible assumption
    | ((fail_if_no_progress extract_lets +onlyGivenNames t); refine (?_ : Keeps a t → _) ?_; (on_goal 2 => unfold t); (on_goal 1 => (clear_value t; intro _)))
    | ((fail_if_no_progress extract_lets +onlyGivenNames t); subst t)
    | dsimp -zeta only
    | with_reducible apply Keeps.ite
    | with_reducible apply State.latch_keeps
    | split

/-- Mx.refuse keeps what every operation keeps. -/
theorem Mx.refuse_keeps {a : State} {m : Mx} {x0 x2 x3 x4} (h : Keeps a m.s) : XKeeps a (Mx.refuse x0 m x2 x3 x4) := by
  unfold Mx.refuse
  repeat' first
    | with_reducible assumption
    | dsimp -zeta only
    | with_reducible apply Mx.latch_keeps
    | with_reducible refine XKeeps.bind ?_ (fun _ _ _ => ?_)
    | with_reducible refine XKeeps.ok ?_
    | with_reducible refine XKeeps.xcp ?_
    | with_reducible refine raise_keeps ?_
    | with_reducible refine XKeeps.fin ?_
    | with_reducible exact Keeps2.out ‹_›
    | with_reducible apply Keeps2.mk
    | with_reducible refine Keeps.of2 ‹_› ?_

/-- Mx.check keeps what every operation keeps. -/
theorem Mx.check_keeps {a : State} {m : Mx} {x0 x2 x3 x4} (h : Keeps a m.s) : XKeeps a (Mx.check x0 m x2 x3 x4) := by
  unfold Mx.check
  repeat' first
    | with_reducible assumption
    | dsimp -zeta only
    | with_reducible apply Mx.refuse_keeps
    | with_reducible refine XKeeps.bind ?_ (fun _ _ _ => ?_)
    | with_reducible refine XKeeps.ok ?_
    | with_reducible refine XKeeps.xcp ?_
    | with_reducible refine raise_keeps ?_
    | with_reducible refine XKeeps.fin ?_
    | with_reducible exact Keeps2.out ‹_›
    | with_reducible apply Keeps2.mk
    | with_reducible refine Keeps.of2 ‹_› ?_
    | split

/-- Mx.meet keeps what every operation keeps. -/
theorem Mx.meet_keeps {a : State} {m : Mx} {x1 x2} (h : Keeps a m.s) : Keeps a (Mx.meet m x1 x2).s := by
  unfold Mx.meet
  repeat' first
    | with_reducible assumption
    | ((fail_if_no_progress extract_lets +onlyGivenNames t); refine (?_ : Keeps a t → _) ?_; (on_goal 2 => unfold t); (on_goal 1 => (clear_value t; intro _)))
    | ((fail_if_no_progress extract_lets +onlyGivenNames t); subst t)
    | dsimp -zeta only
    | with_reducible apply State.meet_keeps

/-- Mx.load keeps what every operation keeps. -/
theorem Mx.load_keeps {a : State} {m : Mx} {x0 x2 x3} (h : Keeps a m.s) : XKeeps a (Mx.load x0 m x2 x3) := by
  unfold Mx.load
  repeat' first
    | with_reducible assumption
    | ((fail_if_no_progress extract_lets +onlyGivenNames t); refine (?_ : Keeps a t → _) ?_; (on_goal 2 => unfold t); (on_goal 1 => (clear_value t; intro _)))
    | ((fail_if_no_progress extract_lets +onlyGivenNames t); refine (?_ : Keeps2 a t → _) ?_; (on_goal 2 => unfold t); (on_goal 1 => (clear_value t; intro _)))
    | ((fail_if_no_progress extract_lets +onlyGivenNames t); subst t)
    | dsimp -zeta only
    | with_reducible apply Keeps.ite
    | with_reducible apply Mx.meet_keeps
    | with_reducible apply State.latchEcc_keeps
    | with_reducible apply State.bump_keeps
    | with_reducible apply Mx.note_keeps
    | with_reducible refine XKeeps.bind ?_ (fun _ _ _ => ?_)
    | with_reducible refine XKeeps.ok ?_
    | with_reducible refine XKeeps.xcp ?_
    | with_reducible refine raise_keeps ?_
    | with_reducible refine XKeeps.fin ?_
    | with_reducible exact Keeps2.out ‹_›
    | with_reducible apply Keeps2.mk
    | with_reducible refine Keeps.of2 ‹_› ?_
    | split

/-- Mx.store keeps what every operation keeps. -/
theorem Mx.store_keeps {a : State} {m : Mx} {x0 x2 x3} (h : Keeps a m.s) : Keeps a (Mx.store x0 m x2 x3).s := by
  unfold Mx.store
  repeat' first
    | with_reducible assumption
    | ((fail_if_no_progress extract_lets +onlyGivenNames t); refine (?_ : Keeps a t → _) ?_; (on_goal 2 => unfold t); (on_goal 1 => (clear_value t; intro _)))
    | ((fail_if_no_progress extract_lets +onlyGivenNames t); subst t)
    | dsimp -zeta only
    | with_reducible apply Keeps.ite
    | with_reducible apply Mx.setSt_keeps
    | with_reducible apply State.bump_keeps
    | with_reducible apply State.setF_keeps
    | split

/-- Mx.tagEntry keeps what every operation keeps. -/
theorem Mx.tagEntry_keeps {a : State} {m : Mx} {x0 x2} (h : Keeps a m.s) : XKeeps a (Mx.tagEntry x0 m x2) := by
  unfold Mx.tagEntry
  repeat' first
    | with_reducible assumption
    | ((fail_if_no_progress extract_lets +onlyGivenNames t); refine (?_ : Keeps a t → _) ?_; (on_goal 2 => unfold t); (on_goal 1 => (clear_value t; intro _)))
    | ((fail_if_no_progress extract_lets +onlyGivenNames t); refine (?_ : Keeps2 a t → _) ?_; (on_goal 2 => unfold t); (on_goal 1 => (clear_value t; intro _)))
    | ((fail_if_no_progress extract_lets +onlyGivenNames t); subst t)
    | dsimp -zeta only
    | with_reducible apply Keeps.ite
    | with_reducible apply raise_keeps
    | with_reducible apply State.translate_keeps
    | with_reducible refine Keeps2.out (State.translate_keeps ?_)
    | with_reducible apply Mx.latch_keeps
    | with_reducible exact Keeps2.out ‹_›
    | with_reducible apply Keeps2.mk
    | with_reducible apply Keeps2.ite
    | with_reducible refine XKeeps.bind ?_ (fun _ _ _ => ?_)
    | with_reducible refine XKeeps.ok ?_
    | with_reducible refine XKeeps.xcp ?_
    | with_reducible refine raise_keeps ?_
    | with_reducible refine XKeeps.fin ?_
    | with_reducible exact Keeps2.out ‹_›
    | with_reducible apply Keeps2.mk
    | with_reducible refine Keeps.of2 ‹_› ?_
    | split
    | with_reducible refine Keeps.of2 ‹_› ?_

/-- Mx.address keeps what every operation keeps. -/
theorem Mx.address_keeps {a : State} {m : Mx} {x0 x2 x3} (h : Keeps a m.s) : XKeeps a (Mx.address x0 m x2 x3) := by
  unfold Mx.address
  repeat' first
    | with_reducible assumption
    | ((fail_if_no_progress extract_lets +onlyGivenNames t); refine (?_ : Keeps a t → _) ?_; (on_goal 2 => unfold t); (on_goal 1 => (clear_value t; intro _)))
    | ((fail_if_no_progress extract_lets +onlyGivenNames t); refine (?_ : Keeps2 a t → _) ?_; (on_goal 2 => unfold t); (on_goal 1 => (clear_value t; intro _)))
    | ((fail_if_no_progress extract_lets +onlyGivenNames t); subst t)
    | dsimp -zeta only
    | with_reducible apply Keeps.ite
    | with_reducible apply Mx.tagEntry_keeps
    | with_reducible apply raise_keeps
    | with_reducible refine XKeeps.bind ?_ (fun _ _ _ => ?_)
    | with_reducible refine XKeeps.ok ?_
    | with_reducible refine XKeeps.xcp ?_
    | with_reducible refine raise_keeps ?_
    | with_reducible refine XKeeps.fin ?_
    | with_reducible exact Keeps2.out ‹_›
    | with_reducible apply Keeps2.mk
    | with_reducible refine Keeps.of2 ‹_› ?_
    | split

/-- Mx.operand keeps what every operation keeps. -/
theorem Mx.operand_keeps {a : State} {m : Mx} {x0 x2 x3 x4 x5} (h : Keeps a m.s) : XKeeps a (Mx.operand x0 m x2 x3 x4 x5) := by
  unfold Mx.operand
  repeat' first
    | with_reducible assumption
    | ((fail_if_no_progress extract_lets +onlyGivenNames t); refine (?_ : Keeps a t → _) ?_; (on_goal 2 => unfold t); (on_goal 1 => (clear_value t; intro _)))
    | ((fail_if_no_progress extract_lets +onlyGivenNames t); refine (?_ : Keeps2 a t → _) ?_; (on_goal 2 => unfold t); (on_goal 1 => (clear_value t; intro _)))
    | ((fail_if_no_progress extract_lets +onlyGivenNames t); subst t)
    | dsimp -zeta only
    | with_reducible apply Keeps.ite
    | with_reducible apply raise_keeps
    | with_reducible apply Mx.address_keeps
    | with_reducible apply Mx.check_keeps
    | with_reducible refine XKeeps.bind ?_ (fun _ _ _ => ?_)
    | with_reducible refine XKeeps.ok ?_
    | with_reducible refine XKeeps.xcp ?_
    | with_reducible refine raise_keeps ?_
    | with_reducible refine XKeeps.fin ?_
    | with_reducible exact Keeps2.out ‹_›
    | with_reducible apply Keeps2.mk
    | with_reducible refine Keeps.of2 ‹_› ?_
    | split

/-- Mx.fetch keeps what every operation keeps. -/
theorem Mx.fetch_keeps {a : State} {m : Mx} {x0 x2 x3 x4} (h : Keeps a m.s) : XKeeps a (Mx.fetch x0 m x2 x3 x4) := by
  unfold Mx.fetch
  repeat' first
    | with_reducible assumption
    | dsimp -zeta only
    | with_reducible apply Mx.load_keeps
    | with_reducible refine XKeeps.bind ?_ (fun _ _ _ => ?_)
    | with_reducible refine XKeeps.ok ?_
    | with_reducible refine XKeeps.xcp ?_
    | with_reducible refine raise_keeps ?_
    | with_reducible refine XKeeps.fin ?_
    | with_reducible exact Keeps2.out ‹_›
    | with_reducible apply Keeps2.mk
    | with_reducible refine Keeps.of2 ‹_› ?_
    | split

/-- Mx.put keeps what every operation keeps. -/
theorem Mx.put_keeps {a : State} {m : Mx} {x0 x2 x3 x4} (h : Keeps a m.s) : Keeps a (Mx.put x0 m x2 x3 x4).s := by
  unfold Mx.put
  repeat' first
    | with_reducible assumption
    | ((fail_if_no_progress extract_lets +onlyGivenNames t); refine (?_ : Keeps a t → _) ?_; (on_goal 2 => unfold t); (on_goal 1 => (clear_value t; intro _)))
    | ((fail_if_no_progress extract_lets +onlyGivenNames t); subst t)
    | dsimp -zeta only
    | with_reducible apply Mx.store_keeps
    | with_reducible apply Mx.setSt_keeps
    | split

/-- Mx.source keeps what every operation keeps. -/
theorem Mx.source_keeps {a : State} {m : Mx} {x0} (h : Keeps a m.s) : XKeeps a (Mx.source x0 m) := by
  unfold Mx.source
  repeat' first
    | with_reducible assumption
    | ((fail_if_no_progress extract_lets +onlyGivenNames t); refine (?_ : Keeps a t → _) ?_; (on_goal 2 => unfold t); (on_goal 1 => (clear_value t; intro _)))
    | ((fail_if_no_progress extract_lets +onlyGivenNames t); refine (?_ : Keeps2 a t → _) ?_; (on_goal 2 => unfold t); (on_goal 1 => (clear_value t; intro _)))
    | ((fail_if_no_progress extract_lets +onlyGivenNames t); subst t)
    | dsimp -zeta only
    | with_reducible apply Mx.operand_keeps
    | with_reducible apply Mx.fetch_keeps
    | with_reducible refine XKeeps.bind ?_ (fun _ _ _ => ?_)
    | with_reducible refine XKeeps.ok ?_
    | with_reducible refine XKeeps.xcp ?_
    | with_reducible refine raise_keeps ?_
    | with_reducible refine XKeeps.fin ?_
    | with_reducible exact Keeps2.out ‹_›
    | with_reducible apply Keeps2.mk
    | with_reducible refine Keeps.of2 ‹_› ?_

/-- Mx.storeVal keeps what every operation keeps. -/
theorem Mx.storeVal_keeps {a : State} {m : Mx} {x0 x2} (h : Keeps a m.s) : XKeeps a (Mx.storeVal x0 m x2) := by
  unfold Mx.storeVal
  repeat' first
    | with_reducible assumption
    | ((fail_if_no_progress extract_lets +onlyGivenNames t); refine (?_ : Keeps a t → _) ?_; (on_goal 2 => unfold t); (on_goal 1 => (clear_value t; intro _)))
    | ((fail_if_no_progress extract_lets +onlyGivenNames t); refine (?_ : Keeps2 a t → _) ?_; (on_goal 2 => unfold t); (on_goal 1 => (clear_value t; intro _)))
    | ((fail_if_no_progress extract_lets +onlyGivenNames t); subst t)
    | dsimp -zeta only
    | with_reducible apply Mx.operand_keeps
    | with_reducible apply Mx.setSt_keeps
    | with_reducible apply Mx.put_keeps
    | with_reducible refine XKeeps.bind ?_ (fun _ _ _ => ?_)
    | with_reducible refine XKeeps.ok ?_
    | with_reducible refine XKeeps.xcp ?_
    | with_reducible refine raise_keeps ?_
    | with_reducible refine XKeeps.fin ?_
    | with_reducible exact Keeps2.out ‹_›
    | with_reducible apply Keeps2.mk
    | with_reducible refine Keeps.of2 ‹_› ?_
    | split

/-! ### Machine/HostOps.lean -/

/-- State.modSess keeps what every operation keeps. -/
theorem State.modSess_keeps {a s : State} {x1 x2} (h : Keeps a s) : Keeps a (State.modSess s x1 x2) := by
  unfold State.modSess
  repeat' first
    | with_reducible assumption
    | ((fail_if_no_progress extract_lets +onlyGivenNames t); refine (?_ : Keeps a t → _) ?_; (on_goal 2 => unfold t); (on_goal 1 => (clear_value t; intro _)))
    | ((fail_if_no_progress extract_lets +onlyGivenNames t); subst t)
    | dsimp -zeta only
    | split
    | fail_if_no_progress (with_reducible refine Keeps.upd ?_ rfl rfl rfl rfl rfl rfl)

/-- State.modQp keeps what every operation keeps. -/
theorem State.modQp_keeps {a s : State} {x1 x2 x3} (h : Keeps a s) : Keeps a (State.modQp s x1 x2 x3) := by
  unfold State.modQp
  repeat' first
    | with_reducible assumption
    | ((fail_if_no_progress extract_lets +onlyGivenNames t); refine (?_ : Keeps a t → _) ?_; (on_goal 2 => unfold t); (on_goal 1 => (clear_value t; intro _)))
    | ((fail_if_no_progress extract_lets +onlyGivenNames t); subst t)
    | dsimp -zeta only
    | with_reducible apply State.modSess_keeps
    | split

/-- State.hqeStat keeps what every operation keeps. -/
theorem State.hqeStat_keeps {a s : State} (h : Keeps a s) : Keeps a (State.hqeStat s) := by
  unfold State.hqeStat
  repeat' first
    | with_reducible assumption
    | dsimp -zeta only
    | with_reducible apply State.setF_keeps
    | with_reducible exact Keeps1.out ‹_›
    | with_reducible apply Keeps1.mk
    | with_reducible refine Keeps1.foldl ?_ (fun _ _ _ => ?_)
    | with_reducible refine Keeps1.out ?_
    | with_reducible exact Keeps2.out ‹_›
    | with_reducible apply Keeps2.mk
    | with_reducible refine Keeps2.foldl ?_ (fun _ _ _ => ?_)
    | with_reducible refine Keeps2.out ?_
    | with_reducible refine Keeps.foldl ?_ (fun _ _ _ => ?_)

/-- State.setAck keeps what every operation keeps. -/
theorem State.setAck_keeps {a s : State} {x1} (h : Keeps a s) : Keeps a (State.setAck s x1) := by
  unfold State.setAck
  repeat' first
    | with_reducible assumption
    | dsimp -zeta only
    | with_reducible apply State.set64_keeps

/-- State.putCompl keeps what every operation keeps. -/
theorem State.putCompl_keeps {a s : State} {x1 x2 x3} (h : Keeps a s) : Keeps a (State.putCompl s x1 x2 x3) := by
  unfold State.putCompl
  repeat' first
    | with_reducible assumption
    | ((fail_if_no_progress extract_lets +onlyGivenNames t); refine (?_ : Keeps a t → _) ?_; (on_goal 2 => unfold t); (on_goal 1 => (clear_value t; intro _)))
    | ((fail_if_no_progress extract_lets +onlyGivenNames t); subst t)
    | dsimp -zeta only
    | with_reducible apply State.modQp_keeps

/-- State.complete keeps what every operation keeps. -/
theorem State.complete_keeps {a s : State} {x1 x2 x3 x4 x5 x6 x7 x8} (h : Keeps a s) : Keeps a (State.complete s x1 x2 x3 x4 x5 x6 x7 x8) := by
  unfold State.complete
  repeat' first
    | with_reducible assumption
    | ((fail_if_no_progress extract_lets +onlyGivenNames t); refine (?_ : Keeps a t → _) ?_; (on_goal 2 => unfold t); (on_goal 1 => (clear_value t; intro _)))
    | ((fail_if_no_progress extract_lets +onlyGivenNames t); subst t)
    | dsimp -zeta only
    | with_reducible apply Keeps.ite
    | with_reducible apply State.modQp_keeps
    | with_reducible apply State.putCompl_keeps
    | split

/-- State.completeDups keeps what every operation keeps. -/
theorem State.completeDups_keeps {a s : State} {x1 x2 x3 x4 x5} (h : Keeps a s) : Keeps a (State.completeDups s x1 x2 x3 x4 x5) := by
  unfold State.completeDups
  repeat' first
    | with_reducible assumption
    | ((fail_if_no_progress extract_lets +onlyGivenNames t); refine (?_ : Keeps a t → _) ?_; (on_goal 2 => unfold t); (on_goal 1 => (clear_value t; intro _)))
    | ((fail_if_no_progress extract_lets +onlyGivenNames t); refine (?_ : Keeps2 a t → _) ?_; (on_goal 2 => unfold t); (on_goal 1 => (clear_value t; intro _)))
    | ((fail_if_no_progress extract_lets +onlyGivenNames t); refine (?_ : Keeps1 a t → _) ?_; (on_goal 2 => unfold t); (on_goal 1 => (clear_value t; intro _)))
    | ((fail_if_no_progress extract_lets +onlyGivenNames t); subst t)
    | dsimp -zeta only
    | with_reducible apply Keeps.ite
    | with_reducible apply State.complete_keeps
    | with_reducible exact Keeps1.out ‹_›
    | with_reducible apply Keeps1.mk
    | with_reducible apply Keeps1.ite
    | with_reducible refine Keeps1.foldl ?_ (fun _ _ _ => ?_)
    | with_reducible refine Keeps1.out ?_
    | with_reducible exact Keeps2.out ‹_›
    | with_reducible apply Keeps2.mk
    | with_reducible apply Keeps2.ite
    | with_reducible refine Keeps2.foldl ?_ (fun _ _ _ => ?_)
    | with_reducible refine Keeps2.out ?_
    | with_reducible refine Keeps.foldl ?_ (fun _ _ _ => ?_)
    | split
    | fail_if_no_progress (with_reducible refine Keeps.upd ?_ rfl rfl rfl rfl rfl rfl)

/-- State.completeB keeps what every operation keeps. -/
theorem State.completeB_keeps {a s : State} {x1 x2 x3} (h : Keeps a s) : Keeps a (State.completeB s x1 x2 x3) := by
  unfold State.completeB
  repeat' first
    | with_reducible assumption
    | ((fail_if_no_progress extract_lets +onlyGivenNames t); refine (?_ : Keeps a t → _) ?_; (on_goal 2 => unfold t); (on_goal 1 => (clear_value t; intro _)))
    | ((fail_if_no_progress extract_lets +onlyGivenNames t); subst t)
    | dsimp -zeta only
    | with_reducible apply Keeps.ite
    | with_reducible apply State.completeDups_keeps
    | with_reducible apply State.modQp_keeps
    | with_reducible apply State.putCompl_keeps
    | split

/-- State.modLock keeps what every operation keeps. -/
theorem State.modLock_keeps {a s : State} {x1 x2} (h : Keeps a s) : Keeps a (State.modLock s x1 x2) := by
  unfold State.modLock
  repeat' first
    | with_reducible assumption
    | ((fail_if_no_progress extract_lets +onlyGivenNames t); refine (?_ : Keeps a t → _) ?_; (on_goal 2 => unfold t); (on_goal 1 => (clear_value t; intro _)))
    | ((fail_if_no_progress extract_lets +onlyGivenNames t); subst t)
    | dsimp -zeta only
    | with_reducible apply State.setF_keeps
    | fail_if_no_progress (with_reducible refine Keeps.upd ?_ rfl rfl rfl rfl rfl rfl)

/-- State.breakLock keeps what every operation keeps. -/
theorem State.breakLock_keeps {a s : State} {x1} (h : Keeps a s) : Keeps a (State.breakLock s x1) := by
  unfold State.breakLock
  repeat' first
    | with_reducible assumption
    | ((fail_if_no_progress extract_lets +onlyGivenNames t); refine (?_ : Keeps a t → _) ?_; (on_goal 2 => unfold t); (on_goal 1 => (clear_value t; intro _)))
    | ((fail_if_no_progress extract_lets +onlyGivenNames t); subst t)
    | dsimp -zeta only
    | with_reducible apply State.modLock_keeps
    | with_reducible apply State.report_keeps
    | with_reducible apply State.bump_keeps
    | split

/-- State.freeLock keeps what every operation keeps. -/
theorem State.freeLock_keeps {a s : State} {x1} (h : Keeps a s) : Keeps a (State.freeLock s x1) := by
  unfold State.freeLock
  repeat' first
    | with_reducible assumption
    | ((fail_if_no_progress extract_lets +onlyGivenNames t); refine (?_ : Keeps a t → _) ?_; (on_goal 2 => unfold t); (on_goal 1 => (clear_value t; intro _)))
    | ((fail_if_no_progress extract_lets +onlyGivenNames t); subst t)
    | dsimp -zeta only
    | with_reducible apply State.modLock_keeps

/-- State.breakAll keeps what every operation keeps. -/
theorem State.breakAll_keeps {a s : State} (h : Keeps a s) : Keeps a (State.breakAll s) := by
  unfold State.breakAll
  repeat' first
    | with_reducible assumption
    | dsimp -zeta only
    | with_reducible apply State.breakLock_keeps
    | with_reducible exact Keeps1.out ‹_›
    | with_reducible apply Keeps1.mk
    | with_reducible refine Keeps1.foldl ?_ (fun _ _ _ => ?_)
    | with_reducible refine Keeps1.out ?_
    | with_reducible exact Keeps2.out ‹_›
    | with_reducible apply Keeps2.mk
    | with_reducible refine Keeps2.foldl ?_ (fun _ _ _ => ?_)
    | with_reducible refine Keeps2.out ?_
    | with_reducible refine Keeps.foldl ?_ (fun _ _ _ => ?_)

/-- State.renew keeps what every operation keeps. -/
theorem State.renew_keeps {a s : State} {x1} (h : Keeps a s) : Keeps a (State.renew s x1) := by
  unfold State.renew
  repeat' first
    | with_reducible assumption
    | ((fail_if_no_progress extract_lets +onlyGivenNames t); refine (?_ : Keeps a t → _) ?_; (on_goal 2 => unfold t); (on_goal 1 => (clear_value t; intro _)))
    | ((fail_if_no_progress extract_lets +onlyGivenNames t); refine (?_ : Keeps2 a t → _) ?_; (on_goal 2 => unfold t); (on_goal 1 => (clear_value t; intro _)))
    | ((fail_if_no_progress extract_lets +onlyGivenNames t); refine (?_ : Keeps1 a t → _) ?_; (on_goal 2 => unfold t); (on_goal 1 => (clear_value t; intro _)))
    | ((fail_if_no_progress extract_lets +onlyGivenNames t); subst t)
    | dsimp -zeta only
    | with_reducible apply State.modLock_keeps
    | with_reducible exact Keeps1.out ‹_›
    | with_reducible apply Keeps1.mk
    | with_reducible refine Keeps1.foldl ?_ (fun _ _ _ => ?_)
    | with_reducible refine Keeps1.out ?_
    | with_reducible exact Keeps2.out ‹_›
    | with_reducible apply Keeps2.mk
    | with_reducible refine Keeps2.foldl ?_ (fun _ _ _ => ?_)
    | with_reducible refine Keeps2.out ?_
    | with_reducible refine Keeps.foldl ?_ (fun _ _ _ => ?_)

/-- State.closePath keeps what every operation keeps. -/
theorem State.closePath_keeps {a s : State} {x1} (h : Keeps a s) : Keeps a (State.closePath s x1) :=
  Keeps.updRegs h rfl (fun k => tabRising_sublist List.filter_sublist k) rfl rfl rfl rfl

/-- State.forgetQp keeps what every operation keeps. -/
theorem State.forgetQp_keeps {a s : State} {x1} (h : Keeps a s) : Keeps a (State.forgetQp s x1) := by
  unfold State.forgetQp
  repeat' first
    | with_reducible assumption
    | ((fail_if_no_progress extract_lets +onlyGivenNames t); refine (?_ : Keeps a t → _) ?_; (on_goal 2 => unfold t); (on_goal 1 => (clear_value t; intro _)))
    | ((fail_if_no_progress extract_lets +onlyGivenNames t); subst t)
    | dsimp -zeta only
    | with_reducible apply Keeps.ite
    | split
    | fail_if_no_progress (with_reducible refine Keeps.upd ?_ rfl rfl rfl rfl rfl rfl)

/-- State.endSession keeps what every operation keeps. -/
theorem State.endSession_keeps {a s : State} {x1} (h : Keeps a s) : Keeps a (State.endSession s x1) := by
  unfold State.endSession
  repeat' first
    | with_reducible assumption
    | ((fail_if_no_progress extract_lets +onlyGivenNames t); refine (?_ : Keeps a t → _) ?_; (on_goal 2 => unfold t); (on_goal 1 => (clear_value t; intro _)))
    | ((fail_if_no_progress extract_lets +onlyGivenNames t); refine (?_ : Keeps2 a t → _) ?_; (on_goal 2 => unfold t); (on_goal 1 => (clear_value t; intro _)))
    | ((fail_if_no_progress extract_lets +onlyGivenNames t); refine (?_ : Keeps1 a t → _) ?_; (on_goal 2 => unfold t); (on_goal 1 => (clear_value t; intro _)))
    | ((fail_if_no_progress extract_lets +onlyGivenNames t); subst t)
    | dsimp -zeta only
    | with_reducible apply State.breakLock_keeps
    | with_reducible apply State.forgetQp_keeps
    | with_reducible apply State.hqeStat_keeps
    | with_reducible apply State.closePath_keeps
    | with_reducible exact Keeps1.out ‹_›
    | with_reducible apply Keeps1.mk
    | with_reducible refine Keeps1.foldl ?_ (fun _ _ _ => ?_)
    | with_reducible refine Keeps1.out ?_
    | with_reducible exact Keeps2.out ‹_›
    | with_reducible apply Keeps2.mk
    | with_reducible refine Keeps2.foldl ?_ (fun _ _ _ => ?_)
    | with_reducible refine Keeps2.out ?_
    | with_reducible refine Keeps.foldl ?_ (fun _ _ _ => ?_)
    | split
    | fail_if_no_progress (with_reducible refine Keeps.upd ?_ rfl rfl rfl rfl rfl rfl)

/-- State.under keeps what every operation keeps. -/
theorem State.under_keeps {a s : State} {x1} (h : Keeps a s) : Keeps a (State.under s x1) := by
  unfold State.under
  repeat' first
    | with_reducible assumption
    | dsimp -zeta only
    | with_reducible apply State.setF_keeps

/-- State.hostEntry keeps what every operation keeps. -/
theorem State.hostEntry_keeps {a s : State} {x1} (h : Keeps a s) : Keeps2 a (State.hostEntry s x1) := by
  unfold State.hostEntry
  repeat' first
    | with_reducible assumption
    | dsimp -zeta only
    | with_reducible apply State.hostTranslate_keeps
    | with_reducible refine Keeps2.out (State.hostTranslate_keeps ?_)
    | with_reducible exact Keeps2.out ‹_›
    | with_reducible apply Keeps2.mk

/-- State.snapMeets keeps what every operation keeps. -/
theorem State.snapMeets_keeps {a s : State} {x1 x2 x3} (h : Keeps a s) : Keeps2 a (State.snapMeets s x1 x2 x3) := by
  unfold State.snapMeets
  repeat' first
    | with_reducible assumption
    | ((fail_if_no_progress extract_lets +onlyGivenNames t); refine (?_ : Keeps a t → _) ?_; (on_goal 2 => unfold t); (on_goal 1 => (clear_value t; intro _)))
    | ((fail_if_no_progress extract_lets +onlyGivenNames t); subst t)
    | dsimp -zeta only
    | with_reducible apply Keeps.ite
    | with_reducible apply State.meet_keeps
    | with_reducible exact Keeps2.out ‹_›
    | with_reducible apply Keeps2.mk
    | with_reducible apply Keeps2.ite
    | split

/-- State.readTag keeps what every operation keeps. -/
theorem State.readTag_keeps {a s : State} {x1 x2} (h : Keeps a s) : Keeps2 a (State.readTag s x1 x2) := by
  unfold State.readTag
  repeat' first
    | with_reducible assumption
    | ((fail_if_no_progress extract_lets +onlyGivenNames t); refine (?_ : Keeps a t → _) ?_; (on_goal 2 => unfold t); (on_goal 1 => (clear_value t; intro _)))
    | ((fail_if_no_progress extract_lets +onlyGivenNames t); refine (?_ : Keeps2 a t → _) ?_; (on_goal 2 => unfold t); (on_goal 1 => (clear_value t; intro _)))
    | ((fail_if_no_progress extract_lets +onlyGivenNames t); subst t)
    | dsimp -zeta only
    | with_reducible apply Keeps.ite
    | with_reducible apply State.hostEntry_keeps
    | with_reducible refine Keeps2.out (State.hostEntry_keeps ?_)
    | with_reducible apply State.latchRefusal_keeps
    | with_reducible apply State.snapMeets_keeps
    | with_reducible refine Keeps2.out (State.snapMeets_keeps ?_)
    | with_reducible exact Keeps2.out ‹_›
    | with_reducible apply Keeps2.mk
    | with_reducible apply Keeps2.ite
    | split
    | with_reducible refine Keeps.of2 ‹_› ?_

/-- State.readTags keeps what every operation keeps. -/
theorem State.readTags_keeps {a s : State} {x1 x2 x3} (h : Keeps a s) : Keeps2 a (State.readTags s x1 x2 x3) := by
  induction x3 generalizing s x2 with
  | nil => unfold State.readTags; exact Keeps2.mk h
  | cons t ts ih =>
    unfold State.readTags
    have h1 : Keeps2 a (s.readTag x1 t) := State.readTag_keeps h
    generalize s.readTag x1 t = p at h1
    rcases p with ⟨⟨bs, e⟩, s1⟩
    have h2 : Keeps2 a (State.readTags s1 x1 (x2 + 1) ts) := ih h1
    dsimp only
    generalize State.readTags s1 x1 (x2 + 1) ts = q at h2
    rcases q with ⟨⟨rest, e', i'⟩, s2⟩
    exact Keeps2.mk (Keeps2.out h2)

/-- State.serveRead keeps what every operation keeps. -/
theorem State.serveRead_keeps {a s : State} {x1 x2 x3 x4 x5} (h : Keeps a s) : Keeps a (State.serveRead s x1 x2 x3 x4 x5) := by
  unfold State.serveRead
  repeat' first
    | with_reducible assumption
    | ((fail_if_no_progress extract_lets +onlyGivenNames t); refine (?_ : Keeps a t → _) ?_; (on_goal 2 => unfold t); (on_goal 1 => (clear_value t; intro _)))
    | ((fail_if_no_progress extract_lets +onlyGivenNames t); refine (?_ : Keeps2 a t → _) ?_; (on_goal 2 => unfold t); (on_goal 1 => (clear_value t; intro _)))
    | ((fail_if_no_progress extract_lets +onlyGivenNames t); subst t)
    | dsimp -zeta only
    | with_reducible apply Keeps.ite
    | with_reducible apply State.complete_keeps
    | with_reducible apply State.under_keeps
    | with_reducible apply State.hostEntry_keeps
    | with_reducible refine Keeps2.out (State.hostEntry_keeps ?_)
    | with_reducible apply State.latchRefusal_keeps
    | with_reducible apply State.snapMeets_keeps
    | with_reducible refine Keeps2.out (State.snapMeets_keeps ?_)
    | with_reducible apply State.readTags_keeps
    | with_reducible refine Keeps2.out (State.readTags_keeps ?_)
    | with_reducible exact Keeps2.out ‹_›
    | with_reducible apply Keeps2.mk
    | with_reducible apply Keeps2.ite
    | split
    | with_reducible refine Keeps.of2 ‹_› ?_

/-- State.releaseQp keeps what every operation keeps. -/
theorem State.releaseQp_keeps {a s : State} {x1 x2 x3} (h : Keeps a s) : Keeps a (State.releaseQp s x1 x2 x3) := by
  unfold State.releaseQp
  repeat' first
    | with_reducible assumption
    | ((fail_if_no_progress extract_lets +onlyGivenNames t); refine (?_ : Keeps a t → _) ?_; (on_goal 2 => unfold t); (on_goal 1 => (clear_value t; intro _)))
    | ((fail_if_no_progress extract_lets +onlyGivenNames t); refine (?_ : Keeps2 a t → _) ?_; (on_goal 2 => unfold t); (on_goal 1 => (clear_value t; intro _)))
    | ((fail_if_no_progress extract_lets +onlyGivenNames t); refine (?_ : Keeps1 a t → _) ?_; (on_goal 2 => unfold t); (on_goal 1 => (clear_value t; intro _)))
    | ((fail_if_no_progress extract_lets +onlyGivenNames t); subst t)
    | dsimp -zeta only
    | with_reducible apply Keeps.ite
    | with_reducible apply State.serveRead_keeps
    | with_reducible apply State.modQp_keeps
    | with_reducible exact Keeps1.out ‹_›
    | with_reducible apply Keeps1.mk
    | with_reducible apply Keeps1.ite
    | with_reducible refine Keeps1.foldl ?_ (fun _ _ _ => ?_)
    | with_reducible refine Keeps1.out ?_
    | with_reducible exact Keeps2.out ‹_›
    | with_reducible apply Keeps2.mk
    | with_reducible apply Keeps2.ite
    | with_reducible refine Keeps2.foldl ?_ (fun _ _ _ => ?_)
    | with_reducible refine Keeps2.out ?_
    | with_reducible refine Keeps.foldl ?_ (fun _ _ _ => ?_)
    | split

/-- State.releaseReads keeps what every operation keeps. -/
theorem State.releaseReads_keeps {a s : State} (h : Keeps a s) : Keeps a (State.releaseReads s) := by
  unfold State.releaseReads
  repeat' first
    | with_reducible assumption
    | dsimp -zeta only
    | with_reducible apply State.releaseQp_keeps
    | with_reducible exact Keeps1.out ‹_›
    | with_reducible apply Keeps1.mk
    | with_reducible refine Keeps1.foldl ?_ (fun _ _ _ => ?_)
    | with_reducible refine Keeps1.out ?_
    | with_reducible exact Keeps2.out ‹_›
    | with_reducible apply Keeps2.mk
    | with_reducible refine Keeps2.foldl ?_ (fun _ _ _ => ?_)
    | with_reducible refine Keeps2.out ?_
    | with_reducible refine Keeps.foldl ?_ (fun _ _ _ => ?_)

/-- State.completeBatches keeps what every operation keeps. -/
theorem State.completeBatches_keeps {a s : State} (h : Keeps a s) : Keeps a (State.completeBatches s) := by
  unfold State.completeBatches
  repeat' first
    | with_reducible assumption
    | ((fail_if_no_progress extract_lets +onlyGivenNames t); refine (?_ : Keeps a t → _) ?_; (on_goal 2 => unfold t); (on_goal 1 => (clear_value t; intro _)))
    | ((fail_if_no_progress extract_lets +onlyGivenNames t); refine (?_ : Keeps2 a t → _) ?_; (on_goal 2 => unfold t); (on_goal 1 => (clear_value t; intro _)))
    | ((fail_if_no_progress extract_lets +onlyGivenNames t); refine (?_ : Keeps1 a t → _) ?_; (on_goal 2 => unfold t); (on_goal 1 => (clear_value t; intro _)))
    | ((fail_if_no_progress extract_lets +onlyGivenNames t); subst t)
    | dsimp -zeta only
    | with_reducible apply State.completeB_keeps
    | with_reducible apply State.completeDups_keeps
    | with_reducible exact Keeps1.out ‹_›
    | with_reducible apply Keeps1.mk
    | with_reducible refine Keeps1.foldl ?_ (fun _ _ _ => ?_)
    | with_reducible refine Keeps1.out ?_
    | with_reducible exact Keeps2.out ‹_›
    | with_reducible apply Keeps2.mk
    | with_reducible refine Keeps2.foldl ?_ (fun _ _ _ => ?_)
    | with_reducible refine Keeps2.out ?_
    | with_reducible refine Keeps.foldl ?_ (fun _ _ _ => ?_)
    | split
    | fail_if_no_progress (with_reducible refine Keeps.upd ?_ rfl rfl rfl rfl rfl rfl)

/-- State.identify keeps what every operation keeps. -/
theorem State.identify_keeps {a s : State} {x1 x2} (h : Keeps a s) : Keeps a (State.identify s x1 x2) := by
  unfold State.identify
  repeat' first
    | with_reducible assumption
    | ((fail_if_no_progress extract_lets +onlyGivenNames t); refine (?_ : Keeps a t → _) ?_; (on_goal 2 => unfold t); (on_goal 1 => (clear_value t; intro _)))
    | ((fail_if_no_progress extract_lets +onlyGivenNames t); subst t)
    | dsimp -zeta only
    | fail_if_no_progress (with_reducible refine Keeps.upd ?_ rfl rfl rfl rfl rfl rfl)

/-- State.deliver keeps what every operation keeps. -/
theorem State.deliver_keeps {a s : State} {x1 x2 x3 x4} (h : Keeps a s) : Keeps a (State.deliver s x1 x2 x3 x4) := by
  unfold State.deliver
  repeat' first
    | with_reducible assumption
    | ((fail_if_no_progress extract_lets +onlyGivenNames t); refine (?_ : Keeps a t → _) ?_; (on_goal 2 => unfold t); (on_goal 1 => (clear_value t; intro _)))
    | ((fail_if_no_progress extract_lets +onlyGivenNames t); subst t)
    | dsimp -zeta only
    | with_reducible apply Keeps.ite
    | with_reducible apply State.putCompl_keeps
    | split

/-- State.subCommit keeps what every operation keeps. -/
theorem State.subCommit_keeps {a s : State} {x1 x2 x3 x4} (h : Keeps a s) : Keeps a (State.subCommit s x1 x2 x3 x4) := by
  unfold State.subCommit
  repeat' first
    | with_reducible assumption
    | ((fail_if_no_progress extract_lets +onlyGivenNames t); refine (?_ : Keeps a t → _) ?_; (on_goal 2 => unfold t); (on_goal 1 => (clear_value t; intro _)))
    | ((fail_if_no_progress extract_lets +onlyGivenNames t); refine (?_ : Keeps2 a t → _) ?_; (on_goal 2 => unfold t); (on_goal 1 => (clear_value t; intro _)))
    | ((fail_if_no_progress extract_lets +onlyGivenNames t); subst t)
    | dsimp -zeta only
    | with_reducible apply Keeps.ite
    | with_reducible apply State.modSess_keeps
    | with_reducible apply State.readTags_keeps
    | with_reducible refine Keeps2.out (State.readTags_keeps ?_)
    | with_reducible exact Keeps2.out ‹_›
    | with_reducible apply Keeps2.mk
    | with_reducible apply Keeps2.ite
    | split
    | with_reducible refine Keeps.of2 ‹_› ?_

/-- State.pushSub keeps what every operation keeps. -/
theorem State.pushSub_keeps {a s : State} {x1 x2} (h : Keeps a s) : Keeps a (State.pushSub s x1 x2) := by
  unfold State.pushSub
  repeat' first
    | with_reducible assumption
    | ((fail_if_no_progress extract_lets +onlyGivenNames t); refine (?_ : Keeps a t → _) ?_; (on_goal 2 => unfold t); (on_goal 1 => (clear_value t; intro _)))
    | ((fail_if_no_progress extract_lets +onlyGivenNames t); refine (?_ : Keeps2 a t → _) ?_; (on_goal 2 => unfold t); (on_goal 1 => (clear_value t; intro _)))
    | ((fail_if_no_progress extract_lets +onlyGivenNames t); refine (?_ : Keeps1 a t → _) ?_; (on_goal 2 => unfold t); (on_goal 1 => (clear_value t; intro _)))
    | ((fail_if_no_progress extract_lets +onlyGivenNames t); subst t)
    | dsimp -zeta only
    | with_reducible apply Keeps.ite
    | with_reducible apply State.modSess_keeps
    | with_reducible apply State.deliver_keeps
    | with_reducible exact Keeps1.out ‹_›
    | with_reducible apply Keeps1.mk
    | with_reducible apply Keeps1.ite
    | with_reducible refine Keeps1.foldl ?_ (fun _ _ _ => ?_)
    | with_reducible refine Keeps1.out ?_
    | with_reducible exact Keeps2.out ‹_›
    | with_reducible apply Keeps2.mk
    | with_reducible apply Keeps2.ite
    | with_reducible refine Keeps2.foldl ?_ (fun _ _ _ => ?_)
    | with_reducible refine Keeps2.out ?_
    | with_reducible refine Keeps.foldl ?_ (fun _ _ _ => ?_)
    | split

/-- State.pushSubs keeps what every operation keeps. -/
theorem State.pushSubs_keeps {a s : State} (h : Keeps a s) : Keeps a (State.pushSubs s) := by
  unfold State.pushSubs
  repeat' first
    | with_reducible assumption
    | dsimp -zeta only
    | with_reducible apply State.pushSub_keeps
    | with_reducible exact Keeps1.out ‹_›
    | with_reducible apply Keeps1.mk
    | with_reducible refine Keeps1.foldl ?_ (fun _ _ _ => ?_)
    | with_reducible refine Keeps1.out ?_
    | with_reducible exact Keeps2.out ‹_›
    | with_reducible apply Keeps2.mk
    | with_reducible refine Keeps2.foldl ?_ (fun _ _ _ => ?_)
    | with_reducible refine Keeps2.out ?_
    | with_reducible refine Keeps.foldl ?_ (fun _ _ _ => ?_)

/-- State.subsCommit keeps what every operation keeps. -/
theorem State.subsCommit_keeps {a s : State} {x1 x2 x3} (h : Keeps a s) : Keeps a (State.subsCommit s x1 x2 x3) := by
  unfold State.subsCommit
  repeat' first
    | with_reducible assumption
    | dsimp -zeta only
    | with_reducible apply Keeps.ite
    | with_reducible apply State.subCommit_keeps
    | with_reducible exact Keeps1.out ‹_›
    | with_reducible apply Keeps1.mk
    | with_reducible apply Keeps1.ite
    | with_reducible refine Keeps1.foldl ?_ (fun _ _ _ => ?_)
    | with_reducible refine Keeps1.out ?_
    | with_reducible exact Keeps2.out ‹_›
    | with_reducible apply Keeps2.mk
    | with_reducible apply Keeps2.ite
    | with_reducible refine Keeps2.foldl ?_ (fun _ _ _ => ?_)
    | with_reducible refine Keeps2.out ?_
    | with_reducible refine Keeps.foldl ?_ (fun _ _ _ => ?_)
    | split

/-- State.hostAdvance keeps what every operation keeps. -/
theorem State.hostAdvance_keeps {a s : State} (h : Keeps a s) : Keeps a (State.hostAdvance s) := by
  unfold State.hostAdvance
  repeat' first
    | with_reducible assumption
    | dsimp -zeta only
    | with_reducible apply State.pushSubs_keeps
    | with_reducible apply State.completeBatches_keeps
    | with_reducible apply State.releaseReads_keeps

/-- State.finishCut keeps what every operation keeps. -/
theorem State.finishCut_keeps {a s : State} {x1 x2} (h : Keeps a s) : Keeps a (State.finishCut s x1 x2) := by
  unfold State.finishCut
  repeat' first
    | with_reducible assumption
    | ((fail_if_no_progress extract_lets +onlyGivenNames t); refine (?_ : Keeps a t → _) ?_; (on_goal 2 => unfold t); (on_goal 1 => (clear_value t; intro _)))
    | ((fail_if_no_progress extract_lets +onlyGivenNames t); subst t)
    | dsimp -zeta only
    | with_reducible apply Keeps.ite
    | with_reducible apply State.sysWrite_keeps
    | with_reducible apply State.share_keeps
    | with_reducible apply State.complete_keeps
    | split
    | fail_if_no_progress (with_reducible refine Keeps.upd ?_ rfl rfl rfl rfl rfl rfl)

/-- State.breakCuts keeps what every operation keeps. -/
theorem State.breakCuts_keeps {a s : State} (h : Keeps a s) : Keeps a (State.breakCuts s) := by
  unfold State.breakCuts
  repeat' first
    | with_reducible assumption
    | ((fail_if_no_progress extract_lets +onlyGivenNames t); refine (?_ : Keeps a t → _) ?_; (on_goal 2 => unfold t); (on_goal 1 => (clear_value t; intro _)))
    | ((fail_if_no_progress extract_lets +onlyGivenNames t); refine (?_ : Keeps2 a t → _) ?_; (on_goal 2 => unfold t); (on_goal 1 => (clear_value t; intro _)))
    | ((fail_if_no_progress extract_lets +onlyGivenNames t); refine (?_ : Keeps1 a t → _) ?_; (on_goal 2 => unfold t); (on_goal 1 => (clear_value t; intro _)))
    | ((fail_if_no_progress extract_lets +onlyGivenNames t); subst t)
    | dsimp -zeta only
    | with_reducible apply State.finishCut_keeps
    | with_reducible exact Keeps1.out ‹_›
    | with_reducible apply Keeps1.mk
    | with_reducible refine Keeps1.foldl ?_ (fun _ _ _ => ?_)
    | with_reducible refine Keeps1.out ?_
    | with_reducible exact Keeps2.out ‹_›
    | with_reducible apply Keeps2.mk
    | with_reducible refine Keeps2.foldl ?_ (fun _ _ _ => ?_)
    | with_reducible refine Keeps2.out ?_
    | with_reducible refine Keeps.foldl ?_ (fun _ _ _ => ?_)

/-- State.hostNotLead keeps what every operation keeps. -/
theorem State.hostNotLead_keeps {a s : State} (h : Keeps a s) : Keeps a (State.hostNotLead s) := by
  unfold State.hostNotLead
  repeat' first
    | with_reducible assumption
    | ((fail_if_no_progress extract_lets +onlyGivenNames t); refine (?_ : Keeps a t → _) ?_; (on_goal 2 => unfold t); (on_goal 1 => (clear_value t; intro _)))
    | ((fail_if_no_progress extract_lets +onlyGivenNames t); refine (?_ : Keeps2 a t → _) ?_; (on_goal 2 => unfold t); (on_goal 1 => (clear_value t; intro _)))
    | ((fail_if_no_progress extract_lets +onlyGivenNames t); refine (?_ : Keeps1 a t → _) ?_; (on_goal 2 => unfold t); (on_goal 1 => (clear_value t; intro _)))
    | ((fail_if_no_progress extract_lets +onlyGivenNames t); subst t)
    | dsimp -zeta only
    | with_reducible apply State.breakAll_keeps
    | with_reducible apply State.completeB_keeps
    | with_reducible exact Keeps1.out ‹_›
    | with_reducible apply Keeps1.mk
    | with_reducible refine Keeps1.foldl ?_ (fun _ _ _ => ?_)
    | with_reducible refine Keeps1.out ?_
    | with_reducible exact Keeps2.out ‹_›
    | with_reducible apply Keeps2.mk
    | with_reducible refine Keeps2.foldl ?_ (fun _ _ _ => ?_)
    | with_reducible refine Keeps2.out ?_
    | with_reducible refine Keeps.foldl ?_ (fun _ _ _ => ?_)
    | fail_if_no_progress (with_reducible refine Keeps.upd ?_ rfl rfl rfl rfl rfl rfl)

/-- State.hostAbort keeps what every operation keeps. -/
theorem State.hostAbort_keeps {a s : State} (h : Keeps a s) : Keeps a (State.hostAbort s) := by
  unfold State.hostAbort
  repeat' first
    | with_reducible assumption
    | ((fail_if_no_progress extract_lets +onlyGivenNames t); refine (?_ : Keeps a t → _) ?_; (on_goal 2 => unfold t); (on_goal 1 => (clear_value t; intro _)))
    | ((fail_if_no_progress extract_lets +onlyGivenNames t); refine (?_ : Keeps2 a t → _) ?_; (on_goal 2 => unfold t); (on_goal 1 => (clear_value t; intro _)))
    | ((fail_if_no_progress extract_lets +onlyGivenNames t); refine (?_ : Keeps1 a t → _) ?_; (on_goal 2 => unfold t); (on_goal 1 => (clear_value t; intro _)))
    | ((fail_if_no_progress extract_lets +onlyGivenNames t); subst t)
    | dsimp -zeta only
    | with_reducible apply Keeps.ite
    | with_reducible apply State.complete_keeps
    | with_reducible apply State.modQp_keeps
    | with_reducible apply State.putCompl_keeps
    | with_reducible apply State.modSess_keeps
    | with_reducible apply State.completeB_keeps
    | with_reducible apply State.breakAll_keeps
    | with_reducible exact Keeps1.out ‹_›
    | with_reducible apply Keeps1.mk
    | with_reducible apply Keeps1.ite
    | with_reducible refine Keeps1.foldl ?_ (fun _ _ _ => ?_)
    | with_reducible refine Keeps1.out ?_
    | with_reducible exact Keeps2.out ‹_›
    | with_reducible apply Keeps2.mk
    | with_reducible apply Keeps2.ite
    | with_reducible refine Keeps2.foldl ?_ (fun _ _ _ => ?_)
    | with_reducible refine Keeps2.out ?_
    | with_reducible refine Keeps.foldl ?_ (fun _ _ _ => ?_)
    | split
    | fail_if_no_progress (with_reducible refine Keeps.upd ?_ rfl rfl rfl rfl rfl rfl)

/-! ### Machine/SpecOps.lean -/

/-- State.specState keeps what every operation keeps. -/
theorem State.specState_keeps {a s : State} {x1 x2} (h : Keeps a s) : Keeps a (State.specState s x1 x2) := by
  unfold State.specState
  repeat' first
    | with_reducible assumption
    | ((fail_if_no_progress extract_lets +onlyGivenNames t); refine (?_ : Keeps a t → _) ?_; (on_goal 2 => unfold t); (on_goal 1 => (clear_value t; intro _)))
    | ((fail_if_no_progress extract_lets +onlyGivenNames t); subst t)
    | dsimp -zeta only
    | with_reducible apply State.setF_keeps

/-- State.specWindow keeps what every operation keeps. -/
theorem State.specWindow_keeps {a s : State} {x1 x2} (h : Keeps a s) : Keeps a (State.specWindow s x1 x2) := by
  unfold State.specWindow
  repeat' first
    | with_reducible assumption
    | ((fail_if_no_progress extract_lets +onlyGivenNames t); refine (?_ : Keeps a t → _) ?_; (on_goal 2 => unfold t); (on_goal 1 => (clear_value t; intro _)))
    | ((fail_if_no_progress extract_lets +onlyGivenNames t); subst t)
    | dsimp -zeta only
    | with_reducible apply Keeps.ite
    | with_reducible apply State.modTask_keeps
    | with_reducible apply State.setF_keeps
    | with_reducible apply State.specState_keeps
    | split

/-- State.specFresh keeps what every operation keeps. -/
theorem State.specFresh_keeps {a s : State} {x1} (h : Keeps a s) : Keeps a (State.specFresh s x1) := by
  unfold State.specFresh
  repeat' first
    | with_reducible assumption
    | ((fail_if_no_progress extract_lets +onlyGivenNames t); refine (?_ : Keeps a t → _) ?_; (on_goal 2 => unfold t); (on_goal 1 => (clear_value t; intro _)))
    | ((fail_if_no_progress extract_lets +onlyGivenNames t); subst t)
    | dsimp -zeta only
    | with_reducible apply State.setF_keeps
    | with_reducible apply State.modTask_keeps

/-- State.specDrop keeps what every operation keeps. -/
theorem State.specDrop_keeps {a s : State} {x1} (h : Keeps a s) : Keeps a (State.specDrop s x1) := by
  unfold State.specDrop
  repeat' first
    | with_reducible assumption
    | dsimp -zeta only
    | with_reducible apply State.delRun_keeps
    | with_reducible apply State.setF_keeps
    | split

/-- State.specEnd keeps what every operation keeps. -/
theorem State.specEnd_keeps {a s : State} {x1 x2} (h : Keeps a s) : Keeps a (State.specEnd s x1 x2) := by
  unfold State.specEnd
  repeat' first
    | with_reducible assumption
    | dsimp -zeta only
    | with_reducible apply Keeps.ite
    | with_reducible apply State.specWindow_keeps
    | with_reducible apply State.specState_keeps
    | with_reducible apply State.bump_keeps
    | with_reducible apply State.specDrop_keeps
    | split

/-- State.specInval keeps what every operation keeps. -/
theorem State.specInval_keeps {a s : State} {x1} (h : Keeps a s) : Keeps a (State.specInval s x1) := by
  unfold State.specInval
  repeat' first
    | with_reducible assumption
    | dsimp -zeta only
    | with_reducible apply State.specEnd_keeps

/-- State.specGenCheck keeps what every operation keeps. -/
theorem State.specGenCheck_keeps {a s : State} (h : Keeps a s) : Keeps a (State.specGenCheck s) := by
  unfold State.specGenCheck
  repeat' first
    | with_reducible assumption
    | dsimp -zeta only
    | with_reducible apply Keeps.ite
    | with_reducible apply State.specInval_keeps
    | with_reducible exact Keeps1.out ‹_›
    | with_reducible apply Keeps1.mk
    | with_reducible apply Keeps1.ite
    | with_reducible refine Keeps1.foldl ?_ (fun _ _ _ => ?_)
    | with_reducible refine Keeps1.out ?_
    | with_reducible exact Keeps2.out ‹_›
    | with_reducible apply Keeps2.mk
    | with_reducible apply Keeps2.ite
    | with_reducible refine Keeps2.foldl ?_ (fun _ _ _ => ?_)
    | with_reducible refine Keeps2.out ?_
    | with_reducible refine Keeps.foldl ?_ (fun _ _ _ => ?_)
    | split

/-- State.specInvalAll keeps what every operation keeps. -/
theorem State.specInvalAll_keeps {a s : State} (h : Keeps a s) : Keeps a (State.specInvalAll s) := by
  unfold State.specInvalAll
  repeat' first
    | with_reducible assumption
    | dsimp -zeta only
    | with_reducible apply Keeps.ite
    | with_reducible apply State.specInval_keeps
    | with_reducible exact Keeps1.out ‹_›
    | with_reducible apply Keeps1.mk
    | with_reducible apply Keeps1.ite
    | with_reducible refine Keeps1.foldl ?_ (fun _ _ _ => ?_)
    | with_reducible refine Keeps1.out ?_
    | with_reducible exact Keeps2.out ‹_›
    | with_reducible apply Keeps2.mk
    | with_reducible apply Keeps2.ite
    | with_reducible refine Keeps2.foldl ?_ (fun _ _ _ => ?_)
    | with_reducible refine Keeps2.out ?_
    | with_reducible refine Keeps.foldl ?_ (fun _ _ _ => ?_)
    | split

/-- State.applyReleaseAt keeps what every operation keeps. -/
theorem State.applyReleaseAt_keeps {a s : State} {x1 x2} (h : Keeps a s) : Keeps a (State.applyReleaseAt s x1 x2) := by
  unfold State.applyReleaseAt
  repeat' first
    | with_reducible assumption
    | ((fail_if_no_progress extract_lets +onlyGivenNames t); refine (?_ : Keeps a t → _) ?_; (on_goal 2 => unfold t); (on_goal 1 => (clear_value t; intro _)))
    | ((fail_if_no_progress extract_lets +onlyGivenNames t); subst t)
    | dsimp -zeta only
    | with_reducible apply Keeps.ite
    | with_reducible apply State.applyDueAt_keeps
    | with_reducible apply State.specFresh_keeps
    | with_reducible apply State.specInval_keeps
    | split

/-- State.applyRelease keeps what every operation keeps. -/
theorem State.applyRelease_keeps {a s : State} {x1} (h : Keeps a s) : Keeps a (State.applyRelease s x1) := by
  unfold State.applyRelease
  repeat' first
    | with_reducible assumption
    | dsimp -zeta only
    | with_reducible apply State.applyReleaseAt_keeps

/-! ### Machine/Can.lean -/

/-- State.modCan keeps what every operation keeps. -/
theorem State.modCan_keeps {a s : State} {x1 x2} (h : Keeps a s) : Keeps a (State.modCan s x1 x2) := by
  unfold State.modCan
  repeat' first
    | with_reducible assumption
    | ((fail_if_no_progress extract_lets +onlyGivenNames t); refine (?_ : Keeps a t → _) ?_; (on_goal 2 => unfold t); (on_goal 1 => (clear_value t; intro _)))
    | ((fail_if_no_progress extract_lets +onlyGivenNames t); subst t)
    | dsimp -zeta only
    | fail_if_no_progress (with_reducible refine Keeps.upd ?_ rfl rfl rfl rfl rfl rfl)

/-- State.txResult keeps what every operation keeps. -/
theorem State.txResult_keeps {a s : State} {x1 x2 x3 x4 x5} (h : Keeps a s) : Keeps a (State.txResult s x1 x2 x3 x4 x5) := by
  unfold State.txResult
  split
  · exact h
  · rename_i p _
    have h1 : Keeps a (s.ingest (p + 0x10) [BitVec.ofNat 8 x4] id) := State.ingest_keeps h (fun _ h => h)
    dsimp only
    split
    · exact State.ingest_keeps (State.ingest_keeps h1 (fun _ h => h)) (fun _ h => h)
    · exact h1

/-- State.txDrop keeps what every operation keeps. -/
theorem State.txDrop_keeps {a s : State} {x1 x2} (h : Keeps a s) : Keeps a (State.txDrop s x1 x2) := by
  unfold State.txDrop
  repeat' first
    | with_reducible assumption
    | ((fail_if_no_progress extract_lets +onlyGivenNames t); refine (?_ : Keeps a t → _) ?_; (on_goal 2 => unfold t); (on_goal 1 => (clear_value t; intro _)))
    | ((fail_if_no_progress extract_lets +onlyGivenNames t); refine (?_ : Keeps2 a t → _) ?_; (on_goal 2 => unfold t); (on_goal 1 => (clear_value t; intro _)))
    | ((fail_if_no_progress extract_lets +onlyGivenNames t); refine (?_ : Keeps1 a t → _) ?_; (on_goal 2 => unfold t); (on_goal 1 => (clear_value t; intro _)))
    | ((fail_if_no_progress extract_lets +onlyGivenNames t); subst t)
    | dsimp -zeta only
    | with_reducible apply State.txResult_keeps
    | with_reducible apply State.modCan_keeps
    | with_reducible exact Keeps1.out ‹_›
    | with_reducible apply Keeps1.mk
    | with_reducible refine Keeps1.foldl ?_ (fun _ _ _ => ?_)
    | with_reducible refine Keeps1.out ?_
    | with_reducible exact Keeps2.out ‹_›
    | with_reducible apply Keeps2.mk
    | with_reducible refine Keeps2.foldl ?_ (fun _ _ _ => ?_)
    | with_reducible refine Keeps2.out ?_
    | with_reducible refine Keeps.foldl ?_ (fun _ _ _ => ?_)

/-- State.slotFill keeps what every operation keeps. -/
theorem State.slotFill_keeps {a s : State} {x1 x2 x3 x4} (h : Keeps a s) : Keeps a (State.slotFill s x1 x2 x3 x4) := by
  unfold State.slotFill
  repeat' first
    | with_reducible assumption
    | ((fail_if_no_progress extract_lets +onlyGivenNames t); refine (?_ : Keeps a t → _) ?_; (on_goal 2 => unfold t); (on_goal 1 => (clear_value t; intro _)))
    | ((fail_if_no_progress extract_lets +onlyGivenNames t); subst t)
    | dsimp -zeta only
    | with_reducible apply Keeps.ite
    | with_reducible apply State.modCan_keeps
    | with_reducible apply State.bump_keeps
    | split

/-- State.canCommit keeps what every operation keeps. -/
theorem State.canCommit_keeps {a s : State} {x1 x2 x3} (h : Keeps a s) : Keeps a (State.canCommit s x1 x2 x3) := by
  unfold State.canCommit
  repeat' first
    | with_reducible assumption
    | ((fail_if_no_progress extract_lets +onlyGivenNames t); refine (?_ : Keeps a t → _) ?_; (on_goal 2 => unfold t); (on_goal 1 => (clear_value t; intro _)))
    | ((fail_if_no_progress extract_lets +onlyGivenNames t); refine (?_ : Keeps2 a t → _) ?_; (on_goal 2 => unfold t); (on_goal 1 => (clear_value t; intro _)))
    | ((fail_if_no_progress extract_lets +onlyGivenNames t); refine (?_ : Keeps1 a t → _) ?_; (on_goal 2 => unfold t); (on_goal 1 => (clear_value t; intro _)))
    | ((fail_if_no_progress extract_lets +onlyGivenNames t); subst t)
    | dsimp -zeta only
    | with_reducible apply Keeps.ite
    | with_reducible apply State.modCan_keeps
    | with_reducible apply State.slotFill_keeps
    | with_reducible exact Keeps1.out ‹_›
    | with_reducible apply Keeps1.mk
    | with_reducible apply Keeps1.ite
    | with_reducible refine Keeps1.foldl ?_ (fun _ _ _ => ?_)
    | with_reducible refine Keeps1.out ?_
    | with_reducible exact Keeps2.out ‹_›
    | with_reducible apply Keeps2.mk
    | with_reducible apply Keeps2.ite
    | with_reducible refine Keeps2.foldl ?_ (fun _ _ _ => ?_)
    | with_reducible refine Keeps2.out ?_
    | with_reducible refine Keeps.foldl ?_ (fun _ _ _ => ?_)
    | split

/-- State.canHandOver keeps what every operation keeps. -/
theorem State.canHandOver_keeps {a s : State} {x1 x2} (h : Keeps a s) : Keeps a (State.canHandOver s x1 x2) := by
  unfold State.canHandOver
  repeat' first
    | with_reducible assumption
    | ((fail_if_no_progress extract_lets +onlyGivenNames t); refine (?_ : Keeps a t → _) ?_; (on_goal 2 => unfold t); (on_goal 1 => (clear_value t; intro _)))
    | ((fail_if_no_progress extract_lets +onlyGivenNames t); refine (?_ : Keeps2 a t → _) ?_; (on_goal 2 => unfold t); (on_goal 1 => (clear_value t; intro _)))
    | ((fail_if_no_progress extract_lets +onlyGivenNames t); refine (?_ : Keeps1 a t → _) ?_; (on_goal 2 => unfold t); (on_goal 1 => (clear_value t; intro _)))
    | ((fail_if_no_progress extract_lets +onlyGivenNames t); subst t)
    | dsimp -zeta only
    | with_reducible apply Keeps.ite
    | with_reducible apply State.bump_keeps
    | with_reducible apply State.modCan_keeps
    | with_reducible exact Keeps1.out ‹_›
    | with_reducible apply Keeps1.mk
    | with_reducible apply Keeps1.ite
    | with_reducible refine Keeps1.foldl ?_ (fun _ _ _ => ?_)
    | with_reducible refine Keeps1.out ?_
    | with_reducible exact Keeps2.out ‹_›
    | with_reducible apply Keeps2.mk
    | with_reducible apply Keeps2.ite
    | with_reducible refine Keeps2.foldl ?_ (fun _ _ _ => ?_)
    | with_reducible refine Keeps2.out ?_
    | with_reducible refine Keeps.foldl ?_ (fun _ _ _ => ?_)
    | split

/-- State.canClear keeps what every operation keeps. -/
theorem State.canClear_keeps {a s : State} (h : Keeps a s) : Keeps a (State.canClear s) := by
  unfold State.canClear
  repeat' first
    | with_reducible assumption
    | ((fail_if_no_progress extract_lets +onlyGivenNames t); refine (?_ : Keeps a t → _) ?_; (on_goal 2 => unfold t); (on_goal 1 => (clear_value t; intro _)))
    | ((fail_if_no_progress extract_lets +onlyGivenNames t); refine (?_ : Keeps2 a t → _) ?_; (on_goal 2 => unfold t); (on_goal 1 => (clear_value t; intro _)))
    | ((fail_if_no_progress extract_lets +onlyGivenNames t); refine (?_ : Keeps1 a t → _) ?_; (on_goal 2 => unfold t); (on_goal 1 => (clear_value t; intro _)))
    | ((fail_if_no_progress extract_lets +onlyGivenNames t); subst t)
    | dsimp -zeta only
    | with_reducible apply State.modCan_keeps
    | with_reducible exact Keeps1.out ‹_›
    | with_reducible apply Keeps1.mk
    | with_reducible refine Keeps1.foldl ?_ (fun _ _ _ => ?_)
    | with_reducible refine Keeps1.out ?_
    | with_reducible exact Keeps2.out ‹_›
    | with_reducible apply Keeps2.mk
    | with_reducible refine Keeps2.foldl ?_ (fun _ _ _ => ?_)
    | with_reducible refine Keeps2.out ?_
    | with_reducible refine Keeps.foldl ?_ (fun _ _ _ => ?_)

/-- State.canCounts keeps what every operation keeps. -/
theorem State.canCounts_keeps {a s : State} {x1} (h : Keeps a s) : Keeps a (State.canCounts s x1) := by
  unfold State.canCounts
  repeat' first
    | with_reducible assumption
    | dsimp -zeta only
    | with_reducible apply State.setF_keeps

/-- State.canState keeps what every operation keeps. -/
theorem State.canState_keeps {a s : State} {x1} (h : Keeps a s) : Keeps a (State.canState s x1) := by
  unfold State.canState
  repeat' first
    | with_reducible assumption
    | ((fail_if_no_progress extract_lets +onlyGivenNames t); refine (?_ : Keeps a t → _) ?_; (on_goal 2 => unfold t); (on_goal 1 => (clear_value t; intro _)))
    | ((fail_if_no_progress extract_lets +onlyGivenNames t); subst t)
    | dsimp -zeta only
    | with_reducible apply Keeps.ite
    | with_reducible apply State.canCounts_keeps
    | with_reducible apply State.txDrop_keeps
    | with_reducible apply State.setF_keeps
    | with_reducible apply State.modCan_keeps
    | with_reducible apply State.report_keeps
    | with_reducible apply State.evHw_keeps
    | split

/-- State.oneShotFail keeps what every operation keeps. -/
theorem State.oneShotFail_keeps {a s : State} {x1} (h : Keeps a s) : Keeps a (State.oneShotFail s x1) := by
  unfold State.oneShotFail
  repeat' first
    | with_reducible assumption
    | ((fail_if_no_progress extract_lets +onlyGivenNames t); refine (?_ : Keeps a t → _) ?_; (on_goal 2 => unfold t); (on_goal 1 => (clear_value t; intro _)))
    | ((fail_if_no_progress extract_lets +onlyGivenNames t); subst t)
    | dsimp -zeta only
    | with_reducible apply State.bump_keeps
    | with_reducible apply State.modCan_keeps
    | with_reducible apply State.txResult_keeps
    | split

/-- State.canRing keeps what every operation keeps. -/
theorem State.canRing_keeps {a s : State} {x1 x2} (h : Keeps a s) : Keeps a (State.canRing s x1 x2) := by
  unfold State.canRing
  repeat' first
    | with_reducible assumption
    | ((fail_if_no_progress extract_lets +onlyGivenNames t); refine (?_ : Keeps a t → _) ?_; (on_goal 2 => unfold t); (on_goal 1 => (clear_value t; intro _)))
    | ((fail_if_no_progress extract_lets +onlyGivenNames t); subst t)
    | dsimp -zeta only
    | with_reducible apply Keeps.ite
    | with_reducible apply State.bump_keeps
    | with_reducible refine State.ringPut_keeps ?_ (fun _ _ => ?_)
    | with_reducible apply State.modCan_keeps
    | split

/-- State.cmdCanRecover keeps what every operation keeps. -/
theorem State.cmdCanRecover_keeps {a s : State} {x1} (h : Keeps a s) : Keeps a (State.cmdCanRecover s x1) := by
  unfold State.cmdCanRecover
  repeat' first
    | with_reducible assumption
    | ((fail_if_no_progress extract_lets +onlyGivenNames t); refine (?_ : Keeps a t → _) ?_; (on_goal 2 => unfold t); (on_goal 1 => (clear_value t; intro _)))
    | ((fail_if_no_progress extract_lets +onlyGivenNames t); subst t)
    | dsimp -zeta only
    | with_reducible apply Keeps.ite
    | with_reducible apply State.modCan_keeps
    | split

/-- State.cmdCanFlush keeps what every operation keeps. -/
theorem State.cmdCanFlush_keeps {a s : State} {x1} (h : Keeps a s) : Keeps a (State.cmdCanFlush s x1) := by
  unfold State.cmdCanFlush
  repeat' first
    | with_reducible assumption
    | dsimp -zeta only
    | with_reducible apply State.txDrop_keeps

/-! ### Machine/SafetyFn.lean -/

/-- State.modFn keeps what every operation keeps. -/
theorem State.modFn_keeps {a s : State} {x1 x2} (h : Keeps a s) : Keeps a (State.modFn s x1 x2) := by
  unfold State.modFn
  repeat' first
    | with_reducible assumption
    | ((fail_if_no_progress extract_lets +onlyGivenNames t); refine (?_ : Keeps a t → _) ?_; (on_goal 2 => unfold t); (on_goal 1 => (clear_value t; intro _)))
    | ((fail_if_no_progress extract_lets +onlyGivenNames t); subst t)
    | dsimp -zeta only
    | fail_if_no_progress (with_reducible refine Keeps.upd ?_ rfl rfl rfl rfl rfl rfl)

/-- State.fnSummary keeps what every operation keeps. -/
theorem State.fnSummary_keeps {a s : State} (h : Keeps a s) : Keeps a (State.fnSummary s) := by
  unfold State.fnSummary
  repeat' first
    | with_reducible assumption
    | dsimp -zeta only
    | with_reducible apply State.setB_keeps

/-- State.pairTick keeps what every operation keeps. -/
theorem State.pairTick_keeps {a s : State} {x1} (h : Keeps a s) : Keeps a (State.pairTick s x1) := by
  unfold State.pairTick
  repeat' first
    | with_reducible assumption
    | ((fail_if_no_progress extract_lets +onlyGivenNames t); refine (?_ : Keeps a t → _) ?_; (on_goal 2 => unfold t); (on_goal 1 => (clear_value t; intro _)))
    | ((fail_if_no_progress extract_lets +onlyGivenNames t); subst t)
    | dsimp -zeta only
    | with_reducible apply Keeps.ite
    | with_reducible apply State.sysWrite_keeps
    | with_reducible apply State.setF_keeps
    | with_reducible apply State.bump_keeps
    | with_reducible apply State.modFn_keeps
    | split

/-- State.fnCaptured keeps what every operation keeps. -/
theorem State.fnCaptured_keeps {a s : State} {x1} (h : Keeps a s) : Keeps a (State.fnCaptured s x1) := by
  unfold State.fnCaptured
  repeat' first
    | with_reducible assumption
    | ((fail_if_no_progress extract_lets +onlyGivenNames t); refine (?_ : Keeps a t → _) ?_; (on_goal 2 => unfold t); (on_goal 1 => (clear_value t; intro _)))
    | ((fail_if_no_progress extract_lets +onlyGivenNames t); subst t)
    | dsimp -zeta only
    | with_reducible apply State.modFn_keeps

/-- State.fnTrip keeps what every operation keeps. -/
theorem State.fnTrip_keeps {a s : State} {x1} (h : Keeps a s) : Keeps a (State.fnTrip s x1) := by
  unfold State.fnTrip
  repeat' first
    | with_reducible assumption
    | ((fail_if_no_progress extract_lets +onlyGivenNames t); refine (?_ : Keeps a t → _) ?_; (on_goal 2 => unfold t); (on_goal 1 => (clear_value t; intro _)))
    | ((fail_if_no_progress extract_lets +onlyGivenNames t); subst t)
    | dsimp -zeta only
    | with_reducible apply State.setF_keeps
    | with_reducible apply State.aoAll_keeps
    | with_reducible apply State.fnSummary_keeps
    | with_reducible apply State.evSafe_keeps

/-- State.fnDegrade keeps what every operation keeps. -/
theorem State.fnDegrade_keeps {a s : State} {x1 x2} (h : Keeps a s) : Keeps a (State.fnDegrade s x1 x2) := by
  unfold State.fnDegrade
  repeat' first
    | with_reducible assumption
    | ((fail_if_no_progress extract_lets +onlyGivenNames t); refine (?_ : Keeps a t → _) ?_; (on_goal 2 => unfold t); (on_goal 1 => (clear_value t; intro _)))
    | ((fail_if_no_progress extract_lets +onlyGivenNames t); subst t)
    | dsimp -zeta only
    | with_reducible apply State.modFn_keeps
    | with_reducible apply State.setF_keeps
    | with_reducible apply State.setB_keeps
    | with_reducible apply State.fnSummary_keeps
    | with_reducible apply State.report_keeps
    | with_reducible apply State.evSafe_keeps
    | split
    | fail_if_no_progress (with_reducible refine Keeps.upd ?_ rfl rfl rfl rfl rfl rfl)

/-- State.fnNormal keeps what every operation keeps. -/
theorem State.fnNormal_keeps {a s : State} {x1} (h : Keeps a s) : Keeps a (State.fnNormal s x1) := by
  unfold State.fnNormal
  repeat' first
    | with_reducible assumption
    | ((fail_if_no_progress extract_lets +onlyGivenNames t); refine (?_ : Keeps a t → _) ?_; (on_goal 2 => unfold t); (on_goal 1 => (clear_value t; intro _)))
    | ((fail_if_no_progress extract_lets +onlyGivenNames t); subst t)
    | dsimp -zeta only
    | with_reducible apply State.modFn_keeps
    | with_reducible apply State.fnSummary_keeps
    | with_reducible apply State.setF_keeps
    | fail_if_no_progress (with_reducible refine Keeps.upd ?_ rfl rfl rfl rfl rfl rfl)

/-- State.fnJudge keeps what every operation keeps. -/
theorem State.fnJudge_keeps {a s : State} {x1} (h : Keeps a s) : Keeps a (State.fnJudge s x1) := by
  unfold State.fnJudge
  repeat' first
    | with_reducible assumption
    | ((fail_if_no_progress extract_lets +onlyGivenNames t); refine (?_ : Keeps a t → _) ?_; (on_goal 2 => unfold t); (on_goal 1 => (clear_value t; intro _)))
    | ((fail_if_no_progress extract_lets +onlyGivenNames t); subst t)
    | dsimp -zeta only
    | with_reducible apply Keeps.ite
    | with_reducible apply State.fnTrip_keeps
    | with_reducible apply State.fnDegrade_keeps
    | with_reducible apply State.modFn_keeps
    | split

/-- State.fnJudgeAll keeps what every operation keeps. -/
theorem State.fnJudgeAll_keeps {a s : State} (h : Keeps a s) : Keeps a (State.fnJudgeAll s) := by
  unfold State.fnJudgeAll
  repeat' first
    | with_reducible assumption
    | dsimp -zeta only
    | with_reducible apply State.fnJudge_keeps
    | with_reducible exact Keeps1.out ‹_›
    | with_reducible apply Keeps1.mk
    | with_reducible refine Keeps1.foldl ?_ (fun _ _ _ => ?_)
    | with_reducible refine Keeps1.out ?_
    | with_reducible exact Keeps2.out ‹_›
    | with_reducible apply Keeps2.mk
    | with_reducible refine Keeps2.foldl ?_ (fun _ _ _ => ?_)
    | with_reducible refine Keeps2.out ?_
    | with_reducible refine Keeps.foldl ?_ (fun _ _ _ => ?_)

/-- State.fnCommit keeps what every operation keeps. -/
theorem State.fnCommit_keeps {a s : State} {x1} (h : Keeps a s) : Keeps a (State.fnCommit s x1) := by
  unfold State.fnCommit
  repeat' first
    | with_reducible assumption
    | ((fail_if_no_progress extract_lets +onlyGivenNames t); refine (?_ : Keeps a t → _) ?_; (on_goal 2 => unfold t); (on_goal 1 => (clear_value t; intro _)))
    | ((fail_if_no_progress extract_lets +onlyGivenNames t); refine (?_ : Keeps2 a t → _) ?_; (on_goal 2 => unfold t); (on_goal 1 => (clear_value t; intro _)))
    | ((fail_if_no_progress extract_lets +onlyGivenNames t); refine (?_ : Keeps1 a t → _) ?_; (on_goal 2 => unfold t); (on_goal 1 => (clear_value t; intro _)))
    | ((fail_if_no_progress extract_lets +onlyGivenNames t); subst t)
    | dsimp -zeta only
    | with_reducible apply Keeps.ite
    | with_reducible apply State.sysWrite_keeps
    | with_reducible apply State.aoAll_keeps
    | with_reducible apply State.fnNormal_keeps
    | with_reducible exact Keeps1.out ‹_›
    | with_reducible apply Keeps1.mk
    | with_reducible apply Keeps1.ite
    | with_reducible refine Keeps1.foldl ?_ (fun _ _ _ => ?_)
    | with_reducible refine Keeps1.out ?_
    | with_reducible exact Keeps2.out ‹_›
    | with_reducible apply Keeps2.mk
    | with_reducible apply Keeps2.ite
    | with_reducible refine Keeps2.foldl ?_ (fun _ _ _ => ?_)
    | with_reducible refine Keeps2.out ?_
    | with_reducible refine Keeps.foldl ?_ (fun _ _ _ => ?_)
    | split

/-- State.degLeft keeps what every operation keeps. -/
theorem State.degLeft_keeps {a s : State} (h : Keeps a s) : Keeps a (State.degLeft s) := by
  unfold State.degLeft
  repeat' first
    | with_reducible assumption
    | dsimp -zeta only
    | with_reducible apply State.setF_keeps
    | with_reducible exact Keeps1.out ‹_›
    | with_reducible apply Keeps1.mk
    | with_reducible refine Keeps1.foldl ?_ (fun _ _ _ => ?_)
    | with_reducible refine Keeps1.out ?_
    | with_reducible exact Keeps2.out ‹_›
    | with_reducible apply Keeps2.mk
    | with_reducible refine Keeps2.foldl ?_ (fun _ _ _ => ?_)
    | with_reducible refine Keeps2.out ?_
    | with_reducible refine Keeps.foldl ?_ (fun _ _ _ => ?_)
    | split

/-- State.sampleAll keeps what every operation keeps. -/
theorem State.sampleAll_keeps {a s : State} {x1 x2} (h : Keeps a s) : Keeps a (State.sampleAll s x1 x2) := by
  induction x2 generalizing s x1 with
  | nil => unfold State.sampleAll; exact h
  | cons x l ih =>
    unfold State.sampleAll
    exact Keeps.ite (ih (State.sampleCh_keeps h)) h

/-- State.cmdAdcUrgentGo keeps what every operation keeps. -/
theorem State.cmdAdcUrgentGo_keeps {a s : State} {x1 x2 x3} (h : Keeps a s) : Keeps a (State.cmdAdcUrgentGo s x1 x2 x3) := by
  unfold State.cmdAdcUrgentGo
  repeat' first
    | with_reducible assumption
    | ((fail_if_no_progress extract_lets +onlyGivenNames t); refine (?_ : Keeps a t → _) ?_; (on_goal 2 => unfold t); (on_goal 1 => (clear_value t; intro _)))
    | ((fail_if_no_progress extract_lets +onlyGivenNames t); subst t)
    | dsimp -zeta only
    | with_reducible apply State.setF_keeps
    | with_reducible apply State.askUrgent_keeps

/-- State.cmdRbfailClear keeps what every operation keeps. -/
theorem State.cmdRbfailClear_keeps {a s : State} {x1} (h : Keeps a s) : Keeps a (State.cmdRbfailClear s x1) := by
  unfold State.cmdRbfailClear
  repeat' first
    | with_reducible assumption
    | ((fail_if_no_progress extract_lets +onlyGivenNames t); refine (?_ : Keeps a t → _) ?_; (on_goal 2 => unfold t); (on_goal 1 => (clear_value t; intro _)))
    | ((fail_if_no_progress extract_lets +onlyGivenNames t); subst t)
    | dsimp -zeta only
    | with_reducible apply Keeps.ite
    | with_reducible apply State.aoTarget_keeps
    | with_reducible apply State.setF_keeps
    | split

/-- State.cmdSfyValackWrite keeps what every operation keeps. -/
theorem State.cmdSfyValackWrite_keeps {a s : State} {x1 x2} (h : Keeps a s) : Keeps a (State.cmdSfyValackWrite s x1 x2) := by
  unfold State.cmdSfyValackWrite
  repeat' first
    | with_reducible assumption
    | dsimp -zeta only
    | with_reducible apply Keeps.ite
    | with_reducible apply State.ignored_keeps
    | with_reducible apply State.setF_keeps
    | with_reducible apply State.bump_keeps
    | split

/-! ### Machine/Fsp.lean -/

/-- State.fspSend keeps what every operation keeps. -/
theorem State.fspSend_keeps {a s : State} {x1 x2 x3 x4 x5 x6 x7 x8} (h : Keeps a s) : Keeps a (State.fspSend s x1 x2 x3 x4 x5 x6 x7 x8) := by
  unfold State.fspSend
  repeat' first
    | with_reducible assumption
    | ((fail_if_no_progress extract_lets +onlyGivenNames t); refine (?_ : Keeps a t → _) ?_; (on_goal 2 => unfold t); (on_goal 1 => (clear_value t; intro _)))
    | ((fail_if_no_progress extract_lets +onlyGivenNames t); subst t)
    | dsimp -zeta only
    | with_reducible apply Keeps.ite
    | with_reducible apply State.emit_keeps
    | split
    | fail_if_no_progress (with_reducible refine Keeps.upd ?_ rfl rfl rfl rfl rfl rfl)

/-- State.announce keeps what every operation keeps. -/
theorem State.announce_keeps {a s : State} (h : Keeps a s) : Keeps a (State.announce s) := by
  unfold State.announce
  repeat' first
    | with_reducible assumption
    | dsimp -zeta only
    | with_reducible apply State.fspSend_keeps

/-- State.dedupe keeps what every operation keeps. -/
theorem State.dedupe_keeps {a s : State} {x1 x2} (h : Keeps a s) : Keeps2 a (State.dedupe s x1 x2) := by
  unfold State.dedupe
  repeat' first
    | with_reducible assumption
    | ((fail_if_no_progress extract_lets +onlyGivenNames t); refine (?_ : Keeps a t → _) ?_; (on_goal 2 => unfold t); (on_goal 1 => (clear_value t; intro _)))
    | ((fail_if_no_progress extract_lets +onlyGivenNames t); subst t)
    | dsimp -zeta only
    | with_reducible apply Keeps.ite
    | with_reducible apply State.bump_keeps
    | with_reducible exact Keeps2.out ‹_›
    | with_reducible apply Keeps2.mk
    | with_reducible apply Keeps2.ite
    | split
    | with_reducible refine Keeps.of2 ‹_› ?_
    | fail_if_no_progress (with_reducible refine Keeps.upd ?_ rfl rfl rfl rfl rfl rfl)

/-- State.bridge keeps what every operation keeps. -/
theorem State.bridge_keeps {a s : State} {x1 x2 x3} (h : Keeps a s) : Keeps a (State.bridge s x1 x2 x3) := by
  unfold State.bridge
  repeat' first
    | with_reducible assumption
    | dsimp -zeta only
    | with_reducible apply Keeps.ite
    | with_reducible apply State.emit_keeps
    | split

/-- State.fspTake keeps what every operation keeps. -/
theorem State.fspTake_keeps {a s : State} {x1 x2 x3} (h : Keeps a s) : Keeps2 a (State.fspTake s x1 x2 x3) := by
  unfold State.fspTake
  repeat' first
    | with_reducible assumption
    | ((fail_if_no_progress extract_lets +onlyGivenNames t); refine (?_ : Keeps a t → _) ?_; (on_goal 2 => unfold t); (on_goal 1 => (clear_value t; intro _)))
    | ((fail_if_no_progress extract_lets +onlyGivenNames t); refine (?_ : Keeps2 a t → _) ?_; (on_goal 2 => unfold t); (on_goal 1 => (clear_value t; intro _)))
    | ((fail_if_no_progress extract_lets +onlyGivenNames t); subst t)
    | dsimp -zeta only
    | with_reducible apply Keeps.ite
    | with_reducible apply State.bump_keeps
    | with_reducible apply State.dedupe_keeps
    | with_reducible refine Keeps2.out (State.dedupe_keeps ?_)
    | with_reducible apply State.bridge_keeps
    | with_reducible exact Keeps2.out ‹_›
    | with_reducible apply Keeps2.mk
    | with_reducible apply Keeps2.ite
    | split
    | with_reducible refine Keeps.of2 ‹_› ?_
    | fail_if_no_progress (with_reducible refine Keeps.upd ?_ rfl rfl rfl rfl rfl rfl)

/-! ### Machine/Flags.lean -/

/-- WordRes.apply keeps what every operation keeps. -/
theorem WordRes.apply_keeps {a : State} {m : Mx} {x0} (h : Keeps a m.s) : XKeeps a (WordRes.apply x0 m) := by
  unfold WordRes.apply
  repeat' first
    | with_reducible assumption
    | ((fail_if_no_progress extract_lets +onlyGivenNames t); refine (?_ : Keeps a t → _) ?_; (on_goal 2 => unfold t); (on_goal 1 => (clear_value t; intro _)))
    | ((fail_if_no_progress extract_lets +onlyGivenNames t); refine (?_ : Keeps2 a t → _) ?_; (on_goal 2 => unfold t); (on_goal 1 => (clear_value t; intro _)))
    | ((fail_if_no_progress extract_lets +onlyGivenNames t); subst t)
    | dsimp -zeta only
    | with_reducible apply Keeps.ite
    | with_reducible apply raise_keeps
    | with_reducible apply Mx.setSt_keeps
    | with_reducible refine XKeeps.bind ?_ (fun _ _ _ => ?_)
    | with_reducible refine XKeeps.ok ?_
    | with_reducible refine XKeeps.xcp ?_
    | with_reducible refine raise_keeps ?_
    | with_reducible refine XKeeps.fin ?_
    | with_reducible exact Keeps2.out ‹_›
    | with_reducible apply Keeps2.mk
    | with_reducible refine Keeps.of2 ‹_› ?_
    | split

/-! ### Machine/Migrate.lean -/

/-- State.migPass keeps what every operation keeps. -/
theorem State.migPass_keeps {a s : State} (h : Keeps a s) : Keeps a (State.migPass s) := by
  unfold State.migPass
  repeat' first
    | with_reducible assumption
    | dsimp -zeta only
    | with_reducible apply State.bump_keeps
    | split

/-- State.dualWrite keeps what every operation keeps. -/
theorem State.dualWrite_keeps {a s : State} {x1} (h : Keeps a s) : Keeps a (State.dualWrite s x1) := by
  unfold State.dualWrite
  repeat' first
    | with_reducible assumption
    | ((fail_if_no_progress extract_lets +onlyGivenNames t); refine (?_ : Keeps a t → _) ?_; (on_goal 2 => unfold t); (on_goal 1 => (clear_value t; intro _)))
    | ((fail_if_no_progress extract_lets +onlyGivenNames t); refine (?_ : Keeps2 a t → _) ?_; (on_goal 2 => unfold t); (on_goal 1 => (clear_value t; intro _)))
    | ((fail_if_no_progress extract_lets +onlyGivenNames t); refine (?_ : Keeps1 a t → _) ?_; (on_goal 2 => unfold t); (on_goal 1 => (clear_value t; intro _)))
    | ((fail_if_no_progress extract_lets +onlyGivenNames t); subst t)
    | dsimp -zeta only
    | with_reducible apply Keeps.ite
    | with_reducible apply State.bump_keeps
    | with_reducible exact Keeps1.out ‹_›
    | with_reducible apply Keeps1.mk
    | with_reducible apply Keeps1.ite
    | with_reducible refine Keeps1.foldl ?_ (fun _ _ _ => ?_)
    | with_reducible refine Keeps1.out ?_
    | with_reducible exact Keeps2.out ‹_›
    | with_reducible apply Keeps2.mk
    | with_reducible apply Keeps2.ite
    | with_reducible refine Keeps2.foldl ?_ (fun _ _ _ => ?_)
    | with_reducible refine Keeps2.out ?_
    | with_reducible refine Keeps.foldl ?_ (fun _ _ _ => ?_)
    | split

/-! ### Machine/PairOps.lean -/

/-- State.setEpoch keeps what every operation keeps. -/
theorem State.setEpoch_keeps {a s : State} {x1} (h : Keeps a s) : Keeps a (State.setEpoch s x1) := by
  unfold State.setEpoch
  repeat' first
    | with_reducible assumption
    | ((fail_if_no_progress extract_lets +onlyGivenNames t); refine (?_ : Keeps a t → _) ?_; (on_goal 2 => unfold t); (on_goal 1 => (clear_value t; intro _)))
    | ((fail_if_no_progress extract_lets +onlyGivenNames t); subst t)
    | dsimp -zeta only
    | with_reducible apply State.setF_keeps
    | fail_if_no_progress (with_reducible refine Keeps.upd ?_ rfl rfl rfl rfl rfl rfl)

/-- State.kerbPair keeps what every operation keeps. -/
theorem State.kerbPair_keeps {a s : State} {x1} (h : Keeps a s) : Keeps a (State.kerbPair s x1) := by
  unfold State.kerbPair
  repeat' first
    | with_reducible assumption
    | ((fail_if_no_progress extract_lets +onlyGivenNames t); refine (?_ : Keeps a t → _) ?_; (on_goal 2 => unfold t); (on_goal 1 => (clear_value t; intro _)))
    | ((fail_if_no_progress extract_lets +onlyGivenNames t); subst t)
    | dsimp -zeta only
    | with_reducible apply Keeps.ite
    | with_reducible apply State.setF_keeps
    | split
    | fail_if_no_progress (with_reducible refine Keeps.upd ?_ rfl rfl rfl rfl rfl rfl)

/-- State.enterPair keeps what every operation keeps. -/
theorem State.enterPair_keeps {a s : State} {x1} (h : Keeps a s) : Keeps a (State.enterPair s x1) := by
  unfold State.enterPair
  repeat' first
    | with_reducible assumption
    | ((fail_if_no_progress extract_lets +onlyGivenNames t); refine (?_ : Keeps a t → _) ?_; (on_goal 2 => unfold t); (on_goal 1 => (clear_value t; intro _)))
    | ((fail_if_no_progress extract_lets +onlyGivenNames t); subst t)
    | dsimp -zeta only
    | with_reducible apply Keeps.ite
    | with_reducible apply State.setB_keeps
    | with_reducible apply State.setF_keeps
    | with_reducible apply State.outputsHold_keeps
    | with_reducible apply State.kerbPair_keeps
    | with_reducible apply State.evCfg_keeps
    | with_reducible apply State.canClear_keeps
    | split
    | fail_if_no_progress (with_reducible refine Keeps.upd ?_ rfl rfl rfl rfl rfl rfl)

/-- State.abortRuns keeps what every operation keeps. -/
theorem State.abortRuns_keeps {a s : State} (h : Keeps a s) : Keeps a (State.abortRuns s) := by
  unfold State.abortRuns
  repeat' first
    | with_reducible assumption
    | ((fail_if_no_progress extract_lets +onlyGivenNames t); refine (?_ : Keeps a t → _) ?_; (on_goal 2 => unfold t); (on_goal 1 => (clear_value t; intro _)))
    | ((fail_if_no_progress extract_lets +onlyGivenNames t); refine (?_ : Keeps2 a t → _) ?_; (on_goal 2 => unfold t); (on_goal 1 => (clear_value t; intro _)))
    | ((fail_if_no_progress extract_lets +onlyGivenNames t); refine (?_ : Keeps1 a t → _) ?_; (on_goal 2 => unfold t); (on_goal 1 => (clear_value t; intro _)))
    | ((fail_if_no_progress extract_lets +onlyGivenNames t); subst t)
    | dsimp -zeta only
    | with_reducible apply Keeps.ite
    | with_reducible apply State.setF_keeps
    | with_reducible apply State.modTask_keeps
    | with_reducible apply State.specEnd_keeps
    | with_reducible exact Keeps1.out ‹_›
    | with_reducible apply Keeps1.mk
    | with_reducible apply Keeps1.ite
    | with_reducible refine Keeps1.foldl ?_ (fun _ _ _ => ?_)
    | with_reducible refine Keeps1.out ?_
    | with_reducible exact Keeps2.out ‹_›
    | with_reducible apply Keeps2.mk
    | with_reducible apply Keeps2.ite
    | with_reducible refine Keeps2.foldl ?_ (fun _ _ _ => ?_)
    | with_reducible refine Keeps2.out ?_
    | with_reducible refine Keeps.foldl ?_ (fun _ _ _ => ?_)
    | split
    | fail_if_no_progress (with_reducible refine Keeps.upd ?_ rfl rfl rfl rfl rfl rfl)

/-- State.loseRole keeps what every operation keeps. -/
theorem State.loseRole_keeps {a s : State} {x1} (h : Keeps a s) : Keeps a (State.loseRole s x1) := by
  unfold State.loseRole
  repeat' first
    | with_reducible assumption
    | dsimp -zeta only
    | with_reducible apply State.setF_keeps
    | with_reducible apply State.hostAbort_keeps
    | with_reducible apply State.olcTakeover_keeps
    | with_reducible apply State.enterPair_keeps
    | with_reducible apply State.carriedOut_keeps
    | with_reducible apply State.abortRuns_keeps

/-- State.stepDown keeps what every operation keeps. -/
theorem State.stepDown_keeps {a s : State} (h : Keeps a s) : Keeps a (State.stepDown s) := by
  unfold State.stepDown
  repeat' first
    | with_reducible assumption
    | dsimp -zeta only
    | with_reducible apply Keeps.ite
    | with_reducible apply State.evHw_keeps
    | with_reducible apply State.bump_keeps
    | with_reducible apply State.loseRole_keeps
    | split

/-- State.freshGrid keeps what every operation keeps. -/
theorem State.freshGrid_keeps {a s : State} (h : Keeps a s) : Keeps a (State.freshGrid s) := by
  unfold State.freshGrid
  repeat' first
    | with_reducible assumption
    | ((fail_if_no_progress extract_lets +onlyGivenNames t); refine (?_ : Keeps a t → _) ?_; (on_goal 2 => unfold t); (on_goal 1 => (clear_value t; intro _)))
    | ((fail_if_no_progress extract_lets +onlyGivenNames t); refine (?_ : Keeps2 a t → _) ?_; (on_goal 2 => unfold t); (on_goal 1 => (clear_value t; intro _)))
    | ((fail_if_no_progress extract_lets +onlyGivenNames t); refine (?_ : Keeps1 a t → _) ?_; (on_goal 2 => unfold t); (on_goal 1 => (clear_value t; intro _)))
    | ((fail_if_no_progress extract_lets +onlyGivenNames t); subst t)
    | dsimp -zeta only
    | with_reducible apply State.modTask_keeps
    | with_reducible apply State.setF_keeps
    | with_reducible exact Keeps1.out ‹_›
    | with_reducible apply Keeps1.mk
    | with_reducible refine Keeps1.foldl ?_ (fun _ _ _ => ?_)
    | with_reducible refine Keeps1.out ?_
    | with_reducible exact Keeps2.out ‹_›
    | with_reducible apply Keeps2.mk
    | with_reducible refine Keeps2.foldl ?_ (fun _ _ _ => ?_)
    | with_reducible refine Keeps2.out ?_
    | with_reducible refine Keeps.foldl ?_ (fun _ _ _ => ?_)

/-- State.takeTasks keeps what every operation keeps. -/
theorem State.takeTasks_keeps {a s : State} (h : Keeps a s) : Keeps a (State.takeTasks s) := by
  unfold State.takeTasks
  repeat' first
    | with_reducible assumption
    | ((fail_if_no_progress extract_lets +onlyGivenNames t); refine (?_ : Keeps a t → _) ?_; (on_goal 2 => unfold t); (on_goal 1 => (clear_value t; intro _)))
    | ((fail_if_no_progress extract_lets +onlyGivenNames t); refine (?_ : Keeps2 a t → _) ?_; (on_goal 2 => unfold t); (on_goal 1 => (clear_value t; intro _)))
    | ((fail_if_no_progress extract_lets +onlyGivenNames t); refine (?_ : Keeps1 a t → _) ?_; (on_goal 2 => unfold t); (on_goal 1 => (clear_value t; intro _)))
    | ((fail_if_no_progress extract_lets +onlyGivenNames t); subst t)
    | dsimp -zeta only
    | with_reducible apply State.modTask_keeps
    | with_reducible exact Keeps1.out ‹_›
    | with_reducible apply Keeps1.mk
    | with_reducible refine Keeps1.foldl ?_ (fun _ _ _ => ?_)
    | with_reducible refine Keeps1.out ?_
    | with_reducible exact Keeps2.out ‹_›
    | with_reducible apply Keeps2.mk
    | with_reducible refine Keeps2.foldl ?_ (fun _ _ _ => ?_)
    | with_reducible refine Keeps2.out ?_
    | with_reducible refine Keeps.foldl ?_ (fun _ _ _ => ?_)
    | split

/-- State.soloAck keeps what every operation keeps. -/
theorem State.soloAck_keeps {a s : State} (h : Keeps a s) : Keeps a (State.soloAck s) := by
  unfold State.soloAck
  repeat' first
    | with_reducible assumption
    | ((fail_if_no_progress extract_lets +onlyGivenNames t); refine (?_ : Keeps a t → _) ?_; (on_goal 2 => unfold t); (on_goal 1 => (clear_value t; intro _)))
    | ((fail_if_no_progress extract_lets +onlyGivenNames t); subst t)
    | dsimp -zeta only
    | with_reducible apply State.hostAdvance_keeps
    | with_reducible apply State.setAck_keeps
    | fail_if_no_progress (with_reducible refine Keeps.upd ?_ rfl rfl rfl rfl rfl rfl)

/-- State.loosePlain keeps what every operation keeps. -/
theorem State.loosePlain_keeps {a s : State} (h : Keeps a s) : Keeps a (State.loosePlain s) :=
  Keeps.updMem h rfl rfl rfl (Nat.le_succ _) (Memory.wf_foldl _ _ _ _) rfl

/-- State.takeLead keeps what every operation keeps. -/
theorem State.takeLead_keeps {a s : State} {x1 x2} (h : Keeps a s) : Keeps a (State.takeLead s x1 x2) := by
  unfold State.takeLead
  repeat' first
    | with_reducible assumption
    | ((fail_if_no_progress extract_lets +onlyGivenNames t); refine (?_ : Keeps a t → _) ?_; (on_goal 2 => unfold t); (on_goal 1 => (clear_value t; intro _)))
    | ((fail_if_no_progress extract_lets +onlyGivenNames t); refine (?_ : Keeps2 a t → _) ?_; (on_goal 2 => unfold t); (on_goal 1 => (clear_value t; intro _)))
    | ((fail_if_no_progress extract_lets +onlyGivenNames t); refine (?_ : Keeps1 a t → _) ?_; (on_goal 2 => unfold t); (on_goal 1 => (clear_value t; intro _)))
    | ((fail_if_no_progress extract_lets +onlyGivenNames t); subst t)
    | dsimp -zeta only
    | with_reducible apply Keeps.ite
    | with_reducible apply State.setEpoch_keeps
    | with_reducible apply State.announce_keeps
    | with_reducible apply State.setF_keeps
    | with_reducible apply State.bump_keeps
    | with_reducible apply State.enterPair_keeps
    | with_reducible apply State.freshGrid_keeps
    | with_reducible apply State.breakCuts_keeps
    | with_reducible apply State.loosePlain_keeps
    | with_reducible apply State.takeTasks_keeps
    | with_reducible apply State.evHw_keeps
    | with_reducible apply State.soloAck_keeps
    | with_reducible apply State.hostAdvance_keeps
    | with_reducible exact Keeps1.out ‹_›
    | with_reducible apply Keeps1.mk
    | with_reducible apply Keeps1.ite
    | with_reducible refine Keeps1.foldl ?_ (fun _ _ _ => ?_)
    | with_reducible refine Keeps1.out ?_
    | with_reducible exact Keeps2.out ‹_›
    | with_reducible apply Keeps2.mk
    | with_reducible apply Keeps2.ite
    | with_reducible refine Keeps2.foldl ?_ (fun _ _ _ => ?_)
    | with_reducible refine Keeps2.out ?_
    | with_reducible refine Keeps.foldl ?_ (fun _ _ _ => ?_)
    | split
    | fail_if_no_progress (with_reducible refine Keeps.upd ?_ rfl rfl rfl rfl rfl rfl)

/-- State.goSolo keeps what every operation keeps. -/
theorem State.goSolo_keeps {a s : State} (h : Keeps a s) : Keeps a (State.goSolo s) := by
  unfold State.goSolo
  repeat' first
    | with_reducible assumption
    | ((fail_if_no_progress extract_lets +onlyGivenNames t); refine (?_ : Keeps a t → _) ?_; (on_goal 2 => unfold t); (on_goal 1 => (clear_value t; intro _)))
    | ((fail_if_no_progress extract_lets +onlyGivenNames t); subst t)
    | dsimp -zeta only
    | with_reducible apply Keeps.ite
    | with_reducible apply State.soloAck_keeps
    | with_reducible apply State.enterPair_keeps
    | with_reducible apply State.carriedOut_keeps
    | with_reducible apply State.setF_keeps
    | split
    | fail_if_no_progress (with_reducible refine Keeps.upd ?_ rfl rfl rfl rfl rfl rfl)

/-- State.scheduleSwitch keeps what every operation keeps. -/
theorem State.scheduleSwitch_keeps {a s : State} (h : Keeps a s) : Keeps a (State.scheduleSwitch s) := by
  unfold State.scheduleSwitch
  repeat' first
    | with_reducible assumption
    | ((fail_if_no_progress extract_lets +onlyGivenNames t); refine (?_ : Keeps a t → _) ?_; (on_goal 2 => unfold t); (on_goal 1 => (clear_value t; intro _)))
    | ((fail_if_no_progress extract_lets +onlyGivenNames t); subst t)
    | dsimp -zeta only
    | with_reducible apply State.setF_keeps
    | with_reducible apply State.share_keeps
    | fail_if_no_progress (with_reducible refine Keeps.upd ?_ rfl rfl rfl rfl rfl rfl)

/-- State.switchRequest keeps what every operation keeps. -/
theorem State.switchRequest_keeps {a s : State} (h : Keeps a s) : Keeps2 a (State.switchRequest s) := by
  unfold State.switchRequest
  repeat' first
    | with_reducible assumption
    | dsimp -zeta only
    | with_reducible apply Keeps.ite
    | with_reducible apply State.scheduleSwitch_keeps
    | with_reducible apply State.bump_keeps
    | with_reducible exact Keeps2.out ‹_›
    | with_reducible apply Keeps2.mk
    | with_reducible apply Keeps2.ite
    | split

/-! ### Machine/Plant.lean -/

/-- State.modSta keeps what every operation keeps. -/
theorem State.modSta_keeps {a s : State} {x1 x2} (h : Keeps a s) : Keeps a (State.modSta s x1 x2) := by
  unfold State.modSta
  repeat' first
    | with_reducible assumption
    | ((fail_if_no_progress extract_lets +onlyGivenNames t); refine (?_ : Keeps a t → _) ?_; (on_goal 2 => unfold t); (on_goal 1 => (clear_value t; intro _)))
    | ((fail_if_no_progress extract_lets +onlyGivenNames t); subst t)
    | dsimp -zeta only
    | fail_if_no_progress (with_reducible refine Keeps.upd ?_ rfl rfl rfl rfl rfl rfl)

/-- State.sendConfig keeps what every operation keeps. -/
theorem State.sendConfig_keeps {a s : State} {x1} (h : Keeps a s) : Keeps a (State.sendConfig s x1) := by
  unfold State.sendConfig
  repeat' first
    | with_reducible assumption
    | ((fail_if_no_progress extract_lets +onlyGivenNames t); refine (?_ : Keeps a t → _) ?_; (on_goal 2 => unfold t); (on_goal 1 => (clear_value t; intro _)))
    | ((fail_if_no_progress extract_lets +onlyGivenNames t); subst t)
    | dsimp -zeta only
    | with_reducible apply State.fspSend_keeps
    | with_reducible apply State.modSta_keeps

/-- State.staInput keeps what every operation keeps. -/
theorem State.staInput_keeps {a s : State} {x1 x2 x3} (h : Keeps a s) : Keeps a (State.staInput s x1 x2 x3) := by
  unfold State.staInput
  repeat' first
    | with_reducible assumption
    | ((fail_if_no_progress extract_lets +onlyGivenNames t); refine (?_ : Keeps a t → _) ?_; (on_goal 2 => unfold t); (on_goal 1 => (clear_value t; intro _)))
    | ((fail_if_no_progress extract_lets +onlyGivenNames t); subst t)
    | dsimp -zeta only
    | with_reducible apply Keeps.ite
    | with_reducible apply State.sendConfig_keeps
    | with_reducible apply State.modSta_keeps
    | with_reducible apply State.setF_keeps
    | with_reducible apply State.bump_keeps
    | with_reducible apply State.evHw_keeps
    | split

/-- State.staValues keeps what every operation keeps. -/
theorem State.staValues_keeps {a s : State} {x1 x2} (h : Keeps a s) : Keeps a (State.staValues s x1 x2) := by
  unfold State.staValues
  repeat' first
    | with_reducible assumption
    | ((fail_if_no_progress extract_lets +onlyGivenNames t); refine (?_ : Keeps a t → _) ?_; (on_goal 2 => unfold t); (on_goal 1 => (clear_value t; intro _)))
    | ((fail_if_no_progress extract_lets +onlyGivenNames t); subst t)
    | dsimp -zeta only
    | with_reducible apply State.latchRefusal_keeps
    | with_reducible apply State.sysWrite_keeps
    | split
    | fail_if_no_progress (with_reducible refine Keeps.upd ?_ rfl rfl rfl rfl rfl rfl)

/-- State.heReport keeps what every operation keeps. -/
theorem State.heReport_keeps {a s : State} {x1} (h : Keeps a s) : Keeps a (State.heReport s x1) := by
  unfold State.heReport
  repeat' first
    | with_reducible assumption
    | ((fail_if_no_progress extract_lets +onlyGivenNames t); refine (?_ : Keeps a t → _) ?_; (on_goal 2 => unfold t); (on_goal 1 => (clear_value t; intro _)))
    | ((fail_if_no_progress extract_lets +onlyGivenNames t); subst t)
    | dsimp -zeta only
    | with_reducible apply Keeps.ite
    | with_reducible apply State.stepDown_keeps
    | split
    | fail_if_no_progress (with_reducible refine Keeps.upd ?_ rfl rfl rfl rfl rfl rfl)

/-- State.outputFrames keeps what every operation keeps. -/
theorem State.outputFrames_keeps {a s : State} {x1 x2 x3 x4} (h : Keeps a s) : Keeps a (State.outputFrames s x1 x2 x3 x4) := by
  unfold State.outputFrames
  repeat' first
    | with_reducible assumption
    | ((fail_if_no_progress extract_lets +onlyGivenNames t); refine (?_ : Keeps a t → _) ?_; (on_goal 2 => unfold t); (on_goal 1 => (clear_value t; intro _)))
    | ((fail_if_no_progress extract_lets +onlyGivenNames t); refine (?_ : Keeps2 a t → _) ?_; (on_goal 2 => unfold t); (on_goal 1 => (clear_value t; intro _)))
    | ((fail_if_no_progress extract_lets +onlyGivenNames t); refine (?_ : Keeps1 a t → _) ?_; (on_goal 2 => unfold t); (on_goal 1 => (clear_value t; intro _)))
    | ((fail_if_no_progress extract_lets +onlyGivenNames t); subst t)
    | dsimp -zeta only
    | with_reducible apply Keeps.ite
    | with_reducible refine State.byEngines_keeps ?_ (fun _ _ => ?_)
    | with_reducible apply State.fspSend_keeps
    | with_reducible exact Keeps1.out ‹_›
    | with_reducible apply Keeps1.mk
    | with_reducible apply Keeps1.ite
    | with_reducible refine Keeps1.foldl ?_ (fun _ _ _ => ?_)
    | with_reducible refine Keeps1.out ?_
    | with_reducible exact Keeps2.out ‹_›
    | with_reducible apply Keeps2.mk
    | with_reducible apply Keeps2.ite
    | with_reducible refine Keeps2.foldl ?_ (fun _ _ _ => ?_)
    | with_reducible refine Keeps2.out ?_
    | with_reducible refine Keeps.foldl ?_ (fun _ _ _ => ?_)
    | split
    | fail_if_no_progress (with_reducible refine Keeps.upd ?_ rfl rfl rfl rfl rfl rfl)

/-- State.peerFrames keeps what every operation keeps. -/
theorem State.peerFrames_keeps {a s : State} {x1 x2} (h : Keeps a s) : Keeps a (State.peerFrames s x1 x2) := by
  unfold State.peerFrames
  repeat' first
    | with_reducible assumption
    | dsimp -zeta only
    | with_reducible apply Keeps.ite
    | with_reducible refine State.byEngines_keeps ?_ (fun _ _ => ?_)
    | with_reducible apply State.fspSend_keeps
    | with_reducible exact Keeps1.out ‹_›
    | with_reducible apply Keeps1.mk
    | with_reducible apply Keeps1.ite
    | with_reducible refine Keeps1.foldl ?_ (fun _ _ _ => ?_)
    | with_reducible refine Keeps1.out ?_
    | with_reducible exact Keeps2.out ‹_›
    | with_reducible apply Keeps2.mk
    | with_reducible apply Keeps2.ite
    | with_reducible refine Keeps2.foldl ?_ (fun _ _ _ => ?_)
    | with_reducible refine Keeps2.out ?_
    | with_reducible refine Keeps.foldl ?_ (fun _ _ _ => ?_)
    | split

/-- State.modDom keeps what every operation keeps. -/
theorem State.modDom_keeps {a s : State} {x1 x2} (h : Keeps a s) : Keeps a (State.modDom s x1 x2) := by
  unfold State.modDom
  repeat' first
    | with_reducible assumption
    | ((fail_if_no_progress extract_lets +onlyGivenNames t); refine (?_ : Keeps a t → _) ?_; (on_goal 2 => unfold t); (on_goal 1 => (clear_value t; intro _)))
    | ((fail_if_no_progress extract_lets +onlyGivenNames t); subst t)
    | dsimp -zeta only
    | fail_if_no_progress (with_reducible refine Keeps.upd ?_ rfl rfl rfl rfl rfl rfl)

/-- State.domSwitch keeps what every operation keeps. -/
theorem State.domSwitch_keeps {a s : State} {x1} (h : Keeps a s) : Keeps a (State.domSwitch s x1) := by
  unfold State.domSwitch
  repeat' first
    | with_reducible assumption
    | dsimp -zeta only
    | with_reducible apply Keeps.ite
    | with_reducible apply State.bump_keeps
    | with_reducible apply State.setF_keeps
    | split

/-- State.domChoose keeps what every operation keeps. -/
theorem State.domChoose_keeps {a s : State} {x1} (h : Keeps a s) : Keeps a (State.domChoose s x1) := by
  unfold State.domChoose
  repeat' first
    | with_reducible assumption
    | ((fail_if_no_progress extract_lets +onlyGivenNames t); refine (?_ : Keeps a t → _) ?_; (on_goal 2 => unfold t); (on_goal 1 => (clear_value t; intro _)))
    | ((fail_if_no_progress extract_lets +onlyGivenNames t); subst t)
    | dsimp -zeta only
    | with_reducible apply State.share_keeps
    | with_reducible apply State.domSwitch_keeps
    | split
    | fail_if_no_progress (with_reducible refine Keeps.upd ?_ rfl rfl rfl rfl rfl rfl)

/-- State.domCheck keeps what every operation keeps. -/
theorem State.domCheck_keeps {a s : State} (h : Keeps a s) : Keeps a (State.domCheck s) := by
  unfold State.domCheck
  repeat' first
    | with_reducible assumption
    | ((fail_if_no_progress extract_lets +onlyGivenNames t); refine (?_ : Keeps a t → _) ?_; (on_goal 2 => unfold t); (on_goal 1 => (clear_value t; intro _)))
    | ((fail_if_no_progress extract_lets +onlyGivenNames t); subst t)
    | dsimp -zeta only
    | with_reducible apply Keeps.ite
    | with_reducible apply State.setF_keeps
    | with_reducible apply State.domChoose_keeps
    | split

/-- State.boundary keeps what every operation keeps. -/
theorem State.boundary_keeps {a s : State} {x1 x2 x3} (h : Keeps a s) : Keeps a (State.boundary s x1 x2 x3) := by
  unfold State.boundary
  repeat' first
    | with_reducible assumption
    | ((fail_if_no_progress extract_lets +onlyGivenNames t); refine (?_ : Keeps a t → _) ?_; (on_goal 2 => unfold t); (on_goal 1 => (clear_value t; intro _)))
    | ((fail_if_no_progress extract_lets +onlyGivenNames t); subst t)
    | dsimp -zeta only
    | with_reducible apply Keeps.ite
    | with_reducible apply State.emit_keeps
    | split

/-- State.cmdTimSwitch keeps what every operation keeps. -/
theorem State.cmdTimSwitch_keeps {a s : State} {x1} (h : Keeps a s) : Keeps a (State.cmdTimSwitch s x1) := by
  unfold State.cmdTimSwitch
  repeat' first
    | with_reducible assumption
    | ((fail_if_no_progress extract_lets +onlyGivenNames t); refine (?_ : Keeps a t → _) ?_; (on_goal 2 => unfold t); (on_goal 1 => (clear_value t; intro _)))
    | ((fail_if_no_progress extract_lets +onlyGivenNames t); subst t)
    | dsimp -zeta only
    | with_reducible apply Keeps.ite
    | with_reducible apply State.ignored_keeps
    | with_reducible apply State.domChoose_keeps
    | split

/-- State.cmdPnePortcfgWrite keeps what every operation keeps. -/
theorem State.cmdPnePortcfgWrite_keeps {a s : State} {x1 x2} (h : Keeps a s) : Keeps a (State.cmdPnePortcfgWrite s x1 x2) := by
  unfold State.cmdPnePortcfgWrite
  repeat' first
    | with_reducible assumption
    | ((fail_if_no_progress extract_lets +onlyGivenNames t); refine (?_ : Keeps a t → _) ?_; (on_goal 2 => unfold t); (on_goal 1 => (clear_value t; intro _)))
    | ((fail_if_no_progress extract_lets +onlyGivenNames t); refine (?_ : Keeps2 a t → _) ?_; (on_goal 2 => unfold t); (on_goal 1 => (clear_value t; intro _)))
    | ((fail_if_no_progress extract_lets +onlyGivenNames t); refine (?_ : Keeps1 a t → _) ?_; (on_goal 2 => unfold t); (on_goal 1 => (clear_value t; intro _)))
    | ((fail_if_no_progress extract_lets +onlyGivenNames t); subst t)
    | dsimp -zeta only
    | with_reducible apply Keeps.ite
    | with_reducible apply State.ignored_keeps
    | with_reducible apply State.setLater_keeps
    | with_reducible exact Keeps1.out ‹_›
    | with_reducible apply Keeps1.mk
    | with_reducible apply Keeps1.ite
    | with_reducible refine Keeps1.foldl ?_ (fun _ _ _ => ?_)
    | with_reducible refine Keeps1.out ?_
    | with_reducible exact Keeps2.out ‹_›
    | with_reducible apply Keeps2.mk
    | with_reducible apply Keeps2.ite
    | with_reducible refine Keeps2.foldl ?_ (fun _ _ _ => ?_)
    | with_reducible refine Keeps2.out ?_
    | with_reducible refine Keeps.foldl ?_ (fun _ _ _ => ?_)
    | split

/-- State.cmdPulseArm keeps what every operation keeps. -/
theorem State.cmdPulseArm_keeps {a s : State} {x1} (h : Keeps a s) : Keeps a (State.cmdPulseArm s x1) := by
  unfold State.cmdPulseArm
  repeat' first
    | with_reducible assumption
    | ((fail_if_no_progress extract_lets +onlyGivenNames t); refine (?_ : Keeps a t → _) ?_; (on_goal 2 => unfold t); (on_goal 1 => (clear_value t; intro _)))
    | ((fail_if_no_progress extract_lets +onlyGivenNames t); subst t)
    | dsimp -zeta only
    | with_reducible apply Keeps.ite
    | with_reducible apply State.setF_keeps
    | with_reducible apply State.ignored_keeps
    | with_reducible apply State.emit_keeps
    | split
    | fail_if_no_progress (with_reducible refine Keeps.upd ?_ rfl rfl rfl rfl rfl rfl)

/-- State.cmdPulseStop keeps what every operation keeps. -/
theorem State.cmdPulseStop_keeps {a s : State} {x1} (h : Keeps a s) : Keeps a (State.cmdPulseStop s x1) := by
  unfold State.cmdPulseStop
  repeat' first
    | with_reducible assumption
    | ((fail_if_no_progress extract_lets +onlyGivenNames t); refine (?_ : Keeps a t → _) ?_; (on_goal 2 => unfold t); (on_goal 1 => (clear_value t; intro _)))
    | ((fail_if_no_progress extract_lets +onlyGivenNames t); subst t)
    | dsimp -zeta only
    | with_reducible apply State.emit_keeps
    | split
    | fail_if_no_progress (with_reducible refine Keeps.upd ?_ rfl rfl rfl rfl rfl rfl)

/-- State.capPut keeps what every operation keeps. -/
theorem State.capPut_keeps {a s : State} {x1} (h : Keeps a s) : Keeps a (State.capPut s x1) := by
  unfold State.capPut
  repeat' first
    | with_reducible assumption
    | ((fail_if_no_progress extract_lets +onlyGivenNames t); refine (?_ : Keeps a t → _) ?_; (on_goal 2 => unfold t); (on_goal 1 => (clear_value t; intro _)))
    | ((fail_if_no_progress extract_lets +onlyGivenNames t); subst t)
    | dsimp -zeta only
    | with_reducible apply Keeps.ite
    | with_reducible apply State.bump_keeps
    | with_reducible refine State.ringPut_keeps ?_ (fun _ _ => ?_)
    | with_reducible apply State.wrapUp_keeps
    | split

/-- State.measStop keeps what every operation keeps. -/
theorem State.measStop_keeps {a s : State} {x1 x2 x3 x4} (h : Keeps a s) : Keeps a (State.measStop s x1 x2 x3 x4) := by
  unfold State.measStop
  repeat' first
    | with_reducible assumption
    | ((fail_if_no_progress extract_lets +onlyGivenNames t); refine (?_ : Keeps a t → _) ?_; (on_goal 2 => unfold t); (on_goal 1 => (clear_value t; intro _)))
    | ((fail_if_no_progress extract_lets +onlyGivenNames t); refine (?_ : Keeps2 a t → _) ?_; (on_goal 2 => unfold t); (on_goal 1 => (clear_value t; intro _)))
    | ((fail_if_no_progress extract_lets +onlyGivenNames t); subst t)
    | dsimp -zeta only
    | with_reducible apply Keeps.ite
    | with_reducible apply State.free_keeps
    | with_reducible refine Keeps2.out (State.free_keeps ?_)
    | with_reducible apply State.capPut_keeps
    | with_reducible apply State.bump_keeps
    | with_reducible exact Keeps2.out ‹_›
    | with_reducible apply Keeps2.mk
    | with_reducible apply Keeps2.ite
    | split
    | with_reducible refine Keeps.of2 ‹_› ?_
    | fail_if_no_progress (with_reducible refine Keeps.upd ?_ rfl rfl rfl rfl rfl rfl)

/-- State.tailWrite keeps what every operation keeps. -/
theorem State.tailWrite_keeps {a s : State} {x1 x2 x3 x4 x5 x6} (h : Keeps a s) : Keeps a (State.tailWrite s x1 x2 x3 x4 x5 x6) := by
  unfold State.tailWrite
  repeat' first
    | with_reducible assumption
    | ((fail_if_no_progress extract_lets +onlyGivenNames t); refine (?_ : Keeps a t → _) ?_; (on_goal 2 => unfold t); (on_goal 1 => (clear_value t; intro _)))
    | ((fail_if_no_progress extract_lets +onlyGivenNames t); subst t)
    | dsimp -zeta only
    | with_reducible apply Keeps.ite
    | with_reducible apply State.ignored_keeps
    | with_reducible apply State.setLater_keeps
    | split
    | fail_if_no_progress (with_reducible refine Keeps.upd ?_ rfl rfl rfl rfl rfl rfl)

/-! ### Machine/Fsl.lean -/

/-- State.modConn keeps what every operation keeps. -/
theorem State.modConn_keeps {a s : State} {x1 x2} (h : Keeps a s) : Keeps a (State.modConn s x1 x2) := by
  unfold State.modConn
  repeat' first
    | with_reducible assumption
    | ((fail_if_no_progress extract_lets +onlyGivenNames t); refine (?_ : Keeps a t → _) ?_; (on_goal 2 => unfold t); (on_goal 1 => (clear_value t; intro _)))
    | ((fail_if_no_progress extract_lets +onlyGivenNames t); subst t)
    | dsimp -zeta only
    | fail_if_no_progress (with_reducible refine Keeps.upd ?_ rfl rfl rfl rfl rfl rfl)

/-- State.connAck keeps what every operation keeps. -/
theorem State.connAck_keeps {a s : State} {x1} (h : Keeps a s) : Keeps a (State.connAck s x1) := by
  unfold State.connAck
  repeat' first
    | with_reducible assumption
    | ((fail_if_no_progress extract_lets +onlyGivenNames t); refine (?_ : Keeps a t → _) ?_; (on_goal 2 => unfold t); (on_goal 1 => (clear_value t; intro _)))
    | ((fail_if_no_progress extract_lets +onlyGivenNames t); subst t)
    | dsimp -zeta only
    | with_reducible apply Keeps.ite
    | with_reducible apply State.modConn_keeps
    | split

/-- State.pduDrop keeps what every operation keeps. -/
theorem State.pduDrop_keeps {a s : State} {x1 x2} (h : Keeps a s) : Keeps a (State.pduDrop s x1 x2) := by
  unfold State.pduDrop
  repeat' first
    | with_reducible assumption
    | ((fail_if_no_progress extract_lets +onlyGivenNames t); refine (?_ : Keeps a t → _) ?_; (on_goal 2 => unfold t); (on_goal 1 => (clear_value t; intro _)))
    | ((fail_if_no_progress extract_lets +onlyGivenNames t); subst t)
    | dsimp -zeta only
    | with_reducible apply State.modConn_keeps
    | with_reducible apply State.bump_keeps
    | split

/-- State.pduAccept keeps what every operation keeps. -/
theorem State.pduAccept_keeps {a s : State} {x1 x2 x3 x4 x5} (h : Keeps a s) : Keeps a (State.pduAccept s x1 x2 x3 x4 x5) := by
  unfold State.pduAccept
  repeat' first
    | with_reducible assumption
    | ((fail_if_no_progress extract_lets +onlyGivenNames t); refine (?_ : Keeps a t → _) ?_; (on_goal 2 => unfold t); (on_goal 1 => (clear_value t; intro _)))
    | ((fail_if_no_progress extract_lets +onlyGivenNames t); subst t)
    | dsimp -zeta only
    | with_reducible apply Keeps.ite
    | with_reducible apply State.setB_keeps
    | with_reducible apply State.bump_keeps
    | with_reducible apply State.modConn_keeps
    | with_reducible apply State.setF_keeps
    | with_reducible apply State.connAck_keeps
    | split
    | fail_if_no_progress (with_reducible refine Keeps.upd ?_ rfl rfl rfl rfl rfl rfl)

/-- State.pduTake keeps what every operation keeps. -/
theorem State.pduTake_keeps {a s : State} {x1 x2} (h : Keeps a s) : Keeps a (State.pduTake s x1 x2) := by
  unfold State.pduTake
  repeat' first
    | with_reducible assumption
    | ((fail_if_no_progress extract_lets +onlyGivenNames t); refine (?_ : Keeps a t → _) ?_; (on_goal 2 => unfold t); (on_goal 1 => (clear_value t; intro _)))
    | ((fail_if_no_progress extract_lets +onlyGivenNames t); subst t)
    | dsimp -zeta only
    | with_reducible apply Keeps.ite
    | with_reducible apply State.pduDrop_keeps
    | with_reducible apply State.fnJudgeAll_keeps
    | with_reducible apply State.pduAccept_keeps
    | split

/-- State.fslCommit keeps what every operation keeps. -/
theorem State.fslCommit_keeps {a s : State} {x1 x2 x3 x4 x5} (h : Keeps a s) : Keeps a (State.fslCommit s x1 x2 x3 x4 x5) := by
  unfold State.fslCommit
  repeat' first
    | with_reducible assumption
    | ((fail_if_no_progress extract_lets +onlyGivenNames t); refine (?_ : Keeps a t → _) ?_; (on_goal 2 => unfold t); (on_goal 1 => (clear_value t; intro _)))
    | ((fail_if_no_progress extract_lets +onlyGivenNames t); refine (?_ : Keeps2 a t → _) ?_; (on_goal 2 => unfold t); (on_goal 1 => (clear_value t; intro _)))
    | ((fail_if_no_progress extract_lets +onlyGivenNames t); refine (?_ : Keeps1 a t → _) ?_; (on_goal 2 => unfold t); (on_goal 1 => (clear_value t; intro _)))
    | ((fail_if_no_progress extract_lets +onlyGivenNames t); subst t)
    | dsimp -zeta only
    | with_reducible apply Keeps.ite
    | with_reducible apply State.connAck_keeps
    | with_reducible apply State.fspSend_keeps
    | with_reducible apply State.emit_keeps
    | with_reducible exact Keeps1.out ‹_›
    | with_reducible apply Keeps1.mk
    | with_reducible apply Keeps1.ite
    | with_reducible refine Keeps1.foldl ?_ (fun _ _ _ => ?_)
    | with_reducible refine Keeps1.out ?_
    | with_reducible exact Keeps2.out ‹_›
    | with_reducible apply Keeps2.mk
    | with_reducible apply Keeps2.ite
    | with_reducible refine Keeps2.foldl ?_ (fun _ _ _ => ?_)
    | with_reducible refine Keeps2.out ?_
    | with_reducible refine Keeps.foldl ?_ (fun _ _ _ => ?_)
    | split

/-! ### Machine/Commit.lean -/

/-- State.flip keeps what every operation keeps. -/
theorem State.flip_keeps {a s : State} {x1 x2 x3} (h : Keeps a s) : Keeps a (State.flip s x1 x2 x3) := by
  unfold State.flip
  extract_lets ps old bad mem poison snap l sq
  have hm : Memory.wf s.sq.mem = true → Memory.wf mem = true := by
    intro e
    refine Memory.wf_memLay _ _ ?_
    show Memory.wf old = true
    cases x3 with
    | none => exact e
    | some f => exact Memory.wf_memLay _ _ (Memory.wf_filter _ _ e)
  clear_value mem poison snap l
  exact Keeps.updMem h rfl rfl rfl (Nat.le_refl _) hm rfl

/-- State.histTake keeps what every operation keeps. -/
theorem State.histTake_keeps {a s : State} {x1 x2 x3 x4} (h : Keeps a s) : Keeps2 a (State.histTake s x1 x2 x3 x4) := by
  unfold State.histTake
  repeat' first
    | with_reducible assumption
    | ((fail_if_no_progress extract_lets +onlyGivenNames t); refine (?_ : Keeps a t → _) ?_; (on_goal 2 => unfold t); (on_goal 1 => (clear_value t; intro _)))
    | ((fail_if_no_progress extract_lets +onlyGivenNames t); refine (?_ : Keeps2 a t → _) ?_; (on_goal 2 => unfold t); (on_goal 1 => (clear_value t; intro _)))
    | ((fail_if_no_progress extract_lets +onlyGivenNames t); refine (?_ : Keeps1 a t → _) ?_; (on_goal 2 => unfold t); (on_goal 1 => (clear_value t; intro _)))
    | ((fail_if_no_progress extract_lets +onlyGivenNames t); subst t)
    | dsimp -zeta only
    | with_reducible apply Keeps.ite
    | with_reducible exact Keeps2.out ‹_›
    | with_reducible apply Keeps2.mk
    | with_reducible apply Keeps2.ite
    | with_reducible refine Keeps2.foldl ?_ (fun _ _ _ => ?_)
    | with_reducible refine Keeps2.out ?_
    | with_reducible refine Keeps.foldl ?_ (fun _ _ _ => ?_)
    | split
    | fail_if_no_progress (with_reducible refine Keeps.upd ?_ rfl rfl rfl rfl rfl rfl)

/-- State.sendPacket keeps what every operation keeps. -/
theorem State.sendPacket_keeps {a s : State} {x1 x2 x3 x4 x5 x6 x7 x8 x9} (h : Keeps a s) : Keeps a (State.sendPacket s x1 x2 x3 x4 x5 x6 x7 x8 x9) := by
  unfold State.sendPacket
  repeat' first
    | with_reducible assumption
    | ((fail_if_no_progress extract_lets +onlyGivenNames t); refine (?_ : Keeps a t → _) ?_; (on_goal 2 => unfold t); (on_goal 1 => (clear_value t; intro _)))
    | ((fail_if_no_progress extract_lets +onlyGivenNames t); subst t)
    | dsimp -zeta only
    | with_reducible apply State.emit_keeps
    | fail_if_no_progress (with_reducible refine Keeps.upd ?_ rfl rfl rfl rfl rfl rfl)

/-- State.takeSetup keeps what every operation keeps. -/
theorem State.takeSetup_keeps {a s : State} (h : Keeps a s) : Keeps2 a (State.takeSetup s) := by
  unfold State.takeSetup
  repeat' first
    | with_reducible assumption
    | ((fail_if_no_progress extract_lets +onlyGivenNames t); refine (?_ : Keeps a t → _) ?_; (on_goal 2 => unfold t); (on_goal 1 => (clear_value t; intro _)))
    | ((fail_if_no_progress extract_lets +onlyGivenNames t); subst t)
    | dsimp -zeta only
    | with_reducible apply Keeps.ite
    | with_reducible apply State.carriedOut_keeps
    | with_reducible exact Keeps2.out ‹_›
    | with_reducible apply Keeps2.mk
    | with_reducible apply Keeps2.ite
    | split
    | fail_if_no_progress (with_reducible refine Keeps.upd ?_ rfl rfl rfl rfl rfl rfl)

/-- State.driveOne keeps what every operation keeps. -/
theorem State.driveOne_keeps {a s : State} {x1 x2} (h : Keeps a s) : Keeps a (State.driveOne s x1 x2) := by
  unfold State.driveOne
  repeat' first
    | with_reducible assumption
    | dsimp -zeta only
    | with_reducible apply Keeps.ite
    | with_reducible apply State.dioCommit_keeps
    | with_reducible apply State.aoCommit_keeps
    | split

/-- State.driveOwn keeps what every operation keeps. -/
theorem State.driveOwn_keeps {a s : State} {x1} (h : Keeps a s) : Keeps a (State.driveOwn s x1) := by
  unfold State.driveOwn
  repeat' first
    | with_reducible assumption
    | dsimp -zeta only
    | with_reducible apply State.driveOne_keeps
    | with_reducible exact Keeps1.out ‹_›
    | with_reducible apply Keeps1.mk
    | with_reducible refine Keeps1.foldl ?_ (fun _ _ _ => ?_)
    | with_reducible refine Keeps1.out ?_
    | with_reducible exact Keeps2.out ‹_›
    | with_reducible apply Keeps2.mk
    | with_reducible refine Keeps2.foldl ?_ (fun _ _ _ => ?_)
    | with_reducible refine Keeps2.out ?_
    | with_reducible refine Keeps.foldl ?_ (fun _ _ _ => ?_)

/-- State.driveCommit keeps what every operation keeps. -/
theorem State.driveCommit_keeps {a s : State} {x1 x2 x3} (h : Keeps a s) : Keeps a (State.driveCommit s x1 x2 x3) := by
  unfold State.driveCommit
  repeat' first
    | with_reducible assumption
    | ((fail_if_no_progress extract_lets +onlyGivenNames t); refine (?_ : Keeps a t → _) ?_; (on_goal 2 => unfold t); (on_goal 1 => (clear_value t; intro _)))
    | ((fail_if_no_progress extract_lets +onlyGivenNames t); subst t)
    | dsimp -zeta only
    | with_reducible apply Keeps.ite
    | with_reducible apply State.modTask_keeps
    | with_reducible apply State.driveOwn_keeps
    | with_reducible apply State.outputFrames_keeps
    | with_reducible apply State.peerFrames_keeps
    | with_reducible apply State.fslCommit_keeps
    | with_reducible apply State.canCommit_keeps
    | split

/-- State.cyclePacket keeps what every operation keeps. -/
theorem State.cyclePacket_keeps {a s : State} {x1 x2 x3 x4 x5 x6 x7 x8} (h : Keeps a s) : Keeps a (State.cyclePacket s x1 x2 x3 x4 x5 x6 x7 x8) := by
  unfold State.cyclePacket
  repeat' first
    | with_reducible assumption
    | ((fail_if_no_progress extract_lets +onlyGivenNames t); refine (?_ : Keeps a t → _) ?_; (on_goal 2 => unfold t); (on_goal 1 => (clear_value t; intro _)))
    | ((fail_if_no_progress extract_lets +onlyGivenNames t); refine (?_ : Keeps2 a t → _) ?_; (on_goal 2 => unfold t); (on_goal 1 => (clear_value t; intro _)))
    | ((fail_if_no_progress extract_lets +onlyGivenNames t); subst t)
    | dsimp -zeta only
    | with_reducible apply Keeps.ite
    | with_reducible refine State.byEngines_keeps ?_ (fun _ _ => ?_)
    | with_reducible apply State.takeSetup_keeps
    | with_reducible refine Keeps2.out (State.takeSetup_keeps ?_)
    | with_reducible apply State.sendPacket_keeps
    | with_reducible exact Keeps2.out ‹_›
    | with_reducible apply Keeps2.mk
    | with_reducible apply Keeps2.ite
    | split
    | fail_if_no_progress (with_reducible refine Keeps.upd ?_ rfl rfl rfl rfl rfl rfl)

/-- State.commitTail keeps what every operation keeps. -/
theorem State.commitTail_keeps {a s : State} {x1 x2 x3 x4} (h : Keeps a s) : Keeps a (State.commitTail s x1 x2 x3 x4) := by
  unfold State.commitTail
  repeat' first
    | with_reducible assumption
    | ((fail_if_no_progress extract_lets +onlyGivenNames t); refine (?_ : Keeps a t → _) ?_; (on_goal 2 => unfold t); (on_goal 1 => (clear_value t; intro _)))
    | ((fail_if_no_progress extract_lets +onlyGivenNames t); refine (?_ : Keeps2 a t → _) ?_; (on_goal 2 => unfold t); (on_goal 1 => (clear_value t; intro _)))
    | ((fail_if_no_progress extract_lets +onlyGivenNames t); refine (?_ : Keeps1 a t → _) ?_; (on_goal 2 => unfold t); (on_goal 1 => (clear_value t; intro _)))
    | ((fail_if_no_progress extract_lets +onlyGivenNames t); subst t)
    | dsimp -zeta only
    | with_reducible apply Keeps.ite
    | with_reducible apply State.histTake_keeps
    | with_reducible refine Keeps2.out (State.histTake_keeps ?_)
    | with_reducible apply State.arcCommit_keeps
    | with_reducible apply State.event_keeps
    | with_reducible apply State.cyclePacket_keeps
    | with_reducible apply State.driveCommit_keeps
    | with_reducible apply State.ask_keeps
    | with_reducible apply State.canHandOver_keeps
    | with_reducible apply State.fnCommit_keeps
    | with_reducible apply State.identify_keeps
    | with_reducible apply State.subsCommit_keeps
    | with_reducible apply State.setAck_keeps
    | with_reducible apply State.hostAdvance_keeps
    | with_reducible exact Keeps2.out ‹_›
    | with_reducible apply Keeps2.mk
    | with_reducible apply Keeps2.ite
    | with_reducible refine Keeps2.foldl ?_ (fun _ _ _ => ?_)
    | with_reducible refine Keeps2.out ?_
    | with_reducible refine Keeps.foldl ?_ (fun _ _ _ => ?_)
    | split
    | with_reducible refine Keeps.of2 ‹_› ?_
    | fail_if_no_progress (with_reducible refine Keeps.upd ?_ rfl rfl rfl rfl rfl rfl)

/-- State.commitCore keeps what every operation keeps. -/
theorem State.commitCore_keeps {a s : State} {x1 x2} (h : Keeps a s) : Keeps a (State.commitCore s x1 x2) := by
  unfold State.commitCore
  repeat' first
    | with_reducible assumption
    | ((fail_if_no_progress extract_lets +onlyGivenNames t); refine (?_ : Keeps a t → _) ?_; (on_goal 2 => unfold t); (on_goal 1 => (clear_value t; intro _)))
    | ((fail_if_no_progress extract_lets +onlyGivenNames t); subst t)
    | dsimp -zeta only
    | with_reducible apply State.commitTail_keeps
    | with_reducible apply State.dualWrite_keeps
    | with_reducible apply State.flip_keeps
    | fail_if_no_progress (with_reducible refine Keeps.upd ?_ rfl rfl rfl rfl rfl rfl)

/-! ### Machine/Lanes.lean -/

/-- State.laneCounts keeps what every operation keeps. -/
theorem State.laneCounts_keeps {a s : State} (h : Keeps a s) : Keeps a (State.laneCounts s) := by
  unfold State.laneCounts
  repeat' first
    | with_reducible assumption
    | ((fail_if_no_progress extract_lets +onlyGivenNames t); refine (?_ : Keeps a t → _) ?_; (on_goal 2 => unfold t); (on_goal 1 => (clear_value t; intro _)))
    | ((fail_if_no_progress extract_lets +onlyGivenNames t); subst t)
    | dsimp -zeta only
    | with_reducible apply State.setF_keeps

/-- State.laneShortage keeps what every operation keeps. -/
theorem State.laneShortage_keeps {a s : State} (h : Keeps a s) : Keeps a (State.laneShortage s) := by
  unfold State.laneShortage
  repeat' first
    | with_reducible assumption
    | ((fail_if_no_progress extract_lets +onlyGivenNames t); refine (?_ : Keeps a t → _) ?_; (on_goal 2 => unfold t); (on_goal 1 => (clear_value t; intro _)))
    | ((fail_if_no_progress extract_lets +onlyGivenNames t); refine (?_ : Keeps2 a t → _) ?_; (on_goal 2 => unfold t); (on_goal 1 => (clear_value t; intro _)))
    | ((fail_if_no_progress extract_lets +onlyGivenNames t); subst t)
    | dsimp -zeta only
    | with_reducible apply Keeps.ite
    | with_reducible apply State.laneCounts_keeps
    | with_reducible apply State.setB_keeps
    | with_reducible apply State.switchRequest_keeps
    | with_reducible refine Keeps2.out (State.switchRequest_keeps ?_)
    | with_reducible exact Keeps2.out ‹_›
    | with_reducible apply Keeps2.mk
    | with_reducible apply Keeps2.ite
    | split

/-- State.freeLane keeps what every operation keeps. -/
theorem State.freeLane_keeps {a s : State} {x1} (h : Keeps a s) : Keeps a (State.freeLane s x1) := by
  unfold State.freeLane
  repeat' first
    | with_reducible assumption
    | ((fail_if_no_progress extract_lets +onlyGivenNames t); refine (?_ : Keeps a t → _) ?_; (on_goal 2 => unfold t); (on_goal 1 => (clear_value t; intro _)))
    | ((fail_if_no_progress extract_lets +onlyGivenNames t); subst t)
    | dsimp -zeta only
    | with_reducible apply Keeps.ite
    | split
    | fail_if_no_progress (with_reducible refine Keeps.upd ?_ rfl rfl rfl rfl rfl rfl)

/-- State.retireLane keeps what every operation keeps. -/
theorem State.retireLane_keeps {a s : State} {x1} (h : Keeps a s) : Keeps a (State.retireLane s x1) := by
  unfold State.retireLane
  repeat' first
    | with_reducible assumption
    | ((fail_if_no_progress extract_lets +onlyGivenNames t); refine (?_ : Keeps a t → _) ?_; (on_goal 2 => unfold t); (on_goal 1 => (clear_value t; intro _)))
    | ((fail_if_no_progress extract_lets +onlyGivenNames t); subst t)
    | dsimp -zeta only
    | with_reducible apply Keeps.ite
    | with_reducible apply State.setF_keeps
    | with_reducible apply State.freeLane_keeps
    | with_reducible apply State.modLane_keeps
    | with_reducible apply State.evHw_keeps
    | with_reducible apply State.laneShortage_keeps
    | split

/-- State.quarantine keeps what every operation keeps. -/
theorem State.quarantine_keeps {a s : State} {x1} (h : Keeps a s) : Keeps a (State.quarantine s x1) := by
  unfold State.quarantine
  repeat' first
    | with_reducible assumption
    | ((fail_if_no_progress extract_lets +onlyGivenNames t); refine (?_ : Keeps a t → _) ?_; (on_goal 2 => unfold t); (on_goal 1 => (clear_value t; intro _)))
    | ((fail_if_no_progress extract_lets +onlyGivenNames t); subst t)
    | dsimp -zeta only
    | with_reducible apply State.modLane_keeps
    | with_reducible apply State.setF_keeps
    | with_reducible apply State.freeLane_keeps

/-- State.withdraw keeps what every operation keeps. -/
theorem State.withdraw_keeps {a s : State} {x1 x2} (h : Keeps a s) : Keeps a (State.withdraw s x1 x2) := by
  unfold State.withdraw
  repeat' first
    | with_reducible assumption
    | ((fail_if_no_progress extract_lets +onlyGivenNames t); refine (?_ : Keeps a t → _) ?_; (on_goal 2 => unfold t); (on_goal 1 => (clear_value t; intro _)))
    | ((fail_if_no_progress extract_lets +onlyGivenNames t); subst t)
    | dsimp -zeta only
    | with_reducible apply Keeps.ite
    | with_reducible apply State.retireLane_keeps
    | with_reducible apply State.setF_keeps
    | with_reducible apply State.quarantine_keeps
    | with_reducible apply State.laneCounts_keeps
    | with_reducible apply State.modLane_keeps
    | split

/-- State.parkQuarter keeps what every operation keeps. -/
theorem State.parkQuarter_keeps {a s : State} {x1} (h : Keeps a s) : Keeps a (State.parkQuarter s x1) := by
  unfold State.parkQuarter
  repeat' first
    | with_reducible assumption
    | ((fail_if_no_progress extract_lets +onlyGivenNames t); refine (?_ : Keeps a t → _) ?_; (on_goal 2 => unfold t); (on_goal 1 => (clear_value t; intro _)))
    | ((fail_if_no_progress extract_lets +onlyGivenNames t); refine (?_ : Keeps2 a t → _) ?_; (on_goal 2 => unfold t); (on_goal 1 => (clear_value t; intro _)))
    | ((fail_if_no_progress extract_lets +onlyGivenNames t); refine (?_ : Keeps1 a t → _) ?_; (on_goal 2 => unfold t); (on_goal 1 => (clear_value t; intro _)))
    | ((fail_if_no_progress extract_lets +onlyGivenNames t); subst t)
    | dsimp -zeta only
    | with_reducible apply Keeps.ite
    | with_reducible apply State.setF_keeps
    | with_reducible apply State.quarantine_keeps
    | with_reducible apply State.laneShortage_keeps
    | with_reducible apply State.evHw_keeps
    | with_reducible exact Keeps1.out ‹_›
    | with_reducible apply Keeps1.mk
    | with_reducible apply Keeps1.ite
    | with_reducible refine Keeps1.foldl ?_ (fun _ _ _ => ?_)
    | with_reducible refine Keeps1.out ?_
    | with_reducible exact Keeps2.out ‹_›
    | with_reducible apply Keeps2.mk
    | with_reducible apply Keeps2.ite
    | with_reducible refine Keeps2.foldl ?_ (fun _ _ _ => ?_)
    | with_reducible refine Keeps2.out ?_
    | with_reducible refine Keeps.foldl ?_ (fun _ _ _ => ?_)
    | split

/-- State.laneFault keeps what every operation keeps. -/
theorem State.laneFault_keeps {a s : State} {x1 x2 x3 x4 x5 x6 x7 x8} (h : Keeps a s) : Keeps a (State.laneFault s x1 x2 x3 x4 x5 x6 x7 x8) := by
  unfold State.laneFault
  repeat' first
    | with_reducible assumption
    | ((fail_if_no_progress extract_lets +onlyGivenNames t); refine (?_ : Keeps a t → _) ?_; (on_goal 2 => unfold t); (on_goal 1 => (clear_value t; intro _)))
    | ((fail_if_no_progress extract_lets +onlyGivenNames t); subst t)
    | dsimp -zeta only
    | with_reducible apply State.bump_keeps
    | with_reducible apply State.setF_keeps
    | with_reducible apply State.setB_keeps
    | with_reducible apply State.report_keeps
    | with_reducible apply State.evHw_keeps
    | with_reducible apply State.modLane_keeps
    | with_reducible apply State.parkQuarter_keeps
    | with_reducible apply State.withdraw_keeps

/-- State.fullStart keeps what every operation keeps. -/
theorem State.fullStart_keeps {a s : State} {x1} (h : Keeps a s) : Keeps a (State.fullStart s x1) := by
  unfold State.fullStart
  repeat' first
    | with_reducible assumption
    | ((fail_if_no_progress extract_lets +onlyGivenNames t); refine (?_ : Keeps a t → _) ?_; (on_goal 2 => unfold t); (on_goal 1 => (clear_value t; intro _)))
    | ((fail_if_no_progress extract_lets +onlyGivenNames t); subst t)
    | dsimp -zeta only
    | with_reducible apply Keeps.ite
    | with_reducible apply State.modLane_keeps
    | with_reducible apply State.setF_keeps
    | split

/-- State.lanesTick keeps what every operation keeps. -/
theorem State.lanesTick_keeps {a s : State} (h : Keeps a s) : Keeps a (State.lanesTick s) := by
  unfold State.lanesTick
  repeat' first
    | with_reducible assumption
    | ((fail_if_no_progress extract_lets +onlyGivenNames t); refine (?_ : Keeps a t → _) ?_; (on_goal 2 => unfold t); (on_goal 1 => (clear_value t; intro _)))
    | ((fail_if_no_progress extract_lets +onlyGivenNames t); refine (?_ : Keeps2 a t → _) ?_; (on_goal 2 => unfold t); (on_goal 1 => (clear_value t; intro _)))
    | ((fail_if_no_progress extract_lets +onlyGivenNames t); refine (?_ : Keeps1 a t → _) ?_; (on_goal 2 => unfold t); (on_goal 1 => (clear_value t; intro _)))
    | ((fail_if_no_progress extract_lets +onlyGivenNames t); subst t)
    | dsimp -zeta only
    | with_reducible apply Keeps.ite
    | with_reducible apply State.modLane_keeps
    | with_reducible apply State.setF_keeps
    | with_reducible apply State.fullStart_keeps
    | with_reducible apply State.laneCounts_keeps
    | with_reducible exact Keeps1.out ‹_›
    | with_reducible apply Keeps1.mk
    | with_reducible apply Keeps1.ite
    | with_reducible refine Keeps1.foldl ?_ (fun _ _ _ => ?_)
    | with_reducible refine Keeps1.out ?_
    | with_reducible exact Keeps2.out ‹_›
    | with_reducible apply Keeps2.mk
    | with_reducible apply Keeps2.ite
    | with_reducible refine Keeps2.foldl ?_ (fun _ _ _ => ?_)
    | with_reducible refine Keeps2.out ?_
    | with_reducible refine Keeps.foldl ?_ (fun _ _ _ => ?_)
    | split

/-! ### Machine/Cycle.lean -/

/-- State.capture1 keeps what every operation keeps. -/
theorem State.capture1_keeps {a s : State} {x1 x2 x3} (h : Keeps a s) : Keeps2 a (State.capture1 s x1 x2 x3) := by
  unfold State.capture1
  repeat' first
    | with_reducible assumption
    | ((fail_if_no_progress extract_lets +onlyGivenNames t); refine (?_ : Keeps a t → _) ?_; (on_goal 2 => unfold t); (on_goal 1 => (clear_value t; intro _)))
    | ((fail_if_no_progress extract_lets +onlyGivenNames t); subst t)
    | dsimp -zeta only
    | with_reducible apply Keeps.ite
    | with_reducible exact Keeps2.out ‹_›
    | with_reducible apply Keeps2.mk
    | with_reducible apply Keeps2.ite
    | split
    | with_reducible refine Keeps.of2 ‹_› ?_
    | fail_if_no_progress (with_reducible refine Keeps.upd ?_ rfl rfl rfl rfl rfl rfl)

/-- State.captureMeet keeps what every operation keeps. -/
theorem State.captureMeet_keeps {a s : State} {x1 x2} (h : Keeps a s) : Keeps a (State.captureMeet s x1 x2) := by
  unfold State.captureMeet
  repeat' first
    | with_reducible assumption
    | dsimp -zeta only
    | with_reducible apply State.meet_keeps
    | split

/-- State.captureAll keeps what every operation keeps. -/
theorem State.captureAll_keeps {a s : State} {x1 x2} (h : Keeps a s) : Keeps2 a (State.captureAll s x1 x2) := by
  unfold State.captureAll
  split
  · exact Keeps2.mk (State.latchRefusal_keeps h)
  · refine Keeps2.foldl (Keeps2.mk h) (fun p x hp => ?_)
    split
    · exact hp
    · exact Keeps2.mk (Keeps2.out (State.capture1_keeps (State.captureMeet_keeps (Keeps2.out hp))))

/-- State.specRelease keeps what every operation keeps. -/
theorem State.specRelease_keeps {a s : State} {x1} (h : Keeps a s) : Keeps a (State.specRelease s x1) := by
  unfold State.specRelease
  repeat' first
    | with_reducible assumption
    | ((fail_if_no_progress extract_lets +onlyGivenNames t); refine (?_ : Keeps a t → _) ?_; (on_goal 2 => unfold t); (on_goal 1 => (clear_value t; intro _)))
    | ((fail_if_no_progress extract_lets +onlyGivenNames t); subst t)
    | dsimp -zeta only
    | with_reducible apply Keeps.ite
    | with_reducible apply State.specState_keeps
    | with_reducible apply State.setF_keeps
    | with_reducible apply State.modTask_keeps
    | split

/-- State.release keeps what every operation keeps. -/
theorem State.release_keeps {a s : State} {x1 x2 x3} (h : Keeps a s) : Keeps a (State.release s x1 x2 x3) := by
  unfold State.release
  repeat' first
    | with_reducible assumption
    | ((fail_if_no_progress extract_lets +onlyGivenNames t); refine (?_ : Keeps a t → _) ?_; (on_goal 2 => unfold t); (on_goal 1 => (clear_value t; intro _)))
    | ((fail_if_no_progress extract_lets +onlyGivenNames t); refine (?_ : Keeps2 a t → _) ?_; (on_goal 2 => unfold t); (on_goal 1 => (clear_value t; intro _)))
    | ((fail_if_no_progress extract_lets +onlyGivenNames t); refine (?_ : Keeps1 a t → _) ?_; (on_goal 2 => unfold t); (on_goal 1 => (clear_value t; intro _)))
    | ((fail_if_no_progress extract_lets +onlyGivenNames t); subst t)
    | dsimp -zeta only
    | with_reducible apply Keeps.ite
    | with_reducible apply State.applyRelease_keeps
    | with_reducible apply State.modTask_keeps
    | with_reducible apply State.driveOwn_keeps
    | with_reducible apply State.captureAll_keeps
    | with_reducible refine Keeps2.out (State.captureAll_keeps ?_)
    | with_reducible apply State.fnCaptured_keeps
    | with_reducible apply State.setF_keeps
    | with_reducible apply State.putRun_keeps
    | with_reducible apply State.specRelease_keeps
    | with_reducible exact Keeps2.out ‹_›
    | with_reducible apply Keeps2.mk
    | with_reducible apply Keeps2.ite
    | with_reducible refine Keeps2.foldl ?_ (fun _ _ _ => ?_)
    | with_reducible refine Keeps2.out ?_
    | with_reducible refine Keeps.foldl ?_ (fun _ _ _ => ?_)
    | split
    | with_reducible refine Keeps.of2 ‹_› ?_

/-- State.orphanBatches keeps what every operation keeps. -/
theorem State.orphanBatches_keeps {a s : State} {x1} (h : Keeps a s) : Keeps a (State.orphanBatches s x1) := by
  unfold State.orphanBatches
  repeat' first
    | with_reducible assumption
    | ((fail_if_no_progress extract_lets +onlyGivenNames t); refine (?_ : Keeps a t → _) ?_; (on_goal 2 => unfold t); (on_goal 1 => (clear_value t; intro _)))
    | ((fail_if_no_progress extract_lets +onlyGivenNames t); subst t)
    | dsimp -zeta only
    | with_reducible apply Keeps.ite
    | split
    | fail_if_no_progress (with_reducible refine Keeps.upd ?_ rfl rfl rfl rfl rfl rfl)

/-- State.endOld keeps what every operation keeps. -/
theorem State.endOld_keeps {a s : State} {x1} (h : Keeps a s) : Keeps a (State.endOld s x1) := by
  unfold State.endOld
  repeat' first
    | with_reducible assumption
    | ((fail_if_no_progress extract_lets +onlyGivenNames t); refine (?_ : Keeps a t → _) ?_; (on_goal 2 => unfold t); (on_goal 1 => (clear_value t; intro _)))
    | ((fail_if_no_progress extract_lets +onlyGivenNames t); subst t)
    | dsimp -zeta only
    | with_reducible apply Keeps.ite
    | with_reducible apply State.modTask_keeps
    | with_reducible apply State.setF_keeps
    | split

/-- State.endCycle keeps what every operation keeps. -/
theorem State.endCycle_keeps {a s : State} {x1 x2} (h : Keeps a s) : Keeps a (State.endCycle s x1 x2) := by
  unfold State.endCycle
  repeat' first
    | with_reducible assumption
    | ((fail_if_no_progress extract_lets +onlyGivenNames t); refine (?_ : Keeps a t → _) ?_; (on_goal 2 => unfold t); (on_goal 1 => (clear_value t; intro _)))
    | ((fail_if_no_progress extract_lets +onlyGivenNames t); subst t)
    | dsimp -zeta only
    | with_reducible apply Keeps.ite
    | with_reducible apply State.endOld_keeps
    | with_reducible apply State.delRun_keeps
    | with_reducible apply State.setF_keeps
    | with_reducible apply State.modTask_keeps
    | split

/-- State.abortCycle keeps what every operation keeps. -/
theorem State.abortCycle_keeps {a s : State} {x1} (h : Keeps a s) : Keeps a (State.abortCycle s x1) := by
  unfold State.abortCycle
  repeat' first
    | with_reducible assumption
    | ((fail_if_no_progress extract_lets +onlyGivenNames t); refine (?_ : Keeps a t → _) ?_; (on_goal 2 => unfold t); (on_goal 1 => (clear_value t; intro _)))
    | ((fail_if_no_progress extract_lets +onlyGivenNames t); subst t)
    | dsimp -zeta only
    | with_reducible apply State.leaveOld_keeps
    | with_reducible apply State.orphanBatches_keeps
    | with_reducible apply State.endCycle_keeps
    | split

/-- State.safeCommit keeps what every operation keeps. -/
theorem State.safeCommit_keeps {a s : State} {x1 x2 x3 x4} (h : Keeps a s) : Keeps a (State.safeCommit s x1 x2 x3 x4) := by
  unfold State.safeCommit
  repeat' first
    | with_reducible assumption
    | ((fail_if_no_progress extract_lets +onlyGivenNames t); refine (?_ : Keeps a t → _) ?_; (on_goal 2 => unfold t); (on_goal 1 => (clear_value t; intro _)))
    | ((fail_if_no_progress extract_lets +onlyGivenNames t); subst t)
    | dsimp -zeta only
    | with_reducible apply State.commitCore_keeps

/-- State.dropActs keeps what every operation keeps. -/
theorem State.dropActs_keeps {a s : State} {x1} (h : Keeps a s) : Keeps a (State.dropActs s x1) := by
  unfold State.dropActs
  repeat' first
    | with_reducible assumption
    | ((fail_if_no_progress extract_lets +onlyGivenNames t); refine (?_ : Keeps a t → _) ?_; (on_goal 2 => unfold t); (on_goal 1 => (clear_value t; intro _)))
    | ((fail_if_no_progress extract_lets +onlyGivenNames t); subst t)
    | dsimp -zeta only
    | with_reducible apply State.setF_keeps
    | with_reducible apply State.bump_keeps
    | with_reducible apply State.modTask_keeps

/-- State.endReal keeps what every operation keeps. -/
theorem State.endReal_keeps {a s : State} {x1} (h : Keeps a s) : Keeps a (State.endReal s x1) := by
  unfold State.endReal
  repeat' first
    | with_reducible assumption
    | dsimp -zeta only
    | with_reducible apply State.orphanBatches_keeps
    | with_reducible apply State.endCycle_keeps
    | split

/-- State.wdStop keeps what every operation keeps. -/
theorem State.wdStop_keeps {a s : State} {x1} (h : Keeps a s) : Keeps a (State.wdStop s x1) := by
  unfold State.wdStop
  repeat' first
    | with_reducible assumption
    | ((fail_if_no_progress extract_lets +onlyGivenNames t); refine (?_ : Keeps a t → _) ?_; (on_goal 2 => unfold t); (on_goal 1 => (clear_value t; intro _)))
    | ((fail_if_no_progress extract_lets +onlyGivenNames t); subst t)
    | dsimp -zeta only
    | with_reducible apply Keeps.ite
    | with_reducible apply State.leaveOld_keeps
    | with_reducible apply State.endReal_keeps
    | with_reducible apply State.safeCommit_keeps
    | with_reducible apply State.setF_keeps
    | with_reducible apply State.modTask_keeps
    | with_reducible apply State.dropActs_keeps
    | with_reducible apply State.callErrorTask_keeps
    | split

/-- State.releaseOrStop keeps what every operation keeps. -/
theorem State.releaseOrStop_keeps {a s : State} {x1 x2 x3} (h : Keeps a s) : Keeps a (State.releaseOrStop s x1 x2 x3) := by
  unfold State.releaseOrStop
  repeat' first
    | with_reducible assumption
    | dsimp -zeta only
    | with_reducible apply Keeps.ite
    | with_reducible apply State.wdStop_keeps
    | with_reducible apply State.release_keeps
    | split

/-- State.eventRelease keeps what every operation keeps. -/
theorem State.eventRelease_keeps {a s : State} {x1} (h : Keeps a s) : Keeps a (State.eventRelease s x1) := by
  unfold State.eventRelease
  repeat' first
    | with_reducible assumption
    | ((fail_if_no_progress extract_lets +onlyGivenNames t); refine (?_ : Keeps a t → _) ?_; (on_goal 2 => unfold t); (on_goal 1 => (clear_value t; intro _)))
    | ((fail_if_no_progress extract_lets +onlyGivenNames t); subst t)
    | dsimp -zeta only
    | with_reducible apply Keeps.ite
    | with_reducible apply State.modTask_keeps
    | with_reducible apply State.setF_keeps
    | with_reducible apply State.releaseOrStop_keeps
    | split

/-- State.taskCmd keeps what every operation keeps. -/
theorem State.taskCmd_keeps {a s : State} {x1 x2 x3} (h : Keeps a s) : Keeps a (State.taskCmd s x1 x2 x3) := by
  unfold State.taskCmd
  repeat' first
    | with_reducible assumption
    | ((fail_if_no_progress extract_lets +onlyGivenNames t); refine (?_ : Keeps a t → _) ?_; (on_goal 2 => unfold t); (on_goal 1 => (clear_value t; intro _)))
    | ((fail_if_no_progress extract_lets +onlyGivenNames t); subst t)
    | dsimp -zeta only
    | with_reducible apply Keeps.ite
    | with_reducible apply State.ignored_keeps
    | with_reducible apply State.ask_keeps
    | split

end Sys2Proof.Machine
end

