-- ==== Sys2Proof/Laws/KeepsProgram.lean ====
section
/-! SUPPORT. The parts of an FLX instruction and of a cycle keep the queue, the canonical forms, what has been emitted and the free values used. -/
namespace Sys2Proof.Machine
set_option Elab.async false

/-! ### Machine/Logic.lean -/

/-- The end of an instruction that goes on at the next one. -/
theorem XKeeps.fin {α : Type} {a : State} {x : XR α} (h : XKeeps a x) : XKeeps a x.fin :=
  XKeeps.bind h (fun _ _ k => XKeeps.ok k)

/-- Mx.bool keeps what every operation keeps. -/
theorem Mx.bool_keeps {a : State} {m : Mx} {x0} (h : Keeps a m.s) : XKeeps a (Mx.bool x0 m) := by
  unfold Mx.bool
  repeat' first
    | with_reducible assumption
    | dsimp -zeta only
    | with_reducible apply Mx.operand_keeps
    | with_reducible apply Mx.fetch_keeps
    | with_reducible refine XKeeps.bind ?_ (fun _ _ _ => ?_)
    | with_reducible refine XKeeps.ok ?_
    | with_reducible refine XKeeps.xcp ?_
    | with_reducible refine raise_keeps ?_
    | with_reducible refine XKeeps.fin ?_
    | with_reducible exact Keeps2.out ‹_›
    | with_reducible apply Keeps2.mk
    | with_reducible refine Keeps.of2 ‹_› ?_

/-- semLog keeps what every operation keeps. -/
theorem semLog_keeps {a : State} {x0} : SKeeps a (semLog x0) := by
  intro c m h
  unfold semLog
  repeat' first
    | with_reducible assumption
    | dsimp -zeta only
    | with_reducible apply Mx.bool_keeps
    | with_reducible apply Mx.setLa_keeps
    | with_reducible refine XKeeps.bind ?_ (fun _ _ _ => ?_)
    | with_reducible refine XKeeps.ok ?_
    | with_reducible refine XKeeps.xcp ?_
    | with_reducible refine raise_keeps ?_
    | with_reducible refine XKeeps.fin ?_
    | with_reducible exact Keeps2.out ‹_›
    | with_reducible apply Keeps2.mk
    | with_reducible refine Keeps.of2 ‹_› ?_

/-- semLogStore keeps what every operation keeps. -/
theorem semLogStore_keeps {a : State} {x0 x1} : SKeeps a (semLogStore x0 x1) := by
  intro c m h
  unfold semLogStore
  repeat' first
    | with_reducible assumption
    | dsimp -zeta only
    | with_reducible apply Keeps.ite
    | with_reducible apply Mx.operand_keeps
    | with_reducible apply Mx.put_keeps
    | with_reducible refine XKeeps.bind ?_ (fun _ _ _ => ?_)
    | with_reducible refine XKeeps.ok ?_
    | with_reducible refine XKeeps.xcp ?_
    | with_reducible refine raise_keeps ?_
    | with_reducible refine XKeeps.fin ?_
    | with_reducible exact Keeps2.out ‹_›
    | with_reducible apply Keeps2.mk
    | with_reducible refine Keeps.of2 ‹_› ?_
    | split

/-- semLogp keeps what every operation keeps. -/
theorem semLogp_keeps {a : State} {x0} : SKeeps a (semLogp x0) := by
  intro c m h
  unfold semLogp
  repeat' first
    | with_reducible assumption
    | ((fail_if_no_progress extract_lets +onlyGivenNames t); refine (?_ : Keeps a t → _) ?_; (on_goal 2 => unfold t); (on_goal 1 => (clear_value t; intro _)))
    | ((fail_if_no_progress extract_lets +onlyGivenNames t); refine (?_ : Keeps2 a t → _) ?_; (on_goal 2 => unfold t); (on_goal 1 => (clear_value t; intro _)))
    | ((fail_if_no_progress extract_lets +onlyGivenNames t); subst t)
    | dsimp -zeta only
    | with_reducible apply Keeps.ite
    | with_reducible apply Mx.bool_keeps
    | with_reducible apply raise_keeps
    | with_reducible apply Mx.setSt_keeps
    | with_reducible refine XKeeps.bind ?_ (fun _ _ _ => ?_)
    | with_reducible refine XKeeps.ok ?_
    | with_reducible refine XKeeps.xcp ?_
    | with_reducible refine raise_keeps ?_
    | with_reducible refine XKeeps.fin ?_
    | with_reducible exact Keeps2.out ‹_›
    | with_reducible apply Keeps2.mk
    | with_reducible refine Keeps.of2 ‹_› ?_
    | split

/-- semPopl keeps what every operation keeps. -/
theorem semPopl_keeps {a : State} : SKeeps a (semPopl ) := by
  intro c m h
  unfold semPopl
  repeat' first
    | with_reducible assumption
    | ((fail_if_no_progress extract_lets +onlyGivenNames t); refine (?_ : Keeps a t → _) ?_; (on_goal 2 => unfold t); (on_goal 1 => (clear_value t; intro _)))
    | ((fail_if_no_progress extract_lets +onlyGivenNames t); refine (?_ : Keeps2 a t → _) ?_; (on_goal 2 => unfold t); (on_goal 1 => (clear_value t; intro _)))
    | ((fail_if_no_progress extract_lets +onlyGivenNames t); subst t)
    | dsimp -zeta only
    | with_reducible apply raise_keeps
    | with_reducible apply Mx.setSt_keeps
    | with_reducible refine XKeeps.bind ?_ (fun _ _ _ => ?_)
    | with_reducible refine XKeeps.ok ?_
    | with_reducible refine XKeeps.xcp ?_
    | with_reducible refine raise_keeps ?_
    | with_reducible refine XKeeps.fin ?_
    | with_reducible exact Keeps2.out ‹_›
    | with_reducible apply Keeps2.mk
    | with_reducible refine Keeps.of2 ‹_› ?_
    | split

/-- semLdw keeps what every operation keeps. -/
theorem semLdw_keeps {a : State} : SKeeps a (semLdw ) := by
  intro c m h
  unfold semLdw
  repeat' first
    | with_reducible assumption
    | dsimp -zeta only
    | with_reducible apply Mx.source_keeps
    | with_reducible apply Mx.setWa_keeps
    | with_reducible refine XKeeps.bind ?_ (fun _ _ _ => ?_)
    | with_reducible refine XKeeps.ok ?_
    | with_reducible refine XKeeps.xcp ?_
    | with_reducible refine raise_keeps ?_
    | with_reducible refine XKeeps.fin ?_
    | with_reducible exact Keeps2.out ‹_›
    | with_reducible apply Keeps2.mk
    | with_reducible refine Keeps.of2 ‹_› ?_

/-- semLdwb keeps what every operation keeps. -/
theorem semLdwb_keeps {a : State} : SKeeps a (semLdwb ) := by
  intro c m h
  unfold semLdwb
  repeat' first
    | with_reducible assumption
    | dsimp -zeta only
    | with_reducible apply Mx.source_keeps
    | with_reducible apply Mx.setWb_keeps
    | with_reducible refine XKeeps.bind ?_ (fun _ _ _ => ?_)
    | with_reducible refine XKeeps.ok ?_
    | with_reducible refine XKeeps.xcp ?_
    | with_reducible refine raise_keeps ?_
    | with_reducible refine XKeeps.fin ?_
    | with_reducible exact Keeps2.out ‹_›
    | with_reducible apply Keeps2.mk
    | with_reducible refine Keeps.of2 ‹_› ?_

/-- semStw keeps what every operation keeps. -/
theorem semStw_keeps {a : State} : SKeeps a (semStw ) := by
  intro c m h
  unfold semStw
  repeat' first
    | with_reducible assumption
    | dsimp -zeta only
    | with_reducible apply Mx.storeVal_keeps
    | with_reducible refine XKeeps.bind ?_ (fun _ _ _ => ?_)
    | with_reducible refine XKeeps.ok ?_
    | with_reducible refine XKeeps.xcp ?_
    | with_reducible refine raise_keeps ?_
    | with_reducible refine XKeeps.fin ?_
    | with_reducible exact Keeps2.out ‹_›
    | with_reducible apply Keeps2.mk
    | with_reducible refine Keeps.of2 ‹_› ?_

/-- semStwb keeps what every operation keeps. -/
theorem semStwb_keeps {a : State} : SKeeps a (semStwb ) := by
  intro c m h
  unfold semStwb
  repeat' first
    | with_reducible assumption
    | dsimp -zeta only
    | with_reducible apply Mx.storeVal_keeps
    | with_reducible refine XKeeps.bind ?_ (fun _ _ _ => ?_)
    | with_reducible refine XKeeps.ok ?_
    | with_reducible refine XKeeps.xcp ?_
    | with_reducible refine raise_keeps ?_
    | with_reducible refine XKeeps.fin ?_
    | with_reducible exact Keeps2.out ‹_›
    | with_reducible apply Keeps2.mk
    | with_reducible refine Keeps.of2 ‹_› ?_

/-- semLea keeps what every operation keeps. -/
theorem semLea_keeps {a : State} : SKeeps a (semLea ) := by
  intro c m h
  unfold semLea
  repeat' first
    | with_reducible assumption
    | dsimp -zeta only
    | with_reducible apply Mx.address_keeps
    | with_reducible apply Mx.setWa_keeps
    | with_reducible refine XKeeps.bind ?_ (fun _ _ _ => ?_)
    | with_reducible refine XKeeps.ok ?_
    | with_reducible refine XKeeps.xcp ?_
    | with_reducible refine raise_keeps ?_
    | with_reducible refine XKeeps.fin ?_
    | with_reducible exact Keeps2.out ‹_›
    | with_reducible apply Keeps2.mk
    | with_reducible refine Keeps.of2 ‹_› ?_

/-- semWord keeps what every operation keeps. -/
theorem semWord_keeps {a : State} {x0} : SKeeps a (semWord x0) := by
  intro c m h
  unfold semWord
  repeat' first
    | with_reducible assumption
    | dsimp -zeta only
    | with_reducible apply Mx.source_keeps
    | with_reducible apply WordRes.apply_keeps
    | with_reducible refine XKeeps.bind ?_ (fun _ _ _ => ?_)
    | with_reducible refine XKeeps.ok ?_
    | with_reducible refine XKeeps.xcp ?_
    | with_reducible refine raise_keeps ?_
    | with_reducible refine XKeeps.fin ?_
    | with_reducible exact Keeps2.out ‹_›
    | with_reducible apply Keeps2.mk
    | with_reducible refine Keeps.of2 ‹_› ?_

/-- semAdd keeps what every operation keeps. -/
theorem semAdd_keeps {a : State} : SKeeps a (semAdd ) := by
  intro c m h
  unfold semAdd
  repeat' first
    | with_reducible assumption
    | dsimp -zeta only
    | with_reducible refine SKeeps.run semWord_keeps ?_
    | with_reducible refine XKeeps.bind ?_ (fun _ _ _ => ?_)
    | with_reducible refine XKeeps.ok ?_
    | with_reducible refine XKeeps.xcp ?_
    | with_reducible refine raise_keeps ?_
    | with_reducible refine XKeeps.fin ?_
    | with_reducible exact Keeps2.out ‹_›
    | with_reducible apply Keeps2.mk
    | with_reducible refine Keeps.of2 ‹_› ?_

/-- semSub keeps what every operation keeps. -/
theorem semSub_keeps {a : State} : SKeeps a (semSub ) := by
  intro c m h
  unfold semSub
  repeat' first
    | with_reducible assumption
    | dsimp -zeta only
    | with_reducible refine SKeeps.run semWord_keeps ?_
    | with_reducible refine XKeeps.bind ?_ (fun _ _ _ => ?_)
    | with_reducible refine XKeeps.ok ?_
    | with_reducible refine XKeeps.xcp ?_
    | with_reducible refine raise_keeps ?_
    | with_reducible refine XKeeps.fin ?_
    | with_reducible exact Keeps2.out ‹_›
    | with_reducible apply Keeps2.mk
    | with_reducible refine Keeps.of2 ‹_› ?_

/-- semMul keeps what every operation keeps. -/
theorem semMul_keeps {a : State} : SKeeps a (semMul ) := by
  intro c m h
  unfold semMul
  repeat' first
    | with_reducible assumption
    | dsimp -zeta only
    | with_reducible refine SKeeps.run semWord_keeps ?_
    | with_reducible refine XKeeps.bind ?_ (fun _ _ _ => ?_)
    | with_reducible refine XKeeps.ok ?_
    | with_reducible refine XKeeps.xcp ?_
    | with_reducible refine raise_keeps ?_
    | with_reducible refine XKeeps.fin ?_
    | with_reducible exact Keeps2.out ‹_›
    | with_reducible apply Keeps2.mk
    | with_reducible refine Keeps.of2 ‹_› ?_

/-- semDiv keeps what every operation keeps. -/
theorem semDiv_keeps {a : State} : SKeeps a (semDiv ) := by
  intro c m h
  unfold semDiv
  repeat' first
    | with_reducible assumption
    | dsimp -zeta only
    | with_reducible refine SKeeps.run semWord_keeps ?_
    | with_reducible refine XKeeps.bind ?_ (fun _ _ _ => ?_)
    | with_reducible refine XKeeps.ok ?_
    | with_reducible refine XKeeps.xcp ?_
    | with_reducible refine raise_keeps ?_
    | with_reducible refine XKeeps.fin ?_
    | with_reducible exact Keeps2.out ‹_›
    | with_reducible apply Keeps2.mk
    | with_reducible refine Keeps.of2 ‹_› ?_

/-- semAnd keeps what every operation keeps. -/
theorem semAnd_keeps {a : State} : SKeeps a (semAnd ) := by
  intro c m h
  unfold semAnd
  repeat' first
    | with_reducible assumption
    | dsimp -zeta only
    | with_reducible refine SKeeps.run semWord_keeps ?_
    | with_reducible refine XKeeps.bind ?_ (fun _ _ _ => ?_)
    | with_reducible refine XKeeps.ok ?_
    | with_reducible refine XKeeps.xcp ?_
    | with_reducible refine raise_keeps ?_
    | with_reducible refine XKeeps.fin ?_
    | with_reducible exact Keeps2.out ‹_›
    | with_reducible apply Keeps2.mk
    | with_reducible refine Keeps.of2 ‹_› ?_

/-- semOr keeps what every operation keeps. -/
theorem semOr_keeps {a : State} : SKeeps a (semOr ) := by
  intro c m h
  unfold semOr
  repeat' first
    | with_reducible assumption
    | dsimp -zeta only
    | with_reducible refine SKeeps.run semWord_keeps ?_
    | with_reducible refine XKeeps.bind ?_ (fun _ _ _ => ?_)
    | with_reducible refine XKeeps.ok ?_
    | with_reducible refine XKeeps.xcp ?_
    | with_reducible refine raise_keeps ?_
    | with_reducible refine XKeeps.fin ?_
    | with_reducible exact Keeps2.out ‹_›
    | with_reducible apply Keeps2.mk
    | with_reducible refine Keeps.of2 ‹_› ?_

/-- semXor keeps what every operation keeps. -/
theorem semXor_keeps {a : State} : SKeeps a (semXor ) := by
  intro c m h
  unfold semXor
  repeat' first
    | with_reducible assumption
    | dsimp -zeta only
    | with_reducible refine SKeeps.run semWord_keeps ?_
    | with_reducible refine XKeeps.bind ?_ (fun _ _ _ => ?_)
    | with_reducible refine XKeeps.ok ?_
    | with_reducible refine XKeeps.xcp ?_
    | with_reducible refine raise_keeps ?_
    | with_reducible refine XKeeps.fin ?_
    | with_reducible exact Keeps2.out ‹_›
    | with_reducible apply Keeps2.mk
    | with_reducible refine Keeps.of2 ‹_› ?_

/-- semMin keeps what every operation keeps. -/
theorem semMin_keeps {a : State} : SKeeps a (semMin ) := by
  intro c m h
  unfold semMin
  repeat' first
    | with_reducible assumption
    | dsimp -zeta only
    | with_reducible refine SKeeps.run semWord_keeps ?_
    | with_reducible refine XKeeps.bind ?_ (fun _ _ _ => ?_)
    | with_reducible refine XKeeps.ok ?_
    | with_reducible refine XKeeps.xcp ?_
    | with_reducible refine raise_keeps ?_
    | with_reducible refine XKeeps.fin ?_
    | with_reducible exact Keeps2.out ‹_›
    | with_reducible apply Keeps2.mk
    | with_reducible refine Keeps.of2 ‹_› ?_

/-- semMax keeps what every operation keeps. -/
theorem semMax_keeps {a : State} : SKeeps a (semMax ) := by
  intro c m h
  unfold semMax
  repeat' first
    | with_reducible assumption
    | dsimp -zeta only
    | with_reducible refine SKeeps.run semWord_keeps ?_
    | with_reducible refine XKeeps.bind ?_ (fun _ _ _ => ?_)
    | with_reducible refine XKeeps.ok ?_
    | with_reducible refine XKeeps.xcp ?_
    | with_reducible refine raise_keeps ?_
    | with_reducible refine XKeeps.fin ?_
    | with_reducible exact Keeps2.out ‹_›
    | with_reducible apply Keeps2.mk
    | with_reducible refine Keeps.of2 ‹_› ?_

/-- semLimit keeps what every operation keeps. -/
theorem semLimit_keeps {a : State} : SKeeps a (semLimit ) := by
  intro c m h
  unfold semLimit
  repeat' first
    | with_reducible assumption
    | dsimp -zeta only
    | with_reducible refine SKeeps.run semWord_keeps ?_
    | with_reducible refine XKeeps.bind ?_ (fun _ _ _ => ?_)
    | with_reducible refine XKeeps.ok ?_
    | with_reducible refine XKeeps.xcp ?_
    | with_reducible refine raise_keeps ?_
    | with_reducible refine XKeeps.fin ?_
    | with_reducible exact Keeps2.out ‹_›
    | with_reducible apply Keeps2.mk
    | with_reducible refine Keeps.of2 ‹_› ?_

/-- semShl keeps what every operation keeps. -/
theorem semShl_keeps {a : State} : SKeeps a (semShl ) := by
  intro c m h
  unfold semShl
  repeat' first
    | with_reducible assumption
    | dsimp -zeta only
    | with_reducible refine SKeeps.run semWord_keeps ?_
    | with_reducible refine XKeeps.bind ?_ (fun _ _ _ => ?_)
    | with_reducible refine XKeeps.ok ?_
    | with_reducible refine XKeeps.xcp ?_
    | with_reducible refine raise_keeps ?_
    | with_reducible refine XKeeps.fin ?_
    | with_reducible exact Keeps2.out ‹_›
    | with_reducible apply Keeps2.mk
    | with_reducible refine Keeps.of2 ‹_› ?_

/-- semShr keeps what every operation keeps. -/
theorem semShr_keeps {a : State} : SKeeps a (semShr ) := by
  intro c m h
  unfold semShr
  repeat' first
    | with_reducible assumption
    | dsimp -zeta only
    | with_reducible refine SKeeps.run semWord_keeps ?_
    | with_reducible refine XKeeps.bind ?_ (fun _ _ _ => ?_)
    | with_reducible refine XKeeps.ok ?_
    | with_reducible refine XKeeps.xcp ?_
    | with_reducible refine raise_keeps ?_
    | with_reducible refine XKeeps.fin ?_
    | with_reducible exact Keeps2.out ‹_›
    | with_reducible apply Keeps2.mk
    | with_reducible refine Keeps.of2 ‹_› ?_

/-- semRol keeps what every operation keeps. -/
theorem semRol_keeps {a : State} : SKeeps a (semRol ) := by
  intro c m h
  unfold semRol
  repeat' first
    | with_reducible assumption
    | dsimp -zeta only
    | with_reducible refine SKeeps.run semWord_keeps ?_
    | with_reducible refine XKeeps.bind ?_ (fun _ _ _ => ?_)
    | with_reducible refine XKeeps.ok ?_
    | with_reducible refine XKeeps.xcp ?_
    | with_reducible refine raise_keeps ?_
    | with_reducible refine XKeeps.fin ?_
    | with_reducible exact Keeps2.out ‹_›
    | with_reducible apply Keeps2.mk
    | with_reducible refine Keeps.of2 ‹_› ?_

/-- semRor keeps what every operation keeps. -/
theorem semRor_keeps {a : State} : SKeeps a (semRor ) := by
  intro c m h
  unfold semRor
  repeat' first
    | with_reducible assumption
    | dsimp -zeta only
    | with_reducible refine SKeeps.run semWord_keeps ?_
    | with_reducible refine XKeeps.bind ?_ (fun _ _ _ => ?_)
    | with_reducible refine XKeeps.ok ?_
    | with_reducible refine XKeeps.xcp ?_
    | with_reducible refine raise_keeps ?_
    | with_reducible refine XKeeps.fin ?_
    | with_reducible exact Keeps2.out ‹_›
    | with_reducible apply Keeps2.mk
    | with_reducible refine Keeps.of2 ‹_› ?_

/-- semCmp keeps what every operation keeps. -/
theorem semCmp_keeps {a : State} {x0 x1} : SKeeps a (semCmp x0 x1) := by
  intro c m h
  unfold semCmp
  repeat' first
    | with_reducible assumption
    | dsimp -zeta only
    | with_reducible refine SKeeps.run semWord_keeps ?_
    | with_reducible refine XKeeps.bind ?_ (fun _ _ _ => ?_)
    | with_reducible refine XKeeps.ok ?_
    | with_reducible refine XKeeps.xcp ?_
    | with_reducible refine raise_keeps ?_
    | with_reducible refine XKeeps.fin ?_
    | with_reducible exact Keeps2.out ‹_›
    | with_reducible apply Keeps2.mk
    | with_reducible refine Keeps.of2 ‹_› ?_

/-- semSel keeps what every operation keeps. -/
theorem semSel_keeps {a : State} : SKeeps a (semSel ) := by
  intro c m h
  unfold semSel
  repeat' first
    | with_reducible assumption
    | dsimp -zeta only
    | with_reducible apply Keeps.ite
    | with_reducible apply Mx.source_keeps
    | with_reducible apply Mx.setWa_keeps
    | with_reducible refine XKeeps.bind ?_ (fun _ _ _ => ?_)
    | with_reducible refine XKeeps.ok ?_
    | with_reducible refine XKeeps.xcp ?_
    | with_reducible refine raise_keeps ?_
    | with_reducible refine XKeeps.fin ?_
    | with_reducible exact Keeps2.out ‹_›
    | with_reducible apply Keeps2.mk
    | with_reducible refine Keeps.of2 ‹_› ?_
    | split

/-- semLstat keeps what every operation keeps. -/
theorem semLstat_keeps {a : State} : SKeeps a (semLstat ) := by
  intro c m h
  unfold semLstat
  repeat' first
    | with_reducible assumption
    | ((fail_if_no_progress extract_lets +onlyGivenNames t); refine (?_ : Keeps a t → _) ?_; (on_goal 2 => unfold t); (on_goal 1 => (clear_value t; intro _)))
    | ((fail_if_no_progress extract_lets +onlyGivenNames t); refine (?_ : Keeps2 a t → _) ?_; (on_goal 2 => unfold t); (on_goal 1 => (clear_value t; intro _)))
    | ((fail_if_no_progress extract_lets +onlyGivenNames t); subst t)
    | dsimp -zeta only
    | with_reducible apply Keeps.ite
    | with_reducible apply Mx.tagEntry_keeps
    | with_reducible apply raise_keeps
    | with_reducible apply Mx.check_keeps
    | with_reducible apply Mx.load_keeps
    | with_reducible apply Mx.setWa_keeps
    | with_reducible refine XKeeps.bind ?_ (fun _ _ _ => ?_)
    | with_reducible refine XKeeps.ok ?_
    | with_reducible refine XKeeps.xcp ?_
    | with_reducible refine raise_keeps ?_
    | with_reducible refine XKeeps.fin ?_
    | with_reducible exact Keeps2.out ‹_›
    | with_reducible apply Keeps2.mk
    | with_reducible refine Keeps.of2 ‹_› ?_
    | split

/-- semNotl keeps what every operation keeps. -/
theorem semNotl_keeps {a : State} : SKeeps a (semNotl ) := by
  intro c m h
  unfold semNotl
  repeat' first
    | with_reducible assumption
    | dsimp -zeta only
    | with_reducible apply Mx.setLa_keeps
    | with_reducible refine XKeeps.bind ?_ (fun _ _ _ => ?_)
    | with_reducible refine XKeeps.ok ?_
    | with_reducible refine XKeeps.xcp ?_
    | with_reducible refine raise_keeps ?_
    | with_reducible refine XKeeps.fin ?_
    | with_reducible exact Keeps2.out ‹_›
    | with_reducible apply Keeps2.mk
    | with_reducible refine Keeps.of2 ‹_› ?_

/-- semSetl keeps what every operation keeps. -/
theorem semSetl_keeps {a : State} : SKeeps a (semSetl ) := by
  intro c m h
  unfold semSetl
  repeat' first
    | with_reducible assumption
    | dsimp -zeta only
    | with_reducible apply Mx.setLa_keeps
    | with_reducible refine XKeeps.bind ?_ (fun _ _ _ => ?_)
    | with_reducible refine XKeeps.ok ?_
    | with_reducible refine XKeeps.xcp ?_
    | with_reducible refine raise_keeps ?_
    | with_reducible refine XKeeps.fin ?_
    | with_reducible exact Keeps2.out ‹_›
    | with_reducible apply Keeps2.mk
    | with_reducible refine Keeps.of2 ‹_› ?_

/-- semClrl keeps what every operation keeps. -/
theorem semClrl_keeps {a : State} : SKeeps a (semClrl ) := by
  intro c m h
  unfold semClrl
  repeat' first
    | with_reducible assumption
    | dsimp -zeta only
    | with_reducible apply Mx.setLa_keeps
    | with_reducible refine XKeeps.bind ?_ (fun _ _ _ => ?_)
    | with_reducible refine XKeeps.ok ?_
    | with_reducible refine XKeeps.xcp ?_
    | with_reducible refine raise_keeps ?_
    | with_reducible refine XKeeps.fin ?_
    | with_reducible exact Keeps2.out ‹_›
    | with_reducible apply Keeps2.mk
    | with_reducible refine Keeps.of2 ‹_› ?_

/-- semLdbit keeps what every operation keeps. -/
theorem semLdbit_keeps {a : State} : SKeeps a (semLdbit ) := by
  intro c m h
  unfold semLdbit
  repeat' first
    | with_reducible assumption
    | dsimp -zeta only
    | with_reducible apply Mx.setLa_keeps
    | with_reducible refine XKeeps.bind ?_ (fun _ _ _ => ?_)
    | with_reducible refine XKeeps.ok ?_
    | with_reducible refine XKeeps.xcp ?_
    | with_reducible refine raise_keeps ?_
    | with_reducible refine XKeeps.fin ?_
    | with_reducible exact Keeps2.out ‹_›
    | with_reducible apply Keeps2.mk
    | with_reducible refine Keeps.of2 ‹_› ?_

/-- semStbit keeps what every operation keeps. -/
theorem semStbit_keeps {a : State} : SKeeps a (semStbit ) := by
  intro c m h
  unfold semStbit
  repeat' first
    | with_reducible assumption
    | ((fail_if_no_progress extract_lets +onlyGivenNames t); refine (?_ : Keeps a t → _) ?_; (on_goal 2 => unfold t); (on_goal 1 => (clear_value t; intro _)))
    | ((fail_if_no_progress extract_lets +onlyGivenNames t); refine (?_ : Keeps2 a t → _) ?_; (on_goal 2 => unfold t); (on_goal 1 => (clear_value t; intro _)))
    | ((fail_if_no_progress extract_lets +onlyGivenNames t); subst t)
    | dsimp -zeta only
    | with_reducible apply Keeps.ite
    | with_reducible apply Mx.setSt_keeps
    | with_reducible refine XKeeps.bind ?_ (fun _ _ _ => ?_)
    | with_reducible refine XKeeps.ok ?_
    | with_reducible refine XKeeps.xcp ?_
    | with_reducible refine raise_keeps ?_
    | with_reducible refine XKeeps.fin ?_
    | with_reducible exact Keeps2.out ‹_›
    | with_reducible apply Keeps2.mk
    | with_reducible refine Keeps.of2 ‹_› ?_
    | split

/-- semXab keeps what every operation keeps. -/
theorem semXab_keeps {a : State} : SKeeps a (semXab ) := by
  intro c m h
  unfold semXab
  repeat' first
    | with_reducible assumption
    | ((fail_if_no_progress extract_lets +onlyGivenNames t); refine (?_ : Keeps a t → _) ?_; (on_goal 2 => unfold t); (on_goal 1 => (clear_value t; intro _)))
    | ((fail_if_no_progress extract_lets +onlyGivenNames t); refine (?_ : Keeps2 a t → _) ?_; (on_goal 2 => unfold t); (on_goal 1 => (clear_value t; intro _)))
    | ((fail_if_no_progress extract_lets +onlyGivenNames t); subst t)
    | dsimp -zeta only
    | with_reducible apply Mx.setSt_keeps
    | with_reducible refine XKeeps.bind ?_ (fun _ _ _ => ?_)
    | with_reducible refine XKeeps.ok ?_
    | with_reducible refine XKeeps.xcp ?_
    | with_reducible refine raise_keeps ?_
    | with_reducible refine XKeeps.fin ?_
    | with_reducible exact Keeps2.out ‹_›
    | with_reducible apply Keeps2.mk
    | with_reducible refine Keeps.of2 ‹_› ?_

/-- semMovab keeps what every operation keeps. -/
theorem semMovab_keeps {a : State} : SKeeps a (semMovab ) := by
  intro c m h
  unfold semMovab
  repeat' first
    | with_reducible assumption
    | ((fail_if_no_progress extract_lets +onlyGivenNames t); refine (?_ : Keeps a t → _) ?_; (on_goal 2 => unfold t); (on_goal 1 => (clear_value t; intro _)))
    | ((fail_if_no_progress extract_lets +onlyGivenNames t); refine (?_ : Keeps2 a t → _) ?_; (on_goal 2 => unfold t); (on_goal 1 => (clear_value t; intro _)))
    | ((fail_if_no_progress extract_lets +onlyGivenNames t); subst t)
    | dsimp -zeta only
    | with_reducible apply Mx.setSt_keeps
    | with_reducible refine XKeeps.bind ?_ (fun _ _ _ => ?_)
    | with_reducible refine XKeeps.ok ?_
    | with_reducible refine XKeeps.xcp ?_
    | with_reducible refine raise_keeps ?_
    | with_reducible refine XKeeps.fin ?_
    | with_reducible exact Keeps2.out ‹_›
    | with_reducible apply Keeps2.mk
    | with_reducible refine Keeps.of2 ‹_› ?_

/-- semMovba keeps what every operation keeps. -/
theorem semMovba_keeps {a : State} : SKeeps a (semMovba ) := by
  intro c m h
  unfold semMovba
  repeat' first
    | with_reducible assumption
    | ((fail_if_no_progress extract_lets +onlyGivenNames t); refine (?_ : Keeps a t → _) ?_; (on_goal 2 => unfold t); (on_goal 1 => (clear_value t; intro _)))
    | ((fail_if_no_progress extract_lets +onlyGivenNames t); refine (?_ : Keeps2 a t → _) ?_; (on_goal 2 => unfold t); (on_goal 1 => (clear_value t; intro _)))
    | ((fail_if_no_progress extract_lets +onlyGivenNames t); subst t)
    | dsimp -zeta only
    | with_reducible apply Mx.setSt_keeps
    | with_reducible refine XKeeps.bind ?_ (fun _ _ _ => ?_)
    | with_reducible refine XKeeps.ok ?_
    | with_reducible refine XKeeps.xcp ?_
    | with_reducible refine raise_keeps ?_
    | with_reducible refine XKeeps.fin ?_
    | with_reducible exact Keeps2.out ‹_›
    | with_reducible apply Keeps2.mk
    | with_reducible refine Keeps.of2 ‹_› ?_

/-- semNot keeps what every operation keeps. -/
theorem semNot_keeps {a : State} : SKeeps a (semNot ) := by
  intro c m h
  unfold semNot
  repeat' first
    | with_reducible assumption
    | dsimp -zeta only
    | with_reducible apply WordRes.apply_keeps
    | with_reducible refine XKeeps.bind ?_ (fun _ _ _ => ?_)
    | with_reducible refine XKeeps.ok ?_
    | with_reducible refine XKeeps.xcp ?_
    | with_reducible refine raise_keeps ?_
    | with_reducible refine XKeeps.fin ?_
    | with_reducible exact Keeps2.out ‹_›
    | with_reducible apply Keeps2.mk
    | with_reducible refine Keeps.of2 ‹_› ?_

/-- semNeg keeps what every operation keeps. -/
theorem semNeg_keeps {a : State} : SKeeps a (semNeg ) := by
  intro c m h
  unfold semNeg
  repeat' first
    | with_reducible assumption
    | dsimp -zeta only
    | with_reducible apply WordRes.apply_keeps
    | with_reducible refine XKeeps.bind ?_ (fun _ _ _ => ?_)
    | with_reducible refine XKeeps.ok ?_
    | with_reducible refine XKeeps.xcp ?_
    | with_reducible refine raise_keeps ?_
    | with_reducible refine XKeeps.fin ?_
    | with_reducible exact Keeps2.out ‹_›
    | with_reducible apply Keeps2.mk
    | with_reducible refine Keeps.of2 ‹_› ?_

/-- semAbs keeps what every operation keeps. -/
theorem semAbs_keeps {a : State} : SKeeps a (semAbs ) := by
  intro c m h
  unfold semAbs
  repeat' first
    | with_reducible assumption
    | dsimp -zeta only
    | with_reducible apply WordRes.apply_keeps
    | with_reducible refine XKeeps.bind ?_ (fun _ _ _ => ?_)
    | with_reducible refine XKeeps.ok ?_
    | with_reducible refine XKeeps.xcp ?_
    | with_reducible refine raise_keeps ?_
    | with_reducible refine XKeeps.fin ?_
    | with_reducible exact Keeps2.out ‹_›
    | with_reducible apply Keeps2.mk
    | with_reducible refine Keeps.of2 ‹_› ?_

/-- semSqrt keeps what every operation keeps. -/
theorem semSqrt_keeps {a : State} : SKeeps a (semSqrt ) := by
  intro c m h
  unfold semSqrt
  repeat' first
    | with_reducible assumption
    | dsimp -zeta only
    | with_reducible apply WordRes.apply_keeps
    | with_reducible refine XKeeps.bind ?_ (fun _ _ _ => ?_)
    | with_reducible refine XKeeps.ok ?_
    | with_reducible refine XKeeps.xcp ?_
    | with_reducible refine raise_keeps ?_
    | with_reducible refine XKeeps.fin ?_
    | with_reducible exact Keeps2.out ‹_›
    | with_reducible apply Keeps2.mk
    | with_reducible refine Keeps.of2 ‹_› ?_

/-- semCvt keeps what every operation keeps. -/
theorem semCvt_keeps {a : State} : SKeeps a (semCvt ) := by
  intro c m h
  unfold semCvt
  repeat' first
    | with_reducible assumption
    | dsimp -zeta only
    | with_reducible apply WordRes.apply_keeps
    | with_reducible refine XKeeps.bind ?_ (fun _ _ _ => ?_)
    | with_reducible refine XKeeps.ok ?_
    | with_reducible refine XKeeps.xcp ?_
    | with_reducible refine raise_keeps ?_
    | with_reducible refine XKeeps.fin ?_
    | with_reducible exact Keeps2.out ‹_›
    | with_reducible apply Keeps2.mk
    | with_reducible refine Keeps.of2 ‹_› ?_

/-- semLdfl keeps what every operation keeps. -/
theorem semLdfl_keeps {a : State} : SKeeps a (semLdfl ) := by
  intro c m h
  unfold semLdfl
  repeat' first
    | with_reducible assumption
    | dsimp -zeta only
    | with_reducible apply Mx.setWa_keeps
    | with_reducible refine XKeeps.bind ?_ (fun _ _ _ => ?_)
    | with_reducible refine XKeeps.ok ?_
    | with_reducible refine XKeeps.xcp ?_
    | with_reducible refine raise_keeps ?_
    | with_reducible refine XKeeps.fin ?_
    | with_reducible exact Keeps2.out ‹_›
    | with_reducible apply Keeps2.mk
    | with_reducible refine Keeps.of2 ‹_› ?_

/-- semClrf keeps what every operation keeps. -/
theorem semClrf_keeps {a : State} : SKeeps a (semClrf ) := by
  intro c m h
  unfold semClrf
  repeat' first
    | with_reducible assumption
    | ((fail_if_no_progress extract_lets +onlyGivenNames t); refine (?_ : Keeps a t → _) ?_; (on_goal 2 => unfold t); (on_goal 1 => (clear_value t; intro _)))
    | ((fail_if_no_progress extract_lets +onlyGivenNames t); refine (?_ : Keeps2 a t → _) ?_; (on_goal 2 => unfold t); (on_goal 1 => (clear_value t; intro _)))
    | ((fail_if_no_progress extract_lets +onlyGivenNames t); subst t)
    | dsimp -zeta only
    | with_reducible apply Mx.setSt_keeps
    | with_reducible refine XKeeps.bind ?_ (fun _ _ _ => ?_)
    | with_reducible refine XKeeps.ok ?_
    | with_reducible refine XKeeps.xcp ?_
    | with_reducible refine raise_keeps ?_
    | with_reducible refine XKeeps.fin ?_
    | with_reducible exact Keeps2.out ‹_›
    | with_reducible apply Keeps2.mk
    | with_reducible refine Keeps.of2 ‹_› ?_

/-- semNop keeps what every operation keeps. -/
theorem semNop_keeps {a : State} : SKeeps a (semNop ) := by
  intro c m h
  unfold semNop
  repeat' first
    | with_reducible assumption
    | dsimp -zeta only
    | with_reducible refine XKeeps.bind ?_ (fun _ _ _ => ?_)
    | with_reducible refine XKeeps.ok ?_
    | with_reducible refine XKeeps.xcp ?_
    | with_reducible refine raise_keeps ?_
    | with_reducible refine XKeeps.fin ?_
    | with_reducible exact Keeps2.out ‹_›
    | with_reducible apply Keeps2.mk
    | with_reducible refine Keeps.of2 ‹_› ?_

/-! ### Machine/Tables.lean -/

/-- Cx.instFault keeps what every operation keeps. -/
theorem Cx.instFault_keeps {a : State} {m : Mx} {α : Type} {x1 x3} (h : Keeps a m.s) : XKeeps a (Cx.instFault x1 m x3 : XR α) := by
  unfold Cx.instFault
  repeat' first
    | with_reducible assumption
    | dsimp -zeta only
    | with_reducible apply raise_keeps
    | with_reducible refine XKeeps.bind ?_ (fun _ _ _ => ?_)
    | with_reducible refine XKeeps.ok ?_
    | with_reducible refine XKeeps.xcp ?_
    | with_reducible refine raise_keeps ?_
    | with_reducible refine XKeeps.fin ?_
    | with_reducible exact Keeps2.out ‹_›
    | with_reducible apply Keeps2.mk
    | with_reducible refine Keeps.of2 ‹_› ?_
    | split

/-- Mx.more keeps what every operation keeps. -/
theorem Mx.more_keeps {a : State} {m : Mx} {x0 x2 x3 x4} (h : Keeps a m.s) : XKeeps a (Mx.more x0 m x2 x3 x4) := by
  unfold Mx.more
  repeat' first
    | with_reducible assumption
    | dsimp -zeta only
    | with_reducible apply Keeps.ite
    | with_reducible apply Mx.check_keeps
    | with_reducible apply Mx.load_keeps
    | with_reducible apply raise_keeps
    | with_reducible apply Mx.fetch_keeps
    | with_reducible refine XKeeps.bind ?_ (fun _ _ _ => ?_)
    | with_reducible refine XKeeps.ok ?_
    | with_reducible refine XKeeps.xcp ?_
    | with_reducible refine raise_keeps ?_
    | with_reducible refine XKeeps.fin ?_
    | with_reducible exact Keeps2.out ‹_›
    | with_reducible apply Keeps2.mk
    | with_reducible refine Keeps.of2 ‹_› ?_
    | split

/-- Mx.table keeps what every operation keeps. -/
theorem Mx.table_keeps {a : State} {m : Mx} {x0 x2 x3} (h : Keeps a m.s) : XKeeps a (Mx.table x0 m x2 x3) := by
  unfold Mx.table
  repeat' first
    | with_reducible assumption
    | ((fail_if_no_progress extract_lets +onlyGivenNames t); refine (?_ : Keeps a t → _) ?_; (on_goal 2 => unfold t); (on_goal 1 => (clear_value t; intro _)))
    | ((fail_if_no_progress extract_lets +onlyGivenNames t); refine (?_ : Keeps2 a t → _) ?_; (on_goal 2 => unfold t); (on_goal 1 => (clear_value t; intro _)))
    | ((fail_if_no_progress extract_lets +onlyGivenNames t); subst t)
    | dsimp -zeta only
    | with_reducible apply Keeps.ite
    | with_reducible apply Mx.operand_keeps
    | with_reducible apply Mx.fetch_keeps
    | with_reducible apply Cx.instFault_keeps
    | with_reducible refine XKeeps.bind ?_ (fun _ _ _ => ?_)
    | with_reducible refine XKeeps.ok ?_
    | with_reducible refine XKeeps.xcp ?_
    | with_reducible refine raise_keeps ?_
    | with_reducible refine XKeeps.fin ?_
    | with_reducible exact Keeps2.out ‹_›
    | with_reducible apply Keeps2.mk
    | with_reducible refine Keeps.of2 ‹_› ?_
    | split

/-- semTbl keeps what every operation keeps. -/
theorem semTbl_keeps {a : State} : SKeeps a (semTbl ) := by
  intro c m h
  unfold semTbl
  repeat' first
    | with_reducible assumption
    | ((fail_if_no_progress extract_lets +onlyGivenNames t); refine (?_ : Keeps a t → _) ?_; (on_goal 2 => unfold t); (on_goal 1 => (clear_value t; intro _)))
    | ((fail_if_no_progress extract_lets +onlyGivenNames t); refine (?_ : Keeps2 a t → _) ?_; (on_goal 2 => unfold t); (on_goal 1 => (clear_value t; intro _)))
    | ((fail_if_no_progress extract_lets +onlyGivenNames t); subst t)
    | dsimp -zeta only
    | with_reducible apply Keeps.ite
    | with_reducible apply Mx.table_keeps
    | with_reducible apply Mx.more_keeps
    | with_reducible apply Mx.setSt_keeps
    | with_reducible apply Mx.setWa_keeps
    | with_reducible refine XKeeps.bind ?_ (fun _ _ _ => ?_)
    | with_reducible refine XKeeps.ok ?_
    | with_reducible refine XKeeps.xcp ?_
    | with_reducible refine raise_keeps ?_
    | with_reducible refine XKeeps.fin ?_
    | with_reducible exact Keeps2.out ‹_›
    | with_reducible apply Keeps2.mk
    | with_reducible refine Keeps.of2 ‹_› ?_
    | split

/-- semLin keeps what every operation keeps. -/
theorem semLin_keeps {a : State} : SKeeps a (semLin ) := by
  intro c m h
  unfold semLin
  repeat' first
    | with_reducible assumption
    | ((fail_if_no_progress extract_lets +onlyGivenNames t); refine (?_ : Keeps a t → _) ?_; (on_goal 2 => unfold t); (on_goal 1 => (clear_value t; intro _)))
    | ((fail_if_no_progress extract_lets +onlyGivenNames t); refine (?_ : Keeps2 a t → _) ?_; (on_goal 2 => unfold t); (on_goal 1 => (clear_value t; intro _)))
    | ((fail_if_no_progress extract_lets +onlyGivenNames t); subst t)
    | dsimp -zeta only
    | with_reducible apply Keeps.ite
    | with_reducible apply Mx.table_keeps
    | with_reducible apply Mx.more_keeps
    | with_reducible apply Cx.instFault_keeps
    | with_reducible apply Mx.setSt_keeps
    | with_reducible apply Mx.setWa_keeps
    | with_reducible refine XKeeps.bind ?_ (fun _ _ _ => ?_)
    | with_reducible refine XKeeps.ok ?_
    | with_reducible refine XKeeps.xcp ?_
    | with_reducible refine raise_keeps ?_
    | with_reducible refine XKeeps.fin ?_
    | with_reducible exact Keeps2.out ‹_›
    | with_reducible apply Keeps2.mk
    | with_reducible refine Keeps.of2 ‹_› ?_
    | split

/-- semMovb keeps what every operation keeps. -/
theorem semMovb_keeps {a : State} : SKeeps a (semMovb ) := by
  intro c m h
  unfold semMovb
  repeat' first
    | with_reducible assumption
    | ((fail_if_no_progress extract_lets +onlyGivenNames t); refine (?_ : Keeps a t → _) ?_; (on_goal 2 => unfold t); (on_goal 1 => (clear_value t; intro _)))
    | ((fail_if_no_progress extract_lets +onlyGivenNames t); refine (?_ : Keeps2 a t → _) ?_; (on_goal 2 => unfold t); (on_goal 1 => (clear_value t; intro _)))
    | ((fail_if_no_progress extract_lets +onlyGivenNames t); subst t)
    | dsimp -zeta only
    | with_reducible apply Keeps.ite
    | with_reducible apply Mx.operand_keeps
    | with_reducible apply Mx.refuse_keeps
    | with_reducible apply Mx.fetch_keeps
    | with_reducible apply Mx.store_keeps
    | with_reducible refine XKeeps.bind ?_ (fun _ _ _ => ?_)
    | with_reducible refine XKeeps.ok ?_
    | with_reducible refine XKeeps.xcp ?_
    | with_reducible refine raise_keeps ?_
    | with_reducible refine XKeeps.fin ?_
    | with_reducible exact Keeps2.out ‹_›
    | with_reducible apply Keeps2.mk
    | with_reducible refine Keeps.of2 ‹_› ?_
    | split

/-- Mx.recordOp keeps what every operation keeps. -/
theorem Mx.recordOp_keeps {a : State} {m : Mx} {x0 x2 x3} (h : Keeps a m.s) : XKeeps a (Mx.recordOp x0 m x2 x3) := by
  unfold Mx.recordOp
  repeat' first
    | with_reducible assumption
    | dsimp -zeta only
    | with_reducible apply Mx.operand_keeps
    | with_reducible apply Mx.fetch_keeps
    | with_reducible refine XKeeps.bind ?_ (fun _ _ _ => ?_)
    | with_reducible refine XKeeps.ok ?_
    | with_reducible refine XKeeps.xcp ?_
    | with_reducible refine raise_keeps ?_
    | with_reducible refine XKeeps.fin ?_
    | with_reducible exact Keeps2.out ‹_›
    | with_reducible apply Keeps2.mk
    | with_reducible refine Keeps.of2 ‹_› ?_

/-- semTimer keeps what every operation keeps. -/
theorem semTimer_keeps {a : State} {x0 x1} : SKeeps a (semTimer x0 x1) := by
  intro c m h
  unfold semTimer
  repeat' first
    | with_reducible assumption
    | ((fail_if_no_progress extract_lets +onlyGivenNames t); refine (?_ : Keeps a t → _) ?_; (on_goal 2 => unfold t); (on_goal 1 => (clear_value t; intro _)))
    | ((fail_if_no_progress extract_lets +onlyGivenNames t); refine (?_ : Keeps2 a t → _) ?_; (on_goal 2 => unfold t); (on_goal 1 => (clear_value t; intro _)))
    | ((fail_if_no_progress extract_lets +onlyGivenNames t); subst t)
    | dsimp -zeta only
    | with_reducible apply Keeps.ite
    | with_reducible apply Mx.recordOp_keeps
    | with_reducible apply Cx.instFault_keeps
    | with_reducible apply Mx.put_keeps
    | with_reducible apply Mx.setWa_keeps
    | with_reducible apply Mx.setLa_keeps
    | with_reducible refine XKeeps.bind ?_ (fun _ _ _ => ?_)
    | with_reducible refine XKeeps.ok ?_
    | with_reducible refine XKeeps.xcp ?_
    | with_reducible refine raise_keeps ?_
    | with_reducible refine XKeeps.fin ?_
    | with_reducible exact Keeps2.out ‹_›
    | with_reducible apply Keeps2.mk
    | with_reducible refine Keeps.of2 ‹_› ?_
    | split

/-- semTon keeps what every operation keeps. -/
theorem semTon_keeps {a : State} : SKeeps a (semTon ) := by
  intro c m h
  unfold semTon
  repeat' first
    | with_reducible assumption
    | dsimp -zeta only
    | with_reducible refine SKeeps.run semTimer_keeps ?_
    | with_reducible refine XKeeps.bind ?_ (fun _ _ _ => ?_)
    | with_reducible refine XKeeps.ok ?_
    | with_reducible refine XKeeps.xcp ?_
    | with_reducible refine raise_keeps ?_
    | with_reducible refine XKeeps.fin ?_
    | with_reducible exact Keeps2.out ‹_›
    | with_reducible apply Keeps2.mk
    | with_reducible refine Keeps.of2 ‹_› ?_

/-- semTof keeps what every operation keeps. -/
theorem semTof_keeps {a : State} : SKeeps a (semTof ) := by
  intro c m h
  unfold semTof
  repeat' first
    | with_reducible assumption
    | dsimp -zeta only
    | with_reducible refine SKeeps.run semTimer_keeps ?_
    | with_reducible refine XKeeps.bind ?_ (fun _ _ _ => ?_)
    | with_reducible refine XKeeps.ok ?_
    | with_reducible refine XKeeps.xcp ?_
    | with_reducible refine raise_keeps ?_
    | with_reducible refine XKeeps.fin ?_
    | with_reducible exact Keeps2.out ‹_›
    | with_reducible apply Keeps2.mk
    | with_reducible refine Keeps.of2 ‹_› ?_

/-- semTp keeps what every operation keeps. -/
theorem semTp_keeps {a : State} : SKeeps a (semTp ) := by
  intro c m h
  unfold semTp
  repeat' first
    | with_reducible assumption
    | dsimp -zeta only
    | with_reducible refine SKeeps.run semTimer_keeps ?_
    | with_reducible refine XKeeps.bind ?_ (fun _ _ _ => ?_)
    | with_reducible refine XKeeps.ok ?_
    | with_reducible refine XKeeps.xcp ?_
    | with_reducible refine raise_keeps ?_
    | with_reducible refine XKeeps.fin ?_
    | with_reducible exact Keeps2.out ‹_›
    | with_reducible apply Keeps2.mk
    | with_reducible refine Keeps.of2 ‹_› ?_

/-- semCounter keeps what every operation keeps. -/
theorem semCounter_keeps {a : State} {x0 x1} : SKeeps a (semCounter x0 x1) := by
  intro c m h
  unfold semCounter
  repeat' first
    | with_reducible assumption
    | ((fail_if_no_progress extract_lets +onlyGivenNames t); refine (?_ : Keeps a t → _) ?_; (on_goal 2 => unfold t); (on_goal 1 => (clear_value t; intro _)))
    | ((fail_if_no_progress extract_lets +onlyGivenNames t); refine (?_ : Keeps2 a t → _) ?_; (on_goal 2 => unfold t); (on_goal 1 => (clear_value t; intro _)))
    | ((fail_if_no_progress extract_lets +onlyGivenNames t); subst t)
    | dsimp -zeta only
    | with_reducible apply Keeps.ite
    | with_reducible apply Mx.recordOp_keeps
    | with_reducible apply Cx.instFault_keeps
    | with_reducible apply Mx.put_keeps
    | with_reducible apply Mx.setSt_keeps
    | with_reducible refine XKeeps.bind ?_ (fun _ _ _ => ?_)
    | with_reducible refine XKeeps.ok ?_
    | with_reducible refine XKeeps.xcp ?_
    | with_reducible refine raise_keeps ?_
    | with_reducible refine XKeeps.fin ?_
    | with_reducible exact Keeps2.out ‹_›
    | with_reducible apply Keeps2.mk
    | with_reducible refine Keeps.of2 ‹_› ?_
    | split

/-- semCrst keeps what every operation keeps. -/
theorem semCrst_keeps {a : State} : SKeeps a (semCrst ) := by
  intro c m h
  unfold semCrst
  repeat' first
    | with_reducible assumption
    | ((fail_if_no_progress extract_lets +onlyGivenNames t); refine (?_ : Keeps a t → _) ?_; (on_goal 2 => unfold t); (on_goal 1 => (clear_value t; intro _)))
    | ((fail_if_no_progress extract_lets +onlyGivenNames t); subst t)
    | dsimp -zeta only
    | with_reducible apply Keeps.ite
    | with_reducible refine SKeeps.run semCounter_keeps ?_
    | with_reducible refine XKeeps.bind ?_ (fun _ _ _ => ?_)
    | with_reducible refine XKeeps.ok ?_
    | with_reducible refine XKeeps.xcp ?_
    | with_reducible refine raise_keeps ?_
    | with_reducible refine XKeeps.fin ?_
    | with_reducible exact Keeps2.out ‹_›
    | with_reducible apply Keeps2.mk
    | with_reducible refine Keeps.of2 ‹_› ?_
    | split

/-- semCload keeps what every operation keeps. -/
theorem semCload_keeps {a : State} : SKeeps a (semCload ) := by
  intro c m h
  unfold semCload
  repeat' first
    | with_reducible assumption
    | ((fail_if_no_progress extract_lets +onlyGivenNames t); refine (?_ : Keeps a t → _) ?_; (on_goal 2 => unfold t); (on_goal 1 => (clear_value t; intro _)))
    | ((fail_if_no_progress extract_lets +onlyGivenNames t); subst t)
    | dsimp -zeta only
    | with_reducible apply Keeps.ite
    | with_reducible refine SKeeps.run semCounter_keeps ?_
    | with_reducible refine XKeeps.bind ?_ (fun _ _ _ => ?_)
    | with_reducible refine XKeeps.ok ?_
    | with_reducible refine XKeeps.xcp ?_
    | with_reducible refine raise_keeps ?_
    | with_reducible refine XKeeps.fin ?_
    | with_reducible exact Keeps2.out ‹_›
    | with_reducible apply Keeps2.mk
    | with_reducible refine Keeps.of2 ‹_› ?_
    | split

/-- semCtu keeps what every operation keeps. -/
theorem semCtu_keeps {a : State} : SKeeps a (semCtu ) := by
  intro c m h
  unfold semCtu
  repeat' first
    | with_reducible assumption
    | ((fail_if_no_progress extract_lets +onlyGivenNames t); refine (?_ : Keeps a t → _) ?_; (on_goal 2 => unfold t); (on_goal 1 => (clear_value t; intro _)))
    | ((fail_if_no_progress extract_lets +onlyGivenNames t); subst t)
    | dsimp -zeta only
    | with_reducible refine SKeeps.run semCounter_keeps ?_
    | with_reducible refine XKeeps.bind ?_ (fun _ _ _ => ?_)
    | with_reducible refine XKeeps.ok ?_
    | with_reducible refine XKeeps.xcp ?_
    | with_reducible refine raise_keeps ?_
    | with_reducible refine XKeeps.fin ?_
    | with_reducible exact Keeps2.out ‹_›
    | with_reducible apply Keeps2.mk
    | with_reducible refine Keeps.of2 ‹_› ?_

/-- semCtd keeps what every operation keeps. -/
theorem semCtd_keeps {a : State} : SKeeps a (semCtd ) := by
  intro c m h
  unfold semCtd
  repeat' first
    | with_reducible assumption
    | ((fail_if_no_progress extract_lets +onlyGivenNames t); refine (?_ : Keeps a t → _) ?_; (on_goal 2 => unfold t); (on_goal 1 => (clear_value t; intro _)))
    | ((fail_if_no_progress extract_lets +onlyGivenNames t); subst t)
    | dsimp -zeta only
    | with_reducible refine SKeeps.run semCounter_keeps ?_
    | with_reducible refine XKeeps.bind ?_ (fun _ _ _ => ?_)
    | with_reducible refine XKeeps.ok ?_
    | with_reducible refine XKeeps.xcp ?_
    | with_reducible refine raise_keeps ?_
    | with_reducible refine XKeeps.fin ?_
    | with_reducible exact Keeps2.out ‹_›
    | with_reducible apply Keeps2.mk
    | with_reducible refine Keeps.of2 ‹_› ?_

/-- semCtud keeps what every operation keeps. -/
theorem semCtud_keeps {a : State} : SKeeps a (semCtud ) := by
  intro c m h
  unfold semCtud
  repeat' first
    | with_reducible assumption
    | ((fail_if_no_progress extract_lets +onlyGivenNames t); refine (?_ : Keeps a t → _) ?_; (on_goal 2 => unfold t); (on_goal 1 => (clear_value t; intro _)))
    | ((fail_if_no_progress extract_lets +onlyGivenNames t); subst t)
    | dsimp -zeta only
    | with_reducible apply Keeps.ite
    | with_reducible refine SKeeps.run semCounter_keeps ?_
    | with_reducible refine XKeeps.bind ?_ (fun _ _ _ => ?_)
    | with_reducible refine XKeeps.ok ?_
    | with_reducible refine XKeeps.xcp ?_
    | with_reducible refine raise_keeps ?_
    | with_reducible refine XKeeps.fin ?_
    | with_reducible exact Keeps2.out ‹_›
    | with_reducible apply Keeps2.mk
    | with_reducible refine Keeps.of2 ‹_› ?_
    | split

/-- semEdge keeps what every operation keeps. -/
theorem semEdge_keeps {a : State} {x0} : SKeeps a (semEdge x0) := by
  intro c m h
  unfold semEdge
  repeat' first
    | with_reducible assumption
    | ((fail_if_no_progress extract_lets +onlyGivenNames t); refine (?_ : Keeps a t → _) ?_; (on_goal 2 => unfold t); (on_goal 1 => (clear_value t; intro _)))
    | ((fail_if_no_progress extract_lets +onlyGivenNames t); refine (?_ : Keeps2 a t → _) ?_; (on_goal 2 => unfold t); (on_goal 1 => (clear_value t; intro _)))
    | ((fail_if_no_progress extract_lets +onlyGivenNames t); subst t)
    | dsimp -zeta only
    | with_reducible apply Keeps.ite
    | with_reducible apply Mx.recordOp_keeps
    | with_reducible apply Cx.instFault_keeps
    | with_reducible apply Mx.setLa_keeps
    | with_reducible apply Mx.put_keeps
    | with_reducible refine XKeeps.bind ?_ (fun _ _ _ => ?_)
    | with_reducible refine XKeeps.ok ?_
    | with_reducible refine XKeeps.xcp ?_
    | with_reducible refine raise_keeps ?_
    | with_reducible refine XKeeps.fin ?_
    | with_reducible exact Keeps2.out ‹_›
    | with_reducible apply Keeps2.mk
    | with_reducible refine Keeps.of2 ‹_› ?_
    | split

/-! ### Machine/Branches.lean -/

/-- semJmp keeps what every operation keeps. -/
theorem semJmp_keeps {a : State} : SKeeps a (semJmp ) := by
  intro c m h
  unfold semJmp
  repeat' first
    | with_reducible assumption
    | dsimp -zeta only
    | with_reducible apply raise_keeps
    | with_reducible refine XKeeps.bind ?_ (fun _ _ _ => ?_)
    | with_reducible refine XKeeps.ok ?_
    | with_reducible refine XKeeps.xcp ?_
    | with_reducible refine raise_keeps ?_
    | with_reducible refine XKeeps.fin ?_
    | with_reducible exact Keeps2.out ‹_›
    | with_reducible apply Keeps2.mk
    | with_reducible refine Keeps.of2 ‹_› ?_
    | split

/-- semCall keeps what every operation keeps. -/
theorem semCall_keeps {a : State} : SKeeps a (semCall ) := by
  intro c m h
  unfold semCall
  repeat' first
    | with_reducible assumption
    | ((fail_if_no_progress extract_lets +onlyGivenNames t); refine (?_ : Keeps a t → _) ?_; (on_goal 2 => unfold t); (on_goal 1 => (clear_value t; intro _)))
    | ((fail_if_no_progress extract_lets +onlyGivenNames t); refine (?_ : Keeps2 a t → _) ?_; (on_goal 2 => unfold t); (on_goal 1 => (clear_value t; intro _)))
    | ((fail_if_no_progress extract_lets +onlyGivenNames t); subst t)
    | dsimp -zeta only
    | with_reducible apply Keeps.ite
    | with_reducible apply raise_keeps
    | with_reducible apply Mx.setSt_keeps
    | with_reducible refine XKeeps.bind ?_ (fun _ _ _ => ?_)
    | with_reducible refine XKeeps.ok ?_
    | with_reducible refine XKeeps.xcp ?_
    | with_reducible refine raise_keeps ?_
    | with_reducible refine XKeeps.fin ?_
    | with_reducible exact Keeps2.out ‹_›
    | with_reducible apply Keeps2.mk
    | with_reducible refine Keeps.of2 ‹_› ?_
    | split

/-- semRet keeps what every operation keeps. -/
theorem semRet_keeps {a : State} : SKeeps a (semRet ) := by
  intro c m h
  unfold semRet
  repeat' first
    | with_reducible assumption
    | dsimp -zeta only
    | with_reducible apply Keeps.ite
    | with_reducible apply raise_keeps
    | with_reducible refine XKeeps.bind ?_ (fun _ _ _ => ?_)
    | with_reducible refine XKeeps.ok ?_
    | with_reducible refine XKeeps.xcp ?_
    | with_reducible refine raise_keeps ?_
    | with_reducible refine XKeeps.fin ?_
    | with_reducible exact Keeps2.out ‹_›
    | with_reducible apply Keeps2.mk
    | with_reducible refine Keeps.of2 ‹_› ?_
    | split

/-- semLoop keeps what every operation keeps. -/
theorem semLoop_keeps {a : State} {x0} : SKeeps a (semLoop x0) := by
  intro c m h
  unfold semLoop
  repeat' first
    | with_reducible assumption
    | ((fail_if_no_progress extract_lets +onlyGivenNames t); refine (?_ : Keeps a t → _) ?_; (on_goal 2 => unfold t); (on_goal 1 => (clear_value t; intro _)))
    | ((fail_if_no_progress extract_lets +onlyGivenNames t); refine (?_ : Keeps2 a t → _) ?_; (on_goal 2 => unfold t); (on_goal 1 => (clear_value t; intro _)))
    | ((fail_if_no_progress extract_lets +onlyGivenNames t); subst t)
    | dsimp -zeta only
    | with_reducible apply Keeps.ite
    | with_reducible apply raise_keeps
    | with_reducible apply Mx.setSt_keeps
    | with_reducible refine XKeeps.bind ?_ (fun _ _ _ => ?_)
    | with_reducible refine XKeeps.ok ?_
    | with_reducible refine XKeeps.xcp ?_
    | with_reducible refine raise_keeps ?_
    | with_reducible refine XKeeps.fin ?_
    | with_reducible exact Keeps2.out ‹_›
    | with_reducible apply Keeps2.mk
    | with_reducible refine Keeps.of2 ‹_› ?_
    | split

/-- semEnd keeps what every operation keeps. -/
theorem semEnd_keeps {a : State} : SKeeps a (semEnd ) := by
  intro c m h
  unfold semEnd
  repeat' first
    | with_reducible assumption
    | dsimp -zeta only
    | with_reducible apply Keeps.ite
    | with_reducible apply raise_keeps
    | with_reducible refine XKeeps.bind ?_ (fun _ _ _ => ?_)
    | with_reducible refine XKeeps.ok ?_
    | with_reducible refine XKeeps.xcp ?_
    | with_reducible refine raise_keeps ?_
    | with_reducible refine XKeeps.fin ?_
    | with_reducible exact Keeps2.out ‹_›
    | with_reducible apply Keeps2.mk
    | with_reducible refine Keeps.of2 ‹_› ?_
    | split

/-- semSync keeps what every operation keeps. -/
theorem semSync_keeps {a : State} : SKeeps a (semSync ) := by
  intro c m h
  unfold semSync
  repeat' first
    | with_reducible assumption
    | dsimp -zeta only
    | with_reducible refine XKeeps.bind ?_ (fun _ _ _ => ?_)
    | with_reducible refine XKeeps.ok ?_
    | with_reducible refine XKeeps.xcp ?_
    | with_reducible refine raise_keeps ?_
    | with_reducible refine XKeeps.fin ?_
    | with_reducible exact Keeps2.out ‹_›
    | with_reducible apply Keeps2.mk
    | with_reducible refine Keeps.of2 ‹_› ?_

/-- semModeset keeps what every operation keeps. -/
theorem semModeset_keeps {a : State} : SKeeps a (semModeset ) := by
  intro c m h
  unfold semModeset
  repeat' first
    | with_reducible assumption
    | dsimp -zeta only
    | with_reducible refine XKeeps.bind ?_ (fun _ _ _ => ?_)
    | with_reducible refine XKeeps.ok ?_
    | with_reducible refine XKeeps.xcp ?_
    | with_reducible refine raise_keeps ?_
    | with_reducible refine XKeeps.fin ?_
    | with_reducible exact Keeps2.out ‹_›
    | with_reducible apply Keeps2.mk
    | with_reducible refine Keeps.of2 ‹_› ?_

/-- semTrap keeps what every operation keeps. -/
theorem semTrap_keeps {a : State} : SKeeps a (semTrap ) := by
  intro c m h
  unfold semTrap
  repeat' first
    | with_reducible assumption
    | dsimp -zeta only
    | with_reducible refine XKeeps.bind ?_ (fun _ _ _ => ?_)
    | with_reducible refine XKeeps.ok ?_
    | with_reducible refine XKeeps.xcp ?_
    | with_reducible refine raise_keeps ?_
    | with_reducible refine XKeeps.fin ?_
    | with_reducible exact Keeps2.out ‹_›
    | with_reducible apply Keeps2.mk
    | with_reducible refine Keeps.of2 ‹_› ?_

/-- semTime keeps what every operation keeps. -/
theorem semTime_keeps {a : State} : SKeeps a (semTime ) := by
  intro c m h
  unfold semTime
  repeat' first
    | with_reducible assumption
    | dsimp -zeta only
    | with_reducible apply Mx.setWa_keeps
    | with_reducible refine XKeeps.bind ?_ (fun _ _ _ => ?_)
    | with_reducible refine XKeeps.ok ?_
    | with_reducible refine XKeeps.xcp ?_
    | with_reducible refine raise_keeps ?_
    | with_reducible refine XKeeps.fin ?_
    | with_reducible exact Keeps2.out ‹_›
    | with_reducible apply Keeps2.mk
    | with_reducible refine Keeps.of2 ‹_› ?_

/-- semSetev keeps what every operation keeps. -/
theorem semSetev_keeps {a : State} : SKeeps a (semSetev ) := by
  intro c m h
  unfold semSetev
  repeat' first
    | with_reducible assumption
    | ((fail_if_no_progress extract_lets +onlyGivenNames t); refine (?_ : Keeps a t → _) ?_; (on_goal 2 => unfold t); (on_goal 1 => (clear_value t; intro _)))
    | ((fail_if_no_progress extract_lets +onlyGivenNames t); refine (?_ : Keeps2 a t → _) ?_; (on_goal 2 => unfold t); (on_goal 1 => (clear_value t; intro _)))
    | ((fail_if_no_progress extract_lets +onlyGivenNames t); subst t)
    | dsimp -zeta only
    | with_reducible refine XKeeps.bind ?_ (fun _ _ _ => ?_)
    | with_reducible refine XKeeps.ok ?_
    | with_reducible refine XKeeps.xcp ?_
    | with_reducible refine raise_keeps ?_
    | with_reducible refine XKeeps.fin ?_
    | with_reducible exact Keeps2.out ‹_›
    | with_reducible apply Keeps2.mk
    | with_reducible refine Keeps.of2 ‹_› ?_

/-- semDiag keeps what every operation keeps. -/
theorem semDiag_keeps {a : State} : SKeeps a (semDiag ) := by
  intro c m h
  unfold semDiag
  repeat' first
    | with_reducible assumption
    | ((fail_if_no_progress extract_lets +onlyGivenNames t); refine (?_ : Keeps a t → _) ?_; (on_goal 2 => unfold t); (on_goal 1 => (clear_value t; intro _)))
    | ((fail_if_no_progress extract_lets +onlyGivenNames t); refine (?_ : Keeps2 a t → _) ?_; (on_goal 2 => unfold t); (on_goal 1 => (clear_value t; intro _)))
    | ((fail_if_no_progress extract_lets +onlyGivenNames t); subst t)
    | dsimp -zeta only
    | with_reducible refine XKeeps.bind ?_ (fun _ _ _ => ?_)
    | with_reducible refine XKeeps.ok ?_
    | with_reducible refine XKeeps.xcp ?_
    | with_reducible refine raise_keeps ?_
    | with_reducible refine XKeeps.fin ?_
    | with_reducible exact Keeps2.out ‹_›
    | with_reducible apply Keeps2.mk
    | with_reducible refine Keeps.of2 ‹_› ?_

/-! ### Machine/Xcp.lean -/

/-- State.clearPend keeps what every operation keeps. -/
theorem State.clearPend_keeps {a s : State} {x1} (h : Keeps a s) : Keeps a (State.clearPend s x1) := by
  unfold State.clearPend
  repeat' first
    | with_reducible assumption
    | dsimp -zeta only
    | with_reducible apply Keeps.ite
    | with_reducible apply State.commitCore_keeps
    | split

/-- State.initFailed keeps what every operation keeps. -/
theorem State.initFailed_keeps {a s : State} (h : Keeps a s) : Keeps a (State.initFailed s) := by
  unfold State.initFailed
  repeat' first
    | with_reducible assumption
    | ((fail_if_no_progress extract_lets +onlyGivenNames t); refine (?_ : Keeps a t → _) ?_; (on_goal 2 => unfold t); (on_goal 1 => (clear_value t; intro _)))
    | ((fail_if_no_progress extract_lets +onlyGivenNames t); subst t)
    | dsimp -zeta only
    | with_reducible apply State.share_keeps
    | fail_if_no_progress (with_reducible refine Keeps.upd ?_ rfl rfl rfl rfl rfl rfl)

/-- State.raiseXcp keeps what every operation keeps. -/
theorem State.raiseXcp_keeps {a s : State} {x1 x2 x3 x4 x5 x6 x7} (h : Keeps a s) : Keeps a (State.raiseXcp s x1 x2 x3 x4 x5 x6 x7) := by
  unfold State.raiseXcp
  repeat' first
    | with_reducible assumption
    | ((fail_if_no_progress extract_lets +onlyGivenNames t); refine (?_ : Keeps a t → _) ?_; (on_goal 2 => unfold t); (on_goal 1 => (clear_value t; intro _)))
    | ((fail_if_no_progress extract_lets +onlyGivenNames t); subst t)
    | dsimp -zeta only
    | with_reducible apply Keeps.ite
    | with_reducible apply State.leaveOld_keeps
    | with_reducible apply State.modTask_keeps
    | with_reducible apply State.bump_keeps
    | with_reducible apply State.setF_keeps
    | with_reducible apply State.putRun_keeps
    | with_reducible apply State.commitCore_keeps
    | with_reducible apply State.report_keeps
    | with_reducible apply State.event_keeps
    | with_reducible apply State.callErrorTask_keeps
    | with_reducible apply State.wdStop_keeps
    | with_reducible apply State.abortCycle_keeps
    | with_reducible apply State.initFailed_keeps
    | split

/-- State.rerunFail keeps what every operation keeps. -/
theorem State.rerunFail_keeps {a s : State} {x1} (h : Keeps a s) : Keeps a (State.rerunFail s x1) := by
  unfold State.rerunFail
  repeat' first
    | with_reducible assumption
    | ((fail_if_no_progress extract_lets +onlyGivenNames t); refine (?_ : Keeps a t → _) ?_; (on_goal 2 => unfold t); (on_goal 1 => (clear_value t; intro _)))
    | ((fail_if_no_progress extract_lets +onlyGivenNames t); subst t)
    | dsimp -zeta only
    | with_reducible apply Keeps.ite
    | with_reducible apply State.putRun_keeps
    | with_reducible apply State.bump_keeps
    | with_reducible apply State.wdStop_keeps
    | with_reducible apply State.abortCycle_keeps
    | with_reducible apply State.initFailed_keeps
    | split

/-- State.dispose keeps what every operation keeps. -/
theorem State.dispose_keeps {a s : State} {x1 x2} (h : Keeps a s) : Keeps a (State.dispose s x1 x2) := by
  unfold State.dispose
  repeat' first
    | with_reducible assumption
    | ((fail_if_no_progress extract_lets +onlyGivenNames t); refine (?_ : Keeps a t → _) ?_; (on_goal 2 => unfold t); (on_goal 1 => (clear_value t; intro _)))
    | ((fail_if_no_progress extract_lets +onlyGivenNames t); subst t)
    | dsimp -zeta only
    | with_reducible apply Keeps.ite
    | with_reducible apply State.setF_keeps
    | with_reducible apply State.putRun_keeps
    | with_reducible apply State.abortCycle_keeps
    | with_reducible apply State.bump_keeps
    | split

/-- State.abortXcp keeps what every operation keeps. -/
theorem State.abortXcp_keeps {a s : State} {x1} (h : Keeps a s) : Keeps a (State.abortXcp s x1) := by
  unfold State.abortXcp
  repeat' first
    | with_reducible assumption
    | dsimp -zeta only
    | with_reducible apply Keeps.ite
    | with_reducible apply State.dispose_keeps
    | with_reducible apply State.clearPend_keeps
    | split

/-- State.raiseHeld keeps what every operation keeps. -/
theorem State.raiseHeld_keeps {a s : State} {x1} (h : Keeps a s) : Keeps a (State.raiseHeld s x1) := by
  unfold State.raiseHeld
  repeat' first
    | with_reducible assumption
    | ((fail_if_no_progress extract_lets +onlyGivenNames t); refine (?_ : Keeps a t → _) ?_; (on_goal 2 => unfold t); (on_goal 1 => (clear_value t; intro _)))
    | ((fail_if_no_progress extract_lets +onlyGivenNames t); subst t)
    | dsimp -zeta only
    | with_reducible apply Keeps.ite
    | with_reducible apply State.rerunFail_keeps
    | with_reducible apply State.raiseXcp_keeps
    | split

/-- State.settle keeps what every operation keeps. -/
theorem State.settle_keeps {a s : State} {x1} (h : Keeps a s) : Keeps a (State.settle s x1) := by
  unfold State.settle
  repeat' first
    | with_reducible assumption
    | dsimp -zeta only
    | with_reducible apply Keeps.ite
    | with_reducible apply State.raiseHeld_keeps
    | split

/-- State.settleAll keeps what every operation keeps. -/
theorem State.settleAll_keeps {a s : State} (h : Keeps a s) : Keeps a (State.settleAll s) := by
  unfold State.settleAll
  repeat' first
    | with_reducible assumption
    | dsimp -zeta only
    | with_reducible apply State.settle_keeps
    | with_reducible exact Keeps1.out ‹_›
    | with_reducible apply Keeps1.mk
    | with_reducible refine Keeps1.foldl ?_ (fun _ _ _ => ?_)
    | with_reducible refine Keeps1.out ?_
    | with_reducible exact Keeps2.out ‹_›
    | with_reducible apply Keeps2.mk
    | with_reducible refine Keeps2.foldl ?_ (fun _ _ _ => ?_)
    | with_reducible refine Keeps2.out ?_
    | with_reducible refine Keeps.foldl ?_ (fun _ _ _ => ?_)

/-- State.invalTask keeps what every operation keeps. -/
theorem State.invalTask_keeps {a s : State} {x1} (h : Keeps a s) : Keeps a (State.invalTask s x1) := by
  unfold State.invalTask
  repeat' first
    | with_reducible assumption
    | dsimp -zeta only
    | with_reducible apply State.settle_keeps
    | with_reducible apply State.specInval_keeps

/-- State.genCheck keeps what every operation keeps. -/
theorem State.genCheck_keeps {a s : State} (h : Keeps a s) : Keeps a (State.genCheck s) := by
  unfold State.genCheck
  repeat' first
    | with_reducible assumption
    | dsimp -zeta only
    | with_reducible apply State.settleAll_keeps
    | with_reducible apply State.specGenCheck_keeps

/-- State.invalAll keeps what every operation keeps. -/
theorem State.invalAll_keeps {a s : State} (h : Keeps a s) : Keeps a (State.invalAll s) := by
  unfold State.invalAll
  repeat' first
    | with_reducible assumption
    | dsimp -zeta only
    | with_reducible apply State.settleAll_keeps
    | with_reducible apply State.specInvalAll_keeps

/-- State.judge keeps what every operation keeps. -/
theorem State.judge_keeps {a s : State} {x1} (h : Keeps a s) : Keeps2 a (State.judge s x1) := by
  unfold State.judge
  refine Keeps2.foldl (Keeps2.mk h) (fun p x hp => ?_)
  dsimp only
  split
  · split
    · exact Keeps2.mk (Keeps2.out hp)
    · exact Keeps2.mk (State.bump_keeps (Keeps2.out hp))
  · exact hp

/-- State.dispWrite keeps what every operation keeps. -/
theorem State.dispWrite_keeps {a s : State} {x1 x2} (h : Keeps a s) : Keeps a (State.dispWrite s x1 x2) := by
  unfold State.dispWrite
  repeat' first
    | with_reducible assumption
    | ((fail_if_no_progress extract_lets +onlyGivenNames t); refine (?_ : Keeps a t → _) ?_; (on_goal 2 => unfold t); (on_goal 1 => (clear_value t; intro _)))
    | ((fail_if_no_progress extract_lets +onlyGivenNames t); subst t)
    | dsimp -zeta only
    | with_reducible apply Keeps.ite
    | with_reducible apply State.ignored_keeps
    | with_reducible apply State.bump_keeps
    | with_reducible apply State.share_keeps
    | split
    | fail_if_no_progress (with_reducible refine Keeps.upd ?_ rfl rfl rfl rfl rfl rfl)

/-- State.applyDisps keeps what every operation keeps. -/
theorem State.applyDisps_keeps {a s : State} (h : Keeps a s) : Keeps a (State.applyDisps s) := by
  unfold State.applyDisps
  repeat' first
    | with_reducible assumption
    | ((fail_if_no_progress extract_lets +onlyGivenNames t); refine (?_ : Keeps a t → _) ?_; (on_goal 2 => unfold t); (on_goal 1 => (clear_value t; intro _)))
    | ((fail_if_no_progress extract_lets +onlyGivenNames t); refine (?_ : Keeps2 a t → _) ?_; (on_goal 2 => unfold t); (on_goal 1 => (clear_value t; intro _)))
    | ((fail_if_no_progress extract_lets +onlyGivenNames t); refine (?_ : Keeps1 a t → _) ?_; (on_goal 2 => unfold t); (on_goal 1 => (clear_value t; intro _)))
    | ((fail_if_no_progress extract_lets +onlyGivenNames t); subst t)
    | dsimp -zeta only
    | with_reducible apply Keeps.ite
    | with_reducible apply State.setF_keeps
    | with_reducible apply State.dispose_keeps
    | with_reducible apply State.clearPend_keeps
    | with_reducible apply State.bump_keeps
    | with_reducible exact Keeps1.out ‹_›
    | with_reducible apply Keeps1.mk
    | with_reducible apply Keeps1.ite
    | with_reducible refine Keeps1.foldl ?_ (fun _ _ _ => ?_)
    | with_reducible refine Keeps1.out ?_
    | with_reducible exact Keeps2.out ‹_›
    | with_reducible apply Keeps2.mk
    | with_reducible apply Keeps2.ite
    | with_reducible refine Keeps2.foldl ?_ (fun _ _ _ => ?_)
    | with_reducible refine Keeps2.out ?_
    | with_reducible refine Keeps.foldl ?_ (fun _ _ _ => ?_)
    | split
    | fail_if_no_progress (with_reducible refine Keeps.upd ?_ rfl rfl rfl rfl rfl rfl)

/-- State.specArm keeps what every operation keeps. -/
theorem State.specArm_keeps {a s : State} {x1} (h : Keeps a s) : Keeps a (State.specArm s x1) := by
  unfold State.specArm
  repeat' first
    | with_reducible assumption
    | dsimp -zeta only
    | with_reducible apply Keeps.ite
    | with_reducible apply State.specState_keeps
    | split

/-- State.specFollow keeps what every operation keeps. -/
theorem State.specFollow_keeps {a s : State} (h : Keeps a s) : Keeps a (State.specFollow s) := by
  unfold State.specFollow
  repeat' first
    | with_reducible assumption
    | ((fail_if_no_progress extract_lets +onlyGivenNames t); refine (?_ : Keeps a t → _) ?_; (on_goal 2 => unfold t); (on_goal 1 => (clear_value t; intro _)))
    | ((fail_if_no_progress extract_lets +onlyGivenNames t); refine (?_ : Keeps2 a t → _) ?_; (on_goal 2 => unfold t); (on_goal 1 => (clear_value t; intro _)))
    | ((fail_if_no_progress extract_lets +onlyGivenNames t); refine (?_ : Keeps1 a t → _) ?_; (on_goal 2 => unfold t); (on_goal 1 => (clear_value t; intro _)))
    | ((fail_if_no_progress extract_lets +onlyGivenNames t); subst t)
    | dsimp -zeta only
    | with_reducible apply Keeps.ite
    | with_reducible apply State.specArm_keeps
    | with_reducible exact Keeps1.out ‹_›
    | with_reducible apply Keeps1.mk
    | with_reducible apply Keeps1.ite
    | with_reducible refine Keeps1.foldl ?_ (fun _ _ _ => ?_)
    | with_reducible refine Keeps1.out ?_
    | with_reducible exact Keeps2.out ‹_›
    | with_reducible apply Keeps2.mk
    | with_reducible apply Keeps2.ite
    | with_reducible refine Keeps2.foldl ?_ (fun _ _ _ => ?_)
    | with_reducible refine Keeps2.out ?_
    | with_reducible refine Keeps.foldl ?_ (fun _ _ _ => ?_)
    | split

/-- State.commitCycle keeps what every operation keeps. -/
theorem State.commitCycle_keeps {a s : State} {x1 x2} (h : Keeps a s) : Keeps a (State.commitCycle s x1 x2) := by
  unfold State.commitCycle
  extract_lets t st w j s1 own w1 i s2 s3 s4 s5
  have hj : Keeps2 a j := Keeps2.ite (State.judge_keeps h) (Keeps2.mk h)
  clear_value j
  have h2 : Keeps a s2 := State.commitCore_keeps (Keeps2.out hj)
  clear_value s2 i w1
  have h4 : Keeps a s4 := State.specArm_keeps (State.endCycle_keeps (State.modTask_keeps h2))
  clear_value s4
  have h5 : Keeps a s5 := Keeps.foldl h4 (fun s x h => State.dispose_keeps h)
  exact Keeps.upd h5 rfl rfl rfl rfl rfl rfl

/-- State.commitOld keeps what every operation keeps. -/
theorem State.commitOld_keeps {a s : State} {x1 x2} (h : Keeps a s) : Keeps a (State.commitOld s x1 x2) := by
  unfold State.commitOld
  extract_lets t w m s1 i j s2 i2 s3 s4
  have h1 : Keeps a s1 := State.bump_keeps h
  clear_value s1
  have hj : Keeps2 a j := Keeps2.ite (State.judge_keeps h1) (Keeps2.mk h1)
  clear_value j i
  have h3 : Keeps a s3 := State.modTask_keeps (State.commitCore_keeps (Keeps2.out hj))
  clear_value s3
  have h4 : Keeps a s4 := State.specArm_keeps (State.modTask_keeps (State.endCycle_keeps h3))
  clear_value s4
  exact Keeps.foldl h4 (fun s x h => State.dispose_keeps h)

/-- State.commitTask keeps what every operation keeps. -/
theorem State.commitTask_keeps {a s : State} {x1 x2} (h : Keeps a s) : Keeps a (State.commitTask s x1 x2) := by
  unfold State.commitTask
  repeat' first
    | with_reducible assumption
    | dsimp -zeta only
    | with_reducible apply Keeps.ite
    | with_reducible apply State.commitCycle_keeps
    | with_reducible apply State.commitOld_keeps
    | split

/-! ### Machine/Objects.lean -/

/-- Mx.linkRead keeps what every operation keeps. -/
theorem Mx.linkRead_keeps {a : State} {m : Mx} {x0 x2 x3} (h : Keeps a m.s) : XKeeps a (Mx.linkRead x0 m x2 x3) := by
  unfold Mx.linkRead
  repeat' first
    | with_reducible assumption
    | ((fail_if_no_progress extract_lets +onlyGivenNames t); refine (?_ : Keeps a t → _) ?_; (on_goal 2 => unfold t); (on_goal 1 => (clear_value t; intro _)))
    | ((fail_if_no_progress extract_lets +onlyGivenNames t); refine (?_ : Keeps2 a t → _) ?_; (on_goal 2 => unfold t); (on_goal 1 => (clear_value t; intro _)))
    | ((fail_if_no_progress extract_lets +onlyGivenNames t); subst t)
    | dsimp -zeta only
    | with_reducible apply Keeps.ite
    | with_reducible apply Mx.tagEntry_keeps
    | with_reducible apply raise_keeps
    | with_reducible apply Mx.check_keeps
    | with_reducible apply Mx.load_keeps
    | with_reducible refine XKeeps.bind ?_ (fun _ _ _ => ?_)
    | with_reducible refine XKeeps.ok ?_
    | with_reducible refine XKeeps.xcp ?_
    | with_reducible refine raise_keeps ?_
    | with_reducible refine XKeeps.fin ?_
    | with_reducible exact Keeps2.out ‹_›
    | with_reducible apply Keeps2.mk
    | with_reducible refine Keeps.of2 ‹_› ?_
    | split

/-- Mx.linkWrite keeps what every operation keeps. -/
theorem Mx.linkWrite_keeps {a : State} {m : Mx} {x0 x2} (h : Keeps a m.s) : XKeeps a (Mx.linkWrite x0 m x2) := by
  unfold Mx.linkWrite
  repeat' first
    | with_reducible assumption
    | ((fail_if_no_progress extract_lets +onlyGivenNames t); refine (?_ : Keeps a t → _) ?_; (on_goal 2 => unfold t); (on_goal 1 => (clear_value t; intro _)))
    | ((fail_if_no_progress extract_lets +onlyGivenNames t); refine (?_ : Keeps2 a t → _) ?_; (on_goal 2 => unfold t); (on_goal 1 => (clear_value t; intro _)))
    | ((fail_if_no_progress extract_lets +onlyGivenNames t); subst t)
    | dsimp -zeta only
    | with_reducible apply Keeps.ite
    | with_reducible apply Mx.tagEntry_keeps
    | with_reducible apply raise_keeps
    | with_reducible apply Mx.check_keeps
    | with_reducible refine XKeeps.bind ?_ (fun _ _ _ => ?_)
    | with_reducible refine XKeeps.ok ?_
    | with_reducible refine XKeeps.xcp ?_
    | with_reducible refine raise_keeps ?_
    | with_reducible refine XKeeps.fin ?_
    | with_reducible exact Keeps2.out ‹_›
    | with_reducible apply Keeps2.mk
    | with_reducible refine Keeps.of2 ‹_› ?_
    | split

/-- A part repeated over a list. -/
theorem XKeeps.foldl {α β : Type} {a : State} {f : XR α → β → XR α} {l : List β} {x : XR α} (h : XKeeps a x)
    (hf : ∀ x b, XKeeps a x → XKeeps a (f x b)) : XKeeps a (l.foldl f x) := by
  induction l generalizing x with
  | nil => exact h
  | cons b l ih => exact ih (hf x b h)

/-- Mx.linksIn keeps what every operation keeps. -/
theorem Mx.linksIn_keeps {a : State} {m : Mx} {x0 x2 x3 x4} (h : Keeps a m.s) : XKeeps a (Mx.linksIn x0 m x2 x3 x4) := by
  unfold Mx.linksIn
  refine XKeeps.foldl (XKeeps.ok h) (fun x i hx => XKeeps.bind hx (fun o m hm => ?_))
  split
  · exact XKeeps.ok hm
  · split <;> exact XKeeps.bind (Mx.linkRead_keeps hm) (fun v m hm => XKeeps.ok hm)

/-- Mx.linksOut keeps what every operation keeps. -/
theorem Mx.linksOut_keeps {a : State} {m : Mx} {x0 x2 x3} (h : Keeps a m.s) : XKeeps a (Mx.linksOut x0 m x2 x3) := by
  unfold Mx.linksOut
  refine XKeeps.foldl (XKeeps.ok h) (fun x i hx => XKeeps.bind hx (fun o m hm => ?_))
  split
  · exact XKeeps.ok hm
  · exact XKeeps.bind (Mx.linkWrite_keeps hm) (fun v m hm => XKeeps.ok hm)

/-- Mx.clobber keeps what every operation keeps. -/
theorem Mx.clobber_keeps {a : State} {m : Mx} (h : Keeps a m.s) : Keeps a (Mx.clobber m).s := by
  unfold Mx.clobber
  generalize List.range 10 = l
  induction l generalizing m with
  | nil => exact h
  | cons i l ih => exact ih (Mx.setSt_keeps (Keeps2.out (State.free_keeps h)))

/-- An operation on the instruction's state repeated over a list. -/
theorem Mx.foldl_keeps {β : Type} {a : State} {f : Mx → β → Mx} {l : List β} {m : Mx} (h : Keeps a m.s)
    (hf : ∀ m b, Keeps a m.s → Keeps a (f m b).s) : Keeps a (l.foldl f m).s := by
  induction l generalizing m with
  | nil => exact h
  | cons b l ih => exact ih (hf m b h)

/-- semObject keeps what every operation keeps. -/
theorem semObject_keeps {a : State} {x0} : SKeeps a (semObject x0) := by
  intro c m h
  unfold semObject
  extract_lets p t chk valve skip
  with_reducible refine XKeeps.ite (raise_keeps h) (XKeeps.ite (raise_keeps h) (XKeeps.ite (raise_keeps h) ?_))
  have hc : ∀ {k m}, Keeps a m.s → XKeeps a (chk k m) := by
    intro k m h
    show XKeeps a (match m.s.laneRefuses c.e.newRules c.t k p 192 with
      | some b => m.refuse c k b p
      | none => .ok () m)
    generalize m.s.laneRefuses c.e.newRules c.t k p 192 = o
    cases o with
    | none => exact XKeeps.ok h
    | some b => exact Mx.refuse_keeps h
  clear_value chk
  refine XKeeps.bind (hc h) (fun _ m h => XKeeps.bind (hc h) (fun _ m h => XKeeps.bind (Mx.load_keeps h) (fun r m h => ?_)))
  with_reducible refine XKeeps.ite (raise_keeps h) ?_
  refine XKeeps.bind (Mx.linksIn_keeps h) (fun x m h => XKeeps.bind (Mx.linksOut_keeps h) (fun outs m h => ?_))
  extract_lets o drive m1 m2 tag run m3 m4 b
  have h1 : Keeps a m1.s := by
    refine Mx.foldl_keeps h (fun m d h => ?_)
    split
    · exact Mx.store_keeps h
    · exact h
  have h2 : Keeps a m2.s := Mx.store_keeps h1
  have h4 : Keeps a m4.s := Mx.clobber_keeps (m := m3) h2
  exact XKeeps.ok (Mx.setSt_keeps h4)

/-! ### Machine/Flx.lean -/

/-- State.fetchMeet keeps what every operation keeps. -/
theorem State.fetchMeet_keeps {a s : State} {x1 x2 x3} (h : Keeps a s) : Keeps a (State.fetchMeet s x1 x2 x3) := by
  unfold State.fetchMeet
  repeat' first
    | with_reducible assumption
    | ((fail_if_no_progress extract_lets +onlyGivenNames t); refine (?_ : Keeps a t → _) ?_; (on_goal 2 => unfold t); (on_goal 1 => (clear_value t; intro _)))
    | ((fail_if_no_progress extract_lets +onlyGivenNames t); subst t)
    | dsimp -zeta only
    | with_reducible apply Keeps.ite
    | with_reducible apply State.meet_keeps
    | split

/-- State.specAbandon keeps what every operation keeps. -/
theorem State.specAbandon_keeps {a s : State} {x1} (h : Keeps a s) : Keeps a (State.specAbandon s x1) := by
  unfold State.specAbandon
  repeat' first
    | with_reducible assumption
    | dsimp -zeta only
    | with_reducible apply State.specEnd_keeps
    | with_reducible apply State.putRun_keeps

/-- State.runFault keeps what every operation keeps. -/
theorem State.runFault_keeps {a s : State} {x1 x2} (h : Keeps a s) : Keeps a (State.runFault s x1 x2) := by
  unfold State.runFault
  repeat' first
    | with_reducible assumption
    | dsimp -zeta only
    | with_reducible apply Keeps.ite
    | with_reducible apply State.specAbandon_keeps
    | with_reducible apply State.putRun_keeps
    | with_reducible apply State.bump_keeps
    | with_reducible apply State.rerunFail_keeps
    | split

/-- State.flxXcp keeps what every operation keeps. -/
theorem State.flxXcp_keeps {a s : State} {x1 x2 x3 x4 x5 x6} (h : Keeps a s) : Keeps a (State.flxXcp s x1 x2 x3 x4 x5 x6) := by
  unfold State.flxXcp
  repeat' first
    | with_reducible assumption
    | ((fail_if_no_progress extract_lets +onlyGivenNames t); refine (?_ : Keeps a t → _) ?_; (on_goal 2 => unfold t); (on_goal 1 => (clear_value t; intro _)))
    | ((fail_if_no_progress extract_lets +onlyGivenNames t); subst t)
    | dsimp -zeta only
    | with_reducible apply Keeps.ite
    | with_reducible apply State.specAbandon_keeps
    | with_reducible apply State.specState_keeps
    | with_reducible apply State.putRun_keeps
    | split

/-- State.flxPut keeps what every operation keeps. -/
theorem State.flxPut_keeps {a s : State} {x1 x2 x3} (h : Keeps a s) : Keeps a (State.flxPut s x1 x2 x3) := by
  unfold State.flxPut
  repeat' first
    | with_reducible assumption
    | ((fail_if_no_progress extract_lets +onlyGivenNames t); refine (?_ : Keeps a t → _) ?_; (on_goal 2 => unfold t); (on_goal 1 => (clear_value t; intro _)))
    | ((fail_if_no_progress extract_lets +onlyGivenNames t); subst t)
    | dsimp -zeta only
    | with_reducible apply Keeps.ite
    | with_reducible apply State.putRun_keeps
    | with_reducible apply State.specState_keeps
    | split

/-- The end of an instruction keeps what the instruction and its failure keep. -/
theorem State.flxRun_keeps {a s : State} {r st n lanes size tags} {fail : State → Run → Xcp → Nat → State} {o : XR After} (h : Keeps a s)
    (hf : ∀ s r x n, Keeps a s → Keeps a (fail s r x n)) (ho : XKeeps a o) : Keeps a (State.flxRun s r st n lanes size tags fail o) := by
  unfold State.flxRun
  cases o with
  | xcp x m => exact hf _ _ _ _ ho
  | ok t m =>
    replace ho : Keeps a m.s := ho
    dsimp only
    split
    · exact State.specAbandon_keeps ho
    · split
      · split
        · exact State.putRun_keeps h
        · exact State.flxXcp_keeps ho
      · exact State.flxPut_keeps ho

/-- State.streamFault keeps what every operation keeps. -/
theorem State.streamFault_keeps {a s : State} {x1 x2 x3 x4 x5} (h : Keeps a s) : Keeps a (State.streamFault s x1 x2 x3 x4 x5) := by
  unfold State.streamFault
  repeat' first
    | with_reducible assumption
    | dsimp -zeta only
    | with_reducible apply State.runFault_keeps
    | with_reducible apply State.laneFault_keeps

/-- An instruction keeps what its meaning keeps. -/
theorem State.flxIn_keeps {a s : State} {k e row} {sem : Sem} (h : Keeps a s) (hs : SKeeps a sem) : Keeps a (State.flxIn s k e row sem) := by
  unfold State.flxIn
  split
  · split
    · exact h
    · split
      · exact h
      · extract_lets n src fail c u
        have hf : ∀ s r x n, Keeps a s → Keeps a (fail s r x n) :=
          fun s r x n h => Keeps.ite (State.putRun_keeps h) (State.flxXcp_keeps h)
        have hu : Keeps a u := State.fetchMeet_keeps h
        clear_value fail c u
        split
        · split
          · exact State.streamFault_keeps h
          · exact State.flxRun_keeps h hf (semObject_keeps _ _ h)
        · split
          · split
            · exact State.streamFault_keeps hu
            · refine hf _ _ _ _ ?_
              split
              · exact Mx.latch_keeps hu
              · exact hu
          · split
            · exact hu
            · split
              · exact State.streamFault_keeps hu
              · split
                · exact hf _ _ _ _ hu
                · split
                  · exact hf _ _ _ _ hu
                  · split
                    · exact State.putRun_keeps hu
                    · exact State.flxRun_keeps hu hf (hs _ _ hu)
  · exact h

/-- An instruction, in its own program or in the old one, keeps what its meaning keeps. -/
theorem State.flx_keeps {a s : State} {k e row} {sem : Sem} (h : Keeps a s) (hs : SKeeps a sem) : Keeps a (State.flx s k e row sem) := by
  unfold State.flx
  split
  · exact h
  · split
    · exact State.settle_keeps (State.flxIn_keeps h hs)
    · exact State.settle_keeps (State.modLane_keeps (State.leaveOld_keeps (State.flxIn_keeps (State.enterOld_keeps (State.modLane_keeps h)) hs)))

/-- State.syncShare keeps what every operation keeps. -/
theorem State.syncShare_keeps {a s : State} {x1 x2} (h : Keeps a s) : Keeps a (State.syncShare s x1 x2) := by
  unfold State.syncShare
  repeat' first
    | with_reducible assumption
    | ((fail_if_no_progress extract_lets +onlyGivenNames t); refine (?_ : Keeps a t → _) ?_; (on_goal 2 => unfold t); (on_goal 1 => (clear_value t; intro _)))
    | ((fail_if_no_progress extract_lets +onlyGivenNames t); subst t)
    | dsimp -zeta only
    | with_reducible apply Keeps.ite
    | with_reducible apply State.putRun_keeps
    | split

/-- divRecord keeps what every operation keeps. -/
theorem divRecord_keeps {a s : State} {x1 x2 x3 x4} (h : Keeps a s) : Keeps a (divRecord s x1 x2 x3 x4) := by
  unfold divRecord
  repeat' first
    | with_reducible assumption
    | dsimp -zeta only
    | with_reducible apply State.evHw_keeps

/-- semLive keeps what every operation keeps. -/
theorem semLive_keeps {a : State} {x0} : SKeeps a (semLive x0) := by
  intro c m h
  unfold semLive
  repeat' first
    | with_reducible assumption
    | ((fail_if_no_progress extract_lets +onlyGivenNames t); refine (?_ : Keeps a t → _) ?_; (on_goal 2 => unfold t); (on_goal 1 => (clear_value t; intro _)))
    | ((fail_if_no_progress extract_lets +onlyGivenNames t); refine (?_ : Keeps2 a t → _) ?_; (on_goal 2 => unfold t); (on_goal 1 => (clear_value t; intro _)))
    | ((fail_if_no_progress extract_lets +onlyGivenNames t); subst t)
    | dsimp -zeta only
    | with_reducible apply Keeps.ite
    | with_reducible apply Mx.address_keeps
    | with_reducible apply Mx.check_keeps
    | with_reducible apply Mx.setWa_keeps
    | with_reducible apply State.bump_keeps
    | with_reducible apply divRecord_keeps
    | with_reducible apply State.report_keeps
    | with_reducible refine XKeeps.bind ?_ (fun _ _ _ => ?_)
    | with_reducible refine XKeeps.ok ?_
    | with_reducible refine XKeeps.xcp ?_
    | with_reducible refine raise_keeps ?_
    | with_reducible refine XKeeps.fin ?_
    | with_reducible exact Keeps2.out ‹_›
    | with_reducible apply Keeps2.mk
    | with_reducible refine Keeps.of2 ‹_› ?_
    | split

/-! ### Machine/Spec.lean -/

/-- State.latchMiss keeps what every operation keeps. -/
theorem State.latchMiss_keeps {a s : State} {x1} (h : Keeps a s) : Keeps a (State.latchMiss s x1) := by
  unfold State.latchMiss
  repeat' first
    | with_reducible assumption
    | ((fail_if_no_progress extract_lets +onlyGivenNames t); refine (?_ : Keeps a t → _) ?_; (on_goal 2 => unfold t); (on_goal 1 => (clear_value t; intro _)))
    | ((fail_if_no_progress extract_lets +onlyGivenNames t); subst t)
    | dsimp -zeta only
    | with_reducible apply State.setF_keeps
    | with_reducible apply State.setB_keeps

/-! ### Machine/Sched.lean -/

/-- State.start keeps what every operation keeps. -/
theorem State.start_keeps {a s : State} {x1} (h : Keeps a s) : Keeps a (State.start s x1) := by
  unfold State.start
  repeat' first
    | with_reducible assumption
    | ((fail_if_no_progress extract_lets +onlyGivenNames t); refine (?_ : Keeps a t → _) ?_; (on_goal 2 => unfold t); (on_goal 1 => (clear_value t; intro _)))
    | ((fail_if_no_progress extract_lets +onlyGivenNames t); subst t)
    | dsimp -zeta only
    | with_reducible apply Keeps.ite
    | with_reducible apply State.putRun_keeps
    | split

/-- State.preempt keeps what every operation keeps. -/
theorem State.preempt_keeps {a s : State} {x1} (h : Keeps a s) : Keeps a (State.preempt s x1) := by
  unfold State.preempt
  repeat' first
    | with_reducible assumption
    | ((fail_if_no_progress extract_lets +onlyGivenNames t); refine (?_ : Keeps a t → _) ?_; (on_goal 2 => unfold t); (on_goal 1 => (clear_value t; intro _)))
    | ((fail_if_no_progress extract_lets +onlyGivenNames t); subst t)
    | dsimp -zeta only
    | with_reducible apply State.putRun_keeps

/-- State.preemptFor keeps what every operation keeps. -/
theorem State.preemptFor_keeps {a s : State} {x1 x2 x3} (h : Keeps a s) : Keeps a (State.preemptFor s x1 x2 x3) := by
  induction x3 generalizing s with
  | nil => exact h
  | cons v vs ih =>
    unfold State.preemptFor
    exact Keeps.ite h (ih (State.preempt_keeps h))

/-- State.dispatchReal keeps what every operation keeps. -/
theorem State.dispatchReal_keeps {a s : State} {x1} (h : Keeps a s) : Keeps a (State.dispatchReal s x1) := by
  unfold State.dispatchReal
  repeat' first
    | with_reducible assumption
    | ((fail_if_no_progress extract_lets +onlyGivenNames t); refine (?_ : Keeps a t → _) ?_; (on_goal 2 => unfold t); (on_goal 1 => (clear_value t; intro _)))
    | ((fail_if_no_progress extract_lets +onlyGivenNames t); refine (?_ : Keeps2 a t → _) ?_; (on_goal 2 => unfold t); (on_goal 1 => (clear_value t; intro _)))
    | ((fail_if_no_progress extract_lets +onlyGivenNames t); refine (?_ : Keeps1 a t → _) ?_; (on_goal 2 => unfold t); (on_goal 1 => (clear_value t; intro _)))
    | ((fail_if_no_progress extract_lets +onlyGivenNames t); subst t)
    | dsimp -zeta only
    | with_reducible apply Keeps.ite
    | with_reducible apply State.start_keeps
    | with_reducible apply State.preemptFor_keeps
    | with_reducible exact Keeps1.out ‹_›
    | with_reducible apply Keeps1.mk
    | with_reducible apply Keeps1.ite
    | with_reducible refine Keeps1.foldl ?_ (fun _ _ _ => ?_)
    | with_reducible refine Keeps1.out ?_
    | with_reducible exact Keeps2.out ‹_›
    | with_reducible apply Keeps2.mk
    | with_reducible apply Keeps2.ite
    | with_reducible refine Keeps2.foldl ?_ (fun _ _ _ => ?_)
    | with_reducible refine Keeps2.out ?_
    | with_reducible refine Keeps.foldl ?_ (fun _ _ _ => ?_)
    | split

end Sys2Proof.Machine
end

