-- ==== Sys2Proof/Laws/KeepsBlocks.lean ====
section
/-! SUPPORT. The operations behind the commands of the other blocks keep the queue, the canonical forms, what has been emitted and the free values used. -/
namespace Sys2Proof.Machine
set_option Elab.async false

/-! ### Machine/Modes.lean -/

/-- State.modeRequest keeps what every operation keeps. -/
theorem State.modeRequest_keeps {a s : State} {x1 x2} (h : Keeps a s) : Keeps a (State.modeRequest s x1 x2) := by
  unfold State.modeRequest
  repeat' first
    | with_reducible assumption
    | ((fail_if_no_progress extract_lets +onlyGivenNames t); refine (?_ : Keeps a t → _) ?_; (on_goal 2 => unfold t); (on_goal 1 => (clear_value t; intro _)))
    | ((fail_if_no_progress extract_lets +onlyGivenNames t); subst t)
    | dsimp -zeta only
    | with_reducible apply Keeps.ite
    | with_reducible apply State.ignored_keeps
    | split
    | fail_if_no_progress (with_reducible refine Keeps.upd ?_ rfl rfl rfl rfl rfl rfl)

/-- State.acceptMode keeps what every operation keeps. -/
theorem State.acceptMode_keeps {a s : State} {x1} (h : Keeps a s) : Keeps a (State.acceptMode s x1) := by
  unfold State.acceptMode
  repeat' first
    | with_reducible assumption
    | ((fail_if_no_progress extract_lets +onlyGivenNames t); refine (?_ : Keeps a t → _) ?_; (on_goal 2 => unfold t); (on_goal 1 => (clear_value t; intro _)))
    | ((fail_if_no_progress extract_lets +onlyGivenNames t); subst t)
    | dsimp -zeta only
    | with_reducible apply State.share_keeps
    | fail_if_no_progress (with_reducible refine Keeps.upd ?_ rfl rfl rfl rfl rfl rfl)

/-- State.judgeMode keeps what every operation keeps. -/
theorem State.judgeMode_keeps {a s : State} {x1} (h : Keeps a s) : Keeps a (State.judgeMode s x1) := by
  unfold State.judgeMode
  repeat' first
    | with_reducible assumption
    | ((fail_if_no_progress extract_lets +onlyGivenNames t); refine (?_ : Keeps a t → _) ?_; (on_goal 2 => unfold t); (on_goal 1 => (clear_value t; intro _)))
    | ((fail_if_no_progress extract_lets +onlyGivenNames t); subst t)
    | dsimp -zeta only
    | with_reducible apply Keeps.ite
    | with_reducible apply State.ignoredBy_keeps
    | with_reducible apply State.acceptMode_keeps
    | split

/-- State.judgeModes keeps what every operation keeps. -/
theorem State.judgeModes_keeps {a s : State} (h : Keeps a s) : Keeps a (State.judgeModes s) := by
  unfold State.judgeModes
  repeat' first
    | with_reducible assumption
    | ((fail_if_no_progress extract_lets +onlyGivenNames t); refine (?_ : Keeps a t → _) ?_; (on_goal 2 => unfold t); (on_goal 1 => (clear_value t; intro _)))
    | ((fail_if_no_progress extract_lets +onlyGivenNames t); refine (?_ : Keeps2 a t → _) ?_; (on_goal 2 => unfold t); (on_goal 1 => (clear_value t; intro _)))
    | ((fail_if_no_progress extract_lets +onlyGivenNames t); refine (?_ : Keeps1 a t → _) ?_; (on_goal 2 => unfold t); (on_goal 1 => (clear_value t; intro _)))
    | ((fail_if_no_progress extract_lets +onlyGivenNames t); subst t)
    | dsimp -zeta only
    | with_reducible apply State.judgeMode_keeps
    | with_reducible exact Keeps1.out ‹_›
    | with_reducible apply Keeps1.mk
    | with_reducible refine Keeps1.foldl ?_ (fun _ _ _ => ?_)
    | with_reducible refine Keeps1.out ?_
    | with_reducible exact Keeps2.out ‹_›
    | with_reducible apply Keeps2.mk
    | with_reducible refine Keeps2.foldl ?_ (fun _ _ _ => ?_)
    | with_reducible refine Keeps2.out ?_
    | with_reducible refine Keeps.foldl ?_ (fun _ _ _ => ?_)
    | fail_if_no_progress (with_reducible refine Keeps.upd ?_ rfl rfl rfl rfl rfl rfl)

/-- State.showForces keeps what every operation keeps. -/
theorem State.showForces_keeps {a s : State} (h : Keeps a s) : Keeps a (State.showForces s) := by
  unfold State.showForces
  repeat' first
    | with_reducible assumption
    | ((fail_if_no_progress extract_lets +onlyGivenNames t); refine (?_ : Keeps a t → _) ?_; (on_goal 2 => unfold t); (on_goal 1 => (clear_value t; intro _)))
    | ((fail_if_no_progress extract_lets +onlyGivenNames t); subst t)
    | dsimp -zeta only
    | with_reducible apply Keeps.ite
    | with_reducible apply State.emit_keeps
    | with_reducible apply State.setF_keeps
    | with_reducible apply State.setB_keeps
    | split

/-- State.startCommit keeps what every operation keeps. -/
theorem State.startCommit_keeps {a s : State} {x1} (h : Keeps a s) : Keeps a (State.startCommit s x1) := by
  unfold State.startCommit
  extract_lets s1 s2 gone sched s3 evs
  have h1 : Keeps a s1 := State.setF_keeps h
  clear_value s1
  have h2 : Keeps a s2 := Keeps.ite h1 (State.setF_keeps h1)
  have h3 : Keeps a s3 := Keeps.ite h2 (State.showForces_keeps (Keeps.upd h2 rfl rfl rfl rfl rfl rfl))
  clear_value s3
  with_reducible refine Keeps.ite (State.commitCore_keeps h3) ?_
  exact Keeps.updMem h3 rfl rfl rfl (Nat.le_refl _) (Memory.wf_memLay _ _) rfl

/-- State.abortPending keeps what every operation keeps. -/
theorem State.abortPending_keeps {a s : State} {x1} (h : Keeps a s) : Keeps a (State.abortPending s x1) := by
  unfold State.abortPending
  repeat' first
    | with_reducible assumption
    | dsimp -zeta only
    | with_reducible apply Keeps.ite
    | with_reducible apply State.abortXcp_keeps
    | with_reducible exact Keeps1.out ‹_›
    | with_reducible apply Keeps1.mk
    | with_reducible apply Keeps1.ite
    | with_reducible refine Keeps1.foldl ?_ (fun _ _ _ => ?_)
    | with_reducible refine Keeps1.out ?_
    | with_reducible exact Keeps2.out ‹_›
    | with_reducible apply Keeps2.mk
    | with_reducible apply Keeps2.ite
    | with_reducible refine Keeps2.foldl ?_ (fun _ _ _ => ?_)
    | with_reducible refine Keeps2.out ?_
    | with_reducible refine Keeps.foldl ?_ (fun _ _ _ => ?_)
    | split

/-- State.toStop keeps what every operation keeps. -/
theorem State.toStop_keeps {a s : State} (h : Keeps a s) : Keeps a (State.toStop s) := by
  unfold State.toStop
  repeat' first
    | with_reducible assumption
    | ((fail_if_no_progress extract_lets +onlyGivenNames t); refine (?_ : Keeps a t → _) ?_; (on_goal 2 => unfold t); (on_goal 1 => (clear_value t; intro _)))
    | ((fail_if_no_progress extract_lets +onlyGivenNames t); refine (?_ : Keeps2 a t → _) ?_; (on_goal 2 => unfold t); (on_goal 1 => (clear_value t; intro _)))
    | ((fail_if_no_progress extract_lets +onlyGivenNames t); refine (?_ : Keeps1 a t → _) ?_; (on_goal 2 => unfold t); (on_goal 1 => (clear_value t; intro _)))
    | ((fail_if_no_progress extract_lets +onlyGivenNames t); subst t)
    | dsimp -zeta only
    | with_reducible apply Keeps.ite
    | with_reducible apply State.abortPending_keeps
    | with_reducible apply State.abortCycle_keeps
    | with_reducible apply State.setF_keeps
    | with_reducible apply State.dropActs_keeps
    | with_reducible apply State.safeCommit_keeps
    | with_reducible exact Keeps1.out ‹_›
    | with_reducible apply Keeps1.mk
    | with_reducible apply Keeps1.ite
    | with_reducible refine Keeps1.foldl ?_ (fun _ _ _ => ?_)
    | with_reducible refine Keeps1.out ?_
    | with_reducible exact Keeps2.out ‹_›
    | with_reducible apply Keeps2.mk
    | with_reducible apply Keeps2.ite
    | with_reducible refine Keeps2.foldl ?_ (fun _ _ _ => ?_)
    | with_reducible refine Keeps2.out ?_
    | with_reducible refine Keeps.foldl ?_ (fun _ _ _ => ?_)
    | split
    | fail_if_no_progress (with_reducible refine Keeps.upd ?_ rfl rfl rfl rfl rfl rfl)

/-- State.toHold keeps what every operation keeps. -/
theorem State.toHold_keeps {a s : State} (h : Keeps a s) : Keeps a (State.toHold s) := by
  unfold State.toHold
  repeat' first
    | with_reducible assumption
    | ((fail_if_no_progress extract_lets +onlyGivenNames t); refine (?_ : Keeps a t → _) ?_; (on_goal 2 => unfold t); (on_goal 1 => (clear_value t; intro _)))
    | ((fail_if_no_progress extract_lets +onlyGivenNames t); refine (?_ : Keeps2 a t → _) ?_; (on_goal 2 => unfold t); (on_goal 1 => (clear_value t; intro _)))
    | ((fail_if_no_progress extract_lets +onlyGivenNames t); refine (?_ : Keeps1 a t → _) ?_; (on_goal 2 => unfold t); (on_goal 1 => (clear_value t; intro _)))
    | ((fail_if_no_progress extract_lets +onlyGivenNames t); subst t)
    | dsimp -zeta only
    | with_reducible apply Keeps.ite
    | with_reducible apply State.abortPending_keeps
    | with_reducible apply State.setF_keeps
    | with_reducible apply State.modTask_keeps
    | with_reducible exact Keeps1.out ‹_›
    | with_reducible apply Keeps1.mk
    | with_reducible apply Keeps1.ite
    | with_reducible refine Keeps1.foldl ?_ (fun _ _ _ => ?_)
    | with_reducible refine Keeps1.out ?_
    | with_reducible exact Keeps2.out ‹_›
    | with_reducible apply Keeps2.mk
    | with_reducible apply Keeps2.ite
    | with_reducible refine Keeps2.foldl ?_ (fun _ _ _ => ?_)
    | with_reducible refine Keeps2.out ?_
    | with_reducible refine Keeps.foldl ?_ (fun _ _ _ => ?_)
    | split

/-- State.resumeRun keeps what every operation keeps. -/
theorem State.resumeRun_keeps {a s : State} (h : Keeps a s) : Keeps a (State.resumeRun s) := by
  unfold State.resumeRun
  repeat' first
    | with_reducible assumption
    | ((fail_if_no_progress extract_lets +onlyGivenNames t); refine (?_ : Keeps a t → _) ?_; (on_goal 2 => unfold t); (on_goal 1 => (clear_value t; intro _)))
    | ((fail_if_no_progress extract_lets +onlyGivenNames t); refine (?_ : Keeps2 a t → _) ?_; (on_goal 2 => unfold t); (on_goal 1 => (clear_value t; intro _)))
    | ((fail_if_no_progress extract_lets +onlyGivenNames t); refine (?_ : Keeps1 a t → _) ?_; (on_goal 2 => unfold t); (on_goal 1 => (clear_value t; intro _)))
    | ((fail_if_no_progress extract_lets +onlyGivenNames t); subst t)
    | dsimp -zeta only
    | with_reducible apply Keeps.ite
    | with_reducible apply State.setF_keeps
    | with_reducible apply State.modTask_keeps
    | with_reducible exact Keeps1.out ‹_›
    | with_reducible apply Keeps1.mk
    | with_reducible apply Keeps1.ite
    | with_reducible refine Keeps1.foldl ?_ (fun _ _ _ => ?_)
    | with_reducible refine Keeps1.out ?_
    | with_reducible exact Keeps2.out ‹_›
    | with_reducible apply Keeps2.mk
    | with_reducible apply Keeps2.ite
    | with_reducible refine Keeps2.foldl ?_ (fun _ _ _ => ?_)
    | with_reducible refine Keeps2.out ?_
    | with_reducible refine Keeps.foldl ?_ (fun _ _ _ => ?_)
    | split

/-- State.startRun keeps what every operation keeps. -/
theorem State.startRun_keeps {a s : State} {x1} (h : Keeps a s) : Keeps a (State.startRun s x1) := by
  unfold State.startRun
  repeat' first
    | with_reducible assumption
    | ((fail_if_no_progress extract_lets +onlyGivenNames t); refine (?_ : Keeps a t → _) ?_; (on_goal 2 => unfold t); (on_goal 1 => (clear_value t; intro _)))
    | ((fail_if_no_progress extract_lets +onlyGivenNames t); refine (?_ : Keeps2 a t → _) ?_; (on_goal 2 => unfold t); (on_goal 1 => (clear_value t; intro _)))
    | ((fail_if_no_progress extract_lets +onlyGivenNames t); refine (?_ : Keeps1 a t → _) ?_; (on_goal 2 => unfold t); (on_goal 1 => (clear_value t; intro _)))
    | ((fail_if_no_progress extract_lets +onlyGivenNames t); subst t)
    | dsimp -zeta only
    | with_reducible apply Keeps.ite
    | with_reducible apply State.startCommit_keeps
    | with_reducible apply State.setF_keeps
    | with_reducible apply State.modTask_keeps
    | with_reducible apply State.baseNow_keeps
    | with_reducible exact Keeps1.out ‹_›
    | with_reducible apply Keeps1.mk
    | with_reducible apply Keeps1.ite
    | with_reducible refine Keeps1.foldl ?_ (fun _ _ _ => ?_)
    | with_reducible refine Keeps1.out ?_
    | with_reducible exact Keeps2.out ‹_›
    | with_reducible apply Keeps2.mk
    | with_reducible apply Keeps2.ite
    | with_reducible refine Keeps2.foldl ?_ (fun _ _ _ => ?_)
    | with_reducible refine Keeps2.out ?_
    | with_reducible refine Keeps.foldl ?_ (fun _ _ _ => ?_)
    | split
    | fail_if_no_progress (with_reducible refine Keeps.upd ?_ rfl rfl rfl rfl rfl rfl)

/-- State.changeMode keeps what every operation keeps. -/
theorem State.changeMode_keeps {a s : State} {x1} (h : Keeps a s) : Keeps a (State.changeMode s x1) := by
  unfold State.changeMode
  repeat' first
    | with_reducible assumption
    | ((fail_if_no_progress extract_lets +onlyGivenNames t); refine (?_ : Keeps a t → _) ?_; (on_goal 2 => unfold t); (on_goal 1 => (clear_value t; intro _)))
    | ((fail_if_no_progress extract_lets +onlyGivenNames t); subst t)
    | dsimp -zeta only
    | with_reducible apply Keeps.ite
    | with_reducible apply State.invalAll_keeps
    | with_reducible apply State.toStop_keeps
    | with_reducible apply State.toHold_keeps
    | with_reducible apply State.resumeRun_keeps
    | with_reducible apply State.startRun_keeps
    | with_reducible apply State.evCfg_keeps
    | with_reducible apply State.specFollow_keeps
    | with_reducible apply State.genCheck_keeps
    | split

/-- State.changeModes keeps what every operation keeps. -/
theorem State.changeModes_keeps {a s : State} (h : Keeps a s) : Keeps a (State.changeModes s) := by
  unfold State.changeModes
  repeat' first
    | with_reducible assumption
    | ((fail_if_no_progress extract_lets +onlyGivenNames t); refine (?_ : Keeps a t → _) ?_; (on_goal 2 => unfold t); (on_goal 1 => (clear_value t; intro _)))
    | ((fail_if_no_progress extract_lets +onlyGivenNames t); refine (?_ : Keeps2 a t → _) ?_; (on_goal 2 => unfold t); (on_goal 1 => (clear_value t; intro _)))
    | ((fail_if_no_progress extract_lets +onlyGivenNames t); refine (?_ : Keeps1 a t → _) ?_; (on_goal 2 => unfold t); (on_goal 1 => (clear_value t; intro _)))
    | ((fail_if_no_progress extract_lets +onlyGivenNames t); subst t)
    | dsimp -zeta only
    | with_reducible apply State.changeMode_keeps
    | with_reducible exact Keeps1.out ‹_›
    | with_reducible apply Keeps1.mk
    | with_reducible refine Keeps1.foldl ?_ (fun _ _ _ => ?_)
    | with_reducible refine Keeps1.out ?_
    | with_reducible exact Keeps2.out ‹_›
    | with_reducible apply Keeps2.mk
    | with_reducible refine Keeps2.foldl ?_ (fun _ _ _ => ?_)
    | with_reducible refine Keeps2.out ?_
    | with_reducible refine Keeps.foldl ?_ (fun _ _ _ => ?_)
    | fail_if_no_progress (with_reducible refine Keeps.upd ?_ rfl rfl rfl rfl rfl rfl)

/-- State.firstStart keeps what every operation keeps. -/
theorem State.firstStart_keeps {a s : State} (h : Keeps a s) : Keeps a (State.firstStart s) := by
  unfold State.firstStart
  repeat' first
    | with_reducible assumption
    | ((fail_if_no_progress extract_lets +onlyGivenNames t); refine (?_ : Keeps a t → _) ?_; (on_goal 2 => unfold t); (on_goal 1 => (clear_value t; intro _)))
    | ((fail_if_no_progress extract_lets +onlyGivenNames t); subst t)
    | dsimp -zeta only
    | with_reducible apply Keeps.ite
    | with_reducible apply State.evCfg_keeps
    | with_reducible apply State.genCheck_keeps
    | with_reducible apply State.startRun_keeps
    | split

/-- State.initStep keeps what every operation keeps. -/
theorem State.initStep_keeps {a s : State} (h : Keeps a s) : Keeps a (State.initStep s) := by
  unfold State.initStep
  repeat' first
    | with_reducible assumption
    | ((fail_if_no_progress extract_lets +onlyGivenNames t); refine (?_ : Keeps a t → _) ?_; (on_goal 2 => unfold t); (on_goal 1 => (clear_value t; intro _)))
    | ((fail_if_no_progress extract_lets +onlyGivenNames t); subst t)
    | dsimp -zeta only
    | with_reducible apply Keeps.ite
    | with_reducible apply State.initFailed_keeps
    | with_reducible apply State.wdStop_keeps
    | with_reducible apply State.release_keeps
    | split
    | fail_if_no_progress (with_reducible refine Keeps.upd ?_ rfl rfl rfl rfl rfl rfl)

/-- State.shareTask keeps what every operation keeps. -/
theorem State.shareTask_keeps {a s : State} {x1} (h : Keeps a s) : Keeps a (State.shareTask s x1) := by
  unfold State.shareTask
  repeat' first
    | with_reducible assumption
    | dsimp -zeta only
    | with_reducible apply State.share_keeps

/-- State.batchCmd keeps what every operation keeps. -/
theorem State.batchCmd_keeps {a : State} {p : State × Nat × Bool} {c} (h : Keeps1 a p) : Keeps1 a (State.batchCmd p c) := by
  rcases p with ⟨s, n, b⟩
  replace h : Keeps a s := h
  unfold State.batchCmd
  dsimp -zeta only
  extract_lets u w t st k refuse s1 s2 s3 st2 s4 s5
  have h0 := h
  replace h : Keeps a u := h
  clear_value u
  have hr : ∀ x, Keeps1 a (refuse x) := fun x => Keeps1.mk (State.ignoredBy_keeps h)
  clear_value refuse st k t
  split
  · refine Keeps1.ite (Keeps1.mk (State.modTask_keeps h)) (Keeps1.ite (hr _) (Keeps1.ite (hr _) ?_))
    exact Keeps1.mk (State.shareTask_keeps (State.laneShortage_keeps (State.modTask_keeps (State.setF_keeps (State.applyDue_keeps h)))))
  · refine Keeps1.ite (hr _) ?_
    have h1 : Keeps a s3 := State.invalTask_keeps h
    clear_value s3
    have h2 : Keeps a s4 := Keeps.ite (State.bump_keeps (State.dropActs_keeps h1)) h1
    clear_value s4
    have h3 : Keeps a s5 := Keeps.ite (State.modTask_keeps h2) (State.modTask_keeps (State.setF_keeps h2))
    exact Keeps1.mk (State.shareTask_keeps h3)
  · exact Keeps1.ite (Keeps1.ite (hr _) (Keeps1.mk h0)) (Keeps1.ite (Keeps1.mk (State.bump_keeps h)) (Keeps1.mk h))
  · exact Keeps1.ite (Keeps1.mk h0) (Keeps1.ite (Keeps1.mk (State.bump_keeps h)) (Keeps1.mk h))
  · exact Keeps1.ite (Keeps1.mk h0) (hr _)

/-- State.evalTask keeps what every operation keeps. -/
theorem State.evalTask_keeps {a s : State} {x1 x2} (h : Keeps a s) : Keeps a (State.evalTask s x1 x2) := by
  unfold State.evalTask
  extract_lets r s1 n old
  have h1 : Keeps a s1 := Keeps1.out (Keeps1.foldl (Keeps1.mk h) (fun p c hp => State.batchCmd_keeps hp))
  clear_value s1 n
  with_reducible refine Keeps.ite (State.setF_keeps (State.bump_keeps (State.modTask_keeps h1))) (Keeps.ite h1 (State.setF_keeps (State.modTask_keeps h1)))

/-- State.evalBatch keeps what every operation keeps. -/
theorem State.evalBatch_keeps {a s : State} (h : Keeps a s) : Keeps a (State.evalBatch s) := by
  unfold State.evalBatch
  repeat' first
    | with_reducible assumption
    | ((fail_if_no_progress extract_lets +onlyGivenNames t); refine (?_ : Keeps a t → _) ?_; (on_goal 2 => unfold t); (on_goal 1 => (clear_value t; intro _)))
    | ((fail_if_no_progress extract_lets +onlyGivenNames t); refine (?_ : Keeps2 a t → _) ?_; (on_goal 2 => unfold t); (on_goal 1 => (clear_value t; intro _)))
    | ((fail_if_no_progress extract_lets +onlyGivenNames t); refine (?_ : Keeps1 a t → _) ?_; (on_goal 2 => unfold t); (on_goal 1 => (clear_value t; intro _)))
    | ((fail_if_no_progress extract_lets +onlyGivenNames t); subst t)
    | dsimp -zeta only
    | with_reducible apply Keeps.ite
    | with_reducible apply State.evalTask_keeps
    | with_reducible exact Keeps1.out ‹_›
    | with_reducible apply Keeps1.mk
    | with_reducible apply Keeps1.ite
    | with_reducible refine Keeps1.foldl ?_ (fun _ _ _ => ?_)
    | with_reducible refine Keeps1.out ?_
    | with_reducible exact Keeps2.out ‹_›
    | with_reducible apply Keeps2.mk
    | with_reducible apply Keeps2.ite
    | with_reducible refine Keeps2.foldl ?_ (fun _ _ _ => ?_)
    | with_reducible refine Keeps2.out ?_
    | with_reducible refine Keeps.foldl ?_ (fun _ _ _ => ?_)
    | split
    | fail_if_no_progress (with_reducible refine Keeps.upd ?_ rfl rfl rfl rfl rfl rfl)

/-! ### Machine/Crossing.lean -/

/-- State.laneTested keeps what every operation keeps. -/
theorem State.laneTested_keeps {a s : State} {x1} (h : Keeps a s) : Keeps a (State.laneTested s x1) := by
  unfold State.laneTested
  repeat' first
    | with_reducible assumption
    | ((fail_if_no_progress extract_lets +onlyGivenNames t); refine (?_ : Keeps a t → _) ?_; (on_goal 2 => unfold t); (on_goal 1 => (clear_value t; intro _)))
    | ((fail_if_no_progress extract_lets +onlyGivenNames t); subst t)
    | dsimp -zeta only
    | with_reducible apply Keeps.ite
    | with_reducible apply State.modLane_keeps
    | with_reducible apply State.setF_keeps
    | split

/-- State.fullTestEnd keeps what every operation keeps. -/
theorem State.fullTestEnd_keeps {a s : State} {x1 x2} (h : Keeps a s) : Keeps a (State.fullTestEnd s x1 x2) := by
  unfold State.fullTestEnd
  repeat' first
    | with_reducible assumption
    | ((fail_if_no_progress extract_lets +onlyGivenNames t); refine (?_ : Keeps a t → _) ?_; (on_goal 2 => unfold t); (on_goal 1 => (clear_value t; intro _)))
    | ((fail_if_no_progress extract_lets +onlyGivenNames t); subst t)
    | dsimp -zeta only
    | with_reducible apply Keeps.ite
    | with_reducible apply State.setF_keeps
    | with_reducible apply State.laneTested_keeps
    | with_reducible apply State.retireLane_keeps
    | with_reducible apply State.modLane_keeps
    | with_reducible apply State.laneCounts_keeps
    | split

/-- State.rotate keeps what every operation keeps. -/
theorem State.rotate_keeps {a s : State} {x1 x2} (h : Keeps a s) : Keeps a (State.rotate s x1 x2) := by
  unfold State.rotate
  repeat' first
    | with_reducible assumption
    | dsimp -zeta only
    | with_reducible apply Keeps.ite
    | with_reducible apply State.setF_keeps
    | split

/-- State.cmdXngTest keeps what every operation keeps. -/
theorem State.cmdXngTest_keeps {a s : State} {x1 x2} (h : Keeps a s) : Keeps a (State.cmdXngTest s x1 x2) := by
  unfold State.cmdXngTest
  repeat' first
    | with_reducible assumption
    | ((fail_if_no_progress extract_lets +onlyGivenNames t); refine (?_ : Keeps a t → _) ?_; (on_goal 2 => unfold t); (on_goal 1 => (clear_value t; intro _)))
    | ((fail_if_no_progress extract_lets +onlyGivenNames t); subst t)
    | dsimp -zeta only
    | with_reducible apply Keeps.ite
    | with_reducible apply State.ignored_keeps
    | with_reducible apply State.fullStart_keeps
    | with_reducible apply State.modLane_keeps
    | split

/-- State.cmdXngRetire keeps what every operation keeps. -/
theorem State.cmdXngRetire_keeps {a s : State} {x1 x2} (h : Keeps a s) : Keeps a (State.cmdXngRetire s x1 x2) := by
  unfold State.cmdXngRetire
  repeat' first
    | with_reducible assumption
    | ((fail_if_no_progress extract_lets +onlyGivenNames t); refine (?_ : Keeps a t → _) ?_; (on_goal 2 => unfold t); (on_goal 1 => (clear_value t; intro _)))
    | ((fail_if_no_progress extract_lets +onlyGivenNames t); subst t)
    | dsimp -zeta only
    | with_reducible apply Keeps.ite
    | with_reducible apply State.ignored_keeps
    | with_reducible apply State.retireLane_keeps
    | split

/-! ### Machine/Kerb.lean -/

/-- State.modKerb keeps what every operation keeps. -/
theorem State.modKerb_keeps {a s : State} {x1} (h : Keeps a s) : Keeps a (State.modKerb s x1) := by
  unfold State.modKerb
  repeat' first
    | with_reducible assumption
    | ((fail_if_no_progress extract_lets +onlyGivenNames t); refine (?_ : Keeps a t → _) ?_; (on_goal 2 => unfold t); (on_goal 1 => (clear_value t; intro _)))
    | ((fail_if_no_progress extract_lets +onlyGivenNames t); subst t)
    | dsimp -zeta only
    | fail_if_no_progress (with_reducible refine Keeps.upd ?_ rfl rfl rfl rfl rfl rfl)

/-- State.putLastWords keeps what every operation keeps. -/
theorem State.putLastWords_keeps {a s : State} {x1 x2} (h : Keeps a s) : Keeps a (State.putLastWords s x1 x2) := by
  unfold State.putLastWords
  repeat' first
    | with_reducible assumption
    | ((fail_if_no_progress extract_lets +onlyGivenNames t); refine (?_ : Keeps a t → _) ?_; (on_goal 2 => unfold t); (on_goal 1 => (clear_value t; intro _)))
    | ((fail_if_no_progress extract_lets +onlyGivenNames t); subst t)
    | dsimp -zeta only
    | with_reducible apply State.modKerb_keeps
    | with_reducible apply State.setF_keeps

/-- State.enterK keeps what every operation keeps. -/
theorem State.enterK_keeps {a s : State} (h : Keeps a s) : Keeps a (State.enterK s) := by
  unfold State.enterK
  repeat' first
    | with_reducible assumption
    | ((fail_if_no_progress extract_lets +onlyGivenNames t); refine (?_ : Keeps a t → _) ?_; (on_goal 2 => unfold t); (on_goal 1 => (clear_value t; intro _)))
    | ((fail_if_no_progress extract_lets +onlyGivenNames t); subst t)
    | dsimp -zeta only
    | with_reducible apply State.kerbDrive_keeps
    | with_reducible apply State.loseRole_keeps
    | with_reducible apply State.setF_keeps
    | with_reducible apply State.modKerb_keeps

/-- State.askStop keeps what every operation keeps. -/
theorem State.askStop_keeps {a s : State} (h : Keeps a s) : Keeps a (State.askStop s) := by
  unfold State.askStop
  repeat' first
    | with_reducible assumption
    | ((fail_if_no_progress extract_lets +onlyGivenNames t); refine (?_ : Keeps a t → _) ?_; (on_goal 2 => unfold t); (on_goal 1 => (clear_value t; intro _)))
    | ((fail_if_no_progress extract_lets +onlyGivenNames t); refine (?_ : Keeps2 a t → _) ?_; (on_goal 2 => unfold t); (on_goal 1 => (clear_value t; intro _)))
    | ((fail_if_no_progress extract_lets +onlyGivenNames t); subst t)
    | dsimp -zeta only
    | with_reducible apply Keeps.ite
    | with_reducible apply State.setF_keeps
    | with_reducible apply State.free_keeps
    | with_reducible refine Keeps2.out (State.free_keeps ?_)
    | with_reducible apply State.setB_keeps
    | with_reducible exact Keeps2.out ‹_›
    | with_reducible apply Keeps2.mk
    | with_reducible apply Keeps2.ite
    | split

/-- State.kerbSet keeps what every operation keeps. -/
theorem State.kerbSet_keeps {a s : State} {x1} (h : Keeps a s) : Keeps a (State.kerbSet s x1) := by
  unfold State.kerbSet
  repeat' first
    | with_reducible assumption
    | ((fail_if_no_progress extract_lets +onlyGivenNames t); refine (?_ : Keeps a t → _) ?_; (on_goal 2 => unfold t); (on_goal 1 => (clear_value t; intro _)))
    | ((fail_if_no_progress extract_lets +onlyGivenNames t); subst t)
    | dsimp -zeta only
    | with_reducible apply Keeps.ite
    | with_reducible apply State.modKerb_keeps
    | with_reducible apply State.enterK_keeps
    | with_reducible apply State.askStop_keeps
    | split

/-- State.hbTick keeps what every operation keeps. -/
theorem State.hbTick_keeps {a s : State} (h : Keeps a s) : Keeps a (State.hbTick s) := by
  unfold State.hbTick
  repeat' first
    | with_reducible assumption
    | ((fail_if_no_progress extract_lets +onlyGivenNames t); refine (?_ : Keeps a t → _) ?_; (on_goal 2 => unfold t); (on_goal 1 => (clear_value t; intro _)))
    | ((fail_if_no_progress extract_lets +onlyGivenNames t); refine (?_ : Keeps2 a t → _) ?_; (on_goal 2 => unfold t); (on_goal 1 => (clear_value t; intro _)))
    | ((fail_if_no_progress extract_lets +onlyGivenNames t); refine (?_ : Keeps1 a t → _) ?_; (on_goal 2 => unfold t); (on_goal 1 => (clear_value t; intro _)))
    | ((fail_if_no_progress extract_lets +onlyGivenNames t); subst t)
    | dsimp -zeta only
    | with_reducible apply Keeps.ite
    | with_reducible apply State.setF_keeps
    | with_reducible apply State.modKerb_keeps
    | with_reducible exact Keeps1.out ‹_›
    | with_reducible apply Keeps1.mk
    | with_reducible apply Keeps1.ite
    | with_reducible refine Keeps1.foldl ?_ (fun _ _ _ => ?_)
    | with_reducible refine Keeps1.out ?_
    | with_reducible exact Keeps2.out ‹_›
    | with_reducible apply Keeps2.mk
    | with_reducible apply Keeps2.ite
    | with_reducible refine Keeps2.foldl ?_ (fun _ _ _ => ?_)
    | with_reducible refine Keeps2.out ?_
    | with_reducible refine Keeps.foldl ?_ (fun _ _ _ => ?_)
    | split

/-- State.sense keeps what every operation keeps. -/
theorem State.sense_keeps {a s : State} {x1} (h : Keeps a s) : Keeps a (State.sense s x1) := by
  unfold State.sense
  repeat' first
    | with_reducible assumption
    | ((fail_if_no_progress extract_lets +onlyGivenNames t); refine (?_ : Keeps a t → _) ?_; (on_goal 2 => unfold t); (on_goal 1 => (clear_value t; intro _)))
    | ((fail_if_no_progress extract_lets +onlyGivenNames t); subst t)
    | dsimp -zeta only
    | with_reducible apply State.setF_keeps

/-- State.warnTemps keeps what every operation keeps. -/
theorem State.warnTemps_keeps {a s : State} (h : Keeps a s) : Keeps a (State.warnTemps s) := by
  unfold State.warnTemps
  repeat' first
    | with_reducible assumption
    | ((fail_if_no_progress extract_lets +onlyGivenNames t); refine (?_ : Keeps a t → _) ?_; (on_goal 2 => unfold t); (on_goal 1 => (clear_value t; intro _)))
    | ((fail_if_no_progress extract_lets +onlyGivenNames t); subst t)
    | dsimp -zeta only
    | with_reducible apply Keeps.ite
    | with_reducible apply State.evHw_keeps
    | with_reducible apply State.setF_keeps
    | with_reducible apply State.setB_keeps
    | split

/-- State.measure keeps what every operation keeps. -/
theorem State.measure_keeps {a s : State} {x1} (h : Keeps a s) : Keeps a (State.measure s x1) := by
  unfold State.measure
  repeat' first
    | with_reducible assumption
    | dsimp -zeta only
    | with_reducible apply State.warnTemps_keeps
    | with_reducible apply State.sense_keeps

/-- State.laneClock keeps what every operation keeps. -/
theorem State.laneClock_keeps {a s : State} (h : Keeps a s) : Keeps a (State.laneClock s) := by
  unfold State.laneClock
  repeat' first
    | with_reducible assumption
    | ((fail_if_no_progress extract_lets +onlyGivenNames t); refine (?_ : Keeps a t → _) ?_; (on_goal 2 => unfold t); (on_goal 1 => (clear_value t; intro _)))
    | ((fail_if_no_progress extract_lets +onlyGivenNames t); subst t)
    | dsimp -zeta only
    | with_reducible apply Keeps.ite
    | with_reducible apply State.setB_keeps
    | with_reducible apply State.setF_keeps
    | split

/-- State.setSag keeps what every operation keeps. -/
theorem State.setSag_keeps {a s : State} {x1} (h : Keeps a s) : Keeps a (State.setSag s x1) := by
  unfold State.setSag
  repeat' first
    | with_reducible assumption
    | ((fail_if_no_progress extract_lets +onlyGivenNames t); refine (?_ : Keeps a t → _) ?_; (on_goal 2 => unfold t); (on_goal 1 => (clear_value t; intro _)))
    | ((fail_if_no_progress extract_lets +onlyGivenNames t); subst t)
    | dsimp -zeta only
    | with_reducible apply Keeps.ite
    | with_reducible apply State.laneClock_keeps
    | with_reducible apply State.modKerb_keeps
    | with_reducible apply State.evHw_keeps
    | with_reducible apply State.bump_keeps
    | split

/-- State.setTherm keeps what every operation keeps. -/
theorem State.setTherm_keeps {a s : State} {x1} (h : Keeps a s) : Keeps a (State.setTherm s x1) := by
  unfold State.setTherm
  repeat' first
    | with_reducible assumption
    | ((fail_if_no_progress extract_lets +onlyGivenNames t); refine (?_ : Keeps a t → _) ?_; (on_goal 2 => unfold t); (on_goal 1 => (clear_value t; intro _)))
    | ((fail_if_no_progress extract_lets +onlyGivenNames t); subst t)
    | dsimp -zeta only
    | with_reducible apply Keeps.ite
    | with_reducible apply State.laneClock_keeps
    | with_reducible apply State.modKerb_keeps
    | with_reducible apply State.evHw_keeps
    | with_reducible apply State.bump_keeps
    | split

/-- State.cmdKerbstop keeps what every operation keeps. -/
theorem State.cmdKerbstop_keeps {a s : State} {x1} (h : Keeps a s) : Keeps a (State.cmdKerbstop s x1) := by
  unfold State.cmdKerbstop
  repeat' first
    | with_reducible assumption
    | dsimp -zeta only
    | with_reducible apply State.kerbSet_keeps
    | with_reducible apply State.ignored_keeps
    | split

/-- State.enterCapped keeps what every operation keeps. -/
theorem State.enterCapped_keeps {a s : State} (h : Keeps a s) : Keeps a (State.enterCapped s) := by
  unfold State.enterCapped
  repeat' first
    | with_reducible assumption
    | ((fail_if_no_progress extract_lets +onlyGivenNames t); refine (?_ : Keeps a t → _) ?_; (on_goal 2 => unfold t); (on_goal 1 => (clear_value t; intro _)))
    | ((fail_if_no_progress extract_lets +onlyGivenNames t); refine (?_ : Keeps2 a t → _) ?_; (on_goal 2 => unfold t); (on_goal 1 => (clear_value t; intro _)))
    | ((fail_if_no_progress extract_lets +onlyGivenNames t); subst t)
    | dsimp -zeta only
    | with_reducible apply Keeps.ite
    | with_reducible apply State.laneClock_keeps
    | with_reducible apply State.setF_keeps
    | with_reducible apply State.switchRequest_keeps
    | with_reducible refine Keeps2.out (State.switchRequest_keeps ?_)
    | with_reducible exact Keeps2.out ‹_›
    | with_reducible apply Keeps2.mk
    | with_reducible apply Keeps2.ite
    | split

/-- State.enterP keeps what every operation keeps. -/
theorem State.enterP_keeps {a s : State} {x1} (h : Keeps a s) : Keeps a (State.enterP s x1) := by
  unfold State.enterP
  repeat' first
    | with_reducible assumption
    | ((fail_if_no_progress extract_lets +onlyGivenNames t); refine (?_ : Keeps a t → _) ?_; (on_goal 2 => unfold t); (on_goal 1 => (clear_value t; intro _)))
    | ((fail_if_no_progress extract_lets +onlyGivenNames t); refine (?_ : Keeps2 a t → _) ?_; (on_goal 2 => unfold t); (on_goal 1 => (clear_value t; intro _)))
    | ((fail_if_no_progress extract_lets +onlyGivenNames t); refine (?_ : Keeps1 a t → _) ?_; (on_goal 2 => unfold t); (on_goal 1 => (clear_value t; intro _)))
    | ((fail_if_no_progress extract_lets +onlyGivenNames t); subst t)
    | dsimp -zeta only
    | with_reducible apply Keeps.ite
    | with_reducible apply State.setF_keeps
    | with_reducible apply State.modKerb_keeps
    | with_reducible exact Keeps1.out ‹_›
    | with_reducible apply Keeps1.mk
    | with_reducible apply Keeps1.ite
    | with_reducible refine Keeps1.foldl ?_ (fun _ _ _ => ?_)
    | with_reducible refine Keeps1.out ?_
    | with_reducible exact Keeps2.out ‹_›
    | with_reducible apply Keeps2.mk
    | with_reducible apply Keeps2.ite
    | with_reducible refine Keeps2.foldl ?_ (fun _ _ _ => ?_)
    | with_reducible refine Keeps2.out ?_
    | with_reducible refine Keeps.foldl ?_ (fun _ _ _ => ?_)
    | split

/-- State.powerTick keeps what every operation keeps. -/
theorem State.powerTick_keeps {a s : State} (h : Keeps a s) : Keeps a (State.powerTick s) := by
  unfold State.powerTick
  repeat' first
    | with_reducible assumption
    | ((fail_if_no_progress extract_lets +onlyGivenNames t); refine (?_ : Keeps a t → _) ?_; (on_goal 2 => unfold t); (on_goal 1 => (clear_value t; intro _)))
    | ((fail_if_no_progress extract_lets +onlyGivenNames t); subst t)
    | dsimp -zeta only
    | with_reducible apply Keeps.ite
    | with_reducible apply State.setF_keeps
    | with_reducible apply State.enterP_keeps
    | with_reducible apply State.modKerb_keeps
    | split

/-- State.latencyDone keeps what every operation keeps. -/
theorem State.latencyDone_keeps {a s : State} (h : Keeps a s) : Keeps a (State.latencyDone s) := by
  unfold State.latencyDone
  repeat' first
    | with_reducible assumption
    | ((fail_if_no_progress extract_lets +onlyGivenNames t); refine (?_ : Keeps a t → _) ?_; (on_goal 2 => unfold t); (on_goal 1 => (clear_value t; intro _)))
    | ((fail_if_no_progress extract_lets +onlyGivenNames t); refine (?_ : Keeps2 a t → _) ?_; (on_goal 2 => unfold t); (on_goal 1 => (clear_value t; intro _)))
    | ((fail_if_no_progress extract_lets +onlyGivenNames t); refine (?_ : Keeps1 a t → _) ?_; (on_goal 2 => unfold t); (on_goal 1 => (clear_value t; intro _)))
    | ((fail_if_no_progress extract_lets +onlyGivenNames t); subst t)
    | dsimp -zeta only
    | with_reducible apply Keeps.ite
    | with_reducible apply State.modSess_keeps
    | with_reducible apply State.modQp_keeps
    | with_reducible apply State.putCompl_keeps
    | with_reducible exact Keeps1.out ‹_›
    | with_reducible apply Keeps1.mk
    | with_reducible apply Keeps1.ite
    | with_reducible refine Keeps1.foldl ?_ (fun _ _ _ => ?_)
    | with_reducible refine Keeps1.out ?_
    | with_reducible exact Keeps2.out ‹_›
    | with_reducible apply Keeps2.mk
    | with_reducible apply Keeps2.ite
    | with_reducible refine Keeps2.foldl ?_ (fun _ _ _ => ?_)
    | with_reducible refine Keeps2.out ?_
    | with_reducible refine Keeps.foldl ?_ (fun _ _ _ => ?_)
    | split

/-! ### Machine/SquareCmds.lean -/

/-- State.healPage keeps what every operation keeps. -/
theorem State.healPage_keeps {a s : State} {x1 x2} (h : Keeps a s) : Keeps a (State.healPage s x1 x2) := by
  unfold State.healPage
  cases x2 with
  | none => exact h
  | some bs =>
    dsimp only
    split
    · exact Keeps.updMem h rfl rfl rfl (Nat.le_refl _) (Memory.wf_memWrL _ _ _) rfl
    · exact h

/-- State.scrubUnit keeps what every operation keeps. -/
theorem State.scrubUnit_keeps {a s : State} {x1 x2} (h : Keeps a s) : Keeps a (State.scrubUnit s x1 x2) := by
  unfold State.scrubUnit
  repeat' first
    | with_reducible assumption
    | ((fail_if_no_progress extract_lets +onlyGivenNames t); refine (?_ : Keeps a t → _) ?_; (on_goal 2 => unfold t); (on_goal 1 => (clear_value t; intro _)))
    | ((fail_if_no_progress extract_lets +onlyGivenNames t); subst t)
    | dsimp -zeta only
    | with_reducible apply Keeps.ite
    | with_reducible apply State.meet_keeps
    | with_reducible apply State.healPage_keeps
    | split

/-- State.scrubNext keeps what every operation keeps. -/
theorem State.scrubNext_keeps {a s : State} (h : Keeps a s) : Keeps a (State.scrubNext s) := by
  unfold State.scrubNext
  with_reducible refine Keeps.ite ?_ ?_
  all_goals exact Keeps.upd h rfl rfl rfl rfl rfl rfl

/-- State.walkTook keeps what every operation keeps. -/
theorem State.walkTook_keeps {a s : State} {x1 x2 x3} (h : Keeps a s) : Keeps a (State.walkTook s x1 x2 x3) := by
  unfold State.walkTook
  repeat' first
    | with_reducible assumption
    | dsimp -zeta only
    | with_reducible apply State.latchWalk_keeps
    | with_reducible apply State.modLane_keeps
    | split

/-- State.laneWalk keeps what every operation keeps. -/
theorem State.laneWalk_keeps {a s : State} {x1 x2 x3} (h : Keeps a s) : Keeps a (State.laneWalk s x1 x2 x3) := by
  unfold State.laneWalk
  repeat' first
    | with_reducible assumption
    | ((fail_if_no_progress extract_lets +onlyGivenNames t); refine (?_ : Keeps a t → _) ?_; (on_goal 2 => unfold t); (on_goal 1 => (clear_value t; intro _)))
    | ((fail_if_no_progress extract_lets +onlyGivenNames t); subst t)
    | dsimp -zeta only
    | with_reducible apply State.walkMeet_keeps
    | with_reducible apply State.walkTook_keeps

/-- The state that a walk leaves keeps what the walk keeps. -/
theorem walkLeft_keeps {a : State} {p : Except Nat (Nat × Nat) × State} (h : Keeps2 a p) : Keeps a (walkLeft p) := h

/-- State.hostWalked keeps what every operation keeps. -/
theorem State.hostWalked_keeps {a s : State} {x1} (h : Keeps a s) : Keeps a (State.hostWalked s x1) := by
  unfold State.hostWalked
  exact walkLeft_keeps (State.hostWalk_keeps h)

/-- State.squareShare keeps what every operation keeps. -/
theorem State.squareShare_keeps {a s : State} {x1} (h : Keeps a s) : Keeps a (State.squareShare s x1) := by
  unfold State.squareShare
  repeat' first
    | with_reducible assumption
    | ((fail_if_no_progress extract_lets +onlyGivenNames t); refine (?_ : Keeps a t → _) ?_; (on_goal 2 => unfold t); (on_goal 1 => (clear_value t; intro _)))
    | ((fail_if_no_progress extract_lets +onlyGivenNames t); subst t)
    | dsimp -zeta only
    | with_reducible apply Keeps.ite
    | with_reducible apply State.share_keeps
    | with_reducible apply State.squareItem_keeps
    | split
    | fail_if_no_progress (with_reducible refine Keeps.upd ?_ rfl rfl rfl rfl rfl rfl)

/-- State.squareTick keeps what every operation keeps. -/
theorem State.squareTick_keeps {a s : State} (h : Keeps a s) : Keeps a (State.squareTick s) := by
  unfold State.squareTick
  repeat' first
    | with_reducible assumption
    | ((fail_if_no_progress extract_lets +onlyGivenNames t); refine (?_ : Keeps a t → _) ?_; (on_goal 2 => unfold t); (on_goal 1 => (clear_value t; intro _)))
    | ((fail_if_no_progress extract_lets +onlyGivenNames t); refine (?_ : Keeps2 a t → _) ?_; (on_goal 2 => unfold t); (on_goal 1 => (clear_value t; intro _)))
    | ((fail_if_no_progress extract_lets +onlyGivenNames t); refine (?_ : Keeps1 a t → _) ?_; (on_goal 2 => unfold t); (on_goal 1 => (clear_value t; intro _)))
    | ((fail_if_no_progress extract_lets +onlyGivenNames t); subst t)
    | dsimp -zeta only
    | with_reducible apply State.squareItem_keeps
    | with_reducible exact Keeps1.out ‹_›
    | with_reducible apply Keeps1.mk
    | with_reducible refine Keeps1.foldl ?_ (fun _ _ _ => ?_)
    | with_reducible refine Keeps1.out ?_
    | with_reducible exact Keeps2.out ‹_›
    | with_reducible apply Keeps2.mk
    | with_reducible refine Keeps2.foldl ?_ (fun _ _ _ => ?_)
    | with_reducible refine Keeps2.out ?_
    | with_reducible refine Keeps.foldl ?_ (fun _ _ _ => ?_)
    | fail_if_no_progress (with_reducible refine Keeps.upd ?_ rfl rfl rfl rfl rfl rfl)

/-- State.editRefused keeps what every operation keeps. -/
theorem State.editRefused_keeps {a s : State} {x1 x2} (h : Keeps a s) : Keeps a (State.editRefused s x1 x2) := by
  unfold State.editRefused
  repeat' first
    | with_reducible assumption
    | dsimp -zeta only
    | with_reducible apply State.setF_keeps
    | with_reducible apply State.ignored_keeps

/-- State.cmdTagWrite keeps what every operation keeps. -/
theorem State.cmdTagWrite_keeps {a s : State} {x1 x2 x3} (h : Keeps a s) : Keeps a (State.cmdTagWrite s x1 x2 x3) := by
  unfold State.cmdTagWrite
  repeat' first
    | with_reducible assumption
    | ((fail_if_no_progress extract_lets +onlyGivenNames t); refine (?_ : Keeps a t → _) ?_; (on_goal 2 => unfold t); (on_goal 1 => (clear_value t; intro _)))
    | ((fail_if_no_progress extract_lets +onlyGivenNames t); subst t)
    | dsimp -zeta only
    | with_reducible apply Keeps.ite
    | with_reducible apply State.editRefused_keeps
    | with_reducible apply State.setB_keeps
    | with_reducible apply State.squareShare_keeps
    | with_reducible apply State.setF_keeps
    | split

/-- State.cmdTtcGo keeps what every operation keeps. -/
theorem State.cmdTtcGo_keeps {a s : State} {x1 x2} (h : Keeps a s) : Keeps a (State.cmdTtcGo s x1 x2) := by
  unfold State.cmdTtcGo
  repeat' first
    | with_reducible assumption
    | dsimp -zeta only
    | with_reducible apply Keeps.ite
    | with_reducible apply State.ignored_keeps
    | with_reducible apply State.setF_keeps
    | with_reducible apply State.squareShare_keeps
    | with_reducible apply State.setB_keeps
    | split

/-- State.ttcDrop keeps what every operation keeps. -/
theorem State.ttcDrop_keeps {a s : State} {x1} (h : Keeps a s) : Keeps a (State.ttcDrop s x1) := by
  unfold State.ttcDrop
  repeat' first
    | with_reducible assumption
    | ((fail_if_no_progress extract_lets +onlyGivenNames t); refine (?_ : Keeps a t → _) ?_; (on_goal 2 => unfold t); (on_goal 1 => (clear_value t; intro _)))
    | ((fail_if_no_progress extract_lets +onlyGivenNames t); subst t)
    | dsimp -zeta only
    | fail_if_no_progress (with_reducible refine Keeps.upd ?_ rfl rfl rfl rfl rfl rfl)

/-- State.cmdAcuBarrier keeps what every operation keeps. -/
theorem State.cmdAcuBarrier_keeps {a s : State} {x1} (h : Keeps a s) : Keeps a (State.cmdAcuBarrier s x1) := by
  unfold State.cmdAcuBarrier
  repeat' first
    | with_reducible assumption
    | dsimp -zeta only
    | with_reducible apply Keeps.ite
    | with_reducible apply State.ignored_keeps
    | with_reducible apply State.setF_keeps
    | with_reducible apply State.squareShare_keeps
    | split

/-- State.acuDone keeps what every operation keeps. -/
theorem State.acuDone_keeps {a s : State} (h : Keeps a s) : Keeps a (State.acuDone s) := by
  unfold State.acuDone
  repeat' first
    | with_reducible assumption
    | ((fail_if_no_progress extract_lets +onlyGivenNames t); refine (?_ : Keeps a t → _) ?_; (on_goal 2 => unfold t); (on_goal 1 => (clear_value t; intro _)))
    | ((fail_if_no_progress extract_lets +onlyGivenNames t); subst t)
    | dsimp -zeta only
    | with_reducible apply State.applyDue_keeps
    | with_reducible apply State.genCheck_keeps
    | with_reducible apply State.setB_keeps
    | with_reducible apply State.setF_keeps
    | fail_if_no_progress (with_reducible refine Keeps.upd ?_ rfl rfl rfl rfl rfl rfl)

/-- State.acuPut keeps what every operation keeps. -/
theorem State.acuPut_keeps {a s : State} {x1 x2 x3} (h : Keeps a s) : Keeps a (State.acuPut s x1 x2 x3) := by
  unfold State.acuPut
  repeat' first
    | with_reducible assumption
    | dsimp -zeta only
    | with_reducible apply State.share_keeps
    | with_reducible apply State.setLater_keeps

/-- State.cmdAcuRattrWrite keeps what every operation keeps. -/
theorem State.cmdAcuRattrWrite_keeps {a s : State} {x1 x2} (h : Keeps a s) : Keeps a (State.cmdAcuRattrWrite s x1 x2) := by
  unfold State.cmdAcuRattrWrite
  repeat' first
    | with_reducible assumption
    | ((fail_if_no_progress extract_lets +onlyGivenNames t); refine (?_ : Keeps a t → _) ?_; (on_goal 2 => unfold t); (on_goal 1 => (clear_value t; intro _)))
    | ((fail_if_no_progress extract_lets +onlyGivenNames t); subst t)
    | dsimp -zeta only
    | with_reducible apply Keeps.ite
    | with_reducible apply State.ignored_keeps
    | with_reducible apply State.setF_keeps
    | with_reducible apply State.bump_keeps
    | with_reducible apply State.acuPut_keeps
    | split

/-! ### Machine/Mover.lean -/

/-- State.imvIgnored keeps what every operation keeps. -/
theorem State.imvIgnored_keeps {a s : State} {x1 x2} (h : Keeps a s) : Keeps a (State.imvIgnored s x1 x2) := by
  unfold State.imvIgnored
  repeat' first
    | with_reducible assumption
    | dsimp -zeta only
    | with_reducible apply State.bump_keeps
    | with_reducible apply State.ignored_keeps

/-- State.movBusy keeps what every operation keeps. -/
theorem State.movBusy_keeps {a s : State} {x1 x2} (h : Keeps a s) : Keeps a (State.movBusy s x1 x2) := by
  unfold State.movBusy
  repeat' first
    | with_reducible assumption
    | ((fail_if_no_progress extract_lets +onlyGivenNames t); refine (?_ : Keeps a t → _) ?_; (on_goal 2 => unfold t); (on_goal 1 => (clear_value t; intro _)))
    | ((fail_if_no_progress extract_lets +onlyGivenNames t); subst t)
    | dsimp -zeta only
    | with_reducible apply Keeps.ite
    | with_reducible apply State.setF_keeps
    | with_reducible apply State.setB_keeps
    | split

/-- State.movEnd keeps what every operation keeps. -/
theorem State.movEnd_keeps {a s : State} {x1 x2} (h : Keeps a s) : Keeps a (State.movEnd s x1 x2) := by
  unfold State.movEnd
  repeat' first
    | with_reducible assumption
    | ((fail_if_no_progress extract_lets +onlyGivenNames t); refine (?_ : Keeps a t → _) ?_; (on_goal 2 => unfold t); (on_goal 1 => (clear_value t; intro _)))
    | ((fail_if_no_progress extract_lets +onlyGivenNames t); subst t)
    | dsimp -zeta only
    | with_reducible apply State.setF_keeps
    | with_reducible apply State.movBusy_keeps
    | fail_if_no_progress (with_reducible refine Keeps.upd ?_ rfl rfl rfl rfl rfl rfl)

/-- State.movRun keeps what every operation keeps. -/
theorem State.movRun_keeps {a s : State} {x1} (h : Keeps a s) : Keeps a (State.movRun s x1) := by
  unfold State.movRun
  repeat' first
    | with_reducible assumption
    | ((fail_if_no_progress extract_lets +onlyGivenNames t); refine (?_ : Keeps a t → _) ?_; (on_goal 2 => unfold t); (on_goal 1 => (clear_value t; intro _)))
    | ((fail_if_no_progress extract_lets +onlyGivenNames t); subst t)
    | dsimp -zeta only
    | with_reducible apply State.setF_keeps
    | fail_if_no_progress (with_reducible refine Keeps.upd ?_ rfl rfl rfl rfl rfl rfl)

/-- State.chctl keeps what every operation keeps. -/
theorem State.chctl_keeps {a s : State} {x1 x2} (h : Keeps a s) : Keeps a (State.chctl s x1 x2) := by
  unfold State.chctl
  repeat' first
    | with_reducible assumption
    | ((fail_if_no_progress extract_lets +onlyGivenNames t); refine (?_ : Keeps a t → _) ?_; (on_goal 2 => unfold t); (on_goal 1 => (clear_value t; intro _)))
    | ((fail_if_no_progress extract_lets +onlyGivenNames t); subst t)
    | dsimp -zeta only
    | with_reducible apply State.setF_keeps

/-- State.cmdImvStart keeps what every operation keeps. -/
theorem State.cmdImvStart_keeps {a s : State} {x1 x2} (h : Keeps a s) : Keeps a (State.cmdImvStart s x1 x2) := by
  unfold State.cmdImvStart
  repeat' first
    | with_reducible assumption
    | ((fail_if_no_progress extract_lets +onlyGivenNames t); refine (?_ : Keeps a t → _) ?_; (on_goal 2 => unfold t); (on_goal 1 => (clear_value t; intro _)))
    | ((fail_if_no_progress extract_lets +onlyGivenNames t); subst t)
    | dsimp -zeta only
    | with_reducible apply Keeps.ite
    | with_reducible apply State.imvIgnored_keeps
    | with_reducible apply State.setF_keeps
    | with_reducible apply State.chctl_keeps
    | with_reducible apply State.movEnd_keeps
    | with_reducible apply State.latchRefusal_keeps
    | with_reducible apply State.movBusy_keeps
    | with_reducible apply State.movRun_keeps
    | split

/-- State.cmdImvHalt keeps what every operation keeps. -/
theorem State.cmdImvHalt_keeps {a s : State} {x1} (h : Keeps a s) : Keeps a (State.cmdImvHalt s x1) := by
  unfold State.cmdImvHalt
  repeat' first
    | with_reducible assumption
    | ((fail_if_no_progress extract_lets +onlyGivenNames t); refine (?_ : Keeps a t → _) ?_; (on_goal 2 => unfold t); (on_goal 1 => (clear_value t; intro _)))
    | ((fail_if_no_progress extract_lets +onlyGivenNames t); subst t)
    | dsimp -zeta only
    | with_reducible apply Keeps.ite
    | with_reducible apply State.imvIgnored_keeps
    | split
    | fail_if_no_progress (with_reducible refine Keeps.upd ?_ rfl rfl rfl rfl rfl rfl)

/-- State.movWrite keeps what every operation keeps. -/
theorem State.movWrite_keeps {a s : State} {x1 x2} (h : Keeps a s) : Keeps a (State.movWrite s x1 x2) := by
  unfold State.movWrite
  extract_lets bs
  with_reducible refine Keeps.ite h (Keeps.ite (State.commitCore_keeps h) ?_)
  exact Keeps.updCode h rfl rfl rfl rfl rfl (Memory.wf_memWrL _ _ _)

/-! ### Machine/Loader.lean -/

/-- State.putNow keeps what every operation keeps. -/
theorem State.putNow_keeps {a s : State} {x1 x2 x3} (h : Keeps a s) : Keeps a (State.putNow s x1 x2 x3) := by
  unfold State.putNow
  repeat' first
    | with_reducible assumption
    | ((fail_if_no_progress extract_lets +onlyGivenNames t); refine (?_ : Keeps a t → _) ?_; (on_goal 2 => unfold t); (on_goal 1 => (clear_value t; intro _)))
    | ((fail_if_no_progress extract_lets +onlyGivenNames t); subst t)
    | dsimp -zeta only
    | with_reducible apply State.setF_keeps
    | fail_if_no_progress (with_reducible refine Keeps.upd ?_ rfl rfl rfl rfl rfl rfl)

/-- State.loadTask keeps what every operation keeps. -/
theorem State.loadTask_keeps {a s : State} {x1} (h : Keeps a s) : Keeps a (State.loadTask s x1) := by
  unfold State.loadTask
  repeat' first
    | with_reducible assumption
    | ((fail_if_no_progress extract_lets +onlyGivenNames t); refine (?_ : Keeps a t → _) ?_; (on_goal 2 => unfold t); (on_goal 1 => (clear_value t; intro _)))
    | ((fail_if_no_progress extract_lets +onlyGivenNames t); subst t)
    | dsimp -zeta only
    | with_reducible apply Keeps.ite
    | with_reducible apply State.putNow_keeps
    | with_reducible apply State.specFresh_keeps
    | split

/-- State.clearTask keeps what every operation keeps. -/
theorem State.clearTask_keeps {a s : State} {x1} (h : Keeps a s) : Keeps a (State.clearTask s x1) := by
  unfold State.clearTask
  repeat' first
    | with_reducible assumption
    | ((fail_if_no_progress extract_lets +onlyGivenNames t); refine (?_ : Keeps a t → _) ?_; (on_goal 2 => unfold t); (on_goal 1 => (clear_value t; intro _)))
    | ((fail_if_no_progress extract_lets +onlyGivenNames t); subst t)
    | dsimp -zeta only
    | with_reducible apply Keeps.ite
    | with_reducible apply State.putNow_keeps
    | split

/-- State.loadPlant keeps what every operation keeps. -/
theorem State.loadPlant_keeps {a s : State} {x1} (h : Keeps a s) : Keeps a (State.loadPlant s x1) := by
  unfold State.loadPlant
  repeat' first
    | with_reducible assumption
    | ((fail_if_no_progress extract_lets +onlyGivenNames t); refine (?_ : Keeps a t → _) ?_; (on_goal 2 => unfold t); (on_goal 1 => (clear_value t; intro _)))
    | ((fail_if_no_progress extract_lets +onlyGivenNames t); refine (?_ : Keeps2 a t → _) ?_; (on_goal 2 => unfold t); (on_goal 1 => (clear_value t; intro _)))
    | ((fail_if_no_progress extract_lets +onlyGivenNames t); refine (?_ : Keeps1 a t → _) ?_; (on_goal 2 => unfold t); (on_goal 1 => (clear_value t; intro _)))
    | ((fail_if_no_progress extract_lets +onlyGivenNames t); subst t)
    | dsimp -zeta only
    | with_reducible apply State.setF_keeps
    | with_reducible apply State.setB_keeps
    | with_reducible exact Keeps1.out ‹_›
    | with_reducible apply Keeps1.mk
    | with_reducible refine Keeps1.foldl ?_ (fun _ _ _ => ?_)
    | with_reducible refine Keeps1.out ?_
    | with_reducible exact Keeps2.out ‹_›
    | with_reducible apply Keeps2.mk
    | with_reducible refine Keeps2.foldl ?_ (fun _ _ _ => ?_)
    | with_reducible refine Keeps2.out ?_
    | with_reducible refine Keeps.foldl ?_ (fun _ _ _ => ?_)

/-- State.loadSignature keeps what every operation keeps. -/
theorem State.loadSignature_keeps {a s : State} {x1} (h : Keeps a s) : Keeps a (State.loadSignature s x1) := by
  unfold State.loadSignature
  repeat' first
    | with_reducible assumption
    | ((fail_if_no_progress extract_lets +onlyGivenNames t); refine (?_ : Keeps a t → _) ?_; (on_goal 2 => unfold t); (on_goal 1 => (clear_value t; intro _)))
    | ((fail_if_no_progress extract_lets +onlyGivenNames t); subst t)
    | dsimp -zeta only
    | with_reducible apply Keeps.ite
    | with_reducible apply State.set64_keeps
    | with_reducible apply State.evSafe_keeps
    | with_reducible apply State.setF_keeps
    | with_reducible apply State.bump_keeps
    | split

/-- State.loadWords keeps what every operation keeps. -/
theorem State.loadWords_keeps {a s : State} {x1} (h : Keeps a s) : Keeps a (State.loadWords s x1) := by
  unfold State.loadWords
  repeat' first
    | with_reducible assumption
    | dsimp -zeta only
    | with_reducible apply Keeps.ite
    | with_reducible apply State.putNow_keeps
    | with_reducible exact Keeps1.out ‹_›
    | with_reducible apply Keeps1.mk
    | with_reducible apply Keeps1.ite
    | with_reducible refine Keeps1.foldl ?_ (fun _ _ _ => ?_)
    | with_reducible refine Keeps1.out ?_
    | with_reducible exact Keeps2.out ‹_›
    | with_reducible apply Keeps2.mk
    | with_reducible apply Keeps2.ite
    | with_reducible refine Keeps2.foldl ?_ (fun _ _ _ => ?_)
    | with_reducible refine Keeps2.out ?_
    | with_reducible refine Keeps.foldl ?_ (fun _ _ _ => ?_)
    | split

/-- State.loadAcu keeps what every operation keeps. -/
theorem State.loadAcu_keeps {a s : State} {x1} (h : Keeps a s) : Keeps a (State.loadAcu s x1) := by
  unfold State.loadAcu
  repeat' first
    | with_reducible assumption
    | ((fail_if_no_progress extract_lets +onlyGivenNames t); refine (?_ : Keeps a t → _) ?_; (on_goal 2 => unfold t); (on_goal 1 => (clear_value t; intro _)))
    | ((fail_if_no_progress extract_lets +onlyGivenNames t); refine (?_ : Keeps2 a t → _) ?_; (on_goal 2 => unfold t); (on_goal 1 => (clear_value t; intro _)))
    | ((fail_if_no_progress extract_lets +onlyGivenNames t); refine (?_ : Keeps1 a t → _) ?_; (on_goal 2 => unfold t); (on_goal 1 => (clear_value t; intro _)))
    | ((fail_if_no_progress extract_lets +onlyGivenNames t); subst t)
    | dsimp -zeta only
    | with_reducible apply State.withAcu_keeps
    | with_reducible apply State.putNow_keeps
    | with_reducible exact Keeps1.out ‹_›
    | with_reducible apply Keeps1.mk
    | with_reducible refine Keeps1.foldl ?_ (fun _ _ _ => ?_)
    | with_reducible refine Keeps1.out ?_
    | with_reducible exact Keeps2.out ‹_›
    | with_reducible apply Keeps2.mk
    | with_reducible refine Keeps2.foldl ?_ (fun _ _ _ => ?_)
    | with_reducible refine Keeps2.out ?_
    | with_reducible refine Keeps.foldl ?_ (fun _ _ _ => ?_)
    | fail_if_no_progress (with_reducible refine Keeps.upd ?_ rfl rfl rfl rfl rfl rfl)

/-- State.loadRegs keeps what every operation keeps. -/
theorem State.loadRegs_keeps {a s : State} {x1} (h : Keeps a s) : Keeps a (State.loadRegs s x1) := by
  unfold State.loadRegs
  repeat' first
    | with_reducible assumption
    | ((fail_if_no_progress extract_lets +onlyGivenNames t); refine (?_ : Keeps a t → _) ?_; (on_goal 2 => unfold t); (on_goal 1 => (clear_value t; intro _)))
    | ((fail_if_no_progress extract_lets +onlyGivenNames t); refine (?_ : Keeps2 a t → _) ?_; (on_goal 2 => unfold t); (on_goal 1 => (clear_value t; intro _)))
    | ((fail_if_no_progress extract_lets +onlyGivenNames t); refine (?_ : Keeps1 a t → _) ?_; (on_goal 2 => unfold t); (on_goal 1 => (clear_value t; intro _)))
    | ((fail_if_no_progress extract_lets +onlyGivenNames t); subst t)
    | dsimp -zeta only
    | with_reducible apply State.loadTask_keeps
    | with_reducible apply State.clearTask_keeps
    | with_reducible apply State.setB_keeps
    | with_reducible apply State.laneShortage_keeps
    | with_reducible apply State.loadSignature_keeps
    | with_reducible apply State.loadWords_keeps
    | with_reducible apply State.loadAcu_keeps
    | with_reducible apply State.loadPlant_keeps
    | with_reducible exact Keeps1.out ‹_›
    | with_reducible apply Keeps1.mk
    | with_reducible refine Keeps1.foldl ?_ (fun _ _ _ => ?_)
    | with_reducible refine Keeps1.out ?_
    | with_reducible exact Keeps2.out ‹_›
    | with_reducible apply Keeps2.mk
    | with_reducible refine Keeps2.foldl ?_ (fun _ _ _ => ?_)
    | with_reducible refine Keeps2.out ?_
    | with_reducible refine Keeps.foldl ?_ (fun _ _ _ => ?_)
    | split

/-! ### Machine/Olc.lean -/

/-- State.cfgIgnored keeps what every operation keeps. -/
theorem State.cfgIgnored_keeps {a s : State} {x1 x2} (h : Keeps a s) : Keeps a (State.cfgIgnored s x1 x2) := by
  unfold State.cfgIgnored
  repeat' first
    | with_reducible assumption
    | dsimp -zeta only
    | with_reducible apply State.setF_keeps
    | with_reducible apply State.ignored_keeps

/-- State.cmdCfgOpen keeps what every operation keeps. -/
theorem State.cmdCfgOpen_keeps {a s : State} {x1} (h : Keeps a s) : Keeps a (State.cmdCfgOpen s x1) := by
  unfold State.cmdCfgOpen
  with_reducible refine Keeps.ite (State.cfgIgnored_keeps h) (Keeps.ite (State.cfgIgnored_keeps h) ?_)
  extract_lets n sq olc s1 s2 s3
  have h1 : Keeps a s1 := Keeps.updCode h rfl rfl rfl rfl rfl (Memory.wf_filter _ _)
  clear_value s1
  exact State.olcStep_keeps (State.setF_keeps (State.setF_keeps (State.setF_keeps (State.setF_keeps (State.setF_keeps (State.setF_keeps h1))))))

/-- State.cmdCfgChunk keeps what every operation keeps. -/
theorem State.cmdCfgChunk_keeps {a s : State} {x1} (h : Keeps a s) : Keeps a (State.cmdCfgChunk s x1) := by
  unfold State.cmdCfgChunk
  repeat' first
    | with_reducible assumption
    | ((fail_if_no_progress extract_lets +onlyGivenNames t); refine (?_ : Keeps a t → _) ?_; (on_goal 2 => unfold t); (on_goal 1 => (clear_value t; intro _)))
    | ((fail_if_no_progress extract_lets +onlyGivenNames t); subst t)
    | dsimp -zeta only
    | with_reducible apply Keeps.ite
    | with_reducible apply State.cfgIgnored_keeps
    | with_reducible apply State.setF_keeps
    | with_reducible apply State.bump_keeps
    | split
    | fail_if_no_progress (with_reducible refine Keeps.upd ?_ rfl rfl rfl rfl rfl rfl)

/-- State.placePkg keeps what every operation keeps. -/
theorem State.placePkg_keeps {a s : State} {x1 x2} (h : Keeps a s) : Keeps a (State.placePkg s x1 x2) :=
  Keeps.updCode h rfl rfl rfl rfl rfl (fun k => Memory.wf_foldl _ _ _ _ (Memory.wf_filter _ _ k))

/-- State.cmdCfgClose keeps what every operation keeps. -/
theorem State.cmdCfgClose_keeps {a s : State} {x1 x2} (h : Keeps a s) : Keeps a (State.cmdCfgClose s x1 x2) := by
  unfold State.cmdCfgClose
  repeat' first
    | with_reducible assumption
    | ((fail_if_no_progress extract_lets +onlyGivenNames t); refine (?_ : Keeps a t → _) ?_; (on_goal 2 => unfold t); (on_goal 1 => (clear_value t; intro _)))
    | ((fail_if_no_progress extract_lets +onlyGivenNames t); subst t)
    | dsimp -zeta only
    | with_reducible apply Keeps.ite
    | with_reducible apply State.cfgIgnored_keeps
    | with_reducible apply State.setF_keeps
    | with_reducible apply State.olcEnd_keeps
    | with_reducible apply State.placePkg_keeps
    | with_reducible apply State.evCfg_keeps
    | split
    | fail_if_no_progress (with_reducible refine Keeps.upd ?_ rfl rfl rfl rfl rfl rfl)

/-- State.toMigrate keeps what every operation keeps. -/
theorem State.toMigrate_keeps {a s : State} (h : Keeps a s) : Keeps a (State.toMigrate s) := by
  unfold State.toMigrate
  repeat' first
    | with_reducible assumption
    | dsimp -zeta only
    | with_reducible apply State.olcStep_keeps
    | with_reducible apply State.migPass_keeps

/-- State.olcBegin keeps what every operation keeps. -/
theorem State.olcBegin_keeps {a s : State} {x1 x2} (h : Keeps a s) : Keeps a (State.olcBegin s x1 x2) := by
  unfold State.olcBegin
  repeat' first
    | with_reducible assumption
    | ((fail_if_no_progress extract_lets +onlyGivenNames t); refine (?_ : Keeps a t → _) ?_; (on_goal 2 => unfold t); (on_goal 1 => (clear_value t; intro _)))
    | ((fail_if_no_progress extract_lets +onlyGivenNames t); subst t)
    | dsimp -zeta only
    | with_reducible apply Keeps.ite
    | with_reducible apply State.olcStep_keeps
    | with_reducible apply State.sendPacket_keeps
    | with_reducible apply State.toMigrate_keeps
    | split
    | fail_if_no_progress (with_reducible refine Keeps.upd ?_ rfl rfl rfl rfl rfl rfl)

/-- State.cmdOlcArm keeps what every operation keeps. -/
theorem State.cmdOlcArm_keeps {a s : State} {x1} (h : Keeps a s) : Keeps a (State.cmdOlcArm s x1) := by
  unfold State.cmdOlcArm
  repeat' first
    | with_reducible assumption
    | dsimp -zeta only
    | with_reducible apply Keeps.ite
    | with_reducible apply State.ignored_keeps
    | with_reducible apply State.olcBegin_keeps
    | split

/-- State.cmdOlcAbandon keeps what every operation keeps. -/
theorem State.cmdOlcAbandon_keeps {a s : State} {x1} (h : Keeps a s) : Keeps a (State.cmdOlcAbandon s x1) := by
  unfold State.cmdOlcAbandon
  repeat' first
    | with_reducible assumption
    | dsimp -zeta only
    | with_reducible apply Keeps.ite
    | with_reducible apply State.ignored_keeps
    | with_reducible apply State.olcEnd_keeps
    | with_reducible apply State.setF_keeps
    | split

/-- State.cmdCfgLoad keeps what every operation keeps. -/
theorem State.cmdCfgLoad_keeps {a s : State} {x1} (h : Keeps a s) : Keeps a (State.cmdCfgLoad s x1) := by
  unfold State.cmdCfgLoad
  repeat' first
    | with_reducible assumption
    | dsimp -zeta only
    | with_reducible apply Keeps.ite
    | with_reducible apply State.cfgIgnored_keeps
    | with_reducible apply State.setF_keeps
    | with_reducible apply State.olcBegin_keeps
    | split

/-- State.announceA keeps what every operation keeps. -/
theorem State.announceA_keeps {a s : State} (h : Keeps a s) : Keeps a (State.announceA s) := by
  unfold State.announceA
  repeat' first
    | with_reducible assumption
    | ((fail_if_no_progress extract_lets +onlyGivenNames t); refine (?_ : Keeps a t → _) ?_; (on_goal 2 => unfold t); (on_goal 1 => (clear_value t; intro _)))
    | ((fail_if_no_progress extract_lets +onlyGivenNames t); subst t)
    | dsimp -zeta only
    | with_reducible apply State.olcStep_keeps
    | with_reducible apply State.share_keeps
    | fail_if_no_progress (with_reducible refine Keeps.upd ?_ rfl rfl rfl rfl rfl rfl)

/-- State.addMeas keeps what every operation keeps. -/
theorem State.addMeas_keeps {a s : State} {x1} (h : Keeps a s) : Keeps a (State.addMeas s x1) := by
  unfold State.addMeas
  repeat' first
    | with_reducible assumption
    | ((fail_if_no_progress extract_lets +onlyGivenNames t); refine (?_ : Keeps a t → _) ?_; (on_goal 2 => unfold t); (on_goal 1 => (clear_value t; intro _)))
    | ((fail_if_no_progress extract_lets +onlyGivenNames t); subst t)
    | dsimp -zeta only
    | with_reducible apply Keeps.ite
    | with_reducible apply State.modKerb_keeps
    | split

/-- State.measL3 keeps what every operation keeps. -/
theorem State.measL3_keeps {a s : State} {x1} (h : Keeps a s) : Keeps a (State.measL3 s x1) := by
  unfold State.measL3
  repeat' first
    | with_reducible assumption
    | dsimp -zeta only
    | with_reducible apply State.addMeas_keeps

/-- State.crossTask keeps what every operation keeps. -/
theorem State.crossTask_keeps {a s : State} {x1 x2 x3} (h : Keeps a s) : Keeps a (State.crossTask s x1 x2 x3) := by
  unfold State.crossTask
  repeat' first
    | with_reducible assumption
    | ((fail_if_no_progress extract_lets +onlyGivenNames t); refine (?_ : Keeps a t → _) ?_; (on_goal 2 => unfold t); (on_goal 1 => (clear_value t; intro _)))
    | ((fail_if_no_progress extract_lets +onlyGivenNames t); subst t)
    | dsimp -zeta only
    | with_reducible apply Keeps.ite
    | with_reducible apply State.modTask_keeps
    | with_reducible apply State.setF_keeps
    | split

/-- State.crossHost keeps what every operation keeps. -/
theorem State.crossHost_keeps {a s : State} (h : Keeps a s) : Keeps a (State.crossHost s) := by
  unfold State.crossHost
  repeat' first
    | with_reducible assumption
    | ((fail_if_no_progress extract_lets +onlyGivenNames t); refine (?_ : Keeps a t → _) ?_; (on_goal 2 => unfold t); (on_goal 1 => (clear_value t; intro _)))
    | ((fail_if_no_progress extract_lets +onlyGivenNames t); refine (?_ : Keeps2 a t → _) ?_; (on_goal 2 => unfold t); (on_goal 1 => (clear_value t; intro _)))
    | ((fail_if_no_progress extract_lets +onlyGivenNames t); refine (?_ : Keeps1 a t → _) ?_; (on_goal 2 => unfold t); (on_goal 1 => (clear_value t; intro _)))
    | ((fail_if_no_progress extract_lets +onlyGivenNames t); subst t)
    | dsimp -zeta only
    | with_reducible apply Keeps.ite
    | with_reducible apply State.modQp_keeps
    | with_reducible apply State.putCompl_keeps
    | with_reducible apply State.modSess_keeps
    | with_reducible apply State.completeB_keeps
    | with_reducible exact Keeps1.out ‹_›
    | with_reducible apply Keeps1.mk
    | with_reducible apply Keeps1.ite
    | with_reducible refine Keeps1.foldl ?_ (fun _ _ _ => ?_)
    | with_reducible refine Keeps1.out ?_
    | with_reducible exact Keeps2.out ‹_›
    | with_reducible apply Keeps2.mk
    | with_reducible apply Keeps2.ite
    | with_reducible refine Keeps2.foldl ?_ (fun _ _ _ => ?_)
    | with_reducible refine Keeps2.out ?_
    | with_reducible refine Keeps.foldl ?_ (fun _ _ _ => ?_)
    | split
    | fail_if_no_progress (with_reducible refine Keeps.upd ?_ rfl rfl rfl rfl rfl rfl)

/-- State.crossStations keeps what every operation keeps. -/
theorem State.crossStations_keeps {a s : State} {x1} (h : Keeps a s) : Keeps a (State.crossStations s x1) := by
  unfold State.crossStations
  repeat' first
    | with_reducible assumption
    | dsimp -zeta only
    | with_reducible apply Keeps.ite
    | with_reducible apply State.modSta_keeps
    | with_reducible apply State.setF_keeps
    | with_reducible exact Keeps1.out ‹_›
    | with_reducible apply Keeps1.mk
    | with_reducible apply Keeps1.ite
    | with_reducible refine Keeps1.foldl ?_ (fun _ _ _ => ?_)
    | with_reducible refine Keeps1.out ?_
    | with_reducible exact Keeps2.out ‹_›
    | with_reducible apply Keeps2.mk
    | with_reducible apply Keeps2.ite
    | with_reducible refine Keeps2.foldl ?_ (fun _ _ _ => ?_)
    | with_reducible refine Keeps2.out ?_
    | with_reducible refine Keeps.foldl ?_ (fun _ _ _ => ?_)
    | split

/-- The carried values, laid into the new layout, are memory in its canonical form. -/
theorem State.migrate_wf (s : State) (p : Pkg) : Memory.wf (s.migrate p).1 = true := by
  have hi : Memory.wf (s.migInit p) = true := by
    unfold State.migInit
    have h0 : Memory.wf (memLay [] p.init) = true := Memory.wf_memLay _ _ Memory.wf_nil
    generalize memLay [] p.init = m at h0
    induction p.vars generalizing m with
    | nil => exact h0
    | cons v l ih =>
      refine ih _ ?_
      dsimp only
      split
      · split
        · exact Memory.wf_memWrL _ _ _ h0
        · exact h0
      · exact h0
  unfold State.migrate
  have hl : ∀ (l : List MigEl) (a : Tab Byte × Nat), Memory.wf a.1 = true →
      Memory.wf (l.foldl (fun a e => let v := e.val s.sq.mem; (memWrL a.1 e.dst v.1, a.2 + v.2)) a).1 = true := by
    intro l
    induction l with
    | nil => intro a h; exact h
    | cons e l ih => intro a h; exact ih _ (Memory.wf_memWrL _ _ _ h)
  exact hl _ _ hi

/-- State.activate keeps what every operation keeps. -/
theorem State.activate_keeps {a s : State} {x1 x2 x3} (h : Keeps a s) : Keeps a (State.activate s x1 x2 x3) := by
  unfold State.activate
  extract_lets old m bad grids olc s1 sq sched io pair s3 s4 s5 s6 s7 sq2 s8 s9 s10 s11
  have hm : Memory.wf m.1 = true := by
    show Memory.wf (if x2 then (memLay [] x1.init, 0) else s.migrate x1).1 = true
    split
    · exact Memory.wf_memLay _ _ Memory.wf_nil
    · exact State.migrate_wf _ _
  clear_value m bad
  have h1 : Keeps a s1 := Keeps.upd h rfl rfl rfl rfl rfl rfl
  clear_value s1
  have h3 : Keeps a s3 := Keeps.updMem h1 rfl rfl rfl (Nat.le_refl _) (fun _ => hm) rfl
  clear_value s3
  have h4 : Keeps a s4 := State.setF_keeps h3
  clear_value s4
  have h5 : Keeps a s5 := State.set64_keeps (State.setF_keeps h4)
  clear_value s5
  have h6 : Keeps a s6 := State.setF_keeps (State.set64_keeps h5)
  clear_value s6
  have h7 : Keeps a s7 := State.loadRegs_keeps (State.ttcDrop_keeps h6)
  clear_value s7
  have h8 : Keeps a s8 := Keeps.upd h7 rfl rfl rfl rfl rfl rfl
  clear_value s8
  have h9 : Keeps a s9 := Keeps.foldl h8 (fun s t h => State.crossTask_keeps h)
  clear_value s9
  have h10 : Keeps a s10 := State.specGenCheck_keeps (State.breakAll_keeps (State.crossStations_keeps (State.crossHost_keeps h9)))
  clear_value s10
  exact State.showForces_keeps (State.measL3_keeps (State.modKerb_keeps h10))

/-- State.stageRetained keeps what every operation keeps. -/
theorem State.stageRetained_keeps {a s : State} {x1} (h : Keeps a s) : Keeps a (State.stageRetained s x1) := by
  unfold State.stageRetained
  repeat' first
    | with_reducible assumption
    | ((fail_if_no_progress extract_lets +onlyGivenNames t); refine (?_ : Keeps a t → _) ?_; (on_goal 2 => unfold t); (on_goal 1 => (clear_value t; intro _)))
    | ((fail_if_no_progress extract_lets +onlyGivenNames t); refine (?_ : Keeps2 a t → _) ?_; (on_goal 2 => unfold t); (on_goal 1 => (clear_value t; intro _)))
    | ((fail_if_no_progress extract_lets +onlyGivenNames t); refine (?_ : Keeps1 a t → _) ?_; (on_goal 2 => unfold t); (on_goal 1 => (clear_value t; intro _)))
    | ((fail_if_no_progress extract_lets +onlyGivenNames t); subst t)
    | dsimp -zeta only
    | with_reducible apply Keeps.ite
    | with_reducible exact Keeps1.out ‹_›
    | with_reducible apply Keeps1.mk
    | with_reducible apply Keeps1.ite
    | with_reducible refine Keeps1.foldl ?_ (fun _ _ _ => ?_)
    | with_reducible refine Keeps1.out ?_
    | with_reducible exact Keeps2.out ‹_›
    | with_reducible apply Keeps2.mk
    | with_reducible apply Keeps2.ite
    | with_reducible refine Keeps2.foldl ?_ (fun _ _ _ => ?_)
    | with_reducible refine Keeps2.out ?_
    | with_reducible refine Keeps.foldl ?_ (fun _ _ _ => ?_)
    | split
    | fail_if_no_progress (with_reducible refine Keeps.upd ?_ rfl rfl rfl rfl rfl rfl)

/-- State.newLayout keeps what every operation keeps. -/
theorem State.newLayout_keeps {a s : State} {x1} (h : Keeps a s) : Keeps a (State.newLayout s x1) := by
  unfold State.newLayout
  repeat' first
    | with_reducible assumption
    | ((fail_if_no_progress extract_lets +onlyGivenNames t); refine (?_ : Keeps a t → _) ?_; (on_goal 2 => unfold t); (on_goal 1 => (clear_value t; intro _)))
    | ((fail_if_no_progress extract_lets +onlyGivenNames t); subst t)
    | dsimp -zeta only
    | split
    | fail_if_no_progress (with_reducible refine Keeps.upd ?_ rfl rfl rfl rfl rfl rfl)

/-- State.activationCommit keeps what every operation keeps. -/
theorem State.activationCommit_keeps {a s : State} {x1 x2} (h : Keeps a s) : Keeps a (State.activationCommit s x1 x2) := by
  unfold State.activationCommit
  repeat' first
    | with_reducible assumption
    | ((fail_if_no_progress extract_lets +onlyGivenNames t); refine (?_ : Keeps a t → _) ?_; (on_goal 2 => unfold t); (on_goal 1 => (clear_value t; intro _)))
    | ((fail_if_no_progress extract_lets +onlyGivenNames t); subst t)
    | dsimp -zeta only
    | with_reducible apply Keeps.ite
    | with_reducible apply State.abortPending_keeps
    | with_reducible apply State.invalAll_keeps
    | with_reducible apply State.activate_keeps
    | with_reducible apply State.commitCore_keeps
    | with_reducible apply State.newLayout_keeps
    | with_reducible apply State.stageRetained_keeps
    | split

/-- State.olcTick keeps what every operation keeps. -/
theorem State.olcTick_keeps {a s : State} (h : Keeps a s) : Keeps a (State.olcTick s) := by
  unfold State.olcTick
  repeat' first
    | with_reducible assumption
    | dsimp -zeta only
    | with_reducible apply Keeps.ite
    | with_reducible apply State.olcStep_keeps
    | split

/-- State.olcAlone keeps what every operation keeps. -/
theorem State.olcAlone_keeps {a s : State} (h : Keeps a s) : Keeps a (State.olcAlone s) := by
  unfold State.olcAlone
  repeat' first
    | with_reducible assumption
    | ((fail_if_no_progress extract_lets +onlyGivenNames t); refine (?_ : Keeps a t → _) ?_; (on_goal 2 => unfold t); (on_goal 1 => (clear_value t; intro _)))
    | ((fail_if_no_progress extract_lets +onlyGivenNames t); subst t)
    | dsimp -zeta only
    | with_reducible apply Keeps.ite
    | with_reducible apply State.olcStep_keeps
    | with_reducible apply State.toMigrate_keeps
    | split
    | fail_if_no_progress (with_reducible refine Keeps.upd ?_ rfl rfl rfl rfl rfl rfl)

/-! ### Machine/Pair.lean -/

/-- State.sendHello keeps what every operation keeps. -/
theorem State.sendHello_keeps {a s : State} (h : Keeps a s) : Keeps a (State.sendHello s) := by
  unfold State.sendHello
  repeat' first
    | with_reducible assumption
    | ((fail_if_no_progress extract_lets +onlyGivenNames t); refine (?_ : Keeps a t → _) ?_; (on_goal 2 => unfold t); (on_goal 1 => (clear_value t; intro _)))
    | ((fail_if_no_progress extract_lets +onlyGivenNames t); subst t)
    | dsimp -zeta only
    | with_reducible apply State.sendPacket_keeps

/-- State.backfillLost keeps what every operation keeps. -/
theorem State.backfillLost_keeps {a s : State} (h : Keeps a s) : Keeps a (State.backfillLost s) := by
  unfold State.backfillLost
  repeat' first
    | with_reducible assumption
    | dsimp -zeta only
    | with_reducible apply Keeps.ite
    | with_reducible apply State.setF_keeps
    | split

/-- State.takeAfterFailure keeps what every operation keeps. -/
theorem State.takeAfterFailure_keeps {a s : State} (h : Keeps a s) : Keeps a (State.takeAfterFailure s) := by
  unfold State.takeAfterFailure
  repeat' first
    | with_reducible assumption
    | ((fail_if_no_progress extract_lets +onlyGivenNames t); refine (?_ : Keeps a t → _) ?_; (on_goal 2 => unfold t); (on_goal 1 => (clear_value t; intro _)))
    | ((fail_if_no_progress extract_lets +onlyGivenNames t); subst t)
    | dsimp -zeta only
    | with_reducible apply Keeps.ite
    | with_reducible apply State.takeLead_keeps
    | with_reducible apply State.backfillLost_keeps
    | with_reducible apply State.olcTakeover_keeps
    | split
    | fail_if_no_progress (with_reducible refine Keeps.upd ?_ rfl rfl rfl rfl rfl rfl)

/-- State.tryHandover keeps what every operation keeps. -/
theorem State.tryHandover_keeps {a s : State} (h : Keeps a s) : Keeps a (State.tryHandover s) := by
  unfold State.tryHandover
  repeat' first
    | with_reducible assumption
    | ((fail_if_no_progress extract_lets +onlyGivenNames t); refine (?_ : Keeps a t → _) ?_; (on_goal 2 => unfold t); (on_goal 1 => (clear_value t; intro _)))
    | ((fail_if_no_progress extract_lets +onlyGivenNames t); subst t)
    | dsimp -zeta only
    | with_reducible apply Keeps.ite
    | with_reducible apply State.takeLead_keeps
    | split
    | fail_if_no_progress (with_reducible refine Keeps.upd ?_ rfl rfl rfl rfl rfl rfl)

/-- State.dropJoin keeps what every operation keeps. -/
theorem State.dropJoin_keeps {a s : State} (h : Keeps a s) : Keeps a (State.dropJoin s) := by
  unfold State.dropJoin
  repeat' first
    | with_reducible assumption
    | ((fail_if_no_progress extract_lets +onlyGivenNames t); refine (?_ : Keeps a t → _) ?_; (on_goal 2 => unfold t); (on_goal 1 => (clear_value t; intro _)))
    | ((fail_if_no_progress extract_lets +onlyGivenNames t); subst t)
    | dsimp -zeta only
    | with_reducible apply Keeps.ite
    | with_reducible apply State.setF_keeps
    | split
    | fail_if_no_progress (with_reducible refine Keeps.upd ?_ rfl rfl rfl rfl rfl rfl)

/-- State.partnerLost keeps what every operation keeps. -/
theorem State.partnerLost_keeps {a s : State} {x1} (h : Keeps a s) : Keeps a (State.partnerLost s x1) := by
  unfold State.partnerLost
  repeat' first
    | with_reducible assumption
    | ((fail_if_no_progress extract_lets +onlyGivenNames t); refine (?_ : Keeps a t → _) ?_; (on_goal 2 => unfold t); (on_goal 1 => (clear_value t; intro _)))
    | ((fail_if_no_progress extract_lets +onlyGivenNames t); subst t)
    | dsimp -zeta only
    | with_reducible apply Keeps.ite
    | with_reducible apply State.olcAlone_keeps
    | with_reducible apply State.dropJoin_keeps
    | with_reducible apply State.goSolo_keeps
    | split
    | fail_if_no_progress (with_reducible refine Keeps.upd ?_ rfl rfl rfl rfl rfl rfl)

/-- State.leadLostUnfit keeps what every operation keeps. -/
theorem State.leadLostUnfit_keeps {a s : State} (h : Keeps a s) : Keeps a (State.leadLostUnfit s) := by
  unfold State.leadLostUnfit
  repeat' first
    | with_reducible assumption
    | dsimp -zeta only
    | with_reducible apply State.loseRole_keeps
    | with_reducible apply State.backfillLost_keeps

/-- State.applyKey keeps what every operation keeps. -/
theorem State.applyKey_keeps {a s : State} {x1} (h : Keeps a s) : Keeps a (State.applyKey s x1) :=
  Keeps.updRegs h rfl (tabRising_foldl _ _ _ _) rfl rfl rfl rfl

/-- State.dueKey keeps what every operation keeps. -/
theorem State.dueKey_keeps {a s : State} {x1 x2 x3 x4} (h : Keeps a s) : Keeps a (State.dueKey s x1 x2 x3 x4) := by
  unfold State.dueKey
  repeat' first
    | with_reducible assumption
    | ((fail_if_no_progress extract_lets +onlyGivenNames t); refine (?_ : Keeps a t → _) ?_; (on_goal 2 => unfold t); (on_goal 1 => (clear_value t; intro _)))
    | ((fail_if_no_progress extract_lets +onlyGivenNames t); subst t)
    | dsimp -zeta only
    | fail_if_no_progress (with_reducible refine Keeps.upd ?_ rfl rfl rfl rfl rfl rfl)

/-- State.squareAt keeps what every operation keeps. -/
theorem State.squareAt_keeps {a s : State} {x1 x2} (h : Keeps a s) : Keeps a (State.squareAt s x1 x2) := by
  unfold State.squareAt
  repeat' first
    | with_reducible assumption
    | ((fail_if_no_progress extract_lets +onlyGivenNames t); refine (?_ : Keeps a t → _) ?_; (on_goal 2 => unfold t); (on_goal 1 => (clear_value t; intro _)))
    | ((fail_if_no_progress extract_lets +onlyGivenNames t); subst t)
    | dsimp -zeta only
    | with_reducible apply Keeps.ite
    | with_reducible apply State.squareItem_keeps
    | split
    | fail_if_no_progress (with_reducible refine Keeps.upd ?_ rfl rfl rfl rfl rfl rfl)

/-- State.regAt keeps what every operation keeps. -/
theorem State.regAt_keeps {a s : State} {x1 x2 x3} (h : Keeps a s) : Keeps a (State.regAt s x1 x2 x3) := by
  unfold State.regAt
  repeat' first
    | with_reducible assumption
    | ((fail_if_no_progress extract_lets +onlyGivenNames t); refine (?_ : Keeps a t → _) ?_; (on_goal 2 => unfold t); (on_goal 1 => (clear_value t; intro _)))
    | ((fail_if_no_progress extract_lets +onlyGivenNames t); subst t)
    | dsimp -zeta only
    | with_reducible apply Keeps.ite
    | with_reducible apply State.dueKey_keeps
    | with_reducible apply State.applyKey_keeps
    | split

/-- State.applyItem keeps what every operation keeps. -/
theorem State.applyItem_keeps {a s : State} {x1} (h : Keeps a s) : Keeps a (State.applyItem s x1) := by
  unfold State.applyItem
  repeat' first
    | with_reducible assumption
    | ((fail_if_no_progress extract_lets +onlyGivenNames t); refine (?_ : Keeps a t → _) ?_; (on_goal 2 => unfold t); (on_goal 1 => (clear_value t; intro _)))
    | ((fail_if_no_progress extract_lets +onlyGivenNames t); subst t)
    | dsimp -zeta only
    | with_reducible apply Keeps.ite
    | with_reducible apply State.regAt_keeps
    | with_reducible apply State.dueKey_keeps
    | with_reducible apply State.squareAt_keeps
    | with_reducible apply State.applyDue_keeps
    | with_reducible apply State.setF_keeps
    | with_reducible apply State.olcEnd_keeps
    | with_reducible apply State.migPass_keeps
    | with_reducible apply State.showForces_keeps
    | with_reducible apply State.modTask_keeps
    | with_reducible apply State.sysWrite_keeps
    | with_reducible apply State.modKerb_keeps
    | split
    | fail_if_no_progress (with_reducible refine Keeps.upd ?_ rfl rfl rfl rfl rfl rfl)

/-- State.startAudit keeps what every operation keeps. -/
theorem State.startAudit_keeps {a s : State} {x1} (h : Keeps a s) : Keeps a (State.startAudit s x1) := by
  unfold State.startAudit
  repeat' first
    | with_reducible assumption
    | ((fail_if_no_progress extract_lets +onlyGivenNames t); refine (?_ : Keeps a t → _) ?_; (on_goal 2 => unfold t); (on_goal 1 => (clear_value t; intro _)))
    | ((fail_if_no_progress extract_lets +onlyGivenNames t); refine (?_ : Keeps2 a t → _) ?_; (on_goal 2 => unfold t); (on_goal 1 => (clear_value t; intro _)))
    | ((fail_if_no_progress extract_lets +onlyGivenNames t); refine (?_ : Keeps1 a t → _) ?_; (on_goal 2 => unfold t); (on_goal 1 => (clear_value t; intro _)))
    | ((fail_if_no_progress extract_lets +onlyGivenNames t); subst t)
    | dsimp -zeta only
    | with_reducible apply Keeps.ite
    | with_reducible apply State.bump_keeps
    | with_reducible apply State.putRun_keeps
    | with_reducible exact Keeps1.out ‹_›
    | with_reducible apply Keeps1.mk
    | with_reducible apply Keeps1.ite
    | with_reducible refine Keeps1.foldl ?_ (fun _ _ _ => ?_)
    | with_reducible refine Keeps1.out ?_
    | with_reducible exact Keeps2.out ‹_›
    | with_reducible apply Keeps2.mk
    | with_reducible apply Keeps2.ite
    | with_reducible refine Keeps2.foldl ?_ (fun _ _ _ => ?_)
    | with_reducible refine Keeps2.out ?_
    | with_reducible refine Keeps.foldl ?_ (fun _ _ _ => ?_)
    | split
    | fail_if_no_progress (with_reducible refine Keeps.upd ?_ rfl rfl rfl rfl rfl rfl)

/-- State.seatOut keeps what every operation keeps. -/
theorem State.seatOut_keeps {a s : State} {x1} (h : Keeps a s) : Keeps a (State.seatOut s x1) := by
  unfold State.seatOut
  repeat' first
    | with_reducible assumption
    | ((fail_if_no_progress extract_lets +onlyGivenNames t); refine (?_ : Keeps a t → _) ?_; (on_goal 2 => unfold t); (on_goal 1 => (clear_value t; intro _)))
    | ((fail_if_no_progress extract_lets +onlyGivenNames t); refine (?_ : Keeps2 a t → _) ?_; (on_goal 2 => unfold t); (on_goal 1 => (clear_value t; intro _)))
    | ((fail_if_no_progress extract_lets +onlyGivenNames t); refine (?_ : Keeps1 a t → _) ?_; (on_goal 2 => unfold t); (on_goal 1 => (clear_value t; intro _)))
    | ((fail_if_no_progress extract_lets +onlyGivenNames t); subst t)
    | dsimp -zeta only
    | with_reducible apply State.outputsHold_keeps
    | with_reducible apply State.driveOne_keeps
    | with_reducible apply State.canCommit_keeps
    | with_reducible exact Keeps1.out ‹_›
    | with_reducible apply Keeps1.mk
    | with_reducible refine Keeps1.foldl ?_ (fun _ _ _ => ?_)
    | with_reducible refine Keeps1.out ?_
    | with_reducible exact Keeps2.out ‹_›
    | with_reducible apply Keeps2.mk
    | with_reducible refine Keeps2.foldl ?_ (fun _ _ _ => ?_)
    | with_reducible refine Keeps2.out ?_
    | with_reducible refine Keeps.foldl ?_ (fun _ _ _ => ?_)

/-- State.heard keeps what every operation keeps. -/
theorem State.heard_keeps {a s : State} {x1} (h : Keeps a s) : Keeps a (State.heard s x1) := by
  unfold State.heard
  repeat' first
    | with_reducible assumption
    | ((fail_if_no_progress extract_lets +onlyGivenNames t); refine (?_ : Keeps a t → _) ?_; (on_goal 2 => unfold t); (on_goal 1 => (clear_value t; intro _)))
    | ((fail_if_no_progress extract_lets +onlyGivenNames t); subst t)
    | dsimp -zeta only
    | with_reducible apply Keeps.ite
    | with_reducible apply State.enterPair_keeps
    | split
    | fail_if_no_progress (with_reducible refine Keeps.upd ?_ rfl rfl rfl rfl rfl rfl)

/-- State.mirrorXcp keeps what every operation keeps. -/
theorem State.mirrorXcp_keeps {a s : State} {x1 x2} (h : Keeps a s) : Keeps a (State.mirrorXcp s x1 x2) := by
  unfold State.mirrorXcp
  repeat' first
    | with_reducible assumption
    | ((fail_if_no_progress extract_lets +onlyGivenNames t); refine (?_ : Keeps a t → _) ?_; (on_goal 2 => unfold t); (on_goal 1 => (clear_value t; intro _)))
    | ((fail_if_no_progress extract_lets +onlyGivenNames t); subst t)
    | dsimp -zeta only
    | with_reducible apply Keeps.ite
    | with_reducible apply State.setB_keeps
    | with_reducible apply State.modTask_keeps
    | split

/-- State.pktFlip keeps what every operation keeps. -/
theorem State.pktFlip_keeps {a s : State} {x1} (h : Keeps a s) : Keeps2 a (State.pktFlip s x1) := by
  unfold State.pktFlip
  extract_lets t s1 s2 before load s3 w s4 s5 bad q1
  have h2 : Keeps a s2 := Keeps.foldl (State.applyReleaseAt_keeps (State.setEpoch_keeps h)) (fun s x h => State.applyItem_keeps h)
  clear_value s2
  have h3 : Keeps a s3 := by
    unfold s3
    split
    · exact State.setF_keeps (State.activate_keeps h2)
    · exact h2
  clear_value s3
  have h4 : Keeps a s4 := State.dualWrite_keeps (State.flip_keeps h3)
  clear_value s4
  have h5 : Keeps a s5 := Keeps.ite (State.newLayout_keeps h4) h4
  clear_value s5
  exact Keeps2.mk (Keeps.upd h5 rfl rfl rfl rfl rfl rfl)

/-- State.pktKeep keeps what every operation keeps. -/
theorem State.pktKeep_keeps {a s : State} {x1 x2} (h : Keeps a s) : Keeps a (State.pktKeep s x1 x2) := by
  unfold State.pktKeep
  repeat' first
    | with_reducible assumption
    | ((fail_if_no_progress extract_lets +onlyGivenNames t); refine (?_ : Keeps a t → _) ?_; (on_goal 2 => unfold t); (on_goal 1 => (clear_value t; intro _)))
    | ((fail_if_no_progress extract_lets +onlyGivenNames t); refine (?_ : Keeps2 a t → _) ?_; (on_goal 2 => unfold t); (on_goal 1 => (clear_value t; intro _)))
    | ((fail_if_no_progress extract_lets +onlyGivenNames t); refine (?_ : Keeps1 a t → _) ?_; (on_goal 2 => unfold t); (on_goal 1 => (clear_value t; intro _)))
    | ((fail_if_no_progress extract_lets +onlyGivenNames t); subst t)
    | dsimp -zeta only
    | with_reducible apply Keeps.ite
    | with_reducible apply State.modTask_keeps
    | with_reducible apply State.mirrorXcp_keeps
    | with_reducible apply State.event_keeps
    | with_reducible apply State.stageRetained_keeps
    | with_reducible apply State.canHandOver_keeps
    | with_reducible apply State.identify_keeps
    | with_reducible exact Keeps1.out ‹_›
    | with_reducible apply Keeps1.mk
    | with_reducible apply Keeps1.ite
    | with_reducible refine Keeps1.foldl ?_ (fun _ _ _ => ?_)
    | with_reducible refine Keeps1.out ?_
    | with_reducible exact Keeps2.out ‹_›
    | with_reducible apply Keeps2.mk
    | with_reducible apply Keeps2.ite
    | with_reducible refine Keeps2.foldl ?_ (fun _ _ _ => ?_)
    | with_reducible refine Keeps2.out ?_
    | with_reducible refine Keeps.foldl ?_ (fun _ _ _ => ?_)
    | split
    | fail_if_no_progress (with_reducible refine Keeps.upd ?_ rfl rfl rfl rfl rfl rfl)

/-- State.pktReact keeps what every operation keeps. -/
theorem State.pktReact_keeps {a s : State} {x1} (h : Keeps a s) : Keeps a (State.pktReact s x1) := by
  unfold State.pktReact
  repeat' first
    | with_reducible assumption
    | ((fail_if_no_progress extract_lets +onlyGivenNames t); refine (?_ : Keeps a t → _) ?_; (on_goal 2 => unfold t); (on_goal 1 => (clear_value t; intro _)))
    | ((fail_if_no_progress extract_lets +onlyGivenNames t); subst t)
    | dsimp -zeta only
    | with_reducible apply Keeps.ite
    | with_reducible apply State.seatOut_keeps
    | with_reducible apply State.subsCommit_keeps
    | with_reducible apply State.hostAdvance_keeps
    | with_reducible apply State.setAck_keeps
    | with_reducible apply State.sendPacket_keeps
    | with_reducible apply State.heard_keeps
    | with_reducible apply State.enterPair_keeps
    | with_reducible apply State.startAudit_keeps
    | with_reducible apply State.tryHandover_keeps
    | split
    | fail_if_no_progress (with_reducible refine Keeps.upd ?_ rfl rfl rfl rfl rfl rfl)

/-- State.applyPacket keeps what every operation keeps. -/
theorem State.applyPacket_keeps {a s : State} {x1} (h : Keeps a s) : Keeps a (State.applyPacket s x1) := by
  unfold State.applyPacket
  repeat' first
    | with_reducible assumption
    | ((fail_if_no_progress extract_lets +onlyGivenNames t); refine (?_ : Keeps a t → _) ?_; (on_goal 2 => unfold t); (on_goal 1 => (clear_value t; intro _)))
    | ((fail_if_no_progress extract_lets +onlyGivenNames t); refine (?_ : Keeps2 a t → _) ?_; (on_goal 2 => unfold t); (on_goal 1 => (clear_value t; intro _)))
    | ((fail_if_no_progress extract_lets +onlyGivenNames t); subst t)
    | dsimp -zeta only
    | with_reducible refine State.byEngines_keeps ?_ (fun _ _ => ?_)
    | with_reducible apply State.pktFlip_keeps
    | with_reducible refine Keeps2.out (State.pktFlip_keeps ?_)
    | with_reducible apply State.pktReact_keeps
    | with_reducible apply State.pktKeep_keeps
    | with_reducible exact Keeps2.out ‹_›
    | with_reducible apply Keeps2.mk

/-- State.drainPkts keeps what every operation keeps. -/
theorem State.drainPkts_keeps {a s : State} {x1} (h : Keeps a s) : Keeps a (State.drainPkts s x1) := by
  induction x1 generalizing s with
  | zero => exact h
  | succ n ih =>
    unfold State.drainPkts
    split
    · exact h
    · exact ih (State.applyPacket_keeps (Keeps.upd h rfl rfl rfl rfl rfl rfl))

/-- State.sendTick keeps what every operation keeps. -/
theorem State.sendTick_keeps {a s : State} {x1} (h : Keeps a s) : Keeps a (State.sendTick s x1) := by
  unfold State.sendTick
  repeat' first
    | with_reducible assumption
    | ((fail_if_no_progress extract_lets +onlyGivenNames t); refine (?_ : Keeps a t → _) ?_; (on_goal 2 => unfold t); (on_goal 1 => (clear_value t; intro _)))
    | ((fail_if_no_progress extract_lets +onlyGivenNames t); refine (?_ : Keeps2 a t → _) ?_; (on_goal 2 => unfold t); (on_goal 1 => (clear_value t; intro _)))
    | ((fail_if_no_progress extract_lets +onlyGivenNames t); subst t)
    | dsimp -zeta only
    | with_reducible apply Keeps.ite
    | with_reducible apply State.takeSetup_keeps
    | with_reducible refine Keeps2.out (State.takeSetup_keeps ?_)
    | with_reducible apply State.sendPacket_keeps
    | with_reducible exact Keeps2.out ‹_›
    | with_reducible apply Keeps2.mk
    | with_reducible apply Keeps2.ite
    | split
    | fail_if_no_progress (with_reducible refine Keeps.upd ?_ rfl rfl rfl rfl rfl rfl)

/-- State.ackLost keeps what every operation keeps. -/
theorem State.ackLost_keeps {a s : State} (h : Keeps a s) : Keeps a (State.ackLost s) := by
  unfold State.ackLost
  repeat' first
    | with_reducible assumption
    | dsimp -zeta only
    | with_reducible apply Keeps.ite
    | with_reducible apply State.partnerLost_keeps
    | split

/-- State.auditEnd keeps what every operation keeps. -/
theorem State.auditEnd_keeps {a s : State} {x1} (h : Keeps a s) : Keeps a (State.auditEnd s x1) := by
  unfold State.auditEnd
  repeat' first
    | with_reducible assumption
    | ((fail_if_no_progress extract_lets +onlyGivenNames t); refine (?_ : Keeps a t → _) ?_; (on_goal 2 => unfold t); (on_goal 1 => (clear_value t; intro _)))
    | ((fail_if_no_progress extract_lets +onlyGivenNames t); subst t)
    | dsimp -zeta only
    | with_reducible apply State.delRun_keeps
    | fail_if_no_progress (with_reducible refine Keeps.upd ?_ rfl rfl rfl rfl rfl rfl)

/-- State.startResync keeps what every operation keeps. -/
theorem State.startResync_keeps {a s : State} {x1 x2} (h : Keeps a s) : Keeps a (State.startResync s x1 x2) := by
  unfold State.startResync
  repeat' first
    | with_reducible assumption
    | ((fail_if_no_progress extract_lets +onlyGivenNames t); refine (?_ : Keeps a t → _) ?_; (on_goal 2 => unfold t); (on_goal 1 => (clear_value t; intro _)))
    | ((fail_if_no_progress extract_lets +onlyGivenNames t); subst t)
    | dsimp -zeta only
    | with_reducible apply Keeps.ite
    | with_reducible apply State.sendHello_keeps
    | with_reducible apply State.enterPair_keeps
    | split
    | fail_if_no_progress (with_reducible refine Keeps.upd ?_ rfl rfl rfl rfl rfl rfl)

/-- State.auditMiss keeps what every operation keeps. -/
theorem State.auditMiss_keeps {a s : State} {x1 x2 x3} (h : Keeps a s) : Keeps a (State.auditMiss s x1 x2 x3) := by
  unfold State.auditMiss
  repeat' first
    | with_reducible assumption
    | ((fail_if_no_progress extract_lets +onlyGivenNames t); refine (?_ : Keeps a t → _) ?_; (on_goal 2 => unfold t); (on_goal 1 => (clear_value t; intro _)))
    | ((fail_if_no_progress extract_lets +onlyGivenNames t); subst t)
    | dsimp -zeta only
    | with_reducible apply Keeps.ite
    | with_reducible apply State.bump_keeps
    | with_reducible apply State.auditEnd_keeps
    | with_reducible apply State.evHw_keeps
    | with_reducible apply State.modKerb_keeps
    | with_reducible apply State.loseRole_keeps
    | with_reducible apply State.startResync_keeps
    | split
    | fail_if_no_progress (with_reducible refine Keeps.upd ?_ rfl rfl rfl rfl rfl rfl)

/-- State.fetchBad keeps what every operation keeps. -/
theorem State.fetchBad_keeps {a s : State} (h : Keeps a s) : Keeps a (State.fetchBad s) := by
  unfold State.fetchBad
  repeat' first
    | with_reducible assumption
    | ((fail_if_no_progress extract_lets +onlyGivenNames t); refine (?_ : Keeps a t → _) ?_; (on_goal 2 => unfold t); (on_goal 1 => (clear_value t; intro _)))
    | ((fail_if_no_progress extract_lets +onlyGivenNames t); subst t)
    | dsimp -zeta only
    | with_reducible apply Keeps.ite
    | with_reducible apply State.sendHello_keeps
    | split
    | fail_if_no_progress (with_reducible refine Keeps.upd ?_ rfl rfl rfl rfl rfl rfl)

/-- State.askWitnesses keeps what every operation keeps. -/
theorem State.askWitnesses_keeps {a s : State} (h : Keeps a s) : Keeps a (State.askWitnesses s) := by
  unfold State.askWitnesses
  repeat' first
    | with_reducible assumption
    | ((fail_if_no_progress extract_lets +onlyGivenNames t); refine (?_ : Keeps a t → _) ?_; (on_goal 2 => unfold t); (on_goal 1 => (clear_value t; intro _)))
    | ((fail_if_no_progress extract_lets +onlyGivenNames t); refine (?_ : Keeps2 a t → _) ?_; (on_goal 2 => unfold t); (on_goal 1 => (clear_value t; intro _)))
    | ((fail_if_no_progress extract_lets +onlyGivenNames t); refine (?_ : Keeps1 a t → _) ?_; (on_goal 2 => unfold t); (on_goal 1 => (clear_value t; intro _)))
    | ((fail_if_no_progress extract_lets +onlyGivenNames t); subst t)
    | dsimp -zeta only
    | with_reducible apply Keeps.ite
    | with_reducible apply State.setF_keeps
    | with_reducible apply State.fspSend_keeps
    | with_reducible exact Keeps1.out ‹_›
    | with_reducible apply Keeps1.mk
    | with_reducible apply Keeps1.ite
    | with_reducible refine Keeps1.foldl ?_ (fun _ _ _ => ?_)
    | with_reducible refine Keeps1.out ?_
    | with_reducible exact Keeps2.out ‹_›
    | with_reducible apply Keeps2.mk
    | with_reducible apply Keeps2.ite
    | with_reducible refine Keeps2.foldl ?_ (fun _ _ _ => ?_)
    | with_reducible refine Keeps2.out ?_
    | with_reducible refine Keeps.foldl ?_ (fun _ _ _ => ?_)
    | split
    | fail_if_no_progress (with_reducible refine Keeps.upd ?_ rfl rfl rfl rfl rfl rfl)

/-- State.parCmd keeps what every operation keeps. -/
theorem State.parCmd_keeps {a s : State} {x1 x2} (h : Keeps a s) : Keeps a (State.parCmd s x1 x2) := by
  unfold State.parCmd
  repeat' first
    | with_reducible assumption
    | ((fail_if_no_progress extract_lets +onlyGivenNames t); refine (?_ : Keeps a t → _) ?_; (on_goal 2 => unfold t); (on_goal 1 => (clear_value t; intro _)))
    | ((fail_if_no_progress extract_lets +onlyGivenNames t); subst t)
    | dsimp -zeta only
    | with_reducible apply Keeps.ite
    | with_reducible apply State.ignored_keeps
    | split
    | fail_if_no_progress (with_reducible refine Keeps.upd ?_ rfl rfl rfl rfl rfl rfl)

/-! ### Machine/Join.lean -/

/-- State.beginJoin keeps what every operation keeps. -/
theorem State.beginJoin_keeps {a s : State} (h : Keeps a s) : Keeps a (State.beginJoin s) := by
  unfold State.beginJoin
  repeat' first
    | with_reducible assumption
    | ((fail_if_no_progress extract_lets +onlyGivenNames t); refine (?_ : Keeps a t → _) ?_; (on_goal 2 => unfold t); (on_goal 1 => (clear_value t; intro _)))
    | ((fail_if_no_progress extract_lets +onlyGivenNames t); subst t)
    | dsimp -zeta only
    | with_reducible apply State.setF_keeps
    | with_reducible apply State.sendHello_keeps
    | with_reducible apply State.evCfg_keeps

/-- State.refuseJoin keeps what every operation keeps. -/
theorem State.refuseJoin_keeps {a s : State} {x1} (h : Keeps a s) : Keeps a (State.refuseJoin s x1) := by
  unfold State.refuseJoin
  repeat' first
    | with_reducible assumption
    | ((fail_if_no_progress extract_lets +onlyGivenNames t); refine (?_ : Keeps a t → _) ?_; (on_goal 2 => unfold t); (on_goal 1 => (clear_value t; intro _)))
    | ((fail_if_no_progress extract_lets +onlyGivenNames t); subst t)
    | dsimp -zeta only
    | with_reducible apply State.setF_keeps
    | with_reducible apply State.evSec_keeps
    | with_reducible apply State.sendHello_keeps
    | fail_if_no_progress (with_reducible refine Keeps.upd ?_ rfl rfl rfl rfl rfl rfl)

/-- State.partnerSeen keeps what every operation keeps. -/
theorem State.partnerSeen_keeps {a s : State} {x1} (h : Keeps a s) : Keeps a (State.partnerSeen s x1) := by
  unfold State.partnerSeen
  repeat' first
    | with_reducible assumption
    | dsimp -zeta only
    | with_reducible apply Keeps.ite
    | with_reducible apply State.setF_keeps
    | with_reducible apply State.evSec_keeps
    | split

/-- State.partnerKept keeps what every operation keeps. -/
theorem State.partnerKept_keeps {a s : State} (h : Keeps a s) : Keeps a (State.partnerKept s) := by
  unfold State.partnerKept
  repeat' first
    | with_reducible assumption
    | ((fail_if_no_progress extract_lets +onlyGivenNames t); refine (?_ : Keeps a t → _) ?_; (on_goal 2 => unfold t); (on_goal 1 => (clear_value t; intro _)))
    | ((fail_if_no_progress extract_lets +onlyGivenNames t); subst t)
    | dsimp -zeta only
    | with_reducible apply State.modKerb_keeps
    | split

/-- State.settleCfg keeps what every operation keeps. -/
theorem State.settleCfg_keeps {a s : State} (h : Keeps a s) : Keeps a (State.settleCfg s) := by
  unfold State.settleCfg
  repeat' first
    | with_reducible assumption
    | dsimp -zeta only
    | with_reducible apply Keeps.ite
    | with_reducible apply State.refuseJoin_keeps
    | with_reducible apply State.setF_keeps
    | split

/-- State.beginBulk keeps what every operation keeps. -/
theorem State.beginBulk_keeps {a s : State} (h : Keeps a s) : Keeps a (State.beginBulk s) := by
  unfold State.beginBulk
  repeat' first
    | with_reducible assumption
    | ((fail_if_no_progress extract_lets +onlyGivenNames t); refine (?_ : Keeps a t → _) ?_; (on_goal 2 => unfold t); (on_goal 1 => (clear_value t; intro _)))
    | ((fail_if_no_progress extract_lets +onlyGivenNames t); refine (?_ : Keeps2 a t → _) ?_; (on_goal 2 => unfold t); (on_goal 1 => (clear_value t; intro _)))
    | ((fail_if_no_progress extract_lets +onlyGivenNames t); refine (?_ : Keeps1 a t → _) ?_; (on_goal 2 => unfold t); (on_goal 1 => (clear_value t; intro _)))
    | ((fail_if_no_progress extract_lets +onlyGivenNames t); subst t)
    | dsimp -zeta only
    | with_reducible apply Keeps.ite
    | with_reducible apply State.setF_keeps
    | with_reducible apply State.share_keeps
    | with_reducible apply State.sendPacket_keeps
    | with_reducible exact Keeps1.out ‹_›
    | with_reducible apply Keeps1.mk
    | with_reducible apply Keeps1.ite
    | with_reducible refine Keeps1.foldl ?_ (fun _ _ _ => ?_)
    | with_reducible refine Keeps1.out ?_
    | with_reducible exact Keeps2.out ‹_›
    | with_reducible apply Keeps2.mk
    | with_reducible apply Keeps2.ite
    | with_reducible refine Keeps2.foldl ?_ (fun _ _ _ => ?_)
    | with_reducible refine Keeps2.out ?_
    | with_reducible refine Keeps.foldl ?_ (fun _ _ _ => ?_)
    | split
    | fail_if_no_progress (with_reducible refine Keeps.upd ?_ rfl rfl rfl rfl rfl rfl)

/-- State.bulkSend keeps what every operation keeps. -/
theorem State.bulkSend_keeps {a s : State} {x1 x2} (h : Keeps a s) : Keeps a (State.bulkSend s x1 x2) := by
  induction x2 generalizing s x1 with
  | zero => exact h
  | succ n ih =>
    unfold State.bulkSend
    split
    · exact h
    · exact Keeps.ite h (ih (State.sendPacket_keeps (Keeps.upd h rfl rfl rfl rfl rfl rfl)))

/-- State.bulkTick keeps what every operation keeps. -/
theorem State.bulkTick_keeps {a s : State} (h : Keeps a s) : Keeps a (State.bulkTick s) := by
  unfold State.bulkTick
  repeat' first
    | with_reducible assumption
    | dsimp -zeta only
    | with_reducible apply State.bulkSend_keeps

/-- State.backfillSend keeps what every operation keeps. -/
theorem State.backfillSend_keeps {a s : State} {x1 x2} (h : Keeps a s) : Keeps1 a (State.backfillSend s x1 x2) := by
  induction x2 generalizing s x1 with
  | zero => exact h
  | succ n ih =>
    unfold State.backfillSend
    split
    · exact Keeps1.ite (Keeps1.mk h) (ih (State.sendPacket_keeps (Keeps.upd h rfl rfl rfl rfl rfl rfl)))
    · exact Keeps1.ite (Keeps1.mk h) (ih (State.sendPacket_keeps (Keeps.upd h rfl rfl rfl rfl rfl rfl)))
    · exact Keeps1.mk h

/-- State.backfillTick keeps what every operation keeps. -/
theorem State.backfillTick_keeps {a s : State} (h : Keeps a s) : Keeps a (State.backfillTick s) := by
  unfold State.backfillTick
  repeat' first
    | with_reducible assumption
    | ((fail_if_no_progress extract_lets +onlyGivenNames t); refine (?_ : Keeps a t → _) ?_; (on_goal 2 => unfold t); (on_goal 1 => (clear_value t; intro _)))
    | ((fail_if_no_progress extract_lets +onlyGivenNames t); refine (?_ : Keeps1 a t → _) ?_; (on_goal 2 => unfold t); (on_goal 1 => (clear_value t; intro _)))
    | ((fail_if_no_progress extract_lets +onlyGivenNames t); subst t)
    | dsimp -zeta only
    | with_reducible apply Keeps.ite
    | with_reducible apply State.backfillSend_keeps
    | with_reducible refine Keeps1.out (State.backfillSend_keeps ?_)
    | with_reducible exact Keeps1.out ‹_›
    | with_reducible apply Keeps1.mk
    | with_reducible apply Keeps1.ite
    | split
    | fail_if_no_progress (with_reducible refine Keeps.upd ?_ rfl rfl rfl rfl rfl rfl)

/-- State.beginResync keeps what every operation keeps. -/
theorem State.beginResync_keeps {a s : State} {x1 x2} (h : Keeps a s) : Keeps a (State.beginResync s x1 x2) := by
  unfold State.beginResync
  repeat' first
    | with_reducible assumption
    | ((fail_if_no_progress extract_lets +onlyGivenNames t); refine (?_ : Keeps a t → _) ?_; (on_goal 2 => unfold t); (on_goal 1 => (clear_value t; intro _)))
    | ((fail_if_no_progress extract_lets +onlyGivenNames t); subst t)
    | dsimp -zeta only
    | fail_if_no_progress (with_reducible refine Keeps.upd ?_ rfl rfl rfl rfl rfl rfl)

/-- State.resyncTick keeps what every operation keeps. -/
theorem State.resyncTick_keeps {a s : State} (h : Keeps a s) : Keeps a (State.resyncTick s) := by
  unfold State.resyncTick
  repeat' first
    | with_reducible assumption
    | ((fail_if_no_progress extract_lets +onlyGivenNames t); refine (?_ : Keeps a t → _) ?_; (on_goal 2 => unfold t); (on_goal 1 => (clear_value t; intro _)))
    | ((fail_if_no_progress extract_lets +onlyGivenNames t); subst t)
    | dsimp -zeta only
    | with_reducible apply Keeps.ite
    | with_reducible apply State.bulkTick_keeps
    | split
    | fail_if_no_progress (with_reducible refine Keeps.upd ?_ rfl rfl rfl rfl rfl rfl)

/-- State.joinTick keeps what every operation keeps. -/
theorem State.joinTick_keeps {a s : State} {x1} (h : Keeps a s) : Keeps a (State.joinTick s x1) := by
  unfold State.joinTick
  repeat' first
    | with_reducible assumption
    | ((fail_if_no_progress extract_lets +onlyGivenNames t); refine (?_ : Keeps a t → _) ?_; (on_goal 2 => unfold t); (on_goal 1 => (clear_value t; intro _)))
    | ((fail_if_no_progress extract_lets +onlyGivenNames t); subst t)
    | dsimp -zeta only
    | with_reducible apply Keeps.ite
    | with_reducible apply State.beginBulk_keeps
    | with_reducible apply State.bulkTick_keeps
    | with_reducible apply State.setF_keeps
    | split
    | fail_if_no_progress (with_reducible refine Keeps.upd ?_ rfl rfl rfl rfl rfl rfl)

/-- State.pairStart keeps what every operation keeps. -/
theorem State.pairStart_keeps {a s : State} {x1} (h : Keeps a s) : Keeps a (State.pairStart s x1) := by
  unfold State.pairStart
  repeat' first
    | with_reducible assumption
    | ((fail_if_no_progress extract_lets +onlyGivenNames t); refine (?_ : Keeps a t → _) ?_; (on_goal 2 => unfold t); (on_goal 1 => (clear_value t; intro _)))
    | ((fail_if_no_progress extract_lets +onlyGivenNames t); subst t)
    | dsimp -zeta only
    | with_reducible apply Keeps.ite
    | with_reducible apply State.loseRole_keeps
    | with_reducible apply State.setF_keeps
    | with_reducible apply State.takeLead_keeps
    | with_reducible apply State.partnerSeen_keeps
    | with_reducible apply State.firstStart_keeps
    | with_reducible apply State.beginJoin_keeps
    | split

/-- State.enterJoin keeps what every operation keeps. -/
theorem State.enterJoin_keeps {a s : State} {x1} (h : Keeps a s) : Keeps a (State.enterJoin s x1) := by
  unfold State.enterJoin
  repeat' first
    | with_reducible assumption
    | ((fail_if_no_progress extract_lets +onlyGivenNames t); refine (?_ : Keeps a t → _) ?_; (on_goal 2 => unfold t); (on_goal 1 => (clear_value t; intro _)))
    | ((fail_if_no_progress extract_lets +onlyGivenNames t); subst t)
    | dsimp -zeta only
    | with_reducible apply Keeps.ite
    | with_reducible apply State.loseRole_keeps
    | with_reducible apply State.setF_keeps
    | with_reducible apply State.enterPair_keeps
    | with_reducible apply State.partnerSeen_keeps
    | with_reducible apply State.sendHello_keeps
    | split
    | fail_if_no_progress (with_reducible refine Keeps.upd ?_ rfl rfl rfl rfl rfl rfl)

/-- State.retCompare keeps what every operation keeps. -/
theorem State.retCompare_keeps {a s : State} {x1} (h : Keeps a s) : Keeps a (State.retCompare s x1) := by
  unfold State.retCompare
  repeat' first
    | with_reducible assumption
    | dsimp -zeta only
    | with_reducible apply Keeps.ite
    | with_reducible apply State.setF_keeps
    | split

/-- State.followerAsks keeps what every operation keeps. -/
theorem State.followerAsks_keeps {a s : State} {x1} (h : Keeps a s) : Keeps a (State.followerAsks s x1) := by
  unfold State.followerAsks
  repeat' first
    | with_reducible assumption
    | ((fail_if_no_progress extract_lets +onlyGivenNames t); refine (?_ : Keeps a t → _) ?_; (on_goal 2 => unfold t); (on_goal 1 => (clear_value t; intro _)))
    | ((fail_if_no_progress extract_lets +onlyGivenNames t); refine (?_ : Keeps2 a t → _) ?_; (on_goal 2 => unfold t); (on_goal 1 => (clear_value t; intro _)))
    | ((fail_if_no_progress extract_lets +onlyGivenNames t); subst t)
    | dsimp -zeta only
    | with_reducible apply Keeps.ite
    | with_reducible apply State.switchRequest_keeps
    | with_reducible refine Keeps2.out (State.switchRequest_keeps ?_)
    | with_reducible apply State.sendHello_keeps
    | with_reducible apply State.beginResync_keeps
    | with_reducible exact Keeps2.out ‹_›
    | with_reducible apply Keeps2.mk
    | with_reducible apply Keeps2.ite
    | split
    | fail_if_no_progress (with_reducible refine Keeps.upd ?_ rfl rfl rfl rfl rfl rfl)

/-- State.leadAnswers keeps what every operation keeps. -/
theorem State.leadAnswers_keeps {a s : State} {x1} (h : Keeps a s) : Keeps a (State.leadAnswers s x1) := by
  unfold State.leadAnswers
  repeat' first
    | with_reducible assumption
    | ((fail_if_no_progress extract_lets +onlyGivenNames t); refine (?_ : Keeps a t → _) ?_; (on_goal 2 => unfold t); (on_goal 1 => (clear_value t; intro _)))
    | ((fail_if_no_progress extract_lets +onlyGivenNames t); subst t)
    | dsimp -zeta only
    | with_reducible apply Keeps.ite
    | with_reducible apply State.ignored_keeps
    | with_reducible apply State.startResync_keeps
    | split
    | fail_if_no_progress (with_reducible refine Keeps.upd ?_ rfl rfl rfl rfl rfl rfl)

/-- State.moveVoid keeps what every operation keeps. -/
theorem State.moveVoid_keeps {a s : State} {x1} (h : Keeps a s) : Keeps a (State.moveVoid s x1) := by
  unfold State.moveVoid
  repeat' first
    | with_reducible assumption
    | ((fail_if_no_progress extract_lets +onlyGivenNames t); refine (?_ : Keeps a t → _) ?_; (on_goal 2 => unfold t); (on_goal 1 => (clear_value t; intro _)))
    | ((fail_if_no_progress extract_lets +onlyGivenNames t); refine (?_ : Keeps2 a t → _) ?_; (on_goal 2 => unfold t); (on_goal 1 => (clear_value t; intro _)))
    | ((fail_if_no_progress extract_lets +onlyGivenNames t); refine (?_ : Keeps1 a t → _) ?_; (on_goal 2 => unfold t); (on_goal 1 => (clear_value t; intro _)))
    | ((fail_if_no_progress extract_lets +onlyGivenNames t); subst t)
    | dsimp -zeta only
    | with_reducible apply Keeps.ite
    | with_reducible apply State.event_keeps
    | with_reducible apply State.evCfg_keeps
    | with_reducible exact Keeps1.out ‹_›
    | with_reducible apply Keeps1.mk
    | with_reducible apply Keeps1.ite
    | with_reducible refine Keeps1.foldl ?_ (fun _ _ _ => ?_)
    | with_reducible refine Keeps1.out ?_
    | with_reducible exact Keeps2.out ‹_›
    | with_reducible apply Keeps2.mk
    | with_reducible apply Keeps2.ite
    | with_reducible refine Keeps2.foldl ?_ (fun _ _ _ => ?_)
    | with_reducible refine Keeps2.out ?_
    | with_reducible refine Keeps.foldl ?_ (fun _ _ _ => ?_)
    | split
    | fail_if_no_progress (with_reducible refine Keeps.upd ?_ rfl rfl rfl rfl rfl rfl)

/-- State.bulkEnd keeps what every operation keeps. -/
theorem State.bulkEnd_keeps {a s : State} {x1} (h : Keeps a s) : Keeps a (State.bulkEnd s x1) := by
  unfold State.bulkEnd
  repeat' first
    | with_reducible assumption
    | ((fail_if_no_progress extract_lets +onlyGivenNames t); refine (?_ : Keeps a t → _) ?_; (on_goal 2 => unfold t); (on_goal 1 => (clear_value t; intro _)))
    | ((fail_if_no_progress extract_lets +onlyGivenNames t); refine (?_ : Keeps2 a t → _) ?_; (on_goal 2 => unfold t); (on_goal 1 => (clear_value t; intro _)))
    | ((fail_if_no_progress extract_lets +onlyGivenNames t); refine (?_ : Keeps1 a t → _) ?_; (on_goal 2 => unfold t); (on_goal 1 => (clear_value t; intro _)))
    | ((fail_if_no_progress extract_lets +onlyGivenNames t); subst t)
    | dsimp -zeta only
    | with_reducible apply State.flip_keeps
    | with_reducible apply State.setF_keeps
    | with_reducible apply State.enterPair_keeps
    | with_reducible apply State.applyItem_keeps
    | with_reducible apply State.drainPkts_keeps
    | with_reducible exact Keeps1.out ‹_›
    | with_reducible apply Keeps1.mk
    | with_reducible refine Keeps1.foldl ?_ (fun _ _ _ => ?_)
    | with_reducible refine Keeps1.out ?_
    | with_reducible exact Keeps2.out ‹_›
    | with_reducible apply Keeps2.mk
    | with_reducible refine Keeps2.foldl ?_ (fun _ _ _ => ?_)
    | with_reducible refine Keeps2.out ?_
    | with_reducible refine Keeps.foldl ?_ (fun _ _ _ => ?_)
    | fail_if_no_progress (with_reducible refine Keeps.upd ?_ rfl rfl rfl rfl rfl rfl)

/-- State.bulkTake keeps what every operation keeps. -/
theorem State.bulkTake_keeps {a s : State} {x1} (h : Keeps a s) : Keeps a (State.bulkTake s x1) := by
  unfold State.bulkTake
  split
  · extract_lets n s1 s2 s3 s4
    rename_i p active _
    have h1 : Keeps a s1 := State.placePkg_keeps h
    clear_value s1
    refine Keeps.ite ?_ (Keeps.ite (State.setF_keeps h1) (State.setF_keeps (State.setF_keeps (Keeps.upd h1 rfl rfl rfl rfl rfl rfl))))
    refine Keeps.foldl ?_ (fun s x h => State.crossTask_keeps h)
    exact State.modKerb_keeps (State.loadRegs_keeps (State.set64_keeps (State.setF_keeps h1)))
  · exact State.byEngines_keeps h (fun s h => Keeps.updMem h rfl rfl rfl (Nat.le_refl _) (Memory.wf_memLay _ _) rfl)
  · exact Keeps.upd h rfl rfl rfl rfl rfl rfl
  · exact State.showForces_keeps (Keeps.upd h rfl rfl rfl rfl rfl rfl)
  · exact Keeps.upd h rfl rfl rfl rfl rfl rfl
  · exact Keeps.updRegs h rfl (fun k => tabRising_foldl _ _ _ _ k) rfl rfl rfl rfl
  · exact State.setF_keeps h
  · exact State.moveVoid_keeps h
  · exact State.setF_keeps (State.setF_keeps h)
  · exact Keeps.ite (State.bulkEnd_keeps h) (Keeps.upd h rfl rfl rfl rfl rfl rfl)

/-- State.clearCfg keeps what every operation keeps. -/
theorem State.clearCfg_keeps {a s : State} (h : Keeps a s) : Keeps a (State.clearCfg s) := by
  unfold State.clearCfg
  extract_lets sq olc s1 s2 s3 s4
  have h1 : Keeps a s1 := Keeps.updCode h rfl rfl rfl rfl rfl (fun _ => Memory.wf_nil)
  clear_value s1
  have h2 : Keeps a s2 := State.setF_keeps (State.set64_keeps h1)
  clear_value s2
  have h3 : Keeps a s3 := Keeps.foldl h2 (fun s x h => State.setF_keeps h)
  clear_value s3
  exact State.evSec_keeps (State.evCfg_keeps (State.loadRegs_keeps (State.modKerb_keeps h3)))

/-- State.parDo keeps what every operation keeps. -/
theorem State.parDo_keeps {a s : State} {x1} (h : Keeps a s) : Keeps a (State.parDo s x1) := by
  unfold State.parDo
  repeat' first
    | with_reducible assumption
    | ((fail_if_no_progress extract_lets +onlyGivenNames t); refine (?_ : Keeps a t → _) ?_; (on_goal 2 => unfold t); (on_goal 1 => (clear_value t; intro _)))
    | ((fail_if_no_progress extract_lets +onlyGivenNames t); refine (?_ : Keeps2 a t → _) ?_; (on_goal 2 => unfold t); (on_goal 1 => (clear_value t; intro _)))
    | ((fail_if_no_progress extract_lets +onlyGivenNames t); subst t)
    | dsimp -zeta only
    | with_reducible apply Keeps.ite
    | with_reducible apply State.ignored_keeps
    | with_reducible apply State.switchRequest_keeps
    | with_reducible refine Keeps2.out (State.switchRequest_keeps ?_)
    | with_reducible apply State.sendHello_keeps
    | with_reducible apply State.loseRole_keeps
    | with_reducible apply State.beginJoin_keeps
    | with_reducible apply State.startResync_keeps
    | with_reducible apply State.beginResync_keeps
    | with_reducible apply State.clearCfg_keeps
    | with_reducible exact Keeps2.out ‹_›
    | with_reducible apply Keeps2.mk
    | with_reducible apply Keeps2.ite
    | split
    | with_reducible refine Keeps.of2 ‹_› ?_
    | fail_if_no_progress (with_reducible refine Keeps.upd ?_ rfl rfl rfl rfl rfl rfl)

/-- State.parTick keeps what every operation keeps. -/
theorem State.parTick_keeps {a s : State} (h : Keeps a s) : Keeps a (State.parTick s) := by
  unfold State.parTick
  repeat' first
    | with_reducible assumption
    | ((fail_if_no_progress extract_lets +onlyGivenNames t); refine (?_ : Keeps a t → _) ?_; (on_goal 2 => unfold t); (on_goal 1 => (clear_value t; intro _)))
    | ((fail_if_no_progress extract_lets +onlyGivenNames t); refine (?_ : Keeps2 a t → _) ?_; (on_goal 2 => unfold t); (on_goal 1 => (clear_value t; intro _)))
    | ((fail_if_no_progress extract_lets +onlyGivenNames t); refine (?_ : Keeps1 a t → _) ?_; (on_goal 2 => unfold t); (on_goal 1 => (clear_value t; intro _)))
    | ((fail_if_no_progress extract_lets +onlyGivenNames t); subst t)
    | dsimp -zeta only
    | with_reducible apply State.parDo_keeps
    | with_reducible exact Keeps1.out ‹_›
    | with_reducible apply Keeps1.mk
    | with_reducible refine Keeps1.foldl ?_ (fun _ _ _ => ?_)
    | with_reducible refine Keeps1.out ?_
    | with_reducible exact Keeps2.out ‹_›
    | with_reducible apply Keeps2.mk
    | with_reducible refine Keeps2.foldl ?_ (fun _ _ _ => ?_)
    | with_reducible refine Keeps2.out ?_
    | with_reducible refine Keeps.foldl ?_ (fun _ _ _ => ?_)
    | fail_if_no_progress (with_reducible refine Keeps.upd ?_ rfl rfl rfl rfl rfl rfl)

/-! ### Machine/Consistent.lean -/

/-- State.commitBatch keeps what every operation keeps. -/
theorem State.commitBatch_keeps {a s : State} {x1} (h : Keeps a s) : Keeps a (State.commitBatch s x1) := by
  unfold State.commitBatch
  repeat' first
    | with_reducible assumption
    | ((fail_if_no_progress extract_lets +onlyGivenNames t); refine (?_ : Keeps a t → _) ?_; (on_goal 2 => unfold t); (on_goal 1 => (clear_value t; intro _)))
    | ((fail_if_no_progress extract_lets +onlyGivenNames t); subst t)
    | dsimp -zeta only
    | with_reducible apply Keeps.ite
    | with_reducible apply State.completeB_keeps
    | with_reducible apply State.commitCore_keeps
    | split
    | fail_if_no_progress (with_reducible refine Keeps.upd ?_ rfl rfl rfl rfl rfl rfl)

/-- State.redrive keeps what every operation keeps. -/
theorem State.redrive_keeps {a s : State} {x1} (h : Keeps a s) : Keeps a (State.redrive s x1) := by
  unfold State.redrive
  repeat' first
    | with_reducible assumption
    | dsimp -zeta only
    | with_reducible apply Keeps.ite
    | with_reducible apply State.driveOne_keeps
    | split

/-- State.commitForces keeps what every operation keeps. -/
theorem State.commitForces_keeps {a s : State} {x1} (h : Keeps a s) : Keeps a (State.commitForces s x1) := by
  unfold State.commitForces
  repeat' first
    | with_reducible assumption
    | ((fail_if_no_progress extract_lets +onlyGivenNames t); refine (?_ : Keeps a t → _) ?_; (on_goal 2 => unfold t); (on_goal 1 => (clear_value t; intro _)))
    | ((fail_if_no_progress extract_lets +onlyGivenNames t); refine (?_ : Keeps2 a t → _) ?_; (on_goal 2 => unfold t); (on_goal 1 => (clear_value t; intro _)))
    | ((fail_if_no_progress extract_lets +onlyGivenNames t); refine (?_ : Keeps1 a t → _) ?_; (on_goal 2 => unfold t); (on_goal 1 => (clear_value t; intro _)))
    | ((fail_if_no_progress extract_lets +onlyGivenNames t); subst t)
    | dsimp -zeta only
    | with_reducible apply State.share_keeps
    | with_reducible apply State.commitCore_keeps
    | with_reducible apply State.showForces_keeps
    | with_reducible apply State.redrive_keeps
    | with_reducible exact Keeps1.out ‹_›
    | with_reducible apply Keeps1.mk
    | with_reducible refine Keeps1.foldl ?_ (fun _ _ _ => ?_)
    | with_reducible refine Keeps1.out ?_
    | with_reducible exact Keeps2.out ‹_›
    | with_reducible apply Keeps2.mk
    | with_reducible refine Keeps2.foldl ?_ (fun _ _ _ => ?_)
    | with_reducible refine Keeps2.out ?_
    | with_reducible refine Keeps.foldl ?_ (fun _ _ _ => ?_)
    | split
    | fail_if_no_progress (with_reducible refine Keeps.upd ?_ rfl rfl rfl rfl rfl rfl)

/-- State.forcesDue keeps what every operation keeps. -/
theorem State.forcesDue_keeps {a s : State} (h : Keeps a s) : Keeps a (State.forcesDue s) := by
  unfold State.forcesDue
  repeat' first
    | with_reducible assumption
    | dsimp -zeta only
    | with_reducible apply Keeps.ite
    | with_reducible apply State.commitForces_keeps
    | with_reducible exact Keeps1.out ‹_›
    | with_reducible apply Keeps1.mk
    | with_reducible apply Keeps1.ite
    | with_reducible refine Keeps1.foldl ?_ (fun _ _ _ => ?_)
    | with_reducible refine Keeps1.out ?_
    | with_reducible exact Keeps2.out ‹_›
    | with_reducible apply Keeps2.mk
    | with_reducible apply Keeps2.ite
    | with_reducible refine Keeps2.foldl ?_ (fun _ _ _ => ?_)
    | with_reducible refine Keeps2.out ?_
    | with_reducible refine Keeps.foldl ?_ (fun _ _ _ => ?_)
    | split

/-- State.modCut keeps what every operation keeps. -/
theorem State.modCut_keeps {a s : State} {x1 x2} (h : Keeps a s) : Keeps a (State.modCut s x1 x2) := by
  unfold State.modCut
  repeat' first
    | with_reducible assumption
    | ((fail_if_no_progress extract_lets +onlyGivenNames t); refine (?_ : Keeps a t → _) ?_; (on_goal 2 => unfold t); (on_goal 1 => (clear_value t; intro _)))
    | ((fail_if_no_progress extract_lets +onlyGivenNames t); subst t)
    | dsimp -zeta only
    | with_reducible apply Keeps.ite
    | split
    | fail_if_no_progress (with_reducible refine Keeps.upd ?_ rfl rfl rfl rfl rfl rfl)

/-- State.grant keeps what every operation keeps. -/
theorem State.grant_keeps {a s : State} {x1 x2 x3 x4 x5} (h : Keeps a s) : Keeps2 a (State.grant s x1 x2 x3 x4 x5) := by
  induction x3 generalizing s x4 x5 with
  | nil => unfold State.grant; exact Keeps2.mk h
  | cons g gs ih =>
    unfold State.grant
    exact Keeps2.ite (Keeps2.mk h) (ih (State.modLock_keeps h))

/-- State.lockOn keeps what every operation keeps. -/
theorem State.lockOn_keeps {a s : State} {x1 x2 x3} (h : Keeps a s) : Keeps a (State.lockOn s x1 x2 x3) := by
  unfold State.lockOn
  repeat' first
    | with_reducible assumption
    | ((fail_if_no_progress extract_lets +onlyGivenNames t); refine (?_ : Keeps a t → _) ?_; (on_goal 2 => unfold t); (on_goal 1 => (clear_value t; intro _)))
    | ((fail_if_no_progress extract_lets +onlyGivenNames t); refine (?_ : Keeps2 a t → _) ?_; (on_goal 2 => unfold t); (on_goal 1 => (clear_value t; intro _)))
    | ((fail_if_no_progress extract_lets +onlyGivenNames t); subst t)
    | dsimp -zeta only
    | with_reducible apply Keeps.ite
    | with_reducible apply State.grant_keeps
    | with_reducible refine Keeps2.out (State.grant_keeps ?_)
    | with_reducible apply State.complete_keeps
    | with_reducible apply State.modQp_keeps
    | with_reducible exact Keeps2.out ‹_›
    | with_reducible apply Keeps2.mk
    | with_reducible apply Keeps2.ite
    | split
    | with_reducible refine Keeps.of2 ‹_› ?_

/-- State.openRecords keeps what every operation keeps. -/
theorem State.openRecords_keeps {a s : State} (h : Keeps a s) : Keeps a (State.openRecords s) := by
  unfold State.openRecords
  repeat' first
    | with_reducible assumption
    | ((fail_if_no_progress extract_lets +onlyGivenNames t); refine (?_ : Keeps a t → _) ?_; (on_goal 2 => unfold t); (on_goal 1 => (clear_value t; intro _)))
    | ((fail_if_no_progress extract_lets +onlyGivenNames t); refine (?_ : Keeps2 a t → _) ?_; (on_goal 2 => unfold t); (on_goal 1 => (clear_value t; intro _)))
    | ((fail_if_no_progress extract_lets +onlyGivenNames t); refine (?_ : Keeps1 a t → _) ?_; (on_goal 2 => unfold t); (on_goal 1 => (clear_value t; intro _)))
    | ((fail_if_no_progress extract_lets +onlyGivenNames t); subst t)
    | dsimp -zeta only
    | with_reducible apply State.putWin_keeps
    | with_reducible apply State.event_keeps
    | with_reducible exact Keeps1.out ‹_›
    | with_reducible apply Keeps1.mk
    | with_reducible refine Keeps1.foldl ?_ (fun _ _ _ => ?_)
    | with_reducible refine Keeps1.out ?_
    | with_reducible exact Keeps2.out ‹_›
    | with_reducible apply Keeps2.mk
    | with_reducible refine Keeps2.foldl ?_ (fun _ _ _ => ?_)
    | with_reducible refine Keeps2.out ?_
    | with_reducible refine Keeps.foldl ?_ (fun _ _ _ => ?_)

/-! ### Machine/Host.lean -/

/-- State.sendRep keeps what every operation keeps. -/
theorem State.sendRep_keeps {a s : State} {x1} (h : Keeps a s) : Keeps a (State.sendRep s x1) := by
  unfold State.sendRep
  repeat' first
    | with_reducible assumption
    | ((fail_if_no_progress extract_lets +onlyGivenNames t); refine (?_ : Keeps a t → _) ?_; (on_goal 2 => unfold t); (on_goal 1 => (clear_value t; intro _)))
    | ((fail_if_no_progress extract_lets +onlyGivenNames t); refine (?_ : Keeps2 a t → _) ?_; (on_goal 2 => unfold t); (on_goal 1 => (clear_value t; intro _)))
    | ((fail_if_no_progress extract_lets +onlyGivenNames t); subst t)
    | dsimp -zeta only
    | with_reducible apply State.free_keeps
    | with_reducible refine Keeps2.out (State.free_keeps ?_)
    | with_reducible apply State.emit_keeps
    | with_reducible exact Keeps2.out ‹_›
    | with_reducible apply Keeps2.mk

/-- State.sendRej keeps what every operation keeps. -/
theorem State.sendRej_keeps {a s : State} {x1} (h : Keeps a s) : Keeps a (State.sendRej s x1) := by
  unfold State.sendRej
  repeat' first
    | with_reducible assumption
    | dsimp -zeta only
    | with_reducible apply State.emit_keeps
    | with_reducible apply State.bump_keeps

/-- State.drain keeps what every operation keeps. -/
theorem State.drain_keeps {a s : State} {x1 x2 x3} (h : Keeps a s) : Keeps a (State.drain s x1 x2 x3) := by
  induction x3 generalizing s with
  | zero => exact h
  | succ n ih =>
    unfold State.drain
    split
    · split
      · exact Keeps.ite (ih (State.complete_keeps (State.modQp_keeps h))) h
      · exact h
    · exact h

/-- State.startDesc keeps what every operation keeps, if what it starts does. -/
theorem State.startDesc_keeps {a s : State} {x1 x2 x3} {f : Sess → HostDesc → State → State} (hf : ∀ x d s, Keeps a s → Keeps a (f x d s))
    (h : Keeps a s) : Keeps a (State.startDesc s x1 x2 x3 f) := by
  unfold State.startDesc
  extract_lets n q
  split
  · split
    · refine Keeps.ite ?_ h
      extract_lets s1 s2
      have h1 : Keeps a s1 := State.modQp_keeps h
      clear_value s1
      refine State.drain_keeps ?_
      show Keeps a s2
      unfold s2
      generalize s1.screen _ _ _ = o
      cases o with
      | none => exact hf _ _ _ h1
      | some r => exact State.complete_keeps h1
    · exact h
  · exact h

/-- State.subFailed keeps what every operation keeps. -/
theorem State.subFailed_keeps {a s : State} {x1 x2} (h : Keeps a s) : Keeps a (State.subFailed s x1 x2) := by
  unfold State.subFailed
  repeat' first
    | with_reducible assumption
    | ((fail_if_no_progress extract_lets +onlyGivenNames t); refine (?_ : Keeps a t → _) ?_; (on_goal 2 => unfold t); (on_goal 1 => (clear_value t; intro _)))
    | ((fail_if_no_progress extract_lets +onlyGivenNames t); subst t)
    | dsimp -zeta only
    | with_reducible apply State.modQp_keeps
    | with_reducible apply State.modSess_keeps
    | split

/-- State.readStart keeps what every operation keeps. -/
theorem State.readStart_keeps {a s : State} {x1 x2 x3 x4} (h : Keeps a s) : Keeps a (State.readStart s x1 x2 x3 x4) := by
  unfold State.readStart
  repeat' first
    | with_reducible assumption
    | ((fail_if_no_progress extract_lets +onlyGivenNames t); refine (?_ : Keeps a t → _) ?_; (on_goal 2 => unfold t); (on_goal 1 => (clear_value t; intro _)))
    | ((fail_if_no_progress extract_lets +onlyGivenNames t); subst t)
    | dsimp -zeta only
    | with_reducible apply Keeps.ite
    | with_reducible apply State.serveRead_keeps
    | with_reducible apply State.modQp_keeps
    | split

/-- State.ungrant keeps what every operation keeps. -/
theorem State.ungrant_keeps {a s : State} {x1} (h : Keeps a s) : Keeps a (State.ungrant s x1) := by
  unfold State.ungrant
  repeat' first
    | with_reducible assumption
    | dsimp -zeta only
    | with_reducible apply State.freeLock_keeps
    | with_reducible exact Keeps1.out ‹_›
    | with_reducible apply Keeps1.mk
    | with_reducible refine Keeps1.foldl ?_ (fun _ _ _ => ?_)
    | with_reducible refine Keeps1.out ?_
    | with_reducible exact Keeps2.out ‹_›
    | with_reducible apply Keeps2.mk
    | with_reducible refine Keeps2.foldl ?_ (fun _ _ _ => ?_)
    | with_reducible refine Keeps2.out ?_
    | with_reducible refine Keeps.foldl ?_ (fun _ _ _ => ?_)
    | split

/-- State.endWait keeps what every operation keeps. -/
theorem State.endWait_keeps {a s : State} {x1 x2 x3 x4} (h : Keeps a s) : Keeps a (State.endWait s x1 x2 x3 x4) := by
  unfold State.endWait
  repeat' first
    | with_reducible assumption
    | ((fail_if_no_progress extract_lets +onlyGivenNames t); refine (?_ : Keeps a t → _) ?_; (on_goal 2 => unfold t); (on_goal 1 => (clear_value t; intro _)))
    | ((fail_if_no_progress extract_lets +onlyGivenNames t); subst t)
    | dsimp -zeta only
    | with_reducible apply State.complete_keeps
    | with_reducible apply State.ungrant_keeps
    | with_reducible apply State.modQp_keeps

/-- State.dedup keeps what every operation keeps, if what it starts does. -/
theorem State.dedup_keeps {a s : State} {x1 x2 x3 x4} {go : State → State} (hg : ∀ s, Keeps a s → Keeps a (go s)) (h : Keeps a s) :
    Keeps a (State.dedup s x1 x2 x3 x4 go) := by
  unfold State.dedup
  extract_lets mine host wait
  have hw : Keeps a wait := Keeps.upd h rfl rfl rfl rfl rfl rfl
  clear_value wait
  refine Keeps.ite hw ?_
  split
  · exact Keeps.ite (State.complete_keeps h) hw
  · exact hg s h

/-- State.admitBatch keeps what every operation keeps. -/
theorem State.admitBatch_keeps {a s : State} {x1 x2 x3 x4 x5 x6 x7} (h : Keeps a s) : Keeps a (State.admitBatch s x1 x2 x3 x4 x5 x6 x7) := by
  unfold State.admitBatch
  repeat' first
    | with_reducible assumption
    | ((fail_if_no_progress extract_lets +onlyGivenNames t); refine (?_ : Keeps a t → _) ?_; (on_goal 2 => unfold t); (on_goal 1 => (clear_value t; intro _)))
    | ((fail_if_no_progress extract_lets +onlyGivenNames t); subst t)
    | dsimp -zeta only
    | fail_if_no_progress (with_reducible refine Keeps.upd ?_ rfl rfl rfl rfl rfl rfl)

/-- State.writeEntry keeps what every operation keeps. -/
theorem State.writeEntry_keeps {a s : State} {x1 x2 x3} (h : Keeps a s) : Keeps2 a (State.writeEntry s x1 x2 x3) := by
  unfold State.writeEntry
  repeat' first
    | with_reducible assumption
    | ((fail_if_no_progress extract_lets +onlyGivenNames t); refine (?_ : Keeps a t → _) ?_; (on_goal 2 => unfold t); (on_goal 1 => (clear_value t; intro _)))
    | ((fail_if_no_progress extract_lets +onlyGivenNames t); refine (?_ : Keeps2 a t → _) ?_; (on_goal 2 => unfold t); (on_goal 1 => (clear_value t; intro _)))
    | ((fail_if_no_progress extract_lets +onlyGivenNames t); subst t)
    | dsimp -zeta only
    | with_reducible apply Keeps.ite
    | with_reducible apply State.hostEntry_keeps
    | with_reducible refine Keeps2.out (State.hostEntry_keeps ?_)
    | with_reducible apply State.latchRefusal_keeps
    | with_reducible exact Keeps2.out ‹_›
    | with_reducible apply Keeps2.mk
    | with_reducible apply Keeps2.ite
    | split
    | with_reducible refine Keeps.of2 ‹_› ?_

/-- State.writeEntries keeps what every operation keeps. -/
theorem State.writeEntries_keeps {a s : State} {x1 x2 x3} (h : Keeps a s) : Keeps2 a (State.writeEntries s x1 x2 x3) := by
  induction x3 generalizing s x2 with
  | nil => unfold State.writeEntries; exact Keeps2.mk h
  | cons e es ih =>
    unfold State.writeEntries
    have h1 : Keeps2 a (s.writeEntry x1 x2 e) := State.writeEntry_keeps h
    generalize s.writeEntry x1 x2 e = p at h1
    rcases p with ⟨x | w, s1⟩
    · exact Keeps2.mk (Keeps2.out h1)
    · have h2 : Keeps2 a (State.writeEntries s1 x1 (x2 + 1) es) := ih (Keeps2.out h1)
      dsimp only
      generalize State.writeEntries s1 x1 (x2 + 1) es = q at h2
      rcases q with ⟨x | ws, s2⟩ <;> exact Keeps2.mk (Keeps2.out h2)

/-- State.stage keeps what every operation keeps. -/
theorem State.stage_keeps {a s : State} {x1 x2} (h : Keeps a s) : Keeps a (State.stage s x1 x2) := by
  unfold State.stage
  repeat' first
    | with_reducible assumption
    | ((fail_if_no_progress extract_lets +onlyGivenNames t); refine (?_ : Keeps a t → _) ?_; (on_goal 2 => unfold t); (on_goal 1 => (clear_value t; intro _)))
    | ((fail_if_no_progress extract_lets +onlyGivenNames t); refine (?_ : Keeps2 a t → _) ?_; (on_goal 2 => unfold t); (on_goal 1 => (clear_value t; intro _)))
    | ((fail_if_no_progress extract_lets +onlyGivenNames t); refine (?_ : Keeps1 a t → _) ?_; (on_goal 2 => unfold t); (on_goal 1 => (clear_value t; intro _)))
    | ((fail_if_no_progress extract_lets +onlyGivenNames t); subst t)
    | dsimp -zeta only
    | with_reducible apply State.modLock_keeps
    | with_reducible exact Keeps1.out ‹_›
    | with_reducible apply Keeps1.mk
    | with_reducible refine Keeps1.foldl ?_ (fun _ _ _ => ?_)
    | with_reducible refine Keeps1.out ?_
    | with_reducible exact Keeps2.out ‹_›
    | with_reducible apply Keeps2.mk
    | with_reducible refine Keeps2.foldl ?_ (fun _ _ _ => ?_)
    | with_reducible refine Keeps2.out ?_
    | with_reducible refine Keeps.foldl ?_ (fun _ _ _ => ?_)
    | split

/-- State.forceEntries keeps what every operation keeps. -/
theorem State.forceEntries_keeps {a s : State} {x1 x2} (h : Keeps a s) : Keeps2 a (State.forceEntries s x1 x2) := by
  induction x2 generalizing s x1 with
  | nil => unfold State.forceEntries; exact Keeps2.mk h
  | cons e es ih =>
    unfold State.forceEntries
    extract_lets tag op ty v
    refine Keeps2.ite (Keeps2.mk h) ?_
    have h1 : Keeps2 a ((if tag / 2 ^ 24 ≠ 0 then (.error 1, s) else s.hostEntry tag : Except Nat (Nat × Nat) × State)) :=
      Keeps2.ite (Keeps2.mk h) (State.hostEntry_keeps h)
    generalize (if tag / 2 ^ 24 ≠ 0 then (.error 1, s) else s.hostEntry tag : Except Nat (Nat × Nat) × State) = p at h1
    rcases p with ⟨x | ⟨w0, w1⟩, s1⟩
    · exact Keeps2.mk (Keeps2.out h1)
    · replace h1 : Keeps a s1 := h1
      dsimp only
      refine Keeps2.ite (Keeps2.mk h1) (Keeps2.ite (Keeps2.mk h1) (Keeps2.ite (Keeps2.mk h1) ?_))
      have h2 : Keeps2 a (State.forceEntries s1 (x1 + 1) es) := ih h1
      generalize State.forceEntries s1 (x1 + 1) es = q at h2
      rcases q with ⟨x | ws, s2⟩ <;> exact Keeps2.mk (Keeps2.out h2)

/-- State.logRead keeps what every operation keeps. -/
theorem State.logRead_keeps {a s : State} {x1 x2 x3 x4 x5 x6} (h : Keeps a s) : Keeps a (State.logRead s x1 x2 x3 x4 x5 x6) := by
  unfold State.logRead
  repeat' first
    | with_reducible assumption
    | ((fail_if_no_progress extract_lets +onlyGivenNames t); refine (?_ : Keeps a t → _) ?_; (on_goal 2 => unfold t); (on_goal 1 => (clear_value t; intro _)))
    | ((fail_if_no_progress extract_lets +onlyGivenNames t); subst t)
    | dsimp -zeta only
    | with_reducible apply Keeps.ite
    | with_reducible apply State.complete_keeps
    | split

/-- State.releaseOf keeps what every operation keeps. -/
theorem State.releaseOf_keeps {a s : State} {x1 x2} (h : Keeps a s) : Keeps a (State.releaseOf s x1 x2) := by
  unfold State.releaseOf
  repeat' first
    | with_reducible assumption
    | dsimp -zeta only
    | with_reducible apply Keeps.ite
    | with_reducible apply State.freeLock_keeps
    | with_reducible exact Keeps1.out ‹_›
    | with_reducible apply Keeps1.mk
    | with_reducible apply Keeps1.ite
    | with_reducible refine Keeps1.foldl ?_ (fun _ _ _ => ?_)
    | with_reducible refine Keeps1.out ?_
    | with_reducible exact Keeps2.out ‹_›
    | with_reducible apply Keeps2.mk
    | with_reducible apply Keeps2.ite
    | with_reducible refine Keeps2.foldl ?_ (fun _ _ _ => ?_)
    | with_reducible refine Keeps2.out ?_
    | with_reducible refine Keeps.foldl ?_ (fun _ _ _ => ?_)
    | split

/-! ### Machine/Security.lean -/

/-- State.cmdSecPortcfg keeps what every operation keeps. -/
theorem State.cmdSecPortcfg_keeps {a s : State} {x1 x2} (h : Keeps a s) : Keeps a (State.cmdSecPortcfg s x1 x2) := by
  unfold State.cmdSecPortcfg
  repeat' first
    | with_reducible assumption
    | ((fail_if_no_progress extract_lets +onlyGivenNames t); refine (?_ : Keeps a t → _) ?_; (on_goal 2 => unfold t); (on_goal 1 => (clear_value t; intro _)))
    | ((fail_if_no_progress extract_lets +onlyGivenNames t); subst t)
    | dsimp -zeta only
    | with_reducible apply Keeps.ite
    | with_reducible apply State.ignored_keeps
    | with_reducible apply State.setLater_keeps
    | split

/-- State.safeSwitch keeps what every operation keeps. -/
theorem State.safeSwitch_keeps {a s : State} {x1} (h : Keeps a s) : Keeps a (State.safeSwitch s x1) := by
  unfold State.safeSwitch
  repeat' first
    | with_reducible assumption
    | ((fail_if_no_progress extract_lets +onlyGivenNames t); refine (?_ : Keeps a t → _) ?_; (on_goal 2 => unfold t); (on_goal 1 => (clear_value t; intro _)))
    | ((fail_if_no_progress extract_lets +onlyGivenNames t); subst t)
    | dsimp -zeta only
    | with_reducible apply Keeps.ite
    | with_reducible apply State.setB_keeps
    | with_reducible apply State.evSafe_keeps
    | with_reducible apply State.emit_keeps
    | with_reducible apply State.bump_keeps
    | split
    | fail_if_no_progress (with_reducible refine Keeps.upd ?_ rfl rfl rfl rfl rfl rfl)

/-- State.updSwitch keeps what every operation keeps. -/
theorem State.updSwitch_keeps {a s : State} {x1} (h : Keeps a s) : Keeps a (State.updSwitch s x1) := by
  unfold State.updSwitch
  repeat' first
    | with_reducible assumption
    | ((fail_if_no_progress extract_lets +onlyGivenNames t); refine (?_ : Keeps a t → _) ?_; (on_goal 2 => unfold t); (on_goal 1 => (clear_value t; intro _)))
    | ((fail_if_no_progress extract_lets +onlyGivenNames t); subst t)
    | dsimp -zeta only
    | with_reducible apply Keeps.ite
    | with_reducible apply State.setB_keeps
    | with_reducible apply State.evHw_keeps
    | with_reducible apply State.bump_keeps
    | split
    | fail_if_no_progress (with_reducible refine Keeps.upd ?_ rfl rfl rfl rfl rfl rfl)

/-! ### Machine/Boot.lean -/

/-- State.display keeps what every operation keeps. -/
theorem State.display_keeps {a s : State} {x1} (h : Keeps a s) : Keeps a (State.display s x1) := by
  unfold State.display
  repeat' first
    | with_reducible assumption
    | dsimp -zeta only
    | with_reducible apply State.emit_keeps

/-- State.bootFuses keeps what every operation keeps. -/
theorem State.bootFuses_keeps {a s : State} (h : Keeps a s) : Keeps a (State.bootFuses s) := by
  unfold State.bootFuses
  repeat' first
    | with_reducible assumption
    | ((fail_if_no_progress extract_lets +onlyGivenNames t); refine (?_ : Keeps a t → _) ?_; (on_goal 2 => unfold t); (on_goal 1 => (clear_value t; intro _)))
    | ((fail_if_no_progress extract_lets +onlyGivenNames t); refine (?_ : Keeps2 a t → _) ?_; (on_goal 2 => unfold t); (on_goal 1 => (clear_value t; intro _)))
    | ((fail_if_no_progress extract_lets +onlyGivenNames t); refine (?_ : Keeps1 a t → _) ?_; (on_goal 2 => unfold t); (on_goal 1 => (clear_value t; intro _)))
    | ((fail_if_no_progress extract_lets +onlyGivenNames t); subst t)
    | dsimp -zeta only
    | with_reducible apply Keeps.ite
    | with_reducible apply State.modKerb_keeps
    | with_reducible apply State.setB_keeps
    | with_reducible apply State.setF_keeps
    | with_reducible apply State.display_keeps
    | with_reducible exact Keeps1.out ‹_›
    | with_reducible apply Keeps1.mk
    | with_reducible apply Keeps1.ite
    | with_reducible refine Keeps1.foldl ?_ (fun _ _ _ => ?_)
    | with_reducible refine Keeps1.out ?_
    | with_reducible exact Keeps2.out ‹_›
    | with_reducible apply Keeps2.mk
    | with_reducible apply Keeps2.ite
    | with_reducible refine Keeps2.foldl ?_ (fun _ _ _ => ?_)
    | with_reducible refine Keeps2.out ?_
    | with_reducible refine Keeps.foldl ?_ (fun _ _ _ => ?_)
    | split

/-- State.showSlots keeps what every operation keeps. -/
theorem State.showSlots_keeps {a s : State} (h : Keeps a s) : Keeps a (State.showSlots s) := by
  unfold State.showSlots
  repeat' first
    | with_reducible assumption
    | ((fail_if_no_progress extract_lets +onlyGivenNames t); refine (?_ : Keeps a t → _) ?_; (on_goal 2 => unfold t); (on_goal 1 => (clear_value t; intro _)))
    | ((fail_if_no_progress extract_lets +onlyGivenNames t); subst t)
    | dsimp -zeta only
    | with_reducible apply State.setF_keeps

/-- State.modSlot keeps what every operation keeps. -/
theorem State.modSlot_keeps {a s : State} {x1 x2} (h : Keeps a s) : Keeps a (State.modSlot s x1 x2) := by
  unfold State.modSlot
  repeat' first
    | with_reducible assumption
    | ((fail_if_no_progress extract_lets +onlyGivenNames t); refine (?_ : Keeps a t → _) ?_; (on_goal 2 => unfold t); (on_goal 1 => (clear_value t; intro _)))
    | ((fail_if_no_progress extract_lets +onlyGivenNames t); subst t)
    | dsimp -zeta only
    | with_reducible apply State.showSlots_keeps
    | with_reducible apply State.modKerb_keeps

/-- State.slotTo keeps what every operation keeps. -/
theorem State.slotTo_keeps {a s : State} {x1 x2} (h : Keeps a s) : Keeps a (State.slotTo s x1 x2) := by
  unfold State.slotTo
  repeat' first
    | with_reducible assumption
    | ((fail_if_no_progress extract_lets +onlyGivenNames t); refine (?_ : Keeps a t → _) ?_; (on_goal 2 => unfold t); (on_goal 1 => (clear_value t; intro _)))
    | ((fail_if_no_progress extract_lets +onlyGivenNames t); subst t)
    | dsimp -zeta only
    | with_reducible apply State.modSlot_keeps

/-- State.enterRecovery keeps what every operation keeps. -/
theorem State.enterRecovery_keeps {a s : State} (h : Keeps a s) : Keeps a (State.enterRecovery s) := by
  unfold State.enterRecovery
  repeat' first
    | with_reducible assumption
    | ((fail_if_no_progress extract_lets +onlyGivenNames t); refine (?_ : Keeps a t → _) ?_; (on_goal 2 => unfold t); (on_goal 1 => (clear_value t; intro _)))
    | ((fail_if_no_progress extract_lets +onlyGivenNames t); subst t)
    | dsimp -zeta only
    | with_reducible apply State.display_keeps
    | with_reducible apply State.modKerb_keeps
    | with_reducible apply State.setF_keeps

/-- State.bootPick keeps what every operation keeps. -/
theorem State.bootPick_keeps {a s : State} {x1} (h : Keeps a s) : Keeps2 a (State.bootPick s x1) := by
  induction x1 generalizing s with
  | nil => exact Keeps2.mk h
  | cons n ns ih =>
    unfold State.bootPick
    exact Keeps2.ite (Keeps2.mk h) (ih (State.evSec_keeps (State.slotTo_keeps h)))

/-- State.completeBlow keeps what every operation keeps. -/
theorem State.completeBlow_keeps {a s : State} (h : Keeps a s) : Keeps a (State.completeBlow s) := by
  unfold State.completeBlow
  repeat' first
    | with_reducible assumption
    | ((fail_if_no_progress extract_lets +onlyGivenNames t); refine (?_ : Keeps a t → _) ?_; (on_goal 2 => unfold t); (on_goal 1 => (clear_value t; intro _)))
    | ((fail_if_no_progress extract_lets +onlyGivenNames t); subst t)
    | dsimp -zeta only
    | with_reducible apply Keeps.ite
    | with_reducible apply State.modKerb_keeps
    | split

/-- State.bootSelect keeps what every operation keeps. -/
theorem State.bootSelect_keeps {a s : State} (h : Keeps a s) : Keeps a (State.bootSelect s) := by
  unfold State.bootSelect
  repeat' first
    | with_reducible assumption
    | ((fail_if_no_progress extract_lets +onlyGivenNames t); refine (?_ : Keeps a t → _) ?_; (on_goal 2 => unfold t); (on_goal 1 => (clear_value t; intro _)))
    | ((fail_if_no_progress extract_lets +onlyGivenNames t); refine (?_ : Keeps2 a t → _) ?_; (on_goal 2 => unfold t); (on_goal 1 => (clear_value t; intro _)))
    | ((fail_if_no_progress extract_lets +onlyGivenNames t); subst t)
    | dsimp -zeta only
    | with_reducible apply Keeps.ite
    | with_reducible apply State.slotTo_keeps
    | with_reducible apply State.completeBlow_keeps
    | with_reducible apply State.enterRecovery_keeps
    | with_reducible apply State.bootPick_keeps
    | with_reducible refine Keeps2.out (State.bootPick_keeps ?_)
    | with_reducible apply State.setB_keeps
    | with_reducible apply State.setF_keeps
    | with_reducible apply State.showSlots_keeps
    | with_reducible apply State.addMeas_keeps
    | with_reducible exact Keeps2.out ‹_›
    | with_reducible apply Keeps2.mk
    | with_reducible apply Keeps2.ite
    | split
    | with_reducible refine Keeps.of2 ‹_› ?_

/-- State.bootSecond keeps what every operation keeps. -/
theorem State.bootSecond_keeps {a s : State} (h : Keeps a s) : Keeps a (State.bootSecond s) := by
  unfold State.bootSecond
  repeat' first
    | with_reducible assumption
    | ((fail_if_no_progress extract_lets +onlyGivenNames t); refine (?_ : Keeps a t → _) ?_; (on_goal 2 => unfold t); (on_goal 1 => (clear_value t; intro _)))
    | ((fail_if_no_progress extract_lets +onlyGivenNames t); refine (?_ : Keeps2 a t → _) ?_; (on_goal 2 => unfold t); (on_goal 1 => (clear_value t; intro _)))
    | ((fail_if_no_progress extract_lets +onlyGivenNames t); subst t)
    | dsimp -zeta only
    | with_reducible apply Keeps.ite
    | with_reducible apply State.bootPick_keeps
    | with_reducible refine Keeps2.out (State.bootPick_keeps ?_)
    | with_reducible apply State.enterRecovery_keeps
    | with_reducible apply State.setF_keeps
    | with_reducible apply State.showSlots_keeps
    | with_reducible apply State.addMeas_keeps
    | with_reducible exact Keeps2.out ‹_›
    | with_reducible apply Keeps2.mk
    | with_reducible apply Keeps2.ite
    | split
    | with_reducible refine Keeps.of2 ‹_› ?_

/-- State.finishSet keeps what every operation keeps. -/
theorem State.finishSet_keeps {a s : State} {x1} (h : Keeps a s) : Keeps a (State.finishSet s x1) := by
  unfold State.finishSet
  repeat' first
    | with_reducible assumption
    | ((fail_if_no_progress extract_lets +onlyGivenNames t); refine (?_ : Keeps a t → _) ?_; (on_goal 2 => unfold t); (on_goal 1 => (clear_value t; intro _)))
    | ((fail_if_no_progress extract_lets +onlyGivenNames t); refine (?_ : Keeps2 a t → _) ?_; (on_goal 2 => unfold t); (on_goal 1 => (clear_value t; intro _)))
    | ((fail_if_no_progress extract_lets +onlyGivenNames t); subst t)
    | dsimp -zeta only
    | with_reducible apply Keeps.ite
    | with_reducible apply State.free_keeps
    | with_reducible refine Keeps2.out (State.free_keeps ?_)
    | with_reducible apply State.putLastWords_keeps
    | with_reducible exact Keeps2.out ‹_›
    | with_reducible apply Keeps2.mk
    | with_reducible apply Keeps2.ite
    | split
    | with_reducible refine Keeps.of2 ‹_› ?_

set_option maxRecDepth 4000 in
/-- The register file at reset is in its canonical form. -/
theorem State.reset_regs_rising : tabRising State.reset.regs = true := by decide

/-- The registers that hold over a restart are the register file in its canonical form. -/
theorem State.keptRegs_rising (s : State) : tabRising s.keptRegs = true := by
  unfold State.keptRegs
  have h0 : tabRising State.reset.regs = true := State.reset_regs_rising
  generalize State.reset = r at h0
  generalize keptFields = l
  exact (Keeps.foldl (Keeps.refl r) (fun _ _ h => State.setF_keeps h)).regs h0

/-- State.restart keeps what every operation keeps. -/
theorem State.restart_keeps {a s : State} {x1 x2} (h : Keeps a s) : Keeps a (State.restart s x1 x2) := by
  unfold State.restart
  extract_lets u src sq pair n n2 n3
  replace h : Keeps a u := State.finishSet_keeps h
  clear_value u
  have h1 : Keeps a n := by
    refine ⟨h.pending, fun _ => State.keptRegs_rising u, fun _ => Memory.wf_nil, fun _ => Memory.wf_nil, h.out, h.fresh, h.tick⟩
  clear_value n
  exact State.showSlots_keeps (State.setCredit_keeps (State.setF_keeps (State.bump_keeps (State.setF_keeps (State.setF_keeps h1)))))

/-- State.bootFail keeps what every operation keeps. -/
theorem State.bootFail_keeps {a s : State} (h : Keeps a s) : Keeps a (State.bootFail s) := by
  unfold State.bootFail
  repeat' first
    | with_reducible assumption
    | ((fail_if_no_progress extract_lets +onlyGivenNames t); refine (?_ : Keeps a t → _) ?_; (on_goal 2 => unfold t); (on_goal 1 => (clear_value t; intro _)))
    | ((fail_if_no_progress extract_lets +onlyGivenNames t); subst t)
    | dsimp -zeta only
    | with_reducible apply State.enterK_keeps
    | with_reducible apply State.putLastWords_keeps

/-- State.bootEpoch keeps what every operation keeps. -/
theorem State.bootEpoch_keeps {a s : State} (h : Keeps a s) : Keeps a (State.bootEpoch s) := by
  unfold State.bootEpoch
  repeat' first
    | with_reducible assumption
    | ((fail_if_no_progress extract_lets +onlyGivenNames t); refine (?_ : Keeps a t → _) ?_; (on_goal 2 => unfold t); (on_goal 1 => (clear_value t; intro _)))
    | ((fail_if_no_progress extract_lets +onlyGivenNames t); refine (?_ : Keeps2 a t → _) ?_; (on_goal 2 => unfold t); (on_goal 1 => (clear_value t; intro _)))
    | ((fail_if_no_progress extract_lets +onlyGivenNames t); subst t)
    | dsimp -zeta only
    | with_reducible apply State.setEpoch_keeps
    | with_reducible apply State.free_keeps
    | with_reducible refine Keeps2.out (State.free_keeps ?_)
    | with_reducible exact Keeps2.out ‹_›
    | with_reducible apply Keeps2.mk
    | split
    | with_reducible refine Keeps.of2 ‹_› ?_

/-- State.bootMram keeps what every operation keeps. -/
theorem State.bootMram_keeps {a s : State} (h : Keeps a s) : Keeps a (State.bootMram s) := by
  unfold State.bootMram
  repeat' first
    | with_reducible assumption
    | ((fail_if_no_progress extract_lets +onlyGivenNames t); refine (?_ : Keeps a t → _) ?_; (on_goal 2 => unfold t); (on_goal 1 => (clear_value t; intro _)))
    | ((fail_if_no_progress extract_lets +onlyGivenNames t); refine (?_ : Keeps2 a t → _) ?_; (on_goal 2 => unfold t); (on_goal 1 => (clear_value t; intro _)))
    | ((fail_if_no_progress extract_lets +onlyGivenNames t); refine (?_ : Keeps1 a t → _) ?_; (on_goal 2 => unfold t); (on_goal 1 => (clear_value t; intro _)))
    | ((fail_if_no_progress extract_lets +onlyGivenNames t); subst t)
    | dsimp -zeta only
    | with_reducible apply Keeps.ite
    | with_reducible apply State.display_keeps
    | with_reducible apply State.bootFail_keeps
    | with_reducible apply State.setF_keeps
    | with_reducible apply State.bootEpoch_keeps
    | with_reducible apply State.evHw_keeps
    | with_reducible apply State.laneCounts_keeps
    | with_reducible exact Keeps1.out ‹_›
    | with_reducible apply Keeps1.mk
    | with_reducible apply Keeps1.ite
    | with_reducible refine Keeps1.foldl ?_ (fun _ _ _ => ?_)
    | with_reducible refine Keeps1.out ?_
    | with_reducible exact Keeps2.out ‹_›
    | with_reducible apply Keeps2.mk
    | with_reducible apply Keeps2.ite
    | with_reducible refine Keeps2.foldl ?_ (fun _ _ _ => ?_)
    | with_reducible refine Keeps2.out ?_
    | with_reducible refine Keeps.foldl ?_ (fun _ _ _ => ?_)
    | split

/-- State.bootLanes keeps what every operation keeps. -/
theorem State.bootLanes_keeps {a s : State} (h : Keeps a s) : Keeps a (State.bootLanes s) := by
  unfold State.bootLanes
  repeat' first
    | with_reducible assumption
    | ((fail_if_no_progress extract_lets +onlyGivenNames t); refine (?_ : Keeps a t → _) ?_; (on_goal 2 => unfold t); (on_goal 1 => (clear_value t; intro _)))
    | ((fail_if_no_progress extract_lets +onlyGivenNames t); refine (?_ : Keeps2 a t → _) ?_; (on_goal 2 => unfold t); (on_goal 1 => (clear_value t; intro _)))
    | ((fail_if_no_progress extract_lets +onlyGivenNames t); refine (?_ : Keeps1 a t → _) ?_; (on_goal 2 => unfold t); (on_goal 1 => (clear_value t; intro _)))
    | ((fail_if_no_progress extract_lets +onlyGivenNames t); subst t)
    | dsimp -zeta only
    | with_reducible apply Keeps.ite
    | with_reducible apply State.retireLane_keeps
    | with_reducible apply State.modLane_keeps
    | with_reducible apply State.lanesTick_keeps
    | with_reducible exact Keeps1.out ‹_›
    | with_reducible apply Keeps1.mk
    | with_reducible apply Keeps1.ite
    | with_reducible refine Keeps1.foldl ?_ (fun _ _ _ => ?_)
    | with_reducible refine Keeps1.out ?_
    | with_reducible exact Keeps2.out ‹_›
    | with_reducible apply Keeps2.mk
    | with_reducible apply Keeps2.ite
    | with_reducible refine Keeps2.foldl ?_ (fun _ _ _ => ?_)
    | with_reducible refine Keeps2.out ?_
    | with_reducible refine Keeps.foldl ?_ (fun _ _ _ => ?_)
    | split

/-- State.bootConfig keeps what every operation keeps. -/
theorem State.bootConfig_keeps {a s : State} (h : Keeps a s) : Keeps a (State.bootConfig s) := by
  unfold State.bootConfig
  extract_lets n
  generalize tabGet? s.pkgs n = o
  cases o with
  | none => exact h
  | some p =>
    dsimp -zeta only
    extract_lets s1 s2 s3 s4 s5 sq io s6 fmt s7
    have h1 : Keeps a s1 := State.set64_keeps (State.placePkg_keeps h)
    clear_value s1
    have h4 : Keeps a s4 := State.set64_keeps (State.set64_keeps (State.loadRegs_keeps h1))
    clear_value s4
    have h5 : Keeps a s5 := by
      show Keeps a (match tabGet? s4.pkgs (1 - n) with
        | some q => (s4.placePkg (1 - n) q).setF SCH_OLCSTAT_FALLBACK 1
        | none => s4)
      generalize tabGet? s4.pkgs (1 - n) = q
      cases q with
      | none => exact h4
      | some q => exact State.setF_keeps (State.placePkg_keeps h4)
    clear_value s5
    have h6 : Keeps a s6 := Keeps.updMem h5 rfl rfl rfl (Nat.le_refl _) (fun _ => Memory.wf_memLay _ _ Memory.wf_nil) rfl
    clear_value s6
    have h7 : Keeps a s7 := State.setB_keeps (State.setF_keeps h6)
    clear_value s7
    exact Keeps.foldl (State.measL3_keeps h7) (fun s d h => State.setF_keeps h)

/-- State.setClock keeps what every operation keeps, and puts the tick. -/
theorem State.setClock_keeps {a s : State} {x1} (h : Keeps a s) : Keeps { a with tick := x1 / 62500 } (State.setClock s x1) := by
  unfold State.setClock
  exact Keeps.upd (h.setTick (x1 / 62500)) rfl rfl rfl rfl rfl rfl

/-- State.bootClock keeps what every operation keeps, but for the tick. -/
theorem State.bootClock_keeps {a s : State} (h : Keeps a s) : KeepsB a (State.bootClock s) := by
  unfold State.bootClock
  dsimp only
  split
  · exact ⟨_, State.setClock_keeps h⟩
  · split
    · exact ⟨_, State.setClock_keeps (State.setF_keeps h)⟩
    · split
      · exact ⟨_, State.evHw_keeps (State.setClock_keeps (State.setF_keeps h))⟩
      · exact ⟨_, State.evHw_keeps (State.setClock_keeps (Keeps2.out (State.free_keeps (State.setF_keeps h))))⟩

/-- State.bootDone keeps what every operation keeps. -/
theorem State.bootDone_keeps {a s : State} (h : Keeps a s) : Keeps a (State.bootDone s) := by
  unfold State.bootDone
  repeat' first
    | with_reducible assumption
    | ((fail_if_no_progress extract_lets +onlyGivenNames t); refine (?_ : Keeps a t → _) ?_; (on_goal 2 => unfold t); (on_goal 1 => (clear_value t; intro _)))
    | ((fail_if_no_progress extract_lets +onlyGivenNames t); subst t)
    | dsimp -zeta only
    | with_reducible apply Keeps.ite
    | with_reducible apply State.modKerb_keeps
    | with_reducible apply State.enterPair_keeps
    | with_reducible apply State.kerbDrive_keeps
    | with_reducible apply State.setF_keeps
    | split
    | fail_if_no_progress (with_reducible refine Keeps.upd ?_ rfl rfl rfl rfl rfl rfl)

/-- State.bootDo keeps what every operation keeps, but for the tick. -/
theorem State.bootDo_keeps {a s : State} {x1} (h : Keeps a s) : KeepsB a (State.bootDo s x1) := by
  unfold State.bootDo
  split
  case h_11 => exact State.bootClock_keeps h
  all_goals
    refine KeepsB.of ?_
    repeat' first
      | with_reducible assumption
      | with_reducible apply Keeps.ite
      | with_reducible apply State.bootFuses_keeps
      | with_reducible apply State.bootSelect_keeps
      | with_reducible apply State.bootMram_keeps
      | with_reducible apply State.setF_keeps
      | with_reducible apply State.enterCapped_keeps
      | with_reducible apply State.bootSecond_keeps
      | with_reducible apply State.bootLanes_keeps
      | with_reducible apply State.bootConfig_keeps
      | with_reducible refine Keeps.upd ?_ rfl rfl rfl rfl rfl rfl

/-- State.bootTick keeps what every operation keeps, but for the tick. -/
theorem State.bootTick_keeps {a s : State} (h : Keeps a s) : KeepsB a (State.bootTick s) := by
  unfold State.bootTick
  dsimp only
  have k := State.bootDo_keeps (x1 := s.getF BOT_STAT_STEP) h
  generalize s.bootDo (s.getF BOT_STAT_STEP) = u at *
  refine k.step fun x k => ?_
  repeat' first
    | with_reducible assumption
    | with_reducible apply Keeps.ite
    | with_reducible apply State.setF_keeps
    | with_reducible apply State.bootDone_keeps

/-! ### Machine/Update.lean -/

/-! ### Machine/Update.lean -/

/-- State.updIgnored keeps what every operation keeps. -/
theorem State.updIgnored_keeps {a s : State} {x1 x2} (h : Keeps a s) : Keeps a (State.updIgnored s x1 x2) := by
  unfold State.updIgnored
  repeat' first
    | with_reducible assumption
    | dsimp -zeta only
    | with_reducible apply State.setF_keeps
    | with_reducible apply State.ignored_keeps

/-- State.cmdUpdOpen keeps what every operation keeps. -/
theorem State.cmdUpdOpen_keeps {a s : State} {x1} (h : Keeps a s) : Keeps a (State.cmdUpdOpen s x1) := by
  unfold State.cmdUpdOpen
  repeat' first
    | with_reducible assumption
    | ((fail_if_no_progress extract_lets +onlyGivenNames t); refine (?_ : Keeps a t → _) ?_; (on_goal 2 => unfold t); (on_goal 1 => (clear_value t; intro _)))
    | ((fail_if_no_progress extract_lets +onlyGivenNames t); subst t)
    | dsimp -zeta only
    | with_reducible apply Keeps.ite
    | with_reducible apply State.updIgnored_keeps
    | with_reducible apply State.modSlot_keeps
    | with_reducible apply State.setF_keeps
    | split

/-- State.cmdUpdChunk keeps what every operation keeps. -/
theorem State.cmdUpdChunk_keeps {a s : State} {x1} (h : Keeps a s) : Keeps a (State.cmdUpdChunk s x1) := by
  unfold State.cmdUpdChunk
  repeat' first
    | with_reducible assumption
    | ((fail_if_no_progress extract_lets +onlyGivenNames t); refine (?_ : Keeps a t → _) ?_; (on_goal 2 => unfold t); (on_goal 1 => (clear_value t; intro _)))
    | ((fail_if_no_progress extract_lets +onlyGivenNames t); subst t)
    | dsimp -zeta only
    | with_reducible apply Keeps.ite
    | with_reducible apply State.updIgnored_keeps
    | with_reducible apply State.setF_keeps
    | with_reducible apply State.modSlot_keeps
    | with_reducible apply State.bump_keeps
    | split

/-- State.cmdUpdClose keeps what every operation keeps. -/
theorem State.cmdUpdClose_keeps {a s : State} {x1 x2} (h : Keeps a s) : Keeps a (State.cmdUpdClose s x1 x2) := by
  unfold State.cmdUpdClose
  repeat' first
    | with_reducible assumption
    | ((fail_if_no_progress extract_lets +onlyGivenNames t); refine (?_ : Keeps a t → _) ?_; (on_goal 2 => unfold t); (on_goal 1 => (clear_value t; intro _)))
    | ((fail_if_no_progress extract_lets +onlyGivenNames t); subst t)
    | dsimp -zeta only
    | with_reducible apply Keeps.ite
    | with_reducible apply State.updIgnored_keeps
    | with_reducible apply State.modSlot_keeps
    | with_reducible apply State.setF_keeps
    | split

/-- State.cmdUpdArm keeps what every operation keeps. -/
theorem State.cmdUpdArm_keeps {a s : State} {x1} (h : Keeps a s) : Keeps a (State.cmdUpdArm s x1) := by
  unfold State.cmdUpdArm
  repeat' first
    | with_reducible assumption
    | dsimp -zeta only
    | with_reducible apply Keeps.ite
    | with_reducible apply State.updIgnored_keeps
    | with_reducible apply State.setF_keeps
    | with_reducible apply State.slotTo_keeps
    | split

/-- State.cmdUpdDisarm keeps what every operation keeps. -/
theorem State.cmdUpdDisarm_keeps {a s : State} {x1} (h : Keeps a s) : Keeps a (State.cmdUpdDisarm s x1) := by
  unfold State.cmdUpdDisarm
  repeat' first
    | with_reducible assumption
    | dsimp -zeta only
    | with_reducible apply Keeps.ite
    | with_reducible apply State.updIgnored_keeps
    | with_reducible apply State.setF_keeps
    | with_reducible apply State.slotTo_keeps
    | split

/-- State.cmdBotRestart keeps what every operation keeps. -/
theorem State.cmdBotRestart_keeps {a s : State} {x1 x2} (h : Keeps a s) : Keeps a (State.cmdBotRestart s x1 x2) := by
  unfold State.cmdBotRestart
  repeat' first
    | with_reducible assumption
    | dsimp -zeta only
    | with_reducible apply Keeps.ite
    | with_reducible apply State.restart_keeps
    | with_reducible apply State.ignored_keeps
    | split

/-- State.cmdBotAttest keeps what every operation keeps. -/
theorem State.cmdBotAttest_keeps {a s : State} {x1} (h : Keeps a s) : Keeps a (State.cmdBotAttest s x1) := by
  unfold State.cmdBotAttest
  repeat' first
    | with_reducible assumption
    | ((fail_if_no_progress extract_lets +onlyGivenNames t); refine (?_ : Keeps a t → _) ?_; (on_goal 2 => unfold t); (on_goal 1 => (clear_value t; intro _)))
    | ((fail_if_no_progress extract_lets +onlyGivenNames t); subst t)
    | dsimp -zeta only
    | with_reducible apply Keeps.ite
    | with_reducible apply State.ignored_keeps
    | with_reducible apply State.modKerb_keeps
    | split

/-- State.rejectSlot keeps what every operation keeps. -/
theorem State.rejectSlot_keeps {a s : State} (h : Keeps a s) : Keeps a (State.rejectSlot s) := by
  unfold State.rejectSlot
  repeat' first
    | with_reducible assumption
    | ((fail_if_no_progress extract_lets +onlyGivenNames t); refine (?_ : Keeps a t → _) ?_; (on_goal 2 => unfold t); (on_goal 1 => (clear_value t; intro _)))
    | ((fail_if_no_progress extract_lets +onlyGivenNames t); subst t)
    | dsimp -zeta only
    | with_reducible apply State.modKerb_keeps
    | with_reducible apply State.slotTo_keeps
    | with_reducible apply State.setF_keeps

/-- State.giveUp keeps what every operation keeps. -/
theorem State.giveUp_keeps {a s : State} {x1} (h : Keeps a s) : Keeps a (State.giveUp s x1) := by
  unfold State.giveUp
  repeat' first
    | with_reducible assumption
    | ((fail_if_no_progress extract_lets +onlyGivenNames t); refine (?_ : Keeps a t → _) ?_; (on_goal 2 => unfold t); (on_goal 1 => (clear_value t; intro _)))
    | ((fail_if_no_progress extract_lets +onlyGivenNames t); refine (?_ : Keeps2 a t → _) ?_; (on_goal 2 => unfold t); (on_goal 1 => (clear_value t; intro _)))
    | ((fail_if_no_progress extract_lets +onlyGivenNames t); subst t)
    | dsimp -zeta only
    | with_reducible apply Keeps.ite
    | with_reducible apply State.modKerb_keeps
    | with_reducible apply State.switchRequest_keeps
    | with_reducible refine Keeps2.out (State.switchRequest_keeps ?_)
    | with_reducible apply State.rejectSlot_keeps
    | with_reducible apply State.restart_keeps
    | with_reducible apply State.loseRole_keeps
    | with_reducible exact Keeps2.out ‹_›
    | with_reducible apply Keeps2.mk
    | with_reducible apply Keeps2.ite
    | split

/-- State.rejectTick keeps what every operation keeps. -/
theorem State.rejectTick_keeps {a s : State} (h : Keeps a s) : Keeps a (State.rejectTick s) := by
  unfold State.rejectTick
  repeat' first
    | with_reducible assumption
    | ((fail_if_no_progress extract_lets +onlyGivenNames t); refine (?_ : Keeps a t → _) ?_; (on_goal 2 => unfold t); (on_goal 1 => (clear_value t; intro _)))
    | ((fail_if_no_progress extract_lets +onlyGivenNames t); subst t)
    | dsimp -zeta only
    | with_reducible apply Keeps.ite
    | with_reducible apply State.rejectSlot_keeps
    | with_reducible apply State.modKerb_keeps
    | with_reducible apply State.loseRole_keeps
    | split

/-- State.cmdBotConfirm keeps what every operation keeps. -/
theorem State.cmdBotConfirm_keeps {a s : State} {x1} (h : Keeps a s) : Keeps a (State.cmdBotConfirm s x1) := by
  unfold State.cmdBotConfirm
  repeat' first
    | with_reducible assumption
    | ((fail_if_no_progress extract_lets +onlyGivenNames t); refine (?_ : Keeps a t → _) ?_; (on_goal 2 => unfold t); (on_goal 1 => (clear_value t; intro _)))
    | ((fail_if_no_progress extract_lets +onlyGivenNames t); subst t)
    | dsimp -zeta only
    | with_reducible apply Keeps.ite
    | with_reducible apply State.ignored_keeps
    | with_reducible apply State.modKerb_keeps
    | split

/-- State.cmdBotReject keeps what every operation keeps. -/
theorem State.cmdBotReject_keeps {a s : State} {x1 x2} (h : Keeps a s) : Keeps a (State.cmdBotReject s x1 x2) := by
  unfold State.cmdBotReject
  repeat' first
    | with_reducible assumption
    | dsimp -zeta only
    | with_reducible apply Keeps.ite
    | with_reducible apply State.ignored_keeps
    | with_reducible apply State.giveUp_keeps
    | split

/-! ### Machine/Setup.lean -/

/-- State.readWord keeps what every operation keeps. -/
theorem State.readWord_keeps {a s : State} {x1 x2} (h : Keeps a s) : Keeps2 a (State.readWord s x1 x2) := by
  unfold State.readWord
  with_reducible refine Keeps2.ite (Keeps2.mk h) (Keeps2.ite (Keeps2.mk h) (Keeps2.ite (Keeps2.mk h) ?_))
  generalize tabGet? s.setup.latch (x1.code * 2 ^ 24 + x2) = o
  cases o with
  | some v => exact Keeps2.mk h
  | none =>
    dsimp -zeta only
    extract_lets v s1 s2
    have h1 : Keeps a s1 := Keeps.foldl h (fun s o h => Keeps.upd h rfl rfl rfl rfl rfl rfl)
    clear_value s1
    exact Keeps2.mk (Keeps.ite (Keeps.foldl h1 (fun s f h => State.setF_keeps h)) h1)

/-- State.readWords keeps what every operation keeps. -/
theorem State.readWords_keeps {a s : State} {x1 x2 x3} (h : Keeps a s) : Keeps2 a (State.readWords s x1 x2 x3) := by
  induction x3 generalizing s x2 with
  | zero => exact Keeps2.mk h
  | succ n ih =>
    unfold State.readWords
    exact Keeps2.mk (Keeps2.out (ih (Keeps2.out (State.readWord_keeps h))))

/-- State.putTick keeps what every operation keeps. -/
theorem State.putTick_keeps {a s : State} {x1 x2 x3} (h : Keeps a s) : Keeps a (State.putTick s x1 x2 x3) := by
  unfold State.putTick
  repeat' first
    | with_reducible assumption
    | dsimp -zeta only
    | with_reducible apply State.setShared_keeps

/-- State.putStart keeps what every operation keeps. -/
theorem State.putStart_keeps {a s : State} {x1 x2 x3} (h : Keeps a s) : Keeps a (State.putStart s x1 x2 x3) := by
  unfold State.putStart
  repeat' first
    | with_reducible assumption
    | dsimp -zeta only
    | with_reducible apply State.share_keeps
    | with_reducible apply State.setLater_keeps

/-- State.putRelease keeps what every operation keeps. -/
theorem State.putRelease_keeps {a s : State} {x1 x2 x3} (h : Keeps a s) : Keeps a (State.putRelease s x1 x2 x3) := by
  unfold State.putRelease
  repeat' first
    | with_reducible assumption
    | dsimp -zeta only
    | with_reducible apply State.setShared_keeps

/-- State.putField keeps what every operation keeps. -/
theorem State.putField_keeps {a s : State} {x1 x2 x3} (h : Keeps a s) : Keeps a (State.putField s x1 x2 x3) := by
  unfold State.putField
  repeat' first
    | with_reducible assumption
    | ((fail_if_no_progress extract_lets +onlyGivenNames t); refine (?_ : Keeps a t → _) ?_; (on_goal 2 => unfold t); (on_goal 1 => (clear_value t; intro _)))
    | ((fail_if_no_progress extract_lets +onlyGivenNames t); subst t)
    | dsimp -zeta only
    | with_reducible apply State.setF_keeps
    | with_reducible apply State.setLater_keeps
    | split

/-- State.putFields keeps what every operation keeps. -/
theorem State.putFields_keeps {a s : State} {x1 x2 x3 x4} (h : Keeps a s) : Keeps a (State.putFields s x1 x2 x3 x4) := by
  unfold State.putFields
  repeat' first
    | with_reducible assumption
    | dsimp -zeta only
    | with_reducible apply State.putField_keeps
    | with_reducible exact Keeps1.out ‹_›
    | with_reducible apply Keeps1.mk
    | with_reducible refine Keeps1.foldl ?_ (fun _ _ _ => ?_)
    | with_reducible refine Keeps1.out ?_
    | with_reducible exact Keeps2.out ‹_›
    | with_reducible apply Keeps2.mk
    | with_reducible refine Keeps2.foldl ?_ (fun _ _ _ => ?_)
    | with_reducible refine Keeps2.out ?_
    | with_reducible refine Keeps.foldl ?_ (fun _ _ _ => ?_)

/-- State.clearBits keeps what every operation keeps. -/
theorem State.clearBits_keeps {a s : State} {x1 x2 x3} (h : Keeps a s) : Keeps a (State.clearBits s x1 x2 x3) := by
  unfold State.clearBits
  repeat' first
    | with_reducible assumption
    | dsimp -zeta only
    | with_reducible apply State.setF_keeps
    | with_reducible exact Keeps1.out ‹_›
    | with_reducible apply Keeps1.mk
    | with_reducible refine Keeps1.foldl ?_ (fun _ _ _ => ?_)
    | with_reducible refine Keeps1.out ?_
    | with_reducible exact Keeps2.out ‹_›
    | with_reducible apply Keeps2.mk
    | with_reducible refine Keeps2.foldl ?_ (fun _ _ _ => ?_)
    | with_reducible refine Keeps2.out ?_
    | with_reducible refine Keeps.foldl ?_ (fun _ _ _ => ?_)

/-- Attempts that each keep what every operation keeps. -/
def AKeeps (a : State) (l : List (State → State)) : Prop := ∀ f ∈ l, ∀ s, Keeps a s → Keeps a (f s)

/-- The same of the attempts of a register, where it has rules of its own. -/
def OKeeps (a : State) (o : Option (List (State → State))) : Prop := ∀ l, o = some l → AKeeps a l

/-- No attempt. -/
theorem AKeeps.nil {a : State} : AKeeps a [] := by intro f hf; cases hf
/-- One attempt more. -/
theorem AKeeps.cons {a : State} {f : State → State} {l : List (State → State)} (hf : ∀ s, Keeps a s → Keeps a (f s)) (hl : AKeeps a l) :
    AKeeps a (f :: l) := by
  intro g hg
  rcases List.mem_cons.mp hg with rfl | hg
  · exact hf
  · exact hl g hg
/-- Attempts after others. -/
theorem AKeeps.append {a : State} {l m : List (State → State)} (hl : AKeeps a l) (hm : AKeeps a m) : AKeeps a (also l m) := by
  intro g hg
  rcases List.mem_append.mp hg with hg | hg
  · exact hl g hg
  · exact hm g hg
/-- Either branch. -/
theorem AKeeps.ite {a : State} {l m : List (State → State)} {c : Prop} [Decidable c] (hl : AKeeps a l) (hm : AKeeps a m) :
    AKeeps a (if c then l else m) := by
  split <;> assumption
/-- A register with rules of its own. -/
theorem OKeeps.some {a : State} {l : List (State → State)} (h : AKeeps a l) : OKeeps a (own l) := by
  intro m hm
  cases hm
  exact h
/-- A register with none. -/
theorem OKeeps.none {a : State} : OKeeps a .none := by intro l hl; cases hl
/-- Either branch. -/
theorem OKeeps.ite {a : State} {l m : Option (List (State → State))} {c : Prop} [Decidable c] (hl : OKeeps a l) (hm : OKeeps a m) :
    OKeeps a (if c then l else m) := by
  split <;> assumption
/-- A refusal. -/
theorem refuse_keeps {a : State} {x1 x2 x3} : AKeeps a (refuse x1 x2 x3) :=
  AKeeps.cons (fun _ h => State.ignored_keeps h) AKeeps.nil

/-- The gate of the task registers. -/
theorem State.taskGate_keeps {a s : State} {x1 x2} {l : Nat → List (State → State)} (hl : ∀ t, AKeeps a (l t)) :
    AKeeps a (State.taskGate s x1 x2 l) := by
  unfold State.taskGate
  exact AKeeps.ite refuse_keeps (AKeeps.ite refuse_keeps (hl _))

/-- SCH_TASKCFG. -/
theorem attTaskcfg_keeps {a : State} {x1 x2 x3} : AKeeps a (attTaskcfg x1 x2 x3) := by
  unfold attTaskcfg
  repeat' first
    | with_reducible assumption
    | with_reducible exact AKeeps.nil
    | with_reducible refine AKeeps.cons (fun s h => ?_) ?_
    | with_reducible refine AKeeps.append ?_ ?_
    | with_reducible refine refuse_keeps
    | with_reducible refine State.taskGate_keeps (fun _ => ?_)
    | with_reducible exact attTaskcfg_keeps
    | with_reducible exact attTaskphase_keeps
    | with_reducible exact attTaskstat_keeps
    | with_reducible exact attDisp_keeps
    | with_reducible exact State.acuBound_keeps
    | with_reducible refine OKeeps.some ?_
    | with_reducible exact OKeeps.none
    | with_reducible apply Keeps.ite
    | with_reducible apply AKeeps.ite
    | with_reducible apply OKeeps.ite
    | with_reducible refine Keeps.foldl ?_ (fun _ _ _ => ?_)
    | with_reducible apply State.acuPut_keeps
    | with_reducible apply State.bump_keeps
    | with_reducible apply State.cfgIgnored_keeps
    | with_reducible apply State.clearBits_keeps
    | with_reducible apply State.cmdAcuBarrier_keeps
    | with_reducible apply State.cmdAcuRattrWrite_keeps
    | with_reducible apply State.cmdAdcUrgentGo_keeps
    | with_reducible apply State.cmdArcClrcyc_keeps
    | with_reducible apply State.cmdArcClrevt_keeps
    | with_reducible apply State.cmdArcErase_keeps
    | with_reducible apply State.cmdArcNext_keeps
    | with_reducible apply State.cmdBotAttest_keeps
    | with_reducible apply State.cmdBotConfirm_keeps
    | with_reducible apply State.cmdBotReject_keeps
    | with_reducible apply State.cmdBotRestart_keeps
    | with_reducible apply State.cmdCanFlush_keeps
    | with_reducible apply State.cmdCanRecover_keeps
    | with_reducible apply State.cmdCfgChunk_keeps
    | with_reducible apply State.cmdCfgClose_keeps
    | with_reducible apply State.cmdCfgLoad_keeps
    | with_reducible apply State.cmdCfgOpen_keeps
    | with_reducible apply State.cmdImvHalt_keeps
    | with_reducible apply State.cmdImvStart_keeps
    | with_reducible apply State.cmdKerbstop_keeps
    | with_reducible apply State.cmdOlcAbandon_keeps
    | with_reducible apply State.cmdOlcArm_keeps
    | with_reducible apply State.cmdPnePortcfgWrite_keeps
    | with_reducible apply State.cmdPulseArm_keeps
    | with_reducible apply State.cmdPulseStop_keeps
    | with_reducible apply State.cmdRbfailClear_keeps
    | with_reducible apply State.cmdSecPortcfg_keeps
    | with_reducible apply State.cmdSfyValackWrite_keeps
    | with_reducible apply State.cmdTagWrite_keeps
    | with_reducible apply State.cmdTimSwitch_keeps
    | with_reducible apply State.cmdTtcGo_keeps
    | with_reducible apply State.cmdUpdArm_keeps
    | with_reducible apply State.cmdUpdChunk_keeps
    | with_reducible apply State.cmdUpdClose_keeps
    | with_reducible apply State.cmdUpdDisarm_keeps
    | with_reducible apply State.cmdUpdOpen_keeps
    | with_reducible apply State.cmdXngRetire_keeps
    | with_reducible apply State.cmdXngTest_keeps
    | with_reducible apply State.cursorStart_keeps
    | with_reducible apply State.dispWrite_keeps
    | with_reducible apply State.ignored_keeps
    | with_reducible apply State.imvIgnored_keeps
    | with_reducible apply State.modeRequest_keeps
    | with_reducible apply State.parCmd_keeps
    | with_reducible apply State.putField_keeps
    | with_reducible apply State.putFields_keeps
    | with_reducible apply State.putRelease_keeps
    | with_reducible apply State.putStart_keeps
    | with_reducible apply State.putTick_keeps
    | with_reducible apply State.setF_keeps
    | with_reducible apply State.tailWrite_keeps
    | with_reducible apply State.taskCmd_keeps
    | with_reducible apply State.updIgnored_keeps
    | (fail_if_no_progress (with_reducible refine Keeps.upd ?_ rfl rfl rfl rfl rfl rfl))
    | dsimp only
    | split

/-- SCH_TASKPHASE. -/
theorem attTaskphase_keeps {a : State} {x1 x2 x3} : AKeeps a (attTaskphase x1 x2 x3) := by
  unfold attTaskphase
  repeat' first
    | with_reducible assumption
    | with_reducible exact AKeeps.nil
    | with_reducible refine AKeeps.cons (fun s h => ?_) ?_
    | with_reducible refine AKeeps.append ?_ ?_
    | with_reducible refine refuse_keeps
    | with_reducible refine State.taskGate_keeps (fun _ => ?_)
    | with_reducible exact attTaskcfg_keeps
    | with_reducible exact attTaskphase_keeps
    | with_reducible exact attTaskstat_keeps
    | with_reducible exact attDisp_keeps
    | with_reducible exact State.acuBound_keeps
    | with_reducible refine OKeeps.some ?_
    | with_reducible exact OKeeps.none
    | with_reducible apply Keeps.ite
    | with_reducible apply AKeeps.ite
    | with_reducible apply OKeeps.ite
    | with_reducible refine Keeps.foldl ?_ (fun _ _ _ => ?_)
    | with_reducible apply State.acuPut_keeps
    | with_reducible apply State.bump_keeps
    | with_reducible apply State.cfgIgnored_keeps
    | with_reducible apply State.clearBits_keeps
    | with_reducible apply State.cmdAcuBarrier_keeps
    | with_reducible apply State.cmdAcuRattrWrite_keeps
    | with_reducible apply State.cmdAdcUrgentGo_keeps
    | with_reducible apply State.cmdArcClrcyc_keeps
    | with_reducible apply State.cmdArcClrevt_keeps
    | with_reducible apply State.cmdArcErase_keeps
    | with_reducible apply State.cmdArcNext_keeps
    | with_reducible apply State.cmdBotAttest_keeps
    | with_reducible apply State.cmdBotConfirm_keeps
    | with_reducible apply State.cmdBotReject_keeps
    | with_reducible apply State.cmdBotRestart_keeps
    | with_reducible apply State.cmdCanFlush_keeps
    | with_reducible apply State.cmdCanRecover_keeps
    | with_reducible apply State.cmdCfgChunk_keeps
    | with_reducible apply State.cmdCfgClose_keeps
    | with_reducible apply State.cmdCfgLoad_keeps
    | with_reducible apply State.cmdCfgOpen_keeps
    | with_reducible apply State.cmdImvHalt_keeps
    | with_reducible apply State.cmdImvStart_keeps
    | with_reducible apply State.cmdKerbstop_keeps
    | with_reducible apply State.cmdOlcAbandon_keeps
    | with_reducible apply State.cmdOlcArm_keeps
    | with_reducible apply State.cmdPnePortcfgWrite_keeps
    | with_reducible apply State.cmdPulseArm_keeps
    | with_reducible apply State.cmdPulseStop_keeps
    | with_reducible apply State.cmdRbfailClear_keeps
    | with_reducible apply State.cmdSecPortcfg_keeps
    | with_reducible apply State.cmdSfyValackWrite_keeps
    | with_reducible apply State.cmdTagWrite_keeps
    | with_reducible apply State.cmdTimSwitch_keeps
    | with_reducible apply State.cmdTtcGo_keeps
    | with_reducible apply State.cmdUpdArm_keeps
    | with_reducible apply State.cmdUpdChunk_keeps
    | with_reducible apply State.cmdUpdClose_keeps
    | with_reducible apply State.cmdUpdDisarm_keeps
    | with_reducible apply State.cmdUpdOpen_keeps
    | with_reducible apply State.cmdXngRetire_keeps
    | with_reducible apply State.cmdXngTest_keeps
    | with_reducible apply State.cursorStart_keeps
    | with_reducible apply State.dispWrite_keeps
    | with_reducible apply State.ignored_keeps
    | with_reducible apply State.imvIgnored_keeps
    | with_reducible apply State.modeRequest_keeps
    | with_reducible apply State.parCmd_keeps
    | with_reducible apply State.putField_keeps
    | with_reducible apply State.putFields_keeps
    | with_reducible apply State.putRelease_keeps
    | with_reducible apply State.putStart_keeps
    | with_reducible apply State.putTick_keeps
    | with_reducible apply State.setF_keeps
    | with_reducible apply State.tailWrite_keeps
    | with_reducible apply State.taskCmd_keeps
    | with_reducible apply State.updIgnored_keeps
    | (fail_if_no_progress (with_reducible refine Keeps.upd ?_ rfl rfl rfl rfl rfl rfl))
    | dsimp only
    | split

/-- SCH_TASKSTAT. -/
theorem attTaskstat_keeps {a : State} {x1 x2} : AKeeps a (attTaskstat x1 x2) := by
  unfold attTaskstat
  repeat' first
    | with_reducible assumption
    | with_reducible exact AKeeps.nil
    | with_reducible refine AKeeps.cons (fun s h => ?_) ?_
    | with_reducible refine AKeeps.append ?_ ?_
    | with_reducible refine refuse_keeps
    | with_reducible refine State.taskGate_keeps (fun _ => ?_)
    | with_reducible exact attTaskcfg_keeps
    | with_reducible exact attTaskphase_keeps
    | with_reducible exact attTaskstat_keeps
    | with_reducible exact attDisp_keeps
    | with_reducible exact State.acuBound_keeps
    | with_reducible refine OKeeps.some ?_
    | with_reducible exact OKeeps.none
    | with_reducible apply Keeps.ite
    | with_reducible apply AKeeps.ite
    | with_reducible apply OKeeps.ite
    | with_reducible refine Keeps.foldl ?_ (fun _ _ _ => ?_)
    | with_reducible apply State.acuPut_keeps
    | with_reducible apply State.bump_keeps
    | with_reducible apply State.cfgIgnored_keeps
    | with_reducible apply State.clearBits_keeps
    | with_reducible apply State.cmdAcuBarrier_keeps
    | with_reducible apply State.cmdAcuRattrWrite_keeps
    | with_reducible apply State.cmdAdcUrgentGo_keeps
    | with_reducible apply State.cmdArcClrcyc_keeps
    | with_reducible apply State.cmdArcClrevt_keeps
    | with_reducible apply State.cmdArcErase_keeps
    | with_reducible apply State.cmdArcNext_keeps
    | with_reducible apply State.cmdBotAttest_keeps
    | with_reducible apply State.cmdBotConfirm_keeps
    | with_reducible apply State.cmdBotReject_keeps
    | with_reducible apply State.cmdBotRestart_keeps
    | with_reducible apply State.cmdCanFlush_keeps
    | with_reducible apply State.cmdCanRecover_keeps
    | with_reducible apply State.cmdCfgChunk_keeps
    | with_reducible apply State.cmdCfgClose_keeps
    | with_reducible apply State.cmdCfgLoad_keeps
    | with_reducible apply State.cmdCfgOpen_keeps
    | with_reducible apply State.cmdImvHalt_keeps
    | with_reducible apply State.cmdImvStart_keeps
    | with_reducible apply State.cmdKerbstop_keeps
    | with_reducible apply State.cmdOlcAbandon_keeps
    | with_reducible apply State.cmdOlcArm_keeps
    | with_reducible apply State.cmdPnePortcfgWrite_keeps
    | with_reducible apply State.cmdPulseArm_keeps
    | with_reducible apply State.cmdPulseStop_keeps
    | with_reducible apply State.cmdRbfailClear_keeps
    | with_reducible apply State.cmdSecPortcfg_keeps
    | with_reducible apply State.cmdSfyValackWrite_keeps
    | with_reducible apply State.cmdTagWrite_keeps
    | with_reducible apply State.cmdTimSwitch_keeps
    | with_reducible apply State.cmdTtcGo_keeps
    | with_reducible apply State.cmdUpdArm_keeps
    | with_reducible apply State.cmdUpdChunk_keeps
    | with_reducible apply State.cmdUpdClose_keeps
    | with_reducible apply State.cmdUpdDisarm_keeps
    | with_reducible apply State.cmdUpdOpen_keeps
    | with_reducible apply State.cmdXngRetire_keeps
    | with_reducible apply State.cmdXngTest_keeps
    | with_reducible apply State.cursorStart_keeps
    | with_reducible apply State.dispWrite_keeps
    | with_reducible apply State.ignored_keeps
    | with_reducible apply State.imvIgnored_keeps
    | with_reducible apply State.modeRequest_keeps
    | with_reducible apply State.parCmd_keeps
    | with_reducible apply State.putField_keeps
    | with_reducible apply State.putFields_keeps
    | with_reducible apply State.putRelease_keeps
    | with_reducible apply State.putStart_keeps
    | with_reducible apply State.putTick_keeps
    | with_reducible apply State.setF_keeps
    | with_reducible apply State.tailWrite_keeps
    | with_reducible apply State.taskCmd_keeps
    | with_reducible apply State.updIgnored_keeps
    | (fail_if_no_progress (with_reducible refine Keeps.upd ?_ rfl rfl rfl rfl rfl rfl))
    | dsimp only
    | split

/-- DISP. -/
theorem attDisp_keeps {a : State} {x1 x2 x3} : AKeeps a (attDisp x1 x2 x3) := by
  unfold attDisp
  repeat' first
    | with_reducible assumption
    | with_reducible exact AKeeps.nil
    | with_reducible refine AKeeps.cons (fun s h => ?_) ?_
    | with_reducible refine AKeeps.append ?_ ?_
    | with_reducible refine refuse_keeps
    | with_reducible refine State.taskGate_keeps (fun _ => ?_)
    | with_reducible exact attTaskcfg_keeps
    | with_reducible exact attTaskphase_keeps
    | with_reducible exact attTaskstat_keeps
    | with_reducible exact attDisp_keeps
    | with_reducible exact State.acuBound_keeps
    | with_reducible refine OKeeps.some ?_
    | with_reducible exact OKeeps.none
    | with_reducible apply Keeps.ite
    | with_reducible apply AKeeps.ite
    | with_reducible apply OKeeps.ite
    | with_reducible refine Keeps.foldl ?_ (fun _ _ _ => ?_)
    | with_reducible apply State.acuPut_keeps
    | with_reducible apply State.bump_keeps
    | with_reducible apply State.cfgIgnored_keeps
    | with_reducible apply State.clearBits_keeps
    | with_reducible apply State.cmdAcuBarrier_keeps
    | with_reducible apply State.cmdAcuRattrWrite_keeps
    | with_reducible apply State.cmdAdcUrgentGo_keeps
    | with_reducible apply State.cmdArcClrcyc_keeps
    | with_reducible apply State.cmdArcClrevt_keeps
    | with_reducible apply State.cmdArcErase_keeps
    | with_reducible apply State.cmdArcNext_keeps
    | with_reducible apply State.cmdBotAttest_keeps
    | with_reducible apply State.cmdBotConfirm_keeps
    | with_reducible apply State.cmdBotReject_keeps
    | with_reducible apply State.cmdBotRestart_keeps
    | with_reducible apply State.cmdCanFlush_keeps
    | with_reducible apply State.cmdCanRecover_keeps
    | with_reducible apply State.cmdCfgChunk_keeps
    | with_reducible apply State.cmdCfgClose_keeps
    | with_reducible apply State.cmdCfgLoad_keeps
    | with_reducible apply State.cmdCfgOpen_keeps
    | with_reducible apply State.cmdImvHalt_keeps
    | with_reducible apply State.cmdImvStart_keeps
    | with_reducible apply State.cmdKerbstop_keeps
    | with_reducible apply State.cmdOlcAbandon_keeps
    | with_reducible apply State.cmdOlcArm_keeps
    | with_reducible apply State.cmdPnePortcfgWrite_keeps
    | with_reducible apply State.cmdPulseArm_keeps
    | with_reducible apply State.cmdPulseStop_keeps
    | with_reducible apply State.cmdRbfailClear_keeps
    | with_reducible apply State.cmdSecPortcfg_keeps
    | with_reducible apply State.cmdSfyValackWrite_keeps
    | with_reducible apply State.cmdTagWrite_keeps
    | with_reducible apply State.cmdTimSwitch_keeps
    | with_reducible apply State.cmdTtcGo_keeps
    | with_reducible apply State.cmdUpdArm_keeps
    | with_reducible apply State.cmdUpdChunk_keeps
    | with_reducible apply State.cmdUpdClose_keeps
    | with_reducible apply State.cmdUpdDisarm_keeps
    | with_reducible apply State.cmdUpdOpen_keeps
    | with_reducible apply State.cmdXngRetire_keeps
    | with_reducible apply State.cmdXngTest_keeps
    | with_reducible apply State.cursorStart_keeps
    | with_reducible apply State.dispWrite_keeps
    | with_reducible apply State.ignored_keeps
    | with_reducible apply State.imvIgnored_keeps
    | with_reducible apply State.modeRequest_keeps
    | with_reducible apply State.parCmd_keeps
    | with_reducible apply State.putField_keeps
    | with_reducible apply State.putFields_keeps
    | with_reducible apply State.putRelease_keeps
    | with_reducible apply State.putStart_keeps
    | with_reducible apply State.putTick_keeps
    | with_reducible apply State.setF_keeps
    | with_reducible apply State.tailWrite_keeps
    | with_reducible apply State.taskCmd_keeps
    | with_reducible apply State.updIgnored_keeps
    | (fail_if_no_progress (with_reducible refine Keeps.upd ?_ rfl rfl rfl rfl rfl rfl))
    | dsimp only
    | split

/-- A bound of a region. -/
theorem State.acuBound_keeps {a : State} {x1 x2 x3 x4} : AKeeps a (State.attFabric.acuBound x1 x2 x3 x4) := by
  unfold State.attFabric.acuBound
  repeat' first
    | with_reducible assumption
    | with_reducible exact AKeeps.nil
    | with_reducible refine AKeeps.cons (fun s h => ?_) ?_
    | with_reducible refine AKeeps.append ?_ ?_
    | with_reducible refine refuse_keeps
    | with_reducible refine State.taskGate_keeps (fun _ => ?_)
    | with_reducible exact attTaskcfg_keeps
    | with_reducible exact attTaskphase_keeps
    | with_reducible exact attTaskstat_keeps
    | with_reducible exact attDisp_keeps
    | with_reducible exact State.acuBound_keeps
    | with_reducible refine OKeeps.some ?_
    | with_reducible exact OKeeps.none
    | with_reducible apply Keeps.ite
    | with_reducible apply AKeeps.ite
    | with_reducible apply OKeeps.ite
    | with_reducible refine Keeps.foldl ?_ (fun _ _ _ => ?_)
    | with_reducible apply State.acuPut_keeps
    | with_reducible apply State.bump_keeps
    | with_reducible apply State.cfgIgnored_keeps
    | with_reducible apply State.clearBits_keeps
    | with_reducible apply State.cmdAcuBarrier_keeps
    | with_reducible apply State.cmdAcuRattrWrite_keeps
    | with_reducible apply State.cmdAdcUrgentGo_keeps
    | with_reducible apply State.cmdArcClrcyc_keeps
    | with_reducible apply State.cmdArcClrevt_keeps
    | with_reducible apply State.cmdArcErase_keeps
    | with_reducible apply State.cmdArcNext_keeps
    | with_reducible apply State.cmdBotAttest_keeps
    | with_reducible apply State.cmdBotConfirm_keeps
    | with_reducible apply State.cmdBotReject_keeps
    | with_reducible apply State.cmdBotRestart_keeps
    | with_reducible apply State.cmdCanFlush_keeps
    | with_reducible apply State.cmdCanRecover_keeps
    | with_reducible apply State.cmdCfgChunk_keeps
    | with_reducible apply State.cmdCfgClose_keeps
    | with_reducible apply State.cmdCfgLoad_keeps
    | with_reducible apply State.cmdCfgOpen_keeps
    | with_reducible apply State.cmdImvHalt_keeps
    | with_reducible apply State.cmdImvStart_keeps
    | with_reducible apply State.cmdKerbstop_keeps
    | with_reducible apply State.cmdOlcAbandon_keeps
    | with_reducible apply State.cmdOlcArm_keeps
    | with_reducible apply State.cmdPnePortcfgWrite_keeps
    | with_reducible apply State.cmdPulseArm_keeps
    | with_reducible apply State.cmdPulseStop_keeps
    | with_reducible apply State.cmdRbfailClear_keeps
    | with_reducible apply State.cmdSecPortcfg_keeps
    | with_reducible apply State.cmdSfyValackWrite_keeps
    | with_reducible apply State.cmdTagWrite_keeps
    | with_reducible apply State.cmdTimSwitch_keeps
    | with_reducible apply State.cmdTtcGo_keeps
    | with_reducible apply State.cmdUpdArm_keeps
    | with_reducible apply State.cmdUpdChunk_keeps
    | with_reducible apply State.cmdUpdClose_keeps
    | with_reducible apply State.cmdUpdDisarm_keeps
    | with_reducible apply State.cmdUpdOpen_keeps
    | with_reducible apply State.cmdXngRetire_keeps
    | with_reducible apply State.cmdXngTest_keeps
    | with_reducible apply State.cursorStart_keeps
    | with_reducible apply State.dispWrite_keeps
    | with_reducible apply State.ignored_keeps
    | with_reducible apply State.imvIgnored_keeps
    | with_reducible apply State.modeRequest_keeps
    | with_reducible apply State.parCmd_keeps
    | with_reducible apply State.putField_keeps
    | with_reducible apply State.putFields_keeps
    | with_reducible apply State.putRelease_keeps
    | with_reducible apply State.putStart_keeps
    | with_reducible apply State.putTick_keeps
    | with_reducible apply State.setF_keeps
    | with_reducible apply State.tailWrite_keeps
    | with_reducible apply State.taskCmd_keeps
    | with_reducible apply State.updIgnored_keeps
    | (fail_if_no_progress (with_reducible refine Keeps.upd ?_ rfl rfl rfl rfl rfl rfl))
    | dsimp only
    | split

/-- The SCH block. -/
theorem State.attSch_keeps {a s : State} {x1 x2 x3 x4} : OKeeps a (State.attSch s x1 x2 x3 x4) := by
  unfold State.attSch
  repeat' first
    | with_reducible assumption
    | with_reducible exact AKeeps.nil
    | with_reducible refine AKeeps.cons (fun s h => ?_) ?_
    | with_reducible refine AKeeps.append ?_ ?_
    | with_reducible refine refuse_keeps
    | with_reducible refine State.taskGate_keeps (fun _ => ?_)
    | with_reducible exact attTaskcfg_keeps
    | with_reducible exact attTaskphase_keeps
    | with_reducible exact attTaskstat_keeps
    | with_reducible exact attDisp_keeps
    | with_reducible exact State.acuBound_keeps
    | with_reducible refine OKeeps.some ?_
    | with_reducible exact OKeeps.none
    | with_reducible apply Keeps.ite
    | with_reducible apply AKeeps.ite
    | with_reducible apply OKeeps.ite
    | with_reducible refine Keeps.foldl ?_ (fun _ _ _ => ?_)
    | with_reducible apply State.acuPut_keeps
    | with_reducible apply State.bump_keeps
    | with_reducible apply State.cfgIgnored_keeps
    | with_reducible apply State.clearBits_keeps
    | with_reducible apply State.cmdAcuBarrier_keeps
    | with_reducible apply State.cmdAcuRattrWrite_keeps
    | with_reducible apply State.cmdAdcUrgentGo_keeps
    | with_reducible apply State.cmdArcClrcyc_keeps
    | with_reducible apply State.cmdArcClrevt_keeps
    | with_reducible apply State.cmdArcErase_keeps
    | with_reducible apply State.cmdArcNext_keeps
    | with_reducible apply State.cmdBotAttest_keeps
    | with_reducible apply State.cmdBotConfirm_keeps
    | with_reducible apply State.cmdBotReject_keeps
    | with_reducible apply State.cmdBotRestart_keeps
    | with_reducible apply State.cmdCanFlush_keeps
    | with_reducible apply State.cmdCanRecover_keeps
    | with_reducible apply State.cmdCfgChunk_keeps
    | with_reducible apply State.cmdCfgClose_keeps
    | with_reducible apply State.cmdCfgLoad_keeps
    | with_reducible apply State.cmdCfgOpen_keeps
    | with_reducible apply State.cmdImvHalt_keeps
    | with_reducible apply State.cmdImvStart_keeps
    | with_reducible apply State.cmdKerbstop_keeps
    | with_reducible apply State.cmdOlcAbandon_keeps
    | with_reducible apply State.cmdOlcArm_keeps
    | with_reducible apply State.cmdPnePortcfgWrite_keeps
    | with_reducible apply State.cmdPulseArm_keeps
    | with_reducible apply State.cmdPulseStop_keeps
    | with_reducible apply State.cmdRbfailClear_keeps
    | with_reducible apply State.cmdSecPortcfg_keeps
    | with_reducible apply State.cmdSfyValackWrite_keeps
    | with_reducible apply State.cmdTagWrite_keeps
    | with_reducible apply State.cmdTimSwitch_keeps
    | with_reducible apply State.cmdTtcGo_keeps
    | with_reducible apply State.cmdUpdArm_keeps
    | with_reducible apply State.cmdUpdChunk_keeps
    | with_reducible apply State.cmdUpdClose_keeps
    | with_reducible apply State.cmdUpdDisarm_keeps
    | with_reducible apply State.cmdUpdOpen_keeps
    | with_reducible apply State.cmdXngRetire_keeps
    | with_reducible apply State.cmdXngTest_keeps
    | with_reducible apply State.cursorStart_keeps
    | with_reducible apply State.dispWrite_keeps
    | with_reducible apply State.ignored_keeps
    | with_reducible apply State.imvIgnored_keeps
    | with_reducible apply State.modeRequest_keeps
    | with_reducible apply State.parCmd_keeps
    | with_reducible apply State.putField_keeps
    | with_reducible apply State.putFields_keeps
    | with_reducible apply State.putRelease_keeps
    | with_reducible apply State.putStart_keeps
    | with_reducible apply State.putTick_keeps
    | with_reducible apply State.setF_keeps
    | with_reducible apply State.tailWrite_keeps
    | with_reducible apply State.taskCmd_keeps
    | with_reducible apply State.updIgnored_keeps
    | (fail_if_no_progress (with_reducible refine Keeps.upd ?_ rfl rfl rfl rfl rfl rfl))
    | dsimp only
    | split

/-- The blocks PWR to ACU. -/
theorem State.attFabric_keeps {a s : State} {x1 x2 x3} : OKeeps a (State.attFabric s x1 x2 x3) := by
  unfold State.attFabric
  repeat' first
    | with_reducible assumption
    | with_reducible exact AKeeps.nil
    | with_reducible refine AKeeps.cons (fun s h => ?_) ?_
    | with_reducible refine AKeeps.append ?_ ?_
    | with_reducible refine refuse_keeps
    | with_reducible refine State.taskGate_keeps (fun _ => ?_)
    | with_reducible exact attTaskcfg_keeps
    | with_reducible exact attTaskphase_keeps
    | with_reducible exact attTaskstat_keeps
    | with_reducible exact attDisp_keeps
    | with_reducible exact State.acuBound_keeps
    | with_reducible refine OKeeps.some ?_
    | with_reducible exact OKeeps.none
    | with_reducible apply Keeps.ite
    | with_reducible apply AKeeps.ite
    | with_reducible apply OKeeps.ite
    | with_reducible refine Keeps.foldl ?_ (fun _ _ _ => ?_)
    | with_reducible apply State.acuPut_keeps
    | with_reducible apply State.bump_keeps
    | with_reducible apply State.cfgIgnored_keeps
    | with_reducible apply State.clearBits_keeps
    | with_reducible apply State.cmdAcuBarrier_keeps
    | with_reducible apply State.cmdAcuRattrWrite_keeps
    | with_reducible apply State.cmdAdcUrgentGo_keeps
    | with_reducible apply State.cmdArcClrcyc_keeps
    | with_reducible apply State.cmdArcClrevt_keeps
    | with_reducible apply State.cmdArcErase_keeps
    | with_reducible apply State.cmdArcNext_keeps
    | with_reducible apply State.cmdBotAttest_keeps
    | with_reducible apply State.cmdBotConfirm_keeps
    | with_reducible apply State.cmdBotReject_keeps
    | with_reducible apply State.cmdBotRestart_keeps
    | with_reducible apply State.cmdCanFlush_keeps
    | with_reducible apply State.cmdCanRecover_keeps
    | with_reducible apply State.cmdCfgChunk_keeps
    | with_reducible apply State.cmdCfgClose_keeps
    | with_reducible apply State.cmdCfgLoad_keeps
    | with_reducible apply State.cmdCfgOpen_keeps
    | with_reducible apply State.cmdImvHalt_keeps
    | with_reducible apply State.cmdImvStart_keeps
    | with_reducible apply State.cmdKerbstop_keeps
    | with_reducible apply State.cmdOlcAbandon_keeps
    | with_reducible apply State.cmdOlcArm_keeps
    | with_reducible apply State.cmdPnePortcfgWrite_keeps
    | with_reducible apply State.cmdPulseArm_keeps
    | with_reducible apply State.cmdPulseStop_keeps
    | with_reducible apply State.cmdRbfailClear_keeps
    | with_reducible apply State.cmdSecPortcfg_keeps
    | with_reducible apply State.cmdSfyValackWrite_keeps
    | with_reducible apply State.cmdTagWrite_keeps
    | with_reducible apply State.cmdTimSwitch_keeps
    | with_reducible apply State.cmdTtcGo_keeps
    | with_reducible apply State.cmdUpdArm_keeps
    | with_reducible apply State.cmdUpdChunk_keeps
    | with_reducible apply State.cmdUpdClose_keeps
    | with_reducible apply State.cmdUpdDisarm_keeps
    | with_reducible apply State.cmdUpdOpen_keeps
    | with_reducible apply State.cmdXngRetire_keeps
    | with_reducible apply State.cmdXngTest_keeps
    | with_reducible apply State.cursorStart_keeps
    | with_reducible apply State.dispWrite_keeps
    | with_reducible apply State.ignored_keeps
    | with_reducible apply State.imvIgnored_keeps
    | with_reducible apply State.modeRequest_keeps
    | with_reducible apply State.parCmd_keeps
    | with_reducible apply State.putField_keeps
    | with_reducible apply State.putFields_keeps
    | with_reducible apply State.putRelease_keeps
    | with_reducible apply State.putStart_keeps
    | with_reducible apply State.putTick_keeps
    | with_reducible apply State.setF_keeps
    | with_reducible apply State.tailWrite_keeps
    | with_reducible apply State.taskCmd_keeps
    | with_reducible apply State.updIgnored_keeps
    | (fail_if_no_progress (with_reducible refine Keeps.upd ?_ rfl rfl rfl rfl rfl rfl))
    | dsimp only
    | split

/-- The blocks IMV to SEC. -/
theorem State.attIo_keeps {a s : State} {x1 x2 x3} : OKeeps a (State.attIo s x1 x2 x3) := by
  unfold State.attIo
  repeat' first
    | with_reducible assumption
    | with_reducible exact AKeeps.nil
    | with_reducible refine AKeeps.cons (fun s h => ?_) ?_
    | with_reducible refine AKeeps.append ?_ ?_
    | with_reducible refine refuse_keeps
    | with_reducible refine State.taskGate_keeps (fun _ => ?_)
    | with_reducible exact attTaskcfg_keeps
    | with_reducible exact attTaskphase_keeps
    | with_reducible exact attTaskstat_keeps
    | with_reducible exact attDisp_keeps
    | with_reducible exact State.acuBound_keeps
    | with_reducible refine OKeeps.some ?_
    | with_reducible exact OKeeps.none
    | with_reducible apply Keeps.ite
    | with_reducible apply AKeeps.ite
    | with_reducible apply OKeeps.ite
    | with_reducible refine Keeps.foldl ?_ (fun _ _ _ => ?_)
    | with_reducible apply State.acuPut_keeps
    | with_reducible apply State.bump_keeps
    | with_reducible apply State.cfgIgnored_keeps
    | with_reducible apply State.clearBits_keeps
    | with_reducible apply State.cmdAcuBarrier_keeps
    | with_reducible apply State.cmdAcuRattrWrite_keeps
    | with_reducible apply State.cmdAdcUrgentGo_keeps
    | with_reducible apply State.cmdArcClrcyc_keeps
    | with_reducible apply State.cmdArcClrevt_keeps
    | with_reducible apply State.cmdArcErase_keeps
    | with_reducible apply State.cmdArcNext_keeps
    | with_reducible apply State.cmdBotAttest_keeps
    | with_reducible apply State.cmdBotConfirm_keeps
    | with_reducible apply State.cmdBotReject_keeps
    | with_reducible apply State.cmdBotRestart_keeps
    | with_reducible apply State.cmdCanFlush_keeps
    | with_reducible apply State.cmdCanRecover_keeps
    | with_reducible apply State.cmdCfgChunk_keeps
    | with_reducible apply State.cmdCfgClose_keeps
    | with_reducible apply State.cmdCfgLoad_keeps
    | with_reducible apply State.cmdCfgOpen_keeps
    | with_reducible apply State.cmdImvHalt_keeps
    | with_reducible apply State.cmdImvStart_keeps
    | with_reducible apply State.cmdKerbstop_keeps
    | with_reducible apply State.cmdOlcAbandon_keeps
    | with_reducible apply State.cmdOlcArm_keeps
    | with_reducible apply State.cmdPnePortcfgWrite_keeps
    | with_reducible apply State.cmdPulseArm_keeps
    | with_reducible apply State.cmdPulseStop_keeps
    | with_reducible apply State.cmdRbfailClear_keeps
    | with_reducible apply State.cmdSecPortcfg_keeps
    | with_reducible apply State.cmdSfyValackWrite_keeps
    | with_reducible apply State.cmdTagWrite_keeps
    | with_reducible apply State.cmdTimSwitch_keeps
    | with_reducible apply State.cmdTtcGo_keeps
    | with_reducible apply State.cmdUpdArm_keeps
    | with_reducible apply State.cmdUpdChunk_keeps
    | with_reducible apply State.cmdUpdClose_keeps
    | with_reducible apply State.cmdUpdDisarm_keeps
    | with_reducible apply State.cmdUpdOpen_keeps
    | with_reducible apply State.cmdXngRetire_keeps
    | with_reducible apply State.cmdXngTest_keeps
    | with_reducible apply State.cursorStart_keeps
    | with_reducible apply State.dispWrite_keeps
    | with_reducible apply State.ignored_keeps
    | with_reducible apply State.imvIgnored_keeps
    | with_reducible apply State.modeRequest_keeps
    | with_reducible apply State.parCmd_keeps
    | with_reducible apply State.putField_keeps
    | with_reducible apply State.putFields_keeps
    | with_reducible apply State.putRelease_keeps
    | with_reducible apply State.putStart_keeps
    | with_reducible apply State.putTick_keeps
    | with_reducible apply State.setF_keeps
    | with_reducible apply State.tailWrite_keeps
    | with_reducible apply State.taskCmd_keeps
    | with_reducible apply State.updIgnored_keeps
    | (fail_if_no_progress (with_reducible refine Keeps.upd ?_ rfl rfl rfl rfl rfl rfl))
    | dsimp only
    | split

/-- The BOT block. -/
theorem attBot_keeps {a : State} {x1 x2 x3 x4} : OKeeps a (attBot x1 x2 x3 x4) := by
  unfold attBot
  repeat' first
    | with_reducible assumption
    | with_reducible exact AKeeps.nil
    | with_reducible refine AKeeps.cons (fun s h => ?_) ?_
    | with_reducible refine AKeeps.append ?_ ?_
    | with_reducible refine refuse_keeps
    | with_reducible refine State.taskGate_keeps (fun _ => ?_)
    | with_reducible exact attTaskcfg_keeps
    | with_reducible exact attTaskphase_keeps
    | with_reducible exact attTaskstat_keeps
    | with_reducible exact attDisp_keeps
    | with_reducible exact State.acuBound_keeps
    | with_reducible refine OKeeps.some ?_
    | with_reducible exact OKeeps.none
    | with_reducible apply Keeps.ite
    | with_reducible apply AKeeps.ite
    | with_reducible apply OKeeps.ite
    | with_reducible refine Keeps.foldl ?_ (fun _ _ _ => ?_)
    | with_reducible apply State.acuPut_keeps
    | with_reducible apply State.bump_keeps
    | with_reducible apply State.cfgIgnored_keeps
    | with_reducible apply State.clearBits_keeps
    | with_reducible apply State.cmdAcuBarrier_keeps
    | with_reducible apply State.cmdAcuRattrWrite_keeps
    | with_reducible apply State.cmdAdcUrgentGo_keeps
    | with_reducible apply State.cmdArcClrcyc_keeps
    | with_reducible apply State.cmdArcClrevt_keeps
    | with_reducible apply State.cmdArcErase_keeps
    | with_reducible apply State.cmdArcNext_keeps
    | with_reducible apply State.cmdBotAttest_keeps
    | with_reducible apply State.cmdBotConfirm_keeps
    | with_reducible apply State.cmdBotReject_keeps
    | with_reducible apply State.cmdBotRestart_keeps
    | with_reducible apply State.cmdCanFlush_keeps
    | with_reducible apply State.cmdCanRecover_keeps
    | with_reducible apply State.cmdCfgChunk_keeps
    | with_reducible apply State.cmdCfgClose_keeps
    | with_reducible apply State.cmdCfgLoad_keeps
    | with_reducible apply State.cmdCfgOpen_keeps
    | with_reducible apply State.cmdImvHalt_keeps
    | with_reducible apply State.cmdImvStart_keeps
    | with_reducible apply State.cmdKerbstop_keeps
    | with_reducible apply State.cmdOlcAbandon_keeps
    | with_reducible apply State.cmdOlcArm_keeps
    | with_reducible apply State.cmdPnePortcfgWrite_keeps
    | with_reducible apply State.cmdPulseArm_keeps
    | with_reducible apply State.cmdPulseStop_keeps
    | with_reducible apply State.cmdRbfailClear_keeps
    | with_reducible apply State.cmdSecPortcfg_keeps
    | with_reducible apply State.cmdSfyValackWrite_keeps
    | with_reducible apply State.cmdTagWrite_keeps
    | with_reducible apply State.cmdTimSwitch_keeps
    | with_reducible apply State.cmdTtcGo_keeps
    | with_reducible apply State.cmdUpdArm_keeps
    | with_reducible apply State.cmdUpdChunk_keeps
    | with_reducible apply State.cmdUpdClose_keeps
    | with_reducible apply State.cmdUpdDisarm_keeps
    | with_reducible apply State.cmdUpdOpen_keeps
    | with_reducible apply State.cmdXngRetire_keeps
    | with_reducible apply State.cmdXngTest_keeps
    | with_reducible apply State.cursorStart_keeps
    | with_reducible apply State.dispWrite_keeps
    | with_reducible apply State.ignored_keeps
    | with_reducible apply State.imvIgnored_keeps
    | with_reducible apply State.modeRequest_keeps
    | with_reducible apply State.parCmd_keeps
    | with_reducible apply State.putField_keeps
    | with_reducible apply State.putFields_keeps
    | with_reducible apply State.putRelease_keeps
    | with_reducible apply State.putStart_keeps
    | with_reducible apply State.putTick_keeps
    | with_reducible apply State.setF_keeps
    | with_reducible apply State.tailWrite_keeps
    | with_reducible apply State.taskCmd_keeps
    | with_reducible apply State.updIgnored_keeps
    | (fail_if_no_progress (with_reducible refine Keeps.upd ?_ rfl rfl rfl rfl rfl rfl))
    | dsimp only
    | split

/-- Every register. -/
theorem State.attsOf_keeps {a s : State} {x1 x2 x3 x4} : AKeeps a (State.attsOf s x1 x2 x3 x4) := by
  unfold State.attsOf
  have h1 : OKeeps a (s.attSch x1 x2 x3 (x4.pkg.getD Pkg.empty)) := State.attSch_keeps
  have h2 : OKeeps a (s.attFabric x1 x2 x3) := State.attFabric_keeps
  have h3 : OKeeps a (s.attIo x1 x2 x3) := State.attIo_keeps
  have h4 : OKeeps a (attBot x1 x2 x3 x4) := attBot_keeps
  generalize s.attSch x1 x2 x3 (x4.pkg.getD Pkg.empty) = o1 at h1
  generalize s.attFabric x1 x2 x3 = o2 at h2
  generalize s.attIo x1 x2 x3 = o3 at h3
  generalize attBot x1 x2 x3 x4 = o4 at h4
  cases o1 with
  | some l => exact h1 l rfl
  | none =>
    cases o2 with
    | some l => exact h2 l rfl
    | none =>
      cases o3 with
      | some l => exact h3 l rfl
      | none =>
        cases o4 with
        | some l => exact h4 l rfl
        | none => exact AKeeps.cons (fun s h => State.clearBits_keeps (State.putFields_keeps h)) AKeeps.nil

/-- State.writeWord keeps what every operation keeps. -/
theorem State.writeWord_keeps {a s : State} {x1 x2 x3 x4} (h : Keeps a s) : Keeps a (State.writeWord s x1 x2 x3 x4) := by
  unfold State.writeWord
  extract_lets fs
  clear_value fs
  refine Keeps.ite (State.ignored_keeps h) (Keeps.ite (State.written_keeps ?_ h) (Keeps.ite (State.written_keeps ?_ h)
    (Keeps.ite (State.ignored_keeps h) (Keeps.ite (State.ignored_keeps h) (Keeps.ite h (Keeps.ite (State.ignored_keeps h) ?_))))))
  · exact fun s h => Keeps.upd h rfl rfl rfl rfl rfl rfl
  · exact fun s h => Keeps.ite (State.modKerb_keeps h) (State.ignored_keeps h)
  · exact State.attempts_keeps State.attsOf_keeps h

/-- State.writeWords keeps what every operation keeps. -/
theorem State.writeWords_keeps {a s : State} {x1 x2 x3 x4} (h : Keeps a s) : Keeps a (State.writeWords s x1 x2 x3 x4) := by
  induction x4 generalizing s x2 with
  | nil => exact h
  | cons v vs ih =>
    unfold State.writeWords
    extract_lets t
    have ht : Keeps a t := State.writeWord_keeps h
    clear_value t
    exact Keeps.ite ht (ih ht)

/-- State.mgmtReply keeps what every operation keeps. -/
theorem State.mgmtReply_keeps {a s : State} {x1 x2 x3 x4 x5 x6 x7} (h : Keeps a s) : Keeps a (State.mgmtReply s x1 x2 x3 x4 x5 x6 x7) := by
  unfold State.mgmtReply
  repeat' first
    | with_reducible assumption
    | dsimp -zeta only
    | with_reducible apply State.emit_keeps

/-- State.queueRead keeps what every operation keeps. -/
theorem State.queueRead_keeps {a s : State} {x1 x2 x3} (h : Keeps a s) : Keeps2 a (State.queueRead s x1 x2 x3) := by
  unfold State.queueRead
  repeat' first
    | with_reducible assumption
    | ((fail_if_no_progress extract_lets +onlyGivenNames t); refine (?_ : Keeps a t → _) ?_; (on_goal 2 => unfold t); (on_goal 1 => (clear_value t; intro _)))
    | ((fail_if_no_progress extract_lets +onlyGivenNames t); refine (?_ : Keeps2 a t → _) ?_; (on_goal 2 => unfold t); (on_goal 1 => (clear_value t; intro _)))
    | ((fail_if_no_progress extract_lets +onlyGivenNames t); subst t)
    | dsimp -zeta only
    | with_reducible apply State.readWords_keeps
    | with_reducible refine Keeps2.out (State.readWords_keeps ?_)
    | with_reducible exact Keeps2.out ‹_›
    | with_reducible apply Keeps2.mk

/-! ### Machine/Tick.lean -/

/-- State.displayTick keeps what every operation keeps. -/
theorem State.displayTick_keeps {a s : State} (h : Keeps a s) : Keeps a (State.displayTick s) := by
  unfold State.displayTick
  repeat' first
    | with_reducible assumption
    | ((fail_if_no_progress extract_lets +onlyGivenNames t); refine (?_ : Keeps a t → _) ?_; (on_goal 2 => unfold t); (on_goal 1 => (clear_value t; intro _)))
    | ((fail_if_no_progress extract_lets +onlyGivenNames t); subst t)
    | dsimp -zeta only
    | with_reducible apply Keeps.ite
    | with_reducible apply State.display_keeps
    | split

/-- State.settingsTick keeps what every operation keeps. -/
theorem State.settingsTick_keeps {a s : State} (h : Keeps a s) : Keeps a (State.settingsTick s) := by
  unfold State.settingsTick
  repeat' first
    | with_reducible assumption
    | ((fail_if_no_progress extract_lets +onlyGivenNames t); refine (?_ : Keeps a t → _) ?_; (on_goal 2 => unfold t); (on_goal 1 => (clear_value t; intro _)))
    | ((fail_if_no_progress extract_lets +onlyGivenNames t); subst t)
    | dsimp -zeta only
    | with_reducible apply Keeps.ite
    | with_reducible apply State.applyDue_keeps
    | with_reducible apply State.invalAll_keeps
    | split

/-- State.domainTick keeps what every operation keeps. -/
theorem State.domainTick_keeps {a s : State} (h : Keeps a s) : Keeps a (State.domainTick s) := by
  unfold State.domainTick
  repeat' first
    | with_reducible assumption
    | ((fail_if_no_progress extract_lets +onlyGivenNames t); refine (?_ : Keeps a t → _) ?_; (on_goal 2 => unfold t); (on_goal 1 => (clear_value t; intro _)))
    | ((fail_if_no_progress extract_lets +onlyGivenNames t); subst t)
    | dsimp -zeta only
    | with_reducible apply Keeps.ite
    | with_reducible apply State.domSwitch_keeps
    | split
    | fail_if_no_progress (with_reducible refine Keeps.upd ?_ rfl rfl rfl rfl rfl rfl)

/-- State.tailsTick keeps what every operation keeps. -/
theorem State.tailsTick_keeps {a s : State} (h : Keeps a s) : Keeps a (State.tailsTick s) := by
  unfold State.tailsTick
  repeat' first
    | with_reducible assumption
    | ((fail_if_no_progress extract_lets +onlyGivenNames t); refine (?_ : Keeps a t → _) ?_; (on_goal 2 => unfold t); (on_goal 1 => (clear_value t; intro _)))
    | ((fail_if_no_progress extract_lets +onlyGivenNames t); refine (?_ : Keeps2 a t → _) ?_; (on_goal 2 => unfold t); (on_goal 1 => (clear_value t; intro _)))
    | ((fail_if_no_progress extract_lets +onlyGivenNames t); refine (?_ : Keeps1 a t → _) ?_; (on_goal 2 => unfold t); (on_goal 1 => (clear_value t; intro _)))
    | ((fail_if_no_progress extract_lets +onlyGivenNames t); subst t)
    | dsimp -zeta only
    | with_reducible apply Keeps.ite
    | with_reducible apply State.share_keeps
    | with_reducible apply State.commitCore_keeps
    | with_reducible exact Keeps1.out ‹_›
    | with_reducible apply Keeps1.mk
    | with_reducible apply Keeps1.ite
    | with_reducible refine Keeps1.foldl ?_ (fun _ _ _ => ?_)
    | with_reducible refine Keeps1.out ?_
    | with_reducible exact Keeps2.out ‹_›
    | with_reducible apply Keeps2.mk
    | with_reducible apply Keeps2.ite
    | with_reducible refine Keeps2.foldl ?_ (fun _ _ _ => ?_)
    | with_reducible refine Keeps2.out ?_
    | with_reducible refine Keeps.foldl ?_ (fun _ _ _ => ?_)
    | split
    | fail_if_no_progress (with_reducible refine Keeps.upd ?_ rfl rfl rfl rfl rfl rfl)

/-- State.clockTick keeps what every operation keeps. -/
theorem State.clockTick_keeps {a s : State} {x1} (h : Keeps a s) : Keeps a (State.clockTick s x1) := by
  unfold State.clockTick
  repeat' first
    | with_reducible assumption
    | dsimp -zeta only
    | with_reducible apply Keeps.ite
    | with_reducible apply State.setF_keeps
    | split

/-- State.windowTick keeps what every operation keeps. -/
theorem State.windowTick_keeps {a s : State} (h : Keeps a s) : Keeps a (State.windowTick s) := by
  unfold State.windowTick
  repeat' first
    | with_reducible assumption
    | dsimp -zeta only
    | with_reducible apply Keeps.ite
    | with_reducible apply State.setF_keeps
    | split

/-- State.strike keeps what every operation keeps. -/
theorem State.strike_keeps {a s : State} {x1} (h : Keeps a s) : Keeps a (State.strike s x1) := by
  unfold State.strike
  repeat' first
    | with_reducible assumption
    | ((fail_if_no_progress extract_lets +onlyGivenNames t); refine (?_ : Keeps a t → _) ?_; (on_goal 2 => unfold t); (on_goal 1 => (clear_value t; intro _)))
    | ((fail_if_no_progress extract_lets +onlyGivenNames t); subst t)
    | dsimp -zeta only
    | with_reducible apply Keeps.ite
    | with_reducible apply State.bump_keeps
    | split
    | fail_if_no_progress (with_reducible refine Keeps.upd ?_ rfl rfl rfl rfl rfl rfl)

/-- State.runTick keeps what every operation keeps, and the next base tick begins. -/
theorem State.runTick_keeps {a s : State} {x1} (h : Keeps a s) : Keeps { a with tick := s.tick + 1 } (State.runTick s x1) := by
  unfold State.runTick
  have k := State.baseNow_keeps (State.judgeModes_keeps h)
  have e : s.judgeModes.baseNow.tick = s.tick := (State.baseNow_keeps (State.judgeModes_keeps (Keeps.refl s))).tick
  have k := k.setTick (s.tick + 1)
  dsimp only
  rw [e]
  generalize s.judgeModes.baseNow = u at *
  have k : Keeps { a with tick := s.tick + 1 } { u with tick := s.tick + 1, now := (s.tick + 1) * 62500, sched := { u.sched with caps := [] } } :=
    Keeps.upd k rfl rfl rfl rfl rfl rfl
  generalize ({ u with tick := s.tick + 1, now := (s.tick + 1) * 62500, sched := { u.sched with caps := [] } } : State) = v at *
  repeat' first
    | with_reducible assumption
    | ((fail_if_no_progress extract_lets +onlyGivenNames t); refine (?_ : Keeps a t → _) ?_; (on_goal 2 => unfold t); (on_goal 1 => (clear_value t; intro _)))
    | ((fail_if_no_progress extract_lets +onlyGivenNames t); subst t)
    | dsimp -zeta only
    | with_reducible apply State.judgeModes_keeps
    | with_reducible apply State.tailsTick_keeps
    | with_reducible apply State.backfillTick_keeps
    | with_reducible apply State.resyncTick_keeps
    | with_reducible apply State.ackLost_keeps
    | with_reducible apply State.specFollow_keeps
    | with_reducible apply State.settleAll_keeps
    | with_reducible apply State.baseNow_keeps
    | with_reducible apply State.domainTick_keeps
    | with_reducible apply State.settingsTick_keeps
    | with_reducible apply State.evalBatch_keeps
    | with_reducible apply State.squareTick_keeps
    | with_reducible apply State.applyDisps_keeps
    | with_reducible apply State.hbTick_keeps
    | with_reducible apply State.lanesTick_keeps
    | with_reducible apply State.initStep_keeps
    | with_reducible apply State.tryHandover_keeps
    | with_reducible apply State.parTick_keeps
    | with_reducible apply State.powerTick_keeps
    | with_reducible apply State.forcesDue_keeps
    | with_reducible apply State.olcTick_keeps
    | with_reducible apply State.joinTick_keeps
    | with_reducible apply State.windowTick_keeps
    | with_reducible apply State.rejectTick_keeps
    | with_reducible apply State.clockTick_keeps
    | with_reducible apply State.openRecords_keeps
    | with_reducible apply State.displayTick_keeps
    | fail_if_no_progress (with_reducible refine Keeps.upd ?_ rfl rfl rfl rfl rfl rfl)

end Sys2Proof.Machine
end

