-- ==== Sys2Proof/Laws/State.lean ====
section
/-! SUPPORT. What each update of the state leaves as it is, field by field, and what a read of the register file returns after a write: the small
lemmas that later proofs cite in place of unfolding a record update. -/
namespace Sys2Proof.Machine

/-! ### The register file -/

/-- A field reads as the value written, at its width. -/
theorem getF_setF_self (s : State) (f : Fld) (v ix : Nat) (h : tabRising s.regs = true) : (s.setF f v ix).getF f ix = v % 2 ^ f.w := by
  unfold State.getF State.setF tabGet
  dsimp only
  split
  · next e => rw [tabGet?_tabDel_self _ _ h]; exact e.symm
  · rw [tabGet?_tabSet_self]; rfl

/-- Another instance or another field reads as before. -/
theorem getF_setF_ne (s : State) {f g : Fld} (v : Nat) {ix iy : Nat} (h : tabRising s.regs = true) (hk : g.key iy ≠ f.key ix) :
    (s.setF f v ix).getF g iy = s.getF g iy := by
  unfold State.getF State.setF tabGet
  dsimp only
  split
  · rw [tabGet?_tabDel_ne _ h hk]
  · rw [tabGet?_tabSet_ne _ _ hk]

/-- The register file stays in its canonical form. -/
theorem regs_setF_rising (s : State) (f : Fld) (v ix : Nat) (h : tabRising s.regs = true) : tabRising (s.setF f v ix).regs = true := by
  unfold State.setF
  dsimp only
  split
  · exact tabRising_tabDel _ _ h
  · exact tabRising_tabSet _ _ _ h

/-- A saturating counter reads as its old value and the step, at most all ones. -/
theorem getF_bump_self (s : State) (f : Fld) (ix n : Nat) (h : tabRising s.regs = true) :
    (s.bump f ix n).getF f ix = sat f.w (s.getF f ix + n) % 2 ^ f.w := getF_setF_self s f _ ix h

/-- The two parts of a key: the field's place in the set-up window and the instance. -/
theorem key_ne_of_ix {f g : Fld} {ix iy : Nat} (h : ix % 65536 ≠ iy % 65536) : f.key ix ≠ g.key iy := by
  unfold Fld.key; omega

/-- Two fields at different places have different instances. -/
theorem key_ne_of_place {f g : Fld} {ix iy : Nat} (hx : ix < 65536) (hy : iy < 65536) (h : f.off * 32 + f.lo ≠ g.off * 32 + g.lo) :
    f.key ix ≠ g.key iy := by
  unfold Fld.key; omega

/-! ### setF -/

/-- `setF` leaves `pending` as it is. -/
@[simp] theorem State.setF_pending (s : State) (f : Fld) (v ix : Nat) : (s.setF f v ix).pending = s.pending := rfl
/-- `setF` leaves `due` as it is. -/
@[simp] theorem State.setF_due (s : State) (f : Fld) (v ix : Nat) : (s.setF f v ix).due = s.due := rfl
/-- `setF` leaves `out` as it is. -/
@[simp] theorem State.setF_out (s : State) (f : Fld) (v ix : Nat) : (s.setF f v ix).out = s.out := rfl
/-- `setF` leaves `fresh` as it is. -/
@[simp] theorem State.setF_fresh (s : State) (f : Fld) (v ix : Nat) : (s.setF f v ix).fresh = s.fresh := rfl
/-- `setF` leaves `now` as it is. -/
@[simp] theorem State.setF_now (s : State) (f : Fld) (v ix : Nat) : (s.setF f v ix).now = s.now := rfl
/-- `setF` leaves `tick` as it is. -/
@[simp] theorem State.setF_tick (s : State) (f : Fld) (v ix : Nat) : (s.setF f v ix).tick = s.tick := rfl
/-- `setF` leaves `sq` as it is. -/
@[simp] theorem State.setF_sq (s : State) (f : Fld) (v ix : Nat) : (s.setF f v ix).sq = s.sq := rfl
/-- `setF` leaves `sched` as it is. -/
@[simp] theorem State.setF_sched (s : State) (f : Fld) (v ix : Nat) : (s.setF f v ix).sched = s.sched := rfl
/-- `setF` leaves `lanes` as it is. -/
@[simp] theorem State.setF_lanes (s : State) (f : Fld) (v ix : Nat) : (s.setF f v ix).lanes = s.lanes := rfl
/-- `setF` leaves `pkgs` as it is. -/
@[simp] theorem State.setF_pkgs (s : State) (f : Fld) (v ix : Nat) : (s.setF f v ix).pkgs = s.pkgs := rfl
/-- `setF` leaves `arc` as it is. -/
@[simp] theorem State.setF_arc (s : State) (f : Fld) (v ix : Nat) : (s.setF f v ix).arc = s.arc := rfl
/-- `setF` leaves `wins` as it is. -/
@[simp] theorem State.setF_wins (s : State) (f : Fld) (v ix : Nat) : (s.setF f v ix).wins = s.wins := rfl
/-- `setF` leaves `io` as it is. -/
@[simp] theorem State.setF_io (s : State) (f : Fld) (v ix : Nat) : (s.setF f v ix).io = s.io := rfl
/-- `setF` leaves `can` as it is. -/
@[simp] theorem State.setF_can (s : State) (f : Fld) (v ix : Nat) : (s.setF f v ix).can = s.can := rfl
/-- `setF` leaves `pair` as it is. -/
@[simp] theorem State.setF_pair (s : State) (f : Fld) (v ix : Nat) : (s.setF f v ix).pair = s.pair := rfl
/-- `setF` leaves `plant` as it is. -/
@[simp] theorem State.setF_plant (s : State) (f : Fld) (v ix : Nat) : (s.setF f v ix).plant = s.plant := rfl
/-- `setF` leaves `host` as it is. -/
@[simp] theorem State.setF_host (s : State) (f : Fld) (v ix : Nat) : (s.setF f v ix).host = s.host := rfl
/-- `setF` leaves `kerb` as it is. -/
@[simp] theorem State.setF_kerb (s : State) (f : Fld) (v ix : Nat) : (s.setF f v ix).kerb = s.kerb := rfl
/-- `setF` leaves `imv` as it is. -/
@[simp] theorem State.setF_imv (s : State) (f : Fld) (v ix : Nat) : (s.setF f v ix).imv = s.imv := rfl
/-- `setF` leaves `olc` as it is. -/
@[simp] theorem State.setF_olc (s : State) (f : Fld) (v ix : Nat) : (s.setF f v ix).olc = s.olc := rfl
/-- `setF` leaves `setup` as it is. -/
@[simp] theorem State.setF_setup (s : State) (f : Fld) (v ix : Nat) : (s.setF f v ix).setup = s.setup := rfl

/-! ### setB -/

/-- `setB` leaves `pending` as it is. -/
@[simp] theorem State.setB_pending (s : State) (f : Fld) (b : Bool) (ix : Nat) : (s.setB f b ix).pending = s.pending := rfl
/-- `setB` leaves `due` as it is. -/
@[simp] theorem State.setB_due (s : State) (f : Fld) (b : Bool) (ix : Nat) : (s.setB f b ix).due = s.due := rfl
/-- `setB` leaves `out` as it is. -/
@[simp] theorem State.setB_out (s : State) (f : Fld) (b : Bool) (ix : Nat) : (s.setB f b ix).out = s.out := rfl
/-- `setB` leaves `fresh` as it is. -/
@[simp] theorem State.setB_fresh (s : State) (f : Fld) (b : Bool) (ix : Nat) : (s.setB f b ix).fresh = s.fresh := rfl
/-- `setB` leaves `now` as it is. -/
@[simp] theorem State.setB_now (s : State) (f : Fld) (b : Bool) (ix : Nat) : (s.setB f b ix).now = s.now := rfl
/-- `setB` leaves `tick` as it is. -/
@[simp] theorem State.setB_tick (s : State) (f : Fld) (b : Bool) (ix : Nat) : (s.setB f b ix).tick = s.tick := rfl
/-- `setB` leaves `sq` as it is. -/
@[simp] theorem State.setB_sq (s : State) (f : Fld) (b : Bool) (ix : Nat) : (s.setB f b ix).sq = s.sq := rfl
/-- `setB` leaves `sched` as it is. -/
@[simp] theorem State.setB_sched (s : State) (f : Fld) (b : Bool) (ix : Nat) : (s.setB f b ix).sched = s.sched := rfl
/-- `setB` leaves `lanes` as it is. -/
@[simp] theorem State.setB_lanes (s : State) (f : Fld) (b : Bool) (ix : Nat) : (s.setB f b ix).lanes = s.lanes := rfl
/-- `setB` leaves `pkgs` as it is. -/
@[simp] theorem State.setB_pkgs (s : State) (f : Fld) (b : Bool) (ix : Nat) : (s.setB f b ix).pkgs = s.pkgs := rfl
/-- `setB` leaves `arc` as it is. -/
@[simp] theorem State.setB_arc (s : State) (f : Fld) (b : Bool) (ix : Nat) : (s.setB f b ix).arc = s.arc := rfl
/-- `setB` leaves `wins` as it is. -/
@[simp] theorem State.setB_wins (s : State) (f : Fld) (b : Bool) (ix : Nat) : (s.setB f b ix).wins = s.wins := rfl
/-- `setB` leaves `io` as it is. -/
@[simp] theorem State.setB_io (s : State) (f : Fld) (b : Bool) (ix : Nat) : (s.setB f b ix).io = s.io := rfl
/-- `setB` leaves `can` as it is. -/
@[simp] theorem State.setB_can (s : State) (f : Fld) (b : Bool) (ix : Nat) : (s.setB f b ix).can = s.can := rfl
/-- `setB` leaves `pair` as it is. -/
@[simp] theorem State.setB_pair (s : State) (f : Fld) (b : Bool) (ix : Nat) : (s.setB f b ix).pair = s.pair := rfl
/-- `setB` leaves `plant` as it is. -/
@[simp] theorem State.setB_plant (s : State) (f : Fld) (b : Bool) (ix : Nat) : (s.setB f b ix).plant = s.plant := rfl
/-- `setB` leaves `host` as it is. -/
@[simp] theorem State.setB_host (s : State) (f : Fld) (b : Bool) (ix : Nat) : (s.setB f b ix).host = s.host := rfl
/-- `setB` leaves `kerb` as it is. -/
@[simp] theorem State.setB_kerb (s : State) (f : Fld) (b : Bool) (ix : Nat) : (s.setB f b ix).kerb = s.kerb := rfl
/-- `setB` leaves `imv` as it is. -/
@[simp] theorem State.setB_imv (s : State) (f : Fld) (b : Bool) (ix : Nat) : (s.setB f b ix).imv = s.imv := rfl
/-- `setB` leaves `olc` as it is. -/
@[simp] theorem State.setB_olc (s : State) (f : Fld) (b : Bool) (ix : Nat) : (s.setB f b ix).olc = s.olc := rfl
/-- `setB` leaves `setup` as it is. -/
@[simp] theorem State.setB_setup (s : State) (f : Fld) (b : Bool) (ix : Nat) : (s.setB f b ix).setup = s.setup := rfl

/-! ### bump -/

/-- `bump` leaves `pending` as it is. -/
@[simp] theorem State.bump_pending (s : State) (f : Fld) (ix n : Nat) : (s.bump f ix n).pending = s.pending := rfl
/-- `bump` leaves `due` as it is. -/
@[simp] theorem State.bump_due (s : State) (f : Fld) (ix n : Nat) : (s.bump f ix n).due = s.due := rfl
/-- `bump` leaves `out` as it is. -/
@[simp] theorem State.bump_out (s : State) (f : Fld) (ix n : Nat) : (s.bump f ix n).out = s.out := rfl
/-- `bump` leaves `fresh` as it is. -/
@[simp] theorem State.bump_fresh (s : State) (f : Fld) (ix n : Nat) : (s.bump f ix n).fresh = s.fresh := rfl
/-- `bump` leaves `now` as it is. -/
@[simp] theorem State.bump_now (s : State) (f : Fld) (ix n : Nat) : (s.bump f ix n).now = s.now := rfl
/-- `bump` leaves `tick` as it is. -/
@[simp] theorem State.bump_tick (s : State) (f : Fld) (ix n : Nat) : (s.bump f ix n).tick = s.tick := rfl
/-- `bump` leaves `sq` as it is. -/
@[simp] theorem State.bump_sq (s : State) (f : Fld) (ix n : Nat) : (s.bump f ix n).sq = s.sq := rfl
/-- `bump` leaves `sched` as it is. -/
@[simp] theorem State.bump_sched (s : State) (f : Fld) (ix n : Nat) : (s.bump f ix n).sched = s.sched := rfl
/-- `bump` leaves `lanes` as it is. -/
@[simp] theorem State.bump_lanes (s : State) (f : Fld) (ix n : Nat) : (s.bump f ix n).lanes = s.lanes := rfl
/-- `bump` leaves `pkgs` as it is. -/
@[simp] theorem State.bump_pkgs (s : State) (f : Fld) (ix n : Nat) : (s.bump f ix n).pkgs = s.pkgs := rfl
/-- `bump` leaves `arc` as it is. -/
@[simp] theorem State.bump_arc (s : State) (f : Fld) (ix n : Nat) : (s.bump f ix n).arc = s.arc := rfl
/-- `bump` leaves `wins` as it is. -/
@[simp] theorem State.bump_wins (s : State) (f : Fld) (ix n : Nat) : (s.bump f ix n).wins = s.wins := rfl
/-- `bump` leaves `io` as it is. -/
@[simp] theorem State.bump_io (s : State) (f : Fld) (ix n : Nat) : (s.bump f ix n).io = s.io := rfl
/-- `bump` leaves `can` as it is. -/
@[simp] theorem State.bump_can (s : State) (f : Fld) (ix n : Nat) : (s.bump f ix n).can = s.can := rfl
/-- `bump` leaves `pair` as it is. -/
@[simp] theorem State.bump_pair (s : State) (f : Fld) (ix n : Nat) : (s.bump f ix n).pair = s.pair := rfl
/-- `bump` leaves `plant` as it is. -/
@[simp] theorem State.bump_plant (s : State) (f : Fld) (ix n : Nat) : (s.bump f ix n).plant = s.plant := rfl
/-- `bump` leaves `host` as it is. -/
@[simp] theorem State.bump_host (s : State) (f : Fld) (ix n : Nat) : (s.bump f ix n).host = s.host := rfl
/-- `bump` leaves `kerb` as it is. -/
@[simp] theorem State.bump_kerb (s : State) (f : Fld) (ix n : Nat) : (s.bump f ix n).kerb = s.kerb := rfl
/-- `bump` leaves `imv` as it is. -/
@[simp] theorem State.bump_imv (s : State) (f : Fld) (ix n : Nat) : (s.bump f ix n).imv = s.imv := rfl
/-- `bump` leaves `olc` as it is. -/
@[simp] theorem State.bump_olc (s : State) (f : Fld) (ix n : Nat) : (s.bump f ix n).olc = s.olc := rfl
/-- `bump` leaves `setup` as it is. -/
@[simp] theorem State.bump_setup (s : State) (f : Fld) (ix n : Nat) : (s.bump f ix n).setup = s.setup := rfl

/-! ### wrapUp -/

/-- `wrapUp` leaves `pending` as it is. -/
@[simp] theorem State.wrapUp_pending (s : State) (f : Fld) (ix : Nat) : (s.wrapUp f ix).pending = s.pending := rfl
/-- `wrapUp` leaves `due` as it is. -/
@[simp] theorem State.wrapUp_due (s : State) (f : Fld) (ix : Nat) : (s.wrapUp f ix).due = s.due := rfl
/-- `wrapUp` leaves `out` as it is. -/
@[simp] theorem State.wrapUp_out (s : State) (f : Fld) (ix : Nat) : (s.wrapUp f ix).out = s.out := rfl
/-- `wrapUp` leaves `fresh` as it is. -/
@[simp] theorem State.wrapUp_fresh (s : State) (f : Fld) (ix : Nat) : (s.wrapUp f ix).fresh = s.fresh := rfl
/-- `wrapUp` leaves `now` as it is. -/
@[simp] theorem State.wrapUp_now (s : State) (f : Fld) (ix : Nat) : (s.wrapUp f ix).now = s.now := rfl
/-- `wrapUp` leaves `tick` as it is. -/
@[simp] theorem State.wrapUp_tick (s : State) (f : Fld) (ix : Nat) : (s.wrapUp f ix).tick = s.tick := rfl
/-- `wrapUp` leaves `sq` as it is. -/
@[simp] theorem State.wrapUp_sq (s : State) (f : Fld) (ix : Nat) : (s.wrapUp f ix).sq = s.sq := rfl
/-- `wrapUp` leaves `sched` as it is. -/
@[simp] theorem State.wrapUp_sched (s : State) (f : Fld) (ix : Nat) : (s.wrapUp f ix).sched = s.sched := rfl
/-- `wrapUp` leaves `lanes` as it is. -/
@[simp] theorem State.wrapUp_lanes (s : State) (f : Fld) (ix : Nat) : (s.wrapUp f ix).lanes = s.lanes := rfl
/-- `wrapUp` leaves `pkgs` as it is. -/
@[simp] theorem State.wrapUp_pkgs (s : State) (f : Fld) (ix : Nat) : (s.wrapUp f ix).pkgs = s.pkgs := rfl
/-- `wrapUp` leaves `arc` as it is. -/
@[simp] theorem State.wrapUp_arc (s : State) (f : Fld) (ix : Nat) : (s.wrapUp f ix).arc = s.arc := rfl
/-- `wrapUp` leaves `wins` as it is. -/
@[simp] theorem State.wrapUp_wins (s : State) (f : Fld) (ix : Nat) : (s.wrapUp f ix).wins = s.wins := rfl
/-- `wrapUp` leaves `io` as it is. -/
@[simp] theorem State.wrapUp_io (s : State) (f : Fld) (ix : Nat) : (s.wrapUp f ix).io = s.io := rfl
/-- `wrapUp` leaves `can` as it is. -/
@[simp] theorem State.wrapUp_can (s : State) (f : Fld) (ix : Nat) : (s.wrapUp f ix).can = s.can := rfl
/-- `wrapUp` leaves `pair` as it is. -/
@[simp] theorem State.wrapUp_pair (s : State) (f : Fld) (ix : Nat) : (s.wrapUp f ix).pair = s.pair := rfl
/-- `wrapUp` leaves `plant` as it is. -/
@[simp] theorem State.wrapUp_plant (s : State) (f : Fld) (ix : Nat) : (s.wrapUp f ix).plant = s.plant := rfl
/-- `wrapUp` leaves `host` as it is. -/
@[simp] theorem State.wrapUp_host (s : State) (f : Fld) (ix : Nat) : (s.wrapUp f ix).host = s.host := rfl
/-- `wrapUp` leaves `kerb` as it is. -/
@[simp] theorem State.wrapUp_kerb (s : State) (f : Fld) (ix : Nat) : (s.wrapUp f ix).kerb = s.kerb := rfl
/-- `wrapUp` leaves `imv` as it is. -/
@[simp] theorem State.wrapUp_imv (s : State) (f : Fld) (ix : Nat) : (s.wrapUp f ix).imv = s.imv := rfl
/-- `wrapUp` leaves `olc` as it is. -/
@[simp] theorem State.wrapUp_olc (s : State) (f : Fld) (ix : Nat) : (s.wrapUp f ix).olc = s.olc := rfl
/-- `wrapUp` leaves `setup` as it is. -/
@[simp] theorem State.wrapUp_setup (s : State) (f : Fld) (ix : Nat) : (s.wrapUp f ix).setup = s.setup := rfl

/-! ### set64 -/

/-- `set64` leaves `pending` as it is. -/
@[simp] theorem State.set64_pending (s : State) (lo hi : Fld) (v ix : Nat) : (s.set64 lo hi v ix).pending = s.pending := rfl
/-- `set64` leaves `due` as it is. -/
@[simp] theorem State.set64_due (s : State) (lo hi : Fld) (v ix : Nat) : (s.set64 lo hi v ix).due = s.due := rfl
/-- `set64` leaves `out` as it is. -/
@[simp] theorem State.set64_out (s : State) (lo hi : Fld) (v ix : Nat) : (s.set64 lo hi v ix).out = s.out := rfl
/-- `set64` leaves `fresh` as it is. -/
@[simp] theorem State.set64_fresh (s : State) (lo hi : Fld) (v ix : Nat) : (s.set64 lo hi v ix).fresh = s.fresh := rfl
/-- `set64` leaves `now` as it is. -/
@[simp] theorem State.set64_now (s : State) (lo hi : Fld) (v ix : Nat) : (s.set64 lo hi v ix).now = s.now := rfl
/-- `set64` leaves `tick` as it is. -/
@[simp] theorem State.set64_tick (s : State) (lo hi : Fld) (v ix : Nat) : (s.set64 lo hi v ix).tick = s.tick := rfl
/-- `set64` leaves `sq` as it is. -/
@[simp] theorem State.set64_sq (s : State) (lo hi : Fld) (v ix : Nat) : (s.set64 lo hi v ix).sq = s.sq := rfl
/-- `set64` leaves `sched` as it is. -/
@[simp] theorem State.set64_sched (s : State) (lo hi : Fld) (v ix : Nat) : (s.set64 lo hi v ix).sched = s.sched := rfl
/-- `set64` leaves `lanes` as it is. -/
@[simp] theorem State.set64_lanes (s : State) (lo hi : Fld) (v ix : Nat) : (s.set64 lo hi v ix).lanes = s.lanes := rfl
/-- `set64` leaves `pkgs` as it is. -/
@[simp] theorem State.set64_pkgs (s : State) (lo hi : Fld) (v ix : Nat) : (s.set64 lo hi v ix).pkgs = s.pkgs := rfl
/-- `set64` leaves `arc` as it is. -/
@[simp] theorem State.set64_arc (s : State) (lo hi : Fld) (v ix : Nat) : (s.set64 lo hi v ix).arc = s.arc := rfl
/-- `set64` leaves `wins` as it is. -/
@[simp] theorem State.set64_wins (s : State) (lo hi : Fld) (v ix : Nat) : (s.set64 lo hi v ix).wins = s.wins := rfl
/-- `set64` leaves `io` as it is. -/
@[simp] theorem State.set64_io (s : State) (lo hi : Fld) (v ix : Nat) : (s.set64 lo hi v ix).io = s.io := rfl
/-- `set64` leaves `can` as it is. -/
@[simp] theorem State.set64_can (s : State) (lo hi : Fld) (v ix : Nat) : (s.set64 lo hi v ix).can = s.can := rfl
/-- `set64` leaves `pair` as it is. -/
@[simp] theorem State.set64_pair (s : State) (lo hi : Fld) (v ix : Nat) : (s.set64 lo hi v ix).pair = s.pair := rfl
/-- `set64` leaves `plant` as it is. -/
@[simp] theorem State.set64_plant (s : State) (lo hi : Fld) (v ix : Nat) : (s.set64 lo hi v ix).plant = s.plant := rfl
/-- `set64` leaves `host` as it is. -/
@[simp] theorem State.set64_host (s : State) (lo hi : Fld) (v ix : Nat) : (s.set64 lo hi v ix).host = s.host := rfl
/-- `set64` leaves `kerb` as it is. -/
@[simp] theorem State.set64_kerb (s : State) (lo hi : Fld) (v ix : Nat) : (s.set64 lo hi v ix).kerb = s.kerb := rfl
/-- `set64` leaves `imv` as it is. -/
@[simp] theorem State.set64_imv (s : State) (lo hi : Fld) (v ix : Nat) : (s.set64 lo hi v ix).imv = s.imv := rfl
/-- `set64` leaves `olc` as it is. -/
@[simp] theorem State.set64_olc (s : State) (lo hi : Fld) (v ix : Nat) : (s.set64 lo hi v ix).olc = s.olc := rfl
/-- `set64` leaves `setup` as it is. -/
@[simp] theorem State.set64_setup (s : State) (lo hi : Fld) (v ix : Nat) : (s.set64 lo hi v ix).setup = s.setup := rfl

/-! ### setLater -/

/-- `setLater` leaves `pending` as it is. -/
@[simp] theorem State.setLater_pending (s : State) (w : When) (f : Fld) (v ix : Nat) : (s.setLater w f v ix).pending = s.pending := rfl
/-- `setLater` leaves `regs` as it is. -/
@[simp] theorem State.setLater_regs (s : State) (w : When) (f : Fld) (v ix : Nat) : (s.setLater w f v ix).regs = s.regs := rfl
/-- `setLater` leaves `out` as it is. -/
@[simp] theorem State.setLater_out (s : State) (w : When) (f : Fld) (v ix : Nat) : (s.setLater w f v ix).out = s.out := rfl
/-- `setLater` leaves `fresh` as it is. -/
@[simp] theorem State.setLater_fresh (s : State) (w : When) (f : Fld) (v ix : Nat) : (s.setLater w f v ix).fresh = s.fresh := rfl
/-- `setLater` leaves `now` as it is. -/
@[simp] theorem State.setLater_now (s : State) (w : When) (f : Fld) (v ix : Nat) : (s.setLater w f v ix).now = s.now := rfl
/-- `setLater` leaves `tick` as it is. -/
@[simp] theorem State.setLater_tick (s : State) (w : When) (f : Fld) (v ix : Nat) : (s.setLater w f v ix).tick = s.tick := rfl
/-- `setLater` leaves `sq` as it is. -/
@[simp] theorem State.setLater_sq (s : State) (w : When) (f : Fld) (v ix : Nat) : (s.setLater w f v ix).sq = s.sq := rfl
/-- `setLater` leaves `sched` as it is. -/
@[simp] theorem State.setLater_sched (s : State) (w : When) (f : Fld) (v ix : Nat) : (s.setLater w f v ix).sched = s.sched := rfl
/-- `setLater` leaves `lanes` as it is. -/
@[simp] theorem State.setLater_lanes (s : State) (w : When) (f : Fld) (v ix : Nat) : (s.setLater w f v ix).lanes = s.lanes := rfl
/-- `setLater` leaves `pkgs` as it is. -/
@[simp] theorem State.setLater_pkgs (s : State) (w : When) (f : Fld) (v ix : Nat) : (s.setLater w f v ix).pkgs = s.pkgs := rfl
/-- `setLater` leaves `arc` as it is. -/
@[simp] theorem State.setLater_arc (s : State) (w : When) (f : Fld) (v ix : Nat) : (s.setLater w f v ix).arc = s.arc := rfl
/-- `setLater` leaves `wins` as it is. -/
@[simp] theorem State.setLater_wins (s : State) (w : When) (f : Fld) (v ix : Nat) : (s.setLater w f v ix).wins = s.wins := rfl
/-- `setLater` leaves `io` as it is. -/
@[simp] theorem State.setLater_io (s : State) (w : When) (f : Fld) (v ix : Nat) : (s.setLater w f v ix).io = s.io := rfl
/-- `setLater` leaves `can` as it is. -/
@[simp] theorem State.setLater_can (s : State) (w : When) (f : Fld) (v ix : Nat) : (s.setLater w f v ix).can = s.can := rfl
/-- `setLater` leaves `pair` as it is. -/
@[simp] theorem State.setLater_pair (s : State) (w : When) (f : Fld) (v ix : Nat) : (s.setLater w f v ix).pair = s.pair := rfl
/-- `setLater` leaves `plant` as it is. -/
@[simp] theorem State.setLater_plant (s : State) (w : When) (f : Fld) (v ix : Nat) : (s.setLater w f v ix).plant = s.plant := rfl
/-- `setLater` leaves `host` as it is. -/
@[simp] theorem State.setLater_host (s : State) (w : When) (f : Fld) (v ix : Nat) : (s.setLater w f v ix).host = s.host := rfl
/-- `setLater` leaves `kerb` as it is. -/
@[simp] theorem State.setLater_kerb (s : State) (w : When) (f : Fld) (v ix : Nat) : (s.setLater w f v ix).kerb = s.kerb := rfl
/-- `setLater` leaves `imv` as it is. -/
@[simp] theorem State.setLater_imv (s : State) (w : When) (f : Fld) (v ix : Nat) : (s.setLater w f v ix).imv = s.imv := rfl
/-- `setLater` leaves `olc` as it is. -/
@[simp] theorem State.setLater_olc (s : State) (w : When) (f : Fld) (v ix : Nat) : (s.setLater w f v ix).olc = s.olc := rfl
/-- `setLater` leaves `setup` as it is. -/
@[simp] theorem State.setLater_setup (s : State) (w : When) (f : Fld) (v ix : Nat) : (s.setLater w f v ix).setup = s.setup := rfl

/-! ### applyDue -/

/-- `applyDue` leaves `pending` as it is. -/
@[simp] theorem State.applyDue_pending (s : State) (w : When) : (s.applyDue w).pending = s.pending := rfl
/-- `applyDue` leaves `out` as it is. -/
@[simp] theorem State.applyDue_out (s : State) (w : When) : (s.applyDue w).out = s.out := rfl
/-- `applyDue` leaves `fresh` as it is. -/
@[simp] theorem State.applyDue_fresh (s : State) (w : When) : (s.applyDue w).fresh = s.fresh := rfl
/-- `applyDue` leaves `now` as it is. -/
@[simp] theorem State.applyDue_now (s : State) (w : When) : (s.applyDue w).now = s.now := rfl
/-- `applyDue` leaves `tick` as it is. -/
@[simp] theorem State.applyDue_tick (s : State) (w : When) : (s.applyDue w).tick = s.tick := rfl
/-- `applyDue` leaves `sq` as it is. -/
@[simp] theorem State.applyDue_sq (s : State) (w : When) : (s.applyDue w).sq = s.sq := rfl
/-- `applyDue` leaves `sched` as it is. -/
@[simp] theorem State.applyDue_sched (s : State) (w : When) : (s.applyDue w).sched = s.sched := rfl
/-- `applyDue` leaves `lanes` as it is. -/
@[simp] theorem State.applyDue_lanes (s : State) (w : When) : (s.applyDue w).lanes = s.lanes := rfl
/-- `applyDue` leaves `pkgs` as it is. -/
@[simp] theorem State.applyDue_pkgs (s : State) (w : When) : (s.applyDue w).pkgs = s.pkgs := rfl
/-- `applyDue` leaves `arc` as it is. -/
@[simp] theorem State.applyDue_arc (s : State) (w : When) : (s.applyDue w).arc = s.arc := rfl
/-- `applyDue` leaves `wins` as it is. -/
@[simp] theorem State.applyDue_wins (s : State) (w : When) : (s.applyDue w).wins = s.wins := rfl
/-- `applyDue` leaves `io` as it is. -/
@[simp] theorem State.applyDue_io (s : State) (w : When) : (s.applyDue w).io = s.io := rfl
/-- `applyDue` leaves `can` as it is. -/
@[simp] theorem State.applyDue_can (s : State) (w : When) : (s.applyDue w).can = s.can := rfl
/-- `applyDue` leaves `pair` as it is. -/
@[simp] theorem State.applyDue_pair (s : State) (w : When) : (s.applyDue w).pair = s.pair := rfl
/-- `applyDue` leaves `plant` as it is. -/
@[simp] theorem State.applyDue_plant (s : State) (w : When) : (s.applyDue w).plant = s.plant := rfl
/-- `applyDue` leaves `host` as it is. -/
@[simp] theorem State.applyDue_host (s : State) (w : When) : (s.applyDue w).host = s.host := rfl
/-- `applyDue` leaves `kerb` as it is. -/
@[simp] theorem State.applyDue_kerb (s : State) (w : When) : (s.applyDue w).kerb = s.kerb := rfl
/-- `applyDue` leaves `imv` as it is. -/
@[simp] theorem State.applyDue_imv (s : State) (w : When) : (s.applyDue w).imv = s.imv := rfl
/-- `applyDue` leaves `olc` as it is. -/
@[simp] theorem State.applyDue_olc (s : State) (w : When) : (s.applyDue w).olc = s.olc := rfl
/-- `applyDue` leaves `setup` as it is. -/
@[simp] theorem State.applyDue_setup (s : State) (w : When) : (s.applyDue w).setup = s.setup := rfl

/-! ### emit -/

/-- `emit` leaves `pending` as it is. -/
@[simp] theorem State.emit_pending (s : State) (ch : OutCh) (k : Nat) (l : List Nat) (d : List Byte) : (s.emit ch k l d).pending = s.pending := rfl
/-- `emit` leaves `regs` as it is. -/
@[simp] theorem State.emit_regs (s : State) (ch : OutCh) (k : Nat) (l : List Nat) (d : List Byte) : (s.emit ch k l d).regs = s.regs := rfl
/-- `emit` leaves `due` as it is. -/
@[simp] theorem State.emit_due (s : State) (ch : OutCh) (k : Nat) (l : List Nat) (d : List Byte) : (s.emit ch k l d).due = s.due := rfl
/-- `emit` leaves `fresh` as it is. -/
@[simp] theorem State.emit_fresh (s : State) (ch : OutCh) (k : Nat) (l : List Nat) (d : List Byte) : (s.emit ch k l d).fresh = s.fresh := rfl
/-- `emit` leaves `now` as it is. -/
@[simp] theorem State.emit_now (s : State) (ch : OutCh) (k : Nat) (l : List Nat) (d : List Byte) : (s.emit ch k l d).now = s.now := rfl
/-- `emit` leaves `tick` as it is. -/
@[simp] theorem State.emit_tick (s : State) (ch : OutCh) (k : Nat) (l : List Nat) (d : List Byte) : (s.emit ch k l d).tick = s.tick := rfl
/-- `emit` leaves `sq` as it is. -/
@[simp] theorem State.emit_sq (s : State) (ch : OutCh) (k : Nat) (l : List Nat) (d : List Byte) : (s.emit ch k l d).sq = s.sq := rfl
/-- `emit` leaves `sched` as it is. -/
@[simp] theorem State.emit_sched (s : State) (ch : OutCh) (k : Nat) (l : List Nat) (d : List Byte) : (s.emit ch k l d).sched = s.sched := rfl
/-- `emit` leaves `lanes` as it is. -/
@[simp] theorem State.emit_lanes (s : State) (ch : OutCh) (k : Nat) (l : List Nat) (d : List Byte) : (s.emit ch k l d).lanes = s.lanes := rfl
/-- `emit` leaves `pkgs` as it is. -/
@[simp] theorem State.emit_pkgs (s : State) (ch : OutCh) (k : Nat) (l : List Nat) (d : List Byte) : (s.emit ch k l d).pkgs = s.pkgs := rfl
/-- `emit` leaves `arc` as it is. -/
@[simp] theorem State.emit_arc (s : State) (ch : OutCh) (k : Nat) (l : List Nat) (d : List Byte) : (s.emit ch k l d).arc = s.arc := rfl
/-- `emit` leaves `wins` as it is. -/
@[simp] theorem State.emit_wins (s : State) (ch : OutCh) (k : Nat) (l : List Nat) (d : List Byte) : (s.emit ch k l d).wins = s.wins := rfl
/-- `emit` leaves `io` as it is. -/
@[simp] theorem State.emit_io (s : State) (ch : OutCh) (k : Nat) (l : List Nat) (d : List Byte) : (s.emit ch k l d).io = s.io := rfl
/-- `emit` leaves `can` as it is. -/
@[simp] theorem State.emit_can (s : State) (ch : OutCh) (k : Nat) (l : List Nat) (d : List Byte) : (s.emit ch k l d).can = s.can := rfl
/-- `emit` leaves `pair` as it is. -/
@[simp] theorem State.emit_pair (s : State) (ch : OutCh) (k : Nat) (l : List Nat) (d : List Byte) : (s.emit ch k l d).pair = s.pair := rfl
/-- `emit` leaves `plant` as it is. -/
@[simp] theorem State.emit_plant (s : State) (ch : OutCh) (k : Nat) (l : List Nat) (d : List Byte) : (s.emit ch k l d).plant = s.plant := rfl
/-- `emit` leaves `host` as it is. -/
@[simp] theorem State.emit_host (s : State) (ch : OutCh) (k : Nat) (l : List Nat) (d : List Byte) : (s.emit ch k l d).host = s.host := rfl
/-- `emit` leaves `kerb` as it is. -/
@[simp] theorem State.emit_kerb (s : State) (ch : OutCh) (k : Nat) (l : List Nat) (d : List Byte) : (s.emit ch k l d).kerb = s.kerb := rfl
/-- `emit` leaves `imv` as it is. -/
@[simp] theorem State.emit_imv (s : State) (ch : OutCh) (k : Nat) (l : List Nat) (d : List Byte) : (s.emit ch k l d).imv = s.imv := rfl
/-- `emit` leaves `olc` as it is. -/
@[simp] theorem State.emit_olc (s : State) (ch : OutCh) (k : Nat) (l : List Nat) (d : List Byte) : (s.emit ch k l d).olc = s.olc := rfl
/-- `emit` leaves `setup` as it is. -/
@[simp] theorem State.emit_setup (s : State) (ch : OutCh) (k : Nat) (l : List Nat) (d : List Byte) : (s.emit ch k l d).setup = s.setup := rfl

/-! ### modTask -/

/-- `modTask` leaves `pending` as it is. -/
@[simp] theorem State.modTask_pending (s : State) (t : Nat) (f : TaskRt → TaskRt) : (s.modTask t f).pending = s.pending := rfl
/-- `modTask` leaves `regs` as it is. -/
@[simp] theorem State.modTask_regs (s : State) (t : Nat) (f : TaskRt → TaskRt) : (s.modTask t f).regs = s.regs := rfl
/-- `modTask` leaves `due` as it is. -/
@[simp] theorem State.modTask_due (s : State) (t : Nat) (f : TaskRt → TaskRt) : (s.modTask t f).due = s.due := rfl
/-- `modTask` leaves `out` as it is. -/
@[simp] theorem State.modTask_out (s : State) (t : Nat) (f : TaskRt → TaskRt) : (s.modTask t f).out = s.out := rfl
/-- `modTask` leaves `fresh` as it is. -/
@[simp] theorem State.modTask_fresh (s : State) (t : Nat) (f : TaskRt → TaskRt) : (s.modTask t f).fresh = s.fresh := rfl
/-- `modTask` leaves `now` as it is. -/
@[simp] theorem State.modTask_now (s : State) (t : Nat) (f : TaskRt → TaskRt) : (s.modTask t f).now = s.now := rfl
/-- `modTask` leaves `tick` as it is. -/
@[simp] theorem State.modTask_tick (s : State) (t : Nat) (f : TaskRt → TaskRt) : (s.modTask t f).tick = s.tick := rfl
/-- `modTask` leaves `sq` as it is. -/
@[simp] theorem State.modTask_sq (s : State) (t : Nat) (f : TaskRt → TaskRt) : (s.modTask t f).sq = s.sq := rfl
/-- `modTask` leaves `lanes` as it is. -/
@[simp] theorem State.modTask_lanes (s : State) (t : Nat) (f : TaskRt → TaskRt) : (s.modTask t f).lanes = s.lanes := rfl
/-- `modTask` leaves `pkgs` as it is. -/
@[simp] theorem State.modTask_pkgs (s : State) (t : Nat) (f : TaskRt → TaskRt) : (s.modTask t f).pkgs = s.pkgs := rfl
/-- `modTask` leaves `arc` as it is. -/
@[simp] theorem State.modTask_arc (s : State) (t : Nat) (f : TaskRt → TaskRt) : (s.modTask t f).arc = s.arc := rfl
/-- `modTask` leaves `wins` as it is. -/
@[simp] theorem State.modTask_wins (s : State) (t : Nat) (f : TaskRt → TaskRt) : (s.modTask t f).wins = s.wins := rfl
/-- `modTask` leaves `io` as it is. -/
@[simp] theorem State.modTask_io (s : State) (t : Nat) (f : TaskRt → TaskRt) : (s.modTask t f).io = s.io := rfl
/-- `modTask` leaves `can` as it is. -/
@[simp] theorem State.modTask_can (s : State) (t : Nat) (f : TaskRt → TaskRt) : (s.modTask t f).can = s.can := rfl
/-- `modTask` leaves `pair` as it is. -/
@[simp] theorem State.modTask_pair (s : State) (t : Nat) (f : TaskRt → TaskRt) : (s.modTask t f).pair = s.pair := rfl
/-- `modTask` leaves `plant` as it is. -/
@[simp] theorem State.modTask_plant (s : State) (t : Nat) (f : TaskRt → TaskRt) : (s.modTask t f).plant = s.plant := rfl
/-- `modTask` leaves `host` as it is. -/
@[simp] theorem State.modTask_host (s : State) (t : Nat) (f : TaskRt → TaskRt) : (s.modTask t f).host = s.host := rfl
/-- `modTask` leaves `kerb` as it is. -/
@[simp] theorem State.modTask_kerb (s : State) (t : Nat) (f : TaskRt → TaskRt) : (s.modTask t f).kerb = s.kerb := rfl
/-- `modTask` leaves `imv` as it is. -/
@[simp] theorem State.modTask_imv (s : State) (t : Nat) (f : TaskRt → TaskRt) : (s.modTask t f).imv = s.imv := rfl
/-- `modTask` leaves `olc` as it is. -/
@[simp] theorem State.modTask_olc (s : State) (t : Nat) (f : TaskRt → TaskRt) : (s.modTask t f).olc = s.olc := rfl
/-- `modTask` leaves `setup` as it is. -/
@[simp] theorem State.modTask_setup (s : State) (t : Nat) (f : TaskRt → TaskRt) : (s.modTask t f).setup = s.setup := rfl

/-! ### putRun -/

/-- `putRun` leaves `pending` as it is. -/
@[simp] theorem State.putRun_pending (s : State) (r : Run) : (s.putRun r).pending = s.pending := rfl
/-- `putRun` leaves `regs` as it is. -/
@[simp] theorem State.putRun_regs (s : State) (r : Run) : (s.putRun r).regs = s.regs := rfl
/-- `putRun` leaves `due` as it is. -/
@[simp] theorem State.putRun_due (s : State) (r : Run) : (s.putRun r).due = s.due := rfl
/-- `putRun` leaves `out` as it is. -/
@[simp] theorem State.putRun_out (s : State) (r : Run) : (s.putRun r).out = s.out := rfl
/-- `putRun` leaves `fresh` as it is. -/
@[simp] theorem State.putRun_fresh (s : State) (r : Run) : (s.putRun r).fresh = s.fresh := rfl
/-- `putRun` leaves `now` as it is. -/
@[simp] theorem State.putRun_now (s : State) (r : Run) : (s.putRun r).now = s.now := rfl
/-- `putRun` leaves `tick` as it is. -/
@[simp] theorem State.putRun_tick (s : State) (r : Run) : (s.putRun r).tick = s.tick := rfl
/-- `putRun` leaves `sq` as it is. -/
@[simp] theorem State.putRun_sq (s : State) (r : Run) : (s.putRun r).sq = s.sq := rfl
/-- `putRun` leaves `lanes` as it is. -/
@[simp] theorem State.putRun_lanes (s : State) (r : Run) : (s.putRun r).lanes = s.lanes := rfl
/-- `putRun` leaves `pkgs` as it is. -/
@[simp] theorem State.putRun_pkgs (s : State) (r : Run) : (s.putRun r).pkgs = s.pkgs := rfl
/-- `putRun` leaves `arc` as it is. -/
@[simp] theorem State.putRun_arc (s : State) (r : Run) : (s.putRun r).arc = s.arc := rfl
/-- `putRun` leaves `wins` as it is. -/
@[simp] theorem State.putRun_wins (s : State) (r : Run) : (s.putRun r).wins = s.wins := rfl
/-- `putRun` leaves `io` as it is. -/
@[simp] theorem State.putRun_io (s : State) (r : Run) : (s.putRun r).io = s.io := rfl
/-- `putRun` leaves `can` as it is. -/
@[simp] theorem State.putRun_can (s : State) (r : Run) : (s.putRun r).can = s.can := rfl
/-- `putRun` leaves `pair` as it is. -/
@[simp] theorem State.putRun_pair (s : State) (r : Run) : (s.putRun r).pair = s.pair := rfl
/-- `putRun` leaves `plant` as it is. -/
@[simp] theorem State.putRun_plant (s : State) (r : Run) : (s.putRun r).plant = s.plant := rfl
/-- `putRun` leaves `host` as it is. -/
@[simp] theorem State.putRun_host (s : State) (r : Run) : (s.putRun r).host = s.host := rfl
/-- `putRun` leaves `kerb` as it is. -/
@[simp] theorem State.putRun_kerb (s : State) (r : Run) : (s.putRun r).kerb = s.kerb := rfl
/-- `putRun` leaves `imv` as it is. -/
@[simp] theorem State.putRun_imv (s : State) (r : Run) : (s.putRun r).imv = s.imv := rfl
/-- `putRun` leaves `olc` as it is. -/
@[simp] theorem State.putRun_olc (s : State) (r : Run) : (s.putRun r).olc = s.olc := rfl
/-- `putRun` leaves `setup` as it is. -/
@[simp] theorem State.putRun_setup (s : State) (r : Run) : (s.putRun r).setup = s.setup := rfl

/-! ### delRun -/

/-- `delRun` leaves `pending` as it is. -/
@[simp] theorem State.delRun_pending (s : State) (c : Ctx) (t : Nat) : (s.delRun c t).pending = s.pending := rfl
/-- `delRun` leaves `regs` as it is. -/
@[simp] theorem State.delRun_regs (s : State) (c : Ctx) (t : Nat) : (s.delRun c t).regs = s.regs := rfl
/-- `delRun` leaves `due` as it is. -/
@[simp] theorem State.delRun_due (s : State) (c : Ctx) (t : Nat) : (s.delRun c t).due = s.due := rfl
/-- `delRun` leaves `out` as it is. -/
@[simp] theorem State.delRun_out (s : State) (c : Ctx) (t : Nat) : (s.delRun c t).out = s.out := rfl
/-- `delRun` leaves `fresh` as it is. -/
@[simp] theorem State.delRun_fresh (s : State) (c : Ctx) (t : Nat) : (s.delRun c t).fresh = s.fresh := rfl
/-- `delRun` leaves `now` as it is. -/
@[simp] theorem State.delRun_now (s : State) (c : Ctx) (t : Nat) : (s.delRun c t).now = s.now := rfl
/-- `delRun` leaves `tick` as it is. -/
@[simp] theorem State.delRun_tick (s : State) (c : Ctx) (t : Nat) : (s.delRun c t).tick = s.tick := rfl
/-- `delRun` leaves `sq` as it is. -/
@[simp] theorem State.delRun_sq (s : State) (c : Ctx) (t : Nat) : (s.delRun c t).sq = s.sq := rfl
/-- `delRun` leaves `lanes` as it is. -/
@[simp] theorem State.delRun_lanes (s : State) (c : Ctx) (t : Nat) : (s.delRun c t).lanes = s.lanes := rfl
/-- `delRun` leaves `pkgs` as it is. -/
@[simp] theorem State.delRun_pkgs (s : State) (c : Ctx) (t : Nat) : (s.delRun c t).pkgs = s.pkgs := rfl
/-- `delRun` leaves `arc` as it is. -/
@[simp] theorem State.delRun_arc (s : State) (c : Ctx) (t : Nat) : (s.delRun c t).arc = s.arc := rfl
/-- `delRun` leaves `wins` as it is. -/
@[simp] theorem State.delRun_wins (s : State) (c : Ctx) (t : Nat) : (s.delRun c t).wins = s.wins := rfl
/-- `delRun` leaves `io` as it is. -/
@[simp] theorem State.delRun_io (s : State) (c : Ctx) (t : Nat) : (s.delRun c t).io = s.io := rfl
/-- `delRun` leaves `can` as it is. -/
@[simp] theorem State.delRun_can (s : State) (c : Ctx) (t : Nat) : (s.delRun c t).can = s.can := rfl
/-- `delRun` leaves `pair` as it is. -/
@[simp] theorem State.delRun_pair (s : State) (c : Ctx) (t : Nat) : (s.delRun c t).pair = s.pair := rfl
/-- `delRun` leaves `plant` as it is. -/
@[simp] theorem State.delRun_plant (s : State) (c : Ctx) (t : Nat) : (s.delRun c t).plant = s.plant := rfl
/-- `delRun` leaves `host` as it is. -/
@[simp] theorem State.delRun_host (s : State) (c : Ctx) (t : Nat) : (s.delRun c t).host = s.host := rfl
/-- `delRun` leaves `kerb` as it is. -/
@[simp] theorem State.delRun_kerb (s : State) (c : Ctx) (t : Nat) : (s.delRun c t).kerb = s.kerb := rfl
/-- `delRun` leaves `imv` as it is. -/
@[simp] theorem State.delRun_imv (s : State) (c : Ctx) (t : Nat) : (s.delRun c t).imv = s.imv := rfl
/-- `delRun` leaves `olc` as it is. -/
@[simp] theorem State.delRun_olc (s : State) (c : Ctx) (t : Nat) : (s.delRun c t).olc = s.olc := rfl
/-- `delRun` leaves `setup` as it is. -/
@[simp] theorem State.delRun_setup (s : State) (c : Ctx) (t : Nat) : (s.delRun c t).setup = s.setup := rfl

/-! ### modLane -/

/-- `modLane` leaves `pending` as it is. -/
@[simp] theorem State.modLane_pending (s : State) (n : Nat) (f : LaneRt → LaneRt) : (s.modLane n f).pending = s.pending := rfl
/-- `modLane` leaves `regs` as it is. -/
@[simp] theorem State.modLane_regs (s : State) (n : Nat) (f : LaneRt → LaneRt) : (s.modLane n f).regs = s.regs := rfl
/-- `modLane` leaves `due` as it is. -/
@[simp] theorem State.modLane_due (s : State) (n : Nat) (f : LaneRt → LaneRt) : (s.modLane n f).due = s.due := rfl
/-- `modLane` leaves `out` as it is. -/
@[simp] theorem State.modLane_out (s : State) (n : Nat) (f : LaneRt → LaneRt) : (s.modLane n f).out = s.out := rfl
/-- `modLane` leaves `fresh` as it is. -/
@[simp] theorem State.modLane_fresh (s : State) (n : Nat) (f : LaneRt → LaneRt) : (s.modLane n f).fresh = s.fresh := rfl
/-- `modLane` leaves `now` as it is. -/
@[simp] theorem State.modLane_now (s : State) (n : Nat) (f : LaneRt → LaneRt) : (s.modLane n f).now = s.now := rfl
/-- `modLane` leaves `tick` as it is. -/
@[simp] theorem State.modLane_tick (s : State) (n : Nat) (f : LaneRt → LaneRt) : (s.modLane n f).tick = s.tick := rfl
/-- `modLane` leaves `sq` as it is. -/
@[simp] theorem State.modLane_sq (s : State) (n : Nat) (f : LaneRt → LaneRt) : (s.modLane n f).sq = s.sq := rfl
/-- `modLane` leaves `sched` as it is. -/
@[simp] theorem State.modLane_sched (s : State) (n : Nat) (f : LaneRt → LaneRt) : (s.modLane n f).sched = s.sched := rfl
/-- `modLane` leaves `pkgs` as it is. -/
@[simp] theorem State.modLane_pkgs (s : State) (n : Nat) (f : LaneRt → LaneRt) : (s.modLane n f).pkgs = s.pkgs := rfl
/-- `modLane` leaves `arc` as it is. -/
@[simp] theorem State.modLane_arc (s : State) (n : Nat) (f : LaneRt → LaneRt) : (s.modLane n f).arc = s.arc := rfl
/-- `modLane` leaves `wins` as it is. -/
@[simp] theorem State.modLane_wins (s : State) (n : Nat) (f : LaneRt → LaneRt) : (s.modLane n f).wins = s.wins := rfl
/-- `modLane` leaves `io` as it is. -/
@[simp] theorem State.modLane_io (s : State) (n : Nat) (f : LaneRt → LaneRt) : (s.modLane n f).io = s.io := rfl
/-- `modLane` leaves `can` as it is. -/
@[simp] theorem State.modLane_can (s : State) (n : Nat) (f : LaneRt → LaneRt) : (s.modLane n f).can = s.can := rfl
/-- `modLane` leaves `pair` as it is. -/
@[simp] theorem State.modLane_pair (s : State) (n : Nat) (f : LaneRt → LaneRt) : (s.modLane n f).pair = s.pair := rfl
/-- `modLane` leaves `plant` as it is. -/
@[simp] theorem State.modLane_plant (s : State) (n : Nat) (f : LaneRt → LaneRt) : (s.modLane n f).plant = s.plant := rfl
/-- `modLane` leaves `host` as it is. -/
@[simp] theorem State.modLane_host (s : State) (n : Nat) (f : LaneRt → LaneRt) : (s.modLane n f).host = s.host := rfl
/-- `modLane` leaves `kerb` as it is. -/
@[simp] theorem State.modLane_kerb (s : State) (n : Nat) (f : LaneRt → LaneRt) : (s.modLane n f).kerb = s.kerb := rfl
/-- `modLane` leaves `imv` as it is. -/
@[simp] theorem State.modLane_imv (s : State) (n : Nat) (f : LaneRt → LaneRt) : (s.modLane n f).imv = s.imv := rfl
/-- `modLane` leaves `olc` as it is. -/
@[simp] theorem State.modLane_olc (s : State) (n : Nat) (f : LaneRt → LaneRt) : (s.modLane n f).olc = s.olc := rfl
/-- `modLane` leaves `setup` as it is. -/
@[simp] theorem State.modLane_setup (s : State) (n : Nat) (f : LaneRt → LaneRt) : (s.modLane n f).setup = s.setup := rfl

/-! ### ask -/

/-- `ask` leaves `pending` as it is. -/
@[simp] theorem State.ask_pending (s : State) (t n : Nat) (a : TickAsk) (p : Option Path) : (s.ask t n a p).pending = s.pending := rfl
/-- `ask` leaves `regs` as it is. -/
@[simp] theorem State.ask_regs (s : State) (t n : Nat) (a : TickAsk) (p : Option Path) : (s.ask t n a p).regs = s.regs := rfl
/-- `ask` leaves `due` as it is. -/
@[simp] theorem State.ask_due (s : State) (t n : Nat) (a : TickAsk) (p : Option Path) : (s.ask t n a p).due = s.due := rfl
/-- `ask` leaves `out` as it is. -/
@[simp] theorem State.ask_out (s : State) (t n : Nat) (a : TickAsk) (p : Option Path) : (s.ask t n a p).out = s.out := rfl
/-- `ask` leaves `fresh` as it is. -/
@[simp] theorem State.ask_fresh (s : State) (t n : Nat) (a : TickAsk) (p : Option Path) : (s.ask t n a p).fresh = s.fresh := rfl
/-- `ask` leaves `now` as it is. -/
@[simp] theorem State.ask_now (s : State) (t n : Nat) (a : TickAsk) (p : Option Path) : (s.ask t n a p).now = s.now := rfl
/-- `ask` leaves `tick` as it is. -/
@[simp] theorem State.ask_tick (s : State) (t n : Nat) (a : TickAsk) (p : Option Path) : (s.ask t n a p).tick = s.tick := rfl
/-- `ask` leaves `sq` as it is. -/
@[simp] theorem State.ask_sq (s : State) (t n : Nat) (a : TickAsk) (p : Option Path) : (s.ask t n a p).sq = s.sq := rfl
/-- `ask` leaves `lanes` as it is. -/
@[simp] theorem State.ask_lanes (s : State) (t n : Nat) (a : TickAsk) (p : Option Path) : (s.ask t n a p).lanes = s.lanes := rfl
/-- `ask` leaves `pkgs` as it is. -/
@[simp] theorem State.ask_pkgs (s : State) (t n : Nat) (a : TickAsk) (p : Option Path) : (s.ask t n a p).pkgs = s.pkgs := rfl
/-- `ask` leaves `arc` as it is. -/
@[simp] theorem State.ask_arc (s : State) (t n : Nat) (a : TickAsk) (p : Option Path) : (s.ask t n a p).arc = s.arc := rfl
/-- `ask` leaves `wins` as it is. -/
@[simp] theorem State.ask_wins (s : State) (t n : Nat) (a : TickAsk) (p : Option Path) : (s.ask t n a p).wins = s.wins := rfl
/-- `ask` leaves `io` as it is. -/
@[simp] theorem State.ask_io (s : State) (t n : Nat) (a : TickAsk) (p : Option Path) : (s.ask t n a p).io = s.io := rfl
/-- `ask` leaves `can` as it is. -/
@[simp] theorem State.ask_can (s : State) (t n : Nat) (a : TickAsk) (p : Option Path) : (s.ask t n a p).can = s.can := rfl
/-- `ask` leaves `pair` as it is. -/
@[simp] theorem State.ask_pair (s : State) (t n : Nat) (a : TickAsk) (p : Option Path) : (s.ask t n a p).pair = s.pair := rfl
/-- `ask` leaves `plant` as it is. -/
@[simp] theorem State.ask_plant (s : State) (t n : Nat) (a : TickAsk) (p : Option Path) : (s.ask t n a p).plant = s.plant := rfl
/-- `ask` leaves `host` as it is. -/
@[simp] theorem State.ask_host (s : State) (t n : Nat) (a : TickAsk) (p : Option Path) : (s.ask t n a p).host = s.host := rfl
/-- `ask` leaves `kerb` as it is. -/
@[simp] theorem State.ask_kerb (s : State) (t n : Nat) (a : TickAsk) (p : Option Path) : (s.ask t n a p).kerb = s.kerb := rfl
/-- `ask` leaves `imv` as it is. -/
@[simp] theorem State.ask_imv (s : State) (t n : Nat) (a : TickAsk) (p : Option Path) : (s.ask t n a p).imv = s.imv := rfl
/-- `ask` leaves `olc` as it is. -/
@[simp] theorem State.ask_olc (s : State) (t n : Nat) (a : TickAsk) (p : Option Path) : (s.ask t n a p).olc = s.olc := rfl
/-- `ask` leaves `setup` as it is. -/
@[simp] theorem State.ask_setup (s : State) (t n : Nat) (a : TickAsk) (p : Option Path) : (s.ask t n a p).setup = s.setup := rfl

/-! ### modKerb -/

/-- `modKerb` leaves `pending` as it is. -/
@[simp] theorem State.modKerb_pending (s : State) (f : KerbRt → KerbRt) : (s.modKerb f).pending = s.pending := rfl
/-- `modKerb` leaves `regs` as it is. -/
@[simp] theorem State.modKerb_regs (s : State) (f : KerbRt → KerbRt) : (s.modKerb f).regs = s.regs := rfl
/-- `modKerb` leaves `due` as it is. -/
@[simp] theorem State.modKerb_due (s : State) (f : KerbRt → KerbRt) : (s.modKerb f).due = s.due := rfl
/-- `modKerb` leaves `out` as it is. -/
@[simp] theorem State.modKerb_out (s : State) (f : KerbRt → KerbRt) : (s.modKerb f).out = s.out := rfl
/-- `modKerb` leaves `fresh` as it is. -/
@[simp] theorem State.modKerb_fresh (s : State) (f : KerbRt → KerbRt) : (s.modKerb f).fresh = s.fresh := rfl
/-- `modKerb` leaves `now` as it is. -/
@[simp] theorem State.modKerb_now (s : State) (f : KerbRt → KerbRt) : (s.modKerb f).now = s.now := rfl
/-- `modKerb` leaves `tick` as it is. -/
@[simp] theorem State.modKerb_tick (s : State) (f : KerbRt → KerbRt) : (s.modKerb f).tick = s.tick := rfl
/-- `modKerb` leaves `sq` as it is. -/
@[simp] theorem State.modKerb_sq (s : State) (f : KerbRt → KerbRt) : (s.modKerb f).sq = s.sq := rfl
/-- `modKerb` leaves `sched` as it is. -/
@[simp] theorem State.modKerb_sched (s : State) (f : KerbRt → KerbRt) : (s.modKerb f).sched = s.sched := rfl
/-- `modKerb` leaves `lanes` as it is. -/
@[simp] theorem State.modKerb_lanes (s : State) (f : KerbRt → KerbRt) : (s.modKerb f).lanes = s.lanes := rfl
/-- `modKerb` leaves `pkgs` as it is. -/
@[simp] theorem State.modKerb_pkgs (s : State) (f : KerbRt → KerbRt) : (s.modKerb f).pkgs = s.pkgs := rfl
/-- `modKerb` leaves `arc` as it is. -/
@[simp] theorem State.modKerb_arc (s : State) (f : KerbRt → KerbRt) : (s.modKerb f).arc = s.arc := rfl
/-- `modKerb` leaves `wins` as it is. -/
@[simp] theorem State.modKerb_wins (s : State) (f : KerbRt → KerbRt) : (s.modKerb f).wins = s.wins := rfl
/-- `modKerb` leaves `io` as it is. -/
@[simp] theorem State.modKerb_io (s : State) (f : KerbRt → KerbRt) : (s.modKerb f).io = s.io := rfl
/-- `modKerb` leaves `can` as it is. -/
@[simp] theorem State.modKerb_can (s : State) (f : KerbRt → KerbRt) : (s.modKerb f).can = s.can := rfl
/-- `modKerb` leaves `pair` as it is. -/
@[simp] theorem State.modKerb_pair (s : State) (f : KerbRt → KerbRt) : (s.modKerb f).pair = s.pair := rfl
/-- `modKerb` leaves `plant` as it is. -/
@[simp] theorem State.modKerb_plant (s : State) (f : KerbRt → KerbRt) : (s.modKerb f).plant = s.plant := rfl
/-- `modKerb` leaves `host` as it is. -/
@[simp] theorem State.modKerb_host (s : State) (f : KerbRt → KerbRt) : (s.modKerb f).host = s.host := rfl
/-- `modKerb` leaves `imv` as it is. -/
@[simp] theorem State.modKerb_imv (s : State) (f : KerbRt → KerbRt) : (s.modKerb f).imv = s.imv := rfl
/-- `modKerb` leaves `olc` as it is. -/
@[simp] theorem State.modKerb_olc (s : State) (f : KerbRt → KerbRt) : (s.modKerb f).olc = s.olc := rfl
/-- `modKerb` leaves `setup` as it is. -/
@[simp] theorem State.modKerb_setup (s : State) (f : KerbRt → KerbRt) : (s.modKerb f).setup = s.setup := rfl

/-! ### modCan -/

/-- `modCan` leaves `pending` as it is. -/
@[simp] theorem State.modCan_pending (s : State) (n : Nat) (f : CanPort → CanPort) : (s.modCan n f).pending = s.pending := rfl
/-- `modCan` leaves `regs` as it is. -/
@[simp] theorem State.modCan_regs (s : State) (n : Nat) (f : CanPort → CanPort) : (s.modCan n f).regs = s.regs := rfl
/-- `modCan` leaves `due` as it is. -/
@[simp] theorem State.modCan_due (s : State) (n : Nat) (f : CanPort → CanPort) : (s.modCan n f).due = s.due := rfl
/-- `modCan` leaves `out` as it is. -/
@[simp] theorem State.modCan_out (s : State) (n : Nat) (f : CanPort → CanPort) : (s.modCan n f).out = s.out := rfl
/-- `modCan` leaves `fresh` as it is. -/
@[simp] theorem State.modCan_fresh (s : State) (n : Nat) (f : CanPort → CanPort) : (s.modCan n f).fresh = s.fresh := rfl
/-- `modCan` leaves `now` as it is. -/
@[simp] theorem State.modCan_now (s : State) (n : Nat) (f : CanPort → CanPort) : (s.modCan n f).now = s.now := rfl
/-- `modCan` leaves `tick` as it is. -/
@[simp] theorem State.modCan_tick (s : State) (n : Nat) (f : CanPort → CanPort) : (s.modCan n f).tick = s.tick := rfl
/-- `modCan` leaves `sq` as it is. -/
@[simp] theorem State.modCan_sq (s : State) (n : Nat) (f : CanPort → CanPort) : (s.modCan n f).sq = s.sq := rfl
/-- `modCan` leaves `sched` as it is. -/
@[simp] theorem State.modCan_sched (s : State) (n : Nat) (f : CanPort → CanPort) : (s.modCan n f).sched = s.sched := rfl
/-- `modCan` leaves `lanes` as it is. -/
@[simp] theorem State.modCan_lanes (s : State) (n : Nat) (f : CanPort → CanPort) : (s.modCan n f).lanes = s.lanes := rfl
/-- `modCan` leaves `pkgs` as it is. -/
@[simp] theorem State.modCan_pkgs (s : State) (n : Nat) (f : CanPort → CanPort) : (s.modCan n f).pkgs = s.pkgs := rfl
/-- `modCan` leaves `arc` as it is. -/
@[simp] theorem State.modCan_arc (s : State) (n : Nat) (f : CanPort → CanPort) : (s.modCan n f).arc = s.arc := rfl
/-- `modCan` leaves `wins` as it is. -/
@[simp] theorem State.modCan_wins (s : State) (n : Nat) (f : CanPort → CanPort) : (s.modCan n f).wins = s.wins := rfl
/-- `modCan` leaves `io` as it is. -/
@[simp] theorem State.modCan_io (s : State) (n : Nat) (f : CanPort → CanPort) : (s.modCan n f).io = s.io := rfl
/-- `modCan` leaves `pair` as it is. -/
@[simp] theorem State.modCan_pair (s : State) (n : Nat) (f : CanPort → CanPort) : (s.modCan n f).pair = s.pair := rfl
/-- `modCan` leaves `plant` as it is. -/
@[simp] theorem State.modCan_plant (s : State) (n : Nat) (f : CanPort → CanPort) : (s.modCan n f).plant = s.plant := rfl
/-- `modCan` leaves `host` as it is. -/
@[simp] theorem State.modCan_host (s : State) (n : Nat) (f : CanPort → CanPort) : (s.modCan n f).host = s.host := rfl
/-- `modCan` leaves `kerb` as it is. -/
@[simp] theorem State.modCan_kerb (s : State) (n : Nat) (f : CanPort → CanPort) : (s.modCan n f).kerb = s.kerb := rfl
/-- `modCan` leaves `imv` as it is. -/
@[simp] theorem State.modCan_imv (s : State) (n : Nat) (f : CanPort → CanPort) : (s.modCan n f).imv = s.imv := rfl
/-- `modCan` leaves `olc` as it is. -/
@[simp] theorem State.modCan_olc (s : State) (n : Nat) (f : CanPort → CanPort) : (s.modCan n f).olc = s.olc := rfl
/-- `modCan` leaves `setup` as it is. -/
@[simp] theorem State.modCan_setup (s : State) (n : Nat) (f : CanPort → CanPort) : (s.modCan n f).setup = s.setup := rfl

/-! ### modDio -/

/-- `modDio` leaves `pending` as it is. -/
@[simp] theorem State.modDio_pending (s : State) (n : Nat) (f : DioCh → DioCh) : (s.modDio n f).pending = s.pending := rfl
/-- `modDio` leaves `regs` as it is. -/
@[simp] theorem State.modDio_regs (s : State) (n : Nat) (f : DioCh → DioCh) : (s.modDio n f).regs = s.regs := rfl
/-- `modDio` leaves `due` as it is. -/
@[simp] theorem State.modDio_due (s : State) (n : Nat) (f : DioCh → DioCh) : (s.modDio n f).due = s.due := rfl
/-- `modDio` leaves `out` as it is. -/
@[simp] theorem State.modDio_out (s : State) (n : Nat) (f : DioCh → DioCh) : (s.modDio n f).out = s.out := rfl
/-- `modDio` leaves `fresh` as it is. -/
@[simp] theorem State.modDio_fresh (s : State) (n : Nat) (f : DioCh → DioCh) : (s.modDio n f).fresh = s.fresh := rfl
/-- `modDio` leaves `now` as it is. -/
@[simp] theorem State.modDio_now (s : State) (n : Nat) (f : DioCh → DioCh) : (s.modDio n f).now = s.now := rfl
/-- `modDio` leaves `tick` as it is. -/
@[simp] theorem State.modDio_tick (s : State) (n : Nat) (f : DioCh → DioCh) : (s.modDio n f).tick = s.tick := rfl
/-- `modDio` leaves `sq` as it is. -/
@[simp] theorem State.modDio_sq (s : State) (n : Nat) (f : DioCh → DioCh) : (s.modDio n f).sq = s.sq := rfl
/-- `modDio` leaves `sched` as it is. -/
@[simp] theorem State.modDio_sched (s : State) (n : Nat) (f : DioCh → DioCh) : (s.modDio n f).sched = s.sched := rfl
/-- `modDio` leaves `lanes` as it is. -/
@[simp] theorem State.modDio_lanes (s : State) (n : Nat) (f : DioCh → DioCh) : (s.modDio n f).lanes = s.lanes := rfl
/-- `modDio` leaves `pkgs` as it is. -/
@[simp] theorem State.modDio_pkgs (s : State) (n : Nat) (f : DioCh → DioCh) : (s.modDio n f).pkgs = s.pkgs := rfl
/-- `modDio` leaves `arc` as it is. -/
@[simp] theorem State.modDio_arc (s : State) (n : Nat) (f : DioCh → DioCh) : (s.modDio n f).arc = s.arc := rfl
/-- `modDio` leaves `wins` as it is. -/
@[simp] theorem State.modDio_wins (s : State) (n : Nat) (f : DioCh → DioCh) : (s.modDio n f).wins = s.wins := rfl
/-- `modDio` leaves `can` as it is. -/
@[simp] theorem State.modDio_can (s : State) (n : Nat) (f : DioCh → DioCh) : (s.modDio n f).can = s.can := rfl
/-- `modDio` leaves `pair` as it is. -/
@[simp] theorem State.modDio_pair (s : State) (n : Nat) (f : DioCh → DioCh) : (s.modDio n f).pair = s.pair := rfl
/-- `modDio` leaves `plant` as it is. -/
@[simp] theorem State.modDio_plant (s : State) (n : Nat) (f : DioCh → DioCh) : (s.modDio n f).plant = s.plant := rfl
/-- `modDio` leaves `host` as it is. -/
@[simp] theorem State.modDio_host (s : State) (n : Nat) (f : DioCh → DioCh) : (s.modDio n f).host = s.host := rfl
/-- `modDio` leaves `kerb` as it is. -/
@[simp] theorem State.modDio_kerb (s : State) (n : Nat) (f : DioCh → DioCh) : (s.modDio n f).kerb = s.kerb := rfl
/-- `modDio` leaves `imv` as it is. -/
@[simp] theorem State.modDio_imv (s : State) (n : Nat) (f : DioCh → DioCh) : (s.modDio n f).imv = s.imv := rfl
/-- `modDio` leaves `olc` as it is. -/
@[simp] theorem State.modDio_olc (s : State) (n : Nat) (f : DioCh → DioCh) : (s.modDio n f).olc = s.olc := rfl
/-- `modDio` leaves `setup` as it is. -/
@[simp] theorem State.modDio_setup (s : State) (n : Nat) (f : DioCh → DioCh) : (s.modDio n f).setup = s.setup := rfl

/-! ### modAo -/

/-- `modAo` leaves `pending` as it is. -/
@[simp] theorem State.modAo_pending (s : State) (n : Nat) (f : AoCh → AoCh) : (s.modAo n f).pending = s.pending := rfl
/-- `modAo` leaves `regs` as it is. -/
@[simp] theorem State.modAo_regs (s : State) (n : Nat) (f : AoCh → AoCh) : (s.modAo n f).regs = s.regs := rfl
/-- `modAo` leaves `due` as it is. -/
@[simp] theorem State.modAo_due (s : State) (n : Nat) (f : AoCh → AoCh) : (s.modAo n f).due = s.due := rfl
/-- `modAo` leaves `out` as it is. -/
@[simp] theorem State.modAo_out (s : State) (n : Nat) (f : AoCh → AoCh) : (s.modAo n f).out = s.out := rfl
/-- `modAo` leaves `fresh` as it is. -/
@[simp] theorem State.modAo_fresh (s : State) (n : Nat) (f : AoCh → AoCh) : (s.modAo n f).fresh = s.fresh := rfl
/-- `modAo` leaves `now` as it is. -/
@[simp] theorem State.modAo_now (s : State) (n : Nat) (f : AoCh → AoCh) : (s.modAo n f).now = s.now := rfl
/-- `modAo` leaves `tick` as it is. -/
@[simp] theorem State.modAo_tick (s : State) (n : Nat) (f : AoCh → AoCh) : (s.modAo n f).tick = s.tick := rfl
/-- `modAo` leaves `sq` as it is. -/
@[simp] theorem State.modAo_sq (s : State) (n : Nat) (f : AoCh → AoCh) : (s.modAo n f).sq = s.sq := rfl
/-- `modAo` leaves `sched` as it is. -/
@[simp] theorem State.modAo_sched (s : State) (n : Nat) (f : AoCh → AoCh) : (s.modAo n f).sched = s.sched := rfl
/-- `modAo` leaves `lanes` as it is. -/
@[simp] theorem State.modAo_lanes (s : State) (n : Nat) (f : AoCh → AoCh) : (s.modAo n f).lanes = s.lanes := rfl
/-- `modAo` leaves `pkgs` as it is. -/
@[simp] theorem State.modAo_pkgs (s : State) (n : Nat) (f : AoCh → AoCh) : (s.modAo n f).pkgs = s.pkgs := rfl
/-- `modAo` leaves `arc` as it is. -/
@[simp] theorem State.modAo_arc (s : State) (n : Nat) (f : AoCh → AoCh) : (s.modAo n f).arc = s.arc := rfl
/-- `modAo` leaves `wins` as it is. -/
@[simp] theorem State.modAo_wins (s : State) (n : Nat) (f : AoCh → AoCh) : (s.modAo n f).wins = s.wins := rfl
/-- `modAo` leaves `can` as it is. -/
@[simp] theorem State.modAo_can (s : State) (n : Nat) (f : AoCh → AoCh) : (s.modAo n f).can = s.can := rfl
/-- `modAo` leaves `pair` as it is. -/
@[simp] theorem State.modAo_pair (s : State) (n : Nat) (f : AoCh → AoCh) : (s.modAo n f).pair = s.pair := rfl
/-- `modAo` leaves `plant` as it is. -/
@[simp] theorem State.modAo_plant (s : State) (n : Nat) (f : AoCh → AoCh) : (s.modAo n f).plant = s.plant := rfl
/-- `modAo` leaves `host` as it is. -/
@[simp] theorem State.modAo_host (s : State) (n : Nat) (f : AoCh → AoCh) : (s.modAo n f).host = s.host := rfl
/-- `modAo` leaves `kerb` as it is. -/
@[simp] theorem State.modAo_kerb (s : State) (n : Nat) (f : AoCh → AoCh) : (s.modAo n f).kerb = s.kerb := rfl
/-- `modAo` leaves `imv` as it is. -/
@[simp] theorem State.modAo_imv (s : State) (n : Nat) (f : AoCh → AoCh) : (s.modAo n f).imv = s.imv := rfl
/-- `modAo` leaves `olc` as it is. -/
@[simp] theorem State.modAo_olc (s : State) (n : Nat) (f : AoCh → AoCh) : (s.modAo n f).olc = s.olc := rfl
/-- `modAo` leaves `setup` as it is. -/
@[simp] theorem State.modAo_setup (s : State) (n : Nat) (f : AoCh → AoCh) : (s.modAo n f).setup = s.setup := rfl

/-! ### modFn -/

/-- `modFn` leaves `pending` as it is. -/
@[simp] theorem State.modFn_pending (s : State) (n : Nat) (f : FnRt → FnRt) : (s.modFn n f).pending = s.pending := rfl
/-- `modFn` leaves `regs` as it is. -/
@[simp] theorem State.modFn_regs (s : State) (n : Nat) (f : FnRt → FnRt) : (s.modFn n f).regs = s.regs := rfl
/-- `modFn` leaves `due` as it is. -/
@[simp] theorem State.modFn_due (s : State) (n : Nat) (f : FnRt → FnRt) : (s.modFn n f).due = s.due := rfl
/-- `modFn` leaves `out` as it is. -/
@[simp] theorem State.modFn_out (s : State) (n : Nat) (f : FnRt → FnRt) : (s.modFn n f).out = s.out := rfl
/-- `modFn` leaves `fresh` as it is. -/
@[simp] theorem State.modFn_fresh (s : State) (n : Nat) (f : FnRt → FnRt) : (s.modFn n f).fresh = s.fresh := rfl
/-- `modFn` leaves `now` as it is. -/
@[simp] theorem State.modFn_now (s : State) (n : Nat) (f : FnRt → FnRt) : (s.modFn n f).now = s.now := rfl
/-- `modFn` leaves `tick` as it is. -/
@[simp] theorem State.modFn_tick (s : State) (n : Nat) (f : FnRt → FnRt) : (s.modFn n f).tick = s.tick := rfl
/-- `modFn` leaves `sq` as it is. -/
@[simp] theorem State.modFn_sq (s : State) (n : Nat) (f : FnRt → FnRt) : (s.modFn n f).sq = s.sq := rfl
/-- `modFn` leaves `sched` as it is. -/
@[simp] theorem State.modFn_sched (s : State) (n : Nat) (f : FnRt → FnRt) : (s.modFn n f).sched = s.sched := rfl
/-- `modFn` leaves `lanes` as it is. -/
@[simp] theorem State.modFn_lanes (s : State) (n : Nat) (f : FnRt → FnRt) : (s.modFn n f).lanes = s.lanes := rfl
/-- `modFn` leaves `pkgs` as it is. -/
@[simp] theorem State.modFn_pkgs (s : State) (n : Nat) (f : FnRt → FnRt) : (s.modFn n f).pkgs = s.pkgs := rfl
/-- `modFn` leaves `arc` as it is. -/
@[simp] theorem State.modFn_arc (s : State) (n : Nat) (f : FnRt → FnRt) : (s.modFn n f).arc = s.arc := rfl
/-- `modFn` leaves `wins` as it is. -/
@[simp] theorem State.modFn_wins (s : State) (n : Nat) (f : FnRt → FnRt) : (s.modFn n f).wins = s.wins := rfl
/-- `modFn` leaves `can` as it is. -/
@[simp] theorem State.modFn_can (s : State) (n : Nat) (f : FnRt → FnRt) : (s.modFn n f).can = s.can := rfl
/-- `modFn` leaves `pair` as it is. -/
@[simp] theorem State.modFn_pair (s : State) (n : Nat) (f : FnRt → FnRt) : (s.modFn n f).pair = s.pair := rfl
/-- `modFn` leaves `plant` as it is. -/
@[simp] theorem State.modFn_plant (s : State) (n : Nat) (f : FnRt → FnRt) : (s.modFn n f).plant = s.plant := rfl
/-- `modFn` leaves `host` as it is. -/
@[simp] theorem State.modFn_host (s : State) (n : Nat) (f : FnRt → FnRt) : (s.modFn n f).host = s.host := rfl
/-- `modFn` leaves `kerb` as it is. -/
@[simp] theorem State.modFn_kerb (s : State) (n : Nat) (f : FnRt → FnRt) : (s.modFn n f).kerb = s.kerb := rfl
/-- `modFn` leaves `imv` as it is. -/
@[simp] theorem State.modFn_imv (s : State) (n : Nat) (f : FnRt → FnRt) : (s.modFn n f).imv = s.imv := rfl
/-- `modFn` leaves `olc` as it is. -/
@[simp] theorem State.modFn_olc (s : State) (n : Nat) (f : FnRt → FnRt) : (s.modFn n f).olc = s.olc := rfl
/-- `modFn` leaves `setup` as it is. -/
@[simp] theorem State.modFn_setup (s : State) (n : Nat) (f : FnRt → FnRt) : (s.modFn n f).setup = s.setup := rfl

/-! ### modSta -/

/-- `modSta` leaves `pending` as it is. -/
@[simp] theorem State.modSta_pending (s : State) (n : Nat) (f : StaRt → StaRt) : (s.modSta n f).pending = s.pending := rfl
/-- `modSta` leaves `regs` as it is. -/
@[simp] theorem State.modSta_regs (s : State) (n : Nat) (f : StaRt → StaRt) : (s.modSta n f).regs = s.regs := rfl
/-- `modSta` leaves `due` as it is. -/
@[simp] theorem State.modSta_due (s : State) (n : Nat) (f : StaRt → StaRt) : (s.modSta n f).due = s.due := rfl
/-- `modSta` leaves `out` as it is. -/
@[simp] theorem State.modSta_out (s : State) (n : Nat) (f : StaRt → StaRt) : (s.modSta n f).out = s.out := rfl
/-- `modSta` leaves `fresh` as it is. -/
@[simp] theorem State.modSta_fresh (s : State) (n : Nat) (f : StaRt → StaRt) : (s.modSta n f).fresh = s.fresh := rfl
/-- `modSta` leaves `now` as it is. -/
@[simp] theorem State.modSta_now (s : State) (n : Nat) (f : StaRt → StaRt) : (s.modSta n f).now = s.now := rfl
/-- `modSta` leaves `tick` as it is. -/
@[simp] theorem State.modSta_tick (s : State) (n : Nat) (f : StaRt → StaRt) : (s.modSta n f).tick = s.tick := rfl
/-- `modSta` leaves `sq` as it is. -/
@[simp] theorem State.modSta_sq (s : State) (n : Nat) (f : StaRt → StaRt) : (s.modSta n f).sq = s.sq := rfl
/-- `modSta` leaves `sched` as it is. -/
@[simp] theorem State.modSta_sched (s : State) (n : Nat) (f : StaRt → StaRt) : (s.modSta n f).sched = s.sched := rfl
/-- `modSta` leaves `lanes` as it is. -/
@[simp] theorem State.modSta_lanes (s : State) (n : Nat) (f : StaRt → StaRt) : (s.modSta n f).lanes = s.lanes := rfl
/-- `modSta` leaves `pkgs` as it is. -/
@[simp] theorem State.modSta_pkgs (s : State) (n : Nat) (f : StaRt → StaRt) : (s.modSta n f).pkgs = s.pkgs := rfl
/-- `modSta` leaves `arc` as it is. -/
@[simp] theorem State.modSta_arc (s : State) (n : Nat) (f : StaRt → StaRt) : (s.modSta n f).arc = s.arc := rfl
/-- `modSta` leaves `wins` as it is. -/
@[simp] theorem State.modSta_wins (s : State) (n : Nat) (f : StaRt → StaRt) : (s.modSta n f).wins = s.wins := rfl
/-- `modSta` leaves `io` as it is. -/
@[simp] theorem State.modSta_io (s : State) (n : Nat) (f : StaRt → StaRt) : (s.modSta n f).io = s.io := rfl
/-- `modSta` leaves `can` as it is. -/
@[simp] theorem State.modSta_can (s : State) (n : Nat) (f : StaRt → StaRt) : (s.modSta n f).can = s.can := rfl
/-- `modSta` leaves `pair` as it is. -/
@[simp] theorem State.modSta_pair (s : State) (n : Nat) (f : StaRt → StaRt) : (s.modSta n f).pair = s.pair := rfl
/-- `modSta` leaves `host` as it is. -/
@[simp] theorem State.modSta_host (s : State) (n : Nat) (f : StaRt → StaRt) : (s.modSta n f).host = s.host := rfl
/-- `modSta` leaves `kerb` as it is. -/
@[simp] theorem State.modSta_kerb (s : State) (n : Nat) (f : StaRt → StaRt) : (s.modSta n f).kerb = s.kerb := rfl
/-- `modSta` leaves `imv` as it is. -/
@[simp] theorem State.modSta_imv (s : State) (n : Nat) (f : StaRt → StaRt) : (s.modSta n f).imv = s.imv := rfl
/-- `modSta` leaves `olc` as it is. -/
@[simp] theorem State.modSta_olc (s : State) (n : Nat) (f : StaRt → StaRt) : (s.modSta n f).olc = s.olc := rfl
/-- `modSta` leaves `setup` as it is. -/
@[simp] theorem State.modSta_setup (s : State) (n : Nat) (f : StaRt → StaRt) : (s.modSta n f).setup = s.setup := rfl

/-! ### modDom -/

/-- `modDom` leaves `pending` as it is. -/
@[simp] theorem State.modDom_pending (s : State) (n : Nat) (f : DomRt → DomRt) : (s.modDom n f).pending = s.pending := rfl
/-- `modDom` leaves `regs` as it is. -/
@[simp] theorem State.modDom_regs (s : State) (n : Nat) (f : DomRt → DomRt) : (s.modDom n f).regs = s.regs := rfl
/-- `modDom` leaves `due` as it is. -/
@[simp] theorem State.modDom_due (s : State) (n : Nat) (f : DomRt → DomRt) : (s.modDom n f).due = s.due := rfl
/-- `modDom` leaves `out` as it is. -/
@[simp] theorem State.modDom_out (s : State) (n : Nat) (f : DomRt → DomRt) : (s.modDom n f).out = s.out := rfl
/-- `modDom` leaves `fresh` as it is. -/
@[simp] theorem State.modDom_fresh (s : State) (n : Nat) (f : DomRt → DomRt) : (s.modDom n f).fresh = s.fresh := rfl
/-- `modDom` leaves `now` as it is. -/
@[simp] theorem State.modDom_now (s : State) (n : Nat) (f : DomRt → DomRt) : (s.modDom n f).now = s.now := rfl
/-- `modDom` leaves `tick` as it is. -/
@[simp] theorem State.modDom_tick (s : State) (n : Nat) (f : DomRt → DomRt) : (s.modDom n f).tick = s.tick := rfl
/-- `modDom` leaves `sq` as it is. -/
@[simp] theorem State.modDom_sq (s : State) (n : Nat) (f : DomRt → DomRt) : (s.modDom n f).sq = s.sq := rfl
/-- `modDom` leaves `sched` as it is. -/
@[simp] theorem State.modDom_sched (s : State) (n : Nat) (f : DomRt → DomRt) : (s.modDom n f).sched = s.sched := rfl
/-- `modDom` leaves `lanes` as it is. -/
@[simp] theorem State.modDom_lanes (s : State) (n : Nat) (f : DomRt → DomRt) : (s.modDom n f).lanes = s.lanes := rfl
/-- `modDom` leaves `pkgs` as it is. -/
@[simp] theorem State.modDom_pkgs (s : State) (n : Nat) (f : DomRt → DomRt) : (s.modDom n f).pkgs = s.pkgs := rfl
/-- `modDom` leaves `arc` as it is. -/
@[simp] theorem State.modDom_arc (s : State) (n : Nat) (f : DomRt → DomRt) : (s.modDom n f).arc = s.arc := rfl
/-- `modDom` leaves `wins` as it is. -/
@[simp] theorem State.modDom_wins (s : State) (n : Nat) (f : DomRt → DomRt) : (s.modDom n f).wins = s.wins := rfl
/-- `modDom` leaves `io` as it is. -/
@[simp] theorem State.modDom_io (s : State) (n : Nat) (f : DomRt → DomRt) : (s.modDom n f).io = s.io := rfl
/-- `modDom` leaves `can` as it is. -/
@[simp] theorem State.modDom_can (s : State) (n : Nat) (f : DomRt → DomRt) : (s.modDom n f).can = s.can := rfl
/-- `modDom` leaves `pair` as it is. -/
@[simp] theorem State.modDom_pair (s : State) (n : Nat) (f : DomRt → DomRt) : (s.modDom n f).pair = s.pair := rfl
/-- `modDom` leaves `host` as it is. -/
@[simp] theorem State.modDom_host (s : State) (n : Nat) (f : DomRt → DomRt) : (s.modDom n f).host = s.host := rfl
/-- `modDom` leaves `kerb` as it is. -/
@[simp] theorem State.modDom_kerb (s : State) (n : Nat) (f : DomRt → DomRt) : (s.modDom n f).kerb = s.kerb := rfl
/-- `modDom` leaves `imv` as it is. -/
@[simp] theorem State.modDom_imv (s : State) (n : Nat) (f : DomRt → DomRt) : (s.modDom n f).imv = s.imv := rfl
/-- `modDom` leaves `olc` as it is. -/
@[simp] theorem State.modDom_olc (s : State) (n : Nat) (f : DomRt → DomRt) : (s.modDom n f).olc = s.olc := rfl
/-- `modDom` leaves `setup` as it is. -/
@[simp] theorem State.modDom_setup (s : State) (n : Nat) (f : DomRt → DomRt) : (s.modDom n f).setup = s.setup := rfl

/-! ### Refused writes, activations and events -/

/-- A refused write leaves `pending` as it is. -/
@[simp] theorem State.ignored_pending (s : State) (p : Path) (off cause : Nat) : (s.ignored p off cause).pending = s.pending := by
  unfold State.ignored; dsimp only; split <;> rfl
/-- A refused write leaves `due` as it is. -/
@[simp] theorem State.ignored_due (s : State) (p : Path) (off cause : Nat) : (s.ignored p off cause).due = s.due := by
  unfold State.ignored; dsimp only; split <;> rfl
/-- A refused write leaves `out` as it is. -/
@[simp] theorem State.ignored_out (s : State) (p : Path) (off cause : Nat) : (s.ignored p off cause).out = s.out := by
  unfold State.ignored; dsimp only; split <;> rfl
/-- A refused write leaves `fresh` as it is. -/
@[simp] theorem State.ignored_fresh (s : State) (p : Path) (off cause : Nat) : (s.ignored p off cause).fresh = s.fresh := by
  unfold State.ignored; dsimp only; split <;> rfl
/-- A refused write leaves `now` as it is. -/
@[simp] theorem State.ignored_now (s : State) (p : Path) (off cause : Nat) : (s.ignored p off cause).now = s.now := by
  unfold State.ignored; dsimp only; split <;> rfl
/-- A refused write leaves `tick` as it is. -/
@[simp] theorem State.ignored_tick (s : State) (p : Path) (off cause : Nat) : (s.ignored p off cause).tick = s.tick := by
  unfold State.ignored; dsimp only; split <;> rfl
/-- A refused write leaves `sq` as it is. -/
@[simp] theorem State.ignored_sq (s : State) (p : Path) (off cause : Nat) : (s.ignored p off cause).sq = s.sq := by
  unfold State.ignored; dsimp only; split <;> rfl
/-- A refused write leaves `sched` as it is. -/
@[simp] theorem State.ignored_sched (s : State) (p : Path) (off cause : Nat) : (s.ignored p off cause).sched = s.sched := by
  unfold State.ignored; dsimp only; split <;> rfl
/-- A refused write leaves `lanes` as it is. -/
@[simp] theorem State.ignored_lanes (s : State) (p : Path) (off cause : Nat) : (s.ignored p off cause).lanes = s.lanes := by
  unfold State.ignored; dsimp only; split <;> rfl
/-- A refused write leaves `pkgs` as it is. -/
@[simp] theorem State.ignored_pkgs (s : State) (p : Path) (off cause : Nat) : (s.ignored p off cause).pkgs = s.pkgs := by
  unfold State.ignored; dsimp only; split <;> rfl
/-- A refused write leaves `arc` as it is. -/
@[simp] theorem State.ignored_arc (s : State) (p : Path) (off cause : Nat) : (s.ignored p off cause).arc = s.arc := by
  unfold State.ignored; dsimp only; split <;> rfl
/-- A refused write leaves `wins` as it is. -/
@[simp] theorem State.ignored_wins (s : State) (p : Path) (off cause : Nat) : (s.ignored p off cause).wins = s.wins := by
  unfold State.ignored; dsimp only; split <;> rfl
/-- A refused write leaves `io` as it is. -/
@[simp] theorem State.ignored_io (s : State) (p : Path) (off cause : Nat) : (s.ignored p off cause).io = s.io := by
  unfold State.ignored; dsimp only; split <;> rfl
/-- A refused write leaves `can` as it is. -/
@[simp] theorem State.ignored_can (s : State) (p : Path) (off cause : Nat) : (s.ignored p off cause).can = s.can := by
  unfold State.ignored; dsimp only; split <;> rfl
/-- A refused write leaves `pair` as it is. -/
@[simp] theorem State.ignored_pair (s : State) (p : Path) (off cause : Nat) : (s.ignored p off cause).pair = s.pair := by
  unfold State.ignored; dsimp only; split <;> rfl
/-- A refused write leaves `plant` as it is. -/
@[simp] theorem State.ignored_plant (s : State) (p : Path) (off cause : Nat) : (s.ignored p off cause).plant = s.plant := by
  unfold State.ignored; dsimp only; split <;> rfl
/-- A refused write leaves `host` as it is. -/
@[simp] theorem State.ignored_host (s : State) (p : Path) (off cause : Nat) : (s.ignored p off cause).host = s.host := by
  unfold State.ignored; dsimp only; split <;> rfl
/-- A refused write leaves `kerb` as it is. -/
@[simp] theorem State.ignored_kerb (s : State) (p : Path) (off cause : Nat) : (s.ignored p off cause).kerb = s.kerb := by
  unfold State.ignored; dsimp only; split <;> rfl
/-- A refused write leaves `imv` as it is. -/
@[simp] theorem State.ignored_imv (s : State) (p : Path) (off cause : Nat) : (s.ignored p off cause).imv = s.imv := by
  unfold State.ignored; dsimp only; split <;> rfl
/-- A refused write leaves `olc` as it is. -/
@[simp] theorem State.ignored_olc (s : State) (p : Path) (off cause : Nat) : (s.ignored p off cause).olc = s.olc := by
  unfold State.ignored; dsimp only; split <;> rfl
/-- A refused write leaves `setup` as it is. -/
@[simp] theorem State.ignored_setup (s : State) (p : Path) (off cause : Nat) : (s.ignored p off cause).setup = s.setup := by
  unfold State.ignored; dsimp only; split <;> rfl
/-- An event record leaves `pending` as it is. -/
@[simp] theorem State.event_pending (s : State) (k t : Nat) (d : List Byte) : (s.event k t d).pending = s.pending := by
  unfold State.event; split <;> rfl
/-- An event record leaves `regs` as it is. -/
@[simp] theorem State.event_regs (s : State) (k t : Nat) (d : List Byte) : (s.event k t d).regs = s.regs := by
  unfold State.event; split <;> rfl
/-- An event record leaves `due` as it is. -/
@[simp] theorem State.event_due (s : State) (k t : Nat) (d : List Byte) : (s.event k t d).due = s.due := by
  unfold State.event; split <;> rfl
/-- An event record leaves `out` as it is. -/
@[simp] theorem State.event_out (s : State) (k t : Nat) (d : List Byte) : (s.event k t d).out = s.out := by
  unfold State.event; split <;> rfl
/-- An event record leaves `fresh` as it is. -/
@[simp] theorem State.event_fresh (s : State) (k t : Nat) (d : List Byte) : (s.event k t d).fresh = s.fresh := by
  unfold State.event; split <;> rfl
/-- An event record leaves `now` as it is. -/
@[simp] theorem State.event_now (s : State) (k t : Nat) (d : List Byte) : (s.event k t d).now = s.now := by
  unfold State.event; split <;> rfl
/-- An event record leaves `tick` as it is. -/
@[simp] theorem State.event_tick (s : State) (k t : Nat) (d : List Byte) : (s.event k t d).tick = s.tick := by
  unfold State.event; split <;> rfl
/-- An event record leaves `sq` as it is. -/
@[simp] theorem State.event_sq (s : State) (k t : Nat) (d : List Byte) : (s.event k t d).sq = s.sq := by
  unfold State.event; split <;> rfl
/-- An event record leaves `sched` as it is. -/
@[simp] theorem State.event_sched (s : State) (k t : Nat) (d : List Byte) : (s.event k t d).sched = s.sched := by
  unfold State.event; split <;> rfl
/-- An event record leaves `lanes` as it is. -/
@[simp] theorem State.event_lanes (s : State) (k t : Nat) (d : List Byte) : (s.event k t d).lanes = s.lanes := by
  unfold State.event; split <;> rfl
/-- An event record leaves `pkgs` as it is. -/
@[simp] theorem State.event_pkgs (s : State) (k t : Nat) (d : List Byte) : (s.event k t d).pkgs = s.pkgs := by
  unfold State.event; split <;> rfl
/-- An event record leaves `wins` as it is. -/
@[simp] theorem State.event_wins (s : State) (k t : Nat) (d : List Byte) : (s.event k t d).wins = s.wins := by
  unfold State.event; split <;> rfl
/-- An event record leaves `io` as it is. -/
@[simp] theorem State.event_io (s : State) (k t : Nat) (d : List Byte) : (s.event k t d).io = s.io := by
  unfold State.event; split <;> rfl
/-- An event record leaves `can` as it is. -/
@[simp] theorem State.event_can (s : State) (k t : Nat) (d : List Byte) : (s.event k t d).can = s.can := by
  unfold State.event; split <;> rfl
/-- An event record leaves `pair` as it is. -/
@[simp] theorem State.event_pair (s : State) (k t : Nat) (d : List Byte) : (s.event k t d).pair = s.pair := by
  unfold State.event; split <;> rfl
/-- An event record leaves `plant` as it is. -/
@[simp] theorem State.event_plant (s : State) (k t : Nat) (d : List Byte) : (s.event k t d).plant = s.plant := by
  unfold State.event; split <;> rfl
/-- An event record leaves `host` as it is. -/
@[simp] theorem State.event_host (s : State) (k t : Nat) (d : List Byte) : (s.event k t d).host = s.host := by
  unfold State.event; split <;> rfl
/-- An event record leaves `kerb` as it is. -/
@[simp] theorem State.event_kerb (s : State) (k t : Nat) (d : List Byte) : (s.event k t d).kerb = s.kerb := by
  unfold State.event; split <;> rfl
/-- An event record leaves `imv` as it is. -/
@[simp] theorem State.event_imv (s : State) (k t : Nat) (d : List Byte) : (s.event k t d).imv = s.imv := by
  unfold State.event; split <;> rfl
/-- An event record leaves `olc` as it is. -/
@[simp] theorem State.event_olc (s : State) (k t : Nat) (d : List Byte) : (s.event k t d).olc = s.olc := by
  unfold State.event; split <;> rfl
/-- An event record leaves `setup` as it is. -/
@[simp] theorem State.event_setup (s : State) (k t : Nat) (d : List Byte) : (s.event k t d).setup = s.setup := by
  unfold State.event; split <;> rfl

end Sys2Proof.Machine
end

