-- ==== Sys2Proof/Laws/Regs.lean ====
section
/-! SUPPORT. Which register fields an operation can change, gathered as it is built up, and what a write through an access path leaves. -/
namespace Sys2Proof.Machine

/-- The step from `s` to `t` changes at most the listed instances of register fields, and the register file keeps its canonical form. -/
structure Chg (s t : State) (l : List (Fld × Nat)) : Prop where
  only : OnlyRegs s t l
  ok : t.RegsOk

/-- A field reads the same where the register file is the same. -/
theorem getF_same {s t : State} {f : Fld} {ix : Nat} (e : t.regs = s.regs) : t.getF f ix = s.getF f ix := by unfold State.getF; rw [e]

/-- Nothing changed. -/
theorem Chg.refl {s : State} (h : s.RegsOk) : Chg s s [] := ⟨fun _ _ _ => rfl, h⟩

/-- The register file is the same. -/
theorem Chg.same {s t u : State} {l : List (Fld × Nat)} (h : Chg s t l) (e : u.regs = t.regs) : Chg s u l := by
  refine ⟨fun f ix hf => ?_, ?_⟩
  · rw [← h.only f ix hf]; unfold State.getF; rw [e]
  · have := h.ok; unfold State.RegsOk at *; rw [e]; exact this

/-- One more field put. -/
theorem Chg.setF {s t : State} {l : List (Fld × Nat)} (h : Chg s t l) (f : Fld) (v ix : Nat) : Chg s (t.setF f v ix) ((f, ix) :: l) := by
  refine ⟨fun g iy hg => ?_, regs_setF_rising _ _ _ _ h.ok⟩
  rw [getF_setF_ne _ _ h.ok (hg (f, ix) (List.mem_cons_self ..))]
  exact h.only g iy (fun x hx => hg x (List.mem_cons_of_mem _ hx))

/-- A flag put. -/
theorem Chg.setB {s t : State} {l : List (Fld × Nat)} (h : Chg s t l) (f : Fld) (b : Bool) (ix : Nat) : Chg s (t.setB f b ix) ((f, ix) :: l) :=
  h.setF f _ ix
/-- A counter advanced. -/
theorem Chg.bump {s t : State} {l : List (Fld × Nat)} (h : Chg s t l) (f : Fld) (ix n : Nat) : Chg s (t.bump f ix n) ((f, ix) :: l) :=
  h.setF f _ ix
/-- A wrapping counter advanced. -/
theorem Chg.wrapUp {s t : State} {l : List (Fld × Nat)} (h : Chg s t l) (f : Fld) (ix : Nat) : Chg s (t.wrapUp f ix) ((f, ix) :: l) :=
  h.setF f _ ix

/-- A longer list of instances. -/
theorem Chg.mono {s t : State} {l m : List (Fld × Nat)} (h : Chg s t l) (hl : ∀ x ∈ l, x ∈ m) : Chg s t m :=
  ⟨fun f ix hf => h.only f ix (fun x hx => hf x (hl x hx)), h.ok⟩

/-- One change after another. -/
theorem Chg.trans {s t u : State} {l m : List (Fld × Nat)} (h : Chg s t l) (k : Chg t u m) : Chg s u (m ++ l) :=
  ⟨fun f ix hf => (k.only f ix (fun x hx => hf x (List.mem_append_left _ hx))).trans
    (h.only f ix (fun x hx => hf x (List.mem_append_right _ hx))), k.ok⟩

/-- What a write through an access path does beside its effect. -/
def book (b : Nat) : List (Fld × Nat) := [(wrCnt b, 0), (lastWr b, 0), (ignCnt b, 0), (KRB_IGNSTAT_IGNCNT, 0)]

/-- The state with the count of refused writes set aside. -/
abbrev State.aside (s : State) : State := s.setF KRB_IGNSTAT_IGNCNT 0

/-- Setting the count aside touches that count. -/
theorem Chg.aside {s : State} (h : s.RegsOk) : Chg s s.aside [(KRB_IGNSTAT_IGNCNT, 0)] := (Chg.refl h).setF _ _ _

/-- Every other field reads the same where the count is set aside. -/
theorem getF_aside {s : State} (h : s.RegsOk) (g : Fld) {ix : Nat} (hk : g.key ix ≠ KRB_IGNSTAT_IGNCNT.key 0) : s.aside.getF g ix = s.getF g ix :=
  getF_setF_ne _ _ h hk

/-- A write of a running module whose effect is `u` and refuses nothing: it counts as accepted. -/
theorem State.written_taken {s : State} {p : Path} {off : Nat} {f : State → State} {u : State} (hr : s.Runs) (hu : f s.aside = u)
    (ur : u.kerb.phase ≠ .boot) (hf : u.flag KRB_IGNSTAT_IGNCNT = false) :
    s.written p off f = (((u.setF KRB_IGNSTAT_IGNCNT (sat 16 (s.getF KRB_IGNSTAT_IGNCNT))).setF (ignCnt (off / 0x10000))
      (sat 8 (s.getF (ignCnt (off / 0x10000))))).setF (lastWr (off / 0x10000)) (off % 0x10000 / 4)).wrapUp (wrCnt (off / 0x10000)) := by
  have hb : s.blkReady (off / 0x10000) = true := by unfold State.blkReady; rw [show s.kerb.phase = .run from hr]
  unfold State.written State.attempts
  dsimp only
  rw [hb]
  simp only [Bool.not_true, Bool.false_eq_true, if_false, List.foldl_cons, List.foldl_nil, List.isEmpty_cons]
  rw [show (s.setF KRB_IGNSTAT_IGNCNT 0) = s.aside from rfl, hu]
  simp only [hf, Bool.false_eq_true, if_false]
  rw [if_neg (by simp [ur]), if_pos trivial]
  rfl

/-- A write of a running module whose effect is `u` and refuses it: it is counted once as ignored. -/
theorem State.written_refused {s : State} {p : Path} {off : Nat} {f : State → State} {u : State} (hr : s.Runs) (hu : f s.aside = u)
    (ur : u.kerb.phase ≠ .boot) (hf : u.flag KRB_IGNSTAT_IGNCNT = true) :
    s.written p off f = (u.setF KRB_IGNSTAT_IGNCNT (sat 16 (s.getF KRB_IGNSTAT_IGNCNT + 1))).setF (ignCnt (off / 0x10000))
      (sat 8 (s.getF (ignCnt (off / 0x10000)) + 1)) := by
  have hb : s.blkReady (off / 0x10000) = true := by unfold State.blkReady; rw [show s.kerb.phase = .run from hr]
  unfold State.written State.attempts
  dsimp only
  rw [hb]
  simp only [Bool.not_true, Bool.false_eq_true, if_false, List.foldl_cons, List.foldl_nil, List.isEmpty_cons]
  rw [show (s.setF KRB_IGNSTAT_IGNCNT 0) = s.aside from rfl, hu]
  simp only [hf, if_true]
  rw [if_neg (by simp [ur]), if_neg (by simp)]
  rfl

/-- A write of a running module: everything but the register file is as the effect leaves it, and of the register file only the bookkeeping of
the write differs. -/
theorem State.written_run {s : State} {p : Path} {off : Nat} {f : State → State} {u : State} (hr : s.Runs) (hu : f s.aside = u)
    (uk : u.RegsOk) (ur : u.kerb.phase ≠ .boot) :
    s.written p off f = { u with regs := (s.written p off f).regs } ∧ Chg u (s.written p off f) (book (off / 0x10000)) := by
  have c0 := Chg.refl uk
  by_cases hf : u.flag KRB_IGNSTAT_IGNCNT = true
  · rw [State.written_refused hr hu ur hf]
    refine ⟨rfl, ((c0.setF _ _ _).setF _ _ _).mono ?_⟩
    intro x hx
    simp only [book, List.mem_cons, List.not_mem_nil, or_false] at *
    grind
  · rw [Bool.not_eq_true] at hf
    rw [State.written_taken hr hu ur hf]
    refine ⟨rfl, ((((c0.setF _ _ _).setF _ _ _).setF _ _ _).wrapUp _ _).mono ?_⟩
    intro x hx
    simp only [book, List.mem_cons, List.not_mem_nil, or_false] at *
    grind

/-- The same for a statement about the whole command: the effect's changes and the bookkeeping. -/
theorem Chg.onlyW {s u t : State} {b : Nat} {l : List (Fld × Nat)} (hc : Chg s.aside u l) (hs : s.RegsOk) (ht : Chg u t (book b)) :
    OnlyRegsW b s t l := by
  have h := ((Chg.aside hs).trans hc).trans ht
  refine (h.mono ?_).only
  intro x hx
  simp only [book, List.mem_append, List.mem_cons, List.not_mem_nil, or_false] at *
  grind

/-- A refused write: the fields that record it, and nothing beside the register file. -/
theorem State.ignored_does {s : State} (h : s.RegsOk) (p : Path) {off : Nat} (ho : off < 0x140000) (c : Nat) :
    (∃ r, s.ignored p off c = { s with regs := r }) ∧
    Chg s (s.ignored p off c) [(KRB_IGNPATH_PATH, 0), (KRB_IGNADDR_OFFSET, 0), (KRB_IGNSTAT_CAUSE, 0), (ignCnt (off / 0x10000), 0), (KRB_IGNSTAT_IGNCNT, 0)] ∧
    (s.ignored p off c).getF KRB_IGNSTAT_CAUSE = c % 2 ^ 4 ∧ (s.ignored p off c).getF KRB_IGNADDR_OFFSET = off % 2 ^ 24 ∧
    (s.ignored p off c).getF KRB_IGNPATH_PATH = p.code % 2 ^ 16 := by
  have c2 := ((Chg.refl h).bump KRB_IGNSTAT_IGNCNT 0 1).bump (ignCnt (off / 0x10000)) 0 1
  have c3 := c2.setF KRB_IGNSTAT_CAUSE c 0
  have c4 := c3.setF KRB_IGNADDR_OFFSET off 0
  have c5 := c4.setF KRB_IGNPATH_PATH p.code 0
  have e : s.ignored p off c = ((((s.bump KRB_IGNSTAT_IGNCNT).bump (ignCnt (off / 0x10000))).setF KRB_IGNSTAT_CAUSE c).setF
      KRB_IGNADDR_OFFSET off).setF KRB_IGNPATH_PATH p.code := by
    unfold State.ignored
    dsimp only
    rw [if_pos ho]
  rw [e]
  refine ⟨⟨_, rfl⟩, c5, ?_, ?_, getF_setF_self _ _ _ _ c4.ok⟩
  · exact (getF_setF_ne _ _ c4.ok (by decide)).trans ((getF_setF_ne _ _ c3.ok (by decide)).trans (getF_setF_self _ _ _ _ c2.ok))
  · exact (getF_setF_ne _ _ c4.ok (by decide)).trans (getF_setF_self _ _ _ _ c3.ok)

/-- A write of a running module, by what its effect is on the state with the count of refused writes set aside. -/
theorem State.written_does {s : State} {p : Path} {off : Nat} {f : State → State} {u : State} {l : List (Fld × Nat)} (hr : s.Runs) (h : s.RegsOk)
    (hu : f s.aside = u) (hc : Chg s.aside u l) (hp : u.kerb.phase ≠ .boot) :
    s.written p off f = { u with regs := (s.written p off f).regs } ∧ OnlyRegsW (off / 0x10000) s (s.written p off f) l ∧
    ∀ (g : Fld) (ix : Nat), (∀ x ∈ book (off / 0x10000), g.key ix ≠ x.1.key x.2) → (s.written p off f).getF g ix = u.getF g ix := by
  have w := State.written_run (p := p) (off := off) hr hu hc.ok hp
  exact ⟨w.1, hc.onlyW h w.2, fun g ix hg => w.2.only g ix hg⟩

/-- A write of a running module that its effect refuses. -/
theorem State.written_ignored {s : State} {p : Path} {off : Nat} {f : State → State} {c : Nat} (hr : s.Runs) (h : s.RegsOk) (ho : off < 0x140000)
    (hu : f s.aside = s.aside.ignored p off c) :
    RegsOnlyW (off / 0x10000) s (s.written p off f) [(KRB_IGNSTAT_CAUSE, 0), (KRB_IGNADDR_OFFSET, 0), (KRB_IGNPATH_PATH, 0)] ∧
    (s.written p off f).getF KRB_IGNSTAT_CAUSE = c % 2 ^ 4 := by
  obtain ⟨⟨r, e⟩, k, k1, k2, k3⟩ := State.ignored_does (Chg.aside h).ok p ho c
  have w := State.written_run (s := s) (p := p) (off := off) hr hu k.ok (by rw [e]; show s.kerb.phase ≠ _; rw [show s.kerb.phase = .run from hr]; decide)
  refine ⟨⟨?_, ?_⟩, ?_⟩
  · rw [w.1, e]; rfl
  · refine ((((Chg.aside h).trans k).trans w.2).mono ?_).only
    intro x hx
    simp only [book, List.mem_append, List.mem_cons, List.not_mem_nil, or_false] at *
    grind
  · rw [w.2.only KRB_IGNSTAT_CAUSE 0 ?_, k1]
    intro x hx
    simp only [book, List.mem_cons, List.not_mem_nil, or_false] at hx
    rcases hx with rfl | rfl | rfl | rfl
    · exact key_ne_of_place (by decide) (by show 0 < 65536; decide) (by simp only [KRB_IGNSTAT_CAUSE, wrCnt, common]; omega)
    · exact key_ne_of_place (by decide) (by show 0 < 65536; decide) (by simp only [KRB_IGNSTAT_CAUSE, lastWr, common]; omega)
    · exact key_ne_of_place (by decide) (by show 0 < 65536; decide) (by simp only [KRB_IGNSTAT_CAUSE, ignCnt, common]; omega)
    · decide

/-- A field that stands elsewhere is none of the bookkeeping fields of a write. -/
theorem book_ne {g : Fld} {ix b : Nat} (hix : ix < 65536) (hb : ∀ x ∈ book b, g.off * 32 + g.lo ≠ x.1.off * 32 + x.1.lo) :
    ∀ x ∈ book b, g.key ix ≠ x.1.key x.2 := by
  intro x hx
  have h := hb x hx
  simp only [book, List.mem_cons, List.not_mem_nil, or_false] at hx
  rcases hx with rfl | rfl | rfl | rfl <;> exact key_ne_of_place hix (by show 0 < 65536; decide) h

/-- A longer list of instances. -/
theorem OnlyRegs.mono {s t : State} {l m : List (Fld × Nat)} (h : OnlyRegs s t l) (hl : ∀ x ∈ l, x ∈ m) : OnlyRegs s t m :=
  fun f ix hf => h f ix (fun x hx => hf x (hl x hx))

/-- A longer list of instances, of a write. -/
theorem OnlyRegsW.mono {b : Nat} {s t : State} {l m : List (Fld × Nat)} (h : OnlyRegsW b s t l) (hl : ∀ x ∈ l, x ∈ m) : OnlyRegsW b s t m := by
  refine OnlyRegs.mono h ?_
  intro x hx
  simp only [List.mem_append] at *
  grind

/-- A flag of one bit reads as it was put. -/
theorem flag_setB_self {s : State} (h : s.RegsOk) {f : Fld} (b : Bool) {ix : Nat} (hw : f.w = 1) : (s.setB f b ix).flag f ix = b := by
  unfold State.flag State.setB
  rw [getF_setF_self _ _ _ _ h, hw]
  cases b <;> rfl

/-- Another flag reads as before. -/
theorem flag_setF_ne {s : State} (h : s.RegsOk) {f g : Fld} {v ix iy : Nat} (hk : g.key iy ≠ f.key ix) : (s.setF f v ix).flag g iy = s.flag g iy := by
  unfold State.flag
  rw [getF_setF_ne _ _ h hk]

/-- The same with the block and the cause named. -/
theorem State.written_ign {s : State} {p : Path} {off b c : Nat} {f : State → State} (hr : s.Runs) (h : s.RegsOk)
    (hu : f s.aside = s.aside.ignored p off c) (hc : c < 16) (ho : off < 0x140000) (hb : off / 0x10000 = b) :
    RegsOnlyW b s (s.written p off f) [(KRB_IGNSTAT_CAUSE, 0), (KRB_IGNADDR_OFFSET, 0), (KRB_IGNPATH_PATH, 0)] ∧
    (s.written p off f).getF KRB_IGNSTAT_CAUSE = c := by
  have w := State.written_ignored (p := p) (off := off) hr h ho hu
  rw [hb] at w
  exact ⟨w.1, w.2.trans (Nat.mod_eq_of_lt hc)⟩

/-- A flag reads the same where the count of refused writes is set aside. -/
theorem flag_aside {s : State} (h : s.RegsOk) (g : Fld) {ix : Nat} (hk : g.key ix ≠ KRB_IGNSTAT_IGNCNT.key 0) : s.aside.flag g ix = s.flag g ix := by
  unfold State.flag
  rw [getF_aside h g hk]

/-- The switch UPDATE-ENABLE reads the same where the count is set aside. -/
theorem updateEnable_aside {s : State} (h : s.RegsOk) : s.aside.updateEnable = s.updateEnable := flag_aside h _ (by decide)
/-- The switch SAFETY-EDIT reads the same where the count is set aside. -/
theorem safetyEdit_aside {s : State} (h : s.RegsOk) : s.aside.safetyEdit = s.safetyEdit := flag_aside h _ (by decide)

/-- A write of a running module whose effect changes no register: beside the bookkeeping, the state is as the effect leaves it. -/
theorem State.written_plain {s u : State} {p : Path} {off : Nat} {f : State → State} (hr : s.Runs) (h : s.RegsOk) (hu : f s.aside = u)
    (hg : u.regs = s.aside.regs) (hp : u.kerb.phase ≠ .boot) :
    s.written p off f = { u with regs := (s.written p off f).regs } ∧ OnlyRegsW (off / 0x10000) s (s.written p off f) [] := by
  have w := State.written_does (p := p) (off := off) hr h hu ((Chg.refl (Chg.aside h).ok).same hg) hp
  exact ⟨w.1, w.2.1⟩

/-- Another flag reads as before. -/
theorem flag_setB_ne {s : State} (h : s.RegsOk) {f g : Fld} {b : Bool} {ix iy : Nat} (hk : g.key iy ≠ f.key ix) : (s.setB f b ix).flag g iy = s.flag g iy :=
  flag_setF_ne h hk

/-- What waits under a key after a write that waits: that write's value. -/
theorem dueVal_setLater_self (s : State) (w : When) (f : Fld) (v ix : Nat) : dueVal (s.setLater w f v ix).due (f.key ix) = some (v % 2 ^ f.w) := by
  unfold State.setLater dueVal
  dsimp only
  rw [List.filter_append]
  have : ∀ d : Due, ([d].filter (fun d => d.key = f.key ix)) = if d.key = f.key ix then [d] else [] := by
    intro d
    by_cases h : d.key = f.key ix <;> simp [h]
  rw [this, if_pos rfl, List.getLast?_append]
  rfl

/-- A write that waits leaves what waits under another key. -/
theorem dueVal_setLater_ne (s : State) (w : When) {f : Fld} (v : Nat) {ix k : Nat} (hk : k ≠ f.key ix) :
    dueVal (s.setLater w f v ix).due k = dueVal s.due k := by
  unfold State.setLater dueVal
  dsimp only
  rw [List.filter_append, List.filter_filter]
  have e1 : ([(⟨w, f.key ix, v % 2 ^ f.w, some 0⟩ : Due)].filter (fun d => d.key = k)) = [] := by
    simp [Ne.symm hk]
  have e2 : (fun d : Due => decide (d.key = k) && decide (d.key ≠ f.key ix)) = fun d => decide (d.key = k) := by
    funext d
    by_cases h : d.key = k
    · simp [h, hk]
    · simp [h]
  rw [e1, List.append_nil, e2]

/-- What waits is what a read returns. -/
theorem asWritten_of_due {s : State} {f : Fld} {ix v : Nat} (h : dueVal s.due (f.key ix) = some v) : s.asWritten f ix = v := by
  unfold State.asWritten
  rw [h]
  rfl

/-- The number of a path is small. -/
theorem Path.code_lt (p : Path) : p.code < 65536 := by
  cases p with
  | mgmt c => show c.val < 65536; omega
  | queue n => show 0x8000 + n.val < 65536; omega

/-- A record of the event log, of a module that is not off. -/
theorem State.event_on {s : State} (h : s.kerb.phase ≠ .off) (kind task : Nat) (d : List Byte) :
    s.event kind task d = { s with arc := { s.arc with
      evs := s.arc.evs ++ [{ kind := kind, flags := 0, seat := s.seat, seq := s.arc.evSeq, csn := s.sq.csn, time := s.now,
                             task := task, epoch := s.epoch, payload := d, prog := false }], evSeq := s.arc.evSeq + 1 } } := if_neg h

end Sys2Proof.Machine
end

