-- ==== Sys2Proof/Laws/Power.lean ====
section
/-! SUPPORT. What the Kerb's and the supplies' shared operations do: measuring, the lane clock, and the Kerb set. -/
namespace Sys2Proof.Machine

/-- A record of the event log leaves the register file alone. -/
theorem Chg.evHw {s t : State} {l : List (Fld × Nat)} (h : Chg s t l) (n : Nat) (d : List Nat) : Chg s (t.evHw n d) l := h.same (State.event_regs ..)

/-- The sensors' values reach their registers. -/
theorem Chg.sense {s : State} (h : s.RegsOk) (m : PwrMeas) : Chg s (s.sense m) (sensorFields.take 14) := by
  unfold State.sense
  dsimp only
  exact (((((((((((((((Chg.refl h).setF _ _ _).setF _ _ _).setF _ _ _).setF _ _ _).setF _ _ _).setF _ _ _).setF _ _ _).setF _ _ _).setF _ _ _).setF
    _ _ _).setF _ _ _).setF _ _ _).setF _ _ _).setF _ _ _).mono (by decide)

/-- TWARN follows. -/
theorem Chg.warnTemps {s t : State} {l : List (Fld × Nat)} (h : Chg s t l) : Chg s t.warnTemps ((PWR_STAT_TWARN, 0) :: l) := by
  unfold State.warnTemps
  dsimp only
  split
  · exact (h.setF _ _ _).evHw _ _
  · exact h.setB _ _ _

/-- Measuring changes the sensors' registers and TWARN only. -/
theorem Chg.measure {s : State} (h : s.RegsOk) (m : PwrMeas) : Chg s (s.measure m) sensorFields :=
  (Chg.sense h m).warnTemps.mono (by decide)

/-- Measuring can change the event log, beside the register file, and nothing else. -/
theorem State.measure_frame (s : State) (m : PwrMeas) : ∃ r a, s.measure m = { s with regs := r, arc := a } := by
  have set : ∀ (t : State) (f : Fld) (v : Nat), (∃ r, t = { s with regs := r }) → ∃ r, t.setF f v = { s with regs := r } := by
    rintro _ f v ⟨r, rfl⟩
    exact ⟨_, rfl⟩
  have h : ∃ r, s.sense m = { s with regs := r } := by
    unfold State.sense
    dsimp only
    repeat' (refine set _ _ _ ?_)
    exact ⟨s.regs, rfl⟩
  unfold State.measure
  obtain ⟨r, e⟩ := h
  rw [e]
  unfold State.warnTemps State.evHw State.event
  dsimp only
  split
  · split
    · exact ⟨_, _, rfl⟩
    · exact ⟨_, _, rfl⟩
  · exact ⟨_, _, rfl⟩

/-- What a 16-bit half of a sensor's word reads as afterwards. -/
theorem State.measure_reads {s : State} (h : s.RegsOk) (m : PwrMeas) :
    (s.measure m).getF PWR_BUS_V = m.bus.toNat % 2 ^ 16 ∧ (s.measure m).getF PWR_BUS_CHARGE = m.bus.toNat / 2 ^ 16 % 2 ^ 8 ∧
    (s.measure m).getF PWR_TEMP_DIE = m.temp.toNat / 2 ^ 16 ∧ (s.measure m).getF PWR_TEMP2_COLD = m.temp2.toNat % 2 ^ 16 ∧
    (s.measure m).getF PWR_TEMP2_STACK = m.temp2.toNat / 2 ^ 16 ∧ (s.measure m).getF PWR_FLOW_FLOW = m.flow.toNat % 2 ^ 16 := by
  have hw : ∀ f : Fld, f.key 0 ≠ PWR_STAT_TWARN.key 0 → (s.measure m).getF f = (s.sense m).getF f := by
    intro f hf
    exact (Chg.warnTemps (Chg.refl (Chg.sense h m).ok)).only f 0 (by simpa using hf)
  rw [hw _ (by decide), hw _ (by decide), hw _ (by decide), hw _ (by decide), hw _ (by decide), hw _ (by decide)]
  have b1 := m.temp.isLt
  have b2 := m.temp2.isLt
  have c8 := ((((((((Chg.refl h).setF PWR_MAINSA_V m.mainsA.toNat 0).setF PWR_MAINSA_I (bits m.mainsA.toNat 16 16) 0).setF PWR_MAINSB_V m.mainsB.toNat 0).setF
    PWR_MAINSB_I (bits m.mainsB.toNat 16 16) 0).setF PWR_BUS_V m.bus.toNat 0).setF PWR_BUS_CHARGE (bits m.bus.toNat 16 16) 0).setF
    PWR_TEMP_INLET m.temp.toNat 0).setF PWR_TEMP_DIE (bits m.temp.toNat 16 16) 0
  have c4 := (((Chg.refl h).setF PWR_MAINSA_V m.mainsA.toNat 0).setF PWR_MAINSA_I (bits m.mainsA.toNat 16 16) 0).setF PWR_MAINSB_V m.mainsB.toNat 0
    |>.setF PWR_MAINSB_I (bits m.mainsB.toNat 16 16) 0
  have c5 := c4.setF PWR_BUS_V m.bus.toNat 0
  have c6 := c5.setF PWR_BUS_CHARGE (bits m.bus.toNat 16 16) 0
  have c7 := c6.setF PWR_TEMP_INLET m.temp.toNat 0
  have c9 := c8.setF PWR_TEMP2_COLD m.temp2.toNat 0
  have ca := c9.setF PWR_TEMP2_STACK (bits m.temp2.toNat 16 16) 0
  have cb := ca.setF PWR_FLOW_FLOW m.flow.toNat 0
  have cc := cb.setF PWR_FLOW_OUTLET (bits m.flow.toNat 16 16) 0
  have cd := cc.setF PWR_POWER_DRAW m.power.toNat 0
  unfold State.sense
  dsimp only
  refine ⟨?_, ?_, ?_, ?_, ?_, ?_⟩
  · rw [getF_setF_ne _ _ cd.ok (by decide), getF_setF_ne _ _ cc.ok (by decide), getF_setF_ne _ _ cb.ok (by decide), getF_setF_ne _ _ ca.ok (by decide),
      getF_setF_ne _ _ c9.ok (by decide), getF_setF_ne _ _ c8.ok (by decide), getF_setF_ne _ _ c7.ok (by decide), getF_setF_ne _ _ c6.ok (by decide),
      getF_setF_ne _ _ c5.ok (by decide), getF_setF_self _ _ _ _ c4.ok]; rfl
  · rw [getF_setF_ne _ _ cd.ok (by decide), getF_setF_ne _ _ cc.ok (by decide), getF_setF_ne _ _ cb.ok (by decide), getF_setF_ne _ _ ca.ok (by decide),
      getF_setF_ne _ _ c9.ok (by decide), getF_setF_ne _ _ c8.ok (by decide), getF_setF_ne _ _ c7.ok (by decide), getF_setF_ne _ _ c6.ok (by decide),
      getF_setF_self _ _ _ _ c5.ok]
    simp only [bits, PWR_BUS_CHARGE]; omega
  · rw [getF_setF_ne _ _ cd.ok (by decide), getF_setF_ne _ _ cc.ok (by decide), getF_setF_ne _ _ cb.ok (by decide), getF_setF_ne _ _ ca.ok (by decide),
      getF_setF_ne _ _ c9.ok (by decide), getF_setF_ne _ _ c8.ok (by decide), getF_setF_self _ _ _ _ c7.ok]
    simp only [bits, PWR_TEMP_DIE]; omega
  · rw [getF_setF_ne _ _ cd.ok (by decide), getF_setF_ne _ _ cc.ok (by decide), getF_setF_ne _ _ cb.ok (by decide), getF_setF_ne _ _ ca.ok (by decide),
      getF_setF_ne _ _ c9.ok (by decide), getF_setF_self _ _ _ _ c8.ok]; rfl
  · rw [getF_setF_ne _ _ cd.ok (by decide), getF_setF_ne _ _ cc.ok (by decide), getF_setF_ne _ _ cb.ok (by decide), getF_setF_ne _ _ ca.ok (by decide),
      getF_setF_self _ _ _ _ c9.ok]
    simp only [bits, PWR_TEMP2_STACK]; omega
  · rw [getF_setF_ne _ _ cd.ok (by decide), getF_setF_ne _ _ cc.ok (by decide), getF_setF_ne _ _ cb.ok (by decide), getF_setF_self _ _ _ _ ca.ok]; rfl

/-- The lane clock follows its four causes. -/
theorem State.laneClock_does {s : State} (h : s.RegsOk) :
    s.laneClock = { s with regs := s.laneClock.regs } ∧ Chg s s.laneClock [(PWR_STAT_LANECLK, 0), (PWR_STAT_SAG, 0), (PWR_STAT_THERM, 0)] ∧
    s.laneClock.getF PWR_STAT_LANECLK = clkStep s.kerb.sag s.kerb.therm (s.flag PWR_STAT_CAPPED) (s.flag PWR_STAT_STOREFLT) := by
  have c1 := (Chg.refl h).setF PWR_STAT_LANECLK
    (max (max s.kerb.sag s.kerb.therm) (max (if s.flag PWR_STAT_CAPPED then 3 else 0) (if s.flag PWR_STAT_STOREFLT then 1 else 0))) 0
  have c2 := c1.setB PWR_STAT_SAG (s.kerb.sag ≠ 0) 0
  refine ⟨rfl, (c2.setB PWR_STAT_THERM (s.kerb.therm ≠ 0) 0).mono (by decide), ?_⟩
  exact (getF_setF_ne _ _ c2.ok (by decide)).trans ((getF_setF_ne _ _ c1.ok (by decide)).trans (getF_setF_self _ _ _ _ h))

/-- A record of the event log changes nothing but the Arcade. -/
theorem State.evHw_frame (s : State) (n : Nat) (d : List Nat) : ∃ a, s.evHw n d = { s with arc := a } := by
  unfold State.evHw State.event
  split
  · exact ⟨_, rfl⟩
  · exact ⟨_, rfl⟩

/-- A new sag step. -/
theorem State.setSag_does {s : State} (h : s.RegsOk) {c : Nat} (hc : c ≠ s.kerb.sag) :
    (∃ r a, s.setSag c = { s with regs := r, arc := a, kerb := { s.kerb with sag := c } }) ∧
    Chg s (s.setSag c) [(PWR_STAT_LANECLK, 0), (PWR_STAT_SAG, 0), (PWR_STAT_THERM, 0), (PWR_STAT_SAGCNT, 0)] ∧
    (s.setSag c).getF PWR_STAT_LANECLK = clkStep c s.kerb.therm (s.flag PWR_STAT_CAPPED) (s.flag PWR_STAT_STOREFLT) := by
  have e : s.setSag c = (((s.bump PWR_STAT_SAGCNT).evHw 32 [s.kerb.sag, c]).modKerb (fun k => { k with sag := c })).laneClock := if_neg hc
  obtain ⟨a, ha⟩ := State.evHw_frame (s.bump PWR_STAT_SAGCNT) 32 [s.kerb.sag, c]
  have c1 := (Chg.refl h).bump PWR_STAT_SAGCNT 0 1
  have c2 : Chg s (((s.bump PWR_STAT_SAGCNT).evHw 32 [s.kerb.sag, c]).modKerb (fun k => { k with sag := c })) [(PWR_STAT_SAGCNT, 0)] :=
    (c1.evHw 32 [s.kerb.sag, c]).same rfl
  have l := State.laneClock_does c2.ok
  rw [ha] at c2 l e
  refine ⟨?_, ?_, ?_⟩
  · rw [e, l.1]; exact ⟨_, _, rfl⟩
  · rw [e]; exact (c2.trans l.2.1).mono (by decide)
  · rw [e, l.2.2]
    unfold State.flag
    rw [c2.only PWR_STAT_CAPPED 0 (by decide), c2.only PWR_STAT_STOREFLT 0 (by decide)]
    rfl

/-- A new thermal step. -/
theorem State.setTherm_does {s : State} (h : s.RegsOk) {c : Nat} (hc : c ≠ s.kerb.therm) :
    (∃ r a, s.setTherm c = { s with regs := r, arc := a, kerb := { s.kerb with therm := c } }) ∧
    Chg s (s.setTherm c) [(PWR_STAT_LANECLK, 0), (PWR_STAT_SAG, 0), (PWR_STAT_THERM, 0), (PWR_STAT_THCNT, 0)] ∧
    (s.setTherm c).getF PWR_STAT_LANECLK = clkStep s.kerb.sag c (s.flag PWR_STAT_CAPPED) (s.flag PWR_STAT_STOREFLT) := by
  have e : s.setTherm c = (((s.bump PWR_STAT_THCNT).evHw 33 [s.kerb.therm, c]).modKerb (fun k => { k with therm := c })).laneClock := if_neg hc
  obtain ⟨a, ha⟩ := State.evHw_frame (s.bump PWR_STAT_THCNT) 33 [s.kerb.therm, c]
  have c1 := (Chg.refl h).bump PWR_STAT_THCNT 0 1
  have c2 : Chg s (((s.bump PWR_STAT_THCNT).evHw 33 [s.kerb.therm, c]).modKerb (fun k => { k with therm := c })) [(PWR_STAT_THCNT, 0)] :=
    (c1.evHw 33 [s.kerb.therm, c]).same rfl
  have l := State.laneClock_does c2.ok
  rw [ha] at c2 l e
  refine ⟨?_, ?_, ?_⟩
  · rw [e, l.1]; exact ⟨_, _, rfl⟩
  · rw [e]; exact (c2.trans l.2.1).mono (by decide)
  · rw [e, l.2.2]
    unfold State.flag
    rw [c2.only PWR_STAT_CAPPED 0 (by decide), c2.only PWR_STAT_STOREFLT 0 (by decide)]
    rfl

/-- Commanding an analogue output leaves the safe-state drivers as they are. -/
theorem State.aoTarget_safe (s : State) (n : Nat) : (s.aoTarget n).io.safe = s.io.safe := by
  have d : ∀ (t : State) (c : Int × Nat), (t.aoDrive n c).io.safe = t.io.safe := by
    intro t c
    unfold State.aoDrive
    dsimp only
    split <;> rfl
  unfold State.aoTarget
  split
  · exact d _ _
  · split
    · rfl
    · split
      · exact d _ _
      · exact d _ _

/-- The drivers take hold, or let go. -/
theorem State.kerbDrive_safe (s : State) (b : Bool) : (s.kerbDrive b).io.safe = b := by
  have h : ∀ (l : List Nat) (t : State), (l.foldl (fun s n => s.aoTarget n) t).io.safe = t.io.safe := by
    intro l
    induction l with
    | nil => exact fun _ => rfl
    | cons n l ih => exact fun t => (ih _).trans (State.aoTarget_safe t n)
  exact h _ _

/-- The Kerb set of a module that is not off: its record, state K, FENCE, outputs safe. -/
theorem State.kerbSet_does {s : State} (h : s.RegsOk) (hp : s.kerb.phase ≠ .off) (c : Nat) :
    (s.kerbSet c).kerb.phase = .off ∧ (s.kerbSet c).kerb.kset = some (s.kset c) ∧ (s.kerbSet c).getF PWR_STAT_PSTATE = 4 ∧
    (s.kerbSet c).getF KRB_HBCFG_TRIPPED = 1 ∧ (s.kerbSet c).io.safe = true := by
  have h0 : s.askStop.RegsOk := (State.askStop_keeps (Keeps.refl s)).regs h
  unfold State.kerbSet
  rw [if_neg hp]
  dsimp only
  generalize s.kset c = ks
  generalize s.askStop = u at *
  have k : ((u.loseRole 8).kerbDrive true).RegsOk := (State.kerbDrive_keeps (State.loseRole_keeps (Keeps.refl u))).regs h0
  have e := State.kerbDrive_safe (u.loseRole 8) true
  unfold State.enterK
  dsimp only
  generalize (u.loseRole 8).kerbDrive true = t at *
  have k2 := regs_setF_rising t KRB_HBCFG_TRIPPED 1 0 k
  refine ⟨rfl, rfl, ?_, ?_, e⟩
  · exact (getF_same (s := (t.setF KRB_HBCFG_TRIPPED 1).setF PWR_STAT_PSTATE 4) rfl).trans (getF_setF_self _ _ _ _ k2)
  · exact (getF_same (s := (t.setF KRB_HBCFG_TRIPPED 1).setF PWR_STAT_PSTATE 4) rfl).trans
      ((getF_setF_ne _ _ k2 (by decide)).trans (getF_setF_self _ _ _ _ k))

/-- Changing a session changes the host engine only. -/
theorem State.modSess_frame (s : State) (n : Nat) (f : Sess → Sess) : ∃ h, s.modSess n f = { s with host := h } := by
  unfold State.modSess
  split
  · exact ⟨_, rfl⟩
  · exact ⟨_, rfl⟩

/-- An operation repeated over a list that changes the host engine only. -/
theorem hostOnly_foldl {β : Type} (f : State → β → State) (hf : ∀ s x, ∃ h, f s x = { s with host := h }) (l : List β) (s : State) :
    ∃ h, l.foldl f s = { s with host := h } := by
  induction l generalizing s with
  | nil => exact ⟨_, rfl⟩
  | cons x l ih =>
    obtain ⟨h, e⟩ := hf s x
    obtain ⟨h', e'⟩ := ih (f s x)
    exact ⟨h', by rw [List.foldl_cons, e', e]⟩

/-- Nothing, or an operation that changes the host engine only. -/
theorem hostOnly_ite {c : Prop} [Decidable c] {s t : State} (ht : ∃ h, t = { s with host := h }) : ∃ h, (if c then s else t) = { s with host := h } := by
  split
  · exact ⟨_, rfl⟩
  · exact ht

/-- Completing what waited for a wake changes the host engine only. -/
theorem State.latencyDone_frame (s : State) : ∃ h, s.latencyDone = { s with host := h } := by
  unfold State.latencyDone
  refine hostOnly_foldl _ ?_ _ s
  intro s x
  refine hostOnly_ite ?_
  obtain ⟨h, e⟩ := State.modSess_frame s x.1 (fun y => { y with latWait := [] })
  obtain ⟨h', e'⟩ := hostOnly_foldl (fun (s : State) (w : Nat × Nat) =>
    ((s.putCompl x.1 w.1 { status := 0, flags := 0, opcode := 0x10, reqid := w.2, csn := 0, len := 0, detail := 0, data := [], sub := none }).modQp x.1
      w.1 (fun y => { y with open_ := y.open_ - 1 }))) (by
      intro s w
      obtain ⟨h1, e1⟩ := State.modSess_frame s x.1 _
      obtain ⟨h2, e2⟩ := State.modSess_frame (s.putCompl x.1 w.1 _) x.1 _
      exact ⟨h2, e2.trans (by rw [show s.putCompl x.1 w.1 _ = _ from e1])⟩) x.2.latWait (s.modSess x.1 (fun y => { y with latWait := [] }))
  exact ⟨h', e'.trans (by rw [e])⟩

/-- Driving the analogue outputs touches the field I/O and the count of free values. -/
theorem State.aoAll_frame (s : State) : ∃ i n, s.aoAll = { s with io := i, fresh := n } := by
  have d : ∀ (t : State) (k : Nat) (c : Int × Nat), ∃ i, t.aoDrive k c = { t with io := i } := by
    intro t k c
    unfold State.aoDrive
    dsimp only
    split <;> exact ⟨_, rfl⟩
  have g : ∀ (t : State) (k : Nat), ∃ i n, t.aoTarget k = { t with io := i, fresh := n } := by
    intro t k
    unfold State.aoTarget
    split
    · obtain ⟨i, e⟩ := d t k ((t.aoSafe k : Nat), 1); exact ⟨i, t.fresh, by rw [e]⟩
    · split
      · exact ⟨t.io, t.fresh, rfl⟩
      · split
        · rename_i c _; obtain ⟨i, e⟩ := d t k c; exact ⟨i, t.fresh, by rw [e]⟩
        · obtain ⟨i, e⟩ := d t.free.2 k ((t.free.1 % 262144 : Nat), 1)
          exact ⟨i, t.fresh + 1, by rw [e]; rfl⟩
  have h : ∀ (l : List Nat) (t : State), ∃ i n, l.foldl (fun s n => s.aoTarget n) t = { t with io := i, fresh := n } := by
    intro l
    induction l with
    | nil => exact fun t => ⟨t.io, t.fresh, rfl⟩
    | cons k l ih =>
      intro t
      rw [List.foldl_cons]
      obtain ⟨i, n, e⟩ := g t k
      obtain ⟨j, m, e'⟩ := ih (t.aoTarget k)
      exact ⟨j, m, by rw [e', e]⟩
  exact h _ s

/-- Clearing the CAN queues touches the CAN ports. -/
theorem State.canClear_frame (s : State) : ∃ c, s.canClear = { s with can := c } := by
  have h : ∀ (l : List Nat) (t : State), ∃ c, l.foldl (fun s p => s.modCan p (fun c => { c with slots := [], queue := [] })) t = { t with can := c } := by
    intro l
    induction l with
    | nil => exact fun t => ⟨t.can, rfl⟩
    | cons p l ih =>
      intro t
      rw [List.foldl_cons]
      obtain ⟨c, e⟩ := ih (t.modCan p (fun c => { c with slots := [], queue := [] }))
      exact ⟨c, by rw [e]; rfl⟩
  exact h _ s

/-- A CONFIG record touches the Arcade. -/
theorem State.evCfg_frame (s : State) (n : Nat) (d : List Nat) : ∃ a, s.evCfg n d = { s with arc := a } := by
  unfold State.evCfg State.event
  split
  · exact ⟨s.arc, rfl⟩
  · exact ⟨_, rfl⟩

/-- Entering a pair state: STATE and ROLE, the registers that follow them, and the parts of the module that it touches. -/
theorem State.enterPair_does {s : State} (h : s.RegsOk) {st : Nat} (hst : st < 16) :
    (s.enterPair st).getF PAR_STAT_STATE = st ∧ (s.enterPair st).getF PAR_STAT_ROLE = roleOf st % 4 ∧
    Chg s (s.enterPair st) [(PAR_STAT_STATE, 0), (PAR_STAT_ROLE, 0), (PAR_STAT_ELIGIBLE, 0), (PAR_STAT_FENCEOUT, 0), (PWR_STAT_PSTATE, 0)] ∧
    ∃ r p k i n a c, s.enterPair st = { s with regs := r, pair := p, kerb := k, io := i, fresh := n, arc := a, can := c } ∧
      k.lastWords = s.kerb.lastWords ∧ k.lwCause = s.kerb.lwCause ∧ k.lwSeq = s.kerb.lwSeq ∧ k.phase = s.kerb.phase := by
  unfold State.enterPair
  dsimp only
  have c1 := (Chg.refl h).setF PAR_STAT_STATE st 0
  have c2 := c1.setF PAR_STAT_ROLE (roleOf st) 0
  have c3 := c2.setB PAR_STAT_ELIGIBLE (decide (st = 3) || decide (st = 4)) 0
  have q1 : (((s.setF PAR_STAT_STATE st).setF PAR_STAT_ROLE (roleOf st)).setB PAR_STAT_ELIGIBLE (decide (st = 3) || decide (st = 4))).getF PAR_STAT_STATE = st :=
    (getF_setF_ne _ _ c2.ok (by decide)).trans ((getF_setF_ne _ _ c1.ok (by decide)).trans ((getF_setF_self _ _ _ _ h).trans (Nat.mod_eq_of_lt hst)))
  have q2 : (((s.setF PAR_STAT_STATE st).setF PAR_STAT_ROLE (roleOf st)).setB PAR_STAT_ELIGIBLE (decide (st = 3) || decide (st = 4))).getF PAR_STAT_ROLE = roleOf st % 4 :=
    (getF_setF_ne _ _ c2.ok (by decide)).trans (getF_setF_self _ _ _ _ c1.ok)
  have q3 : (((s.setF PAR_STAT_STATE st).setF PAR_STAT_ROLE (roleOf st)).setB PAR_STAT_ELIGIBLE (decide (st = 3) || decide (st = 4))) =
      { s with regs := (((s.setF PAR_STAT_STATE st).setF PAR_STAT_ROLE (roleOf st)).setB PAR_STAT_ELIGIBLE (decide (st = 3) || decide (st = 4))).regs } := rfl
  generalize ((s.setF PAR_STAT_STATE st).setF PAR_STAT_ROLE (roleOf st)).setB PAR_STAT_ELIGIBLE (decide (st = 3) || decide (st = 4)) = u at *
  have d4 : ∃ v, (if (decide (st = 8) || decide (st = 5)) = true then u.setF PAR_STAT_FENCEOUT 1 else if st = 1 then u.setF PAR_STAT_FENCEOUT 0 else u) = v ∧
      v.getF PAR_STAT_STATE = st ∧ v.getF PAR_STAT_ROLE = roleOf st % 4 ∧ v = { s with regs := v.regs } ∧
      Chg s v [(PAR_STAT_FENCEOUT, 0), (PAR_STAT_ELIGIBLE, 0), (PAR_STAT_ROLE, 0), (PAR_STAT_STATE, 0)] := by
    refine ⟨_, rfl, ?_⟩
    split
    · exact ⟨(getF_setF_ne _ _ c3.ok (by decide)).trans q1, (getF_setF_ne _ _ c3.ok (by decide)).trans q2, by rw [q3]; rfl, c3.setF _ _ _⟩
    · split
      · exact ⟨(getF_setF_ne _ _ c3.ok (by decide)).trans q1, (getF_setF_ne _ _ c3.ok (by decide)).trans q2, by rw [q3]; rfl, c3.setF _ _ _⟩
      · exact ⟨q1, q2, q3, c3.mono (by simp)⟩
  obtain ⟨v, ev, v1, v2, v3, cv⟩ := d4
  rw [ev]
  have d5 : ∃ p k, (if s.getF PAR_STAT_ROLE ≠ roleOf st then
      ({ v with pair := { v.pair with lastLead := decide (roleOf st = 2), lastEpoch := v.epoch }, kerb := { v.kerb with roleSeat := some v.seat } } : State) else v) =
      { v with pair := p, kerb := k } ∧ k.lastWords = s.kerb.lastWords ∧ k.lwCause = s.kerb.lwCause ∧ k.lwSeq = s.kerb.lwSeq ∧ k.phase = s.kerb.phase := by
    have vk : v.kerb = s.kerb := by rw [v3]
    split
    · exact ⟨_, _, rfl, by rw [vk], by rw [vk], by rw [vk], by rw [vk]⟩
    · exact ⟨v.pair, v.kerb, rfl, by rw [vk], by rw [vk], by rw [vk], by rw [vk]⟩
  obtain ⟨p, k, e5, k1, k2, k3, k4⟩ := d5
  rw [e5]
  have c6 := cv.same (u := { v with pair := p, kerb := k }) rfl
  have w1 : ({ v with pair := p, kerb := k } : State).getF PAR_STAT_STATE = st := v1
  have w2 : ({ v with pair := p, kerb := k } : State).getF PAR_STAT_ROLE = roleOf st % 4 := v2
  have d6 : ∃ x r k', State.kerbPair { v with pair := p, kerb := k } st = x ∧ x = { s with regs := r, pair := p, kerb := k' } ∧ k'.lastWords = s.kerb.lastWords ∧
      k'.lwCause = s.kerb.lwCause ∧ k'.lwSeq = s.kerb.lwSeq ∧ k'.phase = s.kerb.phase ∧ x.getF PAR_STAT_STATE = st ∧ x.getF PAR_STAT_ROLE = roleOf st % 4 ∧
      Chg s x [(PWR_STAT_PSTATE, 0), (PAR_STAT_FENCEOUT, 0), (PAR_STAT_ELIGIBLE, 0), (PAR_STAT_ROLE, 0), (PAR_STAT_STATE, 0)] := by
    unfold State.kerbPair
    dsimp only
    split
    · refine ⟨_, (State.setF { v with pair := p, kerb := { k with p2 := [], wake := none, deeper := none } } PWR_STAT_PSTATE 0).regs,
        { k with p2 := [], wake := none, deeper := none, okSince := if decide (st = 3) || decide (st = 6) || decide (st = 7) then some (k.okSince.getD v.now) else none },
        rfl, ?_, k1, k2, k3, k4, ?_, ?_, ?_⟩
      · rw [v3]; rfl
      · exact (getF_same (s := State.setF { v with pair := p, kerb := k } PWR_STAT_PSTATE 0) rfl).trans ((getF_setF_ne _ _ c6.ok (by decide)).trans w1)
      · exact (getF_same (s := State.setF { v with pair := p, kerb := k } PWR_STAT_PSTATE 0) rfl).trans ((getF_setF_ne _ _ c6.ok (by decide)).trans w2)
      · exact (c6.setF PWR_STAT_PSTATE 0 0).same rfl
    · refine ⟨_, v.regs, { k with okSince := if decide (st = 3) || decide (st = 6) || decide (st = 7) then some (k.okSince.getD v.now) else none }, rfl, ?_, k1, k2, k3, k4, w1, w2, (c6.mono (by simp)).same rfl⟩
      rw [v3]
  obtain ⟨x, r, k', e6, xf, l1, l2, l3, l4, x1, x2, cx⟩ := d6
  rw [e6]
  have dO : ∃ y i n, x.outputsHold (heldState st) = y ∧ y = { s with regs := r, pair := p, kerb := k', io := i, fresh := n } ∧ y.regs = x.regs := by
    obtain ⟨i, n, e⟩ := State.aoAll_frame { x with io := { x.io with hold := heldState st } }
    refine ⟨_, i, n, rfl, ?_, ?_⟩
    · unfold State.outputsHold; rw [e, xf]
    · unfold State.outputsHold; rw [e]
  obtain ⟨y, i, n, ey, yf, yr⟩ := dO
  rw [ey]
  have cy := cx.same yr
  have y1 : y.getF PAR_STAT_STATE = st := (getF_same yr).trans x1
  have y2 : y.getF PAR_STAT_ROLE = roleOf st % 4 := (getF_same yr).trans x2
  have dz : ∃ z a, (if s.getF PAR_STAT_STATE = st then y else y.evCfg 4 [s.getF PAR_STAT_STATE, st]) = z ∧
      z = { s with regs := r, pair := p, kerb := k', io := i, fresh := n, arc := a } ∧ z.regs = y.regs := by
    split
    · exact ⟨y, s.arc, rfl, yf, rfl⟩
    · obtain ⟨a, e⟩ := State.evCfg_frame y 4 [s.getF PAR_STAT_STATE, st]
      exact ⟨_, a, rfl, by rw [e, yf], by rw [e]⟩
  obtain ⟨z, a, ez, zf, zr⟩ := dz
  rw [ez]
  have fin : ∀ q : State, (∃ c, q = { z with can := c }) → q.getF PAR_STAT_STATE = st ∧ q.getF PAR_STAT_ROLE = roleOf st % 4 ∧
      Chg s q [(PAR_STAT_STATE, 0), (PAR_STAT_ROLE, 0), (PAR_STAT_ELIGIBLE, 0), (PAR_STAT_FENCEOUT, 0), (PWR_STAT_PSTATE, 0)] ∧
      ∃ r p k i n a c, q = { s with regs := r, pair := p, kerb := k, io := i, fresh := n, arc := a, can := c } ∧
        k.lastWords = s.kerb.lastWords ∧ k.lwCause = s.kerb.lwCause ∧ k.lwSeq = s.kerb.lwSeq ∧ k.phase = s.kerb.phase := by
    rintro q ⟨c, rfl⟩
    refine ⟨(getF_same zr).trans y1, (getF_same zr).trans y2, (cy.same (u := { z with can := c }) zr).mono (by simp), r, p, k', i, n, a, c, ?_, l1, l2, l3, l4⟩
    rw [zf]
  split
  · exact fin _ (State.canClear_frame z)
  · exact fin _ ⟨z.can, rfl⟩

/-- Setting the write credit: its value down to −864 GB, and the flag and the register that show it. -/
theorem State.setCredit_does {s : State} (h : s.RegsOk) (c : Int) :
    (s.setCredit c).flag ARC_STAT_OVERBUDGET = decide (c < 0) ∧ Chg s (s.setCredit c) [(ARC_STAT_OVERBUDGET, 0), (ARC_STAT_CREDIT, 0)] ∧
    ∃ r, s.setCredit c = { s with regs := r, arc := { s.arc with credit := max c (-864000000000), creditAt := s.now } } := by
  have c1 := (Chg.refl h).same (u := { s with arc := { s.arc with credit := max c (-864000000000), creditAt := s.now } }) rfl
  have c2 := c1.setB ARC_STAT_OVERBUDGET (decide (max c (-864000000000) < 0)) 0
  have c3 := c2.setF ARC_STAT_CREDIT (if max c (-864000000000) < 0 then 0 else (max c (-864000000000) * 100 / creditCap).toNat) 0
  refine ⟨?_, c3.mono (by simp), _, rfl⟩
  unfold State.setCredit
  dsimp only
  rw [flag_setF_ne c2.ok (by decide), flag_setB_self c1.ok _ rfl]
  have : (max c (-864000000000) < 0) ↔ c < 0 := by omega
  simp only [this]

end Sys2Proof.Machine
end

