-- ==== Sys2Proof/Laws/Report.lean ====
section
/-! SUPPORT. What a fault or warning report touches, and what the end of a speculative run does. -/
namespace Sys2Proof.Machine

/-- Calling the error task touches the scheduler's account of that task. -/
theorem State.callErrorTask_frame (s : State) (stamp : Nat) : ∃ sc, s.callErrorTask stamp = { s with sched := sc } ∧ sc.runs = s.sched.runs := by
  unfold State.callErrorTask
  split
  · exact ⟨_, rfl, rfl⟩
  · exact ⟨s.sched, rfl, rfl⟩

/-- The register fields a report can change. -/
def reportFields : List (Fld × Nat) := [(SCH_COALSTAT_OPEN, 0), (SCH_COALSTAT_OVFCNT, 0)]

/-- Showing a window: its count, and its entry among the report variables. -/
theorem State.showWin_does {s : State} (h : s.RegsOk) (w : Win) :
    Chg s (s.showWin w) [(SCH_COALSTAT_OPEN, 0)] ∧ ∃ r m q, s.showWin w = { s with regs := r, sq := { s.sq with mem := m, poison := q } } := by
  unfold State.showWin
  dsimp only
  have c := (Chg.refl h).setF SCH_COALSTAT_OPEN (s.wins.filter Win.isOpen).length 0
  split
  · exact ⟨c.same rfl, _, _, _, rfl⟩
  · exact ⟨c, _, s.sq.mem, s.sq.poison, rfl⟩

/-- A report: the windows, their count and their entry in the state space, and the release of the error task. -/
theorem State.reportIn_does {s : State} (h : s.RegsOk) (kind obj stamp rk rn : Nat) :
    Chg s (s.reportIn kind obj stamp rk rn) [(SCH_COALSTAT_OPEN, 0)] ∧
    ∃ r m q sc w, s.reportIn kind obj stamp rk rn = { s with regs := r, sq := { s.sq with mem := m, poison := q }, sched := sc, wins := w } ∧ sc.runs = s.sched.runs := by
  have key : ∀ (u : State) (w : Win), (∃ ws, u = { s with wins := ws }) → Chg s (u.showWin w) [(SCH_COALSTAT_OPEN, 0)] ∧
      ∃ r m q ws, u.showWin w = { s with regs := r, sq := { s.sq with mem := m, poison := q }, wins := ws } := by
    rintro u w ⟨ws, rfl⟩
    obtain ⟨c, r, m, q, e⟩ := State.showWin_does (s := { s with wins := ws }) h w
    refine ⟨⟨fun f ix hf => (c.only f ix hf).trans rfl, c.ok⟩, r, m, q, ws, ?_⟩
    rw [e]
  unfold State.reportIn
  split
  · obtain ⟨c, r, m, q, ws, e⟩ := key _ _ ⟨_, rfl⟩
    exact ⟨c, r, m, q, s.sched, ws, e, rfl⟩
  · dsimp only
    have fin : ∀ v : State, (Chg s v [(SCH_COALSTAT_OPEN, 0)] ∧ ∃ r m q ws, v = { s with regs := r, sq := { s.sq with mem := m, poison := q }, wins := ws }) →
        Chg s (v.callErrorTask stamp) [(SCH_COALSTAT_OPEN, 0)] ∧
        ∃ r m q sc w, v.callErrorTask stamp = { s with regs := r, sq := { s.sq with mem := m, poison := q }, sched := sc, wins := w } ∧ sc.runs = s.sched.runs := by
      rintro v ⟨c, r, m, q, ws, e⟩
      obtain ⟨sc, e2, e3⟩ := State.callErrorTask_frame v stamp
      refine ⟨c.same (by rw [e2]), r, m, q, sc, ws, ?_, ?_⟩
      · rw [e2, e]
      · rw [e3, e]
    exact fin _ (key _ _ ⟨_, rfl⟩)

/-- A report of a subject. -/
theorem State.report_does {s : State} (h : s.RegsOk) (kind obj stamp rk rn : Nat) :
    Chg s (s.report kind obj stamp rk rn) reportFields ∧
    ∃ r m q sc w, s.report kind obj stamp rk rn = { s with regs := r, sq := { s.sq with mem := m, poison := q }, sched := sc, wins := w } ∧ sc.runs = s.sched.runs := by
  unfold State.report
  dsimp only
  split
  · have c := (Chg.refl h).bump SCH_COALSTAT_OVFCNT 0 1
    obtain ⟨d, r, m, q, sc, w, e, e2⟩ := State.reportIn_does c.ok 0x00FF 0 stamp rk rn
    refine ⟨(c.trans d).mono (by simp [reportFields]), r, m, q, sc, w, ?_, e2⟩
    rw [e]; rfl
  · obtain ⟨d, r, m, q, sc, w, e, e2⟩ := State.reportIn_does h kind obj stamp rk rn
    exact ⟨d.mono (by simp [reportFields]), r, m, q, sc, w, e, e2⟩

/-- The register fields that show the speculation of a task. -/
def specFields (t : Nat) : List (Fld × Nat) :=
  [(SPC_TASKSTAT_SSTATE, t), (SPC_CTL_INFLIGHT, 0), (SPC_TASKSTAT_HITS, t), (SPC_TASKSTAT_WINDOW, t), (SPC_TASKSTAT_SUSPLEFT, t)]

/-- Setting SSTATE. -/
theorem State.specState_does {s : State} (h : s.RegsOk) {t : Nat} (ht : t < 65536) {st : Nat} (hs : st < 8) :
    (s.specState t st).getF SPC_TASKSTAT_SSTATE t = st ∧ Chg s (s.specState t st) [(SPC_TASKSTAT_SSTATE, t), (SPC_CTL_INFLIGHT, 0)] ∧
    ∃ r, s.specState t st = { s with regs := r } := by
  have c1 := (Chg.refl h).setF SPC_TASKSTAT_SSTATE st t
  unfold State.specState
  dsimp only
  refine ⟨?_, (c1.setF SPC_CTL_INFLIGHT _ 0).mono (by simp), _, rfl⟩
  rw [getF_setF_ne _ _ c1.ok (key_ne_of_place ht (by decide) (by decide)), getF_setF_self _ _ _ _ h]
  exact Nat.mod_eq_of_lt (by simpa using (show st < 2 ^ SPC_TASKSTAT_SSTATE.w by exact hs))

/-- The outcome of a run enters the window of its task. -/
theorem State.specWindow_does {s : State} (h : s.RegsOk) {t : Nat} (ht : t < 65536) (ok : Bool) :
    Chg s (s.specWindow t ok) (specFields t) ∧ ∃ r sc, s.specWindow t ok = { s with regs := r, sched := sc } ∧ sc.runs = s.sched.runs := by
  unfold State.specWindow
  dsimp only
  generalize (ok :: (s.taskRt t).window).take 64 = w
  have c0 := (Chg.refl h).same (u := s.modTask t (fun x => { x with window := w })) rfl
  have c2 := (c0.setF SPC_TASKSTAT_HITS (w.filter id).length t).setF SPC_TASKSTAT_WINDOW w.length t
  have e0 : ∃ r sc, ((s.modTask t (fun x => { x with window := w })).setF SPC_TASKSTAT_HITS (w.filter id).length t).setF SPC_TASKSTAT_WINDOW w.length t =
      { s with regs := r, sched := sc } ∧ sc.runs = s.sched.runs := ⟨_, _, rfl, rfl⟩
  generalize ((s.modTask t (fun x => { x with window := w })).setF SPC_TASKSTAT_HITS (w.filter id).length t).setF SPC_TASKSTAT_WINDOW w.length t = u at *
  obtain ⟨r, sc, e1, e2⟩ := e0
  split
  · generalize 16 * 2 ^ u.getF SPC_TASKCFG_BACKOFF t = n
    have c3 := c2.same (u := u.modTask t (fun x => { x with susp := n })) rfl
    have c4 := c3.setF SPC_TASKSTAT_SUSPLEFT (sat 14 n) t
    obtain ⟨-, d, r, e⟩ := State.specState_does c4.ok ht (st := 6) (by decide)
    refine ⟨(c4.trans d).mono (by simp [specFields]), r, { sc with tasks := tabMod TaskRt.reset sc.tasks t (fun x => { x with susp := n }) }, ?_, e2⟩
    rw [e, e1]
    rfl
  · exact ⟨c2.mono (by simp [specFields]), r, sc, e1, e2⟩

/-- A run is discarded for a reason: it is no more, and the counters, the window and SSTATE of its task show it. -/
theorem State.specEnd_does {s : State} (h : s.RegsOk) (hr : tabRising s.sched.runs = true) {t : Nat} (ht : t < 256) {why : Nat} {r : Run}
    (hx : s.run? .spec t = some r) :
    (s.specEnd t why).run? .spec t = none ∧
    Chg s (s.specEnd t why) ([(SPC_POOLUSE_PAGES, 0), (specWhy why, t), (SPC_TASKCNT_DISCCNT, t)] ++ specFields t) ∧
    ∃ g sc, s.specEnd t why = { s with regs := g, sched := sc } ∧ sc.runs = tabDel s.sched.runs (Ctx.spec.key t) := by
  unfold State.specEnd
  rw [hx, if_neg (by simp)]
  have c1 : Chg s (s.specDrop t) [(SPC_POOLUSE_PAGES, 0)] ∧ ∃ g, s.specDrop t = { s with regs := g, sched := { s.sched with runs := tabDel s.sched.runs (Ctx.spec.key t) } } := by
    unfold State.specDrop
    rw [hx]
    exact ⟨((Chg.refl h).setF SPC_POOLUSE_PAGES _ 0).same rfl, _, rfl⟩
  obtain ⟨c1, g1, e1⟩ := c1
  generalize s.specDrop t = u at *
  have c3 := (c1.bump (specWhy why) t 1).bump SPC_TASKCNT_DISCCNT t 1
  obtain ⟨-, c4, g4, e4⟩ := State.specState_does c3.ok (t := t) (by omega) (st := 0) (by decide)
  have c5 := c3.trans c4
  obtain ⟨c6, g6, sc, e6, e7⟩ := State.specWindow_does c5.ok (t := t) (by omega) false
  have er : sc.runs = tabDel s.sched.runs (Ctx.spec.key t) := by
    rw [e7, e4]
    show u.sched.runs = _
    rw [e1]
  refine ⟨?_, (c5.trans c6).mono ?_, g6, sc, ?_, er⟩
  · unfold State.run?
    rw [e6]
    show tabGet? sc.runs _ = none
    rw [er]
    exact tabGet?_tabDel_self _ _ hr
  · intro x hx
    simp only [specFields, List.mem_append, List.mem_cons, List.not_mem_nil, or_false] at *
    grind
  · rw [e6, e4]
    show ({ u with regs := g6, sched := sc } : State) = _
    rw [e1]

/-- Every speculative run is invalidated: none where there is none. -/
theorem State.specInvalAll_none {s : State} (h : ∀ p ∈ s.sched.runs, p.2.ctx ≠ .spec) : s.specInvalAll = s := by
  unfold State.specInvalAll
  have : ∀ (l : List (Nat × Run)), (∀ p ∈ l, p.2.ctx ≠ .spec) → ∀ v : State, l.foldl (fun s p => if p.2.ctx = .spec then s.specInval p.2.task else s) v = v := by
    intro l
    induction l with
    | nil => intro _ v; rfl
    | cons p l ih =>
      intro hl v
      rw [List.foldl_cons, if_neg (by simp [hl p (by simp)])]
      exact ih (fun q hq => hl q (by simp [hq])) v
  exact this _ h s

/-- The generation sets of the runs are compared: none where there is none. -/
theorem State.specGenCheck_none {s : State} (h : ∀ p ∈ s.sched.runs, p.2.ctx ≠ .spec) : s.specGenCheck = s := by
  unfold State.specGenCheck
  have : ∀ (l : List (Nat × Run)), (∀ p ∈ l, p.2.ctx ≠ .spec) → ∀ v : State,
      l.foldl (fun s p => if p.2.ctx = .spec && p.2.gens ≠ s.specGens then s.specInval p.2.task else s) v = v := by
    intro l
    induction l with
    | nil => intro _ v; rfl
    | cons p l ih =>
      intro hl v
      rw [List.foldl_cons, if_neg (by simp [hl p (by simp)])]
      exact ih (fun q hq => hl q (by simp [hq])) v
  exact this _ h s

/-- What a run holds is raised: nothing where none awaits its exception. -/
theorem State.settle_none {s : State} (h : ∀ p ∈ s.sched.runs, p.2.st ≠ .xcp) (t : Nat) : s.settle t = s := by
  unfold State.settle
  split
  · rfl
  · rename_i q hq
    have := h _ (mem_of_tabGet? hq)
    rw [if_neg (by simp [this])]

/-- The same for every task. -/
theorem State.settleAll_none {s : State} (h : ∀ p ∈ s.sched.runs, p.2.st ≠ .xcp) : s.settleAll = s := by
  unfold State.settleAll
  generalize s.sched.runs.map (fun p => p.2.task) = l
  induction l with
  | nil => rfl
  | cons t l ih => rw [List.foldl_cons, State.settle_none h]; exact ih

/-- SSTATE follows the conditions of a run: that of the tasks, and the count of runs in flight. -/
theorem State.specFollow_does {s : State} (h : s.RegsOk) :
    (∃ r, s.specFollow = { s with regs := r }) ∧ s.specFollow.RegsOk ∧
    ∀ (f : Fld) (ix : Nat), (∀ d ∈ s.cfg.tasks, f.key ix ≠ SPC_TASKSTAT_SSTATE.key d.no.val) → f.key ix ≠ SPC_CTL_INFLIGHT.key 0 →
      s.specFollow.getF f ix = s.getF f ix := by
  unfold State.specFollow
  generalize s.cfg.tasks = l
  have : ∀ (l : List TaskDef) (u : State), (∃ r, u = { s with regs := r }) → u.RegsOk →
      let v := l.foldl (fun (s : State) d => if s.getF SPC_TASKSTAT_SSTATE d.no.val ≤ 1 && s.getF SPC_TASKSTAT_SSTATE d.no.val ≠ b2n (s.specReady d.no.val)
        then s.specArm d.no.val else s) u
      (∃ r, v = { s with regs := r }) ∧ v.RegsOk ∧
      ∀ (f : Fld) (ix : Nat), (∀ d ∈ l, f.key ix ≠ SPC_TASKSTAT_SSTATE.key d.no.val) → f.key ix ≠ SPC_CTL_INFLIGHT.key 0 → v.getF f ix = u.getF f ix := by
    intro l
    induction l with
    | nil => intro u e o; exact ⟨e, o, fun _ _ _ _ => rfl⟩
    | cons d l ih =>
      intro u e o
      rw [List.foldl_cons]
      have step : ∀ w : State, w = (if u.getF SPC_TASKSTAT_SSTATE d.no.val ≤ 1 && u.getF SPC_TASKSTAT_SSTATE d.no.val ≠ b2n (u.specReady d.no.val)
          then u.specArm d.no.val else u) → (∃ r, w = { s with regs := r }) ∧ Chg u w [(SPC_TASKSTAT_SSTATE, d.no.val), (SPC_CTL_INFLIGHT, 0)] := by
        intro w ew
        have refl : (∃ r, u = { s with regs := r }) ∧ Chg u u [(SPC_TASKSTAT_SSTATE, d.no.val), (SPC_CTL_INFLIGHT, 0)] := ⟨e, (Chg.refl o).mono (by simp)⟩
        rw [ew]
        split
        · unfold State.specArm
          split
          · exact refl
          · obtain ⟨-, c, r, er⟩ := State.specState_does o (t := d.no.val) (by have := d.no.isLt; omega) (st := if u.specReady d.no.val then 1 else 0)
              (by split <;> decide)
            obtain ⟨q, eq⟩ := e
            exact ⟨⟨r, by rw [er, eq]⟩, c⟩
        · exact refl
      generalize (if u.getF SPC_TASKSTAT_SSTATE d.no.val ≤ 1 && u.getF SPC_TASKSTAT_SSTATE d.no.val ≠ b2n (u.specReady d.no.val)
          then u.specArm d.no.val else u) = w at *
      obtain ⟨e1, c1⟩ := step w rfl
      obtain ⟨a, b, c⟩ := ih w e1 c1.ok
      refine ⟨a, b, fun f ix h1 h2 => (c f ix (fun d hd => h1 d (by simp [hd])) h2).trans (c1.only f ix ?_)⟩
      intro x hx
      simp only [List.mem_cons, List.not_mem_nil, or_false] at hx
      rcases hx with rfl | rfl
      · exact h1 d (by simp)
      · exact h2
  exact this l s ⟨s.regs, rfl⟩ h

end Sys2Proof.Machine
end

