-- ==== Sys2Proof/Laws/Plant.lean ====
section
/-! SUPPORT. What the input of a station does to its registers and its account. -/
namespace Sys2Proof.Machine

/-- A frame sent, or not: the registers and the clock stand. -/
theorem State.fspSend_frame (s : State) (ch : OutCh) (ty link sta stamp cy : Nat) (sf : Bool) (d : List Byte) :
    ∃ q o, s.fspSend ch ty link sta stamp cy sf d = { s with plant := { s.plant with fspSeq := q }, out := o } := by
  unfold State.fspSend
  split
  · exact ⟨s.plant.fspSeq, s.out, rfl⟩
  · exact ⟨_, _, rfl⟩

/-- A station's account after it was changed. -/
theorem State.staRt_modSta (s : State) (n : Nat) (f : StaRt → StaRt) : (s.modSta n f).staRt n = f (s.staRt n) := tabGet_tabSet_self _ _ _ _

/-- The configuration sent: the attempt counts. -/
theorem State.sendConfig_frame (s : State) (d : StationDef) :
    ∃ q o, s.sendConfig d = { s with out := o, plant := { s.plant with fspSeq := q, stas := tabMod StaRt.reset s.plant.stas d.no.val (fun x => { x with tries := x.tries + 1 }) } } := by
  unfold State.sendConfig
  obtain ⟨q, o, e⟩ := State.fspSend_frame (s.modSta d.no.val (fun x => { x with tries := x.tries + 1 })) .station 0x0B d.link.val d.no.val
    s.stamp32 0 false (d.record ++ natLe 4 (crc32c d.record))
  exact ⟨q, o, e⟩

/-- What the move does: STATE, the count of drop-outs, and accounts of the plant. -/
theorem State.staInput_does {s : State} (h : s.RegsOk) (d : StationDef) (mode : Nat) (dr : Bool) :
    (s.staInput d mode dr).getF PNE_STASTAT_STATE d.no.val = staNext s d.no.val mode ∧
    Chg s (s.staInput d mode dr) [(PNE_STASTAT_STATE, d.no.val), (PNE_STASTAT_DROPCNT, d.no.val)] ∧
    ∃ r o a p, s.staInput d mode dr = { s with regs := r, out := o, arc := a, plant := p } := by
  have hn : d.no.val < 65536 := by have := d.no.isLt; omega
  have put : ∀ v, v < 8 → (s.setF PNE_STASTAT_STATE v d.no.val).getF PNE_STASTAT_STATE d.no.val = v ∧
      Chg s (s.setF PNE_STASTAT_STATE v d.no.val) [(PNE_STASTAT_STATE, d.no.val), (PNE_STASTAT_DROPCNT, d.no.val)] := fun v hv =>
    ⟨(getF_setF_self _ _ _ _ h).trans (Nat.mod_eq_of_lt hv), ((Chg.refl h).setF _ _ _).mono (by simp)⟩
  have same : ∀ u : State, u.regs = s.regs → u.getF PNE_STASTAT_STATE d.no.val = s.getF PNE_STASTAT_STATE d.no.val ∧
      Chg s u [(PNE_STASTAT_STATE, d.no.val), (PNE_STASTAT_DROPCNT, d.no.val)] := fun u e => ⟨getF_same e, ((Chg.refl h).same e).mono (by simp)⟩
  unfold State.staInput staNext
  dsimp only
  generalize hx : s.getF PNE_STASTAT_STATE d.no.val = st
  match st, hx with
  | 0, hx =>
    obtain ⟨q, o, e⟩ := State.sendConfig_frame ((s.setF PNE_STASTAT_STATE 1 d.no.val).modSta d.no.val (fun x => { x with tries := 0 })) d
    rw [e]
    obtain ⟨a, b⟩ := put 1 (by decide)
    exact ⟨(getF_same (s := s.setF PNE_STASTAT_STATE 1 d.no.val) rfl).trans a, b.same rfl, _, _, s.arc, _, rfl⟩
  | 2, hx =>
    by_cases c : (dr && !(s.staRt d.no.val).flagDropped) = true
    · rw [if_pos c]
      refine ⟨?_, (((Chg.refl h).bump PNE_STASTAT_DROPCNT d.no.val 1).mono (by simp)).same rfl, _, s.out, s.arc, _, rfl⟩
      exact (getF_same (s := s.bump PNE_STASTAT_DROPCNT d.no.val) rfl).trans ((getF_setF_ne _ _ h (key_ne_of_place hn hn (by decide))).trans hx)
    · rw [if_neg c]
      exact ⟨hx, (same s rfl).2, s.regs, s.out, s.arc, s.plant, rfl⟩
  | 3, hx =>
    generalize (if s.now ≤ (s.staRt d.no.val).arrived + s.getF PNE_STAWDT_IWDT d.no.val * 62500 then (s.staRt d.no.val).onTime + 1 else 1) = k
    by_cases hk : 3 ≤ k
    · rw [if_pos hk, if_pos hk]
      obtain ⟨a, b⟩ := put 2 (by decide)
      obtain ⟨ar, e⟩ := State.evHw_frame ((s.setF PNE_STASTAT_STATE 2 d.no.val).modSta d.no.val (fun x => { x with onTime := 0 })) 20 [d.no.val]
      rw [e]
      exact ⟨(getF_same (s := s.setF PNE_STASTAT_STATE 2 d.no.val) rfl).trans a, b.same rfl, _, s.out, _, _, rfl⟩
    · rw [if_neg hk, if_neg hk]
      obtain ⟨a, b⟩ := same (s.modSta d.no.val (fun x => { x with onTime := k })) rfl
      exact ⟨a.trans hx, b, s.regs, s.out, s.arc, _, rfl⟩
  | 4, hx =>
    by_cases hk : mode = (s.staRt d.no.val).expect
    · rw [if_pos hk, if_pos hk]
      obtain ⟨a, b⟩ := put 2 (by decide)
      obtain ⟨ar, e⟩ := State.evHw_frame ((s.setF PNE_STASTAT_STATE 2 d.no.val).modSta d.no.val (fun x => { x with badMode := false })) 21 [d.no.val, mode]
      rw [e]
      exact ⟨(getF_same (s := s.setF PNE_STASTAT_STATE 2 d.no.val) rfl).trans a, b.same rfl, _, s.out, _, _, rfl⟩
    · rw [if_neg hk, if_neg hk]
      exact ⟨hx, (same s rfl).2, s.regs, s.out, s.arc, s.plant, rfl⟩
  | 1, hx => exact ⟨hx, (same s rfl).2, s.regs, s.out, s.arc, s.plant, rfl⟩
  | n + 5, hx => exact ⟨hx, (same s rfl).2, s.regs, s.out, s.arc, s.plant, rfl⟩

/-- The fields a refusal by an engine's ACU latches. -/
def latchFields : List (Fld × Nat) := [(ACU_FLTLO_ADDR, 0), (ACU_FLTHI_ADDR, 0), (ACU_FLTHI_MASTER, 0), (ACU_FLTHI_WRITE, 0), (ACU_FLTHI_VALID, 0)]

/-- A refusal latched. -/
theorem State.latchRefusal_does {s : State} (h : s.RegsOk) (a m : Nat) (w : Bool) :
    Chg s (s.latchRefusal a m w) latchFields ∧ ∃ r, s.latchRefusal a m w = { s with regs := r } :=
  ⟨(((((Chg.refl h).setF ACU_FLTLO_ADDR a 0).setF ACU_FLTHI_ADDR (a / 2 ^ 32) 0).setF ACU_FLTHI_MASTER m 0).setB ACU_FLTHI_WRITE w 0).setF ACU_FLTHI_VALID 1 0 |>.mono
    (by simp [latchFields]), _, rfl⟩

/-- The values of a frame: captured from and written, or refused as one access. -/
theorem State.staValues_does {s : State} (h : s.RegsOk) (n : Nat) (d : List Byte) :
    Chg s (s.staValues n d) latchFields ∧ ∃ r i q, s.staValues n d = { s with regs := r, io := i, sq := q } := by
  unfold State.staValues
  dsimp only
  split
  · exact ⟨(Chg.same (t := s) ⟨fun _ _ _ => rfl, h⟩ rfl), s.regs, _, s.sq, rfl⟩
  · split
    · obtain ⟨a, r, e⟩ := State.latchRefusal_does h _ 0x203 true
      exact ⟨a, r, s.io, s.sq, e⟩
    · exact ⟨(Chg.same (t := s) ⟨fun _ _ _ => rfl, h⟩ rfl), s.regs, _, _, rfl⟩

/-- An access of engines goes on, or its refusal is latched. -/
theorem State.byEngines_does {s : State} (h : s.RegsOk) (ms : List Nat) (k : AccKind) (parts : List (Nat × Nat)) {g : State → State} {l : List (Fld × Nat)}
    (hg : Chg s (g s) l ∧ ∃ r q p, g s = { s with regs := r, sq := q, pair := p }) :
    Chg s (s.byEngines ms k parts g) (latchFields ++ l) ∧ ∃ r q p, s.byEngines ms k parts g = { s with regs := r, sq := q, pair := p } := by
  unfold State.byEngines
  split
  · obtain ⟨c, r, e⟩ := State.latchRefusal_does h _ _ (decide (k = .wr))
    exact ⟨c.mono (fun x hx => List.mem_append_left _ hx), r, s.sq, s.pair, e⟩
  · exact ⟨hg.1.mono (fun x hx => List.mem_append_right _ hx), hg.2⟩

/-- An entry put into a ring of the Square: the registers, the Square and what is carried to the partner. -/
theorem State.ringPut_does {s : State} (h : s.RegsOk) (k : SysKind) (seat : Bool) (ix n size head : Nat) (bs : List Byte) {g : State → State} {l : List (Fld × Nat)}
    (hg : ∀ w, w.RegsOk → Chg w (g w) l ∧ ∃ r, g w = { w with regs := r }) :
    Chg s (s.ringPut k seat ix n size head bs g) (latchFields ++ l) ∧ ∃ r q p, s.ringPut k seat ix n size head bs g = { s with regs := r, sq := q, pair := p } := by
  unfold State.ringPut
  split
  · next a _ =>
    refine State.byEngines_does h _ _ _ ?_
    have sw : ∃ q p, s.seatWrite (a + head % n * size) bs = { s with sq := q, pair := p } := by
      unfold State.seatWrite
      dsimp only
      split
      · exact ⟨_, s.pair, rfl⟩
      · exact ⟨_, _, rfl⟩
    obtain ⟨q, p, e⟩ := sw
    rw [e]
    obtain ⟨c, r, e2⟩ := hg { s with sq := q, pair := p } h
    exact ⟨⟨fun f ix hf => (c.only f ix hf).trans rfl, c.ok⟩, r, q, p, e2⟩
  · obtain ⟨c, r, e⟩ := hg s h
    exact ⟨c.mono (fun x hx => List.mem_append_right _ hx), r, s.sq, s.pair, e⟩

/-- The fields an entry of the capture ring can change. -/
def capFields : List (Fld × Nat) := latchFields ++ [(TIM_CAPSTAT_HEAD, 0), (TIM_CAPSTAT_LOST, 0)]

/-- An entry of the capture ring. -/
theorem State.capPut_does {s : State} (h : s.RegsOk) (bs : List Byte) :
    Chg s (s.capPut bs) capFields ∧ ∃ r q p, s.capPut bs = { s with regs := r, sq := q, pair := p } := by
  unfold State.capPut
  dsimp only
  split
  · exact ⟨((Chg.refl h).bump TIM_CAPSTAT_LOST 0 1).mono (by simp [capFields]), _, s.sq, s.pair, rfl⟩
  · obtain ⟨a, b⟩ := State.ringPut_does h .timCap s.seatB 0 1024 32 (s.getF TIM_CAPSTAT_HEAD) bs (g := fun s => s.wrapUp TIM_CAPSTAT_HEAD)
      (fun w hw => ⟨(Chg.refl hw).wrapUp TIM_CAPSTAT_HEAD 0, _, rfl⟩)
    refine ⟨a.mono ?_, b⟩
    intro x hx
    unfold capFields
    simp only [List.mem_append, List.mem_cons, List.not_mem_nil, or_false] at *
    rcases hx with hx | hx
    · exact .inl hx
    · exact .inr (.inl hx)

/-- Triggers ask for tasks. -/
theorem State.trigger_frame (s : State) (T : Trigger) (st : Nat) : ∃ sc, s.trigger T st = { s with sched := sc } := by
  unfold State.trigger
  generalize s.cfg.tasks = l
  induction l generalizing s with
  | nil => exact ⟨s.sched, rfl⟩
  | cons d l ih =>
    rw [List.foldl_cons]
    split
    · obtain ⟨sc, e⟩ := ih (s.ask d.no.val st .activate none)
      exact ⟨sc, e⟩
    · exact ih s

/-- P_f where the registers of the tasks and the configuration are the same. -/
theorem State.pf_same {s u : State} (hc : u.cfg = s.cfg) (hp : ∀ t, u.getF SCH_TASKCFG_PERIOD t = s.getF SCH_TASKCFG_PERIOD t)
    (hk : ∀ t, u.getF SCH_TASKCFG_KIND t = s.getF SCH_TASKCFG_KIND t) : u.pf = s.pf := by
  have e : u.fastest = s.fastest := by
    unfold State.fastest State.kind
    simp only [hc, hp, hk]
  unfold State.pf
  rw [e]
  simp only [hp]

/-- P_f where the count of refused writes is set aside. -/
theorem State.pf_aside {s : State} (h : s.RegsOk) : s.aside.pf = s.pf := by
  have far : ∀ (f : Fld) (t : Nat), KRB_IGNSTAT_IGNCNT.off * 32 + KRB_IGNSTAT_IGNCNT.lo < f.off * 32 + f.lo → s.aside.getF f t = s.getF f t := by
    intro f t hf
    refine getF_aside h f ?_
    unfold Fld.key
    omega
  refine State.pf_same ?_ (fun t => far _ t (by decide)) (fun t => far _ t (by decide))
  unfold State.cfg State.actStore
  rw [far _ 0 (by decide)]
  rfl

/-- The change of domain: announced by a Lead, made at once where the module neither leads nor follows. -/
theorem State.domChoose_does {s : State} (h : s.RegsOk) (d : Nat) (hd : s.getF TIM_STAT_ACTIVE ≠ d) :
    (s.getF PAR_STAT_STATE = 6 → (s.domChoose d).plant.domAt = some (s.tick + 2 * s.pf, d)) ∧
    (s.getF PAR_STAT_STATE ∉ [2, 3, 4, 6] → (s.domChoose d).getF TIM_STAT_ACTIVE = d % 2) ∧ (s.domChoose d).RegsOk ∧
    (s.domChoose d).kerb = s.kerb ∧ Chg s (s.domChoose d) [(TIM_STAT_SWCNT, 0), (TIM_STAT_ACTIVE, 0)] := by
  have sw : (s.domSwitch d).getF TIM_STAT_ACTIVE = d % 2 ∧ Chg s (s.domSwitch d) [(TIM_STAT_SWCNT, 0), (TIM_STAT_ACTIVE, 0)] ∧ (s.domSwitch d).kerb = s.kerb := by
    unfold State.domSwitch
    rw [if_neg hd]
    have c1 := (Chg.refl h).setF TIM_STAT_ACTIVE d 0
    exact ⟨(getF_setF_ne _ _ c1.ok (by decide)).trans (getF_setF_self _ _ _ _ h), c1.bump _ _ _, rfl⟩
  have kp : Chg s s [(TIM_STAT_SWCNT, 0), (TIM_STAT_ACTIVE, 0)] := ⟨fun _ _ _ => rfl, h⟩
  unfold State.domChoose
  split
  · next e =>
    have sh : ∀ (u : State) (i : SetupItem), (u.share i).regs = u.regs ∧ (u.share i).plant = u.plant ∧ (u.share i).kerb = u.kerb := by
      intro u i; unfold State.share; split <;> exact ⟨rfl, rfl, rfl⟩
    obtain ⟨a, b, c⟩ := sh { s with plant := { s.plant with domAt := some (s.tick + 2 * s.pf, d) } } (.domain (s.tick + 2 * s.pf) d)
    exact ⟨fun _ => by rw [b], fun k => absurd e (by intro x; rw [x] at k; simp at k), (kp.same a).ok, c, kp.same a⟩
  · next e => exact ⟨fun k => by omega, fun k => absurd (by simp [e]) k, h, rfl, kp⟩
  · next e => exact ⟨fun k => by omega, fun k => absurd (by simp [e]) k, h, rfl, kp⟩
  · next e => exact ⟨fun k => by omega, fun k => absurd (by simp [e]) k, h, rfl, kp⟩
  · next e _ _ _ => exact ⟨fun k => absurd k e, fun _ => sw.1, sw.2.1.ok, sw.2.2, sw.2.1⟩

/-- The lock of a domain put. -/
theorem State.domHeld_put {s : State} (h : s.RegsOk) (d a v : Nat) :
    (s.setF (domLock d) v).domHeld a = if (a = 0 ↔ d = 0) then decide (v % 2 ≠ 0) else s.domHeld a := by
  unfold State.domHeld domLock
  by_cases h1 : a = 0 <;> by_cases h2 : d = 0
  · rw [if_pos h1, if_pos h2, if_pos (by simp [h1, h2])]
    unfold State.flag
    rw [getF_setF_self _ _ _ _ h]
    rfl
  · rw [if_pos h1, if_neg h2, if_neg (by simp [h1, h2]), if_pos h1]
    exact flag_setF_ne h (by decide)
  · rw [if_neg h1, if_pos h2, if_neg (by simp [h1, h2]), if_neg h1]
    exact flag_setF_ne h (by decide)
  · rw [if_neg h1, if_neg h2, if_pos (by simp [h1, h2])]
    unfold State.flag
    rw [getF_setF_self _ _ _ _ h]
    rfl

/-- A domain's lock reads the same where neither lock was changed. -/
theorem State.domHeld_only {s t : State} {l : List (Fld × Nat)} (h : Chg s t l) (h0 : ∀ x ∈ l, TIM_STAT_D0LOCK.key 0 ≠ x.1.key x.2)
    (h1 : ∀ x ∈ l, TIM_STAT_D1LOCK.key 0 ≠ x.1.key x.2) (a : Nat) : t.domHeld a = s.domHeld a := by
  unfold State.domHeld State.flag
  rw [h.only _ _ h0, h.only _ _ h1]

/-- After a change of lock, with the active domain held: out of holdover. -/
theorem State.domCheck_held {s : State} (h : s.RegsOk) (ha : s.domHeld (s.getF TIM_STAT_ACTIVE) = true) :
    Chg s s.domCheck [(TIM_STAT_HOLDOVER, 0), (TIM_STAT_DOMSPLIT, 0)] ∧ s.domCheck.flag TIM_STAT_HOLDOVER = false ∧ s.domCheck.plant = s.plant := by
  unfold State.domCheck
  dsimp only
  have c1 : Chg s (if s.domApart = true then s else s.setF TIM_STAT_DOMSPLIT 0) [(TIM_STAT_DOMSPLIT, 0)] := by
    split
    · exact ⟨fun _ _ _ => rfl, h⟩
    · exact (Chg.refl h).setF _ _ _
  have p1 : (if s.domApart = true then s else s.setF TIM_STAT_DOMSPLIT 0).plant = s.plant := by split <;> rfl
  generalize (if s.domApart = true then s else s.setF TIM_STAT_DOMSPLIT 0) = u at *
  rw [if_pos (by rw [c1.only TIM_STAT_ACTIVE 0 (by decide), State.domHeld_only c1 (by decide) (by decide)]; exact ha)]
  exact ⟨c1.setF _ _ _, flag_setB_self c1.ok false rfl, p1⟩

end Sys2Proof.Machine
end

