-- ==== Sys2Proof/Laws/Judge.lean ====
section
/-! SUPPORT. What judging the safety functions leaves as it was: it moves the functions and drives the analogue outputs, and nothing else of the
field I/O. -/
namespace Sys2Proof.Machine

/-- Only functions and analogue outputs moved. -/
structure Judged (s t : State) : Prop where
  ok : s.RegsOk → t.RegsOk
  get : s.RegsOk → ∀ (f : Fld) (ix : Nat), ix < 65536 → (∀ g ∈ judgeFlds, f.off * 32 + f.lo ≠ g.off * 32 + g.lo) → t.getF f ix = s.getF f ix
  io : t.io = { s.io with ao := t.io.ao, fns := t.io.fns }
  now : t.now = s.now
  tick : t.tick = s.tick
  pkgs : t.pkgs = s.pkgs
  can : t.can = s.can
  out : t.out = s.out
  due : t.due = s.due

/-- Nothing done. -/
theorem Judged.refl (s : State) : Judged s s := ⟨id, fun _ _ _ _ _ => rfl, rfl, rfl, rfl, rfl, rfl, rfl, rfl⟩

/-- One after another. -/
theorem Judged.trans {s t u : State} (h : Judged s t) (k : Judged t u) : Judged s u :=
  ⟨k.ok ∘ h.ok, fun r f ix hi hf => (k.get (h.ok r) f ix hi hf).trans (h.get r f ix hi hf), by rw [k.io, h.io], k.now.trans h.now, k.tick.trans h.tick,
    k.pkgs.trans h.pkgs, k.can.trans h.can, k.out.trans h.out, k.due.trans h.due⟩

/-- One of its registers put. -/
theorem Judged.setF {s t : State} (h : Judged s t) {g : Fld} (v : Nat) {iy : Nat} (hy : iy < 65536) (hg : g ∈ judgeFlds) : Judged s (t.setF g v iy) :=
  ⟨fun r => regs_setF_rising _ _ _ _ (h.ok r), fun r f ix hi hf => (getF_setF_ne _ _ (h.ok r) (key_ne_of_place hi hy (hf g hg))).trans (h.get r f ix hi hf),
    h.io, h.now, h.tick, h.pkgs, h.can, h.out, h.due⟩

/-- A flag of its registers put. -/
theorem Judged.setB {s t : State} (h : Judged s t) {g : Fld} (b : Bool) {iy : Nat} (hy : iy < 65536) (hg : g ∈ judgeFlds) : Judged s (t.setB g b iy) := h.setF _ hy hg

/-- A change elsewhere. -/
theorem Judged.same {s t u : State} (h : Judged s t) (e1 : u.regs = t.regs) (e2 : u.io = { t.io with ao := u.io.ao, fns := u.io.fns }) (e3 : u.now = t.now) (e4 : u.tick = t.tick)
    (e5 : u.pkgs = t.pkgs) (e6 : u.can = t.can) (e7 : u.out = t.out) (e8 : u.due = t.due) : Judged s u :=
  ⟨fun r => by show tabRising u.regs = true; rw [e1]; exact h.ok r, fun r f ix hi hf => (getF_same e1).trans (h.get r f ix hi hf), by rw [e2, h.io],
    e3.trans h.now, e4.trans h.tick, e5.trans h.pkgs, e6.trans h.can, e7.trans h.out, e8.trans h.due⟩

/-- A fault report. -/
theorem Judged.report {s t : State} (h : Judged s t) (kind obj stamp rk rn : Nat) (hr : s.RegsOk) : Judged s (t.report kind obj stamp rk rn) := by
  obtain ⟨c, r, m, q, sc, w, e, -⟩ := State.report_does (h.ok hr) kind obj stamp rk rn
  refine ⟨fun _ => c.ok, fun k f ix hi hf => (c.only f ix ?_).trans (h.get k f ix hi hf), by rw [e]; exact h.io, by rw [e]; exact h.now, by rw [e]; exact h.tick, by rw [e]; exact h.pkgs,
    by rw [e]; exact h.can, by rw [e]; exact h.out, by rw [e]; exact h.due⟩
  intro x hx
  simp only [reportFields, List.mem_cons, List.not_mem_nil, or_false] at hx
  rcases hx with rfl | rfl
  · exact key_ne_of_place hi (by show 0 < 65536; decide) (hf _ (by decide))
  · exact key_ne_of_place hi (by show 0 < 65536; decide) (hf _ (by decide))

/-- The analogue outputs driven. -/
theorem State.aoTarget_judged (s : State) (n : Nat) : Judged s (s.aoTarget n) := by
  have d : ∀ (t : State) (c : Int × Nat), Judged s t → Judged s (t.aoDrive n c) := by
    intro t c h
    unfold State.aoDrive
    dsimp only
    split
    · exact h
    · exact h.same rfl rfl rfl rfl rfl rfl rfl rfl
  unfold State.aoTarget
  split
  · exact d _ _ (Judged.refl s)
  · split
    · exact Judged.refl s
    · split
      · exact d _ _ (Judged.refl s)
      · exact d _ _ ((Judged.refl s).same rfl rfl rfl rfl rfl rfl rfl rfl)

/-- All of them. -/
theorem State.aoAll_judged (s : State) : Judged s s.aoAll := by
  unfold State.aoAll
  generalize List.range 8 = l
  suffices h : ∀ (l : List Nat) (t : State), Judged s t → Judged s (l.foldl (fun s n => s.aoTarget n) t) from h l s (Judged.refl s)
  intro l
  induction l with
  | nil => exact fun _ h => h
  | cons n l ih => exact fun t h => ih _ (h.trans (State.aoTarget_judged t n))

/-- A record of the event log. -/
theorem Judged.evSafe {s t : State} (h : Judged s t) (w : Nat) (l : List Nat) : Judged s (t.evSafe w l) := by
  unfold State.evSafe State.event
  split
  · exact h
  · exact h.same rfl rfl rfl rfl rfl rfl rfl rfl

/-- What is shown of all functions. -/
theorem Judged.fnSummary {s t : State} (h : Judged s t) : Judged s t.fnSummary := by
  unfold State.fnSummary
  exact (h.setB _ (by decide) (by decide)).setB _ (by decide) (by decide)

/-- A trip. -/
theorem State.fnTrip_judged {s : State} {n : Nat} (hn : n < 65536) : Judged s (s.fnTrip n) := by
  unfold State.fnTrip
  have h := (((Judged.refl s).setF (g := SFY_FNSTAT_STATE) 2 hn (by decide)).setF (g := SFY_FNSTAT_DEGLEFT) 0 hn (by decide)).evSafe 1 [n]
  exact h.fnSummary.trans (State.aoAll_judged _)

/-- A degradation. -/
theorem State.fnDegrade_judged {s : State} (hr : s.RegsOk) (f : FnDef) (b : Bool) : Judged s (s.fnDegrade f b) := by
  have hn : f.no.val < 65536 := by have := f.no.isLt; omega
  unfold State.fnDegrade
  extract_lets n start s1 k s2 s3
  have h1 : Judged s s1 := (Judged.refl s).same rfl rfl rfl rfl rfl rfl rfl rfl
  have h2 : Judged s s2 := h1.same rfl rfl rfl rfl rfl rfl rfl rfl
  have h3 : Judged s s3 := ((h2.setF 1 hn (by decide)).setB b hn (by decide)).setF (min f.degmax 65535) hn (by decide)
  exact ((h3.evSafe 2 [n, b2n b, start]).report 0x000A n s3.now 9 n hr).fnSummary

/-- One function judged. -/
theorem State.fnJudge_judged {s : State} (hr : s.RegsOk) (f : FnDef) : Judged s (s.fnJudge f) := by
  have hn : f.no.val < 65536 := by have := f.no.isLt; omega
  have m : ∀ g : FnRt → FnRt, Judged s (s.modFn f.no.val g) := fun g => (Judged.refl s).same rfl rfl rfl rfl rfl rfl rfl rfl
  unfold State.fnJudge
  split
  · exact Judged.refl s
  · dsimp only
    split
    · split
      · exact (State.fnDegrade_judged hr f false).trans (State.fnTrip_judged hn)
      · split
        · exact State.fnDegrade_judged hr f false
        · split
          · exact State.fnDegrade_judged hr f true
          · exact Judged.refl s
    · split
      · exact State.fnTrip_judged hn
      · split
        · exact m _
        · exact m _
    · exact Judged.refl s

/-- All functions judged. -/
theorem State.fnJudgeAll_judged {s : State} (hr : s.RegsOk) : Judged s s.fnJudgeAll := by
  unfold State.fnJudgeAll
  generalize s.cfg.fns = l
  suffices h : ∀ (l : List FnDef) (t : State), Judged s t → Judged s (l.foldl (fun s f => s.fnJudge f) t) from h l s (Judged.refl s)
  intro l
  induction l with
  | nil => exact fun _ h => h
  | cons f l ih => exact fun t h => ih _ (h.trans (State.fnJudge_judged (h.ok hr) f))

/-- Registers outside a list read as before, and the clock and what waits stand. -/
structure Kept (L : List Fld) (s t : State) : Prop where
  ok : s.RegsOk → t.RegsOk
  get : s.RegsOk → ∀ (f : Fld) (ix : Nat), ix < 65536 → (∀ g ∈ L, f.off * 32 + f.lo ≠ g.off * 32 + g.lo) → t.getF f ix = s.getF f ix
  now : t.now = s.now
  tick : t.tick = s.tick
  due : t.due = s.due

/-- Nothing done. -/
theorem Kept.refl {L : List Fld} (s : State) : Kept L s s := ⟨id, fun _ _ _ _ _ => rfl, rfl, rfl, rfl⟩

/-- One after another. -/
theorem Kept.trans {L : List Fld} {s t u : State} (h : Kept L s t) (k : Kept L t u) : Kept L s u :=
  ⟨k.ok ∘ h.ok, fun r f ix hi hf => (k.get (h.ok r) f ix hi hf).trans (h.get r f ix hi hf), k.now.trans h.now, k.tick.trans h.tick, k.due.trans h.due⟩

/-- One of the registers put. -/
theorem Kept.setF {L : List Fld} {s t : State} (h : Kept L s t) {g : Fld} (v : Nat) {iy : Nat} (hy : iy < 65536) (hg : g ∈ L) : Kept L s (t.setF g v iy) :=
  ⟨fun r => regs_setF_rising _ _ _ _ (h.ok r), fun r f ix hi hf => (getF_setF_ne _ _ (h.ok r) (key_ne_of_place hi hy (hf g hg))).trans (h.get r f ix hi hf),
    h.now, h.tick, h.due⟩

/-- A flag of them put. -/
theorem Kept.setB {L : List Fld} {s t : State} (h : Kept L s t) {g : Fld} (b : Bool) {iy : Nat} (hy : iy < 65536) (hg : g ∈ L) : Kept L s (t.setB g b iy) := h.setF _ hy hg
/-- A counter of them advanced. -/
theorem Kept.bump {L : List Fld} {s t : State} (h : Kept L s t) {g : Fld} {n : Nat} {iy : Nat} (hy : iy < 65536) (hg : g ∈ L) : Kept L s (t.bump g iy n) := h.setF _ hy hg

/-- A change elsewhere. -/
theorem Kept.same {L : List Fld} {s t u : State} (h : Kept L s t) (e1 : u.regs = t.regs) (e2 : u.now = t.now) (e3 : u.tick = t.tick) (e4 : u.due = t.due) : Kept L s u :=
  ⟨fun r => by show tabRising u.regs = true; rw [e1]; exact h.ok r, fun r f ix hi hf => (getF_same e1).trans (h.get r f ix hi hf), e2.trans h.now, e3.trans h.tick, e4.trans h.due⟩

/-- Some of them changed, and other things. -/
theorem Kept.chg {L : List Fld} {s t u : State} {l : List (Fld × Nat)} (h : Kept L s t) (c : t.RegsOk → Chg t u l) (hl : ∀ x ∈ l, x.1 ∈ L ∧ x.2 < 65536)
    (e2 : u.now = t.now) (e3 : u.tick = t.tick) (e4 : u.due = t.due) : Kept L s u :=
  ⟨fun r => (c (h.ok r)).ok, fun r f ix hi hf => ((c (h.ok r)).only f ix (fun x hx => key_ne_of_place hi (hl x hx).2 (hf x.1 (hl x hx).1))).trans (h.get r f ix hi hf),
    e2.trans h.now, e3.trans h.tick, e4.trans h.due⟩

/-- Either branch. -/
theorem Kept.ite {L : List Fld} {s x y : State} {c : Prop} [Decidable c] (hx : Kept L s x) (hy : Kept L s y) : Kept L s (if c then x else y) := by
  split <;> assumption

/-- An operation repeated over a list. -/
theorem Kept.foldl {L : List Fld} {β : Type} {f : State → β → State} {l : List β} {s t : State} (h : Kept L s t) (hf : ∀ u, ∀ x ∈ l, Kept L s u → Kept L s (f u x)) :
    Kept L s (l.foldl f t) := by
  induction l generalizing t with
  | nil => exact h
  | cons x l ih => exact ih (hf t x (by simp) h) (fun u y hy => hf u y (by simp [hy]))

/-- Judging the functions is of that kind. -/
theorem State.fnJudgeAll_kept {s : State} (hr : s.RegsOk) : Kept sampleFlds s s.fnJudgeAll :=
  ⟨(State.fnJudgeAll_judged hr).ok, fun r f ix hi hf => (State.fnJudgeAll_judged hr).get r f ix hi (fun g hg => hf g (List.mem_append_left _ hg)),
    (State.fnJudgeAll_judged hr).now, (State.fnJudgeAll_judged hr).tick, (State.fnJudgeAll_judged hr).due⟩

/-- An edge entered. -/
theorem State.edgePut_kept {s : State} (hr : s.RegsOk) (n : Nat) (fa : Bool) (st : Nat) : Kept sampleFlds s (s.edgePut n fa st) := by
  unfold State.edgePut
  extract_lets seq io s1 head
  have h1 : Kept sampleFlds s s1 := (Kept.refl s).same rfl rfl rfl rfl
  split
  · exact h1.bump (by decide) (by decide)
  · obtain ⟨c, r, q, p, e⟩ := State.ringPut_does (s := s1) hr .dioEdge s1.seatB 0 4096 16 head (edgeEntry st n fa seq) (g := fun s => s.wrapUp DIO_EDGEHEAD_HEAD)
      (fun w hw => ⟨(Chg.refl hw).wrapUp DIO_EDGEHEAD_HEAD 0, _, rfl⟩)
    refine h1.chg (fun _ => c) ?_ (by rw [e]) (by rw [e]) (by rw [e])
    intro x hx
    have : ∀ x ∈ latchFields ++ [(DIO_EDGEHEAD_HEAD, 0)], x.1 ∈ sampleFlds ∧ x.2 < 65536 := by decide
    exact this x hx

/-- One sample of an input. -/
theorem State.sampleIn_kept {s : State} (hr : s.RegsOk) {n : Nat} (hn : n < 65536) (m : Nat) (x : DioSamp) : Kept sampleFlds s (s.sampleIn n m x) := by
  unfold State.sampleIn
  extract_lets c raw filt k wb old val rise cnt s1 s2 s3
  have h1 : Kept sampleFlds s s1 := (Kept.refl s).same rfl rfl rfl rfl
  have h2 : Kept sampleFlds s s2 := (h1.setB val hn (by decide)).setB (decide (wb ≥ 4)) hn (by decide)
  have h3 : Kept sampleFlds s s3 := h2.setB (s2.dioSick n) hn (by decide)
  refine Kept.ite ?_ h3
  obtain ⟨sc, e⟩ := State.trigger_frame (s3.edgePut n (!val) x.entered) (.edge s3.seatB (Fin.ofNat 32 n)) x.entered
  have h4 := h3.trans (State.edgePut_kept (h3.ok hr) n (!val) x.entered)
  exact h4.same (by rw [e]) (by rw [e]) (by rw [e]) (by rw [e])

/-- One sample of an output. -/
theorem State.sampleOut_kept {s : State} {n : Nat} (hn : n < 65536) (m : Nat) (x : DioSamp) : Kept sampleFlds s (s.sampleOut n m x) := by
  unfold State.sampleOut
  extract_lets on c commanded s1 ext light s2 s3 ns s4 stuck p s5 s6
  have h1 : Kept sampleFlds s s1 := (Kept.refl s).setF _ hn (by decide)
  have h2 : Kept sampleFlds s s2 := Kept.ite (h1.setF _ hn (by decide)) (Kept.ite (h1.setF _ hn (by decide)) h1)
  have h3 : Kept sampleFlds s s3 := Kept.ite (h2.setF _ hn (by decide)) (Kept.ite (h2.setF _ hn (by decide)) h2)
  have h4 : Kept sampleFlds s s4 := Kept.ite ((h3.bump (by decide) (by decide)).setF _ (by decide) (by decide)) h3
  have h5 : Kept sampleFlds s s5 := h4.same rfl rfl rfl rfl
  have h6 : Kept sampleFlds s s6 := Kept.ite ((h5.setF _ hn (by decide)).setF _ hn (by decide)) h5
  exact h6.setB _ hn (by decide)

/-- The samples of all channels. -/
theorem State.sampleAll_kept (l : List DioSamp) : ∀ {s : State} (_ : s.RegsOk) (n : Nat), Kept sampleFlds s (s.sampleAll n l) := by
  induction l with
  | nil => intro s _ n; exact Kept.refl s
  | cons x l ih =>
    intro s hr n
    unfold State.sampleAll
    split
    · next hn =>
      have h1 : Kept sampleFlds s (s.sampleCh n x) := by
        unfold State.sampleCh
        dsimp only
        split
        · exact State.sampleIn_kept hr (by omega) _ x
        · split
          · exact State.sampleOut_kept (by omega) _ x
          · exact (Kept.refl s).setB _ (by omega) (by decide)
      exact h1.trans (ih (h1.ok hr) _)
    · exact Kept.refl s

/-- One tick of a two-channel input. -/
theorem State.pairTick_kept (s : State) (f : FnDef) : Kept sampleFlds s (s.pairTick f) := by
  have hn : f.no.val < 65536 := by have := f.no.isLt; omega
  unfold State.pairTick
  extract_lets n da db ok s1 s2 r d s3 fault res
  have h2 : Kept sampleFlds s s2 := by
    have h1 : Kept sampleFlds s s1 := (Kept.refl s).same rfl rfl rfl rfl
    exact Kept.ite (Kept.ite (h1.setF _ hn (by decide)) (h1.bump (by decide) (by decide))) (Kept.refl s)
  have h3 : Kept sampleFlds s s3 := Kept.ite (h2.setF _ hn (by decide)) h2
  exact h3.same rfl rfl rfl rfl

end Sys2Proof.Machine
end

