-- ==== Sys2Proof/Laws/Analog.lean ====
section
/-! SUPPORT. What the analogue channels' operations can do: which registers a sample, a round and a readback show, and what they leave. -/
namespace Sys2Proof.Machine

/-- A sample of a source taken, or a supply set: what its inputs show, and the samples themselves. -/
structure Sampled (s t : State) : Prop where
  kept : Kept adcFlds s t
  io : t.io = { s.io with ai := t.io.ai, srcs := t.io.srcs }

/-- Nothing done. -/
theorem Sampled.refl (s : State) : Sampled s s := ⟨Kept.refl s, rfl⟩

/-- One after another. -/
theorem Sampled.trans {s t u : State} (h : Sampled s t) (k : Sampled t u) : Sampled s u := ⟨h.kept.trans k.kept, by rw [k.io, h.io]⟩

/-- An operation repeated over a list. -/
theorem Sampled.foldl {β : Type} {f : State → β → State} {l : List β} (hf : ∀ u, ∀ x ∈ l, Sampled u (f u x)) (s : State) : Sampled s (l.foldl f s) := by
  induction l generalizing s with
  | nil => exact Sampled.refl s
  | cons x l ih => exact (hf s x (by simp)).trans (ih (fun u y hy => hf u y (by simp [hy])) _)

/-- An input shown. -/
theorem State.showAi_sampled (s : State) {n : Nat} (hn : n < 65536) : Sampled s (s.showAi n) := by
  unfold State.showAi
  exact ⟨(((Kept.refl s).setB _ hn (by decide)).setB _ hn (by decide)).setF _ hn (by decide), rfl⟩

/-- Samples put. -/
theorem State.putAi_sampled (s : State) (v : List (Nat × AiCh)) : Sampled s { s with io := { s.io with ai := v } } := ⟨(Kept.refl s).same rfl rfl rfl rfl, rfl⟩

/-- A register of them put. -/
theorem Sampled.setF {s t : State} (h : Sampled s t) {g : Fld} (v : Nat) {iy : Nat} (hy : iy < 65536) (hg : g ∈ adcFlds) : Sampled s (t.setF g v iy) := ⟨h.kept.setF v hy hg, h.io⟩

/-- A loop supply set. -/
theorem State.loopSet_sampled (s : State) {n : Nat} (hn : n < 65536) : Sampled s (s.loopSet n) := by
  unfold State.loopSet
  dsimp only
  split
  · exact (State.putAi_sampled s _).setF _ hn (by decide)
  · exact (State.putAi_sampled s _).setF _ hn (by decide)

/-- A sample of an input. -/
theorem State.aiSample_sampled (s : State) {n : Nat} (hn : n < 65536) (x t : Nat) : Sampled s (s.aiSample n x t) := by
  unfold State.aiSample
  dsimp only
  generalize (if (decide (s.getF AIO_AICFG_TAU n * 10000000 = 0) || !(s.aiCh n).have_) = true then x
    else Config.filterStep (s.aiCh n).y x (t - (s.aiCh n).time) (s.getF AIO_AICFG_TAU n * 10000000)) = y
  refine Sampled.trans ?_ (State.showAi_sampled _ hn)
  split
  · exact ((State.putAi_sampled s _).setF (g := AIO_AISTAT_LSLIM) _ hn (by decide)).setF _ hn (by decide)
  · exact (State.putAi_sampled s _).setF _ hn (by decide)

/-- A sample of a source. -/
theorem State.adcTake_sampled (s : State) (src code t : Nat) : Sampled s (s.adcTake src code t) := by
  unfold State.adcTake
  dsimp only
  have a : Sampled s { s with io := { s.io with srcs := tabSet s.io.srcs src (if src ≥ 0x25 then 0 else code) } } := ⟨(Kept.refl s).same rfl rfl rfl rfl, rfl⟩
  by_cases h : src < 16
  · rw [if_pos h]
    exact a.trans (State.aiSample_sampled _ (by omega) _ _)
  · rw [if_neg h]
    exact a

/-- What urgent requests served show besides. -/
theorem State.serveUrgent_does (t : Nat) : ∀ (q : List (Nat × Nat × Bool)) (codes : List (BitVec 18)) (s : State), s.RegsOk →
    Kept (adcFlds ++ urgFlds) s (s.serveUrgent t q codes) ∧
    (s.serveUrgent t q codes).io = { s.io with ai := (s.serveUrgent t q codes).io.ai, srcs := (s.serveUrgent t q codes).io.srcs, urgent := q.drop codes.length } ∧
    (s.serveUrgent t q codes).flag ADC_STAT_URGPEND = !(q.drop codes.length).isEmpty := by
  have last : ∀ (q : List (Nat × Nat × Bool)) (s : State), s.RegsOk → Kept (adcFlds ++ urgFlds) s (({ s with io := { s.io with urgent := q } } : State).setB ADC_STAT_URGPEND (!q.isEmpty)) ∧
      (({ s with io := { s.io with urgent := q } } : State).setB ADC_STAT_URGPEND (!q.isEmpty)).io =
        { s.io with ai := s.io.ai, srcs := s.io.srcs, urgent := q } ∧
      (({ s with io := { s.io with urgent := q } } : State).setB ADC_STAT_URGPEND (!q.isEmpty)).flag ADC_STAT_URGPEND = !q.isEmpty :=
    fun q s h => ⟨by
      have k : Kept (adcFlds ++ urgFlds) s { s with io := { s.io with urgent := q } } := (Kept.refl s).same rfl rfl rfl rfl
      exact k.setB _ (by decide) (by decide), rfl, flag_setB_self (s := { s with io := { s.io with urgent := q } }) h _ rfl⟩
  intro q
  induction q with
  | nil =>
    intro codes s h
    have e : s.serveUrgent t [] codes = ({ s with io := { s.io with urgent := [] } } : State).setB ADC_STAT_URGPEND (!(List.isEmpty ([] : List (Nat × Nat × Bool)))) := by
      cases codes <;> rfl
    rw [e, List.drop_nil]
    exact last [] s h
  | cons x q ih =>
    intro codes s h
    cases codes with
    | nil => exact last (x :: q) s h
    | cons c cs =>
      obtain ⟨a, b⟩ := State.adcTake_sampled s x.1 c.toNat t
      have am : Kept (adcFlds ++ urgFlds) s (s.adcTake x.1 c.toNat t) :=
        ⟨a.ok, fun r f ix hi hf => a.get r f ix hi (fun g hg => hf g (List.mem_append_left _ hg)), a.now, a.tick, a.due⟩
      have key : ∀ u : State, Kept (adcFlds ++ urgFlds) s u → u.io = { s.io with ai := u.io.ai, srcs := u.io.srcs } →
          Kept (adcFlds ++ urgFlds) s (u.serveUrgent t q cs) ∧
          (u.serveUrgent t q cs).io = { s.io with ai := (u.serveUrgent t q cs).io.ai, srcs := (u.serveUrgent t q cs).io.srcs, urgent := q.drop cs.length } ∧
          (u.serveUrgent t q cs).flag ADC_STAT_URGPEND = !(q.drop cs.length).isEmpty := by
        intro u k e
        obtain ⟨i1, i2, i3⟩ := ih cs u (k.ok h)
        exact ⟨k.trans i1, by rw [i2, e], i3⟩
      have e : s.serveUrgent t (x :: q) (c :: cs) = (if x.2.2 then ((s.adcTake x.1 c.toNat t).setF ADC_URGRES_CODE (if x.1 ≥ 0x25 then 0 else c.toNat)).setF ADC_URGENT_DONE 1 else s.adcTake x.1 c.toNat t).serveUrgent t q cs := rfl
      rw [e]
      by_cases hx : x.2.2 = true
      · rw [if_pos hx]
        exact key _ ((am.setF _ (by decide) (by decide)).setF _ (by decide) (by decide)) b
      · rw [if_neg hx]
        exact key _ am b

/-- The analogue outputs' readback registers. -/
theorem State.aoTarget_kept (s : State) (n : Nat) : Kept rbFlds s (s.aoTarget n) ∧ (s.aoTarget n).regs = s.regs := by
  obtain h := State.aoTarget_judged s n
  have e : (s.aoTarget n).regs = s.regs := by
    have d : ∀ (u : State) (c : Int × Nat), (u.aoDrive n c).regs = u.regs := by
      intro u c
      unfold State.aoDrive
      dsimp only
      split <;> rfl
    unfold State.aoTarget
    split
    · exact d _ _
    · split
      · rfl
      · split
        · exact d _ _
        · exact d _ _
  exact ⟨(Kept.refl s).same e h.now h.tick h.due, e⟩

/-- What a readback shows. -/
theorem State.readbackShow_does {s : State} (h : s.RegsOk) {n : Nat} (hn : n < 8) (o1 : AoCh) :
    Kept rbFlds s (s.readbackShow n o1) ∧ (s.readbackShow n o1).getF AIO_AOSTAT_RBCUR (n + 16) = sat 16 (o1.rb / 5) ∧
    ∀ m, m < 65536 → m ≠ n + 16 → (s.readbackShow n o1).getF AIO_AOSTAT_RBCUR m = s.getF AIO_AOSTAT_RBCUR m := by
  have hn' : n + 16 < 65536 := by omega
  unfold State.readbackShow
  dsimp only
  have a0 : Kept rbFlds s (s.modAo n (fun _ => o1)) := (Kept.refl s).same rfl rfl rfl rfl
  have a1 := a0.setF (g := AIO_AOSTAT_RBCUR) (sat 16 (o1.rb / 5)) hn' (by decide)
  have v1 : ((s.modAo n (fun _ => o1)).setF AIO_AOSTAT_RBCUR (sat 16 (o1.rb / 5)) (n + 16)).getF AIO_AOSTAT_RBCUR (n + 16) = sat 16 (o1.rb / 5) :=
    (getF_setF_self _ _ _ _ (a0.ok h)).trans (Nat.mod_eq_of_lt (lt_of_le_of_lt (Nat.min_le_right _ _) (by decide)))
  have w1 : ∀ m, m < 65536 → m ≠ n + 16 → ((s.modAo n (fun _ => o1)).setF AIO_AOSTAT_RBCUR (sat 16 (o1.rb / 5)) (n + 16)).getF AIO_AOSTAT_RBCUR m = s.getF AIO_AOSTAT_RBCUR m :=
    fun m hm hne => (getF_setF_ne _ _ (a0.ok h) (key_ne_of_ix (by omega))).trans rfl
  generalize ((s.modAo n (fun _ => o1)).setF AIO_AOSTAT_RBCUR (sat 16 (o1.rb / 5)) (n + 16)) = u at *
  have put : ∀ (w : State) (f : Fld) (v : Nat), f ∈ rbFlds → f.off * 32 + f.lo ≠ AIO_AOSTAT_RBCUR.off * 32 + AIO_AOSTAT_RBCUR.lo → Kept rbFlds s w → (∀ m, m < 65536 → w.getF AIO_AOSTAT_RBCUR m = u.getF AIO_AOSTAT_RBCUR m) →
      Kept rbFlds s (w.setF f v (n + 16)) ∧ (∀ m, m < 65536 → (w.setF f v (n + 16)).getF AIO_AOSTAT_RBCUR m = u.getF AIO_AOSTAT_RBCUR m) :=
    fun w f v hf hne k e => ⟨k.setF _ hn' hf, fun m hm => (getF_setF_ne _ _ (k.ok h) (key_ne_of_place hm hn' (Ne.symm hne))).trans (e m hm)⟩
  have two : ∀ (w : State) (f : Fld) (p q : Prop) [Decidable p] [Decidable q], f ∈ rbFlds → f.off * 32 + f.lo ≠ AIO_AOSTAT_RBCUR.off * 32 + AIO_AOSTAT_RBCUR.lo → Kept rbFlds s w → (∀ m, m < 65536 → w.getF AIO_AOSTAT_RBCUR m = u.getF AIO_AOSTAT_RBCUR m) →
      Kept rbFlds s (if p then w.setF f 1 (n + 16) else if q then w.setF f 0 (n + 16) else w) ∧
      (∀ m, m < 65536 → (if p then w.setF f 1 (n + 16) else if q then w.setF f 0 (n + 16) else w).getF AIO_AOSTAT_RBCUR m = u.getF AIO_AOSTAT_RBCUR m) := by
    intro w f p q _ _ hf hne k e
    split
    · exact put w f 1 hf hne k e
    · split
      · exact put w f 0 hf hne k e
      · exact ⟨k, e⟩
  have a2 := two u AIO_AOSTAT_OPENLP (o1.opn ≥ 16) (o1.opnOff ≥ 16) (by decide) (by decide) a1 (fun _ _ => rfl)
  generalize (if o1.opn ≥ 16 then u.setF AIO_AOSTAT_OPENLP 1 (n + 16) else if o1.opnOff ≥ 16 then u.setF AIO_AOSTAT_OPENLP 0 (n + 16) else u) = w at *
  have a3 := two w AIO_AOSTAT_COMPL (o1.com ≥ 16) (o1.comOff ≥ 16) (by decide) (by decide) a2.1 a2.2
  generalize (if o1.com ≥ 16 then w.setF AIO_AOSTAT_COMPL 1 (n + 16) else if o1.comOff ≥ 16 then w.setF AIO_AOSTAT_COMPL 0 (n + 16) else w) = y at *
  have fin : ∀ z : State, Kept rbFlds s z → (∀ m, m < 65536 → z.getF AIO_AOSTAT_RBCUR m = u.getF AIO_AOSTAT_RBCUR m) →
      Kept rbFlds s z ∧ z.getF AIO_AOSTAT_RBCUR (n + 16) = sat 16 (o1.rb / 5) ∧ ∀ m, m < 65536 → m ≠ n + 16 → z.getF AIO_AOSTAT_RBCUR m = s.getF AIO_AOSTAT_RBCUR m :=
    fun z k e => ⟨k, (e _ hn').trans v1, fun m hm hne => (e m hm).trans (w1 m hm hne)⟩
  split
  · obtain ⟨b1, b2⟩ := put y AIO_AOSTAT_RBFAIL 1 (by decide) (by decide) a3.1 a3.2
    obtain ⟨ar, e⟩ := State.evHw_frame (y.setF AIO_AOSTAT_RBFAIL 1 (n + 16)) 3 [n, o1.rb]
    generalize y.setF AIO_AOSTAT_RBFAIL 1 (n + 16) = z at *
    rw [e]
    have c1 : Kept rbFlds s ({ z with arc := ar } : State) := b1.same rfl rfl rfl rfl
    have c2 := State.aoTarget_kept ({ z with arc := ar } : State) n
    exact fin _ (c1.trans c2.1) (fun m hm => (getF_same c2.2).trans (b2 m hm))
  · exact fin _ a3.1 a3.2

/-- One readback. -/
theorem State.readback_does {s : State} (h : s.RegsOk) {n : Nat} (hn : n < 8) (x : AoSamp) :
    Kept rbFlds s (s.readback n x) ∧ (s.readback n x).getF AIO_AOSTAT_RBCUR (n + 16) = sat 16 (x.cur / 5) ∧
    ∀ m, m < 65536 → m ≠ n + 16 → (s.readback n x).getF AIO_AOSTAT_RBCUR m = s.getF AIO_AOSTAT_RBCUR m := State.readbackShow_does h hn _

/-- All readbacks: each output that has a sample shows its own. -/
theorem State.readbackAll_does : ∀ (l : List AoSamp) (k : Nat) {s : State}, s.RegsOk →
    Kept rbFlds s (s.readbackAll k l) ∧
    (∀ (j : Nat) (x : AoSamp), k + j < 8 → l[j]? = some x → (s.readbackAll k l).getF AIO_AOSTAT_RBCUR (k + j + 16) = sat 16 (x.cur / 5)) ∧
    ∀ m, m < k → (s.readbackAll k l).getF AIO_AOSTAT_RBCUR (m + 16) = s.getF AIO_AOSTAT_RBCUR (m + 16) := by
  intro l
  induction l with
  | nil => exact fun k s h => ⟨Kept.refl s, fun j x _ e => by simp at e, fun _ _ => rfl⟩
  | cons x l ih =>
    intro k s h
    unfold State.readbackAll
    by_cases hk : k < 8
    · rw [if_pos hk]
      obtain ⟨a, b, c⟩ := State.readback_does h hk x
      generalize s.readback k x = u at *
      obtain ⟨i1, i2, i3⟩ := ih (k + 1) (a.ok h)
      refine ⟨a.trans i1, ?_, fun m hm => (i3 m (by omega)).trans (c _ (by omega) (by omega))⟩
      intro j y hj e
      cases j with
      | zero =>
        have : x = y := by simpa using e
        subst this
        exact (i3 k (by omega)).trans b
      | succ j =>
        have := i2 j y (by omega) (by simpa using e)
        rwa [show k + 1 + j = k + (j + 1) from by omega] at this
    · rw [if_neg hk]
      exact ⟨Kept.refl s, fun j y hj _ => by omega, fun _ _ => rfl⟩

end Sys2Proof.Machine
end

