-- ==== Sys2Proof/Laws/Boot.lean ====
section
/-! SUPPORT. What a restart leaves, and what changing a firmware slot does. -/
namespace Sys2Proof.Machine

/-- The register fields that a restart leaves at other than their reset values: those it keeps, its own record, the number of the active store,
and what shows the write credit and the firmware slots. -/
def restartFields : List (Fld × Nat) :=
  keptFields.map (fun f => (f, 0)) ++
  [(BOT_RSTCAUSE_CAUSE, 0), (BOT_RSTCAUSE_LWCAUSE, 0), (SCH_OLCSTAT_ACTSTORE, 0), (ARC_STAT_OVERBUDGET, 0), (ARC_STAT_CREDIT, 0),
   (BOT_SLOTSTAT_STATEA, 0), (BOT_SLOTSTAT_STATEB, 0), (BOT_SVN_KERBSVN, 0), (BOT_SVN_MODSVN, 0), (BOT_SVN_SLOTSVN, 0)]

/-- A restart: what it keeps, and everything else as after reset. -/
theorem State.restart_does (s : State) (env : BootEnv) {c : Nat} (hc : c < 16) {u : State} (hu : u = s.finishSet c) :
    (s.restart c env).kerb.phase = .boot ∧ (s.restart c env).kerb.env = env ∧ (s.restart c env).getF BOT_RSTCAUSE_CAUSE = c ∧
    (s.restart c env).getF BOT_RSTCAUSE_LWCAUSE = u.kerb.lwCause % 2 ^ 8 ∧
    (s.restart c env) = { State.reset with
      pending := u.pending, regs := (s.restart c env).regs, out := u.out, fresh := u.fresh, now := u.now, tick := u.tick, pkgs := u.keptPkgs,
      arc := (s.restart c env).arc, kerb := u.keptKerb env, sq := { State.reset.sq with rowMap := u.sq.rowMap }, pair := { PairRt.reset with lastLead := u.pair.lastLead, lastEpoch := u.pair.lastEpoch } } ∧
    (s.restart c env).arc = { u.keptArc with credit := (s.restart c env).arc.credit, creditAt := (s.restart c env).arc.creditAt } ∧
    OnlyRegs State.reset (s.restart c env) restartFields := by
  have r0 : State.reset.RegsOk := by decide
  have kept : ∀ (l : List Fld) (v : State) (m : List (Fld × Nat)), Chg State.reset v m → Chg State.reset (l.foldl (fun (n : State) f => n.setF f (u.asWritten f)) v) (l.map (fun f => (f, 0)) ++ m) := by
    intro l
    induction l with
    | nil => intro v m h; exact h
    | cons f l ih =>
      intro v m h
      rw [List.foldl_cons]
      refine (ih _ _ (h.setF f _ 0)).mono ?_
      intro x hx
      simp only [List.map_cons, List.mem_append, List.mem_cons] at *
      grind
  have c0 := kept keptFields State.reset [] (Chg.refl r0)
  unfold State.restart
  dsimp only
  rw [← hu]
  generalize hn : ({ State.reset with pending := u.pending, regs := u.keptRegs, out := u.out, fresh := u.fresh, now := u.now, tick := u.tick, pkgs := u.keptPkgs, arc := u.keptArc, kerb := u.keptKerb env, sq := { State.reset.sq with rowMap := u.sq.rowMap }, pair := { PairRt.reset with lastLead := u.pair.lastLead, lastEpoch := u.pair.lastEpoch } } : State) = n
  have cn : Chg State.reset n (keptFields.map (fun f => (f, 0)) ++ []) := c0.same (by rw [← hn]; rfl)
  have c1 := cn.setF BOT_RSTCAUSE_CAUSE c 0
  have c2 := c1.setF BOT_RSTCAUSE_LWCAUSE u.kerb.lwCause 0
  have c3 := c2.bump BOT_RSTCAUSE_RSTCNT 0 1
  have c4 := c3.setF SCH_OLCSTAT_ACTSTORE ((u.kerb.act.map ActRec.store).getD u.actStore) 0
  have a1 := getF_setF_self n BOT_RSTCAUSE_CAUSE c 0 cn.ok
  generalize hm : ((((n.setF BOT_RSTCAUSE_CAUSE c).setF BOT_RSTCAUSE_LWCAUSE u.kerb.lwCause).bump BOT_RSTCAUSE_RSTCNT).setF SCH_OLCSTAT_ACTSTORE ((u.kerb.act.map ActRec.store).getD u.actStore)) = m at *
  have m1 : m.getF BOT_RSTCAUSE_CAUSE = c := by
    rw [← hm]
    refine (getF_setF_ne _ _ c3.ok (by decide)).trans ((getF_setF_ne _ _ c2.ok (by decide)).trans ((getF_setF_ne _ _ c1.ok (by decide)).trans (a1.trans ?_)))
    exact Nat.mod_eq_of_lt (by simpa using (show c < 2 ^ BOT_RSTCAUSE_CAUSE.w by have : BOT_RSTCAUSE_CAUSE.w = 8 := rfl; rw [this]; omega))
  have m2 : m.getF BOT_RSTCAUSE_LWCAUSE = u.kerb.lwCause % 2 ^ 8 := by
    rw [← hm]
    exact (getF_setF_ne _ _ c3.ok (by decide)).trans ((getF_setF_ne _ _ c2.ok (by decide)).trans (getF_setF_self _ _ _ _ c1.ok))
  have m3 : m = { n with regs := m.regs } := by rw [← hm]; rfl
  obtain ⟨-, d2, rr, d3⟩ := State.setCredit_does c4.ok m.creditNow
  have e1 : (m.setCredit m.creditNow).getF BOT_RSTCAUSE_CAUSE = c := (d2.only _ _ (by decide)).trans m1
  have e2 : (m.setCredit m.creditNow).getF BOT_RSTCAUSE_LWCAUSE = u.kerb.lwCause % 2 ^ 8 := (d2.only _ _ (by decide)).trans m2
  have e3 : Chg State.reset (m.setCredit m.creditNow) _ := c4.trans d2
  have e4 : m.setCredit m.creditNow = { m with regs := (m.setCredit m.creditNow).regs, arc := { m.arc with credit := (m.setCredit m.creditNow).arc.credit, creditAt := (m.setCredit m.creditNow).arc.creditAt } } := by rw [d3]
  generalize m.setCredit m.creditNow = w at *
  have g1 := e3.setF BOT_SLOTSTAT_STATEA (w.slot 0).st 0
  have g2 := g1.setF BOT_SLOTSTAT_STATEB (w.slot 1).st 0
  have g3 := g2.setF BOT_SVN_KERBSVN (thermCount w.kerb.fuses false) 0
  have g4 := g3.setF BOT_SVN_MODSVN (thermCount w.kerb.fuses true) 0
  have g5 := g4.setF BOT_SVN_SLOTSVN ((((w.setF BOT_SLOTSTAT_STATEA (w.slot 0).st).setF BOT_SLOTSTAT_STATEB (w.slot 1).st).setF BOT_SVN_KERBSVN (thermCount w.kerb.fuses false)).setF BOT_SVN_MODSVN (thermCount w.kerb.fuses true)).bundle.modSvn 0
  have f : ∀ g : Fld, (g = BOT_RSTCAUSE_CAUSE ∨ g = BOT_RSTCAUSE_LWCAUSE) → w.showSlots.getF g = w.getF g := by
    rintro g (rfl | rfl) <;> exact (getF_setF_ne _ _ g4.ok (by decide)).trans ((getF_setF_ne _ _ g3.ok (by decide)).trans ((getF_setF_ne _ _ g2.ok (by decide)).trans ((getF_setF_ne _ _ g1.ok (by decide)).trans (getF_setF_ne _ _ e3.ok (by decide)))))
  have wf : w.showSlots = { w with regs := w.showSlots.regs } := rfl
  have gg : Chg State.reset w.showSlots _ := g5
  have f1 := f _ (Or.inl rfl)
  have f2 := f _ (Or.inr rfl)
  generalize w.showSlots = z at *
  have kk : z.kerb = u.keptKerb env := by rw [wf]; show w.kerb = _; rw [e4]; show m.kerb = _; rw [m3, ← hn]
  refine ⟨by rw [kk]; rfl, by rw [kk]; rfl, f1.trans e1, f2.trans e2, ?_, ?_, (gg.mono ?_).only⟩
  · rw [wf]
    show ({ w with regs := z.regs } : State) = _
    rw [e4]
    show ({ m with regs := z.regs, arc := _ } : State) = _
    rw [m3, ← hn]
  · rw [wf]
    show w.arc = _
    rw [e4]
    show ({ m.arc with credit := _, creditAt := _ } : Arcade) = _
    rw [m3, ← hn]
  · intro x hx
    unfold restartFields
    simp only [List.mem_append, List.mem_cons, List.not_mem_nil, or_false] at *
    have : (BOT_RSTCAUSE_RSTCNT, 0) ∈ keptFields.map (fun f => (f, 0)) := by decide
    rcases hx with rfl | rfl | rfl | rfl | rfl | (rfl | rfl) | rfl | rfl | rfl | rfl | hx <;> first | exact Or.inl this | (right; simp; done) | exact Or.inl hx

/-- Without a Kerb set on hand nothing is completed first. -/
theorem State.finishSet_none {s : State} (h : s.kerb.kset = none) (c : Nat) : s.finishSet c = s := by
  unfold State.finishSet
  rw [h]

/-- What shows the slots. -/
def slotFields : List (Fld × Nat) :=
  [(BOT_SLOTSTAT_STATEA, 0), (BOT_SLOTSTAT_STATEB, 0), (BOT_SVN_KERBSVN, 0), (BOT_SVN_MODSVN, 0), (BOT_SVN_SLOTSVN, 0)]

/-- Changing a slot: that slot, and the registers that show the slots. -/
theorem State.modSlot_does {s : State} (h : s.RegsOk) (n : Nat) (f : Slot → Slot) :
    (s.modSlot n f).slot n = f (s.slot n) ∧ (∀ m, m ≠ n → (s.modSlot n f).slot m = s.slot m) ∧ Chg s (s.modSlot n f) slotFields ∧
    ∃ r, s.modSlot n f = { s with regs := r, kerb := { s.kerb with slots := tabMod Slot.empty s.kerb.slots n f } } := by
  have c0 := (Chg.refl h).same (u := s.modKerb (fun k => { k with slots := tabMod Slot.empty k.slots n f })) rfl
  refine ⟨tabGet_tabSet_self _ _ _ _, fun m hm => tabGet_tabSet_ne _ _ _ hm, ?_, _, rfl⟩
  unfold State.modSlot
  generalize s.modKerb (fun k => { k with slots := tabMod Slot.empty k.slots n f }) = u at *
  have c5 := ((((c0.setF BOT_SLOTSTAT_STATEA (u.slot 0).st 0).setF BOT_SLOTSTAT_STATEB (u.slot 1).st 0).setF BOT_SVN_KERBSVN
    (thermCount u.kerb.fuses false) 0).setF BOT_SVN_MODSVN (thermCount u.kerb.fuses true) 0).setF BOT_SVN_SLOTSVN
    ((((u.setF BOT_SLOTSTAT_STATEA (u.slot 0).st).setF BOT_SLOTSTAT_STATEB (u.slot 1).st).setF BOT_SVN_KERBSVN (thermCount u.kerb.fuses false)).setF
      BOT_SVN_MODSVN (thermCount u.kerb.fuses true)).bundle.modSvn 0
  exact c5.mono (by simp [slotFields])

/-- A write whose effect restarts the module: nothing is counted. -/
theorem State.written_boot {s : State} {p : Path} {off : Nat} {f : State → State} {u : State} (hb : s.blkReady (off / 0x10000) = true)
    (hs : s.kerb.phase ≠ .boot) (hu : f s.aside = u) (ub : u.kerb.phase = .boot) : s.written p off f = u := by
  unfold State.written State.attempts
  dsimp only
  rw [hb]
  simp only [Bool.not_true, Bool.false_eq_true, if_false, List.foldl_cons, List.foldl_nil]
  rw [show (s.setF KRB_IGNSTAT_IGNCNT 0) = s.aside from rfl, hu]
  by_cases hf : u.flag KRB_IGNSTAT_IGNCNT = true <;> simp [hf, ub, hs]

end Sys2Proof.Machine
end

