-- ==== Sys2Proof/Laws/Can.lean ====
section
/-! SUPPORT. What the operations of the CAN ports and of the image mover's set-up channels can do. -/
namespace Sys2Proof.Machine

/-- The configuration is the same where the packages and the active store are. -/
theorem State.cfg_same {s u : State} (hp : u.pkgs = s.pkgs) (hg : u.getF SCH_OLCSTAT_ACTSTORE = s.getF SCH_OLCSTAT_ACTSTORE) : u.cfg = s.cfg := by
  unfold State.cfg State.actStore
  rw [hp, hg]

/-- A write by the image mover: the registers of a refusal, the Square and what is carried to the partner. -/
theorem State.ingest_does {s : State} (h : s.RegsOk) (a : Nat) (bs : List Byte) :
    Chg s (s.ingest a bs id) latchFields ∧ ∃ r q p, s.ingest a bs id = { s with regs := r, sq := q, pair := p } := by
  unfold State.ingest
  have k := State.byEngines_does (l := []) h [0x200] .wr [(a, bs.length)] (g := fun s => id (s.seatWrite a bs)) (by
    show Chg s (s.seatWrite a bs) [] ∧ _
    have sw : ∃ q p, s.seatWrite a bs = { s with sq := q, pair := p } := by
      unfold State.seatWrite
      dsimp only
      split
      · exact ⟨_, s.pair, rfl⟩
      · exact ⟨_, _, rfl⟩
    obtain ⟨q, p, e⟩ := sw
    exact ⟨(Chg.refl h).same (by rw [e]), s.regs, q, p, e⟩)
  exact ⟨k.1.mono (by simp), k.2⟩

/-- The result of a queue entry. -/
theorem State.txResult_does {s : State} (h : s.RegsOk) (seat : Bool) (p e r : Nat) (t : Option Nat) :
    Chg s (s.txResult seat p e r t) latchFields ∧ ∃ r' q p', s.txResult seat p e r t = { s with regs := r', sq := q, pair := p' } := by
  unfold State.txResult
  split
  · exact ⟨(Chg.refl h).mono (by simp), s.regs, s.sq, s.pair, rfl⟩
  · next a _ =>
    dsimp only
    obtain ⟨c1, r1, q1, p1, e1⟩ := State.ingest_does h (a + 0x10) [BitVec.ofNat 8 r]
    split
    · next t =>
      generalize s.ingest (a + 0x10) [BitVec.ofNat 8 r] id = u at *
      obtain ⟨c2, r2, q2, p2, e2⟩ := State.ingest_does c1.ok a (natLe 6 (t / 1000000000))
      generalize u.ingest a (natLe 6 (t / 1000000000)) id = w at *
      obtain ⟨c3, r3, q3, p3, e3⟩ := State.ingest_does c2.ok (a + 8) (natLe 4 (t % 1000000000))
      refine ⟨((c1.trans c2).trans c3).mono (by simp), r3, q3, p3, ?_⟩
      rw [e3, e2, e1]
    · exact ⟨c1, r1, q1, p1, e1⟩

/-- The queue of a port dropped. -/
theorem State.txDrop_does {s : State} (h : s.RegsOk) (p r : Nat) :
    Chg s (s.txDrop p r) latchFields ∧
    ∃ r' q p', s.txDrop p r = { s with regs := r', sq := q, pair := p', can := tabMod CanPort.reset s.can p (fun c => { c with queue := [] }) } := by
  unfold State.txDrop
  dsimp only
  have fo : ∀ (l : List CanQEnt) (u : State), Chg s u latchFields → (∃ r' q p', u = { s with regs := r', sq := q, pair := p' }) →
      Chg s (l.foldl (fun s q => s.txResult s.seatB p q.entry r none) u) latchFields ∧
      ∃ r' q p', l.foldl (fun (s : State) q => s.txResult s.seatB p q.entry r none) u = { s with regs := r', sq := q, pair := p' } := by
    intro l
    induction l with
    | nil => exact fun u a b => ⟨a, b⟩
    | cons x l ih =>
      intro u a b
      obtain ⟨c, r1, q1, p1, e⟩ := State.txResult_does a.ok u.seatB p x.entry r none
      refine ih _ ((a.trans c).mono (by simp)) ?_
      obtain ⟨r0, q0, p0, rfl⟩ := b
      exact ⟨r1, q1, p1, e⟩
  obtain ⟨c, r1, q1, p1, e⟩ := fo (s.canPort p).queue s ((Chg.refl h).mono (by simp)) ⟨s.regs, s.sq, s.pair, rfl⟩
  refine ⟨c.same rfl, r1, q1, p1, ?_⟩
  rw [e]
  rfl

/-- The counters shown. -/
theorem State.canCounts_does {s : State} (h : s.RegsOk) (p : Nat) :
    Chg s (s.canCounts p) [(CAN_ERRSTAT_TEC, p), (CAN_ERRSTAT_REC, p)] ∧ ∃ r, s.canCounts p = { s with regs := r } :=
  ⟨(((Chg.refl h).setF CAN_ERRSTAT_TEC _ p).setF CAN_ERRSTAT_REC _ p).mono (by simp), _, rfl⟩

/-- The error state of a port that does not go bus-off. -/
theorem State.canState_does {s : State} (h : s.RegsOk) {p : Nat} (hp : p < 65536) (ht : (s.canPort p).tec ≤ 255) :
    (s.canState p).getF CAN_ERRSTAT_STATE p = (if 127 < (s.canPort p).tec ∨ 127 < (s.canPort p).rec_ then 1 else 0) ∧
    Chg s (s.canState p) [(CAN_ERRSTAT_TEC, p), (CAN_ERRSTAT_REC, p), (CAN_ERRSTAT_STATE, p)] ∧ ∃ r a, s.canState p = { s with regs := r, arc := a } := by
  obtain ⟨c, r, e⟩ := State.canCounts_does h p
  have g : (s.canCounts p).getF CAN_ERRSTAT_STATE p = s.getF CAN_ERRSTAT_STATE p := c.only _ _ (by
    intro x hx
    simp only [List.mem_cons, List.not_mem_nil, or_false] at hx
    rcases hx with rfl | rfl <;> exact key_ne_of_place hp hp (by dsimp only; decide))
  unfold State.canState
  dsimp only
  generalize s.canCounts p = u at *
  rw [if_neg (by omega)]
  by_cases hb : 127 < (s.canPort p).tec ∨ 127 < (s.canPort p).rec_
  · rw [if_pos hb, if_pos (by simpa using hb)]
    split
    · next h1 => exact ⟨g.trans h1, c.mono (by simp), r, s.arc, e⟩
    · obtain ⟨a, ea⟩ := State.evHw_frame (u.setF CAN_ERRSTAT_STATE 1 p) 5 [p]
      have c2 := c.setF CAN_ERRSTAT_STATE 1 p
      refine ⟨(getF_same (s := u.setF CAN_ERRSTAT_STATE 1 p) (by rw [ea])).trans (getF_setF_self _ _ _ _ c.ok), (c2.same (by rw [ea])).mono (by simp), (u.setF CAN_ERRSTAT_STATE 1 p).regs, a, ?_⟩
      rw [ea, e]
      rfl
  · rw [if_neg hb, if_neg (by simpa using hb)]
    refine ⟨getF_setF_self _ _ _ _ c.ok, (c.setF CAN_ERRSTAT_STATE 0 p).mono (by simp), (u.setF CAN_ERRSTAT_STATE 0 p).regs, s.arc, ?_⟩
    rw [e]
    rfl

/-- A port that goes bus-off: its queue is dropped, and its wait begins where BOFFREC says so. -/
theorem State.canState_off {s : State} (h : s.RegsOk) {p : Nat} (hp : p < 65536) (ht : 255 < (s.canPort p).tec) (hs : s.getF CAN_ERRSTAT_STATE p ≠ 2) :
    (s.canState p).getF CAN_ERRSTAT_STATE p = 2 ∧ ((s.canState p).canPort p).queue = [] ∧ ((s.canState p).canPort p).waiting = s.flag CAN_PORTCFG_BOFFREC p ∧
    ((s.canState p).canPort p).tec = (s.canPort p).tec ∧ ((s.canState p).canPort p).rec_ = (s.canPort p).rec_ ∧
    Chg s (s.canState p) ((CAN_ERRSTAT_TEC, p) :: (CAN_ERRSTAT_REC, p) :: (CAN_ERRSTAT_STATE, p) :: latchFields ++ reportFields) := by
  obtain ⟨c, r, e⟩ := State.canCounts_does h p
  have ec : (s.canCounts p).can = s.can := by rw [e]
  unfold State.canState
  dsimp only
  generalize s.canCounts p = u at *
  rw [if_pos (show (s.canPort p).tec > 255 from ht), if_neg hs]
  have c1 := c.setF CAN_ERRSTAT_STATE 2 p
  have v1 : (u.setF CAN_ERRSTAT_STATE 2 p).getF CAN_ERRSTAT_STATE p = 2 := getF_setF_self _ _ _ _ c.ok
  have f1 : (u.setF CAN_ERRSTAT_STATE 2 p).flag CAN_PORTCFG_BOFFREC p = s.flag CAN_PORTCFG_BOFFREC p := by
    unfold State.flag
    rw [c1.only CAN_PORTCFG_BOFFREC p (by
      intro x hx
      simp only [List.mem_cons, List.not_mem_nil, or_false] at hx
      rcases hx with rfl | rfl | rfl <;> exact key_ne_of_place hp hp (by dsimp only; decide))]
  have k1 : (u.setF CAN_ERRSTAT_STATE 2 p).can = s.can := ec
  generalize u.setF CAN_ERRSTAT_STATE 2 p = w at *
  obtain ⟨c2, r2, q2, p2, e2⟩ := State.txDrop_does c1.ok p 2
  have notLatch : ∀ (g : Fld), (∀ x ∈ latchFields, g.off * 32 + g.lo ≠ x.1.off * 32 + x.1.lo) → ∀ x ∈ latchFields, g.key p ≠ x.1.key x.2 := by
    intro g hg x hx
    refine key_ne_of_place hp ?_ (hg x hx)
    simp only [latchFields, List.mem_cons, List.not_mem_nil, or_false] at hx
    rcases hx with rfl | rfl | rfl | rfl | rfl <;> decide
  have v2 : (w.txDrop p 2).getF CAN_ERRSTAT_STATE p = 2 := (c2.only _ _ (notLatch _ (by decide))).trans v1
  have f2 : (w.txDrop p 2).flag CAN_PORTCFG_BOFFREC p = s.flag CAN_PORTCFG_BOFFREC p := by
    unfold State.flag at *
    rw [c2.only _ _ (notLatch _ (by decide))]
    exact f1
  have k2 : (w.txDrop p 2).canPort p = { s.canPort p with queue := [] } := by
    unfold State.canPort
    rw [e2, k1]
    exact tabGet_tabSet_self _ _ _ _
  have c3 := c1.trans c2
  generalize w.txDrop p 2 = x at *
  rw [f2]
  have k3 : (x.modCan p (fun c => { c with waiting := s.flag CAN_PORTCFG_BOFFREC p })).canPort p = { s.canPort p with queue := [], waiting := s.flag CAN_PORTCFG_BOFFREC p } :=
    (tabGet_tabSet_self _ _ _ _).trans (by rw [show tabGet CanPort.reset x.can p = x.canPort p from rfl, k2])
  have c4 := c3.same (u := x.modCan p (fun c => { c with waiting := s.flag CAN_PORTCFG_BOFFREC p })) rfl
  have v4 : (x.modCan p (fun c => { c with waiting := s.flag CAN_PORTCFG_BOFFREC p })).getF CAN_ERRSTAT_STATE p = 2 := (getF_same (s := x) rfl).trans v2
  generalize x.modCan p (fun c => { c with waiting := s.flag CAN_PORTCFG_BOFFREC p }) = y at *
  obtain ⟨a, r5, m, q, sc, w5, e5, -⟩ := State.report_does c4.ok 0x000B (y.seat * 8 + p) y.now 8 (y.seat * 8 + p)
  have k5 : (y.report 0x000B (y.seat * 8 + p) y.now 8 (y.seat * 8 + p)).canPort p = y.canPort p := by
    unfold State.canPort
    rw [e5]
  refine ⟨(a.only _ _ ?_).trans v4, by rw [k5, k3], by rw [k5, k3], by rw [k5, k3], by rw [k5, k3], (c4.trans a).mono (fun z hz => ?_)⟩
  · intro z hz
    simp only [reportFields, List.mem_cons, List.not_mem_nil, or_false] at hz
    rcases hz with rfl | rfl <;> exact key_ne_of_place hp (by show 0 < 65536; decide) (by decide)
  · simp only [List.mem_append, List.mem_cons, List.not_mem_nil, or_false, List.cons_append] at hz ⊢
    grind

/-- The ring entry of a received frame: the port's ring head and sequence number alone move in it. -/
theorem State.canRing_does {s : State} (h : s.RegsOk) (p : Nat) (f : CanFrame) :
    Chg s (s.canRing p f) (latchFields ++ [(CAN_CNT_RXLOST, p)]) ∧ (∃ hd sq, (s.canRing p f).canPort p = { s.canPort p with head := hd, seq := sq }) ∧
    ∃ r q a c, s.canRing p f = { s with regs := r, sq := q, pair := a, can := c } := by
  have none_ : Chg s s (latchFields ++ [(CAN_CNT_RXLOST, p)]) ∧ (∃ hd sq, s.canPort p = { s.canPort p with head := hd, seq := sq }) ∧
      ∃ r q a c, s = { s with regs := r, sq := q, pair := a, can := c } := ⟨(Chg.refl h).mono (by simp), ⟨_, _, rfl⟩, s.regs, s.sq, s.pair, s.can, rfl⟩
  unfold State.canRing
  split
  · exact none_
  · split
    · exact none_
    · dsimp only
      split
      · exact ⟨((Chg.refl h).bump CAN_CNT_RXLOST p 1).mono (by simp), ⟨_, _, rfl⟩, _, s.sq, s.pair, s.can, rfl⟩
      · generalize rxEntry f (s.canPort p).seq = bs
        have put : ∀ w : State, w.can = s.can → Chg s w latchFields → (∃ r q a, w = { s with regs := r, sq := q, pair := a }) →
            let t := w.modCan p (fun c => { c with head := (c.head + 1) % 65536, seq := (c.seq + 1) % 2 ^ 32 })
            Chg s t (latchFields ++ [(CAN_CNT_RXLOST, p)]) ∧ (∃ hd sq, t.canPort p = { s.canPort p with head := hd, seq := sq }) ∧ ∃ r q a c, t = { s with regs := r, sq := q, pair := a, can := c } := by
          intro w hw cw ⟨r, q, a, e⟩
          dsimp only
          have cx := cw.mono (m := latchFields ++ [(CAN_CNT_RXLOST, p)]) (fun x hx => List.mem_append_left _ hx)
          refine ⟨cx.same rfl, ⟨((s.canPort p).head + 1) % 65536, ((s.canPort p).seq + 1) % 2 ^ 32, ?_⟩, r, q, a, _, by rw [e]; rfl⟩
          exact (tabGet_tabSet_self _ _ _ _).trans (by rw [hw]; rfl)
        unfold State.ringPut
        split
        · next a _ =>
          unfold State.ingest State.byEngines
          split
          · next rr _ =>
            obtain ⟨c, r, e⟩ := State.latchRefusal_does h rr.1 rr.2 (decide (AccKind.wr = .wr))
            exact ⟨c.mono (fun x hx => List.mem_append_left _ hx), ⟨_, _, by rw [e]; rfl⟩, r, s.sq, s.pair, s.can, e⟩
          · have sw : ∃ q a', s.seatWrite (a + (s.canPort p).head % 512 * 96) bs = { s with sq := q, pair := a' } := by
              unfold State.seatWrite
              dsimp only
              split
              · exact ⟨_, s.pair, rfl⟩
              · exact ⟨_, _, rfl⟩
            obtain ⟨q, a', e⟩ := sw
            dsimp only
            rw [e]
            exact put _ rfl (((Chg.refl h).mono (m := latchFields) (by simp)).same rfl) ⟨s.regs, q, a', rfl⟩
        · exact put s rfl ((Chg.refl h).mono (by simp)) ⟨s.regs, s.sq, s.pair, rfl⟩

/-- A channel shown busy or not. -/
theorem State.movBusy_does {s : State} (h : s.RegsOk) {c : Nat} (hc : c < 65536) (b : Bool) :
    (s.movBusy c b).flag IMV_CHSTAT_BUSY c = b ∧ Chg s (s.movBusy c b) [(IMV_BUSY0_MAP, 0), (IMV_BUSY1_MAP, 0), (IMV_CHSTAT_BUSY, c)] ∧
    ∃ r, s.movBusy c b = { s with regs := r } := by
  unfold State.movBusy
  dsimp only
  have c1 := (Chg.refl h).setB IMV_CHSTAT_BUSY b c
  have v1 : (s.setB IMV_CHSTAT_BUSY b c).flag IMV_CHSTAT_BUSY c = b := flag_setB_self h _ rfl
  have e1 : ∃ r, s.setB IMV_CHSTAT_BUSY b c = { s with regs := r } := ⟨_, rfl⟩
  generalize s.setB IMV_CHSTAT_BUSY b c = u at *
  obtain ⟨r, rfl⟩ := e1
  split
  · exact ⟨(flag_setF_ne c1.ok (key_ne_of_place hc (by decide) (by decide))).trans v1, (c1.setF IMV_BUSY0_MAP _ 0).mono (by simp), _, rfl⟩
  · exact ⟨(flag_setF_ne c1.ok (key_ne_of_place hc (by decide) (by decide))).trans v1, (c1.setF IMV_BUSY1_MAP _ 0).mono (by simp), _, rfl⟩

/-- The registers that the end of a descriptor shows. -/
def endFields (c : Nat) : List (Fld × Nat) := [(IMV_BUSY0_MAP, 0), (IMV_BUSY1_MAP, 0), (IMV_CHSTAT_BUSY, c), (IMV_CHSTAT_DONE, c), (IMV_CHSTAT_ERR, c)]

/-- A descriptor ends: not busy, done, with its result, and forgotten. -/
theorem State.movEnd_does {s : State} (h : s.RegsOk) {c : Nat} (hc : c < 65536) {e : Nat} (he : e < 8) :
    (s.movEnd c e).flag IMV_CHSTAT_BUSY c = false ∧ (s.movEnd c e).flag IMV_CHSTAT_DONE c = true ∧ (s.movEnd c e).getF IMV_CHSTAT_ERR c = e ∧
    Chg s (s.movEnd c e) (endFields c) ∧ ∃ r, s.movEnd c e = { s with regs := r, imv := tabDel s.imv c } := by
  obtain ⟨v, c1, r, e1⟩ := State.movBusy_does h hc false
  unfold State.movEnd
  dsimp only
  generalize s.movBusy c false = u at *
  have c2 := c1.setF IMV_CHSTAT_DONE 1 c
  have c3 := c2.setF IMV_CHSTAT_ERR e c
  refine ⟨(flag_setF_ne c2.ok (key_ne_of_place hc hc (by decide))).trans ((flag_setF_ne c1.ok (key_ne_of_place hc hc (by decide))).trans v),
    (flag_setF_ne c2.ok (key_ne_of_place hc hc (by decide))).trans (flag_setB_self c1.ok true rfl), (getF_setF_self _ _ _ _ c2.ok).trans (Nat.mod_eq_of_lt he),
    (c3.mono (m := endFields c) (by simp [endFields])).same rfl, (((u.setF IMV_CHSTAT_DONE 1 c).setF IMV_CHSTAT_ERR e c)).regs, ?_⟩
  rw [e1]
  rfl

end Sys2Proof.Machine
end

