-- ==== Sys2Proof/Laws/Cycle.lean ====
section
/-! SUPPORT. What the release of a task does, and its watchdog stop. -/
namespace Sys2Proof.Machine

/-- A register that is neither STATE nor LATE of a released task may be put. -/
theorem Released.setF {t g a k : Nat} {s : State} (h : Released t g a k s) (f : Fld) (v ix : Nat)
    (h1 : SCH_TASKSTAT_STATE.key t ≠ f.key ix) (h2 : SCH_TASKSTAT_LATE.key t ≠ f.key ix) : Released t g a k (s.setF f v ix) :=
  ⟨h.1, (getF_setF_ne _ _ h.2.2.2 h1).trans h.2.1, (getF_setF_ne _ _ h.2.2.2 h2).trans h.2.2.1, regs_setF_rising _ _ _ _ h.2.2.2⟩

/-- The account of a task may change. -/
theorem Released.modTask {t g a k : Nat} {s : State} (h : Released t g a k s) (n : Nat) (f : TaskRt → TaskRt) : Released t g a k (s.modTask n f) :=
  ⟨h.1, h.2.1, h.2.2.1, h.2.2.2⟩

/-- The release of a task of the configuration. -/
theorem State.release_does {s : State} (h : s.RegsOk) {t : Nat} (ht : t < 256) {d : TaskDef} (hd : s.taskDef? t = some d) (grid acts : Nat) :
    Released t grid acts s.tick (s.release t grid acts) := by
  have dn : d.no.val = t := by
    have := List.find?_some hd
    simpa using this
  have tl : t < 65536 := by omega
  have tail : ∀ (u : State) (r : Run), Keeps s u → r.task = t → r.ctx = .real → r.grid = grid → r.rel = s.tick → r.acts = acts → r.st = .ready →
      Released t grid acts s.tick (State.specRelease (((u.putRun r).setF SCH_TASKSTAT_STATE 2 t).setF SCH_TASKSTAT_LATE 0 t) t) := by
    intro u r k h1 h2 h3 h4 h5 h6
    have uo : (u.putRun r).RegsOk := k.regs h
    have v0 := regs_setF_rising (u.putRun r) SCH_TASKSTAT_STATE 2 t uo
    have v1 := regs_setF_rising ((u.putRun r).setF SCH_TASKSTAT_STATE 2 t) SCH_TASKSTAT_LATE 0 t v0
    have g1 : (((u.putRun r).setF SCH_TASKSTAT_STATE 2 t).setF SCH_TASKSTAT_LATE 0 t).getF SCH_TASKSTAT_STATE t = 2 :=
      (getF_setF_ne _ _ v0 (key_ne_of_place tl tl (by decide))).trans (getF_setF_self _ _ _ _ uo)
    have g2 : (((u.putRun r).setF SCH_TASKSTAT_STATE 2 t).setF SCH_TASKSTAT_LATE 0 t).getF SCH_TASKSTAT_LATE t = 0 :=
      (getF_setF_self _ _ _ _ v0)
    have g3 : (((u.putRun r).setF SCH_TASKSTAT_STATE 2 t).setF SCH_TASKSTAT_LATE 0 t).run? .real t = some r := by
      show tabGet? (tabSet _ _ _) _ = _
      rw [h1, h2]
      exact tabGet?_tabSet_self _ _ _
    generalize ((u.putRun r).setF SCH_TASKSTAT_STATE 2 t).setF SCH_TASKSTAT_LATE 0 t = v at *
    have base : Released t grid acts s.tick v := ⟨⟨r, g3, h3, h4, h5, h6⟩, g1, g2, v1⟩
    unfold State.specRelease
    dsimp only
    split
    · obtain ⟨-, c, q, e⟩ := State.specState_does v1 tl (st := 5) (by decide)
      refine ⟨?_, ?_, ?_, c.ok⟩
      · rw [e]; exact base.1
      · rw [c.only _ _ (by
          intro x hx; simp only [List.mem_cons, List.not_mem_nil, or_false] at hx
          rcases hx with rfl | rfl <;> dsimp only <;> exact key_ne_of_place tl (by first | exact tl | decide) (by decide))]
        exact g1
      · rw [c.only _ _ (by
          intro x hx; simp only [List.mem_cons, List.not_mem_nil, or_false] at hx
          rcases hx with rfl | rfl <;> dsimp only <;> exact key_ne_of_place tl (by first | exact tl | decide) (by decide))]
        exact g2
    · split
      · exact (base.modTask _ _).setF _ _ _ (key_ne_of_place tl tl (by decide)) (key_ne_of_place tl tl (by decide))
      · exact base
  unfold State.release
  rw [hd]
  dsimp -zeta only
  extract_lets s1 s2 c img s3 s4 bs sr r s5 s6
  have k1 : Keeps s s1 := State.applyRelease_keeps (Keeps.refl s)
  have k2 : Keeps s s2 := by
    show Keeps s (if _ then _ else _)
    exact Keeps.ite (State.modTask_keeps (State.driveOwn_keeps k1)) k1
  have k3 : Keeps s s3 := Keeps2.out (State.captureAll_keeps k2)
  have k4 : Keeps s s4 := Keeps.foldl k3 (fun b f kb => by
    split
    · exact State.fnCaptured_keeps kb
    · exact kb)
  have k5 : Keeps s s5 := State.modTask_keeps k4
  have e : r = { s4.atTick (s4.newRun d .real grid s4.tick (ovlLay img (batchWrites bs)) (bs.map Batch.id)) with acts := acts } := by rfl
  clear_value s5 r bs s4
  have q := tail s5 r k5
  rw [e] at q
  have fin := q dn rfl rfl k4.tick rfl rfl
  rw [← e] at fin
  exact fin

/-- A report leaves the tasks' accounts alone. -/
theorem State.report_tasks (s : State) (kind obj stamp rk rn : Nat) : (s.report kind obj stamp rk rn).sched.tasks = s.sched.tasks := by
  have ce : ∀ u : State, (u.callErrorTask stamp).sched.tasks = u.sched.tasks := by
    intro u; unfold State.callErrorTask; split <;> rfl
  have sw : ∀ (u : State) (w : Win), (u.showWin w).sched.tasks = u.sched.tasks := by
    intro u w; unfold State.showWin; dsimp only; split <;> rfl
  have ri : ∀ (u : State) a b, (u.reportIn a b stamp rk rn).sched.tasks = u.sched.tasks := by
    intro u a b
    unfold State.reportIn
    split
    · exact sw _ _
    · exact (ce _).trans (sw _ _)
  unfold State.report
  dsimp only
  split
  · exact ri _ _ _
  · exact ri _ _ _

/-- A watchdog stop puts the task into WDSTOP and shows WDOG. -/
theorem State.wdStop_does {s : State} (h : s.RegsOk) {k : Nat} (hk : k < 256) :
    (s.wdStop k).getF SCH_TASKSTAT_STATE k = 3 ∧ (s.wdStop k).getF SCH_TASKSTAT_WDOG k = 1 ∧ (s.wdStop k).getF SCH_TASKSTAT_CATCHUP k = 0 ∧ (s.wdStop k).RegsOk := by
  refine ⟨?_, ?_, ?_, (State.wdStop_keeps (Keeps.refl s)).regs h⟩ <;>
  · unfold State.wdStop
    have ko : ∀ g rel base, ((s.leaveOld.endReal k).safeCommit k g rel base).RegsOk := fun g rel base =>
      (State.safeCommit_keeps (State.endReal_keeps (State.leaveOld_keeps (Keeps.refl s)))).regs h
    dsimp only
    generalize hv : (s.leaveOld.endReal k).safeCommit k _ _ _ = v
    have vo : v.RegsOk := hv ▸ ko _ _ _
    have kl : k < 65536 := by omega
    have c1 := (Chg.refl vo).setF SCH_TASKSTAT_STATE 3 k
    have c2 := c1.setF SCH_TASKSTAT_WDOG 1 k
    have c3 := c2.setF SCH_TASKSTAT_CATCHUP 0 k
    have n : ∀ f g : Fld, f.off * 32 + f.lo ≠ g.off * 32 + g.lo → f.key k ≠ g.key k := fun f g hfg => key_ne_of_place kl kl hfg
    have r1 : (((v.setF SCH_TASKSTAT_STATE 3 k).setF SCH_TASKSTAT_WDOG 1 k).setF SCH_TASKSTAT_CATCHUP 0 k |>.setF SCH_TASKSTAT_LAGTICKS 0 k).getF SCH_TASKSTAT_STATE k = 3 := by
      rw [getF_setF_ne _ _ c3.ok (n _ _ (by decide)), getF_setF_ne _ _ c2.ok (n _ _ (by decide)), getF_setF_ne _ _ c1.ok (n _ _ (by decide)), getF_setF_self _ _ _ _ vo]; rfl
    have r2 : (((v.setF SCH_TASKSTAT_STATE 3 k).setF SCH_TASKSTAT_WDOG 1 k).setF SCH_TASKSTAT_CATCHUP 0 k |>.setF SCH_TASKSTAT_LAGTICKS 0 k).getF SCH_TASKSTAT_WDOG k = 1 := by
      rw [getF_setF_ne _ _ c3.ok (n _ _ (by decide)), getF_setF_ne _ _ c2.ok (n _ _ (by decide)), getF_setF_self _ _ _ _ c1.ok]; rfl
    have r3 : (((v.setF SCH_TASKSTAT_STATE 3 k).setF SCH_TASKSTAT_WDOG 1 k).setF SCH_TASKSTAT_CATCHUP 0 k |>.setF SCH_TASKSTAT_LAGTICKS 0 k).getF SCH_TASKSTAT_CATCHUP k = 0 := by
      rw [getF_setF_ne _ _ c3.ok (n _ _ (by decide)), getF_setF_self _ _ _ _ c2.ok]; rfl
    have c4 := c3.setF SCH_TASKSTAT_LAGTICKS 0 k
    generalize (((v.setF SCH_TASKSTAT_STATE 3 k).setF SCH_TASKSTAT_WDOG 1 k).setF SCH_TASKSTAT_CATCHUP 0 k |>.setF SCH_TASKSTAT_LAGTICKS 0 k) = w at *
    have c5 := (Chg.refl c4.ok).same (u := w.modTask k (fun x => { x with owed := none, stopping := false })) rfl
    generalize w.modTask k (fun x => { x with owed := none, stopping := false }) = y at *
    have hd : Chg w (if (decide (y.kind k = 1) || decide (y.kind k = 2)) = true then y.dropActs k else y) [(SCH_TASKSTAT_PENDING, k), (SCH_TASKCNT_SKIPCNT, k)] := by
      split
      · exact (((c5.same (u := y.modTask k (fun x => { x with acts := 0 })) rfl).bump SCH_TASKCNT_SKIPCNT k _).setF SCH_TASKSTAT_PENDING 0 k).mono (by simp)
      · exact c5.mono (by simp)
    generalize (if (decide (y.kind k = 1) || decide (y.kind k = 2)) = true then y.dropActs k else y) = z at *
    have he : Chg w (if z.errorTask = some k then z else z.callErrorTask z.now) [(SCH_TASKSTAT_PENDING, k), (SCH_TASKCNT_SKIPCNT, k)] := by
      split
      · exact hd
      · refine hd.same ?_
        unfold State.callErrorTask
        split <;> rfl
    refine (he.only _ _ ?_).trans (by assumption)
    intro x hx
    simp only [List.mem_cons, List.not_mem_nil, or_false] at hx
    rcases hx with rfl | rfl <;> dsimp only <;> exact key_ne_of_place kl kl (by decide)

/-- What the end of a cycle released before an activation changes: the task's waiting instants, and the lock of a task that is no more. -/
theorem State.endOld_does {s : State} (h : s.RegsOk) (t : Nat) :
    (s.endOld t).sched.runs = s.sched.runs ∧ Chg s (s.endOld t) [(SCH_TASKCFG_SAFETY, t)] := by
  have c0 : Chg s s [(SCH_TASKCFG_SAFETY, t)] := (Chg.refl h).mono (by simp)
  unfold State.endOld
  split
  · exact ⟨rfl, c0⟩
  · split
    · exact ⟨rfl, c0⟩
    · dsimp only
      have one : ∀ w : State, w = (if tabGet (s.getF SCH_TASKCFG_PERIOD t, s.getF SCH_TASKPHASE_PHASE t) s.olc.oldGrid t = (s.getF SCH_TASKCFG_PERIOD t, s.getF SCH_TASKPHASE_PHASE t)
          then s else s.modTask t (fun x => { x with owed := none })) → w.sched.runs = s.sched.runs ∧ w.regs = s.regs := by
        intro w e; rw [e]; split <;> exact ⟨rfl, rfl⟩
      generalize (if tabGet (s.getF SCH_TASKCFG_PERIOD t, s.getF SCH_TASKPHASE_PHASE t) s.olc.oldGrid t = (s.getF SCH_TASKCFG_PERIOD t, s.getF SCH_TASKPHASE_PHASE t)
          then s else s.modTask t (fun x => { x with owed := none })) = w at one
      obtain ⟨e1, e2⟩ := one w rfl
      split
      · exact ⟨e1, c0.same e2⟩
      · exact ⟨e1, (((Chg.refl h).same e2).same (u := w.modTask t (fun x => { x with stopping := true })) rfl).setF _ _ _⟩

/-- A cycle's end: its execution is no more, its pending exception is cleared, and the task waits for its next release or stops. -/
theorem State.endCycle_does {s : State} (h : s.RegsOk) (hr : tabRising s.sched.runs = true) {t : Nat} (ht : t < 65536) (ok : Bool) :
    (s.endCycle t ok).run? .real t = none ∧ (s.endCycle t ok).getF SCH_TASKXCP_PEND t = 0 ∧ (s.endCycle t ok).getF SCH_TASKSTAT_LATE t = 0 ∧
    (s.endCycle t ok).getF SCH_TASKSTAT_STATE t = (if ((s.endOld t).taskRt t).stopping then 0 else 1) ∧
    Chg s (s.endCycle t ok) [(SCH_TASKSTAT_STATE, t), (SCH_TASKXCP_PEND, t), (SCH_TASKSTAT_LATE, t), (SCH_TASKCFG_SAFETY, t)] := by
  obtain ⟨e, c⟩ := State.endOld_does h t
  unfold State.endCycle
  dsimp only
  generalize s.endOld t = u at *
  have c0 := c.same (u := u.delRun .real t) rfl
  have c1 := (c0.setF SCH_TASKSTAT_LATE 0 t).setF SCH_TASKXCP_PEND 0 t
  have c2 := c1.setF SCH_TASKSTAT_STATE (if (u.taskRt t).stopping then 0 else 1) t
  refine ⟨?_, ?_, ?_, ?_, c2.same rfl⟩
  · show tabGet? (tabDel u.sched.runs (Ctx.real.key t)) (Ctx.real.key t) = none
    rw [e]
    exact tabGet?_tabDel_self _ _ hr
  · exact (getF_same rfl).trans ((getF_setF_ne _ _ c1.ok (key_ne_of_place ht ht (by decide))).trans (getF_setF_self _ _ _ _ (c0.setF SCH_TASKSTAT_LATE 0 t).ok))
  · exact (getF_same rfl).trans ((getF_setF_ne _ _ c1.ok (key_ne_of_place ht ht (by decide))).trans
      ((getF_setF_ne _ _ (c0.setF SCH_TASKSTAT_LATE 0 t).ok (key_ne_of_place ht ht (by decide))).trans (getF_setF_self _ _ _ _ c0.ok)))
  · refine (getF_same rfl).trans ((getF_setF_self _ _ _ _ c1.ok).trans ?_)
    split <;> rfl

end Sys2Proof.Machine
end

