-- ==== Sys2Proof/Laws/Flags.lean ====
section
/-! SUPPORT. What the results of the word instructions are as numbers, and which flags they leave alone. -/
namespace Sys2Proof.Machine

/-- Writing one flag leaves every other one as it is. -/
theorem putBit_ne (fl : BitVec 8) {j k : Nat} (b : Bool) (hk : k ≠ j) : (putBit fl j b).getLsbD k = fl.getLsbD k := by
  by_cases h8 : k < 8
  swap
  · rw [BitVec.getLsbD_of_ge _ _ (by omega), BitVec.getLsbD_of_ge _ _ (by omega)]
  have e : ∀ x : BitVec 8, x.getLsbD k = decide (x.toNat / 2 ^ k % 2 = 1) := by
    intro x; rw [BitVec.getLsbD, Nat.testBit_eq_decide_div_mod_eq]
  unfold putBit bitOf
  rw [BitVec.getLsbD_ofNat, Nat.testBit_eq_decide_div_mod_eq, e fl]
  simp only [h8, decide_true, Bool.true_and]
  have hfl := fl.isLt
  generalize fl.toNat = n at *
  by_cases hj : j < k
  · obtain ⟨t, rfl⟩ : ∃ t, k = j + 1 + t := ⟨k - j - 1, by omega⟩
    simp only [Nat.pow_add, ← Nat.div_div_eq_div_mul]
    have hp : 0 < 2 ^ j := Nat.two_pow_pos j
    have key : (if decide (n / 2 ^ j % 2 = 1) = true then (if b = true then n else n - 2 ^ j) else if b = true then n + 2 ^ j else n) / 2 ^ j / 2 ^ 1
        = n / 2 ^ j / 2 ^ 1 := by
      split
      · next h1 =>
        simp only [decide_eq_true_eq] at h1
        split
        · rfl
        · have : (n - 2 ^ j) / 2 ^ j = n / 2 ^ j - 1 := by
            have := Nat.sub_mul_div n (2 ^ j) 1; simpa using this
          rw [this]; generalize n / 2 ^ j = q at *; omega
      · next h1 =>
        simp only [decide_eq_true_eq] at h1
        split
        · rw [Nat.add_div_right _ hp]; generalize n / 2 ^ j = q at *; omega
        · rfl
    rw [key]
  · have hjk : k < j := by omega
    have key : (if decide (n / 2 ^ j % 2 = 1) = true then (if b = true then n else n - 2 ^ j) else if b = true then n + 2 ^ j else n) / 2 ^ k % 2
        = n / 2 ^ k % 2 := by
      obtain ⟨t, rfl⟩ : ∃ t, j = k + 1 + t := ⟨j - k - 1, by omega⟩
      have e2 : 2 ^ (k + 1 + t) = 2 ^ k * (2 * 2 ^ t) := by rw [Nat.pow_add, Nat.pow_succ]; ring
      rw [e2]
      have hp : 0 < 2 ^ k := Nat.two_pow_pos k
      split
      · next h1 =>
        simp only [decide_eq_true_eq] at h1
        split
        · rfl
        · have : (n - 2 ^ k * (2 * 2 ^ t)) / 2 ^ k = n / 2 ^ k - 2 * 2 ^ t := by
            exact Nat.sub_mul_div n (2 ^ k) (2 * 2 ^ t)
          rw [this]
          have hle : 2 ^ k * (2 * 2 ^ t) ≤ n := by
            by_contra hc
            rw [Nat.div_eq_of_lt (by omega)] at h1; omega
          have : 2 * 2 ^ t ≤ n / 2 ^ k := by
            rw [Nat.le_div_iff_mul_le hp]; linarith [Nat.mul_comm (2 ^ k) (2 * 2 ^ t)]
          omega
      · next h1 =>
        split
        · rw [Nat.add_mul_div_left _ _ hp]; omega
        · rfl
    rw [key]

/-- A flag set is set. -/
theorem putBit_set (fl : BitVec 8) {k : Nat} (hk : k < 8) : (putBit fl k true).getLsbD k = true := by
  unfold putBit bitOf
  rw [BitVec.getLsbD_ofNat, Nat.testBit_eq_decide_div_mod_eq]
  simp only [hk, decide_true, Bool.true_and, if_true]
  generalize fl.toNat = n
  have hp : 0 < 2 ^ k := Nat.two_pow_pos k
  split
  · assumption
  · next h1 =>
    simp only [decide_eq_true_eq] at h1
    rw [Nat.add_div_right _ hp]
    generalize n / 2 ^ k = q at *
    simp only [decide_eq_true_eq]
    omega

/-- A sticky flag that is set stays set. -/
theorem WordRes.flags_sticky (w : WordRes) (fl : BitVec 8) {k : Nat} (h5 : 5 ≤ k) (h8 : k < 8) (h : fl.getLsbD k = true) :
    (w.flags fl).getLsbD k = true := by
  have set : ∀ (c : Bool) (x : BitVec 8) (j : Nat), x.getLsbD k = true → (if c then putBit x j true else x).getLsbD k = true := by
    intro c x j hx
    cases c with
    | false => exact hx
    | true =>
      by_cases e : k = j
      · subst e; exact putBit_set x h8
      · exact (putBit_ne x true e).trans hx
  have opt : ∀ (o : Option Bool) (x : BitVec 8) (j : Nat), j < 5 → x.getLsbD k = true → (putBit? x j o).getLsbD k = true := by
    intro o x j hj hx
    cases o with
    | none => exact hx
    | some b => exact (putBit_ne x b (by omega)).trans hx
  unfold WordRes.flags
  dsimp only
  refine set w.sd _ 7 (set w.si _ 6 ?_)
  have := set (decide (w.v = some true)) _ 5 (opt w.u _ 4 (by omega) (opt w.v _ 3 (by omega) (opt w.c _ 2 (by omega)
    (opt w.n _ 1 (by omega) (opt w.z fl 0 (by omega) h)))))
  simpa using this

/-- Writing a flag that an operation may not write. -/
theorem putBitO_ne (fl : BitVec 8) {j k : Nat} (o : Option Bool) (hk : k ≠ j ∨ o = none) : (putBit? fl j o).getLsbD k = fl.getLsbD k := by
  cases o with
  | none => rfl
  | some b => exact putBit_ne fl b (by rcases hk with h | h; exacts [h, nomatch h])

/-- Does an operation write flag k of Table 3-2? -/
def WordRes.writes (w : WordRes) (k : Nat) : Bool :=
  (k = 0 && w.z.isSome) || (k = 1 && w.n.isSome) || (k = 2 && w.c.isSome) || (k = 3 && w.v.isSome) || (k = 4 && w.u.isSome) ||
  (k = 5 && w.v = some true) || (k = 6 && w.si) || (k = 7 && w.sd)

/-- A flag that an operation does not write keeps its value. -/
theorem WordRes.flags_keep (w : WordRes) (fl : BitVec 8) (k : Nat) (h : w.writes k = false) : (w.flags fl).getLsbD k = fl.getLsbD k := by
  unfold WordRes.writes at h
  simp only [Bool.or_eq_false_iff, Bool.and_eq_false_iff, decide_eq_false_iff_not, Option.isSome_eq_false_iff, Option.isNone_iff_eq_none] at h
  obtain ⟨⟨⟨⟨⟨⟨⟨h0, h1⟩, h2⟩, h3⟩, h4⟩, h5⟩, h6⟩, h7⟩ := h
  unfold WordRes.flags
  dsimp only
  have e4 := (putBitO_ne (putBit? (putBit? (putBit? (putBit? fl 0 w.z) 1 w.n) 2 w.c) 3 w.v) w.u h4).trans
    ((putBitO_ne _ w.v h3).trans ((putBitO_ne _ w.c h2).trans ((putBitO_ne _ w.n h1).trans (putBitO_ne _ w.z h0))))
  generalize putBit? (putBit? (putBit? (putBit? (putBit? fl 0 w.z) 1 w.n) 2 w.c) 3 w.v) 4 w.u = x at *
  have e5 : (if w.v = some true then putBit x 5 true else x).getLsbD k = fl.getLsbD k := by
    split
    · next hv => rw [putBit_ne _ _ (by rcases h5 with h | h; exacts [h, absurd hv h])]; exact e4
    · exact e4
  generalize (if w.v = some true then putBit x 5 true else x) = y at *
  have e6 : (if w.si then putBit y 6 true else y).getLsbD k = fl.getLsbD k := by
    split
    · next hv => rw [putBit_ne _ _ (by rcases h6 with h | h; exacts [h, absurd hv (by simp [h])])]; exact e5
    · exact e5
  generalize (if w.si then putBit y 6 true else y) = z at *
  split
  · next hv => rw [putBit_ne _ _ (by rcases h7 with h | h; exacts [h, absurd hv (by simp [h])])]; exact e6
  · exact e6

/-- The integer types and TIME: every type but BOOL and the floating-point ones. -/
theorem tyVal_spec (ty : Nat) (h : tySU ty = true ∨ ty = 11) (v : Nat) :
    tyMin ty ≤ tyVal ty v ∧ tyVal ty v ≤ tyMax ty ∧ (tyVal ty v - v) % (2 ^ tyWidth ty : Nat) = 0 := by
  have : ty = 1 ∨ ty = 2 ∨ ty = 3 ∨ ty = 4 ∨ ty = 5 ∨ ty = 6 ∨ ty = 7 ∨ ty = 8 ∨ ty = 11 := by
    rcases h with h | h
    · simp [tySU] at h; omega
    · omega
  rcases this with rfl | rfl | rfl | rfl | rfl | rfl | rfl | rfl | rfl <;>
    simp only [tyVal, tyMin, tyMax, tyWidth, tySize, tySigned, sgn, bitOf] <;> norm_num <;> (repeat' split) <;> omega

/-- The value of an integer narrowed to a type and extended. -/
theorem tyVal_tyWrap (ty : Nat) (h : tySU ty = true ∨ ty = 11) (i : Int) : (tyVal ty (tyWrap ty i) - i) % (2 ^ tyWidth ty : Nat) = 0 := by
  have : ty = 1 ∨ ty = 2 ∨ ty = 3 ∨ ty = 4 ∨ ty = 5 ∨ ty = 6 ∨ ty = 7 ∨ ty = 8 ∨ ty = 11 := by
    rcases h with h | h
    · simp [tySU] at h; omega
    · omega
  have e := (tyVal_spec ty h (tyWrap ty i)).2.2
  have e2 : ((tyWrap ty i : Int) - i) % (2 ^ tyWidth ty : Nat) = 0 := by
    rcases this with rfl | rfl | rfl | rfl | rfl | rfl | rfl | rfl | rfl <;>
      simp only [tyWrap, ext, unsgn, tyWidth, tySize, tySigned, sgn, bitOf] <;> norm_num <;> (repeat' split) <;> omega
  generalize tyVal ty (tyWrap ty i) = x at *
  generalize (tyWrap ty i : Int) = y at *
  rw [show x - i = (x - y) + (y - i) by ring, Int.add_emod, e, e2]
  simp

/-- A value in range is kept. -/
theorem tyVal_tyWrap_in (ty : Nat) (h : tySU ty = true ∨ ty = 11) (i : Int) (h1 : tyMin ty ≤ i) (h2 : i ≤ tyMax ty) : tyVal ty (tyWrap ty i) = i := by
  have e := tyVal_tyWrap ty h i
  have s := tyVal_spec ty h (tyWrap ty i)
  have : ty = 1 ∨ ty = 2 ∨ ty = 3 ∨ ty = 4 ∨ ty = 5 ∨ ty = 6 ∨ ty = 7 ∨ ty = 8 ∨ ty = 11 := by
    rcases h with h | h
    · simp [tySU] at h; omega
    · omega
  generalize tyVal ty (tyWrap ty i) = x at *
  rcases this with rfl | rfl | rfl | rfl | rfl | rfl | rfl | rfl | rfl <;>
    simp [tyMin, tyMax, tyWidth, tySize, tySigned] at h1 h2 s e <;> omega

end Sys2Proof.Machine
end

