-- ==== Sys2Proof/Laws/Flx.lean ====
section
/-! SUPPORT. An instruction of a stream: from where it stands, by what its meaning answers, to the state after it. -/
namespace Sys2Proof.Machine

/-- The fetch leaves the stream as it is. -/
@[simp] theorem met_st (s : State) (e : Env) (r : Run) (st : StreamRt) : (met s e r st).st = st := rfl
/-- The fetch leaves the run as it is. -/
@[simp] theorem met_r (s : State) (e : Env) (r : Run) (st : StreamRt) : (met s e r st).r = r := rfl

/-- Nothing read. -/
theorem Reads.refl (m : Mx) : Reads m m := ⟨rfl, ⟨_, _, _, _, rfl⟩, rfl, rfl, rfl⟩

/-- One read after another. -/
theorem Reads.trans {a b c : Mx} (h : Reads a b) (k : Reads b c) : Reads a c := by
  obtain ⟨x, y, z, w, hr⟩ := h.run
  obtain ⟨x', y', z', w', kr⟩ := k.run
  exact ⟨k.st.trans h.st, ⟨x', y', z', w', by rw [kr, hr]⟩, k.mem.trans h.mem, k.code.trans h.code, k.sched.trans h.sched⟩

/-- A part of an instruction that, where it ends, has only read. -/
def ROk {α : Type} (m : Mx) (x : XR α) : Prop := ∀ v m', x = .ok v m' → Reads m m'

/-- One such part after another. -/
theorem ROk.bind {α β : Type} {m : Mx} {x : XR α} {f : α → Mx → XR β} (h : ROk m x) (k : ∀ v n, Reads m n → ROk n (f v n)) :
    ROk m (x.bind f) := by
  intro v m' e
  cases x with
  | ok u n => exact (h u n rfl).trans (k u n (h u n rfl) v m' e)
  | xcp y n => cases e
/-- A part that ends at once. -/
theorem ROk.ok {α : Type} {m n : Mx} {v : α} (h : Reads m n) : ROk m (.ok v n : XR α) := by
  intro u m' e
  cases e
  exact h
/-- A part that raises an exception. -/
theorem ROk.xcp {α : Type} {m n : Mx} {x : Xcp} : ROk m (.xcp x n : XR α) := by intro u m' e; cases e
/-- The same, raised in place. -/
theorem ROk.raise {α : Type} {m n : Mx} {a b c : Nat} : ROk m (raise n a b c : XR α) := by intro u m' e; cases e
/-- Either branch. -/
theorem ROk.ite {α : Type} {m : Mx} {x y : XR α} {c : Prop} [Decidable c] (hx : ROk m x) (hy : ROk m y) : ROk m (if c then x else y) := by
  split <;> assumption

/-- Recording a read touches the read set only. -/
theorem Mx.record_reads (c : Cx) (m : Mx) (a n : Nat) : Reads m (m.record c a n) := by
  induction n generalizing m a with
  | zero => exact Reads.refl m
  | succ n ih =>
    unfold Mx.record
    refine Reads.trans ?_ (ih _ _)
    split
    · exact Reads.refl m
    · exact ⟨rfl, ⟨_, _, _, _, rfl⟩, rfl, rfl, rfl⟩

/-- Noting a read touches the read set, and may abandon the run. -/
theorem Mx.note_reads (c : Cx) (m : Mx) (a n : Nat) : Reads m (m.note c a n) := by
  unfold Mx.note
  split
  · dsimp only
    split
    · have h := Mx.record_reads c m a n
      obtain ⟨x, y, z, w, hr⟩ := h.run
      exact ⟨h.st, ⟨x, y, true, w, by dsimp only; rw [hr]⟩, h.mem, h.code, h.sched⟩
    · exact Mx.record_reads c m a n
  · exact Reads.refl m

/-- An access that passes its check changes nothing. -/
theorem Mx.check_reads (c : Cx) (m : Mx) (k : AccKind) (a n : Nat) : ROk m (m.check c k a n) := by
  unfold Mx.check
  generalize m.s.laneRefuses c.e.newRules c.t k a n = o
  cases o with
  | none => exact ROk.ok (Reads.refl m)
  | some b => exact ROk.xcp

/-- The bytes of the Square, the program stores, poison aside, the scheduler, the Roundabout and the time are as they were. -/
structure SameS (s t : State) : Prop where
  mem : t.sq.mem = s.sq.mem
  code : t.sq.code = s.sq.code
  sched : t.sched.bare = s.sched.bare
  host : t.host = s.host
  now : t.now = s.now

/-- Nothing done. -/
theorem SameS.refl (s : State) : SameS s s := ⟨rfl, rfl, rfl, rfl, rfl⟩
/-- One after another. -/
theorem SameS.trans {a b c : State} (h : SameS a b) (k : SameS b c) : SameS a c := ⟨k.mem.trans h.mem, k.code.trans h.code, k.sched.trans h.sched, k.host.trans h.host, k.now.trans h.now⟩
/-- An operation repeated over a list. -/
theorem SameS.foldl {β : Type} {f : State → β → State} (l : List β) (s : State) (hf : ∀ s x, SameS s (f s x)) : SameS s (l.foldl f s) := by
  induction l generalizing s with
  | nil => exact .refl s
  | cons x l ih => exact (hf s x).trans (ih _)

/-- A row that fails. -/
theorem State.spareRow_same (s : State) (p : Nat) : SameS s (s.spareRow p) := by
  unfold State.spareRow State.evHw
  dsimp only
  repeat' split
  all_goals exact ⟨by simp, by simp, by simp, by simp, by simp⟩

/-- A corrected error is latched and counted. -/
theorem State.eccCorrected_same (s : State) (a : Nat) : SameS s (s.eccCorrected a) := by
  unfold State.eccCorrected
  dsimp only
  split
  · refine SameS.trans ?_ (State.spareRow_same _ _)
    exact ⟨by simp [State.latchEcc], by simp [State.latchEcc], by simp [State.latchEcc], by simp [State.latchEcc], by simp [State.latchEcc]⟩
  · exact ⟨by simp [State.latchEcc], by simp [State.latchEcc], by simp [State.latchEcc], by simp [State.latchEcc], by simp [State.latchEcc]⟩

/-- Poison marked in the frame that a CSN shows. -/
theorem State.poisonUnit_same (s : State) (u n : Nat) : SameS s (s.poisonUnit u n) := by
  refine ⟨rfl, rfl, ?_, rfl, rfl⟩
  unfold State.poisonUnit Sched.bare
  dsimp only
  rw [List.map_map]
  rfl

/-- A record of the module's hardware. -/
theorem State.evHw_same (s : State) (n : Nat) (l : List Nat) : SameS s (s.evHw n l) := by
  exact ⟨by simp [State.evHw], by simp [State.evHw], by simp [State.evHw], by simp [State.evHw], by simp [State.evHw]⟩

/-- An error latched. -/
theorem State.latchEcc_same (s : State) (p : Nat) : SameS s (s.latchEcc p) := by
  exact ⟨by simp [State.latchEcc], by simp [State.latchEcc], by simp [State.latchEcc], by simp [State.latchEcc], by simp [State.latchEcc]⟩

/-- A counter. -/
theorem State.bump_same (s : State) (f : Fld) : SameS s (s.bump f) := by
  exact ⟨by simp, by simp, by simp, by simp, by simp⟩

/-- An uncorrectable error is counted, latched and marked. -/
theorem State.eccUncorrectable_same (s : State) (a n : Nat) : SameS s (s.eccUncorrectable a n) := by
  unfold State.eccUncorrectable
  dsimp only
  generalize s.physAddr a n = p
  have h1 := (State.bump_same s SQR_ECCSTAT_UECNT).trans (State.latchEcc_same _ p)
  generalize (s.bump SQR_ECCSTAT_UECNT).latchEcc p = t at h1 ⊢
  have h2 := h1.trans (State.poisonUnit_same t (unitOf a) n)
  generalize t.poisonUnit (unitOf a) n = u at h2 ⊢
  exact (h2.trans (State.evHw_same u _ _)).trans (State.spareRow_same _ _)

/-- A unit's read. -/
theorem State.meetUnit_same (s : State) (n u : Nat) : SameS s (s.meetUnit n u) := by
  unfold State.meetUnit
  dsimp only
  split
  · exact .refl s
  · split
    · refine SameS.trans ?_ (State.eccCorrected_same _ _)
      exact ⟨rfl, rfl, rfl, rfl, rfl⟩
    · refine SameS.trans ?_ (State.eccUncorrectable_same _ _ _)
      exact ⟨rfl, rfl, rfl, rfl, rfl⟩

/-- A page-map lookup. -/
theorem State.lookMap_same (s : State) (p : Nat) : SameS s (s.lookMap p) := by
  unfold State.lookMap
  split
  · exact .refl s
  · split
    · exact ⟨rfl, rfl, rfl, rfl, rfl⟩
    · exact ⟨rfl, rfl, rfl, rfl, rfl⟩

/-- What a read finds leaves the bytes as they are. -/
theorem State.meet_same (s : State) (a n csn : Nat) : SameS s (s.meet a n csn) := by
  unfold State.meet
  split
  · exact .refl s
  · exact SameS.trans (SameS.foldl _ _ State.lookMap_same) (SameS.foldl _ _ (fun s u => State.meetUnit_same s csn u))

/-- So do the reads of a walk. -/
theorem State.walkMeet_same (s : State) (tag : Nat) : SameS s (s.walkMeet tag) := by
  unfold State.walkMeet
  dsimp only
  split
  · exact State.meet_same _ _ _ _
  · exact (State.meet_same _ _ _ _).trans (State.meet_same _ _ _ _)

/-- What a read meets only reads. -/
theorem Mx.meet_reads (m : Mx) (a n : Nat) : Reads m (m.meet a n) := by
  have h := State.meet_same m.s a n m.r.baseCsn
  exact ⟨rfl, ⟨_, _, _, _, rfl⟩, h.mem, h.code, h.sched⟩

/-- Loading bytes only reads. -/
theorem Mx.load_reads (c : Cx) (m : Mx) (a n : Nat) : ROk m (m.load c a n) := by
  unfold Mx.load
  dsimp only
  refine ROk.ite ROk.xcp (ROk.ok ?_)
  refine Reads.trans ?_ (Mx.note_reads _ _ _ _)
  split
  · exact Reads.refl m
  · exact Mx.meet_reads m a n

/-- Bytes of a resolved operand only read. -/
theorem Mx.fetch_reads (c : Cx) (m : Mx) (o : Opnd) (off n : Nat) : ROk m (m.fetch c o off n) := by
  unfold Mx.fetch
  cases o with
  | sq a => exact Mx.load_reads _ _ _ _
  | _ => exact ROk.ok (Reads.refl m)

/-- A lane. -/
theorem State.modLane_same (s : State) (l : Nat) (f : LaneRt → LaneRt) : SameS s (s.modLane l f) := by
  exact ⟨by simp [State.modLane], by simp [State.modLane], by simp [State.modLane], by simp [State.modLane], by simp [State.modLane]⟩

/-- A translation leaves bytes and scheduler as they are. -/
theorem State.translate_same (s : State) (l t tag : Nat) : SameS s (s.translate l t tag).2 := by
  unfold State.translate
  dsimp only
  have h := State.walkMeet_same s tag
  generalize s.walkMeet tag = u at h
  generalize (s.laneRt l).lookup tag = o
  generalize u.walk (some t) tag = w
  rcases o with _ | e
  · rcases w with r | ⟨w0, w1⟩
    · exact h
    · exact h.trans (State.modLane_same _ _ _)
  · dsimp only
    generalize s.useReason (some t) e.w0 e.w1 = x
    rcases x with _ | r
    · exact State.modLane_same _ _ _
    · exact .refl s

/-- A tag that translates only reads. -/
theorem Mx.tagEntry_reads (c : Cx) (m : Mx) (tag : Nat) : ROk m (m.tagEntry c tag) := by
  unfold Mx.tagEntry
  refine ROk.ite ROk.raise ?_
  have h := State.translate_same m.s c.lane c.t tag
  generalize m.s.translate c.lane c.t tag = p at h
  rcases p with ⟨x | x, s⟩
  · first | exact ROk.xcp | exact ROk.raise
  · exact ROk.ok ⟨rfl, ⟨_, _, _, _, rfl⟩, h.mem, h.code, h.sched⟩

/-- An operand address only reads. -/
theorem Mx.address_reads (c : Cx) (m : Mx) (ty al : Nat) : ROk m (m.address c ty al) := by
  unfold Mx.address
  split
  · exact ROk.bind (Mx.tagEntry_reads _ _ _) (fun e n _ => ROk.ite ROk.raise (ROk.ite ROk.raise (ROk.ok (Reads.refl n))))
  · exact ROk.bind (Mx.tagEntry_reads _ _ _) (fun e n _ => ROk.ite ROk.raise (ROk.ite ROk.raise (ROk.ok (Reads.refl n))))
  · exact ROk.ite ROk.raise (ROk.ite ROk.raise (ROk.ok (Reads.refl m)))
  · exact ROk.ite ROk.raise (ROk.ok (Reads.refl m))

/-- Resolving an operand only reads. -/
theorem Mx.operand_reads (c : Cx) (m : Mx) (size al : Nat) (rd wr : Bool) : ROk m (m.operand c size al rd wr) := by
  unfold Mx.operand
  split
  · exact ROk.ok (Reads.refl m)
  · exact ROk.ok (Reads.refl m)
  · exact ROk.ite ROk.raise (ROk.ite ROk.raise (ROk.ok (Reads.refl m)))
  · refine ROk.bind (Mx.address_reads _ _ _ _) (fun p n _ => ROk.ite ROk.raise ?_)
    refine ROk.bind (ROk.ite (Mx.check_reads _ _ _ _ _) (ROk.ok (Reads.refl n))) (fun _ n' _ => ?_)
    exact ROk.bind (ROk.ite (Mx.check_reads _ _ _ _ _) (ROk.ok (Reads.refl n'))) (fun _ n'' _ => ROk.ok (Reads.refl n''))

/-- A source operand only reads. -/
theorem Mx.source_reads (c : Cx) (m : Mx) : ROk m (m.source c) := by
  unfold Mx.source
  exact ROk.bind (Mx.operand_reads _ _ _ _ _ _) (fun o n _ => ROk.bind (Mx.fetch_reads _ _ _ _ _) (fun b n' _ => ROk.ok (Reads.refl n')))

/-- A BOOL operand only reads. -/
theorem Mx.bool_reads (c : Cx) (m : Mx) : ROk m (m.bool c) := by
  unfold Mx.bool
  exact ROk.bind (Mx.operand_reads _ _ _ _ _ _) (fun o n _ => ROk.bind (Mx.fetch_reads _ _ _ _ _) (fun b n' _ => ROk.ok (Reads.refl n')))

/-- A record operand only reads. -/
theorem Mx.recordOp_reads (c : Cx) (m : Mx) (n al : Nat) : ROk m (m.recordOp c n al) := by
  unfold Mx.recordOp
  exact ROk.bind (Mx.operand_reads _ _ _ _ _ _) (fun o n _ => ROk.bind (Mx.fetch_reads _ _ _ _ _) (fun b n' _ => ROk.ok (Reads.refl n')))

/-- What an exception of an instruction does in a run that is being executed: the stream is handed to it. -/
def failOn (n : Nat) (st : StreamRt) (s : State) (r : Run) (x : Xcp) (size : Nat) : State :=
  if r.st = .xcp then s.putRun (r.withStream n { st.restart with lane := none }) else s.flxXcp r n st x size none

/-- Where a stream stands at an instruction of the row, its command does what the instruction's meaning says, on what the fetch has left. -/
theorem AtInstr.flx_run {s : State} {k : Strm} {e : Env} {row : FlxRow} {r : Run} {d : TaskDef} {st : StreamRt} {i : FlxW}
    (h : AtInstr s k e row r d st i) {sem : Sem} :
    s.flx k e row sem = ((met s e r st).s.flxRun r st k.stream.val r.streams.length i.size (i.tags st) (failOn k.stream.val st)
      (sem (instrCx k e r d st i) (met s e r st))).settle r.task := by
  have h1 := h.run; have h2 := h.task; have h3 := h.stream
  have h4 := h.word; have h5 := h.calm
  unfold met at h4
  dsimp only at h4
  unfold State.flx
  rw [h1]
  dsimp only
  rw [if_pos h.store]
  unfold State.flxIn
  rw [h1, h2]
  dsimp only
  rw [h3]
  dsimp only
  rw [if_neg (by simp [h.steps]), h.noObject]
  dsimp only
  rw [h4]
  dsimp only
  rw [if_neg (by simp [h.isRow]), h.agree]
  dsimp only
  rw [h.legal]
  dsimp only
  rw [if_neg (by simp [h.inShadow]), if_neg (by rw [h5]; decide)]
  rfl

/-- An instruction whose meaning ends, without a program trap, retires. -/
theorem AtInstr.flx {s : State} {k : Strm} {e : Env} {row : FlxRow} {r : Run} {d : TaskDef} {st : StreamRt} {i : FlxW}
    (h : AtInstr s k e row r d st i) {sem : Sem} {a : After} {m : Mx}
    (hs : sem (instrCx k e r d st i) (met s e r st) = .ok a m) (ha : ∀ c, a ≠ .trap c) (hk : kept r.ctx m.r) :
    s.flx k e row sem = retired k r i m a := by
  rw [h.flx_run, hs]
  unfold State.flxRun retired doneStream
  rw [h.stream]
  dsimp only [Option.getD]
  rw [if_neg (by unfold kept at hk; simpa using hk)]
  cases a with
  | trap c => exact absurd rfl (ha c)
  | _ => rfl

/-- A program trap: its instruction retires, and the stream is handed to the exception as that leaves it. -/
theorem AtInstr.flx_trap {s : State} {k : Strm} {e : Env} {row : FlxRow} {r : Run} {d : TaskDef} {st : StreamRt} {i : FlxW}
    (h : AtInstr s k e row r d st i) {sem : Sem} {c : Nat} {m : Mx}
    (hs : sem (instrCx k e r d st i) (met s e r st) = .ok (.trap c) m) (hr : r.st = .on) (hk : kept r.ctx m.r) :
    s.flx k e row sem = raised k r i m (doneStream k r i m (.trap c)) ⟨0x0F, 0, 0, c⟩ (some st.pc) := by
  rw [h.flx_run, hs]
  unfold State.flxRun raised doneStream
  rw [h.stream]
  dsimp only [Option.getD]
  rw [if_neg (by unfold kept at hk; simpa using hk), if_neg (by rw [hr]; decide)]

/-- An instruction whose meaning raises an exception: the exception of the stream. -/
theorem AtInstr.flx_xcp {s : State} {k : Strm} {e : Env} {row : FlxRow} {r : Run} {d : TaskDef} {st : StreamRt} {i : FlxW}
    (h : AtInstr s k e row r d st i) {sem : Sem} {x : Xcp} {m : Mx} (hm : m.r.st = .on)
    (hs : sem (instrCx k e r d st i) (met s e r st) = .xcp x m) :
    s.flx k e row sem = raised k r i m st x none := by
  rw [h.flx_run, hs]
  unfold State.flxRun failOn raised
  dsimp only
  rw [if_neg (by simp [hm])]

/-- A control instruction in a MODESET shadow: the exception of the stream. -/
theorem AtWord.flx_shadow {s : State} {k : Strm} {e : Env} {row : FlxRow} {r : Run} {d : TaskDef} {st : StreamRt} {i : FlxW}
    (h : AtWord s k e row r d st i) {sem : Sem} (hr : r.st = .on) (hs : st.sh.isSome = true) (hc : row.control = true) :
    s.flx k e row sem = raised k r i (met s e r st) st ⟨0x03, 0x05, 0, 0⟩ none := by
  have h1 := h.run; have h2 := h.task; have h3 := h.stream
  have h4 := h.word
  unfold met at h4
  dsimp only at h4
  unfold State.flx
  rw [h1]
  dsimp only
  rw [if_pos h.store]
  unfold State.flxIn
  rw [h1, h2]
  dsimp only
  rw [h3]
  dsimp only
  rw [if_neg (by simp [h.steps]), h.noObject]
  dsimp only
  rw [h4]
  dsimp only
  rw [if_neg (by simp [h.isRow]), h.agree]
  dsimp only
  rw [h.legal]
  dsimp only
  rw [if_pos (by simp [hs, hc]), if_neg (by simp [hr])]
  rfl

/-- An operation without a trap puts its registers and flags. -/
theorem WordRes.apply_on {w : WordRes} {m : Mx} (h : w.trap = false) : w.apply m = .ok () { m with st := w.on m.st } := by
  unfold WordRes.apply
  rw [if_neg (by simp [h])]
  rfl

end Sys2Proof.Machine
end

