-- ==== Sys2Proof/Laws/Host.lean ====
section
/-! SUPPORT. What the Roundabout's shared operations do: completing a descriptor, draining a queue pair and starting a descriptor. -/
namespace Sys2Proof.Machine

/-- From `s` to `t` only the sessions change; session `n`, which was `x`, is `x'`, the same but for its queue pairs, of which all but `q` are as they
were and `q` is `y'`. -/
structure QpStep (s t : State) (n q : Nat) (x x' : Sess) (y' : Qp) : Prop where
  frame : t = { s with host := { s.host with sess := t.host.sess } }
  sess : t.sess? n = some x'
  same : x' = { x with qps := x'.qps }
  queue : tabGet? x'.qps q = some y'
  others : ∀ k, k ≠ q → tabGet? x'.qps k = tabGet? x.qps k
  rising : tabRising x.qps = true → tabRising x'.qps = true

/-- The queue pair after it. -/
theorem QpStep.qp {s t : State} {n q : Nat} {x x' : Sess} {y' : Qp} (h : QpStep s t n q x x' y') : t.qp? n q = some y' := by
  show (t.sess? n).bind _ = _
  rw [h.sess]; exact h.queue

/-- Changing a session, read back. -/
theorem State.modSess_sess {s : State} {n : Nat} {x : Sess} (h : s.sess? n = some x) (f : Sess → Sess) :
    s.modSess n f = { s with host := { s.host with sess := tabSet s.host.sess n (f x) } } ∧ (s.modSess n f).sess? n = some (f x) := by
  have e : s.modSess n f = { s with host := { s.host with sess := tabSet s.host.sess n (f x) } } := by unfold State.modSess; rw [h]
  refine ⟨e, ?_⟩
  rw [e]
  exact tabGet?_tabSet_self _ _ _

/-- Nothing done. -/
theorem QpStep.refl {s : State} {n q : Nat} {x : Sess} {y : Qp} (h : s.sess? n = some x) (hq : tabGet? x.qps q = some y) : QpStep s s n q x x y :=
  ⟨rfl, h, rfl, hq, fun _ _ => rfl, id⟩

/-- One after another. -/
theorem QpStep.trans {s t u : State} {n q : Nat} {x x' x'' : Sess} {y' y'' : Qp} (h : QpStep s t n q x x' y') (k : QpStep t u n q x' x'' y'') :
    QpStep s u n q x x'' y'' :=
  ⟨by rw [k.frame, h.frame], k.sess, by rw [k.same, h.same], k.queue, fun i hi => (k.others i hi).trans (h.others i hi), k.rising ∘ h.rising⟩

/-- Changing a queue pair. -/
theorem QpStep.modQp {s : State} {n q : Nat} {x : Sess} {y : Qp} (h : s.sess? n = some x) (hq : tabGet? x.qps q = some y) (f : Qp → Qp) :
    ∃ x', QpStep s (s.modQp n q f) n q x x' (f y) := by
  obtain ⟨e, g⟩ := State.modSess_sess h (fun x => match tabGet? x.qps q with | some y => { x with qps := tabSet x.qps q (f y) } | none => x)
  have k : s.modQp n q f = s.modSess n (fun x => match tabGet? x.qps q with | some y => { x with qps := tabSet x.qps q (f y) } | none => x) := rfl
  rw [← k] at e g
  rw [hq] at e g
  generalize s.modQp n q f = t at *
  exact ⟨_, by rw [e], g, rfl, tabGet?_tabSet_self _ _ _, fun k hk => tabGet?_tabSet_ne _ _ hk, tabRising_tabSet _ _ _⟩

/-- Completing a descriptor, whatever its result: something completes. -/
theorem QpStep.complete_any {s : State} {n q : Nat} {x : Sess} {y : Qp} (h : s.sess? n = some x) (hq : tabGet? x.qps q = some y) (d : HostDesc)
    (status csn detail flags : Nat) (data : List Byte) :
    ∃ x' c, QpStep s (s.complete n q d status csn detail flags data) n q x x' { y with comps := y.comps ++ [c], open_ := y.open_ - 1 } ∧
      (data = [] ∨ d.ok2 = true → c = answerOf d status csn detail flags data) := by
  obtain ⟨x1, a⟩ := QpStep.modQp h hq (fun y => { y with comps := y.comps ++ [answerOf d (if !data.isEmpty && !d.ok2 then 0x0103 else status) csn (if !data.isEmpty && !d.ok2 then 0 else detail) flags (if !data.isEmpty && !d.ok2 then [] else data)] })
  obtain ⟨x2, b⟩ := QpStep.modQp a.sess a.queue (fun x => { x with open_ := x.open_ - 1 })
  refine ⟨x2, _, a.trans b, fun hd => ?_⟩
  have : (!data.isEmpty && !d.ok2) = false := by rcases hd with rfl | hd <;> simp [*]
  rw [this]; rfl

/-- Completing a descriptor puts its completion behind those that wait, and returns its credit. -/
theorem QpStep.complete {s : State} {n q : Nat} {x : Sess} {y : Qp} (h : s.sess? n = some x) (hq : tabGet? x.qps q = some y) (d : HostDesc)
    (status csn detail flags : Nat) (data : List Byte) (hd : data = [] ∨ d.ok2 = true) :
    ∃ x', QpStep s (s.complete n q d status csn detail flags data) n q x x'
      { y with comps := y.comps ++ [answerOf d status csn detail flags data], open_ := y.open_ - 1 } := by
  obtain ⟨x', c, a, b⟩ := QpStep.complete_any h hq d status csn detail flags data
  exact ⟨x', by rw [← b hd]; exact a⟩

/-- Draining completes descriptors without a row of their own: nothing else of the queue pair changes. -/
theorem QpStep.drain {n q : Nat} (k : Nat) {s : State} {x : Sess} {y : Qp} (h : s.sess? n = some x) (hq : tabGet? x.qps q = some y) :
    ∃ x' r o l, QpStep s (s.drain n q k) n q x x' { y with ready := r, open_ := o, comps := y.comps ++ l } := by
  induction k generalizing s x y with
  | zero => exact ⟨x, y.ready, y.open_, [], by rw [List.append_nil]; exact QpStep.refl h hq⟩
  | succ k ih =>
    have stay : ∃ x' r o l, QpStep s s n q x x' { y with ready := r, open_ := o, comps := y.comps ++ l } :=
      ⟨x, y.ready, y.open_, [], by rw [List.append_nil]; exact QpStep.refl h hq⟩
    unfold State.drain
    have e : s.qp? n q = some y := by show (s.sess? n).bind _ = _; rw [h]; exact hq
    rw [h, e]
    dsimp only
    split
    · rename_i d rest hr
      split
      · obtain ⟨x1, a⟩ := QpStep.modQp h hq (fun y => { y with ready := rest })
        generalize (s.modQp n q _).screen x q d = sc
        obtain ⟨x2, c, b, -⟩ := QpStep.complete_any a.sess a.queue d (sc.getD (0x0100, 2)).1 0 (sc.getD (0x0100, 2)).2 0 []
        obtain ⟨x3, r, o, l, c'⟩ := ih b.sess b.queue
        refine ⟨x3, r, o, c :: l, ?_⟩
        have := (a.trans b).trans c'
        simpa using this
      · exact stay
    · exact stay

/-- A descriptor that starts is taken from its queue pair; then its meaning acts, and descriptors without one after it complete. -/
theorem AtHead.starts {s : State} {sess : SessNo} {qp : QpNo} {x : Sess} {y : Qp} {d : HostDesc} {rest : List HostDesc} (h : AtHead s sess qp x y d rest)
    {mine : HostDesc → Bool} (hm : mine d = true) (f : Sess → HostDesc → State → State) :
    s.startDesc sess qp mine f = (f x d (s.took sess qp rest)).drain sess.val qp.val rest.length := by
  have e : s.qp? sess.val qp.val = some y := by show (s.sess? sess.val).bind _ = _; rw [h.session]; exact h.queue
  have hs : (s.took sess qp rest).screen x qp.val d = none := by
    obtain ⟨x', a⟩ := QpStep.modQp h.session h.queue (fun y => { y with ready := rest })
    unfold State.took
    rw [a.frame]
    exact h.screened
  have hup : s.hostUp = true := by unfold State.hostUp; rw [show s.kerb.phase = .run from h.runs]; rfl
  unfold State.startDesc
  dsimp only
  rw [h.session, e]
  dsimp only
  rw [h.head]
  dsimp only
  rw [if_pos (by rw [hup, hm, h.start]; rfl)]
  unfold State.took at hs
  rw [hs]
  rfl

/-- Taking the descriptor. -/
theorem AtHead.takes {s : State} {sess : SessNo} {qp : QpNo} {x : Sess} {y : Qp} {d : HostDesc} {rest : List HostDesc} (h : AtHead s sess qp x y d rest) :
    ∃ x', QpStep s (s.took sess qp rest) sess.val qp.val x x' { y with ready := rest } := QpStep.modQp h.session h.queue _

/-- A descriptor that starts, whose meaning leads from its taking to a state `u` with completions added: nothing but the sessions changes after `u`, and of
the queue pair only completions are added. -/
theorem AtHead.after {s : State} {sess : SessNo} {qp : QpNo} {x : Sess} {y : Qp} {d : HostDesc} {rest : List HostDesc} (h : AtHead s sess qp x y d rest)
    {mine : HostDesc → Bool} (hm : mine d = true) (f : Sess → HostDesc → State → State) {u : State} {x1 : Sess} {y1 : Qp}
    (hf : f x d (s.took sess qp rest) = u) (hu : u.sess? sess.val = some x1) (hq : tabGet? x1.qps qp.val = some y1) :
    ∃ x' r o l, QpStep u (s.startDesc sess qp mine f) sess.val qp.val x1 x' { y1 with ready := r, open_ := o, comps := y1.comps ++ l } := by
  rw [h.starts hm, hf]
  exact QpStep.drain _ hu hq

/-- A descriptor that starts and whose meaning is to complete at once: its completion is the next of its queue pair, and nothing but the sessions changes. -/
theorem AtHead.answers {s : State} {sess : SessNo} {qp : QpNo} {x : Sess} {y : Qp} {d : HostDesc} {rest : List HostDesc} (h : AtHead s sess qp x y d rest)
    {mine : HostDesc → Bool} (hm : mine d = true) (f : Sess → HostDesc → State → State) {u : State} {x1 : Sess} {y1 : Qp} {status csn detail flags : Nat}
    {data : List Byte} (hd : data = [] ∨ d.ok2 = true) (hf : f x d (s.took sess qp rest) = u.complete sess.val qp.val d status csn detail flags data)
    (hu : u.sess? sess.val = some x1) (hq : tabGet? x1.qps qp.val = some y1) :
    ∃ x' r o l, QpStep u (s.startDesc sess qp mine f) sess.val qp.val x1 x'
      { y1 with ready := r, open_ := o, comps := y1.comps ++ [answerOf d status csn detail flags data] ++ l } := by
  obtain ⟨x2, a⟩ := QpStep.complete hu hq d status csn detail flags data hd
  obtain ⟨x3, r, o, l, b⟩ := h.after hm f hf a.sess a.queue
  exact ⟨x3, r, o, l, a.trans b⟩

/-- What a step of a queue pair that adds a completion says of it. -/
theorem QpStep.answered {s t : State} {sess : SessNo} {qp : QpNo} {x x' : Sess} {y : Qp} {a l : List Compl} {c : Compl} {r : List HostDesc} {o : Nat}
    (h : QpStep s t sess.val qp.val x x' { y with ready := r, open_ := o, comps := a ++ [c] ++ l }) : Answered t sess qp a c :=
  ⟨_, h.qp, ⟨l, rfl⟩⟩

/-- A descriptor that starts and whose meaning is to complete at once, with nothing else done. -/
theorem AtHead.replies {s : State} {sess : SessNo} {qp : QpNo} {x : Sess} {y : Qp} {d : HostDesc} {rest : List HostDesc} (h : AtHead s sess qp x y d rest)
    {mine : HostDesc → Bool} (hm : mine d = true) (f : Sess → HostDesc → State → State) {status csn detail flags : Nat}
    {data : List Byte} (hd : data = [] ∨ d.ok2 = true)
    (hf : f x d (s.took sess qp rest) = (s.took sess qp rest).complete sess.val qp.val d status csn detail flags data) :
    s.startDesc sess qp mine f = { s with host := { s.host with sess := (s.startDesc sess qp mine f).host.sess } } ∧
    Answered (s.startDesc sess qp mine f) sess qp y.comps (answerOf d status csn detail flags data) := by
  obtain ⟨x', a⟩ := h.takes
  obtain ⟨x2, r, o, l, b⟩ := h.answers hm f hd hf a.sess a.queue
  exact ⟨(a.trans b).frame, QpStep.answered b⟩

/-- Latching a walk fault touches registers only. -/
theorem State.latchWalk_same (s : State) (r tag : Nat) : SameS s (s.latchWalk r tag) := ⟨rfl, rfl, rfl, rfl, rfl⟩

/-- So does latching a refusal. -/
theorem State.latchRefusal_same (s : State) (a m : Nat) (w : Bool) : SameS s (s.latchRefusal a m w) := ⟨rfl, rfl, rfl, rfl, rfl⟩

/-- What the host translation cache takes in leaves the rest as it is. -/
theorem State.hostTook_same (s : State) (tag : Nat) (w : Except Nat (Nat × Nat)) : SameS s (s.hostTook tag w).2 := by
  rcases w with r | ⟨w0, w1⟩
  · exact ⟨rfl, rfl, rfl, rfl, rfl⟩
  · unfold State.hostTook State.hostFill
    dsimp only
    repeat' split
    all_goals exact ⟨rfl, rfl, rfl, rfl, rfl⟩

/-- A walk of the Roundabout leaves the Square's bytes, scheduler and sessions as they are. -/
theorem State.hostWalk_same (s : State) (tag : Nat) : SameS s (s.hostWalk tag).2 :=
  (State.walkMeet_same s tag).trans (State.hostTook_same _ _ _)

/-- So does a translation. -/
theorem State.hostTranslate_same (s : State) (tag : Nat) : SameS s (s.hostTranslate tag).2 := by
  unfold State.hostTranslate
  split
  · dsimp only
    have h0 : SameS s { s with fresh := s.fresh + 1 } := ⟨rfl, rfl, rfl, rfl, rfl⟩
    generalize ({ s with fresh := s.fresh + 1 } : State) = u at h0 ⊢
    split
    · exact h0.trans (State.hostWalk_same _ _)
    · split
      · exact h0.trans (State.latchWalk_same _ _ _)
      · exact h0
  · exact State.hostWalk_same _ _

/-- Reading a tag does so too. -/
theorem State.readTag_same (s : State) (snap : Snap) (tag : Nat) : SameS s (s.readTag snap tag).2 := by
  unfold State.readTag State.hostEntry State.snapMeets
  dsimp only
  have h : SameS s (if tag / 2 ^ 24 ≠ 0 then (.error 1, s) else s.hostTranslate tag : Except Nat (Nat × Nat) × State).2 := by
    split
    · exact .refl s
    · exact State.hostTranslate_same s tag
  generalize (if tag / 2 ^ 24 ≠ 0 then (.error 1, s) else s.hostTranslate tag : Except Nat (Nat × Nat) × State) = p at h
  rcases p with ⟨x | ⟨w0, w1⟩, u⟩
  · exact h
  · dsimp only
    split
    · dsimp only at h
      exact h.trans (State.latchRefusal_same _ _ _ _)
    · dsimp only at h
      have k := h.trans (State.meet_same u (u.opAddr (u.imageTask (bits w1 0 19)) w0 w1) (tySize (teTy w0)) snap.csn)
      rw [apply_ite Prod.snd, ite_self]
      exact k

/-- And a list of tags. -/
theorem State.readTags_same (snap : Snap) (l : List Nat) (s : State) (i : Nat) : SameS s (s.readTags snap i l).2 := by
  induction l generalizing s i with
  | nil => exact .refl s
  | cons t l ih =>
    unfold State.readTags
    have h := State.readTag_same s snap t
    generalize s.readTag snap t = p at h
    obtain ⟨⟨bs, e⟩, u⟩ := p
    dsimp only
    have k := ih u (i + 1)
    generalize u.readTags snap (i + 1) l = q at k
    obtain ⟨⟨rest, e', i'⟩, v⟩ := q
    exact h.trans k

/-- Checking the entries of a write batch leaves bytes, scheduler and sessions as they are. -/
theorem State.writeEntries_same (n : Nat) (l : List (List Byte)) (s : State) (i : Nat) : SameS s (s.writeEntries n i l).2 := by
  have one : ∀ (u : State) (i : Nat) (e : List Byte), SameS u (u.writeEntry n i e).2 := by
    intro u i e
    unfold State.writeEntry State.hostEntry
    dsimp only
    split
    · exact .refl u
    · have h : SameS u (if leNat (e.take 4) / 2 ^ 24 ≠ 0 then (.error 1, u) else u.hostTranslate (leNat (e.take 4)) : Except Nat (Nat × Nat) × State).2 := by
        split
        · exact .refl u
        · exact State.hostTranslate_same u _
      generalize (if leNat (e.take 4) / 2 ^ 24 ≠ 0 then (.error 1, u) else u.hostTranslate (leNat (e.take 4)) : Except Nat (Nat × Nat) × State) = p at h
      rcases p with ⟨x | ⟨w0, w1⟩, v⟩
      · exact h
      · dsimp only at h ⊢
        repeat' split
        all_goals first | exact h | exact h.trans (State.latchRefusal_same _ _ _ _)
  induction l generalizing s i with
  | nil => exact .refl s
  | cons e l ih =>
    unfold State.writeEntries
    have h := one s i e
    generalize s.writeEntry n i e = p at h
    rcases p with ⟨x | w, u⟩
    · exact h
    · dsimp only at h ⊢
      have k := ih u (i + 1)
      generalize u.writeEntries n (i + 1) l = q at k
      rcases q with ⟨x | ws, v⟩ <;> exact h.trans k

/-- So does checking the entries of a FORCE. -/
theorem State.forceEntries_same (l : List (List Byte)) (s : State) (i : Nat) : SameS s (s.forceEntries i l).2 := by
  induction l generalizing s i with
  | nil => exact .refl s
  | cons e l ih =>
    unfold State.forceEntries State.hostEntry
    dsimp only
    split
    · exact .refl s
    · have h : SameS s (if leNat (e.take 4) / 2 ^ 24 ≠ 0 then (.error 1, s) else s.hostTranslate (leNat (e.take 4)) : Except Nat (Nat × Nat) × State).2 := by
        split
        · exact .refl s
        · exact State.hostTranslate_same s _
      generalize (if leNat (e.take 4) / 2 ^ 24 ≠ 0 then (.error 1, s) else s.hostTranslate (leNat (e.take 4)) : Except Nat (Nat × Nat) × State) = p at h
      rcases p with ⟨x | ⟨w0, w1⟩, v⟩
      · exact h
      · dsimp only at h ⊢
        split
        · exact h
        · split
          · exact h
          · split
            · exact h
            · have k := ih v (i + 1)
              generalize v.forceEntries (i + 1) l = q at k
              rcases q with ⟨x | ws, w⟩ <;> exact h.trans k

/-! ### Lock groups -/

/-- Changing a group touches the count of groups held and the groups only. -/
theorem State.modLock_frame (s : State) (g : Nat) (f : LockRt → LockRt) :
    s.modLock g f = { s with regs := (s.modLock g f).regs, host := { s.host with locks := tabSet s.host.locks g (f (s.lock g)) } } := rfl

/-- A group changed, read back; another one is as it was. -/
theorem State.lock_modLock (s : State) (g k : Nat) (f : LockRt → LockRt) : (s.modLock g f).lock k = if k = g then f (s.lock g) else s.lock k := by
  show tabGet _ (tabSet _ _ _) _ = _
  unfold tabGet
  split
  · next e => rw [e, tabGet?_tabSet_self]; rfl
  · next e => rw [tabGet?_tabSet_ne _ _ e]; rfl

/-- Releasing a list of groups that a session holds frees each of them, and touches nothing else. -/
theorem State.releaseOf_does (n : Nat) (l : List Nat) (s : State) :
    (∃ r k, s.releaseOf n l = { s with regs := r, host := { s.host with locks := k } }) ∧
    ∀ g, (s.releaseOf n l).lock g = if g ∈ l ∧ (s.lock g).holder = some n then { s.lock g with holder := none, staged := [] } else s.lock g := by
  induction l generalizing s with
  | nil => exact ⟨⟨_, _, rfl⟩, fun g => by simp [State.releaseOf]⟩
  | cons a l ih =>
    have e : s.releaseOf n (a :: l) = (if (s.lock a).holder = some n then s.freeLock a else s).releaseOf n l := rfl
    rw [e]
    by_cases h : (s.lock a).holder = some n
    · rw [if_pos h]
      obtain ⟨⟨r, k, f⟩, g⟩ := ih (s.freeLock a)
      refine ⟨⟨r, k, by rw [f]; rfl⟩, fun i => ?_⟩
      rw [g i]
      have := State.lock_modLock s a i (fun l => { l with holder := none, staged := [] })
      unfold State.freeLock
      rw [this]
      by_cases hi : i = a
      · subst hi; simp [h]
      · simp [hi]
    · rw [if_neg h]
      obtain ⟨f, g⟩ := ih s
      refine ⟨f, fun i => ?_⟩
      rw [g i]
      by_cases hi : i = a
      · subst hi; simp [h]
      · simp [hi]

/-- Sorting keeps the members. -/
theorem isort_mem {α : Type} (lt : α → α → Bool) (l : List α) (x : α) : x ∈ isort lt l ↔ x ∈ l := by
  have ins : ∀ (a : α) (k : List α), x ∈ insSort lt a k ↔ x = a ∨ x ∈ k := by
    intro a k
    induction k with
    | nil => simp [insSort]
    | cons b k ih =>
      unfold insSort
      split
      · simp
      · simp only [List.mem_cons, ih]; grind
  have fold : ∀ (l k : List α), x ∈ l.foldl (fun acc x => insSort lt x acc) k ↔ x ∈ l ∨ x ∈ k := by
    intro l
    induction l with
    | nil => intro k; simp
    | cons a l ih => intro k; rw [List.foldl_cons, ih, ins]; simp only [List.mem_cons]; grind
  simpa [isort] using fold l []

/-- The queue pairs of the sessions after one has been changed: those before, or the changed one. -/
theorem State.modQp_mem {s : State} {n q : Nat} {x : Sess} {y : Qp} {f : Qp → Qp} (h : s.sess? n = some x) (hq : tabGet? x.qps q = some y)
    {i j : Nat} {xe : Sess} {ye : Qp} (hx : (i, xe) ∈ (s.modQp n q f).host.sess) (hy : (j, ye) ∈ xe.qps) :
    (∃ xo, (i, xo) ∈ s.host.sess ∧ (j, ye) ∈ xo.qps) ∨ ye = f y := by
  unfold State.modQp at hx
  rw [(State.modSess_sess h _).1] at hx
  dsimp only at hx
  rw [hq] at hx
  rcases mem_tabSet hx with e | hx
  · injection e with e1 e2
    subst e1 e2
    rcases mem_tabSet hy with e | hy
    · injection e with e1 e2
      exact .inr e2
    · exact .inl ⟨x, mem_of_tabGet? h, hy⟩
  · exact .inl ⟨xe, hx, hy⟩

/-- A lock that breaks. -/
def LockRt.broke (l : LockRt) : LockRt := { l with holder := none, broken := true, staged := [] }

/-- Breaking a group: held, it is free and marked as broken; the count, and the report, touch nothing else of the sessions. -/
theorem State.breakLock_does {s : State} (h : s.RegsOk) (g : Nat) :
    (s.breakLock g).RegsOk ∧ (∃ r m q sc w k, s.breakLock g =
      { s with regs := r, sq := { s.sq with mem := m, poison := q }, sched := sc, wins := w, host := { s.host with locks := k } }) ∧
    ∀ k, (s.breakLock g).lock k = if k = g ∧ (s.lock g).holder.isSome then (s.lock k).broke else s.lock k := by
  unfold State.breakLock
  split
  · next e => exact ⟨h, ⟨_, _, _, _, _, _, rfl⟩, fun k => by rw [if_neg (by rw [e]; simp)]⟩
  · next o e =>
    dsimp only
    have c0 : Chg s (s.modLock g LockRt.broke) [(HQE_LOCKSTAT_HELD, 0)] :=
      ((Chg.refl h).same (u := { s with host := { s.host with locks := tabSet s.host.locks g (s.lock g).broke } }) rfl).setF HQE_LOCKSTAT_HELD _ 0
    have c1 := c0.bump HQE_LOCKSTAT_BROKENCNT 0 1
    have e1 : (s.modLock g (fun l => { l with holder := none, broken := true, staged := [] })) = s.modLock g LockRt.broke := rfl
    rw [e1]
    have f1 := State.modLock_frame s g LockRt.broke
    have l1 := fun k => State.lock_modLock s g k LockRt.broke
    generalize s.modLock g LockRt.broke = u at *
    obtain ⟨d, r, m, q, sc, w, f, -⟩ := State.report_does c1.ok 0x0009 g u.now 4 o
    refine ⟨d.ok, ⟨r, m, q, sc, w, u.host.locks, ?_⟩, fun k => ?_⟩
    · rw [f, f1]; rfl
    · have e2 : (State.report (u.bump HQE_LOCKSTAT_BROKENCNT) 0x0009 g u.now 4 o).lock k = u.lock k := by rw [f]; rfl
      refine e2.trans ?_
      rw [l1 k, e]
      by_cases hk : k = g <;> simp [hk]

/-- Breaking a list of groups. -/
theorem State.breakLocks_does (l : List Nat) {s : State} (h : s.RegsOk) :
    (l.foldl (fun s g => s.breakLock g) s).RegsOk ∧ (∃ r m q sc w k, l.foldl (fun s g => s.breakLock g) s =
      { s with regs := r, sq := { s.sq with mem := m, poison := q }, sched := sc, wins := w, host := { s.host with locks := k } }) ∧
    ∀ k, (l.foldl (fun s g => s.breakLock g) s).lock k = if k ∈ l ∧ (s.lock k).holder.isSome then (s.lock k).broke else s.lock k := by
  induction l generalizing s with
  | nil => exact ⟨h, ⟨_, _, _, _, _, _, rfl⟩, fun k => by simp⟩
  | cons a l ih =>
    rw [List.foldl_cons]
    obtain ⟨ho, ⟨r, m, q, sc, w, k, f⟩, g⟩ := State.breakLock_does h a
    obtain ⟨ho', ⟨r', m', q', sc', w', k', f'⟩, g'⟩ := ih ho
    refine ⟨ho', ⟨r', m', q', sc', w', k', by rw [f', f]⟩, fun i => ?_⟩
    rw [g' i, g i]
    by_cases hi : i = a
    · subst hi
      by_cases hh : (s.lock i).holder.isSome
      · simp [hh, LockRt.broke]
      · simp [hh]
    · simp [hi]

/-- An entry of a table in canonical form is the one under its key. -/
theorem tabGet?_of_mem {α : Type} {t : Tab α} {a : Nat} {v : α} (hr : tabRising t = true) (h : (a, v) ∈ t) : tabGet? t a = some v := by
  rw [tabRising_iff] at hr
  induction t with
  | nil => cases h
  | cons p t ih =>
    rw [List.pairwise_cons] at hr
    unfold tabGet?
    rcases List.mem_cons.mp h with e | e
    · subst e; simp
    · have := hr.1 _ e
      have hne : ¬ p.1 = a := by dsimp only at this; omega
      have := ih hr.2 e
      rw [if_neg hne, if_neg (by dsimp only at *; omega), this]

end Sys2Proof.Machine
end

