-- ==== Sys2Proof/Laws/KeepsExec.lean ====
section
/-! SUPPORT. Every command's meaning keeps the queue, the canonical forms, what has been emitted and the free values used. -/
namespace Sys2Proof.Machine
set_option Elab.async false

/-- A meaning that, where it answers a next state, keeps what every operation keeps. -/
def EKeeps (a : State) (o : Host.Outcome State Fault Refusal) : Prop := ∀ t, o = .next t → Keeps a t

/-- A meaning that ends in a state. -/
theorem EKeeps.done {a s : State} (h : Keeps a s) : EKeeps a (done s) := by
  intro t ht
  cases ht
  exact h

/-- The same for an outcome that may change the number of the base tick. -/
def EKeepsB (a : State) (o : Host.Outcome State Fault Refusal) : Prop := ∀ t, o = .next t → KeepsB a t

/-- The outcome of a meaning. -/
theorem EKeepsB.done {a s : State} (h : KeepsB a s) : EKeepsB a (done s) := by
  intro t e
  cases e
  exact h

/-- execArcadeRecordProgram keeps what every operation keeps. -/
theorem execArcadeRecordProgram_keeps {a s : State} {x0} (h : Keeps a s) : EKeeps a (execArcadeRecordProgram x0 s) := by
  unfold execArcadeRecordProgram
  repeat' first
    | with_reducible assumption
    | ((fail_if_no_progress extract_lets +onlyGivenNames t); refine (?_ : Keeps a t → _) ?_; (on_goal 2 => unfold t); (on_goal 1 => (clear_value t; intro _)))
    | ((fail_if_no_progress extract_lets +onlyGivenNames t); refine (?_ : Keeps2 a t → _) ?_; (on_goal 2 => unfold t); (on_goal 1 => (clear_value t; intro _)))
    | ((fail_if_no_progress extract_lets +onlyGivenNames t); refine (?_ : Keeps1 a t → _) ?_; (on_goal 2 => unfold t); (on_goal 1 => (clear_value t; intro _)))
    | ((fail_if_no_progress extract_lets +onlyGivenNames t); subst t)
    | with_reducible refine EKeeps.done ?_
    | dsimp -zeta only
    | with_reducible apply Keeps.ite
    | with_reducible apply State.setCredit_keeps
    | with_reducible apply State.arcRelease_keeps
    | with_reducible exact Keeps1.out ‹_›
    | with_reducible apply Keeps1.mk
    | with_reducible apply Keeps1.ite
    | with_reducible refine Keeps1.foldl ?_ (fun _ _ _ => ?_)
    | with_reducible refine Keeps1.out ?_
    | with_reducible exact Keeps2.out ‹_›
    | with_reducible apply Keeps2.mk
    | with_reducible apply Keeps2.ite
    | with_reducible refine Keeps2.foldl ?_ (fun _ _ _ => ?_)
    | with_reducible refine Keeps2.out ?_
    | with_reducible refine Keeps.foldl ?_ (fun _ _ _ => ?_)
    | split
    | fail_if_no_progress (with_reducible refine Keeps.upd ?_ rfl rfl rfl rfl rfl rfl)

/-- execWearGovernorStep keeps what every operation keeps. -/
theorem execWearGovernorStep_keeps {a s : State} {x0} (h : Keeps a s) : EKeeps a (execWearGovernorStep x0 s) := by
  unfold execWearGovernorStep
  repeat' first
    | with_reducible assumption
    | ((fail_if_no_progress extract_lets +onlyGivenNames t); refine (?_ : Keeps a t → _) ?_; (on_goal 2 => unfold t); (on_goal 1 => (clear_value t; intro _)))
    | ((fail_if_no_progress extract_lets +onlyGivenNames t); subst t)
    | with_reducible refine EKeeps.done ?_
    | dsimp -zeta only
    | with_reducible apply Keeps.ite
    | with_reducible apply State.setF_keeps
    | with_reducible apply State.setCredit_keeps
    | split

/-- execFlashTemperatureHot keeps what every operation keeps. -/
theorem execFlashTemperatureHot_keeps {a s : State} {x0} (h : Keeps a s) : EKeeps a (execFlashTemperatureHot x0 s) := by
  unfold execFlashTemperatureHot
  repeat' first
    | with_reducible assumption
    | with_reducible refine EKeeps.done ?_
    | dsimp -zeta only
    | with_reducible apply State.setB_keeps

/-- execArcCursorWrite keeps what every operation keeps. -/
theorem execArcCursorWrite_keeps {a s : State} {x0 x1} (h : Keeps a s) : EKeeps a (execArcCursorWrite x0 x1 s) := by
  unfold execArcCursorWrite
  repeat' first
    | with_reducible assumption
    | with_reducible refine EKeeps.done ?_
    | dsimp -zeta only
    | with_reducible refine State.written_keeps (fun s h => ?_) ?_
    | with_reducible apply State.cursorStart_keeps

/-- execArcCursorReady keeps what every operation keeps. -/
theorem execArcCursorReady_keeps {a s : State} {x0} (h : Keeps a s) : EKeeps a (execArcCursorReady x0 s) := by
  unfold execArcCursorReady
  repeat' first
    | with_reducible assumption
    | ((fail_if_no_progress extract_lets +onlyGivenNames t); refine (?_ : Keeps a t → _) ?_; (on_goal 2 => unfold t); (on_goal 1 => (clear_value t; intro _)))
    | ((fail_if_no_progress extract_lets +onlyGivenNames t); subst t)
    | with_reducible refine EKeeps.done ?_
    | dsimp -zeta only
    | with_reducible apply State.setF_keeps
    | with_reducible apply State.set64_keeps
    | with_reducible apply State.setB_keeps
    | split
    | fail_if_no_progress (with_reducible refine Keeps.upd ?_ rfl rfl rfl rfl rfl rfl)

/-- execArcNext keeps what every operation keeps. -/
theorem execArcNext_keeps {a s : State} {x0} (h : Keeps a s) : EKeeps a (execArcNext x0 s) := by
  unfold execArcNext
  repeat' first
    | with_reducible assumption
    | with_reducible refine EKeeps.done ?_
    | dsimp -zeta only
    | with_reducible refine State.written_keeps (fun s h => ?_) ?_
    | with_reducible apply State.cmdArcNext_keeps

/-- execArcClrevt keeps what every operation keeps. -/
theorem execArcClrevt_keeps {a s : State} {x0 x1} (h : Keeps a s) : EKeeps a (execArcClrevt x0 x1 s) := by
  unfold execArcClrevt
  repeat' first
    | with_reducible assumption
    | with_reducible refine EKeeps.done ?_
    | dsimp -zeta only
    | with_reducible refine State.written_keeps (fun s h => ?_) ?_
    | with_reducible apply State.cmdArcClrevt_keeps

/-- execArcClrcyc keeps what every operation keeps. -/
theorem execArcClrcyc_keeps {a s : State} {x0} (h : Keeps a s) : EKeeps a (execArcClrcyc x0 s) := by
  unfold execArcClrcyc
  repeat' first
    | with_reducible assumption
    | with_reducible refine EKeeps.done ?_
    | dsimp -zeta only
    | with_reducible refine State.written_keeps (fun s h => ?_) ?_
    | with_reducible apply State.cmdArcClrcyc_keeps

/-- execArcErase keeps what every operation keeps. -/
theorem execArcErase_keeps {a s : State} {x0} (h : Keeps a s) : EKeeps a (execArcErase x0 s) := by
  unfold execArcErase
  repeat' first
    | with_reducible assumption
    | with_reducible refine EKeeps.done ?_
    | dsimp -zeta only
    | with_reducible refine State.written_keeps (fun s h => ?_) ?_
    | with_reducible apply State.cmdArcErase_keeps

/-- execCanFrameReceive keeps what every operation keeps. -/
theorem execCanFrameReceive_keeps {a s : State} {x0 x1} (h : Keeps a s) : EKeeps a (execCanFrameReceive x0 x1 s) := by
  unfold execCanFrameReceive
  repeat' first
    | with_reducible assumption
    | ((fail_if_no_progress extract_lets +onlyGivenNames t); refine (?_ : Keeps a t → _) ?_; (on_goal 2 => unfold t); (on_goal 1 => (clear_value t; intro _)))
    | ((fail_if_no_progress extract_lets +onlyGivenNames t); refine (?_ : Keeps2 a t → _) ?_; (on_goal 2 => unfold t); (on_goal 1 => (clear_value t; intro _)))
    | ((fail_if_no_progress extract_lets +onlyGivenNames t); refine (?_ : Keeps1 a t → _) ?_; (on_goal 2 => unfold t); (on_goal 1 => (clear_value t; intro _)))
    | ((fail_if_no_progress extract_lets +onlyGivenNames t); subst t)
    | with_reducible refine EKeeps.done ?_
    | dsimp -zeta only
    | with_reducible apply Keeps.ite
    | with_reducible apply State.modCan_keeps
    | with_reducible apply State.canState_keeps
    | with_reducible apply State.trigger_keeps
    | with_reducible apply State.canRing_keeps
    | with_reducible exact Keeps1.out ‹_›
    | with_reducible apply Keeps1.mk
    | with_reducible apply Keeps1.ite
    | with_reducible refine Keeps1.foldl ?_ (fun _ _ _ => ?_)
    | with_reducible refine Keeps1.out ?_
    | with_reducible exact Keeps2.out ‹_›
    | with_reducible apply Keeps2.mk
    | with_reducible apply Keeps2.ite
    | with_reducible refine Keeps2.foldl ?_ (fun _ _ _ => ?_)
    | with_reducible refine Keeps2.out ?_
    | with_reducible refine Keeps.foldl ?_ (fun _ _ _ => ?_)
    | split
    | fail_if_no_progress (with_reducible refine Keeps.upd ?_ rfl rfl rfl rfl rfl rfl)

/-- execCanFrameTransmitted keeps what every operation keeps. -/
theorem execCanFrameTransmitted_keeps {a s : State} {x0 x1} (h : Keeps a s) : EKeeps a (execCanFrameTransmitted x0 x1 s) := by
  unfold execCanFrameTransmitted
  repeat' first
    | with_reducible assumption
    | ((fail_if_no_progress extract_lets +onlyGivenNames t); refine (?_ : Keeps a t → _) ?_; (on_goal 2 => unfold t); (on_goal 1 => (clear_value t; intro _)))
    | ((fail_if_no_progress extract_lets +onlyGivenNames t); subst t)
    | with_reducible refine EKeeps.done ?_
    | dsimp -zeta only
    | with_reducible apply Keeps.ite
    | with_reducible apply State.modCan_keeps
    | with_reducible apply State.canState_keeps
    | with_reducible apply State.emit_keeps
    | with_reducible apply State.txResult_keeps
    | split

/-- execCanError keeps what every operation keeps. -/
theorem execCanError_keeps {a s : State} {x0 x1 x2 x3 x4} (h : Keeps a s) : EKeeps a (execCanError x0 x1 x2 x3 x4 s) := by
  unfold execCanError
  repeat' first
    | with_reducible assumption
    | ((fail_if_no_progress extract_lets +onlyGivenNames t); refine (?_ : Keeps a t → _) ?_; (on_goal 2 => unfold t); (on_goal 1 => (clear_value t; intro _)))
    | ((fail_if_no_progress extract_lets +onlyGivenNames t); subst t)
    | with_reducible refine EKeeps.done ?_
    | dsimp -zeta only
    | with_reducible apply Keeps.ite
    | with_reducible apply State.setF_keeps
    | with_reducible apply State.canState_keeps
    | with_reducible apply State.modCan_keeps
    | with_reducible apply State.oneShotFail_keeps
    | split

/-- execCanBusOffRecovered keeps what every operation keeps. -/
theorem execCanBusOffRecovered_keeps {a s : State} {x0} (h : Keeps a s) : EKeeps a (execCanBusOffRecovered x0 s) := by
  unfold execCanBusOffRecovered
  repeat' first
    | with_reducible assumption
    | ((fail_if_no_progress extract_lets +onlyGivenNames t); refine (?_ : Keeps a t → _) ?_; (on_goal 2 => unfold t); (on_goal 1 => (clear_value t; intro _)))
    | ((fail_if_no_progress extract_lets +onlyGivenNames t); subst t)
    | with_reducible refine EKeeps.done ?_
    | dsimp -zeta only
    | with_reducible apply Keeps.ite
    | with_reducible apply State.canCounts_keeps
    | with_reducible apply State.setF_keeps
    | with_reducible apply State.modCan_keeps
    | split

/-- execCanRxtmoExpiry keeps what every operation keeps. -/
theorem execCanRxtmoExpiry_keeps {a s : State} {x0 x1} (h : Keeps a s) : EKeeps a (execCanRxtmoExpiry x0 x1 s) := by
  unfold execCanRxtmoExpiry
  repeat' first
    | with_reducible assumption
    | ((fail_if_no_progress extract_lets +onlyGivenNames t); refine (?_ : Keeps a t → _) ?_; (on_goal 2 => unfold t); (on_goal 1 => (clear_value t; intro _)))
    | ((fail_if_no_progress extract_lets +onlyGivenNames t); subst t)
    | with_reducible refine EKeeps.done ?_
    | dsimp -zeta only
    | with_reducible apply State.modCan_keeps

/-- execCanRecover keeps what every operation keeps. -/
theorem execCanRecover_keeps {a s : State} {x0} (h : Keeps a s) : EKeeps a (execCanRecover x0 s) := by
  unfold execCanRecover
  repeat' first
    | with_reducible assumption
    | with_reducible refine EKeeps.done ?_
    | dsimp -zeta only
    | with_reducible refine State.written_keeps (fun s h => ?_) ?_
    | with_reducible apply State.cmdCanRecover_keeps

/-- execCanFlush keeps what every operation keeps. -/
theorem execCanFlush_keeps {a s : State} {x0} (h : Keeps a s) : EKeeps a (execCanFlush x0 s) := by
  unfold execCanFlush
  repeat' first
    | with_reducible assumption
    | with_reducible refine EKeeps.done ?_
    | dsimp -zeta only
    | with_reducible refine State.written_keeps (fun s h => ?_) ?_
    | with_reducible apply State.cmdCanFlush_keeps

/-- execSampleTick keeps what every operation keeps. -/
theorem execSampleTick_keeps {a s : State} {x0 x1 x2} (h : Keeps a s) : EKeeps a (execSampleTick x0 x1 x2 s) := by
  unfold execSampleTick
  repeat' first
    | with_reducible assumption
    | ((fail_if_no_progress extract_lets +onlyGivenNames t); refine (?_ : Keeps a t → _) ?_; (on_goal 2 => unfold t); (on_goal 1 => (clear_value t; intro _)))
    | ((fail_if_no_progress extract_lets +onlyGivenNames t); refine (?_ : Keeps2 a t → _) ?_; (on_goal 2 => unfold t); (on_goal 1 => (clear_value t; intro _)))
    | ((fail_if_no_progress extract_lets +onlyGivenNames t); refine (?_ : Keeps1 a t → _) ?_; (on_goal 2 => unfold t); (on_goal 1 => (clear_value t; intro _)))
    | ((fail_if_no_progress extract_lets +onlyGivenNames t); subst t)
    | with_reducible refine EKeeps.done ?_
    | dsimp -zeta only
    | with_reducible apply Keeps.ite
    | with_reducible apply State.applyDue_keeps
    | with_reducible apply State.setF_keeps
    | with_reducible apply State.sampleAll_keeps
    | with_reducible apply State.pairTick_keeps
    | with_reducible apply State.fnJudgeAll_keeps
    | with_reducible exact Keeps1.out ‹_›
    | with_reducible apply Keeps1.mk
    | with_reducible apply Keeps1.ite
    | with_reducible refine Keeps1.foldl ?_ (fun _ _ _ => ?_)
    | with_reducible refine Keeps1.out ?_
    | with_reducible exact Keeps2.out ‹_›
    | with_reducible apply Keeps2.mk
    | with_reducible apply Keeps2.ite
    | with_reducible refine Keeps2.foldl ?_ (fun _ _ _ => ?_)
    | with_reducible refine Keeps2.out ?_
    | with_reducible refine Keeps.foldl ?_ (fun _ _ _ => ?_)
    | split
    | fail_if_no_progress (with_reducible refine Keeps.upd ?_ rfl rfl rfl rfl rfl rfl)

/-- execOffPulseStart keeps what every operation keeps. -/
theorem execOffPulseStart_keeps {a s : State} {x0} (h : Keeps a s) : EKeeps a (execOffPulseStart x0 s) := by
  unfold execOffPulseStart
  repeat' first
    | with_reducible assumption
    | ((fail_if_no_progress extract_lets +onlyGivenNames t); refine (?_ : Keeps a t → _) ?_; (on_goal 2 => unfold t); (on_goal 1 => (clear_value t; intro _)))
    | ((fail_if_no_progress extract_lets +onlyGivenNames t); subst t)
    | with_reducible refine EKeeps.done ?_
    | dsimp -zeta only
    | with_reducible apply Keeps.ite
    | with_reducible apply State.modDio_keeps
    | split

/-- execOffPulseEnd keeps what every operation keeps. -/
theorem execOffPulseEnd_keeps {a s : State} {x0} (h : Keeps a s) : EKeeps a (execOffPulseEnd x0 s) := by
  unfold execOffPulseEnd
  repeat' first
    | with_reducible assumption
    | ((fail_if_no_progress extract_lets +onlyGivenNames t); refine (?_ : Keeps a t → _) ?_; (on_goal 2 => unfold t); (on_goal 1 => (clear_value t; intro _)))
    | ((fail_if_no_progress extract_lets +onlyGivenNames t); refine (?_ : Keeps2 a t → _) ?_; (on_goal 2 => unfold t); (on_goal 1 => (clear_value t; intro _)))
    | ((fail_if_no_progress extract_lets +onlyGivenNames t); refine (?_ : Keeps1 a t → _) ?_; (on_goal 2 => unfold t); (on_goal 1 => (clear_value t; intro _)))
    | ((fail_if_no_progress extract_lets +onlyGivenNames t); subst t)
    | with_reducible refine EKeeps.done ?_
    | dsimp -zeta only
    | with_reducible apply Keeps.ite
    | with_reducible apply State.modDio_keeps
    | with_reducible apply State.modFn_keeps
    | with_reducible apply State.evSafe_keeps
    | with_reducible apply State.setF_keeps
    | with_reducible apply State.bump_keeps
    | with_reducible apply State.fnJudgeAll_keeps
    | with_reducible exact Keeps1.out ‹_›
    | with_reducible apply Keeps1.mk
    | with_reducible apply Keeps1.ite
    | with_reducible refine Keeps1.foldl ?_ (fun _ _ _ => ?_)
    | with_reducible refine Keeps1.out ?_
    | with_reducible exact Keeps2.out ‹_›
    | with_reducible apply Keeps2.mk
    | with_reducible apply Keeps2.ite
    | with_reducible refine Keeps2.foldl ?_ (fun _ _ _ => ?_)
    | with_reducible refine Keeps2.out ?_
    | with_reducible refine Keeps.foldl ?_ (fun _ _ _ => ?_)
    | split

/-- execDegmaxExpiry keeps what every operation keeps. -/
theorem execDegmaxExpiry_keeps {a s : State} {x0} (h : Keeps a s) : EKeeps a (execDegmaxExpiry x0 s) := by
  unfold execDegmaxExpiry
  repeat' first
    | with_reducible assumption
    | with_reducible refine EKeeps.done ?_
    | dsimp -zeta only
    | with_reducible apply Keeps.ite
    | with_reducible apply State.fnTrip_keeps
    | split

/-- execDegradedRecovery keeps what every operation keeps. -/
theorem execDegradedRecovery_keeps {a s : State} {x0} (h : Keeps a s) : EKeeps a (execDegradedRecovery x0 s) := by
  unfold execDegradedRecovery
  repeat' first
    | with_reducible assumption
    | ((fail_if_no_progress extract_lets +onlyGivenNames t); refine (?_ : Keeps a t → _) ?_; (on_goal 2 => unfold t); (on_goal 1 => (clear_value t; intro _)))
    | ((fail_if_no_progress extract_lets +onlyGivenNames t); subst t)
    | with_reducible refine EKeeps.done ?_
    | dsimp -zeta only
    | with_reducible apply Keeps.ite
    | with_reducible apply State.evSafe_keeps
    | with_reducible apply State.fnNormal_keeps
    | split

/-- execFieldSupplyChange keeps what every operation keeps. -/
theorem execFieldSupplyChange_keeps {a s : State} {x0 x1} (h : Keeps a s) : EKeeps a (execFieldSupplyChange x0 x1 s) := by
  unfold execFieldSupplyChange
  repeat' first
    | with_reducible assumption
    | ((fail_if_no_progress extract_lets +onlyGivenNames t); refine (?_ : Keeps a t → _) ?_; (on_goal 2 => unfold t); (on_goal 1 => (clear_value t; intro _)))
    | ((fail_if_no_progress extract_lets +onlyGivenNames t); refine (?_ : Keeps2 a t → _) ?_; (on_goal 2 => unfold t); (on_goal 1 => (clear_value t; intro _)))
    | ((fail_if_no_progress extract_lets +onlyGivenNames t); refine (?_ : Keeps1 a t → _) ?_; (on_goal 2 => unfold t); (on_goal 1 => (clear_value t; intro _)))
    | ((fail_if_no_progress extract_lets +onlyGivenNames t); subst t)
    | with_reducible refine EKeeps.done ?_
    | dsimp -zeta only
    | with_reducible apply Keeps.ite
    | with_reducible apply State.setB_keeps
    | with_reducible apply State.evHw_keeps
    | with_reducible apply State.showSick_keeps
    | with_reducible apply State.fnJudgeAll_keeps
    | with_reducible apply State.showAi_keeps
    | with_reducible exact Keeps1.out ‹_›
    | with_reducible apply Keeps1.mk
    | with_reducible apply Keeps1.ite
    | with_reducible refine Keeps1.foldl ?_ (fun _ _ _ => ?_)
    | with_reducible refine Keeps1.out ?_
    | with_reducible exact Keeps2.out ‹_›
    | with_reducible apply Keeps2.mk
    | with_reducible apply Keeps2.ite
    | with_reducible refine Keeps2.foldl ?_ (fun _ _ _ => ?_)
    | with_reducible refine Keeps2.out ?_
    | with_reducible refine Keeps.foldl ?_ (fun _ _ _ => ?_)
    | split

/-- execInputTest keeps what every operation keeps. -/
theorem execInputTest_keeps {a s : State} {x0 x1} (h : Keeps a s) : EKeeps a (execInputTest x0 x1 s) := by
  unfold execInputTest
  repeat' first
    | with_reducible assumption
    | with_reducible refine EKeeps.done ?_
    | dsimp -zeta only
    | with_reducible apply Keeps.ite
    | with_reducible apply State.fnJudgeAll_keeps
    | with_reducible apply State.showSick_keeps
    | with_reducible apply State.setB_keeps
    | split

/-- execOutputOverload keeps what every operation keeps. -/
theorem execOutputOverload_keeps {a s : State} {x0 x1} (h : Keeps a s) : EKeeps a (execOutputOverload x0 x1 s) := by
  unfold execOutputOverload
  repeat' first
    | with_reducible assumption
    | ((fail_if_no_progress extract_lets +onlyGivenNames t); refine (?_ : Keeps a t → _) ?_; (on_goal 2 => unfold t); (on_goal 1 => (clear_value t; intro _)))
    | ((fail_if_no_progress extract_lets +onlyGivenNames t); subst t)
    | with_reducible refine EKeeps.done ?_
    | dsimp -zeta only
    | with_reducible apply Keeps.ite
    | with_reducible apply State.setF_keeps
    | with_reducible apply State.bump_keeps
    | with_reducible apply State.fnJudgeAll_keeps
    | with_reducible apply State.showSick_keeps
    | split

/-- execAdcEntryComplete keeps what every operation keeps. -/
theorem execAdcEntryComplete_keeps {a s : State} {x0 x1 x2} (h : Keeps a s) : EKeeps a (execAdcEntryComplete x0 x1 x2 s) := by
  unfold execAdcEntryComplete
  repeat' first
    | with_reducible assumption
    | with_reducible refine EKeeps.done ?_
    | dsimp -zeta only
    | with_reducible apply State.fnJudgeAll_keeps
    | with_reducible apply State.entryDone_keeps
    | with_reducible apply State.serveAll_keeps

/-- execUrgentRequest keeps what every operation keeps. -/
theorem execUrgentRequest_keeps {a s : State} {x0 x1 x2} (h : Keeps a s) : EKeeps a (execUrgentRequest x0 x1 x2 s) := by
  unfold execUrgentRequest
  repeat' first
    | with_reducible assumption
    | with_reducible refine EKeeps.done ?_
    | dsimp -zeta only
    | with_reducible apply State.fnJudgeAll_keeps
    | with_reducible apply State.serveAll_keeps
    | with_reducible apply State.askUrgent_keeps

/-- execAdcUrgentGo keeps what every operation keeps. -/
theorem execAdcUrgentGo_keeps {a s : State} {x0 x1 x2} (h : Keeps a s) : EKeeps a (execAdcUrgentGo x0 x1 x2 s) := by
  unfold execAdcUrgentGo
  repeat' first
    | with_reducible assumption
    | with_reducible refine EKeeps.done ?_
    | dsimp -zeta only
    | with_reducible refine State.written_keeps (fun s h => ?_) ?_
    | with_reducible apply State.cmdAdcUrgentGo_keeps

/-- execAdcSelfTestStep keeps what every operation keeps. -/
theorem execAdcSelfTestStep_keeps {a s : State} {x0 x1} (h : Keeps a s) : EKeeps a (execAdcSelfTestStep x0 x1 s) := by
  unfold execAdcSelfTestStep
  repeat' first
    | with_reducible assumption
    | ((fail_if_no_progress extract_lets +onlyGivenNames t); refine (?_ : Keeps a t → _) ?_; (on_goal 2 => unfold t); (on_goal 1 => (clear_value t; intro _)))
    | ((fail_if_no_progress extract_lets +onlyGivenNames t); refine (?_ : Keeps2 a t → _) ?_; (on_goal 2 => unfold t); (on_goal 1 => (clear_value t; intro _)))
    | ((fail_if_no_progress extract_lets +onlyGivenNames t); refine (?_ : Keeps1 a t → _) ?_; (on_goal 2 => unfold t); (on_goal 1 => (clear_value t; intro _)))
    | ((fail_if_no_progress extract_lets +onlyGivenNames t); subst t)
    | with_reducible refine EKeeps.done ?_
    | dsimp -zeta only
    | with_reducible apply Keeps.ite
    | with_reducible apply State.evHw_keeps
    | with_reducible apply State.bump_keeps
    | with_reducible apply State.fnJudgeAll_keeps
    | with_reducible apply State.showAi_keeps
    | with_reducible exact Keeps1.out ‹_›
    | with_reducible apply Keeps1.mk
    | with_reducible apply Keeps1.ite
    | with_reducible refine Keeps1.foldl ?_ (fun _ _ _ => ?_)
    | with_reducible refine Keeps1.out ?_
    | with_reducible exact Keeps2.out ‹_›
    | with_reducible apply Keeps2.mk
    | with_reducible apply Keeps2.ite
    | with_reducible refine Keeps2.foldl ?_ (fun _ _ _ => ?_)
    | with_reducible refine Keeps2.out ?_
    | with_reducible refine Keeps.foldl ?_ (fun _ _ _ => ?_)
    | split
    | fail_if_no_progress (with_reducible refine Keeps.upd ?_ rfl rfl rfl rfl rfl rfl)

/-- execLoopSupplyOff keeps what every operation keeps. -/
theorem execLoopSupplyOff_keeps {a s : State} {x0} (h : Keeps a s) : EKeeps a (execLoopSupplyOff x0 s) := by
  unfold execLoopSupplyOff
  repeat' first
    | with_reducible assumption
    | ((fail_if_no_progress extract_lets +onlyGivenNames t); refine (?_ : Keeps a t → _) ?_; (on_goal 2 => unfold t); (on_goal 1 => (clear_value t; intro _)))
    | ((fail_if_no_progress extract_lets +onlyGivenNames t); refine (?_ : Keeps2 a t → _) ?_; (on_goal 2 => unfold t); (on_goal 1 => (clear_value t; intro _)))
    | ((fail_if_no_progress extract_lets +onlyGivenNames t); refine (?_ : Keeps1 a t → _) ?_; (on_goal 2 => unfold t); (on_goal 1 => (clear_value t; intro _)))
    | ((fail_if_no_progress extract_lets +onlyGivenNames t); subst t)
    | with_reducible refine EKeeps.done ?_
    | dsimp -zeta only
    | with_reducible apply Keeps.ite
    | with_reducible apply State.loopSet_keeps
    | with_reducible apply State.setF_keeps
    | with_reducible apply State.hartMiss_keeps
    | with_reducible exact Keeps1.out ‹_›
    | with_reducible apply Keeps1.mk
    | with_reducible apply Keeps1.ite
    | with_reducible refine Keeps1.foldl ?_ (fun _ _ _ => ?_)
    | with_reducible refine Keeps1.out ?_
    | with_reducible exact Keeps2.out ‹_›
    | with_reducible apply Keeps2.mk
    | with_reducible apply Keeps2.ite
    | with_reducible refine Keeps2.foldl ?_ (fun _ _ _ => ?_)
    | with_reducible refine Keeps2.out ?_
    | with_reducible refine Keeps.foldl ?_ (fun _ _ _ => ?_)
    | split

/-- execLoopSupplyRetry keeps what every operation keeps. -/
theorem execLoopSupplyRetry_keeps {a s : State} {x0 x1} (h : Keeps a s) : EKeeps a (execLoopSupplyRetry x0 x1 s) := by
  unfold execLoopSupplyRetry
  repeat' first
    | with_reducible assumption
    | with_reducible refine EKeeps.done ?_
    | dsimp -zeta only
    | with_reducible apply Keeps.ite
    | with_reducible apply State.loopSet_keeps
    | with_reducible apply State.setF_keeps
    | split

/-- execAnalogueThermalLimit keeps what every operation keeps. -/
theorem execAnalogueThermalLimit_keeps {a s : State} {x0} (h : Keeps a s) : EKeeps a (execAnalogueThermalLimit x0 s) := by
  unfold execAnalogueThermalLimit
  repeat' first
    | with_reducible assumption
    | ((fail_if_no_progress extract_lets +onlyGivenNames t); refine (?_ : Keeps a t → _) ?_; (on_goal 2 => unfold t); (on_goal 1 => (clear_value t; intro _)))
    | ((fail_if_no_progress extract_lets +onlyGivenNames t); refine (?_ : Keeps2 a t → _) ?_; (on_goal 2 => unfold t); (on_goal 1 => (clear_value t; intro _)))
    | ((fail_if_no_progress extract_lets +onlyGivenNames t); refine (?_ : Keeps1 a t → _) ?_; (on_goal 2 => unfold t); (on_goal 1 => (clear_value t; intro _)))
    | ((fail_if_no_progress extract_lets +onlyGivenNames t); subst t)
    | with_reducible refine EKeeps.done ?_
    | dsimp -zeta only
    | with_reducible apply Keeps.ite
    | with_reducible apply State.setF_keeps
    | with_reducible apply State.loopSet_keeps
    | with_reducible exact Keeps1.out ‹_›
    | with_reducible apply Keeps1.mk
    | with_reducible apply Keeps1.ite
    | with_reducible refine Keeps1.foldl ?_ (fun _ _ _ => ?_)
    | with_reducible refine Keeps1.out ?_
    | with_reducible exact Keeps2.out ‹_›
    | with_reducible apply Keeps2.mk
    | with_reducible apply Keeps2.ite
    | with_reducible refine Keeps2.foldl ?_ (fun _ _ _ => ?_)
    | with_reducible refine Keeps2.out ?_
    | with_reducible refine Keeps.foldl ?_ (fun _ _ _ => ?_)
    | split

/-- execHartPoll keeps what every operation keeps. -/
theorem execHartPoll_keeps {a s : State} {x0} (h : Keeps a s) : EKeeps a (execHartPoll x0 s) := by
  unfold execHartPoll
  repeat' first
    | with_reducible assumption
    | ((fail_if_no_progress extract_lets +onlyGivenNames t); refine (?_ : Keeps a t → _) ?_; (on_goal 2 => unfold t); (on_goal 1 => (clear_value t; intro _)))
    | ((fail_if_no_progress extract_lets +onlyGivenNames t); subst t)
    | with_reducible refine EKeeps.done ?_
    | dsimp -zeta only
    | with_reducible apply Keeps.ite
    | with_reducible apply State.emit_keeps
    | with_reducible apply State.modHart_keeps
    | split

/-- execHartResponse keeps what every operation keeps. -/
theorem execHartResponse_keeps {a s : State} {x0 x1} (h : Keeps a s) : EKeeps a (execHartResponse x0 x1 s) := by
  unfold execHartResponse
  repeat' first
    | with_reducible assumption
    | with_reducible refine EKeeps.done ?_
    | dsimp -zeta only
    | with_reducible apply Keeps.ite
    | with_reducible apply State.hartMiss_keeps
    | with_reducible apply State.hartTake_keeps
    | split

/-- execHartBurstFrame keeps what every operation keeps. -/
theorem execHartBurstFrame_keeps {a s : State} {x0 x1} (h : Keeps a s) : EKeeps a (execHartBurstFrame x0 x1 s) := by
  unfold execHartBurstFrame
  repeat' first
    | with_reducible assumption
    | with_reducible refine EKeeps.done ?_
    | dsimp -zeta only
    | with_reducible apply Keeps.ite
    | with_reducible apply State.hartTake_keeps
    | split

/-- execHartModemLoopback keeps what every operation keeps. -/
theorem execHartModemLoopback_keeps {a s : State} {x0 x1} (h : Keeps a s) : EKeeps a (execHartModemLoopback x0 x1 s) := by
  unfold execHartModemLoopback
  repeat' first
    | with_reducible assumption
    | ((fail_if_no_progress extract_lets +onlyGivenNames t); refine (?_ : Keeps a t → _) ?_; (on_goal 2 => unfold t); (on_goal 1 => (clear_value t; intro _)))
    | ((fail_if_no_progress extract_lets +onlyGivenNames t); subst t)
    | with_reducible refine EKeeps.done ?_
    | dsimp -zeta only
    | with_reducible apply Keeps.ite
    | split
    | fail_if_no_progress (with_reducible refine Keeps.upd ?_ rfl rfl rfl rfl rfl rfl)

/-- execReadbackSample keeps what every operation keeps. -/
theorem execReadbackSample_keeps {a s : State} {x0} (h : Keeps a s) : EKeeps a (execReadbackSample x0 s) := by
  unfold execReadbackSample
  repeat' first
    | with_reducible assumption
    | with_reducible refine EKeeps.done ?_
    | dsimp -zeta only
    | with_reducible apply State.readbackAll_keeps

/-- execRbfailClear keeps what every operation keeps. -/
theorem execRbfailClear_keeps {a s : State} {x0} (h : Keeps a s) : EKeeps a (execRbfailClear x0 s) := by
  unfold execRbfailClear
  repeat' first
    | with_reducible assumption
    | with_reducible refine EKeeps.done ?_
    | dsimp -zeta only
    | with_reducible refine State.written_keeps (fun s h => ?_) ?_
    | with_reducible apply State.cmdRbfailClear_keeps

/-- execReadbackConverterSelfTest keeps what every operation keeps. -/
theorem execReadbackConverterSelfTest_keeps {a s : State} {x0} (h : Keeps a s) : EKeeps a (execReadbackConverterSelfTest x0 s) := by
  unfold execReadbackConverterSelfTest
  repeat' first
    | with_reducible assumption
    | ((fail_if_no_progress extract_lets +onlyGivenNames t); refine (?_ : Keeps a t → _) ?_; (on_goal 2 => unfold t); (on_goal 1 => (clear_value t; intro _)))
    | ((fail_if_no_progress extract_lets +onlyGivenNames t); subst t)
    | with_reducible refine EKeeps.done ?_
    | dsimp -zeta only
    | with_reducible apply Keeps.ite
    | split
    | fail_if_no_progress (with_reducible refine Keeps.upd ?_ rfl rfl rfl rfl rfl rfl)

/-- execSfyValackWrite keeps what every operation keeps. -/
theorem execSfyValackWrite_keeps {a s : State} {x0 x1} (h : Keeps a s) : EKeeps a (execSfyValackWrite x0 x1 s) := by
  unfold execSfyValackWrite
  repeat' first
    | with_reducible assumption
    | with_reducible refine EKeeps.done ?_
    | dsimp -zeta only
    | with_reducible refine State.written_keeps (fun s h => ?_) ?_
    | with_reducible apply State.cmdSfyValackWrite_keeps

/-- execStationInput keeps what every operation keeps. -/
theorem execStationInput_keeps {a s : State} {x0 x1} (h : Keeps a s) : EKeeps a (execStationInput x0 x1 s) := by
  unfold execStationInput
  repeat' first
    | with_reducible assumption
    | ((fail_if_no_progress extract_lets +onlyGivenNames t); refine (?_ : Keeps a t → _) ?_; (on_goal 2 => unfold t); (on_goal 1 => (clear_value t; intro _)))
    | ((fail_if_no_progress extract_lets +onlyGivenNames t); refine (?_ : Keeps2 a t → _) ?_; (on_goal 2 => unfold t); (on_goal 1 => (clear_value t; intro _)))
    | ((fail_if_no_progress extract_lets +onlyGivenNames t); subst t)
    | with_reducible refine EKeeps.done ?_
    | dsimp -zeta only
    | with_reducible apply Keeps.ite
    | with_reducible apply State.fspTake_keeps
    | with_reducible refine Keeps2.out (State.fspTake_keeps ?_)
    | with_reducible apply State.heReport_keeps
    | with_reducible apply State.bump_keeps
    | with_reducible apply State.report_keeps
    | with_reducible apply State.setF_keeps
    | with_reducible apply State.setB_keeps
    | with_reducible apply State.staInput_keeps
    | with_reducible apply State.modSta_keeps
    | with_reducible apply State.staValues_keeps
    | with_reducible exact Keeps2.out ‹_›
    | with_reducible apply Keeps2.mk
    | with_reducible apply Keeps2.ite
    | split
    | with_reducible refine Keeps.of2 ‹_› ?_

/-- execStationEvent keeps what every operation keeps. -/
theorem execStationEvent_keeps {a s : State} {x0 x1} (h : Keeps a s) : EKeeps a (execStationEvent x0 x1 s) := by
  unfold execStationEvent
  repeat' first
    | with_reducible assumption
    | ((fail_if_no_progress extract_lets +onlyGivenNames t); refine (?_ : Keeps a t → _) ?_; (on_goal 2 => unfold t); (on_goal 1 => (clear_value t; intro _)))
    | ((fail_if_no_progress extract_lets +onlyGivenNames t); refine (?_ : Keeps2 a t → _) ?_; (on_goal 2 => unfold t); (on_goal 1 => (clear_value t; intro _)))
    | ((fail_if_no_progress extract_lets +onlyGivenNames t); refine (?_ : Keeps1 a t → _) ?_; (on_goal 2 => unfold t); (on_goal 1 => (clear_value t; intro _)))
    | ((fail_if_no_progress extract_lets +onlyGivenNames t); subst t)
    | with_reducible refine EKeeps.done ?_
    | dsimp -zeta only
    | with_reducible apply State.fspTake_keeps
    | with_reducible refine Keeps2.out (State.fspTake_keeps ?_)
    | with_reducible apply State.trigger_keeps
    | with_reducible exact Keeps2.out ‹_›
    | with_reducible apply Keeps2.mk
    | with_reducible refine Keeps2.foldl ?_ (fun _ _ _ => ?_)
    | with_reducible refine Keeps2.out ?_
    | with_reducible refine Keeps.foldl ?_ (fun _ _ _ => ?_)
    | split
    | with_reducible refine Keeps.of2 ‹_› ?_

/-- execConfack keeps what every operation keeps. -/
theorem execConfack_keeps {a s : State} {x0 x1} (h : Keeps a s) : EKeeps a (execConfack x0 x1 s) := by
  unfold execConfack
  repeat' first
    | with_reducible assumption
    | ((fail_if_no_progress extract_lets +onlyGivenNames t); refine (?_ : Keeps a t → _) ?_; (on_goal 2 => unfold t); (on_goal 1 => (clear_value t; intro _)))
    | ((fail_if_no_progress extract_lets +onlyGivenNames t); refine (?_ : Keeps2 a t → _) ?_; (on_goal 2 => unfold t); (on_goal 1 => (clear_value t; intro _)))
    | ((fail_if_no_progress extract_lets +onlyGivenNames t); subst t)
    | with_reducible refine EKeeps.done ?_
    | dsimp -zeta only
    | with_reducible apply Keeps.ite
    | with_reducible apply State.fspTake_keeps
    | with_reducible refine Keeps2.out (State.fspTake_keeps ?_)
    | with_reducible apply State.setF_keeps
    | with_reducible exact Keeps2.out ‹_›
    | with_reducible apply Keeps2.mk
    | with_reducible apply Keeps2.ite
    | split
    | with_reducible refine Keeps.of2 ‹_› ?_

/-- execConfigRetry keeps what every operation keeps. -/
theorem execConfigRetry_keeps {a s : State} {x0} (h : Keeps a s) : EKeeps a (execConfigRetry x0 s) := by
  unfold execConfigRetry
  repeat' first
    | with_reducible assumption
    | with_reducible refine EKeeps.done ?_
    | dsimp -zeta only
    | with_reducible apply Keeps.ite
    | with_reducible refine State.powered_keeps ?_ (fun _ _ => ?_)
    | with_reducible apply State.sendConfig_keeps
    | split

/-- execIwdtExpiry keeps what every operation keeps. -/
theorem execIwdtExpiry_keeps {a s : State} {x0} (h : Keeps a s) : EKeeps a (execIwdtExpiry x0 s) := by
  unfold execIwdtExpiry
  repeat' first
    | with_reducible assumption
    | ((fail_if_no_progress extract_lets +onlyGivenNames t); refine (?_ : Keeps a t → _) ?_; (on_goal 2 => unfold t); (on_goal 1 => (clear_value t; intro _)))
    | ((fail_if_no_progress extract_lets +onlyGivenNames t); subst t)
    | with_reducible refine EKeeps.done ?_
    | dsimp -zeta only
    | with_reducible apply Keeps.ite
    | with_reducible refine State.powered_keeps ?_ (fun _ _ => ?_)
    | with_reducible apply State.bump_keeps
    | with_reducible apply State.modSta_keeps
    | with_reducible apply State.setF_keeps
    | with_reducible apply State.report_keeps
    | split

/-- execStationModeMissed keeps what every operation keeps. -/
theorem execStationModeMissed_keeps {a s : State} {x0 x1 x2} (h : Keeps a s) : EKeeps a (execStationModeMissed x0 x1 x2 s) := by
  unfold execStationModeMissed
  repeat' first
    | with_reducible assumption
    | ((fail_if_no_progress extract_lets +onlyGivenNames t); refine (?_ : Keeps a t → _) ?_; (on_goal 2 => unfold t); (on_goal 1 => (clear_value t; intro _)))
    | ((fail_if_no_progress extract_lets +onlyGivenNames t); subst t)
    | with_reducible refine EKeeps.done ?_
    | dsimp -zeta only
    | with_reducible apply Keeps.ite
    | with_reducible apply State.report_keeps
    | with_reducible apply State.modSta_keeps
    | with_reducible apply State.setF_keeps
    | split

/-- execModeChangeResend keeps what every operation keeps. -/
theorem execModeChangeResend_keeps {a s : State} {x0} (h : Keeps a s) : EKeeps a (execModeChangeResend x0 s) := by
  unfold execModeChangeResend
  repeat' first
    | with_reducible assumption
    | ((fail_if_no_progress extract_lets +onlyGivenNames t); refine (?_ : Keeps a t → _) ?_; (on_goal 2 => unfold t); (on_goal 1 => (clear_value t; intro _)))
    | ((fail_if_no_progress extract_lets +onlyGivenNames t); subst t)
    | with_reducible refine EKeeps.done ?_
    | dsimp -zeta only
    | with_reducible apply Keeps.ite
    | with_reducible apply State.fspSend_keeps
    | with_reducible apply State.modSta_keeps
    | split

/-- execModewaitExpiry keeps what every operation keeps. -/
theorem execModewaitExpiry_keeps {a s : State} {x0} (h : Keeps a s) : EKeeps a (execModewaitExpiry x0 s) := by
  unfold execModewaitExpiry
  repeat' first
    | with_reducible assumption
    | ((fail_if_no_progress extract_lets +onlyGivenNames t); refine (?_ : Keeps a t → _) ?_; (on_goal 2 => unfold t); (on_goal 1 => (clear_value t; intro _)))
    | ((fail_if_no_progress extract_lets +onlyGivenNames t); subst t)
    | with_reducible refine EKeeps.done ?_
    | dsimp -zeta only
    | with_reducible apply Keeps.ite
    | with_reducible apply State.modSta_keeps
    | split

/-- execHoldOutputRepeat keeps what every operation keeps. -/
theorem execHoldOutputRepeat_keeps {a s : State} (h : Keeps a s) : EKeeps a (execHoldOutputRepeat s) := by
  unfold execHoldOutputRepeat
  repeat' first
    | with_reducible assumption
    | ((fail_if_no_progress extract_lets +onlyGivenNames t); refine (?_ : Keeps a t → _) ?_; (on_goal 2 => unfold t); (on_goal 1 => (clear_value t; intro _)))
    | ((fail_if_no_progress extract_lets +onlyGivenNames t); refine (?_ : Keeps2 a t → _) ?_; (on_goal 2 => unfold t); (on_goal 1 => (clear_value t; intro _)))
    | ((fail_if_no_progress extract_lets +onlyGivenNames t); refine (?_ : Keeps1 a t → _) ?_; (on_goal 2 => unfold t); (on_goal 1 => (clear_value t; intro _)))
    | ((fail_if_no_progress extract_lets +onlyGivenNames t); subst t)
    | with_reducible refine EKeeps.done ?_
    | dsimp -zeta only
    | with_reducible apply Keeps.ite
    | with_reducible apply State.fspSend_keeps
    | with_reducible exact Keeps1.out ‹_›
    | with_reducible apply Keeps1.mk
    | with_reducible apply Keeps1.ite
    | with_reducible refine Keeps1.foldl ?_ (fun _ _ _ => ?_)
    | with_reducible refine Keeps1.out ?_
    | with_reducible exact Keeps2.out ‹_›
    | with_reducible apply Keeps2.mk
    | with_reducible apply Keeps2.ite
    | with_reducible refine Keeps2.foldl ?_ (fun _ _ _ => ?_)
    | with_reducible refine Keeps2.out ?_
    | with_reducible refine Keeps.foldl ?_ (fun _ _ _ => ?_)
    | split
    | fail_if_no_progress (with_reducible refine Keeps.upd ?_ rfl rfl rfl rfl rfl rfl)

/-- execBeacon keeps what every operation keeps. -/
theorem execBeacon_keeps {a s : State} {x0} (h : Keeps a s) : EKeeps a (execBeacon x0 s) := by
  unfold execBeacon
  repeat' first
    | with_reducible assumption
    | with_reducible refine EKeeps.done ?_
    | dsimp -zeta only
    | with_reducible apply Keeps.ite
    | with_reducible apply State.fspSend_keeps
    | with_reducible exact Keeps1.out ‹_›
    | with_reducible apply Keeps1.mk
    | with_reducible apply Keeps1.ite
    | with_reducible refine Keeps1.foldl ?_ (fun _ _ _ => ?_)
    | with_reducible refine Keeps1.out ?_
    | with_reducible exact Keeps2.out ‹_›
    | with_reducible apply Keeps2.mk
    | with_reducible apply Keeps2.ite
    | with_reducible refine Keeps2.foldl ?_ (fun _ _ _ => ?_)
    | with_reducible refine Keeps2.out ?_
    | with_reducible refine Keeps.foldl ?_ (fun _ _ _ => ?_)
    | split

/-- execPeerFrame keeps what every operation keeps. -/
theorem execPeerFrame_keeps {a s : State} {x0 x1} (h : Keeps a s) : EKeeps a (execPeerFrame x0 x1 s) := by
  unfold execPeerFrame
  repeat' first
    | with_reducible assumption
    | ((fail_if_no_progress extract_lets +onlyGivenNames t); refine (?_ : Keeps a t → _) ?_; (on_goal 2 => unfold t); (on_goal 1 => (clear_value t; intro _)))
    | ((fail_if_no_progress extract_lets +onlyGivenNames t); refine (?_ : Keeps2 a t → _) ?_; (on_goal 2 => unfold t); (on_goal 1 => (clear_value t; intro _)))
    | ((fail_if_no_progress extract_lets +onlyGivenNames t); subst t)
    | with_reducible refine EKeeps.done ?_
    | dsimp -zeta only
    | with_reducible apply Keeps.ite
    | with_reducible apply State.fspTake_keeps
    | with_reducible refine Keeps2.out (State.fspTake_keeps ?_)
    | with_reducible apply State.bump_keeps
    | with_reducible apply State.latchRefusal_keeps
    | with_reducible exact Keeps2.out ‹_›
    | with_reducible apply Keeps2.mk
    | with_reducible apply Keeps2.ite
    | split
    | with_reducible refine Keeps.of2 ‹_› ?_
    | fail_if_no_progress (with_reducible refine Keeps.upd ?_ rfl rfl rfl rfl rfl rfl)

/-- execPeerWatchdogExpiry keeps what every operation keeps. -/
theorem execPeerWatchdogExpiry_keeps {a s : State} {x0} (h : Keeps a s) : EKeeps a (execPeerWatchdogExpiry x0 s) := by
  unfold execPeerWatchdogExpiry
  repeat' first
    | with_reducible assumption
    | ((fail_if_no_progress extract_lets +onlyGivenNames t); refine (?_ : Keeps a t → _) ?_; (on_goal 2 => unfold t); (on_goal 1 => (clear_value t; intro _)))
    | ((fail_if_no_progress extract_lets +onlyGivenNames t); subst t)
    | with_reducible refine EKeeps.done ?_
    | dsimp -zeta only
    | with_reducible refine State.powered_keeps ?_ (fun _ _ => ?_)
    | with_reducible apply State.report_keeps
    | split
    | fail_if_no_progress (with_reducible refine Keeps.upd ?_ rfl rfl rfl rfl rfl rfl)

/-- execPtpSync keeps what every operation keeps, but for the tick. -/
theorem execPtpSync_keeps {a s : State} {x0 x1} (h : Keeps a s) : EKeepsB a (execPtpSync x0 x1 s) := by
  unfold execPtpSync
  refine EKeepsB.done ?_
  unfold State.powered
  split
  · exact KeepsB.of h
  dsimp only
  have k : KeepsB a (if (decide (s.getF PAR_STAT_STATE = 0) && !s.plant.stepped && decide (s.getF TIM_STAT_ACTIVE = b2n x0)) = true then
      { s with now := ((s.now : Int) + x1).toNat, tick := ((s.now : Int) + x1).toNat / 62500, plant := { s.plant with stepped := true } } else s) := by
    split
    · exact ⟨((s.now : Int) + x1).toNat / 62500, Keeps.upd (h.setTick _) rfl rfl rfl rfl rfl rfl⟩
    · exact KeepsB.of h
  generalize (if (decide (s.getF PAR_STAT_STATE = 0) && !s.plant.stepped && decide (s.getF TIM_STAT_ACTIVE = b2n x0)) = true then
      { s with now := ((s.now : Int) + x1).toNat, tick := ((s.now : Int) + x1).toNat / 62500, plant := { s.plant with stepped := true } } else s) = u at *
  refine k.step fun x k => ?_
  repeat' first
    | with_reducible assumption
    | with_reducible apply Keeps.ite
    | with_reducible apply State.modDom_keeps
    | with_reducible apply State.setF_keeps
    | with_reducible apply State.domCheck_keeps
    | with_reducible apply State.boundary_keeps

/-- execPtpDomainLost keeps what every operation keeps. -/
theorem execPtpDomainLost_keeps {a s : State} {x0} (h : Keeps a s) : EKeeps a (execPtpDomainLost x0 s) := by
  unfold execPtpDomainLost
  repeat' first
    | with_reducible assumption
    | ((fail_if_no_progress extract_lets +onlyGivenNames t); refine (?_ : Keeps a t → _) ?_; (on_goal 2 => unfold t); (on_goal 1 => (clear_value t; intro _)))
    | ((fail_if_no_progress extract_lets +onlyGivenNames t); subst t)
    | with_reducible refine EKeeps.done ?_
    | dsimp -zeta only
    | with_reducible apply Keeps.ite
    | with_reducible refine State.powered_keeps ?_ (fun _ _ => ?_)
    | with_reducible apply State.modDom_keeps
    | with_reducible apply State.setF_keeps
    | with_reducible apply State.report_keeps
    | with_reducible apply State.domCheck_keeps
    | split

/-- execPtpAnnounce keeps what every operation keeps. -/
theorem execPtpAnnounce_keeps {a s : State} {x0 x1} (h : Keeps a s) : EKeeps a (execPtpAnnounce x0 x1 s) := by
  unfold execPtpAnnounce
  repeat' first
    | with_reducible assumption
    | ((fail_if_no_progress extract_lets +onlyGivenNames t); refine (?_ : Keeps a t → _) ?_; (on_goal 2 => unfold t); (on_goal 1 => (clear_value t; intro _)))
    | ((fail_if_no_progress extract_lets +onlyGivenNames t); subst t)
    | with_reducible refine EKeeps.done ?_
    | dsimp -zeta only
    | with_reducible refine State.powered_keeps ?_ (fun _ _ => ?_)
    | with_reducible apply State.boundary_keeps
    | with_reducible apply State.modDom_keeps

/-- execDomainSwitchBack keeps what every operation keeps. -/
theorem execDomainSwitchBack_keeps {a s : State} (h : Keeps a s) : EKeeps a (execDomainSwitchBack s) := by
  unfold execDomainSwitchBack
  repeat' first
    | with_reducible assumption
    | ((fail_if_no_progress extract_lets +onlyGivenNames t); refine (?_ : Keeps a t → _) ?_; (on_goal 2 => unfold t); (on_goal 1 => (clear_value t; intro _)))
    | ((fail_if_no_progress extract_lets +onlyGivenNames t); subst t)
    | with_reducible refine EKeeps.done ?_
    | dsimp -zeta only
    | with_reducible apply Keeps.ite
    | with_reducible refine State.powered_keeps ?_ (fun _ _ => ?_)
    | with_reducible apply State.domChoose_keeps
    | split

/-- execDomainSplit keeps what every operation keeps. -/
theorem execDomainSplit_keeps {a s : State} {x0} (h : Keeps a s) : EKeeps a (execDomainSplit x0 s) := by
  unfold execDomainSplit
  repeat' first
    | with_reducible assumption
    | with_reducible refine EKeeps.done ?_
    | dsimp -zeta only
    | with_reducible apply Keeps.ite
    | with_reducible refine State.powered_keeps ?_ (fun _ _ => ?_)
    | with_reducible apply State.evHw_keeps
    | with_reducible apply State.setF_keeps
    | split

/-- execTimSwitch keeps what every operation keeps. -/
theorem execTimSwitch_keeps {a s : State} {x0} (h : Keeps a s) : EKeeps a (execTimSwitch x0 s) := by
  unfold execTimSwitch
  repeat' first
    | with_reducible assumption
    | with_reducible refine EKeeps.done ?_
    | dsimp -zeta only
    | with_reducible refine State.written_keeps (fun s h => ?_) ?_
    | with_reducible apply State.cmdTimSwitch_keeps

/-- execPnePortcfgWrite keeps what every operation keeps. -/
theorem execPnePortcfgWrite_keeps {a s : State} {x0 x1} (h : Keeps a s) : EKeeps a (execPnePortcfgWrite x0 x1 s) := by
  unfold execPnePortcfgWrite
  repeat' first
    | with_reducible assumption
    | with_reducible refine EKeeps.done ?_
    | dsimp -zeta only
    | with_reducible refine State.written_keeps (fun s h => ?_) ?_
    | with_reducible apply State.cmdPnePortcfgWrite_keeps

/-- execPlantLinkUpDown keeps what every operation keeps. -/
theorem execPlantLinkUpDown_keeps {a s : State} {x0 x1 x2} (h : Keeps a s) : EKeeps a (execPlantLinkUpDown x0 x1 x2 s) := by
  unfold execPlantLinkUpDown
  repeat' first
    | with_reducible assumption
    | with_reducible refine EKeeps.done ?_
    | dsimp -zeta only
    | with_reducible apply Keeps.ite
    | with_reducible refine State.powered_keeps ?_ (fun _ _ => ?_)
    | with_reducible apply State.setF_keeps
    | with_reducible apply State.setB_keeps
    | split

/-- execPulseArm keeps what every operation keeps. -/
theorem execPulseArm_keeps {a s : State} {x0} (h : Keeps a s) : EKeeps a (execPulseArm x0 s) := by
  unfold execPulseArm
  repeat' first
    | with_reducible assumption
    | with_reducible refine EKeeps.done ?_
    | dsimp -zeta only
    | with_reducible refine State.written_keeps (fun s h => ?_) ?_
    | with_reducible apply State.cmdPulseArm_keeps

/-- execPulseStop keeps what every operation keeps. -/
theorem execPulseStop_keeps {a s : State} {x0} (h : Keeps a s) : EKeeps a (execPulseStop x0 s) := by
  unfold execPulseStop
  repeat' first
    | with_reducible assumption
    | with_reducible refine EKeeps.done ?_
    | dsimp -zeta only
    | with_reducible refine State.written_keeps (fun s h => ?_) ?_
    | with_reducible apply State.cmdPulseStop_keeps

/-- execPulseTrainEnd keeps what every operation keeps. -/
theorem execPulseTrainEnd_keeps {a s : State} {x0} (h : Keeps a s) : EKeeps a (execPulseTrainEnd x0 s) := by
  unfold execPulseTrainEnd
  repeat' first
    | with_reducible assumption
    | ((fail_if_no_progress extract_lets +onlyGivenNames t); refine (?_ : Keeps a t → _) ?_; (on_goal 2 => unfold t); (on_goal 1 => (clear_value t; intro _)))
    | ((fail_if_no_progress extract_lets +onlyGivenNames t); subst t)
    | with_reducible refine EKeeps.done ?_
    | dsimp -zeta only
    | with_reducible apply Keeps.ite
    | with_reducible apply State.setF_keeps
    | split
    | fail_if_no_progress (with_reducible refine Keeps.upd ?_ rfl rfl rfl rfl rfl rfl)

/-- execTioCaptureEdge keeps what every operation keeps. -/
theorem execTioCaptureEdge_keeps {a s : State} {x0 x1 x2} (h : Keeps a s) : EKeeps a (execTioCaptureEdge x0 x1 x2 s) := by
  unfold execTioCaptureEdge
  repeat' first
    | with_reducible assumption
    | ((fail_if_no_progress extract_lets +onlyGivenNames t); refine (?_ : Keeps a t → _) ?_; (on_goal 2 => unfold t); (on_goal 1 => (clear_value t; intro _)))
    | ((fail_if_no_progress extract_lets +onlyGivenNames t); subst t)
    | with_reducible refine EKeeps.done ?_
    | dsimp -zeta only
    | with_reducible apply Keeps.ite
    | with_reducible apply State.capPut_keeps
    | with_reducible apply State.trigger_keeps
    | with_reducible apply State.measStop_keeps
    | split
    | fail_if_no_progress (with_reducible refine Keeps.upd ?_ rfl rfl rfl rfl rfl rfl)

/-- execDioEdgetailWrite keeps what every operation keeps. -/
theorem execDioEdgetailWrite_keeps {a s : State} {x0 x1} (h : Keeps a s) : EKeeps a (execDioEdgetailWrite x0 x1 s) := by
  unfold execDioEdgetailWrite
  repeat' first
    | with_reducible assumption
    | with_reducible refine EKeeps.done ?_
    | dsimp -zeta only
    | with_reducible refine State.written_keeps (fun s h => ?_) ?_
    | with_reducible apply State.tailWrite_keeps

/-- execTimCapcfgTailWrite keeps what every operation keeps. -/
theorem execTimCapcfgTailWrite_keeps {a s : State} {x0 x1} (h : Keeps a s) : EKeeps a (execTimCapcfgTailWrite x0 x1 s) := by
  unfold execTimCapcfgTailWrite
  repeat' first
    | with_reducible assumption
    | with_reducible refine EKeeps.done ?_
    | dsimp -zeta only
    | with_reducible refine State.written_keeps (fun s h => ?_) ?_
    | with_reducible apply State.tailWrite_keeps

/-- execCanRxtailWrite keeps what every operation keeps. -/
theorem execCanRxtailWrite_keeps {a s : State} {x0 x1} (h : Keeps a s) : EKeeps a (execCanRxtailWrite x0 x1 s) := by
  unfold execCanRxtailWrite
  repeat' first
    | with_reducible assumption
    | with_reducible refine EKeeps.done ?_
    | dsimp -zeta only
    | with_reducible refine State.written_keeps (fun s h => ?_) ?_
    | with_reducible apply State.tailWrite_keeps

/-- execFslPduReceive keeps what every operation keeps. -/
theorem execFslPduReceive_keeps {a s : State} {x0 x1} (h : Keeps a s) : EKeeps a (execFslPduReceive x0 x1 s) := by
  unfold execFslPduReceive
  repeat' first
    | with_reducible assumption
    | with_reducible refine EKeeps.done ?_
    | dsimp -zeta only
    | with_reducible refine State.powered_keeps ?_ (fun _ _ => ?_)
    | with_reducible apply State.pduTake_keeps
    | split

/-- execFslWatchdogExpiry keeps what every operation keeps. -/
theorem execFslWatchdogExpiry_keeps {a s : State} {x0} (h : Keeps a s) : EKeeps a (execFslWatchdogExpiry x0 s) := by
  unfold execFslWatchdogExpiry
  repeat' first
    | with_reducible assumption
    | ((fail_if_no_progress extract_lets +onlyGivenNames t); refine (?_ : Keeps a t → _) ?_; (on_goal 2 => unfold t); (on_goal 1 => (clear_value t; intro _)))
    | ((fail_if_no_progress extract_lets +onlyGivenNames t); subst t)
    | with_reducible refine EKeeps.done ?_
    | dsimp -zeta only
    | with_reducible apply Keeps.ite
    | with_reducible refine State.powered_keeps ?_ (fun _ _ => ?_)
    | with_reducible apply State.modConn_keeps
    | with_reducible apply State.setF_keeps
    | with_reducible apply State.fnJudgeAll_keeps
    | with_reducible apply State.report_keeps
    | with_reducible apply State.bump_keeps
    | split

/-- execCyclicRelease keeps what every operation keeps. -/
theorem execCyclicRelease_keeps {a s : State} {x0} (h : Keeps a s) : EKeeps a (execCyclicRelease x0 s) := by
  unfold execCyclicRelease
  repeat' first
    | with_reducible assumption
    | ((fail_if_no_progress extract_lets +onlyGivenNames t); refine (?_ : Keeps a t → _) ?_; (on_goal 2 => unfold t); (on_goal 1 => (clear_value t; intro _)))
    | ((fail_if_no_progress extract_lets +onlyGivenNames t); subst t)
    | with_reducible refine EKeeps.done ?_
    | dsimp -zeta only
    | with_reducible apply Keeps.ite
    | with_reducible apply State.setF_keeps
    | with_reducible apply State.releaseOrStop_keeps
    | split

/-- execDeferredRelease keeps what every operation keeps. -/
theorem execDeferredRelease_keeps {a s : State} {x0} (h : Keeps a s) : EKeeps a (execDeferredRelease x0 s) := by
  unfold execDeferredRelease
  repeat' first
    | with_reducible assumption
    | ((fail_if_no_progress extract_lets +onlyGivenNames t); refine (?_ : Keeps a t → _) ?_; (on_goal 2 => unfold t); (on_goal 1 => (clear_value t; intro _)))
    | ((fail_if_no_progress extract_lets +onlyGivenNames t); subst t)
    | with_reducible refine EKeeps.done ?_
    | dsimp -zeta only
    | with_reducible apply Keeps.ite
    | with_reducible apply State.releaseOrStop_keeps
    | with_reducible apply State.modTask_keeps
    | with_reducible apply State.setF_keeps
    | with_reducible apply State.setB_keeps
    | split

/-- execEventRelease keeps what every operation keeps. -/
theorem execEventRelease_keeps {a s : State} {x0} (h : Keeps a s) : EKeeps a (execEventRelease x0 s) := by
  unfold execEventRelease
  repeat' first
    | with_reducible assumption
    | with_reducible refine EKeeps.done ?_
    | dsimp -zeta only
    | with_reducible apply State.eventRelease_keeps

/-- execCycleLate keeps what every operation keeps. -/
theorem execCycleLate_keeps {a s : State} {x0} (h : Keeps a s) : EKeeps a (execCycleLate x0 s) := by
  unfold execCycleLate
  repeat' first
    | with_reducible assumption
    | ((fail_if_no_progress extract_lets +onlyGivenNames t); refine (?_ : Keeps a t → _) ?_; (on_goal 2 => unfold t); (on_goal 1 => (clear_value t; intro _)))
    | ((fail_if_no_progress extract_lets +onlyGivenNames t); subst t)
    | with_reducible refine EKeeps.done ?_
    | dsimp -zeta only
    | with_reducible apply Keeps.ite
    | with_reducible apply State.bump_keeps
    | with_reducible apply State.setF_keeps
    | with_reducible apply State.putRun_keeps
    | with_reducible apply State.modTask_keeps
    | split

/-- execFurtherGridTickOverrun keeps what every operation keeps. -/
theorem execFurtherGridTickOverrun_keeps {a s : State} {x0} (h : Keeps a s) : EKeeps a (execFurtherGridTickOverrun x0 s) := by
  unfold execFurtherGridTickOverrun
  repeat' first
    | with_reducible assumption
    | ((fail_if_no_progress extract_lets +onlyGivenNames t); refine (?_ : Keeps a t → _) ?_; (on_goal 2 => unfold t); (on_goal 1 => (clear_value t; intro _)))
    | ((fail_if_no_progress extract_lets +onlyGivenNames t); subst t)
    | with_reducible refine EKeeps.done ?_
    | dsimp -zeta only
    | with_reducible apply Keeps.ite
    | with_reducible apply State.wdStop_keeps
    | with_reducible apply State.bump_keeps
    | with_reducible apply State.modTask_keeps
    | with_reducible apply State.report_keeps
    | with_reducible apply State.dropActs_keeps
    | split

/-- execTaskStart keeps what every operation keeps. -/
theorem execTaskStart_keeps {a s : State} {x0 x1} (h : Keeps a s) : EKeeps a (execTaskStart x0 x1 s) := by
  unfold execTaskStart
  repeat' first
    | with_reducible assumption
    | with_reducible refine EKeeps.done ?_
    | dsimp -zeta only
    | with_reducible refine State.written_keeps (fun s h => ?_) ?_
    | with_reducible apply State.taskCmd_keeps

/-- execTaskStop keeps what every operation keeps. -/
theorem execTaskStop_keeps {a s : State} {x0 x1} (h : Keeps a s) : EKeeps a (execTaskStop x0 x1 s) := by
  unfold execTaskStop
  repeat' first
    | with_reducible assumption
    | with_reducible refine EKeeps.done ?_
    | dsimp -zeta only
    | with_reducible refine State.written_keeps (fun s h => ?_) ?_
    | with_reducible apply State.taskCmd_keeps

/-- execTaskActivate keeps what every operation keeps. -/
theorem execTaskActivate_keeps {a s : State} {x0 x1} (h : Keeps a s) : EKeeps a (execTaskActivate x0 x1 s) := by
  unfold execTaskActivate
  repeat' first
    | with_reducible assumption
    | with_reducible refine EKeeps.done ?_
    | dsimp -zeta only
    | with_reducible refine State.written_keeps (fun s h => ?_) ?_
    | with_reducible apply State.taskCmd_keeps

/-- execTaskCancel keeps what every operation keeps. -/
theorem execTaskCancel_keeps {a s : State} {x0 x1} (h : Keeps a s) : EKeeps a (execTaskCancel x0 x1 s) := by
  unfold execTaskCancel
  repeat' first
    | with_reducible assumption
    | with_reducible refine EKeeps.done ?_
    | dsimp -zeta only
    | with_reducible refine State.written_keeps (fun s h => ?_) ?_
    | with_reducible apply State.taskCmd_keeps

/-- execEventActivation keeps what every operation keeps. -/
theorem execEventActivation_keeps {a s : State} {x0 x1} (h : Keeps a s) : EKeeps a (execEventActivation x0 x1 s) := by
  unfold execEventActivation
  repeat' first
    | with_reducible assumption
    | with_reducible refine EKeeps.done ?_
    | dsimp -zeta only
    | with_reducible apply State.ask_keeps

/-- execXcpDispResume keeps what every operation keeps. -/
theorem execXcpDispResume_keeps {a s : State} {x0} (h : Keeps a s) : EKeeps a (execXcpDispResume x0 s) := by
  unfold execXcpDispResume
  repeat' first
    | with_reducible assumption
    | with_reducible refine EKeeps.done ?_
    | dsimp -zeta only
    | with_reducible refine State.written_keeps (fun s h => ?_) ?_
    | with_reducible apply State.dispWrite_keeps

/-- execXcpDispAbort keeps what every operation keeps. -/
theorem execXcpDispAbort_keeps {a s : State} {x0} (h : Keeps a s) : EKeeps a (execXcpDispAbort x0 s) := by
  unfold execXcpDispAbort
  repeat' first
    | with_reducible assumption
    | with_reducible refine EKeeps.done ?_
    | dsimp -zeta only
    | with_reducible refine State.written_keeps (fun s h => ?_) ?_
    | with_reducible apply State.dispWrite_keeps

/-- execDispositionDeadline keeps what every operation keeps. -/
theorem execDispositionDeadline_keeps {a s : State} {x0} (h : Keeps a s) : EKeeps a (execDispositionDeadline x0 s) := by
  unfold execDispositionDeadline
  repeat' first
    | with_reducible assumption
    | with_reducible refine EKeeps.done ?_
    | dsimp -zeta only
    | with_reducible apply Keeps.ite
    | with_reducible apply State.abortXcp_keeps
    | split

/-- execErrorTaskDelivery keeps what every operation keeps. -/
theorem execErrorTaskDelivery_keeps {a s : State} (h : Keeps a s) : EKeeps a (execErrorTaskDelivery s) := by
  unfold execErrorTaskDelivery
  repeat' first
    | with_reducible assumption
    | with_reducible refine EKeeps.done ?_
    | dsimp -zeta only
    | with_reducible apply State.eventRelease_keeps
    | split

/-- execCommit keeps what every operation keeps. -/
theorem execCommit_keeps {a s : State} {x0 x1} (h : Keeps a s) : EKeeps a (execCommit x0 x1 s) := by
  unfold execCommit
  repeat' first
    | with_reducible assumption
    | with_reducible refine EKeeps.done ?_
    | dsimp -zeta only
    | with_reducible apply State.commitTask_keeps
    | with_reducible exact Keeps1.out ‹_›
    | with_reducible apply Keeps1.mk
    | with_reducible refine Keeps1.foldl ?_ (fun _ _ _ => ?_)
    | with_reducible refine Keeps1.out ?_
    | with_reducible exact Keeps2.out ‹_›
    | with_reducible apply Keeps2.mk
    | with_reducible refine Keeps2.foldl ?_ (fun _ _ _ => ?_)
    | with_reducible refine Keeps2.out ?_
    | with_reducible refine Keeps.foldl ?_ (fun _ _ _ => ?_)

/-- execSpecRunStart keeps what every operation keeps. -/
theorem execSpecRunStart_keeps {a s : State} {x0} (h : Keeps a s) : EKeeps a (execSpecRunStart x0 s) := by
  unfold execSpecRunStart
  repeat' first
    | with_reducible assumption
    | ((fail_if_no_progress extract_lets +onlyGivenNames t); refine (?_ : Keeps a t → _) ?_; (on_goal 2 => unfold t); (on_goal 1 => (clear_value t; intro _)))
    | ((fail_if_no_progress extract_lets +onlyGivenNames t); subst t)
    | with_reducible refine EKeeps.done ?_
    | dsimp -zeta only
    | with_reducible apply Keeps.ite
    | with_reducible apply State.specState_keeps
    | with_reducible apply State.putRun_keeps
    | split

/-- execSpecUndone keeps what every operation keeps. -/
theorem execSpecUndone_keeps {a s : State} {x0} (h : Keeps a s) : EKeeps a (execSpecUndone x0 s) := by
  unfold execSpecUndone
  repeat' first
    | with_reducible assumption
    | ((fail_if_no_progress extract_lets +onlyGivenNames t); refine (?_ : Keeps a t → _) ?_; (on_goal 2 => unfold t); (on_goal 1 => (clear_value t; intro _)))
    | ((fail_if_no_progress extract_lets +onlyGivenNames t); subst t)
    | with_reducible refine EKeeps.done ?_
    | dsimp -zeta only
    | with_reducible apply Keeps.ite
    | with_reducible apply State.settle_keeps
    | with_reducible apply State.specEnd_keeps
    | split

/-- execSpecDecision keeps what every operation keeps. -/
theorem execSpecDecision_keeps {a s : State} {x0 x1} (h : Keeps a s) : EKeeps a (execSpecDecision x0 x1 s) := by
  unfold execSpecDecision
  repeat' first
    | with_reducible assumption
    | ((fail_if_no_progress extract_lets +onlyGivenNames t); refine (?_ : Keeps a t → _) ?_; (on_goal 2 => unfold t); (on_goal 1 => (clear_value t; intro _)))
    | ((fail_if_no_progress extract_lets +onlyGivenNames t); subst t)
    | with_reducible refine EKeeps.done ?_
    | dsimp -zeta only
    | with_reducible apply Keeps.ite
    | with_reducible apply State.settle_keeps
    | with_reducible apply State.specEnd_keeps
    | with_reducible apply State.latchMiss_keeps
    | with_reducible apply State.specState_keeps
    | with_reducible apply State.bump_keeps
    | with_reducible apply State.specDrop_keeps
    | with_reducible apply State.specWindow_keeps
    | with_reducible apply State.commitCycle_keeps
    | with_reducible apply State.putRun_keeps
    | with_reducible apply State.latch_keeps
    | with_reducible apply State.raiseXcp_keeps
    | split

/-- execSpecSuspendEnd keeps what every operation keeps. -/
theorem execSpecSuspendEnd_keeps {a s : State} {x0} (h : Keeps a s) : EKeeps a (execSpecSuspendEnd x0 s) := by
  unfold execSpecSuspendEnd
  repeat' first
    | with_reducible assumption
    | ((fail_if_no_progress extract_lets +onlyGivenNames t); refine (?_ : Keeps a t → _) ?_; (on_goal 2 => unfold t); (on_goal 1 => (clear_value t; intro _)))
    | ((fail_if_no_progress extract_lets +onlyGivenNames t); subst t)
    | with_reducible refine EKeeps.done ?_
    | dsimp -zeta only
    | with_reducible apply Keeps.ite
    | with_reducible apply State.specArm_keeps
    | with_reducible apply State.specState_keeps
    | with_reducible apply State.specFresh_keeps
    | split

/-- execTaskDispatch keeps what every operation keeps. -/
theorem execTaskDispatch_keeps {a s : State} {x0} (h : Keeps a s) : EKeeps a (execTaskDispatch x0 s) := by
  unfold execTaskDispatch
  repeat' first
    | with_reducible assumption
    | ((fail_if_no_progress extract_lets +onlyGivenNames t); refine (?_ : Keeps a t → _) ?_; (on_goal 2 => unfold t); (on_goal 1 => (clear_value t; intro _)))
    | ((fail_if_no_progress extract_lets +onlyGivenNames t); refine (?_ : Keeps2 a t → _) ?_; (on_goal 2 => unfold t); (on_goal 1 => (clear_value t; intro _)))
    | ((fail_if_no_progress extract_lets +onlyGivenNames t); refine (?_ : Keeps1 a t → _) ?_; (on_goal 2 => unfold t); (on_goal 1 => (clear_value t; intro _)))
    | ((fail_if_no_progress extract_lets +onlyGivenNames t); subst t)
    | with_reducible refine EKeeps.done ?_
    | dsimp -zeta only
    | with_reducible apply Keeps.ite
    | with_reducible apply State.dispatchReal_keeps
    | with_reducible apply State.start_keeps
    | with_reducible exact Keeps1.out ‹_›
    | with_reducible apply Keeps1.mk
    | with_reducible apply Keeps1.ite
    | with_reducible refine Keeps1.foldl ?_ (fun _ _ _ => ?_)
    | with_reducible refine Keeps1.out ?_
    | with_reducible exact Keeps2.out ‹_›
    | with_reducible apply Keeps2.mk
    | with_reducible apply Keeps2.ite
    | with_reducible refine Keeps2.foldl ?_ (fun _ _ _ => ?_)
    | with_reducible refine Keeps2.out ?_
    | with_reducible refine Keeps.foldl ?_ (fun _ _ _ => ?_)
    | split

/-- execModeRequestRun keeps what every operation keeps. -/
theorem execModeRequestRun_keeps {a s : State} {x0} (h : Keeps a s) : EKeeps a (execModeRequestRun x0 s) := by
  unfold execModeRequestRun
  repeat' first
    | with_reducible assumption
    | with_reducible refine EKeeps.done ?_
    | dsimp -zeta only
    | with_reducible refine State.written_keeps (fun s h => ?_) ?_
    | with_reducible apply State.modeRequest_keeps

/-- execModeRequestHold keeps what every operation keeps. -/
theorem execModeRequestHold_keeps {a s : State} {x0} (h : Keeps a s) : EKeeps a (execModeRequestHold x0 s) := by
  unfold execModeRequestHold
  repeat' first
    | with_reducible assumption
    | with_reducible refine EKeeps.done ?_
    | dsimp -zeta only
    | with_reducible refine State.written_keeps (fun s h => ?_) ?_
    | with_reducible apply State.modeRequest_keeps

/-- execModeRequestStop keeps what every operation keeps. -/
theorem execModeRequestStop_keeps {a s : State} {x0} (h : Keeps a s) : EKeeps a (execModeRequestStop x0 s) := by
  unfold execModeRequestStop
  repeat' first
    | with_reducible assumption
    | with_reducible refine EKeeps.done ?_
    | dsimp -zeta only
    | with_reducible refine State.written_keeps (fun s h => ?_) ?_
    | with_reducible apply State.modeRequest_keeps

/-- execModeChange keeps what every operation keeps. -/
theorem execModeChange_keeps {a s : State} (h : Keeps a s) : EKeeps a (execModeChange s) := by
  unfold execModeChange
  repeat' first
    | with_reducible assumption
    | with_reducible refine EKeeps.done ?_
    | dsimp -zeta only
    | with_reducible apply State.changeModes_keeps

/-- execInitTaskTimeout keeps what every operation keeps. -/
theorem execInitTaskTimeout_keeps {a s : State} {x0} (h : Keeps a s) : EKeeps a (execInitTaskTimeout x0 s) := by
  unfold execInitTaskTimeout
  repeat' first
    | with_reducible assumption
    | ((fail_if_no_progress extract_lets +onlyGivenNames t); refine (?_ : Keeps a t → _) ?_; (on_goal 2 => unfold t); (on_goal 1 => (clear_value t; intro _)))
    | ((fail_if_no_progress extract_lets +onlyGivenNames t); subst t)
    | with_reducible refine EKeeps.done ?_
    | dsimp -zeta only
    | with_reducible apply Keeps.ite
    | with_reducible apply State.initFailed_keeps
    | with_reducible apply State.wdStop_keeps
    | split

/-- execLaneSelfTestComplete keeps what every operation keeps. -/
theorem execLaneSelfTestComplete_keeps {a s : State} {x0 x1} (h : Keeps a s) : EKeeps a (execLaneSelfTestComplete x0 x1 s) := by
  unfold execLaneSelfTestComplete
  repeat' first
    | with_reducible assumption
    | ((fail_if_no_progress extract_lets +onlyGivenNames t); refine (?_ : Keeps a t → _) ?_; (on_goal 2 => unfold t); (on_goal 1 => (clear_value t; intro _)))
    | ((fail_if_no_progress extract_lets +onlyGivenNames t); subst t)
    | with_reducible refine EKeeps.done ?_
    | dsimp -zeta only
    | with_reducible apply Keeps.ite
    | with_reducible apply State.fullTestEnd_keeps
    | split

/-- execSelfTestStep keeps what every operation keeps. -/
theorem execSelfTestStep_keeps {a s : State} {x0 x1 x2 x3} (h : Keeps a s) : EKeeps a (execSelfTestStep x0 x1 x2 x3 s) := by
  unfold execSelfTestStep
  repeat' first
    | with_reducible assumption
    | ((fail_if_no_progress extract_lets +onlyGivenNames t); refine (?_ : Keeps a t → _) ?_; (on_goal 2 => unfold t); (on_goal 1 => (clear_value t; intro _)))
    | ((fail_if_no_progress extract_lets +onlyGivenNames t); subst t)
    | with_reducible refine EKeeps.done ?_
    | dsimp -zeta only
    | with_reducible apply Keeps.ite
    | with_reducible apply State.fullStart_keeps
    | with_reducible apply State.setF_keeps
    | with_reducible apply State.retireLane_keeps
    | with_reducible apply State.modLane_keeps
    | with_reducible apply State.laneTested_keeps
    | with_reducible apply State.rotate_keeps
    | split

/-- execMismatchInjection keeps what every operation keeps. -/
theorem execMismatchInjection_keeps {a s : State} {x0 x1} (h : Keeps a s) : EKeeps a (execMismatchInjection x0 x1 s) := by
  unfold execMismatchInjection
  repeat' first
    | with_reducible assumption
    | ((fail_if_no_progress extract_lets +onlyGivenNames t); refine (?_ : Keeps a t → _) ?_; (on_goal 2 => unfold t); (on_goal 1 => (clear_value t; intro _)))
    | ((fail_if_no_progress extract_lets +onlyGivenNames t); subst t)
    | with_reducible refine EKeeps.done ?_
    | dsimp -zeta only
    | with_reducible apply Keeps.ite
    | with_reducible apply State.modLane_keeps
    | with_reducible apply State.bump_keeps
    | with_reducible apply State.laneFault_keeps
    | with_reducible apply State.settle_keeps
    | with_reducible apply State.runFault_keeps
    | split

/-- execXngTest keeps what every operation keeps. -/
theorem execXngTest_keeps {a s : State} {x0 x1} (h : Keeps a s) : EKeeps a (execXngTest x0 x1 s) := by
  unfold execXngTest
  repeat' first
    | with_reducible assumption
    | with_reducible refine EKeeps.done ?_
    | dsimp -zeta only
    | with_reducible refine State.written_keeps (fun s h => ?_) ?_
    | with_reducible apply State.cmdXngTest_keeps

/-- execXngRetire keeps what every operation keeps. -/
theorem execXngRetire_keeps {a s : State} {x0 x1} (h : Keeps a s) : EKeeps a (execXngRetire x0 x1 s) := by
  unfold execXngRetire
  repeat' first
    | with_reducible assumption
    | with_reducible refine EKeeps.done ?_
    | dsimp -zeta only
    | with_reducible refine State.written_keeps (fun s h => ?_) ?_
    | with_reducible apply State.cmdXngRetire_keeps

/-- execLaneTestLate keeps what every operation keeps. -/
theorem execLaneTestLate_keeps {a s : State} {x0} (h : Keeps a s) : EKeeps a (execLaneTestLate x0 s) := by
  unfold execLaneTestLate
  repeat' first
    | with_reducible assumption
    | with_reducible refine EKeeps.done ?_
    | dsimp -zeta only
    | with_reducible apply Keeps.ite
    | with_reducible apply State.evHw_keeps
    | with_reducible apply State.setF_keeps
    | split

/-- execParkedQuarterTest keeps what every operation keeps. -/
theorem execParkedQuarterTest_keeps {a s : State} {x0 x1} (h : Keeps a s) : EKeeps a (execParkedQuarterTest x0 x1 s) := by
  unfold execParkedQuarterTest
  repeat' first
    | with_reducible assumption
    | ((fail_if_no_progress extract_lets +onlyGivenNames t); refine (?_ : Keeps a t → _) ?_; (on_goal 2 => unfold t); (on_goal 1 => (clear_value t; intro _)))
    | ((fail_if_no_progress extract_lets +onlyGivenNames t); refine (?_ : Keeps2 a t → _) ?_; (on_goal 2 => unfold t); (on_goal 1 => (clear_value t; intro _)))
    | ((fail_if_no_progress extract_lets +onlyGivenNames t); refine (?_ : Keeps1 a t → _) ?_; (on_goal 2 => unfold t); (on_goal 1 => (clear_value t; intro _)))
    | ((fail_if_no_progress extract_lets +onlyGivenNames t); subst t)
    | with_reducible refine EKeeps.done ?_
    | dsimp -zeta only
    | with_reducible apply Keeps.ite
    | with_reducible apply State.retireLane_keeps
    | with_reducible apply State.laneTested_keeps
    | with_reducible exact Keeps1.out ‹_›
    | with_reducible apply Keeps1.mk
    | with_reducible apply Keeps1.ite
    | with_reducible refine Keeps1.foldl ?_ (fun _ _ _ => ?_)
    | with_reducible refine Keeps1.out ?_
    | with_reducible exact Keeps2.out ‹_›
    | with_reducible apply Keeps2.mk
    | with_reducible apply Keeps2.ite
    | with_reducible refine Keeps2.foldl ?_ (fun _ _ _ => ?_)
    | with_reducible refine Keeps2.out ?_
    | with_reducible refine Keeps.foldl ?_ (fun _ _ _ => ?_)
    | split
    | fail_if_no_progress (with_reducible refine Keeps.upd ?_ rfl rfl rfl rfl rfl rfl)

/-- execLastWordsCommit keeps what every operation keeps. -/
theorem execLastWordsCommit_keeps {a s : State} {x0} (h : Keeps a s) : EKeeps a (execLastWordsCommit x0 s) := by
  unfold execLastWordsCommit
  repeat' first
    | with_reducible assumption
    | with_reducible refine EKeeps.done ?_
    | dsimp -zeta only
    | with_reducible apply State.putLastWords_keeps
    | split

/-- execHeartbeat keeps what every operation keeps. -/
theorem execHeartbeat_keeps {a s : State} {x0} (h : Keeps a s) : EKeeps a (execHeartbeat x0 s) := by
  unfold execHeartbeat
  repeat' first
    | with_reducible assumption
    | ((fail_if_no_progress extract_lets +onlyGivenNames t); refine (?_ : Keeps a t → _) ?_; (on_goal 2 => unfold t); (on_goal 1 => (clear_value t; intro _)))
    | ((fail_if_no_progress extract_lets +onlyGivenNames t); subst t)
    | with_reducible refine EKeeps.done ?_
    | dsimp -zeta only
    | with_reducible apply Keeps.ite
    | with_reducible apply State.modKerb_keeps
    | with_reducible apply State.setF_keeps
    | split

/-- execWedgeDecision keeps what every operation keeps. -/
theorem execWedgeDecision_keeps {a s : State} {x0 x1} (h : Keeps a s) : EKeeps a (execWedgeDecision x0 x1 s) := by
  unfold execWedgeDecision
  repeat' first
    | with_reducible assumption
    | with_reducible refine EKeeps.done ?_
    | dsimp -zeta only
    | with_reducible apply Keeps.ite
    | with_reducible apply State.kerbSet_keeps
    | split

/-- execSagStepDown keeps what every operation keeps. -/
theorem execSagStepDown_keeps {a s : State} {x0} (h : Keeps a s) : EKeeps a (execSagStepDown x0 s) := by
  unfold execSagStepDown
  repeat' first
    | with_reducible assumption
    | ((fail_if_no_progress extract_lets +onlyGivenNames t); refine (?_ : Keeps a t → _) ?_; (on_goal 2 => unfold t); (on_goal 1 => (clear_value t; intro _)))
    | ((fail_if_no_progress extract_lets +onlyGivenNames t); subst t)
    | with_reducible refine EKeeps.done ?_
    | dsimp -zeta only
    | with_reducible apply Keeps.ite
    | with_reducible apply State.measure_keeps
    | with_reducible apply State.setSag_keeps
    | split

/-- execSagStepUp keeps what every operation keeps. -/
theorem execSagStepUp_keeps {a s : State} {x0} (h : Keeps a s) : EKeeps a (execSagStepUp x0 s) := by
  unfold execSagStepUp
  repeat' first
    | with_reducible assumption
    | ((fail_if_no_progress extract_lets +onlyGivenNames t); refine (?_ : Keeps a t → _) ?_; (on_goal 2 => unfold t); (on_goal 1 => (clear_value t; intro _)))
    | ((fail_if_no_progress extract_lets +onlyGivenNames t); subst t)
    | with_reducible refine EKeeps.done ?_
    | dsimp -zeta only
    | with_reducible apply Keeps.ite
    | with_reducible apply State.measure_keeps
    | with_reducible apply State.setSag_keeps
    | split

/-- execThermalStepDown keeps what every operation keeps. -/
theorem execThermalStepDown_keeps {a s : State} {x0} (h : Keeps a s) : EKeeps a (execThermalStepDown x0 s) := by
  unfold execThermalStepDown
  repeat' first
    | with_reducible assumption
    | ((fail_if_no_progress extract_lets +onlyGivenNames t); refine (?_ : Keeps a t → _) ?_; (on_goal 2 => unfold t); (on_goal 1 => (clear_value t; intro _)))
    | ((fail_if_no_progress extract_lets +onlyGivenNames t); subst t)
    | with_reducible refine EKeeps.done ?_
    | dsimp -zeta only
    | with_reducible apply Keeps.ite
    | with_reducible apply State.measure_keeps
    | with_reducible apply State.setTherm_keeps
    | split

/-- execThermalStepUp keeps what every operation keeps. -/
theorem execThermalStepUp_keeps {a s : State} {x0} (h : Keeps a s) : EKeeps a (execThermalStepUp x0 s) := by
  unfold execThermalStepUp
  repeat' first
    | with_reducible assumption
    | ((fail_if_no_progress extract_lets +onlyGivenNames t); refine (?_ : Keeps a t → _) ?_; (on_goal 2 => unfold t); (on_goal 1 => (clear_value t; intro _)))
    | ((fail_if_no_progress extract_lets +onlyGivenNames t); subst t)
    | with_reducible refine EKeeps.done ?_
    | dsimp -zeta only
    | with_reducible apply Keeps.ite
    | with_reducible apply State.measure_keeps
    | with_reducible apply State.setTherm_keeps
    | split

/-- execStoreFault keeps what every operation keeps. -/
theorem execStoreFault_keeps {a s : State} {x0} (h : Keeps a s) : EKeeps a (execStoreFault x0 s) := by
  unfold execStoreFault
  repeat' first
    | with_reducible assumption
    | ((fail_if_no_progress extract_lets +onlyGivenNames t); refine (?_ : Keeps a t → _) ?_; (on_goal 2 => unfold t); (on_goal 1 => (clear_value t; intro _)))
    | ((fail_if_no_progress extract_lets +onlyGivenNames t); subst t)
    | with_reducible refine EKeeps.done ?_
    | dsimp -zeta only
    | with_reducible apply Keeps.ite
    | with_reducible apply State.measure_keeps
    | with_reducible apply State.laneClock_keeps
    | with_reducible apply State.evHw_keeps
    | with_reducible apply State.setF_keeps
    | split

/-- execTemperatureWarning keeps what every operation keeps. -/
theorem execTemperatureWarning_keeps {a s : State} {x0} (h : Keeps a s) : EKeeps a (execTemperatureWarning x0 s) := by
  unfold execTemperatureWarning
  repeat' first
    | with_reducible assumption
    | with_reducible refine EKeeps.done ?_
    | dsimp -zeta only
    | with_reducible apply State.measure_keeps

/-- execTemperatureCritical keeps what every operation keeps. -/
theorem execTemperatureCritical_keeps {a s : State} {x0} (h : Keeps a s) : EKeeps a (execTemperatureCritical x0 s) := by
  unfold execTemperatureCritical
  repeat' first
    | with_reducible assumption
    | ((fail_if_no_progress extract_lets +onlyGivenNames t); refine (?_ : Keeps a t → _) ?_; (on_goal 2 => unfold t); (on_goal 1 => (clear_value t; intro _)))
    | ((fail_if_no_progress extract_lets +onlyGivenNames t); subst t)
    | with_reducible refine EKeeps.done ?_
    | dsimp -zeta only
    | with_reducible apply Keeps.ite
    | with_reducible apply State.measure_keeps
    | with_reducible apply State.kerbSet_keeps
    | split

/-- execMainsInputChange keeps what every operation keeps. -/
theorem execMainsInputChange_keeps {a s : State} {x0 x1 x2 x3} (h : Keeps a s) : EKeeps a (execMainsInputChange x0 x1 x2 x3 s) := by
  unfold execMainsInputChange
  repeat' first
    | with_reducible assumption
    | ((fail_if_no_progress extract_lets +onlyGivenNames t); refine (?_ : Keeps a t → _) ?_; (on_goal 2 => unfold t); (on_goal 1 => (clear_value t; intro _)))
    | ((fail_if_no_progress extract_lets +onlyGivenNames t); subst t)
    | with_reducible refine EKeeps.done ?_
    | dsimp -zeta only
    | with_reducible apply Keeps.ite
    | with_reducible apply State.measure_keeps
    | with_reducible apply State.setB_keeps
    | with_reducible apply State.evHw_keeps
    | with_reducible apply State.modKerb_keeps
    | split

/-- execMainsLossDecision keeps what every operation keeps. -/
theorem execMainsLossDecision_keeps {a s : State} {x0} (h : Keeps a s) : EKeeps a (execMainsLossDecision x0 s) := by
  unfold execMainsLossDecision
  repeat' first
    | with_reducible assumption
    | ((fail_if_no_progress extract_lets +onlyGivenNames t); refine (?_ : Keeps a t → _) ?_; (on_goal 2 => unfold t); (on_goal 1 => (clear_value t; intro _)))
    | ((fail_if_no_progress extract_lets +onlyGivenNames t); subst t)
    | with_reducible refine EKeeps.done ?_
    | dsimp -zeta only
    | with_reducible apply Keeps.ite
    | with_reducible apply State.measure_keeps
    | with_reducible apply State.kerbSet_keeps
    | split

/-- execBusUndervoltage keeps what every operation keeps. -/
theorem execBusUndervoltage_keeps {a s : State} {x0} (h : Keeps a s) : EKeeps a (execBusUndervoltage x0 s) := by
  unfold execBusUndervoltage
  repeat' first
    | with_reducible assumption
    | ((fail_if_no_progress extract_lets +onlyGivenNames t); refine (?_ : Keeps a t → _) ?_; (on_goal 2 => unfold t); (on_goal 1 => (clear_value t; intro _)))
    | ((fail_if_no_progress extract_lets +onlyGivenNames t); subst t)
    | with_reducible refine EKeeps.done ?_
    | dsimp -zeta only
    | with_reducible apply Keeps.ite
    | with_reducible apply State.measure_keeps
    | with_reducible apply State.kerbSet_keeps
    | split

/-- execKerbstop keeps what every operation keeps. -/
theorem execKerbstop_keeps {a s : State} {x0} (h : Keeps a s) : EKeeps a (execKerbstop x0 s) := by
  unfold execKerbstop
  repeat' first
    | with_reducible assumption
    | with_reducible refine EKeeps.done ?_
    | dsimp -zeta only
    | with_reducible refine State.written_keeps (fun s h => ?_) ?_
    | with_reducible apply State.cmdKerbstop_keeps

/-- execCoolantLoss keeps what every operation keeps. -/
theorem execCoolantLoss_keeps {a s : State} {x0} (h : Keeps a s) : EKeeps a (execCoolantLoss x0 s) := by
  unfold execCoolantLoss
  repeat' first
    | with_reducible assumption
    | ((fail_if_no_progress extract_lets +onlyGivenNames t); refine (?_ : Keeps a t → _) ?_; (on_goal 2 => unfold t); (on_goal 1 => (clear_value t; intro _)))
    | ((fail_if_no_progress extract_lets +onlyGivenNames t); subst t)
    | with_reducible refine EKeeps.done ?_
    | dsimp -zeta only
    | with_reducible apply Keeps.ite
    | with_reducible apply State.measure_keeps
    | with_reducible apply State.modKerb_keeps
    | with_reducible apply State.setF_keeps
    | with_reducible apply State.evHw_keeps
    | with_reducible apply State.enterCapped_keeps
    | split

/-- execCoolantRestored keeps what every operation keeps. -/
theorem execCoolantRestored_keeps {a s : State} {x0} (h : Keeps a s) : EKeeps a (execCoolantRestored x0 s) := by
  unfold execCoolantRestored
  repeat' first
    | with_reducible assumption
    | ((fail_if_no_progress extract_lets +onlyGivenNames t); refine (?_ : Keeps a t → _) ?_; (on_goal 2 => unfold t); (on_goal 1 => (clear_value t; intro _)))
    | ((fail_if_no_progress extract_lets +onlyGivenNames t); subst t)
    | with_reducible refine EKeeps.done ?_
    | dsimp -zeta only
    | with_reducible apply Keeps.ite
    | with_reducible apply State.measure_keeps
    | with_reducible apply State.modKerb_keeps
    | with_reducible apply State.setF_keeps
    | with_reducible apply State.evHw_keeps
    | with_reducible apply State.laneClock_keeps
    | split

/-- execPowerStateWakeEnd keeps what every operation keeps. -/
theorem execPowerStateWakeEnd_keeps {a s : State} (h : Keeps a s) : EKeeps a (execPowerStateWakeEnd s) := by
  unfold execPowerStateWakeEnd
  repeat' first
    | with_reducible assumption
    | with_reducible refine EKeeps.done ?_
    | dsimp -zeta only
    | with_reducible apply State.latencyDone_keeps
    | with_reducible apply State.enterP_keeps
    | split

/-- execPatrolScrub keeps what every operation keeps. -/
theorem execPatrolScrub_keeps {a s : State} {x0 x1 x2} (h : Keeps a s) : EKeeps a (execPatrolScrub x0 x1 x2 s) := by
  unfold execPatrolScrub
  repeat' first
    | with_reducible assumption
    | ((fail_if_no_progress extract_lets +onlyGivenNames t); refine (?_ : Keeps a t → _) ?_; (on_goal 2 => unfold t); (on_goal 1 => (clear_value t; intro _)))
    | ((fail_if_no_progress extract_lets +onlyGivenNames t); subst t)
    | with_reducible refine EKeeps.done ?_
    | dsimp -zeta only
    | with_reducible apply Keeps.ite
    | with_reducible apply State.scrubUnit_keeps
    | with_reducible refine Keeps.foldl ?_ (fun _ _ h => State.strike_keeps h)
    | with_reducible apply State.scrubNext_keeps
    | with_reducible apply State.setF_keeps
    | split

/-- execRowSparingComplete keeps what every operation keeps. -/
theorem execRowSparingComplete_keeps {a s : State} {x0 x1} (h : Keeps a s) : EKeeps a (execRowSparingComplete x0 x1 s) := by
  unfold execRowSparingComplete
  generalize reserveRow s.sq.rowMap.length = n
  refine EKeeps.done ?_
  split
  · exact h
  · exact State.evHw_keeps (State.setF_keeps (Keeps.upd h rfl rfl rfl rfl rfl rfl))

/-- execTagWalk keeps what every operation keeps. -/
theorem execTagWalk_keeps {a s : State} {x0 x1 x2} (h : Keeps a s) : EKeeps a (execTagWalk x0 x1 x2 s) := by
  unfold execTagWalk
  refine EKeeps.done ?_
  split
  · exact State.laneWalk_keeps h
  · exact State.hostWalked_keeps h

/-- execTagWrite keeps what every operation keeps. -/
theorem execTagWrite_keeps {a s : State} {x0 x1 x2} (h : Keeps a s) : EKeeps a (execTagWrite x0 x1 x2 s) := by
  unfold execTagWrite
  repeat' first
    | with_reducible assumption
    | with_reducible refine EKeeps.done ?_
    | dsimp -zeta only
    | with_reducible refine State.written_keeps (fun s h => ?_) ?_
    | with_reducible apply State.cmdTagWrite_keeps

/-- execTtcGo keeps what every operation keeps. -/
theorem execTtcGo_keeps {a s : State} {x0 x1} (h : Keeps a s) : EKeeps a (execTtcGo x0 x1 s) := by
  unfold execTtcGo
  repeat' first
    | with_reducible assumption
    | with_reducible refine EKeeps.done ?_
    | dsimp -zeta only
    | with_reducible refine State.written_keeps (fun s h => ?_) ?_
    | with_reducible apply State.cmdTtcGo_keeps

/-- execTtcInvalidationDone keeps what every operation keeps. -/
theorem execTtcInvalidationDone_keeps {a s : State} (h : Keeps a s) : EKeeps a (execTtcInvalidationDone s) := by
  unfold execTtcInvalidationDone
  repeat' first
    | with_reducible assumption
    | ((fail_if_no_progress extract_lets +onlyGivenNames t); refine (?_ : Keeps a t → _) ?_; (on_goal 2 => unfold t); (on_goal 1 => (clear_value t; intro _)))
    | ((fail_if_no_progress extract_lets +onlyGivenNames t); subst t)
    | with_reducible refine EKeeps.done ?_
    | dsimp -zeta only
    | with_reducible apply Keeps.ite
    | with_reducible apply State.ttcDrop_keeps
    | with_reducible apply State.genCheck_keeps
    | with_reducible apply State.setB_keeps
    | split
    | fail_if_no_progress (with_reducible refine Keeps.upd ?_ rfl rfl rfl rfl rfl rfl)

/-- execAcuBarrier keeps what every operation keeps. -/
theorem execAcuBarrier_keeps {a s : State} {x0} (h : Keeps a s) : EKeeps a (execAcuBarrier x0 s) := by
  unfold execAcuBarrier
  repeat' first
    | with_reducible assumption
    | with_reducible refine EKeeps.done ?_
    | dsimp -zeta only
    | with_reducible refine State.written_keeps (fun s h => ?_) ?_
    | with_reducible apply State.cmdAcuBarrier_keeps

/-- execAcuBarrierDone keeps what every operation keeps. -/
theorem execAcuBarrierDone_keeps {a s : State} (h : Keeps a s) : EKeeps a (execAcuBarrierDone s) := by
  unfold execAcuBarrierDone
  repeat' first
    | with_reducible assumption
    | with_reducible refine EKeeps.done ?_
    | dsimp -zeta only
    | with_reducible apply Keeps.ite
    | with_reducible apply State.acuDone_keeps
    | split

/-- execAcuRattrWrite keeps what every operation keeps. -/
theorem execAcuRattrWrite_keeps {a s : State} {x0 x1} (h : Keeps a s) : EKeeps a (execAcuRattrWrite x0 x1 s) := by
  unfold execAcuRattrWrite
  repeat' first
    | with_reducible assumption
    | with_reducible refine EKeeps.done ?_
    | dsimp -zeta only
    | with_reducible refine State.written_keeps (fun s h => ?_) ?_
    | with_reducible apply State.cmdAcuRattrWrite_keeps

/-- execImvStart keeps what every operation keeps. -/
theorem execImvStart_keeps {a s : State} {x0 x1} (h : Keeps a s) : EKeeps a (execImvStart x0 x1 s) := by
  unfold execImvStart
  repeat' first
    | with_reducible assumption
    | with_reducible refine EKeeps.done ?_
    | dsimp -zeta only
    | with_reducible refine State.written_keeps (fun s h => ?_) ?_
    | with_reducible apply State.cmdImvStart_keeps

/-- execImvHalt keeps what every operation keeps. -/
theorem execImvHalt_keeps {a s : State} {x0} (h : Keeps a s) : EKeeps a (execImvHalt x0 s) := by
  unfold execImvHalt
  repeat' first
    | with_reducible assumption
    | with_reducible refine EKeeps.done ?_
    | dsimp -zeta only
    | with_reducible refine State.written_keeps (fun s h => ?_) ?_
    | with_reducible apply State.cmdImvHalt_keeps

/-- execImvRunComplete keeps what every operation keeps. -/
theorem execImvRunComplete_keeps {a s : State} {x0 x1 x2} (h : Keeps a s) : EKeeps a (execImvRunComplete x0 x1 x2 s) := by
  unfold execImvRunComplete
  repeat' first
    | with_reducible assumption
    | ((fail_if_no_progress extract_lets +onlyGivenNames t); refine (?_ : Keeps a t → _) ?_; (on_goal 2 => unfold t); (on_goal 1 => (clear_value t; intro _)))
    | ((fail_if_no_progress extract_lets +onlyGivenNames t); subst t)
    | with_reducible refine EKeeps.done ?_
    | dsimp -zeta only
    | with_reducible apply Keeps.ite
    | with_reducible apply State.bump_keeps
    | with_reducible apply State.meet_keeps
    | with_reducible apply State.eccUncorrectable_keeps
    | with_reducible apply State.movEnd_keeps
    | with_reducible apply State.setF_keeps
    | with_reducible apply State.movWrite_keeps
    | with_reducible apply State.movRun_keeps
    | split

/-- execCfgOpen keeps what every operation keeps. -/
theorem execCfgOpen_keeps {a s : State} {x0} (h : Keeps a s) : EKeeps a (execCfgOpen x0 s) := by
  unfold execCfgOpen
  repeat' first
    | with_reducible assumption
    | with_reducible refine EKeeps.done ?_
    | dsimp -zeta only
    | with_reducible refine State.written_keeps (fun s h => ?_) ?_
    | with_reducible apply State.cmdCfgOpen_keeps

/-- execCfgChunk keeps what every operation keeps. -/
theorem execCfgChunk_keeps {a s : State} {x0} (h : Keeps a s) : EKeeps a (execCfgChunk x0 s) := by
  unfold execCfgChunk
  repeat' first
    | with_reducible assumption
    | with_reducible refine EKeeps.done ?_
    | dsimp -zeta only
    | with_reducible refine State.written_keeps (fun s h => ?_) ?_
    | with_reducible apply State.cmdCfgChunk_keeps

/-- execCfgClose keeps what every operation keeps. -/
theorem execCfgClose_keeps {a s : State} {x0 x1} (h : Keeps a s) : EKeeps a (execCfgClose x0 x1 s) := by
  unfold execCfgClose
  repeat' first
    | with_reducible assumption
    | with_reducible refine EKeeps.done ?_
    | dsimp -zeta only
    | with_reducible refine State.written_keeps (fun s h => ?_) ?_
    | with_reducible apply State.cmdCfgClose_keeps

/-- execOlcArm keeps what every operation keeps. -/
theorem execOlcArm_keeps {a s : State} {x0} (h : Keeps a s) : EKeeps a (execOlcArm x0 s) := by
  unfold execOlcArm
  repeat' first
    | with_reducible assumption
    | with_reducible refine EKeeps.done ?_
    | dsimp -zeta only
    | with_reducible refine State.written_keeps (fun s h => ?_) ?_
    | with_reducible apply State.cmdOlcArm_keeps

/-- execOlcAbandon keeps what every operation keeps. -/
theorem execOlcAbandon_keeps {a s : State} {x0} (h : Keeps a s) : EKeeps a (execOlcAbandon x0 s) := by
  unfold execOlcAbandon
  repeat' first
    | with_reducible assumption
    | with_reducible refine EKeeps.done ?_
    | dsimp -zeta only
    | with_reducible refine State.written_keeps (fun s h => ?_) ?_
    | with_reducible apply State.cmdOlcAbandon_keeps

/-- execCfgLoad keeps what every operation keeps. -/
theorem execCfgLoad_keeps {a s : State} {x0} (h : Keeps a s) : EKeeps a (execCfgLoad x0 s) := by
  unfold execCfgLoad
  repeat' first
    | with_reducible assumption
    | with_reducible refine EKeeps.done ?_
    | dsimp -zeta only
    | with_reducible refine State.written_keeps (fun s h => ?_) ?_
    | with_reducible apply State.cmdCfgLoad_keeps

/-- execOlcTransferComplete keeps what every operation keeps. -/
theorem execOlcTransferComplete_keeps {a s : State} (h : Keeps a s) : EKeeps a (execOlcTransferComplete s) := by
  unfold execOlcTransferComplete
  repeat' first
    | with_reducible assumption
    | ((fail_if_no_progress extract_lets +onlyGivenNames t); refine (?_ : Keeps a t → _) ?_; (on_goal 2 => unfold t); (on_goal 1 => (clear_value t; intro _)))
    | ((fail_if_no_progress extract_lets +onlyGivenNames t); subst t)
    | with_reducible refine EKeeps.done ?_
    | dsimp -zeta only
    | with_reducible apply Keeps.ite
    | with_reducible apply State.announceA_keeps
    | with_reducible apply State.toMigrate_keeps
    | split
    | fail_if_no_progress (with_reducible refine Keeps.upd ?_ rfl rfl rfl rfl rfl rfl)

/-- execMigrationPassComplete keeps what every operation keeps. -/
theorem execMigrationPassComplete_keeps {a s : State} (h : Keeps a s) : EKeeps a (execMigrationPassComplete s) := by
  unfold execMigrationPassComplete
  repeat' first
    | with_reducible assumption
    | with_reducible refine EKeeps.done ?_
    | dsimp -zeta only
    | with_reducible apply Keeps.ite
    | with_reducible apply State.announceA_keeps
    | split

/-- execActivationCommit keeps what every operation keeps. -/
theorem execActivationCommit_keeps {a s : State} (h : Keeps a s) : EKeeps a (execActivationCommit s) := by
  unfold execActivationCommit
  repeat' first
    | with_reducible assumption
    | ((fail_if_no_progress extract_lets +onlyGivenNames t); refine (?_ : Keeps a t → _) ?_; (on_goal 2 => unfold t); (on_goal 1 => (clear_value t; intro _)))
    | ((fail_if_no_progress extract_lets +onlyGivenNames t); subst t)
    | with_reducible refine EKeeps.done ?_
    | dsimp -zeta only
    | with_reducible apply Keeps.ite
    | with_reducible apply State.activationCommit_keeps
    | with_reducible apply State.activate_keeps
    | with_reducible apply State.baseNow_keeps
    | with_reducible apply State.olcStep_keeps
    | split

/-- execHelloSend keeps what every operation keeps. -/
theorem execHelloSend_keeps {a s : State} (h : Keeps a s) : EKeeps a (execHelloSend s) := by
  unfold execHelloSend
  repeat' first
    | with_reducible assumption
    | with_reducible refine EKeeps.done ?_
    | dsimp -zeta only
    | with_reducible apply Keeps.ite
    | with_reducible apply State.sendHello_keeps
    | split

/-- execCyclePacketApply keeps what every operation keeps. -/
theorem execCyclePacketApply_keeps {a s : State} {x0} (h : Keeps a s) : EKeeps a (execCyclePacketApply x0 s) := by
  unfold execCyclePacketApply
  repeat' first
    | with_reducible assumption
    | ((fail_if_no_progress extract_lets +onlyGivenNames t); refine (?_ : Keeps a t → _) ?_; (on_goal 2 => unfold t); (on_goal 1 => (clear_value t; intro _)))
    | ((fail_if_no_progress extract_lets +onlyGivenNames t); subst t)
    | with_reducible refine EKeeps.done ?_
    | dsimp -zeta only
    | with_reducible apply Keeps.ite
    | with_reducible apply State.stepDown_keeps
    | with_reducible apply State.heard_keeps
    | with_reducible apply State.drainPkts_keeps
    | with_reducible apply State.applyPacket_keeps
    | split
    | fail_if_no_progress (with_reducible refine Keeps.upd ?_ rfl rfl rfl rfl rfl rfl)

/-- execTickSend keeps what every operation keeps. -/
theorem execTickSend_keeps {a s : State} {x0} (h : Keeps a s) : EKeeps a (execTickSend x0 s) := by
  unfold execTickSend
  repeat' first
    | with_reducible assumption
    | with_reducible refine EKeeps.done ?_
    | dsimp -zeta only
    | with_reducible apply Keeps.ite
    | with_reducible apply State.sendTick_keeps
    | split

/-- execTickPacketReceive keeps what every operation keeps. -/
theorem execTickPacketReceive_keeps {a s : State} {x0 x1 x2} (h : Keeps a s) : EKeeps a (execTickPacketReceive x0 x1 x2 s) := by
  unfold execTickPacketReceive
  repeat' first
    | with_reducible assumption
    | ((fail_if_no_progress extract_lets +onlyGivenNames t); refine (?_ : Keeps a t → _) ?_; (on_goal 2 => unfold t); (on_goal 1 => (clear_value t; intro _)))
    | ((fail_if_no_progress extract_lets +onlyGivenNames t); refine (?_ : Keeps2 a t → _) ?_; (on_goal 2 => unfold t); (on_goal 1 => (clear_value t; intro _)))
    | ((fail_if_no_progress extract_lets +onlyGivenNames t); refine (?_ : Keeps1 a t → _) ?_; (on_goal 2 => unfold t); (on_goal 1 => (clear_value t; intro _)))
    | ((fail_if_no_progress extract_lets +onlyGivenNames t); subst t)
    | with_reducible refine EKeeps.done ?_
    | dsimp -zeta only
    | with_reducible apply Keeps.ite
    | with_reducible apply State.stepDown_keeps
    | with_reducible apply State.heard_keeps
    | with_reducible apply State.sendPacket_keeps
    | with_reducible apply State.applyItem_keeps
    | with_reducible exact Keeps1.out ‹_›
    | with_reducible apply Keeps1.mk
    | with_reducible apply Keeps1.ite
    | with_reducible refine Keeps1.foldl ?_ (fun _ _ _ => ?_)
    | with_reducible refine Keeps1.out ?_
    | with_reducible exact Keeps2.out ‹_›
    | with_reducible apply Keeps2.mk
    | with_reducible apply Keeps2.ite
    | with_reducible refine Keeps2.foldl ?_ (fun _ _ _ => ?_)
    | with_reducible refine Keeps2.out ?_
    | with_reducible refine Keeps.foldl ?_ (fun _ _ _ => ?_)
    | split
    | fail_if_no_progress (with_reducible refine Keeps.upd ?_ rfl rfl rfl rfl rfl rfl)

/-- execAck keeps what every operation keeps. -/
theorem execAck_keeps {a s : State} {x0} (h : Keeps a s) : EKeeps a (execAck x0 s) := by
  unfold execAck
  repeat' first
    | with_reducible assumption
    | ((fail_if_no_progress extract_lets +onlyGivenNames t); refine (?_ : Keeps a t → _) ?_; (on_goal 2 => unfold t); (on_goal 1 => (clear_value t; intro _)))
    | ((fail_if_no_progress extract_lets +onlyGivenNames t); subst t)
    | with_reducible refine EKeeps.done ?_
    | dsimp -zeta only
    | with_reducible apply Keeps.ite
    | with_reducible apply State.hostAdvance_keeps
    | with_reducible apply State.setAck_keeps
    | split
    | fail_if_no_progress (with_reducible refine Keeps.upd ?_ rfl rfl rfl rfl rfl rfl)

/-- execAckMissing keeps what every operation keeps. -/
theorem execAckMissing_keeps {a s : State} {x0} (h : Keeps a s) : EKeeps a (execAckMissing x0 s) := by
  unfold execAckMissing
  repeat' first
    | with_reducible assumption
    | ((fail_if_no_progress extract_lets +onlyGivenNames t); refine (?_ : Keeps a t → _) ?_; (on_goal 2 => unfold t); (on_goal 1 => (clear_value t; intro _)))
    | ((fail_if_no_progress extract_lets +onlyGivenNames t); subst t)
    | with_reducible refine EKeeps.done ?_
    | dsimp -zeta only
    | with_reducible apply Keeps.ite
    | with_reducible apply State.ackLost_keeps
    | with_reducible apply State.bump_keeps
    | split
    | fail_if_no_progress (with_reducible refine Keeps.upd ?_ rfl rfl rfl rfl rfl rfl)

/-- execSeatsampleSend keeps what every operation keeps. -/
theorem execSeatsampleSend_keeps {a s : State} (h : Keeps a s) : EKeeps a (execSeatsampleSend s) := by
  unfold execSeatsampleSend
  repeat' first
    | with_reducible assumption
    | ((fail_if_no_progress extract_lets +onlyGivenNames t); refine (?_ : Keeps a t → _) ?_; (on_goal 2 => unfold t); (on_goal 1 => (clear_value t; intro _)))
    | ((fail_if_no_progress extract_lets +onlyGivenNames t); subst t)
    | with_reducible refine EKeeps.done ?_
    | dsimp -zeta only
    | with_reducible apply Keeps.ite
    | with_reducible apply State.sendPacket_keeps
    | split
    | fail_if_no_progress (with_reducible refine Keeps.upd ?_ rfl rfl rfl rfl rfl rfl)

/-- execSeatsampleReceive keeps what every operation keeps. -/
theorem execSeatsampleReceive_keeps {a s : State} {x0 x1 x2} (h : Keeps a s) : EKeeps a (execSeatsampleReceive x0 x1 x2 s) := by
  unfold execSeatsampleReceive
  repeat' first
    | with_reducible assumption
    | ((fail_if_no_progress extract_lets +onlyGivenNames t); refine (?_ : Keeps a t → _) ?_; (on_goal 2 => unfold t); (on_goal 1 => (clear_value t; intro _)))
    | ((fail_if_no_progress extract_lets +onlyGivenNames t); refine (?_ : Keeps2 a t → _) ?_; (on_goal 2 => unfold t); (on_goal 1 => (clear_value t; intro _)))
    | ((fail_if_no_progress extract_lets +onlyGivenNames t); refine (?_ : Keeps1 a t → _) ?_; (on_goal 2 => unfold t); (on_goal 1 => (clear_value t; intro _)))
    | ((fail_if_no_progress extract_lets +onlyGivenNames t); subst t)
    | with_reducible refine EKeeps.done ?_
    | dsimp -zeta only
    | with_reducible apply Keeps.ite
    | with_reducible refine State.byEngines_keeps ?_ (fun _ _ => ?_)
    | with_reducible apply State.sysWrite_keeps
    | with_reducible apply State.pduTake_keeps
    | with_reducible exact Keeps1.out ‹_›
    | with_reducible apply Keeps1.mk
    | with_reducible apply Keeps1.ite
    | with_reducible refine Keeps1.foldl ?_ (fun _ _ _ => ?_)
    | with_reducible refine Keeps1.out ?_
    | with_reducible exact Keeps2.out ‹_›
    | with_reducible apply Keeps2.mk
    | with_reducible apply Keeps2.ite
    | with_reducible refine Keeps2.foldl ?_ (fun _ _ _ => ?_)
    | with_reducible refine Keeps2.out ?_
    | with_reducible refine Keeps.foldl ?_ (fun _ _ _ => ?_)
    | split
    | fail_if_no_progress (with_reducible refine Keeps.upd ?_ rfl rfl rfl rfl rfl rfl)

/-- execSeatOutputTimeout keeps what every operation keeps. -/
theorem execSeatOutputTimeout_keeps {a s : State} (h : Keeps a s) : EKeeps a (execSeatOutputTimeout s) := by
  unfold execSeatOutputTimeout
  repeat' first
    | with_reducible assumption
    | ((fail_if_no_progress extract_lets +onlyGivenNames t); refine (?_ : Keeps a t → _) ?_; (on_goal 2 => unfold t); (on_goal 1 => (clear_value t; intro _)))
    | ((fail_if_no_progress extract_lets +onlyGivenNames t); subst t)
    | with_reducible refine EKeeps.done ?_
    | dsimp -zeta only
    | with_reducible apply Keeps.ite
    | with_reducible apply State.outputsHold_keeps
    | split

/-- execAuditComplete keeps what every operation keeps. -/
theorem execAuditComplete_keeps {a s : State} {x0} (h : Keeps a s) : EKeeps a (execAuditComplete x0 s) := by
  unfold execAuditComplete
  repeat' first
    | with_reducible assumption
    | ((fail_if_no_progress extract_lets +onlyGivenNames t); refine (?_ : Keeps a t → _) ?_; (on_goal 2 => unfold t); (on_goal 1 => (clear_value t; intro _)))
    | ((fail_if_no_progress extract_lets +onlyGivenNames t); subst t)
    | with_reducible refine EKeeps.done ?_
    | dsimp -zeta only
    | with_reducible apply Keeps.ite
    | with_reducible apply State.fetchBad_keeps
    | with_reducible apply State.bump_keeps
    | with_reducible apply State.auditEnd_keeps
    | with_reducible apply State.auditMiss_keeps
    | with_reducible apply State.under_keeps
    | split

/-- execAuditTimeout keeps what every operation keeps. -/
theorem execAuditTimeout_keeps {a s : State} {x0} (h : Keeps a s) : EKeeps a (execAuditTimeout x0 s) := by
  unfold execAuditTimeout
  repeat' first
    | with_reducible assumption
    | ((fail_if_no_progress extract_lets +onlyGivenNames t); refine (?_ : Keeps a t → _) ?_; (on_goal 2 => unfold t); (on_goal 1 => (clear_value t; intro _)))
    | ((fail_if_no_progress extract_lets +onlyGivenNames t); subst t)
    | with_reducible refine EKeeps.done ?_
    | dsimp -zeta only
    | with_reducible apply Keeps.ite
    | with_reducible apply State.bump_keeps
    | with_reducible apply State.auditEnd_keeps
    | split

/-- execResyncComplete keeps what every operation keeps. -/
theorem execResyncComplete_keeps {a s : State} (h : Keeps a s) : EKeeps a (execResyncComplete s) := by
  unfold execResyncComplete
  repeat' first
    | with_reducible assumption
    | ((fail_if_no_progress extract_lets +onlyGivenNames t); refine (?_ : Keeps a t → _) ?_; (on_goal 2 => unfold t); (on_goal 1 => (clear_value t; intro _)))
    | ((fail_if_no_progress extract_lets +onlyGivenNames t); subst t)
    | with_reducible refine EKeeps.done ?_
    | dsimp -zeta only
    | with_reducible apply Keeps.ite
    | with_reducible apply State.enterPair_keeps
    | split
    | fail_if_no_progress (with_reducible refine Keeps.upd ?_ rfl rfl rfl rfl rfl rfl)

/-- execLeadLostDeclared keeps what every operation keeps. -/
theorem execLeadLostDeclared_keeps {a s : State} (h : Keeps a s) : EKeeps a (execLeadLostDeclared s) := by
  unfold execLeadLostDeclared
  repeat' first
    | with_reducible assumption
    | ((fail_if_no_progress extract_lets +onlyGivenNames t); refine (?_ : Keeps a t → _) ?_; (on_goal 2 => unfold t); (on_goal 1 => (clear_value t; intro _)))
    | ((fail_if_no_progress extract_lets +onlyGivenNames t); subst t)
    | with_reducible refine EKeeps.done ?_
    | dsimp -zeta only
    | with_reducible apply Keeps.ite
    | with_reducible apply State.loseRole_keeps
    | with_reducible apply State.backfillLost_keeps
    | with_reducible apply State.setF_keeps
    | with_reducible apply State.leadLostUnfit_keeps
    | split
    | fail_if_no_progress (with_reducible refine Keeps.upd ?_ rfl rfl rfl rfl rfl rfl)

/-- execFenceRecognised keeps what every operation keeps. -/
theorem execFenceRecognised_keeps {a s : State} (h : Keeps a s) : EKeeps a (execFenceRecognised s) := by
  unfold execFenceRecognised
  repeat' first
    | with_reducible assumption
    | ((fail_if_no_progress extract_lets +onlyGivenNames t); refine (?_ : Keeps a t → _) ?_; (on_goal 2 => unfold t); (on_goal 1 => (clear_value t; intro _)))
    | ((fail_if_no_progress extract_lets +onlyGivenNames t); subst t)
    | with_reducible refine EKeeps.done ?_
    | dsimp -zeta only
    | with_reducible apply Keeps.ite
    | with_reducible apply State.setF_keeps
    | with_reducible apply State.partnerLost_keeps
    | with_reducible apply State.takeAfterFailure_keeps
    | with_reducible apply State.leadLostUnfit_keeps
    | split

/-- execFenceLineFault keeps what every operation keeps. -/
theorem execFenceLineFault_keeps {a s : State} (h : Keeps a s) : EKeeps a (execFenceLineFault s) := by
  unfold execFenceLineFault
  repeat' first
    | with_reducible assumption
    | with_reducible refine EKeeps.done ?_
    | dsimp -zeta only
    | with_reducible apply State.setF_keeps

/-- execFenceReleased keeps what every operation keeps. -/
theorem execFenceReleased_keeps {a s : State} (h : Keeps a s) : EKeeps a (execFenceReleased s) := by
  unfold execFenceReleased
  repeat' first
    | with_reducible assumption
    | with_reducible refine EKeeps.done ?_
    | dsimp -zeta only
    | with_reducible apply State.setF_keeps

/-- execSeatsenseFall keeps what every operation keeps. -/
theorem execSeatsenseFall_keeps {a s : State} (h : Keeps a s) : EKeeps a (execSeatsenseFall s) := by
  unfold execSeatsenseFall
  repeat' first
    | with_reducible assumption
    | with_reducible refine EKeeps.done ?_
    | dsimp -zeta only
    | with_reducible apply State.setF_keeps

/-- execBoulevardLinkChange keeps what every operation keeps. -/
theorem execBoulevardLinkChange_keeps {a s : State} {x0 x1} (h : Keeps a s) : EKeeps a (execBoulevardLinkChange x0 x1 s) := by
  unfold execBoulevardLinkChange
  repeat' first
    | with_reducible assumption
    | ((fail_if_no_progress extract_lets +onlyGivenNames t); refine (?_ : Keeps a t → _) ?_; (on_goal 2 => unfold t); (on_goal 1 => (clear_value t; intro _)))
    | ((fail_if_no_progress extract_lets +onlyGivenNames t); subst t)
    | with_reducible refine EKeeps.done ?_
    | dsimp -zeta only
    | with_reducible apply State.evHw_keeps
    | with_reducible apply State.setF_keeps

/-- execPacketMissing keeps what every operation keeps. -/
theorem execPacketMissing_keeps {a s : State} {x0} (h : Keeps a s) : EKeeps a (execPacketMissing x0 s) := by
  unfold execPacketMissing
  repeat' first
    | with_reducible assumption
    | ((fail_if_no_progress extract_lets +onlyGivenNames t); refine (?_ : Keeps a t → _) ?_; (on_goal 2 => unfold t); (on_goal 1 => (clear_value t; intro _)))
    | ((fail_if_no_progress extract_lets +onlyGivenNames t); subst t)
    | with_reducible refine EKeeps.done ?_
    | dsimp -zeta only
    | with_reducible apply Keeps.ite
    | with_reducible apply State.bump_keeps
    | with_reducible apply State.askWitnesses_keeps
    | with_reducible apply State.enterPair_keeps
    | split
    | fail_if_no_progress (with_reducible refine Keeps.upd ?_ rfl rfl rfl rfl rfl rfl)

/-- execWreq keeps what every operation keeps. -/
theorem execWreq_keeps {a s : State} (h : Keeps a s) : EKeeps a (execWreq s) := by
  unfold execWreq
  repeat' first
    | with_reducible assumption
    | with_reducible refine EKeeps.done ?_
    | dsimp -zeta only
    | with_reducible apply Keeps.ite
    | with_reducible apply State.askWitnesses_keeps
    | split

/-- execPairStartTimeout keeps what every operation keeps. -/
theorem execPairStartTimeout_keeps {a s : State} (h : Keeps a s) : EKeeps a (execPairStartTimeout s) := by
  unfold execPairStartTimeout
  repeat' first
    | with_reducible assumption
    | ((fail_if_no_progress extract_lets +onlyGivenNames t); refine (?_ : Keeps a t → _) ?_; (on_goal 2 => unfold t); (on_goal 1 => (clear_value t; intro _)))
    | ((fail_if_no_progress extract_lets +onlyGivenNames t); subst t)
    | with_reducible refine EKeeps.done ?_
    | dsimp -zeta only
    | with_reducible apply Keeps.ite
    | with_reducible apply State.askWitnesses_keeps
    | split

/-- execWgrant keeps what every operation keeps. -/
theorem execWgrant_keeps {a s : State} {x0 x1} (h : Keeps a s) : EKeeps a (execWgrant x0 x1 s) := by
  unfold execWgrant
  repeat' first
    | with_reducible assumption
    | ((fail_if_no_progress extract_lets +onlyGivenNames t); refine (?_ : Keeps a t → _) ?_; (on_goal 2 => unfold t); (on_goal 1 => (clear_value t; intro _)))
    | ((fail_if_no_progress extract_lets +onlyGivenNames t); refine (?_ : Keeps2 a t → _) ?_; (on_goal 2 => unfold t); (on_goal 1 => (clear_value t; intro _)))
    | ((fail_if_no_progress extract_lets +onlyGivenNames t); subst t)
    | with_reducible refine EKeeps.done ?_
    | dsimp -zeta only
    | with_reducible apply Keeps.ite
    | with_reducible apply State.fspTake_keeps
    | with_reducible refine Keeps2.out (State.fspTake_keeps ?_)
    | with_reducible apply State.setF_keeps
    | with_reducible apply State.takeAfterFailure_keeps
    | with_reducible apply State.firstStart_keeps
    | with_reducible apply State.takeLead_keeps
    | with_reducible exact Keeps2.out ‹_›
    | with_reducible apply Keeps2.mk
    | with_reducible apply Keeps2.ite
    | split
    | with_reducible refine Keeps.of2 ‹_› ?_
    | fail_if_no_progress (with_reducible refine Keeps.upd ?_ rfl rfl rfl rfl rfl rfl)

/-- execWrefuse keeps what every operation keeps. -/
theorem execWrefuse_keeps {a s : State} {x0 x1} (h : Keeps a s) : EKeeps a (execWrefuse x0 x1 s) := by
  unfold execWrefuse
  repeat' first
    | with_reducible assumption
    | with_reducible refine EKeeps.done ?_
    | dsimp -zeta only
    | with_reducible apply State.fspTake_keeps
    | with_reducible refine Keeps2.out (State.fspTake_keeps ?_)
    | with_reducible apply State.bump_keeps
    | with_reducible exact Keeps2.out ‹_›
    | with_reducible apply Keeps2.mk
    | split
    | with_reducible refine Keeps.of2 ‹_› ?_

/-- execWitnessAssentLost keeps what every operation keeps. -/
theorem execWitnessAssentLost_keeps {a s : State} (h : Keeps a s) : EKeeps a (execWitnessAssentLost s) := by
  unfold execWitnessAssentLost
  repeat' first
    | with_reducible assumption
    | with_reducible refine EKeeps.done ?_
    | dsimp -zeta only
    | with_reducible apply Keeps.ite
    | with_reducible apply State.stepDown_keeps
    | split

/-- execSwitchTick keeps what every operation keeps. -/
theorem execSwitchTick_keeps {a s : State} (h : Keeps a s) : EKeeps a (execSwitchTick s) := by
  unfold execSwitchTick
  repeat' first
    | with_reducible assumption
    | ((fail_if_no_progress extract_lets +onlyGivenNames t); refine (?_ : Keeps a t → _) ?_; (on_goal 2 => unfold t); (on_goal 1 => (clear_value t; intro _)))
    | ((fail_if_no_progress extract_lets +onlyGivenNames t); subst t)
    | with_reducible refine EKeeps.done ?_
    | dsimp -zeta only
    | with_reducible apply Keeps.ite
    | with_reducible apply State.sendTick_keeps
    | with_reducible apply State.sendPacket_keeps
    | with_reducible apply State.hostNotLead_keeps
    | with_reducible apply State.abortRuns_keeps
    | with_reducible apply State.enterPair_keeps
    | with_reducible apply State.setF_keeps
    | split
    | fail_if_no_progress (with_reducible refine Keeps.upd ?_ rfl rfl rfl rfl rfl rfl)

/-- execHandover keeps what every operation keeps. -/
theorem execHandover_keeps {a s : State} {x0 x1} (h : Keeps a s) : EKeeps a (execHandover x0 x1 s) := by
  unfold execHandover
  repeat' first
    | with_reducible assumption
    | ((fail_if_no_progress extract_lets +onlyGivenNames t); refine (?_ : Keeps a t → _) ?_; (on_goal 2 => unfold t); (on_goal 1 => (clear_value t; intro _)))
    | ((fail_if_no_progress extract_lets +onlyGivenNames t); subst t)
    | with_reducible refine EKeeps.done ?_
    | dsimp -zeta only
    | with_reducible apply Keeps.ite
    | with_reducible apply State.tryHandover_keeps
    | split
    | fail_if_no_progress (with_reducible refine Keeps.upd ?_ rfl rfl rfl rfl rfl rfl)

/-- execParSwitch keeps what every operation keeps. -/
theorem execParSwitch_keeps {a s : State} {x0} (h : Keeps a s) : EKeeps a (execParSwitch x0 s) := by
  unfold execParSwitch
  repeat' first
    | with_reducible assumption
    | with_reducible refine EKeeps.done ?_
    | dsimp -zeta only
    | with_reducible apply Keeps.ite
    | with_reducible refine State.written_keeps (fun s h => ?_) ?_
    | with_reducible apply State.parCmd_keeps
    | with_reducible apply State.switchRequest_keeps
    | with_reducible refine Keeps2.out (State.switchRequest_keeps ?_)
    | with_reducible exact Keeps2.out ‹_›
    | with_reducible apply Keeps2.mk
    | with_reducible apply Keeps2.ite
    | split
    | with_reducible refine Keeps.of2 ‹_› ?_

/-- execParRelease keeps what every operation keeps. -/
theorem execParRelease_keeps {a s : State} {x0} (h : Keeps a s) : EKeeps a (execParRelease x0 s) := by
  unfold execParRelease
  repeat' first
    | with_reducible assumption
    | with_reducible refine EKeeps.done ?_
    | dsimp -zeta only
    | with_reducible refine State.written_keeps (fun s h => ?_) ?_
    | with_reducible apply State.parCmd_keeps

/-- execParJoin keeps what every operation keeps. -/
theorem execParJoin_keeps {a s : State} {x0} (h : Keeps a s) : EKeeps a (execParJoin x0 s) := by
  unfold execParJoin
  repeat' first
    | with_reducible assumption
    | with_reducible refine EKeeps.done ?_
    | dsimp -zeta only
    | with_reducible refine State.written_keeps (fun s h => ?_) ?_
    | with_reducible apply State.parCmd_keeps

/-- execParResync keeps what every operation keeps. -/
theorem execParResync_keeps {a s : State} {x0} (h : Keeps a s) : EKeeps a (execParResync x0 s) := by
  unfold execParResync
  repeat' first
    | with_reducible assumption
    | with_reducible refine EKeeps.done ?_
    | dsimp -zeta only
    | with_reducible refine State.written_keeps (fun s h => ?_) ?_
    | with_reducible apply State.parCmd_keeps

/-- execParClearcfg keeps what every operation keeps. -/
theorem execParClearcfg_keeps {a s : State} {x0} (h : Keeps a s) : EKeeps a (execParClearcfg x0 s) := by
  unfold execParClearcfg
  repeat' first
    | with_reducible assumption
    | with_reducible refine EKeeps.done ?_
    | dsimp -zeta only
    | with_reducible refine State.written_keeps (fun s h => ?_) ?_
    | with_reducible apply State.parCmd_keeps

/-- execJoinAttestation keeps what every operation keeps. -/
theorem execJoinAttestation_keeps {a s : State} {x0} (h : Keeps a s) : EKeeps a (execJoinAttestation x0 s) := by
  unfold execJoinAttestation
  repeat' first
    | with_reducible assumption
    | ((fail_if_no_progress extract_lets +onlyGivenNames t); refine (?_ : Keeps a t → _) ?_; (on_goal 2 => unfold t); (on_goal 1 => (clear_value t; intro _)))
    | ((fail_if_no_progress extract_lets +onlyGivenNames t); subst t)
    | with_reducible refine EKeeps.done ?_
    | dsimp -zeta only
    | with_reducible apply Keeps.ite
    | with_reducible apply State.refuseJoin_keeps
    | with_reducible apply State.settleCfg_keeps
    | with_reducible apply State.setF_keeps
    | with_reducible apply State.partnerSeen_keeps
    | split

/-- execJoinClockTimeout keeps what every operation keeps. -/
theorem execJoinClockTimeout_keeps {a s : State} (h : Keeps a s) : EKeeps a (execJoinClockTimeout s) := by
  unfold execJoinClockTimeout
  repeat' first
    | with_reducible assumption
    | with_reducible refine EKeeps.done ?_
    | dsimp -zeta only
    | with_reducible apply Keeps.ite
    | with_reducible apply State.refuseJoin_keeps
    | with_reducible apply State.loseRole_keeps
    | with_reducible apply State.setF_keeps
    | split

/-- execTrackCaughtUp keeps what every operation keeps. -/
theorem execTrackCaughtUp_keeps {a s : State} (h : Keeps a s) : EKeeps a (execTrackCaughtUp s) := by
  unfold execTrackCaughtUp
  repeat' first
    | with_reducible assumption
    | ((fail_if_no_progress extract_lets +onlyGivenNames t); refine (?_ : Keeps a t → _) ?_; (on_goal 2 => unfold t); (on_goal 1 => (clear_value t; intro _)))
    | ((fail_if_no_progress extract_lets +onlyGivenNames t); subst t)
    | with_reducible refine EKeeps.done ?_
    | dsimp -zeta only
    | with_reducible apply Keeps.ite
    | with_reducible apply State.setF_keeps
    | with_reducible apply State.partnerKept_keeps
    | with_reducible apply State.enterPair_keeps
    | split
    | fail_if_no_progress (with_reducible refine Keeps.upd ?_ rfl rfl rfl rfl rfl rfl)

/-- execHelloReceive keeps what every operation keeps. -/
theorem execHelloReceive_keeps {a s : State} {x0} (h : Keeps a s) : EKeeps a (execHelloReceive x0 s) := by
  unfold execHelloReceive
  repeat' first
    | with_reducible assumption
    | ((fail_if_no_progress extract_lets +onlyGivenNames t); refine (?_ : Keeps a t → _) ?_; (on_goal 2 => unfold t); (on_goal 1 => (clear_value t; intro _)))
    | ((fail_if_no_progress extract_lets +onlyGivenNames t); subst t)
    | with_reducible refine EKeeps.done ?_
    | dsimp -zeta only
    | with_reducible apply Keeps.ite
    | with_reducible apply State.stepDown_keeps
    | with_reducible apply State.settleCfg_keeps
    | with_reducible apply State.sendHello_keeps
    | with_reducible apply State.retCompare_keeps
    | with_reducible apply State.setF_keeps
    | with_reducible apply State.beginJoin_keeps
    | with_reducible apply State.followerAsks_keeps
    | with_reducible apply State.enterJoin_keeps
    | with_reducible apply State.leadAnswers_keeps
    | with_reducible apply State.pairStart_keeps
    | with_reducible apply State.evSec_keeps
    | with_reducible apply State.loseRole_keeps
    | split
    | fail_if_no_progress (with_reducible refine Keeps.upd ?_ rfl rfl rfl rfl rfl rfl)

/-- execSeatsenseRise keeps what every operation keeps. -/
theorem execSeatsenseRise_keeps {a s : State} (h : Keeps a s) : EKeeps a (execSeatsenseRise s) := by
  unfold execSeatsenseRise
  repeat' first
    | with_reducible assumption
    | ((fail_if_no_progress extract_lets +onlyGivenNames t); refine (?_ : Keeps a t → _) ?_; (on_goal 2 => unfold t); (on_goal 1 => (clear_value t; intro _)))
    | ((fail_if_no_progress extract_lets +onlyGivenNames t); subst t)
    | with_reducible refine EKeeps.done ?_
    | dsimp -zeta only
    | with_reducible apply Keeps.ite
    | with_reducible apply State.setF_keeps
    | with_reducible apply State.beginJoin_keeps
    | split

/-- execBulk keeps what every operation keeps. -/
theorem execBulk_keeps {a s : State} {x0} (h : Keeps a s) : EKeeps a (execBulk x0 s) := by
  unfold execBulk
  repeat' first
    | with_reducible assumption
    | with_reducible refine EKeeps.done ?_
    | dsimp -zeta only
    | with_reducible apply Keeps.ite
    | with_reducible apply State.bulkTake_keeps
    | split

/-- execBackfillRecord keeps what every operation keeps. -/
theorem execBackfillRecord_keeps {a s : State} {x0 x1} (h : Keeps a s) : EKeeps a (execBackfillRecord x0 x1 s) := by
  unfold execBackfillRecord
  repeat' first
    | with_reducible assumption
    | ((fail_if_no_progress extract_lets +onlyGivenNames t); refine (?_ : Keeps a t → _) ?_; (on_goal 2 => unfold t); (on_goal 1 => (clear_value t; intro _)))
    | ((fail_if_no_progress extract_lets +onlyGivenNames t); subst t)
    | with_reducible refine EKeeps.done ?_
    | dsimp -zeta only
    | with_reducible apply Keeps.ite
    | with_reducible apply State.evCfg_keeps
    | with_reducible apply State.setF_keeps
    | split
    | fail_if_no_progress (with_reducible refine Keeps.upd ?_ rfl rfl rfl rfl rfl rfl)

/-- execBatchCommitAlone keeps what every operation keeps. -/
theorem execBatchCommitAlone_keeps {a s : State} (h : Keeps a s) : EKeeps a (execBatchCommitAlone s) := by
  unfold execBatchCommitAlone
  repeat' first
    | with_reducible assumption
    | with_reducible refine EKeeps.done ?_
    | dsimp -zeta only
    | with_reducible apply Keeps.ite
    | with_reducible apply State.commitBatch_keeps
    | split

/-- execCutInstant keeps what every operation keeps. -/
theorem execCutInstant_keeps {a s : State} {x0} (h : Keeps a s) : EKeeps a (execCutInstant x0 s) := by
  unfold execCutInstant
  repeat' first
    | with_reducible assumption
    | ((fail_if_no_progress extract_lets +onlyGivenNames t); refine (?_ : Keeps a t → _) ?_; (on_goal 2 => unfold t); (on_goal 1 => (clear_value t; intro _)))
    | ((fail_if_no_progress extract_lets +onlyGivenNames t); refine (?_ : Keeps2 a t → _) ?_; (on_goal 2 => unfold t); (on_goal 1 => (clear_value t; intro _)))
    | ((fail_if_no_progress extract_lets +onlyGivenNames t); refine (?_ : Keeps1 a t → _) ?_; (on_goal 2 => unfold t); (on_goal 1 => (clear_value t; intro _)))
    | ((fail_if_no_progress extract_lets +onlyGivenNames t); subst t)
    | with_reducible refine EKeeps.done ?_
    | dsimp -zeta only
    | with_reducible apply Keeps.ite
    | with_reducible apply State.modCut_keeps
    | with_reducible exact Keeps1.out ‹_›
    | with_reducible apply Keeps1.mk
    | with_reducible apply Keeps1.ite
    | with_reducible refine Keeps1.foldl ?_ (fun _ _ _ => ?_)
    | with_reducible refine Keeps1.out ?_
    | with_reducible exact Keeps2.out ‹_›
    | with_reducible apply Keeps2.mk
    | with_reducible apply Keeps2.ite
    | with_reducible refine Keeps2.foldl ?_ (fun _ _ _ => ?_)
    | with_reducible refine Keeps2.out ?_
    | with_reducible refine Keeps.foldl ?_ (fun _ _ _ => ?_)
    | split

/-- execCutdata keeps what every operation keeps. -/
theorem execCutdata_keeps {a s : State} {x0 x1} (h : Keeps a s) : EKeeps a (execCutdata x0 x1 s) := by
  unfold execCutdata
  repeat' first
    | with_reducible assumption
    | ((fail_if_no_progress extract_lets +onlyGivenNames t); refine (?_ : Keeps a t → _) ?_; (on_goal 2 => unfold t); (on_goal 1 => (clear_value t; intro _)))
    | ((fail_if_no_progress extract_lets +onlyGivenNames t); refine (?_ : Keeps2 a t → _) ?_; (on_goal 2 => unfold t); (on_goal 1 => (clear_value t; intro _)))
    | ((fail_if_no_progress extract_lets +onlyGivenNames t); refine (?_ : Keeps1 a t → _) ?_; (on_goal 2 => unfold t); (on_goal 1 => (clear_value t; intro _)))
    | ((fail_if_no_progress extract_lets +onlyGivenNames t); subst t)
    | with_reducible refine EKeeps.done ?_
    | dsimp -zeta only
    | with_reducible apply Keeps.ite
    | with_reducible apply State.fspTake_keeps
    | with_reducible refine Keeps2.out (State.fspTake_keeps ?_)
    | with_reducible apply State.bump_keeps
    | with_reducible apply State.modCut_keeps
    | with_reducible exact Keeps2.out ‹_›
    | with_reducible apply Keeps2.mk
    | with_reducible apply Keeps2.ite
    | with_reducible refine Keeps2.foldl ?_ (fun _ _ _ => ?_)
    | with_reducible refine Keeps2.out ?_
    | with_reducible refine Keeps.foldl ?_ (fun _ _ _ => ?_)
    | split
    | with_reducible refine Keeps.of2 ‹_› ?_

/-- execCutClose keeps what every operation keeps. -/
theorem execCutClose_keeps {a s : State} {x0} (h : Keeps a s) : EKeeps a (execCutClose x0 s) := by
  unfold execCutClose
  repeat' first
    | with_reducible assumption
    | with_reducible refine EKeeps.done ?_
    | dsimp -zeta only
    | with_reducible apply Keeps.ite
    | with_reducible apply State.finishCut_keeps
    | split

/-- execLeaseExpiry keeps what every operation keeps. -/
theorem execLeaseExpiry_keeps {a s : State} (h : Keeps a s) : EKeeps a (execLeaseExpiry s) := by
  unfold execLeaseExpiry
  repeat' first
    | with_reducible assumption
    | with_reducible refine EKeeps.done ?_
    | dsimp -zeta only
    | with_reducible apply Keeps.ite
    | with_reducible apply State.breakLock_keeps
    | with_reducible exact Keeps1.out ‹_›
    | with_reducible apply Keeps1.mk
    | with_reducible apply Keeps1.ite
    | with_reducible refine Keeps1.foldl ?_ (fun _ _ _ => ?_)
    | with_reducible refine Keeps1.out ?_
    | with_reducible exact Keeps2.out ‹_›
    | with_reducible apply Keeps2.mk
    | with_reducible apply Keeps2.ite
    | with_reducible refine Keeps2.foldl ?_ (fun _ _ _ => ?_)
    | with_reducible refine Keeps2.out ?_
    | with_reducible refine Keeps.foldl ?_ (fun _ _ _ => ?_)
    | split

/-- execLockGrant keeps what every operation keeps. -/
theorem execLockGrant_keeps {a s : State} (h : Keeps a s) : EKeeps a (execLockGrant s) := by
  unfold execLockGrant
  repeat' first
    | with_reducible assumption
    | with_reducible refine EKeeps.done ?_
    | dsimp -zeta only
    | with_reducible apply State.lockOn_keeps
    | with_reducible exact Keeps1.out ‹_›
    | with_reducible apply Keeps1.mk
    | with_reducible refine Keeps1.foldl ?_ (fun _ _ _ => ?_)
    | with_reducible refine Keeps1.out ?_
    | with_reducible exact Keeps2.out ‹_›
    | with_reducible apply Keeps2.mk
    | with_reducible refine Keeps2.foldl ?_ (fun _ _ _ => ?_)
    | with_reducible refine Keeps2.out ?_
    | with_reducible refine Keeps.foldl ?_ (fun _ _ _ => ?_)

/-- execCoalescingWindowClose keeps what every operation keeps. -/
theorem execCoalescingWindowClose_keeps {a s : State} {x0 x1} (h : Keeps a s) : EKeeps a (execCoalescingWindowClose x0 x1 s) := by
  unfold execCoalescingWindowClose
  repeat' first
    | with_reducible assumption
    | ((fail_if_no_progress extract_lets +onlyGivenNames t); refine (?_ : Keeps a t → _) ?_; (on_goal 2 => unfold t); (on_goal 1 => (clear_value t; intro _)))
    | ((fail_if_no_progress extract_lets +onlyGivenNames t); subst t)
    | with_reducible refine EKeeps.done ?_
    | dsimp -zeta only
    | with_reducible apply Keeps.ite
    | with_reducible apply State.putWin_keeps
    | with_reducible apply State.event_keeps
    | split

/-- execConnectionRequest keeps what every operation keeps. -/
theorem execConnectionRequest_keeps {a s : State} {x0 x1 x2} (h : Keeps a s) : EKeeps a (execConnectionRequest x0 x1 x2 s) := by
  unfold execConnectionRequest
  repeat' first
    | with_reducible assumption
    | ((fail_if_no_progress extract_lets +onlyGivenNames t); refine (?_ : Keeps a t → _) ?_; (on_goal 2 => unfold t); (on_goal 1 => (clear_value t; intro _)))
    | ((fail_if_no_progress extract_lets +onlyGivenNames t); subst t)
    | with_reducible refine EKeeps.done ?_
    | dsimp -zeta only
    | with_reducible apply Keeps.ite
    | with_reducible apply State.sendRej_keeps
    | with_reducible apply State.endSession_keeps
    | with_reducible apply State.sendRep_keeps
    | with_reducible apply State.hqeStat_keeps
    | with_reducible apply State.closePath_keeps
    | split
    | fail_if_no_progress (with_reducible refine Keeps.upd ?_ rfl rfl rfl rfl rfl rfl)

/-- execSessionEnd keeps what every operation keeps. -/
theorem execSessionEnd_keeps {a s : State} {x0 x1} (h : Keeps a s) : EKeeps a (execSessionEnd x0 x1 s) := by
  unfold execSessionEnd
  repeat' first
    | with_reducible assumption
    | with_reducible refine EKeeps.done ?_
    | dsimp -zeta only
    | with_reducible apply Keeps.ite
    | with_reducible apply State.endSession_keeps
    | split

/-- execTransportRetryExhausted keeps what every operation keeps. -/
theorem execTransportRetryExhausted_keeps {a s : State} {x0} (h : Keeps a s) : EKeeps a (execTransportRetryExhausted x0 s) := by
  unfold execTransportRetryExhausted
  repeat' first
    | with_reducible assumption
    | with_reducible refine EKeeps.done ?_
    | dsimp -zeta only
    | with_reducible apply State.endSession_keeps

/-- execDoorbell keeps what every operation keeps. -/
theorem execDoorbell_keeps {a s : State} {x0 x1 x2 x3 x4} (h : Keeps a s) : EKeeps a (execDoorbell x0 x1 x2 x3 x4 s) := by
  unfold execDoorbell
  repeat' first
    | with_reducible assumption
    | ((fail_if_no_progress extract_lets +onlyGivenNames t); refine (?_ : Keeps a t → _) ?_; (on_goal 2 => unfold t); (on_goal 1 => (clear_value t; intro _)))
    | ((fail_if_no_progress extract_lets +onlyGivenNames t); subst t)
    | with_reducible refine EKeeps.done ?_
    | dsimp -zeta only
    | with_reducible apply Keeps.ite
    | with_reducible apply State.emit_keeps
    | with_reducible apply State.bump_keeps
    | with_reducible apply State.modSess_keeps
    | with_reducible apply State.modQp_keeps
    | split

/-- execDescriptorFetch keeps what every operation keeps. -/
theorem execDescriptorFetch_keeps {a s : State} {x0 x1 x2} (h : Keeps a s) : EKeeps a (execDescriptorFetch x0 x1 x2 s) := by
  unfold execDescriptorFetch
  repeat' first
    | with_reducible assumption
    | ((fail_if_no_progress extract_lets +onlyGivenNames t); refine (?_ : Keeps a t → _) ?_; (on_goal 2 => unfold t); (on_goal 1 => (clear_value t; intro _)))
    | ((fail_if_no_progress extract_lets +onlyGivenNames t); refine (?_ : Keeps2 a t → _) ?_; (on_goal 2 => unfold t); (on_goal 1 => (clear_value t; intro _)))
    | ((fail_if_no_progress extract_lets +onlyGivenNames t); refine (?_ : Keeps1 a t → _) ?_; (on_goal 2 => unfold t); (on_goal 1 => (clear_value t; intro _)))
    | ((fail_if_no_progress extract_lets +onlyGivenNames t); subst t)
    | with_reducible refine EKeeps.done ?_
    | dsimp -zeta only
    | with_reducible apply Keeps.ite
    | with_reducible apply State.drain_keeps
    | with_reducible apply State.emit_keeps
    | with_reducible apply State.modQp_keeps
    | with_reducible apply State.renew_keeps
    | with_reducible apply State.modSess_keeps
    | with_reducible exact Keeps1.out ‹_›
    | with_reducible apply Keeps1.mk
    | with_reducible apply Keeps1.ite
    | with_reducible refine Keeps1.foldl ?_ (fun _ _ _ => ?_)
    | with_reducible refine Keeps1.out ?_
    | with_reducible exact Keeps2.out ‹_›
    | with_reducible apply Keeps2.mk
    | with_reducible apply Keeps2.ite
    | with_reducible refine Keeps2.foldl ?_ (fun _ _ _ => ?_)
    | with_reducible refine Keeps2.out ?_
    | with_reducible refine Keeps.foldl ?_ (fun _ _ _ => ?_)
    | split

/-- execCompletionWrite keeps what every operation keeps. -/
theorem execCompletionWrite_keeps {a s : State} {x0 x1} (h : Keeps a s) : EKeeps a (execCompletionWrite x0 x1 s) := by
  unfold execCompletionWrite
  repeat' first
    | with_reducible assumption
    | ((fail_if_no_progress extract_lets +onlyGivenNames t); refine (?_ : Keeps a t → _) ?_; (on_goal 2 => unfold t); (on_goal 1 => (clear_value t; intro _)))
    | ((fail_if_no_progress extract_lets +onlyGivenNames t); subst t)
    | with_reducible refine EKeeps.done ?_
    | dsimp -zeta only
    | with_reducible apply Keeps.ite
    | with_reducible apply State.emit_keeps
    | with_reducible apply State.subFailed_keeps
    | with_reducible apply State.modQp_keeps
    | with_reducible apply State.endSession_keeps
    | split

/-- execHostNop keeps what every operation keeps. -/
theorem execHostNop_keeps {a s : State} {x0 x1} (h : Keeps a s) : EKeeps a (execHostNop x0 x1 s) := by
  unfold execHostNop
  repeat' first
    | with_reducible assumption
    | with_reducible refine EKeeps.done ?_
    | dsimp -zeta only
    | with_reducible refine State.startDesc_keeps (fun x d s h => ?_) ?_
    | with_reducible apply State.complete_keeps

/-- execReadAt keeps what every operation keeps. -/
theorem execReadAt_keeps {a s : State} {x0 x1} (h : Keeps a s) : EKeeps a (execReadAt x0 x1 s) := by
  unfold execReadAt
  repeat' first
    | with_reducible assumption
    | ((fail_if_no_progress extract_lets +onlyGivenNames t); refine (?_ : Keeps a t → _) ?_; (on_goal 2 => unfold t); (on_goal 1 => (clear_value t; intro _)))
    | ((fail_if_no_progress extract_lets +onlyGivenNames t); subst t)
    | with_reducible refine EKeeps.done ?_
    | dsimp -zeta only
    | with_reducible apply Keeps.ite
    | with_reducible refine State.startDesc_keeps (fun x d s h => ?_) ?_
    | with_reducible apply State.complete_keeps
    | with_reducible apply State.readStart_keeps
    | split

/-- execReadAtRaw keeps what every operation keeps. -/
theorem execReadAtRaw_keeps {a s : State} {x0 x1} (h : Keeps a s) : EKeeps a (execReadAtRaw x0 x1 s) := by
  unfold execReadAtRaw
  repeat' first
    | with_reducible assumption
    | ((fail_if_no_progress extract_lets +onlyGivenNames t); refine (?_ : Keeps a t → _) ?_; (on_goal 2 => unfold t); (on_goal 1 => (clear_value t; intro _)))
    | ((fail_if_no_progress extract_lets +onlyGivenNames t); subst t)
    | with_reducible refine EKeeps.done ?_
    | dsimp -zeta only
    | with_reducible apply Keeps.ite
    | with_reducible refine State.startDesc_keeps (fun x d s h => ?_) ?_
    | with_reducible apply State.complete_keeps
    | with_reducible apply State.readStart_keeps
    | split

/-- execDescriptorWaitTimeout keeps what every operation keeps. -/
theorem execDescriptorWaitTimeout_keeps {a s : State} {x0 x1 x2} (h : Keeps a s) : EKeeps a (execDescriptorWaitTimeout x0 x1 x2 s) := by
  unfold execDescriptorWaitTimeout
  repeat' first
    | with_reducible assumption
    | with_reducible refine EKeeps.done ?_
    | dsimp -zeta only
    | with_reducible apply State.drain_keeps
    | with_reducible apply State.endWait_keeps
    | split

/-- execWriteNext keeps what every operation keeps. -/
theorem execWriteNext_keeps {a s : State} {x0 x1} (h : Keeps a s) : EKeeps a (execWriteNext x0 x1 s) := by
  unfold execWriteNext
  repeat' first
    | with_reducible assumption
    | ((fail_if_no_progress extract_lets +onlyGivenNames t); refine (?_ : Keeps a t → _) ?_; (on_goal 2 => unfold t); (on_goal 1 => (clear_value t; intro _)))
    | ((fail_if_no_progress extract_lets +onlyGivenNames t); refine (?_ : Keeps2 a t → _) ?_; (on_goal 2 => unfold t); (on_goal 1 => (clear_value t; intro _)))
    | ((fail_if_no_progress extract_lets +onlyGivenNames t); subst t)
    | with_reducible refine EKeeps.done ?_
    | dsimp -zeta only
    | with_reducible apply Keeps.ite
    | with_reducible refine State.startDesc_keeps (fun x d s h => ?_) ?_
    | with_reducible apply State.complete_keeps
    | with_reducible refine State.dedup_keeps (fun s h => ?_) ?_
    | with_reducible apply State.writeEntries_keeps
    | with_reducible refine Keeps2.out (State.writeEntries_keeps ?_)
    | with_reducible apply State.stage_keeps
    | with_reducible apply State.admitBatch_keeps
    | with_reducible exact Keeps2.out ‹_›
    | with_reducible apply Keeps2.mk
    | with_reducible apply Keeps2.ite
    | split
    | with_reducible refine Keeps.of2 ‹_› ?_

/-- execHostForce keeps what every operation keeps. -/
theorem execHostForce_keeps {a s : State} {x0 x1} (h : Keeps a s) : EKeeps a (execHostForce x0 x1 s) := by
  unfold execHostForce
  repeat' first
    | with_reducible assumption
    | ((fail_if_no_progress extract_lets +onlyGivenNames t); refine (?_ : Keeps a t → _) ?_; (on_goal 2 => unfold t); (on_goal 1 => (clear_value t; intro _)))
    | ((fail_if_no_progress extract_lets +onlyGivenNames t); refine (?_ : Keeps2 a t → _) ?_; (on_goal 2 => unfold t); (on_goal 1 => (clear_value t; intro _)))
    | ((fail_if_no_progress extract_lets +onlyGivenNames t); subst t)
    | with_reducible refine EKeeps.done ?_
    | dsimp -zeta only
    | with_reducible apply Keeps.ite
    | with_reducible refine State.startDesc_keeps (fun x d s h => ?_) ?_
    | with_reducible apply State.complete_keeps
    | with_reducible refine State.dedup_keeps (fun s h => ?_) ?_
    | with_reducible apply State.forceEntries_keeps
    | with_reducible refine Keeps2.out (State.forceEntries_keeps ?_)
    | with_reducible apply State.admitBatch_keeps
    | with_reducible exact Keeps2.out ‹_›
    | with_reducible apply Keeps2.mk
    | with_reducible apply Keeps2.ite
    | split
    | with_reducible refine Keeps.of2 ‹_› ?_

/-- execHostSubscribe keeps what every operation keeps. -/
theorem execHostSubscribe_keeps {a s : State} {x0 x1} (h : Keeps a s) : EKeeps a (execHostSubscribe x0 x1 s) := by
  unfold execHostSubscribe
  repeat' first
    | with_reducible assumption
    | ((fail_if_no_progress extract_lets +onlyGivenNames t); refine (?_ : Keeps a t → _) ?_; (on_goal 2 => unfold t); (on_goal 1 => (clear_value t; intro _)))
    | ((fail_if_no_progress extract_lets +onlyGivenNames t); refine (?_ : Keeps2 a t → _) ?_; (on_goal 2 => unfold t); (on_goal 1 => (clear_value t; intro _)))
    | ((fail_if_no_progress extract_lets +onlyGivenNames t); refine (?_ : Keeps1 a t → _) ?_; (on_goal 2 => unfold t); (on_goal 1 => (clear_value t; intro _)))
    | ((fail_if_no_progress extract_lets +onlyGivenNames t); subst t)
    | with_reducible refine EKeeps.done ?_
    | dsimp -zeta only
    | with_reducible apply Keeps.ite
    | with_reducible refine State.startDesc_keeps (fun x d s h => ?_) ?_
    | with_reducible apply State.complete_keeps
    | with_reducible apply State.modSess_keeps
    | with_reducible exact Keeps1.out ‹_›
    | with_reducible apply Keeps1.mk
    | with_reducible apply Keeps1.ite
    | with_reducible refine Keeps1.foldl ?_ (fun _ _ _ => ?_)
    | with_reducible refine Keeps1.out ?_
    | with_reducible exact Keeps2.out ‹_›
    | with_reducible apply Keeps2.mk
    | with_reducible apply Keeps2.ite
    | with_reducible refine Keeps2.foldl ?_ (fun _ _ _ => ?_)
    | with_reducible refine Keeps2.out ?_
    | with_reducible refine Keeps.foldl ?_ (fun _ _ _ => ?_)
    | split

/-- execHostCancel keeps what every operation keeps. -/
theorem execHostCancel_keeps {a s : State} {x0 x1} (h : Keeps a s) : EKeeps a (execHostCancel x0 x1 s) := by
  unfold execHostCancel
  repeat' first
    | with_reducible assumption
    | ((fail_if_no_progress extract_lets +onlyGivenNames t); refine (?_ : Keeps a t → _) ?_; (on_goal 2 => unfold t); (on_goal 1 => (clear_value t; intro _)))
    | ((fail_if_no_progress extract_lets +onlyGivenNames t); subst t)
    | with_reducible refine EKeeps.done ?_
    | dsimp -zeta only
    | with_reducible apply Keeps.ite
    | with_reducible refine State.startDesc_keeps (fun x d s h => ?_) ?_
    | with_reducible apply State.complete_keeps
    | with_reducible apply State.endWait_keeps
    | with_reducible apply State.modSess_keeps
    | with_reducible apply State.modQp_keeps
    | with_reducible apply State.putCompl_keeps
    | split

/-- execHistoryRead keeps what every operation keeps. -/
theorem execHistoryRead_keeps {a s : State} {x0 x1} (h : Keeps a s) : EKeeps a (execHistoryRead x0 x1 s) := by
  unfold execHistoryRead
  repeat' first
    | with_reducible assumption
    | with_reducible refine EKeeps.done ?_
    | dsimp -zeta only
    | with_reducible apply Keeps.ite
    | with_reducible refine State.startDesc_keeps (fun x d s h => ?_) ?_
    | with_reducible apply State.complete_keeps
    | with_reducible apply State.logRead_keeps
    | split

/-- execHistoryReadDelta keeps what every operation keeps. -/
theorem execHistoryReadDelta_keeps {a s : State} {x0 x1} (h : Keeps a s) : EKeeps a (execHistoryReadDelta x0 x1 s) := by
  unfold execHistoryReadDelta
  repeat' first
    | with_reducible assumption
    | ((fail_if_no_progress extract_lets +onlyGivenNames t); refine (?_ : Keeps a t → _) ?_; (on_goal 2 => unfold t); (on_goal 1 => (clear_value t; intro _)))
    | ((fail_if_no_progress extract_lets +onlyGivenNames t); subst t)
    | with_reducible refine EKeeps.done ?_
    | dsimp -zeta only
    | with_reducible apply Keeps.ite
    | with_reducible refine State.startDesc_keeps (fun x d s h => ?_) ?_
    | with_reducible apply State.complete_keeps
    | split

/-- execEventRead keeps what every operation keeps. -/
theorem execEventRead_keeps {a s : State} {x0 x1} (h : Keeps a s) : EKeeps a (execEventRead x0 x1 s) := by
  unfold execEventRead
  repeat' first
    | with_reducible assumption
    | with_reducible refine EKeeps.done ?_
    | dsimp -zeta only
    | with_reducible refine State.startDesc_keeps (fun x d s h => ?_) ?_
    | with_reducible apply State.logRead_keeps

/-- execHostCut keeps what every operation keeps. -/
theorem execHostCut_keeps {a s : State} {x0 x1} (h : Keeps a s) : EKeeps a (execHostCut x0 x1 s) := by
  unfold execHostCut
  repeat' first
    | with_reducible assumption
    | ((fail_if_no_progress extract_lets +onlyGivenNames t); refine (?_ : Keeps a t → _) ?_; (on_goal 2 => unfold t); (on_goal 1 => (clear_value t; intro _)))
    | ((fail_if_no_progress extract_lets +onlyGivenNames t); refine (?_ : Keeps2 a t → _) ?_; (on_goal 2 => unfold t); (on_goal 1 => (clear_value t; intro _)))
    | ((fail_if_no_progress extract_lets +onlyGivenNames t); refine (?_ : Keeps1 a t → _) ?_; (on_goal 2 => unfold t); (on_goal 1 => (clear_value t; intro _)))
    | ((fail_if_no_progress extract_lets +onlyGivenNames t); subst t)
    | with_reducible refine EKeeps.done ?_
    | dsimp -zeta only
    | with_reducible apply Keeps.ite
    | with_reducible refine State.startDesc_keeps (fun x d s h => ?_) ?_
    | with_reducible apply State.complete_keeps
    | with_reducible apply State.share_keeps
    | with_reducible apply State.fspSend_keeps
    | with_reducible exact Keeps1.out ‹_›
    | with_reducible apply Keeps1.mk
    | with_reducible apply Keeps1.ite
    | with_reducible refine Keeps1.foldl ?_ (fun _ _ _ => ?_)
    | with_reducible refine Keeps1.out ?_
    | with_reducible exact Keeps2.out ‹_›
    | with_reducible apply Keeps2.mk
    | with_reducible apply Keeps2.ite
    | with_reducible refine Keeps2.foldl ?_ (fun _ _ _ => ?_)
    | with_reducible refine Keeps2.out ?_
    | with_reducible refine Keeps.foldl ?_ (fun _ _ _ => ?_)
    | split
    | fail_if_no_progress (with_reducible refine Keeps.upd ?_ rfl rfl rfl rfl rfl rfl)

/-- execHostLock keeps what every operation keeps. -/
theorem execHostLock_keeps {a s : State} {x0 x1} (h : Keeps a s) : EKeeps a (execHostLock x0 x1 s) := by
  unfold execHostLock
  repeat' first
    | with_reducible assumption
    | ((fail_if_no_progress extract_lets +onlyGivenNames t); refine (?_ : Keeps a t → _) ?_; (on_goal 2 => unfold t); (on_goal 1 => (clear_value t; intro _)))
    | ((fail_if_no_progress extract_lets +onlyGivenNames t); subst t)
    | with_reducible refine EKeeps.done ?_
    | dsimp -zeta only
    | with_reducible apply Keeps.ite
    | with_reducible refine State.startDesc_keeps (fun x d s h => ?_) ?_
    | with_reducible apply State.complete_keeps
    | with_reducible apply State.bump_keeps
    | with_reducible apply State.modQp_keeps
    | with_reducible apply State.lockOn_keeps
    | split
    | fail_if_no_progress (with_reducible refine Keeps.upd ?_ rfl rfl rfl rfl rfl rfl)

/-- execUnlockCommit keeps what every operation keeps. -/
theorem execUnlockCommit_keeps {a s : State} {x0 x1} (h : Keeps a s) : EKeeps a (execUnlockCommit x0 x1 s) := by
  unfold execUnlockCommit
  repeat' first
    | with_reducible assumption
    | ((fail_if_no_progress extract_lets +onlyGivenNames t); refine (?_ : Keeps a t → _) ?_; (on_goal 2 => unfold t); (on_goal 1 => (clear_value t; intro _)))
    | ((fail_if_no_progress extract_lets +onlyGivenNames t); subst t)
    | with_reducible refine EKeeps.done ?_
    | dsimp -zeta only
    | with_reducible apply Keeps.ite
    | with_reducible refine State.startDesc_keeps (fun x d s h => ?_) ?_
    | with_reducible apply State.complete_keeps
    | with_reducible refine State.dedup_keeps (fun s h => ?_) ?_
    | with_reducible apply State.releaseOf_keeps
    | with_reducible apply State.admitBatch_keeps
    | split

/-- execUnlockDiscard keeps what every operation keeps. -/
theorem execUnlockDiscard_keeps {a s : State} {x0 x1} (h : Keeps a s) : EKeeps a (execUnlockDiscard x0 x1 s) := by
  unfold execUnlockDiscard
  repeat' first
    | with_reducible assumption
    | ((fail_if_no_progress extract_lets +onlyGivenNames t); refine (?_ : Keeps a t → _) ?_; (on_goal 2 => unfold t); (on_goal 1 => (clear_value t; intro _)))
    | ((fail_if_no_progress extract_lets +onlyGivenNames t); subst t)
    | with_reducible refine EKeeps.done ?_
    | dsimp -zeta only
    | with_reducible apply Keeps.ite
    | with_reducible refine State.startDesc_keeps (fun x d s h => ?_) ?_
    | with_reducible apply State.complete_keeps
    | with_reducible apply State.releaseOf_keeps
    | split

/-- execHostTime keeps what every operation keeps. -/
theorem execHostTime_keeps {a s : State} {x0 x1} (h : Keeps a s) : EKeeps a (execHostTime x0 x1 s) := by
  unfold execHostTime
  repeat' first
    | with_reducible assumption
    | with_reducible refine EKeeps.done ?_
    | dsimp -zeta only
    | with_reducible apply Keeps.ite
    | with_reducible refine State.startDesc_keeps (fun x d s h => ?_) ?_
    | with_reducible apply State.complete_keeps
    | split

/-- execAttest keeps what every operation keeps. -/
theorem execAttest_keeps {a s : State} {x0 x1} (h : Keeps a s) : EKeeps a (execAttest x0 x1 s) := by
  unfold execAttest
  repeat' first
    | with_reducible assumption
    | ((fail_if_no_progress extract_lets +onlyGivenNames t); refine (?_ : Keeps a t → _) ?_; (on_goal 2 => unfold t); (on_goal 1 => (clear_value t; intro _)))
    | ((fail_if_no_progress extract_lets +onlyGivenNames t); subst t)
    | with_reducible refine EKeeps.done ?_
    | dsimp -zeta only
    | with_reducible apply Keeps.ite
    | with_reducible refine State.startDesc_keeps (fun x d s h => ?_) ?_
    | with_reducible apply State.complete_keeps
    | split

/-- execQpCreate keeps what every operation keeps. -/
theorem execQpCreate_keeps {a s : State} {x0 x1} (h : Keeps a s) : EKeeps a (execQpCreate x0 x1 s) := by
  unfold execQpCreate
  repeat' first
    | with_reducible assumption
    | ((fail_if_no_progress extract_lets +onlyGivenNames t); refine (?_ : Keeps a t → _) ?_; (on_goal 2 => unfold t); (on_goal 1 => (clear_value t; intro _)))
    | ((fail_if_no_progress extract_lets +onlyGivenNames t); subst t)
    | with_reducible refine EKeeps.done ?_
    | dsimp -zeta only
    | with_reducible apply Keeps.ite
    | with_reducible refine State.startDesc_keeps (fun x d s h => ?_) ?_
    | with_reducible apply State.complete_keeps
    | with_reducible apply State.modSess_keeps
    | with_reducible apply State.hqeStat_keeps
    | split

/-- execQpDestroy keeps what every operation keeps. -/
theorem execQpDestroy_keeps {a s : State} {x0 x1} (h : Keeps a s) : EKeeps a (execQpDestroy x0 x1 s) := by
  unfold execQpDestroy
  repeat' first
    | with_reducible assumption
    | ((fail_if_no_progress extract_lets +onlyGivenNames t); refine (?_ : Keeps a t → _) ?_; (on_goal 2 => unfold t); (on_goal 1 => (clear_value t; intro _)))
    | ((fail_if_no_progress extract_lets +onlyGivenNames t); refine (?_ : Keeps2 a t → _) ?_; (on_goal 2 => unfold t); (on_goal 1 => (clear_value t; intro _)))
    | ((fail_if_no_progress extract_lets +onlyGivenNames t); refine (?_ : Keeps1 a t → _) ?_; (on_goal 2 => unfold t); (on_goal 1 => (clear_value t; intro _)))
    | ((fail_if_no_progress extract_lets +onlyGivenNames t); subst t)
    | with_reducible refine EKeeps.done ?_
    | dsimp -zeta only
    | with_reducible apply Keeps.ite
    | with_reducible refine State.startDesc_keeps (fun x d s h => ?_) ?_
    | with_reducible apply State.complete_keeps
    | with_reducible apply State.ungrant_keeps
    | with_reducible apply State.modSess_keeps
    | with_reducible apply State.hqeStat_keeps
    | with_reducible apply State.forgetQp_keeps
    | with_reducible exact Keeps1.out ‹_›
    | with_reducible apply Keeps1.mk
    | with_reducible apply Keeps1.ite
    | with_reducible refine Keeps1.foldl ?_ (fun _ _ _ => ?_)
    | with_reducible refine Keeps1.out ?_
    | with_reducible exact Keeps2.out ‹_›
    | with_reducible apply Keeps2.mk
    | with_reducible apply Keeps2.ite
    | with_reducible refine Keeps2.foldl ?_ (fun _ _ _ => ?_)
    | with_reducible refine Keeps2.out ?_
    | with_reducible refine Keeps.foldl ?_ (fun _ _ _ => ?_)
    | split

/-- execSessionClose keeps what every operation keeps. -/
theorem execSessionClose_keeps {a s : State} {x0 x1} (h : Keeps a s) : EKeeps a (execSessionClose x0 x1 s) := by
  unfold execSessionClose
  repeat' first
    | with_reducible assumption
    | ((fail_if_no_progress extract_lets +onlyGivenNames t); refine (?_ : Keeps a t → _) ?_; (on_goal 2 => unfold t); (on_goal 1 => (clear_value t; intro _)))
    | ((fail_if_no_progress extract_lets +onlyGivenNames t); subst t)
    | with_reducible refine EKeeps.done ?_
    | dsimp -zeta only
    | with_reducible refine State.startDesc_keeps (fun x d s h => ?_) ?_
    | with_reducible apply State.complete_keeps
    | with_reducible apply State.modSess_keeps
    | split

/-- execHostLatency keeps what every operation keeps. -/
theorem execHostLatency_keeps {a s : State} {x0 x1} (h : Keeps a s) : EKeeps a (execHostLatency x0 x1 s) := by
  unfold execHostLatency
  repeat' first
    | with_reducible assumption
    | ((fail_if_no_progress extract_lets +onlyGivenNames t); refine (?_ : Keeps a t → _) ?_; (on_goal 2 => unfold t); (on_goal 1 => (clear_value t; intro _)))
    | ((fail_if_no_progress extract_lets +onlyGivenNames t); subst t)
    | with_reducible refine EKeeps.done ?_
    | dsimp -zeta only
    | with_reducible apply Keeps.ite
    | with_reducible refine State.startDesc_keeps (fun x d s h => ?_) ?_
    | with_reducible apply State.modSess_keeps
    | with_reducible apply State.complete_keeps
    | split

/-- execSakChange keeps what every operation keeps. -/
theorem execSakChange_keeps {a s : State} {x0 x1 x2} (h : Keeps a s) : EKeeps a (execSakChange x0 x1 x2 s) := by
  unfold execSakChange
  repeat' first
    | with_reducible assumption
    | ((fail_if_no_progress extract_lets +onlyGivenNames t); refine (?_ : Keeps a t → _) ?_; (on_goal 2 => unfold t); (on_goal 1 => (clear_value t; intro _)))
    | ((fail_if_no_progress extract_lets +onlyGivenNames t); subst t)
    | with_reducible refine EKeeps.done ?_
    | dsimp -zeta only
    | with_reducible apply Keeps.ite
    | with_reducible apply State.applyDue_keeps
    | with_reducible apply State.bump_keeps
    | with_reducible apply State.setB_keeps
    | with_reducible apply State.setF_keeps
    | with_reducible apply State.set64_keeps
    | split
    | fail_if_no_progress (with_reducible refine Keeps.upd ?_ rfl rfl rfl rfl rfl rfl)

/-- execSecPortcfgWrite keeps what every operation keeps. -/
theorem execSecPortcfgWrite_keeps {a s : State} {x0 x1} (h : Keeps a s) : EKeeps a (execSecPortcfgWrite x0 x1 s) := by
  unfold execSecPortcfgWrite
  repeat' first
    | with_reducible assumption
    | with_reducible refine EKeeps.done ?_
    | dsimp -zeta only
    | with_reducible refine State.written_keeps (fun s h => ?_) ?_
    | with_reducible apply State.cmdSecPortcfg_keeps

/-- execKeySwitchSample keeps what every operation keeps. -/
theorem execKeySwitchSample_keeps {a s : State} {x0 x1} (h : Keeps a s) : EKeeps a (execKeySwitchSample x0 x1 s) := by
  unfold execKeySwitchSample
  repeat' first
    | with_reducible assumption
    | with_reducible refine EKeeps.done ?_
    | dsimp -zeta only
    | with_reducible apply State.updSwitch_keeps
    | with_reducible apply State.safeSwitch_keeps

/-- execFuseReread keeps what every operation keeps. -/
theorem execFuseReread_keeps {a s : State} {x0} (h : Keeps a s) : EKeeps a (execFuseReread x0 s) := by
  unfold execFuseReread
  repeat' first
    | with_reducible assumption
    | ((fail_if_no_progress extract_lets +onlyGivenNames t); refine (?_ : Keeps a t → _) ?_; (on_goal 2 => unfold t); (on_goal 1 => (clear_value t; intro _)))
    | ((fail_if_no_progress extract_lets +onlyGivenNames t); refine (?_ : Keeps2 a t → _) ?_; (on_goal 2 => unfold t); (on_goal 1 => (clear_value t; intro _)))
    | ((fail_if_no_progress extract_lets +onlyGivenNames t); refine (?_ : Keeps1 a t → _) ?_; (on_goal 2 => unfold t); (on_goal 1 => (clear_value t; intro _)))
    | ((fail_if_no_progress extract_lets +onlyGivenNames t); subst t)
    | with_reducible refine EKeeps.done ?_
    | dsimp -zeta only
    | with_reducible apply Keeps.ite
    | with_reducible apply State.setF_keeps
    | with_reducible apply State.evHw_keeps
    | with_reducible apply State.modKerb_keeps
    | with_reducible exact Keeps1.out ‹_›
    | with_reducible apply Keeps1.mk
    | with_reducible apply Keeps1.ite
    | with_reducible refine Keeps1.foldl ?_ (fun _ _ _ => ?_)
    | with_reducible refine Keeps1.out ?_
    | with_reducible exact Keeps2.out ‹_›
    | with_reducible apply Keeps2.mk
    | with_reducible apply Keeps2.ite
    | with_reducible refine Keeps2.foldl ?_ (fun _ _ _ => ?_)
    | with_reducible refine Keeps2.out ?_
    | with_reducible refine Keeps.foldl ?_ (fun _ _ _ => ?_)
    | split

/-- execPowerOn keeps what every operation keeps. -/
theorem execPowerOn_keeps {a s : State} {x0} (h : Keeps a s) : EKeeps a (execPowerOn x0 s) := by
  unfold execPowerOn
  repeat' first
    | with_reducible assumption
    | with_reducible refine EKeeps.done ?_
    | dsimp -zeta only
    | with_reducible apply State.restart_keeps

/-- execKerbWatchdog keeps what every operation keeps. -/
theorem execKerbWatchdog_keeps {a s : State} {x0} (h : Keeps a s) : EKeeps a (execKerbWatchdog x0 s) := by
  unfold execKerbWatchdog
  repeat' first
    | with_reducible assumption
    | with_reducible refine EKeeps.done ?_
    | dsimp -zeta only
    | with_reducible apply State.restart_keeps

/-- execRestartStepFailed keeps what every operation keeps. -/
theorem execRestartStepFailed_keeps {a s : State} (h : Keeps a s) : EKeeps a (execRestartStepFailed s) := by
  unfold execRestartStepFailed
  repeat' first
    | with_reducible assumption
    | with_reducible refine EKeeps.done ?_
    | dsimp -zeta only
    | with_reducible apply Keeps.ite
    | with_reducible apply State.bootFail_keeps
    | split

/-- execLdw keeps what every operation keeps. -/
theorem execLdw_keeps {a s : State} {x0 x1} (h : Keeps a s) : EKeeps a (execLdw x0 x1 s) :=
  EKeeps.done (State.flx_keeps h semLdw_keeps)

/-- execStw keeps what every operation keeps. -/
theorem execStw_keeps {a s : State} {x0 x1} (h : Keeps a s) : EKeeps a (execStw x0 x1 s) :=
  EKeeps.done (State.flx_keeps h semStw_keeps)

/-- execLdwb keeps what every operation keeps. -/
theorem execLdwb_keeps {a s : State} {x0 x1} (h : Keeps a s) : EKeeps a (execLdwb x0 x1 s) :=
  EKeeps.done (State.flx_keeps h semLdwb_keeps)

/-- execStwb keeps what every operation keeps. -/
theorem execStwb_keeps {a s : State} {x0 x1} (h : Keeps a s) : EKeeps a (execStwb x0 x1 s) :=
  EKeeps.done (State.flx_keeps h semStwb_keeps)

/-- execLea keeps what every operation keeps. -/
theorem execLea_keeps {a s : State} {x0 x1} (h : Keeps a s) : EKeeps a (execLea x0 x1 s) :=
  EKeeps.done (State.flx_keeps h semLea_keeps)

/-- execAddw keeps what every operation keeps. -/
theorem execAddw_keeps {a s : State} {x0 x1} (h : Keeps a s) : EKeeps a (execAddw x0 x1 s) :=
  EKeeps.done (State.flx_keeps h semAdd_keeps)

/-- execSubw keeps what every operation keeps. -/
theorem execSubw_keeps {a s : State} {x0 x1} (h : Keeps a s) : EKeeps a (execSubw x0 x1 s) :=
  EKeeps.done (State.flx_keeps h semSub_keeps)

/-- execMulw keeps what every operation keeps. -/
theorem execMulw_keeps {a s : State} {x0 x1} (h : Keeps a s) : EKeeps a (execMulw x0 x1 s) :=
  EKeeps.done (State.flx_keeps h semMul_keeps)

/-- execDivw keeps what every operation keeps. -/
theorem execDivw_keeps {a s : State} {x0 x1} (h : Keeps a s) : EKeeps a (execDivw x0 x1 s) :=
  EKeeps.done (State.flx_keeps h semDiv_keeps)

/-- execAndw keeps what every operation keeps. -/
theorem execAndw_keeps {a s : State} {x0 x1} (h : Keeps a s) : EKeeps a (execAndw x0 x1 s) :=
  EKeeps.done (State.flx_keeps h semAnd_keeps)

/-- execOrw keeps what every operation keeps. -/
theorem execOrw_keeps {a s : State} {x0 x1} (h : Keeps a s) : EKeeps a (execOrw x0 x1 s) :=
  EKeeps.done (State.flx_keeps h semOr_keeps)

/-- execXorw keeps what every operation keeps. -/
theorem execXorw_keeps {a s : State} {x0 x1} (h : Keeps a s) : EKeeps a (execXorw x0 x1 s) :=
  EKeeps.done (State.flx_keeps h semXor_keeps)

/-- execMinw keeps what every operation keeps. -/
theorem execMinw_keeps {a s : State} {x0 x1} (h : Keeps a s) : EKeeps a (execMinw x0 x1 s) :=
  EKeeps.done (State.flx_keeps h semMin_keeps)

/-- execMaxw keeps what every operation keeps. -/
theorem execMaxw_keeps {a s : State} {x0 x1} (h : Keeps a s) : EKeeps a (execMaxw x0 x1 s) :=
  EKeeps.done (State.flx_keeps h semMax_keeps)

/-- execLimit keeps what every operation keeps. -/
theorem execLimit_keeps {a s : State} {x0 x1} (h : Keeps a s) : EKeeps a (execLimit x0 x1 s) :=
  EKeeps.done (State.flx_keeps h semLimit_keeps)

/-- execShl keeps what every operation keeps. -/
theorem execShl_keeps {a s : State} {x0 x1} (h : Keeps a s) : EKeeps a (execShl x0 x1 s) :=
  EKeeps.done (State.flx_keeps h semShl_keeps)

/-- execShr keeps what every operation keeps. -/
theorem execShr_keeps {a s : State} {x0 x1} (h : Keeps a s) : EKeeps a (execShr x0 x1 s) :=
  EKeeps.done (State.flx_keeps h semShr_keeps)

/-- execRol keeps what every operation keeps. -/
theorem execRol_keeps {a s : State} {x0 x1} (h : Keeps a s) : EKeeps a (execRol x0 x1 s) :=
  EKeeps.done (State.flx_keeps h semRol_keeps)

/-- execRor keeps what every operation keeps. -/
theorem execRor_keeps {a s : State} {x0 x1} (h : Keeps a s) : EKeeps a (execRor x0 x1 s) :=
  EKeeps.done (State.flx_keeps h semRor_keeps)

/-- execCeq keeps what every operation keeps. -/
theorem execCeq_keeps {a s : State} {x0 x1} (h : Keeps a s) : EKeeps a (execCeq x0 x1 s) :=
  EKeeps.done (State.flx_keeps h semCmp_keeps)

/-- execCne keeps what every operation keeps. -/
theorem execCne_keeps {a s : State} {x0 x1} (h : Keeps a s) : EKeeps a (execCne x0 x1 s) :=
  EKeeps.done (State.flx_keeps h semCmp_keeps)

/-- execCgt keeps what every operation keeps. -/
theorem execCgt_keeps {a s : State} {x0 x1} (h : Keeps a s) : EKeeps a (execCgt x0 x1 s) :=
  EKeeps.done (State.flx_keeps h semCmp_keeps)

/-- execCge keeps what every operation keeps. -/
theorem execCge_keeps {a s : State} {x0 x1} (h : Keeps a s) : EKeeps a (execCge x0 x1 s) :=
  EKeeps.done (State.flx_keeps h semCmp_keeps)

/-- execClt keeps what every operation keeps. -/
theorem execClt_keeps {a s : State} {x0 x1} (h : Keeps a s) : EKeeps a (execClt x0 x1 s) :=
  EKeeps.done (State.flx_keeps h semCmp_keeps)

/-- execCle keeps what every operation keeps. -/
theorem execCle_keeps {a s : State} {x0 x1} (h : Keeps a s) : EKeeps a (execCle x0 x1 s) :=
  EKeeps.done (State.flx_keeps h semCmp_keeps)

/-- execSelw keeps what every operation keeps. -/
theorem execSelw_keeps {a s : State} {x0 x1} (h : Keeps a s) : EKeeps a (execSelw x0 x1 s) :=
  EKeeps.done (State.flx_keeps h semSel_keeps)

/-- execLstat keeps what every operation keeps. -/
theorem execLstat_keeps {a s : State} {x0 x1} (h : Keeps a s) : EKeeps a (execLstat x0 x1 s) :=
  EKeeps.done (State.flx_keeps h semLstat_keeps)

/-- execTbl keeps what every operation keeps. -/
theorem execTbl_keeps {a s : State} {x0 x1} (h : Keeps a s) : EKeeps a (execTbl x0 x1 s) :=
  EKeeps.done (State.flx_keeps h semTbl_keeps)

/-- execLin keeps what every operation keeps. -/
theorem execLin_keeps {a s : State} {x0 x1} (h : Keeps a s) : EKeeps a (execLin x0 x1 s) :=
  EKeeps.done (State.flx_keeps h semLin_keeps)

/-- execMovb keeps what every operation keeps. -/
theorem execMovb_keeps {a s : State} {x0 x1} (h : Keeps a s) : EKeeps a (execMovb x0 x1 s) :=
  EKeeps.done (State.flx_keeps h semMovb_keeps)

/-- execTon keeps what every operation keeps. -/
theorem execTon_keeps {a s : State} {x0 x1} (h : Keeps a s) : EKeeps a (execTon x0 x1 s) :=
  EKeeps.done (State.flx_keeps h semTon_keeps)

/-- execTof keeps what every operation keeps. -/
theorem execTof_keeps {a s : State} {x0 x1} (h : Keeps a s) : EKeeps a (execTof x0 x1 s) :=
  EKeeps.done (State.flx_keeps h semTof_keeps)

/-- execTp keeps what every operation keeps. -/
theorem execTp_keeps {a s : State} {x0 x1} (h : Keeps a s) : EKeeps a (execTp x0 x1 s) :=
  EKeeps.done (State.flx_keeps h semTp_keeps)

/-- execCtu keeps what every operation keeps. -/
theorem execCtu_keeps {a s : State} {x0 x1} (h : Keeps a s) : EKeeps a (execCtu x0 x1 s) :=
  EKeeps.done (State.flx_keeps h semCtu_keeps)

/-- execCtd keeps what every operation keeps. -/
theorem execCtd_keeps {a s : State} {x0 x1} (h : Keeps a s) : EKeeps a (execCtd x0 x1 s) :=
  EKeeps.done (State.flx_keeps h semCtd_keeps)

/-- execCtud keeps what every operation keeps. -/
theorem execCtud_keeps {a s : State} {x0 x1} (h : Keeps a s) : EKeeps a (execCtud x0 x1 s) :=
  EKeeps.done (State.flx_keeps h semCtud_keeps)

/-- execCrst keeps what every operation keeps. -/
theorem execCrst_keeps {a s : State} {x0 x1} (h : Keeps a s) : EKeeps a (execCrst x0 x1 s) :=
  EKeeps.done (State.flx_keeps h semCrst_keeps)

/-- execCload keeps what every operation keeps. -/
theorem execCload_keeps {a s : State} {x0 x1} (h : Keeps a s) : EKeeps a (execCload x0 x1 s) :=
  EKeeps.done (State.flx_keeps h semCload_keeps)

/-- execEdgp keeps what every operation keeps. -/
theorem execEdgp_keeps {a s : State} {x0 x1} (h : Keeps a s) : EKeeps a (execEdgp x0 x1 s) :=
  EKeeps.done (State.flx_keeps h semEdge_keeps)

/-- execEdgn keeps what every operation keeps. -/
theorem execEdgn_keeps {a s : State} {x0 x1} (h : Keeps a s) : EKeeps a (execEdgn x0 x1 s) :=
  EKeeps.done (State.flx_keeps h semEdge_keeps)

/-- execLdlive keeps what every operation keeps. -/
theorem execLdlive_keeps {a s : State} {x0 x1} (h : Keeps a s) : EKeeps a (execLdlive x0 x1 s) :=
  EKeeps.done (State.flx_keeps h semLive_keeps)

/-- execLdliveh keeps what every operation keeps. -/
theorem execLdliveh_keeps {a s : State} {x0 x1} (h : Keeps a s) : EKeeps a (execLdliveh x0 x1 s) :=
  EKeeps.done (State.flx_keeps h semLive_keeps)

/-- execXab keeps what every operation keeps. -/
theorem execXab_keeps {a s : State} {x0 x1} (h : Keeps a s) : EKeeps a (execXab x0 x1 s) :=
  EKeeps.done (State.flx_keeps h semXab_keeps)

/-- execMovab keeps what every operation keeps. -/
theorem execMovab_keeps {a s : State} {x0 x1} (h : Keeps a s) : EKeeps a (execMovab x0 x1 s) :=
  EKeeps.done (State.flx_keeps h semMovab_keeps)

/-- execMovba keeps what every operation keeps. -/
theorem execMovba_keeps {a s : State} {x0 x1} (h : Keeps a s) : EKeeps a (execMovba x0 x1 s) :=
  EKeeps.done (State.flx_keeps h semMovba_keeps)

/-- execNotw keeps what every operation keeps. -/
theorem execNotw_keeps {a s : State} {x0 x1} (h : Keeps a s) : EKeeps a (execNotw x0 x1 s) :=
  EKeeps.done (State.flx_keeps h semNot_keeps)

/-- execNegw keeps what every operation keeps. -/
theorem execNegw_keeps {a s : State} {x0 x1} (h : Keeps a s) : EKeeps a (execNegw x0 x1 s) :=
  EKeeps.done (State.flx_keeps h semNeg_keeps)

/-- execAbsw keeps what every operation keeps. -/
theorem execAbsw_keeps {a s : State} {x0 x1} (h : Keeps a s) : EKeeps a (execAbsw x0 x1 s) :=
  EKeeps.done (State.flx_keeps h semAbs_keeps)

/-- execCvt keeps what every operation keeps. -/
theorem execCvt_keeps {a s : State} {x0 x1} (h : Keeps a s) : EKeeps a (execCvt x0 x1 s) :=
  EKeeps.done (State.flx_keeps h semCvt_keeps)

/-- execSqrt keeps what every operation keeps. -/
theorem execSqrt_keeps {a s : State} {x0 x1} (h : Keeps a s) : EKeeps a (execSqrt x0 x1 s) :=
  EKeeps.done (State.flx_keeps h semSqrt_keeps)

/-- execLdfl keeps what every operation keeps. -/
theorem execLdfl_keeps {a s : State} {x0 x1} (h : Keeps a s) : EKeeps a (execLdfl x0 x1 s) :=
  EKeeps.done (State.flx_keeps h semLdfl_keeps)

/-- execClrf keeps what every operation keeps. -/
theorem execClrf_keeps {a s : State} {x0 x1} (h : Keeps a s) : EKeeps a (execClrf x0 x1 s) :=
  EKeeps.done (State.flx_keeps h semClrf_keeps)

/-- execTimew keeps what every operation keeps. -/
theorem execTimew_keeps {a s : State} {x0 x1} (h : Keeps a s) : EKeeps a (execTimew x0 x1 s) :=
  EKeeps.done (State.flx_keeps h semTime_keeps)

/-- execLogLd keeps what every operation keeps. -/
theorem execLogLd_keeps {a s : State} {x0 x1} (h : Keeps a s) : EKeeps a (execLogLd x0 x1 s) :=
  EKeeps.done (State.flx_keeps h semLog_keeps)

/-- execLogAnd keeps what every operation keeps. -/
theorem execLogAnd_keeps {a s : State} {x0 x1} (h : Keeps a s) : EKeeps a (execLogAnd x0 x1 s) :=
  EKeeps.done (State.flx_keeps h semLog_keeps)

/-- execLogOr keeps what every operation keeps. -/
theorem execLogOr_keeps {a s : State} {x0 x1} (h : Keeps a s) : EKeeps a (execLogOr x0 x1 s) :=
  EKeeps.done (State.flx_keeps h semLog_keeps)

/-- execLogXor keeps what every operation keeps. -/
theorem execLogXor_keeps {a s : State} {x0 x1} (h : Keeps a s) : EKeeps a (execLogXor x0 x1 s) :=
  EKeeps.done (State.flx_keeps h semLog_keeps)

/-- execLogSt keeps what every operation keeps. -/
theorem execLogSt_keeps {a s : State} {x0 x1} (h : Keeps a s) : EKeeps a (execLogSt x0 x1 s) :=
  EKeeps.done (State.flx_keeps h semLogStore_keeps)

/-- execLogS keeps what every operation keeps. -/
theorem execLogS_keeps {a s : State} {x0 x1} (h : Keeps a s) : EKeeps a (execLogS x0 x1 s) :=
  EKeeps.done (State.flx_keeps h semLogStore_keeps)

/-- execLogR keeps what every operation keeps. -/
theorem execLogR_keeps {a s : State} {x0 x1} (h : Keeps a s) : EKeeps a (execLogR x0 x1 s) :=
  EKeeps.done (State.flx_keeps h semLogStore_keeps)

/-- execLogpAnd keeps what every operation keeps. -/
theorem execLogpAnd_keeps {a s : State} {x0 x1} (h : Keeps a s) : EKeeps a (execLogpAnd x0 x1 s) :=
  EKeeps.done (State.flx_keeps h semLogp_keeps)

/-- execLogpOr keeps what every operation keeps. -/
theorem execLogpOr_keeps {a s : State} {x0 x1} (h : Keeps a s) : EKeeps a (execLogpOr x0 x1 s) :=
  EKeeps.done (State.flx_keeps h semLogp_keeps)

/-- execLogpXor keeps what every operation keeps. -/
theorem execLogpXor_keeps {a s : State} {x0 x1} (h : Keeps a s) : EKeeps a (execLogpXor x0 x1 s) :=
  EKeeps.done (State.flx_keeps h semLogp_keeps)

/-- execPopl keeps what every operation keeps. -/
theorem execPopl_keeps {a s : State} {x0 x1} (h : Keeps a s) : EKeeps a (execPopl x0 x1 s) :=
  EKeeps.done (State.flx_keeps h semPopl_keeps)

/-- execNotl keeps what every operation keeps. -/
theorem execNotl_keeps {a s : State} {x0 x1} (h : Keeps a s) : EKeeps a (execNotl x0 x1 s) :=
  EKeeps.done (State.flx_keeps h semNotl_keeps)

/-- execSetl keeps what every operation keeps. -/
theorem execSetl_keeps {a s : State} {x0 x1} (h : Keeps a s) : EKeeps a (execSetl x0 x1 s) :=
  EKeeps.done (State.flx_keeps h semSetl_keeps)

/-- execClrl keeps what every operation keeps. -/
theorem execClrl_keeps {a s : State} {x0 x1} (h : Keeps a s) : EKeeps a (execClrl x0 x1 s) :=
  EKeeps.done (State.flx_keeps h semClrl_keeps)

/-- execLdbit keeps what every operation keeps. -/
theorem execLdbit_keeps {a s : State} {x0 x1} (h : Keeps a s) : EKeeps a (execLdbit x0 x1 s) :=
  EKeeps.done (State.flx_keeps h semLdbit_keeps)

/-- execStbit keeps what every operation keeps. -/
theorem execStbit_keeps {a s : State} {x0 x1} (h : Keeps a s) : EKeeps a (execStbit x0 x1 s) :=
  EKeeps.done (State.flx_keeps h semStbit_keeps)

/-- execJmp keeps what every operation keeps. -/
theorem execJmp_keeps {a s : State} {x0 x1} (h : Keeps a s) : EKeeps a (execJmp x0 x1 s) :=
  EKeeps.done (State.flx_keeps h semJmp_keeps)

/-- execCall keeps what every operation keeps. -/
theorem execCall_keeps {a s : State} {x0 x1} (h : Keeps a s) : EKeeps a (execCall x0 x1 s) :=
  EKeeps.done (State.flx_keeps h semCall_keeps)

/-- execRet keeps what every operation keeps. -/
theorem execRet_keeps {a s : State} {x0 x1} (h : Keeps a s) : EKeeps a (execRet x0 x1 s) :=
  EKeeps.done (State.flx_keeps h semRet_keeps)

/-- execLoop keeps what every operation keeps. -/
theorem execLoop_keeps {a s : State} {x0 x1} (h : Keeps a s) : EKeeps a (execLoop x0 x1 s) :=
  EKeeps.done (State.flx_keeps h semLoop_keeps)

/-- execLoopw keeps what every operation keeps. -/
theorem execLoopw_keeps {a s : State} {x0 x1} (h : Keeps a s) : EKeeps a (execLoopw x0 x1 s) :=
  EKeeps.done (State.flx_keeps h semLoop_keeps)

/-- execNop keeps what every operation keeps. -/
theorem execNop_keeps {a s : State} {x0 x1} (h : Keeps a s) : EKeeps a (execNop x0 x1 s) :=
  EKeeps.done (State.flx_keeps h semNop_keeps)

/-- execEndS keeps what every operation keeps. -/
theorem execEndS_keeps {a s : State} {x0 x1} (h : Keeps a s) : EKeeps a (execEndS x0 x1 s) :=
  EKeeps.done (State.flx_keeps h semEnd_keeps)

/-- execModeset keeps what every operation keeps. -/
theorem execModeset_keeps {a s : State} {x0 x1} (h : Keeps a s) : EKeeps a (execModeset x0 x1 s) :=
  EKeeps.done (State.flx_keeps h semModeset_keeps)

/-- execSetev keeps what every operation keeps. -/
theorem execSetev_keeps {a s : State} {x0 x1} (h : Keeps a s) : EKeeps a (execSetev x0 x1 s) :=
  EKeeps.done (State.flx_keeps h semSetev_keeps)

/-- execDiag keeps what every operation keeps. -/
theorem execDiag_keeps {a s : State} {x0 x1} (h : Keeps a s) : EKeeps a (execDiag x0 x1 s) :=
  EKeeps.done (State.flx_keeps h semDiag_keeps)

/-- execSync keeps what every operation keeps. -/
theorem execSync_keeps {a s : State} {x0 x1} (h : Keeps a s) : EKeeps a (execSync x0 x1 s) :=
  EKeeps.done (State.flx_keeps h semSync_keeps)

/-- execTrap keeps what every operation keeps. -/
theorem execTrap_keeps {a s : State} {x0 x1} (h : Keeps a s) : EKeeps a (execTrap x0 x1 s) :=
  EKeeps.done (State.flx_keeps h semTrap_keeps)

/-- execSyncRelease keeps what every operation keeps. -/
theorem execSyncRelease_keeps {a s : State} {x0 x1} (h : Keeps a s) : EKeeps a (execSyncRelease x0 x1 s) := by
  unfold execSyncRelease
  repeat' first
    | with_reducible assumption
    | with_reducible refine EKeeps.done ?_
    | dsimp -zeta only
    | with_reducible apply State.syncShare_keeps

/-- execUpdOpen keeps what every operation keeps. -/
theorem execUpdOpen_keeps {a s : State} {x0} (h : Keeps a s) : EKeeps a (execUpdOpen x0 s) := by
  unfold execUpdOpen
  repeat' first
    | with_reducible assumption
    | with_reducible refine EKeeps.done ?_
    | dsimp -zeta only
    | with_reducible refine State.written_keeps (fun s h => ?_) ?_
    | with_reducible apply State.cmdUpdOpen_keeps

/-- execUpdChunk keeps what every operation keeps. -/
theorem execUpdChunk_keeps {a s : State} {x0} (h : Keeps a s) : EKeeps a (execUpdChunk x0 s) := by
  unfold execUpdChunk
  repeat' first
    | with_reducible assumption
    | with_reducible refine EKeeps.done ?_
    | dsimp -zeta only
    | with_reducible refine State.written_keeps (fun s h => ?_) ?_
    | with_reducible apply State.cmdUpdChunk_keeps

/-- execUpdClose keeps what every operation keeps. -/
theorem execUpdClose_keeps {a s : State} {x0 x1} (h : Keeps a s) : EKeeps a (execUpdClose x0 x1 s) := by
  unfold execUpdClose
  repeat' first
    | with_reducible assumption
    | with_reducible refine EKeeps.done ?_
    | dsimp -zeta only
    | with_reducible refine State.written_keeps (fun s h => ?_) ?_
    | with_reducible apply State.cmdUpdClose_keeps

/-- execUpdArm keeps what every operation keeps. -/
theorem execUpdArm_keeps {a s : State} {x0} (h : Keeps a s) : EKeeps a (execUpdArm x0 s) := by
  unfold execUpdArm
  repeat' first
    | with_reducible assumption
    | with_reducible refine EKeeps.done ?_
    | dsimp -zeta only
    | with_reducible refine State.written_keeps (fun s h => ?_) ?_
    | with_reducible apply State.cmdUpdArm_keeps

/-- execUpdDisarm keeps what every operation keeps. -/
theorem execUpdDisarm_keeps {a s : State} {x0} (h : Keeps a s) : EKeeps a (execUpdDisarm x0 s) := by
  unfold execUpdDisarm
  repeat' first
    | with_reducible assumption
    | with_reducible refine EKeeps.done ?_
    | dsimp -zeta only
    | with_reducible refine State.written_keeps (fun s h => ?_) ?_
    | with_reducible apply State.cmdUpdDisarm_keeps

/-- execBotRestart keeps what every operation keeps. -/
theorem execBotRestart_keeps {a s : State} {x0 x1} (h : Keeps a s) : EKeeps a (execBotRestart x0 x1 s) := by
  unfold execBotRestart
  repeat' first
    | with_reducible assumption
    | with_reducible refine EKeeps.done ?_
    | dsimp -zeta only
    | with_reducible refine State.written_keeps (fun s h => ?_) ?_
    | with_reducible apply State.cmdBotRestart_keeps

/-- execBotAttest keeps what every operation keeps. -/
theorem execBotAttest_keeps {a s : State} {x0} (h : Keeps a s) : EKeeps a (execBotAttest x0 s) := by
  unfold execBotAttest
  repeat' first
    | with_reducible assumption
    | with_reducible refine EKeeps.done ?_
    | dsimp -zeta only
    | with_reducible refine State.written_keeps (fun s h => ?_) ?_
    | with_reducible apply State.cmdBotAttest_keeps

/-- execBotConfirm keeps what every operation keeps. -/
theorem execBotConfirm_keeps {a s : State} {x0} (h : Keeps a s) : EKeeps a (execBotConfirm x0 s) := by
  unfold execBotConfirm
  repeat' first
    | with_reducible assumption
    | with_reducible refine EKeeps.done ?_
    | dsimp -zeta only
    | with_reducible refine State.written_keeps (fun s h => ?_) ?_
    | with_reducible apply State.cmdBotConfirm_keeps

/-- execBotReject keeps what every operation keeps. -/
theorem execBotReject_keeps {a s : State} {x0 x1} (h : Keeps a s) : EKeeps a (execBotReject x0 x1 s) := by
  unfold execBotReject
  repeat' first
    | with_reducible assumption
    | with_reducible refine EKeeps.done ?_
    | dsimp -zeta only
    | with_reducible refine State.written_keeps (fun s h => ?_) ?_
    | with_reducible apply State.cmdBotReject_keeps

/-- execHealthwinExpiry keeps what every operation keeps. -/
theorem execHealthwinExpiry_keeps {a s : State} {x0} (h : Keeps a s) : EKeeps a (execHealthwinExpiry x0 s) := by
  unfold execHealthwinExpiry
  repeat' first
    | with_reducible assumption
    | with_reducible refine EKeeps.done ?_
    | dsimp -zeta only
    | with_reducible apply Keeps.ite
    | with_reducible apply State.giveUp_keeps
    | split

/-- execProbationConfirmation keeps what every operation keeps. -/
theorem execProbationConfirmation_keeps {a s : State} (h : Keeps a s) : EKeeps a (execProbationConfirmation s) := by
  unfold execProbationConfirmation
  repeat' first
    | with_reducible assumption
    | ((fail_if_no_progress extract_lets +onlyGivenNames t); refine (?_ : Keeps a t → _) ?_; (on_goal 2 => unfold t); (on_goal 1 => (clear_value t; intro _)))
    | ((fail_if_no_progress extract_lets +onlyGivenNames t); subst t)
    | with_reducible refine EKeeps.done ?_
    | dsimp -zeta only
    | with_reducible apply Keeps.ite
    | with_reducible apply State.slotTo_keeps
    | with_reducible apply State.showSlots_keeps
    | with_reducible apply State.modKerb_keeps
    | with_reducible apply State.setF_keeps
    | split
    | fail_if_no_progress (with_reducible refine Keeps.upd ?_ rfl rfl rfl rfl rfl rfl)

/-- execAutoRestart keeps what every operation keeps. -/
theorem execAutoRestart_keeps {a s : State} {x0} (h : Keeps a s) : EKeeps a (execAutoRestart x0 s) := by
  unfold execAutoRestart
  repeat' first
    | with_reducible assumption
    | with_reducible refine EKeeps.done ?_
    | dsimp -zeta only
    | with_reducible apply Keeps.ite
    | with_reducible apply State.restart_keeps
    | split

/-- execRegisterWrite keeps what every operation keeps. -/
theorem execRegisterWrite_keeps {a s : State} {x0 x1 x2 x3} (h : Keeps a s) : EKeeps a (execRegisterWrite x0 x1 x2 x3 s) := by
  unfold execRegisterWrite
  repeat' first
    | with_reducible assumption
    | with_reducible refine EKeeps.done ?_
    | dsimp -zeta only
    | with_reducible apply State.writeWord_keeps

/-- execSchTaskRegisterWrite keeps what every operation keeps. -/
theorem execSchTaskRegisterWrite_keeps {a s : State} {x0 x1 x2} (h : Keeps a s) : EKeeps a (execSchTaskRegisterWrite x0 x1 x2 s) := by
  unfold execSchTaskRegisterWrite
  repeat' first
    | with_reducible assumption
    | with_reducible refine EKeeps.done ?_
    | dsimp -zeta only
    | with_reducible apply Keeps.ite
    | with_reducible apply State.writeWord_keeps
    | split

/-- execMgmtConnect keeps what every operation keeps. -/
theorem execMgmtConnect_keeps {a s : State} {x0 x1} (h : Keeps a s) : EKeeps a (execMgmtConnect x0 x1 s) := by
  unfold execMgmtConnect
  repeat' first
    | with_reducible assumption
    | ((fail_if_no_progress extract_lets +onlyGivenNames t); refine (?_ : Keeps a t → _) ?_; (on_goal 2 => unfold t); (on_goal 1 => (clear_value t; intro _)))
    | ((fail_if_no_progress extract_lets +onlyGivenNames t); subst t)
    | with_reducible refine EKeeps.done ?_
    | dsimp -zeta only
    | with_reducible apply Keeps.ite
    | with_reducible apply State.emit_keeps
    | with_reducible apply State.closePath_keeps
    | split
    | fail_if_no_progress (with_reducible refine Keeps.upd ?_ rfl rfl rfl rfl rfl rfl)

/-- execMgmtRead keeps what every operation keeps. -/
theorem execMgmtRead_keeps {a s : State} {x0 x1 x2 x3} (h : Keeps a s) : EKeeps a (execMgmtRead x0 x1 x2 x3 s) := by
  unfold execMgmtRead
  repeat' first
    | with_reducible assumption
    | ((fail_if_no_progress extract_lets +onlyGivenNames t); refine (?_ : Keeps a t → _) ?_; (on_goal 2 => unfold t); (on_goal 1 => (clear_value t; intro _)))
    | ((fail_if_no_progress extract_lets +onlyGivenNames t); refine (?_ : Keeps2 a t → _) ?_; (on_goal 2 => unfold t); (on_goal 1 => (clear_value t; intro _)))
    | ((fail_if_no_progress extract_lets +onlyGivenNames t); subst t)
    | with_reducible refine EKeeps.done ?_
    | dsimp -zeta only
    | with_reducible apply Keeps.ite
    | with_reducible apply State.mgmtReply_keeps
    | with_reducible apply State.readWords_keeps
    | with_reducible refine Keeps2.out (State.readWords_keeps ?_)
    | with_reducible exact Keeps2.out ‹_›
    | with_reducible apply Keeps2.mk
    | with_reducible apply Keeps2.ite
    | split

/-- execMgmtWrite keeps what every operation keeps. -/
theorem execMgmtWrite_keeps {a s : State} {x0 x1 x2 x3 x4} (h : Keeps a s) : EKeeps a (execMgmtWrite x0 x1 x2 x3 x4 s) := by
  unfold execMgmtWrite
  repeat' first
    | with_reducible assumption
    | ((fail_if_no_progress extract_lets +onlyGivenNames t); refine (?_ : Keeps a t → _) ?_; (on_goal 2 => unfold t); (on_goal 1 => (clear_value t; intro _)))
    | ((fail_if_no_progress extract_lets +onlyGivenNames t); subst t)
    | with_reducible refine EKeeps.done ?_
    | dsimp -zeta only
    | with_reducible apply Keeps.ite
    | with_reducible apply State.mgmtReply_keeps
    | with_reducible apply State.writeWords_keeps
    | split

/-- execMgmtAttest keeps what every operation keeps. -/
theorem execMgmtAttest_keeps {a s : State} {x0 x1 x2} (h : Keeps a s) : EKeeps a (execMgmtAttest x0 x1 x2 s) := by
  unfold execMgmtAttest
  repeat' first
    | with_reducible assumption
    | with_reducible refine EKeeps.done ?_
    | dsimp -zeta only
    | with_reducible apply Keeps.ite
    | with_reducible apply State.mgmtReply_keeps
    | split

/-- execMgmtConnectionClose keeps what every operation keeps. -/
theorem execMgmtConnectionClose_keeps {a s : State} {x0} (h : Keeps a s) : EKeeps a (execMgmtConnectionClose x0 s) := by
  unfold execMgmtConnectionClose
  repeat' first
    | with_reducible assumption
    | ((fail_if_no_progress extract_lets +onlyGivenNames t); refine (?_ : Keeps a t → _) ?_; (on_goal 2 => unfold t); (on_goal 1 => (clear_value t; intro _)))
    | ((fail_if_no_progress extract_lets +onlyGivenNames t); subst t)
    | with_reducible refine EKeeps.done ?_
    | dsimp -zeta only
    | with_reducible apply Keeps.ite
    | with_reducible apply State.closePath_keeps
    | split
    | fail_if_no_progress (with_reducible refine Keeps.upd ?_ rfl rfl rfl rfl rfl rfl)

/-- execSetupRead keeps what every operation keeps. -/
theorem execSetupRead_keeps {a s : State} {x0 x1} (h : Keeps a s) : EKeeps a (execSetupRead x0 x1 s) := by
  unfold execSetupRead
  repeat' first
    | with_reducible assumption
    | ((fail_if_no_progress extract_lets +onlyGivenNames t); refine (?_ : Keeps a t → _) ?_; (on_goal 2 => unfold t); (on_goal 1 => (clear_value t; intro _)))
    | ((fail_if_no_progress extract_lets +onlyGivenNames t); refine (?_ : Keeps2 a t → _) ?_; (on_goal 2 => unfold t); (on_goal 1 => (clear_value t; intro _)))
    | ((fail_if_no_progress extract_lets +onlyGivenNames t); subst t)
    | with_reducible refine EKeeps.done ?_
    | dsimp -zeta only
    | with_reducible apply Keeps.ite
    | with_reducible refine State.startDesc_keeps (fun x d s h => ?_) ?_
    | with_reducible apply State.complete_keeps
    | with_reducible apply State.queueRead_keeps
    | with_reducible refine Keeps2.out (State.queueRead_keeps ?_)
    | with_reducible exact Keeps2.out ‹_›
    | with_reducible apply Keeps2.mk
    | with_reducible apply Keeps2.ite
    | split
    | with_reducible refine Keeps.of2 ‹_› ?_

/-- execSetupWrite keeps what every operation keeps. -/
theorem execSetupWrite_keeps {a s : State} {x0 x1 x2} (h : Keeps a s) : EKeeps a (execSetupWrite x0 x1 x2 s) := by
  unfold execSetupWrite
  repeat' first
    | with_reducible assumption
    | ((fail_if_no_progress extract_lets +onlyGivenNames t); refine (?_ : Keeps a t → _) ?_; (on_goal 2 => unfold t); (on_goal 1 => (clear_value t; intro _)))
    | ((fail_if_no_progress extract_lets +onlyGivenNames t); subst t)
    | with_reducible refine EKeeps.done ?_
    | dsimp -zeta only
    | with_reducible apply Keeps.ite
    | with_reducible refine State.startDesc_keeps (fun x d s h => ?_) ?_
    | with_reducible apply State.complete_keeps
    | with_reducible apply State.writeWords_keeps
    | split

/-- execBaseTick keeps what every operation keeps, but for the tick. -/
theorem execBaseTick_keeps {a s : State} {x0} (h : Keeps a s) : EKeepsB a (execBaseTick x0 s) := by
  unfold execBaseTick
  refine EKeepsB.done ?_
  have k : Keeps { a with tick := s.tick + 1 } { s with tick := s.tick + 1, now := (s.tick + 1) * 62500 } :=
    Keeps.upd (h.setTick (s.tick + 1)) rfl rfl rfl rfl rfl rfl
  split
  · exact ⟨_, State.runTick_keeps (Keeps.foldl h (fun _ _ h => State.strike_keeps h))⟩
  · obtain ⟨n, e⟩ := State.bootTick_keeps k
    exact ⟨n, e⟩
  · exact ⟨_, k⟩

end Sys2Proof.Machine
end

