-- ==== Sys2Proof/Laws/KeepsCommit.lean ====
section
/-! SUPPORT. What a commit leaves of the number of the newest commit: the operations after its flip keep it (R172, R173). -/
namespace Sys2Proof.Machine
set_option Elab.async false

/-- The newest commit is the same one. -/
structure SameCsn (a b : State) : Prop where
  csn : b.sq.csn = a.sq.csn

/-- Nothing done. -/
theorem SameCsn.refl (a : State) : SameCsn a a := ⟨rfl⟩
/-- One after another. -/
theorem SameCsn.trans {a b c : State} (h : SameCsn a b) (k : SameCsn b c) : SameCsn a c := ⟨k.csn.trans h.csn⟩

/-- A change of other fields. -/
theorem SameCsn.upd {a b : State} {pe re du ou fr no ti sq sc la pk ar wi io ca pa pl ho ke im ol se} (h : SameCsn a b) (h5 : Square.csn sq = b.sq.csn) :
    SameCsn a (State.mk pe re du ou fr no ti sq sc la pk ar wi io ca pa pl ho ke im ol se) := ⟨h5.trans h.csn⟩

/-- Either branch. -/
theorem SameCsn.ite {a x y : State} {c : Prop} [Decidable c] (hx : SameCsn a x) (hy : SameCsn a y) : SameCsn a (if c then x else y) := by
  split <;> assumption

/-- The second part of a pair keeps it. -/
def SameCsn2 {β : Type} (a : State) (p : β × State) : Prop := SameCsn a p.2
/-- The first part of a pair keeps it. -/
def SameCsn1 {β : Type} (a : State) (p : State × β) : Prop := SameCsn a p.1
/-- A pair with a state that keeps it. -/
theorem SameCsn2.mk {a s : State} {β : Type} {x : β} (h : SameCsn a s) : SameCsn2 a (x, s) := h
/-- The same with the state in front. -/
theorem SameCsn1.mk {a s : State} {β : Type} {x : β} (h : SameCsn a s) : SameCsn1 a (s, x) := h
/-- The state of such a pair. -/
theorem SameCsn2.out {a : State} {β : Type} {p : β × State} (h : SameCsn2 a p) : SameCsn a p.2 := h
/-- The same with the state in front. -/
theorem SameCsn1.out {a : State} {β : Type} {p : State × β} (h : SameCsn1 a p) : SameCsn a p.1 := h
/-- Either branch of a pair. -/
theorem SameCsn2.ite {a : State} {β : Type} {x y : β × State} {c : Prop} [Decidable c] (hx : SameCsn2 a x) (hy : SameCsn2 a y) :
    SameCsn2 a (if c then x else y) := by
  split <;> assumption
/-- The same of the first part. -/
theorem SameCsn1.ite {a : State} {β : Type} {x y : State × β} {c : Prop} [Decidable c] (hx : SameCsn1 a x) (hy : SameCsn1 a y) :
    SameCsn1 a (if c then x else y) := by
  split <;> assumption

/-- An operation repeated over a list. -/
theorem SameCsn.foldl {a s : State} {β : Type} {f : State → β → State} {l : List β} (h : SameCsn a s) (hf : ∀ s x, SameCsn a s → SameCsn a (f s x)) :
    SameCsn a (l.foldl f s) := by
  induction l generalizing s with
  | nil => exact h
  | cons x l ih => exact ih (hf s x h)

/-- The same where the list's items are gathered beside the state. -/
theorem SameCsn2.foldl {a : State} {β γ : Type} {f : γ × State → β → γ × State} {l : List β} {p : γ × State} (h : SameCsn2 a p)
    (hf : ∀ p x, SameCsn2 a p → SameCsn2 a (f p x)) : SameCsn2 a (l.foldl f p) := by
  induction l generalizing p with
  | nil => exact h
  | cons x l ih => exact ih (hf p x h)

/-- The same with the state in front. -/
theorem SameCsn1.foldl {a : State} {β γ : Type} {f : State × γ → β → State × γ} {l : List β} {p : State × γ} (h : SameCsn1 a p)
    (hf : ∀ p x, SameCsn1 a p → SameCsn1 a (f p x)) : SameCsn1 a (l.foldl f p) := by
  induction l generalizing p with
  | nil => exact h
  | cons x l ih => exact ih (hf p x h)

/-- The state of a pair that has been taken apart. -/
theorem SameCsn.of2 {a s : State} {β : Type} {p : β × State} {x : β} (e : p = (x, s)) (h : SameCsn2 a p) : SameCsn a s := by subst e; exact h
/-- The same with the state in front. -/
theorem SameCsn.of1 {a s : State} {β : Type} {p : State × β} {x : β} (e : p = (s, x)) (h : SameCsn1 a p) : SameCsn a s := by subst e; exact h

/-! ### One lemma for each operation of a commit -/

/-- It keeps the number of the newest commit. -/
theorem State.setF_csn {a s : State} {x1 x2 x3} (h : SameCsn a s) : SameCsn a (State.setF s x1 x2 x3) := ⟨h.csn⟩

/-- State.setB keeps what every operation keeps. -/
theorem State.setB_csn {a s : State} {x1 x2 x3} (h : SameCsn a s) : SameCsn a (State.setB s x1 x2 x3) := by
  unfold State.setB
  repeat' first
    | with_reducible assumption
    | dsimp -zeta only
    | with_reducible apply State.setF_csn

/-- State.bump keeps what every operation keeps. -/
theorem State.bump_csn {a s : State} {x1 x2 x3} (h : SameCsn a s) : SameCsn a (State.bump s x1 x2 x3) := by
  unfold State.bump
  repeat' first
    | with_reducible assumption
    | dsimp -zeta only
    | with_reducible apply State.setF_csn

/-- State.set64 keeps what every operation keeps. -/
theorem State.set64_csn {a s : State} {x1 x2 x3 x4} (h : SameCsn a s) : SameCsn a (State.set64 s x1 x2 x3 x4) := by
  unfold State.set64
  repeat' first
    | with_reducible assumption
    | dsimp -zeta only
    | with_reducible apply State.setF_csn

/-- It keeps the number of the newest commit. -/
theorem State.emit_csn {a s : State} {x1 x2 x3 x4} (h : SameCsn a s) : SameCsn a (State.emit s x1 x2 x3 x4) := ⟨h.csn⟩

/-- It keeps the number of the newest commit. -/
theorem State.free_csn {a s : State} (h : SameCsn a s) : SameCsn2 a (State.free s) := ⟨h.csn⟩

/-- State.event keeps what every operation keeps. -/
theorem State.event_csn {a s : State} {x1 x2 x3} (h : SameCsn a s) : SameCsn a (State.event s x1 x2 x3) := by
  unfold State.event
  repeat' first
    | with_reducible assumption
    | ((fail_if_no_progress extract_lets +onlyGivenNames t); refine (?_ : SameCsn a t → _) ?_; (on_goal 2 => unfold t); (on_goal 1 => (clear_value t; intro _)))
    | ((fail_if_no_progress extract_lets +onlyGivenNames t); subst t)
    | dsimp -zeta only
    | with_reducible apply SameCsn.ite
    | split
    | fail_if_no_progress (with_reducible refine SameCsn.upd ?_ rfl)

/-- State.evHw keeps what every operation keeps. -/
theorem State.evHw_csn {a s : State} {x1 x2} (h : SameCsn a s) : SameCsn a (State.evHw s x1 x2) := by
  unfold State.evHw
  repeat' first
    | with_reducible assumption
    | dsimp -zeta only
    | with_reducible apply State.event_csn

/-- State.evCfg keeps what every operation keeps. -/
theorem State.evCfg_csn {a s : State} {x1 x2} (h : SameCsn a s) : SameCsn a (State.evCfg s x1 x2) := by
  unfold State.evCfg
  repeat' first
    | with_reducible assumption
    | dsimp -zeta only
    | with_reducible apply State.event_csn

/-- State.share keeps what every operation keeps. -/
theorem State.share_csn {a s : State} {x1} (h : SameCsn a s) : SameCsn a (State.share s x1) := by
  unfold State.share
  repeat' first
    | with_reducible assumption
    | ((fail_if_no_progress extract_lets +onlyGivenNames t); refine (?_ : SameCsn a t → _) ?_; (on_goal 2 => unfold t); (on_goal 1 => (clear_value t; intro _)))
    | ((fail_if_no_progress extract_lets +onlyGivenNames t); subst t)
    | dsimp -zeta only
    | with_reducible apply SameCsn.ite
    | split
    | fail_if_no_progress (with_reducible refine SameCsn.upd ?_ rfl)

/-- State.carriedOut keeps what every operation keeps. -/
theorem State.carriedOut_csn {a s : State} (h : SameCsn a s) : SameCsn a (State.carriedOut s) := by
  unfold State.carriedOut
  repeat' first
    | with_reducible assumption
    | ((fail_if_no_progress extract_lets +onlyGivenNames t); refine (?_ : SameCsn a t → _) ?_; (on_goal 2 => unfold t); (on_goal 1 => (clear_value t; intro _)))
    | ((fail_if_no_progress extract_lets +onlyGivenNames t); subst t)
    | dsimp -zeta only
    | fail_if_no_progress (with_reducible refine SameCsn.upd ?_ rfl)

/-- State.modTask keeps what every operation keeps. -/
theorem State.modTask_csn {a s : State} {x1 x2} (h : SameCsn a s) : SameCsn a (State.modTask s x1 x2) := by
  unfold State.modTask
  repeat' first
    | with_reducible assumption
    | ((fail_if_no_progress extract_lets +onlyGivenNames t); refine (?_ : SameCsn a t → _) ?_; (on_goal 2 => unfold t); (on_goal 1 => (clear_value t; intro _)))
    | ((fail_if_no_progress extract_lets +onlyGivenNames t); subst t)
    | dsimp -zeta only
    | fail_if_no_progress (with_reducible refine SameCsn.upd ?_ rfl)

/-- State.putRun keeps what every operation keeps. -/
theorem State.putRun_csn {a s : State} {x1} (h : SameCsn a s) : SameCsn a (State.putRun s x1) := by
  unfold State.putRun
  repeat' first
    | with_reducible assumption
    | ((fail_if_no_progress extract_lets +onlyGivenNames t); refine (?_ : SameCsn a t → _) ?_; (on_goal 2 => unfold t); (on_goal 1 => (clear_value t; intro _)))
    | ((fail_if_no_progress extract_lets +onlyGivenNames t); subst t)
    | dsimp -zeta only
    | fail_if_no_progress (with_reducible refine SameCsn.upd ?_ rfl)

/-- State.delRun keeps what every operation keeps. -/
theorem State.delRun_csn {a s : State} {x1 x2} (h : SameCsn a s) : SameCsn a (State.delRun s x1 x2) := by
  unfold State.delRun
  repeat' first
    | with_reducible assumption
    | ((fail_if_no_progress extract_lets +onlyGivenNames t); refine (?_ : SameCsn a t → _) ?_; (on_goal 2 => unfold t); (on_goal 1 => (clear_value t; intro _)))
    | ((fail_if_no_progress extract_lets +onlyGivenNames t); subst t)
    | dsimp -zeta only
    | fail_if_no_progress (with_reducible refine SameCsn.upd ?_ rfl)

/-- State.ask keeps what every operation keeps. -/
theorem State.ask_csn {a s : State} {x1 x2 x3 x4} (h : SameCsn a s) : SameCsn a (State.ask s x1 x2 x3 x4) := by
  unfold State.ask
  repeat' first
    | with_reducible assumption
    | ((fail_if_no_progress extract_lets +onlyGivenNames t); refine (?_ : SameCsn a t → _) ?_; (on_goal 2 => unfold t); (on_goal 1 => (clear_value t; intro _)))
    | ((fail_if_no_progress extract_lets +onlyGivenNames t); subst t)
    | dsimp -zeta only
    | fail_if_no_progress (with_reducible refine SameCsn.upd ?_ rfl)

/-- State.sysWrite keeps what every operation keeps. -/
theorem State.sysWrite_csn {a s : State} {x1 x2} (h : SameCsn a s) : SameCsn a (State.sysWrite s x1 x2) :=
  SameCsn.upd h rfl

/-- State.latchEcc keeps what every operation keeps. -/
theorem State.latchEcc_csn {a s : State} {x1} (h : SameCsn a s) : SameCsn a (State.latchEcc s x1) := by
  unfold State.latchEcc
  repeat' first
    | with_reducible assumption
    | dsimp -zeta only
    | with_reducible apply State.setF_csn

/-- State.spareRow keeps what every operation keeps. -/
theorem State.spareRow_csn {a s : State} {x1} (h : SameCsn a s) : SameCsn a (State.spareRow s x1) := by
  unfold State.spareRow
  repeat' first
    | with_reducible assumption
    | ((fail_if_no_progress extract_lets +onlyGivenNames t); refine (?_ : SameCsn a t → _) ?_; (on_goal 2 => unfold t); (on_goal 1 => (clear_value t; intro _)))
    | ((fail_if_no_progress extract_lets +onlyGivenNames t); subst t)
    | dsimp -zeta only
    | with_reducible apply SameCsn.ite
    | with_reducible apply State.evHw_csn
    | with_reducible apply State.setF_csn
    | split
    | fail_if_no_progress (with_reducible refine SameCsn.upd ?_ rfl)

/-- State.eccCorrected keeps what every operation keeps. -/
theorem State.eccCorrected_csn {a s : State} {x1} (h : SameCsn a s) : SameCsn a (State.eccCorrected s x1) := by
  unfold State.eccCorrected
  repeat' first
    | with_reducible assumption
    | ((fail_if_no_progress extract_lets +onlyGivenNames t); refine (?_ : SameCsn a t → _) ?_; (on_goal 2 => unfold t); (on_goal 1 => (clear_value t; intro _)))
    | ((fail_if_no_progress extract_lets +onlyGivenNames t); subst t)
    | dsimp -zeta only
    | with_reducible apply SameCsn.ite
    | with_reducible apply State.latchEcc_csn
    | with_reducible apply State.bump_csn
    | with_reducible apply State.spareRow_csn
    | split
    | fail_if_no_progress (with_reducible refine SameCsn.upd ?_ rfl)

/-- State.poisonUnit keeps what every operation keeps. -/
theorem State.poisonUnit_csn {a s : State} {x1 x2} (h : SameCsn a s) : SameCsn a (State.poisonUnit s x1 x2) := by
  unfold State.poisonUnit
  repeat' first
    | with_reducible assumption
    | ((fail_if_no_progress extract_lets +onlyGivenNames t); refine (?_ : SameCsn a t → _) ?_; (on_goal 2 => unfold t); (on_goal 1 => (clear_value t; intro _)))
    | ((fail_if_no_progress extract_lets +onlyGivenNames t); subst t)
    | dsimp -zeta only
    | with_reducible apply SameCsn.ite
    | split
    | fail_if_no_progress (with_reducible refine SameCsn.upd ?_ rfl)

/-- State.eccUncorrectable keeps what every operation keeps. -/
theorem State.eccUncorrectable_csn {a s : State} {x1 x2} (h : SameCsn a s) : SameCsn a (State.eccUncorrectable s x1 x2) := by
  unfold State.eccUncorrectable
  repeat' first
    | with_reducible assumption
    | ((fail_if_no_progress extract_lets +onlyGivenNames t); refine (?_ : SameCsn a t → _) ?_; (on_goal 2 => unfold t); (on_goal 1 => (clear_value t; intro _)))
    | ((fail_if_no_progress extract_lets +onlyGivenNames t); subst t)
    | dsimp -zeta only
    | with_reducible apply State.poisonUnit_csn
    | with_reducible apply State.latchEcc_csn
    | with_reducible apply State.bump_csn
    | with_reducible apply State.spareRow_csn
    | with_reducible apply State.evHw_csn

/-- State.meetUnit keeps what every operation keeps. -/
theorem State.meetUnit_csn {a s : State} {x1 x2} (h : SameCsn a s) : SameCsn a (State.meetUnit s x1 x2) := by
  unfold State.meetUnit
  repeat' first
    | with_reducible assumption
    | ((fail_if_no_progress extract_lets +onlyGivenNames t); refine (?_ : SameCsn a t → _) ?_; (on_goal 2 => unfold t); (on_goal 1 => (clear_value t; intro _)))
    | ((fail_if_no_progress extract_lets +onlyGivenNames t); subst t)
    | dsimp -zeta only
    | with_reducible apply SameCsn.ite
    | with_reducible apply State.eccCorrected_csn
    | with_reducible apply State.eccUncorrectable_csn
    | split
    | fail_if_no_progress (with_reducible refine SameCsn.upd ?_ rfl)

/-- State.lookMap keeps what every operation keeps. -/
theorem State.lookMap_csn {a s : State} {x1} (h : SameCsn a s) : SameCsn a (State.lookMap s x1) := by
  unfold State.lookMap
  repeat' first
    | with_reducible assumption
    | ((fail_if_no_progress extract_lets +onlyGivenNames t); refine (?_ : SameCsn a t → _) ?_; (on_goal 2 => unfold t); (on_goal 1 => (clear_value t; intro _)))
    | ((fail_if_no_progress extract_lets +onlyGivenNames t); subst t)
    | dsimp -zeta only
    | with_reducible apply SameCsn.ite
    | with_reducible apply State.setF_csn
    | split
    | fail_if_no_progress (with_reducible refine SameCsn.upd ?_ rfl)

/-- State.meet keeps what every operation keeps. -/
theorem State.meet_csn {a s : State} {x1 x2 x3} (h : SameCsn a s) : SameCsn a (State.meet s x1 x2 x3) := by
  unfold State.meet
  repeat' first
    | with_reducible assumption
    | dsimp -zeta only
    | with_reducible apply SameCsn.ite
    | with_reducible apply State.meetUnit_csn
    | with_reducible apply State.lookMap_csn
    | with_reducible exact SameCsn1.out ‹_›
    | with_reducible apply SameCsn1.mk
    | with_reducible apply SameCsn1.ite
    | with_reducible refine SameCsn1.foldl ?_ (fun _ _ _ => ?_)
    | with_reducible refine SameCsn1.out ?_
    | with_reducible exact SameCsn2.out ‹_›
    | with_reducible apply SameCsn2.mk
    | with_reducible apply SameCsn2.ite
    | with_reducible refine SameCsn2.foldl ?_ (fun _ _ _ => ?_)
    | with_reducible refine SameCsn2.out ?_
    | with_reducible refine SameCsn.foldl ?_ (fun _ _ _ => ?_)
    | split

/-- State.latchRefusal keeps what every operation keeps. -/
theorem State.latchRefusal_csn {a s : State} {x1 x2 x3} (h : SameCsn a s) : SameCsn a (State.latchRefusal s x1 x2 x3) := by
  unfold State.latchRefusal
  repeat' first
    | with_reducible assumption
    | ((fail_if_no_progress extract_lets +onlyGivenNames t); refine (?_ : SameCsn a t → _) ?_; (on_goal 2 => unfold t); (on_goal 1 => (clear_value t; intro _)))
    | ((fail_if_no_progress extract_lets +onlyGivenNames t); subst t)
    | dsimp -zeta only
    | with_reducible apply State.setF_csn
    | with_reducible apply State.setB_csn

/-- An access by engines keeps what its effect keeps. -/
theorem State.byEngines_csn {a s : State} {x1 x2 x3} {f : State → State} (h : SameCsn a s) (hf : ∀ s, SameCsn a s → SameCsn a (f s)) :
    SameCsn a (State.byEngines s x1 x2 x3 f) := by
  unfold State.byEngines
  split
  · exact State.latchRefusal_csn h
  · exact hf _ h

/-- State.walkMeet keeps what every operation keeps. -/
theorem State.walkMeet_csn {a s : State} {x1} (h : SameCsn a s) : SameCsn a (State.walkMeet s x1) := by
  unfold State.walkMeet
  repeat' first
    | with_reducible assumption
    | ((fail_if_no_progress extract_lets +onlyGivenNames t); refine (?_ : SameCsn a t → _) ?_; (on_goal 2 => unfold t); (on_goal 1 => (clear_value t; intro _)))
    | ((fail_if_no_progress extract_lets +onlyGivenNames t); subst t)
    | dsimp -zeta only
    | with_reducible apply SameCsn.ite
    | with_reducible apply State.meet_csn
    | split

/-- State.latchWalk keeps what every operation keeps. -/
theorem State.latchWalk_csn {a s : State} {x1 x2} (h : SameCsn a s) : SameCsn a (State.latchWalk s x1 x2) := by
  unfold State.latchWalk
  repeat' first
    | with_reducible assumption
    | dsimp -zeta only
    | with_reducible apply State.setF_csn

/-- It keeps the number of the newest commit. -/
theorem State.hostFill_csn {a s : State} {x1 x2 x3} (h : SameCsn a s) : SameCsn a (State.hostFill s x1 x2 x3) := by
  unfold State.hostFill
  dsimp only
  split <;> exact ⟨h.csn⟩

/-- State.hostTook keeps what every operation keeps. -/
theorem State.hostTook_csn {a s : State} {x1 x2} (h : SameCsn a s) : SameCsn2 a (State.hostTook s x1 x2) := by
  unfold State.hostTook
  repeat' first
    | with_reducible assumption
    | ((fail_if_no_progress extract_lets +onlyGivenNames t); refine (?_ : SameCsn a t → _) ?_; (on_goal 2 => unfold t); (on_goal 1 => (clear_value t; intro _)))
    | ((fail_if_no_progress extract_lets +onlyGivenNames t); subst t)
    | dsimp -zeta only
    | with_reducible apply State.latchWalk_csn
    | with_reducible apply State.hostFill_csn
    | with_reducible exact SameCsn2.out ‹_›
    | with_reducible apply SameCsn2.mk
    | split
    | with_reducible refine SameCsn.of2 ‹_› ?_
    | fail_if_no_progress (with_reducible refine SameCsn.upd ?_ rfl)

/-- State.hostWalk keeps what every operation keeps. -/
theorem State.hostWalk_csn {a s : State} {x1} (h : SameCsn a s) : SameCsn2 a (State.hostWalk s x1) := by
  unfold State.hostWalk
  repeat' first
    | with_reducible assumption
    | ((fail_if_no_progress extract_lets +onlyGivenNames t); refine (?_ : SameCsn a t → _) ?_; (on_goal 2 => unfold t); (on_goal 1 => (clear_value t; intro _)))
    | ((fail_if_no_progress extract_lets +onlyGivenNames t); refine (?_ : SameCsn2 a t → _) ?_; (on_goal 2 => unfold t); (on_goal 1 => (clear_value t; intro _)))
    | ((fail_if_no_progress extract_lets +onlyGivenNames t); subst t)
    | dsimp -zeta only
    | with_reducible apply State.walkMeet_csn
    | with_reducible apply State.hostTook_csn
    | with_reducible refine SameCsn2.out (State.hostTook_csn ?_)
    | with_reducible exact SameCsn2.out ‹_›
    | with_reducible apply SameCsn2.mk

/-- It keeps the number of the newest commit. -/
theorem State.hostTranslate_csn {a s : State} {x1} (h : SameCsn a s) : SameCsn2 a (State.hostTranslate s x1) := by
  unfold State.hostTranslate
  split
  · have k : SameCsn a { s with fresh := s.fresh + 1 } := ⟨h.csn⟩
    dsimp only
    generalize ({ s with fresh := s.fresh + 1 } : State) = u at k ⊢
    split
    · exact State.hostWalk_csn k
    · split
      · exact SameCsn2.mk (State.latchWalk_csn k)
      · exact SameCsn2.mk k
  · exact State.hostWalk_csn h

/-- State.arcCommit keeps what every operation keeps. -/
theorem State.arcCommit_csn {a s : State} {x1 x2 x3 x4} (h : SameCsn a s) : SameCsn a (State.arcCommit s x1 x2 x3 x4) := by
  unfold State.arcCommit
  repeat' first
    | with_reducible assumption
    | ((fail_if_no_progress extract_lets +onlyGivenNames t); refine (?_ : SameCsn a t → _) ?_; (on_goal 2 => unfold t); (on_goal 1 => (clear_value t; intro _)))
    | ((fail_if_no_progress extract_lets +onlyGivenNames t); subst t)
    | dsimp -zeta only
    | with_reducible apply SameCsn.ite
    | split
    | fail_if_no_progress (with_reducible refine SameCsn.upd ?_ rfl)

/-- State.dioCommit keeps what every operation keeps. -/
theorem State.dioCommit_csn {a s : State} {x1 x2} (h : SameCsn a s) : SameCsn a (State.dioCommit s x1 x2) := by
  unfold State.dioCommit
  repeat' first
    | with_reducible assumption
    | ((fail_if_no_progress extract_lets +onlyGivenNames t); refine (?_ : SameCsn a t → _) ?_; (on_goal 2 => unfold t); (on_goal 1 => (clear_value t; intro _)))
    | ((fail_if_no_progress extract_lets +onlyGivenNames t); subst t)
    | dsimp -zeta only
    | with_reducible apply SameCsn.ite
    | with_reducible apply State.setB_csn
    | with_reducible apply State.setF_csn
    | split

/-- State.modAo keeps what every operation keeps. -/
theorem State.modAo_csn {a s : State} {x1 x2} (h : SameCsn a s) : SameCsn a (State.modAo s x1 x2) := by
  unfold State.modAo
  repeat' first
    | with_reducible assumption
    | ((fail_if_no_progress extract_lets +onlyGivenNames t); refine (?_ : SameCsn a t → _) ?_; (on_goal 2 => unfold t); (on_goal 1 => (clear_value t; intro _)))
    | ((fail_if_no_progress extract_lets +onlyGivenNames t); subst t)
    | dsimp -zeta only
    | fail_if_no_progress (with_reducible refine SameCsn.upd ?_ rfl)

/-- State.aoDrive keeps what every operation keeps. -/
theorem State.aoDrive_csn {a s : State} {x1 x2} (h : SameCsn a s) : SameCsn a (State.aoDrive s x1 x2) := by
  unfold State.aoDrive
  repeat' first
    | with_reducible assumption
    | ((fail_if_no_progress extract_lets +onlyGivenNames t); refine (?_ : SameCsn a t → _) ?_; (on_goal 2 => unfold t); (on_goal 1 => (clear_value t; intro _)))
    | ((fail_if_no_progress extract_lets +onlyGivenNames t); subst t)
    | dsimp -zeta only
    | with_reducible apply SameCsn.ite
    | with_reducible apply State.modAo_csn
    | split

/-- State.aoTarget keeps what every operation keeps. -/
theorem State.aoTarget_csn {a s : State} {x1} (h : SameCsn a s) : SameCsn a (State.aoTarget s x1) := by
  unfold State.aoTarget
  repeat' first
    | with_reducible assumption
    | ((fail_if_no_progress extract_lets +onlyGivenNames t); refine (?_ : SameCsn a t → _) ?_; (on_goal 2 => unfold t); (on_goal 1 => (clear_value t; intro _)))
    | ((fail_if_no_progress extract_lets +onlyGivenNames t); refine (?_ : SameCsn2 a t → _) ?_; (on_goal 2 => unfold t); (on_goal 1 => (clear_value t; intro _)))
    | ((fail_if_no_progress extract_lets +onlyGivenNames t); subst t)
    | dsimp -zeta only
    | with_reducible apply SameCsn.ite
    | with_reducible apply State.aoDrive_csn
    | with_reducible apply State.free_csn
    | with_reducible refine SameCsn2.out (State.free_csn ?_)
    | with_reducible exact SameCsn2.out ‹_›
    | with_reducible apply SameCsn2.mk
    | with_reducible apply SameCsn2.ite
    | split
    | with_reducible refine SameCsn.of2 ‹_› ?_

/-- State.aoCommit keeps what every operation keeps. -/
theorem State.aoCommit_csn {a s : State} {x1 x2} (h : SameCsn a s) : SameCsn a (State.aoCommit s x1 x2) := by
  unfold State.aoCommit
  repeat' first
    | with_reducible assumption
    | ((fail_if_no_progress extract_lets +onlyGivenNames t); refine (?_ : SameCsn a t → _) ?_; (on_goal 2 => unfold t); (on_goal 1 => (clear_value t; intro _)))
    | ((fail_if_no_progress extract_lets +onlyGivenNames t); subst t)
    | dsimp -zeta only
    | with_reducible apply SameCsn.ite
    | with_reducible apply State.aoTarget_csn
    | with_reducible apply State.modAo_csn
    | split

/-- State.aoAll keeps what every operation keeps. -/
theorem State.aoAll_csn {a s : State} (h : SameCsn a s) : SameCsn a (State.aoAll s) := by
  unfold State.aoAll
  repeat' first
    | with_reducible assumption
    | dsimp -zeta only
    | with_reducible apply State.aoTarget_csn
    | with_reducible exact SameCsn1.out ‹_›
    | with_reducible apply SameCsn1.mk
    | with_reducible refine SameCsn1.foldl ?_ (fun _ _ _ => ?_)
    | with_reducible refine SameCsn1.out ?_
    | with_reducible exact SameCsn2.out ‹_›
    | with_reducible apply SameCsn2.mk
    | with_reducible refine SameCsn2.foldl ?_ (fun _ _ _ => ?_)
    | with_reducible refine SameCsn2.out ?_
    | with_reducible refine SameCsn.foldl ?_ (fun _ _ _ => ?_)

/-- State.outputsHold keeps what every operation keeps. -/
theorem State.outputsHold_csn {a s : State} {x1} (h : SameCsn a s) : SameCsn a (State.outputsHold s x1) := by
  unfold State.outputsHold
  repeat' first
    | with_reducible assumption
    | ((fail_if_no_progress extract_lets +onlyGivenNames t); refine (?_ : SameCsn a t → _) ?_; (on_goal 2 => unfold t); (on_goal 1 => (clear_value t; intro _)))
    | ((fail_if_no_progress extract_lets +onlyGivenNames t); subst t)
    | dsimp -zeta only
    | with_reducible apply State.aoAll_csn
    | fail_if_no_progress (with_reducible refine SameCsn.upd ?_ rfl)

/-- State.modSess keeps what every operation keeps. -/
theorem State.modSess_csn {a s : State} {x1 x2} (h : SameCsn a s) : SameCsn a (State.modSess s x1 x2) := by
  unfold State.modSess
  repeat' first
    | with_reducible assumption
    | ((fail_if_no_progress extract_lets +onlyGivenNames t); refine (?_ : SameCsn a t → _) ?_; (on_goal 2 => unfold t); (on_goal 1 => (clear_value t; intro _)))
    | ((fail_if_no_progress extract_lets +onlyGivenNames t); subst t)
    | dsimp -zeta only
    | split
    | fail_if_no_progress (with_reducible refine SameCsn.upd ?_ rfl)

/-- State.modQp keeps what every operation keeps. -/
theorem State.modQp_csn {a s : State} {x1 x2 x3} (h : SameCsn a s) : SameCsn a (State.modQp s x1 x2 x3) := by
  unfold State.modQp
  repeat' first
    | with_reducible assumption
    | ((fail_if_no_progress extract_lets +onlyGivenNames t); refine (?_ : SameCsn a t → _) ?_; (on_goal 2 => unfold t); (on_goal 1 => (clear_value t; intro _)))
    | ((fail_if_no_progress extract_lets +onlyGivenNames t); subst t)
    | dsimp -zeta only
    | with_reducible apply State.modSess_csn
    | split

/-- State.setAck keeps what every operation keeps. -/
theorem State.setAck_csn {a s : State} {x1} (h : SameCsn a s) : SameCsn a (State.setAck s x1) := by
  unfold State.setAck
  repeat' first
    | with_reducible assumption
    | dsimp -zeta only
    | with_reducible apply State.set64_csn

/-- State.putCompl keeps what every operation keeps. -/
theorem State.putCompl_csn {a s : State} {x1 x2 x3} (h : SameCsn a s) : SameCsn a (State.putCompl s x1 x2 x3) := by
  unfold State.putCompl
  repeat' first
    | with_reducible assumption
    | ((fail_if_no_progress extract_lets +onlyGivenNames t); refine (?_ : SameCsn a t → _) ?_; (on_goal 2 => unfold t); (on_goal 1 => (clear_value t; intro _)))
    | ((fail_if_no_progress extract_lets +onlyGivenNames t); subst t)
    | dsimp -zeta only
    | with_reducible apply State.modQp_csn

/-- State.complete keeps what every operation keeps. -/
theorem State.complete_csn {a s : State} {x1 x2 x3 x4 x5 x6 x7 x8} (h : SameCsn a s) : SameCsn a (State.complete s x1 x2 x3 x4 x5 x6 x7 x8) := by
  unfold State.complete
  repeat' first
    | with_reducible assumption
    | ((fail_if_no_progress extract_lets +onlyGivenNames t); refine (?_ : SameCsn a t → _) ?_; (on_goal 2 => unfold t); (on_goal 1 => (clear_value t; intro _)))
    | ((fail_if_no_progress extract_lets +onlyGivenNames t); subst t)
    | dsimp -zeta only
    | with_reducible apply SameCsn.ite
    | with_reducible apply State.modQp_csn
    | with_reducible apply State.putCompl_csn
    | split

/-- State.completeDups keeps what every operation keeps. -/
theorem State.completeDups_csn {a s : State} {x1 x2 x3 x4 x5} (h : SameCsn a s) : SameCsn a (State.completeDups s x1 x2 x3 x4 x5) := by
  unfold State.completeDups
  repeat' first
    | with_reducible assumption
    | ((fail_if_no_progress extract_lets +onlyGivenNames t); refine (?_ : SameCsn a t → _) ?_; (on_goal 2 => unfold t); (on_goal 1 => (clear_value t; intro _)))
    | ((fail_if_no_progress extract_lets +onlyGivenNames t); refine (?_ : SameCsn2 a t → _) ?_; (on_goal 2 => unfold t); (on_goal 1 => (clear_value t; intro _)))
    | ((fail_if_no_progress extract_lets +onlyGivenNames t); refine (?_ : SameCsn1 a t → _) ?_; (on_goal 2 => unfold t); (on_goal 1 => (clear_value t; intro _)))
    | ((fail_if_no_progress extract_lets +onlyGivenNames t); subst t)
    | dsimp -zeta only
    | with_reducible apply SameCsn.ite
    | with_reducible apply State.complete_csn
    | with_reducible exact SameCsn1.out ‹_›
    | with_reducible apply SameCsn1.mk
    | with_reducible apply SameCsn1.ite
    | with_reducible refine SameCsn1.foldl ?_ (fun _ _ _ => ?_)
    | with_reducible refine SameCsn1.out ?_
    | with_reducible exact SameCsn2.out ‹_›
    | with_reducible apply SameCsn2.mk
    | with_reducible apply SameCsn2.ite
    | with_reducible refine SameCsn2.foldl ?_ (fun _ _ _ => ?_)
    | with_reducible refine SameCsn2.out ?_
    | with_reducible refine SameCsn.foldl ?_ (fun _ _ _ => ?_)
    | split
    | fail_if_no_progress (with_reducible refine SameCsn.upd ?_ rfl)

/-- State.completeB keeps what every operation keeps. -/
theorem State.completeB_csn {a s : State} {x1 x2 x3} (h : SameCsn a s) : SameCsn a (State.completeB s x1 x2 x3) := by
  unfold State.completeB
  repeat' first
    | with_reducible assumption
    | ((fail_if_no_progress extract_lets +onlyGivenNames t); refine (?_ : SameCsn a t → _) ?_; (on_goal 2 => unfold t); (on_goal 1 => (clear_value t; intro _)))
    | ((fail_if_no_progress extract_lets +onlyGivenNames t); subst t)
    | dsimp -zeta only
    | with_reducible apply SameCsn.ite
    | with_reducible apply State.completeDups_csn
    | with_reducible apply State.modQp_csn
    | with_reducible apply State.putCompl_csn
    | split

/-- State.under keeps what every operation keeps. -/
theorem State.under_csn {a s : State} {x1} (h : SameCsn a s) : SameCsn a (State.under s x1) := by
  unfold State.under
  repeat' first
    | with_reducible assumption
    | dsimp -zeta only
    | with_reducible apply State.setF_csn

/-- State.hostEntry keeps what every operation keeps. -/
theorem State.hostEntry_csn {a s : State} {x1} (h : SameCsn a s) : SameCsn2 a (State.hostEntry s x1) := by
  unfold State.hostEntry
  repeat' first
    | with_reducible assumption
    | dsimp -zeta only
    | with_reducible apply State.hostTranslate_csn
    | with_reducible refine SameCsn2.out (State.hostTranslate_csn ?_)
    | with_reducible exact SameCsn2.out ‹_›
    | with_reducible apply SameCsn2.mk

/-- State.snapMeets keeps what every operation keeps. -/
theorem State.snapMeets_csn {a s : State} {x1 x2 x3} (h : SameCsn a s) : SameCsn2 a (State.snapMeets s x1 x2 x3) := by
  unfold State.snapMeets
  repeat' first
    | with_reducible assumption
    | ((fail_if_no_progress extract_lets +onlyGivenNames t); refine (?_ : SameCsn a t → _) ?_; (on_goal 2 => unfold t); (on_goal 1 => (clear_value t; intro _)))
    | ((fail_if_no_progress extract_lets +onlyGivenNames t); subst t)
    | dsimp -zeta only
    | with_reducible apply SameCsn.ite
    | with_reducible apply State.meet_csn
    | with_reducible exact SameCsn2.out ‹_›
    | with_reducible apply SameCsn2.mk
    | with_reducible apply SameCsn2.ite
    | split

/-- State.readTag keeps what every operation keeps. -/
theorem State.readTag_csn {a s : State} {x1 x2} (h : SameCsn a s) : SameCsn2 a (State.readTag s x1 x2) := by
  unfold State.readTag
  repeat' first
    | with_reducible assumption
    | ((fail_if_no_progress extract_lets +onlyGivenNames t); refine (?_ : SameCsn a t → _) ?_; (on_goal 2 => unfold t); (on_goal 1 => (clear_value t; intro _)))
    | ((fail_if_no_progress extract_lets +onlyGivenNames t); refine (?_ : SameCsn2 a t → _) ?_; (on_goal 2 => unfold t); (on_goal 1 => (clear_value t; intro _)))
    | ((fail_if_no_progress extract_lets +onlyGivenNames t); subst t)
    | dsimp -zeta only
    | with_reducible apply SameCsn.ite
    | with_reducible apply State.hostEntry_csn
    | with_reducible refine SameCsn2.out (State.hostEntry_csn ?_)
    | with_reducible apply State.latchRefusal_csn
    | with_reducible apply State.snapMeets_csn
    | with_reducible refine SameCsn2.out (State.snapMeets_csn ?_)
    | with_reducible exact SameCsn2.out ‹_›
    | with_reducible apply SameCsn2.mk
    | with_reducible apply SameCsn2.ite
    | split
    | with_reducible refine SameCsn.of2 ‹_› ?_

/-- State.readTags keeps what every operation keeps. -/
theorem State.readTags_csn {a s : State} {x1 x2 x3} (h : SameCsn a s) : SameCsn2 a (State.readTags s x1 x2 x3) := by
  induction x3 generalizing s x2 with
  | nil => unfold State.readTags; exact SameCsn2.mk h
  | cons t ts ih =>
    unfold State.readTags
    have h1 : SameCsn2 a (s.readTag x1 t) := State.readTag_csn h
    generalize s.readTag x1 t = p at h1
    rcases p with ⟨⟨bs, e⟩, s1⟩
    have h2 : SameCsn2 a (State.readTags s1 x1 (x2 + 1) ts) := ih h1
    dsimp only
    generalize State.readTags s1 x1 (x2 + 1) ts = q at h2
    rcases q with ⟨⟨rest, e', i'⟩, s2⟩
    exact SameCsn2.mk (SameCsn2.out h2)

/-- State.serveRead keeps what every operation keeps. -/
theorem State.serveRead_csn {a s : State} {x1 x2 x3 x4 x5} (h : SameCsn a s) : SameCsn a (State.serveRead s x1 x2 x3 x4 x5) := by
  unfold State.serveRead
  repeat' first
    | with_reducible assumption
    | ((fail_if_no_progress extract_lets +onlyGivenNames t); refine (?_ : SameCsn a t → _) ?_; (on_goal 2 => unfold t); (on_goal 1 => (clear_value t; intro _)))
    | ((fail_if_no_progress extract_lets +onlyGivenNames t); refine (?_ : SameCsn2 a t → _) ?_; (on_goal 2 => unfold t); (on_goal 1 => (clear_value t; intro _)))
    | ((fail_if_no_progress extract_lets +onlyGivenNames t); subst t)
    | dsimp -zeta only
    | with_reducible apply SameCsn.ite
    | with_reducible apply State.complete_csn
    | with_reducible apply State.under_csn
    | with_reducible apply State.hostEntry_csn
    | with_reducible refine SameCsn2.out (State.hostEntry_csn ?_)
    | with_reducible apply State.latchRefusal_csn
    | with_reducible apply State.snapMeets_csn
    | with_reducible refine SameCsn2.out (State.snapMeets_csn ?_)
    | with_reducible apply State.readTags_csn
    | with_reducible refine SameCsn2.out (State.readTags_csn ?_)
    | with_reducible exact SameCsn2.out ‹_›
    | with_reducible apply SameCsn2.mk
    | with_reducible apply SameCsn2.ite
    | split
    | with_reducible refine SameCsn.of2 ‹_› ?_

/-- State.releaseQp keeps what every operation keeps. -/
theorem State.releaseQp_csn {a s : State} {x1 x2 x3} (h : SameCsn a s) : SameCsn a (State.releaseQp s x1 x2 x3) := by
  unfold State.releaseQp
  repeat' first
    | with_reducible assumption
    | ((fail_if_no_progress extract_lets +onlyGivenNames t); refine (?_ : SameCsn a t → _) ?_; (on_goal 2 => unfold t); (on_goal 1 => (clear_value t; intro _)))
    | ((fail_if_no_progress extract_lets +onlyGivenNames t); refine (?_ : SameCsn2 a t → _) ?_; (on_goal 2 => unfold t); (on_goal 1 => (clear_value t; intro _)))
    | ((fail_if_no_progress extract_lets +onlyGivenNames t); refine (?_ : SameCsn1 a t → _) ?_; (on_goal 2 => unfold t); (on_goal 1 => (clear_value t; intro _)))
    | ((fail_if_no_progress extract_lets +onlyGivenNames t); subst t)
    | dsimp -zeta only
    | with_reducible apply SameCsn.ite
    | with_reducible apply State.serveRead_csn
    | with_reducible apply State.modQp_csn
    | with_reducible exact SameCsn1.out ‹_›
    | with_reducible apply SameCsn1.mk
    | with_reducible apply SameCsn1.ite
    | with_reducible refine SameCsn1.foldl ?_ (fun _ _ _ => ?_)
    | with_reducible refine SameCsn1.out ?_
    | with_reducible exact SameCsn2.out ‹_›
    | with_reducible apply SameCsn2.mk
    | with_reducible apply SameCsn2.ite
    | with_reducible refine SameCsn2.foldl ?_ (fun _ _ _ => ?_)
    | with_reducible refine SameCsn2.out ?_
    | with_reducible refine SameCsn.foldl ?_ (fun _ _ _ => ?_)
    | split

/-- State.releaseReads keeps what every operation keeps. -/
theorem State.releaseReads_csn {a s : State} (h : SameCsn a s) : SameCsn a (State.releaseReads s) := by
  unfold State.releaseReads
  repeat' first
    | with_reducible assumption
    | dsimp -zeta only
    | with_reducible apply State.releaseQp_csn
    | with_reducible exact SameCsn1.out ‹_›
    | with_reducible apply SameCsn1.mk
    | with_reducible refine SameCsn1.foldl ?_ (fun _ _ _ => ?_)
    | with_reducible refine SameCsn1.out ?_
    | with_reducible exact SameCsn2.out ‹_›
    | with_reducible apply SameCsn2.mk
    | with_reducible refine SameCsn2.foldl ?_ (fun _ _ _ => ?_)
    | with_reducible refine SameCsn2.out ?_
    | with_reducible refine SameCsn.foldl ?_ (fun _ _ _ => ?_)

/-- State.completeBatches keeps what every operation keeps. -/
theorem State.completeBatches_csn {a s : State} (h : SameCsn a s) : SameCsn a (State.completeBatches s) := by
  unfold State.completeBatches
  repeat' first
    | with_reducible assumption
    | ((fail_if_no_progress extract_lets +onlyGivenNames t); refine (?_ : SameCsn a t → _) ?_; (on_goal 2 => unfold t); (on_goal 1 => (clear_value t; intro _)))
    | ((fail_if_no_progress extract_lets +onlyGivenNames t); refine (?_ : SameCsn2 a t → _) ?_; (on_goal 2 => unfold t); (on_goal 1 => (clear_value t; intro _)))
    | ((fail_if_no_progress extract_lets +onlyGivenNames t); refine (?_ : SameCsn1 a t → _) ?_; (on_goal 2 => unfold t); (on_goal 1 => (clear_value t; intro _)))
    | ((fail_if_no_progress extract_lets +onlyGivenNames t); subst t)
    | dsimp -zeta only
    | with_reducible apply State.completeB_csn
    | with_reducible apply State.completeDups_csn
    | with_reducible exact SameCsn1.out ‹_›
    | with_reducible apply SameCsn1.mk
    | with_reducible refine SameCsn1.foldl ?_ (fun _ _ _ => ?_)
    | with_reducible refine SameCsn1.out ?_
    | with_reducible exact SameCsn2.out ‹_›
    | with_reducible apply SameCsn2.mk
    | with_reducible refine SameCsn2.foldl ?_ (fun _ _ _ => ?_)
    | with_reducible refine SameCsn2.out ?_
    | with_reducible refine SameCsn.foldl ?_ (fun _ _ _ => ?_)
    | split
    | fail_if_no_progress (with_reducible refine SameCsn.upd ?_ rfl)

/-- State.identify keeps what every operation keeps. -/
theorem State.identify_csn {a s : State} {x1 x2} (h : SameCsn a s) : SameCsn a (State.identify s x1 x2) := by
  unfold State.identify
  repeat' first
    | with_reducible assumption
    | ((fail_if_no_progress extract_lets +onlyGivenNames t); refine (?_ : SameCsn a t → _) ?_; (on_goal 2 => unfold t); (on_goal 1 => (clear_value t; intro _)))
    | ((fail_if_no_progress extract_lets +onlyGivenNames t); subst t)
    | dsimp -zeta only
    | fail_if_no_progress (with_reducible refine SameCsn.upd ?_ rfl)

/-- State.deliver keeps what every operation keeps. -/
theorem State.deliver_csn {a s : State} {x1 x2 x3 x4} (h : SameCsn a s) : SameCsn a (State.deliver s x1 x2 x3 x4) := by
  unfold State.deliver
  repeat' first
    | with_reducible assumption
    | ((fail_if_no_progress extract_lets +onlyGivenNames t); refine (?_ : SameCsn a t → _) ?_; (on_goal 2 => unfold t); (on_goal 1 => (clear_value t; intro _)))
    | ((fail_if_no_progress extract_lets +onlyGivenNames t); subst t)
    | dsimp -zeta only
    | with_reducible apply SameCsn.ite
    | with_reducible apply State.putCompl_csn
    | split

/-- State.subCommit keeps what every operation keeps. -/
theorem State.subCommit_csn {a s : State} {x1 x2 x3 x4} (h : SameCsn a s) : SameCsn a (State.subCommit s x1 x2 x3 x4) := by
  unfold State.subCommit
  repeat' first
    | with_reducible assumption
    | ((fail_if_no_progress extract_lets +onlyGivenNames t); refine (?_ : SameCsn a t → _) ?_; (on_goal 2 => unfold t); (on_goal 1 => (clear_value t; intro _)))
    | ((fail_if_no_progress extract_lets +onlyGivenNames t); refine (?_ : SameCsn2 a t → _) ?_; (on_goal 2 => unfold t); (on_goal 1 => (clear_value t; intro _)))
    | ((fail_if_no_progress extract_lets +onlyGivenNames t); subst t)
    | dsimp -zeta only
    | with_reducible apply SameCsn.ite
    | with_reducible apply State.modSess_csn
    | with_reducible apply State.readTags_csn
    | with_reducible refine SameCsn2.out (State.readTags_csn ?_)
    | with_reducible exact SameCsn2.out ‹_›
    | with_reducible apply SameCsn2.mk
    | with_reducible apply SameCsn2.ite
    | split
    | with_reducible refine SameCsn.of2 ‹_› ?_

/-- State.pushSub keeps what every operation keeps. -/
theorem State.pushSub_csn {a s : State} {x1 x2} (h : SameCsn a s) : SameCsn a (State.pushSub s x1 x2) := by
  unfold State.pushSub
  repeat' first
    | with_reducible assumption
    | ((fail_if_no_progress extract_lets +onlyGivenNames t); refine (?_ : SameCsn a t → _) ?_; (on_goal 2 => unfold t); (on_goal 1 => (clear_value t; intro _)))
    | ((fail_if_no_progress extract_lets +onlyGivenNames t); refine (?_ : SameCsn2 a t → _) ?_; (on_goal 2 => unfold t); (on_goal 1 => (clear_value t; intro _)))
    | ((fail_if_no_progress extract_lets +onlyGivenNames t); refine (?_ : SameCsn1 a t → _) ?_; (on_goal 2 => unfold t); (on_goal 1 => (clear_value t; intro _)))
    | ((fail_if_no_progress extract_lets +onlyGivenNames t); subst t)
    | dsimp -zeta only
    | with_reducible apply SameCsn.ite
    | with_reducible apply State.modSess_csn
    | with_reducible apply State.deliver_csn
    | with_reducible exact SameCsn1.out ‹_›
    | with_reducible apply SameCsn1.mk
    | with_reducible apply SameCsn1.ite
    | with_reducible refine SameCsn1.foldl ?_ (fun _ _ _ => ?_)
    | with_reducible refine SameCsn1.out ?_
    | with_reducible exact SameCsn2.out ‹_›
    | with_reducible apply SameCsn2.mk
    | with_reducible apply SameCsn2.ite
    | with_reducible refine SameCsn2.foldl ?_ (fun _ _ _ => ?_)
    | with_reducible refine SameCsn2.out ?_
    | with_reducible refine SameCsn.foldl ?_ (fun _ _ _ => ?_)
    | split

/-- State.pushSubs keeps what every operation keeps. -/
theorem State.pushSubs_csn {a s : State} (h : SameCsn a s) : SameCsn a (State.pushSubs s) := by
  unfold State.pushSubs
  repeat' first
    | with_reducible assumption
    | dsimp -zeta only
    | with_reducible apply State.pushSub_csn
    | with_reducible exact SameCsn1.out ‹_›
    | with_reducible apply SameCsn1.mk
    | with_reducible refine SameCsn1.foldl ?_ (fun _ _ _ => ?_)
    | with_reducible refine SameCsn1.out ?_
    | with_reducible exact SameCsn2.out ‹_›
    | with_reducible apply SameCsn2.mk
    | with_reducible refine SameCsn2.foldl ?_ (fun _ _ _ => ?_)
    | with_reducible refine SameCsn2.out ?_
    | with_reducible refine SameCsn.foldl ?_ (fun _ _ _ => ?_)

/-- State.subsCommit keeps what every operation keeps. -/
theorem State.subsCommit_csn {a s : State} {x1 x2 x3} (h : SameCsn a s) : SameCsn a (State.subsCommit s x1 x2 x3) := by
  unfold State.subsCommit
  repeat' first
    | with_reducible assumption
    | dsimp -zeta only
    | with_reducible apply SameCsn.ite
    | with_reducible apply State.subCommit_csn
    | with_reducible exact SameCsn1.out ‹_›
    | with_reducible apply SameCsn1.mk
    | with_reducible apply SameCsn1.ite
    | with_reducible refine SameCsn1.foldl ?_ (fun _ _ _ => ?_)
    | with_reducible refine SameCsn1.out ?_
    | with_reducible exact SameCsn2.out ‹_›
    | with_reducible apply SameCsn2.mk
    | with_reducible apply SameCsn2.ite
    | with_reducible refine SameCsn2.foldl ?_ (fun _ _ _ => ?_)
    | with_reducible refine SameCsn2.out ?_
    | with_reducible refine SameCsn.foldl ?_ (fun _ _ _ => ?_)
    | split

/-- State.hostAdvance keeps what every operation keeps. -/
theorem State.hostAdvance_csn {a s : State} (h : SameCsn a s) : SameCsn a (State.hostAdvance s) := by
  unfold State.hostAdvance
  repeat' first
    | with_reducible assumption
    | dsimp -zeta only
    | with_reducible apply State.pushSubs_csn
    | with_reducible apply State.completeBatches_csn
    | with_reducible apply State.releaseReads_csn

/-- State.finishCut keeps what every operation keeps. -/
theorem State.finishCut_csn {a s : State} {x1 x2} (h : SameCsn a s) : SameCsn a (State.finishCut s x1 x2) := by
  unfold State.finishCut
  repeat' first
    | with_reducible assumption
    | ((fail_if_no_progress extract_lets +onlyGivenNames t); refine (?_ : SameCsn a t → _) ?_; (on_goal 2 => unfold t); (on_goal 1 => (clear_value t; intro _)))
    | ((fail_if_no_progress extract_lets +onlyGivenNames t); subst t)
    | dsimp -zeta only
    | with_reducible apply SameCsn.ite
    | with_reducible apply State.sysWrite_csn
    | with_reducible apply State.share_csn
    | with_reducible apply State.complete_csn
    | split
    | fail_if_no_progress (with_reducible refine SameCsn.upd ?_ rfl)

/-- State.breakCuts keeps what every operation keeps. -/
theorem State.breakCuts_csn {a s : State} (h : SameCsn a s) : SameCsn a (State.breakCuts s) := by
  unfold State.breakCuts
  repeat' first
    | with_reducible assumption
    | ((fail_if_no_progress extract_lets +onlyGivenNames t); refine (?_ : SameCsn a t → _) ?_; (on_goal 2 => unfold t); (on_goal 1 => (clear_value t; intro _)))
    | ((fail_if_no_progress extract_lets +onlyGivenNames t); refine (?_ : SameCsn2 a t → _) ?_; (on_goal 2 => unfold t); (on_goal 1 => (clear_value t; intro _)))
    | ((fail_if_no_progress extract_lets +onlyGivenNames t); refine (?_ : SameCsn1 a t → _) ?_; (on_goal 2 => unfold t); (on_goal 1 => (clear_value t; intro _)))
    | ((fail_if_no_progress extract_lets +onlyGivenNames t); subst t)
    | dsimp -zeta only
    | with_reducible apply State.finishCut_csn
    | with_reducible exact SameCsn1.out ‹_›
    | with_reducible apply SameCsn1.mk
    | with_reducible refine SameCsn1.foldl ?_ (fun _ _ _ => ?_)
    | with_reducible refine SameCsn1.out ?_
    | with_reducible exact SameCsn2.out ‹_›
    | with_reducible apply SameCsn2.mk
    | with_reducible refine SameCsn2.foldl ?_ (fun _ _ _ => ?_)
    | with_reducible refine SameCsn2.out ?_
    | with_reducible refine SameCsn.foldl ?_ (fun _ _ _ => ?_)

/-- State.specState keeps what every operation keeps. -/
theorem State.specState_csn {a s : State} {x1 x2} (h : SameCsn a s) : SameCsn a (State.specState s x1 x2) := by
  unfold State.specState
  repeat' first
    | with_reducible assumption
    | ((fail_if_no_progress extract_lets +onlyGivenNames t); refine (?_ : SameCsn a t → _) ?_; (on_goal 2 => unfold t); (on_goal 1 => (clear_value t; intro _)))
    | ((fail_if_no_progress extract_lets +onlyGivenNames t); subst t)
    | dsimp -zeta only
    | with_reducible apply State.setF_csn

/-- State.modCan keeps what every operation keeps. -/
theorem State.modCan_csn {a s : State} {x1 x2} (h : SameCsn a s) : SameCsn a (State.modCan s x1 x2) := by
  unfold State.modCan
  repeat' first
    | with_reducible assumption
    | ((fail_if_no_progress extract_lets +onlyGivenNames t); refine (?_ : SameCsn a t → _) ?_; (on_goal 2 => unfold t); (on_goal 1 => (clear_value t; intro _)))
    | ((fail_if_no_progress extract_lets +onlyGivenNames t); subst t)
    | dsimp -zeta only
    | fail_if_no_progress (with_reducible refine SameCsn.upd ?_ rfl)

/-- State.slotFill keeps what every operation keeps. -/
theorem State.slotFill_csn {a s : State} {x1 x2 x3 x4} (h : SameCsn a s) : SameCsn a (State.slotFill s x1 x2 x3 x4) := by
  unfold State.slotFill
  repeat' first
    | with_reducible assumption
    | ((fail_if_no_progress extract_lets +onlyGivenNames t); refine (?_ : SameCsn a t → _) ?_; (on_goal 2 => unfold t); (on_goal 1 => (clear_value t; intro _)))
    | ((fail_if_no_progress extract_lets +onlyGivenNames t); subst t)
    | dsimp -zeta only
    | with_reducible apply SameCsn.ite
    | with_reducible apply State.modCan_csn
    | with_reducible apply State.bump_csn
    | split

/-- State.canCommit keeps what every operation keeps. -/
theorem State.canCommit_csn {a s : State} {x1 x2 x3} (h : SameCsn a s) : SameCsn a (State.canCommit s x1 x2 x3) := by
  unfold State.canCommit
  repeat' first
    | with_reducible assumption
    | ((fail_if_no_progress extract_lets +onlyGivenNames t); refine (?_ : SameCsn a t → _) ?_; (on_goal 2 => unfold t); (on_goal 1 => (clear_value t; intro _)))
    | ((fail_if_no_progress extract_lets +onlyGivenNames t); refine (?_ : SameCsn2 a t → _) ?_; (on_goal 2 => unfold t); (on_goal 1 => (clear_value t; intro _)))
    | ((fail_if_no_progress extract_lets +onlyGivenNames t); refine (?_ : SameCsn1 a t → _) ?_; (on_goal 2 => unfold t); (on_goal 1 => (clear_value t; intro _)))
    | ((fail_if_no_progress extract_lets +onlyGivenNames t); subst t)
    | dsimp -zeta only
    | with_reducible apply SameCsn.ite
    | with_reducible apply State.modCan_csn
    | with_reducible apply State.slotFill_csn
    | with_reducible exact SameCsn1.out ‹_›
    | with_reducible apply SameCsn1.mk
    | with_reducible apply SameCsn1.ite
    | with_reducible refine SameCsn1.foldl ?_ (fun _ _ _ => ?_)
    | with_reducible refine SameCsn1.out ?_
    | with_reducible exact SameCsn2.out ‹_›
    | with_reducible apply SameCsn2.mk
    | with_reducible apply SameCsn2.ite
    | with_reducible refine SameCsn2.foldl ?_ (fun _ _ _ => ?_)
    | with_reducible refine SameCsn2.out ?_
    | with_reducible refine SameCsn.foldl ?_ (fun _ _ _ => ?_)
    | split

/-- State.canHandOver keeps what every operation keeps. -/
theorem State.canHandOver_csn {a s : State} {x1 x2} (h : SameCsn a s) : SameCsn a (State.canHandOver s x1 x2) := by
  unfold State.canHandOver
  repeat' first
    | with_reducible assumption
    | ((fail_if_no_progress extract_lets +onlyGivenNames t); refine (?_ : SameCsn a t → _) ?_; (on_goal 2 => unfold t); (on_goal 1 => (clear_value t; intro _)))
    | ((fail_if_no_progress extract_lets +onlyGivenNames t); refine (?_ : SameCsn2 a t → _) ?_; (on_goal 2 => unfold t); (on_goal 1 => (clear_value t; intro _)))
    | ((fail_if_no_progress extract_lets +onlyGivenNames t); refine (?_ : SameCsn1 a t → _) ?_; (on_goal 2 => unfold t); (on_goal 1 => (clear_value t; intro _)))
    | ((fail_if_no_progress extract_lets +onlyGivenNames t); subst t)
    | dsimp -zeta only
    | with_reducible apply SameCsn.ite
    | with_reducible apply State.bump_csn
    | with_reducible apply State.modCan_csn
    | with_reducible exact SameCsn1.out ‹_›
    | with_reducible apply SameCsn1.mk
    | with_reducible apply SameCsn1.ite
    | with_reducible refine SameCsn1.foldl ?_ (fun _ _ _ => ?_)
    | with_reducible refine SameCsn1.out ?_
    | with_reducible exact SameCsn2.out ‹_›
    | with_reducible apply SameCsn2.mk
    | with_reducible apply SameCsn2.ite
    | with_reducible refine SameCsn2.foldl ?_ (fun _ _ _ => ?_)
    | with_reducible refine SameCsn2.out ?_
    | with_reducible refine SameCsn.foldl ?_ (fun _ _ _ => ?_)
    | split

/-- State.canClear keeps what every operation keeps. -/
theorem State.canClear_csn {a s : State} (h : SameCsn a s) : SameCsn a (State.canClear s) := by
  unfold State.canClear
  repeat' first
    | with_reducible assumption
    | ((fail_if_no_progress extract_lets +onlyGivenNames t); refine (?_ : SameCsn a t → _) ?_; (on_goal 2 => unfold t); (on_goal 1 => (clear_value t; intro _)))
    | ((fail_if_no_progress extract_lets +onlyGivenNames t); refine (?_ : SameCsn2 a t → _) ?_; (on_goal 2 => unfold t); (on_goal 1 => (clear_value t; intro _)))
    | ((fail_if_no_progress extract_lets +onlyGivenNames t); refine (?_ : SameCsn1 a t → _) ?_; (on_goal 2 => unfold t); (on_goal 1 => (clear_value t; intro _)))
    | ((fail_if_no_progress extract_lets +onlyGivenNames t); subst t)
    | dsimp -zeta only
    | with_reducible apply State.modCan_csn
    | with_reducible exact SameCsn1.out ‹_›
    | with_reducible apply SameCsn1.mk
    | with_reducible refine SameCsn1.foldl ?_ (fun _ _ _ => ?_)
    | with_reducible refine SameCsn1.out ?_
    | with_reducible exact SameCsn2.out ‹_›
    | with_reducible apply SameCsn2.mk
    | with_reducible refine SameCsn2.foldl ?_ (fun _ _ _ => ?_)
    | with_reducible refine SameCsn2.out ?_
    | with_reducible refine SameCsn.foldl ?_ (fun _ _ _ => ?_)

/-- State.modFn keeps what every operation keeps. -/
theorem State.modFn_csn {a s : State} {x1 x2} (h : SameCsn a s) : SameCsn a (State.modFn s x1 x2) := by
  unfold State.modFn
  repeat' first
    | with_reducible assumption
    | ((fail_if_no_progress extract_lets +onlyGivenNames t); refine (?_ : SameCsn a t → _) ?_; (on_goal 2 => unfold t); (on_goal 1 => (clear_value t; intro _)))
    | ((fail_if_no_progress extract_lets +onlyGivenNames t); subst t)
    | dsimp -zeta only
    | fail_if_no_progress (with_reducible refine SameCsn.upd ?_ rfl)

/-- State.fnSummary keeps what every operation keeps. -/
theorem State.fnSummary_csn {a s : State} (h : SameCsn a s) : SameCsn a (State.fnSummary s) := by
  unfold State.fnSummary
  repeat' first
    | with_reducible assumption
    | dsimp -zeta only
    | with_reducible apply State.setB_csn

/-- State.fnNormal keeps what every operation keeps. -/
theorem State.fnNormal_csn {a s : State} {x1} (h : SameCsn a s) : SameCsn a (State.fnNormal s x1) := by
  unfold State.fnNormal
  repeat' first
    | with_reducible assumption
    | ((fail_if_no_progress extract_lets +onlyGivenNames t); refine (?_ : SameCsn a t → _) ?_; (on_goal 2 => unfold t); (on_goal 1 => (clear_value t; intro _)))
    | ((fail_if_no_progress extract_lets +onlyGivenNames t); subst t)
    | dsimp -zeta only
    | with_reducible apply State.modFn_csn
    | with_reducible apply State.fnSummary_csn
    | with_reducible apply State.setF_csn
    | fail_if_no_progress (with_reducible refine SameCsn.upd ?_ rfl)

/-- State.fnCommit keeps what every operation keeps. -/
theorem State.fnCommit_csn {a s : State} {x1} (h : SameCsn a s) : SameCsn a (State.fnCommit s x1) := by
  unfold State.fnCommit
  repeat' first
    | with_reducible assumption
    | ((fail_if_no_progress extract_lets +onlyGivenNames t); refine (?_ : SameCsn a t → _) ?_; (on_goal 2 => unfold t); (on_goal 1 => (clear_value t; intro _)))
    | ((fail_if_no_progress extract_lets +onlyGivenNames t); refine (?_ : SameCsn2 a t → _) ?_; (on_goal 2 => unfold t); (on_goal 1 => (clear_value t; intro _)))
    | ((fail_if_no_progress extract_lets +onlyGivenNames t); refine (?_ : SameCsn1 a t → _) ?_; (on_goal 2 => unfold t); (on_goal 1 => (clear_value t; intro _)))
    | ((fail_if_no_progress extract_lets +onlyGivenNames t); subst t)
    | dsimp -zeta only
    | with_reducible apply SameCsn.ite
    | with_reducible apply State.sysWrite_csn
    | with_reducible apply State.aoAll_csn
    | with_reducible apply State.fnNormal_csn
    | with_reducible exact SameCsn1.out ‹_›
    | with_reducible apply SameCsn1.mk
    | with_reducible apply SameCsn1.ite
    | with_reducible refine SameCsn1.foldl ?_ (fun _ _ _ => ?_)
    | with_reducible refine SameCsn1.out ?_
    | with_reducible exact SameCsn2.out ‹_›
    | with_reducible apply SameCsn2.mk
    | with_reducible apply SameCsn2.ite
    | with_reducible refine SameCsn2.foldl ?_ (fun _ _ _ => ?_)
    | with_reducible refine SameCsn2.out ?_
    | with_reducible refine SameCsn.foldl ?_ (fun _ _ _ => ?_)
    | split

/-- State.fspSend keeps what every operation keeps. -/
theorem State.fspSend_csn {a s : State} {x1 x2 x3 x4 x5 x6 x7 x8} (h : SameCsn a s) : SameCsn a (State.fspSend s x1 x2 x3 x4 x5 x6 x7 x8) := by
  unfold State.fspSend
  repeat' first
    | with_reducible assumption
    | ((fail_if_no_progress extract_lets +onlyGivenNames t); refine (?_ : SameCsn a t → _) ?_; (on_goal 2 => unfold t); (on_goal 1 => (clear_value t; intro _)))
    | ((fail_if_no_progress extract_lets +onlyGivenNames t); subst t)
    | dsimp -zeta only
    | with_reducible apply SameCsn.ite
    | with_reducible apply State.emit_csn
    | split
    | fail_if_no_progress (with_reducible refine SameCsn.upd ?_ rfl)

/-- State.announce keeps what every operation keeps. -/
theorem State.announce_csn {a s : State} (h : SameCsn a s) : SameCsn a (State.announce s) := by
  unfold State.announce
  repeat' first
    | with_reducible assumption
    | dsimp -zeta only
    | with_reducible apply State.fspSend_csn

/-- State.dualWrite keeps what every operation keeps. -/
theorem State.dualWrite_csn {a s : State} {x1} (h : SameCsn a s) : SameCsn a (State.dualWrite s x1) := by
  unfold State.dualWrite
  repeat' first
    | with_reducible assumption
    | ((fail_if_no_progress extract_lets +onlyGivenNames t); refine (?_ : SameCsn a t → _) ?_; (on_goal 2 => unfold t); (on_goal 1 => (clear_value t; intro _)))
    | ((fail_if_no_progress extract_lets +onlyGivenNames t); refine (?_ : SameCsn2 a t → _) ?_; (on_goal 2 => unfold t); (on_goal 1 => (clear_value t; intro _)))
    | ((fail_if_no_progress extract_lets +onlyGivenNames t); refine (?_ : SameCsn1 a t → _) ?_; (on_goal 2 => unfold t); (on_goal 1 => (clear_value t; intro _)))
    | ((fail_if_no_progress extract_lets +onlyGivenNames t); subst t)
    | dsimp -zeta only
    | with_reducible apply SameCsn.ite
    | with_reducible apply State.bump_csn
    | with_reducible exact SameCsn1.out ‹_›
    | with_reducible apply SameCsn1.mk
    | with_reducible apply SameCsn1.ite
    | with_reducible refine SameCsn1.foldl ?_ (fun _ _ _ => ?_)
    | with_reducible refine SameCsn1.out ?_
    | with_reducible exact SameCsn2.out ‹_›
    | with_reducible apply SameCsn2.mk
    | with_reducible apply SameCsn2.ite
    | with_reducible refine SameCsn2.foldl ?_ (fun _ _ _ => ?_)
    | with_reducible refine SameCsn2.out ?_
    | with_reducible refine SameCsn.foldl ?_ (fun _ _ _ => ?_)
    | split

/-- State.setEpoch keeps what every operation keeps. -/
theorem State.setEpoch_csn {a s : State} {x1} (h : SameCsn a s) : SameCsn a (State.setEpoch s x1) := by
  unfold State.setEpoch
  repeat' first
    | with_reducible assumption
    | ((fail_if_no_progress extract_lets +onlyGivenNames t); refine (?_ : SameCsn a t → _) ?_; (on_goal 2 => unfold t); (on_goal 1 => (clear_value t; intro _)))
    | ((fail_if_no_progress extract_lets +onlyGivenNames t); subst t)
    | dsimp -zeta only
    | with_reducible apply State.setF_csn
    | fail_if_no_progress (with_reducible refine SameCsn.upd ?_ rfl)

/-- State.kerbPair keeps what every operation keeps. -/
theorem State.kerbPair_csn {a s : State} {x1} (h : SameCsn a s) : SameCsn a (State.kerbPair s x1) := by
  unfold State.kerbPair
  repeat' first
    | with_reducible assumption
    | ((fail_if_no_progress extract_lets +onlyGivenNames t); refine (?_ : SameCsn a t → _) ?_; (on_goal 2 => unfold t); (on_goal 1 => (clear_value t; intro _)))
    | ((fail_if_no_progress extract_lets +onlyGivenNames t); subst t)
    | dsimp -zeta only
    | with_reducible apply SameCsn.ite
    | with_reducible apply State.setF_csn
    | split
    | fail_if_no_progress (with_reducible refine SameCsn.upd ?_ rfl)

/-- State.enterPair keeps what every operation keeps. -/
theorem State.enterPair_csn {a s : State} {x1} (h : SameCsn a s) : SameCsn a (State.enterPair s x1) := by
  unfold State.enterPair
  repeat' first
    | with_reducible assumption
    | ((fail_if_no_progress extract_lets +onlyGivenNames t); refine (?_ : SameCsn a t → _) ?_; (on_goal 2 => unfold t); (on_goal 1 => (clear_value t; intro _)))
    | ((fail_if_no_progress extract_lets +onlyGivenNames t); subst t)
    | dsimp -zeta only
    | with_reducible apply SameCsn.ite
    | with_reducible apply State.setB_csn
    | with_reducible apply State.setF_csn
    | with_reducible apply State.outputsHold_csn
    | with_reducible apply State.kerbPair_csn
    | with_reducible apply State.evCfg_csn
    | with_reducible apply State.canClear_csn
    | split
    | fail_if_no_progress (with_reducible refine SameCsn.upd ?_ rfl)

/-- State.freshGrid keeps what every operation keeps. -/
theorem State.freshGrid_csn {a s : State} (h : SameCsn a s) : SameCsn a (State.freshGrid s) := by
  unfold State.freshGrid
  repeat' first
    | with_reducible assumption
    | ((fail_if_no_progress extract_lets +onlyGivenNames t); refine (?_ : SameCsn a t → _) ?_; (on_goal 2 => unfold t); (on_goal 1 => (clear_value t; intro _)))
    | ((fail_if_no_progress extract_lets +onlyGivenNames t); refine (?_ : SameCsn2 a t → _) ?_; (on_goal 2 => unfold t); (on_goal 1 => (clear_value t; intro _)))
    | ((fail_if_no_progress extract_lets +onlyGivenNames t); refine (?_ : SameCsn1 a t → _) ?_; (on_goal 2 => unfold t); (on_goal 1 => (clear_value t; intro _)))
    | ((fail_if_no_progress extract_lets +onlyGivenNames t); subst t)
    | dsimp -zeta only
    | with_reducible apply State.modTask_csn
    | with_reducible apply State.setF_csn
    | with_reducible exact SameCsn1.out ‹_›
    | with_reducible apply SameCsn1.mk
    | with_reducible refine SameCsn1.foldl ?_ (fun _ _ _ => ?_)
    | with_reducible refine SameCsn1.out ?_
    | with_reducible exact SameCsn2.out ‹_›
    | with_reducible apply SameCsn2.mk
    | with_reducible refine SameCsn2.foldl ?_ (fun _ _ _ => ?_)
    | with_reducible refine SameCsn2.out ?_
    | with_reducible refine SameCsn.foldl ?_ (fun _ _ _ => ?_)

/-- State.takeTasks keeps what every operation keeps. -/
theorem State.takeTasks_csn {a s : State} (h : SameCsn a s) : SameCsn a (State.takeTasks s) := by
  unfold State.takeTasks
  repeat' first
    | with_reducible assumption
    | ((fail_if_no_progress extract_lets +onlyGivenNames t); refine (?_ : SameCsn a t → _) ?_; (on_goal 2 => unfold t); (on_goal 1 => (clear_value t; intro _)))
    | ((fail_if_no_progress extract_lets +onlyGivenNames t); refine (?_ : SameCsn2 a t → _) ?_; (on_goal 2 => unfold t); (on_goal 1 => (clear_value t; intro _)))
    | ((fail_if_no_progress extract_lets +onlyGivenNames t); refine (?_ : SameCsn1 a t → _) ?_; (on_goal 2 => unfold t); (on_goal 1 => (clear_value t; intro _)))
    | ((fail_if_no_progress extract_lets +onlyGivenNames t); subst t)
    | dsimp -zeta only
    | with_reducible apply State.modTask_csn
    | with_reducible exact SameCsn1.out ‹_›
    | with_reducible apply SameCsn1.mk
    | with_reducible refine SameCsn1.foldl ?_ (fun _ _ _ => ?_)
    | with_reducible refine SameCsn1.out ?_
    | with_reducible exact SameCsn2.out ‹_›
    | with_reducible apply SameCsn2.mk
    | with_reducible refine SameCsn2.foldl ?_ (fun _ _ _ => ?_)
    | with_reducible refine SameCsn2.out ?_
    | with_reducible refine SameCsn.foldl ?_ (fun _ _ _ => ?_)
    | split

/-- State.soloAck keeps what every operation keeps. -/
theorem State.soloAck_csn {a s : State} (h : SameCsn a s) : SameCsn a (State.soloAck s) := by
  unfold State.soloAck
  repeat' first
    | with_reducible assumption
    | ((fail_if_no_progress extract_lets +onlyGivenNames t); refine (?_ : SameCsn a t → _) ?_; (on_goal 2 => unfold t); (on_goal 1 => (clear_value t; intro _)))
    | ((fail_if_no_progress extract_lets +onlyGivenNames t); subst t)
    | dsimp -zeta only
    | with_reducible apply State.hostAdvance_csn
    | with_reducible apply State.setAck_csn
    | fail_if_no_progress (with_reducible refine SameCsn.upd ?_ rfl)

/-- State.loosePlain keeps what every operation keeps. -/
theorem State.loosePlain_csn {a s : State} (h : SameCsn a s) : SameCsn a (State.loosePlain s) :=
  SameCsn.upd h rfl

/-- State.takeLead keeps what every operation keeps. -/
theorem State.takeLead_csn {a s : State} {x1 x2} (h : SameCsn a s) : SameCsn a (State.takeLead s x1 x2) := by
  unfold State.takeLead
  repeat' first
    | with_reducible assumption
    | ((fail_if_no_progress extract_lets +onlyGivenNames t); refine (?_ : SameCsn a t → _) ?_; (on_goal 2 => unfold t); (on_goal 1 => (clear_value t; intro _)))
    | ((fail_if_no_progress extract_lets +onlyGivenNames t); refine (?_ : SameCsn2 a t → _) ?_; (on_goal 2 => unfold t); (on_goal 1 => (clear_value t; intro _)))
    | ((fail_if_no_progress extract_lets +onlyGivenNames t); refine (?_ : SameCsn1 a t → _) ?_; (on_goal 2 => unfold t); (on_goal 1 => (clear_value t; intro _)))
    | ((fail_if_no_progress extract_lets +onlyGivenNames t); subst t)
    | dsimp -zeta only
    | with_reducible apply SameCsn.ite
    | with_reducible apply State.setEpoch_csn
    | with_reducible apply State.announce_csn
    | with_reducible apply State.setF_csn
    | with_reducible apply State.bump_csn
    | with_reducible apply State.enterPair_csn
    | with_reducible apply State.freshGrid_csn
    | with_reducible apply State.breakCuts_csn
    | with_reducible apply State.loosePlain_csn
    | with_reducible apply State.takeTasks_csn
    | with_reducible apply State.evHw_csn
    | with_reducible apply State.soloAck_csn
    | with_reducible apply State.hostAdvance_csn
    | with_reducible exact SameCsn1.out ‹_›
    | with_reducible apply SameCsn1.mk
    | with_reducible apply SameCsn1.ite
    | with_reducible refine SameCsn1.foldl ?_ (fun _ _ _ => ?_)
    | with_reducible refine SameCsn1.out ?_
    | with_reducible exact SameCsn2.out ‹_›
    | with_reducible apply SameCsn2.mk
    | with_reducible apply SameCsn2.ite
    | with_reducible refine SameCsn2.foldl ?_ (fun _ _ _ => ?_)
    | with_reducible refine SameCsn2.out ?_
    | with_reducible refine SameCsn.foldl ?_ (fun _ _ _ => ?_)
    | split
    | fail_if_no_progress (with_reducible refine SameCsn.upd ?_ rfl)

/-- State.outputFrames keeps what every operation keeps. -/
theorem State.outputFrames_csn {a s : State} {x1 x2 x3 x4} (h : SameCsn a s) : SameCsn a (State.outputFrames s x1 x2 x3 x4) := by
  unfold State.outputFrames
  repeat' first
    | with_reducible assumption
    | ((fail_if_no_progress extract_lets +onlyGivenNames t); refine (?_ : SameCsn a t → _) ?_; (on_goal 2 => unfold t); (on_goal 1 => (clear_value t; intro _)))
    | ((fail_if_no_progress extract_lets +onlyGivenNames t); refine (?_ : SameCsn2 a t → _) ?_; (on_goal 2 => unfold t); (on_goal 1 => (clear_value t; intro _)))
    | ((fail_if_no_progress extract_lets +onlyGivenNames t); refine (?_ : SameCsn1 a t → _) ?_; (on_goal 2 => unfold t); (on_goal 1 => (clear_value t; intro _)))
    | ((fail_if_no_progress extract_lets +onlyGivenNames t); subst t)
    | dsimp -zeta only
    | with_reducible apply SameCsn.ite
    | with_reducible refine State.byEngines_csn ?_ (fun _ _ => ?_)
    | with_reducible apply State.fspSend_csn
    | with_reducible exact SameCsn1.out ‹_›
    | with_reducible apply SameCsn1.mk
    | with_reducible apply SameCsn1.ite
    | with_reducible refine SameCsn1.foldl ?_ (fun _ _ _ => ?_)
    | with_reducible refine SameCsn1.out ?_
    | with_reducible exact SameCsn2.out ‹_›
    | with_reducible apply SameCsn2.mk
    | with_reducible apply SameCsn2.ite
    | with_reducible refine SameCsn2.foldl ?_ (fun _ _ _ => ?_)
    | with_reducible refine SameCsn2.out ?_
    | with_reducible refine SameCsn.foldl ?_ (fun _ _ _ => ?_)
    | split
    | fail_if_no_progress (with_reducible refine SameCsn.upd ?_ rfl)

/-- State.peerFrames keeps what every operation keeps. -/
theorem State.peerFrames_csn {a s : State} {x1 x2} (h : SameCsn a s) : SameCsn a (State.peerFrames s x1 x2) := by
  unfold State.peerFrames
  repeat' first
    | with_reducible assumption
    | dsimp -zeta only
    | with_reducible apply SameCsn.ite
    | with_reducible refine State.byEngines_csn ?_ (fun _ _ => ?_)
    | with_reducible apply State.fspSend_csn
    | with_reducible exact SameCsn1.out ‹_›
    | with_reducible apply SameCsn1.mk
    | with_reducible apply SameCsn1.ite
    | with_reducible refine SameCsn1.foldl ?_ (fun _ _ _ => ?_)
    | with_reducible refine SameCsn1.out ?_
    | with_reducible exact SameCsn2.out ‹_›
    | with_reducible apply SameCsn2.mk
    | with_reducible apply SameCsn2.ite
    | with_reducible refine SameCsn2.foldl ?_ (fun _ _ _ => ?_)
    | with_reducible refine SameCsn2.out ?_
    | with_reducible refine SameCsn.foldl ?_ (fun _ _ _ => ?_)
    | split

/-- State.modConn keeps what every operation keeps. -/
theorem State.modConn_csn {a s : State} {x1 x2} (h : SameCsn a s) : SameCsn a (State.modConn s x1 x2) := by
  unfold State.modConn
  repeat' first
    | with_reducible assumption
    | ((fail_if_no_progress extract_lets +onlyGivenNames t); refine (?_ : SameCsn a t → _) ?_; (on_goal 2 => unfold t); (on_goal 1 => (clear_value t; intro _)))
    | ((fail_if_no_progress extract_lets +onlyGivenNames t); subst t)
    | dsimp -zeta only
    | fail_if_no_progress (with_reducible refine SameCsn.upd ?_ rfl)

/-- State.connAck keeps what every operation keeps. -/
theorem State.connAck_csn {a s : State} {x1} (h : SameCsn a s) : SameCsn a (State.connAck s x1) := by
  unfold State.connAck
  repeat' first
    | with_reducible assumption
    | ((fail_if_no_progress extract_lets +onlyGivenNames t); refine (?_ : SameCsn a t → _) ?_; (on_goal 2 => unfold t); (on_goal 1 => (clear_value t; intro _)))
    | ((fail_if_no_progress extract_lets +onlyGivenNames t); subst t)
    | dsimp -zeta only
    | with_reducible apply SameCsn.ite
    | with_reducible apply State.modConn_csn
    | split

/-- State.fslCommit keeps what every operation keeps. -/
theorem State.fslCommit_csn {a s : State} {x1 x2 x3 x4 x5} (h : SameCsn a s) : SameCsn a (State.fslCommit s x1 x2 x3 x4 x5) := by
  unfold State.fslCommit
  repeat' first
    | with_reducible assumption
    | ((fail_if_no_progress extract_lets +onlyGivenNames t); refine (?_ : SameCsn a t → _) ?_; (on_goal 2 => unfold t); (on_goal 1 => (clear_value t; intro _)))
    | ((fail_if_no_progress extract_lets +onlyGivenNames t); refine (?_ : SameCsn2 a t → _) ?_; (on_goal 2 => unfold t); (on_goal 1 => (clear_value t; intro _)))
    | ((fail_if_no_progress extract_lets +onlyGivenNames t); refine (?_ : SameCsn1 a t → _) ?_; (on_goal 2 => unfold t); (on_goal 1 => (clear_value t; intro _)))
    | ((fail_if_no_progress extract_lets +onlyGivenNames t); subst t)
    | dsimp -zeta only
    | with_reducible apply SameCsn.ite
    | with_reducible apply State.connAck_csn
    | with_reducible apply State.fspSend_csn
    | with_reducible apply State.emit_csn
    | with_reducible exact SameCsn1.out ‹_›
    | with_reducible apply SameCsn1.mk
    | with_reducible apply SameCsn1.ite
    | with_reducible refine SameCsn1.foldl ?_ (fun _ _ _ => ?_)
    | with_reducible refine SameCsn1.out ?_
    | with_reducible exact SameCsn2.out ‹_›
    | with_reducible apply SameCsn2.mk
    | with_reducible apply SameCsn2.ite
    | with_reducible refine SameCsn2.foldl ?_ (fun _ _ _ => ?_)
    | with_reducible refine SameCsn2.out ?_
    | with_reducible refine SameCsn.foldl ?_ (fun _ _ _ => ?_)
    | split

/-- State.histTake keeps what every operation keeps. -/
theorem State.histTake_csn {a s : State} {x1 x2 x3 x4} (h : SameCsn a s) : SameCsn2 a (State.histTake s x1 x2 x3 x4) := by
  unfold State.histTake
  repeat' first
    | with_reducible assumption
    | ((fail_if_no_progress extract_lets +onlyGivenNames t); refine (?_ : SameCsn a t → _) ?_; (on_goal 2 => unfold t); (on_goal 1 => (clear_value t; intro _)))
    | ((fail_if_no_progress extract_lets +onlyGivenNames t); refine (?_ : SameCsn2 a t → _) ?_; (on_goal 2 => unfold t); (on_goal 1 => (clear_value t; intro _)))
    | ((fail_if_no_progress extract_lets +onlyGivenNames t); refine (?_ : SameCsn1 a t → _) ?_; (on_goal 2 => unfold t); (on_goal 1 => (clear_value t; intro _)))
    | ((fail_if_no_progress extract_lets +onlyGivenNames t); subst t)
    | dsimp -zeta only
    | with_reducible apply SameCsn.ite
    | with_reducible exact SameCsn2.out ‹_›
    | with_reducible apply SameCsn2.mk
    | with_reducible apply SameCsn2.ite
    | with_reducible refine SameCsn2.foldl ?_ (fun _ _ _ => ?_)
    | with_reducible refine SameCsn2.out ?_
    | with_reducible refine SameCsn.foldl ?_ (fun _ _ _ => ?_)
    | split
    | fail_if_no_progress (with_reducible refine SameCsn.upd ?_ rfl)

/-- State.sendPacket keeps what every operation keeps. -/
theorem State.sendPacket_csn {a s : State} {x1 x2 x3 x4 x5 x6 x7 x8 x9} (h : SameCsn a s) : SameCsn a (State.sendPacket s x1 x2 x3 x4 x5 x6 x7 x8 x9) := by
  unfold State.sendPacket
  repeat' first
    | with_reducible assumption
    | ((fail_if_no_progress extract_lets +onlyGivenNames t); refine (?_ : SameCsn a t → _) ?_; (on_goal 2 => unfold t); (on_goal 1 => (clear_value t; intro _)))
    | ((fail_if_no_progress extract_lets +onlyGivenNames t); subst t)
    | dsimp -zeta only
    | with_reducible apply State.emit_csn
    | fail_if_no_progress (with_reducible refine SameCsn.upd ?_ rfl)

/-- State.takeSetup keeps what every operation keeps. -/
theorem State.takeSetup_csn {a s : State} (h : SameCsn a s) : SameCsn2 a (State.takeSetup s) := by
  unfold State.takeSetup
  repeat' first
    | with_reducible assumption
    | ((fail_if_no_progress extract_lets +onlyGivenNames t); refine (?_ : SameCsn a t → _) ?_; (on_goal 2 => unfold t); (on_goal 1 => (clear_value t; intro _)))
    | ((fail_if_no_progress extract_lets +onlyGivenNames t); subst t)
    | dsimp -zeta only
    | with_reducible apply SameCsn.ite
    | with_reducible apply State.carriedOut_csn
    | with_reducible exact SameCsn2.out ‹_›
    | with_reducible apply SameCsn2.mk
    | with_reducible apply SameCsn2.ite
    | split
    | fail_if_no_progress (with_reducible refine SameCsn.upd ?_ rfl)

/-- State.driveOne keeps what every operation keeps. -/
theorem State.driveOne_csn {a s : State} {x1 x2} (h : SameCsn a s) : SameCsn a (State.driveOne s x1 x2) := by
  unfold State.driveOne
  repeat' first
    | with_reducible assumption
    | dsimp -zeta only
    | with_reducible apply SameCsn.ite
    | with_reducible apply State.dioCommit_csn
    | with_reducible apply State.aoCommit_csn
    | split

/-- State.driveOwn keeps what every operation keeps. -/
theorem State.driveOwn_csn {a s : State} {x1} (h : SameCsn a s) : SameCsn a (State.driveOwn s x1) := by
  unfold State.driveOwn
  repeat' first
    | with_reducible assumption
    | dsimp -zeta only
    | with_reducible apply State.driveOne_csn
    | with_reducible exact SameCsn1.out ‹_›
    | with_reducible apply SameCsn1.mk
    | with_reducible refine SameCsn1.foldl ?_ (fun _ _ _ => ?_)
    | with_reducible refine SameCsn1.out ?_
    | with_reducible exact SameCsn2.out ‹_›
    | with_reducible apply SameCsn2.mk
    | with_reducible refine SameCsn2.foldl ?_ (fun _ _ _ => ?_)
    | with_reducible refine SameCsn2.out ?_
    | with_reducible refine SameCsn.foldl ?_ (fun _ _ _ => ?_)

/-- State.driveCommit keeps what every operation keeps. -/
theorem State.driveCommit_csn {a s : State} {x1 x2 x3} (h : SameCsn a s) : SameCsn a (State.driveCommit s x1 x2 x3) := by
  unfold State.driveCommit
  repeat' first
    | with_reducible assumption
    | ((fail_if_no_progress extract_lets +onlyGivenNames t); refine (?_ : SameCsn a t → _) ?_; (on_goal 2 => unfold t); (on_goal 1 => (clear_value t; intro _)))
    | ((fail_if_no_progress extract_lets +onlyGivenNames t); subst t)
    | dsimp -zeta only
    | with_reducible apply SameCsn.ite
    | with_reducible apply State.modTask_csn
    | with_reducible apply State.driveOwn_csn
    | with_reducible apply State.outputFrames_csn
    | with_reducible apply State.peerFrames_csn
    | with_reducible apply State.fslCommit_csn
    | with_reducible apply State.canCommit_csn
    | split

/-- State.cyclePacket keeps what every operation keeps. -/
theorem State.cyclePacket_csn {a s : State} {x1 x2 x3 x4 x5 x6 x7 x8} (h : SameCsn a s) : SameCsn a (State.cyclePacket s x1 x2 x3 x4 x5 x6 x7 x8) := by
  unfold State.cyclePacket
  repeat' first
    | with_reducible assumption
    | ((fail_if_no_progress extract_lets +onlyGivenNames t); refine (?_ : SameCsn a t → _) ?_; (on_goal 2 => unfold t); (on_goal 1 => (clear_value t; intro _)))
    | ((fail_if_no_progress extract_lets +onlyGivenNames t); refine (?_ : SameCsn2 a t → _) ?_; (on_goal 2 => unfold t); (on_goal 1 => (clear_value t; intro _)))
    | ((fail_if_no_progress extract_lets +onlyGivenNames t); subst t)
    | dsimp -zeta only
    | with_reducible apply SameCsn.ite
    | with_reducible refine State.byEngines_csn ?_ (fun _ _ => ?_)
    | with_reducible apply State.takeSetup_csn
    | with_reducible refine SameCsn2.out (State.takeSetup_csn ?_)
    | with_reducible apply State.sendPacket_csn
    | with_reducible exact SameCsn2.out ‹_›
    | with_reducible apply SameCsn2.mk
    | with_reducible apply SameCsn2.ite
    | split
    | fail_if_no_progress (with_reducible refine SameCsn.upd ?_ rfl)

/-- State.commitTail keeps what every operation keeps. -/
theorem State.commitTail_csn {a s : State} {x1 x2 x3 x4} (h : SameCsn a s) : SameCsn a (State.commitTail s x1 x2 x3 x4) := by
  unfold State.commitTail
  repeat' first
    | with_reducible assumption
    | ((fail_if_no_progress extract_lets +onlyGivenNames t); refine (?_ : SameCsn a t → _) ?_; (on_goal 2 => unfold t); (on_goal 1 => (clear_value t; intro _)))
    | ((fail_if_no_progress extract_lets +onlyGivenNames t); refine (?_ : SameCsn2 a t → _) ?_; (on_goal 2 => unfold t); (on_goal 1 => (clear_value t; intro _)))
    | ((fail_if_no_progress extract_lets +onlyGivenNames t); refine (?_ : SameCsn1 a t → _) ?_; (on_goal 2 => unfold t); (on_goal 1 => (clear_value t; intro _)))
    | ((fail_if_no_progress extract_lets +onlyGivenNames t); subst t)
    | dsimp -zeta only
    | with_reducible apply SameCsn.ite
    | with_reducible apply State.histTake_csn
    | with_reducible refine SameCsn2.out (State.histTake_csn ?_)
    | with_reducible apply State.arcCommit_csn
    | with_reducible apply State.event_csn
    | with_reducible apply State.cyclePacket_csn
    | with_reducible apply State.driveCommit_csn
    | with_reducible apply State.ask_csn
    | with_reducible apply State.canHandOver_csn
    | with_reducible apply State.fnCommit_csn
    | with_reducible apply State.identify_csn
    | with_reducible apply State.subsCommit_csn
    | with_reducible apply State.setAck_csn
    | with_reducible apply State.hostAdvance_csn
    | with_reducible exact SameCsn2.out ‹_›
    | with_reducible apply SameCsn2.mk
    | with_reducible apply SameCsn2.ite
    | with_reducible refine SameCsn2.foldl ?_ (fun _ _ _ => ?_)
    | with_reducible refine SameCsn2.out ?_
    | with_reducible refine SameCsn.foldl ?_ (fun _ _ _ => ?_)
    | split
    | with_reducible refine SameCsn.of2 ‹_› ?_
    | fail_if_no_progress (with_reducible refine SameCsn.upd ?_ rfl)

/-- State.endOld keeps what every operation keeps. -/
theorem State.endOld_csn {a s : State} {x1} (h : SameCsn a s) : SameCsn a (State.endOld s x1) := by
  unfold State.endOld
  repeat' first
    | with_reducible assumption
    | ((fail_if_no_progress extract_lets +onlyGivenNames t); refine (?_ : SameCsn a t → _) ?_; (on_goal 2 => unfold t); (on_goal 1 => (clear_value t; intro _)))
    | ((fail_if_no_progress extract_lets +onlyGivenNames t); subst t)
    | dsimp -zeta only
    | with_reducible apply SameCsn.ite
    | with_reducible apply State.modTask_csn
    | with_reducible apply State.setF_csn
    | split

/-- State.endCycle keeps what every operation keeps. -/
theorem State.endCycle_csn {a s : State} {x1 x2} (h : SameCsn a s) : SameCsn a (State.endCycle s x1 x2) := by
  unfold State.endCycle
  repeat' first
    | with_reducible assumption
    | ((fail_if_no_progress extract_lets +onlyGivenNames t); refine (?_ : SameCsn a t → _) ?_; (on_goal 2 => unfold t); (on_goal 1 => (clear_value t; intro _)))
    | ((fail_if_no_progress extract_lets +onlyGivenNames t); subst t)
    | dsimp -zeta only
    | with_reducible apply SameCsn.ite
    | with_reducible apply State.endOld_csn
    | with_reducible apply State.delRun_csn
    | with_reducible apply State.setF_csn
    | with_reducible apply State.modTask_csn
    | split

/-- State.specArm keeps what every operation keeps. -/
theorem State.specArm_csn {a s : State} {x1} (h : SameCsn a s) : SameCsn a (State.specArm s x1) := by
  unfold State.specArm
  repeat' first
    | with_reducible assumption
    | dsimp -zeta only
    | with_reducible apply SameCsn.ite
    | with_reducible apply State.specState_csn
    | split

/-- State.stageRetained keeps what every operation keeps. -/
theorem State.stageRetained_csn {a s : State} {x1} (h : SameCsn a s) : SameCsn a (State.stageRetained s x1) := by
  unfold State.stageRetained
  repeat' first
    | with_reducible assumption
    | ((fail_if_no_progress extract_lets +onlyGivenNames t); refine (?_ : SameCsn a t → _) ?_; (on_goal 2 => unfold t); (on_goal 1 => (clear_value t; intro _)))
    | ((fail_if_no_progress extract_lets +onlyGivenNames t); refine (?_ : SameCsn2 a t → _) ?_; (on_goal 2 => unfold t); (on_goal 1 => (clear_value t; intro _)))
    | ((fail_if_no_progress extract_lets +onlyGivenNames t); refine (?_ : SameCsn1 a t → _) ?_; (on_goal 2 => unfold t); (on_goal 1 => (clear_value t; intro _)))
    | ((fail_if_no_progress extract_lets +onlyGivenNames t); subst t)
    | dsimp -zeta only
    | with_reducible apply SameCsn.ite
    | with_reducible exact SameCsn1.out ‹_›
    | with_reducible apply SameCsn1.mk
    | with_reducible apply SameCsn1.ite
    | with_reducible refine SameCsn1.foldl ?_ (fun _ _ _ => ?_)
    | with_reducible refine SameCsn1.out ?_
    | with_reducible exact SameCsn2.out ‹_›
    | with_reducible apply SameCsn2.mk
    | with_reducible apply SameCsn2.ite
    | with_reducible refine SameCsn2.foldl ?_ (fun _ _ _ => ?_)
    | with_reducible refine SameCsn2.out ?_
    | with_reducible refine SameCsn.foldl ?_ (fun _ _ _ => ?_)
    | split
    | fail_if_no_progress (with_reducible refine SameCsn.upd ?_ rfl)

/-- State.tryHandover keeps what every operation keeps. -/
theorem State.tryHandover_csn {a s : State} (h : SameCsn a s) : SameCsn a (State.tryHandover s) := by
  unfold State.tryHandover
  repeat' first
    | with_reducible assumption
    | ((fail_if_no_progress extract_lets +onlyGivenNames t); refine (?_ : SameCsn a t → _) ?_; (on_goal 2 => unfold t); (on_goal 1 => (clear_value t; intro _)))
    | ((fail_if_no_progress extract_lets +onlyGivenNames t); subst t)
    | dsimp -zeta only
    | with_reducible apply SameCsn.ite
    | with_reducible apply State.takeLead_csn
    | split
    | fail_if_no_progress (with_reducible refine SameCsn.upd ?_ rfl)

/-- State.startAudit keeps what every operation keeps. -/
theorem State.startAudit_csn {a s : State} {x1} (h : SameCsn a s) : SameCsn a (State.startAudit s x1) := by
  unfold State.startAudit
  repeat' first
    | with_reducible assumption
    | ((fail_if_no_progress extract_lets +onlyGivenNames t); refine (?_ : SameCsn a t → _) ?_; (on_goal 2 => unfold t); (on_goal 1 => (clear_value t; intro _)))
    | ((fail_if_no_progress extract_lets +onlyGivenNames t); refine (?_ : SameCsn2 a t → _) ?_; (on_goal 2 => unfold t); (on_goal 1 => (clear_value t; intro _)))
    | ((fail_if_no_progress extract_lets +onlyGivenNames t); refine (?_ : SameCsn1 a t → _) ?_; (on_goal 2 => unfold t); (on_goal 1 => (clear_value t; intro _)))
    | ((fail_if_no_progress extract_lets +onlyGivenNames t); subst t)
    | dsimp -zeta only
    | with_reducible apply SameCsn.ite
    | with_reducible apply State.bump_csn
    | with_reducible apply State.putRun_csn
    | with_reducible exact SameCsn1.out ‹_›
    | with_reducible apply SameCsn1.mk
    | with_reducible apply SameCsn1.ite
    | with_reducible refine SameCsn1.foldl ?_ (fun _ _ _ => ?_)
    | with_reducible refine SameCsn1.out ?_
    | with_reducible exact SameCsn2.out ‹_›
    | with_reducible apply SameCsn2.mk
    | with_reducible apply SameCsn2.ite
    | with_reducible refine SameCsn2.foldl ?_ (fun _ _ _ => ?_)
    | with_reducible refine SameCsn2.out ?_
    | with_reducible refine SameCsn.foldl ?_ (fun _ _ _ => ?_)
    | split
    | fail_if_no_progress (with_reducible refine SameCsn.upd ?_ rfl)

/-- State.seatOut keeps what every operation keeps. -/
theorem State.seatOut_csn {a s : State} {x1} (h : SameCsn a s) : SameCsn a (State.seatOut s x1) := by
  unfold State.seatOut
  repeat' first
    | with_reducible assumption
    | ((fail_if_no_progress extract_lets +onlyGivenNames t); refine (?_ : SameCsn a t → _) ?_; (on_goal 2 => unfold t); (on_goal 1 => (clear_value t; intro _)))
    | ((fail_if_no_progress extract_lets +onlyGivenNames t); refine (?_ : SameCsn2 a t → _) ?_; (on_goal 2 => unfold t); (on_goal 1 => (clear_value t; intro _)))
    | ((fail_if_no_progress extract_lets +onlyGivenNames t); refine (?_ : SameCsn1 a t → _) ?_; (on_goal 2 => unfold t); (on_goal 1 => (clear_value t; intro _)))
    | ((fail_if_no_progress extract_lets +onlyGivenNames t); subst t)
    | dsimp -zeta only
    | with_reducible apply State.outputsHold_csn
    | with_reducible apply State.driveOne_csn
    | with_reducible apply State.canCommit_csn
    | with_reducible exact SameCsn1.out ‹_›
    | with_reducible apply SameCsn1.mk
    | with_reducible refine SameCsn1.foldl ?_ (fun _ _ _ => ?_)
    | with_reducible refine SameCsn1.out ?_
    | with_reducible exact SameCsn2.out ‹_›
    | with_reducible apply SameCsn2.mk
    | with_reducible refine SameCsn2.foldl ?_ (fun _ _ _ => ?_)
    | with_reducible refine SameCsn2.out ?_
    | with_reducible refine SameCsn.foldl ?_ (fun _ _ _ => ?_)

/-- State.heard keeps what every operation keeps. -/
theorem State.heard_csn {a s : State} {x1} (h : SameCsn a s) : SameCsn a (State.heard s x1) := by
  unfold State.heard
  repeat' first
    | with_reducible assumption
    | ((fail_if_no_progress extract_lets +onlyGivenNames t); refine (?_ : SameCsn a t → _) ?_; (on_goal 2 => unfold t); (on_goal 1 => (clear_value t; intro _)))
    | ((fail_if_no_progress extract_lets +onlyGivenNames t); subst t)
    | dsimp -zeta only
    | with_reducible apply SameCsn.ite
    | with_reducible apply State.enterPair_csn
    | split
    | fail_if_no_progress (with_reducible refine SameCsn.upd ?_ rfl)

/-- State.mirrorXcp keeps what every operation keeps. -/
theorem State.mirrorXcp_csn {a s : State} {x1 x2} (h : SameCsn a s) : SameCsn a (State.mirrorXcp s x1 x2) := by
  unfold State.mirrorXcp
  repeat' first
    | with_reducible assumption
    | ((fail_if_no_progress extract_lets +onlyGivenNames t); refine (?_ : SameCsn a t → _) ?_; (on_goal 2 => unfold t); (on_goal 1 => (clear_value t; intro _)))
    | ((fail_if_no_progress extract_lets +onlyGivenNames t); subst t)
    | dsimp -zeta only
    | with_reducible apply SameCsn.ite
    | with_reducible apply State.setB_csn
    | with_reducible apply State.modTask_csn
    | split

/-- State.pktKeep keeps what every operation keeps. -/
theorem State.pktKeep_csn {a s : State} {x1 x2} (h : SameCsn a s) : SameCsn a (State.pktKeep s x1 x2) := by
  unfold State.pktKeep
  repeat' first
    | with_reducible assumption
    | ((fail_if_no_progress extract_lets +onlyGivenNames t); refine (?_ : SameCsn a t → _) ?_; (on_goal 2 => unfold t); (on_goal 1 => (clear_value t; intro _)))
    | ((fail_if_no_progress extract_lets +onlyGivenNames t); refine (?_ : SameCsn2 a t → _) ?_; (on_goal 2 => unfold t); (on_goal 1 => (clear_value t; intro _)))
    | ((fail_if_no_progress extract_lets +onlyGivenNames t); refine (?_ : SameCsn1 a t → _) ?_; (on_goal 2 => unfold t); (on_goal 1 => (clear_value t; intro _)))
    | ((fail_if_no_progress extract_lets +onlyGivenNames t); subst t)
    | dsimp -zeta only
    | with_reducible apply SameCsn.ite
    | with_reducible apply State.modTask_csn
    | with_reducible apply State.mirrorXcp_csn
    | with_reducible apply State.event_csn
    | with_reducible apply State.stageRetained_csn
    | with_reducible apply State.canHandOver_csn
    | with_reducible apply State.identify_csn
    | with_reducible exact SameCsn1.out ‹_›
    | with_reducible apply SameCsn1.mk
    | with_reducible apply SameCsn1.ite
    | with_reducible refine SameCsn1.foldl ?_ (fun _ _ _ => ?_)
    | with_reducible refine SameCsn1.out ?_
    | with_reducible exact SameCsn2.out ‹_›
    | with_reducible apply SameCsn2.mk
    | with_reducible apply SameCsn2.ite
    | with_reducible refine SameCsn2.foldl ?_ (fun _ _ _ => ?_)
    | with_reducible refine SameCsn2.out ?_
    | with_reducible refine SameCsn.foldl ?_ (fun _ _ _ => ?_)
    | split
    | fail_if_no_progress (with_reducible refine SameCsn.upd ?_ rfl)

/-- State.pktReact keeps what every operation keeps. -/
theorem State.pktReact_csn {a s : State} {x1} (h : SameCsn a s) : SameCsn a (State.pktReact s x1) := by
  unfold State.pktReact
  repeat' first
    | with_reducible assumption
    | ((fail_if_no_progress extract_lets +onlyGivenNames t); refine (?_ : SameCsn a t → _) ?_; (on_goal 2 => unfold t); (on_goal 1 => (clear_value t; intro _)))
    | ((fail_if_no_progress extract_lets +onlyGivenNames t); subst t)
    | dsimp -zeta only
    | with_reducible apply SameCsn.ite
    | with_reducible apply State.seatOut_csn
    | with_reducible apply State.subsCommit_csn
    | with_reducible apply State.hostAdvance_csn
    | with_reducible apply State.setAck_csn
    | with_reducible apply State.sendPacket_csn
    | with_reducible apply State.heard_csn
    | with_reducible apply State.enterPair_csn
    | with_reducible apply State.startAudit_csn
    | with_reducible apply State.tryHandover_csn
    | split
    | fail_if_no_progress (with_reducible refine SameCsn.upd ?_ rfl)

/-- A commit's number: its own is the newest, once the commit is done (R173). -/
theorem State.commitCore_csn (s : State) (i : CommitInfo) (arb : List (Fin 8 × Nat)) : (s.commitCore i arb).sq.csn = s.commitCsn := by
  unfold State.commitCore
  exact ((State.commitTail_csn (State.dualWrite_csn (SameCsn.refl _))).csn).trans rfl

end Sys2Proof.Machine
end

