-- ==== Sys2Proof/Laws/KeepsFields.lean ====
section
/-! SUPPORT. What the operations behind a change of role leave of the registers: a field that stands apart from the few they set reads as before. -/
namespace Sys2Proof.Machine
set_option Elab.async false

/-- The fields that those operations set. -/
def sideFields : List Fld :=
  [ACU_FLTHI_ADDR, ACU_FLTHI_MASTER, ACU_FLTHI_VALID, ACU_FLTHI_WRITE, ACU_FLTLO_ADDR, HQE_LOCKSTAT_BROKENCNT, HQE_LOCKSTAT_HELD, KRB_STAT_PARTNERNEW, PAR_JOINSTAT_BFGAP, PAR_JOINSTAT_PHASE, PAR_WITSTAT_GRANTS, SCH_CFGSTAT_CHECKED, SCH_COALSTAT_OPEN, SCH_COALSTAT_OVFCNT, SCH_OLCSTAT_ABNCNT, SCH_OLCSTAT_ACTSTORE, SCH_OLCSTAT_MIGCNT, SCH_OLCSTAT_STEP, SCH_TASKSTAT_CATCHUP, SCH_TASKSTAT_LAGTICKS, SQR_ECCADDRHI_ADDR, SQR_ECCADDRLO_ADDR, SQR_ECCSTAT_CECNT, SQR_ECCSTAT_PMAPERR, SQR_ECCSTAT_SPAREOUT, SQR_ECCSTAT_STACK, SQR_ECCSTAT_UECNT, SQR_WALKERR_REASON, SQR_WALKERR_VALID, SQR_WALKTAG_TAG]

/-- A field stands apart from them all. -/
def Apart (g : Fld) : Prop := ∀ f ∈ sideFields, f.off * 32 + f.lo ≠ g.off * 32 + g.lo

/-- The field reads as before, and the register file keeps its form. -/
structure SameG (g : Fld) (a b : State) : Prop where
  apart : Apart g
  ok : a.RegsOk → b.RegsOk
  get : a.RegsOk → b.getF g = a.getF g

/-- Nothing done. -/
theorem SameG.refl {g : Fld} (hg : Apart g) (a : State) : SameG g a a := ⟨hg, id, fun _ => rfl⟩

/-- A change of other fields. -/
theorem SameG.upd {g : Fld} {a b : State} {pe re du ou fr no ti sq sc la pk ar wi io ca pa pl ho ke im ol se} (h : SameG g a b) (h5 : re = b.regs) :
    SameG g a (State.mk pe re du ou fr no ti sq sc la pk ar wi io ca pa pl ho ke im ol se) :=
  ⟨h.apart, fun k => by show tabRising re = true; rw [h5]; exact h.ok k, fun k => (getF_same (s := b) h5).trans (h.get k)⟩

/-- Either branch. -/
theorem SameG.ite {g : Fld} {a x y : State} {c : Prop} [Decidable c] (hx : SameG g a x) (hy : SameG g a y) : SameG g a (if c then x else y) := by
  split <;> assumption

/-- The second part of a pair keeps it. -/
def SameG2 {β : Type} (g : Fld) (a : State) (p : β × State) : Prop := SameG g a p.2
/-- The first part of a pair keeps it. -/
def SameG1 {β : Type} (g : Fld) (a : State) (p : State × β) : Prop := SameG g a p.1
/-- A pair with a state that keeps it. -/
theorem SameG2.mk {g : Fld} {a s : State} {β : Type} {x : β} (h : SameG g a s) : SameG2 g a (x, s) := h
/-- The same with the state in front. -/
theorem SameG1.mk {g : Fld} {a s : State} {β : Type} {x : β} (h : SameG g a s) : SameG1 g a (s, x) := h
/-- The state of such a pair. -/
theorem SameG2.out {g : Fld} {a : State} {β : Type} {p : β × State} (h : SameG2 g a p) : SameG g a p.2 := h
/-- The same with the state in front. -/
theorem SameG1.out {g : Fld} {a : State} {β : Type} {p : State × β} (h : SameG1 g a p) : SameG g a p.1 := h
/-- Either branch of a pair. -/
theorem SameG2.ite {g : Fld} {a : State} {β : Type} {x y : β × State} {c : Prop} [Decidable c] (hx : SameG2 g a x) (hy : SameG2 g a y) :
    SameG2 g a (if c then x else y) := by
  split <;> assumption
/-- The same of the first part. -/
theorem SameG1.ite {g : Fld} {a : State} {β : Type} {x y : State × β} {c : Prop} [Decidable c] (hx : SameG1 g a x) (hy : SameG1 g a y) :
    SameG1 g a (if c then x else y) := by
  split <;> assumption

/-- An operation repeated over a list. -/
theorem SameG.foldl {g : Fld} {a s : State} {β : Type} {f : State → β → State} {l : List β} (h : SameG g a s) (hf : ∀ s x, SameG g a s → SameG g a (f s x)) :
    SameG g a (l.foldl f s) := by
  induction l generalizing s with
  | nil => exact h
  | cons x l ih => exact ih (hf s x h)

/-- The same where the list's items are gathered beside the state. -/
theorem SameG2.foldl {g : Fld} {a : State} {β γ : Type} {f : γ × State → β → γ × State} {l : List β} {p : γ × State} (h : SameG2 g a p)
    (hf : ∀ p x, SameG2 g a p → SameG2 g a (f p x)) : SameG2 g a (l.foldl f p) := by
  induction l generalizing p with
  | nil => exact h
  | cons x l ih => exact ih (hf p x h)

/-- The same with the state in front. -/
theorem SameG1.foldl {g : Fld} {a : State} {β γ : Type} {f : State × γ → β → State × γ} {l : List β} {p : State × γ} (h : SameG1 g a p)
    (hf : ∀ p x, SameG1 g a p → SameG1 g a (f p x)) : SameG1 g a (l.foldl f p) := by
  induction l generalizing p with
  | nil => exact h
  | cons x l ih => exact ih (hf p x h)

/-- The state of a pair that has been taken apart. -/
theorem SameG.of2 {g : Fld} {a s : State} {β : Type} {p : β × State} {x : β} (e : p = (x, s)) (h : SameG2 g a p) : SameG g a s := by subst e; exact h
/-- The same with the state in front. -/
theorem SameG.of1 {g : Fld} {a s : State} {β : Type} {p : State × β} {x : β} (e : p = (s, x)) (h : SameG1 g a p) : SameG g a s := by subst e; exact h

/-- A set of a sideFields field. -/
theorem State.setF_g {g : Fld} {a s : State} {f : Fld} {v ix : Nat} (h : SameG g a s) (hf : f ∈ sideFields) (hi : ix < 65536) : SameG g a (s.setF f v ix) :=
  ⟨h.apart, fun k => ((Chg.refl (h.ok k)).setF f v ix).ok,
   fun k => (getF_setF_ne _ _ (h.ok k) (key_ne_of_place (by decide) hi (Ne.symm (h.apart f hf)))).trans (h.get k)⟩
/-- The same of a flag. -/
theorem State.setB_g {g : Fld} {a s : State} {f : Fld} {v : Bool} {ix : Nat} (h : SameG g a s) (hf : f ∈ sideFields) (hi : ix < 65536) : SameG g a (s.setB f v ix) :=
  State.setF_g h hf hi
/-- The same of a counter. -/
theorem State.bump_g {g : Fld} {a s : State} {f : Fld} {ix n : Nat} (h : SameG g a s) (hf : f ∈ sideFields) (hi : ix < 65536) : SameG g a (s.bump f ix n) :=
  State.setF_g h hf hi
/-- The same of a value in two registers. -/
theorem State.set64_g {g : Fld} {a s : State} {f f2 : Fld} {v ix : Nat} (h : SameG g a s) (hf : f ∈ sideFields) (hf2 : f2 ∈ sideFields) (hi : ix < 65536) :
    SameG g a (s.set64 f f2 v ix) := State.setF_g (State.setF_g h hf hi) hf2 hi

/-! ### One lemma for each operation -/

/-- It keeps a field that stands apart. -/
theorem State.emit_g {g : Fld} {a s : State} {x1 x2 x3 x4} (h : SameG g a s) : SameG g a (State.emit s x1 x2 x3 x4) := SameG.upd h rfl

/-- It keeps a field that stands apart. -/
theorem State.event_g {g : Fld} {a s : State} {x1 x2 x3} (h : SameG g a s) : SameG g a (State.event s x1 x2 x3) := by
  unfold State.event
  repeat' first
    | with_reducible assumption
    | ((fail_if_no_progress extract_lets +onlyGivenNames t); refine (?_ : SameG g a t → _) ?_; (on_goal 2 => unfold t); (on_goal 1 => (clear_value t; intro _)))
    | ((fail_if_no_progress extract_lets +onlyGivenNames t); subst t)
    | dsimp -zeta only
    | with_reducible apply SameG.ite
    | split
    | fail_if_no_progress (with_reducible refine SameG.upd ?_ rfl)

/-- It keeps a field that stands apart. -/
theorem State.evHw_g {g : Fld} {a s : State} {x1 x2} (h : SameG g a s) : SameG g a (State.evHw s x1 x2) := by
  unfold State.evHw
  repeat' first
    | with_reducible assumption
    | dsimp -zeta only
    | with_reducible apply State.event_g

/-- It keeps a field that stands apart. -/
theorem State.evCfg_g {g : Fld} {a s : State} {x1 x2} (h : SameG g a s) : SameG g a (State.evCfg s x1 x2) := by
  unfold State.evCfg
  repeat' first
    | with_reducible assumption
    | dsimp -zeta only
    | with_reducible apply State.event_g

/-- It keeps a field that stands apart. -/
theorem State.evSec_g {g : Fld} {a s : State} {x1 x2} (h : SameG g a s) : SameG g a (State.evSec s x1 x2) := by
  unfold State.evSec
  repeat' first
    | with_reducible assumption
    | dsimp -zeta only
    | with_reducible apply State.event_g

/-- It keeps a field that stands apart. -/
theorem State.share_g {g : Fld} {a s : State} {x1} (h : SameG g a s) : SameG g a (State.share s x1) := by
  unfold State.share
  repeat' first
    | with_reducible assumption
    | ((fail_if_no_progress extract_lets +onlyGivenNames t); refine (?_ : SameG g a t → _) ?_; (on_goal 2 => unfold t); (on_goal 1 => (clear_value t; intro _)))
    | ((fail_if_no_progress extract_lets +onlyGivenNames t); subst t)
    | dsimp -zeta only
    | with_reducible apply SameG.ite
    | split
    | fail_if_no_progress (with_reducible refine SameG.upd ?_ rfl)

/-- It keeps a field that stands apart. -/
theorem State.olcStep_g {g : Fld} {a s : State} {x1} (h : SameG g a s) : SameG g a (State.olcStep s x1) := by
  unfold State.olcStep
  repeat' first
    | with_reducible assumption
    | (with_reducible refine (?_ : (_ : Fld) ∈ sideFields)) <;> decide
    | (with_reducible refine (?_ : (_ : Nat) < 65536)) <;> first | decide | exact Nat.lt_trans (BitVec.isLt _) (by decide) | exact Nat.lt_trans (Fin.isLt _) (by decide)
    | dsimp -zeta only
    | with_reducible apply State.share_g
    | with_reducible apply State.evCfg_g
    | with_reducible apply State.setF_g

/-- It keeps a field that stands apart. -/
theorem State.olcEnd_g {g : Fld} {a s : State} {x1} (h : SameG g a s) : SameG g a (State.olcEnd s x1) := by
  unfold State.olcEnd
  repeat' first
    | with_reducible assumption
    | (with_reducible refine (?_ : (_ : Fld) ∈ sideFields)) <;> decide
    | (with_reducible refine (?_ : (_ : Nat) < 65536)) <;> first | decide | exact Nat.lt_trans (BitVec.isLt _) (by decide) | exact Nat.lt_trans (Fin.isLt _) (by decide)
    | ((fail_if_no_progress extract_lets +onlyGivenNames t); refine (?_ : SameG g a t → _) ?_; (on_goal 2 => unfold t); (on_goal 1 => (clear_value t; intro _)))
    | ((fail_if_no_progress extract_lets +onlyGivenNames t); subst t)
    | dsimp -zeta only
    | with_reducible apply SameG.ite
    | with_reducible apply State.setF_g
    | with_reducible apply State.olcStep_g
    | with_reducible apply State.bump_g
    | split
    | fail_if_no_progress (with_reducible refine SameG.upd ?_ rfl)

/-- It keeps a field that stands apart. -/
theorem State.olcTakeover_g {g : Fld} {a s : State} (h : SameG g a s) : SameG g a (State.olcTakeover s) := by
  unfold State.olcTakeover
  repeat' first
    | with_reducible assumption
    | dsimp -zeta only
    | with_reducible apply SameG.ite
    | with_reducible apply State.olcEnd_g
    | split

/-- It keeps a field that stands apart. -/
theorem State.carriedOut_g {g : Fld} {a s : State} (h : SameG g a s) : SameG g a (State.carriedOut s) := by
  unfold State.carriedOut
  repeat' first
    | with_reducible assumption
    | ((fail_if_no_progress extract_lets +onlyGivenNames t); refine (?_ : SameG g a t → _) ?_; (on_goal 2 => unfold t); (on_goal 1 => (clear_value t; intro _)))
    | ((fail_if_no_progress extract_lets +onlyGivenNames t); subst t)
    | dsimp -zeta only
    | fail_if_no_progress (with_reducible refine SameG.upd ?_ rfl)

/-- It keeps a field that stands apart. -/
theorem State.modTask_g {g : Fld} {a s : State} {x1 x2} (h : SameG g a s) : SameG g a (State.modTask s x1 x2) := by
  unfold State.modTask
  repeat' first
    | with_reducible assumption
    | ((fail_if_no_progress extract_lets +onlyGivenNames t); refine (?_ : SameG g a t → _) ?_; (on_goal 2 => unfold t); (on_goal 1 => (clear_value t; intro _)))
    | ((fail_if_no_progress extract_lets +onlyGivenNames t); subst t)
    | dsimp -zeta only
    | fail_if_no_progress (with_reducible refine SameG.upd ?_ rfl)

/-- It keeps a field that stands apart. -/
theorem State.ask_g {g : Fld} {a s : State} {x1 x2 x3 x4} (h : SameG g a s) : SameG g a (State.ask s x1 x2 x3 x4) := by
  unfold State.ask
  repeat' first
    | with_reducible assumption
    | ((fail_if_no_progress extract_lets +onlyGivenNames t); refine (?_ : SameG g a t → _) ?_; (on_goal 2 => unfold t); (on_goal 1 => (clear_value t; intro _)))
    | ((fail_if_no_progress extract_lets +onlyGivenNames t); subst t)
    | dsimp -zeta only
    | fail_if_no_progress (with_reducible refine SameG.upd ?_ rfl)

/-- It keeps a field that stands apart. -/
theorem State.callErrorTask_g {g : Fld} {a s : State} {x1} (h : SameG g a s) : SameG g a (State.callErrorTask s x1) := by
  unfold State.callErrorTask
  repeat' first
    | with_reducible assumption
    | dsimp -zeta only
    | with_reducible apply State.ask_g
    | split

/-- It keeps a field that stands apart. -/
theorem State.sysWrite_g {g : Fld} {a s : State} {x1 x2} (h : SameG g a s) : SameG g a (State.sysWrite s x1 x2) :=
  SameG.upd h rfl

/-- It keeps a field that stands apart. -/
theorem State.showWin_g {g : Fld} {a s : State} {x1} (h : SameG g a s) : SameG g a (State.showWin s x1) := by
  unfold State.showWin
  repeat' first
    | with_reducible assumption
    | (with_reducible refine (?_ : (_ : Fld) ∈ sideFields)) <;> decide
    | (with_reducible refine (?_ : (_ : Nat) < 65536)) <;> first | decide | exact Nat.lt_trans (BitVec.isLt _) (by decide) | exact Nat.lt_trans (Fin.isLt _) (by decide)
    | ((fail_if_no_progress extract_lets +onlyGivenNames t); refine (?_ : SameG g a t → _) ?_; (on_goal 2 => unfold t); (on_goal 1 => (clear_value t; intro _)))
    | ((fail_if_no_progress extract_lets +onlyGivenNames t); subst t)
    | dsimp -zeta only
    | with_reducible apply State.setF_g
    | with_reducible apply State.sysWrite_g
    | split

/-- It keeps a field that stands apart. -/
theorem State.putWin_g {g : Fld} {a s : State} {x1} (h : SameG g a s) : SameG g a (State.putWin s x1) := by
  unfold State.putWin
  repeat' first
    | with_reducible assumption
    | ((fail_if_no_progress extract_lets +onlyGivenNames t); refine (?_ : SameG g a t → _) ?_; (on_goal 2 => unfold t); (on_goal 1 => (clear_value t; intro _)))
    | ((fail_if_no_progress extract_lets +onlyGivenNames t); subst t)
    | dsimp -zeta only
    | with_reducible apply SameG.ite
    | with_reducible apply State.showWin_g
    | split
    | fail_if_no_progress (with_reducible refine SameG.upd ?_ rfl)

/-- It keeps a field that stands apart. -/
theorem State.reportIn_g {g : Fld} {a s : State} {x1 x2 x3 x4 x5} (h : SameG g a s) : SameG g a (State.reportIn s x1 x2 x3 x4 x5) := by
  unfold State.reportIn
  repeat' first
    | with_reducible assumption
    | ((fail_if_no_progress extract_lets +onlyGivenNames t); refine (?_ : SameG g a t → _) ?_; (on_goal 2 => unfold t); (on_goal 1 => (clear_value t; intro _)))
    | ((fail_if_no_progress extract_lets +onlyGivenNames t); subst t)
    | dsimp -zeta only
    | with_reducible apply State.putWin_g
    | with_reducible apply State.callErrorTask_g
    | with_reducible apply State.showWin_g
    | split
    | fail_if_no_progress (with_reducible refine SameG.upd ?_ rfl)

/-- It keeps a field that stands apart. -/
theorem State.report_g {g : Fld} {a s : State} {x1 x2 x3 x4 x5} (h : SameG g a s) : SameG g a (State.report s x1 x2 x3 x4 x5) := by
  unfold State.report
  repeat' first
    | with_reducible assumption
    | (with_reducible refine (?_ : (_ : Fld) ∈ sideFields)) <;> decide
    | (with_reducible refine (?_ : (_ : Nat) < 65536)) <;> first | decide | exact Nat.lt_trans (BitVec.isLt _) (by decide) | exact Nat.lt_trans (Fin.isLt _) (by decide)
    | ((fail_if_no_progress extract_lets +onlyGivenNames t); refine (?_ : SameG g a t → _) ?_; (on_goal 2 => unfold t); (on_goal 1 => (clear_value t; intro _)))
    | ((fail_if_no_progress extract_lets +onlyGivenNames t); subst t)
    | dsimp -zeta only
    | with_reducible apply SameG.ite
    | with_reducible apply State.reportIn_g
    | with_reducible apply State.bump_g
    | split

/-- It keeps a field that stands apart. -/
theorem State.latchEcc_g {g : Fld} {a s : State} {x1} (h : SameG g a s) : SameG g a (State.latchEcc s x1) := by
  unfold State.latchEcc
  repeat' first
    | with_reducible assumption
    | (with_reducible refine (?_ : (_ : Fld) ∈ sideFields)) <;> decide
    | (with_reducible refine (?_ : (_ : Nat) < 65536)) <;> first | decide | exact Nat.lt_trans (BitVec.isLt _) (by decide) | exact Nat.lt_trans (Fin.isLt _) (by decide)
    | dsimp -zeta only
    | with_reducible apply State.setF_g

/-- It keeps a field that stands apart. -/
theorem State.spareRow_g {g : Fld} {a s : State} {x1} (h : SameG g a s) : SameG g a (State.spareRow s x1) := by
  unfold State.spareRow
  repeat' first
    | with_reducible assumption
    | (with_reducible refine (?_ : (_ : Fld) ∈ sideFields)) <;> decide
    | (with_reducible refine (?_ : (_ : Nat) < 65536)) <;> first | decide | exact Nat.lt_trans (BitVec.isLt _) (by decide) | exact Nat.lt_trans (Fin.isLt _) (by decide)
    | ((fail_if_no_progress extract_lets +onlyGivenNames t); refine (?_ : SameG g a t → _) ?_; (on_goal 2 => unfold t); (on_goal 1 => (clear_value t; intro _)))
    | ((fail_if_no_progress extract_lets +onlyGivenNames t); subst t)
    | dsimp -zeta only
    | with_reducible apply SameG.ite
    | with_reducible apply State.evHw_g
    | with_reducible apply State.setF_g
    | split
    | fail_if_no_progress (with_reducible refine SameG.upd ?_ rfl)

/-- It keeps a field that stands apart. -/
theorem State.eccCorrected_g {g : Fld} {a s : State} {x1} (h : SameG g a s) : SameG g a (State.eccCorrected s x1) := by
  unfold State.eccCorrected
  repeat' first
    | with_reducible assumption
    | (with_reducible refine (?_ : (_ : Fld) ∈ sideFields)) <;> decide
    | (with_reducible refine (?_ : (_ : Nat) < 65536)) <;> first | decide | exact Nat.lt_trans (BitVec.isLt _) (by decide) | exact Nat.lt_trans (Fin.isLt _) (by decide)
    | ((fail_if_no_progress extract_lets +onlyGivenNames t); refine (?_ : SameG g a t → _) ?_; (on_goal 2 => unfold t); (on_goal 1 => (clear_value t; intro _)))
    | ((fail_if_no_progress extract_lets +onlyGivenNames t); subst t)
    | dsimp -zeta only
    | with_reducible apply SameG.ite
    | with_reducible apply State.latchEcc_g
    | with_reducible apply State.bump_g
    | with_reducible apply State.spareRow_g
    | split
    | fail_if_no_progress (with_reducible refine SameG.upd ?_ rfl)

/-- It keeps a field that stands apart. -/
theorem State.poisonUnit_g {g : Fld} {a s : State} {x1 x2} (h : SameG g a s) : SameG g a (State.poisonUnit s x1 x2) := by
  unfold State.poisonUnit
  repeat' first
    | with_reducible assumption
    | ((fail_if_no_progress extract_lets +onlyGivenNames t); refine (?_ : SameG g a t → _) ?_; (on_goal 2 => unfold t); (on_goal 1 => (clear_value t; intro _)))
    | ((fail_if_no_progress extract_lets +onlyGivenNames t); subst t)
    | dsimp -zeta only
    | with_reducible apply SameG.ite
    | split
    | fail_if_no_progress (with_reducible refine SameG.upd ?_ rfl)

/-- It keeps a field that stands apart. -/
theorem State.eccUncorrectable_g {g : Fld} {a s : State} {x1 x2} (h : SameG g a s) : SameG g a (State.eccUncorrectable s x1 x2) := by
  unfold State.eccUncorrectable
  repeat' first
    | with_reducible assumption
    | (with_reducible refine (?_ : (_ : Fld) ∈ sideFields)) <;> decide
    | (with_reducible refine (?_ : (_ : Nat) < 65536)) <;> first | decide | exact Nat.lt_trans (BitVec.isLt _) (by decide) | exact Nat.lt_trans (Fin.isLt _) (by decide)
    | ((fail_if_no_progress extract_lets +onlyGivenNames t); refine (?_ : SameG g a t → _) ?_; (on_goal 2 => unfold t); (on_goal 1 => (clear_value t; intro _)))
    | ((fail_if_no_progress extract_lets +onlyGivenNames t); subst t)
    | dsimp -zeta only
    | with_reducible apply State.poisonUnit_g
    | with_reducible apply State.latchEcc_g
    | with_reducible apply State.bump_g
    | with_reducible apply State.spareRow_g
    | with_reducible apply State.evHw_g

/-- It keeps a field that stands apart. -/
theorem State.meetUnit_g {g : Fld} {a s : State} {x1 x2} (h : SameG g a s) : SameG g a (State.meetUnit s x1 x2) := by
  unfold State.meetUnit
  repeat' first
    | with_reducible assumption
    | ((fail_if_no_progress extract_lets +onlyGivenNames t); refine (?_ : SameG g a t → _) ?_; (on_goal 2 => unfold t); (on_goal 1 => (clear_value t; intro _)))
    | ((fail_if_no_progress extract_lets +onlyGivenNames t); subst t)
    | dsimp -zeta only
    | with_reducible apply SameG.ite
    | with_reducible apply State.eccCorrected_g
    | with_reducible apply State.eccUncorrectable_g
    | split
    | fail_if_no_progress (with_reducible refine SameG.upd ?_ rfl)

/-- It keeps a field that stands apart. -/
theorem State.lookMap_g {g : Fld} {a s : State} {x1} (h : SameG g a s) : SameG g a (State.lookMap s x1) := by
  unfold State.lookMap
  repeat' first
    | with_reducible assumption
    | (with_reducible refine (?_ : (_ : Fld) ∈ sideFields)) <;> decide
    | (with_reducible refine (?_ : (_ : Nat) < 65536)) <;> first | decide | exact Nat.lt_trans (BitVec.isLt _) (by decide) | exact Nat.lt_trans (Fin.isLt _) (by decide)
    | ((fail_if_no_progress extract_lets +onlyGivenNames t); refine (?_ : SameG g a t → _) ?_; (on_goal 2 => unfold t); (on_goal 1 => (clear_value t; intro _)))
    | ((fail_if_no_progress extract_lets +onlyGivenNames t); subst t)
    | dsimp -zeta only
    | with_reducible apply SameG.ite
    | with_reducible apply State.setF_g
    | split
    | fail_if_no_progress (with_reducible refine SameG.upd ?_ rfl)

/-- It keeps a field that stands apart. -/
theorem State.meet_g {g : Fld} {a s : State} {x1 x2 x3} (h : SameG g a s) : SameG g a (State.meet s x1 x2 x3) := by
  unfold State.meet
  repeat' first
    | with_reducible assumption
    | dsimp -zeta only
    | with_reducible apply SameG.ite
    | with_reducible apply State.meetUnit_g
    | with_reducible apply State.lookMap_g
    | with_reducible exact SameG1.out ‹_›
    | with_reducible apply SameG1.mk
    | with_reducible apply SameG1.ite
    | with_reducible refine SameG1.foldl ?_ (fun _ _ _ => ?_)
    | with_reducible refine SameG1.out ?_
    | with_reducible exact SameG2.out ‹_›
    | with_reducible apply SameG2.mk
    | with_reducible apply SameG2.ite
    | with_reducible refine SameG2.foldl ?_ (fun _ _ _ => ?_)
    | with_reducible refine SameG2.out ?_
    | with_reducible refine SameG.foldl ?_ (fun _ _ _ => ?_)
    | split

/-- It keeps a field that stands apart. -/
theorem State.latchRefusal_g {g : Fld} {a s : State} {x1 x2 x3} (h : SameG g a s) : SameG g a (State.latchRefusal s x1 x2 x3) := by
  unfold State.latchRefusal
  repeat' first
    | with_reducible assumption
    | (with_reducible refine (?_ : (_ : Fld) ∈ sideFields)) <;> decide
    | (with_reducible refine (?_ : (_ : Nat) < 65536)) <;> first | decide | exact Nat.lt_trans (BitVec.isLt _) (by decide) | exact Nat.lt_trans (Fin.isLt _) (by decide)
    | ((fail_if_no_progress extract_lets +onlyGivenNames t); refine (?_ : SameG g a t → _) ?_; (on_goal 2 => unfold t); (on_goal 1 => (clear_value t; intro _)))
    | ((fail_if_no_progress extract_lets +onlyGivenNames t); subst t)
    | dsimp -zeta only
    | with_reducible apply State.setF_g
    | with_reducible apply State.setB_g

/-- It keeps a field that stands apart. -/
theorem State.walkMeet_g {g : Fld} {a s : State} {x1} (h : SameG g a s) : SameG g a (State.walkMeet s x1) := by
  unfold State.walkMeet
  repeat' first
    | with_reducible assumption
    | ((fail_if_no_progress extract_lets +onlyGivenNames t); refine (?_ : SameG g a t → _) ?_; (on_goal 2 => unfold t); (on_goal 1 => (clear_value t; intro _)))
    | ((fail_if_no_progress extract_lets +onlyGivenNames t); subst t)
    | dsimp -zeta only
    | with_reducible apply SameG.ite
    | with_reducible apply State.meet_g
    | split

/-- It keeps a field that stands apart. -/
theorem State.latchWalk_g {g : Fld} {a s : State} {x1 x2} (h : SameG g a s) : SameG g a (State.latchWalk s x1 x2) := by
  unfold State.latchWalk
  repeat' first
    | with_reducible assumption
    | (with_reducible refine (?_ : (_ : Fld) ∈ sideFields)) <;> decide
    | (with_reducible refine (?_ : (_ : Nat) < 65536)) <;> first | decide | exact Nat.lt_trans (BitVec.isLt _) (by decide) | exact Nat.lt_trans (Fin.isLt _) (by decide)
    | dsimp -zeta only
    | with_reducible apply State.setF_g

/-- It keeps a field that stands apart. -/
theorem State.hostFill_g {g : Fld} {a s : State} {x1 x2 x3} (h : SameG g a s) : SameG g a (State.hostFill s x1 x2 x3) := by
  unfold State.hostFill
  dsimp only
  split <;> exact SameG.upd h rfl

/-- It keeps a field that stands apart. -/
theorem State.hostTook_g {g : Fld} {a s : State} {x1 x2} (h : SameG g a s) : SameG2 g a (State.hostTook s x1 x2) := by
  unfold State.hostTook
  repeat' first
    | with_reducible assumption
    | ((fail_if_no_progress extract_lets +onlyGivenNames t); refine (?_ : SameG g a t → _) ?_; (on_goal 2 => unfold t); (on_goal 1 => (clear_value t; intro _)))
    | ((fail_if_no_progress extract_lets +onlyGivenNames t); subst t)
    | dsimp -zeta only
    | with_reducible apply State.latchWalk_g
    | with_reducible apply State.hostFill_g
    | with_reducible exact SameG2.out ‹_›
    | with_reducible apply SameG2.mk
    | split
    | with_reducible refine SameG.of2 ‹_› ?_
    | fail_if_no_progress (with_reducible refine SameG.upd ?_ rfl)

/-- It keeps a field that stands apart. -/
theorem State.hostWalk_g {g : Fld} {a s : State} {x1} (h : SameG g a s) : SameG2 g a (State.hostWalk s x1) := by
  unfold State.hostWalk
  repeat' first
    | with_reducible assumption
    | ((fail_if_no_progress extract_lets +onlyGivenNames t); refine (?_ : SameG g a t → _) ?_; (on_goal 2 => unfold t); (on_goal 1 => (clear_value t; intro _)))
    | ((fail_if_no_progress extract_lets +onlyGivenNames t); refine (?_ : SameG2 g a t → _) ?_; (on_goal 2 => unfold t); (on_goal 1 => (clear_value t; intro _)))
    | ((fail_if_no_progress extract_lets +onlyGivenNames t); subst t)
    | dsimp -zeta only
    | with_reducible apply State.walkMeet_g
    | with_reducible apply State.hostTook_g
    | with_reducible refine SameG2.out (State.hostTook_g ?_)
    | with_reducible exact SameG2.out ‹_›
    | with_reducible apply SameG2.mk

/-- It keeps a field that stands apart. -/
theorem State.hostTranslate_g {g : Fld} {a s : State} {x1} (h : SameG g a s) : SameG2 g a (State.hostTranslate s x1) := by
  unfold State.hostTranslate
  split
  · have k : SameG g a { s with fresh := s.fresh + 1 } := SameG.upd h rfl
    dsimp only
    generalize ({ s with fresh := s.fresh + 1 } : State) = u at k ⊢
    split
    · exact State.hostWalk_g k
    · split
      · exact SameG2.mk (State.latchWalk_g k)
      · exact SameG2.mk k
  · exact State.hostWalk_g h

/-- It keeps a field that stands apart. -/
theorem State.modSess_g {g : Fld} {a s : State} {x1 x2} (h : SameG g a s) : SameG g a (State.modSess s x1 x2) := by
  unfold State.modSess
  repeat' first
    | with_reducible assumption
    | ((fail_if_no_progress extract_lets +onlyGivenNames t); refine (?_ : SameG g a t → _) ?_; (on_goal 2 => unfold t); (on_goal 1 => (clear_value t; intro _)))
    | ((fail_if_no_progress extract_lets +onlyGivenNames t); subst t)
    | dsimp -zeta only
    | split
    | fail_if_no_progress (with_reducible refine SameG.upd ?_ rfl)

/-- It keeps a field that stands apart. -/
theorem State.modQp_g {g : Fld} {a s : State} {x1 x2 x3} (h : SameG g a s) : SameG g a (State.modQp s x1 x2 x3) := by
  unfold State.modQp
  repeat' first
    | with_reducible assumption
    | ((fail_if_no_progress extract_lets +onlyGivenNames t); refine (?_ : SameG g a t → _) ?_; (on_goal 2 => unfold t); (on_goal 1 => (clear_value t; intro _)))
    | ((fail_if_no_progress extract_lets +onlyGivenNames t); subst t)
    | dsimp -zeta only
    | with_reducible apply State.modSess_g
    | split

/-- It keeps a field that stands apart. -/
theorem State.putCompl_g {g : Fld} {a s : State} {x1 x2 x3} (h : SameG g a s) : SameG g a (State.putCompl s x1 x2 x3) := by
  unfold State.putCompl
  repeat' first
    | with_reducible assumption
    | ((fail_if_no_progress extract_lets +onlyGivenNames t); refine (?_ : SameG g a t → _) ?_; (on_goal 2 => unfold t); (on_goal 1 => (clear_value t; intro _)))
    | ((fail_if_no_progress extract_lets +onlyGivenNames t); subst t)
    | dsimp -zeta only
    | with_reducible apply State.modQp_g

/-- It keeps a field that stands apart. -/
theorem State.complete_g {g : Fld} {a s : State} {x1 x2 x3 x4 x5 x6 x7 x8} (h : SameG g a s) : SameG g a (State.complete s x1 x2 x3 x4 x5 x6 x7 x8) := by
  unfold State.complete
  repeat' first
    | with_reducible assumption
    | ((fail_if_no_progress extract_lets +onlyGivenNames t); refine (?_ : SameG g a t → _) ?_; (on_goal 2 => unfold t); (on_goal 1 => (clear_value t; intro _)))
    | ((fail_if_no_progress extract_lets +onlyGivenNames t); subst t)
    | dsimp -zeta only
    | with_reducible apply SameG.ite
    | with_reducible apply State.modQp_g
    | with_reducible apply State.putCompl_g
    | split

/-- It keeps a field that stands apart. -/
theorem State.completeDups_g {g : Fld} {a s : State} {x1 x2 x3 x4 x5} (h : SameG g a s) : SameG g a (State.completeDups s x1 x2 x3 x4 x5) := by
  unfold State.completeDups
  repeat' first
    | with_reducible assumption
    | ((fail_if_no_progress extract_lets +onlyGivenNames t); refine (?_ : SameG g a t → _) ?_; (on_goal 2 => unfold t); (on_goal 1 => (clear_value t; intro _)))
    | ((fail_if_no_progress extract_lets +onlyGivenNames t); refine (?_ : SameG2 g a t → _) ?_; (on_goal 2 => unfold t); (on_goal 1 => (clear_value t; intro _)))
    | ((fail_if_no_progress extract_lets +onlyGivenNames t); refine (?_ : SameG1 g a t → _) ?_; (on_goal 2 => unfold t); (on_goal 1 => (clear_value t; intro _)))
    | ((fail_if_no_progress extract_lets +onlyGivenNames t); subst t)
    | dsimp -zeta only
    | with_reducible apply SameG.ite
    | with_reducible apply State.complete_g
    | with_reducible exact SameG1.out ‹_›
    | with_reducible apply SameG1.mk
    | with_reducible apply SameG1.ite
    | with_reducible refine SameG1.foldl ?_ (fun _ _ _ => ?_)
    | with_reducible refine SameG1.out ?_
    | with_reducible exact SameG2.out ‹_›
    | with_reducible apply SameG2.mk
    | with_reducible apply SameG2.ite
    | with_reducible refine SameG2.foldl ?_ (fun _ _ _ => ?_)
    | with_reducible refine SameG2.out ?_
    | with_reducible refine SameG.foldl ?_ (fun _ _ _ => ?_)
    | split
    | fail_if_no_progress (with_reducible refine SameG.upd ?_ rfl)

/-- It keeps a field that stands apart. -/
theorem State.completeB_g {g : Fld} {a s : State} {x1 x2 x3} (h : SameG g a s) : SameG g a (State.completeB s x1 x2 x3) := by
  unfold State.completeB
  repeat' first
    | with_reducible assumption
    | ((fail_if_no_progress extract_lets +onlyGivenNames t); refine (?_ : SameG g a t → _) ?_; (on_goal 2 => unfold t); (on_goal 1 => (clear_value t; intro _)))
    | ((fail_if_no_progress extract_lets +onlyGivenNames t); subst t)
    | dsimp -zeta only
    | with_reducible apply SameG.ite
    | with_reducible apply State.completeDups_g
    | with_reducible apply State.modQp_g
    | with_reducible apply State.putCompl_g
    | split

/-- It keeps a field that stands apart. -/
theorem State.modLock_g {g : Fld} {a s : State} {x1 x2} (h : SameG g a s) : SameG g a (State.modLock s x1 x2) := by
  unfold State.modLock
  repeat' first
    | with_reducible assumption
    | (with_reducible refine (?_ : (_ : Fld) ∈ sideFields)) <;> decide
    | (with_reducible refine (?_ : (_ : Nat) < 65536)) <;> first | decide | exact Nat.lt_trans (BitVec.isLt _) (by decide) | exact Nat.lt_trans (Fin.isLt _) (by decide)
    | ((fail_if_no_progress extract_lets +onlyGivenNames t); refine (?_ : SameG g a t → _) ?_; (on_goal 2 => unfold t); (on_goal 1 => (clear_value t; intro _)))
    | ((fail_if_no_progress extract_lets +onlyGivenNames t); subst t)
    | dsimp -zeta only
    | with_reducible apply State.setF_g
    | fail_if_no_progress (with_reducible refine SameG.upd ?_ rfl)

/-- It keeps a field that stands apart. -/
theorem State.breakLock_g {g : Fld} {a s : State} {x1} (h : SameG g a s) : SameG g a (State.breakLock s x1) := by
  unfold State.breakLock
  repeat' first
    | with_reducible assumption
    | (with_reducible refine (?_ : (_ : Fld) ∈ sideFields)) <;> decide
    | (with_reducible refine (?_ : (_ : Nat) < 65536)) <;> first | decide | exact Nat.lt_trans (BitVec.isLt _) (by decide) | exact Nat.lt_trans (Fin.isLt _) (by decide)
    | ((fail_if_no_progress extract_lets +onlyGivenNames t); refine (?_ : SameG g a t → _) ?_; (on_goal 2 => unfold t); (on_goal 1 => (clear_value t; intro _)))
    | ((fail_if_no_progress extract_lets +onlyGivenNames t); subst t)
    | dsimp -zeta only
    | with_reducible apply State.modLock_g
    | with_reducible apply State.report_g
    | with_reducible apply State.bump_g
    | split

/-- It keeps a field that stands apart. -/
theorem State.breakAll_g {g : Fld} {a s : State} (h : SameG g a s) : SameG g a (State.breakAll s) := by
  unfold State.breakAll
  repeat' first
    | with_reducible assumption
    | dsimp -zeta only
    | with_reducible apply State.breakLock_g
    | with_reducible exact SameG1.out ‹_›
    | with_reducible apply SameG1.mk
    | with_reducible refine SameG1.foldl ?_ (fun _ _ _ => ?_)
    | with_reducible refine SameG1.out ?_
    | with_reducible exact SameG2.out ‹_›
    | with_reducible apply SameG2.mk
    | with_reducible refine SameG2.foldl ?_ (fun _ _ _ => ?_)
    | with_reducible refine SameG2.out ?_
    | with_reducible refine SameG.foldl ?_ (fun _ _ _ => ?_)

/-- It keeps a field that stands apart. -/
theorem State.under_g {g : Fld} {a s : State} {x1} (h : SameG g a s) : SameG g a (State.under s x1) := by
  unfold State.under
  repeat' first
    | with_reducible assumption
    | (with_reducible refine (?_ : (_ : Fld) ∈ sideFields)) <;> decide
    | (with_reducible refine (?_ : (_ : Nat) < 65536)) <;> first | decide | exact Nat.lt_trans (BitVec.isLt _) (by decide) | exact Nat.lt_trans (Fin.isLt _) (by decide)
    | dsimp -zeta only
    | with_reducible apply State.setF_g

/-- It keeps a field that stands apart. -/
theorem State.hostEntry_g {g : Fld} {a s : State} {x1} (h : SameG g a s) : SameG2 g a (State.hostEntry s x1) := by
  unfold State.hostEntry
  repeat' first
    | with_reducible assumption
    | dsimp -zeta only
    | with_reducible apply State.hostTranslate_g
    | with_reducible refine SameG2.out (State.hostTranslate_g ?_)
    | with_reducible exact SameG2.out ‹_›
    | with_reducible apply SameG2.mk

/-- It keeps a field that stands apart. -/
theorem State.snapMeets_g {g : Fld} {a s : State} {x1 x2 x3} (h : SameG g a s) : SameG2 g a (State.snapMeets s x1 x2 x3) := by
  unfold State.snapMeets
  repeat' first
    | with_reducible assumption
    | ((fail_if_no_progress extract_lets +onlyGivenNames t); refine (?_ : SameG g a t → _) ?_; (on_goal 2 => unfold t); (on_goal 1 => (clear_value t; intro _)))
    | ((fail_if_no_progress extract_lets +onlyGivenNames t); subst t)
    | dsimp -zeta only
    | with_reducible apply SameG.ite
    | with_reducible apply State.meet_g
    | with_reducible exact SameG2.out ‹_›
    | with_reducible apply SameG2.mk
    | with_reducible apply SameG2.ite
    | split

/-- It keeps a field that stands apart. -/
theorem State.readTag_g {g : Fld} {a s : State} {x1 x2} (h : SameG g a s) : SameG2 g a (State.readTag s x1 x2) := by
  unfold State.readTag
  repeat' first
    | with_reducible assumption
    | ((fail_if_no_progress extract_lets +onlyGivenNames t); refine (?_ : SameG g a t → _) ?_; (on_goal 2 => unfold t); (on_goal 1 => (clear_value t; intro _)))
    | ((fail_if_no_progress extract_lets +onlyGivenNames t); refine (?_ : SameG2 g a t → _) ?_; (on_goal 2 => unfold t); (on_goal 1 => (clear_value t; intro _)))
    | ((fail_if_no_progress extract_lets +onlyGivenNames t); subst t)
    | dsimp -zeta only
    | with_reducible apply SameG.ite
    | with_reducible apply State.hostEntry_g
    | with_reducible refine SameG2.out (State.hostEntry_g ?_)
    | with_reducible apply State.latchRefusal_g
    | with_reducible apply State.snapMeets_g
    | with_reducible refine SameG2.out (State.snapMeets_g ?_)
    | with_reducible exact SameG2.out ‹_›
    | with_reducible apply SameG2.mk
    | with_reducible apply SameG2.ite
    | split
    | with_reducible refine SameG.of2 ‹_› ?_

/-- It keeps a field that stands apart. -/
theorem State.readTags_g {g : Fld} {a s : State} {x1 x2 x3} (h : SameG g a s) : SameG2 g a (State.readTags s x1 x2 x3) := by
  induction x3 generalizing s x2 with
  | nil => unfold State.readTags; exact SameG2.mk h
  | cons t ts ih =>
    unfold State.readTags
    have h1 : SameG2 g a (s.readTag x1 t) := State.readTag_g h
    generalize s.readTag x1 t = p at h1
    rcases p with ⟨⟨bs, e⟩, s1⟩
    have h2 : SameG2 g a (State.readTags s1 x1 (x2 + 1) ts) := ih h1
    dsimp only
    generalize State.readTags s1 x1 (x2 + 1) ts = q at h2
    rcases q with ⟨⟨rest, e', i'⟩, s2⟩
    exact SameG2.mk (SameG2.out h2)

/-- It keeps a field that stands apart. -/
theorem State.serveRead_g {g : Fld} {a s : State} {x1 x2 x3 x4 x5} (h : SameG g a s) : SameG g a (State.serveRead s x1 x2 x3 x4 x5) := by
  unfold State.serveRead
  repeat' first
    | with_reducible assumption
    | ((fail_if_no_progress extract_lets +onlyGivenNames t); refine (?_ : SameG g a t → _) ?_; (on_goal 2 => unfold t); (on_goal 1 => (clear_value t; intro _)))
    | ((fail_if_no_progress extract_lets +onlyGivenNames t); refine (?_ : SameG2 g a t → _) ?_; (on_goal 2 => unfold t); (on_goal 1 => (clear_value t; intro _)))
    | ((fail_if_no_progress extract_lets +onlyGivenNames t); subst t)
    | dsimp -zeta only
    | with_reducible apply SameG.ite
    | with_reducible apply State.complete_g
    | with_reducible apply State.under_g
    | with_reducible apply State.hostEntry_g
    | with_reducible refine SameG2.out (State.hostEntry_g ?_)
    | with_reducible apply State.latchRefusal_g
    | with_reducible apply State.snapMeets_g
    | with_reducible refine SameG2.out (State.snapMeets_g ?_)
    | with_reducible apply State.readTags_g
    | with_reducible refine SameG2.out (State.readTags_g ?_)
    | with_reducible exact SameG2.out ‹_›
    | with_reducible apply SameG2.mk
    | with_reducible apply SameG2.ite
    | split
    | with_reducible refine SameG.of2 ‹_› ?_

/-- It keeps a field that stands apart. -/
theorem State.releaseQp_g {g : Fld} {a s : State} {x1 x2 x3} (h : SameG g a s) : SameG g a (State.releaseQp s x1 x2 x3) := by
  unfold State.releaseQp
  repeat' first
    | with_reducible assumption
    | ((fail_if_no_progress extract_lets +onlyGivenNames t); refine (?_ : SameG g a t → _) ?_; (on_goal 2 => unfold t); (on_goal 1 => (clear_value t; intro _)))
    | ((fail_if_no_progress extract_lets +onlyGivenNames t); refine (?_ : SameG2 g a t → _) ?_; (on_goal 2 => unfold t); (on_goal 1 => (clear_value t; intro _)))
    | ((fail_if_no_progress extract_lets +onlyGivenNames t); refine (?_ : SameG1 g a t → _) ?_; (on_goal 2 => unfold t); (on_goal 1 => (clear_value t; intro _)))
    | ((fail_if_no_progress extract_lets +onlyGivenNames t); subst t)
    | dsimp -zeta only
    | with_reducible apply SameG.ite
    | with_reducible apply State.serveRead_g
    | with_reducible apply State.modQp_g
    | with_reducible exact SameG1.out ‹_›
    | with_reducible apply SameG1.mk
    | with_reducible apply SameG1.ite
    | with_reducible refine SameG1.foldl ?_ (fun _ _ _ => ?_)
    | with_reducible refine SameG1.out ?_
    | with_reducible exact SameG2.out ‹_›
    | with_reducible apply SameG2.mk
    | with_reducible apply SameG2.ite
    | with_reducible refine SameG2.foldl ?_ (fun _ _ _ => ?_)
    | with_reducible refine SameG2.out ?_
    | with_reducible refine SameG.foldl ?_ (fun _ _ _ => ?_)
    | split

/-- It keeps a field that stands apart. -/
theorem State.releaseReads_g {g : Fld} {a s : State} (h : SameG g a s) : SameG g a (State.releaseReads s) := by
  unfold State.releaseReads
  repeat' first
    | with_reducible assumption
    | dsimp -zeta only
    | with_reducible apply State.releaseQp_g
    | with_reducible exact SameG1.out ‹_›
    | with_reducible apply SameG1.mk
    | with_reducible refine SameG1.foldl ?_ (fun _ _ _ => ?_)
    | with_reducible refine SameG1.out ?_
    | with_reducible exact SameG2.out ‹_›
    | with_reducible apply SameG2.mk
    | with_reducible refine SameG2.foldl ?_ (fun _ _ _ => ?_)
    | with_reducible refine SameG2.out ?_
    | with_reducible refine SameG.foldl ?_ (fun _ _ _ => ?_)

/-- It keeps a field that stands apart. -/
theorem State.completeBatches_g {g : Fld} {a s : State} (h : SameG g a s) : SameG g a (State.completeBatches s) := by
  unfold State.completeBatches
  repeat' first
    | with_reducible assumption
    | ((fail_if_no_progress extract_lets +onlyGivenNames t); refine (?_ : SameG g a t → _) ?_; (on_goal 2 => unfold t); (on_goal 1 => (clear_value t; intro _)))
    | ((fail_if_no_progress extract_lets +onlyGivenNames t); refine (?_ : SameG2 g a t → _) ?_; (on_goal 2 => unfold t); (on_goal 1 => (clear_value t; intro _)))
    | ((fail_if_no_progress extract_lets +onlyGivenNames t); refine (?_ : SameG1 g a t → _) ?_; (on_goal 2 => unfold t); (on_goal 1 => (clear_value t; intro _)))
    | ((fail_if_no_progress extract_lets +onlyGivenNames t); subst t)
    | dsimp -zeta only
    | with_reducible apply State.completeB_g
    | with_reducible apply State.completeDups_g
    | with_reducible exact SameG1.out ‹_›
    | with_reducible apply SameG1.mk
    | with_reducible refine SameG1.foldl ?_ (fun _ _ _ => ?_)
    | with_reducible refine SameG1.out ?_
    | with_reducible exact SameG2.out ‹_›
    | with_reducible apply SameG2.mk
    | with_reducible refine SameG2.foldl ?_ (fun _ _ _ => ?_)
    | with_reducible refine SameG2.out ?_
    | with_reducible refine SameG.foldl ?_ (fun _ _ _ => ?_)
    | split
    | fail_if_no_progress (with_reducible refine SameG.upd ?_ rfl)

/-- It keeps a field that stands apart. -/
theorem State.deliver_g {g : Fld} {a s : State} {x1 x2 x3 x4} (h : SameG g a s) : SameG g a (State.deliver s x1 x2 x3 x4) := by
  unfold State.deliver
  repeat' first
    | with_reducible assumption
    | ((fail_if_no_progress extract_lets +onlyGivenNames t); refine (?_ : SameG g a t → _) ?_; (on_goal 2 => unfold t); (on_goal 1 => (clear_value t; intro _)))
    | ((fail_if_no_progress extract_lets +onlyGivenNames t); subst t)
    | dsimp -zeta only
    | with_reducible apply SameG.ite
    | with_reducible apply State.putCompl_g
    | split

/-- It keeps a field that stands apart. -/
theorem State.pushSub_g {g : Fld} {a s : State} {x1 x2} (h : SameG g a s) : SameG g a (State.pushSub s x1 x2) := by
  unfold State.pushSub
  repeat' first
    | with_reducible assumption
    | ((fail_if_no_progress extract_lets +onlyGivenNames t); refine (?_ : SameG g a t → _) ?_; (on_goal 2 => unfold t); (on_goal 1 => (clear_value t; intro _)))
    | ((fail_if_no_progress extract_lets +onlyGivenNames t); refine (?_ : SameG2 g a t → _) ?_; (on_goal 2 => unfold t); (on_goal 1 => (clear_value t; intro _)))
    | ((fail_if_no_progress extract_lets +onlyGivenNames t); refine (?_ : SameG1 g a t → _) ?_; (on_goal 2 => unfold t); (on_goal 1 => (clear_value t; intro _)))
    | ((fail_if_no_progress extract_lets +onlyGivenNames t); subst t)
    | dsimp -zeta only
    | with_reducible apply SameG.ite
    | with_reducible apply State.modSess_g
    | with_reducible apply State.deliver_g
    | with_reducible exact SameG1.out ‹_›
    | with_reducible apply SameG1.mk
    | with_reducible apply SameG1.ite
    | with_reducible refine SameG1.foldl ?_ (fun _ _ _ => ?_)
    | with_reducible refine SameG1.out ?_
    | with_reducible exact SameG2.out ‹_›
    | with_reducible apply SameG2.mk
    | with_reducible apply SameG2.ite
    | with_reducible refine SameG2.foldl ?_ (fun _ _ _ => ?_)
    | with_reducible refine SameG2.out ?_
    | with_reducible refine SameG.foldl ?_ (fun _ _ _ => ?_)
    | split

/-- It keeps a field that stands apart. -/
theorem State.pushSubs_g {g : Fld} {a s : State} (h : SameG g a s) : SameG g a (State.pushSubs s) := by
  unfold State.pushSubs
  repeat' first
    | with_reducible assumption
    | dsimp -zeta only
    | with_reducible apply State.pushSub_g
    | with_reducible exact SameG1.out ‹_›
    | with_reducible apply SameG1.mk
    | with_reducible refine SameG1.foldl ?_ (fun _ _ _ => ?_)
    | with_reducible refine SameG1.out ?_
    | with_reducible exact SameG2.out ‹_›
    | with_reducible apply SameG2.mk
    | with_reducible refine SameG2.foldl ?_ (fun _ _ _ => ?_)
    | with_reducible refine SameG2.out ?_
    | with_reducible refine SameG.foldl ?_ (fun _ _ _ => ?_)

/-- It keeps a field that stands apart. -/
theorem State.hostAdvance_g {g : Fld} {a s : State} (h : SameG g a s) : SameG g a (State.hostAdvance s) := by
  unfold State.hostAdvance
  repeat' first
    | with_reducible assumption
    | dsimp -zeta only
    | with_reducible apply State.pushSubs_g
    | with_reducible apply State.completeBatches_g
    | with_reducible apply State.releaseReads_g

/-- It keeps a field that stands apart. -/
theorem State.finishCut_g {g : Fld} {a s : State} {x1 x2} (h : SameG g a s) : SameG g a (State.finishCut s x1 x2) := by
  unfold State.finishCut
  repeat' first
    | with_reducible assumption
    | ((fail_if_no_progress extract_lets +onlyGivenNames t); refine (?_ : SameG g a t → _) ?_; (on_goal 2 => unfold t); (on_goal 1 => (clear_value t; intro _)))
    | ((fail_if_no_progress extract_lets +onlyGivenNames t); subst t)
    | dsimp -zeta only
    | with_reducible apply SameG.ite
    | with_reducible apply State.sysWrite_g
    | with_reducible apply State.share_g
    | with_reducible apply State.complete_g
    | split
    | fail_if_no_progress (with_reducible refine SameG.upd ?_ rfl)

/-- It keeps a field that stands apart. -/
theorem State.breakCuts_g {g : Fld} {a s : State} (h : SameG g a s) : SameG g a (State.breakCuts s) := by
  unfold State.breakCuts
  repeat' first
    | with_reducible assumption
    | ((fail_if_no_progress extract_lets +onlyGivenNames t); refine (?_ : SameG g a t → _) ?_; (on_goal 2 => unfold t); (on_goal 1 => (clear_value t; intro _)))
    | ((fail_if_no_progress extract_lets +onlyGivenNames t); refine (?_ : SameG2 g a t → _) ?_; (on_goal 2 => unfold t); (on_goal 1 => (clear_value t; intro _)))
    | ((fail_if_no_progress extract_lets +onlyGivenNames t); refine (?_ : SameG1 g a t → _) ?_; (on_goal 2 => unfold t); (on_goal 1 => (clear_value t; intro _)))
    | ((fail_if_no_progress extract_lets +onlyGivenNames t); subst t)
    | dsimp -zeta only
    | with_reducible apply State.finishCut_g
    | with_reducible exact SameG1.out ‹_›
    | with_reducible apply SameG1.mk
    | with_reducible refine SameG1.foldl ?_ (fun _ _ _ => ?_)
    | with_reducible refine SameG1.out ?_
    | with_reducible exact SameG2.out ‹_›
    | with_reducible apply SameG2.mk
    | with_reducible refine SameG2.foldl ?_ (fun _ _ _ => ?_)
    | with_reducible refine SameG2.out ?_
    | with_reducible refine SameG.foldl ?_ (fun _ _ _ => ?_)

/-- It keeps a field that stands apart. -/
theorem State.hostAbort_g {g : Fld} {a s : State} (h : SameG g a s) : SameG g a (State.hostAbort s) := by
  unfold State.hostAbort
  repeat' first
    | with_reducible assumption
    | ((fail_if_no_progress extract_lets +onlyGivenNames t); refine (?_ : SameG g a t → _) ?_; (on_goal 2 => unfold t); (on_goal 1 => (clear_value t; intro _)))
    | ((fail_if_no_progress extract_lets +onlyGivenNames t); refine (?_ : SameG2 g a t → _) ?_; (on_goal 2 => unfold t); (on_goal 1 => (clear_value t; intro _)))
    | ((fail_if_no_progress extract_lets +onlyGivenNames t); refine (?_ : SameG1 g a t → _) ?_; (on_goal 2 => unfold t); (on_goal 1 => (clear_value t; intro _)))
    | ((fail_if_no_progress extract_lets +onlyGivenNames t); subst t)
    | dsimp -zeta only
    | with_reducible apply SameG.ite
    | with_reducible apply State.complete_g
    | with_reducible apply State.modQp_g
    | with_reducible apply State.putCompl_g
    | with_reducible apply State.modSess_g
    | with_reducible apply State.completeB_g
    | with_reducible apply State.breakAll_g
    | with_reducible exact SameG1.out ‹_›
    | with_reducible apply SameG1.mk
    | with_reducible apply SameG1.ite
    | with_reducible refine SameG1.foldl ?_ (fun _ _ _ => ?_)
    | with_reducible refine SameG1.out ?_
    | with_reducible exact SameG2.out ‹_›
    | with_reducible apply SameG2.mk
    | with_reducible apply SameG2.ite
    | with_reducible refine SameG2.foldl ?_ (fun _ _ _ => ?_)
    | with_reducible refine SameG2.out ?_
    | with_reducible refine SameG.foldl ?_ (fun _ _ _ => ?_)
    | split
    | fail_if_no_progress (with_reducible refine SameG.upd ?_ rfl)

/-- It keeps a field that stands apart. -/
theorem State.fspSend_g {g : Fld} {a s : State} {x1 x2 x3 x4 x5 x6 x7 x8} (h : SameG g a s) : SameG g a (State.fspSend s x1 x2 x3 x4 x5 x6 x7 x8) := by
  unfold State.fspSend
  repeat' first
    | with_reducible assumption
    | ((fail_if_no_progress extract_lets +onlyGivenNames t); refine (?_ : SameG g a t → _) ?_; (on_goal 2 => unfold t); (on_goal 1 => (clear_value t; intro _)))
    | ((fail_if_no_progress extract_lets +onlyGivenNames t); subst t)
    | dsimp -zeta only
    | with_reducible apply SameG.ite
    | with_reducible apply State.emit_g
    | split
    | fail_if_no_progress (with_reducible refine SameG.upd ?_ rfl)

/-- It keeps a field that stands apart. -/
theorem State.announce_g {g : Fld} {a s : State} (h : SameG g a s) : SameG g a (State.announce s) := by
  unfold State.announce
  repeat' first
    | with_reducible assumption
    | dsimp -zeta only
    | with_reducible apply State.fspSend_g

/-- It keeps a field that stands apart. -/
theorem State.migPass_g {g : Fld} {a s : State} (h : SameG g a s) : SameG g a (State.migPass s) := by
  unfold State.migPass
  repeat' first
    | with_reducible assumption
    | (with_reducible refine (?_ : (_ : Fld) ∈ sideFields)) <;> decide
    | (with_reducible refine (?_ : (_ : Nat) < 65536)) <;> first | decide | exact Nat.lt_trans (BitVec.isLt _) (by decide) | exact Nat.lt_trans (Fin.isLt _) (by decide)
    | dsimp -zeta only
    | with_reducible apply State.bump_g
    | split

/-- It keeps a field that stands apart. -/
theorem State.freshGrid_g {g : Fld} {a s : State} (h : SameG g a s) : SameG g a (State.freshGrid s) := by
  unfold State.freshGrid
  repeat' first
    | with_reducible assumption
    | (with_reducible refine (?_ : (_ : Fld) ∈ sideFields)) <;> decide
    | (with_reducible refine (?_ : (_ : Nat) < 65536)) <;> first | decide | exact Nat.lt_trans (BitVec.isLt _) (by decide) | exact Nat.lt_trans (Fin.isLt _) (by decide)
    | ((fail_if_no_progress extract_lets +onlyGivenNames t); refine (?_ : SameG g a t → _) ?_; (on_goal 2 => unfold t); (on_goal 1 => (clear_value t; intro _)))
    | ((fail_if_no_progress extract_lets +onlyGivenNames t); refine (?_ : SameG2 g a t → _) ?_; (on_goal 2 => unfold t); (on_goal 1 => (clear_value t; intro _)))
    | ((fail_if_no_progress extract_lets +onlyGivenNames t); refine (?_ : SameG1 g a t → _) ?_; (on_goal 2 => unfold t); (on_goal 1 => (clear_value t; intro _)))
    | ((fail_if_no_progress extract_lets +onlyGivenNames t); subst t)
    | dsimp -zeta only
    | with_reducible apply State.modTask_g
    | with_reducible apply State.setF_g
    | with_reducible exact SameG1.out ‹_›
    | with_reducible apply SameG1.mk
    | with_reducible refine SameG1.foldl ?_ (fun _ _ _ => ?_)
    | with_reducible refine SameG1.out ?_
    | with_reducible exact SameG2.out ‹_›
    | with_reducible apply SameG2.mk
    | with_reducible refine SameG2.foldl ?_ (fun _ _ _ => ?_)
    | with_reducible refine SameG2.out ?_
    | with_reducible refine SameG.foldl ?_ (fun _ _ _ => ?_)

/-- It keeps a field that stands apart. -/
theorem State.takeTasks_g {g : Fld} {a s : State} (h : SameG g a s) : SameG g a (State.takeTasks s) := by
  unfold State.takeTasks
  repeat' first
    | with_reducible assumption
    | ((fail_if_no_progress extract_lets +onlyGivenNames t); refine (?_ : SameG g a t → _) ?_; (on_goal 2 => unfold t); (on_goal 1 => (clear_value t; intro _)))
    | ((fail_if_no_progress extract_lets +onlyGivenNames t); refine (?_ : SameG2 g a t → _) ?_; (on_goal 2 => unfold t); (on_goal 1 => (clear_value t; intro _)))
    | ((fail_if_no_progress extract_lets +onlyGivenNames t); refine (?_ : SameG1 g a t → _) ?_; (on_goal 2 => unfold t); (on_goal 1 => (clear_value t; intro _)))
    | ((fail_if_no_progress extract_lets +onlyGivenNames t); subst t)
    | dsimp -zeta only
    | with_reducible apply State.modTask_g
    | with_reducible exact SameG1.out ‹_›
    | with_reducible apply SameG1.mk
    | with_reducible refine SameG1.foldl ?_ (fun _ _ _ => ?_)
    | with_reducible refine SameG1.out ?_
    | with_reducible exact SameG2.out ‹_›
    | with_reducible apply SameG2.mk
    | with_reducible refine SameG2.foldl ?_ (fun _ _ _ => ?_)
    | with_reducible refine SameG2.out ?_
    | with_reducible refine SameG.foldl ?_ (fun _ _ _ => ?_)
    | split

/-- It keeps a field that stands apart. -/
theorem State.loosePlain_g {g : Fld} {a s : State} (h : SameG g a s) : SameG g a (State.loosePlain s) :=
  SameG.upd h rfl

/-- It keeps a field that stands apart. -/
theorem State.sendPacket_g {g : Fld} {a s : State} {x1 x2 x3 x4 x5 x6 x7 x8 x9} (h : SameG g a s) : SameG g a (State.sendPacket s x1 x2 x3 x4 x5 x6 x7 x8 x9) := by
  unfold State.sendPacket
  repeat' first
    | with_reducible assumption
    | ((fail_if_no_progress extract_lets +onlyGivenNames t); refine (?_ : SameG g a t → _) ?_; (on_goal 2 => unfold t); (on_goal 1 => (clear_value t; intro _)))
    | ((fail_if_no_progress extract_lets +onlyGivenNames t); subst t)
    | dsimp -zeta only
    | with_reducible apply State.emit_g
    | fail_if_no_progress (with_reducible refine SameG.upd ?_ rfl)

/-- It keeps a field that stands apart. -/
theorem State.modKerb_g {g : Fld} {a s : State} {x1} (h : SameG g a s) : SameG g a (State.modKerb s x1) := by
  unfold State.modKerb
  repeat' first
    | with_reducible assumption
    | ((fail_if_no_progress extract_lets +onlyGivenNames t); refine (?_ : SameG g a t → _) ?_; (on_goal 2 => unfold t); (on_goal 1 => (clear_value t; intro _)))
    | ((fail_if_no_progress extract_lets +onlyGivenNames t); subst t)
    | dsimp -zeta only
    | fail_if_no_progress (with_reducible refine SameG.upd ?_ rfl)

/-- It keeps a field that stands apart. -/
theorem State.toMigrate_g {g : Fld} {a s : State} (h : SameG g a s) : SameG g a (State.toMigrate s) := by
  unfold State.toMigrate
  repeat' first
    | with_reducible assumption
    | dsimp -zeta only
    | with_reducible apply State.olcStep_g
    | with_reducible apply State.migPass_g

/-- It keeps a field that stands apart. -/
theorem State.olcAlone_g {g : Fld} {a s : State} (h : SameG g a s) : SameG g a (State.olcAlone s) := by
  unfold State.olcAlone
  repeat' first
    | with_reducible assumption
    | ((fail_if_no_progress extract_lets +onlyGivenNames t); refine (?_ : SameG g a t → _) ?_; (on_goal 2 => unfold t); (on_goal 1 => (clear_value t; intro _)))
    | ((fail_if_no_progress extract_lets +onlyGivenNames t); subst t)
    | dsimp -zeta only
    | with_reducible apply SameG.ite
    | with_reducible apply State.olcStep_g
    | with_reducible apply State.toMigrate_g
    | split
    | fail_if_no_progress (with_reducible refine SameG.upd ?_ rfl)

/-- It keeps a field that stands apart. -/
theorem State.sendHello_g {g : Fld} {a s : State} (h : SameG g a s) : SameG g a (State.sendHello s) := by
  unfold State.sendHello
  repeat' first
    | with_reducible assumption
    | ((fail_if_no_progress extract_lets +onlyGivenNames t); refine (?_ : SameG g a t → _) ?_; (on_goal 2 => unfold t); (on_goal 1 => (clear_value t; intro _)))
    | ((fail_if_no_progress extract_lets +onlyGivenNames t); subst t)
    | dsimp -zeta only
    | with_reducible apply State.sendPacket_g

/-- It keeps a field that stands apart. -/
theorem State.backfillLost_g {g : Fld} {a s : State} (h : SameG g a s) : SameG g a (State.backfillLost s) := by
  unfold State.backfillLost
  repeat' first
    | with_reducible assumption
    | (with_reducible refine (?_ : (_ : Fld) ∈ sideFields)) <;> decide
    | (with_reducible refine (?_ : (_ : Nat) < 65536)) <;> first | decide | exact Nat.lt_trans (BitVec.isLt _) (by decide) | exact Nat.lt_trans (Fin.isLt _) (by decide)
    | dsimp -zeta only
    | with_reducible apply SameG.ite
    | with_reducible apply State.setF_g
    | split

/-- It keeps a field that stands apart. -/
theorem State.dropJoin_g {g : Fld} {a s : State} (h : SameG g a s) : SameG g a (State.dropJoin s) := by
  unfold State.dropJoin
  repeat' first
    | with_reducible assumption
    | (with_reducible refine (?_ : (_ : Fld) ∈ sideFields)) <;> decide
    | (with_reducible refine (?_ : (_ : Nat) < 65536)) <;> first | decide | exact Nat.lt_trans (BitVec.isLt _) (by decide) | exact Nat.lt_trans (Fin.isLt _) (by decide)
    | ((fail_if_no_progress extract_lets +onlyGivenNames t); refine (?_ : SameG g a t → _) ?_; (on_goal 2 => unfold t); (on_goal 1 => (clear_value t; intro _)))
    | ((fail_if_no_progress extract_lets +onlyGivenNames t); subst t)
    | dsimp -zeta only
    | with_reducible apply SameG.ite
    | with_reducible apply State.setF_g
    | split
    | fail_if_no_progress (with_reducible refine SameG.upd ?_ rfl)

/-- It keeps a field that stands apart. -/
theorem State.askWitnesses_g {g : Fld} {a s : State} (h : SameG g a s) : SameG g a (State.askWitnesses s) := by
  unfold State.askWitnesses
  repeat' first
    | with_reducible assumption
    | (with_reducible refine (?_ : (_ : Fld) ∈ sideFields)) <;> decide
    | (with_reducible refine (?_ : (_ : Nat) < 65536)) <;> first | decide | exact Nat.lt_trans (BitVec.isLt _) (by decide) | exact Nat.lt_trans (Fin.isLt _) (by decide)
    | ((fail_if_no_progress extract_lets +onlyGivenNames t); refine (?_ : SameG g a t → _) ?_; (on_goal 2 => unfold t); (on_goal 1 => (clear_value t; intro _)))
    | ((fail_if_no_progress extract_lets +onlyGivenNames t); refine (?_ : SameG2 g a t → _) ?_; (on_goal 2 => unfold t); (on_goal 1 => (clear_value t; intro _)))
    | ((fail_if_no_progress extract_lets +onlyGivenNames t); refine (?_ : SameG1 g a t → _) ?_; (on_goal 2 => unfold t); (on_goal 1 => (clear_value t; intro _)))
    | ((fail_if_no_progress extract_lets +onlyGivenNames t); subst t)
    | dsimp -zeta only
    | with_reducible apply SameG.ite
    | with_reducible apply State.setF_g
    | with_reducible apply State.fspSend_g
    | with_reducible exact SameG1.out ‹_›
    | with_reducible apply SameG1.mk
    | with_reducible apply SameG1.ite
    | with_reducible refine SameG1.foldl ?_ (fun _ _ _ => ?_)
    | with_reducible refine SameG1.out ?_
    | with_reducible exact SameG2.out ‹_›
    | with_reducible apply SameG2.mk
    | with_reducible apply SameG2.ite
    | with_reducible refine SameG2.foldl ?_ (fun _ _ _ => ?_)
    | with_reducible refine SameG2.out ?_
    | with_reducible refine SameG.foldl ?_ (fun _ _ _ => ?_)
    | split
    | fail_if_no_progress (with_reducible refine SameG.upd ?_ rfl)

/-- It keeps a field that stands apart. -/
theorem State.partnerSeen_g {g : Fld} {a s : State} {x1} (h : SameG g a s) : SameG g a (State.partnerSeen s x1) := by
  unfold State.partnerSeen
  repeat' first
    | with_reducible assumption
    | (with_reducible refine (?_ : (_ : Fld) ∈ sideFields)) <;> decide
    | (with_reducible refine (?_ : (_ : Nat) < 65536)) <;> first | decide | exact Nat.lt_trans (BitVec.isLt _) (by decide) | exact Nat.lt_trans (Fin.isLt _) (by decide)
    | dsimp -zeta only
    | with_reducible apply SameG.ite
    | with_reducible apply State.setF_g
    | with_reducible apply State.evSec_g
    | split

/-- It keeps a field that stands apart. -/
theorem State.partnerKept_g {g : Fld} {a s : State} (h : SameG g a s) : SameG g a (State.partnerKept s) := by
  unfold State.partnerKept
  repeat' first
    | with_reducible assumption
    | ((fail_if_no_progress extract_lets +onlyGivenNames t); refine (?_ : SameG g a t → _) ?_; (on_goal 2 => unfold t); (on_goal 1 => (clear_value t; intro _)))
    | ((fail_if_no_progress extract_lets +onlyGivenNames t); subst t)
    | dsimp -zeta only
    | with_reducible apply State.modKerb_g
    | split

end Sys2Proof.Machine
end

