-- ==== Sys2Proof/Laws/Olc.lean ====
section
/-! SUPPORT. What the steps of an on-line change leave. -/
namespace Sys2Proof.Machine

/-- A step entered: STEP shows it. -/
theorem State.olcStep_does {s : State} (h : s.RegsOk) {n : Nat} (hn : n < 8) :
    (s.olcStep n).step_ = n ∧ Chg s (s.olcStep n) [(SCH_OLCSTAT_STEP, 0)] ∧ ∃ r a p, s.olcStep n = { s with regs := r, arc := a, pair := p } := by
  unfold State.olcStep
  have c := (Chg.refl h).setF SCH_OLCSTAT_STEP n 0
  obtain ⟨a, e⟩ := State.evCfg_frame (s.setF SCH_OLCSTAT_STEP n) 2 [n]
  have v : (s.setF SCH_OLCSTAT_STEP n).getF SCH_OLCSTAT_STEP = n := (getF_setF_self _ _ _ _ h).trans (Nat.mod_eq_of_lt hn)
  rw [e]
  unfold State.share
  split
  · exact ⟨(getF_same (s := s.setF SCH_OLCSTAT_STEP n) rfl).trans v, c.same rfl, _, _, _, rfl⟩
  · exact ⟨(getF_same (s := s.setF SCH_OLCSTAT_STEP n) rfl).trans v, c.same rfl, _, _, s.pair, rfl⟩

/-- A change that begins: with a Follower the transfer, alone the next step at once. -/
theorem State.olcBegin_does {s : State} (h : s.RegsOk) (p : Pkg) (load : Bool) :
    (s.olcBegin p load).step_ = (if s.getF PAR_STAT_STATE = 6 then 2 else if load then 4 else 3) ∧
    (s.olcBegin p load).olc = { s.olc with load := load, cand := some p, actAt := if s.getF PAR_STAT_STATE ≠ 6 ∧ load then some (s.tick + 1) else none } ∧
    Chg s (s.olcBegin p load) [(SCH_OLCSTAT_STEP, 0), (SCH_OLCSTAT_MIGCNT, 0)] ∧ (s.olcBegin p load).kerb = s.kerb := by
  unfold State.olcBegin
  dsimp only
  obtain ⟨a, b, r, ar, pr, e⟩ := State.olcStep_does (s := { s with olc := { s.olc with load := load, cand := some p, actAt := none } }) h (n := 2) (by decide)
  have b' : Chg s (State.olcStep { s with olc := { s.olc with load := load, cand := some p, actAt := none } } 2) [(SCH_OLCSTAT_STEP, 0)] := ⟨fun f ix hf => (b.only f ix hf).trans rfl, b.ok⟩
  have st : (State.olcStep { s with olc := { s.olc with load := load, cand := some p, actAt := none } } 2).getF PAR_STAT_STATE = s.getF PAR_STAT_STATE := b'.only _ _ (by decide)
  have eo : (State.olcStep { s with olc := { s.olc with load := load, cand := some p, actAt := none } } 2).olc = { s.olc with load := load, cand := some p, actAt := none } := by rw [e]
  have ek : (State.olcStep { s with olc := { s.olc with load := load, cand := some p, actAt := none } } 2).kerb = s.kerb := by rw [e]
  have et : (State.olcStep { s with olc := { s.olc with load := load, cand := some p, actAt := none } } 2).tick = s.tick := by rw [e]
  rw [st]
  generalize State.olcStep { s with olc := { s.olc with load := load, cand := some p, actAt := none } } 2 = u at *
  by_cases c1 : s.getF PAR_STAT_STATE = 6
  · rw [if_pos c1, if_pos c1]
    exact ⟨(getF_same (s := u) rfl).trans a, eo.trans (by simp [c1]), (b'.mono (by simp)).same rfl, ek⟩
  · rw [if_neg c1, if_neg c1]
    by_cases c2 : load = true
    · rw [if_pos c2, if_pos c2]
      obtain ⟨a2, b2, r2, ar2, pr2, e2⟩ := State.olcStep_does (s := { u with olc := { u.olc with actAt := some (u.tick + 1) } }) b'.ok (n := 4) (by decide)
      have c3 : Chg u (State.olcStep { u with olc := { u.olc with actAt := some (u.tick + 1) } } 4) [(SCH_OLCSTAT_STEP, 0)] := ⟨fun f ix hf => (b2.only f ix hf).trans rfl, b2.ok⟩
      refine ⟨a2, ?_, (b'.trans c3).mono (by simp), ?_⟩
      · rw [e2]
        show { u.olc with actAt := some (u.tick + 1) } = _
        rw [eo, et, if_pos ⟨c1, c2⟩]
      · rw [e2]; exact ek
    · rw [if_neg c2, if_neg c2]
      unfold State.toMigrate
      have mp : ∃ v, u.migPass = v ∧ Chg u v [(SCH_OLCSTAT_MIGCNT, 0)] ∧ v.olc = u.olc ∧ v.kerb = u.kerb := by
        refine ⟨_, rfl, ?_⟩
        unfold State.migPass
        split
        · exact ⟨(Chg.refl b'.ok).bump _ _ _, rfl, rfl⟩
        · exact ⟨⟨fun _ _ _ => rfl, b'.ok⟩, rfl, rfl⟩
      obtain ⟨v, ev, v1, v2, v3⟩ := mp
      rw [ev]
      obtain ⟨a2, b2, r2, ar2, pr2, e2⟩ := State.olcStep_does v1.ok (n := 3) (by decide)
      refine ⟨a2, ?_, ((b'.trans v1).trans b2).mono (by simp), ?_⟩
      · rw [e2]
        show v.olc = _
        rw [v2, eo, if_neg (fun x => c2 x.2)]
      · rw [e2]; exact v3.trans ek

/-- A change that ends without activation. -/
theorem State.olcEnd_does {s : State} (h : s.RegsOk) :
    (s.olcEnd false).step_ = 7 ∧ (s.olcEnd false).olc = { s.olc with actAt := none, load := false, cand := none } ∧
    (s.olcEnd false).getF SCH_OLCSTAT_ABNCNT = sat SCH_OLCSTAT_ABNCNT.w (s.getF SCH_OLCSTAT_ABNCNT + 1) ∧
    Chg s (s.olcEnd false) [(SCH_OLCSTAT_STEP, 0), (SCH_OLCSTAT_ABNCNT, 0), (SCH_CFGSTAT_CHECKED, 0)] ∧ (s.olcEnd false).kerb = s.kerb := by
  unfold State.olcEnd
  simp only [Bool.false_eq_true, if_false]
  have c1 := (Chg.refl h).setF SCH_CFGSTAT_CHECKED 0 0
  have c2 := c1.same (u := { s.setF SCH_CFGSTAT_CHECKED 0 with olc := { s.olc with actAt := none, load := false, cand := none }, pair := { s.pair with setup := s.pair.setup.filter (fun i => match i with | .activation _ _ => false | _ => true) } }) rfl
  have c3 := c2.bump SCH_OLCSTAT_ABNCNT 0 1
  have v : (State.bump { s.setF SCH_CFGSTAT_CHECKED 0 with olc := { s.olc with actAt := none, load := false, cand := none }, pair := { s.pair with setup := s.pair.setup.filter (fun i => match i with | .activation _ _ => false | _ => true) } } SCH_OLCSTAT_ABNCNT).getF SCH_OLCSTAT_ABNCNT =
      sat SCH_OLCSTAT_ABNCNT.w (s.getF SCH_OLCSTAT_ABNCNT + 1) := by
    refine (getF_setF_self _ _ _ _ c2.ok).trans ?_
    rw [c2.only SCH_OLCSTAT_ABNCNT 0 (by decide)]
    exact Nat.mod_eq_of_lt (lt_of_le_of_lt (Nat.min_le_right _ _) (by decide))
  obtain ⟨a, b, r, ar, p, e⟩ := State.olcStep_does c3.ok (n := 7) (by decide)
  refine ⟨a, ?_, (b.only SCH_OLCSTAT_ABNCNT 0 (by decide)).trans v, (c3.trans b).mono (by simp), ?_⟩
  · refine (congrArg State.olc e).trans ?_
    rfl
  · refine (congrArg State.kerb e).trans ?_
    rfl

/-- A package command that is ignored. -/
theorem State.cfgIgnored_does {s : State} (h : s.RegsOk) (p : Path) {c : Nat} (hc : c < 16) :
    (s.cfgIgnored p c).getF KRB_IGNSTAT_CAUSE = c ∧ (s.cfgIgnored p c).getF SCH_CFGSTAT_RESULT = 2 ∧ (∃ r, s.cfgIgnored p c = { s with regs := r }) ∧
    Chg s (s.cfgIgnored p c) [(SCH_CFGSTAT_RESULT, 0), (KRB_IGNPATH_PATH, 0), (KRB_IGNADDR_OFFSET, 0), (KRB_IGNSTAT_CAUSE, 0), (ignCnt 3, 0), (KRB_IGNSTAT_IGNCNT, 0)] := by
  obtain ⟨⟨r, e⟩, k, k1, -, -⟩ := State.ignored_does h p (off := cfgcmdOff) (by decide) c
  have c1 := k.setF SCH_CFGSTAT_RESULT 2 0
  refine ⟨(getF_setF_ne _ _ k.ok (by decide)).trans (k1.trans (Nat.mod_eq_of_lt hc)), (getF_setF_self _ _ _ _ k.ok).trans rfl, ?_, c1⟩
  unfold State.cfgIgnored
  rw [e]
  exact ⟨_, rfl⟩

/-- What an activation leaves of the activation record. -/
theorem State.activate_act (s : State) (p : Pkg) (load : Bool) (csn : Nat) : ∃ n, (s.activate p load csn).kerb.act = some ⟨n, p.gen, csn⟩ := by
  have me : ∀ v : State, ((v.measL3 p).showForces).kerb.act = v.kerb.act := by
    intro v
    have am : ∀ (w : State) (m : Meas), (w.addMeas m).kerb.act = w.kerb.act := fun w m => rfl
    have sf : ∀ w : State, w.showForces.kerb = w.kerb := by
      intro w
      unfold State.showForces
      dsimp only
      split <;> rfl
    rw [sf]
    unfold State.measL3
    rw [am, am, am]
  unfold State.activate
  extract_lets
  rw [me]
  exact ⟨_, rfl⟩

end Sys2Proof.Machine
end

