-- ==== Sys2Proof/Laws/Roles.lean ====
section
/-! SUPPORT. What a change of role leaves in PAR_STAT and PAR_EPOCH: losing the role, going on alone, and taking the Lead. -/
namespace Sys2Proof.Machine
set_option Elab.async false

/-- A change that does not list the field. -/
theorem SameG.chg {g : Fld} {a s t : State} (h : SameG g a s) {l : List (Fld × Nat)} (k : s.RegsOk → Chg s t l) (hl : ∀ x ∈ l, g.key 0 ≠ x.1.key x.2) :
    SameG g a t :=
  ⟨h.apart, fun e => (k (h.ok e)).ok, fun e => ((k (h.ok e)).only g 0 hl).trans (h.get e)⟩

/-- A set of one other field. -/
theorem SameG.setF {g : Fld} {a s : State} (h : SameG g a s) {f : Fld} {v ix : Nat} (hk : g.key 0 ≠ f.key ix) : SameG g a (s.setF f v ix) :=
  h.chg (l := [(f, ix)]) (fun e => (Chg.refl e).setF f v ix) (by simpa using hk)

/-- STATE stands apart. -/
theorem apart_state : Apart PAR_STAT_STATE := by unfold Apart; decide
/-- So does ROLE. -/
theorem apart_role : Apart PAR_STAT_ROLE := by unfold Apart; decide
/-- So does EPOCH. -/
theorem apart_epoch : Apart PAR_EPOCH_EPOCH := by unfold Apart; decide

/-- ACKCSN moves to the CSN, in SOLO: every other field that stands apart reads as before. -/
theorem State.soloAck_g {g : Fld} {a s : State} (h : SameG g a s) (h1 : g.key 0 ≠ PAR_ACKCSNLO_ACKCSN.key 0) (h2 : g.key 0 ≠ PAR_ACKCSNHI_ACKCSN.key 0) :
    SameG g a s.soloAck := by
  unfold State.soloAck
  refine State.hostAdvance_g ?_
  unfold State.setAck State.set64
  exact ((SameG.upd h rfl).setF h1).setF h2

/-- A module that loses its role is in the state given. -/
theorem State.loseRole_does {s : State} (h : s.RegsOk) {st : Nat} (hst : st < 16) :
    (s.loseRole st).getF PAR_STAT_STATE = st ∧ (s.loseRole st).getF PAR_STAT_ROLE = roleOf st % 4 ∧ (s.loseRole st).RegsOk := by
  unfold State.loseRole
  have ok : s.abortRuns.carriedOut.RegsOk := (State.carriedOut_keeps (State.abortRuns_keeps (Keeps.refl s))).regs h
  generalize s.abortRuns.carriedOut = u at *
  obtain ⟨e1, e2, c, -⟩ := State.enterPair_does ok hst
  generalize u.enterPair st = v at *
  have a := (State.hostAbort_g (State.olcTakeover_g (SameG.refl apart_state v))).setF (f := PAR_STAT_SWPEND) (v := 0) (ix := 0) (by decide)
  have b := (State.hostAbort_g (State.olcTakeover_g (SameG.refl apart_role v))).setF (f := PAR_STAT_SWPEND) (v := 0) (ix := 0) (by decide)
  exact ⟨(a.get c.ok).trans e1, (b.get c.ok).trans e2, a.ok c.ok⟩

/-- A Lead that steps down is in FENCED. -/
theorem State.stepDown_does {s : State} (h : s.RegsOk) (hl : s.isLead = true) : s.stepDown.getF PAR_STAT_STATE = 8 ∧ s.stepDown.getF PAR_STAT_ROLE = 0 ∧ s.stepDown.RegsOk := by
  unfold State.stepDown
  rw [if_pos hl]
  obtain ⟨e1, e2, e3⟩ := State.loseRole_does h (st := 8) (by decide)
  generalize s.loseRole 8 = u at *
  have a := ((SameG.refl apart_state u).setF (f := PAR_LOSSCNT_STEPCNT) (v := sat PAR_LOSSCNT_STEPCNT.w (u.getF PAR_LOSSCNT_STEPCNT + 1)) (ix := 0) (by decide))
  have b := ((SameG.refl apart_role u).setF (f := PAR_LOSSCNT_STEPCNT) (v := sat PAR_LOSSCNT_STEPCNT.w (u.getF PAR_LOSSCNT_STEPCNT + 1)) (ix := 0) (by decide))
  have ev : ((u.bump PAR_LOSSCNT_STEPCNT).evHw 10 [s.epoch]).regs = (u.bump PAR_LOSSCNT_STEPCNT).regs := State.event_regs ..
  refine ⟨(getF_same ev).trans ((a.get e3).trans e1), (getF_same ev).trans ((b.get e3).trans e2), ?_⟩
  show tabRising ((u.bump PAR_LOSSCNT_STEPCNT).evHw 10 [s.epoch]).regs = true
  rw [ev]
  exact a.ok e3

/-- A Lead that goes on alone is in SOLO. -/
theorem State.goSolo_does {s : State} (h : s.RegsOk) (hs : s.getF PAR_STAT_STATE = 6) :
    s.goSolo.getF PAR_STAT_STATE = 7 ∧ s.goSolo.getF PAR_STAT_ROLE = 2 ∧ s.goSolo.RegsOk := by
  unfold State.goSolo
  rw [if_pos hs]
  dsimp only
  generalize hu : State.carriedOut (State.setF { s with pair := { s.pair with switchAt := none, handed := none } } PAR_STAT_SWPEND 0) = u
  have ok : u.RegsOk := by rw [← hu]; exact (((Chg.refl h).same (u := { s with pair := { s.pair with switchAt := none, handed := none } }) rfl).setF PAR_STAT_SWPEND 0 0).ok
  obtain ⟨e1, e2, c, -⟩ := State.enterPair_does ok (st := 7) (by decide)
  generalize u.enterPair 7 = v at *
  have a := State.soloAck_g (SameG.refl apart_state v) (by decide) (by decide)
  have b := State.soloAck_g (SameG.refl apart_role v) (by decide) (by decide)
  exact ⟨(a.get c.ok).trans e1, (b.get c.ok).trans e2, a.ok c.ok⟩

/-- A Lead that has lost its partner goes on as SOLO. -/
theorem State.partnerLost_does {s : State} (h : s.RegsOk) (hs : s.getF PAR_STAT_STATE = 6) (f : Bool) :
    (s.partnerLost f).getF PAR_STAT_STATE = 7 ∧ (s.partnerLost f).pair.partner = none ∧ (s.partnerLost f).pair.lostUnfenced = !f ∧ (s.partnerLost f).RegsOk := by
  unfold State.partnerLost
  rw [if_pos hs]
  dsimp only
  obtain ⟨e1, e2, e3⟩ := State.goSolo_does h hs
  generalize s.goSolo = u at *
  have a := State.olcAlone_g (State.dropJoin_g (SameG.refl apart_state u))
  exact ⟨(getF_same rfl).trans ((a.get e3).trans e1), rfl, rfl, a.ok e3⟩

/-- A module that takes the Lead is in the state given, with a new epoch. -/
theorem State.takeLead_does {s : State} (h : s.RegsOk) {st : Nat} (hst : st < 16) (how : TakeHow) (he : s.nextEpoch < 2 ^ 32) :
    (s.takeLead st how).getF PAR_STAT_STATE = st ∧ (s.takeLead st how).getF PAR_STAT_ROLE = roleOf st % 4 ∧ (s.takeLead st how).epoch = s.nextEpoch ∧
    (s.takeLead st how).RegsOk := by
  generalize ht : s.takeLead st how = t
  unfold State.takeLead at ht
  extract_lets e s1 s2 cl p3 s3 p4 own s4 s5 s6 p7 s7 s8 p9 s9 s10 s11 at ht
  rw [if_neg (show ¬ e ≥ 2 ^ 32 from Nat.not_le.mpr he)] at ht
  have p0 : s1.RegsOk ∧ s1.getF PAR_EPOCH_EPOCH = e := by
    have c0 := (Chg.refl h).same (u := { s with kerb := { s.kerb with epochs := (epochCopy (e % 2 ^ 32), epochCopy (e % 2 ^ 32)) } }) rfl
    exact ⟨(c0.setF _ _ _).ok, (getF_setF_self _ _ _ _ c0.ok).trans (Nat.mod_eq_of_lt he)⟩
  have ee : e = s.nextEpoch := rfl
  clear_value e
  obtain ⟨ok0, ep0⟩ := p0
  have a2 : SameG PAR_EPOCH_EPOCH s1 s2 := State.announce_g (SameG.refl apart_epoch s1)
  have a3 : SameG PAR_EPOCH_EPOCH s1 s3 := SameG.upd a2 rfl
  have a4 : SameG PAR_EPOCH_EPOCH s1 s4 := by
    unfold s4
    split
    · exact a3.setF (by decide)
    · exact (SameG.upd a3 rfl).setF (by decide)
    · exact SameG.upd a3 rfl
  have a5 : SameG PAR_EPOCH_EPOCH s1 s5 := (SameG.setF (f := PAR_LOSSCNT_TAKECNT) a4 (by decide)).setF (by decide)
  clear_value s4
  have a6' := a5.setF (f := PAR_WITSTAT_GRANTS) (v := 0) (ix := 0) (by decide)
  obtain ⟨e1, e2, c, -⟩ := State.enterPair_does (a6'.ok ok0) hst
  have a6 : SameG PAR_EPOCH_EPOCH s1 s6 := a6'.chg (fun _ => c) (by decide)
  have ok6 : s6.RegsOk := c.ok
  have e1' : s6.getF PAR_STAT_STATE = st := e1
  have e2' : s6.getF PAR_STAT_ROLE = roleOf st % 4 := e2
  clear_value s6
  have tail : ∀ g, Apart g → g.key 0 ≠ PAR_ACKCSNLO_ACKCSN.key 0 → g.key 0 ≠ PAR_ACKCSNHI_ACKCSN.key 0 → SameG g s6 t := by
    intro g hg h1 h2
    have b7 : SameG g s6 s7 := SameG.upd (SameG.refl hg s6) rfl
    have b8 : SameG g s6 s8 := State.freshGrid_g b7
    have b9 : SameG g s6 s9 := SameG.ite (State.breakCuts_g b8) (SameG.upd b8 rfl)
    have b10 : SameG g s6 s10 := SameG.ite b9 (State.loosePlain_g (State.takeTasks_g b9))
    have b11 : SameG g s6 s11 := State.evHw_g b10
    rw [← ht]
    split
    · exact State.soloAck_g b11 h1 h2
    · exact State.hostAdvance_g b11
  have k1 := tail _ apart_state (by decide) (by decide)
  have k2 := tail _ apart_role (by decide) (by decide)
  have k3 := tail _ apart_epoch (by decide) (by decide)
  exact ⟨(k1.get ok6).trans e1', (k2.get ok6).trans e2', (k3.get ok6).trans ((a6.get ok0).trans (ep0.trans ee)), k1.ok ok6⟩

/-- The module's state holds the outputs, or lets them go. -/
theorem State.outputsHold_does (s : State) (b : Bool) : (s.outputsHold b).io.hold = b := by
  have d : ∀ (t : State) (n : Nat) (c : Int × Nat), (t.aoDrive n c).io.hold = t.io.hold := by
    intro t n c
    unfold State.aoDrive
    dsimp only
    split <;> rfl
  have one : ∀ (t : State) (n : Nat), (t.aoTarget n).io.hold = t.io.hold := by
    intro t n
    unfold State.aoTarget
    split
    · exact d _ _ _
    · split
      · rfl
      · split
        · exact d _ _ _
        · exact d _ _ _
  have h : ∀ (l : List Nat) (t : State), (l.foldl (fun s n => s.aoTarget n) t).io.hold = t.io.hold := by
    intro l
    induction l with
    | nil => exact fun _ => rfl
    | cons n l ih => exact fun t => (ih _).trans (one t n)
  exact h _ _

/-- Sending a packet of the pair: it is emitted, and its number counts. -/
theorem State.sendPacket_does (s : State) (ty fl ta cs ba ti oh ch : Nat) (l : List (List Byte)) :
    ∃ d, s.sendPacket ty fl ta cs ba ti oh ch l = { s with pair := { s.pair with pktSeq := (s.pair.pktSeq + 1) % 2 ^ 32 }, out := s.out ++ [⟨.boulevard, ty, [ta, cs, ti], d⟩] } :=
  ⟨_, rfl⟩

/-- A frame that may be sent is emitted. -/
theorem State.fspSend_does {s : State} {ch : OutCh} {ty link sta stamp cy : Nat} {sf : Bool} {d : List Byte} (h1 : s.kerb.phase ≠ .off)
    (h2 : s.flag PNE_CTL_KERBSTOP = true → ty ≠ 1 ∧ ty ≠ 5 ∧ ty ≠ 0x10) (h3 : s.flag PNE_PORTSTAT_GCLERR link = false) :
    ∃ f pl, s.fspSend ch ty link sta stamp cy sf d = { s with plant := pl, out := s.out ++ [⟨ch, ty, [link, sta], f⟩] } ∧ pl = { s.plant with fspSeq := pl.fspSeq } := by
  unfold State.fspSend
  rw [if_neg]
  · exact ⟨_, _, rfl, rfl⟩
  · rw [h3]
    cases hk : s.flag PNE_CTL_KERBSTOP with
    | false => simp [h1]
    | true => obtain ⟨a, b, c⟩ := h2 hk; simp [h1, a, b, c]

/-- A WREQ to each witness, on links that send, for the epoch the module would set. -/
theorem State.askWitnesses_does {s : State} (h1 : s.kerb.phase ≠ .off) (h3 : ∀ d ∈ s.witnesses, s.flag PNE_PORTSTAT_GCLERR d.2.1 = false ∧ d.2.1 < 65536) (ho : s.RegsOk) :
    s.askWitnesses.pair.grantFor = s.nextEpoch ∧
    ∃ l, s.askWitnesses.out = s.out ++ l ∧ l.map (fun o => (o.ch, o.what, o.args)) = s.witnesses.map (fun d => (OutCh.witness, 6, [d.2.1, d.1 % 0x1000])) := by
  unfold State.askWitnesses
  dsimp only
  have p : ∃ u, (if s.pair.grantFor = s.nextEpoch then s else State.setF { s with pair := { s.pair with grantFor := s.nextEpoch, grants := [] } } PAR_WITSTAT_GRANTS 0) = u ∧
      u.pair.grantFor = s.nextEpoch ∧ u.out = s.out ∧ u.kerb = s.kerb ∧ u.witnesses = s.witnesses ∧ ∀ d ∈ s.witnesses, u.flag PNE_PORTSTAT_GCLERR d.2.1 = false := by
    refine ⟨_, rfl, ?_⟩
    split
    · next e => exact ⟨e, rfl, rfl, rfl, fun d hd => (h3 d hd).1⟩
    · have c := ((Chg.refl ho).same (u := { s with pair := { s.pair with grantFor := s.nextEpoch, grants := [] } }) rfl).setF PAR_WITSTAT_GRANTS 0 0
      refine ⟨rfl, rfl, rfl, ?_, fun d hd => ?_⟩
      · unfold State.witnesses State.cfg State.actStore
        rw [c.only SCH_OLCSTAT_ACTSTORE 0 (by decide)]
        rfl
      · unfold State.flag
        rw [c.only PNE_PORTSTAT_GCLERR d.2.1 (by intro x hx; rw [List.mem_singleton.mp hx]; exact key_ne_of_place (h3 d hd).2 (by decide) (by decide))]
        exact (h3 d hd).1
  obtain ⟨u, e, u1, u2, u3, u4, u5⟩ := p
  rw [e, u4]
  have main : ∀ (bs : List Byte) (l : List (Nat × Nat × (Nat × Nat))) (v : State), v.kerb.phase ≠ .off → (∀ d ∈ l, v.flag PNE_PORTSTAT_GCLERR d.2.1 = false) →
      (l.foldl (fun s d => s.fspSend .witness 0x06 d.2.1 (d.1 % 0x1000) s.stamp32 0 false bs) v).pair = v.pair ∧
      ∃ o, (l.foldl (fun s d => s.fspSend .witness 0x06 d.2.1 (d.1 % 0x1000) s.stamp32 0 false bs) v).out = v.out ++ o ∧
        o.map (fun o => (o.ch, o.what, o.args)) = l.map (fun d => (OutCh.witness, 6, [d.2.1, d.1 % 0x1000])) := by
    intro bs l
    induction l with
    | nil => intro v _ _; exact ⟨rfl, [], (List.append_nil _).symm, rfl⟩
    | cons d l ih =>
      intro v hv hg
      rw [List.foldl_cons]
      obtain ⟨f, pl, e, -⟩ := State.fspSend_does (s := v) (ch := .witness) (ty := 6) (link := d.2.1) (sta := d.1 % 0x1000) (stamp := v.stamp32) (cy := 0) (sf := false) (d := bs)
        hv (fun _ => by decide) (hg d (by simp))
      rw [e]
      obtain ⟨a, o, b, c⟩ := ih { v with plant := pl, out := v.out ++ [⟨.witness, 6, [d.2.1, d.1 % 0x1000], f⟩] } hv (fun x hx => hg x (by simp [hx]))
      refine ⟨a, _ :: o, b.trans (by rw [List.append_assoc]; rfl), ?_⟩
      rw [List.map_cons, List.map_cons, c]
  obtain ⟨a, o, b, c⟩ := main (natLe 4 s.nextEpoch) s.witnesses u (by rw [u3]; exact h1) u5
  exact ⟨by rw [a]; exact u1, o, by rw [b, u2], c⟩

end Sys2Proof.Machine
end

