-- ==== Sys2Proof/Laws/Units.lean ====
section
/-! SUPPORT. What the shared operations of the lanes, the plant and the channels do. -/
namespace Sys2Proof.Machine

/-- The registers that tell how many lanes there are and whether they are too few. -/
def laneShows : List (Fld × Nat) :=
  [(XNG_STAT_RETIRED, 0), (XNG_STAT_ASSIGN, 0), (XNG_STAT_RESERVE, 0), (XNG_STAT_LANESHORT, 0), (PAR_STAT_SWPEND, 0), (PAR_WITSTAT_SWREF, 0)]

/-- A request for an orderly switch-over changes two registers. -/
theorem State.switchRequest_chg {s t : State} {l : List (Fld × Nat)} (h : Chg s t l) :
    Chg s t.switchRequest.2 ((PAR_STAT_SWPEND, 0) :: (PAR_WITSTAT_SWREF, 0) :: l) := by
  unfold State.switchRequest
  split
  · unfold State.scheduleSwitch
    dsimp only
    have e : ∀ (u : State) (i : SetupItem), (u.share i).regs = u.regs := by intro u i; unfold State.share; split <;> rfl
    have e2 : ∀ k, (State.share { t with pair := { t.pair with switchAt := some k } } (.switchTick k)).regs = t.regs := fun k => e _ _
    exact ((h.same (e2 _)).setF _ _ _).mono (by intro x hx; simp only [List.mem_cons] at *; grind)
  · exact (h.bump _ _ _).mono (by intro x hx; simp only [List.mem_cons] at *; grind)

/-- The counts of the lanes change what shows them. -/
theorem State.laneCounts_chg {s t : State} {l : List (Fld × Nat)} (h : Chg s t l) : Chg s t.laneCounts (laneShows ++ l) := by
  unfold State.laneCounts
  dsimp only
  exact (((h.setF _ _ _).setF _ _ _).setF _ _ _).mono (by intro x hx; simp only [laneShows, List.cons_append, List.nil_append, List.mem_cons] at *; grind)

/-- The shortage of lanes changes what shows it, and may ask for a switch-over. -/
theorem State.laneShortage_chg {s t : State} {l : List (Fld × Nat)} (h : Chg s t l) : Chg s t.laneShortage (laneShows ++ l) := by
  unfold State.laneShortage
  dsimp only
  have c := (State.laneCounts_chg h).setB XNG_STAT_LANESHORT (t.laneCounts.cfg.tasks.any (fun d => t.laneCounts.taskShort d.no.val)) 0
  split
  · exact (State.switchRequest_chg c).mono (by intro x hx; simp only [laneShows, List.cons_append, List.nil_append, List.mem_cons] at *; grind)
  · exact c.mono (by intro x hx; simp only [laneShows, List.cons_append, List.nil_append, List.mem_cons] at *; grind)

/-- Retiring a lane leaves the Kerb alone. -/
theorem State.retireLane_kerb (s : State) (n : Nat) : (s.retireLane n).kerb = s.kerb := by
  have sh : ∀ (u : State) (i : SetupItem), (u.share i).kerb = u.kerb := by intro u i; unfold State.share; split <;> rfl
  have sw : ∀ u : State, u.switchRequest.2.kerb = u.kerb := by
    intro u
    unfold State.switchRequest
    split
    · exact sh _ _
    · rfl
  have ls : ∀ u : State, u.laneShortage.kerb = u.kerb := by
    intro u
    unfold State.laneShortage
    dsimp only
    split
    · exact sw _
    · rfl
  have ev : ∀ u : State, (u.evHw 8 [n]).kerb = u.kerb := by intro u; unfold State.evHw State.event; split <;> rfl
  unfold State.retireLane
  split
  · rfl
  · dsimp only
    rw [ls]
    generalize hw : State.evHw _ 8 [n] = w
    have e : w.kerb = s.kerb := by rw [← hw, ev]; rfl
    split
    · split <;> exact e
    · exact e

/-- A retired lane's role is retired, and of the registers only those of the lanes change. -/
theorem State.retireLane_does {s : State} (h : s.RegsOk) {n : Nat} (hn : n < 65536) :
    (s.retireLane n).laneRole n = 3 ∧
    Chg s (s.retireLane n) (laneShows ++ [(XNG_RETMAP0_MAP, 0), (XNG_RETMAP1_MAP, 0), (XNG_RETMAP2_MAP, 0), (XNG_LANESTAT_INTEST, n), (XNG_LANESTAT_ROLE, n)]) := by
  unfold State.retireLane
  split
  · next e => exact ⟨e, (Chg.refl h).mono (by simp)⟩
  · dsimp only
    generalize hf : (if n < 32 then XNG_RETMAP0_MAP else if n < 64 then XNG_RETMAP1_MAP else XNG_RETMAP2_MAP) = f
    have hf' : f = XNG_RETMAP0_MAP ∨ f = XNG_RETMAP1_MAP ∨ f = XNG_RETMAP2_MAP := by rw [← hf]; split <;> [left; (right; split <;> [left; right])] <;> rfl
    have c0 : Chg s (s.freeLane n) [] := (Chg.refl h).same rfl
    have c1 := c0.setF XNG_LANESTAT_ROLE 3 n
    have c2 := c1.setF XNG_LANESTAT_INTEST 0 n
    have r2 : (((s.freeLane n).setF XNG_LANESTAT_ROLE 3 n).setF XNG_LANESTAT_INTEST 0 n).laneRole n = 3 :=
      (getF_setF_ne _ _ c1.ok (key_ne_of_place hn hn (by decide))).trans (getF_setF_self _ _ _ _ c0.ok)
    generalize (((s.freeLane n).setF XNG_LANESTAT_ROLE 3 n).setF XNG_LANESTAT_INTEST 0 n) = u at *
    have c3 := c2.same (u := u.modLane n (fun l => { l with testing := false, cmdTest := false, full := false, subst := false, comparator := false, promote := false })) rfl
    have r3 : (u.modLane n (fun l => { l with testing := false, cmdTest := false, full := false, subst := false, comparator := false, promote := false })).laneRole n = 3 := r2
    generalize u.modLane n (fun l => { l with testing := false, cmdTest := false, full := false, subst := false, comparator := false, promote := false }) = w at *
    generalize (if bitOf (w.getF f) (n % 32) = true then w.getF f else w.getF f + 2 ^ (n % 32)) = v
    have c4 := c3.setF f v 0
    have r4 : (w.setF f v).laneRole n = 3 := by
      refine (getF_setF_ne _ _ c3.ok ?_).trans r3
      rcases hf' with rfl | rfl | rfl <;> exact key_ne_of_place hn (by decide) (by decide)
    generalize w.setF f v = x at *
    have c5 := c4.same (u := x.evHw 8 [n]) (State.event_regs ..)
    have r5 : (x.evHw 8 [n]).laneRole n = 3 := (getF_same (State.event_regs ..)).trans r4
    generalize x.evHw 8 [n] = y at *
    have one : ∀ z : State, z.regs = y.regs → z.laneShortage.laneRole n = 3 ∧ Chg s z.laneShortage
        (laneShows ++ [(XNG_RETMAP0_MAP, 0), (XNG_RETMAP1_MAP, 0), (XNG_RETMAP2_MAP, 0), (XNG_LANESTAT_INTEST, n), (XNG_LANESTAT_ROLE, n)]) := by
      intro z e
      have cz := c5.same e
      have k := State.laneShortage_chg (Chg.refl cz.ok)
      refine ⟨?_, (State.laneShortage_chg cz).mono ?_⟩
      · refine (k.only XNG_LANESTAT_ROLE n ?_).trans ((getF_same e).trans r5)
        intro q hq
        simp only [laneShows, List.append_nil, List.mem_cons, List.not_mem_nil, or_false] at hq
        rcases hq with rfl | rfl | rfl | rfl | rfl | rfl <;> (dsimp only; exact key_ne_of_place hn (by decide) (by decide))
      · intro q hq
        simp only [laneShows, List.mem_append, List.mem_cons, List.not_mem_nil, or_false] at *
        rcases hf' with rfl | rfl | rfl <;> grind
    split
    · split
      · exact one _ rfl
      · exact one _ rfl
    · exact one _ rfl

end Sys2Proof.Machine
end

