-- ==== Sys2Proof/Tests/Slice0.lean ====
section
/-! SUPPORT. The model's own tests: a witness for the hypotheses of every statement, and the smoke test of well-formedness. -/
namespace Sys2Proof.Tests
open Sys2Proof Sys2Proof.Machine

set_option Elab.async false
set_option maxRecDepth 100000

/-! ### A small machine that executes one instruction -/

/-- Task 3: one lane in quarter 0, its code at the start of the store. -/
def dT : TaskDef :=
  { no := 3, kind := 0, period := 16, prio := 1, phase := 0, lanes := 1, quarter := 0, safety := false, spec := true, outmode := false, policy := false,
    entries := [0], scratch := [0], hasLive := true, modesets := [], inputs := [], outputs := [], plainReadFirst := false, inBase := 0x1000000, inStat := 0x2000000,
    outBase := 0x3000000, outStat := 0x4000000, specLead := 0, minHit := 0, confMode := false, backoff := 0, dataSets := [], suppl := [], triggers := [], reads := [] }
/-- A configuration with that task and an executable area of 16 KiB. -/
def pT : Pkg := { Pkg.empty with tasks := [dT], codeLen := 0x4000 }
/-- A running module with that configuration: lanes may fetch from store A, load from and store to the state space, and read devices. -/
def mT : State :=
  let s : State := State.reset.modKerb (fun k => { k with phase := .run })
  let s : State := { s with pkgs := [(0, pT)] }
  let put (s : State) (i base last : Nat) : State :=
    (((s.setF ACU_RBASELO_BASE (base / 4096) i).setF ACU_RBASEHI_BASE (base / 2 ^ 32) i).setF ACU_RLIMLO_LIMIT (last / 4096) i).setF ACU_RLIMHI_LIMIT (last / 2 ^ 32) i
  let s := ((put s 0 0x8000000000 0x803FFFF000).setF ACU_RATTR_EXEC 1 0).setF ACU_RATTR_EN 1 0
  let s := (((put s 1 0 0x7FFFFFF000).setF ACU_RATTR_RD 1 1).setF ACU_RATTR_WR 1 1).setF ACU_RATTR_EN 1 1
  ((((put s 2 0xF000000000 0xFFFFFFF000).setF ACU_RATTR_RD 1 2).setF ACU_RATTR_DEV 1 2).setF ACU_RATTR_EN 1 2).setF XNG_CTL_DIVEVT 0
/-- The stream that names the task's first stream. -/
def k0 : Strm := ⟨3, 0, .real⟩
/-- The stream at the start of a cycle, on lane 0. -/
def stT : StreamRt := { StreamRt.start dT 0 with lane := some 0 }
/-- The execution that holds one stream. -/
def rT (st : StreamRt) : Run := { mT.newRun dT .real 7 7 [] [] with streams := [st], st := .on }
/-- The machine with a word of code at the stream's PC. -/
def sT (w : Nat) (st : StreamRt) : State :=
  let s : State := { mT with sq := { mT.sq with code := memWrL mT.sq.code (0x8000000000 + st.pc) (natLe 4 w) } }
  s.putRun (rT st)
/-- Every field of `AtWord`, decided. -/
def atB (s : State) (k : Strm) (e : Env) (row : FlxRow) (r : Run) (d : TaskDef) (st : StreamRt) (i : FlxW) : Bool :=
  decide (s.run? k.ctx k.task.val = some r) && decide (s.taskDef? k.task.val = some d) && decide (r.store = s.actStore) && decide (r.streams[k.stream.val]? = some st) &&
  s.mayStep r st && decide (r.st = .on) && decide (s.objectAt st = none) &&
  (match (met s e r st).s.fetchAt e.newRules r.task st with | .got j => decide (j = i) | _ => false) && decide (i.row = some row) && decide (mismatch e.item (i.items st) = none) &&
  decide (i.illegal = none)
theorem atB_ok {s : State} {k : Strm} {e : Env} {row : FlxRow} {r : Run} {d : TaskDef} {st : StreamRt} {i : FlxW} (h : atB s k e row r d st i = true) :
    AtWord s k e row r d st i := by
  simp only [atB, Bool.and_eq_true, decide_eq_true_eq] at h
  obtain ⟨⟨⟨⟨⟨⟨⟨⟨⟨⟨a, b⟩, c⟩, d⟩, e⟩, f⟩, g⟩, i⟩, j⟩, k⟩, l⟩ := h
  refine ⟨a, b, c, d, e, f, g, ?_, j, k, l⟩
  split at i
  · rename_i j hj; rw [hj, of_decide_eq_true i]
  · cases i
/-- The small machine stands at an instruction of the row. -/
abbrev At (row : FlxRow) (w : Nat) (st : StreamRt) : Prop := AtInstr (sT w st) k0 .quiet row (rT st) dT st ⟨none, w⟩
theorem at_ok {row : FlxRow} {w : Nat} {st : StreamRt} (h : atB (sT w st) k0 .quiet row (rT st) dT st ⟨none, w⟩ = true) (h2 : st.sh = none) : At row w st :=
  ⟨atB_ok h, by rw [h2]; rfl, by cases st.flying <;> rfl⟩

/-- Every word of a list stands at its row in the small machine. -/
abbrev AllAt (l : List (FlxRow × Nat)) (st : StreamRt) : Prop := ∀ p ∈ l, At p.1 p.2 st
def allB (l : List (FlxRow × Nat)) (st : StreamRt) : Bool := l.all (fun p => atB (sT p.2 st) k0 .quiet p.1 (rT st) dT st ⟨none, p.2⟩) && decide (st.sh = none)
theorem all_ok {l : List (FlxRow × Nat)} {st : StreamRt} (h : allB l st = true) : AllAt l st := by
  unfold allB at h
  rw [Bool.and_eq_true, List.all_eq_true] at h
  exact fun p hp => at_ok (h.1 p hp) (of_decide_eq_true h.2)

/-- What a part of an instruction hands over, if it goes on. -/
def got {α : Type} (x : XR α) : Option (α × State × Run × StreamRt) :=
  match x with
  | .ok a m => some (a, m.s, m.r, m.st)
  | .xcp _ _ => none
theorem got_ok {α : Type} {x : XR α} {a : α} {m : Mx} (h : got x = some (a, m.s, m.r, m.st)) : x = .ok a m := by
  cases x with
  | ok b n =>
    simp only [got, Option.some.injEq, Prod.mk.injEq] at h
    obtain ⟨rfl, h1, h2, h3⟩ := h
    cases m; cases n; simp_all
  | xcp _ _ => cases h
theorem got_some {α : Type} {x : XR α} (h : (got x).isSome = true) : ∃ a m, x = .ok a m := by
  cases x <;> simp [got] at h ⊢
/-- What is fixed of a word in the small machine, and what it works on. -/
abbrev cT (w : Nat) (st : StreamRt) : Cx := instrCx k0 .quiet (rT st) dT st ⟨none, w⟩
abbrev xT (w : Nat) (st : StreamRt) : Mx := met (sT w st) .quiet (rT st) st
theorem kept_real (r : Run) : kept .real r := by simp [kept]

/-! Words of format S: FN in bits 25 to 20. -/
theorem witness_FlxRegisterMoves : AllAt [(.notl, 0x00300000), (.setl, 0x00400000), (.clrl, 0x00500000), (.ldbit, 0x0060003F), (.stbit, 0x0070003F),
    (.xab, 0x00800000), (.movab, 0x00900000), (.movba, 0x00A00000), (.ldfl, 0x00F00000), (.clrf, 0x01000000), (.nop, 0x00000000), (.timew, 0x01100000)] stT ∧ kept .real (rT stT) :=
  ⟨all_ok (by decide +kernel), kept_real _⟩

/-- LOG and LOGP words with a byte of the scratch window as the operand (AM = 6), NEG = 1 in two of them; POPL with one entry on NS. -/
def bitWords : List (FlxRow × Nat) := [(.logLd, 0x07000000), (.logAnd, 0x07480000), (.logOr, 0x07100000), (.logXor, 0x07580000), (.logpAnd, 0x0B080000), (.logpOr, 0x0B100000), (.logpXor, 0x0B180000)]
/-- A stream with 15 entries on NS. -/
def st15 : StreamRt := { stT with ns := List.replicate 15 ⟨true, 1, false⟩ }
theorem witness_FlxBitLogic : AllAt bitWords st15 ∧ (∀ p ∈ bitWords, ∃ b m, (xT p.2 st15).bool (cT p.2 st15) = .ok b m ∧ kept .real m.r ∧ m.st.ns.length < 16) ∧
    At .popl 0x00200000 st15 ∧ st15.ns = ⟨true, 1, false⟩ :: List.replicate 14 ⟨true, 1, false⟩ :=
  ⟨all_ok (by decide +kernel), fun p hp => ⟨false, xT p.2 st15, got_ok ((by decide +kernel : ∀ p ∈ bitWords, got ((xT p.2 st15).bool (cT p.2 st15)) = some (false, (xT p.2 st15).s, rT st15, st15)) p hp),
    kept_real _, (by decide : st15.ns.length < 16)⟩, all_ok (l := [(.popl, 0x00200000)]) (by decide +kernel) _ (List.mem_singleton.mpr rfl), rfl⟩

/-- LOG ST, S and R to the scratch window, with LA = 1 and LA = 0. -/
def storeWords : List (FlxRow × Nat) := [(.logSt, 0x07600000), (.logS, 0x07280000), (.logR, 0x07300000)]
def stA : StreamRt := { stT with la := true }
theorem witness_FlxBitStores : ∀ st ∈ [stT, stA], AllAt storeWords st ∧ ∀ p ∈ storeWords, (xT p.2 st).operand (cT p.2 st) 1 1 false true = .ok (.scr 0) (xT p.2 st) := by
  have h : ∀ st ∈ [stT, stA], allB storeWords st = true ∧ ∀ p ∈ storeWords, got ((xT p.2 st).operand (cT p.2 st) 1 1 false true) = some (.scr 0, (xT p.2 st).s, rT st, st) := by decide +kernel
  exact fun st hs => ⟨all_ok (h st hs).1, fun p hp => got_ok ((h st hs).2 p hp)⟩

/-- LOGP at 16 entries, POPL at none, END at one. -/
def st16 : StreamRt := { stT with ns := List.replicate 16 ⟨true, 1, false⟩ }
def st1 : StreamRt := { stT with ns := [⟨true, 1, false⟩] }
def logps : List (FlxRow × Nat) := [(.logpAnd, 0x0B080000), (.logpOr, 0x0B100000), (.logpXor, 0x0B180000)]
theorem witness_NestingStackFaults : AllAt logps st16 ∧ (∀ p ∈ logps, ∃ b m, (xT p.2 st16).bool (cT p.2 st16) = .ok b m) ∧ st16.ns.length = 16 ∧
    AllAt [(.popl, 0x00200000)] stT ∧ stT.ns = [] ∧ AllAt [(.endS, 0x00100000)] st1 ∧ st1.ns ≠ [] :=
  ⟨all_ok (by decide +kernel), fun p hp => got_some ((by decide +kernel : ∀ p ∈ logps, (got ((xT p.2 st16).bool (cT p.2 st16))).isSome = true) p hp), by decide,
    all_ok (by decide +kernel), rfl, all_ok (by decide +kernel), by decide⟩

/-- Loads from the state space through W0 = 0 (AM = 2), and LEA. -/
def loads : List (FlxRow × Nat) := [(.ldw, 0x0D200000), (.ldwb, 0x17580008), (.selw, 0x7A887FFF)]
theorem witness_FlxLoads : AllAt loads stT ∧ (∀ p ∈ loads, ∃ v m, (xT p.2 stT).source (cT p.2 stT) = .ok v m ∧ kept .real m.r) ∧
    AllAt [(.lea, 0x1D403FF8)] stT ∧ (∃ v m, (xT 0x1D403FF8 stT).address (cT 0x1D403FF8 stT) 8 8 = .ok v m) :=
  ⟨all_ok (by decide +kernel), fun p hp => by
    obtain ⟨a, m, e⟩ := got_some ((by decide +kernel : ∀ p ∈ loads, (got ((xT p.2 stT).source (cT p.2 stT))).isSome = true) p hp)
    exact ⟨a, m, e, kept_real _⟩, all_ok (by decide +kernel), got_some (by decide +kernel)⟩

/-- The task with an output signal 0, and a store with tag 0 in its directory: output signal 0 of task 3 as U8. -/
def dTag : TaskDef := { dT with outputs := [0] }
def sTag : State :=
  let s := sT 0x7C280000 stT
  { s with pkgs := [(0, { pT with tasks := [dTag] })],
           sq := { s.sq with code := memWrL (memWrL s.sq.code 0x8020000000 (natLe 8 0x8010000001)) 0x8010000000 (natLe 8 0x3055 ++ natLe 8 0) } }
abbrev xTag : Mx := met sTag .quiet (rT stT) stT
abbrev cTag : Cx := instrCx k0 .quiet (rT stT) dTag stT ⟨none, 0x7C280000⟩
/-- The machine as the walk to tag 0 leaves it. -/
def mTag : Mx := match xTag.tagEntry cTag (cTag.named xTag 0) with
  | .ok _ m => m
  | .xcp _ m => m
theorem witness_FlxLoads_status : AtInstr sTag k0 .quiet .lstat (rT stT) dTag stT ⟨none, 0x7C280000⟩ ∧ xTag.tagEntry cTag (cTag.named xTag 0) = .ok (0x3055, 0) mTag ∧ teSignal 0x3055 = true ∧
    mTag.check cTag .rd (mTag.s.statAddr 3 0x3055 0) 1 = .ok () mTag ∧ mTag.load cTag (mTag.s.statAddr 3 0x3055 0) 1 = .ok [0] mTag :=
  ⟨⟨atB_ok (by decide +kernel), rfl, rfl⟩, got_ok (by decide +kernel), by decide +kernel, got_ok (by decide +kernel), got_ok (by decide +kernel)⟩

/-- STW and STWB to W1, to the last word of the state space below 16 KiB, and to the end of the scratch window. -/
def stores : List (FlxRow × Nat × Opnd) := [(.stw, 0x12188000, .reg 1), (.stwb, 0x1A188000, .reg 1), (.stw, 0x11383FFC, .sq 0x3ffc), (.stwb, 0x19383FFC, .sq 0x3ffc),
    (.stw, 0x13407FF8, .scr 0x7ff8), (.stwb, 0x1B407FF8, .scr 0x7ff8)]
theorem witness_FlxStores : AllAt (stores.map (fun p => (p.1, p.2.1))) stT ∧ ∀ p ∈ stores, (xT p.2.1 stT).operand (cT p.2.1 stT) (tySize (FlxW.ty ⟨none, p.2.1⟩)) (tySize (FlxW.ty ⟨none, p.2.1⟩)) false true = .ok p.2.2 (xT p.2.1 stT) :=
  ⟨all_ok (by decide +kernel), fun p hp => got_ok ((by decide +kernel : ∀ p ∈ stores, got ((xT p.2.1 stT).operand (cT p.2.1 stT) (tySize (FlxW.ty ⟨none, p.2.1⟩)) (tySize (FlxW.ty ⟨none, p.2.1⟩)) false true) = some (p.2.2, (xT p.2.1 stT).s, rT stT, stT)) p hp)⟩

/-- The word operations on an immediate of type S16. -/
def wordOps : List (FlxRow × Nat) := [(.addw, 0x22900005), (.subw, 0x26900005), (.mulw, 0x2A900005), (.divw, 0x2E900005), (.andw, 0x36900005), (.orw, 0x3A900005), (.xorw, 0x3E900005), (.minw, 0x42900005), (.maxw, 0x46900005), (.limit, 0x4A900005), (.shl, 0x4E900005), (.shr, 0x52900005), (.rol, 0x56900005), (.ror, 0x5A900005), (.ceq, 0x62900005), (.cne, 0x66900005), (.cgt, 0x6A900005), (.cge, 0x6E900005), (.clt, 0x72900005), (.cle, 0x76900005)]
theorem witness_FlxWordOperations : AllAt wordOps stT ∧ (∀ p ∈ wordOps, (xT p.2 stT).source (cT p.2 stT) = .ok 5 (xT p.2 stT)) ∧
    (resAdd 2 0 0 5).trap = false ∧ (resSub 2 0 0 5).trap = false ∧ (resMul 2 0 0 5).trap = false ∧ (resDiv 2 0 0 5).trap = false :=
  ⟨all_ok (by decide +kernel), fun p hp => got_ok ((by decide +kernel : ∀ p ∈ wordOps, got ((xT p.2 stT).source (cT p.2 stT)) = some (5, (xT p.2 stT).s, rT stT, stT)) p hp),
    by decide +kernel, by decide +kernel, by decide +kernel, by decide +kernel⟩

theorem witness_FlxUnary : AllAt [(.notw, 0x00B00001), (.negw, 0x00C00001), (.absw, 0x00D00001), (.sqrt, 0x01800009), (.cvt, 0x00E00021)] stT ∧ (resNeg 1 0 0).trap = false ∧ (resAbs 1 0 0).trap = false :=
  ⟨all_ok (by decide +kernel), by decide +kernel, by decide +kernel⟩

/-- Scratch windows that hold a table of one U8 entry, a LIN table of two F32 points (0, 0) and (1, 1), a timer, a counter and an edge byte. -/
def stTbl : StreamRt := { stT with scr := memWrL [] 0 [1, 0, 0, 0, 0, 0, 0, 0, 0x7F] }
def stLin : StreamRt := { stT with scr := memWrL [] 0 [2, 0, 0, 0, 0, 0, 0, 0, 0, 0, 0, 0, 0, 0, 0, 0, 0, 0, 0x80, 0x3F, 0, 0, 0x80, 0x3F] }
def stMv : StreamRt := { stT with wa := 0x1000, wb := 0x10 }
theorem witness_FlxTables : AllAt [(.tbl, 0x83280000)] stTbl ∧
    (xT 0x83280000 stTbl).table (cT 0x83280000 stTbl) 1 65536 = .ok (.scr 0, 1) (xT 0x83280000 stTbl) ∧
    (xT 0x83280000 stTbl).more (cT 0x83280000 stTbl) (.scr 0) 8 1 = .ok [0x7F] (xT 0x83280000 stTbl) ∧
    AllAt [(.lin, 0x87480000)] stLin ∧ (xT 0x87480000 stLin).table (cT 0x87480000 stLin) 2 32 = .ok (.scr 0, 2) (xT 0x87480000 stLin) ∧
    (∃ bs, (xT 0x87480000 stLin).more (cT 0x87480000 stLin) (.scr 0) 8 16 = .ok bs (xT 0x87480000 stLin) ∧ linOrdered 9 (linPairs 4 2 bs) = true) ∧
    AllAt [(.movb, 0x8B280000)] stT ∧ stT.wb.toNat % 2 ^ 20 = 0 ∧ AllAt [(.movb, 0x8B280000)] stMv ∧
    (xT 0x8B280000 stMv).operand (cT 0x8B280000 stMv) 16 1 true false = .ok (.scr 0) (xT 0x8B280000 stMv) ∧
    (sT 0x8B280000 stMv).laneRefuses false 3 .wr 0x1000 16 = none :=
  ⟨all_ok (by decide +kernel), got_ok (by decide +kernel), got_ok (by decide +kernel), all_ok (by decide +kernel), got_ok (by decide +kernel),
    ⟨(stLin.scr.map Prod.snd).take 0 ++ scrBytes stLin.scr 8 16, got_ok (by decide +kernel), by decide +kernel⟩,
    all_ok (by decide +kernel), by decide, all_ok (by decide +kernel), got_ok (by decide +kernel), by decide +kernel⟩

def stRec (type : Byte) : StreamRt := { stT with scr := memWrL [] 0 [type] }
def timers : List (FlxRow × Nat × Byte) := [(.ton, 0x93000000, 1), (.tof, 0x97000000, 2), (.tp, 0x9B000000, 3)]
theorem witness_FlxTimers : ∀ p ∈ timers, At p.1 p.2.1 (stRec p.2.2) ∧
    ∃ bs, (xT p.2.1 (stRec p.2.2)).recordOp (cT p.2.1 (stRec p.2.2)) 32 8 = .ok (.scr 0, bs) (xT p.2.1 (stRec p.2.2)) ∧ recNum bs 0 1 = p.2.2.toNat ∧ recNum bs 1 1 < 8 ∧ recNum bs 2 6 = 0 ∧ recNum bs 24 8 = 0 := by
  have h : ∀ p ∈ timers, allB [(p.1, p.2.1)] (stRec p.2.2) = true ∧
      got ((xT p.2.1 (stRec p.2.2)).recordOp (cT p.2.1 (stRec p.2.2)) 32 8) = some ((.scr 0, p.2.2 :: List.replicate 31 0), (xT p.2.1 (stRec p.2.2)).s, rT (stRec p.2.2), stRec p.2.2) ∧
      recNum (p.2.2 :: List.replicate 31 0) 0 1 = p.2.2.toNat := by decide +kernel
  exact fun p hp => ⟨all_ok (h p hp).1 _ (List.mem_singleton.mpr rfl), _, got_ok (h p hp).2.1, (h p hp).2.2, by simp [recNum, leNat], by simp [recNum, leNat], by simp [recNum, leNat]⟩

def counters : List (FlxRow × Nat × Byte) := [(.ctu, 0x9F000000, 0x11), (.ctd, 0xA3000000, 0x12), (.ctud, 0xA7000000, 0x13), (.crst, 0xAB000000, 0x13), (.cload, 0xAF000000, 0x11)]
theorem witness_FlxCounters : ∀ p ∈ counters, At p.1 p.2.1 (stRec p.2.2) ∧
    ∃ bs, (xT p.2.1 (stRec p.2.2)).recordOp (cT p.2.1 (stRec p.2.2)) 16 8 = .ok (.scr 0, bs) (xT p.2.1 (stRec p.2.2)) ∧ recNum bs 0 1 = p.2.2.toNat ∧ recNum bs 1 1 < 16 ∧ recNum bs 2 6 = 0 := by
  have h : ∀ p ∈ counters, allB [(p.1, p.2.1)] (stRec p.2.2) = true ∧
      got ((xT p.2.1 (stRec p.2.2)).recordOp (cT p.2.1 (stRec p.2.2)) 16 8) = some ((.scr 0, p.2.2 :: List.replicate 15 0), (xT p.2.1 (stRec p.2.2)).s, rT (stRec p.2.2), stRec p.2.2) ∧
      recNum (p.2.2 :: List.replicate 15 0) 0 1 = p.2.2.toNat := by decide +kernel
  exact fun p hp => ⟨all_ok (h p hp).1 _ (List.mem_singleton.mpr rfl), _, got_ok (h p hp).2.1, (h p hp).2.2, by simp [recNum, leNat], by simp [recNum, leNat]⟩

def edges : List (FlxRow × Nat) := [(.edgp, 0xB3000000), (.edgn, 0xB7000000)]
theorem witness_FlxEdges : AllAt edges (stRec 1) ∧ ∀ p ∈ edges, (xT p.2 (stRec 1)).recordOp (cT p.2 (stRec 1)) 1 1 = .ok (.scr 0, [if true then 1 else 0]) (xT p.2 (stRec 1)) :=
  ⟨all_ok (by decide +kernel), fun p hp => got_ok ((by decide +kernel : ∀ p ∈ edges, got ((xT p.2 (stRec 1)).recordOp (cT p.2 (stRec 1)) 1 1) = some ((.scr 0, [1]), (xT p.2 (stRec 1)).s, rT (stRec 1), stRec 1)) p hp)⟩

/-! Branches of format B: OFF in bits 23 to 0, COND in 25 to 24; the slot holds a NOP. -/
def brs : List (FlxRow × Nat) := [(.jmp, 0xC0000010), (.call, 0xC4000010), (.call, 0xC5000010), (.call, 0xC6000010), (.ret, 0x01600000)]
def stD (depth : Nat) (la : Bool) : StreamRt := { stT with depth := depth, la := la }
theorem witness_FlxBranches : (∀ st ∈ [stD 254 true, stD 1 false], AllAt brs st ∧ ∀ p ∈ brs, branchBad (cT p.2 st) (xT p.2 st) = none) ∧
    condHolds (FlxW.cond ⟨none, 0xC5000010⟩) true = true ∧ condHolds (FlxW.cond ⟨none, 0xC5000010⟩) false = false ∧
    (AllAt [(.loop, 0xC8000002), (.loop, 0xC8FFF002), (.loopw, 0xCC100002)] stT ∧ FlxW.cnt ⟨none, 0xC8000002⟩ = 0 ∧ FlxW.cnt ⟨none, 0xC8FFF002⟩ = 4095 ∧ stT.reg 1 % 2 ^ 32 = 0) ∧
    AllAt [(.loopw, 0xCCE00002)] { stT with w := stT.w.set 14 1 } := by
  have h : ∀ st ∈ [stD 254 true, stD 1 false], allB brs st = true ∧ ∀ p ∈ brs, branchBad (cT p.2 st) (xT p.2 st) = none := by decide +kernel
  exact ⟨fun st hs => ⟨all_ok (h st hs).1, (h st hs).2⟩, by decide, by decide, ⟨all_ok (by decide +kernel), by decide, by decide, by decide⟩, all_ok (by decide +kernel)⟩

theorem witness_FlxSteering : AllAt [(.endS, 0x00100000), (.sync, 0x01500000), (.modeset, 0x0120000F), (.setev, 0x013000FF), (.diag, 0x0140FFFF), (.trap, 0x017000FF)] stT ∧ stT.ns = [] :=
  ⟨all_ok (by decide +kernel), rfl⟩

/-- A stream whose W1 holds the base of the device space. -/
def stDev : StreamRt := { stT with w := stT.w.set 1 0xF000000000 }
/-- Two copies that differ at the first read and agree at the second. -/
def eDiv : Env := { Env.quiet with prim := .changed 1 }
def lives : List (FlxRow × Nat) := [(.ldlive, 0xB9388000), (.ldliveh, 0xBD388000)]
abbrev cE (e : Env) (w : Nat) : Cx := instrCx k0 e (rT stDev) dT stDev ⟨none, w⟩
theorem witness_FlxLiveReads : ∀ e ∈ [Env.quiet, eDiv], ∀ p ∈ lives, AtInstr (sT p.2 stDev) k0 e p.1 (rT stDev) dT stDev ⟨none, p.2⟩ ∧
    (xT p.2 stDev).address (cE e p.2) 7 4 = .ok (0xF000000000, false) (xT p.2 stDev) ∧ (xT p.2 stDev).check (cE e p.2) .live 0xF000000000 4 = .ok () (xT p.2 stDev) ∧
    ((sT p.2 stDev).bump XNG_DIVCNT_DIVCNT).flag XNG_CTL_DIVEVT = false ∧
    (liveVal 7 ((sT p.2 stDev).deviceRead 0xF000000000) e.prim = liveVal 7 ((sT p.2 stDev).deviceRead 0xF000000000) e.shad ↔ e = .quiet) ∧
    liveVal 7 ((sT p.2 stDev).deviceRead 0xF000000000) e.prim2 = liveVal 7 ((sT p.2 stDev).deviceRead 0xF000000000) e.shad2 := by
  have h : ∀ e ∈ [Env.quiet, eDiv], ∀ p ∈ lives, atB (sT p.2 stDev) k0 e p.1 (rT stDev) dT stDev ⟨none, p.2⟩ = true ∧
    got ((xT p.2 stDev).address (cE e p.2) 7 4) = some ((0xF000000000, false), (xT p.2 stDev).s, rT stDev, stDev) ∧
    got ((xT p.2 stDev).check (cE e p.2) .live 0xF000000000 4) = some ((), (xT p.2 stDev).s, rT stDev, stDev) ∧
    ((sT p.2 stDev).bump XNG_DIVCNT_DIVCNT).flag XNG_CTL_DIVEVT = false ∧
    (liveVal 7 ((sT p.2 stDev).deviceRead 0xF000000000) e.prim = liveVal 7 ((sT p.2 stDev).deviceRead 0xF000000000) e.shad ↔ e = .quiet) ∧
    liveVal 7 ((sT p.2 stDev).deviceRead 0xF000000000) e.prim2 = liveVal 7 ((sT p.2 stDev).deviceRead 0xF000000000) e.shad2 := by decide +kernel
  exact fun e he p hp => ⟨⟨atB_ok (h e he p hp).1, rfl, rfl⟩, got_ok (h e he p hp).2.1, got_ok (h e he p hp).2.2.1, (h e he p hp).2.2.2⟩

def stW : StreamRt := { stT with st := .sync }
theorem witness_SyncRelease : (sT 0 stW).run? .real 3 = some (rT stW) ∧ (∀ x ∈ (rT stW).streams, x.st ≠ .go) ∧ (∃ x ∈ (rT stW).streams, x.st = .sync) ∧
    (sT 0 stT).run? .real 3 = some (rT stT) ∧ (∃ x ∈ (rT stT).streams, x.st = .go) := by decide +kernel

/-- A stream in a MODESET shadow. -/
def stSh : StreamRt := { stT with sh := some ⟨1, 2⟩ }
theorem witness_ShadowBarsControl : ∀ p ∈ [(FlxRow.jmp, 0xC0000010), (.call, 0xC4000010), (.ret, 0x01600000), (.loop, 0xC8000002), (.loopw, 0xCC100002), (.endS, 0x00100000), (.sync, 0x01500000), (.modeset, 0x0120000F)],
    AtWord (sT p.2 stSh) k0 .quiet p.1 (rT stSh) dT stSh ⟨none, p.2⟩ := by
  have h : ∀ p ∈ [(FlxRow.jmp, 0xC0000010), (.call, 0xC4000010), (.ret, 0x01600000), (.loop, 0xC8000002), (.loopw, 0xCC100002), (.endS, 0x00100000), (.sync, 0x01500000), (.modeset, 0x0120000F)],
    atB (sT p.2 stSh) k0 .quiet p.1 (rT stSh) dT stSh ⟨none, p.2⟩ = true := by decide +kernel
  exact fun p hp => atB_ok (h p hp)

theorem witness_CallDepth : (AllAt [(.call, 0xC4000010)] (stD 255 true) ∧ branchBad (cT 0xC4000010 (stD 255 true)) (xT 0xC4000010 (stD 255 true)) = none) ∧
    (AllAt [(.call, 0xC4000010), (.ret, 0x01600000)] (stD 254 true) ∧ branchBad (cT 0xC4000010 (stD 254 true)) (xT 0xC4000010 (stD 254 true)) = none) ∧
    (AllAt [(.ret, 0x01600000)] (stD 0 true) ∧ branchBad (cT 0x01600000 (stD 0 true)) (xT 0x01600000 (stD 0 true)) = none) ∧ condHolds (FlxW.cond ⟨none, 0xC4000010⟩) true = true :=
  ⟨⟨all_ok (by decide +kernel), by decide +kernel⟩, ⟨all_ok (by decide +kernel), by decide +kernel⟩, ⟨all_ok (by decide +kernel), by decide +kernel⟩, by decide⟩

/-- S8 at its limits; a divisor of 0 and one of −1; traps with TRAPV = 1. -/
theorem witness_IntegerArithmetic : (tySU 1 = true ∨ (1 : Nat) = 11) ∧ (tySU 8 = true ∨ (8 : Nat) = 11) ∧ (tySU 11 = true ∨ (11 : Nat) = 11) ∧ modeSat 0 = false ∧ (∃ m, modeSat m = true) ∧
    tyVal 1 0x80 + tyVal 1 0xFF < tyMin 1 ∧ tyMax 1 < tyVal 1 0x7F + tyVal 1 1 ∧ tyMin 1 ≤ tyVal 1 0x7F + tyVal 1 0 ∧ tyVal 1 0x7F + tyVal 1 0 ≤ tyMax 1 := by decide +kernel
theorem witness_IntegerDivision : (tySU 1 = true ∨ (1 : Nat) = 11) ∧ tyVal 1 0xFF ≠ 0 ∧ tyVal 1 0 = 0 ∧ modeTrapv 8 = true ∧ modeTrapv 0 = false ∧ (resDiv 1 0 0x80 0xFF).v = some true ∧ (resDiv 1 0 0x7F 0xFF).v = some false := by decide +kernel
/-- With TRAPV = 1 and WA = −128: adding, subtracting 1, multiplying by and dividing by −1; NEG and ABS. -/
def stTr : StreamRt := { stT with mode := 8, wa := 0xFFFFFFFFFFFFFF80 }
def traps : List (FlxRow × Nat) := [(.addw, 0x22887FFF), (.subw, 0x26880001), (.mulw, 0x2A887FFF), (.divw, 0x2E887FFF)]
theorem witness_ArithmeticTrap : AllAt (traps ++ [(.negw, 0x00C00001), (.absw, 0x00D00001)]) stTr ∧ (∀ p ∈ traps, ∃ v, (xT p.2 stTr).source (cT p.2 stTr) = .ok v (xT p.2 stTr)) ∧
    (resAdd 1 8 stTr.wa.toNat (2 ^ 64 - 1)).trap = true ∧ (resSub 1 8 stTr.wa.toNat 1).trap = true ∧ (resMul 1 8 stTr.wa.toNat (2 ^ 64 - 1)).trap = true ∧ (resDiv 1 8 stTr.wa.toNat (2 ^ 64 - 1)).trap = true ∧
    (resNeg 1 8 stTr.wa.toNat).trap = true ∧ (resAbs 1 8 stTr.wa.toNat).trap = true := by
  have h : ∀ p ∈ traps, got ((xT p.2 stTr).source (cT p.2 stTr)) = some (if p.1 = .subw then 1 else 2 ^ 64 - 1, (xT p.2 stTr).s, rT stTr, stTr) := by decide +kernel
  exact ⟨all_ok (by decide +kernel), fun p hp => ⟨_, got_ok (h p hp)⟩, by decide +kernel⟩
theorem witness_FlagFrame : ¬((4 : Nat) = 0 ∨ (4 : Nat) = 1 ∨ (4 : Nat) = 2 ∨ (4 : Nat) = 3 ∨ (4 : Nat) = 5 ∨ (4 : Nat) = 6) ∧ ((0xE0 : BitVec 8).getLsbD 7 = true) := by decide
theorem witness_FlxFrame : (∃ v m, (xT 0x0D200000 stT).source (cT 0x0D200000 stT) = .ok v m) ∧ (∃ b m, (xT 0x07000000 stT).bool (cT 0x07000000 stT) = .ok b m) ∧
    (∃ o m, (xT 0x11380000 stT).operand (cT 0x11380000 stT) 4 4 false true = .ok o m) ∧ (∃ p m, (xT 0x1D400000 stT).address (cT 0x1D400000 stT) 8 8 = .ok p m) ∧
    (∃ x m, (xT 0x93000000 stT).recordOp (cT 0x93000000 stT) 32 8 = .ok x m) ∧ (sT 0 stT).RegsOk :=
  ⟨got_some (by decide +kernel), got_some (by decide +kernel), got_some (by decide +kernel), got_some (by decide +kernel), got_some (by decide +kernel), by decide +kernel⟩

/-! ### Running modules with some register fields put -/

/-- A running module. -/
def mR : State := State.reset.modKerb (fun k => { k with phase := .run })
/-- With instances of register fields put. -/
def mk (l : List (Fld × Nat × Nat)) : State := l.foldl (fun s p => s.setF p.1 p.2.2 p.2.1) mR
/-- Measurements: bus voltage, the two temperature words, flow. -/
def meas (bus temp temp2 flow : Nat) : PwrMeas := ⟨0, 0, BitVec.ofNat 32 bus, BitVec.ofNat 32 temp, BitVec.ofNat 32 temp2, BitVec.ofNat 32 flow, 0⟩

theorem witness_KerbSetDecisions : let s := mk [(KRB_HBCFG_WATCHED, 0, 0x80), (PWR_STAT_MAINSA, 0, 0), (PWR_STAT_MAINSB, 0, 0)]
    s.RegsOk ∧ s.kerb.phase ≠ .off ∧ s.Runs ∧ bitOf (s.getF KRB_HBCFG_WATCHED) 7 = true ∧ s.getF KRB_HBCFG_TIMEOUT ≤ tabGet 0 s.kerb.miss 7 + s.getF KRB_HBCFG_TIMEOUT ∧
    s.getF PWR_STAT_MAINSA = 0 ∧ s.getF PWR_STAT_MAINSB = 0 ∧ (meas 3599 0 0 0).bus.toNat % 2 ^ 16 < 3600 ∧ 1250 ≤ sgn 16 ((meas 0 (1250 * 2 ^ 16) 0 0).temp.toNat / 2 ^ 16) ∧
    1050 ≤ sgn 16 ((meas 0 0 (1050 * 2 ^ 16) 0).temp2.toNat / 2 ^ 16) ∧ 950 ≤ sgn 16 ((meas 0 0 950 0).temp2.toNat % 2 ^ 16) := by decide +kernel

theorem witness_SupplyEvents : mR.RegsOk ∧ mR.kerb.sag < sagOf ((meas 4599 0 0 0).bus.toNat % 2 ^ 16) ∧
    (let s := mR.modKerb (fun k => { k with sag := 4, therm := 4 }); s.RegsOk ∧ 0 < s.kerb.sag ∧ sagFloor (s.kerb.sag - 1) + 100 ≤ (meas 4100 0 0 0).bus.toNat % 2 ^ 16 ∧
      0 < s.kerb.therm ∧ sgn 16 ((meas 0 (1000 * 2 ^ 16) 0 0).temp.toNat / 2 ^ 16) ≤ 1000 ∧ sgn 16 ((meas 0 0 (900 * 2 ^ 16) 0).temp2.toNat / 2 ^ 16) ≤ 900) ∧
    mR.kerb.therm < 4 ∧ 1050 ≤ sgn 16 ((meas 0 (1050 * 2 ^ 16) 0 0).temp.toNat / 2 ^ 16) ∧ 950 ≤ sgn 16 ((meas 0 0 (950 * 2 ^ 16) 0).temp2.toNat / 2 ^ 16) ∧ mR.getF PWR_STAT_STOREFLT = 0 ∧
    (meas 0 0 0 99).flow.toNat % 2 ^ 16 < 100 ∧ mR.kerb.phase ≠ .boot ∧ mR.isLead = false ∧ 200 ≤ (meas 0 0 0 200).flow.toNat % 2 ^ 16 := by decide +kernel

def kset : KSet := { cause := 1, time := 0, csn := 0, epoch := 0, role := 0, seat := 0, hb := 0, pstate := 0, mains := 0, temps := 0, clk := 0, blocks := [] }
theorem witness_KerbHousekeeping : mR.RegsOk ∧ mR.flag SQR_ECCSTAT_PMAPERR = false ∧ (mk [(SQR_ECCSTAT_PMAPERR, 0, 1)]).RegsOk ∧ (mk [(SQR_ECCSTAT_PMAPERR, 0, 1)]).flag SQR_ECCSTAT_PMAPERR = true ∧ (5 : Fin 8).val < 6 ∧
    mR.qParked 5 = false ∧ mR.qAsleep 5 = false ∧
    (let s := mR.modKerb (fun k => { k with kset := some kset, wake := some 0 }); s.RegsOk ∧ s.kerb.kset = some kset ∧ s.kerb.wake = some 0) := by decide +kernel

theorem witness_BaseTick : mR.Runs ∧ mR.RegsOk ∧ (let s := mR.modKerb (fun k => { k with phase := .off }); s.kerb.phase ≠ .run ∧ s.kerb.phase ≠ .boot) := by decide +kernel

def sInit : State := { (mk [(SCH_TASKCFG_KIND, 3, 3)]).putRun (rT stT) with tick := 160007 }
theorem witness_ModeRequests : (mR.Runs ∧ mR.RegsOk ∧ mR.getF PAR_STAT_STATE ≠ 2 ∧ mR.getF PAR_STAT_STATE ≠ 3 ∧ mR.getF PAR_STAT_STATE ≠ 4) ∧
    (∀ n ∈ [2, 3, 4], let s := mk [(PAR_STAT_STATE, 0, n)]; s.Runs ∧ s.RegsOk ∧ s.getF PAR_STAT_STATE = n) ∧
    sInit.RegsOk ∧ sInit.run? .real 3 = some (rT stT) ∧ sInit.kind 3 = 3 ∧ (rT stT).rel * 62500 + 10000000000 ≤ sInit.tick * 62500 := by decide +kernel

theorem witness_ModeChange : ∀ p ∈ [(1, 2), (2, 1), (1, 1)], let s : State := { mk [(SCH_MODE_MODE, 0, p.1)] with sched := { mR.sched with accepted := [(p.2, 0)] } }
    s.RegsOk ∧ s.sched.accepted = [(p.2, 0)] ∧ 0 ≤ s.tick ∧ (∀ q ∈ s.sched.runs, q.2.ctx ≠ .spec ∧ q.2.st ≠ .xcp) ∧ (∀ t < 256, s.getF SCH_TASKXCP_PEND t = 0) ∧ s.mode = p.1 := by decide +kernel

/-- A ready execution of task 3 that waits for one lane of quarter 0. -/
def rReady : Run := { rT { stT with lane := none } with st := .ready }
theorem witness_TaskDispatch : let s := mT.putRun rReady
    s.runsIn 0 (fun r => r.ctx ≠ .spec && s.dispatchable r) = [rReady] ∧ (∀ p ∈ s.sched.runs, p.2.ctx ≠ .spec) ∧ rReady.ctx ≠ .spec ∧ rReady.lanesNeeded ≤ (s.idle 0).length ∧ s.quarterOf rReady.task = 0 := by decide +kernel

def rec0 : ArcRec := { kind := 1, flags := 0, seat := 0, seq := 7, csn := 0, time := 0, task := 3, epoch := 0, payload := [], prog := false }
theorem witness_ArcadeFlash : (∀ ev ∈ [true, false], mR.RegsOk ∧ (∀ r ∈ (if ev then mR.arc.evs else mR.arc.cyc), r.prog = true) ∧
      let s : State := { mR with arc := { mR.arc with cyc := [{ rec0 with prog := true }, rec0], evs := [{ rec0 with prog := true }, rec0] } }
      s.RegsOk ∧ (if ev then s.arc.evs else s.arc.cyc) = [{ rec0 with prog := true }] ++ rec0 :: [] ∧ rec0.prog = false ∧ bitOf rec0.flags 2 = false ∧ s.arc.retStaged = [] ∧
        logBytes s.arc.cyc + logBytes s.arc.evs ≤ arcCapacity) ∧ mR.getF ARC_STAT_STRETCH ≤ 6 ∧
    (∃ s : State, s.RegsOk ∧ s.getF ARC_STAT_STRETCH ≤ 6 ∧ creditCap ≤ s.creditNow * 4 ∧ s.creditNow * 2 < creditCap) ∧ (∃ s : State, s.RegsOk ∧ s.getF ARC_STAT_STRETCH ≤ 6 ∧ s.creditNow * 4 < creditCap) ∧
    (∃ s : State, s.RegsOk ∧ s.getF ARC_STAT_STRETCH ≤ 6 ∧ creditCap ≤ s.creditNow * 2) :=
  ⟨by decide +kernel, by decide +kernel, ⟨{ mR with arc := { mR.arc with credit := creditCap / 4 + 1, creditAt := mR.now } }, by decide +kernel⟩,
   ⟨{ mR with arc := { mR.arc with credit := 0, creditAt := mR.now } }, by decide +kernel⟩, ⟨{ mR with arc := { mR.arc with credit := creditCap, creditAt := mR.now } }, by decide +kernel⟩⟩

theorem witness_ArcadeWindow : ∀ p ∈ [Path.mgmt 0, Path.queue 0], let s : State := { mR with arc := { mR.arc with cyc := [rec0], evs := [rec0], curAsk := [(p.code, 0)] } }
    s.RegsOk ∧ s.Runs ∧ tabGet? s.arc.curAsk p.code = some 0 ∧ (s.arc.log 0).find? (fun r => decide (s.get64 ARC_CURLO_S ARC_CURHI_S p.code ≤ r.seq)) = some rec0 ∧ rec0.seq < 2 ^ 64 ∧
    (let u := s.setF ARC_CURLO_S 8 p.code; u.RegsOk ∧ u.Runs ∧ tabGet? u.arc.curAsk p.code = some 0 ∧ ∀ r ∈ u.arc.log 0, r.seq < u.get64 ARC_CURLO_S ARC_CURHI_S p.code) := by decide +kernel

theorem witness_ArcadeClearing : ∀ n ∈ [0, 8, 1], let s := mk [(KRB_SWSTAT_UPDEN, 0, 1), (KRB_SWSTAT_SAFEEDIT, 0, 1), (PAR_STAT_STATE, 0, n)]
    s.RegsOk ∧ s.Runs ∧ s.updateEnable = true ∧ s.safetyEdit = true ∧ s.getF PAR_STAT_STATE = n ∧ mR.updateEnable = false ∧ mR.safetyEdit = false := by decide +kernel

theorem witness_RestartBegins : let s := State.reset
    s.RegsOk ∧ s.kerb.phase = .boot ∧ s.sched.runs = [] ∧ s.host.sess = [] ∧ s.host.batches = [] ∧ s.host.dups = [] ∧ s.host.locks = [] ∧ s.plant.cuts = [] ∧ s.step_ = 0 ∧ s.kerb.kset = none ∧
    (s.modKerb (fun k => { k with kset := some kset })).kerb.kset = some kset := by decide +kernel

theorem witness_SwitchesAndKeys : mR.RegsOk ∧ mR.Runs ∧ mR.updateEnable = false ∧ mR.portKeyed 117 = false ∧
    (∀ p ∈ [Path.mgmt 0, Path.queue 0], let s := mk [(KRB_SWSTAT_UPDEN, 0, 1), (SEC_PORTSEL_PORT, p.code, 117)]; s.RegsOk ∧ s.Runs ∧ s.updateEnable = true ∧ s.selIx p .sec = 117) ∧
    (let s := mk [(KRB_SWSTAT_UPDEN, 0, 1), (SEC_PORTSEL_PORT, (Path.mgmt 0).code, 118)]; s.RegsOk ∧ s.Runs ∧ s.updateEnable = true ∧ s.selIx (.mgmt 0) .sec = 118) ∧
    (let s := mR.modKerb (fun k => { k with keys := [117], env := { k.env with keysOk := true } }); s.RegsOk ∧ s.portKeyed 117 = true ∧ (∀ d ∈ s.due, d.wh ≠ .nextSak 117) ∧ s.flag SEC_PORTSTAT_SECURED 117 = false) := by decide +kernel

/-- A module with UPDATE-ENABLE, OPEN, slot A CONFIRMED and slot B in a state. -/
def mSlot (st : Nat) : State :=
  (mk [(KRB_SWSTAT_UPDEN, 0, 1), (BOT_UPDSTAT_OPEN, 0, 1), (BOT_UPLEN_LEN, 0, 1)]).modKerb (fun k => { k with slots := [(0, ⟨4, none, []⟩), (1, ⟨st, none, [(0, [])]⟩)] })
theorem witness_FirmwareSlot : (∀ n ∈ [1, 2], let s := mSlot n; s.RegsOk ∧ s.Runs ∧ s.updateEnable = true ∧ (s.slot s.runSlot).st = 4 ∧ (s.slot s.spareSlot).st = n ∧ s.getF BOT_UPDSTAT_OPEN = 1 ∧
      s.getF BOT_UPLEN_LEN ≠ 0 ∧ chunksUpTo (s.slot s.spareSlot).chunks (s.getF BOT_UPLEN_LEN) = true) ∧
    (mR.RegsOk ∧ mR.Runs ∧ mR.updateEnable = false ∧ mR.getF BOT_UPDSTAT_OPEN = 0 ∧ (mR.slot mR.spareSlot).st ≠ 2) := by decide +kernel
/-- A CRC-32C has 32 bits, so a module can hold it in BOT_UPCRC, and a wrong one too. -/
theorem crc32c_lt (bs : List Byte) : crc32c bs < 2 ^ 32 := by
  have b : ∀ n c, c < 2 ^ 32 → crcBits 0x82F63B78 n c < 2 ^ 32 := by
    intro n
    induction n with
    | zero => exact fun c h => h
    | succ n ih =>
      intro c h
      unfold crcBits
      refine ih _ ?_
      split
      · exact Nat.xor_lt_two_pow (by omega) (by decide)
      · omega
  have f : ∀ (l : List Byte) c, c < 2 ^ 32 → l.foldl (fun c b => crcBits 0x82F63B78 8 (c ^^^ b.toNat)) c < 2 ^ 32 := by
    intro l
    induction l with
    | nil => exact fun c h => h
    | cons x l ih => exact fun c h => ih _ (b _ _ (Nat.xor_lt_two_pow h (Nat.lt_trans x.isLt (by decide))))
  exact Nat.xor_lt_two_pow (f _ _ (by decide)) (by decide)
theorem witness_FirmwareSlot_crc : let x := crc32c (memRdL mR.kerb.upWin 0 32768)
    ∀ c ∈ [x, if x = 0 then 1 else 0], let s := mk [(BOT_UPDSTAT_OPEN, 0, 1), (BOT_UPCRC_CRC, 0, c)]
      s.RegsOk ∧ s.Runs ∧ s.getF BOT_UPDSTAT_OPEN = 1 ∧ s.getF BOT_UPCRC_CRC = c ∧ crc32c (memRdL s.kerb.upWin 0 32768) = x := by
  have k : ∀ c, c < 2 ^ 32 → (mk [(BOT_UPDSTAT_OPEN, 0, 1), (BOT_UPCRC_CRC, 0, c)]).RegsOk ∧ (mk [(BOT_UPDSTAT_OPEN, 0, 1), (BOT_UPCRC_CRC, 0, c)]).getF BOT_UPDSTAT_OPEN = 1 ∧
      (mk [(BOT_UPDSTAT_OPEN, 0, 1), (BOT_UPCRC_CRC, 0, c)]).getF BOT_UPCRC_CRC = c := by
    intro c hl
    have h0 : mR.RegsOk := by decide +kernel
    have h1 := regs_setF_rising mR BOT_UPDSTAT_OPEN 1 0 h0
    show ((mR.setF BOT_UPDSTAT_OPEN 1 0).setF BOT_UPCRC_CRC c 0).RegsOk ∧ ((mR.setF BOT_UPDSTAT_OPEN 1 0).setF BOT_UPCRC_CRC c 0).getF BOT_UPDSTAT_OPEN = 1 ∧
      ((mR.setF BOT_UPDSTAT_OPEN 1 0).setF BOT_UPCRC_CRC c 0).getF BOT_UPCRC_CRC = c
    exact ⟨regs_setF_rising _ _ _ _ h1, (getF_setF_ne _ _ h1 (by decide)).trans (getF_setF_self _ _ _ _ h0), (getF_setF_self _ _ _ _ h1).trans (Nat.mod_eq_of_lt hl)⟩
  have hx := crc32c_lt (memRdL mR.kerb.upWin 0 32768)
  generalize hg : crc32c (memRdL mR.kerb.upWin 0 32768) = x at *
  intro x' c hc s
  have hl : c < 2 ^ 32 := by
    simp only [List.mem_cons, List.not_mem_nil, or_false] at hc
    rcases hc with rfl | rfl
    · exact hx
    · split <;> decide
  exact ⟨(k c hl).1, rfl, (k c hl).2.1, (k c hl).2.2, hg⟩

/-- In state K with a restart allowed; on probation for 255 minutes. -/
def sAuto : State := (mk [(BOT_CFG_AUTORST, 0, 7)]).modKerb (fun k => { k with phase := .off, lwCause := 1 })
def sConf : State := { (mk [(BOT_STAT_PROBATION, 0, 1)]).modKerb (fun k => { k with okSince := some 0, confGiven := true }) with now := 255 * 60000000000 }
theorem witness_ProbationAndRestart : (∀ n ∈ [0, 5, 8, 7], let s := mk [(PAR_STAT_STATE, 0, n), (KRB_SWSTAT_UPDEN, 0, 1), (BOT_STAT_PROBATION, 0, 1)]
      s.RegsOk ∧ s.Runs ∧ s.kerb.kset = none ∧ s.getF PAR_STAT_STATE = n ∧ s.updateEnable = true ∧ s.getF BOT_STAT_PROBATION = 1 ∧ s.kerb.winEnd ≤ s.now) ∧
    (sAuto.RegsOk ∧ sAuto.kerb.toRestart = none ∧ sAuto.kerb.phase = .off ∧ sAuto.kerb.kset = none ∧ sAuto.autoDue = true) ∧
    (mR.kerb.toRestart = none ∧ mR.kerb.phase ≠ .off ∧ mR.updateEnable = false) ∧
    (sConf.RegsOk ∧ sConf.kerb.okSince = some 0 ∧ 0 + sConf.getF BOT_CFG_CONFMIN * 60000000000 ≤ sConf.now ∧ sConf.getF BOT_STAT_PROBATION = 1 ∧ sConf.kerb.rejecting = false ∧
      sConf.kerb.confGiven = true ∧ sConf.runSlot ≤ 1) := by decide +kernel

/-- Task 3 ready for speculation, its next grid tick to come; and with a speculative and a real run. -/
def sSp : State :=
  let s := [(SPC_CTL_ENABLE, 0, 1), (SCH_MODE_MODE, 0, 1), (PAR_STAT_ROLE, 0, 2), (SCH_TASKCFG_SPEC, 3, 1), (SCH_TASKSTAT_STATE, 3, 1), (SCH_TASKCFG_PERIOD, 3, 16)].foldl (fun (s : State) (p : Fld × Nat × Nat) => s.setF p.1 p.2.2 p.2.1) mT
  let s : State := { s with pkgs := [(0, { pT with tasks := [{ dT with hasLive := false }] })] }
  s.modTask 3 (fun x => { x with lastOk := true, specBar := 0 })
def rSp : Run := { rT stT with ctx := .spec }
def rSpEnd : Run := { rSp with st := .ended, gens := [999] }
theorem witness_SpeculativeRuns : (sSp.RegsOk ∧ tabRising sSp.sched.runs = true ∧ sSp.taskDef? 3 = some { dT with hasLive := false } ∧ dT.no.val = 3 ∧ sSp.getF SPC_TASKCFG_SPECLEAD 3 = 0 ∧ sSp.specReady 3 = true ∧ sSp.run? .spec 3 = none ∧ sSp.run? .real 3 = none ∧
      sSp.tick < (sSp.taskRt 3).lastG + sSp.getF SCH_TASKCFG_PERIOD 3) ∧
    (let s := (sSp.putRun (rT stT)).putRun { rSp with gens := sSp.specGens }; s.RegsOk ∧ tabRising s.sched.runs = true ∧ s.run? .spec 3 = some { rSp with gens := s.specGens } ∧ sSp.specGens = s.specGens ∧ s.run? .real 3 = some (rT stT) ∧ rSp.st ≠ .ended ∧ rSp.held = none ∧ (rT stT).st ≠ .xcp ∧ (rT stT).rel = rSp.rel) ∧
    (let s := (sSp.putRun (rT stT)).putRun rSpEnd; s.RegsOk ∧ tabRising s.sched.runs = true ∧ s.run? .spec 3 = some rSpEnd ∧ s.run? .real 3 = some (rT stT) ∧ rSpEnd.st = .ended ∧ rSpEnd.abandoned = false ∧ (rT stT).st ≠ .xcp ∧ rSpEnd.gens ≠ s.specGens) ∧
    (let s := sSp.setF SPC_TASKSTAT_SSTATE 6 3; s.RegsOk ∧ tabRising s.sched.runs = true ∧ s.getF SPC_TASKSTAT_SSTATE 3 = 6 ∧ (s.taskRt 3).susp = 0) := by decide +kernel

theorem witness_StepIdles : State.reset.pending = [] := rfl
theorem witness_StepKeepsSound : State.reset.Sound ∧ ∃ t, step State.reset = .next t := ⟨by decide +kernel, _, rfl⟩
theorem witness_TickMovers : (∀ w, Instr.modeChange ≠ Instr.baseTick w) ∧ (∀ a b, Instr.modeChange ≠ Instr.ptpSync a b) ∧ ∃ t, exec .modeChange mR = .next t :=
  ⟨nofun, nofun, _, rfl⟩

/-! ### Well-formedness: an ill-formed term for each check -/

theorem test_wf_alignment : (∀ p v, (Instr.schTaskRegisterWrite p 2 v).wf = false) ∧ (∀ p v e, (Instr.registerWrite p 1 v e).wf = false) := ⟨fun _ _ => rfl, fun _ _ _ => rfl⟩
theorem test_wf_scrub : (∀ u, (Instr.patrolScrub u [] (some [0])).wf = false) ∧ (Instr.patrolScrub 0 [] none).wf = true := ⟨fun _ => rfl, rfl⟩
/-- An error in more than three symbols of a unit, and one in none. -/
theorem test_wf_errors : (Instr.baseTick ⟨0, [.cell 0 0 [0, 1, 2, 3]]⟩).wf = false ∧ (Instr.baseTick ⟨0, [.cell 0 0 []]⟩).wf = false ∧ (Instr.baseTick ⟨0, [.cell 0 0 [0, 1, 2], .map 0 3 3]⟩).wf = true := by decide +kernel
theorem test_wf_samples : (∀ h v, (Instr.sampleTick h [] v).wf = false) ∧ (Instr.readbackSample []).wf = false := ⟨fun _ _ => rfl, rfl⟩
theorem test_wf_descriptor : ∀ n q (d : HostDesc), (Instr.descriptorFetch n q [{ d with bytes := [0] }]).wf = false := fun _ _ _ => rfl
/-- An identifier of 12 bits without IDE, 9 bytes, 12 bytes outside FD, data in a remote frame, an end before the start. -/
theorem test_wf_can : let f : CanFrame := ⟨0x7FF, false, false, false, false, false, [1], 0, 1⟩
    f.wf = true ∧ ∀ g ∈ [{ f with id := 0x800 }, { f with ide := true, id := 2 ^ 29 }, { f with fdf := true, data := List.replicate 9 0 }, { f with data := List.replicate 12 0 }, { f with rtr := true }, { f with sof := 2 }],
      ∀ p, (Instr.canFrameReceive p g).wf = false := by decide +kernel
theorem test_wf_mgmt : (∀ c n, (Instr.mgmtRead c (2 ^ 32) 0 n).wf = false) ∧ (Instr.mgmtRead 0 0 (2 ^ 32) 0).wf = false ∧ (Instr.mgmtRead 0 0 0 (2 ^ 16)).wf = false ∧
    (∀ c d e, (Instr.mgmtWrite c (2 ^ 32) 0 d e).wf = false) ∧ (∀ c t, (Instr.mgmtAttest c t [0]).wf = false) :=
  ⟨fun _ _ => by simp [Instr.wf], by decide, by decide, fun _ _ _ => by simp [Instr.wf], fun _ _ => by simp [Instr.wf]⟩
theorem test_wf_window : (∀ o, (Instr.coalescingWindowClose (2 ^ 16) o).wf = false) ∧ (∀ k, (Instr.coalescingWindowClose k (2 ^ 32)).wf = false) := by simp [Instr.wf]
theorem test_wf_packet : ∀ p : CyclePkt, (Instr.cyclePacketApply { p with epoch := 2 ^ 32 }).wf = false ∧ (Instr.cyclePacketApply { p with csn := 2 ^ 64 }).wf = false ∧
    (Instr.cyclePacketApply { p with baseCsn := 2 ^ 64 }).wf = false ∧ (Instr.cyclePacketApply { p with ohash := 2 ^ 64 }).wf = false ∧ (Instr.cyclePacketApply { p with chash := 2 ^ 64 }).wf = false ∧
    (Instr.cyclePacketApply { p with record := { p.record with kind := 2 ^ 16 } }).wf = false := by simp [Instr.wf, CyclePkt.wf, RecData.wf]
theorem test_wf_record : ∀ (e : Bool) (r : RecData), ∀ x ∈ [{ r with kind := 2 ^ 16 }, { r with task := 2 ^ 16 }, { r with epoch := 2 ^ 32 }, { r with seq := 2 ^ 64 }, { r with csn := 2 ^ 64 }, { r with seat := 2 }],
    (Instr.backfillRecord e x).wf = false := by
  intro e r x hx
  simp only [List.mem_cons, List.not_mem_nil, or_false] at hx
  rcases hx with rfl | rfl | rfl | rfl | rfl | rfl <;> simp [Instr.wf, RecData.wf]
theorem test_wf_pair : (Instr.ack (2 ^ 64)).wf = false ∧ (∀ e, (Instr.handover (2 ^ 64) e).wf = false) ∧ (∀ c, (Instr.handover c (2 ^ 32)).wf = false) ∧ (∀ g l, (Instr.tickPacketReceive g (2 ^ 32) l).wf = false) :=
  ⟨by decide, fun _ => by simp [Instr.wf], fun _ => by simp [Instr.wf], fun _ _ => by simp [Instr.wf]⟩
theorem test_wf_hello : ∀ (h : Hello), ∀ x ∈ [{ h with state := 9 }, { h with epoch := 2 ^ 32 }, { h with roleEpoch := 2 ^ 32 }, { h with maxCsn := 2 ^ 64 }, { h with protoLo := h.protoHi + 1 }], (Instr.helloReceive x).wf = false := by
  intro h x hx
  simp only [List.mem_cons, List.not_mem_nil, or_false] at hx
  rcases hx with rfl | rfl | rfl | rfl | rfl <;> simp [Instr.wf, Hello.wf]
theorem test_wf_package : ∀ q : Path, (Instr.cfgClose q { Pkg.empty with gen := 2 ^ 64 }).wf = false ∧ (Instr.cfgClose q { Pkg.empty with init := [(0, 0)] }).wf = false ∧
    (Instr.cfgClose q { Pkg.empty with store := [(1, 1), (0, 1)] }).wf = false := fun _ => ⟨by rfl, by rfl, by rfl⟩
theorem test_wf_bundle : ∀ (q : Path) (b : Bundle), (Instr.updClose q { b with kerbSvn := 65 }).wf = false ∧ (Instr.updClose q { b with modSvn := 129 }).wf = false ∧
    (Instr.updClose q { b with protoLo := b.protoHi + 1 }).wf = false := by simp [Instr.wf, Bundle.wf]
/-- Number 0 is no session. -/
theorem test_wf_session : (∀ q, ∀ c ∈ [Instr.hostNop 0 q, .completionWrite 0 ⟨q, true⟩, .readAt 0 q, .readAtRaw 0 q, .writeNext 0 q, .hostSubscribe 0 q, .hostCancel 0 q, .historyRead 0 q, .historyReadDelta 0 q, .eventRead 0 q,
      .hostCut 0 q, .hostLock 0 q, .unlockCommit 0 q, .unlockDiscard 0 q, .hostForce 0 q, .hostTime 0 q, .attest 0 q, .qpCreate 0 q, .qpDestroy 0 q, .sessionClose 0 q, .hostLatency 0 q, .setupRead 0 q], c.wf = false) ∧
    (∀ q e, (Instr.setupWrite 0 q e).wf = false) ∧ (∀ i, (Instr.sessionEnd 0 i).wf = false) ∧ (∀ w o l x, (Instr.doorbell 0 w o l x).wf = false) ∧ (∀ q x, (Instr.descriptorWaitTimeout 0 q x).wf = false) ∧
    (Instr.transportRetryExhausted 0).wf = false := by
  refine ⟨fun q c hc => ?_, fun _ _ => rfl, fun _ => rfl, fun _ _ _ _ => rfl, fun _ _ => rfl, rfl⟩
  simp only [List.mem_cons, List.not_mem_nil, or_false] at hc
  rcases hc with rfl | rfl | rfl | rfl | rfl | rfl | rfl | rfl | rfl | rfl | rfl | rfl | rfl | rfl | rfl | rfl | rfl | rfl | rfl | rfl | rfl | rfl <;> rfl

/-! ### The queue and the table's words -/
theorem test_reset_idle : step State.reset = .next State.reset := rfl
/-- The table gives no row any bits. -/
theorem test_decode_none : ∀ n w, decodeTableWord n w = none := fun _ _ => rfl

/-! ### Hosts: the commands of queue pairs and of the management port -/

/-- A Lead in RUN with a session: a configuration with two tags, a group, a participant set and an access entry; regions of set 0x201. -/
def pH : Pkg := { pT with tasks := [dTag], groups := [⟨3, []⟩], cutSets := [⟨2, [], [1]⟩], access := [⟨4, 0, 0, 15, 0⟩], certs := [(9, true)] }
def mL : State :=
  let s := [(PAR_STAT_STATE, 0, 6), (PAR_STAT_ROLE, 0, 2), (SEC_PORTSTAT_SECURED, 110, 1), (HQE_CTL_ENABLE, 0, 1), (ACU_RLIMLO_LIMIT, 0x201 * 32, 0xFFFFF),
    (ACU_RATTR_RD, 0x201 * 32, 1), (ACU_RATTR_WR, 0x201 * 32, 1), (ACU_RATTR_EN, 0x201 * 32, 1)].foldl (fun (s : State) (p : Fld × Nat × Nat) => s.setF p.1 p.2.2 p.2.1) mT
  let code := memWrL (memWrL (memWrL s.sq.code 0x8020000000 (natLe 8 0x8010000001)) 0x8010000000 (natLe 8 0x3055 ++ natLe 8 0)) 0x8010000010 (natLe 8 0x100000051 ++ natLe 8 0x8000)
  { s with pkgs := [(0, pH)], now := 1000000, sq := { s.sq with snaps := [⟨0, 0, [], [], [], 0, []⟩], code := code } }
/-- A descriptor (Table 10-2): opcode, OPT, LEN1, LEN2, ARG, its data, with both its memory windows reachable. -/
def dsc (op opt l1 l2 arg : Nat) (data : List Byte) : HostDesc :=
  ⟨natLe 1 op ++ natLe 1 0 ++ natLe 2 opt ++ natLe 4 7 ++ natLe 8 0 ++ natLe 8 0 ++ natLe 4 l1 ++ natLe 4 0 ++ natLe 8 0 ++ natLe 4 l2 ++ natLe 4 0 ++ natLe 8 arg ++ natLe 8 0, data, true, true⟩
/-- The session and its queue pair, with a descriptor at its head. -/
def yH (l : List HostDesc) : Qp := { Qp.new 16 16 0 0 5 with ready := l, tail := l.length, fetched := l.length }
def xH (l : List HostDesc) : Sess := ⟨77, 4, 15, 0, [(0, yH l), (1, yH l)], [⟨0, 7, 0, [1], 1, false, false, 1, 0, [], 0, 0, [], [], 0, 0⟩], none, [], 0, none⟩
def sH (l : List HostDesc) : State := { mL with host := { mL.host with sess := [(1, xH l)] } }
def headB (s : State) (q : Nat) (d : HostDesc) : Bool :=
  decide (s.sess? 1 = some (xH [d])) && decide (tabGet? (xH [d]).qps q = some (yH [d])) && mayStart (yH [d]) d && decide s.Runs && decide (s.screen (xH [d]) q d = none)
theorem head_ok {s : State} {q : QpNo} {d : HostDesc} (h : headB s q.val d = true) : AtHead s 1 q (xH [d]) (yH [d]) d [] := by
  simp only [headB, Bool.and_eq_true, decide_eq_true_eq] at h
  exact ⟨h.1.1.1.1, h.1.1.1.2, rfl, h.1.1.2, h.1.2, h.2⟩
def okB {α β σ : Type} [DecidableEq β] (p : Except α β × σ) (b : β) : Bool := match p.1 with
  | .ok x => decide (x = b)
  | .error _ => false
theorem ok_of {α β σ : Type} [DecidableEq β] {p : Except α β × σ} {b : β} (h : okB p b = true) : p = (.ok b, p.2) := by
  obtain ⟨x, y⟩ := p
  cases x <;> simp_all [okB]
/-- The state in which READ_AT's translation leaves the machine. -/
def dRaw : HostDesc := dsc 1 1 12 64 0 (natLe 4 1 ++ natLe 4 0 ++ natLe 4 1)
def uRaw : State := ((((sH [dRaw]).took 1 0 []).under 0).hostEntry 1).2
def readDs : List HostDesc := [dsc 0 0 0 0 0 [], dsc 11 0 0 16 0 [], dsc 12 0 32 4096 0 (List.replicate 32 0), dsc 5 0 0 64 9 [], dsc 5 1 0 64 9 [], dsc 6 0 0 64 9 [], dsc 1 0 4 64 0 (natLe 4 0),
  dRaw, dsc 0x10 4 0 0 1000000 [], dsc 0x10 3 0 0 0 []]
theorem witness_HostReads : (∀ d ∈ readDs, AtHead (sH [d]) 1 0 (xH [d]) (yH [d]) d [] ∧ d.ok2 = true ∧ (sH [d]).isLead = true) ∧ readDs.map (fun d => (dOp d, dOpt d)) =
      [(0, 0), (11, 0), (12, 0), (5, 0), (5, 1), (6, 0), (1, 0), (1, 1), (16, 4), (16, 3)] ∧
    (let d := dsc 12 0 32 4096 0 (List.replicate 32 0); dLen1 d = 32 ∧ ((sH [d]).evidence d.data).length ≤ dLen2 d) ∧
    (let d := dsc 1 0 4 64 0 (natLe 4 0); let s := sH [d]; dLen1 d % 4 = 0 ∧ dLen1 d ≠ 0 ∧ dLen1 d ≤ 262144 ∧ dLen1 d * 4 ≤ dLen2 d ∧ s.readCsn d = 0 ∧ s.isVoid 0 = false ∧ s.readReady 0 (dDurable d) = true ∧ s.storeAt 0 = some 0 ∧
      s.snapAt? 0 = some ⟨0, 0, [], [], [], 0, []⟩) ∧
    (dLen1 dRaw = 12 ∧ ((sH [dRaw]).took 1 0 [] |>.under 0).hostEntry 1 = (.ok (0x100000051, 0x8000), uRaw) ∧ uRaw.opAddr (uRaw.imageTask (bits 0x8000 0 19)) 0x100000051 0x8000 + 0 = 0x8000 ∧
      0 + 1 ≤ max (teSize 0x100000051) (if teSignal 0x100000051 then 8 else 0) ∧ uRaw.engineRefuses false 0x201 .rd 0x8000 1 = none ∧ (uRaw.snapMeets ⟨0, 0, [], [], [], 0, []⟩ 0x8000 1).1 = false) ∧
    (let d := dsc 0x10 4 0 0 1000000 []; wakeUs ((sH [d]).getF PWR_STAT_PSTATE) ≤ dArg d % 2 ^ 32) ∧ 16 ≤ dLen2 (dsc 11 0 0 16 0 []) :=
  ⟨fun d hd => ⟨head_ok ((by decide +kernel : ∀ d ∈ readDs, headB (sH [d]) 0 d = true) d hd), (by decide +kernel : ∀ d ∈ readDs, d.ok2 = true ∧ (sH [d]).isLead = true) d hd⟩, by decide +kernel, by decide +kernel,
   by decide +kernel, ⟨by decide +kernel, ok_of (by decide +kernel), by decide +kernel⟩, by decide +kernel, by decide +kernel⟩
/-- The session's module with its lock on group 3 held, a value staged. -/
def sLk (l : List HostDesc) : State := { sH l with host := { (sH l).host with locks := [(3, ⟨some 1, 9, false, [(0x8000, [5])]⟩)] } }
def dWr : HostDesc := dsc 2 0 16 0 0 (natLe 4 1 ++ natLe 4 5 ++ natLe 8 200)
def dFrc : HostDesc := dsc 10 0 16 0 0 (natLe 4 0 ++ natLe 1 1 ++ natLe 3 5 ++ natLe 8 200)
def dUnl (c : Nat) : HostDesc := dsc 9 c 2 0 0 (natLe 2 3)
def dSub : HostDesc := dsc 3 0 4 128 0 (natLe 4 1)
def dCan : HostDesc := dsc 4 0 0 0 7 []
def dCut : HostDesc := dsc 7 2 0 64 2000000 []
def dLck : HostDesc := dsc 8 0 2 0 0 (natLe 2 3)
def dCre : HostDesc := dsc 0x10 1 0 0 0x44 []
def dDes : HostDesc := dsc 0x10 2 0 0 1 []
theorem witness_HostWrites : (∀ d ∈ [dWr, dFrc, dSub, dCut, dLck, dCre, dDes], AtHead (sH [d]) 1 0 (xH [d]) (yH [d]) d []) ∧ AtHead (sH [dCan]) 1 1 (xH [dCan]) (yH [dCan]) dCan [] ∧
    (∀ d ∈ [dUnl 256, dUnl 0], AtHead (sLk [d]) 1 0 (xH [d]) (yH [d]) d []) ∧ [dWr, dFrc, dUnl 256, dUnl 0, dSub, dCan, dCut, dLck, dCre, dDes].map dOp = [2, 10, 9, 9, 3, 4, 7, 8, 16, 16] ∧
    (∀ l, (sH l).host.batches = [] ∧ (sH l).host.idents = [] ∧ (∀ g, ((sH l).lock g).holder ≠ some 1) ∧ (sLk l).host.batches = [] ∧ (sLk l).host.idents = []) ∧
    (dLen1 dWr % 16 = 0 ∧ dLen1 dWr ≠ 0 ∧ dLen1 dWr ≤ 65536 ∧ dWr.data.length = dLen1 dWr ∧ dArg dWr = (sH [dWr]).cfgGen ∧
      (let p := ((sH [dWr]).took 1 0 []).writeEntries 1 0 (chop16 1 dWr.data); p = (.ok [(0x8000, [200])], p.2))) ∧
    (dLen1 dFrc % 16 = 0 ∧ dLen1 dFrc ≠ 0 ∧ dLen1 dFrc ≤ 4096 ∧ (sH [dFrc]).forcesAfter [(0, some (200, 5))] ≤ 4096 ∧
      (let p := ((sH [dFrc]).took 1 0 []).forceEntries 0 (chop16 1 dFrc.data); p = (.ok [(0, some (200, 5))], p.2))) ∧
    (∀ c ∈ [256, 0], let d := dUnl c; let s := sLk [d]; bitOf (dOpt d) 8 = decide (c = 256) ∧ s.groupsBad d = none ∧ s.holdsAll 1 (dGroups d) = true ∧ dArg d = s.cfgGen) ∧
    (dLen1 dSub % 4 = 0 ∧ dLen1 dSub ≠ 0 ∧ dLen1 dSub / 4 ≤ 4096 ∧ 2 * slotBytes (dLen1 dSub / 4) ≤ dLen2 dSub ∧ dSub.ok2 = true ∧
      (((sH [dSub]).took 1 0 []).host.sess.map (fun x => x.2.subs.length)).foldl (· + ·) 0 < 65536) ∧
    (dOpt dCan % 4096 ≠ 1 ∧ tabGet? (xH [dCan]).qps (dOpt dCan % 4096) = some (yH [dCan]) ∧ (∀ w ∈ (yH [dCan]).waits, dReqid w.d ≠ dArg dCan % 2 ^ 32) ∧
      ((xH [dCan]).subs.any (fun u => u.qp = dOpt dCan % 4096 && u.reqid = dArg dCan % 2 ^ 32)) = true) ∧
    (let s := sH [dCut]; s.cutSet? (dOpt dCut % 4096) = some ⟨2, [], [1]⟩ ∧ 32 + 16 * 1 ≤ dLen2 dCut ∧ s.now + 250000 + s.cutHops 2 ≤ dArg dCut ∧ s.schedFree (dArg dCut) = true) ∧
    (let s := sH [dLck]; dGroups dLck = [3] ∧ s.groupsBad dLck = none ∧ (∀ h ∈ s.heldBy 1, h < 3) ∧ (s.heldBy 1).length + (s.took 1 0 []).lockAsked 1 + 1 ≤ s.getF HQE_LOCKCFG_MAXLOCKS ∧ (s.lock 3).holder = none ∧
      ∀ e ∈ s.host.sess, ∀ z ∈ e.2.qps, z.2.waits = []) ∧
    (let sz := dArg dCre % 256; dOpt dCre % 16 = 1 ∧ dAddr1 dCre % 4096 = 0 ∧ dAddr2 dCre % 4096 = 0 ∧ sz % 16 ≤ sz / 16 ∧ sz / 16 ≤ 12 ∧
      (List.range' 1 4095).find? (fun k => (tabGet? (xH [dCre]).qps k).isNone) = some 2 ∧ ((sH [dCre]).took 1 0 []).qpCount < 32768) ∧
    (dOpt dDes % 16 = 2 ∧ dArg dDes % 4096 ≠ 0 ∧ tabGet? (xH [dDes]).qps (dArg dDes % 4096) = some (yH [dDes]) ∧ tabRising (xH [dDes]).qps = true) :=
  ⟨fun d hd => head_ok ((by decide +kernel : ∀ d ∈ [dWr, dFrc, dSub, dCut, dLck, dCre, dDes], headB (sH [d]) 0 d = true) d hd), head_ok (q := 1) (by decide +kernel),
   fun d hd => head_ok ((by decide +kernel : ∀ d ∈ [dUnl 256, dUnl 0], headB (sLk [d]) 0 d = true) d hd), by decide +kernel, fun l => ⟨rfl, rfl, fun _ => nofun, rfl, rfl⟩,
   ⟨by decide +kernel, by decide +kernel, by decide +kernel, by decide +kernel, by decide +kernel, ok_of (by decide +kernel)⟩,
   ⟨by decide +kernel, by decide +kernel, by decide +kernel, by decide +kernel, ok_of (by decide +kernel)⟩, by decide +kernel, by decide +kernel, by decide +kernel, by decide +kernel, by decide +kernel,
   ⟨by decide +kernel, by decide +kernel, by decide +kernel, by decide +kernel, by decide +kernel, rfl, by decide +kernel⟩, by decide +kernel⟩
/-- A request to connect (Table 10-1): client 78, rings of 16 at address 0, version 1. -/
def reqH : List Byte := natLe 8 78 ++ natLe 8 0 ++ natLe 8 0 ++ natLe 4 0 ++ natLe 1 0x44 ++ natLe 1 0 ++ natLe 2 1
/-- A session with a lock, credits free, a descriptor to fetch, a completion to write and a READ_AT that waits. -/
def cH : Compl := { status := 0, flags := 0, opcode := 1, reqid := 7, csn := 0, len := 0, detail := 0, data := [], sub := none }
def wH (w : WaitFor) : WaitDesc := ⟨dsc 1 0 4 64 0 (natLe 4 0), w, 0⟩
def yE (w : WaitFor) : Qp := { Qp.new 16 16 0 0 5 with tail := 1, comps := [cH], waits := [wH w] }
def xE (w : WaitFor) : Sess := { xH [] with qps := [(1, yE w)] }
def sE (w : WaitFor) (h : Option Nat) : State :=
  { (mL.setF HQE_ADMCFG_BATCH 1 0 |>.setF HQE_ADMCFG_CREDIT 64 0) with host := { mL.host with sess := [(1, xE w)], locks := [(3, ⟨h, 9, false, []⟩)] }, now := 400000000000 }
theorem witness_HostEngine :
    (mL.RegsOk ∧ mL.Runs ∧ mL.flag SEC_PORTSTAT_SECURED (106 + 4) = true ∧ mL.refuseReq 4 0 reqH = none ∧ (∀ x ∈ mL.host.sess, x.2.cid ≠ leNat (reqH.take 8)) ∧
      (List.range' 1 8192).find? (fun k => (mL.sess? k).isNone) = some 1 ∧ mL.accessFor 4 0 = some ⟨4, 0, 0, 15, 0⟩ ∧ mL.host.sess.length < mL.getF HQE_CTL_MAXSESS ∧ mL.qpCount < 32768) ∧
    (let s := sE (.read 9 false false) (some 1); let x := xE (.read 9 false false); let y := yE (.read 9 false false)
      s.RegsOk ∧ s.Runs ∧ tabRising s.host.sess = true ∧ tabRising s.host.locks = true ∧ s.sess? 1 = some x ∧ x.active + s.getF HQE_CTL_SESSIDLE * 1000000000 ≤ s.now ∧ (s.lock 3).holder = some 1 ∧
      tabGet? x.qps 1 = some y ∧ s.sessSecured x = true ∧ advance32 y.tail (bits 1 0 32) ≤ y.fetched + y.sqSize ∧ advance32 y.head (bits 1 32 32) ≤ y.written ∧
      min (min (s.getF HQE_ADMCFG_BATCH) (y.tail - y.fetched)) (min (s.getF HQE_ADMCFG_CREDIT - x.credits) (262144 - (s.host.sess.map (fun e => e.2.credits)).foldl (· + ·) 0)) = 1 ∧
      y.comps = [cH] ∧ y.written < y.head + y.cqSize ∧ (1 : Nat) ≠ 0 ∧ x.closing ≠ some (y.written + 1) ∧
      y.waits.find? (fun w => decide (dReqid w.d = 7) && decide (w.since + dWait w.d ≤ s.now + 62500)) = some (wH (.read 9 false false)) ∧ (s.lock 3).lease ≤ s.now) ∧
    (let w := WaitFor.lock 0 [3] [] false; let s := sE w none; s.RegsOk ∧ s.sess? 1 = some (xE w) ∧ tabGet? (xE w).qps 1 = some (yE w) ∧ s.lockWaits = [(1, 1, wH w)] ∧ (s.lock 3).holder = none) :=
  ⟨by decide +kernel, by decide +kernel, by decide +kernel⟩

theorem witness_SetupAccess : mL.RegsOk ∧ mL.Runs ∧ mL.mgmtUp = true ∧ tabHas mL.setup.conns 2 = false ∧ mL.certRight 9 = some 1 ∧ mL.certRight 8 = none ∧
    (let s : State := { mL with setup := { mL.setup with conns := [(2, 1)] } }; s.RegsOk ∧ s.Runs ∧ tabRising s.setup.conns = true ∧ tabGet? s.setup.conns 2 = some 1 ∧ badReq 0x30034 1 = false ∧ 0x38000 ≤ 0x38004 ∧
      0x38004 < 0x40000 ∧ 0x38004 % 4 = 0 ∧ (List.replicate 32 (0 : Byte)).length = 32 ∧ s.kerb.phase ≠ .off) ∧
    (let s : State := mL.setF PAR_STAT_STATE 7 0; s.RegsOk ∧ s.Runs ∧ s.following = false ∧ s.hasFollower = false ∧ s.isSafety (s.getF SCH_TASKSEL_TASK (Path.mgmt 2).code) = false ∧ bits (0 : W32).toNat 14 2 = 0) ∧
    (let d := dsc 0x11 1 0 64 0x30034 []; (match setupForm d with | .ok x => x == (1, 0x30034) | _ => false) = true ∧ 4 * 1 ≤ dLen2 d ∧ headB (sH [d]) 0 d = true) ∧
    (let d := dsc 0x12 1 4 0 0x38004 (natLe 4 9); (match setupForm d with | .ok x => x == (1, 0x38004) | _ => false) = true ∧ 4 ≤ dLen1 d ∧ headB (sH [d]) 0 d = true) :=
  ⟨by decide +kernel, by decide +kernel, by decide +kernel, by decide +kernel, by decide +kernel, by decide +kernel, by decide +kernel, by decide +kernel, by decide +kernel, by decide +kernel⟩
/-- A frame of the plant protocol from station 4 (Table 11-2). -/
def fspOf (typ flags epoch cycle : Nat) (data : List Byte) : List Byte :=
  [0x46, 1] ++ natLe 1 typ ++ natLe 1 flags ++ natLe 2 4 ++ natLe 2 0 ++ natLe 4 epoch ++ natLe 4 0 ++ natLe 4 cycle ++ natLe 2 data.length ++ natLe 2 0 ++ data
/-- What `fspTake` reads of such a frame. -/
def fspIs (typ flags epoch cycle : Nat) (data : List Byte) : Fsp := ⟨typ, flags, 4, 0, epoch, 0, cycle, data⟩
theorem pair_eta {α β : Type} {p : α × β} {a : α} (h : p.1 = a) : p = (a, p.2) := by rw [← h]
/-- Station 4, a witness on link 9, with the input signal 5, an output signal 6 and the participant set 2; the peer data set 7 of producer 9. -/
def staT : StationDef := ⟨4, true, 0, 16, 0, 0, 0, [], (0, 0), 1, 9⟩
def sigT (n : Nat) (out : Bool) (src : SigSrc) : SigDef := ⟨n, 0, out, 1, src, 0, 0, 0, false, false⟩
def pP : Pkg := { pH with stations := [staT], sigs := [sigT 5 false (.station 4 0), sigT 8 false (.peer 7 0)], cutSets := [⟨2, [4], [5]⟩], peers := [⟨7, 4, 1000, 1000, none⟩] }
/-- A running module with that plant and some register fields put. -/
def mP (l : List (Fld × Nat × Nat)) : State := { l.foldl (fun (s : State) (p : Fld × Nat × Nat) => s.setF p.1 p.2.2 p.2.1) mL with pkgs := [(0, pP)] }
/-- Task 3 with an exception pending. -/
def xcpT : Xcp := ⟨5, 0, 0, 0⟩
def rX : Run := { rT stT with st := .xcp, xcp := some (xcpT, 0), late := true }
def sX : State := { (mP [(SCH_MODE_MODE, 0, 1), (SCH_TASKXCP_PEND, 3, 1), (SCH_TASKSEL_TASK, 0, 3), (SCH_TASKCFG_PERIOD, 3, 16)]).putRun rX with tick := 1000000 }
def bT : Batch := ⟨1, 1, 77, 0, 7, 2, 3, 0, 0, [], [], none, 0, true⟩
def wT : Win := ⟨2, 3, true, false, 5, 0, 0, 0, [], false, 0⟩
def cutT (taken : Bool) : CutRt := ⟨11, 500, 1, 0, dsc 7 2 0 64 2000000 [], 2, [5], 9000000, [(5, (1, 0))], taken, false⟩
def sCut (taken : Bool) : State := { mP [] with plant := { mL.plant with cuts := [cutT taken] }, host := (sH []).host }
theorem witness_TaskCommands :
    (mL.RegsOk ∧ mL.Runs ∧ mL.following = false ∧ mL.isSafety 3 = false ∧ (mP [(SCH_TASKCFG_SAFETY, 3, 1)]).isSafety 3 = true ∧ (mP [(SCH_TASKCFG_SAFETY, 3, 1)]).safetyEdit = false ∧
      (mP [(SCH_TASKCFG_SAFETY, 3, 1)]).RegsOk ∧ (mP [(PAR_STAT_STATE, 0, 3)]).RegsOk ∧ (mP [(PAR_STAT_STATE, 0, 3)]).following = true ∧ (mP [(PAR_STAT_STATE, 0, 3)]).isSafety 3 = false) ∧
    (sX.RegsOk ∧ sX.Runs ∧ sX.following = false ∧ sX.getF SCH_TASKSEL_TASK (Path.mgmt 0).code = 3 ∧ sX.flag SCH_TASKXCP_PEND 3 = true ∧ mL.dispLate 3 = false ∧ sX.dispLate 3 = true ∧
      sX.sysAddr .xcpPend false 0 = none ∧ sX.run? .real 3 = some rX ∧ rX.xcp = some (xcpT, 0) ∧ tabRising sX.sched.runs = true ∧ sX.olc.back = none) ∧
    (let r := { rT stT with st := .ended }; let s := (mP []).putRun r; s.RegsOk ∧ s.run? .real 3 = some r ∧ r.task = 3 ∧ r.st = .ended ∧ s.isLead = true ∧ s.undecided 3 = false ∧ s.errorTask ≠ some 3) ∧
    (let s : State := { mP [] with host := { mL.host with batches := [bT] } }; s.RegsOk ∧ s.isLead = true ∧ s.host.batches.find? s.dueAlone = some bT ∧ bT.gen = s.cfgGen ∧ mL.host.batches.find? mL.dueAlone = none) ∧
    (let s : State := { mP [] with wins := [wT], now := 2000000000 }; s.RegsOk ∧ s.Runs ∧ s.wins.find? (fun w => w.isOf 2 3 && w.isOpen) = some wT ∧ wT.first + 1000000000 ≤ s.now + 62500) ∧
    (let s := sCut false; s.RegsOk ∧ s.plant.cuts.find? (fun c => c.op = 11) = some (cutT false) ∧ (cutT false).at_ ≤ s.now + 62500 ∧ s.cutSet? 2 = some ⟨2, [4], [5]⟩) ∧
    (let frame := fspOf 0x0A 0 0 0 (natLe 4 11 ++ [1, 0]); let f := fspIs 0x0A 0 0 0 (natLe 4 11 ++ [1, 0]); let u := ((sCut true).fspTake 9 0x0A frame).2
      (sCut true).fspTake 9 0x0A frame = (some f, u) ∧ bitOf f.flags 1 = false ∧ (f.data.drop 4).length = sigBytes (u.stationSigs f.sta false) + (u.stationSigs f.sta false).length ∧
      u.plant.cuts.find? (fun c => c.op = leNat (f.data.take 4) && !c.mirrored) = some (cutT true) ∧ (u.cutStations 2).any (fun d => d.no.val = f.sta) = true) ∧
    (let s := sCut true; s.plant.cuts.find? (fun c => c.op = 11) = some (cutT true) ∧ (cutT true).sigs.all (fun n => tabHas (cutT true).got n) = true ∧ (cutT true).d.ok2 = true ∧
      s.sess? 1 = some (xH []) ∧ tabGet? (xH []).qps 0 = some (yH [])) :=
  ⟨by decide +kernel, by decide +kernel, by decide +kernel, by decide +kernel, by decide +kernel, by decide +kernel, ⟨pair_eta (by decide +kernel), by decide +kernel⟩, by decide +kernel⟩
/-- The module with a lane's run-time state put. -/
def sLn (l : List (Fld × Nat × Nat)) (n : Nat) (f : LaneRt → LaneRt) : State := { (mP l).modLane n f with now := 90000000000000 }
theorem witness_LanesAndSquare :
    (let s := sLn [(XNG_LANESTAT_ROLE, 2, 2)] 2 (fun x => { x with testing := true }); s.RegsOk ∧ (s.laneRt 2).testing = true ∧ s.laneRole 2 = 2) ∧
    (let s := sLn [] 2 (fun x => { x with full := true }); s.RegsOk ∧ (s.laneRt 2).testing = false ∧ (s.laneRt 2).full = true) ∧
    (let s := sLn [(XNG_LANESTAT_INTEST, 2, 1)] 2 id; s.RegsOk ∧ s.flag XNG_LANESTAT_INTEST 2 = true ∧ (s.laneRt 2).testing = false ∧ (s.laneRt 2).full = false ∧ (s.laneRt 2).cmdTest = false ∧ (s.laneRt 2).step + 1 < 2000) ∧
    mL.stepOk 15 = true ∧
    (let s := sLn [(XNG_CTL_INJEN, 0, 1)] 2 id; s.RegsOk ∧ s.flag XNG_CTL_INJEN = true ∧ s.laneRole 2 ≠ 3 ∧ (s.laneRt 2).testing = false ∧ (s.laneRt 2).full = false ∧ s.flag XNG_LANESTAT_INTEST 2 = false ∧ s.injDue 2 = true) ∧
    (96 ≤ (96 : BitVec 7).toNat ∧ (15 : BitVec 7).toNat < 96 ∧ mL.laneRole 15 = 1 ∧ mL.laneHeld 15 = false ∧ mL.flag XNG_LANESTAT_INTEST 15 = false ∧ (mL.laneRt 15).full = false ∧ mL.safetyEdit = false ∧
      (mP [(KRB_SWSTAT_SAFEEDIT, 0, 1)]).RegsOk ∧ (mP [(KRB_SWSTAT_SAFEEDIT, 0, 1)]).safetyEdit = true ∧ (mP [(KRB_SWSTAT_SAFEEDIT, 0, 1)]).laneRole 15 ≠ 3) ∧
    (let s := sLn [] 2 id; s.testLate 2 = true ∧ s.flag XNG_STAT_TESTLATE = false) ∧
    (mL.RegsOk ∧ mL.Runs ∧ mL.sq.cells = [] ∧ mL.sq.mapErrs = [] ∧ mL.sq.scrubbed + 1 < scrubUnits ∧ (sLn [] 2 id).now > (sLn [] 2 id).sq.scrubStart + 4200000000000) ∧
    (let s : State := { mL with sq := { mL.sq with sparing := [(7, 1)] } }; s.RegsOk ∧ s.sq.sparing.find? (fun p => p.2 = (1 : Fin 4).val) = some (7, 1)) ∧
    ((match mL.walk (some 3) 1 with | .ok w => w == (0x100000051, 0x8000) | _ => false) = true ∧ (match mL.walk (some 3) 2 with | .error r => r == 2 | _ => false) = true ∧ (2 : Nat) < 16) ∧
    (let s : State := mP [(PAR_STAT_STATE, 0, 7), (ACU_MSEL_SEL, 0, 0x201), (ACU_RSEL_SLOT, 0, 3), (KRB_SWSTAT_SAFEEDIT, 0, 1)]; s.RegsOk ∧ s.Runs ∧ s.following = false ∧ s.hasFollower = false ∧ s.safetyEdit = true ∧
      (s.editEntry true).isSome = true ∧ (s.editEntry false).isSome = true ∧ s.getF ACU_MSEL_SEL (Path.mgmt 0).code = 0x201 ∧ s.getF ACU_RSEL_SLOT (Path.mgmt 0).code = 3 ∧ acuSlotOk 0x201 3 = true ∧
      s.acuLocked 0x201 = false ∧ bitOf (6 : W32).toNat 0 = false) ∧
    (let s : State := { mL with sq := { mL.sq with inval := [⟨1, 2, false⟩], acuBusy := true } }; s.RegsOk ∧ s.sq.inval ≠ [] ∧ s.sq.acuBusy = true ∧ s.sched.runs = []) :=
  ⟨by decide +kernel, by decide +kernel, by decide +kernel, by decide +kernel, by decide +kernel, by decide +kernel, by decide +kernel, by decide +kernel, by decide +kernel, by decide +kernel, by decide +kernel, by decide +kernel⟩
/-- A module in a pair state and role at tick 1,000,016, task 3 on a grid of 16 ticks. -/
def sPr (st role : Nat) (f : PairRt → PairRt) : State :=
  let s := mP [(PAR_STAT_STATE, 0, st), (PAR_STAT_ROLE, 0, role), (SCH_TASKCFG_PERIOD, 3, 16)]
  { s with pair := f s.pair, tick := 1000016, now := 1000016 * 62500 }
def helT (st : Nat) (seat : Seat) : Hello :=
  { seat := seat, epoch := 0, cfgGen := 0, digest := 0, state := st, maxCsn := 0, lead := false, roleEpoch := 0, running := true, laneShort := false, capped := false, instId := 6, devId := 0,
    protoLo := 0, protoHi := 0, retCsn := 0, retDigest := 0, refuse := 0, old42 := false, join := false, switchReq := false, swRefused := false, resync := [], resyncAll := false, fetch := [] }
def recT : RecData := ⟨1, 0, 0, 7, 1, 0, 3, 0, [], true⟩
def pktT : CyclePkt :=
  { audit := false, xcp := false, safe := false, seat := true, task := 3, epoch := 0, csn := 1, baseCsn := 0, tick := 16, pktSeq := 5, ohash := 0, chash := 0, fullImage := false, input := [],
    carry := [], hostw := [], setup := [], suppl := [], seatout := [], poison := [], record := recT, more := [], activation := false }
def rAud : Run := { rT stT with ctx := .audit, st := .ended }
def audT : AuditRt := ⟨3, 1, 0, 7, 7, crc64 [], crc64 (carryBody []), [], []⟩
theorem witness_PairPackets :
    (∀ st ∈ [6, 3, 5], ∀ seat ∈ [true, false], let s := sPr 0 0 id; let h := helT st seat; s.RegsOk ∧ s.Runs ∧ s.isLead = false ∧ s.getF PAR_STAT_STATE = 0 ∧ s.pair.partner = none ∧ s.pair.startAt + 10000000000 ≤ s.now ∧
      (∀ d ∈ s.witnesses, s.flag PNE_PORTSTAT_GCLERR d.2.1 = false ∧ d.2.1 < 65536) ∧ h.old42 = false ∧ s.bundle.protoLo ≤ h.protoHi ∧ h.protoLo ≤ s.bundle.protoHi ∧ (seat = true → h.seat ≠ s.seatB)) ∧
    (∀ st ∈ [1, 2, 3, 4], let s := sPr st 1 id; s.RegsOk ∧ s.Runs ∧ s.isLead = false ∧ s.getF PAR_STAT_STATE = st ∧ s.epoch ≤ pktT.epoch ∧ s.pair.pktSeen.contains (pktT.epoch, pktT.pktSeq) = false ∧ s.pair.applied < pktT.csn ∧
      s.pktNext pktT = true ∧ s.pair.queued = [] ∧ s.enginesRefuse pairMasters .wr ((runsOf (s.pktWrites pktT)).map (fun r => (r.1, r.2.length))) = none ∧ s.pair.appliedAt + 4 * s.pf * 62500 ≤ s.now ∧
      s.isFastGrid 999984 = true ∧ s.pair.lastTick < 999984 ∧ s.pair.missing < 999984 ∧ s.pair.handed = none ∧ (999984 + s.pf) * 62500 + 20000 ≤ s.now) ∧
    (let s := sPr 6 2 id; s.RegsOk ∧ s.hasFollower = true ∧ s.isFastGrid 1000000 = true ∧ s.pair.gSent < 1000000 ∧ 1000000 + s.pf ≤ s.tick + 1 ∧ s.getF PAR_STAT_STATE = 6 ∧ s.isLead = true ∧
      s.enginesRefuse [0x202] .wr [] = none) ∧
    (let s := (sPr 3 1 (fun p => { p with audits := [audT] })).putRun rAud; s.RegsOk ∧ s.run? .audit 3 = some rAud ∧ s.pair.audits.find? (fun a => a.task = 3) = some audT ∧ rAud.abandoned = false ∧ rAud.held = none ∧ rAud.st = .ended ∧
      crc64 ((isort (fun a b => decide (a < b)) ((s.under rAud.store).wroteOuts 3 rAud.stores)).flatMap (fun n => memRdL (memLay rAud.base (ovlLay rAud.img rAud.stores)) ((s.under rAud.store).outSlot 3 n) 8 ++
        [memRd (memLay rAud.base (ovlLay rAud.img rAud.stores)) ((s.under rAud.store).outStat 3 n)])) = audT.ohash ∧
      crc64 (carryBody ((ovlLay rAud.img rAud.stores).filter (fun p => (s.under rAud.store).carried p.1))) = audT.chash ∧ audT.rel + 16 * s.getF SCH_TASKCFG_PERIOD 3 ≤ s.tick) ∧
    (let s := sPr 2 0 (fun p => { p with resyncAll := true, resyncEnd := true }); s.RegsOk ∧ s.getF PAR_STAT_STATE = 2 ∧ s.pair.resyncAll = true ∧ s.pair.resyncEnd = true ∧ s.pair.queued = []) :=
  ⟨by decide +kernel, by decide +kernel, by decide +kernel, by decide +kernel, by decide +kernel⟩

/-- In SUSPECT with two witnesses. -/
def sTwo : State := { sPr 4 1 (fun p => { p with grantFor := 1 }) with pkgs := [(0, { pP with peers := [⟨7, 4, 1000, 1000, some ((0, 0), 9)⟩] })] }
theorem witness_PairRoles :
    (∀ st ∈ [4, 1, 2], let s := sPr st 1 (fun p => { p with missRun := 2 }); s.RegsOk ∧ s.leadLost = true ∧ s.getF PAR_STAT_STATE = st) ∧
    (∀ n ∈ [0, 1], let s := sPr 6 2 (fun p => { p with partner := some (helT 3 true), missRun := n, sent := [⟨1, 999968, true, false⟩] }); s.RegsOk ∧ s.getF PAR_STAT_STATE = 6 ∧
      s.pair.partner.any (fun h => h.state = 3 || h.state = 4) = true ∧ s.pair.missing < 999968 ∧ (999968 + s.pf) * 62500 + 40000 ≤ s.now ∧ s.pair.sent.any (fun x => x.std && x.tick = 999968 && !x.acked) = true ∧ s.pair.missRun = n ∧
      s.pair.heardAt + 500000 ≤ s.now) ∧
    (∀ st ∈ [0, 1, 2, 3, 4, 5, 7, 8], let s := sPr st 0 id; s.RegsOk ∧ s.getF PAR_STAT_STATE = st ∧ s.pair.handed = none ∧ s.nextEpoch < 2 ^ 32 ∧ s.kerb.phase ≠ .off ∧ (s.flag PAR_CTL_AUTOJOIN && s.joinFree) = false ∧
      ∀ d ∈ s.witnesses, s.flag PNE_PORTSTAT_GCLERR d.2.1 = false ∧ d.2.1 < 65536) ∧
    (let s := (sPr 7 2 id).setF PAR_CTL_AUTOJOIN 1 0; s.RegsOk ∧ (s.flag PAR_CTL_AUTOJOIN && s.joinFree) = true) ∧
    (let s := sPr 6 2 id; s.RegsOk ∧ s.isLead = true ∧ s.fastGrid 1000000 = 1000000 ∧ s.kerb.phase ≠ .off ∧ s.flag PNE_CTL_KERBSTOP = false ∧
      ∀ d ∈ s.witnesses, (0x1000 ≤ d.1 ∨ tabGet 0 s.plant.outAt d.1 < 1000000) ∧ s.flag PNE_PORTSTAT_GCLERR d.2.1 = false) ∧
    (∀ st ∈ [0, 3, 4], ∀ w ∈ [[], [21, 22]], let d := natLe 4 1 ++ natLe 4 0; let s := sPr st 1 (fun p => { p with grantFor := 1, grants := w }); let u := (s.fspTake 9 0x07 (fspOf 7 0 0 0 d)).2
      s.fspTake 9 0x07 (fspOf 7 0 0 0 d) = (some (fspIs 7 0 0 0 d), u) ∧ u.RegsOk ∧ u.witnessId 4 = some 4 ∧ u.pair.grants.contains 4 = false ∧ leNat (d.take 4) = u.pair.grantFor ∧ u.getF PAR_STAT_STATE = st ∧
      u.witnesses.length < 2 * (u.pair.grants.length + 1) ∧ u.nextEpoch < 2 ^ 32) ∧
    (let s := sTwo; let u := (s.fspTake 9 0x07 (fspOf 7 0 0 0 (natLe 4 1 ++ natLe 4 0))).2; s.fspTake 9 0x07 (fspOf 7 0 0 0 (natLe 4 1 ++ natLe 4 0)) = (some (fspIs 7 0 0 0 (natLe 4 1 ++ natLe 4 0)), u) ∧ u.RegsOk ∧
      u.witnessId 4 = some 4 ∧ u.pair.grants.contains 4 = false ∧ u.pair.grantFor = 1 ∧ u.getF PAR_STAT_STATE = 4 ∧ 2 * (u.pair.grants.length + 1) ≤ u.witnesses.length) ∧
    (let d := natLe 4 1 ++ natLe 4 0; let s := sPr 4 1 id; let u := (s.fspTake 9 0x08 (fspOf 8 0 0 0 d)).2; s.fspTake 9 0x08 (fspOf 8 0 0 0 d) = (some (fspIs 8 0 0 0 d), u) ∧ u.RegsOk) ∧
    (let s := sPr 7 2 (fun p => { p with lostUnfenced := true }); s.RegsOk ∧ s.isLead = true ∧ 2 * s.assents ≤ s.witnesses.length) ∧
    (let s := sPr 6 2 (fun p => { p with switchAt := some 1000016 }); s.RegsOk ∧ s.pair.switchAt = some 1000016 ∧ s.getF PAR_STAT_STATE = 6 ∧ 1000016 ≤ s.tick) ∧
    (∀ k ∈ [none, some 1000016], let s := (sPr 3 1 (fun p => { p with switchAt := k, applied := 9 })).setF PAR_STAT_ELIGIBLE 1 0; s.RegsOk ∧ s.flag PAR_STAT_ELIGIBLE = true ∧ s.pair.switchAt = k ∧ 9 ≤ s.pair.applied ∧
      1000016 ≤ s.tick ∧ s.nextEpoch < 2 ^ 32) := by
  refine ⟨by decide +kernel, by decide +kernel, by decide +kernel, by decide +kernel, by decide +kernel, ?_, ⟨pair_eta (by decide +kernel), by decide +kernel⟩, ⟨pair_eta (by decide +kernel), by decide +kernel⟩, by decide +kernel, by decide +kernel, by decide +kernel⟩
  intro st h w h'
  exact ⟨pair_eta ((by decide +kernel : ∀ st ∈ [0, 3, 4], ∀ w ∈ [[], [21, 22]], ((sPr st 1 (fun p => { p with grantFor := 1, grants := w })).fspTake 9 0x07 (fspOf 7 0 0 0 (natLe 4 1 ++ natLe 4 0))).1 = some (fspIs 7 0 0 0 (natLe 4 1 ++ natLe 4 0))) st h w h'),
    (by decide +kernel : ∀ st ∈ [0, 3, 4], ∀ w ∈ [[], [21, 22]], let d := natLe 4 1 ++ natLe 4 0; let s := sPr st 1 (fun p => { p with grantFor := 1, grants := w }); let u := (s.fspTake 9 0x07 (fspOf 7 0 0 0 d)).2
      u.RegsOk ∧ u.witnessId 4 = some 4 ∧ u.pair.grants.contains 4 = false ∧ leNat (d.take 4) = u.pair.grantFor ∧ u.getF PAR_STAT_STATE = st ∧ u.witnesses.length < 2 * (u.pair.grants.length + 1) ∧ u.nextEpoch < 2 ^ 32) st h w h'⟩
/-- A joining module's evidence. -/
def evT (chain idm ok : Bool) : JoinEvid := ⟨chain, true, idm, 0, 0, 0, 0, 0, !ok⟩
theorem witness_PairJoin :
    (mL.RegsOk ∧ mL.Runs ∧ mL.updateEnable = false ∧ (mP [(KRB_SWSTAT_UPDEN, 0, 1)]).RegsOk ∧ (mP [(KRB_SWSTAT_UPDEN, 0, 1)]).updateEnable = true) ∧
    (let s := sPr 6 2 (fun p => { p with partner := some (helT 3 true) }); s.RegsOk ∧ s.isLead = true ∧ s.switchOk = true ∧ mL.isLead = true ∧ mL.switchOk = false) ∧
    (∀ n ∈ [1, 4, 6], ∀ st ∈ [6, 7], let s := (sPr st 2 (fun p => { p with partner := some (helT 3 true) })).setF PAR_JOINSTAT_PHASE n 0; s.RegsOk ∧ s.isLead = true ∧ s.getF PAR_JOINSTAT_PHASE = n ∧ s.getF PAR_STAT_STATE = st ∧
      s.pair.partner = some (helT 3 true) ∧ (helT 3 true).seat ≠ s.seatB ∧ (helT 3 true).instId ≠ s.cfg.instId ∧
      (∀ e ∈ [(false, false, true), (true, true, true), (true, false, false), (true, false, true)], let e := evT e.1 e.2.1 e.2.2
        (!e.old42 && s.qualified e.kerbDigest e.modDigest && decide (s.bundle.protoLo ≤ e.protoHi) && decide (e.protoLo ≤ s.bundle.protoHi)) = !e.old42)) ∧
    (let s := sPr 1 0 id; s.RegsOk ∧ s.isLead = false ∧ s.getF PAR_STAT_STATE = 1 ∧ s.getF PAR_JOINSTAT_PHASE ≤ 2) ∧
    (let s := (sPr 2 0 (fun p => { p with bulkDone := true })).setF PAR_JOINSTAT_PHASE 4 0; s.RegsOk ∧ s.isLead = false ∧ s.getF PAR_STAT_STATE = 2 ∧ s.getF PAR_JOINSTAT_PHASE = 4 ∧ s.pair.bulkDone = true) ∧
    (∀ st ∈ [2, 3, 4], let s := sPr st 1 id; recT.intact = true ∧ 2 ≤ s.getF PAR_STAT_STATE ∧ s.getF PAR_STAT_STATE ≤ 4 ∧ s.arc.cyc = [] ∧ s.arc.evs = []) :=
  ⟨by decide +kernel, by decide +kernel, by decide +kernel, by decide +kernel, by decide +kernel, by decide +kernel⟩

/-- Station 4 in a state. -/
def sSt (st : Nat) (f : StaRt → StaRt) (l : List (Fld × Nat × Nat)) : State :=
  let s := mP ((PNE_STASTAT_STATE, 4, st) :: l)
  { s with plant := { s.plant with stas := [(4, f (s.staRt 4))] }, now := 20000000000 }
theorem witness_PlantStations :
    (∀ st ∈ [0, 2, 3, 4], ∀ p ∈ [([5, 0], 0), ([5], 0), ([5], 1)], let frame := fspOf 2 p.2 0 0 p.1; let s := sSt st id []; let u := (s.fspTake 9 0x02 frame).2
      (s.fspTake 9 0x02 frame).1 = some (fspIs 2 p.2 0 0 p.1) ∧ u.RegsOk ∧ 0 ≤ u.epoch ∧ u.station? 4 = some staT ∧ bitOf p.2 0 = decide (p.2 = 1) ∧
      (p.1.length = sigBytes (u.stationSigs 4 false) + (u.stationSigs 4 false).length ↔ p.1 = [5, 0])) ∧
    (let frame := fspOf 2 0 0 0 [5]; let s : State := { mP [] with pkgs := [(0, pH)] }; (s.fspTake 9 0x02 frame).1 = some (fspIs 2 0 0 0 [5]) ∧ (s.fspTake 9 0x02 frame).2.station? 4 = none) ∧
    (let d := natLe 8 0; ((mP []).fspTake 9 0x03 (fspOf 3 0 0 0 d)).1 = some (fspIs 3 0 0 0 d) ∧ 0 < d.length / 8) ∧
    (∀ st ∈ [1, 2], ∀ x ∈ [(0, 0), (1, 0), (0, 1)], let d := natLe 32 x.1 ++ [BitVec.ofNat 8 x.2]; let s := sSt st id []; let u := (s.fspTake 9 0x0C (fspOf 0x0C 0 0 0 d)).2
      (s.fspTake 9 0x0C (fspOf 0x0C 0 0 0 d)).1 = some (fspIs 0x0C 0 0 0 d) ∧ u.RegsOk ∧ u.station? 4 = some staT ∧ u.getF PNE_STASTAT_STATE 4 = st ∧ (d.getD 32 0).toNat = x.2 ∧ leNat (d.take 32) = x.1) ∧
    (∀ n ∈ [2, 3], let s := sSt 1 (fun x => { x with tries := n }) []; s.RegsOk ∧ s.kerb.phase ≠ .off ∧ s.station? 4 = some staT ∧ s.getF PNE_STASTAT_STATE 4 = 1 ∧ (s.staRt 4).tries = n ∧ s.flag PNE_PORTSTAT_GCLERR 9 = false) ∧
    (∀ st ∈ [2, 3], (sSt st id []).getF PNE_STASTAT_STATE 4 = st) ∧
    (∀ p ∈ [(0, natLe 2 7 ++ natLe 2 0 ++ [5]), (1, natLe 2 7 ++ natLe 2 0 ++ [5]), (0, natLe 2 8 ++ natLe 2 0)], let s := mP []; let u := (s.fspTake 9 0x10 (fspOf 0x10 p.1 0 0 p.2)).2
      (s.fspTake 9 0x10 (fspOf 0x10 p.1 0 0 p.2)).1 = some (fspIs 0x10 p.1 0 0 p.2) ∧ tabGet 0 u.plant.prodHe 4 ≤ 0 ∧
      u.cfg.peers.find? (fun x => x.producer = 4 && x.set = leNat (p.2.take 2)) = (if leNat (p.2.take 2) = 7 then some ⟨7, 4, 1000, 1000, none⟩ else none) ∧
      (leNat (p.2.take 2) = 7 → p.2.length = 4 + sigBytes (u.peerSigs 7)) ∧ (u.sysAddr .station u.seatB (0x1000 + 7)) = none) ∧
    (∀ l ∈ [9, 104], ∀ v ∈ [(0, false), (4 + 16 * 9, true)], let s := mP [(PNE_PORTSEL_LINK, 0, l)]; s.RegsOk ∧ s.Runs ∧ s.getF PNE_PORTSEL_LINK (Path.mgmt 0).code = l ∧
      decide (bits v.1 2 2 ≠ 0 ∧ (bits v.1 4 7 / 4 = 9 / 4 ∨ 104 ≤ bits v.1 4 7)) = v.2) ∧
    (let s := mP [(SCH_MODE_MODE, 0, 2)]; s.RegsOk ∧ s.isLead = true ∧ s.mode = 2 ∧ s.kerb.phase ≠ .off ∧ s.flag PNE_CTL_KERBSTOP = false ∧ ∀ d ∈ s.cfg.stations, s.flag PNE_PORTSTAT_GCLERR d.link.val = false) ∧
    (let s := sSt 2 id []; s.RegsOk ∧ s.getF PNE_STASTAT_MODE 4 ≠ (3 : Byte).toNat ∧ 0 + hopsMax s.cfg.stations + s.writerPeriod 4 ≤ s.now) ∧
    (∀ b ∈ [true, false], ∀ a ∈ [none, some 0], let s := sSt 4 (fun x => { x with sentAt := a, badMode := b }) [(PNE_CUTCFG_MODEWAIT, 0, 1)]; s.RegsOk ∧ s.station? 4 = some staT ∧ s.isLead = true ∧ s.getF PNE_STASTAT_STATE 4 = 4 ∧
      s.flag PNE_PORTSTAT_GCLERR 9 = false ∧ (∀ x ∈ a, x + (if b then 1000000000 else 10000000) ≤ s.now) ∧ (s.staRt 4).missedAt + s.getF PNE_CUTCFG_MODEWAIT * 1000000000 ≤ s.now) := by
  refine ⟨?_, ?_, ?_, ?_, ?_, ?_, ?_, ?_, ?_, ?_, ?_⟩ <;> decide +kernel
/-- Time domains 0 and 1 held or not, one of them active. -/
def sDom (st a d0 d1 : Nat) (l : List (Fld × Nat × Nat)) : State :=
  let s := mP ([(PAR_STAT_STATE, 0, st), (TIM_STAT_ACTIVE, 0, a), (TIM_STAT_D0LOCK, 0, d0), (TIM_STAT_D1LOCK, 0, d1)] ++ l)
  { s with now := 70000000000 }
def plsT (n : Nat) (b : Bool) : PulseRt := ⟨0, 1000, 100, false, n, b⟩
theorem witness_PlantTime :
    (∀ st ∈ [0, 3, 6, 7], ∀ a ∈ [0, 1], ∀ d0 ∈ [0, 1], ∀ d1 ∈ [0, 1], let s := sDom st a d0 d1 []; s.RegsOk ∧ s.Runs ∧ s.kerb.phase ≠ .off ∧ s.getF PAR_STAT_STATE = st ∧ s.getF TIM_STAT_ACTIVE = a ∧ s.domHeld 0 = decide (d0 = 1) ∧
      s.domHeld 1 = decide (d1 = 1) ∧ s.plant.stepped = false ∧ (s.dom 0).good = 0) ∧
    (let s := sDom 7 1 0 1 []; let u : State := { s with plant := { s.plant with doms := [(0, { s.dom 0 with good := 15 })] } }; u.RegsOk ∧ u.domHeld 0 = false ∧ 16 ≤ sat 32 ((u.dom 0).good + 1) ∧ u.domHeld (u.getF TIM_STAT_ACTIVE) = true) ∧
    (let s := sDom 7 1 1 1 [(TIM_CTL_AUTOSWITCH, 0, 1), (TIM_CTL_DOMPREF, 0, 0)]; s.RegsOk ∧ s.flag TIM_CTL_AUTOSWITCH = true ∧ s.getF TIM_STAT_ACTIVE ≠ s.getF TIM_CTL_DOMPREF ∧ s.domHeld (s.getF TIM_CTL_DOMPREF) = true ∧
      s.flag TIM_STAT_DOMSPLIT = false ∧ (s.dom 0).lockedAt + 60000000000 ≤ s.now ∧ mL.flag TIM_CTL_AUTOSWITCH && mL.domHeld 0 = false) ∧
    (let s := sDom 7 1 1 1 []; let u : State := { s with plant := { s.plant with doms := [(0, { s.dom 0 with offset := 1000000 })] } }; u.RegsOk ∧ u.domApart = true ∧ u.flag TIM_STAT_DOMSPLIT = false ∧ s.domApart = false) ∧
    (∀ p ∈ [(0, 1000, 100), (80, 1000, 100), (80, 999, 100)], let s := sDom 7 0 1 1 [(TIM_POSTART_SEC, 0, p.1), (TIM_POPERIOD_NS, 0, p.2.1), (TIM_POWIDTH_NS, 0, p.2.2)]
      let start := (s.now / 1000000000 / 2 ^ 32 * 2 ^ 32 + s.asWritten TIM_POSTART_SEC 0) * 1000000000 + s.asWritten TIM_POSTARTNS_NS 0
      let per := s.asWritten TIM_POPERIOD_NS 0; let w := s.asWritten TIM_POWIDTH_NS 0
      s.RegsOk ∧ s.getF TIM_POSEL_OUT (Path.mgmt 0).code = 0 ∧ (start < s.now + 10000 ↔ p.1 = 0) ∧ ((per < 1000 ∨ 4000000000 < per ∨ w < 8 ∨ per < w + 8) ↔ p.2.1 = 999) ∧ tabGet? s.plant.pulses 0 = none) ∧
    (∀ p ∈ [plsT 0 false, plsT 1 false, plsT 0 true], let s : State := { mL with plant := { mL.plant with pulses := [(0, p)] } }; s.RegsOk ∧ tabGet? s.plant.pulses 0 = some p ∧ tabRising s.plant.pulses = true) ∧
    (∀ v ∈ [0, 1], let s := mP [(TIM_CAPCFG_EDGE2, 0, v), (TIM_CAPCFG_MEASEN, 0, 1)]; s.RegsOk ∧ bitOf (s.getF TIM_CAPCFG_EDGE2) 0 = decide (v = 1) ∧ s.flag TIM_CAPCFG_MEASEN = true ∧ s.flag TIM_CAPCFG_STARTIN = false ∧
      s.flag TIM_CAPCFG_STARTEDGE = false ∧ s.flag TIM_CAPCFG_STOPEDGE = false) ∧
    (let s : State := { mL with pkgs := [(0, { pP with sys := [⟨.dioTail, false, 0, 0x100⟩, ⟨.timTail, false, 0, 0x200⟩, ⟨.canRxTail, false, 0, 0x300⟩] })] }; s.RegsOk ∧ s.Runs ∧ s.isLead = true ∧ mR.isLead = false ∧
      s.sysAddr .dioTail s.seatB 0 = some 0x100 ∧ s.sysAddr .timTail s.seatB 0 = some 0x200 ∧ s.sysAddr .canRxTail s.seatB (s.getF CAN_PORTSEL_PORT (Path.mgmt 0).code) = some 0x300 ∧
      mL.sysAddr .dioTail false 0 = none ∧ mL.sysAddr .timTail false 0 = none ∧ mL.sysAddr .canRxTail false 0 = none) := by
  refine ⟨?_, ?_, ?_, ?_, ?_, ?_, ?_, ?_⟩ <;> decide +kernel

/-- A candidate that the loader accepts, and a module at a step of an on-line change. -/
def pNew : Pkg := { Pkg.empty with gen := 1, sigOk := true, stations := [staT, { staT with no := 5 }, { staT with no := 6 }] }
def sOl (st role step : Nat) (l : List (Fld × Nat × Nat)) : State :=
  let s := mP ([(PAR_STAT_STATE, 0, st), (PAR_STAT_ROLE, 0, role), (SCH_OLCSTAT_STEP, 0, step)] ++ l)
  { s with olc := { s.olc with cand := some pNew, actAt := if step = 4 then some 9 else none, chunks := [(0, [])] }, tick := 10 }
theorem witness_OnlineChange :
    (∀ st ∈ [6, 7], ∀ m ∈ [0, 1], let s := sOl st 2 1 [(SCH_CFGSTAT_CHECKED, 0, 1), (SCH_MODE_MODE, 0, m)]; s.RegsOk ∧ s.Runs ∧ s.isLead = true ∧ s.armCause = 0 ∧ s.olc.cand = some pNew ∧ s.getF PAR_STAT_STATE = st ∧
      s.pkgState = true ∧ s.mode = m ∧ 1 ≤ s.step_ ∧ s.step_ ≤ 4 ∧ ∀ a ∈ s.olc.actAt, s.tick < a) ∧
    (let s := sOl 6 2 1 []; s.RegsOk ∧ s.isLead = true ∧ s.armCause ≠ 0 ∧ s.pkgState = true ∧ s.mode = 0 ∧ s.step_ ∉ [0, 6, 7] ∧ s.flag SCH_CFGSTAT_OPEN = false ∧ mR.isLead = false) ∧
    (let s := sOl 3 1 0 []; s.RegsOk ∧ s.Runs ∧ s.isLead = false ∧ s.pkgState = false) ∧
    (let s := sOl 6 2 6 []; s.RegsOk ∧ s.pkgState = true ∧ s.step_ ∈ [0, 6, 7] ∧ ¬ (1 ≤ s.step_ ∧ s.step_ ≤ 4 ∧ ∀ a ∈ s.olc.actAt, s.tick < a)) ∧
    (let s := sOl 6 2 1 [(SCH_CFGSTAT_OPEN, 0, 1), (SCH_CFGLEN_LEN, 0, 1)]; s.RegsOk ∧ s.flag SCH_CFGSTAT_OPEN = true ∧ chunksUpTo s.olc.chunks (s.getF SCH_CFGLEN_LEN) = true ∧ s.updateEnable = false ∧ s.refuseCause pNew = 0 ∧
      s.refuseCause Pkg.empty ≠ 0 ∧ pNew.keys.isEmpty = true ∧ ({ pNew with keys := [1] } : Pkg).keys.isEmpty = false) ∧
    (∀ b ∈ [true, false], let s := sOl 6 2 2 []; let u : State := { s with olc := { s.olc with load := b } }; u.RegsOk ∧ u.isLead = true ∧ u.step_ = 2 ∧ u.olc.load = b) ∧
    (let s := sOl 6 2 3 []; s.RegsOk ∧ s.isLead = true ∧ s.step_ = 3) ∧
    (∀ p ∈ [(6, 2), (0, 0)], let s := sOl p.1 p.2 4 []; s.RegsOk ∧ s.olc.actAt = some 9 ∧ s.olc.cand = some pNew ∧ s.step_ = 4 ∧ 9 ≤ s.tick ∧ (s.getF PAR_STAT_STATE = 0 ∨ 6 ≤ s.getF PAR_STAT_STATE) ∧ s.isLead = decide (p.2 = 2)) ∧
    ((sOl 3 1 4 []).olc.actAt = some 9 ∧ ¬ ((sOl 3 1 4 []).getF PAR_STAT_STATE = 0 ∨ 6 ≤ (sOl 3 1 4 []).getF PAR_STAT_STATE) ∧ mL.olc.actAt = none) := by
  refine ⟨?_, ?_, ?_, ?_, ?_, ?_, ?_, ?_, ?_⟩ <;> decide +kernel

theorem witness_OnlineChange_crc : let x := crc32c (memRdL mR.olc.win 0 32768)
    ∀ c ∈ [x, if x = 0 then 1 else 0], let s := mk [(SCH_CFGSTAT_OPEN, 0, 1), (SCH_CFGCRC_CRC, 0, c)]
      s.RegsOk ∧ s.Runs ∧ s.pkgState = true ∧ s.flag SCH_CFGSTAT_OPEN = true ∧ s.getF SCH_CFGCRC_CRC = c ∧ crc32c (memRdL s.olc.win 0 32768) = x := by
  have k : ∀ c, c < 2 ^ 32 → (mk [(SCH_CFGSTAT_OPEN, 0, 1), (SCH_CFGCRC_CRC, 0, c)]).RegsOk ∧ (mk [(SCH_CFGSTAT_OPEN, 0, 1), (SCH_CFGCRC_CRC, 0, c)]).flag SCH_CFGSTAT_OPEN = true ∧
      (mk [(SCH_CFGSTAT_OPEN, 0, 1), (SCH_CFGCRC_CRC, 0, c)]).pkgState = true ∧ (mk [(SCH_CFGSTAT_OPEN, 0, 1), (SCH_CFGCRC_CRC, 0, c)]).getF SCH_CFGCRC_CRC = c := by
    intro c hl
    have h0 : mR.RegsOk := by decide +kernel
    have h1 := regs_setF_rising mR SCH_CFGSTAT_OPEN 1 0 h0
    have e : mk [(SCH_CFGSTAT_OPEN, 0, 1), (SCH_CFGCRC_CRC, 0, c)] = (mR.setF SCH_CFGSTAT_OPEN 1 0).setF SCH_CFGCRC_CRC c 0 := rfl
    have p : ((mR.setF SCH_CFGSTAT_OPEN 1 0).setF SCH_CFGCRC_CRC c 0).getF PAR_STAT_STATE = 0 := (getF_setF_ne _ _ h1 (by decide)).trans ((getF_setF_ne _ _ h0 (by decide)).trans (by decide +kernel))
    rw [e]
    exact ⟨regs_setF_rising _ _ _ _ h1, by simp only [State.flag, getF_setF_ne _ _ h1 (show SCH_CFGSTAT_OPEN.key 0 ≠ SCH_CFGCRC_CRC.key 0 by decide), getF_setF_self _ _ _ _ h0]; decide,
      by simp [State.pkgState, p], (getF_setF_self _ _ _ _ h1).trans (Nat.mod_eq_of_lt hl)⟩
  have hx := crc32c_lt (memRdL mR.olc.win 0 32768)
  generalize hg : crc32c (memRdL mR.olc.win 0 32768) = x at *
  intro x' c hc s
  have hl : c < 2 ^ 32 := by
    simp only [List.mem_cons, List.not_mem_nil, or_false] at hc
    rcases hc with rfl | rfl
    · exact hx
    · split <;> decide
  exact ⟨(k c hl).1, rfl, (k c hl).2.2.1, (k c hl).2.1, (k c hl).2.2.2, hg⟩
/-- Connection 1 with one input signal, function 2, a HART device on channel 3, and a receive mapping of CAN port 1. -/
def conT : ConnDef := ⟨1, 5, 3, 10, 1000, 1000, true, .seat, [5], [], 0⟩
def fnT : FnDef := ⟨2, 0, false, false, 0, 0, 0, 0, 3, [], [], 0, 0⟩
def harT : HartDef := ⟨4, 3, 0, false, false⟩
def rxT : CanRxMap := ⟨false, 1, 0, 0x12, 0x7FF, false, false, 0, []⟩
def pQ : Pkg := { pP with conns := [conT], fns := [fnT], harts := [harT], canRx := [rxT] }
def mQ (l : List (Fld × Nat × Nat)) : State := { mP ((SCH_TASKCFG_PERIOD, 3, 16) :: l) with pkgs := [(0, pQ)], tick := 16, now := 1000000 }
/-- A PDU of the connection: epoch, sequence number, echo, flags; its CRC right or not. -/
def pduT (ep seq echo fl : Nat) (ok : Bool) : List Byte :=
  let b := natLe 4 ep ++ natLe 2 seq ++ natLe 2 echo ++ natLe 1 fl ++ natLe 1 0 ++ natLe 2 1 ++ [7]
  b ++ natLe 4 (if ok then scrc 5 b else scrc 6 b)
def sCon (st run : Nat) (reint : Bool) : State :=
  let s := mQ [(SFY_CONNSTAT_STATE, 1, st)]
  { s with io := { s.io with conns := [(1, ⟨9, 0, run, reint, []⟩)] } }
theorem witness_SafetyFunctions :
    (∀ st ∈ [0, 1, 2], ∀ run ∈ [0, 2], ∀ re ∈ [true, false], let s := sCon st run re; s.RegsOk ∧ s.kerb.phase ≠ .off ∧ s.conn? 1 = some conT ∧ s.conn? 7 = none ∧ s.getF SFY_CONNSTAT_STATE 1 = st ∧ s.connRt 1 = ⟨9, 0, run, re, []⟩ ∧
      sigBytes (s.connSigs conT.ins) = 1 ∧ s.epoch = 0 ∧ s.echoFresh conT 1 = true ∧ s.echoFresh conT 0 = false ∧ fslWin conT.fwdt conT.ivlFar = 101) ∧
    (∀ p ∈ [(0, 10, 1, 0, true), (0, 10, 1, 1, true), (1, 10, 1, 0, true), (0, 9, 1, 0, true), (0, 10, 0, 0, true), (0, 10, 1, 0, false)], let d := pduT p.1 p.2.1 p.2.2.1 p.2.2.2.1 p.2.2.2.2; let g := fun (o k : Nat) => leNat ((d.drop o).take k)
      g 0 4 = p.1 ∧ (g 4 2 + 65536 - 9) % 65536 = p.2.1 - 9 ∧ g 6 2 = p.2.2.1 ∧ bitOf (g 8 1) 0 = decide (p.2.2.2.1 = 1) ∧ g 0x0A 2 = 1 ∧ d.length = 0x10 + g 0x0A 2 ∧
      (g (0x0C + g 0x0A 2) 4 = scrc 5 (d.take (0x0C + g 0x0A 2)) ↔ p.2.2.2.2 = true)) ∧
    (let s := mQ [(DIO_CHCFG_MODE, 2, 5), (DIO_CHSTAT_VALUE, 2, 1)]; let u : State := { s with io := { s.io with hold := false } }; u.RegsOk ∧ u.getF DIO_CHCFG_MODE 2 = 5 ∧ u.commanded 2 = true ∧ u.latched 2 = false ∧
      (u.dioCh 2).pulse = none ∧ u.pulseWaits 2 = false ∧ mL.commanded 2 = false) ∧
    (∀ b ∈ [true, false], let s := mQ []; let u : State := { s with io := { s.io with dio := [(2, { s.dioCh 2 with pulse := some ⟨0, 9, 0, b⟩ })] } }; u.RegsOk ∧ (u.dioCh 2).pulse = some ⟨0, 9, 0, b⟩ ∧ (s.dioCh 2).pulse = none) ∧
    (∀ n ∈ [0, 1], let s := mQ [(SFY_FNSTAT_STATE, 2, n)]; let u : State := { s with io := { s.io with fns := [(2, { s.fnRt 2 with healthy := some 1 })] } }; u.RegsOk ∧ u.getF SFY_FNSTAT_STATE 2 = n ∧ (u.fnRt 2).healthy.isSome = true ∧
      u.fnDef? 2 = some fnT ∧ fnT.kind ≠ 1) ∧
    (let s := mQ [(KRB_SWSTAT_SAFEEDIT, 0, 1), (SFY_SIG0_SIG, 0, 77)]; s.RegsOk ∧ s.Runs ∧ s.safetyEdit = true ∧ (77 : W32).toNat = s.getF SFY_SIG0_SIG ∧ (78 : W32).toNat ≠ s.getF SFY_SIG0_SIG ∧ mL.safetyEdit = false) ∧
    (let s := mQ [(DIO_CHCFG_MODE, 2, 4), (DIO_CHCFG_MODE, 3, 1), (DIO_CHSTAT_VALUE, 2, 1), (DIO_STAT_FSA, 0, 1)]; let u : State := { s with io := { s.io with hold := false, safe := false } }; u.RegsOk ∧ u.driven 2 = true ∧ u.driven 3 = false ∧
      isIn (u.getF DIO_CHCFG_MODE 3) = true ∧ isIn (u.getF DIO_CHCFG_MODE 2) = false) := by
  refine ⟨?_, ?_, ?_, ?_, ?_, ?_, ?_⟩ <;> decide +kernel

def sHrt (busy : Bool) (l : List (Fld × Nat × Nat)) : State := let s := mQ l; { s with io := { s.io with hart := [(4, { s.hartDev 4 with busy := busy })] } }
theorem witness_AnalogueChannels :
    (∀ n ∈ [2, 1], let s := mQ [(ADC_CTL_SEQLEN, 0, n)]; s.RegsOk ∧ s.getF ADC_STAT_ENTRY = 0 ∧ (n = 2 → s.getF ADC_STAT_ENTRY + 1 < s.getF ADC_CTL_SEQLEN) ∧ (n = 1 → s.getF ADC_CTL_SEQLEN ≤ s.getF ADC_STAT_ENTRY + 1) ∧ s.Runs ∧ s.io.urgent = []) ∧
    (let s := mQ []; let u : State := { s with io := { s.io with urgent := [(4, 0, false)] } }; u.RegsOk ∧ u.io.urgent ≠ [] ∧ u.Runs) ∧
    (let s := mQ [(AIO_AISTAT_LSLIM, 3, 1)]; s.RegsOk ∧ (s.flag AIO_AISTAT_LSLIM 3 && !s.flag AIO_AISTAT_LSOFF 3) = true ∧ (s.flag AIO_AISTAT_LSLIM 2 && !s.flag AIO_AISTAT_LSOFF 2) = false) ∧
    (let s := mQ [(AIO_AISTAT_LSOFF, 3, 1)]; s.RegsOk ∧ (s.flag AIO_AISTAT_LSOFF 3 && true) = true ∧ (s.flag AIO_AISTAT_LSOFF 2 && true) = false) ∧
    (∀ b ∈ [true, false], ∀ h ∈ [0, 1], ∀ lim ∈ [0, 1], let s := sHrt b [(AIO_AICFG_HART, 3, h), (AIO_AISTAT_LSLIM, 3, lim)]; s.RegsOk ∧ s.hartDef? 4 = some harT ∧ s.hartDef? 5 = none ∧ (s.hartDev 4).busy = b ∧
      (s.flag AIO_AICFG_HART 3 && !s.modemBusy (modemOf 3)) = (decide (h = 1) && !b) ∧ s.modemBusy 3 = b ∧ s.flag AIO_AISTAT_LSLIM 3 = decide (lim = 1) ∧ s.cfg.harts.find? (fun d => d.ch.val = 3) = some harT ∧
      s.cfg.harts.find? (fun d => d.ch.val = 2) = none ∧ s.flag AIO_AICFG_HART 3 = decide (h = 1)) ∧
    (∀ n ∈ [16, 3], let s := mQ [(AIO_CHSEL_CH, 0, n)]; s.RegsOk ∧ s.Runs ∧ s.getF AIO_CHSEL_CH (Path.mgmt 0).code = n) := by
  refine ⟨?_, ?_, ?_, ?_, ?_, ?_⟩ <;> decide +kernel

def frmT : CanFrame := ⟨0x12, false, false, false, false, false, [1], 0, 1⟩
/-- CAN port 1 in a mode and state, with something to send. -/
def sCan (mode st : Nat) (q slot w : Bool) (l : List (Fld × Nat × Nat)) : State :=
  let s := mQ ([(CAN_PORTCFG_MODE, 1, mode), (CAN_ERRSTAT_STATE, 1, st), (CAN_PORTSEL_PORT, 0, 1)] ++ l)
  { s with can := [(1, { CanPort.reset with queue := if q then [⟨3, 0, 0x12, 0, [1]⟩] else [], slots := if slot then [(0, { CanSlot.reset with content := some (0x11, 0, [2]), busy := true })] else [], waiting := w })] }
/-- Channel 60 of the image mover with fields put, and a run in progress or none. -/
def sMv (run : Option Bool) (l : List (Fld × Nat × Nat)) : State :=
  let s := mQ ((IMV_CHSEL_CH, 0, 60) :: l)
  { s with imv := match run with | some h => [(60, ⟨0, [], [], h⟩)] | none => [] }
theorem witness_CanAndMover :
    (∀ m ∈ [0, 1, 2], let s := sCan m 0 false false false []; s.RegsOk ∧ (s.canOn 1 && !(frmT.fdf && !s.flag CAN_PORTCFG_FDEN 1)) = decide (m ≠ 0) ∧ s.getF CAN_PORTCFG_MODE 1 = m ∧ (s.canPort 1).tec ≤ 255 ∧ (s.canPort 1).offered = none ∧
      (isort (fun (a b : CanRxMap) => decide (a.no < b.no)) (s.cfg.canRx.filter (fun m => m.port = 1 && m.seat = s.seatB && canTakes m frmT))).head? = some rxT) ∧
    (∀ o ∈ [0, 1], let s := sCan 1 0 true false false [(CAN_PORTCFG_ONESHOT, 1, o)]; s.RegsOk ∧ s.canSends 1 = true ∧ (s.canPort 1).offered = some (.queue ⟨3, 0, 0x12, 0, [1]⟩) ∧ (s.canPort 1).tec ≤ 255 ∧ s.flag CAN_PORTCFG_ONESHOT 1 = decide (o = 1)) ∧
    (let s := sCan 1 0 false true false []; s.RegsOk ∧ s.canSends 1 = true ∧ (s.canPort 1).offered = some (.slot 0) ∧ (s.canPort 1).tec ≤ 255 ∧ s.canOn 1 = true ∧ s.getF CAN_PORTCFG_MODE 1 ≠ 2) ∧
    (∀ w ∈ [true, false], let s := sCan 1 2 false false w []; s.RegsOk ∧ (decide (s.getF CAN_ERRSTAT_STATE 1 = 2) && (s.canPort 1).waiting) = w ∧ s.Runs ∧ s.getF CAN_PORTSEL_PORT (Path.mgmt 0).code = 1 ∧ s.getF CAN_ERRSTAT_STATE 1 = 2) ∧
    (∀ b ∈ [0, 1], let s := sMv none [(IMV_CHSTAT_BUSY, 60, b), (IMV_CHSTAT_BUSY, 3, 0)]; s.RegsOk ∧ s.Runs ∧ s.getF IMV_CHSEL_CH (Path.mgmt 0).code = 60 ∧ s.flag IMV_CHSTAT_BUSY 60 = decide (b = 1) ∧ tabGet? s.imv 60 = none) ∧
    mL.getF IMV_CHSEL_CH (Path.mgmt 0).code < 60 := by
  refine ⟨?_, ?_, ?_, ?_, ?_, ?_⟩ <;> decide +kernel
/-- The state in which IMV_START judges its channel. -/
def uMv (s : State) (v : Nat) : State := (State.chctl (s.setF KRB_IGNSTAT_IGNCNT 0) 60 v).setF IMV_CHSTAT_PRIO (imvPrio 60) 60
theorem witness_CanAndMover_mover :
    (∀ p ∈ [(0, 64, 0), (0x40, 0, 0), (0x40, 64, 0), (0x40, 64, 1)], let s := sMv none [(IMV_CHLEN_LEN, 60, p.2.1), (ACU_RLIMLO_LIMIT, 0x200 * 32, 0xFFFFF), (ACU_RATTR_RD, 0x200 * 32, 1), (ACU_RATTR_EN, 0x200 * 32, p.2.2)]
      let u := uMv s p.1; let d := u.movDesc 60; s.RegsOk ∧ s.flag IMV_CHSTAT_BUSY 60 = false ∧
      ((d.none_ = true ∨ s.mode = 0 ∧ (s.getF PAR_STAT_STATE = 0 ∨ s.getF PAR_STAT_STATE = 8)) ↔ p.1 = 0x40) ∧ d.bad = decide (p.2.1 = 0) ∧ (d.bad = false → (u.movRefused d = none ↔ p.2.2 = 1))) ∧
    (∀ h ∈ [true, false], ∀ n ∈ [0, 1], let s := sMv (some h) [(IMV_CHCTL_DSTNONE, 60, 1), (IMV_CHLEN_LEN, 60, 64), (IMV_CHSTAT_RUNSLEFT, 60, n)]; let u := s.bump IMV_CNT_PREEMPT 0 0; let d := u.movDesc 60; let m : MovRt := ⟨0, [], [], h⟩
      s.RegsOk ∧ s.sq.cells = [] ∧ s.sq.mapErrs = [] ∧ tabGet? s.imv 60 = some m ∧ u.movErr m d (some 0) = some 0 ∧ u.movErr m d none = none ∧ d.crc ≠ 3 ∧ d.none_ = true ∧ s.getF IMV_CHSTAT_RUNSLEFT 60 = n) ∧
    (∀ t ∈ [0, 90000000000000], let s : State := { (mQ []).modKerb (fun k => { k with p2 := [(1, t)] }) with now := 90000000000000 }; s.RegsOk ∧ s.kerb.p2.find? (fun p => p.1 = 1) = some (1, t) ∧ s.kerb.p2.find? (fun p => p.1 = 2) = none ∧
      (t + 28800000000000 ≤ s.now ↔ t = 0) ∧ 2 ∈ quarterLanes 0) := by
  refine ⟨?_, ?_, ?_⟩ <;> decide +kernel

/-- Task 3 of a kind in RUN, the initialisation over, its table and its run put. -/
def sRel (kind : Nat) (f : TaskRt → TaskRt) (l : List (Fld × Nat × Nat)) : State :=
  let s := mQ ([(SCH_MODE_MODE, 0, 1), (SCH_TASKCFG_KIND, 3, kind), (SCH_TASKSTAT_STATE, 3, 1)] ++ l)
  { s.modTask 3 f with sched := { (s.modTask 3 f).sched with initDone := true } }
def rLate (b : Bool) : Run := { rT stT with grid := 0, rel := 0, late := b }
theorem witness_TaskReleases :
    (∀ o ∈ [none, some (0, 8)], ∀ n ∈ [0, 15], let s := sRel 0 (fun x => { x with owed := o }) [(SCH_TASKPHASE_LANES, 3, n), (XNG_LANESTAT_ROLE, 0, 3)]; s.RegsOk ∧ s.taskDef? 3 = some dTag ∧ s.releases 3 = true ∧ (s.taskRt 3).endTick ≠ some s.tick ∧ s.getF SCH_TASKSTAT_STATE 3 = 1 ∧
      (s.taskRt 3).released = false ∧ s.kind 3 = 0 ∧ (s.taskRt 3).owed = o ∧ s.gridFrom 3 s.tick = s.tick ∧ s.taskShort 3 = decide (n = 15) ∧ s.pair.switchAt = none ∧ 8 ≤ s.tick) ∧
    (∀ k ∈ [1, 2], let s := sRel k (fun x => { x with acts := 1 }) [(SCH_TASKPHASE_LANES, 3, 1)]; s.RegsOk ∧ s.taskDef? 3 = some dTag ∧ s.releases 3 = true ∧ (s.taskRt 3).endTick ≠ some s.tick ∧ s.getF SCH_TASKSTAT_STATE 3 = 1 ∧ 0 < (s.taskRt 3).acts ∧
      (s.taskRt 3).released = false ∧ s.taskShort 3 = false ∧ s.kind 3 = k ∧ (k = 2 → s.errorTask = some 3)) ∧
    (∀ b ∈ [true, false], ∀ p ∈ [0, 1], let s := (sRel 0 (fun x => { x with owed := if b then some (0, 0) else none }) [(SCH_MODE_PROFILE, 0, p)]).putRun (rLate b); s.RegsOk ∧ s.run? .real 3 = some (rLate b) ∧ (rLate b).ctx = .real ∧ (rLate b).task = 3 ∧
      s.watched 3 = true ∧ (rLate b).st ≠ .xcp ∧ (rLate b).late = b ∧ s.lateTick (rLate b) ≤ s.tick ∧ (b = true → (s.taskRt 3).owed = some (0, 0)) ∧ 0 + s.periodOf (rLate b) ≤ s.tick ∧ s.isSafety 3 = false ∧
      s.flag SCH_MODE_PROFILE = decide (p = 1)) := by
  refine ⟨?_, ?_, ?_⟩ <;> decide +kernel

/-- The CRC-32C that a reset module's epoch copies hold is that of epoch 0 (R193). -/
theorem test_reset_epochs : crc32c (natLe 4 0) = 0x48674BC7 := by decide +kernel

end Sys2Proof.Tests
end

section
/-! PROOFS. The Kerb set, the Kerb's housekeeping and the start of a restart (01, R16 to R23; 17, R434, R453; 18, R462, R463, R470). -/
namespace Sys2Proof.Machine

/-! ### Measuring leaves the Kerb, the clock and the Square -/

/-- Measuring leaves the Kerb as it is. -/
@[simp] theorem State.measure_kerb (s : State) (m : PwrMeas) : (s.measure m).kerb = s.kerb := by
  obtain ⟨r, a, e⟩ := s.measure_frame m
  rw [e]
/-- Measuring leaves the clock as it is. -/
@[simp] theorem State.measure_now (s : State) (m : PwrMeas) : (s.measure m).now = s.now := by
  obtain ⟨r, a, e⟩ := s.measure_frame m
  rw [e]
/-- Measuring leaves the Square as it is. -/
@[simp] theorem State.measure_sq (s : State) (m : PwrMeas) : (s.measure m).sq = s.sq := by
  obtain ⟨r, a, e⟩ := s.measure_frame m
  rw [e]

/-! ### The Kerb set (R19 to R21) -/

/-- The Kerb set decided in `s` for a cause: its record taken, state K with TRIPPED, the outputs in the hands of the safe-state drivers. -/
def KerbSetTaken (s : State) (cause : Nat) (t : State) : Prop :=
  t.kerb.phase = .off ∧ (∃ k, t.kerb.kset = some k ∧ k.cause = cause ∧ k.csn = s.sq.csn ∧ k.time = s.now) ∧
  t.getF PWR_STAT_PSTATE = 4 ∧ t.getF KRB_HBCFG_TRIPPED = 1 ∧ t.io.safe = true

/-- A module that is not off takes the Kerb set. -/
theorem State.kerbSet_taken {s : State} (h : s.RegsOk) (hp : s.kerb.phase ≠ .off) (c : Nat) : KerbSetTaken s c (s.kerbSet c) := by
  obtain ⟨hoff, hset, hps, htr, hsafe⟩ := State.kerbSet_does h hp c
  exact ⟨hoff, ⟨_, hset, rfl, rfl, rfl⟩, hps, htr, hsafe⟩

/-- The same after the sensors have been read: the record's CSN and time are those of the state before. -/
theorem State.measure_kerbSet_taken {s : State} (h : s.RegsOk) (hp : s.kerb.phase ≠ .off) (m : PwrMeas) (c : Nat) :
    KerbSetTaken s c ((s.measure m).kerbSet c) := by
  have t := State.kerbSet_taken (Chg.measure h m).ok (by rwa [State.measure_kerb]) c
  rwa [KerbSetTaken, State.measure_sq, State.measure_now] at t

/-- WEDGE_DECISION of a watched source whose silence reaches TIMEOUT decides the Kerb set. -/
theorem execWedgeDecision_due {s : State} {src : Fin 8} {ticks : Nat} (hw : s.isWatched src.val = true)
    (ht : s.getF KRB_HBCFG_TIMEOUT ≤ tabGet 0 s.kerb.miss src.val + ticks) : execWedgeDecision src ticks s = .next (s.kerbSet 1) := by
  unfold execWedgeDecision
  rw [if_pos (by simpa [hw] using ht)]

/-- MAINS_LOSS_DECISION with both inputs shown absent decides it. -/
theorem execMainsLossDecision_due {s : State} (h : s.RegsOk) (m : PwrMeas) (ha : s.getF PWR_STAT_MAINSA = 0) (hb : s.getF PWR_STAT_MAINSB = 0) :
    execMainsLossDecision m s = .next ((s.measure m).kerbSet 2) := by
  have ea : (s.measure m).getF PWR_STAT_MAINSA = 0 := ((Chg.measure h m).only _ _ (by decide)).trans ha
  have eb : (s.measure m).getF PWR_STAT_MAINSB = 0 := ((Chg.measure h m).only _ _ (by decide)).trans hb
  unfold execMainsLossDecision
  dsimp only
  rw [if_pos (by simp [State.flag, ea, eb])]

/-- BUS_UNDERVOLTAGE with the bus below 36 V decides it. -/
theorem execBusUndervoltage_due {s : State} (h : s.RegsOk) {m : PwrMeas} (hb : m.bus.toNat % 2 ^ 16 < 3600) :
    execBusUndervoltage m s = .next ((s.measure m).kerbSet 2) := by
  obtain ⟨ebus, -⟩ := State.measure_reads h m
  unfold execBusUndervoltage
  dsimp only
  rw [if_pos (by rwa [ebus])]

/-- TEMPERATURE_CRITICAL with a sensor at its critical limit decides it. -/
theorem execTemperatureCritical_due {s : State} (h : s.RegsOk) {m : PwrMeas}
    (ht : 1250 ≤ sgn 16 (m.temp.toNat / 2 ^ 16) ∨ 1050 ≤ sgn 16 (m.temp2.toNat / 2 ^ 16) ∨ 950 ≤ sgn 16 (m.temp2.toNat % 2 ^ 16)) :
    execTemperatureCritical m s = .next ((s.measure m).kerbSet 3) := by
  obtain ⟨-, -, edie, ecold, estack, -⟩ := State.measure_reads h m
  have hot : (s.measure m).hotAt 1250 1050 950 = true := by
    simp only [State.hotAt, State.temps, edie, ecold, estack, Bool.or_eq_true, decide_eq_true_eq, ge_iff_le, or_assoc]
    exact ht
  unfold execTemperatureCritical
  dsimp only
  rw [if_pos hot]

/-- KERBSTOP through a management port of a running module: the bookkeeping of the write leaves what the Kerb set put. -/
theorem execKerbstop_mgmt {s : State} (h : s.RegsOk) (hr : s.Runs) (n : Fin 8) :
    Gives (.kerbstop (.mgmt n)) s fun t => t.kerb.phase = .off ∧ (∃ k, t.kerb.kset = some k ∧ k.cause = 4) ∧ t.getF PWR_STAT_PSTATE = 4 ∧ t.io.safe = true := by
  have ha : s.aside.RegsOk := (Chg.aside h).ok
  have hon : s.aside.kerb.phase ≠ .off := by
    show s.kerb.phase ≠ .off
    rw [show s.kerb.phase = .run from hr]; decide
  obtain ⟨hoff, hset, hps, -, hsafe⟩ := State.kerbSet_does ha hon 4
  have hok : (s.aside.kerbSet 4).RegsOk := (State.kerbSet_keeps (Keeps.refl s.aside)).regs ha
  obtain ⟨e, c⟩ := State.written_run (s := s) (p := .mgmt n) (off := pwrCmdOff) (f := fun s => s.cmdKerbstop (.mgmt n)) hr rfl hok
    (by rw [show (s.aside.cmdKerbstop (.mgmt n)).kerb.phase = .off from hoff]; decide)
  have hbook : ∀ x ∈ book (pwrCmdOff / 0x10000), PWR_STAT_PSTATE.key 0 ≠ x.1.key x.2 := by decide
  refine ⟨_, rfl, ?_, ⟨s.aside.kset 4, ?_, rfl⟩, (c.only _ _ hbook).trans hps, ?_⟩
  · exact (congrArg (fun t => t.kerb.phase) e).trans hoff
  · exact (congrArg (fun t => t.kerb.kset) e).trans hset
  · exact (congrArg (fun t => t.io.safe) e).trans hsafe

/-- Settles O24: each condition makes its command reach the Kerb set, which the last-words record, state K and the safe-state drivers follow. -/
theorem kerbSetDecisions : Obligations.KerbSetDecisions := by
  unfold Obligations.KerbSetDecisions
  intro s h hp K
  refine ⟨fun src ticks hw ht => ?_, fun m ha hb => ?_, fun m hb => ?_, fun m ht => ?_, fun n hr => execKerbstop_mgmt h hr n, fun q hr => ?_⟩
  · exact ⟨_, execWedgeDecision_due hw ht, State.kerbSet_taken h hp 1⟩
  · exact ⟨_, execMainsLossDecision_due h m ha hb, State.measure_kerbSet_taken h hp m 2⟩
  · exact ⟨_, execBusUndervoltage_due h hb, State.measure_kerbSet_taken h hp m 2⟩
  · exact ⟨_, execTemperatureCritical_due h ht, State.measure_kerbSet_taken h hp m 3⟩
  · exact ⟨_, rfl, State.written_ign hr h rfl (by decide) (by decide) (by decide)⟩

/-! ### Housekeeping of the Kerb (R17, R22, R462, R470) -/

/-- A bit put into a byte stands there. -/
theorem bitOf_or_two_pow {n : Nat} (v : Nat) (hn : n < 8) : bitOf ((v ||| 2 ^ n) % 2 ^ 8) n = true := by
  unfold bitOf
  rw [← Nat.testBit_eq_decide_div_mod_eq, Nat.testBit_mod_two_pow, Nat.testBit_or, Nat.testBit_two_pow_self]
  simp [hn]

/-- The heartbeat noted: the source is heard, and the count of its silence ends. -/
def State.heartbeatNoted (s : State) (n : Nat) : State := s.modKerb (fun k => { k with hb := k.hb ||| 2 ^ n, miss := tabDel k.miss n })

/-- A Square controller whose page map is in doubt sends no heartbeat. -/
theorem execHeartbeat_inDoubt {s : State} {src : Fin 8} (h6 : src.val = 6) (hf : s.flag SQR_ECCSTAT_PMAPERR = true) : execHeartbeat src s = .next s := by
  unfold execHeartbeat
  dsimp only
  rw [if_pos (by simp [h6, hf])]

/-- Any other heartbeat is noted, and an unwatched quarter that is neither parked nor asleep is watched again. -/
theorem execHeartbeat_heard {s : State} {src : Fin 8} (hs : src.val ≠ 6 ∨ s.flag SQR_ECCSTAT_PMAPERR = false) :
    execHeartbeat src s = .next (if src.val < 6 && !s.isWatched src.val && !s.qParked src.val && !s.qAsleep src.val
      then (s.heartbeatNoted src.val).setF KRB_HBCFG_WATCHED (s.getF KRB_HBCFG_WATCHED ||| 2 ^ src.val) else s.heartbeatNoted src.val) := by
  unfold execHeartbeat
  dsimp only
  rw [if_neg (by rcases hs with hs | hs <;> simp [hs])]
  rfl

/-- The record just committed is the youngest of the ring. -/
theorem getLast?_lastN_append {α : Type} {n : Nat} (hn : 0 < n) (l : List α) (x : α) : (lastN n (l ++ [x])).getLast? = some x := by
  unfold lastN
  rw [List.getLast?_drop, if_neg (by simp; omega), List.getLast?_concat]

/-- Committing a last-words record: the ring, its number, its cause, and no Kerb set waits any more. -/
theorem State.putLastWords_does {s : State} (h : s.RegsOk) (k : KSet) (fail : Nat) :
    (s.putLastWords k fail).kerb =
      { s.kerb with lastWords := lastN 64 (s.kerb.lastWords ++ [lastWordsBytes s.kerb.lwSeq k fail]),
                    lwSeq := (s.kerb.lwSeq + 1) % 2 ^ 32, lwCause := k.cause, kset := none } ∧
    (s.putLastWords k fail).getF BOT_RSTCAUSE_LWCAUSE = k.cause % 2 ^ 8 ∧
    s.putLastWords k fail = { s with regs := (s.putLastWords k fail).regs, kerb := (s.putLastWords k fail).kerb } ∧
    Chg s (s.putLastWords k fail) [(BOT_RSTCAUSE_LWCAUSE, 0)] :=
  ⟨rfl, getF_setF_self _ _ _ _ h, rfl, ((Chg.refl h).setF BOT_RSTCAUSE_LWCAUSE k.cause 0).same rfl⟩

/-- Nothing, or a change of the Arcade only. -/
theorem arcOnly_ite {c : Prop} [Decidable c] {s t : State} (ht : ∃ a, t = { s with arc := a }) : ∃ a, (if c then t else s) = { s with arc := a } := by
  split
  · exact ht
  · exact ⟨_, rfl⟩

/-- MAINS_INPUT_CHANGE leaves the measured state where the input was shown so already; else it shows the input, and only event records and the Kerb's
account of the absences follow. -/
theorem execMainsInputChange_cases (b present : Bool) (at_ : Nat) (m : PwrMeas) (s : State) :
    ((s.measure m).flag (mainsFld b) = present ∧ execMainsInputChange b present at_ m s = .next (s.measure m)) ∨
    ∃ a k, execMainsInputChange b present at_ m s = .next { (s.measure m).setB (mainsFld b) present with arc := a, kerb := k } := by
  unfold execMainsInputChange
  dsimp only
  generalize s.measure m = u
  by_cases hf : u.flag (mainsFld b) = present
  · exact .inl ⟨hf, by rw [if_pos hf]⟩
  · right
    rw [if_neg hf]
    generalize u.setB (mainsFld b) present = v
    have he (c : Bool) : ∃ a, (if c then v.evHw 30 [b2n b, b2n present] else v) = { v with arc := a } := arcOnly_ite (v.evHw_frame _ _)
    choose a e using he
    rw [e]
    cases present with
    | false => exact ⟨_, _, rfl⟩
    | true =>
      rw [if_pos rfl]
      split
      · next x y _ _ _ =>
        obtain ⟨a', e'⟩ := arcOnly_ite (c := at_ < max x y + 12000000) (State.evHw_frame { v with arc := a _ } 31 [at_ - max x y])
        rw [e']
        exact ⟨_, _, rfl⟩
      · exact ⟨_, _, rfl⟩

/-- Entering a power state: PSTATE and the watched set show it, and of the rest only the Kerb changes, which waits for no wake any more. -/
theorem State.enterP_does {s : State} (h : s.RegsOk) (w : Nat) :
    (s.enterP w).getF PWR_STAT_PSTATE = w % 2 ^ 3 ∧ (s.enterP w).kerb.wake = none ∧
    s.enterP w = { s with regs := (s.enterP w).regs, kerb := (s.enterP w).kerb } ∧ OnlyRegs s (s.enterP w) [(PWR_STAT_PSTATE, 0), (KRB_HBCFG_WATCHED, 0)] := by
  unfold State.enterP
  dsimp only
  generalize List.foldl _ _ _ = v
  have c1 := (Chg.refl h).setF PWR_STAT_PSTATE w 0
  have c2 := c1.setF KRB_HBCFG_WATCHED v 0
  exact ⟨(getF_setF_ne _ _ c1.ok (by decide)).trans (getF_setF_self _ _ _ _ h), rfl, rfl, c2.only.mono (by decide)⟩

/-- POWER_STATE_WAKE_END, with a wake in progress: the power state it woke to, and completions for the host. -/
theorem execPowerStateWakeEnd_does {s : State} {w : Nat} (hw : s.kerb.wake = some w) :
    ∃ x, execPowerStateWakeEnd s = .next { s.enterP w with host := x } := by
  obtain ⟨x, e⟩ := State.latencyDone_frame (s.enterP w)
  unfold execPowerStateWakeEnd
  rw [hw]
  exact ⟨x, congrArg Host.Outcome.next e⟩

/-- Settles O26, clause by clause from what each of the four commands does. -/
theorem kerbHousekeeping : Obligations.KerbHousekeeping := by
  unfold Obligations.KerbHousekeeping
  intro s h
  refine ⟨fun src h6 hf => ⟨s, execHeartbeat_inDoubt h6 hf, rfl⟩, fun src hs => ⟨_, execHeartbeat_heard hs, ?_⟩, fun fail k hk => ?_,
    fun b present at_ m => ?_, fun w hw => ?_⟩
  · have c0 : Chg s (s.heartbeatNoted src.val) [] := (Chg.refl h).same rfl
    split
    · next hc =>
      exact ⟨rfl, fun _ _ _ => (congrArg (bitOf · src.val) (getF_setF_self _ _ _ _ c0.ok)).trans (bitOf_or_two_pow _ src.isLt), rfl,
        (c0.setF KRB_HBCFG_WATCHED _ 0).only⟩
    · next hc =>
      refine ⟨rfl, fun h6 hp ha => ?_, rfl, c0.only.mono (by simp)⟩
      show s.isWatched src.val = true
      simpa [h6, hp, ha] using hc
  · obtain ⟨ek, hcause, hrest, c⟩ := State.putLastWords_does h k fail.toNat
    refine ⟨s.putLastWords k fail.toNat, ?_, by rw [ek], by rw [ek], by rw [ek]; exact getLast?_lastN_append (by decide) _ _, hcause, hrest, c.only⟩
    show execLastWordsCommit fail s = _
    unfold execLastWordsCommit
    rw [hk]
  · have cm := Chg.measure h m
    have hw : (mainsFld b).w = 1 := by cases b <;> rfl
    have hv : PWR_MAINSA_V.key 0 ≠ (mainsFld b).key 0 := by cases b <;> decide
    obtain ⟨r, a, em⟩ := s.measure_frame m
    rcases execMainsInputChange_cases b present at_ m s with ⟨hf, e⟩ | ⟨a', k, e⟩
    · refine ⟨_, e, hf, rfl, ?_, cm.only.mono (fun x hx => List.mem_append_left _ hx)⟩
      rw [em]
    · refine ⟨_, e, flag_setB_self cm.ok present hw, getF_setF_ne _ _ cm.ok hv, ?_, (cm.setB (mainsFld b) present 0).only.mono ?_⟩
      · rw [em]
        rfl
      · intro x hx
        simpa [or_comm] using hx
  · obtain ⟨x, e⟩ := execPowerStateWakeEnd_does hw
    obtain ⟨hps, hwake, hrest, honly⟩ := State.enterP_does h w
    refine ⟨_, e, hps, hwake, ?_, honly⟩
    exact congrArg (fun t : State => { t with host := x }) hrest

/-! ### The start of a restart (R453, R454) -/

/-- After a stop of the Kerb processor no Kerb set is completed first. -/
theorem State.finishSet_watchdog (s : State) : s.finishSet 2 = s := by
  unfold State.finishSet
  cases s.kerb.kset <;> rfl

/-- A Kerb set on hand at a power-on is completed first, by what the readback found. -/
theorem State.finishSet_some {s : State} {k : KSet} (h : s.kerb.kset = some k) : s.finishSet 1 = s.free.2.putLastWords k (s.free.1 % 2 ^ 40) := by
  unfold State.finishSet
  rw [h]
  rfl

/-- What a restart with cause `c` takes over from the state `u`: of the Kerb, the Arcade and the rest of the module. -/
def RestartedFrom (u : State) (c : Nat) (env : BootEnv) (t : State) : Prop :=
  t.kerb.phase = .boot ∧ t.kerb.env = env ∧ t.getF BOT_RSTCAUSE_CAUSE = c ∧ t.kerb.keys = u.kerb.keys ∧ t.kerb.act = u.kerb.act ∧
  t.kerb.fuses = u.kerb.fuses ∧ t.kerb.partnerId = u.kerb.partnerId ∧ t.kerb.degMram = u.kerb.degMram ∧ t.kerb.epochs = u.kerb.epochs ∧
  t.arc.cyc = u.arc.cyc.takeWhile ArcRec.prog ∧ t.arc.evs = u.arc.evs.takeWhile ArcRec.prog ∧ t.arc.ret = u.arc.ret ∧
  t = { State.reset with pending := u.pending, regs := t.regs, out := u.out, fresh := t.fresh, now := u.now, tick := u.tick, pkgs := t.pkgs, arc := t.arc,
                         kerb := t.kerb, sq := { State.reset.sq with rowMap := u.sq.rowMap }, pair := t.pair } ∧
  OnlyRegs State.reset t restartFields

/-- A restart takes over from the state in which a Kerb set on hand has been completed. -/
theorem State.restart_from (s : State) (env : BootEnv) {c : Nat} (hc : c < 16) {u : State} (hu : s.finishSet c = u) :
    (s.restart c env).fresh = u.fresh ∧ (s.restart c env).kerb.lastWords = u.kerb.lastWords ∧
    (s.restart c env).getF BOT_RSTCAUSE_LWCAUSE = u.kerb.lwCause % 2 ^ 8 ∧ RestartedFrom u c env (s.restart c env) := by
  obtain ⟨hphase, henv, hcause, hlw, hrest, harc, honly⟩ := State.restart_does s env hc hu.symm
  generalize s.restart c env = t at *
  have hfresh : t.fresh = u.fresh := (congrArg State.fresh hrest :)
  have hpkgs : t.pkgs = u.keptPkgs := (congrArg State.pkgs hrest :)
  have hkerb : t.kerb = u.keptKerb env := (congrArg State.kerb hrest :)
  have hpair : t.pair = { PairRt.reset with lastLead := u.pair.lastLead, lastEpoch := u.pair.lastEpoch } := (congrArg State.pair hrest :)
  refine ⟨hfresh, by rw [hkerb]; rfl, hlw, hphase, henv, hcause, by rw [hkerb]; rfl, by rw [hkerb]; rfl, by rw [hkerb]; rfl, by rw [hkerb]; rfl,
    by rw [hkerb]; rfl, by rw [hkerb]; rfl, by rw [harc]; rfl, by rw [harc]; rfl, by rw [harc]; rfl, ?_, honly⟩
  rw [hfresh, hpkgs, hkerb, hpair]
  exact hrest

/-! ### A restart step that fails (R434) -/

/-- The module has nothing in progress that losing its role would end. -/
structure State.Quiet (s : State) : Prop where
  runs : s.sched.runs = []
  sess : s.host.sess = []
  batches : s.host.batches = []
  dups : s.host.dups = []
  locks : s.host.locks = []
  cuts : s.plant.cuts = []
  step : s.step_ = 0

/-- Without a run there is nothing to abort. -/
theorem State.Quiet.abortRuns {s : State} (q : s.Quiet) : s.abortRuns = s := by
  unfold State.abortRuns
  have : s = { s with sched := { s.sched with runs := [] } } := by rw [← q.runs]
  rw [q.runs]
  exact this.symm

/-- Without a change in progress there is none to end. -/
theorem State.Quiet.olcTakeover {s : State} (q : s.Quiet) : s.olcTakeover = s := by
  unfold State.olcTakeover
  rw [q.step]
  rfl

/-- Where no session, batch, cut or lock is, ending them leaves the Kerb as it is. -/
theorem State.Quiet.hostAbort_kerb {s : State} (q : s.Quiet) : s.hostAbort.kerb = s.kerb := by
  unfold State.hostAbort State.breakAll
  simp only [q.sess, q.batches, q.dups, q.locks, q.cuts, List.foldl_nil, List.filter_nil, tabKeys, List.map_nil]

/-- Losing the role with nothing in progress leaves the last words as they are. -/
theorem State.Quiet.loseRole_lastWords {s : State} (h : s.RegsOk) (q : s.Quiet) {st : Nat} (hst : st < 16) :
    (s.loseRole st).kerb.lastWords = s.kerb.lastWords ∧ (s.loseRole st).kerb.lwCause = s.kerb.lwCause := by
  obtain ⟨-, -, chg, r, p, k, i, n, a, c, e, hlw, hlc, -, -⟩ := State.enterPair_does (s := s.carriedOut) h hst
  have hstep : (s.carriedOut.enterPair st).step_ = 0 := (chg.only SCH_OLCSTAT_STEP 0 (by decide)).trans q.step
  have q' : (s.carriedOut.enterPair st).Quiet := by
    constructor
    case step => exact hstep
    all_goals rw [e]
    · exact q.runs
    · exact q.sess
    · exact q.batches
    · exact q.dups
    · exact q.locks
    · exact q.cuts
  have hk : (s.loseRole st).kerb = k := by
    unfold State.loseRole
    rw [q.abortRuns, State.setF_kerb, q'.olcTakeover, q'.hostAbort_kerb, e]
  rw [hk]
  exact ⟨hlw, hlc⟩

/-- The safe-state drivers take hold, or let go, without a change of the Kerb's own state. -/
theorem State.kerbDrive_kerb (s : State) (b : Bool) : (s.kerbDrive b).kerb = s.kerb := by
  unfold State.kerbDrive
  obtain ⟨i, n, e⟩ := State.aoAll_frame { s with io := { s.io with safe := b } }
  rw [e]

/-- State K is entered with TRIPPED, the outputs in the hands of the safe-state drivers; with nothing in progress the last words stay as they are. -/
theorem State.Quiet.enterK_does {s : State} (h : s.RegsOk) (q : s.Quiet) :
    s.enterK.kerb.phase = .off ∧ s.enterK.getF PWR_STAT_PSTATE = 4 ∧ s.enterK.getF KRB_HBCFG_TRIPPED = 1 ∧ s.enterK.io.safe = true ∧
    s.enterK.kerb.lastWords = s.kerb.lastWords ∧ s.enterK.kerb.lwCause = s.kerb.lwCause := by
  obtain ⟨hlw, hlc⟩ := q.loseRole_lastWords h (st := 8) (by decide)
  have ok : ((s.loseRole 8).kerbDrive true).RegsOk := (State.kerbDrive_keeps (State.loseRole_keeps (Keeps.refl s))).regs h
  have hsafe := State.kerbDrive_safe (s.loseRole 8) true
  rw [← State.kerbDrive_kerb _ true] at hlw hlc
  unfold State.enterK
  dsimp only
  generalize (s.loseRole 8).kerbDrive true = t at *
  have c1 := (Chg.refl ok).setF KRB_HBCFG_TRIPPED 1 0
  have hps : ((t.setF KRB_HBCFG_TRIPPED 1).setF PWR_STAT_PSTATE 4).getF PWR_STAT_PSTATE = 4 := getF_setF_self _ _ _ _ c1.ok
  have htr : ((t.setF KRB_HBCFG_TRIPPED 1).setF PWR_STAT_PSTATE 4).getF KRB_HBCFG_TRIPPED = 1 :=
    (getF_setF_ne _ _ c1.ok (by decide)).trans (getF_setF_self _ _ _ _ ok)
  exact ⟨rfl, (getF_same rfl).trans hps, (getF_same rfl).trans htr, hsafe, hlw, hlc⟩

/-- A restart step that fails with nothing in progress: last words with cause 5 and the step, then state K. -/
theorem execRestartStepFailed_quiet {s : State} (h : s.RegsOk) (hb : s.kerb.phase = .boot) (q : s.Quiet) :
    Gives .restartStepFailed s fun t => t.kerb.phase = .off ∧ t.getF PWR_STAT_PSTATE = 4 ∧ t.getF KRB_HBCFG_TRIPPED = 1 ∧ t.io.safe = true ∧
      t.kerb.lwCause = 5 ∧ ∃ k, k.cause = 5 ∧ k.blocks.head? = some (s.getF BOT_STAT_STEP) ∧ t.kerb.lastWords = lastN 64 (s.kerb.lastWords ++ [lastWordsBytes s.kerb.lwSeq k 0]) := by
  have e : exec .restartStepFailed s = .next s.bootFail := by
    show execRestartStepFailed s = _
    unfold execRestartStepFailed
    rw [if_pos hb]
  refine ⟨_, e, ?_⟩
  unfold State.bootFail
  dsimp only
  generalize hk : ({ s.kset 5 with blocks := s.getF BOT_STAT_STEP :: (s.kset 5).blocks.tail } : KSet) = k
  obtain ⟨ek, -, -, chg⟩ := State.putLastWords_does h k 0
  have q' : (s.putLastWords k 0).Quiet :=
    ⟨q.runs, q.sess, q.batches, q.dups, q.locks, q.cuts, (chg.only SCH_OLCSTAT_STEP 0 (by decide)).trans q.step⟩
  obtain ⟨hoff, hps, htr, hsafe, hlw, hlc⟩ := q'.enterK_does chg.ok
  have hcause : k.cause = 5 := by rw [← hk]; rfl
  refine ⟨hoff, hps, htr, hsafe, hlc.trans ?_, k, hcause, by rw [← hk]; rfl, hlw.trans ?_⟩
  · rw [ek]; exact hcause
  · rw [ek]

/-- Settles O34: POWER_ON and KERB_WATCHDOG restart from the state in which a Kerb set on hand is completed; a failed step enters state K by way of its
last words. -/
theorem restartBegins : Obligations.RestartBegins := by
  unfold Obligations.RestartBegins
  refine ⟨fun s env hn => ?_, fun s env k hk => ?_, fun s env => ?_, fun s h hb hruns hsess hbatches hdups hlocks hcuts hstep => ?_⟩
  · exact ⟨_, rfl, State.restart_from s env (by decide) (State.finishSet_none hn 1)⟩
  · obtain ⟨hfresh, hwords, hcause, hfrom⟩ := State.restart_from s env (by decide) (State.finishSet_some hk)
    exact ⟨_, rfl, hfresh, ⟨_, hwords⟩, hcause, hfrom⟩
  · exact ⟨_, rfl, State.restart_from s env (by decide) s.finishSet_watchdog⟩
  · exact execRestartStepFailed_quiet h hb ⟨hruns, hsess, hbatches, hdups, hlocks, hcuts, hstep⟩

end Sys2Proof.Machine
end

section
/-! PROOFS. The base tick and who moves it (02, R24, R249; 11, R300). -/
namespace Sys2Proof.Machine

/-! ### Only two commands move the tick -/

/-- Every command but BASE_TICK and PTP_SYNC keeps what every operation keeps, the number of the base tick with it. -/
theorem exec_keeps {c : Instr} (hb : ∀ w, c ≠ .baseTick w) (hp : ∀ a b, c ≠ .ptpSync a b) (s : State) : EKeeps s (exec c s) := by
  have k := Keeps.refl s
  cases c with
  | baseTick w => exact absurd rfl (hb w)
  | heartbeat _ => exact execHeartbeat_keeps k
  | wedgeDecision _ _ => exact execWedgeDecision_keeps k
  | lastWordsCommit _ => exact execLastWordsCommit_keeps k
  | mainsLossDecision _ => exact execMainsLossDecision_keeps k
  | temperatureCritical _ => exact execTemperatureCritical_keeps k
  | kerbstop _ => exact execKerbstop_keeps k
  | cyclicRelease _ => exact execCyclicRelease_keeps k
  | taskDispatch _ => exact execTaskDispatch_keeps k
  | commit _ _ => exact execCommit_keeps k
  | cycleLate _ => exact execCycleLate_keeps k
  | deferredRelease _ => exact execDeferredRelease_keeps k
  | furtherGridTickOverrun _ => exact execFurtherGridTickOverrun_keeps k
  | eventActivation _ _ => exact execEventActivation_keeps k
  | eventRelease _ => exact execEventRelease_keeps k
  | taskStart _ _ => exact execTaskStart_keeps k
  | taskStop _ _ => exact execTaskStop_keeps k
  | taskActivate _ _ => exact execTaskActivate_keeps k
  | taskCancel _ _ => exact execTaskCancel_keeps k
  | modeRequestRun _ => exact execModeRequestRun_keeps k
  | modeRequestHold _ => exact execModeRequestHold_keeps k
  | modeRequestStop _ => exact execModeRequestStop_keeps k
  | modeChange => exact execModeChange_keeps k
  | initTaskTimeout _ => exact execInitTaskTimeout_keeps k
  | schTaskRegisterWrite _ _ _ => exact execSchTaskRegisterWrite_keeps k
  | logLd _ _ => exact execLogLd_keeps k
  | logAnd _ _ => exact execLogAnd_keeps k
  | logOr _ _ => exact execLogOr_keeps k
  | logXor _ _ => exact execLogXor_keeps k
  | logSt _ _ => exact execLogSt_keeps k
  | logS _ _ => exact execLogS_keeps k
  | logR _ _ => exact execLogR_keeps k
  | logpAnd _ _ => exact execLogpAnd_keeps k
  | logpOr _ _ => exact execLogpOr_keeps k
  | logpXor _ _ => exact execLogpXor_keeps k
  | ldw _ _ => exact execLdw_keeps k
  | stw _ _ => exact execStw_keeps k
  | ldwb _ _ => exact execLdwb_keeps k
  | stwb _ _ => exact execStwb_keeps k
  | lea _ _ => exact execLea_keeps k
  | addw _ _ => exact execAddw_keeps k
  | subw _ _ => exact execSubw_keeps k
  | mulw _ _ => exact execMulw_keeps k
  | divw _ _ => exact execDivw_keeps k
  | andw _ _ => exact execAndw_keeps k
  | orw _ _ => exact execOrw_keeps k
  | xorw _ _ => exact execXorw_keeps k
  | minw _ _ => exact execMinw_keeps k
  | maxw _ _ => exact execMaxw_keeps k
  | limit _ _ => exact execLimit_keeps k
  | shl _ _ => exact execShl_keeps k
  | shr _ _ => exact execShr_keeps k
  | rol _ _ => exact execRol_keeps k
  | ror _ _ => exact execRor_keeps k
  | ceq _ _ => exact execCeq_keeps k
  | cne _ _ => exact execCne_keeps k
  | cgt _ _ => exact execCgt_keeps k
  | cge _ _ => exact execCge_keeps k
  | clt _ _ => exact execClt_keeps k
  | cle _ _ => exact execCle_keeps k
  | selw _ _ => exact execSelw_keeps k
  | lstat _ _ => exact execLstat_keeps k
  | tbl _ _ => exact execTbl_keeps k
  | lin _ _ => exact execLin_keeps k
  | movb _ _ => exact execMovb_keeps k
  | ton _ _ => exact execTon_keeps k
  | tof _ _ => exact execTof_keeps k
  | tp _ _ => exact execTp_keeps k
  | ctu _ _ => exact execCtu_keeps k
  | ctd _ _ => exact execCtd_keeps k
  | ctud _ _ => exact execCtud_keeps k
  | crst _ _ => exact execCrst_keeps k
  | cload _ _ => exact execCload_keeps k
  | edgp _ _ => exact execEdgp_keeps k
  | edgn _ _ => exact execEdgn_keeps k
  | ldlive _ _ => exact execLdlive_keeps k
  | ldliveh _ _ => exact execLdliveh_keeps k
  | jmp _ _ => exact execJmp_keeps k
  | call _ _ => exact execCall_keeps k
  | loop _ _ => exact execLoop_keeps k
  | loopw _ _ => exact execLoopw_keeps k
  | nop _ _ => exact execNop_keeps k
  | endS _ _ => exact execEndS_keeps k
  | popl _ _ => exact execPopl_keeps k
  | notl _ _ => exact execNotl_keeps k
  | setl _ _ => exact execSetl_keeps k
  | clrl _ _ => exact execClrl_keeps k
  | ldbit _ _ => exact execLdbit_keeps k
  | stbit _ _ => exact execStbit_keeps k
  | xab _ _ => exact execXab_keeps k
  | movab _ _ => exact execMovab_keeps k
  | movba _ _ => exact execMovba_keeps k
  | notw _ _ => exact execNotw_keeps k
  | negw _ _ => exact execNegw_keeps k
  | absw _ _ => exact execAbsw_keeps k
  | cvt _ _ => exact execCvt_keeps k
  | ldfl _ _ => exact execLdfl_keeps k
  | clrf _ _ => exact execClrf_keeps k
  | timew _ _ => exact execTimew_keeps k
  | modeset _ _ => exact execModeset_keeps k
  | setev _ _ => exact execSetev_keeps k
  | diag _ _ => exact execDiag_keeps k
  | sync _ _ => exact execSync_keeps k
  | syncRelease _ _ => exact execSyncRelease_keeps k
  | ret _ _ => exact execRet_keeps k
  | trap _ _ => exact execTrap_keeps k
  | sqrt _ _ => exact execSqrt_keeps k
  | errorTaskDelivery => exact execErrorTaskDelivery_keeps k
  | xcpDispResume _ => exact execXcpDispResume_keeps k
  | xcpDispAbort _ => exact execXcpDispAbort_keeps k
  | dispositionDeadline _ => exact execDispositionDeadline_keeps k
  | specRunStart _ => exact execSpecRunStart_keeps k
  | specUndone _ => exact execSpecUndone_keeps k
  | specDecision _ _ => exact execSpecDecision_keeps k
  | specSuspendEnd _ => exact execSpecSuspendEnd_keeps k
  | laneSelfTestComplete _ _ => exact execLaneSelfTestComplete_keeps k
  | selfTestStep _ _ _ _ => exact execSelfTestStep_keeps k
  | mismatchInjection _ _ => exact execMismatchInjection_keeps k
  | xngTest _ _ => exact execXngTest_keeps k
  | xngRetire _ _ => exact execXngRetire_keeps k
  | patrolScrub _ _ _ => exact execPatrolScrub_keeps k
  | rowSparingComplete _ _ => exact execRowSparingComplete_keeps k
  | tagWalk _ _ _ => exact execTagWalk_keeps k
  | tagWrite _ _ _ => exact execTagWrite_keeps k
  | ttcGo _ _ => exact execTtcGo_keeps k
  | ttcInvalidationDone => exact execTtcInvalidationDone_keeps k
  | acuBarrier _ => exact execAcuBarrier_keeps k
  | acuBarrierDone => exact execAcuBarrierDone_keeps k
  | acuRattrWrite _ _ => exact execAcuRattrWrite_keeps k
  | helloSend => exact execHelloSend_keeps k
  | helloReceive _ => exact execHelloReceive_keeps k
  | pairStartTimeout => exact execPairStartTimeout_keeps k
  | cyclePacketApply _ => exact execCyclePacketApply_keeps k
  | tickSend _ => exact execTickSend_keeps k
  | tickPacketReceive _ _ _ => exact execTickPacketReceive_keeps k
  | ack _ => exact execAck_keeps k
  | seatsampleSend => exact execSeatsampleSend_keeps k
  | seatsampleReceive _ _ _ => exact execSeatsampleReceive_keeps k
  | seatOutputTimeout => exact execSeatOutputTimeout_keeps k
  | auditComplete _ => exact execAuditComplete_keeps k
  | auditTimeout _ => exact execAuditTimeout_keeps k
  | parResync _ => exact execParResync_keeps k
  | resyncComplete => exact execResyncComplete_keeps k
  | packetMissing _ => exact execPacketMissing_keeps k
  | leadLostDeclared => exact execLeadLostDeclared_keeps k
  | ackMissing _ => exact execAckMissing_keeps k
  | fenceRecognised => exact execFenceRecognised_keeps k
  | fenceLineFault => exact execFenceLineFault_keeps k
  | seatsenseRise => exact execSeatsenseRise_keeps k
  | beacon _ => exact execBeacon_keeps k
  | wreq => exact execWreq_keeps k
  | wgrant _ _ => exact execWgrant_keeps k
  | wrefuse _ _ => exact execWrefuse_keeps k
  | parSwitch _ => exact execParSwitch_keeps k
  | switchTick => exact execSwitchTick_keeps k
  | handover _ _ => exact execHandover_keeps k
  | parRelease _ => exact execParRelease_keeps k
  | parJoin _ => exact execParJoin_keeps k
  | parClearcfg _ => exact execParClearcfg_keeps k
  | joinClockTimeout => exact execJoinClockTimeout_keeps k
  | bulk _ => exact execBulk_keeps k
  | trackCaughtUp => exact execTrackCaughtUp_keeps k
  | backfillRecord _ _ => exact execBackfillRecord_keeps k
  | batchCommitAlone => exact execBatchCommitAlone_keeps k
  | cutInstant _ => exact execCutInstant_keeps k
  | cutdata _ _ => exact execCutdata_keeps k
  | cutClose _ => exact execCutClose_keeps k
  | stationModeMissed _ _ _ => exact execStationModeMissed_keeps k
  | modeChangeResend _ => exact execModeChangeResend_keeps k
  | modewaitExpiry _ => exact execModewaitExpiry_keeps k
  | olcArm _ => exact execOlcArm_keeps k
  | olcAbandon _ => exact execOlcAbandon_keeps k
  | olcTransferComplete => exact execOlcTransferComplete_keeps k
  | migrationPassComplete => exact execMigrationPassComplete_keeps k
  | activationCommit => exact execActivationCommit_keeps k
  | cfgOpen _ => exact execCfgOpen_keeps k
  | cfgChunk _ => exact execCfgChunk_keeps k
  | cfgClose _ _ => exact execCfgClose_keeps k
  | cfgLoad _ => exact execCfgLoad_keeps k
  | leaseExpiry => exact execLeaseExpiry_keeps k
  | lockGrant => exact execLockGrant_keeps k
  | coalescingWindowClose _ _ => exact execCoalescingWindowClose_keeps k
  | connectionRequest _ _ _ => exact execConnectionRequest_keeps k
  | sessionEnd _ _ => exact execSessionEnd_keeps k
  | doorbell _ _ _ _ _ => exact execDoorbell_keeps k
  | descriptorFetch _ _ _ => exact execDescriptorFetch_keeps k
  | completionWrite _ _ => exact execCompletionWrite_keeps k
  | hostNop _ _ => exact execHostNop_keeps k
  | readAt _ _ => exact execReadAt_keeps k
  | readAtRaw _ _ => exact execReadAtRaw_keeps k
  | descriptorWaitTimeout _ _ _ => exact execDescriptorWaitTimeout_keeps k
  | writeNext _ _ => exact execWriteNext_keeps k
  | hostSubscribe _ _ => exact execHostSubscribe_keeps k
  | hostCancel _ _ => exact execHostCancel_keeps k
  | historyRead _ _ => exact execHistoryRead_keeps k
  | historyReadDelta _ _ => exact execHistoryReadDelta_keeps k
  | eventRead _ _ => exact execEventRead_keeps k
  | hostCut _ _ => exact execHostCut_keeps k
  | hostLock _ _ => exact execHostLock_keeps k
  | unlockCommit _ _ => exact execUnlockCommit_keeps k
  | unlockDiscard _ _ => exact execUnlockDiscard_keeps k
  | hostForce _ _ => exact execHostForce_keeps k
  | hostTime _ _ => exact execHostTime_keeps k
  | attest _ _ => exact execAttest_keeps k
  | qpCreate _ _ => exact execQpCreate_keeps k
  | qpDestroy _ _ => exact execQpDestroy_keeps k
  | sessionClose _ _ => exact execSessionClose_keeps k
  | hostLatency _ _ => exact execHostLatency_keeps k
  | setupRead _ _ => exact execSetupRead_keeps k
  | setupWrite _ _ _ => exact execSetupWrite_keeps k
  | transportRetryExhausted _ => exact execTransportRetryExhausted_keeps k
  | sakChange _ _ _ => exact execSakChange_keeps k
  | secPortcfgWrite _ _ => exact execSecPortcfgWrite_keeps k
  | pnePortcfgWrite _ _ => exact execPnePortcfgWrite_keeps k
  | stationInput _ _ => exact execStationInput_keeps k
  | stationEvent _ _ => exact execStationEvent_keeps k
  | confack _ _ => exact execConfack_keeps k
  | configRetry _ => exact execConfigRetry_keeps k
  | iwdtExpiry _ => exact execIwdtExpiry_keeps k
  | peerFrame _ _ => exact execPeerFrame_keeps k
  | peerWatchdogExpiry _ => exact execPeerWatchdogExpiry_keeps k
  | holdOutputRepeat => exact execHoldOutputRepeat_keeps k
  | ptpSync d o => exact absurd rfl (hp d o)
  | ptpDomainLost _ => exact execPtpDomainLost_keeps k
  | domainSwitchBack => exact execDomainSwitchBack_keeps k
  | domainSplit _ => exact execDomainSplit_keeps k
  | timSwitch _ => exact execTimSwitch_keeps k
  | pulseArm _ => exact execPulseArm_keeps k
  | pulseStop _ => exact execPulseStop_keeps k
  | tioCaptureEdge _ _ _ => exact execTioCaptureEdge_keeps k
  | dioEdgetailWrite _ _ => exact execDioEdgetailWrite_keeps k
  | timCapcfgTailWrite _ _ => exact execTimCapcfgTailWrite_keeps k
  | canRxtailWrite _ _ => exact execCanRxtailWrite_keeps k
  | fslPduReceive _ _ => exact execFslPduReceive_keeps k
  | fslWatchdogExpiry _ => exact execFslWatchdogExpiry_keeps k
  | sampleTick _ _ _ => exact execSampleTick_keeps k
  | offPulseStart _ => exact execOffPulseStart_keeps k
  | offPulseEnd _ => exact execOffPulseEnd_keeps k
  | degmaxExpiry _ => exact execDegmaxExpiry_keeps k
  | degradedRecovery _ => exact execDegradedRecovery_keeps k
  | keySwitchSample _ _ => exact execKeySwitchSample_keeps k
  | sfyValackWrite _ _ => exact execSfyValackWrite_keeps k
  | fieldSupplyChange _ _ => exact execFieldSupplyChange_keeps k
  | inputTest _ _ => exact execInputTest_keeps k
  | outputOverload _ _ => exact execOutputOverload_keeps k
  | adcEntryComplete _ _ _ => exact execAdcEntryComplete_keeps k
  | urgentRequest _ _ _ => exact execUrgentRequest_keeps k
  | adcUrgentGo _ _ _ => exact execAdcUrgentGo_keeps k
  | adcSelfTestStep _ _ => exact execAdcSelfTestStep_keeps k
  | loopSupplyOff _ => exact execLoopSupplyOff_keeps k
  | loopSupplyRetry _ _ => exact execLoopSupplyRetry_keeps k
  | analogueThermalLimit _ => exact execAnalogueThermalLimit_keeps k
  | hartPoll _ => exact execHartPoll_keeps k
  | hartResponse _ _ => exact execHartResponse_keeps k
  | readbackSample _ => exact execReadbackSample_keeps k
  | rbfailClear _ => exact execRbfailClear_keeps k
  | canFrameReceive _ _ => exact execCanFrameReceive_keeps k
  | canFrameTransmitted _ _ => exact execCanFrameTransmitted_keeps k
  | canError _ _ _ _ _ => exact execCanError_keeps k
  | canBusOffRecovered _ => exact execCanBusOffRecovered_keeps k
  | canRxtmoExpiry _ _ => exact execCanRxtmoExpiry_keeps k
  | canRecover _ => exact execCanRecover_keeps k
  | canFlush _ => exact execCanFlush_keeps k
  | imvStart _ _ => exact execImvStart_keeps k
  | imvHalt _ => exact execImvHalt_keeps k
  | imvRunComplete _ _ _ => exact execImvRunComplete_keeps k
  | arcadeRecordProgram _ => exact execArcadeRecordProgram_keeps k
  | wearGovernorStep _ => exact execWearGovernorStep_keeps k
  | arcCursorWrite _ _ => exact execArcCursorWrite_keeps k
  | arcCursorReady _ => exact execArcCursorReady_keeps k
  | arcNext _ => exact execArcNext_keeps k
  | arcClrevt _ _ => exact execArcClrevt_keeps k
  | arcClrcyc _ => exact execArcClrcyc_keeps k
  | arcErase _ => exact execArcErase_keeps k
  | powerOn _ => exact execPowerOn_keeps k
  | restartStepFailed => exact execRestartStepFailed_keeps k
  | fuseReread _ => exact execFuseReread_keeps k
  | updOpen _ => exact execUpdOpen_keeps k
  | updChunk _ => exact execUpdChunk_keeps k
  | updClose _ _ => exact execUpdClose_keeps k
  | updArm _ => exact execUpdArm_keeps k
  | updDisarm _ => exact execUpdDisarm_keeps k
  | botRestart _ _ => exact execBotRestart_keeps k
  | botConfirm _ => exact execBotConfirm_keeps k
  | botReject _ _ => exact execBotReject_keeps k
  | botAttest _ => exact execBotAttest_keeps k
  | probationConfirmation => exact execProbationConfirmation_keeps k
  | healthwinExpiry _ => exact execHealthwinExpiry_keeps k
  | autoRestart _ => exact execAutoRestart_keeps k
  | mainsInputChange _ _ _ _ => exact execMainsInputChange_keeps k
  | busUndervoltage _ => exact execBusUndervoltage_keeps k
  | sagStepDown _ => exact execSagStepDown_keeps k
  | sagStepUp _ => exact execSagStepUp_keeps k
  | thermalStepDown _ => exact execThermalStepDown_keeps k
  | thermalStepUp _ => exact execThermalStepUp_keeps k
  | storeFault _ => exact execStoreFault_keeps k
  | parkedQuarterTest _ _ => exact execParkedQuarterTest_keeps k
  | coolantLoss _ => exact execCoolantLoss_keeps k
  | coolantRestored _ => exact execCoolantRestored_keeps k
  | mgmtConnect _ _ => exact execMgmtConnect_keeps k
  | mgmtRead _ _ _ _ => exact execMgmtRead_keeps k
  | mgmtWrite _ _ _ _ _ => exact execMgmtWrite_keeps k
  | mgmtAttest _ _ _ => exact execMgmtAttest_keeps k
  | registerWrite _ _ _ _ => exact execRegisterWrite_keeps k
  | temperatureWarning _ => exact execTemperatureWarning_keeps k
  | boulevardLinkChange _ _ => exact execBoulevardLinkChange_keeps k
  | plantLinkUpDown _ _ _ => exact execPlantLinkUpDown_keeps k
  | fenceReleased => exact execFenceReleased_keeps k
  | seatsenseFall => exact execSeatsenseFall_keeps k
  | witnessAssentLost => exact execWitnessAssentLost_keeps k
  | ptpAnnounce _ _ => exact execPtpAnnounce_keeps k
  | pulseTrainEnd _ => exact execPulseTrainEnd_keeps k
  | readbackConverterSelfTest _ => exact execReadbackConverterSelfTest_keeps k
  | hartModemLoopback _ _ => exact execHartModemLoopback_keeps k
  | hartBurstFrame _ _ => exact execHartBurstFrame_keeps k
  | kerbWatchdog _ => exact execKerbWatchdog_keeps k
  | mgmtConnectionClose _ => exact execMgmtConnectionClose_keeps k
  | laneTestLate _ => exact execLaneTestLate_keeps k
  | flashTemperatureHot _ => exact execFlashTemperatureHot_keeps k
  | joinAttestation _ => exact execJoinAttestation_keeps k
  | powerStateWakeEnd => exact execPowerStateWakeEnd_keeps k

/-- Settles O60: what every command but the two keeps includes the number of the base tick. -/
theorem tickMovers : Obligations.TickMovers := by
  unfold Obligations.TickMovers
  intro c s t hb hp ht
  exact (exec_keeps hb hp s t ht).tick

/-! ### The base tick -/

/-- What the end of a base tick does with one window whose opening record is owed (R249). -/
def State.openRecord (s : State) (w : Win) : State :=
  (s.event 0x0101 0xFFFF { w with recDue := false, recSeq := s.arc.evSeq }.bytes).putWin { w with recDue := false, recSeq := s.arc.evSeq }

/-- The records owed are written one window after another. -/
theorem State.openRecords_eq (s : State) : s.openRecords = (s.wins.filter Win.recDue).foldl State.openRecord s := rfl

/-- A window put replaces the window of its subject. -/
theorem State.putWin_wins (s : State) (w : Win) : (s.putWin w).wins = s.wins.map (fun x => if x.isOf w.kind w.obj then w else x) := by
  unfold State.putWin State.showWin
  dsimp only
  split <;> rfl

/-- The record written, the window of its subject owes none; the others are as they were. -/
theorem State.openRecord_wins (s : State) (w : Win) :
    (s.openRecord w).wins = s.wins.map (fun x => if x.isOf w.kind w.obj then { w with recDue := false, recSeq := s.arc.evSeq } else x) := by
  unfold State.openRecord
  rw [State.putWin_wins, State.event_wins]

/-- Where every window that owes its record is the one of a subject in the list, none owes one after the list. -/
theorem State.openRecord_foldl_wins (l : List Win) (s : State) (h : ∀ x ∈ s.wins, x.recDue = true → ∃ w ∈ l, x.isOf w.kind w.obj = true) :
    ∀ x ∈ (l.foldl State.openRecord s).wins, x.recDue = false := by
  induction l generalizing s with
  | nil =>
    intro x hx
    by_contra hd
    obtain ⟨w, hw, -⟩ := h x hx (by simpa using hd)
    cases hw
  | cons w l ih =>
    refine ih (s.openRecord w) (fun x hx hd => ?_)
    rw [State.openRecord_wins] at hx
    obtain ⟨y, hy, rfl⟩ := List.mem_map.mp hx
    split at hd
    · cases hd
    · next hn =>
      obtain ⟨v, hv, hyv⟩ := h y hy hd
      rw [if_neg hn]
      rcases List.mem_cons.mp hv with rfl | hv
      · exact absurd hyv hn
      · exact ⟨v, hv, hyv⟩

/-- At the end of a base tick no window owes its opening record. -/
theorem State.openRecords_wins (s : State) : ∀ w ∈ s.openRecords.wins, w.recDue = false := by
  rw [State.openRecords_eq]
  exact State.openRecord_foldl_wins _ s (fun x hx hd => ⟨x, List.mem_filter.mpr ⟨hx, hd⟩, by simp [Win.isOf]⟩)

/-- BASE_TICK in a running module. -/
theorem execBaseTick_run {s : State} (hr : s.Runs) (w : TickSeen) : execBaseTick w s = .next ((w.hw.foldl State.strike s).runTick w.pairDiff) := by
  unfold execBaseTick
  rw [show s.kerb.phase = .run from hr]

/-- BASE_TICK where the module neither runs nor restarts. -/
theorem execBaseTick_idle {s : State} (hr : s.kerb.phase ≠ .run) (hb : s.kerb.phase ≠ .boot) (w : TickSeen) :
    execBaseTick w s = .next { s with tick := s.tick + 1, now := (s.tick + 1) * 62500 } := by
  unfold execBaseTick
  split
  · next h => exact absurd h hr
  · next h => exact absurd h hb
  · rfl

/-- Settles O27: a running module's tick keeps all but the number, and ends by writing the records owed; else only time passes. -/
theorem baseTick : Obligations.BaseTick := by
  unfold Obligations.BaseTick
  refine ⟨fun w s hr => ⟨_, execBaseTick_run hr w, ?_⟩, fun w s hr hb => ⟨_, execBaseTick_idle hr hb w, rfl⟩⟩
  have hs : Keeps s (w.hw.foldl State.strike s) := Keeps.foldl (Keeps.refl s) (fun _ _ k => State.strike_keeps k)
  have k := State.runTick_keeps (x1 := w.pairDiff) hs
  refine ⟨?_, State.openRecords_wins _, k.pending, k.out, k.regs⟩
  rw [k.tick, hs.tick]

end Sys2Proof.Machine
end

section
/-! PROOFS. Mode requests and the init tasks' time (02, R40, R47, R49, R492, R500). -/
namespace Sys2Proof.Machine

/-! ### Mode requests -/

/-- A write of SCH_MODE.REQ that is taken waits for the end of the base tick. -/
theorem State.modeRequest_taken {s : State} {p : Path} {m : Nat} (h2 : s.getF PAR_STAT_STATE ≠ 2) (h3 : s.getF PAR_STAT_STATE ≠ 3) (h4 : s.getF PAR_STAT_STATE ≠ 4) :
    s.modeRequest p m = { s with sched := { s.sched with modeReqs := s.sched.modeReqs ++ [(m, s.anySafety && !s.safetyEdit, some p)] } } := by
  unfold State.modeRequest
  simp [h2, h3, h4]

/-- A module in TRACK, FOLLOW or SUSPECT ignores it. -/
theorem State.modeRequest_ignored {s : State} {p : Path} {m : Nat} (hs : s.getF PAR_STAT_STATE = 2 ∨ s.getF PAR_STAT_STATE = 3 ∨ s.getF PAR_STAT_STATE = 4) :
    s.modeRequest p m = s.ignored p 0x30000 3 := by
  unfold State.modeRequest
  rcases hs with e | e | e <;> simp [e]

/-- The state of the pair reads the same where the count of refused writes is set aside. -/
theorem pairState_aside {s : State} (h : s.RegsOk) : s.aside.getF PAR_STAT_STATE = s.getF PAR_STAT_STATE := getF_aside h _ (by decide)

/-- The configuration in force is told by the packages and ACTSTORE. -/
theorem State.cfg_congr {s t : State} (hp : t.pkgs = s.pkgs) (ha : t.getF SCH_OLCSTAT_ACTSTORE = s.getF SCH_OLCSTAT_ACTSTORE) : t.cfg = s.cfg := by
  unfold State.cfg State.actStore
  rw [hp, ha]

/-- The configuration is the same where the count of refused writes is set aside. -/
theorem anySafety_aside {s : State} (h : s.RegsOk) : s.aside.anySafety = s.anySafety := by
  unfold State.anySafety
  rw [State.cfg_congr (s := s) (t := s.aside) rfl (getF_aside h _ (by decide))]

/-- The request as a write of a running module. -/
theorem State.written_modeRequest {s : State} {p : Path} (m : Nat) (hr : s.Runs) (h : s.RegsOk)
    (h2 : s.getF PAR_STAT_STATE ≠ 2) (h3 : s.getF PAR_STAT_STATE ≠ 3) (h4 : s.getF PAR_STAT_STATE ≠ 4) {t : State}
    (ht : t = s.written p 0x30000 (fun s => s.modeRequest p m)) :
    t.sched = { s.sched with modeReqs := s.sched.modeReqs ++ [(m, s.anySafety && !s.safetyEdit, some p)] } ∧
      t = { s with regs := t.regs, sched := t.sched } ∧ OnlyRegsW 3 s t [] := by
  rw [← pairState_aside h] at h2 h3 h4
  obtain ⟨e, c⟩ := State.written_plain (p := p) (off := 0x30000) (f := fun s => s.modeRequest p m) hr h (State.modeRequest_taken (m := m) h2 h3 h4) rfl
    (by rw [show s.aside.kerb.phase = .run from hr]; decide)
  rw [safetyEdit_aside h, anySafety_aside h, ← ht] at e
  rw [← ht] at c
  have es : t.sched = { s.sched with modeReqs := s.sched.modeReqs ++ [(m, s.anySafety && !s.safetyEdit, some p)] } := congrArg State.sched e
  refine ⟨es, ?_, c⟩
  rw [es]
  exact e

/-- The request where the module ignores it. -/
theorem State.written_modeRequest_ignored {s : State} {p : Path} (m : Nat) (hr : s.Runs) (h : s.RegsOk)
    (hs : s.getF PAR_STAT_STATE = 2 ∨ s.getF PAR_STAT_STATE = 3 ∨ s.getF PAR_STAT_STATE = 4) :
    RegsOnlyW 3 s (s.written p 0x30000 (fun s => s.modeRequest p m)) [(KRB_IGNSTAT_CAUSE, 0), (KRB_IGNADDR_OFFSET, 0), (KRB_IGNPATH_PATH, 0)] ∧
      (s.written p 0x30000 (fun s => s.modeRequest p m)).getF KRB_IGNSTAT_CAUSE = 3 :=
  State.written_ign hr h (State.modeRequest_ignored (by rwa [pairState_aside h])) (by decide) (by decide) (by decide)

/-! ### The time of an init task -/

/-- An init task that has run for 10 s without a commit is stopped by watchdog, and has failed. -/
theorem execInitTaskTimeout_due {s : State} {k : TaskNo} {r : Run} (hr : s.run? .real k.val = some r) (hk : s.kind k.val = 3)
    (ht : r.rel * 62500 + 10000000000 ≤ s.tick * 62500) : execInitTaskTimeout k s = .next (s.wdStop k.val).initFailed := by
  unfold execInitTaskTimeout done
  dsimp only
  rw [hr]
  dsimp only
  rw [if_pos (by simpa [hk] using ht)]

/-- A failed init task: no other waits, and the change to STOP is due at the next base tick; the registers stay. -/
theorem State.initFailed_does (s : State) :
    s.initFailed.sched.accepted = [(0, s.tick + 1)] ∧ s.initFailed.sched.inits = [] ∧ s.initFailed.regs = s.regs := by
  unfold State.initFailed State.share
  split <;> exact ⟨rfl, rfl, rfl⟩

/-- Settles O28: the request is an effect of a write that the state of the pair takes or refuses; a late init task has failed. -/
theorem modeRequests : Obligations.ModeRequests := by
  unfold Obligations.ModeRequests
  refine ⟨fun p s hr h h2 h3 h4 => ?_, fun p s hr h hs => ?_, fun k s r h hr hk ht => ?_⟩
  · exact ⟨⟨_, rfl, State.written_modeRequest 1 hr h h2 h3 h4 rfl⟩, ⟨_, rfl, State.written_modeRequest 2 hr h h2 h3 h4 rfl⟩,
      ⟨_, rfl, State.written_modeRequest 0 hr h h2 h3 h4 rfl⟩⟩
  · exact ⟨⟨_, rfl, State.written_modeRequest_ignored 1 hr h hs⟩, ⟨_, rfl, State.written_modeRequest_ignored 2 hr h hs⟩,
      ⟨_, rfl, State.written_modeRequest_ignored 0 hr h hs⟩⟩
  · obtain ⟨hst, hwd, -, -⟩ := State.wdStop_does h k.isLt
    obtain ⟨ha, hi, hregs⟩ := (s.wdStop k.val).initFailed_does
    refine ⟨_, execInitTaskTimeout_due hr hk ht, (getF_same hregs).trans hst, (getF_same hregs).trans hwd, ?_, hi⟩
    rw [ha, (State.wdStop_keeps (Keeps.refl s)).tick]

end Sys2Proof.Machine
end

section
/-! PROOFS. The dispatch of a ready execution on idle lanes (02, R28 to R30). -/
namespace Sys2Proof.Machine

/-- Where enough lanes are idle, no execution is pre-empted. -/
theorem State.preemptFor_idle {s : State} {q need : Nat} (hn : need ≤ (s.idle q).length) (l : List Run) : s.preemptFor q need l = s := by
  cases l with
  | nil => rfl
  | cons v vs => exact if_pos (hn.trans (Nat.le_add_right _ _))

/-- An execution put on the lanes of its quarter: it executes, and each of its streams without a lane takes the next idle one. -/
def State.onLanes (s : State) (q : Nat) (r : Run) : State := s.putRun { r with st := .on, started := true, streams := giveLanes (s.idle q) r.streams }

/-- A ready execution for which enough lanes are idle takes them, and nothing makes way for it. -/
theorem State.dispatchReal_idle {s : State} {q : Nat} {r : Run} (hq : s.quarterOf r.task = q) (hn : r.lanesNeeded ≤ (s.idle q).length) :
    s.dispatchReal r = s.onLanes q r := by
  subst hq
  unfold State.dispatchReal
  dsimp only
  rw [if_pos (by omega), State.preemptFor_idle hn]
  exact if_pos hn

/-- The executions in the order of R28 are executions of the scheduler that meet the condition. -/
theorem State.mem_runsIn {s : State} {q : Nat} {f : Run → Bool} {r : Run} (h : r ∈ s.runsIn q f) : (∃ p ∈ s.sched.runs, p.2 = r) ∧ f r = true := by
  unfold State.runsIn at h
  obtain ⟨hm, hf⟩ := List.mem_filter.mp ((isort_mem _ _ _).mp h)
  exact ⟨List.mem_map.mp hm, (Bool.and_eq_true_iff.mp hf).2⟩

/-- Where no execution is a speculative run, none is found among the speculative ones. -/
theorem State.runsIn_spec_nil {s : State} {q : Nat} {f : Run → Bool} (h : ∀ p ∈ s.sched.runs, p.2.ctx ≠ .spec) (hf : ∀ r, f r = true → r.ctx = .spec) :
    s.runsIn q f = [] := by
  refine List.eq_nil_iff_forall_not_mem.mpr fun r hr => ?_
  obtain ⟨⟨p, hp, rfl⟩, hr⟩ := State.mem_runsIn hr
  exact h p hp (hf _ hr)

/-- Settles O30: the one ready execution takes idle lanes, so nothing is pre-empted, and no speculative run is there to follow. -/
theorem taskDispatch : Obligations.TaskDispatch := by
  unfold Obligations.TaskDispatch
  intro q s r hready hspec hctx hn hq
  have hput : ∀ p ∈ (s.onLanes q.val r).sched.runs, p.2.ctx ≠ .spec := by
    intro p hp
    rcases mem_tabSet hp with rfl | hp
    · exact hctx
    · exact hspec p hp
  have hexec : execTaskDispatch q s = .next (s.onLanes q.val r) := by
    unfold execTaskDispatch done
    rw [hready]
    dsimp only [List.foldl]
    rw [State.dispatchReal_idle hq hn, State.runsIn_spec_nil (f := fun r => r.ctx = .spec && _ && _) hput (by simp +contextual)]
    split <;> rfl
  exact ⟨_, hexec, tabGet?_tabSet_self _ _ _, rfl⟩

end Sys2Proof.Machine
end

section
/-! PROOFS. Releases, late cycles and overruns (02, R25, R37 to R44, R157; 04, R106). -/
namespace Sys2Proof.Machine

/-- The account of a task reads as it was changed. -/
theorem State.taskRt_modTask_self (s : State) (t : Nat) (f : TaskRt → TaskRt) : (s.modTask t f).taskRt t = f (s.taskRt t) := by
  unfold State.taskRt State.modTask tabMod tabGet
  dsimp only
  rw [tabGet?_tabSet_self]
  rfl

/-- A field that stands elsewhere than some fields is none of their instances at one index. -/
theorem key_ne_of_places {l : List Fld} {g : Fld} {ix : Nat} (hix : ix < 65536) (h : ∀ f ∈ l, g.off * 32 + g.lo ≠ f.off * 32 + f.lo) :
    ∀ x ∈ l.map (fun f => (f, ix)), g.key ix ≠ x.1.key x.2 := by
  intro x hx
  obtain ⟨f, hf, rfl⟩ := List.mem_map.mp hx
  exact key_ne_of_place hix hix (h f hf)

/-- A saturated count of 16 bits fits its field. -/
theorem sat16_mod (n : Nat) : sat 16 n % 2 ^ 16 = min 65535 n := by
  unfold sat
  omega

/-- A task whose quarter has enough lanes is released. -/
theorem State.releaseOrStop_fits {s : State} {t : Nat} (h : s.taskShort t = false) (grid acts : Nat) : s.releaseOrStop t grid acts = s.release t grid acts := by
  exact if_neg (by simp [h])

/-- A task whose quarter has too few is stopped by watchdog, where no switch-over is due. -/
theorem State.releaseOrStop_short {s : State} {t : Nat} (h : s.taskShort t = true) (hs : s.pair.switchAt = none) (grid acts : Nat) :
    s.releaseOrStop t grid acts = s.wdStop t := by
  exact if_pos (by simp [h, hs])

/-- What a released task's registers show beside STATE and LATE may be put. -/
theorem Released.put {t g a k : Nat} {s : State} (h : Released t g a k s) (ht : t < 65536) (f : Fld) (v : Nat)
    (h1 : SCH_TASKSTAT_STATE.off * 32 + SCH_TASKSTAT_STATE.lo ≠ f.off * 32 + f.lo) (h2 : SCH_TASKSTAT_LATE.off * 32 + SCH_TASKSTAT_LATE.lo ≠ f.off * 32 + f.lo) :
    Released t g a k (s.setF f v t) :=
  h.setF f v t (key_ne_of_place ht ht h1) (key_ne_of_place ht ht h2)

/-- A released task's registers are in order. -/
theorem Released.regsOk {t g a k : Nat} {s : State} (h : Released t g a k s) : s.RegsOk := by
  obtain ⟨-, -, -, ok⟩ := h
  exact ok

section
variable {s : State} {k : TaskNo} {d : TaskDef} (h : s.RegsOk) (hd : s.taskDef? k.val = some d)
include h hd

/-! ### Releases -/

omit h hd in
/-- CYCLIC_RELEASE on the task's grid tick. -/
theorem execCyclicRelease_due (hr : s.releases k.val = true) (he : (s.taskRt k.val).endTick ≠ some s.tick) (hst : s.getF SCH_TASKSTAT_STATE k.val = 1)
    (hl : (s.taskRt k.val).released = true → (s.taskRt k.val).lastR ≠ s.tick) (hk : s.kind k.val = 0) (ho : (s.taskRt k.val).owed = none)
    (hg : s.gridFrom k.val s.tick = s.tick) :
    execCyclicRelease k s = .next (((s.releaseOrStop k.val s.tick 0).setF SCH_TASKSTAT_CATCHUP 0 k.val).setF SCH_TASKSTAT_LAGTICKS 0 k.val) := by
  unfold execCyclicRelease done
  dsimp only
  rw [if_pos (by simpa [hr, hst, hk, ho, hg, State.endedBefore, he, imp_iff_not_or] using hl)]

/-- The release of a waiting cyclic task on its grid tick. -/
theorem State.cyclicRelease_does (hs : s.taskShort k.val = false) {t : State}
    (ht : t = ((s.releaseOrStop k.val s.tick 0).setF SCH_TASKSTAT_CATCHUP 0 k.val).setF SCH_TASKSTAT_LAGTICKS 0 k.val) :
    Released k.val s.tick 0 s.tick t ∧ t.getF SCH_TASKSTAT_CATCHUP k.val = 0 ∧ t.getF SCH_TASKSTAT_LAGTICKS k.val = 0 := by
  have kl : k.val < 65536 := by omega
  have r0 := State.release_does h k.isLt hd s.tick 0
  rw [State.releaseOrStop_fits hs] at ht
  subst ht
  generalize s.release k.val s.tick 0 = u at *
  have r1 := r0.put kl SCH_TASKSTAT_CATCHUP 0 (by decide) (by decide)
  refine ⟨r1.put kl SCH_TASKSTAT_LAGTICKS 0 (by decide) (by decide), ?_, getF_setF_self _ _ _ _ r1.regsOk⟩
  exact (getF_setF_ne _ _ r1.regsOk (key_ne_of_place kl kl (by decide))).trans (getF_setF_self _ _ _ _ r0.regsOk)

omit hd in
/-- The stop of one whose quarter has too few lanes. -/
theorem State.cyclicRelease_short (hs : s.taskShort k.val = true) (hp : s.pair.switchAt = none) {t : State}
    (ht : t = ((s.releaseOrStop k.val s.tick 0).setF SCH_TASKSTAT_CATCHUP 0 k.val).setF SCH_TASKSTAT_LAGTICKS 0 k.val) :
    t.getF SCH_TASKSTAT_STATE k.val = 3 ∧ t.getF SCH_TASKSTAT_WDOG k.val = 1 := by
  have kl : k.val < 65536 := by omega
  obtain ⟨hst, hwd, -, ok⟩ := State.wdStop_does h k.isLt
  rw [State.releaseOrStop_short hs hp] at ht
  subst ht
  generalize s.wdStop k.val = u at *
  have c := ((Chg.refl ok).setF SCH_TASKSTAT_CATCHUP 0 k.val).setF SCH_TASKSTAT_LAGTICKS 0 k.val
  have ne : ∀ g : Fld, (∀ f ∈ [SCH_TASKSTAT_LAGTICKS, SCH_TASKSTAT_CATCHUP], g.off * 32 + g.lo ≠ f.off * 32 + f.lo) → _ := fun g => key_ne_of_places (g := g) kl
  exact ⟨(c.only _ _ (ne _ (by decide))).trans hst, (c.only _ _ (ne _ (by decide))).trans hwd⟩

/-- What DEFERRED_RELEASE makes of the task: the owed release, the lag, and the release owed in turn. -/
def State.deferred (s : State) (t g p : Nat) : State :=
  (((s.releaseOrStop t g 0).modTask t (fun x => { x with owed := if s.tick - g = 0 then none else some (g + p, max (g + p) ((s.releaseOrStop t g 0).tick + threeQuarters p)) })).setB
    SCH_TASKSTAT_CATCHUP (s.tick - g ≠ 0) t).setF SCH_TASKSTAT_LAGTICKS (sat 16 (s.tick - g)) t

omit h hd in
/-- DEFERRED_RELEASE of an owed release whose time has come. -/
theorem execDeferredRelease_due (hr : s.releases k.val = true) (he : (s.taskRt k.val).endTick ≠ some s.tick) (hst : s.getF SCH_TASKSTAT_STATE k.val = 1)
    (hl : (s.taskRt k.val).released = true → (s.taskRt k.val).lastR ≠ s.tick) (hk : s.kind k.val = 0) {g r : Nat} (ho : (s.taskRt k.val).owed = some (g, r))
    (hrt : r ≤ s.tick) (hg : g ≤ s.tick) : execDeferredRelease k s = .next (s.deferred k.val g (s.getF SCH_TASKCFG_PERIOD k.val)) := by
  unfold execDeferredRelease done
  dsimp only
  rw [ho]
  dsimp only
  rw [if_pos (by simpa [hr, hst, hk, hrt, hg, State.endedBefore, he, imp_iff_not_or] using hl)]
  rfl

/-- The owed release. -/
theorem State.deferred_does (hs : s.taskShort k.val = false) {g : Nat} (hg : g ≤ s.tick) (p : Nat) :
    Released k.val g 0 s.tick (s.deferred k.val g p) ∧ (s.deferred k.val g p).flag SCH_TASKSTAT_CATCHUP k.val = decide (s.tick ≠ g) ∧
    (s.deferred k.val g p).getF SCH_TASKSTAT_LAGTICKS k.val = min 65535 (s.tick - g) ∧
    ((s.deferred k.val g p).taskRt k.val).owed = if s.tick = g then none else some (g + p, max (g + p) (s.tick + (3 * p + 3) / 4)) := by
  have kl : k.val < 65536 := by omega
  have lag : s.tick - g = 0 ↔ s.tick = g := by omega
  unfold State.deferred
  rw [State.releaseOrStop_fits hs]
  have r0 := State.release_does h k.isLt hd g 0
  rw [(State.release_keeps (Keeps.refl s)).tick]
  generalize s.release k.val g 0 = u at *
  have r1 := r0.modTask k.val (fun x => { x with owed := if s.tick - g = 0 then none else some (g + p, max (g + p) (s.tick + threeQuarters p)) })
  have ht : ((u.modTask k.val (fun x => { x with owed := if s.tick - g = 0 then none else some (g + p, max (g + p) (s.tick + threeQuarters p)) })).taskRt k.val).owed =
      if s.tick - g = 0 then none else some (g + p, max (g + p) (s.tick + threeQuarters p)) := by rw [State.taskRt_modTask_self]
  generalize u.modTask k.val _ = v at *
  have r2 := r1.put kl SCH_TASKSTAT_CATCHUP (b2n (decide (s.tick - g ≠ 0))) (by decide) (by decide)
  refine ⟨r2.put kl SCH_TASKSTAT_LAGTICKS _ (by decide) (by decide), ?_, ?_, ?_⟩
  · exact (flag_setF_ne r2.regsOk (key_ne_of_place kl kl (by decide))).trans ((flag_setB_self r1.regsOk _ rfl).trans (by simp [lag]))
  · exact (getF_setF_self _ _ _ _ r2.regsOk).trans (sat16_mod _)
  · refine ht.trans ?_
    simp only [lag, threeQuarters]

/-- What EVENT_RELEASE makes of the task: a release for all its activations, none of them pending any more. -/
def State.eventReleased (s : State) (t : Nat) : State :=
  (((s.modTask t (fun x => { x with acts := 0 })).releaseOrStop t s.tick (s.taskRt t).acts).setF SCH_TASKSTAT_PENDING 0 t).setF SCH_TASKEVT_ACTCNT
    (sat 16 (s.taskRt t).acts) t

omit h hd in
/-- A waiting event or error task with activations, MINSEP after its last release. -/
theorem State.eventRelease_due {t : Nat} (hr : s.releases t = true) (he : (s.taskRt t).endTick ≠ some s.tick) (hst : s.getF SCH_TASKSTAT_STATE t = 1)
    (ha : 0 < (s.taskRt t).acts) (hm : (s.taskRt t).released = true → (s.taskRt t).lastR + s.getF SCH_TASKCFG_PERIOD t ≤ s.tick)
    (hk : s.kind t = 1 ∨ s.kind t = 2) : s.eventRelease t = s.eventReleased t := by
  have hm' : (s.taskRt t).released = false ∨ (s.taskRt t).lastR + s.getF SCH_TASKCFG_PERIOD t ≤ s.tick := by
    cases e : (s.taskRt t).released with
    | false => exact .inl rfl
    | true => exact .inr (hm e)
  unfold State.eventRelease
  dsimp only
  rw [if_pos (by simpa [hr, hst, ha, hk, State.endedBefore, he] using hm')]
  rfl

/-- The release for its activations. -/
theorem State.eventReleased_does (hs : s.taskShort k.val = false) :
    Released k.val s.tick (s.taskRt k.val).acts s.tick (s.eventReleased k.val) ∧ (s.eventReleased k.val).getF SCH_TASKSTAT_PENDING k.val = 0 ∧
    (s.eventReleased k.val).getF SCH_TASKEVT_ACTCNT k.val = min 65535 (s.taskRt k.val).acts := by
  have kl : k.val < 65536 := by omega
  unfold State.eventReleased
  have hu : (s.modTask k.val (fun x => { x with acts := 0 })).RegsOk := h
  have hud : (s.modTask k.val (fun x => { x with acts := 0 })).taskDef? k.val = some d := hd
  have hus : (s.modTask k.val (fun x => { x with acts := 0 })).taskShort k.val = false := hs
  have r0 := State.release_does hu k.isLt hud s.tick (s.taskRt k.val).acts
  rw [State.releaseOrStop_fits hus]
  generalize (s.modTask k.val (fun x => { x with acts := 0 })).release k.val s.tick (s.taskRt k.val).acts = u at *
  have r1 : Released k.val s.tick (s.taskRt k.val).acts s.tick _ := r0.put kl SCH_TASKSTAT_PENDING 0 (by decide) (by decide)
  refine ⟨r1.put kl SCH_TASKEVT_ACTCNT _ (by decide) (by decide), ?_, ?_⟩
  · exact (getF_setF_ne _ _ r1.regsOk (key_ne_of_place kl kl (by decide))).trans (getF_setF_self _ _ _ _ r0.regsOk)
  · exact (getF_setF_self _ _ _ _ r1.regsOk).trans (sat16_mod _)

end

/-! ### Late cycles and overruns -/

/-- What CYCLE_LATE makes of a late execution. -/
def State.markedLate (s : State) (t : Nat) (r : Run) : State := ((s.putRun { r with late := true }).setF SCH_TASKSTAT_LATE 1 t).bump SCH_TASKCNT_LATECNT t

/-- The tick that a late execution of a cyclic task makes owed, and the time of its release. -/
def State.owedBy (s : State) (r : Run) : Nat × Nat := (r.grid + s.periodOf r, if r.dfr then r.rel + threeQuarters (s.periodOf r) else r.grid + s.periodOf r)

section
variable {s : State} {k : TaskNo} {r : Run} (h : s.RegsOk) (hr : s.run? .real k.val = some r) (hw : s.watched k.val = true) (hx : r.st ≠ .xcp)
include hr hw hx

/-- CYCLE_LATE of a watched execution whose next grid tick has come. -/
theorem execCycleLate_due (hl : r.late = false) (h3 : s.kind k.val ≠ 3) (ht : s.lateTick r ≤ s.tick) :
    execCycleLate k s = .next (if (s.markedLate k.val r).kind k.val = 0 then (s.markedLate k.val r).modTask k.val (fun x => { x with owed := some (s.owedBy r) })
      else s.markedLate k.val r) := by
  unfold execCycleLate done
  dsimp only
  rw [hr]
  dsimp only
  rw [if_pos (by simp [hw, hl, hx, h3, ht])]
  rfl

omit hr hw hx in
include h in
/-- A late execution as it is marked: LATE shows it and LATECNT counts it. -/
theorem State.markedLate_does (hc : r.ctx = .real) (ht : r.task = k.val) :
    (s.markedLate k.val r).run? .real k.val = some { r with late := true } ∧ (s.markedLate k.val r).getF SCH_TASKSTAT_LATE k.val = 1 ∧
    Chg s (s.markedLate k.val r) [(SCH_TASKSTAT_LATE, k.val), (SCH_TASKCNT_LATECNT, k.val)] ∧
    s.markedLate k.val r = { s with regs := (s.markedLate k.val r).regs, sched := (s.markedLate k.val r).sched } := by
  have kl : k.val < 65536 := by omega
  have c0 := (Chg.refl h).same (u := s.putRun { r with late := true }) rfl
  have c1 := c0.setF SCH_TASKSTAT_LATE 1 k.val
  refine ⟨?_, ?_, (c1.bump SCH_TASKCNT_LATECNT k.val 1).mono (by simp), rfl⟩
  · show tabGet? (tabSet _ (r.ctx.key r.task) _) _ = _
    rw [hc, ht]
    exact tabGet?_tabSet_self _ _ _
  · exact (getF_setF_ne _ _ c1.ok (key_ne_of_place kl kl (by decide))).trans (getF_setF_self _ _ _ _ c0.ok)

/-- FURTHER_GRID_TICK_OVERRUN that stops the task by watchdog. -/
theorem execFurtherGridTickOverrun_stop (hl : r.late = true) (hk : s.kind k.val = 0) {g q : Nat} (ho : (s.taskRt k.val).owed = some (g, q))
    (hg : g + s.periodOf r ≤ s.tick) (hs : s.isSafety k.val = true ∨ s.flag SCH_MODE_PROFILE = false) :
    execFurtherGridTickOverrun k s = .next (s.wdStop k.val) := by
  unfold execFurtherGridTickOverrun done
  dsimp only
  rw [hr]
  dsimp only
  rw [if_neg (by simp [hw, hl, hx]), if_pos hk, ho]
  dsimp only
  rw [if_neg (by omega), if_pos (by simpa using hs)]

/-- What an overrun makes of a task that is not stopped: the grid tick owed is skipped. -/
def State.skipped (s : State) (t g q p : Nat) : State := (s.modTask t (fun x => { x with owed := some (g + p, max q (g + p)) })).bump SCH_TASKCNT_SKIPCNT t

/-- FURTHER_GRID_TICK_OVERRUN that skips the grid tick owed, and reports it. -/
theorem execFurtherGridTickOverrun_skip (hl : r.late = true) (hk : s.kind k.val = 0) {g q : Nat} (ho : (s.taskRt k.val).owed = some (g, q))
    (hg : g + s.periodOf r ≤ s.tick) (hs : s.isSafety k.val = false) (hp : s.flag SCH_MODE_PROFILE = true) :
    execFurtherGridTickOverrun k s = .next ((s.skipped k.val g q (s.periodOf r)).report 0x0007 k.val s.now 2 k.val) := by
  unfold execFurtherGridTickOverrun done
  dsimp only
  rw [hr]
  dsimp only
  rw [if_neg (by simp [hw, hl, hx]), if_pos hk, ho]
  dsimp only
  rw [if_neg (by omega), if_neg (by simp [hs, hp])]
  rfl

omit hr hw hx in
include h in
/-- The grid tick skipped. -/
theorem State.skipped_does (t g q p : Nat) (kind obj stamp rk rn : Nat) :
    (((s.skipped t g q p).report kind obj stamp rk rn).taskRt t).owed = some (g + p, max q (g + p)) ∧
    OnlyRegs s ((s.skipped t g q p).report kind obj stamp rk rn) [(SCH_TASKCNT_SKIPCNT, t), (SCH_COALSTAT_OPEN, 0), (SCH_COALSTAT_OVFCNT, 0)] := by
  have c := ((Chg.refl h).same (u := s.modTask t (fun x => { x with owed := some (g + p, max q (g + p)) })) rfl).bump SCH_TASKCNT_SKIPCNT t 1
  have ho : ((s.skipped t g q p).taskRt t).owed = some (g + p, max q (g + p)) := by
    show ((s.modTask t _).taskRt t).owed = _
    rw [State.taskRt_modTask_self]
  obtain ⟨c', -⟩ := State.report_does (s := s.skipped t g q p) c.ok kind obj stamp rk rn
  have ht := State.report_tasks (s.skipped t g q p) kind obj stamp rk rn
  refine ⟨?_, ((c.trans c').mono (by simp [reportFields])).only⟩
  unfold State.taskRt at ho ⊢
  rw [ht]
  exact ho

end

/-- Settles O39: each command is due under its premises, and a release, a watchdog stop or the account of the owed tick is what it makes. -/
theorem taskReleases : Obligations.TaskReleases := by
  unfold Obligations.TaskReleases
  intro s k d h hd
  refine ⟨fun hr he hst hl => ⟨fun hk ho hg => ⟨fun hs => ?_, fun hs hp => ?_⟩, fun g r hk ho hrt hg hs => ?_⟩, fun hr he hst ha hm hs => ⟨fun hk => ?_, fun hk het => ?_⟩,
    fun r hrun hc ht hw hx => ⟨fun hl h3 hlt => ?_, fun g q hl hk ho hg => ⟨fun hs => ?_, fun hs hp => ?_⟩⟩⟩
  · exact ⟨_, execCyclicRelease_due hr he hst hl hk ho hg, State.cyclicRelease_does h hd hs rfl⟩
  · exact ⟨_, execCyclicRelease_due hr he hst hl hk ho hg, State.cyclicRelease_short h hs hp rfl⟩
  · exact ⟨_, execDeferredRelease_due hr he hst hl hk ho hrt hg, State.deferred_does h hd hs hg _⟩
  · exact ⟨_, congrArg Host.Outcome.next (State.eventRelease_due hr he hst ha hm hk), State.eventReleased_does h hd hs⟩
  · refine ⟨s.eventReleased k.val, ?_, State.eventReleased_does h hd hs⟩
    show execErrorTaskDelivery s = _
    unfold execErrorTaskDelivery done
    rw [het]
    exact congrArg Host.Outcome.next (State.eventRelease_due hr he hst ha hm (.inr hk))
  · obtain ⟨hrun', hlate, c, e⟩ := State.markedLate_does h hc ht
    have hkind : (s.markedLate k.val r).kind k.val = s.kind k.val := c.only _ _ (key_ne_of_places (l := [SCH_TASKSTAT_LATE, SCH_TASKCNT_LATECNT]) (by omega) (by decide))
    refine ⟨_, execCycleLate_due hrun hw hx hl h3 hlt, ?_⟩
    rw [hkind]
    split
    · refine ⟨hrun', hlate, fun _ => ?_, rfl, (c.same rfl).only⟩
      rw [State.taskRt_modTask_self]
      rfl
    · next hk => exact ⟨hrun', hlate, fun h0 => absurd h0 hk, e, c.only⟩
  · obtain ⟨hst, hwd, -, -⟩ := State.wdStop_does h k.isLt
    exact ⟨_, execFurtherGridTickOverrun_stop hrun hw hx hl hk ho hg hs, hst, hwd⟩
  · exact ⟨_, execFurtherGridTickOverrun_skip hrun hw hx hl hk ho hg hs hp, State.skipped_does h _ _ _ _ _ _ _ _ _⟩

end Sys2Proof.Machine
end

section
/-! PROOFS. A mode change takes effect (02, R46, R48; 04, R113; 05, R127, R132). -/
namespace Sys2Proof.Machine

/-- With no exception pending, no record is answered by a mode change. -/
theorem State.abortPending_none {s : State} (h : ∀ t < 256, s.getF SCH_TASKXCP_PEND t = 0) (f : Nat → Bool) : s.abortPending f = s := by
  unfold State.abortPending State.taskNos
  rw [List.foldl_map]
  exact List.foldl_fixed' (fun d => if_neg (by simp [State.flag, h d.no.val d.no.isLt])) _

/-- A change of the tasks' accounts, beside the registers: what a mode change makes of the scheduler. -/
def TasksOnly (s t : State) : Prop := ∃ r ts, t = { s with regs := r, sched := { s.sched with tasks := ts } }

/-- Nothing changed. -/
theorem TasksOnly.refl (s : State) : TasksOnly s s := ⟨_, _, rfl⟩
/-- One change after another. -/
theorem TasksOnly.trans {s t u : State} (h : TasksOnly s t) (k : TasksOnly t u) : TasksOnly s u := by
  obtain ⟨r, ts, rfl⟩ := h
  obtain ⟨q, us, rfl⟩ := k
  exact ⟨q, us, rfl⟩
/-- A step repeated over a list. -/
theorem TasksOnly.foldl {α : Type} {f : State → α → State} (hf : ∀ s a, TasksOnly s (f s a)) (l : List α) (s : State) : TasksOnly s (l.foldl f s) := by
  induction l generalizing s with
  | nil => exact TasksOnly.refl s
  | cons a l ih => exact (hf s a).trans (ih (f s a))

/-- With no exception pending, HOLD sets MODE, and marks in their accounts the cycles that it has caught. -/
theorem State.toHold_does {s : State} (h : ∀ t < 256, s.getF SCH_TASKXCP_PEND t = 0) : TasksOnly s s.toHold ∧ s.toHold.regs = (s.setF SCH_MODE_MODE 2).regs := by
  have step : ∀ (l : List Nat) (u : State), (l.foldl (fun (s : State) t => if !s.isSafety t && (s.run? .real t).isSome then s.modTask t (fun x => { x with heldOver := true })
      else s) u).regs = u.regs := by
    intro l
    induction l with
    | nil => intro u; rfl
    | cons t l ih => intro u; rw [List.foldl_cons, ih]; split <;> rfl
  unfold State.toHold
  rw [State.abortPending_none h]
  refine ⟨TasksOnly.trans (t := s.setF SCH_MODE_MODE 2) ⟨_, _, rfl⟩ (TasksOnly.foldl (fun u t => ?_) _ _), step _ _⟩
  split
  · exact ⟨_, _, rfl⟩
  · exact TasksOnly.refl u

/-- The fields that the change back to RUN clears. -/
def lagFields (l : List TaskDef) : List (Fld × Nat) := l.flatMap (fun d => [(SCH_TASKSTAT_LAGTICKS, d.no.val), (SCH_TASKSTAT_CATCHUP, d.no.val)])

/-- A held task resumes at its next grid tick, with no catch-up and no lag. -/
def State.resumeTask (s : State) (t : Nat) : State :=
  if s.isSafety t then s else ((s.modTask t (fun x => { x with owed := none })).setF SCH_TASKSTAT_CATCHUP 0 t).setF SCH_TASKSTAT_LAGTICKS 0 t

/-- The change back to RUN sets MODE, and then each task resumes. -/
theorem State.resumeRun_eq {s : State} (h : s.RegsOk) : s.resumeRun = (s.cfg.tasks.map (fun d => d.no.val)).foldl State.resumeTask (s.setF SCH_MODE_MODE 1) := by
  have hc : (s.setF SCH_MODE_MODE 1).cfg = s.cfg := State.cfg_congr rfl (getF_setF_ne _ _ h (by decide))
  rw [← hc]
  rfl

/-- The tasks of a list resume: their accounts, and catch-up and lag of each. -/
theorem State.resumeTask_foldl (l : List TaskDef) {s : State} (h : s.RegsOk) :
    TasksOnly s ((l.map (fun d => d.no.val)).foldl State.resumeTask s) ∧ Chg s ((l.map (fun d => d.no.val)).foldl State.resumeTask s) (lagFields l) := by
  have one : ∀ {u : State}, u.RegsOk → ∀ t, TasksOnly u (u.resumeTask t) ∧ Chg u (u.resumeTask t) [(SCH_TASKSTAT_LAGTICKS, t), (SCH_TASKSTAT_CATCHUP, t)] := by
    intro u hu t
    unfold State.resumeTask
    split
    · exact ⟨TasksOnly.refl u, (Chg.refl hu).mono (by simp)⟩
    · exact ⟨⟨_, _, rfl⟩, (((Chg.refl hu).same (u := u.modTask t (fun x => { x with owed := none })) rfl).setF SCH_TASKSTAT_CATCHUP 0 t).setF SCH_TASKSTAT_LAGTICKS 0 t⟩
  induction l generalizing s with
  | nil => exact ⟨TasksOnly.refl s, Chg.refl h⟩
  | cons d l ih =>
    obtain ⟨e1, c1⟩ := one h d.no.val
    obtain ⟨e2, c2⟩ := ih c1.ok
    exact ⟨e1.trans e2, (c1.trans c2).mono (fun x hx => (List.mem_append.mp hx).elim (List.mem_append_right _) (List.mem_append_left _))⟩

/-- The change back to RUN sets MODE, and clears catch-up and lag of the tasks. -/
theorem State.resumeRun_does {s : State} (h : s.RegsOk) :
    TasksOnly s s.resumeRun ∧ s.resumeRun.getF SCH_MODE_MODE = 1 ∧ Chg s s.resumeRun ((SCH_MODE_MODE, 0) :: lagFields s.cfg.tasks) := by
  have c0 := (Chg.refl h).setF SCH_MODE_MODE 1 0
  obtain ⟨e, c⟩ := State.resumeTask_foldl s.cfg.tasks c0.ok
  have hmode : ∀ x ∈ lagFields s.cfg.tasks, SCH_MODE_MODE.key 0 ≠ x.1.key x.2 := by
    intro x hx
    simp only [lagFields, List.mem_flatMap, List.mem_cons, List.not_mem_nil, or_false] at hx
    obtain ⟨d, -, rfl | rfl⟩ := hx
    · exact key_ne_of_place (f := SCH_MODE_MODE) (g := SCH_TASKSTAT_LAGTICKS) (by decide) (by omega) (by decide)
    · exact key_ne_of_place (f := SCH_MODE_MODE) (g := SCH_TASKSTAT_CATCHUP) (by decide) (by omega) (by decide)
  rw [State.resumeRun_eq h]
  refine ⟨TasksOnly.trans (t := s.setF SCH_MODE_MODE 1) ⟨_, _, rfl⟩ e, (c.only _ _ hmode).trans (getF_setF_self _ _ _ _ h), (c0.trans c).mono ?_⟩
  intro x hx
  simpa [or_comm] using hx

/-- No execution is a speculative run, and none awaits what its exception is answered with. -/
def State.Plain (s : State) : Prop := ∀ p ∈ s.sched.runs, p.2.ctx ≠ .spec ∧ p.2.st ≠ .xcp

/-- No run to be discarded for its generations. -/
theorem State.genCheck_plain {s : State} (h : s.Plain) : s.genCheck = s := by
  unfold State.genCheck
  rw [State.specGenCheck_none (fun p hp => (h p hp).1), State.settleAll_none (fun p hp => (h p hp).2)]

/-- No run to be discarded at a change of the mode. -/
theorem State.invalAll_plain {s : State} (h : s.Plain) : s.invalAll = s := by
  unfold State.invalAll
  rw [State.specInvalAll_none (fun p hp => (h p hp).1), State.settleAll_none (fun p hp => (h p hp).2)]

/-- How a mode change ends: the tasks armed for speculation are shown, and a CONFIG record is written. -/
theorem State.modeTail_does {u : State} (h : u.RegsOk) (hp : u.Plain) (n : Nat) (l : List Nat) :
    (∃ r a, (u.genCheck.specFollow).evCfg n l = { u with regs := r, arc := a }) ∧
    ((u.genCheck.specFollow).evCfg n l).getF SCH_MODE_MODE = u.getF SCH_MODE_MODE ∧
    ∀ (f : Fld) (ix : Nat), (∀ d ∈ u.cfg.tasks, f.key ix ≠ SPC_TASKSTAT_SSTATE.key d.no.val) → f.key ix ≠ SPC_CTL_INFLIGHT.key 0 →
      ((u.genCheck.specFollow).evCfg n l).getF f ix = u.getF f ix := by
  rw [State.genCheck_plain hp]
  obtain ⟨⟨r, e⟩, -, c⟩ := State.specFollow_does h
  obtain ⟨a, ea⟩ := State.evCfg_frame u.specFollow n l
  have fld : ∀ (f : Fld) (ix : Nat), (u.specFollow.evCfg n l).getF f ix = u.specFollow.getF f ix := fun f ix => getF_same (by rw [ea])
  refine ⟨⟨r, a, ?_⟩, (fld _ _).trans (c _ _ (fun d _ => key_ne_of_place (by decide) (by omega) (by decide)) (by decide)), fun f ix h1 h2 => (fld f ix).trans (c f ix h1 h2)⟩
  rw [ea, e]

/-- One accepted change whose tick has come takes effect. -/
theorem State.changeModes_one {s : State} {m k : Nat} (ha : s.sched.accepted = [(m, k)]) (hk : k ≤ s.tick) :
    s.changeModes = State.changeMode { s with sched := { s.sched with accepted := [] } } m := by
  unfold State.changeModes
  rw [ha]
  simp [hk]

/-- The change to the mode in force. -/
theorem State.changeMode_same {s : State} {m : Nat} (h : s.mode = m) : s.changeMode m = s := if_pos h

/-- The change from RUN to HOLD. -/
theorem State.changeMode_hold {s : State} (hp : s.Plain) (h : s.mode = 1) : s.changeMode 2 = (s.toHold.genCheck.specFollow).evCfg 1 [1, 2] := by
  unfold State.changeMode
  dsimp only
  rw [if_neg (by rw [h]; decide), if_pos h, State.invalAll_plain hp, h]
  rfl

/-- The change from HOLD to RUN. -/
theorem State.changeMode_resume {s : State} (h : s.mode = 2) : s.changeMode 1 = (s.resumeRun.genCheck.specFollow).evCfg 1 [2, 1] := by
  unfold State.changeMode
  dsimp only
  rw [if_neg (by rw [h]; decide), if_neg (by rw [h]; decide), if_pos h, h]
  rfl

/-- Changed accounts of the tasks leave the executions as they are. -/
theorem TasksOnly.plain {s t : State} (h : TasksOnly s t) (hp : s.Plain) : t.Plain := by
  obtain ⟨r, ts, rfl⟩ := h
  exact hp

/-- The configuration in force stays where ACTSTORE reads the same. -/
theorem TasksOnly.cfg {s t : State} (h : TasksOnly s t) (ha : t.getF SCH_OLCSTAT_ACTSTORE = s.getF SCH_OLCSTAT_ACTSTORE) : t.cfg = s.cfg := by
  obtain ⟨r, ts, rfl⟩ := h
  exact State.cfg_congr rfl ha

/-- HOLD from RUN. -/
theorem State.changeMode_hold_does {s : State} (h : s.RegsOk) (hp : s.Plain) (hx : ∀ t < 256, s.getF SCH_TASKXCP_PEND t = 0) (hm : s.mode = 1) :
    (s.changeMode 2).mode = 2 ∧ (∃ r ts a, s.changeMode 2 = { s with regs := r, sched := { s.sched with tasks := ts }, arc := a }) ∧
    ∀ (f : Fld) (ix : Nat), f.key ix ≠ SCH_MODE_MODE.key 0 → (∀ d ∈ s.cfg.tasks, f.key ix ≠ SPC_TASKSTAT_SSTATE.key d.no.val) → f.key ix ≠ SPC_CTL_INFLIGHT.key 0 →
      (s.changeMode 2).getF f ix = s.getF f ix := by
  obtain ⟨et, er⟩ := State.toHold_does hx
  have c := ((Chg.refl h).setF SCH_MODE_MODE 2 0).same er
  have hmode : s.toHold.getF SCH_MODE_MODE = 2 := (getF_same er).trans (getF_setF_self _ _ _ _ h)
  have hcfg : s.toHold.cfg = s.cfg := et.cfg (c.only _ _ (by decide))
  have hplain : s.toHold.Plain := et.plain hp
  rw [State.changeMode_hold hp hm]
  generalize s.toHold = u at *
  obtain ⟨⟨r, a, e⟩, e2, e3⟩ := State.modeTail_does c.ok hplain 1 [1, 2]
  obtain ⟨q, ts, eu⟩ := et
  refine ⟨e2.trans hmode, ⟨r, ts, a, by rw [e, eu]⟩, fun f ix h1 h2 h3 => (e3 f ix (by rwa [hcfg]) h3).trans (c.only f ix (by simpa using h1))⟩

/-- RUN from HOLD. -/
theorem State.changeMode_resume_does {s : State} (h : s.RegsOk) (hp : s.Plain) (hm : s.mode = 2) :
    (s.changeMode 1).mode = 1 ∧ (∃ r ts a, s.changeMode 1 = { s with regs := r, sched := { s.sched with tasks := ts }, arc := a }) ∧
    ∀ (f : Fld) (ix : Nat), f.key ix ≠ SCH_MODE_MODE.key 0 → (∀ d ∈ s.cfg.tasks, f.key ix ≠ SCH_TASKSTAT_CATCHUP.key d.no.val ∧ f.key ix ≠ SCH_TASKSTAT_LAGTICKS.key d.no.val) →
      (∀ d ∈ s.cfg.tasks, f.key ix ≠ SPC_TASKSTAT_SSTATE.key d.no.val) → f.key ix ≠ SPC_CTL_INFLIGHT.key 0 → (s.changeMode 1).getF f ix = s.getF f ix := by
  obtain ⟨et, hmode, c⟩ := State.resumeRun_does h
  have hlag : ∀ (f : Fld) (ix : Nat), f.key ix ≠ SCH_MODE_MODE.key 0 →
      (∀ d ∈ s.cfg.tasks, f.key ix ≠ SCH_TASKSTAT_CATCHUP.key d.no.val ∧ f.key ix ≠ SCH_TASKSTAT_LAGTICKS.key d.no.val) → s.resumeRun.getF f ix = s.getF f ix := by
    intro f ix h1 h2
    refine c.only f ix fun x hx => ?_
    simp only [lagFields, List.mem_cons, List.mem_flatMap, List.not_mem_nil, or_false] at hx
    obtain rfl | ⟨d, hd, rfl | rfl⟩ := hx
    · exact h1
    · exact (h2 d hd).2
    · exact (h2 d hd).1
  have hcfg : s.resumeRun.cfg = s.cfg := et.cfg (hlag _ _ (by decide) (fun d _ =>
    ⟨key_ne_of_place (by decide) (by omega) (by decide), key_ne_of_place (by decide) (by omega) (by decide)⟩))
  have hplain : s.resumeRun.Plain := et.plain hp
  rw [State.changeMode_resume hm]
  generalize s.resumeRun = u at *
  obtain ⟨⟨r, a, e⟩, e2, e3⟩ := State.modeTail_does c.ok hplain 1 [2, 1]
  obtain ⟨q, ts, eu⟩ := et
  exact ⟨e2.trans hmode, ⟨r, ts, a, by rw [e, eu]⟩, fun f ix h1 h2 h3 h4 => (e3 f ix (by rwa [hcfg]) h4).trans (hlag f ix h1 h2)⟩

/-- Settles O29: the one change due is to HOLD, back to RUN, or to the mode in force. -/
theorem modeChange : Obligations.ModeChange := by
  unfold Obligations.ModeChange
  intro s m k h ha hk hp hx
  have he : exec .modeChange s = .next (State.changeMode { s with sched := { s.sched with accepted := [] } } m) :=
    congrArg Host.Outcome.next (State.changeModes_one ha hk)
  refine ⟨fun hm hs => ⟨_, he, ?_⟩, fun hm hs => ⟨_, he, ?_⟩, fun hm => ⟨_, he, State.changeMode_same hm.symm⟩⟩
  · subst hm
    obtain ⟨hmode, ⟨r, ts, a, e⟩, hf⟩ := State.changeMode_hold_does (s := { s with sched := { s.sched with accepted := [] } }) h hp hx hs
    exact ⟨hmode, by rw [e], by rw [e], hf⟩
  · subst hm
    obtain ⟨hmode, ⟨r, ts, a, e⟩, hf⟩ := State.changeMode_resume_does (s := { s with sched := { s.sched with accepted := [] } }) h hp hs
    exact ⟨hmode, by rw [e], by rw [e], hf⟩

end Sys2Proof.Machine
end

section
/-! PROOFS. Commands to a task, dispositions, commits, report windows and cuts (02, R42, R498; 04, R110, R115; 06, R172; 09, R230 to R249). -/
namespace Sys2Proof.Machine

/-- A shared item touches the pair only. -/
theorem State.share_frame (s : State) (i : SetupItem) : ∃ p, s.share i = { s with pair := p } := by
  unfold State.share
  split
  · exact ⟨_, rfl⟩
  · exact ⟨s.pair, rfl⟩

/-- A module that does not follow is neither in TRACK nor FOLLOW nor SUSPECT. -/
theorem State.following_false {s : State} (h : s.following = false) : s.getF PAR_STAT_STATE ≠ 2 ∧ s.getF PAR_STAT_STATE ≠ 3 ∧ s.getF PAR_STAT_STATE ≠ 4 := by
  unfold State.following at h
  simp only [Bool.or_eq_false_iff, decide_eq_false_iff_not] at h
  exact ⟨h.1.1, h.1.2, h.2⟩

/-- One that follows is in one of the three. -/
theorem State.following_true {s : State} (h : s.following = true) : s.getF PAR_STAT_STATE = 2 ∨ s.getF PAR_STAT_STATE = 3 ∨ s.getF PAR_STAT_STATE = 4 := by
  unfold State.following at h
  simpa [or_assoc] using h

/-- Whether the module follows is the same where the count of refused writes is set aside. -/
theorem following_aside {s : State} (h : s.RegsOk) : s.aside.following = s.following := by
  unfold State.following
  rw [pairState_aside h]

/-! ### Commands to a task -/

/-- A command to a task is taken into the base tick: no safety task, or SAFETY-EDIT in its edit position, and a module that does not follow. -/
theorem State.taskCmd_taken {s : State} {p : Path} {t : Nat} {a : TickAsk} (hf : s.following = false) (he : s.isSafety t = true → s.safetyEdit = true) :
    s.taskCmd p t a = s.ask t s.now a (some p) := by
  obtain ⟨h2, h3, h4⟩ := State.following_false hf
  unfold State.taskCmd
  dsimp only
  rw [if_neg (by simpa using he), if_neg (by simp [h2, h3, h4])]

/-- The lock of a safety task refuses it. -/
theorem State.taskCmd_locked {s : State} {p : Path} {t : Nat} {a : TickAsk} (hs : s.isSafety t = true) (he : s.safetyEdit = false) :
    s.taskCmd p t a = s.ignored p 0x30004 1 := if_pos (by simp [hs, he])

/-- A Follower ignores it. -/
theorem State.taskCmd_follower {s : State} {p : Path} {t : Nat} {a : TickAsk} (hf : s.following = true) (he : s.isSafety t = true → s.safetyEdit = true) :
    s.taskCmd p t a = s.ignored p 0x30004 3 := by
  unfold State.taskCmd
  dsimp only
  rw [if_neg (by simpa using he), if_pos (by simpa [or_assoc] using State.following_true hf)]

section
variable {s : State} {p : Path} {task : TaskNo} (h : s.RegsOk) (hr : s.Runs) (a : TickAsk)
include h hr

omit hr in
/-- Whether a task is a safety task is the same where the count of refused writes is set aside. -/
theorem isSafety_aside (t : TaskNo) : s.aside.isSafety t.val = s.isSafety t.val :=
  flag_aside h _ (key_ne_of_place (by omega) (by decide) (by decide))

/-- The command as a write of a running module. -/
theorem State.written_taskCmd {t : State} (hf : s.following = false) (he : s.isSafety task.val = true → s.safetyEdit = true)
    (ht : t = s.written p 0x30004 (fun s => s.taskCmd p task.val a)) :
    t.sched = { s.sched with batch := s.sched.batch ++ [⟨task.val, s.now, s.sched.seq, a, some p⟩], seq := s.sched.seq + 1 } ∧
      t = { s with regs := t.regs, sched := t.sched } ∧ OnlyRegsW 3 s t [] := by
  rw [← following_aside h] at hf
  rw [← isSafety_aside h, ← safetyEdit_aside h] at he
  obtain ⟨e, c⟩ := State.written_plain (p := p) (off := 0x30004) (f := fun s => s.taskCmd p task.val a) hr h (State.taskCmd_taken hf he) rfl
    (by rw [show (s.aside.ask _ _ _ _).kerb.phase = .run from hr]; decide)
  rw [← ht] at e c
  have es : t.sched = { s.sched with batch := s.sched.batch ++ [⟨task.val, s.now, s.sched.seq, a, some p⟩], seq := s.sched.seq + 1 } := congrArg State.sched e
  refine ⟨es, ?_, c⟩
  rw [es]
  exact e

/-- The command where it is refused or ignored. -/
theorem State.written_taskCmd_ignored {c : Nat} (hc : (c = 1 ∧ s.isSafety task.val = true ∧ s.safetyEdit = false) ∨
      (c = 3 ∧ s.following = true ∧ (s.isSafety task.val = true → s.safetyEdit = true))) :
    RegsOnlyW 3 s (s.written p 0x30004 (fun s => s.taskCmd p task.val a)) [(KRB_IGNSTAT_CAUSE, 0), (KRB_IGNADDR_OFFSET, 0), (KRB_IGNPATH_PATH, 0)] ∧
      (s.written p 0x30004 (fun s => s.taskCmd p task.val a)).getF KRB_IGNSTAT_CAUSE = c := by
  rw [← isSafety_aside h, ← safetyEdit_aside h, ← following_aside h] at hc
  have hu : s.aside.taskCmd p task.val a = s.aside.ignored p 0x30004 c := by
    rcases hc with ⟨rfl, hs, he⟩ | ⟨rfl, hf, he⟩
    · exact State.taskCmd_locked hs he
    · exact State.taskCmd_follower hf he
  exact State.written_ign (f := fun s => s.taskCmd p task.val a) hr h hu (by omega) (by decide) (by decide)

/-! ### Dispositions -/

omit h hr in
/-- A disposition of a pending record, on a module that does not follow, waits for its base tick and is shared. -/
theorem State.dispWrite_given {t : Nat} {resume : Bool} (ht : s.selIx p .task = t) (hf : s.following = false) (hp : s.flag SCH_TASKXCP_PEND t = true) :
    s.dispWrite p resume = State.share { s with sched := { s.sched with disps := s.sched.disps ++
      [((t, (s.taskRt t).xseq, resume), if s.getF PAR_STAT_STATE = 6 then none else some 0)] } } (.disp t (s.taskRt t).xseq resume) := by
  obtain ⟨h2, h3, h4⟩ := State.following_false hf
  unfold State.dispWrite
  rw [ht]
  dsimp only
  rw [if_neg (by simp [h2, h3, h4]), if_neg (by simp [hp])]

omit h hr in
/-- On a Follower a disposition is ignored. -/
theorem State.dispWrite_follower {resume : Bool} (hf : s.following = true) : s.dispWrite p resume = s.ignored p 0x30034 3 :=
  if_pos (by simpa [or_assoc] using State.following_true hf)

/-- The disposition of a pending record as a write of a running module. -/
theorem State.written_dispWrite {resume : Bool} {t : State} (hf : s.following = false) (hsel : s.getF SCH_TASKSEL_TASK p.code = task.val)
    (hp : s.flag SCH_TASKXCP_PEND task.val = true) (ht : t = s.written p 0x30034 (fun s => s.dispWrite p resume)) :
    t = { s with regs := t.regs, sched := t.sched, pair := t.pair } ∧ OnlyRegsW 3 s t [] ∧
      t.sched.disps = s.sched.disps ++ [((task.val, (s.taskRt task.val).xseq, resume), if s.getF PAR_STAT_STATE = 6 then none else some 0)] := by
  have hsel' : s.aside.selIx p .task = task.val :=
    (getF_aside h SCH_TASKSEL_TASK (key_ne_of_place (Path.code_lt p) (by decide) (by decide))).trans hsel
  have hp' : s.aside.flag SCH_TASKXCP_PEND task.val = true := (flag_aside h _ (key_ne_of_place (by omega) (by decide) (by decide))).trans hp
  have hu := State.dispWrite_given (resume := resume) hsel' (by rwa [following_aside h]) hp'
  rw [pairState_aside h] at hu
  obtain ⟨q, hq⟩ := State.share_frame { s.aside with sched := { s.aside.sched with disps := s.aside.sched.disps ++
      [((task.val, (s.aside.taskRt task.val).xseq, resume), if s.getF PAR_STAT_STATE = 6 then none else some 0)] } } (.disp task.val (s.aside.taskRt task.val).xseq resume)
  obtain ⟨e, c⟩ := State.written_plain (p := p) (off := 0x30034) (f := fun s => s.dispWrite p resume) hr h (hu.trans hq) rfl
    (by rw [show s.aside.kerb.phase = .run from hr]; decide)
  rw [← ht] at e c
  have es := congrArg State.sched e
  have ep := congrArg State.pair e
  refine ⟨?_, c, congrArg Sched.disps es⟩
  rw [es, ep]
  exact e

end

/-! ### The deadline of a disposition -/

/-- Where the deadline has passed, the record is answered ABORT. -/
theorem State.abortXcp_does {s : State} {k : TaskNo} {r : Run} {x : Xcp × Nat} (h : s.RegsOk) (hp : s.flag SCH_TASKXCP_PEND k.val = true)
    (hs : s.sysAddr .xcpPend false 0 = none) (hr : s.run? .real k.val = some r) (hx : r.xcp = some x) (hl : tabRising s.sched.runs = true) (ho : s.olc.back = none) :
    (s.abortXcp k.val).run? .real k.val = none ∧ (s.abortXcp k.val).getF SCH_TASKXCP_PEND k.val = 0 ∧
      (s.abortXcp k.val).getF SCH_TASKXCP_ABTCNT k.val = sat 8 (s.getF SCH_TASKXCP_ABTCNT k.val + 1) := by
  have kl : k.val < 65536 := by omega
  have e : s.abortXcp k.val = (((s.setF SCH_TASKXCP_PEND 0 k.val).bump SCH_TASKXCP_ABTCNT k.val).endCycle k.val false).orphanBatches r.batches := by
    unfold State.abortXcp State.clearPend State.dispose
    rw [if_pos hp, hs]
    dsimp only
    rw [hr]
    dsimp only
    rw [hx]
    dsimp only
    rw [Bool.false_and, if_neg (by decide)]
    unfold State.abortCycle State.leaveOld
    rw [show ((s.setF SCH_TASKXCP_PEND 0 k.val).bump SCH_TASKXCP_ABTCNT k.val).olc.back = none from ho]
    dsimp only
    rw [show ((s.setF SCH_TASKXCP_PEND 0 k.val).bump SCH_TASKXCP_ABTCNT k.val).run? .real k.val = some r from hr]
  have c1 := (Chg.refl h).setF SCH_TASKXCP_PEND 0 k.val
  have c2 := c1.bump SCH_TASKXCP_ABTCNT k.val 1
  have hcnt : ((s.setF SCH_TASKXCP_PEND 0 k.val).bump SCH_TASKXCP_ABTCNT k.val).getF SCH_TASKXCP_ABTCNT k.val = sat 8 (s.getF SCH_TASKXCP_ABTCNT k.val + 1) := by
    have hold := c1.only SCH_TASKXCP_ABTCNT k.val (key_ne_of_places (l := [SCH_TASKXCP_PEND]) kl (by decide))
    refine (getF_setF_self _ _ _ _ c1.ok).trans ?_
    rw [hold]
    exact Nat.mod_eq_of_lt (Nat.lt_of_le_of_lt (Nat.min_le_right _ _) (by decide))
  obtain ⟨hend, hpend, -, -, c3⟩ := State.endCycle_does (s := (s.setF SCH_TASKXCP_PEND 0 k.val).bump SCH_TASKXCP_ABTCNT k.val) c2.ok hl kl false
  rw [e]
  refine ⟨hend, hpend, Eq.trans ?_ hcnt⟩
  exact c3.only _ _ (key_ne_of_places (l := [SCH_TASKSTAT_STATE, SCH_TASKXCP_PEND, SCH_TASKSTAT_LATE, SCH_TASKCFG_SAFETY]) kl (by decide))

/-- A deadline that has passed is one of a pending record. -/
theorem State.pend_of_dispLate {s : State} {t : Nat} (h : s.dispLate t = true) : s.flag SCH_TASKXCP_PEND t = true := by
  unfold State.dispLate at h
  split at h
  · cases h
  · simp only [Bool.and_eq_true] at h
    exact h.1.2

/-! ### Commits -/

/-- What follows the commit of a cycle takes no further CSN. -/
theorem State.commitCycle_csn {s : State} {r : Run} (he : s.errorTask ≠ some r.task) (arb : List (Fin 8 × Nat)) : (s.commitCycle r arb).sq.csn = s.commitCsn := by
  unfold State.commitCycle
  dsimp only
  rw [if_neg he]
  dsimp only [List.foldl]
  have hcore := fun i => State.commitCore_csn s i arb
  generalize hu : s.commitCore _ arb = u
  exact (State.specArm_csn (State.endCycle_csn (State.modTask_csn (SameCsn.refl u)))).csn.trans (hu ▸ hcore _)

/-- The error task is the same after a change of a register that is neither ACTSTORE nor a KIND. -/
theorem State.errorTask_setF {s : State} (h : s.RegsOk) {f : Fld} {v ix : Nat} (hc : SCH_OLCSTAT_ACTSTORE.key 0 ≠ f.key ix)
    (hk : ∀ k : TaskNo, SCH_TASKCFG_KIND.key k.val ≠ f.key ix) : (s.setF f v ix).errorTask = s.errorTask := by
  have hkind : ∀ k : TaskNo, (s.setF f v ix).kind k.val = s.kind k.val := fun k => getF_setF_ne _ _ h (hk k)
  unfold State.errorTask
  rw [State.cfg_congr (s := s) (t := s.setF f v ix) rfl (getF_setF_ne _ _ h hc)]
  simp only [hkind]

/-- Nor what follows that of an old cycle; the count of migrated stores leaves the next CSN as it is. -/
theorem State.commitOld_csn {s : State} {r : Run} (h : s.RegsOk) (he : s.errorTask ≠ some r.task) (arb : List (Fin 8 × Nat)) : (s.commitOld r arb).sq.csn = s.commitCsn := by
  have hmig : ∀ n, (s.bump SCH_OLCSTAT_MIGCNT 0 n).errorTask ≠ some r.task := fun n =>
    (State.errorTask_setF (f := SCH_OLCSTAT_MIGCNT) (ix := 0) h (by decide) (fun k => key_ne_of_place (by omega) (by decide) (by decide))).symm ▸ he
  unfold State.commitOld
  dsimp only
  rw [if_neg (hmig _)]
  dsimp only [List.foldl]
  have hcore := fun n i => State.commitCore_csn (s.bump SCH_OLCSTAT_MIGCNT 0 n) i arb
  generalize hu : State.commitCore (s.bump SCH_OLCSTAT_MIGCNT 0 _) _ arb = u
  exact (State.specArm_csn (State.modTask_csn (State.endCycle_csn (State.modTask_csn (SameCsn.refl u))))).csn.trans (hu ▸ hcore _ _)

/-- COMMIT of an ended cycle alone in its fabric clock. -/
theorem execCommit_alone {s : State} {k : TaskNo} {r : Run} (hr : s.run? .real k.val = some r) (hs : r.st = .ended) (hl : s.isLead = true) (hu : s.undecided k.val = false)
    (arb : List (Fin 8 × Nat)) : execCommit k ⟨[], arb⟩ s = .next (if r.store = s.actStore then s.commitCycle r arb else s.commitOld r arb) := by
  have ho : s.commitOrder [k.val] = [k.val] := rfl
  have hc : s.commitTask k.val arb = if r.store = s.actStore then s.commitCycle r arb else s.commitOld r arb := by
    unfold State.commitTask
    rw [hr]
    exact if_pos (by simp [hs, hl, hu])
  show Host.Outcome.next ((s.commitOrder [k.val]).foldl (fun s t => s.commitTask t arb) s) = _
  rw [ho, List.foldl_cons, List.foldl_nil, hc]

/-- A write batch of the generation in force that is due alone takes the next CSN. -/
theorem State.commitBatch_csn {s : State} {b : Batch} (hg : b.gen = s.cfgGen) : (s.commitBatch b).sq.csn = s.commitCsn := by
  unfold State.commitBatch
  rw [if_neg (not_not.mpr hg)]
  exact State.commitCore_csn _ _ _

/-- BATCH_COMMIT_ALONE of a Lead: the batch admitted first among those due, if one is. -/
theorem execBatchCommitAlone_lead {s : State} (hl : s.isLead = true) :
    execBatchCommitAlone s = .next (match s.host.batches.find? s.dueAlone with | some b => s.commitBatch b | none => s) := by
  exact congrArg Host.Outcome.next (if_pos hl)

/-! ### Report windows -/

/-- COALESCING_WINDOW_CLOSE of an open window whose second is over: its summary is recorded, and it closes. -/
theorem execCoalescingWindowClose_due {s : State} {kind obj : Nat} {w : Win} (hw : s.wins.find? (fun w => w.isOf kind obj && w.isOpen) = some w)
    (ht : w.first + 1000000000 ≤ s.now + 62500) : execCoalescingWindowClose kind obj s =
      .next ((s.event 0x0102 0xFFFF { w with isOpen := false, summary := true }.bytes).putWin { w with isOpen := false, summary := true }) := by
  unfold execCoalescingWindowClose done
  rw [hw]
  dsimp only
  rw [if_neg (by omega)]

/-- Putting a window leaves the Arcade alone. -/
theorem State.putWin_arc (s : State) (w : Win) : (s.putWin w).arc = s.arc := by
  unfold State.putWin State.showWin
  dsimp only
  split <;> rfl

/-! ### Cuts -/

/-- CUT_INSTANT of a cut whose instant has come. -/
theorem execCutInstant_due {s : State} {op : Nat} {c : CutRt} {d : CutSetDef} (hc : s.plant.cuts.find? (fun c => c.op = op) = some c) (ht : c.taken = false)
    (hm : c.mirrored = false) (ha : c.at_ ≤ s.now + 62500) (hd : s.cutSet? c.set = some d) :
    execCutInstant op s = .next (s.modCut op (fun c =>
      { c with sigs := d.sigs, taken := true, got := ((d.sigs.filterMap s.sig?).filter cutOwn).foldl (fun t g => tabSet t g.no (s.sigNow g s.tick)) c.got })) := by
  unfold execCutInstant done
  rw [hc]
  dsimp only
  rw [if_neg (by simp [ht, hm]; omega), hd]

/-- CUTDATA of a participant of a pending cut, with a value and a status for each of its signals. -/
theorem execCutdata_due {s u : State} {link : Fin 104} {frame : List Byte} {f : Fsp} {c : CutRt} (hf : s.fspTake link 0x0A frame = (some f, u)) (hb : bitOf f.flags 1 = false)
    (hl : (f.data.drop 4).length = sigBytes (u.stationSigs f.sta false) + (u.stationSigs f.sta false).length)
    (hc : u.plant.cuts.find? (fun c => c.op = leNat (f.data.take 4) && !c.mirrored) = some c) (hp : (u.cutStations c.set).any (fun d => d.no.val = f.sta) = true) :
    execCutdata link frame s = .next (u.modCut (leNat (f.data.take 4)) (fun c => { c with got :=
      (takeVals (u.stationSigs f.sta false) (f.data.drop 4) ((f.data.drop 4).drop (sigBytes (u.stationSigs f.sta false))) []).foldl (fun m e => tabSet m e.1 e.2) c.got })) := by
  unfold execCutdata done
  rw [hf]
  dsimp only
  rw [if_neg (not_not.mpr hl), hc]
  dsimp only
  rw [hp, hb]
  rfl

/-- CUT_CLOSE of a cut that has every value. -/
theorem execCutClose_complete {s : State} {op : Nat} {c : CutRt} (hc : s.plant.cuts.find? (fun c => c.op = op) = some c) (ht : c.taken = true)
    (hg : c.sigs.all (fun n => tabHas c.got n) = true) : execCutClose op s = .next (s.finishCut c false) := by
  unfold execCutClose done
  rw [hc]
  dsimp only
  rw [if_pos (by simp [ht, hg])]

/-- A cut of the module itself closes: its record is returned, and it is pending no more. -/
theorem State.finishCut_does {s : State} {c : CutRt} {sess : SessNo} {qp : QpNo} {x : Sess} {y : Qp} (hm : c.mirrored = false) (hs : c.sess = sess.val) (hq : c.qp = qp.val)
    (hd : c.d.ok2 = true) (hx : s.sess? sess.val = some x) (hy : tabGet? x.qps qp.val = some y) :
    Answered (s.finishCut c false) sess qp y.comps (answerOf c.d 0 0 c.op 0 (s.cutRecord c)) ∧ ∀ c' ∈ (s.finishCut c false).plant.cuts, c'.op ≠ c.op := by
  have frame : ∃ r, s.finishCut c false = State.complete r sess.val qp.val c.d 0 0 c.op 0 (s.cutRecord c) ∧ r.host = s.host ∧
      r.plant.cuts = s.plant.cuts.filter (fun x => x.op ≠ c.op) := by
    unfold State.finishCut
    dsimp only
    rw [if_neg (by simp [hm]), if_pos hd, hs, hq]
    split
    · obtain ⟨q, e⟩ := State.share_frame (State.sysWrite _ _ _) (.cutEnd c.op)
      exact ⟨_, rfl, by rw [e]; exact ⟨rfl, rfl⟩⟩
    · obtain ⟨q, e⟩ := State.share_frame { s with plant := { s.plant with cuts := s.plant.cuts.filter (fun x => x.op ≠ c.op) } } (.cutEnd c.op)
      exact ⟨_, rfl, by rw [e]; exact ⟨rfl, rfl⟩⟩
  obtain ⟨r, e, hh, hcuts⟩ := frame
  have hxr : r.sess? sess.val = some x := by
    unfold State.sess? at hx ⊢
    rw [hh]
    exact hx
  obtain ⟨x', k⟩ := QpStep.complete hxr hy c.d 0 0 c.op 0 (s.cutRecord c) (.inr hd)
  rw [e]
  refine ⟨⟨_, k.qp, List.prefix_refl _⟩, fun c' hc' => ?_⟩
  rw [k.frame] at hc'
  have hc' : c' ∈ r.plant.cuts := hc'
  rw [hcuts] at hc'
  simpa using (List.mem_filter.mp hc').2

/-- Settles O44: each command is taken, refused or due under its premises, and what it then makes is one operation of the scheduler, of a commit, of a
report window or of a cut. -/
theorem taskCommands : Obligations.TaskCommands := by
  unfold Obligations.TaskCommands
  intro s h
  refine ⟨fun p task hr => ⟨fun hf he => ?_, fun c hc => ?_⟩, fun task stamp => ⟨_, rfl, rfl⟩, fun p task hr hf hsel hp => ?_, fun p hr hf => ?_, fun task => ⟨fun hl => ?_, fun r x hl hs hrun hx hri ho => ?_⟩,
    fun task arb r hrun ht hst hl hu he => ?_, fun hl => ⟨fun b hb hg => ?_, fun hn => ?_⟩, fun kind obj w hr hw ht => ?_, fun op c d hc ht hm ha hd => ?_,
    fun link frame f u c hf hb hl hc hp => ?_, fun op c sess qp x y hc ht hm hg hs hq hd hx hy => ?_⟩
  · exact ⟨⟨_, rfl, State.written_taskCmd h hr .start hf he rfl⟩, ⟨_, rfl, State.written_taskCmd h hr .stop hf he rfl⟩,
      ⟨_, rfl, State.written_taskCmd h hr .activate hf he rfl⟩, ⟨_, rfl, State.written_taskCmd h hr .cancel hf he rfl⟩⟩
  · exact ⟨⟨_, rfl, State.written_taskCmd_ignored h hr .start hc⟩, ⟨_, rfl, State.written_taskCmd_ignored h hr .stop hc⟩,
      ⟨_, rfl, State.written_taskCmd_ignored h hr .activate hc⟩, ⟨_, rfl, State.written_taskCmd_ignored h hr .cancel hc⟩⟩
  · exact ⟨⟨_, rfl, State.written_dispWrite h hr hf hsel hp rfl⟩, ⟨_, rfl, State.written_dispWrite h hr hf hsel hp rfl⟩⟩
  · have ign : ∀ b, s.aside.dispWrite p b = s.aside.ignored p 0x30034 3 := fun b => State.dispWrite_follower (by rwa [following_aside h])
    exact ⟨⟨_, rfl, State.written_ign hr h (ign true) (by decide) (by decide) (by decide)⟩, ⟨_, rfl, State.written_ign hr h (ign false) (by decide) (by decide) (by decide)⟩⟩
  · exact ⟨s, congrArg Host.Outcome.next (if_neg (by simp [hl])), rfl⟩
  · exact ⟨_, congrArg Host.Outcome.next (if_pos hl), State.abortXcp_does h (State.pend_of_dispLate hl) hs hrun hx hri ho⟩
  · rw [← ht] at he
    refine ⟨_, execCommit_alone hrun hst hl hu arb, ?_⟩
    split
    · exact State.commitCycle_csn he arb
    · exact State.commitOld_csn h he arb
  · refine ⟨s.commitBatch b, (execBatchCommitAlone_lead hl).trans ?_, State.commitBatch_csn hg⟩
    rw [hb]
  · refine ⟨s, (execBatchCommitAlone_lead hl).trans ?_, rfl⟩
    rw [hn]
  · refine ⟨_, execCoalescingWindowClose_due hw ht, ?_, ?_⟩
    · rw [State.putWin_arc, State.event_on (by rw [show s.kerb.phase = .run from hr]; decide)]
      exact ⟨_, rfl, rfl, rfl⟩
    · rw [State.putWin_wins, State.event_wins]
  · exact ⟨_, execCutInstant_due hc ht hm ha hd, rfl, rfl⟩
  · exact ⟨_, execCutdata_due hf hb hl hc hp, rfl, rfl⟩
  · exact ⟨_, execCutClose_complete hc ht hg, State.finishCut_does hm hs hq hd hx hy⟩

end Sys2Proof.Machine
end

section
/-! PROOFS. The access paths (19, R484 to R493; 10, R276; 02, R57). -/
namespace Sys2Proof.Machine

/-- Every block of a running module answers. -/
theorem State.blkReady_runs {s : State} (h : s.Runs) (b : Nat) : s.blkReady b = true := by
  unfold State.blkReady
  rw [show s.kerb.phase = .run from h]

/-! ### PathRead -/

/-- What a read of a word can change: registers, for the fields that it clears, and what the path has latched. -/
def PathRead (s t : State) : Prop := ∃ r u, t = { s with regs := r, setup := u }

/-- Nothing changed. -/
theorem PathRead.refl (s : State) : PathRead s s := ⟨_, _, rfl⟩
/-- One read after another. -/
theorem PathRead.trans {s t u : State} (h : PathRead s t) (k : PathRead t u) : PathRead s u := by
  obtain ⟨r, x, rfl⟩ := h
  obtain ⟨q, y, rfl⟩ := k
  exact ⟨q, y, rfl⟩
/-- A step repeated over a list. -/
theorem PathRead.foldl {α : Type} {f : State → α → State} (hf : ∀ s a, PathRead s (f s a)) (l : List α) (s : State) : PathRead s (l.foldl f s) := by
  induction l generalizing s with
  | nil => exact PathRead.refl s
  | cons a l ih => exact (hf s a).trans (ih (f s a))

/-- A word is read: a window and a latched register as they stand, any other with what its read clears and latches. -/
theorem State.readWord_reads (s : State) (p : Path) (off : Nat) : PathRead s (s.readWord p off).2 := by
  have latch : PathRead s ((latches off).foldl (fun s o =>
      { s with setup := { s.setup with latch := tabSet s.setup.latch (p.code * 2 ^ 24 + o) (s.wordNow p o) } }) s) :=
    PathRead.foldl (fun s o => ⟨s.regs, _, rfl⟩) _ _
  have clear : ∀ u : State, PathRead u (((fieldsAt off).filter (fun f => f.acc = .rc)).foldl (fun s f => s.setF f 0 (s.selIx p f.sel)) u) :=
    PathRead.foldl (fun s f => ⟨_, s.setup, rfl⟩) _
  unfold State.readWord
  split
  · exact PathRead.refl s
  · split
    · exact PathRead.refl s
    · split
      · exact PathRead.refl s
      · split
        · exact PathRead.refl s
        · dsimp only
          split
          · exact latch.trans (clear _)
          · exact latch

/-- So do words in ascending offset. -/
theorem State.readWords_reads (s : State) (p : Path) (off n : Nat) : PathRead s (s.readWords p off n).2 := by
  induction n generalizing s off with
  | zero => exact PathRead.refl s
  | succ n ih => exact (s.readWord_reads p off).trans (ih _ _)

/-- MGMT_READ of a range in order on an open connection. -/
theorem execMgmtRead_open {s : State} (h : s.Runs) {c : Fin 8} {tag off count : Nat} (hc : tabHas s.setup.conns c.val = true) (hb : badReq off count = false) :
    execMgmtRead c tag off count s =
      .next ((s.readWords (.mgmt c) off count).2.mgmtReply c 1 count tag off 0 ((s.readWords (.mgmt c) off count).1.flatMap (natLe 4))) := by
  unfold execMgmtRead done
  rw [if_neg (by simp [hc]), if_neg (by simp [hb]), if_neg (by simp [State.blkReady_runs h])]

/-- A command that starts a descriptor whose meaning is to complete at once in a state `u`: its completion is the next of its queue pair, and nothing but
the sessions changes after `u`. -/
theorem AtHead.gives {s : State} {sess : SessNo} {qp : QpNo} {x : Sess} {y : Qp} {d : HostDesc} {rest : List HostDesc} (h : AtHead s sess qp x y d rest) {c : Instr}
    {mine : HostDesc → Bool} {f : Sess → HostDesc → State → State} (hc : exec c s = .next (s.startDesc sess qp mine f)) (hm : mine d = true) {u : State}
    {x1 : Sess} {y1 : Qp} {status csn detail flags : Nat} {data : List Byte}
    (hf : f x d (s.took sess qp rest) = u.complete sess.val qp.val d status csn detail flags data) (hd : data = [] ∨ d.ok2 = true)
    (hu : u.sess? sess.val = some x1) (hq : tabGet? x1.qps qp.val = some y1) :
    Gives c s fun t => t = { u with host := { u.host with sess := t.host.sess } } ∧ Answered t sess qp y1.comps (answerOf d status csn detail flags data) := by
  obtain ⟨x2, r, o, l, b⟩ := h.answers hm f hd hf hu hq
  exact ⟨_, hc, b.frame, QpStep.answered b⟩

/-- SETUP_READ of a range in order, with room for it. -/
theorem AtHead.setupRead {s : State} {sess : SessNo} {qp : QpNo} {x : Sess} {y : Qp} {d : HostDesc} {rest : List HostDesc} (h : AtHead s sess qp x y d rest) {n off : Nat}
    (hf : setupForm d = .ok (n, off)) (ho : dOp d = 0x11) (hl : 4 * n ≤ dLen2 d) (hd : d.ok2 = true) :
    Gives (.setupRead sess qp) s fun t => Answered t sess qp y.comps (answerOf d 0 0 0 0 (((s.took sess qp rest).queueRead (.queue sess) n off).1.flatMap (natLe 4))) := by
  obtain ⟨x1, a⟩ := h.takes
  have hsess : ((s.took sess qp rest).queueRead (.queue sess) n off).2.sess? sess.val = some x1 := by
    obtain ⟨r, u, e⟩ := State.readWords_reads (s.took sess qp rest) (.queue sess) off (min n ((0x1000000 - off) / 4))
    rw [← a.sess]
    exact congrArg (fun t => t.sess? sess.val) e
  obtain ⟨t, e, -, c⟩ := h.gives (c := .setupRead sess qp) rfl (by simp [ho]) (by dsimp only; rw [hf]; exact if_neg (by omega)) (.inr hd) hsess a.queue
  exact ⟨t, e, c⟩

/-! ### Writes -/

/-- A write to the window of the on-line change by a running module puts the word there. -/
theorem State.writeWord_window {s : State} (hr : s.Runs) (h : s.RegsOk) (p : Path) {off : Nat} (h1 : 0x38000 ≤ off) (h2 : off < 0x40000) (v : Nat) (env : WriteEnv) :
    ∃ r, s.writeWord p off v env = { s with regs := r, olc := { s.olc with win := winPut s.olc.win (off - 0x38000) v } } := by
  have e : s.writeWord p off v env = s.written p off (fun s => { s with olc := { s.olc with win := winPut s.olc.win (off - 0x38000) v } }) := by
    unfold State.writeWord
    dsimp only
    rw [if_neg (by omega), if_pos (by simp [h1, h2])]
  have w := State.written_plain (p := p) (off := off) (f := fun s => { s with olc := { s.olc with win := winPut s.olc.win (off - 0x38000) v } }) hr h rfl rfl
    (by rw [show s.aside.kerb.phase = .run from hr]; decide)
  exact ⟨_, e.trans w.1⟩

/-- One word written by a running module that still runs. -/
theorem State.writeWords_one {s t : State} {p : Path} {off v : Nat} {env : WriteEnv} (h : s.writeWord p off v env = t) : s.writeWords p off env [v] = t := by
  unfold State.writeWords
  rw [h]
  dsimp only
  split <;> rfl

/-- MGMT_WRITE of one word of that window with the SETUP right. -/
theorem execMgmtWrite_window {s : State} (hr : s.Runs) (h : s.RegsOk) {c : Fin 8} {tag off r : Nat} {v : W32} {env : WriteEnv}
    (hc : tabGet? s.setup.conns c.val = some r) (h0 : r ≠ 0) (h1 : 0x38000 ≤ off) (h2 : off < 0x40000) (h4 : off % 4 = 0) :
    ∃ q, execMgmtWrite c tag off [v] env s =
      .next (State.mgmtReply { s with regs := q, olc := { s.olc with win := winPut s.olc.win (off - 0x38000) v.toNat } } c 2 1 tag off 0 []) := by
  obtain ⟨q, e⟩ := State.writeWord_window hr h (.mgmt c) h1 h2 v.toNat env
  refine ⟨q, ?_⟩
  unfold execMgmtWrite done
  rw [hc]
  dsimp only [List.map, List.length]
  rw [if_neg (by simp [badReq, h4]; omega), if_neg h0, State.writeWords_one e, if_neg (by simp [show s.kerb.phase = .run from hr])]

/-- SETUP_WRITE of one word of that window. -/
theorem AtHead.setupWrite {s : State} {sess : SessNo} {qp : QpNo} {x : Sess} {y : Qp} {d : HostDesc} {rest : List HostDesc} (h : AtHead s sess qp x y d rest) (hs : s.RegsOk)
    {off : Nat} (hf : setupForm d = .ok (1, off)) (ho : dOp d = 0x12) (hl : 4 ≤ dLen1 d) (h1 : 0x38000 ≤ off) (h2 : off < 0x40000) (env : WriteEnv) :
    Gives (.setupWrite sess qp env) s fun t =>
      t.olc = { s.olc with win := winPut s.olc.win (off - 0x38000) (leNat (d.data.take 4)) } ∧ Answered t sess qp y.comps (answerOf d 0 0 0 0 []) := by
  obtain ⟨x1, a⟩ := h.takes
  have htr : (s.took sess qp rest).Runs := (congrArg (fun t => t.kerb.phase) a.frame).trans h.runs
  have hto : (s.took sess qp rest).RegsOk := by
    unfold State.RegsOk
    rw [congrArg State.regs a.frame]
    exact hs
  obtain ⟨q, e⟩ := State.writeWord_window htr hto (.queue sess) h1 h2 (leNat (d.data.take 4)) env
  have ew : (s.took sess qp rest).writeWords (.queue sess) off env ((List.range 1).map (fun i => leNat ((d.data.drop (4 * i)).take 4))) = _ := State.writeWords_one e
  obtain ⟨t, e, b, c⟩ := h.gives (c := .setupWrite sess qp env) rfl (by simp [ho]) (by dsimp only; rw [hf]; dsimp only; rw [if_neg (by omega), ew]) (.inl rfl)
    (show State.sess? { s.took sess qp rest with regs := q, olc := _ } sess.val = some x1 from a.sess) a.queue
  refine ⟨t, e, (congrArg State.olc b).trans ?_, c⟩
  show ({ (s.took sess qp rest).olc with win := winPut (s.took sess qp rest).olc.win _ _ } : OlcRt) = _
  rw [congrArg State.olc a.frame]

/-! ### Connections of a management port -/

/-- MGMT_CONNECT with a certificate that gives a right: the path opens with it, and the handshake is answered. -/
theorem execMgmtConnect_accepted {s : State} {c : Fin 8} {cert r : Nat} (hu : s.mgmtUp = true) (hc : tabHas s.setup.conns c.val = false) (hr : s.certRight cert = some r) :
    Gives (.mgmtConnect c cert) s fun t => tabGet? t.setup.conns c.val = some r ∧ t.out = s.out ++ [⟨.mgmt, 0, [c.val, 1], []⟩] := by
  refine ⟨_, congrArg Host.Outcome.next (if_neg (by simp [hu, hc])), ?_⟩
  rw [hr]
  exact ⟨tabGet?_tabSet_self _ _ _, rfl⟩

/-- With one that gives none, the handshake is refused. -/
theorem execMgmtConnect_refused {s : State} {c : Fin 8} {cert : Nat} (hu : s.mgmtUp = true) (hc : tabHas s.setup.conns c.val = false) (hr : s.certRight cert = none) :
    Gives (.mgmtConnect c cert) s fun t => t = { s with out := s.out ++ [⟨.mgmt, 0, [c.val, 0], []⟩] } := by
  refine ⟨_, congrArg Host.Outcome.next (if_neg (by simp [hu, hc])), ?_⟩
  rw [hr]
  rfl

/-- MGMT_CONNECTION_CLOSE of an open connection discards it. -/
theorem execMgmtConnectionClose_open {s : State} {c : Fin 8} (hl : tabRising s.setup.conns = true) (hc : tabHas s.setup.conns c.val = true) :
    Gives (.mgmtConnectionClose c) s fun t => tabGet? t.setup.conns c.val = none ∧ t = { s with regs := t.regs, arc := t.arc, setup := t.setup } :=
  ⟨_, congrArg Host.Outcome.next (if_neg (by simp [hc])), tabGet?_tabDel_self _ _ hl, rfl⟩

/-- MGMT_ATTEST of a nonce in order on an open connection: the evidence. -/
theorem execMgmtAttest_open {s : State} {c : Fin 8} {tag : Nat} {nonce : List Byte} (hc : tabHas s.setup.conns c.val = true) (hn : nonce.length = 32)
    (hk : s.kerb.phase ≠ .off) : execMgmtAttest c tag nonce s = .next (s.mgmtReply c 3 0 tag 0 0 (s.evidence nonce)) := by
  unfold execMgmtAttest done
  rw [if_neg (by simp [hc]), if_neg (not_not.mpr hn), if_neg hk]

/-! ### Registers of an access path -/

/-- A word written by a running module to a register with a writable field, where the one selected exists, is tried by the register's own rules. -/
theorem State.writeWord_attempts {s : State} (hr : s.Runs) {p : Path} {off v : Nat} {env : WriteEnv} (ho : off < 0x140000)
    (hw : (0x38000 ≤ off && off < 0x40000) = false ∧ (0x128000 ≤ off && off < 0x130000) = false) (hf : (fieldsAt off).all (fun f => f.acc = .ro || f.acc = .rc) = false)
    (hi : s.instOk p off = true) : s.writeWord p off v env = s.attempts p off (s.attsOf p off v env) := by
  have hro : (fieldsAt off).all (fun f => f.acc = .ro) = false := by
    rw [List.all_eq_false] at hf ⊢
    obtain ⟨f, hm, hn⟩ := hf
    exact ⟨f, hm, fun h => hn (by simp [h])⟩
  unfold State.writeWord
  dsimp only
  rw [if_neg (by omega), if_neg (by simp [hw.1]), if_neg (by simp [hw.2]), if_neg (by simp [State.blkReady_runs hr]), if_neg (by simp [hro]), if_neg (by simp [hf]),
    if_neg (by simp [hi])]

/-- The low word of a cursor is one field of the path, written at once and as it stands. -/
theorem State.putFields_curlo (s : State) (p : Path) (v : Nat) : (s.putFields p 0x110030 v).clearBits p 0x110030 v =
    s.setF ARC_CURLO_S (storedAs ARC_CURLO_S (bits v 0 32)) p.code := by
  have hf : fieldsAt 0x110030 = [ARC_CURLO_S] := by decide
  unfold State.putFields State.clearBits
  rw [hf]
  rfl

/-- REGISTER_WRITE of the low word of a cursor. -/
theorem State.writeWord_curlo {s : State} (hr : s.Runs) (h : s.RegsOk) (p : Path) (v : W32) (env : WriteEnv) {t : State} (ht : t = s.writeWord p 0x110030 v.toNat env) :
    t.getF ARC_CURLO_S p.code = v.toNat ∧ t = { s with regs := t.regs } ∧ OnlyRegsW 17 s t [(ARC_CURLO_S, p.code)] := by
  have hp := Path.code_lt p
  rw [State.writeWord_attempts hr (by decide) ⟨rfl, rfl⟩ (by decide) rfl] at ht
  have e : s.attempts p 0x110030 (s.attsOf p 0x110030 v.toNat env) = s.written p 0x110030 (fun s => (s.putFields p 0x110030 v.toNat).clearBits p 0x110030 v.toNat) := rfl
  obtain ⟨w, c, k⟩ := State.written_does (p := p) (off := 0x110030) (f := fun s => (s.putFields p 0x110030 v.toNat).clearBits p 0x110030 v.toNat) hr h
    (State.putFields_curlo _ _ _) ((Chg.refl (Chg.aside h).ok).setF ARC_CURLO_S (storedAs ARC_CURLO_S (bits v.toNat 0 32)) p.code) (by rw [show (s.aside.setF ARC_CURLO_S (storedAs ARC_CURLO_S (bits v.toNat 0 32)) p.code).kerb.phase = .run from hr]; decide)
  rw [← e, ← ht] at w c k
  refine ⟨?_, w, c⟩
  rw [k _ _ (book_ne hp (by decide)), getF_setF_self _ _ _ _ (Chg.aside h).ok]
  have hs : storedAs ARC_CURLO_S (bits v.toNat 0 32) = bits v.toNat 0 32 % 2 ^ 32 := rfl
  rw [hs]
  have hv := v.isLt
  simp only [bits, ARC_CURLO_S]
  omega

/-- REGISTER_WRITE to a register of read-only fields is ignored and counted. -/
theorem State.writeWord_readOnly {s : State} (hr : s.Runs) (h : s.RegsOk) (p : Path) (v : Nat) (env : WriteEnv) :
    RegsOnlyW 18 s (s.writeWord p 0x120000 v env) [(KRB_IGNSTAT_CAUSE, 0), (KRB_IGNADDR_OFFSET, 0), (KRB_IGNPATH_PATH, 0)] ∧
    (s.writeWord p 0x120000 v env).getF KRB_IGNSTAT_CAUSE = 6 := by
  have e : s.writeWord p 0x120000 v env = s.ignored p 0x120000 6 := by
    unfold State.writeWord
    dsimp only
    rw [if_neg (by decide), if_neg (by decide), if_neg (by decide), if_neg (by simp [State.blkReady_runs hr]), if_pos (by decide)]
  obtain ⟨⟨r, er⟩, c, k, -⟩ := State.ignored_does h p (off := 0x120000) (by decide) 6
  rw [e]
  refine ⟨⟨by rw [er], (c.mono ?_).only⟩, k⟩
  intro x hx
  simp only [List.mem_append, List.mem_cons, List.not_mem_nil, or_false] at hx ⊢
  tauto

/-- SCH_TASK_REGISTER_WRITE of POLICY, without a disposition, on a module that neither follows nor sends packets: it waits for the task's next release. -/
theorem State.writeWord_policy {s : State} (hr : s.Runs) (h : s.RegsOk) (p : Path) (v : Nat) (env : WriteEnv) (hf : s.following = false) (hn : s.hasFollower = false)
    (hs : s.isSafety (s.getF SCH_TASKSEL_TASK p.code) = false) (hv : bits v 14 2 = 0) {t : State} (ht : t = s.writeWord p 0x30034 v env) :
    t.asWritten SCH_TASKXCP_POLICY (s.getF SCH_TASKSEL_TASK p.code) = bits v 13 1 ∧ t = { s with regs := t.regs, due := t.due } ∧ OnlyRegsW 3 s t [] := by
  have hatt : s.attsOf p 0x30034 v env = also (s.taskGate p 0x30034 (fun t => [fun s => s.putRelease SCH_TASKXCP_POLICY (bits v 13 1) t]))
      (attDisp p (s.selIx p .task) (bits v 14 2)) := rfl
  have hgate : s.attsOf p 0x30034 v env = [fun s' => s'.putRelease SCH_TASKXCP_POLICY (bits v 13 1) (s.selIx p .task)] := by
    rw [hatt, hv]
    unfold State.taskGate
    dsimp only
    rw [if_neg (by rw [show s.selIx p .task = s.getF SCH_TASKSEL_TASK p.code from rfl, hs]; simp), hf]
    rfl
  have hfol : s.aside.hasFollower = false := by
    rw [← hn]
    unfold State.hasFollower State.isLead
    rw [pairState_aside h, getF_aside h PAR_STAT_ROLE (by decide)]
    rfl
  have hput : s.aside.putRelease SCH_TASKXCP_POLICY (bits v 13 1) (s.selIx p .task) =
      s.aside.setLater (.taskRelease (s.selIx p .task)) SCH_TASKXCP_POLICY (bits v 13 1) (s.selIx p .task) := by
    unfold State.putRelease State.setShared
    dsimp only
    rw [hfol]
    rfl
  rw [State.writeWord_attempts hr (by decide) ⟨rfl, rfl⟩ (by decide) rfl, hgate] at ht
  obtain ⟨w, c⟩ := State.written_plain (p := p) (off := 0x30034) (f := fun s' => s'.putRelease SCH_TASKXCP_POLICY (bits v 13 1) (s.selIx p .task)) hr h hput rfl
    (by rw [show (s.aside.setLater _ _ _ _).kerb.phase = .run from hr]; decide)
  have ht' : t = s.written p 0x30034 (fun s' => s'.putRelease SCH_TASKXCP_POLICY (bits v 13 1) (s.selIx p .task)) := ht
  rw [← ht'] at w c
  have ed := congrArg State.due w
  refine ⟨asWritten_of_due ?_, ?_, c⟩
  · rw [ed]
    exact (dueVal_setLater_self _ _ _ _ _).trans (congrArg some (Nat.mod_eq_of_lt (Nat.mod_lt _ (by decide))))
  · rw [ed]
    exact w

/-- Settles O43: each path's command is a reply, a read of words, or a write of one word, which its register's own rules then decide. -/
theorem setupAccess : Obligations.SetupAccess := by
  unfold Obligations.SetupAccess
  intro s h reply
  refine ⟨fun c cert r hu hc hr => execMgmtConnect_accepted hu hc hr, fun c cert hu hc hr => execMgmtConnect_refused hu hc hr,
    fun c hl hc => execMgmtConnectionClose_open hl hc, fun c tag off count hc hb hr => ?_, fun c tag off v env r hc h0 h1 h2 h4 hr => ?_,
    fun c tag nonce hc hn hk => ⟨_, execMgmtAttest_open hc hn hk, rfl⟩, fun sess qp x y d rest n off ha hf => ⟨fun ho hl hd => ha.setupRead hf ho hl hd, fun env ho hn hl h1 h2 => ?_⟩,
    fun p v env hr => ⟨_, rfl, State.writeWord_curlo hr h p v env rfl⟩, fun p v env hr => ⟨_, rfl, State.writeWord_readOnly hr h p v.toNat env⟩,
    fun p v hr hf hn hs hv => ⟨_, rfl, State.writeWord_policy hr h p v.toNat _ hf hn hs hv rfl⟩⟩
  · obtain ⟨r, u, e⟩ := State.readWords_reads s (.mgmt c) off count
    refine ⟨_, execMgmtRead_open hr hc hb, ?_⟩
    rw [e]
    rfl
  · obtain ⟨q, e⟩ := execMgmtWrite_window (tag := tag) (v := v) (env := env) hr h hc h0 h1 h2 h4
    exact ⟨_, e, rfl, rfl⟩
  · subst hn
    exact ha.setupWrite h hf ho hl h1 h2 env

end Sys2Proof.Machine
end

section
/-! PROOFS. Requests that change something (09, R230 to R247; 10, R258 to R276). -/
namespace Sys2Proof.Machine

/-! ### What stands after a descriptor -/

section
variable {s : State} {sess : SessNo} {qp : QpNo} {x : Sess} {y : Qp} {d : HostDesc} {rest : List HostDesc} (h : AtHead s sess qp x y d rest)
include h

/-- A command that starts a descriptor whose meaning leads to a state `u`: nothing but the sessions changes after `u`, and of the queue pair only
completions are added. -/
theorem AtHead.leads {c : Instr} {mine : HostDesc → Bool} {f : Sess → HostDesc → State → State} (hc : exec c s = .next (s.startDesc sess qp mine f)) (hm : mine d = true)
    {u : State} {x1 : Sess} {y1 : Qp} (hf : f x d (s.took sess qp rest) = u) (hu : u.sess? sess.val = some x1) (hq : tabGet? x1.qps qp.val = some y1) :
    Gives c s fun t => ∃ x' r o l, QpStep u t sess.val qp.val x1 x' { y1 with ready := r, open_ := o, comps := y1.comps ++ l } :=
  ⟨_, hc, h.after hm f hf hu hq⟩

/-- Taking a descriptor changes the sessions only. -/
theorem AtHead.took_frame : ∃ l, s.took sess qp rest = { s with host := { s.host with sess := l } } := by
  obtain ⟨x', a⟩ := h.takes
  exact ⟨_, a.frame⟩

end

/-- What follows a step of a queue pair leaves the groups as they are. -/
theorem QpStep.lock {s t : State} {n q : Nat} {x x' : Sess} {y' : Qp} (h : QpStep s t n q x x' y') (g : Nat) : t.lock g = s.lock g :=
  congrArg (fun t => t.lock g) h.frame

/-- So does it the batches. -/
theorem QpStep.batches {s t : State} {n q : Nat} {x x' : Sess} {y' : Qp} (h : QpStep s t n q x x' y') : t.host.batches = s.host.batches :=
  congrArg (fun t => t.host.batches) h.frame

/-- The Square's bytes are told by its memory and its program stores. -/
theorem SameBytes.of_eq {s t : State} (hm : t.sq.mem = s.sq.mem) (hc : t.sq.code = s.sq.code) : SameBytes s t :=
  ⟨fun a => by rw [hm], fun a => by rw [hc]⟩

/-! ### Requests admitted as batches -/

/-- No batch and no identity still held is one of the client's request. -/
def State.newRequest (s : State) (cid reqid : Nat) : Prop :=
  (∀ b ∈ s.host.batches, ¬(b.cid = cid ∧ b.reqid = reqid)) ∧ ∀ i ∈ s.host.idents, ¬(i.cid = cid ∧ i.reqid = reqid ∧ s.now ≤ i.at_ + 120000000000)

/-- A new request goes on. -/
theorem State.dedup_new {s : State} {x : Sess} {n q : Nat} {d : HostDesc} (h : s.newRequest x.cid (dReqid d)) (go : State → State) : s.dedup x n q d go = go s := by
  obtain ⟨hb, hi⟩ := h
  have nb : s.host.batches.any (fun b => b.cid = x.cid && b.reqid = dReqid d) = false := by
    simpa using hb
  have ni : s.host.idents.find? (fun i => i.cid = x.cid && i.reqid = dReqid d && decide (s.now ≤ i.at_ + 120000000000)) = none := by
    rw [List.find?_eq_none]
    intro i hm hc
    exact hi i hm (by simpa [and_assoc] using hc)
  unfold State.dedup
  dsimp only
  rw [nb, ni]
  rfl

/-- A batch of a client's request stands behind those of `s`. -/
def Admitted (s : State) (n cid reqid task : Nat) (w : List (Nat × List Byte)) (f : List (Nat × Option (Nat × Nat))) (t : State) : Prop :=
  ∃ b, t.host.batches = s.host.batches ++ [b] ∧ b.sess = n ∧ b.cid = cid ∧ b.reqid = reqid ∧ b.task = task ∧ b.writes = w ∧ b.forces = f ∧ b.csn = none ∧ b.at_ = s.now

/-- Admitting one. -/
theorem State.admitBatch_admits {s u : State} (hb : u.host.batches = s.host.batches) (hn : u.now = s.now) (x : Sess) (n q : Nat) (d : HostDesc) (task : Nat)
    (w : List (Nat × List Byte)) (f : List (Nat × Option (Nat × Nat))) : Admitted s n x.cid (dReqid d) task w f (u.admitBatch x n q d task w f) :=
  ⟨_, congrArg (fun l => l ++ [_]) hb, rfl, rfl, rfl, rfl, rfl, rfl, rfl, hn⟩

/-- Where the batches are the same, so is what is admitted. -/
theorem Admitted.congr {s t u : State} {n cid reqid task : Nat} {w : List (Nat × List Byte)} {f : List (Nat × Option (Nat × Nat))} (h : Admitted s n cid reqid task w f t)
    (hb : u.host.batches = t.host.batches) : Admitted s n cid reqid task w f u := by
  obtain ⟨b, e, hrest⟩ := h
  exact ⟨b, hb.trans e, hrest⟩

/-- Pieces of 16 bytes: as many as asked for. -/
theorem chop16_length (k : Nat) (l : List Byte) : (chop16 k l).length = k := by
  induction k generalizing l with
  | zero => rfl
  | succ k ih => exact congrArg (· + 1) (ih _)

section
variable {s : State} {sess : SessNo} {qp : QpNo} {x : Sess} {y : Qp} {d : HostDesc} {rest : List HostDesc} (h : AtHead s sess qp x y d rest)
include h

/-- WRITE_NEXT of a new request whose entries pass, by a session that holds no lock. -/
theorem AtHead.writeNext {ws : List (Nat × List Byte)} {u : State} (ho : dOp d = 2) (h16 : dLen1 d % 16 = 0) (h0 : dLen1 d ≠ 0) (hl : dLen1 d ≤ 65536)
    (hd : d.data.length = dLen1 d) (hn : s.newRequest x.cid (dReqid d)) (hg : dArg d = s.cfgGen)
    (hw : (s.took sess qp rest).writeEntries sess.val 0 (chop16 (d.data.length / 16) d.data) = (.ok ws, u)) (hk : ∀ g, (s.lock g).holder ≠ some sess.val) :
    Gives (.writeNext sess qp) s fun t => Admitted s sess.val x.cid (dReqid d) (dOpt d % 256) ws [] t ∧ SameBytes s t := by
  obtain ⟨x1, a⟩ := h.takes
  obtain ⟨l, e⟩ := h.took_frame
  have same : SameS (s.took sess qp rest) u := by
    have w := State.writeEntries_same sess.val (chop16 (d.data.length / 16) d.data) (s.took sess qp rest) 0
    rwa [hw] at w
  have hhost : u.host = { s.host with sess := l } := same.host.trans (congrArg State.host e)
  have hnew : (s.took sess qp rest).newRequest x.cid (dReqid d) := by rw [e]; exact hn
  have hlock : ∀ g, (u.lock g).holder ≠ some sess.val := fun g => by
    have eg : u.lock g = s.lock g := by unfold State.lock; rw [hhost]
    rw [eg]; exact hk g
  have hheld : ∀ b : List Byte, ((u.groupsOf (leNat (b.take 4))).any (fun g => (u.lock g).holder = some sess.val)) = false := by
    intro b
    simp [hlock]
  have hne : chop16 (d.data.length / 16) d.data ≠ [] := by
    rw [← List.length_pos_iff, chop16_length]
    omega
  obtain ⟨t, et, x2, r, o, l2, k⟩ := h.leads (c := .writeNext sess qp) rfl (by simp [ho]) (u := u.admitBatch x sess.val qp.val d (dOpt d % 256) ws [])
    (by
      dsimp only
      rw [if_neg (by simp [h16, h0]; omega), State.dedup_new hnew, if_neg (by rw [e]; exact not_not.mpr hg), hw]
      dsimp only
      rw [if_neg (by simpa [List.all_eq_true, hheld] using List.exists_mem_of_ne_nil _ hne), if_neg (by simp [hheld])])
    (show u.sess? sess.val = some x1 by unfold State.sess?; rw [same.host]; exact a.sess) a.queue
  refine ⟨t, et, (State.admitBatch_admits (by rw [hhost]) (same.now.trans (by rw [e])) x _ _ d _ _ _).congr k.batches, SameBytes.of_eq ?_ ?_⟩
  · exact (congrArg (fun t => t.sq.mem) k.frame).trans (same.mem.trans (by rw [e]))
  · exact (congrArg (fun t => t.sq.code) k.frame).trans (same.code.trans (by rw [e]))

/-- HOST_FORCE of a new request whose entries pass. -/
theorem AtHead.hostForce {fs : List (Nat × Option (Nat × Nat))} {u : State} (ho : dOp d = 10) (h16 : dLen1 d % 16 = 0) (h0 : dLen1 d ≠ 0) (hl : dLen1 d ≤ 4096)
    (hn : s.newRequest x.cid (dReqid d)) (hw : (s.took sess qp rest).forceEntries 0 (chop16 (d.data.length / 16) d.data) = (.ok fs, u)) (hm : s.forcesAfter fs ≤ 4096) :
    Gives (.hostForce sess qp) s fun t => Admitted s sess.val x.cid (dReqid d) 0 [] fs t ∧ SameBytes s t := by
  obtain ⟨x1, a⟩ := h.takes
  obtain ⟨l, e⟩ := h.took_frame
  have same : SameS (s.took sess qp rest) u := by
    have w := State.forceEntries_same (chop16 (d.data.length / 16) d.data) (s.took sess qp rest) 0
    rwa [hw] at w
  have hhost : u.host = { s.host with sess := l } := same.host.trans (congrArg State.host e)
  have hnew : (s.took sess qp rest).newRequest x.cid (dReqid d) := by rw [e]; exact hn
  have hafter : u.forcesAfter fs = s.forcesAfter fs := by
    have hf : u.sched.forces = s.sched.forces := (congrArg Sched.forces same.sched).trans (by rw [e]; rfl)
    unfold State.forcesAfter
    rw [hhost, hf]
  obtain ⟨t, et, x2, r, o, l2, k⟩ := h.leads (c := .hostForce sess qp) rfl (by simp [ho]) (u := u.admitBatch x sess.val qp.val d 0 [] fs)
    (by
      dsimp only
      rw [if_neg (by simp [h16, h0]; omega), State.dedup_new hnew, hw]
      dsimp only
      rw [if_neg (by omega)])
    (show u.sess? sess.val = some x1 by unfold State.sess?; rw [same.host]; exact a.sess) a.queue
  refine ⟨t, et, (State.admitBatch_admits (by rw [hhost]) (same.now.trans (by rw [e])) x _ _ d _ _ _).congr k.batches, SameBytes.of_eq ?_ ?_⟩
  · exact (congrArg (fun t => t.sq.mem) k.frame).trans (same.mem.trans (by rw [e]))
  · exact (congrArg (fun t => t.sq.code) k.frame).trans (same.code.trans (by rw [e]))

/-! ### UNLOCK -/

omit h in
/-- A session that holds every group of a list frees each of them. -/
theorem State.releaseOf_holds {s : State} {n : Nat} {l : List Nat} (hh : s.holdsAll n l = true) :
    ∀ g ∈ l, ((s.releaseOf n l).lock g).holder = none ∧ ((s.releaseOf n l).lock g).staged = [] := by
  intro g hg
  have hold : (s.lock g).holder = some n := by simpa using List.all_eq_true.mp hh g hg
  rw [(State.releaseOf_does n l s).2 g, if_pos ⟨hg, hold⟩]
  exact ⟨rfl, rfl⟩

/-- UNLOCK with COMMIT of a new request, under held locks. -/
theorem AtHead.unlockCommit (ho : dOp d = 9) (hb : bitOf (dOpt d) 8 = true) (hg : s.groupsBad d = none) (hn : s.newRequest x.cid (dReqid d))
    (hh : s.holdsAll sess.val (dGroups d) = true) (hgen : dArg d = s.cfgGen) :
    Gives (.unlockCommit sess qp) s fun t => Admitted s sess.val x.cid (dReqid d) (dOpt d % 256) ((dGroups d).flatMap (fun g => (s.lock g).staged)) [] t ∧
      ∀ g ∈ dGroups d, (t.lock g).holder = none := by
  obtain ⟨x1, a⟩ := h.takes
  obtain ⟨l, e⟩ := h.took_frame
  have hnew : (s.took sess qp rest).newRequest x.cid (dReqid d) := by rw [e]; exact hn
  have hbad : (s.took sess qp rest).groupsBad d = none := by rw [e]; exact hg
  have hhold : (s.took sess qp rest).holdsAll sess.val (dGroups d) = true := by rw [e]; exact hh
  have hstage : (fun g => ((s.took sess qp rest).lock g).staged) = fun g => (s.lock g).staged := by rw [e]; rfl
  obtain ⟨⟨q, k, er⟩, -⟩ := State.releaseOf_does sess.val (dGroups d)
    ((s.took sess qp rest).admitBatch x sess.val qp.val d (dOpt d % 256) ((dGroups d).flatMap (fun g => ((s.took sess qp rest).lock g).staged)) [])
  obtain ⟨t, et, x2, r, o, l2, st⟩ := h.leads (c := .unlockCommit sess qp) rfl (by simp [ho, hb])
    (by
      dsimp only
      rw [hbad]
      dsimp only
      rw [State.dedup_new hnew, if_neg (by simp [hhold]), if_neg (by rw [e]; exact not_not.mpr hgen)])
    ((congrArg (fun t => t.sess? sess.val) er).trans a.sess) a.queue
  refine ⟨t, et, ?_, fun g hg => ?_⟩
  · rw [← hstage]
    exact (State.admitBatch_admits (by rw [e]) (by rw [e]) x _ _ d _ _ _).congr (st.batches.trans (congrArg (fun t => t.host.batches) er))
  · rw [st.lock]
    exact (State.releaseOf_holds (s := State.admitBatch ..) hhold g hg).1

/-- UNLOCK with DISCARD of held locks. -/
theorem AtHead.unlockDiscard (ho : dOp d = 9) (hb : bitOf (dOpt d) 8 = false) (hg : s.groupsBad d = none) (hh : s.holdsAll sess.val (dGroups d) = true) :
    Gives (.unlockDiscard sess qp) s fun t => Answered t sess qp y.comps (answerOf d 0 0 0 0 []) ∧ t.host.batches = s.host.batches ∧
      ∀ g ∈ dGroups d, (t.lock g).holder = none ∧ (t.lock g).staged = [] := by
  obtain ⟨x1, a⟩ := h.takes
  obtain ⟨l, e⟩ := h.took_frame
  have hbad : (s.took sess qp rest).groupsBad d = none := by rw [e]; exact hg
  have hhold : (s.took sess qp rest).holdsAll sess.val (dGroups d) = true := by rw [e]; exact hh
  obtain ⟨⟨q, k, er⟩, -⟩ := State.releaseOf_does sess.val (dGroups d) (s.took sess qp rest)
  obtain ⟨t, et, fr, ans⟩ := h.gives (c := .unlockDiscard sess qp) (status := 0) rfl (by simp [ho, hb])
    (by
      dsimp only
      rw [hbad]
      dsimp only
      rw [if_pos hhold]) (.inl rfl) ((congrArg (fun t => t.sess? sess.val) er).trans a.sess) a.queue
  refine ⟨t, et, ans, ?_, fun g hg => ?_⟩
  · exact (congrArg (fun t => t.host.batches) fr).trans ((congrArg (fun t => t.host.batches) er).trans (by rw [e]))
  · rw [show t.lock g = ((s.took sess qp rest).releaseOf sess.val (dGroups d)).lock g from congrArg (fun t => t.lock g) fr]
    exact State.releaseOf_holds hhold g hg

/-! ### SUBSCRIBE and CANCEL -/

/-- The subscription that a descriptor asks for. -/
def subOf (q : Nat) (d : HostDesc) : Sub :=
  { qp := q, reqid := dReqid d, task := dOpt d % 256, tags := chop 4 (dLen1 d / 4) d.data, k := max 1 (dArg d % 65536), onChange := bitOf (dArg d) 16,
    durable := dDurable d, slots := dLen2 d / slotBytes (dLen1 d / 4), count := 0, last := [], next := 0, skipped := 0, slotComp := [], pend := [],
    addr := dAddr2 d, key := dKey2 d }

/-- The completion of a subscription that is cancelled. -/
def cancelled (reqid : Nat) : Compl :=
  { status := 0x0204, flags := 0, opcode := 3, reqid := reqid, csn := 0, len := 0, detail := 0, data := [], sub := none }

/-- HOST_SUBSCRIBE of tags and a buffer in order, with room for the subscription. -/
theorem AtHead.hostSubscribe (ho : dOp d = 3) (h4 : dLen1 d % 4 = 0) (h0 : dLen1 d ≠ 0) (hk : dLen1 d / 4 ≤ 4096) (hl : 2 * slotBytes (dLen1 d / 4) ≤ dLen2 d)
    (hd : d.ok2 = true) (hc : ((s.took sess qp rest).host.sess.map (fun x => x.2.subs.length)).foldl (· + ·) 0 < 65536) :
    Gives (.hostSubscribe sess qp) s fun t => ∃ u p, t.sess? sess.val = some { x with qps := p, subs := x.subs ++ [u] } ∧
      u.qp = qp.val ∧ u.reqid = dReqid d ∧ u.tags = chop 4 (dLen1 d / 4) d.data ∧ u.slots = dLen2 d / slotBytes (dLen1 d / 4) ∧ u.count = 0 := by
  obtain ⟨x1, a⟩ := h.takes
  obtain ⟨t, et, x2, r, o, l2, st⟩ := h.leads (c := .hostSubscribe sess qp) rfl (by simp [ho])
    (u := (s.took sess qp rest).modSess sess.val (fun x => { x with subs := x.subs ++ [subOf qp.val d] }))
    (by
      dsimp only
      rw [if_neg (by simp [h4, h0]; omega), if_neg (by omega), if_neg (by simp [hd]), if_neg (by omega)]
      rfl)
    (State.modSess_sess a.sess _).2 a.queue
  refine ⟨t, et, subOf qp.val d, x2.qps, ?_, rfl, rfl, rfl, rfl, rfl⟩
  rw [st.sess, st.same, a.same]

/-- HOST_CANCEL of a subscription of another queue pair, for which no descriptor waits under the same number. -/
theorem AtHead.hostCancel {z : Qp} (ho : dOp d = 4) (hq : dOpt d % 4096 ≠ qp.val) (hz : tabGet? x.qps (dOpt d % 4096) = some z)
    (hw : ∀ w ∈ z.waits, dReqid w.d ≠ dArg d % 2 ^ 32) (hs : (x.subs.any (fun u => u.qp = dOpt d % 4096 && u.reqid = dArg d % 2 ^ 32)) = true) :
    Gives (.hostCancel sess qp) s fun t => Answered t sess qp y.comps (answerOf d 0 0 0 0 []) ∧
      ∃ p z', t.sess? sess.val = some { x with qps := p, subs := x.subs.filter (fun u => !(u.qp = dOpt d % 4096 && u.reqid = dArg d % 2 ^ 32)) } ∧
        tabGet? p (dOpt d % 4096) = some z' ∧ ∃ c, z'.comps = z.comps ++ [c] ∧ c.status = 0x0204 ∧ c.reqid = dArg d % 2 ^ 32 := by
  obtain ⟨x1, a⟩ := h.takes
  have hwait : ((tabGet? x.qps (dOpt d % 4096)).map Qp.waits).bind (fun l => l.find? (fun w => dReqid w.d = dArg d % 2 ^ 32)) = none := by
    rw [hz]
    exact List.find?_eq_none.mpr (fun w hm => by simpa using hw w hm)
  obtain ⟨-, hcut⟩ := State.modSess_sess a.sess (fun x => { x with subs := x.subs.filter (fun u => !(u.qp = dOpt d % 4096 && u.reqid = dArg d % 2 ^ 32)) })
  generalize hv : (s.took sess qp rest).modSess sess.val (fun x => { x with subs := x.subs.filter (fun u => !(u.qp = dOpt d % 4096 && u.reqid = dArg d % 2 ^ 32)) }) = v at hcut
  have hz1 : tabGet? x1.qps (dOpt d % 4096) = some z := (a.others _ hq).trans hz
  obtain ⟨x2, b1⟩ := QpStep.modQp hcut hz1 (fun x => { x with comps := x.comps ++ [cancelled (dArg d % 2 ^ 32)] })
  obtain ⟨x3, b2⟩ := QpStep.modQp b1.sess b1.queue (fun y => { y with open_ := y.open_ - 1 })
  have b := b1.trans b2
  have hqp : tabGet? x3.qps qp.val = some { y with ready := rest } := (b.others _ hq.symm).trans a.queue
  obtain ⟨x4, e1⟩ := QpStep.complete b.sess hqp d 0 0 0 0 [] (.inl rfl)
  obtain ⟨t, et, x5, r, o, l2, e2⟩ := h.leads (c := .hostCancel sess qp) rfl (by simp [ho])
    (by
      dsimp only
      rw [hwait]
      dsimp only
      rw [if_pos hs, hv]
      rfl) e1.sess e1.queue
  have k := e1.trans e2
  refine ⟨t, et, QpStep.answered e2, x5.qps, _, ?_, (k.others _ hq).trans b.queue, cancelled _, rfl, rfl, rfl⟩
  rw [k.sess, k.same, b.same, a.same]

end

/-! ### CUT -/

/-- The command of a cut sent to one participant. -/
def State.sendCut (op tc : Nat) (s : State) (x : StationDef) : State :=
  s.fspSend .station 0x09 x.link.val x.no.val s.stamp32 0 false (schedData op 1 0 (s.getF TIM_STAT_ACTIVE) tc)

/-- Sent to all of them: frames and their numbers, and nothing else. -/
theorem State.sendCut_foldl (op tc : Nat) (l : List StationDef) (s : State) :
    ∃ q o, l.foldl (State.sendCut op tc) s = { s with plant := { s.plant with fspSeq := q }, out := o } := by
  induction l generalizing s with
  | nil => exact ⟨_, _, rfl⟩
  | cons x l ih =>
    obtain ⟨q, o, e⟩ := State.fspSend_frame s .station 0x09 x.link.val x.no.val s.stamp32 0 false (schedData op 1 0 (s.getF TIM_STAT_ACTIVE) tc)
    obtain ⟨q2, o2, e2⟩ := ih (s.sendCut op tc x)
    refine ⟨q2, o2, e2.trans ?_⟩
    rw [show s.sendCut op tc x = _ from e]

/-- The cut that a descriptor asks for. -/
def State.newCut (s : State) (n q : Nat) (d : HostDesc) (c : CutSetDef) : CutRt :=
  { op := s.plant.opSeq % 2 ^ 32, at_ := dArg d, sess := n, qp := q, d := d, set := c.no.val, sigs := c.sigs, deadline := s.cutDeadline c.no.val (dArg d), got := [],
    taken := false, mirrored := false }

/-- The cut scheduled and shared, before its participants are told. -/
def State.putCut (s : State) (r : CutRt) : State :=
  State.share { s with plant := { s.plant with cuts := s.plant.cuts ++ [r], opSeq := s.plant.opSeq + 1 } } (.cut r.op r.at_ r.set)

/-- The cut scheduled, and its participants told. -/
def State.cutAsked (s : State) (r : CutRt) : State := ((s.putCut r).cutStations r.set).foldl (State.sendCut r.op r.at_) (s.putCut r)

/-- It stands behind the cuts scheduled before, and the sessions are as they were. -/
theorem State.cutAsked_does (s : State) (r : CutRt) : (s.cutAsked r).plant.cuts = s.plant.cuts ++ [r] ∧ (s.cutAsked r).host = s.host := by
  obtain ⟨p, ep⟩ : ∃ p, s.putCut r = { s with plant := { s.plant with cuts := s.plant.cuts ++ [r], opSeq := s.plant.opSeq + 1 }, pair := p } := State.share_frame _ _
  obtain ⟨q, o, eq⟩ := State.sendCut_foldl r.op r.at_ ((s.putCut r).cutStations r.set) (s.putCut r)
  rw [show s.cutAsked r = _ from eq, ep]
  exact ⟨rfl, rfl⟩

section
variable {s : State} {sess : SessNo} {qp : QpNo} {x : Sess} {y : Qp} {d : HostDesc} {rest : List HostDesc} (h : AtHead s sess qp x y d rest)
include h

/-- HOST_CUT with room for the record and for the cut, and its lead. -/
theorem AtHead.hostCut {c : CutSetDef} (ho : dOp d = 7) (hc : s.cutSet? (dOpt d % 4096) = some c) (hl : 32 + 16 * c.sigs.length ≤ dLen2 d)
    (ht : s.now + 250000 + s.cutHops c.no.val ≤ dArg d) (hf : s.schedFree (dArg d) = true) :
    Gives (.hostCut sess qp) s fun t => ∃ r, t.plant.cuts = s.plant.cuts ++ [r] ∧ r.at_ = dArg d ∧ r.sess = sess.val ∧ r.set = c.no.val ∧ r.sigs = c.sigs ∧ r.taken = false := by
  obtain ⟨x1, a⟩ := h.takes
  obtain ⟨l, e⟩ := h.took_frame
  have hc' : (s.took sess qp rest).cutSet? (dOpt d % 4096) = some c := by rw [e]; exact hc
  have ht' : ¬dArg d < (s.took sess qp rest).now + 250000 + (s.took sess qp rest).cutHops c.no.val := by rw [e]; exact not_lt.mpr ht
  have hf' : (s.took sess qp rest).schedFree (dArg d) = true := by rw [e]; exact hf
  have hcuts : (s.took sess qp rest).plant.cuts = s.plant.cuts := by rw [e]
  obtain ⟨put, host⟩ := (s.took sess qp rest).cutAsked_does ((s.took sess qp rest).newCut sess.val qp.val d c)
  obtain ⟨t, et, x2, r, o2, l2, k⟩ := h.leads (c := .hostCut sess qp) rfl (by simp [ho])
    (u := (s.took sess qp rest).cutAsked ((s.took sess qp rest).newCut sess.val qp.val d c))
    (by
      dsimp only
      rw [hc']
      dsimp only
      rw [if_neg (by omega), if_neg ht', if_neg (by simp [hf'])]
      rfl)
    (show State.sess? _ sess.val = some x1 by unfold State.sess?; rw [host]; exact a.sess) a.queue
  refine ⟨t, et, (s.took sess qp rest).newCut sess.val qp.val d c, ?_, rfl, rfl, rfl, rfl, rfl⟩
  rw [← hcuts, ← put]
  exact congrArg (fun t => t.plant.cuts) k.frame

/-! ### LOCK -/

omit h in
/-- No request waits for a group before one that was made before all that wait for it. -/
theorem State.lockAhead_none {s : State} {ord g : Nat} (hw : ∀ e ∈ s.host.sess, ∀ z ∈ e.2.qps, ∀ w ∈ z.2.waits, ∀ o l dn b, w.w = .lock o l dn b → l.head? = some g → ord ≤ o) :
    s.lockAhead ord g = false := by
  unfold State.lockAhead
  rw [List.any_eq_false]
  intro e he hc
  unfold State.lockWaits at he
  rw [isort_mem, List.mem_filter, List.mem_flatMap] at he
  obtain ⟨⟨xe, hx, hm⟩, -⟩ := he
  obtain ⟨ze, hz, hm⟩ := List.mem_flatMap.mp hm
  obtain ⟨w, hwm, rfl⟩ := List.mem_map.mp hm
  dsimp only at hc
  split at hc
  · next o l dn b ew =>
    simp only [Bool.and_eq_true, decide_eq_true_eq] at hc
    have := hw xe hx ze hz w hwm o l dn b ew hc.2
    omega
  · cases hc

omit h in
/-- A group that nobody holds and for which nobody waits before is granted at once. -/
theorem State.grant_free {s : State} {n ord g : Nat} (hh : (s.lock g).holder = none) (ha : s.lockAhead ord g = false) :
    s.grant n ord [g] [] false = (([], [g], (s.lock g).broken),
      s.modLock g (fun l => { l with holder := some n, broken := false, staged := [], lease := s.now + s.getF HQE_LOCKCFG_LEASE * 1000000 })) := by
  unfold State.grant
  rw [if_neg (by simp [hh, ha])]
  rfl

/-- A group is granted to a session with a new lease. -/
def State.lockTo (s : State) (n g : Nat) : State :=
  s.modLock g (fun l => { l with holder := some n, broken := false, staged := [], lease := s.now + s.getF HQE_LOCKCFG_LEASE * 1000000 })

omit h in
/-- A waiting LOCK of one group that is free, and for which nobody waits before, completes. -/
theorem State.lockOn_free {s : State} {n q ord g since : Nat} {d : HostDesc} (hh : (s.lock g).holder = none) (ha : s.lockAhead ord g = false) :
    s.lockOn n q ⟨d, .lock ord [g] [] false, since⟩ = ((s.lockTo n g).modQp n q (fun x => { x with waits := x.waits.filter (fun v => v ≠ ⟨d, .lock ord [g] [] false, since⟩) })).complete
      n q d 0 0 0 (if (s.lock g).broken then 8 else 0) := by
  unfold State.lockOn
  dsimp only
  rw [State.grant_free hh ha]
  rfl

/-- A number of the requests in their order is used. -/
def State.numbered (s : State) : State := { s with host := { s.host with nextBatch := s.host.nextBatch + 1 } }

/-- A LOCK waits behind the other descriptors of its queue pair. -/
def State.lockPut (s : State) (n q : Nat) (w : WaitDesc) : State := s.numbered.modQp n q (fun y => { y with waits := y.waits ++ [w] })

/-- Where no request waits for a group, a LOCK of it put behind the others is the first. -/
theorem AtHead.lockAhead_lockPut {g : Nat} {w : WaitDesc} (hww : w.w = .lock (s.took sess qp rest).host.nextBatch [g] [] false)
    (hw : ∀ e ∈ s.host.sess, ∀ z ∈ e.2.qps, ∀ w ∈ z.2.waits, ∀ o l dn b, w.w = .lock o l dn b → l.head? ≠ some g) :
    ((s.took sess qp rest).lockPut sess.val qp.val w).lockAhead (s.took sess qp rest).host.nextBatch g = false := by
  obtain ⟨x1, a⟩ := h.takes
  have old : ∀ v ∈ y.waits, ∀ o l dn b, v.w = .lock o l dn b → l.head? ≠ some g := hw _ (mem_of_tabGet? h.session) _ (mem_of_tabGet? h.queue)
  refine State.lockAhead_none fun e he z hz v hv o l dn b ev hd => ?_
  rcases State.modQp_mem (s := (s.took sess qp rest).numbered) a.sess a.queue he hz with ⟨xo, hx, hy⟩ | hz
  · rcases State.modQp_mem h.session h.queue hx hy with ⟨xs, hxs, hys⟩ | hz
    · exact absurd hd (hw _ hxs _ hys v hv o l dn b ev)
    · rw [hz] at hv
      exact absurd hd (old v hv o l dn b ev)
  · rw [hz] at hv
    rcases List.mem_append.mp hv with hv | hv
    · exact absurd hd (old v hv o l dn b ev)
    · rw [List.mem_singleton.mp hv, hww] at ev
      cases ev
      exact le_refl _

/-- HOST_LOCK of a free group that is above those the session holds, within MAXLOCKS, and for which no request waits. -/
theorem AtHead.hostLock {g : Nat} (ho : dOp d = 8) (hg : dGroups d = [g]) (hb : s.groupsBad d = none) (hr : ∀ k ∈ s.heldBy sess.val, k < g)
    (hm : (s.heldBy sess.val).length + (s.took sess qp rest).lockAsked sess.val + 1 ≤ s.getF HQE_LOCKCFG_MAXLOCKS) (hf : (s.lock g).holder = none)
    (hw : ∀ e ∈ s.host.sess, ∀ z ∈ e.2.qps, ∀ w ∈ z.2.waits, ∀ o l dn b, w.w = .lock o l dn b → l.head? ≠ some g) :
    Gives (.hostLock sess qp) s fun t => Answered t sess qp y.comps (answerOf d 0 0 0 (if (s.lock g).broken then 8 else 0) []) ∧ (t.lock g).holder = some sess.val ∧
      (t.lock g).broken = false ∧ (t.lock g).lease = s.now + s.getF HQE_LOCKCFG_LEASE * 1000000 := by
  obtain ⟨x1, a⟩ := h.takes
  obtain ⟨l, e⟩ := h.took_frame
  have hb1 : (s.took sess qp rest).groupsBad d = none := by rw [e]; exact hb
  have hr1 : ∀ k ∈ (s.took sess qp rest).heldBy sess.val, k < g := by rw [e]; exact hr
  have hm1 : ¬(((s.took sess qp rest).heldBy sess.val).length + (s.took sess qp rest).lockAsked sess.val + 1 > (s.took sess qp rest).getF HQE_LOCKCFG_MAXLOCKS) := by
    rw [show ((s.took sess qp rest).heldBy sess.val).length = (s.heldBy sess.val).length by rw [e]; rfl,
      show (s.took sess qp rest).getF HQE_LOCKCFG_MAXLOCKS = s.getF HQE_LOCKCFG_MAXLOCKS by rw [e]; rfl]
    omega
  let w : WaitDesc := ⟨d, .lock (s.took sess qp rest).host.nextBatch [g] [] false, (s.took sess qp rest).now⟩
  have ha := h.lockAhead_lockPut (w := w) rfl hw
  obtain ⟨x3, b⟩ := QpStep.modQp (s := (s.took sess qp rest).numbered) a.sess a.queue (fun y => { y with waits := y.waits ++ [w] })
  have hl : ((s.took sess qp rest).lockPut sess.val qp.val w).lock g = s.lock g := (b.lock g).trans (by rw [e]; rfl)
  have hnow : ((s.took sess qp rest).lockPut sess.val qp.val w).now = s.now := (congrArg State.now b.frame).trans (by rw [e]; rfl)
  have hcfg : ((s.took sess qp rest).lockPut sess.val qp.val w).getF HQE_LOCKCFG_LEASE = s.getF HQE_LOCKCFG_LEASE :=
    (congrArg (fun t => t.getF HQE_LOCKCFG_LEASE) b.frame).trans (by rw [e]; rfl)
  have bs : ((s.took sess qp rest).lockPut sess.val qp.val w).sess? sess.val = some x3 := b.sess
  generalize hv : (s.took sess qp rest).lockPut sess.val qp.val w = v at ha hl hnow hcfg bs
  obtain ⟨x4, c1⟩ := QpStep.modQp (s := v.lockTo sess.val g) bs b.queue (fun x => { x with waits := x.waits.filter (fun v => v ≠ w) })
  obtain ⟨x5, c2⟩ := QpStep.complete c1.sess c1.queue d 0 0 0 (if (v.lock g).broken then 8 else 0) [] (.inl rfl)
  obtain ⟨t, et, x6, r, o, l2, c3⟩ := h.leads (c := .hostLock sess qp) rfl (by simp [ho])
    (by
      dsimp only
      rw [hb1]
      dsimp only
      rw [if_neg (by rw [hg]; simpa [risingL] using hr1), if_neg (by rw [hg]; exact hm1), hg]
      exact (congrArg (fun u => State.lockOn u sess.val qp.val w) hv).trans (State.lockOn_free (by rw [hl]; exact hf) ha)) c2.sess c2.queue
  have k := (c1.trans c2).trans c3
  have hlock : t.lock g = { v.lock g with holder := some sess.val, broken := false, staged := [], lease := v.now + v.getF HQE_LOCKCFG_LEASE * 1000000 } :=
    (k.lock g).trans ((State.lock_modLock _ _ _ _).trans (if_pos rfl))
  rw [hl] at c3
  rw [hnow, hcfg] at hlock
  exact ⟨t, et, QpStep.answered c3, congrArg LockRt.holder hlock, congrArg LockRt.broken hlock, congrArg LockRt.lease hlock⟩

/-! ### Queue pairs -/

/-- QP_CREATE with rings in order, where the client has a free number and the module room. -/
theorem AtHead.qpCreate {k : Nat} (ho : dOp d = 0x10) (hop : dOpt d % 16 = 1) (h1 : dAddr1 d % 4096 = 0) (h2 : dAddr2 d % 4096 = 0)
    (hs : dArg d % 256 % 16 ≤ dArg d % 256 / 16) (hc : dArg d % 256 / 16 ≤ 12) (hk : (List.range' 1 4095).find? (fun k => (tabGet? x.qps k).isNone) = some k)
    (hn : (s.took sess qp rest).qpCount < 32768) :
    Gives (.qpCreate sess qp) s fun t => Answered t sess qp y.comps (answerOf d 0 0 k 0 []) ∧
      t.qp? sess.val k = some (Qp.new (2 ^ (dArg d % 256 % 16 + 4)) (2 ^ (dArg d % 256 / 16 + 4)) (dAddr1 d) (dAddr2 d) (dKey1 d)) := by
  obtain ⟨x1, a⟩ := h.takes
  have hfree : tabGet? x.qps k = none := by simpa using List.find?_some hk
  have hne : qp.val ≠ k := fun e => by
    have := h.queue
    rw [e, hfree] at this
    cases this
  obtain ⟨-, hset⟩ := State.modSess_sess a.sess
    (fun x => { x with qps := tabSet x.qps k (Qp.new (2 ^ (dArg d % 256 % 16 + 4)) (2 ^ (dArg d % 256 / 16 + 4)) (dAddr1 d) (dAddr2 d) (dKey1 d)) })
  generalize hv : (s.took sess qp rest).modSess sess.val _ = v at hset
  have hset' : v.hqeStat.sess? sess.val = _ := hset
  obtain ⟨x2, b⟩ := QpStep.complete hset' ((tabGet?_tabSet_ne _ _ hne).trans a.queue) d 0 0 k 0 [] (.inl rfl)
  obtain ⟨t, et, x3, r, o, l2, c⟩ := h.leads (c := .qpCreate sess qp) rfl (by simp [isSess, ho, hop])
    (by
      dsimp only
      rw [if_neg (not_not.mpr h1), if_neg (not_not.mpr h2), if_neg (by simp; omega), hk]
      dsimp only
      rw [if_neg (by omega), hv]) b.sess b.queue
  refine ⟨t, et, QpStep.answered c, ?_⟩
  show (t.sess? sess.val).bind _ = _
  rw [c.sess]
  exact ((b.trans c).others k hne.symm).trans (tabGet?_tabSet_self _ _ _)

omit h in
/-- What a waiting descriptor gives back: groups, and the count of those held. -/
theorem State.ungrant_frame (s : State) (w : WaitDesc) : ∃ r k, s.ungrant w = { s with regs := r, host := { s.host with locks := k } } := by
  have free : ∀ (l : List Nat) (s : State), ∃ r k, l.foldl State.freeLock s = { s with regs := r, host := { s.host with locks := k } } := by
    intro l
    induction l with
    | nil => exact fun s => ⟨_, _, rfl⟩
    | cons g l ih =>
      intro s
      obtain ⟨r, k, e⟩ := ih (s.freeLock g)
      exact ⟨r, k, e⟩
  unfold State.ungrant
  split
  · exact free _ s
  · exact ⟨_, _, rfl⟩

omit h in
/-- The sessions are as they were when the waiting descriptors of a queue pair have given back what they hold. -/
theorem State.ungrant_foldl_sess (l : List WaitDesc) (s : State) : (l.foldl State.ungrant s).host.sess = s.host.sess := by
  induction l generalizing s with
  | nil => rfl
  | cons w l ih =>
    obtain ⟨r, k, e⟩ := s.ungrant_frame w
    exact (ih _).trans (by rw [e])

/-- QP_DESTROY comes on queue pair 0. -/
theorem AtHead.session_qp (ho : dOp d = 0x10) : qp.val = 0 := by
  by_contra hq
  have := h.screened
  unfold State.screen at this
  dsimp only at this
  rw [if_pos (by simp [ho, hq])] at this
  cases this

/-- QP_DESTROY of another queue pair of the session. -/
theorem AtHead.qpDestroy {z : Qp} (ho : dOp d = 0x10) (hop : dOpt d % 16 = 2) (hk : dArg d % 4096 ≠ 0) (hz : tabGet? x.qps (dArg d % 4096) = some z)
    (hr : tabRising x.qps = true) :
    Gives (.qpDestroy sess qp) s fun t => Answered t sess qp y.comps (answerOf d 0 0 0 0 []) ∧ t.qp? sess.val (dArg d % 4096) = none := by
  obtain ⟨x1, a⟩ := h.takes
  have hne : qp.val ≠ dArg d % 4096 := by
    rw [h.session_qp ho]
    exact hk.symm
  have hgiven : (z.waits.foldl State.ungrant (s.took sess qp rest)).sess? sess.val = some x1 := by
    unfold State.sess?
    rw [State.ungrant_foldl_sess]
    exact a.sess
  obtain ⟨-, hdel⟩ := State.modSess_sess hgiven (fun x => { x with qps := tabDel x.qps (dArg d % 4096), subs := x.subs.filter (fun u => u.qp ≠ dArg d % 4096) })
  generalize hv : State.modSess (z.waits.foldl State.ungrant (s.took sess qp rest)) sess.val _ = v at hdel
  have hdel' : ((v.forgetQp (fun a b => a = sess.val && b = dArg d % 4096)).hqeStat).sess? sess.val = _ := hdel
  obtain ⟨x2, b⟩ := QpStep.complete hdel' ((tabGet?_tabDel_ne _ (a.rising hr) hne).trans a.queue) d 0 0 0 0 [] (.inl rfl)
  obtain ⟨t, et, x3, r, o, l2, c⟩ := h.leads (c := .qpDestroy sess qp) rfl (by simp [isSess, ho, hop])
    (by
      dsimp only
      rw [if_neg hk, hz]
      dsimp only
      exact congrArg (fun v : State => State.complete (State.hqeStat (v.forgetQp (fun a b => a = sess.val && b = dArg d % 4096))) sess.val qp.val d 0) hv) b.sess b.queue
  refine ⟨t, et, QpStep.answered c, ?_⟩
  show (t.sess? sess.val).bind _ = _
  rw [c.sess]
  exact ((b.trans c).others _ hne.symm).trans (tabGet?_tabDel_self _ _ (a.rising hr))

end

/-- Settles O41: each request, at the head of its queue pair, leads to one state of batches, locks, cuts or queue pairs, after which only the sessions change. -/
theorem hostWrites : Obligations.HostWrites := by
  unfold Obligations.HostWrites
  intro s sess qp x y d rest h n s1 New Admits
  refine ⟨fun ws u ho h16 h0 hl hd hn hg hw hk => h.writeNext ho h16 h0 hl hd hn hg hw hk, fun fs u ho h16 h0 hl hn hw hm => h.hostForce ho h16 h0 hl hn hw hm,
    fun ho hb hg hn hh hgen => h.unlockCommit ho hb hg hn hh hgen, fun ho hb hg hh => h.unlockDiscard ho hb hg hh,
    fun ho h4 h0 hk hl hd hc => h.hostSubscribe ho h4 h0 hk hl hd hc, fun z ho hq hz hw hs => h.hostCancel ho hq hz hw hs,
    fun c ho hc hl ht hf => h.hostCut ho hc hl ht hf, fun g ho hg hb hr hm hf hw => h.hostLock ho hg hb hr hm hf hw,
    fun k ho hop h1 h2 hs hc hk hq => h.qpCreate ho hop h1 h2 hs hc hk hq, fun z ho hop hk hz hr => h.qpDestroy ho hop hk hz hr⟩

end Sys2Proof.Machine
end

section
/-! PROOFS. The FLX instructions: what the meaning of each answers, and from there the state after its command (03, R61 to R84). -/
namespace Sys2Proof.Machine

/-! ### From the answer of a meaning to the state after the command -/

/-- An instruction whose meaning goes on to the next one retires. -/
theorem AtInstr.completes {s : State} {k : Strm} {e : Env} {row : FlxRow} {r : Run} {d : TaskDef} {st : StreamRt} {i : FlxW}
    (h : AtInstr s k e row r d st i) {sem : Sem} {m : Mx} (hs : sem (instrCx k e r d st i) (met s e r st) = .ok .next m) (hk : kept r.ctx m.r) :
    done (s.flx k e row sem) = .next (retired k r i m .next) :=
  congrArg Host.Outcome.next (h.flx hs nofun hk)

/-- Reading leaves the run where it was in its life. -/
theorem Reads.run_st {m m' : Mx} (h : Reads m m') : m'.r.st = m.r.st := by
  obtain ⟨_, _, _, _, hr⟩ := h.run
  rw [hr]

/-- An instruction whose meaning, having read at most, raises an exception: the stream is handed to it as it was. -/
theorem AtInstr.raises {s : State} {k : Strm} {e : Env} {row : FlxRow} {r : Run} {d : TaskDef} {st : StreamRt} {i : FlxW}
    (h : AtInstr s k e row r d st i) {sem : Sem} {x : Xcp} {m : Mx} (hm : Reads (met s e r st) m)
    (hs : sem (instrCx k e r d st i) (met s e r st) = .xcp x m) : done (s.flx k e row sem) = .next (raised k r i m st x none) :=
  congrArg Host.Outcome.next (h.flx_xcp (hm.run_st.trans h.on) hs)

/-! ### Bit logic (Table 3-9, R72, R73) -/

/-- A LOG whose operand reads as b. -/
theorem semLog_of_bool {f : Bool → Bool → Bool} {c : Cx} {m m' : Mx} {b : Bool} (h : m.bool c = .ok b m') :
    semLog f c m = .ok .next { m' with st := { m'.st with la := f m'.st.la (b != c.i.neg) } } := by
  unfold semLog
  rw [h]
  rfl

/-- A LOGP whose operand reads as b, on an NS that has room. -/
theorem semLogp_of_room {op : Nat} {c : Cx} {m m' : Mx} {b : Bool} (h : m.bool c = .ok b m') (hn : m'.st.ns.length < 16) :
    semLogp op c m = .ok .next { m' with st := { m'.st with ns := ⟨m'.st.la, op, c.i.neg⟩ :: m'.st.ns, la := b } } := by
  unfold semLogp
  rw [h]
  exact if_neg (by omega)

/-- A LOGP whose operand reads, on a full NS. -/
theorem semLogp_of_full {op : Nat} {c : Cx} {m m' : Mx} {b : Bool} (h : m.bool c = .ok b m') (hn : m'.st.ns.length = 16) :
    semLogp op c m = .xcp ⟨0x0A, 0, 0, 0⟩ m' := by
  unfold semLogp
  rw [h]
  exact if_pos (by omega)

/-- The operation that an NS entry names, told by cases. -/
theorem nsOp_eq (op : Nat) (a b : Bool) : nsOp op a b = if op = 1 then a && b else if op = 2 then a || b else a != b := by
  unfold nsOp
  split
  · rfl
  · rfl
  · next h1 h2 => rw [if_neg h1, if_neg h2]

/-- POPL takes the top entry of NS. -/
theorem semPopl_cons {c : Cx} {m : Mx} {x : NsEnt} {l : List NsEnt} (h : m.st.ns = x :: l) :
    semPopl c m = .ok .next { m with st := { m.st with ns := l, la := if x.op = 1 then x.la && (m.st.la != x.neg)
      else if x.op = 2 then x.la || (m.st.la != x.neg) else x.la != (m.st.la != x.neg) } } := by
  unfold semPopl
  rw [h, ← nsOp_eq]
  rfl

/-- POPL on an empty NS. -/
theorem semPopl_nil {c : Cx} {m : Mx} (h : m.st.ns = []) : semPopl c m = .xcp ⟨0x0B, 0, 0, 0⟩ m := by
  unfold semPopl
  rw [h]
  rfl

/-- END with a non-empty NS. -/
theorem semEnd_cons {c : Cx} {m : Mx} (h : m.st.ns ≠ []) : semEnd c m = .xcp ⟨0x0C, 0, 0, 0⟩ m := if_neg (by simpa using h)

/-- END with an empty NS. -/
theorem semEnd_nil {c : Cx} {m : Mx} (h : m.st.ns = []) : semEnd c m = .ok .fin m := if_pos (by simpa using h)

/-- A store of LOG to an operand that resolves and may be stored to. -/
theorem semLogStore_of_operand {wr : Bool → Bool} {val : Bool → Bool → Bool} {c : Cx} {m m' : Mx} {o : Opnd}
    (h : m.operand c 1 1 false true = .ok o m') :
    semLogStore wr val c m = .ok .next (if wr m'.st.la then m'.put c o 0 [if val m'.st.la c.i.neg then 1 else 0] else m') := by
  unfold semLogStore
  rw [h]
  rfl

/-- LOG S and LOG R with LA = 1 store their constant. -/
theorem semLogStore_set {b : Bool} {c : Cx} {m m' : Mx} {o : Opnd} (h : m.operand c 1 1 false true = .ok o m') (hla : m'.st.la = true) :
    semLogStore id (fun _ _ => b) c m = .ok .next (m'.put c o 0 [if b then 1 else 0]) := by
  rw [semLogStore_of_operand h, hla]
  rfl

/-- With LA = 0 they store nothing. -/
theorem semLogStore_clear {b : Bool} {c : Cx} {m m' : Mx} {o : Opnd} (h : m.operand c 1 1 false true = .ok o m') (hla : m'.st.la = false) :
    semLogStore id (fun _ _ => b) c m = .ok .next m' := by
  rw [semLogStore_of_operand h, hla]
  rfl

/-- Settles O4: each of the three meanings raises its exception before it touches its stream. -/
theorem nestingStackFaults : Obligations.NestingStackFaults := by
  unfold Obligations.NestingStackFaults
  refine ⟨fun s k e r d st i b m hb hn => ?_, fun s k e r d st i hn h => h.raises (.refl _) (semPopl_nil hn),
    fun s k e r d st i hn h => h.raises (.refl _) (semEnd_cons hn)⟩
  have hread : Reads (met s e r st) m := Mx.bool_reads _ _ b m hb
  have hfull : m.st.ns.length = 16 := by rw [hread.st]; exact hn
  exact ⟨fun h => h.raises hread (semLogp_of_full hb hfull), fun h => h.raises hread (semLogp_of_full hb hfull),
    fun h => h.raises hread (semLogp_of_full hb hfull)⟩

/-- Settles O1: the meaning of each is one update of the stream. -/
theorem flxRegisterMoves : Obligations.FlxRegisterMoves := by
  unfold Obligations.FlxRegisterMoves
  intro s k e r d st i hk
  exact ⟨fun h => h.completes rfl hk, fun h => h.completes rfl hk, fun h => h.completes rfl hk, fun h => h.completes rfl hk,
    fun h => h.completes rfl hk, fun h => h.completes rfl hk, fun h => h.completes rfl hk, fun h => h.completes rfl hk,
    fun h => h.completes rfl hk, fun h => h.completes rfl hk, fun h => h.completes rfl hk, fun h => h.completes rfl hk⟩

/-- Settles O2: LOG and LOGP go on from the bit that the operand reads as, POPL from the top of NS. -/
theorem flxBitLogic : Obligations.FlxBitLogic := by
  unfold Obligations.FlxBitLogic
  refine ⟨fun s k e r d st i b m hb hk => ?_, fun s k e r d st i x l hk hn h => h.completes (semPopl_cons hn) hk⟩
  exact ⟨fun h => h.completes (semLog_of_bool hb) hk, fun h => h.completes (semLog_of_bool hb) hk, fun h => h.completes (semLog_of_bool hb) hk,
    fun h => h.completes (semLog_of_bool hb) hk, fun hn h => h.completes (semLogp_of_room hb hn) hk,
    fun hn h => h.completes (semLogp_of_room hb hn) hk, fun hn h => h.completes (semLogp_of_room hb hn) hk⟩

/-- Settles O3: LOG ST always stores, LOG S and R as LA says. -/
theorem flxBitStores : Obligations.FlxBitStores := by
  unfold Obligations.FlxBitStores
  intro s k e r d st i o m ho
  exact ⟨fun h hk => h.completes (semLogStore_of_operand ho) hk, fun h hla hk => h.completes (semLogStore_set ho hla) hk,
    fun h hla hk => h.completes (semLogStore_set ho hla) hk, fun h hla hk => h.completes (semLogStore_clear ho hla) hk,
    fun h hla hk => h.completes (semLogStore_clear ho hla) hk⟩

end Sys2Proof.Machine
end

section
/-! PROOFS. Loads, stores and word operations of FLX, their results and the flags they write (03, R61 to R65, R71, R74, R75, R81). -/
namespace Sys2Proof.Machine

/-! ### Loads and stores (R64, R81) -/

/-- SEL where its source reads as v. -/
theorem semSel_of_source {c : Cx} {m m' : Mx} {v : Nat} (h : m.source c = .ok v m') :
    semSel c m = .ok .next { m' with st := { m'.st with wa := if m'.st.la then BitVec.ofNat 64 v else m'.st.wa } } := by
  unfold semSel
  rw [h]
  dsimp only [XR.bind]
  split <;> rfl

/-- LDW where its source reads as v. -/
theorem semLdw_of_source {c : Cx} {m m' : Mx} {v : Nat} (h : m.source c = .ok v m') :
    semLdw c m = .ok .next { m' with st := { m'.st with wa := BitVec.ofNat 64 v } } := by
  unfold semLdw
  rw [h]
  rfl

/-- LDWB where its source reads as v. -/
theorem semLdwb_of_source {c : Cx} {m m' : Mx} {v : Nat} (h : m.source c = .ok v m') :
    semLdwb c m = .ok .next { m' with st := { m'.st with wb := BitVec.ofNat 64 v } } := by
  unfold semLdwb
  rw [h]
  rfl

/-- LEA where its operand resolves. -/
theorem semLea_of_address {c : Cx} {m m' : Mx} {p : Nat × Bool} (h : m.address c c.i.ty (tySize c.i.ty) = .ok p m') :
    semLea c m = .ok .next { m' with st := { m'.st with wa := BitVec.ofNat 64 p.1 } } := by
  unfold semLea
  rw [h]
  rfl

/-- LSTAT of a signal whose status byte may be read. -/
theorem semLstat_of_status {c : Cx} {m m1 m2 m3 : Mx} {w : Nat × Nat} {b : Byte} (ht : m.tagEntry c (c.named m 0) = .ok w m1)
    (hsig : teSignal w.1 = true) (hc : m1.check c .rd (m1.s.statAddr c.t w.1 w.2) 1 = .ok () m2)
    (hl : m2.load c (m1.s.statAddr c.t w.1 w.2) 1 = .ok [b] m3) :
    semLstat c m = .ok .next { m3 with st := { m3.st with wa := BitVec.ofNat 64 b.toNat } } := by
  unfold semLstat
  dsimp only
  rw [ht]
  dsimp only [XR.bind]
  rw [if_neg (by simp [hsig]), hc]
  dsimp only
  rw [hl]
  rfl

/-- A store into W[n]. -/
theorem storeVal_reg {c : Cx} {m m' : Mx} {v n : Nat} (h : m.operand c (tySize c.i.ty) (tySize c.i.ty) false true = .ok (.reg n) m') :
    (m.storeVal c v).fin = .ok .next { m' with st := m'.st.setReg n (ext c.i.ty v) } := by
  unfold Mx.storeVal
  dsimp only
  rw [h]
  rfl

/-- A store to the Square. -/
theorem storeVal_sq {c : Cx} {m m' : Mx} {v a : Nat} (h : m.operand c (tySize c.i.ty) (tySize c.i.ty) false true = .ok (.sq a) m') :
    (m.storeVal c v).fin = .ok .next (m'.store c a (natLe (tySize c.i.ty) v)) := by
  unfold Mx.storeVal
  dsimp only
  rw [h]
  rfl

/-- A store to the scratch window. -/
theorem storeVal_scr {c : Cx} {m m' : Mx} {v p : Nat} (h : m.operand c (tySize c.i.ty) (tySize c.i.ty) false true = .ok (.scr p) m') :
    (m.storeVal c v).fin = .ok .next { m' with st := { m'.st with scr := memWrL m'.st.scr p (natLe (tySize c.i.ty) v) } } := by
  unfold Mx.storeVal
  dsimp only
  rw [h]
  rfl

/-- Settles O5: each load puts what it read, an address or a status byte into its register. -/
theorem flxLoads : Obligations.FlxLoads := by
  unfold Obligations.FlxLoads
  refine ⟨fun s k e r d st i v m hv hk => ?_, fun s k e r d st i p m hp hk h => h.completes (semLea_of_address hp) hk,
    fun s k e r d st i w m m' m'' b ht hsig hc hl hk h => h.completes (semLstat_of_status ht hsig hc hl) hk⟩
  exact ⟨fun h => h.completes (semLdw_of_source hv) hk, fun h => h.completes (semLdwb_of_source hv) hk,
    fun h => h.completes (semSel_of_source hv) hk⟩

/-- Settles O6: resolving the operand leaves WA and WB, whose bytes go where the operand stands. -/
theorem flxStores : Obligations.FlxStores := by
  unfold Obligations.FlxStores
  refine ⟨fun s k e r d st i n m ho hk => ?_, fun s k e r d st i a m ho => ?_, fun s k e r d st i p m ho hk => ?_⟩
  · obtain rfl : m.st = st := (Mx.operand_reads _ _ _ _ _ _ _ m ho).st
    exact ⟨fun h => h.completes (storeVal_reg ho) hk, fun h => h.completes (storeVal_reg ho) hk⟩
  · exact ⟨fun h hk => h.completes (storeVal_sq ho) hk, fun h hk => h.completes (storeVal_sq ho) hk⟩
  · exact ⟨fun h => h.completes (storeVal_scr ho) hk, fun h => h.completes (storeVal_scr ho) hk⟩

/-! ### Word operations: which results can raise the arithmetic trap (R64) -/

/-- A word operation without a trap hands back its result. -/
theorem semWord_of_source {f : Cx → Mx → Nat → WordRes} {c : Cx} {m m' : Mx} {v : Nat} (h : m.source c = .ok v m')
    (ht : (f c m' v).trap = false) : semWord f c m = .ok .next { m' with st := (f c m' v).on m'.st } := by
  unfold semWord
  rw [h]
  dsimp only [XR.bind]
  rw [WordRes.apply_on ht]
  rfl

/-- A result applied in place, without a trap. -/
theorem WordRes.apply_fin {w : WordRes} {m : Mx} (h : w.trap = false) : (w.apply m).fin = .ok .next { m with st := w.on m.st } := by
  rw [WordRes.apply_on h]
  rfl

/-- With the arithmetic trap due, nothing is written. -/
theorem WordRes.apply_trap {w : WordRes} {m : Mx} (h : w.trap = true) : (w.apply m).fin = .xcp ⟨0x09, 0, 0, 0⟩ m := by
  unfold WordRes.apply
  rw [if_pos h]
  rfl

/-- The same of a word operation. -/
theorem semWord_trap {f : Cx → Mx → Nat → WordRes} {c : Cx} {m m' : Mx} {v : Nat} (h : m.source c = .ok v m') (ht : (f c m' v).trap = true) :
    semWord f c m = .xcp ⟨0x09, 0, 0, 0⟩ m' := by
  unfold semWord
  rw [h]
  exact WordRes.apply_trap ht

/-- MIN, MAX and LIMIT raise no trap. -/
theorem resPick_trap (ty : Nat) (l : List Nat) (v : Nat) : (resPick ty l v).trap = false := by
  unfold resPick
  split <;> rfl

/-- A compare raises no trap. -/
theorem resCmp_trap (ty : Nat) (rel : Ordering → Bool) (nan : Bool) (a b : Nat) : (resCmp ty rel nan a b).trap = false := by
  unfold resCmp
  split <;> rfl

/-- CVT raises no trap. -/
theorem resCvt_trap (frm dst : Nat) (trunc : Bool) (mode : BitVec 4) (a : Nat) : (resCvt frm dst trunc mode a).trap = false := by
  unfold resCvt
  dsimp only
  repeat' split
  all_goals rfl

/-- Settles O7: each operation hands back its result; only the arithmetic ones could raise the trap. -/
theorem flxWordOperations : Obligations.FlxWordOperations := by
  unfold Obligations.FlxWordOperations
  intro s k e r d st i v m hv hk
  refine ⟨?add, ?sub, ?mul, ?div, ?and, ?or, ?xor, ?min, ?max, ?limit, ?shl, ?shr, ?rol, ?ror, ?ceq, ?cne, ?cgt, ?cge, ?clt, ?cle⟩
  case add | sub | mul | div => exact fun h ht => h.completes (semWord_of_source hv ht) hk
  case and | or | xor | shl | shr | rol | ror => exact fun h => h.completes (semWord_of_source hv rfl) hk
  case min | max | limit => exact fun h => h.completes (semWord_of_source hv (resPick_trap ..)) hk
  case ceq | cne | cgt | cge | clt | cle => exact fun h => h.completes (semWord_of_source hv (resCmp_trap ..)) hk

/-- Settles O8: each operation hands back its result; only NEG and ABS could raise the trap. -/
theorem flxUnary : Obligations.FlxUnary := by
  unfold Obligations.FlxUnary
  intro s k e r d st i hk
  exact ⟨fun h => h.completes (WordRes.apply_fin rfl) hk, fun h ht => h.completes (WordRes.apply_fin ht) hk,
    fun h ht => h.completes (WordRes.apply_fin ht) hk, fun h => h.completes (WordRes.apply_fin rfl) hk,
    fun h => h.completes (WordRes.apply_fin (resCvt_trap ..)) hk⟩

/-- Settles O21: the source read leaves WA and MODE, and the trap due comes before every write. -/
theorem arithmeticTrap : Obligations.ArithmeticTrap := by
  unfold Obligations.ArithmeticTrap
  refine ⟨fun s k e r d st i v m hv => ?_, fun s k e r d st i => ?_⟩
  · have hread : Reads (met s e r st) m := Mx.source_reads _ _ v m hv
    have hst : m.st = st := hread.st
    exact ⟨fun ht h => h.raises hread (semWord_trap hv (hst ▸ ht)), fun ht h => h.raises hread (semWord_trap hv (hst ▸ ht)),
      fun ht h => h.raises hread (semWord_trap hv (hst ▸ ht)), fun ht h => h.raises hread (semWord_trap hv (hst ▸ ht))⟩
  · exact ⟨fun ht h => h.raises (.refl _) (WordRes.apply_trap ht), fun ht h => h.raises (.refl _) (WordRes.apply_trap ht)⟩

/-! ### Integer results (R62, R64) -/

/-- The integer types and TIME are no floating-point types. -/
theorem tyFloat_of_integer {ty : Nat} (h : tySU ty = true ∨ ty = 11) : tyFloat ty = false := by
  rcases h with h | rfl
  · simp only [tySU, Bool.and_eq_true, decide_eq_true_eq] at h
    simp only [tyFloat, Bool.or_eq_false_iff, beq_eq_false_iff_ne]
    omega
  · rfl

/-- The least value of an integer type is not above the greatest. -/
theorem tyMin_le_tyMax {ty : Nat} (h : tySU ty = true ∨ ty = 11) : tyMin ty ≤ tyMax ty :=
  (tyVal_spec ty h 0).1.trans (tyVal_spec ty h 0).2.1

/-- WA of an exact result that is kept, or wraps: the exact one. -/
theorem intRes_wa_exact {ty : Nat} {mode : BitVec 4} {i : Int} {wb : Option Nat} {c : Option Bool}
    (h : (tyMin ty ≤ i ∧ i ≤ tyMax ty) ∨ modeSat mode = false) : (intRes ty mode true i wb c).wa = some (tyWrap ty i) := by
  have hkeep : ((decide (i < tyMin ty) || decide (i > tyMax ty)) && true && modeSat mode) = false := by
    rcases h with ⟨h1, h2⟩ | h
    · simp [not_lt.mpr h1, not_lt.mpr h2]
    · simp [h]
  unfold intRes
  dsimp only [WordRes.zn]
  rw [if_neg (by rw [hkeep]; decide)]
  rfl

/-- WA of an exact result that saturates: the nearer limit. -/
theorem intRes_wa_sat {ty : Nat} {mode : BitVec 4} {i : Int} {wb : Option Nat} {c : Option Bool} (hs : modeSat mode = true)
    (h : i < tyMin ty ∨ tyMax ty < i) : (intRes ty mode true i wb c).wa = some (tyWrap ty (if i < tyMin ty then tyMin ty else tyMax ty)) := by
  unfold intRes
  dsimp only [WordRes.zn]
  rw [if_pos (by simpa [hs] using h)]
  rfl

/-- What narrowing an exact result gives: V where it is not representable; the result itself where it is; else the result modulo 2 to the width, or
the nearer limit. -/
theorem intRes_narrows {ty : Nat} (h : tySU ty = true ∨ ty = 11) (mode : BitVec 4) (i : Int) (wb : Option Nat) (c : Option Bool) :
    ∃ x, (intRes ty mode true i wb c).wa = some x ∧
      (intRes ty mode true i wb c).v = some (decide (i < tyMin ty) || decide (i > tyMax ty)) ∧
      (tyMin ty ≤ i → i ≤ tyMax ty → tyVal ty x = i) ∧ (modeSat mode = false → (tyVal ty x - i) % (2 ^ tyWidth ty : Nat) = 0) ∧
      (modeSat mode = true → i < tyMin ty → tyVal ty x = tyMin ty) ∧ (modeSat mode = true → tyMax ty < i → tyVal ty x = tyMax ty) := by
  have hle := tyMin_le_tyMax h
  by_cases hin : (tyMin ty ≤ i ∧ i ≤ tyMax ty) ∨ modeSat mode = false
  · refine ⟨_, intRes_wa_exact hin, rfl, tyVal_tyWrap_in ty h i, fun _ => tyVal_tyWrap ty h i, fun hs hlt => ?_, fun hs hgt => ?_⟩
    all_goals
      rcases hin with ⟨h1, h2⟩ | hn
      · omega
      · simp [hn] at hs
  · rw [not_or, Bool.not_eq_false] at hin
    obtain ⟨hout, hs⟩ := hin
    refine ⟨_, intRes_wa_sat hs (by omega), rfl, fun h1 h2 => absurd ⟨h1, h2⟩ hout, fun hn => ?_, fun _ hlt => ?_, fun _ hgt => ?_⟩
    · simp [hs] at hn
    · rw [if_pos hlt]
      exact tyVal_tyWrap_in ty h _ le_rfl hle
    · rw [if_neg (by omega)]
      exact tyVal_tyWrap_in ty h _ hle le_rfl

/-- ADD of integers narrows the exact sum; C is the carry. -/
theorem resAdd_integer {ty : Nat} (h : tySU ty = true ∨ ty = 11) (mode : BitVec 4) (a b : Nat) :
    resAdd ty mode a b = intRes ty mode true (tyVal ty a + tyVal ty b) none (some (decide (low ty a + low ty b ≥ 2 ^ tyWidth ty))) :=
  if_neg (by simp [tyFloat_of_integer h])

/-- SUB of integers narrows the exact difference; C is the borrow. -/
theorem resSub_integer {ty : Nat} (h : tySU ty = true ∨ ty = 11) (mode : BitVec 4) (a b : Nat) :
    resSub ty mode a b = intRes ty mode true (tyVal ty a - tyVal ty b) none (some (decide (low ty a < low ty b))) :=
  if_neg (by simp [tyFloat_of_integer h])

/-- MUL of integers narrows the exact product. -/
theorem resMul_integer {ty : Nat} (h : tySU ty = true ∨ ty = 11) (mode : BitVec 4) (a b : Nat) :
    resMul ty mode a b = intRes ty mode true (tyVal ty a * tyVal ty b)
      (some (tyWrap ty (tyVal ty a * tyVal ty b / (2 ^ tyWidth ty : Nat)))) none :=
  if_neg (by simp [tyFloat_of_integer h])

/-- Settles O19: each of the three narrows the exact result. -/
theorem integerArithmetic : Obligations.IntegerArithmetic := by
  unfold Obligations.IntegerArithmetic
  intro ty mode a b h
  rw [resAdd_integer h, resSub_integer h, resMul_integer h]
  exact ⟨intRes_narrows h mode _ _ _, intRes_narrows h mode _ _ _, intRes_narrows h mode _ _ _, rfl, rfl⟩

/-! ### The flags that an operation writes (R61) -/

/-- The operation writes no flag but the listed ones. -/
structure WordRes.WritesOnly (w : WordRes) (l : List Nat) : Prop where
  mem : ∀ k, w.writes k = true → k ∈ l

/-- A longer list of flags. -/
theorem WordRes.WritesOnly.mono {w : WordRes} {l l' : List Nat} (h : w.WritesOnly l) (hl : l ⊆ l') : w.WritesOnly l' := ⟨fun k hk => hl (h.mem k hk)⟩

/-- A flag that is not listed keeps its value. -/
theorem WordRes.WritesOnly.keeps {w : WordRes} {l : List Nat} (h : w.WritesOnly l) {fl : BitVec 8} {k : Nat} (hk : k ∉ l) :
    (w.flags fl).getLsbD k = fl.getLsbD k := by
  refine w.flags_keep fl k ?_
  rw [Bool.eq_false_iff]
  exact fun hw => hk (h.mem k hw)

/-- A result with Z and N alone writes Z and N. -/
theorem zn_writesOnly (ty v : Nat) : (({} : WordRes).zn ty v).WritesOnly [0, 1] := by
  refine ⟨fun k hk => ?_⟩
  simpa [WordRes.writes, WordRes.zn] using hk

/-- Z, N and U. -/
theorem zn_u_writesOnly (ty v : Nat) (u : Bool) : ({ (({} : WordRes).zn ty v) with u := some u } : WordRes).WritesOnly [0, 1, 4] := by
  refine ⟨fun k hk => ?_⟩
  simpa [WordRes.writes, WordRes.zn, or_assoc] using hk

/-- Z, N, V with SV, and C and SI where the operation has them. -/
theorem zn_v_writesOnly (ty v : Nat) (wb : Option Nat) (c : Option Bool) (o si trap : Bool) :
    ({ (({} : WordRes).zn ty v) with wb := wb, c := c, v := some o, si := si, trap := trap } : WordRes).WritesOnly
      ([0, 1, 3, 5] ++ (if c.isSome then [2] else []) ++ if si then [6] else []) := by
  refine ⟨fun k hk => ?_⟩
  cases c <;> cases si <;> simp [WordRes.writes, WordRes.zn] at hk ⊢ <;> tauto

/-- An integer result writes Z, N, V and SV, and C where the operation has one. -/
theorem intRes_writesOnly (ty : Nat) (mode : BitVec 4) (b : Bool) (i : Int) (wb : Option Nat) (c : Option Bool) :
    (intRes ty mode b i wb c).WritesOnly ([0, 1, 3, 5] ++ if c.isSome then [2] else []) :=
  (zn_v_writesOnly ty _ wb c _ false _).mono (by simp)

/-- A floating-point result writes Z, N, V, SV and SI, and C where the operation has one. -/
theorem fpRes_writesOnly (ty : Nat) (r : FpRes) (c : Option Bool) :
    (fpRes ty r c).WritesOnly ([0, 1, 3, 5, 6] ++ if c.isSome then [2] else []) :=
  (zn_v_writesOnly ty _ none c r.v r.si false).mono (by cases c <;> cases r.si <;> simp)

/-- ADD. -/
theorem resAdd_writesOnly (ty : Nat) (mode : BitVec 4) (a b : Nat) : (resAdd ty mode a b).WritesOnly [0, 1, 2, 3, 5, 6] := by
  unfold resAdd
  split
  · exact (fpRes_writesOnly ..).mono (by simp)
  · exact (intRes_writesOnly ..).mono (by simp)

/-- SUB. -/
theorem resSub_writesOnly (ty : Nat) (mode : BitVec 4) (a b : Nat) : (resSub ty mode a b).WritesOnly [0, 1, 2, 3, 5, 6] := by
  unfold resSub
  split
  · exact (fpRes_writesOnly ..).mono (by simp)
  · exact (intRes_writesOnly ..).mono (by simp)

/-- MUL. -/
theorem resMul_writesOnly (ty : Nat) (mode : BitVec 4) (a b : Nat) : (resMul ty mode a b).WritesOnly [0, 1, 3, 5, 6] := by
  unfold resMul
  split
  · exact (fpRes_writesOnly ..).mono (by simp)
  · exact (intRes_writesOnly ..).mono (by simp)

/-- DIV: by 0 it writes nothing where it raises the trap, and else Z, N, V and SD. -/
theorem resDiv_writesOnly (ty : Nat) (mode : BitVec 4) (a b : Nat) : (resDiv ty mode a b).WritesOnly [0, 1, 3, 5, 6, 7] := by
  unfold resDiv
  dsimp only
  split
  · exact (fpRes_writesOnly ..).mono (by simp)
  · split
    · split
      · refine ⟨fun k hk => ?_⟩
        simp [WordRes.writes] at hk
      · refine ⟨fun k hk => ?_⟩
        have hk' : k = 0 ∨ k = 1 ∨ k = 3 ∨ k = 7 := by simpa [WordRes.writes, or_assoc] using hk
        rcases hk' with rfl | rfl | rfl | rfl <;> decide
    · exact (intRes_writesOnly ..).mono (by simp)

/-- The logic and shift operations. -/
theorem resBits_writesOnly (ty v : Nat) : (resBits ty v).WritesOnly [0, 1] := zn_writesOnly ty _

/-- MIN, MAX and LIMIT. -/
theorem resPick_writesOnly (ty : Nat) (l : List Nat) (v : Nat) : (resPick ty l v).WritesOnly [0, 1, 4] := by
  unfold resPick
  split <;> exact zn_u_writesOnly ..

/-- A compare. -/
theorem resCmp_writesOnly (ty : Nat) (rel : Ordering → Bool) (nan : Bool) (a b : Nat) : (resCmp ty rel nan a b).WritesOnly [4] := by
  unfold resCmp
  split <;>
  · refine ⟨fun k hk => ?_⟩
    simpa [WordRes.writes] using hk

/-- NEG. -/
theorem resNeg_writesOnly (ty : Nat) (mode : BitVec 4) (a : Nat) : (resNeg ty mode a).WritesOnly [0, 1, 3, 5] := by
  unfold resNeg
  split
  · exact (zn_writesOnly ..).mono (by simp)
  · exact (intRes_writesOnly ..).mono (by simp)

/-- ABS. -/
theorem resAbs_writesOnly (ty : Nat) (mode : BitVec 4) (a : Nat) : (resAbs ty mode a).WritesOnly [0, 1, 3, 5] := by
  unfold resAbs
  split
  · exact (zn_writesOnly ..).mono (by simp)
  · exact (intRes_writesOnly ..).mono (by simp)

/-- SQRT: V is struck from a floating-point result. -/
theorem resSqrt_writesOnly (ty : Nat) (mode : BitVec 4) (a : Nat) : (resSqrt ty mode a).WritesOnly [0, 1, 6] := by
  refine ⟨fun k hk => ?_⟩
  simp [WordRes.writes, resSqrt, fpRes, WordRes.zn] at hk ⊢
  tauto

/-- CVT: every target writes Z, N and V, a NaN and a floating-point target SI. -/
theorem resCvt_writesOnly (frm dst : Nat) (trunc : Bool) (mode : BitVec 4) (a : Nat) :
    (resCvt frm dst trunc mode a).WritesOnly [0, 1, 3, 5, 6] := by
  have hfp : ∀ r, (fpRes dst r none).WritesOnly [0, 1, 3, 5, 6] := fun r => (fpRes_writesOnly dst r none).mono (by simp)
  have hint : ∀ ty i, (cvtInt ty i).WritesOnly [0, 1, 3, 5, 6] := fun ty i => (zn_v_writesOnly ty _ none none _ false false).mono (by simp)
  unfold resCvt
  dsimp only
  split
  · split
    · exact hfp _
    · split
      · exact (zn_v_writesOnly dst _ none none true true false).mono (by simp)
      · split
        · exact hint _ _
        · exact (zn_v_writesOnly dst _ none none true false false).mono (by simp)
      · split <;> exact hint _ _
  · split
    · exact hfp _
    · split <;> exact hint _ _

/-- Settles O22: each operation's result names the flags that it writes, and every other flag is kept. -/
theorem flagFrame : Obligations.FlagFrame := by
  unfold Obligations.FlagFrame
  refine ⟨fun ty a b c mode l rel fl k => ?_, fun w fl k hk h => w.flags_sticky fl (by omega) (by omega) h⟩
  exact ⟨fun hk => (resAdd_writesOnly ty mode a b).keeps (by simpa using hk), fun hk => (resSub_writesOnly ty mode a b).keeps (by simpa using hk),
    fun hk => (resMul_writesOnly ty mode a b).keeps (by simpa using hk), fun hk => (resDiv_writesOnly ty mode a b).keeps (by simpa using hk),
    fun hk => (resBits_writesOnly ty a).keeps (by simpa using hk), fun hk => (resBits_writesOnly ty _).keeps (by simpa using hk),
    fun hk => (resBits_writesOnly ty _).keeps (by simpa using hk), fun hk => (resBits_writesOnly ty _).keeps (by simpa using hk),
    fun hk => (resBits_writesOnly ty _).keeps (by simpa using hk), fun hk => (resBits_writesOnly ty _).keeps (by simpa using hk),
    fun hk => (resPick_writesOnly ty l a).keeps (by simpa using hk), fun hk => (resCmp_writesOnly ty rel c a b).keeps (by simpa using hk),
    fun hk => (resNeg_writesOnly ty mode a).keeps (by simpa using hk), fun hk => (resAbs_writesOnly ty mode a).keeps (by simpa using hk),
    fun hk => (resSqrt_writesOnly ty mode a).keeps (by simpa using hk), fun hk => (resCvt_writesOnly ty b c mode a).keeps (by simpa using hk)⟩

end Sys2Proof.Machine
end

section
/-! PROOFS. What reading, storing and retiring leave alone, SYNC, and the instructions that steer a stream (03, R64, R83, R84, R94, R97, R101; 05,
R123, R126). -/
namespace Sys2Proof.Machine

/-! ### Storing (R84, R123) -/

/-- A store stands among the stream's own stores, whatever becomes of a speculative run. -/
theorem Mx.store_st (c : Cx) (m : Mx) (a : Nat) (bs : List Byte) : (m.store c a bs).st = { m.st with own := ovlWrL m.st.own a bs } := by
  unfold Mx.store
  dsimp only
  split
  · split <;> rfl
  · rfl

/-- Of the machine a store changes at most the two counts of the overlay pool. -/
theorem Mx.store_regsOnly (c : Cx) {m : Mx} (a : Nat) (bs : List Byte) (h : m.s.RegsOk) :
    RegsOnly m.s (m.store c a bs).s [(SPC_POOLUSE_PAGES, 0), (SPC_POOLUSE_POOLFULL, 0)] := by
  have c0 := Chg.refl h
  unfold Mx.store
  dsimp only [Mx.setSt]
  split
  · split
    · split
      · exact ⟨rfl, (c0.mono (by simp)).only⟩
      · exact ⟨rfl, ((c0.bump SPC_POOLUSE_POOLFULL 0 1).mono (by simp)).only⟩
    · exact ⟨rfl, ((c0.setF SPC_POOLUSE_PAGES _ 0).mono (by simp)).only⟩
  · exact ⟨rfl, (c0.mono (by simp)).only⟩

/-- The same of a result put where its operand stands: only in the Square is it a store. -/
theorem Mx.put_regsOnly (c : Cx) {m : Mx} (o : Opnd) (off : Nat) (bs : List Byte) (h : m.s.RegsOk) :
    RegsOnly m.s (m.put c o off bs).s [(SPC_POOLUSE_PAGES, 0), (SPC_POOLUSE_POOLFULL, 0)] := by
  cases o with
  | sq a => exact Mx.store_regsOnly c (a + off) bs h
  | scr p => exact ⟨rfl, fun _ _ _ => rfl⟩
  | reg n => exact ⟨rfl, fun _ _ _ => rfl⟩
  | imm v => exact ⟨rfl, fun _ _ _ => rfl⟩

/-- A byte put in the Square is what the stream reads there next. -/
theorem Mx.bytes_put_sq (c : Cx) (m : Mx) (a : Nat) (b : Byte) : (m.put c (.sq a) 0 [b]).bytes a 1 = [b] := by
  have hown : (m.put c (.sq a) 0 [b]).st.own = tabSet m.st.own a b := congrArg StreamRt.own (Mx.store_st c m a [b])
  simp only [Mx.bytes, Mx.byte, hown, tabGet?_tabSet_self]

/-! ### Retiring (R29, R84, R97) -/

/-- A stream put back leaves the key of its run. -/
theorem Run.withStream_key (r : Run) (k : Nat) (st : StreamRt) : (r.withStream k st).ctx = r.ctx ∧ (r.withStream k st).task = r.task := by
  unfold Run.withStream
  dsimp only
  split <;> exact ⟨rfl, rfl⟩

/-- Retiring puts the run back and, where it was a speculative one that has ended, shows it READY. -/
theorem State.flxPut_cases (s : State) (r : Run) (k : Nat) (st : StreamRt) : ∃ q : Run, q.ctx = r.ctx ∧ q.task = r.task ∧
    (s.flxPut r k st = s.putRun q ∨ s.flxPut r k st = (s.putRun q).specState r.task 3) := by
  unfold State.flxPut
  dsimp only
  generalize (if (decide (r.st ≠ .on) && !st.inside) = true then { st with lane := none } else st) = st'
  obtain ⟨hc, ht⟩ := r.withStream_key k st'
  refine ⟨r.withStream k st', hc, ht, ?_⟩
  split
  · exact .inr (by rw [ht])
  · exact .inl rfl

/-- Setting SSTATE, of any task. -/
theorem State.specState_chg {s : State} (h : s.RegsOk) (t st : Nat) :
    Chg s (s.specState t st) [(SPC_TASKSTAT_SSTATE, t), (SPC_CTL_INFLIGHT, 0)] :=
  (((Chg.refl h).setF SPC_TASKSTAT_SSTATE st t).setF SPC_CTL_INFLIGHT _ 0).mono (by simp)

/-- A run put stands under its key. -/
theorem State.run?_putRun_self (s : State) (r : Run) : (s.putRun r).run? r.ctx r.task = some r := tabGet?_tabSet_self ..

/-- Putting a run leaves the runs under every other key. -/
theorem State.run?_putRun_ne (s : State) {r : Run} {c : Ctx} {n : Nat} (h : c.key n ≠ r.ctx.key r.task) : (s.putRun r).run? c n = s.run? c n :=
  tabGet?_tabSet_ne _ r h

/-- What retiring changes: the run under its key, and the registers that show a speculative run. -/
theorem State.flxPut_frame {s : State} (h : s.RegsOk) (r : Run) (k : Nat) (st : StreamRt) :
    s.flxPut r k st = { s with regs := (s.flxPut r k st).regs, sched := { s.sched with runs := (s.flxPut r k st).sched.runs } } ∧
    OnlyRegs s (s.flxPut r k st) [(SPC_TASKSTAT_SSTATE, r.task), (SPC_CTL_INFLIGHT, 0)] ∧
    ∀ (c : Ctx) (n : Nat), c.key n ≠ r.ctx.key r.task → (s.flxPut r k st).run? c n = s.run? c n := by
  obtain ⟨q, hc, ht, e | e⟩ := s.flxPut_cases r k st
  all_goals rw [e, ← hc, ← ht]
  · exact ⟨rfl, fun _ _ _ => rfl, fun c n hk => s.run?_putRun_ne hk⟩
  · have hput : Chg s (s.putRun q) [] := (Chg.refl h).same rfl
    exact ⟨rfl, ((hput.trans (State.specState_chg hput.ok q.task 3)).mono (by simp)).only, fun c n hk => s.run?_putRun_ne hk⟩

/-- With no exception of the task's real run due, settling it changes nothing. -/
theorem State.settle_undue {s : State} {t : Nat} (h : ∀ q, s.run? .real t = some q →
    (q.st = .xcp && (q.held.isSome || q.abandoned) && q.streams.all (fun x => x.lane.isNone) && !s.undecided t) = false) : s.settle t = s := by
  unfold State.settle
  split
  · rfl
  · next q hq => exact if_neg (by rw [h q hq]; decide)

/-- Settles O23: a read of any kind is a chain of reads, a store at most takes pages of the pool, and retiring puts one run back. -/
theorem flxFrame : Obligations.FlxFrame := by
  unfold Obligations.FlxFrame
  refine ⟨fun c m m' v h => Mx.source_reads c m v m' h, fun c m m' b h => Mx.bool_reads c m b m' h,
    fun c m m' o n al rd wr h => Mx.operand_reads c m n al rd wr o m' h, fun c m m' p ty al h => Mx.address_reads c m ty al p m' h,
    fun c m m' x n al h => Mx.recordOp_reads c m n al x m' h, fun c m o off bs h => Mx.put_regsOnly c o off bs h,
    fun k r i m a t h ht => ?_⟩
  subst ht
  obtain ⟨hstate, hregs, hruns⟩ := State.flxPut_frame h m.r k.stream.val (doneStream k r i m a)
  exact ⟨hstate, hregs, hruns, State.settle_undue⟩

/-! ### SYNC_RELEASE (R84) -/

/-- All streams of a cycle at a SYNC or ended, one waiting: their stores are shared and the waiting ones go on. -/
theorem State.syncShare_waiting {s : State} {c : Ctx} {t : Nat} {r : Run} (hr : s.run? c t = some r) (hall : ∀ x ∈ r.streams, x.st ≠ .go)
    (hany : ∃ x ∈ r.streams, x.st = .sync) : s.syncShare c t = s.putRun { r with
      shared := r.stores,
      streams := r.streams.map (fun x => { x with own := [], st := if x.st = .sync then .go else x.st }) } := by
  unfold State.syncShare
  rw [hr]
  exact if_pos (by simpa using ⟨hall, hany⟩)

/-- A stream that still executes holds the SYNC. -/
theorem State.syncShare_going {s : State} {c : Ctx} {t : Nat} {r : Run} (hr : s.run? c t = some r) (hgo : ∃ x ∈ r.streams, x.st = .go) :
    s.syncShare c t = s := by
  obtain ⟨x, hx, hxgo⟩ := hgo
  unfold State.syncShare
  rw [hr]
  refine if_neg ?_
  simp only [Bool.and_eq_true, List.all_eq_true, decide_eq_true_eq, not_and]
  exact fun hall => absurd hxgo (hall x hx)

/-- Settles O16: the run is put back with its stores shared, or the command does nothing. -/
theorem syncRelease : Obligations.SyncRelease := by
  unfold Obligations.SyncRelease
  refine ⟨fun c t s r hr hall hany => ⟨_, congrArg Host.Outcome.next (State.syncShare_waiting hr hall hany), rfl, State.run?_putRun_self ..⟩,
    fun c t s r hr hgo => ⟨_, congrArg Host.Outcome.next (State.syncShare_going hr hgo), rfl⟩⟩

/-! ### END, SYNC, MODESET, SETEV, DIAG and TRAP -/

/-- Settles O14: each meaning tells where its stream goes on; SETEV and DIAG note their effect in the run. -/
theorem flxSteering : Obligations.FlxSteering := by
  unfold Obligations.FlxSteering
  intro s k e r d st i hk
  exact ⟨fun h hn => congrArg Host.Outcome.next (h.flx (semEnd_nil hn) nofun hk), fun h => congrArg Host.Outcome.next (h.flx (sem := semSync) rfl nofun hk),
    fun h => congrArg Host.Outcome.next (h.flx (sem := semModeset) rfl nofun hk), fun h => h.completes rfl hk, fun h => h.completes rfl hk,
    fun h => congrArg Host.Outcome.next (h.flx_trap (sem := semTrap) rfl h.on hk)⟩

end Sys2Proof.Machine
end

section
/-! PROOFS. The table, block-move, timer, counter, edge and live-read instructions of FLX (03, R76 to R80, R82; 06, R146, R147). -/
namespace Sys2Proof.Machine

/-! ### TBL, LIN and MOVB (R76) -/

/-- TBL where the table is in range and the chosen entry reads. -/
theorem semTbl_of_entry {c : Cx} {m m1 m2 : Mx} {o : Opnd} {n j : Nat} {bs : List Byte} (ht : m.table c 1 65536 = .ok (o, n) m1)
    (hj : j = if sgn 64 m1.st.wa.toNat < 0 then 0 else min (sgn 64 m1.st.wa.toNat).toNat (n - 1))
    (hb : m1.more c o (8 + j * tySize c.i.ty) (tySize c.i.ty) = .ok bs m2) :
    semTbl c m = .ok .next { m2 with st := { m2.st with
      wa := BitVec.ofNat 64 (ext c.i.ty (leNat bs)),
      fl := ({ v := some (decide (sgn 64 m1.st.wa.toNat ≠ j)) } : WordRes).flags m2.st.fl } } := by
  subst hj
  unfold semTbl
  rw [ht]
  dsimp only [XR.bind]
  rw [hb]
  rfl

/-- LIN where the table is in range, reads, and is in order. -/
theorem semLin_of_points {c : Cx} {m m1 m2 : Mx} {o : Opnd} {n : Nat} {bs : List Byte} (ht : m.table c 2 32 = .ok (o, n) m1)
    (hb : m1.more c o 8 (2 * n * tySize c.i.ty) = .ok bs m2) (ho : linOrdered c.i.ty (linPairs (tySize c.i.ty) n bs) = true) {f : FpRes}
    (hf : f = if tyNan c.i.ty (low c.i.ty m2.st.wa.toNat) then ⟨(fmtOf c.i.ty).defNan, false, true⟩
      else linEval c.i.ty (modeRnd m2.st.mode) (low c.i.ty m2.st.wa.toNat) (linPairs (tySize c.i.ty) n bs)) :
    semLin c m = .ok .next { m2 with st := { m2.st with
      wa := BitVec.ofNat 64 f.bits,
      fl := ({ v := some f.v, si := f.si } : WordRes).flags m2.st.fl } } := by
  subst hf
  unfold semLin
  rw [ht]
  dsimp only [XR.bind]
  rw [hb]
  dsimp only
  rw [if_neg (by simp [ho])]
  rfl

/-- MOVB of no bytes. -/
theorem semMovb_of_zero {c : Cx} {m : Mx} (h : m.st.wb.toNat % 2 ^ 20 = 0) : semMovb c m = .ok .next m := if_pos h

/-- MOVB where the source reads and the destination may be written. -/
theorem semMovb_of_bytes {c : Cx} {m m1 m2 : Mx} {o : Opnd} {bs : List Byte} (h0 : m.st.wb.toNat % 2 ^ 20 ≠ 0)
    (ho : m.operand c (m.st.wb.toNat % 2 ^ 20) 1 true false = .ok o m1)
    (hw : m1.s.laneRefuses c.e.newRules c.t .wr (m.st.wa.toNat % 2 ^ 40) (m.st.wb.toNat % 2 ^ 20) = none)
    (hb : m1.fetch c o 0 (m.st.wb.toNat % 2 ^ 20) = .ok bs m2) : semMovb c m = .ok .next (m2.store c (m.st.wa.toNat % 2 ^ 40) bs) := by
  unfold semMovb
  dsimp only
  rw [if_neg h0, ho]
  dsimp only [XR.bind]
  rw [hw]
  dsimp only
  rw [hb]

/-- Settles O9: each meaning goes on once its reads have gone through. -/
theorem flxTables : Obligations.FlxTables := by
  unfold Obligations.FlxTables
  exact ⟨fun s k e r d st i o n j m m' bs ht hj hb hk h => h.completes (semTbl_of_entry ht hj hb) hk,
    fun s k e r d st i o n m m' bs f ht hb ho hf hk h => h.completes (semLin_of_points ht hb ho hf) hk,
    fun s k e r d st i h0 hk h => h.completes (semMovb_of_zero h0) hk,
    fun s k e r d st i o m m' bs h0 ho hw hb hk h => h.completes (semMovb_of_bytes h0 ho hw hb) hk⟩

/-! ### Timers and counters (R77 to R79) -/

/-- The timer that a record holds. -/
def timerOf (bs : List Byte) : Timer :=
  ⟨bitOf (recNum bs 1 1) 0, bitOf (recNum bs 1 1) 1, bitOf (recNum bs 1 1) 2, recNum bs 8 8, recNum bs 16 8⟩

/-- A timer's STATE, START and ET put into its record. -/
def Mx.putTimer (c : Cx) (m : Mx) (o : Opnd) (t : Timer) : Mx :=
  (m.put c o 1 [BitVec.ofNat 8 (b2n m.st.la + 2 * b2n t.q + 4 * b2n t.run)]).put c o 8 (natLe 8 t.start ++ natLe 8 t.et)

/-- A timer instruction on a record of its TYPE. -/
theorem semTimer_of_record {type : Nat} {step : Nat → Nat → Bool → Timer → Timer} {c : Cx} {m m1 m2 : Mx} {o : Opnd} {bs : List Byte} {t : Timer}
    (hr : m.recordOp c 32 8 = .ok (o, bs) m1) (hst : recNum bs 1 1 < 8) (h2 : recNum bs 2 6 = 0) (h24 : recNum bs 24 8 = 0)
    (hty : recNum bs 0 1 = type) (ht : t = step (relTime m1.r.rel) (sgn 64 m1.st.wa.toNat).toNat m1.st.la (timerOf bs))
    (hm : m2 = m1.putTimer c o t) :
    semTimer type step c m = .ok .next { m2 with st := { m2.st with la := t.q, wa := BitVec.ofNat 64 t.et } } := by
  subst ht hm
  unfold semTimer
  rw [hr]
  dsimp only [XR.bind]
  rw [if_neg (by simp [hty, h2, h24, Nat.div_eq_of_lt hst])]
  rfl

/-- Settles O10: the three timers differ in the TYPE of their record and in their step. -/
theorem flxTimers : Obligations.FlxTimers := by
  unfold Obligations.FlxTimers
  intro s k e r d st i o bs m hr hst h2 h24
  exact ⟨fun t m' hty ht hm hk h => h.completes (semTimer_of_record hr hst h2 h24 hty ht hm) hk,
    fun t m' hty ht hm hk h => h.completes (semTimer_of_record hr hst h2 h24 hty ht hm) hk,
    fun t m' hty ht hm hk h => h.completes (semTimer_of_record hr hst h2 h24 hty ht hm) hk⟩

/-- The counter that a record holds. -/
def counterOf (bs : List Byte) : Counter :=
  ⟨bitOf (recNum bs 1 1) 0, bitOf (recNum bs 1 1) 1, bitOf (recNum bs 1 1) 2, bitOf (recNum bs 1 1) 3, sgn 64 (recNum bs 8 8)⟩

/-- A counter's STATE and CV put into its record. -/
def Mx.putCounter (c : Cx) (m : Mx) (o : Opnd) (x : Counter) : Mx :=
  (m.put c o 1 [BitVec.ofNat 8 (b2n x.cu + 2 * b2n x.cd + 4 * b2n x.rst + 8 * b2n x.ldr)]).put c o 8 (natLe 8 (unsgn 64 x.cv))

/-- A counter instruction on a record of a TYPE that it permits. -/
theorem semCounter_of_record {types : List Nat} {f : StreamRt → Counter → Counter × StreamRt} {c : Cx} {m m1 m2 : Mx} {o : Opnd} {bs : List Byte}
    (hr : m.recordOp c 16 8 = .ok (o, bs) m1) (hst : recNum bs 1 1 < 16) (h2 : recNum bs 2 6 = 0) (hty : recNum bs 0 1 ∈ types)
    (hm : m2 = m1.putCounter c o (f m1.st (counterOf bs)).1) :
    semCounter types f c m = .ok .next { m2 with st := { m2.st with
      la := (f m1.st (counterOf bs)).2.la, wa := (f m1.st (counterOf bs)).2.wa, wb := (f m1.st (counterOf bs)).2.wb } } := by
  subst hm
  unfold semCounter
  rw [hr]
  dsimp only [XR.bind]
  rw [if_neg (by simp [hty, h2, Nat.div_eq_of_lt hst])]
  rfl

/-- Settles O11: the five differ in the TYPEs they permit and in what they make of the counter and LA, WA and WB. -/
theorem flxCounters : Obligations.FlxCounters := by
  unfold Obligations.FlxCounters
  intro s k e r d st i o bs m hr hst h2
  refine ⟨fun m' hty hm hk h => ?_, fun m' hty hm hk h => ?_, fun cv m' hcv hty hm hk h => ?_, fun cv m' hcv hty hm hk h => ?_,
    fun cv m' hcv hty hm hk h => ?_⟩
  · exact h.completes (semCounter_of_record hr hst h2 (by simpa using hty) hm) hk
  · exact h.completes (semCounter_of_record hr hst h2 (by simpa using hty) hm) hk
  all_goals
    subst hcv
    exact h.completes (semCounter_of_record hr hst h2 (by simp [hty]) hm) hk

/-! ### Edges (R80) -/

/-- An edge detector on a record that holds 0 or 1. -/
theorem semEdge_of_record {f : Bool → Bool → Bool} {c : Cx} {m m1 m2 : Mx} {o : Opnd} {b : Bool}
    (hr : m.recordOp c 1 1 = .ok (o, [if b then 1 else 0]) m1) (hm : m2 = m1.put c o 0 [if m1.st.la then 1 else 0]) :
    semEdge f c m = .ok .next { m2 with st := { m2.st with la := f m1.st.la b } } := by
  subst hm
  unfold semEdge
  rw [hr]
  dsimp only [XR.bind]
  have hb : leNat [if b then 1 else 0] = b2n b := by cases b <;> rfl
  rw [hb, if_neg (by cases b <;> decide), show decide (b2n b = 1) = b by cases b <;> rfl]
  rfl

/-- Settles O12: the pulse is told from LA and M, and the M put back is what the stream reads next. -/
theorem flxEdges : Obligations.FlxEdges := by
  unfold Obligations.FlxEdges
  refine ⟨fun s k e r d st i o b m m' hr hm hk => ⟨fun h => h.completes (semEdge_of_record hr hm) hk, fun h => ?_⟩,
    fun c m a b => Mx.bytes_put_sq c m a _⟩
  rw [Bool.and_comm b]
  exact h.completes (semEdge_of_record hr hm) hk

/-! ### Live reads (R82, R146, R147) -/

/-- A live read whose two copies take one value. -/
theorem semLive_agreed {high : Bool} {c : Cx} {m m1 m2 : Mx} {p : Nat × Bool} (hp : m.address c c.i.ty (tySize c.i.ty) = .ok p m1)
    (hc : m1.check c .live p.1 (tySize c.i.ty) = .ok () m2)
    (hv : liveVal c.i.ty (m2.s.deviceRead p.1) c.e.prim = liveVal c.i.ty (m2.s.deviceRead p.1) c.e.shad) :
    semLive high c m = .ok .next { m2 with st := { m2.st with
      wa := BitVec.ofNat 64 (ext c.i.ty (liveVal c.i.ty (m2.s.deviceRead p.1) c.e.prim)) } } := by
  unfold semLive
  dsimp only
  rw [hp]
  dsimp only [XR.bind]
  rw [hc]
  exact if_pos hv

/-- A live read whose copies differ and whose second read agrees: one divergence more. -/
theorem semLive_replayed {high : Bool} {c : Cx} {m m1 m2 : Mx} {p : Nat × Bool} (hp : m.address c c.i.ty (tySize c.i.ty) = .ok p m1)
    (hc : m1.check c .live p.1 (tySize c.i.ty) = .ok () m2)
    (hv : liveVal c.i.ty (m2.s.deviceRead p.1) c.e.prim ≠ liveVal c.i.ty (m2.s.deviceRead p.1) c.e.shad)
    (hv2 : liveVal c.i.ty (m2.s.deviceRead p.1) c.e.prim2 = liveVal c.i.ty (m2.s.deviceRead p.1) c.e.shad2)
    (hn : (m2.s.bump XNG_DIVCNT_DIVCNT).flag XNG_CTL_DIVEVT = false) :
    semLive high c m = .ok .next ⟨m2.s.bump XNG_DIVCNT_DIVCNT, m2.r, { m2.st with
      wa := BitVec.ofNat 64 (ext c.i.ty (liveVal c.i.ty (m2.s.deviceRead p.1) c.e.prim2)) }⟩ := by
  unfold semLive
  dsimp only
  rw [hp]
  dsimp only [XR.bind]
  rw [hc]
  dsimp only
  rw [if_neg hv, if_pos hv2, hn]
  rfl

/-- Settles O15: LDLIVE and LDLIVEH differ only where the second read disagrees too. -/
theorem flxLiveReads : Obligations.FlxLiveReads := by
  unfold Obligations.FlxLiveReads
  intro s k e r d st i p m m' hp hc hk
  exact ⟨fun h hv => h.completes (semLive_agreed hp hc hv) hk, fun h hv => h.completes (semLive_agreed hp hc hv) hk,
    fun h hv hv2 hn => h.completes (semLive_replayed hp hc hv hv2 hn) hk, fun h hv hv2 hn => h.completes (semLive_replayed hp hc hv hv2 hn) hk⟩

end Sys2Proof.Machine
end

section
/-! PROOFS. Delayed branches, the call depth, hardware loops and what bars a control instruction from a MODESET shadow (04, R86 to R95). -/
namespace Sys2Proof.Machine

/-- An instruction whose meaning ends without a program trap retires, its stream going on where the meaning says. -/
theorem AtInstr.retires {s : State} {k : Strm} {e : Env} {row : FlxRow} {r : Run} {d : TaskDef} {st : StreamRt} {i : FlxW}
    (h : AtInstr s k e row r d st i) {sem : Sem} {a : After} {m : Mx} (hs : sem (instrCx k e r d st i) (met s e r st) = .ok a m)
    (ha : ∀ c, a ≠ .trap c) (hk : kept r.ctx m.r) : done (s.flx k e row sem) = .next (retired k r i m a) :=
  congrArg Host.Outcome.next (h.flx hs ha hk)

/-! ### JMP, CALL and RET (R86, R87, R89) -/

/-- A JMP that neither its place nor its slot forbids. -/
theorem semJmp_of_placed {c : Cx} {m : Mx} (hb : branchBad c m = none) :
    semJmp c m = .ok (.branch ⟨m.st.pc, condHolds c.i.cond m.st.la, brTarget c m, .jmp⟩) m := by
  unfold semJmp
  rw [hb]

/-- Such a CALL whose COND does not hold. -/
theorem semCall_of_untaken {c : Cx} {m : Mx} (hb : branchBad c m = none) (hc : condHolds c.i.cond m.st.la = false) :
    semCall c m = .ok (.branch ⟨m.st.pc, false, brTarget c m, .call⟩) m := by
  unfold semCall
  rw [hb, hc]
  rfl

/-- Such a CALL whose COND holds, told by the depth it finds. -/
theorem semCall_of_taken {c : Cx} {m : Mx} (hb : branchBad c m = none) (hc : condHolds c.i.cond m.st.la = true) :
    semCall c m = if m.st.depth ≥ 255 then .xcp ⟨0x0E, 0, 0, 0⟩ m
      else .ok (.branch ⟨m.st.pc, true, brTarget c m, .call⟩) { m with st := m.st.setReg 15 (afterSlot c m) } := by
  unfold semCall
  rw [hb, hc]
  simp only [Bool.true_and, decide_eq_true_eq]
  rfl

/-- A RET that neither its place nor its slot forbids, told by the depth it finds. -/
theorem semRet_of_placed {c : Cx} {m : Mx} (hb : branchBad c m = none) :
    semRet c m = if m.st.depth = 0 then .xcp ⟨0x0E, 0, 0, 0⟩ m else .ok (.branch ⟨m.st.pc, true, m.st.reg 15 % 2 ^ 32, .ret⟩) m := by
  unfold semRet
  rw [hb]
  rfl

section
variable {s : State} {k : Strm} {e : Env} {r : Run} {d : TaskDef} {st : StreamRt} {i : FlxW}
  (hb : branchBad (instrCx k e r d st i) (met s e r st) = none)
include hb

/-- A taken CALL with room in the call depth retires, the address after its slot in W15. -/
theorem AtInstr.call_enters (h : AtInstr s k e .call r d st i) (hc : condHolds i.cond st.la = true) (hd : st.depth < 255) (hk : kept r.ctx r) :
    exec (.call k e) s = .next (retired k r i ⟨(met s e r st).s, r, st.setReg 15 (afterSlot (instrCx k e r d st i) (met s e r st))⟩
      (.branch ⟨st.pc, true, brTarget (instrCx k e r d st i) (met s e r st), .call⟩)) :=
  h.retires ((semCall_of_taken hb hc).trans (if_neg (Nat.not_le.2 hd))) nofun hk

/-- A taken CALL at the greatest depth raises the call-depth fault. -/
theorem AtInstr.call_tooDeep (h : AtInstr s k e .call r d st i) (hc : condHolds i.cond st.la = true) (hd : st.depth ≥ 255) :
    exec (.call k e) s = .next (raised k r i (met s e r st) st ⟨0x0E, 0, 0, 0⟩ none) :=
  h.raises (.refl _) ((semCall_of_taken hb hc).trans (if_pos hd))

/-- A RET above depth 0 retires, taken, to W15. -/
theorem AtInstr.ret_leaves (h : AtInstr s k e .ret r d st i) (hd : 0 < st.depth) (hk : kept r.ctx r) :
    exec (.ret k e) s = .next (retired k r i (met s e r st) (.branch ⟨st.pc, true, st.reg 15 % 2 ^ 32, .ret⟩)) :=
  h.retires ((semRet_of_placed hb).trans (if_neg (Nat.ne_of_gt hd))) nofun hk

/-- A RET at depth 0 raises the call-depth fault. -/
theorem AtInstr.ret_outermost (h : AtInstr s k e .ret r d st i) (hd : st.depth = 0) :
    exec (.ret k e) s = .next (raised k r i (met s e r st) st ⟨0x0E, 0, 0, 0⟩ none) :=
  h.raises (.refl _) ((semRet_of_placed hb).trans (if_pos hd))

end

/-! ### The call depth over a branch and its slot (R86, R89) -/

/-- A shadow position that has executed leaves the call depth. -/
@[simp] theorem StreamRt.shade_depth (st : StreamRt) : st.shade.depth = st.depth := by
  unfold StreamRt.shade
  split
  · rfl
  · split <;> rfl

/-- A branch that retires is due after its slot. -/
theorem StreamRt.retire_branch_br (st : StreamRt) (size : Nat) (b : Branch) (lanes : Nat) : (st.retire size (.branch b) lanes).br = some b := rfl

/-- By itself it leaves the call depth. -/
theorem StreamRt.retire_branch_depth (st : StreamRt) (size : Nat) (b : Branch) (lanes : Nat) :
    (st.retire size (.branch b) lanes).depth = st.depth := st.shade_depth

/-- The call depth after branch `b` from depth `n`. -/
def Branch.depthFrom (b : Branch) (n : Nat) : Nat :=
  if b.taken then (match b.kind with | .call => n + 1 | .ret => n - 1 | .jmp => n) else n

/-- A branch that takes effect moves the depth by its kind, if it is taken. -/
theorem StreamRt.land_depth (st : StreamRt) (b : Branch) (next : Nat) : (st.land b next).depth = b.depthFrom st.depth := by
  unfold StreamRt.land Branch.depthFrom
  split
  · cases b.kind <;> rfl
  · rfl

/-- The instruction in the slot of a branch retires with the branch taking effect. -/
theorem StreamRt.retire_slot_depth {st : StreamRt} {b : Branch} (h : st.br = some b) (size lanes : Nat) :
    (st.retire size .next lanes).depth = b.depthFrom st.depth := by
  unfold StreamRt.retire
  rw [h]
  exact (StreamRt.land_depth ..).trans (congrArg b.depthFrom st.shade_depth)

/-- Settles O18: the depth moves when a taken branch takes effect, and the two bounds are what the meanings of CALL and RET test. -/
theorem callDepth : Obligations.CallDepth := by
  unfold Obligations.CallDepth
  refine ⟨fun d k => rfl, fun st b size size' lanes => ?_, fun s k e r d st i hb hc hd h => h.call_tooDeep hb hc hd,
    fun s k e r d st i hb hc hd hk h => h.call_enters hb hc hd hk, fun s k e r d st i hb hd h => h.ret_outermost hb hd,
    fun s k e r d st i hb hd hk h => h.ret_leaves hb hd hk⟩
  exact (StreamRt.retire_slot_depth (st.retire_branch_br ..) ..).trans (congrArg b.depthFrom (st.retire_branch_depth ..))

/-! ### LOOP and LOOPW (R90, R92) -/

/-- A loop instruction whose body ends within the innermost level, with fewer than four levels open, told by its count. -/
theorem semLoop_of_room {count : Cx → Mx → Nat} {c : Cx} {m : Mx} (hl : ∀ l ∈ m.st.lvs.head?, m.st.pc + 4 * c.i.len ≤ l.last)
    (h4 : m.st.lvs.length < 4) :
    semLoop count c m = if count c m = 0 then .ok (.goto (m.st.pc + 4 + 4 * c.i.len)) m
      else .ok (.goto (m.st.pc + 4))
        { m with st := { m.st with lvs := ⟨m.st.pc + 4, m.st.pc + 4 * c.i.len, count c m, m.st.depth⟩ :: m.st.lvs } } := by
  unfold semLoop
  dsimp only
  rw [if_neg ?within, if_neg (Nat.not_le.2 h4)]
  · rfl
  case within =>
    split
    · next l ls hls =>
      have hle := hl l (by rw [hls]; rfl)
      simpa using hle
    · exact Bool.false_ne_true

section
variable {s : State} {k : Strm} {e : Env} {row : FlxRow} {r : Run} {d : TaskDef} {st : StreamRt} {i : FlxW} {count : Cx → Mx → Nat} {n : Nat}
  (h : AtInstr s k e row r d st i) (hl : ∀ l ∈ st.lvs.head?, st.pc + 4 * i.len ≤ l.last) (h4 : st.lvs.length < 4) (hk : kept r.ctx r)
  (hn : n = count (instrCx k e r d st i) (met s e r st))
include h hl h4 hk hn

/-- With count 0 the stream goes on after the body. -/
theorem AtInstr.loop_skips (h0 : n = 0) :
    done (s.flx k e row (semLoop count)) = .next (retired k r i (met s e r st) (.goto (st.pc + 4 + 4 * i.len))) :=
  h.retires ((semLoop_of_room hl h4).trans (if_pos (hn ▸ h0))) nofun hk

/-- With another count a level is opened, and the stream goes on at the body. -/
theorem AtInstr.loop_opens (h0 : n ≠ 0) :
    done (s.flx k e row (semLoop count)) = .next (retired k r i
      ⟨(met s e r st).s, r, { st with lvs := ⟨st.pc + 4, st.pc + 4 * i.len, n, st.depth⟩ :: st.lvs }⟩ (.goto (st.pc + 4))) := by
  subst hn
  exact h.retires ((semLoop_of_room hl h4).trans (if_neg h0)) nofun hk

end

/-- Settles O13: a branch is told by its COND and the depth it finds, a loop instruction by its count. -/
theorem flxBranches : Obligations.FlxBranches := by
  unfold Obligations.FlxBranches
  refine ⟨fun s k e r d st i hb hk => ?_, fun s k e r d st i n hl h4 hk => ?_⟩
  · exact ⟨fun h => h.retires (semJmp_of_placed hb) nofun hk, fun h hc => h.retires (semCall_of_untaken hb hc) nofun hk,
      fun h hc hd => h.call_enters hb hc hd hk, fun h hd => h.ret_leaves hb hd hk⟩
  · exact ⟨fun h hn h0 => h.loop_skips hl h4 hk hn h0, fun h hn h0 => h.loop_opens hl h4 hk hn h0,
      fun h hn h0 => h.loop_skips hl h4 hk hn h0, fun h hn h0 => h.loop_opens hl h4 hk hn h0⟩

/-! ### Control instructions in a MODESET shadow (R95) -/

/-- In a MODESET shadow a control instruction, whatever its meaning, raises the illegal-instruction exception. -/
theorem AtWord.barred_in_shadow {s : State} {k : Strm} {e : Env} {row : FlxRow} {r : Run} {d : TaskDef} {st : StreamRt} {i : FlxW}
    (h : AtWord s k e row r d st i) {sem : Sem} (hs : st.sh.isSome = true) (hc : row.control = true) :
    done (s.flx k e row sem) = .next (raised k r i (met s e r st) st ⟨0x03, 0x05, 0, 0⟩ none) :=
  congrArg Host.Outcome.next (h.flx_shadow h.on hs hc)

/-- Settles O17: each of the eight rows is a control row. -/
theorem shadowBarsControl : Obligations.ShadowBarsControl := by
  unfold Obligations.ShadowBarsControl
  intro s k e r d st i hs
  exact ⟨fun h => h.barred_in_shadow hs rfl, fun h => h.barred_in_shadow hs rfl, fun h => h.barred_in_shadow hs rfl,
    fun h => h.barred_in_shadow hs rfl, fun h => h.barred_in_shadow hs rfl, fun h => h.barred_in_shadow hs rfl,
    fun h => h.barred_in_shadow hs rfl, fun h => h.barred_in_shadow hs rfl⟩

end Sys2Proof.Machine
end


section
/-! PROOFS. How a speculative run starts and is discarded, and how a suspension ends (05, R117, R121, R127 to R132, R139). -/
namespace Sys2Proof.Machine

/-! ### SPEC_RUN_START (R117, R121) -/

/-- SPEC_RUN_START where the conditions of a run hold: a run for the next grid tick, and SSTATE. -/
theorem execSpecRunStart_due {s : State} {k : TaskNo} {d : TaskDef} (hd : s.taskDef? k.val = some d) (hready : s.specReady k.val = true)
    (hspec : s.run? .spec k.val = none) (hreal : s.run? .real k.val = none) {g : Nat} (hg : (s.taskRt k.val).lastG + s.getF SCH_TASKCFG_PERIOD k.val = g)
    (htick : s.tick < g) (hlead : s.specLead k.val g = true) :
    execSpecRunStart k s = .next ((s.putRun { s.newRun d .spec g g (s.taskRt k.val).lastImg [] with gens := s.specGens }).specState k.val 2) := by
  unfold execSpecRunStart
  simp only [hd, hg, hready, hspec, hreal, htick, hlead, Option.isNone_none, decide_true, Bool.and_true, if_true]

/-- The start instant of a run has come where SPECLEAD is 0, or the grid tick is SPECLEAD µs or less away. -/
theorem State.specLead_of {s : State} {t g : Nat}
    (h : s.getF SPC_TASKCFG_SPECLEAD t = 0 ∨ g * 62500 < s.now + 62500 + s.getF SPC_TASKCFG_SPECLEAD t * 1000) : s.specLead t g = true := by
  unfold State.specLead
  simpa using h

/-- A speculative run put, with SSTATE RUNNING: the run stands under its task, and beside it only the registers that show it change. -/
theorem State.specStart_does {s : State} (h : s.RegsOk) {r : Run} {t : Nat} (hc : r.ctx = .spec) (hk : r.task = t) (ht : t < 65536) :
    ((s.putRun r).specState t 2).run? .spec t = some r ∧ ((s.putRun r).specState t 2).getF SPC_TASKSTAT_SSTATE t = 2 ∧
    (s.putRun r).specState t 2 =
      { s with regs := ((s.putRun r).specState t 2).regs, sched := { s.sched with runs := ((s.putRun r).specState t 2).sched.runs } } ∧
    OnlyRegs s ((s.putRun r).specState t 2) [(SPC_TASKSTAT_SSTATE, t), (SPC_CTL_INFLIGHT, 0)] := by
  have c0 : Chg s (s.putRun r) [] := (Chg.refl h).same rfl
  obtain ⟨hst, c, -⟩ := State.specState_does c0.ok ht (st := 2) (by decide)
  have hrun : (s.putRun r).run? .spec t = some r := by rw [← hc, ← hk]; exact s.run?_putRun_self r
  exact ⟨hrun, hst, rfl, (c0.trans c).only.mono (by simp)⟩

/-! ### SPEC_UNDONE and SPEC_DECISION that discard a run (R127, R131) -/

/-- SPEC_UNDONE of a run of the right generations that is not complete: it is undone. -/
theorem execSpecUndone_undone {s : State} {k : TaskNo} {r q : Run} (hr : s.run? .spec k.val = some r) (hq : s.run? .real k.val = some q)
    (hst : r.st ≠ .ended) (hheld : r.held = none) (hgens : r.gens = s.specGens) (hrel : q.rel = r.rel) :
    execSpecUndone k s = .next ((s.specEnd k.val 3).settle k.val) := by
  unfold execSpecUndone
  simp only [hr, hq]
  rw [if_neg (by simp [hst, hheld]), if_neg (by simp [hgens, hrel])]

/-- SPEC_DECISION of a complete run whose generations have changed: it is invalidated. -/
theorem execSpecDecision_invalid {s : State} {k : TaskNo} {arb : List (Fin 8 × Nat)} {r q : Run} (hr : s.run? .spec k.val = some r)
    (hq : s.run? .real k.val = some q) (hst : r.st = .ended) (hab : r.abandoned = false) (hgens : r.gens ≠ s.specGens) :
    execSpecDecision k arb s = .next ((s.specEnd k.val 1).settle k.val) := by
  unfold execSpecDecision
  simp only [hr, hq]
  rw [if_neg (by simp [hst, hab]), if_pos (by simp [hgens])]

/-- A speculative and a real run stand under different keys. -/
theorem Ctx.real_key_ne_spec_key (k : TaskNo) : Ctx.real.key k.val ≠ Ctx.spec.key k.val := by
  show k.val ≠ 256 + k.val
  omega

/-- A run is discarded where the real cycle holds no exception: nothing is raised, the run is no more, and beside the executions only what shows the
discard changes. -/
theorem State.specEnd_settled {s : State} (h : s.RegsOk) (hr : tabRising s.sched.runs = true) {k : TaskNo} {why : Nat} {r q : Run}
    (hx : s.run? .spec k.val = some r) (hq : s.run? .real k.val = some q) (hst : q.st ≠ .xcp) {t : State}
    (ht : (s.specEnd k.val why).settle k.val = t) :
    t.run? .spec k.val = none ∧ t = { s with regs := t.regs, sched := t.sched } ∧
    OnlyRegs s t ([(SPC_POOLUSE_PAGES, 0), (specWhy why, k.val), (SPC_TASKCNT_DISCCNT, k.val)] ++ specFields k.val) ∧
    t.sched.runs = tabDel s.sched.runs (256 + k.val) := by
  obtain ⟨hnone, c, g, sc, e, hruns⟩ := State.specEnd_does h hr k.isLt (why := why) hx
  have hreal : (s.specEnd k.val why).run? .real k.val = some q := by
    unfold State.run?
    rw [e, hruns, tabGet?_tabDel_ne _ hr (Ctx.real_key_ne_spec_key k)]
    exact hq
  have hsettle : (s.specEnd k.val why).settle k.val = s.specEnd k.val why := by
    refine State.settle_undue fun q' hq' => ?_
    obtain rfl : q = q' := Option.some.inj (hreal.symm.trans hq')
    simp [hst]
  rw [← ht, hsettle]
  exact ⟨hnone, by rw [e], c.only, by rw [e]; exact hruns⟩

/-! ### SPEC_SUSPEND_END (R117, R139) -/

/-- The registers of the module that the conditions of a run read. -/
def readyOfModule : List Fld :=
  [SPC_CTL_ENABLE, PAR_STAT_ROLE, SCH_MODE_MODE, PWR_STAT_CAPPED, PWR_STAT_LANECLK, SPC_CTL_SAGMIN, SCH_OLCSTAT_ACTSTORE]
/-- Those of its task. -/
def readyOfTask : List Fld :=
  [SCH_TASKCFG_KIND, SCH_TASKCFG_SAFETY, SCH_TASKCFG_SPEC, SCH_TASKSTAT_STATE, SCH_TASKSTAT_LATE, SCH_TASKSTAT_CATCHUP, SCH_TASKXCP_PEND]

/-- The conditions of a run rest on these registers, the packages and the account of the task, but not on its window. -/
theorem State.specReady_congr {s u : State} {t : Nat} {w : List Bool} (hrt : u.taskRt t = { s.taskRt t with window := w }) (hp : u.pkgs = s.pkgs)
    (hm : ∀ f ∈ readyOfModule, u.getF f = s.getF f) (ht : ∀ f ∈ readyOfTask, u.getF f t = s.getF f t) : u.specReady t = s.specReady t := by
  simp only [readyOfModule, readyOfTask, List.forall_mem_cons] at hm ht
  obtain ⟨henable, hrole, hmode, hcapped, hclk, hsag, hstore, -⟩ := hm
  obtain ⟨hkind, hsafety, hspec, hstate, hlate, hcatchup, hpend, -⟩ := ht
  have hactive : u.specActive = s.specActive := by
    unfold State.specActive State.flag State.isLead State.mode
    rw [henable, hrole, hmode, hcapped, hclk, hsag]
  have hdef : u.taskDef? t = s.taskDef? t := by
    unfold State.taskDef? State.cfg State.actStore
    rw [hstore, hp]
  unfold State.specReady State.kind State.isSafety State.flag
  rw [hactive, hdef, hrt, hkind, hsafety, hspec, hstate, hlate, hcatchup, hpend]

/-- The registers that show a window and the state of speculation. -/
def windowFields (t : Nat) : List (Fld × Nat) :=
  [(SPC_TASKSTAT_SSTATE, t), (SPC_CTL_INFLIGHT, 0), (SPC_TASKSTAT_HITS, t), (SPC_TASKSTAT_WINDOW, t)]

/-- A field that stands elsewhere is none of them. -/
theorem windowFields_ne {f : Fld} {ix t : Nat} (hix : ix < 65536) (ht : t < 65536)
    (h : ∀ g ∈ [SPC_TASKSTAT_SSTATE, SPC_CTL_INFLIGHT, SPC_TASKSTAT_HITS, SPC_TASKSTAT_WINDOW], f.off * 32 + f.lo ≠ g.off * 32 + g.lo) :
    ∀ x ∈ windowFields t, f.key ix ≠ x.1.key x.2 := by
  simp only [windowFields, List.forall_mem_cons] at h ⊢
  obtain ⟨hst, hin, hhits, hwin, -⟩ := h
  exact ⟨key_ne_of_place hix ht hst, key_ne_of_place hix (by decide) hin, key_ne_of_place hix ht hhits, key_ne_of_place hix ht hwin, nofun⟩

/-- A change of these registers alone, and of the window, leaves the conditions of a run as they are. -/
theorem Chg.specReady_eq {s u : State} {t : Nat} {w : List Bool} (c : Chg s u (windowFields t)) (ht : t < 65536)
    (hrt : u.taskRt t = { s.taskRt t with window := w }) (hp : u.pkgs = s.pkgs) : u.specReady t = s.specReady t := by
  refine State.specReady_congr hrt hp (fun f hf => c.only f 0 (windowFields_ne (by decide) ht ?_)) (fun f hf => c.only f t (windowFields_ne ht ht ?_))
  · revert f
    decide
  · revert f
    decide

/-- Emptying the window: the account of the task and the two registers show it empty. -/
theorem State.specFresh_does {s : State} (h : s.RegsOk) {t : Nat} (ht : t < 65536) :
    (s.specFresh t).getF SPC_TASKSTAT_HITS t = 0 ∧ (s.specFresh t).getF SPC_TASKSTAT_WINDOW t = 0 ∧
    (s.specFresh t).taskRt t = { s.taskRt t with window := [] } ∧
    Chg s (s.specFresh t) [(SPC_TASKSTAT_WINDOW, t), (SPC_TASKSTAT_HITS, t)] ∧ ∃ r sc, s.specFresh t = { s with regs := r, sched := sc } := by
  unfold State.specFresh
  have c0 := (Chg.refl h).same (u := s.modTask t (fun x => { x with window := [] })) rfl
  have c1 := c0.setF SPC_TASKSTAT_HITS 0 t
  refine ⟨?_, getF_setF_self _ _ _ _ c1.ok, s.taskRt_modTask_self t _, c1.setF SPC_TASKSTAT_WINDOW 0 t, _, _, rfl⟩
  exact (getF_setF_ne _ _ c1.ok (key_ne_of_place ht ht (by decide))).trans (getF_setF_self _ _ _ _ c0.ok)

/-- SSTATE of a task that is not suspended shows whether the conditions of a run hold. -/
theorem State.specArm_unsuspended {s : State} {t : Nat} (h : (s.taskRt t).susp = 0) : s.specArm t = s.specState t (b2n (s.specReady t)) :=
  if_neg (by simp [h])

/-- The end of a suspension: the window is empty, and SSTATE shows whether the conditions of a run hold. -/
theorem State.endSuspension_does {s : State} (h : s.RegsOk) {t : Nat} (ht : t < 65536) (hs : (s.taskRt t).susp = 0) {u : State}
    (hu : ((s.specFresh t).specState t 0).specArm t = u) :
    u.getF SPC_TASKSTAT_SSTATE t = b2n (s.specReady t) ∧ u.getF SPC_TASKSTAT_HITS t = 0 ∧ u.getF SPC_TASKSTAT_WINDOW t = 0 ∧ (u.taskRt t).window = [] ∧
    u = { s with regs := u.regs, sched := u.sched } ∧ Chg s u (windowFields t) := by
  obtain ⟨hhits, hwin, hrt, c1, r1, sc, e1⟩ := State.specFresh_does h ht
  obtain ⟨-, c2, r2, e2⟩ := State.specState_does c1.ok ht (st := 0) (by decide)
  generalize hv : (s.specFresh t).specState t 0 = v at *
  have c3 : Chg s v (windowFields t) := (c1.trans c2).mono (by simp [windowFields])
  have hrtv : v.taskRt t = { s.taskRt t with window := [] } := by rw [e2]; exact hrt
  have hready : v.specReady t = s.specReady t := c3.specReady_eq ht hrtv (by rw [e2, e1])
  rw [State.specArm_unsuspended (by rw [hrtv]; exact hs), hready] at hu
  have hb : b2n (s.specReady t) < 8 := by cases s.specReady t <;> decide
  obtain ⟨hst, c4, r4, e4⟩ := State.specState_does c3.ok ht hb
  rw [hu] at hst c4 e4
  have c5 := c2.trans c4
  have apart {f : Fld} (hf : ∀ g ∈ [SPC_TASKSTAT_SSTATE, SPC_CTL_INFLIGHT], f.off * 32 + f.lo ≠ g.off * 32 + g.lo) :
      u.getF f t = (s.specFresh t).getF f t := by
    simp only [List.forall_mem_cons] at hf
    obtain ⟨hf1, hf2, -⟩ := hf
    exact c5.only f t (by simp [key_ne_of_place ht ht hf1, key_ne_of_place (iy := 0) ht (by decide) hf2])
  refine ⟨hst, (apart (by decide)).trans hhits, (apart (by decide)).trans hwin, ?_, ?_, (c3.trans c4).mono (by simp [windowFields])⟩
  · have : u.taskRt t = v.taskRt t := by rw [e4]; rfl
    rw [this, hrtv]
  · rw [e4, e2, e1]

/-- SPEC_SUSPEND_END of a suspended task whose back-off has elapsed. -/
theorem execSpecSuspendEnd_due {s : State} {k : TaskNo} (h6 : s.getF SPC_TASKSTAT_SSTATE k.val = 6) (hs : (s.taskRt k.val).susp = 0) :
    execSpecSuspendEnd k s = .next (((s.specFresh k.val).specState k.val 0).specArm k.val) :=
  congrArg Host.Outcome.next (if_pos (by simp [h6, hs]))

/-- Settles O38: the hypotheses of each clause make its command act, and the clause is what a start, a discard that raises nothing, or the end of a
suspension leaves. -/
theorem speculativeRuns : Obligations.SpeculativeRuns := by
  unfold Obligations.SpeculativeRuns
  intro s k h hr
  have hk : k.val < 65536 := by omega
  refine ⟨fun d hd hno hready hspec hreal htick hlead => ?_, fun r q hx hq hst hheld hxcp hgens hrel => ?_,
    fun r q arb hx hq hst hab hxcp hgens => ?_, fun h6 hs => ?_⟩
  · exact ⟨_, execSpecRunStart_due hd hready hspec hreal rfl htick (State.specLead_of hlead), State.specStart_does h rfl hno hk⟩
  · exact ⟨_, execSpecUndone_undone hx hq hst hheld hgens hrel, State.specEnd_settled h hr hx hq hxcp rfl⟩
  · exact ⟨_, execSpecDecision_invalid hx hq hst hab hgens, State.specEnd_settled h hr hx hq hxcp rfl⟩
  · obtain ⟨hst, hhits, hwin, hwindow, hrest, c⟩ := State.endSuspension_does h hk hs rfl
    exact ⟨_, execSpecSuspendEnd_due h6 hs, hst, hhits, hwin, hwindow, hrest, c.only⟩

end Sys2Proof.Machine
end

section
/-! PROOFS. Self-tests and injections of the lanes, the scrub and sparing, walks, tag edits, invalidations and barriers (06, R153 to R162; 07, R168 to R188). -/
namespace Sys2Proof.Machine

/-! ### What stands of a lane and of the pair while registers change -/

/-- A lane that is changed is what the change makes of it. -/
theorem State.laneRt_modLane (s : State) (n : Nat) (f : LaneRt → LaneRt) : (s.modLane n f).laneRt n = f (s.laneRt n) := tabGet_tabSet_self _ _ _ _

/-- ROLE and INTEST of a lane are none of the registers that count the lanes. -/
theorem lanestat_ne_laneShows {f : Fld} (hf : f = XNG_LANESTAT_ROLE ∨ f = XNG_LANESTAT_INTEST) {n : Nat} (hn : n < 65536) :
    ∀ x ∈ laneShows, f.key n ≠ x.1.key x.2 := by
  have apart : ∀ x ∈ laneShows, x.2 < 65536 ∧ f.off * 32 + f.lo ≠ x.1.off * 32 + x.1.lo := by rcases hf with rfl | rfl <;> decide
  intro x hx
  obtain ⟨hi, hp⟩ := apart x hx
  exact key_ne_of_place hn hi hp

/-- Whether the module sends packets is told by its role, its pair state and the join in progress. -/
theorem State.hasFollower_congr {s t : State} {l : List (Fld × Nat)} (c : OnlyRegs s t l) (hrole : ∀ x ∈ l, PAR_STAT_ROLE.key 0 ≠ x.1.key x.2)
    (hstate : ∀ x ∈ l, PAR_STAT_STATE.key 0 ≠ x.1.key x.2) (hp : t.pair = s.pair) : t.hasFollower = s.hasFollower := by
  unfold State.hasFollower State.isLead
  rw [c _ _ hrole, c _ _ hstate, hp]

/-- It is the same where the count of refused writes is set aside. -/
theorem hasFollower_aside {s : State} (h : s.RegsOk) : s.aside.hasFollower = s.hasFollower :=
  State.hasFollower_congr (Chg.aside h).only (by decide) (by decide) rfl

/-- An effect on a running module that leaves the Kerb alone begins no restart. -/
theorem State.Runs.not_boot {s t : State} (hr : s.Runs) (hk : t.kerb = s.kerb) : t.kerb.phase ≠ .boot := by
  rw [hk, show s.kerb.phase = .run from hr]
  decide

/-- A flag whose field reads 0 is clear. -/
theorem State.flag_false {s : State} {f : Fld} {ix : Nat} (h : s.getF f ix = 0) : s.flag f ix = false := by simp [State.flag, h]

/-! ### Self-tests (R153, R158, R162) -/

/-- A completed self-test changes of the registers at most TESTLATE. -/
theorem State.laneTested_chg {s : State} (h : s.RegsOk) (n : Nat) : Chg s (s.laneTested n) [(XNG_STAT_TESTLATE, 0)] := by
  have c : Chg s (s.modLane n (fun l => { l with testAt := s.now, step := 0 })) [] := (Chg.refl h).same rfl
  unfold State.laneTested
  dsimp only
  split
  · exact c.setF _ _ _
  · exact c.mono (by simp)

/-- The end of a full self-test clears INTEST. -/
theorem State.laneTested_inTest {s : State} (h : s.RegsOk) (n : Nat) {u : State} (hu : u = (s.laneTested n).setF XNG_LANESTAT_INTEST 0 n) :
    u.RegsOk ∧ u.getF XNG_LANESTAT_INTEST n = 0 := by
  have c := State.laneTested_chg h n
  subst hu
  exact ⟨(c.setF _ _ _).ok, getF_setF_self _ _ _ _ c.ok⟩

/-- The full self-test of a quarantined lane, passed: it returns to the role that it had. -/
theorem State.fullTestEnd_quarantined {s : State} (h : s.RegsOk) {n : Nat} (hn : n < 65536) (ht : (s.laneRt n).testing = true) {t : State}
    (e : t = s.fullTestEnd n true) :
    t.laneRole n = b2n (s.laneRt n).reserve ∧ t.flag XNG_LANESTAT_INTEST n = false ∧ (t.laneRt n).testing = false := by
  unfold State.fullTestEnd at e
  dsimp only at e
  rw [if_neg (by decide), if_pos ht] at e
  generalize hu : (s.laneTested n).setF XNG_LANESTAT_INTEST 0 n = u at e
  obtain ⟨hok, hint⟩ := State.laneTested_inTest h n hu.symm
  generalize hw : u.modLane n (fun x => { x with testing := false, comparator := false, faults := (s.laneRt n).lastFault.getD u.now :: u.transients n }) = w at e
  have cw : Chg u w [] := (Chg.refl hok).same (by rw [← hw]; rfl)
  have ew : (w.laneRt n).testing = false := by rw [← hw, State.laneRt_modLane]
  have cr := cw.setF XNG_LANESTAT_ROLE (b2n (s.laneRt n).reserve) n
  have counts := State.laneCounts_chg (Chg.refl cr.ok)
  rw [List.append_nil, ← e] at counts
  refine ⟨?_, ?_, ?_⟩
  · refine (counts.only _ _ (lanestat_ne_laneShows (.inl rfl) hn)).trans ((getF_setF_self _ _ _ _ cw.ok).trans ?_)
    cases (s.laneRt n).reserve <;> rfl
  · exact State.flag_false ((counts.only _ _ (lanestat_ne_laneShows (.inr rfl) hn)).trans
      ((cr.only _ _ (by simpa using key_ne_of_place hn hn (by decide))).trans hint))
  · rw [e]
    exact ew

/-- The full self-test of a lane tested by command, passed: the lane leaves it. -/
theorem State.fullTestEnd_commanded {s : State} (h : s.RegsOk) {n : Nat} (ht : (s.laneRt n).testing = false) {t : State} (e : t = s.fullTestEnd n true) :
    t.flag XNG_LANESTAT_INTEST n = false ∧ (t.laneRt n).full = false ∧ (t.laneRt n).cmdTest = false := by
  unfold State.fullTestEnd at e
  dsimp only at e
  rw [if_neg (by decide), if_neg (by simp [ht])] at e
  generalize hu : (s.laneTested n).setF XNG_LANESTAT_INTEST 0 n = u at e
  obtain ⟨-, hint⟩ := State.laneTested_inTest h n hu.symm
  have hlane := u.laneRt_modLane n (fun x => { x with cmdTest := false, full := false })
  rw [← e] at hlane
  exact ⟨State.flag_false (by rw [e]; exact hint), by rw [hlane], by rw [hlane]⟩

/-- No full self-test starts on a lane that no TEST command has asked for. -/
theorem State.fullStart_unasked {s : State} {n : Nat} (hc : (s.laneRt n).cmdTest = false) : s.fullStart n = s := if_neg (by simp [hc])

/-- The full self-test that a TEST command has asked for starts on a lane that nothing holds. -/
theorem State.fullStart_asked {s : State} {n : Nat} (hc : (s.laneRt n).cmdTest = true) (hf : (s.laneRt n).full = false) (hh : s.laneHeld n = false)
    (hi : s.flag XNG_LANESTAT_INTEST n = false) : s.fullStart n = (s.setF XNG_LANESTAT_INTEST 1 n).modLane n (fun l => { l with full := true }) :=
  if_pos (by simp [hc, hf, hh, hi])

/-- A passed step of the rotating self-test that is not the last one: the lane is free again, one step further. -/
theorem execSelfTestStep_ended {s : State} (h : s.RegsOk) {lane : LaneNo} (hi : s.flag XNG_LANESTAT_INTEST lane.val = true)
    (ht : (s.laneRt lane.val).testing = false) (hf : (s.laneRt lane.val).full = false) (hc : (s.laneRt lane.val).cmdTest = false)
    (hk : (s.laneRt lane.val).step + 1 < 2000) : Gives (.selfTestStep (some lane) true none none) s fun t =>
      t.flag XNG_LANESTAT_INTEST lane.val = false ∧ (t.laneRt lane.val).step = (s.laneRt lane.val).step + 1 := by
  generalize hu : s.setF XNG_LANESTAT_INTEST 0 lane.val = u
  have hlane : u.laneRt lane.val = s.laneRt lane.val := by rw [← hu]; rfl
  have hint : u.getF XNG_LANESTAT_INTEST lane.val = 0 := by rw [← hu]; exact getF_setF_self _ _ _ _ h
  have e : exec (.selfTestStep (some lane) true none none) s = .next (u.modLane lane.val (fun x => { x with step := (s.laneRt lane.val).step + 1 })) := by
    show execSelfTestStep (some lane) true none none s = _
    unfold execSelfTestStep done
    dsimp only
    rw [if_neg (by simp [hi, ht, hf]), hu, State.fullStart_unasked (by rw [hlane, hc]), if_neg (by decide), hlane, if_pos hk]
  exact ⟨_, e, State.flag_false hint, by rw [State.laneRt_modLane]⟩

/-- A step of the rotating self-test begins on a lane where it may: INTEST shows it. -/
theorem execSelfTestStep_begun {s : State} (h : s.RegsOk) {lane : LaneNo} (pass : Bool) (swap : Option LaneNo) (hok : s.stepOk lane.val = true) :
    Gives (.selfTestStep none pass (some lane) swap) s fun t =>
      t.flag XNG_LANESTAT_INTEST lane.val = true ∧ t = { s with regs := t.regs } ∧ OnlyRegs s t [(XNG_LANESTAT_INTEST, lane.val)] :=
  ⟨_, congrArg Host.Outcome.next (if_pos hok), flag_setB_self h true rfl, rfl, ((Chg.refl h).setF _ _ _).only⟩

/-- TESTLATE is set, with a record, by a lane that is late. -/
theorem execLaneTestLate_late {s : State} (h : s.RegsOk) {lane : LaneNo} (hl : s.testLate lane.val = true) (hf : s.flag XNG_STAT_TESTLATE = false) :
    Gives (.laneTestLate lane) s fun t =>
      t.flag XNG_STAT_TESTLATE = true ∧ t = { s with regs := t.regs, arc := t.arc } ∧ OnlyRegs s t [(XNG_STAT_TESTLATE, 0)] := by
  have e : exec (.laneTestLate lane) s = .next ((s.setF XNG_STAT_TESTLATE 1).evHw 9 [lane.val]) := congrArg Host.Outcome.next (if_pos (by simp [hl, hf]))
  have hregs : ((s.setF XNG_STAT_TESTLATE 1).evHw 9 [lane.val]).regs = (s.setF XNG_STAT_TESTLATE 1).regs := State.event_regs ..
  refine ⟨_, e, ?_, ?_, (((Chg.refl h).setF XNG_STAT_TESTLATE 1 0).same hregs).only⟩
  · have : (s.setF XNG_STAT_TESTLATE 1).flag XNG_STAT_TESTLATE = true := flag_setB_self h true rfl
    unfold State.flag at this ⊢
    rwa [getF_same hregs]
  · unfold State.evHw State.event
    split <;> rfl

/-- An injection that is due and detected is discarded, and the rotation goes on. -/
theorem execMismatchInjection_detected {s : State} {lane : LaneNo} (hen : s.flag XNG_CTL_INJEN = true) (hr : s.laneRole lane.val ≠ 3)
    (ht : (s.laneRt lane.val).testing = false) (hf : (s.laneRt lane.val).full = false) (hi : s.flag XNG_LANESTAT_INTEST lane.val = false)
    (hd : s.injDue lane.val = true) : Gives (.mismatchInjection lane true) s fun t =>
      t = { s with lanes := t.lanes } ∧ (t.laneRt lane.val).injItem = nextItem (s.laneRt lane.val).injItem ∧ (t.laneRt lane.val).injAt = s.now := by
  have e : exec (.mismatchInjection lane true) s = .next (s.modLane lane.val (fun x =>
      { x with injItem := nextItem x.injItem, injBit := if x.injItem ≥ 10 then (x.injBit + 1) % 64 else x.injBit, injAt := s.now })) := by
    show execMismatchInjection lane true s = _
    unfold execMismatchInjection done
    dsimp only
    rw [if_neg (by simp [hen, hr, ht, hf, hi, hd]), if_pos rfl]
  exact ⟨_, e, rfl, by rw [State.laneRt_modLane], by rw [State.laneRt_modLane]⟩

/-! ### TEST and RETIRE (R154, R162) -/

/-- A lane reads its role the same where the count of refused writes is set aside. -/
theorem laneRole_aside {s : State} (h : s.RegsOk) {n : Nat} (hn : n < 96) : s.aside.laneRole n = s.laneRole n := getF_aside h _ (key_ne_of_place (by omega) (by decide) (by decide))

section
variable {s : State} (h : s.RegsOk) (hr : s.Runs) (p : Path) (lane : BitVec 7)
include h hr

/-- TEST of a lane that does not exist is ignored. -/
theorem execXngTest_noLane (hn : 96 ≤ lane.toNat) :
    Gives (.xngTest p lane) s fun t => RegsOnlyW 4 s t [(KRB_IGNSTAT_CAUSE, 0), (KRB_IGNADDR_OFFSET, 0), (KRB_IGNPATH_PATH, 0)] ∧ t.getF KRB_IGNSTAT_CAUSE = 5 :=
  ⟨_, rfl, State.written_ign hr h (if_pos hn) (by decide) (by decide) (by decide)⟩

/-- So is RETIRE with SAFETY-EDIT in its edit position. -/
theorem execXngRetire_noLane (hn : 96 ≤ lane.toNat) (hs : s.safetyEdit = true) :
    Gives (.xngRetire p lane) s fun t => RegsOnlyW 4 s t [(KRB_IGNSTAT_CAUSE, 0), (KRB_IGNADDR_OFFSET, 0), (KRB_IGNPATH_PATH, 0)] ∧ t.getF KRB_IGNSTAT_CAUSE = 5 := by
  rw [← safetyEdit_aside h] at hs
  have hu : s.aside.cmdXngRetire p lane = s.aside.ignored p xngCmdOff 5 := by
    unfold State.cmdXngRetire
    dsimp only
    rw [if_neg (by simp [hs]), if_pos hn]
  exact ⟨_, rfl, State.written_ign hr h hu (by decide) (by decide) (by decide)⟩

/-- RETIRE with the switch in its run position is refused. -/
theorem execXngRetire_locked (hs : s.safetyEdit = false) :
    Gives (.xngRetire p lane) s fun t => RegsOnlyW 4 s t [(KRB_IGNSTAT_CAUSE, 0), (KRB_IGNADDR_OFFSET, 0), (KRB_IGNPATH_PATH, 0)] ∧ t.getF KRB_IGNSTAT_CAUSE = 1 := by
  rw [← safetyEdit_aside h] at hs
  exact ⟨_, rfl, State.written_ign hr h (if_pos (by simp [hs])) (by decide) (by decide) (by decide)⟩

/-- RETIRE of a lane that is not yet retired. -/
theorem execXngRetire_taken (hn : lane.toNat < 96) (hs : s.safetyEdit = true) (hrole : s.laneRole lane.toNat ≠ 3) :
    Gives (.xngRetire p lane) s fun t => t.laneRole lane.toNat = 3 := by
  rw [← safetyEdit_aside h] at hs
  rw [← laneRole_aside h hn] at hrole
  have hn' : lane.toNat < 65536 := by omega
  have hu : s.aside.cmdXngRetire p lane = s.aside.retireLane lane.toNat := by
    unfold State.cmdXngRetire
    dsimp only
    rw [if_neg (by simp [hs]), if_neg (by omega), if_neg hrole]
  obtain ⟨e, c⟩ := State.retireLane_does (Chg.aside h).ok hn'
  obtain ⟨-, -, k⟩ := State.written_does (p := p) (off := xngCmdOff) (f := fun s => s.cmdXngRetire p lane) hr h hu c (hr.not_boot (State.retireLane_kerb _ _))
  exact ⟨_, rfl, (k _ _ (book_ne hn' (by decide))).trans e⟩

/-- TEST of a reserve lane that nothing holds: its full self-test begins. -/
theorem execXngTest_reserve (hn : lane.toNat < 96) (hrole : s.laneRole lane.toNat = 1) (hh : s.laneHeld lane.toNat = false)
    (hi : s.flag XNG_LANESTAT_INTEST lane.toNat = false) (hf : (s.laneRt lane.toNat).full = false) :
    Gives (.xngTest p lane) s fun t => t.flag XNG_LANESTAT_INTEST lane.toNat = true ∧ (t.laneRt lane.toNat).full = true ∧
      t = { s with regs := t.regs, lanes := t.lanes } ∧ OnlyRegsW 4 s t [(XNG_LANESTAT_INTEST, lane.toNat)] := by
  have hn' : lane.toNat < 65536 := by omega
  rw [← laneRole_aside h hn] at hrole
  rw [← flag_aside h _ (key_ne_of_place hn' (by decide) (by decide))] at hi
  generalize hw : s.aside.modLane lane.toNat (fun l => { l with cmdTest := true }) = w
  have cw : Chg s.aside w [] := (Chg.refl (Chg.aside h).ok).same (by rw [← hw]; rfl)
  have hlane : w.laneRt lane.toNat = { s.laneRt lane.toNat with cmdTest := true } := by rw [← hw, State.laneRt_modLane]; rfl
  have hu : s.aside.cmdXngTest p lane = (w.setF XNG_LANESTAT_INTEST 1 lane.toNat).modLane lane.toNat (fun l => { l with full := true }) := by
    unfold State.cmdXngTest
    dsimp only
    rw [if_neg (by omega), if_neg (by simp [hrole]), hw]
    exact State.fullStart_asked (by rw [hlane]) (by rw [hlane]; exact hf) (by rw [← hw]; exact hh) (by rw [← hw]; exact hi)
  obtain ⟨e, c, k⟩ := State.written_does (p := p) (off := xngCmdOff) (f := fun s => s.cmdXngTest p lane) hr h hu
    ((cw.setF XNG_LANESTAT_INTEST 1 lane.toNat).same rfl) (hr.not_boot (by rw [← hw]; rfl))
  refine ⟨_, rfl, ?_, ?_, ?_, c⟩
  · have : (w.setF XNG_LANESTAT_INTEST 1 lane.toNat).flag XNG_LANESTAT_INTEST lane.toNat = true := flag_setB_self cw.ok true rfl
    unfold State.flag at this ⊢
    rw [k _ _ (book_ne hn' (by decide))]
    exact this
  · have := congrArg (fun t => (State.laneRt t lane.toNat).full) e
    exact this.trans (by rw [show ∀ (u : State) r, ({ u with regs := r } : State).laneRt lane.toNat = u.laneRt lane.toNat from fun _ _ => rfl, State.laneRt_modLane])
  · have el := congrArg State.lanes e
    rw [el]
    refine e.trans ?_
    rw [← hw]
    rfl

end

/-! ### Scrub, sparing and walks (R168, R169, R176 to R178) -/

/-- A read of a Square without errors that wait meets none. -/
theorem State.meet_clean {s : State} (hc : s.sq.cells = []) (hm : s.sq.mapErrs = []) (a n csn : Nat) : s.meet a n csn = s := if_pos (by simp [hc, hm])

/-- No unit of such a Square holds an error beyond correction. -/
theorem State.strikes_clean {s : State} (hc : s.sq.cells = []) (a n csn : Nat) : s.strikes a n csn = [] := by
  have hcells : ∀ u, s.cellsAt u csn = [] := by
    intro u
    unfold State.cellsAt
    rw [hc]
    rfl
  simp [State.strikes, hcells]

/-- The scrub of a unit of such a Square changes nothing. -/
theorem State.scrubUnit_clean {s : State} (hc : s.sq.cells = []) (hm : s.sq.mapErrs = []) (a : Nat) (page : Option (List Byte)) : s.scrubUnit a page = s := by
  unfold State.scrubUnit
  dsimp only
  rw [State.strikes_clean hc, State.meet_clean hc hm]
  rfl

/-- Nor does a walk meet an error in it. -/
theorem State.walkMeet_clean {s : State} (hc : s.sq.cells = []) (hm : s.sq.mapErrs = []) (tag : Nat) : s.walkMeet tag = s := by
  unfold State.walkMeet
  dsimp only
  rw [State.meet_clean hc hm, State.meet_clean hc hm, ite_self]

/-- Within a pass the scrub goes on to the next unit. -/
theorem State.scrubNext_within {s : State} (hs : s.sq.scrubbed + 1 < scrubUnits) : s.scrubNext = { s with sq := { s.sq with scrubbed := s.sq.scrubbed + 1 } } :=
  if_neg (by omega)

/-- PATROL_SCRUB of a unit without an error, within a pass. -/
theorem execPatrolScrub_clean {s : State} (h : s.RegsOk) (unit : BitVec 34) (hr : s.Runs) (hc : s.sq.cells = []) (hm : s.sq.mapErrs = [])
    (hs : s.sq.scrubbed + 1 < scrubUnits) : Gives (.patrolScrub unit [] none) s fun t =>
      t = { s with regs := t.regs, sq := { s.sq with scrubbed := s.sq.scrubbed + 1 } } ∧ OnlyRegs s t [(SQR_ECCSTAT_PASSLATE, 0)] ∧
      (s.now > s.sq.scrubStart + 4200000000000 → t.flag SQR_ECCSTAT_PASSLATE = true) := by
  have e : exec (.patrolScrub unit [] none) s =
      .next (if s.now > s.sq.scrubStart + 4200000000000 then s.setF SQR_ECCSTAT_PASSLATE 1 else s).scrubNext := by
    show execPatrolScrub unit [] none s = _
    unfold execPatrolScrub done
    rw [if_neg (by simp [show s.kerb.phase = .run from hr]), List.foldl_nil, State.scrubUnit_clean hc hm]
  refine ⟨_, e, ?_⟩
  by_cases hl : s.now > s.sq.scrubStart + 4200000000000
  · rw [if_pos hl, State.scrubNext_within (s := s.setF SQR_ECCSTAT_PASSLATE 1) hs]
    exact ⟨rfl, (((Chg.refl h).setF SQR_ECCSTAT_PASSLATE 1 0).same rfl).only, fun _ => flag_setB_self h true rfl⟩
  · rw [if_neg hl, State.scrubNext_within hs]
    exact ⟨rfl, (((Chg.refl h).same rfl).mono (by simp)).only, fun hn => absurd hn hl⟩

/-- A spared row is switched to the next row of the reserve. -/
def State.rowSwitched (s : State) (q : Nat × Nat) : State :=
  { s with sq := { s.sq with sparing := s.sq.sparing.erase q, ceRows := s.sq.ceRows.filter (fun x => x.1 ≠ q.1),
                             rowMap := tabSet s.sq.rowMap q.1 (reserveRow s.sq.rowMap.length) } }

/-- ROW_SPARING_COMPLETE of a stack with a copy under way. -/
theorem execRowSparingComplete_switched {s : State} (h : s.RegsOk) {stack : Fin 4} {left : Fin 101} {q : Nat × Nat}
    (hq : s.sq.sparing.find? (fun p => p.2 = stack.val) = some q) : Gives (.rowSparingComplete stack left) s fun t =>
      t.sq = { s.sq with sparing := s.sq.sparing.erase q, ceRows := s.sq.ceRows.filter (fun x => x.1 ≠ q.1),
                         rowMap := tabSet s.sq.rowMap q.1 (reserveRow s.sq.rowMap.length) } ∧
      t.getF (spareFld stack.val) = min left.val (s.getF (spareFld stack.val)) := by
  have hw : (spareFld stack.val).w = 8 := by fin_cases stack <;> rfl
  have hsame : (s.rowSwitched q).getF (spareFld stack.val) = s.getF (spareFld stack.val) := rfl
  have e : exec (.rowSparingComplete stack left) s =
      .next (((s.rowSwitched q).setF (spareFld stack.val) (min left.val (s.getF (spareFld stack.val)))).evHw 12 [q.1, stack.val, left.val]) := by
    rw [← hsame]
    show execRowSparingComplete stack left s = _
    unfold execRowSparingComplete done
    rw [hq]
    rfl
  refine ⟨_, e, State.event_sq .., ?_⟩
  refine (getF_same (State.event_regs ..)).trans ((getF_setF_self _ _ _ _ (by exact h)).trans (Nat.mod_eq_of_lt ?_))
  rw [hw]
  omega

/-- A walk for a lane is taken in by it as the Square stands, where no error waits. -/
theorem execTagWalk_clean {s : State} (lane : LaneNo) (task : TaskNo) (tag : W32) (hc : s.sq.cells = []) (hm : s.sq.mapErrs = []) :
    exec (.tagWalk (some lane) task tag) s = .next (s.walkTook lane tag.toNat (s.walk (some task.val) tag.toNat)) := by
  show Host.Outcome.next (s.laneWalk lane task tag.toNat) = _
  unfold State.laneWalk
  dsimp only
  rw [State.walkMeet_clean hc hm]

/-- A walk fault is latched. -/
theorem State.latchWalk_does {s : State} (h : s.RegsOk) {r tag : Nat} (hr : r < 16) (ht : tag < 2 ^ 32) {t : State} (e : t = s.latchWalk r tag) :
    t.getF SQR_WALKERR_REASON = r ∧ t.flag SQR_WALKERR_VALID = true ∧ t.getF SQR_WALKTAG_TAG = tag ∧ t = { s with regs := t.regs } := by
  have c1 := (Chg.refl h).setF SQR_WALKERR_REASON r 0
  have c2 := c1.setF SQR_WALKERR_VALID 1 0
  subst e
  refine ⟨?_, ?_, (getF_setF_self _ _ _ _ c2.ok).trans (Nat.mod_eq_of_lt ht), rfl⟩
  · exact (getF_setF_ne _ _ c2.ok (by decide)).trans ((getF_setF_ne _ _ c1.ok (by decide)).trans ((getF_setF_self _ _ _ _ h).trans (Nat.mod_eq_of_lt hr)))
  · exact (flag_setF_ne c2.ok (by decide)).trans (flag_setB_self c1.ok true rfl)

/-! ### Edits, invalidations and barriers (R179, R181, R187) -/

/-- A change of the Square on a module without a Follower is made at once. -/
theorem State.squareShare_alone {s : State} (hn : s.hasFollower = false) (i : SetupItem) : s.squareShare i = s.squareItem i := if_neg (by simp [hn])

/-- The edited entry is the same where the count of refused writes is set aside. -/
theorem editEntry_aside {s : State} (h : s.RegsOk) (dir : Bool) : s.aside.editEntry dir = s.editEntry dir := by
  unfold State.editEntry State.dirAddr State.actStore
  dsimp only
  rw [getF_aside h SCH_OLCSTAT_ACTSTORE (by decide), getF_aside h SQR_TAGEDID_ID (by decide), getF_aside h SQR_TAGEDW0_DATA (by decide),
    getF_aside h SQR_TAGEDW1_DATA (by decide), getF_aside h SQR_TAGEDW2_DATA (by decide), getF_aside h SQR_TAGEDW3_DATA (by decide)]
  rfl

/-- WRITE of an entry that may be written, without an invalidation, on a module alone: the command's fields are put and the entry is stored. -/
theorem State.cmdTagWrite_alone {s : State} (h : s.RegsOk) {p : Path} {dir : Bool} {e : Nat × List Byte × Bool} (hf : s.following = false)
    (hn : s.hasFollower = false) (he : s.editEntry dir = some e) (hs : e.2.2 = true → s.safetyEdit = true) :
    s.cmdTagWrite p false dir =
      (((s.setB SQR_TAGEDCMD_INV false).setB SQR_TAGEDCMD_DIR dir).setF SQR_TAGEDCMD_REFUSED 0).squareItem (.tag e.1 e.2.1) := by
  have c := (((Chg.refl h).setB SQR_TAGEDCMD_INV false 0).setB SQR_TAGEDCMD_DIR dir 0).setF SQR_TAGEDCMD_REFUSED 0 0
  have hn' := (State.hasFollower_congr c.only (by decide) (by decide) rfl).trans hn
  obtain ⟨a, bs, safe⟩ := e
  unfold State.cmdTagWrite
  rw [if_neg (by simp [hf]), he]
  dsimp only
  rw [if_neg (by simpa using hs), State.squareShare_alone hn']
  rfl

/-- GO on a module alone: the invalidation is under way. -/
theorem State.cmdTtcGo_alone {s : State} (h : s.RegsOk) {p : Path} (all : Bool) (hf : s.following = false) (hn : s.hasFollower = false) :
    s.cmdTtcGo p all =
      ((s.setB SQR_TTCINV_ALL all).squareItem (.ttc (s.getF SQR_TTCFIRST_TAG) (s.getF SQR_TTCLAST_TAG) all)).setF SQR_TTCINV_DONE 0 := by
  have c := (Chg.refl h).setB SQR_TTCINV_ALL all 0
  have hn' := (State.hasFollower_congr c.only (by decide) (by decide) rfl).trans hn
  unfold State.cmdTtcGo
  rw [if_neg (by simp [hf]), State.squareShare_alone hn']

/-- BARRIER on a module alone: the barrier is under way. -/
theorem State.cmdAcuBarrier_alone {s : State} {p : Path} (hf : s.following = false) (hn : s.hasFollower = false) :
    s.cmdAcuBarrier p = (s.squareItem .barrier).setF ACU_CTL_DONE 0 := by
  unfold State.cmdAcuBarrier
  rw [if_neg (by simp [hf]), State.squareShare_alone hn]

section
variable {s : State} (h : s.RegsOk) (hr : s.Runs) (p : Path) (hf : s.following = false) (hn : s.hasFollower = false)
include h hr hf hn

/-- WRITE as a write of a running module. -/
theorem execTagWrite_alone {dir : Bool} {e : Nat × List Byte × Bool} (he : s.editEntry dir = some e) (hs : e.2.2 = true → s.safetyEdit = true) :
    Gives (.tagWrite p false dir) s fun t => t.sq = { s.sq with code := memWrL s.sq.code e.1 e.2.1 } ∧ t = { s with regs := t.regs, sq := t.sq } ∧
      OnlyRegsW 6 s t [(SQR_TAGEDCMD_INV, 0), (SQR_TAGEDCMD_DIR, 0), (SQR_TAGEDCMD_REFUSED, 0)] := by
  rw [← following_aside h] at hf
  rw [← hasFollower_aside h] at hn
  rw [← editEntry_aside h] at he
  rw [← safetyEdit_aside h] at hs
  obtain ⟨et, c, -⟩ := State.written_does (p := p) (off := tagedOff) (f := fun s => s.cmdTagWrite p false dir) hr h
    (State.cmdTagWrite_alone (Chg.aside h).ok hf hn he hs)
    (((((Chg.refl (Chg.aside h).ok).setB SQR_TAGEDCMD_INV false 0).setB SQR_TAGEDCMD_DIR dir 0).setF SQR_TAGEDCMD_REFUSED 0 0).same rfl) (hr.not_boot rfl)
  have es := congrArg State.sq et
  refine ⟨_, rfl, es, ?_, c.mono (by intro x hx; simp only [List.mem_cons, List.not_mem_nil, or_false] at hx ⊢; tauto)⟩
  rw [es]
  exact et

/-- GO as a write of a running module. -/
theorem execTtcGo_alone (all : Bool) : Gives (.ttcGo p all) s fun t =>
    t.sq = { s.sq with inval := s.sq.inval ++ [⟨s.getF SQR_TTCFIRST_TAG, s.getF SQR_TTCLAST_TAG, all⟩] } ∧
    t.flag SQR_TTCINV_DONE = false ∧ t = { s with regs := t.regs, sq := t.sq } ∧ OnlyRegsW 6 s t [(SQR_TTCINV_ALL, 0), (SQR_TTCINV_DONE, 0)] := by
  rw [← following_aside h] at hf
  rw [← hasFollower_aside h] at hn
  have hu := State.cmdTtcGo_alone (Chg.aside h).ok (p := p) all hf hn
  rw [getF_aside h SQR_TTCFIRST_TAG (by decide), getF_aside h SQR_TTCLAST_TAG (by decide)] at hu
  have cu := ((((Chg.refl (Chg.aside h).ok).setB SQR_TTCINV_ALL all 0).same
    (u := { s.aside.setB SQR_TTCINV_ALL all with sq := { s.sq with inval := s.sq.inval ++ [⟨s.getF SQR_TTCFIRST_TAG, s.getF SQR_TTCLAST_TAG, all⟩] } }) rfl).setF
      SQR_TTCINV_DONE 0 0)
  obtain ⟨et, c, k⟩ := State.written_does (p := p) (off := ttcinvOff) (f := fun s => s.cmdTtcGo p all) hr h hu (cu.setF SQR_TTCINV_DONE 0 0) (hr.not_boot rfl)
  have es := congrArg State.sq et
  refine ⟨_, rfl, es, ?_, ?_, c.mono (by intro x hx; simp only [List.mem_cons, List.not_mem_nil, or_false] at hx ⊢; tauto)⟩
  · unfold State.flag
    rw [k _ _ (by decide)]
    exact flag_setB_self cu.ok false rfl
  · rw [es]
    exact et

/-- BARRIER as a write of a running module. -/
theorem execAcuBarrier_alone : Gives (.acuBarrier p) s fun t =>
    t.sq = { s.sq with acuBusy := true } ∧ t.flag ACU_CTL_DONE = false ∧ t = { s with regs := t.regs, sq := t.sq } ∧ OnlyRegsW 7 s t [(ACU_CTL_DONE, 0)] := by
  rw [← following_aside h] at hf
  rw [← hasFollower_aside h] at hn
  have cu := ((Chg.refl (Chg.aside h).ok).same (u := { s.aside with sq := { s.sq with acuBusy := true } }) rfl).setF ACU_CTL_DONE 0 0
  obtain ⟨et, c, k⟩ := State.written_does (p := p) (off := 0x70000) (f := fun s => s.cmdAcuBarrier p) hr h (State.cmdAcuBarrier_alone hf hn)
    (cu.setF ACU_CTL_DONE 0 0) (hr.not_boot rfl)
  have es := congrArg State.sq et
  refine ⟨_, rfl, es, ?_, ?_, c.mono (by simp)⟩
  · unfold State.flag
    rw [k _ _ (by decide)]
    exact flag_setB_self cu.ok false rfl
  · rw [es]
    exact et

end

/-- TTC_INVALIDATION_DONE with an invalidation under way, where no run is to be discarded. -/
theorem execTtcInvalidationDone_finished {s : State} (h : s.RegsOk) (hi : s.sq.inval ≠ []) (hp : s.Plain) : Gives .ttcInvalidationDone s fun t =>
    t.sq.inval = [] ∧ t.sq.tagGen = s.sq.tagGen + 1 ∧ t.flag SQR_TTCINV_DONE = !s.editWaits isTtc := by
  generalize hd : s.ttcDrop (fun t => s.sq.inval.any (fun i => i.covers t)) = d
  generalize hu : State.setB { d with sq := { d.sq with inval := [], tagGen := d.sq.tagGen + 1 } } SQR_TTCINV_DONE (!d.editWaits isTtc) = u
  have e : exec .ttcInvalidationDone s = .next u := by
    show execTtcInvalidationDone s = _
    unfold execTtcInvalidationDone done
    rw [if_neg (by simpa using hi)]
    dsimp only
    rw [hd, hu, State.genCheck_plain (by rw [← hu, ← hd]; exact hp)]
  subst hu
  refine ⟨_, e, rfl, by rw [← hd]; rfl, (flag_setB_self ?_ _ rfl).trans (by rw [← hd]; rfl)⟩
  rw [← hd]
  exact h

/-- ACU_BARRIER_DONE with a barrier under way, where no run is to be discarded. -/
theorem execAcuBarrierDone_finished {s : State} (h : s.RegsOk) (hb : s.sq.acuBusy = true) (hp : s.Plain) : Gives .acuBarrierDone s fun t =>
    t.sq.acuBusy = false ∧ t.sq.acuGen = s.sq.acuGen + 1 ∧ t.flag ACU_CTL_DONE = !s.editWaits (fun i => i = .barrier) := by
  have hd : (s.applyDue .barrier).RegsOk := (State.applyDue_keeps (Keeps.refl s)).regs h
  generalize hu : ({ s.applyDue .barrier with sq := { s.sq with acuBusy := false, acuGen := s.sq.acuGen + 1 } } : State) = u
  have cu : u.RegsOk := by rw [← hu]; exact hd
  have e : exec .acuBarrierDone s = .next ((u.setF ACU_STAT_GEN (s.sq.acuGen + 1)).setB ACU_CTL_DONE (!s.editWaits (fun i => i = .barrier))) := by
    have hg : s.acuDone = ((u.setF ACU_STAT_GEN (s.sq.acuGen + 1)).setB ACU_CTL_DONE (!s.editWaits (fun i => i = .barrier))).genCheck := by rw [← hu]; rfl
    rw [State.genCheck_plain (by rw [← hu]; exact hp)] at hg
    exact congrArg Host.Outcome.next ((if_pos hb).trans hg)
  exact ⟨_, e, by rw [← hu]; rfl, by rw [← hu]; rfl, flag_setB_self (((Chg.refl cu).setF _ _ _).ok) _ rfl⟩

/-! ### Attributes of a region (R184, R186, R188) -/

/-- A write that waits leaves whether the module sends packets. -/
theorem State.hasFollower_setLater (s : State) (w : When) (f : Fld) (v ix : Nat) : (s.setLater w f v ix).hasFollower = s.hasFollower := rfl

/-- A region field put on a module alone waits for the barrier. -/
theorem State.acuPut_alone {s : State} (hn : s.hasFollower = false) (f : Fld) (v ix : Nat) : s.acuPut f v ix = s.setLater .barrier f v ix :=
  if_neg (by rw [State.hasFollower_setLater, hn]; decide)

/-- The lock of a region set is the same where the count of refused writes is set aside. -/
theorem acuLocked_aside {s : State} (h : s.RegsOk) {m : Nat} (hm : m < 1024) : s.aside.acuLocked m = s.acuLocked m := by
  unfold State.acuLocked State.isSafety
  rw [safetyEdit_aside h, flag_aside h SCH_TASKCFG_SAFETY (key_ne_of_place (by omega) (by decide) (by decide))]

/-- The attributes of a slot as they wait for the barrier, with the slot not enabled. -/
def State.attrsOff (s : State) (ix rd wr ex dev : Nat) : State :=
  ((((s.setLater .barrier ACU_RATTR_RD rd ix).setLater .barrier ACU_RATTR_WR wr ix).setLater .barrier ACU_RATTR_EXEC ex ix).setLater .barrier ACU_RATTR_DEV dev ix).setLater
    .barrier ACU_RATTR_EN 0 ix

/-- What then waits for EN, RD and WR is what was written. -/
theorem State.attrsOff_due (s : State) {ix : Nat} (hix : ix < 65536) (rd wr ex dev : Nat) :
    dueVal (s.attrsOff ix rd wr ex dev).due (ACU_RATTR_EN.key ix) = some 0 ∧ dueVal (s.attrsOff ix rd wr ex dev).due (ACU_RATTR_RD.key ix) = some (rd % 2) ∧
    dueVal (s.attrsOff ix rd wr ex dev).due (ACU_RATTR_WR.key ix) = some (wr % 2) := by
  have apart : ∀ {f g : Fld}, f.off * 32 + f.lo ≠ g.off * 32 + g.lo → f.key ix ≠ g.key ix := fun hp => key_ne_of_place hix hix hp
  unfold State.attrsOff
  refine ⟨dueVal_setLater_self _ _ _ _ _, ?_, ?_⟩
  · rw [dueVal_setLater_ne _ _ _ (apart (by decide)), dueVal_setLater_ne _ _ _ (apart (by decide)), dueVal_setLater_ne _ _ _ (apart (by decide)),
      dueVal_setLater_ne _ _ _ (apart (by decide)), dueVal_setLater_self]
    rfl
  · rw [dueVal_setLater_ne _ _ _ (apart (by decide)), dueVal_setLater_ne _ _ _ (apart (by decide)), dueVal_setLater_ne _ _ _ (apart (by decide)), dueVal_setLater_self]
    rfl

/-- ACU_RATTR_WRITE of a slot that may be written and is not enabled by it, on a module alone. -/
theorem State.cmdAcuRattrWrite_off {s : State} {p : Path} {v : W32} {m slot : Nat} (hm : s.getF ACU_MSEL_SEL p.code = m) (hslot : s.getF ACU_RSEL_SLOT p.code = slot)
    (hf : s.following = false) (hn : s.hasFollower = false) (hok : acuSlotOk m slot = true) (hl : s.acuLocked m = false) (hv : bitOf v.toNat 0 = false) :
    s.cmdAcuRattrWrite p v =
      s.attrsOff (m * 32 + slot) (bits v.toNat 1 1) (bits v.toNat 2 1) (b2n (bitOf v.toNat 3 && decide (m = 0))) (bits v.toNat 4 1) := by
  unfold State.cmdAcuRattrWrite
  rw [hm, hslot]
  dsimp only
  rw [if_neg (by simp [hf]), if_neg (by simp [hok]), if_neg (by simp [hl])]
  simp only [hv, Bool.false_eq_true, if_false, if_true, Bool.false_and, State.acuPut_alone, State.hasFollower_setLater, hn]
  rfl

/-- ACU_RATTR_WRITE as a write of a running module. -/
theorem execAcuRattrWrite_off {s : State} (h : s.RegsOk) (hr : s.Runs) (p : Path) (hf : s.following = false) (hn : s.hasFollower = false) {v : W32} {m slot : Nat}
    (hm : s.getF ACU_MSEL_SEL p.code = m) (hslot : s.getF ACU_RSEL_SLOT p.code = slot) (hok : acuSlotOk m slot = true) (hl : s.acuLocked m = false)
    (hm' : m < 1024) (hs' : slot < 32) (hv : bitOf v.toNat 0 = false) : Gives (.acuRattrWrite p v) s fun t =>
      t.asWritten ACU_RATTR_EN (m * 32 + slot) = 0 ∧ t.asWritten ACU_RATTR_RD (m * 32 + slot) = bits v.toNat 1 1 ∧
      t.asWritten ACU_RATTR_WR (m * 32 + slot) = bits v.toNat 2 1 ∧ t = { s with regs := t.regs, due := t.due } ∧ OnlyRegsW 7 s t [] := by
  have hp := Path.code_lt p
  rw [← following_aside h] at hf
  rw [← hasFollower_aside h] at hn
  rw [← acuLocked_aside h hm'] at hl
  rw [← getF_aside h _ (key_ne_of_place hp (by decide) (by decide))] at hm hslot
  obtain ⟨et, c⟩ := State.written_plain (p := p) (off := 0x70028) (f := fun s => s.cmdAcuRattrWrite p v) hr h (State.cmdAcuRattrWrite_off hm hslot hf hn hok hl hv) rfl
    (hr.not_boot rfl)
  obtain ⟨hen, hrd, hwr⟩ := s.aside.attrsOff_due (ix := m * 32 + slot) (by omega) (bits v.toNat 1 1) (bits v.toNat 2 1) (b2n (bitOf v.toNat 3 && decide (m = 0)))
    (bits v.toNat 4 1)
  have ed := congrArg State.due et
  refine ⟨_, rfl, asWritten_of_due (ed ▸ hen), ?_, ?_, ?_, c⟩
  · exact (asWritten_of_due ((congrArg (fun d => dueVal d _) ed).trans hrd)).trans (Nat.mod_mod _ _)
  · exact (asWritten_of_due ((congrArg (fun d => dueVal d _) ed).trans hwr)).trans (Nat.mod_mod _ _)
  · rw [ed]
    exact et

/-- Settles O45: each clause's hypotheses make its command act, and the clause is what the self-test, the scrub, the walk or the write leaves. -/
theorem lanesAndSquare : Obligations.LanesAndSquare := by
  unfold Obligations.LanesAndSquare
  intro s h
  refine ⟨fun lane ht hrole => ?_, fun lane ht hf => ?_, fun lane hi ht hf hc hk => execSelfTestStep_ended h hi ht hf hc hk,
    fun lane pass swap hok => execSelfTestStep_begun h pass swap hok, fun lane hen hr ht hf hi hd => execMismatchInjection_detected hen hr ht hf hi hd,
    fun p lane hr => ?_, fun lane hl hf => execLaneTestLate_late h hl hf, fun unit hr hc hm hs => execPatrolScrub_clean h unit hr hc hm hs,
    fun stack left q hq => execRowSparingComplete_switched h hq, fun lane task tag hc hm => ?_, fun p hr hf hn => ?_,
    fun hi hspec hxcp => execTtcInvalidationDone_finished h hi (fun p hp => ⟨hspec p hp, hxcp p hp⟩),
    fun hb hspec hxcp => execAcuBarrierDone_finished h hb (fun p hp => ⟨hspec p hp, hxcp p hp⟩)⟩
  · exact ⟨_, congrArg Host.Outcome.next (if_pos (by simp [ht, hrole])), State.fullTestEnd_quarantined h (by omega) ht rfl⟩
  · exact ⟨_, congrArg Host.Outcome.next (if_pos (by simp [hf])), State.fullTestEnd_commanded h ht rfl⟩
  · exact ⟨fun hn => ⟨execXngTest_noLane h hr p lane hn, fun hs => execXngRetire_noLane h hr p lane hn hs⟩,
      fun hn hrole hh hi hf => execXngTest_reserve h hr p lane hn hrole hh hi hf, fun hs => execXngRetire_locked h hr p lane hs,
      fun hn hs hrole => execXngRetire_taken h hr p lane hn hs hrole⟩
  · have e := execTagWalk_clean lane task tag hc hm
    refine ⟨fun w hw => ?_, fun r hw hr => ?_⟩
    · rw [hw] at e
      exact ⟨_, e, rfl, State.laneRt_modLane ..⟩
    · rw [hw] at e
      exact ⟨_, e, State.latchWalk_does h hr tag.isLt rfl⟩
  · exact ⟨fun dir e he hs => execTagWrite_alone h hr p hf hn he hs, fun all => execTtcGo_alone h hr p hf hn all, execAcuBarrier_alone h hr p hf hn,
      fun v m slot hm hslot hok hl hm' hs' hv => execAcuRattrWrite_off h hr p hf hn hm hslot hok hl hm' hs' hv⟩

end Sys2Proof.Machine
end

section
/-! PROOFS. HELLO, the packets of the pair and their acknowledgements (08, R195, R196, R198 to R205, R211, R219). -/
namespace Sys2Proof.Machine

/-! ### The register file -/

/-- A field reads as the value put where that fits it. -/
theorem getF_setF_fits {s : State} (h : s.RegsOk) (f : Fld) {v ix : Nat} (hv : v < 2 ^ f.w) : (s.setF f v ix).getF f ix = v :=
  (getF_setF_self _ _ _ _ h).trans (Nat.mod_eq_of_lt hv)

/-- A saturating counter reads as its old value and the step, at most all ones of its width. -/
theorem getF_bump_sat {s : State} (h : s.RegsOk) (f : Fld) (ix n : Nat) : (s.bump f ix n).getF f ix = sat f.w (s.getF f ix + n) :=
  getF_setF_fits h f (Nat.lt_of_le_of_lt (Nat.min_le_right _ _) (Nat.sub_lt (Nat.two_pow_pos _) Nat.one_pos))

/-- The seat is told by PAR_STAT alone. -/
theorem State.seatB_congr {s t : State} (h : t.getF PAR_STAT_SEAT = s.getF PAR_STAT_SEAT) : t.seatB = s.seatB := by
  unfold State.seatB State.seat
  rw [h]

/-! ### HELLO and the start of a pair (R195, R211, R219) -/

section
variable {s : State} (h : s.RegsOk)

/-- HELLO_SEND in START, of a running module. -/
theorem execHelloSend_start (h0 : s.getF PAR_STAT_STATE = 0) (hr : s.Runs) : Gives .helloSend s fun t =>
    (∃ d, t.out = s.out ++ [⟨.boulevard, 7, [0, 0, 0], d⟩]) ∧ t = { s with pair := { s.pair with pktSeq := t.pair.pktSeq }, out := t.out } :=
  ⟨s.sendHello, congrArg Host.Outcome.next (if_pos (by simp [h0, show s.kerb.phase = .run from hr])), ⟨_, rfl⟩, rfl⟩

/-- The partner's HELLO is noted. -/
def State.noted (s : State) (e : Hello) : State := { s with pair := { s.pair with partner := some e, helloAt := s.now } }

/-- A HELLO that a running module without the Lead takes in START, of firmware that it forms a pair with: it joins a Lead, starts the pair with a partner in
START, and else notes it alone. -/
theorem execHelloReceive_start {e : Hello} (hr : s.Runs) (h42 : e.old42 = false) (hlo : s.bundle.protoLo ≤ e.protoHi) (hhi : e.protoLo ≤ s.bundle.protoHi)
    (hl : s.isLead = false) (h0 : s.getF PAR_STAT_STATE = 0) : exec (.helloReceive e) s = .next (
      if e.state = 6 || e.state = 7 then (s.noted e).enterJoin e else if e.state = 0 then ((s.noted e).retCompare e).pairStart e else s.noted e) := by
  have hrun : s.kerb.phase = .run := hr
  have hlead : (s.noted e).isLead = false := hl
  refine congrArg Host.Outcome.next ((if_neg ?_).trans ((if_neg ?_).trans ((if_neg ?_).trans ((if_neg ?_).trans (if_pos h0)))))
  · simp [h42, hrun]; omega
  · exact Bool.eq_false_iff.mp hlead
  · simp [h0]
  · simp [h0]

include h in
/-- A module that joins a Lead of the other seat is in JOIN, without a role. -/
theorem State.enterJoin_otherSeat {e : Hello} (hs : e.seat ≠ s.seatB) :
    (s.enterJoin e).getF PAR_STAT_STATE = 1 ∧ (s.enterJoin e).getF PAR_STAT_ROLE = 0 := by
  have hok : (s.partnerSeen e.devId).RegsOk := (State.partnerSeen_g (SameG.refl apart_state s)).ok h
  obtain ⟨hst, hrole, c, -⟩ := State.enterPair_does hok (st := 1) (by decide)
  have regs : ∃ u : State, u.regs = ((s.partnerSeen e.devId).enterPair 1).regs ∧ (s.enterJoin e).regs = ((u.setF PAR_JOINSTAT_PHASE 1).setF PAR_JOINSTAT_REFUSE 0).regs := by
    unfold State.enterJoin
    rw [if_neg hs]
    exact ⟨_, rfl, rfl⟩
  obtain ⟨u, hu, ht⟩ := regs
  have cu := (((Chg.refl c.ok).same hu).setF PAR_JOINSTAT_PHASE 1 0).setF PAR_JOINSTAT_REFUSE 0 0
  exact ⟨(getF_same ht).trans ((cu.only _ _ (by decide)).trans hst), (getF_same ht).trans ((cu.only _ _ (by decide)).trans hrole)⟩

include h in
/-- A clash of seats: the module is in FENCED. -/
theorem State.seatClash_does : ((s.setF PAR_STAT_SEATCLASH 1).loseRole 8).getF PAR_STAT_STATE = 8 ∧ ((s.setF PAR_STAT_SEATCLASH 1).loseRole 8).getF PAR_STAT_ROLE = 0 :=
  have lost := State.loseRole_does ((Chg.refl h).setF PAR_STAT_SEATCLASH 1 0).ok (st := 8) (by decide)
  ⟨lost.1, lost.2.1⟩

/-- A module that would join a Lead of its own seat finds such a clash. -/
theorem State.enterJoin_ownSeat {e : Hello} (hs : e.seat = s.seatB) : s.enterJoin e = (s.setF PAR_STAT_SEATCLASH 1).loseRole 8 := if_pos hs
/-- So does one that would start a pair with a partner of its own seat. -/
theorem State.pairStart_ownSeat {e : Hello} (hs : e.seat = s.seatB) : s.pairStart e = (s.setF PAR_STAT_SEATCLASH 1).loseRole 8 := if_pos hs

include h in
/-- Comparing the retained areas sets at most RETSPLIT. -/
theorem State.retCompare_chg (e : Hello) : Chg s (s.retCompare e) [(PAR_STAT_RETSPLIT, 0)] := by
  unfold State.retCompare
  split
  · exact (Chg.refl h).setF _ _ _
  · exact (Chg.refl h).mono (by simp)

include h in
/-- HELLO_RECEIVE in START: what becomes of the module, by the partner's state and seat. -/
theorem execHelloReceive_does {e : Hello} (hr : s.Runs) (h42 : e.old42 = false) (hlo : s.bundle.protoLo ≤ e.protoHi) (hhi : e.protoLo ≤ s.bundle.protoHi)
    (hl : s.isLead = false) (h0 : s.getF PAR_STAT_STATE = 0) :
    (e.state ≠ 0 → e.state ≠ 6 → e.state ≠ 7 → Gives (.helloReceive e) s fun t => t = s.noted e) ∧
    (e.state = 6 ∨ e.state = 7 → e.seat ≠ s.seatB → Gives (.helloReceive e) s fun t => t.getF PAR_STAT_STATE = 1 ∧ t.getF PAR_STAT_ROLE = 0) ∧
    (e.state = 0 ∨ e.state = 6 ∨ e.state = 7 → e.seat = s.seatB → Gives (.helloReceive e) s fun t => t.getF PAR_STAT_STATE = 8 ∧ t.getF PAR_STAT_ROLE = 0) := by
  have he := execHelloReceive_start hr h42 hlo hhi hl h0
  have hok : (s.noted e).RegsOk := h
  refine ⟨fun n0 n6 n7 => ⟨_, he, by simp [n0, n6, n7]⟩, fun hst hs => ?_, fun hst hs => ?_⟩
  · rw [if_pos (by simpa using hst)] at he
    exact ⟨_, he, State.enterJoin_otherSeat hok hs⟩
  · by_cases hj : e.state = 6 ∨ e.state = 7
    · rw [if_pos (by simpa using hj)] at he
      exact ⟨_, he, State.enterJoin_ownSeat (s := s.noted e) hs ▸ State.seatClash_does hok⟩
    · rw [if_neg (by simpa using hj), if_pos (hst.resolve_right hj)] at he
      have c := State.retCompare_chg hok e
      have hseat : ((s.noted e).retCompare e).seatB = s.seatB := State.seatB_congr (c.only PAR_STAT_SEAT 0 (by decide))
      exact ⟨_, he, State.pairStart_ownSeat (hs.trans hseat.symm) ▸ State.seatClash_does c.ok⟩

include h in
/-- PAIR_START_TIMEOUT in START where no partner is heard: each witness is asked. -/
theorem execPairStartTimeout_alone (h0 : s.getF PAR_STAT_STATE = 0) (hr : s.Runs) (hp : s.pair.partner = none) (ht : s.pair.startAt + 10000000000 ≤ s.now)
    (hw : ∀ d ∈ s.witnesses, s.flag PNE_PORTSTAT_GCLERR d.2.1 = false ∧ d.2.1 < 65536) : Gives .pairStartTimeout s fun t => t.pair.grantFor = s.nextEpoch ∧
      ∃ l, t.out = s.out ++ l ∧ l.map (fun o => (o.ch, o.what, o.args)) = s.witnesses.map (fun d => (OutCh.witness, 6, [d.2.1, d.1 % 0x1000])) := by
  have hrun : s.kerb.phase = .run := hr
  exact ⟨s.askWitnesses, congrArg Host.Outcome.next (if_pos (by simp [h0, hrun, hp, ht])), State.askWitnesses_does (by rw [hrun]; decide) hw h⟩

end

/-! ### Cycle packets (R196, R198, R199, R213) -/

/-- A packet that arrives outside SUSPECT changes the bookkeeping of the pair alone, and nothing of what JOIN keeps for later. -/
theorem State.heard_notSuspect {s : State} (h4 : s.getF PAR_STAT_STATE ≠ 4) (g : Option Nat) :
    ∃ q, s.heard g = { s with pair := q } ∧ q.queued = s.pair.queued ∧ q.heldSetup = s.pair.heldSetup := by
  cases g with
  | none => exact ⟨_, rfl, rfl, rfl⟩
  | some g =>
    unfold State.heard
    dsimp only
    split
    · exact ⟨_, rfl, rfl, rfl⟩
    · exact ⟨_, if_neg h4, rfl, rfl⟩

/-- The account of the frames of a new layout is none of the commit's number. -/
theorem State.newLayout_csn {a s : State} {l : List Nat} (h : SameCsn a s) : SameCsn a (s.newLayout l) := ⟨h.csn⟩

/-- A packet's flip makes its CSN the newest. -/
theorem State.pktFlip_csn (s : State) (p : CyclePkt) : (s.pktFlip p).2.sq.csn = p.csn := by
  have after (u : State) (w : Ovl) (l : List Nat) : SameCsn (u.flip p.csn w) (if p.activation then ((u.flip p.csn w).dualWrite w).newLayout l else (u.flip p.csn w).dualWrite w) :=
    have hdual := State.dualWrite_csn (SameCsn.refl (u.flip p.csn w))
    SameCsn.ite (State.newLayout_csn hdual) hdual
  exact (after _ _ _).csn

/-- A packet that the engines may write is applied as the commit of its CSN. -/
theorem State.applyPacket_csn {s : State} {p : CyclePkt} (he : s.enginesRefuse pairMasters .wr ((runsOf (s.pktWrites p)).map (fun r => (r.1, r.2.length))) = none) :
    (s.applyPacket p).sq.csn = p.csn := by
  unfold State.applyPacket State.byEngines
  rw [he]
  exact (State.pktReact_csn (State.pktKeep_csn (SameCsn.refl _))).csn.trans (s.pktFlip_csn p)

section
variable {s : State} {p : CyclePkt} (hl : s.isLead = false) (he : s.epoch ≤ p.epoch) (hs : s.pair.pktSeen.contains (p.epoch, p.pktSeq) = false)
include he hs

/-- Such a packet is dropped neither for its epoch nor as a second copy, by a module in JOIN, TRACK, FOLLOW or SUSPECT. -/
theorem State.pkt_notDropped (h1 : 1 ≤ s.getF PAR_STAT_STATE) (h4 : s.getF PAR_STAT_STATE ≤ 4) : ¬ (decide (p.epoch < s.epoch) ||
    s.pair.pktSeen.contains (p.epoch, p.pktSeq) || !(decide (1 ≤ s.getF PAR_STAT_STATE) && decide (s.getF PAR_STAT_STATE ≤ 4))) = true := by
  rw [hs, decide_eq_false (Nat.not_lt.mpr he), decide_eq_true h1, decide_eq_true h4]
  decide

include hl

/-- CYCLE_PACKET_APPLY in JOIN: the packet is queued. -/
theorem execCyclePacketApply_join (h1 : s.getF PAR_STAT_STATE = 1) :
    Gives (.cyclePacketApply p) s fun t => t.pair.queued = s.pair.queued ++ [p] ∧ t = { s with pair := t.pair } := by
  obtain ⟨q, e, hq, -⟩ := State.heard_notSuspect (s := { s with pair := { s.pair with
      pktSeen := ((p.epoch, p.pktSeq) :: s.pair.pktSeen).take 64, queued := s.pair.queued ++ [p] } }) (show s.getF PAR_STAT_STATE ≠ 4 by omega) (s.pktGrid p)
  have hexec : exec (.cyclePacketApply p) s = .next { s with pair := q } :=
    congrArg Host.Outcome.next ((if_neg (Bool.eq_false_iff.mp hl)).trans ((if_neg (State.pkt_notDropped he hs (by omega) (by omega))).trans ((if_pos h1).trans e)))
  exact ⟨_, hexec, hq, rfl⟩

/-- One whose turn has come, in TRACK, FOLLOW or SUSPECT, is applied. -/
theorem execCyclePacketApply_turn (h2 : 2 ≤ s.getF PAR_STAT_STATE) (h4 : s.getF PAR_STAT_STATE ≤ 4)
    (hc : s.pair.applied < p.csn) (hn : s.pktNext p = true) (hq : s.pair.queued = [])
    (hw : s.enginesRefuse pairMasters .wr ((runsOf (s.pktWrites p)).map (fun r => (r.1, r.2.length))) = none) :
    Gives (.cyclePacketApply p) s fun t => t.sq.csn = p.csn := by
  have hexec : exec (.cyclePacketApply p) s = .next
      ((State.applyPacket { s with pair := { s.pair with pktSeen := ((p.epoch, p.pktSeq) :: s.pair.pktSeen).take 64 } } p).drainPkts s.pair.queued.length) :=
    congrArg Host.Outcome.next ((if_neg (Bool.eq_false_iff.mp hl)).trans ((if_neg (State.pkt_notDropped he hs (by omega) h4)).trans ((if_neg (by omega)).trans
      ((if_neg (Nat.not_le.mpr hc)).trans (if_pos hn)))))
  rw [hq] at hexec
  exact ⟨_, hexec, State.applyPacket_csn hw⟩

end

/-! ### TICK packets and acknowledgements (R198 to R200, R206) -/

/-- A TICK packet leaves, and stands for its grid tick. -/
theorem State.sendTick_does {s : State} {g : Nat} (hg : s.pair.gSent < g) :
    (s.sendTick g).pair.gSent = g ∧ ∃ d, (s.sendTick g).out = s.out ++ [⟨.boulevard, 2, [0, 0, g], d⟩] := by
  have hmax : max s.pair.gSent g = g := Nat.max_eq_right hg.le
  unfold State.sendTick
  dsimp only
  split <;> exact ⟨hmax, _, rfl⟩

/-- TICK of a grid tick that is due. -/
theorem execTickSend_due {s : State} {g : Nat} (hf : s.hasFollower = true) (hi : s.isFastGrid g = true) (hg : s.pair.gSent < g) (ht : g + s.pf ≤ s.tick + 1) :
    Gives (.tickSend g) s fun t => t.pair.gSent = g ∧ ∃ d, t.out = s.out ++ [⟨.boulevard, 2, [0, 0, g], d⟩] :=
  ⟨s.sendTick g, congrArg Host.Outcome.next (if_pos (by simp [hf, hi, hg, ht])), State.sendTick_does hg⟩

section
variable {s : State} {epoch : Nat} (hl : s.isLead = false) (he : s.epoch ≤ epoch) (g : Nat) (setup : List (Nat × SetupItem))
include hl he

/-- TICK_PACKET_RECEIVE in JOIN: the set-up items are kept until the transfer has ended. -/
theorem execTickPacketReceive_join (h1 : s.getF PAR_STAT_STATE = 1) :
    Gives (.tickPacketReceive g epoch setup) s fun t => t.pair.heldSetup = s.pair.heldSetup ++ setup ∧ t = { s with pair := t.pair } := by
  obtain ⟨q, e, -, hq⟩ := State.heard_notSuspect (s := { s with pair := { s.pair with heldSetup := s.pair.heldSetup ++ setup } })
    (show s.getF PAR_STAT_STATE ≠ 4 by omega) (some g)
  have hexec : exec (.tickPacketReceive g epoch setup) s = .next { s with pair := q } :=
    congrArg Host.Outcome.next ((if_neg (Bool.eq_false_iff.mp hl)).trans ((if_neg (Nat.not_lt.mpr he)).trans ((if_pos h1).trans e)))
  exact ⟨_, hexec, hq, rfl⟩

/-- Later on they are applied, and the packet is acknowledged. -/
theorem execTickPacketReceive_follows (h2 : 2 ≤ s.getF PAR_STAT_STATE) (h4 : s.getF PAR_STAT_STATE ≤ 4) :
    Gives (.tickPacketReceive g epoch setup) s fun t => ∃ l d, s.out ++ l ++ [⟨.boulevard, 4, [0, 0, 0], d⟩] <+: t.out := by
  have hexec : exec (.tickPacketReceive g epoch setup) s = .next (((setup.foldl State.applyItem s).sendPacket 0x04 0 0 0 0 0 0 0 []).heard (some g)) :=
    congrArg Host.Outcome.next ((if_neg (Bool.eq_false_iff.mp hl)).trans ((if_neg (Nat.not_lt.mpr he)).trans ((if_neg (by omega)).trans (if_pos (by simp; omega)))))
  have hitems : Keeps s (setup.foldl State.applyItem s) := Keeps.foldl (Keeps.refl s) fun _ _ k => State.applyItem_keeps k
  obtain ⟨l, hl⟩ := hitems.out
  obtain ⟨d, hd⟩ : ∃ d, ((setup.foldl State.applyItem s).sendPacket 0x04 0 0 0 0 0 0 0 []).out =
      (setup.foldl State.applyItem s).out ++ [⟨.boulevard, 4, [0, 0, 0], d⟩] := ⟨_, rfl⟩
  refine ⟨_, hexec, l, d, ?_⟩
  rw [hl, ← hd]
  exact (State.heard_keeps (Keeps.refl _)).out

end

/-- The low half of ACKCSN stands apart from what follows an acknowledgement. -/
theorem apart_ackLo : Apart PAR_ACKCSNLO_ACKCSN := by unfold Apart; decide
/-- So does the high half. -/
theorem apart_ackHi : Apart PAR_ACKCSNHI_ACKCSN := by unfold Apart; decide

/-- ACKCSN as it is set, in its two halves, which what waits for it leaves alone. -/
theorem State.setAck_hostAdvance_does {s : State} (h : s.RegsOk) (n : Nat) :
    (s.setAck n).hostAdvance.getF PAR_ACKCSNLO_ACKCSN = n % 2 ^ 32 ∧ (s.setAck n).hostAdvance.getF PAR_ACKCSNHI_ACKCSN = n / 2 ^ 32 % 2 ^ 32 := by
  have clo := (Chg.refl h).setF PAR_ACKCSNLO_ACKCSN n 0
  have chi : Chg s (s.setAck n) _ := clo.setF PAR_ACKCSNHI_ACKCSN (n / 2 ^ 32) 0
  refine ⟨((State.hostAdvance_g (SameG.refl apart_ackLo _)).get chi.ok).trans ?_, ((State.hostAdvance_g (SameG.refl apart_ackHi _)).get chi.ok).trans ?_⟩
  · exact (getF_setF_ne _ _ clo.ok (by decide)).trans (getF_setF_self _ _ _ _ h)
  · exact getF_setF_self _ _ _ _ clo.ok

/-- ACK on a Lead: ACKCSN advances over the packets acknowledged. -/
theorem execAck_lead {s : State} (h : s.RegsOk) (csn : Nat) (h6 : s.getF PAR_STAT_STATE = 6) : Gives (.ack csn) s fun t =>
    t.getF PAR_ACKCSNLO_ACKCSN = (ackPrefix (ackMark csn s.pair.sent) s.ackCsn).2 % 2 ^ 32 ∧
    t.getF PAR_ACKCSNHI_ACKCSN = (ackPrefix (ackMark csn s.pair.sent) s.ackCsn).2 / 2 ^ 32 % 2 ^ 32 :=
  ⟨_, congrArg Host.Outcome.next (if_neg (not_not.mpr h6)), State.setAck_hostAdvance_does (by exact h) _⟩

/-! ### The seat's samples and outputs (R201, R310, R318) -/

/-- A module that applies packets is in TRACK, FOLLOW or SUSPECT. -/
theorem State.tracks_of_range {s : State} (h2 : 2 ≤ s.getF PAR_STAT_STATE) (h4 : s.getF PAR_STAT_STATE ≤ 4) :
    (decide (s.getF PAR_STAT_STATE = 2) || decide (s.getF PAR_STAT_STATE = 3) || decide (s.getF PAR_STAT_STATE = 4)) = true := by
  simp only [Bool.or_eq_true, decide_eq_true_eq]
  omega

/-- SEATSAMPLE leaves with what the rings took. -/
theorem execSeatsampleSend_follows {s : State} (h2 : 2 ≤ s.getF PAR_STAT_STATE) (h4 : s.getF PAR_STAT_STATE ≤ 4) : Gives .seatsampleSend s fun t =>
    (∃ d, t.out = s.out ++ [⟨.boulevard, 3, [0, 0, 0], d⟩]) ∧ t.pair.seatRing = [] ∧ t = { s with pair := t.pair, out := t.out } :=
  ⟨_, congrArg Host.Outcome.next (if_pos (State.tracks_of_range h2 h4)), ⟨_, rfl⟩, rfl, rfl⟩

/-- Entries written into the Square one after another: its bytes are written in that order, and the field I/O is as it was. -/
theorem State.sysWrite_foldl (l : List (Nat × List Byte)) (s : State) :
    (l.foldl (fun s r => s.sysWrite r.1 r.2) s).io = s.io ∧ (l.foldl (fun s r => s.sysWrite r.1 r.2) s).sq.mem = l.foldl (fun m r => memWrL m r.1 r.2) s.sq.mem := by
  induction l generalizing s with
  | nil => exact ⟨rfl, rfl⟩
  | cons r l ih => exact ih (s.sysWrite r.1 r.2)

/-- SEATSAMPLE on a Lead whose engines may write the rings: the seat's values are entered, and the rings' bytes. -/
theorem execSeatsampleReceive_lead {s : State} (vals : List (Nat × Nat × Nat)) {rings : List (Nat × List Byte)} (hl : s.isLead = true)
    (hw : s.enginesRefuse [0x202] .wr (rings.map (fun r => (r.1, r.2.length))) = none) : Gives (.seatsampleReceive vals rings []) s fun t =>
      t.io = { s.io with seatAt := s.tick, inbox := vals.foldl (fun t v => tabSet t v.1 (v.2.2, v.2.1)) s.io.inbox } ∧
      t.sq.mem = rings.foldl (fun m r => memWrL m r.1 r.2) s.sq.mem := by
  generalize hu : ({ s with io := { s.io with seatAt := s.tick, inbox := vals.foldl (fun t v => tabSet t v.1 (v.2.2, v.2.1)) s.io.inbox } } : State) = u
  have hexec : exec (.seatsampleReceive vals rings []) s = .next (rings.foldl (fun s r => s.sysWrite r.1 r.2) u) := by
    refine congrArg Host.Outcome.next ((if_neg (by simp [hl])).trans ?_)
    unfold State.byEngines
    rw [hw, ← hu]
    rfl
  obtain ⟨hio, hmem⟩ := State.sysWrite_foldl rings u
  exact ⟨_, hexec, hio.trans (by rw [← hu]), hmem.trans (by rw [← hu])⟩

/-- SEAT_OUTPUT_TIMEOUT: four P_f without a packet applied hold the outputs. -/
theorem execSeatOutputTimeout_late {s : State} (h2 : 2 ≤ s.getF PAR_STAT_STATE) (h4 : s.getF PAR_STAT_STATE ≤ 4)
    (ht : s.pair.appliedAt + 4 * s.pf * 62500 ≤ s.now) : Gives .seatOutputTimeout s fun t => t.io.hold = true :=
  ⟨_, congrArg Host.Outcome.next (if_pos (by rw [State.tracks_of_range h2 h4, decide_eq_true ht]; rfl)), State.outputsHold_does s true⟩

/-! ### Audits (R203, R204) -/

/-- An audit that ends, counted: the task has none any more. -/
theorem State.auditEnd_bump_does {s : State} (h : s.RegsOk) (t : Nat) (f : Fld) :
    ((s.auditEnd t).bump f).getF f = sat f.w (s.getF f + 1) ∧ ((s.auditEnd t).bump f).pair.audits = s.pair.audits.filter (fun a => a.task ≠ t) :=
  ⟨getF_bump_sat (s := s.auditEnd t) h f 0 1, rfl⟩

/-- The digest of the outputs that an ended audit wrote, with their status bytes. -/
def State.auditOuts (s : State) (t : Nat) (r : Run) : Nat :=
  crc64 ((isort (fun a b => decide (a < b)) ((s.under r.store).wroteOuts t r.stores)).flatMap (fun n =>
    memRdL (memLay r.base (ovlLay r.img r.stores)) ((s.under r.store).outSlot t n) 8 ++ [memRd (memLay r.base (ovlLay r.img r.stores)) ((s.under r.store).outStat t n)]))
/-- The digest of the carried state that it wrote. -/
def State.auditCarry (s : State) (r : Run) : Nat :=
  crc64 (carryBody ((ovlLay r.img r.stores).filter (fun p => (s.under r.store).carried p.1)))

/-- AUDIT_COMPLETE of an audit that has ended and agrees counts AUDOK. -/
theorem execAuditComplete_agrees {s : State} (h : s.RegsOk) {k : TaskNo} {r : Run} {a : AuditRt} (hr : s.run? .audit k.val = some r)
    (ha : s.pair.audits.find? (fun a => a.task = k.val) = some a) (hab : r.abandoned = false) (hheld : r.held = none) (hend : r.st = .ended)
    (ho : s.auditOuts k.val r = a.ohash) (hc : s.auditCarry r = a.chash) : Gives (.auditComplete k) s fun t =>
      t.getF PAR_AUDCNT_AUDOK = sat PAR_AUDCNT_AUDOK.w (s.getF PAR_AUDCNT_AUDOK + 1) ∧ t.pair.audits = s.pair.audits.filter (fun a => a.task ≠ k.val) := by
  have hexec : exec (.auditComplete k) s = .next ((s.auditEnd k.val).bump PAR_AUDCNT_AUDOK) := by
    show execAuditComplete k s = _
    unfold execAuditComplete done
    dsimp only
    rw [hr, ha]
    exact congrArg Host.Outcome.next ((if_neg (by rw [hab]; decide)).trans ((if_neg (by rw [hheld]; decide)).trans ((if_neg (not_not.mpr hend)).trans
      (if_pos (Bool.and_eq_true_iff.mpr ⟨decide_eq_true ho, decide_eq_true hc⟩)))))
  exact ⟨_, hexec, State.auditEnd_bump_does h k.val PAR_AUDCNT_AUDOK⟩

/-- AUDIT_TIMEOUT of one that has lasted 16 periods counts AUDSKIP. -/
theorem execAuditTimeout_late {s : State} (h : s.RegsOk) {k : TaskNo} {a : AuditRt} (ha : s.pair.audits.find? (fun a => a.task = k.val) = some a)
    (ht : a.rel + 16 * s.getF SCH_TASKCFG_PERIOD k.val ≤ s.tick) : Gives (.auditTimeout k) s fun t =>
      t.getF PAR_AUDCNT_AUDSKIP = sat PAR_AUDCNT_AUDSKIP.w (s.getF PAR_AUDCNT_AUDSKIP + 1) ∧ t.pair.audits = s.pair.audits.filter (fun a => a.task ≠ k.val) := by
  have hexec : exec (.auditTimeout k) s = .next ((s.auditEnd k.val).bump PAR_AUDCNT_AUDSKIP) := by
    show execAuditTimeout k s = _
    unfold execAuditTimeout done
    dsimp only
    rw [ha]
    exact congrArg Host.Outcome.next (if_pos ht)
  exact ⟨_, hexec, State.auditEnd_bump_does h k.val PAR_AUDCNT_AUDSKIP⟩

/-! ### Resynchronisation and missing packets (R204, R205, R211) -/

/-- What a command of PAR_CMD leaves that waits for the base tick. -/
def Waits (n : Nat) (p : Path) (s t : State) : Prop :=
  t.pair = { s.pair with cmds := s.pair.cmds ++ [(n, p)] } ∧ t = { s with regs := t.regs, pair := t.pair } ∧ OnlyRegsW 9 s t []

/-- A command of PAR_CMD waits for the base tick; CLEARCFG under UPDATE-ENABLE alone. -/
theorem State.parCmd_waits {s : State} (h : s.RegsOk) (hr : s.Runs) (p : Path) {n : Nat} (hn : n = 5 → s.updateEnable = true) :
    Waits n p s (s.written p parCmdOff (fun s => s.parCmd p n)) := by
  have heffect : s.aside.parCmd p n = { s.aside with pair := { s.pair with cmds := s.pair.cmds ++ [(n, p)] } } :=
    if_neg (by rw [updateEnable_aside h]; simpa using hn)
  obtain ⟨e, c⟩ := State.written_plain (p := p) (off := parCmdOff) (f := fun s => s.parCmd p n) hr h heffect rfl (State.Runs.not_boot hr rfl)
  have hpair := congrArg State.pair e
  exact ⟨hpair, e.trans (by rw [hpair]; rfl), c⟩

/-- RESYNC_COMPLETE in TRACK leads to FOLLOW. -/
theorem execResyncComplete_track {s : State} (h : s.RegsOk) (h2 : s.getF PAR_STAT_STATE = 2) (hr : s.pair.resync ≠ [] ∨ s.pair.resyncAll = true)
    (he : s.pair.resyncEnd = true) (hq : s.pair.queued = []) : Gives .resyncComplete s fun t => t.getF PAR_STAT_STATE = 3 ∧ t.getF PAR_STAT_ROLE = 1 := by
  generalize hu : ({ s with pair := { s.pair with resync := [], resyncAll := false, since := [], resyncEnd := false } } : State) = u
  have hexec : exec .resyncComplete s = .next (u.enterPair 3) := by
    rw [← hu]
    refine congrArg Host.Outcome.next ((if_neg ?_).trans (if_pos h2))
    rcases hr with hr | hr <;> simp [hr, he, hq]
  have hok : u.RegsOk := by rw [← hu]; exact h
  obtain ⟨hst, hrole, -⟩ := State.enterPair_does hok (st := 3) (by decide)
  exact ⟨_, hexec, hst, hrole⟩

/-- A grid tick without its packet or its acknowledgement, counted. -/
def State.missed (s : State) (g : Nat) : State := State.bump { s with pair := { s.pair with missRun := s.pair.missRun + 1, missing := g } } PAR_LOSSCNT_MISSCNT

/-- It counts in MISSCNT alone of the registers. -/
theorem State.missed_does {s : State} (h : s.RegsOk) (g : Nat) :
    (s.missed g).getF PAR_LOSSCNT_MISSCNT = sat 16 (s.getF PAR_LOSSCNT_MISSCNT + 1) ∧ Chg s (s.missed g) [(PAR_LOSSCNT_MISSCNT, 0)] :=
  have c := (Chg.refl h).same (u := { s with pair := { s.pair with missRun := s.pair.missRun + 1, missing := g } }) rfl
  ⟨getF_bump_sat c.ok PAR_LOSSCNT_MISSCNT 0 1, c.bump PAR_LOSSCNT_MISSCNT 0 1⟩

/-- PACKET_MISSING where it is due: a module in FOLLOW enters SUSPECT, another that joins or follows counts. -/
theorem execPacketMissing_due {s : State} (h : s.RegsOk) {g : Nat} (h1 : 1 ≤ s.getF PAR_STAT_STATE) (h4 : s.getF PAR_STAT_STATE ≤ 4) (hg : s.isFastGrid g = true)
    (hl : s.pair.lastTick < g) (hm : s.pair.missing < g) (hh : s.pair.handed = none) (ht : (g + s.pf) * 62500 + 20000 ≤ s.now) :
    Gives (.packetMissing g) s fun t => (s.getF PAR_STAT_STATE = 3 → t.getF PAR_STAT_STATE = 4) ∧
      (s.getF PAR_STAT_STATE ≠ 3 → t = { s with regs := t.regs, pair := { s.pair with missRun := s.pair.missRun + 1, missing := g } } ∧
        t.getF PAR_LOSSCNT_MISSCNT = sat 16 (s.getF PAR_LOSSCNT_MISSCNT + 1)) := by
  have hexec : exec (.packetMissing g) s = .next (if s.getF PAR_STAT_STATE = 3 then ((s.missed g).enterPair 4).askWitnesses else s.missed g) :=
    congrArg Host.Outcome.next (if_pos (by simp [h1, h4, hg, hl, hm, hh, ht]))
  obtain ⟨hcnt, c⟩ := State.missed_does h g
  by_cases h3 : s.getF PAR_STAT_STATE = 3
  · rw [if_pos h3] at hexec
    obtain ⟨hst, -, c', -⟩ := State.enterPair_does c.ok (st := 4) (by decide)
    exact ⟨_, hexec, fun _ => ((State.askWitnesses_g (SameG.refl apart_state _)).get c'.ok).trans hst, fun hn => absurd h3 hn⟩
  · rw [if_neg h3] at hexec
    exact ⟨_, hexec, fun hs => absurd hs h3, fun _ => ⟨rfl, hcnt⟩⟩

/-- Settles O46: each command is taken or due under its premises, and then is one operation of HELLO, of the packets, of an audit or of the pair's state. -/
theorem pairPackets : Obligations.PairPackets := by
  unfold Obligations.PairPackets
  intro s h
  exact ⟨execHelloSend_start, fun e hr h42 hlo hhi hl h0 => execHelloReceive_does h hr h42 hlo hhi hl h0,
    fun h0 hr hp ht hw => execPairStartTimeout_alone h h0 hr hp ht hw,
    fun p hl he hs => ⟨execCyclePacketApply_join hl he hs, execCyclePacketApply_turn hl he hs⟩,
    fun g hf hi hg ht => execTickSend_due hf hi hg ht,
    fun g epoch setup hl he => ⟨execTickPacketReceive_join hl he g setup, execTickPacketReceive_follows hl he g setup⟩,
    fun csn h6 => execAck_lead h csn h6, execSeatsampleSend_follows, fun vals rings hl hw => execSeatsampleReceive_lead vals hl hw,
    execSeatOutputTimeout_late, fun task r a hr ha hab hheld hend ho hc => execAuditComplete_agrees h hr ha hab hheld hend ho hc,
    fun task a ha ht => execAuditTimeout_late h ha ht, fun p hr => ⟨_, rfl, State.parCmd_waits h hr p (by omega)⟩,
    fun h2 hr he hq => execResyncComplete_track h h2 hr he hq, fun g h1 h4 hg hl hm hh ht => execPacketMissing_due h h1 h4 hg hl hm hh ht⟩

end Sys2Proof.Machine
end

section
/-! PROOFS. The loss of a partner, FENCE, the witnesses and the Lead (08, R205 to R208, R210 to R213, R216, R218, R219). -/
namespace Sys2Proof.Machine

/-- The epoch that a module would set is told by its own, by the highest it has heard on the plant links, and by its partner. -/
theorem State.nextEpoch_congr {s t : State} (he : t.epoch = s.epoch) (hm : t.pair.heMax = s.pair.heMax) (hp : t.pair.partner = s.pair.partner) :
    t.nextEpoch = s.nextEpoch := by
  unfold State.nextEpoch
  rw [he, hm, hp]

/-- Its witnesses are told by its configuration. -/
theorem State.witnesses_congr {s t : State} (hp : t.pkgs = s.pkgs) (ha : t.getF SCH_OLCSTAT_ACTSTORE = s.getF SCH_OLCSTAT_ACTSTORE) : t.witnesses = s.witnesses :=
  congrArg witnessList (State.cfg_congr hp ha)

/-! ### A lost partner (R205, R206) -/

section
variable {s : State} (h : s.RegsOk)
include h

/-- A module that is not fit to lead and has lost its Lead is in FENCED. -/
theorem State.leadLostUnfit_does : s.leadLostUnfit.getF PAR_STAT_STATE = 8 :=
  (State.loseRole_does ((State.backfillLost_g (SameG.refl apart_state s)).ok h) (by decide)).1

/-- A module that takes the Lead after a failure is in SOLO, with its new epoch. -/
theorem State.takeAfterFailure_does (he : s.nextEpoch < 2 ^ 32) : s.takeAfterFailure.getF PAR_STAT_STATE = 7 ∧ s.takeAfterFailure.epoch = s.nextEpoch := by
  obtain ⟨hst, hrole, hep, hok⟩ := State.takeLead_does h (st := 7) (by decide) .failure he
  have hlead : (s.takeLead 7 .failure).isLead = true := decide_eq_true hrole
  generalize hu : s.takeLead 7 .failure = u at *
  have same (g : Fld) (hg : Apart g) : SameG g u s.takeAfterFailure := by
    unfold State.takeAfterFailure
    rw [hu, if_pos hlead]
    exact SameG.upd (State.backfillLost_g (State.olcTakeover_g (SameG.refl hg u))) rfl
  exact ⟨((same _ apart_state).get hok).trans hst, ((same _ apart_epoch).get hok).trans hep⟩

/-- LEAD_LOST_DECLARED in SUSPECT: the module is ISOLATED, and has no grants. -/
theorem execLeadLostDeclared_suspect (hl : s.leadLost = true) (h4 : s.getF PAR_STAT_STATE = 4) : Gives .leadLostDeclared s fun t =>
    t.getF PAR_STAT_STATE = 5 ∧ t.pair.grants = [] ∧ t.getF PAR_WITSTAT_GRANTS = 0 := by
  obtain ⟨hst, -, hok⟩ := State.loseRole_does ((State.backfillLost_g (SameG.refl apart_state s)).ok h) (st := 5) (by decide)
  generalize hu : ({ s.backfillLost.loseRole 5 with pair := { (s.backfillLost.loseRole 5).pair with grants := [] } } : State) = u
  have c : Chg (s.backfillLost.loseRole 5) u [] := (Chg.refl hok).same (by rw [← hu])
  have hexec : exec .leadLostDeclared s = .next (u.setF PAR_WITSTAT_GRANTS 0) :=
    congrArg Host.Outcome.next ((if_neg (by simp [hl])).trans (by rw [h4, ← hu]; rfl))
  exact ⟨_, hexec, ((c.setF _ _ _).only PAR_STAT_STATE 0 (by decide)).trans hst, by rw [← hu]; rfl, getF_setF_fits c.ok _ (by decide)⟩

/-- In JOIN or TRACK it is FENCED. -/
theorem execLeadLostDeclared_unfit (hl : s.leadLost = true) (hst : s.getF PAR_STAT_STATE = 1 ∨ s.getF PAR_STAT_STATE = 2) :
    Gives .leadLostDeclared s fun t => t.getF PAR_STAT_STATE = 8 := by
  have hexec : exec .leadLostDeclared s = .next s.leadLostUnfit :=
    congrArg Host.Outcome.next ((if_neg (by simp [hl])).trans (by rcases hst with e | e <;> rw [e] <;> rfl))
  exact ⟨_, hexec, State.leadLostUnfit_does h⟩

/-- ACK_MISSING where an acknowledgement is owed: the first in a row counts, and at the second the Lead goes on in SOLO. -/
theorem execAckMissing_due {g : Nat} (h6 : s.getF PAR_STAT_STATE = 6) (hp : s.pair.partner.any (fun x => x.state = 3 || x.state = 4) = true) (hm : s.pair.missing < g)
    (ht : (g + s.pf) * 62500 + 40000 ≤ s.now) (hs : s.pair.sent.any (fun x => x.std && x.tick = g && !x.acked) = true) :
    (s.pair.missRun = 0 → Gives (.ackMissing g) s fun t => t = { s with regs := t.regs, pair := { s.pair with missRun := s.pair.missRun + 1, missing := g } } ∧
      t.getF PAR_LOSSCNT_MISSCNT = sat 16 (s.getF PAR_LOSSCNT_MISSCNT + 1)) ∧
    (1 ≤ s.pair.missRun → s.pair.heardAt + 500000 ≤ s.now → Gives (.ackMissing g) s fun t => t.getF PAR_STAT_STATE = 7 ∧ t.pair.partner = none) := by
  have hexec : exec (.ackMissing g) s = .next (s.missed g).ackLost := congrArg Host.Outcome.next (if_pos (by
    rw [hp, hs, decide_eq_true h6, decide_eq_true (show g > s.pair.missing from hm), decide_eq_true (show s.now ≥ _ from ht)]; rfl))
  obtain ⟨hcnt, c⟩ := State.missed_does h g
  have h6' : (s.missed g).getF PAR_STAT_STATE = 6 := (c.only _ _ (by decide)).trans h6
  have hrun : (s.missed g).pair.missRun = s.pair.missRun + 1 := rfl
  refine ⟨fun h0 => ?_, fun h1 hh => ?_⟩
  · have hstay : (s.missed g).ackLost = s.missed g := if_neg (by simp [hrun, h0])
    exact ⟨_, hexec.trans (congrArg _ hstay), rfl, hcnt⟩
  · have hlost : (s.missed g).ackLost = (s.missed g).partnerLost ((s.missed g).flag PAR_STAT_FENCEIN) := by
      refine if_pos ?_
      rw [decide_eq_true h6', hrun, decide_eq_true (show s.pair.missRun + 1 ≥ 2 by omega)]
      exact decide_eq_true hh
    obtain ⟨hst, hpart, -⟩ := State.partnerLost_does c.ok h6' ((s.missed g).flag PAR_STAT_FENCEIN)
    exact ⟨_, hexec.trans (congrArg _ hlost), hst, hpart⟩

/-! ### FENCE and the seat signals (R207, R208, R219) -/

/-- FENCE of the partner as PAR_STAT shows it. -/
abbrev State.fenceShown (s : State) : State := (s.setF PAR_STAT_FENCEIN 1).setF PAR_STAT_FENCEFLT 0

/-- It shows there alone. -/
theorem State.fenceShown_chg : Chg s s.fenceShown [(PAR_STAT_FENCEFLT, 0), (PAR_STAT_FENCEIN, 0)] := ((Chg.refl h).setF _ _ _).setF _ _ _

/-- FENCE leaves a Lead in SOLO. -/
theorem execFenceRecognised_lead (h6 : s.getF PAR_STAT_STATE = 6) : Gives .fenceRecognised s fun t =>
    t.getF PAR_STAT_STATE = 7 ∧ t.pair.partner = none ∧ t.pair.lostUnfenced = false := by
  have c := State.fenceShown_chg h
  have hst : s.fenceShown.getF PAR_STAT_STATE = 6 := (c.only _ _ (by decide)).trans h6
  have hexec : exec .fenceRecognised s = .next (s.fenceShown.partnerLost true) := by
    show execFenceRecognised s = _
    unfold execFenceRecognised done
    dsimp only
    rw [hst]
    rfl
  obtain ⟨e1, e2, e3, -⟩ := State.partnerLost_does c.ok hst true
  exact ⟨_, hexec, e1, e2, e3⟩

/-- It gives a Follower that no HANDOVER has reached the Lead. -/
theorem execFenceRecognised_follower (h34 : s.getF PAR_STAT_STATE = 3 ∨ s.getF PAR_STAT_STATE = 4) (hh : s.pair.handed = none) (he : s.nextEpoch < 2 ^ 32) :
    Gives .fenceRecognised s fun t => t.getF PAR_STAT_STATE = 7 ∧ t.epoch = s.nextEpoch := by
  have c := State.fenceShown_chg h
  have hepoch : s.fenceShown.nextEpoch = s.nextEpoch := State.nextEpoch_congr (c.only _ _ (by decide)) rfl rfl
  have hexec : exec .fenceRecognised s = .next s.fenceShown.takeAfterFailure := by
    show execFenceRecognised s = _
    unfold execFenceRecognised done
    dsimp only
    rcases h34 with e | e <;> rw [(c.only _ _ (by decide)).trans e] <;> exact congrArg Host.Outcome.next (if_neg (by simp [hh]))
  rw [← hepoch] at he ⊢
  exact ⟨_, hexec, State.takeAfterFailure_does c.ok he⟩

/-- In JOIN or TRACK the module is FENCED. -/
theorem execFenceRecognised_unfit (h12 : s.getF PAR_STAT_STATE = 1 ∨ s.getF PAR_STAT_STATE = 2) :
    Gives .fenceRecognised s fun t => t.getF PAR_STAT_STATE = 8 := by
  have c := State.fenceShown_chg h
  have hexec : exec .fenceRecognised s = .next s.fenceShown.leadLostUnfit := by
    show execFenceRecognised s = _
    unfold execFenceRecognised done
    dsimp only
    rcases h12 with e | e <;> rw [(c.only _ _ (by decide)).trans e] <;> rfl
  exact ⟨_, hexec, State.leadLostUnfit_does c.ok⟩

/-- Elsewhere FENCE only shows. -/
theorem execFenceRecognised_shown (hst : s.getF PAR_STAT_STATE = 0 ∨ s.getF PAR_STAT_STATE = 5 ∨ s.getF PAR_STAT_STATE = 7 ∨ s.getF PAR_STAT_STATE = 8) :
    Gives .fenceRecognised s fun t => t.flag PAR_STAT_FENCEIN = true ∧ t.flag PAR_STAT_FENCEFLT = false ∧ t = { s with regs := t.regs } ∧
      OnlyRegs s t [(PAR_STAT_FENCEIN, 0), (PAR_STAT_FENCEFLT, 0)] := by
  have c1 := (Chg.refl h).setB PAR_STAT_FENCEIN true 0
  have c := State.fenceShown_chg h
  have hexec : exec .fenceRecognised s = .next s.fenceShown := by
    show execFenceRecognised s = _
    unfold execFenceRecognised done
    dsimp only
    rcases hst with e | e | e | e <;> rw [(c.only _ _ (by decide)).trans e] <;> rfl
  exact ⟨_, hexec, (flag_setF_ne c1.ok (by decide)).trans (flag_setB_self h true rfl), flag_setB_self c1.ok false rfl, rfl, c.only.mono (by simp)⟩

/-- Its release shows. -/
theorem execFenceReleased_shown : Gives .fenceReleased s fun t => t.flag PAR_STAT_FENCEIN = false ∧ t.flag PAR_STAT_FENCEFLT = false ∧ t = { s with regs := t.regs } ∧
    OnlyRegs s t [(PAR_STAT_FENCEIN, 0), (PAR_STAT_FENCEFLT, 0)] :=
  have c1 := (Chg.refl h).setB PAR_STAT_FENCEIN false 0
  ⟨_, rfl, (flag_setF_ne c1.ok (by decide)).trans (flag_setB_self h false rfl), flag_setB_self c1.ok false rfl, rfl, (c1.setB PAR_STAT_FENCEFLT false 0).only.mono (by simp)⟩

/-- A fault of the line shows. -/
theorem execFenceLineFault_shown : Gives .fenceLineFault s fun t => t.flag PAR_STAT_FENCEFLT = true ∧ t = { s with regs := t.regs } ∧ OnlyRegs s t [(PAR_STAT_FENCEFLT, 0)] :=
  ⟨_, rfl, flag_setB_self h true rfl, rfl, ((Chg.refl h).setB PAR_STAT_FENCEFLT true 0).only⟩

/-- The fall of SEATSENSE shows. -/
theorem execSeatsenseFall_shown : Gives .seatsenseFall s fun t => t.flag PAR_STAT_PSEAT = false ∧ t = { s with regs := t.regs } ∧ OnlyRegs s t [(PAR_STAT_PSEAT, 0)] :=
  ⟨_, rfl, flag_setB_self h false rfl, rfl, ((Chg.refl h).setB PAR_STAT_PSEAT false 0).only⟩

/-- A join that begins is in phase 1, with no cause of a refusal, and the registers of the join alone tell of it. -/
theorem State.beginJoin_does : s.beginJoin.getF PAR_JOINSTAT_PHASE = 1 ∧ s.beginJoin.getF PAR_JOINSTAT_REFUSE = 0 ∧
    Chg s s.beginJoin [(PAR_JOINSTAT_BULKPCT, 0), (PAR_JOINSTAT_REFUSE, 0), (PAR_JOINSTAT_PHASE, 0)] := by
  have c1 := (Chg.refl h).setF PAR_JOINSTAT_PHASE 1 0
  have c2 := c1.setF PAR_JOINSTAT_REFUSE 0 0
  have c3 := c2.setF PAR_JOINSTAT_BULKPCT 0 0
  have hregs : s.beginJoin.regs = (((s.setF PAR_JOINSTAT_PHASE 1).setF PAR_JOINSTAT_REFUSE 0).setF PAR_JOINSTAT_BULKPCT 0).regs := State.event_regs ..
  refine ⟨(getF_same hregs).trans ?_, (getF_same hregs).trans ?_, c3.same hregs⟩
  · exact (getF_setF_ne _ _ c2.ok (by decide)).trans ((getF_setF_ne _ _ c1.ok (by decide)).trans (getF_setF_fits h _ (by decide)))
  · exact (getF_setF_ne _ _ c2.ok (by decide)).trans (getF_setF_fits c1.ok _ (by decide))

/-- Whether a join may begin by itself is the same where SEATSENSE shows. -/
theorem State.autoJoin_seatsense : ((s.setF PAR_STAT_PSEAT 1).flag PAR_CTL_AUTOJOIN && (s.setF PAR_STAT_PSEAT 1).joinFree) = (s.flag PAR_CTL_AUTOJOIN && s.joinFree) := by
  have c := (Chg.refl h).setF PAR_STAT_PSEAT 1 0
  unfold State.joinFree State.isLead State.flag
  rw [c.only PAR_CTL_AUTOJOIN 0 (by decide), c.only PAR_STAT_ROLE 0 (by decide), c.only PAR_JOINSTAT_PHASE 0 (by decide), c.only PAR_STAT_STATE 0 (by decide)]
  rfl

/-- The rise of SEATSENSE shows. -/
theorem execSeatsenseRise_shown (hj : (s.flag PAR_CTL_AUTOJOIN && s.joinFree) = false) : Gives .seatsenseRise s fun t =>
    t.flag PAR_STAT_PSEAT = true ∧ t = { s with regs := t.regs } ∧ OnlyRegs s t [(PAR_STAT_PSEAT, 0)] :=
  ⟨_, congrArg Host.Outcome.next (if_neg (Bool.eq_false_iff.mp ((State.autoJoin_seatsense h).trans hj))), flag_setB_self h true rfl, rfl,
    ((Chg.refl h).setB PAR_STAT_PSEAT true 0).only⟩

/-- Under AUTOJOIN it begins a join. -/
theorem execSeatsenseRise_joins (hj : (s.flag PAR_CTL_AUTOJOIN && s.joinFree) = true) : Gives .seatsenseRise s fun t =>
    t.flag PAR_STAT_PSEAT = true ∧ t.getF PAR_JOINSTAT_PHASE = 1 ∧ t.getF PAR_JOINSTAT_REFUSE = 0 := by
  have hexec : exec .seatsenseRise s = .next (s.setF PAR_STAT_PSEAT 1).beginJoin := congrArg Host.Outcome.next (if_pos ((State.autoJoin_seatsense h).trans hj))
  obtain ⟨hph, href, c⟩ := State.beginJoin_does ((Chg.refl h).setF PAR_STAT_PSEAT 1 0).ok
  refine ⟨_, hexec, ?_, hph, href⟩
  unfold State.flag
  rw [c.only PAR_STAT_PSEAT 0 (by decide)]
  exact flag_setB_self h true rfl

end

/-! ### Witnesses (R210 to R212, R216) -/

/-- A BEACON to one witness, of a Lead at a grid tick: a peer controller, or a station that has had no OUTPUT frame since. -/
def State.beaconTo (g : Nat) (s : State) (d : Nat × Nat × (Nat × Nat)) : State :=
  if d.1 ≥ 0x1000 || decide (tabGet 0 s.plant.outAt d.1 < g) then s.fspSend .witness 0x05 d.2.1 (d.1 % 0x1000) s.stamp32 0 false [] else s

/-- Witnesses that each get one, on links that send: the BEACONs leave in their order. -/
theorem State.beaconTo_foldl {g : Nat} {l : List (Nat × Nat × (Nat × Nat))} {s : State} (hp : s.kerb.phase ≠ .off) (hk : s.flag PNE_CTL_KERBSTOP = false)
    (hl : ∀ d ∈ l, (0x1000 ≤ d.1 ∨ tabGet 0 s.plant.outAt d.1 < g) ∧ s.flag PNE_PORTSTAT_GCLERR d.2.1 = false) :
    ∃ o, (l.foldl (State.beaconTo g) s).out = s.out ++ o ∧ o.map (fun o => (o.ch, o.what, o.args)) = l.map (fun d => (OutCh.witness, 5, [d.2.1, d.1 % 0x1000])) := by
  induction l generalizing s with
  | nil => exact ⟨[], (List.append_nil _).symm, rfl⟩
  | cons d l ih =>
    obtain ⟨hd, hlink⟩ := hl d (List.mem_cons_self ..)
    obtain ⟨f, pl, e, hpl⟩ := State.fspSend_does (s := s) (ch := .witness) (ty := 5) (link := d.2.1) (sta := d.1 % 0x1000) (stamp := s.stamp32)
      (cy := 0) (sf := false) (d := []) hp (fun hstop => by rw [hk] at hstop; cases hstop) hlink
    have hto : s.beaconTo g d = { s with plant := pl, out := s.out ++ [⟨.witness, 5, [d.2.1, d.1 % 0x1000], f⟩] } := (if_pos (by simpa using hd)).trans e
    have hout : pl.outAt = s.plant.outAt := by rw [hpl]
    obtain ⟨o, ho, hmap⟩ := ih (s := s.beaconTo g d) (by rw [hto]; exact hp) (by rw [hto]; exact hk) (by
      intro x hx
      rw [hto]
      exact (show tabGet 0 pl.outAt x.1 = tabGet 0 s.plant.outAt x.1 by rw [hout]) ▸ hl x (List.mem_cons_of_mem _ hx))
    refine ⟨⟨.witness, 5, [d.2.1, d.1 % 0x1000], f⟩ :: o, ?_, ?_⟩
    · rw [List.foldl_cons, ho, hto, List.append_assoc]
      rfl
    · rw [List.map_cons, List.map_cons, hmap]

/-- BEACON at a grid tick. -/
theorem execBeacon_sent {s : State} {g : Nat} (hl : s.isLead = true) (hg : s.fastGrid g = g) (hp : s.kerb.phase ≠ .off) (hk : s.flag PNE_CTL_KERBSTOP = false)
    (hw : ∀ d ∈ s.witnesses, (0x1000 ≤ d.1 ∨ tabGet 0 s.plant.outAt d.1 < g) ∧ s.flag PNE_PORTSTAT_GCLERR d.2.1 = false) : Gives (.beacon g) s fun t =>
      ∃ l, t.out = s.out ++ l ∧ l.map (fun o => (o.ch, o.what, o.args)) = s.witnesses.map (fun d => (OutCh.witness, 5, [d.2.1, d.1 % 0x1000])) :=
  ⟨s.witnesses.foldl (State.beaconTo g) s, congrArg Host.Outcome.next (if_pos (by simp [hl, hg])), State.beaconTo_foldl hp hk hw⟩

/-- WREQ in SUSPECT. -/
theorem execWreq_suspect {s : State} (h : s.RegsOk) (h4 : s.getF PAR_STAT_STATE = 4) (hp : s.kerb.phase ≠ .off)
    (hw : ∀ d ∈ s.witnesses, s.flag PNE_PORTSTAT_GCLERR d.2.1 = false ∧ d.2.1 < 65536) : Gives .wreq s fun t => t.pair.grantFor = s.nextEpoch ∧
      ∃ l, t.out = s.out ++ l ∧ l.map (fun o => (o.ch, o.what, o.args)) = s.witnesses.map (fun d => (OutCh.witness, 6, [d.2.1, d.1 % 0x1000])) :=
  ⟨s.askWitnesses, congrArg Host.Outcome.next (if_pos h4), State.askWitnesses_does hp hw h⟩

/-- The grant of a witness, counted. -/
def State.granted (s : State) (w : Nat) : State :=
  State.setF { s with pair := { s.pair with grants := w :: s.pair.grants } } PAR_WITSTAT_GRANTS (s.pair.grants.length + 1)

/-- It changes GRANTS alone of the registers. -/
theorem State.granted_chg {s : State} (h : s.RegsOk) (w : Nat) : Chg s (s.granted w) [(PAR_WITSTAT_GRANTS, 0)] :=
  ((Chg.refl h).same (u := { s with pair := { s.pair with grants := w :: s.pair.grants } }) rfl).setF _ _ _

section
variable {s u : State} {link : Fin 104} {frame : List Byte} {f : Fsp}

/-- WGRANT of a witness that has not granted the requested epoch yet: it counts, and a majority gives the Lead. -/
theorem execWgrant_granted {w : Nat} (hf : s.fspTake link 0x07 frame = (some f, u)) (h : u.RegsOk) (hw : u.witnessId f.sta = some w)
    (hg : u.pair.grants.contains w = false) (he : leNat (f.data.take 4) = u.pair.grantFor)
    (hst : u.getF PAR_STAT_STATE = 0 ∨ u.getF PAR_STAT_STATE = 3 ∨ u.getF PAR_STAT_STATE = 4) :
    exec (.wgrant link frame) s = .next (if 2 * (u.pair.grants.length + 1) ≤ u.witnesses.length then u.granted w
      else if u.getF PAR_STAT_STATE ≠ 0 then (u.granted w).takeAfterFailure else ((u.granted w).takeLead 7 .pairStart).firstStart) := by
  have hwit : (u.granted w).witnesses = u.witnesses := State.witnesses_congr rfl ((State.granted_chg h w).only _ _ (by decide))
  have hstates : (decide (u.getF PAR_STAT_STATE = 3) || decide (u.getF PAR_STAT_STATE = 4) || decide (u.getF PAR_STAT_STATE = 0)) = true := by
    simp only [Bool.or_eq_true, decide_eq_true_eq]
    omega
  show execWgrant link frame s = _
  unfold execWgrant done
  rw [hf]
  dsimp only
  rw [if_neg (by rw [hw, Option.getD_some, hg, hstates, decide_eq_true he]; simp), hw, ← hwit]
  rfl

/-- Short of a majority it counts. -/
theorem execWgrant_counts {w : Nat} (hf : s.fspTake link 0x07 frame = (some f, u)) (h : u.RegsOk) (hw : u.witnessId f.sta = some w)
    (hg : u.pair.grants.contains w = false) (he : leNat (f.data.take 4) = u.pair.grantFor)
    (hst : u.getF PAR_STAT_STATE = 0 ∨ u.getF PAR_STAT_STATE = 3 ∨ u.getF PAR_STAT_STATE = 4) (hmin : 2 * (u.pair.grants.length + 1) ≤ u.witnesses.length) :
    Gives (.wgrant link frame) s fun t => t.pair.grants = w :: u.pair.grants ∧ t.getF PAR_WITSTAT_GRANTS = (u.pair.grants.length + 1) % 32 :=
  ⟨u.granted w, (execWgrant_granted hf h hw hg he hst).trans (congrArg _ (if_pos hmin)), rfl, getF_setF_self _ _ _ _ h⟩

/-- A majority gives a Follower the Lead. -/
theorem execWgrant_majority {w : Nat} (hf : s.fspTake link 0x07 frame = (some f, u)) (h : u.RegsOk) (hw : u.witnessId f.sta = some w)
    (hg : u.pair.grants.contains w = false) (he : leNat (f.data.take 4) = u.pair.grantFor) (hst : u.getF PAR_STAT_STATE = 3 ∨ u.getF PAR_STAT_STATE = 4)
    (hmaj : u.witnesses.length < 2 * (u.pair.grants.length + 1)) (hn : u.nextEpoch < 2 ^ 32) :
    Gives (.wgrant link frame) s fun t => t.getF PAR_STAT_STATE = 7 ∧ t.epoch = u.nextEpoch := by
  have c := State.granted_chg h w
  have hepoch : (u.granted w).nextEpoch = u.nextEpoch := State.nextEpoch_congr (c.only _ _ (by decide)) rfl rfl
  have hexec : exec (.wgrant link frame) s = .next (u.granted w).takeAfterFailure :=
    (execWgrant_granted hf h hw hg he (.inr hst)).trans (congrArg _ ((if_neg (Nat.not_le.mpr hmaj)).trans (if_pos (by omega))))
  rw [← hepoch] at hn ⊢
  exact ⟨_, hexec, State.takeAfterFailure_does c.ok hn⟩

/-- WREFUSE counts. -/
theorem execWrefuse_counts (hf : s.fspTake link 0x08 frame = (some f, u)) (h : u.RegsOk) : Gives (.wrefuse link frame) s fun t =>
    t.getF PAR_WITSTAT_REFUSED = sat PAR_WITSTAT_REFUSED.w (u.getF PAR_WITSTAT_REFUSED + 1) := by
  have hexec : exec (.wrefuse link frame) s = .next (u.bump PAR_WITSTAT_REFUSED) := by
    show execWrefuse link frame s = _
    unfold execWrefuse done
    rw [hf]
  exact ⟨_, hexec, getF_bump_sat h _ 0 1⟩

end

section
variable {s : State} (h : s.RegsOk)
include h

/-- WITNESS_ASSENT_LOST after a loss without FENCE: the Lead steps down. -/
theorem execWitnessAssentLost_down (hl : s.isLead = true) (hu : s.pair.lostUnfenced = true) (ha : 2 * s.assents ≤ s.witnesses.length) :
    Gives .witnessAssentLost s fun t => t.getF PAR_STAT_STATE = 8 ∧ t.getF PAR_STAT_ROLE = 0 := by
  obtain ⟨hst, hrole, -⟩ := State.stepDown_does h hl
  exact ⟨_, congrArg Host.Outcome.next (if_pos (by simp [hl, hu, ha])), hst, hrole⟩

/-! ### Orderly switch-over (R218) -/

/-- SWITCH_TICK: the old Lead enters TRACK. -/
theorem execSwitchTick_oldLead {k : Nat} (hk : s.pair.switchAt = some k) (h6 : s.getF PAR_STAT_STATE = 6) (ht : k ≤ s.tick) :
    Gives .switchTick s fun t => t.getF PAR_STAT_STATE = 2 ∧ t.getF PAR_STAT_ROLE = 0 := by
  generalize hv : (if s.pair.setup.isEmpty then s else s.sendTick (s.fastFloor (k - 1))) = v
  generalize hw : v.abortRuns.hostNotLead.sendPacket 0x05 0 0 s.sq.csn 0 0 0 0 [] = w
  have kw : Keeps s w := by
    have kv : Keeps s v := hv ▸ Keeps.ite (Keeps.refl s) (State.sendTick_keeps (Keeps.refl s))
    exact hw ▸ State.sendPacket_keeps (State.hostNotLead_keeps (State.abortRuns_keeps kv))
  generalize hu : State.setF { w with pair := { w.pair with switchAt := none, oldLead := true, applied := s.sq.csn, appliedAt := w.now, lastTick := w.tick,
                                                            missRun := 0, missing := 0, sent := [] } } PAR_STAT_SWPEND 0 = u
  have c : Chg w u [(PAR_STAT_SWPEND, 0)] := hu ▸ ((Chg.refl (kw.regs h)).same (by rfl)).setF _ _ _
  have hexec : exec .switchTick s = .next (u.enterPair 2) := by
    show execSwitchTick s = _
    unfold execSwitchTick done
    rw [hk]
    dsimp only
    rw [if_pos (by simp [h6, ht]), hv, hw, hu]
  obtain ⟨hst, hrole, -⟩ := State.enterPair_does c.ok (st := 2) (by decide)
  exact ⟨_, hexec, hst, hrole⟩

omit h in
/-- HANDOVER waits for the switch tick to be known. -/
theorem State.tryHandover_waits (hk : s.pair.switchAt = none) : s.tryHandover = s := by
  unfold State.tryHandover
  split
  · next hk' => rw [hk] at hk'; cases hk'
  · rfl

/-- Once every packet up to the CSN that it names is applied and the switch tick has come, an eligible Follower takes the Lead. -/
theorem State.tryHandover_takes {c k : Nat} (hel : s.flag PAR_STAT_ELIGIBLE = true) (hh : s.pair.handed = some c) (hk : s.pair.switchAt = some k)
    (hc : c ≤ s.pair.applied) (ht : k ≤ s.tick) (hn : s.nextEpoch < 2 ^ 32) : s.tryHandover.getF PAR_STAT_STATE = 6 ∧ s.tryHandover.epoch = s.nextEpoch := by
  obtain ⟨hst, -, hep, -⟩ := State.takeLead_does h (st := 6) (by decide) .orderly hn
  unfold State.tryHandover
  rw [hh, hk]
  dsimp only
  rw [if_pos (by rw [hel, decide_eq_true (show s.pair.applied ≥ c from hc), decide_eq_true (show s.tick ≥ k from ht)]; decide)]
  exact ⟨hst, hep⟩

omit h in
/-- HANDOVER of the own epoch, on a module that is eligible, is noted. -/
theorem execHandover_noted (csn : Nat) (hel : s.flag PAR_STAT_ELIGIBLE = true) :
    exec (.handover csn s.epoch) s = .next (State.tryHandover { s with pair := { s.pair with handed := some csn } }) :=
  congrArg Host.Outcome.next (if_pos (by simp [hel]))

end

/-- Settles O47: each command is due under its premises, and then is a change of the pair's state, a count, or what goes to the witnesses. -/
theorem pairRoles : Obligations.PairRoles := by
  unfold Obligations.PairRoles
  intro s h
  exact ⟨fun hl => ⟨execLeadLostDeclared_suspect h hl, execLeadLostDeclared_unfit h hl⟩, fun g h6 hp hm ht hs => execAckMissing_due h h6 hp hm ht hs,
    execFenceRecognised_lead h, execFenceRecognised_follower h, execFenceRecognised_unfit h, execFenceRecognised_shown h, execFenceReleased_shown h,
    execFenceLineFault_shown h, execSeatsenseRise_shown h, execSeatsenseRise_joins h, execSeatsenseFall_shown h,
    fun g hl hg hp hk hw => execBeacon_sent hl hg hp hk hw, fun h4 hp hw => execWreq_suspect h h4 hp hw,
    fun link frame f u w hf hu hw hg he => ⟨execWgrant_counts hf hu hw hg he, execWgrant_majority hf hu hw hg he⟩,
    fun link frame f u hf hu => execWrefuse_counts hf hu, execWitnessAssentLost_down h, fun k hk h6 ht => execSwitchTick_oldLead h hk h6 ht,
    fun csn hel => ⟨fun hk => ⟨_, execHandover_noted csn hel, State.tryHandover_waits hk⟩,
      fun k hk hc ht hn => ⟨_, execHandover_noted csn hel, State.tryHandover_takes h hel rfl hk hc ht hn⟩⟩⟩

end Sys2Proof.Machine
end

section
/-! PROOFS. The commands of PAR_CMD, and a join from its attestation to the back-fill (08, R204, R218 to R225; 17, R443). -/
namespace Sys2Proof.Machine

section
variable {s : State} (h : s.RegsOk)
include h

/-! ### PAR_CMD (R218, R225) -/

/-- CLEARCFG without UPDATE-ENABLE is ignored with cause 2. -/
theorem State.parClearcfg_locked (hr : s.Runs) (p : Path) (hu : s.updateEnable = false) :
    RegsOnlyW 9 s (s.written p parCmdOff (fun s => s.parCmd p 5)) [(KRB_IGNSTAT_CAUSE, 0), (KRB_IGNADDR_OFFSET, 0), (KRB_IGNPATH_PATH, 0)] ∧
      (s.written p parCmdOff (fun s => s.parCmd p 5)).getF KRB_IGNSTAT_CAUSE = 2 :=
  State.written_ign hr h (if_pos (by rw [updateEnable_aside h, hu]; decide)) (by decide) (by decide) (by decide)

/-- A partner's SWITCH that the Lead grants is scheduled. -/
theorem execParSwitch_granted (hl : s.isLead = true) (hok : s.switchOk = true) : Gives (.parSwitch none) s fun t =>
    t.pair.switchAt = some (s.fastGrid (s.tick + 16)) ∧ t.flag PAR_STAT_SWPEND = true := by
  have hexec : exec (.parSwitch none) s = .next s.scheduleSwitch :=
    congrArg Host.Outcome.next ((if_pos hl).trans (by rw [State.switchRequest, if_pos hok]))
  have shared (u : State) (i : SetupItem) : (u.share i).pair.switchAt = u.pair.switchAt ∧ (u.share i).regs = u.regs := by
    unfold State.share
    split <;> exact ⟨rfl, rfl⟩
  obtain ⟨hat, hregs⟩ := shared { s with pair := { s.pair with switchAt := some (s.fastGrid (s.tick + 16)) } } (.switchTick (s.fastGrid (s.tick + 16)))
  exact ⟨_, hexec, hat, flag_setB_self (((Chg.refl h).same hregs).ok) true rfl⟩

/-- One that it refuses is counted in SWREF. -/
theorem execParSwitch_refused (hl : s.isLead = true) (hok : s.switchOk = false) : Gives (.parSwitch none) s fun t =>
    t.getF PAR_WITSTAT_SWREF = sat PAR_WITSTAT_SWREF.w (s.getF PAR_WITSTAT_SWREF + 1) ∧ t = { s with regs := t.regs } ∧ OnlyRegs s t [(PAR_WITSTAT_SWREF, 0)] := by
  have hexec : exec (.parSwitch none) s = .next (s.bump PAR_WITSTAT_SWREF) :=
    congrArg Host.Outcome.next ((if_pos hl).trans (by rw [State.switchRequest, if_neg (by simp [hok])]))
  exact ⟨_, hexec, getF_bump_sat h _ 0 1, rfl, ((Chg.refl h).bump _ 0 1).only⟩

/-! ### A join refused, or let go on (R219, R443 to R445) -/

/-- A refused join shows its cause, and no phase. -/
theorem State.refuseJoin_does {c : Nat} (hc : c < 8) : (s.refuseJoin c).getF PAR_JOINSTAT_REFUSE = c ∧ (s.refuseJoin c).getF PAR_JOINSTAT_PHASE = 0 := by
  have c1 := (Chg.refl h).setF PAR_JOINSTAT_PHASE 0 0
  have hregs : (s.refuseJoin c).regs = ((s.setF PAR_JOINSTAT_PHASE 0).setF PAR_JOINSTAT_REFUSE c).regs := State.event_regs ..
  exact ⟨(getF_same hregs).trans (getF_setF_fits c1.ok _ hc),
    (getF_same hregs).trans ((getF_setF_ne _ _ c1.ok (by decide)).trans (getF_setF_fits h _ (by decide)))⟩

/-- JOIN_CLOCK_TIMEOUT on a Lead whose partner's clock does not agree: it refuses with cause 7. -/
theorem execJoinClockTimeout_lead (hl : s.isLead = true) (h6 : s.getF PAR_JOINSTAT_PHASE = 6) : Gives .joinClockTimeout s fun t =>
    t.getF PAR_JOINSTAT_REFUSE = 7 ∧ t.getF PAR_JOINSTAT_PHASE = 0 :=
  ⟨_, congrArg Host.Outcome.next (if_pos (by simp [hl, h6])), State.refuseJoin_does h (by decide)⟩

/-- On a joiner that still waits it leads to FENCED. -/
theorem execJoinClockTimeout_joiner (hl : s.isLead = false) (h1 : s.getF PAR_STAT_STATE = 1) (h2 : s.getF PAR_JOINSTAT_PHASE ≤ 2) : Gives .joinClockTimeout s fun t =>
    t.getF PAR_STAT_STATE = 8 ∧ t.getF PAR_STAT_ROLE = 0 := by
  obtain ⟨hst, hrole, -⟩ := State.loseRole_does (((Chg.refl h).setF PAR_JOINSTAT_REFUSE 7 0).setF PAR_JOINSTAT_PHASE 0 0).ok (st := 8) (by decide)
  exact ⟨_, congrArg Host.Outcome.next ((if_neg (by simp [hl])).trans (if_pos (by simp [h1, h2]))), hst, hrole⟩

/-- A partner of the other seat and of another installation: the join goes on to the clocks. -/
theorem State.settleCfg_otherInst {e : Hello} (hp : s.pair.partner = some e) (hs : e.seat ≠ s.seatB) (hi : e.instId ≠ s.cfg.instId) :
    s.settleCfg.getF PAR_JOINSTAT_PHASE = 6 := by
  have hphase : s.settleCfg = s.setF PAR_JOINSTAT_PHASE 6 := by
    unfold State.settleCfg
    rw [hp]
    exact (if_neg hs).trans (if_pos hi)
  rw [hphase]
  exact getF_setF_fits h _ (by decide)

omit h in
/-- A SECURITY record enters the event log alone. -/
theorem State.evSec_frame (n : Nat) (l : List Nat) : ∃ a, s.evSec n l = { s with arc := a } := by
  unfold State.evSec State.event
  split
  · exact ⟨s.arc, rfl⟩
  · exact ⟨_, rfl⟩

/-- Noticing a partner changes PARTNERNEW alone of the registers, and the event log. -/
theorem State.partnerSeen_does (dev : Nat) : Chg s (s.partnerSeen dev) [(KRB_STAT_PARTNERNEW, 0)] ∧ (s.partnerSeen dev).pair = s.pair ∧
    (s.partnerSeen dev).pkgs = s.pkgs := by
  obtain ⟨a, e⟩ := State.evSec_frame (s := s) 2 [s.kerb.partnerId, dev]
  unfold State.partnerSeen
  rw [e]
  split
  · exact ⟨(Chg.refl h).mono (by simp), rfl, rfl⟩
  · exact ⟨((Chg.refl h).same (u := { s with arc := a }) rfl).setF _ _ _, rfl, rfl⟩

omit h in
/-- The firmware of a joiner is one that the Lead forms a pair with: no OLM-4200's, qualified here, and of a common pair protocol. -/
def State.joinFit (s : State) (e : JoinEvid) : Bool :=
  !e.old42 && s.qualified e.kerbDigest e.modDigest && decide (s.bundle.protoLo ≤ e.protoHi) && decide (e.protoLo ≤ s.bundle.protoHi)

omit h in
/-- JOIN_ATTESTATION on a Lead in phase 1: the checks in their order. -/
theorem execJoinAttestation_checks (e : JoinEvid) (hl : s.isLead = true) (h1 : s.getF PAR_JOINSTAT_PHASE = 1) : exec (.joinAttestation e) s = .next (
    if (e.chainOk && e.nonceOk) = false then s.refuseJoin 1 else if e.idMarg then s.refuseJoin 2 else if s.joinFit e = false then s.refuseJoin 6
      else ((s.partnerSeen e.devId).setF PAR_JOINSTAT_PHASE 2).settleCfg) := by
  have hchain : ((!e.chainOk || !e.nonceOk) = true) = ((e.chainOk && e.nonceOk) = false) := by cases e.chainOk <;> cases e.nonceOk <;> decide
  have hfit : ((e.old42 || !s.qualified e.kerbDigest e.modDigest || decide (e.protoHi < s.bundle.protoLo) || decide (s.bundle.protoHi < e.protoLo)) = true) =
      (s.joinFit e = false) := by
    unfold State.joinFit
    cases e.old42 <;> cases s.qualified e.kerbDigest e.modDigest <;> simp
    omega
  show execJoinAttestation e s = _
  unfold execJoinAttestation done
  dsimp only
  rw [if_neg (by simp [hl, h1])]
  simp only [hchain, hfit]

/-- An attestation that fails a check is refused with its cause, and one of a partner that passes them all, of another installation, leads to the clocks. -/
theorem execJoinAttestation_does (e : JoinEvid) (hl : s.isLead = true) (h1 : s.getF PAR_JOINSTAT_PHASE = 1) :
    ((e.chainOk && e.nonceOk) = false → Gives (.joinAttestation e) s fun t => t.getF PAR_JOINSTAT_REFUSE = 1 ∧ t.getF PAR_JOINSTAT_PHASE = 0) ∧
    ((e.chainOk && e.nonceOk) = true → e.idMarg = true → Gives (.joinAttestation e) s fun t => t.getF PAR_JOINSTAT_REFUSE = 2 ∧ t.getF PAR_JOINSTAT_PHASE = 0) ∧
    ((e.chainOk && e.nonceOk) = true → e.idMarg = false → s.joinFit e = false → Gives (.joinAttestation e) s fun t =>
      t.getF PAR_JOINSTAT_REFUSE = 6 ∧ t.getF PAR_JOINSTAT_PHASE = 0) ∧
    (∀ x : Hello, (e.chainOk && e.nonceOk) = true → e.idMarg = false → s.joinFit e = true → s.pair.partner = some x → x.seat ≠ s.seatB →
      x.instId ≠ s.cfg.instId → Gives (.joinAttestation e) s fun t => t.getF PAR_JOINSTAT_PHASE = 6) := by
  have hexec := execJoinAttestation_checks e hl h1
  refine ⟨fun hc => ?_, fun hc hm => ?_, fun hc hm hf => ?_, fun x hc hm hf hp hs hi => ?_⟩
  · exact ⟨_, hexec.trans (congrArg _ (if_pos hc)), State.refuseJoin_does h (by decide)⟩
  · exact ⟨_, hexec.trans (congrArg _ ((if_neg (by simp [hc])).trans (if_pos hm))), State.refuseJoin_does h (by decide)⟩
  · exact ⟨_, hexec.trans (congrArg _ ((if_neg (by simp [hc])).trans ((if_neg (by simp [hm])).trans (if_pos hf)))), State.refuseJoin_does h (by decide)⟩
  · obtain ⟨c, hpair, hpkgs⟩ := State.partnerSeen_does h e.devId
    have c2 := c.setF PAR_JOINSTAT_PHASE 2 0
    have hseat : ((s.partnerSeen e.devId).setF PAR_JOINSTAT_PHASE 2).seatB = s.seatB := State.seatB_congr (c2.only _ _ (by decide))
    have hcfg : ((s.partnerSeen e.devId).setF PAR_JOINSTAT_PHASE 2).cfg = s.cfg := State.cfg_congr hpkgs (c2.only _ _ (by decide))
    exact ⟨_, hexec.trans (congrArg _ ((if_neg (by simp [hc])).trans ((if_neg (by simp [hm])).trans (if_neg (by simp [hf]))))),
      State.settleCfg_otherInst c2.ok ((congrArg PairRt.partner hpair).trans hp) (by rwa [hseat]) (by rwa [hcfg])⟩

/-! ### The transfer (R204, R220) -/

omit h in
/-- A joiner takes every packet of the transfer. -/
theorem execBulk_join (b : BulkItem) (h1 : s.getF PAR_STAT_STATE = 1) : exec (.bulk b) s = .next (s.bulkTake b) := by
  show execBulk b s = _
  unfold execBulk done
  rw [h1]
  cases b <;> rfl

/-- The mode. -/
theorem State.bulkTake_mode (m : Fin 3) : (s.bulkTake (.mode m)).getF SCH_MODE_MODE = m.val % 2 ^ SCH_MODE_MODE.w ∧
    s.bulkTake (.mode m) = { s with regs := (s.bulkTake (.mode m)).regs } ∧ OnlyRegs s (s.bulkTake (.mode m)) [(SCH_MODE_MODE, 0)] :=
  ⟨getF_setF_self _ _ _ _ h, rfl, ((Chg.refl h).setF SCH_MODE_MODE m.val 0).only⟩

/-- The progress. -/
theorem State.bulkTake_percent (n : Fin 101) : (s.bulkTake (.percent n)).getF PAR_JOINSTAT_BULKPCT = n.val % 128 ∧ (s.bulkTake (.percent n)).getF PAR_JOINSTAT_PHASE = 3 ∧
    s.bulkTake (.percent n) = { s with regs := (s.bulkTake (.percent n)).regs } ∧
    OnlyRegs s (s.bulkTake (.percent n)) [(PAR_JOINSTAT_BULKPCT, 0), (PAR_JOINSTAT_PHASE, 0)] := by
  have c := (Chg.refl h).setF PAR_JOINSTAT_BULKPCT n.val 0
  exact ⟨(getF_setF_ne _ _ c.ok (by decide)).trans (getF_setF_self _ _ _ _ h), getF_setF_fits c.ok _ (by decide), rfl, (c.setF PAR_JOINSTAT_PHASE 3 0).only.mono (by simp)⟩

omit h in
/-- The end of a resynchronisation's transfer, in TRACK, is noted. -/
theorem execBulk_lastInTrack (j : Nat) (h2 : s.getF PAR_STAT_STATE = 2) : exec (.bulk (.last j)) s = .next { s with pair := { s.pair with resyncEnd := true } } := by
  show execBulk (.last j) s = _
  unfold execBulk done
  rw [h2]
  exact congrArg Host.Outcome.next (if_neg (by omega))

/-! ### Caught up (R219, R444) -/

omit h in
/-- Keeping a partner's DeviceID leaves the registers alone. -/
theorem State.partnerKept_regs (s : State) : s.partnerKept.regs = s.regs := by
  unfold State.partnerKept
  split <;> rfl

/-- The join of a partner that has caught up is in phase 5 on the Lead, and SOLO becomes LEAD. -/
theorem execTrackCaughtUp_lead (hl : s.isLead = true) (h4 : s.getF PAR_JOINSTAT_PHASE = 4) : Gives .trackCaughtUp s fun t =>
    t.getF PAR_JOINSTAT_PHASE = 5 ∧ (s.getF PAR_STAT_STATE = 7 → t.getF PAR_STAT_STATE = 6) := by
  generalize hu : State.setF { s with pair := { s.pair with joinBase := none, lostUnfenced := false,
                                                            partner := s.pair.partner.map (fun x => { x with state := 3, lead := false }) } } PAR_JOINSTAT_PHASE 5 = u
  have hexec : exec .trackCaughtUp s = .next (if u.getF PAR_STAT_STATE = 7 then u.enterPair 6 else u).partnerKept := by
    rw [← hu]
    exact congrArg Host.Outcome.next (if_pos (by simp [hl, h4]))
  have hphase : u.getF PAR_JOINSTAT_PHASE = 5 := hu ▸ getF_setF_fits (by exact h) _ (by decide)
  have c : Chg s u [(PAR_JOINSTAT_PHASE, 0)] := hu ▸ ((Chg.refl h).same (by rfl)).setF _ _ _
  have hst : u.getF PAR_STAT_STATE = s.getF PAR_STAT_STATE := c.only _ _ (by decide)
  refine ⟨_, hexec, (getF_same (State.partnerKept_regs _)).trans ?_, fun h7 => (getF_same (State.partnerKept_regs _)).trans ?_⟩
  · split
    · obtain ⟨-, -, c', -⟩ := State.enterPair_does c.ok (st := 6) (by decide)
      exact (c'.only _ _ (by decide)).trans hphase
    · exact hphase
  · rw [if_pos (hst.trans h7)]
    exact (State.enterPair_does c.ok (by decide)).1

/-- A joiner that has caught up is in FOLLOW. -/
theorem execTrackCaughtUp_joiner (hl : s.isLead = false) (h2 : s.getF PAR_STAT_STATE = 2) (h4 : s.getF PAR_JOINSTAT_PHASE = 4) (hb : s.pair.bulkDone = true) :
    Gives .trackCaughtUp s fun t => t.getF PAR_JOINSTAT_PHASE = 5 ∧ t.getF PAR_STAT_STATE = 3 := by
  have hexec : exec .trackCaughtUp s = .next ((s.setF PAR_JOINSTAT_PHASE 5).enterPair 3).partnerKept :=
    congrArg Host.Outcome.next ((if_neg (by simp [hl])).trans (if_pos (by simp [h2, h4, hb])))
  obtain ⟨hst, -, c, -⟩ := State.enterPair_does ((Chg.refl h).setF PAR_JOINSTAT_PHASE 5 0).ok (st := 3) (by decide)
  exact ⟨_, hexec, (getF_same (State.partnerKept_regs _)).trans ((c.only _ _ (by decide)).trans (getF_setF_fits h _ (by decide))),
    (getF_same (State.partnerKept_regs _)).trans hst⟩

/-! ### Back-fill (R221, R222) -/

omit h in
/-- A record of the back-fill as the log holds it. -/
def backfilled (r : RecData) : ArcRec := { recOf r with flags := r.flags ||| 4 }

/-- An intact record of the cycle log that no other one contradicts enters it in order, and BFPCT tells the progress. -/
theorem execBackfillRecord_cycle {r : RecData} (hi : r.intact = true) (h2 : 2 ≤ s.getF PAR_STAT_STATE) (h4 : s.getF PAR_STAT_STATE ≤ 4)
    (hc : s.arc.cyc.any (fun y => y.seq = (backfilled r).seq && y.payload ≠ (backfilled r).payload) = false) : Gives (.backfillRecord false r) s fun t =>
      t.arc.cyc = insSort (fun a b => decide (a.seq < b.seq)) (backfilled r) (s.arc.cyc.filter (fun y => !decide (y.seq = (backfilled r).seq))) ∧
      t.pair.backfillLow = min s.pair.backfillLow (backfilled r).seq ∧ t = { s with regs := t.regs, arc := t.arc, pair := t.pair } ∧ OnlyRegs s t [(PAR_JOINSTAT_BFPCT, 0)] := by
  generalize hu : ({ s with
    arc := { s.arc with cyc := insSort (fun a b => decide (a.seq < b.seq)) (backfilled r) (s.arc.cyc.filter (fun y => !decide (y.seq = (backfilled r).seq))) },
    pair := { s.pair with backfillLow := min s.pair.backfillLow (backfilled r).seq } } : State) = u
  have hexec : exec (.backfillRecord false r) s = .next (u.setF PAR_JOINSTAT_BFPCT (100 - u.pair.backfillLow * 100 / max 1 u.arc.cycSeq)) := by
    show execBackfillRecord false r s = _
    unfold execBackfillRecord done
    dsimp only
    rw [if_neg (by rw [hi, State.tracks_of_range h2 h4]; decide)]
    have hclash : s.arc.cyc.any (fun y => decide (y.seq = (recOf r).seq) && decide (y.payload ≠ (recOf r).payload)) = false := hc
    simp only [Bool.not_false, Bool.true_or, Bool.and_true, Bool.false_eq_true, if_false, hclash]
    rw [← hu]
    rfl
  refine ⟨_, hexec, ?_, ?_, ?_, (((Chg.refl h).same (by rw [← hu])).setF _ _ _).only⟩ <;> rw [← hu] <;> rfl

omit h in
/-- One of the event log likewise. -/
theorem execBackfillRecord_event {r : RecData} (hi : r.intact = true) (h2 : 2 ≤ s.getF PAR_STAT_STATE) (h4 : s.getF PAR_STAT_STATE ≤ 4)
    (hc : s.arc.evs.any (fun y => y.seq = (backfilled r).seq && y.seat = (backfilled r).seat && y.payload ≠ (backfilled r).payload) = false) :
    Gives (.backfillRecord true r) s fun t => t = { s with arc := { s.arc with
      evs := insSort (fun a b => decide (a.seq < b.seq)) (backfilled r) (s.arc.evs.filter (fun y => !(decide (y.seq = (backfilled r).seq) && decide (y.seat = (backfilled r).seat)))) } } :=
  ⟨_, congrArg Host.Outcome.next ((if_neg (by rw [hi, State.tracks_of_range h2 h4]; decide)).trans ((if_pos rfl).trans (if_neg (Bool.eq_false_iff.mp hc)))), rfl⟩

end

/-- Settles O48: each command is written, refused or due under its premises, and then is what a command that waits, a join, a transfer or the back-fill leaves. -/
theorem pairJoin : Obligations.PairJoin := by
  unfold Obligations.PairJoin
  intro s h
  refine ⟨fun p hr => ⟨⟨_, rfl, State.parCmd_waits h hr p (by omega)⟩, ⟨_, rfl, State.parCmd_waits h hr p (by omega)⟩, ⟨_, rfl, State.parCmd_waits h hr p (by omega)⟩,
      fun hu => ⟨_, rfl, State.parCmd_waits h hr p (fun _ => hu)⟩, fun hu => ⟨_, rfl, State.parClearcfg_locked h hr p hu⟩⟩,
    fun hl => ⟨execParSwitch_granted h hl, execParSwitch_refused h hl⟩, execJoinClockTimeout_lead h, execJoinClockTimeout_joiner h,
    fun e hl h1 => execJoinAttestation_does h e hl h1, fun h1 => ⟨fun m => ⟨_, execBulk_join _ h1, State.bulkTake_mode h m⟩,
      fun n => ⟨_, execBulk_join _ h1, State.bulkTake_percent h n⟩, fun l => ⟨_, execBulk_join _ h1, rfl⟩, fun c g l => ⟨_, execBulk_join _ h1, rfl⟩⟩,
    fun h2 j => ⟨_, execBulk_lastInTrack j h2, rfl⟩, execTrackCaughtUp_lead h, execTrackCaughtUp_joiner h,
    fun r hi h2 h4 => ⟨execBackfillRecord_cycle h hi h2 h4, execBackfillRecord_event hi h2 h4⟩⟩

end Sys2Proof.Machine
end

section
/-! PROOFS. The on-line change (09, R237 to R246; 17, R283). -/
namespace Sys2Proof.Machine

/-! ### What the commands of a change look at, with the count of refused writes set aside -/

section
variable {s : State} (h : s.RegsOk)
include h

/-- The role is the same. -/
theorem isLead_aside : s.aside.isLead = s.isLead := by
  unfold State.isLead
  rw [getF_aside h _ (by decide)]
/-- The step of the change is the same. -/
theorem step_aside : s.aside.step_ = s.step_ := getF_aside h _ (by decide)
/-- The mode is the same. -/
theorem mode_aside : s.aside.mode = s.mode := getF_aside h _ (by decide)
/-- The active store is the same. -/
theorem actStore_aside : s.aside.actStore = s.actStore := getF_aside h _ (by decide)
/-- The configuration in force is the same. -/
theorem cfg_aside : s.aside.cfg = s.cfg := by
  unfold State.cfg
  rw [actStore_aside h]
  rfl
/-- Whether the module takes package commands is the same. -/
theorem pkgState_aside : s.aside.pkgState = s.pkgState := by
  unfold State.pkgState
  rw [isLead_aside h, pairState_aside h]
/-- What bars ARM and LOAD is the same. -/
theorem armCause_aside : s.aside.armCause = s.armCause := by
  unfold State.armCause State.safetyDiffers
  rw [step_aside h, safetyEdit_aside h, cfg_aside h, flag_aside h BOT_SLOTSTAT_FMTPAIR (by decide), flag_aside h SCH_CFGSTAT_CHECKED (by decide)]
  rfl
/-- What the check of a package finds is the same. -/
theorem refuseCause_aside (k : Pkg) : s.aside.refuseCause k = s.refuseCause k := by
  unfold State.refuseCause State.cfgGen State.get64
  rw [cfg_aside h, flag_aside h BOT_SLOTSTAT_FMTPAIR (by decide), getF_aside h _ (by decide), getF_aside h _ (by decide)]

end

/-- What bars ARM and LOAD is a cause of Table 19-7. -/
theorem State.armCause_lt (s : State) : s.armCause < 16 := by
  unfold State.armCause
  split
  · decide
  · split
    · decide
    · split <;> decide

/-- What the check finds is a cause of REFUSE. -/
theorem State.refuseCause_lt (s : State) (k : Pkg) : s.refuseCause k < 16 := by
  unfold State.refuseCause
  split_ifs <;> decide

/-- A flag is told by the field's value. -/
theorem State.flag_of_getF {s : State} {g : Fld} {ix v : Nat} (e : s.getF g ix = v) : s.flag g ix = decide (v ≠ 0) := by
  unfold State.flag
  rw [e]

/-! ### A write to SCH_OLCCTL or SCH_CFGCMD -/

/-- A field of a change, or one that shows it, is none of the bookkeeping fields of a write to the scheduler. -/
abbrev Shown (g : Fld) : Prop := ∀ x ∈ book 3, g.key 0 ≠ x.1.key x.2

/-- The state after a write to the scheduler whose effect is `u`: as the effect leaves it, beside the bookkeeping of the write. -/
structure WroteSch (u t : State) : Prop where
  frame : t = { u with regs := t.regs }
  reads : ∀ g, Shown g → t.getF g = u.getF g

/-- A flag reads as the effect leaves it. -/
theorem WroteSch.flag {u t : State} (w : WroteSch u t) {g : Fld} (hg : Shown g) {v : Nat} (e : u.getF g = v) : t.flag g = decide (v ≠ 0) :=
  State.flag_of_getF ((w.reads g hg).trans e)

/-- A command to SCH_OLCCTL that is ignored for a cause: the fields that record it, and nothing beside the register file. -/
def OlcIgnored (s : State) (c : Nat) (t : State) : Prop :=
  RegsOnlyW 3 s t [(KRB_IGNSTAT_CAUSE, 0), (KRB_IGNADDR_OFFSET, 0), (KRB_IGNPATH_PATH, 0)] ∧ t.getF KRB_IGNSTAT_CAUSE = c

/-- A package command that is refused for a cause: RESULT shows it (Table 9-15). -/
def CfgRefused (s : State) (c : Nat) (t : State) : Prop :=
  t.getF KRB_IGNSTAT_CAUSE = c ∧ t.getF SCH_CFGSTAT_RESULT = 2 ∧
  RegsOnlyW 3 s t [(KRB_IGNSTAT_CAUSE, 0), (KRB_IGNADDR_OFFSET, 0), (KRB_IGNPATH_PATH, 0), (SCH_CFGSTAT_RESULT, 0)]

section
variable {s : State} (h : s.RegsOk) (hr : s.Runs) {p : Path} {off : Nat} {f : State → State}
include h hr

omit h in
/-- Such a write, whose effect keeps the register file in order and the Kerb as it is. -/
theorem State.written_sch {u : State} (ho : off / 0x10000 = 3) (hu : f s.aside = u) (ok : u.RegsOk) (hk : u.kerb = s.kerb) : WroteSch u (s.written p off f) := by
  obtain ⟨e, c⟩ := State.written_run (p := p) (off := off) hr hu ok (by rw [hk, show s.kerb.phase = .run from hr]; decide)
  rw [ho] at c
  exact ⟨e, fun g hg => c.only g 0 hg⟩

/-- A write whose effect is to refuse the package command. -/
theorem State.written_cfgIgnored {c : Nat} (hu : f s.aside = s.aside.cfgIgnored p c) (hc : c < 16) : CfgRefused s c (s.written p cfgcmdOff f) := by
  obtain ⟨e1, e2, ⟨r, e3⟩, k⟩ := State.cfgIgnored_does (Chg.aside h).ok p hc
  have hp : (s.aside.cfgIgnored p c).kerb.phase ≠ .boot := by
    rw [e3]
    show s.kerb.phase ≠ _
    rw [show s.kerb.phase = .run from hr]
    decide
  obtain ⟨w, c1⟩ := State.written_run (p := p) (off := cfgcmdOff) hr hu k.ok hp
  refine ⟨(c1.only _ 0 (by decide)).trans e1, (c1.only _ 0 (by decide)).trans e2, ?_, ?_⟩
  · rw [w, e3]
    rfl
  · exact ((((Chg.aside h).trans k).trans c1).mono (by decide)).only

end

/-! ### ARM and ABANDON -/

/-- Is a change in progress that can still be abandoned: in steps 1 to 4, up to the base tick before A? -/
def State.changeOpen (s : State) : Prop := 1 ≤ s.step_ ∧ s.step_ ≤ 4 ∧ ∀ a, s.olc.actAt = some a → s.tick < a

section
variable {s : State} (h : s.RegsOk) (hr : s.Runs) (p : Path)
include h hr

/-- ARM elsewhere than on a Lead is ignored. -/
theorem execOlcArm_notLead (hl : s.isLead = false) : Gives (.olcArm p) s (OlcIgnored s 3) :=
  ⟨_, rfl, State.written_ign hr h (if_pos (by rw [isLead_aside h, hl]; rfl)) (by decide) (by decide) (by decide)⟩

/-- ARM of what cannot be armed is ignored for that. -/
theorem execOlcArm_barred (hl : s.isLead = true) (hc : s.armCause ≠ 0) : Gives (.olcArm p) s (OlcIgnored s s.armCause) :=
  ⟨_, rfl, State.written_ign hr h ((if_neg (by rw [isLead_aside h, hl]; decide)).trans ((if_pos (by rwa [armCause_aside h])).trans (by rw [armCause_aside h])))
    s.armCause_lt (by decide) (by decide)⟩

/-- ARM of a checked package begins the change. -/
theorem execOlcArm_begins {k : Pkg} (hl : s.isLead = true) (hc : s.armCause = 0) (hk : s.olc.cand = some k) : Gives (.olcArm p) s fun t =>
    t.step_ = (if s.getF PAR_STAT_STATE = 6 then 2 else 3) ∧ t.olc = { s.olc with load := false, cand := some k, actAt := none } := by
  obtain ⟨e1, e2, c, e3⟩ := State.olcBegin_does (Chg.aside h).ok k false
  have hu : s.aside.cmdOlcArm p = s.aside.olcBegin k false := by
    unfold State.cmdOlcArm
    rw [if_neg (by rw [isLead_aside h, hl]; decide), if_neg (by rw [armCause_aside h, hc]; decide), show s.aside.olc.cand = some k from hk]
  have w := State.written_sch hr (p := p) (off := olcctlOff) (f := fun s => s.cmdOlcArm p) (by decide) hu c.ok e3
  rw [pairState_aside h] at e1
  refine ⟨_, rfl, (w.reads _ (by decide)).trans (e1.trans (by simp)), (congrArg State.olc w.frame).trans (e2.trans (by simp))⟩

/-- ABANDON elsewhere than on a Lead is ignored. -/
theorem execOlcAbandon_notLead (hl : s.isLead = false) : Gives (.olcAbandon p) s (OlcIgnored s 3) :=
  ⟨_, rfl, State.written_ign hr h (if_pos (by rw [isLead_aside h, hl]; rfl)) (by decide) (by decide) (by decide)⟩

omit hr in
/-- ABANDON looks at that. -/
theorem State.abandon_iff : (1 ≤ s.aside.step_ && s.aside.step_ ≤ 4 && (match s.aside.olc.actAt with | some a => decide (s.aside.tick < a) | none => true)) = true ↔
    s.changeOpen := by
  rw [step_aside h, Bool.and_eq_true, Bool.and_eq_true, decide_eq_true_eq, decide_eq_true_eq, and_assoc]
  refine and_congr_right fun _ => and_congr_right fun _ => ?_
  show (match s.olc.actAt with | some a => decide (s.tick < a) | none => true) = true ↔ _
  cases s.olc.actAt <;> simp

/-- ABANDON with no change in progress, or from the base tick A on, is ignored. -/
theorem execOlcAbandon_late (hl : s.isLead = true) (ho : ¬ s.changeOpen) : Gives (.olcAbandon p) s (OlcIgnored s 4) :=
  ⟨_, rfl, State.written_ign hr h ((if_neg (by rw [isLead_aside h, hl]; decide)).trans (if_neg (fun e => ho ((State.abandon_iff h).mp e))))
    (by decide) (by decide) (by decide)⟩

omit hr in
/-- A change that ends without activation is no longer checked. -/
theorem State.olcEnd_unchecks : (s.olcEnd false).getF SCH_CFGSTAT_CHECKED = 0 := by
  have ended : ∀ u : State, u.regs = (s.setF SCH_CFGSTAT_CHECKED 0).regs → ((u.bump SCH_OLCSTAT_ABNCNT).olcStep 7).getF SCH_CFGSTAT_CHECKED = 0 := by
    intro u e
    have c := ((Chg.refl ((Chg.refl h).setF SCH_CFGSTAT_CHECKED 0 0).ok).same e).bump SCH_OLCSTAT_ABNCNT 0 1
    obtain ⟨-, d, -⟩ := State.olcStep_does c.ok (n := 7) (by decide)
    exact ((c.trans d).only _ 0 (by decide)).trans (getF_setF_self _ _ _ _ h)
  exact ended _ rfl

/-- ABANDON of a change in progress ends it. -/
theorem execOlcAbandon_ends (hl : s.isLead = true) (ho : s.changeOpen) : Gives (.olcAbandon p) s fun t =>
    t.step_ = 7 ∧ t.flag SCH_CFGSTAT_OPEN = false ∧ t.flag SCH_CFGSTAT_CHECKED = false ∧
    t.getF SCH_OLCSTAT_ABNCNT = sat SCH_OLCSTAT_ABNCNT.w (s.getF SCH_OLCSTAT_ABNCNT + 1) ∧ t.olc = { s.olc with actAt := none, load := false, cand := none } := by
  have ok := (Chg.aside h).ok
  have c := (Chg.refl ok).setF SCH_CFGSTAT_OPEN 0 0
  obtain ⟨e1, e2, e3, d, e4⟩ := State.olcEnd_does c.ok
  have hu : s.aside.cmdOlcAbandon p = (s.aside.setF SCH_CFGSTAT_OPEN 0).olcEnd false :=
    (if_neg (by rw [isLead_aside h, hl]; decide)).trans (if_pos ((State.abandon_iff h).mpr ho))
  have w := State.written_sch hr (p := p) (off := olcctlOff) (f := fun s => s.cmdOlcAbandon p) (by decide) hu d.ok e4
  exact ⟨_, rfl, (w.reads _ (by decide)).trans e1, w.flag (by decide) ((d.only _ 0 (by decide)).trans (getF_setF_self _ _ _ _ ok)),
    w.flag (by decide) (State.olcEnd_unchecks c.ok),
    (w.reads _ (by decide)).trans (e3.trans (by rw [c.only _ 0 (by decide), getF_aside h _ (by decide)])), (congrArg State.olc w.frame).trans e2⟩

end

/-! ### OPEN and CHUNK -/

/-- The state with an empty inactive store, and nothing of a package yet. -/
def State.emptied (s : State) (n : Nat) : State :=
  { s with pkgs := tabDel s.pkgs n, sq := { s.sq with code := eraseStore s.sq.code n, poison := clearPoison s.sq.poison (storeBase n) 0x40000000 },
           olc := { s.olc with chunks := [], cand := none, actAt := none, load := false, farReady := false } }

/-- The registers that OPEN sets, and the step PREPARE. -/
def State.prepare (s : State) : State :=
  ((((((s.setF SCH_CFGSTAT_RESULT 0).setF SCH_CFGSTAT_OPEN 1).setF SCH_CFGSTAT_CHECKED 0).setF SCH_CFGSTAT_CHUNKS 0).setF SCH_CFGSTAT_REFUSE 0).setF
    SCH_OLCSTAT_FALLBACK 0).olcStep 1

/-- The piece that stands in the window. -/
def State.piece (s : State) : List Byte := memRdL s.olc.win 0 32768

section
variable {s : State} (h : s.RegsOk) (hr : s.Runs) (p : Path)
include h hr

/-- Every package command is refused where the module takes none. -/
theorem execCfg_notHere (hp : s.pkgState = false) : Gives (.cfgOpen p) s (CfgRefused s 3) ∧ Gives (.cfgChunk p) s (CfgRefused s 3) ∧
    (∀ k, Gives (.cfgClose p k) s (CfgRefused s 3)) ∧ Gives (.cfgLoad p) s (CfgRefused s 3) := by
  have hn : (!s.aside.pkgState) = true := by rw [pkgState_aside h, hp]; rfl
  exact ⟨⟨_, rfl, State.written_cfgIgnored h hr (if_pos hn) (by decide)⟩, ⟨_, rfl, State.written_cfgIgnored h hr (if_pos hn) (by decide)⟩,
    fun k => ⟨_, rfl, State.written_cfgIgnored h hr (if_pos hn) (by decide)⟩, ⟨_, rfl, State.written_cfgIgnored h hr (if_pos hn) (by decide)⟩⟩

omit hr in
/-- Where it takes them, that test is passed. -/
theorem State.pkgState_pass (hp : s.pkgState = true) : ¬ (!s.aside.pkgState) = true := by
  rw [pkgState_aside h, hp]
  decide

omit hr in
/-- OPEN looks at the step of the change. -/
theorem State.openStep_iff : (!(s.aside.step_ = 0 || s.aside.step_ = 6 || s.aside.step_ = 7)) = true ↔ s.step_ ∉ [0, 6, 7] := by
  rw [step_aside h]
  simp [and_assoc]

/-- OPEN during a change is refused. -/
theorem execCfgOpen_busy (hp : s.pkgState = true) (hs : s.step_ ∉ [0, 6, 7]) : Gives (.cfgOpen p) s (CfgRefused s 4) :=
  ⟨_, rfl, State.written_cfgIgnored h hr ((if_neg (State.pkgState_pass h hp)).trans (if_pos ((State.openStep_iff h).mpr hs))) (by decide)⟩

omit hr in
/-- They read as they were set, and nothing but the Arcade and the pair changes beside them. -/
theorem State.prepare_does : s.prepare.RegsOk ∧ s.prepare.step_ = 1 ∧ s.prepare.getF SCH_CFGSTAT_OPEN = 1 ∧ s.prepare.getF SCH_CFGSTAT_CHECKED = 0 ∧
    ∃ r a q, s.prepare = { s with regs := r, arc := a, pair := q } := by
  have c1 := (Chg.refl h).setF SCH_CFGSTAT_RESULT 0 0
  have c2 := c1.setF SCH_CFGSTAT_OPEN 1 0
  have c3 := c2.setF SCH_CFGSTAT_CHECKED 0 0
  have c := (((Chg.refl c3.ok).setF SCH_CFGSTAT_CHUNKS 0 0).setF SCH_CFGSTAT_REFUSE 0 0).setF SCH_OLCSTAT_FALLBACK 0 0
  obtain ⟨e, d, r, a, q, f⟩ := State.olcStep_does c.ok (n := 1) (by decide)
  have only := (c.trans d).only
  exact ⟨d.ok, e, (only _ 0 (by decide)).trans ((getF_setF_ne _ _ c2.ok (by decide)).trans (getF_setF_self _ _ _ _ c1.ok)),
    (only _ 0 (by decide)).trans (getF_setF_self _ _ _ _ c2.ok), r, a, q, f⟩

/-- OPEN begins PREPARE with an empty inactive store. -/
theorem execCfgOpen_begins (hp : s.pkgState = true) (hs : s.step_ ∈ [0, 6, 7]) : Gives (.cfgOpen p) s fun t =>
    t.step_ = 1 ∧ t.flag SCH_CFGSTAT_OPEN = true ∧ t.flag SCH_CFGSTAT_CHECKED = false ∧ t.pkgs = tabDel s.pkgs (1 - s.actStore) ∧
    t.olc = { s.olc with chunks := [], cand := none, actAt := none, load := false, farReady := false } := by
  have hu : s.aside.cmdCfgOpen p = (s.aside.emptied (1 - s.aside.actStore)).prepare :=
    (if_neg (State.pkgState_pass h hp)).trans (if_neg (fun e => (State.openStep_iff h).mp e hs))
  have he : (s.aside.emptied (1 - s.aside.actStore)).RegsOk := (Chg.aside h).ok
  obtain ⟨ok, e1, e2, e3, r, a, q, f⟩ := State.prepare_does he
  have w := State.written_sch hr (p := p) (off := cfgcmdOff) (f := fun s => s.cmdCfgOpen p) (by decide) hu ok (by rw [f]; rfl)
  refine ⟨_, rfl, (w.reads _ (by decide)).trans e1, w.flag (by decide) e2, w.flag (by decide) e3, ?_, ?_⟩
  · rw [w.frame, f, actStore_aside h]
    rfl
  · rw [w.frame, f]
    rfl

/-- CHUNK without an open store is refused. -/
theorem execCfgChunk_closed (hp : s.pkgState = true) (ho : s.flag SCH_CFGSTAT_OPEN = false) : Gives (.cfgChunk p) s (CfgRefused s 4) :=
  ⟨_, rfl, State.written_cfgIgnored h hr ((if_neg (State.pkgState_pass h hp)).trans (if_pos (by rw [flag_aside h _ (by decide), ho]; rfl))) (by decide)⟩

/-- CHUNK of a piece whose CRC is not the one given shows RESULT 1. -/
theorem execCfgChunk_bad (hp : s.pkgState = true) (ho : s.flag SCH_CFGSTAT_OPEN = true) (hc : crc32c s.piece ≠ s.getF SCH_CFGCRC_CRC) :
    Gives (.cfgChunk p) s fun t => t.getF SCH_CFGSTAT_RESULT = 1 ∧ t = { s with regs := t.regs } ∧ OnlyRegsW 3 s t [(SCH_CFGSTAT_RESULT, 0)] := by
  have ok := (Chg.aside h).ok
  have c := (Chg.refl ok).setF SCH_CFGSTAT_RESULT 1 0
  have hu : s.aside.cmdCfgChunk p = s.aside.setF SCH_CFGSTAT_RESULT 1 :=
    (if_neg (State.pkgState_pass h hp)).trans ((if_neg (by rw [flag_aside h _ (by decide), ho]; decide)).trans (if_pos (by rw [getF_aside h _ (by decide)]; exact hc)))
  obtain ⟨e, o, g⟩ := State.written_does (p := p) (off := cfgcmdOff) (f := fun s => s.cmdCfgChunk p) hr h hu c (by show s.kerb.phase ≠ _; rw [show s.kerb.phase = .run from hr]; decide)
  exact ⟨_, rfl, (g _ 0 (by decide)).trans (getF_setF_self _ _ _ _ ok), e, o⟩

/-- CHUNK of one whose CRC is right keeps it at its offset, and counts it. -/
theorem execCfgChunk_good (hp : s.pkgState = true) (ho : s.flag SCH_CFGSTAT_OPEN = true) (hc : crc32c s.piece = s.getF SCH_CFGCRC_CRC) :
    Gives (.cfgChunk p) s fun t => t.getF SCH_CFGSTAT_RESULT = 0 ∧ t.getF SCH_CFGSTAT_CHUNKS = sat SCH_CFGSTAT_CHUNKS.w (s.getF SCH_CFGSTAT_CHUNKS + 1) ∧
      t.olc = { s.olc with chunks := tabSet s.olc.chunks (s.getF SCH_CFGOFF_OFF) s.piece } ∧ t = { s with regs := t.regs, olc := t.olc } ∧
      OnlyRegsW 3 s t [(SCH_CFGSTAT_RESULT, 0), (SCH_CFGSTAT_CHUNKS, 0)] := by
  have ok := (Chg.aside h).ok
  generalize hv : ({ s.aside with olc := { s.olc with chunks := tabSet s.olc.chunks (s.getF SCH_CFGOFF_OFF) s.piece } } : State) = v
  have c0 := (Chg.refl ok).same (u := v) (by rw [← hv])
  have c1 := c0.setF SCH_CFGSTAT_RESULT 0 0
  have c2 := c1.bump SCH_CFGSTAT_CHUNKS 0 1
  have hu : s.aside.cmdCfgChunk p = (v.setF SCH_CFGSTAT_RESULT 0).bump SCH_CFGSTAT_CHUNKS := by
    refine (if_neg (State.pkgState_pass h hp)).trans ((if_neg (by rw [flag_aside h _ (by decide), ho]; decide)).trans
      ((if_neg (by rw [getF_aside h _ (by decide)]; exact not_not.mpr hc)).trans ?_))
    rw [getF_aside h _ (by decide), ← hv]
    rfl
  obtain ⟨e, o, g⟩ := State.written_does (p := p) (off := cfgcmdOff) (f := fun s => s.cmdCfgChunk p) hr h hu c2
    (by rw [← hv]; show s.kerb.phase ≠ _; rw [show s.kerb.phase = .run from hr]; decide)
  refine ⟨_, rfl, ?_, ?_, ?_, ?_, o.mono (by decide)⟩
  · exact (g _ 0 (by decide)).trans ((getF_setF_ne _ _ c1.ok (by decide)).trans (getF_setF_self _ _ _ _ c0.ok))
  · refine (g _ 0 (by decide)).trans ((getF_setF_self _ _ _ _ c1.ok).trans ?_)
    rw [c1.only _ 0 (by decide), getF_aside h _ (by decide)]
    exact Nat.mod_eq_of_lt (lt_of_le_of_lt (Nat.min_le_right _ _) (by decide))
  · rw [e, ← hv]
    rfl
  · rw [e, ← hv]
    rfl

end

/-! ### CLOSE and LOAD -/

/-- Is a store open and every piece of the package there? -/
def State.wholePkg (s : State) : Bool := s.flag SCH_CFGSTAT_OPEN && chunksUpTo s.olc.chunks (s.getF SCH_CFGLEN_LEN)

/-- The result of the check is shown, and the store is open no more. -/
def State.closed (s : State) (c : Nat) : State := ((s.setF SCH_CFGSTAT_RESULT 0).setF SCH_CFGSTAT_OPEN 0).setF SCH_CFGSTAT_REFUSE c

/-- A package that the check passes, in the inactive store, with a record of the tasks whose reads are not kept apart. -/
def State.checkedPkg (s : State) (k : Pkg) : State :=
  let s := (s.placePkg (1 - s.actStore) k).setF SCH_CFGSTAT_CHECKED 1
  let loose := (k.tasks.filter (fun d => d.plainReadFirst)).map (fun d => d.no.val)
  let s := if loose.isEmpty then s else s.evCfg 9 loose
  { s with olc := { s.olc with cand := some k } }

section
variable {s : State} (h : s.RegsOk) (hr : s.Runs) (p : Path) {k : Pkg} (hp : s.pkgState = true)
include h hr hp

omit hr hp in
/-- CLOSE looks at that. -/
theorem wholePkg_aside : (!s.aside.flag SCH_CFGSTAT_OPEN || !chunksUpTo s.aside.olc.chunks (s.aside.getF SCH_CFGLEN_LEN)) = !s.wholePkg := by
  rw [flag_aside h _ (by decide), getF_aside h _ (by decide), State.wholePkg, Bool.not_and]
  rfl

/-- CLOSE of what is not whole is refused. -/
theorem execCfgClose_partial (hw : s.wholePkg = false) : Gives (.cfgClose p k) s (CfgRefused s 4) :=
  ⟨_, rfl, State.written_cfgIgnored h hr ((if_neg (State.pkgState_pass h hp)).trans (if_pos (by rw [wholePkg_aside h, hw]; rfl))) (by decide)⟩

/-- CLOSE of keys without UPDATE-ENABLE is refused. -/
theorem execCfgClose_locked (hw : s.wholePkg = true) (hk : (k.keys.isEmpty || s.updateEnable) = false) : Gives (.cfgClose p k) s (CfgRefused s 2) := by
  refine ⟨_, rfl, State.written_cfgIgnored h hr ((if_neg (State.pkgState_pass h hp)).trans ((if_neg (by rw [wholePkg_aside h, hw]; decide)).trans (if_pos ?_))) (by decide)⟩
  rw [updateEnable_aside h, ← Bool.not_or, hk]
  rfl

omit hr hp in
/-- The registers read as they were set. -/
theorem State.closed_does {c : Nat} (hc : c < 16) : (s.closed c).getF SCH_CFGSTAT_REFUSE = c ∧ (s.closed c).getF SCH_CFGSTAT_OPEN = 0 ∧
    Chg s (s.closed c) [(SCH_CFGSTAT_REFUSE, 0), (SCH_CFGSTAT_OPEN, 0), (SCH_CFGSTAT_RESULT, 0)] := by
  have c1 := (Chg.refl h).setF SCH_CFGSTAT_RESULT 0 0
  have c2 := c1.setF SCH_CFGSTAT_OPEN 0 0
  exact ⟨(getF_setF_self _ _ _ _ c2.ok).trans (Nat.mod_eq_of_lt hc), (getF_setF_ne _ _ c2.ok (by decide)).trans (getF_setF_self _ _ _ _ c1.ok), c2.setF _ _ _⟩

/-- CLOSE of a package that the check refuses ends the change. -/
theorem execCfgClose_refuses (hw : s.wholePkg = true) (hk : (k.keys.isEmpty || s.updateEnable) = true) (hc : s.refuseCause k ≠ 0) : Gives (.cfgClose p k) s fun t =>
    t.getF SCH_CFGSTAT_REFUSE = s.refuseCause k ∧ t.flag SCH_CFGSTAT_OPEN = false ∧ t.step_ = 7 ∧
    t.olc = { s.olc with actAt := none, load := false, cand := none } := by
  obtain ⟨e1, e2, c⟩ := State.closed_does (Chg.aside h).ok (s.refuseCause_lt k)
  obtain ⟨d1, d2, -, d, d3⟩ := State.olcEnd_does c.ok
  have hu : s.aside.cmdCfgClose p k = (s.aside.closed (s.refuseCause k)).olcEnd false := by
    refine (if_neg (State.pkgState_pass h hp)).trans ((if_neg (by rw [wholePkg_aside h, hw]; decide)).trans ((if_neg ?_).trans ?_))
    · rw [updateEnable_aside h, ← Bool.not_or, hk]
      decide
    · rw [refuseCause_aside h]
      exact if_pos hc
  have w := State.written_sch hr (p := p) (off := cfgcmdOff) (f := fun s => s.cmdCfgClose p k) (by decide) hu d.ok d3
  exact ⟨_, rfl, (w.reads _ (by decide)).trans ((d.only _ 0 (by decide)).trans e1), w.flag (by decide) ((d.only _ 0 (by decide)).trans e2),
    (w.reads _ (by decide)).trans d1, (congrArg State.olc w.frame).trans d2⟩

omit hr hp in
/-- What it leaves. -/
theorem State.checkedPkg_does : Chg s (s.checkedPkg k) [(SCH_CFGSTAT_CHECKED, 0)] ∧ (s.checkedPkg k).getF SCH_CFGSTAT_CHECKED = 1 ∧
    (s.checkedPkg k).olc = { s.olc with cand := some k } ∧ (s.checkedPkg k).pkgs = tabSet s.pkgs (1 - s.actStore) k ∧ (s.checkedPkg k).kerb = s.kerb := by
  have c0 := (Chg.refl h).same (u := s.placePkg (1 - s.actStore) k) rfl
  have c := c0.setF SCH_CFGSTAT_CHECKED 1 0
  have v := getF_setF_self (s.placePkg (1 - s.actStore) k) SCH_CFGSTAT_CHECKED 1 0 c0.ok
  unfold State.checkedPkg
  dsimp only
  split
  · exact ⟨c.same rfl, v, rfl, rfl, rfl⟩
  · obtain ⟨a, e⟩ := State.evCfg_frame ((s.placePkg (1 - s.actStore) k).setF SCH_CFGSTAT_CHECKED 1) 9 ((k.tasks.filter (fun d => d.plainReadFirst)).map (fun d => d.no.val))
    rw [e]
    exact ⟨c.same rfl, v, rfl, rfl, rfl⟩

/-- CLOSE of a package that passes has it checked in the inactive store. -/
theorem execCfgClose_checks (hw : s.wholePkg = true) (hk : (k.keys.isEmpty || s.updateEnable) = true) (hc : s.refuseCause k = 0) : Gives (.cfgClose p k) s fun t =>
    t.getF SCH_CFGSTAT_REFUSE = 0 ∧ t.flag SCH_CFGSTAT_OPEN = false ∧ t.flag SCH_CFGSTAT_CHECKED = true ∧
    t.olc = { s.olc with cand := some k } ∧ tabGet? t.pkgs (1 - s.actStore) = some k := by
  obtain ⟨e1, e2, c⟩ := State.closed_does (Chg.aside h).ok (c := 0) (by decide)
  obtain ⟨d, d1, d2, d3, d4⟩ := State.checkedPkg_does (k := k) c.ok
  have hu : s.aside.cmdCfgClose p k = (s.aside.closed 0).checkedPkg k := by
    refine (if_neg (State.pkgState_pass h hp)).trans ((if_neg (by rw [wholePkg_aside h, hw]; decide)).trans ((if_neg ?_).trans ?_))
    · rw [updateEnable_aside h, ← Bool.not_or, hk]
      decide
    · rw [refuseCause_aside h, hc]
      rfl
  have w := State.written_sch hr (p := p) (off := cfgcmdOff) (f := fun s => s.cmdCfgClose p k) (by decide) hu d.ok d4
  refine ⟨_, rfl, (w.reads _ (by decide)).trans ((d.only _ 0 (by decide)).trans e1), w.flag (by decide) ((d.only _ 0 (by decide)).trans e2),
    w.flag (by decide) d1, (congrArg State.olc w.frame).trans d2, ?_⟩
  rw [w.frame]
  show tabGet? ((s.aside.closed 0).checkedPkg k).pkgs _ = _
  rw [d3, show (s.aside.closed 0).actStore = s.actStore from (c.only SCH_OLCSTAT_ACTSTORE 0 (by decide)).trans (actStore_aside h)]
  exact tabGet?_tabSet_self _ _ _

/-- LOAD in RUN or HOLD is refused. -/
theorem execCfgLoad_running (hm : s.mode ≠ 0) : Gives (.cfgLoad p) s (CfgRefused s 4) :=
  ⟨_, rfl, State.written_cfgIgnored h hr ((if_neg (State.pkgState_pass h hp)).trans (if_pos (by rwa [mode_aside h]))) (by decide)⟩

/-- LOAD of what cannot be loaded is refused for that. -/
theorem execCfgLoad_barred (hm : s.mode = 0) (hc : s.armCause ≠ 0) : Gives (.cfgLoad p) s (CfgRefused s s.armCause) :=
  ⟨_, rfl, State.written_cfgIgnored h hr ((if_neg (State.pkgState_pass h hp)).trans ((if_neg (by rw [mode_aside h]; exact not_not.mpr hm)).trans
    ((if_pos (by rwa [armCause_aside h])).trans (by rw [armCause_aside h])))) s.armCause_lt⟩

/-- LOAD of a checked package begins the load: with a Follower its transfer, else its announcement for the next base tick. -/
theorem execCfgLoad_begins (hm : s.mode = 0) (hc : s.armCause = 0) (hk : s.olc.cand = some k) : Gives (.cfgLoad p) s fun t =>
    t.getF SCH_CFGSTAT_RESULT = 0 ∧ t.step_ = (if s.getF PAR_STAT_STATE = 6 then 2 else 4) ∧
    t.olc = { s.olc with load := true, cand := some k, actAt := if s.getF PAR_STAT_STATE = 6 then none else some (s.tick + 1) } := by
  obtain ⟨e1, e2, c, e3⟩ := State.olcBegin_does (Chg.aside h).ok k true
  have d := (Chg.refl c.ok).setF SCH_CFGSTAT_RESULT 0 0
  have hu : s.aside.cmdCfgLoad p = (s.aside.olcBegin k true).setF SCH_CFGSTAT_RESULT 0 := by
    unfold State.cmdCfgLoad
    rw [if_neg (State.pkgState_pass h hp), if_neg (by rw [mode_aside h]; exact not_not.mpr hm), if_neg (by rw [armCause_aside h, hc]; decide),
      show s.aside.olc.cand = some k from hk]
  have w := State.written_sch hr (p := p) (off := cfgcmdOff) (f := fun s => s.cmdCfgLoad p) (by decide) hu d.ok e3
  rw [pairState_aside h] at e1 e2
  refine ⟨_, rfl, (w.reads _ (by decide)).trans (getF_setF_self _ _ _ _ c.ok), (w.reads _ (by decide)).trans ((d.only _ 0 (by decide)).trans (e1.trans (by simp))),
    (congrArg State.olc w.frame).trans (e2.trans ?_)⟩
  by_cases h6 : s.getF PAR_STAT_STATE = 6 <;> simp [h6]

end

/-! ### The transfer, the pass and the activation -/

section
variable {s : State} (h : s.RegsOk)
include h

/-- The announcement of A: the first grid tick of the fastest task at least MINLEAD from now. -/
theorem State.announceA_does : s.announceA.step_ = 4 ∧
    s.announceA.olc = { s.olc with actAt := some (s.fastGrid (s.tick + max 1 (s.getF SCH_OLCCTL_MINLEAD) * 16)) } := by
  unfold State.announceA
  dsimp only
  generalize s.fastGrid _ = a
  obtain ⟨q, e⟩ := State.share_frame { s with olc := { s.olc with actAt := some a } } (.activation a s.olc.load)
  rw [e]
  obtain ⟨e1, -, r, ar, pr, e2⟩ := State.olcStep_does (s := { s with olc := { s.olc with actAt := some a }, pair := q }) h (n := 4) (by decide)
  exact ⟨e1, by rw [e2]⟩

/-- MIGRATE begins. -/
theorem State.toMigrate_does : s.toMigrate.step_ = 3 ∧ s.toMigrate.olc = s.olc := by
  have mp : s.migPass.RegsOk ∧ s.migPass.olc = s.olc := by
    unfold State.migPass
    split
    · exact ⟨((Chg.refl h).bump _ _ _).ok, rfl⟩
    · exact ⟨h, rfl⟩
  unfold State.toMigrate
  obtain ⟨e1, -, r, ar, pr, e2⟩ := State.olcStep_does mp.1 (n := 3) (by decide)
  exact ⟨e1, (congrArg State.olc e2).trans mp.2⟩

/-- OLC_TRANSFER_COMPLETE of a load announces it. -/
theorem execOlcTransferComplete_load (hl : s.isLead = true) (hs : s.step_ = 2) (ho : s.olc.load = true) : Gives .olcTransferComplete s fun t =>
    t.step_ = 4 ∧ t.olc = { s.olc with farReady := true, actAt := some (s.fastGrid (s.tick + max 1 (s.getF SCH_OLCCTL_MINLEAD) * 16)) } := by
  refine ⟨_, congrArg Host.Outcome.next ((if_neg (by simp [hl, hs])).trans (if_pos ho)), ?_⟩
  exact State.announceA_does (s := { s with olc := { s.olc with farReady := true } }) h

/-- Of a change it begins MIGRATE. -/
theorem execOlcTransferComplete_change (hl : s.isLead = true) (hs : s.step_ = 2) (ho : s.olc.load = false) : Gives .olcTransferComplete s fun t =>
    t.step_ = 3 ∧ t.olc = { s.olc with farReady := true } := by
  refine ⟨_, congrArg Host.Outcome.next ((if_neg (by simp [hl, hs])).trans (if_neg (by simp [ho]))), ?_⟩
  exact State.toMigrate_does (s := { s with olc := { s.olc with farReady := true } }) h

/-- MIGRATION_PASS_COMPLETE announces A. -/
theorem execMigrationPassComplete_announces (hl : s.isLead = true) (hs : s.step_ = 3) : Gives .migrationPassComplete s fun t =>
    t.step_ = 4 ∧ t.olc = { s.olc with actAt := some (s.fastGrid (s.tick + max 1 (s.getF SCH_OLCCTL_MINLEAD) * 16)) } :=
  ⟨_, congrArg Host.Outcome.next (if_pos (by simp [hl, hs])), State.announceA_does h⟩

end

/-- Does the activation of a change come now: A is reached, and the module does not follow, join or track? -/
def State.atActivation (s : State) (a : Nat) : Prop := s.step_ = 4 ∧ a ≤ s.tick ∧ (s.getF PAR_STAT_STATE = 0 ∨ 6 ≤ s.getF PAR_STAT_STATE)

/-- ACTIVATION_COMMIT looks at that. -/
theorem State.atActivation_iff {s : State} {a : Nat} :
    ¬ (s.step_ ≠ 4 || decide (s.tick < a) || (1 ≤ s.getF PAR_STAT_STATE && s.getF PAR_STAT_STATE ≤ 5)) = true ↔ s.atActivation a := by
  simp only [State.atActivation, Bool.or_eq_true, Bool.and_eq_true, decide_eq_true_eq]
  omega

/-- ACTIVATION_COMMIT before A, or of a module that follows, does nothing. -/
theorem execActivationCommit_early {s : State} {a : Nat} {k : Pkg} (ha : s.olc.actAt = some a) (hk : s.olc.cand = some k) (hn : ¬ s.atActivation a) :
    Gives .activationCommit s fun t => t = s := by
  refine ⟨s, ?_, rfl⟩
  show execActivationCommit s = _
  unfold execActivationCommit done
  rw [ha, hk]
  dsimp only
  rw [if_pos (by_contra fun e => hn (State.atActivation_iff.mp e))]

/-- Nor does it where nothing is announced. -/
theorem execActivationCommit_none {s : State} (hn : s.olc.actAt = none ∨ s.olc.cand = none) : Gives .activationCommit s fun t => t = s := by
  refine ⟨s, ?_, rfl⟩
  show execActivationCommit s = _
  unfold execActivationCommit done
  split
  · next a k ha hk => rcases hn with e | e <;> simp_all
  · rfl

/-- At A it puts the store in force: STEP shows SETTLE or, of a load, DONE; cycles of the tick read the new state; and a module without a role has the
activation record in MRAM. -/
theorem execActivationCommit_there {s : State} (h : s.RegsOk) {a : Nat} {k : Pkg} (ha : s.olc.actAt = some a) (hk : s.olc.cand = some k) (ht : s.atActivation a) :
    Gives .activationCommit s fun t => t.step_ = (if s.olc.load then 6 else 5) ∧ t.sq.tickMem = t.sq.mem ∧ t.sq.tickCsn = t.sq.csn ∧
      (s.isLead = false → ∃ n, t.kerb.act = some ⟨n, k.gen, s.sq.csn⟩) := by
  generalize hu : (if s.isLead then s.activationCommit k s.olc.load else s.activate k s.olc.load s.sq.csn) = u
  have ok : u.RegsOk := by
    rw [← hu]
    split
    · exact (State.activationCommit_keeps (Keeps.refl s)).regs h
    · exact (State.activate_keeps (Keeps.refl s)).regs h
  obtain ⟨e1, -, r, ar, pr, e2⟩ := State.olcStep_does ok (n := if s.olc.load then 6 else 5) (by split <;> decide)
  have ek : (u.olcStep (if s.olc.load then 6 else 5)).kerb = u.kerb := by rw [e2]
  refine ⟨(u.olcStep (if s.olc.load then 6 else 5)).baseNow, ?_, e1, rfl, rfl, fun hl => ?_⟩
  · show execActivationCommit s = _
    unfold execActivationCommit done
    rw [ha, hk]
    dsimp only
    rw [if_neg (State.atActivation_iff.mpr ht), hu]
  · obtain ⟨n, e⟩ := s.activate_act k s.olc.load s.sq.csn
    refine ⟨n, (congrArg KerbRt.act ek).trans ?_⟩
    rw [← hu, if_neg (by rw [hl]; decide)]
    exact e

/-- Settles O51: each command is refused, or its effect is what the steps of a change leave. -/
theorem onlineChange : Obligations.OnlineChange := by
  unfold Obligations.OnlineChange
  intro s h Refused
  refine ⟨fun p hr => ⟨execOlcArm_notLead h hr p, execOlcArm_barred h hr p, fun k => execOlcArm_begins h hr p,
      ⟨execOlcAbandon_notLead h hr p, execOlcAbandon_late h hr p, execOlcAbandon_ends h hr p⟩,
      execCfg_notHere h hr p, execCfgOpen_busy h hr p, execCfgOpen_begins h hr p, execCfgChunk_closed h hr p,
      fun hp ho => ⟨execCfgChunk_bad h hr p hp ho, execCfgChunk_good h hr p hp ho⟩,
      fun k hp => ⟨execCfgClose_partial h hr p hp, execCfgClose_locked h hr p hp, execCfgClose_refuses h hr p hp, execCfgClose_checks h hr p hp⟩,
      fun hp => execCfgLoad_running h hr p hp, fun hp => execCfgLoad_barred h hr p hp, fun k hp => execCfgLoad_begins h hr p hp⟩,
    ⟨execOlcTransferComplete_load h, execOlcTransferComplete_change h, fun e => ⟨_, congrArg Host.Outcome.next (if_pos (by rw [e]; rfl)), rfl⟩,
      execMigrationPassComplete_announces h, fun e => ⟨_, congrArg Host.Outcome.next (if_neg (by rw [e]; decide)), rfl⟩⟩,
    fun a k ha hk => ⟨execActivationCommit_early ha hk, execActivationCommit_there h ha hk⟩, execActivationCommit_none⟩

end Sys2Proof.Machine
end

section
/-! PROOFS. The Roundabout's own steps: connections, doorbells, descriptors and locks (09, R245, R247; 10, R254 to R273). -/
namespace Sys2Proof.Machine

/-! ### Connections -/

/-- A running module has sessions. -/
theorem State.hostUp_runs {s : State} (hr : s.Runs) : s.hostUp = true := by
  unfold State.hostUp
  rw [show s.kerb.phase = .run from hr]
  rfl

/-- The session that an admitted request opens, with queue pair 0 (Table 10-1). -/
def sessOf (s : State) (link : Fin 12) (req : List Byte) (a : AccessDef) : Sess :=
  let n (o k : Nat) : Nat := leNat ((req.drop o).take k)
  { Sess.empty with cid := leNat (req.take 8), link := link.val, rights := a.rights.toNat, cls := min (n 0x1D 1) a.maxCls.toNat,
                    qps := [(0, Qp.new (2 ^ (n 0x1C 1 % 16 + 4)) (2 ^ (n 0x1C 1 / 16 + 4)) (n 8 8) (n 0x10 8) (n 0x18 4))], active := s.now }

/-- A session put under a free number, its access path opened anew, and the client answered. -/
def State.openSess (s : State) (k : Nat) (x : Sess) : State :=
  (({ s with host := { s.host with sess := tabSet s.host.sess k x } } : State).closePath (.queue (Fin.ofNat 8193 k))).hqeStat.sendRep k

/-- It stands there, and the client has a REP. -/
theorem State.openSess_does (s : State) (k : Nat) (x : Sess) : (s.openSess k x).sess? k = some x ∧ ∃ l, (s.openSess k x).out = s.out ++ [⟨.host, 0, [k, 1], l⟩] :=
  ⟨tabGet?_tabSet_self _ _ _, _, rfl⟩

/-- CONNECTION_REQUEST of an admitted client without a session. -/
theorem execConnectionRequest_admits {s : State} {link : Fin 12} {src : BitVec 128} {req : List Byte} {k : Nat} {a : AccessDef} (hr : s.Runs)
    (hl : s.flag SEC_PORTSTAT_SECURED (106 + link.val) = true) (hq : s.refuseReq link.val src.toNat req = none)
    (hc : ∀ x ∈ s.host.sess, x.2.cid ≠ leNat (req.take 8)) (hk : (List.range' 1 8192).find? (fun k => (s.sess? k).isNone) = some k)
    (ha : s.accessFor link.val src.toNat = some a) (hm : s.host.sess.length < s.getF HQE_CTL_MAXSESS) (hn : s.qpCount < 32768) :
    exec (.connectionRequest link src req) s = .next (s.openSess k (sessOf s link req a)) := by
  have hf : s.host.sess.find? (fun x => x.2.cid = leNat ((req.drop 0).take 8)) = none := by simpa using hc
  show execConnectionRequest link src req s = _
  unfold execConnectionRequest done
  dsimp only
  rw [if_neg (by simp [State.hostUp_runs hr, hl]), hq]
  dsimp only
  rw [hf]
  dsimp only
  rw [hk, ha]
  dsimp only
  rw [if_neg (by simp; omega)]
  rfl

/-! ### The end of a session -/

/-- A group that somebody holds stands in the table. -/
theorem State.lock_mem {s : State} {g : Nat} (hh : (s.lock g).holder ≠ none) : (g, s.lock g) ∈ s.host.locks := by
  unfold State.lock tabGet at *
  cases e : tabGet? s.host.locks g with
  | none => exact absurd (by rw [e]; rfl) hh
  | some l => exact mem_of_tabGet? e

/-- The groups that a session holds. -/
theorem State.mem_heldBy {s : State} (hl : tabRising s.host.locks = true) (n g : Nat) : g ∈ s.heldBy n ↔ (s.lock g).holder = some n := by
  unfold State.heldBy
  rw [List.mem_filterMap]
  constructor
  · rintro ⟨⟨k, l⟩, hm, e⟩
    split at e
    · next hh =>
      injection e with e
      subst e
      unfold State.lock tabGet
      rw [tabGet?_of_mem hl hm]
      exact hh
    · cases e
  · exact fun hh => ⟨_, State.lock_mem (by rw [hh]; exact Option.some_ne_none n), if_pos hh⟩

/-- What is left of a session that has ended: nothing; every lock it held is broken, and every other group is as it was. -/
def SessEnded (s : State) (n : Nat) (t : State) : Prop :=
  t.sess? n = none ∧ (∀ g, (s.lock g).holder = some n → (t.lock g).holder = none ∧ (t.lock g).broken = true) ∧
  ∀ g, (s.lock g).holder ≠ some n → t.lock g = s.lock g

/-- A session that ends. -/
theorem State.endSession_does {s : State} (h : s.RegsOk) {n : Nat} {x : Sess} (hs : tabRising s.host.sess = true) (hl : tabRising s.host.locks = true)
    (hx : s.sess? n = some x) : SessEnded s n (s.endSession n) := by
  obtain ⟨-, ⟨r, m, q, sc, w, k, f⟩, hk⟩ := State.breakLocks_does (s.heldBy n) h
  unfold State.endSession
  rw [hx]
  dsimp only
  generalize (s.heldBy n).foldl (fun s g => s.breakLock g) s = u at *
  have lock : ∀ g, u.lock g = if (s.lock g).holder = some n then (s.lock g).broke else s.lock g := by
    intro g
    rw [hk g]
    by_cases hh : (s.lock g).holder = some n <;> simp [State.mem_heldBy hl, hh]
  refine ⟨?_, fun g hh => ?_, fun g hh => ?_⟩
  · show tabGet? (tabDel u.host.sess n) n = none
    rw [f]
    exact tabGet?_tabDel_self _ _ hs
  · show (u.lock g).holder = none ∧ (u.lock g).broken = true
    rw [lock g, if_pos hh]
    exact ⟨rfl, rfl⟩
  · show u.lock g = s.lock g
    rw [lock g, if_neg hh]

/-- SESSION_END: at once where the connection has failed or been closed, else once SESSIDLE seconds have passed without traffic. -/
theorem execSessionEnd_ends {s : State} (h : s.RegsOk) {sess : SessNo} {x : Sess} (hs : tabRising s.host.sess = true) (hl : tabRising s.host.locks = true)
    (hx : s.sess? sess.val = some x) {idle : Bool} (hi : ¬ (idle && decide (s.now < x.active + s.getF HQE_CTL_SESSIDLE * 1000000000)) = true) :
    Gives (.sessionEnd sess idle) s (SessEnded s sess.val) := by
  refine ⟨s.endSession sess.val, ?_, State.endSession_does h hs hl hx⟩
  show execSessionEnd sess idle s = _
  unfold execSessionEnd done
  rw [hx]
  dsimp only
  rw [if_neg hi]

/-! ### Doorbells and descriptors -/

/-- A step of a queue pair emits nothing. -/
theorem QpStep.out {s t : State} {n q : Nat} {x x' : Sess} {y' : Qp} (h : QpStep s t n q x x' y') : t.out = s.out :=
  congrArg (fun t => t.out) h.frame

/-- Renewing the leases of a session touches the groups and their count. -/
theorem State.renew_frame (s : State) (n : Nat) : ∃ r k, s.renew n = { s with regs := r, host := { s.host with locks := k } } := by
  have fold : ∀ (l : List Nat) (u : State),
      ∃ r k, l.foldl (fun s g => s.modLock g (fun l => { l with lease := s.now + s.getF HQE_LOCKCFG_LEASE * 1000000 })) u = { u with regs := r, host := { u.host with locks := k } } := by
    intro l
    induction l with
    | nil => exact fun u => ⟨_, _, rfl⟩
    | cons g l ih =>
      intro u
      obtain ⟨r, k, e⟩ := ih (u.modLock g (fun l => { l with lease := u.now + u.getF HQE_LOCKCFG_LEASE * 1000000 }))
      exact ⟨r, k, e⟩
  exact fold _ s

/-- How many descriptors a fetch takes at most: as BATCH, the tail and the credits allow. -/
def State.fetchMax (s : State) (x : Sess) (y : Qp) : Nat :=
  min (min (s.getF HQE_ADMCFG_BATCH) (y.tail - y.fetched)) (min (s.getF HQE_ADMCFG_CREDIT - x.credits)
    (262144 - (s.host.sess.map (fun e => e.2.credits)).foldl (· + ·) 0))

/-- A completion written to its ring, after its data if it has any (R261). -/
def State.complOut (s : State) (n q : Nat) (y : Qp) (c : Compl) : State :=
  (if c.data.isEmpty then s else s.emit .host 3 [n, q, c.reqid, c.detail, c.addr, c.key] c.data).emit .host 4
    [n, q, y.cqBase + 32 * (y.written % y.cqSize), y.rkey] (s.complBytes y c)

/-- It is emitted, and the sessions are as they were. -/
theorem State.complOut_does (s : State) (n q : Nat) (y : Qp) (c : Compl) : (s.complOut n q y c).host = s.host ∧
    (s.complOut n q y c).out = s.out ++ (if c.data.isEmpty then [] else [⟨.host, 3, [n, q, c.reqid, c.detail, c.addr, c.key], c.data⟩]) ++
      [⟨.host, 4, [n, q, y.cqBase + 32 * (y.written % y.cqSize), y.rkey], s.complBytes y c⟩] := by
  unfold State.complOut
  split
  · exact ⟨rfl, by simp [State.emit]⟩
  · exact ⟨rfl, rfl⟩

/-! ### Locks -/

/-- Is a group held and its lease run out at a time? -/
def leaseOver (now : Nat) (l : Nat × LockRt) : Bool := l.2.holder.isSome && decide (l.2.lease ≤ now)

/-- Breaking those of the groups whose leases have run out is breaking them one after another. -/
theorem State.expire_foldl (l : List (Nat × LockRt)) {u : State} (h : u.RegsOk) :
    l.foldl (fun s l => if leaseOver s.now l then s.breakLock l.1 else s) u = ((l.filter (leaseOver u.now)).map Prod.fst).foldl (fun s g => s.breakLock g) u := by
  induction l generalizing u with
  | nil => rfl
  | cons e l ih =>
    rw [List.foldl_cons]
    by_cases hc : leaseOver u.now e = true
    · obtain ⟨ok, ⟨r, m, q, sc, w, k, f⟩, -⟩ := State.breakLock_does h e.1
      rw [if_pos hc, List.filter_cons_of_pos hc, List.map_cons, List.foldl_cons, ih ok, show (u.breakLock e.1).now = u.now by rw [f]]
    · rw [if_neg hc, List.filter_cons_of_neg hc, ih h]

/-- LEASE_EXPIRY breaks every lock whose lease has run out. -/
theorem execLeaseExpiry_breaks {s : State} (h : s.RegsOk) : Gives .leaseExpiry s fun t =>
    ∀ g, (s.lock g).holder.isSome = true → (s.lock g).lease ≤ s.now → (t.lock g).holder = none ∧ (t.lock g).broken = true ∧ (t.lock g).staged = [] := by
  refine ⟨_, congrArg Host.Outcome.next (State.expire_foldl s.host.locks h), fun g hh hl => ?_⟩
  have hover : leaseOver s.now (g, s.lock g) = true := by simp [leaseOver, hh, hl]
  have hin : g ∈ (s.host.locks.filter (leaseOver s.now)).map Prod.fst :=
    List.mem_map.mpr ⟨_, List.mem_filter.mpr ⟨State.lock_mem (Option.isSome_iff_ne_none.mp hh), hover⟩, rfl⟩
  obtain ⟨-, -, hk⟩ := State.breakLocks_does ((s.host.locks.filter (leaseOver s.now)).map Prod.fst) h
  rw [hk g, if_pos ⟨hin, hh⟩]
  exact ⟨rfl, rfl, rfl⟩

/-- A group that nobody holds and for which nobody waits before is granted. -/
theorem State.grant_one {s : State} {n o g : Nat} {dn : List Nat} {b : Bool} (hf : (s.lock g).holder = none) (ha : s.lockAhead o g = false) :
    s.grant n o [g] dn b = (([], dn ++ [g], b || (s.lock g).broken), s.lockTo n g) := by
  unfold State.grant
  rw [if_neg (by simp [hf, ha])]
  rfl

/-- Nobody waits before the only request that waits. -/
theorem State.lockAhead_only {s : State} {n q o g : Nat} {w : WaitDesc} {l dn : List Nat} {b : Bool} (hw : s.lockWaits = [(n, q, w)]) (ho : w.w = .lock o l dn b) :
    s.lockAhead o g = false := by
  unfold State.lockAhead
  rw [hw]
  simp [ho]

/-! ### The steps of a session -/

section
variable {s : State} {sess : SessNo} {qp : QpNo} {x : Sess} {y : Qp} (hx : s.sess? sess.val = some x)
include hx

/-- A queue pair of a session. -/
theorem State.qp?_of {q : Nat} (hy : tabGet? x.qps q = some y) : s.qp? sess.val q = some y := by
  show (s.sess? sess.val).bind _ = _
  rw [hx]
  exact hy

/-- DOORBELL within range moves the tail and the head. -/
theorem execDoorbell_moves {q : Nat} {word : W64} (hy : tabGet? x.qps q = some y) (hq : q < 4096) (hl : s.sessSecured x = true)
    (ht : advance32 y.tail (bits word.toNat 0 32) ≤ y.fetched + y.sqSize) (hh : advance32 y.head (bits word.toNat 32 32) ≤ y.written) :
    Gives (.doorbell sess true (8 * q) 8 word) s fun t => t = { s with host := { s.host with sess := t.host.sess } } ∧
      t.qp? sess.val q = some { y with tail := advance32 y.tail (bits word.toNat 0 32), head := advance32 y.head (bits word.toNat 32 32) } ∧
      (t.sess? sess.val).map Sess.active = some s.now := by
  obtain ⟨x1, a⟩ := QpStep.modQp hx hy (fun z => { z with tail := advance32 y.tail (bits word.toNat 0 32), head := advance32 y.head (bits word.toNat 32 32) })
  generalize hu : s.modQp sess.val q _ = u at a
  have hexec : exec (.doorbell sess true (8 * q) 8 word) s = .next (u.modSess sess.val (fun x => { x with active := s.now })) := by
    show execDoorbell sess true (8 * q) 8 word s = _
    unfold execDoorbell done
    rw [hx]
    dsimp only
    rw [if_neg (by simp [hl]), if_neg (by simp; omega), show 8 * q / 8 = q by omega, State.qp?_of hx hy]
    dsimp only
    rw [if_neg (by simp; omega), hu]
  obtain ⟨e, g⟩ := State.modSess_sess a.sess (fun x => { x with active := s.now })
  refine ⟨_, hexec, ?_, ?_, ?_⟩
  · rw [e, a.frame]
  · show (State.sess? _ _).bind _ = _
    rw [g]
    exact a.queue
  · rw [g]
    rfl

/-- DESCRIPTOR_FETCH takes as many as that, and asks the host for them. -/
theorem execDescriptorFetch_takes (hr : s.Runs) (hy : tabGet? x.qps qp.val = some y) (hl : s.sessSecured x = true) {ds : List HostDesc} (hd : ds.take (s.fetchMax x y) ≠ []) :
    Gives (.descriptorFetch sess qp ds) s fun t => (∃ z, t.qp? sess.val qp.val = some z ∧ z.fetched = y.fetched + (ds.take (s.fetchMax x y)).length) ∧
      t.out = s.out ++ [⟨.host, 5, [sess.val, qp.val, y.sqBase + 64 * (y.fetched % y.sqSize), (ds.take (s.fetchMax x y)).length, y.rkey], []⟩] := by
  generalize hv : s.emit .host 5 [sess.val, qp.val, y.sqBase + 64 * (y.fetched % y.sqSize), (ds.take (s.fetchMax x y)).length, y.rkey] = v
  have vx : v.sess? sess.val = some x := by rw [← hv]; exact hx
  have vo : v.out = s.out ++ [⟨.host, 5, [sess.val, qp.val, y.sqBase + 64 * (y.fetched % y.sqSize), (ds.take (s.fetchMax x y)).length, y.rkey], []⟩] := by rw [← hv]; rfl
  generalize hl' : ds.take (s.fetchMax x y) = l at *
  obtain ⟨x1, a⟩ := QpStep.modQp vx hy (fun y => { y with fetched := y.fetched + l.length, ready := y.ready ++ l, open_ := y.open_ + l.length })
  generalize hu : v.modQp sess.val qp.val _ = u at a
  have hexec : exec (.descriptorFetch sess qp ds) s =
      .next (((u.modSess sess.val (fun x => { x with active := u.now })).renew sess.val).drain sess.val qp.val (y.ready.length + l.length)) := by
    show execDescriptorFetch sess qp ds s = _
    unfold execDescriptorFetch done
    dsimp only
    rw [hx, State.qp?_of hx hy]
    dsimp only
    rw [if_neg (by simp [State.hostUp_runs hr, hl])]
    have e : ds.take (min (min (s.getF HQE_ADMCFG_BATCH) (y.tail - y.fetched)) (min (s.getF HQE_ADMCFG_CREDIT - x.credits)
      (262144 - (s.host.sess.map (fun e => e.2.credits)).foldl (· + ·) 0))) = l := hl'
    rw [e, if_neg (by simpa using hd), hv, hu]
  obtain ⟨e1, g1⟩ := State.modSess_sess a.sess (fun x => { x with active := u.now })
  generalize u.modSess sess.val _ = w at e1 g1 hexec
  obtain ⟨r, k, e2⟩ := w.renew_frame sess.val
  have g2 : (w.renew sess.val).sess? sess.val = some { x1 with active := u.now } := by rw [e2]; exact g1
  obtain ⟨x2, rd, o, c, b⟩ := QpStep.drain (y.ready.length + l.length) g2 a.queue
  refine ⟨_, hexec, ⟨_, b.qp, rfl⟩, ?_⟩
  calc _ = (w.renew sess.val).out := b.out
    _ = u.out := by rw [e2, e1]
    _ = v.out := a.out
    _ = _ := vo

/-- COMPLETION_WRITE with room in the ring writes the oldest completion, after its data. -/
theorem execCompletionWrite_writes (hr : s.Runs) (hy : tabGet? x.qps qp.val = some y) {c : Compl} {rest : List Compl} (hc : y.comps = c :: rest)
    (hw : y.written < y.head + y.cqSize) (hn : qp.val ≠ 0 ∨ x.closing ≠ some (y.written + 1)) :
    Gives (.completionWrite sess ⟨qp, true⟩) s fun t => t.qp? sess.val qp.val = some { y with written := y.written + 1, comps := rest } ∧
      t.out = s.out ++ (if c.data.isEmpty then [] else [⟨.host, 3, [sess.val, qp.val, c.reqid, c.detail, c.addr, c.key], c.data⟩]) ++
        [⟨.host, 4, [sess.val, qp.val, y.cqBase + 32 * (y.written % y.cqSize), y.rkey], s.complBytes y c⟩] := by
  obtain ⟨eh, eo⟩ := s.complOut_does sess.val qp.val y c
  have eb : (if c.data.isEmpty then s else s.emit .host 3 [sess.val, qp.val, c.reqid, c.detail, c.addr, c.key] c.data).complBytes y c = s.complBytes y c := by split <;> rfl
  have hv : (s.complOut sess.val qp.val y c).sess? sess.val = some x := by unfold State.sess?; rw [eh]; exact hx
  obtain ⟨x1, a⟩ := QpStep.modQp hv hy (fun y => { y with written := y.written + 1, comps := rest })
  generalize hu : (s.complOut sess.val qp.val y c).modQp sess.val qp.val _ = u at a
  have hexec : exec (.completionWrite sess ⟨qp, true⟩) s = .next u := by
    show execCompletionWrite sess ⟨qp, true⟩ s = _
    unfold execCompletionWrite done
    dsimp only
    rw [hx, State.qp?_of hx hy]
    dsimp only
    rw [hc]
    dsimp only
    rw [if_neg (by simp [State.hostUp_runs hr]; omega), if_neg (by simpa [or_iff_not_imp_left] using hn)]
    simp only [Bool.not_true, Bool.false_and, Bool.false_eq_true, if_false]
    rw [eb, ← hu]
    rfl
  exact ⟨_, hexec, a.qp, a.out.trans eo⟩

/-- DESCRIPTOR_WAIT_TIMEOUT of a descriptor whose wait has run out. -/
theorem execDescriptorWaitTimeout_due (hy : tabGet? x.qps qp.val = some y) {reqid : W32} {w : WaitDesc}
    (hw : y.waits.find? (fun w => decide (dReqid w.d = reqid.toNat) && decide (w.since + dWait w.d ≤ s.now + 62500)) = some w) :
    Gives (.descriptorWaitTimeout sess qp reqid) s fun t => Answered t sess qp y.comps (answerOf w.d 0x0200 0 0 0 []) := by
  have hexec : exec (.descriptorWaitTimeout sess qp reqid) s = .next ((s.endWait sess.val qp.val w 0x0200).drain sess.val qp.val y.ready.length) := by
    show execDescriptorWaitTimeout sess qp reqid s = _
    unfold execDescriptorWaitTimeout done
    rw [State.qp?_of hx hy]
    dsimp only
    rw [hw]
  obtain ⟨x1, a⟩ := QpStep.modQp hx hy (fun y => { y with waits := y.waits.filter (fun v => v ≠ w) })
  unfold State.endWait at hexec
  generalize s.modQp sess.val qp.val _ = u at a hexec
  obtain ⟨r, k, e⟩ := u.ungrant_frame w
  have g : (u.ungrant w).sess? sess.val = some x1 := by rw [e]; exact a.sess
  obtain ⟨x2, b⟩ := QpStep.complete g a.queue w.d 0x0200 0 0 0 [] (.inl rfl)
  obtain ⟨x3, rd, o, l, d⟩ := QpStep.drain y.ready.length b.sess b.queue
  exact ⟨_, hexec, QpStep.answered d⟩

/-- LOCK_GRANT of the only waiting LOCK, for a group that is free. -/
theorem execLockGrant_grants (hy : tabGet? x.qps qp.val = some y) {w : WaitDesc} {o g : Nat} {dn : List Nat} {b : Bool} (hw : s.lockWaits = [(sess.val, qp.val, w)])
    (ho : w.w = .lock o [g] dn b) (hf : (s.lock g).holder = none) :
    Gives .lockGrant s fun t => Answered t sess qp y.comps (answerOf w.d 0 0 0 (if b || (s.lock g).broken then 8 else 0) []) ∧ (t.lock g).holder = some sess.val ∧
      (t.lock g).broken = false := by
  obtain ⟨x1, a⟩ := QpStep.modQp (s := s.lockTo sess.val g) hx hy (fun x => { x with waits := x.waits.filter (fun v => v ≠ w) })
  obtain ⟨x2, c⟩ := QpStep.complete a.sess a.queue w.d 0 0 0 (if b || (s.lock g).broken then 8 else 0) [] (.inl rfl)
  have hexec : exec .lockGrant s = .next (((s.lockTo sess.val g).modQp sess.val qp.val (fun x => { x with waits := x.waits.filter (fun v => v ≠ w) })).complete
      sess.val qp.val w.d 0 0 0 (if b || (s.lock g).broken then 8 else 0)) := by
    show execLockGrant s = _
    unfold execLockGrant done State.lockOn
    rw [hw]
    dsimp only [List.foldl_cons, List.foldl_nil]
    rw [ho]
    dsimp only
    rw [State.grant_one hf (State.lockAhead_only hw ho)]
    rfl
  have e := ((a.trans c).lock g).trans ((State.lock_modLock _ _ _ _).trans (if_pos rfl))
  exact ⟨_, hexec, ⟨_, c.qp, List.prefix_refl _⟩, congrArg LockRt.holder e, congrArg LockRt.broken e⟩

end

/-- Settles O42: each step, under its premises, leads to one state of the sessions, their queue pairs and the groups. -/
theorem hostEngine : Obligations.HostEngine := by
  unfold Obligations.HostEngine
  intro s h
  refine ⟨fun link src req k a hr hl hq hc hk ha hm hn => ?_, fun sess x hs hl hx => ?_,
    fun sess x y q word hx hy hq hl ht hh => execDoorbell_moves hx hy hq hl ht hh,
    fun sess qp x y ds hr hx hy hl hd => execDescriptorFetch_takes hx hr hy hl hd,
    fun sess qp x y c rest hr hx hy hc hw hn => execCompletionWrite_writes hx hr hy hc hw hn,
    fun sess qp x y reqid w hx hy hw => execDescriptorWaitTimeout_due hx hy hw, execLeaseExpiry_breaks h,
    fun sess qp x y w o g dn b hx hy hw ho hf => execLockGrant_grants hx hy hw ho hf⟩
  · obtain ⟨hs, ho⟩ := s.openSess_does k (sessOf s link req a)
    exact ⟨_, execConnectionRequest_admits hr hl hq hc hk ha hm hn, ⟨_, hs, rfl, rfl, rfl, rfl⟩, ho⟩
  · exact ⟨⟨_, rfl, State.endSession_does h hs hl hx⟩, execSessionEnd_ends h hs hl hx (by simp), fun hi => execSessionEnd_ends h hs hl hx (by simp; omega)⟩

end Sys2Proof.Machine
end

section
/-! PROOFS. Requests that read (10, R264 to R266, R271, R276; 16, R422; 17, R442). -/
namespace Sys2Proof.Machine

/-! ### Requests answered at once -/

/-- From `s` to `t` nothing but the sessions changes. -/
def OnlySess (s t : State) : Prop := t = { s with host := { s.host with sess := t.host.sess } }

/-- One after another. -/
theorem OnlySess.trans {s t u : State} (h : OnlySess s t) (k : OnlySess t u) : OnlySess s u := by
  unfold OnlySess at *
  rw [k, h]

/-- The registers are as they were. -/
theorem OnlySess.regs {s t : State} (h : OnlySess s t) : t.regs = s.regs := by
  unfold OnlySess at h
  rw [h]

/-- Changing a session. -/
theorem OnlySess.modSess (s : State) (n : Nat) (f : Sess → Sess) : OnlySess s (s.modSess n f) := by
  unfold OnlySess State.modSess
  split <;> rfl

/-- From `s` to `t` nothing but the sessions changes, and the completion of `d` is the next of its queue pair, which had the completions `l`. -/
def Replied (s : State) (sess : SessNo) (qp : QpNo) (l : List Compl) (d : HostDesc) (status csn detail flags : Nat) (data : List Byte) (t : State) : Prop :=
  OnlySess s t ∧ Answered t sess qp l (answerOf d status csn detail flags data)

/-- The records of a log in the range that a descriptor names, of those that it keeps. -/
def recordsOf (d : HostDesc) (keep : ArcRec → Bool) (l : List ArcRec) : List ArcRec := (l.filter (fun r => decide (dCsn d ≤ r.seq) && decide (r.seq ≤ dArg d))).filter keep

/-- A read of a log completes with the records that fit. -/
theorem State.logRead_completes (s : State) (n q : Nat) (d : HostDesc) (l : List ArcRec) (next : Nat) (keep : ArcRec → Bool) :
    let got := fitBytes ArcRec.length (dLen2 d) (recordsOf d keep l)
    ∃ flags, s.logRead n q d l next keep = s.complete n q d 0 (((got.getLast?).map ArcRec.seq).getD 0) got.length flags (got.flatMap ArcRec.bytes) :=
  ⟨_, rfl⟩

section
variable {s : State} {sess : SessNo} {qp : QpNo} {x : Sess} {y : Qp} {d : HostDesc} {rest : List HostDesc} (h : AtHead s sess qp x y d rest)
include h

/-- A command that starts a descriptor whose meaning is to complete at once, with nothing else done. -/
theorem AtHead.gives_reply {c : Instr} {mine : HostDesc → Bool} {f : Sess → HostDesc → State → State} (hc : exec c s = .next (s.startDesc sess qp mine f))
    (hm : mine d = true) {status csn detail flags : Nat} {data : List Byte} (hd : data = [] ∨ d.ok2 = true)
    (hf : f x d (s.took sess qp rest) = (s.took sess qp rest).complete sess.val qp.val d status csn detail flags data) :
    Gives c s (Replied s sess qp y.comps d status csn detail flags data) :=
  ⟨_, hc, h.replies hm f hd hf⟩

/-- HOST_NOP. -/
theorem AtHead.hostNop (ho : dOp d = 0) : Gives (.hostNop sess qp) s (Replied s sess qp y.comps d 0 0 0 0 []) :=
  h.gives_reply rfl (by simp [ho]) (.inl rfl) rfl

/-- HOST_TIME with room for the 16 bytes. -/
theorem AtHead.hostTime (ho : dOp d = 11) (hl : 16 ≤ dLen2 d) (hd : d.ok2 = true) : Gives (.hostTime sess qp) s (Replied s sess qp y.comps d 0 0 0 0
    (natLe 6 (s.now / 1000000000) ++ natLe 2 0 ++ natLe 4 (s.now % 1000000000) ++ natLe 1 (s.getF TIM_STAT_ACTIVE) ++ natLe 3 0)) := by
  obtain ⟨l, e⟩ := h.took_frame
  have now : (s.took sess qp rest).now = s.now := by rw [e]
  have active : (s.took sess qp rest).getF TIM_STAT_ACTIVE = s.getF TIM_STAT_ACTIVE := by rw [e]; rfl
  refine h.gives_reply rfl (by simp [ho]) (.inr hd) ?_
  rw [if_neg (by omega), now, active]

/-- ATTEST of a nonce of 32 bytes with room for the evidence. -/
theorem AtHead.attest (ho : dOp d = 12) (hn : dLen1 d = 32) (hl : (s.evidence d.data).length ≤ dLen2 d) (hd : d.ok2 = true) :
    Gives (.attest sess qp) s (Replied s sess qp y.comps d 0 0 0 0 (s.evidence d.data)) := by
  obtain ⟨l, e⟩ := h.took_frame
  have evidence : (s.took sess qp rest).evidence d.data = s.evidence d.data := by rw [e]; rfl
  refine h.gives_reply rfl (by simp [ho]) (.inr hd) ?_
  dsimp only
  rw [evidence, if_neg (not_not.mpr hn), if_neg (by omega)]

/-- A read of a log completes OK with the records that fit. -/
theorem AtHead.gives_records {c : Instr} {mine : HostDesc → Bool} {f : Sess → HostDesc → State → State} (hc : exec c s = .next (s.startDesc sess qp mine f))
    (hm : mine d = true) {l : List ArcRec} {next : Nat} {keep : ArcRec → Bool} (hd : d.ok2 = true)
    (hf : f x d (s.took sess qp rest) = (s.took sess qp rest).logRead sess.val qp.val d l next keep) :
    let got := fitBytes ArcRec.length (dLen2 d) (recordsOf d keep l)
    Gives c s fun t => ∃ flags, Replied s sess qp y.comps d 0 (((got.getLast?).map ArcRec.seq).getD 0) got.length flags (got.flatMap ArcRec.bytes) t := by
  obtain ⟨flags, e⟩ := (s.took sess qp rest).logRead_completes sess.val qp.val d l next keep
  obtain ⟨t, et, r⟩ := h.gives_reply hc hm (.inr hd) (hf.trans e)
  exact ⟨t, et, flags, r⟩

/-- HISTORY_READ of cycle records. -/
theorem AtHead.historyRead (ho : dOp d = 5) (hop : dOpt d = 0) (hd : d.ok2 = true) :
    let got := fitBytes ArcRec.length (dLen2 d) (recordsOf d (fun _ => true) s.arc.cyc)
    Gives (.historyRead sess qp) s fun t =>
      ∃ flags, Replied s sess qp y.comps d 0 (((got.getLast?).map ArcRec.seq).getD 0) got.length flags (got.flatMap ArcRec.bytes) t := by
  obtain ⟨l, e⟩ := h.took_frame
  have arc : (s.took sess qp rest).arc = s.arc := by rw [e]
  refine h.gives_records (next := s.arc.cycSeq) rfl (by simp [ho, hop]) hd ?_
  rw [if_neg (not_not.mpr hop), arc]

/-- EVENT_READ of the kinds of its mask. -/
theorem AtHead.eventRead (ho : dOp d = 6) (hd : d.ok2 = true) :
    let got := fitBytes ArcRec.length (dLen2 d) (recordsOf d (fun r => decide (dOpt d = 0) || (decide (r.kind ≥ 0x0101) && decide (r.kind ≤ 0x010A) &&
      bitOf (dOpt d) (r.kind - 0x0101))) s.arc.evs)
    Gives (.eventRead sess qp) s fun t =>
      ∃ flags, Replied s sess qp y.comps d 0 (((got.getLast?).map ArcRec.seq).getD 0) got.length flags (got.flatMap ArcRec.bytes) t := by
  obtain ⟨l, e⟩ := h.took_frame
  have arc : (s.took sess qp rest).arc = s.arc := by rw [e]
  refine h.gives_records (next := s.arc.evSeq) rfl (by simp [ho]) hd ?_
  rw [arc]

/-- HISTORY_READ of delta blocks, on a Lead. -/
theorem AtHead.historyReadDelta (ho : dOp d = 5) (hop : dOpt d = 1) (hl : s.isLead = true) (hd : d.ok2 = true) :
    let got := fitBytes (fun b => 16 + 16 * b.entries.length) (dLen2 d) (s.arc.near.filter (fun b => decide (dCsn d ≤ b.csn) && decide (b.csn ≤ dArg d)))
    Gives (.historyReadDelta sess qp) s fun t =>
      ∃ flags, Replied s sess qp y.comps d 0 (((got.getLast?).map NearBlk.csn).getD 0) got.length flags (got.flatMap NearBlk.bytes) t := by
  obtain ⟨l, e⟩ := h.took_frame
  have arc : (s.took sess qp rest).arc = s.arc := by rw [e]
  have lead : (s.took sess qp rest).isLead = true := by rw [e]; exact hl
  obtain ⟨t, et, r⟩ := h.gives_reply (c := .historyReadDelta sess qp) rfl (by simp [ho, hop]) (.inr hd)
    (by dsimp only; rw [if_neg (not_not.mpr hop), if_neg (by simp [lead]), arc])
  exact ⟨t, et, _, r⟩

/-! ### SESSION operations -/

/-- HOST_LATENCY that the present power state meets. -/
theorem AtHead.hostLatency (ho : dOp d = 0x10) (hop : dOpt d % 16 = 4) (hw : wakeUs (s.getF PWR_STAT_PSTATE) ≤ dArg d % 2 ^ 32) :
    Gives (.hostLatency sess qp) s fun t => Replied s sess qp y.comps d 0 0 0 0 [] t ∧
      (t.sess? sess.val).map Sess.latency = some (some (dArg d % 2 ^ 32)) := by
  obtain ⟨x1, a⟩ := h.takes
  obtain ⟨-, hset⟩ := State.modSess_sess a.sess (fun x => { x with latency := some (dArg d % 2 ^ 32) })
  have frame : OnlySess s ((s.took sess qp rest).modSess sess.val (fun x => { x with latency := some (dArg d % 2 ^ 32) })) :=
    OnlySess.trans a.frame (OnlySess.modSess _ _ _)
  have wake : ((s.took sess qp rest).modSess sess.val (fun x => { x with latency := some (dArg d % 2 ^ 32) })).getF PWR_STAT_PSTATE = s.getF PWR_STAT_PSTATE :=
    getF_same frame.regs
  obtain ⟨x2, b⟩ := QpStep.complete hset a.queue d 0 0 0 0 [] (.inl rfl)
  obtain ⟨t, et, x3, r, o, l, k⟩ := h.leads (c := .hostLatency sess qp) rfl (by simp [isSess, ho, hop])
    (by dsimp only; rw [wake, if_pos hw]) b.sess b.queue
  have whole := b.trans k
  refine ⟨t, et, ⟨frame.trans whole.frame, QpStep.answered whole⟩, ?_⟩
  rw [whole.sess, whole.same]
  rfl

/-- SESSION CLOSE: the session is to close once the completion is written that stands behind those of queue pair 0. -/
theorem AtHead.sessionClose (ho : dOp d = 0x10) (hop : dOpt d % 16 = 3) :
    Gives (.sessionClose sess qp) s fun t => Replied s sess qp y.comps d 0 0 0 0 [] t ∧
      (t.sess? sess.val).map Sess.closing = some (some (y.written + y.comps.length + 1)) := by
  obtain ⟨x1, a⟩ := h.takes
  obtain ⟨x2, b⟩ := QpStep.complete a.sess a.queue d 0 0 0 0 [] (.inl rfl)
  have answered := a.trans b
  have after := b.qp
  rw [h.session_qp ho] at after
  obtain ⟨-, hset⟩ := State.modSess_sess b.sess (fun x => { x with closing := some (y.written + y.comps.length + 1) })
  obtain ⟨t, et, x3, r, o, l, k⟩ := h.leads (c := .sessionClose sess qp) rfl (by simp [isSess, ho, hop])
    (by
      dsimp only
      rw [after, h.session_qp ho]
      dsimp only
      rw [List.length_append, ← Nat.add_assoc]
      rfl) hset b.queue
  refine ⟨t, et, ⟨(OnlySess.trans answered.frame (OnlySess.modSess _ _ _)).trans k.frame, QpStep.answered k⟩, ?_⟩
  rw [k.sess, k.same]
  rfl

end

/-! ### READ_AT -/

/-- A read of CSN `c`, the one that a descriptor names, can be served now, from a snapshot and under the program of a store. -/
structure Served (s : State) (d : HostDesc) (c st : Nat) (snap : Snap) : Prop where
  csn : s.readCsn d = c
  notVoid : s.isVoid c = false
  ready : s.readReady c (dDurable d) = true
  store : s.storeAt c = some st
  snap : s.snapAt? c = some snap

/-- Translating under another program touches a register only. -/
theorem State.under_same (s : State) (st : Nat) : SameS s (s.under st) := ⟨rfl, rfl, rfl, rfl, rfl⟩

/-- A read of snapshot bytes leaves the Square's bytes, the scheduler and the sessions as they are. -/
theorem State.snapMeets_same (s : State) (snap : Snap) (a n : Nat) : SameS s (s.snapMeets snap a n).2 := State.meet_same s a n snap.csn

/-- Whether a unit is poisoned does not depend on the program in force. -/
theorem State.snapMeets_under (s : State) (st : Nat) (snap : Snap) (a n : Nat) : ((s.under st).snapMeets snap a n).1 = (s.snapMeets snap a n).1 := rfl

section
variable {s : State} {d : HostDesc} {c st : Nat} {snap : Snap} (hs : Served s d c st snap)
include hs

/-- It is served at once. -/
theorem Served.readStart (n q : Nat) (raw : Bool) : s.readStart n q d raw = s.serveRead n q d c raw := by
  unfold State.readStart
  rw [hs.csn]
  exact if_pos (by rw [hs.ready, Bool.or_true])

/-- A list of tags: their entries, and the status of the first at fault. -/
theorem Served.readStart_tags (n q : Nat) {bs : List Byte} {e i : Nat} {u : State}
    (ht : (s.under st).readTags snap 0 (chop 4 (d.data.length / 4) d.data) = ((bs, e, i), u)) :
    s.readStart n q d false = (u.under s.actStore).complete n q d e c i (if s.volatile c then 2 else 0) bs := by
  rw [hs.readStart]
  unfold State.serveRead
  rw [hs.notVoid, hs.store, hs.snap]
  dsimp only
  rw [ht]
  rfl

/-- One object: the bytes, where the range lies in it, the access is permitted and no unit is poisoned. -/
theorem Served.readStart_raw (n q : Nat) {w0 w1 : Nat} {u : State} (htag : leNat (d.data.take 4) < 2 ^ 24)
    (he : (s.under st).hostEntry (leNat (d.data.take 4)) = (.ok (w0, w1), u)) {off len a : Nat} (hoff : leNat ((d.data.drop 4).take 4) = off)
    (hlen : leNat ((d.data.drop 8).take 4) = len) (ha : u.opAddr (u.imageTask (bits w1 0 19)) w0 w1 + off = a)
    (hin : off + len ≤ max (teSize w0) (if teSignal w0 then 8 else 0)) (hacc : u.engineRefuses false 0x201 .rd a len = none)
    (hp : (u.snapMeets snap a len).1 = false) :
    s.readStart n q d true = ((u.under s.actStore).snapMeets snap a len).2.complete n q d 0 c 0 (if s.volatile c then 2 else 0) (memRdL snap.mem a len) := by
  rw [hs.readStart]
  unfold State.serveRead
  rw [hs.notVoid, hs.store, hs.snap]
  dsimp only
  rw [if_neg (by omega : ¬leNat (d.data.take 4) / 2 ^ 24 ≠ 0), he, hoff, hlen]
  dsimp only
  rw [ha, hacc, if_neg (by omega : ¬off + len > max (teSize w0) (if teSignal w0 then 8 else 0)), State.snapMeets_under, hp]
  rfl

end

section
variable {s : State} {sess : SessNo} {qp : QpNo} {x : Sess} {y : Qp} {d : HostDesc} {rest : List HostDesc} (h : AtHead s sess qp x y d rest)
include h

/-- Taking a descriptor leaves what can be served. -/
theorem AtHead.took_served {c st : Nat} {snap : Snap} (hs : Served s d c st snap) : Served (s.took sess qp rest) d c st snap := by
  obtain ⟨l, e⟩ := h.took_frame
  rw [e]
  exact ⟨hs.csn, hs.notVoid, hs.ready, hs.store, hs.snap⟩

/-- And which CSNs are volatile. -/
theorem AtHead.took_volatile (c : Nat) : (s.took sess qp rest).volatile c = s.volatile c := by
  obtain ⟨l, e⟩ := h.took_frame
  rw [e]
  rfl

/-- A command that starts a descriptor whose meaning reads, and then completes it: no byte of the Square changes. -/
theorem AtHead.gives_read {c : Instr} {mine : HostDesc → Bool} {f : Sess → HostDesc → State → State} (hc : exec c s = .next (s.startDesc sess qp mine f))
    (hm : mine d = true) {u : State} (hu : SameS (s.took sess qp rest) u) {status csn detail flags : Nat} {data : List Byte} (hd : d.ok2 = true)
    (hf : f x d (s.took sess qp rest) = u.complete sess.val qp.val d status csn detail flags data) :
    Gives c s fun t => Answered t sess qp y.comps (answerOf d status csn detail flags data) ∧ SameBytes s t := by
  obtain ⟨x1, a⟩ := h.takes
  have hsess : u.sess? sess.val = some x1 := by unfold State.sess?; rw [hu.host]; exact a.sess
  obtain ⟨t, et, frame, ans⟩ := h.gives hc hm hf (.inr hd) hsess a.queue
  obtain ⟨l, e⟩ := h.took_frame
  refine ⟨t, et, ans, SameBytes.of_eq ?_ ?_⟩
  · rw [frame]; exact hu.mem.trans (by rw [e])
  · rw [frame]; exact hu.code.trans (by rw [e])

/-- READ_AT of a list of tags with room for their entries. -/
theorem AtHead.readAt {c st : Nat} {snap : Snap} (ho : dOp d = 1) (hop : dOpt d % 2 = 0) (h4 : dLen1 d % 4 = 0) (h0 : dLen1 d ≠ 0) (hl : dLen1 d ≤ 262144)
    (hr : dLen1 d * 4 ≤ dLen2 d) (hd : d.ok2 = true) (hs : Served s d c st snap) :
    Gives (.readAt sess qp) s fun t => ∃ bs e i u, ((s.took sess qp rest).under st).readTags snap 0 (chop 4 (d.data.length / 4) d.data) = ((bs, e, i), u) ∧
      Answered t sess qp y.comps (answerOf d e c i (if s.volatile c then 2 else 0) bs) ∧ SameBytes s t := by
  obtain ⟨⟨⟨bs, e, i⟩, u⟩, ht⟩ : ∃ p, ((s.took sess qp rest).under st).readTags snap 0 (chop 4 (d.data.length / 4) d.data) = p := ⟨_, rfl⟩
  have same := State.readTags_same snap (chop 4 (d.data.length / 4) d.data) ((s.took sess qp rest).under st) 0
  rw [ht] at same
  have whole : SameS (s.took sess qp rest) (u.under (s.took sess qp rest).actStore) := ((State.under_same _ st).trans same).trans (State.under_same _ _)
  obtain ⟨t, et, r⟩ := h.gives_read (c := .readAt sess qp) rfl (by simp [ho, hop]) whole hd
    (by
      dsimp only
      rw [if_neg (by simp [h4, h0]; omega), if_neg (by omega)]
      exact (h.took_served hs).readStart_tags sess.val qp.val ht)
  rw [h.took_volatile] at r
  exact ⟨t, et, bs, e, i, u, ht, r⟩

/-- READ_AT of the bytes of one object; an input signal is read in the image of the lowest-numbered task that maps it (log entry 13). -/
theorem AtHead.readAtRaw {c st w0 w1 off len a : Nat} {snap : Snap} {u : State} (ho : dOp d = 1) (hop : dOpt d % 2 = 1) (h12 : dLen1 d = 12) (hd : d.ok2 = true)
    (hs : Served s d c st snap) (hoff : leNat ((d.data.drop 4).take 4) = off) (hlen : leNat ((d.data.drop 8).take 4) = len)
    (htag : leNat (d.data.take 4) < 2 ^ 24) (hl : len ≤ 2 ^ 20) (hr : len ≤ dLen2 d)
    (he : ((s.took sess qp rest).under st).hostEntry (leNat (d.data.take 4)) = (.ok (w0, w1), u)) (ha : u.opAddr (u.imageTask (bits w1 0 19)) w0 w1 + off = a)
    (hin : off + len ≤ max (teSize w0) (if teSignal w0 then 8 else 0)) (hacc : u.engineRefuses false 0x201 .rd a len = none)
    (hp : (u.snapMeets snap a len).1 = false) :
    Gives (.readAtRaw sess qp) s fun t => Answered t sess qp y.comps (answerOf d 0 c 0 (if s.volatile c then 2 else 0) (memRdL snap.mem a len)) ∧ SameBytes s t := by
  have same := State.hostTranslate_same ((s.took sess qp rest).under st) (leNat (d.data.take 4))
  rw [show ((s.took sess qp rest).under st).hostTranslate (leNat (d.data.take 4)) = (.ok (w0, w1), u) from he] at same
  have whole : SameS (s.took sess qp rest) ((u.under (s.took sess qp rest).actStore).snapMeets snap a len).2 :=
    (((State.under_same _ st).trans same).trans (State.under_same _ _)).trans (State.snapMeets_same _ snap a len)
  rw [← h.took_volatile]
  refine h.gives_read (c := .readAtRaw sess qp) rfl (by simp [ho, hop]) whole hd ?_
  dsimp only
  rw [hlen, if_neg (not_not.mpr h12), if_neg (by omega), if_neg (by omega)]
  exact (h.took_served hs).readStart_raw sess.val qp.val htag he hoff hlen ha hin hacc hp

end

/-- Settles O40: each request, at the head of its queue pair, completes at once with what its rule reads of the state, and what READ_AT meets on its way
leaves the Square's bytes. -/
theorem hostReads : Obligations.HostReads := by
  unfold Obligations.HostReads
  intro s sess qp x y d rest h hd Reply inRange Records
  refine ⟨h.hostNop, fun ho hl => h.hostTime ho hl hd, fun ho hn hl => h.attest ho hn hl hd, fun ho hop => ?_,
    fun ho hop hl => h.historyReadDelta ho hop hl hd, fun ho => h.eventRead ho hd,
    fun c st snap ho hop h4 h0 hl hr hc hv hy hst hsn => h.readAt ho hop h4 h0 hl hr hd ⟨hc, hv, hy, hst, hsn⟩,
    fun c st snap w0 w1 u ho hop h12 hc hv hy hst hsn htag hl hr he hin hacc hp =>
      h.readAtRaw ho hop h12 hd ⟨hc, hv, hy, hst, hsn⟩ rfl rfl htag hl hr he rfl hin hacc hp,
    h.hostLatency, h.sessionClose⟩
  have all : recordsOf d (fun _ => true) s.arc.cyc = s.arc.cyc.filter inRange := List.filter_eq_self.mpr fun _ _ => rfl
  have r := h.historyRead ho hop hd
  rw [all] at r
  exact r

end Sys2Proof.Machine
end

section
/-! PROOFS. Stations, peer controllers and the links of the plant and of the pair (02, R42; 08, R196; 09, R244; 11, R286 to R298, R311, R312). -/
namespace Sys2Proof.Machine

/-- What needs a main domain goes on outside state K. -/
theorem State.powered_on {s : State} (hp : s.kerb.phase ≠ .off) (f : State → State) : s.powered f = f s := if_neg hp

/-- A field that stands elsewhere than some instances of fields is none of them. -/
theorem key_ne_of_apart {l : List (Fld × Nat)} {g : Fld} {ix : Nat} (hix : ix < 65536) (hl : ∀ x ∈ l, x.2 < 65536)
    (h : ∀ f ∈ l.map Prod.fst, g.off * 32 + g.lo ≠ f.off * 32 + f.lo) : ∀ x ∈ l, g.key ix ≠ x.1.key x.2 := fun x hx =>
  key_ne_of_place hix (hl x hx) (h x.1 (List.mem_map_of_mem hx))

/-! ### INPUT (R289, R294, R295; Table 11-4) -/

/-- The report of an HE not above the own one touches the pair's account alone. -/
theorem State.heReport_own {s : State} {f : Fsp} (he : f.epoch ≤ s.epoch) : ∃ p, s.heReport f = { s with pair := p } := by
  unfold State.heReport
  cases s.witnessId f.sta with
  | none => exact ⟨s.pair, if_neg (Nat.not_lt.mpr he)⟩
  | some w =>
    dsimp only
    split
    · exact ⟨{ s.pair with assent := tabSet s.pair.assent w s.now }, if_neg (Nat.not_lt.mpr he)⟩
    · exact ⟨s.pair, if_neg (Nat.not_lt.mpr he)⟩

/-- MODE and NOTSYNC of an INPUT frame shown for a station, with a report where it has lost its time (R295). -/
def State.staShown (s : State) (n : Nat) (f : Fsp) : State :=
  let s := if bitOf f.flags 1 && !s.flag PNE_STASTAT_NOTSYNC n then s.report 0x0005 (b2n (bitOf f.flags 2)) s.now 1 n else s
  (s.setB PNE_STASTAT_NOTSYNC (bitOf f.flags 1) n).setF PNE_STASTAT_MODE (f.cycle % 256) n

/-- The account of a station after a frame: its flag DROPPED, its arrival and its instant. -/
def StaRt.heard (f : Fsp) (now : Nat) (x : StaRt) : StaRt := { x with flagDropped := bitOf f.flags 3, arrived := now, instant := extendStamp f.stamp now }

/-- A station after a frame that was taken, its values aside. -/
def State.staHeard (s : State) (d : StationDef) (f : Fsp) : State :=
  let s := (s.staShown d.no.val f).staInput d (f.cycle % 256) (bitOf f.flags 3)
  s.modSta d.no.val (StaRt.heard f s.now)

/-- A frame as long as the station's signals need. -/
abbrev State.fits (s : State) (d : StationDef) (f : Fsp) : Prop :=
  f.data.length = sigBytes (s.stationSigs d.no.val false) + (s.stationSigs d.no.val false).length

section
variable {s u : State} {link : Fin 104} {frame : List Byte} {f : Fsp}

/-- INPUT of a station that is not configured: only its HE counts. -/
theorem execStationInput_unknown (hf : s.fspTake link 0x02 frame = (some f, u)) (he : f.epoch ≤ u.epoch) (hd : u.station? f.sta = none) :
    Gives (.stationInput link frame) s fun t => t = { u with pair := t.pair } := by
  obtain ⟨p, ep⟩ := State.heReport_own he
  have hexec : exec (.stationInput link frame) s = .next { u with pair := p } := by
    show execStationInput link frame s = _
    unfold execStationInput done
    rw [hf]
    dsimp only
    rw [ep, show ({ u with pair := p } : State).station? f.sta = none from hd]
  exact ⟨_, hexec, rfl⟩

/-- INPUT of another length is discarded and counted. -/
theorem execStationInput_misfit {d : StationDef} (hf : s.fspTake link 0x02 frame = (some f, u)) (h : u.RegsOk) (he : f.epoch ≤ u.epoch) (hd : u.station? f.sta = some d)
    (hs : bitOf f.flags 0 = false) (hl : ¬ u.fits d f) : Gives (.stationInput link frame) s fun t =>
      t.getF PNE_PORTSTAT_DISCCNT link.val = sat PNE_PORTSTAT_DISCCNT.w (u.getF PNE_PORTSTAT_DISCCNT link.val + 1) ∧ t = { u with pair := t.pair, regs := t.regs } := by
  obtain ⟨p, ep⟩ := State.heReport_own he
  have hexec : exec (.stationInput link frame) s = .next (State.bump { u with pair := p } PNE_PORTSTAT_DISCCNT link.val) := by
    show execStationInput link frame s = _
    unfold execStationInput done
    rw [hf]
    dsimp only
    rw [ep, show ({ u with pair := p } : State).station? f.sta = some d from hd]
    dsimp only
    rw [hs]
    exact congrArg Host.Outcome.next (if_pos (decide_eq_true hl))
  exact ⟨_, hexec, getF_bump_sat (s := { u with pair := p }) h _ _ _, rfl⟩

/-- INPUT that is taken: the station has been heard, and its values are captured from unless the frame is marked safe. -/
theorem execStationInput_taken {d : StationDef} (hf : s.fspTake link 0x02 frame = (some f, u)) (he : f.epoch ≤ u.epoch) (hd : u.station? f.sta = some d)
    (hl : bitOf f.flags 0 = true ∨ u.fits d f) : ∃ p, exec (.stationInput link frame) s = .next (
      let v := State.staHeard { u with pair := p } d f
      if bitOf f.flags 0 then v else v.staValues d.no.val f.data) := by
  obtain ⟨p, ep⟩ := State.heReport_own he
  refine ⟨p, ?_⟩
  show execStationInput link frame s = _
  unfold execStationInput done
  rw [hf]
  dsimp only
  rw [ep, show ({ u with pair := p } : State).station? f.sta = some d from hd]
  refine congrArg Host.Outcome.next (if_neg ?_)
  rcases hl with hl | hl
  · simp [hl]
  · simp only [Bool.and_eq_true, decide_eq_true_eq, not_and_not_right]
    exact fun _ => hl

end

/-- What is shown of a frame. -/
theorem State.staShown_does {s : State} (h : s.RegsOk) {n : Nat} (hn : n < 65536) (f : Fsp) :
    (s.staShown n f).getF PNE_STASTAT_MODE n = f.cycle % 256 ∧ (s.staShown n f).flag PNE_STASTAT_NOTSYNC n = bitOf f.flags 1 ∧
    Chg s (s.staShown n f) ([(PNE_STASTAT_MODE, n), (PNE_STASTAT_NOTSYNC, n)] ++ reportFields) ∧
    ∃ r m q sc w, s.staShown n f = { s with regs := r, sq := { s.sq with mem := m, poison := q }, sched := sc, wins := w } := by
  have reported : ∃ v, (if bitOf f.flags 1 && !s.flag PNE_STASTAT_NOTSYNC n then s.report 0x0005 (b2n (bitOf f.flags 2)) s.now 1 n else s) = v ∧ Chg s v reportFields ∧
      ∃ r m q sc w, v = { s with regs := r, sq := { s.sq with mem := m, poison := q }, sched := sc, wins := w } := by
    refine ⟨_, rfl, ?_⟩
    split
    · obtain ⟨c, r, m, q, sc, w, e, -⟩ := State.report_does h 0x0005 (b2n (bitOf f.flags 2)) s.now 1 n
      exact ⟨c, r, m, q, sc, w, e⟩
    · exact ⟨(Chg.refl h).mono (by simp), s.regs, s.sq.mem, s.sq.poison, s.sched, s.wins, rfl⟩
  obtain ⟨v, ev, c, r, m, q, sc, w, e⟩ := reported
  unfold State.staShown
  rw [ev]
  have c1 := c.setB PNE_STASTAT_NOTSYNC (bitOf f.flags 1) n
  have c2 := c1.setF PNE_STASTAT_MODE (f.cycle % 256) n
  refine ⟨getF_setF_fits c1.ok _ (Nat.mod_lt _ (by decide)), ?_, c2, _, m, q, sc, w, by rw [e]; rfl⟩
  rw [flag_setF_ne c1.ok (key_ne_of_place hn hn (by decide))]
  exact flag_setB_self c.ok _ rfl

/-- The state a station takes is told by its STATE, its watchdog, the clock and its account. -/
theorem staNext_congr {s t : State} {n : Nat} (hs : t.getF PNE_STASTAT_STATE n = s.getF PNE_STASTAT_STATE n) (hw : t.getF PNE_STAWDT_IWDT n = s.getF PNE_STAWDT_IWDT n)
    (hn : t.now = s.now) (hp : t.plant = s.plant) (mode : Nat) : staNext t n mode = staNext s n mode := by
  unfold staNext State.staRt
  rw [hs, hw, hn, hp]

/-- What Table 11-4 and R295 ask of a station that was heard: its STATE, MODE and NOTSYNC, and its account. -/
structure Heard (s : State) (n : Nat) (f : Fsp) (t : State) : Prop where
  state : t.getF PNE_STASTAT_STATE n = staNext s n (f.cycle % 256)
  mode : t.getF PNE_STASTAT_MODE n = f.cycle % 256
  notsync : t.flag PNE_STASTAT_NOTSYNC n = bitOf f.flags 1
  dropped : (t.staRt n).flagDropped = bitOf f.flags 3
  arrived : (t.staRt n).arrived = s.now
  instant : (t.staRt n).instant = extendStamp f.stamp s.now

/-- A station that was heard shows it. -/
theorem State.staHeard_does {s : State} (h : s.RegsOk) (d : StationDef) (f : Fsp) : Heard s d.no.val f (s.staHeard d f) ∧ (s.staHeard d f).RegsOk := by
  have hn : d.no.val < 65536 := by omega
  unfold State.staHeard
  obtain ⟨hmode, hsync, c, r, m, q, sc, w, e⟩ := State.staShown_does h hn f
  have hnow : (s.staShown d.no.val f).now = s.now := by rw [e]
  have hplant : (s.staShown d.no.val f).plant = s.plant := by rw [e]
  generalize s.staShown d.no.val f = v at *
  obtain ⟨hstate, k, r', o, a, pl, e'⟩ := State.staInput_does c.ok d (f.cycle % 256) (bitOf f.flags 3)
  have hnow' : (v.staInput d (f.cycle % 256) (bitOf f.flags 3)).now = s.now := (congrArg State.now e').trans hnow
  generalize v.staInput d (f.cycle % 256) (bitOf f.flags 3) = x at *
  have hacc := State.staRt_modSta x d.no.val (StaRt.heard f x.now)
  have apart : ∀ g : Fld, (∀ i ∈ [PNE_STASTAT_MODE, PNE_STASTAT_NOTSYNC, SCH_COALSTAT_OPEN, SCH_COALSTAT_OVFCNT], g.off * 32 + g.lo ≠ i.off * 32 + i.lo) →
      v.getF g d.no.val = s.getF g d.no.val := fun g hg => c.only g _ (key_ne_of_apart hn (by simp [reportFields, hn]) hg)
  have kept : ∀ g : Fld, (∀ i ∈ [PNE_STASTAT_STATE, PNE_STASTAT_DROPCNT], g.off * 32 + g.lo ≠ i.off * 32 + i.lo) → x.getF g d.no.val = v.getF g d.no.val := fun g hg =>
    k.only g _ (key_ne_of_places (l := [PNE_STASTAT_STATE, PNE_STASTAT_DROPCNT]) hn hg)
  refine ⟨⟨?_, (kept _ (by decide)).trans hmode, ?_, ?_, ?_, ?_⟩, k.ok⟩
  · exact hstate.trans (staNext_congr (apart _ (by decide)) (apart _ (by decide)) hnow hplant _)
  · rw [← hsync]
    exact State.flag_of_getF (kept _ (by decide))
  · rw [hacc]; rfl
  · rw [hacc, ← hnow']; rfl
  · rw [hacc, ← hnow']; rfl

/-- Taking the values of a frame leaves what it shows of its station. -/
theorem Heard.values {s t : State} {n : Nat} {f : Fsp} (h : Heard s n f t) (ht : t.RegsOk) (hn : n < 65536) (bs : List Byte) : Heard s n f (t.staValues n bs) := by
  obtain ⟨c, r, i, q, e⟩ := State.staValues_does ht n bs
  have kept : ∀ g : Fld, (∀ x ∈ latchFields, g.off * 32 + g.lo ≠ x.1.off * 32 + x.1.lo) → (t.staValues n bs).getF g n = t.getF g n := fun g hg =>
    c.only g n fun x hx => key_ne_of_place hn ((by decide : ∀ x ∈ latchFields, x.2 < 65536) x hx) (hg x hx)
  have hacc : (t.staValues n bs).staRt n = t.staRt n := by
    rw [e]
    rfl
  exact ⟨(kept _ (by decide)).trans h.state, (kept _ (by decide)).trans h.mode, (State.flag_of_getF (kept _ (by decide))).trans h.notsync, hacc ▸ h.dropped, hacc ▸ h.arrived, hacc ▸ h.instant⟩

/-- INPUT that is taken leaves its station heard. -/
theorem execStationInput_heard {s u : State} {link : Fin 104} {frame : List Byte} {f : Fsp} {d : StationDef} (hf : s.fspTake link 0x02 frame = (some f, u)) (h : u.RegsOk)
    (he : f.epoch ≤ u.epoch) (hd : u.station? f.sta = some d) (hl : bitOf f.flags 0 = true ∨ u.fits d f) : Gives (.stationInput link frame) s (Heard u d.no.val f) := by
  obtain ⟨p, e⟩ := execStationInput_taken hf he hd hl
  obtain ⟨heard, ok⟩ := State.staHeard_does (s := { u with pair := p }) h d f
  have heard' : Heard u d.no.val f (State.staHeard { u with pair := p } d f) := ⟨heard.state, heard.mode, heard.notsync, heard.dropped, heard.arrived, heard.instant⟩
  refine ⟨_, e, ?_⟩
  dsimp only
  split
  · exact heard'
  · exact heard'.values ok (by omega) _

/-! ### EVENT (R42, R289) -/

/-- From `s` to `t` the commands `l` have been taken into the running base tick. -/
def Asked (s t : State) (l : List TickCmd) : Prop := ∃ q, t = { s with sched := { s.sched with batch := s.sched.batch ++ l, seq := q } }

/-- One after another. -/
theorem Asked.trans {s t u : State} {l m : List TickCmd} (h : Asked s t l) (k : Asked t u m) : Asked s u (l ++ m) := by
  obtain ⟨q, rfl⟩ := h
  obtain ⟨r, rfl⟩ := k
  exact ⟨r, by rw [List.append_assoc]⟩

/-- Steps that each ask for what is wanted of them: then all of it has been asked for. -/
theorem Asked.foldl {α : Type} {f : State → α → State} {s : State} {W : α → List TickCmd → Prop} (mono : ∀ a l m, l ⊆ m → W a l → W a m)
    (hf : ∀ t l a, Asked s t l → ∃ m, Asked t (f t a) m ∧ W a m) (as : List α) : ∃ l, Asked s (as.foldl f s) l ∧ ∀ a ∈ as, W a l := by
  induction as using List.reverseRecOn with
  | nil => exact ⟨[], ⟨s.sched.seq, by rw [List.append_nil]; rfl⟩, by simp⟩
  | append_singleton as a ih =>
    obtain ⟨l, hl, hw⟩ := ih
    obtain ⟨m, hm, ha⟩ := hf _ l a hl
    rw [List.foldl_append]
    refine ⟨l ++ m, hl.trans hm, fun b hb => ?_⟩
    rcases List.mem_append.mp hb with hb | hb
    · exact mono b l _ (List.subset_append_left l m) (hw b hb)
    · rw [List.mem_singleton.mp hb]
      exact mono a m _ (List.subset_append_right l m) ha

/-- An event task that names the trigger is asked for in `l`, with the stamp. -/
def EventAsked (s : State) (T : Trigger) (stamp : Nat) (d : TaskDef) (l : List TickCmd) : Prop :=
  d.triggers.contains T = true → s.kind d.no.val = 1 → ∃ q, ⟨d.no.val, stamp, q, .activate, none⟩ ∈ l

/-- It is in a longer list too. -/
theorem EventAsked.mono {s : State} {T : Trigger} {stamp : Nat} {d : TaskDef} {l m : List TickCmd} (hl : l ⊆ m) (h : EventAsked s T stamp d l) : EventAsked s T stamp d m :=
  fun ht hk => (h ht hk).imp fun _ hq => hl hq

/-- A trigger asks for every event task that names it, with its stamp. -/
theorem State.trigger_asked (s : State) (T : Trigger) (stamp : Nat) : ∃ l, Asked s (s.trigger T stamp) l ∧ ∀ d ∈ s.cfg.tasks, EventAsked s T stamp d l := by
  refine Asked.foldl (fun _ _ _ hl h => h.mono hl) (fun t l d ht => ?_) s.cfg.tasks
  obtain ⟨q, rfl⟩ := ht
  split
  · exact ⟨_, ⟨_, rfl⟩, fun _ _ => ⟨_, List.mem_singleton.mpr rfl⟩⟩
  · next hn =>
    refine ⟨[], ⟨q, by rw [List.append_nil]⟩, fun ht hk => absurd ?_ hn⟩
    rw [ht, Bool.true_and]
    exact decide_eq_true hk

/-- An entry of an EVENT frame activates the event tasks of its channel. -/
def State.eventEntry (s : State) (f : Fsp) (i : Nat) : State :=
  let e := leNat ((f.data.drop (8 * i)).take 8)
  s.trigger (.station (Fin.ofNat 4096 f.sta) (bits e 0 17)) (extendStamp (bits e 32 32) s.now)

/-- It does so from any state that earlier entries lead to. -/
theorem State.eventEntry_asked (s : State) (f : Fsp) (t : State) (l : List TickCmd) (i : Nat) (ht : Asked s t l) : ∃ m, Asked t (t.eventEntry f i) m ∧
    ∀ d ∈ s.cfg.tasks, EventAsked s (.station (Fin.ofNat 4096 f.sta) (bits (leNat ((f.data.drop (8 * i)).take 8)) 0 17))
      (extendStamp (bits (leNat ((f.data.drop (8 * i)).take 8)) 32 32) s.now) d m := by
  obtain ⟨q, rfl⟩ := ht
  exact State.trigger_asked _ _ _

/-- EVENT asks for the event tasks of its channels, each with the extended stamp of its entry. -/
theorem execStationEvent_asks {s u : State} {link : Fin 104} {frame : List Byte} {f : Fsp} (hf : s.fspTake link 0x03 frame = (some f, u)) :
    Gives (.stationEvent link frame) s fun t => t = { u with sched := { u.sched with batch := t.sched.batch, seq := t.sched.seq } } ∧
      ∀ i, i < f.data.length / 8 → let e := leNat ((f.data.drop (8 * i)).take 8)
        ∀ d ∈ u.cfg.tasks, d.triggers.contains (.station (Fin.ofNat 4096 f.sta) (bits e 0 17)) = true → u.kind d.no.val = 1 →
          ∃ q, ⟨d.no.val, extendStamp (bits e 32 32) u.now, q, .activate, none⟩ ∈ t.sched.batch := by
  have hexec : exec (.stationEvent link frame) s = .next ((List.range (f.data.length / 8)).foldl (fun s i => s.eventEntry f i) u) := by
    show execStationEvent link frame s = _
    unfold execStationEvent done
    rw [hf]
    rfl
  obtain ⟨l, ⟨q, e⟩, hl⟩ := Asked.foldl (fun _ _ _ hl h d hd => (h d hd).mono hl) (u.eventEntry_asked f) (List.range (f.data.length / 8))
  rw [e] at hexec
  refine ⟨_, hexec, rfl, fun i hi d hd ht hk => ?_⟩
  obtain ⟨q, hq⟩ := hl i (List.mem_range.mpr hi) d hd ht hk
  exact ⟨q, List.mem_append_right _ hq⟩

/-! ### The configuration of a station (R294) -/

section
variable {s u : State} {link : Fin 104} {frame : List Byte} {f : Fsp} {d : StationDef}

/-- What CONFACK makes of a station that waits for one: REFUSED on an error or a third wrong digest, OPERATE on the right one. -/
def State.confirm (s : State) (n : Nat) (f : Fsp) (digest : Nat) : State :=
  if (f.data.getD 32 0).toNat ≠ 0 then s.setF PNE_STASTAT_STATE 5 n
  else if leNat (f.data.take 32) = digest then s.setF PNE_STASTAT_STATE 2 n
  else if (s.staRt n).tries ≥ 3 then s.setF PNE_STASTAT_STATE 5 n
  else s

/-- CONFACK of a station of the configuration. -/
theorem execConfack_known (hf : s.fspTake link 0x0C frame = (some f, u)) (hd : u.station? f.sta = some d) :
    exec (.confack link frame) s = .next (if u.getF PNE_STASTAT_STATE d.no.val ≠ 1 then u else u.confirm d.no.val f d.digest) := by
  show execConfack link frame s = _
  unfold execConfack done
  rw [hf]
  dsimp only
  rw [hd]
  rfl

/-- The outcome for a station that waits. -/
theorem State.confirm_does (h : s.RegsOk) {n : Nat} (h1 : s.getF PNE_STASTAT_STATE n = 1) (f : Fsp) (digest : Nat) {t : State} (ht : t = s.confirm n f digest) :
    ((f.data.getD 32 0).toNat ≠ 0 → t.getF PNE_STASTAT_STATE n = 5) ∧
    ((f.data.getD 32 0).toNat = 0 → leNat (f.data.take 32) = digest → t.getF PNE_STASTAT_STATE n = 2) ∧
    ((f.data.getD 32 0).toNat = 0 → leNat (f.data.take 32) ≠ digest → t.getF PNE_STASTAT_STATE n = if 3 ≤ (s.staRt n).tries then 5 else 1) ∧
    t = { s with regs := t.regs } ∧ OnlyRegs s t [(PNE_STASTAT_STATE, n)] := by
  have put : ∀ v, v < 8 → (s.setF PNE_STASTAT_STATE v n).getF PNE_STASTAT_STATE n = v := fun v hv => getF_setF_fits h _ hv
  have only : ∀ v, OnlyRegs s (s.setF PNE_STASTAT_STATE v n) [(PNE_STASTAT_STATE, n)] := fun v => ((Chg.refl h).setF _ _ _).only
  unfold State.confirm at ht
  split at ht
  · next he =>
    rw [ht]
    exact ⟨fun _ => put 5 (by decide), fun e => absurd e he, fun e => absurd e he, rfl, only 5⟩
  · next he =>
    split at ht
    · next hg =>
      rw [ht]
      exact ⟨fun e => absurd e he, fun _ _ => put 2 (by decide), fun _ e => absurd hg e, rfl, only 2⟩
    · next hg =>
      split at ht
      · next h3 =>
        rw [ht]
        exact ⟨fun e => absurd e he, fun _ e => absurd e hg, fun _ _ => (put 5 (by decide)).trans (if_pos h3).symm, rfl, only 5⟩
      · next h3 =>
        rw [ht]
        exact ⟨fun e => absurd e he, fun _ e => absurd e hg, fun _ _ => h1.trans (if_neg h3).symm, rfl, fun _ _ _ => rfl⟩

/-- A frame that may be sent leaves: beside it, only the number of its TYPE changes. -/
theorem State.fspSend_leaves {ch : OutCh} {ty link sta stamp cy : Nat} {sf : Bool} {d : List Byte} (hp : s.kerb.phase ≠ .off)
    (hk : s.flag PNE_CTL_KERBSTOP = true → ty ≠ 1 ∧ ty ≠ 5 ∧ ty ≠ 0x10) (hg : s.flag PNE_PORTSTAT_GCLERR link = false) :
    ∃ q o, s.fspSend ch ty link sta stamp cy sf d = { s with plant := { s.plant with fspSeq := q }, out := s.out ++ [⟨ch, ty, [link, sta], o⟩] } := by
  obtain ⟨o, pl, e, hpl⟩ := State.fspSend_does (ch := ch) (ty := ty) (sta := sta) (stamp := stamp) (cy := cy) (sf := sf) (d := d) hp hk hg
  exact ⟨pl.fspSeq, o, e.trans (by rw [← hpl])⟩

/-- Sending the CONFIG frame on a link that sends: the attempt counts, and the frame leaves. -/
theorem State.sendConfig_sent (d : StationDef) (hp : s.kerb.phase ≠ .off) (hg : s.flag PNE_PORTSTAT_GCLERR d.link.val = false) :
    ((s.sendConfig d).staRt d.no.val).tries = (s.staRt d.no.val).tries + 1 ∧ ∃ o, (s.sendConfig d).out = s.out ++ [⟨.station, 0x0B, [d.link.val, d.no.val], o⟩] := by
  obtain ⟨q, o, e⟩ := State.fspSend_leaves (s := s.modSta d.no.val (fun x => { x with tries := x.tries + 1 })) (ch := .station) (ty := 0x0B) (link := d.link.val)
    (sta := d.no.val) (stamp := s.stamp32) (cy := 0) (sf := false) (d := d.record ++ natLe 4 (crc32c d.record)) hp (fun _ => by decide) hg
  unfold State.sendConfig
  rw [e]
  exact ⟨congrArg StaRt.tries (State.staRt_modSta s d.no.val (fun x => { x with tries := x.tries + 1 })), o, rfl⟩

/-- CONFIG_RETRY for a station that is not confirmed: again, up to the third attempt. -/
theorem execConfigRetry_waiting (sta : StationNo) (hp : s.kerb.phase ≠ .off) (hd : s.station? sta.val = some d) (h1 : s.getF PNE_STASTAT_STATE sta.val = 1) :
    exec (.configRetry sta) s = .next (if (s.staRt sta.val).tries < 3 then s.sendConfig d else s) := by
  show execConfigRetry sta s = _
  unfold execConfigRetry done
  rw [State.powered_on hp, hd]
  simp [h1]

/-! ### The input watchdog (R293, R295, R311) -/

/-- A station whose watchdog expired in OPERATE: its drop-out counted, unless its flag was counted in this base tick, and DROPPED shown. -/
def State.staDropped (s : State) (n : Nat) : State :=
  let s := if (s.staRt n).flagAt = some s.now then s else s.bump PNE_STASTAT_DROPCNT n
  (s.setF PNE_STASTAT_STATE 3 n).modSta n (fun x => { x with onTime := 0 })

/-- What it then shows. -/
theorem State.staDropped_does (h : s.RegsOk) {n : Nat} (hn : n < 65536) : (s.staDropped n).RegsOk ∧ (s.staDropped n).getF PNE_STASTAT_STATE n = 3 ∧
    ((s.staDropped n).staRt n).onTime = 0 ∧ (s.staDropped n).getF PNE_STASTAT_DROPCNT n =
      if (s.staRt n).flagAt = some s.now then s.getF PNE_STASTAT_DROPCNT n else sat PNE_STASTAT_DROPCNT.w (s.getF PNE_STASTAT_DROPCNT n + 1) := by
  have counted : ∃ v, (if (s.staRt n).flagAt = some s.now then s else s.bump PNE_STASTAT_DROPCNT n) = v ∧ v.RegsOk ∧ v.getF PNE_STASTAT_DROPCNT n =
      if (s.staRt n).flagAt = some s.now then s.getF PNE_STASTAT_DROPCNT n else sat PNE_STASTAT_DROPCNT.w (s.getF PNE_STASTAT_DROPCNT n + 1) := by
    refine ⟨_, rfl, ?_⟩
    split
    · exact ⟨h, rfl⟩
    · exact ⟨((Chg.refl h).bump _ _ _).ok, getF_bump_sat h _ _ _⟩
  obtain ⟨v, ev, ok, hv⟩ := counted
  have c := ((Chg.refl ok).setF PNE_STASTAT_STATE 3 n).same (u := (v.setF PNE_STASTAT_STATE 3 n).modSta n (fun x => { x with onTime := 0 })) rfl
  unfold State.staDropped
  rw [ev]
  exact ⟨c.ok, getF_setF_fits ok PNE_STASTAT_STATE (v := 3) (ix := n) (by decide), congrArg StaRt.onTime (State.staRt_modSta (v.setF PNE_STASTAT_STATE 3 n) n _),
    (c.only _ _ (key_ne_of_places (l := [PNE_STASTAT_STATE]) hn (by decide))).trans hv⟩

/-- A report leaves the registers and the account of a station. -/
theorem State.report_station (h : s.RegsOk) (kind obj stamp rk rn : Nat) {n : Nat} (hn : n < 65536) :
    (∀ g ∈ [PNE_STASTAT_STATE, PNE_STASTAT_DROPCNT], (s.report kind obj stamp rk rn).getF g n = s.getF g n) ∧ (s.report kind obj stamp rk rn).plant = s.plant := by
  obtain ⟨c, r, m, q, sc, w, e, -⟩ := State.report_does h kind obj stamp rk rn
  refine ⟨fun g hg => c.only g n fun x hx => ?_, by rw [e]⟩
  have apart : ∀ g ∈ [PNE_STASTAT_STATE, PNE_STASTAT_DROPCNT], ∀ x ∈ reportFields, x.2 < 65536 ∧ g.off * 32 + g.lo ≠ x.1.off * 32 + x.1.lo := by decide
  obtain ⟨hi, hp⟩ := apart g hg x hx
  exact key_ne_of_place hn hi hp

/-- IWDT_EXPIRY of a station that is not in OPERATE changes nothing. -/
theorem execIwdtExpiry_idle (sta : StationNo) (hp : s.kerb.phase ≠ .off) (h2 : s.getF PNE_STASTAT_STATE sta.val ≠ 2) : exec (.iwdtExpiry sta) s = .next s :=
  congrArg Host.Outcome.next ((State.powered_on hp _).trans (if_pos h2))

/-- IWDT_EXPIRY of a station in OPERATE drops it. -/
theorem execIwdtExpiry_drops (sta : StationNo) (h : s.RegsOk) (hp : s.kerb.phase ≠ .off) (h2 : s.getF PNE_STASTAT_STATE sta.val = 2) : Gives (.iwdtExpiry sta) s fun t =>
    t.getF PNE_STASTAT_STATE sta.val = 3 ∧ (t.staRt sta.val).onTime = 0 ∧ t.getF PNE_STASTAT_DROPCNT sta.val =
      (if (s.staRt sta.val).flagAt = some s.now then s.getF PNE_STASTAT_DROPCNT sta.val else sat PNE_STASTAT_DROPCNT.w (s.getF PNE_STASTAT_DROPCNT sta.val + 1)) := by
  have hexec : exec (.iwdtExpiry sta) s = .next ((s.staDropped sta.val).report 0x0004 sta.val (s.staDropped sta.val).now 1 sta.val) :=
    congrArg Host.Outcome.next ((State.powered_on hp _).trans (if_neg (not_not.mpr h2)))
  have hn : sta.val < 65536 := by omega
  obtain ⟨ok, hstate, htime, hcount⟩ := State.staDropped_does h hn
  obtain ⟨regs, plant⟩ := State.report_station ok 0x0004 sta.val (s.staDropped sta.val).now 1 sta.val hn
  refine ⟨_, hexec, (regs _ (by decide)).trans hstate, ?_, (regs _ (by decide)).trans hcount⟩
  unfold State.staRt at htime ⊢
  rw [plant]
  exact htime

end

/-! ### Peer controllers (R298) -/

section
variable {s u : State} {link : Fin 104} {frame : List Byte} {f : Fsp}

/-- The producer's HE noted. -/
def State.peerNoted (s : State) (f : Fsp) : State := { s with plant := { s.plant with prodHe := tabSet s.plant.prodHe f.sta f.epoch } }

/-- The consumed data set that a PEER frame names. -/
def State.peerSet? (s : State) (f : Fsp) : Option PeerDef := s.cfg.peers.find? (fun p => p.producer = f.sta && p.set = leNat (f.data.take 2))

/-- PEER with an HE below the producer's is stale. -/
theorem execPeerFrame_stale (hf : s.fspTake link 0x10 frame = (some f, u)) (he : f.epoch < tabGet 0 u.plant.prodHe f.sta) : exec (.peerFrame link frame) s = .next u := by
  show execPeerFrame link frame s = _
  unfold execPeerFrame done
  rw [hf]
  exact congrArg Host.Outcome.next (if_pos he)

/-- The values of the data set that a PEER frame names enter, unless the frame is marked safe: as one access of the engine (R185, R298). -/
def State.peerEnter (s : State) (link : Nat) (f : Fsp) : State :=
  match s.peerSet? f with
  | none => s
  | some p =>
    if bitOf f.flags 0 then s
    else if f.data.length ≠ 4 + sigBytes (s.peerSigs p.set) then s.bump PNE_PORTSTAT_DISCCNT link
    else match (s.sysAddr .station s.seatB (0x1000 + p.set)).bind (fun a => s.engineRefuses false 0x203 .wr a (f.data.length - 4)) with
      | some b => s.latchRefusal b 0x203 true
      | none => { s with io := { s.io with inbox := takeVals (s.peerSigs p.set) (f.data.drop 4) [] s.io.inbox },
                         plant := { s.plant with peerAt := tabSet s.plant.peerAt p.set s.now } }

/-- PEER with an HE not below the producer's notes it, and its values enter. -/
theorem execPeerFrame_fresh (hf : s.fspTake link 0x10 frame = (some f, u)) (he : tabGet 0 u.plant.prodHe f.sta ≤ f.epoch) :
    exec (.peerFrame link frame) s = .next ((u.peerNoted f).peerEnter link.val f) := by
  show execPeerFrame link frame s = _
  unfold execPeerFrame done
  rw [hf]
  exact congrArg Host.Outcome.next (if_neg (Nat.not_lt.mpr he))

/-- Of no consumed data set, or marked safe, none enter. -/
theorem State.peerEnter_none (hp : s.peerSet? f = none ∨ bitOf f.flags 0 = true) (l : Nat) : s.peerEnter l f = s := by
  unfold State.peerEnter
  cases hq : s.peerSet? f with
  | none => rfl
  | some p => exact if_pos (hp.resolve_left (by rw [hq]; simp))

/-- Of a consumed data set, as long as its signals need and not refused by the engine's ACU, they enter with their arrival. -/
theorem State.peerEnter_some {p : PeerDef} (hp : s.peerSet? f = some p) (hs : bitOf f.flags 0 = false) (hl : f.data.length = 4 + sigBytes (s.peerSigs p.set))
    (hw : (s.sysAddr .station s.seatB (0x1000 + p.set)).bind (fun a => s.engineRefuses false 0x203 .wr a (f.data.length - 4)) = none) (l : Nat) :
    s.peerEnter l f = { s with io := { s.io with inbox := takeVals (s.peerSigs p.set) (f.data.drop 4) [] s.io.inbox },
                               plant := { s.plant with peerAt := tabSet s.plant.peerAt p.set s.now } } := by
  unfold State.peerEnter
  rw [hp]
  dsimp only
  rw [hs, if_neg (by decide), if_neg (not_not.mpr hl), hw]

/-- PEER_WATCHDOG_EXPIRY of a consumed data set takes its arrival away. -/
theorem execPeerWatchdogExpiry_known {set : Nat} {p : PeerDef} (h : s.RegsOk) (hk : s.kerb.phase ≠ .off) (hp : s.cfg.peers.find? (fun p => p.set = set) = some p) :
    Gives (.peerWatchdogExpiry set) s fun t => t.plant = { s.plant with peerAt := tabDel s.plant.peerAt set } := by
  generalize hv : ({ s with plant := { s.plant with peerAt := tabDel s.plant.peerAt set } } : State) = v
  have hexec : exec (.peerWatchdogExpiry set) s = .next (v.report 0x0004 (0x1000 + p.producer) s.now 10 p.producer) := by
    show execPeerWatchdogExpiry set s = _
    unfold execPeerWatchdogExpiry done
    rw [State.powered_on hk, hp, ← hv]
  have ok : v.RegsOk := by
    rw [← hv]
    exact h
  obtain ⟨-, plant⟩ := State.report_station ok 0x0004 (0x1000 + p.producer) s.now 10 p.producer (n := 0) (by decide)
  exact ⟨_, hexec, plant.trans (by rw [← hv])⟩

/-- Of another it changes nothing. -/
theorem execPeerWatchdogExpiry_unknown {set : Nat} (hk : s.kerb.phase ≠ .off) (hp : s.cfg.peers.find? (fun p => p.set = set) = none) :
    exec (.peerWatchdogExpiry set) s = .next s := by
  show execPeerWatchdogExpiry set s = _
  unfold execPeerWatchdogExpiry done
  rw [State.powered_on hk, hp]

end

/-! ### HOLD (R46, R296) -/

/-- From `s` to `t` frames have left for the channels and with the arguments listed, and nothing else has changed but their numbers and the account of the last
OUTPUT frames. -/
def Resent (s t : State) (l : List (OutCh × Nat × List Nat)) : Prop :=
  ∃ a q o, t = { s with plant := { s.plant with outAt := a, fspSeq := q }, out := s.out ++ o } ∧ o.map (fun o => (o.ch, o.what, o.args)) = l

/-- Nothing has left. -/
theorem Resent.refl (s : State) : Resent s s [] := ⟨s.plant.outAt, s.plant.fspSeq, [], by rw [List.append_nil], rfl⟩

/-- One after another. -/
theorem Resent.trans {s t u : State} {l m : List (OutCh × Nat × List Nat)} (h : Resent s t l) (k : Resent t u m) : Resent s u (l ++ m) := by
  obtain ⟨a, q, o, rfl, rfl⟩ := h
  obtain ⟨b, r, p, rfl, rfl⟩ := k
  exact ⟨b, r, o ++ p, by rw [List.append_assoc], List.map_append⟩

/-- Steps that each send what they are to send. -/
theorem Resent.foldl {α : Type} {f : State → α → State} {s : State} {g : α → List (OutCh × Nat × List Nat)} (hf : ∀ t l a, Resent s t l → Resent t (f t a) (g a)) (as : List α) :
    Resent s (as.foldl f s) (as.flatMap g) := by
  induction as using List.reverseRecOn with
  | nil => exact Resent.refl s
  | append_singleton as a ih =>
    rw [List.foldl_append, List.flatMap_append, List.flatMap_singleton]
    exact ih.trans (hf _ _ _ ih)

/-- One of a held task's last OUTPUT frames leaves again. -/
def State.outAgain (s : State) (x : Nat × Nat × List Byte) : State :=
  match s.station? x.1 with
  | none => s
  | some d => State.fspSend { s with plant := { s.plant with outAt := tabSet s.plant.outAt x.1 s.tick } } .station 0x01 d.link.val x.1 s.stamp32 x.2.1 false x.2.2

/-- Where it goes: to its station, if the configuration has it. -/
def State.outTo (s : State) (x : Nat × Nat × List Byte) : List (OutCh × Nat × List Nat) := ((s.station? x.1).map (fun d => (OutCh.station, 1, [d.link.val, x.1]))).toList

/-- Is it the grid tick of a held task? -/
def State.heldGrid (s : State) (n : Nat) : Bool := s.kind n = 0 && !s.isSafety n && s.gridFrom n s.tick = s.tick

/-- The last OUTPUT frames of a task leave again, if it is held and at its grid tick. -/
def State.holdTask (s : State) (d : TaskDef) : State := if s.heldGrid d.no.val then (tabGet [] s.plant.lastOut d.no.val).foldl State.outAgain s else s

section
variable {s : State} (hp : s.kerb.phase ≠ .off) (hk : s.flag PNE_CTL_KERBSTOP = false) (hg : ∀ d ∈ s.cfg.stations, s.flag PNE_PORTSTAT_GCLERR d.link.val = false)
include hp hk hg

/-- On links that send, the frame leaves. -/
theorem State.outAgain_resent {t : State} {l : List (OutCh × Nat × List Nat)} (x : Nat × Nat × List Byte) (ht : Resent s t l) : Resent t (t.outAgain x) (s.outTo x) := by
  obtain ⟨a, q, o, rfl, -⟩ := ht
  unfold State.outAgain State.outTo
  rw [show State.station? { s with plant := { s.plant with outAt := a, fspSeq := q }, out := s.out ++ o } x.1 = s.station? x.1 from rfl]
  cases hd : s.station? x.1 with
  | none => exact Resent.refl _
  | some d =>
    obtain ⟨r, b, e⟩ := State.fspSend_leaves (s := { s with plant := { s.plant with outAt := tabSet a x.1 s.tick, fspSeq := q }, out := s.out ++ o }) (ch := .station)
      (ty := 0x01) (link := d.link.val) (sta := x.1) (stamp := s.stamp32) (cy := x.2.1) (sf := false) (d := x.2.2) hp
      (fun hstop => by rw [show s.flag PNE_CTL_KERBSTOP = true from hstop] at hk; cases hk) (hg d (List.mem_of_find?_eq_some hd))
    exact ⟨_, r, _, e, rfl⟩

/-- The frames of a held task at its grid tick leave again, in their order. -/
theorem State.holdTask_resent {t : State} {l : List (OutCh × Nat × List Nat)} (d : TaskDef) (ht : Resent s t l) :
    Resent t (t.holdTask d) (if s.heldGrid d.no.val then (tabGet [] s.plant.lastOut d.no.val).flatMap s.outTo else []) := by
  have hgrid : t.heldGrid d.no.val = s.heldGrid d.no.val := by
    obtain ⟨a, q, o, rfl, -⟩ := ht
    rfl
  have hlast : t.plant.lastOut = s.plant.lastOut := by
    obtain ⟨a, q, o, rfl, -⟩ := ht
    rfl
  unfold State.holdTask
  rw [hgrid, hlast]
  split
  · exact Resent.foldl (fun v m x hv => State.outAgain_resent hp hk hg x (ht.trans hv)) _
  · exact Resent.refl t

/-- HOLD_OUTPUT_REPEAT in HOLD on a Lead: the last OUTPUT frames of each held task at its grid tick leave again. -/
theorem execHoldOutputRepeat_held (hl : s.isLead = true) (hm : s.mode = 2) : Gives .holdOutputRepeat s fun t =>
    t = { s with plant := { s.plant with outAt := t.plant.outAt, fspSeq := t.plant.fspSeq }, out := t.out } ∧
      ∃ l, t.out = s.out ++ l ∧ l.map (fun o => (o.ch, o.what, o.args)) =
        (s.cfg.tasks.filter (fun d => decide (s.kind d.no.val = 0) && !s.isSafety d.no.val && decide (s.gridFrom d.no.val s.tick = s.tick))).flatMap (fun d =>
          (tabGet [] s.plant.lastOut d.no.val).filterMap (fun x => (s.station? x.1).map (fun d => (OutCh.station, 1, [d.link.val, x.1])))) := by
  have hexec : exec .holdOutputRepeat s = .next (s.cfg.tasks.foldl State.holdTask s) := congrArg Host.Outcome.next (if_pos (by simp [hl, hm]))
  obtain ⟨a, q, o, e, ho⟩ := Resent.foldl (fun t l d ht => State.holdTask_resent hp hk hg d ht) s.cfg.tasks
  have hlist : ∀ l : List TaskDef, l.flatMap (fun d => if s.heldGrid d.no.val then (tabGet [] s.plant.lastOut d.no.val).flatMap s.outTo else []) =
      (l.filter (fun d => s.heldGrid d.no.val)).flatMap (fun d => (tabGet [] s.plant.lastOut d.no.val).filterMap (fun x =>
        (s.station? x.1).map (fun d => (OutCh.station, 1, [d.link.val, x.1])))) := by
    intro l
    induction l with
    | nil => rfl
    | cons d l ih =>
      rw [List.flatMap_cons, ih, List.filter_cons]
      split
      · rw [List.flatMap_cons, List.filterMap_eq_flatMap_toList]
        rfl
      · rfl
  rw [e] at hexec
  exact ⟨_, hexec, rfl, o, rfl, ho.trans (hlist _)⟩

end

/-! ### PNE_PORTCFG and the links (R196, R286, R312) -/

/-- SPEED of one link of a cage put, and the link dropped where the rate changes. -/
def State.cageLink (v : Nat) (drop : Bool) (s : State) (k : Nat) : State :=
  let s := s.setLater .baseTick PNE_PORTCFG_SPEED v k
  if drop then s.setLater .baseTick PNE_PORTSTAT_UP 0 k else s

/-- The settings of one link put. -/
def State.linkSet (s : State) (l redun partner ptpen : Nat) : State :=
  ((s.setLater .baseTick PNE_PORTCFG_REDUN redun l).setLater .baseTick PNE_PORTCFG_PARTNER partner l).setLater .baseTick PNE_PORTCFG_PTPEN ptpen l

/-- Only waiting values change, and those under other fields than SPEED and UP stay. -/
theorem State.cageLink_keeps (s : State) (v : Nat) (drop : Bool) {k : Nat} (hk : k < 65536) : (∃ d, s.cageLink v drop k = { s with due := d }) ∧
    ∀ (g : Fld) (ix : Nat), ix < 65536 → (∀ f ∈ [PNE_PORTCFG_SPEED, PNE_PORTSTAT_UP], g.off * 32 + g.lo ≠ f.off * 32 + f.lo) →
      dueVal (s.cageLink v drop k).due (g.key ix) = dueVal s.due (g.key ix) := by
  have speed : ∀ (g : Fld) (ix : Nat), ix < 65536 → g.off * 32 + g.lo ≠ PNE_PORTCFG_SPEED.off * 32 + PNE_PORTCFG_SPEED.lo →
      dueVal (s.setLater .baseTick PNE_PORTCFG_SPEED v k).due (g.key ix) = dueVal s.due (g.key ix) := fun g ix hix hg => dueVal_setLater_ne _ _ _ (key_ne_of_place hix hk hg)
  unfold State.cageLink
  cases drop
  · exact ⟨⟨_, rfl⟩, fun g ix hix hg => speed g ix hix (hg _ (by decide))⟩
  · exact ⟨⟨_, rfl⟩, fun g ix hix hg => (dueVal_setLater_ne _ _ _ (key_ne_of_place hix hk (hg _ (by decide)))).trans (speed g ix hix (hg _ (by decide)))⟩

/-- SPEED of that link waits with the value put; that of another link is as before. -/
theorem State.cageLink_speed (s : State) {v : Nat} (hv : v < 4) (drop : Bool) {k i : Nat} (hk : k < 65536) (hi : i < 65536) :
    dueVal (s.cageLink v drop k).due (PNE_PORTCFG_SPEED.key i) = if i = k then some v else dueVal s.due (PNE_PORTCFG_SPEED.key i) := by
  have put : dueVal (s.setLater .baseTick PNE_PORTCFG_SPEED v k).due (PNE_PORTCFG_SPEED.key i) = if i = k then some v else dueVal s.due (PNE_PORTCFG_SPEED.key i) := by
    split
    · next e =>
      rw [e, dueVal_setLater_self]
      exact congrArg some (Nat.mod_eq_of_lt hv)
    · exact dueVal_setLater_ne _ _ _ (key_ne_of_ix (by omega))
  unfold State.cageLink
  cases drop
  · exact put
  · exact (dueVal_setLater_ne _ _ _ (key_ne_of_place hi hk (by decide))).trans put

/-- The links of a cage one after another. -/
theorem State.cageLink_foldl (s : State) {v : Nat} (hv : v < 4) (drop : Bool) (ks : List Nat) (hks : ∀ k ∈ ks, k < 65536) : (∃ d, ks.foldl (State.cageLink v drop) s = { s with due := d }) ∧
    (∀ k ∈ ks, dueVal (ks.foldl (State.cageLink v drop) s).due (PNE_PORTCFG_SPEED.key k) = some v) ∧
    ∀ (g : Fld) (ix : Nat), ix < 65536 → (∀ f ∈ [PNE_PORTCFG_SPEED, PNE_PORTSTAT_UP], g.off * 32 + g.lo ≠ f.off * 32 + f.lo) →
      dueVal (ks.foldl (State.cageLink v drop) s).due (g.key ix) = dueVal s.due (g.key ix) := by
  induction ks using List.reverseRecOn with
  | nil => exact ⟨⟨s.due, rfl⟩, by simp, fun _ _ _ _ => rfl⟩
  | append_singleton ks k ih =>
    obtain ⟨⟨d, e⟩, hspeed, hrest⟩ := ih (fun x hx => hks x (List.mem_append_left _ hx))
    have hk := hks k (by simp)
    obtain ⟨⟨d', e'⟩, hkeep⟩ := (ks.foldl (State.cageLink v drop) s).cageLink_keeps v drop hk
    rw [List.foldl_append, List.foldl_cons, List.foldl_nil]
    refine ⟨⟨d', by rw [e', e]⟩, fun i hi => ?_, fun g ix hix hg => (hkeep g ix hix hg).trans (hrest g ix hix hg)⟩
    rw [State.cageLink_speed _ hv drop hk (hks i hi)]
    split
    · rfl
    · next hne => exact hspeed i ((List.mem_append.mp hi).resolve_right (by simpa using hne))

/-- The settings of a link wait with their values. -/
theorem State.linkSet_due (s : State) {l : Nat} (hl : l < 65536) (redun partner ptpen : Nat) :
    dueVal (s.linkSet l redun partner ptpen).due (PNE_PORTCFG_REDUN.key l) = some (redun % 4) ∧
    dueVal (s.linkSet l redun partner ptpen).due (PNE_PORTCFG_PARTNER.key l) = some (partner % 128) ∧
    dueVal (s.linkSet l redun partner ptpen).due (PNE_PORTCFG_PTPEN.key l) = some (ptpen % 2) := by
  have apart : ∀ {f g : Fld}, f.off * 32 + f.lo ≠ g.off * 32 + g.lo → f.key l ≠ g.key l := fun hp => key_ne_of_place hl hl hp
  unfold State.linkSet
  refine ⟨?_, ?_, dueVal_setLater_self _ _ _ _ _⟩
  · rw [dueVal_setLater_ne _ _ _ (apart (by decide)), dueVal_setLater_ne _ _ _ (apart (by decide)), dueVal_setLater_self]
    rfl
  · rw [dueVal_setLater_ne _ _ _ (apart (by decide)), dueVal_setLater_self]
    rfl

section
variable {s : State} {p : Path} {v : W32}

/-- A redundant partner in the same cage, or one that there is not, bars the write for a link (R286). -/
def PartnerBad (v : W32) (l : Nat) : Prop := bits v.toNat 2 2 ≠ 0 ∧ (bits v.toNat 4 7 / 4 = l / 4 ∨ 104 ≤ bits v.toNat 4 7)

/-- A link that there is not. -/
theorem State.cmdPnePortcfgWrite_noLink (hl : 104 ≤ s.selIx p .link) : s.cmdPnePortcfgWrite p v = s.ignored p 0xB0014 6 := if_pos hl

/-- A partner that bars the write. -/
theorem State.cmdPnePortcfgWrite_barred (hl : s.selIx p .link < 104) (hb : PartnerBad v (s.selIx p .link)) : s.cmdPnePortcfgWrite p v = s.ignored p 0xB0014 5 :=
  (if_neg (Nat.not_le.mpr hl)).trans (if_pos (by unfold PartnerBad at hb; simpa using hb))

/-- A write that is taken: the settings of the link, and the rate of its cage. -/
theorem State.cmdPnePortcfgWrite_taken (hl : s.selIx p .link < 104) (hb : ¬ PartnerBad v (s.selIx p .link)) : ∃ drop, s.cmdPnePortcfgWrite p v =
    ((List.range 4).map (fun i => s.selIx p .link / 4 * 4 + i)).foldl (State.cageLink (bits v.toNat 0 2) drop)
      (s.linkSet (s.selIx p .link) (bits v.toNat 2 2) (bits v.toNat 4 7) (bits v.toNat 11 1)) := by
  refine ⟨decide ((s.linkSet (s.selIx p .link) (bits v.toNat 2 2) (bits v.toNat 4 7) (bits v.toNat 11 1)).asWritten PNE_PORTCFG_SPEED (s.selIx p .link) ≠ bits v.toNat 0 2), ?_⟩
  rw [List.foldl_map]
  exact (if_neg (Nat.not_le.mpr hl)).trans (if_neg (by unfold PartnerBad at hb; simpa using hb))

/-- PNE_PORTCFG_WRITE that is taken, as a write of a running module. -/
theorem execPnePortcfgWrite_taken (h : s.RegsOk) (hr : s.Runs) {l : Nat} (hsel : s.getF PNE_PORTSEL_LINK p.code = l) (hl : l < 104) (hb : ¬ PartnerBad v l) :
    Gives (.pnePortcfgWrite p v) s fun t => t.asWritten PNE_PORTCFG_REDUN l = bits v.toNat 2 2 ∧ t.asWritten PNE_PORTCFG_PARTNER l = bits v.toNat 4 7 ∧
      t.asWritten PNE_PORTCFG_PTPEN l = bits v.toNat 11 1 ∧ (∀ i, i < 4 → t.asWritten PNE_PORTCFG_SPEED (l / 4 * 4 + i) = bits v.toNat 0 2) ∧
      t = { s with regs := t.regs, due := t.due } ∧ OnlyRegsW 11 s t [] := by
  have hsel' : s.aside.selIx p .link = l := (getF_aside h _ (key_ne_of_place (Path.code_lt p) (by decide) (by decide))).trans hsel
  obtain ⟨drop, hu⟩ := State.cmdPnePortcfgWrite_taken (s := s.aside) (p := p) (v := v) (by rwa [hsel']) (by rwa [hsel'])
  rw [hsel'] at hu
  obtain ⟨⟨d, e⟩, hspeed, hrest⟩ := (s.aside.linkSet l (bits v.toNat 2 2) (bits v.toNat 4 7) (bits v.toNat 11 1)).cageLink_foldl (v := bits v.toNat 0 2)
    (Nat.mod_lt _ (by decide)) drop ((List.range 4).map (fun i => l / 4 * 4 + i)) (by simp; omega)
  obtain ⟨hredun, hpartner, hptpen⟩ := s.aside.linkSet_due (l := l) (by omega) (bits v.toNat 2 2) (bits v.toNat 4 7) (bits v.toNat 11 1)
  obtain ⟨et, c⟩ := State.written_plain (p := p) (off := 0xB0014) (f := fun s => s.cmdPnePortcfgWrite p v) hr h (hu.trans e) rfl (hr.not_boot rfl)
  have ed : (s.written p 0xB0014 (fun s => s.cmdPnePortcfgWrite p v)).due = d := congrArg State.due et
  rw [e] at hspeed hrest
  refine ⟨_, rfl, asWritten_of_due ?_, asWritten_of_due ?_, asWritten_of_due ?_, fun i hi => asWritten_of_due ?_, ?_, c⟩
  · exact ed ▸ (hrest _ _ (by omega) (by decide)).trans (hredun.trans (congrArg some (Nat.mod_mod _ _)))
  · exact ed ▸ (hrest _ _ (by omega) (by decide)).trans (hpartner.trans (congrArg some (Nat.mod_mod _ _)))
  · exact ed ▸ (hrest _ _ (by omega) (by decide)).trans (hptpen.trans (congrArg some (Nat.mod_mod _ _)))
  · exact ed ▸ hspeed _ (List.mem_map.mpr ⟨i, List.mem_range.mpr hi, rfl⟩)
  · rw [ed]
    exact et

/-- PNE_PORTCFG_WRITE that is refused. -/
theorem execPnePortcfgWrite_ignored (h : s.RegsOk) (hr : s.Runs) {l c : Nat} (hsel : s.getF PNE_PORTSEL_LINK p.code = l)
    (hc : (c = 6 ∧ 104 ≤ l) ∨ (c = 5 ∧ l < 104 ∧ PartnerBad v l)) : Gives (.pnePortcfgWrite p v) s fun t =>
      RegsOnlyW 11 s t [(KRB_IGNSTAT_CAUSE, 0), (KRB_IGNADDR_OFFSET, 0), (KRB_IGNPATH_PATH, 0)] ∧ t.getF KRB_IGNSTAT_CAUSE = c := by
  have hsel' : s.aside.selIx p .link = l := (getF_aside h _ (key_ne_of_place (Path.code_lt p) (by decide) (by decide))).trans hsel
  have hu : s.aside.cmdPnePortcfgWrite p v = s.aside.ignored p 0xB0014 c := by
    rcases hc with ⟨rfl, hl⟩ | ⟨rfl, hl, hb⟩
    · exact State.cmdPnePortcfgWrite_noLink (by rwa [hsel'])
    · exact State.cmdPnePortcfgWrite_barred (by rwa [hsel']) (by rwa [hsel'])
  exact ⟨_, rfl, State.written_ign (f := fun s => s.cmdPnePortcfgWrite p v) hr h hu (by omega) (by decide) (by decide)⟩

end

section
variable {s : State} (h : s.RegsOk)
include h

/-- BOULEVARD_LINK_CHANGE puts the bit of its link, and leaves that of the other. -/
theorem execBoulevardLinkChange_shows (link : Fin 2) (up : Bool) : Gives (.boulevardLinkChange link up) s fun t =>
    t.getF PAR_STAT_LINKUP / 2 ^ link.val % 2 = b2n up ∧ t.getF PAR_STAT_LINKUP / 2 ^ (1 - link.val) % 2 = s.getF PAR_STAT_LINKUP / 2 ^ (1 - link.val) % 2 ∧
    t = { s with regs := t.regs, arc := t.arc } ∧ OnlyRegs s t [(PAR_STAT_LINKUP, 0)] := by
  generalize hv : s.getF PAR_STAT_LINKUP - s.getF PAR_STAT_LINKUP / 2 ^ link.val % 2 * 2 ^ link.val + b2n up * 2 ^ link.val = v
  have hexec : exec (.boulevardLinkChange link up) s = .next ((s.setF PAR_STAT_LINKUP v).evHw 25 [link.val, b2n up]) := by
    rw [← hv]
    rfl
  obtain ⟨a, e⟩ := State.evHw_frame (s.setF PAR_STAT_LINKUP v) 25 [link.val, b2n up]
  rw [e] at hexec
  have hval : State.getF { s.setF PAR_STAT_LINKUP v with arc := a } PAR_STAT_LINKUP = v % 4 := getF_setF_self s PAR_STAT_LINKUP v 0 h
  refine ⟨_, hexec, ?_, ?_, rfl, (((Chg.refl h).setF PAR_STAT_LINKUP v 0).same rfl).only⟩
  · rw [hval, ← hv]
    match link with
    | 0 => cases up <;> simp [b2n] <;> omega
    | 1 => cases up <;> simp [b2n] <;> omega
  · rw [hval, ← hv]
    match link with
    | 0 => cases up <;> simp [b2n] <;> omega
    | 1 => cases up <;> simp [b2n] <;> omega

/-- PLANT_LINK_UP_DOWN shows the link and its rate. -/
theorem execPlantLinkUpDown_shows (link : Fin 104) (up : Bool) (rate : BitVec 2) (hp : s.kerb.phase ≠ .off) : Gives (.plantLinkUpDown link up rate) s fun t =>
    t.flag PNE_PORTSTAT_UP link.val = up ∧ t.getF PNE_PORTSTAT_RATE link.val = (if up then rate.toNat else 0) ∧ t = { s with regs := t.regs } ∧
    OnlyRegs s t [(PNE_PORTSTAT_UP, link.val), (PNE_PORTSTAT_RATE, link.val)] := by
  have c1 := (Chg.refl h).setB PNE_PORTSTAT_UP up link.val
  have c2 := c1.setF PNE_PORTSTAT_RATE (if up then rate.toNat else 0) link.val
  have hn : link.val < 65536 := by omega
  refine ⟨_, congrArg Host.Outcome.next (State.powered_on hp _), ?_, getF_setF_fits c1.ok _ ?_, rfl, (c2.mono (by simp)).only⟩
  · rw [flag_setF_ne c1.ok (key_ne_of_place hn hn (by decide))]
    exact flag_setB_self h up rfl
  · split
    · exact rate.isLt
    · decide

end

/-! ### Station mode changes (R244) -/

section
variable {s : State}

/-- The station's mode has not come in time. -/
def State.modeLate (s : State) (n mode at_ : Nat) : Prop :=
  s.getF PNE_STASTAT_STATE n = 2 ∧ s.getF PNE_STASTAT_MODE n ≠ mode ∧ at_ + hopsMax s.cfg.stations + s.writerPeriod n ≤ s.now

/-- The account of a station that has missed a change. -/
def StaRt.missed (mode : Nat) (miss : ModeMiss) (now : Nat) (x : StaRt) : StaRt :=
  { x with expect := mode, change := miss.no, badMode := false, isReset := miss.isReset, missedAt := now, sentAt := none }

/-- STATION_MODE_MISSED of a station that is late: MISSED, with the change in its account. -/
theorem execStationModeMissed_late (h : s.RegsOk) (sta : StationNo) (mode : Byte) (miss : ModeMiss) (hl : s.modeLate sta.val mode.toNat miss.at_) :
    Gives (.stationModeMissed sta mode miss) s fun t => t.getF PNE_STASTAT_STATE sta.val = 4 ∧ t.staRt sta.val = (s.staRt sta.val).missed mode.toNat miss s.now := by
  obtain ⟨h2, hm, ha⟩ := hl
  generalize hv : (s.setF PNE_STASTAT_STATE 4 sta.val).modSta sta.val (StaRt.missed mode.toNat miss s.now) = v
  have hexec : exec (.stationModeMissed sta mode miss) s = .next (v.report 0x0006 miss.no s.now 1 sta.val) := by
    rw [← hv]
    exact congrArg Host.Outcome.next (if_pos (by simp [h2, hm, ha]))
  have ok : v.RegsOk := by
    rw [← hv]
    exact ((Chg.refl h).setF PNE_STASTAT_STATE 4 sta.val).ok
  obtain ⟨regs, plant⟩ := State.report_station ok 0x0006 miss.no s.now 1 sta.val (n := sta.val) (by omega)
  refine ⟨_, hexec, (regs _ (by decide)).trans ?_, ?_⟩
  · rw [← hv]
    exact getF_setF_fits h PNE_STASTAT_STATE (v := 4) (ix := sta.val) (by decide)
  · unfold State.staRt
    rw [plant, ← hv]
    exact State.staRt_modSta _ _ _

/-- Of another it changes nothing. -/
theorem execStationModeMissed_inTime (sta : StationNo) (mode : Byte) (miss : ModeMiss) (hl : ¬ s.modeLate sta.val mode.toNat miss.at_) :
    exec (.stationModeMissed sta mode miss) s = .next s :=
  congrArg Host.Outcome.next (if_neg (by
    unfold State.modeLate at hl
    simpa [and_assoc] using hl))

/-- MODE_CHANGE_RESEND on a Lead for a missed station, when due: the command leaves again. -/
theorem execModeChangeResend_due {d : StationDef} (sta : StationNo) (hd : s.station? sta.val = some d) (hl : s.isLead = true) (h4 : s.getF PNE_STASTAT_STATE sta.val = 4)
    (hp : s.kerb.phase ≠ .off) (hg : s.flag PNE_PORTSTAT_GCLERR d.link.val = false)
    (ht : ∀ x, (s.staRt sta.val).sentAt = some x → x + (if (s.staRt sta.val).badMode then 1000000000 else 10000000) ≤ s.now) :
    Gives (.modeChangeResend sta) s fun t => (t.staRt sta.val).sentAt = some s.now ∧ ∃ o, t.out = s.out ++ [⟨.station, 9, [d.link.val, d.no.val], o⟩] := by
  generalize hbs : schedData (s.staRt sta.val).change (if (s.staRt sta.val).isReset then 3 else 2) (s.staRt sta.val).expect (s.getF TIM_STAT_ACTIVE) (s.now + 250000 + d.hops) = bs
  have hdue : (match (s.staRt sta.val).sentAt with
      | some t => decide (s.now ≥ t + (if (s.staRt sta.val).badMode then 1000000000 else 10000000))
      | none => true) = true := by
    cases hx : (s.staRt sta.val).sentAt with
    | none => rfl
    | some x => exact decide_eq_true (ht x hx)
  obtain ⟨q, o, e⟩ := State.fspSend_leaves (s := s.modSta sta.val (fun x => { x with sentAt := some s.now })) (ch := .station) (ty := 0x09) (link := d.link.val)
    (sta := d.no.val) (stamp := s.stamp32) (cy := 0) (sf := false) (d := bs) hp (fun _ => by decide) hg
  have hexec : exec (.modeChangeResend sta) s = .next ((s.modSta sta.val (fun x => { x with sentAt := some s.now })).fspSend .station 0x09 d.link.val d.no.val s.stamp32 0 false bs) := by
    show execModeChangeResend sta s = _
    unfold execModeChangeResend done
    rw [hd]
    rw [← hbs]
    exact congrArg Host.Outcome.next (if_pos (by rw [hl, decide_eq_true h4]; exact hdue))
  rw [e] at hexec
  exact ⟨_, hexec, congrArg StaRt.sentAt (State.staRt_modSta s sta.val (fun x => { x with sentAt := some s.now })), o, rfl⟩

/-- MODEWAIT has passed since the station missed the change. -/
def State.modePast (s : State) (n : Nat) : Prop := s.getF PNE_STASTAT_STATE n = 4 ∧ (s.staRt n).missedAt + s.getF PNE_CUTCFG_MODEWAIT * 1000000000 ≤ s.now

/-- MODEWAIT_EXPIRY then marks its inputs BAD. -/
theorem execModewaitExpiry_past (sta : StationNo) (hl : s.modePast sta.val) : exec (.modewaitExpiry sta) s = .next (s.modSta sta.val (fun x => { x with badMode := true })) :=
  congrArg Host.Outcome.next (if_pos (by simp [hl.1, hl.2]))

/-- Before, it changes nothing. -/
theorem execModewaitExpiry_early (sta : StationNo) (hl : ¬ s.modePast sta.val) : exec (.modewaitExpiry sta) s = .next s :=
  congrArg Host.Outcome.next (if_neg (by
    unfold State.modePast at hl
    simpa using hl))

end

/-- Settles O49: each clause's premises make its command act, and the clause is what the station, the data set, the link or the mode change shows of it. -/
theorem plantStations : Obligations.PlantStations := by
  unfold Obligations.PlantStations
  intro s h
  refine ⟨fun link frame f u hf ok he => ⟨fun hd => execStationInput_unknown hf he hd, fun d hd => ⟨fun hs hl => execStationInput_misfit hf ok he hd hs hl, fun hl => ?_⟩⟩,
    fun link frame f u hf => execStationEvent_asks hf, fun link frame f u d hf ok hd => ⟨fun h1 => ?_, fun h1 => ?_⟩, fun sta d hp hd h1 => ⟨fun h3 => ?_, fun h3 hg => ?_⟩,
    fun sta hp => ⟨fun h2 => ⟨s, execIwdtExpiry_idle sta hp h2, rfl⟩, fun h2 => execIwdtExpiry_drops sta h hp h2⟩,
    fun link frame f u hf => ⟨fun he => ⟨u, execPeerFrame_stale hf he, rfl⟩, fun he => ⟨fun hp => ?_, fun p hp hs hl hw => ?_⟩⟩,
    fun set hp => ⟨fun hn => ⟨s, execPeerWatchdogExpiry_unknown hp hn, rfl⟩, fun p hs => execPeerWatchdogExpiry_known h hp hs⟩,
    fun hm => ⟨s, congrArg Host.Outcome.next (if_neg (by rw [hm]; decide)), rfl⟩, fun hl hm hp hk hg => execHoldOutputRepeat_held hp hk hg hl hm,
    fun p v hr => ⟨fun hl => execPnePortcfgWrite_ignored h hr rfl (.inl ⟨rfl, hl⟩), fun hl hb => execPnePortcfgWrite_ignored h hr rfl (.inr ⟨rfl, hl, hb⟩),
      fun hl hb => execPnePortcfgWrite_taken h hr rfl hl hb⟩,
    execBoulevardLinkChange_shows h, execPlantLinkUpDown_shows h,
    fun sta mode k rs a => ⟨fun hl => ⟨s, execStationModeMissed_inTime sta mode ⟨k, rs, a⟩ hl, rfl⟩, fun hl => execStationModeMissed_late h sta mode ⟨k, rs, a⟩ hl⟩,
    fun sta d hd hl h4 hp hg ht => execModeChangeResend_due sta hd hl h4 hp hg ht,
    fun sta => ⟨fun hl => ⟨s, execModewaitExpiry_early sta hl, rfl⟩, fun hl => ⟨_, execModewaitExpiry_past sta hl, State.staRt_modSta s sta.val _, rfl⟩⟩⟩
  · obtain ⟨t, e, hh⟩ := execStationInput_heard hf ok he hd hl
    exact ⟨t, e, hh.state, hh.mode, hh.notsync, hh.dropped, hh.arrived, hh.instant⟩
  · exact ⟨u, (execConfack_known hf hd).trans (congrArg _ (if_pos h1)), rfl⟩
  · exact ⟨_, (execConfack_known hf hd).trans (congrArg _ (if_neg (not_not.mpr h1))), State.confirm_does ok h1 f d.digest rfl⟩
  · exact ⟨s, (execConfigRetry_waiting sta hp hd h1).trans (congrArg _ (if_neg (Nat.not_lt.mpr h3))), rfl⟩
  · exact ⟨_, (execConfigRetry_waiting sta hp hd h1).trans (congrArg _ (if_pos h3)), State.sendConfig_sent d hp hg⟩
  · exact ⟨_, (execPeerFrame_fresh hf he).trans (congrArg _ (State.peerEnter_none (s := u.peerNoted f) hp link.val)), rfl⟩
  · exact ⟨_, (execPeerFrame_fresh hf he).trans (congrArg _ (State.peerEnter_some (s := u.peerNoted f) hp hs hl hw link.val)), rfl, tabGet?_tabSet_self _ _ _⟩

end Sys2Proof.Machine
end

section
/-! PROOFS. The domains of time, the pulse outputs, the captured edges and the tails of rings (11, R300 to R310; 13, R379; 14, R393). -/
namespace Sys2Proof.Machine

/-! ### The servo of a domain (R300 to R302) -/

/-- A domain's servo that is changed is what the change makes of it. -/
theorem State.dom_modDom (s : State) (d : Nat) (f : DomRt → DomRt) : (s.modDom d f).dom d = f (s.dom d) := tabGet_tabSet_self _ _ _ _

/-- As a boundary clock the engine only sends. -/
theorem State.boundary_frame (s : State) (msg d master : Nat) : ∃ o, s.boundary msg d master = { s with out := o } := by
  unfold State.boundary
  dsimp only
  split
  · exact ⟨s.out, rfl⟩
  · exact ⟨_, rfl⟩

/-- Which domain is asked after is told by whether its number is 0. -/
theorem State.domHeld_congr (s : State) {a b : Nat} (h : a = 0 ↔ b = 0) : s.domHeld a = s.domHeld b := by
  unfold State.domHeld
  simp only [h]

/-- ACTIVE and HOLDOVER are none of the lock bits. -/
theorem domLock_ne (d : Nat) : TIM_STAT_ACTIVE.key 0 ≠ (domLock d).key 0 ∧ TIM_STAT_HOLDOVER.key 0 ≠ (domLock d).key 0 := by
  unfold domLock
  split <;> decide

/-- PTP_ANNOUNCE names the master of its domain. -/
theorem execPtpAnnounce_names {s : State} (dom : Bool) (m : Nat) (hp : s.kerb.phase ≠ .off) : Gives (.ptpAnnounce dom m) s fun t =>
    t.dom (b2n dom) = { s.dom (b2n dom) with announced := s.now, master := m } ∧ t = { s with plant := t.plant, out := t.out } := by
  have hexec : exec (.ptpAnnounce dom m) s = .next ((s.modDom (b2n dom) (fun x => { x with announced := s.now, master := m })).boundary 0x0B (b2n dom) m) :=
    congrArg Host.Outcome.next (State.powered_on hp _)
  obtain ⟨o, e⟩ := (s.modDom (b2n dom) (fun x => { x with announced := s.now, master := m })).boundary_frame 0x0B (b2n dom) m
  rw [e] at hexec
  exact ⟨_, hexec, State.dom_modDom s (b2n dom) (fun x => { x with announced := s.now, master := m }), rfl⟩

/-- The good intervals of a domain after one more. -/
def DomRt.goodNext (x : DomRt) (off : Int) : Nat := if off.natAbs < 100 then sat 32 (x.good + 1) else 0

/-- The servo takes an interval: its offset and the count of good ones, and OFFSET shows the domains' difference. -/
def State.servo (s : State) (d : Nat) (off : Int) (g : Nat) : State :=
  let s := s.modDom d (fun x => { x with good := g, offset := off })
  let s := s.boundary 0 d (s.dom d).master
  s.setF TIM_STAT_OFFSET (unsgn 16 (max (-32768) (min 32767 s.domOffset)))

/-- After an interval: a domain that was not held is regained at the 16th good one, and DOMSPLIT is clear where the domains are not apart. -/
def State.lockJudged (s : State) (d g : Nat) : State :=
  if !s.domHeld d && decide (g ≥ 16) then ((s.setF (domLock d) 1).modDom d (fun x => { x with lockedAt := s.now })).domCheck
  else if s.domApart then s else s.setF TIM_STAT_DOMSPLIT 0

/-- The clock stepped to a domain. -/
def State.stepClock (s : State) (off : Int) : State :=
  { s with now := ((s.now : Int) + off).toNat, tick := ((s.now : Int) + off).toNat / 62500, plant := { s.plant with stepped := true } }

/-- The interval steps the clock: in START, once, for the active domain. -/
def State.syncSteps (s : State) (d : Nat) : Prop := s.getF PAR_STAT_STATE = 0 ∧ s.plant.stepped = false ∧ s.getF TIM_STAT_ACTIVE = d

/-- PTP_SYNC that does not step the clock. -/
theorem execPtpSync_slews {s : State} (dom : Bool) (off : Int) (hp : s.kerb.phase ≠ .off) (hn : ¬ s.syncSteps (b2n dom)) :
    exec (.ptpSync dom off) s = .next ((s.servo (b2n dom) off ((s.dom (b2n dom)).goodNext off)).lockJudged (b2n dom) ((s.dom (b2n dom)).goodNext off)) := by
  have hstep : (decide (s.getF PAR_STAT_STATE = 0) && !s.plant.stepped && decide (s.getF TIM_STAT_ACTIVE = b2n dom)) = false := by
    unfold State.syncSteps at hn
    rw [Bool.eq_false_iff]
    simpa [and_assoc] using hn
  refine congrArg Host.Outcome.next ((State.powered_on hp _).trans ?_)
  dsimp only
  rw [hstep]
  rfl

/-- PTP_SYNC that steps it: the domain then has no offset. -/
theorem execPtpSync_steps {s : State} (dom : Bool) (off : Int) (hp : s.kerb.phase ≠ .off) (hs : s.syncSteps (b2n dom)) :
    exec (.ptpSync dom off) s = .next (((s.stepClock off).servo (b2n dom) 0 (sat 32 ((s.dom (b2n dom)).good + 1))).lockJudged (b2n dom) (sat 32 ((s.dom (b2n dom)).good + 1))) := by
  obtain ⟨h0, hst, ha⟩ := hs
  have hstep : (decide (s.getF PAR_STAT_STATE = 0) && !s.plant.stepped && decide (s.getF TIM_STAT_ACTIVE = b2n dom)) = true := by
    rw [h0, hst, ha]
    simp
  refine congrArg Host.Outcome.next ((State.powered_on hp _).trans ?_)
  dsimp only
  rw [hstep]
  rfl

section
variable {s : State} (h : s.RegsOk)
include h

/-- What an interval leaves: OFFSET, and the domain's servo. -/
theorem State.servo_does (d : Nat) (off : Int) (g : Nat) : Chg s (s.servo d off g) [(TIM_STAT_OFFSET, 0)] ∧ (s.servo d off g).dom d = { s.dom d with good := g, offset := off } ∧
    (s.servo d off g).getF TIM_STAT_OFFSET = unsgn 16 (max (-32768) (min 32767 (s.servo d off g).domOffset)) ∧
    ∃ r o, s.servo d off g = { s.modDom d (fun x => { x with good := g, offset := off }) with regs := r, out := o } := by
  unfold State.servo
  obtain ⟨o, e⟩ := (s.modDom d (fun x => { x with good := g, offset := off })).boundary_frame 0 d ((s.modDom d (fun x => { x with good := g, offset := off })).dom d).master
  dsimp only
  rw [e]
  generalize hv : ({ s.modDom d (fun x => { x with good := g, offset := off }) with out := o } : State) = v
  have c : Chg s v [] := (Chg.refl h).same (by rw [← hv]; rfl)
  have hdom : v.dom d = { s.dom d with good := g, offset := off } := by
    rw [← hv]
    exact State.dom_modDom s d (fun x => { x with good := g, offset := off })
  have hbits : ∀ i : Int, unsgn 16 i < 2 ^ 16 := fun i => by unfold unsgn; omega
  exact ⟨c.setF _ _ _, hdom, getF_setF_fits c.ok _ (hbits _), _, o, by rw [← hv]; rfl⟩

/-- Where the domain stays as it is, only DOMSPLIT may be cleared. -/
theorem State.lockJudged_stays {d g : Nat} (hd : s.domHeld d = true ∨ g < 16) : Chg s (s.lockJudged d g) [(TIM_STAT_DOMSPLIT, 0)] ∧ ∃ r, s.lockJudged d g = { s with regs := r } := by
  unfold State.lockJudged
  rw [if_neg (by rcases hd with hd | hd <;> simp [hd])]
  split
  · exact ⟨(Chg.refl h).mono (by simp), s.regs, rfl⟩
  · exact ⟨(Chg.refl h).setF _ _ _, _, rfl⟩

/-- Where it is regained, with the active domain held: its lock shows, from now on, and the clock is not in holdover. -/
theorem State.lockJudged_regained {d g : Nat} (hd : s.domHeld d = false) (hg : 16 ≤ g) (ha : s.getF TIM_STAT_ACTIVE = d ∨ s.domHeld (s.getF TIM_STAT_ACTIVE) = true) :
    (s.lockJudged d g).domHeld d = true ∧ ((s.lockJudged d g).dom d).lockedAt = s.now ∧ (s.lockJudged d g).flag TIM_STAT_HOLDOVER = false := by
  unfold State.lockJudged
  rw [if_pos (by simp [hd, hg])]
  have c := ((Chg.refl h).setF (domLock d) 1 0).same (u := (s.setF (domLock d) 1).modDom d (fun x => { x with lockedAt := s.now })) rfl
  have held : ∀ a, ((s.setF (domLock d) 1).modDom d (fun x => { x with lockedAt := s.now })).domHeld a = if (a = 0 ↔ d = 0) then true else s.domHeld a :=
    fun a => State.domHeld_put h d a 1
  have hacc := State.dom_modDom (s.setF (domLock d) 1) d (fun x => { x with lockedAt := s.now })
  have hact : ((s.setF (domLock d) 1).modDom d (fun x => { x with lockedAt := s.now })).getF TIM_STAT_ACTIVE = s.getF TIM_STAT_ACTIVE :=
    c.only _ _ (by simpa using (domLock_ne d).1)
  generalize (s.setF (domLock d) 1).modDom d (fun x => { x with lockedAt := s.now }) = v at *
  have active : v.domHeld (v.getF TIM_STAT_ACTIVE) = true := by
    rw [hact, held]
    split
    · rfl
    · next hne => exact ha.resolve_left fun e => hne (by rw [e])
  obtain ⟨k, hover, hplant⟩ := State.domCheck_held c.ok active
  refine ⟨?_, ?_, hover⟩
  · rw [State.domHeld_only k (by decide) (by decide), held, if_pos Iff.rfl]
  · unfold State.dom at hacc ⊢
    rw [hplant, hacc]

/-- PTP_SYNC that neither steps the clock nor regains the domain. -/
theorem execPtpSync_takes (dom : Bool) (off : Int) (hp : s.kerb.phase ≠ .off) (hn : ¬ s.syncSteps (b2n dom))
    (hd : s.domHeld (b2n dom) = true ∨ (s.dom (b2n dom)).goodNext off < 16) : Gives (.ptpSync dom off) s fun t =>
      t.dom (b2n dom) = { s.dom (b2n dom) with good := (s.dom (b2n dom)).goodNext off, offset := off } ∧ t.now = s.now ∧
      t.getF TIM_STAT_OFFSET = unsgn 16 (max (-32768) (min 32767 t.domOffset)) := by
  refine ⟨_, execPtpSync_slews dom off hp hn, ?_⟩
  obtain ⟨c, hdom, hoff, r, o, e⟩ := State.servo_does h (b2n dom) off ((s.dom (b2n dom)).goodNext off)
  have hnow : (s.servo (b2n dom) off ((s.dom (b2n dom)).goodNext off)).now = s.now := by rw [e]; rfl
  generalize s.servo (b2n dom) off ((s.dom (b2n dom)).goodNext off) = v at *
  rw [← State.domHeld_only c (by decide) (by decide)] at hd
  obtain ⟨k, q, ej⟩ := State.lockJudged_stays c.ok hd
  have hoff' := (k.only TIM_STAT_OFFSET 0 (by decide)).trans hoff
  rw [ej] at hoff' ⊢
  exact ⟨hdom, hnow, hoff'⟩

/-- PTP_SYNC that regains the domain. -/
theorem execPtpSync_regains (dom : Bool) (off : Int) (hp : s.kerb.phase ≠ .off) (hn : ¬ s.syncSteps (b2n dom)) (hd : s.domHeld (b2n dom) = false)
    (hg : 16 ≤ (s.dom (b2n dom)).goodNext off) (ha : s.getF TIM_STAT_ACTIVE = b2n dom ∨ s.domHeld (s.getF TIM_STAT_ACTIVE) = true) : Gives (.ptpSync dom off) s fun t =>
      t.domHeld (b2n dom) = true ∧ (t.dom (b2n dom)).lockedAt = s.now ∧ t.flag TIM_STAT_HOLDOVER = false := by
  refine ⟨_, execPtpSync_slews dom off hp hn, ?_⟩
  obtain ⟨c, -, -, r, o, e⟩ := State.servo_does h (b2n dom) off ((s.dom (b2n dom)).goodNext off)
  have hnow : (s.servo (b2n dom) off ((s.dom (b2n dom)).goodNext off)).now = s.now := by rw [e]; rfl
  have held : ∀ a, (s.servo (b2n dom) off ((s.dom (b2n dom)).goodNext off)).domHeld a = s.domHeld a := State.domHeld_only c (by decide) (by decide)
  rw [← hnow]
  exact State.lockJudged_regained c.ok ((held _).trans hd) hg (by rwa [held, c.only TIM_STAT_ACTIVE 0 (by decide)])

/-- PTP_SYNC that steps the clock and does not regain the domain. -/
theorem execPtpSync_stepped (dom : Bool) (off : Int) (hp : s.kerb.phase ≠ .off) (hs : s.syncSteps (b2n dom))
    (hd : s.domHeld (b2n dom) = true ∨ (s.dom (b2n dom)).good < 15) : Gives (.ptpSync dom off) s fun t =>
      t.now = ((s.now : Int) + off).toNat ∧ t.tick = ((s.now : Int) + off).toNat / 62500 ∧ t.plant.stepped = true ∧
      t.dom (b2n dom) = { s.dom (b2n dom) with good := sat 32 ((s.dom (b2n dom)).good + 1), offset := 0 } := by
  refine ⟨_, execPtpSync_steps dom off hp hs, ?_⟩
  obtain ⟨c, hdom, -, r, o, e⟩ := State.servo_does (s := s.stepClock off) h (b2n dom) 0 (sat 32 ((s.dom (b2n dom)).good + 1))
  have hclock : ((s.stepClock off).servo (b2n dom) 0 (sat 32 ((s.dom (b2n dom)).good + 1))).now = ((s.now : Int) + off).toNat ∧
      ((s.stepClock off).servo (b2n dom) 0 (sat 32 ((s.dom (b2n dom)).good + 1))).tick = ((s.now : Int) + off).toNat / 62500 ∧
      ((s.stepClock off).servo (b2n dom) 0 (sat 32 ((s.dom (b2n dom)).good + 1))).plant.stepped = true := by
    rw [e]
    exact ⟨rfl, rfl, rfl⟩
  have hd' : (s.stepClock off).domHeld (b2n dom) = true ∨ sat 32 ((s.dom (b2n dom)).good + 1) < 16 := hd.imp id fun hlt => by unfold sat; omega
  generalize (s.stepClock off).servo (b2n dom) 0 (sat 32 ((s.dom (b2n dom)).good + 1)) = v at *
  rw [← State.domHeld_only c (by decide) (by decide)] at hd'
  obtain ⟨-, q, ej⟩ := State.lockJudged_stays c.ok hd'
  rw [ej]
  exact ⟨hclock.1, hclock.2.1, hclock.2.2, hdom⟩

end

/-! ### A domain lost, and the change of the active one (R302 to R304) -/

section
variable {s : State} (h : s.RegsOk)
include h

/-- A domain that was held and is lost, with its report. -/
def State.domDropped (s : State) (d : Nat) : State := State.report ((s.setF (domLock d) 0).modDom d (fun x => { x with good := 0 })) 0x0005 d s.now 0 0

/-- Its lock is clear; the other one's, and the active domain, are as before. -/
theorem State.domDropped_does (d : Nat) : (s.domDropped d).RegsOk ∧ (s.domDropped d).getF TIM_STAT_ACTIVE = s.getF TIM_STAT_ACTIVE ∧
    ∀ a, (s.domDropped d).domHeld a = if (a = 0 ↔ d = 0) then false else s.domHeld a := by
  have c := ((Chg.refl h).setF (domLock d) 0 0).same (u := (s.setF (domLock d) 0).modDom d (fun x => { x with good := 0 })) rfl
  obtain ⟨k, -⟩ := State.report_does c.ok 0x0005 d s.now 0 0
  refine ⟨k.ok, (k.only _ _ (by decide)).trans (c.only _ _ (by simpa using (domLock_ne d).1)), fun a => ?_⟩
  exact (State.domHeld_only k (by decide) (by decide) a).trans (State.domHeld_put h d a 0)

/-- With neither domain held the clock stays as it is but for DOMSPLIT. -/
theorem State.domCheck_none (hn : ∀ a, s.domHeld a = false) : Chg s s.domCheck [(TIM_STAT_DOMSPLIT, 0)] := by
  have hap : s.domApart = false := by
    unfold State.domApart
    rw [hn 0]
    rfl
  have c := (Chg.refl h).setF TIM_STAT_DOMSPLIT 0 0
  have none : ∀ a, (s.setF TIM_STAT_DOMSPLIT 0).domHeld a = false := fun a => (State.domHeld_only c (by decide) (by decide) a).trans (hn a)
  unfold State.domCheck
  simp only [hap, none, Bool.false_eq_true, if_false]
  exact c

omit h in
/-- PTP_DOMAIN_LOST of a domain that is held. -/
theorem execPtpDomainLost_held (dom : Bool) (hp : s.kerb.phase ≠ .off) (hd : s.domHeld (b2n dom) = true) : exec (.ptpDomainLost dom) s =
    .next (if !(s.domDropped (b2n dom)).domHeld 0 && !(s.domDropped (b2n dom)).domHeld 1 then (s.domDropped (b2n dom)).setF TIM_STAT_HOLDOVER 1 else s.domDropped (b2n dom)).domCheck := by
  refine congrArg Host.Outcome.next ((State.powered_on hp _).trans ?_)
  dsimp only
  rw [hd]
  rfl

omit h in
/-- Of the two domains, the other one than `b2n dom` is `1 - b2n dom`. -/
theorem b2n_other (dom : Bool) (a : Nat) : ¬ (a = 0 ↔ b2n dom = 0) → (a = 0 ↔ 1 - b2n dom = 0) := by
  cases dom <;> simp [b2n]

/-- With the other domain not held either: the clock is in holdover. -/
theorem execPtpDomainLost_last (dom : Bool) (hp : s.kerb.phase ≠ .off) (hd : s.domHeld (b2n dom) = true) (ho : s.domHeld (1 - b2n dom) = false) :
    Gives (.ptpDomainLost dom) s fun t => t.domHeld (b2n dom) = false ∧ t.flag TIM_STAT_HOLDOVER = true := by
  obtain ⟨ok, -, held⟩ := State.domDropped_does h (b2n dom)
  have hexec := execPtpDomainLost_held dom hp hd
  generalize s.domDropped (b2n dom) = v at *
  have none : ∀ a, v.domHeld a = false := fun a => by
    rw [held]
    split
    · rfl
    · next hne => exact (s.domHeld_congr (b2n_other dom a hne)).trans ho
  rw [none, none, if_pos (by decide)] at hexec
  have c := (Chg.refl ok).setF TIM_STAT_HOLDOVER 1 0
  have none' : ∀ a, (v.setF TIM_STAT_HOLDOVER 1).domHeld a = false := fun a => (State.domHeld_only c (by decide) (by decide) a).trans (none a)
  have k := State.domCheck_none c.ok none'
  refine ⟨_, hexec, (State.domHeld_only k (by decide) (by decide) _).trans (none' _), ?_⟩
  rw [State.flag_of_getF (k.only TIM_STAT_HOLDOVER 0 (by decide))]
  exact flag_setB_self ok true rfl

/-- With the other one held and active: it goes on. -/
theorem execPtpDomainLost_other (dom : Bool) (hp : s.kerb.phase ≠ .off) (hd : s.domHeld (b2n dom) = true) (ho : s.domHeld (1 - b2n dom) = true)
    (ha : s.getF TIM_STAT_ACTIVE = 1 - b2n dom) : Gives (.ptpDomainLost dom) s fun t =>
      t.domHeld (b2n dom) = false ∧ t.flag TIM_STAT_HOLDOVER = false ∧ t.getF TIM_STAT_ACTIVE = 1 - b2n dom := by
  obtain ⟨ok, hact, held⟩ := State.domDropped_does h (b2n dom)
  have hexec := execPtpDomainLost_held dom hp hd
  generalize s.domDropped (b2n dom) = v at *
  have hother : v.domHeld (1 - b2n dom) = true := by
    rw [held, if_neg (by cases dom <;> simp [b2n])]
    exact ho
  have hone : (!v.domHeld 0 && !v.domHeld 1) = false := by
    cases dom
    · rw [show v.domHeld 1 = true from hother, Bool.and_comm]
      rfl
    · rw [show v.domHeld 0 = true from hother]
      rfl
  rw [hone, if_neg (by decide)] at hexec
  obtain ⟨k, hover, -⟩ := State.domCheck_held ok (by rw [hact, ha]; exact hother)
  refine ⟨_, hexec, ?_, hover, (k.only _ _ (by decide)).trans (hact.trans ha)⟩
  rw [State.domHeld_only k (by decide) (by decide), held, if_pos Iff.rfl]

omit h in
/-- Of one that is not held only the count of good intervals ends. -/
theorem execPtpDomainLost_notHeld (dom : Bool) (hp : s.kerb.phase ≠ .off) (hd : s.domHeld (b2n dom) = false) :
    exec (.ptpDomainLost dom) s = .next (s.modDom (b2n dom) (fun x => { x with good := 0 })) := by
  refine congrArg Host.Outcome.next ((State.powered_on hp _).trans ?_)
  dsimp only
  rw [hd]
  rfl

/-- The active domain is to be `d`: the Lead of a pair announces it, and a module that neither leads one nor follows has changed (R303, R304). -/
def DomChosen (s : State) (d : Nat) (t : State) : Prop :=
  (s.getF PAR_STAT_STATE = 6 → t.plant.domAt = some (s.tick + 2 * s.pf, d)) ∧ (s.getF PAR_STAT_STATE ∉ [2, 3, 4, 6] → t.getF TIM_STAT_ACTIVE = d % 2)

/-- DOMPREF has been held for 60 s, and the clock may go back to it. -/
def State.switchesBack (s : State) : Prop :=
  s.flag TIM_CTL_AUTOSWITCH = true ∧ s.getF TIM_STAT_ACTIVE ≠ s.getF TIM_CTL_DOMPREF ∧ s.domHeld (s.getF TIM_CTL_DOMPREF) = true ∧ s.flag TIM_STAT_DOMSPLIT = false ∧
    (s.dom (s.getF TIM_CTL_DOMPREF)).lockedAt + 60000000000 ≤ s.now

/-- DOMAIN_SWITCH_BACK then chooses it. -/
theorem execDomainSwitchBack_back (hp : s.kerb.phase ≠ .off) (hb : s.switchesBack) : Gives .domainSwitchBack s (DomChosen s (s.getF TIM_CTL_DOMPREF)) := by
  obtain ⟨hau, hne, hh, hsp, ht⟩ := hb
  obtain ⟨lead, alone, -⟩ := State.domChoose_does h (s.getF TIM_CTL_DOMPREF) hne
  exact ⟨_, congrArg Host.Outcome.next ((State.powered_on hp _).trans (if_pos (by simp [hau, hne, hh, hsp, ht]))), lead, alone⟩

omit h in
/-- Else it changes nothing. -/
theorem execDomainSwitchBack_stays (hp : s.kerb.phase ≠ .off) (hb : ¬ s.switchesBack) : exec .domainSwitchBack s = .next s :=
  congrArg Host.Outcome.next ((State.powered_on hp _).trans (if_neg (by
    unfold State.switchesBack at hb
    simpa [and_assoc] using hb)))

/-- DOMAIN_SPLIT of domains that are apart shows it. -/
theorem execDomainSplit_shows (hp : s.kerb.phase ≠ .off) (ha : s.domApart = true) (hf : s.flag TIM_STAT_DOMSPLIT = false) : Gives (.domainSplit true) s fun t =>
    t.flag TIM_STAT_DOMSPLIT = true ∧ t = { s with regs := t.regs, arc := t.arc } ∧ OnlyRegs s t [(TIM_STAT_DOMSPLIT, 0)] := by
  have hexec : exec (.domainSplit true) s = .next ((s.setF TIM_STAT_DOMSPLIT 1).evHw 22 [unsgn 64 s.domOffset]) :=
    congrArg Host.Outcome.next ((State.powered_on hp _).trans ((if_pos rfl).trans (if_pos (by rw [ha, hf]; rfl))))
  obtain ⟨a, e⟩ := State.evHw_frame (s.setF TIM_STAT_DOMSPLIT 1) 22 [unsgn 64 s.domOffset]
  rw [e] at hexec
  exact ⟨_, hexec, flag_setB_self h true rfl, rfl, (((Chg.refl h).setF TIM_STAT_DOMSPLIT 1 0).same rfl).only⟩

omit h in
/-- Where it shows already, or the domains are not apart, nothing changes. -/
theorem execDomainSplit_idle (hp : s.kerb.phase ≠ .off) (ha : s.domApart = false ∨ s.flag TIM_STAT_DOMSPLIT = true) : exec (.domainSplit true) s = .next s :=
  congrArg Host.Outcome.next ((State.powered_on hp _).trans ((if_pos rfl).trans (if_neg (by rcases ha with ha | ha <;> simp [ha]))))

/-- The end of a split clears it. -/
theorem execDomainSplit_ends (hp : s.kerb.phase ≠ .off) (ha : s.domApart = false) : Gives (.domainSplit false) s fun t =>
    t.flag TIM_STAT_DOMSPLIT = false ∧ t = { s with regs := t.regs } ∧ OnlyRegs s t [(TIM_STAT_DOMSPLIT, 0)] :=
  ⟨s.setF TIM_STAT_DOMSPLIT 0, congrArg Host.Outcome.next ((State.powered_on hp _).trans ((if_neg (by decide)).trans (if_neg (by rw [ha]; decide)))),
    flag_setB_self h false rfl, rfl, ((Chg.refl h).setF TIM_STAT_DOMSPLIT 0 0).only⟩

omit h in
/-- While they are apart it does not end. -/
theorem execDomainSplit_lasts (hp : s.kerb.phase ≠ .off) (ha : s.domApart = true) : exec (.domainSplit false) s = .next s :=
  congrArg Host.Outcome.next ((State.powered_on hp _).trans ((if_neg (by decide)).trans (if_pos ha)))

/-! ### SWITCH (R303, R304) -/

/-- Whether a domain is held reads the same where the count of refused writes is set aside. -/
theorem domHeld_aside (d : Nat) : s.aside.domHeld d = s.domHeld d := State.domHeld_only (Chg.aside h) (by decide) (by decide) d

/-- SWITCH that is ignored: on a module that leaves the choice to its Lead, and where the other domain is not held. -/
theorem execTimSwitch_ignored (hr : s.Runs) (p : Path) {c : Nat}
    (hc : (c = 3 ∧ s.getF PAR_STAT_STATE ∈ [2, 3, 4]) ∨ (c = 4 ∧ s.getF PAR_STAT_STATE ∉ [2, 3, 4] ∧ s.domHeld (1 - s.getF TIM_STAT_ACTIVE) = false)) :
    Gives (.timSwitch p) s fun t => RegsOnlyW 2 s t [(KRB_IGNSTAT_CAUSE, 0), (KRB_IGNADDR_OFFSET, 0), (KRB_IGNPATH_PATH, 0)] ∧ t.getF KRB_IGNSTAT_CAUSE = c := by
  have hu : s.aside.cmdTimSwitch p = s.aside.ignored p 0x20000 c := by
    unfold State.cmdTimSwitch
    dsimp only
    rw [pairState_aside h, getF_aside h TIM_STAT_ACTIVE (by decide), domHeld_aside h]
    rcases hc with ⟨rfl, hs⟩ | ⟨rfl, hs, hh⟩
    · exact if_pos (by simpa [or_assoc] using hs)
    · exact (if_neg (by simpa [or_assoc] using hs)).trans (if_pos (by rw [hh]; rfl))
  exact ⟨_, rfl, State.written_ign (f := fun s => s.cmdTimSwitch p) hr h hu (by omega) (by decide) (by decide)⟩

/-- SWITCH that is taken chooses the other domain. -/
theorem execTimSwitch_taken (hr : s.Runs) (p : Path) (hs : s.getF PAR_STAT_STATE ∉ [2, 3, 4]) (hh : s.domHeld (1 - s.getF TIM_STAT_ACTIVE) = true) :
    Gives (.timSwitch p) s (DomChosen s (1 - s.getF TIM_STAT_ACTIVE)) := by
  have hact : s.aside.getF TIM_STAT_ACTIVE = s.getF TIM_STAT_ACTIVE := getF_aside h _ (by decide)
  have hu : s.aside.cmdTimSwitch p = s.aside.domChoose (1 - s.getF TIM_STAT_ACTIVE) := by
    unfold State.cmdTimSwitch
    dsimp only
    rw [pairState_aside h, hact, domHeld_aside h]
    exact (if_neg (by simpa [or_assoc] using hs)).trans (if_neg (by rw [hh]; decide))
  obtain ⟨lead, alone, -, hk, c⟩ := State.domChoose_does (Chg.aside h).ok (1 - s.getF TIM_STAT_ACTIVE) (by rw [hact]; omega)
  rw [pairState_aside h, State.pf_aside h] at lead
  rw [pairState_aside h] at alone
  obtain ⟨e, -, reads⟩ := State.written_does (p := p) (off := 0x20000) (f := fun s => s.cmdTimSwitch p) hr h hu c (hr.not_boot hk)
  exact ⟨_, rfl, fun h6 => (congrArg (fun t => t.plant.domAt) e).trans (lead h6), fun hn => (reads _ _ (by decide)).trans (alone hn)⟩

end

/-! ### Pulse outputs (R306) -/

/-- What a write leaves to be read of a register is the same where the count of refused writes is set aside. -/
theorem asWritten_aside {s : State} (h : s.RegsOk) (g : Fld) {ix : Nat} (hk : g.key ix ≠ KRB_IGNSTAT_IGNCNT.key 0) : s.aside.asWritten g ix = s.asWritten g ix := by
  unfold State.asWritten
  rw [getF_aside h g hk]
  rfl

/-- The train that the registers of an output describe, its start taken in the running span of 2^32 s. -/
def State.pulseTrain (s : State) (o : Nat) : PulseRt :=
  ⟨(s.now / 1000000000 / 2 ^ 32 * 2 ^ 32 + s.asWritten TIM_POSTART_SEC o) * 1000000000 + s.asWritten TIM_POSTARTNS_NS o, s.asWritten TIM_POPERIOD_NS o,
    s.asWritten TIM_POWIDTH_NS o, decide (s.asWritten TIM_POCTL_POL o ≠ 0), s.asWritten TIM_POCTL_COUNT o, false⟩

/-- Settings outside the limits of R306. -/
def PulseRt.bad (r : PulseRt) : Prop := r.period < 1000 ∨ 4000000000 < r.period ∨ r.width < 8 ∨ r.period < r.width + 8

/-- A train armed: the output runs, and its settings go to the pins. -/
def State.arm (s : State) (o : Nat) (r : PulseRt) : State :=
  let s := { s with plant := { s.plant with pulses := tabSet s.plant.pulses o r } }
  ((s.setF TIM_POCTL_RUNNING 1 o).setF TIM_POCTL_LATE 0 o).emit .lines 0x300 [o, r.start, r.period, r.width, b2n r.pol, r.count]

/-- RUNNING and LATE then show it. -/
theorem State.armPulse_does {s : State} (h : s.RegsOk) {o : Nat} (hn : o < 65536) (r : PulseRt) : (s.arm o r).flag TIM_POCTL_RUNNING o = true ∧
    (s.arm o r).flag TIM_POCTL_LATE o = false ∧ Chg s (s.arm o r) [(TIM_POCTL_LATE, o), (TIM_POCTL_RUNNING, o)] := by
  have c0 := (Chg.refl h).same (u := { s with plant := { s.plant with pulses := tabSet s.plant.pulses o r } }) rfl
  unfold State.arm
  dsimp only
  generalize ({ s with plant := { s.plant with pulses := tabSet s.plant.pulses o r } } : State) = v at *
  have c1 := c0.setF TIM_POCTL_RUNNING 1 o
  have hrun : ((v.setF TIM_POCTL_RUNNING 1 o).setF TIM_POCTL_LATE 0 o).flag TIM_POCTL_RUNNING o = true :=
    (flag_setF_ne c1.ok (key_ne_of_place hn hn (by decide))).trans (flag_setB_self c0.ok true rfl)
  have hlate : ((v.setF TIM_POCTL_RUNNING 1 o).setF TIM_POCTL_LATE 0 o).flag TIM_POCTL_LATE o = false := flag_setB_self c1.ok false rfl
  exact ⟨hrun, hlate, (c1.setF TIM_POCTL_LATE 0 o).same rfl⟩

/-- PULSE_ARM of a start less than 10 µs ahead. -/
theorem State.cmdPulseArm_late {s : State} {p : Path} {o : Nat} (ho : s.selIx p .pulse = o) (ht : (s.pulseTrain o).start < s.now + 10000) :
    s.cmdPulseArm p = (s.ignored p 0x20034 4).setF TIM_POCTL_LATE 1 o := by
  unfold State.cmdPulseArm
  rw [ho]
  exact if_pos ht

/-- PULSE_ARM of settings outside the limits. -/
theorem State.cmdPulseArm_bad {s : State} {p : Path} {o : Nat} (ho : s.selIx p .pulse = o) (ht : s.now + 10000 ≤ (s.pulseTrain o).start) (hb : (s.pulseTrain o).bad) :
    s.cmdPulseArm p = s.ignored p 0x20034 5 := by
  unfold State.cmdPulseArm
  rw [ho]
  unfold PulseRt.bad State.pulseTrain at hb
  exact (if_neg (Nat.not_lt.mpr ht)).trans (if_pos (by simpa [or_assoc] using hb))

/-- PULSE_ARM that is taken. -/
theorem State.cmdPulseArm_armed {s : State} {p : Path} {o : Nat} (ho : s.selIx p .pulse = o) (ht : s.now + 10000 ≤ (s.pulseTrain o).start) (hb : ¬ (s.pulseTrain o).bad) :
    s.cmdPulseArm p = s.arm o (s.pulseTrain o) := by
  unfold State.cmdPulseArm
  rw [ho]
  unfold PulseRt.bad State.pulseTrain at hb
  exact (if_neg (Nat.not_lt.mpr ht)).trans (if_neg (by simpa [or_assoc] using hb))

section
variable {s : State} (h : s.RegsOk) (hr : s.Runs) (p : Path)
include h

/-- The train described is the same where the count of refused writes is set aside. -/
theorem pulseTrain_aside {o : Nat} (ho : o < 65536) : s.aside.pulseTrain o = s.pulseTrain o := by
  have apart : ∀ g ∈ [TIM_POSTART_SEC, TIM_POSTARTNS_NS, TIM_POPERIOD_NS, TIM_POWIDTH_NS, TIM_POCTL_POL, TIM_POCTL_COUNT], s.aside.asWritten g o = s.asWritten g o := fun g hg =>
    asWritten_aside h g (key_ne_of_place ho (by decide) ((by decide : ∀ g ∈ [TIM_POSTART_SEC, TIM_POSTARTNS_NS, TIM_POPERIOD_NS, TIM_POWIDTH_NS, TIM_POCTL_POL, TIM_POCTL_COUNT],
      g.off * 32 + g.lo ≠ KRB_IGNSTAT_IGNCNT.off * 32 + KRB_IGNSTAT_IGNCNT.lo) g hg))
  unfold State.pulseTrain
  rw [apart _ (by simp), apart TIM_POSTARTNS_NS (by simp), apart TIM_POPERIOD_NS (by simp), apart TIM_POWIDTH_NS (by simp), apart TIM_POCTL_POL (by simp),
    apart TIM_POCTL_COUNT (by simp)]
  rfl

/-- The output selected is the same too. -/
theorem pulseSel_aside : s.aside.selIx p .pulse = s.getF TIM_POSEL_OUT p.code := getF_aside h _ (key_ne_of_place (Path.code_lt p) (by decide) (by decide))

include hr

/-- PULSE_ARM of a late start is ignored with cause 4, and LATE shows it. -/
theorem execPulseArm_late {o : Nat} (ho : o < 2) (hsel : s.getF TIM_POSEL_OUT p.code = o) (ht : (s.pulseTrain o).start < s.now + 10000) : Gives (.pulseArm p) s fun t =>
    t.getF KRB_IGNSTAT_CAUSE = 4 ∧ t.flag TIM_POCTL_LATE o = true ∧ t.plant = s.plant := by
  have hn : o < 65536 := by omega
  have hu := State.cmdPulseArm_late (s := s.aside) ((pulseSel_aside h p).trans hsel) (by rw [pulseTrain_aside h hn]; exact ht)
  obtain ⟨⟨r, e⟩, c, hcause, -, -⟩ := State.ignored_does (Chg.aside h).ok p (off := 0x20034) (by decide) 4
  have hlate : ((s.aside.ignored p 0x20034 4).setF TIM_POCTL_LATE 1 o).flag TIM_POCTL_LATE o = true := flag_setB_self c.ok true rfl
  have hcause' := (getF_setF_ne (s.aside.ignored p 0x20034 4) 1 c.ok (key_ne_of_place (f := KRB_IGNSTAT_CAUSE) (g := TIM_POCTL_LATE) (ix := 0) (by decide) hn (by decide))).trans hcause
  obtain ⟨et, -, reads⟩ := State.written_does (p := p) (off := 0x20034) (f := fun s => s.cmdPulseArm p) hr h hu (c.setF TIM_POCTL_LATE 1 o)
    (hr.not_boot (by rw [e]; rfl))
  refine ⟨_, rfl, (reads _ _ (by decide)).trans hcause', ?_, (congrArg State.plant et).trans (by rw [e]; rfl)⟩
  unfold State.flag at hlate ⊢
  rw [reads _ _ (book_ne hn (by decide))]
  exact hlate

/-- PULSE_ARM of settings outside the limits is ignored with cause 5. -/
theorem execPulseArm_bad {o : Nat} (ho : o < 2) (hsel : s.getF TIM_POSEL_OUT p.code = o) (ht : s.now + 10000 ≤ (s.pulseTrain o).start) (hb : (s.pulseTrain o).bad) :
    Gives (.pulseArm p) s fun t => RegsOnlyW 2 s t [(KRB_IGNSTAT_CAUSE, 0), (KRB_IGNADDR_OFFSET, 0), (KRB_IGNPATH_PATH, 0)] ∧ t.getF KRB_IGNSTAT_CAUSE = 5 := by
  have htr := pulseTrain_aside h (o := o) (by omega)
  have hu := State.cmdPulseArm_bad (s := s.aside) ((pulseSel_aside h p).trans hsel) (by rw [htr]; exact ht) (by rw [htr]; exact hb)
  exact ⟨_, rfl, State.written_ign (f := fun s => s.cmdPulseArm p) hr h hu (by decide) (by decide) (by decide)⟩

/-- PULSE_ARM that is taken: the train stands armed and runs. -/
theorem execPulseArm_armed {o : Nat} (ho : o < 2) (hsel : s.getF TIM_POSEL_OUT p.code = o) (ht : s.now + 10000 ≤ (s.pulseTrain o).start) (hb : ¬ (s.pulseTrain o).bad) :
    Gives (.pulseArm p) s fun t => t.plant = { s.plant with pulses := tabSet s.plant.pulses o (s.pulseTrain o) } ∧
      t.flag TIM_POCTL_RUNNING o = true ∧ t.flag TIM_POCTL_LATE o = false ∧ t = { s with regs := t.regs, plant := t.plant, out := t.out } ∧
      OnlyRegsW 2 s t [(TIM_POCTL_RUNNING, o), (TIM_POCTL_LATE, o)] := by
  have hn : o < 65536 := by omega
  have htr := pulseTrain_aside h hn
  have hu := State.cmdPulseArm_armed (s := s.aside) ((pulseSel_aside h p).trans hsel) (by rw [htr]; exact ht) (by rw [htr]; exact hb)
  rw [htr] at hu
  generalize s.pulseTrain o = r at *
  obtain ⟨hrun, hlate, c⟩ := State.armPulse_does (Chg.aside h).ok hn r
  obtain ⟨et, only, reads⟩ := State.written_does (p := p) (off := 0x20034) (f := fun s => s.cmdPulseArm p) hr h hu c (hr.not_boot rfl)
  refine ⟨_, rfl, congrArg State.plant et, ?_, ?_, ?_, only.mono (by simp)⟩
  · unfold State.flag at hrun ⊢
    rw [reads _ _ (book_ne hn (by decide))]
    exact hrun
  · unfold State.flag at hlate ⊢
    rw [reads _ _ (book_ne hn (by decide))]
    exact hlate
  · rw [congrArg State.plant et, congrArg State.out et]
    exact et

/-- PULSE_STOP of an output without a train writes nothing. -/
theorem execPulseStop_none {o : Nat} (hsel : s.getF TIM_POSEL_OUT p.code = o) (hn : tabGet? s.plant.pulses o = none) : Gives (.pulseStop p) s fun t =>
    t = { s with regs := t.regs } ∧ OnlyRegsW 2 s t [] := by
  have hu : s.aside.cmdPulseStop p = s.aside := by
    unfold State.cmdPulseStop
    rw [pulseSel_aside h, hsel]
    dsimp only
    rw [show tabGet? s.aside.plant.pulses o = none from hn]
  exact ⟨_, rfl, State.written_plain (u := s.aside) (p := p) (off := 0x20034) (f := fun s => s.cmdPulseStop p) hr h hu rfl (hr.not_boot rfl)⟩

/-- PULSE_STOP of a train: it ends after the pulse in progress. -/
theorem execPulseStop_stops {o : Nat} {r : PulseRt} (hsel : s.getF TIM_POSEL_OUT p.code = o) (hp : tabGet? s.plant.pulses o = some r) : Gives (.pulseStop p) s fun t =>
    tabGet? t.plant.pulses o = some { r with stopping := true } ∧ t.out = s.out ++ [⟨.lines, 0x301, [o], []⟩] ∧
    t = { s with regs := t.regs, plant := t.plant, out := t.out } ∧ OnlyRegsW 2 s t [] := by
  have hu : s.aside.cmdPulseStop p =
      State.emit { s.aside with plant := { s.plant with pulses := tabSet s.plant.pulses o { r with stopping := true } } } .lines 0x301 [o] := by
    unfold State.cmdPulseStop
    rw [pulseSel_aside h, hsel]
    dsimp only
    rw [show tabGet? s.aside.plant.pulses o = some r from hp]
    rfl
  obtain ⟨et, only⟩ := State.written_plain (p := p) (off := 0x20034) (f := fun s => s.cmdPulseStop p) hr h hu rfl (hr.not_boot rfl)
  refine ⟨_, rfl, ?_, congrArg State.out et, ?_, only⟩
  · rw [congrArg State.plant et]
    exact tabGet?_tabSet_self _ _ _
  · rw [congrArg State.plant et, congrArg State.out et]
    exact et

end

section
variable {s : State} (out : Fin 2)

/-- PULSE_TRAIN_END of an output without a train, or of a train without end that was not stopped, changes nothing. -/
theorem execPulseTrainEnd_idle (hn : ∀ r, tabGet? s.plant.pulses out.val = some r → r.count = 0 ∧ r.stopping = false) : exec (.pulseTrainEnd out) s = .next s := by
  show execPulseTrainEnd out s = _
  unfold execPulseTrainEnd done
  cases hp : tabGet? s.plant.pulses out.val with
  | none => rfl
  | some r =>
    obtain ⟨hc, hs⟩ := hn r hp
    exact congrArg Host.Outcome.next (if_neg (by simp [hc, hs]))

/-- PULSE_TRAIN_END of a counted train, or of one that was stopped: the output has none. -/
theorem execPulseTrainEnd_ends (h : s.RegsOk) {r : PulseRt} (hp : tabGet? s.plant.pulses out.val = some r) (ht : tabRising s.plant.pulses = true)
    (he : r.count ≠ 0 ∨ r.stopping = true) : Gives (.pulseTrainEnd out) s fun t => tabGet? t.plant.pulses out.val = none ∧ t.flag TIM_POCTL_RUNNING out.val = false ∧
      t = { s with regs := t.regs, plant := t.plant } ∧ OnlyRegs s t [(TIM_POCTL_RUNNING, out.val)] := by
  have hexec : exec (.pulseTrainEnd out) s = .next (State.setF { s with plant := { s.plant with pulses := tabDel s.plant.pulses out.val } } TIM_POCTL_RUNNING 0 out.val) := by
    show execPulseTrainEnd out s = _
    unfold execPulseTrainEnd done
    rw [hp]
    exact congrArg Host.Outcome.next (if_pos (by simpa using he))
  have c := (Chg.refl h).same (u := { s with plant := { s.plant with pulses := tabDel s.plant.pulses out.val } }) rfl
  exact ⟨_, hexec, tabGet?_tabDel_self _ _ ht, flag_setB_self c.ok false rfl, rfl, (c.setF TIM_POCTL_RUNNING 0 out.val).only⟩

end

/-! ### Captured edges (R307, R308) -/

/-- An edge that is selected: it is numbered and entered, and asks for its event task. -/
def State.capture (s : State) (inp falling : Bool) (t : Nat) : State :=
  let s' : State := { s with plant := { s.plant with capSeq := (s.plant.capSeq + 1) % 2 ^ 32 } }
  let s' := s'.capPut (capEntry t (b2n inp + 2 * b2n falling) s.plant.capSeq 0 0)
  s'.trigger (.tio s'.seatB (b2n inp)) t

/-- With a measurement enabled, an edge numbered `seq` opens or closes one. -/
def State.meter (s : State) (inp falling : Bool) (t seq : Nat) : State :=
  if !s.flag TIM_CAPCFG_MEASEN then s
  else if s.flag TIM_CAPCFG_STARTIN = inp && s.flag TIM_CAPCFG_STARTEDGE = falling then { s with plant := { s.plant with meas := some ⟨t, seq, s.plant.meas.isSome⟩ } }
  else if s.flag TIM_CAPCFG_STARTIN ≠ inp && s.flag TIM_CAPCFG_STOPEDGE = falling then s.measStop inp falling t seq
  else s

/-- The edge is one that is selected. -/
def State.edgeSel (s : State) (inp falling : Bool) : Bool := bitOf (s.getF (if inp then TIM_CAPCFG_EDGE3 else TIM_CAPCFG_EDGE2)) (b2n falling)

/-- TIO_CAPTURE_EDGE of an edge that is not selected changes nothing. -/
theorem execTioCaptureEdge_idle {s : State} {inp falling : Bool} (x : Nat) (hs : s.edgeSel inp falling = false) : exec (.tioCaptureEdge inp falling x) s = .next s :=
  congrArg Host.Outcome.next (if_pos ((congrArg (fun b => !b) hs).trans rfl))

/-- One that is selected is captured, and then measured with. -/
theorem execTioCaptureEdge_selected {s : State} {inp falling : Bool} (x : Nat) (hs : s.edgeSel inp falling = true) :
    exec (.tioCaptureEdge inp falling x) s = .next ((s.capture inp falling (x / 4 * 4)).meter inp falling (x / 4 * 4) s.plant.capSeq) :=
  congrArg Host.Outcome.next (if_neg (by rw [show bitOf _ _ = true from hs]; decide))

section
variable {s : State} (h : s.RegsOk)
include h

/-- A capture leaves TIM_CAPCFG as it is, and of the plant only the number of the next edge advances. -/
theorem State.capture_does (inp falling : Bool) (t : Nat) : (s.capture inp falling t).RegsOk ∧
    (∀ g ∈ [TIM_CAPCFG_MEASEN, TIM_CAPCFG_STARTIN, TIM_CAPCFG_STARTEDGE, TIM_CAPCFG_STOPEDGE], (s.capture inp falling t).flag g = s.flag g) ∧
    (s.capture inp falling t).plant = { s.plant with capSeq := (s.plant.capSeq + 1) % 2 ^ 32 } := by
  unfold State.capture
  obtain ⟨c, r, q, pr, e⟩ := State.capPut_does (s := { s with plant := { s.plant with capSeq := (s.plant.capSeq + 1) % 2 ^ 32 } }) h
    (capEntry t (b2n inp + 2 * b2n falling) s.plant.capSeq 0 0)
  have hplant := congrArg State.plant e
  dsimp only
  generalize State.capPut { s with plant := { s.plant with capSeq := (s.plant.capSeq + 1) % 2 ^ 32 } } (capEntry t (b2n inp + 2 * b2n falling) s.plant.capSeq 0 0) = v at *
  obtain ⟨sc, e'⟩ := v.trigger_frame (.tio v.seatB (b2n inp)) t
  rw [e']
  refine ⟨c.ok, fun g hg => State.flag_of_getF (c.only g 0 ?_), hplant⟩
  revert g
  decide

/-- The stop edge of a measurement closes it: none is open then, and nothing else of the plant changes. -/
theorem State.measStop_plant (inp falling : Bool) (t seq : Nat) : (s.measStop inp falling t seq).plant = { s.plant with meas := none } := by
  have put : ∀ v : State, v.RegsOk → ∀ bs, (v.capPut bs).plant = v.plant := fun v ok bs => by
    obtain ⟨-, r, q, pr, e⟩ := State.capPut_does ok bs
    rw [e]
  unfold State.measStop
  cases hm : s.plant.meas with
  | none =>
    refine (put s.free.2 h _).trans ?_
    rw [← hm]
    rfl
  | some m =>
    dsimp only
    split
    · exact put _ ((Chg.refl h).same (u := { s with plant := { s.plant with meas := none } }) rfl |>.bump _ _ _).ok _
    · exact put { s with plant := { s.plant with meas := none } } h _

omit h in
/-- An edge that starts a measurement opens it. -/
theorem State.meter_starts {inp falling : Bool} (hen : s.flag TIM_CAPCFG_MEASEN = true) (hi : s.flag TIM_CAPCFG_STARTIN = inp) (he : s.flag TIM_CAPCFG_STARTEDGE = falling) (t seq : Nat) :
    (s.meter inp falling t seq).plant = { s.plant with meas := some ⟨t, seq, s.plant.meas.isSome⟩ } := by
  unfold State.meter
  rw [if_neg (by rw [hen]; decide), if_pos (by simp [hi, he])]

/-- An edge of the other input that stops it closes it. -/
theorem State.meter_stops {inp falling : Bool} (hen : s.flag TIM_CAPCFG_MEASEN = true) (hi : s.flag TIM_CAPCFG_STARTIN = !inp) (he : s.flag TIM_CAPCFG_STOPEDGE = falling) (t seq : Nat) :
    (s.meter inp falling t seq).plant = { s.plant with meas := none } := by
  unfold State.meter
  rw [if_neg (by rw [hen]; decide), if_neg (by simp [hi]), if_pos (by simp [hi, he])]
  exact State.measStop_plant h inp falling t seq

/-- Of the plant a measurement changes nothing else. -/
theorem State.meter_capSeq (inp falling : Bool) (t seq : Nat) : (s.meter inp falling t seq).plant.capSeq = s.plant.capSeq := by
  unfold State.meter
  split
  · rfl
  · split
    · rfl
    · split
      · rw [State.measStop_plant h]
      · rfl

/-- TIO_CAPTURE_EDGE of an edge that is selected: it takes the next number, and opens or closes a measurement. -/
theorem execTioCaptureEdge_captures {inp falling : Bool} (x : Nat) (hs : s.edgeSel inp falling = true) : Gives (.tioCaptureEdge inp falling x) s fun t =>
    t.plant.capSeq = (s.plant.capSeq + 1) % 2 ^ 32 ∧
    (s.flag TIM_CAPCFG_MEASEN = true → s.flag TIM_CAPCFG_STARTIN = inp → s.flag TIM_CAPCFG_STARTEDGE = falling →
      t.plant.meas = some ⟨x / 4 * 4, s.plant.capSeq, s.plant.meas.isSome⟩) ∧
    (s.flag TIM_CAPCFG_MEASEN = true → s.flag TIM_CAPCFG_STARTIN = !inp → s.flag TIM_CAPCFG_STOPEDGE = falling → t.plant.meas = none) := by
  refine ⟨_, execTioCaptureEdge_selected x hs, ?_⟩
  obtain ⟨ok, flags, hplant⟩ := State.capture_does h inp falling (x / 4 * 4)
  generalize s.capture inp falling (x / 4 * 4) = v at *
  refine ⟨?_, fun hen hi he => ?_, fun hen hi he => ?_⟩
  · rw [State.meter_capSeq ok, hplant]
  · rw [State.meter_starts ((flags _ (by simp)).trans hen) ((flags _ (by simp)).trans hi) ((flags _ (by simp)).trans he), hplant]
  · rw [State.meter_stops ok ((flags _ (by simp)).trans hen) ((flags _ (by simp)).trans hi) ((flags _ (by simp)).trans he)]

end

/-! ### Tails of rings (R310, R379, R393) -/

section
variable {s : State} (h : s.RegsOk) (hr : s.Runs) {p : Path} {off b ix v : Nat} {k : SysKind} {f : Fld} {g : State → State} {c : Instr}
  (hc : exec c s = .next (s.written p off g)) (hg : g s.aside = s.aside.tailWrite p off k ix f v) (hb : off / 0x10000 = b)
include h

/-- Where a ring's tail stands is the same where the count of refused writes is set aside. -/
theorem tailAddr_aside (k : SysKind) (ix : Nat) : s.aside.sysAddr k s.aside.seatB ix = s.sysAddr k s.seatB ix := by
  unfold State.sysAddr
  rw [cfg_aside h, State.seatB_congr (getF_aside h PAR_STAT_SEAT (by decide))]

include hr hc hg hb

/-- A write of a tail elsewhere than on the Lead is ignored with cause 3. -/
theorem execTailWrite_ignored (ho : off < 0x140000) (hl : s.isLead = false) : Gives c s fun t =>
    RegsOnlyW b s t [(KRB_IGNSTAT_CAUSE, 0), (KRB_IGNADDR_OFFSET, 0), (KRB_IGNPATH_PATH, 0)] ∧ t.getF KRB_IGNSTAT_CAUSE = 3 :=
  hb ▸ ⟨_, hc, State.written_ign hr h (hg.trans (if_pos (by rw [isLead_aside h, hl]; rfl))) (by decide) ho rfl⟩

/-- On the Lead a tail in the Square is written by a commit of its own. -/
theorem execTailWrite_commits {a : Nat} (hl : s.isLead = true) (ha : s.sysAddr k s.seatB ix = some a) : Gives c s fun t =>
    t.sched = { s.sched with tails := s.sched.tails ++ [(a, v)] } ∧ t = { s with regs := t.regs, sched := t.sched } ∧ OnlyRegsW b s t [] := by
  have hu : g s.aside = { s.aside with sched := { s.sched with tails := s.sched.tails ++ [(a, v)] } } := by
    rw [hg]
    unfold State.tailWrite
    rw [isLead_aside h, hl, tailAddr_aside h, ha]
    rfl
  obtain ⟨et, only⟩ := State.written_plain (p := p) (off := off) hr h hu rfl (hr.not_boot rfl)
  subst hb
  refine ⟨_, hc, congrArg State.sched et, ?_, only⟩
  rw [congrArg State.sched et]
  exact et

/-- One that the configuration does not place is a register, and waits for the base tick. -/
theorem execTailWrite_waits (hv : v < 2 ^ f.w) (hl : s.isLead = true) (ha : s.sysAddr k s.seatB ix = none) : Gives c s fun t =>
    t.asWritten f ix = v ∧ t = { s with regs := t.regs, due := t.due } ∧ OnlyRegsW b s t [] := by
  have hu : g s.aside = s.aside.setLater .baseTick f v ix := by
    rw [hg]
    unfold State.tailWrite
    rw [isLead_aside h, hl, tailAddr_aside h, ha]
    rfl
  obtain ⟨et, only⟩ := State.written_plain (p := p) (off := off) hr h hu rfl (hr.not_boot rfl)
  subst hb
  refine ⟨_, hc, asWritten_of_due ?_, ?_, only⟩
  · rw [congrArg State.due et]
    exact (dueVal_setLater_self _ _ _ _ _).trans (congrArg some (Nat.mod_eq_of_lt hv))
  · rw [congrArg State.due et]
    exact et

end

/-- Settles O50: each clause's premises make its command act, and the clause is what the servo, the domains, the output, the edge or the tail shows of it. -/
theorem plantTime : Obligations.PlantTime := by
  unfold Obligations.PlantTime
  intro s h
  refine ⟨fun dom m hp => execPtpAnnounce_names dom m hp,
    fun dom off hp => ⟨fun hn hd => execPtpSync_takes h dom off hp hn hd, fun hs hd => execPtpSync_stepped h dom off hp hs hd,
      fun hn hd hg ha => execPtpSync_regains h dom off hp hn hd hg ha⟩,
    fun dom hp => ⟨fun hd => ⟨_, execPtpDomainLost_notHeld dom hp hd, State.dom_modDom s (b2n dom) (fun x => { x with good := 0 }), rfl⟩,
      fun hd ho => execPtpDomainLost_last h dom hp hd ho, fun hd ho ha => execPtpDomainLost_other h dom hp hd ho ha⟩,
    fun hp => ⟨fun hb => execDomainSwitchBack_back h hp hb, fun hb => ⟨s, execDomainSwitchBack_stays hp hb, rfl⟩⟩,
    fun hp => ⟨fun ha hf => execDomainSplit_shows h hp ha hf, fun ha => ⟨s, execDomainSplit_idle hp ha, rfl⟩, fun ha => ⟨s, execDomainSplit_lasts hp ha, rfl⟩,
      fun ha => execDomainSplit_ends h hp ha⟩,
    fun p hr => ⟨fun hs => execTimSwitch_ignored h hr p (.inl ⟨rfl, by simpa using hs⟩), fun hs hh => execTimSwitch_ignored h hr p (.inr ⟨rfl, hs, hh⟩),
      fun hs hh => execTimSwitch_taken h hr p hs hh⟩,
    fun p hr ho => ⟨fun ht => execPulseArm_late h hr p ho rfl ht, fun ht hb => execPulseArm_bad h hr p ho rfl ht hb, fun ht hb => execPulseArm_armed h hr p ho rfl ht hb,
      fun hn => execPulseStop_none h hr p rfl hn, fun r hp => execPulseStop_stops h hr p rfl hp⟩,
    fun out => ⟨fun hn => ⟨s, execPulseTrainEnd_idle out (by simp [hn]), rfl⟩, fun r hp ht => ⟨fun hc hs => ⟨s, execPulseTrainEnd_idle out ?_, rfl⟩,
      fun he => execPulseTrainEnd_ends out h hp ht he⟩⟩,
    fun inp falling x => ⟨fun hs => ⟨s, execTioCaptureEdge_idle x hs, rfl⟩, fun hs => execTioCaptureEdge_captures h x hs⟩,
    fun p v hr => ?_⟩
  · intro r' hp'
    obtain rfl := Option.some.inj (hp.symm.trans hp')
    exact ⟨hc, hs⟩
  · have hport : s.aside.tailWrite p 0x100018 .canRxTail (s.aside.selIx p .can) CAN_RXTAIL_TAIL v.toNat =
        s.aside.tailWrite p 0x100018 .canRxTail (s.getF CAN_PORTSEL_PORT p.code) CAN_RXTAIL_TAIL v.toNat := by
      rw [show s.aside.selIx p .can = s.getF CAN_PORTSEL_PORT p.code from getF_aside h _ (key_ne_of_place (Path.code_lt p) (by decide) (by decide))]
    have dio : exec (.dioEdgetailWrite p v) s = .next (s.written p 0xD0024 (fun s => s.tailWrite p 0xD0024 .dioTail 0 DIO_EDGETAIL_TAIL v.toNat)) := rfl
    have tim : exec (.timCapcfgTailWrite p v) s = .next (s.written p 0x20040 (fun s => s.tailWrite p 0x20040 .timTail 0 TIM_CAPCFG_TAIL v.toNat)) := rfl
    have can : exec (.canRxtailWrite p v) s = .next (s.written p 0x100018 (fun s => s.tailWrite p 0x100018 .canRxTail (s.selIx p .can) CAN_RXTAIL_TAIL v.toNat)) := rfl
    exact ⟨execTailWrite_ignored h hr dio rfl (by decide) (by decide), fun _ => execTailWrite_commits h hr dio rfl (by decide), execTailWrite_waits h hr dio rfl (by decide) v.isLt,
      execTailWrite_ignored h hr tim rfl (by decide) (by decide), fun _ => execTailWrite_commits h hr tim rfl (by decide), execTailWrite_waits h hr tim rfl (by decide) v.isLt,
      execTailWrite_ignored h hr can hport (by decide) (by decide), fun _ => execTailWrite_commits h hr can hport (by decide), execTailWrite_waits h hr can hport (by decide) v.isLt⟩

end Sys2Proof.Machine
end

section
/-! PROOFS. The key switches, the keys of secured ports and the re-read of the fuses (10, R282 to R285; 12, R343, R345; 17, R437, R438; 19, R494). -/
namespace Sys2Proof.Machine

/-! ### Several fields at one index -/

/-- A field's place in the set-up window. -/
abbrev Fld.place (f : Fld) : Nat := f.off * 32 + f.lo

/-- Fields put at one index, one after another. -/
def State.puts (s : State) (ix : Nat) (l : List (Fld × Nat)) : State := l.foldl (fun s x => s.setF x.1 x.2 ix) s

/-- Nothing but the register file changes. -/
theorem State.puts_frame (s : State) (ix : Nat) (l : List (Fld × Nat)) : ∃ r, s.puts ix l = { s with regs := r } := by
  induction l generalizing s with
  | nil => exact ⟨s.regs, rfl⟩
  | cons x l ih =>
    obtain ⟨r, e⟩ := ih (s.setF x.1 x.2 ix)
    exact ⟨r, e⟩

/-- Of the register file, these fields at that index. -/
theorem State.puts_chg {s : State} (h : s.RegsOk) (ix : Nat) (l : List (Fld × Nat)) : Chg s (s.puts ix l) (l.map fun x => (x.1, ix)) := by
  induction l generalizing s with
  | nil => exact Chg.refl h
  | cons x l ih =>
    have head := (Chg.refl h).setF x.1 x.2 ix
    refine (head.trans (ih head.ok)).mono fun y hy => ?_
    simpa [or_comm] using hy

/-- A field put reads as its value where no later one stands at its place. -/
theorem State.getF_puts {s : State} (h : s.RegsOk) {ix : Nat} (hix : ix < 65536) {l : List (Fld × Nat)} (hl : (l.map fun x => x.1.place).Nodup) {f : Fld} {v : Nat}
    (hf : (f, v) ∈ l) (hv : v < 2 ^ f.w) : (s.puts ix l).getF f ix = v := by
  induction l generalizing s with
  | nil => simp at hf
  | cons x l ih =>
    obtain ⟨hx, hl⟩ := List.nodup_cons.mp hl
    have ok := regs_setF_rising s x.1 x.2 ix h
    rcases List.mem_cons.mp hf with rfl | hf
    · refine ((State.puts_chg ok ix l).only f ix fun y hy => ?_).trans (getF_setF_fits h f hv)
      obtain ⟨z, hz, rfl⟩ := List.mem_map.mp hy
      exact key_ne_of_place hix hix fun e => hx (List.mem_map.mpr ⟨z, hz, e.symm⟩)
    · exact ih ok hl hf

/-- A Bool fits one bit. -/
theorem b2n_lt_two (b : Bool) : b2n b < 2 := by cases b <;> decide

/-- A one-bit field put reads as its Bool. -/
theorem State.flag_puts {s : State} (h : s.RegsOk) {ix : Nat} (hix : ix < 65536) {l : List (Fld × Nat)} (hl : (l.map fun x => x.1.place).Nodup) {f : Fld} {b : Bool}
    (hf : (f, b2n b) ∈ l) (hw : f.w = 1) : (s.puts ix l).flag f ix = b := by
  unfold State.flag
  rw [State.getF_puts h hix hl hf (by rw [hw]; exact b2n_lt_two b)]
  cases b <;> rfl

/-- A flag outside the changed fields reads as before. -/
theorem Chg.flag {s t : State} {l : List (Fld × Nat)} (c : Chg s t l) {f : Fld} {ix : Nat} (hf : ∀ x ∈ l, f.key ix ≠ x.1.key x.2) : t.flag f ix = s.flag f ix := by
  unfold State.flag
  rw [c.only f ix hf]

/-! ### The key switches (R343, R345, R494) -/

/-- A switch's change made known: counted, recorded and displayed. -/
structure Announced (s t : State) : Prop where
  frame : ∃ a o u, t = { s with regs := t.regs, arc := a, out := o, io := { s.io with sigUntil := u } }
  chg : s.RegsOk → Chg s t [(KRB_SWSTAT_CHGCNT, 0)]

/-- Nothing to make known. -/
theorem Announced.refl (s : State) : Announced s s := ⟨⟨_, _, _, rfl⟩, fun h => (Chg.refl h).mono (by simp)⟩

/-- A record of the event log. -/
theorem Announced.event {s t : State} (h : Announced s t) (kind task : Nat) (d : List Byte) : Announced s (t.event kind task d) := by
  unfold State.event
  split
  · exact h
  · obtain ⟨a, o, u, e⟩ := h.frame
    exact ⟨⟨_, o, u, by rw [e]⟩, fun hs => (h.chg hs).same rfl⟩

/-- What the display shows. -/
theorem Announced.emit {s t : State} (h : Announced s t) (ch : OutCh) (k : Nat) (l : List Nat) : Announced s (t.emit ch k l) := by
  obtain ⟨a, o, u, e⟩ := h.frame
  exact ⟨⟨a, _, u, by rw [e]; rfl⟩, fun hs => (h.chg hs).same rfl⟩

/-- The change counted. -/
theorem Announced.bump {s t : State} (h : Announced s t) : Announced s (t.bump KRB_SWSTAT_CHGCNT) := by
  obtain ⟨a, o, u, e⟩ := h.frame
  exact ⟨⟨a, o, u, by rw [e]; rfl⟩, fun hs => ((h.chg hs).bump _ _ _).mono (by simp)⟩

/-- The signature stays on the display for a while. -/
theorem Announced.until {s t : State} (h : Announced s t) (n : Nat) : Announced s { t with io := { t.io with sigUntil := n } } := by
  obtain ⟨a, o, u, e⟩ := h.frame
  exact ⟨⟨a, o, n, by rw [e]⟩, fun hs => (h.chg hs).same rfl⟩

/-- The four flags that show SAFETY-EDIT. -/
def safeShows (k : KeySw) : List (Fld × Nat) :=
  [(KRB_SWSTAT_SAFEEDIT, b2n k.on), (KRB_SWSTAT_SAFEFLT, b2n k.flt), (SFY_STAT_SWEDIT, b2n k.on), (SFY_STAT_SWFLT, b2n k.flt)]

/-- The two that show UPDATE-ENABLE. -/
def updShows (k : KeySw) : List (Fld × Nat) := [(KRB_SWSTAT_UPDEN, b2n k.on), (KRB_SWSTAT_UPDFLT, b2n k.flt)]

/-- Either branch. -/
theorem Announced.ite {s x y : State} {c : Prop} [Decidable c] (hx : Announced s x) (hy : Announced s y) : Announced s (if c then x else y) := by split <;> assumption

/-- A sample of SAFETY-EDIT is noted and shown, and then made known. -/
theorem State.safeSwitch_announces (s : State) (k : KeySw) :
    Announced (State.puts { s with io := { s.io with keyS := k } } 0 (safeShows k)) (s.safeSwitch k) := by
  unfold State.safeSwitch
  extract_lets io was flt s1 s2 s3 s4 s5 s6 s7
  have shown : Announced s3 s3 := Announced.refl s3
  have recorded : Announced s3 s4 := Announced.ite (shown.event _ _ _) shown
  exact Announced.ite recorded (Announced.ite (recorded.bump.emit _ _ _) ((((recorded.bump.emit _ _ _).event _ _ _).emit _ _ _).until _))

/-- A sample of UPDATE-ENABLE likewise. -/
theorem State.updSwitch_announces (s : State) (k : KeySw) :
    Announced (State.puts { s with io := { s.io with keyU := k } } 0 (updShows k)) (s.updSwitch k) := by
  unfold State.updSwitch
  extract_lets io was flt s1 s2 s3
  have shown : Announced s2 s2 := Announced.refl s2
  have recorded : Announced s2 s3 := Announced.ite (shown.event _ _ _) shown
  exact Announced.ite recorded recorded.bump

/-- A switch of which flags are put and which is then made known: those flags, and of the field I/O the switch and the display. -/
theorem Announced.does {s t : State} {i : FieldIo} {l : List (Fld × Nat)} (j : Announced (State.puts { s with io := i } 0 l) t) (h : s.RegsOk)
    (hl : (l.map fun x => x.1.place).Nodup) (apart : ∀ x ∈ l, x.1.key 0 ≠ KRB_SWSTAT_CHGCNT.key 0 ∧ x.1.w = 1) :
    (∃ u, t.io = { i with sigUntil := u }) ∧ t = { s with regs := t.regs, arc := t.arc, io := t.io, out := t.out } ∧
    Chg s t ((KRB_SWSTAT_CHGCNT, 0) :: l.map fun x => (x.1, 0)) ∧ ∀ f b, (f, b2n b) ∈ l → t.flag f = b := by
  have noted : Chg s { s with io := i } [] := (Chg.refl h).same rfl
  obtain ⟨⟨a, o, u, e⟩, c⟩ := j
  have shown := State.puts_chg noted.ok 0 l
  obtain ⟨r, er⟩ := State.puts_frame { s with io := i } 0 l
  rw [er] at e
  refine ⟨⟨u, by rw [e]⟩, by rw [e], ?_, fun f b hf => ?_⟩
  · exact ((noted.trans shown).trans (c shown.ok)).mono (by simp)
  · obtain ⟨hk, hw⟩ := apart _ hf
    exact ((c shown.ok).flag (by simpa using hk)).trans (State.flag_puts noted.ok (by decide) hl hf hw)

/-- The flags of SAFETY-EDIT stand at different places, none of them the count of changes. -/
theorem safeShows_apart (k : KeySw) : ((safeShows k).map fun x => x.1.place).Nodup ∧ ∀ x ∈ safeShows k, x.1.key 0 ≠ KRB_SWSTAT_CHGCNT.key 0 ∧ x.1.w = 1 := by
  simp only [safeShows, List.forall_mem_cons, List.map_cons, List.map_nil]
  decide

/-- So do those of UPDATE-ENABLE. -/
theorem updShows_apart (k : KeySw) : ((updShows k).map fun x => x.1.place).Nodup ∧ ∀ x ∈ updShows k, x.1.key 0 ≠ KRB_SWSTAT_CHGCNT.key 0 ∧ x.1.w = 1 := by
  simp only [updShows, List.forall_mem_cons, List.map_cons, List.map_nil]
  decide

/-- What a sample of UPDATE-ENABLE puts is none of the flags of SAFETY-EDIT. -/
theorem safeFlags_ne_updShows (k : KeySw) : ∀ f ∈ [KRB_SWSTAT_SAFEEDIT, KRB_SWSTAT_SAFEFLT, SFY_STAT_SWEDIT, SFY_STAT_SWFLT],
    ∀ x ∈ (KRB_SWSTAT_CHGCNT, 0) :: (updShows k).map (fun x => (x.1, 0)), f.key 0 ≠ x.1.key x.2 := by
  simp only [updShows, List.map_cons, List.map_nil]
  decide

/-- After a sample of both switches, in which they come to stand as `x` and `y`, each shows its position and its fault. -/
theorem State.switches_show {s : State} (h : s.RegsOk) (x y : KeySw) :
    let t := (s.safeSwitch x).updSwitch y
    t.io.keyS = x ∧ t.io.keyU = y ∧ t.safetyEdit = x.on ∧ t.flag SFY_STAT_SWEDIT = x.on ∧ t.updateEnable = y.on ∧
      t.flag KRB_SWSTAT_SAFEFLT = x.flt ∧ t.flag SFY_STAT_SWFLT = x.flt ∧ t.flag KRB_SWSTAT_UPDFLT = y.flt ∧
      t = { s with regs := t.regs, arc := t.arc, io := t.io, out := t.out } ∧ OnlyRegs s t [(KRB_SWSTAT_SAFEEDIT, 0), (KRB_SWSTAT_SAFEFLT, 0), (SFY_STAT_SWEDIT, 0),
        (SFY_STAT_SWFLT, 0), (KRB_SWSTAT_UPDEN, 0), (KRB_SWSTAT_UPDFLT, 0), (KRB_SWSTAT_CHGCNT, 0)] := by
  obtain ⟨⟨u, xi⟩, xe, xc, shownS⟩ := (s.safeSwitch_announces x).does h (safeShows_apart x).1 (safeShows_apart x).2
  obtain ⟨⟨v, yi⟩, ye, yc, shownU⟩ := ((s.safeSwitch x).updSwitch_announces y).does xc.ok (updShows_apart y).1 (updShows_apart y).2
  have safe : ∀ f b, (f, b2n b) ∈ safeShows x → f ∈ [KRB_SWSTAT_SAFEEDIT, KRB_SWSTAT_SAFEFLT, SFY_STAT_SWEDIT, SFY_STAT_SWFLT] →
      ((s.safeSwitch x).updSwitch y).flag f = b := fun f b hf hm => (yc.flag (safeFlags_ne_updShows y f hm)).trans (shownS f b hf)
  refine ⟨by rw [yi, xi], by rw [yi], safe _ x.on (by simp [safeShows]) (by decide), safe _ x.on (by simp [safeShows]) (by decide),
    shownU _ y.on (by simp [updShows]), safe _ x.flt (by simp [safeShows]) (by decide), safe _ x.flt (by simp [safeShows]) (by decide),
    shownU _ y.flt (by simp [updShows]), ?_, ((xc.trans yc).mono ?_).only⟩
  · exact ye.trans (by rw [xe])
  · simp [safeShows, updShows]

/-! ### The settings and keys of a secured port (R282, R283, R285) -/

section
variable {s : State} {p : Path} {v : W32}

/-- The port that a path has selected, where the count of refused writes is set aside. -/
theorem secSel_aside (h : s.RegsOk) : s.aside.selIx p .sec = s.selIx p .sec := getF_aside h _ (key_ne_of_place (Path.code_lt p) (by decide) (by decide))

/-- SEC_PORTCFG_WRITE under UPDATE-ENABLE for a port there is: its settings wait for the port's next SAK. -/
theorem execSecPortcfgWrite_waits (h : s.RegsOk) (hr : s.Runs) (hu : s.updateEnable = true) {n : Nat} (hsel : s.selIx p .sec = n) (hn : n < 118) :
    Gives (.secPortcfgWrite p v) s fun t => t.asWritten SEC_PORTCFG_REPLAYWIN n = bits v.toNat 0 8 ∧
      t.asWritten SEC_PORTCFG_SAKLIFE n = max 1 (min 168 (bits v.toNat 8 8)) ∧ t = { s with regs := t.regs, due := t.due } ∧ OnlyRegsW 19 s t [] := by
  generalize hset : (s.aside.setLater (.nextSak n) SEC_PORTCFG_REPLAYWIN (bits v.toNat 0 8) n).setLater (.nextSak n) SEC_PORTCFG_SAKLIFE (max 1 (min 168 (bits v.toNat 8 8))) n = u
  have taken : s.aside.cmdSecPortcfg p v = u := by
    unfold State.cmdSecPortcfg
    rw [secSel_aside h, hsel, updateEnable_aside h, hu, ← hset]
    exact if_neg (Nat.not_le.mpr hn)
  have replay : dueVal u.due (SEC_PORTCFG_REPLAYWIN.key n) = some (bits v.toNat 0 8) := by
    rw [← hset, dueVal_setLater_ne _ _ _ (key_ne_of_place (by omega) (by omega) (by decide)), dueVal_setLater_self]
    exact congrArg some (Nat.mod_mod _ _)
  have life : dueVal u.due (SEC_PORTCFG_SAKLIFE.key n) = some (max 1 (min 168 (bits v.toNat 8 8))) := by
    rw [← hset, dueVal_setLater_self]
    exact congrArg some (Nat.mod_eq_of_lt (show _ < 256 by omega))
  have regs : u.regs = s.aside.regs := by rw [← hset]; rfl
  have kerb : u.kerb = s.kerb := by rw [← hset]; rfl
  obtain ⟨et, only⟩ := State.written_plain (p := p) (off := secCfgOff) (f := fun s => s.cmdSecPortcfg p v) hr h taken regs (hr.not_boot kerb)
  have due := congrArg State.due et
  refine ⟨_, rfl, asWritten_of_due (due ▸ replay), asWritten_of_due (due ▸ life), ?_, only⟩
  rw [due]
  exact et.trans (by rw [← hset]; rfl)

/-- SEC_PORTCFG_WRITE without UPDATE-ENABLE, or for a port there is not, is ignored. -/
theorem execSecPortcfgWrite_ignored (h : s.RegsOk) (hr : s.Runs) {c : Nat} (hc : (c = 2 ∧ s.updateEnable = false) ∨ (c = 6 ∧ s.updateEnable = true ∧ 118 ≤ s.selIx p .sec)) :
    Gives (.secPortcfgWrite p v) s fun t => RegsOnlyW 19 s t [(KRB_IGNSTAT_CAUSE, 0), (KRB_IGNADDR_OFFSET, 0), (KRB_IGNPATH_PATH, 0)] ∧ t.getF KRB_IGNSTAT_CAUSE = c := by
  have refused : s.aside.cmdSecPortcfg p v = s.aside.ignored p secCfgOff c := by
    unfold State.cmdSecPortcfg
    rw [secSel_aside h, updateEnable_aside h]
    rcases hc with ⟨rfl, hu⟩ | ⟨rfl, hu, hn⟩
    · rw [hu]; rfl
    · rw [hu]; exact if_pos hn
  exact ⟨_, rfl, State.written_ign (f := fun s => s.cmdSecPortcfg p v) hr h refused (by omega) (by decide) (by decide)⟩

/-- Where nothing waits for an instant, nothing takes effect at it. -/
theorem State.applyDue_none {w : When} (hd : ∀ d ∈ s.due, d.wh ≠ w) : s.applyDue w = s := by
  have unripe : ∀ d ∈ s.due, d.ripe w s.tick = false := fun d hd' => by simp [Due.ripe, hd d hd']
  have none : s.due.filter (fun d => d.ripe w s.tick) = [] := List.filter_eq_nil_iff.mpr fun d hd' => by simp [unripe d hd']
  have all : s.due.filter (fun d => !d.ripe w s.tick) = s.due := List.filter_eq_self.mpr fun d hd' => by simp [unripe d hd']
  unfold State.applyDue State.applyDueAt
  rw [none, all]
  rfl

/-- What a port shows of a new SAK. -/
def sakShows (ks : Bool) (peers : Byte) : List (Fld × Nat) :=
  [(SEC_PORTSTAT_SECURED, b2n true), (SEC_PORTSTAT_KEYSERVER, b2n ks), (SEC_PORTSTAT_PEERS, peers.toNat), (SEC_PORTSTAT_REKEYING, 0), (SEC_PORTSTAT_EXHAUST, 0),
   (SEC_TXPNLO_PN, 1), (SEC_TXPNHI_PN, 1 / 2 ^ 32)]

/-- A replacement counted. -/
def State.rekeyed (s : State) (p : Nat) : State := if s.flag SEC_PORTSTAT_SECURED p then s.bump SEC_PORTSTAT_REKEYCNT p else s

/-- Of a port that was not secured there is none. -/
theorem State.rekeyed_first {n : Nat} (hs : s.flag SEC_PORTSTAT_SECURED n = false) : s.rekeyed n = s := if_neg (by simp [hs])

/-- It touches the count of replacements. -/
theorem State.rekeyed_does (h : s.RegsOk) (n : Nat) : (∃ r, s.rekeyed n = { s with regs := r }) ∧ Chg s (s.rekeyed n) [(SEC_PORTSTAT_REKEYCNT, n)] := by
  unfold State.rekeyed
  split
  · exact ⟨⟨_, rfl⟩, (Chg.refl h).bump _ _ _⟩
  · exact ⟨⟨_, rfl⟩, (Chg.refl h).mono (by simp)⟩

/-- What a port shows stands at different places, none of them the count of replacements. -/
theorem sakShows_apart (ks : Bool) (peers : Byte) : ((sakShows ks peers).map fun x => x.1.place).Nodup ∧ ∀ x ∈ sakShows ks peers, SEC_PORTSTAT_REKEYCNT.place ≠ x.1.place := by
  simp only [sakShows, List.forall_mem_cons, List.map_cons, List.map_nil]
  decide

/-- A new SAK of a port shown, and its time noted. -/
def State.sakTaken (s : State) (n : Nat) (ks : Bool) (peers : Byte) : State :=
  let u := (s.rekeyed n).puts n (sakShows ks peers)
  { u with host := { u.host with sakAt := tabSet u.host.sakAt n u.now } }

/-- Beside the port's registers, the time of its keys. -/
theorem State.sakTaken_frame (h : s.RegsOk) (n : Nat) (ks : Bool) (peers : Byte) :
    ∃ r, s.sakTaken n ks peers = { s with regs := r, host := { s.host with sakAt := tabSet s.host.sakAt n s.now } } := by
  obtain ⟨⟨q, eq⟩, -⟩ := State.rekeyed_does h n
  obtain ⟨r, er⟩ := (s.rekeyed n).puts_frame n (sakShows ks peers)
  refine ⟨r, ?_⟩
  unfold State.sakTaken
  rw [er, eq]

/-- SAK_CHANGE of a keyed port on which no setting waits. -/
theorem execSakChange_takes (h : s.RegsOk) (n : Fin 118) (ks : Bool) (peers : Byte) (hk : s.portKeyed n.val = true) (hd : ∀ d ∈ s.due, d.wh ≠ .nextSak n.val) :
    Gives (.sakChange n ks peers) s fun t =>
      t.flag SEC_PORTSTAT_SECURED n.val = true ∧ t.flag SEC_PORTSTAT_KEYSERVER n.val = ks ∧ t.getF SEC_PORTSTAT_PEERS n.val = peers.toNat ∧
        t.get64 SEC_TXPNLO_PN SEC_TXPNHI_PN n.val = 1 ∧ tabGet? t.host.sakAt n.val = some s.now ∧
        (s.flag SEC_PORTSTAT_SECURED n.val = false → t.getF SEC_PORTSTAT_REKEYCNT n.val = s.getF SEC_PORTSTAT_REKEYCNT n.val) ∧
        t = { s with regs := t.regs, host := t.host } ∧ OnlyRegs s t [(SEC_PORTSTAT_SECURED, n.val), (SEC_PORTSTAT_REKEYCNT, n.val), (SEC_PORTSTAT_KEYSERVER, n.val),
          (SEC_PORTSTAT_PEERS, n.val), (SEC_PORTSTAT_REKEYING, n.val), (SEC_PORTSTAT_EXHAUST, n.val), (SEC_TXPNLO_PN, n.val), (SEC_TXPNHI_PN, n.val)] := by
  have hn : n.val < 65536 := by omega
  have hexec : exec (.sakChange n ks peers) s = .next ((s.applyDue (.nextSak n.val)).sakTaken n.val ks peers) := congrArg Host.Outcome.next (if_neg (by simp [hk]))
  rw [State.applyDue_none hd] at hexec
  obtain ⟨places, noCount⟩ := sakShows_apart ks peers
  obtain ⟨-, vc⟩ := State.rekeyed_does h n.val
  have uc := State.puts_chg vc.ok n.val (sakShows ks peers)
  obtain ⟨r, frame⟩ := State.sakTaken_frame h n.val ks peers
  have reads : ∀ {f : Fld} {v : Nat}, (f, v) ∈ sakShows ks peers → v < 2 ^ f.w → (s.sakTaken n.val ks peers).getF f n.val = v := fun hf hv => State.getF_puts vc.ok hn places hf hv
  have flags : ∀ {f : Fld} {b : Bool}, (f, b2n b) ∈ sakShows ks peers → f.w = 1 → (s.sakTaken n.val ks peers).flag f n.val = b := fun hf hw => State.flag_puts vc.ok hn places hf hw
  have pn : (s.sakTaken n.val ks peers).get64 SEC_TXPNLO_PN SEC_TXPNHI_PN n.val = 1 := by
    unfold State.get64
    rw [reads (v := 1) (by simp [sakShows]) (by decide), reads (v := 1 / 2 ^ 32) (by simp [sakShows]) (by decide)]
    decide
  refine ⟨_, hexec, flags (by simp [sakShows]) rfl, flags (by simp [sakShows]) rfl, reads (by simp [sakShows]) peers.isLt, pn, ?_, fun hs => ?_, ?_, ?_⟩
  · rw [frame]
    exact tabGet?_tabSet_self _ _ _
  · refine (uc.only SEC_PORTSTAT_REKEYCNT n.val fun x hx => ?_).trans (congrArg (State.getF · SEC_PORTSTAT_REKEYCNT n.val) (State.rekeyed_first hs))
    obtain ⟨y, hy, rfl⟩ := List.mem_map.mp hx
    exact key_ne_of_place hn hn (noCount y hy)
  · rw [frame]
  · exact ((vc.trans (uc.same (u := s.sakTaken n.val ks peers) rfl)).mono (by simp [sakShows])).only

end

/-! ### The fuses read again (R437, R438) -/

/-- Records of the event log change the archive alone. -/
theorem State.evHw_foldl_frame {α : Type} (f : α → Nat × List Nat) (l : List α) (s : State) : ∃ a, l.foldl (fun s x => s.evHw (f x).1 (f x).2) s = { s with arc := a } := by
  induction l generalizing s with
  | nil => exact ⟨s.arc, rfl⟩
  | cons x l ih =>
    obtain ⟨a, e⟩ := s.evHw_frame (f x).1 (f x).2
    obtain ⟨b, e'⟩ := ih (s.evHw (f x).1 (f x).2)
    exact ⟨b, e'.trans (by rw [e])⟩

/-- What is shown of a re-read that found `n` marginal bits, of them `new` that no read had found before. -/
def fuseShows (n : Nat) (new : List (Nat × Nat)) : List (Fld × Nat) :=
  (BOT_FUSESTAT_MARGCNT, sat 8 n) :: ((if new.isEmpty then [] else [(BOT_FUSESTAT_NEWMARG, b2n true)]) ++
    if new.any (fun m => decide (m.1 < 64)) then [(BOT_FUSESTAT_IDMARG, b2n true)] else [])

/-- The registers of the fuses after it. -/
def State.fusesShown (s : State) (n : Nat) (new : List (Nat × Nat)) : State :=
  let s := s.setF BOT_FUSESTAT_MARGCNT (sat 8 n)
  let s := if new.isEmpty then s else s.setF BOT_FUSESTAT_NEWMARG 1
  if new.any (fun m => decide (m.1 < 64)) then s.setF BOT_FUSESTAT_IDMARG 1 else s

/-- They are those fields put. -/
theorem State.fusesShown_eq (s : State) (n : Nat) (new : List (Nat × Nat)) : s.fusesShown n new = s.puts 0 (fuseShows n new) := by
  unfold State.fusesShown fuseShows
  generalize new.any (fun m => decide (m.1 < 64)) = ident
  cases new.isEmpty <;> cases ident <;> rfl

/-- They stand at different places, and are the three of BOT_FUSESTAT that a re-read touches. -/
theorem fuseShows_places (n : Nat) (new : List (Nat × Nat)) : ((fuseShows n new).map fun x => x.1.place).Nodup ∧
    ∀ x ∈ (fuseShows n new).map (fun x => (x.1, 0)), x ∈ [(BOT_FUSESTAT_MARGCNT, 0), (BOT_FUSESTAT_NEWMARG, 0), (BOT_FUSESTAT_IDMARG, 0)] := by
  unfold fuseShows
  generalize new.any (fun m => decide (m.1 < 64)) = ident
  cases new.isEmpty <;> cases ident <;>
    (simp only [Bool.false_eq_true, if_true, if_false, List.cons_append, List.nil_append, List.map_cons, List.map_nil]; decide)

/-- They show the count, and NEWMARG where one is new. -/
theorem State.fusesShown_does {s : State} (h : s.RegsOk) (n : Nat) (new : List (Nat × Nat)) :
    (∃ r, s.fusesShown n new = { s with regs := r }) ∧ (s.fusesShown n new).getF BOT_FUSESTAT_MARGCNT = sat 8 n ∧
    (new ≠ [] → (s.fusesShown n new).flag BOT_FUSESTAT_NEWMARG = true) ∧
    Chg s (s.fusesShown n new) [(BOT_FUSESTAT_MARGCNT, 0), (BOT_FUSESTAT_NEWMARG, 0), (BOT_FUSESTAT_IDMARG, 0)] := by
  obtain ⟨apart, within⟩ := fuseShows_places n new
  rw [State.fusesShown_eq]
  refine ⟨s.puts_frame 0 _, ?_, fun hne => ?_, (State.puts_chg h 0 _).mono within⟩
  · exact State.getF_puts h (by decide) apart (List.mem_cons_self ..) (Nat.lt_of_le_of_lt (Nat.min_le_right _ _) (by decide))
  · exact State.flag_puts h (by decide) apart (by simp [fuseShows, hne]) rfl

/-- FUSE_REREAD in a running module. -/
theorem execFuseReread_shows {s : State} (h : s.RegsOk) (hr : s.Runs) (marg : List (Fin 512 × Fin 32)) :
    Gives (.fuseReread marg) s fun t => t.getF BOT_FUSESTAT_MARGCNT = sat 8 marg.length ∧ t.kerb.latched = s.kerb.latched ∧ t.kerb.fuses = s.kerb.fuses ∧
      t.kerb.margNew = s.kerb.margNew ++ (marg.map (fun m => (m.1.val, m.2.val))).filter (fun m => !s.kerb.marg.contains m && !s.kerb.margNew.contains m) ∧
      (t.kerb.margNew ≠ s.kerb.margNew → t.flag BOT_FUSESTAT_NEWMARG = true) ∧
      t = { s with regs := t.regs, arc := t.arc, kerb := t.kerb } ∧ OnlyRegs s t [(BOT_FUSESTAT_MARGCNT, 0), (BOT_FUSESTAT_NEWMARG, 0), (BOT_FUSESTAT_IDMARG, 0)] := by
  generalize hnew : (marg.map (fun m => (m.1.val, m.2.val))).filter (fun m => !s.kerb.marg.contains m && !s.kerb.margNew.contains m) = new
  have hexec : exec (.fuseReread marg) s =
      .next (new.foldl (fun s m => s.evHw 37 [m.1, m.2]) ((s.fusesShown marg.length new).modKerb (fun k => { k with margNew := k.margNew ++ new }))) := by
    rw [← hnew, ← List.length_map (as := marg) (fun m => (m.1.val, m.2.val))]
    exact congrArg Host.Outcome.next (if_neg (not_not.mpr hr))
  obtain ⟨⟨r, e⟩, count, newmarg, only⟩ := State.fusesShown_does h marg.length new
  obtain ⟨a, ea⟩ := State.evHw_foldl_frame (fun m : Nat × Nat => (37, [m.1, m.2])) new ((s.fusesShown marg.length new).modKerb (fun k => { k with margNew := k.margNew ++ new }))
  rw [ea] at hexec
  rw [e] at hexec count newmarg only
  refine ⟨_, hexec, count, rfl, rfl, rfl, fun hne => newmarg ?_, rfl, (only.same rfl).only⟩
  rintro rfl
  exact hne (List.append_nil _)

/-- Settles O35: each command shows what its switch, its port or its fuses have come to, by one list of register fields that it puts. -/
theorem switchesAndKeys : Obligations.SwitchesAndKeys := by
  unfold Obligations.SwitchesAndKeys
  intro s h
  exact ⟨fun a b => ⟨_, rfl, State.switches_show h (s.io.keyS.sample a) (s.io.keyU.sample b)⟩, fun p v hr hu hn => execSecPortcfgWrite_waits h hr hu rfl hn, fun p v hr hu => execSecPortcfgWrite_ignored h hr (.inl ⟨rfl, hu⟩),
    fun p v hr hu hn => execSecPortcfgWrite_ignored h hr (.inr ⟨rfl, hu, hn⟩), execSakChange_takes h,
    fun p ks peers hk => ⟨s, congrArg Host.Outcome.next (if_pos (by simp [hk])), rfl⟩, fun marg hr => execFuseReread_shows h hr marg⟩

end Sys2Proof.Machine
end

section
/-! PROOFS. The safety connections, the safety functions and the universal channels (12, R322 to R346; 13, R351 to R359). -/
namespace Sys2Proof.Machine

/-! ### What judging the functions leaves, and what shows a sick channel -/

/-- A universal channel. -/
theorem Judged.dioCh {s t : State} (j : Judged s t) (n : Nat) : t.dioCh n = s.dioCh n := by
  unfold State.dioCh
  rw [j.io]

/-- A connection. -/
theorem Judged.connRt {s t : State} (j : Judged s t) (n : Nat) : t.connRt n = s.connRt n := by
  unfold State.connRt
  rw [j.io]

/-- What connections have delivered. -/
theorem Judged.inbox {s t : State} (j : Judged s t) : t.io.inbox = s.io.inbox := by rw [j.io]

/-- Every register but those of the functions. -/
theorem Judged.kept {s t : State} (j : Judged s t) : Kept judgeFlds s t := ⟨j.ok, j.get, j.now, j.tick, j.due⟩

/-- A flag outside the functions' registers. -/
theorem Kept.flag {L : List Fld} {s t : State} (k : Kept L s t) (h : s.RegsOk) {f : Fld} {ix : Nat} (hix : ix < 65536)
    (hf : ∀ g ∈ L, f.off * 32 + f.lo ≠ g.off * 32 + g.lo) : t.flag f ix = s.flag f ix := by
  unfold State.flag
  rw [k.get h f ix hix hf]

/-- A longer list of registers. -/
theorem Kept.mono {L M : List Fld} {s t : State} (k : Kept L s t) (hl : ∀ g ∈ L, g ∈ M) : Kept M s t :=
  ⟨k.ok, fun h f ix hix hf => k.get h f ix hix fun g hg => hf g (hl g hg), k.now, k.tick, k.due⟩

/-- A sick channel shown. -/
theorem State.showSick_kept (s : State) {n : Nat} (hn : n < 65536) : Kept [DIO_CHSTAT_UNHEALTHY] s (s.showSick n) := by
  unfold State.showSick
  exact Kept.ite ((Kept.refl s).setF _ hn (by decide)) (Kept.refl s)

/-- The registers that a sick channel, an input and the functions are shown in. -/
def sickFlds : List Fld := DIO_CHSTAT_UNHEALTHY :: adcFlds ++ judgeFlds

/-- A sick channel shown, and the functions judged. -/
theorem State.showSick_judged {s : State} (h : s.RegsOk) {n : Nat} (hn : n < 65536) : Kept sickFlds s (s.showSick n).fnJudgeAll := by
  have shown := s.showSick_kept hn
  exact (shown.mono (by decide)).trans ((State.fnJudgeAll_judged (shown.ok h)).kept.mono (by decide))

/-! ### PDUs of a connection (R322, R324) -/

/-- A connection that is changed is what the change makes of it. -/
theorem State.connRt_modConn (s : State) (n : Nat) (f : ConnRt → ConnRt) : (s.modConn n f).connRt n = f (s.connRt n) := tabGet_tabSet_self _ _ _ _

/-- A number of a PDU (Table 12-2). -/
abbrev pduNat (pdu : List Byte) (o k : Nat) : Nat := leNat ((pdu.drop o).take k)

/-- The data of a PDU. -/
abbrev pduData (pdu : List Byte) : List Byte := (pdu.drop 0x0C).take (pduNat pdu 0x0A 2)

/-- How far a PDU's CN is ahead of the last one. -/
abbrev State.pduDist (s : State) (d : ConnDef) (pdu : List Byte) : Nat := (pduNat pdu 4 2 + 65536 - (s.connRt d.no.val).last) % 65536

/-- The first condition: length and CRC. -/
abbrev State.PduForm (s : State) (d : ConnDef) (pdu : List Byte) : Prop :=
  pduNat pdu 0x0A 2 = sigBytes (s.connSigs d.ins) ∧ pdu.length = 0x10 + pduNat pdu 0x0A 2 ∧
    pduNat pdu (0x0C + pduNat pdu 0x0A 2) 4 = scrc d.id.toNat (pdu.take (0x0C + pduNat pdu 0x0A 2))

/-- The third: the window. -/
abbrev State.PduInWin (s : State) (d : ConnDef) (pdu : List Byte) : Prop := 1 ≤ s.pduDist d pdu ∧ s.pduDist d pdu ≤ fslWin d.fwdt d.ivlFar

/-- The run of acceptances after a PDU that is taken. -/
abbrev State.pduRun (s : State) (d : ConnDef) (pdu : List Byte) : Nat := if s.PduInWin d pdu then (s.connRt d.no.val).run + 1 else 0

/-- All four conditions; a connection in PASSIVE does without the window. -/
abbrev State.PduGood (s : State) (d : ConnDef) (pdu : List Byte) : Prop :=
  s.PduForm d pdu ∧ pduNat pdu 0 4 = s.epoch ∧ (s.getF SFY_CONNSTAT_STATE d.no.val = 1 ∨ s.PduInWin d pdu) ∧ s.echoFresh d (pduNat pdu 6 2) = true

/-- A PDU that meets them, taken. -/
abbrev State.pduAccepted (s : State) (d : ConnDef) (pdu : List Byte) : State :=
  s.pduAccept d (decide (s.PduInWin d pdu)) (pduNat pdu 4 2) (pduNat pdu 8 1) (pduData pdu)

section
variable {s : State} {d : ConnDef} {pdu : List Byte}

/-- The four conditions in order. -/
theorem State.pduTake_eq : s.pduTake d pdu =
    if ¬ s.PduForm d pdu then s.pduDrop d.no.val (some SFY_CONNSTAT_CRCERR)
    else if pduNat pdu 0 4 ≠ s.epoch then s.pduDrop d.no.val none
    else if ¬ (s.getF SFY_CONNSTAT_STATE d.no.val = 1 ∨ s.PduInWin d pdu) then s.pduDrop d.no.val (some SFY_CONNSTAT_SEQERR)
    else if s.echoFresh d (pduNat pdu 6 2) = false then s.pduDrop d.no.val (some SFY_CONNCNT_ECHOLATE)
    else (s.pduAccepted d pdu).fnJudgeAll := by
  unfold State.pduTake State.pduAccepted
  dsimp only
  rw [Bool.decide_and]
  refine if_congr ?_ rfl (if_congr Iff.rfl rfl (if_congr ?_ rfl (if_congr ?_ rfl rfl)))
  · simp only [Bool.or_eq_true, decide_eq_true_eq]
    tauto
  · simp only [Bool.and_eq_true, Bool.not_eq_true', decide_eq_false_iff_not, Bool.and_eq_false_iff]
    tauto
  · rw [Bool.not_eq_true']

/-- FSL_PDU_RECEIVE of a connection there is. -/
theorem execFslPduReceive_takes {conn : Fin 4096} (hp : s.kerb.phase ≠ .off) (hd : s.conn? conn.val = some d) : exec (.fslPduReceive conn pdu) s = .next (s.pduTake d pdu) :=
  congrArg Host.Outcome.next ((State.powered_on hp _).trans (by rw [hd]))

/-- What is left of a connection whose PDU was discarded and counted. -/
def PduDropped (s : State) (n : Nat) (f : Fld) (t : State) : Prop :=
  t.getF f n = sat f.w (s.getF f n + 1) ∧ t.connRt n = { s.connRt n with run := 0 } ∧ t = { s with regs := t.regs, io := t.io } ∧ OnlyRegs s t [(f, n)]

/-- A PDU discarded. -/
theorem State.pduDrop_drops (h : s.RegsOk) (n : Nat) (f : Fld) : PduDropped s n f (s.pduDrop n (some f)) :=
  ⟨getF_bump_sat (s := s.modConn n (fun c => { c with run := 0 })) h f n 1, State.connRt_modConn s n _, rfl, (((Chg.refl h).same rfl).bump f n 1).only⟩

/-! ### A PDU that is taken -/

/-- What a PDU that is taken shows: the PDUs lost before it, and PASSIVE of the far side. -/
abbrev State.pduShown (s : State) (n lost : Nat) (far : Bool) : State := (s.bump SFY_CONNSTAT_LOSTCNT n lost).setB SFY_CONNSTAT_FARPASS far n

/-- These two registers; it leaves STATE, and the number of the program store. -/
theorem State.pduShown_does (h : s.RegsOk) {n : Nat} (hn : n < 65536) (lost : Nat) (far : Bool) :
    (s.pduShown n lost far).RegsOk ∧ (s.pduShown n lost far).getF SFY_CONNSTAT_LOSTCNT n = sat SFY_CONNSTAT_LOSTCNT.w (s.getF SFY_CONNSTAT_LOSTCNT n + lost) ∧
    (s.pduShown n lost far).flag SFY_CONNSTAT_FARPASS n = far ∧ (s.pduShown n lost far).getF SFY_CONNSTAT_STATE n = s.getF SFY_CONNSTAT_STATE n ∧
    (s.pduShown n lost far).getF SCH_OLCSTAT_ACTSTORE = s.getF SCH_OLCSTAT_ACTSTORE := by
  have counted : Kept [SFY_CONNSTAT_LOSTCNT, SFY_CONNSTAT_FARPASS] s (s.bump SFY_CONNSTAT_LOSTCNT n lost) := (Kept.refl s).bump hn (by decide)
  have shown := counted.setB (g := SFY_CONNSTAT_FARPASS) far hn (by decide)
  exact ⟨shown.ok h, (getF_setF_ne _ _ (counted.ok h) (key_ne_of_place hn hn (by decide))).trans (getF_bump_sat h _ _ _), flag_setB_self (counted.ok h) far rfl,
    shown.get h _ _ hn (by decide), shown.get h _ _ (by decide) (by decide)⟩

/-- The signals of a connection are those of the configuration in force. -/
theorem State.connSigs_congr {t : State} (hp : t.pkgs = s.pkgs) (ha : t.getF SCH_OLCSTAT_ACTSTORE = s.getF SCH_OLCSTAT_ACTSTORE) (l : List Nat) : t.connSigs l = s.connSigs l := by
  unfold State.connSigs State.sig?
  rw [State.cfg_congr hp ha]

/-- The data of a PDU in the signals of its connection. -/
def State.takeData (s : State) (d : ConnDef) (data : List Byte) : State := { s with io := { s.io with inbox := takeVals (s.connSigs d.ins) data [] s.io.inbox } }

/-- The signals delivered are those of the configuration in force. -/
theorem State.takeData_inbox {t : State} (hp : t.pkgs = s.pkgs) (ha : t.getF SCH_OLCSTAT_ACTSTORE = s.getF SCH_OLCSTAT_ACTSTORE) (hi : t.io.inbox = s.io.inbox) (data : List Byte) :
    (t.takeData d data).io.inbox = takeVals (s.connSigs d.ins) data [] s.io.inbox := by
  rw [← State.connSigs_congr hp ha d.ins, ← hi]
  rfl

/-- How many PDUs were lost before one that is taken: of a connection in PASSIVE that one out of the window is taken of, none. -/
abbrev State.pduLost (s : State) (d : ConnDef) (full : Bool) (cn : Nat) : Nat := if full then (cn + 65536 - (s.connRt d.no.val).last) % 65536 - 1 else 0

/-- The registers after a PDU that is taken, but for STATE. -/
abbrev State.pduSeen (s : State) (d : ConnDef) (full : Bool) (cn ctrl : Nat) : State := s.pduShown d.no.val (s.pduLost d full cn) (bitOf ctrl 0)

variable (h : s.RegsOk) (full : Bool) (cn ctrl : Nat) (data : List Byte)
include h

/-- STATE is as it was when a PDU is judged by it. -/
theorem State.pduSeen_state {k : Nat} (hk : s.getF SFY_CONNSTAT_STATE d.no.val = k) : (s.pduSeen d full cn ctrl).getF SFY_CONNSTAT_STATE d.no.val = k := by
  obtain ⟨-, -, -, state, -⟩ := State.pduShown_does h (n := d.no.val) (by omega) (s.pduLost d full cn) (bitOf ctrl 0)
  exact state.trans hk

/-- A PDU taken while ACTIVE. -/
theorem State.pduAccept_active (h0 : s.getF SFY_CONNSTAT_STATE d.no.val = 0) : s.pduAccept d full cn ctrl data =
    ((s.pduSeen d full cn ctrl).modConn d.no.val (fun c => { c with last := cn, restart := s.now, data := data })).takeData d data := by
  unfold State.pduAccept
  dsimp only
  rw [State.pduSeen_state h full cn ctrl h0]
  rfl

/-- A PDU taken while PASSIVE: its run, and at the third REINT waits. -/
theorem State.pduAccept_passive (h1 : s.getF SFY_CONNSTAT_STATE d.no.val = 1) {run : Nat} (hr : (if full then (s.connRt d.no.val).run + 1 else 0) = run) :
    s.pduAccept d full cn ctrl data =
      let v := (s.pduSeen d full cn ctrl).modConn d.no.val (fun c => { c with last := cn, restart := s.now, run := run })
      if 3 ≤ run then (if d.autoReint then (v.setF SFY_CONNSTAT_STATE 2 d.no.val).connAck d.no.val else v.setF SFY_CONNSTAT_STATE 2 d.no.val) else v := by
  rw [← hr]
  unfold State.pduAccept
  dsimp only
  rw [State.pduSeen_state h full cn ctrl h1]
  rfl

/-- A PDU taken while REINT waits to be answered. -/
theorem State.pduAccept_reint (h2 : s.getF SFY_CONNSTAT_STATE d.no.val = 2) : s.pduAccept d full cn ctrl data =
    let v := (s.pduSeen d full cn ctrl).modConn d.no.val (fun c => { c with last := cn, restart := s.now })
    if (s.connRt d.no.val).reint && !bitOf ctrl 0 then
      ((v.setF SFY_CONNSTAT_STATE 0 d.no.val).modConn d.no.val (fun c => { c with reint := false, data := data })).takeData d data
    else v := by
  unfold State.pduAccept
  dsimp only
  rw [State.pduSeen_state h full cn ctrl h2]
  rfl

/-- What a PDU taken while ACTIVE leaves of its connection. -/
theorem State.pduAccept_active_does (h0 : s.getF SFY_CONNSTAT_STATE d.no.val = 0) :
    let t := s.pduAccept d full cn ctrl data
    t.connRt d.no.val = { s.connRt d.no.val with last := cn, restart := s.now, data := data } ∧ t.io.inbox = takeVals (s.connSigs d.ins) data [] s.io.inbox ∧
      t.getF SFY_CONNSTAT_STATE d.no.val = 0 ∧ t.flag SFY_CONNSTAT_FARPASS d.no.val = bitOf ctrl 0 ∧
      t.getF SFY_CONNSTAT_LOSTCNT d.no.val = sat SFY_CONNSTAT_LOSTCNT.w (s.getF SFY_CONNSTAT_LOSTCNT d.no.val + s.pduLost d full cn) := by
  obtain ⟨-, lost, far, state, act⟩ := State.pduShown_does h (n := d.no.val) (by omega) (s.pduLost d full cn) (bitOf ctrl 0)
  rw [State.pduAccept_active h full cn ctrl data h0]
  exact ⟨State.connRt_modConn (s.pduSeen d full cn ctrl) d.no.val (fun c => { c with last := cn, restart := s.now, data := data }),
    State.takeData_inbox (s := s) (t := (s.pduSeen d full cn ctrl).modConn d.no.val (fun c => { c with last := cn, restart := s.now, data := data })) rfl act rfl data, state.trans h0, far, lost⟩

/-- What one taken while PASSIVE leaves of it, before the third in a row. -/
theorem State.pduAccept_passive_does (h1 : s.getF SFY_CONNSTAT_STATE d.no.val = 1) {run : Nat} (hr : (if full then (s.connRt d.no.val).run + 1 else 0) = run) (h3 : run < 3) :
    let t := s.pduAccept d full cn ctrl data
    t.connRt d.no.val = { s.connRt d.no.val with last := cn, restart := s.now, run := run } ∧ t.getF SFY_CONNSTAT_STATE d.no.val = 1 := by
  rw [State.pduAccept_passive h full cn ctrl data h1 hr]
  dsimp only
  rw [if_neg (Nat.not_le.mpr h3)]
  exact ⟨State.connRt_modConn (s.pduSeen d full cn ctrl) d.no.val (fun c => { c with last := cn, restart := s.now, run := run }), State.pduSeen_state h full cn ctrl h1⟩

/-- At the third: reintegration waits, for REINT unless the connection is set to send it by itself. -/
theorem State.pduAccept_third_does (h1 : s.getF SFY_CONNSTAT_STATE d.no.val = 1) {run : Nat} (hr : (if full then (s.connRt d.no.val).run + 1 else 0) = run) (h3 : 3 ≤ run) :
    let t := s.pduAccept d full cn ctrl data
    t.getF SFY_CONNSTAT_STATE d.no.val = 2 ∧ (t.connRt d.no.val).reint = ((s.connRt d.no.val).reint || d.autoReint) := by
  obtain ⟨ok, -⟩ := State.pduShown_does h (n := d.no.val) (by omega) (s.pduLost d full cn) (bitOf ctrl 0)
  rw [State.pduAccept_passive h full cn ctrl data h1 hr]
  dsimp only
  rw [if_pos h3]
  generalize hv : (s.pduSeen d full cn ctrl).modConn d.no.val (fun c => { c with last := cn, restart := s.now, run := run }) = v
  have vok : v.RegsOk := hv ▸ ok
  have reint : (v.connRt d.no.val).reint = (s.connRt d.no.val).reint := by
    rw [← hv]
    exact (congrArg ConnRt.reint (State.connRt_modConn (s.pduSeen d full cn ctrl) d.no.val (fun c => { c with last := cn, restart := s.now, run := run }))).trans rfl
  have state : (v.setF SFY_CONNSTAT_STATE 2 d.no.val).getF SFY_CONNSTAT_STATE d.no.val = 2 := getF_setF_fits vok SFY_CONNSTAT_STATE (by decide)
  cases d.autoReint with
  | true =>
    have ack : (v.setF SFY_CONNSTAT_STATE 2 d.no.val).connAck d.no.val = (v.setF SFY_CONNSTAT_STATE 2 d.no.val).modConn d.no.val (fun c => { c with reint := true }) := if_pos state
    rw [if_pos rfl, ack, Bool.or_true]
    exact ⟨state, congrArg ConnRt.reint (State.connRt_modConn (v.setF SFY_CONNSTAT_STATE 2 d.no.val) d.no.val (fun c => { c with reint := true }))⟩
  | false =>
    rw [if_neg Bool.false_ne_true, Bool.or_false]
    exact ⟨state, reint⟩

/-- While REINT waits: the far side has answered, and the connection is ACTIVE with the PDU's data; or it still waits. -/
theorem State.pduAccept_reint_does (h2 : s.getF SFY_CONNSTAT_STATE d.no.val = 2) :
    let t := s.pduAccept d full cn ctrl data
    t.getF SFY_CONNSTAT_STATE d.no.val = (if (s.connRt d.no.val).reint && !bitOf ctrl 0 then 0 else 2) ∧
      ((s.connRt d.no.val).reint = true → bitOf ctrl 0 = false → t.io.inbox = takeVals (s.connSigs d.ins) data [] s.io.inbox) := by
  obtain ⟨ok, -, -, -, act⟩ := State.pduShown_does h (n := d.no.val) (by omega) (s.pduLost d full cn) (bitOf ctrl 0)
  rw [State.pduAccept_reint h full cn ctrl data h2]
  dsimp only
  split
  · generalize hv : (s.pduSeen d full cn ctrl).modConn d.no.val (fun c => { c with last := cn, restart := s.now }) = v
    have vok : v.RegsOk := hv ▸ ok
    have vact : (v.setF SFY_CONNSTAT_STATE 0 d.no.val).getF SCH_OLCSTAT_ACTSTORE = s.getF SCH_OLCSTAT_ACTSTORE :=
      (getF_setF_ne _ _ vok (key_ne_of_place (by decide) (by omega) (by decide))).trans (by rw [← hv]; exact act)
    have vpkgs : v.pkgs = s.pkgs := by rw [← hv]; rfl
    have vin : v.io.inbox = s.io.inbox := by rw [← hv]; rfl
    have state : (v.setF SFY_CONNSTAT_STATE 0 d.no.val).getF SFY_CONNSTAT_STATE d.no.val = 0 := getF_setF_fits vok SFY_CONNSTAT_STATE (by decide)
    exact ⟨state, fun _ _ => State.takeData_inbox
      (t := (v.setF SFY_CONNSTAT_STATE 0 d.no.val).modConn d.no.val (fun c => { c with reint := false, data := data })) vpkgs vact vin data⟩
  · next hw => exact ⟨State.pduSeen_state h full cn ctrl h2, fun hr hf => absurd (by rw [hr, hf]; rfl) hw⟩

/-- FSL_PDU_RECEIVE of a PDU that meets all conditions: it is taken, and the functions are judged. -/
theorem execFslPduReceive_good {conn : Fin 4096} (hp : s.kerb.phase ≠ .off) (hd : s.conn? conn.val = some d) (hg : s.PduGood d pdu) {P : State → Prop}
    (hP : ∀ t, (s.pduAccepted d pdu).RegsOk → Judged (s.pduAccepted d pdu) t → P t) : Gives (.fslPduReceive conn pdu) s P := by
  obtain ⟨form, epoch, window, echo⟩ := hg
  have taken : s.pduTake d pdu = (s.pduAccepted d pdu).fnJudgeAll := by
    rw [State.pduTake_eq, if_neg (not_not.mpr form), if_neg (not_not.mpr epoch), if_neg (not_not.mpr window), if_neg (by simp [echo])]
  have ok : (s.pduAccepted d pdu).RegsOk := (State.pduAccept_keeps (Keeps.refl s)).regs h
  exact ⟨_, (execFslPduReceive_takes hp hd).trans (congrArg _ taken), hP _ ok (State.fnJudgeAll_judged ok)⟩

/-- FSL_PDU_RECEIVE of a PDU that fails a condition: it is discarded, at the first that fails. -/
theorem execFslPduReceive_drops {conn : Fin 4096} (hp : s.kerb.phase ≠ .off) (hd : s.conn? conn.val = some d) :
    (¬ s.PduForm d pdu → Gives (.fslPduReceive conn pdu) s (PduDropped s d.no.val SFY_CONNSTAT_CRCERR)) ∧
    (s.PduForm d pdu → pduNat pdu 0 4 ≠ s.epoch → Gives (.fslPduReceive conn pdu) s fun t => t.connRt d.no.val = { s.connRt d.no.val with run := 0 } ∧ t = { s with io := t.io }) ∧
    (s.PduForm d pdu → pduNat pdu 0 4 = s.epoch → ¬ s.getF SFY_CONNSTAT_STATE d.no.val = 1 → ¬ s.PduInWin d pdu →
      Gives (.fslPduReceive conn pdu) s (PduDropped s d.no.val SFY_CONNSTAT_SEQERR)) ∧
    (s.PduForm d pdu → pduNat pdu 0 4 = s.epoch → (s.getF SFY_CONNSTAT_STATE d.no.val = 1 ∨ s.PduInWin d pdu) → s.echoFresh d (pduNat pdu 6 2) = false →
      Gives (.fslPduReceive conn pdu) s (PduDropped s d.no.val SFY_CONNCNT_ECHOLATE)) := by
  have drops : ∀ {u : State} {P : State → Prop}, s.pduTake d pdu = u → P u → Gives (.fslPduReceive conn pdu) s P :=
    fun e hP => ⟨_, (execFslPduReceive_takes hp hd).trans (congrArg _ e), hP⟩
  refine ⟨fun form => drops ?_ (State.pduDrop_drops h _ _), fun form epoch => drops (u := s.pduDrop d.no.val none) ?_ ⟨State.connRt_modConn s _ _, rfl⟩,
    fun form epoch pas win => drops ?_ (State.pduDrop_drops h _ _), fun form epoch win echo => drops ?_ (State.pduDrop_drops h _ _)⟩
  · rw [State.pduTake_eq, if_pos form]
  · rw [State.pduTake_eq, if_neg (not_not.mpr form), if_pos epoch]
  · rw [State.pduTake_eq, if_neg (not_not.mpr form), if_neg (not_not.mpr epoch), if_pos (not_or.mpr ⟨pas, win⟩)]
  · rw [State.pduTake_eq, if_neg (not_not.mpr form), if_neg (not_not.mpr epoch), if_neg (not_not.mpr win), if_pos echo]

/-- A good PDU while ACTIVE. -/
theorem execFslPduReceive_active {conn : Fin 4096} (hp : s.kerb.phase ≠ .off) (hd : s.conn? conn.val = some d) (hg : s.PduGood d pdu) (h0 : s.getF SFY_CONNSTAT_STATE d.no.val = 0) :
    Gives (.fslPduReceive conn pdu) s fun t => t.connRt d.no.val = { s.connRt d.no.val with last := pduNat pdu 4 2, restart := s.now, data := pduData pdu } ∧
      t.io.inbox = takeVals (s.connSigs d.ins) (pduData pdu) [] s.io.inbox ∧ t.getF SFY_CONNSTAT_STATE d.no.val = 0 ∧
      t.flag SFY_CONNSTAT_FARPASS d.no.val = bitOf (pduNat pdu 8 1) 0 ∧
      t.getF SFY_CONNSTAT_LOSTCNT d.no.val = sat SFY_CONNSTAT_LOSTCNT.w (s.getF SFY_CONNSTAT_LOSTCNT d.no.val + (s.pduDist d pdu - 1)) := by
  have hn : d.no.val < 65536 := by omega
  have inWin : s.PduInWin d pdu := by
    obtain ⟨-, -, window, -⟩ := hg
    exact window.resolve_left (by rw [h0]; decide)
  obtain ⟨conn, inbox, state, far, lost⟩ := State.pduAccept_active_does h (decide (s.PduInWin d pdu)) (pduNat pdu 4 2) (pduNat pdu 8 1) (pduData pdu) h0
  rw [State.pduLost, if_pos (decide_eq_true inWin)] at lost
  exact execFslPduReceive_good h hp hd hg fun t ok j => ⟨(j.connRt _).trans conn, j.inbox.trans inbox, (j.get ok _ _ hn (by decide)).trans state,
    (j.kept.flag ok hn (by decide)).trans far, (j.get ok _ _ hn (by decide)).trans lost⟩

/-- One while PASSIVE, before the third in a row. -/
theorem execFslPduReceive_passive {conn : Fin 4096} (hp : s.kerb.phase ≠ .off) (hd : s.conn? conn.val = some d) (hg : s.PduGood d pdu) (h1 : s.getF SFY_CONNSTAT_STATE d.no.val = 1)
    (h3 : s.pduRun d pdu < 3) : Gives (.fslPduReceive conn pdu) s fun t =>
      t.connRt d.no.val = { s.connRt d.no.val with last := pduNat pdu 4 2, restart := s.now, run := s.pduRun d pdu } ∧ t.getF SFY_CONNSTAT_STATE d.no.val = 1 := by
  obtain ⟨conn, state⟩ := State.pduAccept_passive_does h (decide (s.PduInWin d pdu)) (pduNat pdu 4 2) (pduNat pdu 8 1) (pduData pdu) h1 (run := s.pduRun d pdu)
    (by simp only [decide_eq_true_eq]) h3
  exact execFslPduReceive_good h hp hd hg fun t ok j => ⟨(j.connRt _).trans conn, (j.get ok _ _ (by omega) (by decide)).trans state⟩

/-- The third in a row. -/
theorem execFslPduReceive_third {conn : Fin 4096} (hp : s.kerb.phase ≠ .off) (hd : s.conn? conn.val = some d) (hg : s.PduGood d pdu) (h1 : s.getF SFY_CONNSTAT_STATE d.no.val = 1)
    (h3 : 3 ≤ s.pduRun d pdu) : Gives (.fslPduReceive conn pdu) s fun t =>
      t.getF SFY_CONNSTAT_STATE d.no.val = 2 ∧ (t.connRt d.no.val).reint = ((s.connRt d.no.val).reint || d.autoReint) := by
  obtain ⟨state, reint⟩ := State.pduAccept_third_does h (decide (s.PduInWin d pdu)) (pduNat pdu 4 2) (pduNat pdu 8 1) (pduData pdu) h1 (run := s.pduRun d pdu)
    (by simp only [decide_eq_true_eq]) h3
  exact execFslPduReceive_good h hp hd hg fun t ok j => ⟨(j.get ok _ _ (by omega) (by decide)).trans state, (congrArg ConnRt.reint (j.connRt _)).trans reint⟩

/-- One while reintegration waits. -/
theorem execFslPduReceive_reint {conn : Fin 4096} (hp : s.kerb.phase ≠ .off) (hd : s.conn? conn.val = some d) (hg : s.PduGood d pdu) (h2 : s.getF SFY_CONNSTAT_STATE d.no.val = 2) :
    Gives (.fslPduReceive conn pdu) s fun t => t.getF SFY_CONNSTAT_STATE d.no.val = (if (s.connRt d.no.val).reint && !bitOf (pduNat pdu 8 1) 0 then 0 else 2) ∧
      ((s.connRt d.no.val).reint = true → bitOf (pduNat pdu 8 1) 0 = false → t.io.inbox = takeVals (s.connSigs d.ins) (pduData pdu) [] s.io.inbox) := by
  obtain ⟨state, inbox⟩ := State.pduAccept_reint_does h (decide (s.PduInWin d pdu)) (pduNat pdu 4 2) (pduNat pdu 8 1) (pduData pdu) h2
  exact execFslPduReceive_good h hp hd hg fun t ok j => ⟨(j.get ok _ _ (by omega) (by decide)).trans state, fun hr hf => j.inbox.trans (inbox hr hf)⟩

end


/-! ### The watchdog of a connection (R323) -/

/-- A connection passivated by its watchdog. -/
abbrev State.passivated (s : State) (n : Nat) : State := ((s.setF SFY_CONNSTAT_STATE 1 n).modConn n (fun c => { c with run := 0, reint := false })).bump SFY_CONNCNT_WDEXP n

/-- It is PASSIVE, and its expiry counts. -/
theorem State.passivated_shows {s : State} (h : s.RegsOk) {n : Nat} (hn : n < 65536) :
    (s.passivated n).RegsOk ∧ (s.passivated n).getF SFY_CONNSTAT_STATE n = 1 ∧
      (s.passivated n).getF SFY_CONNCNT_WDEXP n = sat SFY_CONNCNT_WDEXP.w (s.getF SFY_CONNCNT_WDEXP n + 1) := by
  generalize hu : (s.setF SFY_CONNSTAT_STATE 1 n).modConn n (fun c => { c with run := 0, reint := false }) = u
  have c : Chg s u [(SFY_CONNSTAT_STATE, n)] := hu ▸ ((Chg.refl h).setF SFY_CONNSTAT_STATE 1 n).same rfl
  have state : u.getF SFY_CONNSTAT_STATE n = 1 := hu ▸ getF_setF_fits (v := 1) h SFY_CONNSTAT_STATE (by decide)
  have count : u.getF SFY_CONNCNT_WDEXP n = s.getF SFY_CONNCNT_WDEXP n := c.only _ _ (by simpa using key_ne_of_place hn hn (by decide))
  rw [show s.passivated n = u.bump SFY_CONNCNT_WDEXP n by rw [← hu]]
  refine ⟨(c.bump _ _ _).ok, (getF_setF_ne _ _ c.ok (key_ne_of_place hn hn (by decide))).trans state, ?_⟩
  rw [getF_bump_sat c.ok, count]

/-- FSL_WATCHDOG_EXPIRY of no connection, or of one in PASSIVE. -/
theorem execFslWatchdogExpiry_stays {s : State} {conn : Fin 4096} (hp : s.kerb.phase ≠ .off) (hs : s.conn? conn.val = none ∨ s.getF SFY_CONNSTAT_STATE conn.val = 1) :
    Gives (.fslWatchdogExpiry conn) s fun t => t = s := by
  refine ⟨s, congrArg Host.Outcome.next ((State.powered_on hp _).trans ?_), rfl⟩
  dsimp only
  cases hd : s.conn? conn.val with
  | none => rfl
  | some d => exact if_pos (hs.resolve_left (by simp [hd]))

/-- FSL_WATCHDOG_EXPIRY of another: it is passivated, and the functions are judged. -/
theorem execFslWatchdogExpiry_passivates {s : State} (h : s.RegsOk) {conn : Fin 4096} (hp : s.kerb.phase ≠ .off) (hd : s.conn? conn.val ≠ none)
    (hs : s.getF SFY_CONNSTAT_STATE conn.val ≠ 1) : Gives (.fslWatchdogExpiry conn) s fun t => t.getF SFY_CONNSTAT_STATE conn.val = 1 ∧
      t.getF SFY_CONNCNT_WDEXP conn.val = sat SFY_CONNCNT_WDEXP.w (s.getF SFY_CONNCNT_WDEXP conn.val + 1) ∧ t.connRt conn.val = { s.connRt conn.val with run := 0, reint := false } := by
  have hn : conn.val < 65536 := by omega
  obtain ⟨ok, state, count⟩ := State.passivated_shows h hn
  have told := (Judged.refl (s.passivated conn.val)).report 0x0004 (0x2000 + conn.val) s.now 7 conn.val ok
  have j := told.trans (State.fnJudgeAll_judged (told.ok ok))
  refine ⟨_, congrArg Host.Outcome.next ((State.powered_on hp _).trans ?_), (j.get ok _ _ hn (by decide)).trans state, (j.get ok _ _ hn (by decide)).trans count, ?_⟩
  · obtain ⟨d, hd⟩ := Option.ne_none_iff_exists'.mp hd
    dsimp only
    rw [hd]
    exact if_neg hs
  · exact (j.connRt _).trans (State.connRt_modConn (s.setF SFY_CONNSTAT_STATE 1 conn.val) conn.val (fun c => { c with run := 0, reint := false }))

/-! ### The sample tick (R353) -/

/-- SAMPLE_TICK: of the registers after what waited for it is in force, those that it shows its samples in. -/
theorem execSampleTick_samples {s : State} (h : s.RegsOk) (half : Bool) (smp : List DioSamp) (v : BitVec 4) : Gives (.sampleTick half smp v) s fun t =>
    t.now = max s.now (s.tick * 62500 + (if half then 31250 else 0)) ∧ t.tick = s.tick ∧ t.getF DIO_STAT_VSLIM = v.toNat ∧ t.due = s.due.filter (fun d => !d.ripe .sample s.tick) ∧
      ∀ (f : Fld) (ix : Nat), ix < 65536 → (∀ g ∈ DIO_STAT_VSLIM :: sampleFlds, f.off * 32 + f.lo ≠ g.off * 32 + g.lo) → t.getF f ix = (s.applyDue .sample).getF f ix := by
  have ok : (s.applyDue .sample).RegsOk := (State.applyDue_keeps (Keeps.refl s)).regs h
  generalize hw : ({ s.applyDue .sample with now := max s.now (s.tick * 62500 + (if half then 31250 else 0)) } : State) = w
  have wok : w.RegsOk := hw ▸ ok
  have uok : (w.setF DIO_STAT_VSLIM v.toNat).RegsOk := regs_setF_rising _ _ _ _ wok
  have samples : Kept sampleFlds (w.setF DIO_STAT_VSLIM v.toNat) ((w.setF DIO_STAT_VSLIM v.toNat).sampleAll 0 smp) := State.sampleAll_kept smp uok 0
  have pairs := samples.foldl (l := ((w.setF DIO_STAT_VSLIM v.toNat).sampleAll 0 smp).cfg.fns) (f := fun s f => if f.kind = 0 && f.seat = s.seatB then s.pairTick f else s)
    fun u f _ hu => Kept.ite (hu.trans (State.pairTick_kept u f)) hu
  have judged := pairs.trans (State.fnJudgeAll_kept (pairs.ok uok))
  refine ⟨_, by subst hw; rfl, judged.now.trans (by subst hw; rfl), judged.tick.trans (by subst hw; rfl),
    (judged.get uok _ _ (by decide) (by decide)).trans (getF_setF_fits wok _ v.isLt), judged.due.trans (by subst hw; rfl), fun f ix hix hf => ?_⟩
  refine (judged.get uok f ix hix fun g hg => hf g (List.mem_cons_of_mem _ hg)).trans ((getF_setF_ne _ _ wok (key_ne_of_place hix (by decide) (hf _ (List.mem_cons_self ..)))).trans ?_)
  subst hw
  rfl

/-! ### Off-pulses (R332, R333) -/

/-- A universal channel that is changed is what the change makes of it. -/
theorem State.dioCh_modDio (s : State) (n : Nat) (f : DioCh → DioCh) : (s.modDio n f).dioCh n = f (s.dioCh n) := tabGet_tabSet_self _ _ _ _

/-- May an off-pulse of the channel begin? -/
abbrev State.mayPulse (s : State) (n : Nat) : Bool := s.getF DIO_CHCFG_MODE n = 5 && s.commanded n && !s.latched n && (s.dioCh n).pulse.isNone && !s.pulseWaits n

/-- The channel with its off-pulse begun. -/
def State.pulseBegun (s : State) (n : Nat) : State := s.modDio n (fun c => { c with pulse := some ⟨s.now, s.now + s.getF SFY_TESTCFG_WIDTH * 10000, 0, false⟩ })

/-- OFF_PULSE_START begins a pulse where one may begin. -/
theorem execOffPulseStart_eq (s : State) (ch : Fin 32) : exec (.offPulseStart ch) s = .next (if s.mayPulse ch.val then s.pulseBegun ch.val else s) := by
  have bar : (decide (s.getF DIO_CHCFG_MODE ch.val ≠ 5) || !s.commanded ch.val || s.latched ch.val || (s.dioCh ch.val).pulse.isSome || s.pulseWaits ch.val) = !s.mayPulse ch.val := by
    simp [State.mayPulse, Bool.not_and]
  refine congrArg Host.Outcome.next (Eq.trans (if_congr (Q := s.mayPulse ch.val = false) ?_ rfl rfl) ?_)
  · rw [bar, Bool.not_eq_true']
  · cases s.mayPulse ch.val <;> rfl

/-- The channel with its off-pulse at an end. -/
abbrev State.pulseEnded (s : State) (n : Nat) (p : OffPulse) : State := s.modDio n (fun c => { c with pulse := none, pulseEnd := max s.now p.stop, failed := !p.passed })

/-- What shows a failed off-pulse. -/
abbrev State.pulseFailed (s : State) (n : Nat) : State := ((s.bump SFY_TESTSTAT_PULSEFAIL).setF SFY_TESTSTAT_LASTCH n).setF DIO_CHSTAT_UNHEALTHY 1 n

/-- It counts, with its channel, which is unhealthy. -/
theorem State.pulseFailed_shows {s : State} (h : s.RegsOk) {n : Nat} (hn : n < 32) : (s.pulseFailed n).RegsOk ∧
    (s.pulseFailed n).getF SFY_TESTSTAT_PULSEFAIL = sat SFY_TESTSTAT_PULSEFAIL.w (s.getF SFY_TESTSTAT_PULSEFAIL + 1) ∧ (s.pulseFailed n).getF SFY_TESTSTAT_LASTCH = n ∧
    (s.pulseFailed n).flag DIO_CHSTAT_UNHEALTHY n = true := by
  have hn' : n < 65536 := by omega
  have c1 := (Chg.refl h).bump SFY_TESTSTAT_PULSEFAIL 0 1
  have c2 := c1.setF SFY_TESTSTAT_LASTCH n 0
  have rest : Chg (s.bump SFY_TESTSTAT_PULSEFAIL) (s.pulseFailed n) [(DIO_CHSTAT_UNHEALTHY, n), (SFY_TESTSTAT_LASTCH, 0)] := ((Chg.refl c1.ok).setF _ _ _).setF _ _ _
  refine ⟨rest.ok, (rest.only _ _ ?_).trans (getF_bump_sat h _ _ _), ?_, flag_setB_self c2.ok true rfl⟩
  · simpa using ⟨key_ne_of_place (by decide) hn' (by decide), key_ne_of_place (by decide) (by decide) (by decide)⟩
  · exact (getF_setF_ne _ _ c2.ok (key_ne_of_place (by decide) hn' (by decide))).trans (getF_setF_fits c1.ok SFY_TESTSTAT_LASTCH (Nat.lt_of_lt_of_le hn (by decide)))

/-- A passed test of a channel noted of a function. -/
def State.notePassed (n : Nat) (s : State) (f : FnDef) : State := if f.kind = 1 && (f.a = n || f.b = n) then s.modFn f.no.val (fun r => { r with passed := true }) else s

/-- Of all functions. -/
def State.pulsePassed (s : State) (n : Nat) : State := s.cfg.fns.foldl (State.notePassed n) s

/-- It moves the functions alone. -/
theorem State.pulsePassed_judged (s : State) (n : Nat) : Judged s (s.pulsePassed n) := by
  unfold State.pulsePassed
  generalize s.cfg.fns = l
  suffices all : ∀ t, Judged s t → Judged s (l.foldl (State.notePassed n) t) from all s (Judged.refl s)
  induction l with
  | nil => exact fun _ j => j
  | cons f l ih =>
    intro t j
    refine ih _ ?_
    unfold State.notePassed
    split
    · exact j.same rfl rfl rfl rfl rfl rfl rfl rfl
    · exact j

/-- OFF_PULSE_END of a channel that is pulsed. -/
theorem execOffPulseEnd_ends {s : State} (h : s.RegsOk) {ch : Fin 32} {p : OffPulse} (hp : (s.dioCh ch.val).pulse = some p) : Gives (.offPulseEnd ch) s fun t =>
    t.dioCh ch.val = { s.dioCh ch.val with pulse := none, pulseEnd := max s.now p.stop, failed := !p.passed } ∧
      (p.passed = false → t.getF SFY_TESTSTAT_PULSEFAIL = sat SFY_TESTSTAT_PULSEFAIL.w (s.getF SFY_TESTSTAT_PULSEFAIL + 1) ∧ t.getF SFY_TESTSTAT_LASTCH = ch.val ∧
        t.flag DIO_CHSTAT_UNHEALTHY ch.val = true) := by
  generalize hu : s.pulseEnded ch.val p = u
  have ok : u.RegsOk := hu ▸ h
  have channel : u.dioCh ch.val = { s.dioCh ch.val with pulse := none, pulseEnd := max s.now p.stop, failed := !p.passed } := by
    rw [← hu]
    exact State.dioCh_modDio s ch.val (fun c => { c with pulse := none, pulseEnd := max s.now p.stop, failed := !p.passed })
  have runs : exec (.offPulseEnd ch) s = .next (if p.passed then u.pulsePassed ch.val else (u.pulseFailed ch.val).evSafe 3 [ch.val]).fnJudgeAll := by
    refine congrArg Host.Outcome.next ?_
    dsimp only
    rw [hp, ← hu]
    rfl
  cases passed : p.passed with
  | true =>
    rw [passed] at runs channel
    have noted := u.pulsePassed_judged ch.val
    have j := noted.trans (State.fnJudgeAll_judged (noted.ok ok))
    exact ⟨_, runs, (j.dioCh _).trans channel, fun e => absurd e (by decide)⟩
  | false =>
    rw [passed] at runs channel
    obtain ⟨vok, count, last, sick⟩ := State.pulseFailed_shows ok ch.isLt
    have told := (Judged.refl (u.pulseFailed ch.val)).evSafe 3 [ch.val]
    have j := told.trans (State.fnJudgeAll_judged (told.ok vok))
    have before : u.getF SFY_TESTSTAT_PULSEFAIL = s.getF SFY_TESTSTAT_PULSEFAIL := by rw [← hu]; rfl
    exact ⟨_, runs, (j.dioCh _).trans channel, fun _ => ⟨(j.get vok _ _ (by decide) (by decide)).trans (count.trans (by rw [before])),
      (j.get vok _ _ (by decide) (by decide)).trans last, (j.kept.flag vok (by omega) (by decide)).trans sick⟩⟩

/-! ### How a degradation ends (R337, R338) -/

/-- The same field I/O, the same functions. -/
theorem State.fnRt_congr {s t : State} (e : t.io = s.io) (n : Nat) : t.fnRt n = s.fnRt n := by
  unfold State.fnRt
  rw [e]

/-- What a function shows of its state, with no minutes left in DEGRADED. -/
def FnShows (k n : Nat) (t : State) : Prop := t.getF SFY_FNSTAT_STATE n = k ∧ t.getF SFY_FNSTAT_DEGLEFT n = 0

/-- The same registers, the same function. -/
theorem FnShows.same {k n : Nat} {t u : State} (w : FnShows k n t) (e : u.regs = t.regs) : FnShows k n u := by
  obtain ⟨state, left⟩ := w
  exact ⟨(getF_same e).trans state, (getF_same e).trans left⟩

/-- What all functions show together leaves each one's registers. -/
theorem FnShows.fnSummary {k n : Nat} {t : State} (w : FnShows k n t) (h : t.RegsOk) (hn : n < 65536) : FnShows k n t.fnSummary := by
  have summary : Kept [SFY_STAT_DEGR, SFY_STAT_TRIP] t t.fnSummary := ((Kept.refl t).setB _ (by decide) (by decide)).setB _ (by decide) (by decide)
  obtain ⟨state, left⟩ := w
  exact ⟨(summary.get h _ _ hn (by decide)).trans state, (summary.get h _ _ hn (by decide)).trans left⟩

/-- A function put into a state. -/
abbrev State.fnPut (s : State) (k n : Nat) : State := (s.setF SFY_FNSTAT_STATE k n).setF SFY_FNSTAT_DEGLEFT 0 n

/-- It is in that state. -/
theorem State.fnPut_shows {s : State} (h : s.RegsOk) {k n : Nat} (hk : k < 4) (hn : n < 65536) : (s.fnPut k n).RegsOk ∧ FnShows k n (s.fnPut k n) := by
  have c := (Chg.refl h).setF SFY_FNSTAT_STATE k n
  exact ⟨(c.setF _ _ _).ok, (getF_setF_ne _ _ c.ok (key_ne_of_place hn hn (by decide))).trans (getF_setF_fits h SFY_FNSTAT_STATE hk), getF_setF_fits c.ok SFY_FNSTAT_DEGLEFT (by decide)⟩

/-- A trip shows. -/
theorem State.fnTrip_shows {s : State} (h : s.RegsOk) {n : Nat} (hn : n < 65536) : FnShows 2 n (s.fnTrip n) := by
  obtain ⟨ok, put⟩ := State.fnPut_shows h (k := 2) (by decide) hn
  have told : FnShows 2 n ((s.fnPut 2 n).evSafe 1 [n]) := put.same (State.event_regs ..)
  have shown := told.fnSummary (((Judged.refl (s.fnPut 2 n)).evSafe 1 [n]).ok ok) hn
  obtain ⟨i, m, e⟩ := State.aoAll_frame ((s.fnPut 2 n).evSafe 1 [n]).fnSummary
  exact shown.same (congrArg State.regs e : (s.fnTrip n).regs = _)

/-- A return to normal shows, and the carried time ends. -/
theorem State.fnNormal_shows {s : State} (h : s.RegsOk) {n : Nat} (hn : n < 65536) : FnShows 0 n (s.fnNormal n) ∧ ((s.fnNormal n).fnRt n).since = none := by
  generalize hu : ({ s.modFn n (fun r => { r with since := none, healthy := none, passed := false }) with kerb := { s.kerb with degMram := tabDel s.kerb.degMram n } } : State) = u
  have uok : u.RegsOk := hu ▸ h
  have normal : s.fnNormal n = (u.fnPut 0 n).fnSummary := by rw [← hu]; rfl
  have rt : (u.fnRt n).since = none := by
    rw [← hu]
    exact congrArg FnRt.since (tabGet_tabSet_self _ _ _ _)
  obtain ⟨ok, put⟩ := State.fnPut_shows uok (k := 0) (by decide) hn
  rw [normal]
  exact ⟨put.fnSummary ok hn, rt⟩

/-- DEGMAX_EXPIRY of a function still DEGRADED. -/
theorem execDegmaxExpiry_trips {s : State} (h : s.RegsOk) {f : Fin 4096} (hs : s.getF SFY_FNSTAT_STATE f.val = 1) :
    Gives (.degmaxExpiry f) s fun t => t.getF SFY_FNSTAT_STATE f.val = 2 ∧ t.getF SFY_FNSTAT_DEGLEFT f.val = 0 :=
  ⟨_, congrArg Host.Outcome.next (if_pos hs), State.fnTrip_shows h (by omega)⟩

/-- Has a function recovered: a bad channel healthy for 10 s, for an output with a passed test in them? -/
abbrev State.FnWell (s : State) (n : Nat) : Prop :=
  s.getF SFY_FNSTAT_STATE n = 1 ∧ (s.fnRt n).healthy.isSome = true ∧ ∃ d, s.fnDef? n = some d ∧ (d.kind = 1 → (s.fnRt n).passed = true)

/-- DEGRADED_RECOVERY of a function that has not recovered. -/
theorem execDegradedRecovery_stays {s : State} {f : Fin 4096} (hw : ¬ s.FnWell f.val) : exec (.degradedRecovery f) s = .next s := by
  refine congrArg Host.Outcome.next ?_
  cases hd : s.fnDef? f.val with
  | none => rfl
  | some d =>
    refine if_neg fun hc => hw ?_
    simp only [Bool.and_eq_true, Bool.or_eq_true, decide_eq_true_eq] at hc
    obtain ⟨⟨state, healthy⟩, test⟩ := hc
    exact ⟨state, healthy, d, hd, fun k => test.resolve_left (not_not.mpr k)⟩

/-- DEGRADED_RECOVERY of one that has. -/
theorem execDegradedRecovery_recovers {s : State} (h : s.RegsOk) {f : Fin 4096} (hw : s.FnWell f.val) :
    Gives (.degradedRecovery f) s fun t => t.getF SFY_FNSTAT_STATE f.val = 0 ∧ t.getF SFY_FNSTAT_DEGLEFT f.val = 0 ∧ (t.fnRt f.val).since = none := by
  obtain ⟨shows, rt⟩ := State.fnNormal_shows h (n := f.val) (by omega)
  obtain ⟨state, left⟩ := shows.same (State.event_regs _ 0x0106 0xFFFF (words [4, f.val]))
  obtain ⟨degraded, healthy, d, hd, test⟩ := hw
  refine ⟨(s.fnNormal f.val).evSafe 4 [f.val], congrArg Host.Outcome.next ?_, state, left, (congrArg FnRt.since (State.fnRt_congr (State.event_io ..) f.val)).trans rt⟩
  dsimp only
  rw [hd]
  refine if_pos ?_
  simp only [Bool.and_eq_true, Bool.or_eq_true, decide_eq_true_eq]
  exact ⟨⟨degraded, healthy⟩, (em (d.kind = 1)).symm.imp id test⟩

/-! ### VALACK (R346) -/

section
variable {s : State} {p : Path} {v : W32}

/-- The signature in force reads the same where the count of refused writes is set aside. -/
theorem State.sig0_aside (h : s.RegsOk) : s.aside.getF SFY_SIG0_SIG = s.getF SFY_SIG0_SIG := getF_aside h _ (by decide)

/-- A VALACK without SAFETY-EDIT is ignored. -/
theorem State.valack_barred (h : s.RegsOk) (he : s.safetyEdit = false) : s.aside.cmdSfyValackWrite p v = s.aside.ignored p 0xC000C 1 :=
  if_pos (by rw [safetyEdit_aside h, he]; rfl)

/-- One of the right signature validates. -/
theorem State.valack_right (h : s.RegsOk) (he : s.safetyEdit = true) (hv : v.toNat = s.getF SFY_SIG0_SIG) : s.aside.cmdSfyValackWrite p v = s.aside.setF SFY_STAT_UNVAL 0 :=
  (if_neg (by rw [safetyEdit_aside h, he]; decide)).trans (if_pos (hv.trans (State.sig0_aside h).symm))

/-- One of another is ignored, and counts as a refused acknowledgement. -/
theorem State.valack_wrong (h : s.RegsOk) (he : s.safetyEdit = true) (hv : v.toNat ≠ s.getF SFY_SIG0_SIG) :
    s.aside.cmdSfyValackWrite p v = (s.aside.ignored p 0xC000C 5).bump SFY_STAT_ACKREF :=
  (if_neg (by rw [safetyEdit_aside h, he]; decide)).trans (if_neg fun e => hv (e.trans (State.sig0_aside h)))

/-- SFY_VALACK_WRITE of the right signature. -/
theorem execSfyValackWrite_validates (h : s.RegsOk) (hr : s.Runs) (he : s.safetyEdit = true) (hv : v.toNat = s.getF SFY_SIG0_SIG) :
    Gives (.sfyValackWrite p v) s fun t => t.flag SFY_STAT_UNVAL = false ∧ t = { s with regs := t.regs } ∧ OnlyRegsW 12 s t [(SFY_STAT_UNVAL, 0)] := by
  have aok := (Chg.aside h).ok
  obtain ⟨frame, only, reads⟩ := State.written_does (p := p) (off := 0xC000C) (f := fun s => s.cmdSfyValackWrite p v) hr h (State.valack_right h he hv) ((Chg.refl aok).setF SFY_STAT_UNVAL 0 0)
    (hr.not_boot rfl)
  have unval : (s.aside.setF SFY_STAT_UNVAL 0).getF SFY_STAT_UNVAL = 0 := getF_setF_fits aok _ (by decide)
  refine ⟨_, rfl, ?_, frame, only⟩
  show decide _ = false
  rw [reads _ _ (book_ne (by decide) (by decide)), unval]
  rfl

/-- SFY_VALACK_WRITE of a wrong signature. -/
theorem execSfyValackWrite_refuses (h : s.RegsOk) (hr : s.Runs) (he : s.safetyEdit = true) (hv : v.toNat ≠ s.getF SFY_SIG0_SIG) :
    Gives (.sfyValackWrite p v) s fun t => t.getF KRB_IGNSTAT_CAUSE = 5 ∧ t.getF SFY_STAT_ACKREF = sat SFY_STAT_ACKREF.w (s.getF SFY_STAT_ACKREF + 1) ∧ t = { s with regs := t.regs } := by
  have aok := (Chg.aside h).ok
  obtain ⟨⟨r, e⟩, c, cause, -, -⟩ := State.ignored_does aok p (off := 0xC000C) (by decide) 5
  obtain ⟨frame, -, reads⟩ := State.written_does (p := p) (off := 0xC000C) (f := fun s => s.cmdSfyValackWrite p v) hr h (State.valack_wrong h he hv) (c.bump SFY_STAT_ACKREF 0 1)
    (hr.not_boot (by rw [e]; rfl))
  have count : (s.aside.ignored p 0xC000C 5).getF SFY_STAT_ACKREF = s.getF SFY_STAT_ACKREF := (c.only _ _ (by decide)).trans (getF_aside h _ (by decide))
  refine ⟨_, rfl, ?_, ?_, frame.trans (by rw [e]; rfl)⟩
  · exact (reads _ _ (book_ne (by decide) (by decide))).trans ((getF_setF_ne _ _ c.ok (by decide)).trans cause)
  · rw [← count]
    exact (reads _ _ (book_ne (by decide) (by decide))).trans (getF_bump_sat c.ok _ _ _)

end

/-! ### Field supplies, input tests and overloads (R351, R356, R359) -/

/-- FIELD_SUPPLY_CHANGE: beside the supply's own flag, what shows the channels and the functions. -/
theorem execFieldSupplyChange_shows {s : State} (h : s.RegsOk) (b present : Bool) :
    Gives (.fieldSupplyChange b present) s fun t => Kept sickFlds (s.setB (if b then DIO_STAT_FSB else DIO_STAT_FSA) present) t := by
  generalize hu : s.setB (if b then DIO_STAT_FSB else DIO_STAT_FSA) present = u
  have uok : u.RegsOk := hu ▸ regs_setF_rising _ _ _ _ h
  obtain ⟨a, e⟩ := State.evHw_frame u 2 [b2n b, b2n present]
  have told : Kept sickFlds u (u.evHw 2 [b2n b, b2n present]) := (Kept.refl u).same (by rw [e]) (by rw [e]) (by rw [e]) (by rw [e])
  have channels := told.foldl (l := List.range 32) (f := fun s n => s.showSick n)
    fun w n hn hw => hw.trans ((w.showSick_kept (Nat.lt_trans (List.mem_range.mp hn) (by decide))).mono (by decide))
  have inputs := channels.foldl (l := List.range 16) (f := fun s n => s.showAi n)
    fun w n hn hw => hw.trans ((w.showAi_sampled (Nat.lt_trans (List.mem_range.mp hn) (by decide))).kept.mono (by decide))
  exact ⟨_, by subst hu; rfl, inputs.trans ((State.fnJudgeAll_judged (inputs.ok uok)).kept.mono (by decide))⟩

/-- The supply's flag, and the other one's. -/
theorem execFieldSupplyChange_flags {s : State} (h : s.RegsOk) (b present : Bool) : Gives (.fieldSupplyChange b present) s fun t =>
    t.flag (if b then DIO_STAT_FSB else DIO_STAT_FSA) = present ∧
      t.flag (if b then DIO_STAT_FSA else DIO_STAT_FSB) = s.flag (if b then DIO_STAT_FSA else DIO_STAT_FSB) ∧ t.now = s.now := by
  obtain ⟨t, runs, k⟩ := execFieldSupplyChange_shows h b present
  have uok : (s.setB (if b then DIO_STAT_FSB else DIO_STAT_FSA) present).RegsOk := regs_setF_rising _ _ _ _ h
  refine ⟨t, runs, ?_, ?_, k.now⟩
  · rw [k.flag uok (by decide) (by cases b <;> decide)]
    exact flag_setB_self h present (by cases b <;> rfl)
  · rw [k.flag uok (by decide) (by cases b <;> decide)]
    exact flag_setB_ne h (by cases b <;> decide)

/-- INPUT_TEST of an input. -/
theorem execInputTest_shows {s : State} (h : s.RegsOk) {ch : Fin 32} (hm : isIn (s.getF DIO_CHCFG_MODE ch.val) = true) (passed : Bool) :
    Gives (.inputTest ch passed) s fun t => t.flag DIO_CHSTAT_TESTFAIL ch.val = !passed := by
  have hn : ch.val < 65536 := by omega
  have c := (Chg.refl h).setB DIO_CHSTAT_TESTFAIL (!passed) ch.val
  exact ⟨_, congrArg Host.Outcome.next (if_pos hm), ((State.showSick_judged c.ok hn).flag c.ok hn (by decide)).trans (flag_setB_self h (!passed) rfl)⟩

/-- OUTPUT_OVERLOAD of an output that is driven on. -/
theorem execOutputOverload_latches {s : State} (h : s.RegsOk) {ch : Fin 32} (hd : s.driven ch.val = true) (therm : Bool) :
    Gives (.outputOverload ch therm) s fun t => t.flag (if therm then DIO_CHSTAT_THERM else DIO_CHSTAT_OVL) ch.val = true ∧
      t.getF DIO_STAT_OVLCNT = sat DIO_STAT_OVLCNT.w (s.getF DIO_STAT_OVLCNT + 1) := by
  have hn : ch.val < 65536 := by omega
  have c1 := (Chg.refl h).bump DIO_STAT_OVLCNT 0 1
  have c2 := c1.setF (if therm then DIO_CHSTAT_THERM else DIO_CHSTAT_OVL) 1 ch.val
  have k := State.showSick_judged c2.ok hn
  refine ⟨_, congrArg Host.Outcome.next (if_pos hd), ?_, ?_⟩
  · rw [k.flag c2.ok hn (by cases therm <;> decide)]
    exact flag_setB_self c1.ok true (by cases therm <;> rfl)
  · rw [k.get c2.ok _ _ (by decide) (by decide)]
    exact (getF_setF_ne _ _ c1.ok (key_ne_of_place (by decide) hn (by cases therm <;> decide))).trans (getF_bump_sat h _ _ _)

/-! ### The obligation -/

/-- Settles O52: PDUs by the order in which they are judged and by the state of their connection, then the watchdog, the sample tick, the off-pulses, the ends of a
degradation, VALACK, and what shows of the field supplies, the input tests and the overloads. -/
theorem safetyFunctions : Obligations.SafetyFunctions := by
  unfold Obligations.SafetyFunctions
  intro s h
  refine ⟨fun conn pdu hp => ⟨fun hd => ?_, fun d hd => ?_⟩, fun conn hp => ⟨execFslWatchdogExpiry_stays hp, execFslWatchdogExpiry_passivates h hp⟩, execSampleTick_samples h,
    fun ch => ?_, fun ch => ⟨fun hp => ?_, fun p hp => execOffPulseEnd_ends h hp⟩, fun f => ⟨fun hs => ?_, execDegmaxExpiry_trips h, fun hw => ?_, execDegradedRecovery_recovers h⟩,
    fun p v hr => ⟨fun he => ?_, execSfyValackWrite_validates h hr, execSfyValackWrite_refuses h hr⟩, execFieldSupplyChange_flags h,
    fun ch passed => ⟨fun hm => ?_, fun hm => execInputTest_shows h hm passed⟩, fun ch therm => ⟨fun hd => ?_, fun hd => execOutputOverload_latches h hd therm⟩⟩
  case refine_1 => exact ⟨s, congrArg Host.Outcome.next ((State.powered_on hp _).trans (by rw [hd])), rfl⟩
  case refine_2 =>
    obtain ⟨form, epoch, win, echo⟩ := execFslPduReceive_drops h hp hd (pdu := pdu)
    exact ⟨form, epoch, win, echo, execFslPduReceive_active h hp hd, execFslPduReceive_passive h hp hd, execFslPduReceive_third h hp hd, execFslPduReceive_reint h hp hd⟩
  case refine_3 =>
    exact ⟨fun hm => ⟨s, (execOffPulseStart_eq s ch).trans (congrArg Host.Outcome.next (if_neg (Bool.eq_false_iff.mp hm))), rfl⟩,
      fun hm => ⟨_, (execOffPulseStart_eq s ch).trans (congrArg Host.Outcome.next (if_pos hm)), State.dioCh_modDio s ch.val _, rfl⟩⟩
  case refine_4 => exact ⟨s, congrArg Host.Outcome.next (by dsimp only; rw [hp]), rfl⟩
  case refine_5 => exact ⟨s, congrArg Host.Outcome.next (if_neg hs), rfl⟩
  case refine_6 => exact ⟨s, execDegradedRecovery_stays hw, rfl⟩
  case refine_7 => exact ⟨_, rfl, State.written_ign hr h (State.valack_barred h he) (by decide) (by decide) rfl⟩
  case refine_8 => exact ⟨s, congrArg Host.Outcome.next (if_neg (by rw [hm]; decide)), rfl⟩
  case refine_9 => exact ⟨s, congrArg Host.Outcome.next (if_neg (by rw [hd]; decide)), rfl⟩

end Sys2Proof.Machine
end

section
/-! PROOFS. One step of the block, whatever command waits (00; 07; 95), and the state after reset (02, R46; 08, R191; 17, R434). -/
namespace Sys2Proof.Machine

/-- Every meaning ends in a next state. -/
theorem exec_next (c : Instr) (s : State) : ∃ t, exec c s = .next t := by
  cases c <;> exact ⟨_, rfl⟩

/-- Every command keeps what every operation keeps, but for the number of the base tick. -/
theorem exec_keepsB (c : Instr) (s : State) : EKeepsB s (exec c s) := by
  by_cases hb : ∃ w, c = .baseTick w
  · obtain ⟨w, rfl⟩ := hb
    exact execBaseTick_keeps (Keeps.refl s)
  · by_cases hp : ∃ d o, c = .ptpSync d o
    · obtain ⟨d, o, rfl⟩ := hp
      exact execPtpSync_keeps (Keeps.refl s)
    · exact fun t ht => KeepsB.of (exec_keeps (fun w e => hb ⟨w, e⟩) (fun d o e => hp ⟨d, o, e⟩) s t ht)

/-- With no command waiting a step answers the state as it is. -/
theorem step_nil {s : State} (h : s.pending = []) : step s = .next s := by
  unfold step
  rw [h]

/-- A step takes the front of the queue and carries it out on the state with the rest. -/
theorem step_cons {s : State} {c : Instr} {rest : List Instr} (h : s.pending = c :: rest) : step s = exec c { s with pending := rest } := by
  unfold step
  rw [h]

/-- Every step answers a next state. -/
theorem step_next (s : State) : ∃ t, step s = .next t := by
  cases h : s.pending with
  | nil => exact ⟨s, step_nil h⟩
  | cons c rest => rw [step_cons h]; exact exec_next c _

/-- What keeps all but the tick keeps a sound state sound. -/
theorem KeepsB.sound {a b : State} (h : KeepsB a b) (hs : a.Sound) : b.Sound := by
  obtain ⟨n, k⟩ := h
  obtain ⟨⟨hmem, hcode⟩, hregs⟩ := hs
  exact ⟨⟨k.mem hmem, k.code hcode⟩, k.regs hregs⟩

/-- Settles O58: an idle step changes nothing; a command is carried out on the rest of the queue, which is as sound, and keeps what every operation keeps. -/
theorem stepKeepsSound : Obligations.StepKeepsSound := by
  unfold Obligations.StepKeepsSound
  intro s t hs ht
  cases h : s.pending with
  | nil =>
    obtain rfl : s = t := by simpa [step_nil h] using ht
    exact ⟨hs, h, List.prefix_rfl, Nat.le_refl _⟩
  | cons c rest =>
    rw [step_cons h] at ht
    have k := exec_keepsB c _ t ht
    refine ⟨k.sound (a := { s with pending := rest }) hs, ?_⟩
    obtain ⟨n, k⟩ := k
    exact ⟨k.pending, k.out, k.fresh⟩

/-- Settles O55: the front of the queue is what a step takes. -/
theorem stepRunsFront : Obligations.StepRunsFront := by
  unfold Obligations.StepRunsFront
  intro c rest s
  exact step_cons rfl

/-- Settles O56: an empty queue holds no command to take. -/
theorem stepIdles : Obligations.StepIdles := by
  unfold Obligations.StepIdles
  exact fun s h => step_nil h

/-- Settles O57: every meaning ends in a next state, so every step answers one, and a run is safe by induction on its length. -/
theorem everyCommandRuns : Obligations.EveryCommandRuns := by
  unfold Obligations.EveryCommandRuns
  refine ⟨exec_next, fun n => ?_⟩
  induction n with
  | zero => exact fun _ => trivial
  | succ n ih =>
    intro s
    obtain ⟨t, ht⟩ := step_next s
    exact ⟨t, ht, ih t⟩

/-- Settles O59: the memories and the queue are empty after reset, and the register file lists a few fields in rising order, none of them STEP, MODE, ROLE or STATE. -/
theorem resetSound : Obligations.ResetSound := by
  unfold Obligations.ResetSound
  have regs : State.reset.RegsOk := by decide
  exact ⟨⟨⟨rfl, rfl⟩, regs⟩, rfl, rfl, rfl, rfl, rfl, rfl, rfl, rfl⟩

end Sys2Proof.Machine
end


section
/-! PROOFS. The supplies' events: sag, temperatures, the peak store and cooling (18, R464 to R468, R473). -/
namespace Sys2Proof.Machine

/-- CAPPED and STOREFLT are no sensor's. -/
theorem measure_flags {s : State} (h : s.RegsOk) (m : PwrMeas) :
    (s.measure m).flag PWR_STAT_CAPPED = s.flag PWR_STAT_CAPPED ∧ (s.measure m).flag PWR_STAT_STOREFLT = s.flag PWR_STAT_STOREFLT :=
  ⟨(Chg.measure h m).flag (by decide), (Chg.measure h m).flag (by decide)⟩

/-- The sag step put after measuring: the Kerb's step, the lane clock, and what else moves. -/
theorem State.measure_setSag {s : State} (h : s.RegsOk) (m : PwrMeas) {c : Nat} (hc : c ≠ s.kerb.sag) :
    let t := (s.measure m).setSag c
    t.kerb = { s.kerb with sag := c } ∧ t.getF PWR_BUS_V = m.bus.toNat % 2 ^ 16 ∧
    t.getF PWR_STAT_LANECLK = clkStep c s.kerb.therm (s.flag PWR_STAT_CAPPED) (s.flag PWR_STAT_STOREFLT) ∧ t = { s with regs := t.regs, arc := t.arc, kerb := t.kerb } ∧
    OnlyRegs s t (sensorFields ++ [(PWR_STAT_LANECLK, 0), (PWR_STAT_SAG, 0), (PWR_STAT_THERM, 0), (PWR_STAT_SAGCNT, 0)]) := by
  have cm := Chg.measure h m
  obtain ⟨⟨r, a, e⟩, cs, hclk⟩ := State.setSag_does cm.ok (c := c) (by rwa [State.measure_kerb])
  obtain ⟨hbus, -⟩ := State.measure_reads h m
  obtain ⟨hcap, hflt⟩ := measure_flags h m
  obtain ⟨r0, a0, e0⟩ := s.measure_frame m
  rw [State.measure_kerb, hcap, hflt] at hclk
  have frame : (s.measure m).setSag c = { s with regs := r, arc := a, kerb := { s.kerb with sag := c } } := by rw [e, e0]
  intro t
  exact ⟨congrArg State.kerb frame, (cs.only _ _ (by decide)).trans hbus, hclk, by rw [show t = _ from frame], ((cm.trans cs).mono (by decide)).only⟩

/-- The thermal step put after measuring. -/
theorem State.measure_setTherm {s : State} (h : s.RegsOk) (m : PwrMeas) {c : Nat} (hc : c ≠ s.kerb.therm) :
    let t := (s.measure m).setTherm c
    t.kerb = { s.kerb with therm := c } ∧ t.getF PWR_STAT_LANECLK = clkStep s.kerb.sag c (s.flag PWR_STAT_CAPPED) (s.flag PWR_STAT_STOREFLT) ∧
    t = { s with regs := t.regs, arc := t.arc, kerb := t.kerb } ∧
    OnlyRegs s t (sensorFields ++ [(PWR_STAT_LANECLK, 0), (PWR_STAT_SAG, 0), (PWR_STAT_THERM, 0), (PWR_STAT_THCNT, 0)]) := by
  have cm := Chg.measure h m
  obtain ⟨⟨r, a, e⟩, cs, hclk⟩ := State.setTherm_does cm.ok (c := c) (by rwa [State.measure_kerb])
  obtain ⟨hcap, hflt⟩ := measure_flags h m
  obtain ⟨r0, a0, e0⟩ := s.measure_frame m
  rw [State.measure_kerb, hcap, hflt] at hclk
  have frame : (s.measure m).setTherm c = { s with regs := r, arc := a, kerb := { s.kerb with therm := c } } := by rw [e, e0]
  intro t
  exact ⟨congrArg State.kerb frame, hclk, by rw [show t = _ from frame], ((cm.trans cs).mono (by decide)).only⟩

/-! ### When the steps move (Tables 18-2 and 18-3) -/

section
variable {s : State} {m : PwrMeas}

/-- A bus voltage that permits only a lower clock. -/
theorem execSagStepDown_steps (h : s.RegsOk) (hs : s.kerb.sag < sagOf (m.bus.toNat % 2 ^ 16)) :
    exec (.sagStepDown m) s = .next ((s.measure m).setSag (sagOf (m.bus.toNat % 2 ^ 16))) := by
  obtain ⟨hbus, -⟩ := State.measure_reads h m
  show execSagStepDown m s = _
  unfold execSagStepDown
  dsimp only
  rw [hbus, State.measure_kerb, if_pos hs]

/-- A bus voltage 1.0 V above the threshold of the next higher step. -/
theorem execSagStepUp_steps (h : s.RegsOk) (h0 : 0 < s.kerb.sag) (hb : sagFloor (s.kerb.sag - 1) + 100 ≤ m.bus.toNat % 2 ^ 16) :
    exec (.sagStepUp m) s = .next ((s.measure m).setSag (s.kerb.sag - 1)) := by
  obtain ⟨hbus, -⟩ := State.measure_reads h m
  show execSagStepUp m s = _
  unfold execSagStepUp
  dsimp only
  rw [hbus, State.measure_kerb, if_pos (Bool.and_eq_true_iff.mpr ⟨decide_eq_true h0, decide_eq_true hb⟩)]

/-- A die or a stack at its cap threshold; no thermal step follows the cold plate. -/
theorem execThermalStepDown_steps (h : s.RegsOk) (h4 : s.kerb.therm < 4) (ht : 1050 ≤ sgn 16 (m.temp.toNat / 2 ^ 16) ∨ 950 ≤ sgn 16 (m.temp2.toNat / 2 ^ 16)) :
    exec (.thermalStepDown m) s = .next ((s.measure m).setTherm (s.kerb.therm + 1)) := by
  obtain ⟨-, -, hdie, -, hstack, -⟩ := State.measure_reads h m
  have hot : (s.measure m).hotAt 1050 950 32768 = true := by
    simp only [State.hotAt, State.temps, hdie, hstack, Bool.or_eq_true, decide_eq_true_eq, ge_iff_le]
    exact .inl ht
  show execThermalStepDown m s = _
  unfold execThermalStepDown
  dsimp only
  rw [if_pos hot, State.measure_kerb, Nat.min_eq_right h4]

/-- Dies and stacks 5 K below their cap thresholds. -/
theorem execThermalStepUp_steps (h : s.RegsOk) (hd : sgn 16 (m.temp.toNat / 2 ^ 16) ≤ 1000) (hs : sgn 16 (m.temp2.toNat / 2 ^ 16) ≤ 900) :
    exec (.thermalStepUp m) s = .next ((s.measure m).setTherm (s.kerb.therm - 1)) := by
  obtain ⟨-, -, hdie, -, hstack, -⟩ := State.measure_reads h m
  show execThermalStepUp m s = _
  unfold execThermalStepUp
  dsimp only
  rw [State.measure_kerb, State.temps, hdie, hstack, if_pos (by rw [decide_eq_false (not_lt.mpr hd), decide_eq_false (not_lt.mpr hs)]; rfl)]

/-! ### The peak store and the coolant (R464, R473) -/

/-- A fault of the store not yet shown. -/
theorem execStoreFault_shows (h : s.RegsOk) (h0 : s.getF PWR_STAT_STOREFLT = 0) : Gives (.storeFault m) s fun t => t.getF PWR_STAT_STOREFLT = 1 ∧
    t.getF PWR_STAT_LANECLK = clkStep s.kerb.sag s.kerb.therm (s.flag PWR_STAT_CAPPED) true ∧ t = { s with regs := t.regs, arc := t.arc } ∧
    OnlyRegs s t (sensorFields ++ [(PWR_STAT_STOREFLT, 0), (PWR_STAT_LANECLK, 0), (PWR_STAT_SAG, 0), (PWR_STAT_THERM, 0)]) := by
  have cm := Chg.measure h m
  obtain ⟨r0, a0, e0⟩ := s.measure_frame m
  obtain ⟨-, hflt⟩ := measure_flags h m
  have hnot : ¬ (s.measure m).flag PWR_STAT_STOREFLT = true := by rw [hflt]; simp [State.flag, h0]
  obtain ⟨a, ha⟩ := State.evHw_frame ((s.measure m).setF PWR_STAT_STOREFLT 1) 34 [(s.measure m).getF PWR_BUS_CHARGE]
  have c2 := (cm.setF PWR_STAT_STOREFLT 1 0).evHw 34 [(s.measure m).getF PWR_BUS_CHARGE]
  have hset : (((s.measure m).setF PWR_STAT_STOREFLT 1).evHw 34 [(s.measure m).getF PWR_BUS_CHARGE]).getF PWR_STAT_STOREFLT = 1 :=
    (getF_same (State.event_regs ..)).trans (getF_setF_self _ _ _ _ cm.ok)
  obtain ⟨hl, cl, hclk⟩ := State.laneClock_does c2.ok
  refine ⟨_, congrArg Host.Outcome.next (if_neg hnot), (cl.only _ _ (by decide)).trans hset, ?_, ?_, ((c2.trans cl).mono (by decide)).only⟩
  · have hkerb := (congrArg State.kerb ha).trans (State.measure_kerb s m)
    have hstore := congrArg (fun n => decide (n ≠ 0)) hset
    rw [hclk, hkerb, c2.flag (by decide), show State.flag _ PWR_STAT_STOREFLT = true from hstore]
  · rw [hl, ha, e0]; rfl

/-- The coolant shown lost: the Kerb knows it, COOLOK is cleared, and the record is written. -/
def State.coolantLost (s : State) : State := ((s.modKerb (fun k => { k with coolGone := true })).setF PWR_STAT_COOLOK 0).evHw 36 [0]

/-- What showing it leaves. -/
theorem State.coolantLost_does {u : State} (h : u.RegsOk) : u.coolantLost.getF PWR_STAT_COOLOK = 0 ∧ Chg u u.coolantLost [(PWR_STAT_COOLOK, 0)] ∧
    ∃ r a, u.coolantLost = { u with regs := r, arc := a, kerb := { u.kerb with coolGone := true } } := by
  have c0 := (Chg.refl h).same (u := u.modKerb (fun k => { k with coolGone := true })) rfl
  have hok := getF_setF_self _ PWR_STAT_COOLOK 0 0 c0.ok
  have c1 := c0.setF PWR_STAT_COOLOK 0 0
  unfold State.coolantLost
  generalize hv : (u.modKerb (fun k => { k with coolGone := true })).setF PWR_STAT_COOLOK 0 = v at *
  obtain ⟨a, ha⟩ := State.evHw_frame v 36 [0]
  exact ⟨(getF_same (State.event_regs ..)).trans hok, c1.evHw 36 [0], v.regs, a, by rw [ha, ← hv]; rfl⟩

/-- A module that does not lead enters the capped state without asking for a switch-over. -/
theorem State.enterCapped_does {u : State} (h : u.RegsOk) (hl : u.isLead = false) : u.enterCapped.getF PWR_STAT_CAPPED ≠ 0 ∧
    Chg u u.enterCapped [(PWR_STAT_CAPPED, 0), (PWR_STAT_LANECLK, 0), (PWR_STAT_SAG, 0), (PWR_STAT_THERM, 0)] ∧ ∃ r, u.enterCapped = { u with regs := r } := by
  unfold State.enterCapped
  split
  · next hc => exact ⟨by simpa [State.flag] using hc, (Chg.refl h).mono (by simp), u.regs, rfl⟩
  · have c := (Chg.refl h).setF PWR_STAT_CAPPED 1 0
    obtain ⟨e, cl, -⟩ := State.laneClock_does c.ok
    have hlead : (u.setF PWR_STAT_CAPPED 1).laneClock.isLead = false := by
      unfold State.isLead at *
      rwa [(c.trans cl).only _ _ (by decide)]
    have h1 : (u.setF PWR_STAT_CAPPED 1).laneClock.getF PWR_STAT_CAPPED = 1 := (cl.only _ _ (by decide)).trans (getF_setF_self _ _ _ _ h)
    dsimp only
    rw [if_neg (by simp [hlead])]
    exact ⟨by rw [h1]; decide, (c.trans cl).mono (by decide), _, e⟩

/-- A flow below 1.0 L/min. -/
theorem execCoolantLoss_caps (h : s.RegsOk) (hf : m.flow.toNat % 2 ^ 16 < 100) (hb : s.kerb.phase ≠ .boot) (hl : s.isLead = false) :
    Gives (.coolantLoss m) s fun t => t.kerb = { s.kerb with coolGone := true } ∧ t.getF PWR_STAT_COOLOK = 0 ∧ t.getF PWR_STAT_CAPPED ≠ 0 ∧
      t = { s with regs := t.regs, arc := t.arc, kerb := t.kerb } ∧
      OnlyRegs s t (sensorFields ++ [(PWR_STAT_COOLOK, 0), (PWR_STAT_CAPPED, 0), (PWR_STAT_LANECLK, 0), (PWR_STAT_SAG, 0), (PWR_STAT_THERM, 0)]) := by
  have cm := Chg.measure h m
  obtain ⟨r0, a0, e0⟩ := s.measure_frame m
  obtain ⟨-, -, -, -, -, hflow⟩ := State.measure_reads h m
  obtain ⟨hok, c1, r1, a1, e1⟩ := State.coolantLost_does cm.ok
  have hl1 : (s.measure m).coolantLost.isLead = false := by
    unfold State.isLead at *
    rwa [(cm.trans c1).only _ _ (by decide)]
  obtain ⟨hcap, c2, r2, e2⟩ := State.enterCapped_does c1.ok hl1
  have he : exec (.coolantLoss m) s = .next (s.measure m).coolantLost.enterCapped := by
    have hp : ¬ (decide ((s.measure m).coolantLost.kerb.phase = .boot) && decide ((s.measure m).coolantLost.getF BOT_STAT_STEP < 5)) = true := by
      rw [e1, e0]
      simp [hb]
    show execCoolantLoss m s = _
    unfold execCoolantLoss
    dsimp only
    rw [hflow, if_neg (not_le.mpr hf)]
    exact congrArg Host.Outcome.next (if_neg hp)
  have frame : (s.measure m).coolantLost.enterCapped = { s with regs := r2, arc := a1, kerb := { s.kerb with coolGone := true } } := by rw [e2, e1, e0]
  exact ⟨_, he, congrArg State.kerb frame, (c2.only _ _ (by decide)).trans hok, hcap, by rw [frame], ((cm.trans (c1.trans c2)).mono (by decide)).only⟩

/-- The coolant shown back: the Kerb knows it, COOLOK is set, and the capped state ends. -/
def State.coolantBack (s : State) : State := (((s.modKerb (fun k => { k with coolGone := false })).setF PWR_STAT_COOLOK 1).setF PWR_STAT_CAPPED 0).laneClock.evHw 36 [1]

/-- What showing it leaves. -/
theorem State.coolantBack_does {u : State} (h : u.RegsOk) : u.coolantBack.getF PWR_STAT_COOLOK = 1 ∧ u.coolantBack.getF PWR_STAT_CAPPED = 0 ∧
    u.coolantBack.getF PWR_STAT_LANECLK = clkStep u.kerb.sag u.kerb.therm false (u.flag PWR_STAT_STOREFLT) ∧
    Chg u u.coolantBack [(PWR_STAT_COOLOK, 0), (PWR_STAT_CAPPED, 0), (PWR_STAT_LANECLK, 0), (PWR_STAT_SAG, 0), (PWR_STAT_THERM, 0)] ∧
    ∃ r a, u.coolantBack = { u with regs := r, arc := a, kerb := { u.kerb with coolGone := false } } := by
  have c0 := (Chg.refl h).same (u := u.modKerb (fun k => { k with coolGone := false })) rfl
  have c1 := c0.setF PWR_STAT_COOLOK 1 0
  have c2 := c1.setF PWR_STAT_CAPPED 0 0
  have hok := (getF_setF_ne _ 0 (f := PWR_STAT_CAPPED) (g := PWR_STAT_COOLOK) (ix := 0) (iy := 0) c1.ok (by decide)).trans (getF_setF_self _ _ _ _ c0.ok)
  have hcap := getF_setF_self _ PWR_STAT_CAPPED 0 0 c1.ok
  unfold State.coolantBack
  generalize hv : ((u.modKerb (fun k => { k with coolGone := false })).setF PWR_STAT_COOLOK 1).setF PWR_STAT_CAPPED 0 = v at *
  obtain ⟨e, c3, hclk⟩ := State.laneClock_does c2.ok
  have hflt : v.flag PWR_STAT_STOREFLT = u.flag PWR_STAT_STOREFLT := c2.flag (by decide)
  have huncapped : v.flag PWR_STAT_CAPPED = false := by rw [State.flag, hcap]; rfl
  rw [hflt, huncapped, ← hv] at hclk
  obtain ⟨a, ha⟩ := State.evHw_frame v.laneClock 36 [1]
  refine ⟨?_, ?_, ?_, ((c2.trans c3).evHw 36 [1]).mono (by decide), v.laneClock.regs, a, ?_⟩
  · exact (getF_same (State.event_regs ..)).trans ((c3.only _ _ (by decide)).trans hok)
  · exact (getF_same (State.event_regs ..)).trans ((c3.only _ _ (by decide)).trans hcap)
  · exact (getF_same (State.event_regs ..)).trans (hv ▸ hclk)
  · rw [ha, e, ← hv]; rfl

/-- A flow of 2 L/min or more. -/
theorem execCoolantRestored_uncaps (h : s.RegsOk) (hf : 200 ≤ m.flow.toNat % 2 ^ 16) : Gives (.coolantRestored m) s fun t => t.kerb = { s.kerb with coolGone := false } ∧
    t.getF PWR_STAT_COOLOK = 1 ∧ t.getF PWR_STAT_CAPPED = 0 ∧ t.getF PWR_STAT_LANECLK = clkStep s.kerb.sag s.kerb.therm false (s.flag PWR_STAT_STOREFLT) ∧
    t = { s with regs := t.regs, arc := t.arc, kerb := t.kerb } ∧
    OnlyRegs s t (sensorFields ++ [(PWR_STAT_COOLOK, 0), (PWR_STAT_CAPPED, 0), (PWR_STAT_LANECLK, 0), (PWR_STAT_SAG, 0), (PWR_STAT_THERM, 0)]) := by
  have cm := Chg.measure h m
  obtain ⟨r0, a0, e0⟩ := s.measure_frame m
  obtain ⟨-, -, -, -, -, hflow⟩ := State.measure_reads h m
  obtain ⟨-, hflt⟩ := measure_flags h m
  obtain ⟨hok, hcap, hclk, c1, r1, a1, e1⟩ := State.coolantBack_does cm.ok
  rw [State.measure_kerb, hflt] at hclk
  have he : exec (.coolantRestored m) s = .next (s.measure m).coolantBack := by
    show execCoolantRestored m s = _
    unfold execCoolantRestored
    dsimp only
    rw [hflow, if_neg (not_lt.mpr hf)]
    rfl
  have frame : (s.measure m).coolantBack = { s with regs := r1, arc := a1, kerb := { s.kerb with coolGone := false } } := by rw [e1, e0]
  exact ⟨_, he, congrArg State.kerb frame, hok, hcap, hclk, by rw [frame], ((cm.trans c1).mono (by decide)).only⟩

/-- TEMPERATURE_WARNING only measures. -/
theorem execTemperatureWarning_measures (h : s.RegsOk) : Gives (.temperatureWarning m) s fun t =>
    t.getF PWR_TEMP_DIE = m.temp.toNat / 2 ^ 16 ∧ t = { s with regs := t.regs, arc := t.arc } ∧ OnlyRegs s t sensorFields := by
  obtain ⟨r, a, e⟩ := s.measure_frame m
  obtain ⟨-, -, hdie, -⟩ := State.measure_reads h m
  exact ⟨_, rfl, hdie, by rw [e], (Chg.measure h m).only⟩

end

/-- Settles O25: each command measures, and where its condition holds moves one step, shows the store's fault, or enters or leaves the capped state. -/
theorem supplyEvents : Obligations.SupplyEvents := by
  unfold Obligations.SupplyEvents
  intro s m h
  refine ⟨fun hs => ⟨_, execSagStepDown_steps h hs, State.measure_setSag h m (Nat.ne_of_gt hs)⟩, fun h0 hb => ?_,
    fun h4 ht => ⟨_, execThermalStepDown_steps h h4 ht, State.measure_setTherm h m (Nat.succ_ne_self _)⟩,
    fun h0 hd hs => ⟨_, execThermalStepUp_steps h hd hs, State.measure_setTherm h m (by omega)⟩,
    execStoreFault_shows h, execTemperatureWarning_measures h, execCoolantLoss_caps h, execCoolantRestored_uncaps h⟩
  obtain ⟨hkerb, -, hclk, frame, only⟩ := State.measure_setSag h m (c := s.kerb.sag - 1) (by omega)
  exact ⟨_, execSagStepUp_steps h h0 hb, hkerb, hclk, frame, only⟩

end Sys2Proof.Machine
end

section
/-! PROOFS. The Arcade: programming records and the wear governor, the read window, and clearing (16, R418, R424 to R430). -/
namespace Sys2Proof.Machine

/-! ### Programming (R424, R425) -/

/-- The records of a log by its kind. -/
abbrev Arcade.ofKind (a : Arcade) (ev : Bool) : List ArcRec := if ev then a.evs else a.cyc

/-- With every record programmed none is marked. -/
theorem programFirst_done {l : List ArcRec} (h : ∀ r ∈ l, r.prog = true) : (programFirst l).2 = none := by
  induction l with
  | nil => rfl
  | cons r l ih =>
    unfold programFirst
    rw [if_pos (h r (by simp))]
    exact ih fun x hx => h x (by simp [hx])

/-- The first record that is not yet programmed is marked. -/
theorem programFirst_append {a b : List ArcRec} {r : ArcRec} (ha : ∀ x ∈ a, x.prog = true) (hr : r.prog = false) :
    programFirst (a ++ r :: b) = (a ++ { r with prog := true } :: b, some r) := by
  induction a with
  | nil => simp [programFirst, hr]
  | cons x a ih =>
    rw [List.cons_append, programFirst, if_pos (ha x (by simp)), ih fun y hy => ha y (by simp [hy])]
    rfl

/-- Marking a record leaves the bytes of its log. -/
theorem logBytes_marked (a b : List ArcRec) (r : ArcRec) : logBytes (a ++ { r with prog := true } :: b) = logBytes (a ++ r :: b) := by
  simp [logBytes, ArcRec.length]

/-- Logs that fit lose nothing. -/
theorem State.arcRelease_fits {s : State} (h : logBytes s.arc.cyc + logBytes s.arc.evs ≤ arcCapacity) (n : Nat) : s.arcRelease n = s := by
  cases n with
  | zero => rfl
  | succ n => rw [State.arcRelease, if_pos h]

/-- With nothing staged nothing changes. -/
theorem execArcadeRecordProgram_idle {s : State} {ev : Bool} (h : ∀ r ∈ s.arc.ofKind ev, r.prog = true) : exec (.arcadeRecordProgram ev) s = .next s := by
  show execArcadeRecordProgram ev s = _
  unfold execArcadeRecordProgram
  dsimp only
  rw [programFirst_done h]

/-- The oldest staged record is marked and drawn from the credit; where no retained values wait, the Arcade changes in nothing else that the credit or the logs show. -/
theorem execArcadeRecordProgram_draws {s : State} {ev : Bool} {a b : List ArcRec} {r : ArcRec} (hl : s.arc.ofKind ev = a ++ r :: b) (ha : ∀ x ∈ a, x.prog = true)
    (hr : r.prog = false) (hj : bitOf r.flags 2 = false) (hret : s.arc.retStaged = []) :
    ∃ A : Arcade, A.ofKind ev = a ++ { r with prog := true } :: b ∧ A.ofKind (!ev) = s.arc.ofKind (!ev) ∧
      exec (.arcadeRecordProgram ev) s = .next (((State.setCredit { s with arc := A } (s.creditNow - (r.length : Nat)))).arcRelease (A.cyc.length + A.evs.length)) := by
  have hp : programFirst (if ev = true then s.arc.evs else s.arc.cyc) = (a ++ { r with prog := true } :: b, some r) := by rw [← programFirst_append ha hr, ← hl]
  cases ev with
  | true =>
    refine ⟨{ s.arc with evs := a ++ { r with prog := true } :: b }, rfl, rfl, ?_⟩
    show execArcadeRecordProgram true s = _
    unfold execArcadeRecordProgram
    dsimp only
    rw [hp]
    simp only [hj, if_true, Bool.false_and, Bool.false_eq_true, if_false, List.foldl_nil, List.map_nil, List.isEmpty_nil, Bool.true_or, Nat.add_zero]
    rfl
  | false =>
    refine ⟨{ s.arc with cyc := a ++ { r with prog := true } :: b, retCsn := max s.arc.retCsn r.csn }, rfl, rfl, ?_⟩
    show execArcadeRecordProgram false s = _
    unfold execArcadeRecordProgram
    dsimp only
    rw [hp]
    simp only [hj, hret, Bool.false_and, Bool.false_eq_true, if_false, List.filter_nil, List.foldl_nil, List.map_nil, List.isEmpty_nil, Bool.true_or, if_true, Nat.add_zero]
    rfl

/-- A record programmed where the logs fit. -/
theorem execArcadeRecordProgram_programs {s : State} (h : s.RegsOk) {ev : Bool} {a b : List ArcRec} {r : ArcRec} (hl : s.arc.ofKind ev = a ++ r :: b)
    (ha : ∀ x ∈ a, x.prog = true) (hr : r.prog = false) (hj : bitOf r.flags 2 = false) (hret : s.arc.retStaged = [])
    (hfit : logBytes s.arc.cyc + logBytes s.arc.evs ≤ arcCapacity) :
    Gives (.arcadeRecordProgram ev) s fun t => t.arc.ofKind ev = a ++ { r with prog := true } :: b ∧ t.arc.ofKind (!ev) = s.arc.ofKind (!ev) ∧
      t.arc.credit = max (s.creditNow - (r.length : Nat)) (-864000000000) ∧ t.flag ARC_STAT_OVERBUDGET = decide (s.creditNow - (r.length : Nat) < 0) ∧
      t = { s with regs := t.regs, arc := t.arc } ∧ OnlyRegs s t [(ARC_STAT_OVERBUDGET, 0), (ARC_STAT_CREDIT, 0)] := by
  obtain ⟨A, hA, hB, he⟩ := execArcadeRecordProgram_draws hl ha hr hj hret
  obtain ⟨hover, hc, r', e⟩ := State.setCredit_does (s := { s with arc := A }) h (s.creditNow - (r.length : Nat))
  have hbytes : logBytes A.cyc + logBytes A.evs = logBytes s.arc.cyc + logBytes s.arc.evs := by
    cases ev with
    | true =>
      have h1 : A.cyc = s.arc.cyc := hB
      have h2 : A.evs = a ++ { r with prog := true } :: b := hA
      have h3 : s.arc.evs = a ++ r :: b := hl
      rw [h1, h2, h3, logBytes_marked]
    | false =>
      have h1 : A.evs = s.arc.evs := hB
      have h2 : A.cyc = a ++ { r with prog := true } :: b := hA
      have h3 : s.arc.cyc = a ++ r :: b := hl
      rw [h1, h2, h3, logBytes_marked]
  rw [State.arcRelease_fits (by rw [e]; exact hbytes.trans_le hfit)] at he
  refine ⟨_, he, ?_, ?_, ?_, hover, ?_, hc.only⟩
  · rw [e]; exact hA
  · rw [e]; exact hB
  · rw [e]
  · rw [e]

/-- The stretch follows the credit: at most 6 below a quarter of the cap, down to 0 from half of it. -/
def stretchOf (c : Int) (k : Nat) : Nat := if c * 4 < creditCap then min 6 (k + 1) else if c * 2 ≥ creditCap then k - 1 else k

/-- WEAR_GOVERNOR_STEP. -/
theorem execWearGovernorStep_does {s : State} (h : s.RegsOk) (used : BitVec 14) (h6 : s.getF ARC_STAT_STRETCH ≤ 6) :
    Gives (.wearGovernorStep used) s fun t => t.getF ARC_STAT_STRETCH = stretchOf s.creditNow (s.getF ARC_STAT_STRETCH) ∧ t.getF ARC_WEAR_USED = used.toNat ∧
      t = { s with regs := t.regs, arc := t.arc } ∧
      OnlyRegs s t [(ARC_STAT_OVERBUDGET, 0), (ARC_STAT_CREDIT, 0), (ARC_STAT_STRETCH, 0), (ARC_WEAR_USED, 0)] := by
  obtain ⟨-, c, r, e⟩ := State.setCredit_does h s.creditNow
  have c1 := c.setF ARC_STAT_STRETCH (stretchOf s.creditNow (s.getF ARC_STAT_STRETCH)) 0
  have hk : stretchOf s.creditNow (s.getF ARC_STAT_STRETCH) < 2 ^ ARC_STAT_STRETCH.w := by
    have : stretchOf s.creditNow (s.getF ARC_STAT_STRETCH) ≤ 6 := by
      unfold stretchOf
      split
      · omega
      · split <;> omega
    exact lt_of_le_of_lt this (by decide)
  refine ⟨_, rfl, ?_, ?_, ?_, ((c1.setF ARC_WEAR_USED used.toNat 0).mono (by decide)).only⟩
  · exact (getF_setF_ne _ _ c1.ok (by decide)).trans ((getF_setF_self _ _ _ _ c.ok).trans (Nat.mod_eq_of_lt hk))
  · exact (getF_setF_self _ _ _ _ c1.ok).trans (Nat.mod_eq_of_lt used.isLt)
  · dsimp only
    rw [e]
    rfl

/-- FLASH_TEMPERATURE_HOT shows what it says. -/
theorem execFlashTemperatureHot_shows {s : State} (h : s.RegsOk) (hot : Bool) :
    Gives (.flashTemperatureHot hot) s fun t => t.flag ARC_STAT_HOT = hot ∧ t = { s with regs := t.regs } ∧ OnlyRegs s t [(ARC_STAT_HOT, 0)] :=
  ⟨_, rfl, flag_setB_self h _ rfl, rfl, ((Chg.refl h).setB ARC_STAT_HOT hot 0).only⟩

/-- Settles O31: a record is marked and drawn from the credit, or nothing is staged; the governor's three cases are those of the stretch. -/
theorem arcadeFlash : Obligations.ArcadeFlash := by
  unfold Obligations.ArcadeFlash
  intro s h
  refine ⟨fun ev hp => ⟨_, execArcadeRecordProgram_idle hp, rfl⟩, fun ev a b r hl ha hr hj hret hfit => ?_, fun used h6 => ?_, execFlashTemperatureHot_shows h⟩
  · obtain ⟨t, he, hlog, hother, hcredit, hover, hframe, honly⟩ := execArcadeRecordProgram_programs h hl ha hr hj hret hfit
    refine ⟨t, he, hlog, ?_, hcredit, hover, hframe, honly⟩
    cases ev <;> exact hother
  · obtain ⟨t, he, hk, hused, hframe, honly⟩ := execWearGovernorStep_does h used h6
    refine ⟨t, he, fun hlow => ?_, fun hmid hlow => ?_, fun hhigh => ?_, hused, hframe, honly⟩
    · rw [hk, stretchOf, if_pos hlow]
    · rw [hk, stretchOf, if_neg (not_lt.mpr hmid), if_neg (not_le.mpr hlow)]
    · have cap : (0 : Int) < creditCap := by decide
      rw [hk, stretchOf, if_neg (by omega), if_pos hhigh]

/-! ### The read window (R429) -/

/-- A field not among those put reads as before. -/
theorem State.puts_away {s : State} (h : s.RegsOk) {ix : Nat} (hix : ix < 65536) {l : List (Fld × Nat)} {f : Fld} (hf : f.place ∉ l.map fun x => x.1.place) :
    (s.puts ix l).getF f ix = s.getF f ix := by
  refine (State.puts_chg h ix l).only f ix fun y hy => ?_
  obtain ⟨x, hx, rfl⟩ := List.mem_map.mp hy
  exact key_ne_of_place hix hix fun e => hf (List.mem_map.mpr ⟨x, hx, e.symm⟩)

/-- A field takes a value at its width. -/
theorem State.setF_mod (s : State) (f : Fld) (v ix : Nat) : s.setF f (v % 2 ^ f.w) ix = s.setF f v ix := by
  unfold State.setF
  rw [Nat.mod_mod]

/-- What a copy that starts shows: the cursor's upper half written, and nothing found yet. -/
def copyShows (hi : Nat) : List (Fld × Nat) := [(ARC_CURHI_S, hi % 2 ^ 32), (ARC_CURSTAT_READY, 0), (ARC_CURSTAT_GAP, 0), (ARC_CURSTAT_NONE, 0)]

/-- The registers of the window that starting a copy can change. -/
def copyFields (p : Nat) : List (Fld × Nat) := [(ARC_CURLO_S, p), (ARC_CURHI_S, p), (ARC_CURSTAT_READY, p), (ARC_CURSTAT_GAP, p), (ARC_CURSTAT_NONE, p)]

/-- A copy starts: these fields, and the log asked for. -/
theorem State.cursorStart_eq (s : State) (p : Path) (hi : Nat) : s.cursorStart p hi =
    { s.puts p.code (copyShows hi) with arc := { s.arc with curAsk := tabSet s.arc.curAsk p.code ((s.puts p.code (copyShows hi)).getF ARC_LOGSEL_LOG p.code) } } := by
  have e : s.puts p.code (copyShows hi) =
      (((s.setF ARC_CURHI_S hi p.code).setF ARC_CURSTAT_READY 0 p.code).setF ARC_CURSTAT_GAP 0 p.code).setF ARC_CURSTAT_NONE 0 p.code := by
    rw [← State.setF_mod s ARC_CURHI_S hi]
    rfl
  rw [e]
  rfl

/-- What starting a copy shows and leaves. -/
theorem State.cursorStart_does {s : State} (h : s.RegsOk) (p : Path) (hi : Nat) :
    (s.cursorStart p hi).getF ARC_CURHI_S p.code = hi % 2 ^ 32 ∧ (s.cursorStart p hi).getF ARC_CURLO_S p.code = s.getF ARC_CURLO_S p.code ∧
    (s.cursorStart p hi).getF ARC_CURSTAT_READY p.code = 0 ∧ tabGet? (s.cursorStart p hi).arc.curAsk p.code = some (s.getF ARC_LOGSEL_LOG p.code) ∧
    Chg s (s.cursorStart p hi) (copyFields p.code) ∧ ∃ r a, s.cursorStart p hi = { s with regs := r, arc := a } := by
  have hp := Path.code_lt p
  have apart : ((copyShows hi).map fun x => x.1.place).Nodup := (by decide : ((copyShows 0).map fun x => x.1.place).Nodup)
  obtain ⟨r, er⟩ := State.puts_frame s p.code (copyShows hi)
  rw [State.cursorStart_eq]
  refine ⟨?_, ?_, ?_, ?_, ?_, (s.puts p.code (copyShows hi)).regs, _, by rw [er]⟩
  · exact State.getF_puts h hp apart (by simp [copyShows]) (Nat.mod_lt _ (by decide))
  · exact State.puts_away h hp (by decide : ARC_CURLO_S.place ∉ (copyShows 0).map fun x => x.1.place)
  · exact State.getF_puts h hp apart (by simp [copyShows]) (by decide)
  · exact (tabGet?_tabSet_self _ _ _).trans (congrArg some (State.puts_away h hp (by decide : ARC_LOGSEL_LOG.place ∉ (copyShows 0).map fun x => x.1.place)))
  · have c := (State.puts_chg h p.code (copyShows hi)).mono (m := copyFields p.code) (by simp [copyShows, copyFields])
    exact c.same rfl

/-- A register of the window is none that a write through an access path keeps its books in. -/
theorem window_ne_book (p : Path) {f : Fld} (hf : ∀ x ∈ book 17, f.off * 32 + f.lo ≠ x.1.off * 32 + x.1.lo) : ∀ x ∈ book 17, f.key p.code ≠ x.1.key x.2 :=
  book_ne (Path.code_lt p) hf

/-- A register of the window reads the same where the count of refused writes is set aside. -/
theorem window_aside {s : State} (h : s.RegsOk) (p : Path) {f : Fld} (hf : f.off * 32 + f.lo ≠ KRB_IGNSTAT_IGNCNT.off * 32 + KRB_IGNSTAT_IGNCNT.lo) :
    s.aside.getF f p.code = s.getF f p.code := getF_aside h f (key_ne_of_place (Path.code_lt p) (by decide) hf)

/-- ARC_CURSOR_WRITE starts a copy. -/
theorem execArcCursorWrite_starts {s : State} (h : s.RegsOk) (hr : s.Runs) (p : Path) (v : W32) :
    Gives (.arcCursorWrite p v) s fun t => t.getF ARC_CURHI_S p.code = v.toNat ∧ t.getF ARC_CURSTAT_READY p.code = 0 ∧
      tabGet? t.arc.curAsk p.code = some (s.getF ARC_LOGSEL_LOG p.code) ∧ t = { s with regs := t.regs, arc := t.arc } ∧ OnlyRegsW 17 s t (copyFields p.code) := by
  obtain ⟨hhi, -, hready, hask, c, r, a, e⟩ := State.cursorStart_does (Chg.aside h).ok p v.toNat
  obtain ⟨ew, only, get⟩ := State.written_does (p := p) (off := 0x110034) (f := fun s => s.cursorStart p v.toNat) hr h rfl c
    (by rw [e]; show s.kerb.phase ≠ _; rw [show s.kerb.phase = .run from hr]; decide)
  refine ⟨_, rfl, ?_, ?_, ?_, ?_, only⟩
  · exact (get _ _ (window_ne_book p (by decide))).trans (hhi.trans (Nat.mod_eq_of_lt v.isLt))
  · exact (get _ _ (window_ne_book p (by decide))).trans hready
  · rw [ew]; exact hask.trans (congrArg some (window_aside h p (by decide)))
  · rw [ew, e]; rfl

/-- The two halves of a number of 64 bits. -/
theorem halves_mod (n : Nat) : n % 2 ^ 32 + 2 ^ 32 * (n / 2 ^ 32 % 2 ^ 32) = n % 2 ^ 64 := by omega

/-- NEXT starts a copy one number on from the record found. -/
theorem execArcNext_starts {s : State} (h : s.RegsOk) (hr : s.Runs) (p : Path) :
    Gives (.arcNext p) s fun t => t.get64 ARC_CURLO_S ARC_CURHI_S p.code = (s.get64 ARC_FOUNDLO_S ARC_FOUNDHI_S p.code + 1) % 2 ^ 64 ∧
      t.getF ARC_CURSTAT_READY p.code = 0 ∧ tabGet? t.arc.curAsk p.code = some (s.getF ARC_LOGSEL_LOG p.code) ∧
      t = { s with regs := t.regs, arc := t.arc } ∧ OnlyRegsW 17 s t (copyFields p.code) := by
  have hp := Path.code_lt p
  have hfound : s.aside.get64 ARC_FOUNDLO_S ARC_FOUNDHI_S p.code = s.get64 ARC_FOUNDLO_S ARC_FOUNDHI_S p.code := by
    unfold State.get64
    rw [window_aside h p (by decide), window_aside h p (by decide)]
  have c0 := (Chg.refl (Chg.aside h).ok).setF ARC_CURLO_S (s.get64 ARC_FOUNDLO_S ARC_FOUNDHI_S p.code + 1) p.code
  obtain ⟨hhi, hlo, hready, hask, c, r, a, e⟩ := State.cursorStart_does c0.ok p ((s.get64 ARC_FOUNDLO_S ARC_FOUNDHI_S p.code + 1) / 2 ^ 32)
  rw [getF_setF_self _ _ _ _ (Chg.aside h).ok] at hlo
  rw [getF_setF_ne _ _ (Chg.aside h).ok (key_ne_of_place hp hp (by decide)), window_aside h p (by decide)] at hask
  have hu : s.aside.cmdArcNext p = ((s.aside.setF ARC_CURLO_S (s.get64 ARC_FOUNDLO_S ARC_FOUNDHI_S p.code + 1) p.code).cursorStart p
      ((s.get64 ARC_FOUNDLO_S ARC_FOUNDHI_S p.code + 1) / 2 ^ 32)) := by
    rw [← hfound]
    rfl
  obtain ⟨ew, only, get⟩ := State.written_does (p := p) (off := 0x110038) (f := fun s => s.cmdArcNext p) hr h hu
    ((c0.trans c).mono (m := copyFields p.code) (by simp [copyFields]))
    (by rw [e]; show s.kerb.phase ≠ _; rw [show s.kerb.phase = .run from hr]; decide)
  refine ⟨_, rfl, ?_, (get _ _ (window_ne_book p (by decide))).trans hready, ?_, ?_, only⟩
  · unfold State.get64
    rw [get _ _ (window_ne_book p (by decide)), get _ _ (window_ne_book p (by decide)), hhi, hlo]
    exact halves_mod _
  · rw [ew]; exact hask
  · rw [ew, e]; rfl

/-- What a copy shows of record `r` found at or above cursor `c`. -/
def foundShows (r : ArcRec) (c : Nat) : List (Fld × Nat) :=
  [(ARC_FOUNDLO_S, r.seq % 2 ^ 32), (ARC_FOUNDHI_S, r.seq / 2 ^ 32), (ARC_CURSTAT_READY, 1), (ARC_CURSTAT_GAP, b2n (decide (c < r.seq)))]

/-- What it shows where none is found. -/
def noneShows : List (Fld × Nat) := [(ARC_CURSTAT_READY, 1), (ARC_CURSTAT_NONE, 1)]

section
variable {s : State} {p : Path} {lg : Nat}

/-- The end of a copy that finds a record. -/
theorem execArcCursorReady_some {r : ArcRec} (hask : tabGet? s.arc.curAsk p.code = some lg)
    (hr : (s.arc.log lg).find? (fun r => decide (s.get64 ARC_CURLO_S ARC_CURHI_S p.code ≤ r.seq)) = some r) :
    exec (.arcCursorReady p) s = .next { s.puts p.code (foundShows r (s.get64 ARC_CURLO_S ARC_CURHI_S p.code)) with
      arc := { s.arc with curAsk := tabDel s.arc.curAsk p.code, wins := tabSet s.arc.wins p.code r.bytes } } := by
  have e : s.puts p.code (foundShows r (s.get64 ARC_CURLO_S ARC_CURHI_S p.code)) = ((s.set64 ARC_FOUNDLO_S ARC_FOUNDHI_S r.seq p.code).setF ARC_CURSTAT_READY 1 p.code).setB
      ARC_CURSTAT_GAP (decide (s.get64 ARC_CURLO_S ARC_CURHI_S p.code < r.seq)) p.code := by
    unfold State.set64
    rw [← State.setF_mod s ARC_FOUNDLO_S r.seq]
    rfl
  rw [e]
  show execArcCursorReady p s = _
  unfold execArcCursorReady
  dsimp only
  rw [hask]
  dsimp only
  rw [show Arcade.log { s.arc with curAsk := tabDel s.arc.curAsk p.code } lg = s.arc.log lg from rfl]
  simp only [ge_iff_le, hr]
  rfl

/-- The end of a copy that finds none. -/
theorem execArcCursorReady_empty (hask : tabGet? s.arc.curAsk p.code = some lg)
    (hn : ∀ r ∈ s.arc.log lg, r.seq < s.get64 ARC_CURLO_S ARC_CURHI_S p.code) :
    exec (.arcCursorReady p) s = .next { s.puts p.code noneShows with
      arc := { s.arc with curAsk := tabDel s.arc.curAsk p.code, wins := tabDel s.arc.wins p.code } } := by
  have none_ : (s.arc.log lg).find? (fun r => decide (s.get64 ARC_CURLO_S ARC_CURHI_S p.code ≤ r.seq)) = none :=
    List.find?_eq_none.mpr fun r hr => by simpa using hn r hr
  show execArcCursorReady p s = _
  unfold execArcCursorReady
  dsimp only
  rw [hask]
  dsimp only
  rw [show Arcade.log { s.arc with curAsk := tabDel s.arc.curAsk p.code } lg = s.arc.log lg from rfl]
  simp only [ge_iff_le, none_]
  rfl

/-- The record found stands in the window. -/
theorem execArcCursorReady_found (h : s.RegsOk) {r : ArcRec} (hask : tabGet? s.arc.curAsk p.code = some lg)
    (hr : (s.arc.log lg).find? (fun r => decide (s.get64 ARC_CURLO_S ARC_CURHI_S p.code ≤ r.seq)) = some r) (h64 : r.seq < 2 ^ 64) :
    Gives (.arcCursorReady p) s fun t => tabGet? t.arc.wins p.code = some r.bytes ∧ t.get64 ARC_FOUNDLO_S ARC_FOUNDHI_S p.code = r.seq ∧
      t.getF ARC_CURSTAT_READY p.code = 1 ∧ t.flag ARC_CURSTAT_GAP p.code = decide (s.get64 ARC_CURLO_S ARC_CURHI_S p.code < r.seq) ∧
      t = { s with regs := t.regs, arc := t.arc } ∧ OnlyRegs s t [(ARC_FOUNDLO_S, p.code), (ARC_FOUNDHI_S, p.code), (ARC_CURSTAT_READY, p.code), (ARC_CURSTAT_GAP, p.code)] := by
  have hp := Path.code_lt p
  refine ⟨_, execArcCursorReady_some hask hr, ?_⟩
  generalize s.get64 ARC_CURLO_S ARC_CURHI_S p.code = c
  have apart : ((foundShows r c).map fun x => x.1.place).Nodup := by simp only [foundShows, List.map_cons, List.map_nil]; decide
  obtain ⟨r', er⟩ := State.puts_frame s p.code (foundShows r c)
  have hhi : r.seq / 2 ^ 32 < 2 ^ 32 := by omega
  refine ⟨tabGet?_tabSet_self _ _ _, ?_, ?_, ?_, by rw [er], (((State.puts_chg h p.code (foundShows r c)).same rfl).mono (by simp [foundShows])).only⟩
  · have lo : (s.puts p.code (foundShows r c)).getF ARC_FOUNDLO_S p.code = r.seq % 2 ^ 32 := State.getF_puts h hp apart (by simp [foundShows]) (Nat.mod_lt _ (by decide))
    have hi : (s.puts p.code (foundShows r c)).getF ARC_FOUNDHI_S p.code = r.seq / 2 ^ 32 := State.getF_puts h hp apart (by simp [foundShows]) hhi
    exact (congrArg₂ (fun a b => a + 2 ^ 32 * b) lo hi).trans (Nat.mod_add_div _ _)
  · exact State.getF_puts h hp apart (by simp [foundShows]) (by decide)
  · exact State.flag_puts h hp apart (by simp [foundShows]) rfl

/-- With none, NONE is set. -/
theorem execArcCursorReady_none (h : s.RegsOk) (hask : tabGet? s.arc.curAsk p.code = some lg)
    (hn : ∀ r ∈ s.arc.log lg, r.seq < s.get64 ARC_CURLO_S ARC_CURHI_S p.code) :
    Gives (.arcCursorReady p) s fun t => t.getF ARC_CURSTAT_READY p.code = 1 ∧ t.getF ARC_CURSTAT_NONE p.code = 1 ∧
      t = { s with regs := t.regs, arc := t.arc } ∧ OnlyRegs s t [(ARC_CURSTAT_READY, p.code), (ARC_CURSTAT_NONE, p.code)] := by
  have hp := Path.code_lt p
  have apart : (noneShows.map fun x => x.1.place).Nodup := by decide
  obtain ⟨r, er⟩ := State.puts_frame s p.code noneShows
  refine ⟨_, execArcCursorReady_empty hask hn, ?_, ?_, by rw [er], ((State.puts_chg h p.code noneShows).same rfl).only⟩
  · exact State.getF_puts h hp apart (by simp [noneShows]) (by decide)
  · exact State.getF_puts h hp apart (by simp [noneShows]) (by decide)

end

/-- Settles O32: the two writes start a copy, and its end finds a record or none. -/
theorem arcadeWindow : Obligations.ArcadeWindow := by
  unfold Obligations.ArcadeWindow
  exact fun s p h hr => ⟨execArcCursorWrite_starts h hr p, execArcNext_starts h hr p, fun _ _ ha hf h64 => execArcCursorReady_found h ha hf h64,
    fun _ ha hn => execArcCursorReady_none h ha hn⟩

end Sys2Proof.Machine
end

section
/-! PROOFS. Clearing the Arcade (16, R418, R430). -/
namespace Sys2Proof.Machine

/-- The session that a CLEAR record names: none for a management port. -/
def sessionOf : Path → Nat
  | .mgmt _ => 0xFFFF
  | .queue n => n.val

/-- The CLEAR record of a command, the next of the event log of `s`. -/
def IsClear (s : State) (p : Path) (cmd upTo : Nat) (r : ArcRec) : Prop :=
  r.kind = 0x010A ∧ r.seq = s.arc.evSeq ∧ r.payload = words [cmd, upTo, p.code, sessionOf p]

/-- A CLEAR record joins the event log. -/
theorem State.clearRecord_does {s : State} (h : s.kerb.phase ≠ .off) (p : Path) (cmd upTo : Nat) :
    ∃ r, IsClear s p cmd upTo r ∧ s.clearRecord p cmd upTo = { s with arc := { s.arc with evs := s.arc.evs ++ [r], evSeq := s.arc.evSeq + 1 } } := by
  unfold State.clearRecord
  rw [State.event_on h]
  exact ⟨_, ⟨rfl, rfl, by cases p <;> rfl⟩, rfl⟩

section
variable {s : State} {p : Path}

/-- A clearing command that is taken: its Arcade, with the CLEAR record behind it, and the bookkeeping of the write. -/
theorem State.written_clear (h : s.RegsOk) (hr : s.Runs) {f : State → State} {A : Arcade} {cmd upTo : Nat}
    (hu : f s.aside = State.clearRecord { s.aside with arc := A } p cmd upTo) (hs : A.evSeq = s.arc.evSeq) :
    ∃ r, IsClear s p cmd upTo r ∧ (s.written p clrOff f).arc = { A with evs := A.evs ++ [r], evSeq := A.evSeq + 1 } ∧
      s.written p clrOff f = { s with regs := (s.written p clrOff f).regs, arc := (s.written p clrOff f).arc } ∧ OnlyRegsW 17 s (s.written p clrOff f) [] := by
  have on : s.kerb.phase = .run := hr
  obtain ⟨r, ⟨hkind, hseq, hpay⟩, e⟩ := State.clearRecord_does (s := { s.aside with arc := A }) (by show s.kerb.phase ≠ _; rw [on]; decide) p cmd upTo
  obtain ⟨ew, only⟩ := State.written_plain (p := p) (off := clrOff) hr h (hu.trans e) rfl (by show s.kerb.phase ≠ _; rw [on]; decide)
  refine ⟨r, ⟨hkind, hseq.trans hs, hpay⟩, by rw [ew], ?_, only⟩
  rw [ew]
  rfl

/-- The range's end reads the same where the count of refused writes is set aside. -/
theorem clearEnd_aside (h : s.RegsOk) : s.aside.get64 ARC_CLRLO_S ARC_CLRHI_S = s.get64 ARC_CLRLO_S ARC_CLRHI_S := by
  unfold State.get64
  rw [getF_aside h _ (by decide), getF_aside h _ (by decide)]

/-- CLREVT under its switches. -/
theorem cmdArcClrevt_taken (h : s.RegsOk) {safe : Bool} (hu : s.updateEnable = true) (he : safe = true → s.safetyEdit = true) :
    s.aside.cmdArcClrevt p safe = State.clearRecord { s.aside with arc := { s.arc with evs := s.arc.evs.filter (fun r =>
      decide (s.get64 ARC_CLRLO_S ARC_CLRHI_S < r.seq) || decide (r.kind = 0x010A) || (decide (r.kind = 0x0106) && !safe)) } } p 1 (s.get64 ARC_CLRLO_S ARC_CLRHI_S) := by
  unfold State.cmdArcClrevt
  rw [safetyEdit_aside h, updateEnable_aside h, clearEnd_aside h, if_neg (by cases safe <;> simp_all), if_neg (by simp [hu])]
  rfl

/-- CLRCYC under its switch. -/
theorem cmdArcClrcyc_taken (h : s.RegsOk) (hu : s.updateEnable = true) :
    s.aside.cmdArcClrcyc p = State.clearRecord { s.aside with arc := { s.arc with cyc := s.arc.cyc.filter (fun r =>
      decide (s.get64 ARC_CLRLO_S ARC_CLRHI_S < r.seq) || decide (r.seq = logHead s.arc.cyc)) } } p 2 (s.get64 ARC_CLRLO_S ARC_CLRHI_S) := by
  unfold State.cmdArcClrcyc
  rw [updateEnable_aside h, clearEnd_aside h, if_neg (by simp [hu])]
  rfl

/-- ERASE under both switches, in START or FENCED. -/
theorem cmdArcErase_taken (h : s.RegsOk) (hu : s.updateEnable = true) (he : s.safetyEdit = true) (hst : s.getF PAR_STAT_STATE = 0 ∨ s.getF PAR_STAT_STATE = 8) :
    s.aside.cmdArcErase p = State.clearRecord { s.aside with arc := { s.arc with cyc := [], evs := [], retStaged := [], ret := [], retCsn := 0, retGen := none } } p 3 0 := by
  unfold State.cmdArcErase
  rw [safetyEdit_aside h, updateEnable_aside h, pairState_aside h, if_neg (by simp [he]), if_neg (by simp [hu]), if_neg (by rcases hst with e | e <;> simp [e])]
  rfl

/-- CLREVT without its switch: SAFETY-EDIT for SAFETY records, UPDATE-ENABLE for the others. -/
theorem cmdArcClrevt_barred (h : s.RegsOk) : (s.safetyEdit = false → s.aside.cmdArcClrevt p true = s.aside.ignored p clrOff 1) ∧
    (s.updateEnable = false → s.aside.cmdArcClrevt p false = s.aside.ignored p clrOff 2) := by
  unfold State.cmdArcClrevt
  rw [safetyEdit_aside h, updateEnable_aside h]
  exact ⟨fun he => by rw [if_pos (by simp [he])], fun hu => by rw [if_neg (by simp), if_pos (by simp [hu])]⟩

/-- CLRCYC without UPDATE-ENABLE. -/
theorem cmdArcClrcyc_barred (h : s.RegsOk) (hu : s.updateEnable = false) : s.aside.cmdArcClrcyc p = s.aside.ignored p clrOff 2 := by
  unfold State.cmdArcClrcyc
  rw [updateEnable_aside h, if_pos (by simp [hu])]

/-- ERASE without SAFETY-EDIT, or in another pair state. -/
theorem cmdArcErase_barred (h : s.RegsOk) : (s.safetyEdit = false → s.aside.cmdArcErase p = s.aside.ignored p clrOff 1) ∧
    (s.updateEnable = true → s.safetyEdit = true → s.getF PAR_STAT_STATE ≠ 0 → s.getF PAR_STAT_STATE ≠ 8 → s.aside.cmdArcErase p = s.aside.ignored p clrOff 4) := by
  unfold State.cmdArcErase
  rw [safetyEdit_aside h, updateEnable_aside h, pairState_aside h]
  exact ⟨fun he => by rw [if_pos (by simp [he])], fun hu he h0 h8 => by rw [if_neg (by simp [he]), if_neg (by simp [hu]), if_pos (by simp [h0, h8])]⟩

end

/-- Settles O33: each command is taken under its switches, and then is a clearing with its CLEAR record, or is ignored with its cause. -/
theorem arcadeClearing : Obligations.ArcadeClearing := by
  unfold Obligations.ArcadeClearing
  intro s p h hr
  have barred {f : State → State} {c : Nat} (hc : c < 16) (hu : f s.aside = s.aside.ignored p clrOff c) := State.written_ign hr h hu hc (by decide) (rfl : clrOff / 0x10000 = 17)
  refine ⟨fun safe hu he => ?_, fun hu => ?_, fun hu he hst => ?_,
    fun hu => ⟨⟨_, rfl, barred (by decide) ((cmdArcClrevt_barred h).2 hu)⟩, ⟨_, rfl, barred (by decide) (cmdArcClrcyc_barred h hu)⟩⟩,
    fun he => ⟨⟨_, rfl, barred (by decide) ((cmdArcClrevt_barred h).1 he)⟩, ⟨_, rfl, barred (by decide) ((cmdArcErase_barred h).1 he)⟩⟩,
    fun hu he h0 h8 => ⟨_, rfl, barred (by decide) ((cmdArcErase_barred h).2 hu he h0 h8)⟩⟩
  · obtain ⟨r, ⟨hkind, hseq, hpay⟩, harc, frame, only⟩ := State.written_clear (f := fun s => s.cmdArcClrevt p safe) h hr (cmdArcClrevt_taken h hu he) rfl
    refine ⟨_, rfl, ⟨r, hkind, hseq, ?_, by rw [harc]⟩, by rw [harc], frame, only⟩
    rw [hpay]; cases p <;> rfl
  · obtain ⟨r, ⟨hkind, hseq, hpay⟩, harc, frame, only⟩ := State.written_clear (f := fun s => s.cmdArcClrcyc p) h hr (cmdArcClrcyc_taken h hu) rfl
    refine ⟨_, rfl, ⟨r, hkind, hseq, ?_, by rw [harc]⟩, by rw [harc], frame, only⟩
    rw [hpay]; cases p <;> rfl
  · obtain ⟨r, ⟨hkind, hseq, hpay⟩, harc, frame, only⟩ := State.written_clear (f := fun s => s.cmdArcErase p) h hr (cmdArcErase_taken h hu he hst) rfl
    refine ⟨_, rfl, ⟨r, hkind, hseq, ?_, by rw [harc]; rfl⟩, by rw [harc], by rw [harc], by rw [harc], frame, only⟩
    rw [hpay]; cases p <;> rfl

end Sys2Proof.Machine
end

section
/-! PROOFS. Writing the spare firmware slot (17, R447, R448, R460). -/
namespace Sys2Proof.Machine

/-! ### A slot changed and registers put -/

/-- A slot of `s` changed, and nothing beside it and the register file. -/
structure SlotChanged (s : State) (n : Nat) (x : Slot) (t : State) : Prop where
  slot : t.slot n = x
  others : ∀ m, m ≠ n → t.slot m = s.slot m
  frame : t = { s with regs := t.regs, kerb := { s.kerb with slots := t.kerb.slots } }

/-- A slot changed and registers put behind it. -/
theorem State.modSlot_puts {s : State} (h : s.RegsOk) (n : Nat) (g : Slot → Slot) (l : List (Fld × Nat)) :
    SlotChanged s n (g (s.slot n)) ((s.modSlot n g).puts 0 l) ∧ (s.modSlot n g).RegsOk ∧
    Chg s ((s.modSlot n g).puts 0 l) (l.map (fun x => (x.1, 0)) ++ slotFields) := by
  obtain ⟨hn, hm, c, r, e⟩ := State.modSlot_does h n g
  obtain ⟨q, eq⟩ := State.puts_frame (s.modSlot n g) 0 l
  refine ⟨⟨?_, ?_, ?_⟩, c.ok, c.trans (State.puts_chg c.ok 0 l)⟩
  · rw [eq]; exact hn
  · rw [eq]; exact hm
  · rw [eq, e]

/-- A register of the block BOT that a write keeps no books in. -/
abbrev Fld.offBooks (f : Fld) : Prop := ∀ x ∈ book 18, f.off * 32 + f.lo ≠ x.1.off * 32 + x.1.lo

/-- The registers that show an update are no books of a write. -/
theorem offBooks_shown : ∀ f ∈ [BOT_UPDSTAT_OPEN, BOT_UPDSTAT_CHUNKS, BOT_UPDSTAT_RESULT], f.offBooks := by decide

section
variable {s : State} {p : Path} {f : State → State}

/-- The running slot is the same where the count of refused writes is set aside. -/
theorem runSlot_aside (h : s.RegsOk) : s.aside.runSlot = s.runSlot := getF_aside h _ (by decide)

/-- And the spare one. -/
theorem spareSlot_aside (h : s.RegsOk) : s.aside.spareSlot = s.spareSlot := congrArg (1 - ·) (runSlot_aside h)

/-- While the running slot is CONFIRMED a slot may be written. -/
theorem mayUpdate_confirmed (h : s.RegsOk) (h4 : (s.slot s.runSlot).st = 4) : s.aside.mayUpdate = true := by
  unfold State.mayUpdate
  rw [runSlot_aside h, show s.aside.slot s.runSlot = s.slot s.runSlot from rfl, h4]
  simp

/-- A command of BOT_UPDCTL that is taken: it changes a slot and puts registers of its own. -/
theorem State.written_slot (h : s.RegsOk) (hr : s.Runs) {n : Nat} {g : Slot → Slot} {l : List (Fld × Nat)} (hl : (l.map fun x => x.1.place).Nodup)
    (hshown : ∀ x ∈ l, x.1 ∈ [BOT_UPDSTAT_OPEN, BOT_UPDSTAT_CHUNKS, BOT_UPDSTAT_RESULT]) (hw : ∀ x ∈ l, x.2 < 2 ^ x.1.w)
    (hu : f s.aside = (s.aside.modSlot n g).puts 0 l) :
    SlotChanged s n (g (s.slot n)) (s.written p updOff f) ∧ (∀ x ∈ l, (s.written p updOff f).getF x.1 = x.2) ∧
    OnlyRegsW 18 s (s.written p updOff f) (l.map (fun x => (x.1, 0)) ++ slotFields) := by
  obtain ⟨⟨hn, hm, e⟩, ok, c⟩ := State.modSlot_puts (Chg.aside h).ok n g l
  obtain ⟨ew, only, away⟩ := State.written_does (p := p) (off := updOff) hr h hu c (by rw [e]; show s.kerb.phase ≠ _; rw [show s.kerb.phase = .run from hr]; decide)
  refine ⟨⟨by rw [ew]; exact hn, fun m hne => by rw [ew]; exact hm m hne, ?_⟩, fun x hx => ?_, only⟩
  · rw [ew, e]; rfl
  · exact (away x.1 0 (book_ne (by decide) (offBooks_shown _ (hshown x hx)))).trans (State.getF_puts ok (by decide) hl hx (hw x hx))

/-- A command of BOT_UPDCTL ignored with a cause, as its issuer finds it. -/
def UpdRefused (s : State) (c : Nat) (t : State) : Prop :=
  t = { s with regs := t.regs } ∧ OnlyRegsW 18 s t [(KRB_IGNSTAT_CAUSE, 0), (KRB_IGNADDR_OFFSET, 0), (KRB_IGNPATH_PATH, 0), (BOT_UPDSTAT_RESULT, 0)] ∧
  t.getF BOT_UPDSTAT_RESULT = 2 ∧ t.getF KRB_IGNSTAT_CAUSE = c

/-- A command of BOT_UPDCTL that is ignored: the refusal, and RESULT. -/
theorem State.written_updIgnored (h : s.RegsOk) (hr : s.Runs) {c : Nat} (hc : c < 16) (hu : f s.aside = s.aside.updIgnored p c) :
    UpdRefused s c (s.written p updOff f) := by
  obtain ⟨⟨r, e⟩, ci, hcause, -, -⟩ := State.ignored_does (Chg.aside h).ok p (off := updOff) (by decide) c
  have cr := ci.setF BOT_UPDSTAT_RESULT 2 0
  have eu : s.aside.updIgnored p c = { s with regs := (s.aside.updIgnored p c).regs } := by unfold State.updIgnored; rw [e]; rfl
  obtain ⟨ew, only, away⟩ := State.written_does (p := p) (off := updOff) hr h hu cr (by rw [eu]; show s.kerb.phase ≠ _; rw [show s.kerb.phase = .run from hr]; decide)
  refine ⟨by rw [ew, eu], OnlyRegs.mono only fun x hx => ?_, ?_, ?_⟩
  · simp only [updOff, List.mem_append, List.mem_cons, List.not_mem_nil, or_false] at *
    grind
  · exact (away _ 0 (book_ne (by decide) (by decide))).trans (getF_setF_self _ _ _ _ ci.ok)
  · exact (away _ 0 (by decide)).trans ((getF_setF_ne _ _ ci.ok (by decide)).trans (hcause.trans (Nat.mod_eq_of_lt hc)))

/-! ### The commands -/

/-- OPEN where it is taken. -/
theorem cmdUpdOpen_taken (h : s.RegsOk) (hr : s.Runs) (hu : s.updateEnable = true) (h4 : (s.slot s.runSlot).st = 4) :
    s.aside.cmdUpdOpen p = (s.aside.modSlot s.spareSlot fun _ => Slot.empty).puts 0 [(BOT_UPDSTAT_OPEN, 1), (BOT_UPDSTAT_CHUNKS, 0), (BOT_UPDSTAT_RESULT, 0)] := by
  unfold State.cmdUpdOpen
  rw [State.blkReady_runs (s := s.aside) hr, updateEnable_aside h, hu, mayUpdate_confirmed h h4, spareSlot_aside h]
  rfl

/-- A chunk whose CRC-32C agrees. -/
theorem cmdUpdChunk_taken (h : s.RegsOk) (hr : s.Runs) (ho : s.flag BOT_UPDSTAT_OPEN = true) (hcrc : crc32c (memRdL s.kerb.upWin 0 32768) = s.getF BOT_UPCRC_CRC) :
    ∃ n, n < 2 ^ 16 ∧ s.aside.cmdUpdChunk p = (s.aside.modSlot s.spareSlot fun x =>
      { x with chunks := tabSet x.chunks (s.getF BOT_UPOFF_OFF) (memRdL s.kerb.upWin 0 32768) }).puts 0 [(BOT_UPDSTAT_RESULT, 0), (BOT_UPDSTAT_CHUNKS, n)] := by
  unfold State.cmdUpdChunk
  rw [State.blkReady_runs (s := s.aside) hr, flag_aside h _ (by decide), ho, getF_aside h _ (by decide), getF_aside h _ (by decide), spareSlot_aside h]
  rw [if_neg (by decide)]
  dsimp only
  rw [show s.aside.kerb = s.kerb from rfl, if_neg (not_not.mpr hcrc)]
  exact ⟨_, Nat.lt_succ_of_le (Nat.min_le_right _ _), rfl⟩

/-- A chunk whose CRC-32C does not. -/
theorem cmdUpdChunk_corrupt (h : s.RegsOk) (hr : s.Runs) (ho : s.flag BOT_UPDSTAT_OPEN = true) (hcrc : crc32c (memRdL s.kerb.upWin 0 32768) ≠ s.getF BOT_UPCRC_CRC) :
    s.aside.cmdUpdChunk p = s.aside.setF BOT_UPDSTAT_RESULT 1 := by
  unfold State.cmdUpdChunk
  rw [State.blkReady_runs (s := s.aside) hr, flag_aside h _ (by decide), ho, getF_aside h _ (by decide), if_neg (by decide)]
  dsimp only
  rw [show s.aside.kerb = s.kerb from rfl, if_pos hcrc]

/-- CLOSE with every chunk there. -/
theorem cmdUpdClose_taken (h : s.RegsOk) (hr : s.Runs) {b : Bundle} (ho : s.flag BOT_UPDSTAT_OPEN = true) (hn : s.getF BOT_UPLEN_LEN ≠ 0)
    (hall : chunksUpTo (s.slot s.spareSlot).chunks (s.getF BOT_UPLEN_LEN) = true) :
    s.aside.cmdUpdClose p b = (s.aside.modSlot s.spareSlot fun x => { x with st := 1, bundle := some b }).puts 0 [(BOT_UPDSTAT_OPEN, 0), (BOT_UPDSTAT_RESULT, 0)] := by
  unfold State.cmdUpdClose
  rw [State.blkReady_runs (s := s.aside) hr, flag_aside h _ (by decide), ho, getF_aside h _ (by decide), spareSlot_aside h,
    show s.aside.slot s.spareSlot = s.slot s.spareSlot from rfl]
  dsimp only
  rw [hall, decide_eq_false hn]
  rfl

/-- ARM of a WRITTEN slot. -/
theorem cmdUpdArm_taken (h : s.RegsOk) (hr : s.Runs) (hu : s.updateEnable = true) (h4 : (s.slot s.runSlot).st = 4) (h1 : (s.slot s.spareSlot).st = 1) :
    s.aside.cmdUpdArm p = (s.aside.modSlot s.spareSlot fun x => { x with st := 2 }).puts 0 [(BOT_UPDSTAT_RESULT, 0)] := by
  unfold State.cmdUpdArm
  rw [State.blkReady_runs (s := s.aside) hr, updateEnable_aside h, hu, mayUpdate_confirmed h h4, spareSlot_aside h,
    show s.aside.slot s.spareSlot = s.slot s.spareSlot from rfl, decide_eq_false (not_not.mpr h1)]
  rfl

/-- DISARM of an ARMED slot. -/
theorem cmdUpdDisarm_taken (h : s.RegsOk) (hr : s.Runs) (h2 : (s.slot s.spareSlot).st = 2) :
    s.aside.cmdUpdDisarm p = (s.aside.modSlot s.spareSlot fun x => { x with st := 1 }).puts 0 [(BOT_UPDSTAT_RESULT, 0)] := by
  unfold State.cmdUpdDisarm
  rw [State.blkReady_runs (s := s.aside) hr, spareSlot_aside h, show s.aside.slot s.spareSlot = s.slot s.spareSlot from rfl, decide_eq_false (not_not.mpr h2)]
  rfl

/-- OPEN and ARM without UPDATE-ENABLE. -/
theorem cmdUpd_barred (h : s.RegsOk) (hr : s.Runs) (hu : s.updateEnable = false) :
    s.aside.cmdUpdOpen p = s.aside.updIgnored p 2 ∧ s.aside.cmdUpdArm p = s.aside.updIgnored p 2 := by
  unfold State.cmdUpdOpen State.cmdUpdArm
  rw [State.blkReady_runs (s := s.aside) hr, updateEnable_aside h, hu]
  exact ⟨rfl, rfl⟩

/-- CHUNK and CLOSE without OPEN. -/
theorem cmdUpd_notOpen (h : s.RegsOk) (hr : s.Runs) (b : Bundle) (ho : s.flag BOT_UPDSTAT_OPEN = false) :
    s.aside.cmdUpdChunk p = s.aside.updIgnored p 4 ∧ s.aside.cmdUpdClose p b = s.aside.updIgnored p 4 := by
  unfold State.cmdUpdChunk State.cmdUpdClose
  rw [State.blkReady_runs (s := s.aside) hr, flag_aside h _ (by decide), ho]
  exact ⟨rfl, rfl⟩

/-- DISARM of a slot not ARMED. -/
theorem cmdUpdDisarm_barred (h : s.RegsOk) (hr : s.Runs) (h2 : (s.slot s.spareSlot).st ≠ 2) : s.aside.cmdUpdDisarm p = s.aside.updIgnored p 4 := by
  unfold State.cmdUpdDisarm
  rw [State.blkReady_runs (s := s.aside) hr, spareSlot_aside h, show s.aside.slot s.spareSlot = s.slot s.spareSlot from rfl, decide_eq_true h2]
  rfl

end

/-- Settles O36: a command that is taken changes the spare slot and shows its result; the others are ignored with their cause. -/
theorem firmwareSlot : Obligations.FirmwareSlot := by
  unfold Obligations.FirmwareSlot
  intro s p h hr
  have isOpen {n : Nat} (ho : s.getF BOT_UPDSTAT_OPEN = n) : s.flag BOT_UPDSTAT_OPEN = decide (n ≠ 0) := by unfold State.flag; rw [ho]
  refine ⟨fun hu h4 => ?_, fun ho hcrc => ?_, fun ho hcrc => ?_, fun b ho hn hall => ?_, fun hu h4 h1 => ?_, fun h2 => ?_,
    fun hu => ⟨⟨_, rfl, State.written_updIgnored h hr (by decide) (cmdUpd_barred h hr hu).1⟩, ⟨_, rfl, State.written_updIgnored h hr (by decide) (cmdUpd_barred h hr hu).2⟩⟩,
    fun b ho => ⟨⟨_, rfl, State.written_updIgnored h hr (by decide) (cmdUpd_notOpen h hr b (isOpen ho)).1⟩,
      ⟨_, rfl, State.written_updIgnored h hr (by decide) (cmdUpd_notOpen h hr b (isOpen ho)).2⟩⟩,
    fun h2 => ⟨_, rfl, State.written_updIgnored h hr (by decide) (cmdUpdDisarm_barred h hr h2)⟩⟩
  case refine_1 =>
    obtain ⟨⟨hn, hm, e⟩, reads, only⟩ := State.written_slot (f := fun s => s.cmdUpdOpen p) h hr (by decide) (by decide) (by decide) (cmdUpdOpen_taken h hr hu h4)
    exact ⟨_, rfl, hn, reads (BOT_UPDSTAT_OPEN, 1) (by simp), reads (BOT_UPDSTAT_CHUNKS, 0) (by simp), reads (BOT_UPDSTAT_RESULT, 0) (by simp), hm, e, only⟩
  case refine_2 =>
    obtain ⟨n, hn16, taken⟩ := cmdUpdChunk_taken (p := p) h hr (isOpen ho) hcrc
    obtain ⟨⟨hn, hm, e⟩, reads, only⟩ := State.written_slot (f := fun s => s.cmdUpdChunk p) h hr (by simp only [List.map_cons, List.map_nil]; decide)
      (by simp) (by simpa [BOT_UPDSTAT_CHUNKS] using hn16) taken
    exact ⟨_, rfl, hn, reads (BOT_UPDSTAT_RESULT, 0) (by simp), hm, e, OnlyRegsW.mono only (by simp [slotFields])⟩
  case refine_3 =>
    have c := (Chg.refl (Chg.aside h).ok).setF BOT_UPDSTAT_RESULT 1 0
    obtain ⟨e, only, away⟩ := State.written_does (p := p) (off := updOff) (f := fun s => s.cmdUpdChunk p) hr h (cmdUpdChunk_corrupt h hr (isOpen ho) hcrc) c
      (by show s.kerb.phase ≠ _; rw [show s.kerb.phase = .run from hr]; decide)
    exact ⟨_, rfl, (away _ 0 (book_ne (by decide) (offBooks_shown _ (by simp)))).trans (getF_setF_self _ _ _ _ (Chg.aside h).ok), e, only⟩
  case refine_4 =>
    obtain ⟨⟨hn, hm, e⟩, reads, only⟩ := State.written_slot (f := fun s => s.cmdUpdClose p b) h hr (by decide) (by decide) (by decide) (cmdUpdClose_taken h hr (isOpen ho) hn hall)
    exact ⟨_, rfl, hn, reads (BOT_UPDSTAT_OPEN, 0) (by simp), reads (BOT_UPDSTAT_RESULT, 0) (by simp), hm, e, only⟩
  case refine_5 =>
    obtain ⟨⟨hn, hm, e⟩, reads, only⟩ := State.written_slot (f := fun s => s.cmdUpdArm p) h hr (by decide) (by decide) (by decide) (cmdUpdArm_taken h hr hu h4 h1)
    exact ⟨_, rfl, hn, reads (BOT_UPDSTAT_RESULT, 0) (by simp), hm, e, only⟩
  case refine_6 =>
    obtain ⟨⟨hn, hm, e⟩, reads, only⟩ := State.written_slot (f := fun s => s.cmdUpdDisarm p) h hr (by decide) (by decide) (by decide) (cmdUpdDisarm_taken h hr h2)
    exact ⟨_, rfl, hn, reads (BOT_UPDSTAT_RESULT, 0) (by simp), hm, e, only⟩

end Sys2Proof.Machine
end

section
/-! PROOFS. Restart, attestation and probation (17, R442, R449, R450, R453 to R455, R460). -/
namespace Sys2Proof.Machine

/-! ### Restart (R453 to R455) -/

/-- A restart of `s` with cause `c` has begun. -/
def Restarts (s : State) (c : Nat) (env : BootEnv) (t : State) : Prop :=
  t.getF BOT_RSTCAUSE_CAUSE = c ∧ t.kerb.phase = .boot ∧ t.kerb.env = env ∧ t.kerb.lastWords = s.kerb.lastWords ∧ t.sched = State.reset.sched ∧
  t.sq = { State.reset.sq with rowMap := s.sq.rowMap } ∧ t.host = State.reset.host

/-- Without a Kerb set on hand a restart begins at once. -/
theorem State.restart_begins {s : State} (hk : s.kerb.kset = none) (env : BootEnv) {c : Nat} (hc : c < 16) : Restarts s c env (s.restart c env) := by
  obtain ⟨-, hwords, -, hphase, henv, hcause, -, -, -, -, -, -, -, -, -, e, -⟩ := State.restart_from s env hc (State.finishSet_none hk c)
  exact ⟨hcause, hphase, henv, hwords, (congrArg State.sched e :), (congrArg State.sq e :), (congrArg State.host e :)⟩

section
variable {s : State} {p : Path} {env : BootEnv}

/-- A running module restarts on command in START, ISOLATED and FENCED. -/
theorem mayRestart_runs (h : s.RegsOk) (hr : s.Runs) :
    s.aside.mayRestart = true ↔ s.getF PAR_STAT_STATE = 0 ∨ s.getF PAR_STAT_STATE = 5 ∨ s.getF PAR_STAT_STATE = 8 := by
  unfold State.mayRestart
  rw [pairState_aside h, show s.aside.kerb.phase = .run from hr]
  simp [or_assoc]

/-- BOT_RESTART where it is accepted. -/
theorem execBotRestart_restarts (h : s.RegsOk) (hr : s.Runs) (hk : s.kerb.kset = none)
    (hst : s.getF PAR_STAT_STATE = 0 ∨ s.getF PAR_STAT_STATE = 5 ∨ s.getF PAR_STAT_STATE = 8) : Gives (.botRestart p env) s (Restarts s 3 env) := by
  have taken : s.aside.cmdBotRestart p env = s.aside.restart 3 env := by
    unfold State.cmdBotRestart
    rw [if_pos ((mayRestart_runs h hr).mpr hst), if_neg (by rw [show s.aside.kerb.phase = .run from hr]; decide)]
  have begins := State.restart_begins (s := s.aside) hk env (c := 3) (by decide)
  refine ⟨_, rfl, ?_⟩
  rw [State.written_boot (f := fun s => s.cmdBotRestart p env) (State.blkReady_runs hr _) (by rw [show s.kerb.phase = .run from hr]; decide) taken begins.2.1]
  exact begins

/-- BOT_RESTART elsewhere. -/
theorem execBotRestart_barred (h : s.RegsOk) (hr : s.Runs) (hst : ¬ (s.getF PAR_STAT_STATE = 0 ∨ s.getF PAR_STAT_STATE = 5 ∨ s.getF PAR_STAT_STATE = 8)) :
    s.aside.cmdBotRestart p env = s.aside.ignored p botCmdOff 4 :=
  if_neg fun e => hst ((mayRestart_runs h hr).mp e)

/-- AUTO_RESTART in state K, its condition met. -/
theorem execAutoRestart_restarts (ht : s.kerb.toRestart = none) (hoff : s.kerb.phase = .off) (hk : s.kerb.kset = none) (hdue : s.autoDue = true) :
    Gives (.autoRestart env) s (Restarts s 4 env) := by
  have e : exec (.autoRestart env) s = .next (s.restart 4 env) := by
    show execAutoRestart env s = _
    unfold execAutoRestart
    rw [ht, hoff, hk, hdue]
    rfl
  exact ⟨_, e, State.restart_begins hk env (by decide)⟩

/-- AUTO_RESTART elsewhere. -/
theorem execAutoRestart_idle (ht : s.kerb.toRestart = none) (hno : s.kerb.phase ≠ .off ∨ s.autoDue = false) : Gives (.autoRestart env) s fun t => t = s := by
  have e : exec (.autoRestart env) s = .next s := by
    show execAutoRestart env s = _
    unfold execAutoRestart
    rw [ht]
    exact congrArg Host.Outcome.next (if_neg (by rcases hno with e | e <;> simp [e]))
  exact ⟨_, e, rfl⟩

/-! ### BOT_CMD (R442, R449, R450) -/

/-- The evidence is the same where the count of refused writes is set aside. -/
theorem evidence_aside (h : s.RegsOk) (nonce : List Byte) : s.aside.evidence nonce = s.evidence nonce := by
  have body : s.aside.evidenceBody nonce = s.evidenceBody nonce := by
    unfold State.evidenceBody State.seat State.epoch
    rw [cfg_aside h]
    repeat rw [getF_aside h _ (by decide)]
    rfl
  unfold State.evidence
  rw [body]

/-- ATTEST: the evidence for the nonce of the window. -/
theorem cmdBotAttest_taken (h : s.RegsOk) (hr : s.Runs) :
    s.aside.cmdBotAttest p = s.aside.modKerb fun k => { k with evidence := s.evidence (memRdL k.upWin 0 32) } := by
  unfold State.cmdBotAttest
  rw [State.blkReady_runs (s := s.aside) hr, show s.aside.kerb.phase = .run from hr, if_neg (by decide)]
  simp only [evidence_aside h]

/-- CONFIRM under UPDATE-ENABLE, on probation. -/
theorem cmdBotConfirm_taken (h : s.RegsOk) (hr : s.Runs) (hu : s.updateEnable = true) (hp : s.flag BOT_STAT_PROBATION = true) :
    s.aside.cmdBotConfirm p = s.aside.modKerb fun k => { k with confGiven := true } := by
  unfold State.cmdBotConfirm
  rw [updateEnable_aside h, hu, State.blkReady_runs (s := s.aside) hr, flag_aside h _ (by decide), hp]
  rfl

/-- REJECT under UPDATE-ENABLE, on probation. -/
theorem cmdBotReject_taken (h : s.RegsOk) (hr : s.Runs) (hu : s.updateEnable = true) (hp : s.flag BOT_STAT_PROBATION = true) :
    s.aside.cmdBotReject p env = s.aside.giveUp env := by
  unfold State.cmdBotReject
  rw [updateEnable_aside h, hu, State.blkReady_runs (s := s.aside) hr, flag_aside h _ (by decide), hp]
  rfl

/-- CONFIRM and REJECT without UPDATE-ENABLE. -/
theorem cmdBot_barred (h : s.RegsOk) (hu : s.updateEnable = false) :
    s.aside.cmdBotConfirm p = s.aside.ignored p botCmdOff 2 ∧ s.aside.cmdBotReject p env = s.aside.ignored p botCmdOff 2 := by
  unfold State.cmdBotConfirm State.cmdBotReject
  rw [updateEnable_aside h, hu]
  exact ⟨rfl, rfl⟩

/-! ### A slot given up in SOLO (R450, Table 17-8) -/

/-- The Kerb with no rejection and no confirmation pending. -/
abbrev State.settled (s : State) : State := s.modKerb fun k => { k with rejecting := false, confGiven := false }

/-- Giving up the slot on probation: the running slot is REJECTED, and nothing is pending. -/
theorem State.rejectSlot_does (h : s.RegsOk) :
    SlotChanged s.settled s.runSlot { s.slot s.runSlot with st := 6 } s.rejectSlot ∧ s.rejectSlot.getF BOT_STAT_PROBATION = 0 ∧
    Chg s s.rejectSlot ([(BOT_STAT_PROBATION, 0), (BOT_STAT_WINLEFT, 0)] ++ slotFields) := by
  obtain ⟨hn, hm, c, r, e⟩ := State.modSlot_does h s.runSlot (fun x => { x with st := 6 })
  have shape : s.rejectSlot = (s.modSlot s.runSlot fun x => { x with st := 6 }).settled.puts 0 [(BOT_STAT_PROBATION, 0), (BOT_STAT_WINLEFT, 0)] := rfl
  rw [shape]
  generalize s.modSlot s.runSlot (fun x => { x with st := 6 }) = u at *
  have cu := c.same (u := u.settled) rfl
  have cp := cu.trans (State.puts_chg cu.ok 0 [(BOT_STAT_PROBATION, 0), (BOT_STAT_WINLEFT, 0)])
  have hp : (u.settled.puts 0 [(BOT_STAT_PROBATION, 0), (BOT_STAT_WINLEFT, 0)]).getF BOT_STAT_PROBATION = 0 :=
    State.getF_puts cu.ok (by decide) (by decide) (List.mem_cons_self ..) (by decide)
  obtain ⟨q, eq⟩ := State.puts_frame u.settled 0 [(BOT_STAT_PROBATION, 0), (BOT_STAT_WINLEFT, 0)]
  refine ⟨⟨?_, ?_, ?_⟩, hp, cp⟩
  · exact (congrArg (fun t => t.slot s.runSlot) eq).trans hn
  · exact fun m hne => (congrArg (fun t => t.slot m) eq).trans (hm m hne)
  · rw [eq, e]; rfl

/-- In SOLO the module runs on. -/
theorem State.giveUp_solo (hr : s.Runs) (h7 : s.getF PAR_STAT_STATE = 7) : s.giveUp env = s.rejectSlot := by
  unfold State.giveUp
  rw [show s.kerb.phase = .run from hr, h7]
  rfl

/-- The slot on probation is REJECTED and the module runs on. -/
def GivenUp (s t : State) : Prop :=
  (t.slot s.runSlot = { s.slot s.runSlot with st := 6 } ∧ (∀ m, m ≠ s.runSlot → t.slot m = s.slot m) ∧ t.getF BOT_STAT_PROBATION = 0 ∧ t.kerb.phase = .run) ∧
  t = { s with regs := t.regs, kerb := { s.kerb with slots := t.kerb.slots, rejecting := false, confGiven := false } }

/-- BOT_REJECT in SOLO. -/
theorem execBotReject_solo (h : s.RegsOk) (hr : s.Runs) (hu : s.updateEnable = true) (hp : s.flag BOT_STAT_PROBATION = true) (h7 : s.getF PAR_STAT_STATE = 7) :
    GivenUp s (s.written p botCmdOff fun s => s.cmdBotReject p env) ∧
    OnlyRegsW 18 s (s.written p botCmdOff fun s => s.cmdBotReject p env) ([(BOT_STAT_PROBATION, 0), (BOT_STAT_WINLEFT, 0)] ++ slotFields) := by
  have taken : s.aside.cmdBotReject p env = s.aside.rejectSlot :=
    (cmdBotReject_taken h hr hu hp).trans (State.giveUp_solo (s := s.aside) hr (by rw [pairState_aside h, h7]))
  obtain ⟨⟨hn, hm, e⟩, hpr, c⟩ := State.rejectSlot_does (Chg.aside h).ok
  rw [runSlot_aside h] at hn hm
  obtain ⟨ew, only, away⟩ := State.written_does (p := p) (off := botCmdOff) (f := fun s => s.cmdBotReject p env) hr h taken c
    (by rw [e]; show s.kerb.phase ≠ _; rw [show s.kerb.phase = .run from hr]; decide)
  refine ⟨⟨⟨by rw [ew]; exact hn, fun m hne => by rw [ew]; exact hm m hne, (away _ 0 (book_ne (by decide) (by decide))).trans hpr, ?_⟩, by rw [ew, e]; rfl⟩, only⟩
  rw [ew, e]
  exact hr

/-- The end of the health window in SOLO. -/
theorem execHealthwinExpiry_solo (h : s.RegsOk) (hr : s.Runs) (hp : s.flag BOT_STAT_PROBATION = true) (hw : s.kerb.winEnd ≤ s.now) (h7 : s.getF PAR_STAT_STATE = 7) :
    Gives (.healthwinExpiry env) s fun t => GivenUp s t ∧ OnlyRegs s t ([(BOT_STAT_PROBATION, 0), (BOT_STAT_WINLEFT, 0)] ++ slotFields) := by
  obtain ⟨⟨hn, hm, e⟩, hpr, c⟩ := State.rejectSlot_does h
  refine ⟨s.rejectSlot, ?_, ⟨⟨hn, hm, hpr, by rw [e]; exact hr⟩, e⟩, c.only⟩
  exact congrArg Host.Outcome.next ((if_pos (by rw [hp]; simp; omega)).trans (State.giveUp_solo hr h7))

/-! ### The confirmation (R449, R451) -/

/-- The running slot CONFIRMED, and the one that was PREVIOUS. -/
def State.promote (s : State) : State :=
  let u := s.slotTo s.runSlot 4
  if (u.slot u.spareSlot).st = 4 then u.slotTo u.spareSlot 5 else u

/-- With two slots each is the other's spare. -/
theorem spareSlot_ne (hn : s.runSlot ≤ 1) : s.spareSlot ≠ s.runSlot := by
  unfold State.spareSlot
  omega

/-- The promotion changes the two slots and what shows them. -/
theorem State.promote_does (h : s.RegsOk) (hn : s.runSlot ≤ 1) :
    s.promote.slot s.runSlot = { s.slot s.runSlot with st := 4 } ∧ ((s.slot s.spareSlot).st = 4 → (s.promote.slot s.spareSlot).st = 5) ∧
    Chg s s.promote slotFields ∧ ∃ r l, s.promote = { s with regs := r, kerb := { s.kerb with slots := l } } := by
  obtain ⟨hrun, hother, c, r, e⟩ := State.modSlot_does h s.runSlot (fun x => { x with st := 4 })
  have hspare : (s.slotTo s.runSlot 4).spareSlot = s.spareSlot := congrArg (1 - ·) (c.only BOT_STAT_ACTSLOT 0 (by decide))
  have ne := spareSlot_ne hn
  unfold State.promote
  dsimp only
  rw [hspare, show (s.slotTo s.runSlot 4).slot s.spareSlot = s.slot s.spareSlot from hother _ ne]
  split
  · obtain ⟨hsp, hother', c', r', e'⟩ := State.modSlot_does c.ok s.spareSlot (fun x => { x with st := 5 })
    exact ⟨(hother' _ (Ne.symm ne)).trans hrun, fun _ => congrArg Slot.st hsp, (c.trans c').mono (by simp), r', _, e'.trans (by rw [e])⟩
  next h4 => exact ⟨hrun, fun h => absurd h h4, c, r, _, e⟩

/-- Showing the slots touches their five registers. -/
theorem State.showSlots_does (h : s.RegsOk) : Chg s s.showSlots slotFields ∧ ∃ r, s.showSlots = { s with regs := r } := by
  obtain ⟨v, e⟩ : ∃ v, s.showSlots = s.puts 0 [(BOT_SLOTSTAT_STATEA, (s.slot 0).st), (BOT_SLOTSTAT_STATEB, (s.slot 1).st),
    (BOT_SVN_KERBSVN, thermCount s.kerb.fuses false), (BOT_SVN_MODSVN, thermCount s.kerb.fuses true), (BOT_SVN_SLOTSVN, v)] := by
    unfold State.puts
    simp only [List.foldl_cons, List.foldl_nil]
    exact ⟨_, rfl⟩
  rw [e]
  exact ⟨State.puts_chg h 0 _, State.puts_frame s 0 _⟩

/-- What a confirmation shows. -/
abbrev confirmShows : List (Fld × Nat) := [(BOT_STAT_PROBATION, 0), (BOT_STAT_WINLEFT, 0), (BOT_SLOTSTAT_FMTPAIR, 0)]

/-- Three registers. -/
theorem confirmShows_apart : (confirmShows.map fun x => x.1.place).Nodup := by decide

/-- The confirmation as a whole. -/
def State.confirmSlot (s : State) : State :=
  let b := s.bundle
  let u := (s.promote.modKerb fun k => { k with fuses := blow (blow k.fuses false b.kerbSvn) true b.modSvn, confGiven := false }).showSlots
  let v := ((u.setF BOT_STAT_PROBATION 0).setF BOT_STAT_WINLEFT 0).setF BOT_SLOTSTAT_FMTPAIR 0
  { v with pkgs := v.pkgs.map fun p => (p.1, { p.2 with fmt := b.fmt }) }

/-- What the confirmation leaves. -/
theorem State.confirmSlot_does (h : s.RegsOk) (hn : s.runSlot ≤ 1) :
    let t := s.confirmSlot
    t.slot s.runSlot = { s.slot s.runSlot with st := 4 } ∧ ((s.slot s.spareSlot).st = 4 → (t.slot s.spareSlot).st = 5) ∧
    t.getF BOT_STAT_PROBATION = 0 ∧ t.getF BOT_SLOTSTAT_FMTPAIR = 0 ∧
    t = { s with regs := t.regs, pkgs := t.pkgs, kerb := { s.kerb with slots := t.kerb.slots, fuses := t.kerb.fuses, confGiven := false } } ∧
    OnlyRegs s t ([(BOT_STAT_PROBATION, 0), (BOT_STAT_WINLEFT, 0), (BOT_SLOTSTAT_FMTPAIR, 0)] ++ slotFields) := by
  obtain ⟨hrun, hspare, c, r, l, e⟩ := State.promote_does h hn
  unfold State.confirmSlot
  dsimp only
  generalize hk : s.promote.modKerb (fun k => { k with fuses := blow (blow k.fuses false s.bundle.kerbSvn) true s.bundle.modSvn, confGiven := false }) = k
  have ck : Chg s k slotFields := c.same (by rw [← hk]; rfl)
  obtain ⟨cv, r2, e2⟩ := State.showSlots_does ck.ok
  generalize k.showSlots = v at *
  rw [show ((v.setF BOT_STAT_PROBATION 0).setF BOT_STAT_WINLEFT 0).setF BOT_SLOTSTAT_FMTPAIR 0 = v.puts 0 confirmShows from rfl]
  have cl := State.puts_chg cv.ok 0 confirmShows
  have hprob : (v.puts 0 confirmShows).getF BOT_STAT_PROBATION = 0 := State.getF_puts cv.ok (by decide) confirmShows_apart (by simp [confirmShows]) (by decide)
  have hfmt : (v.puts 0 confirmShows).getF BOT_SLOTSTAT_FMTPAIR = 0 := State.getF_puts cv.ok (by decide) confirmShows_apart (by simp [confirmShows]) (by decide)
  obtain ⟨r3, e3⟩ := State.puts_frame v 0 confirmShows
  generalize v.puts 0 confirmShows = w at *
  have ew : w = { s with regs := r3, kerb := { s.kerb with slots := l, fuses := blow (blow s.kerb.fuses false s.bundle.kerbSvn) true s.bundle.modSvn, confGiven := false } } := by
    rw [e3, e2, ← hk, e]; rfl
  have hslot (n : Nat) : w.slot n = s.promote.slot n := by rw [ew, e]; rfl
  refine ⟨(hslot _).trans hrun, fun h4 => (congrArg Slot.st (hslot _)).trans (hspare h4), hprob, hfmt, ?_, (((ck.trans cv).trans cl).mono ?_).only⟩
  · rw [ew]
  · simp [slotFields, confirmShows]

/-- PROBATION_CONFIRMATION once the role has been held for CONFMIN minutes. -/
theorem execProbationConfirmation_confirms {t0 : Nat} (hok : s.kerb.okSince = some t0) (hheld : t0 + s.getF BOT_CFG_CONFMIN * 60000000000 ≤ s.now)
    (hp : s.flag BOT_STAT_PROBATION = true) (hrej : s.kerb.rejecting = false) (hconf : (s.kerb.confGiven || s.flag BOT_CFG_AUTOCONF) = true) :
    exec .probationConfirmation s = .next s.confirmSlot := by
  show execProbationConfirmation s = _
  unfold execProbationConfirmation
  rw [hok, hp, hrej, hconf]
  dsimp only
  rw [decide_eq_true (show s.now + 62500 ≥ t0 + s.getF BOT_CFG_CONFMIN * 60000000000 by omega)]
  unfold State.confirmSlot State.promote
  exact congrArg Host.Outcome.next (if_neg (by decide))

end

/-- Settles O37: restarts, attestation, and the end of a probation by confirmation or rejection. -/
theorem probationAndRestart : Obligations.ProbationAndRestart := by
  unfold Obligations.ProbationAndRestart
  intro s h
  have isSet {f : Fld} (hf : s.getF f = 1) : s.flag f = true := by unfold State.flag; rw [hf]; rfl
  have hphase (hr : s.Runs) : s.kerb.phase ≠ .boot := by rw [show s.kerb.phase = .run from hr]; decide
  refine ⟨fun p env hr hk hst => execBotRestart_restarts h hr hk hst, fun p env hr h0 h5 h8 => ⟨_, rfl, ?_⟩, fun env => execAutoRestart_restarts,
    fun env => execAutoRestart_idle, fun p hr => ?_, fun p hr hu hp => ⟨_, rfl, ?_⟩, fun p env hr hu => ?_, fun p env hr hu hp h7 => ?_, fun env hr hp hw h7 => ?_,
    fun t0 hok hheld hp hrej hconf hn => ⟨_, execProbationConfirmation_confirms hok hheld (isSet hp) hrej ?_, State.confirmSlot_does h hn⟩⟩
  · exact State.written_ign hr h (f := fun s => s.cmdBotRestart p env) (execBotRestart_barred h hr (by omega)) (by decide) (by decide) (by decide)
  · obtain ⟨e, only⟩ := State.written_plain (p := p) (off := botCmdOff) (f := fun s => s.cmdBotAttest p) hr h (cmdBotAttest_taken h hr) rfl
      (by dsimp only [State.modKerb]; exact hphase hr)
    exact ⟨_, rfl, congrArg (fun t => t.kerb.evidence) e, by rw [e]; rfl, only⟩
  · exact State.written_plain (p := p) (off := botCmdOff) (f := fun s => s.cmdBotConfirm p) hr h (cmdBotConfirm_taken h hr hu (isSet hp)) rfl (hphase hr)
  · exact ⟨⟨_, rfl, State.written_ign hr h (f := fun s => s.cmdBotConfirm p) (cmdBot_barred (env := env) h hu).1 (by decide) (by decide) (by decide)⟩,
      ⟨_, rfl, State.written_ign hr h (f := fun s => s.cmdBotReject p env) (cmdBot_barred h hu).2 (by decide) (by decide) (by decide)⟩⟩
  · obtain ⟨⟨hslots, e⟩, only⟩ := execBotReject_solo (p := p) (env := env) h hr hu (isSet hp) h7
    exact ⟨_, rfl, hslots, e, only⟩
  · obtain ⟨t, e, ⟨hslots, frame⟩, only⟩ := execHealthwinExpiry_solo (env := env) h hr (isSet hp) hw h7
    exact ⟨t, e, hslots, frame, only⟩
  · rcases hconf with e | e
    · rw [e]; rfl
    · rw [isSet e, Bool.or_true]

end Sys2Proof.Machine
end

section
/-! PROOFS. The converter: the sequence, urgent requests and its self-test (13, R371 to R375). -/
namespace Sys2Proof.Machine

section
variable {s : State}

/-! ### What is served, and an entry taken (R371, R373, R374) -/

/-- What waits as urgent is served: as many as there are codes. -/
theorem State.serveAll_does (h : s.RegsOk) (tm : Nat) (urg : List (BitVec 18)) :
    Kept (adcFlds ++ urgFlds) s (s.serveAll tm urg) ∧
    (∃ ai srcs, (s.serveAll tm urg).io = { s.io with ai := ai, srcs := srcs, urgent := s.io.urgent.drop urg.length }) ∧
    (s.serveAll tm urg).flag ADC_STAT_URGPEND = !(s.io.urgent.drop urg.length).isEmpty := by
  obtain ⟨k, io, pend⟩ := State.serveUrgent_does tm s.io.urgent urg s h
  exact ⟨k, ⟨_, _, io⟩, pend⟩

/-- The source of the entry that stands in the sequence. -/
abbrev State.entrySrc (s : State) : Nat := s.getF ADC_SEQENT_SRC (s.getF ADC_STAT_ENTRY)

/-- The code of an entry taken, before the sequence moves on. -/
def State.entryTaken (s : State) (code t : Nat) : State :=
  let u := { s with io := { s.io with codes := tabSet s.io.codes (s.getF ADC_STAT_ENTRY) (if s.entrySrc ≥ 0x25 then 0 else code) } }
  if s.entrySrc ≥ 0x25 then u else u.adcTake s.entrySrc code t

/-- The code stands in its place. -/
theorem State.entryTaken_does (s : State) (code t : Nat) :
    Kept adcFlds s (s.entryTaken code t) ∧ ∃ ai srcs, (s.entryTaken code t).io =
      { s.io with ai := ai, srcs := srcs, codes := tabSet s.io.codes (s.getF ADC_STAT_ENTRY) (if 0x25 ≤ s.entrySrc then 0 else code) } := by
  unfold State.entryTaken
  dsimp only
  have put : Kept adcFlds s { s with io := { s.io with codes := tabSet s.io.codes (s.getF ADC_STAT_ENTRY) (if s.entrySrc ≥ 0x25 then 0 else code) } } :=
    (Kept.refl s).same rfl rfl rfl rfl
  by_cases hs : s.entrySrc ≥ 0x25
  · rw [if_pos hs]
    exact ⟨put, _, _, rfl⟩
  · rw [if_neg hs]
    obtain ⟨k, io⟩ := State.adcTake_sampled { s with io := { s.io with codes := tabSet s.io.codes (s.getF ADC_STAT_ENTRY) (if s.entrySrc ≥ 0x25 then 0 else code) } }
      s.entrySrc code t
    exact ⟨put.trans k, _, _, io⟩

/-- The sequence moves on to its next entry. -/
theorem State.entryDone_next (h : s.RegsOk) {code t : Nat} (hn : s.getF ADC_STAT_ENTRY + 1 < s.getF ADC_CTL_SEQLEN) :
    s.entryDone code t = (s.entryTaken code t).setF ADC_STAT_ENTRY (s.getF ADC_STAT_ENTRY + 1) := by
  rw [← (s.entryTaken_does code t).1.get h ADC_CTL_SEQLEN 0 (by decide) (by decide)] at hn
  exact if_neg (Nat.not_le.mpr hn)

/-- Or the round ends. -/
theorem State.entryDone_last (h : s.RegsOk) {code t : Nat} (hn : s.getF ADC_CTL_SEQLEN ≤ s.getF ADC_STAT_ENTRY + 1) :
    s.entryDone code t = ((s.entryTaken code t).setF ADC_STAT_ENTRY 0).roundEnd t := by
  rw [← (s.entryTaken_does code t).1.get h ADC_CTL_SEQLEN 0 (by decide) (by decide)] at hn
  exact if_pos hn

/-- A round's end: its time is noted and what waits for it takes effect. -/
theorem State.roundEnd_does (h : s.RegsOk) (t : Nat) :
    (s.roundEnd t).RegsOk ∧ (∃ ai srcs, (s.roundEnd t).io = { s.io with ai := ai, srcs := srcs, roundAt := t }) ∧ (s.roundEnd t).now = s.now ∧
    (s.roundEnd t).due = s.due.filter fun d => !d.ripe .adcRound s.tick := by
  unfold State.roundEnd
  dsimp only
  have k0 := (Kept.refl (L := [ADC_STAT_ROUND]) s).setF (g := ADC_STAT_ROUND) (sat 16 ((t - s.io.roundAt) / 1000)) (iy := 0) (by decide) (by simp)
  have io0 : (s.setF ADC_STAT_ROUND (sat 16 ((t - s.io.roundAt) / 1000))).io = s.io := rfl
  generalize s.setF ADC_STAT_ROUND (sat 16 ((t - s.io.roundAt) / 1000)) = w at *
  have ku := k0.same (u := { w with io := { w.io with roundAt := t } }) rfl rfl rfl rfl
  have hio : ({ w with io := { w.io with roundAt := t } } : State).io = { s.io with roundAt := t } := by rw [io0]
  generalize ({ w with io := { w.io with roundAt := t } } : State) = u at *
  obtain ⟨kl, io⟩ := Sampled.foldl (f := fun s n => s.loopSet n) (l := List.range 16) (fun u n hn => State.loopSet_sampled u (by have := List.mem_range.mp hn; omega)) u
  generalize (List.range 16).foldl (fun s n => s.loopSet n) u = v at *
  refine ⟨(State.applyDue_keeps (Keeps.refl v)).regs (kl.ok (ku.ok h)), ⟨v.io.ai, v.io.srcs, ?_⟩, kl.now.trans ku.now, ?_⟩
  · show v.io = _
    rw [io, hio]
  · show v.due.filter (fun d => !d.ripe .adcRound v.tick) = _
    rw [kl.due, kl.tick, ku.due, ku.tick]

/-- ADC_ENTRY_COMPLETE where the sequence goes on. -/
theorem execAdcEntryComplete_next (h : s.RegsOk) (code : BitVec 18) (urg : List (BitVec 18)) (tm : Nat)
    (hn : s.getF ADC_STAT_ENTRY + 1 < s.getF ADC_CTL_SEQLEN) : Gives (.adcEntryComplete code urg tm) s fun t =>
      t.getF ADC_STAT_ENTRY = (s.getF ADC_STAT_ENTRY + 1) % 2 ^ ADC_STAT_ENTRY.w ∧ t.io.urgent = s.io.urgent.drop urg.length ∧
      t.flag ADC_STAT_URGPEND = !(s.io.urgent.drop urg.length).isEmpty ∧
      tabGet? t.io.codes (s.getF ADC_STAT_ENTRY) = some (if 0x25 ≤ (s.serveAll tm urg).getF ADC_SEQENT_SRC (s.getF ADC_STAT_ENTRY) then 0 else code.toNat) ∧
      Kept (ADC_STAT_ENTRY :: adcFlds ++ urgFlds ++ judgeFlds) s t := by
  obtain ⟨kv, ⟨ai, srcs, iov⟩, pend⟩ := State.serveAll_does h tm urg
  have he : (s.serveAll tm urg).getF ADC_STAT_ENTRY = s.getF ADC_STAT_ENTRY := kv.get h _ 0 (by decide) (by decide)
  have hlen : (s.serveAll tm urg).getF ADC_CTL_SEQLEN = s.getF ADC_CTL_SEQLEN := kv.get h _ 0 (by decide) (by decide)
  rw [← he, ← hlen] at hn
  refine ⟨_, congrArg (fun u : State => Host.Outcome.next u.fnJudgeAll) (State.entryDone_next (kv.ok h) hn), ?_⟩
  generalize s.serveAll tm urg = v at *
  obtain ⟨kw, ai', srcs', iow⟩ := v.entryTaken_does code.toNat tm
  have okw := kw.ok (kv.ok h)
  unfold State.entrySrc at iow
  rw [he] at iow ⊢
  generalize v.entryTaken code.toNat tm = w at *
  have kx := (Kept.refl (L := [ADC_STAT_ENTRY]) w).setF (g := ADC_STAT_ENTRY) (s.getF ADC_STAT_ENTRY + 1) (iy := 0) (by decide) (by simp)
  have hx := getF_setF_self w ADC_STAT_ENTRY (s.getF ADC_STAT_ENTRY + 1) 0 okw
  have iox : (w.setF ADC_STAT_ENTRY (s.getF ADC_STAT_ENTRY + 1)).io = w.io := rfl
  generalize w.setF ADC_STAT_ENTRY (s.getF ADC_STAT_ENTRY + 1) = x at *
  have j := State.fnJudgeAll_judged (kx.ok okw)
  refine ⟨(j.kept.get (kx.ok okw) _ 0 (by decide) (by decide)).trans hx, ?_, ?_, ?_, ?_⟩
  · rw [j.io, iox, iow, iov]
  · exact (j.kept.flag (kx.ok okw) (by decide) (by decide)).trans ((kx.flag okw (by decide) (by decide)).trans ((kw.flag (kv.ok h) (by decide) (by decide)).trans pend))
  · rw [j.io, iox, iow]
    exact tabGet?_tabSet_self _ _ _
  · exact (((kv.mono (by decide)).trans (kw.mono (by decide))).trans (kx.mono (by decide))).trans (j.kept.mono (by decide))

/-- ADC_ENTRY_COMPLETE where the round ends. -/
theorem execAdcEntryComplete_last (h : s.RegsOk) (code : BitVec 18) (urg : List (BitVec 18)) (tm : Nat)
    (hn : s.getF ADC_CTL_SEQLEN ≤ s.getF ADC_STAT_ENTRY + 1) : Gives (.adcEntryComplete code urg tm) s fun t =>
      t.io.urgent = s.io.urgent.drop urg.length ∧ t.io.roundAt = tm ∧
      tabGet? t.io.codes (s.getF ADC_STAT_ENTRY) = some (if 0x25 ≤ (s.serveAll tm urg).getF ADC_SEQENT_SRC (s.getF ADC_STAT_ENTRY) then 0 else code.toNat) ∧
      t.now = s.now ∧ t.due = s.due.filter (fun d => !d.ripe .adcRound s.tick) := by
  obtain ⟨kv, ⟨ai, srcs, iov⟩, -⟩ := State.serveAll_does h tm urg
  have he : (s.serveAll tm urg).getF ADC_STAT_ENTRY = s.getF ADC_STAT_ENTRY := kv.get h _ 0 (by decide) (by decide)
  have hlen : (s.serveAll tm urg).getF ADC_CTL_SEQLEN = s.getF ADC_CTL_SEQLEN := kv.get h _ 0 (by decide) (by decide)
  rw [← he, ← hlen] at hn
  refine ⟨_, congrArg (fun u : State => Host.Outcome.next u.fnJudgeAll) (State.entryDone_last (kv.ok h) hn), ?_⟩
  generalize s.serveAll tm urg = v at *
  obtain ⟨kw, ai', srcs', iow⟩ := v.entryTaken_does code.toNat tm
  unfold State.entrySrc at iow
  rw [he] at iow
  generalize v.entryTaken code.toNat tm = w at *
  have kx := (Kept.refl (L := [ADC_STAT_ENTRY]) w).setF (g := ADC_STAT_ENTRY) 0 (iy := 0) (by decide) (by simp)
  have iox : (w.setF ADC_STAT_ENTRY 0).io = w.io := rfl
  generalize w.setF ADC_STAT_ENTRY 0 = x at *
  obtain ⟨ok, ⟨ai2, srcs2, io⟩, now, due⟩ := State.roundEnd_does (kx.ok (kw.ok (kv.ok h))) tm
  have j := State.fnJudgeAll_judged ok
  have k := ((kv.mono (M := ADC_STAT_ENTRY :: adcFlds ++ urgFlds) (by decide)).trans (kw.mono (by decide))).trans (kx.mono (by decide))
  refine ⟨?_, ?_, ?_, j.now.trans (now.trans k.now), ?_⟩
  · rw [j.io, io, iox, iow, iov]
  · rw [j.io, io]
  · rw [j.io, io, iox, iow]
    exact tabGet?_tabSet_self _ _ _
  · rw [j.due, due, k.due, k.tick]

/-! ### Urgent requests (R373) -/

/-- The list with a request of a source and an origin in its place, once. -/
def State.asked (s : State) (src ovs : Nat) (setup : Bool) : List (Nat × Nat × Bool) :=
  if s.io.urgent.any (fun q => q.1 = src && q.2.2 = setup) then s.io.urgent else insSort (fun a b => decide (a.1 < b.1)) (src, ovs, setup) s.io.urgent

/-- Asking puts the request into the list. -/
theorem State.askUrgent_does (h : s.RegsOk) (src ovs : Nat) (setup : Bool) :
    Chg s (s.askUrgent src ovs setup) [(ADC_STAT_URGPEND, 0)] ∧ (∃ r, s.askUrgent src ovs setup = { s with regs := r, io := { s.io with urgent := s.asked src ovs setup } }) ∧
    (s.io.urgent.any (fun q => q.1 = src && q.2.2 = setup) = false → (s.askUrgent src ovs setup).flag ADC_STAT_URGPEND = true) := by
  unfold State.askUrgent State.asked
  by_cases hw : s.io.urgent.any (fun q => q.1 = src && q.2.2 = setup) = true
  · simp only [hw, if_true]
    exact ⟨(Chg.refl h).mono (by simp), ⟨_, rfl⟩, fun e => absurd e (by decide)⟩
  · rw [if_neg hw, if_neg hw]
    have c := (Chg.refl h).same (u := { s with io := { s.io with urgent := insSort (fun a b => decide (a.1 < b.1)) (src, ovs, setup) s.io.urgent } }) rfl
    refine ⟨c.setF _ _ _, ⟨_, rfl⟩, fun _ => ?_⟩
    unfold State.flag
    rw [getF_setF_fits c.ok ADC_STAT_URGPEND (v := 1) (by decide)]
    rfl

/-- URGENT_REQUEST: asked for and served with what else waits. -/
theorem execUrgentRequest_serves (h : s.RegsOk) (ch : Fin 16) (codes : List (BitVec 18)) (tm : Nat) : Gives (.urgentRequest ch codes tm) s fun t =>
    t.io.urgent = (s.asked ch.val 0 false).drop codes.length ∧ t.flag ADC_STAT_URGPEND = !((s.asked ch.val 0 false).drop codes.length).isEmpty ∧
    Kept (adcFlds ++ urgFlds ++ judgeFlds) s t := by
  obtain ⟨c, ⟨r, e⟩, -⟩ := State.askUrgent_does h ch.val 0 false
  refine ⟨((s.askUrgent ch.val 0 false).serveAll tm codes).fnJudgeAll, rfl, ?_⟩
  have ka : Kept (adcFlds ++ urgFlds) s (s.askUrgent ch.val 0 false) := (Kept.refl s).chg (fun _ => c) (by decide) (by rw [e]) (by rw [e]) (by rw [e])
  have hl : (s.askUrgent ch.val 0 false).io.urgent = s.asked ch.val 0 false := by rw [e]
  generalize s.askUrgent ch.val 0 false = u at *
  obtain ⟨kv, ⟨ai, srcs, iov⟩, pend⟩ := State.serveAll_does (ka.ok h) tm codes
  have j := State.fnJudgeAll_judged (kv.ok (ka.ok h))
  rw [hl] at iov pend
  refine ⟨by rw [j.io, iov], (j.kept.flag (kv.ok (ka.ok h)) (by decide) (by decide)).trans pend, ?_⟩
  exact ((ka.trans kv).mono (by decide)).trans (j.kept.mono (by decide))

/-- What ADC_URGENT_GO puts before it asks. -/
abbrev urgentShows (src : BitVec 6) (ovs : BitVec 3) : List (Fld × Nat) := [(ADC_URGENT_SRC, src.toNat), (ADC_URGENT_OVS, min ovs.toNat 6), (ADC_URGENT_DONE, 0)]

/-- Three registers. -/
theorem urgentShows_apart (src : BitVec 6) (ovs : BitVec 3) : ((urgentShows src ovs).map fun x => x.1.place).Nodup := (by decide : ((urgentShows 0 0).map fun x => x.1.place).Nodup)

/-- ADC_URGENT_GO. -/
theorem execAdcUrgentGo_asks (h : s.RegsOk) (hr : s.Runs) (p : Path) (src : BitVec 6) (ovs : BitVec 3) : Gives (.adcUrgentGo p src ovs) s fun t =>
    t.getF ADC_URGENT_SRC = src.toNat ∧ t.getF ADC_URGENT_OVS = min ovs.toNat 6 ∧ t.flag ADC_URGENT_DONE = false ∧ t.io.urgent = s.asked src.toNat (min ovs.toNat 6) true ∧
    (s.io.urgent.any (fun q => q.1 = src.toNat && q.2.2 = true) = false → t.flag ADC_STAT_URGPEND = true) ∧
    t = { s with regs := t.regs, io := t.io } ∧ OnlyRegsW 15 s t [(ADC_URGENT_SRC, 0), (ADC_URGENT_OVS, 0), (ADC_URGENT_DONE, 0), (ADC_STAT_URGPEND, 0)] := by
  have ok := (Chg.aside h).ok
  have cp := State.puts_chg ok 0 (urgentShows src ovs)
  obtain ⟨r1, e1⟩ := State.puts_frame s.aside 0 (urgentShows src ovs)
  have hsrc := State.getF_puts ok (ix := 0) (by decide) (urgentShows_apart src ovs) (f := ADC_URGENT_SRC) (v := src.toNat) (by simp [urgentShows]) src.isLt
  have hovs := State.getF_puts ok (ix := 0) (by decide) (urgentShows_apart src ovs) (f := ADC_URGENT_OVS) (v := min ovs.toNat 6) (by simp [urgentShows])
    (lt_of_le_of_lt (Nat.min_le_left _ _) ovs.isLt)
  have hdone := State.getF_puts ok (ix := 0) (by decide) (urgentShows_apart src ovs) (f := ADC_URGENT_DONE) (v := 0) (by simp [urgentShows]) (by decide)
  have taken : s.aside.cmdAdcUrgentGo p src ovs = (s.aside.puts 0 (urgentShows src ovs)).askUrgent src.toNat (min ovs.toNat 6) true := rfl
  generalize s.aside.puts 0 (urgentShows src ovs) = u at *
  have hio : u.io = s.io := by rw [e1]; rfl
  obtain ⟨ca, ⟨r2, e2⟩, pend⟩ := State.askUrgent_does cp.ok src.toNat (min ovs.toNat 6) true
  have hasked : u.asked src.toNat (min ovs.toNat 6) true = s.asked src.toNat (min ovs.toNat 6) true := by unfold State.asked; rw [hio]
  rw [hio] at pend
  rw [hio, hasked] at e2
  generalize u.askUrgent src.toNat (min ovs.toNat 6) true = v at *
  have cv : Chg s.aside v [(ADC_URGENT_SRC, 0), (ADC_URGENT_OVS, 0), (ADC_URGENT_DONE, 0), (ADC_STAT_URGPEND, 0)] := (cp.trans ca).mono (by simp [urgentShows])
  have ev : v = { s with regs := v.regs, io := { s.io with urgent := s.asked src.toNat (min ovs.toNat 6) true } } := by
    rw [e2, e1]
    rfl
  obtain ⟨ew, only, away⟩ := State.written_does (p := p) (off := 0xF0018) (f := fun s => s.cmdAdcUrgentGo p src ovs) hr h taken cv
    (by rw [ev]; show s.kerb.phase ≠ _; rw [show s.kerb.phase = .run from hr]; decide)
  have shown {f : Fld} (hf : ∀ x ∈ book 15, f.off * 32 + f.lo ≠ x.1.off * 32 + x.1.lo) := away f 0 (book_ne (by decide) hf)
  have put {f : Fld} (hf : ∀ x ∈ book 15, f.off * 32 + f.lo ≠ x.1.off * 32 + x.1.lo) (hp : f.key 0 ≠ ADC_STAT_URGPEND.key 0) := (shown hf).trans (ca.only f 0 (by simpa using hp))
  refine ⟨_, rfl, (put (by decide) (by decide)).trans hsrc, (put (by decide) (by decide)).trans hovs, ?_, ?_, fun hw => ?_, ?_, only⟩
  · unfold State.flag; rw [put (by decide) (by decide), hdone]; rfl
  · rw [ew, ev]
  · unfold State.flag at *; rw [shown (by decide)]; exact pend hw
  · rw [ew, ev]

/-! ### The self-test (R375) -/

/-- A step's outcome noted. -/
def State.adcTested (s : State) (a b : Bool) : State :=
  if a && b then { s with io := { s.io with adcFails := 0 } }
  else (State.bump { s with io := { s.io with adcFails := min (s.io.adcFails + 1) 3 } } ADC_STAT_TESTFAIL).evHw 4 [b2n a, b2n b]

/-- A failed step counts. -/
theorem State.adcTested_does (h : s.RegsOk) (a b : Bool) :
    Kept [ADC_STAT_TESTFAIL] s (s.adcTested a b) ∧ (s.adcTested a b).io = { s.io with adcFails := if a && b then 0 else min (s.io.adcFails + 1) 3 } ∧
    (s.adcTested a b).getF ADC_STAT_TESTFAIL = if a && b then s.getF ADC_STAT_TESTFAIL else sat ADC_STAT_TESTFAIL.w (s.getF ADC_STAT_TESTFAIL + 1) := by
  unfold State.adcTested
  by_cases hp : (a && b) = true
  · rw [if_pos hp, if_pos hp, if_pos hp]
    exact ⟨(Kept.refl s).same rfl rfl rfl rfl, rfl, rfl⟩
  · rw [if_neg hp, if_neg hp, if_neg hp]
    have k := (Kept.refl (L := [ADC_STAT_TESTFAIL]) s).same (u := { s with io := { s.io with adcFails := min (s.io.adcFails + 1) 3 } }) rfl rfl rfl rfl
    have hn := getF_bump_sat (k.ok h) ADC_STAT_TESTFAIL 0 1
    have kb := k.bump (g := ADC_STAT_TESTFAIL) (n := 1) (iy := 0) (by decide) (by simp)
    have hio : (State.bump { s with io := { s.io with adcFails := min (s.io.adcFails + 1) 3 } } ADC_STAT_TESTFAIL).io = { s.io with adcFails := min (s.io.adcFails + 1) 3 } := rfl
    generalize State.bump { s with io := { s.io with adcFails := min (s.io.adcFails + 1) 3 } } ADC_STAT_TESTFAIL = u at *
    obtain ⟨ar, e⟩ := State.evHw_frame u 4 [b2n a, b2n b]
    exact ⟨by rw [e]; exact kb.same rfl rfl rfl rfl, by rw [e]; exact hio, (getF_same (State.event_regs ..)).trans hn⟩

/-- ADC_SELF_TEST_STEP with nothing urgent waiting. -/
theorem execAdcSelfTestStep_tests (h : s.RegsOk) (a b : Bool) (hu : s.io.urgent = []) : Gives (.adcSelfTestStep a b) s fun t =>
    t.io.adcFails = (if a && b then 0 else min (s.io.adcFails + 1) 3) ∧
    t.getF ADC_STAT_TESTFAIL = (if a && b then s.getF ADC_STAT_TESTFAIL else sat ADC_STAT_TESTFAIL.w (s.getF ADC_STAT_TESTFAIL + 1)) ∧ t.io.urgent = [] ∧
    Kept (ADC_STAT_TESTFAIL :: adcFlds ++ judgeFlds) s t := by
  have e : exec (.adcSelfTestStep a b) s = .next ((List.range 16).foldl (fun s n => s.showAi n) (s.adcTested a b)).fnJudgeAll :=
    congrArg Host.Outcome.next (if_neg (by simp [hu]))
  obtain ⟨kt, iot, cnt⟩ := State.adcTested_does h a b
  obtain ⟨ks, ios⟩ := Sampled.foldl (f := fun s n => s.showAi n) (l := List.range 16) (fun u n hn => State.showAi_sampled u (by have := List.mem_range.mp hn; omega)) (s.adcTested a b)
  refine ⟨_, e, ?_⟩
  generalize (List.range 16).foldl (fun s n => s.showAi n) (s.adcTested a b) = v at *
  have okv := ks.ok (kt.ok h)
  have j := State.fnJudgeAll_judged okv
  refine ⟨by rw [j.io, ios, iot], ?_, by rw [j.io, ios, iot]; exact hu, ((kt.mono (by decide)).trans (ks.mono (by decide))).trans (j.kept.mono (by decide))⟩
  exact (j.kept.get okv _ 0 (by decide) (by decide)).trans ((ks.get (kt.ok h) _ 0 (by decide) (by decide)).trans cnt)

end

end Sys2Proof.Machine
end

section
/-! PROOFS. Loop supplies, HART and the readback of the analogue outputs (13, R362 to R369, R375, R378). -/
namespace Sys2Proof.Machine

section
variable {s : State}

/-! ### Loop supplies (R362, R363) -/

/-- The voltage that a loop supply is set to. -/
def State.loopTarget (s : State) (n : Nat) : Nat :=
  if s.flag AIO_AICFG_LSON n && !s.flag AIO_AISTAT_LSOFF n then
    loopVolt (s.flag AIO_STAT_THERMLIM) (s.getF AIO_AICFG_VMIN n) (s.getF AIO_AICFG_RLOOP n) (s.aiCh n).y else 0

/-- A supply's voltage noted. -/
def State.putVls (s : State) (n v : Nat) : State := { s with io := { s.io with ai := tabMod AiCh.reset s.io.ai n (fun c => { c with vls := v }) } }

/-- The voltage noted, and the register that shows it. -/
theorem State.putVls_does (h : s.RegsOk) (n v : Nat) {w : Nat} (hw : w < 2 ^ 8) :
    Chg s ((s.putVls n v).setF AIO_AISTAT_LSV w n) [(AIO_AISTAT_LSV, n)] ∧ (∃ r ai, (s.putVls n v).setF AIO_AISTAT_LSV w n = { s with regs := r, io := { s.io with ai := ai } }) ∧
    (((s.putVls n v).setF AIO_AISTAT_LSV w n).aiCh n).vls = v ∧ ((s.putVls n v).setF AIO_AISTAT_LSV w n).getF AIO_AISTAT_LSV n = w := by
  have c := (Chg.refl h).same (u := s.putVls n v) rfl
  have hv : ((s.putVls n v).aiCh n).vls = v := congrArg AiCh.vls (tabGet_tabSet_self _ _ _ _)
  exact ⟨c.setF _ _ _, ⟨_, _, rfl⟩, hv, getF_setF_fits c.ok AIO_AISTAT_LSV hw⟩

/-- A loop supply set: its voltage, and the register that shows it. -/
theorem State.loopSet_does (h : s.RegsOk) (n : Nat) :
    Chg s (s.loopSet n) [(AIO_AISTAT_LSV, n)] ∧ (∃ r ai, s.loopSet n = { s with regs := r, io := { s.io with ai := ai } }) ∧
    ((s.loopSet n).aiCh n).vls = s.loopTarget n ∧ (s.loopTarget n = 0 → (s.loopSet n).getF AIO_AISTAT_LSV n = 0) := by
  unfold State.loopTarget
  by_cases hon : (s.flag AIO_AICFG_LSON n && !s.flag AIO_AISTAT_LSOFF n) = true
  · rw [if_pos hon]
    generalize hv : loopVolt (s.flag AIO_STAT_THERMLIM) (s.getF AIO_AICFG_VMIN n) (s.getF AIO_AICFG_RLOOP n) (s.aiCh n).y = v
    have e : s.loopSet n = (s.putVls n v).setF AIO_AISTAT_LSV (sat 8 (v / 1250000)) n := by
      subst hv
      exact if_pos hon
    obtain ⟨c, frame, hvls, hreg⟩ := State.putVls_does h n v (w := sat 8 (v / 1250000)) (lt_of_le_of_lt (Nat.min_le_right _ _) (by decide))
    rw [e]
    exact ⟨c, frame, hvls, fun h0 => hreg.trans (by rw [h0]; rfl)⟩
  · rw [if_neg hon]
    have e : s.loopSet n = (s.putVls n 0).setF AIO_AISTAT_LSV 0 n := if_neg hon
    obtain ⟨c, frame, hvls, hreg⟩ := State.putVls_does h n 0 (w := 0) (by decide)
    rw [e]
    exact ⟨c, frame, hvls, fun _ => hreg⟩

/-- LOOP_SUPPLY_RETRY of a supply that is well again. -/
theorem execLoopSupplyRetry_on (h : s.RegsOk) (ch : Fin 16) {ok : Bool} (hb : (s.flag AIO_AISTAT_LSOFF ch.val && ok) = true) : Gives (.loopSupplyRetry ch ok) s fun t =>
    t.flag AIO_AISTAT_LSOFF ch.val = false ∧
    (t.aiCh ch.val).vls = (if s.flag AIO_AICFG_LSON ch.val then loopVolt (s.flag AIO_STAT_THERMLIM) (s.getF AIO_AICFG_VMIN ch.val) (s.getF AIO_AICFG_RLOOP ch.val) (s.aiCh ch.val).y else 0) ∧
    t = { s with regs := t.regs, io := t.io } ∧ OnlyRegs s t [(AIO_AISTAT_LSOFF, ch.val), (AIO_AISTAT_LSV, ch.val)] := by
  have hix : ch.val < 65536 := by omega
  have c0 := (Chg.refl h).setF AIO_AISTAT_LSOFF 0 ch.val
  have hoff : (s.setF AIO_AISTAT_LSOFF 0 ch.val).flag AIO_AISTAT_LSOFF ch.val = false := by
    unfold State.flag
    rw [getF_setF_self _ _ _ _ h]
    rfl
  have away {f : Fld} (hf : f.off * 32 + f.lo ≠ AIO_AISTAT_LSOFF.off * 32 + AIO_AISTAT_LSOFF.lo) {ix : Nat} (hi : ix < 65536) :
      (s.setF AIO_AISTAT_LSOFF 0 ch.val).getF f ix = s.getF f ix := getF_setF_ne _ _ h (key_ne_of_place hi hix hf)
  obtain ⟨cl, ⟨r, ai, e⟩, hv, -⟩ := State.loopSet_does c0.ok ch.val
  refine ⟨_, congrArg Host.Outcome.next (if_pos hb), (cl.flag ?_).trans hoff, hv.trans ?_, by rw [e]; rfl, ((c0.trans cl).mono (by simp)).only⟩
  · intro x hx
    obtain rfl := List.mem_singleton.mp hx
    exact key_ne_of_place hix hix (show AIO_AISTAT_LSOFF.off * 32 + AIO_AISTAT_LSOFF.lo ≠ AIO_AISTAT_LSV.off * 32 + AIO_AISTAT_LSV.lo by decide)
  · unfold State.loopTarget
    rw [hoff]
    unfold State.flag
    rw [away (by decide) hix, away (by decide) hix, away (by decide) hix, away (by decide) (by decide), Bool.not_false, Bool.and_true]
    rfl

/-- One supply under the thermal limit. -/
def State.thermalSet (s : State) (n : Nat) : State :=
  (if s.flag AIO_STAT_THERMLIM && s.flag AIO_AISTAT_LSLIM n then s.setF AIO_AISTAT_LSOFF 1 n else s).loopSet n

/-- Supplies in current limit go off, the others are set. -/
theorem State.thermalSet_kept (s : State) {n : Nat} (hn : n < 65536) : Kept [AIO_AISTAT_LSOFF, AIO_AISTAT_LSV] s (s.thermalSet n) := by
  unfold State.thermalSet
  have k : Kept [AIO_AISTAT_LSOFF, AIO_AISTAT_LSV] s (if s.flag AIO_STAT_THERMLIM && s.flag AIO_AISTAT_LSLIM n then s.setF AIO_AISTAT_LSOFF 1 n else s) :=
    Kept.ite ((Kept.refl s).setF _ hn (by decide)) (Kept.refl s)
  generalize (if s.flag AIO_STAT_THERMLIM && s.flag AIO_AISTAT_LSLIM n then s.setF AIO_AISTAT_LSOFF 1 n else s) = u at *
  have frame : (u.loopSet n).now = u.now ∧ (u.loopSet n).tick = u.tick ∧ (u.loopSet n).due = u.due :=
    have l := State.loopSet_sampled u hn
    ⟨l.kept.now, l.kept.tick, l.kept.due⟩
  exact k.chg (fun r => (State.loopSet_does r n).1) (by simpa using hn) frame.1 frame.2.1 frame.2.2

/-- The temperature and what it says of the thermal limit. -/
def State.thermalSense (s : State) (temp : BitVec 8) : State :=
  let s := s.setF AIO_STAT_TEMP temp.toNat
  if temp.toInt ≥ 120 then s.setF AIO_STAT_THERMLIM 1 else if temp.toInt ≤ 110 then s.setF AIO_STAT_THERMLIM 0 else s

/-- The limit is taken at 120 °C and released at 110 °C. -/
theorem State.thermalSense_does (h : s.RegsOk) (temp : BitVec 8) :
    Kept [AIO_STAT_TEMP, AIO_STAT_THERMLIM] s (s.thermalSense temp) ∧ (s.thermalSense temp).getF AIO_STAT_TEMP = temp.toNat ∧
    (s.thermalSense temp).flag AIO_STAT_THERMLIM = if 120 ≤ temp.toInt then true else if temp.toInt ≤ 110 then false else s.flag AIO_STAT_THERMLIM := by
  unfold State.thermalSense
  have k := (Kept.refl (L := [AIO_STAT_TEMP, AIO_STAT_THERMLIM]) s).setF (g := AIO_STAT_TEMP) temp.toNat (iy := 0) (by decide) (by decide)
  have ht : (s.setF AIO_STAT_TEMP temp.toNat).getF AIO_STAT_TEMP = temp.toNat := getF_setF_fits h AIO_STAT_TEMP temp.isLt
  have hl : (s.setF AIO_STAT_TEMP temp.toNat).flag AIO_STAT_THERMLIM = s.flag AIO_STAT_THERMLIM := flag_setF_ne h (by decide)
  generalize s.setF AIO_STAT_TEMP temp.toNat = u at *
  have put (v : Nat) (hv : v < 2) : Kept [AIO_STAT_TEMP, AIO_STAT_THERMLIM] s (u.setF AIO_STAT_THERMLIM v) ∧
      (u.setF AIO_STAT_THERMLIM v).getF AIO_STAT_TEMP = temp.toNat ∧ (u.setF AIO_STAT_THERMLIM v).getF AIO_STAT_THERMLIM = v :=
    ⟨k.setF _ (by decide) (by decide), (getF_setF_ne _ _ (k.ok h) (by decide)).trans ht, getF_setF_fits (k.ok h) AIO_STAT_THERMLIM hv⟩
  by_cases h120 : 120 ≤ temp.toInt
  · obtain ⟨kp, tp, lp⟩ := put 1 (by decide)
    rw [if_pos h120, if_pos h120]
    exact ⟨kp, tp, by unfold State.flag; rw [lp]; rfl⟩
  · rw [if_neg h120, if_neg h120]
    by_cases h110 : temp.toInt ≤ 110
    · obtain ⟨kp, tp, lp⟩ := put 0 (by decide)
      rw [if_pos h110, if_pos h110]
      exact ⟨kp, tp, by unfold State.flag; rw [lp]; rfl⟩
    · rw [if_neg h110, if_neg h110]
      exact ⟨k, ht, hl⟩

/-- ANALOGUE_THERMAL_LIMIT. -/
theorem execAnalogueThermalLimit_limits (h : s.RegsOk) (temp : BitVec 8) : Gives (.analogueThermalLimit temp) s fun t => t.getF AIO_STAT_TEMP = temp.toNat ∧
    t.flag AIO_STAT_THERMLIM = (if 120 ≤ temp.toInt then true else if temp.toInt ≤ 110 then false else s.flag AIO_STAT_THERMLIM) ∧
    Kept [AIO_STAT_TEMP, AIO_STAT_THERMLIM, AIO_AISTAT_LSOFF, AIO_AISTAT_LSV] s t := by
  obtain ⟨k, ht, hl⟩ := State.thermalSense_does h temp
  have kf := Kept.foldl (Kept.refl (L := [AIO_AISTAT_LSOFF, AIO_AISTAT_LSV]) (s.thermalSense temp)) (f := fun s n => s.thermalSet n) (l := List.range 16)
    fun u n hn ku => ku.trans (State.thermalSet_kept u (by have := List.mem_range.mp hn; omega))
  refine ⟨(List.range 16).foldl (fun s n => s.thermalSet n) (s.thermalSense temp), rfl, ?_⟩
  generalize s.thermalSense temp = u at *
  exact ⟨(kf.get (k.ok h) _ 0 (by decide) (by decide)).trans ht, (kf.flag (k.ok h) (by decide) (by decide)).trans hl, (k.mono (by decide)).trans (kf.mono (by decide))⟩

/-! ### HART (R365, R366) -/

/-- A transaction that ends unanswered. -/
theorem State.hartMiss_does (h : s.RegsOk) (d : HartDef) :
    Chg s (s.hartMiss d) [(AIO_HARTSTAT_NOANS, d.ch.val), (AIO_HARTSTAT_DEVICES, d.ch.val)] ∧ (∃ r hart, s.hartMiss d = { s with regs := r, io := { s.io with hart := hart } }) ∧
    (s.hartMiss d).hartDev d.dev = { s.hartDev d.dev with miss := min ((s.hartDev d.dev).miss + 1) 3, busy := false } ∧
    (s.hartMiss d).getF AIO_HARTSTAT_NOANS d.ch.val = sat AIO_HARTSTAT_NOANS.w (s.getF AIO_HARTSTAT_NOANS d.ch.val + 1) := by
  have hix : d.ch.val < 65536 := by omega
  have dev : (s.modHart d.dev fun x => { x with miss := min (x.miss + 1) 3, busy := false }).hartDev d.dev =
      { s.hartDev d.dev with miss := min ((s.hartDev d.dev).miss + 1) 3, busy := false } := tabGet_tabSet_self _ _ _ _
  have c0 := (Chg.refl h).same (u := s.modHart d.dev fun x => { x with miss := min (x.miss + 1) 3, busy := false }) rfl
  have c1 := c0.bump AIO_HARTSTAT_NOANS d.ch.val 1
  have cnt : ((s.modHart d.dev fun x => { x with miss := min (x.miss + 1) 3, busy := false }).bump AIO_HARTSTAT_NOANS d.ch.val).getF AIO_HARTSTAT_NOANS d.ch.val =
      sat AIO_HARTSTAT_NOANS.w (s.getF AIO_HARTSTAT_NOANS d.ch.val + 1) := getF_bump_sat c0.ok _ _ _
  unfold State.hartMiss
  exact ⟨(c1.setF _ _ _).mono (by simp), ⟨_, _, rfl⟩, dev, (getF_setF_ne _ _ c1.ok (key_ne_of_place hix hix (by decide))).trans cnt⟩

/-- An answer taken. -/
theorem State.hartTake_does (h : s.RegsOk) (d : HartDef) (a : HartAns) :
    (s.hartTake d a).hartDev d.dev = ⟨0, a.malfunction, a.vars, false, true⟩ ∧ (s.hartTake d a).getF AIO_HARTSTAT_DEVSTAT d.ch.val = a.status.toNat ∧
    s.hartTake d a = { s with regs := (s.hartTake d a).regs, io := (s.hartTake d a).io } ∧
    OnlyRegs s (s.hartTake d a) [(AIO_HARTSTAT_DEVSTAT, d.ch.val), (AIO_HARTSTAT_DEVICES, d.ch.val)] := by
  have hix : d.ch.val < 65536 := by omega
  have dev : (s.modHart d.dev fun x => { x with miss := 0, malf := a.malfunction, vars := a.vars, busy := false, ever := true }).hartDev d.dev =
      ⟨0, a.malfunction, a.vars, false, true⟩ := tabGet_tabSet_self _ _ _ _
  have c0 := (Chg.refl h).same (u := s.modHart d.dev fun x => { x with miss := 0, malf := a.malfunction, vars := a.vars, busy := false, ever := true }) rfl
  have c1 := c0.setF AIO_HARTSTAT_DEVSTAT a.status.toNat d.ch.val
  unfold State.hartTake
  exact ⟨dev, (getF_setF_ne _ _ c1.ok (key_ne_of_place hix hix (by decide))).trans (getF_setF_fits c0.ok _ a.status.isLt), rfl, ((c1.setF _ _ _).mono (by simp)).only⟩

/-- HART_RESPONSE of a device in a transaction. -/
theorem execHartResponse_of_busy {dev : Nat} {d : HartDef} (hd : s.hartDef? dev = some d) (hb : (s.hartDev dev).busy = true) :
    exec (.hartResponse dev none) s = .next (s.hartMiss d) ∧
    ∀ a, exec (.hartResponse dev (some a)) s = .next (if s.flag AIO_AISTAT_LSLIM d.ch.val then s.hartMiss d else s.hartTake d a) := by
  have e (ans : Option HartAns) : exec (.hartResponse dev ans) s = execHartResponse dev ans s := rfl
  rw [e]
  unfold execHartResponse
  rw [hd]
  dsimp only
  rw [hb]
  refine ⟨rfl, fun a => ?_⟩
  rw [e]
  unfold execHartResponse
  rw [hd]
  dsimp only
  rw [hb]
  rfl

/-- HART_RESPONSE of a device that is not configured, or in no transaction. -/
theorem execHartResponse_idle {dev : Nat} (ans : Option HartAns) (hd : ∀ d, s.hartDef? dev = some d → (s.hartDev dev).busy = false) :
    exec (.hartResponse dev ans) s = .next s := by
  show execHartResponse dev ans s = _
  unfold execHartResponse
  cases hs : s.hartDef? dev with
  | none => rfl
  | some d => dsimp only; rw [hd d hs]; rfl

/-- HART_BURST_FRAME of a device whose input has HART. -/
theorem execHartBurstFrame_takes {ch : Fin 4} {d : HartDef} (a : HartAns) (hd : s.cfg.harts.find? (fun d => d.ch.val = ch.val) = some d)
    (hon : s.flag AIO_AICFG_HART ch.val = true) : exec (.hartBurstFrame ch a) s = .next (s.hartTake d a) := by
  show execHartBurstFrame ch a s = _
  unfold execHartBurstFrame
  rw [hd]
  exact congrArg Host.Outcome.next (if_pos hon)

/-- HART_BURST_FRAME elsewhere. -/
theorem execHartBurstFrame_idle {ch : Fin 4} (a : HartAns) (hno : s.cfg.harts.find? (fun d => d.ch.val = ch.val) = none ∨ s.flag AIO_AICFG_HART ch.val = false) :
    exec (.hartBurstFrame ch a) s = .next s := by
  show execHartBurstFrame ch a s = _
  unfold execHartBurstFrame
  cases hd : s.cfg.harts.find? (fun d => d.ch.val = ch.val) with
  | none => rfl
  | some d =>
    rw [hd] at hno
    exact congrArg Host.Outcome.next (if_neg (by simpa using hno))

/-- What a device that misses its transaction leaves, as its command gives it. -/
theorem State.hartMiss_gives (h : s.RegsOk) (d : HartDef) :
    (s.hartMiss d).hartDev d.dev = { s.hartDev d.dev with miss := min ((s.hartDev d.dev).miss + 1) 3, busy := false } ∧
    (s.hartMiss d).getF AIO_HARTSTAT_NOANS d.ch.val = sat AIO_HARTSTAT_NOANS.w (s.getF AIO_HARTSTAT_NOANS d.ch.val + 1) ∧
    s.hartMiss d = { s with regs := (s.hartMiss d).regs, io := (s.hartMiss d).io } ∧
    OnlyRegs s (s.hartMiss d) [(AIO_HARTSTAT_NOANS, d.ch.val), (AIO_HARTSTAT_DEVICES, d.ch.val)] := by
  obtain ⟨c, ⟨r, hart, e⟩, hdev, hcnt⟩ := State.hartMiss_does h d
  exact ⟨hdev, hcnt, by rw [e], c.only⟩

/-- HART_POLL of a device that is not configured. -/
theorem execHartPoll_none {dev : Nat} (hd : s.hartDef? dev = none) : exec (.hartPoll dev) s = .next s := by
  show execHartPoll dev s = _
  unfold execHartPoll
  rw [hd]

/-- HART_POLL of a device: taken where its input has HART and its modem is idle. -/
theorem execHartPoll_some {dev : Nat} {d : HartDef} (hd : s.hartDef? dev = some d) :
    exec (.hartPoll dev) s = .next (if s.flag AIO_AICFG_HART d.ch.val && !s.modemBusy (modemOf d.ch.val) then
      (s.modHart dev (fun h => { h with busy := true })).emit .lines 1 [d.ch.val, d.addr, if d.cmd9 then 9 else 3] else s) := by
  show execHartPoll dev s = _
  unfold execHartPoll
  rw [hd]

/-! ### A supply in current limit (R362, R378) -/

/-- A transaction that ends unanswered, among the registers of HART. -/
theorem State.hartMiss_kept (s : State) (d : HartDef) : Kept [AIO_HARTSTAT_NOANS, AIO_HARTSTAT_DEVICES] s (s.hartMiss d) := by
  have hix : d.ch.val < 65536 := by omega
  exact (Kept.refl s).chg (fun r => (State.hartMiss_does r d).1) (by simpa using hix) rfl rfl rfl

/-- The transactions on an input are abandoned. -/
def State.abandonHart (s : State) (ch : Fin 16) : State :=
  s.cfg.harts.foldl (fun s d => if d.ch = ch && (s.hartDev d.dev).busy then s.hartMiss d else s) s

/-- Abandoning transactions leaves the inputs as they stand. -/
theorem State.abandonHart_does (s : State) (ch : Fin 16) :
    Kept [AIO_HARTSTAT_NOANS, AIO_HARTSTAT_DEVICES] s (s.abandonHart ch) ∧ (s.abandonHart ch).io.ai = s.io.ai := by
  unfold State.abandonHart
  generalize s.cfg.harts = l
  induction l generalizing s with
  | nil => exact ⟨Kept.refl s, rfl⟩
  | cons d l ih =>
    rw [List.foldl_cons]
    split
    · obtain ⟨k, e⟩ := ih (s := s.hartMiss d)
      exact ⟨(State.hartMiss_kept s d).trans k, e⟩
    · exact ih s

/-- A supply switched off. -/
theorem State.loopOff_does (h : s.RegsOk) {n : Nat} (hn : n < 65536) :
    let t := ((s.setF AIO_AISTAT_LSOFF 1 n).setF AIO_AISTAT_LSLIM 0 n).loopSet n
    t.RegsOk ∧ t.flag AIO_AISTAT_LSOFF n = true ∧ t.flag AIO_AISTAT_LSLIM n = false ∧ t.getF AIO_AISTAT_LSV n = 0 ∧ (t.aiCh n).vls = 0 := by
  have ok := regs_setF_rising s AIO_AISTAT_LSOFF 1 n h
  have hoff : ((s.setF AIO_AISTAT_LSOFF 1 n).setF AIO_AISTAT_LSLIM 0 n).getF AIO_AISTAT_LSOFF n = 1 :=
    (getF_setF_ne _ _ ok (key_ne_of_place hn hn (by decide))).trans (getF_setF_fits h _ (by decide))
  have hlim : ((s.setF AIO_AISTAT_LSOFF 1 n).setF AIO_AISTAT_LSLIM 0 n).getF AIO_AISTAT_LSLIM n = 0 := getF_setF_fits ok _ (by decide)
  have ok2 := regs_setF_rising (s.setF AIO_AISTAT_LSOFF 1 n) AIO_AISTAT_LSLIM 0 n ok
  generalize (s.setF AIO_AISTAT_LSOFF 1 n).setF AIO_AISTAT_LSLIM 0 n = u at *
  have htarget : u.loopTarget n = 0 := by
    unfold State.loopTarget State.flag
    rw [hoff]
    exact if_neg (by simp)
  obtain ⟨c, -, hvls, hlsv⟩ := State.loopSet_does ok2 n
  have away {f : Fld} (hf : f.off * 32 + f.lo ≠ AIO_AISTAT_LSV.off * 32 + AIO_AISTAT_LSV.lo) : (u.loopSet n).getF f n = u.getF f n :=
    c.only f n (by simpa using key_ne_of_place hn hn hf)
  refine ⟨c.ok, ?_, ?_, hlsv htarget, hvls.trans htarget⟩
  · unfold State.flag; rw [away (by decide), hoff]; rfl
  · unfold State.flag; rw [away (by decide), hlim]; rfl

/-- LOOP_SUPPLY_OFF of a supply in current limit. -/
theorem execLoopSupplyOff_off (h : s.RegsOk) (ch : Fin 16) (hl : (s.flag AIO_AISTAT_LSLIM ch.val && !s.flag AIO_AISTAT_LSOFF ch.val) = true) :
    Gives (.loopSupplyOff ch) s fun t => t.flag AIO_AISTAT_LSOFF ch.val = true ∧ t.flag AIO_AISTAT_LSLIM ch.val = false ∧ t.getF AIO_AISTAT_LSV ch.val = 0 ∧
      (t.aiCh ch.val).vls = 0 := by
  have hn : ch.val < 65536 := by omega
  obtain ⟨ok, hoff, hlim, hlsv, hvls⟩ := State.loopOff_does h hn
  refine ⟨(((s.setF AIO_AISTAT_LSOFF 1 ch.val).setF AIO_AISTAT_LSLIM 0 ch.val).loopSet ch.val).abandonHart ch, congrArg Host.Outcome.next (if_pos hl), ?_⟩
  generalize ((s.setF AIO_AISTAT_LSOFF 1 ch.val).setF AIO_AISTAT_LSLIM 0 ch.val).loopSet ch.val = u at *
  obtain ⟨k, hai⟩ := State.abandonHart_does u ch
  refine ⟨(k.flag ok hn (by decide)).trans hoff, (k.flag ok hn (by decide)).trans hlim, (k.get ok _ _ hn (by decide)).trans hlsv, ?_⟩
  unfold State.aiCh at *
  rw [hai]
  exact hvls

/-! ### The readback (R369) -/

/-- An output commanded anew: only its current, and a free value where the manual gives none. -/
theorem State.aoTarget_frame (s : State) (n : Nat) : ∃ ao k, s.aoTarget n = { s with fresh := k, io := { s.io with ao := ao } } := by
  have drive (u : State) (c : Int × Nat) : ∃ ao, u.aoDrive n c = { u with io := { u.io with ao := ao } } := by
    unfold State.aoDrive
    dsimp only
    split
    · exact ⟨_, rfl⟩
    · exact ⟨_, rfl⟩
  have put (c : Int × Nat) : ∃ ao k, s.aoDrive n c = { s with fresh := k, io := { s.io with ao := ao } } := by
    obtain ⟨ao, e⟩ := drive s c
    exact ⟨ao, _, e⟩
  unfold State.aoTarget
  split
  · exact put _
  · split
    · exact ⟨_, _, rfl⟩
    · split
      · exact put _
      · obtain ⟨ao, e⟩ := drive s.free.2 ((s.free.1 % 262144 : Nat), 1)
        exact ⟨ao, _, e⟩

/-- RBFAIL_CLEAR on an analogue output. -/
theorem execRbfailClear_clears (h : s.RegsOk) (hr : s.Runs) {p : Path} (h16 : 16 ≤ s.getF AIO_CHSEL_CH p.code) (h24 : s.getF AIO_CHSEL_CH p.code < 24) :
    Gives (.rbfailClear p) s fun t => t.flag AIO_AOSTAT_RBFAIL (s.getF AIO_CHSEL_CH p.code) = false ∧ OnlyRegsW 14 s t [(AIO_AOSTAT_RBFAIL, s.getF AIO_CHSEL_CH p.code)] ∧ t.now = s.now := by
  generalize hn : s.getF AIO_CHSEL_CH p.code = n at *
  have hsel : s.aside.selIx p .aio = n :=
    (getF_aside h AIO_CHSEL_CH (key_ne_of_place (Path.code_lt p) (by decide) (by decide))).trans hn
  have c0 := (Chg.refl (Chg.aside h).ok).setF AIO_AOSTAT_RBFAIL 0 n
  obtain ⟨ao, k, e⟩ := State.aoTarget_frame (s.aside.setF AIO_AOSTAT_RBFAIL 0 n) (n - 16)
  have taken : s.aside.cmdRbfailClear p = { s.aside.setF AIO_AOSTAT_RBFAIL 0 n with fresh := k, io := { s.io with ao := ao } } := by
    unfold State.cmdRbfailClear
    rw [hsel]
    dsimp only
    rw [if_pos (by simp [h16, h24]), e]
    rfl
  have clear : (s.aside.setF AIO_AOSTAT_RBFAIL 0 n).getF AIO_AOSTAT_RBFAIL n = 0 := getF_setF_fits (Chg.aside h).ok _ (by decide)
  obtain ⟨ew, only, away⟩ := State.written_does (p := p) (off := 0xE0020) (f := fun s => s.cmdRbfailClear p) hr h taken (c0.same rfl)
    (by show s.kerb.phase ≠ _; rw [show s.kerb.phase = .run from hr]; decide)
  refine ⟨_, rfl, ?_, only, (congrArg State.now ew :)⟩
  unfold State.flag
  exact congrArg (fun v => decide (v ≠ 0)) ((away AIO_AOSTAT_RBFAIL n (book_ne (by omega) (by decide))).trans clear)

/-- RBFAIL_CLEAR elsewhere. -/
theorem execRbfailClear_none (h : s.RegsOk) (hr : s.Runs) {p : Path} (hn : ¬ (16 ≤ s.getF AIO_CHSEL_CH p.code ∧ s.getF AIO_CHSEL_CH p.code < 24)) :
    Gives (.rbfailClear p) s fun t => t = { s with regs := t.regs } ∧ OnlyRegsW 14 s t [] := by
  have taken : s.aside.cmdRbfailClear p = s.aside := by
    unfold State.cmdRbfailClear
    rw [show s.aside.selIx p .aio = s.getF AIO_CHSEL_CH p.code from getF_aside h AIO_CHSEL_CH (key_ne_of_place (Path.code_lt p) (by decide) (by decide))]
    exact if_neg (by simpa using hn)
  exact ⟨_, rfl, State.written_plain (p := p) (off := 0xE0020) (f := fun s => s.cmdRbfailClear p) (u := s.aside) hr h taken rfl
    (by show s.kerb.phase ≠ _; rw [show s.kerb.phase = .run from hr]; decide)⟩

end

/-- Settles O53: the converter, the loop supplies, HART and the outputs' readback, command by command. -/
theorem analogueChannels : Obligations.AnalogueChannels := by
  unfold Obligations.AnalogueChannels
  intro s h
  refine ⟨fun code urg tm => ⟨fun hn => ?_, execAdcEntryComplete_last h code urg tm⟩, fun ch codes tm => ?_, fun p src ovs hr => execAdcUrgentGo_asks h hr p src ovs,
    fun a b => ⟨fun hu => ⟨s, congrArg Host.Outcome.next (if_pos (by simpa using hu)), rfl⟩, fun hu => ?_⟩,
    fun ch => ⟨fun hl => ⟨s, congrArg Host.Outcome.next (if_neg (by rw [hl]; decide)), rfl⟩, execLoopSupplyOff_off h ch⟩,
    fun ch ok => ⟨fun hb => ⟨s, congrArg Host.Outcome.next (if_neg (by rw [hb]; decide)), rfl⟩, execLoopSupplyRetry_on h ch⟩, fun temp => ?_,
    fun dev => ⟨fun hd => ⟨s, execHartPoll_none hd, rfl⟩, fun d hd => ⟨fun hm => ⟨s, (execHartPoll_some hd).trans (congrArg Host.Outcome.next (if_neg (by rw [hm]; decide))), rfl⟩,
      fun hm => ⟨_, (execHartPoll_some hd).trans (congrArg Host.Outcome.next (if_pos hm)), tabGet_tabSet_self _ _ _ _, rfl, rfl⟩⟩⟩,
    fun dev ans => ⟨fun hd => ⟨s, execHartResponse_idle ans (by simp [hd]), rfl⟩, fun d hd hb => ⟨s, execHartResponse_idle ans fun _ _ => hb, rfl⟩,
      fun d hd hb hno => ⟨s.hartMiss d, ?_, State.hartMiss_gives h d⟩, fun d a hd hb ha hlim => ⟨s.hartTake d a, ?_, State.hartTake_does h d a⟩⟩,
    fun smp => ?_, fun p hr => ⟨execRbfailClear_clears h hr, execRbfailClear_none h hr⟩, fun ok => ⟨_, rfl, rfl⟩,
    fun m ok => ⟨fun hb => ⟨s, congrArg Host.Outcome.next (if_pos hb), rfl⟩, fun hb => ⟨_, congrArg Host.Outcome.next (if_neg (by rw [hb]; decide)), rfl⟩⟩,
    fun ch a => ⟨fun hno => ⟨s, execHartBurstFrame_idle a hno, rfl⟩, fun d hd hon => ⟨s.hartTake d a, execHartBurstFrame_takes a hd hon, State.hartTake_does h d a⟩⟩⟩
  · obtain ⟨t, e, hentry, hurg, hpend, hcode, k⟩ := execAdcEntryComplete_next h code urg tm hn
    exact ⟨t, e, hentry, hurg, hpend, hcode, k.now, k.due, k.get h⟩
  · obtain ⟨t, e, hurg, hpend, k⟩ := execUrgentRequest_serves h ch codes tm
    exact ⟨t, e, hurg, hpend, k.now, k.get h⟩
  · obtain ⟨t, e, hfails, hcnt, hurg, k⟩ := execAdcSelfTestStep_tests h a b hu
    exact ⟨t, e, hfails, hcnt, hurg, k.get h⟩
  · obtain ⟨t, e, htemp, hlim, k⟩ := execAnalogueThermalLimit_limits h temp
    exact ⟨t, e, htemp, hlim, k.now, k.get h⟩
  · cases ans with
    | none => exact (execHartResponse_of_busy hd hb).1
    | some a =>
      rcases hno with e | hlim
      · exact absurd e (by simp)
      · exact ((execHartResponse_of_busy hd hb).2 a).trans (congrArg Host.Outcome.next (if_pos hlim))
  · rw [ha]
    exact ((execHartResponse_of_busy hd hb).2 a).trans (congrArg Host.Outcome.next (if_neg (by rw [hlim]; decide)))
  · obtain ⟨k, hcur, -⟩ := State.readbackAll_does smp 0 h
    exact ⟨_, rfl, k.now, fun n x hn hx => by simpa using hcur n x (by omega) hx, k.get h⟩

end Sys2Proof.Machine
end

section
/-! PROOFS. The CAN ports (14, R382 to R391). -/
namespace Sys2Proof.Machine

/-- A register that stands elsewhere than the fields changed reads as before. -/
theorem Chg.reads {s t : State} {l : List (Fld × Nat)} (c : Chg s t l) {L : List Fld} (hl : ∀ x ∈ l, x.1 ∈ L ∧ x.2 < 65536) {f : Fld} {ix : Nat} (hix : ix < 65536)
    (hf : ∀ g ∈ L, f.off * 32 + f.lo ≠ g.off * 32 + g.lo) : t.getF f ix = s.getF f ix :=
  c.only f ix fun x hx => key_ne_of_place hix (hl x hx).2 (hf x.1 (hl x hx).1)

/-- What shows the error state of a port. -/
abbrev canErrFlds : List Fld := [CAN_ERRSTAT_TEC, CAN_ERRSTAT_REC, CAN_ERRSTAT_STATE]

/-- What a write by the image mover and a port that goes bus-off show. -/
abbrev canOffFlds : List Fld := canErrFlds ++ (latchFields ++ reportFields).map Prod.fst

section
variable {s : State} {p : Nat}

/-- A port changed stands as the change makes it. -/
theorem State.canPort_modCan (s : State) (p : Nat) (f : CanPort → CanPort) : (s.modCan p f).canPort p = f (s.canPort p) := tabGet_tabSet_self _ _ _ _

/-- A port stands as before where the ports do. -/
theorem State.canPort_congr {t : State} (h : t.can = s.can) (p : Nat) : t.canPort p = s.canPort p := by
  unfold State.canPort
  rw [h]

/-! ### Reception (R382, R387) -/

/-- The values of a frame, and the activation of an event task. -/
def State.canFeed (s : State) (port : Fin 8) (f : CanFrame) : Option CanRxMap → State
  | none => s
  | some m => (State.modCan { s with io := { s.io with inbox := m.fields.foldl (fun t (x : CanField) => tabSet t x.sig (canGet x f.data, 0)) s.io.inbox } } port.val
      (fun c => { c with rx := tabSet c.rx m.no f.eof })).trigger (.can s.seatB port m.no) f.eof

/-- The mapping's values and the time of its frame, and nothing else but what is scheduled. -/
theorem State.canFeed_does (s : State) (port : Fin 8) (f : CanFrame) (m : Option CanRxMap) :
    (s.canFeed port f m).canPort port.val = { s.canPort port.val with rx := m.elim (s.canPort port.val).rx fun m => tabSet (s.canPort port.val).rx m.no f.eof } ∧
    (s.canFeed port f m).io = m.elim s.io (fun m => { s.io with inbox := m.fields.foldl (fun t (x : CanField) => tabSet t x.sig (canGet x f.data, 0)) s.io.inbox }) ∧
    (s.canFeed port f m).regs = s.regs ∧ (s.canFeed port f m).now = s.now ∧ (s.canFeed port f m).out = s.out := by
  cases m with
  | none => exact ⟨rfl, rfl, rfl, rfl, rfl⟩
  | some m =>
    unfold State.canFeed
    dsimp only
    generalize hw : State.modCan { s with io := { s.io with inbox := m.fields.foldl (fun t (x : CanField) => tabSet t x.sig (canGet x f.data, 0)) s.io.inbox } } port.val
      (fun c => { c with rx := tabSet c.rx m.no f.eof }) = w
    obtain ⟨sc, e⟩ := State.trigger_frame w (.can s.seatB port m.no) f.eof
    rw [e]
    subst hw
    exact ⟨tabGet_tabSet_self _ _ _ _, rfl, rfl, rfl, rfl⟩

/-- The mapping of lowest number that takes a frame. -/
abbrev State.canMap (s : State) (port : Fin 8) (f : CanFrame) : Option CanRxMap :=
  (isort (fun (a b : CanRxMap) => decide (a.no < b.no)) (s.cfg.canRx.filter (fun m => m.port = port && m.seat = s.seatB && canTakes m f))).head?

/-- CAN_FRAME_RECEIVE as counting, showing the error state, feeding and the ring. -/
theorem execCanFrameReceive_eq {port : Fin 8} {f : CanFrame} (hon : (s.canOn port.val && !(f.fdf && !s.flag CAN_PORTCFG_FDEN port.val)) = true) {u : State}
    (hu : (s.modCan port.val fun c => { c with rxN := (c.rxN + 1) % 2 ^ 32, rec_ := if s.getF CAN_PORTCFG_MODE port.val = 2 then c.rec_ else min (c.rec_ - 1) 127 }).canState port.val = u) :
    exec (.canFrameReceive port f) s = .next ((u.canFeed port f (u.canMap port f)).canRing port.val f) := by
  show execCanFrameReceive port f s = _
  unfold execCanFrameReceive
  dsimp only
  obtain ⟨hc, hf⟩ := Bool.and_eq_true_iff.mp hon
  rw [hc, (Bool.not_eq_true' _).mp hf, if_neg (by decide), hu]
  unfold State.canMap
  cases isort (fun (a b : CanRxMap) => decide (a.no < b.no)) (u.cfg.canRx.filter (fun m => m.port = port && m.seat = u.seatB && canTakes m f)) with
  | nil => rfl
  | cons m l => rfl

/-- CAN_FRAME_RECEIVE of a port that is off or bus-off, or of an FD frame where FDEN is clear. -/
theorem execCanFrameReceive_none {port : Fin 8} {f : CanFrame} (hon : (s.canOn port.val && !(f.fdf && !s.flag CAN_PORTCFG_FDEN port.val)) = false) :
    exec (.canFrameReceive port f) s = .next s := by
  refine congrArg Host.Outcome.next (if_pos ?_)
  rcases Bool.and_eq_false_iff.mp hon with e | e
  · rw [e]; rfl
  · rw [(Bool.not_eq_false' _).mp e, Bool.or_true]

/-- CAN_FRAME_RECEIVE of a port that stays on the bus. -/
theorem execCanFrameReceive_takes (h : s.RegsOk) {port : Fin 8} {f : CanFrame} (hon : (s.canOn port.val && !(f.fdf && !s.flag CAN_PORTCFG_FDEN port.val)) = true)
    (ht : (s.canPort port.val).tec ≤ 255) {rc : Nat}
    (hrc : (if s.getF CAN_PORTCFG_MODE port.val = 2 then (s.canPort port.val).rec_ else min ((s.canPort port.val).rec_ - 1) 127) = rc) :
    Gives (.canFrameReceive port f) s fun t =>
      (∃ hd sq, t.canPort port.val = { s.canPort port.val with rxN := ((s.canPort port.val).rxN + 1) % 2 ^ 32, rec_ := rc, rx := (s.canMap port f).elim (s.canPort port.val).rx (fun m => tabSet (s.canPort port.val).rx m.no f.eof), head := hd, seq := sq }) ∧
      t.io = (s.canMap port f).elim s.io (fun m => { s.io with inbox := m.fields.foldl (fun t (x : CanField) => tabSet t x.sig (canGet x f.data, 0)) s.io.inbox }) ∧
      t.getF CAN_ERRSTAT_STATE port.val = (if 127 < (s.canPort port.val).tec ∨ 127 < rc then 1 else 0) ∧ t.now = s.now ∧ t.out = s.out := by
  have hp : port.val < 65536 := by omega
  refine ⟨_, execCanFrameReceive_eq hon rfl, ?_⟩
  generalize hw : (s.modCan port.val fun c => { c with rxN := (c.rxN + 1) % 2 ^ 32, rec_ := if s.getF CAN_PORTCFG_MODE port.val = 2 then c.rec_ else min (c.rec_ - 1) 127 }) = w
  have hport : w.canPort port.val = { s.canPort port.val with rxN := ((s.canPort port.val).rxN + 1) % 2 ^ 32, rec_ := rc } := by
    rw [← hw, State.canPort_modCan, hrc]
  have okw : w.RegsOk := by rw [← hw]; exact h
  obtain ⟨hstate, cs, r, a, e⟩ := State.canState_does okw hp (by rw [hport]; exact ht)
  rw [hport] at hstate
  have ex : (w.canState port.val) = { s with regs := r, arc := a, can := w.can } := by rw [e, ← hw]; rfl
  have hcan : (w.canState port.val).canPort port.val = w.canPort port.val := State.canPort_congr (by rw [e]) _
  have same {g : Fld} (hg : ∀ f ∈ canErrFlds, g.off * 32 + g.lo ≠ f.off * 32 + f.lo) : (w.canState port.val).getF g = s.getF g :=
    (cs.reads (L := canErrFlds) (by simpa using hp) (by decide) hg).trans (by rw [← hw]; rfl)
  generalize w.canState port.val = u at *
  have hmap : u.canMap port f = s.canMap port f := by
    unfold State.canMap
    rw [State.cfg_same (s := s) (u := u) (by rw [ex]) (same (by decide)), State.seatB_congr (same (by decide))]
  obtain ⟨fport, fio, fregs, fnow, fout⟩ := u.canFeed_does port f (u.canMap port f)
  rw [hmap] at fport fio fregs fnow fout ⊢
  have okf : (u.canFeed port f (s.canMap port f)).RegsOk := by show tabRising _ = true; rw [fregs]; exact cs.ok
  obtain ⟨cr, ⟨hd, sq, rport⟩, r2, q2, a2, c2, e2⟩ := State.canRing_does okf port.val f
  refine ⟨⟨hd, sq, ?_⟩, ?_, ?_, ?_, ?_⟩
  · rw [rport, fport, hcan, hport]
  · rw [e2]; show (u.canFeed port f _).io = _; rw [fio, ex]
  · rw [cr.reads (L := CAN_CNT_RXLOST :: latchFields.map Prod.fst) (by simp [latchFields, hp]) hp (by decide), getF_same fregs]
    exact hstate
  · rw [e2]; show (u.canFeed port f _).now = _; rw [fnow, ex]
  · rw [e2]; show (u.canFeed port f _).out = _; rw [fout, ex]

/-! ### Transmission (R385) -/

/-- The frame sent is counted and the error state shown: the port, and all but registers and the Arcade as before. -/
theorem State.canSent_does (h : s.RegsOk) (hp : p < 65536) (ht : (s.canPort p).tec ≤ 255) :
    let u := (s.modCan p fun c => { c with txN := (c.txN + 1) % 2 ^ 32, tec := c.tec - 1 }).canState p
    u.canPort p = { s.canPort p with txN := ((s.canPort p).txN + 1) % 2 ^ 32, tec := (s.canPort p).tec - 1 } ∧ u.RegsOk ∧ u.out = s.out ∧ u.now = s.now := by
  dsimp only
  have hport : (s.modCan p fun c => { c with txN := (c.txN + 1) % 2 ^ 32, tec := c.tec - 1 }).canPort p =
      { s.canPort p with txN := ((s.canPort p).txN + 1) % 2 ^ 32, tec := (s.canPort p).tec - 1 } := State.canPort_modCan _ _ _
  obtain ⟨-, c, r, a, e⟩ := State.canState_does (s := s.modCan p fun c => { c with txN := (c.txN + 1) % 2 ^ 32, tec := c.tec - 1 }) h hp
    (by rw [hport]; show (s.canPort p).tec - 1 ≤ 255; omega)
  exact ⟨(State.canPort_congr (by rw [e]) p).trans hport, c.ok, by rw [e]; rfl, by rw [e]; rfl⟩

/-- CAN_FRAME_TRANSMITTED with nothing offered. -/
theorem execCanFrameTransmitted_none {port : Fin 8} {tm : Nat} (hno : s.canSends port.val = false ∨ (s.canPort port.val).offered = none) :
    exec (.canFrameTransmitted port tm) s = .next s := by
  show execCanFrameTransmitted port tm s = _
  unfold execCanFrameTransmitted
  dsimp only
  cases hs : s.canSends port.val with
  | false => rfl
  | true =>
    rw [hs] at hno
    rw [hno.resolve_left (by decide)]
    rfl

/-- CAN_FRAME_TRANSMITTED of a slot's frame. -/
theorem execCanFrameTransmitted_slot (h : s.RegsOk) {port : Fin 8} {tm n : Nat} (hs : s.canSends port.val = true) (ho : (s.canPort port.val).offered = some (.slot n))
    (ht : (s.canPort port.val).tec ≤ 255) {x : Nat × Nat × List Byte} (hx : ((tabGet CanSlot.reset (s.canPort port.val).slots n).content).getD (0, 0, []) = x) :
    Gives (.canFrameTransmitted port tm) s fun t =>
      t.canPort port.val = CanPort.slotEnd { s.canPort port.val with txN := ((s.canPort port.val).txN + 1) % 2 ^ 32, tec := (s.canPort port.val).tec - 1 } n ∧
      t.out = s.out ++ [⟨.canBus, port.val, [x.1, x.2.1], x.2.2⟩] ∧ t.now = s.now := by
  obtain ⟨hport, -, hout, hnow⟩ := State.canSent_does h (p := port.val) (by omega) ht
  have e : exec (.canFrameTransmitted port tm) s = .next
      (let u := (s.modCan port.val fun c => { c with txN := (c.txN + 1) % 2 ^ 32, tec := c.tec - 1 }).canState port.val
       let x := ((tabGet CanSlot.reset (u.canPort port.val).slots n).content).getD (0, 0, [])
       (u.modCan port.val (fun c => c.slotEnd n)).emit .canBus port.val [x.1, x.2.1] x.2.2) := by
    show execCanFrameTransmitted port tm s = _
    unfold execCanFrameTransmitted
    dsimp only
    rw [hs, ho]
    rfl
  refine ⟨_, e, ?_⟩
  dsimp only at *
  generalize (s.modCan port.val fun c => { c with txN := (c.txN + 1) % 2 ^ 32, tec := c.tec - 1 }).canState port.val = u at *
  rw [hport, hx]
  refine ⟨(tabGet_tabSet_self _ _ _ _).trans (congrArg (CanPort.slotEnd · n) hport), ?_, hnow⟩
  rw [← hout]
  rfl

/-- CAN_FRAME_TRANSMITTED of a queue entry. -/
theorem execCanFrameTransmitted_queue (h : s.RegsOk) {port : Fin 8} {tm : Nat} {q : CanQEnt} (hs : s.canSends port.val = true)
    (ho : (s.canPort port.val).offered = some (.queue q)) (ht : (s.canPort port.val).tec ≤ 255) : Gives (.canFrameTransmitted port tm) s fun t =>
      t.canPort port.val = { s.canPort port.val with txN := ((s.canPort port.val).txN + 1) % 2 ^ 32, tec := (s.canPort port.val).tec - 1, queue := (s.canPort port.val).queue.filter (fun y => y.entry ≠ q.entry) } ∧
      t.out = s.out ++ [⟨.canBus, port.val, [q.id, q.flags], q.data⟩] ∧ t.now = s.now := by
  obtain ⟨hport, ok, hout, hnow⟩ := State.canSent_does h (p := port.val) (by omega) ht
  have e : exec (.canFrameTransmitted port tm) s = .next
      (let u := ((s.modCan port.val fun c => { c with txN := (c.txN + 1) % 2 ^ 32, tec := c.tec - 1 }).canState port.val).modCan port.val
        (fun c => { c with queue := c.queue.filter (fun y => y.entry ≠ q.entry) })
       (u.txResult u.seatB port.val q.entry 0 (some tm)).emit .canBus port.val [q.id, q.flags] q.data) := by
    show execCanFrameTransmitted port tm s = _
    unfold execCanFrameTransmitted
    dsimp only
    rw [hs, ho]
    rfl
  refine ⟨_, e, ?_⟩
  dsimp only at *
  generalize (s.modCan port.val fun c => { c with txN := (c.txN + 1) % 2 ^ 32, tec := c.tec - 1 }).canState port.val = u at *
  have hv := State.canPort_modCan u port.val (fun c => { c with queue := c.queue.filter (fun y => y.entry ≠ q.entry) })
  have okv : (u.modCan port.val fun c => { c with queue := c.queue.filter (fun y => y.entry ≠ q.entry) }).RegsOk := ok
  have fv : (u.modCan port.val fun c => { c with queue := c.queue.filter (fun y => y.entry ≠ q.entry) }).out = s.out ∧
    (u.modCan port.val fun c => { c with queue := c.queue.filter (fun y => y.entry ≠ q.entry) }).now = s.now := ⟨hout, hnow⟩
  generalize (u.modCan port.val fun c => { c with queue := c.queue.filter (fun y => y.entry ≠ q.entry) }) = v at *
  obtain ⟨-, r, q', p', er⟩ := State.txResult_does okv v.seatB port.val q.entry 0 (some tm)
  rw [er]
  refine ⟨hv.trans (by rw [hport]), ?_, fv.2⟩
  rw [← fv.1]
  rfl

/-! ### Errors (R389 to R391) -/

/-- A port on the bus is not bus-off. -/
theorem canOn_state (hon : s.canOn p = true) : s.getF CAN_ERRSTAT_STATE p ≠ 2 := by
  unfold State.canOn at hon
  simpa using (Bool.and_eq_true_iff.mp hon).2

/-- Whether a port is on the bus is told by its mode and its error state. -/
theorem canSends_congr {t : State} (hm : t.getF CAN_PORTCFG_MODE p = s.getF CAN_PORTCFG_MODE p) (hs : t.getF CAN_ERRSTAT_STATE p = s.getF CAN_ERRSTAT_STATE p) :
    t.canSends p = s.canSends p := by
  unfold State.canSends State.canOn
  rw [hm, hs]

/-- CAN_ERROR of an error of the bus: the counters it gives, and the error state that follows. -/
def State.canErred (s : State) (p code tec rec_ : Nat) : State :=
  ((s.setF CAN_ERRSTAT_LEC code p).modCan p (fun c => { c with tec := tec, rec_ := rec_ })).canState p

/-- The error state that follows the counters. -/
theorem State.canErred_does (h : s.RegsOk) (hp : p < 65536) (hst : s.getF CAN_ERRSTAT_STATE p ≠ 2) {code : Nat} (hc : code < 8) (te re : Nat) :
    let t := s.canErred p code te re
    t.getF CAN_ERRSTAT_LEC p = code ∧ (t.canPort p).tec = te ∧ (t.canPort p).rec_ = re ∧
    t.getF CAN_ERRSTAT_STATE p = (if 255 < te then 2 else if 127 < te ∨ 127 < re then 1 else 0) ∧
    (255 < te → (t.canPort p).queue = [] ∧ (t.canPort p).waiting = s.flag CAN_PORTCFG_BOFFREC p) ∧ t.getF CAN_PORTCFG_ONESHOT p = s.getF CAN_PORTCFG_ONESHOT p := by
  dsimp only
  have c0 := ((Chg.refl h).setF CAN_ERRSTAT_LEC code p).same (u := (s.setF CAN_ERRSTAT_LEC code p).modCan p (fun c => { c with tec := te, rec_ := re })) rfl
  have hlec : ((s.setF CAN_ERRSTAT_LEC code p).modCan p (fun c => { c with tec := te, rec_ := re })).getF CAN_ERRSTAT_LEC p = code :=
    getF_setF_fits h CAN_ERRSTAT_LEC hc
  have hport := State.canPort_modCan (s.setF CAN_ERRSTAT_LEC code p) p (fun c => { c with tec := te, rec_ := re })
  unfold State.canErred
  generalize (s.setF CAN_ERRSTAT_LEC code p).modCan p (fun c => { c with tec := te, rec_ := re }) = u at *
  have same {g : Fld} (hg : g.off * 32 + g.lo ≠ CAN_ERRSTAT_LEC.off * 32 + CAN_ERRSTAT_LEC.lo) : u.getF g p = s.getF g p :=
    c0.reads (L := [CAN_ERRSTAT_LEC]) (by simpa using hp) hp (by simpa using hg)
  have htec : (u.canPort p).tec = te := by rw [hport]
  have hrec : (u.canPort p).rec_ = re := by rw [hport]
  by_cases hoff : 255 < te
  · obtain ⟨hs2, hq, hw, ht, hr, c⟩ := State.canState_off c0.ok hp (by rw [htec]; exact hoff) (by rw [same (by decide)]; exact hst)
    have away {g : Fld} (hg : ∀ f ∈ canOffFlds, g.off * 32 + g.lo ≠ f.off * 32 + f.lo) : (u.canState p).getF g p = u.getF g p :=
      c.reads (L := canOffFlds) (by simp [latchFields, reportFields, hp]) hp hg
    rw [if_pos hoff]
    refine ⟨(away (by decide)).trans hlec, ht.trans htec, hr.trans hrec, hs2, fun _ => ⟨hq, ?_⟩, (away (by decide)).trans (same (by decide))⟩
    rw [hw]
    unfold State.flag
    rw [same (by decide)]
  · obtain ⟨hs2, c, r, a, e⟩ := State.canState_does c0.ok hp (by rw [htec]; omega)
    have hcan : (u.canState p).canPort p = u.canPort p := State.canPort_congr (by rw [e]) p
    have away {g : Fld} (hg : ∀ f ∈ canErrFlds, g.off * 32 + g.lo ≠ f.off * 32 + f.lo) : (u.canState p).getF g p = u.getF g p :=
      c.reads (L := canErrFlds) (by simpa using hp) hp hg
    rw [htec, hrec] at hs2
    rw [if_neg hoff]
    exact ⟨(away (by decide)).trans hlec, by rw [hcan, htec], by rw [hcan, hrec], hs2, fun hn => absurd hn hoff, (away (by decide)).trans (same (by decide))⟩

/-- A failed attempt in one-shot mode ends the frame offered. -/
def CanPort.attemptEnded (c : CanPort) : CanPort :=
  match c.offered with
  | some (.slot n) => c.slotEnd n
  | some (.queue q) => { c with queue := c.queue.filter (fun x => x.entry ≠ q.entry) }
  | none => c

/-- The frame ends; of the registers a refusal and a count. -/
theorem State.oneShotFail_does (h : s.RegsOk) (p : Nat) :
    (s.oneShotFail p).canPort p = (s.canPort p).attemptEnded ∧ Chg s (s.oneShotFail p) ((CAN_CNT_ONESHOTFAIL, p) :: latchFields) := by
  unfold State.oneShotFail CanPort.attemptEnded
  cases ho : (s.canPort p).offered with
  | none => exact ⟨rfl, (Chg.refl h).mono (by simp)⟩
  | some x =>
    cases x with
    | slot n => exact ⟨tabGet_tabSet_self _ _ _ _, (((Chg.refl h).same (u := s.modCan p fun c => c.slotEnd n) rfl).bump CAN_CNT_ONESHOTFAIL p 1).mono (by simp)⟩
    | queue q =>
      dsimp only
      have hport := State.canPort_modCan s p fun c => { c with queue := c.queue.filter (fun x => x.entry ≠ q.entry) }
      have c0 := (Chg.refl h).same (u := s.modCan p fun c => { c with queue := c.queue.filter (fun x => x.entry ≠ q.entry) }) rfl
      generalize (s.modCan p fun c => { c with queue := c.queue.filter (fun x => x.entry ≠ q.entry) }) = u at *
      obtain ⟨c, r, q', p', e⟩ := State.txResult_does c0.ok s.seatB p q.entry 1 none
      exact ⟨(State.canPort_congr (by rw [e]) p).trans hport, (c0.trans c).mono (by simp +contextual)⟩

/-- CAN_ERROR of a port on the bus. -/
theorem execCanError_eq {port : Fin 8} {own : Bool} {te re : Nat} (hon : s.canOn port.val = true) :
    (∀ code, exec (.canError port (.err code) own te re) s =
      .next (let u := if s.getF CAN_PORTCFG_MODE port.val = 2 then s.setF CAN_ERRSTAT_LEC code.val port.val else s.canErred port.val code.val te re
        if own && u.flag CAN_PORTCFG_ONESHOT port.val && u.canSends port.val then u.oneShotFail port.val else u)) ∧
    ∀ bit, exec (.canError port (.arb bit) own te re) s =
      .next (let u := s.setF CAN_ERRSTAT_ALBIT bit.toNat port.val
        if own && u.flag CAN_PORTCFG_ONESHOT port.val && u.canSends port.val then u.oneShotFail port.val else u) := by
  have e (err : CanErr) : exec (.canError port err own te re) s = execCanError port err own te re s := rfl
  constructor
  · intro code
    rw [e]
    unfold execCanError
    dsimp only
    rw [hon]
    by_cases hm : s.getF CAN_PORTCFG_MODE port.val = 2
    · simp only [hm, if_true, Bool.not_true, Bool.false_eq_true, if_false]
    · simp only [hm, Bool.not_true, Bool.false_eq_true, if_false]
      rfl
  · intro bit
    rw [e]
    unfold execCanError
    dsimp only
    rw [hon]
    rfl

/-- CAN_ERROR of a port that is not on the bus. -/
theorem execCanError_off {port : Fin 8} {err : CanErr} {own : Bool} {te re : Nat} (hon : s.canOn port.val = false) : exec (.canError port err own te re) s = .next s := by
  show execCanError port err own te re s = _
  unfold execCanError
  dsimp only
  rw [hon]
  rfl

/-- CAN_ERROR of an error in listen-only mode: its code alone. -/
theorem execCanError_listen (h : s.RegsOk) {port : Fin 8} {own : Bool} {te re : Nat} (hon : s.canOn port.val = true) (hm : s.getF CAN_PORTCFG_MODE port.val = 2) (code : Fin 7) :
    Gives (.canError port (.err code) own te re) s fun t => t.getF CAN_ERRSTAT_LEC port.val = code.val ∧ t = { s with regs := t.regs } ∧ OnlyRegs s t [(CAN_ERRSTAT_LEC, port.val)] := by
  have hp : port.val < 65536 := by omega
  have c := (Chg.refl h).setF CAN_ERRSTAT_LEC code.val port.val
  have hsend : (s.setF CAN_ERRSTAT_LEC code.val port.val).canSends port.val = false := by
    unfold State.canSends
    rw [c.reads (L := [CAN_ERRSTAT_LEC]) (f := CAN_PORTCFG_MODE) (by simpa using hp) hp (by decide), hm]
    simp
  refine ⟨_, (execCanError_eq hon).1 code, ?_⟩
  rw [if_pos hm]
  dsimp only
  rw [hsend, Bool.and_false, if_neg (by decide)]
  exact ⟨getF_setF_fits h CAN_ERRSTAT_LEC (show code.val < 8 by omega), rfl, c.only⟩

/-- CAN_ERROR of an error that the port counts. -/
theorem execCanError_counts (h : s.RegsOk) {port : Fin 8} {own : Bool} {te re : Nat} (hon : s.canOn port.val = true) (hm : s.getF CAN_PORTCFG_MODE port.val ≠ 2)
    (ho : (own && s.flag CAN_PORTCFG_ONESHOT port.val) = false) (code : Fin 7) : Gives (.canError port (.err code) own te re) s fun t =>
      t.getF CAN_ERRSTAT_LEC port.val = code.val ∧ (t.canPort port.val).tec = te ∧ (t.canPort port.val).rec_ = re ∧
      t.getF CAN_ERRSTAT_STATE port.val = (if 255 < te then 2 else if 127 < te ∨ 127 < re then 1 else 0) ∧
      (255 < te → (t.canPort port.val).queue = [] ∧ (t.canPort port.val).waiting = s.flag CAN_PORTCFG_BOFFREC port.val) := by
  obtain ⟨hlec, htec, hrec, hstate, hoff, hshot⟩ := State.canErred_does h (p := port.val) (by omega) (canOn_state hon) (show code.val < 8 by omega) te re
  refine ⟨_, (execCanError_eq hon).1 code, ?_⟩
  rw [if_neg hm]
  dsimp only
  have hflag : (s.canErred port.val code.val te re).flag CAN_PORTCFG_ONESHOT port.val = s.flag CAN_PORTCFG_ONESHOT port.val := by
    unfold State.flag
    rw [hshot]
  rw [hflag, ho, Bool.false_and, if_neg (by decide)]
  exact ⟨hlec, htec, hrec, hstate, hoff⟩

/-- Where an arbitration loss stands, a port sends as before, and its mode is the same. -/
theorem arbLost_does (h : s.RegsOk) (hp : p < 65536) (bit : BitVec 8) :
    Chg s (s.setF CAN_ERRSTAT_ALBIT bit.toNat p) [(CAN_ERRSTAT_ALBIT, p)] ∧ (s.setF CAN_ERRSTAT_ALBIT bit.toNat p).getF CAN_ERRSTAT_ALBIT p = bit.toNat ∧
    (s.setF CAN_ERRSTAT_ALBIT bit.toNat p).flag CAN_PORTCFG_ONESHOT p = s.flag CAN_PORTCFG_ONESHOT p ∧ (s.setF CAN_ERRSTAT_ALBIT bit.toNat p).canSends p = s.canSends p := by
  have c := (Chg.refl h).setF CAN_ERRSTAT_ALBIT bit.toNat p
  have away {g : Fld} (hg : g.off * 32 + g.lo ≠ CAN_ERRSTAT_ALBIT.off * 32 + CAN_ERRSTAT_ALBIT.lo) : (s.setF CAN_ERRSTAT_ALBIT bit.toNat p).getF g p = s.getF g p :=
    getF_setF_ne _ _ h (key_ne_of_place hp hp hg)
  refine ⟨c, getF_setF_fits h CAN_ERRSTAT_ALBIT bit.isLt, ?_, canSends_congr (away (by decide)) (away (by decide))⟩
  unfold State.flag
  rw [away (by decide)]

/-- CAN_ERROR of an arbitration loss that does not end the frame. -/
theorem execCanError_arb (h : s.RegsOk) {port : Fin 8} {own : Bool} {te re : Nat} (hon : s.canOn port.val = true)
    (ho : (own && s.flag CAN_PORTCFG_ONESHOT port.val && s.canSends port.val) = false) (bit : BitVec 8) : Gives (.canError port (.arb bit) own te re) s fun t =>
      t.getF CAN_ERRSTAT_ALBIT port.val = bit.toNat ∧ t = { s with regs := t.regs } ∧ OnlyRegs s t [(CAN_ERRSTAT_ALBIT, port.val)] := by
  obtain ⟨c, hbit, hshot, hsend⟩ := arbLost_does h (p := port.val) (by omega) bit
  refine ⟨_, (execCanError_eq hon).2 bit, ?_⟩
  dsimp only
  rw [hshot, hsend, ho, if_neg (by decide)]
  exact ⟨hbit, rfl, c.only⟩

/-- CAN_ERROR of an arbitration loss in one-shot mode. -/
theorem execCanError_oneShot (h : s.RegsOk) {port : Fin 8} {own : Bool} {te re : Nat} (hon : s.canOn port.val = true)
    (ho : (own && s.flag CAN_PORTCFG_ONESHOT port.val && s.canSends port.val) = true) (bit : BitVec 8) : Gives (.canError port (.arb bit) own te re) s fun t =>
      t.getF CAN_ERRSTAT_ALBIT port.val = bit.toNat ∧ t.canPort port.val = (s.canPort port.val).attemptEnded := by
  have hp : port.val < 65536 := by omega
  obtain ⟨c, hbit, hshot, hsend⟩ := arbLost_does h hp bit
  obtain ⟨hport, cf⟩ := State.oneShotFail_does c.ok port.val
  refine ⟨_, (execCanError_eq hon).2 bit, ?_⟩
  dsimp only
  rw [hshot, hsend, ho, if_pos rfl]
  exact ⟨(cf.reads (L := CAN_CNT_ONESHOTFAIL :: latchFields.map Prod.fst) (by simp [latchFields, hp]) hp (by decide)).trans hbit, hport⟩

/-! ### Recovery and the queue (R385, R391) -/

/-- CAN_BUS_OFF_RECOVERED of a bus-off port that waits. -/
theorem execCanBusOffRecovered_recovers (h : s.RegsOk) {port : Fin 8} (hb : (decide (s.getF CAN_ERRSTAT_STATE port.val = 2) && (s.canPort port.val).waiting) = true) :
    Gives (.canBusOffRecovered port) s fun t => t.canPort port.val = { s.canPort port.val with tec := 0, rec_ := 0, waiting := false } ∧ t.getF CAN_ERRSTAT_STATE port.val = 0 ∧
      t.getF CAN_ERRSTAT_TEC port.val = 0 ∧ t.getF CAN_ERRSTAT_REC port.val = 0 ∧ t = { s with regs := t.regs, can := t.can } ∧
      OnlyRegs s t [(CAN_ERRSTAT_STATE, port.val), (CAN_ERRSTAT_TEC, port.val), (CAN_ERRSTAT_REC, port.val)] := by
  have hp : port.val < 65536 := by omega
  have e : exec (.canBusOffRecovered port) s = .next (((s.modCan port.val fun c => { c with tec := 0, rec_ := 0, waiting := false }).setF CAN_ERRSTAT_STATE 0 port.val).canCounts port.val) :=
    congrArg Host.Outcome.next (if_pos hb)
  refine ⟨_, e, ?_⟩
  have hport := State.canPort_modCan s port.val fun c => { c with tec := 0, rec_ := 0, waiting := false }
  have c0 := ((Chg.refl h).same (u := s.modCan port.val fun c => { c with tec := 0, rec_ := 0, waiting := false }) rfl)
  have frame : s.modCan port.val (fun c => { c with tec := 0, rec_ := 0, waiting := false }) =
    { s with can := (s.modCan port.val fun c => { c with tec := 0, rec_ := 0, waiting := false }).can } := rfl
  generalize s.modCan port.val (fun c => { c with tec := 0, rec_ := 0, waiting := false }) = u at *
  have c1 := c0.setF CAN_ERRSTAT_STATE 0 port.val
  have c2 := c1.setF CAN_ERRSTAT_TEC 0 port.val
  have hcounts : (u.setF CAN_ERRSTAT_STATE 0 port.val).canCounts port.val =
      (((u.setF CAN_ERRSTAT_STATE 0 port.val).setF CAN_ERRSTAT_TEC 0 port.val).setF CAN_ERRSTAT_REC 0 port.val) := by
    unfold State.canCounts
    rw [show (u.setF CAN_ERRSTAT_STATE 0 port.val).canPort port.val = u.canPort port.val from rfl, hport]
    rfl
  rw [hcounts]
  have put {g f : Fld} {w : State} (hw : w.RegsOk) (hf : g.off * 32 + g.lo ≠ f.off * 32 + f.lo) : (w.setF f 0 port.val).getF g port.val = w.getF g port.val :=
    getF_setF_ne _ _ hw (key_ne_of_place hp hp hf)
  refine ⟨hport, ?_, ?_, getF_setF_fits c2.ok _ (by decide), ?_, ((c2.setF CAN_ERRSTAT_REC 0 port.val).mono (by simp)).only⟩
  · exact (put c2.ok (by decide)).trans ((put c1.ok (by decide)).trans (getF_setF_fits c0.ok _ (by decide)))
  · exact (put c2.ok (by decide)).trans (getF_setF_fits c1.ok _ (by decide))
  · rw [frame]; rfl

/-- The port that an access path has selected. -/
theorem canSel_aside (h : s.RegsOk) (pa : Path) : s.aside.selIx pa .can = s.getF CAN_PORTSEL_PORT pa.code :=
  getF_aside h CAN_PORTSEL_PORT (key_ne_of_place (Path.code_lt pa) (by decide) (by decide))

/-- A running module whose write restarts nothing. -/
theorem runs_phase {u : State} (hr : s.Runs) (e : u.kerb = s.kerb) : u.kerb.phase ≠ .boot := by
  rw [e, show s.kerb.phase = .run from hr]
  decide

/-- The error state of a port reads the same where the count of refused writes is set aside. -/
theorem canState_aside (h : s.RegsOk) (n : Nat) : s.aside.getF CAN_ERRSTAT_STATE n = s.getF CAN_ERRSTAT_STATE n := by
  refine getF_aside h _ ?_
  simp only [Fld.key, CAN_ERRSTAT_STATE, KRB_IGNSTAT_IGNCNT]
  omega

/-- RECOVER of a bus-off port. -/
theorem execCanRecover_starts (h : s.RegsOk) (hr : s.Runs) {pa : Path} {n : Nat} (hn : s.getF CAN_PORTSEL_PORT pa.code = n) (hoff : s.getF CAN_ERRSTAT_STATE n = 2) :
    Gives (.canRecover pa) s fun t => t.canPort n = { s.canPort n with waiting := true } ∧ t = { s with regs := t.regs, can := t.can } ∧ OnlyRegsW 16 s t [] := by
  have taken : s.aside.cmdCanRecover pa = s.aside.modCan n fun c => { c with waiting := true } := by
    unfold State.cmdCanRecover
    rw [canSel_aside h pa, hn]
    exact if_pos ((canState_aside h n).trans hoff)
  obtain ⟨e, only⟩ := State.written_plain (p := pa) (off := 0x10001C) (f := fun s => s.cmdCanRecover pa) hr h taken rfl (runs_phase hr rfl)
  exact ⟨_, rfl, (State.canPort_congr (s := s.aside.modCan n fun c => { c with waiting := true }) (by rw [e]) n).trans (State.canPort_modCan _ _ _), by rw [e]; rfl, only⟩

/-- RECOVER of another. -/
theorem execCanRecover_none (h : s.RegsOk) (hr : s.Runs) {pa : Path} {n : Nat} (hn : s.getF CAN_PORTSEL_PORT pa.code = n) (hoff : s.getF CAN_ERRSTAT_STATE n ≠ 2) :
    Gives (.canRecover pa) s fun t => t = { s with regs := t.regs } ∧ OnlyRegsW 16 s t [] := by
  have taken : s.aside.cmdCanRecover pa = s.aside := by
    unfold State.cmdCanRecover
    rw [canSel_aside h pa, hn]
    exact if_neg (by rw [canState_aside h n]; exact hoff)
  exact ⟨_, rfl, State.written_plain (p := pa) (off := 0x10001C) (f := fun s => s.cmdCanRecover pa) (u := s.aside) hr h taken rfl (runs_phase hr rfl)⟩

/-- FLUSH: the queue is dropped. -/
theorem execCanFlush_empties (h : s.RegsOk) (hr : s.Runs) {pa : Path} {n : Nat} (hn : s.getF CAN_PORTSEL_PORT pa.code = n) :
    Gives (.canFlush pa) s fun t => t.canPort n = { s.canPort n with queue := [] } ∧ t = { s with regs := t.regs, sq := t.sq, pair := t.pair, can := t.can } := by
  have taken : s.aside.cmdCanFlush pa = s.aside.txDrop n 3 := by
    unfold State.cmdCanFlush
    rw [canSel_aside h pa, hn]
  obtain ⟨c, r, q, a, e⟩ := State.txDrop_does (Chg.aside h).ok n 3
  obtain ⟨ew, -, -⟩ := State.written_does (p := pa) (off := 0x10001C) (f := fun s => s.cmdCanFlush pa) hr h taken c (runs_phase hr (by rw [e]; rfl))
  refine ⟨_, rfl, (State.canPort_congr (s := s.aside.modCan n fun c => { c with queue := [] }) ?_ n).trans (State.canPort_modCan _ _ _), ?_⟩
  · rw [ew, e]; rfl
  · rw [ew, e]; rfl

end

end Sys2Proof.Machine
end

section
/-! PROOFS. The image mover's set-up channels (16, R411, R414 to R416). -/
namespace Sys2Proof.Machine

section
variable {s : State} {pa : Path}

/-! ### Ignored commands -/

/-- What shows that the image mover ignored a write. -/
abbrev imvNo : List (Fld × Nat) := [(KRB_IGNSTAT_CAUSE, 0), (KRB_IGNADDR_OFFSET, 0), (KRB_IGNPATH_PATH, 0), (IMV_CNT_IGNCNT, 0)]

/-- A command of IMV_CHCTL that is ignored. -/
theorem State.written_imvIgnored (h : s.RegsOk) (hr : s.Runs) {f : State → State} {c : Nat} (hc : c < 16) (hu : f s.aside = s.aside.imvIgnored pa c) :
    (s.written pa 0x80028 f).getF KRB_IGNSTAT_CAUSE = c ∧ s.written pa 0x80028 f = { s with regs := (s.written pa 0x80028 f).regs } ∧ OnlyRegsW 8 s (s.written pa 0x80028 f) imvNo := by
  obtain ⟨⟨r, e⟩, ci, hcause, -, -⟩ := State.ignored_does (Chg.aside h).ok pa (off := chctlOff) (by decide) c
  have cr := ci.bump IMV_CNT_IGNCNT 0 1
  have eu : s.aside.imvIgnored pa c = { s with regs := (s.aside.imvIgnored pa c).regs } := by unfold State.imvIgnored; rw [e]; rfl
  obtain ⟨ew, only, away⟩ := State.written_does (p := pa) (off := 0x80028) hr h hu cr (by rw [eu]; exact runs_phase hr rfl)
  refine ⟨(away _ 0 (by decide)).trans ((getF_setF_ne _ _ ci.ok (by decide)).trans (hcause.trans (Nat.mod_eq_of_lt hc))), by rw [ew, eu], OnlyRegs.mono only fun x hx => ?_⟩
  simp only [chctlOff, List.mem_append, List.mem_cons, List.not_mem_nil, or_false] at *
  grind

/-- The channel that an access path has selected. -/
theorem imvSel_aside (h : s.RegsOk) (pa : Path) : s.aside.getF IMV_CHSEL_CH pa.code = s.getF IMV_CHSEL_CH pa.code :=
  getF_aside h IMV_CHSEL_CH (key_ne_of_place (Path.code_lt pa) (by decide) (by decide))

/-- START on a hardware channel. -/
theorem cmdImvStart_hardware (h : s.RegsOk) {v : W32} (hc : s.getF IMV_CHSEL_CH pa.code < 60) : s.aside.cmdImvStart pa v = s.aside.imvIgnored pa 6 := by
  unfold State.cmdImvStart
  rw [imvSel_aside h]
  exact if_pos hc

/-- START on a busy channel. -/
theorem cmdImvStart_busy (h : s.RegsOk) {v : W32} {c : Nat} (hsel : s.getF IMV_CHSEL_CH pa.code = c) (hc : 60 ≤ c) (h64 : c < 64) (hb : s.flag IMV_CHSTAT_BUSY c = true) :
    s.aside.cmdImvStart pa v = s.aside.imvIgnored pa 4 := by
  unfold State.cmdImvStart
  rw [imvSel_aside h, hsel]
  dsimp only
  rw [if_neg (by omega), flag_aside h _ (key_ne_of_place (by omega) (by decide) (by decide)), hb, if_pos rfl]

/-- HALT on a hardware channel. -/
theorem cmdImvHalt_hardware (h : s.RegsOk) (hc : s.getF IMV_CHSEL_CH pa.code < 60) : s.aside.cmdImvHalt pa = s.aside.imvIgnored pa 6 := by
  unfold State.cmdImvHalt
  rw [imvSel_aside h]
  exact if_pos hc

/-! ### HALT (R414) -/

/-- HALT on a set-up channel that runs nothing. -/
theorem execImvHalt_idle (h : s.RegsOk) (hr : s.Runs) {c : Nat} (hsel : s.getF IMV_CHSEL_CH pa.code = c) (hc : 60 ≤ c) (hm : tabGet? s.imv c = none) :
    Gives (.imvHalt pa) s fun t => t = { s with regs := t.regs } ∧ OnlyRegsW 8 s t [] := by
  have taken : s.aside.cmdImvHalt pa = s.aside := by
    unfold State.cmdImvHalt
    rw [imvSel_aside h, hsel]
    dsimp only
    rw [if_neg (by omega), show s.aside.imv = s.imv from rfl, hm]
  exact ⟨_, rfl, State.written_plain (p := pa) (off := 0x80028) (f := fun s => s.cmdImvHalt pa) (u := s.aside) hr h taken rfl (runs_phase hr rfl)⟩

/-- HALT on a channel with a descriptor. -/
theorem execImvHalt_marks (h : s.RegsOk) (hr : s.Runs) {c : Nat} {m : MovRt} (hsel : s.getF IMV_CHSEL_CH pa.code = c) (hc : 60 ≤ c) (hm : tabGet? s.imv c = some m) :
    Gives (.imvHalt pa) s fun t => t.imv = tabSet s.imv c { m with halt := true } ∧ t = { s with regs := t.regs, imv := t.imv } ∧ OnlyRegsW 8 s t [] := by
  have taken : s.aside.cmdImvHalt pa = { s.aside with imv := tabSet s.imv c { m with halt := true } } := by
    unfold State.cmdImvHalt
    rw [imvSel_aside h, hsel]
    dsimp only
    rw [if_neg (by omega), show s.aside.imv = s.imv from rfl, hm]
  obtain ⟨e, only⟩ := State.written_plain (p := pa) (off := 0x80028) (f := fun s => s.cmdImvHalt pa) hr h taken rfl (runs_phase hr rfl)
  exact ⟨_, rfl, congrArg State.imv e, by rw [e]; rfl, only⟩

/-! ### START (R411, R415, R416) -/

/-- The settings that START takes from its word. -/
abbrev State.imvSet (s : State) (c : Nat) (v : W32) : State := (s.aside.chctl c v.toNat).setF IMV_CHSTAT_PRIO (imvPrio c) c

/-- The registers of the settings. -/
abbrev imvSetFlds : List Fld := [IMV_CHCTL_SRCFIX, IMV_CHCTL_DSTFIX, IMV_CHCTL_WIDTH, IMV_CHCTL_DSTNONE, IMV_CHCTL_CRCMODE, IMV_CHCTL_REPEAT, IMV_CHSTAT_PRIO]

/-- Taking the settings changes their registers alone. -/
theorem State.imvSet_does (h : s.RegsOk) (c : Nat) (v : W32) : Chg s.aside (s.imvSet c v) (imvSetFlds.map fun f => (f, c)) ∧ ∃ r, s.imvSet c v = { s with regs := r } := by
  obtain ⟨l, e, hl⟩ : ∃ l, s.imvSet c v = s.aside.puts c l ∧ l.map Prod.fst = imvSetFlds :=
    ⟨[(IMV_CHCTL_SRCFIX, bits v.toNat 2 1), (IMV_CHCTL_DSTFIX, bits v.toNat 3 1), (IMV_CHCTL_WIDTH, bits v.toNat 4 2), (IMV_CHCTL_DSTNONE, bits v.toNat 6 1),
      (IMV_CHCTL_CRCMODE, bits v.toNat 7 2), (IMV_CHCTL_REPEAT, bits v.toNat 9 16), (IMV_CHSTAT_PRIO, imvPrio c)], rfl, rfl⟩
  obtain ⟨r, er⟩ := State.puts_frame s.aside c l
  refine ⟨?_, r, e.trans er⟩
  rw [e, ← hl, List.map_map]
  exact State.puts_chg (Chg.aside h).ok c l

/-- A module may start a descriptor that writes nothing, and in STOP, in START or FENCED, any. -/
abbrev State.imvMay (s : State) (u : State) (c : Nat) : Prop :=
  (u.movDesc c).none_ = true ∨ s.mode = 0 ∧ (s.getF PAR_STAT_STATE = 0 ∨ s.getF PAR_STAT_STATE = 8)

/-- What START does once the settings are taken. -/
def State.imvBegin (u : State) (c : Nat) : State :=
  if !(u.movDesc c).none_ && !(u.mode = 0 && (u.getF PAR_STAT_STATE = 0 || u.getF PAR_STAT_STATE = 8)) then u.movEnd c 5
  else if (u.movDesc c).bad then u.movEnd c 4
  else match u.movRefused (u.movDesc c) with
    | some (a, w) => (u.latchRefusal a 0x200 w).movEnd c 1
    | none => (((u.movBusy c true).setF IMV_CHSTAT_ERR 0 c).setF IMV_CHSTAT_RUNSLEFT (u.getF IMV_CHCTL_REPEAT c) c).movRun c

/-- START on a set-up channel that is not busy. -/
theorem cmdImvStart_begins (h : s.RegsOk) {v : W32} {c : Nat} (hsel : s.getF IMV_CHSEL_CH pa.code = c) (hc : 60 ≤ c) (h64 : c < 64) (hb : s.flag IMV_CHSTAT_BUSY c = false) :
    s.aside.cmdImvStart pa v = (s.imvSet c v).imvBegin c := by
  unfold State.cmdImvStart
  rw [imvSel_aside h, hsel]
  dsimp only
  rw [if_neg (by omega), flag_aside h _ (key_ne_of_place (by omega) (by decide) (by decide)), hb]
  rfl

/-- Whether the module may is told by the registers that the settings leave. -/
theorem imvMay_iff (h : s.RegsOk) {c : Nat} (h64 : c < 64) (v : W32) :
    s.imvMay (s.imvSet c v) c ↔ (!((s.imvSet c v).movDesc c).none_ && !((s.imvSet c v).mode = 0 && ((s.imvSet c v).getF PAR_STAT_STATE = 0 || (s.imvSet c v).getF PAR_STAT_STATE = 8))) = false := by
  obtain ⟨ch, -⟩ := State.imvSet_does h c v
  have same {f : Fld} (hf : ∀ g ∈ imvSetFlds, f.off * 32 + f.lo ≠ g.off * 32 + g.lo) (ha : f.key 0 ≠ KRB_IGNSTAT_IGNCNT.key 0) : (s.imvSet c v).getF f = s.getF f :=
    (ch.reads (L := imvSetFlds) (by simp; omega) (by decide) hf).trans (getF_aside h f ha)
  unfold State.imvMay State.mode
  rw [same (by decide) (by decide), same (by decide) (by decide)]
  generalize ((s.imvSet c v).movDesc c).none_ = b
  cases b <;> simp [or_iff_not_imp_left]

/-- A descriptor ended with a result. -/
def MovEnded (s : State) (c e : Nat) (t : State) : Prop :=
  t.flag IMV_CHSTAT_BUSY c = false ∧ t.flag IMV_CHSTAT_DONE c = true ∧ t.getF IMV_CHSTAT_ERR c = e ∧ t = { s with regs := t.regs, imv := tabDel s.imv c }

/-- A register of a set-up channel is none that a write keeps its books in. -/
theorem imvAway {c : Nat} (h64 : c < 64) {f : Fld} (hf : ∀ x ∈ book 8, f.off * 32 + f.lo ≠ x.1.off * 32 + x.1.lo) : ∀ x ∈ book 8, f.key c ≠ x.1.key x.2 :=
  book_ne (by omega) hf

/-- A write whose effect ends the descriptor. -/
theorem State.written_movEnd (h : s.RegsOk) (hr : s.Runs) {f : State → State} {c e : Nat} (h64 : c < 64) (he : e < 8) {u : State} {l : List (Fld × Nat)}
    (hc : Chg s.aside u l) (hframe : ∃ r, u = { s with regs := r }) (hu : f s.aside = u.movEnd c e) : MovEnded s c e (s.written pa 0x80028 f) := by
  obtain ⟨r, er⟩ := hframe
  obtain ⟨hbusy, hdone, herr, ce, r', ee⟩ := State.movEnd_does hc.ok (c := c) (by omega) he
  obtain ⟨ew, -, away⟩ := State.written_does (p := pa) (off := 0x80028) hr h hu (hc.trans ce) (runs_phase hr (by rw [ee, er]))
  refine ⟨?_, ?_, (away _ c (imvAway h64 (by decide))).trans herr, by rw [ew, ee, er]⟩
  · unfold State.flag at *; rw [away _ c (imvAway h64 (by decide))]; exact hbusy
  · unfold State.flag at *; rw [away _ c (imvAway h64 (by decide))]; exact hdone

/-- START of a descriptor that may not run: it ends with its error. -/
theorem execImvStart_ends (h : s.RegsOk) (hr : s.Runs) {v : W32} {c e : Nat} (hsel : s.getF IMV_CHSEL_CH pa.code = c) (hc : 60 ≤ c) (h64 : c < 64)
    (hb : s.flag IMV_CHSTAT_BUSY c = false) (he : e < 8) {w : State} (hw : ∃ l, Chg s.aside w l) (hframe : ∃ r, w = { s with regs := r })
    (hends : (s.imvSet c v).imvBegin c = w.movEnd c e) : Gives (.imvStart pa v) s (MovEnded s c e) := by
  obtain ⟨l, cw⟩ := hw
  exact ⟨_, rfl, State.written_movEnd (f := fun s => s.cmdImvStart pa v) h hr h64 he cw hframe ((cmdImvStart_begins h hsel hc h64 hb).trans hends)⟩

/-- The three ways in which START ends a descriptor. -/
theorem imvBegin_ends (h : s.RegsOk) {v : W32} {c : Nat} (h64 : c < 64) :
    (¬ s.imvMay (s.imvSet c v) c → (s.imvSet c v).imvBegin c = (s.imvSet c v).movEnd c 5) ∧
    (s.imvMay (s.imvSet c v) c → ((s.imvSet c v).movDesc c).bad = true → (s.imvSet c v).imvBegin c = (s.imvSet c v).movEnd c 4) ∧
    (s.imvMay (s.imvSet c v) c → ((s.imvSet c v).movDesc c).bad = false → (s.imvSet c v).movRefused ((s.imvSet c v).movDesc c) ≠ none →
      ∃ a w, (s.imvSet c v).imvBegin c = ((s.imvSet c v).latchRefusal a 0x200 w).movEnd c 1) := by
  unfold State.imvBegin
  rw [imvMay_iff h h64 v]
  refine ⟨fun hn => if_pos (Bool.eq_true_of_not_eq_false hn), fun hm hb => ?_, fun hm hb href => ?_⟩
  · rw [hm, hb]
    rfl
  · obtain ⟨⟨a, w⟩, hr⟩ := Option.ne_none_iff_exists'.mp href
    rw [hm, hb, hr]
    exact ⟨a, w, rfl⟩

/-- START of a descriptor that the ACU refuses. -/
theorem execImvStart_refused (h : s.RegsOk) (hr : s.Runs) {v : W32} {c : Nat} (hsel : s.getF IMV_CHSEL_CH pa.code = c) (hc : 60 ≤ c) (h64 : c < 64)
    (hb : s.flag IMV_CHSTAT_BUSY c = false) (href : ∃ a w, (s.imvSet c v).imvBegin c = ((s.imvSet c v).latchRefusal a 0x200 w).movEnd c 1) :
    Gives (.imvStart pa v) s (MovEnded s c 1) := by
  obtain ⟨a, w, e⟩ := href
  obtain ⟨cu, r0, e0⟩ := State.imvSet_does h c v
  obtain ⟨cl, r, el⟩ := State.latchRefusal_does cu.ok a 0x200 w
  exact execImvStart_ends h hr hsel hc h64 hb (by decide) ⟨_, cu.trans cl⟩ ⟨r, by rw [el, e0]⟩ e

/-- The first run of a descriptor. -/
theorem imvBegin_runs (h : s.RegsOk) {v : W32} {c : Nat} (h64 : c < 64) (hm : s.imvMay (s.imvSet c v) c) (hb : ((s.imvSet c v).movDesc c).bad = false)
    (hr : (s.imvSet c v).movRefused ((s.imvSet c v).movDesc c) = none) :
    (s.imvSet c v).imvBegin c = ((((s.imvSet c v).movBusy c true).setF IMV_CHSTAT_ERR 0 c).setF IMV_CHSTAT_RUNSLEFT ((s.imvSet c v).getF IMV_CHCTL_REPEAT c) c).movRun c := by
  unfold State.imvBegin
  rw [(imvMay_iff h h64 v).mp hm, hb, hr]
  rfl

/-- A run begun: position 0, and the Square at the newest CSN. -/
theorem State.movRun_does (h : s.RegsOk) (c : Nat) :
    Chg s (s.movRun c) [(IMV_CHPOS_POS, c)] ∧ (s.movRun c).getF IMV_CHPOS_POS c = 0 ∧
    ∃ r, s.movRun c = { s with regs := r, imv := tabSet s.imv c ⟨s.sq.csn, s.sq.mem, s.sq.poison, false⟩ } := by
  have c0 := (Chg.refl h).same (u := { s with imv := tabSet s.imv c ⟨s.sq.csn, s.sq.mem, s.sq.poison, false⟩ }) rfl
  exact ⟨c0.setF _ _ _, getF_setF_fits c0.ok _ (by decide), _, rfl⟩

/-- START of a descriptor that the module may run and the ACU accepts. -/
theorem execImvStart_runs (h : s.RegsOk) (hr : s.Runs) {v : W32} {c : Nat} (hsel : s.getF IMV_CHSEL_CH pa.code = c) (hc : 60 ≤ c) (h64 : c < 64)
    (hb : s.flag IMV_CHSTAT_BUSY c = false) (hm : s.imvMay (s.imvSet c v) c) (hbad : ((s.imvSet c v).movDesc c).bad = false)
    (href : (s.imvSet c v).movRefused ((s.imvSet c v).movDesc c) = none) : Gives (.imvStart pa v) s fun t =>
      t.flag IMV_CHSTAT_BUSY c = true ∧ t.getF IMV_CHSTAT_ERR c = 0 ∧ t.getF IMV_CHPOS_POS c = 0 ∧ t.imv = tabSet s.imv c ⟨s.sq.csn, s.sq.mem, s.sq.poison, false⟩ ∧
      t = { s with regs := t.regs, imv := t.imv } := by
  have hix : c < 65536 := by omega
  obtain ⟨cu, r0, e0⟩ := State.imvSet_does h c v
  have taken := (cmdImvStart_begins h hsel hc h64 hb).trans (imvBegin_runs h h64 hm hbad href)
  generalize s.imvSet c v = u at *
  obtain ⟨hbusy, c1, r1, e1⟩ := State.movBusy_does cu.ok hix true
  generalize u.movBusy c true = w at *
  have c2 := c1.setF IMV_CHSTAT_ERR 0 c
  have herr := getF_setF_fits c1.ok IMV_CHSTAT_ERR (v := 0) (ix := c) (by decide)
  have hbusy2 : (w.setF IMV_CHSTAT_ERR 0 c).flag IMV_CHSTAT_BUSY c = true := (flag_setF_ne c1.ok (key_ne_of_place hix hix (by decide))).trans hbusy
  have e2 : w.setF IMV_CHSTAT_ERR 0 c = { w with regs := (w.setF IMV_CHSTAT_ERR 0 c).regs } := rfl
  generalize w.setF IMV_CHSTAT_ERR 0 c = x at *
  have c3 := c2.setF IMV_CHSTAT_RUNSLEFT (u.getF IMV_CHCTL_REPEAT c) c
  have herr3 := (getF_setF_ne (f := IMV_CHSTAT_RUNSLEFT) (g := IMV_CHSTAT_ERR) _ (u.getF IMV_CHCTL_REPEAT c) (ix := c) (iy := c) c2.ok (key_ne_of_place hix hix (by decide))).trans herr
  have hbusy3 := (flag_setF_ne (f := IMV_CHSTAT_RUNSLEFT) (v := u.getF IMV_CHCTL_REPEAT c) (ix := c) c2.ok (key_ne_of_place hix hix (by decide))).trans hbusy2
  have e3 : x.setF IMV_CHSTAT_RUNSLEFT (u.getF IMV_CHCTL_REPEAT c) c = { x with regs := (x.setF IMV_CHSTAT_RUNSLEFT (u.getF IMV_CHCTL_REPEAT c) c).regs } := rfl
  generalize x.setF IMV_CHSTAT_RUNSLEFT (u.getF IMV_CHCTL_REPEAT c) c = y at *
  obtain ⟨c4, hpos, r4, e4⟩ := State.movRun_does c3.ok c
  obtain ⟨ew, -, away⟩ := State.written_does (p := pa) (off := 0x80028) (f := fun s => s.cmdImvStart pa v) hr h taken ((cu.trans c3).trans c4)
    (runs_phase hr (by rw [e4, e3, e2, e1, e0]))
  have shown {f : Fld} (hf : ∀ z ∈ book 8, f.off * 32 + f.lo ≠ z.1.off * 32 + z.1.lo) := away f c (imvAway h64 hf)
  have put {f : Fld} (hf : f.off * 32 + f.lo ≠ IMV_CHPOS_POS.off * 32 + IMV_CHPOS_POS.lo) : (y.movRun c).getF f c = y.getF f c :=
    c4.only f c (by simpa using key_ne_of_place hix hix hf)
  refine ⟨_, rfl, ?_, (shown (by decide)).trans ((put (by decide)).trans herr3), (shown (by decide)).trans hpos, ?_, ?_⟩
  · unfold State.flag at *
    rw [shown (by decide), put (by decide)]
    exact hbusy3
  · rw [ew, e4, e3, e2, e1, e0]
  · rw [ew, e4, e3, e2, e1, e0]

/-! ### The end of a run (R410 to R416) -/

/-- The state in which a run's pre-emptions are counted. -/
abbrev State.preempted (s : State) (pre : Nat) : State := s.bump IMV_CNT_PREEMPT 0 pre

/-- IMV_RUN_COMPLETE of a channel that runs nothing. -/
theorem execImvRunComplete_none {ch : Fin 4} {bad : Option Nat} {pre : Nat} (hm : tabGet? s.imv (60 + ch.val) = none) :
    exec (.imvRunComplete ch bad pre) s = .next s := by
  show execImvRunComplete ch bad pre s = _
  unfold execImvRunComplete
  dsimp only
  rw [hm]

section
variable {ch : Fin 4} {bad : Option Nat} {pre : Nat} {m : MovRt} (hm : tabGet? s.imv (60 + ch.val) = some m) (hcells : s.sq.cells = []) (hmap : s.sq.mapErrs = [])
include hm hcells hmap

/-- A run that met an error: the descriptor ends at the error's position, whatever was written before it. -/
theorem execImvRunComplete_err (h : s.RegsOk) {o : Nat} (he : (s.preempted pre).movErr m ((s.preempted pre).movDesc (60 + ch.val)) bad = some o) :
    ∃ v : State, v.RegsOk ∧ exec (.imvRunComplete ch bad pre) s = .next ((v.setF IMV_CHPOS_POS o (60 + ch.val)).movEnd (60 + ch.val) 2) := by
  show ∃ v : State, v.RegsOk ∧ execImvRunComplete ch bad pre s = _
  unfold execImvRunComplete
  dsimp only
  rw [hm]
  dsimp only
  rw [State.strikes_clean (s := s.preempted pre) hcells, State.meet_clean (s := s.preempted pre) hcells hmap, List.append_nil]
  simp only [ite_self]
  rw [he]
  have ok : (s.preempted pre).RegsOk := regs_setF_rising _ _ _ _ h
  refine ⟨_, (State.movWrite_keeps ?_).regs ok, rfl⟩
  cases bad with
  | none => exact Keeps.refl _
  | some b =>
    dsimp only
    split
    · exact State.eccUncorrectable_keeps (Keeps.refl _)
    · exact Keeps.refl _

end

/-- What a run without an error leaves before its descriptor goes on or ends: its bytes written, its CRC and its position. -/
def State.movShown (s : State) (c : Nat) (d : MovDesc) (bs : List Byte) : State :=
  let w := s.movWrite d (if d.crc = 2 then bs ++ natLe 4 (crc32c bs) else bs)
  (if d.crc = 0 then w else w.setF IMV_CHCRC_CRC (crc32c bs) c).setF IMV_CHPOS_POS d.len c

/-- The CRC and the position stand. -/
theorem State.movShown_reads (h : s.RegsOk) {c : Nat} (hc : c < 65536) (d : MovDesc) (bs : List Byte) :
    (s.movShown c d bs).RegsOk ∧ (s.movShown c d bs).getF IMV_CHPOS_POS c = d.len % 2 ^ IMV_CHPOS_POS.w ∧
    (d.crc ≠ 0 → (s.movShown c d bs).getF IMV_CHCRC_CRC c = crc32c bs % 2 ^ 32) := by
  unfold State.movShown
  dsimp only
  have ok : (s.movWrite d (if d.crc = 2 then bs ++ natLe 4 (crc32c bs) else bs)).RegsOk := (State.movWrite_keeps (Keeps.refl s)).regs h
  generalize s.movWrite d (if d.crc = 2 then bs ++ natLe 4 (crc32c bs) else bs) = w at *
  by_cases h0 : d.crc = 0
  · rw [if_pos h0]
    exact ⟨regs_setF_rising _ _ _ _ ok, getF_setF_self _ _ _ _ ok, fun hn => absurd h0 hn⟩
  · rw [if_neg h0]
    have okc := regs_setF_rising w IMV_CHCRC_CRC (crc32c bs) c ok
    exact ⟨regs_setF_rising _ _ _ _ okc, getF_setF_self _ _ _ _ okc,
      fun _ => (getF_setF_ne _ _ okc (key_ne_of_place hc hc (by decide))).trans (getF_setF_self _ _ _ _ ok)⟩

/-- A descriptor without a destination writes nothing. -/
theorem State.movShown_none (h : s.RegsOk) (c : Nat) {d : MovDesc} (bs : List Byte) (hn : d.none_ = true) :
    Chg s (s.movShown c d bs) [(IMV_CHPOS_POS, c), (IMV_CHCRC_CRC, c)] ∧ ∃ r, s.movShown c d bs = { s with regs := r } := by
  have hw (x : List Byte) : s.movWrite d x = s := by
    unfold State.movWrite
    dsimp only
    rw [hn]
    rfl
  unfold State.movShown
  rw [hw]
  dsimp only
  split
  · exact ⟨((Chg.refl h).setF _ _ _).mono (by simp), _, rfl⟩
  · exact ⟨((Chg.refl h).setF _ _ _).setF _ _ _, _, rfl⟩

/-- A run of a descriptor without a destination: registers alone, and the runs left are the same. -/
theorem movShown_runs (h : s.RegsOk) {pre c : Nat} (hc : c < 65536) {u : State} (hu : s.preempted pre = u) {d : MovDesc} (bs : List Byte) (hn : d.none_ = true) :
    (u.movShown c d bs).RegsOk ∧ (∃ r, u.movShown c d bs = { s with regs := r }) ∧ (u.movShown c d bs).getF IMV_CHSTAT_RUNSLEFT c = s.getF IMV_CHSTAT_RUNSLEFT c := by
  have cu : Chg s u [(IMV_CNT_PREEMPT, 0)] := hu ▸ (Chg.refl h).bump _ _ _
  obtain ⟨cw, r, e⟩ := State.movShown_none cu.ok c bs hn
  refine ⟨cw.ok, ⟨r, by rw [e, ← hu]; rfl⟩, ?_⟩
  exact (cw.reads (L := [IMV_CHPOS_POS, IMV_CHCRC_CRC]) (by simp [hc]) hc (by decide)).trans (cu.reads (L := [IMV_CNT_PREEMPT]) (by simp) hc (by decide))

/-- How the descriptor goes on after a run. -/
def State.movNext (w : State) (c : Nat) (halt : Bool) : State :=
  if w.getF IMV_CHSTAT_RUNSLEFT c = 0 || halt then w.movEnd c 0 else (w.setF IMV_CHSTAT_RUNSLEFT (w.getF IMV_CHSTAT_RUNSLEFT c - 1) c).movRun c

/-- What the end of a descriptor leaves of a register of its channel that does not show it. -/
theorem State.movEnd_away (h : s.RegsOk) {c : Nat} (hc : c < 65536) {e : Nat} (he : e < 8) {f : Fld}
    (hf : ∀ g ∈ [IMV_BUSY0_MAP, IMV_BUSY1_MAP, IMV_CHSTAT_BUSY, IMV_CHSTAT_DONE, IMV_CHSTAT_ERR], f.off * 32 + f.lo ≠ g.off * 32 + g.lo) :
    (s.movEnd c e).getF f c = s.getF f c := by
  obtain ⟨-, -, -, ce, -⟩ := State.movEnd_does h hc he
  exact ce.reads (by simp [endFields, hc]) hc hf

section
variable {ch : Fin 4} {bad : Option Nat} {pre : Nat} {m : MovRt} {d : MovDesc} {u : State} (hm : tabGet? s.imv (60 + ch.val) = some m) (hcells : s.sq.cells = [])
  (hmap : s.sq.mapErrs = []) (hu : s.preempted pre = u) (hd : u.movDesc (60 + ch.val) = d)
include hm hcells hmap hu hd

/-- A run that met no error, of a descriptor that checks no CRC. -/
theorem execImvRunComplete_done (he : u.movErr m d bad = none) (hcrc : d.crc ≠ 3) :
    exec (.imvRunComplete ch bad pre) s = .next ((u.movShown (60 + ch.val) d (u.movData m d)).movNext (60 + ch.val) m.halt) := by
  subst hu hd
  show execImvRunComplete ch bad pre s = _
  unfold execImvRunComplete
  dsimp only
  rw [hm]
  dsimp only
  rw [State.strikes_clean (s := s.preempted pre) hcells, State.meet_clean (s := s.preempted pre) hcells hmap, List.append_nil]
  simp only [ite_self]
  rw [he]
  dsimp only
  rw [decide_eq_false hcrc]
  rfl

/-- The descriptor of a run with an error ends at its position. -/
theorem execImvRunComplete_ends_err (h : s.RegsOk) {o : Nat} (he : u.movErr m d bad = some o) : Gives (.imvRunComplete ch bad pre) s fun t =>
    t.flag IMV_CHSTAT_BUSY (60 + ch.val) = false ∧ t.flag IMV_CHSTAT_DONE (60 + ch.val) = true ∧ t.getF IMV_CHSTAT_ERR (60 + ch.val) = 2 ∧
    t.getF IMV_CHPOS_POS (60 + ch.val) = o % 2 ^ IMV_CHPOS_POS.w := by
  subst hu hd
  have hc : 60 + ch.val < 65536 := by omega
  obtain ⟨v, ok, e⟩ := execImvRunComplete_err hm hcells hmap h he
  have okp := regs_setF_rising v IMV_CHPOS_POS o (60 + ch.val) ok
  obtain ⟨hbusy, hdone, herr, -, -⟩ := State.movEnd_does okp hc (e := 2) (by decide)
  exact ⟨_, e, hbusy, hdone, herr, (State.movEnd_away okp hc (by decide) (by decide)).trans (getF_setF_self _ _ _ _ ok)⟩

/-- The descriptor of a halted channel ends with the run. -/
theorem execImvRunComplete_halts (h : s.RegsOk) (he : u.movErr m d bad = none) (hcrc : d.crc ≠ 3) (hh : m.halt = true) : Gives (.imvRunComplete ch bad pre) s fun t =>
    t.flag IMV_CHSTAT_BUSY (60 + ch.val) = false ∧ t.flag IMV_CHSTAT_DONE (60 + ch.val) = true ∧ t.getF IMV_CHSTAT_ERR (60 + ch.val) = 0 ∧
    t.getF IMV_CHPOS_POS (60 + ch.val) = d.len % 2 ^ IMV_CHPOS_POS.w ∧ (d.crc ≠ 0 → t.getF IMV_CHCRC_CRC (60 + ch.val) = crc32c (u.movData m d) % 2 ^ 32) := by
  have hc : 60 + ch.val < 65536 := by omega
  refine ⟨_, execImvRunComplete_done hm hcells hmap hu hd he hcrc, ?_⟩
  obtain ⟨ok, hpos, hcrcv⟩ := State.movShown_reads (s := u) (hu ▸ regs_setF_rising _ _ _ _ h) hc d (u.movData m d)
  generalize u.movShown (60 + ch.val) d (u.movData m d) = w at *
  have hend : w.movNext (60 + ch.val) m.halt = w.movEnd (60 + ch.val) 0 := if_pos (by simp [hh])
  obtain ⟨hbusy, hdone, herr, -, -⟩ := State.movEnd_does ok hc (e := 0) (by decide)
  rw [hend]
  exact ⟨hbusy, hdone, herr, (State.movEnd_away ok hc (by decide) (by decide)).trans hpos, fun h0 => (State.movEnd_away ok hc (by decide) (by decide)).trans (hcrcv h0)⟩

/-- With no run left the descriptor ends. -/
theorem execImvRunComplete_last (h : s.RegsOk) (he : u.movErr m d bad = none) (hcrc : d.crc ≠ 3) (hn : d.none_ = true)
    (hleft : s.getF IMV_CHSTAT_RUNSLEFT (60 + ch.val) = 0) : Gives (.imvRunComplete ch bad pre) s (MovEnded s (60 + ch.val) 0) := by
  refine ⟨_, execImvRunComplete_done hm hcells hmap hu hd he hcrc, ?_⟩
  obtain ⟨ok, ⟨r, e⟩, hruns⟩ := movShown_runs h (c := 60 + ch.val) (by omega) hu (u.movData m d) hn
  generalize u.movShown (60 + ch.val) d (u.movData m d) = w at *
  have hend : w.movNext (60 + ch.val) m.halt = w.movEnd (60 + ch.val) 0 := if_pos (by simp [hruns, hleft])
  obtain ⟨hbusy, hdone, herr, -, r', e'⟩ := State.movEnd_does ok (c := 60 + ch.val) (by omega) (e := 0) (by decide)
  rw [hend]
  exact ⟨hbusy, hdone, herr, by rw [e', e]⟩

/-- With runs left the next one begins. -/
theorem execImvRunComplete_repeats (h : s.RegsOk) (he : u.movErr m d bad = none) (hcrc : d.crc ≠ 3) (hn : d.none_ = true) (hh : m.halt = false)
    (hleft : s.getF IMV_CHSTAT_RUNSLEFT (60 + ch.val) ≠ 0) : Gives (.imvRunComplete ch bad pre) s fun t =>
      t.getF IMV_CHSTAT_RUNSLEFT (60 + ch.val) = (s.getF IMV_CHSTAT_RUNSLEFT (60 + ch.val) - 1) % 2 ^ 16 ∧ t.getF IMV_CHPOS_POS (60 + ch.val) = 0 ∧
      t = { s with regs := t.regs, imv := tabSet s.imv (60 + ch.val) ⟨s.sq.csn, s.sq.mem, s.sq.poison, false⟩ } := by
  have hc : 60 + ch.val < 65536 := by omega
  refine ⟨_, execImvRunComplete_done hm hcells hmap hu hd he hcrc, ?_⟩
  obtain ⟨ok, ⟨r, e⟩, hruns⟩ := movShown_runs h (c := 60 + ch.val) (by omega) hu (u.movData m d) hn
  generalize u.movShown (60 + ch.val) d (u.movData m d) = w at *
  have hnext : w.movNext (60 + ch.val) m.halt = (w.setF IMV_CHSTAT_RUNSLEFT (s.getF IMV_CHSTAT_RUNSLEFT (60 + ch.val) - 1) (60 + ch.val)).movRun (60 + ch.val) := by
    rw [← hruns]
    exact if_neg (by simp [hruns, hleft, hh])
  have okr := regs_setF_rising w IMV_CHSTAT_RUNSLEFT (s.getF IMV_CHSTAT_RUNSLEFT (60 + ch.val) - 1) (60 + ch.val) ok
  have hval := getF_setF_self w IMV_CHSTAT_RUNSLEFT (s.getF IMV_CHSTAT_RUNSLEFT (60 + ch.val) - 1) (60 + ch.val) ok
  obtain ⟨cr, hpos, r', e'⟩ := State.movRun_does okr (60 + ch.val)
  rw [hnext]
  refine ⟨(cr.reads (L := [IMV_CHPOS_POS]) (by simpa using hc) hc (by decide)).trans hval, hpos, ?_⟩
  rw [e', e]
  rfl

end

end

end Sys2Proof.Machine
end

section
/-! PROOFS. The test of a parked quarter (18, R471); the CAN ports and the image mover command by command. -/
namespace Sys2Proof.Machine

/-! ### A parked quarter (R471) -/

section
variable {s : State}

/-- One lane of a parked quarter tested. -/
def State.parkedTest (s : State) (bad : List LaneNo) (n : Nat) : State :=
  if s.laneRole n = 3 then s
  else if bad.any (fun b => b.val = n) then (s.laneTested n).retireLane n
  else s.laneTested n

/-- A test leaves the Kerb, the clock and every other lane, and dates the lane's own. -/
theorem State.laneTested_frame (s : State) (n : Nat) : (s.laneTested n).kerb = s.kerb ∧ (s.laneTested n).now = s.now ∧
    (s.laneTested n).laneRt n = { s.laneRt n with testAt := s.now, step := 0 } ∧ ∀ k, k ≠ n → (s.laneTested n).laneRt k = s.laneRt k := by
  have own : (s.modLane n (fun l => { l with testAt := s.now, step := 0 })).laneRt n = { s.laneRt n with testAt := s.now, step := 0 } := tabGet_tabSet_self _ _ _ _
  have other (k : Nat) (hk : k ≠ n) : (s.modLane n (fun l => { l with testAt := s.now, step := 0 })).laneRt k = s.laneRt k := tabGet_tabSet_ne _ _ _ hk
  unfold State.laneTested
  dsimp only
  split
  · exact ⟨rfl, rfl, own, other⟩
  · exact ⟨rfl, rfl, own, other⟩

/-- A test leaves the lanes' roles. -/
theorem State.laneTested_role (h : s.RegsOk) (n : Nat) {k : Nat} (hk : k < 65536) : (s.laneTested n).laneRole k = s.laneRole k :=
  (State.laneTested_chg h n).reads (L := [XNG_STAT_TESTLATE]) (by simp) hk (by decide)

/-- Retiring a lane leaves the roles of the others. -/
theorem State.retireLane_role (h : s.RegsOk) {n k : Nat} (hn : n < 65536) (hk : k < 65536) (hne : k ≠ n) : (s.retireLane n).laneRole k = s.laneRole k := by
  refine (State.retireLane_does h hn).2.only _ _ fun x hx => ?_
  rcases List.mem_append.mp hx with hx | hx
  · exact lanestat_ne_laneShows (.inl rfl) hk x hx
  · simp only [List.mem_cons, List.not_mem_nil, or_false] at hx
    rcases hx with rfl | rfl | rfl | rfl | rfl
    · exact key_ne_of_place hk (Nat.zero_lt_succ _) (by decide)
    · exact key_ne_of_place hk (Nat.zero_lt_succ _) (by decide)
    · exact key_ne_of_place hk (Nat.zero_lt_succ _) (by decide)
    · exact key_ne_of_place hk hn (show XNG_LANESTAT_ROLE.off * 32 + XNG_LANESTAT_ROLE.lo ≠ XNG_LANESTAT_INTEST.off * 32 + XNG_LANESTAT_INTEST.lo by decide)
    · exact key_ne_of_ix (by show k % 65536 ≠ n % 65536; omega)

/-- A lane that is retired stays so under the test of any lane, and a lane that fails is retired. -/
theorem State.parkedTest_does (h : s.RegsOk) (bad : List LaneNo) {n : Nat} (hn : n < 65536) :
    (s.parkedTest bad n).RegsOk ∧ (s.parkedTest bad n).kerb = s.kerb ∧ (∀ k, k < 65536 → s.laneRole k = 3 → (s.parkedTest bad n).laneRole k = 3) ∧
    (bad.any (fun b => b.val = n) = true → (s.parkedTest bad n).laneRole n = 3) := by
  have ct := State.laneTested_chg h n
  have kerb := (s.laneTested_frame n).1
  unfold State.parkedTest
  by_cases h3 : s.laneRole n = 3
  · rw [if_pos h3]
    exact ⟨h, rfl, fun _ _ e => e, fun _ => h3⟩
  rw [if_neg h3]
  by_cases hb : bad.any (fun b => b.val = n) = true
  · rw [if_pos hb]
    obtain ⟨role, cr⟩ := State.retireLane_does ct.ok hn
    refine ⟨cr.ok, (State.retireLane_kerb _ _).trans kerb, fun k hk e => ?_, fun _ => role⟩
    by_cases hkn : k = n
    · rw [hkn]; exact role
    · exact (State.retireLane_role ct.ok hn hk hkn).trans ((State.laneTested_role h n hk).trans e)
  · rw [if_neg hb]
    exact ⟨ct.ok, kerb, fun k hk e => (State.laneTested_role h n hk).trans e, fun e => absurd e hb⟩

/-- All lanes of a list tested: the Kerb stands, a lane that is retired stays so, and those that fail are retired. -/
theorem parkedTests_does (bad : List LaneNo) {l : List Nat} (hl : ∀ n ∈ l, n < 65536) (h : s.RegsOk) :
    (l.foldl (fun s n => s.parkedTest bad n) s).kerb = s.kerb ∧
    ∀ k, k < 65536 → s.laneRole k = 3 ∨ (k ∈ l ∧ bad.any (fun b => b.val = k) = true) → (l.foldl (fun s n => s.parkedTest bad n) s).laneRole k = 3 := by
  induction l generalizing s with
  | nil => exact ⟨rfl, fun k hk e => e.elim id fun e => absurd e.1 (by simp)⟩
  | cons n l ih =>
    obtain ⟨ok, kerb, keeps, fails⟩ := State.parkedTest_does h bad (hl n (List.mem_cons_self ..))
    obtain ⟨kerb', roles⟩ := ih (fun k hk => hl k (List.mem_cons_of_mem _ hk)) ok
    refine ⟨kerb'.trans kerb, fun k hk e => roles k hk ?_⟩
    rcases e with e | ⟨hmem, hb⟩
    · exact .inl (keeps k hk e)
    · rcases List.mem_cons.mp hmem with rfl | hmem
      · exact .inl (fails hb)
      · exact .inr ⟨hmem, hb⟩

/-- With none failing, every lane that is not retired is dated. -/
theorem parkedTests_pass {l : List Nat} (hl : ∀ n ∈ l, n < 65536) (h : s.RegsOk) :
    (l.foldl (fun s n => s.parkedTest [] n) s).now = s.now ∧
    ∀ k, k < 65536 → (l.foldl (fun s n => s.parkedTest [] n) s).laneRt k = if k ∈ l ∧ s.laneRole k ≠ 3 then { s.laneRt k with testAt := s.now, step := 0 } else s.laneRt k := by
  induction l generalizing s with
  | nil => exact ⟨rfl, fun k _ => (if_neg (by simp)).symm⟩
  | cons n l ih =>
    have hl' := fun k hk => hl k (List.mem_cons_of_mem _ hk)
    rw [List.foldl_cons]
    by_cases h3 : s.laneRole n = 3
    · have e : s.parkedTest [] n = s := if_pos h3
      obtain ⟨now, rts⟩ := ih hl' h
      rw [e]
      refine ⟨now, fun k hk => (rts k hk).trans ?_⟩
      by_cases hkn : k = n
      · subst hkn
        rw [if_neg fun hx => hx.2 h3, if_neg fun hx => hx.2 h3]
      · simp [hkn]
    · have e : s.parkedTest [] n = s.laneTested n := (if_neg h3).trans (if_neg (by simp))
      obtain ⟨-, fnow, own, other⟩ := s.laneTested_frame n
      obtain ⟨now, rts⟩ := ih hl' (State.laneTested_chg h n).ok
      rw [e]
      refine ⟨now.trans fnow, fun k hk => (rts k hk).trans ?_⟩
      rw [State.laneTested_role h n hk, fnow]
      by_cases hkn : k = n
      · subst hkn
        rw [own, if_pos (⟨List.mem_cons_self .., h3⟩ : k ∈ k :: l ∧ s.laneRole k ≠ 3)]
        split <;> rfl
      · rw [other k hkn]
        simp [hkn]

/-- PARKED_QUARTER_TEST of a quarter that is not parked, or not for 8 hours. -/
theorem execParkedQuarterTest_idle {q : Quarter} {bad : List LaneNo} (hp : ∀ p, s.kerb.p2.find? (fun p => p.1 = q.val) = some p → s.now < p.2 + 28800000000000) :
    exec (.parkedQuarterTest q bad) s = .next s := by
  show execParkedQuarterTest q bad s = _
  unfold execParkedQuarterTest
  cases hf : s.kerb.p2.find? (fun p => p.1 = q.val) with
  | none => rfl
  | some p => exact congrArg Host.Outcome.next (if_pos (hp p hf))

/-- PARKED_QUARTER_TEST after 8 hours: its lanes are tested one after the other, and the quarter parks again. -/
theorem execParkedQuarterTest_tests {q : Quarter} {bad : List LaneNo} {p : Nat × Nat} (hf : s.kerb.p2.find? (fun p => p.1 = q.val) = some p) (hp : p.2 + 28800000000000 ≤ s.now) :
    exec (.parkedQuarterTest q bad) s = .next ((quarterLanes q.val).foldl (fun s n => s.parkedTest bad n)
      { s with kerb := { s.kerb with p2 := s.kerb.p2.map (fun x => if x.1 = q.val then (x.1, s.now) else x) } }) := by
  show execParkedQuarterTest q bad s = _
  unfold execParkedQuarterTest
  rw [hf]
  exact congrArg Host.Outcome.next (if_neg (by omega))

/-- The numbers of a quarter's lanes. -/
theorem quarterLanes_lt (q : Quarter) : ∀ n ∈ quarterLanes q.val, n < 65536 := by
  intro n hn
  obtain ⟨i, hi, rfl⟩ := List.mem_map.mp hn
  have := List.mem_range.mp hi
  omega

end

/-- Settles O54: the CAN ports, the image mover's set-up channels and a parked quarter, command by command. -/
theorem canAndMover : Obligations.CanAndMover := by
  unfold Obligations.CanAndMover
  intro s h
  refine ⟨fun port f => ⟨fun hon => ⟨s, ?_, rfl⟩, fun hon ht => execCanFrameReceive_takes h hon ht rfl⟩,
    fun port tm => ⟨fun hno => ⟨s, execCanFrameTransmitted_none hno, rfl⟩, fun n hs ho ht => execCanFrameTransmitted_slot h hs ho ht rfl,
      fun q hs ho ht => execCanFrameTransmitted_queue h hs ho ht⟩,
    fun port err own te re => ⟨fun hon => ⟨s, execCanError_off hon, rfl⟩, fun code hon he hm => he ▸ execCanError_listen h hon hm code,
      fun code hon he hm ho => he ▸ execCanError_counts h hon hm ho code, fun bit hon he ho => he ▸ execCanError_arb h hon ho bit,
      fun bit hon he ho => he ▸ execCanError_oneShot h hon ho bit⟩,
    fun port => ⟨fun hb => ⟨s, congrArg Host.Outcome.next (if_neg (by rw [hb]; decide)), rfl⟩, execCanBusOffRecovered_recovers h⟩,
    fun port map => ⟨_, rfl, State.canPort_modCan _ _ _, rfl⟩,
    fun pa hr => ⟨execCanRecover_starts h hr rfl, execCanRecover_none h hr rfl, execCanFlush_empties h hr rfl⟩,
    fun pa hr => ⟨fun v hc => ⟨_, rfl, State.written_imvIgnored (f := fun s => s.cmdImvStart pa v) h hr (by decide) (cmdImvStart_hardware h hc)⟩,
      fun v hc h64 hb => ⟨_, rfl, State.written_imvIgnored (f := fun s => s.cmdImvStart pa v) h hr (by decide) (cmdImvStart_busy h rfl hc h64 hb)⟩,
      fun v hc h64 hb => ?_,
      fun hc => ⟨_, rfl, State.written_imvIgnored (f := fun s => s.cmdImvHalt pa) h hr (by decide) (cmdImvHalt_hardware h hc)⟩,
      fun hc hm => execImvHalt_idle h hr rfl hc hm, fun m hc hm => execImvHalt_marks h hr rfl hc hm⟩,
    fun ch bad pre => ⟨fun hm => ⟨s, execImvRunComplete_none hm, rfl⟩, fun m hm hcells hmap =>
      ⟨fun o he => execImvRunComplete_ends_err hm hcells hmap rfl rfl h he, fun he hcrc hh => execImvRunComplete_halts hm hcells hmap rfl rfl h he hcrc hh,
        fun he hcrc hn hh => ⟨execImvRunComplete_last hm hcells hmap rfl rfl h he hcrc hn, execImvRunComplete_repeats hm hcells hmap rfl rfl h he hcrc hn hh⟩⟩⟩,
    fun q bad => ⟨fun hf => ⟨s, execParkedQuarterTest_idle (by simp [hf]), rfl⟩, fun p hf =>
      ⟨fun hp => ⟨s, execParkedQuarterTest_idle fun p' hp' => ?_, rfl⟩, fun hp => ⟨_, execParkedQuarterTest_tests hf hp, ?_⟩⟩⟩⟩
  · exact execCanFrameReceive_none hon
  · obtain ⟨barred, bad, refused⟩ := imvBegin_ends h (v := v) h64
    have cu := State.imvSet_does h (s.getF IMV_CHSEL_CH pa.code) v
    exact ⟨fun hm => execImvStart_ends h hr rfl hc h64 hb (by decide) ⟨_, cu.1⟩ cu.2 (barred hm),
      fun hm hd => execImvStart_ends h hr rfl hc h64 hb (by decide) ⟨_, cu.1⟩ cu.2 (bad hm hd),
      fun hm hd href => execImvStart_refused h hr rfl hc h64 hb (refused hm hd href),
      fun hm hd href => execImvStart_runs h hr rfl hc h64 hb hm hd href⟩
  · rw [hf] at hp'
    exact Option.some.inj hp' ▸ hp
  · obtain ⟨kerb, roles⟩ := parkedTests_does (s := { s with kerb := { s.kerb with p2 := s.kerb.p2.map (fun x => if x.1 = q.val then (x.1, s.now) else x) } }) bad (quarterLanes_lt q) h
    refine ⟨kerb, fun b hb hmem => roles b.val (quarterLanes_lt q _ hmem) (.inr ⟨hmem, List.any_eq_true.mpr ⟨b, hb, by simp⟩⟩), fun hnone => ?_⟩
    subst hnone
    obtain ⟨now, rts⟩ := parkedTests_pass (s := { s with kerb := { s.kerb with p2 := s.kerb.p2.map (fun x => if x.1 = q.val then (x.1, s.now) else x) } }) (quarterLanes_lt q) h
    exact ⟨now, fun n hn hrole => (rts n (quarterLanes_lt q n hn)).trans (if_pos ⟨hn, hrole⟩)⟩

end Sys2Proof.Machine
end
